-- ==== Sys2Proof/Word.lean ====
section
/-! DEFINITION. The word types of the model: bytes, registers, command words, cells, and the unit
numbers of R12 as bounded naturals. -/

namespace Sys2Proof

/-- One byte. -/
abbrev Byte := BitVec 8
/-- A byte string in ascending address (or wire) order. -/
abbrev Bytes := List Byte
/-- A 64-bit register (R102 and every other field map: all registers are 64 bits wide). -/
abbrev Word64 := BitVec 64
/-- A 64-byte command word or descriptor, bit 0 the least significant bit of byte 0 (R5, R6):
bit `b` of word `w` is bit `64 * w + b`. -/
abbrev CmdWord := BitVec 512
/-- A 64-byte cell, header byte 0 in bits 7..0 (R211). -/
abbrev CellW := BitVec 512

/-- Comb die number (R12). -/
abbrev DieId := Fin 8
/-- Global core id = die * 256 + cluster * 8 + core (R12). -/
abbrev CoreId := Fin 2048
/-- External optical port (R12). -/
abbrev ExtPort := Fin 32
/-- Router port with a link: external ports 0-31 and die ports 32-39 (R16). -/
abbrev LinkPort := Fin 40
/-- Router port, the internal port 40 included (R16). -/
abbrev RouterPort := Fin 41
/-- PCIe function: 0 is PF0, p + 1 is the VF of partition p (R12). -/
abbrev FnId := Fin 9
/-- Global ring number (R358). -/
abbrev RingId := Fin 1024
/-- Partition (R12). -/
abbrev PartId := Fin 8
/-- Group id (R257). -/
abbrev GroupId := Fin 1024

end Sys2Proof
end

