-- ==== Sys2Proof/Syntax.lean ====
section
/-! DEFINITION. The commands of the block: one constructor of `Instr` for each row of the table of
operations and events. A core's command carries the issuing core only: the word itself is read from
the die's memory at the core's fetch address (R115). Data that comes from outside the module (host
memory, cells, sensor readings, test verdicts) is an operand. -/

namespace Sys2Proof

/-- One part of a sample as it reaches the merge stage (R162, R164): the parameters of its SMP_PART
and its summary and candidates, with the core that issued it when that core is of this module. -/
structure SmpPart where
  job : BitVec 8
  sid : BitVec 16
  cidx : Fin 256
  mode : Fin 4
  temp : BitVec 16
  ktop : BitVec 11
  ncont : BitVec 9
  sourp : Bool
  m : BitVec 32
  z : BitVec 32
  cands : List (BitVec 20 × BitVec 32)
  srcMod : BitVec 12
  srcDie : DieId
  /-- stream id of its cells, which its ACK quotes. -/
  stream : BitVec 16
  deriving DecidableEq, Repr

/-- The name of a cap: (JOB, GID, STEP, ATT) (the section "Capping", R275). -/
structure CapName where
  job : BitVec 8
  gid : GroupId
  step : BitVec 32
  att : BitVec 8
  deriving DecidableEq, Repr

/-- An event record as its source hands it to the log controller, before SEQ, flags and CRC16 (R429). -/
structure LogEvent where
  code : BitVec 16
  src : Fin 16
  unit : BitVec 12
  sev : Fin 4
  payload : Bytes
  deriving DecidableEq, Repr

/-- A unit whose generators fail their known-answer test (R160): die, engine (0 array, 1 matrix-vector engine,
2 worker cluster) and physical unit. -/
abbrev KatUnit := DieId × Fin 3 × Fin 34

/-- What the tests of a bring-up phase found (R388, R392, R394): the units that failed, and the
conditions that stop bring-up. Physical unit numbers. -/
structure PhaseResult where
  /-- 0 none; otherwise the STOPCODE the phase ends in (1 no image, 2 hive clock, 3 hive BIST). -/
  stop : Fin 4
  /-- failed (die, physical array). -/
  arrays : List (DieId × Fin 7)
  /-- failed (die, physical cluster). -/
  clusters : List (DieId × Fin 34)
  /-- failed (die, physical SRAM bank). -/
  banks : List (DieId × Fin 66)
  /-- failed (die, channel). -/
  chans : List (DieId × Fin 16)
  /-- failed update lane groups. -/
  lanes : List (DieId × Fin 8)
  /-- dies whose matrix-vector engine failed. -/
  mves : List DieId
  /-- generators whose known-answer test failed (R160). -/
  kat : List KatUnit
  /-- the merge stage's generator failed its known-answer test (R160). -/
  katMerge : Bool
  /-- 64-byte records that a core received on its first and second fetch, where not the ones sent (R391). -/
  recs : List (CoreId × CellW × CellW)
  /-- failed (bank, laser). -/
  lasers : List (Fin 8 × Fin 35)
  /-- items re-run under cold rules on the warm path (RERUN bits of R394). -/
  rerun : BitVec 3
  /-- phase 0: junction temperatures in °C, die by die; the image's training-data format is the record's (R393). -/
  temps : List Int
  fmtSame : Bool
  /-- phase 1: REFCLK is present (R455). -/
  refclk : Bool
  deriving DecidableEq, Repr

/-- Why a port goes down (R222, R223): its input stays silent, its peer announces it, or an UP port loses training. -/
inductive DownCause
  | silent | goingDown | untrained
  deriving DecidableEq, Repr

/-- A codeword that carries part of a received cell (R292, R293): its lane, for a die port 192 × direction + lane;
its symbol errors before correction; and its skew in nanoseconds. -/
structure LaneRx where
  lane : Fin 384
  errs : BitVec 10
  skew : BitVec 8
  deriving DecidableEq, Repr

/-- Samples of a laser's power control loop (R304): power in percent of the setpoint in the last two samples, how
long it has stayed below 80% in ms, bias in 0.01 mA, monitor power in 0.01 dBm (0x8000: none, R322). As it stands
by default the laser is dark. -/
structure LaserSample where
  pow1 : BitVec 8 := 0
  pow2 : BitVec 8 := 0
  lowMs : BitVec 16 := 0
  bias : BitVec 16 := 0
  mpd : BitVec 16 := 0x8000
  deriving DecidableEq, Repr

/-- Whose SMP_OPEN reaches the sampler (R161): a core of this module issues the word, or the open of a core of
another module reaches the merge stage here, with the stream its ACK names and the requester's generation. -/
inductive SmpFrom
  | here (core : CoreId)
  | there (srcMod : BitVec 12) (srcDie : DieId) (stream : BitVec 16) (job pgen : BitVec 8) (word : CmdWord)
  deriving DecidableEq, Repr

/-- The commands of the block. -/
inductive Instr
  -- core-issued command words (R118); `core` issues the word at its fetch address
  | nop (core : CoreId)
  | endK (core : CoreId)
  | chain (core : CoreId)
  | wait (core : CoreId)
  | sig (core : CoreId)
  | cset (core : CoreId)
  | bar (core : CoreId)
  | arrWload (core : CoreId)
  | arrPass (core : CoreId)
  | arrLayout (core : CoreId)
  | arrDrain (core : CoreId)
  | arrCommandComplete (die : DieId) (arr : Fin 6) (region : Fin 16)
  | mveMv (core : CoreId)
  | mveCommandComplete (die : DieId)
  | vec (core : CoreId)
  | copy (core : CoreId)
  | copyComplete (die : DieId) (ce : Fin 4)
  | rngFill (core : CoreId)
  | smpOpen (sender : SmpFrom)
  | smpOpenResume
  | smpPart (core : CoreId)
  | smpPartArrive (part : SmpPart)
  | smpBroadcast (die : DieId) (job : BitVec 8) (sid : BitVec 16) (cidx : Fin 256)
      (m l : BitVec 32) (sour : Bool) (stream : BitVec 16)
  | smpContextTimeout (job : BitVec 8) (sid : BitVec 16)
  | smpOrphanTimeout (job : BitVec 8) (sid : BitVec 16) (cidx : Fin 256)
  | updRun (core : CoreId)
  | updPend (core : CoreId)
  | updNorm (core : CoreId)
  | updSave (core : CoreId)
  | updGateStart (die : DieId)
  | updCommandComplete (die : DieId)
  | swmBcast (core : CoreId)
  | swmReduce (core : CoreId)
  | swmPermute (core : CoreId)
  | swmOpComplete (die : DieId) (gid : GroupId) (opseq : BitVec 32)
  | capOpen (core : CoreId)
  | capVote (core : CoreId)
  | capAbort (core : CoreId)
  | capSeal (core : CoreId)
  -- descriptors (R363, R364): the ring and the 64 bytes fetched from its submission queue
  | launch (ring : RingId) (desc : CmdWord)
  | beatLaunchStart (ring : RingId) (tag : BitVec 16)
  | hdma (ring : RingId) (desc : CmdWord)
  | setup (ring : RingId) (desc : CmdWord) (blk : Bytes)
  | teardown (ring : RingId) (desc : CmdWord)
  | abort (ring : RingId) (desc : CmdWord)
  | partitionCreate (ring : RingId) (desc : CmdWord)
  | partitionDestroy (ring : RingId) (desc : CmdWord)
  | reclaim (ring : RingId) (desc : CmdWord)
  | reclaimWortDeadline (p : PartId)
  | reclaimRelease (p : PartId)
  -- rings and PCIe
  | sqTail (fn : FnId) (lidx : Fin 256) (v : BitVec 32)
  | cqHead (fn : FnId) (lidx : Fin 256) (v : BitVec 32)
  | descriptorComplete (ring : RingId) (tag : BitVec 16)
  | irqHoldExpire (ring : RingId)
  | ringEnable (fn : FnId) (ring : RingId)
  | ringDisable (fn : FnId) (ring : RingId)
  | bmeClear (fn : FnId)
  | bmeSet (fn : FnId)
  | flrVf (p : PartId)
  | flrPf0
  | apertureAccess (fn : FnId) (off : BitVec 34) (size : BitVec 7) (write : Bool) (data : Bytes)
  | dieWindowAccess (die : DieId) (off : BitVec 21) (size : Fin 9) (write : Bool) (data : Word64)
  | dieWindowNoAnswer (die : DieId) (off : BitVec 21) (write : Bool)
  | dmaWindowWrite (fn : FnId) (w : Fin 16) (lim : Bool) (v : Word64)
  | pcieCompletion (tag : Fin 1024) (data : Bytes)
  | pciCompletionTimeout (tag : Fin 1024)
  | hdmaProgressTimeout (ring : RingId) (tag : BitVec 16)
  -- wort and Ethernet
  | wortReady (cell : CellW)
  | wortRelease (die : DieId) (cell : CellW)
  | wortAck (p : PartId) (ackSeq nakSeq : Word64)
  | helloAck (p : PartId) (step : BitVec 32)
  | wortRetransmit (p : PartId)
  | keepalive (p : PartId)
  | wortRateCheck (p : PartId) (ackedBytes : Word64)
  | wortReservationGrant (die : DieId)
  | ethLinkChange (port : Fin 2) (speed : Fin 3)
  | neighbourSolicitation (port : Fin 2) (target : BitVec 128)
  | echoRequest (port : Fin 2) (src : BitVec 128) (data : Bytes)
  | ethFrameDiscard (port : Fin 2)
  -- route tables
  | rtLoad (fn : FnId) (gen : Fin 16) (image : Bytes)
  | rtxSummary (port : ExtPort) (gen : Fin 16) (summary : Bytes) (passed : Bool := false)
  | rtxTimeout (port : ExtPort)
  | rtAct
  | rtSwGo
  | bankDrainEnd (bank : Fin 2)
  -- cells
  | cellForward (inPort : RouterPort) (cell : CellW)
  | linkCellReceive (port : LinkPort) (tag : BitVec 16) (cell : CellW) (lanes : List LaneRx := [])
  | controlWordReceive (port : LinkPort) (slot : BitVec 132)
  | wrCell (tgt : FnId) (cell : CellW)
  | addCell (die : DieId) (cell : CellW)
  | rdreqCell (tgt : FnId) (cell : CellW)
  | sopenCell (die : DieId) (cell : CellW)
  | sdataCell (die : DieId) (cell : CellW)
  | ackCell (tgt : FnId) (cell : CellW)
  | nackCell (tgt : FnId) (cell : CellW)
  | streamRestart (tgt : FnId) (id : BitVec 16)
  | orphanTimeout (die : DieId) (srcMod : BitVec 12) (srcTgt : Fin 16) (stream : BitVec 16)
  | transferTimeout (tgt : FnId) (id : BitVec 16)
  | contextIdleFree (die : DieId) (srcMod : BitVec 12) (srcTgt : Fin 16) (stream : BitVec 16)
  | streamIdAvailable (tgt : FnId) (id : BitVec 16)
  | cellTtlDrop (port : RouterPort)
  | mgmtCell (port : RouterPort) (cell : CellW)
  -- ports, training, optics, lasers
  | identitySend (port : ExtPort)
  | identityReceive (port : ExtPort) (msg : BitVec 192)
  | portSignal (port : LinkPort)
  | trainStageDone (port : LinkPort)
  | trainStageOverrun (port : LinkPort) (lane : BitVec 16)
  | trainRetry (port : LinkPort)
  | portStall (port : LinkPort) (part : Option (CellW × Fin 64) := none)
  | portResume (port : LinkPort)
  | portDown (port : LinkPort) (cause : DownCause)
  | routeRevert (port : ExtPort)
  | portDisWrite (port : LinkPort) (dis : Bool)
  | dlanePermFault (die : DieId) (dir : Fin 2) (lane : Fin 192)
  | laserFail (bank : Fin 8) (laser : Fin 35) (sample : LaserSample := {})
  | laserTuneTimeout (bank : Fin 8)
  | laserTakeoverDone (bank : Fin 8)
  | laserAgeCheck (bank : Fin 8) (laser : Fin 35) (bias : BitVec 16) (mpd : BitVec 16 := 0x8000)
  | laserHandoverSwitch (bank : Fin 8)
  | spareDailyCheck (bank : Fin 8) (laser : Fin 35) (pass : Bool)
  | rxpwrSample (port : LinkPort) (dir : Fin 2) (lane : Fin 192) (pwr : BitVec 16)
  | openFibreShutoff (port : ExtPort) (unmated : Bool) (dark : Bool)
  | shutProbe (port : ExtPort)
  | shutRestore (port : ExtPort)
  | lullRequest (port : ExtPort)
  | lullAnswerTimeout (port : ExtPort)
  | lullWake (port : ExtPort)
  | wakeTone (port : ExtPort)
  | wakeTimeout (port : ExtPort)
  -- unit faults and self-tests
  | arrResidueFault (die : DieId) (arr : Fin 6) (region : Fin 16) (cause : Fin 3)
      (column : Fin 256) (entry : Fin 1024)
  | arrSelftestDone (die : DieId) (phys : Fin 7) (pass : Bool)
  | spareArraySelftest (die : DieId) (phys : Fin 7) (pass : Bool)
  | mveResidueFault (die : DieId) (cause : Fin 3) (column : BitVec 16) (entry : BitVec 16)
  | mveSelftestDone (die : DieId) (pass : Bool)
  | rngParityFault (die : DieId) (engine : Fin 4) (unit : Byte) (lane : BitVec 16)
  | updLaneFault (die : DieId) (group : Fin 8)
  | waitTimeout (core : CoreId)
  | coreStallResume (core : CoreId)
  | prefetchRelease (die : DieId)
  | sramScrub (die : DieId) (line : Fin 2097152) (flips : List (Fin 32 × Bool))
  | clusterTakeover (die : DieId) (cluster : Fin 32)
  | bankTakeover (die : DieId) (bank : Fin 64)
  | lpddrScrub (die : DieId) (chan : Fin 16) (q : BitVec 27) (err : List (Fin 68 × Byte))
  | wcbWrite (die : DieId) (off : BitVec 37) (data : Bytes) (tag : Nat)
  | wcbAgeEvict (die : DieId) (chan : Fin 16) (q : BitVec 27)
  | homeRead (die : DieId) (off : BitVec 37) (len : Fin 61) (err : List (Fin 68 × Byte))
  | mr4Poll (pkg : Fin 32) (temp : Byte)
  | channelFail (chan : Fin 128) (cause : Fin 3)
  | memRetire (fn : FnId) (die : DieId) (chan : Fin 16) (page : BitVec 17)
  -- swarm engines and caps
  | segmentOpen (cell : CellW)
  | swmCell (cell : CellW)
  | swmReplan (job : BitVec 8) (gid : GroupId)
  | swmOpTimeout (die : DieId) (gid : GroupId) (opseq : BitVec 32)
  | capvVote (cell : CellW)
  | capvVector (cell : CellW)
  | capvWitnessVector (cell : CellW)
  | capvWitnessAck (cell : CellW)
  | capvAsk (cell : CellW)
  | capvAbortRequest (cell : CellW)
  | rollbackDone (die : DieId)
  | voteToExpire (cap : CapName)
  | capAskTimer (tgt : FnId)
  | captoExpire (tgt : FnId)
  | capRecordFree (cap : CapName)
  -- fencing and resets
  | fenceList (fn : FnId) (list : Bytes)
  | fenceNoticeSend (entry : Fin 512)
  | fenceNoticeReceive (die : Option DieId)
  | coreReset (core : CoreId) (kat : Bool := false)
  | clusterReset (die : DieId) (cluster : Fin 32) (selftest pass : Bool) (kat : Bool := false)
  | partitionReset (p : PartId) (kat : List KatUnit := [])
  | moduleReset (cold : Bool)
  -- bring-up
  | powerOn
  | bringupPhaseEnd (r : PhaseResult)
  | fwBootFallback
  | peerWaitExpire
  | wireLoad (fn : FnId) (table : Bytes)
  | retainStore (readBackOk : Bool)
  | fwWrite (signatureOk : Bool) (seq version : BitVec 32)
  -- registers
  | rngTestGo (die : DieId)
  | mgkeyCommit
  | configLock
  | counterWrite (die : DieId) (n : Fin 1024) (v : BitVec 32)
  | safetyThresholdWrite (off : BitVec 26) (v : Word64)
  | imaskWrite (v : Word64)
  | timArm
  | registerWrite (fn : FnId) (off : BitVec 26) (size : Fin 9) (v : Word64)
  -- clocks and time
  | beatEdge (late : Bool)
  | beatLoss
  | beatReturn
  | refclkLoss
  | refclkReturn
  -- power and sideband
  | brownOut
  | inputOvervoltage
  | aonPowerLoss
  | ilockRemoval
  | ilockRestart
  | sidebandContention (pin : Fin 3)
  | sidebandRetry (pin : Fin 3)
  -- safety
  | tjThrottle (unit : FnId) (pair : Fin 24) (temp : BitVec 16)
  | throttleStep (die : DieId) (hot : Bool)
  | tjShutdown (unit : FnId) (pair : Fin 24) (temp : BitVec 16)
  | sensorDisagreement (unit : FnId) (pair : Fin 24) (temp : BitVec 16)
  | railOvercurrent (rail : Fin 20) (amps : BitVec 16)
  | inputOvercurrent (amps : BitVec 16)
  | coolantLoss (outlet : Bool) (reading : BitVec 16)
  | powerLimitExceeded (watts : BitVec 12)
  | watchdogExpire
  -- log and management ports
  | logRecord (e : LogEvent)
  | logQueueRelease (die : DieId)
  | logFailure (mirror : Bool) (cause : Fin 3) (addr : BitVec 32)
  | lastgaspRepeat
  | heartbeat
  | resetReq (header : Bytes) (nonce : Word64) (tag : Bytes)
  -- test access
  | tapReset
  | bypass (tap : FnId) (tdi : Bool)
  | idcode (tap : FnId)
  | samplePreload (tap : FnId) (pins preload : BitVec 64)
  | extest (tap : FnId) (pins : BitVec 64)
  | diesel (sel : BitVec 8)
  | ijtag (tap : FnId) (instrument : Fin 9) (unit : BitVec 8) (run : Bool) (reading : Word64)
      (queenBusy : Bool)
  -- later rows of the table
  | queenRestartDone
  | causeCleared
  | probeSeen (port : ExtPort)
  | lossOfSymbols (port : ExtPort)
  | slewingDone
  | alignmentLost
  | tagQuarantineEnd (tag : Fin 1024)
  | hostCredits (n : BitVec 32)
  | mgmtLinkChange (port : Fin 2) (up : Bool)
  | instrumentRunDone
  deriving DecidableEq, Repr

end Sys2Proof
end

