-- ==== Sys2Proof/Config.lean ====
section
/-! DEFINITION. What an implementation or an installation fixes and the spec does not state, and the
free values: constants without a body, of which nothing can be proved. -/

namespace Sys2Proof.Config

/-- A fresh free value for each reading of the model's counter `State.free` (log entry 3). -/
opaque freeValue : Nat → BitVec 64

/-- Figures of a swarm plan (R261, R268): a function of the group's member words and the wiring
table, which the spec does not spell out (log entry 17). -/
structure PlanFig where
  ok : Bool
  depthL : Nat
  depthB : Nat
  /-- relay entries that the plan installs in one hive, at most. -/
  relays : Nat
  /-- thousandths of the stripe edges whose node is a relay. -/
  rho : Nat
  /-- R_plan in GB/s: the reduce figure, and the broadcast figure (R269). -/
  rate : Nat
  bcast : Nat
  /-- longest fibre on a plan edge, in metres. -/
  longest : Nat
  /-- every dragonfly group of the installation is populated and wired, and the plan's ports carry no other
  declared traffic (R270). -/
  clear : Bool
  deriving DecidableEq, Repr, Inhabited

/-- The plan of a group (member words, wiring table bytes, epoch) (R261). -/
opaque plan : List Nat → List (BitVec 8) → Nat → PlanFig

/-- Segments that reach this hive from other modules for one op of a group and one root member (member
words, wiring table, epoch, the op by its reading of `State.free`, root), where members lie on other modules (R261, R265): given by the
plan's trees, which the spec leaves to the planner. -/
opaque planSegments : List Nat → List (BitVec 8) → Nat → Nat → Nat → Nat

/-- Router ports of this module's next tree nodes for a group and a tree: root module, plus 4096 times 0 for
the latency tree or the stripe + 1, plus 2^20 toward the root (member words, wiring table, epoch, tree; R261). -/
opaque planPorts : List Nat → List (BitVec 8) → Nat → Nat → List Nat

/-- Relay hives of a plan epoch and the relay entries each takes: (module, entries) (R261; log entry 17). -/
opaque planRelays : List Nat → List (BitVec 8) → Nat → List (Nat × Nat)

/-- Router ports to which a relay passes a segment of a tree: (JOB, GID, GSUM, epoch), wiring table, root or owner
member plus 4096 times the tree as in `planPorts` (R261; log entry 70). -/
opaque relayPorts : List Nat → List (BitVec 8) → Nat → List Nat

/-- Largest contribution to an op of its members on other modules, in bytes, which no cell tells this hive
(member words, the op by its reading of `State.free`; R268, log entry 71). -/
opaque farLargest : List Nat → Nat → Nat

/-- The payload of a swarm management message between queens, and the numbers that a payload stands for: the spec
gives these messages no layout (R261, R267; log entry 70). -/
opaque msgBytes : List Nat → List (BitVec 8)
opaque msgNums : List (BitVec 8) → List Nat

/-- Hops and fibre metres from member 0's module to the witness's module (R285). -/
opaque witnessPath : List Nat → List (BitVec 8) → Nat × Nat

/-- Bytes of the longest of NOPS ops that share DBYTES (R285): the group's header declares only the sum;
used between an even share and DBYTES (log entry 23). -/
opaque longestOp : Nat → Nat → Nat

/-- Base, relative to the die's LPDDR5X, that the queen chooses for a die's slots (R192, R206). -/
opaque slotBase : Nat → Nat → Nat → Nat

/-- Usable LPDDR5X of another module in bytes: R3 compares a job's demand with the smallest module of its
partition set, of which this module holds no register (log entry 39). -/
opaque usableOf : Nat → Nat

/-- Byte of host memory (reading of `State.free`, address) where a register write alone starts a load and no
command carries the bytes (log entry 40). -/
opaque hostByte : Nat → Nat → BitVec 8

/-- A byte of the control stores in the comb image of a version, and the VEN bit of a core's record in it: contents of
the firmware image, which no command carries (R391; log entry 75). -/
opaque combStore : Nat → Nat → BitVec 8
opaque combVen : Nat → Nat → Bool

/-- Cells that the hive's management queue holds, whose size the spec does not state (R247; log entry 65). -/
opaque mgmtQueue : Nat

/-- Maximum payload of the host's PCIe link in bytes, at most 512 (R351; log entry 60). -/
def maxPayload : Nat := 512

/-- Ordering code of the module: 1 GXF-960-1T, 2 GXF-960-512 (R1, R481); log entry 5. -/
def order : Nat := 1

end Sys2Proof.Config
end

