-- ==== Sys2Proof/Machine/Bits.lean ====
section
/-! DEFINITION. Bit fields, byte order (R6), wire order, CRC-16 (R9) and CRC-32C (R212). -/

namespace Sys2Proof.Machine

/-- The unsigned field of `w` bits from bit `lo` of a natural number. -/
def bitsN (x lo w : Nat) : Nat := (x / 2 ^ lo) % 2 ^ w

/-- One bit of a natural number. -/
def bitN (x b : Nat) : Bool := (x / 2 ^ b) % 2 = 1

/-- The field `[lo + w - 1 : lo]` of a bit vector. -/
def fld {n : Nat} (x : BitVec n) (lo w : Nat) : Nat := bitsN x.toNat lo w

/-- One bit of a bit vector. -/
def bit {n : Nat} (x : BitVec n) (b : Nat) : Bool := x.getLsbD b

/-- `x` with the field `[lo + w - 1 : lo]` replaced by the low `w` bits of `v`. -/
def putFld {n : Nat} (x : BitVec n) (lo w v : Nat) : BitVec n :=
  let m : BitVec n := BitVec.ofNat n ((2 ^ w - 1) * 2 ^ lo)
  (x &&& ~~~m) ||| (BitVec.ofNat n (v % 2 ^ w * 2 ^ lo) &&& m)

/-- Two's complement value of the low `w` bits. -/
def signedN (w x : Nat) : Int :=
  let y := x % 2 ^ w
  if y < 2 ^ (w - 1) then (y : Int) else (y : Int) - (2 ^ w : Nat)

/-- The low `w` bits of an integer. -/
def wrapI (w : Nat) (x : Int) : Nat := (x % (2 ^ w : Nat)).toNat

/-- 1 for true, 0 for false. -/
def b2n (b : Bool) : Nat := if b then 1 else 0

/-- Little-endian value of a byte string (R6). -/
def leVal : Bytes → Nat
  | [] => 0
  | b :: bs => b.toNat + 256 * leVal bs

/-- The `n` bytes of a value, least significant first (R6). -/
def leBytes : Nat → Nat → Bytes
  | 0, _ => []
  | n + 1, v => BitVec.ofNat 8 v :: leBytes n (v / 256)

/-- Big-endian value of a byte string. -/
def beVal (bs : Bytes) : Nat := leVal bs.reverse

/-- The `n` bytes of a value, most significant first. -/
def beBytes (n v : Nat) : Bytes := (leBytes n v).reverse

/-- Byte `i` of a byte string; a byte past its end reads 0. -/
def byteAt (bs : Bytes) (i : Nat) : Byte := bs.getD i 0

/-- `n` bytes of a byte string from `i`, least significant first. -/
def leAt (bs : Bytes) (i n : Nat) : Nat := leVal ((bs.drop i).take n)

/-- Pads or cuts a byte string to `n` bytes. -/
def toLen (n : Nat) (bs : Bytes) : Bytes := bs.take n ++ List.replicate (n - bs.length) 0

/-- The CRC-16 step of R9 over one bit. -/
def crc16Bit (c : Nat) (b : Bool) : Nat :=
  let top := decide (0x8000 ≤ c)
  let c' := (c * 2) % 0x10000
  if top != b then Nat.xor c' 0x1021 else c'

/-- The CRC-16 step over one byte, most significant bit first. -/
def crc16Byte (c : Nat) (b : Byte) : Nat :=
  [7, 6, 5, 4, 3, 2, 1, 0].foldl (fun c i => crc16Bit c (b.getLsbD i)) c

/-- The CRC-16 of R9: polynomial 0x1021, initial value 0xFFFF, no reflection, no final XOR. -/
def crc16 (bs : Bytes) : Nat := bs.foldl crc16Byte 0xFFFF

/-- The reflected CRC-32C step over one bit (polynomial 0x1EDC6F41, reflected 0x82F63B78). -/
def crc32cBit (c : Nat) : Nat :=
  if c % 2 = 1 then Nat.xor (c / 2) 0x82F63B78 else c / 2

def crc32cByte (c : Nat) (b : Byte) : Nat :=
  [0, 1, 2, 3, 4, 5, 6, 7].foldl (fun c _ => crc32cBit c) (Nat.xor c b.toNat)

/-- The CRC-32C of R212. -/
def crc32c (bs : Bytes) : Nat := Nat.xor (bs.foldl crc32cByte 0xFFFFFFFF) 0xFFFFFFFF

/-- Saturating increment of a `w`-bit counter. -/
def satAdd (w x n : Nat) : Nat := min (x + n) (2 ^ w - 1)

/-- Serial-number comparison: `b` is newer than `a` in `w`-bit sequence numbers (R417). -/
def serialNewer (w a b : Nat) : Bool :=
  let d := (b + 2 ^ w - a % 2 ^ w) % 2 ^ w
  decide (1 ≤ d ∧ d ≤ 2 ^ (w - 1) - 1)

end Sys2Proof.Machine
end

