-- ==== Sys2Proof/Machine/Fp.lean ====
section
/-! DEFINITION. Number formats and exact arithmetic: the encodings of R38 to R49, the rounding of
R58 and R59, the conversions of R61, FP32 arithmetic, the windowed products of R51 and the
scales of R45 and R66. Values are exact dyadic numbers until a rule rounds them. -/

namespace Sys2Proof.Machine

/-- NFLAGS bits of R63. -/
def nfPUF : Nat := 1
def nfPSAT : Nat := 2
def nfASAT : Nat := 4
def nfNF : Nat := 8
def nfCOVF : Nat := 16
def nfCUF : Nat := 32
def nfQCLAMP : Nat := 64
def nfSOURED : Nat := 128

/-- Union of two flag sets. -/
def orF (a b : Nat) : Nat := Nat.lor a b

/-- A finite dyadic number `m * 2^e`. -/
structure Dy where
  m : Int
  e : Int
  deriving DecidableEq, Repr

/-- A decoded value: not a number, an infinity, or a finite number with its sign kept for zeros. -/
inductive Num
  | nan
  | inf (neg : Bool)
  | fin (neg : Bool) (m : Nat) (e : Int)
  deriving DecidableEq, Repr

/-- How a floating format ends its code range (R39). -/
inductive Special
  /-- no infinity, no NaN (E2M1). -/
  | none
  /-- the all-ones code of each sign is NaN (E4M3). -/
  | nanOnly
  /-- infinity and NaN in the top exponent. -/
  | ieee
  deriving DecidableEq, Repr

/-- A floating element format (R39): exponent width, mantissa width, bias, special codes, code of the
largest finite magnitude, canonical NaN (R62). -/
structure FFmt where
  ew : Nat
  mw : Nat
  bias : Nat
  special : Special
  maxCode : Nat
  nanCode : Nat
  deriving DecidableEq, Repr

def fE2M1 : FFmt := ⟨2, 1, 1, .none, 0x7, 0⟩
def fE4M3 : FFmt := ⟨4, 3, 7, .nanOnly, 0x7E, 0x7F⟩
def fE5M2 : FFmt := ⟨5, 2, 15, .ieee, 0x7B, 0x7F⟩
def fFP16 : FFmt := ⟨5, 10, 15, .ieee, 0x7BFF, 0x7E00⟩
def fBF16 : FFmt := ⟨8, 7, 127, .ieee, 0x7F7F, 0x7FC0⟩
def fFP32 : FFmt := ⟨8, 23, 127, .ieee, 0x7F7FFFFF, 0x7FC00000⟩

/-- Decoding of an element (R39, R40). -/
def decodeF (f : FFmt) (c : Nat) : Num :=
  let neg := bitN c (f.ew + f.mw)
  let E := bitsN c f.mw f.ew
  let M := bitsN c 0 f.mw
  let mag := bitsN c 0 (f.ew + f.mw)
  let finite : Num :=
    if E = 0 then .fin neg M (1 - (f.bias : Int) - f.mw)
    else .fin neg (2 ^ f.mw + M) ((E : Int) - f.bias - f.mw)
  match f.special with
  | .none => finite
  | .nanOnly => if mag = 2 ^ (f.ew + f.mw) - 1 then .nan else finite
  | .ieee => if E = 2 ^ f.ew - 1 then (if M = 0 then .inf neg else .nan) else finite

/-- An integer as a value; an exact zero is +0. -/
def numOfInt (x : Int) (e : Int) : Num := .fin (decide (x < 0)) x.natAbs e

/-- Rounding modes of R58 and R59; `sr u` carries the 16-bit draw. -/
inductive Rnd
  | rne
  | sr (u : Nat)
  deriving DecidableEq, Repr

/-- `x / 2^s` rounded to an integer: R58 (ties to even; `sticky` says that bits below `x` were cut
off toward zero), or R59. -/
def roundShift (md : Rnd) (x : Int) (s : Nat) (sticky : Bool) : Int :=
  match md with
  | .rne =>
    let a := x.natAbs
    let n := a / 2 ^ s
    let rem := a % 2 ^ s
    let h := 2 ^ s
    let up := if 2 * rem > h then true
      else if 2 * rem = h then sticky || n % 2 = 1
      else false
    let r : Int := if up then (n : Int) + 1 else n
    if x < 0 then -r else r
  | .sr u =>
    let d : Int := (2 ^ s : Nat)
    let n := x.fdiv d
    let F := ((x.fmod d) * 65536).fdiv d
    if F + u ≥ 65536 then n + 1 else n

/-- The magnitude code of `n * 2^q` in format `f`, where `q` is at least the subnormal spacing and
`n` has at most `mw + 1` significant bits (or is the next power of two); codes above `maxCode` mean
overflow. -/
def magCode (f : FFmt) (n : Nat) (q : Int) : Nat :=
  if n < 2 ^ f.mw then n
  else
    let L := Nat.log2 n
    let E := ((L : Int) + q + f.bias).toNat
    E * 2 ^ f.mw + (n / 2 ^ (L - f.mw) - 2 ^ f.mw)

/-- The exponent of the spacing of `f` at magnitude `m * 2^e` (R59). -/
def spacing (f : FFmt) (m : Nat) (e : Int) : Int :=
  max ((Nat.log2 m : Int) + e - f.mw) (1 - (f.bias : Int) - f.mw)

/-- A finite non-zero `m * 2^e` rounded to `f`: its magnitude code, uncapped. -/
def roundMag (f : FFmt) (md : Rnd) (neg : Bool) (m : Nat) (e : Int) (sticky : Bool) : Nat :=
  let q := spacing f m e
  let x : Int := if neg then -(m : Int) else m
  let n := if q ≤ e then x * (2 ^ (e - q).toNat : Nat) else roundShift md x (q - e).toNat sticky
  magCode f n.natAbs q

/-- Sign bit of a code. -/
def signCode (f : FFmt) (neg : Bool) (mag : Nat) : Nat :=
  (if neg then 2 ^ (f.ew + f.mw) else 0) + mag

/-- Conversion to a floating target (R61, R62), with the NFLAGS it sets. `satFinite` selects the
saturating targets (FP8 and MX elements). -/
def convF (f : FFmt) (satFinite : Bool) (md : Rnd) (x : Num) : Nat × Nat :=
  match x with
  | .nan => (f.nanCode, nfNF)
  | .inf neg =>
    if f.special = .ieee then (signCode f neg (2 ^ (f.ew + f.mw) - 2 ^ f.mw), nfNF) else (f.nanCode, nfNF)
  | .fin neg m e =>
    if m = 0 then (signCode f neg 0, 0)
    else
      let c := roundMag f md neg m e false
      if c > f.maxCode then
        if satFinite then (signCode f neg f.maxCode, nfCOVF)
        else (signCode f neg (2 ^ (f.ew + f.mw) - 2 ^ f.mw), orF nfCOVF nfNF)
      else (signCode f neg c, if c = 0 then nfCUF else 0)

/-- Exact value of a finite `Num` as a dyadic. -/
def Num.dy : Num → Dy
  | .fin neg m e => ⟨if neg then -(m : Int) else m, e⟩
  | _ => ⟨0, 0⟩

def Num.finite : Num → Bool
  | .fin _ _ _ => true
  | _ => false

/-- The integer value of a dyadic in units of `2^u`, rounded. -/
def Dy.inUnits (md : Rnd) (x : Dy) (u : Int) : Int :=
  if u ≤ x.e then x.m * (2 ^ (x.e - u).toNat : Nat) else roundShift md x.m (u - x.e).toNat false

/-- Exact sum. -/
def Dy.add (a b : Dy) : Dy :=
  let e := min a.e b.e
  ⟨a.m * (2 ^ (a.e - e).toNat : Nat) + b.m * (2 ^ (b.e - e).toNat : Nat), e⟩

def Dy.neg (a : Dy) : Dy := ⟨-a.m, a.e⟩

/-- Clamp to a range. -/
def clampI (lo hi x : Int) : Int := max lo (min hi x)

/-- Conversion to INT8 (R61): the byte and the flags. -/
def convInt8 (md : Rnd) (x : Num) : Nat × Nat :=
  match x with
  | .nan => (0, nfNF)
  | .inf neg => (if neg then 0x80 else 0x7F, nfNF)
  | .fin neg m e =>
    let r := Dy.inUnits md (Num.dy (.fin neg m e)) 0
    let c := clampI (-128) 127 r
    (wrapI 8 c, if r ≠ c then nfCOVF else if m ≠ 0 ∧ r = 0 then nfCUF else 0)

/-- Position of the leading bit of a finite magnitude: floor(log2). -/
def Num.lead : Num → Option Int
  | .fin _ m e => if m = 0 then none else some ((Nat.log2 m : Int) + e)
  | _ => none

/-- Largest leading-bit position over a block; none where every value is zero. -/
def leadMax : List Num → Option Int
  | [] => none
  | x :: xs =>
    match x.lead, leadMax xs with
    | some a, some b => some (max a b)
    | some a, none => some a
    | none, r => r

/-- `x * 2^-k`, exactly. -/
def Num.scale (x : Num) (k : Int) : Num :=
  match x with
  | .fin neg m e => .fin neg m (e + k)
  | y => y

/-- Rounding mode of element `i`: RNE, or SR with that element's draw. -/
def rndAt (us : Option (Nat → Nat)) (i : Nat) : Rnd :=
  match us with
  | none => .rne
  | some g => .sr (g i)

/-- Conversion of one MX block (R45, R61): scale byte, element codes, flags. -/
def convMx (f : FFmt) (emax : Nat) (us : Option (Nat → Nat)) (xs : List Num) : Nat × List Nat × Nat :=
  if xs.any (fun x => !x.finite) then (0xFF, xs.map fun _ => 0, nfNF)
  else
    let X : Int := match leadMax xs with
      | none => 0
      | some l => clampI 0 254 (l - emax + 127)
    let es := xs.zipIdx.map fun (x, i) => convF f true (rndAt us i) (x.scale (127 - X))
    (X.toNat, es.map (·.1), es.foldl (fun a e => orF a e.2) 0)

/-- The value of an E8M0 scale: its exponent; none for 0xFF (R39). -/
def e8m0 (x : Nat) : Option Int := if x % 256 = 255 then none else some ((x % 256 : Nat) - 127 : Int)

/-- One gradient element quantized (R64, R65): q, the new residue, flags. -/
def gradElem (md : Rnd) (g : Dy) (rho : Int) (eq er : Int) : Int × Int × Nat :=
  let v := Dy.add g ⟨rho, er - 134⟩
  let u := eq - 127
  let q0 := Dy.inUnits md v u
  let q := clampI (-127) 127 q0
  let r := Dy.add v ⟨-q, u⟩
  let p0 := Dy.inUnits .rne r (u - 7)
  let p := clampI (-127) 127 p0
  (q, p, orF (if q0 ≠ q ∨ p0 ≠ p then nfQCLAMP else 0) (if v.m ≠ 0 ∧ q0 = 0 then nfCUF else 0))

/-- The scale code of the next step from a reduced sum (R66): `a` is the largest |S|, `n` the number of
contributing members. -/
def nextEq (eq a n : Nat) : Nat :=
  if a = 0 then eq
  else
    let c := (a + n - 1) / max n 1
    let k := (List.range 40).find? fun j => decide (c * 64 ≤ 63 * 2 ^ j)
    let k : Int := match k with | some j => (j : Int) - 6 | none => 34
    (clampI 7 254 ((eq : Int) + k)).toNat

/-- A product brought into the window (R51): its multiple of 2^WB, and PUF and PSAT. -/
def windowProd (wb : Int) (p : Dy) : Int × Nat :=
  let r := Dy.inUnits .rne p wb
  let exact := decide (Dy.add p ⟨-r, wb⟩ = ⟨0, min p.e wb⟩)
  let lim : Int := 2 ^ 36
  let s := clampI (-(lim - 1)) (lim - 1) r
  (s, orF (if exact then 0 else nfPUF) (if s ≠ r then nfPSAT else 0))

/-- A drained sum (R53): the value in the 56-bit range, and ASAT. -/
def drainSum (a : Int) : Int × Nat :=
  let s := clampI (-(2 ^ 55)) (2 ^ 55 - 1) a
  (s, if s ≠ a then nfASAT else 0)

/-- Exact product of two decoded operands; none where one is not finite (R54). -/
def numMul (a b : Num) : Option Num :=
  match a, b with
  | .fin na ma ea, .fin nb mb eb => some (.fin (na != nb) (ma * mb) (ea + eb))
  | _, _ => none

/-! FP32 arithmetic, each operation rounded once to nearest even (R58). Codes are 32-bit numbers. -/

def d32 (c : Nat) : Num := decodeF fFP32 c
/-- An exact value rounded to FP32. -/
def r32 (x : Num) : Nat := (convF fFP32 false .rne x).1
def nan32 : Nat := 0x7FC00000
def inf32 (neg : Bool) : Nat := if neg then 0xFF800000 else 0x7F800000

/-- Exact sum of two values; an exact zero sum of opposite signs is +0. -/
def numAdd (a b : Num) : Num :=
  match a, b with
  | .nan, _ => .nan
  | _, .nan => .nan
  | .inf x, .inf y => if x = y then .inf x else .nan
  | .inf x, _ => .inf x
  | _, .inf y => .inf y
  | .fin na ma ea, .fin nb mb eb =>
    if ma = 0 ∧ mb = 0 then .fin (na && nb) 0 0
    else
      let s := Dy.add (Num.dy (.fin na ma ea)) (Num.dy (.fin nb mb eb))
      numOfInt s.m s.e

def numNeg : Num → Num
  | .nan => .nan
  | .inf x => .inf (!x)
  | .fin n m e => .fin (!n) m e

/-- Exact product, infinities and NaN included. -/
def numProd (a b : Num) : Num :=
  match a, b with
  | .nan, _ => .nan
  | _, .nan => .nan
  | .inf x, .inf y => .inf (x != y)
  | .inf x, .fin n m _ => if m = 0 then .nan else .inf (x != n)
  | .fin n m _, .inf y => if m = 0 then .nan else .inf (n != y)
  | .fin na ma ea, .fin nb mb eb => .fin (na != nb) (ma * mb) (ea + eb)

def f32add (a b : Nat) : Nat := r32 (numAdd (d32 a) (d32 b))
def f32sub (a b : Nat) : Nat := r32 (numAdd (d32 a) (numNeg (d32 b)))
def f32mul (a b : Nat) : Nat := r32 (numProd (d32 a) (d32 b))
/-- Fused multiply-add: one rounding. -/
def f32fma (a b c : Nat) : Nat := r32 (numAdd (numProd (d32 a) (d32 b)) (d32 c))
def f32neg (a : Nat) : Nat := if d32 a = .nan then nan32 else Nat.xor a 0x80000000
def f32abs (a : Nat) : Nat := if d32 a = .nan then nan32 else a % 0x80000000

/-- A magnitude with cut-off bits, rounded to FP32. -/
def r32sticky (neg : Bool) (m : Nat) (e : Int) (sticky : Bool) : Nat :=
  if m = 0 then signCode fFP32 neg 0
  else
    let c := roundMag fFP32 .rne neg m e sticky
    if c > fFP32.maxCode then inf32 neg else signCode fFP32 neg c

/-- Quotient, correctly rounded. -/
def f32div (a b : Nat) : Nat :=
  match d32 a, d32 b with
  | .nan, _ => nan32
  | _, .nan => nan32
  | .inf _, .inf _ => nan32
  | .inf x, .fin n _ _ => inf32 (x != n)
  | .fin n _ _, .inf y => signCode fFP32 (n != y) 0
  | .fin na ma ea, .fin nb mb eb =>
    if mb = 0 then (if ma = 0 then nan32 else inf32 (na != nb))
    else
      let x := ma * 2 ^ 64
      r32sticky (na != nb) (x / mb) (ea - eb - 64) (decide (x % mb ≠ 0))

/-- Integer square root by fixed fuel: the largest `r` below `2^k` with `r * r ≤ n`. -/
def isqrtGo : Nat → Nat → Nat → Nat
  | 0, _, r => r
  | k + 1, n, r =>
    let t := r + 2 ^ k
    isqrtGo k n (if t * t ≤ n then t else r)

/-- Square root of a natural number below `2^128`, rounded down. -/
def isqrt (n : Nat) : Nat := isqrtGo 64 n 0

/-- Square root, correctly rounded; −0 gives −0, a negative operand NaN. -/
def f32sqrt (a : Nat) : Nat :=
  match d32 a with
  | .nan => nan32
  | .inf neg => if neg then nan32 else inf32 false
  | .fin neg m e =>
    if m = 0 then a
    else if neg then nan32
    else
      let odd := e % 2 ≠ 0
      let m' := (if odd then m * 2 else m) * 2 ^ 60
      let e' := (if odd then e - 1 else e) - 60
      let r := isqrt m'
      r32sticky false r (e' / 2) (decide (r * r ≠ m'))

/-- Order of two values that are not NaN: −1, 0 or 1; zeros of either sign are equal. -/
def numCmp (a b : Num) : Int :=
  match a, b with
  | .inf x, .inf y => if x = y then 0 else if x then -1 else 1
  | .inf x, _ => if x then -1 else 1
  | _, .inf y => if y then 1 else -1
  | .fin na ma ea, .fin nb mb eb =>
    let s := Dy.add (Num.dy (.fin na ma ea)) (Dy.neg (Num.dy (.fin nb mb eb)))
    if s.m < 0 then -1 else if s.m = 0 then 0 else 1
  | _, _ => 0

/-- `a > b`; false where either is NaN. -/
def f32gt (a b : Nat) : Bool :=
  match d32 a, d32 b with
  | .nan, _ => false
  | _, .nan => false
  | x, y => decide (numCmp x y = 1)

end Sys2Proof.Machine
end

