-- ==== Sys2Proof/Machine/Regs.lean ====
section
/-! DEFINITION. The register map: every register of the hive and of a comb die, with its place in PF0's BAR0
(R470, R478, R479), its fields, their access types and their reset columns, as the field maps of the
spec's chapters give them; and a name for every field. -/

namespace Sys2Proof.Machine

/-- Access types of R10. -/
inductive Access
  | ro | rw | w1c | w1s | wo | rwl
  deriving DecidableEq, Repr

/-- One field of a field map: its low bit and width, its access type, and whether its cold-reset and
warm-reset columns say "Retained", "Factory" or "not affected" instead of a value. -/
structure RField where
  lo : Nat
  w : Nat
  acc : Access
  coldKept : Bool
  warmKept : Bool
  deriving DecidableEq, Repr

/-- One index of a register array: byte stride, number of registers, and what one index step adds to
the cold-reset value (the identity maps of WRK_CLMAP and WRK_BMAP, the die number of COMB_ID). -/
structure RDim where
  stride : Nat
  count : Nat
  coldStep : Nat
  deriving DecidableEq, Repr

/-- One register (array) of the map: BAR0 offset, indices, cold-reset value, fields. A die's
registers carry the die as their first index (stride 0x20_0000, R470). -/
structure RegDef where
  base : Nat
  dims : List RDim
  cold : Nat
  fields : List RField
  deriving DecidableEq, Repr

/-- A field by BAR0 offset, low bit and width. -/
structure FRef where
  off : Nat
  lo : Nat
  w : Nat
  deriving DecidableEq, Repr

/-- Register map, part 1: ARR_PHYS_STATE, ARR_LMAP, ARR_FLT_CNT, ARR_FLT_CTRL, ARR_STAT, ARR_BUSY_CYC, MVE_STAT, MVE_PRIO, WRK_CORE_STATE, WRK_CLMAP, WRK_BMAP, WRK_WAITMODE, WRK_SRAM_ECC, WRK_CE_STAT, WRK_CNT. -/
def regTable1 : List RegDef := [
  ⟨0x1020000, [⟨0x200000, 8, 0x0⟩], 0x0, [⟨0, 28, .ro, false, true⟩]⟩,
  ⟨0x1020008, [⟨0x200000, 8, 0x0⟩], 0x543210, [⟨0, 24, .ro, false, true⟩, ⟨24, 6, .ro, false, true⟩]⟩,
  ⟨0x1020010, [⟨0x200000, 8, 0x0⟩], 0x0, [⟨0, 56, .ro, false, true⟩]⟩,
  ⟨0x1020018, [⟨0x200000, 8, 0x0⟩], 0x13C02, [⟨0, 4, .rwl, false, true⟩, ⟨8, 8, .rwl, false, true⟩, ⟨16, 1, .rwl, false, true⟩]⟩,
  ⟨0x1020020, [⟨0x200000, 8, 0x0⟩], 0x0, [⟨0, 6, .ro, false, false⟩, ⟨8, 6, .w1c, false, false⟩, ⟨16, 1, .ro, false, true⟩, ⟨17, 1, .ro, false, true⟩]⟩,
  ⟨0x1020028, [⟨0x200000, 8, 0x0⟩], 0x0, [⟨0, 64, .ro, false, false⟩]⟩,
  ⟨0x1021000, [⟨0x200000, 8, 0x0⟩], 0x0, [⟨0, 1, .ro, false, false⟩, ⟨1, 1, .w1c, false, false⟩, ⟨2, 1, .ro, false, true⟩, ⟨3, 1, .ro, false, true⟩, ⟨8, 8, .ro, false, true⟩]⟩,
  ⟨0x1021008, [⟨0x200000, 8, 0x0⟩], 0x2, [⟨0, 4, .rwl, false, true⟩]⟩,
  ⟨0x1030000, [⟨0x200000, 8, 0x0⟩, ⟨0x8, 32, 0x0⟩], 0x0, [⟨0, 32, .ro, false, false⟩]⟩,
  ⟨0x1030100, [⟨0x200000, 8, 0x0⟩, ⟨0x8, 4, 0x808080808080808⟩], 0x706050403020100, [⟨0, 62, .ro, false, true⟩]⟩,
  ⟨0x1030200, [⟨0x200000, 8, 0x0⟩, ⟨0x8, 8, 0x808080808080808⟩], 0x706050403020100, [⟨0, 63, .ro, false, true⟩, ⟨7, 57, .ro, false, true⟩]⟩,
  ⟨0x1030300, [⟨0x200000, 8, 0x0⟩], 0x1401, [⟨0, 1, .rwl, false, true⟩, ⟨1, 1, .rwl, false, true⟩, ⟨8, 8, .rwl, false, true⟩]⟩,
  ⟨0x1030308, [⟨0x200000, 8, 0x0⟩], 0x0, [⟨0, 32, .ro, false, false⟩, ⟨32, 16, .ro, false, false⟩, ⟨48, 1, .w1c, false, false⟩]⟩,
  ⟨0x1030310, [⟨0x200000, 8, 0x0⟩], 0x0, [⟨0, 4, .ro, false, false⟩, ⟨8, 4, .w1c, false, false⟩, ⟨16, 32, .ro, false, false⟩]⟩,
  ⟨0x1034000, [⟨0x200000, 8, 0x0⟩, ⟨0x8, 1024, 0x0⟩], 0x0, [⟨0, 32, .rw, false, false⟩]⟩]

/-- Register map, part 2: RNG_STAT, RNG_TSEED, RNG_TTUP, RNG_TLOC, RNG_TCTL, RNG_TOUT, SMP_CFG, SMP_STAT, SMP_LATE, SMP_BUSY_CYC, UPD_STAT, UPD_SLOT_BASE, UPD_SLOT_CFG, UPD_SLOT_STATE, UPD_TEACH_BASE. -/
def regTable2 : List RegDef := [
  ⟨0x1022000, [⟨0x200000, 8, 0x0⟩], 0x0, [⟨0, 1, .ro, false, false⟩, ⟨1, 1, .w1c, false, false⟩, ⟨8, 8, .ro, false, true⟩]⟩,
  ⟨0x1022008, [⟨0x200000, 8, 0x0⟩], 0x0, [⟨0, 64, .rw, false, false⟩]⟩,
  ⟨0x1022010, [⟨0x200000, 8, 0x0⟩], 0x0, [⟨0, 32, .rw, false, false⟩, ⟨32, 16, .rw, false, false⟩]⟩,
  ⟨0x1022018, [⟨0x200000, 8, 0x0⟩], 0x0, [⟨0, 32, .rw, false, false⟩, ⟨32, 20, .rw, false, false⟩]⟩,
  ⟨0x1022020, [⟨0x200000, 8, 0x0⟩], 0x0, [⟨0, 18, .rw, false, false⟩, ⟨62, 1, .ro, false, false⟩, ⟨63, 1, .wo, false, false⟩]⟩,
  ⟨0x1022028, [⟨0x200000, 8, 0x0⟩], 0x0, [⟨0, 64, .ro, false, false⟩]⟩,
  ⟨0x60000, [], 0x14, [⟨0, 16, .rwl, false, true⟩]⟩,
  ⟨0x60008, [], 0x0, [⟨0, 10, .ro, false, false⟩, ⟨16, 32, .ro, false, false⟩]⟩,
  ⟨0x60010, [], 0x0, [⟨0, 32, .ro, false, false⟩, ⟨32, 32, .ro, false, false⟩]⟩,
  ⟨0x60018, [], 0x0, [⟨0, 64, .ro, false, false⟩]⟩,
  ⟨0x1023000, [⟨0x200000, 8, 0x0⟩], 0x800000, [⟨0, 1, .ro, false, false⟩, ⟨1, 1, .w1c, false, false⟩, ⟨8, 9, .ro, false, false⟩, ⟨20, 4, .ro, false, true⟩]⟩,
  ⟨0x1023008, [⟨0x200000, 8, 0x0⟩], 0x0, [⟨0, 40, .ro, false, false⟩]⟩,
  ⟨0x1023010, [⟨0x200000, 8, 0x0⟩], 0x0, [⟨0, 32, .ro, false, false⟩, ⟨32, 4, .ro, false, false⟩]⟩,
  ⟨0x1023018, [⟨0x200000, 8, 0x0⟩], 0x0, [⟨0, 30, .ro, false, false⟩]⟩,
  ⟨0x1023020, [⟨0x200000, 8, 0x0⟩, ⟨0x10, 4, 0x0⟩], 0x0, [⟨0, 40, .ro, false, false⟩, ⟨63, 1, .ro, false, false⟩]⟩]

/-- Register map, part 3: UPD_TEACH_LIM, UPD_CNT, UPD_BUSY_CYC, RT_GEN, RT_LOAD_ADDR, RT_LOAD_CTL, FAB_TIMERS, FAB_DROP, RT_SW_STEP, RT_SW_CTL, FAB_PORT, FAB_CRED, FAB_NI_CFG. -/
def regTable3 : List RegDef := [
  ⟨0x1023028, [⟨0x200000, 8, 0x0⟩, ⟨0x10, 4, 0x0⟩], 0x0, [⟨0, 40, .ro, false, false⟩]⟩,
  ⟨0x1023060, [⟨0x200000, 8, 0x0⟩], 0x0, [⟨0, 32, .ro, false, false⟩, ⟨32, 32, .ro, false, false⟩]⟩,
  ⟨0x1023068, [⟨0x200000, 8, 0x0⟩], 0x0, [⟨0, 64, .ro, false, false⟩]⟩,
  ⟨0x70000, [], 0x0, [⟨0, 4, .ro, false, false⟩, ⟨8, 3, .ro, false, false⟩, ⟨12, 3, .ro, false, false⟩, ⟨32, 32, .ro, false, false⟩]⟩,
  ⟨0x70008, [], 0x0, [⟨0, 64, .rw, false, false⟩]⟩,
  ⟨0x70010, [], 0x0, [⟨0, 4, .rw, false, false⟩, ⟨8, 3, .ro, false, false⟩, ⟨16, 16, .ro, false, false⟩, ⟨62, 1, .wo, false, false⟩, ⟨63, 1, .wo, false, false⟩]⟩,
  ⟨0x70018, [], 0x64006400C803E8, [⟨0, 16, .rwl, false, true⟩, ⟨16, 16, .rwl, false, true⟩, ⟨32, 16, .rwl, false, true⟩, ⟨48, 16, .rwl, false, true⟩]⟩,
  ⟨0x70020, [⟨0x8, 3, 0x0⟩], 0x0, [⟨0, 32, .ro, false, false⟩, ⟨32, 32, .ro, false, false⟩]⟩,
  ⟨0x70038, [], 0x0, [⟨0, 32, .rw, false, false⟩]⟩,
  ⟨0x70040, [], 0x0, [⟨0, 10, .rw, false, false⟩, ⟨16, 8, .rw, false, false⟩, ⟨24, 3, .ro, false, false⟩, ⟨32, 16, .ro, false, false⟩, ⟨48, 8, .ro, false, false⟩, ⟨63, 1, .wo, false, false⟩]⟩,
  ⟨0x70100, [⟨0x8, 40, 0x0⟩], 0x0, [⟨0, 3, .ro, false, false⟩, ⟨4, 2, .ro, true, true⟩, ⟨8, 1, .rw, false, true⟩, ⟨9, 1, .ro, false, false⟩, ⟨16, 32, .ro, false, false⟩, ⟨48, 16, .ro, false, false⟩]⟩,
  ⟨0x70300, [⟨0x8, 15, 0x0⟩], 0x83E3E00003E3E, [⟨0, 8, .rwl, false, true⟩, ⟨8, 8, .rwl, false, true⟩, ⟨16, 8, .rwl, false, true⟩, ⟨24, 8, .rwl, false, true⟩, ⟨32, 8, .rwl, false, true⟩, ⟨40, 8, .rwl, false, true⟩, ⟨48, 8, .rwl, false, true⟩, ⟨56, 8, .rwl, false, true⟩]⟩,
  ⟨0x70378, [⟨0x8, 16, 0x0⟩], 0x800007C7C0000, [⟨0, 8, .rwl, false, true⟩, ⟨8, 8, .rwl, false, true⟩, ⟨16, 8, .rwl, false, true⟩, ⟨24, 8, .rwl, false, true⟩, ⟨32, 8, .rwl, false, true⟩, ⟨40, 8, .rwl, false, true⟩, ⟨48, 8, .rwl, false, true⟩, ⟨56, 8, .rwl, false, true⟩]⟩,
  ⟨0x703F8, [⟨0x8, 1, 0x0⟩], 0x8000000000000, [⟨0, 8, .rwl, false, true⟩, ⟨8, 8, .rwl, false, true⟩, ⟨16, 8, .rwl, false, true⟩, ⟨24, 8, .rwl, false, true⟩, ⟨32, 8, .rwl, false, true⟩, ⟨40, 8, .rwl, false, true⟩, ⟨48, 8, .rwl, false, true⟩, ⟨56, 8, .rwl, false, true⟩]⟩,
  ⟨0x1024000, [⟨0x200000, 8, 0x0⟩], 0x0, [⟨0, 8, .ro, false, false⟩, ⟨8, 8, .ro, false, false⟩]⟩]

/-- Register map, part 4: FAB_NI_STAT, SWM_STAT, SWM_PLAN_SEL, SWM_PLAN, SWM_CNT, CAP_CFG, CAP_CNT, CAP_LATE, CAP_DIE_STAT, SWM_DIE_STAT, OPT_PORT_CFG, OPT_PORT_STAT, OPT_RXPWR, OPT_THRESH, OPT_SAFE. -/
def regTable4 : List RegDef := [
  ⟨0x1024008, [⟨0x200000, 8, 0x0⟩], 0x0, [⟨0, 13, .ro, false, false⟩, ⟨16, 24, .ro, false, false⟩, ⟨40, 24, .ro, false, false⟩]⟩,
  ⟨0x80000, [], 0x0, [⟨0, 12, .ro, false, false⟩, ⟨16, 21, .ro, false, false⟩, ⟨37, 17, .ro, false, false⟩]⟩,
  ⟨0x80008, [], 0x0, [⟨0, 10, .rw, false, false⟩, ⟨16, 8, .rw, false, false⟩]⟩,
  ⟨0x80010, [], 0x0, [⟨0, 1, .ro, false, false⟩, ⟨8, 8, .ro, false, false⟩, ⟨16, 2, .ro, false, false⟩, ⟨18, 6, .ro, false, false⟩, ⟨24, 13, .ro, false, false⟩, ⟨40, 24, .ro, false, false⟩]⟩,
  ⟨0x80018, [], 0x0, [⟨0, 32, .ro, false, false⟩, ⟨32, 16, .ro, false, false⟩, ⟨48, 16, .ro, false, false⟩]⟩,
  ⟨0x80020, [], 0x64, [⟨0, 16, .rwl, false, true⟩]⟩,
  ⟨0x80028, [], 0x0, [⟨0, 32, .ro, false, false⟩, ⟨32, 32, .ro, false, false⟩]⟩,
  ⟨0x80030, [], 0x0, [⟨0, 32, .ro, false, false⟩, ⟨32, 16, .ro, false, false⟩]⟩,
  ⟨0x1025000, [⟨0x200000, 8, 0x0⟩], 0x0, [⟨0, 3, .ro, false, false⟩, ⟨4, 2, .ro, false, false⟩, ⟨8, 8, .ro, false, false⟩, ⟨16, 10, .ro, false, false⟩, ⟨32, 32, .ro, false, false⟩]⟩,
  ⟨0x1025008, [⟨0x200000, 8, 0x0⟩], 0x0, [⟨0, 8, .ro, false, false⟩, ⟨16, 32, .ro, false, false⟩]⟩,
  ⟨0x90000, [⟨0x8, 32, 0x0⟩], 0x83200, [⟨0, 1, .rwl, false, true⟩, ⟨1, 1, .ro, false, false⟩, ⟨8, 8, .rwl, false, true⟩, ⟨16, 5, .rwl, false, true⟩]⟩,
  ⟨0x90100, [⟨0x8, 40, 0x0⟩], 0x0, [⟨0, 3, .ro, false, false⟩, ⟨3, 1, .ro, false, false⟩, ⟨4, 1, .ro, false, false⟩, ⟨5, 1, .ro, false, false⟩, ⟨6, 1, .ro, false, false⟩, ⟨8, 3, .ro, false, false⟩, ⟨11, 21, .ro, false, false⟩, ⟨32, 32, .ro, false, false⟩]⟩,
  ⟨0x90400, [⟨0x20, 32, 0x0⟩, ⟨0x8, 4, 0x0⟩], 0x8000800080008000, [⟨0, 64, .ro, false, false⟩]⟩,
  ⟨0x90800, [], 0x19000C8FD12FD76, [⟨0, 16, .rwl, false, true⟩, ⟨16, 16, .rwl, false, true⟩, ⟨32, 16, .rwl, false, true⟩, ⟨48, 16, .rwl, false, true⟩]⟩,
  ⟨0x90808, [], 0x0, [⟨0, 4, .ro, false, false⟩, ⟨4, 1, .w1c, false, false⟩, ⟨16, 32, .ro, false, true⟩]⟩]

/-- Register map, part 5: OPT_DPERM, OPT_DLANE_SEL, OPT_DLANE_PWR, LSR_BANK, LSR_SEL, LSR_STAT, LSR_HOURS, LSR_AGE_CFG, MEM_CFG, MEM_CAP, MEM_CHMAP, MEM_CH_STAT, MEM_RETIRE, WCB_CFG, WCB_STAT. -/
def regTable5 : List RegDef := [
  ⟨0x90810, [], 0x30010, [⟨0, 16, .rwl, false, true⟩, ⟨16, 4, .rwl, false, true⟩]⟩,
  ⟨0x90818, [], 0x0, [⟨0, 3, .rw, false, false⟩, ⟨3, 1, .rw, false, false⟩, ⟨4, 8, .rw, false, false⟩]⟩,
  ⟨0x90820, [], 0x8000, [⟨0, 16, .ro, false, false⟩, ⟨16, 16, .ro, false, false⟩, ⟨32, 1, .ro, false, true⟩]⟩,
  ⟨0xA0000, [⟨0x8, 8, 0x0⟩], 0x0, [⟨0, 3, .ro, true, true⟩, ⟨4, 35, .ro, true, true⟩]⟩,
  ⟨0xA0040, [], 0x0, [⟨0, 3, .rw, false, false⟩, ⟨3, 6, .rw, false, false⟩]⟩,
  ⟨0xA0048, [], 0x80000000FF00, [⟨0, 3, .ro, false, true⟩, ⟨8, 8, .ro, false, true⟩, ⟨16, 16, .ro, false, false⟩, ⟨32, 16, .ro, false, false⟩]⟩,
  ⟨0xA0050, [], 0x0, [⟨0, 32, .ro, true, true⟩, ⟨32, 16, .ro, false, false⟩]⟩,
  ⟨0xA0058, [], 0x2134000A, [⟨0, 8, .rwl, false, true⟩, ⟨16, 16, .rwl, false, true⟩]⟩,
  ⟨0x1026000, [⟨0x200000, 8, 0x0⟩], 0x1004, [⟨0, 3, .rwl, false, true⟩, ⟨8, 8, .rwl, false, true⟩]⟩,
  ⟨0x1026008, [⟨0x200000, 8, 0x0⟩], 0x0, [⟨0, 40, .ro, false, true⟩, ⟨40, 5, .ro, false, true⟩, ⟨48, 7, .ro, false, true⟩]⟩,
  ⟨0x1026010, [⟨0x200000, 8, 0x0⟩], 0x0, [⟨0, 16, .ro, false, true⟩, ⟨16, 16, .ro, false, true⟩]⟩,
  ⟨0x1026100, [⟨0x200000, 8, 0x0⟩, ⟨0x8, 16, 0x0⟩], 0x1, [⟨0, 2, .ro, false, false⟩, ⟨2, 1, .ro, false, false⟩, ⟨3, 1, .ro, false, false⟩, ⟨4, 7, .ro, false, true⟩, ⟨16, 32, .ro, false, false⟩, ⟨48, 16, .ro, false, false⟩]⟩,
  ⟨0x1026200, [⟨0x200000, 8, 0x0⟩], 0x0, [⟨0, 4, .rw, false, false⟩, ⟨4, 17, .rw, false, false⟩, ⟨24, 2, .ro, false, false⟩, ⟨32, 16, .ro, false, false⟩, ⟨63, 1, .wo, false, false⟩]⟩,
  ⟨0x1027000, [⟨0x200000, 8, 0x0⟩], 0x14, [⟨0, 8, .rwl, false, true⟩]⟩,
  ⟨0x1027008, [⟨0x200000, 8, 0x0⟩], 0x0, [⟨0, 32, .ro, false, false⟩, ⟨32, 32, .ro, false, false⟩]⟩]

/-- Register map, part 6: WCB_FWD, PCI_LINK, PCI_APW, PCI_DMAW_BASE, PCI_DMAW_LIM, PCI_DMA_STAT, RING_SQ, RING_CQ, RING_CFG, RING_STAT, ETH_PORT, ETH_IPH, ETH_IPL, ETH_GW, WORT_CFG. -/
def regTable6 : List RegDef := [
  ⟨0x1027010, [⟨0x200000, 8, 0x0⟩], 0x0, [⟨0, 32, .ro, false, false⟩, ⟨32, 32, .ro, false, false⟩]⟩,
  ⟨0xB0000, [], 0x6400320000, [⟨0, 3, .ro, false, false⟩, ⟨3, 5, .ro, false, false⟩, ⟨16, 16, .rwl, false, true⟩, ⟨32, 16, .rwl, false, true⟩]⟩,
  ⟨0xB0100, [⟨0x8, 16, 0x0⟩], 0x0, [⟨0, 40, .rw, false, false⟩, ⟨40, 4, .rw, false, false⟩, ⟨63, 1, .rw, false, false⟩]⟩,
  ⟨0xB1000, [⟨0x100, 9, 0x0⟩, ⟨0x10, 16, 0x0⟩], 0x0, [⟨0, 1, .rw, false, false⟩, ⟨1, 1, .rw, false, false⟩, ⟨12, 52, .rw, false, false⟩]⟩,
  ⟨0xB1008, [⟨0x100, 9, 0x0⟩, ⟨0x10, 16, 0x0⟩], 0x0, [⟨12, 52, .rw, false, false⟩]⟩,
  ⟨0xB2000, [⟨0x8, 9, 0x0⟩], 0x0, [⟨0, 16, .ro, false, false⟩, ⟨16, 1, .w1c, false, false⟩, ⟨32, 16, .ro, false, false⟩, ⟨48, 16, .ro, false, false⟩]⟩,
  ⟨0xC0000, [⟨0x20, 1024, 0x0⟩], 0x0, [⟨0, 4, .rw, false, false⟩, ⟨12, 52, .rw, false, false⟩]⟩,
  ⟨0xC0008, [⟨0x20, 1024, 0x0⟩], 0x0, [⟨0, 4, .rw, false, false⟩, ⟨12, 52, .rw, false, false⟩]⟩,
  ⟨0xC0010, [⟨0x20, 1024, 0x0⟩], 0x1000000, [⟨0, 1, .rw, false, false⟩, ⟨4, 4, .rw, false, false⟩, ⟨8, 8, .rw, false, false⟩, ⟨16, 8, .rw, false, false⟩, ⟨24, 8, .rw, false, false⟩, ⟨32, 16, .rw, false, false⟩]⟩,
  ⟨0xC0018, [⟨0x20, 1024, 0x0⟩], 0x0, [⟨0, 2, .ro, false, false⟩, ⟨2, 6, .ro, false, false⟩, ⟨8, 8, .ro, false, false⟩, ⟨16, 16, .ro, false, false⟩, ⟨32, 16, .ro, false, false⟩, ⟨48, 16, .ro, false, false⟩]⟩,
  ⟨0xD0000, [⟨0x40, 2, 0x0⟩], 0x0, [⟨0, 2, .ro, false, false⟩, ⟨2, 1, .rwl, false, true⟩, ⟨16, 12, .rwl, false, true⟩, ⟨28, 3, .rwl, false, true⟩, ⟨32, 32, .ro, false, false⟩]⟩,
  ⟨0xD0008, [⟨0x40, 2, 0x0⟩], 0x0, [⟨0, 64, .rwl, false, true⟩]⟩,
  ⟨0xD0010, [⟨0x40, 2, 0x0⟩], 0x0, [⟨0, 64, .rwl, false, true⟩]⟩,
  ⟨0xD0018, [⟨0x40, 2, 0x0⟩], 0x0, [⟨0, 48, .rwl, false, true⟩]⟩,
  ⟨0xE0000, [], 0xC00001F4, [⟨0, 16, .rwl, false, true⟩, ⟨16, 16, .rwl, false, true⟩]⟩]

/-- Register map, part 7: WORT_PART, WORT_PART2, QN_BOOT_STAT, QN_BOOT_CFG, QN_RESET, QN_WIRE_ADDR, QN_WIRE_CTL, QN_TOPO, QN_DIE_MAP, QN_SPARE, QN_RETAIN, QN_FW_STAT, QN_FW_CTL, QN_FW_ADDR, LOG_STAT. -/
def regTable7 : List RegDef := [
  ⟨0xE0100, [⟨0x10, 8, 0x0⟩], 0x0, [⟨0, 40, .ro, false, false⟩]⟩,
  ⟨0xE0108, [⟨0x10, 8, 0x0⟩], 0x0, [⟨0, 32, .ro, false, false⟩, ⟨32, 32, .ro, false, false⟩]⟩,
  ⟨0x50000, [], 0x0, [⟨0, 3, .ro, false, false⟩, ⟨3, 2, .ro, false, false⟩, ⟨5, 1, .ro, false, false⟩, ⟨8, 5, .ro, false, false⟩, ⟨13, 3, .ro, false, false⟩, ⟨16, 8, .ro, false, false⟩, ⟨32, 32, .ro, false, false⟩]⟩,
  ⟨0x50008, [], 0xA, [⟨0, 8, .rwl, false, true⟩]⟩,
  ⟨0x50010, [], 0x0, [⟨0, 2, .rw, false, false⟩, ⟨2, 11, .rw, false, false⟩, ⟨13, 1, .rw, false, false⟩, ⟨14, 1, .rw, false, false⟩, ⟨16, 2, .ro, false, false⟩, ⟨32, 16, .ro, false, false⟩, ⟨63, 1, .wo, false, false⟩]⟩,
  ⟨0x50018, [], 0x0, [⟨0, 64, .rw, false, false⟩]⟩,
  ⟨0x50020, [], 0x0, [⟨0, 12, .ro, true, true⟩, ⟨12, 1, .ro, true, true⟩, ⟨16, 2, .ro, false, false⟩, ⟨32, 16, .ro, false, false⟩, ⟨63, 1, .wo, false, false⟩]⟩,
  ⟨0x50028, [⟨0x8, 2, 0x0⟩], 0x1111111111111111, [⟨0, 64, .ro, false, false⟩]⟩,
  ⟨0x50038, [], 0x0, [⟨0, 32, .ro, true, true⟩, ⟨32, 8, .w1c, false, false⟩]⟩,
  ⟨0x50040, [⟨0x8, 8, 0x0⟩], 0x0, [⟨0, 6, .ro, true, true⟩, ⟨8, 5, .ro, true, true⟩, ⟨16, 7, .ro, true, true⟩, ⟨24, 7, .ro, true, true⟩, ⟨32, 3, .ro, true, true⟩, ⟨35, 5, .ro, true, true⟩]⟩,
  ⟨0x50080, [], 0x0, [⟨0, 32, .ro, true, true⟩, ⟨32, 1, .ro, true, true⟩, ⟨33, 1, .ro, true, true⟩, ⟨34, 1, .ro, true, true⟩, ⟨35, 1, .ro, false, false⟩, ⟨36, 1, .ro, false, false⟩, ⟨37, 1, .w1c, false, false⟩, ⟨63, 1, .wo, false, false⟩]⟩,
  ⟨0x50088, [], 0x0, [⟨0, 1, .ro, false, false⟩, ⟨1, 1, .ro, false, false⟩, ⟨32, 32, .ro, false, false⟩]⟩,
  ⟨0x50090, [], 0x0, [⟨0, 2, .ro, false, false⟩, ⟨63, 1, .wo, false, false⟩]⟩,
  ⟨0x50098, [], 0x0, [⟨0, 64, .rw, false, false⟩]⟩,
  ⟨0xF0000, [], 0x0, [⟨0, 32, .ro, true, true⟩, ⟨32, 2, .ro, false, false⟩, ⟨34, 1, .w1c, false, false⟩, ⟨35, 1, .w1c, true, true⟩, ⟨36, 2, .ro, false, false⟩, ⟨38, 2, .ro, false, false⟩, ⟨40, 1, .ro, false, false⟩, ⟨48, 16, .ro, false, false⟩]⟩]

/-- Register map, part 8: LOG_RDSEQ, LOG_MGMT_CFG, LOG_MGMT_DST, LOG_MIRSEQ, LOG_LG_TIME, LOG_LG_CAUSE, LOG_LG_INFO, TAP_CTL, TAP_STAT, HIVE_SERIAL, HIVE_ID, HIVE_MEMCAP, HIVE_MEMUSE, HIVE_LOCK, HIVE_WREJ. -/
def regTable8 : List RegDef := [
  ⟨0xF0008, [], 0x0, [⟨0, 32, .rw, false, false⟩, ⟨32, 32, .ro, false, false⟩]⟩,
  ⟨0xF0010, [], 0xF1B58, [⟨0, 16, .rwl, false, true⟩, ⟨16, 1, .rwl, false, true⟩, ⟨17, 2, .rwl, false, true⟩, ⟨19, 1, .rwl, false, true⟩]⟩,
  ⟨0xF0018, [⟨0x8, 2, 0x0⟩], 0x0, [⟨0, 64, .rwl, false, true⟩]⟩,
  ⟨0xF0028, [], 0x0, [⟨0, 32, .ro, true, true⟩]⟩,
  ⟨0xF0100, [], 0x0, [⟨0, 64, .ro, true, true⟩]⟩,
  ⟨0xF0108, [], 0x0, [⟨0, 8, .ro, true, true⟩, ⟨8, 8, .ro, true, true⟩, ⟨16, 1, .w1c, true, true⟩, ⟨32, 32, .ro, true, true⟩]⟩,
  ⟨0xF0110, [], 0x0, [⟨0, 64, .ro, true, true⟩]⟩,
  ⟨0x40000, [], 0x0, [⟨0, 1, .rw, false, false⟩]⟩,
  ⟨0x40008, [], 0xFF00, [⟨0, 4, .ro, false, false⟩, ⟨8, 8, .ro, false, false⟩, ⟨16, 8, .ro, false, false⟩, ⟨24, 1, .ro, false, false⟩, ⟨32, 16, .ro, false, false⟩]⟩,
  ⟨0x0, [], 0x0, [⟨0, 64, .ro, true, true⟩]⟩,
  ⟨0x8, [], 0x10000, [⟨0, 4, .ro, true, true⟩, ⟨4, 4, .ro, true, true⟩, ⟨16, 16, .ro, false, false⟩]⟩,
  ⟨0x10, [], 0x0, [⟨0, 21, .ro, true, true⟩, ⟨21, 21, .ro, true, true⟩]⟩,
  ⟨0x18, [], 0x0, [⟨0, 40, .ro, false, false⟩, ⟨40, 8, .ro, false, false⟩]⟩,
  ⟨0x20, [], 0x0, [⟨0, 1, .w1s, false, false⟩]⟩,
  ⟨0x28, [], 0x0, [⟨0, 32, .ro, false, false⟩, ⟨32, 16, .ro, false, false⟩, ⟨48, 16, .ro, false, false⟩]⟩]

/-- Register map, part 9: HIVE_WREJ2, HIVE_PART, HIVE_DIEOWN, HIVE_MGIPH, HIVE_MGIPL, HIVE_MGGW, HIVE_MGMAC, HIVE_SB, HIVE_ISUM, HIVE_IMASK, HIVE_STATUS, TIM_NOW, TIM_LOAD, TIM_CTL, TIM_BEAT. -/
def regTable9 : List RegDef := [
  ⟨0x30, [], 0x0, [⟨0, 26, .ro, false, false⟩, ⟨32, 16, .ro, false, false⟩]⟩,
  ⟨0x100, [⟨0x8, 8, 0x0⟩], 0x0, [⟨0, 1, .ro, false, false⟩, ⟨1, 1, .ro, false, false⟩, ⟨2, 1, .ro, false, false⟩, ⟨8, 8, .ro, false, false⟩, ⟨16, 8, .ro, false, false⟩, ⟨24, 16, .ro, false, false⟩]⟩,
  ⟨0x140, [], 0x0, [⟨0, 32, .ro, false, false⟩]⟩,
  ⟨0x200, [⟨0x20, 2, 0x0⟩], 0x0, [⟨0, 64, .rwl, false, true⟩]⟩,
  ⟨0x208, [⟨0x20, 2, 0x0⟩], 0x0, [⟨0, 64, .rwl, false, true⟩]⟩,
  ⟨0x210, [⟨0x20, 2, 0x0⟩], 0x0, [⟨0, 48, .rwl, false, true⟩]⟩,
  ⟨0x218, [⟨0x20, 2, 0x0⟩], 0x0, [⟨0, 48, .ro, true, true⟩]⟩,
  ⟨0x300, [], 0x0, [⟨0, 1, .rw, false, false⟩, ⟨1, 1, .ro, false, false⟩, ⟨2, 1, .ro, false, false⟩, ⟨3, 1, .ro, false, false⟩, ⟨4, 1, .ro, false, false⟩, ⟨8, 8, .ro, false, false⟩, ⟨16, 8, .ro, false, false⟩, ⟨24, 8, .ro, false, false⟩]⟩,
  ⟨0x400, [], 0x0, [⟨0, 1, .w1c, false, false⟩, ⟨1, 1, .w1c, false, false⟩, ⟨2, 1, .w1c, false, false⟩, ⟨3, 1, .w1c, false, false⟩, ⟨4, 1, .w1c, false, false⟩, ⟨5, 1, .w1c, false, false⟩, ⟨6, 1, .w1c, false, false⟩, ⟨7, 1, .w1c, false, false⟩, ⟨8, 1, .w1c, false, false⟩, ⟨9, 1, .w1c, false, false⟩, ⟨10, 1, .w1c, false, false⟩, ⟨11, 1, .w1c, false, false⟩, ⟨12, 1, .w1c, false, false⟩, ⟨13, 1, .w1c, false, false⟩, ⟨14, 1, .w1c, false, false⟩, ⟨15, 1, .w1c, false, false⟩]⟩,
  ⟨0x408, [], 0xFFFF, [⟨1, 15, .rw, false, false⟩]⟩,
  ⟨0x410, [], 0x0, [⟨0, 8, .ro, false, false⟩, ⟨8, 8, .ro, false, false⟩, ⟨16, 8, .ro, false, false⟩, ⟨24, 1, .ro, false, false⟩, ⟨25, 2, .ro, false, false⟩, ⟨27, 1, .ro, false, false⟩, ⟨28, 1, .ro, false, false⟩, ⟨29, 2, .ro, false, false⟩, ⟨31, 1, .ro, false, false⟩]⟩,
  ⟨0x10000, [], 0x0, [⟨0, 64, .ro, false, false⟩]⟩,
  ⟨0x10008, [], 0x0, [⟨0, 64, .rw, false, false⟩]⟩,
  ⟨0x10010, [], 0x3E80000, [⟨0, 1, .w1s, false, false⟩, ⟨1, 1, .w1c, false, false⟩, ⟨2, 1, .ro, false, false⟩, ⟨3, 1, .ro, false, false⟩, ⟨4, 1, .ro, false, false⟩, ⟨5, 1, .ro, false, false⟩, ⟨16, 16, .rwl, false, true⟩]⟩,
  ⟨0x10018, [], 0x0, [⟨0, 64, .ro, false, false⟩]⟩]

/-- Register map, part 10: TIM_BEATCNT, SAF_TJ, SAF_PWR, SAF_COOL, SAF_OC, SAF_FENCE_ADDR, SAF_FENCE_CTL, SAF_MGKEY, SAF_MGKEY_CTL, SAF_MGNONCE, COMB_ID, COMB_CLK, COMB_ERR. -/
def regTable10 : List RegDef := [
  ⟨0x10020, [], 0x0, [⟨0, 32, .ro, false, false⟩, ⟨32, 32, .ro, false, false⟩]⟩,
  ⟨0x20000, [], 0x7369, [⟨0, 8, .rwl, false, true⟩, ⟨8, 8, .rwl, false, true⟩, ⟨16, 8, .ro, false, false⟩]⟩,
  ⟨0x20008, [], 0xD48, [⟨0, 12, .rwl, false, true⟩, ⟨16, 12, .ro, false, false⟩, ⟨28, 1, .ro, false, false⟩]⟩,
  ⟨0x20010, [], 0x4614, [⟨0, 8, .rwl, false, true⟩, ⟨8, 8, .rwl, false, true⟩, ⟨16, 16, .ro, false, false⟩, ⟨32, 16, .ro, false, false⟩]⟩,
  ⟨0x20018, [], 0x78, [⟨0, 8, .rwl, false, true⟩]⟩,
  ⟨0x20100, [], 0x0, [⟨0, 64, .rw, false, false⟩]⟩,
  ⟨0x20108, [], 0x0, [⟨0, 9, .rw, false, false⟩, ⟨16, 2, .ro, false, false⟩, ⟨32, 16, .ro, false, false⟩, ⟨48, 10, .ro, false, false⟩, ⟨63, 1, .wo, false, false⟩]⟩,
  ⟨0x20110, [⟨0x8, 4, 0x0⟩], 0x0, [⟨0, 64, .wo, false, false⟩]⟩,
  ⟨0x20130, [], 0x0, [⟨0, 1, .wo, false, false⟩, ⟨1, 1, .ro, true, true⟩]⟩,
  ⟨0x20138, [], 0x0, [⟨0, 64, .ro, true, true⟩]⟩,
  ⟨0x1000000, [⟨0x200000, 8, 0x1⟩], 0x10000, [⟨0, 3, .ro, false, false⟩, ⟨8, 4, .ro, true, true⟩, ⟨16, 16, .ro, false, false⟩]⟩,
  ⟨0x1000008, [⟨0x200000, 8, 0x0⟩], 0x0, [⟨0, 12, .ro, false, false⟩, ⟨12, 12, .ro, false, false⟩, ⟨24, 1, .ro, false, false⟩, ⟨32, 8, .ro, false, false⟩]⟩,
  ⟨0x1000010, [⟨0x200000, 8, 0x0⟩], 0x0, [⟨0, 1, .w1c, false, false⟩, ⟨1, 1, .w1c, false, false⟩, ⟨2, 1, .w1c, false, false⟩, ⟨3, 1, .w1c, false, false⟩, ⟨4, 1, .w1c, false, false⟩, ⟨5, 1, .w1c, false, false⟩, ⟨6, 1, .w1c, false, false⟩, ⟨7, 1, .w1c, false, false⟩, ⟨8, 1, .w1c, false, false⟩, ⟨9, 1, .w1c, false, false⟩]⟩]

/-- The whole register map (R478, R479). -/
def regTable : List RegDef :=
  regTable1 ++ regTable2 ++ regTable3 ++ regTable4 ++ regTable5 ++ regTable6 ++ regTable7 ++ regTable8 ++ regTable9 ++ regTable10

/-- The part of the cold-reset value that comes from the register's indices, where `off` (relative
to the first register) is one of the array's offsets. -/
def dimsMatch : List RDim → Nat → Option Nat
  | [], off => if off = 0 then some 0 else none
  | d :: ds, off =>
    let i := min (off / d.stride) (d.count - 1)
    (dimsMatch ds (off - i * d.stride)).map (· + i * d.coldStep)

/-- The cold-reset value of the register at `off`, where `r` describes it. -/
def RegDef.coldAt (r : RegDef) (off : Nat) : Option Nat :=
  if r.base ≤ off then (dimsMatch r.dims (off - r.base)).map (· + r.cold) else none

/-- The definition of the register at a BAR0 offset; none where the offset is reserved (R474). -/
def regAtIn : List RegDef → Nat → Option (RegDef × Nat)
  | [], _ => none
  | r :: rs, off =>
    match r.coldAt off with
    | some c => some (r, c)
    | none => regAtIn rs off

def regAt (off : Nat) : Option (RegDef × Nat) := regAtIn regTable off

/-- The value an untouched register holds: its cold-reset value. -/
def coldOf (off : Nat) : Word64 :=
  match regAt off with
  | some (_, c) => BitVec.ofNat 64 c
  | none => 0

/-- BAR0 offset of ARR_PHYS_STATE (R102). -/
def Reg.ARR_PHYS_STATE (d : Nat) : Nat := 0x1020000 + 0x200000 * d
def RF.ARR_PHYS_STATE_STATE (d k : Nat) : FRef := ⟨Reg.ARR_PHYS_STATE d, 4 * k, 4⟩
/-- BAR0 offset of ARR_LMAP (R102). -/
def Reg.ARR_LMAP (d : Nat) : Nat := 0x1020008 + 0x200000 * d
def RF.ARR_LMAP_PHYS (d k : Nat) : FRef := ⟨Reg.ARR_LMAP d, 4 * k, 4⟩
def RF.ARR_LMAP_FOLDED (d : Nat) : FRef := ⟨Reg.ARR_LMAP d, 24, 6⟩
/-- BAR0 offset of ARR_FLT_CNT (R102). -/
def Reg.ARR_FLT_CNT (d : Nat) : Nat := 0x1020010 + 0x200000 * d
def RF.ARR_FLT_CNT_CNT (d k : Nat) : FRef := ⟨Reg.ARR_FLT_CNT d, 8 * k, 8⟩
/-- BAR0 offset of ARR_FLT_CTRL (R102). -/
def Reg.ARR_FLT_CTRL (d : Nat) : Nat := 0x1020018 + 0x200000 * d
def RF.ARR_FLT_CTRL_LIMIT (d : Nat) : FRef := ⟨Reg.ARR_FLT_CTRL d, 0, 4⟩
def RF.ARR_FLT_CTRL_WINDOW (d : Nat) : FRef := ⟨Reg.ARR_FLT_CTRL d, 8, 8⟩
def RF.ARR_FLT_CTRL_RETURN_EN (d : Nat) : FRef := ⟨Reg.ARR_FLT_CTRL d, 16, 1⟩
/-- BAR0 offset of ARR_STAT (R102). -/
def Reg.ARR_STAT (d : Nat) : Nat := 0x1020020 + 0x200000 * d
def RF.ARR_STAT_BUSY (d : Nat) : FRef := ⟨Reg.ARR_STAT d, 0, 6⟩
def RF.ARR_STAT_FAULT (d : Nat) : FRef := ⟨Reg.ARR_STAT d, 8, 6⟩
def RF.ARR_STAT_SPARE_USED (d : Nat) : FRef := ⟨Reg.ARR_STAT d, 16, 1⟩
def RF.ARR_STAT_FOLDED_ANY (d : Nat) : FRef := ⟨Reg.ARR_STAT d, 17, 1⟩
/-- BAR0 offset of ARR_BUSY_CYC (R102). -/
def Reg.ARR_BUSY_CYC (d : Nat) : Nat := 0x1020028 + 0x200000 * d
def RF.ARR_BUSY_CYC_CYC (d : Nat) : FRef := ⟨Reg.ARR_BUSY_CYC d, 0, 64⟩
/-- BAR0 offset of MVE_STAT (R109). -/
def Reg.MVE_STAT (d : Nat) : Nat := 0x1021000 + 0x200000 * d
def RF.MVE_STAT_BUSY (d : Nat) : FRef := ⟨Reg.MVE_STAT d, 0, 1⟩
def RF.MVE_STAT_FAULT (d : Nat) : FRef := ⟨Reg.MVE_STAT d, 1, 1⟩
def RF.MVE_STAT_ON_ARRAYS (d : Nat) : FRef := ⟨Reg.MVE_STAT d, 2, 1⟩
def RF.MVE_STAT_RETIRED (d : Nat) : FRef := ⟨Reg.MVE_STAT d, 3, 1⟩
def RF.MVE_STAT_FLT_CNT (d : Nat) : FRef := ⟨Reg.MVE_STAT d, 8, 8⟩
/-- BAR0 offset of MVE_PRIO (R109). -/
def Reg.MVE_PRIO (d : Nat) : Nat := 0x1021008 + 0x200000 * d
def RF.MVE_PRIO_YIELD (d : Nat) : FRef := ⟨Reg.MVE_PRIO d, 0, 4⟩
/-- BAR0 offset of WRK_CORE_STATE (R149). -/
def Reg.WRK_CORE_STATE (d i : Nat) : Nat := 0x1030000 + 0x200000 * d + 0x8 * i
def RF.WRK_CORE_STATE_STATE (d i k : Nat) : FRef := ⟨Reg.WRK_CORE_STATE d i, 4 * k, 4⟩
/-- BAR0 offset of WRK_CLMAP (R149). -/
def Reg.WRK_CLMAP (d j : Nat) : Nat := 0x1030100 + 0x200000 * d + 0x8 * j
def RF.WRK_CLMAP_PHYS (d j k : Nat) : FRef := ⟨Reg.WRK_CLMAP d j, 8 * k, 6⟩
/-- BAR0 offset of WRK_BMAP (R149). -/
def Reg.WRK_BMAP (d j : Nat) : Nat := 0x1030200 + 0x200000 * d + 0x8 * j
def RF.WRK_BMAP_PHYS (d j k : Nat) : FRef := ⟨Reg.WRK_BMAP d j, 8 * k, 7⟩
def RF.WRK_BMAP_EMU (d j k : Nat) : FRef := ⟨Reg.WRK_BMAP d j, 7 + 8 * k, 1⟩
/-- BAR0 offset of WRK_WAITMODE (R149). -/
def Reg.WRK_WAITMODE (d : Nat) : Nat := 0x1030300 + 0x200000 * d
def RF.WRK_WAITMODE_UPD_EARLY (d : Nat) : FRef := ⟨Reg.WRK_WAITMODE d, 0, 1⟩
def RF.WRK_WAITMODE_PREFETCH (d : Nat) : FRef := ⟨Reg.WRK_WAITMODE d, 1, 1⟩
def RF.WRK_WAITMODE_PFDELAY (d : Nat) : FRef := ⟨Reg.WRK_WAITMODE d, 8, 8⟩
/-- BAR0 offset of WRK_SRAM_ECC (R149). -/
def Reg.WRK_SRAM_ECC (d : Nat) : Nat := 0x1030308 + 0x200000 * d
def RF.WRK_SRAM_ECC_CE_CNT (d : Nat) : FRef := ⟨Reg.WRK_SRAM_ECC d, 0, 32⟩
def RF.WRK_SRAM_ECC_UE_CNT (d : Nat) : FRef := ⟨Reg.WRK_SRAM_ECC d, 32, 16⟩
def RF.WRK_SRAM_ECC_UE (d : Nat) : FRef := ⟨Reg.WRK_SRAM_ECC d, 48, 1⟩
/-- BAR0 offset of WRK_CE_STAT (R149). -/
def Reg.WRK_CE_STAT (d : Nat) : Nat := 0x1030310 + 0x200000 * d
def RF.WRK_CE_STAT_BUSY (d : Nat) : FRef := ⟨Reg.WRK_CE_STAT d, 0, 4⟩
def RF.WRK_CE_STAT_ERR (d : Nat) : FRef := ⟨Reg.WRK_CE_STAT d, 8, 4⟩
def RF.WRK_CE_STAT_STALE_CNT (d : Nat) : FRef := ⟨Reg.WRK_CE_STAT d, 16, 32⟩
/-- BAR0 offset of WRK_CNT (R149). -/
def Reg.WRK_CNT (d n : Nat) : Nat := 0x1034000 + 0x200000 * d + 0x8 * n
def RF.WRK_CNT_VALUE (d n : Nat) : FRef := ⟨Reg.WRK_CNT d n, 0, 32⟩
/-- BAR0 offset of RNG_STAT (R175). -/
def Reg.RNG_STAT (d : Nat) : Nat := 0x1022000 + 0x200000 * d
def RF.RNG_STAT_KAT_OK (d : Nat) : FRef := ⟨Reg.RNG_STAT d, 0, 1⟩
def RF.RNG_STAT_PAR_FLT (d : Nat) : FRef := ⟨Reg.RNG_STAT d, 1, 1⟩
def RF.RNG_STAT_FLT_CNT (d : Nat) : FRef := ⟨Reg.RNG_STAT d, 8, 8⟩
/-- BAR0 offset of RNG_TSEED (R175). -/
def Reg.RNG_TSEED (d : Nat) : Nat := 0x1022008 + 0x200000 * d
def RF.RNG_TSEED_JSEED (d : Nat) : FRef := ⟨Reg.RNG_TSEED d, 0, 64⟩
/-- BAR0 offset of RNG_TTUP (R175). -/
def Reg.RNG_TTUP (d : Nat) : Nat := 0x1022010 + 0x200000 * d
def RF.RNG_TTUP_STEP (d : Nat) : FRef := ⟨Reg.RNG_TTUP d, 0, 32⟩
def RF.RNG_TTUP_STREAM (d : Nat) : FRef := ⟨Reg.RNG_TTUP d, 32, 16⟩
/-- BAR0 offset of RNG_TLOC (R175). -/
def Reg.RNG_TLOC (d : Nat) : Nat := 0x1022018 + 0x200000 * d
def RF.RNG_TLOC_TILE (d : Nat) : FRef := ⟨Reg.RNG_TLOC d, 0, 32⟩
def RF.RNG_TLOC_LANE (d : Nat) : FRef := ⟨Reg.RNG_TLOC d, 32, 20⟩
/-- BAR0 offset of RNG_TCTL (R175). -/
def Reg.RNG_TCTL (d : Nat) : Nat := 0x1022020 + 0x200000 * d
def RF.RNG_TCTL_WORD (d : Nat) : FRef := ⟨Reg.RNG_TCTL d, 0, 18⟩
def RF.RNG_TCTL_DONE (d : Nat) : FRef := ⟨Reg.RNG_TCTL d, 62, 1⟩
def RF.RNG_TCTL_GO (d : Nat) : FRef := ⟨Reg.RNG_TCTL d, 63, 1⟩
/-- BAR0 offset of RNG_TOUT (R175). -/
def Reg.RNG_TOUT (d : Nat) : Nat := 0x1022028 + 0x200000 * d
def RF.RNG_TOUT_WORD (d : Nat) : FRef := ⟨Reg.RNG_TOUT d, 0, 64⟩
/-- BAR0 offset of SMP_CFG (R175). -/
def Reg.SMP_CFG : Nat := 0x60000
def RF.SMP_CFG_ORPHAN_TO : FRef := ⟨Reg.SMP_CFG, 0, 16⟩
/-- BAR0 offset of SMP_STAT (R175). -/
def Reg.SMP_STAT : Nat := 0x60008
def RF.SMP_STAT_CTX_USED : FRef := ⟨Reg.SMP_STAT, 0, 10⟩
def RF.SMP_STAT_ORPHAN_DROP : FRef := ⟨Reg.SMP_STAT, 16, 32⟩
/-- BAR0 offset of SMP_LATE (R175). -/
def Reg.SMP_LATE : Nat := 0x60010
def RF.SMP_LATE_LATE_CNT : FRef := ⟨Reg.SMP_LATE, 0, 32⟩
def RF.SMP_LATE_TO_CNT : FRef := ⟨Reg.SMP_LATE, 32, 32⟩
/-- BAR0 offset of SMP_BUSY_CYC (R175). -/
def Reg.SMP_BUSY_CYC : Nat := 0x60018
def RF.SMP_BUSY_CYC_CYC : FRef := ⟨Reg.SMP_BUSY_CYC, 0, 64⟩
/-- BAR0 offset of UPD_STAT (R206). -/
def Reg.UPD_STAT (d : Nat) : Nat := 0x1023000 + 0x200000 * d
def RF.UPD_STAT_BUSY (d : Nat) : FRef := ⟨Reg.UPD_STAT d, 0, 1⟩
def RF.UPD_STAT_LANE_FLT (d : Nat) : FRef := ⟨Reg.UPD_STAT d, 1, 1⟩
def RF.UPD_STAT_QCNT (d : Nat) : FRef := ⟨Reg.UPD_STAT d, 8, 9⟩
def RF.UPD_STAT_LANES_OK (d : Nat) : FRef := ⟨Reg.UPD_STAT d, 20, 4⟩
/-- BAR0 offset of UPD_SLOT_BASE (R206). -/
def Reg.UPD_SLOT_BASE (d : Nat) : Nat := 0x1023008 + 0x200000 * d
def RF.UPD_SLOT_BASE_BASE (d : Nat) : FRef := ⟨Reg.UPD_SLOT_BASE d, 0, 40⟩
/-- BAR0 offset of UPD_SLOT_CFG (R206). -/
def Reg.UPD_SLOT_CFG (d : Nat) : Nat := 0x1023010 + 0x200000 * d
def RF.UPD_SLOT_CFG_SIZE64 (d : Nat) : FRef := ⟨Reg.UPD_SLOT_CFG d, 0, 32⟩
def RF.UPD_SLOT_CFG_NSLOT (d : Nat) : FRef := ⟨Reg.UPD_SLOT_CFG d, 32, 4⟩
/-- BAR0 offset of UPD_SLOT_STATE (R206). -/
def Reg.UPD_SLOT_STATE (d : Nat) : Nat := 0x1023018 + 0x200000 * d
def RF.UPD_SLOT_STATE_STATE (d k : Nat) : FRef := ⟨Reg.UPD_SLOT_STATE d, 4 * k, 2⟩
/-- BAR0 offset of UPD_TEACH_BASE (R206). -/
def Reg.UPD_TEACH_BASE (d i : Nat) : Nat := 0x1023020 + 0x200000 * d + 0x10 * i
def RF.UPD_TEACH_BASE_BASE (d i : Nat) : FRef := ⟨Reg.UPD_TEACH_BASE d i, 0, 40⟩
def RF.UPD_TEACH_BASE_VALID (d i : Nat) : FRef := ⟨Reg.UPD_TEACH_BASE d i, 63, 1⟩
/-- BAR0 offset of UPD_TEACH_LIM (R206). -/
def Reg.UPD_TEACH_LIM (d i : Nat) : Nat := 0x1023028 + 0x200000 * d + 0x10 * i
def RF.UPD_TEACH_LIM_LIMIT (d i : Nat) : FRef := ⟨Reg.UPD_TEACH_LIM d i, 0, 40⟩
/-- BAR0 offset of UPD_CNT (R206). -/
def Reg.UPD_CNT (d : Nat) : Nat := 0x1023060 + 0x200000 * d
def RF.UPD_CNT_SOUR_CNT (d : Nat) : FRef := ⟨Reg.UPD_CNT d, 0, 32⟩
def RF.UPD_CNT_STALE_CNT (d : Nat) : FRef := ⟨Reg.UPD_CNT d, 32, 32⟩
/-- BAR0 offset of UPD_BUSY_CYC (R206). -/
def Reg.UPD_BUSY_CYC (d : Nat) : Nat := 0x1023068 + 0x200000 * d
def RF.UPD_BUSY_CYC_CYC (d : Nat) : FRef := ⟨Reg.UPD_BUSY_CYC d, 0, 64⟩
/-- BAR0 offset of RT_GEN (R252). -/
def Reg.RT_GEN : Nat := 0x70000
def RF.RT_GEN_CUR_GEN : FRef := ⟨Reg.RT_GEN, 0, 4⟩
def RF.RT_GEN_BANK0 : FRef := ⟨Reg.RT_GEN, 8, 3⟩
def RF.RT_GEN_BANK1 : FRef := ⟨Reg.RT_GEN, 12, 3⟩
def RF.RT_GEN_DRAIN_LEFT : FRef := ⟨Reg.RT_GEN, 32, 32⟩
/-- BAR0 offset of RT_LOAD_ADDR (R252). -/
def Reg.RT_LOAD_ADDR : Nat := 0x70008
def RF.RT_LOAD_ADDR_ADDR : FRef := ⟨Reg.RT_LOAD_ADDR, 0, 64⟩
/-- BAR0 offset of RT_LOAD_CTL (R252). -/
def Reg.RT_LOAD_CTL : Nat := 0x70010
def RF.RT_LOAD_CTL_GEN : FRef := ⟨Reg.RT_LOAD_CTL, 0, 4⟩
def RF.RT_LOAD_CTL_RESULT : FRef := ⟨Reg.RT_LOAD_CTL, 8, 3⟩
def RF.RT_LOAD_CTL_REASON : FRef := ⟨Reg.RT_LOAD_CTL, 16, 16⟩
def RF.RT_LOAD_CTL_ACT : FRef := ⟨Reg.RT_LOAD_CTL, 62, 1⟩
def RF.RT_LOAD_CTL_GO : FRef := ⟨Reg.RT_LOAD_CTL, 63, 1⟩
/-- BAR0 offset of FAB_TIMERS (R252). -/
def Reg.FAB_TIMERS : Nat := 0x70018
def RF.FAB_TIMERS_LDN_HOLD : FRef := ⟨Reg.FAB_TIMERS, 0, 16⟩
def RF.FAB_TIMERS_TTL_HOP : FRef := ⟨Reg.FAB_TIMERS, 16, 16⟩
def RF.FAB_TIMERS_E2E_TO : FRef := ⟨Reg.FAB_TIMERS, 32, 16⟩
def RF.FAB_TIMERS_REVERT : FRef := ⟨Reg.FAB_TIMERS, 48, 16⟩
/-- BAR0 offset of FAB_DROP (R252). -/
def Reg.FAB_DROP (k : Nat) : Nat := 0x70020 + 0x8 * k
def RF.FAB_DROP0_STALE : FRef := ⟨Reg.FAB_DROP 0, 0, 32⟩
def RF.FAB_DROP0_JOB : FRef := ⟨Reg.FAB_DROP 0, 32, 32⟩
def RF.FAB_DROP1_NOROUTE : FRef := ⟨Reg.FAB_DROP 1, 0, 32⟩
def RF.FAB_DROP1_TTL : FRef := ⟨Reg.FAB_DROP 1, 32, 32⟩
def RF.FAB_DROP2_LINKLOSS : FRef := ⟨Reg.FAB_DROP 2, 0, 32⟩
def RF.FAB_DROP2_BAD : FRef := ⟨Reg.FAB_DROP 2, 32, 32⟩
/-- BAR0 offset of RT_SW_STEP (R252). -/
def Reg.RT_SW_STEP : Nat := 0x70038
def RF.RT_SW_STEP_STEP : FRef := ⟨Reg.RT_SW_STEP, 0, 32⟩
/-- BAR0 offset of RT_SW_CTL (R252). -/
def Reg.RT_SW_CTL : Nat := 0x70040
def RF.RT_SW_CTL_GID : FRef := ⟨Reg.RT_SW_CTL, 0, 10⟩
def RF.RT_SW_CTL_ATT : FRef := ⟨Reg.RT_SW_CTL, 16, 8⟩
def RF.RT_SW_CTL_RESULT : FRef := ⟨Reg.RT_SW_CTL, 24, 3⟩
def RF.RT_SW_CTL_REASON : FRef := ⟨Reg.RT_SW_CTL, 32, 16⟩
def RF.RT_SW_CTL_STATUS : FRef := ⟨Reg.RT_SW_CTL, 48, 8⟩
def RF.RT_SW_CTL_GO : FRef := ⟨Reg.RT_SW_CTL, 63, 1⟩
/-- BAR0 offset of FAB_PORT (R252). -/
def Reg.FAB_PORT (p : Nat) : Nat := 0x70100 + 0x8 * p
def RF.FAB_PORT_STATE (p : Nat) : FRef := ⟨Reg.FAB_PORT p, 0, 3⟩
def RF.FAB_PORT_KIND (p : Nat) : FRef := ⟨Reg.FAB_PORT p, 4, 2⟩
def RF.FAB_PORT_DIS (p : Nat) : FRef := ⟨Reg.FAB_PORT p, 8, 1⟩
def RF.FAB_PORT_ALT (p : Nat) : FRef := ⟨Reg.FAB_PORT p, 9, 1⟩
def RF.FAB_PORT_RETRY (p : Nat) : FRef := ⟨Reg.FAB_PORT p, 16, 32⟩
def RF.FAB_PORT_DOWNS (p : Nat) : FRef := ⟨Reg.FAB_PORT p, 48, 16⟩
/-- BAR0 offset of FAB_CRED (R252). -/
def Reg.FAB_CRED (p : Nat) : Nat := 0x70300 + 0x8 * p
def RF.FAB_CRED_VC (p k : Nat) : FRef := ⟨Reg.FAB_CRED p, 8 * k, 8⟩
/-- BAR0 offset of FAB_NI_CFG (R252). -/
def Reg.FAB_NI_CFG (d : Nat) : Nat := 0x1024000 + 0x200000 * d
def RF.FAB_NI_CFG_JOB (d : Nat) : FRef := ⟨Reg.FAB_NI_CFG d, 0, 8⟩
def RF.FAB_NI_CFG_PGEN (d : Nat) : FRef := ⟨Reg.FAB_NI_CFG d, 8, 8⟩
/-- BAR0 offset of FAB_NI_STAT (R252). -/
def Reg.FAB_NI_STAT (d : Nat) : Nat := 0x1024008 + 0x200000 * d
def RF.FAB_NI_STAT_CTX_USED (d : Nat) : FRef := ⟨Reg.FAB_NI_STAT d, 0, 13⟩
def RF.FAB_NI_STAT_ORPHAN (d : Nat) : FRef := ⟨Reg.FAB_NI_STAT d, 16, 24⟩
def RF.FAB_NI_STAT_E2E (d : Nat) : FRef := ⟨Reg.FAB_NI_STAT d, 40, 24⟩
/-- BAR0 offset of SWM_STAT (R283 ff.). -/
def Reg.SWM_STAT : Nat := 0x80000
def RF.SWM_STAT_GROUPS : FRef := ⟨Reg.SWM_STAT, 0, 12⟩
def RF.SWM_STAT_MEMW : FRef := ⟨Reg.SWM_STAT, 16, 21⟩
def RF.SWM_STAT_RELAYS : FRef := ⟨Reg.SWM_STAT, 37, 17⟩
/-- BAR0 offset of SWM_PLAN_SEL (R283 ff.). -/
def Reg.SWM_PLAN_SEL : Nat := 0x80008
def RF.SWM_PLAN_SEL_GID : FRef := ⟨Reg.SWM_PLAN_SEL, 0, 10⟩
def RF.SWM_PLAN_SEL_JOB : FRef := ⟨Reg.SWM_PLAN_SEL, 16, 8⟩
/-- BAR0 offset of SWM_PLAN (R283 ff.). -/
def Reg.SWM_PLAN : Nat := 0x80010
def RF.SWM_PLAN_VALID : FRef := ⟨Reg.SWM_PLAN, 0, 1⟩
def RF.SWM_PLAN_EPOCH : FRef := ⟨Reg.SWM_PLAN, 8, 8⟩
def RF.SWM_PLAN_DEPTH_L : FRef := ⟨Reg.SWM_PLAN, 16, 2⟩
def RF.SWM_PLAN_DEPTH_B : FRef := ⟨Reg.SWM_PLAN, 18, 6⟩
def RF.SWM_PLAN_MODS : FRef := ⟨Reg.SWM_PLAN, 24, 13⟩
def RF.SWM_PLAN_RATE : FRef := ⟨Reg.SWM_PLAN, 40, 24⟩
/-- BAR0 offset of SWM_CNT (R283 ff.). -/
def Reg.SWM_CNT : Nat := 0x80018
def RF.SWM_CNT_OVF : FRef := ⟨Reg.SWM_CNT, 0, 32⟩
def RF.SWM_CNT_REPLAN : FRef := ⟨Reg.SWM_CNT, 32, 16⟩
def RF.SWM_CNT_STALE_EP : FRef := ⟨Reg.SWM_CNT, 48, 16⟩
/-- BAR0 offset of CAP_CFG (R283 ff.). -/
def Reg.CAP_CFG : Nat := 0x80020
def RF.CAP_CFG_ASK_US : FRef := ⟨Reg.CAP_CFG, 0, 16⟩
/-- BAR0 offset of CAP_CNT (R283 ff.). -/
def Reg.CAP_CNT : Nat := 0x80028
def RF.CAP_CNT_COMMITS : FRef := ⟨Reg.CAP_CNT, 0, 32⟩
def RF.CAP_CNT_ABORTS : FRef := ⟨Reg.CAP_CNT, 32, 32⟩
/-- BAR0 offset of CAP_LATE (R283 ff.). -/
def Reg.CAP_LATE : Nat := 0x80030
def RF.CAP_LATE_LATE : FRef := ⟨Reg.CAP_LATE, 0, 32⟩
def RF.CAP_LATE_INDOUBT : FRef := ⟨Reg.CAP_LATE, 32, 16⟩
/-- BAR0 offset of CAP_DIE_STAT (R283 ff.). -/
def Reg.CAP_DIE_STAT (d : Nat) : Nat := 0x1025000 + 0x200000 * d
def RF.CAP_DIE_STAT_STATE (d : Nat) : FRef := ⟨Reg.CAP_DIE_STAT d, 0, 3⟩
def RF.CAP_DIE_STAT_VOTE (d : Nat) : FRef := ⟨Reg.CAP_DIE_STAT d, 4, 2⟩
def RF.CAP_DIE_STAT_ATT (d : Nat) : FRef := ⟨Reg.CAP_DIE_STAT d, 8, 8⟩
def RF.CAP_DIE_STAT_GID (d : Nat) : FRef := ⟨Reg.CAP_DIE_STAT d, 16, 10⟩
def RF.CAP_DIE_STAT_STEP (d : Nat) : FRef := ⟨Reg.CAP_DIE_STAT d, 32, 32⟩
/-- BAR0 offset of SWM_DIE_STAT (R283 ff.). -/
def Reg.SWM_DIE_STAT (d : Nat) : Nat := 0x1025008 + 0x200000 * d
def RF.SWM_DIE_STAT_OPS (d : Nat) : FRef := ⟨Reg.SWM_DIE_STAT d, 0, 8⟩
def RF.SWM_DIE_STAT_OVF_CNT (d : Nat) : FRef := ⟨Reg.SWM_DIE_STAT d, 16, 32⟩
/-- BAR0 offset of OPT_PORT_CFG (R322). -/
def Reg.OPT_PORT_CFG (p : Nat) : Nat := 0x90000 + 0x8 * p
def RF.OPT_PORT_CFG_LULL_EN (p : Nat) : FRef := ⟨Reg.OPT_PORT_CFG p, 0, 1⟩
def RF.OPT_PORT_CFG_NOLULL (p : Nat) : FRef := ⟨Reg.OPT_PORT_CFG p, 1, 1⟩
def RF.OPT_PORT_CFG_LULL_IDLE (p : Nat) : FRef := ⟨Reg.OPT_PORT_CFG p, 8, 8⟩
def RF.OPT_PORT_CFG_ATTN (p : Nat) : FRef := ⟨Reg.OPT_PORT_CFG p, 16, 5⟩
/-- BAR0 offset of OPT_PORT_STAT (R322). -/
def Reg.OPT_PORT_STAT (p : Nat) : Nat := 0x90100 + 0x8 * p
def RF.OPT_PORT_STAT_TSTAGE (p : Nat) : FRef := ⟨Reg.OPT_PORT_STAT p, 0, 3⟩
def RF.OPT_PORT_STAT_SHUT (p : Nat) : FRef := ⟨Reg.OPT_PORT_STAT p, 3, 1⟩
def RF.OPT_PORT_STAT_LOS (p : Nat) : FRef := ⟨Reg.OPT_PORT_STAT p, 4, 1⟩
def RF.OPT_PORT_STAT_PWR_WARN (p : Nat) : FRef := ⟨Reg.OPT_PORT_STAT p, 5, 1⟩
def RF.OPT_PORT_STAT_PWR_ALARM (p : Nat) : FRef := ⟨Reg.OPT_PORT_STAT p, 6, 1⟩
def RF.OPT_PORT_STAT_LSUB (p : Nat) : FRef := ⟨Reg.OPT_PORT_STAT p, 8, 3⟩
def RF.OPT_PORT_STAT_FEC_UCW (p : Nat) : FRef := ⟨Reg.OPT_PORT_STAT p, 11, 21⟩
def RF.OPT_PORT_STAT_FEC_CORR (p : Nat) : FRef := ⟨Reg.OPT_PORT_STAT p, 32, 32⟩
/-- BAR0 offset of OPT_RXPWR (R322). -/
def Reg.OPT_RXPWR (p j : Nat) : Nat := 0x90400 + 0x20 * p + 0x8 * j
def RF.OPT_RXPWR_PWR (p j k : Nat) : FRef := ⟨Reg.OPT_RXPWR p j, 16 * k, 16⟩
/-- BAR0 offset of OPT_THRESH (R322). -/
def Reg.OPT_THRESH : Nat := 0x90800
def RF.OPT_THRESH_WARN_LO : FRef := ⟨Reg.OPT_THRESH, 0, 16⟩
def RF.OPT_THRESH_ALARM_LO : FRef := ⟨Reg.OPT_THRESH, 16, 16⟩
def RF.OPT_THRESH_WARN_HI : FRef := ⟨Reg.OPT_THRESH, 32, 16⟩
def RF.OPT_THRESH_ALARM_HI : FRef := ⟨Reg.OPT_THRESH, 48, 16⟩
/-- BAR0 offset of OPT_SAFE (R322). -/
def Reg.OPT_SAFE : Nat := 0x90808
def RF.OPT_SAFE_MATED : FRef := ⟨Reg.OPT_SAFE, 0, 4⟩
def RF.OPT_SAFE_BACKSTOP : FRef := ⟨Reg.OPT_SAFE, 4, 1⟩
def RF.OPT_SAFE_SHUT_CNT : FRef := ⟨Reg.OPT_SAFE, 16, 32⟩
/-- BAR0 offset of OPT_DPERM (R322). -/
def Reg.OPT_DPERM : Nat := 0x90810
def RF.OPT_DPERM_UCW_LIM : FRef := ⟨Reg.OPT_DPERM, 0, 16⟩
def RF.OPT_DPERM_RETRAIN_LIM : FRef := ⟨Reg.OPT_DPERM, 16, 4⟩
/-- BAR0 offset of OPT_DLANE_SEL (R322). -/
def Reg.OPT_DLANE_SEL : Nat := 0x90818
def RF.OPT_DLANE_SEL_DIE : FRef := ⟨Reg.OPT_DLANE_SEL, 0, 3⟩
def RF.OPT_DLANE_SEL_DIR : FRef := ⟨Reg.OPT_DLANE_SEL, 3, 1⟩
def RF.OPT_DLANE_SEL_LANE : FRef := ⟨Reg.OPT_DLANE_SEL, 4, 8⟩
/-- BAR0 offset of OPT_DLANE_PWR (R322). -/
def Reg.OPT_DLANE_PWR : Nat := 0x90820
def RF.OPT_DLANE_PWR_PWR : FRef := ⟨Reg.OPT_DLANE_PWR, 0, 16⟩
def RF.OPT_DLANE_PWR_UCW : FRef := ⟨Reg.OPT_DLANE_PWR, 16, 16⟩
def RF.OPT_DLANE_PWR_PERM : FRef := ⟨Reg.OPT_DLANE_PWR, 32, 1⟩
/-- BAR0 offset of LSR_BANK (R322). -/
def Reg.LSR_BANK (b : Nat) : Nat := 0xA0000 + 0x8 * b
def RF.LSR_BANK_SPARES (b : Nat) : FRef := ⟨Reg.LSR_BANK b, 0, 3⟩
def RF.LSR_BANK_ACTIVE (b : Nat) : FRef := ⟨Reg.LSR_BANK b, 4, 35⟩
/-- BAR0 offset of LSR_SEL (R322). -/
def Reg.LSR_SEL : Nat := 0xA0040
def RF.LSR_SEL_BANK : FRef := ⟨Reg.LSR_SEL, 0, 3⟩
def RF.LSR_SEL_LASER : FRef := ⟨Reg.LSR_SEL, 3, 6⟩
/-- BAR0 offset of LSR_STAT (R322). -/
def Reg.LSR_STAT : Nat := 0xA0048
def RF.LSR_STAT_STATE : FRef := ⟨Reg.LSR_STAT, 0, 3⟩
def RF.LSR_STAT_SLOT : FRef := ⟨Reg.LSR_STAT, 8, 8⟩
def RF.LSR_STAT_BIAS : FRef := ⟨Reg.LSR_STAT, 16, 16⟩
def RF.LSR_STAT_MPD : FRef := ⟨Reg.LSR_STAT, 32, 16⟩
/-- BAR0 offset of LSR_HOURS (R322). -/
def Reg.LSR_HOURS : Nat := 0xA0050
def RF.LSR_HOURS_HOURS : FRef := ⟨Reg.LSR_HOURS, 0, 32⟩
def RF.LSR_HOURS_CURVE : FRef := ⟨Reg.LSR_HOURS, 32, 16⟩
/-- BAR0 offset of LSR_AGE_CFG (R322). -/
def Reg.LSR_AGE_CFG : Nat := 0xA0058
def RF.LSR_AGE_CFG_AGE_MARGIN : FRef := ⟨Reg.LSR_AGE_CFG, 0, 8⟩
def RF.LSR_AGE_CFG_RETIRE_BIAS : FRef := ⟨Reg.LSR_AGE_CFG, 16, 16⟩
/-- BAR0 offset of MEM_CFG (R348). -/
def Reg.MEM_CFG (d : Nat) : Nat := 0x1026000 + 0x200000 * d
def RF.MEM_CFG_RATE (d : Nat) : FRef := ⟨Reg.MEM_CFG d, 0, 3⟩
def RF.MEM_CFG_CH_UE_LIM (d : Nat) : FRef := ⟨Reg.MEM_CFG d, 8, 8⟩
/-- BAR0 offset of MEM_CAP (R348). -/
def Reg.MEM_CAP (d : Nat) : Nat := 0x1026008 + 0x200000 * d
def RF.MEM_CAP_USABLE (d : Nat) : FRef := ⟨Reg.MEM_CAP d, 0, 40⟩
def RF.MEM_CAP_NCH (d : Nat) : FRef := ⟨Reg.MEM_CAP d, 40, 5⟩
def RF.MEM_CAP_RMAX (d : Nat) : FRef := ⟨Reg.MEM_CAP d, 48, 7⟩
/-- BAR0 offset of MEM_CHMAP (R348). -/
def Reg.MEM_CHMAP (d : Nat) : Nat := 0x1026010 + 0x200000 * d
def RF.MEM_CHMAP_INSVC (d : Nat) : FRef := ⟨Reg.MEM_CHMAP d, 0, 16⟩
def RF.MEM_CHMAP_FAILED (d : Nat) : FRef := ⟨Reg.MEM_CHMAP d, 16, 16⟩
/-- BAR0 offset of MEM_CH_STAT (R348). -/
def Reg.MEM_CH_STAT (d i : Nat) : Nat := 0x1026100 + 0x200000 * d + 0x8 * i
def RF.MEM_CH_STAT_BAND (d i : Nat) : FRef := ⟨Reg.MEM_CH_STAT d i, 0, 2⟩
def RF.MEM_CH_STAT_THROT (d i : Nat) : FRef := ⟨Reg.MEM_CH_STAT d i, 2, 1⟩
def RF.MEM_CH_STAT_TRAINED (d i : Nat) : FRef := ⟨Reg.MEM_CH_STAT d i, 3, 1⟩
def RF.MEM_CH_STAT_RET (d i : Nat) : FRef := ⟨Reg.MEM_CH_STAT d i, 4, 7⟩
def RF.MEM_CH_STAT_CE (d i : Nat) : FRef := ⟨Reg.MEM_CH_STAT d i, 16, 32⟩
def RF.MEM_CH_STAT_UE (d i : Nat) : FRef := ⟨Reg.MEM_CH_STAT d i, 48, 16⟩
/-- BAR0 offset of MEM_RETIRE (R348). -/
def Reg.MEM_RETIRE (d : Nat) : Nat := 0x1026200 + 0x200000 * d
def RF.MEM_RETIRE_CH (d : Nat) : FRef := ⟨Reg.MEM_RETIRE d, 0, 4⟩
def RF.MEM_RETIRE_PAGE (d : Nat) : FRef := ⟨Reg.MEM_RETIRE d, 4, 17⟩
def RF.MEM_RETIRE_RESULT (d : Nat) : FRef := ⟨Reg.MEM_RETIRE d, 24, 2⟩
def RF.MEM_RETIRE_REASON (d : Nat) : FRef := ⟨Reg.MEM_RETIRE d, 32, 16⟩
def RF.MEM_RETIRE_GO (d : Nat) : FRef := ⟨Reg.MEM_RETIRE d, 63, 1⟩
/-- BAR0 offset of WCB_CFG (R348). -/
def Reg.WCB_CFG (d : Nat) : Nat := 0x1027000 + 0x200000 * d
def RF.WCB_CFG_AGE (d : Nat) : FRef := ⟨Reg.WCB_CFG d, 0, 8⟩
/-- BAR0 offset of WCB_STAT (R348). -/
def Reg.WCB_STAT (d : Nat) : Nat := 0x1027008 + 0x200000 * d
def RF.WCB_STAT_FULLW (d : Nat) : FRef := ⟨Reg.WCB_STAT d, 0, 32⟩
def RF.WCB_STAT_RMW (d : Nat) : FRef := ⟨Reg.WCB_STAT d, 32, 32⟩
/-- BAR0 offset of WCB_FWD (R348). -/
def Reg.WCB_FWD (d : Nat) : Nat := 0x1027010 + 0x200000 * d
def RF.WCB_FWD_FWD (d : Nat) : FRef := ⟨Reg.WCB_FWD d, 0, 32⟩
def RF.WCB_FWD_FORCED (d : Nat) : FRef := ⟨Reg.WCB_FWD d, 32, 32⟩
/-- BAR0 offset of PCI_LINK (R383). -/
def Reg.PCI_LINK : Nat := 0xB0000
def RF.PCI_LINK_RATE : FRef := ⟨Reg.PCI_LINK, 0, 3⟩
def RF.PCI_LINK_WIDTH : FRef := ⟨Reg.PCI_LINK, 3, 5⟩
def RF.PCI_LINK_CTO : FRef := ⟨Reg.PCI_LINK, 16, 16⟩
def RF.PCI_LINK_DMA_TO : FRef := ⟨Reg.PCI_LINK, 32, 16⟩
/-- BAR0 offset of PCI_APW (R383). -/
def Reg.PCI_APW (w : Nat) : Nat := 0xB0100 + 0x8 * w
def RF.PCI_APW_OFFSET (w : Nat) : FRef := ⟨Reg.PCI_APW w, 0, 40⟩
def RF.PCI_APW_TGT (w : Nat) : FRef := ⟨Reg.PCI_APW w, 40, 4⟩
def RF.PCI_APW_EN (w : Nat) : FRef := ⟨Reg.PCI_APW w, 63, 1⟩
/-- BAR0 offset of PCI_DMAW_BASE (R383). -/
def Reg.PCI_DMAW_BASE (f w : Nat) : Nat := 0xB1000 + 0x100 * f + 0x10 * w
def RF.PCI_DMAW_BASE_RD (f w : Nat) : FRef := ⟨Reg.PCI_DMAW_BASE f w, 0, 1⟩
def RF.PCI_DMAW_BASE_WR (f w : Nat) : FRef := ⟨Reg.PCI_DMAW_BASE f w, 1, 1⟩
def RF.PCI_DMAW_BASE_BASE (f w : Nat) : FRef := ⟨Reg.PCI_DMAW_BASE f w, 12, 52⟩
/-- BAR0 offset of PCI_DMAW_LIM (R383). -/
def Reg.PCI_DMAW_LIM (f w : Nat) : Nat := 0xB1008 + 0x100 * f + 0x10 * w
def RF.PCI_DMAW_LIM_LIMIT (f w : Nat) : FRef := ⟨Reg.PCI_DMAW_LIM f w, 12, 52⟩
/-- BAR0 offset of PCI_DMA_STAT (R383). -/
def Reg.PCI_DMA_STAT (f : Nat) : Nat := 0xB2000 + 0x8 * f
def RF.PCI_DMA_STAT_OLDREQ (f : Nat) : FRef := ⟨Reg.PCI_DMA_STAT f, 0, 16⟩
def RF.PCI_DMA_STAT_CMPFLT (f : Nat) : FRef := ⟨Reg.PCI_DMA_STAT f, 16, 1⟩
def RF.PCI_DMA_STAT_BLOCKED (f : Nat) : FRef := ⟨Reg.PCI_DMA_STAT f, 32, 16⟩
def RF.PCI_DMA_STAT_UNEXP (f : Nat) : FRef := ⟨Reg.PCI_DMA_STAT f, 48, 16⟩
/-- BAR0 offset of RING_SQ (R383). -/
def Reg.RING_SQ (n : Nat) : Nat := 0xC0000 + 0x20 * n
def RF.RING_SQ_LOG2 (n : Nat) : FRef := ⟨Reg.RING_SQ n, 0, 4⟩
def RF.RING_SQ_ADDR (n : Nat) : FRef := ⟨Reg.RING_SQ n, 12, 52⟩
/-- BAR0 offset of RING_CQ (R383). -/
def Reg.RING_CQ (n : Nat) : Nat := 0xC0008 + 0x20 * n
def RF.RING_CQ_LOG2 (n : Nat) : FRef := ⟨Reg.RING_CQ n, 0, 4⟩
def RF.RING_CQ_ADDR (n : Nat) : FRef := ⟨Reg.RING_CQ n, 12, 52⟩
/-- BAR0 offset of RING_CFG (R383). -/
def Reg.RING_CFG (n : Nat) : Nat := 0xC0010 + 0x20 * n
def RF.RING_CFG_EN (n : Nat) : FRef := ⟨Reg.RING_CFG n, 0, 1⟩
def RF.RING_CFG_OWNER (n : Nat) : FRef := ⟨Reg.RING_CFG n, 4, 4⟩
def RF.RING_CFG_LIDX (n : Nat) : FRef := ⟨Reg.RING_CFG n, 8, 8⟩
def RF.RING_CFG_VEC (n : Nat) : FRef := ⟨Reg.RING_CFG n, 16, 8⟩
def RF.RING_CFG_CQ_CNT (n : Nat) : FRef := ⟨Reg.RING_CFG n, 24, 8⟩
def RF.RING_CFG_CQ_HOLD (n : Nat) : FRef := ⟨Reg.RING_CFG n, 32, 16⟩
/-- BAR0 offset of RING_STAT (R383). -/
def Reg.RING_STAT (n : Nat) : Nat := 0xC0018 + 0x20 * n
def RF.RING_STAT_STATE (n : Nat) : FRef := ⟨Reg.RING_STAT n, 0, 2⟩
def RF.RING_STAT_CAUSE (n : Nat) : FRef := ⟨Reg.RING_STAT n, 2, 6⟩
def RF.RING_STAT_HELD (n : Nat) : FRef := ⟨Reg.RING_STAT n, 8, 8⟩
def RF.RING_STAT_REASON (n : Nat) : FRef := ⟨Reg.RING_STAT n, 16, 16⟩
def RF.RING_STAT_SQHEAD (n : Nat) : FRef := ⟨Reg.RING_STAT n, 32, 16⟩
def RF.RING_STAT_CQTAIL (n : Nat) : FRef := ⟨Reg.RING_STAT n, 48, 16⟩
/-- BAR0 offset of ETH_PORT (R383). -/
def Reg.ETH_PORT (i : Nat) : Nat := 0xD0000 + 0x40 * i
def RF.ETH_PORT_LINK (i : Nat) : FRef := ⟨Reg.ETH_PORT i, 0, 2⟩
def RF.ETH_PORT_VLAN_EN (i : Nat) : FRef := ⟨Reg.ETH_PORT i, 2, 1⟩
def RF.ETH_PORT_VID (i : Nat) : FRef := ⟨Reg.ETH_PORT i, 16, 12⟩
def RF.ETH_PORT_PCP (i : Nat) : FRef := ⟨Reg.ETH_PORT i, 28, 3⟩
def RF.ETH_PORT_DROP (i : Nat) : FRef := ⟨Reg.ETH_PORT i, 32, 32⟩
/-- BAR0 offset of ETH_IPH (R383). -/
def Reg.ETH_IPH (i : Nat) : Nat := 0xD0008 + 0x40 * i
def RF.ETH_IPH_ADDR (i : Nat) : FRef := ⟨Reg.ETH_IPH i, 0, 64⟩
/-- BAR0 offset of ETH_IPL (R383). -/
def Reg.ETH_IPL (i : Nat) : Nat := 0xD0010 + 0x40 * i
def RF.ETH_IPL_ADDR (i : Nat) : FRef := ⟨Reg.ETH_IPL i, 0, 64⟩
/-- BAR0 offset of ETH_GW (R383). -/
def Reg.ETH_GW (i : Nat) : Nat := 0xD0018 + 0x40 * i
def RF.ETH_GW_MAC (i : Nat) : FRef := ⟨Reg.ETH_GW i, 0, 48⟩
/-- BAR0 offset of WORT_CFG (R383). -/
def Reg.WORT_CFG : Nat := 0xE0000
def RF.WORT_CFG_RTO : FRef := ⟨Reg.WORT_CFG, 0, 16⟩
def RF.WORT_CFG_SRCPORT : FRef := ⟨Reg.WORT_CFG, 16, 16⟩
/-- BAR0 offset of WORT_PART (R383). -/
def Reg.WORT_PART (p : Nat) : Nat := 0xE0100 + 0x10 * p
def RF.WORT_PART_BACKLOG (p : Nat) : FRef := ⟨Reg.WORT_PART p, 0, 40⟩
/-- BAR0 offset of WORT_PART2 (R383). -/
def Reg.WORT_PART2 (p : Nat) : Nat := 0xE0108 + 0x10 * p
def RF.WORT_PART2_WEFF (p : Nat) : FRef := ⟨Reg.WORT_PART2 p, 0, 32⟩
def RF.WORT_PART2_BPRIME (p : Nat) : FRef := ⟨Reg.WORT_PART2 p, 32, 32⟩
/-- BAR0 offset of QN_BOOT_STAT (R418). -/
def Reg.QN_BOOT_STAT : Nat := 0x50000
def RF.QN_BOOT_STAT_PHASE : FRef := ⟨Reg.QN_BOOT_STAT, 0, 3⟩
def RF.QN_BOOT_STAT_PATH : FRef := ⟨Reg.QN_BOOT_STAT, 3, 2⟩
def RF.QN_BOOT_STAT_READY : FRef := ⟨Reg.QN_BOOT_STAT, 5, 1⟩
def RF.QN_BOOT_STAT_COLD_WHY : FRef := ⟨Reg.QN_BOOT_STAT, 8, 5⟩
def RF.QN_BOOT_STAT_RERUN : FRef := ⟨Reg.QN_BOOT_STAT, 13, 3⟩
def RF.QN_BOOT_STAT_STOPCODE : FRef := ⟨Reg.QN_BOOT_STAT, 16, 8⟩
def RF.QN_BOOT_STAT_ELAPSED : FRef := ⟨Reg.QN_BOOT_STAT, 32, 32⟩
/-- BAR0 offset of QN_BOOT_CFG (R418). -/
def Reg.QN_BOOT_CFG : Nat := 0x50008
def RF.QN_BOOT_CFG_PEER_WAIT : FRef := ⟨Reg.QN_BOOT_CFG, 0, 8⟩
/-- BAR0 offset of QN_RESET (R418). -/
def Reg.QN_RESET : Nat := 0x50010
def RF.QN_RESET_LEVEL : FRef := ⟨Reg.QN_RESET, 0, 2⟩
def RF.QN_RESET_ID : FRef := ⟨Reg.QN_RESET, 2, 11⟩
def RF.QN_RESET_SELFTEST : FRef := ⟨Reg.QN_RESET, 13, 1⟩
def RF.QN_RESET_COLD : FRef := ⟨Reg.QN_RESET, 14, 1⟩
def RF.QN_RESET_RESULT : FRef := ⟨Reg.QN_RESET, 16, 2⟩
def RF.QN_RESET_REASON : FRef := ⟨Reg.QN_RESET, 32, 16⟩
def RF.QN_RESET_GO : FRef := ⟨Reg.QN_RESET, 63, 1⟩
/-- BAR0 offset of QN_WIRE_ADDR (R418). -/
def Reg.QN_WIRE_ADDR : Nat := 0x50018
def RF.QN_WIRE_ADDR_ADDR : FRef := ⟨Reg.QN_WIRE_ADDR, 0, 64⟩
/-- BAR0 offset of QN_WIRE_CTL (R418). -/
def Reg.QN_WIRE_CTL : Nat := 0x50020
def RF.QN_WIRE_CTL_MODULE : FRef := ⟨Reg.QN_WIRE_CTL, 0, 12⟩
def RF.QN_WIRE_CTL_MVALID : FRef := ⟨Reg.QN_WIRE_CTL, 12, 1⟩
def RF.QN_WIRE_CTL_RESULT : FRef := ⟨Reg.QN_WIRE_CTL, 16, 2⟩
def RF.QN_WIRE_CTL_REASON : FRef := ⟨Reg.QN_WIRE_CTL, 32, 16⟩
def RF.QN_WIRE_CTL_GO : FRef := ⟨Reg.QN_WIRE_CTL, 63, 1⟩
/-- BAR0 offset of QN_TOPO (R418). -/
def Reg.QN_TOPO (k : Nat) : Nat := 0x50028 + 0x8 * k
def RF.QN_TOPO_PORT (k m : Nat) : FRef := ⟨Reg.QN_TOPO k, 4 * m, 4⟩
/-- BAR0 offset of QN_DIE_MAP (R418). -/
def Reg.QN_DIE_MAP : Nat := 0x50038
def RF.QN_DIE_MAP_STATE (k : Nat) : FRef := ⟨Reg.QN_DIE_MAP, 4 * k, 4⟩
def RF.QN_DIE_MAP_LOST : FRef := ⟨Reg.QN_DIE_MAP, 32, 8⟩
/-- BAR0 offset of QN_SPARE (R418). -/
def Reg.QN_SPARE (d : Nat) : Nat := 0x50040 + 0x8 * d
def RF.QN_SPARE_CL_INSVC (d : Nat) : FRef := ⟨Reg.QN_SPARE d, 0, 6⟩
def RF.QN_SPARE_CL_FOLD (d : Nat) : FRef := ⟨Reg.QN_SPARE d, 8, 5⟩
def RF.QN_SPARE_BK_INSVC (d : Nat) : FRef := ⟨Reg.QN_SPARE d, 16, 7⟩
def RF.QN_SPARE_BK_EMU (d : Nat) : FRef := ⟨Reg.QN_SPARE d, 24, 7⟩
def RF.QN_SPARE_ARR_INSVC (d : Nat) : FRef := ⟨Reg.QN_SPARE d, 32, 3⟩
def RF.QN_SPARE_CH_INSVC (d : Nat) : FRef := ⟨Reg.QN_SPARE d, 35, 5⟩
/-- BAR0 offset of QN_RETAIN (R418). -/
def Reg.QN_RETAIN : Nat := 0x50080
def RF.QN_RETAIN_SEQ : FRef := ⟨Reg.QN_RETAIN, 0, 32⟩
def RF.QN_RETAIN_SLOT : FRef := ⟨Reg.QN_RETAIN, 32, 1⟩
def RF.QN_RETAIN_A_OK : FRef := ⟨Reg.QN_RETAIN, 33, 1⟩
def RF.QN_RETAIN_B_OK : FRef := ⟨Reg.QN_RETAIN, 34, 1⟩
def RF.QN_RETAIN_BUSY : FRef := ⟨Reg.QN_RETAIN, 35, 1⟩
def RF.QN_RETAIN_LOST : FRef := ⟨Reg.QN_RETAIN, 36, 1⟩
def RF.QN_RETAIN_FAIL : FRef := ⟨Reg.QN_RETAIN, 37, 1⟩
def RF.QN_RETAIN_STORE : FRef := ⟨Reg.QN_RETAIN, 63, 1⟩
/-- BAR0 offset of QN_FW_STAT (R418). -/
def Reg.QN_FW_STAT : Nat := 0x50088
def RF.QN_FW_STAT_SLOT : FRef := ⟨Reg.QN_FW_STAT, 0, 1⟩
def RF.QN_FW_STAT_FALLBACK : FRef := ⟨Reg.QN_FW_STAT, 1, 1⟩
def RF.QN_FW_STAT_VERSION : FRef := ⟨Reg.QN_FW_STAT, 32, 32⟩
/-- BAR0 offset of QN_FW_CTL (R418). -/
def Reg.QN_FW_CTL : Nat := 0x50090
def RF.QN_FW_CTL_RESULT : FRef := ⟨Reg.QN_FW_CTL, 0, 2⟩
def RF.QN_FW_CTL_GO : FRef := ⟨Reg.QN_FW_CTL, 63, 1⟩
/-- BAR0 offset of QN_FW_ADDR (R418). -/
def Reg.QN_FW_ADDR : Nat := 0x50098
def RF.QN_FW_ADDR_ADDR : FRef := ⟨Reg.QN_FW_ADDR, 0, 64⟩
/-- BAR0 offset of LOG_STAT (R446). -/
def Reg.LOG_STAT : Nat := 0xF0000
def RF.LOG_STAT_NEXTSEQ : FRef := ⟨Reg.LOG_STAT, 0, 32⟩
def RF.LOG_STAT_MODE : FRef := ⟨Reg.LOG_STAT, 32, 2⟩
def RF.LOG_STAT_LOGFLT : FRef := ⟨Reg.LOG_STAT, 34, 1⟩
def RF.LOG_STAT_MIRFLT : FRef := ⟨Reg.LOG_STAT, 35, 1⟩
def RF.LOG_STAT_MGLINK : FRef := ⟨Reg.LOG_STAT, 36, 2⟩
def RF.LOG_STAT_SSTATE : FRef := ⟨Reg.LOG_STAT, 38, 2⟩
def RF.LOG_STAT_QRST : FRef := ⟨Reg.LOG_STAT, 40, 1⟩
def RF.LOG_STAT_OVERRUN : FRef := ⟨Reg.LOG_STAT, 48, 16⟩
/-- BAR0 offset of LOG_RDSEQ (R446). -/
def Reg.LOG_RDSEQ : Nat := 0xF0008
def RF.LOG_RDSEQ_RDSEQ : FRef := ⟨Reg.LOG_RDSEQ, 0, 32⟩
def RF.LOG_RDSEQ_UNLOGGED : FRef := ⟨Reg.LOG_RDSEQ, 32, 32⟩
/-- BAR0 offset of LOG_MGMT_CFG (R446). -/
def Reg.LOG_MGMT_CFG : Nat := 0xF0010
def RF.LOG_MGMT_CFG_PORT : FRef := ⟨Reg.LOG_MGMT_CFG, 0, 16⟩
def RF.LOG_MGMT_CFG_PUSH_EN : FRef := ⟨Reg.LOG_MGMT_CFG, 16, 1⟩
def RF.LOG_MGMT_CFG_PUSH_SEV : FRef := ⟨Reg.LOG_MGMT_CFG, 17, 2⟩
def RF.LOG_MGMT_CFG_HB_EN : FRef := ⟨Reg.LOG_MGMT_CFG, 19, 1⟩
/-- BAR0 offset of LOG_MGMT_DST (R446). -/
def Reg.LOG_MGMT_DST (k : Nat) : Nat := 0xF0018 + 0x8 * k
def RF.LOG_MGMT_DST_ADDR (k : Nat) : FRef := ⟨Reg.LOG_MGMT_DST k, 0, 64⟩
/-- BAR0 offset of LOG_MIRSEQ (R446). -/
def Reg.LOG_MIRSEQ : Nat := 0xF0028
def RF.LOG_MIRSEQ_NEXT : FRef := ⟨Reg.LOG_MIRSEQ, 0, 32⟩
/-- BAR0 offset of LOG_LG_TIME (R446). -/
def Reg.LOG_LG_TIME : Nat := 0xF0100
def RF.LOG_LG_TIME_TIME : FRef := ⟨Reg.LOG_LG_TIME, 0, 64⟩
/-- BAR0 offset of LOG_LG_CAUSE (R446). -/
def Reg.LOG_LG_CAUSE : Nat := 0xF0108
def RF.LOG_LG_CAUSE_CAUSE : FRef := ⟨Reg.LOG_LG_CAUSE, 0, 8⟩
def RF.LOG_LG_CAUSE_COUNT : FRef := ⟨Reg.LOG_LG_CAUSE, 8, 8⟩
def RF.LOG_LG_CAUSE_VALID : FRef := ⟨Reg.LOG_LG_CAUSE, 16, 1⟩
def RF.LOG_LG_CAUSE_LASTSEQ : FRef := ⟨Reg.LOG_LG_CAUSE, 32, 32⟩
/-- BAR0 offset of LOG_LG_INFO (R446). -/
def Reg.LOG_LG_INFO : Nat := 0xF0110
def RF.LOG_LG_INFO_INFO : FRef := ⟨Reg.LOG_LG_INFO, 0, 64⟩
/-- BAR0 offset of TAP_CTL (R468). -/
def Reg.TAP_CTL : Nat := 0x40000
def RF.TAP_CTL_OPEN : FRef := ⟨Reg.TAP_CTL, 0, 1⟩
/-- BAR0 offset of TAP_STAT (R468). -/
def Reg.TAP_STAT : Nat := 0x40008
def RF.TAP_STAT_TSTATE : FRef := ⟨Reg.TAP_STAT, 0, 4⟩
def RF.TAP_STAT_IR : FRef := ⟨Reg.TAP_STAT, 8, 8⟩
def RF.TAP_STAT_DIESEL : FRef := ⟨Reg.TAP_STAT, 16, 8⟩
def RF.TAP_STAT_RUN : FRef := ⟨Reg.TAP_STAT, 24, 1⟩
def RF.TAP_STAT_REJECT : FRef := ⟨Reg.TAP_STAT, 32, 16⟩
/-- BAR0 offset of HIVE_SERIAL (R481-R485). -/
def Reg.HIVE_SERIAL : Nat := 0x0
def RF.HIVE_SERIAL_SERIAL : FRef := ⟨Reg.HIVE_SERIAL, 0, 64⟩
/-- BAR0 offset of HIVE_ID (R481-R485). -/
def Reg.HIVE_ID : Nat := 0x8
def RF.HIVE_ID_ORDER : FRef := ⟨Reg.HIVE_ID, 0, 4⟩
def RF.HIVE_ID_STEPPING : FRef := ⟨Reg.HIVE_ID, 4, 4⟩
def RF.HIVE_ID_REGVER : FRef := ⟨Reg.HIVE_ID, 16, 16⟩
/-- BAR0 offset of HIVE_MEMCAP (R481-R485). -/
def Reg.HIVE_MEMCAP : Nat := 0x10
def RF.HIVE_MEMCAP_RAW_MIB : FRef := ⟨Reg.HIVE_MEMCAP, 0, 21⟩
def RF.HIVE_MEMCAP_SHIP_MIB : FRef := ⟨Reg.HIVE_MEMCAP, 21, 21⟩
/-- BAR0 offset of HIVE_MEMUSE (R481-R485). -/
def Reg.HIVE_MEMUSE : Nat := 0x18
def RF.HIVE_MEMUSE_USABLE : FRef := ⟨Reg.HIVE_MEMUSE, 0, 40⟩
def RF.HIVE_MEMUSE_NCH : FRef := ⟨Reg.HIVE_MEMUSE, 40, 8⟩
/-- BAR0 offset of HIVE_LOCK (R481-R485). -/
def Reg.HIVE_LOCK : Nat := 0x20
def RF.HIVE_LOCK_LOCK : FRef := ⟨Reg.HIVE_LOCK, 0, 1⟩
/-- BAR0 offset of HIVE_WREJ (R481-R485). -/
def Reg.HIVE_WREJ : Nat := 0x28
def RF.HIVE_WREJ_RO_CNT : FRef := ⟨Reg.HIVE_WREJ, 0, 32⟩
def RF.HIVE_WREJ_REASON : FRef := ⟨Reg.HIVE_WREJ, 32, 16⟩
def RF.HIVE_WREJ_REF_CNT : FRef := ⟨Reg.HIVE_WREJ, 48, 16⟩
/-- BAR0 offset of HIVE_WREJ2 (R481-R485). -/
def Reg.HIVE_WREJ2 : Nat := 0x30
def RF.HIVE_WREJ2_OFFSET : FRef := ⟨Reg.HIVE_WREJ2, 0, 26⟩
def RF.HIVE_WREJ2_NOANS : FRef := ⟨Reg.HIVE_WREJ2, 32, 16⟩
/-- BAR0 offset of HIVE_PART (R481-R485). -/
def Reg.HIVE_PART (p : Nat) : Nat := 0x100 + 0x8 * p
def RF.HIVE_PART_VALID (p : Nat) : FRef := ⟨Reg.HIVE_PART p, 0, 1⟩
def RF.HIVE_PART_RECLAIM (p : Nat) : FRef := ⟨Reg.HIVE_PART p, 1, 1⟩
def RF.HIVE_PART_RESET (p : Nat) : FRef := ⟨Reg.HIVE_PART p, 2, 1⟩
def RF.HIVE_PART_DIEMASK (p : Nat) : FRef := ⟨Reg.HIVE_PART p, 8, 8⟩
def RF.HIVE_PART_JOB (p : Nat) : FRef := ⟨Reg.HIVE_PART p, 16, 8⟩
def RF.HIVE_PART_RDL (p : Nat) : FRef := ⟨Reg.HIVE_PART p, 24, 16⟩
/-- BAR0 offset of HIVE_DIEOWN (R481-R485). -/
def Reg.HIVE_DIEOWN : Nat := 0x140
def RF.HIVE_DIEOWN_OWNER (k : Nat) : FRef := ⟨Reg.HIVE_DIEOWN, 4 * k, 4⟩
/-- BAR0 offset of HIVE_MGIPH (R481-R485). -/
def Reg.HIVE_MGIPH (i : Nat) : Nat := 0x200 + 0x20 * i
def RF.HIVE_MGIPH_ADDR (i : Nat) : FRef := ⟨Reg.HIVE_MGIPH i, 0, 64⟩
/-- BAR0 offset of HIVE_MGIPL (R481-R485). -/
def Reg.HIVE_MGIPL (i : Nat) : Nat := 0x208 + 0x20 * i
def RF.HIVE_MGIPL_ADDR (i : Nat) : FRef := ⟨Reg.HIVE_MGIPL i, 0, 64⟩
/-- BAR0 offset of HIVE_MGGW (R481-R485). -/
def Reg.HIVE_MGGW (i : Nat) : Nat := 0x210 + 0x20 * i
def RF.HIVE_MGGW_MAC (i : Nat) : FRef := ⟨Reg.HIVE_MGGW i, 0, 48⟩
/-- BAR0 offset of HIVE_MGMAC (R481-R485). -/
def Reg.HIVE_MGMAC (i : Nat) : Nat := 0x218 + 0x20 * i
def RF.HIVE_MGMAC_MAC (i : Nat) : FRef := ⟨Reg.HIVE_MGMAC i, 0, 48⟩
/-- BAR0 offset of HIVE_SB (R481-R485). -/
def Reg.HIVE_SB : Nat := 0x300
def RF.HIVE_SB_IDENT : FRef := ⟨Reg.HIVE_SB, 0, 1⟩
def RF.HIVE_SB_ALERT_HELD : FRef := ⟨Reg.HIVE_SB, 1, 1⟩
def RF.HIVE_SB_ILOCK : FRef := ⟨Reg.HIVE_SB, 2, 1⟩
def RF.HIVE_SB_SVC_HIZ : FRef := ⟨Reg.HIVE_SB, 3, 1⟩
def RF.HIVE_SB_TDO_HIZ : FRef := ⟨Reg.HIVE_SB, 4, 1⟩
def RF.HIVE_SB_ALERT_CNT : FRef := ⟨Reg.HIVE_SB, 8, 8⟩
def RF.HIVE_SB_SVC_CNT : FRef := ⟨Reg.HIVE_SB, 16, 8⟩
def RF.HIVE_SB_TDO_CNT : FRef := ⟨Reg.HIVE_SB, 24, 8⟩
/-- BAR0 offset of HIVE_ISUM (R481-R485). -/
def Reg.HIVE_ISUM : Nat := 0x400
def RF.HIVE_ISUM_SEVERE : FRef := ⟨Reg.HIVE_ISUM, 0, 1⟩
def RF.HIVE_ISUM_RING_ERR : FRef := ⟨Reg.HIVE_ISUM, 1, 1⟩
def RF.HIVE_ISUM_SSTATE : FRef := ⟨Reg.HIVE_ISUM, 2, 1⟩
def RF.HIVE_ISUM_READY : FRef := ⟨Reg.HIVE_ISUM, 3, 1⟩
def RF.HIVE_ISUM_TOPO : FRef := ⟨Reg.HIVE_ISUM, 4, 1⟩
def RF.HIVE_ISUM_DIE : FRef := ⟨Reg.HIVE_ISUM, 5, 1⟩
def RF.HIVE_ISUM_RETAIN : FRef := ⟨Reg.HIVE_ISUM, 6, 1⟩
def RF.HIVE_ISUM_FENCE : FRef := ⟨Reg.HIVE_ISUM, 7, 1⟩
def RF.HIVE_ISUM_RTLOAD : FRef := ⟨Reg.HIVE_ISUM, 8, 1⟩
def RF.HIVE_ISUM_WIRE : FRef := ⟨Reg.HIVE_ISUM, 9, 1⟩
def RF.HIVE_ISUM_RESET : FRef := ⟨Reg.HIVE_ISUM, 10, 1⟩
def RF.HIVE_ISUM_TIME : FRef := ⟨Reg.HIVE_ISUM, 11, 1⟩
def RF.HIVE_ISUM_DMAFLT : FRef := ⟨Reg.HIVE_ISUM, 12, 1⟩
def RF.HIVE_ISUM_RETIRE : FRef := ⟨Reg.HIVE_ISUM, 13, 1⟩
def RF.HIVE_ISUM_FW : FRef := ⟨Reg.HIVE_ISUM, 14, 1⟩
def RF.HIVE_ISUM_REFUSE : FRef := ⟨Reg.HIVE_ISUM, 15, 1⟩
/-- BAR0 offset of HIVE_IMASK (R481-R485). -/
def Reg.HIVE_IMASK : Nat := 0x408
def RF.HIVE_IMASK_SEVERE : FRef := ⟨Reg.HIVE_IMASK, 0, 1⟩
def RF.HIVE_IMASK_EN : FRef := ⟨Reg.HIVE_IMASK, 1, 15⟩
/-- BAR0 offset of HIVE_STATUS (R481-R485). -/
def Reg.HIVE_STATUS : Nat := 0x410
def RF.HIVE_STATUS_DIE_OK : FRef := ⟨Reg.HIVE_STATUS, 0, 8⟩
def RF.HIVE_STATUS_DIE_DEGR : FRef := ⟨Reg.HIVE_STATUS, 8, 8⟩
def RF.HIVE_STATUS_DIE_FAIL : FRef := ⟨Reg.HIVE_STATUS, 16, 8⟩
def RF.HIVE_STATUS_READY : FRef := ⟨Reg.HIVE_STATUS, 24, 1⟩
def RF.HIVE_STATUS_SSTATE : FRef := ⟨Reg.HIVE_STATUS, 25, 2⟩
def RF.HIVE_STATUS_LOCK : FRef := ⟨Reg.HIVE_STATUS, 27, 1⟩
def RF.HIVE_STATUS_QRST : FRef := ⟨Reg.HIVE_STATUS, 28, 1⟩
def RF.HIVE_STATUS_LOGMODE : FRef := ⟨Reg.HIVE_STATUS, 29, 2⟩
def RF.HIVE_STATUS_HOLDOVER : FRef := ⟨Reg.HIVE_STATUS, 31, 1⟩
/-- BAR0 offset of TIM_NOW (R486). -/
def Reg.TIM_NOW : Nat := 0x10000
def RF.TIM_NOW_NOW : FRef := ⟨Reg.TIM_NOW, 0, 64⟩
/-- BAR0 offset of TIM_LOAD (R486). -/
def Reg.TIM_LOAD : Nat := 0x10008
def RF.TIM_LOAD_VALUE : FRef := ⟨Reg.TIM_LOAD, 0, 64⟩
/-- BAR0 offset of TIM_CTL (R486). -/
def Reg.TIM_CTL : Nat := 0x10010
def RF.TIM_CTL_ARM : FRef := ⟨Reg.TIM_CTL, 0, 1⟩
def RF.TIM_CTL_DONE : FRef := ⟨Reg.TIM_CTL, 1, 1⟩
def RF.TIM_CTL_REF_OK : FRef := ⟨Reg.TIM_CTL, 2, 1⟩
def RF.TIM_CTL_BEAT_OK : FRef := ⟨Reg.TIM_CTL, 3, 1⟩
def RF.TIM_CTL_HOLDOVER : FRef := ⟨Reg.TIM_CTL, 4, 1⟩
def RF.TIM_CTL_SLEWING : FRef := ⟨Reg.TIM_CTL, 5, 1⟩
def RF.TIM_CTL_BEAT_PER : FRef := ⟨Reg.TIM_CTL, 16, 16⟩
/-- BAR0 offset of TIM_BEAT (R486). -/
def Reg.TIM_BEAT : Nat := 0x10018
def RF.TIM_BEAT_TS : FRef := ⟨Reg.TIM_BEAT, 0, 64⟩
/-- BAR0 offset of TIM_BEATCNT (R486). -/
def Reg.TIM_BEATCNT : Nat := 0x10020
def RF.TIM_BEATCNT_EDGES : FRef := ⟨Reg.TIM_BEATCNT, 0, 32⟩
def RF.TIM_BEATCNT_LOADEDGE : FRef := ⟨Reg.TIM_BEATCNT, 32, 32⟩
/-- BAR0 offset of SAF_TJ (R489-R492). -/
def Reg.SAF_TJ : Nat := 0x20000
def RF.SAF_TJ_TJ_THROT : FRef := ⟨Reg.SAF_TJ, 0, 8⟩
def RF.SAF_TJ_TJ_SHUT : FRef := ⟨Reg.SAF_TJ, 8, 8⟩
def RF.SAF_TJ_TJ_MAX : FRef := ⟨Reg.SAF_TJ, 16, 8⟩
/-- BAR0 offset of SAF_PWR (R489-R492). -/
def Reg.SAF_PWR : Nat := 0x20008
def RF.SAF_PWR_LIMIT : FRef := ⟨Reg.SAF_PWR, 0, 12⟩
def RF.SAF_PWR_AVG : FRef := ⟨Reg.SAF_PWR, 16, 12⟩
def RF.SAF_PWR_LIMITING : FRef := ⟨Reg.SAF_PWR, 28, 1⟩
/-- BAR0 offset of SAF_COOL (R489-R492). -/
def Reg.SAF_COOL : Nat := 0x20010
def RF.SAF_COOL_RATE : FRef := ⟨Reg.SAF_COOL, 0, 8⟩
def RF.SAF_COOL_OUTLET : FRef := ⟨Reg.SAF_COOL, 8, 8⟩
def RF.SAF_COOL_T_IN : FRef := ⟨Reg.SAF_COOL, 16, 16⟩
def RF.SAF_COOL_T_OUT : FRef := ⟨Reg.SAF_COOL, 32, 16⟩
/-- BAR0 offset of SAF_OC (R489-R492). -/
def Reg.SAF_OC : Nat := 0x20018
def RF.SAF_OC_PCT : FRef := ⟨Reg.SAF_OC, 0, 8⟩
/-- BAR0 offset of SAF_FENCE_ADDR (R489-R492). -/
def Reg.SAF_FENCE_ADDR : Nat := 0x20100
def RF.SAF_FENCE_ADDR_ADDR : FRef := ⟨Reg.SAF_FENCE_ADDR, 0, 64⟩
/-- BAR0 offset of SAF_FENCE_CTL (R489-R492). -/
def Reg.SAF_FENCE_CTL : Nat := 0x20108
def RF.SAF_FENCE_CTL_COUNT : FRef := ⟨Reg.SAF_FENCE_CTL, 0, 9⟩
def RF.SAF_FENCE_CTL_RESULT : FRef := ⟨Reg.SAF_FENCE_CTL, 16, 2⟩
def RF.SAF_FENCE_CTL_REASON : FRef := ⟨Reg.SAF_FENCE_CTL, 32, 16⟩
def RF.SAF_FENCE_CTL_TBL_USED : FRef := ⟨Reg.SAF_FENCE_CTL, 48, 10⟩
def RF.SAF_FENCE_CTL_GO : FRef := ⟨Reg.SAF_FENCE_CTL, 63, 1⟩
/-- BAR0 offset of SAF_MGKEY (R489-R492). -/
def Reg.SAF_MGKEY (k : Nat) : Nat := 0x20110 + 0x8 * k
def RF.SAF_MGKEY_KEY (k : Nat) : FRef := ⟨Reg.SAF_MGKEY k, 0, 64⟩
/-- BAR0 offset of SAF_MGKEY_CTL (R489-R492). -/
def Reg.SAF_MGKEY_CTL : Nat := 0x20130
def RF.SAF_MGKEY_CTL_COMMIT : FRef := ⟨Reg.SAF_MGKEY_CTL, 0, 1⟩
def RF.SAF_MGKEY_CTL_KEYSET : FRef := ⟨Reg.SAF_MGKEY_CTL, 1, 1⟩
/-- BAR0 offset of SAF_MGNONCE (R489-R492). -/
def Reg.SAF_MGNONCE : Nat := 0x20138
def RF.SAF_MGNONCE_NONCE : FRef := ⟨Reg.SAF_MGNONCE, 0, 64⟩
/-- BAR0 offset of COMB_ID (R493). -/
def Reg.COMB_ID (d : Nat) : Nat := 0x1000000 + 0x200000 * d
def RF.COMB_ID_DIE (d : Nat) : FRef := ⟨Reg.COMB_ID d, 0, 3⟩
def RF.COMB_ID_STEPPING (d : Nat) : FRef := ⟨Reg.COMB_ID d, 8, 4⟩
def RF.COMB_ID_REGVER (d : Nat) : FRef := ⟨Reg.COMB_ID d, 16, 16⟩
/-- BAR0 offset of COMB_CLK (R493). -/
def Reg.COMB_CLK (d : Nat) : Nat := 0x1000008 + 0x200000 * d
def RF.COMB_CLK_CORE_MHZ (d : Nat) : FRef := ⟨Reg.COMB_CLK d, 0, 12⟩
def RF.COMB_CLK_MEMC_MHZ (d : Nat) : FRef := ⟨Reg.COMB_CLK d, 12, 12⟩
def RF.COMB_CLK_FLOOR (d : Nat) : FRef := ⟨Reg.COMB_CLK d, 24, 1⟩
def RF.COMB_CLK_TJ (d : Nat) : FRef := ⟨Reg.COMB_CLK d, 32, 8⟩
/-- BAR0 offset of COMB_ERR (R493). -/
def Reg.COMB_ERR (d : Nat) : Nat := 0x1000010 + 0x200000 * d
def RF.COMB_ERR_ARR (d : Nat) : FRef := ⟨Reg.COMB_ERR d, 0, 1⟩
def RF.COMB_ERR_MVE (d : Nat) : FRef := ⟨Reg.COMB_ERR d, 1, 1⟩
def RF.COMB_ERR_RNG (d : Nat) : FRef := ⟨Reg.COMB_ERR d, 2, 1⟩
def RF.COMB_ERR_UPD (d : Nat) : FRef := ⟨Reg.COMB_ERR d, 3, 1⟩
def RF.COMB_ERR_SRAM_UE (d : Nat) : FRef := ⟨Reg.COMB_ERR d, 4, 1⟩
def RF.COMB_ERR_MEM_UE (d : Nat) : FRef := ⟨Reg.COMB_ERR d, 5, 1⟩
def RF.COMB_ERR_CH_FAIL (d : Nat) : FRef := ⟨Reg.COMB_ERR d, 6, 1⟩
def RF.COMB_ERR_CLUSTER (d : Nat) : FRef := ⟨Reg.COMB_ERR d, 7, 1⟩
def RF.COMB_ERR_BANK (d : Nat) : FRef := ⟨Reg.COMB_ERR d, 8, 1⟩
def RF.COMB_ERR_SOUR (d : Nat) : FRef := ⟨Reg.COMB_ERR d, 9, 1⟩

end Sys2Proof.Machine
end

