-- ==== Sys2Proof/Machine/State.lean ====
section
/-! DEFINITION. The state of one Firis module as plain data: registers, memories, cores, engines,
caps, fabric, optics, host interface, log and the rest, with the queue of waiting commands; and the
state right after reset. -/

namespace Sys2Proof.Machine

/-- No step of the model ends in a fault: the spec reports every error of the block through its
registers, completions and records. -/
inductive Fault
  deriving DecidableEq, Repr

/-- Why a command has no meaning. -/
inductive Refusal
  /-- Raised by the dispatcher for a command the model gives no meaning yet; safe. -/
  | notModelled (mnemonic : String)
  deriving DecidableEq, Repr

/-- What a datagram is sent with (R373, R375, R436). `mac`: its gateway, 0 where the port finds the next hop by
Neighbour Solicitation; `vlan`: PCP and VID of its tag; IPv6 source and destination in network byte order, `dst` empty
where the command does not name it; UDP ports, none where it has none or the spec gives none. -/
structure Dgram where
  mac : Nat := 0
  vlan : Option (Nat × Nat) := none
  src : Bytes := []
  dst : Bytes := []
  sport : Option Nat := none
  dport : Option Nat := none
  deriving DecidableEq, Repr

/-- What the module sends to its surroundings, oldest first in `State.out` (the model's own field:
the wires of the module are its only observers). -/
inductive Out
  /-- a cell the module's own units give to the hive router. -/
  | cell (c : CellW)
  /-- a cell sent on a link, with its 2-byte tag (R219). -/
  | link (port : Nat) (tag : Nat) (c : CellW)
  /-- a control slot sent on a link: marker and control word (R220, R294). -/
  | ctl (port : Nat) (slot : Nat)
  /-- what a lane of a port carries (R292 to R294): piece `k` of the cell stream, 320 bits, or with `ovh` of the
  overhead stream, 20 bits. -/
  | lane (port lane : Nat) (ovh : Bool) (k : Nat) (bits : Nat)
  /-- a PCIe memory write to the host; `relaxed`: its relaxed-ordering attribute (R351). -/
  | hostWrite (fn addr : Nat) (relaxed : Bool) (data : Bytes)
  /-- a PCIe memory read request to the host, with its tag. -/
  | hostRead (fn addr len tag : Nat)
  /-- an MSI-X message of a function. -/
  | msix (fn vec : Nat)
  /-- what a bus access returns to the host: data, or none for Unsupported Request. -/
  | busReply (fn : Nat) (data : Option Bytes)
  /-- a payload sent on an Ethernet port: 1 a wort message, 2 a Neighbour Advertisement, 3 an Echo Reply (R373). -/
  | eth (port kind : Nat) (d : Dgram) (data : Bytes)
  /-- a message on a management port (R436). -/
  | mgmt (port kind : Nat) (d : Dgram) (data : Bytes)
  /-- a physical signal of a port: 0 wake tone, 1 probe, 2 shutter dark, 3 identity, 4 retrain. -/
  | optic (port sig : Nat)
  /-- bits shifted out of a TAP. -/
  | tdo (tap : Nat) (bits : Nat)
  deriving DecidableEq, Repr

/-- A core's context (R116). -/
structure Ctx where
  kbase : Nat := 0
  jseed : Nat := 0
  step : Nat := 0
  pgen : Nat := 0
  job : Nat := 0
  ltag : Nat := 0
  deriving DecidableEq, Repr

/-- A cap's name (JOB, GID, STEP, ATT). -/
structure CapKey where
  job : Nat := 0
  gid : Nat := 0
  step : Nat := 0
  att : Nat := 0
  deriving DecidableEq, Repr

/-- What a blocked core waits for. -/
inductive Block
  | none
  /-- WAIT: (counter, target) conditions and the time it expires, if any (R130, R132). -/
  | wait (conds : List (Nat × Nat)) (expires : Option Nat)
  /-- BAR at a barrier unit (R134). -/
  | bar (unit : Nat)
  /-- STALL: the engine queue was full (R117). -/
  | stall
  /-- STALL: the fetch buffer is empty and the word is still being fetched (R117, R120). -/
  | fetch
  /-- END issued; the kernel completes when every issued command has (R119). -/
  | ended
  deriving DecidableEq, Repr

/-- A worker core beside its state code, which WRK_CORE_STATE holds (R116, R119, R120). -/
structure CoreRec where
  ctx : Ctx := {}
  /-- address of the next command word. -/
  pc : Nat := 0
  /-- the 4 KiB fetch buffer: words fetched ahead, from `pc` on; none: the read was uncorrectable (R113, R117). -/
  buf : List (Option CmdWord) := []
  /-- last word of the command issued last: the extension word of a VEC that has one (R121). -/
  ext : CmdWord := 0
  /-- number of the next command issued. -/
  seq : Nat := 0
  /-- issued and not completed: (number, OPC). -/
  outst : List (Nat × Nat) := []
  /-- earliest-issued command that did not complete OK: (number, status, reason). -/
  bad : Option (Nat × Nat × Nat) := Option.none
  /-- OR of all NFLAGS returned. -/
  nflags : Nat := 0
  block : Block := .none
  /-- status with which a halted, fenced or reset kernel completes, once its commands have. -/
  ending : Option Nat := Option.none
  /-- a core reset is in progress: completions are discarded (R409). -/
  resetting : Bool := false
  /-- the known-answer test at the end of that reset fails (R160): the command's operand, until then. -/
  katBad : Bool := false
  /-- the launch that started the kernel: (global ring, descriptor tag). -/
  launch : Option (Nat × Nat) := Option.none
  /-- SIG FENCE = 1 commands that wait for earlier copies: (number, word) (R133). -/
  sigs : List (Nat × CmdWord) := []
  deriving DecidableEq, Repr

/-- A command taken by an engine, with the context it was issued under. -/
structure Job where
  core : Nat := 0
  seq : Nat := 0
  ctx : Ctx := {}
  word : CmdWord := 0
  /-- cap open on the die when it was issued (R196, R273). -/
  cap : Option CapKey := Option.none
  started : Bool := false
  /-- writes held until the command completes: (die-local address, bytes). -/
  writes : List (Nat × Bytes) := []
  /-- single bits written then: (SRAM offset, bit, value) (R83). -/
  bitw : List (Nat × Nat × Bool) := []
  status : Nat := 0
  reason : Nat := 0
  nflags : Nat := 0
  /-- transfers of a copy still without their ACK, or host requests unfinished. -/
  waits : Nat := 0
  /-- the engine has stopped sending for it (R141). -/
  sent : Bool := false
  /-- bytes of a copy from host memory that have arrived: offset to byte. -/
  data : Tbl Nat := []
  /-- writes of an update command with their diff positions: (LPDDR5X address, position, bytes) (R193). -/
  diffs : List (Nat × Nat × Bytes) := []
  /-- blocks an update command has gone through. -/
  blocks : List Nat := []
  /-- where an update command soured: (cause, block of the whole tensor) (R186). -/
  sour : Option (Nat × Nat) := Option.none
  /-- UPD_RUN commands of its cap issued before an update command (R200). -/
  before : Nat := 0
  deriving DecidableEq, Repr

/-- A weight register of a region (R76, R79): the recorded format, K and N; element codes
column-major, and column-major MX scales. -/
structure WReg where
  fmt : Nat := 0
  k : Nat := 0
  n : Nat := 0
  elems : List Nat := []
  scales : List Nat := []
  /-- residue mod 3 stored beside each weight, and a parity bit per weight byte (R96). -/
  res : List Nat := []
  par : List Nat := []
  deriving DecidableEq, Repr

/-- One entry of a column accumulator (R50 to R54, R77). -/
structure Acc where
  /-- 0 cleared, 1 exact, 2 BF16. -/
  kind : Nat := 0
  wb : Int := 0
  sum : Int := 0
  f32 : Nat := 0
  nf : Bool := false
  count : Nat := 0
  residue : Nat := 0
  deriving DecidableEq, Repr

/-- A region's weight registers and selection (R79). -/
structure RegionRec where
  wa : WReg := {}
  wb : WReg := {}
  /-- true: the active register is WB_REG. -/
  sel : Bool := false
  deriving DecidableEq, Repr

/-- One logical array (R76, R77, R85 to R87, R93). -/
structure ArrRec where
  tmap : Nat := 0
  tuse : Nat := 0xFFFF
  regions : Tbl RegionRec := []
  /-- accumulator entries, key column * 1024 + entry. -/
  acc : Tbl Acc := []
  /-- SEG and KEND of the last BF16 pass merged, key region * 1024 + region-relative entry. -/
  order : Tbl (Nat × Nat) := []
  queue : List Job := []
  deriving DecidableEq, Repr

/-- A barrier unit's round (R131): participants and the cores that have arrived. -/
structure BarRec where
  npart : Nat := 0
  cores : List Nat := []
  deriving DecidableEq, Repr

/-- A merge-stage context (R161, R168). -/
structure SmpCtx where
  job : Nat := 0
  sid : Nat := 0
  mode : Nat := 0
  qm : Bool := false
  temp : Nat := 0
  ktop : Nat := 0
  ncont : Nat := 0
  topp : Nat := 0
  rseed : Nat := 0
  pos : Nat := 0
  rdst : Nat := 0
  tmo : Nat := 0
  /-- OPEN, MERGE or DONE as 1, 2, 3 (R168). -/
  st : Nat := 1
  /-- requesting core's command: core, number, counter. -/
  core : Nat := 0
  seq : Nat := 0
  cnt : Nat := 0
  /-- a requester on another module: its module, die and stream, and its generation (R140). -/
  far : Option (Nat × Nat × Nat) := Option.none
  pgen : Nat := 0
  /-- parts received. -/
  parts : List SmpPart := []
  /-- status of a broadcast cell that ended without its ACK, 0 for none (R172, R245). -/
  bad : Nat := 0
  deriving DecidableEq, Repr

/-- An SMP_PART of this module that has not completed: where its logits and targets lie. -/
structure PartRec where
  core : Nat := 0
  seq : Nat := 0
  word : CmdWord := 0
  ctx : Ctx := {}
  /-- its shard was sour: the part was sent with SOURP (R163, R167). -/
  sour : Bool := false
  deriving DecidableEq, Repr

/-- What one update command wrote: slot position, state address, length. -/
structure DiffMap where
  pos : Nat := 0
  addr : Nat := 0
  len : Nat := 0
  deriving DecidableEq, Repr

/-- The cap of a die beside its state, vote and name, which CAP_DIE_STAT holds (R274, R278). -/
structure DieCap where
  key : CapKey := {}
  kind : Nat := 0
  sour : Bool := false
  failed : Bool := false
  /-- CAP_VOTE issued: FORCE, its core, number, counter. -/
  vote : Option (Nat × Nat × Nat × Nat) := Option.none
  /-- the commit waits for a wort reservation (R380). -/
  held : Bool := false
  /-- bound commands not yet completed: (core, number). -/
  bound : List (Nat × Nat) := []
  /-- cores that have issued a bound command (R409). -/
  binders : List Nat := []
  /-- DCNT counters of bound commands with DCEN = 1 (R196). -/
  dcnts : List Nat := []
  /-- blocks a UPD_RUN of this cap has completed: (TREC offset, block) (R200). -/
  ran : List (Nat × Nat) := []
  /-- UPD_RUN commands issued in this cap: (TREC offset, first block, blocks or 0) (R200). -/
  runs : List (Nat × Nat × Nat) := []
  /-- slot in use, if any diff-writing command has started. -/
  slot : Option Nat := Option.none
  /-- NUM_SOUR_ORIGIN already written in this attempt (R70). -/
  sourLogged : Bool := false
  /-- status of the decision being carried out (R276). -/
  decided : Option Nat := Option.none
  opened : Nat := 0
  deriving DecidableEq, Repr

/-- A hive member's record of a cap (R274, R278). -/
structure HiveCap where
  key : CapKey := {}
  /-- vote sent: 0 none, 1 ready, 2 sour, 3 failed. -/
  vote : Nat := 0
  /-- votes of the subtree merged so far, one 2-bit code per member. -/
  merged : List Nat := []
  /-- the vector, once known, and its RTA bit. -/
  vec : Option (List Nat) := Option.none
  rta : Bool := false
  /-- bytes of the vector received so far: (offset, byte) (R275). -/
  got : Tbl Nat := []
  /-- next ask goes to the witness. -/
  askW : Bool := false
  deriving DecidableEq, Repr

/-- The coordinator's record of a cap (R277): 1 COLLECT, 2 WITNESS, 3 SEND, 4 DONE. -/
structure CoordCap where
  key : CapKey := {}
  st : Nat := 1
  vec : List Nat := []
  rta : Bool := false
  deriving DecidableEq, Repr

/-- The witness's record of a cap (R279, R282). -/
structure WitCap where
  key : CapKey := {}
  vec : List Nat := []
  rta : Bool := false
  sealed : Bool := false
  got : Tbl Nat := []
  full : Bool := false
  deriving DecidableEq, Repr

/-- A loaded swarm group (R257, R258, R261). -/
structure Group where
  job : Nat := 0
  gid : Nat := 0
  fn : Nat := 0
  nmem : Nat := 0
  wit : Nat := 0
  capg : Bool := false
  witv : Bool := false
  capb : Nat := 0
  thresh : Nat := 0
  capto : Nat := 0
  voteTo : Nat := 0
  dupd : Nat := 0
  dbytes : Nat := 0
  nops : Nat := 0
  opto : Nat := 0
  members : List Nat := []
  gsum : Nat := 0
  epoch : Nat := 0
  handle : Nat := 0
  /-- edges this hive knows to be lost: module * 64 + port, port 63 for a fenced module (R267). -/
  lost : List Nat := []
  deriving DecidableEq, Repr

/-- The relay entries of a group in a hive that holds none of its members: a context of the group's JOB
(R260, R261). -/
structure Relay where
  job : Nat := 0
  gid : Nat := 0
  epoch : Nat := 0
  gsum : Nat := 0
  /-- module of member 0, which installed them, and how many they are. -/
  owner : Nat := 0
  entries : Nat := 0
  deriving DecidableEq, Repr

/-- A member's swarm command in progress on this module (R262, R265). -/
structure SwmMember where
  die : Nat := 0
  idx : Nat := 0
  job : Job := {}
  /-- bytes or blocks cut at capacity (R263). -/
  cut : Bool := false
  /-- 0x07 once bytes that landed for it met a line that could not be written (R336). -/
  status : Nat := 0
  deriving DecidableEq, Repr

/-- A swarm op at this hive (R259, R265, R271). -/
structure SwmOp where
  job : Nat := 0
  gid : Nat := 0
  opseq : Nat := 0
  /-- the engine that runs it, SE0 to SE3: OPSEQ mod 4 (R255). -/
  engine : Nat := 0
  members : List SwmMember := []
  /-- lane sums, by element of the op (R71); of a permute, element 0 is the barrier's count (R287). -/
  sums : Tbl Int := []
  /-- sour elements, 16 to a key: those of a partial-sum cell (R69, R265). -/
  sour : Tbl Nat := []
  /-- broadcast and all-gather bytes, key root member * CAPB + byte. -/
  bytes : Tbl Nat := []
  /-- segments of other modules received whole, by root member. -/
  segs : Tbl Nat := []
  /-- every member of this module has issued the op, and its contributions have been read. -/
  captured : Bool := false
  /-- the model's own field: reading of `State.free` at capture, by which the plan names the op (log entry 17). -/
  key : Nat := 0
  /-- owners whose sums this module has sent on. -/
  fwd : List Nat := []
  /-- at capture: the command word of its members here, the cap it is bound to, its largest contribution. -/
  word : CmdWord := 0
  cap : Option CapKey := Option.none
  large : Nat := 0
  /-- a permute's bytes landed, by member (R287). -/
  landed : Tbl Nat := []
  /-- a permute: this hive's members have raised their barrier, the count sent on so far, and the total is back
  (R287). -/
  raised : Bool := false
  sentUp : Nat := 0
  released : Bool := false
  deriving DecidableEq, Repr

/-- An accepted swarm segment at a receiving engine (R265, R266). -/
structure Seg where
  srcMod : Nat := 0
  srcTgt : Nat := 0
  stream : Nat := 0
  job : Nat := 0
  gid : Nat := 0
  opseq : Nat := 0
  epoch : Nat := 0
  opk : Nat := 0
  elbase : Nat := 0
  rootm : Nat := 0
  /-- 0 to 30, or 0xFF on the latency tree (R265). -/
  stripe : Nat := 0
  latency : Bool := false
  /-- the engine it reaches (R255). -/
  engine : Nat := 0
  /-- data cells kept in the buffer: those to pass on, and permute bytes whose member has not issued the op yet. -/
  held : List CellW := []
  /-- buffer space is reserved and the sender knows it (R266). -/
  granted : Bool := false
  /-- payload bytes consumed; the whole length, once the LAST cell has been seen. -/
  got : Nat := 0
  total : Option Nat := Option.none
  deriving DecidableEq, Repr

/-- An open write-combining entry of a channel (R334): line, valid bytes, transfer tags, time of the
last write. Its bytes stand in `State.mem` from their acceptance, where every read sees them (R337). -/
structure WcbEntry where
  q : Nat := 0
  valid : Nat := 0
  tags : List Nat := []
  last : Nat := 0
  deriving DecidableEq, Repr

/-- A record on its way to the log: detection time, the event, FLAGS bits so far. -/
structure QRec where
  time : Nat := 0
  ev : LogEvent
  flags : Nat := 0
  deriving DecidableEq, Repr

/-! Groups of the state. -/

/-- Worker cores (R113 to R134). -/
structure CoreSt where
  cores : Tbl CoreRec := []
  /-- barrier units, key die * 32 + unit. -/
  bars : Tbl BarRec := []
  deriving DecidableEq, Repr

/-- Engines of the dies: arrays, matrix-vector engine, copy engines; SRAM errors. -/
structure EngSt where
  /-- logical arrays, key die * 6 + array. -/
  arrs : Tbl ArrRec := []
  /-- matrix-vector queue, key die. -/
  mveq : Tbl (List Job) := []
  /-- copy queues, key die * 4 + engine. -/
  ceq : Tbl (List Job) := []
  /-- prefetch queue, key die (R147). -/
  pfq : Tbl (List Job) := []
  /-- times of residue faults, key die * 8 + physical array, 7 the matrix-vector engine (R99). -/
  faults : Tbl (List Nat) := []
  /-- SRAM words with errors, key die * 2^26 + offset / 8: 1 one bit, 2 uncorrectable (R137). -/
  sramErr : Tbl Nat := []
  /-- physical clusters out of service, key die * 34 + cluster: 1 retired (R404). -/
  clOut : Tbl Nat := []
  /-- logical clusters that share a physical one, key die * 32 + cluster: 1 folded, 2 its host's own (R405). -/
  clFold : Tbl Nat := []
  /-- physical banks out of service, key die * 66 + bank (R406). -/
  bkOut : Tbl Nat := []
  /-- logical clusters whose cores are being drained, key die * 32 + cluster: 1 for a take-over, plus 2 for a
  reset, plus 4 for a reset whose self-test failed, plus 8 for one whose known-answer test fails (R160, R404,
  R409). -/
  clDrain : Tbl Nat := []
  /-- units that have worked since the last reset, so that their cycle counters have left 0 (R102, R175, R206):
  key die * 2 for the arrays, die * 2 + 1 for the update unit, 16 for the merge stage. -/
  busy : Tbl Nat := []
  deriving DecidableEq, Repr

/-- The sampler merge stage and the parts of this module's dies (R161 to R173). -/
structure SmpSt where
  ctxs : List SmpCtx := []
  waiting : List SmpCtx := []
  /-- orphan parts, in order of arrival. -/
  orphans : List SmpPart := []
  /-- parts that contexts ended by TIMEOUT still await: (JOB, SID, CIDX); each is TOO_LATE when it arrives (R169). -/
  closed : List (Nat × Nat × Nat) := []
  parts : List PartRec := []
  /-- a parity fault of the merge stage's generator has not yet met a draw (R160). -/
  parity : Bool := false
  deriving DecidableEq, Repr

/-- A staging slot beside its state, which UPD_SLOT_STATE holds. -/
structure SlotRec where
  key : CapKey := {}
  diffs : List DiffMap := []
  deriving DecidableEq, Repr

/-- Fused update units (R182 to R207). -/
structure UpdSt where
  /-- update queue, key die; started commands are at their place, marked. -/
  queue : Tbl (List Job) := []
  /-- slots not FREE, key die * 8 + slot. -/
  slots : Tbl SlotRec := []
  /-- retired lane groups, key die * 8 + group (R190). -/
  lost : Tbl Nat := []
  deriving DecidableEq, Repr

/-- Swarm tables and engines (R255 to R272). -/
structure SwmSt where
  groups : List Group := []
  /-- next OPSEQ, key die * 2^18 + JOB * 1024 + GID. -/
  opseq : Tbl Nat := []
  ops : List SwmOp := []
  /-- ops known to be refused for a group mismatch: (JOB, GID, OPSEQ) (R258). -/
  badOps : List (Nat × Nat × Nat) := []
  segs : List Seg := []
  /-- relay entries of groups without a member here (R260, R261). -/
  relays : List Relay := []
  /-- cells of the 32 MiB buffer reserved (R255, R266). -/
  bufCells : Nat := 0
  /-- transfer ids of latency-tree segments that are being sent, in the order of their turn (R266). -/
  latQ : List Nat := []
  deriving DecidableEq, Repr

/-- Caps (R273 to R285). -/
structure CapSt where
  /-- die caps, key die. -/
  dies : Tbl DieCap := []
  hives : List HiveCap := []
  coord : List CoordCap := []
  wit : List WitCap := []
  /-- CAP_ABORT commands that wait for their answer: cap, core, number. -/
  aborts : List (CapKey × Nat × Nat) := []
  deriving DecidableEq, Repr

/-- LPDDR5X channel homes (R328 to R347). -/
structure MemSt where
  /-- stored error of a line as (symbol, XOR byte), key (die * 16 + channel) * 2^27 + q. -/
  lineErr : Tbl (List (Nat × Nat)) := []
  /-- write-combining entries, oldest write first, key die * 16 + channel. -/
  wcb : Tbl (List WcbEntry) := []
  /-- evictions in flight: clock at their beginning, plus 1, key as `lineErr` (R338). -/
  evict : Tbl Nat := []
  /-- times of uncorrectable reads within the last second, key die * 16 + channel (R343). -/
  ueAt : Tbl (List Nat) := []
  /-- SRAM words read uncorrectable within the last second: (word, time), key die * 66 + physical bank (R406). -/
  bankUe : Tbl (List (Nat × Nat)) := []
  /-- remap table: donor page + 1 of a retired logical page, key (die * 16 + channel) * 2^17 + page. -/
  remap : Tbl Nat := []
  /-- data rate in MT/s of the training in use, 0 before any (R327, R393). -/
  trainedRate : Nat := 0
  deriving DecidableEq, Repr

/-- The event log, its mirror and the record queues (R429 to R436). -/
structure LogSt where
  /-- log slots of 32 B, key SEQ mod 8,192. -/
  slots : Tbl Bytes := []
  /-- AON mirror slots, key mirror sequence mod 512. -/
  mirror : Tbl Bytes := []
  /-- record queue of a die, and records held in its detecting units (R430). -/
  recq : Tbl (List QRec) := []
  held : Tbl (List QRec) := []
  /-- die sources whose next record carries LOSS. -/
  loss : Tbl Nat := []
  /-- staging buffer before phase 2 ends (R430). -/
  staging : List Bytes := []
  /-- message counter of the management ports (R436). -/
  aseq : Nat := 0
  /-- last-gasp repeats still to send (R435). -/
  lgLeft : Nat := 0
  deriving DecidableEq, Repr

/-! Fabric. -/

/-- A stream of bits cut into pieces that go to the lanes of a port in turn (R293, R294): the number of the next
piece, and the bits not yet cut. -/
structure Stripe where
  next : Nat := 0
  val : Nat := 0
  len : Nat := 0
  deriving DecidableEq, Repr

/-- One end of an optical link (R219 to R226), beside FAB_PORT_p. -/
structure LinkRec where
  /-- next LSEQ to send. -/
  tx : Nat := 0
  /-- replay buffer: cells sent and not acknowledged, oldest first, with their LSEQ. -/
  replay : List (Nat × CellW) := []
  /-- next LSEQ expected. -/
  rx : Nat := 0
  /-- some cell has arrived intact (ACK_V). -/
  rxAny : Bool := false
  /-- a NACK has been sent and its replay has not begun to arrive. -/
  nack : Bool := false
  /-- credits held, VC0 to VC7. -/
  credits : List Nat := [0, 0, 0, 0, 0, 0, 0, 0]
  /-- credits freed here and not yet returned to the peer. -/
  owed : List Nat := [0, 0, 0, 0, 0, 0, 0, 0]
  /-- cells waiting for a credit, the port or an exit from lull, in order: arrival port, VC of the output,
  and the cell as it arrived (R226). -/
  queue : List (Nat × Nat × CellW) := []
  /-- VC of 0 to 5 served last, and the arrival port served last of each VC (R226). -/
  rrVc : Nat := 5
  rrIn : List Nat := [40, 40, 40, 40, 40, 40, 40, 40]
  /-- truncated cells discarded (R221). -/
  stomps : Nat := 0
  /-- cells a die port has absorbed (R248). -/
  absorbed : Nat := 0
  /-- the equaliser values of the last UP period, or retained ones, are held (R298). -/
  eqHeld : Bool := false
  /-- training runs with retained limits. -/
  retained : Bool := false
  /-- consecutive failed trainings (R299). -/
  fails : Nat := 0
  /-- lull token last sent or echoed (R317). -/
  ltok : Nat := 0
  /-- the peer's wake tone has been heard and answered in this exit from lull (R321). -/
  toned : Bool := false
  /-- the peer's identity arrived in this HELD period (R398). -/
  ident : Bool := false
  /-- GEN byte of the peer's identity (R398, R401). -/
  peerGen : Nat := 0
  /-- the peer has passed its check of the port in this HELD period (R235). -/
  peerPass : Bool := false
  /-- consecutive control words of the peer with TSTAGE 6 in this end's stage 6 (R298). -/
  six : Nat := 0
  /-- clock at which the end entered ENTRY (R319). -/
  entryAt : Nat := 0
  /-- cell stream and overhead stream as sent (R293, R294). -/
  cells : Stripe := {}
  ovh : Stripe := {}
  deriving DecidableEq, Repr

/-- Whose transfer a transaction or stream id carries. -/
inductive XOwner
  /-- nobody waits: an aperture write, a credit-free service cell. -/
  | none
  /-- a copy or remote SIG of a core. -/
  | cmd (core seq : Nat)
  /-- an HDMA descriptor. -/
  | hdma (ring tag : Nat)
  /-- the wort engine's read of a slot of a partition. -/
  | wort (part die slot : Nat)
  /-- a swarm segment: (JOB, GID, OPSEQ). -/
  | seg (job gid opseq : Nat)
  /-- a broadcast of the merge stage: (JOB, SID) (R172). -/
  | smp (job sid : Nat)
  deriving DecidableEq, Repr

/-- A transfer without its ACK (R245): its cells, kept for the restart of R244. -/
structure Xfer where
  owner : XOwner := .none
  cells : List CellW := []
  /-- ACKs still expected: one per stream of a read, one otherwise. -/
  acks : Nat := 1
  /-- the cells carry another unit's ACKID: response streams of a read request. -/
  keep : Bool := false
  /-- a NACK CAUSE 2 has asked for a restart. -/
  restart : Bool := false
  /-- a swarm segment: bytes its receiver has consumed, and the router port of its tree edge (R266). -/
  got : Nat := 0
  port : Nat := 0
  deriving DecidableEq, Repr

/-- A receive stream context of a die's network interface (R216, R242, R243). -/
structure RxCtx where
  srcMod : Nat := 0
  srcTgt : Nat := 0
  stream : Nat := 0
  job : Nat := 0
  doff : Nat := 0
  lenRow : Nat := 1
  dstride : Nat := 0
  col0 : Nat := 0
  total : Nat := 0
  rcnt : Nat := 0
  rcen : Bool := false
  final : Bool := false
  pgen : Nat := 0
  ackMod : Nat := 0
  ackTgt : Nat := 0
  ackId : Nat := 0
  /-- data cells placed, by SEQ. -/
  got : List Nat := []
  /-- a line of it could not be written (R336, R344). -/
  bad : Bool := false
  deriving DecidableEq, Repr

/-- Network interfaces, links and route banks (R209 to R254). -/
structure FabSt where
  /-- link ends, key port. -/
  links : Tbl LinkRec := []
  /-- transfers without ACK, key target * 65536 + id. -/
  xfers : Tbl Xfer := []
  /-- ids kept out of use after their last cell (R245), key as above. -/
  idHold : Tbl Nat := []
  /-- transfers that wait for a free id, in order, key target (R245). -/
  idWait : Tbl (List Xfer) := []
  /-- receive contexts, key die; newest last. -/
  rx : Tbl (List RxCtx) := []
  /-- orphan cells, key die, in arrival order (R242). -/
  orphans : Tbl (List CellW) := []
  /-- cells dropped at a die for their placement generation, key die; no register shows the count (R140). -/
  pgenDrop : Tbl Nat := []
  /-- route entries, key bank * 4096 + module (R231). -/
  rt : Tbl Nat := []
  /-- generation of each bank. -/
  bankGen : Tbl Nat := []
  /-- time at which the DRAINING bank frees, on the model's clock. -/
  drainEnd : Nat := 0
  /-- summaries received: (port, generation, bytes) (R234, R235). -/
  rtx : List (Nat × Nat × Bytes) := []
  /-- ports whose summary the CHECKING bank still awaits. -/
  rtxWait : List Nat := []
  /-- management queue: arrival port and cell, and cells dropped because it was full (R247). -/
  mgmtQ : List (Nat × CellW) := []
  mgmtDrop : Nat := 0
  /-- the switch cap the queen has open: (GID, STEP, ATT) (R241). -/
  sw : Option (Nat × Nat × Nat) := Option.none
  /-- cells dropped since the last record of a code, key code; time of its last record, key
  code * 64 + port. -/
  dropSince : Tbl Nat := []
  recAt : Tbl Nat := []
  deriving DecidableEq, Repr

/-! Optics. -/

/-- One laser (R304 to R307): LSR_STAT and LSR_HOURS show the selected one. -/
structure LaserRec where
  /-- R305: 0 UNTESTED, 1 ACTIVE, 2 SPARE, 3 TUNING, 4 HANDOVER, 5 FAILED, 6 RETIRED. -/
  st : Nat := 0
  slot : Nat := 0xFF
  bias : Nat := 0
  mpd : Nat := 0x8000
  hours : Nat := 0
  deriving DecidableEq, Repr

/-- A take-over or planned handover of a bank (R306, R307). -/
structure TakeRec where
  failed : Nat := 0
  spare : Nat := 0
  slot : Nat := 0
  planned : Bool := false
  deriving DecidableEq, Repr

/-- Lanes, shutters and lasers (R291 to R324). -/
structure OptSt where
  /-- lasers, key bank * 64 + laser. -/
  lasers : Tbl LaserRec := []
  /-- take-overs under way, in order, key bank. -/
  takes : Tbl (List TakeRec) := []
  /-- received power of die-port lanes, key (die * 2 + direction) * 192 + lane; 0x8000 unless listed. -/
  dlane : Tbl Nat := []
  /-- lanes permanently faulted, same key (R301). -/
  perm : Tbl Nat := []
  /-- uncorrectable codewords of a lane, same key: window of 100 ms, count in it, count in the window before, and
  consecutive earlier windows above OPT_DPERM.UCW_LIM (R301). -/
  ucw : Tbl (Nat × Nat × Nat × Nat) := []
  /-- clock, plus 1, since which a lane's power has stayed below the low-power alarm, same key (R301). -/
  lowAt : Tbl Nat := []
  /-- time of the last power record of a port and threshold, key port * 4 + threshold (R312). -/
  pwrRec : Tbl Nat := []
  /-- time of the last LSR_AGE_WARN of a laser, key bank * 64 + laser (R307). -/
  ageRec : Tbl Nat := []
  /-- halves whose external lasers the backstop has cut: key half (R315). -/
  cut : Tbl Nat := []
  /-- slots dark for want of a spare, key bank * 32 + slot (R308). -/
  dark : Tbl Nat := []
  deriving DecidableEq, Repr

/-! Host interface and wort stream. -/

/-- A descriptor fetched and not completed (R362 to R366). -/
structure Desc where
  ring : Nat := 0
  tag : Nat := 0
  word : CmdWord := 0
  blk : Bytes := []
  /-- 0 fetched, 1 held for its beat, 2 running, 3 done, its completion not yet written. -/
  st : Nat := 0
  status : Nat := 0
  nflags : Nat := 0
  reason : Nat := 0
  detail : Nat := 0
  /-- cores of a launch still running, and the lowest that did not complete OK. -/
  cores : List Nat := []
  badCore : Option Nat := Option.none
  /-- bytes requested, moved and (HDMA to a die) gathered of an HDMA. -/
  asked : Nat := 0
  moved : Nat := 0
  gathered : Tbl Nat := []
  aborted : Bool := false
  /-- when a beat launch was checked and held. -/
  heldAt : Nat := 0
  /-- number of the doorbell that announced it (R34). -/
  bell : Nat := 0
  deriving DecidableEq, Repr

/-- A ring's part beside its registers (R358 to R367). -/
structure RingRec where
  tail : Nat := 0
  head : Nat := 0
  /-- passes through the completion queue, modulo 2: false on the first (PHASE 1). -/
  wrap : Bool := false
  /-- completions held, with their IRQ bit (R366, R371). -/
  held : List (Bytes × Bool) := []
  /-- IRQ completions pending for the vector (R367). -/
  irq : Nat := 0
  /-- freeze by bus master enable, by reclaim (R360). -/
  frzBme : Bool := false
  frzRcl : Bool := false
  /-- EN cleared while descriptors run: DISABLED once they have completed. -/
  closing : Bool := false
  /-- EN set before READY (R389), by this function. -/
  early : Option Nat := Option.none
  /-- doorbell numbers of the descriptors announced and not yet fetched, in ring order (R34). -/
  bells : List Nat := []
  deriving DecidableEq, Repr

/-- An accepted set-up of the ledger (R34, R368). -/
structure Setup where
  handle : Nat := 0
  fn : Nat := 0
  job : Nat := 0
  kind : Nat := 0
  diemask : Nat := 0
  /-- declarations (DTYPE, DIE, VALUE). -/
  decls : List (Nat × Nat × Nat) := []
  /-- group (JOB, GID) of a GROUP set-up. -/
  gid : Nat := 0
  /-- an accepted figure no longer holds: its work completes DEGRADED (R35). -/
  degraded : Bool := false
  deriving DecidableEq, Repr

/-- A reclaim under way (R382). -/
structure Reclaim where
  ring : Nat := 0
  tag : Nat := 0
  d : Nat := 0
  start : Nat := 0
  step : Nat := 1
  late : Bool := false
  deriving DecidableEq, Repr

/-- A partition beside HIVE_PART_p (R364, R382, R410). -/
structure PartSt where
  sport : Nat := 0
  session : Nat := 0
  saddr : Bytes := []
  rdl : Nat := 0
  reclaim : Option Reclaim := Option.none
  /-- partition reset under way: started by an FLR; started by QN_RESET; caps at CAPTO. -/
  reset : Bool := false
  rstFlr : Bool := false
  rstReg : Bool := false
  rstAt : Nat := 0
  /-- units whose known-answer test fails at the end of the reset: (die, engine, physical unit) (R160). -/
  katBad : List (Nat × Nat × Nat) := []
  deriving DecidableEq, Repr

/-- An outstanding non-posted host request, by PCIe tag (R351, R357, R370). -/
structure HReq where
  fn : Nat := 0
  /-- 2 HDMA, 3 copy, 4 the zero-length read after a copy's writes. -/
  kind : Nat := 2
  ring : Nat := 0
  tag : Nat := 0
  core : Nat := 0
  seq : Nat := 0
  addr : Nat := 0
  len : Nat := 0
  /-- offset of its first byte in the transfer. -/
  off : Nat := 0
  old : Bool := false
  discard : Bool := false
  deriving DecidableEq, Repr

/-- A write that waits in the host-write buffer. -/
structure HWrite where
  fn : Nat := 0
  /-- die whose port its bytes have still to cross (R15). -/
  gate : Option Nat := Option.none
  addr : Nat := 0
  data : Bytes := []
  owner : XOwner := .none
  deriving DecidableEq, Repr

/-- Host interface (R351 to R372). -/
structure HostSt where
  rings : Tbl RingRec := []
  descs : List Desc := []
  setups : List Setup := []
  nextHandle : Nat := 1
  parts : Tbl PartSt := []
  /-- bus master enable, one bit per function. -/
  bme : Nat := 0
  /-- outstanding requests, key PCIe tag. -/
  reqs : Tbl HReq := []
  /-- tags kept out of use after a timeout or reset, key tag. -/
  quar : Tbl Nat := []
  /-- functions whose DMA has stopped on a comparator fault (R356). -/
  dmaStop : Tbl Nat := []
  /-- the 32 MiB host-write buffer: writes that wait, in order (R370). -/
  wq : List HWrite := []
  /-- posted-write bytes the host still accepts. -/
  credits : Nat := 0
  /-- read requests that wait for a tag or for bus master enable, in order. -/
  rq : List HReq := []
  /-- time of the last PCI_DMA_BLOCK record of a function. -/
  blkAt : Tbl Nat := []
  /-- doorbells that have reached the hive (R34). -/
  bellNo : Nat := 0
  deriving DecidableEq, Repr

/-- A READY of a die, or the slot it became (R374, R380). -/
structure WSlot where
  die : Nat := 0
  slot : Nat := 0
  att : Nat := 0
  step : Nat := 0
  ngran : Nat := 0
  base : Nat := 0
  size64 : Nat := 0
  /-- reserved within B′ (R380). -/
  reserved : Bool := false
  /-- its READY has reached the engine. -/
  ready : Bool := false
  /-- committed: being sent. -/
  sending : Bool := false
  /-- MSEQ of its STEP_END, once sent. -/
  endSeq : Nat := 0
  deriving DecidableEq, Repr

/-- A wort session (R375 to R377). -/
structure WSess where
  isOpen : Bool := false
  acked : Bool := false
  nextSeq : Nat := 1
  ackSeq : Nat := 0
  /-- messages sent and not acknowledged: (MSEQ, granules, bytes). -/
  msgs : List (Nat × Nat × Bytes) := []
  slots : List WSlot := []
  baseStep : Nat := 0xFFFFFFFF
  /-- rate the store acknowledged over 100 ms, if below 0.9 W′, in MB/s (R380). -/
  slow : Option Nat := Option.none
  /-- W in MB/s of a set-up that a partition reset removed, kept until its SENDING slots are released (R409). -/
  keepW : Nat := 0
  deriving DecidableEq, Repr

/-- Wort engine, key partition (R374 to R381). -/
structure WortSt where
  sess : Tbl WSess := []
  deriving DecidableEq, Repr

/-! Bring-up, power, safety, test access, time. -/

/-- A retained record (R413, R414). -/
structure RetRec where
  seq : Nat := 0
  regs : Tbl Word64 := []
  wire : Bytes := []
  /-- junction temperatures at capture, in °C, die by die. -/
  temps : List Int := []
  /-- data rate of the LPDDR5X training (R327). -/
  rate : Nat := 0
  jseq : Nat := 0
  key : Bytes := []
  nonce : Nat := 0
  lasers : Tbl LaserRec := []
  /-- ports whose equaliser values are held. -/
  eq : List Nat := []
  deriving DecidableEq, Repr

/-- Flash, bring-up and retained state (R386 to R417). -/
structure BootSt where
  slotA : Option RetRec := Option.none
  slotB : Option RetRec := Option.none
  /-- this store is the one retry after a failed read-back. -/
  retry : Bool := false
  /-- defect journal: (sequence, die, kind, unit, state), oldest first. -/
  journal : List (Nat × Nat × Nat × Nat × Nat) := []
  jseq : Nat := 0
  /-- image slots: (sequence number, version), if the image verifies. -/
  imgA : Option (Nat × Nat) := some (1, 1)
  imgB : Option (Nat × Nat) := Option.none
  /-- the AON counter asks for the other image (R390). -/
  other : Bool := false
  /-- time of power good or of the reset's GO. -/
  t0 : Nat := 0
  /-- QN_RESET asked for the cold path. -/
  cold : Bool := false
  /-- bring-up runs for a module reset, whose completion is still to be recorded (R408). -/
  byReset : Bool := false
  /-- expected wiring table, 576 bytes, or empty. -/
  wire : Bytes := []
  /-- junction temperatures read in phase 0. -/
  temps : List Int := []
  /-- PEER_WAIT has expired. -/
  peerOver : Bool := false
  /-- held in phase 0 by a fence of this module (R438). -/
  selfFenced : Bool := false
  /-- phase 2 has ended: the hive SRAM is tested. -/
  sramUp : Bool := false
  /-- clock at the GO of a core, cluster or partition reset (R408). -/
  goAt : Nat := 0
  /-- state of a die before RESETTING: key die (R410, R438). -/
  dieWas : Tbl Nat := []
  /-- the comb image: version + 1 of the one that stands in the top 8 MiB of a die's SRAM, until it is zeroed, and of
  the one whose control stores and records the die's units hold; key die (R391). -/
  combIn : Tbl Nat := []
  comb : Tbl Nat := []
  deriving DecidableEq, Repr

/-- One fence-table entry (R438). -/
structure FenceEnt where
  md : Nat := 0
  die : Option Nat := Option.none
  /-- when it was applied. -/
  at_ : Nat := 0
  /-- notices still to send. -/
  left : Nat := 100
  deriving DecidableEq, Repr

/-- Fencing and safety detectors (R421 to R446). -/
structure SafSt where
  fence : List FenceEnt := []
  /-- time of the last PGEN advance, plus 1, key die. -/
  pgenAt : Tbl Nat := []
  /-- watchdog expiries within 600 s. -/
  wdog : List Nat := []
  /-- management key, 32 bytes; staging words, key k. -/
  key : Bytes := []
  stage : Tbl Nat := []
  /-- sensor pairs above TJ_THROT: key unit * 32 + pair. -/
  hot : Tbl Nat := []
  /-- a cause of SAFE_OFF has not cleared. -/
  cause : Bool := false
  /-- a reset asked for in SAFE_OFF waits for the cause to clear (R436). -/
  resetWait : Bool := false
  /-- dies held by FENCE_DIE: key die, 1 fenced, 2 unfenced and still in reset (R438, R441). -/
  dies : Tbl Nat := []
  /-- cores held by FENCE_CORE: key core, 1 fenced, 2 unfenced and not yet reset (R441). -/
  cores : Tbl Nat := []
  /-- time of a core's FENCE_CORE, plus 1, key core (R438, R441). -/
  coreAt : Tbl Nat := []
  deriving DecidableEq, Repr

/-- Input power and sideband (R449 to R454). -/
structure PwrSt where
  /-- the AON domain runs. -/
  aon : Bool := false
  /-- the rails are on. -/
  rails : Bool := false
  /-- power-down of R451 complete. -/
  down : Bool := false
  /-- the lever is shut: ILOCK reads closed. -/
  ilock : Bool := true
  /-- consecutive contentions of ALERT_N, SVC_LED, TDO, key pin; 100 ms wait under way, key pin + 8. -/
  pins : Tbl Nat := []
  deriving DecidableEq, Repr

/-- Test access ports: 0 the hive's, d + 1 die d's (R463 to R468). -/
structure TapSt where
  ir : Tbl Nat := []
  preload : Tbl Nat := []
  /-- boundary cells driven by EXTEST. -/
  drive : Tbl Nat := []
  /-- bypass and capture registers: key tap. -/
  dr : Tbl Nat := []
  /-- run in progress: (tap, instrument, unit). -/
  run : Option (Nat × Nat × Nat) := Option.none
  /-- units whose run a TAP reset stopped: UNTESTED until their own self-test (R467). -/
  untested : List (Nat × Nat × Nat) := []
  deriving DecidableEq, Repr

/-- Time (R455 to R457, R486 to R488). -/
structure TimSt where
  /-- nanoseconds of the TIME domain since the model's start; never set back. -/
  mono : Nat := 0
  /-- module timestamp. -/
  ts : Nat := 0
  /-- an epoch load has taken effect since the last module reset. -/
  loaded : Bool := false
  /-- alignment lost after a loss of BEAT (R488). -/
  misaligned : Bool := false
  /-- model clock at the last BEAT edge, plus 1; at the arming of the epoch load. -/
  edgeAt : Nat := 0
  armAt : Nat := 0
  deriving DecidableEq, Repr

/-- The whole module. -/
structure State where
  /-- commands waiting, first in, first out. -/
  pending : List Instr := []
  /-- counter of the free values drawn so far (the model's own; log entry 3). -/
  free : Nat := 0
  /-- what the module has sent to its surroundings, newest last (the model's own). -/
  out : List Out := []
  /-- registers, key BAR0 offset; an unlisted one holds its cold-reset value. -/
  regs : Tbl Word64 := []
  /-- die memories, key die * 2^40 + die-local offset; an unlisted byte reads 0. -/
  mem : List Host.Cell := []
  core : CoreSt := {}
  eng : EngSt := {}
  smp : SmpSt := {}
  upd : UpdSt := {}
  swm : SwmSt := {}
  cap : CapSt := {}
  lp : MemSt := {}
  log : LogSt := {}
  fab : FabSt := {}
  opt : OptSt := {}
  host : HostSt := {}
  wort : WortSt := {}
  boot : BootSt := {}
  saf : SafSt := {}
  pwr : PwrSt := {}
  tap : TapSt := {}
  tim : TimSt := {}
  deriving DecidableEq, Repr

/-- The module with the 54 V input just applied, before power good: every register at its cold-reset
value, every memory and queue empty. -/
def State.reset : State := {}

end Sys2Proof.Machine
end

