-- ==== Sys2Proof/Machine/Ops.lean ====
section
/-! DEFINITION. The named operations every meaning is built from: registers and fields, free values,
output, interrupts, the event log and its queues, safety state. -/

namespace Sys2Proof.Machine

/-! Registers. -/

/-- A register as hardware holds it, by BAR0 offset (R470); one never written holds its cold-reset value. -/
def State.reg (s : State) (off : Nat) : Word64 := s.regs.get (coldOf off) off

/-- The state with a register replaced. -/
def State.setReg (s : State) (off : Nat) (v : Word64) : State :=
  { s with regs := s.regs.set (coldOf off) off v }

/-- A field. -/
def State.fget (s : State) (r : FRef) : Nat := fld (s.reg r.off) r.lo r.w

/-- The state with a field replaced by the low bits of `v`. -/
def State.fset (s : State) (r : FRef) (v : Nat) : State :=
  s.setReg r.off (putFld (s.reg r.off) r.lo r.w v)

/-- A saturating counter field raised by `n`. -/
def State.finc (s : State) (r : FRef) (n : Nat) : State := s.fset r (satAdd r.w (s.fget r) n)

/-- Bit `k` of a field. -/
def State.fbit (s : State) (r : FRef) (k : Nat) : Bool := bitN (s.fget r) k

/-- Bit `k` of a field set or cleared. -/
def State.fsetBit (s : State) (r : FRef) (k : Nat) (b : Bool) : State :=
  s.fset ⟨r.off, r.lo + k, 1⟩ (b2n b)

/-! Memory bytes: key die * 2^40 + die-local offset. -/

/-- One byte of die memory. -/
def State.byte (s : State) (key : Nat) : Byte := Tbl.get (α := Byte) 0 s.mem key

/-- One byte of die memory written. -/
def State.setByte (s : State) (key : Nat) (v : Byte) : State :=
  { s with mem := Tbl.set (α := Byte) 0 s.mem key v }

/-! Output, time, free values. -/

/-- One more thing sent out of the module. -/
def State.emit (s : State) (o : Out) : State := { s with out := s.out ++ [o] }

def State.emits (s : State) (os : List Out) : State := { s with out := s.out ++ os }

/-- Module timestamp (R456). -/
def State.now (s : State) : Nat := s.tim.ts

/-- The model's own running clock, in nanoseconds: it measures intervals and never steps. -/
def State.clk (s : State) : Nat := s.tim.mono

/-- A free value: the spec states none (log entry 3). -/
def State.freshVal (s : State) : BitVec 64 := Config.freeValue s.free

/-- The state after a free value has been drawn. -/
def State.drawn (s : State) : State := { s with free := s.free + 1 }

/-- This module's number (R397). -/
def State.module (s : State) : Nat := s.fget RF.QN_WIRE_CTL_MODULE

/-- Function that owns a die (R482). -/
def State.owner (s : State) (die : Nat) : Nat := s.fget (RF.HIVE_DIEOWN_OWNER die)

/-- Dies of a function: PF0's own dies or its partition's (R352). -/
def State.diesOf (s : State) (fn : Nat) : List Nat :=
  (List.range 8).filter fun d => decide (s.owner d = fn)

/-- JOB of a function: 0 for PF0, its partition's for a VF (R246, R352). -/
def State.jobOf (s : State) (fn : Nat) : Nat :=
  if fn = 0 then 0 else s.fget (RF.HIVE_PART_JOB (fn - 1))

/-- JOB and PGEN a die's network interface holds (R140, R252). -/
def State.dieJob (s : State) (die : Nat) : Nat := s.fget (RF.FAB_NI_CFG_JOB die)
def State.diePgen (s : State) (die : Nat) : Nat := s.fget (RF.FAB_NI_CFG_PGEN die)

/-- State of a die in QN_DIE_MAP: 0 OK, 1 DEGRADED, 2 FAILED, 3 RESETTING (R418). -/
def State.dieState (s : State) (die : Nat) : Nat := s.fget (RF.QN_DIE_MAP_STATE die)

/-- A die held in reset, fenced or failed: its port absorbs cells (R248, R302, R403, R438). -/
def State.dieAbsorbs (s : State) (die : Nat) : Bool := decide (2 ≤ s.dieState die)

/-! Interrupts (R367, R485). -/

/-- A function's MSI-X vector raised. -/
def State.raise (s : State) (fn vec : Nat) : State := s.emit (.msix fn vec)

/-- HIVE_ISUM bit `k` set by its event; vector 0 of PF0 is raised when the bit becomes 1 while its
enable is 1 (R485). -/
def State.isum (s : State) (k : Nat) : State :=
  if bitN (s.reg Reg.HIVE_ISUM).toNat k then s
  else
    let s1 := s.setReg Reg.HIVE_ISUM (putFld (s.reg Reg.HIVE_ISUM) k 1 1)
    if k = 0 || bitN (s.reg Reg.HIVE_IMASK).toNat k then s1.raise 0 0 else s1

/-- A die's QN_DIE_MAP state, with its HIVE_ISUM event when it changes. -/
def State.setDieState (s : State) (die st : Nat) : State :=
  if s.dieState die = st then s else (s.fset (RF.QN_DIE_MAP_STATE die) st).isum 5

/-! Management ports (R436). -/

/-- A management port sends: it has link and an address (R436, R483). -/
def State.mgmtUp (s : State) (i : Nat) : Bool :=
  s.fbit RF.LOG_STAT_MGLINK i &&
    decide ((s.fget (RF.HIVE_MGIPH_ADDR i), s.fget (RF.HIVE_MGIPL_ADDR i)) ≠ (0, 0))

/-- The 16-byte message header of R436, in network byte order. -/
def mgmtHeader (kind md aseq serial : Nat) : Bytes :=
  beBytes 2 0x4D47 ++ [1, BitVec.ofNat 8 kind] ++ beBytes 2 md ++ [0, 0] ++ beBytes 4 aseq
    ++ beBytes 4 serial

/-- A management message goes to the collector's address and UDP port; with no gateway MAC the port finds the
collector's by Neighbour Solicitation (R436, R483). -/
def State.mgmtDgram (s : State) (i : Nat) : Dgram :=
  { mac := s.fget (RF.HIVE_MGGW_MAC i)
    src := beBytes 8 (s.fget (RF.HIVE_MGIPH_ADDR i)) ++ beBytes 8 (s.fget (RF.HIVE_MGIPL_ADDR i))
    dst := beBytes 8 (s.fget (RF.LOG_MGMT_DST_ADDR 0)) ++ beBytes 8 (s.fget (RF.LOG_MGMT_DST_ADDR 1))
    dport := some (s.fget RF.LOG_MGMT_CFG_PORT) }

/-- One message, the same on both ports that can send (R436). -/
def State.mgmtSend (s : State) (kind : Nat) (body : Bytes) : State :=
  let msg := mgmtHeader kind s.module s.log.aseq (s.fget RF.HIVE_SERIAL_SERIAL) ++ body
  let ports := [0, 1].filter s.mgmtUp
  { s with
    log := { s.log with aseq := (s.log.aseq + 1) % 2 ^ 32 }
    out := s.out ++ ports.map fun i => Out.mgmt i kind (s.mgmtDgram i) msg }

/-! The event log (R429 to R435). -/

/-- A 32-byte record. -/
def recBytes (time seq : Nat) (e : LogEvent) (flags : Nat) : Bytes :=
  let b := leBytes 8 time ++ leBytes 4 seq ++ leBytes 2 e.code.toNat
    ++ leBytes 2 (e.src.val + 16 * e.unit.toNat) ++ [BitVec.ofNat 8 e.sev.val, BitVec.ofNat 8 flags]
    ++ toLen 12 e.payload
  b ++ leBytes 2 (crc16 b)

/-- The AON mirror takes a record, in the next mirror slot (R434). -/
def State.mirrorPut (s : State) (r : Bytes) : State :=
  let k := s.fget RF.LOG_MIRSEQ_NEXT
  { s with log := { s.log with mirror := s.log.mirror.put (k % 512) r } }.fset RF.LOG_MIRSEQ_NEXT (k + 1)

/-- A log slot takes a record; an unread record it replaces is counted (R433). -/
def State.slotPut (s : State) (seq : Nat) (r : Bytes) : State :=
  let k := seq % 8192
  let old := s.log.slots.get [] k
  let s1 := { s with log := { s.log with slots := s.log.slots.put k r } }
  let oseq := leAt old 8 4
  if old ≠ [] ∧ (oseq + 2 ^ 32 - s.fget RF.LOG_RDSEQ_RDSEQ) % 2 ^ 32 < 2 ^ 31 then
    s1.finc RF.LOG_STAT_OVERRUN 1
  else s1

/-- A record pushed to the collector (R436). -/
def State.pushRec (s : State) (sev : Nat) (r : Bytes) : State :=
  if s.fget RF.LOG_MGMT_CFG_PUSH_EN = 1 ∧ s.fget RF.LOG_MGMT_CFG_PUSH_SEV ≤ sev then s.mgmtSend 1 r
  else s

/-- A record reaches the log controller (R429 to R435): it gets the next SEQ and goes to the log, to
staging before the hive SRAM is tested, or by LOG_STAT.MODE to the mirror or to a count. A severe
record also goes to the mirror and raises HIVE_ISUM.SEVERE. -/
def State.logArrive (s : State) (time : Nat) (e : LogEvent) (flags : Nat) : State :=
  let mode := s.fget RF.LOG_STAT_MODE
  let sev := e.sev.val
  let seq := s.fget RF.LOG_STAT_NEXTSEQ
  if mode = 0 then
    if !s.boot.sramUp && decide (64 ≤ s.log.staging.length) && decide (sev ≠ 3) then
      s.finc RF.LOG_STAT_OVERRUN 1
    else
      let r := recBytes time seq e (flags + if sev = 3 then 1 else 0)
      let s1 := s.fset RF.LOG_STAT_NEXTSEQ (seq + 1)
      let s2 := if s.boot.sramUp then s1.slotPut seq r
        else if s.log.staging.length < 64 then
          { s1 with log := { s1.log with staging := s1.log.staging ++ [r] } }
        else s1
      let s3 := if sev = 3 then (s2.mirrorPut r).isum 0 else s2
      s3.pushRec sev r
  else if mode = 1 ∧ 2 ≤ sev then
    let r := recBytes time seq e (flags + 1)
    let s1 := (s.fset RF.LOG_STAT_NEXTSEQ (seq + 1)).mirrorPut r
    (if sev = 3 then s1.isum 0 else s1).pushRec sev r
  else s.finc RF.LOG_RDSEQ_UNLOGGED 1

/-- The event of a code. -/
def mkEvent (code src unit sev : Nat) (payload : Bytes) : LogEvent :=
  { code := BitVec.ofNat 16 code, src := ⟨src % 16, Nat.mod_lt _ (by decide)⟩,
    unit := BitVec.ofNat 12 unit, sev := ⟨sev % 4, Nat.mod_lt _ (by decide)⟩, payload := payload }

/-- A hive source writes a record (R430). -/
def State.hiveRec (s : State) (code unit sev : Nat) (payload : Bytes) : State :=
  s.logArrive s.now (mkEvent code 8 unit sev payload) 0

/-- The AON domain writes a record (R428, R429). -/
def State.aonRec (s : State) (code sev : Nat) (payload : Bytes) : State :=
  s.logArrive s.now (mkEvent code 15 0 sev payload) 0

/-- A die source queues a record (R430): 64 entries, 16 of them for error and severe records, which
are held in their unit when the queue is full; others are dropped and the next record carries LOSS. -/
def State.dieRec (s : State) (die code unit sev : Nat) (payload : Bytes) : State :=
  let q := s.log.recq.get [] die
  let held := s.log.held.get [] die
  let low := (q.filter fun r => decide (r.ev.sev.val < 2)).length
  let loss := s.log.loss.get 0 die
  let r : QRec := { time := s.now, ev := mkEvent code die unit sev payload, flags := 4 * loss }
  if 2 ≤ sev then
    if held ≠ [] ∨ 64 ≤ q.length then
      { s with log := { s.log with held := s.log.held.set [] die (held ++ [r])
                                   loss := s.log.loss.set 0 die 0 } }
    else
      { s with log := { s.log with recq := s.log.recq.set [] die (q ++ [r])
                                   loss := s.log.loss.set 0 die 0 } }
  else if held ≠ [] ∨ 48 ≤ low ∨ 64 ≤ q.length then
    { s with log := { s.log with loss := s.log.loss.set 0 die 1 } }
  else
    { s with log := { s.log with recq := s.log.recq.set [] die (q ++ [r])
                                 loss := s.log.loss.set 0 die 0 } }

/-- At most one record of a code per key and interval (R229, R246, R312, R356, R380): runs `f` and
notes the time, or leaves the state. -/
def State.paced (s : State) (key interval : Nat) (f : State → State) : State :=
  let last := s.fab.recAt.get 0 key
  if last ≠ 0 ∧ s.clk < last - 1 + interval then s
  else f { s with fab := { s.fab with recAt := s.fab.recAt.put key (s.clk + 1) } }

/-- Bytes of a payload from a list of (width, value). -/
def pay (fs : List (Nat × Nat)) : Bytes := fs.flatMap fun f => leBytes f.1 f.2

/-! Refusals (R33, R429, R495). -/

/-- The reason R495 reports among the conditions that hold: class order 6, 5, 4, 3, 2, 1, then lowest. -/
def pick (cs : List (Bool × Nat)) : Option Nat :=
  let rs := (cs.filter fun c => c.1).map fun c => c.2
  let best := fun cl => ((rs.filter fun r => decide (r / 0x1000 = cl)).foldl
    (fun (a : Option Nat) r => match a with | none => some r | some x => some (min x r)) none)
  [6, 5, 4, 3, 2, 1].foldl (fun (a : Option Nat) cl => match a with | none => best cl | some x => some x) none

/-- Refusal record of a descriptor (R33, R429). -/
def State.refuseDesc (s : State) (reason fn opc ring tag : Nat) : State :=
  s.hiveRec reason 0 0 (pay [(1, fn), (1, opc), (2, ring), (2, tag), (1, 0)])

/-- Refusal record of any other item: a cell, table, list, image or set-up block, at the hive. -/
def State.refuseItem (s : State) (reason fn : Nat) : State :=
  s.hiveRec reason 0 0 (pay [(1, fn), (1, 0xFF), (2, 0xFFFF), (2, 0), (1, 3)])

/-- Refusal of a register write (R476): HIVE_WREJ, HIVE_WREJ2, one record, HIVE_ISUM.REFUSE. -/
def State.refuseReg (s : State) (reason off : Nat) : State :=
  let s1 := (((s.fset RF.HIVE_WREJ_REASON reason).fset RF.HIVE_WREJ2_OFFSET off).finc
    RF.HIVE_WREJ_REF_CNT 1)
  (s1.hiveRec reason 0 0 (pay [(1, 0xFF), (1, 0xFF), (2, 0xFFFF), (2, 0), (1, 2)])).isum 15

/-- A write to a read-only field or a reserved offset (R11, R474). -/
def State.rejectReg (s : State) (off : Nat) : State :=
  (s.finc RF.HIVE_WREJ_RO_CNT 1).fset RF.HIVE_WREJ2_OFFSET off

/-! Cells. -/

/-- Header fields of a cell (R211). -/
def Cell.dstMod (c : CellW) : Nat := fld c 0 12
def Cell.dstTgt (c : CellW) : Nat := fld c 12 4
def Cell.srcMod (c : CellW) : Nat := fld c 16 12
def Cell.srcTgt (c : CellW) : Nat := fld c 28 4
def Cell.vc (c : CellW) : Nat := fld c 32 3
def Cell.type (c : CellW) : Nat := fld c 35 5
def Cell.gen (c : CellW) : Nat := fld c 40 4
def Cell.job (c : CellW) : Nat := fld c 44 8
def Cell.sour (c : CellW) : Bool := bit c 52
def Cell.last (c : CellW) : Bool := bit c 53
def Cell.len (c : CellW) : Nat := fld c 54 6
def Cell.stream (c : CellW) : Nat := fld c 60 16
def Cell.seq (c : CellW) : Nat := fld c 76 16
def Cell.hresv (c : CellW) : Nat := fld c 92 4
/-- Little-endian value of payload bytes `[i .. i + n - 1]`. -/
def Cell.pay (c : CellW) (i n : Nat) : Nat := fld c (96 + 8 * i) (8 * n)
/-- Payload bytes from `i`. -/
def Cell.payBytes (c : CellW) (i n : Nat) : Bytes := leBytes n (Cell.pay c i n)
def Cell.bytes (c : CellW) : Bytes := leBytes 64 c.toNat

/-- The CRC-32C of a cell, VC and GEN taken as zero (R212). -/
def Cell.crc (c : CellW) : Nat := crc32c (leBytes 60 ((putFld (putFld c 32 3 0) 40 4 0).toNat))

/-- Virtual channel with which a unit of this module sends a type: its class, or 6 (R213, R224). -/
def typeVc (type : Nat) : Nat :=
  if type = 6 ∨ type = 7 then 1 else if type = 12 ∨ type = 13 then 6 else 0

/-- A cell with its CRC-32C. -/
def mkCell (dmod dtgt smod stgt type gen job : Nat) (sour last : Bool) (len stream seq : Nat)
    (payload : Bytes) : CellW :=
  let h := dmod % 4096 + 2 ^ 12 * (dtgt % 16) + 2 ^ 16 * (smod % 4096) + 2 ^ 28 * (stgt % 16)
    + 2 ^ 32 * typeVc type
    + 2 ^ 35 * (type % 32) + 2 ^ 40 * (gen % 16) + 2 ^ 44 * (job % 256) + 2 ^ 52 * b2n sour
    + 2 ^ 53 * b2n last + 2 ^ 54 * (len % 64) + 2 ^ 60 * (stream % 65536) + 2 ^ 76 * (seq % 65536)
  let c : CellW := BitVec.ofNat 512 (h + 2 ^ 96 * leVal (toLen 48 payload))
  putFld c 480 32 (Cell.crc c)

/-- Current generation, stamped into every cell at its source hive (R237). -/
def State.gen (s : State) : Nat := s.fget RF.RT_GEN_CUR_GEN

/-- A unit of this module gives a cell to the hive router. -/
def State.sendCell (s : State) (dmod dtgt stgt type job : Nat) (sour last : Bool)
    (len stream seq : Nat) (payload : Bytes) : State :=
  s.emit (.cell (mkCell dmod dtgt s.module stgt type s.gen job sour last len stream seq payload))

/-- ACK and NACK (R218). -/
def ackPay (status cause id bytes : Nat) : Bytes :=
  [BitVec.ofNat 8 status, BitVec.ofNat 8 cause] ++ leBytes 2 id ++ leBytes 4 bytes

def State.sendAck (s : State) (dmod dtgt stgt job id bytes : Nat) : State :=
  s.sendCell dmod dtgt stgt 6 job false true 8 0 0 (ackPay 0 0 id bytes)

def State.sendNack (s : State) (dmod dtgt stgt job status cause id : Nat) : State :=
  s.sendCell dmod dtgt stgt 7 job false true 8 0 0 (ackPay status cause id 0)

/-- The residency limit of R229, in nanoseconds. -/
def State.residency (s : State) : Nat :=
  max (s.fget RF.FAB_TIMERS_TTL_HOP * 10000) (s.fget RF.FAB_TIMERS_LDN_HOLD * 1000 + 100000)

/-- 4 × the residency limit + 10 µs (R229, R237, R245). -/
def State.drainTime (s : State) : Nat := 4 * s.residency + 10000

/-- One nanosecond of the TIME domain passes (log entry 4). -/
def State.tick (s : State) : State :=
  { s with tim := { s.tim with mono := s.tim.mono + 1, ts := (s.tim.ts + 1) % 2 ^ 64 } }

/-- Nanoseconds of a beat period (R486). -/
def State.beatNs (s : State) : Nat := 1000 * s.fget RF.TIM_CTL_BEAT_PER

/-- The edge count: while BEAT is lost it continues on local time from the last captured edge (R457, R488). -/
def State.edges (s : State) : Nat :=
  let n := s.fget RF.TIM_BEATCNT_EDGES
  if s.fget RF.TIM_CTL_BEAT_OK = 1 ∨ s.tim.edgeAt = 0 then n
  else (n + (s.clk + 1 - s.tim.edgeAt) / max 1 s.beatNs) % 2 ^ 32

/-! Plans of groups (R261). -/

/-- Module of a member word (R256). -/
def memMod (w : Nat) : Nat := bitsN w 0 12

/-- Every member of the group lies on this module. -/
def State.allHere (s : State) (g : Group) : Bool := g.members.all fun m => decide (memMod m = s.module)

/-- Modules of a group; that of the coordinator, member 0's, and of the witness (R273). -/
def Group.mods (g : Group) : List Nat := g.members.map memMod
def Group.cMod (g : Group) : Nat := memMod (g.members.headD 0)
def Group.wMod (g : Group) : Nat := memMod (g.members.getD g.wit 0)

/-- The plan of a group (log entry 17): with every member on this module it has no edge, so no depth, no
relay and nothing to connect; only its rate stays Config's. The latency tree is at most 3 deep (R261). The reduce
figure is at most the ports' 5,771 GB/s and at least 5,000 GB/s where R270's conditions hold; the broadcast figure is
never below it (R269). -/
def State.planFig (s : State) (g : Group) (epoch : Nat) : Config.PlanFig :=
  let pl := Config.plan g.members s.boot.wire epoch
  if s.allHere g then
    { pl with ok := true, depthL := 0, depthB := 0, relays := 0, rho := 0, rate := max 1 pl.rate, longest := 0 }
  else
    let rate := min 5771 (max (if pl.clear && decide (pl.longest ≤ 99) then 5000 else 0) pl.rate)
    { pl with depthL := min 3 pl.depthL, rate := rate, bcast := max rate pl.bcast }

/-- A tree of a root as `Config.planPorts` numbers it: stripe 0xFF names the latency tree; `up` is the direction
toward the root. -/
def treeNo (root stripe : Nat) (up : Bool) : Nat :=
  root + 4096 * (if stripe = 0xFF then 0 else stripe + 1) + 2 ^ 20 * b2n up

/-- Ports of a tree at this module, on direct links, without the edges known to be lost (R261, R267). -/
def State.treePorts (s : State) (g : Group) (root stripe : Nat) (up : Bool) : List Nat :=
  (Config.planPorts g.members s.boot.wire g.epoch (treeNo root stripe up)).eraseDups.filter fun p =>
    decide (p < 31) && !g.lost.contains (s.module * 64 + p)

/-- Router ports of this module's next tree nodes for a root module (R261): one toward the root; away from it at
most 31, of stripe tree s at its root port s, and at another module those of one stripe tree only. -/
def State.planNext (s : State) (g : Group) (root stripe : Nat) (up : Bool) : List Nat :=
  if s.allHere g then []
  else if up then (if root = s.module then [] else (s.treePorts g root stripe true).take 1)
  else if stripe = 0xFF then s.treePorts g root stripe false
  else if root = s.module then [stripe].filter fun p => decide (p < 31) && !g.lost.contains (s.module * 64 + p)
  else if (List.range stripe).any fun t => s.treePorts g root t false != [] then []
  else s.treePorts g root stripe false

/-! Last gasp and safety state (R424, R435). -/

/-- The last-gasp registers record an event and the AON sender transmits; two repeats follow (R435). -/
def State.lastGasp (s : State) (cause info : Nat) : State :=
  let s1 := s.fset RF.LOG_LG_TIME_TIME s.now
  let s2 := ((s1.fset RF.LOG_LG_CAUSE_CAUSE cause).finc RF.LOG_LG_CAUSE_COUNT 1).fset
    RF.LOG_LG_CAUSE_VALID 1
  let s3 := s2.fset RF.LOG_LG_CAUSE_LASTSEQ (s.fget RF.LOG_STAT_NEXTSEQ + (2 ^ 32 - 1))
  let s4 := s3.fset RF.LOG_LG_INFO_INFO info
  let body := leBytes 8 (s4.reg Reg.LOG_LG_TIME).toNat ++ leBytes 8 (s4.reg Reg.LOG_LG_CAUSE).toNat
    ++ leBytes 8 (s4.reg Reg.LOG_LG_INFO).toNat
  let s5 := s4.mgmtSend 2 body
  { s5 with log := { s5.log with lgLeft := 2 } }

/-- LOG_STAT.SSTATE changes, with its HIVE_ISUM event (R424, R485). -/
def State.setSState (s : State) (v : Nat) : State :=
  if s.fget RF.LOG_STAT_SSTATE = v then s else (s.fset RF.LOG_STAT_SSTATE v).isum 2

end Sys2Proof.Machine
end

