-- ==== Sys2Proof/Machine/PlanOps.lean ====
section
/-! DEFINITION. The wiring table's ports, and what the queens do about swarm plans: plan edges and their loss, relay
entries, messages between queens (R260, R261, R267, R396). -/

namespace Sys2Proof.Machine

/-! The expected wiring table (R396). -/

/-- Byte `i` of entry p. -/
def State.wireAt (s : State) (p i : Nat) : Nat := (byteAt s.boot.wire (64 + 16 * p + i)).toNat

/-- KIND of an external port: 0 unconnected, 1 local, 2 global, 3 service; with SUBST, port 31 stands in for
the port it names (R396, R397). -/
def State.substFor (s : State) : Option Nat :=
  if bitN (s.wireAt 31 1) 1 then some (s.wireAt 31 5) else none
def State.wirePort (s : State) (p : Nat) : Nat := if s.substFor = some p then 31 else p
def State.wireKind (s : State) (p : Nat) : Nat := s.wireAt (s.wirePort p) 0
def State.wireReq (s : State) (p : Nat) : Bool := bitN (s.wireAt (s.wirePort p) 1) 0
def State.wirePeer (s : State) (p : Nat) : Nat :=
  (s.wireAt (s.wirePort p) 2 + 256 * s.wireAt (s.wirePort p) 3) % 4096
def State.wirePeerPort (s : State) (p : Nat) : Nat := s.wireAt (s.wirePort p) 4

/-! Plan edges and relays (R260, R261, R267). -/

/-- Ports on a plan of a group: those of the first edges of its latency and stripe trees (R261). -/
def State.groupPorts (s : State) (g : Group) : List Nat :=
  g.mods.flatMap fun root => (0xFF :: List.range 31).flatMap fun stripe => [false, true].flatMap fun up =>
    s.planNext g root stripe up

/-- The next nodes of a tree: (router port, module). -/
def State.planHops (s : State) (g : Group) (root stripe : Nat) (up : Bool) : List (Nat × Nat) :=
  (s.planNext g root stripe up).map fun p => (p, s.wirePeer p)

/-- The relay entries held for a group. -/
def State.relay (s : State) (job gid : Nat) : Option Relay :=
  s.swm.relays.find? fun r => decide (r.job = job ∧ r.gid = gid)

/-- Relay entries in use (R260, R288). -/
def State.relaysUsed (s : State) : Nat := (s.swm.relays.map fun r => r.entries).sum

/-- Nodes to which a relay passes a segment of a tree of a root or owner member (R261). -/
def State.relayHops (s : State) (r : Relay) (rootm stripe : Nat) (up : Bool) : List (Nat × Nat) :=
  let ports := Config.relayPorts [r.job, r.gid, r.gsum, r.epoch] s.boot.wire (treeNo rootm stripe up)
  ((ports.eraseDups.filter fun p => decide (p < 31)).take (if up then 1 else 31)).map fun p => (p, s.wirePeer p)

/-- A message of this queen about a swarm group, to another's: 1 install relay entries, 2 remove them, 3 an edge
is lost, 4 a plan epoch (R261, R267). DESIGN CHOICE: the spec lays out no such message (log entry 70). -/
def State.queenMsg (s : State) (md : Nat) (nums : List Nat) : State :=
  s.sendCell md 8 8 12 0 false true 48 0 0 (toLen 48 (Config.msgBytes nums))

/-- An edge of a group's plan is lost: the hive notes it and reports it to member 0's module (R267). -/
def State.edgeLost (s : State) (g : Group) (e : Nat) : State :=
  let groups := s.swm.groups.map fun (x : Group) =>
    if x.job = g.job ∧ x.gid = g.gid ∧ ¬x.lost.contains e then { x with lost := x.lost ++ [e] } else x
  let s1 : State := { s with swm := { s.swm with groups := groups } }
  if g.cMod = s.module then s1 else s1.queenMsg g.cMod [3, g.job, g.gid, e]

/-- A router port enters DOWN: the groups and relays on whose plan it lies lose an edge (R267). -/
def State.portEdge (s : State) (p : Nat) : State :=
  let s1 := (s.swm.groups.filter fun g => (s.groupPorts g).contains p && !g.lost.contains (s.module * 64 + p)).foldl
    (fun (s : State) g => s.edgeLost g (s.module * 64 + p)) s
  s.swm.relays.foldl (fun (s : State) r => s.queenMsg r.owner [3, r.job, r.gid, s.module * 64 + p]) s1

/-- A module is fenced: the plans it is a member or a next node of lose it (R267). -/
def State.fenceEdge (s : State) (m : Nat) : State :=
  (s.swm.groups.filter fun g => (g.mods.contains m || (s.groupPorts g).any fun p => s.wirePeer p == m)
    && g.cMod != m).foldl (fun (s : State) g => s.edgeLost g (m * 64 + 63)) s

/-- The relay entries of a plan go to their hives, from member 0's module (R261). -/
def State.relaysOut (s : State) (g : Group) : State :=
  if g.cMod = s.module ∧ !s.allHere g then
    (Config.planRelays g.members s.boot.wire g.epoch).foldl (fun (s : State) r =>
      s.queenMsg r.1 [1, g.job, g.gid, g.epoch, g.gsum, r.2]) s
  else s

/-- They are removed with the group. -/
def State.relaysGone (s : State) (g : Group) : State :=
  if g.cMod = s.module ∧ !s.allHere g then
    (Config.planRelays g.members s.boot.wire g.epoch).foldl (fun (s : State) r =>
      s.queenMsg r.1 [2, g.job, g.gid]) s
  else s

/-- Relay entries of a hive at most (R260). -/
def relayMax : Nat := 65536

/-- A queen's message about a swarm group is acted on (R261, R267); relay entries that exceed the table are not
installed. -/
def State.queenTake (s : State) (src : Nat) (nums : List Nat) : State :=
  let n := fun (i : Nat) => nums.getD i 0
  let others := s.swm.relays.filter fun r => !decide (r.job = n 1 ∧ r.gid = n 2)
  if n 0 = 1 then
    if (others.map fun r => r.entries).sum + n 5 ≤ relayMax then
      { s with swm := { s.swm with relays := others ++ [{ job := n 1, gid := n 2, epoch := n 3, gsum := n 4
                                                          owner := src, entries := n 5 }] } }
    else s
  else if n 0 = 2 then { s with swm := { s.swm with relays := others } }
  else if n 0 = 3 then
    match s.swm.groups.find? fun g => decide (g.job = n 1 ∧ g.gid = n 2) with
    | some g => if g.cMod = s.module then s.edgeLost g (n 3) else s
    | none => s
  else s

end Sys2Proof.Machine
end

