-- ==== Sys2Proof/Machine/CoreOps.lean ====
section
/-! DEFINITION. Operations on worker cores: state codes, issue, completions, kernel completion,
counters and the commands they release (R115 to R134). -/

namespace Sys2Proof.Machine

/-- Status codes of R13. -/
def stOK : Nat := 0x00
def stABORTED : Nat := 0x01
def stSOUR : Nat := 0x02
def stCAPFAILED : Nat := 0x03
def stREFUSED : Nat := 0x04
def stFENCED : Nat := 0x05
def stTIMEOUT : Nat := 0x06
def stECC : Nat := 0x07
def stHOSTABORT : Nat := 0x08
def stTOOLATE : Nat := 0x09
def stSTALE : Nat := 0x0A
def stOVERFLOW : Nat := 0x0B
def stDEGRADED : Nat := 0x0C

/-- Core states of R120. -/
def csIDLE : Nat := 0
def csRUN : Nat := 1
def csWAIT : Nat := 2
def csBAR : Nat := 3
def csSTALL : Nat := 4
def csHALT : Nat := 5
def csFENCED : Nat := 6

/-- Die of a global core id (R12). -/
def dieOf (core : Nat) : Nat := core / 256

/-- State of a core (WRK_CORE_STATE). -/
def State.coreState (s : State) (core : Nat) : Nat :=
  s.fget (RF.WRK_CORE_STATE_STATE (core / 256) (core % 256 / 8) (core % 8))

def State.setCoreState (s : State) (core st : Nat) : State :=
  s.fset (RF.WRK_CORE_STATE_STATE (core / 256) (core % 256 / 8) (core % 8)) st

def State.coreRec (s : State) (core : Nat) : CoreRec := s.core.cores.get {} core

def State.setCoreRec (s : State) (core : Nat) (r : CoreRec) : State :=
  { s with core := { s.core with cores := s.core.cores.set {} core r } }

/-! Kernel completion (R119, R120, R364, R365). -/

/-- A kernel completion reaches the launch it belongs to: NFLAGS are joined, the lowest core that did
not complete OK gives the status, and the launch is done when its last core is (R364, R365). -/
def Desc.kernelDone (d : Desc) (core status reason nflags : Nat) : Desc :=
  let d1 := { d with cores := d.cores.filter (fun c => c != core), nflags := Nat.lor d.nflags nflags }
  let worse : Bool := match d.badCore with
    | none => true
    | some b => decide (core < b)
  let d2 := if status ≠ stOK ∧ worse then
      { d1 with status := status, reason := reason, badCore := some core }
    else d1
  if d2.cores = [] then
    { d2 with st := 3
              detail := fld d2.word 240 16 + 2 ^ 16 * (d2.badCore.getD (fld d2.word 32 11)) }
  else d2

/-- Every uncompleted descriptor mapped. -/
def State.mapDescs (s : State) (f : Desc → Desc) : State :=
  { s with host := { s.host with descs := s.host.descs.map f } }

/-- The core's kernel ends once every command it issued has completed: completion written, core IDLE,
or still HALT or FENCED. -/
def State.kernelTryEnd (s : State) (core : Nat) : State :=
  let r := s.coreRec core
  let fin := r.block = Block.ended ∨ r.ending ≠ none
  if fin ∧ r.outst = [] ∧ !r.resetting then
    let (st, rs) : Nat × Nat := match r.ending, r.bad with
      | some e, _ => (e, 0)
      | none, some (_, st, rs) => (st, rs)
      | none, none => (stOK, 0)
    let s1 := match r.launch with
      | none => s
      | some (ring, tag) => s.mapDescs fun d =>
          if d.ring = ring ∧ d.tag = tag ∧ core ∈ d.cores then d.kernelDone core st rs r.nflags else d
    let s2 := s1.setCoreRec core {}
    if s2.coreState core = csHALT ∨ s2.coreState core = csFENCED then s2
    else s2.setCoreState core csIDLE
  else s

/-- A core of a folded cluster, or of the cluster that hosts it: its commands complete DEGRADED (R405). -/
def State.clFolded (s : State) (core : Nat) : Bool := decide (s.eng.clFold.get 0 (core / 8) ≠ 0)

/-- A command's completion reaches its core (R119): it leaves the issued commands, the earliest one
that did not complete OK is kept with its reason, NFLAGS are joined, and the kernel may end. -/
def State.completeRaw (s : State) (core seq status0 reason nflags : Nat) : State :=
  let r := s.coreRec core
  let status := if status0 = stOK ∧ s.clFolded core then stDEGRADED else status0
  if r.outst.any (fun o => o.1 == seq) then
    let bad := if status = stOK then r.bad else match r.bad with
      | some (q, st, rs) => if seq < q then some (seq, status, reason) else some (q, st, rs)
      | none => some (seq, status, reason)
    let r1 := { r with outst := r.outst.filter (fun o => o.1 != seq) }
    let r2 := if r.resetting then r1 else { r1 with bad := bad, nflags := Nat.lor r.nflags nflags }
    (s.setCoreRec core r2).kernelTryEnd core
  else s

/-! Counters (R128, R129). -/

def State.cnt (s : State) (die n : Nat) : Nat := s.fget (RF.WRK_CNT_VALUE die n)

/-- R129: (value − T) mod 2³² is zero or positive as a signed number. -/
def satisfied (value target : Nat) : Bool :=
  decide ((value + 2 ^ 32 - target % 2 ^ 32) % 2 ^ 32 < 2 ^ 31)

def State.condsHold (s : State) (die : Nat) (conds : List (Nat × Nat)) : Bool :=
  conds.all fun c => satisfied (s.cnt die c.1) c.2

/-- One waiting core leaves WAIT when every condition holds (R120, R129, R130). The WAIT is the last
command the core issued. -/
def State.wakeCore (s : State) (core : Nat) : State :=
  let r := s.coreRec core
  match r.block with
  | .wait conds _ =>
    if s.coreState core = csWAIT ∧ s.condsHold (dieOf core) conds then
      ((s.setCoreRec core { r with block := .none }).setCoreState core csRUN).completeRaw
        core (r.seq - 1) stOK 0 0
    else s
  | _ => s

/-- Every waiting core of a die looks at its conditions. -/
def State.wakeDie (s : State) (die : Nat) : State :=
  s.core.cores.foldl (fun s e => if dieOf e.1 = die then s.wakeCore e.1 else s) s

/-- Addition to a counter, modulo 2³² (R128). -/
def State.cntAdd (s : State) (die n v : Nat) : State :=
  (s.fset (RF.WRK_CNT_VALUE die n) (s.cnt die n + v)).wakeDie die

/-- A counter set (R128). -/
def State.cntSet (s : State) (die n v : Nat) : State :=
  (s.fset (RF.WRK_CNT_VALUE die n) v).wakeDie die

/-! Refused commands (R33, R119, R429). -/

/-- The refusal record of a command word: its source is the die, its unit the issuing core. -/
def State.refuseRec (s : State) (core opc reason : Nat) : State :=
  let die := dieOf core
  s.dieRec die reason core 0
    (pay [(1, s.owner die), (1, opc), (2, core), (2, (s.coreRec core).ctx.ltag), (1, 1)])

/-- A refused command completes REFUSED with its reason, and the core goes on (R119). -/
def State.refuseCmd (s : State) (core seq opc reason : Nat) : State :=
  (s.refuseRec core opc reason).completeRaw core seq stREFUSED reason 0

/-! Issue (R115, R117, R119). -/

/-- The 64-byte command word at a die-local address. -/
def State.wordAt (s : State) (die addr : Nat) : CmdWord :=
  BitVec.ofNat 512 (leVal ((List.range 64).map fun i => s.byte (die * 2 ^ 40 + addr + i)))

/-- OPCs that a command of the table defines (R118, R177, R182, R262, R273). -/
def opcListed (o : Nat) : Bool :=
  [0x00, 0x01, 0x02, 0x03, 0x04, 0x05, 0x06, 0x20, 0x21, 0x22, 0x23, 0x30, 0x40, 0x50,
   0x60, 0x61, 0x62, 0x70, 0x71, 0x72, 0x73, 0x80, 0x81, 0x83, 0x84, 0x85, 0x86].contains o

/-- Bytes of a command: a VEC whose NMOP field exceeds 6 takes two words (R119, R121). -/
def cmdBytes (w : CmdWord) : Nat :=
  if fld w 0 8 = 0x40 ∧ 6 < fld w 8 4 then 128 else 64

/-- The core takes its next command from its fetch buffer: the address advances, and the command has a number. -/
def State.issueNext (s : State) (core : Nat) (w : CmdWord) : State :=
  let r := s.coreRec core
  let n := cmdBytes w / 64
  s.setCoreRec core { r with pc := r.pc + cmdBytes w, seq := r.seq + 1, buf := r.buf.drop n,
                             ext := (r.buf.getD (n - 1) none).getD 0,
                             outst := r.outst ++ [(r.seq, fld w 0 8)] }

/-- A command that acts in the core itself and completes at once. -/
def State.completeOK (s : State) (core seq : Nat) : State := s.completeRaw core seq stOK 0 0

/-- The word's bits outside the listed (low, width) fields are zero (R7). -/
def reservedZero (w : CmdWord) (fields : List (Nat × Nat)) : Bool :=
  decide (fields.foldl (fun (x : CmdWord) f => putFld x f.1 f.2 0) w = 0)

end Sys2Proof.Machine
end

