-- ==== Sys2Proof/Machine/Ecc.lean ====
section
/-! DEFINITION. The inline Reed–Solomon code of LPDDR5X lines (R328, R329), on error patterns: the XOR
of the stored codeword with the correct one, one byte per symbol. -/

namespace Sys2Proof.Machine

/-- x times an element of GF(2⁸) with x⁸ + x⁴ + x³ + x² + 1. -/
def gfX (a : Nat) : Nat := if 128 ≤ a then Nat.xor (a * 2 % 256) 0x1D else a * 2

/-- Product in GF(2⁸). -/
def gfMul (a b : Nat) : Nat :=
  ((List.range 8).foldl (fun (acc : Nat × Nat) i =>
    (if bitN b i then Nat.xor acc.1 acc.2 else acc.1, gfX acc.2)) (0, a % 256)).1

/-- α^n. -/
def gfPow : Nat → Nat
  | 0 => 1
  | n + 1 => gfX (gfPow n)

/-- Syndrome j of an error pattern: symbol i is the coefficient of x^(67 − i). -/
def synd (e : Tbl Nat) (j : Nat) : Nat :=
  e.foldl (fun a x => Nat.xor a (gfMul x.2 (gfPow (j * (67 - x.1) % 255)))) 0

def synds (e : Tbl Nat) : List Nat := [0, 1, 2, 3].map (synd e)

/-- The poison of a line: check bytes XORed with 0xA5, 0x5A, 0xA5 and 0x5A (R329). -/
def poison : Tbl Nat := [(64, 0xA5), (65, 0x5A), (66, 0xA5), (67, 0x5A)]

/-- What a read finds (R329). -/
inductive LineV
  | good
  | corrected (sym val : Nat)
  | poisoned
  | bad
  deriving DecidableEq, Repr

/-- Symbols a correction may name: D0–D59 and C0–C3. -/
def storedSyms : List Nat := List.range 60 ++ [64, 65, 66, 67]

/-- The first case of R329's table that applies. -/
def decodeLine (e : Tbl Nat) : LineV :=
  if e = [] then .good
  else
    let ss := synds e
    if ss = [0, 0, 0, 0] then .good
    else if ss = synds poison then .poisoned
    else match storedSyms.find? fun i => decide (synds [(i, ss.headD 0)] = ss) with
      | some i => .corrected i (ss.headD 0)
      | none => .bad

/-- Two patterns joined. -/
def xorPat (a b : Tbl Nat) : Tbl Nat :=
  b.foldl (fun t x => Tbl.set 0 t x.1 (Nat.xor (t.get 0 x.1) x.2)) a

end Sys2Proof.Machine
end

