-- ==== Sys2Proof/Machine/LineOps.lean ====
section
/-! DEFINITION. The lines of the LPDDR5X channels: their mapping, their reads with inline ECC, failed channels,
the transfers whose writes their buffers hold (R328 to R344, R346). -/

namespace Sys2Proof.Machine

def sramBase : Nat := 0xF000000000
def sramSize : Nat := 0x20000000

/-- [off, off + len) meets [lo, hi). -/
def meets (off len lo hi : Nat) : Bool := decide (0 < len ∧ off < hi ∧ lo < off + len)

/-! Lines and channels (R332, R346). -/

/-- Channels in the interleave, ascending. -/
def State.chans (s : State) (die : Nat) : List Nat :=
  (List.range 16).filter fun i => s.fbit (RF.MEM_CHMAP_INSVC die) i

/-- Pages per channel (R332). -/
def pagesPerChan : Nat := if Config.order = 2 then 65536 else 131072

/-- Key of a channel; of a line of it; of a page of it. -/
def chKey (die ch : Nat) : Nat := die * 16 + ch
def lineKey (die ch q : Nat) : Nat := chKey die ch * 2 ^ 27 + q
def pageKey (die ch pg : Nat) : Nat := chKey die ch * 2 ^ 17 + pg

/-- Channel and physical line index of a die-local offset (R332). -/
def State.mapLine (s : State) (die a : Nat) : Nat × Nat :=
  let cs := s.chans die
  let n := cs.length
  if n = 0 then (0, 0)
  else
    let l := a / 60
    let ch := cs.getD (l % n) 0
    let q := l / n
    let pg := q / 1024
    let d := s.lp.remap.get 0 (pageKey die ch pg)
    (ch, (if d = 0 then pg else d - 1) * 1024 + q % 1024)

/-- Offset of byte 0 of line q of a channel, if some offset maps to it: the inverse of `mapLine`. -/
def State.lineOff (s : State) (die ch q : Nat) : Option Nat :=
  let cs := s.chans die
  let n := cs.length
  match cs.findIdx? fun c => c == ch with
  | none => none
  | some k =>
    let pg := q / 1024
    let lo := pageKey die ch 0
    let owner := s.lp.remap.find? fun e => decide (lo ≤ e.1 ∧ e.1 < lo + 2 ^ 17 ∧ e.2 = pg + 1)
    let lpg : Option Nat := match owner with
      | some e => some (e.1 - lo)
      | none => if s.lp.remap.get 0 (pageKey die ch pg) = 0 then some pg else none
    lpg.map fun p => ((p * 1024 + q % 1024) * n + k) * 60

/-- A failed channel (R344). -/
def State.chFailed (s : State) (die ch : Nat) : Bool := s.fbit (RF.MEM_CHMAP_FAILED die) ch

/-! Write-combining entries, and the transfers whose bytes they hold (R334, R336). -/

def State.wcb (s : State) (die ch : Nat) : List WcbEntry := s.lp.wcb.get [] (chKey die ch)

def State.setWcb (s : State) (die ch : Nat) (es : List WcbEntry) : State :=
  { s with lp := { s.lp with wcb := s.lp.wcb.set [] (chKey die ch) es } }

/-- Tag of a receive context's writes. -/
def rxTag (die smod stgt stream : Nat) : Nat := 2 ^ 80 + die * 2 ^ 40 + smod * 2 ^ 24 + stgt * 2 ^ 16 + stream

def RxCtx.tag (x : RxCtx) (die : Nat) : Nat := rxTag die x.srcMod x.srcTgt x.stream

def State.rxOf (s : State) (die : Nat) : List RxCtx := s.fab.rx.get [] die

def State.setRx (s : State) (die : Nat) (xs : List RxCtx) : State :=
  ({ s with fab := { s.fab with rx := s.fab.rx.set [] die xs } } : State).fset
    (RF.FAB_NI_STAT_CTX_USED die) xs.length

/-- Tag of a core command's own writes. -/
def cmdTag (core seq : Nat) : Nat := 2 ^ 64 + core * 2 ^ 40 + seq

/-- Transfers whose lines could not be written: receive contexts are marked, and copies of the die's cores end
ECC_UNCORRECTABLE (R336, R344). -/
def State.markBad (s : State) (die : Nat) (tags : List Nat) : State :=
  if tags = [] then s
  else
    let s1 := s.setRx die ((s.rxOf die).map fun x => if tags.contains (x.tag die) then { x with bad := true } else x)
    let job := fun (j : Job) => if tags.contains (cmdTag j.core j.seq) then { j with status := 7 } else j
    { s1 with eng := { s1.eng with ceq := s1.eng.ceq.map fun e => (e.1, e.2.map job) } }

/-! Defect journal. -/

/-- A change of the defect map enters the journal (R407): die, kind (0 array, 1 cluster, 2 bank, 3
channel, 4 lane group, 5 laser, 6 die, 7 matrix-vector engine, 8 remap, 9 emulated logical bank), unit, new state
(1 in service, a spare so consumed, 6 the host of a fold). A journal that is
three-quarters full starts a store (R415). -/
def State.journal (s : State) (die kind unit st : Nat) : State :=
  let q := (s.boot.jseq + 1) % 2 ^ 32
  let jrn := s.boot.journal ++ [(q, die, kind, unit, st)]
  let s1 : State := { s with boot := { s.boot with jseq := q, journal := jrn } }
  if jrn.length < 24576 ∨ s.fget RF.QN_RETAIN_BUSY = 1 then s1 else s1.fset RF.QN_RETAIN_BUSY 1

/-! Failed channels and reads (R329 to R331, R343, R344). -/

/-- Payload of the memory records (R348). -/
def memPay (die ch cause temp q page : Nat) : Bytes :=
  pay [(1, chKey die ch), (1, cause), (1, temp), (1, 0), (4, q), (4, page)]

/-- A channel is fenced (R344): its buffered writes are discarded and their transfers go bad. -/
def State.channelLost (s : State) (d c cause : Nat) : State :=
  if !s.fbit (RF.MEM_CHMAP_INSVC d) c || s.chFailed d c then s
  else
    let bad := (s.wcb d c).flatMap fun e => e.tags
    let s1 := ((s.setWcb d c []).markBad d bad).fsetBit (RF.MEM_CHMAP_FAILED d) c true
    let s2 := (s1.fset (RF.COMB_ERR_CH_FAIL d) 1).journal d 3 c 4
    s2.dieRec d 0x8702 (chKey d c) 2 (memPay d c cause 0 0 0)

/-- The reaction of the home to an uncorrectable read (R331): counted and recorded. More of them within 1 s than
MEM_CFG.CH_UE_LIM fail the channel (R343). -/
def State.lineUe (s : State) (die ch q cause : Nat) : State :=
  let s1 := (s.finc (RF.MEM_CH_STAT_UE die ch) 1).fset (RF.COMB_ERR_MEM_UE die) 1
  let pg := match s.lineOff die ch q with
    | some a => a / 60 / (max 1 (s.chans die).length) / 1024
    | none => q / 1024
  let s2 := s1.dieRec die 0x8701 (chKey die ch) 2 (memPay die ch cause 0 q pg)
  let ts := ((s2.lp.ueAt.get [] (chKey die ch)).filter fun t => decide (s.clk < t + 1000000000)) ++ [s.clk]
  let s3 : State := { s2 with lp := { s2.lp with ueAt := s2.lp.ueAt.put (chKey die ch) ts } }
  if s3.fget (RF.MEM_CFG_CH_UE_LIM die) < ts.length then s3.channelLost die ch 4 else s3

/-- Valid bytes of the open write-combining entry of a line, one bit each; 0 where it has none. -/
def State.pendingMask (s : State) (die ch q : Nat) : Nat :=
  match (s.wcb die ch).find? fun e => e.q == q with
  | some e => e.valid
  | none => 0

/-- The line's codeword becomes the one `r` away from the correct one, with `left` as its stored error: the data
bytes that no pending write covers change (R329). -/
def State.lineSettle (s : State) (die ch q : Nat) (r left : Tbl Nat) : State :=
  let k := lineKey die ch q
  let err := if left = [] then s.lp.lineErr.del k else s.lp.lineErr.put k left
  let s1 := { s with lp := { s.lp with lineErr := err } }
  let m := s.pendingMask die ch q
  match s.lineOff die ch q with
  | none => s1
  | some a => r.foldl (fun s x => if decide (x.1 < 60) && !bitN m x.1 then
      s.setByte (die * 2 ^ 40 + a + x.1) (s.byte (die * 2 ^ 40 + a + x.1) ^^^ BitVec.ofNat 8 x.2)
    else s) s1

/-- A line read with its stored error (R329, R330): zero syndromes leave the data as stored, one symbol is
corrected and counted, and written back unless a write to the line is pending; anything else stays and is
uncorrectable. -/
def State.readLine (s : State) (die ch q : Nat) : State × Bool :=
  let e := s.lp.lineErr.get [] (lineKey die ch q)
  match decodeLine e with
  | .good => (if e = [] then s else s.lineSettle die ch q e [], true)
  | .corrected i v =>
    let left := if s.pendingMask die ch q = 0 then [] else [(i, v)]
    ((s.lineSettle die ch q (xorPat e [(i, v)]) left).finc (RF.MEM_CH_STAT_CE die ch) 1, true)
  | _ => (s, false)

/-- Lines with a stored error that a range of LPDDR5X touches, in ascending key order: (channel, q). -/
def State.errLines (s : State) (die off len : Nat) : List (Nat × Nat) :=
  (s.lp.lineErr.filter fun e =>
    decide (e.1 / 2 ^ 27 / 16 = die) &&
      match s.lineOff die (e.1 / 2 ^ 27 % 16) (e.1 % 2 ^ 27) with
      | some a => meets off len a (a + 60)
      | none => false).map fun e => (e.1 / 2 ^ 27 % 16, e.1 % 2 ^ 27)

/-- Some line of a range lies on a failed channel. -/
def State.onFailed (s : State) (die off len : Nat) : Bool :=
  let cs := s.chans die
  decide (0 < len) && (List.range (min ((off + len - 1) / 60 - off / 60 + 1) cs.length)).any fun i =>
    s.chFailed die (cs.getD ((off / 60 + i) % cs.length) 0)

/-- Lines of a range that are served from an eviction in flight (R338). DESIGN CHOICE: an eviction is in flight
during the nanosecond of the model's clock in which it began, unless a transfer's flush has issued it (log entry 61). -/
def State.fwdLines (s : State) (die off len : Nat) : Nat :=
  (s.lp.evict.filter fun e => decide (e.2 = s.clk + 1 ∧ e.1 / 2 ^ 27 / 16 = die) &&
    match s.lineOff die (e.1 / 2 ^ 27 % 16) (e.1 % 2 ^ 27) with
    | some a => meets off len a (a + 60)
    | none => false).length

/-- A read of a range of LPDDR5X through its homes (R329 to R331, R338): the state after it, and 0 where every line
was good or corrected, 1 where one lies on a failed channel, 2 where one was uncorrectable. -/
def State.lineReads (s : State) (die off len : Nat) : State × Nat :=
  let a := (s.errLines die off len).foldl (fun (a : State × Bool) l =>
    match a.1.readLine die l.1 l.2 with
    | (s1, true) => (s1, a.2)
    | (s1, false) => (s1.lineUe die l.1 l.2 0, false)) (s.finc (RF.WCB_FWD_FWD die) (s.fwdLines die off len), true)
  (a.1, if !a.2 then 2 else if a.1.onFailed die off len then 1 else 0)

end Sys2Proof.Machine
end

