-- ==== Sys2Proof/Machine/WortOps.lean ====
section
/-! DEFINITION. Operations of the wort engine: rates and bounds, reservations, messages, sending a
slot (R26 to R28, R374 to R380). -/

namespace Sys2Proof.Machine

/-- Memory peek: `n` bytes of a die from a die-local offset. -/
def State.peek (s : State) (die off n : Nat) : Bytes :=
  (List.range n).map fun i => s.byte (die * 2 ^ 40 + off + i)

/-- Memory poke, without any check. -/
def State.poke (s : State) (die off : Nat) (bs : Bytes) : State :=
  (bs.foldl (fun (a : State × Nat) b => (a.1.setByte a.2 b, a.2 + 1)) (s, die * 2 ^ 40 + off)).1

/-- Partition record and session. -/
def State.part (s : State) (p : Nat) : PartSt := s.host.parts.get {} p

def State.setPart (s : State) (p : Nat) (x : PartSt) : State :=
  { s with host := { s.host with parts := s.host.parts.set {} p x } }

def State.sess (s : State) (p : Nat) : WSess := s.wort.sess.get {} p

def State.setSess (s : State) (p : Nat) (x : WSess) : State :=
  { s with wort := { s.wort with sess := s.wort.sess.set {} p x } }

/-- The engine's record of a die's slot changed by `f`. -/
def WSess.updSlot (x : WSess) (die slot : Nat) (f : WSlot → WSlot) : WSess :=
  { x with slots := x.slots.map fun v => if v.die = die ∧ v.slot = slot then f v else v }

/-- The engine's record of a die's slot dropped. -/
def WSess.dropSlot (x : WSess) (die slot : Nat) : WSess :=
  { x with slots := x.slots.filter fun v => !(decide (v.die = die) && decide (v.slot = slot)) }

/-! Declared figures. -/

/-- Values of a set-up's declarations of a type that count for a die (R368). -/
def Setup.decl (u : Setup) (dtype : Nat) (die : Nat) : List Nat :=
  (u.decls.filter fun d => decide (d.1 = dtype) && (decide (d.2.1 = die) ||
    (decide (d.2.1 = 0xFF) && bitN u.diemask die))).map fun d => d.2.2

/-- Values of a set-up's declarations of a type, whatever their DIE. -/
def Setup.declAny (u : Setup) (dtype : Nat) : List Nat :=
  (u.decls.filter fun d => decide (d.1 = dtype)).map fun d => d.2.2

/-- W of a set-up in MB/s (R368, R379). -/
def Setup.wrate (u : Setup) : Nat := ((u.declAny 4).map fun v => bitsN v 0 32).sum

/-- Σ W of a function's TRAIN set-ups, and of all. -/
def State.wOf (s : State) (fn : Nat) : Nat :=
  ((s.host.setups.filter fun u => decide (u.kind = 1 ∧ u.fn = fn)).map Setup.wrate).sum +
    (s.sess (fn - 1)).keepW

def State.wAll (s : State) : Nat :=
  ((s.host.setups.filter fun u => decide (u.kind = 1)).map Setup.wrate).sum +
    (s.wort.sess.map fun e => e.2.keepW).sum

/-- C of R380 in MB/s: 88.3 GB/s for a port at 800 Gb/s, half of it at 400 (R379; log entry 22). -/
def State.wortCap (s : State) : Nat :=
  ([0, 1].map fun i => match s.fget (RF.ETH_PORT_LINK i) with
    | 0 => 0 | 1 => 44150 | _ => 88300).sum

/-- W′ of a partition in MB/s (R380). -/
def State.weff (s : State) (p : Nat) : Nat :=
  let w := s.wOf (p + 1)
  let all := s.wAll
  let c := s.wortCap
  let w1 := if all ≤ c then w else w * c / all
  match (s.sess p).slow with
  | some r => min r w1
  | none => w1

/-- Data rate in MT/s of a MEM_CFG.RATE code (R348). -/
def rateMT (r : Nat) : Nat := [6400, 7500, 8533, 9600, 10667].getD r 10667

/-- Data rate in MT/s of the LPDDR5X: the rate of the training in use, or before any training the one that
MEM_CFG.RATE selects (R327). -/
def State.memRate (s : State) : Nat :=
  if s.lp.trainedRate = 0 then rateMT (s.fget (RF.MEM_CFG_RATE 0)) else s.lp.trainedRate

/-- Nanoseconds to zero one die's usable LPDDR5X at 91% of peak (R27, R340). -/
def State.zeroNs (s : State) (die : Nat) : Nat :=
  let n := s.fget (RF.MEM_CAP_NCH die)
  if n = 0 then 0
  else s.fget (RF.MEM_CAP_USABLE die) * 100000 / (91 * n * 2 * s.memRate)

/-- t_release in nanoseconds over a set of dies (R27). -/
def State.tRelease (s : State) (dies : List Nat) : Nat :=
  100000000 + (dies.map s.zeroNs).foldl max 0

/-- Group (JOB, GID) loaded at this hive (R258). -/
def State.group (s : State) (job gid : Nat) : Option Group :=
  s.swm.groups.find? fun g => decide (g.job = job ∧ g.gid = gid)

/-- Cap timeout in µs of a function's TRAIN set-ups: the largest CAPTO of the groups they declare. -/
def State.capToOf (s : State) (fn : Nat) : Nat :=
  ((s.host.setups.filter fun u => decide (u.kind = 1 ∧ u.fn = fn)).flatMap fun u =>
    (u.declAny 5).map fun v => match s.group u.job (bitsN v 0 10) with
      | some g => g.capto | none => 0).foldl max 0

/-- B′ in bytes: the time left of the reclaim deadline, in ns, times W′ (R27, R380). -/
def State.bPrime (s : State) (p : Nat) : Nat :=
  let t := s.fget (RF.HIVE_PART_RDL p) * 1000000
  (t - (s.capToOf (p + 1) * 1000 + s.tRelease (s.diesOf (p + 1)))) * s.weff p / 1000

/-- Backlog of a partition: 64 B times the granules of its SENDING slots not yet acknowledged, those of a
committed slot whose sending has not begun included (R28, R380). -/
def WSess.backlog (x : WSess) : Nat :=
  64 * ((x.msgs.map fun m => m.2.1).sum +
    ((x.slots.filter fun w => w.sending && decide (w.endSeq = 0)).map fun w => w.ngran).sum)

/-- Bytes reserved and not yet committed. -/
def WSess.reservedBytes (x : WSess) : Nat :=
  64 * (((x.slots.filter fun w => w.reserved && !w.sending).map fun w => w.ngran).sum)

/-- WORT_PART and WORT_PART2 brought up to date (R383). -/
def State.wortRegs (s : State) (p : Nat) : State :=
  ((s.fset (RF.WORT_PART_BACKLOG p) (s.sess p).backlog).fset (RF.WORT_PART2_WEFF p)
    (s.weff p)).fset (RF.WORT_PART2_BPRIME p) (s.bPrime p / 1000000)

/-- The reservation of R380: 64 × NGRAN fits within B′ beside the backlog and earlier reservations; with no
wort rate left nothing fits (R28). -/
def State.fits (s : State) (p ngran : Nat) : Bool :=
  decide (s.weff p ≠ 0) &&
    decide ((s.sess p).backlog + (s.sess p).reservedBytes + 64 * ngran ≤ s.bPrime p)

/-- A die of a partition with an accepted TRAIN set-up while no wort rate remains: no step of it commits (R28). -/
def State.noRate (s : State) (die : Nat) : Bool :=
  let fn := s.owner die
  decide (fn ≠ 0) && (s.host.setups.any fun u => decide (u.kind = 1 ∧ u.fn = fn)) &&
    decide (s.weff (fn - 1) = 0)

/-- A WORT_HOLD record, at most once per 1 s per partition (R380, R432). -/
def State.holdRec (s : State) (p : Nat) : State :=
  s.paced (0x8805 * 64 + p) 1000000000 fun s => s.hiveRec 0x8805 p 1
    (pay [(1, p), (3, 0), (4, (s.sess p).backlog / 1000000), (4, s.weff p)])

/-! Messages (R375 to R377). -/

/-- A wort message: header, body, CRC-32C trailer, all in network byte order. -/
def wortMsg (mtype session mseq md p time : Nat) (body : Bytes) : Bytes :=
  let h := beBytes 2 0x5754 ++ [1, BitVec.ofNat 8 mtype] ++ beBytes 4 session ++ beBytes 8 mseq
    ++ beBytes 4 body.length ++ beBytes 2 (md % 4096) ++ [BitVec.ofNat 8 p, 0] ++ beBytes 8 time
  h ++ body ++ beBytes 4 (crc32c (h ++ body))

/-- The Ethernet port a message takes (R377): MSEQ mod 2, or the one that is up; none while both are down. -/
def State.wortPort (s : State) (mseq : Nat) : Option Nat :=
  if s.fget (RF.ETH_PORT_LINK 0) ≠ 0 then
    if s.fget (RF.ETH_PORT_LINK 1) ≠ 0 then some (mseq % 2) else some 0
  else if s.fget (RF.ETH_PORT_LINK 1) ≠ 0 then some 1 else none

/-- IPv6 address of an Ethernet port; 0 where none is set. -/
def State.ethAddr (s : State) (i : Nat) : Nat :=
  2 ^ 64 * s.fget (RF.ETH_IPH_ADDR i) + s.fget (RF.ETH_IPL_ADDR i)

/-- What a packet of an Ethernet port is sent with: the gateway's MAC, the port's tag and address (R373, R383). -/
def State.ethDgram (s : State) (i : Nat) (dst : Bytes) : Dgram :=
  { mac := s.fget (RF.ETH_GW_MAC i)
    vlan := if s.fget (RF.ETH_PORT_VLAN_EN i) = 1 then
      some (s.fget (RF.ETH_PORT_PCP i), s.fget (RF.ETH_PORT_VID i)) else none
    src := beBytes 16 (s.ethAddr i), dst := dst }

/-- A wort message goes to the SADDR and SPORT of its partition (R375). -/
def State.wortDgram (s : State) (p i : Nat) : Dgram :=
  { s.ethDgram i (s.part p).saddr with
    sport := some (s.fget RF.WORT_CFG_SRCPORT), dport := some (s.part p).sport }

/-- One message of a partition's session goes out. -/
def State.wortEmit (s : State) (p mseq : Nat) (msg : Bytes) : State :=
  match s.wortPort mseq with
  | some i => s.emit (.eth i 1 (s.wortDgram p i) msg)
  | none => s

/-- A numbered message of a session: sent, and kept until acknowledged. -/
def State.wortSend (s : State) (p mtype granules : Nat) (body : Bytes) : State :=
  let x := s.sess p
  let msg := wortMsg mtype (s.part p).session x.nextSeq s.module p s.now body
  (s.setSess p { x with nextSeq := x.nextSeq + 1, msgs := x.msgs ++ [(x.nextSeq, granules, msg)] }).wortEmit
    p x.nextSeq msg

/-- Modules of the cap group a partition's TRAIN set-ups declare (NMOD of HELLO). -/
def State.nmodOf (s : State) (fn : Nat) : Nat :=
  ((s.host.setups.filter fun u => decide (u.kind = 1 ∧ u.fn = fn)).flatMap fun u =>
    (u.declAny 5).map fun v => match s.group u.job (bitsN v 0 10) with
      | some g => g.nmem | none => 0).foldl max 0

/-- HELLO opens the session (R377). -/
def State.wortHello (s : State) (p : Nat) : State :=
  let x := s.sess p
  let s1 := s.setSess p { x with isOpen := true, acked := false }
  s1.wortSend p 1 0 ([BitVec.ofNat 8 (s.jobOf (p + 1)), 0] ++ beBytes 2 (s.nmodOf (p + 1))
    ++ beBytes 4 x.baseStep)

/-- Granule `g` of a slot is present: its bit is set and its diff bytes are not all zero (R376). -/
def State.granPresent (s : State) (die base size64 g : Nat) : Bool :=
  (s.byte (die * 2 ^ 40 + base + size64 * 64 + g / 8)).getLsbD (g % 8) &&
    (s.peek die (base + 64 * g) 64).any fun b => b != 0

/-- Mask of a 4 KiB state block: bit g for granule g of it. -/
def State.blockMask (s : State) (die base size64 blk : Nat) : Nat :=
  ((List.range 64).filter fun g => decide (blk * 64 + g < size64) &&
    s.granPresent die base size64 (blk * 64 + g)).foldl (fun m g => m + 2 ^ g) 0

/-- Bytes of the present granules of a block. -/
def State.blockBytes (s : State) (die base blk mask : Nat) : Bytes :=
  ((List.range 64).filter fun g => bitN mask g).flatMap fun g =>
    s.peek die (base + 4096 * blk + 64 * g) 64

/-- Masks of the blocks that hold a present granule, in ascending order. -/
def State.slotBlocks (s : State) (w : WSlot) : List (Nat × Nat) :=
  ((List.range ((w.size64 + 63) / 64)).map fun b => (b, s.blockMask w.die w.base w.size64 b)).filter
    fun x => x.2 != 0

/-- Pairs consecutive blocks into records of one or two blocks (R376). -/
def pairBlocks : List (Nat × Nat) → List (List (Nat × Nat))
  | [] => []
  | [x] => [[x]]
  | x :: y :: t => if y.1 = x.1 + 1 then [x, y] :: pairBlocks t else [x] :: pairBlocks (y :: t)

def popcount64 (m : Nat) : Nat := ((List.range 64).filter fun i => bitN m i).length

/-- A DATA record of one or two blocks (R376). -/
def State.dataBody (s : State) (w : WSlot) (bs : List (Nat × Nat)) : Bytes :=
  [BitVec.ofNat 8 w.die, BitVec.ofNat 8 w.att, BitVec.ofNat 8 bs.length, 0] ++ beBytes 4 w.step
    ++ beBytes 4 ((bs.headD (0, 0)).1) ++ [0, 0, 0, 0] ++ bs.flatMap (fun b => beBytes 8 b.2)
    ++ bs.flatMap fun b => s.blockBytes w.die w.base b.1 b.2

/-- The die's port is UP: cells pass between the die and the hive (R15, R222). -/
def State.diePortUp (s : State) (die : Nat) : Bool :=
  decide (s.fget (RF.FAB_PORT_STATE (32 + die)) = 3) && !s.dieAbsorbs die

/-- A committed slot is sent: its blocks, then STEP_END (R376, R377). -/
def State.sendSlot (s : State) (p : Nat) (w : WSlot) : State :=
  let recs := pairBlocks (s.slotBlocks w)
  let s1 := recs.foldl (fun s r => s.wortSend p 3 ((r.map fun b => popcount64 b.2).sum)
    (s.dataBody w r)) s
  let total := (recs.map fun r => (r.map fun b => popcount64 b.2).sum).sum
  let endSeq := (s1.sess p).nextSeq
  let s2 := s1.wortSend p 4 0 (beBytes 4 w.step ++ [BitVec.ofNat 8 w.att, 0, 0, 0]
    ++ beBytes 4 recs.length ++ beBytes 4 total)
  (s2.setSess p ((s2.sess p).updSlot w.die w.slot fun v =>
    { v with sending := true, endSeq := endSeq })).wortRegs p

/-- The engine's record of a die's slot. -/
def WSess.slotOf (x : WSess) (die slot : Nat) : Option WSlot :=
  x.slots.find? fun w => decide (w.die = die ∧ w.slot = slot)

/-- Set granules in a slot's bitmap. -/
def State.ngran (s : State) (die base size64 : Nat) : Nat :=
  ((List.range size64).filter fun g =>
    (s.byte (die * 2 ^ 40 + base + size64 * 64 + g / 8)).getLsbD (g % 8)).length

/-- STRIDE of a die's slots (R192). -/
def slotStride (size64 : Nat) : Nat := size64 * 64 + (size64 + 511) / 512 * 64

/-- Die-local base of slot `k`. -/
def State.slotAddr (s : State) (die k : Nat) : Nat :=
  s.fget (RF.UPD_SLOT_BASE_BASE die) + k * slotStride (s.fget (RF.UPD_SLOT_CFG_SIZE64 die))

/-- A die's slot could not be read whole: the die's open cap will be voted failed (R331). -/
def State.wortFail (s : State) (die : Nat) : State :=
  if s.fget (RF.CAP_DIE_STAT_STATE die) = 1 then
    let c := s.cap.dies.get {} die
    { s with cap := { s.cap with dies := s.cap.dies.set {} die { c with failed := true } } }
  else s

/-- The engine sends the committed slots of a session in commit order (R374, R377): each once its READY is with the
engine. It reads a slot by cells over the die's port (R15), through the channel homes (R329): while the port passes
no cells, or a line of the slot is uncorrectable, the slot and those after it wait, SENDING with no STEP_END
(log entry 41). -/
def State.wortPump : Nat → State → Nat → State
  | 0, s, _ => s
  | n + 1, s, p =>
    match (s.sess p).slots.find? fun w => w.sending && decide (w.endSeq = 0) with
    | none => s
    | some w =>
      if w.ready && s.diePortUp w.die then
        match s.lineReads w.die w.base (slotStride w.size64) with
        | (s1, 0) => State.wortPump n (s1.sendSlot p w) p
        | (s1, _) => s1.wortFail w.die
      else s

def State.wortRun (s : State) (p : Nat) : State := (State.wortPump (s.sess p).slots.length s p).wortRegs p

/-- A slot is committed: it is SENDING, behind those committed before it (R196, R377). -/
def WSess.commit (x : WSess) (die slot : Nat) : WSess :=
  match x.slots.find? fun w => decide (w.die = die ∧ w.slot = slot) with
  | some w => { x.dropSlot die slot with slots := (x.dropSlot die slot).slots ++ [{ w with sending := true }] }
  | none => x

/-- A slot's bitmap cleared. -/
def State.clearBitmap (s : State) (die k : Nat) : State :=
  let size64 := s.fget (RF.UPD_SLOT_CFG_SIZE64 die)
  let lo := die * 2 ^ 40 + s.slotAddr die k + size64 * 64
  { s with mem := s.mem.filter fun e => !(decide (lo ≤ e.1) && decide (e.1 < lo + (size64 + 7) / 8)) }

/-- With no TRAIN set-up left on the die and every slot FREE, the die has no slots: UPD_SLOT_BASE and UPD_SLOT_CFG are
as without a set-up (R206). -/
def State.slotSettle (s : State) (die : Nat) : State :=
  if decide (s.reg (Reg.UPD_SLOT_STATE die) = 0) &&
      !(s.host.setups.any fun u => decide (u.kind = 1) && bitN u.diemask die) then
    (s.setReg (Reg.UPD_SLOT_BASE die) 0).setReg (Reg.UPD_SLOT_CFG die) 0
  else s

/-- A slot returns to FREE with its bitmap clear (R195). -/
def State.freeSlot (s : State) (die k : Nat) : State :=
  let s1 := (s.clearBitmap die k).fset (RF.UPD_SLOT_STATE_STATE die k) 0
  ({ s1 with upd := { s1.upd with slots := s1.upd.slots.set {} (die * 8 + k) {} } } : State).slotSettle die

/-- Payload of a WORT cell. -/
def wortPay (kind : Nat) (w : WSlot) : Bytes :=
  pay [(1, kind), (1, w.slot), (1, w.att), (1, 0), (4, w.step), (4, w.ngran), (5, w.base), (3, 0), (4, w.size64)]

/-- RELEASE of a slot whose STEP_END is acknowledged. -/
def State.sendRelease (s : State) (p : Nat) (w : WSlot) : State :=
  s.sendCell s.module w.die 8 0x0B (s.jobOf (p + 1)) false true 32 0 0 (wortPay 2 w)

/-- Slots whose STEP_END is acknowledged are released and leave the engine; a die in reset gets its RELEASE
when it leaves it (R248, R377, R409). -/
def State.wortRelease (s : State) (p : Nat) : State :=
  let x := s.sess p
  let done := x.slots.filter fun w => w.sending && w.ready && decide (w.endSeq ≠ 0 ∧ w.endSeq ≤ x.ackSeq) &&
    !s.dieAbsorbs w.die
  let left := x.slots.filter fun w => !done.contains w
  let keep := if left.any (fun w => w.sending) then x.keepW else 0
  done.foldl (fun (s : State) w => s.sendRelease p w) (s.setSess p { x with slots := left, keepW := keep })

end Sys2Proof.Machine
end

