-- ==== Sys2Proof/Machine/CapOps.lean ====
section
/-! DEFINITION. Operations of capping: votes and vectors, the coordinator, the decision carried out on
the dies and on the route banks (R196, R239, R241, R274 to R284). -/

namespace Sys2Proof.Machine

/-! Vectors and CAPV cells (R275). -/

/-- Bytes of a vector: two bits per member. -/
def packVec (codes : List Nat) : Bytes :=
  (List.range ((codes.length + 3) / 4)).map fun k => BitVec.ofNat 8
    (codes.getD (4 * k) 0 + 4 * codes.getD (4 * k + 1) 0 + 16 * codes.getD (4 * k + 2) 0
      + 64 * codes.getD (4 * k + 3) 0)

/-- Codes of `n` members from a vector's bytes. -/
def unpackVec (n : Nat) (bs : Bytes) : List Nat :=
  (List.range n).map fun i => bitsN (byteAt bs (i / 4)).toNat (2 * (i % 4)) 2

/-- Merge by OR, slot by slot. -/
def orVec (a b : List Nat) : List Nat :=
  (List.range (max a.length b.length)).map fun i => Nat.lor (a.getD i 0) (b.getD i 0)

/-- Payload of a CAPV cell. -/
def capvPay (k : CapKey) (ck : Nat) (rta : Bool) (ofs : Nat) (data : Bytes) : Bytes :=
  leBytes 4 k.step ++ [BitVec.ofNat 8 k.att, BitVec.ofNat 8 ck]
    ++ leBytes 2 (k.gid % 1024 + 2 ^ 15 * b2n rta) ++ leBytes 2 ofs ++ toLen 38 data

/-- The cells of a vector to a module's hive. -/
def State.sendVec (s : State) (k : CapKey) (ck : Nat) (rta : Bool) (codes : List Nat) (md : Nat) : State :=
  let bs := packVec codes
  (List.range ((bs.length + 37) / 38)).foldl (fun s i =>
    s.sendCell md 8 8 9 k.job false true 48 0 0 (capvPay k ck rta (38 * i) (bs.drop (38 * i)))) s

/-- One CAPV cell without vector bytes: an ask, an acknowledgement, an abort request. An abort request carries
STREAM 5, which the NACK of one that names an older attempt quotes (DESIGN CHOICE, log entry 73). -/
def State.sendCapv (s : State) (k : CapKey) (ck : Nat) (rta : Bool) (md : Nat) : State :=
  s.sendCell md 8 8 9 k.job false true 48 (if ck = 5 then 5 else 0) 0 (capvPay k ck rta 0 [])

/-- Modules next to this one on a group's latency tree of the coordinator (R275, R277). -/
def State.capHops (s : State) (g : Group) (up : Bool) : List Nat :=
  (s.planHops g g.cMod 0xFF up).map fun h => h.2

/-- Status of a decision, from the vector alone (R276): OK on commit. -/
def decision (codes : List Nat) (rta : Bool) : Nat :=
  if rta then stABORTED
  else if codes.all (fun c => decide (c = 1)) then stOK
  else if codes.any (fun c => decide (c = 3 ∨ c = 0)) then stCAPFAILED
  else stSOUR

/-! Groups. -/

def memTgt (w : Nat) : Nat := bitsN w 12 4

/-- Index of a member word in a group. -/
def Group.index (g : Group) (w : Nat) : Option Nat := g.members.findIdx? fun m => m == w

/-- A module is fenced at this hive (R438). -/
def State.modFenced (s : State) (m : Nat) : Bool :=
  s.saf.fence.any fun e => decide (e.md = m) && decide (e.die = none)

/-! Records. -/

def State.dieCap (s : State) (die : Nat) : DieCap := s.cap.dies.get {} die

def State.setDieCap (s : State) (die : Nat) (c : DieCap) : State :=
  { s with cap := { s.cap with dies := s.cap.dies.set {} die c } }

/-- State of a die's cap (R278): 0 NONE … 6 ABORTING. -/
def State.capState (s : State) (die : Nat) : Nat := s.fget (RF.CAP_DIE_STAT_STATE die)
def State.setCapState (s : State) (die v : Nat) : State := s.fset (RF.CAP_DIE_STAT_STATE die) v
def State.capVote (s : State) (die : Nat) : Nat := s.fget (RF.CAP_DIE_STAT_VOTE die)

/-- The cap open on a die, for commands that bind to it when issued (R196, R273). -/
def State.openCap (s : State) (die : Nat) : Option CapKey :=
  if s.capState die = 0 then none else some (s.dieCap die).key

def State.hiveCap (s : State) (k : CapKey) : HiveCap :=
  (s.cap.hives.find? fun h => decide (h.key = k)).getD { key := k }

def State.setHiveCap (s : State) (h : HiveCap) : State :=
  { s with cap := { s.cap with hives :=
      (s.cap.hives.filter fun x => !decide (x.key = h.key)) ++ [h] } }

def State.coordCap (s : State) (k : CapKey) : Option CoordCap :=
  s.cap.coord.find? fun h => decide (h.key = k)

def State.setCoord (s : State) (h : CoordCap) : State :=
  { s with cap := { s.cap with coord :=
      (s.cap.coord.filter fun x => !decide (x.key = h.key)) ++ [h] } }

def State.witCap (s : State) (k : CapKey) : Option WitCap :=
  s.cap.wit.find? fun h => decide (h.key = k)

def State.setWit (s : State) (h : WitCap) : State :=
  { s with cap := { s.cap with wit :=
      (s.cap.wit.filter fun x => !decide (x.key = h.key)) ++ [h] } }

/-- Payload of the swarm and cap records (R288). -/
def capPay (k : CapKey) (x : Nat) : Bytes :=
  pay [(2, k.gid), (1, k.job), (1, k.att), (4, k.step), (4, x)]

/-! Route banks (R237, R239 to R241). -/

/-- State field of a bank in RT_GEN. -/
def bankF (b : Nat) : FRef := if b = 0 then RF.RT_GEN_BANK0 else RF.RT_GEN_BANK1

/-- State of a bank. -/
def State.bank (s : State) (b : Nat) : Nat := s.fget (bankF b)

/-- A bank routes cells: ACTIVE or DRAINING. -/
def State.bankLive (s : State) (b : Nat) : Bool := decide (s.bank b = 4 ∨ s.bank b = 5)

/-- Fields of a route entry. -/
def rtPPORT (e : Nat) : Nat := bitsN e 0 6
def rtAPORT (e : Nat) : Nat := bitsN e 6 6
def rtPHASE (e : Nat) : Nat := bitsN e 12 2
def rtVALID (e : Nat) : Bool := bitN e 15
def rtGEN (e : Nat) : Nat := bitsN e 16 4
def rtALT (e : Nat) : Bool := bitN e 20

/-- Some entry is steered away from a port. -/
def State.steered (s : State) (p : Nat) : Bool :=
  s.fab.rt.any fun e => s.bankLive (e.1 / 4096) && rtALT e.2 && decide (rtPPORT e.2 = p)

def State.altBit (s : State) (p : Nat) : State := s.fset (RF.FAB_PORT_ALT p) (b2n (s.steered p))

/-- FAB_PORT_p.ALT of every external port follows the live banks (R252). -/
def State.altBits (s : State) : State := (List.range 32).foldl (fun (s : State) p => s.altBit p) s

/-- Payload of the fabric records (R252). -/
def fabPay (port st reason drops gen : Nat) : Bytes :=
  pay [(1, port), (1, st), (2, reason), (4, drops), (4, gen)]

/-- A READY bank becomes ACTIVE, the former ACTIVE bank DRAINING, and CUR_GEN the new generation. -/
def State.activateBank (s : State) (b : Nat) : State :=
  let g := s.fab.bankGen.get 0 b
  let o := 1 - b
  let s1 := if s.fget (bankF o) = 4 then
      let t := s.fset (bankF o) 5
      { t with fab := { t.fab with drainEnd := s.clk + s.drainTime } }
    else s
  (((s1.fset (bankF b) 4).fset RF.RT_GEN_CUR_GEN g).hiveRec 0x8406 0 0 (fabPay 0 4 0 0 g)).altBits

/-- A bank returns to FREE; its entries go. -/
def State.freeBank (s : State) (b : Nat) : State :=
  let s1 := s.fset (bankF b) 0
  ({ s1 with fab := { s1.fab with rt := s1.fab.rt.drop fun k => decide (k / 4096 = b) } } : State).altBits

/-! The decision at a die (R196, R278). -/

/-- Counters of bound commands with DCEN = 1 move (R196). -/
def State.dcntAll (s : State) (die : Nat) : State :=
  (s.dieCap die).dcnts.foldl (fun s n => s.cntAdd die n 1) s

/-- CAP_VOTE completes with the cap's status and its counter moves; the die has no cap any more. -/
def State.endCap (s : State) (die status : Nat) : State :=
  let c := s.dieCap die
  let s1 := match c.vote with
    | some (_, core, seq, cnt) => (s.completeRaw core seq status 0 0).cntAdd die cnt 1
    | none => s
  (s1.setDieCap die {}).setCapState die 0

/-- UPD_STAT's QCNT and BUSY follow the update queue (R206). -/
def State.updStat (s : State) (die : Nat) : State :=
  let q := s.upd.queue.get [] die
  (s.fset (RF.UPD_STAT_QCNT die) (q.filter fun j => !j.started).length).fset (RF.UPD_STAT_BUSY die)
    (b2n (q.any fun j => j.started))

/-- Queued and running update commands and swarm ops of a die's cap complete ABORTED (R196). -/
def State.abortBound (s : State) (die : Nat) : State :=
  let c := s.dieCap die
  let q := s.upd.queue.get [] die
  let gone := q.filter fun j => decide (j.cap = some c.key)
  let rest := q.filter fun j => !decide (j.cap = some c.key)
  let s1 := { s with upd := { s.upd with queue := s.upd.queue.set [] die rest } }
  let keep := fun (m : SwmMember) => !(decide (m.die = die) && decide (m.job.cap = some c.key))
  let ops := s1.swm.ops.map fun (o : SwmOp) => { o with members := o.members.filter keep }
  let s2 := { s1 with swm := { s1.swm with ops := ops } }
  let s3 := c.bound.foldl (fun s b => s.completeRaw b.1 b.2 stABORTED 0 0) s2
  let s4 := gone.foldl (fun s j => s.completeRaw j.core j.seq stABORTED 0 0) s3
  (s4.setDieCap die { c with bound := [] }).updStat die

/-- Commit at a die: the OPEN slot becomes SENDING and, once its READY is with the engine, is sent;
DCNT moves; CAP_VOTE completes OK (R196). -/
def State.dieCommit (s : State) (die : Nat) : State :=
  let c := s.dieCap die
  let p := s.owner die - 1
  let s1 := match c.slot with
    | some k =>
      let t := s.fset (RF.UPD_SLOT_STATE_STATE die k) 2
      (t.setSess p ((t.sess p).commit die k)).wortRun p
    | none => s
  (s1.dcntAll die).endCap die stOK

/-- Abort at a die: bound commands stop; the slot rolls back, or with no slot the abort is carried out. -/
def State.dieAbort (s : State) (die status : Nat) : State :=
  let s1 := s.abortBound die
  let c := s1.dieCap die
  let p := s.owner die - 1
  match c.slot with
  | some k =>
    let s2 := s1.fset (RF.UPD_SLOT_STATE_STATE die k) 3
    let s3 := s2.setSess p ((s2.sess p).dropSlot die k)
    ((s3.setDieCap die { c with decided := some status }).setCapState die 6).dieRec die 0x8303 0 0
      (pay [(4, c.key.step), (1, k)])
  | none => (s1.dcntAll die).endCap die status

/-- A die learns the decision (R278); from INDOUBT a CAP_LATE_DECIDE record is written. -/
def State.dieDecide (s : State) (die status : Nat) : State :=
  let s1 := if s.capState die = 4 then
      s.dieRec die 0x8505 0 1 (capPay (s.dieCap die).key status) else s
  if status = stOK then s1.dieCommit die else s1.dieAbort die status

/-! The decision at a hive. -/

/-- The switch cap's decision (R239, R241). -/
def State.switchDecide (s : State) (status : Nat) : State :=
  let b := if s.fget (bankF 0) = 3 then 0 else 1
  let s1 := if s.fget (bankF b) = 3 then
      (if status = stOK then s.activateBank b else s.freeBank b) else s
  let s2 := (s1.fset RF.RT_SW_CTL_RESULT (if status = stOK then 2 else 3)).fset RF.RT_SW_CTL_STATUS status
  ({ s2 with fab := { s2.fab with sw := none } }).isum 8

/-- A hive learns a cap's vector: it keeps it, and its dies, or for JOB 0 the hive itself, carry the
decision out (R278, R241). -/
def State.hiveDecide (s : State) (k : CapKey) (codes : List Nat) (rta : Bool) : State :=
  let h := s.hiveCap k
  if h.vec ≠ none then s
  else
    let st := decision codes rta
    let s1 := s.setHiveCap { h with vec := some codes, rta := rta }
    let s2 := s1.finc (if st = stOK then RF.CAP_CNT_COMMITS else RF.CAP_CNT_ABORTS) 1
    let s3 := (s2.cap.aborts.filter fun a => decide (a.1 = k)).foldl
      (fun s a => s.completeRaw a.2.1 a.2.2 (if rta then stOK else stTOOLATE) 0 0) s2
    let left := s3.cap.aborts.filter fun a => !decide (a.1 = k)
    let s4 : State := { s3 with cap := { s3.cap with aborts := left } }
    if k.job = 0 then
      if s4.fab.sw = some (k.gid, k.step, k.att) then s4.switchDecide st else s4
    else
      (List.range 8).foldl (fun s d =>
        if s.capState d ≠ 0 ∧ s.capState d ≤ 4 ∧ (s.dieCap d).key = k then s.dieDecide d st else s) s4

/-! The coordinator (R277). -/

/-- The coordinator sends the vector down the latency tree and learns it itself. SEND lasts until every member hive
has received it; with members on other modules that is by the time the record is freed (R277; log entry 74). -/
def State.coordSend (s : State) (g : Group) (c : CoordCap) : State :=
  let s1 := s.setCoord { c with st := if s.allHere g then 4 else 3 }
  let s2 := (s.capHops g false).foldl (fun s m => s.sendVec c.key 1 c.rta c.vec m) s1
  s2.hiveDecide c.key c.vec c.rta

/-- What COLLECT does with the slots known so far: abort on the first slot not ready, witness or send
when every slot is ready (R277). -/
def State.coordEval (s : State) (g : Group) (c : CoordCap) : State :=
  if c.st ≠ 1 then s
  else if c.vec.any (fun x => decide (x = 2 ∨ x = 3)) then s.coordSend g c
  else if c.vec.all (fun x => decide (x = 1)) then
    if g.witv ∧ !s.modFenced g.wMod then
      (s.setCoord { c with st := 2 }).sendVec c.key 2 false c.vec g.wMod
    else s.coordSend g c
  else s

/-- The newest attempt of a step that the coordinator has a record of. -/
def State.newestAtt (s : State) (k : CapKey) : Nat :=
  ((s.cap.coord.filter fun x => decide (x.key.job = k.job ∧ x.key.gid = k.gid ∧
    x.key.step = k.step)).map fun x => x.key.att).foldl max 0

/-- A vote, ask or abort request that comes for a decided cap is counted, and answered with the vector that this
hive keeps, whether or not the coordinator's record is still there (R277). -/
def State.coordLate (s : State) (k : CapKey) (from_ : Nat) : State :=
  let s1 := s.finc RF.CAP_LATE_LATE 1
  match (s1.hiveCap k).vec with
  | some v => if from_ ≠ s.module then s1.sendVec k 1 (s1.hiveCap k).rta v from_ else s1
  | none => s1

/-- A request for an older attempt is counted and answered TOO_LATE, quoting the cell's STREAM (R277). -/
def State.coordOld (s : State) (k : CapKey) (from_ stream : Nat) : State :=
  let s1 := s.finc RF.CAP_LATE_LATE 1
  if from_ ≠ s.module then s1.sendNack from_ 8 8 k.job stTOOLATE 0 stream else s1

/-- Votes reach the coordinator: merged while it collects; it never builds a second vector for a cap (R277). -/
def State.coordMerge (s : State) (g : Group) (k : CapKey) (codes : List Nat) (from_ : Nat) : State :=
  if (s.hiveCap k).vec.isSome then s.coordLate k from_
  else match s.coordCap k with
  | none =>
    if k.att < s.newestAtt k then s.coordOld k from_ 0
    else
      let c : CoordCap := { key := k, vec := orVec (List.replicate g.nmem 0) codes }
      (s.setCoord c).coordEval g c
  | some c =>
    if c.st = 1 then
      let c1 := { c with vec := orVec c.vec codes }
      (s.setCoord c1).coordEval g c1
    else s.finc RF.CAP_LATE_LATE 1

/-- Votes of the subtree are merged by OR, and what has changed rises toward the coordinator (R275). -/
def State.voteUp (s : State) (g : Group) (k : CapKey) (codes : List Nat) : State :=
  let h := s.hiveCap k
  let old := packVec (orVec (List.replicate g.nmem 0) h.merged)
  let now := orVec (orVec (List.replicate g.nmem 0) h.merged) codes
  let bs := packVec now
  let s1 := s.setHiveCap { h with merged := now }
  (List.range ((bs.length + 37) / 38)).foldl (fun (s : State) i =>
    if (bs.drop (38 * i)).take 38 = (old.drop (38 * i)).take 38 then s
    else (s.capHops g true).foldl (fun (s : State) m =>
      s.sendCell m 8 8 9 k.job false true 48 0 0 (capvPay k 0 false (38 * i) (bs.drop (38 * i)))) s) s1

/-! Votes (R274). -/

/-- The vote of this hive member, from the votes of the job's dies on the module: failed at once, else
sour or ready once all have voted, a ready vote only when no die's slot waits for its reservation. -/
def State.memberVote (s : State) (k : CapKey) : Nat :=
  let ds := (List.range 8).filter fun d => decide (s.dieJob d = k.job)
  let vote := fun d => if s.dieAbsorbs d then 3
    else if s.capState d ≠ 0 ∧ (s.dieCap d).key = k then s.capVote d else 0
  if ds.any (fun d => decide (vote d = 3)) then 3
  else if ds = [] ∨ ds.any (fun d => decide (vote d = 0)) then 0
  else if ds.any (fun d => decide (vote d = 2)) then 2
  else if ds.any (fun d => (s.dieCap d).held) then 0
  else 1

/-- The hive sends its vote when it is determined, once (R274, R275). -/
def State.hiveVote (s : State) (k : CapKey) (v : Nat) : State :=
  let h := s.hiveCap k
  if v = 0 ∨ h.vote ≠ 0 ∨ h.vec ≠ none then s
  else
    let s1 := s.setHiveCap { h with vote := v }
    match s.group k.job k.gid with
    | none => s1
    | some g =>
      match g.index (s.module + 2 ^ 12 * 8) with
      | none => s1
      | some i =>
        let codes := (List.range g.nmem).map fun j => if j = i then v else 0
        if g.cMod = s.module then s1.coordMerge g k codes s.module
        else s1.voteUp g k codes

/-- The hive's vote is determined anew; the vote of a die whose hive already holds the cap's vector is
answered with it (R277, R278). -/
def State.hiveReview (s : State) (k : CapKey) : State :=
  let s1 := s.hiveVote k (s.memberVote k)
  match (s1.hiveCap k).vec with
  | some v =>
    (List.range 8).foldl (fun (s : State) d =>
      if (s.capState d = 2 ∨ s.capState d = 3) ∧ (s.dieCap d).key = k then
        s.dieDecide d (decision v (s.hiveCap k).rta) else s) s1
  | none => s1

/-- A die votes failed in its open cap, at once; a vote already sent stands (R274). -/
def State.voteFailed (s : State) (die : Nat) : State :=
  if s.capState die = 1 then
    let s1 := (s.fset (RF.CAP_DIE_STAT_VOTE die) 3).setCapState die 2
    let c := s1.dieCap die
    (s1.setDieCap die { c with failed := true }).hiveReview c.key
  else s

/-- The READY cell of a die's slot (R374), and the engine's reservation (R380). -/
def State.dieReady (s : State) (die k : Nat) : State :=
  let c := s.dieCap die
  let p := s.owner die - 1
  let size64 := s.fget (RF.UPD_SLOT_CFG_SIZE64 die)
  let base := s.slotAddr die k
  let n := s.ngran die base size64
  let fit := s.fits p n
  let w : WSlot := { die := die, slot := k, att := c.key.att, step := c.key.step, ngran := n,
                     base := base, size64 := size64, reserved := fit }
  let x := (s.sess p).dropSlot die k
  let s1 := s.setSess p { x with slots := x.slots ++ [w] }
  let s2 := s1.sendCell s.module 8 die 0x0B c.key.job false true 32 0 0
    ([1, BitVec.ofNat 8 k, BitVec.ofNat 8 c.key.att, 0] ++ leBytes 4 c.key.step ++ leBytes 4 n
      ++ leBytes 5 base ++ [0, 0, 0] ++ leBytes 4 size64)
  let s3 := s2.setDieCap die { c with held := !fit }
  if fit then s3 else s3.holdRec p

/-- The update unit reads a slot's bitmap through its homes, to count its granules (R329, R374). -/
def State.bitmapRead (s : State) (die k : Nat) : State × Bool :=
  let size64 := s.fget (RF.UPD_SLOT_CFG_SIZE64 die)
  let (s1, v) := s.lineReads die (s.slotAddr die k + size64 * 64) ((size64 + 7) / 8)
  (s1, decide (v = 0))

/-- The die's vote is sent once CAP_VOTE is issued and every bound command has completed (R274). -/
def State.tryVote (s : State) (die : Nat) : State :=
  let c := s.dieCap die
  match c.vote with
  | some (force, _, _, _) =>
    if s.capState die = 1 ∧ c.bound = [] then
      let (s0, ok) := match c.slot with
        | some k => s.bitmapRead die k
        | none => (s, true)
      let v := if c.failed || !ok then 3 else if force = 2 ∨ c.sour then 2 else 1
      let s1 := (s0.fset (RF.CAP_DIE_STAT_VOTE die) v).setCapState die 2
      let s2 := match v, c.slot with
        | 1, some k => s1.dieReady die k
        | 1, none => if s1.noRate die then (s1.setDieCap die { c with held := true }).holdRec (s1.owner die - 1) else s1
        | _, _ => s1
      s2.hiveReview c.key
    else s
  | none => s

/-- Dies that an unreadable slot has marked vote failed in their open caps (R331). -/
def State.votesLost (s : State) : State :=
  (List.range 8).foldl (fun (s : State) d => if (s.dieCap d).failed then s.voteFailed d else s) s

/-- The wort engine goes on with a die's session: its port passes cells again, or a READY has come (R15, R374). -/
def State.wortResume (s : State) (die : Nat) : State :=
  if s.owner die = 0 then s else (s.wortRun (s.owner die - 1)).votesLost

/-- Sour recorded for a die's open cap (R69, R167, R186, R272). -/
def State.recordSour (s : State) (die : Nat) : State :=
  if s.capState die = 0 then s else s.setDieCap die { s.dieCap die with sour := true }

/-- A completion of a command that may be bound to the die's cap: other than OK, DEGRADED,
OVERFLOW_DROPPED or SOUR it fails the vote; SOUR is recorded; the vote may now go (R274). -/
def State.completeCmd (s : State) (core seq status reason nflags : Nat) : State :=
  let die := dieOf core
  let s1 := s.completeRaw core seq status reason nflags
  let c := s1.dieCap die
  if c.bound.any (fun b => decide (b = (core, seq))) then
    let c1 := { c with bound := c.bound.filter fun b => !decide (b = (core, seq)) }
    let s2 := s1.setDieCap die { c1 with sour := c1.sour || decide (status = stSOUR) }
    let s3 := if [stOK, stDEGRADED, stOVERFLOW, stSOUR].contains status then s2 else s2.voteFailed die
    s3.tryVote die
  else s1

/-- A command binds to the open cap when it is issued. -/
def State.bindCmd (s : State) (core seq : Nat) : State :=
  let die := dieOf core
  if s.capState die = 0 then s
  else
    let c := s.dieCap die
    s.setDieCap die { c with bound := c.bound ++ [(core, seq)],
                              binders := core :: c.binders.filter fun k => !decide (k = core) }

end Sys2Proof.Machine
end

