-- ==== Sys2Proof/Machine/SetupOps.lean ====
section
/-! DEFINITION. The ledger of set-ups: demands, limits and deadline bounds, and their re-evaluation after
a loss (R27, R31, R34 to R37, R110, R174, R285, R368, R379, R488). -/

namespace Sys2Proof.Machine

/-- Logical banks of a die that are emulated (R138). -/
def State.emuBanks (s : State) (die : Nat) : Nat :=
  ((List.range 64).filter fun b => decide (s.fget (RF.WRK_BMAP_EMU die (b / 8) (b % 8)) = 1)).length

/-- L1 demand and limit of a die (R37). -/
def l1Demand (us : List Setup) (die : Nat) : Nat := (us.map fun u => (u.decl 1 die).sum).sum
def State.l1Limit (s : State) (die : Nat) : Nat := 8388608 * (64 - s.emuBanks die)

/-- L2 demand of a die: declared bytes, and the slots of SLOTS with their bitmaps (R37, R192, R368). -/
def l2Demand (us : List Setup) (die : Nat) : Nat :=
  (us.map fun u => (u.decl 2 die).sum +
    ((u.decl 3 die).map fun v => bitsN v 32 4 * slotStride (bitsN v 0 32)).sum).sum

/-- ceil(log₂ n). -/
def clog2 (n : Nat) : Nat := if n ≤ 1 then 0 else Nat.log2 (n - 1) + 1

/-- HIVE cycles that one context of a mode charges the merge stage (R174). -/
def smpCost (mode ktop c : Nat) : Nat :=
  if mode = 1 then 20 + 4 * clog2 c + c else 50 + 4 * clog2 c + 4 * ((ktop + 15) / 16)

/-- HIVE cycles of one context, and per second, that an SMP_RATE declaration charges (R174). -/
def smpEach (v : Nat) : Nat := smpCost (bitsN v 32 2) (bitsN v 34 10) (bitsN v 44 9 + 1)
def smpCycles (v : Nat) : Nat := bitsN v 0 32 * smpEach v

def l3Demand (us : List Setup) : Nat := (us.map fun u => ((u.declAny 6).map smpCycles).sum).sum

/-- The serving bound of a die exceeds T at a CORE frequency in MHz (R35, R110). -/
def State.srvOver (s : State) (u : Setup) (die mhz : Nat) : Bool :=
  let t := ((u.decl 8 die).map fun v => bitsN v 0 32).sum
  let bytes := ((u.decl 9 die).map fun v => bitsN v 0 48).sum
  let starts := ((u.decl 9 die).map fun v => bitsN v 48 16).sum
  let xns := ((u.decl 10 die).map fun v =>
    bitsN v 0 16 * (80 + 40 * bitsN v 16 2 + 5 * bitsN v 18 14 + 70)).sum
  let vec := ((u.decl 11 die).map fun v => bitsN v 0 32).sum
  let k := 262144 * (16 - s.fget (RF.MVE_PRIO_YIELD die))
  decide (8 * t * k * mhz < (8 * bytes * 160 + starts * 25 * k) * 1600 + 8 * (xns + vec) * k * mhz)

/-- The die's present CORE frequency in MHz; 1,600 before bring-up has set it (R110, R458). -/
def State.coreNow (s : State) (die : Nat) : Nat :=
  let f := s.fget (RF.COMB_CLK_CORE_MHZ die)
  if f = 0 then 1600 else f

/-- A port is lost: DOWN, not yet back in service, or DISABLED (R222). -/
def State.portGone (s : State) (p : Nat) : Bool :=
  decide (s.fget (RF.FAB_PORT_STATE p) < 3 ∨ s.fget (RF.FAB_PORT_STATE p) = 6)

/-- Local ports a set-up's exchanges use (R110). -/
def Setup.links (u : Setup) : Nat := ((u.declAny 12).map fun v => bitsN v 0 15).foldl Nat.lor 0

/-- Declared local links of a set-up that are lost. -/
def State.linksGone (s : State) (u : Setup) : Nat :=
  ((List.range 15).filter fun p => bitN u.links p && s.portGone p).length

/-- B of R27 in bytes for a partition with a further TRAIN set-up, as an integer that may be negative: the
largest CAPTO of the groups its TRAIN set-ups declare, the partition's dies, and the rate admitted to it. -/
def State.bBound (s : State) (u : Setup) : Int :=
  let capto := ((u.declAny 5).map fun v => match s.group u.job (bitsN v 0 10) with
    | some g => g.capto | none => 0).foldl max (s.capToOf u.fn)
  let t : Int := (s.fget (RF.HIVE_PART_RDL (u.fn - 1)) * 1000000 : Nat) - (capto * 1000 : Nat)
    - (s.tRelease (s.diesOf u.fn) : Nat)
  t * ((s.wOf u.fn + u.wrate : Nat) : Int) / 1000

/-- Per-step diff bound: 64 × SIZE64 summed over the set-up's dies (R27, R381). -/
def Setup.diffBound (u : Setup) : Nat :=
  (((List.range 8).filter fun d => bitN u.diemask d).map fun d =>
    ((u.decl 3 d).map fun v => 64 * bitsN v 0 32).sum).sum

/-- Per-step diff bound of a function's partition: that of all its TRAIN set-ups (R27). -/
def diffBoundOf (us : List Setup) (fn : Nat) : Nat :=
  ((us.filter fun u => decide (u.kind = 1 ∧ u.fn = fn)).map Setup.diffBound).sum

/-- BEAT_ALIGN values of a set-up: (P, TSTEP). -/
def Setup.beat (u : Setup) : List (Nat × Nat) := (u.declAny 13).map fun v => (bitsN v 0 16, bitsN v 16 32)

/-- Mixed share of a die's LPDDR5X in per mille, by the hottest band of its channels (R340, R342). -/
def State.mixShare (s : State) (die : Nat) : Nat :=
  match ((s.chans die).map fun c => s.fget (RF.MEM_CH_STAT_BAND die c)).foldl max 1 with
  | 1 => 840
  | 2 => 833
  | _ => 820

/-- T_cap of a CAPG group in picoseconds (R285). -/
def State.tCapPs (s : State) (g : Group) : Nat :=
  let pl := s.planFig g g.epoch
  let tstart := 40 + pl.depthB * (110 + 10 * pl.longest)
  let least := (g.dbytes + g.nops - 1) / max 1 g.nops
  let big := min g.dbytes (max least (Config.longestOp g.nops g.dbytes))
  let long := if g.nops = 0 then 0 else 1000 * tstart + big * 1000 / pl.rate + 5000000000
  let coll := g.nops * 1000 * tstart + g.dbytes * 1000 / pl.rate + long
  let (h, lw) := Config.witnessPath g.members s.boot.wire
  let rt := if g.witv then 2 * (40 * (h + 1) + 5 * lw) * 1000 else 0
  let vec := rt + 1000 * (40 + pl.depthL * (70 + 5 * pl.longest)) + 260 * 27 * pl.depthL
  let rollOf := fun (d : Nat) =>
    3 * s.fget (RF.UPD_SLOT_CFG_SIZE64 d) * 64 * 1000000 * 1000 / (s.mixShare d * 32 * s.memRate)
  let roll := 2000000 + (((List.range 8).filter fun d => decide (s.dieJob d = g.job)).map rollOf).foldl max 0
  coll + g.dupd * 1000000 + g.voteTo * 1000000 + vec + roll

/-- The plan connects the members and CAPTO covers T_cap (R258, R285). -/
def State.capToShort (s : State) (g : Group) : Bool :=
  let pl := s.planFig g g.epoch
  g.capg && (decide (pl.rate = 0) || decide (g.capto * 1000000 < s.tCapPs g))

/-- A set-up's accepted figures hold on the present resources (R35): its dies and their ports in service, its demand
within the limits, its serving and backlog bounds, its beat. DEDUCED: the serving bound charges every exchange with
its alternate route (R110, R253), so it stands while one of the declared local links is lost, and no longer with
two (log entry 53). -/
def State.setupHolds (s : State) (u : Setup) : Bool :=
  let dies := (List.range 8).filter fun d => bitN u.diemask d
  let us := s.host.setups
  if u.kind = 3 then
    match s.group u.job u.gid with
    | some g => !s.capToShort g
    | none => true
  else
    dies.all (fun d => decide (s.dieState d ≠ 2) && !s.portGone (32 + d) && decide (l1Demand us d ≤ s.l1Limit d)
      && decide (l2Demand us d ≤ s.fget (RF.MEM_CAP_USABLE d)))
    && (decide (u.kind ≠ 2) || (dies.all (fun d => !s.srvOver u d (s.coreNow d)) && decide (s.linksGone u ≤ 1)))
    && (decide (u.kind ≠ 1) || decide (diffBoundOf us u.fn ≤ s.bPrime (u.fn - 1)))
    && (decide (u.beat = []) || !s.tim.misaligned)

/-- The event codes that R431 lists, by their high bytes and counts. -/
def evCodes : List Nat :=
  ([(0x80, 12), (0x81, 7), (0x82, 6), (0x83, 3), (0x84, 8), (0x85, 6), (0x86, 9), (0x87, 5), (0x88, 7),
    (0x89, 9)].flatMap fun (e : Nat × Nat) => (List.range e.2).map fun i => 256 * e.1 + i + 1) ++ [0x890B, 0x890C]

/-- One set-up re-evaluated: when its figures no longer hold its work completes DEGRADED, and one record
names it; no event code is assigned to that record, so which of the listed codes it carries is a free value
(R35, R431; log entry 21). -/
def State.reevalOne (s : State) (u : Setup) : State :=
  if u.degraded || s.setupHolds u then s
  else
    let us := s.host.setups.map fun (v : Setup) =>
      if v.handle = u.handle then { v with degraded := true } else v
    let s1 := { s with host := { s.host with setups := us } }
    s1.drawn.hiveRec (evCodes.getD (s1.freshVal.toNat % evCodes.length) 0x8001) 0 0
      (pay [(1, u.fn), (1, u.kind), (2, u.handle)])

/-- Every accepted set-up re-evaluated after a loss (R35). -/
def State.reevaluate (s : State) : State :=
  s.host.setups.foldl (fun s u => s.reevalOne u) s

/-- A set-up covers a die. -/
def Setup.covers (u : Setup) (die : Nat) : Bool := bitN u.diemask die

/-! A command against the declared demand of its set-ups (R37). DEDUCED: a command exceeds a declaration where it
alone needs more than the accepted set-ups that cover its die declare together; with no such set-up there is no
declaration to exceed (log entry 59). -/

/-- The TRAIN and SERVE set-ups that cover a die. -/
def State.setupsOn (s : State) (die : Nat) : List Setup :=
  s.host.setups.filter fun u => decide (u.kind ≠ 3) && u.covers die

/-- More SRAM, or LPDDR5X, bytes than declared. -/
def l1Over (us : List Setup) (die n : Nat) : Bool := decide (us ≠ []) && decide (l1Demand us die < n)
def l2Over (us : List Setup) (die n : Nat) : Bool := decide (us ≠ []) && decide (l2Demand us die < n)

/-- A context of a mode that costs the merge stage more than every one declared of that mode (R174). -/
def l3Over (us : List Setup) (mode ktop c : Nat) : Bool :=
  decide (us ≠ []) && !((us.flatMap fun u => u.declAny 6).any fun v =>
    decide (bitsN v 32 2 = mode) && decide (smpCost mode ktop c ≤ smpEach v))

/-- Work of a die completes DEGRADED because a set-up that covers it, or a group of its job, lost its figures
(R35). -/
def State.setupDegraded (s : State) (die : Nat) : Bool :=
  s.host.setups.any fun u => u.degraded &&
    (if u.kind = 3 then decide (s.owner die = u.fn ∧ s.dieJob die = u.job) else u.covers die)

/-! Defect map (R402, R403, R407). -/

/-- Payload of the queen's records (R418). -/
def State.qnPay (s : State) (die phys logi lvl : Nat) : Bytes :=
  pay [(1, die), (1, phys), (1, logi), (1, lvl), (4, s.fget RF.QN_RETAIN_SEQ),
    (4, (s.clk - s.boot.t0) / 1000000)]

/-- As `qnPay`, for a unit taken over, folded or failed: in service its work takes below 1 ms, in bring-up the
time runs from its start (R404, R406, R418). -/
def State.unitPay (s : State) (die phys logi : Nat) : Bytes :=
  if s.fget RF.QN_BOOT_STAT_PHASE = 5 then
    pay [(1, die), (1, phys), (1, logi), (1, 0), (4, s.fget RF.QN_RETAIN_SEQ), (4, 0)]
  else s.qnPay die phys logi 0

/-- A die becomes DEGRADED: a spare is consumed and none is left, or a fold, emulation or map-out
exists (R402). -/
def State.dieDegraded (s : State) (die : Nat) : State :=
  if s.dieState die = 0 then s.setDieState die 1 else s

/-- A die becomes FAILED (R403): its port absorbs cells, its hive member votes failed, set-ups are
re-evaluated, and a record and a journal entry are written. -/
def State.dieFailed (s : State) (die : Nat) : State :=
  if s.dieState die = 2 then s
  else
    let s1 := ((s.setDieState die 2).journal die 6 die 2).hiveRec 0x8009 0 2 (s.unitPay die 0 0)
    let s2 := s1.voteFailed die
    let s3 := (s2.cap.hives.filter fun h => decide (h.key.job = s.dieJob die) && decide (h.vec = none)
      && decide (h.vote = 0)).foldl (fun s h => s.hiveReview h.key) s2
    s3.reevaluate

end Sys2Proof.Machine
end

