-- ==== Sys2Proof/Machine/MemOps.lean ====
section
/-! DEFINITION. Memory operations: ranges, LPDDR5X lines and their channels, write-combining buffers,
SRAM words and banks (R135 to R138, R210, R328 to R347). -/

namespace Sys2Proof.Machine

/-! Address ranges. -/

/-- U_d of a die (R333). -/
def State.usable (s : State) (die : Nat) : Nat := s.fget (RF.MEM_CAP_USABLE die)

/-- Conditions under which a range of a comb die's target space is refused (R135, R210, R333). -/
def State.rangeConds (s : State) (die off len : Nat) : List (Bool × Nat) :=
  [(meets off len (s.usable die) 0x2000000000, 0x5A01),
   (meets off len 0x2000000000 sramBase, 0x5702),
   (meets off len (sramBase + sramSize) 0xFF00000000, 0x5407),
   (meets off len 0xFF00000000 0x10000000000, 0x5703),
   (decide (0 < len ∧ 0x10000000000 < off + len), 0x5702)]

/-- A range of SRAM named by its SRAM offset (R135). -/
def sramConds (off len : Nat) : List (Bool × Nat) := [(decide (sramSize < off + len), 0x5407)]

/-- Rows of a strided block: (offset, bytes) of each. -/
def rowsOf (base stride len rows : Nat) : List (Nat × Nat) :=
  (List.range rows).map fun r => (base + r * stride, len)

/-- U_d and the other fields of MEM_CAP recomputed (R333). -/
def State.recap (s : State) (die : Nat) : State :=
  let cs := s.chans die
  let n := cs.length
  let rmax := (cs.map fun c => s.fget (RF.MEM_CH_STAT_RET die c)).foldl max 0
  let folds := ((List.range 6).filter fun a => bitN (s.fget (RF.ARR_LMAP_FOLDED die)) a).length
  let v := 16777216 * folds + 8388608 * s.emuBanks die
  ((s.fset (RF.MEM_CAP_USABLE die) (n * 61440 * (pagesPerChan - rmax) - v)).fset
    (RF.MEM_CAP_NCH die) n).fset (RF.MEM_CAP_RMAX die) rmax

/-! Reads (R329 to R331). -/

/-- The reaction to an uncorrectable LPDDR5X read (R331): the home's, and the die's failed vote. -/
def State.memUe (s : State) (die ch q cause : Nat) : State := (s.lineUe die ch q cause).voteFailed die

/-- A channel fails in service (R344), and the die votes failed. -/
def State.channelFail (s : State) (d c cause : Nat) : State :=
  if !s.fbit (RF.MEM_CHMAP_INSVC d) c || s.chFailed d c then s else (s.channelLost d c cause).voteFailed d

/-- A read of a range of LPDDR5X by a reader of the die: the state after it, and whether every line was
good or corrected. -/
def State.lpRead (s : State) (die off len : Nat) : State × Bool :=
  let (s1, v) := s.lineReads die off len
  (if v = 2 then s1.voteFailed die else s1, decide (v = 0))

/-! SRAM (R135 to R138). -/

/-- Logical bank of an SRAM offset; physical bank behind it, 0x7F when emulated. -/
def sramBank (off : Nat) : Nat := bitsN off 8 6
def State.physBank (s : State) (die b : Nat) : Nat :=
  if s.fget (RF.WRK_BMAP_EMU die (b / 8) (b % 8)) = 1 then 0x7F
  else s.fget (RF.WRK_BMAP_PHYS die (b / 8) (b % 8))

/-- A word of a physical bank has been read uncorrectable at the present time (R406). -/
def State.noteBankUe (s : State) (die pb word : Nat) : State :=
  let k := die * 66 + pb
  let l := (s.lp.bankUe.get [] k).filter fun x => decide (x.1 ≠ word ∧ s.clk < x.2 + 1000000000)
  { s with lp := { s.lp with bankUe := s.lp.bankUe.put k (l ++ [(word, s.clk)]) } }

/-- The reaction to an uncorrectable SRAM read (R137); the word counts toward its bank's failure (R406). -/
def State.sramUe (s0 : State) (die off : Nat) : State :=
  let pb := s0.physBank die (sramBank off)
  let s := if pb = 0x7F then s0 else s0.noteBankUe die pb (off / 8)
  let s1 := ((s.finc (RF.WRK_SRAM_ECC_UE_CNT die) 1).fset (RF.WRK_SRAM_ECC_UE die) 1).fset
    (RF.COMB_ERR_SRAM_UE die) 1
  (s1.dieRec die 0x8202 pb 2 (pay [(1, pb), (3, 0), (4, off)])).voteFailed die

def sramKey (die word : Nat) : Nat := die * 2 ^ 26 + word

/-- Words with an error in a range of SRAM: (word, 1 one bit or 2 more). -/
def State.badWords (s : State) (die off len : Nat) : List (Nat × Nat) :=
  if len = 0 then [] else
  (s.eng.sramErr.filter fun e => decide (e.1 / 2 ^ 26 = die ∧ off / 8 ≤ e.1 % 2 ^ 26 ∧
    e.1 % 2 ^ 26 ≤ (off + len - 1) / 8)).map fun e => (e.1 % 2 ^ 26, e.2)

/-- A read of a range of SRAM: one-bit errors are corrected and counted; the first uncorrectable word
stops it (R137). -/
def State.sramRead (s : State) (die off len : Nat) : State × Bool :=
  let ws := s.badWords die off len
  match ws.find? fun w => decide (w.2 = 2) with
  | some w => ((s.finc (RF.WRK_SRAM_ECC_CE_CNT die)
      (ws.filter fun x => decide (x.2 = 1 ∧ x.1 < w.1)).length).sramUe die (w.1 * 8), false)
  | none => (s.finc (RF.WRK_SRAM_ECC_CE_CNT die) ws.length, true)

/-- A write of SRAM bytes: whole words take new check bits and lose their error (R137). -/
def State.sramWrite (s : State) (die off : Nat) (bs : Bytes) : State :=
  let lo := (off + 7) / 8
  let hi := (off + bs.length) / 8
  let whole := fun (k : Nat) => decide (k / 2 ^ 26 = die ∧ lo ≤ k % 2 ^ 26 ∧ k % 2 ^ 26 < hi)
  let s1 := { s with eng := { s.eng with sramErr := s.eng.sramErr.drop whole } }
  s1.poke die (sramBase + off) bs

/-- A range of SRAM touches an emulated bank (R138). -/
def State.emulated (s : State) (die off len : Nat) : Bool :=
  decide (0 < len) && decide (0 < s.emuBanks die) &&
    (List.range (min 64 ((off + len - 1) / 256 - off / 256 + 1))).any fun i =>
      decide (s.physBank die ((off / 256 + i) % 64) = 0x7F)

/-! Write-combining buffers (R334 to R337). -/

/-- All 60 data bytes valid. -/
def fullMask : Nat := 2 ^ 60 - 1

/-- An entry is evicted (R335, R336): whole, or by read-modify-write, which poisons the line when the
read is uncorrectable. Answers the transfers that then complete ECC_UNCORRECTABLE. -/
def State.wcbEvict (s : State) (die ch : Nat) (e : WcbEntry) : State × List Nat :=
  let es := (s.wcb die ch).filter fun x => x.q != e.q
  let k := lineKey die ch e.q
  let now : Tbl Nat := Tbl.put (s.lp.evict.filter fun x => decide (x.2 = s.clk + 1)) k (s.clk + 1)
  let s0 := ({ s with lp := { s.lp with evict := now } } : State).setWcb die ch es
  if s.chFailed die ch then (s0, e.tags)
  else if e.valid = fullMask then
    ({ s0 with lp := { s0.lp with lineErr := s0.lp.lineErr.del k } }.finc (RF.WCB_STAT_FULLW die) 1, [])
  else
    let s1 := s0.finc (RF.WCB_STAT_RMW die) 1
    -- the entry's bytes are what a read sees, so errors on them are overwritten
    let pat := s1.lp.lineErr.get [] k
    match decodeLine pat with
    | .poisoned | .bad =>
      ({ s1 with lp := { s1.lp with lineErr := s1.lp.lineErr.put k poison } }.memUe die ch e.q 1, e.tags)
    | .corrected _ _ =>
      ({ s1 with lp := { s1.lp with lineErr := s1.lp.lineErr.del k } }.finc (RF.MEM_CH_STAT_CE die ch) 1, [])
    | .good => ({ s1 with lp := { s1.lp with lineErr := s1.lp.lineErr.del k } }, [])

/-- Bit mask of bytes [lo, hi) of a line. -/
def byteMask (lo hi : Nat) : Nat := 2 ^ hi - 2 ^ lo

/-- A channel's buffer makes room: with all 64 entries open the oldest is evicted (R334, R335). -/
def State.wcbRoom (s : State) (die ch : Nat) : State × List Nat :=
  if (s.wcb die ch).length < 64 then (s, [])
  else match s.wcb die ch with
  | e :: _ => (s.finc (RF.WCB_FWD_FORCED die) 1).wcbEvict die ch e
  | [] => (s, [])

/-- A write of part or all of one line reaches its home (R334): its bytes are visible at once. -/
def State.lineWrite (s : State) (die a : Nat) (bs : Bytes) (tag : Nat) : State × List Nat :=
  let (ch, q) := s.mapLine die a
  let b := a % 60
  let m := byteMask b (b + bs.length)
  if s.chFailed die ch then (s, [tag])
  else
    let s1 := s.poke die a bs
    let es := s1.wcb die ch
    match es.find? fun x => x.q == q with
    | some e =>
      let e1 := { e with valid := Nat.lor e.valid m, tags := (e.tags.filter fun t => t != tag) ++ [tag],
                         last := s.clk }
      let s2 := s1.setWcb die ch ((es.filter fun x => x.q != q) ++ [e1])
      if e1.valid = fullMask then s2.wcbEvict die ch e1 else (s2, [])
    | none =>
      if m = fullMask then
        ({ s1 with lp := { s1.lp with lineErr := s1.lp.lineErr.del (lineKey die ch q) } }, [])
      else
        let (s2, bad) := s1.wcbRoom die ch
        (s2.setWcb die ch (s2.wcb die ch ++ [{ q := q, valid := m, tags := [tag], last := s.clk }]), bad)

/-- A byte string cut at line boundaries: (offset, bytes) parts. -/
def cutLines : Nat → Nat → Bytes → List (Nat × Bytes)
  | 0, _, _ => []
  | fuel + 1, off, bs =>
    if bs = [] then [] else
    let n := 60 - off % 60
    (off, bs.take n) :: cutLines fuel (off + n) (bs.drop n)

/-- A write of LPDDR5X bytes by a transfer. Answers the transfers it turned bad. -/
def State.lpWrite (s : State) (die off : Nat) (bs : Bytes) (tag : Nat) : State × List Nat :=
  (cutLines (bs.length / 60 + 2) off bs).foldl (fun (a : State × List Nat) p =>
    let (s1, bad) := a.1.lineWrite die p.1 p.2 tag
    (s1, a.2 ++ bad)) (s, [])

/-- Every entry that holds bytes of a transfer is evicted: the transfer has delivered its last byte
(R335, R337). -/
def State.wcbFlush (s : State) (die tag : Nat) : State × List Nat :=
  let a := (List.range 16).foldl (fun (a : State × List Nat) ch =>
    ((a.1.wcb die ch).filter fun e => e.tags.contains tag).foldl (fun (a : State × List Nat) e =>
      let (s1, bad) := a.1.wcbEvict die ch e
      (s1, a.2 ++ bad)) a) (s, [])
  ({ a.1 with lp := { a.1.lp with evict := [] } }, a.2)

/-- A write to a die-local address, SRAM or LPDDR5X, by one transfer. -/
def State.memWrite (s : State) (die off : Nat) (bs : Bytes) (tag : Nat) : State × List Nat :=
  if sramBase ≤ off then (s.sramWrite die (off - sramBase) bs, []) else s.lpWrite die off bs tag

/-- A read check of a die-local range, SRAM or LPDDR5X. -/
def State.memRead (s : State) (die off len : Nat) : State × Bool :=
  if sramBase ≤ off then s.sramRead die (off - sramBase) len else s.lpRead die off len

/-- Reads a list of ranges in order; stops at the first that meets an uncorrectable error. -/
def State.memReads (s : State) (die : Nat) : List (Nat × Nat) → State × Bool
  | [] => (s, true)
  | r :: rs =>
    match s.memRead die r.1 r.2 with
    | (s1, true) => s1.memReads die rs
    | (s1, false) => (s1, false)

/-- A list of writes by one transfer, then its entries evicted. Other transfers that it turned bad learn so
(R336); answers whether this one is good. -/
def State.memWrites (s : State) (die : Nat) (ws : List (Nat × Bytes)) (tag : Nat) : State × Bool :=
  let (s1, b1) := ws.foldl (fun (a : State × List Nat) w =>
    let (s1, bad) := a.1.memWrite die w.1 w.2 tag
    (s1, a.2 ++ bad)) (s, [])
  let (s2, b2) := s1.wcbFlush die tag
  (s2.markBad die ((b1 ++ b2).filter fun t => t != tag), !((b1 ++ b2).contains tag))

/-- Every byte of a range of a die's space becomes zero, with its stored errors. -/
def State.zeroSram (s : State) (die : Nat) : State :=
  let lo := die * 2 ^ 40 + sramBase
  let mem := s.mem.filter fun e => !(decide (lo ≤ e.1) && decide (e.1 < lo + sramSize))
  let ofDie := fun (k : Nat) => decide (k / 2 ^ 26 = die)
  { s with mem := mem, eng := { s.eng with sramErr := s.eng.sramErr.drop ofDie } }

def State.zeroLpddr (s : State) (die : Nat) : State :=
  let lo := die * 2 ^ 40
  let mem := s.mem.filter fun e => !(decide (lo ≤ e.1) && decide (e.1 < lo + 2 ^ 37))
  let lineErr := s.lp.lineErr.drop fun k => decide (k / 2 ^ 27 / 16 = die)
  let wcb := s.lp.wcb.drop fun k => decide (k / 16 = die)
  { s with mem := mem, lp := { s.lp with lineErr := lineErr, wcb := wcb } }

end Sys2Proof.Machine
end

