-- ==== Sys2Proof/Machine/Rng.lean ====
section
/-! DEFINITION. The lane generator: LFSR A and B, the finaliser, positioning from the seed tuple
(R152 to R156). -/

namespace Sys2Proof.Machine

/-- KF of R153. -/
def rngKF : Nat := 0x9E3779B97F4A7C15

/-- The finaliser `fin` of R153, on 64-bit numbers. -/
def rngFin (x : Nat) : Nat :=
  let x := Nat.xor x (x / 2 ^ 32)
  let x := x * rngKF % 2 ^ 64
  let x := Nat.xor x (x / 2 ^ 29)
  let x := x * rngKF % 2 ^ 64
  Nat.xor x (x / 2 ^ 32)

/-- One step of LFSR A (R152): output bit and new state. -/
def lfsrA (a : Nat) : Nat × Nat :=
  let o := bitsN a 63 1
  let f := (bitsN a 63 1 + bitsN a 62 1 + bitsN a 60 1 + bitsN a 59 1) % 2
  (o, (2 * a + f) % 2 ^ 64)

/-- One step of LFSR B (R153). -/
def lfsrB (b : Nat) : Nat × Nat :=
  let o := bitsN b 62 1
  let f := (bitsN b 62 1 + bitsN b 61 1) % 2
  (o, (2 * b + f) % 2 ^ 63)

/-- `n` outputs from a state, the earliest in bit 0. -/
def lfsrOut (step : Nat → Nat × Nat) : Nat → Nat → Nat
  | 0, _ => 0
  | n + 1, a =>
    let (o, a') := step a
    o + 2 * lfsrOut step n a'

/-- `x * p mod P` for a polynomial over GF(2) of degree below `w`, where `P = x^w + t`. -/
def polyX (w t p : Nat) : Nat :=
  let q := 2 * p
  if q < 2 ^ w then q else Nat.xor (q - 2 ^ w) t

/-- Product of two polynomials modulo `x^w + t`, over the bits of `b` from the top. -/
def polyMul (w t a b : Nat) : Nat → Nat → Nat
  | 0, acc => acc
  | k + 1, acc =>
    let acc := polyX w t acc
    polyMul w t a b k (if bitN b k then Nat.xor acc a else acc)

/-- `x^n` modulo `x^w + t`, over the low `k` bits of `n` from the top. -/
def polyPow (w t n : Nat) : Nat → Nat → Nat
  | 0, acc => acc
  | k + 1, acc =>
    let acc := polyMul w t acc acc w 0
    polyPow w t n k (if bitN n k then polyX w t acc else acc)

/-- Parity of the first `k` bits of a number. -/
def parityN (k x : Nat) : Nat := ((List.range k).filter fun i => bitN x i).length % 2

/-- The state of a `w`-bit register advanced by `n` steps. A register's state is its next `w` outputs,
the first in the top bit; the outputs obey the recurrence of the polynomial `x^w + t`, so output
`n + j` is the sum of the outputs `i + j` over the terms `x^i` of `x^n mod (x^w + t)`. This is what
applying the jump matrices of R156 gives. -/
def lfsrJump (step : Nat → Nat × Nat) (w t n a : Nat) : Nat :=
  let c := polyPow w t n 56 1
  let seq := lfsrOut step (2 * w) a
  (List.range w).foldl (fun acc j => 2 * acc + parityN w (Nat.land c (seq / 2 ^ j))) 0

/-- A seed tuple without its lane and draw index (R155). -/
structure Seed where
  jseed : Nat
  step : Nat
  stream : Nat
  tile : Nat
  deriving DecidableEq, Repr

/-- Base state of LFSR A (R155). -/
def Seed.a0 (t : Seed) : Nat :=
  let h := rngFin (Nat.xor (t.jseed % 2 ^ 64) rngKF)
  let h := rngFin (Nat.xor (Nat.xor h (t.step % 2 ^ 32 * 2 ^ 32)) (t.stream % 2 ^ 16 * 2 ^ 16))
  let a := rngFin (Nat.xor h (t.tile % 2 ^ 32))
  if a = 0 then rngKF else a

/-- Base state of LFSR B (R155). -/
def Seed.b0 (t : Seed) : Nat :=
  let b := rngFin t.a0 % 2 ^ 63
  if b = 0 then 1 else b

/-- Word `j` of lane `lane` (R153, R155): raw or tempered by bit 15 of the stream (R154). -/
def Seed.word (t : Seed) (lane j : Nat) : Nat :=
  let n := lane * 2 ^ 36 + 64 * j
  let aw := lfsrOut lfsrA 64 (lfsrJump lfsrA 64 0x1B n t.a0)
  if bitN t.stream 15 then
    rngFin (Nat.xor aw (lfsrOut lfsrB 64 (lfsrJump lfsrB 63 0x3 n t.b0)))
  else aw

/-- The 16-bit draw `u` of a lane and draw index (R155). -/
def Seed.draw (t : Seed) (lane i : Nat) : Nat := bitsN (t.word lane (i / 4)) (16 * (i % 4)) 16

/-- Streams that array, matrix-vector, VEC and RNG_FILL commands may not name (R154). -/
def reservedStream (stream : Nat) : Bool := stream = 0x7FFF || stream = 0xFFFF

end Sys2Proof.Machine
end

