-- ==== Sys2Proof/Machine/Issue.lean ====
section
/-! DEFINITION. How a core issues: fetch of the word with its check bits, refusals, engine queues, fenced
signals (R115 to R119, R133, R137, R210). -/

namespace Sys2Proof.Machine

/-- A free word: what a fetch from a range that holds nothing delivers (log entry 6). -/
def State.freeWord (s : State) : State × CmdWord :=
  (List.range 8).foldl (fun (a : State × CmdWord) i =>
    (a.1.drawn, putFld a.2 (64 * i) 64 a.1.freshVal.toNat)) (s, 0)

/-- The core stops after an error in a fetched word (R120). -/
def State.haltCore (s : State) (core status : Nat) : State :=
  let r := s.coreRec core
  ((s.setCoreRec core { r with ending := some status, block := .none }).setCoreState core csHALT).kernelTryEnd
    core

/-- One word at a die-local address, with its error check: none where the read is uncorrectable. -/
def State.fetch (s : State) (die addr : Nat) : State × Option CmdWord :=
  if (pick (s.rangeConds die addr 64)).isSome then
    let (s1, w) := s.freeWord
    (s1, some w)
  else
    match s.memRead die addr 64 with
    | (s1, true) => (s1, some (s1.wordAt die addr))
    | (s1, false) => (s1, none)

/-- A run of words fetched in ascending order; it ends after an END or CHAIN, where the fetch ends or goes on
elsewhere, and after an uncorrectable word (R115, R117). -/
def State.fetchRun : Nat → State → Nat → Nat → State × List (Option CmdWord)
  | 0, s, _, _ => (s, [])
  | n + 1, s, die, addr =>
    match s.fetch die addr with
    | (s1, none) => (s1, [none])
    | (s1, some w) =>
      if fld w 0 8 = 0x01 ∨ fld w 0 8 = 0x02 then (s1, [some w])
      else
        let r := State.fetchRun n s1 die (addr + 64)
        (r.1, some w :: r.2)

/-- The core's fetch buffer holds at least `need` words: while it holds fewer, the fetch fills its 4 KiB (R113,
R117). DESIGN CHOICE: how far the fetch has run ahead at a moment is a matter of time; here it stands still while
the buffer holds a word, and fills the buffer when it is empty (log entry 56). -/
def State.fillBuf (s : State) (core need : Nat) : State :=
  let r := s.coreRec core
  if need ≤ r.buf.length then s
  else
    let x := State.fetchRun (64 - r.buf.length) s (dieOf core) (r.pc + 64 * r.buf.length)
    x.1.setCoreRec core { x.1.coreRec core with buf := r.buf ++ x.2 }

/-- A core's next command, in its fetch buffer: none where a word of it was uncorrectable. A VEC whose NMOP field
exceeds 6 has an extension word. -/
def State.nextCmd (s : State) (core : Nat) : State × Option CmdWord :=
  let s1 := s.fillBuf core 1
  match (s1.coreRec core).buf with
  | some w :: _ =>
    if cmdBytes w = 128 then
      let s2 := s1.fillBuf core 2
      match (s2.coreRec core).buf with
      | _ :: some _ :: _ => (s2, some w)
      | _ => (s2, none)
    else (s1, some w)
  | _ => (s1, none)

/-- The word a core would issue next: in its buffer, or in memory where the buffer is empty. -/
def State.peekWord (s : State) (core : Nat) : CmdWord :=
  match (s.coreRec core).buf with
  | some w :: _ => w
  | _ => s.wordAt (dieOf core) (s.coreRec core).pc

/-- A core may issue: in RUN and not blocked, or in STALL for a word that arrives as the command issues (R117,
R120). -/
def State.issuing (s : State) (core : Nat) : Bool :=
  match (s.coreRec core).block with
  | .none => decide (s.coreState core = csRUN)
  | .fetch => decide (s.coreState core = csSTALL)
  | _ => false

/-- The word a core waited for arrives: RUN again (R120). -/
def State.arrived (s : State) (core : Nat) : State :=
  if (s.coreRec core).block = Block.fetch then
    (s.setCoreRec core { s.coreRec core with block := .none }).setCoreState core csRUN
  else s

/-- A core in RUN issues the word at its fetch address, to which command `opc` gives a meaning; a word
whose OPC no command defines is refused with 0x5401, in the swarm range with 0x5801 (R118); an
uncorrectable word halts the core (R120). -/
def State.issue (s : State) (core opc : Nat) (f : State → Nat → CmdWord → State) : State :=
  if s.issuing core then
    let r := s.coreRec core
    match (s.arrived core).nextCmd core with
    | (s1, none) => s1.haltCore core stECC
    | (s1, some w) =>
      let o := fld w 0 8
      if o = opc then f (s1.issueNext core w) r.seq w
      else if opcListed o then s
      else (s1.issueNext core w).refuseCmd core r.seq o
        (if 0x80 ≤ o ∧ o ≤ 0x8F then 0x5801 else 0x5401)
  else s

/-- Commands of an engine queue that have not started: a started one has left its place (R117). -/
def waiting (q : List Job) : Nat := (q.filter fun j => !j.started).length

/-- The target queue of an engine command has no room (R117, R146, R147). -/
def State.targetFull (s : State) (die : Nat) (w : CmdWord) : Bool :=
  let o := fld w 0 8
  if 0x20 ≤ o ∧ o ≤ 0x23 then decide (64 ≤ waiting (s.eng.arrs.get {} (die * 6 + fld w 8 3)).queue)
  else if o = 0x30 then decide (32 ≤ waiting (s.eng.mveq.get [] die))
  else if o = 0x50 then
    if bit w 14 && decide (s.fget (RF.WRK_WAITMODE_PREFETCH die) = 1) then
      decide (64 ≤ waiting (s.eng.pfq.get [] die))
    else decide (64 ≤ waiting (s.eng.ceq.get [] (die * 4 + fld w 8 2)))
  else if 0x70 ≤ o ∧ o ≤ 0x73 then decide (256 ≤ waiting (s.upd.queue.get [] die))
  else false

/-- As `issue`, for an engine command: its word is fetched, and the core stalls while the target queue has no
room (R117). -/
def State.issueTo (s : State) (core opc : Nat) (f : State → Nat → CmdWord → State) : State :=
  if s.issuing core then
    match (s.arrived core).nextCmd core with
    | (s1, some w) =>
      if fld w 0 8 = opc ∧ s1.targetFull (dieOf core) w then
        (s1.setCoreRec core { s1.coreRec core with block := .stall }).setCoreState core csSTALL
      else s.issue core opc f
    | _ => s.issue core opc f
  else s

/-- Completes OK or is refused. -/
def State.refuseOr (s : State) (core seq opc : Nat) (cs : List (Bool × Nat)) (f : State → State) : State :=
  match pick cs with
  | some reason => s.refuseCmd core seq opc reason
  | none => f s

/-- As `refuseOr`, for a command that may be bound to the die's cap: its refusal fails the vote (R274). -/
def State.refuseOrB (s : State) (core seq opc : Nat) (cs : List (Bool × Nat)) (f : State → State) : State :=
  match pick cs with
  | some reason => (s.refuseRec core opc reason).completeCmd core seq stREFUSED reason 0
  | none => f s

/-- The job record of a command at its issue. -/
def State.mkJob (s : State) (core seq : Nat) (w : CmdWord) : Job :=
  { core := core, seq := seq, ctx := (s.coreRec core).ctx, word := w, cap := s.openCap (dieOf core) }

/-- Seed tuple of a command (R116, R155). -/
def Job.seed (j : Job) (stream tile : Nat) : Seed :=
  { jseed := j.ctx.jseed, step := j.ctx.step, stream := stream, tile := tile }

end Sys2Proof.Machine
end

