-- ==== Sys2Proof/Machine/FabOps.lean ====
section
/-! DEFINITION. The sending side of the network interfaces: streams, addressed cells, transaction ids and
the records of transfers without ACK (R142, R214 to R217, R244, R245). -/

namespace Sys2Proof.Machine

/-! Link records. -/

def State.link (s : State) (p : Nat) : LinkRec := s.fab.links.get {} p

def State.setLink (s : State) (p : Nat) (r : LinkRec) : State :=
  { s with fab := { s.fab with links := s.fab.links.set {} p r } }

/-- A cell addressed to a die whose port absorbs it (R248, R302, R403). -/
def State.absorb (s : State) (die : Nat) : State :=
  let r := s.link (32 + die)
  s.setLink (32 + die) { r with absorbed := r.absorbed + 1 }

/-! Transfers. -/

/-- The first of `n` numbers from `k` on that satisfies `p`. -/
def findFrom (p : Nat → Bool) : Nat → Nat → Option Nat
  | 0, _ => none
  | n + 1, k => if p k then some k else findFrom p n (k + 1)

/-- Key of a transaction or stream id of a target's network interface. -/
def xKey (tgt id : Nat) : Nat := tgt * 65536 + id

/-- The lowest id of a target that no transfer holds and whose reuse delay is over (R245). -/
def State.freeId (s : State) (tgt : Nat) : Option Nat :=
  findFrom (fun id => decide (s.fab.xfers.get {} (xKey tgt id) = {}) &&
    decide (s.fab.idHold.get 0 (xKey tgt id) = 0)) 65536 0

/-- A cell under an id: its STREAM field, and the ACKID of a stream open or a read request; cells that return
read data are of the response class (R213). -/
def withId (keep : Bool) (id : Nat) (c : CellW) : CellW :=
  let c1 := putFld c 60 16 id
  let c2 := if keep then putFld c1 32 3 1
    else if Cell.type c = 4 then putFld c1 304 16 id
    else if Cell.type c = 3 then putFld c1 352 16 id
    else c1
  putFld c2 480 32 (Cell.crc c2)

/-- A segment of the latency tree (R265). -/
def Xfer.latency (x : Xfer) : Bool :=
  match x.owner with
  | .seg _ _ _ => decide (Cell.pay (x.cells.headD 0) 8 1 = 0xFF)
  | _ => false

/-- Cells of a transfer sent at once: all, but only the open of a swarm segment, whose data wait for a grant or for
their window (R266). -/
def Xfer.first (x : Xfer) : List CellW :=
  match x.owner with
  | .seg _ _ _ => x.cells.take 1
  | _ => x.cells

/-! The standing windows of the latency trees (R266). -/

/-- Cells of the standing window of a router port. -/
def latWindow : Nat := 2048

/-- Data cells of a segment sent and not yet consumed; `acks` counts its cells sent. -/
def Xfer.flying (x : Xfer) : Nat := x.acks - 1 - x.got / 48

/-- A transfer of the hive. -/
def State.hiveXfer (s : State) (id : Nat) : Xfer := s.fab.xfers.get {} (xKey 8 id)

/-- Cells in flight in a port's window. -/
def State.latOut (s : State) (p : Nat) : Nat :=
  ((s.swm.latQ.filter fun id => decide ((s.hiveXfer id).port = p)).map fun id => (s.hiveXfer id).flying).sum

/-- A segment's turn in its port's window: what fits goes out, and the next turn is the others'. -/
def State.latStep (s : State) (p id : Nat) : State :=
  let x := s.hiveXfer id
  let n := min (latWindow - s.latOut p) (x.cells.length - x.acks)
  if x.latency && decide (x.port = p) && decide (n ≠ 0) then
    let x1 := { x with acks := x.acks + n }
    let q := s.swm.latQ.filter (fun k => k != id) ++ [id]
    let s1 : State := { s with fab := { s.fab with xfers := s.fab.xfers.put (xKey 8 id) x1 }
                               swm := { s.swm with latQ := q } }
    s1.emits (((x.cells.drop x.acks).take n).map Out.cell)
  else s

/-- The segments of a port take their turns, in the order of their arrival; those that have ended leave (the grain
of the turns is a DESIGN CHOICE, log entry 72). -/
def State.latRun (s : State) (p : Nat) : State :=
  let q := s.swm.latQ.filter fun id => (s.hiveXfer id).latency
  let s1 : State := { s with swm := { s.swm with latQ := q } }
  q.foldl (fun (s : State) id => s.latStep p id) s1

/-- A latency-tree segment joins the turns of its port. -/
def State.latJoin (s : State) (id : Nat) (x : Xfer) : State :=
  if x.latency then
    ({ s with swm := { s.swm with latQ := s.swm.latQ.filter (fun k => k != id) ++ [id] } } : State).latRun x.port
  else s

/-- A transfer goes out under an id. -/
def State.xferUnder (s : State) (tgt id : Nat) (x : Xfer) : State :=
  let cs := x.cells.map (withId x.keep id)
  let x1 := { x with cells := cs, restart := false }
  let s1 : State := { s with fab := { s.fab with xfers := s.fab.xfers.put (xKey tgt id) x1 } }
  (s1.emits (x1.first.map Out.cell)).latJoin id x1

/-- A transfer of a target starts, or waits for an id (R245). -/
def State.xferStart (s : State) (tgt : Nat) (x : Xfer) : State :=
  match s.freeId tgt with
  | some id => s.xferUnder tgt id x
  | none => { s with fab := { s.fab with
      idWait := s.fab.idWait.put tgt (s.fab.idWait.get [] tgt ++ [x]) } }

/-- A transfer ends: its id stays out of use for the reuse delay. -/
def State.xferEnd (s : State) (tgt id : Nat) : State :=
  { s with fab := { s.fab with xfers := s.fab.xfers.del (xKey tgt id)
                               idHold := s.fab.idHold.put (xKey tgt id) (s.clk + 1) } }

/-- Payload of an addressed cell (R214). -/
def addrPay (off pgen : Nat) (data : Bytes) : Bytes :=
  leBytes 5 off ++ [BitVec.ofNat 8 pgen, 0, 0] ++ data

/-- Payload of a stream open (R216). -/
def sopenPay (doff lenRow dstride col0 total rcnt : Nat) (rcen : Bool) (pgen : Nat) (final : Bool)
    (ackMod ackTgt ackId : Nat) : Bytes :=
  leBytes 5 doff ++ leBytes 3 lenRow ++ leBytes 4 dstride ++ leBytes 3 col0 ++ [0] ++ leBytes 4 total
    ++ leBytes 2 (rcnt % 1024 + 2 ^ 15 * b2n rcen) ++ [BitVec.ofNat 8 pgen, BitVec.ofNat 8 (b2n final)]
    ++ leBytes 2 (ackMod % 4096 + 4096 * ackTgt) ++ leBytes 2 ackId

/-- What one split transfer needs for every stream. -/
structure StreamHdr where
  dmod : Nat
  dtgt : Nat
  smod : Nat
  stgt : Nat
  gen : Nat
  job : Nat
  dst : Nat
  lenRow : Nat
  dstride : Nat
  rcnt : Nat
  rcen : Bool
  pgen : Nat
  ackMod : Nat
  ackTgt : Nat
  ackId : Nat

/-- Bytes of one stream at most (R142). -/
def streamMax : Nat := 3145728

/-- The data cells of a stream; `sour` marks the cells by their number in the transfer. -/
def dataCells (h : StreamHdr) (sour : Nat → Bool) (first : Nat) : Nat → Nat → Bytes → List CellW
  | 0, _, _ => []
  | fuel + 1, q, bs =>
    let here := bs.take 48
    let rest := bs.drop 48
    mkCell h.dmod h.dtgt h.smod h.stgt 5 h.gen h.job (sour (first + q)) (rest == []) here.length 0 q here
      :: if rest == [] then [] else dataCells h sour first fuel (q + 1) rest

/-- Stream `k` of a transfer: its open and its data (R142, R216). -/
def oneStream (h : StreamHdr) (sour : Nat → Bool) (k : Nat) (final : Bool) (bs : Bytes) : List CellW :=
  let b := k * streamMax
  mkCell h.dmod h.dtgt h.smod h.stgt 4 h.gen h.job false false 48 0 0
    (sopenPay (h.dst + b / h.lenRow * h.dstride) h.lenRow h.dstride (b % h.lenRow) bs.length h.rcnt h.rcen
      h.pgen final h.ackMod h.ackTgt h.ackId)
    :: dataCells h sour (k * 65536) (bs.length / 48 + 1) 0 bs

/-- The streams of a transfer, in order. -/
def allStreams (h : StreamHdr) (sour : Nat → Bool) : Nat → Nat → Bytes → List (List CellW)
  | 0, _, _ => []
  | fuel + 1, k, bs =>
    let here := bs.take streamMax
    let rest := bs.drop streamMax
    oneStream h sour k (rest == []) here ::
      if rest == [] then [] else allStreams h sour fuel (k + 1) rest

/-- Streams a transfer of `n` bytes takes. -/
def nStreams (n : Nat) : Nat := (n + streamMax - 1) / streamMax

/-- A whole transfer sent in streams by a target's network interface. -/
def State.sendStreams (s : State) (tgt : Nat) (o : XOwner) (keep : Bool) (h : StreamHdr)
    (sour : Nat → Bool) (bs : Bytes) : State :=
  (allStreams h sour (nStreams bs.length) 0 bs).foldl (fun s cs =>
    s.xferStart tgt { owner := o, cells := cs, keep := keep }) s

/-- A read request (R217). -/
def State.sendRdreq (s : State) (tgt : Nat) (o : XOwner) (smod stgt job off pgen lenRow sstride rows dst
    dstride rcnt : Nat) (rcen : Bool) : State :=
  let data := leBytes 3 lenRow ++ leBytes 4 sstride ++ leBytes 2 rows ++ leBytes 7 dst
  let data := data ++ leBytes 4 dstride ++ leBytes 2 (rcnt % 1024 + 2 ^ 15 * b2n rcen)
    ++ leBytes 2 (s.module % 4096 + 4096 * tgt) ++ leBytes 2 0
  let c := mkCell smod stgt s.module tgt 3 s.gen job false true 48 0 0 (addrPay off pgen data)
  s.xferStart tgt { owner := o, acks := nStreams (lenRow * rows), cells := [c] }

/-- An addressed write. -/
def State.sendWr (s : State) (tgt : Nat) (o : XOwner) (dmod dtgt job off pgen : Nat) (data : Bytes) : State :=
  let c := mkCell dmod dtgt s.module tgt 1 s.gen job false true (8 + data.length) 0 0 (addrPay off pgen data)
  s.xferStart tgt { owner := o, cells := [c] }

/-- An addressed add (R134, R214). -/
def State.sendAdd (s : State) (tgt : Nat) (o : XOwner) (dmod dtgt job off pgen v : Nat) : State :=
  let c := mkCell dmod dtgt s.module tgt 2 s.gen job false true 12 0 0 (addrPay off pgen (leBytes 4 v))
  s.xferStart tgt { owner := o, cells := [c] }

/-- Offset of WRK_CNT_n in a die's target space (R149, R210). -/
def cntOff (n : Nat) : Nat := 0xFF00034000 + 8 * n

end Sys2Proof.Machine
end

