-- ==== Sys2Proof/Machine/Fp32.lean ====
section
/-! DEFINITION. The FP32 functions of the vector unit: MAX and MIN, comparisons, the bit-defined
transcendental sequences of R124. Codes are 32-bit numbers. -/

namespace Sys2Proof.Machine

def one32 : Nat := 0x3F800000

/-- Order that puts −0 below +0, for MAX and MIN (R123). -/
def f32lt (a b : Nat) : Bool :=
  match d32 a, d32 b with
  | .fin na ma ea, .fin nb mb eb =>
    if ma = 0 ∧ mb = 0 then na && !nb
    else decide (numCmp (.fin na ma ea) (.fin nb mb eb) = -1)
  | x, y => decide (numCmp x y = -1)

/-- MAX of R123. -/
def f32max (a b : Nat) : Nat :=
  if d32 a = .nan ∨ d32 b = .nan then nan32 else if f32lt a b then b else a

/-- MIN of R123. -/
def f32min (a b : Nat) : Nat :=
  if d32 a = .nan ∨ d32 b = .nan then nan32 else if f32lt b a then b else a

/-- The comparison of CMPSEL (R123): 0 <, 1 ≤, 2 =, 3 ≠. -/
def f32cmp (md a b : Nat) : Bool :=
  if d32 a = .nan ∨ d32 b = .nan then decide (md = 3)
  else
    let c := numCmp (d32 a) (d32 b)
    if md = 0 then decide (c < 0) else if md = 1 then decide (c ≤ 0)
    else if md = 2 then decide (c = 0) else decide (c ≠ 0)

/-- RCP: 1 ÷ A, correctly rounded. -/
def f32rcp (a : Nat) : Nat := f32div one32 a

/-- `p * 2^n`, rounded once. -/
def f32scalb (p : Nat) (n : Int) : Nat := r32 ((d32 p).scale n)

/-- EXP2 of R124; c_k = RNE((ln 2)^k / k!). -/
def f32exp2 (x : Nat) : Nat :=
  match d32 x with
  | .nan => nan32
  | .inf neg => if neg then 0 else inf32 false
  | .fin neg m e =>
    let v := Num.dy (.fin neg m e)
    if numCmp (.fin neg m e) (.fin false 128 0) ≥ 0 then inf32 false
    else if numCmp (.fin neg m e) (.fin true 150 0) < 0 then 0
    else
      let n := Dy.inUnits .rne v 0
      let fr := Dy.add v ⟨-n, 0⟩
      let f := r32 (numOfInt fr.m fr.e)
      let p := [0x3AAEC3FF, 0x3C1D955B, 0x3D635847, 0x3E75FDF0, 0x3F317218, 0x3F800000].foldl
        (fun p c => f32fma p f c) 0x39218489
      f32scalb p n

/-- EXP(x) = EXP2(x × RNE(log₂ e)) (R124). -/
def f32exp (x : Nat) : Nat := f32exp2 (f32mul x 0x3FB8AA3B)

/-- LOG2 of R124; d_j = RNE(2 / (ln 2 × (2j + 1))). -/
def f32log2 (x : Nat) : Nat :=
  match d32 x with
  | .nan => nan32
  | .inf neg => if neg then nan32 else inf32 false
  | .fin neg m e =>
    if m = 0 then inf32 true
    else if neg then nan32
    else
      let l := Nat.log2 m
      let ex : Int := (l : Int) + e
      let mm := r32 (.fin false m (-(l : Int)))
      let big := f32gt mm 0x3FB504F3
      let mm := if big then f32scalb mm (-1) else mm
      let ex := if big then ex + 1 else ex
      let s := f32div (f32sub mm one32) (f32add mm one32)
      let z := f32mul s s
      let p := [0x3ED30BB1, 0x3F13BB63, 0x3F76384F, 0x4038AA3B].foldl
        (fun p c => f32fma p z c) 0x3EA4258A
      f32fma s p (r32 (numOfInt ex 0))

/-- LOG(x) = LOG2(x) × RNE(ln 2). -/
def f32log (x : Nat) : Nat := f32mul (f32log2 x) 0x3F317218

/-- SIGMOID(x) = RCP(1 + EXP(−x)). -/
def f32sigmoid (x : Nat) : Nat := f32rcp (f32add one32 (f32exp (f32neg x)))

/-- TANH of R124. -/
def f32tanh (x : Nat) : Nat :=
  if d32 x = .nan then nan32
  else if f32gt 0x39800000 (f32abs x) then x
  else f32sub one32 (f32mul 0x40000000 (f32rcp (f32add (f32exp (f32mul 0x40000000 x)) one32)))

/-- SILU(x) = x × SIGMOID(x). -/
def f32silu (x : Nat) : Nat := f32mul x (f32sigmoid x)

/-- GELU of R124, the tanh form. -/
def f32gelu (x : Nat) : Nat :=
  let u := f32mul (f32mul x x) x
  let t := f32mul (f32fma 0x3D372713 u x) 0x3F4C422A
  f32mul (f32mul (f32add one32 (f32tanh t)) x) 0x3F000000

/-- RNE(u × 2^-k) in FP32. -/
def f32ofScaled (u : Nat) (k : Int) : Nat := r32 (.fin false u (-k))

end Sys2Proof.Machine
end

