-- ==== Sys2Proof/Machine/Operands.lean ====
section
/-! DEFINITION. Operands: format codes, element and scale layouts in SRAM, decoding and conversion of whole
rows (R38 to R48, R61, R80, R82). -/

namespace Sys2Proof.Machine

/-! Format codes (R38). -/

def fcINT8 : Nat := 0
def fcE4M3 : Nat := 1
def fcE5M2 : Nat := 2
def fcMX4M3 : Nat := 3
def fcMX5M2 : Nat := 4
def fcMXFP4 : Nat := 5
def fcBF16 : Nat := 6
def fcFP16 : Nat := 7
def fcFP32 : Nat := 8
def fcGRAD8 : Nat := 9
def fcACC64 : Nat := 11

/-- A format with block scales. -/
def isMx (f : Nat) : Bool := decide (3 ≤ f ∧ f ≤ 5)

/-- A reserved format code (R8, R74). -/
def fcReserved (f : Nat) : Bool := decide (13 ≤ f)

/-- Floating format of a code's elements. -/
def elemFmt (f : Nat) : FFmt :=
  if f = 1 ∨ f = 3 then fE4M3 else if f = 2 ∨ f = 4 then fE5M2 else if f = 5 then fE2M1
  else if f = 6 then fBF16 else if f = 7 then fFP16 else fFP32

/-- emax of an MX element format (R45). -/
def emaxOf (f : Nat) : Nat := if f = 3 then 8 else if f = 4 then 15 else 2

/-- Bits of one element. -/
def elemBits (f : Nat) : Nat :=
  if f = 5 then 4 else if f = 6 ∨ f = 7 ∨ f = 12 then 16 else if f = 8 then 32
  else if f = 10 then 24 else if f = 11 then 64 else 8

/-- Bytes of `n` elements without scales. -/
def elemBytes (f n : Nat) : Nat := (elemBits f * n + 7) / 8

/-- Code of element `i` of a byte string (R44). -/
def elemCode (f : Nat) (bs : Bytes) (i : Nat) : Nat :=
  if f = 5 then bitsN (byteAt bs (i / 2)).toNat (4 * (i % 2)) 4
  else leAt bs (i * elemBits f / 8) (elemBits f / 8)

/-- Value of an element code, without its block scale. -/
def elemNum (f c : Nat) : Num :=
  if f = 0 then numOfInt (signedN 8 c) 0 else decodeF (elemFmt f) c

/-- Value of an element with its E8M0 scale byte; 0xFF makes it non-finite (R43). -/
def mxNum (f c x : Nat) : Num :=
  match e8m0 x with
  | some k => (elemNum f c).scale k
  | none => .nan

/-- Bytes of a list of codes in a format: two MXFP4 elements a byte, the first in bits [3:0]. DESIGN CHOICE: the
spec does not say what the high nibble of the last byte of an MXFP4 row with an odd number of elements holds; it is
written 0 (log entry 45). -/
def packCodes (f : Nat) : List Nat → Bytes
  | [] => []
  | [a] => if f = 5 then [BitVec.ofNat 8 (a % 16)] else leBytes (elemBits f / 8) a
  | a :: b :: t =>
    if f = 5 then BitVec.ofNat 8 (a % 16 + 16 * (b % 16)) :: packCodes f t
    else leBytes (elemBits f / 8) a ++ packCodes f (b :: t)

/-- Draws of element `i`, where stochastic rounding is asked for. -/
abbrev Draws := Option (Nat → Nat)

/-- One value converted to a format without block scales (R61): code and flags. -/
def convOne (f : Nat) (md : Rnd) (x : Num) : Nat × Nat :=
  if f = 0 then convInt8 md x
  else convF (elemFmt f) (decide (f = 1 ∨ f = 2)) (if f = 8 then .rne else md) x

/-- Splits a list into blocks of `n`. -/
def blocksOf {α : Type} (n : Nat) : Nat → List α → List (List α)
  | 0, _ => []
  | fuel + 1, xs => if xs.isEmpty then [] else xs.take n :: blocksOf n fuel (xs.drop n)

/-- A row of values converted: element bytes, scale bytes, flags. -/
def convRow (f : Nat) (us : Draws) (xs : List Num) : Bytes × Bytes × Nat :=
  if isMx f then
    let bs := (blocksOf 32 (xs.length / 32 + 1) xs).zipIdx.map fun (b, j) =>
      convMx (elemFmt f) (emaxOf f) (us.map fun (g : Nat → Nat) (i : Nat) => g (32 * j + i)) b
    (packCodes f (bs.flatMap fun b => b.2.1), bs.map fun b => BitVec.ofNat 8 b.1,
      bs.foldl (fun a b => orF a b.2.2) 0)
  else
    let cs := xs.zipIdx.map fun (x, i) => convOne f (rndAt us i) x
    (packCodes f (cs.map fun c => c.1), [], cs.foldl (fun a c => orF a c.2) 0)

/-! SRAM operands. -/

/-- Bytes of a range of SRAM. -/
def State.sram (s : State) (die off n : Nat) : Bytes := s.peek die (sramBase + off) n

/-- Key for ranges: (SRAM offset, length). -/
abbrev Ranges := List (Nat × Nat)

/-- A command names an SRAM offset outside the SRAM (R135). -/
def rangesBad (rs : Ranges) : Bool := rs.any fun r => decide (sramSize ≤ r.1 ∨ sramSize < r.1 + r.2)

/-- Some range touches an emulated bank (R138). -/
def State.rangesEmu (s : State) (die : Nat) (rs : Ranges) : Bool := rs.any fun r => s.emulated die r.1 r.2

/-- Reads of SRAM ranges in order; false where one meets an uncorrectable error. -/
def State.sramReads (s : State) (die : Nat) (rs : Ranges) : State × Bool :=
  s.memReads die (rs.map fun r => (sramBase + r.1, r.2))

/-- Writes to SRAM, as (offset, bytes). -/
def State.sramPut (s : State) (die : Nat) (ws : List (Nat × Bytes)) : State :=
  ws.foldl (fun s w => s.sramWrite die w.1 w.2) s

/-- `n` element values of a vector at an offset, with its scales elsewhere for MX formats (R80). -/
def State.vecAt (s : State) (die f off scl n : Nat) : List Num :=
  let bs := s.sram die off (elemBytes f n)
  let xs := s.sram die scl (n / 32)
  (List.range n).map fun i =>
    if isMx f then mxNum f (elemCode f bs i) (byteAt xs (i / 32)).toNat else elemNum f (elemCode f bs i)

/-- Operand pairing of R55: 0 none, 1 exact, 2 BF16. -/
def pairing (w a : Nat) : Nat :=
  let fp8 := fun f => decide (f = 1 ∨ f = 2)
  let mx8 := fun f => decide (f = 3 ∨ f = 4)
  if fp8 w && fp8 a then 1
  else if mx8 w && mx8 a then 1
  else if w = 5 ∧ (a = 5 ∨ mx8 a) then 1
  else if w = 0 ∧ a = 0 then 1
  else if w = 6 ∧ a = 6 then 2
  else 0

/-- One product merged into an exact sum (R51, R54): new sum, NF, flags. -/
def macExact (wb : Int) (acc : Int × Bool × Nat) (a w : Num) : Int × Bool × Nat :=
  match numMul a w with
  | none => (acc.1, true, orF acc.2.2 nfNF)
  | some p =>
    let (v, f) := windowProd wb p.dy
    (acc.1 + v, acc.2.1, orF acc.2.2 f)

/-- One product merged into an FP32 sum in canonical order (R54, R57). -/
def macBf16 (acc : Nat × Bool × Nat) (a w : Num) : Nat × Bool × Nat :=
  match numMul a w with
  | none => (f32add acc.1 0, true, orF acc.2.2 nfNF)
  | some p => (f32add acc.1 (r32 p), acc.2.1, acc.2.2)

/-- Residue of a sum modulo 3 (R96). -/
def residue3 (x : Int) : Nat := (x % 3).toNat

/-- Residue mod 3 of an operand's significand, sign included (R96). -/
def Num.residue : Num → Nat
  | .fin neg m _ => residue3 (if neg then -(m : Int) else m)
  | _ => 0

/-- Residue that a cell predicts for a product from the operands' residues and the power of two of their scales;
a windowed product's is that of the windowing circuit's output (R96, R97). `rw` is the weight's stored residue. -/
def prodResidue (wb : Int) (a w : Num) (rw : Nat) : Nat :=
  match numMul a w with
  | none => 0
  | some p =>
    let (v, f) := windowProd wb p.dy
    if f ≠ 0 then residue3 v
    else match a, w with
      | .fin _ _ ea, .fin _ _ ew => a.residue * rw * (if (ea + ew - wb) % 2 = 0 then 1 else 2) % 3
      | _, _ => 0

/-- Parity of a byte (R96). -/
def parity (b : Byte) : Nat := (((List.range 8).map fun i => b2n (b.getLsbD i)).sum) % 2

/-- Value of a drained exact sum: flags, and NaN where NF is set (R53, R54). -/
def drainNum (wb : Int) (sum : Int) (nf : Bool) : Num × Nat :=
  let (a, f) := drainSum sum
  (if nf then .nan else numOfInt a wb, f)

end Sys2Proof.Machine
end

