-- ==== Sys2Proof/Machine/Flags.lean ====
section
/-! DEFINITION. How an engine command ends: the status, the NFLAGS and the counter of a completion (R63,
R91, R106, R119, R137, R138). -/

namespace Sys2Proof.Machine

/-- OK becomes DEGRADED where the command touched an emulated bank, a folded array or an engine run
elsewhere (R101, R108, R138). -/
def okOr (degraded : Bool) : Nat := if degraded then stDEGRADED else stOK

/-- A status under which a command increments its counter: its results are whole. -/
def counts (status : Nat) : Bool := status = stOK || status = stDEGRADED || status = stOVERFLOW

/-- Completion of an engine command of a die with its counter (R91, R119). -/
def State.finish (s : State) (core seq cnt status reason nflags : Nat) : State :=
  let s1 := s.completeCmd core seq status reason nflags
  if counts status then s1.cntAdd (dieOf core) cnt 1 else s1

/-- A unit works: its cycle counter has left 0 (R102, R175, R206). -/
def State.markBusy (s : State) (k : Nat) : State :=
  { s with eng := { s.eng with busy := s.eng.busy.put k 1 } }

/-- A queued command refused when it is taken (R92). -/
def State.refuseJob (s : State) (j : Job) (reason : Nat) : State :=
  (s.refuseRec j.core (fld j.word 0 8) reason).completeCmd j.core j.seq stREFUSED reason 0

end Sys2Proof.Machine
end

