-- ==== Sys2Proof/Machine/ArrayCmds.lean ====
section
/-! DEFINITION. The matrix arrays: ARR_WLOAD, ARR_PASS, ARR_LAYOUT, ARR_DRAIN, ARR_COMMAND_COMPLETE (R50 to
R57, R64 to R70, R75 to R93). -/

namespace Sys2Proof.Machine

/-- A logical array of a die. -/
def State.arr (s : State) (die a : Nat) : ArrRec := s.eng.arrs.get {} (die * 6 + a)

def State.setArr (s : State) (die a : Nat) (r : ArrRec) : State :=
  { s with eng := { s.eng with arrs := s.eng.arrs.set {} (die * 6 + a) r } }

/-! Layouts (R85, R86). -/

/-- Top row band, left column band, height and width of a region, in tiles. -/
structure Rect where
  top : Nat
  left : Nat
  h : Nat
  w : Nat
  deriving DecidableEq, Repr

/-- Tiles of a region, numbered 4i + j. -/
def regionTiles (tmap tuse r : Nat) : List Nat :=
  (List.range 16).filter fun t => bitN tuse t && decide (bitsN tmap (4 * t) 4 = r)

/-- The smallest rectangle around a region's tiles; none where the region has no tile. -/
def regionRect (tmap tuse r : Nat) : Option Rect :=
  let ts := regionTiles tmap tuse r
  if ts = [] then none
  else
    let top := (ts.map fun t => t / 4).foldl min 3
    let left := (ts.map fun t => t % 4).foldl min 3
    let bot := (ts.map fun t => t / 4).foldl max 0
    let right := (ts.map fun t => t % 4).foldl max 0
    some { top := top, left := left, h := bot + 1 - top, w := right + 1 - left }

/-- Every region is a filled rectangle, and unused tiles name no region (R85, R90). -/
def layoutOk (tmap tuse : Nat) : Bool :=
  (List.range 16).all (fun t => bitN tuse t || decide (bitsN tmap (4 * t) 4 = 0)) &&
    (List.range 16).all fun r => match regionRect tmap tuse r with
      | none => true
      | some q => decide ((regionTiles tmap tuse r).length = q.h * q.w)

def ArrRec.rect (a : ArrRec) (r : Nat) : Option Rect := regionRect a.tmap a.tuse r

/-- A region's weight registers. -/
def ArrRec.reg (a : ArrRec) (r : Nat) : RegionRec := a.regions.get {} r

/-- The active and the inactive weight register. -/
def RegionRec.active (g : RegionRec) : WReg := if g.sel then g.wb else g.wa
def RegionRec.inactive (g : RegionRec) : WReg := if g.sel then g.wa else g.wb

/-! Fields (R88 to R90). -/

def jARRAY (w : CmdWord) : Nat := fld w 8 3
def jREGION (w : CmdWord) : Nat := fld w 12 4
def jWFMT (w : CmdWord) : Nat := fld w 16 4
def jAFMT (w : CmdWord) : Nat := fld w 20 4
def jDFMT (w : CmdWord) : Nat := fld w 24 4
def jWB (w : CmdWord) : Int := signedN 9 (fld w 32 9)
def jM (w : CmdWord) : Nat := fld w 41 11
def jEBASE (w : CmdWord) : Nat := fld w 52 10

/-- Counter of an array command. -/
def arrCnt (w : CmdWord) : Nat :=
  if fld w 0 8 = 0x21 ∨ fld w 0 8 = 0x23 then fld w 224 10 else fld w 144 10

/-- Commands of both arrays of a fold complete DEGRADED (R101). -/
def State.arrFolded (s : State) (die a : Nat) : Bool :=
  bitN (s.fget (RF.ARR_LMAP_FOLDED die)) a ||
    decide (bitsN (s.reg (Reg.ARR_PHYS_STATE die)).toNat
      (4 * bitsN (s.reg (Reg.ARR_LMAP die)).toNat (4 * a) 4) 4 = 6)

/-! ARR_WLOAD (R79, R88). -/

/-- Rows of a weight tile a region takes: two MXFP4 rows a cell (R76). -/
def depthOf (f h : Nat) : Nat := if f = 5 then 128 * h else 64 * h

/-- Ranges a weight load reads. -/
def wloadRanges (w : CmdWord) : Ranges :=
  let f := jWFMT w
  let k := fld w 24 10
  let n := fld w 34 9
  (rowsOf (fld w 64 32) (32 * fld w 128 16) (elemBytes f k) n) ++
    (if isMx f then [(fld w 96 32, n * (k / 32))] else [])

/-- Conditions on a weight load (R88, R112). DESIGN CHOICE: WSCL (like ASCL and DSCL elsewhere) is to be zero for a
format without scales, but no refusal reason is given for a non-zero one; it is ignored (log entry 46). -/
def wloadConds (a : ArrRec) (w : CmdWord) : List (Bool × Nat) :=
  let f := jWFMT w
  let k := fld w 24 10
  let n := fld w 34 9
  let kmax := if f = 5 then 512 else 256
  [(decide (6 ≤ jARRAY w) || (a.rect (jREGION w)).isNone, 0x5301),
   (fcReserved f, 0x5201), (decide (7 ≤ f ∧ f ≤ 12), 0x5202),
   (decide (k = 0 ∨ kmax < k ∨ n = 0 ∨ 256 < n), 0x5302),
   (match a.rect (jREGION w) with
    | some q => decide (depthOf f q.h < k ∨ 64 * q.w < n) | none => false, 0x5303),
   (isMx f && decide (k % 32 ≠ 0), 0x5304),
   (rangesBad (wloadRanges w), 0x5407),
   (!reservedZero w [(0, 11), (12, 8), (24, 19), (64, 64), (128, 26)], 0x530B)]

/-- Parity bits of the bytes of an element code (R96). -/
def codeParity (f c : Nat) : List Nat := (leBytes ((elemBits f + 7) / 8) c).map parity

/-- The tile enters the inactive weight register. -/
def ArrRec.load (a : ArrRec) (s : State) (die : Nat) (w : CmdWord) : ArrRec :=
  let f := jWFMT w
  let k := fld w 24 10
  let n := fld w 34 9
  let cols := (List.range n).map fun i => s.sram die (fld w 64 32 + i * (32 * fld w 128 16)) (elemBytes f k)
  let elems := cols.flatMap fun bs => (List.range k).map fun i => elemCode f bs i
  let scl := if isMx f then (s.sram die (fld w 96 32) (n * (k / 32))).map fun b => b.toNat else []
  let t : WReg := { fmt := f, k := k, n := n, elems := elems, scales := scl,
                    res := elems.map fun c => (elemNum f c).residue, par := elems.flatMap (codeParity f) }
  let g := a.reg (jREGION w)
  let g1 := if g.sel then { g with wa := t } else { g with wb := t }
  { a with regions := a.regions.set {} (jREGION w) g1 }

/-! ARR_PASS and ARR_DRAIN (R78, R81, R89). -/

/-- Weight of column n, row k of a tile. -/
def WReg.num (t : WReg) (n k : Nat) : Num :=
  let c := t.elems.getD (n * t.k + k) 0
  if isMx t.fmt then mxNum t.fmt c (t.scales.getD (n * (t.k / 32) + k / 32) 0) else elemNum t.fmt c

/-- Stored residue of the weight of column n, row k. -/
def WReg.resAt (t : WReg) (n k : Nat) : Nat := t.res.getD (n * t.k + k) 0

/-- The parity bits of the weights a pass uses agree with the weights (R96). -/
def WReg.parityOk (t : WReg) : Bool := t.par == t.elems.flatMap (codeParity t.fmt)

/-- Register a command computes with or drains. -/
def passReg (a : ArrRec) (w : CmdWord) : WReg :=
  let g := a.reg (jREGION w)
  if fld w 0 8 = 0x21 ∧ bit w 28 then g.inactive else g.active

/-- Key of an accumulator entry of column n of a region's rectangle, region-relative entry e. -/
def accKey (q : Rect) (n e : Nat) : Nat := (64 * q.left + n) * 1024 + 256 * q.top + e

/-- Entries a command adds to or drains: (row m, column n). -/
def entriesOf (m n : Nat) : List (Nat × Nat) :=
  (List.range m).flatMap fun i => (List.range n).map fun c => (i, c)

/-- One entry after a pass (R51, R54, R57, R78): its stored residue advances by the residues predicted for the
products (R96); that of a BF16 entry is of its significand (R97). `ws` pairs each weight with its stored residue. -/
def accAfter (kind : Nat) (wb : Int) (old : Acc) (acc1 : Bool) (xs : List Num) (ws : List (Num × Nat)) : Acc × Nat :=
  let o : Acc := if acc1 then old else {}
  if kind = 1 then
    let r := (xs.zip ws).foldl (fun st p => macExact wb st p.1 p.2.1) (o.sum, o.nf, 0)
    let res := (xs.zip ws).foldl (fun a p => (a + prodResidue wb p.1 p.2.1 p.2.2) % 3) o.residue
    ({ kind := 1, wb := wb, sum := r.1, nf := r.2.1, count := o.count + ws.length, residue := res }, r.2.2)
  else
    let r := (xs.zip ws).foldl (fun st p => macBf16 st p.1 p.2.1) (o.f32, o.nf, 0)
    ({ kind := 2, f32 := r.1, nf := r.2.1, count := o.count + ws.length, residue := (d32 r.1).residue },
      orF r.2.2 (if (d32 r.1).finite then 0 else nfNF))

/-- An entry's sum agrees with its stored residue (R96 step 4). -/
def Acc.resOk (e : Acc) : Bool :=
  decide (e.residue = if e.kind = 2 then (d32 e.f32).residue else residue3 e.sum)

/-- The whole pass: the array after it, with NFLAGS. -/
def ArrRec.pass (a : ArrRec) (s : State) (die : Nat) (w : CmdWord) (q : Rect) : ArrRec × Nat :=
  let t := passReg a w
  let kind := pairing (jWFMT w) (jAFMT w)
  let r := jREGION w
  let acts := (List.range (jM w)).map fun m =>
    s.vecAt die (jAFMT w) (fld w 64 32 + m * (32 * fld w 192 16)) (fld w 96 32 + m * (t.k / 32)) t.k
  let cols := (List.range t.n).map fun n => (List.range t.k).map fun k => (t.num n k, t.resAt n k)
  let res := (entriesOf (jM w) t.n).foldl (fun (x : Tbl Acc × Nat) (p : Nat × Nat) =>
    let key := accKey q p.2 (jEBASE w + p.1)
    let (e, f) := accAfter kind (jWB w) (x.1.get {} key) (bit w 29) (acts.getD p.1 []) (cols.getD p.2 [])
    (x.1.set {} key e, orF x.2 f)) (a.acc, 0)
  let order := (List.range (jM w)).foldl (fun (o : Tbl (Nat × Nat)) m =>
    if kind = 2 then o.put (r * 1024 + jEBASE w + m) (fld w 448 32, fld w 288 32 + t.k)
    else o.del (r * 1024 + jEBASE w + m)) a.order
  let g := a.reg r
  let g1 := if bit w 28 then { g with sel := !g.sel } else g
  ({ a with acc := res.1, order := order, regions := a.regions.set {} r g1 }, res.2)

/-- The residue and parity checks of a pass hold: of its weights, and of every entry it has advanced (R96). -/
def ArrRec.checks (a : ArrRec) (t : WReg) (w : CmdWord) (q : Rect) : Bool :=
  t.parityOk && (entriesOf (jM w) t.n).all fun p => (a.acc.get {} (accKey q p.2 (jEBASE w + p.1))).resOk

/-- Bytes of a drained row, without scales. -/
def drainBytes (f n : Nat) : Nat := if f = 9 then n else elemBytes f n

/-- Global index of block j of drained row m (R83). -/
def blkIndex (w : CmdWord) (n m j : Nat) : Nat := fld w 416 32 + m * (n / 128) + j

/-- Ranges a drain writes, and those a GRAD8 drain reads. -/
def drainRanges (w : CmdWord) (n : Nat) : Ranges :=
  let f := jDFMT w
  let rows := rowsOf (fld w 128 32) (32 * fld w 208 16) (drainBytes f n) (jM w)
  let last := blkIndex w n (jM w) 0
  if f = 9 then
    rows ++ [(fld w 384 32 + fld w 416 32 / 8, (last + 7) / 8 - fld w 416 32 / 8)]
  else if isMx f then rows ++ [(fld w 160 32, jM w * ((n + 31) / 32))]
  else rows

def gradRanges (w : CmdWord) (n : Nat) : Ranges :=
  if jDFMT w = 9 then
    rowsOf (fld w 320 32) (32 * fld w 208 16) n (jM w) ++
      [(fld w 352 32 + 2 * fld w 416 32, 2 * (jM w * (n / 128)))]
  else []

/-- Ranges a pass reads. -/
def passRanges (w : CmdWord) (k : Nat) : Ranges :=
  rowsOf (fld w 64 32) (32 * fld w 192 16) (elemBytes (jAFMT w) k) (jM w) ++
    (if isMx (jAFMT w) then [(fld w 96 32, jM w * (k / 32))] else [])

/-- Scale pair of a global block: (EQ, ER) (R47). -/
def State.scalePair (s : State) (die : Nat) (w : CmdWord) (idx : Nat) : Nat × Nat :=
  let b := s.sram die (fld w 352 32 + 2 * idx) 2
  ((byteAt b 0).toNat, (byteAt b 1).toNat)

/-- Conditions on the drain part of a command, whose entries are of kind `kind` (0 where all are cleared). -/
def drainConds (s : State) (die : Nat) (w : CmdWord) (kind : Nat) (t : WReg) :
    List (Bool × Nat) :=
  let f := jDFMT w
  let pairBad := fun (p : Nat × Nat) => decide (p.1 < 7 ∨ 254 < p.1 ∨ p.2 < 7 ∨ 254 < p.2)
  [(decide (f = 10 ∨ f = 12) || (decide (f = 11) && decide (kind = 2)), 0x5309),
   (bit w 31 && decide (f = 8 ∨ f = 11), 0x5208),
   (bit w 31 && decide (f ≠ 11) && decide (fld w 240 16 = 0), 0x5206),
   (decide (f = 9) && decide (t.k ≠ 0) && decide (t.n ≠ 128 ∧ t.n ≠ 256), 0x5304),
   (decide (t.k ≠ 0) && rangesBad (drainRanges w t.n ++ gradRanges w t.n), 0x5407),
   (decide (f = 9 ∧ t.k ≠ 0) && (List.range (jM w * (t.n / 128))).any fun i =>
      pairBad (s.scalePair die w (fld w 416 32 + i)), 0x5207)]

/-- Entries the command names, as they stand. -/
def oldEntries (a : ArrRec) (w : CmdWord) (q : Option Rect) (n : Nat) : List Acc :=
  match q with
  | none => []
  | some q => (entriesOf (jM w) n).map fun p => a.acc.get {} (accKey q p.2 (jEBASE w + p.1))

/-- Every condition of R74, R92 and R112 on ARR_PASS and ARR_DRAIN. DESIGN CHOICE: an MXFP4 tile deeper than the
64 rows a tile has with MXFP8 activations meets 0x5303 in that pass; the rules name no such case (log entry 47). -/
def passConds (s : State) (die : Nat) (a : ArrRec) (w : CmdWord) : List (Bool × Nat) :=
  let only : Bool := decide (fld w 0 8 = 0x23)
  let wf := jWFMT w
  let af := jAFMT w
  let t := passReg a w
  let q := a.rect (jREGION w)
  let old := oldEntries a w q t.n
  let kind := pairing wf af
  let acc1 := bit w 29
  let dkind := if only then (old.map fun e => e.kind).foldl max 0 else kind
  [(decide (6 ≤ jARRAY w) || q.isNone, 0x5301),
   (!reservedZero w [(0, 11), (12, 50), (64, 64), (128, 64), (192, 42), (240, 16), (256, 64), (320, 64),
      (384, 64), (448, 32)], 0x530B),
   (reservedStream (fld w 240 16), 0x5501),
   (fcReserved wf || fcReserved af || fcReserved (jDFMT w), 0x5201),
   (decide (jM w = 0 ∨ 1024 < jM w), 0x5302),
   (match q with | some q => decide (256 * q.h < jEBASE w + jM w) | none => false, 0x5305),
   (decide (t.k = 0), 0x5303)] ++
  (if only then
    [(decide (wf ≠ 0 ∨ af ≠ 0 ∨ fld w 64 32 ≠ 0 ∨ fld w 96 32 ≠ 0 ∨ fld w 192 16 ≠ 0) || !bit w 30, 0x530A),
     (old.any (fun e => decide (e.kind ≠ 0 ∧ e.kind ≠ dkind) ||
        (decide (e.kind = 1) && decide (e.wb ≠ jWB w))), 0x5205)]
  else
    [(decide (kind = 0), 0x5202),
     (decide (wf = 0 ∧ af = 0 ∧ jWB w ≠ 0), 0x5203),
     (decide (t.fmt ≠ wf), 0x5303),
     (match q with
      | some q => decide ((if wf = 5 ∧ af = 5 then 128 * q.h else 64 * q.h) < t.k) | none => false, 0x5303),
     (acc1 && old.any (fun e => decide (e.kind ≠ 0 ∧ e.kind ≠ kind) ||
        (decide (e.kind = 1) && decide (e.wb ≠ jWB w))), 0x5205),
     (acc1 && old.any (fun e => decide (2 ^ 20 < e.count + t.k)), 0x5204),
     (acc1 && decide (kind = 2) && (List.range (jM w)).any fun m =>
        match a.order.get (2 ^ 32, 0) (jREGION w * 1024 + jEBASE w + m) with
        | (sg, ke) => decide (sg ≠ 2 ^ 32) && decide (sg ≠ fld w 448 32 ∨ fld w 288 32 < ke), 0x5307),
     (decide (t.k ≠ 0) && rangesBad (passRanges w t.k), 0x5407)]) ++
  (if bit w 30 then drainConds s die w dkind t else [])

/-- What a drain produces. -/
structure DrainOut where
  writes : List (Nat × Bytes) := []
  bitw : List (Nat × Nat × Bool) := []
  sours : List Nat := []
  flags : Nat := 0
  deriving DecidableEq, Repr

def DrainOut.add (a b : DrainOut) : DrainOut :=
  { writes := a.writes ++ b.writes, bitw := a.bitw ++ b.bitw, sours := a.sours ++ b.sours,
    flags := orF a.flags b.flags }

/-- Value of an entry as a drain sees it, with ASAT where its sum left the range (R53, R54). -/
def accNum (wb : Int) (e : Acc) : Num × Nat :=
  if e.kind = 2 then (if e.nf then .nan else d32 e.f32, 0) else drainNum wb e.sum e.nf

/-- An ACC64 value (R82). DESIGN CHOICE: a drained entry with NF set also sets NF in the command's NFLAGS; R82 names
only the bit of the value (log entry 48). -/
def acc64 (e : Acc) : Nat × Nat :=
  let (x, f) := drainSum e.sum
  (wrapI 62 x + (if f = 0 then 0 else 2 ^ 62) + (if e.nf then 2 ^ 63 else 0),
    orF f (if e.nf then nfNF else 0))

/-- One 128-value block of a GRAD8 drain (R64 to R68, R83): row m, block j. -/
def State.gradBlock (s : State) (die : Nat) (w : CmdWord) (n m j : Nat) (us : Draws)
    (xs : List (Num × Nat)) : DrainOut :=
  let idx := blkIndex w n m j
  let (eq, er) := s.scalePair die w idx
  let roff := fld w 320 32 + m * (32 * fld w 208 16) + 128 * j
  let rho := s.sram die roff 128
  let dst := fld w 128 32 + m * (32 * fld w 208 16) + 128 * j
  let nonfin := xs.any fun x => !x.1.finite
  let asat := xs.any fun x => decide (x.2 ≠ 0)
  let so := (fld w 384 32 + idx / 8, idx % 8)
  if nonfin || asat then
    { writes := [(dst, List.replicate 128 0)], bitw := [(so.1, so.2, true)], sours := [idx],
      flags := orF nfSOURED (orF (if nonfin then nfNF else 0) (if asat then nfASAT else 0)) }
  else
    let es := xs.zipIdx.map fun (x, i) =>
      gradElem (rndAt us (128 * j + i)) x.1.dy (signedN 8 (byteAt rho i).toNat) eq er
    { writes := [(dst, es.map fun e => BitVec.ofNat 8 (wrapI 8 e.1)),
                 (roff, es.map fun e => BitVec.ofNat 8 (wrapI 8 e.2.1)),
                 (fld w 352 32 + 2 * idx + 1, [BitVec.ofNat 8 eq])],
      bitw := [(so.1, so.2, false)], flags := es.foldl (fun a e => orF a e.2.2) 0 }

/-- One drained row (R58 to R61, R80 to R84). -/
def State.drainRow (s : State) (die : Nat) (w : CmdWord) (seed : Seed) (n m : Nat) (es : List Acc) :
    DrainOut :=
  let f := jDFMT w
  let us : Draws := if bit w 31 then some fun i => seed.draw i m else none
  let dst := fld w 128 32 + m * (32 * fld w 208 16)
  if f = 11 then
    let cs := es.map acc64
    { writes := [(dst, packCodes 11 (cs.map fun c => c.1))], flags := cs.foldl (fun a c => orF a c.2) 0 }
  else
    let xs := es.map (accNum (jWB w))
    let af := xs.foldl (fun a x => orF a x.2) 0
    if f = 9 then
      (List.range (n / 128)).foldl (fun d j =>
        d.add (s.gradBlock die w n m j us ((xs.drop (128 * j)).take 128))) {}
    else
      let (bs, sc, fl) := convRow f us (xs.map fun x => x.1)
      { writes := (dst, bs) :: (if isMx f then [(fld w 160 32 + m * ((n + 31) / 32), sc)] else []),
        flags := orF af fl }

/-- A whole drain of the array's entries. -/
def State.drain (s : State) (die : Nat) (a : ArrRec) (w : CmdWord) (q : Rect) (seed : Seed) (n : Nat) :
    DrainOut :=
  (List.range (jM w)).foldl (fun d m =>
    let es := (List.range n).map fun c => a.acc.get {} (accKey q c (jEBASE w + m))
    d.add (s.drainRow die w seed n m es)) {}

/-- A die of the module has written its NUM_SOUR_ORIGIN record in a cap attempt (R70). -/
def State.sourKnown (s : State) (k : CapKey) : Bool :=
  (List.range 8).any fun d => decide (s.capState d ≠ 0) && decide ((s.dieCap d).key = k) && (s.dieCap d).sourLogged

/-- NUM_SOUR_ORIGIN: the module's first soured block of a step attempt (R70, R83). DESIGN CHOICE: R70 does not say
what attempt a drain with no cap open belongs to; each is taken as an attempt of its own and writes a record
(log entry 49). -/
def State.sourOrigin (s : State) (die step tile idx : Nat) : State :=
  let c := s.dieCap die
  if decide (s.capState die ≠ 0) && s.sourKnown c.key then s
  else
    let s1 := if s.capState die = 0 then s else s.setDieCap die { c with sourLogged := true }
    (s1.fset (RF.COMB_ERR_SOUR die) 1).dieRec die 0x8101 0 1 (pay [(4, step), (4, tile), (4, idx)])

/-! The queue of a logical array (R87, R91, R92). -/

def sameJob (x y : Job) : Bool := x.core == y.core && x.seq == y.seq

def isLayout (j : Job) : Bool := decide (fld j.word 0 8 = 0x22)

/-- The first queued command that may begin: a layout after every earlier command, another after every
earlier layout and every earlier command of its region. -/
def startable : List Job → List Job → Option Job
  | _, [] => none
  | before, j :: t =>
    let ready := if isLayout j then decide (before = []) else before.all fun b =>
      !isLayout b && decide (jREGION b.word ≠ jREGION j.word)
    if !j.started && ready then some j else startable (before ++ [j]) t

/-- ARR_STAT.BUSY follows the queue. -/
def State.arrBusy (s : State) (die a : Nat) : State :=
  s.fsetBit (RF.ARR_STAT_BUSY die) a ((s.arr die a).queue.any fun j => j.started)

/-- A queued command replaced. -/
def ArrRec.putJob (a : ArrRec) (j : Job) : ArrRec :=
  { a with queue := a.queue.map fun x => if sameJob x j then j else x }

def ArrRec.dropJob (a : ArrRec) (j : Job) : ArrRec :=
  { a with queue := a.queue.filter fun x => !sameJob x j }

/-- A command that passed its checks begins: its reads, and its results held until it completes. An
uncorrectable read leaves the array as it was (R137; log entry 7). A pass whose residue or parity check fails
completes FENCED, and the die votes failed (R96, R98); the withdrawal is ARR_RESIDUE_FAULT's. -/
def State.arrBegin (s : State) (die a : Nat) (j : Job) (q : Rect) : State :=
  let w := j.word
  let ar := s.arr die a
  let opc := fld w 0 8
  let deg := s.arrFolded die a
  let run := { j with started := true }
  let s := s.markBusy (2 * die)
  if opc = 0x22 then
    s.setArr die a { (ar.putJob { run with status := okOr deg }) with
      tmap := fld w 64 64, tuse := fld w 128 16, regions := [], acc := [], order := [] }
  else if opc = 0x20 then
    match s.sramReads die (wloadRanges w) with
    | (s1, false) => s1.setArr die a (ar.putJob { run with status := stECC })
    | (s1, true) =>
      s1.setArr die a ((ar.load s1 die w).putJob
        { run with status := okOr (deg || s.rangesEmu die (wloadRanges w)) })
  else
    let t := passReg ar w
    let rds := (if opc = 0x21 then passRanges w t.k else []) ++
      (if bit w 30 then gradRanges w t.n else [])
    let wrs := if bit w 30 then drainRanges w t.n else []
    match s.sramReads die rds with
    | (s1, false) => s1.setArr die a (ar.putJob { run with status := stECC })
    | (s1, true) =>
      let (ar1, f1) := if opc = 0x21 then ar.pass s1 die w q else (ar, 0)
      let sound := decide (opc ≠ 0x21) || ar1.checks t w q
      let seed := j.seed (fld w 240 16) (fld w 256 32)
      let d : DrainOut := if bit w 30 then s1.drain die ar1 w q seed t.n else {}
      let done := { run with writes := d.writes, bitw := d.bitw, nflags := orF f1 d.flags,
                             status := if sound then okOr (deg || s.rangesEmu die (rds ++ wrs)) else stFENCED }
      let s2 := (if sound then s1 else s1.voteFailed die).setArr die a (ar1.putJob done)
      match d.sours with
      | [] => s2
      | i :: _ => s2.sourOrigin die j.ctx.step (fld w 256 32) i

/-- The array front end takes a command from the queue (R92). -/
def State.arrTake (s : State) (die a : Nat) (j : Job) : State :=
  let ar := s.arr die a
  let opc := fld j.word 0 8
  let cs := if opc = 0x20 then wloadConds ar j.word
    else if opc = 0x22 then
      [(decide (6 ≤ jARRAY j.word), 0x5301),
       (!reservedZero j.word [(0, 11), (64, 64), (128, 26)], 0x530B),
       (!layoutOk (fld j.word 64 64) (fld j.word 128 16), 0x5306)]
    else passConds s die ar j.word
  match pick cs with
  | some reason => (s.setArr die a (ar.dropJob j)).refuseJob j reason
  | none => s.arrBegin die a j ((ar.rect (jREGION j.word)).getD ⟨0, 0, 4, 4⟩)

/-- Every queued command that may begin does. -/
def State.arrPump : Nat → State → Nat → Nat → State
  | 0, s, _, _ => s
  | n + 1, s, die, a =>
    match startable [] (s.arr die a).queue with
    | none => s
    | some j => State.arrPump n (s.arrTake die a j) die a

def State.arrRun (s : State) (die a : Nat) : State :=
  (State.arrPump ((s.arr die a).queue.length) s die a).arrBusy die a

/-- An array command enters its array's queue. -/
def State.arrIssue (s : State) (core opc : Nat) : State :=
  s.issueTo core opc fun s seq w =>
    let die := dieOf core
    let a := jARRAY w
    let j := s.mkJob core seq w
    if 6 ≤ a then
      let cs := if opc = 0x20 then wloadConds {} w
        else if opc = 0x22 then
          [(true, 0x5301), (!reservedZero w [(0, 11), (64, 64), (128, 26)], 0x530B),
           (!layoutOk (fld w 64 64) (fld w 128 16), 0x5306)]
        else passConds s die {} w
      s.refuseJob j ((pick cs).getD 0x5301)
    else
      let ar := s.arr die a
      (s.setArr die a { ar with queue := ar.queue ++ [j] }).arrRun die a

/-- ARR_WLOAD loads a tile into the inactive weight register of its region (R79, R88). -/
def execArrWload (core : CoreId) (s : State) : Host.Outcome State Fault Refusal :=
  .next (s.arrIssue core.val 0x20)

/-- ARR_PASS streams activations across the tile and adds into entries (R78, R89). -/
def execArrPass (core : CoreId) (s : State) : Host.Outcome State Fault Refusal :=
  .next (s.arrIssue core.val 0x21)

/-- ARR_LAYOUT redivides the array once it is idle (R85 to R87, R90). -/
def execArrLayout (core : CoreId) (s : State) : Host.Outcome State Fault Refusal :=
  .next (s.arrIssue core.val 0x22)

/-- ARR_DRAIN converts entries and writes them to SRAM (R81 to R84, R89). -/
def execArrDrain (core : CoreId) (s : State) : Host.Outcome State Fault Refusal :=
  .next (s.arrIssue core.val 0x23)

/-- One bit of SRAM written (R83). -/
def State.sramBit (s : State) (die off b : Nat) (v : Bool) : State :=
  let key := die * 2 ^ 40 + sramBase + off
  s.setByte key (putFld (s.byte key) b 1 (b2n v))

/-- The held results of a command are written. -/
def State.commitWrites (s : State) (die : Nat) (j : Job) : State :=
  j.bitw.foldl (fun s b => s.sramBit die b.1 b.2.1 b.2.2) (s.sramPut die j.writes)

/-- ARR_COMMAND_COMPLETE: the running command of a region writes its results, passes the residue check
and completes with its counter (R91); the next ones begin. -/
def execArrCommandComplete (die : DieId) (arr : Fin 6) (region : Fin 16) (s : State) :
    Host.Outcome State Fault Refusal :=
  let ar := s.arr die.val arr.val
  .next (match ar.queue.find? fun j => j.started && (isLayout j || decide (jREGION j.word = region.val)) with
    | none => s
    | some j =>
      let s1 := (s.commitWrites die.val j).setArr die.val arr.val (ar.dropJob j)
      let status := if j.status = stOK ∧ s.arrFolded die.val arr.val then stDEGRADED else j.status
      (s1.finish j.core j.seq (arrCnt j.word) status 0 j.nflags).arrRun die.val arr.val)

end Sys2Proof.Machine
end

