-- ==== Sys2Proof/Machine/Framing.lean ====
section
/-! DEFINITION. The framing of optical ports (R292 to R294, R300): the cell stream and the overhead stream cut into
pieces that go to the lanes in turn, control slots, and what the FEC of a codeword does. -/

namespace Sys2Proof.Machine

/-- Lanes per direction of a port (R291). -/
def portLanes (p : Nat) : Nat := if p < 32 then 16 else 192

/-- Bits of a piece: a block of the cell stream, the overhead of one codeword (R292 to R294). -/
def blockBits : Nat := 320
def ovhBits : Nat := 20

/-- Whole pieces of `z` bits leave the stream: piece k on lane k mod n, as (lane, k, bits). -/
def Stripe.cut (z n : Nat) : Nat → Stripe → Stripe × List (Nat × Nat × Nat)
  | 0, t => (t, [])
  | fuel + 1, t =>
    if t.len < z then (t, [])
    else
      let r := Stripe.cut z n fuel { next := t.next + 1, val := t.val / 2 ^ z, len := t.len - z }
      (r.1, (t.next % n, t.next, t.val % 2 ^ z) :: r.2)

/-- `len` further bits join the stream, behind those not yet cut. -/
def Stripe.push (z n : Nat) (t : Stripe) (v len : Nat) : Stripe × List (Nat × Nat × Nat) :=
  Stripe.cut z n (len / z + 1) { t with val := t.val + 2 ^ t.len * (v % 2 ^ len), len := t.len + len }

/-- The receiver's inverse: block k of the stream, read from lane k mod n (R293). -/
def deskew (n : Nat) (lanes : List (List Nat)) (count : Nat) : List Nat :=
  (List.range count).map fun k => (lanes.getD (k % n) []).getD (k / n) 0

/-- The 528 wire bits of a cell: its tag, least significant byte first, then its bytes (R219). -/
def wireBits (tag : Nat) (c : CellW) : Nat := tag % 2 ^ 16 + 2 ^ 16 * c.toNat

/-- A control slot: the marker 0b0110 and a control word, least significant bit first (R294). -/
def ctlSlot (cw : Nat) : Nat := 6 + 16 * cw

/-- Skew between lanes that the receiver tolerates, in nanoseconds; symbol errors that a codeword corrects (R292,
R293). -/
def skewMax : Nat := 40
def fecMax : Nat := 15

/-- The lanes of a received cell lie within the tolerated skew. -/
def skewOk (ls : List LaneRx) : Bool :=
  let ks := ls.map fun l => l.skew.toNat
  decide (ks.foldl max 0 ≤ ks.foldl min 255 + skewMax)

end Sys2Proof.Machine
end

