-- ==== Sys2Proof/Machine/CoreCmds.lean ====
section
/-! DEFINITION. Commands a worker core executes itself, and the events of waiting cores: NOP, END, CHAIN,
WAIT, SIG, CSET, BAR, WAIT_TIMEOUT, CORE_STALL_RESUME (R115 to R120, R128 to R134). -/

namespace Sys2Proof.Machine

/-- Reserved bits of a word, outside the listed fields, are not all zero: reason 0x5409 (R151). -/
def resv (w : CmdWord) (fields : List (Nat × Nat)) : Bool × Nat := (!reservedZero w fields, 0x5409)

/-- NOP does nothing and completes OK (R118). -/
def execNop (core : CoreId) (s : State) : Host.Outcome State Fault Refusal :=
  .next (s.issue core.val 0x00 fun s seq w =>
    s.refuseOr core.val seq 0x00 [resv w [(0, 8)]] fun s => s.completeOK core.val seq)

/-- The kernel ends: no further command issues, and the completion waits for the issued ones. -/
def State.endKernel (s : State) (core : Nat) : State :=
  (s.setCoreRec core { s.coreRec core with block := .ended }).kernelTryEnd core

/-- END ends the kernel, even when it is refused (R119). -/
def execEndK (core : CoreId) (s : State) : Host.Outcome State Fault Refusal :=
  .next (s.issue core.val 0x01 fun s seq w =>
    (s.refuseOr core.val seq 0x01 [resv w [(0, 8)]] fun s => s.completeOK core.val seq).endKernel core.val)

/-- CHAIN continues the fetch at ADDR (R115, R133): the words fetched ahead are given up, and the core stalls until the
first word from there arrives (R117, R120). An address that no command word can lie at is refused
with the reason of its range (log entry 6). -/
def execChain (core : CoreId) (s : State) : Host.Outcome State Fault Refusal :=
  .next (s.issue core.val 0x02 fun s seq w =>
    let addr := fld w 64 40
    s.refuseOr core.val seq 0x02
      ([resv w [(0, 8), (64, 40)], (decide (addr % 64 ≠ 0), 0x5406)] ++
        s.rangeConds (dieOf core.val) addr 64) fun s =>
      ((s.setCoreRec core.val { s.coreRec core.val with pc := addr, buf := [], block := .fetch }).setCoreState
        core.val csSTALL).completeOK core.val seq)

/-- Conditions of a WAIT word: (counter, target) (R133). -/
def waitConds (w : CmdWord) : List (Nat × Nat) :=
  (List.range (fld w 8 2 + 1)).map fun i => (fld w (64 * (i + 1)) 10, fld w (64 * (i + 1) + 32) 32)

/-- WAIT holds the core until every condition is satisfied (R129, R130, R132). -/
def execWait (core : CoreId) (s : State) : Host.Outcome State Fault Refusal :=
  .next (s.issue core.val 0x03 fun s seq w =>
    let fields := [(0, 10), (16, 16), (64, 10), (96, 32), (128, 10), (160, 32), (192, 10), (224, 32),
      (256, 10), (288, 32)]
    s.refuseOr core.val seq 0x03 [resv w fields] fun s =>
      let conds := waitConds w
      if s.condsHold (dieOf core.val) conds then s.completeOK core.val seq
      else
        let tmo := fld w 16 16
        let ex : Option Nat := if tmo = 0 then none else some (s.clk + 1000 * tmo)
        (s.setCoreRec core.val { s.coreRec core.val with block := .wait conds ex }).setCoreState
          core.val csWAIT)

/-- A core's placement is no longer its die's: its copies and remote signals are stale (R140). -/
def State.staleCore (s : State) (core : Nat) (c : Ctx) : Bool :=
  decide (c.pgen ≠ s.diePgen (dieOf core) ∨ c.job ≠ s.dieJob (dieOf core))

/-- A copy or remote signal completed STALE (R140, R149). -/
def State.countStale (s : State) (die : Nat) : State := s.finc (RF.WRK_CE_STAT_STALE_CNT die) 1

/-- A SIG acts: on a counter of its own die, or by an ADD cell (R133, R134, R140). -/
def State.sigAct (s : State) (core seq : Nat) (w : CmdWord) : State :=
  let die := dieOf core
  let c := (s.coreRec core).ctx
  if bit w 9 then
    if s.staleCore core c then (s.countStale die).completeRaw core seq stSTALE 0 0
    else s.sendAdd die (.cmd core seq) (fld w 64 12) (fld w 76 4) c.job (cntOff (fld w 16 10)) c.pgen
      (fld w 32 32)
  else (s.completeOK core seq).cntAdd die (fld w 16 10) (fld w 32 32)

/-- Some COPY that the core issued before command `seq` has not completed. -/
def CoreRec.copyBefore (r : CoreRec) (seq : Nat) : Bool :=
  r.outst.any fun o => decide (o.2 = 0x50) && decide (o.1 < seq)

/-- Fenced signals whose earlier copies have all completed act, in issue order (R133). -/
def State.sigsTry (s : State) (core : Nat) : State :=
  let r := s.coreRec core
  let go := r.sigs.filter fun x => !r.copyBefore x.1
  let s1 := if go = [] then s
    else s.setCoreRec core { r with sigs := r.sigs.filter fun x => r.copyBefore x.1 }
  go.foldl (fun s x => s.sigAct core x.1 x.2) s1

/-- SIG adds to a counter here or on another die (R128, R133, R134, R209). -/
def execSig (core : CoreId) (s : State) : Host.Outcome State Fault Refusal :=
  .next (s.issue core.val 0x04 fun s seq w =>
    s.refuseOr core.val seq 0x04
      [resv w [(0, 10), (16, 10), (32, 32), (64, 16)],
       (bit w 9 && decide (8 ≤ fld w 76 4), 0x5703)] fun s =>
      let r := s.coreRec core.val
      if bit w 8 && r.copyBefore seq then
        s.setCoreRec core.val { r with sigs := r.sigs ++ [(seq, w)] }
      else s.sigAct core.val seq w)

/-- CSET sets a counter (R128, R133). -/
def execCset (core : CoreId) (s : State) : Host.Outcome State Fault Refusal :=
  .next (s.issue core.val 0x05 fun s seq w =>
    s.refuseOr core.val seq 0x05 [resv w [(0, 8), (16, 10), (32, 32)]] fun s =>
      (s.completeOK core.val seq).cntSet (dieOf core.val) (fld w 16 10) (fld w 32 32))

/-- Barrier unit of a die. -/
def State.barRec (s : State) (die u : Nat) : BarRec := s.core.bars.get {} (die * 32 + u)

def State.setBar (s : State) (die u : Nat) (b : BarRec) : State :=
  { s with core := { s.core with bars := s.core.bars.set {} (die * 32 + u) b } }

/-- A core leaves the barrier of a unit: its BAR, the last command it issued, completes. A core stopped at the
barrier has its arrival counted and nothing to resume, wherever it waits now (R131). -/
def State.barLeave (s : State) (unit core : Nat) : State :=
  let r := s.coreRec core
  if s.coreState core = csBAR ∧ r.block = Block.bar unit then
    ((s.setCoreRec core { r with block := .none }).setCoreState core csRUN).completeRaw core (r.seq - 1)
      stOK 0 0
  else s

/-- A core arrives at a barrier unit; the last arrival of the round releases every core (R131). -/
def State.barArrive (s : State) (core unit npart : Nat) : State :=
  let die := dieOf core
  let b := s.barRec die unit
  let cores := b.cores ++ [core]
  let s1 := (s.setCoreRec core { s.coreRec core with block := .bar unit }).setCoreState core csBAR
  if npart ≤ cores.length then cores.foldl (fun s c => s.barLeave unit c) (s1.setBar die unit {})
  else s1.setBar die unit { npart := npart, cores := cores }

/-- BAR: an arrival at a barrier unit (R131, R133, R134). -/
def execBar (core : CoreId) (s : State) : Host.Outcome State Fault Refusal :=
  .next (s.issue core.val 0x06 fun s seq w =>
    let n := fld w 16 9
    let b := s.barRec (dieOf core.val) (fld w 8 5)
    s.refuseOr core.val seq 0x06
      [resv w [(0, 13), (16, 9)], (decide (n = 0 ∨ 256 < n), 0x5406),
       (decide (b.cores ≠ [] ∧ b.npart ≠ n), 0x540A)] fun s =>
      s.barArrive core.val (fld w 8 5) n)

/-- WAIT_TIMEOUT: the core halts, WRK_WAIT_TIMEOUT is written, the kernel completes TIMEOUT (R132). -/
def execWaitTimeout (core : CoreId) (s : State) : Host.Outcome State Fault Refusal :=
  let die := dieOf core.val
  let r := s.coreRec core.val
  .next (match r.block with
    | .wait conds (some _) =>
      if s.coreState core.val = csWAIT then
        let c := (conds.find? fun c => !satisfied (s.cnt die c.1) c.2).getD (0, 0)
        let s1 := s.dieRec die 0x8201 core.val 2
          (pay [(2, core.val), (2, c.1), (4, s.cnt die c.1), (4, c.2)])
        let s2 := s1.setCoreRec core.val { r with ending := some stTIMEOUT, block := .none }
        (s2.setCoreState core.val csHALT).completeRaw core.val (r.seq - 1) stTIMEOUT 0 0
      else s
    | _ => s)

/-- CORE_STALL_RESUME: the target queue has room again, or the word has arrived (R117, R120). -/
def execCoreStallResume (core : CoreId) (s : State) : Host.Outcome State Fault Refusal :=
  let r := s.coreRec core.val
  .next (if s.coreState core.val ≠ csSTALL then s
  else if r.block = Block.fetch then (s.fillBuf core.val 1).arrived core.val
  else if s.targetFull (dieOf core.val) (s.peekWord core.val) then s
  else (s.setCoreRec core.val { r with block := .none }).setCoreState core.val csRUN)

end Sys2Proof.Machine
end

