-- ==== Sys2Proof/Machine/HostOps.lean ====
section
/-! DEFINITION. Operations of the host interface: DMA windows, read requests and tags, the host-write
buffer, the data path of HDMA, ring errors (R355 to R360, R366, R367, R370, R371). -/

namespace Sys2Proof.Machine

/-! DMA windows (R355 to R357). -/

/-- Window w of a function permits [addr, addr + len) in a direction. -/
def State.windowOk (s : State) (fn w addr len : Nat) (write : Bool) : Bool :=
  let b := (s.reg (Reg.PCI_DMAW_BASE fn w)).toNat
  let l := (s.reg (Reg.PCI_DMAW_LIM fn w)).toNat
  (if write then bitN b 1 else bitN b 0) && decide (b / 4096 * 4096 ≤ addr) &&
    decide (addr + len ≤ l / 4096 * 4096)

/-- The whole range lies in one valid window of the function that permits the direction. -/
def State.inWindows (s : State) (fn addr len : Nat) (write : Bool) : Bool :=
  decide (s.host.dmaStop.get 0 fn = 0) &&
    (List.range 16).any fun w => s.windowOk fn w addr len write

/-- A request blocked by the check: counted, and recorded at most once per 1 ms per function. -/
def State.dmaBlock (s : State) (fn kind ring addr : Nat) : State :=
  (s.finc (RF.PCI_DMA_STAT_BLOCKED fn) 1).paced (0x8802 * 64 + fn) 1000000 fun s =>
    s.hiveRec 0x8802 0 1 (pay [(1, fn), (1, kind), (2, ring), (8, addr)])

/-- Bus master enable of a function (R371). -/
def State.bmeOn (s : State) (fn : Nat) : Bool := bitN s.host.bme fn

/-! Rings. -/

def State.ringRec (s : State) (ring : Nat) : RingRec := s.host.rings.get {} ring

def State.setRing (s : State) (ring : Nat) (r : RingRec) : State :=
  { s with host := { s.host with rings := s.host.rings.set {} ring r } }

/-- Function that owns a ring; state of a ring (R360): 0 DISABLED, 1 ACTIVE, 2 FROZEN, 3 ERROR. -/
def State.ringFn (s : State) (ring : Nat) : Nat := s.fget (RF.RING_CFG_OWNER ring)
def State.ringState (s : State) (ring : Nat) : Nat := s.fget (RF.RING_STAT_STATE ring)

/-- Entries of a queue from its LOG2 field. -/
def qEntries (log2 : Nat) : Nat := 2 ^ (log2 + 6)

/-- The ring in use of a function and local index. -/
def State.ringOf (s : State) (fn lidx : Nat) : Option Nat :=
  findFrom (fun n => decide (s.ringFn n = fn ∧ s.fget (RF.RING_CFG_LIDX n) = lidx ∧
    s.ringState n ≠ 0)) 1024 0

/-- A ring enters ERROR: RING_ERROR record, vector 0 of its function (R360, R367, R432, R485). -/
def State.ringError (s : State) (ring cause : Nat) : State :=
  if s.ringState ring = 3 then s
  else
    let fn := s.ringFn ring
    let s1 := ((s.fset (RF.RING_STAT_STATE ring) 3).fset (RF.RING_STAT_CAUSE ring) cause).hiveRec 0x8804
      0 2 (pay [(1, fn), (1, cause), (2, ring)])
    if fn = 0 then s1.isum 1 else s1.raise fn 0

/-! Completions (R365 to R367). -/

/-- Unread entries of a ring's completion queue. -/
def State.cqUsed (s : State) (ring : Nat) : Nat :=
  let n := qEntries (s.fget (RF.RING_CQ_LOG2 ring))
  (s.fget (RF.RING_STAT_CQTAIL ring) + n - (s.ringRec ring).head % n) % n

/-- The IRQ completions pending for a ring's vector are signalled. -/
def State.ringIrq (s : State) (ring : Nat) : State :=
  (s.setRing ring { s.ringRec ring with irq := 0 }).raise (s.ringFn ring) (s.fget (RF.RING_CFG_VEC ring))

/-- One 16-byte completion written at the tail, with its PHASE; an IRQ completion counts toward the
ring's vector. -/
def State.cqWrite (s : State) (ring : Nat) (c : Bytes) (irq : Bool) : State :=
  let fn := s.ringFn ring
  let n := qEntries (s.fget (RF.RING_CQ_LOG2 ring))
  let t := s.fget (RF.RING_STAT_CQTAIL ring)
  let addr := 4096 * s.fget (RF.RING_CQ_ADDR ring) + 16 * t
  if s.inWindows fn addr 16 true then
    let r := s.ringRec ring
    let data := c.take 15 ++ [BitVec.ofNat 8 (if r.wrap then 0 else 1)]
    let s1 := (s.emit (.hostWrite fn addr false data)).fset (RF.RING_STAT_CQTAIL ring) ((t + 1) % n)
    let wrap := if t + 1 = n then !r.wrap else r.wrap
    let irqs := r.irq + b2n irq
    let s2 := s1.setRing ring { r with wrap := wrap, irq := irqs }
    if irq && decide (s.fget (RF.RING_CFG_CQ_CNT ring) ≤ irqs) then s2.ringIrq ring else s2
  else (s.dmaBlock fn 1 ring addr).ringError ring 3

/-- A completion is written when its queue has room and its function may write, else held (R366, R371). -/
def State.cqPut (s : State) (ring : Nat) (c : Bytes) (irq : Bool) : State :=
  let r := s.ringRec ring
  let n := qEntries (s.fget (RF.RING_CQ_LOG2 ring))
  if r.held = [] ∧ s.cqUsed ring + 1 < n ∧ s.bmeOn (s.ringFn ring) then s.cqWrite ring c irq
  else
    (s.setRing ring { r with held := r.held ++ [(c, irq)] }).fset (RF.RING_STAT_HELD ring)
      (r.held.length + 1)

/-- Held completions are written while there is room. -/
def State.heldPump : Nat → State → Nat → State
  | 0, s, _ => s
  | k + 1, s, ring =>
    let r := s.ringRec ring
    let n := qEntries (s.fget (RF.RING_CQ_LOG2 ring))
    match r.held with
    | [] => s
    | (c, irq) :: t =>
      if s.cqUsed ring + 1 < n ∧ s.bmeOn (s.ringFn ring) then
        let s1 := (s.setRing ring { r with held := t }).fset (RF.RING_STAT_HELD ring) t.length
        State.heldPump k (s1.cqWrite ring c irq) ring
      else s

def State.heldRun (s : State) (ring : Nat) : State := State.heldPump 65 s ring

/-! Descriptors. -/

/-- The uncompleted descriptor of a ring with a tag. -/
def State.desc (s : State) (ring tag : Nat) : Option Desc :=
  s.host.descs.find? fun d => decide (d.ring = ring ∧ d.tag = tag)

def State.updDesc (s : State) (ring tag : Nat) (f : Desc → Desc) : State :=
  s.mapDescs fun d => if d.ring = ring ∧ d.tag = tag then f d else d

/-- A descriptor is done; its completion is written by DESCRIPTOR_COMPLETE (R366). -/
def State.descDone (s : State) (ring tag status reason detail : Nat) : State :=
  s.updDesc ring tag fun d =>
    if d.st = 3 then d else { d with st := 3, status := status, reason := reason, detail := detail }

/-- A refused descriptor: its record, and done REFUSED (R33, R357). -/
def State.descRefuse (s : State) (d : Desc) (reason : Nat) : State :=
  (s.refuseDesc reason (s.ringFn d.ring) (fld d.word 0 8) d.ring d.tag).descDone d.ring d.tag stREFUSED
    reason 0

/-! Read requests (R351, R357, R370). -/

/-- Cuts a host range at 4 KiB boundaries: (address, length, offset). -/
def cut4k : Nat → Nat → Nat → Nat → List (Nat × Nat × Nat)
  | 0, _, _, _ => []
  | fuel + 1, addr, len, off =>
    if len = 0 then []
    else
      let n := min len (4096 - addr % 4096)
      (addr, n, off) :: cut4k fuel (addr + n) (len - n) (off + n)

/-- Cuts a host range into writes of at most the maximum payload, none across 4 KiB (R351): (address, length,
offset). -/
def cutPay : Nat → Nat → Nat → Nat → List (Nat × Nat × Nat)
  | 0, _, _, _ => []
  | fuel + 1, addr, len, off =>
    if len = 0 then []
    else
      let n := min len (Config.maxPayload - addr % Config.maxPayload)
      (addr, n, off) :: cutPay fuel (addr + n) (len - n) (off + n)

/-- A range lies inside the windows of a function in a direction, 4 KiB page by page (R351, R355). -/
def State.pagesOk (s : State) (fn addr len : Nat) (write : Bool) : Bool :=
  (cut4k (len / 4096 + 2) addr len 0).all fun p => s.inWindows fn p.1 p.2.1 write

/-- Every read request of a range passes the window check. -/
def State.readsOk (s : State) (fn addr len : Nat) : Bool := s.pagesOk fn addr len false

/-- The lowest PCIe tag in no request and in no quarantine, while fewer than 768 are outstanding. -/
def State.freeTag (s : State) : Option Nat :=
  if 768 ≤ s.host.reqs.length then none
  else findFrom (fun t => !(s.host.reqs.any fun e => e.1 == t) && !(s.host.quar.any fun e => e.1 == t)) 1024 0

/-- Requests of a transfer not yet issued are dropped; data of the issued ones will be discarded. -/
def State.reqDrop (s : State) (p : HReq → Bool) : State :=
  let rq := s.host.rq.filter fun q => !p q
  let reqs := s.host.reqs.map fun e => if p e.2 then (e.1, { e.2 with discard := true }) else e
  { s with host := { s.host with rq := rq, reqs := reqs } }

/-! Copy engines' jobs. -/

/-- The jobs of a die's copy engines that a command names, changed by `f`. -/
def State.mapCopy (s : State) (core seq : Nat) (f : Job → Job) : State :=
  (List.range 4).foldl (fun (s : State) e =>
    let k := dieOf core * 4 + e
    let q := (s.eng.ceq.get [] k).map fun (j : Job) => if j.core = core ∧ j.seq = seq then f j else j
    { s with eng := { s.eng with ceq := s.eng.ceq.set [] k q } }) s

/-- The copy-engine job of a command. -/
def State.copyJob (s : State) (core seq : Nat) : Option Job :=
  ((List.range 4).flatMap fun e => s.eng.ceq.get [] (dieOf core * 4 + e)).find?
    fun j => decide (j.core = core ∧ j.seq = seq)

/-- A job one of whose transfers has ended with a status: the first status other than OK stands. -/
def Job.acked (j : Job) (status reason : Nat) : Job :=
  if (j.status = stOK ∨ j.status = stDEGRADED) ∧ status ≠ stOK then
    { j with waits := j.waits - 1, status := status, reason := reason }
  else { j with waits := j.waits - 1 }

/-- One transfer of a copy has ended with a status. -/
def State.copyAck (s : State) (core seq status reason : Nat) : State :=
  s.mapCopy core seq fun j => j.acked status reason

/-! HDMA (R370). -/

def hdGaddr (w : CmdWord) : Nat := fld w 128 56
def hdLen (w : CmdWord) : Nat := fld w 192 32
def hdDie (w : CmdWord) : Nat := bitsN (hdGaddr w) 40 4
def hdOff (w : CmdWord) : Nat := bitsN (hdGaddr w) 0 40

/-- Bytes of a chunk, and of the host-write buffer. -/
def hdChunk : Nat := 16384
def hdBuf : Nat := 33554432

/-- An HDMA whose last byte has been acknowledged: its counter moves, and it is done (R364, R369). -/
def State.hdmaEnd (s : State) (d : Desc) : State :=
  let s1 := if bit d.word 50 then s.cntAdd (hdDie d.word) (fld d.word 40 10) 1 else s
  s1.descDone d.ring d.tag stOK 0 d.moved

/-- Bytes of an HDMA have reached their destination. -/
def State.hdmaMoved (s : State) (ring tag n : Nat) : State :=
  let s1 := s.updDesc ring tag fun d => if d.st = 2 then { d with moved := d.moved + n } else d
  match s1.desc ring tag with
  | some d => if d.st = 2 ∧ hdLen d.word ≤ d.moved then s1.hdmaEnd d else s1
  | none => s1

/-- An HDMA ends without its last byte: bytes already written stay, the counter does not move. -/
def State.hdmaFail (s : State) (ring tag status reason : Nat) : State :=
  match s.desc ring tag with
  | some d =>
    if d.st = 2 then
      let s1 := s.reqDrop fun q => decide (q.kind = 2 ∧ q.ring = ring ∧ q.tag = tag)
      let wq := s1.host.wq.filter fun h => !decide (h.owner = XOwner.hdma ring tag)
      let s2 : State := { s1 with host := { s1.host with wq := wq } }
      s2.descDone ring tag status reason (d.moved % 2 ^ 32)
    else s
  | none => s

/-! Issue of requests (R355, R357, R371). -/

/-- A copy is given up with a status: what it has waiting toward the host is dropped, and nothing is waited for. -/
def State.copyGiveUp (s : State) (core seq status reason : Nat) : State :=
  let s1 := s.reqDrop fun q => decide (3 ≤ q.kind ∧ q.core = core ∧ q.seq = seq)
  let wq := s1.host.wq.filter fun h => !decide (h.owner = XOwner.cmd core seq)
  let s2 : State := { s1 with host := { s1.host with wq := wq } }
  s2.mapCopy core seq fun j => { j.acked status reason with waits := 0 }

/-- A copy ends because one of its host requests fails the window check. -/
def State.copyBlocked (s : State) (core seq : Nat) : State :=
  (s.copyGiveUp core seq stREFUSED 0x6B01).refuseRec core 0x50 0x6B01

/-- A descriptor ends because one of its host requests fails the window check. -/
def State.hdmaBlocked (s : State) (ring tag : Nat) : State :=
  (s.hdmaFail ring tag stREFUSED 0x6B01).refuseDesc 0x6B01 (s.ringFn ring) 2 ring tag

/-- Waiting read requests are checked and issue, in order, while their function may master the bus and
tags are free. DESIGN CHOICE: the zero-length read that flushes a copy's writes is checked against the windows in the
direction of those writes (R355, R370, log entry 76). -/
def State.reqPump : List HReq → State → State
  | [], s => s
  | q :: t, s =>
    if !s.host.rq.contains q || !s.bmeOn q.fn then State.reqPump t s
    else if !s.inWindows q.fn q.addr q.len (decide (q.kind = 4)) then
      let s1 := s.dmaBlock q.fn (min 3 q.kind) (if q.kind = 2 then q.ring else 0xFFFF) q.addr
      State.reqPump t (if q.kind = 2 then s1.hdmaBlocked q.ring q.tag else s1.copyBlocked q.core q.seq)
    else match s.freeTag with
    | some tag =>
      let rq := s.host.rq.filter fun x => !decide (x = q)
      let s1 : State := { s with host := { s.host with reqs := s.host.reqs.put tag q, rq := rq } }
      State.reqPump t (s1.emit (.hostRead q.fn q.addr q.len tag))
    | none => State.reqPump t s

def State.reqRun (s : State) : State := State.reqPump s.host.rq s

/-- Read requests of one transfer wait to issue. -/
def State.reqAdd (s : State) (qs : List HReq) : State :=
  ({ s with host := { s.host with rq := s.host.rq ++ qs } } : State).reqRun

/-- A whole chunk of a host-to-die HDMA goes to the die as one stream. -/
def State.hdmaSend (s : State) (d : Desc) (off : Nat) (bs : Bytes) : State :=
  let die := hdDie d.word
  let h : StreamHdr := {
    dmod := s.module, dtgt := die, smod := s.module, stgt := 8, gen := s.gen,
    job := s.jobOf (s.ringFn d.ring), dst := hdOff d.word + off, lenRow := bs.length, dstride := 0,
    rcnt := 0, rcen := false, pgen := s.diePgen die, ackMod := s.module, ackTgt := 8, ackId := 0 }
  s.sendStreams 8 (.hdma d.ring d.tag) false h (fun _ => false) bs

/-- Host data of an HDMA arrives; a chunk whose every byte has arrived is sent (R370). -/
def State.hdmaArrive (s : State) (q : HReq) (data : Bytes) : State :=
  match s.desc q.ring q.tag with
  | some d =>
    if d.st ≠ 2 then s
    else
      let got := data.zipIdx.foldl (fun (t : Tbl Nat) b => t.put (q.off + b.2) b.1.toNat) d.gathered
      let c := q.off / hdChunk
      let lo := c * hdChunk
      let n := min hdChunk (hdLen d.word - lo)
      let here := got.filter fun e => decide (lo ≤ e.1 ∧ e.1 < lo + n)
      if here.length = n then
        let rest := got.filter fun e => !decide (lo ≤ e.1 ∧ e.1 < lo + n)
        (s.updDesc q.ring q.tag fun d => { d with gathered := rest }).hdmaSend d lo
          (here.map fun e => BitVec.ofNat 8 e.2)
      else s.updDesc q.ring q.tag fun d => { d with gathered := got }
  | none => s

/-- Bytes that wait in the host-write buffer. -/
def State.wqBytes (s : State) : Nat := (s.host.wq.map fun h => h.data.length).sum

/-- One write leaves the host-write buffer: its transfer learns it. After a copy's last one a zero-length read follows,
which flushes them; the copy is acknowledged with its completion (R370). -/
def State.hwDone (s : State) (h : HWrite) : State :=
  match h.owner with
  | .hdma ring tag => s.hdmaMoved ring tag h.data.length
  | .cmd core seq =>
    let s1 := s.copyAck core seq stOK 0
    if s1.host.wq.any fun x => decide (x.owner = h.owner) then s1
    else
      let q : HReq := { fn := h.fn, kind := 4, core := core, seq := seq, addr := h.addr }
      { s1 with host := { s1.host with rq := s1.host.rq ++ [q] } }
  | _ => s

/-- Writes leave the buffer in order while the host grants credits and the function may master the bus. Those of a
copy cross its die's port first (R15). -/
def State.hwPump : List HWrite → State → Bool → State
  | [], s, _ => s
  | h :: t, s, blocked =>
    if blocked || !s.host.wq.contains h || !s.bmeOn h.fn || h.gate.any (fun d => !s.diePortUp d) then
      State.hwPump t s blocked
    else if !s.inWindows h.fn h.addr h.data.length true then
      match h.owner with
      | .hdma ring tag => State.hwPump t ((s.dmaBlock h.fn 2 ring h.addr).hdmaBlocked ring tag) false
      | .cmd core seq => State.hwPump t ((s.dmaBlock h.fn 3 0xFFFF h.addr).copyBlocked core seq) false
      | _ => State.hwPump t s false
    else if s.host.credits < h.data.length then State.hwPump t s true
    else
      let i := (s.host.wq.findIdx? fun x => decide (x = h)).getD 0
      let host := { s.host with wq := s.host.wq.eraseIdx i, credits := s.host.credits - h.data.length }
      let s1 : State := { s with host := host }
      State.hwPump t ((s1.emit (.hostWrite h.fn h.addr true h.data)).hwDone h) false

/-- The next chunk of a die-to-host HDMA is read, over the die's port, once the buffer has room for it (R15, R370). -/
def State.chunkPump : Nat → State → Nat → Nat → State
  | 0, s, _, _ => s
  | k + 1, s, ring, tag =>
    match s.desc ring tag with
    | none => s
    | some d =>
      let n := min hdChunk (hdLen d.word - d.asked)
      let fn := s.ringFn ring
      if d.st = 2 ∧ bit d.word 32 ∧ n ≠ 0 ∧ s.wqBytes + n ≤ hdBuf ∧ s.bmeOn fn ∧ s.diePortUp (hdDie d.word) then
        match s.memRead (hdDie d.word) (hdOff d.word + d.asked) n with
        | (s1, false) => s1.hdmaFail ring tag stECC 0
        | (s1, true) =>
          let bs := s1.peek (hdDie d.word) (hdOff d.word + d.asked) n
          let hs := (cutPay (n / Config.maxPayload + 2) (fld d.word 64 64 + d.asked) n 0).map fun p =>
            ({ fn := fn, addr := p.1, data := (bs.drop p.2.2).take p.2.1, owner := XOwner.hdma ring tag } : HWrite)
          let s2 : State := { s1 with host := { s1.host with wq := s1.host.wq ++ hs } }
          State.chunkPump k (s2.updDesc ring tag fun d => { d with asked := d.asked + n }) ring tag
      else s

/-- Everything that waits for the host goes on: buffered writes, then chunk reads, then read requests. -/
def State.hostRun (s : State) : State :=
  let s1 := State.hwPump s.host.wq s false
  let s2 := s1.host.descs.foldl (fun (s : State) d =>
    if fld d.word 0 8 = 2 ∧ d.st = 2 ∧ bit d.word 32 then
      State.chunkPump (hdLen d.word / hdChunk + 1) s d.ring d.tag else s) s1
  (State.hwPump s2.host.wq s2 false).reqRun

end Sys2Proof.Machine
end

