-- ==== Sys2Proof/Machine/CopyOps.lean ====
section
/-! DEFINITION. Operations of the copy engines: fields and checks of COPY, the four data paths, the order of
an engine's copies (R139 to R143, R147, R151). -/

namespace Sys2Proof.Machine

/-! Fields (R139). -/

def cpCE (w : CmdWord) : Nat := fld w 8 2
def cpSM (w : CmdWord) : Bool := bit w 16
def cpRCEN (w : CmdWord) : Bool := bit w 17
def cpCNT (w : CmdWord) : Nat := fld w 24 10
def cpRCNT (w : CmdWord) : Nat := fld w 40 10
def cpSRC (w : CmdWord) : Nat := fld w 64 64
def cpDST (w : CmdWord) : Nat := fld w 128 64
def cpLEN (w : CmdWord) : Nat := fld w 192 24
def cpROWS (w : CmdWord) : Nat := fld w 224 16
def cpSSTR (w : CmdWord) : Nat := fld w 256 32
def cpDSTR (w : CmdWord) : Nat := fld w 288 32
def cpBytes (w : CmdWord) : Nat := cpLEN w * cpROWS w

/-- Where one side of a copy lies: a global address that names the issuing die is local (R139). -/
inductive CopyEnd
  | here (off : Nat)
  | far (md tgt off : Nat)
  | host (addr : Nat)
  | bad
  deriving DecidableEq, Repr

def State.copyEnd (s : State) (die kind addr : Nat) : CopyEnd :=
  if kind = 0 then .here addr
  else if kind = 1 then
    let g := addr % 2 ^ 56
    if g / 2 ^ 44 = s.module ∧ bitsN g 40 4 = die then .here (g % 2 ^ 40)
    else .far (g / 2 ^ 44) (bitsN g 40 4) (g % 2 ^ 40)
  else if kind = 2 then .host addr
  else .bad

def State.cpSrc (s : State) (die : Nat) (w : CmdWord) : CopyEnd := s.copyEnd die (fld w 10 2) (cpSRC w)
def State.cpDst (s : State) (die : Nat) (w : CmdWord) : CopyEnd := s.copyEnd die (fld w 12 2) (cpDST w)

/-- Conditions of a range of another die's space: the ranges of R210 that no transfer reaches. -/
def farConds (off len : Nat) : List (Bool × Nat) :=
  [(meets off len 0x2000000000 sramBase, 0x5702),
   (meets off len (sramBase + sramSize) 0xFF00000000, 0x5407),
   (meets off len 0xFF00000000 0x10000000000, 0x5703),
   (decide (0 < len ∧ 0x10000000000 < off + len), 0x5702)]

/-- Conditions of one side: its width, its target, and its rows (R139, R143, R209, R210, R333). -/
def State.endConds (s : State) (die kind addr stride len rows : Nat) (write : Bool) : List (Bool × Nat) :=
  let width : Bool × Nat :=
    ((decide (kind = 0) && decide (2 ^ 40 ≤ addr)) || (decide (kind = 1) && decide (2 ^ 56 ≤ addr)), 0x5408)
  match s.copyEnd die kind addr with
  | .here off => width :: (rowsOf off stride len rows).flatMap fun r => s.rangeConds die r.1 r.2
  | .far _ tgt off => width :: (decide (8 ≤ tgt), 0x5703) ::
      (if tgt < 8 then (rowsOf off stride len rows).flatMap fun r => farConds r.1 r.2 else [])
  | .host a => [((rowsOf a stride len rows).any fun r => !s.inWindows (s.owner die) r.1 r.2 write, 0x6B01)]
  | .bad => []

/-- Bytes of the sour map a copy reads: (SRAM offset, bytes) (R83, R142). -/
def cpMap (w : CmdWord) : Nat × Nat :=
  let lo := fld w 352 32 / 8
  let n := fld w 352 32 + cpBytes w / 128
  (fld w 320 32 + lo, (n + 7) / 8 - lo)

/-- Some byte of a copy's source lies outside SRAM. -/
def State.srcOutside (s : State) (die : Nat) (w : CmdWord) : Bool :=
  match s.cpSrc die w with
  | .here off => (rowsOf off (cpSSTR w) (cpLEN w) (cpROWS w)).any fun r =>
      decide (r.1 < sramBase ∨ sramBase + sramSize < r.1 + r.2)
  | _ => true

/-- Conditions under which a COPY is refused (R37, R139, R142, R143, R151). -/
def State.copyConds (s : State) (die : Nat) (w : CmdWord) : List (Bool × Nat) :=
  let sk := fld w 10 2
  let dk := fld w 12 2
  [resv w [(0, 15), (16, 2), (24, 10), (40, 10), (64, 128), (192, 24), (224, 16), (256, 128)],
   (decide (sk = 3 ∨ dk = 3 ∨ (sk = 2 ∧ dk = 2)) || (cpRCEN w && decide (dk = 2)), 0x5408),
   (decide (cpBytes w = 0), 0x5407),
   (cpSM w && (decide (cpLEN w % 128 ≠ 0 ∨ cpSSTR w % 128 ≠ 0 ∨ cpSRC w % 128 ≠ 0) ||
      s.srcOutside die w), 0x5408),
   (cpSM w && decide (sramSize < (cpMap w).1 + (cpMap w).2), 0x5407)]
  ++ s.endConds die sk (cpSRC w) (cpSSTR w) (cpLEN w) (cpROWS w) false
  ++ s.endConds die dk (cpDST w) (cpDSTR w) (cpLEN w) (cpROWS w) true
  ++ [(decide (dk = 0 ∧ sramBase ≤ cpDST w) && l1Over (s.setupsOn die) die (cpBytes w), 0x4001),
      (decide (dk = 0 ∧ cpDST w < sramBase) && l2Over (s.setupsOn die) die (cpBytes w), 0x4002)]

/-! Queues. -/

def State.ceQ (s : State) (die e : Nat) : List Job := s.eng.ceq.get [] (die * 4 + e)

/-- Bit e of BUSY: the engine has a copy in progress (R149). -/
def State.ceBusy (s : State) (die e : Nat) : State :=
  s.fsetBit (RF.WRK_CE_STAT_BUSY die) e ((s.ceQ die e).any fun j => j.started)

def State.setCeQ (s : State) (die e : Nat) (q : List Job) : State :=
  ({ s with eng := { s.eng with ceq := s.eng.ceq.set [] (die * 4 + e) q } } : State).ceBusy die e

/-! Data. -/

/-- Rows of a local side. -/
def cpRows (off stride : Nat) (w : CmdWord) : List (Nat × Nat) := rowsOf off stride (cpLEN w) (cpROWS w)

/-- Bytes cut into the rows of a local destination. -/
def cpCut (off : Nat) (w : CmdWord) (bs : Bytes) : List (Nat × Bytes) :=
  (List.range (cpROWS w)).map fun r =>
    (off + r * cpDSTR w, (bs.drop (r * cpLEN w)).take (cpLEN w))

/-- SOUR of the data cell with number q: some block it carries a byte of is sour (R142). -/
def State.cpSour (s : State) (die : Nat) (w : CmdWord) (q : Nat) : Bool :=
  let blk := fun (k : Nat) => fld w 352 32 + k / 128
  let bitOf := fun (i : Nat) =>
    (s.byte (die * 2 ^ 40 + sramBase + fld w 320 32 + i / 8)).getLsbD (i % 8)
  let lo := 48 * q
  let hi := min (lo + 48) (cpBytes w) - 1
  cpSM w && (bitOf (blk lo) || bitOf (blk hi))

/-- Header of the streams of a copy that this die sends (R142). -/
def State.cpHdr (s : State) (j : Job) (md tgt off : Nat) : StreamHdr :=
  let die := dieOf j.core
  { dmod := md, dtgt := tgt, smod := s.module, stgt := die, gen := s.gen, job := j.ctx.job, dst := off,
    lenRow := cpLEN j.word, dstride := cpDSTR j.word, rcnt := cpRCNT j.word, rcen := cpRCEN j.word,
    pgen := j.ctx.pgen, ackMod := s.module, ackTgt := die, ackId := 0 }

/-- Pieces of a copy to host memory, at their host addresses. -/
def cpPieces (addr : Nat) (w : CmdWord) (bs : Bytes) : List (Nat × Bytes) :=
  (List.range (cpROWS w)).flatMap fun r =>
    (cutPay (cpLEN w / Config.maxPayload + 2) (addr + r * cpDSTR w) (cpLEN w) (r * cpLEN w)).map fun p =>
      (p.1, (bs.drop p.2.2).take p.2.1)

/-- The bytes of a copy go to host memory through the host-write buffer; the transfer without cells is
what its timeout ends (R245, R370). -/
def State.copyToHost (s : State) (j : Job) (addr : Nat) (bs : Bytes) : State :=
  let die := dieOf j.core
  let ps := cpPieces addr j.word bs
  let own := XOwner.cmd j.core j.seq
  let ws := ps.map fun p => ({ fn := s.owner die, gate := some die, addr := p.1, data := p.2, owner := own } : HWrite)
  let s1 := s.mapCopy j.core j.seq fun j => { j with waits := if ps = [] then 0 else ps.length + 1 }
  let s2 : State := { s1 with host := { s1.host with wq := s1.host.wq ++ ws } }
  (s2.xferStart die { owner := own }).hostRun

/-- All bytes of a copy have been read: they are held for a local destination, sent in streams to another
die, or buffered toward the host (R141, R142). -/
def State.copyDeliver (s : State) (j : Job) (bs : Bytes) : State :=
  let die := dieOf j.core
  match s.cpDst die j.word with
  | .here off => s.mapCopy j.core j.seq fun j => { j with waits := 0, writes := cpCut off j.word bs }
  | .far md tgt off =>
    let s1 := s.mapCopy j.core j.seq fun j => { j with waits := nStreams bs.length, sent := true }
    s1.sendStreams die (.cmd j.core j.seq) false (s.cpHdr j md tgt off) (s.cpSour die j.word) bs
  | .host a => (s.mapCopy j.core j.seq fun j => { j with sent := true }).copyToHost j a bs
  | .bad => s

/-- Reads of a local source and its sour map; DEGRADED where an emulated bank is touched (R138). -/
def State.copyReads (s : State) (die off : Nat) (j : Job) : State × Bool :=
  let map := if cpSM j.word then [(sramBase + (cpMap j.word).1, (cpMap j.word).2)] else []
  s.memReads die (cpRows off (cpSSTR j.word) j.word ++ map)

/-- Ranges of a copy in this die's SRAM touch an emulated bank. -/
def State.copyEmu (s : State) (die : Nat) (w : CmdWord) : Bool :=
  let one := fun (e : CopyEnd) (stride : Nat) => match e with
    | .here off => (cpRows off stride w).any fun r =>
        decide (sramBase ≤ r.1) && s.emulated die (r.1 - sramBase) r.2
    | _ => false
  one (s.cpSrc die w) (cpSSTR w) || one (s.cpDst die w) (cpDSTR w)

/-- A started copy fetches its bytes: from this die at once, from another die by one read request, from
the host by read requests within 4 KiB pages (R142, R143, R351). -/
def State.copyFetch (s : State) (j : Job) : State :=
  let die := dieOf j.core
  let w := j.word
  match s.cpSrc die w with
  | .here off =>
    match s.copyReads die off j with
    | (s1, false) => s1.mapCopy j.core j.seq fun j => { j with status := stECC }
    | (s1, true) => s1.copyDeliver j ((cpRows off (cpSSTR w) w).flatMap fun r => s1.peek die r.1 r.2)
  | .far md tgt off =>
    let s1 := s.mapCopy j.core j.seq fun j => { j with waits := nStreams (cpBytes w), sent := true }
    let (dst, dstr, en) : Nat × Nat × Bool := match s.cpDst die w with
      | .here o => (s.module * 2 ^ 44 + die * 2 ^ 40 + o, cpDSTR w, cpRCEN w)
      | .far m t o => (m * 2 ^ 44 + t * 2 ^ 40 + o, cpDSTR w, cpRCEN w)
      | _ => (s.module * 2 ^ 44 + die * 2 ^ 40, cpLEN w, false)
    s1.sendRdreq die (.cmd j.core j.seq) md tgt j.ctx.job off j.ctx.pgen (cpLEN w) (cpSSTR w) (cpROWS w) dst
      dstr (cpRCNT w) en
  | .host a =>
    let qs := (List.range (cpROWS w)).flatMap fun r =>
      (cut4k (cpLEN w / 4096 + 2) (a + r * cpSSTR w) (cpLEN w) (r * cpLEN w)).map fun p =>
        ({ fn := s.owner die, kind := 3, core := j.core, seq := j.seq, addr := p.1, len := p.2.1,
           off := p.2.2 } : HReq)
    (s.mapCopy j.core j.seq fun j => { j with waits := 1 }).reqAdd qs
  | .bad => s

/-! The engine takes copies in order (R92, R140, R141). -/

/-- Host address of a copy's first row outside the windows, its source's before its destination's (R355). -/
def State.copyHostAddr (s : State) (die : Nat) (w : CmdWord) : Nat :=
  let out := fun (e : CopyEnd) (stride : Nat) (write : Bool) => match e with
    | .host a => ((rowsOf a stride (cpLEN w) (cpROWS w)).filter fun (r : Nat × Nat) =>
        !s.inWindows (s.owner die) r.1 r.2 write).map fun (r : Nat × Nat) => r.1
    | _ => []
  (out (s.cpSrc die w) (cpSSTR w) false ++ out (s.cpDst die w) (cpDSTR w) true).headD 0

/-- A job taken: refused, stale, or started. -/
def State.copyTake (s : State) (die e : Nat) (j : Job) : State :=
  let put := fun (s : State) (j1 : Job) => s.setCeQ die e ((s.ceQ die e).map fun x =>
    if x.core = j.core ∧ x.seq = j.seq then j1 else x)
  match pick (s.copyConds die j.word) with
  | some reason =>
    let s1 := put s { j with started := true, status := stREFUSED, reason := reason }
    let s2 := s1.refuseRec j.core 0x50 reason
    if reason = 0x6B01 then s2.dmaBlock (s.owner die) 3 0xFFFF (s.copyHostAddr die j.word) else s2
  | none =>
    if s.staleCore j.core j.ctx then put s { j with started := true, status := stSTALE }
    else
      let j1 := { j with started := true, status := okOr (s.copyEmu die j.word) }
      (put s j1).copyFetch j1

/-- The engine is free to send for its next copy. -/
def ceIdle (q : List Job) : Bool :=
  q.all fun j => !j.started || j.sent || !(j.status = stOK || j.status = stDEGRADED)

/-- The engine starts copies in issue order while it is free. -/
def State.cePump : Nat → State → Nat → Nat → State
  | 0, s, _, _ => s
  | n + 1, s, die, e =>
    let q := s.ceQ die e
    match q.find? fun j => !j.started with
    | none => s
    | some j => if ceIdle q then State.cePump n (s.copyTake die e j) die e else s

def State.ceRun (s : State) (die e : Nat) : State := State.cePump ((s.ceQ die e).length) s die e

/-- Every copy of a die whose transfers changed goes on: its engine may be free. -/
def State.ceRunAll (s : State) (die : Nat) : State :=
  [0, 1, 2, 3].foldl (fun (s : State) e => s.ceRun die e) s

/-- Transfers of a target that a predicate picks end. -/
def State.xfersEnd (s : State) (tgt : Nat) (p : Xfer → Bool) : State :=
  (s.fab.xfers.filter fun e => decide (e.1 / 65536 = tgt) && p e.2).foldl
    (fun (s : State) e => s.xferEnd tgt (e.1 % 65536)) s

/-- The completion of the oldest copy of an engine, once its bytes are all in place (R141): ERR, STALE_CNT,
CNT, and RCNT of a local destination before it. -/
def State.copyDone (s : State) (die e : Nat) (j : Job) (rest : List Job) : State :=
  let good := counts j.status
  let s0 := (s.setCeQ die e rest).xfersEnd die fun x =>
    decide (x.owner = XOwner.cmd j.core j.seq) && decide (x.cells = [])
  let (s1, ok) := if good ∧ j.writes ≠ [] then s0.memWrites die j.writes (cmdTag j.core j.seq) else (s0, true)
  let status := if ok then j.status else stECC
  let s2 := if counts status ∧ cpRCEN j.word ∧ j.writes ≠ [] then s1.cntAdd die (cpRCNT j.word) 1 else s1
  let s3 := if status = stOK then s2 else s2.fsetBit (RF.WRK_CE_STAT_ERR die) e true
  let s4 := if status = stSTALE then s3.countStale die else s3
  ((s4.finish j.core j.seq (cpCNT j.word) status j.reason 0).sigsTry j.core).ceRun die e

/-- The die is waiting: every core with a kernel is in WAIT or BAR (R145). -/
def State.dieWaits (s : State) (die : Nat) : Bool :=
  (List.range 256).all fun c =>
    let st := s.coreState (die * 256 + c)
    decide (st ≠ csRUN ∧ st ≠ csSTALL) &&
      (decide (st ≠ csHALT) || decide ((s.coreRec (die * 256 + c)).outst = []))

end Sys2Proof.Machine
end

