-- ==== Sys2Proof/Machine/NetOps.lean ====
section
/-! DEFINITION. The receiving side of the network interfaces: checks, drops, receive contexts, orphans, ends
of transfers (R140, R214 to R218, R242 to R248, R333). -/

namespace Sys2Proof.Machine

/-! Drops (R229, R246, R252). -/

/-- Cells dropped under a code since its last record. -/
def State.noteDrop (s : State) (code n : Nat) : State :=
  let c := s.fab.dropSince.get 0 code
  { s with fab := { s.fab with dropSince := s.fab.dropSince.put code (c + n) } }

/-- A fabric record of a port, with the cells dropped since the previous one of its code. -/
def State.fabRec (s : State) (code sev port st reason gen : Nat) : State :=
  let n := s.fab.dropSince.get 0 code
  let s1 : State := { s with fab := { s.fab with dropSince := s.fab.dropSince.put code 0 } }
  s1.hiveRec code port sev (fabPay port st reason (n % 2 ^ 32) gen)

/-- State of a port (R222). -/
def State.portState (s : State) (p : Nat) : Nat := s.fget (RF.FAB_PORT_STATE p)

/-- Whom a NACK for a cell goes to, and its ID: the ACKTO of a stream open, otherwise the cell's source. -/
def nackTo (c : CellW) : Nat × Nat × Nat :=
  if Cell.type c = 4 then (bitsN (Cell.pay c 24 2) 0 12, bitsN (Cell.pay c 24 2) 12 4, Cell.pay c 26 2)
  else (Cell.srcMod c, Cell.srcTgt c, Cell.stream c)

/-- A NACK for a cell; an ACK or NACK cell has no ID to quote and is dropped without one. -/
def State.nackCell (s : State) (stgt status cause : Nat) (c : CellW) : State :=
  if Cell.type c = 6 ∨ Cell.type c = 7 then s
  else
    let (m, t, id) := nackTo c
    s.sendNack m t stgt (Cell.job c) status cause id

/-- The JOB check of a die port or a hive service drops a cell (R246). -/
def State.dropJob (s : State) (port : Nat) (c : CellW) : State :=
  let s1 := ((s.finc RF.FAB_DROP0_JOB 1).noteDrop 0x8405 1).nackCell 8 stREFUSED 0 c
  s1.paced (0x8405 * 64 + port) 1000000 fun s => s.fabRec 0x8405 1 port (s.portState port) 0 s.gen

/-- A cell as the destination checks it: its CRC-32C (R212). -/
def Cell.good (c : CellW) : Bool := decide (fld c 480 32 = Cell.crc c)

/-- A cell reaches a die: an absorbing die port drops and counts it, the egress check drops a foreign JOB (R246,
R248). -/
def State.niCell (s : State) (die : Nat) (c : CellW) (f : State → State) : State :=
  if s.dieAbsorbs die then s.absorb die
  else if !Cell.good c then s
  else if Cell.job c ≠ s.dieJob die ∧ Cell.job c ≠ 0 then s.dropJob (32 + die) c
  else f s

/-- A cell carries the generation the interface holds for its JOB; for JOB 0 on a partition's die it holds
none (R140, R246). -/
def State.pgenOk (s : State) (die : Nat) (c : CellW) (pgen : Nat) : Bool :=
  decide (Cell.job c ≠ s.dieJob die) || decide (pgen = s.diePgen die)

/-- A cell of another placement generation is dropped and counted at the die (R140). -/
def State.pgenCount (s : State) (die : Nat) : State :=
  { s with fab := { s.fab with pgenDrop := s.fab.pgenDrop.set 0 die (s.fab.pgenDrop.get 0 die + 1) } }

/-- A cell refused at a die: dropped, NACK REFUSED (R333). -/
def State.niRefuse (s : State) (die : Nat) (c : CellW) : State := s.nackCell die stREFUSED 0 c

/-! Receive contexts. -/

/-- A context is the one of a source's stream. -/
def RxCtx.isKey (x : RxCtx) (smod stgt stream : Nat) : Bool :=
  decide (x.srcMod = smod ∧ x.srcTgt = stgt ∧ x.stream = stream)

/-- Addresses of a stream's bytes [k, k + n): runs within rows (R216). -/
def rxRuns (x : RxCtx) : Nat → Nat → Bytes → List (Nat × Bytes)
  | 0, _, _ => []
  | fuel + 1, k, bs =>
    if bs = [] then []
    else
      let p := x.col0 + k
      let n := x.lenRow - p % x.lenRow
      (x.doff + p / x.lenRow * x.dstride + p % x.lenRow, bs.take n) :: rxRuns x fuel (k + n) (bs.drop n)

/-- Ranges of a stream's destination, row by row. -/
def rxRanges (x : RxCtx) : List (Nat × Nat) :=
  (List.range ((x.col0 + x.total - 1) / x.lenRow + 1)).map fun r =>
    let lo := if r = 0 then x.col0 else 0
    let hi := min x.lenRow (x.col0 + x.total - r * x.lenRow)
    (x.doff + r * x.dstride + lo, hi - lo)

/-- The copy whose read data a context gathers for the host. -/
def State.gatherOf (s : State) (die : Nat) (x : RxCtx) : Option Job :=
  if x.ackMod = s.module ∧ x.ackTgt = die then
    match (s.fab.xfers.get {} (xKey die x.ackId)).owner with
    | .cmd core seq =>
      match s.copyJob core seq with
      | some j =>
        match s.cpSrc die j.word, s.cpDst die j.word with
        | .far _ _ _, .host _ => some j
        | _, _ => none
      | none => none
    | _ => none
  else none

/-- Fields of a stream open (R216). -/
def rxOpen (c : CellW) : RxCtx :=
  { srcMod := Cell.srcMod c, srcTgt := Cell.srcTgt c, stream := Cell.stream c, job := Cell.job c,
    doff := Cell.pay c 0 5, lenRow := Cell.pay c 5 3, dstride := Cell.pay c 8 4, col0 := Cell.pay c 12 3,
    total := Cell.pay c 16 4, rcnt := bitsN (Cell.pay c 20 2) 0 10, rcen := bitN (Cell.pay c 20 2) 15,
    pgen := Cell.pay c 22 1, final := bitN (Cell.pay c 23 1) 0, ackMod := bitsN (Cell.pay c 24 2) 0 12,
    ackTgt := bitsN (Cell.pay c 24 2) 12 4, ackId := Cell.pay c 26 2 }

/-- The context closes (R243): its entries are evicted, RCNT moves, the ACK goes, the context is free. A
stream with a line that could not be written is answered ECC_UNCORRECTABLE instead (R336, R344). -/
def State.rxClose (s : State) (die : Nat) (x : RxCtx) : State :=
  let (s1, bad) := s.wcbFlush die (x.tag die)
  let s2 := s1.setRx die ((s1.rxOf die).filter fun y => !y.isKey x.srcMod x.srcTgt x.stream)
  let s3 := s2.markBad die bad
  if x.bad || bad.contains (x.tag die) then s3.sendNack x.ackMod x.ackTgt die x.job stECC 0 x.ackId
  else
    let s4 := if x.rcen && x.final then s3.cntAdd die x.rcnt 1 else s3
    s4.sendAck x.ackMod x.ackTgt die x.job x.ackId x.total

/-- A data cell joins its context (R215, R216, R243): its bytes are written, SOUR reaches the die's cap,
and the last one closes the context. -/
def State.rxData (s : State) (die : Nat) (x : RxCtx) (c : CellW) : State :=
  if !s.pgenOk die c x.pgen then (s.pgenCount die).sendNack x.ackMod x.ackTgt die x.job stSTALE 1 x.ackId
  else if Cell.len c = 0 ∨ 48 < Cell.len c ∨ x.total < 48 * Cell.seq c + Cell.len c then s
  else
    let bs := Cell.payBytes c 0 (Cell.len c)
    let ws : List (Nat × Bytes) := rxRuns x 49 (48 * Cell.seq c) bs
    let s1 := if Cell.sour c then s.recordSour die else s
    let r : State × List Nat := match s.gatherOf die x with
      | some j =>
        (s1.mapCopy j.core j.seq fun j =>
          { j with data := ws.foldl (fun (t : Tbl Nat) w =>
              w.2.zipIdx.foldl (fun (t : Tbl Nat) b => t.put (w.1 + b.2) b.1.toNat) t) j.data }, [])
      | none => ws.foldl (fun (a : State × List Nat) w =>
          let (s1, bad) := a.1.memWrite die w.1 w.2 (x.tag die)
          (s1, a.2 ++ bad)) (s1, [])
    let s2 := r.1
    let x1 := { x with got := if x.got.contains (Cell.seq c) then x.got else x.got ++ [Cell.seq c] }
    let s3 := s2.setRx die ((s2.rxOf die).map fun y =>
      if y.isKey x.srcMod x.srcTgt x.stream then x1 else y)
    let s4 := s3.markBad die r.2
    match (s4.rxOf die).find? fun y => y.isKey x.srcMod x.srcTgt x.stream with
    | some y => if y.got.length = (y.total + 47) / 48 then s4.rxClose die y else s4
    | none => s4

/-- A data cell at a die: placed, or held as an orphan (R215, R242); with the orphan buffer full it is
answered as one that has waited (R244). -/
def State.rxCell (s : State) (die : Nat) (c : CellW) : State :=
  match (s.rxOf die).find? fun x => x.isKey (Cell.srcMod c) (Cell.srcTgt c) (Cell.stream c) with
  | some x => if x.job = Cell.job c then s.rxData die x c else s.dropJob (32 + die) c
  | none =>
    let q := s.fab.orphans.get [] die
    if 256 ≤ q.length then
      (s.finc (RF.FAB_NI_STAT_ORPHAN die) 1).nackCell die stTIMEOUT 2 c
    else { s with fab := { s.fab with orphans := s.fab.orphans.set [] die (q ++ [c]) } }

/-- A stream open at a die (R242): its range is checked, a context is created, its orphans join. -/
def State.rxStart (s : State) (die : Nat) (c : CellW) : State :=
  let x := rxOpen c
  let taken := (s.rxOf die).any fun y => y.isKey x.srcMod x.srcTgt x.stream
  if !s.pgenOk die c x.pgen then (s.pgenCount die).nackCell die stSTALE 1 c
  else if taken then s
  else if x.lenRow = 0 ∨ x.total = 0 ∨ streamMax < x.total ∨ x.lenRow ≤ x.col0 then s.niRefuse die c
  else if (s.gatherOf die x).isNone ∧
      (pick ((rxRanges x).flatMap fun r => s.rangeConds die r.1 r.2)).isSome then s.niRefuse die c
  else if 4096 ≤ (s.rxOf die).length then s.nackCell die stTIMEOUT 2 c
  else
    let mine := fun (o : CellW) => x.isKey (Cell.srcMod o) (Cell.srcTgt o) (Cell.stream o)
    let q := s.fab.orphans.get [] die
    let s1 := s.setRx die (s.rxOf die ++ [x])
    let orphans := s1.fab.orphans.set [] die (q.filter fun o => !mine o)
    let s2 : State := { s1 with fab := { s1.fab with orphans := orphans } }
    (q.filter mine).foldl (fun (s : State) o => s.rxCell die o) s2

/-! Addressed writes, adds and reads at a die (R214, R217). -/

/-- Offset and generation of an addressed cell. -/
def Cell.off (c : CellW) : Nat := Cell.pay c 0 5
def Cell.pgen (c : CellW) : Nat := Cell.pay c 5 1

/-- The hive's own access to a die's registers: JOB 0, from target 8, 8 bytes (R210). -/
def Cell.isReg (c : CellW) (n : Nat) : Bool :=
  decide (Cell.job c = 0 ∧ Cell.srcTgt c = 8 ∧ n = 8 ∧ Cell.off c % 8 = 0 ∧ 0xFF00000000 ≤ Cell.off c ∧
    Cell.off c < 0x10000000000)

/-- A write to memory by an addressed cell, acknowledged once it is applied (R214, R243). -/
def State.niWrite (s : State) (die : Nat) (c : CellW) : State :=
  let n := Cell.len c - 8
  if !s.pgenOk die c (Cell.pgen c) then (s.pgenCount die).nackCell die stSTALE 1 c
  else if n = 0 ∨ 40 < n ∨ (pick (s.rangeConds die (Cell.off c) n)).isSome then s.niRefuse die c
  else
    let tag := rxTag die (Cell.srcMod c) (Cell.srcTgt c) (Cell.stream c)
    match s.memWrites die [(Cell.off c, Cell.payBytes c 8 n)] tag with
    | (s1, true) => s1.sendAck (Cell.srcMod c) (Cell.srcTgt c) die (Cell.job c) (Cell.stream c) n
    | (s1, false) => s1.nackCell die stECC 0 c

/-- An addressed add to a counter (R128, R210, R214). -/
def State.niAdd (s : State) (die : Nat) (c : CellW) : State :=
  let o := Cell.off c
  if !s.pgenOk die c (Cell.pgen c) then (s.pgenCount die).nackCell die stSTALE 1 c
  else if cntOff 0 ≤ o ∧ o < cntOff 1024 ∧ o % 8 = 0 ∧ Cell.job c = s.dieJob die ∧ Cell.len c = 12 then
    (s.cntAdd die ((o - cntOff 0) / 8) (Cell.pay c 8 4)).sendAck (Cell.srcMod c) (Cell.srcTgt c) die
      (Cell.job c) (Cell.stream c) 4
  else s.niRefuse die c

/-- Rows of a read request. -/
def rdRows (c : CellW) : List (Nat × Nat) :=
  rowsOf (Cell.off c) (Cell.pay c 11 4) (Cell.pay c 8 3) (Cell.pay c 15 2)

/-- Bytes that a read request asks for go out as response streams of a target (R217). -/
def State.rdAnswer (s : State) (tgt : Nat) (c : CellW) (bs : Bytes) : State :=
  let g := Cell.pay c 17 7
  let h : StreamHdr := {
    dmod := bitsN g 44 12, dtgt := bitsN g 40 4, smod := s.module, stgt := tgt, gen := s.gen,
    job := Cell.job c, dst := bitsN g 0 40, lenRow := Cell.pay c 8 3, dstride := Cell.pay c 24 4,
    rcnt := bitsN (Cell.pay c 28 2) 0 10, rcen := bitN (Cell.pay c 28 2) 15, pgen := Cell.pgen c,
    ackMod := bitsN (Cell.pay c 30 2) 0 12, ackTgt := bitsN (Cell.pay c 30 2) 12 4,
    ackId := Cell.pay c 32 2 }
  s.sendStreams tgt .none true h (fun _ => false) bs

/-- A range of a die's space has a line on a failed channel. -/
def State.rangeFailed (s : State) (die : Nat) (r : Nat × Nat) : Bool :=
  decide (r.1 < sramBase) && s.onFailed die r.1 r.2

/-- A read request at a die's memory: response streams of the named bytes (R217); a failed channel answers
ECC_UNCORRECTABLE (R338, R344); an uncorrectable line stops them before FINAL, here before the first cell (R331). -/
def State.niRead (s : State) (die : Nat) (c : CellW) : State :=
  let rows := rdRows c
  let n := Cell.pay c 8 3 * Cell.pay c 15 2
  if !s.pgenOk die c (Cell.pgen c) then (s.pgenCount die).nackCell die stSTALE 1 c
  else if n = 0 ∨ 8 < bitsN (Cell.pay c 17 7) 40 4 ∨
      (pick (rows.flatMap fun r => s.rangeConds die r.1 r.2)).isSome then s.niRefuse die c
  else if rows.any (s.rangeFailed die) then s.nackCell die stECC 0 c
  else match s.memReads die rows with
    | (s1, false) => s1
    | (s1, true) => s1.rdAnswer die c (rows.flatMap fun r => s1.peek die r.1 r.2)

/-! Ends of transfers (R218, R244, R245). -/

/-- Reason of a transfer answered NACK REFUSED: a sampler open's second opening (R169), the LPDDR5X bound of
R333, or a read request's DST at target 9 to 15 (R254), the ones that name one; otherwise a free value. -/
def State.nackReason (s : State) (x : Xfer) : State × Nat :=
  if (x.cells.headD 0 |> Cell.type) = 0x0A then (s, 0x5506)
  else if (x.cells.headD 0 |> Cell.type) = 3 ∧ 8 < bitsN (Cell.pay (x.cells.headD 0) 17 7) 40 4 then (s, 0x5703)
  else if (x.cells.headD 0 |> Cell.off) < 0x2000000000 then (s, 0x5A01)
  else (s.drawn, s.freshVal.toNat % 65536)

/-- The bytes of a copy from another die to the host have all arrived. -/
def State.gathered (s : State) (core seq : Nat) : State :=
  match s.copyJob core seq with
  | some j =>
    match s.cpSrc (dieOf core) j.word, s.cpDst (dieOf core) j.word with
    | .far _ _ _, .host a =>
      if j.status = stOK ∨ j.status = stDEGRADED then
        s.copyToHost j a ((List.range (cpBytes j.word)).map fun i => BitVec.ofNat 8 (j.data.get 0 i))
      else s
    | _, _ => s
  | none => s

/-- A core's transfer has ended with a status: a copy's, or that of a command of one cell. -/
def State.cmdXferEnd (s : State) (core seq status reason : Nat) : State :=
  match s.copyJob core seq with
  | some j =>
    let s1 := if status = stREFUSED then s.refuseRec core 0x50 reason else s
    let s2 := s1.copyAck core seq status reason
    let s3 := if status = stTIMEOUT then s2.voteFailed (dieOf core) else s2
    s3.ceRun (dieOf core) (cpCE j.word)
  | none =>
    let opc := (((s.coreRec core).outst.find? fun o => o.1 == seq).getD (0, 0)).2
    let s1 := if status = stREFUSED then s.refuseRec core opc reason
      else if status = stSTALE ∧ opc = 0x04 then s.countStale (dieOf core)
      else if status = stTIMEOUT then s.voteFailed (dieOf core) else s
    s1.completeRaw core seq status reason 0

/-- A transfer ends other than by its last ACK. -/
def State.xferFail (s : State) (tgt id : Nat) (x : Xfer) (status : Nat) : State :=
  let s1 := s.xferEnd tgt id
  match x.owner with
  | .cmd core seq =>
    let (s2, reason) := if status = stREFUSED then s1.nackReason x else (s1, 0)
    let s3 := (List.range (x.acks - 1)).foldl (fun (s : State) _ => s.copyAck core seq status reason) s2
    s3.cmdXferEnd core seq status reason
  | .hdma ring tag =>
    let s2 := s1.hdmaFail ring tag status (if status = stREFUSED then 0x5A01 else 0)
    -- a refusal writes its record once, with the descriptor's end (R33)
    if status = stREFUSED ∧ (s1.desc ring tag).any (fun d => decide (d.st = 2)) then
      s2.refuseDesc 0x5A01 (s1.ringFn ring) 2 ring tag else s2
  | _ => s1

/-- Status with which the ACK of a transfer completes its command: an SMP_OPEN answered by another module is
DEGRADED where its result lies in an emulated bank (R138, R150). -/
def State.openStatus (s : State) (core : Nat) (x : Xfer) : Nat :=
  let c := x.cells.headD 0
  let md := bitsN (Cell.pay c 1 1) 0 2
  let n := if md = 2 then 16 + 8 * bitsN (Cell.pay c 6 2) 0 11 else 16
  okOr (decide (Cell.type c = 0x0A) && decide (md ≠ 1) && s.rangesEmu (dieOf core) [(Cell.pay c 32 4, n)])

/-- The last cell of a transfer without ACK, one of several expected. -/
def State.xferAck (s : State) (tgt id : Nat) (x : Xfer) (bytes : Nat) : State :=
  let s1 := if x.acks ≤ 1 then s.xferEnd tgt id
    else { s with fab := { s.fab with xfers := s.fab.xfers.put (xKey tgt id) { x with acks := x.acks - 1 } } }
  match x.owner with
  | .cmd core seq =>
    let s2 := s1.cmdXferEnd core seq (s1.openStatus core x) 0
    if x.acks ≤ 1 then s2.gathered core seq else s2
  | .hdma ring tag => s1.hdmaMoved ring tag bytes
  | _ => s1

end Sys2Proof.Machine
end

