-- ==== Sys2Proof/Machine/RingOps.lean ====
section
/-! DEFINITION. Operations of rings: the checks of enabling, activation, closing, freezing (R358 to R361,
R371, R389). -/

namespace Sys2Proof.Machine

/-- Conditions under which a ring is not enabled (R361): a queue lies inside the owner's windows when every page of it
lies in one of them. -/
def State.ringConds (s : State) (fn ring : Nat) : List (Bool × Nat) :=
  let owner := s.ringFn ring
  let sq := s.fget (RF.RING_SQ_LOG2 ring)
  let cq := s.fget (RF.RING_CQ_LOG2 ring)
  [(decide (fn ≠ 0 ∧ fn ≠ owner), 0x6B03),
   (decide (10 < sq ∨ 10 < cq), 0x5B05),
   (!s.pagesOk owner (4096 * s.fget (RF.RING_SQ_ADDR ring)) (64 * qEntries sq) false ||
     !s.pagesOk owner (4096 * s.fget (RF.RING_CQ_ADDR ring)) (16 * qEntries cq) true, 0x6B02)]

/-- A ring becomes ACTIVE from DISABLED: its indices restart; it is FROZEN at once while its function may
not master the bus. -/
def State.ringActivate (s : State) (ring : Nat) : State :=
  let frz := !s.bmeOn (s.ringFn ring)
  let s1 := s.setReg (Reg.RING_STAT ring) 0
  (s1.setRing ring { frzBme := frz }).fset (RF.RING_STAT_STATE ring) (if frz then 2 else 1)

/-- The refusal record of a register write that HIVE_WREJ does not report. -/
def State.refuseWrite (s : State) (reason : Nat) : State :=
  s.hiveRec reason 0 0 (pay [(1, 0xFF), (1, 0xFF), (2, 0xFFFF), (2, 0), (1, 2)])

/-- EN is set by a function (R361, R389); a ring still closing stays as it was. -/
def State.ringEnable (s : State) (fn ring : Nat) : State :=
  if s.fget (RF.RING_CFG_EN ring) = 1 then s
  else if s.ringState ring ≠ 0 then
    (s.setRing ring { s.ringRec ring with closing := false }).fset (RF.RING_CFG_EN ring) 1
  else if s.fget RF.QN_BOOT_STAT_READY = 0 then
    (s.setRing ring { s.ringRec ring with early := some fn }).fset (RF.RING_CFG_EN ring) 1
  else match pick (s.ringConds fn ring) with
    | some reason => (s.fset (RF.RING_STAT_REASON ring) reason).refuseWrite reason
    | none => (s.fset (RF.RING_CFG_EN ring) 1).ringActivate ring

/-- READY: the rings enabled before it become ACTIVE if their checks pass now (R389). -/
def State.ringsReady (s : State) : State :=
  (s.host.rings.filter fun e => e.2.early.isSome).foldl (fun (s : State) e =>
    match pick (s.ringConds (e.2.early.getD 0) e.1) with
    | some reason => ((s.setRing e.1 {}).fset (RF.RING_STAT_REASON e.1) reason).refuseWrite reason
    | none => s.ringActivate e.1) s

/-- A ring whose EN is clear becomes DISABLED once every fetched descriptor has completed (R360); in ERROR
those that never started are dropped. -/
def State.ringSettle (s : State) (ring : Nat) : State :=
  let r := s.ringRec ring
  let st := s.ringState ring
  let runs := fun (d : Desc) => d.ring == ring && (decide (st = 1) || decide (2 ≤ d.st))
  if r.closing && decide (st = 1 ∨ st = 3) && r.held.isEmpty && !(s.host.descs.any runs) then
    let descs := s.host.descs.filter fun d => d.ring != ring
    let s1 : State := { s with host := { s.host with descs := descs } }
    (s1.setRing ring {}).fset (RF.RING_STAT_STATE ring) 0
  else s

/-- EN is cleared by the owner or PF0 (R360). -/
def State.ringDisable (s : State) (fn ring : Nat) : State :=
  if fn ≠ 0 ∧ fn ≠ s.ringFn ring then s
  else
    let s1 := s.fset (RF.RING_CFG_EN ring) 0
    if s.ringState ring = 0 then s1.setRing ring {}
    else (s1.setRing ring { s1.ringRec ring with closing := true }).ringSettle ring

/-- A ring goes to FROZEN; the freeze cause is recorded whatever its state. -/
def State.ringFreeze (s : State) (ring : Nat) (bme : Bool) : State :=
  let r := s.ringRec ring
  let st := s.ringState ring
  if st = 0 then s
  else
    let s1 := s.setRing ring (if bme then { r with frzBme := true } else { r with frzRcl := true })
    if st = 1 then s1.fset (RF.RING_STAT_STATE ring) 2 else s1

/-- A freeze cause of a ring ends. -/
def State.ringThaw (s : State) (ring : Nat) : State :=
  let r := { s.ringRec ring with frzBme := false }
  let s1 := s.setRing ring r
  if s.ringState ring = 2 ∧ !r.frzRcl then (s1.fset (RF.RING_STAT_STATE ring) 1).ringSettle ring else s1

/-- Rings some register of which has been written; every other one is PF0's and DISABLED (R383). -/
def State.ringsUsed (s : State) : List Nat :=
  ((s.regs.filter fun e => decide (0xC0000 ≤ e.1 ∧ e.1 < 0xC8000)).map fun e =>
    (e.1 - 0xC0000) / 32).eraseDups

/-- Rings of a function; those of them not DISABLED. -/
def State.ringsAll (s : State) (fn : Nat) : List Nat := s.ringsUsed.filter fun n => decide (s.ringFn n = fn)
def State.ringsOf (s : State) (fn : Nat) : List Nat :=
  (s.ringsAll fn).filter fun n => decide (s.ringState n ≠ 0)

/-- A ring becomes DISABLED at once, its uncompleted descriptors dropped (R360, R372, R382). -/
def State.ringDrop (s : State) (ring : Nat) : State :=
  let descs := s.host.descs.filter fun d => d.ring != ring
  let s1 : State := { s with host := { s.host with descs := descs } }
  let s2 := s1.reqDrop fun q => decide (q.kind = 2 ∧ q.ring = ring)
  let mine := fun (o : XOwner) => match o with
    | .hdma r _ => r == ring
    | _ => false
  let wq := s2.host.wq.filter fun h => !mine h.owner
  let s3 : State := { s2 with host := { s2.host with wq := wq } }
  (((s3.setRing ring {}).setReg (Reg.RING_STAT ring) 0).fset (RF.RING_CFG_EN ring) 0)

end Sys2Proof.Machine
end

