-- ==== Sys2Proof/Machine/LinkOps.lean ====
section
/-! DEFINITION. Operations of ports and links: routing, link tags, control words, credits and arbitration,
failover, discovery, readiness (R219 to R238, R291 to R301, R317, R396 to R401). Ports carry their logical
numbers: with SUBST, physical port 31 acts as the port it stands in for (R397). -/

namespace Sys2Proof.Machine

/-! Port numbers (R397). -/

/-- Logical port of a physical one; none for the transmitters that SUBST keeps shut. -/
def State.logi (s : State) (p : Nat) : Option Nat :=
  match s.substFor with
  | some q => if p = 31 then some q else if p = q then none else some p
  | none => some p

/-- An event at a physical port, where the port acts. -/
def State.onPort (s : State) (p : Nat) (f : Nat → State) : State :=
  match s.logi p with
  | some q => f q
  | none => s

/-- KIND that FAB_PORT_p shows: 0 local, 1 global, 2 spare or service, 3 die port (R230, R252). -/
def portKind (p : Nat) : Nat := if p < 15 then 0 else if p < 31 then 1 else if p = 31 then 2 else 3

/-! Link records. -/

def State.setPort (s : State) (p st : Nat) : State := s.fset (RF.FAB_PORT_STATE p) st

/-- Lull substate (R319). -/
def State.lsub (s : State) (p : Nat) : Nat := s.fget (RF.OPT_PORT_STAT_LSUB p)
def State.setLsub (s : State) (p v : Nat) : State := s.fset (RF.OPT_PORT_STAT_LSUB p) v

/-- A list with one entry replaced. -/
def setAt (l : List Nat) (i v : Nat) : List Nat := l.set i v

/-! Received power (R309 to R312). -/

/-- Powers of a port's lanes as OPT_RXPWR or OPT_DLANE_PWR hold them. -/
def State.lanePwrs (s : State) (p : Nat) : List Nat :=
  if p < 32 then (List.range 16).map fun l => s.fget (RF.OPT_RXPWR_PWR p (l / 4) (l % 4))
  else (List.range 384).map fun l => s.opt.dlane.get 0x8000 ((p - 32) * 384 + l)

/-- Some lane of the port is below WARN_LO (R311). -/
def State.pwrLow (s : State) (p : Nat) : Bool :=
  (s.lanePwrs p).any fun x => decide (signedN 16 x < signedN 16 (s.fget RF.OPT_THRESH_WARN_LO))

/-! Control words (R220, R317). -/

/-- A local wake trigger: a queued cell, NOLULL or DIS (R320). -/
def State.wakeLevel (s : State) (p : Nat) : Bool :=
  !(s.link p).queue.isEmpty || decide (s.fget (RF.OPT_PORT_CFG_NOLULL p) = 1) ||
    decide (s.fget (RF.FAB_PORT_DIS p) = 1)

/-- The lull command of a control word that tells of none of its own (R319, R320): LULL_REQ and LULL_ACK are
repeated in every word; an initiator with a local trigger sends NONE. -/
def State.lullRepeat (s : State) (p : Nat) : Nat :=
  if p < 32 then
    if s.lsub p = 1 then (if s.wakeLevel p then 0 else 1) else if s.lsub p = 2 then 2 else 0
  else 0

/-- The control word of a port, with a lull command and GOING_DOWN. -/
def State.ctlWord (s : State) (p lcmd0 : Nat) (down : Bool) : BitVec 128 :=
  let r := s.link p
  let lcmd := if lcmd0 = 0 then s.lullRepeat p else lcmd0
  let cred := (List.range 8).foldl (fun (a : Nat) n => a + 2 ^ (8 * n) * min 255 (r.owed.getD n 0)) 0
  let phyf := lcmd + 8 * (s.fget (RF.OPT_PORT_STAT_TSTAGE p)) + 64 * s.fget (RF.OPT_PORT_STAT_SHUT p)
    + 128 * b2n (s.pwrLow p) + 256 * r.ltok
  let w := (r.rx + 4095) % 4096 + 2 ^ 12 * b2n r.rxAny + 2 ^ 13 * r.rx * b2n r.nack + 2 ^ 25 * b2n r.nack
    + 2 ^ 26 * b2n down + 2 ^ 32 * cred + 2 ^ 96 * phyf
  BitVec.ofNat 128 (w + 2 ^ 112 * crc16 (leBytes 14 w))

/-- Physical port that a logical one uses (R397). -/
def State.phys (s : State) (p : Nat) : Nat := if p < 32 then s.wirePort p else p

/-- A control slot goes out: its bits join the overhead stream, which the lanes carry (R294). -/
def State.sendSlotCtl (s : State) (p cw : Nat) : State :=
  let r := s.link p
  let x := r.ovh.push ovhBits (portLanes p) (ctlSlot cw) 132
  ((s.setLink p { r with ovh := x.1 }).emit (.ctl (s.phys p) (ctlSlot cw))).emits
    (x.2.map fun e => Out.lane (s.phys p) e.1 true e.2.1 e.2.2)

/-- Control words with the port's present values go out until every owed credit has been returned. -/
def State.ctlRun : Nat → State → Nat → Nat → Bool → State
  | 0, s, _, _, _ => s
  | k + 1, s, p, lcmd, down =>
    let r := s.link p
    let s1 := (s.setLink p { r with owed := r.owed.map fun x => x - 255 }).sendSlotCtl p (s.ctlWord p lcmd down).toNat
    if r.owed.any fun x => decide (255 < x) then State.ctlRun k s1 p lcmd down else s1

def State.sendCtl (s : State) (p lcmd : Nat) (down : Bool) : State := State.ctlRun 40 s p lcmd down

/-- A cell of a virtual channel has left a port's input buffer: its credit goes back (R225). -/
def State.owe (s : State) (p vc : Nat) : State :=
  if p < 40 then
    let r := s.link p
    (s.setLink p { r with owed := setAt r.owed vc (r.owed.getD vc 0 + 1) }).sendCtl p 0 false
  else s

/-! Sending (R219, R221, R225, R226). -/

/-- Even parity over header bits [43:32] of a cell. -/
def hpar (c : CellW) : Nat := ((List.range 12).filter fun i => bit c (32 + i)).length % 2

/-- A cell ended early: its CRC-32C is inverted (R223). -/
def stomped (c : CellW) : Bool := decide (fld c 480 32 = Nat.xor (Cell.crc c) 0xFFFFFFFF)

/-- Link tag of a cell, with STOMP on one ended early (R219, R223). -/
def linkTag (lseq : Nat) (c : CellW) : Nat := lseq % 4096 + 2 ^ 12 * b2n (stomped c) + 2 ^ 13 * hpar c

/-- A tagged cell goes out on a link: its 66 bytes join the cell stream, which the lanes carry (R219, R293). -/
def State.sendWire (s : State) (p lseq : Nat) (c : CellW) : State :=
  let r := s.link p
  let x := r.cells.push blockBits (portLanes p) (wireBits (linkTag lseq c) c) 528
  ((s.setLink p { r with cells := x.1 }).emit (.link (s.phys p) (linkTag lseq c) c)).emits
    (x.2.map fun e => Out.lane (s.phys p) e.1 false e.2.1 e.2.2)

/-- A port may send a cell of a virtual channel now; in a lull handshake it sends none (R319, R320). -/
def State.canSend (s : State) (p vc : Nat) : Bool :=
  let r := s.link p
  let st := s.portState p
  (decide (st = 3 ∧ s.lsub p = 0) || (decide (st = 2) && decide (vc = 6))) && decide (r.replay.length < 4095) &&
    decide (0 < r.credits.getD vc 0)

/-- One cell goes on a link: tagged, kept for replay, its credit spent. -/
def State.txRaw (s : State) (p vc : Nat) (c : CellW) : State :=
  let r := s.link p
  let c1 := putFld c 32 3 vc
  let r1 := { r with tx := (r.tx + 1) % 4096, replay := r.replay ++ [(r.tx, c1)],
                     credits := setAt r.credits vc (r.credits.getD vc 0 - 1) }
  (s.setLink p r1).sendWire p r.tx c1

/-- One cell goes on a link, and its input buffer is free. -/
def State.txCell (s : State) (p inP vc : Nat) (c : CellW) : State := (s.txRaw p vc c).owe inP (Cell.vc c)

/-- Steps from the entry served last to `x`, around a circle of n. -/
def after (n last x : Nat) : Nat := (x + 2 * n - last - 1) % n

/-- The queued cell a port serves next: VC6 first, then the next VC in turn, then the next input in turn. -/
def State.nextCell (s : State) (p : Nat) : Option (Nat × Nat × CellW) :=
  let r := s.link p
  let ready := r.queue.filter fun e => s.canSend p e.2.1
  let key := fun (e : Nat × Nat × CellW) =>
    let v := if e.2.1 = 6 then 0 else 1 + after 6 r.rrVc e.2.1
    v * 64 + after 41 (r.rrIn.getD e.2.1 40) e.1
  ready.foldl (fun (a : Option (Nat × Nat × CellW)) e => match a with
    | none => some e
    | some b => if key e < key b then some e else some b) none

/-- A port sends what it can. -/
def State.linkPump : Nat → State → Nat → State
  | 0, s, _ => s
  | k + 1, s, p =>
    match s.nextCell p with
    | none => s
    | some e =>
      let r := s.link p
      let i := (r.queue.findIdx? fun x => decide (x = e)).getD 0
      let r1 := { r with queue := r.queue.eraseIdx i, rrIn := setAt r.rrIn e.2.1 e.1,
                         rrVc := if e.2.1 = 6 then r.rrVc else e.2.1 }
      State.linkPump k ((s.setLink p r1).txCell p e.1 e.2.1 e.2.2) p

def State.linkRun (s : State) (p : Nat) : State := State.linkPump (s.link p).queue.length s p

/-- A cell is queued for a port. -/
def State.enqueue (s : State) (p inP vc : Nat) (c : CellW) : State :=
  let r := s.link p
  (s.setLink p { r with queue := r.queue ++ [(inP, vc, c)] }).linkRun p

/-- A management cell of this hive goes out on a port. -/
def State.sendMgmt (s : State) (p : Nat) (c : CellW) : State := s.enqueue p 40 6 c

/-- Cells kept for replay go out again from `i` on (R221, R223). -/
def State.replayFrom (s : State) (p i : Nat) : State :=
  ((s.link p).replay.drop i).foldl (fun (s : State) e => s.sendWire p e.1 e.2) s

/-! Routing (R231, R232, R236, R238). -/

def rtKey (b m : Nat) : Nat := b * 4096 + m
def State.rtEntry (s : State) (b m : Nat) : Nat := s.fab.rt.get 0 (rtKey b m)

/-- Where a cell goes. -/
inductive RouteTo
  | port (p vc : Nat)
  | internal
  | bad
  | stale
  /-- no route; `guard`: the phase check fired. -/
  | noroute (guard : Bool)
  deriving DecidableEq, Repr

/-- R232, from the arrival port; the class of a cell is the low bit of its VC (R224). -/
def State.lookup (s : State) (inP : Nat) (c : CellW) : RouteTo :=
  let cls := Cell.vc c % 2
  if Cell.dstMod c = s.module then
    if Cell.dstTgt c ≤ 7 then .port (32 + Cell.dstTgt c) cls
    else if Cell.dstTgt c = 8 then .internal
    else .bad
  else
    let b := Cell.gen c % 2
    if !s.bankLive b || decide (s.fab.bankGen.get 0 b ≠ Cell.gen c) then .stale
    else
      let e := s.rtEntry b (Cell.dstMod c)
      if !rtVALID e || decide (rtGEN e ≠ Cell.gen c) then .noroute false
      else if inP < 32 ∧ rtPHASE e ≤ Cell.vc c / 2 then .noroute true
      else .port (if rtALT e then rtAPORT e else rtPPORT e) (2 * rtPHASE e + cls)

/-- A cell to or from a fenced unit of another module; the fence notice is excepted (R438). A fenced unit of
this module is held in reset, and absorbs its cells instead. -/
def State.fencedCell (s : State) (c : CellW) : Bool :=
  let is := fun (m t : Nat) => s.saf.fence.any fun e => decide (e.md = m ∧ m ≠ s.module) &&
    (decide (e.die = none) || decide (e.die = some t))
  (is (Cell.srcMod c) (Cell.srcTgt c) || is (Cell.dstMod c) (Cell.dstTgt c)) &&
    !(decide (Cell.type c = 12 ∧ Cell.job c = 0) && decide (Cell.srcMod c = s.module))

/-- A header that no cell may have (R213, R224). -/
def Cell.badHead (c : CellW) : Bool :=
  decide (Cell.type c = 0 ∨ 13 < Cell.type c ∨ Cell.hresv c ≠ 0 ∨ Cell.vc c = 7)

/-- A cell without a route is dropped and counted (R232, R236). -/
def State.dropNoroute (s : State) : State := (s.finc RF.FAB_DROP1_NOROUTE 1).noteDrop 0x8403 1

/-- A cell at its output, in place of the way in; `again` marks one looked up after a failover. -/
def State.deliver (s : State) (inP : Nat) (c : CellW) (dest : RouteTo) : State :=
  let done := fun (s : State) => s.owe inP (Cell.vc c)
  match dest with
  | .bad => done (s.finc RF.FAB_DROP2_BAD 1)
  | .stale => done ((s.finc RF.FAB_DROP0_STALE 1).nackCell 8 stSTALE 1 c)
  | .noroute g =>
    let s1 := s.dropNoroute
    done (if g then s1.fabRec 0x8403 2 inP (if inP < 40 then s.portState inP else 0) 0 s.gen else s1)
  | .internal => done (s.emit (.link 40 0 c))
  | .port p vc =>
    if 32 ≤ p then
      if s.dieAbsorbs (p - 32) then done (s.absorb (p - 32))
      else if Cell.job c ≠ s.dieJob (p - 32) ∧ Cell.job c ≠ 0 then done (s.dropJob p c)
      else s.enqueue p inP vc c
    else if s.portState p = 3 ∨ s.portState p = 4 ∨ s.portState p = 5 then s.enqueue p inP vc c
    else done s.dropNoroute

/-- A VC6 cell enters the hive's management queue, or is dropped and counted when that is full; its buffer space is
free again (R224, R247). -/
def State.mgmtTake (s : State) (inP : Nat) (c : CellW) : State :=
  let room := decide (s.fab.mgmtQ.length < Config.mgmtQueue)
  let fab := if room then { s.fab with mgmtQ := s.fab.mgmtQ ++ [(inP, c)] }
    else { s.fab with mgmtDrop := s.fab.mgmtDrop + 1 }
  let s1 := ({ s with fab := fab } : State).owe inP 6
  if room && decide (Cell.type c = 12 ∧ Cell.len c = 48 ∧ Cell.dstMod c = s.module) then
    s1.queenTake (Cell.srcMod c) (Config.msgNums (Cell.payBytes c 0 48))
  else s1

/-- The queen has taken cells of a type that came in on a port from the management queue: the oldest, or all. -/
def State.mgmtDone (s : State) (p type : Nat) (all : Bool) : State :=
  let mine := fun (e : Nat × CellW) => decide (e.1 = p ∧ Cell.type e.2 = type)
  let q := s.fab.mgmtQ
  let left := if all then q.filter fun e => !mine e else match q.findIdx? mine with
    | some i => q.eraseIdx i
    | none => q
  { s with fab := { s.fab with mgmtQ := left } }

/-- A cell in the hive router (R213, R232, R237, R246, R247, R438). -/
def State.forward (s : State) (inP : Nat) (c0 : CellW) : State :=
  let c := if 32 ≤ inP then putFld c0 40 4 s.gen else c0
  let done := fun (s : State) => s.owe inP (Cell.vc c)
  if s.fencedCell c then done (s.finc RF.FAB_DROP0_STALE 1)
  else if Cell.badHead c then done (s.finc RF.FAB_DROP2_BAD 1)
  else if 32 ≤ inP ∧ inP < 40 ∧ Cell.job c ≠ s.dieJob (inP - 32) then done (s.dropJob inP c)
  else if Cell.vc c = 6 then s.mgmtTake inP c
  else s.deliver inP c (s.lookup inP c)

/-! Failover (R236). -/

/-- The entries of a live bank that name a port, changed by `f`. -/
def State.mapEntries (s : State) (b p : Nat) (f : Nat → Nat) : State :=
  let rt := s.fab.rt.map fun e =>
    if e.1 / 4096 = b ∧ rtVALID e.2 ∧ rtPPORT e.2 = p then (e.1, f e.2) else e
  if s.bankLive b then { s with fab := { s.fab with rt := rt } } else s

/-- ALT_ACTIVE is set where an UP alternate exists. -/
def State.steer (s : State) (p : Nat) : State :=
  let up := fun (e : Nat) => decide (rtAPORT e ≠ p) && decide (s.portState (rtAPORT e) = 3)
  let f := fun (e : Nat) => if up e && !rtALT e then e + 2 ^ 20 else e
  ((s.mapEntries 0 p f).mapEntries 1 p f).altBit p

/-- ALT_ACTIVE is cleared. -/
def State.unsteer (s : State) (p : Nat) : State :=
  let f := fun (e : Nat) => if rtALT e then e - 2 ^ 20 else e
  ((s.mapEntries 0 p f).mapEntries 1 p f).altBit p

/-- Cells queued for a port that is DOWN are looked up again; one record tells of those dropped. -/
def State.resteer (s : State) (p : Nat) : State :=
  let q := (s.link p).queue
  let n := s.fget RF.FAB_DROP1_NOROUTE
  let s1 := s.setLink p { s.link p with queue := [] }
  let s2 := q.foldl (fun (s : State) e =>
    if e.2.1 = 6 then s.owe e.1 (Cell.vc e.2.2)
    else match s.lookup e.1 e.2.2 with
      | .noroute _ => (s.dropNoroute).owe e.1 (Cell.vc e.2.2)
      | r => s.deliver e.1 e.2.2 r) s1
  if s2.fget RF.FAB_DROP1_NOROUTE = n then s2
  else s2.fabRec 0x8403 2 p (s2.portState p) 0 s2.gen

/-! Discovery (R396, R399). -/

def State.topo (s : State) (p : Nat) : Nat := s.fget (RF.QN_TOPO_PORT (p / 16) (p % 16))

/-- Milliseconds since power good or the reset. -/
def State.bootMs (s : State) : Nat := (s.clk - s.boot.t0) / 1000000

/-- A port's discovery code changes; a change into 3 to 7 is recorded. -/
def State.setTopo (s : State) (p code peer : Nat) : State :=
  if s.topo p = code then s
  else
    let s1 := s.fset (RF.QN_TOPO_PORT (p / 16) (p % 16)) code
    if 3 ≤ code ∧ code ≤ 7 then
      (s1.hiveRec 0x8004 p 2 (pay [(1, 0xFF), (1, p), (1, code), (1, 0), (4, peer), (4, s.bootMs)])).isum 4
    else s1

/-- Code of a port whose peer is not identified. -/
def State.topoIdle (s : State) (p : Nat) : Nat :=
  if s.fget (RF.OPT_PORT_STAT_SHUT p) = 1 then 8
  else if s.boot.wire = [] then 1
  else if s.wireKind p = 0 then 0
  else if s.portState p = 0 ∧ s.fget (RF.OPT_PORT_STAT_LOS p) = 1 then 2
  else 1

/-! Readiness (R389, R400). -/

/-- The conditions of R400 hold. -/
def State.readyHolds (s : State) : Bool :=
  decide (s.fget RF.QN_BOOT_STAT_PHASE = 5) && decide (s.boot.wire ≠ [])
    && ((List.range 32).all fun p => decide (s.topo p < 3 ∨ s.topo p = 8)
      && (!s.wireReq p || decide (s.topo p = 0)))
    && (List.range 8).any fun d => decide (s.dieState d ≠ 2)

/-- READY is set the moment its conditions hold; it stays until the next module reset. -/
def State.tryReady (s : State) : State :=
  if s.fget RF.QN_BOOT_STAT_READY = 1 || !s.readyHolds then s
  else
    let s1 := ((s.fset RF.QN_BOOT_STAT_READY 1).fset RF.QN_BOOT_STAT_ELAPSED s.bootMs).isum 3
    (s1.hiveRec 0x8001 0 0 (s1.qnPay 0xFF 0 0 5)).ringsReady

/-! Summaries (R234, R235). -/

/-- The nibble of a destination in a summary. -/
def rtxNib (bs : Bytes) (x : Nat) : Nat := bitsN (byteAt bs (x / 2)).toNat (4 * (x % 2)) 4

/-- The summary a hive sends on a port for a bank. -/
def State.rtxOf (s : State) (b p : Nat) : Bytes :=
  let nib := fun (x : Nat) =>
    let e := s.rtEntry b x
    if rtVALID e && !bitN e 14 then
      b2n (decide (rtPPORT e = p)) + 2 * b2n (decide (rtAPORT e = p)) + 4 * rtPHASE e
    else 0
  (List.range 2048).map fun k => BitVec.ofNat 8 (nib (2 * k) + 16 * nib (2 * k + 1))

/-- The cells of a summary, on VC6. -/
def State.sendRtx (s : State) (b p : Nat) : State :=
  let bs := s.rtxOf b p
  (List.range 43).foldl (fun (s : State) k =>
    let d := (bs.drop (48 * k)).take 48
    s.sendMgmt p (mkCell (s.wirePeer p) 8 s.module 8 13 (s.fab.bankGen.get 0 b) 0 false (k == 42) d.length 0 k d)) s

/-- Every destination a neighbour forwards here has an own entry of a higher phase, or is this module. -/
def State.rtxGood (s : State) (b : Nat) (bs : Bytes) : Bool :=
  (List.range 4096).all fun x =>
    let n := rtxNib bs x
    decide (n % 4 = 0) || decide (x = s.module) ||
      (rtVALID (s.rtEntry b x) && decide (n / 4 < rtPHASE (s.rtEntry b x)))

/-- The summary received on a port for a generation. -/
def State.rtxHas (s : State) (p g : Nat) : Option Bytes :=
  (s.fab.rtx.find? fun e => decide (e.1 = p ∧ e.2.1 = g)).map fun e => e.2.2

/-- A port has passed the check of R235 for a bank. -/
def State.bankPass (s : State) (p b : Nat) : Bool :=
  !s.bankLive b || match s.rtxHas p (s.fab.bankGen.get 0 b) with
    | some bs => s.rtxGood b bs
    | none => false

/-! States of a port (R222). -/

/-- What waited for a die's port goes on: the wort engine's reads, and transfers toward the host (R15, R370, R374). -/
def State.portOpen (s : State) (p : Nat) : State := if 32 ≤ p then (s.wortResume (p - 32)).hostRun else s

/-- The other end has passed its check (R235): it says so, or holds no live bank to check. The spec does not say how
it tells (log entry 62). -/
def State.peerPassed (s : State) (p : Nat) : Bool := (s.link p).peerPass || !bitN (s.link p).peerGen 7

/-- A port enters UP. -/
def State.linkUp (s : State) (p : Nat) : State :=
  let r := s.link p
  let s1 := (s.setPort p 3).setLink p { r with eqHeld := true, fails := 0 }
  let s2 := (s1.fset (RF.OPT_PORT_STAT_TSTAGE p) 7).setLsub p 0
  ((s2.fabRec 0x8402 0 p 3 0 s.gen).linkRun p).portOpen p

/-- A HELD port passes to UP: a die port at once, an external one when its identity matches and both ends pass
(R222, R235). -/
def State.tryUp (s : State) (p : Nat) : State :=
  if s.portState p = 2 ∧ (32 ≤ p ∨ (s.topo p = 0 ∧ (s.link p).ident ∧ s.bankPass p 0 ∧ s.bankPass p 1 ∧ s.peerPassed p)) then
    s.linkUp p
  else s

/-- A port enters DOWN: unacknowledged cells go, entries fail over, queued cells are steered again, and set-ups are
re-evaluated (R35, R223, R236, R253). -/
def State.linkDown (s : State) (p : Nat) : State :=
  let r := s.link p
  let n := r.replay.length
  let r1 : LinkRec := { queue := r.queue, rrVc := r.rrVc, rrIn := r.rrIn, stomps := r.stomps,
                        absorbed := r.absorbed, eqHeld := r.eqHeld, fails := r.fails, ltok := r.ltok }
  let rtx := s.fab.rtx.filter fun e => e.1 != p
  let s0 : State := { s with fab := { s.fab with rtx := rtx } }
  let s1 := ((s0.setLink p r1).finc RF.FAB_DROP2_LINKLOSS n).noteDrop 0x8401 n
  let dis := decide (p < 32) && decide (s.fget (RF.FAB_PORT_DIS p) = 1)
  let s2 := ((s1.setPort p (if dis then 6 else 0)).finc (RF.FAB_PORT_DOWNS p) 1).fset
    (RF.OPT_PORT_STAT_TSTAGE p) 0
  let s3 := (s2.setLsub p 0).fabRec 0x8401 1 p (if dis then 6 else 0) 0 s.gen
  if p < 32 then
    let s4 := (s3.steer p).resteer p
    ((s4.setTopo p (s4.topoIdle p) 0).portEdge p).reevaluate
  else s3.reevaluate

/-- A port begins training (R222, R298). -/
def State.trainStart (s : State) (p : Nat) (retained : Bool) : State :=
  let r := s.link p
  let s1 := (s.setLink p { r with retained := retained, tx := 0, rx := 0, rxAny := false, six := 0, cells := {},
                                  ovh := {} }).setPort p 1
  let s2 := s1.fset (RF.OPT_PORT_STAT_TSTAGE p) 1
  if p < 32 then s2.setTopo p (s2.topoIdle p) 0 else s2

/-- Credits of a port's input buffer for a virtual channel (R225). -/
def State.bufCells (s : State) (p vc : Nat) : Nat :=
  if p < 32 then 32 * s.fget (RF.FAB_CRED_VC p vc)
  else if vc ≤ 1 then 1920 else if vc = 6 then 256 else 0

/-! Identity (R398, R401). -/

/-- The identity message of a port. -/
def State.identityMsg (s : State) (p : Nat) : Bytes :=
  let md := s.module + 2 ^ 15 * b2n (s.boot.wire == [])
  let active := decide (s.bank 0 = 4 ∨ s.bank 1 = 4)
  leBytes 2 md ++ [BitVec.ofNat 8 p, BitVec.ofNat 8 (s.wireKind p)] ++ leBytes 4 (leAt s.boot.wire 8 4)
    ++ [BitVec.ofNat 8 (s.gen + 128 * b2n active), BitVec.ofNat 8 (s.topo p), 0, 0, 0, 0, 0, 0]
    ++ leBytes 8 (s.fget RF.HIVE_SERIAL_SERIAL)

def State.sendIdentity (s : State) (p : Nat) : State :=
  s.sendMgmt p (mkCell (s.wirePeer p) 8 s.module 8 12 s.gen 0 false true 24 0 0 (s.identityMsg p))

/-- A port enters HELD after its last training stage (R222, R235, R298, R398). -/
def State.linkHeld (s : State) (p : Nat) : State :=
  let r := s.link p
  let owed := (List.range 8).map (s.bufCells p)
  let s1 := (s.setLink p { r with tx := 0, rx := 0, rxAny := false, nack := false, replay := [],
                                  owed := owed, ident := false, peerPass := false }).setPort p 2
  let s2 := (s1.fset (RF.OPT_PORT_STAT_TSTAGE p) 6).sendCtl p 0 false
  if p < 32 then
    [0, 1].foldl (fun (s : State) b => if s.bankLive b then s.sendRtx b p else s) (s2.sendIdentity p)
  else s2.tryUp p

/-- With both banks FREE, CUR_GEN follows the lowest-numbered matching peer that has an ACTIVE bank; a
disagreeing one is recorded (R401). -/
def State.adoptGen (s : State) : State :=
  if s.bank 0 ≠ 0 ∨ s.bank 1 ≠ 0 then s
  else
    let ps := (List.range 32).filter fun p => decide (s.topo p = 0) && (s.link p).ident &&
      bitN (s.link p).peerGen 7
    match ps with
    | [] => s
    | p :: t =>
      let g := (s.link p).peerGen % 16
      let s1 := s.fset RF.RT_GEN_CUR_GEN g
      match t.find? fun q => decide ((s.link q).peerGen % 16 ≠ g) with
      | some q => s1.hiveRec 0x8005 0 1 (pay [(1, 0xFF), (1, q), (1, 0), (1, 0),
          (4, s.wirePeer q + 2 ^ 16 * s.wirePeerPort q), (4, s.bootMs)])
      | none => s1

/-- An UP port resumes after a stall: its unacknowledged cells are replayed (R223). -/
def State.linkResume (s : State) (p : Nat) : State := (((s.setPort p 3).replayFrom p 0).linkRun p).portOpen p

/-! Die-port lanes (R301, R302). -/

/-- Key of a die-port lane. -/
def dlaneKey (die dir lane : Nat) : Nat := (die * 2 + dir) * 192 + lane

/-- A die-port lane is permanently faulted: the port goes DOWN for good and the die is FAILED. -/
def State.dlanePerm (s : State) (die dir lane : Nat) : State :=
  if s.opt.perm.get 0 (dlaneKey die dir lane) = 1 then s
  else
    let s0 : State := { s with opt := { s.opt with perm := s.opt.perm.put (dlaneKey die dir lane) 1 } }
    let s1 := if s.portState (32 + die) = 0 then s0 else s0.linkDown (32 + die)
    let s2 := s1.hiveRec 0x8602 0 2 (pay [(1, die), (1, dir), (2, lane)])
    (s2.voteFailed die).dieFailed die

/-- Number of the present window of 100 ms. -/
def State.ucwWin (s : State) : Nat := s.clk / 100000000

/-- An uncorrectable codeword of a die-port lane (R301): more than OPT_DPERM.UCW_LIM in each of three consecutive
windows fault it permanently. `l`: 192 × direction + lane. -/
def State.ucwAt (s : State) (die l : Nat) : State :=
  let k := die * 384 + l
  let (w, c, pv, run) := s.opt.ucw.get (0, 0, 0, 0) k
  let lim := s.fget RF.OPT_DPERM_UCW_LIM
  let (c1, pv1, run1) := if s.ucwWin = w then (c, pv, run)
    else if s.ucwWin = w + 1 then (0, c, if lim < c then run + 1 else 0) else (0, 0, 0)
  let s1 : State := { s with opt := { s.opt with ucw := s.opt.ucw.put k (s.ucwWin, c1 + 1, pv1, run1) } }
  if lim < c1 + 1 ∧ 2 ≤ run1 then s1.dlanePerm die (l / 192) (l % 192) else s1

/-- The FEC of a codeword: it corrects up to 15 symbol errors, or delivers it as received (R292). -/
def State.fecCount (s : State) (p : Nat) (x : LaneRx) : State :=
  let e := x.errs.toNat
  if e = 0 then s
  else if e ≤ fecMax then s.finc (RF.OPT_PORT_STAT_FEC_CORR p) 1
  else
    let s1 := s.finc (RF.OPT_PORT_STAT_FEC_UCW p) 1
    if 32 ≤ p then s1.ucwAt (p - 32) x.lane.val else s1

/-- A lane's power has stayed below the low-power alarm for 100 ms (R301). -/
def State.lowLong (s : State) (die dir lane : Nat) : Bool :=
  let t := s.opt.lowAt.get 0 (dlaneKey die dir lane)
  decide (t ≠ 0 ∧ t - 1 + 100000000 ≤ s.clk)

/-- A lane's uncorrectable codewords exceed the limit in each of three consecutive windows (R301). -/
def State.ucwLong (s : State) (die dir lane : Nat) : Bool :=
  let (_, c, _, run) := s.opt.ucw.get (0, 0, 0, 0) (dlaneKey die dir lane)
  decide (s.fget RF.OPT_DPERM_UCW_LIM < c ∧ 2 ≤ run)

end Sys2Proof.Machine
end

