-- ==== Sys2Proof/Machine/LinkCmds.lean ====
section
/-! DEFINITION. Cells and control words at the links and the router: CELL_FORWARD, LINK_CELL_RECEIVE,
CONTROL_WORD_RECEIVE, MGMT_CELL, CELL_TTL_DROP (R219 to R229, R232, R247, R317 to R321). -/

namespace Sys2Proof.Machine

/-- CELL_FORWARD: a hive routes a received cell (R232). -/
def execCellForward (inPort : RouterPort) (cell : CellW) (s : State) : Host.Outcome State Fault Refusal :=
  .next (if inPort.val < 32 then s.onPort inPort.val fun p => s.forward p cell else s.forward inPort.val cell)

/-- A port receives cells: HELD or UP (R222). -/
def State.carries (s : State) (p : Nat) : Bool := decide (s.portState p = 2 ∨ s.portState p = 3)

/-- A link receiver's check of a cell (R221). -/
def State.linkCheck (s : State) (p : Nat) (tag : BitVec 16) (c : CellW) (whole : Bool) : State :=
  if !s.carries p then s
  else
    let r := s.link p
    let next := decide (fld tag 0 12 = r.rx)
    if bit tag 12 then
      let r1 := { r with stomps := r.stomps + 1 }
      if next then (s.setLink p { r1 with rx := (r.rx + 1) % 4096, rxAny := true }).owe p (Cell.vc c)
      else s.setLink p r1
    else if !whole || !Cell.good c || decide (b2n (bit tag 13) ≠ hpar c) || !next then
      if r.nack then s else (s.setLink p { r with nack := true }).sendCtl p 0 false
    else
      (s.setLink p { r with rx := (r.rx + 1) % 4096, rxAny := true, nack := false }).sendCtl p 0 false

/-- A cell as its codewords deliver it: their errors are counted, then the cell is checked. DESIGN CHOICE: with more
skew between its lanes than the receiver tolerates it counts as damaged (R292, R293; log entry 64). -/
def State.linkCell (s : State) (p : Nat) (tag : BitVec 16) (c : CellW) (lanes : List LaneRx) : State :=
  (if s.carries p then lanes.foldl (fun (s : State) x => s.fecCount p x) s else s).linkCheck p tag c (skewOk lanes)

/-- LINK_CELL_RECEIVE: a cell is accepted, or discarded with a request for its replay (R221). `lanes`: the codewords
that carried it. -/
def execLinkCellReceive (port : LinkPort) (tag : BitVec 16) (cell : CellW) (s : State) (lanes : List LaneRx := []) :
    Host.Outcome State Fault Refusal :=
  .next (if port.val < 32 then s.onPort port.val fun p => s.linkCell p tag cell lanes
    else s.linkCell port.val tag cell lanes)

/-! The lull handshake (R318 to R321). -/

/-- An end is lull-ready (R318). -/
def State.lullReady (s : State) (p : Nat) : Bool :=
  let r := s.link p
  decide (s.portState p = 3) && decide (s.fget (RF.OPT_PORT_CFG_LULL_EN p) = 1) &&
    decide (s.fget (RF.OPT_PORT_CFG_NOLULL p) = 0) && r.queue.isEmpty && r.replay.isEmpty &&
    r.owed.all fun x => x == 0

/-- A lulled port begins its exit: it powers up and sends a wake tone. -/
def State.wakeUp (s : State) (p : Nat) : State :=
  ((s.setLink p { s.link p with toned := false }).setLsub p 5).emit (.optic (s.wirePort p) 0)

/-- An end enters LULL, in ENTRY; a trigger that is already there wakes it at once (R319, R320). -/
def State.lullEnter (s : State) (p : Nat) : State :=
  let s1 := ((s.setLink p { s.link p with entryAt := s.clk }).setPort p 5).setLsub p 3
  if s1.wakeLevel p then s1.wakeUp p else s1

/-- A port is DISABLED: its peer is told, and it goes DOWN on its way (R220, R222). -/
def State.portDisable (s : State) (p : Nat) : State :=
  if s.portState p = 2 ∨ s.portState p = 3 ∨ s.portState p = 4 then (s.sendCtl p 0 true).linkDown p
  else if s.portState p = 5 then s.linkDown p
  else ((s.setPort p 6).fset (RF.OPT_PORT_STAT_TSTAGE p) 0).reevaluate

/-- The exit from lull ends: queued cells go; the end that was not woken by a tone tells its peer (R321). -/
def State.lullAwake (s : State) (p : Nat) : State :=
  let told := (s.link p).toned
  let s1 := ((s.setPort p 3).setLsub p 0).setLink p { s.link p with toned := false }
  let s2 := (if told then s1 else s1.sendCtl p 5 false).linkRun p
  if s2.fget (RF.FAB_PORT_DIS p) = 1 then s2.portDisable p else s2

/-- The lull command of a control word (R317 to R321). -/
def State.lullCmd (s : State) (p lcmd tok : Nat) : State :=
  let r := s.link p
  let sub := s.lsub p
  if lcmd = 1 then
    if s.portState p ≠ 3 ∨ s.module ≤ s.wirePeer p then s
    else
      let s1 := s.setLink p { r with ltok := tok }
      if sub = 2 ∨ s1.lullReady p then (s1.setLsub p 2).sendCtl p 2 false
      else ((s1.setLsub p 0).sendCtl p 3 false).linkRun p
  else if lcmd = 2 then
    if sub = 1 ∧ tok = r.ltok then
      if s.wakeLevel p then s.sendCtl p 0 false else (s.sendCtl p 4 false).lullEnter p
    else s
  else if lcmd = 3 then (if sub = 1 then (s.setLsub p 0).linkRun p else s)
  else if lcmd = 4 then (if sub = 2 ∧ tok = r.ltok then s.lullEnter p else s)
  else if lcmd = 5 then (if sub = 5 then s.lullAwake p else s)
  else s

/-- A control word at a port that can hear one. -/
def State.ctlCell (s : State) (p : Nat) (cw : BitVec 128) : State :=
  let st := s.portState p
  let hears := decide (st = 2 ∨ st = 3 ∨ (st = 1 ∧ 4 ≤ s.fget (RF.OPT_PORT_STAT_TSTAGE p)) ∨
    (st = 5 ∧ s.lsub p = 5))
  if !hears || decide (fld cw 112 16 ≠ crc16 (leBytes 14 cw.toNat)) then s
  else if bit cw 26 then (if st = 1 then s else s.linkDown p)
  else
    let r := s.link p
    -- acknowledged cells leave the replay buffer
    let i := if bit cw 12 then match r.replay.findIdx? fun e => e.1 == fld cw 0 12 with
      | some i => i + 1
      | none => 0 else 0
    let credits := (List.range 8).map fun n => r.credits.getD n 0 + fld cw (32 + 8 * n) 8
    let s1 := s.setLink p { r with replay := r.replay.drop i, credits := credits }
    let s2 := if bit cw 25 then
        match (s1.link p).replay.findIdx? fun e => e.1 == fld cw 13 12 with
        | some k => (s1.finc (RF.FAB_PORT_RETRY p) 1).replayFrom p k
        | none => s1
      else s1
    let r2 := s2.link p
    let six := if fld cw 99 3 = 6 then r2.six + 1 else 0
    let s2 := if st = 1 ∧ s.fget (RF.OPT_PORT_STAT_TSTAGE p) = 6 then s2.setLink p { r2 with six := six } else s2
    let s3 := s2.linkRun p
    if p < 32 then s3.lullCmd p (fld cw 96 3) (fld cw 104 4) else s3

/-- A control slot whose marker is not 0b0110 is none (R294). -/
def State.slotIn (s : State) (p : Nat) (slot : BitVec 132) : State :=
  if slot.toNat % 16 = 6 then s.ctlCell p (BitVec.ofNat 128 (slot.toNat / 16)) else s

/-- CONTROL_WORD_RECEIVE: acknowledgements, NACK, credits, GOING_DOWN and the PHY field (R220, R294, R317). -/
def execControlWordReceive (port : LinkPort) (slot : BitVec 132) (s : State) :
    Host.Outcome State Fault Refusal :=
  .next (if port.val < 32 then s.onPort port.val fun p => s.slotIn p slot else s.slotIn port.val slot)

/-- MGMT_CELL: a hive consumes a VC6 cell into its management queue; its buffer space is free again (R224, R247). -/
def execMgmtCell (port : RouterPort) (cell : CellW) (s : State) : Host.Outcome State Fault Refusal :=
  let take := fun (p : Nat) =>
    if !Cell.good cell || decide (Cell.type cell ≠ 12 ∧ Cell.type cell ≠ 13) then s
    else if s.fencedCell cell then (s.finc RF.FAB_DROP0_STALE 1).owe p 6
    else s.mgmtTake p cell
  .next (if port.val < 32 then s.onPort port.val take else take port.val)

/-- The oldest cell held for a port, in its replay buffer or its queue, is dropped (R229). -/
def State.ttlDrop (s : State) (p : Nat) : State :=
  let r := s.link p
  let gone : Option State := match r.replay, r.queue with
    | _ :: t, _ => some (s.setLink p { r with replay := t })
    | [], e :: t => some ((s.setLink p { r with queue := t }).owe e.1 (Cell.vc e.2.2))
    | [], [] => none
  match gone with
  | none => s
  | some s1 => ((s1.finc RF.FAB_DROP1_TTL 1).noteDrop 0x8404 1).paced (0x8404 * 64 + p) 1000000 fun s =>
      s.fabRec 0x8404 1 p (if p < 40 then s.portState p else 0) 0 s.gen

/-- CELL_TTL_DROP: a cell has been held longer than the residency limit (R229). -/
def execCellTtlDrop (port : RouterPort) (s : State) : Host.Outcome State Fault Refusal :=
  .next (if port.val < 32 then s.onPort port.val s.ttlDrop else s.ttlDrop port.val)

end Sys2Proof.Machine
end

