-- ==== Sys2Proof/Machine/OpticCmds.lean ====
section
/-! DEFINITION. Ports and optics: identities, training, stalls, shut-off, received power, lull (R222, R223, R236,
R298 to R302, R309 to R321, R398 to R401). -/

namespace Sys2Proof.Machine

/-- IDENTITY_SEND: a HELD port repeats its identity until it has its peer's (R398). -/
def execIdentitySend (port : ExtPort) (s : State) : Host.Outcome State Fault Refusal :=
  .next (s.onPort port.val fun p => if s.portState p = 2 ∧ !(s.link p).ident then s.sendIdentity p else s)

/-- Discovery code that an identity gives a port (R399). -/
def State.identCode (s : State) (p : Nat) (b : Bytes) : Nat :=
  let md := leAt b 0 2
  if s.boot.wire = [] ∨ bitN md 15 then 1
  else if s.wireKind p = 0 then 6
  else if md % 4096 ≠ s.wirePeer p then 3
  else if leAt b 2 1 ≠ s.wirePeerPort p then 4
  else if leAt b 3 1 ≠ s.wireKind p then 5
  else if 3 ≤ leAt b 9 1 ∧ leAt b 9 1 ≤ 6 then 7
  else 0

/-- IDENTITY_RECEIVE: the port gets its code; on MATCH it may pass to UP (R399 to R401). -/
def execIdentityReceive (port : ExtPort) (msg : BitVec 192) (s : State) : Host.Outcome State Fault Refusal :=
  .next (s.onPort port.val fun p =>
    let s := s.mgmtDone p 12 false
    if s.portState p ≠ 2 then s
    else
      let b := leBytes 24 msg.toNat
      let code := s.identCode p b
      let r := { s.link p with ident := true, peerGen := leAt b 8 1 }
      let s1 := (s.setLink p r).setTopo p code (leAt b 0 2 % 4096 + 2 ^ 16 * leAt b 2 1)
      (s1.adoptGen.tryUp p).tryReady)

/-! Training (R222, R298, R299). -/

/-- An external port without light of its own: a slot that feeds it is dark for want of a spare, or the backstop has
cut the lasers of its half (R308, R315). -/
def State.portDark (s : State) (p : Nat) : Bool :=
  let h := s.phys p / 16
  decide (p < 32) && (decide (s.opt.cut.get 0 h = 1) || (List.range 8).any fun b =>
    decide (s.opt.dark.get 0 (b * 32 + 24 + 2 * h) = 1 ∨ s.opt.dark.get 0 (b * 32 + 25 + 2 * h) = 1))

/-- A port may train: bring-up has come to it, die ports from phase 1 on, external ports from phase 3 (R388, R392);
its die is in service (R302), and it has light to send (R308, R315). -/
def State.mayTrain (s : State) (p : Nat) : Bool :=
  let ph := s.fget RF.QN_BOOT_STAT_PHASE
  s.pwr.rails && decide (ph ≠ 7) && decide ((if p < 32 then 3 else 1) ≤ ph) &&
    !(decide (32 ≤ p) && s.dieAbsorbs (p - 32)) && !s.portDark p

/-- PORT_SIGNAL: light reaches a DOWN port, which trains; one that waits for a retry does not yet. -/
def State.signal (s : State) (p : Nat) : State :=
  let s1 := s.fset (RF.OPT_PORT_STAT_LOS p) 0
  let s2 := if p < 32 then s1.fsetBit RF.OPT_SAFE_MATED (p / 8) true else s1
  if s.portState p = 0 ∧ s.fget (RF.OPT_PORT_STAT_SHUT p) = 0 ∧ (s.link p).fails = 0 ∧ s.mayTrain p then
    s2.trainStart p (s.link p).eqHeld
  else s2

def execPortSignal (port : LinkPort) (s : State) : Host.Outcome State Fault Refusal :=
  .next (if port.val < 32 then s.onPort port.val s.signal else s.signal port.val)

/-- TRAIN_STAGE_DONE: the next stage; control words flow from stage 4 on. Stage 6 ends in HELD once both ends have
reported it in three consecutive control words (R298). -/
def State.stageDone (s : State) (p : Nat) : State :=
  let k := s.fget (RF.OPT_PORT_STAT_TSTAGE p)
  if s.portState p ≠ 1 then s
  else if k < 6 then
    let s1 := s.fset (RF.OPT_PORT_STAT_TSTAGE p) (k + 1)
    if k + 1 = 6 then ((s1.sendCtl p 0 false).sendCtl p 0 false).sendCtl p 0 false
    else if 4 ≤ k + 1 then s1.sendCtl p 0 false else s1
  else if 3 ≤ (s.link p).six then s.linkHeld p
  else s

def execTrainStageDone (port : LinkPort) (s : State) : Host.Outcome State Fault Refusal :=
  .next (if port.val < 32 then s.onPort port.val s.stageDone else s.stageDone port.val)

/-- TRAIN_STAGE_OVERRUN: the port goes DOWN; OPT_TRAIN_FAIL names the stage and the first failing lane
(R299). OPT_DPERM.RETRAIN_LIM failures in a row of a die port fault that lane permanently (R301; PRESUMED: a lane of
192 or more stands for the direction hive to die, log entry 63). -/
def State.stageOverrun (s : State) (p lane : Nat) : State :=
  let k := s.fget (RF.OPT_PORT_STAT_TSTAGE p)
  if s.portState p ≠ 1 then s
  else
    let s1 := s.setLink p { s.link p with fails := (s.link p).fails + 1 }
    let s2 := (s1.linkDown p).hiveRec 0x8601 p 1 (pay [(1, p), (1, k), (2, lane)])
    if 32 ≤ p ∧ s.fget RF.OPT_DPERM_RETRAIN_LIM ≤ (s.link p).fails + 1 then
      s2.dlanePerm (p - 32) (lane / 192 % 2) (lane % 192) else s2

def execTrainStageOverrun (port : LinkPort) (lane : BitVec 16) (s : State) :
    Host.Outcome State Fault Refusal :=
  .next (if port.val < 32 then s.onPort port.val fun p => s.stageOverrun p lane.toNat
    else s.stageOverrun port.val lane.toNat)

/-- TRAIN_RETRY: a failed port trains again, with cold limits (R299). -/
def State.trainRetry (s : State) (p : Nat) : State :=
  if s.portState p = 0 ∧ s.fget (RF.OPT_PORT_STAT_SHUT p) = 0 ∧ (s.link p).fails ≠ 0 ∧ s.mayTrain p then
    s.trainStart p false
  else s

def execTrainRetry (port : LinkPort) (s : State) : Host.Outcome State Fault Refusal :=
  .next (if port.val < 32 then s.onPort port.val s.trainRetry else s.trainRetry port.val)

/-! Stalls and losses (R222, R223). -/

/-- PORT_STALL: no valid symbol for 1 µs on an UP port. -/
def State.stall (s : State) (p : Nat) : State := if s.portState p = 3 then s.setPort p 4 else s

/-- The copy of a truncated cell that the hive has begun to forward by cut-through ends with padding, an inverted
CRC-32C and STOMP in its tag; `n`: bytes that have arrived (R223). DEDUCED: cut-through has begun where the header is
there and the output can send at once (log entry 66). -/
def State.cutCopy (s : State) (inP : Nat) (c : CellW) (n : Nat) : State :=
  let h := BitVec.ofNat 512 (c.toNat % 2 ^ (8 * n))
  let x := putFld h 480 32 (Nat.xor (Cell.crc h) 0xFFFFFFFF)
  if n < 12 ∨ s.fencedCell h ∨ Cell.badHead h ∨ Cell.vc h = 6 then s
  else match s.lookup inP h with
  | .port q vc =>
    if s.canSend q vc && (s.link q).queue.isEmpty && (decide (q < 32) || (!s.dieAbsorbs (q - 32) &&
        decide (Cell.job h = s.dieJob (q - 32) ∨ Cell.job h = 0))) then s.txRaw q vc x else s
  | _ => s

/-- A stall in the middle of a cell (R223). -/
def State.stallCut (s : State) (p : Nat) (part : Option (CellW × Fin 64)) : State :=
  match part with
  | some (c, n) => if s.portState p = 3 then (s.stall p).cutCopy p c n.val else s
  | none => s.stall p

/-- PORT_STALL; `part`: the cell that was arriving, and how many of its bytes have (R222, R223). -/
def execPortStall (port : LinkPort) (s : State) (part : Option (CellW × Fin 64) := none) :
    Host.Outcome State Fault Refusal :=
  .next (if port.val < 32 then s.onPort port.val fun p => s.stallCut p part else s.stallCut port.val part)

/-- PORT_RESUME: symbols resume on a stalled port; its cells are replayed (R223). -/
def State.unstall (s : State) (p : Nat) : State := if s.portState p = 4 then s.linkResume p else s

def execPortResume (port : LinkPort) (s : State) : Host.Outcome State Fault Refusal :=
  .next (if port.val < 32 then s.onPort port.val s.unstall else s.unstall port.val)

/-- PORT_DOWN: a stalled or HELD port stays silent, an UP port loses its training, or the peer announces that it goes
down (R222, R223). -/
def State.portLost (s : State) (p : Nat) (cause : DownCause) : State :=
  let st := s.portState p
  match cause with
  | .silent => if st = 4 ∨ st = 2 then s.linkDown p else s
  | .goingDown => if 2 ≤ st ∧ st ≤ 5 then s.linkDown p else s
  | .untrained => if st = 3 then s.linkDown p else s

def execPortDown (port : LinkPort) (cause : DownCause) (s : State) : Host.Outcome State Fault Refusal :=
  .next (if port.val < 32 then s.onPort port.val fun p => s.portLost p cause else s.portLost port.val cause)

/-- FAB_PORT_p.DIS is written (R222, R252); a lulled port wakes first (R320). -/
def State.disWrite (s : State) (p : Nat) (dis : Bool) : State :=
  let s1 := s.fset (RF.FAB_PORT_DIS p) (b2n dis)
  let st := s.portState p
  if 32 ≤ p then s1
  else if dis then
    if st = 5 then (if s.lsub p = 3 ∨ s.lsub p = 4 then s1.wakeUp p else s1)
    else if st = 6 then s1 else s1.portDisable p
  else if st = 6 then
    let s2 := s1.setPort p 0
    s2.setTopo p (s2.topoIdle p) 0
  else s1

/-- PORT_DIS_WRITE (R222, R252): the write reaches the register of the port's own number. -/
def execPortDisWrite (port : LinkPort) (dis : Bool) (s : State) : Host.Outcome State Fault Refusal :=
  .next (s.disWrite port.val dis)

/-! Die-port lanes (R301, R302). -/

/-- DLANE_PERM_FAULT: a criterion of R301 is met on a lane: consecutive failed trainings, uncorrectable codewords, or
low power for 100 ms; the hive acts under R302. -/
def execDlanePermFault (die : DieId) (dir : Fin 2) (lane : Fin 192) (s : State) :
    Host.Outcome State Fault Refusal :=
  .next (if s.lowLong die.val dir.val lane.val || s.ucwLong die.val dir.val lane.val ||
      decide (s.fget RF.OPT_DPERM_RETRAIN_LIM ≤ (s.link (32 + die.val)).fails) then
    s.dlanePerm die.val dir.val lane.val
  else s)

/-! Received power (R309, R312). -/

/-- One threshold crossed: at most one record per port per 10 s. -/
def State.pwrRecord (s : State) (p t code sev lane pwr : Nat) : State :=
  let k := p * 4 + t
  let last := s.opt.pwrRec.get 0 k
  if last ≠ 0 ∧ s.clk < last - 1 + 10000000000 then s
  else
    let s1 : State := { s with opt := { s.opt with pwrRec := s.opt.pwrRec.put k (s.clk + 1) } }
    s1.hiveRec code p sev (pay [(1, p), (1, lane), (2, pwr)])

/-- LOS, PWR_WARN and PWR_ALARM of a port from its lanes. -/
def State.pwrFlags (s : State) (p : Nat) : State :=
  let th := fun (r : FRef) => signedN 16 (s.fget r)
  let ps := (s.lanePwrs p).map (signedN 16)
  let warn := ps.any fun x => decide (x < th RF.OPT_THRESH_WARN_LO ∨ th RF.OPT_THRESH_WARN_HI < x)
  let alarm := ps.any fun x => decide (x < th RF.OPT_THRESH_ALARM_LO ∨ th RF.OPT_THRESH_ALARM_HI < x)
  let los := ps.all fun x => decide (x < -1100)
  ((s.fset (RF.OPT_PORT_STAT_PWR_WARN p) (b2n warn)).fset (RF.OPT_PORT_STAT_PWR_ALARM p) (b2n alarm)).fset
    (RF.OPT_PORT_STAT_LOS p) (b2n los)

/-- A lane's power is reported and compared. -/
def State.rxpwr (s : State) (p dir lane pwr : Nat) : State :=
  let th := fun (r : FRef) => signedN 16 (s.fget r)
  let x := signedN 16 pwr
  let s1 : State := if p < 32 then s.fset (RF.OPT_RXPWR_PWR p (lane / 4) (lane % 4)) pwr
    else { s with opt := { s.opt with
      dlane := s.opt.dlane.set 0x8000 (dlaneKey (p - 32) dir lane) pwr } }
  let s2 := s1.pwrFlags p
  let s3 := if th RF.OPT_THRESH_ALARM_HI < x then s2.pwrRecord p 0 0x8604 2 lane pwr else s2
  let s4 := if th RF.OPT_THRESH_WARN_HI < x then s3.pwrRecord p 1 0x8603 1 lane pwr else s3
  let s5 := if x < th RF.OPT_THRESH_WARN_LO then s4.pwrRecord p 2 0x8603 1 lane pwr else s4
  let s6 := if x < th RF.OPT_THRESH_ALARM_LO then s5.pwrRecord p 3 0x8604 2 lane pwr else s5
  if p < 32 then (if s6.portState p = 0 then s6.setTopo p (s6.topoIdle p) 0 else s6)
  else if x < th RF.OPT_THRESH_ALARM_LO then
    let k := dlaneKey (p - 32) dir lane
    let at_ := if s.opt.lowAt.get 0 k = 0 then s.clk + 1 else s.opt.lowAt.get 0 k
    let s7 : State := { s6 with opt := { s6.opt with lowAt := s6.opt.lowAt.put k at_ } }
    if s7.lowLong (p - 32) dir lane then s7.dlanePerm (p - 32) dir lane else s7
  else { s6 with opt := { s6.opt with lowAt := s6.opt.lowAt.del (dlaneKey (p - 32) dir lane) } }

/-- RXPWR_SAMPLE: lanes 0 to 15 of an external port, 0 to 191 of each direction of a die port. -/
def execRxpwrSample (port : LinkPort) (dir : Fin 2) (lane : Fin 192) (pwr : BitVec 16) (s : State) :
    Host.Outcome State Fault Refusal :=
  .next (if port.val < 32 then
    (if lane.val < 16 then s.onPort port.val fun p => s.rxpwr p 0 lane.val pwr.toNat else s)
  else s.rxpwr port.val dir.val lane.val pwr.toNat)

/-! Eye safety (R314 to R316). -/

/-- One port shuts (R315). -/
def State.shut (s : State) (p det : Nat) : State :=
  if s.fget (RF.OPT_PORT_STAT_SHUT p) = 1 then s
  else
    let s1 := (s.fset (RF.OPT_PORT_STAT_SHUT p) 1).finc RF.OPT_SAFE_SHUT_CNT 1
    let st := s.portState p
    let s2 := if 2 ≤ st ∧ st ≤ 5 then (s1.sendCtl p 0 false).linkDown p
      else if st = 1 then
        (if 4 ≤ s.fget (RF.OPT_PORT_STAT_TSTAGE p) then s1.sendCtl p 0 false else s1).linkDown p
      else s1.setTopo p 8 0
    (s2.emit (.optic (s.wirePort p) 2)).hiveRec 0x8605 p 3 (pay [(1, p), (1, det)])

/-- The hard-wired backstop cuts the external-slot lasers of a port's half: its 16 ports go dark (R315). -/
def State.backstop (s : State) (p : Nat) : State :=
  let h := p / 16
  let feeds := fun (r : LaserRec) => decide (r.slot = 24 + 2 * h ∨ r.slot = 25 + 2 * h)
  let lasers := s.opt.lasers.map fun e => if feeds e.2 then (e.1, { e.2 with bias := 0 }) else e
  let opt := { s.opt with lasers := lasers, cut := s.opt.cut.put h 1 }
  let s1 := ({ s with opt := opt } : State).fset RF.OPT_SAFE_BACKSTOP 1
  (List.range 16).foldl (fun (s : State) i => s.onPort (16 * h + i) s.stall) s1

/-- OPEN_FIBRE_SHUTOFF: loss of signal shuts the port, unmating every port of its connector; when the tap still
sees light the backstop acts (R314, R315). -/
def execOpenFibreShutoff (port : ExtPort) (unmated dark : Bool) (s : State) :
    Host.Outcome State Fault Refusal :=
  let ps := if unmated then (List.range 8).filterMap fun i => s.logi (8 * (port.val / 8) + i)
    else (s.logi port.val).toList
  let s1 := if unmated then
      ps.foldl (fun (s : State) q => (s.shut q 1).setLink q { (s.shut q 1).link q with fails := 0 })
        (s.fsetBit RF.OPT_SAFE_MATED (port.val / 8) false)
    else ps.foldl (fun (s : State) p =>
      if s.portState p = 6 then s else (s.fset (RF.OPT_PORT_STAT_LOS p) 1).shut p 0) s
  let shut := ps.any fun p => decide (s1.fget (RF.OPT_PORT_STAT_SHUT p) ≠ s.fget (RF.OPT_PORT_STAT_SHUT p))
  .next (if shut && !dark then s1.backstop port.val else s1)

/-- A shut port with an expected peer. -/
def State.mayProbe (s : State) (p : Nat) : Bool :=
  decide (s.fget (RF.OPT_PORT_STAT_SHUT p) = 1) && decide (s.wireKind p ≠ 0)

/-- SHUT_PROBE: the shutter opens for 2 ms at reduced power (R316). -/
def execShutProbe (port : ExtPort) (s : State) : Host.Outcome State Fault Refusal :=
  .next (s.onPort port.val fun p => if s.mayProbe p then s.emit (.optic port.val 1) else s)

/-- PROBE_SEEN: a shut port answers its peer's probe with one of its own at once (R316). -/
def execProbeSeen (port : ExtPort) (s : State) : Host.Outcome State Fault Refusal :=
  .next (s.onPort port.val fun p => if s.mayProbe p then s.emit (.optic port.val 1) else s)

/-- SHUT_RESTORE: a shut, mated port sees its peer during its probe, and trains (R316). -/
def execShutRestore (port : ExtPort) (s : State) : Host.Outcome State Fault Refusal :=
  .next (s.onPort port.val fun p =>
    if s.mayProbe p then
      let s1 := ((s.fset (RF.OPT_PORT_STAT_SHUT p) 0).fset (RF.OPT_PORT_STAT_LOS p) 0).fsetBit
        RF.OPT_SAFE_MATED (port.val / 8) true
      let s2 := s1.hiveRec 0x8606 p 0 (pay [(1, p)])
      if s2.portState p = 0 ∧ s2.mayTrain p then s2.trainStart p (s2.link p).eqHeld else s2.setTopo p (s2.topoIdle p) 0
    else s)

/-! Lull (R318 to R321). -/

/-- LULL_REQUEST: the initiator, the end with the lower module number, asks with a new token (R318). -/
def execLullRequest (port : ExtPort) (s : State) : Host.Outcome State Fault Refusal :=
  .next (s.onPort port.val fun p =>
    if s.lullReady p ∧ s.lsub p = 0 ∧ s.module < s.wirePeer p then
      let r := s.link p
      ((s.setLink p { r with ltok := (r.ltok + 1) % 16 }).setLsub p 1).sendCtl p 1 false
    else s)

/-- LULL_ANSWER_TIMEOUT: 1 µs without an answer returns the end to AWAKE (R319). -/
def execLullAnswerTimeout (port : ExtPort) (s : State) : Host.Outcome State Fault Refusal :=
  .next (s.onPort port.val fun p => if s.lsub p = 1 ∨ s.lsub p = 2 then (s.setLsub p 0).linkRun p else s)

/-- LULL_WAKE: a local trigger wakes a lulled port (R320, R321). -/
def execLullWake (port : ExtPort) (s : State) : Host.Outcome State Fault Refusal :=
  .next (s.onPort port.val fun p =>
    if s.portState p = 5 ∧ (s.lsub p = 3 ∨ s.lsub p = 4) ∧ s.wakeLevel p then s.wakeUp p else s)

/-- WAKE_TONE: the peer's tone is heard; the end powers up and answers WAKE_DONE once locked (R321). -/
def execWakeTone (port : ExtPort) (s : State) : Host.Outcome State Fault Refusal :=
  .next (s.onPort port.val fun p =>
    if s.portState p = 5 ∧ 3 ≤ s.lsub p ∧ s.lsub p ≤ 5 then
      ((s.setLink p { s.link p with toned := true }).setLsub p 5).sendCtl p 5 false
    else s)

/-- WAKE_TIMEOUT: 10 µs without WAKE_DONE (R319). -/
def execWakeTimeout (port : ExtPort) (s : State) : Host.Outcome State Fault Refusal :=
  .next (s.onPort port.val fun p => if s.portState p = 5 ∧ s.lsub p = 5 then s.linkDown p else s)

/-- LOSS_OF_SYMBOLS: a responder whose ENTER is lost enters on the initiator's silence (R319, R320). -/
def execLossOfSymbols (port : ExtPort) (s : State) : Host.Outcome State Fault Refusal :=
  .next (s.onPort port.val fun p => if s.lsub p = 2 then s.lullEnter p else s)

end Sys2Proof.Machine
end

