-- ==== Sys2Proof/Machine/LaserCmds.lean ====
section
/-! DEFINITION. Laser banks: failures, take-overs, ageing, planned handovers, daily checks (R303 to R308). -/

namespace Sys2Proof.Machine

def lsKey (b i : Nat) : Nat := b * 64 + i
def State.laser (s : State) (b i : Nat) : LaserRec := s.opt.lasers.get {} (lsKey b i)

def State.setLaser (s : State) (b i : Nat) (r : LaserRec) : State :=
  { s with opt := { s.opt with lasers := s.opt.lasers.set {} (lsKey b i) r } }

def State.takesOf (s : State) (b : Nat) : List TakeRec := s.opt.takes.get [] b

def State.setTakes (s : State) (b : Nat) (l : List TakeRec) : State :=
  { s with opt := { s.opt with takes := s.opt.takes.set [] b l } }

/-- LSR_BANK follows the lasers (R322). -/
def State.lsrBank (s : State) (b : Nat) : State :=
  let ids := List.range 35
  let spares := (ids.filter fun i => decide ((s.laser b i).st = 2)).length
  let act := (ids.filter fun i => decide ((s.laser b i).slot < 28)).foldl (fun m i => m + 2 ^ i) 0
  (s.fset (RF.LSR_BANK_SPARES b) spares).fset (RF.LSR_BANK_ACTIVE b) act

/-- The spare a bank takes next: the SPARE laser with the lowest number (R306). -/
def State.nextSpare (s : State) (b : Nat) : Option Nat :=
  (List.range 35).find? fun i => decide ((s.laser b i).st = 2)

/-- Ports that a slot feeds (R303, R306). -/
def slotPorts (b slot : Nat) : List Nat :=
  if slot < 24 then [32 + b] else (List.range 16).map fun i => 16 * ((slot - 24) / 2) + i

/-- Die-port lanes of a die slot: (direction, lane). -/
def slotLanes (slot : Nat) : List (Nat × Nat) :=
  (List.range 16).map fun w => (slot / 12, 12 * w + slot % 12)

/-- Payload of LSR_AGE_WARN and LSR_SPARES_OUT (R432). -/
def State.lsrPay (s : State) (b i : Nat) : Bytes :=
  let spares := ((List.range 35).filter fun k => decide ((s.laser b k).st = 2)).length
  pay [(1, b), (1, i), (1, spares), (1, 0), (4, (s.laser b i).bias), (4, (s.laser b i).hours)]

/-- A laser leaves service for good, recorded in the defect map (R305, R407). -/
def State.laserRetire (s : State) (b i : Nat) : State :=
  (s.setLaser b i { s.laser b i with st := 6, slot := 0xFF }).journal b 5 i 6

/-- A spare begins to tune for a slot; the bank's last one is reported (R306 to R308). -/
def State.tuneSpare (s : State) (b failed slot : Nat) (planned : Bool) : Option State :=
  (s.nextSpare b).map fun i =>
    let s1 := (s.setLaser b i { s.laser b i with st := 3 }).setTakes b (s.takesOf b ++
      [{ failed := failed, spare := i, slot := slot, planned := planned }])
    let s2 := s1.journal b 5 i 3
    (if (s2.nextSpare b).isNone then s2.hiveRec 0x8609 b 2 (s2.lsrPay b i) else s2).lsrBank b

/-- A slot goes dark for want of a spare (R308): die-port lanes are faulted for good; external ports go DOWN
as their LDN_HOLD expires, and stay so. Set-ups are re-evaluated (R323). -/
def State.slotDark (s : State) (b slot : Nat) : State :=
  let s1 : State := { s with opt := { s.opt with dark := s.opt.dark.put (b * 32 + slot) 1 } }
  if slot < 24 then (slotLanes slot).foldl (fun (s : State) l => s.dlanePerm b l.1 l.2) s1
  else s1.reevaluate

/-- The hardware clamp of the bias, 95 mA, in 0.01 mA (R304). -/
def biasClamp : Nat := 9500

/-- A laser is failed (R304): power below 50% of the setpoint in two consecutive samples, or below 80% for 100 ms with
the bias at the clamp. -/
def laserFailed (x : LaserSample) : Bool :=
  decide (x.pow1.toNat < 50 ∧ x.pow2.toNat < 50) ||
    decide (biasClamp ≤ x.bias.toNat ∧ x.pow2.toNat < 80 ∧ 100 ≤ x.lowMs.toNat)

/-- LASER_FAIL: the power control loop finds an active laser failed; its ports stall and the lowest spare tunes to its
channel (R304, R306). -/
def execLaserFail (bank : Fin 8) (laser : Fin 35) (s0 : State) (sample : LaserSample := {}) :
    Host.Outcome State Fault Refusal :=
  let b := bank.val
  let r := s0.laser b laser.val
  let s := if r.st = 1 ∨ r.st = 4 then
      s0.setLaser b laser.val { r with bias := min biasClamp sample.bias.toNat, mpd := sample.mpd.toNat } else s0
  .next (if (r.st = 1 ∨ r.st = 4) ∧ laserFailed sample then
    let s1 := (s.laserRetire b laser.val).lsrBank b
    let s2 := (slotPorts b r.slot).foldl (fun (s : State) p =>
      if p < 32 then s.onPort p s.stall else s.stall p) s1
    if r.st = 4 then
      -- its planned handover goes on as a take-over
      s2.setTakes b ((s2.takesOf b).map fun t =>
        if t.failed = laser.val then { t with planned := false } else t)
    else match s2.tuneSpare b laser.val r.slot false with
      | some s3 => s3
      | none => s2.slotDark b r.slot
  else s)

/-- LASER_TUNE_TIMEOUT: the tuning spare fails, and the next one is taken (R305, R306). -/
def execLaserTuneTimeout (bank : Fin 8) (s : State) : Host.Outcome State Fault Refusal :=
  let b := bank.val
  .next (match s.takesOf b with
    | [] => s
    | t :: ts =>
      let s1 := ((s.laserRetire b t.spare).setTakes b ts).lsrBank b
      match s1.tuneSpare b t.failed t.slot t.planned with
      | some s2 => s2
      | none =>
        if t.planned then (s1.setLaser b t.failed { s1.laser b t.failed with st := 1 }).lsrBank b
        else s1.slotDark b t.slot)

/-- A tuned spare is switched to its slot. -/
def State.switchIn (s : State) (b : Nat) (t : TakeRec) : State :=
  let s1 := (s.setLaser b t.spare { s.laser b t.spare with st := 1, slot := t.slot }).setTakes b
    ((s.takesOf b).filter fun x => !decide (x = t))
  (s1.journal b 5 t.spare 1).lsrBank b

/-- LASER_TAKEOVER_DONE: the spare fills the slot, and the stalled ports return to UP (R306). -/
def execLaserTakeoverDone (bank : Fin 8) (s : State) : Host.Outcome State Fault Refusal :=
  let b := bank.val
  .next (match (s.takesOf b).find? fun t => !t.planned with
    | none => s
    | some t =>
      let s1 := s.switchIn b t
      let s2 := (slotPorts b t.slot).foldl (fun (s : State) p =>
        if p < 32 then s.onPort p s.unstall else s.unstall p) s1
      s2.hiveRec 0x8607 b 1 (pay [(1, b), (1, t.failed), (1, t.spare), (1, t.slot)]))

/-- The bias exceeds the curve 60 mA × (1 + 0.001 × √t) by more than the margin; bias in 0.01 mA (R307). -/
def overCurve (bias margin hours : Nat) : Bool :=
  let a := bias * 100 - 6000 * (100 + margin)
  decide (0 < a ∧ 36 * (100 + margin) ^ 2 * hours < a * a)

/-- LASER_AGE_CHECK: the hourly comparison of an active laser (R307, R308); its bias never exceeds the clamp (R304). -/
def execLaserAgeCheck (bank : Fin 8) (laser : Fin 35) (bias0 : BitVec 16) (s : State)
    (mpd : BitVec 16 := 0x8000) :
    Host.Outcome State Fault Refusal :=
  let bias : BitVec 16 := BitVec.ofNat 16 (min biasClamp bias0.toNat)
  let b := bank.val
  let i := laser.val
  let r := s.laser b i
  .next (if r.st = 1 then
    let s1 := s.setLaser b i { r with bias := bias.toNat, mpd := mpd.toNat, hours := r.hours + 1 }
    let old := decide (s.fget RF.LSR_AGE_CFG_RETIRE_BIAS ≤ bias.toNat)
    let spare := (s1.nextSpare b).isSome
    let warn := overCurve bias.toNat (s.fget RF.LSR_AGE_CFG_AGE_MARGIN) (r.hours + 1) || (old && !spare)
    let last := s1.opt.ageRec.get 0 (lsKey b i)
    let due := decide (last = 0 ∨ last - 1 + 86400000000000 ≤ s.clk)
    let s2 := if warn && due then
        let s2 : State := { s1 with opt := { s1.opt with ageRec := s1.opt.ageRec.put (lsKey b i) (s.clk + 1) } }
        s2.hiveRec 0x8608 b 1 (s2.lsrPay b i)
      else s1
    if old then
      match s2.tuneSpare b i r.slot true with
      | some s3 => (s3.setLaser b i { s3.laser b i with st := 4 }).lsrBank b
      | none => s2
    else s2
  else s)

/-- LASER_HANDOVER_SWITCH: the planned cut-over; the affected ports replay, the old laser retires (R307). -/
def execLaserHandoverSwitch (bank : Fin 8) (s : State) : Host.Outcome State Fault Refusal :=
  let b := bank.val
  .next (match (s.takesOf b).find? fun t => t.planned with
    | none => s
    | some t =>
      let s1 := ((s.laserRetire b t.failed).switchIn b t)
      (slotPorts b t.slot).foldl (fun (s : State) p =>
        let go := fun (q : Nat) => if s.portState q = 3 then (s.stall q).unstall q else s
        if p < 32 then s.onPort p go else go p) s1)

/-- SPARE_DAILY_CHECK: a spare that fails its check retires (R305). -/
def execSpareDailyCheck (bank : Fin 8) (laser : Fin 35) (pass : Bool) (s : State) :
    Host.Outcome State Fault Refusal :=
  .next (if (s.laser bank.val laser.val).st = 2 ∧ !pass then
    (s.laserRetire bank.val laser.val).lsrBank bank.val
  else s)

end Sys2Proof.Machine
end

