-- ==== Sys2Proof/Machine/VecCmds.lean ====
section
/-! DEFINITION. The vector command of a worker core (R121 to R127). -/

namespace Sys2Proof.Machine

/-! Micro-ops (R122, R123). -/

/-- A micro-op's fields. -/
def mopCode (m : Nat) : Nat := bitsN m 0 8
def mopD (m : Nat) : Nat := bitsN m 8 5
def mopA (m : Nat) : Nat := bitsN m 13 5
def mopB (m : Nat) : Nat := bitsN m 18 5
def mopC (m : Nat) : Nat := bitsN m 23 5
def mopMod (m : Nat) : Nat := bitsN m 28 4

/-- Sources a micro-op reads. -/
def mopArgs (code : Nat) : Nat :=
  if code = 4 ∨ code = 9 ∨ code = 0x28 then 3
  else if [1, 2, 3, 5, 6, 0x11].contains code then 2 else 1

def mopSrcs (m : Nat) : List Nat := [mopA m, mopB m, mopC m].take (mopArgs (mopCode m))

/-- The listed operation codes. -/
def mopListed (c : Nat) : Bool :=
  decide (1 ≤ c ∧ c ≤ 0xB) || decide (0x10 ≤ c ∧ c ≤ 0x1B) || decide (0x20 ≤ c ∧ c ≤ 0x23) || decide (c = 0x28)

def mopRed (c : Nat) : Bool := decide (0x20 ≤ c ∧ c ≤ 0x23)

/-- Destination and sources all S or C registers: executes once per row (R122). -/
def mopScalar (m : Nat) : Bool := decide (16 ≤ mopD m) && (mopSrcs m).all fun x => decide (16 ≤ x)

/-- Breaks a rule of R122 or R123 (0x5403). -/
def mopBad (m : Nat) : Bool :=
  let c := mopCode m
  !mopListed c || (([mopA m, mopB m, mopC m].drop (mopArgs c)).any fun x => decide (x ≠ 0)) ||
    (decide (mopMod m ≠ 0) && decide (c ≠ 9 ∧ c ≠ 0xB)) || decide (24 ≤ mopD m) ||
    (mopRed c && decide (mopD m < 16)) || (decide (c = 9) && decide (3 < mopMod m)) ||
    (decide (c = 0xB) && decide (7 < mopMod m)) || (!mopRed c && decide (16 ≤ mopD m) && !mopScalar m)

/-- Elementwise results of R123 and R124. -/
def vecElem (code a b c : Nat) : Nat :=
  match code with
  | 0x01 => f32add a b
  | 0x02 => f32sub a b
  | 0x03 => f32mul a b
  | 0x04 => f32fma a b c
  | 0x05 => f32max a b
  | 0x06 => f32min a b
  | 0x07 => f32abs a
  | 0x08 => f32neg a
  | 0x0A => a
  | 0x10 => f32rcp a
  | 0x11 => f32div a b
  | 0x12 => f32sqrt a
  | 0x13 => f32rcp (f32sqrt a)
  | 0x14 => f32exp2 a
  | 0x15 => f32exp a
  | 0x16 => f32log2 a
  | 0x17 => f32log a
  | 0x18 => f32tanh a
  | 0x19 => f32sigmoid a
  | 0x1A => f32silu a
  | _ => f32gelu a

/-- One step of a reduction (R125). -/
def redStep (code p a : Nat) : Nat :=
  match code with
  | 0x20 => f32add p a
  | 0x21 => f32max p a
  | 0x22 => f32min p a
  | _ => f32max p (f32abs a)

/-- Combination of two partials. -/
def redComb (code p q : Nat) : Nat :=
  match code with
  | 0x20 => f32add p q
  | 0x22 => f32min p q
  | _ => f32max p q

def redIdent (code : Nat) : Nat :=
  if code = 0x20 then 0 else if code = 0x22 then inf32 false else inf32 true

/-- One level of the fixed tree. -/
def redLevel (code : Nat) : List Nat → List Nat
  | a :: b :: t => redComb code a b :: redLevel code t
  | l => l

/-- The 16 partials combined by four levels. -/
def redTree (code : Nat) (ps : List Nat) : Nat :=
  (redLevel code (redLevel code (redLevel code (redLevel code ps)))).headD 0

/-- CVT: A rounded to a format, held as FP32 (R123). -/
def vecCvt (f : Nat) (md : Rnd) (a : Nat) : Nat × Nat :=
  let x := d32 a
  if f = 0 then
    let (c, fl) := convInt8 md x
    (r32 (numOfInt (signedN 8 c) 0), fl)
  else if isMx f && !x.finite then (nan32, nfNF)
  else
    let (c, fl) := convF (elemFmt f) (decide (f ≤ 5)) md x
    (r32 (decodeF (elemFmt f) c), fl)

/-- P of BMASK, and NF for a NaN. -/
def bmaskP (b : Nat) : Int × Nat :=
  match d32 b with
  | .nan => (0, nfNF)
  | .inf neg => (if neg then 0 else 65536, 0)
  | x => (clampI 0 65536 (Dy.inUnits .rne x.dy 0), 0)

/-! One command (R121, R125, R126). -/

/-- Decoded fields of a VEC word and its extension. -/
structure VecCmd where
  die : Nat
  rows : Nat
  rowlen : Nat
  /-- input streams: (format, SRAM offset). -/
  ins : List (Nat × Nat)
  out : Option (Nat × Nat)
  sr : Bool
  csrc : Nat
  mops : List Nat
  /-- first slots of the phases, and the end. -/
  cuts : List Nat
  seed : Seed

/-- Bytes of a row (R121). -/
def rowBytes (f n : Nat) : Nat := elemBytes f n + if isMx f then n / 32 else 0

/-- Registers and partials while a row runs. -/
structure VRun where
  s : State
  /-- V0 to V15, lane by lane. -/
  v : List Nat := List.replicate 256 0
  sc : List Nat := List.replicate 8 0
  /-- partials of the phase's reductions, by slot. -/
  parts : Tbl (List Nat) := []
  /-- values of an MX block not yet whole. -/
  pend : List Num := []
  flags : Nat := 0
  stop : Bool := false

def VRun.get (x : VRun) (cs : List Nat) (o l : Nat) : Nat :=
  if o < 16 then x.v.getD (o * 16 + l) 0 else if o < 24 then x.sc.getD (o - 16) 0 else cs.getD (o - 24) 0

def VRun.put (x : VRun) (d l v : Nat) : VRun :=
  if d < 16 then { x with v := x.v.set (d * 16 + l) v } else { x with sc := x.sc.set (d - 16) v }

/-- A micro-op other than a chunk reduction at one lane: element e of row r, slot k. -/
def VRun.lane (x : VRun) (c : VecCmd) (cs : List Nat) (r k m l e : Nat) : VRun :=
  let code := mopCode m
  let a := x.get cs (mopA m) l
  let b := x.get cs (mopB m) l
  let cc := x.get cs (mopC m) l
  let d := mopD m
  let u := c.seed.draw e (16 * r + k)
  if mopRed code then x.put d l (redStep code (redIdent code) a)
  else if code = 9 then (if f32cmp (mopMod m) a b then x.put d l cc else x)
  else if code = 0xB then
    let (v, f) := vecCvt (mopMod m) (if c.sr then .sr u else .rne) a
    { x.put d l v with flags := orF x.flags f }
  else if code = 0x28 then
    let (p, f) := bmaskP b
    { x.put d l (if (u : Int) < p then f32mul a cc else 0) with flags := orF x.flags f }
  else x.put d l (vecElem code a b cc)

/-- A chunk micro-op over the active lanes. -/
def VRun.chunkOp (x : VRun) (c : VecCmd) (cs : List Nat) (r k m base act : Nat) : VRun :=
  if mopRed (mopCode m) then
    let ps := x.parts.get (List.replicate 16 (redIdent (mopCode m))) k
    let ps := ps.zipIdx.map fun (p, l) => if l < act then redStep (mopCode m) p (x.get cs (mopA m) l) else p
    { x with parts := x.parts.put k ps }
  else (List.range act).foldl (fun x l => x.lane c cs r k m l (base + l)) x

/-- A chunk of an input stream as FP32 codes, with NF (R121). -/
def State.vecChunk (s : State) (die f off rowlen ch : Nat) : State × Option (List Nat × Nat) :=
  let base := 16 * ch
  let n := min 16 (rowlen - base)
  let eo := off + elemBytes f base
  let so := off + elemBytes f rowlen + base / 32
  let rs := (eo, elemBytes f n) :: if isMx f && decide (ch % 2 = 0) then [(so, 1)] else []
  match s.sramReads die rs with
  | (s1, false) => (s1, none)
  | (s1, true) =>
    let bs := s1.sram die eo (elemBytes f n)
    let x := (byteAt (s1.sram die so 1) 0).toNat
    let vs := (List.range n).map fun i => if isMx f then mxNum f (elemCode f bs i) x else elemNum f (elemCode f bs i)
    let cs := vs.map r32
    (s1, some (cs, if cs.all (fun v => (d32 v).finite) then 0 else nfNF))

/-- Loads the chunk of every stream; streams not in use hold +0. -/
def VRun.loadChunk (x : VRun) (c : VecCmd) (r ch : Nat) : VRun :=
  let x0 := { x with v := List.replicate 48 0 ++ x.v.drop 48 }
  c.ins.zipIdx.foldl (fun (x : VRun) p =>
    if x.stop then x
    else match x.s.vecChunk c.die p.1.1 (p.1.2 + r * rowBytes p.1.1 c.rowlen) c.rowlen ch with
      | (s1, none) => { x with s := s1, stop := true }
      | (s1, some (vs, f)) =>
        let v := vs.zipIdx.foldl (fun (v : List Nat) y => v.set (p.2 * 16 + y.2) y.1) x.v
        { x with s := s1, v := v, flags := orF x.flags f }) x0

/-- Output of the last phase from V3, written as soon as whole (R45, R121, R126). -/
def VRun.emitChunk (x : VRun) (c : VecCmd) (r ch act : Nat) : VRun :=
  match c.out with
  | none => x
  | some (f, off) =>
    let pend := x.pend ++ (List.range act).map fun l => d32 (x.v.getD (48 + l) 0)
    if isMx f && decide (ch % 2 = 0) then { x with pend := pend }
    else
      let e0 := 16 * ch + act - pend.length
      let us : Draws := if c.sr then some fun i => c.seed.draw (e0 + i) (16 * r + 15) else none
      let (bs, sc, fl) := convRow f us pend
      let row := off + r * rowBytes f c.rowlen
      let s1 := x.s.sramWrite c.die (row + elemBytes f e0) bs
      let s2 := if isMx f then s1.sramWrite c.die (row + elemBytes f c.rowlen + e0 / 32) sc else s1
      { x with s := s2, pend := [], flags := orF x.flags fl }

/-- One chunk of a phase. -/
def VRun.chunk (x : VRun) (c : VecCmd) (cs : List Nat) (r lo hi : Nat) (last : Bool) (ch : Nat) : VRun :=
  if x.stop then x
  else
    let act := min 16 (c.rowlen - 16 * ch)
    let x1 := x.loadChunk c r ch
    if x1.stop then x1
    else
      let x2 := (List.range (hi - lo)).foldl (fun x i =>
        let m := c.mops.getD (lo + i) 0
        if mopScalar m then x else x.chunkOp c cs r (lo + i) m (16 * ch) act) x1
      if last then x2.emitChunk c r ch act else x2

/-- One phase of a row: scalar micro-ops, chunks, then the reductions' results. -/
def VRun.phase (x : VRun) (c : VecCmd) (cs : List Nat) (r lo hi : Nat) (last : Bool) : VRun :=
  if x.stop then x
  else
    let x0 := { x with v := List.replicate 256 0, parts := [], pend := [] }
    let x1 := (List.range (hi - lo)).foldl (fun x i =>
      let m := c.mops.getD (lo + i) 0
      if mopScalar m then x.lane c cs r (lo + i) m 0 0 else x) x0
    let x2 := (List.range ((c.rowlen + 15) / 16)).foldl (fun x ch => x.chunk c cs r lo hi last ch) x1
    if x2.stop then x2
    else (List.range (hi - lo)).foldl (fun (x : VRun) i =>
      let m := c.mops.getD (lo + i) 0
      if mopRed (mopCode m) && !mopScalar m then
        x.put (mopD m) 0 (redTree (mopCode m) (x.parts.get [] (lo + i)))
      else x) x2

/-- One row: its phases in order, S registers cleared first. -/
def VRun.row (x : VRun) (c : VecCmd) (cs : List Nat) (r : Nat) : VRun :=
  if x.stop then x
  else
    let ph := c.cuts.zip (c.cuts.drop 1)
    ph.zipIdx.foldl (fun (x : VRun) p => x.phase c cs r p.1.1 p.1.2 (decide (p.2 + 1 = ph.length)))
      { x with sc := List.replicate 8 0 }

/-- The whole command on SRAM: the state, the flags, and whether every read was good. -/
def VecCmd.run (c : VecCmd) (s : State) : State × Nat × Bool :=
  match s.sramReads c.die [(c.csrc, 32)] with
  | (s1, false) => (s1, 0, false)
  | (s1, true) =>
    let b := s1.sram c.die c.csrc 32
    let cs := (List.range 8).map fun k => leAt b (4 * k) 4
    let x := (List.range c.rows).foldl (fun (x : VRun) r => x.row c cs r) { s := s1 }
    (x.s, x.flags, !x.stop)

/-- Micro-ops of a word and its extension. -/
def vecMops (w x : CmdWord) : List Nat :=
  (List.range (min (fld w 8 4) 14)).map fun i =>
    if i < 6 then fld w (320 + 32 * i) 32 else fld x (32 * (i - 6)) 32

/-- Decoding of a VEC (R121). -/
def vecCmd (die : Nat) (w x : CmdWord) (ctx : Ctx) : VecCmd :=
  let n := fld w 8 4
  let ph2 := fld w 12 4
  let ph3 := fld w 16 4
  let offs := [fld w 64 32, fld w 96 32, fld w 128 32]
  { die := die, rows := fld w 40 16, rowlen := fld w 192 20,
    ins := (List.range (fld w 20 2)).map fun i => (fld w (212 + 4 * i) 4, offs.getD i 0),
    out := if bit w 22 then some (fld w 224 4, fld w 160 32) else none,
    sr := bit w 23, csrc := 32 * fld w 228 24, mops := vecMops w x,
    cuts := 0 :: (if ph2 = 0 then [] else [ph2]) ++ (if ph3 = 0 then [] else [ph3]) ++ [n],
    seed := { jseed := ctx.jseed, step := ctx.step, stream := fld w 288 16, tile := fld w 256 32 } }

/-- Ranges a VEC reads and writes. -/
def VecCmd.ranges (c : VecCmd) : Ranges :=
  (c.csrc, 32) :: (c.ins ++ c.out.toList).map fun p => (p.2, c.rows * rowBytes p.1 c.rowlen)

/-- Conditions of R151 and R74 on a VEC. -/
def vecConds (die : Nat) (w x : CmdWord) : List (Bool × Nat) :=
  let c := vecCmd die w x {}
  let n := fld w 8 4
  let ph2 := fld w 12 4
  let ph3 := fld w 16 4
  let nin := fld w 20 2
  let outen := bit w 22
  let fm := [fld w 212 4, fld w 216 4, fld w 220 4]
  let offs := [fld w 64 32, fld w 96 32, fld w 128 32]
  let fmts := (c.ins ++ c.out.toList).map fun p => p.1
  let cvt := c.mops.any fun m => decide (mopCode m = 0xB)
  [(decide (n = 0 ∨ 14 < n) || decide (ph3 ≠ 0 ∧ ph2 = 0) || decide (ph2 ≠ 0 ∧ n ≤ ph2) ||
      decide (ph3 ≠ 0 ∧ (ph3 ≤ ph2 ∨ n ≤ ph3)), 0x5402),
   (c.mops.any mopBad, 0x5403),
   (fm.any fcReserved || fcReserved (fld w 224 4), 0x5201),
   (fmts.any (fun f => decide (8 < f)) || (fm.drop nin).any (fun f => decide (f ≠ 0)) ||
      (!outen && decide (fld w 224 4 ≠ 0)), 0x5404),
   (decide (c.rows = 0 ∨ c.rowlen = 0) || (fmts.any isMx && decide (c.rowlen % 32 ≠ 0)), 0x5405),
   (reservedStream (fld w 288 16), 0x5501),
   (c.sr && outen && decide (fld w 224 4 = 8 ∨ fld w 224 4 = 11), 0x5208),
   ((c.sr && (outen || cvt) || c.mops.any fun m => decide (mopCode m = 0x28)) &&
      decide (fld w 288 16 = 0), 0x5206),
   (rangesBad c.ranges, 0x5407),
   (!reservedZero w [(0, 34), (40, 16), (64, 128), (192, 60), (256, 48), (320, 192)] ||
      (decide (6 < n) && !reservedZero x [(0, 256)]) ||
      (offs.drop nin).any (fun o => decide (o ≠ 0)) || (!outen && decide (fld w 160 32 ≠ 0)), 0x5409)]

/-- VEC runs on the core itself and finishes before the next command issues (R117, R121, R127, R137). -/
def execVec (core : CoreId) (s : State) : Host.Outcome State Fault Refusal :=
  .next (s.issue core.val 0x40 fun s seq w =>
    let die := dieOf core.val
    let r := s.coreRec core.val
    let x := r.ext
    s.refuseOr core.val seq 0x40 (vecConds die w x) fun s =>
      let c := vecCmd die w x r.ctx
      match c.run s with
      | (s1, f, true) => s1.finish core.val seq (fld w 24 10) (okOr (s1.rangesEmu die c.ranges)) 0 f
      | (s1, f, false) => s1.completeRaw core.val seq stECC 0 f)

end Sys2Proof.Machine
end

