-- ==== Sys2Proof/Machine/SampleOps.lean ====
section
/-! DEFINITION. Operations of the token sampler: the partial stage, the merge stage, results and
broadcasts (R161 to R173). -/

namespace Sys2Proof.Machine

/-! Fields (R161, R162). -/

def smMODE (w : CmdWord) : Nat := fld w 8 2
def smCNT (w : CmdWord) : Nat := fld w 16 10
def smTEMP (w : CmdWord) : Nat := fld w 32 16
def smKTOP (w : CmdWord) : Nat := fld w 48 11
def smSID (w : CmdWord) : Nat := fld w 64 16
/-- Contributors. -/
def smNCONT (w : CmdWord) : Nat := fld w 80 9 + 1
def soTOPP (w : CmdWord) : Nat := fld w 96 17
def soMMOD (w : CmdWord) : Nat := fld w 224 12
def soRDST (w : CmdWord) : Nat := fld w 256 32
def soTO (w : CmdWord) : Nat := fld w 288 16
def spLFMT (w : CmdWord) : Nat := fld w 10 4
def spCIDX (w : CmdWord) : Nat := fld w 89 8
def spMMOD (w : CmdWord) : Nat := fld w 108 12
def spLSRC (w : CmdWord) : Nat := fld w 128 32
def spVLEN (w : CmdWord) : Nat := fld w 160 20
def spVBASE (w : CmdWord) : Nat := fld w 192 20
def spDFMT (w : CmdWord) : Nat := fld w 224 4
def spDDST (w : CmdWord) : Nat := fld w 256 32

/-- TEMP is not positive and finite. -/
def tempBad (t : Nat) : Bool :=
  match decodeF fFP16 t with
  | .fin neg m _ => neg || decide (m = 0)
  | _ => true

/-- Conditions of R177 shared by SMP_OPEN and SMP_PART; MODE 1 ignores KTOP (R172). -/
def smConds (w : CmdWord) : List (Bool × Nat) :=
  [(tempBad (smTEMP w), 0x5503),
   (decide (smMODE w = 3 ∨ (smMODE w ≠ 1 ∧ (smKTOP w = 0 ∨ 1024 < smKTOP w))), 0x5504)]

/-- Conditions under which an SMP_OPEN is refused, with the set-ups that cover its die (R37, R177). -/
def soConds (us : List Setup) (w : CmdWord) : List (Bool × Nat) :=
  let md := smMODE w
  let n := if md = 2 then 16 + 8 * smKTOP w else 16
  smConds w ++
  [(l3Over us md (smKTOP w) (smNCONT w), 0x4003)] ++
  [(decide (65536 < soTOPP w ∨ soTO w = 0 ∨ 256 < smNCONT w) || (bit w 10 && decide (md ≠ 0)), 0x5504),
   (decide (md ≠ 1) && rangesBad [(soRDST w, n)], 0x5407),
   (!reservedZero w [(0, 11), (16, 10), (32, 16), (48, 11), (64, 25), (96, 17), (128, 64), (192, 44),
      (256, 48)], 0x5508)]

def spFormats : List Nat := [6, 7, 8]

/-- Conditions under which an SMP_PART is refused, with the set-ups that cover its die (R37, R74, R177). -/
def spConds (us : List Setup) (w : CmdWord) : List (Bool × Nat) :=
  let lf := spLFMT w
  let df := spDFMT w
  let md := smMODE w
  smConds w ++
  [(l3Over us md (smKTOP w) (smNCONT w), 0x4003)] ++
  [(decide (smNCONT w ≤ spCIDX w ∨ 256 < smNCONT w), 0x5504),
   (fcReserved lf || fcReserved df, 0x5201),
   (decide (spVLEN w = 0 ∨ 2 ^ 20 < spVBASE w + spVLEN w) || !(spFormats.contains lf) ||
      (decide (md = 1) && !([1, 6, 7, 8].contains df)), 0x5505),
   (rangesBad [(spLSRC w, elemBytes lf (spVLEN w))] ||
      (decide (md = 1) && rangesBad [(spDDST w, elemBytes df (spVLEN w))]), 0x5407),
   (!reservedZero w [(0, 14), (16, 10), (32, 16), (48, 11), (64, 33), (108, 12), (128, 52), (192, 20),
      (224, 4), (256, 32)], 0x5508)]

/-! The partial stage (R163). -/

/-- z_i of a shard, as FP32 codes. -/
def State.shardZ (s : State) (die : Nat) (w : CmdWord) : List Nat :=
  let f := spLFMT w
  let bs := s.sram die (spLSRC w) (elemBytes f (spVLEN w))
  let rt := f32rcp (r32 (decodeF fFP16 (smTEMP w)))
  (List.range (spVLEN w)).map fun i => f32mul (r32 (elemNum f (elemCode f bs i))) rt

/-- The canonical sum of EXP(z_i − m): lane i mod 16, then the fixed tree (R125, R163). -/
def expSum (zs : List Nat) (m : Nat) : Nat :=
  let p := zs.zipIdx.foldl (fun (p : List Nat) z =>
    p.set (z.2 % 16) (f32add (p.getD (z.2 % 16) 0) (f32exp (f32sub z.1 m)))) (List.replicate 16 0)
  redTree 0x20 p

/-- An entry of a candidate list: (z, token, CIDX). -/
abbrev Cand := Nat × Nat × Nat

/-- Order of candidates: z descending, token ascending, CIDX ascending (R163, R165). -/
def candBefore (a b : Cand) : Bool :=
  f32gt a.1 b.1 || (!f32gt b.1 a.1 && (decide (a.2.1 < b.2.1) ||
    (decide (a.2.1 = b.2.1) && decide (a.2.2 ≤ b.2.2))))

def candInsert (x : Cand) : List Cand → List Cand
  | [] => [x]
  | y :: t => if candBefore x y then x :: y :: t else y :: candInsert x t

def candSort (xs : List Cand) : List Cand := xs.foldr candInsert []

/-- The part of a shard: its m and s, and, unless it is sour, its candidates (R163). -/
def State.shardPart (s : State) (j : Job) (stream : Nat) : SmpPart :=
  let w := j.word
  let die := dieOf j.core
  let zs := s.shardZ die w
  let sour := zs.any fun z => !(d32 z).finite
  let m := zs.foldl f32max (inf32 true)
  let cands := if sour ∨ smMODE w = 1 then []
    else (candSort (zs.zipIdx.map fun z => (z.1, spVBASE w + z.2, 0))).take (smKTOP w)
  { job := BitVec.ofNat 8 j.ctx.job, sid := BitVec.ofNat 16 (smSID w),
    cidx := ⟨spCIDX w % 256, Nat.mod_lt _ (by decide)⟩, mode := ⟨smMODE w % 4, Nat.mod_lt _ (by decide)⟩,
    temp := BitVec.ofNat 16 (smTEMP w), ktop := BitVec.ofNat 11 (smKTOP w),
    ncont := BitVec.ofNat 9 (smNCONT w - 1), sourp := sour,
    m := BitVec.ofNat 32 m, z := BitVec.ofNat 32 (expSum zs m),
    cands := cands.map fun c => (BitVec.ofNat 20 c.2.1, BitVec.ofNat 32 c.1),
    srcMod := BitVec.ofNat 12 s.module, srcDie := ⟨die % 8, Nat.mod_lt _ (by decide)⟩,
    stream := BitVec.ofNat 16 stream }

/-- Bytes of a part on its way to the merge stage (R164). -/
def partBytes (p : SmpPart) : Bytes :=
  leBytes 2 p.sid.toNat ++ [BitVec.ofNat 8 p.cidx.val, BitVec.ofNat 8 (b2n p.sourp)]
    ++ leBytes 2 p.cands.length ++ leBytes 2 p.ktop.toNat ++ leBytes 4 p.m.toNat ++ leBytes 4 p.z.toNat
    ++ p.cands.flatMap fun c => leBytes 4 c.1.toNat ++ leBytes 4 c.2.toNat

/-- A part goes to the merge stage of MMOD, this module's own included (R164). -/
def State.sendPart (s : State) (j : Job) (p : SmpPart) : State :=
  let bs := partBytes p
  let die := dieOf j.core
  let n := (bs.length + 47) / 48
  let cells := (List.range n).map fun k =>
    let here := (bs.drop (48 * k)).take 48
    mkCell (spMMOD j.word) 8 s.module die 0x0A s.gen j.ctx.job false (decide (k + 1 = n)) here.length 0 k here
  s.xferStart die { owner := .cmd j.core j.seq, cells := cells }

/-! The end of a part (R167, R172). -/

def State.dropPart (s : State) (core seq : Nat) : State :=
  { s with smp := { s.smp with parts := s.smp.parts.filter fun r => !(r.core == core && r.seq == seq) } }

/-- SRAM ranges of a part: its logits, in MODE 1 its soft targets. -/
def partRanges (w : CmdWord) : Ranges :=
  (spLSRC w, elemBytes (spLFMT w) (spVLEN w)) ::
    if smMODE w = 1 then [(spDDST w, elemBytes (spDFMT w) (spVLEN w))] else []

/-- A part completes: SOUR where it was sent with SOURP, which counts for the vote in a distillation mode (R167);
DEGRADED where it touched an emulated bank (R138, R150). Its counter moves where its result is whole. -/
def State.partEnd (s : State) (r : PartRec) (status reason nflags : Nat) : State :=
  let die := dieOf r.core
  let st := if status ≠ stOK then status else if r.sour then stSOUR
    else okOr (s.rangesEmu die (partRanges r.word))
  let s1 := if st = stSOUR ∧ r.sour ∧ smMODE r.word ≠ 0 then s.recordSour die else s
  (s1.dropPart r.core r.seq).finish r.core r.seq (smCNT r.word) st reason nflags

/-- The id of a part's transfer is given up. -/
def State.partIdFree (s : State) (r : PartRec) : State :=
  match s.fab.xfers.find? fun e => decide (e.2.owner = XOwner.cmd r.core r.seq) with
  | some e => s.xferEnd (e.1 / 65536) (e.1 % 65536)
  | none => s

/-- The dense second pass of a part (R172). -/
def State.partDense (s : State) (r : PartRec) (sour : Bool) (m l : Nat) : State :=
  let die := dieOf r.core
  if sour then s.partEnd r stSOUR 0 0
  else
    let xs := (s.shardZ die r.word).map fun z => d32 (f32exp (f32sub (f32sub z m) l))
    let (bs, _, f) := convRow (spDFMT r.word) none xs
    (s.sramWrite die (spDDST r.word) bs).partEnd r stOK 0 f

/-- The uncompleted part of a die for a context and contributor. -/
def State.partOf (s : State) (die job sid cidx : Nat) : Option PartRec :=
  s.smp.parts.find? fun r => decide (dieOf r.core = die ∧ r.ctx.job = job ∧ smSID r.word = sid ∧
    spCIDX r.word = cidx)

/-- The merge stage answers a part by ACK or NACK (R164, R169). -/
def State.partReply (s : State) (p : SmpPart) (status : Nat) : State :=
  if status = stOK then s.sendAck p.srcMod.toNat p.srcDie.val 8 p.job.toNat p.stream.toNat 0
  else s.sendNack p.srcMod.toNat p.srcDie.val 8 p.job.toNat status 0 p.stream.toNat

/-! Contexts (R165 to R169, R173). -/

def State.setSmp (s : State) (f : SmpSt → SmpSt) : State :=
  let s1 : State := { s with smp := f s.smp }
  s1.fset RF.SMP_STAT_CTX_USED s1.smp.ctxs.length

def SmpCtx.is (c : SmpCtx) (job sid : Nat) : Bool := decide (c.job = job ∧ c.sid = sid)

/-- Parts a context has not received (R169). -/
def SmpCtx.missing (c : SmpCtx) : List (Nat × Nat × Nat) :=
  ((List.range c.ncont).filter fun i => !(c.parts.any fun p => decide (p.cidx.val = i))).map fun i =>
    (c.job, c.sid, i)

/-- The record of a context that did not end OK (R167, R173). -/
def smpRecord (c : SmpCtx) (status : Nat) : Bytes :=
  if c.mode = 2 then [0, 0, BitVec.ofNat 8 status] ++ List.replicate 13 0
  else leBytes 4 0 ++ leBytes 2 0x7E00 ++ [BitVec.ofNat 8 status, 0] ++ leBytes 4 0 ++ leBytes 4 c.pos

/-- The answer to an open of another module (R161, R167): the record goes to RDST as a stream that moves CNT
when its last byte is written, in mode 1 an addressed add does; the stream's own ACK completes an open that
ends OK, a NACK with the status any other. -/
def State.smpReturnFar (s : State) (c : SmpCtx) (f : Nat × Nat × Nat) (status : Nat) (rec_ : Bytes)
    (cnt : Bool) : State :=
  let ok := decide (status = stOK)
  let h : StreamHdr := {
    dmod := f.1, dtgt := f.2.1, smod := s.module, stgt := 8, gen := s.gen, job := c.job, dst := sramBase + c.rdst,
    lenRow := rec_.length, dstride := 0, rcnt := c.cnt, rcen := cnt, pgen := c.pgen,
    ackMod := if ok then f.1 else s.module, ackTgt := if ok then f.2.1 else 8, ackId := f.2.2 }
  if c.mode = 1 then
    let s1 := if cnt then s.sendAdd 8 .none f.1 f.2.1 c.job (cntOff c.cnt) c.pgen 1 else s
    if ok then s1.sendAck f.1 f.2.1 8 c.job f.2.2 0 else s1.sendNack f.1 f.2.1 8 c.job status 0 f.2.2
  else
    let s1 := s.sendStreams 8 .none ok h (fun _ => false) rec_
    if ok then s1 else s1.sendNack f.1 f.2.1 8 c.job status 0 f.2.2

/-- The answer to an open: its record is written, CNT moves where `cnt` says so, and SMP_OPEN completes. -/
def State.smpReturn (s : State) (c : SmpCtx) (status reason : Nat) (rec_ : Bytes) (cnt : Bool) : State :=
  match c.far with
  | some f => s.smpReturnFar c f status rec_ cnt
  | none =>
    let die := dieOf c.core
    let s1 := if c.mode = 1 then s else s.sramWrite die c.rdst rec_
    let st := if status = stOK ∧ c.mode ≠ 1 then okOr (s.rangesEmu die [(c.rdst, rec_.length)]) else status
    let s2 := s1.completeCmd c.core c.seq st reason 0
    if cnt then s2.cntAdd die c.cnt 1 else s2

/-- A context is done: its answer goes out, and it is FREE; the parts that a TIMEOUT left out are late (R168, R169).
CNT moves once the record is written, in mode 1 once every broadcast cell has been acknowledged (R167, R172). -/
def State.smpDone (s : State) (c : SmpCtx) (status reason : Nat) (rec_ : Bytes) : State :=
  let s1 := s.setSmp fun x =>
    { x with ctxs := x.ctxs.filter fun d => !d.is c.job c.sid,
             closed := x.closed ++ if status = stTIMEOUT ∧ c.st = 1 then c.missing else [] }
  s1.smpReturn c status reason rec_ (decide (c.mode ≠ 1) || decide (status = stOK ∨ status = stSOUR))

/-- The merged list with running sums (R165): (z, token, p, c). -/
def mergeList (c : SmpCtx) (m l : Nat) : List (Nat × Nat × Nat × Nat) :=
  let all := c.parts.flatMap fun p => p.cands.map fun e => (e.2.toNat, e.1.toNat, p.cidx.val)
  (((candSort all).take c.ktop).foldl (fun (a : List (Nat × Nat × Nat × Nat) × Nat) e =>
    let p := f32exp (f32sub (f32sub e.1 m) l)
    let c := f32add a.2 p
    (a.1 ++ [(e.1, e.2.1, p, c)], c)) ([], 0)).1

/-- j* of R165. -/
def cutAt (topp : Nat) (xs : List (Nat × Nat × Nat × Nat)) : Nat :=
  let last := xs.length - 1
  if topp = 65536 then last
  else (xs.findIdx? fun e => (d32 e.2.2.2).finite &&
    decide (0 ≤ numCmp (d32 e.2.2.2) (numOfInt topp (-16)))).getD last

/-- The result of modes 0 and 2 (R166, R167, R173). -/
def smpResult (c : SmpCtx) (m l : Nat) : Bytes :=
  let xs := mergeList c m l
  let js := cutAt c.topp xs
  let at_ := fun (j : Nat) => xs.getD j (0, 0, 0, 0)
  if c.mode = 2 then
    leBytes 2 (js + 1) ++ [0, 0] ++ leBytes 4 (f32sub one32 (at_ js).2.2.2) ++ leBytes 4 m ++ leBytes 4 l
      ++ (List.range (js + 1)).flatMap fun j => leBytes 4 (at_ j).2.1 ++ leBytes 4 (at_ j).2.2.1
  else
    let seed : Seed := { jseed := c.rseed, step := c.pos, stream := if c.qm then 0xFFFF else 0x7FFF, tile := 0 }
    let u := seed.draw 0 0 + 65536 * seed.draw 0 1
    let t := f32mul (at_ js).2.2.2 (f32ofScaled u 32)
    let j := ((List.range (js + 1)).find? fun j => f32gt (at_ j).2.2.2 t).getD js
    let lp := (convF fFP16 false .rne (d32 (f32sub (f32sub (at_ j).1 m) l))).1
    leBytes 4 (at_ j).2.1 ++ leBytes 2 lp ++ [0, 0] ++ leBytes 2 (js + 1) ++ [0, 0] ++ leBytes 4 c.pos

/-- Parts of a context in ascending CIDX. -/
def SmpCtx.sorted (c : SmpCtx) : List SmpPart :=
  (List.range 256).filterMap fun i => c.parts.find? fun p => decide (p.cidx.val = i)

/-- One cell with M and L to a contributor (R172). -/
def State.sendBcast (s : State) (p : SmpPart) (sour : Bool) (m l : Nat) : State :=
  let body := leBytes 2 p.sid.toNat ++ [BitVec.ofNat 8 p.cidx.val, BitVec.ofNat 8 (b2n sour)] ++ leBytes 4 m
    ++ leBytes 4 l
  let c := mkCell p.srcMod.toNat p.srcDie.val s.module 8 0x0A s.gen p.job.toNat false true 12 0 0 body
  s.xferStart 8 { owner := .smp p.job.toNat p.sid.toNat, cells := [c] }

/-- A broadcast cell has been acknowledged, or its transfer has ended otherwise. A mode 1 context ends once none is
left: with the first status other than OK that a cell ended with, in which case CNT does not move (R172, R245). -/
def State.smpAcked (s0 : State) (job sid status : Nat) : State :=
  let note := fun (d : SmpCtx) =>
    if decide (status ≠ stOK ∧ d.bad = 0) && d.is job sid then { d with bad := status } else d
  let s : State := { s0 with smp := { s0.smp with ctxs := s0.smp.ctxs.map note } }
  match s.smp.ctxs.find? fun c => c.is job sid with
  | some c =>
    let open_ := (s.fab.xfers.any fun e => decide (e.2.owner = XOwner.smp job sid)) ||
      (s.fab.idWait.get [] 8).any fun x => decide (x.owner = XOwner.smp job sid)
    if c.st = 3 ∧ !open_ then
      s.smpDone c (if c.bad ≠ 0 then c.bad else if c.parts.any fun p => p.sourp then stSOUR else stOK) 0 []
    else s
  | none => s

/-- M and L go to every contributor in ascending CIDX (R172). -/
def State.smpBcast (s : State) (c : SmpCtx) (sour : Bool) (m l : Nat) : State :=
  let s1 := s.setSmp fun x =>
    { x with ctxs := x.ctxs.map fun d => if d.is c.job c.sid then { d with st := 3 } else d }
  c.sorted.foldl (fun (s : State) p => s.sendBcast p sour m l) s1

/-- A sample whose draw was fenced (R160): a requester elsewhere gets a NACK, the vote of one here fails. -/
def State.smpFenced (s : State) (c : SmpCtx) : State :=
  match c.far with
  | some f => s.sendNack f.1 f.2.1 8 c.job stFENCED 0 f.2.2
  | none => (s.voteFailed (dieOf c.core)).completeCmd c.core c.seq stFENCED 0 0

/-- All parts have arrived (R165): merged, cut and drawn, or broadcast. A draw that meets a parity fault of the merge
stage's generator completes FENCED, without a record or its counter (R160, R167). -/
def State.smpMerge (s0 : State) (c : SmpCtx) : State :=
  let s := s0.markBusy 16
  let ps := c.sorted
  let sour := ps.any fun p => p.sourp
  let m := ps.foldl (fun (a : Nat) p => f32max a p.m.toNat) (inf32 true)
  let z := ps.foldl (fun (a : Nat) p => f32add a (f32mul p.z.toNat (f32exp (f32sub p.m.toNat m)))) 0
  let l := f32log z
  if c.mode = 1 then s.smpBcast c sour m l
  else if sour then s.smpDone c stSOUR 0 (smpRecord c stSOUR)
  else if c.mode = 0 ∧ s.smp.parity then
    (s.setSmp fun x => { x with ctxs := x.ctxs.filter fun d => !d.is c.job c.sid, parity := false }).smpFenced c
  else s.smpDone c stOK 0 (smpResult c m l)

/-- Function whose partition runs a JOB. -/
def State.fnOfJob (s : State) (job : Nat) : Nat :=
  (findFrom (fun p => decide (job ≠ 0 ∧ s.jobOf (p + 1) = job)) 8 0).elim 0 fun p => p + 1

/-- A part for a context that is past collecting, or a repeat (R169). -/
def State.smpLate (s : State) (p : SmpPart) : State := (s.finc RF.SMP_LATE_LATE_CNT 1).partReply p stTOOLATE

/-- A part joins its context (R169); MODE 1 ignores KTOP (R172). -/
def State.smpJoin (s : State) (c : SmpCtx) (p : SmpPart) : State :=
  if c.st ≠ 1 ∨ c.parts.any (fun q => q.cidx == p.cidx) then s.smpLate p
  else if p.mode.val ≠ c.mode ∨ p.temp.toNat ≠ c.temp ∨ (c.mode ≠ 1 ∧ p.ktop.toNat ≠ c.ktop) ∨ p.ncont.toNat + 1 ≠ c.ncont then
    (s.refuseItem 0x5507 (s.fnOfJob p.job.toNat)).partReply p stREFUSED
  else
    let c1 := { c with parts := c.parts ++ [p], st := if c.parts.length + 1 = c.ncont then 2 else 1 }
    let s1 := s.setSmp fun x => { x with ctxs := x.ctxs.map fun d => if d.is c.job c.sid then c1 else d }
    let s2 := s1.partReply p stOK
    if c1.st = 2 then s2.smpMerge c1 else s2

/-- A part reaches the merge stage (R169). One that a context ended by TIMEOUT still awaited is late; any other part
without a context is held for an open (DESIGN CHOICE, log entry 57). -/
def State.smpArrive (s : State) (p : SmpPart) : State :=
  match s.smp.ctxs.find? fun c => c.is p.job.toNat p.sid.toNat with
  | some c => s.smpJoin c p
  | none =>
    let k := (p.job.toNat, p.sid.toNat, p.cidx.val)
    if s.smp.closed.contains k then
      ({ s with smp := { s.smp with closed := s.smp.closed.filter fun x => !decide (x = k) } } : State).smpLate p
    else if 64 ≤ s.smp.orphans.length then
      (s.finc RF.SMP_STAT_ORPHAN_DROP 1).partReply p stTIMEOUT
    else { s with smp := { s.smp with orphans := s.smp.orphans ++ [p] } }

/-- The context an open asks for. -/
def smpCtxOf (w : CmdWord) (job : Nat) : SmpCtx :=
  { job := job, sid := smSID w, mode := smMODE w, qm := bit w 10, temp := smTEMP w, ktop := smKTOP w,
    ncont := smNCONT w, topp := soTOPP w, rseed := fld w 128 64, pos := fld w 192 32, rdst := soRDST w,
    tmo := soTO w, cnt := smCNT w }

/-- A context is taken (R168, R169): a second open of its key is refused, orphans join. DESIGN CHOICE: the record of an
open or part refused here names no command word but an item of the hive (R429 leaves open which; log entry 58). -/
def State.smpAdmit (s : State) (c : SmpCtx) : State :=
  if s.smp.ctxs.any fun d => d.is c.job c.sid then
    (s.refuseItem 0x5506 (s.fnOfJob c.job)).smpReturn c stREFUSED 0x5506 (smpRecord c stREFUSED)
      (decide (c.mode ≠ 1))
  else
    let mine := fun (p : SmpPart) => c.is p.job.toNat p.sid.toNat
    let ps := s.smp.orphans.filter mine
    let s1 := s.setSmp fun x =>
      { x with ctxs := x.ctxs ++ [c], orphans := x.orphans.filter fun p => !mine p,
               closed := x.closed.filter fun k => !decide (k.1 = c.job ∧ k.2.1 = c.sid) }
    ps.foldl (fun (s : State) p => s.smpArrive p) s1

/-- An open reaches the merge stage: it waits there while all 512 contexts are in use (R168). -/
def State.smpOpenAt (s : State) (c : SmpCtx) : State :=
  if 512 ≤ s.smp.ctxs.length ∧ !(s.smp.ctxs.any fun d => d.is c.job c.sid) then
    { s with smp := { s.smp with waiting := s.smp.waiting ++ [c] } }
  else s.smpAdmit c

/-- A core's open leaves for the merge stage of another module: the words and the requester's generation. -/
def State.sendOpen (s : State) (core seq : Nat) (w : CmdWord) (x : Ctx) : State :=
  let cell := mkCell (soMMOD w) 8 s.module (dieOf core) 0x0A s.gen x.job false true 41 0 0
    (leBytes 40 (w.toNat % 2 ^ 320) ++ [BitVec.ofNat 8 x.pgen])
  s.xferStart (dieOf core) { owner := .cmd core seq, cells := [cell] }

end Sys2Proof.Machine
end

