-- ==== Sys2Proof/Machine/UpdOps.lean ====
section
/-! DEFINITION. Operations of the fused update unit: tensor records, programs, diffs, the queue and the work
of one command (R178 to R207). -/

namespace Sys2Proof.Machine

/-! Command words (R182, R194, R202). -/

def uOPC (w : CmdWord) : Nat := fld w 0 8
def uCNT (w : CmdWord) : Nat := fld w 16 10
def uTREC (w : CmdWord) : Nat := fld w 96 32
def uBLK0 (w : CmdWord) : Nat := fld w 128 27
def uNBLK (w : CmdWord) : Nat := fld w 160 27
def uNDST (w : CmdWord) : Nat := fld w 192 32
def usSRC (w : CmdWord) : Nat := fld w 96 32
def usDST (w : CmdWord) : Nat := fld w 128 40
def usLEN (w : CmdWord) : Nat := fld w 192 24
def usROWS (w : CmdWord) : Nat := fld w 224 16
def usSSTR (w : CmdWord) : Nat := fld w 256 32
def usDSTR (w : CmdWord) : Nat := fld w 288 32
def usDIFF (w : CmdWord) : Nat := fld w 320 40

/-- Fields a command of an OPC defines. -/
def uFields (opc : Nat) : List (Nat × Nat) :=
  let common := [(0, 8), (16, 10), (32, 11), (48, 11), (64, 64)]
  if opc = 0x71 then common ++ [(128, 40), (192, 24), (224, 16), (256, 64), (320, 40)]
  else if opc = 0x73 then common ++ [(128, 27), (160, 27), (192, 32)]
  else common ++ [(128, 27), (160, 27)]

/-! Tensor records (R181): the 256 bytes as one number. -/

abbrev Trec := Nat

def Trec.f (t : Trec) (word lo w : Nat) : Nat := bitsN t (64 * word + lo) w

def Trec.nel (t : Trec) : Nat := t.f 0 0 34
def Trec.nmom (t : Trec) : Nat := t.f 0 34 2
def Trec.mfmt (t : Trec) (k : Nat) : Nat := t.f 0 (36 + 4 * k) 4
def Trec.mrnd (t : Trec) : Bool := bitN t 44
def Trec.cel (t : Trec) : Bool := bitN t 45
def Trec.d (t : Trec) : Nat := t.f 0 46 3
def Trec.clp (t : Trec) : Bool := bitN t 49
def Trec.nmop (t : Trec) : Nat := t.f 0 50 5
def Trec.hi (t : Trec) : Nat := t.f 1 0 40
def Trec.lo (t : Trec) : Nat := t.f 2 0 40
def Trec.m (t : Trec) (k : Nat) : Nat := t.f (3 + k) 0 40
def Trec.rec_ (t : Trec) : Nat := t.f 5 0 40
def Trec.gl (t : Trec) : Nat := t.f 6 0 40
def Trec.ring (t : Trec) : Nat := t.f 7 0 40
def Trec.elbase (t : Trec) : Nat := t.f 8 0 34
def Trec.stream (t : Trec) : Nat := t.f 8 48 16
def Trec.tile (t : Trec) : Nat := t.f 9 0 32
def Trec.clipc (t : Trec) : Nat := t.f 9 32 32
def Trec.diffoff (t : Trec) : Nat := t.f 10 0 40
def Trec.nb (t : Trec) : Int := signedN 10 (t.f 11 0 10)
def Trec.npart (t : Trec) : Nat := t.f 11 16 12
def Trec.normsrc (t : Trec) : Nat := t.f 11 32 32
def Trec.k (t : Trec) (i : Nat) : Nat := t.f (12 + i / 2) (32 * (i % 2)) 32
def Trec.mop (t : Trec) (i : Nat) : Nat := t.f (16 + i / 2) (32 * (i % 2)) 32
def Trec.nblk (t : Trec) : Nat := t.nel / 128

/-- Bits outside the fields are zero. -/
def Trec.resvZero (t : Trec) : Bool :=
  decide (([(0, 55), (64, 40), (128, 40), (192, 40), (256, 40), (320, 40), (384, 40), (448, 40), (512, 34),
    (560, 16), (576, 64), (640, 40), (704, 10), (720, 12), (736, 32), (768, 256), (1024, 768)].map
      fun f => bitsN t f.1 f.2 * 2 ^ f.1).sum = t)

/-- The record a command names, as SRAM holds it now. -/
def State.trec (s : State) (die off : Nat) : Trec := leVal (s.sram die off 256)

/-- Blocks of a command: first and number. -/
def uBlocks (t : Trec) (w : CmdWord) : Nat × Nat :=
  (uBLK0 w, if uNBLK w = 0 then t.nblk - uBLK0 w else uNBLK w)

/-- Bytes of the tensor's diff image (R192). -/
def Trec.image (t : Trec) : Nat :=
  (4 + t.nmom) * t.nel + t.nel / 4 + if t.cel then 13 * t.nel / 4 else 0

/-- Address of ring entry `j` of block b (R181). -/
def Trec.entry (t : Trec) (j b : Nat) : Nat := t.ring + (j * t.nblk + b) * 416

/-- Gradient source of block b at a step: its landing block or its ring entry (R183, R199). -/
def Trec.src (t : Trec) (step b : Nat) : Nat :=
  if t.cel then t.entry (step % t.d) b else t.gl + 416 * b

/-- Every array of the record: (address, bytes). -/
def Trec.arrays (t : Trec) : List (Nat × Nat) :=
  [(t.hi, 2 * t.nel), (t.lo, 2 * t.nel), (t.rec_, t.nel / 4), (t.gl, 13 * t.nel / 4)]
    ++ (List.range t.nmom).map (fun k => (t.m k, t.nel))
    ++ if t.cel then [(t.ring, t.d * (13 * t.nel / 4))] else []

/-- A moment format is a reserved code (R74). -/
def Trec.fmtReserved (t : Trec) : Bool := fcReserved (t.mfmt 0) || fcReserved (t.mfmt 1)

/-- Breaks a rule of R181 (0x5601). -/
def Trec.bad (t : Trec) : Bool :=
  let fmtBad := fun (k : Nat) =>
    if k < t.nmom then decide (t.mfmt k ≠ 3 ∧ t.mfmt k ≠ 4) else decide (t.mfmt k ≠ 0)
  decide (t.nel = 0 ∨ t.nel % 128 ≠ 0 ∨ t.nmom = 3) || fmtBad 0 || fmtBad 1
    || (if t.cel then decide (t.d = 0 ∨ 4 < t.d) else decide (t.d ≠ 0))
    || decide (t.nmop = 0 ∨ 24 < t.nmop)
    || [t.hi, t.lo, t.m 0, t.m 1, t.rec_, t.gl, t.ring].any fun a => decide (a % 64 ≠ 0)

/-! Programs (R184, R185). -/

def upCode (m : Nat) : Nat := bitsN m 0 8
def upD (m : Nat) : Nat := bitsN m 8 5
def upSrc (m i : Nat) : Nat := bitsN m (13 + 5 * i) 5
def upMod (m : Nat) : Nat := bitsN m 28 4

/-- Operations of an update program. -/
def upListed (c : Nat) : Bool := decide (1 ≤ c ∧ c ≤ 0xC) || decide (0x10 ≤ c ∧ c ≤ 0x1B)

/-- Operands a micro-op reads. -/
def upArgs (c : Nat) : Nat :=
  if c = 4 ∨ c = 9 then 3 else if [1, 2, 3, 5, 6, 0x11].contains c then 2 else 1

/-- MOP or MOD not permitted (0x5603); an operand not permitted (0x5602). -/
def upBadMod (m : Nat) : Bool :=
  let c := upCode m
  !upListed c || (if c = 9 then decide (3 < upMod m) else if c = 0xB then decide (7 < upMod m)
    else decide (upMod m ≠ 0))

def upBadOp (m : Nat) : Bool :=
  let n := upArgs (upCode m)
  upListed (upCode m) && (decide (16 ≤ upD m) || (List.range 3).any fun i =>
    if i < n then decide (16 ≤ upSrc m i ∧ upSrc m i < 24) else decide (upSrc m i ≠ 0))

/-- SIGN (R185). -/
def f32sign (a : Nat) : Nat :=
  match d32 a with
  | .nan => nan32
  | _ => if f32gt a 0 then one32 else if f32lt a 0 then f32neg one32 else a

/-- One FP32 operation of R123 with codes 0x01 to 0x0A and 0x10 to 0x1B, or SIGN. -/
def updElem (code a b c : Nat) : Nat :=
  match code with
  | 0x01 => f32add a b
  | 0x02 => f32sub a b
  | 0x03 => f32mul a b
  | 0x04 => f32fma a b c
  | 0x05 => f32max a b
  | 0x06 => f32min a b
  | 0x07 => f32abs a
  | 0x08 => f32neg a
  | 0x0A => a
  | 0x0C => f32sign a
  | 0x10 => f32rcp a
  | 0x11 => f32div a b
  | 0x12 => f32sqrt a
  | 0x13 => f32rcp (f32sqrt a)
  | 0x14 => f32exp2 a
  | 0x15 => f32exp a
  | 0x16 => f32log2 a
  | 0x17 => f32log a
  | 0x18 => f32tanh a
  | 0x19 => f32sigmoid a
  | 0x1A => f32silu a
  | _ => f32gelu a

/-- CVT, rounded to nearest even: value and flags (R123, R185). -/
def updCvt (f a : Nat) : Nat × Nat :=
  let x := d32 a
  if f = 0 then
    let (c, fl) := convInt8 .rne x
    (r32 (numOfInt (signedN 8 c) 0), fl)
  else if isMx f && !x.finite then (nan32, nfNF)
  else
    let (c, fl) := convF (elemFmt f) (decide (f ≤ 5)) .rne x
    (r32 (decodeF (elemFmt f) c), fl)

/-- One micro-op on the U-registers of one element. -/
def updStep (t : Trec) (st : List Nat × Nat) (m : Nat) : List Nat × Nat :=
  let us := st.1
  let val := fun i => let x := upSrc m i; if x < 16 then us.getD x 0 else t.k (x - 24)
  let code := upCode m
  if code = 9 then
    (if f32cmp (upMod m) (val 0) (val 1) then us.set (upD m) (val 2) else us, st.2)
  else if code = 0xB then
    let (v, f) := updCvt (upMod m) (val 0)
    (us.set (upD m) v, orF st.2 f)
  else (us.set (upD m) (updElem code (val 0) (val 1) (val 2)), st.2)

/-- The program on one element. -/
def Trec.run (t : Trec) (us : List Nat) : List Nat × Nat :=
  ((List.range t.nmop).map t.mop).foldl (updStep t) (us, 0)

/-! Refusals (R181, R192, R204, R208). -/

/-- A range meets a teacher range of the die. -/
def State.onTeacher (s : State) (die off len : Nat) : Bool :=
  (List.range 4).any fun i => decide (s.fget (RF.UPD_TEACH_BASE_VALID die i) = 1) &&
    meets off len (s.fget (RF.UPD_TEACH_BASE_BASE die i)) (s.fget (RF.UPD_TEACH_LIM_LIMIT die i))

/-- A range meets the slot area. -/
def State.onSlots (s : State) (die off len : Nat) : Bool :=
  let b := s.fget (RF.UPD_SLOT_BASE_BASE die)
  let n := s.fget (RF.UPD_SLOT_CFG_NSLOT die)
  meets off len b (b + n * slotStride (s.fget (RF.UPD_SLOT_CFG_SIZE64 die)))

/-- An update writes where R204 forbids it. -/
def State.updWriteBad (s : State) (die : Nat) (r : Nat × Nat) : Bool :=
  decide (0 < r.2) && (s.onTeacher die r.1 r.2 || s.onSlots die r.1 r.2 || decide (s.usable die < r.1 + r.2))

/-- Ranges outside the die's LPDDR5X (R210, R333). -/
def State.lpConds (s : State) (die : Nat) (r : Nat × Nat) : List (Bool × Nat) :=
  [(meets r.1 r.2 (s.usable die) 0x2000000000, 0x5A01), (decide (0 < r.2 ∧ 0x2000000000 < r.1 + r.2), 0x5702)]

/-- A diff image that does not fit the slot (R192). -/
def State.diffBad (s : State) (die off n : Nat) : Bool :=
  decide (off % 64 ≠ 0 ∨ 64 * s.fget (RF.UPD_SLOT_CFG_SIZE64 die) < off + n)

/-- What an update command writes in LPDDR5X. -/
def uWrites (t : Trec) (step : Nat) (w : CmdWord) : List (Nat × Nat) :=
  let b := (uBlocks t w).1
  let n := (uBlocks t w).2
  if uOPC w = 0x70 then
    [(t.hi + 256 * b, 256 * n), (t.lo + 256 * b, 256 * n), (t.rec_ + 32 * b, 32 * n)]
      ++ (List.range t.nmom).map fun k => (t.m k + 128 * b, 128 * n)
  else if uOPC w = 0x72 then [(t.entry (step % t.d) b, 416 * n)]
  else []

/-- Every block of a command lies in UPD_RUN commands of its cap issued before it (R200). -/
def State.runCovers (s : State) (die : Nat) (j : Job) (t : Trec) : Bool :=
  let rs := ((s.dieCap die).runs.take j.before).filter fun r => decide (r.1 = uTREC j.word)
  let (b, n) := uBlocks t j.word
  (List.range n).all fun i => rs.any fun r =>
    decide (r.2.1 ≤ b + i) && decide (r.2.2 = 0 ∨ b + i < r.2.1 + r.2.2)

/-- Rows UPD_SAVE reads and writes. -/
def usReads (w : CmdWord) : Ranges := rowsOf (usSRC w) (usSSTR w) (usLEN w) (usROWS w)
def usRows (w : CmdWord) : List (Nat × Nat) := rowsOf (usDST w) (usDSTR w) (usLEN w) (usROWS w)

def State.saveConds (s : State) (die : Nat) (w : CmdWord) : List (Bool × Nat) :=
  let rows := usRows w
  [(decide (usLEN w = 0 ∨ usROWS w = 0), 0x5604), (s.diffBad die (usDIFF w) (usLEN w * usROWS w), 0x5608),
   (rows.any (s.updWriteBad die), 0x5606), (rangesBad (usReads w), 0x5407)] ++ rows.flatMap (s.lpConds die)

def State.trecConds (s : State) (die : Nat) (j : Job) : List (Bool × Nat) :=
  let w := j.word
  let t := s.trec die (uTREC w)
  let opc := uOPC w
  let mops := (List.range (min t.nmop 24)).map t.mop
  let wr := uWrites t j.ctx.step w
  let (b, n) := uBlocks t w
  [(!t.resvZero, 0x560A), (t.fmtReserved, 0x5201), (t.bad, 0x5601), (decide (t.nblk ≤ b ∨ t.nblk < b + n), 0x5604),
   (mops.any upBadMod, 0x5603), (mops.any upBadOp, 0x5602), (t.mrnd && decide (t.stream = 0), 0x5206),
   (decide (opc = 0x73) && !t.clp, 0x5609), (decide (opc = 0x73) && rangesBad [(uNDST w, 16)], 0x5407),
   (t.clp && (decide (t.clipc = 0 ∨ 0x7F800000 ≤ t.clipc ∨ t.npart = 0) ||
      rangesBad [(t.normsrc, 16 * t.npart)]), 0x5609),
   (decide (opc = 0x72) && (!t.cel || !s.runCovers die j t), 0x5607),
   (decide (opc ≠ 0x73) && s.diffBad die t.diffoff t.image, 0x5608),
   ((t.arrays.any fun r => s.onTeacher die r.1 r.2) || wr.any (s.updWriteBad die), 0x5606),
   (l2Over (s.setupsOn die) die (t.arrays.map fun r => r.2).sum, 0x4002)]
    ++ t.arrays.flatMap (s.lpConds die)

/-- The conditions under which a command of the update unit is refused when it is taken. -/
def State.updConds (s : State) (die : Nat) (j : Job) : List (Bool × Nat) :=
  let w := j.word
  [(!reservedZero w (uFields (uOPC w)), 0x560A), (decide (s.fget (RF.UPD_SLOT_CFG_NSLOT die) = 0), 0x5608)] ++
    if uOPC w = 0x71 then s.saveConds die w
    else [(decide (uTREC w % 256 ≠ 0), 0x5601), (rangesBad [(uTREC w, 256)], 0x5407)] ++
      if rangesBad [(uTREC w, 256)] then [] else s.trecConds die j

/-! The work of one command (R183 to R187, R194, R199 to R203). -/

/-- A command under way: memory as it reads it, what it will write, where it stopped. -/
structure UpdRun where
  s : State
  diffs : List (Nat × Nat × Bytes) := []
  blocks : List Nat := []
  nflags : Nat := 0
  status : Nat := 0
  sour : Option (Nat × Nat) := none
  /-- the saturating norm and its saturation (R202). -/
  norm : Nat := 0
  sat : Bool := false

def UpdRun.stop (x : UpdRun) (status nflags : Nat) : UpdRun :=
  { x with status := status, nflags := orF x.nflags nflags }

/-- Block b sours for a cause (R186). -/
def UpdRun.sourAt (x : UpdRun) (t : Trec) (b cause nflags : Nat) : UpdRun :=
  { x.stop stSOUR (orF nfSOURED nflags) with sour := some (cause, t.elbase / 128 + b) }

/-- The tag of a gradient source (R183, R199): true where the block may be applied. -/
def tagOk (t : Trec) (step : Nat) (src : Bytes) : Bool :=
  let empty := bitN (byteAt src 385).toNat 1
  let tstep := leAt src 388 4
  !empty && (if t.cel then decide (tstep = (step + 2 ^ 32 - t.d) % 2 ^ 32) else decide (tstep = step % 2 ^ 32))

/-- A cellar block that passes unchanged (R199). -/
def tagPass (t : Trec) (step : Nat) (src : Bytes) : Bool :=
  t.cel && bitN (byteAt src 385).toNat 1 && decide (step < t.d)

/-- S of element i, and U3 (R48, R184). -/
def srcSum (src : Bytes) (i : Nat) : Int := signedN 24 (leAt src (3 * i) 3)
def srcVal (src : Bytes) (i : Nat) : Nat :=
  let eq := (byteAt src 384).toNat
  if eq = 255 then nan32 else r32 (numOfInt (srcSum src i) ((eq : Int) - 127))

/-- The bytes of one block as read. -/
structure Blk where
  hi : Bytes
  lo : Bytes
  ms : List Bytes
  rec_ : Bytes
  src : Bytes

/-- Ranges one block reads. -/
def blkRanges (t : Trec) (step b : Nat) : List (Nat × Nat) :=
  [(t.hi + 256 * b, 256), (t.lo + 256 * b, 256)] ++ (List.range t.nmom).map (fun k => (t.m k + 128 * b, 128))
    ++ [(t.rec_ + 32 * b, 32), (t.src step b, 416)]

def State.readBlk (s : State) (die : Nat) (t : Trec) (step b : Nat) : Blk :=
  { hi := s.peek die (t.hi + 256 * b) 256, lo := s.peek die (t.lo + 256 * b) 256,
    ms := (List.range t.nmom).map fun k => s.peek die (t.m k + 128 * b) 128,
    rec_ := s.peek die (t.rec_ + 32 * b) 32, src := s.peek die (t.src step b) 416 }

/-- The U-registers of element i before the program, and NF (R184). -/
def Blk.decode (x : Blk) (t : Trec) (i : Nat) : List Nat × Bool :=
  let u0 := leAt x.hi (2 * i) 2 * 65536 + leAt x.lo (2 * i) 2
  let scl := fun k => (byteAt x.rec_ (2 + 4 * k + i / 32)).toNat
  let m := fun k => if k < t.nmom then
      r32 (mxNum (t.mfmt k) (byteAt (x.ms.getD k []) i).toNat (scl k)) else 0
  let u3 := srcVal x.src i
  let us := [u0, m 0, m 1, u3]
  (us ++ List.replicate 12 0, us.any fun u => !(d32 u).finite)

/-- The 128 results of one moment requantized: whether every group was finite, and scales, codes, flags. -/
def requant (t : Trec) (seed : Seed) (b k : Nat) (vs : List Nat) : Bool × Bytes × Bytes × Nat :=
  let f := t.mfmt k
  let gs := (List.range 4).map fun g =>
    let draw := fun (i : Nat) =>
      let e := t.elbase + 128 * b + 32 * g + i
      seed.draw (e % 65536) (4 * (e / 65536) + k)
    convMx (elemFmt f) (emaxOf f) (if t.mrnd then some draw else none)
      (((vs.drop (32 * g)).take 32).map d32)
  (gs.all fun g => decide (g.1 ≠ 255), gs.map fun g => BitVec.ofNat 8 g.1, packCodes f (gs.flatMap fun g => g.2.1),
    gs.foldl (fun a g => orF a g.2.2) 0)

/-- Writes of an applied block with their diff positions (R183 step 7, R192). -/
def applyWrites (t : Trec) (step b : Nat) (old : Blk) (u0 : List Nat) (ms : List (Bytes × Bytes × Nat))
    (clipped : Bool) : List (Nat × Nat × Bytes) :=
  let o := t.diffoff
  let n := t.nel
  let scl := fun k => (ms.getD k ([0, 0, 0, 0], [], 0)).1
  let rec2 := old.rec_.take 2 ++ scl 0 ++ scl 1 ++ [BitVec.ofNat 8 (b2n clipped), 0] ++ leBytes 4 step
    ++ old.rec_.drop 16
  [(t.hi + 256 * b, o + 256 * b, u0.flatMap fun u => leBytes 2 (u / 65536)),
   (t.lo + 256 * b, o + 2 * n + 256 * b, u0.flatMap fun u => leBytes 2 u)]
    ++ ms.zipIdx.map (fun (m, k) => (t.m k + 128 * b, o + (4 + k) * n + 128 * b, m.2.1))
    ++ [(t.rec_ + 32 * b, o + (4 + t.nmom) * n + 32 * b, rec2)]

/-- Positions in the diff area that one block writes (R192). -/
def blkPos (t : Trec) (b : Nat) : List (Nat × Nat) :=
  let o := t.diffoff
  [(o + 256 * b, 256), (o + 2 * t.nel + 256 * b, 256)]
    ++ (List.range t.nmom).map (fun k => (o + (4 + k) * t.nel + 128 * b, 128))
    ++ [(o + (4 + t.nmom) * t.nel + 32 * b, 32)]

/-- What an update reads of its cap's slot: the bitmap bytes of the granules it changes, and the old diffs of those
whose bit is set (R189, R193). A slot not yet open has none. -/
def State.oldDiffs (s : State) (die : Nat) (ps : List (Nat × Nat)) : List (Nat × Nat) :=
  match (s.dieCap die).slot with
  | none => []
  | some k =>
    let base := s.slotAddr die k
    let bm := base + s.fget (RF.UPD_SLOT_CFG_SIZE64 die) * 64
    let gs := (ps.filter fun p => decide (0 < p.2)).flatMap fun p =>
      (List.range ((p.1 + p.2 - 1) / 64 + 1 - p.1 / 64)).map fun i => p.1 / 64 + i
    ((gs.map fun g => g / 8).eraseDups.map fun i => (bm + i, 1)) ++
      (gs.filter fun g => (s.byte (die * 2 ^ 40 + bm + g / 8)).getLsbD (g % 8)).map fun g => (base + 64 * g, 64)

/-- One block of UPD_RUN (R183); `clip` is the clip factor of R203 where CLP is set. -/
def UpdRun.block (x : UpdRun) (die : Nat) (t : Trec) (seed : Seed) (step : Nat) (clip : Option Nat)
    (b : Nat) : UpdRun :=
  if x.status ≠ stOK then x
  else match x.s.memReads die (blkRanges t step b ++ x.s.oldDiffs die (blkPos t b)) with
    | (s1, false) => { x.stop stECC 0 with s := s1 }
    | (s1, true) =>
      let x := { x with s := s1 }
      let old := s1.readBlk die t step b
      if tagPass t step old.src then { x with blocks := x.blocks ++ [b] }
      else if !tagOk t step old.src then x.stop stSTALE 0
      else if bitN (byteAt old.src 385).toNat 0 then x.sourAt t b 0 0
      else
        let us := (List.range 128).map (old.decode t)
        if us.any fun u => u.2 then x.sourAt t b 1 nfNF
        else
          let us1 := us.map fun u => match clip with
            | some f => u.1.set 3 (f32mul (u.1.getD 3 0) f)
            | none => u.1
          let rs := us1.map t.run
          let fl := rs.foldl (fun a r => orF a r.2) 0
          let u0 := rs.map fun r => r.1.getD 0 0
          -- step 5 requantizes, and sets its flags, before step 6 checks
          let qs := (List.range t.nmom).map fun k => requant t seed b k (rs.map fun r => r.1.getD (1 + k) 0)
          let fl1 := qs.foldl (fun a m => orF a m.2.2.2) fl
          if u0.any fun u => !(d32 u).finite then x.sourAt t b 2 fl1
          else if qs.any fun q => !q.1 then x.sourAt t b 3 fl1
          else
            let clipped := match clip with | some f => f32lt f one32 | none => false
            { x with diffs := x.diffs ++ applyWrites t step b old u0 (qs.map fun q => q.2) clipped
                     blocks := x.blocks ++ [b], nflags := orF x.nflags fl1 }

/-- Largest value of a norm (R202). -/
def normMax : Nat := 2 ^ 127 - 1

/-- The clip factor of R203, with PSAT where the norm saturated or overflowed. -/
def State.clipFactor (s : State) (die : Nat) (t : Trec) : Nat × Nat :=
  let bs := s.sram die t.normsrc (16 * t.npart)
  let ps := (List.range t.npart).map fun i => leAt bs (16 * i) 16
  let q := (ps.map fun p => p % 2 ^ 127).sum
  let sat := decide (normMax < q) || ps.any fun p => decide (2 ^ 127 ≤ p)
  let n := r32 (numOfInt (min q normMax) t.nb)
  let ovf := sat || !(d32 n).finite
  let n2 := if ovf then inf32 false else n
  let f := if f32gt n2 (f32mul t.clipc t.clipc) then f32mul t.clipc (f32rcp (f32sqrt n2)) else one32
  (f, if ovf then nfPSAT else 0)

/-- One block of UPD_PEND (R200). -/
def UpdRun.pend (x : UpdRun) (die : Nat) (t : Trec) (step b : Nat) : UpdRun :=
  if x.status ≠ stOK then x
  else
    let gl := t.gl + 416 * b
    let ent := t.entry (step % t.d) b
    let p := t.diffoff + (4 + t.nmom) * t.nel + t.nel / 4 + 416 * b
    match x.s.memReads die ([(gl, 416), (ent, 416)] ++ x.s.oldDiffs die [(p, 416)]) with
    | (s1, false) => { x.stop stECC 0 with s := s1 }
    | (s1, true) =>
      let x := { x with s := s1 }
      let src := s1.peek die gl 416
      if decide (leAt src 388 4 ≠ step % 2 ^ 32) || bitN (byteAt src 385).toNat 1 then x.stop stSTALE 0
      else if bitN (byteAt src 385).toNat 0 then x.sourAt t b 0 0
      else
        { x with diffs := x.diffs ++ [(ent, p, src)], blocks := x.blocks ++ [b] }

/-- One block of UPD_NORM (R202): its term joins the saturating sum. -/
def UpdRun.normBlk (x : UpdRun) (die : Nat) (t : Trec) (step b : Nat) : UpdRun :=
  if x.status ≠ stOK then x
  else match x.s.memReads die [(t.src step b, 416)] with
    | (s1, false) => { x.stop stECC 0 with s := s1 }
    | (s1, true) =>
      let x := { x with s := s1 }
      let src := s1.peek die (t.src step b) 416
      if tagPass t step src then x
      else if !tagOk t step src then x.stop stSTALE 0
      else if bitN (byteAt src 385).toNat 0 then x.sourAt t b 0 0
      else if byteAt src 384 = 255 then x.sourAt t b 1 nfNF
      else
        let q := ((List.range 128).map fun i => (srcSum src i).natAbs * (srcSum src i).natAbs).sum
        let e : Int := 2 * (((byteAt src 384).toNat : Int) - 127) - t.nb
        let term := if 0 ≤ e then q * 2 ^ e.toNat else q / 2 ^ (-e).toNat
        let cut := decide (e < 0) && decide (q % 2 ^ (-e).toNat ≠ 0)
        { x with norm := min (x.norm + term) normMax, sat := x.sat || decide (normMax < x.norm + term)
                 nflags := orF x.nflags (if cut then nfPUF else 0) }

/-- Lanes or channels of the die are out of service, so that update commands complete DEGRADED
(R190, R207). -/
def State.updDegraded (s : State) (die : Nat) : Bool :=
  decide (s.fget (RF.UPD_STAT_LANES_OK die) < 8) || decide ((s.chans die).length < 16)

/-- UPD_SAVE: rows and the bytes they replace are read; its writes are the rows (R194). -/
def State.saveWork (s : State) (die : Nat) (j : Job) : State × Job :=
  let w := j.word
  let reads := (usReads w).map fun r => (sramBase + r.1, r.2)
  match s.memReads die (reads ++ usRows w ++ s.oldDiffs die [(usDIFF w, usLEN w * usROWS w)]) with
  | (s1, false) => (s1, { j with started := true, status := stECC })
  | (s1, true) =>
    let ds := (List.range (usROWS w)).map fun r =>
      (usDST w + r * usDSTR w, usDIFF w + r * usLEN w, s1.sram die (usSRC w + r * usSSTR w) (usLEN w))
    let deg := s1.updDegraded die || s1.rangesEmu die (usReads w)
    (s1, { j with started := true, diffs := ds, status := okOr deg })

/-- The end of a command's work: what it will write and report. -/
def UpdRun.toJob (x : UpdRun) (j : Job) (deg : Bool) (wr : List (Nat × Bytes)) : Job :=
  { j with started := true, diffs := x.diffs, blocks := x.blocks, nflags := x.nflags, sour := x.sour,
           writes := if x.status = stOK then wr else [],
           status := if x.status = stOK then okOr deg else x.status }

/-- UPD_RUN, UPD_PEND and UPD_NORM: the record is read once, then block after block. -/
def State.trecWork (s : State) (die : Nat) (j : Job) : State × Job :=
  let w := j.word
  let t := s.trec die (uTREC w)
  let (b0, n) := uBlocks t w
  let bs := (List.range n).map fun i => b0 + i
  let step := j.ctx.step
  let clip := decide (uOPC w = 0x70) && t.clp
  let srcs := (uTREC w, 256) :: if clip then [(t.normsrc, 16 * t.npart)] else []
  match s.sramReads die srcs with
  | (s1, false) => (s1, { j with started := true, status := stECC })
  | (s1, true) =>
    let x0 : UpdRun := { s := s1 }
    let deg := s1.updDegraded die || s1.rangesEmu die (srcs ++
      if uOPC w = 0x73 then [(uNDST w, 16)] else [])
    if uOPC w = 0x70 then
      let cf := s1.clipFactor die t
      let seed := j.seed t.stream t.tile
      let x := bs.foldl (fun x b => x.block die t seed step (if clip then some cf.1 else none) b)
        { x0 with nflags := if clip then cf.2 else 0 }
      (x.s, x.toJob j deg [])
    else if uOPC w = 0x72 then
      let x := bs.foldl (fun x b => x.pend die t step b) x0
      (x.s, x.toJob j deg [])
    else
      let x := bs.foldl (fun x b => x.normBlk die t step b) x0
      (x.s, x.toJob j deg [(uNDST w, leBytes 16 (x.norm + if x.sat then 2 ^ 127 else 0))])

/-! The queue (R146, R182, R188, R195, R200). -/

def State.updQ (s : State) (die : Nat) : List Job := s.upd.queue.get [] die

def State.setUpdQ (s : State) (die : Nat) (q : List Job) : State :=
  ({ s with upd := { s.upd with queue := s.upd.queue.set [] die q } } : State).updStat die

/-- A slot of the die that is FREE. -/
def State.freeSlotOf (s : State) (die : Nat) : Option Nat :=
  findFrom (fun k => decide (s.fget (RF.UPD_SLOT_STATE_STATE die k) = 0))
    (s.fget (RF.UPD_SLOT_CFG_NSLOT die)) 0

/-- Writes diffs: every update command but UPD_NORM. -/
def uDiffs (w : CmdWord) : Bool := decide (uOPC w ≠ 0x73)

/-- A queued command may start: its gate, its slot, and for UPD_PEND the blocks it follows. -/
def State.updReady (s : State) (die : Nat) (j : Job) : Bool :=
  let w := j.word
  let c := s.dieCap die
  let gate := !bit w 42 || satisfied (s.cnt die (fld w 32 10)) (fld w 64 32)
  let slot := !uDiffs w || decide (s.fget (RF.UPD_SLOT_CFG_NSLOT die) = 0) || c.slot.isSome ||
    (s.freeSlotOf die).isSome
  let held := if uOPC w = 0x72 then
      let t := s.trec die (uTREC w)
      let (b, n) := uBlocks t w
      s.runCovers die j t && !((List.range n).all fun i => c.ran.contains (uTREC w, b + i))
    else false
  !j.started && gate && slot && !held

/-- Commands that may start next (R146, R188): any of the queue, or only its head. -/
def State.updCands (s : State) (die : Nat) : List Job :=
  if s.fget (RF.WRK_WAITMODE_UPD_EARLY die) = 1 then s.updQ die else (s.updQ die).take 1

/-- The unit has a satisfied update to run (R147). -/
def State.updDue (s : State) (die : Nat) : Bool := (s.updCands die).any (s.updReady die)

/-- Two jobs are the same command. -/
def jobIs (x y : Job) : Bool := x.core == y.core && x.seq == y.seq

/-- The die's cap takes a FREE slot for its diffs (R195). -/
def State.openSlot (s : State) (die : Nat) (w : CmdWord) : State :=
  let c := s.dieCap die
  if uDiffs w && c.slot.isNone then
    match s.freeSlotOf die with
    | some k =>
      let s1 := (s.setDieCap die { c with slot := some k }).fset (RF.UPD_SLOT_STATE_STATE die k) 1
      { s1 with upd := { s1.upd with slots := s1.upd.slots.put (die * 8 + k) { key := c.key } } }
    | none => s
  else s

/-- The unit takes the next command that may start; a refused one is passed over. -/
def State.updPump : Nat → State → Nat → State
  | 0, s, _ => s
  | n + 1, s, die =>
    if (s.updQ die).any fun j => j.started then s
    else match (s.updCands die).find? (s.updReady die) with
      | none => s
      | some j =>
        match pick (s.updConds die j) with
        | some reason =>
          State.updPump n ((s.setUpdQ die ((s.updQ die).filter fun x => !jobIs x j)).refuseJob j reason) die
        | none =>
          let s := s.markBusy (2 * die + 1)
          let (s1, j1) := if uOPC j.word = 0x71 then s.saveWork die j else s.trecWork die j
          (s1.openSlot die j.word).setUpdQ die ((s1.updQ die).map fun x => if jobIs x j then j1 else x)

def State.updRun (s : State) (die : Nat) : State := State.updPump ((s.updQ die).length) s die

/-! Diffs (R193). -/

/-- A byte of the diff area changes by `x` (R193): the granule is cleared first if its bit is clear. -/
def State.diffByte (s : State) (die k pos : Nat) (x : Byte) : State :=
  let base := die * 2 ^ 40 + s.slotAddr die k
  let g := pos / 64
  let bm := base + s.fget (RF.UPD_SLOT_CFG_SIZE64 die) * 64 + g / 8
  if (s.byte bm).getLsbD (g % 8) then s.setByte (base + pos) (s.byte (base + pos) ^^^ x)
  else
    let s1 := (List.range 64).foldl (fun s i => s.setByte (base + 64 * g + i) 0) s
    (s1.setByte bm (s1.byte bm ||| BitVec.ofNat 8 (2 ^ (g % 8)))).setByte (base + pos) x

/-- A write's diff enters the slot, and the slot's map of positions to addresses. -/
def State.diffWrite (s : State) (die k : Nat) (w : Nat × Nat × Bytes) : State :=
  let old := s.peek die w.1 w.2.2.length
  let s1 := (w.2.2.zip old).zipIdx.foldl (fun s (b, i) => s.diffByte die k (w.2.1 + i) (b.1 ^^^ b.2)) s
  let r := s1.upd.slots.get {} (die * 8 + k)
  let m : DiffMap := { pos := w.2.1, addr := w.1, len := w.2.2.length }
  { s1 with upd := { s1.upd with slots := s1.upd.slots.put (die * 8 + k) { r with diffs := r.diffs ++ [m] } } }

/-- One diffed write in place. -/
def State.diffedWrite (s : State) (die k tag : Nat) (w : Nat × Nat × Bytes) : State × List Nat :=
  (s.diffWrite die k w).memWrite die w.1 w.2.2 tag

/-- All of a command's diffed writes, in order, then its lines made durable: good, or not. -/
def State.diffedWrites (s : State) (die k tag : Nat) (ws : List (Nat × Nat × Bytes)) : State × Bool :=
  let (s1, b1) := ws.foldl (fun (a : State × List Nat) w =>
    let (s1, bad) := a.1.diffedWrite die k tag w
    (s1, a.2 ++ bad)) (s, [])
  let (s2, b2) := s1.wcbFlush die tag
  (s2.markBad die ((b1 ++ b2).filter fun t => t != tag), !((b1 ++ b2).contains tag))

/-- Address of the state byte that a diff position covers (R192). -/
def SlotRec.addrOf (r : SlotRec) (p : Nat) : Option Nat :=
  (r.diffs.find? fun m => decide (m.pos ≤ p ∧ p < m.pos + m.len)).map fun m => m.addr + (p - m.pos)

/-- One set granule of a slot is XORed into the state it covers (R196). Its diff and the state are read through
their homes (R329); where a line of them is uncorrectable the data is not delivered, and the granule is left as it
is (DESIGN CHOICE, log entry 52). -/
def State.rollGranule (s : State) (die k : Nat) (r : SlotRec) (g : Nat) : State :=
  let base := s.slotAddr die k + 64 * g
  let xs := ((List.range 64).filterMap fun i =>
    let x := s.byte (die * 2 ^ 40 + base + i)
    if x = 0 then none else (r.addrOf (64 * g + i)).map fun a => (a, x))
  let lines := (xs.map fun y => y.1 / 64).eraseDups.map fun l => (64 * l, 64)
  match s.memReads die ((base, 64) :: lines) with
  | (s1, false) => s1
  | (s1, true) => xs.foldl (fun (s : State) y =>
      s.setByte (die * 2 ^ 40 + y.1) (s.byte (die * 2 ^ 40 + y.1) ^^^ y.2)) s1

/-- Every set granule of a slot is XORed into the state it covers, in ascending slot offset (R196). -/
def State.rollback (s : State) (die k : Nat) : State :=
  let r := s.upd.slots.get {} (die * 8 + k)
  let base := die * 2 ^ 40 + s.slotAddr die k
  let size := s.fget (RF.UPD_SLOT_CFG_SIZE64 die)
  let isSet := fun (g : Nat) => (s.byte (base + size * 64 + g / 8)).getLsbD (g % 8)
  ((List.range size).filter isSet).foldl (fun (s : State) g => s.rollGranule die k r g) s

end Sys2Proof.Machine
end

