-- ==== Sys2Proof/Machine/SwarmOps.lean ====
section
/-! DEFINITION. Operations of the swarm engines: command fields and checks, contributions, segments, results
(R255 to R272, R286, R287). -/

namespace Sys2Proof.Machine

/-! Fields (R262). -/

def swGID (w : CmdWord) : Nat := fld w 8 10
def swROOT (w : CmdWord) : Nat := fld w 18 12
/-- AG of a broadcast, OWN of a reduce. -/
def swAll (w : CmdWord) : Bool := bit w 30
def swCNT (w : CmdWord) : Nat := fld w 32 10
def swSRC (w : CmdWord) : Nat := fld w 64 40
def swDST (w : CmdWord) : Nat := fld w 128 40
def swLEN (w : CmdWord) : Nat := fld w 192 32
def swLENV (w : CmdWord) : Nat := fld w 256 40
def swNBLK (w : CmdWord) : Nat := fld w 192 27
def swSHARD (w : CmdWord) : Nat := fld w 224 27
def swMAP (w : CmdWord) : Nat := fld w 256 32
def swSCL (w : CmdWord) : Nat := fld w 288 32
def swREC (w : CmdWord) : Nat := fld w 320 40
def swLIST (w : CmdWord) : Nat := fld w 64 32
def swNENT (w : CmdWord) : Nat := fld w 96 16
def swSTG (w : CmdWord) : Nat := fld w 128 40
def swSTGLEN (w : CmdWord) : Nat := fld w 192 40

def swFields (opc : Nat) : List (Nat × Nat) :=
  if opc = 0x80 then [(0, 31), (32, 10), (64, 40), (128, 40), (192, 32), (256, 40)]
  else if opc = 0x81 then [(0, 31), (32, 10), (64, 40), (128, 40), (192, 27), (224, 27), (256, 64), (320, 40)]
  else [(0, 18), (32, 10), (64, 48), (128, 40), (192, 40)]

/-- Index of a die in a group. -/
def State.dieIdx (s : State) (g : Group) (die : Nat) : Option Nat := g.index (s.module + 4096 * die)

/-- Dies of this module that are members. -/
def State.localDies (s : State) (g : Group) : List Nat :=
  (List.range 8).filter fun d => (s.dieIdx g d).isSome

/-! What a member contributes and owns (R263, R271). -/

/-- A broadcast member sends its own data: the root, or every member of an all-gather. -/
def swRoots (w : CmdWord) (i : Nat) : Bool := swAll w || decide (swROOT w = i)

/-- Blocks a member contributes, and blocks it owns: (first, count). -/
def swBlks (g : Group) (w : CmdWord) : Nat := min (swNBLK w) (g.capb / 128)
def swOwned (g : Group) (w : CmdWord) (i : Nat) : Nat × Nat :=
  let n := g.capb / 128
  if swAll w then (min (i * swSHARD w) n, min ((i + 1) * swSHARD w) n - min (i * swSHARD w) n)
  else if swROOT w = i then (0, n) else (0, 0)

/-- The contribution is cut at capacity. -/
def swCut (g : Group) (w : CmdWord) (i : Nat) : Bool :=
  let opc := fld w 0 8
  (decide (opc = 0x80) && swRoots w i && decide (g.capb < swLEN w)) ||
    (decide (opc = 0x81) && decide (g.capb / 128 < swNBLK w))

/-- Bytes of the sour map a contribution of n blocks reads. -/
def mapBytes (n : Nat) : Nat := (n + 7) / 8

/-! Permute lists (R286). -/

structure PermEnt where
  loc : Nat
  len : Nat
  peer : Nat
  inc : Bool
  stgoff : Nat
  diffoff : Nat
  clean : Bool
  deriving DecidableEq, Repr

def State.permList (s : State) (die : Nat) (w : CmdWord) : List PermEnt :=
  (List.range (swNENT w)).map fun i =>
    let b := s.sram die (swLIST w + 32 * i) 32
    let p := leAt b 12 2
    { loc := leAt b 0 5, len := leAt b 8 4, peer := bitsN p 0 12, inc := bitN p 15, stgoff := leAt b 16 5,
      diffoff := leAt b 24 5,
      clean := decide (leAt b 5 3 = 0 ∧ bitsN p 12 3 = 0 ∧ leAt b 14 2 = 0 ∧ leAt b 21 3 = 0 ∧
        leAt b 29 3 = 0) }

/-- Two ranges overlap; some two of a list do. -/
def overlap (a b : Nat × Nat) : Bool := decide (a.1 < b.1 + b.2 ∧ b.1 < a.1 + a.2)
def anyOverlap : List (Nat × Nat) → Bool
  | [] => false
  | x :: t => t.any (overlap x) || anyOverlap t

def State.permConds (s : State) (die : Nat) (g : Group) (w : CmdWord) : List (Bool × Nat) :=
  let es := s.permList die w
  let inc := es.filter fun e => e.inc
  let slot := 64 * s.fget (RF.UPD_SLOT_CFG_SIZE64 die)
  [(decide (s.capState die = 0) || decide ((s.dieCap die).kind ≠ 1), 0x5803),
   (decide (swNENT w = 0), 0x5805),
   (anyOverlap (inc.map fun e => (e.loc, e.len)) || anyOverlap (inc.map fun e => (e.stgoff, e.len)) ||
     inc.any (fun e => decide (swSTGLEN w < e.stgoff + e.len ∨ slot < e.diffoff + e.len)) ||
     es.any (fun e => decide (e.len = 0 ∨ g.nmem ≤ e.peer)), 0x5805),
   (es.any fun e => !e.clean, 0x5806)]
  ++ sramConds (swLIST w) (32 * swNENT w) ++ s.rangeConds die (swSTG w) (swSTGLEN w)
  ++ es.flatMap fun e => s.rangeConds die e.loc e.len

/-! Checks at issue (R258, R262, R273, R290). -/

def State.swConds (s : State) (die : Nat) (c : Ctx) (w : CmdWord) : List (Bool × Nat) :=
  let opc := fld w 0 8
  let base := (!reservedZero w (swFields opc), 0x5806)
  match s.group c.job (swGID w) with
  | none => [base, (true, 0x5804)]
  | some g =>
    match s.dieIdx g die with
    | none => [base, (true, 0x5804)]
    | some i =>
      if opc = 0x80 then
        let n := if swRoots w i then min (swLEN w) g.capb else 0
        [base, (!swAll w && decide (g.nmem ≤ swROOT w), 0x5802)] ++ s.rangeConds die (swSRC w) n
          ++ s.rangeConds die (swDST w) (if swAll w then g.nmem * g.capb else max 1 n)
          ++ s.rangeConds die (swLENV w) (if swAll w then 4 * g.nmem else 0)
      else if opc = 0x81 then
        let n := swBlks g w
        let own := (swOwned g w i).2
        [base, (decide (g.capb % 128 ≠ 0) || (!swAll w && decide (g.nmem ≤ swROOT w)) ||
          (swAll w && decide (g.nmem * swSHARD w < g.capb / 128)), 0x5802)]
          ++ s.rangeConds die (swSRC w) (128 * n) ++ sramConds (swMAP w) (mapBytes n)
          ++ s.rangeConds die (swDST w) (416 * own) ++ s.rangeConds die (swREC w) (32 * own)
          ++ sramConds (swSCL w) own
      else base :: s.permConds die g w

/-- Ranges a member's contribution reads. -/
def State.swReads (s : State) (die : Nat) (g : Group) (i : Nat) (w : CmdWord) : List (Nat × Nat) :=
  let opc := fld w 0 8
  if opc = 0x80 then if swRoots w i then [(swSRC w, min (swLEN w) g.capb)] else []
  else if opc = 0x81 then
    let n := swBlks g w
    [(swSRC w, 128 * n), (sramBase + swMAP w, mapBytes n), (swREC w, 32 * (swOwned g w i).2)]
  else (sramBase + swLIST w, 32 * swNENT w) ::
    ((s.permList die w).filter fun e => !e.inc).map fun e => (e.loc, e.len)

/-! Ops of this hive. -/

def SwmOp.is (o : SwmOp) (job gid opseq : Nat) : Bool :=
  decide (o.job = job ∧ o.gid = gid ∧ o.opseq = opseq)

/-- An op of this hive, on its engine (R255). -/
def State.swmOp (s : State) (job gid opseq : Nat) : SwmOp :=
  (s.swm.ops.find? fun o => o.is job gid opseq).getD
    { job := job, gid := gid, opseq := opseq, engine := opseq % 4 }

def State.setOp (s : State) (o : SwmOp) : State :=
  { s with swm := { s.swm with ops := (s.swm.ops.filter fun x => !x.is o.job o.gid o.opseq) ++ [o] } }

def State.dropOp (s : State) (o : SwmOp) : State :=
  { s with swm := { s.swm with ops := s.swm.ops.filter fun x => !x.is o.job o.gid o.opseq } }

/-- Segments of other modules that an op brings to this hive for a root: none when every member lies here. -/
def State.segsDue (s : State) (g : Group) (o : SwmOp) (root : Nat) : Nat :=
  if s.allHere g then 0 else Config.planSegments g.members s.boot.wire g.epoch o.key root

/-- The data of a root are all here. -/
def State.rootReady (s : State) (g : Group) (o : SwmOp) (root : Nat) : Bool :=
  o.captured && decide (s.segsDue g o root ≤ o.segs.get 0 root)

/-- What members must agree on: OPC, ROOT, AG or OWN, SHARD. -/
def swShape (w : CmdWord) : Nat × Nat × Bool × Nat :=
  let opc := fld w 0 8
  (opc, if swAll w then 0 else swROOT w, swAll w, if opc = 0x81 ∧ swAll w then swSHARD w else 0)

/-- The op's data are all here, for a permute by its barrier's total, and the members of this module agree on it. -/
def State.opReady (s : State) (g : Group) (o : SwmOp) : Bool :=
  o.captured && (if fld o.word 0 8 = 0x83 then o.released
    else (List.range g.nmem).all fun r => s.rootReady g o r) &&
    match o.members with
    | [] => true
    | m :: t => t.all fun x => decide (swShape x.job.word = swShape m.job.word)

/-! Contributions (R263, R265, R271). -/

/-- Bytes join the op. -/
def SwmOp.addBytes (o : SwmOp) (base : Nat) (bs : Bytes) : SwmOp :=
  let t := bs.zipIdx.foldl (fun (t : Tbl Nat) b => t.put (base + b.2) b.1.toNat) o.bytes
  { o with bytes := t }

/-- Lane sums join the op (R71). -/
def SwmOp.addSums (o : SwmOp) (base : Nat) (vs : List Int) : SwmOp :=
  let t := vs.zipIdx.foldl (fun (t : Tbl Int) v =>
    t.put (base + v.2) (t.get 0 (base + v.2) + v.1)) o.sums
  { o with sums := t }

/-- A sour cell of n elements from e on. Its elements are marked by 16, those of a partial-sum cell, so that the
mark a block ends with depends on no tree (R69, R264, R265). -/
def SwmOp.addSour (o : SwmOp) (e n : Nat) : SwmOp :=
  let t := (List.range ((e + n - 1) / 16 + 1 - e / 16)).foldl
    (fun (t : Tbl Nat) i => t.put (e / 16 + i) 1) o.sour
  { o with sour := t }

/-- Some of the elements [e, e + n) are sour. -/
def SwmOp.sourAt (o : SwmOp) (e n : Nat) : Bool :=
  (List.range ((e + n - 1) / 16 + 1 - e / 16)).any fun i => decide (o.sour.get 0 (e / 16 + i) = 1)

/-- Roots or owners of an op. -/
def swRootList (g : Group) (w : CmdWord) : List Nat :=
  if swAll w then List.range g.nmem else [swROOT w]

/-- A member's contribution joins the op. A contribution cell carries 48 elements and is sour if any block it
carries bytes of is marked in SOURMAP (R265). DESIGN CHOICE: the cells of a contribution to an owner are cut from
that owner's first element on (log entry 67). -/
def State.opJoin (s : State) (g : Group) (o : SwmOp) (m : SwmMember) : SwmOp :=
  let w := m.job.word
  let opc := fld w 0 8
  if opc = 0x80 then
    if swRoots w m.idx then
      o.addBytes (m.idx * g.capb) (s.peek m.die (swSRC w) (min (swLEN w) g.capb))
    else o
  else if opc = 0x81 then
    let n := 128 * swBlks g w
    let o1 := o.addSums 0 ((s.peek m.die (swSRC w) n).map fun b => signedN 8 b.toNat)
    let marked := fun (k : Nat) =>
      (s.byte (m.die * 2 ^ 40 + sramBase + swMAP w + k / 8)).getLsbD (k % 8)
    (swRootList g w).foldl (fun (o : SwmOp) r =>
      let b := (swOwned g w r).1
      let len := min n (128 * (b + (swOwned g w r).2)) - 128 * b
      (List.range ((len + 47) / 48)).foldl (fun (o : SwmOp) c =>
        let e := 128 * b + 48 * c
        let k := min 48 (len - 48 * c)
        if marked (e / 128) || marked ((e + k - 1) / 128) then o.addSour e k else o) o) o1
  else o

/-- Bytes of a permute have landed for a member, well or not (R287, R336). -/
def SwmOp.land (o : SwmOp) (idx n : Nat) (good : Bool) : SwmOp :=
  { o with landed := o.landed.put idx (o.landed.get 0 idx + n)
           members := if good then o.members else o.members.map fun m =>
             if m.idx == idx then { m with status := stECC } else m }

/-- A member's pieces for members of this module go to their staging areas (R287). -/
def State.permSend (s : State) (job gid opseq : Nat) (m : SwmMember) : State :=
  ((s.permList m.die m.job.word).filter fun e => !e.inc).foldl (fun (s : State) e =>
    let o := s.swmOp job gid opseq
    match o.members.find? fun r => r.idx == e.peer with
    | some r =>
      let (s1, good) := s.memWrites r.die [(swSTG r.job.word + e.stgoff, s.peek m.die e.loc e.len)]
        (cmdTag m.job.core m.job.seq)
      s1.setOp ((s1.swmOp job gid opseq).land r.idx e.len good)
    | none => s) s

/-! Segments toward other modules (R265, R266, R268). -/

/-- Bytes a member contributes: of a permute, its outgoing pieces. -/
def State.swBytes (s : State) (g : Group) (m : SwmMember) : Nat :=
  let w := m.job.word
  if fld w 0 8 = 0x80 then (if swRoots w m.idx then min (swLEN w) g.capb else 0)
  else if fld w 0 8 = 0x81 then 128 * swBlks g w
  else (((s.permList m.die w).filter fun e => !e.inc).map fun e => e.len).sum

/-- The op's largest member contribution: of the members here, and of those on other modules, which a free value
stands for (R268; log entry 71). -/
def State.opLarge (s : State) (g : Group) (o : SwmOp) (key : Nat) : Nat :=
  max ((o.members.map fun m => s.swBytes g m).foldl max 0) (if s.allHere g then 0 else Config.farLargest g.members key)

/-- The op's largest contribution lies below THRESH KiB: it takes the latency tree (R268). -/
def SwmOp.latency (o : SwmOp) (g : Group) : Bool := decide (o.large < 1024 * g.thresh)

/-- Payload of a segment open. -/
def segPay (g : Group) (o : SwmOp) (opk stripe rootm elbase : Nat) : Bytes :=
  let k : CapKey := o.cap.getD {}
  leBytes 2 g.gid ++ [BitVec.ofNat 8 g.epoch, BitVec.ofNat 8 opk] ++ leBytes 4 o.opseq
    ++ [BitVec.ofNat 8 stripe, 0] ++ leBytes 2 rootm ++ leBytes 4 elbase ++ leBytes 2 g.gsum
    ++ leBytes 4 k.step ++ [BitVec.ofNat 8 k.att]

/-- One segment along a tree edge: its open, then its data cells, `sour` by cell. -/
def State.segOut (s : State) (job gid opseq : Nat) (open_ : Bytes) (hop : Nat × Nat) (sour : Nat → Bool)
    (bs : Bytes) : State :=
  let op := mkCell hop.2 8 s.module 8 8 s.gen job false false 48 0 0 open_
  let n := (bs.length + 47) / 48
  let cells := (List.range n).map fun k =>
    let here := (bs.drop (48 * k)).take 48
    mkCell hop.2 8 s.module 8 8 s.gen job (sour k) (decide (k + 1 = n)) here.length 0 (k + 1) here
  s.xferStart 8 { owner := .seg job gid opseq, cells := op :: cells, acks := 1, port := hop.1 }

/-- Payload bytes of a segment at most (R265). -/
def segMax : Nat := 65535 * 48

/-- Data of the op toward the next nodes of a root's tree, cut into segments that take in turn the stripes whose
trees have an edge here. `per` is elements (or bytes) per payload byte group of `unit` bytes. -/
def State.treeSend (s : State) (g : Group) (o : SwmOp) (lat : Bool) (opk root base per unit : Nat) (up : Bool)
    (sour : Nat → Nat → Bool) (bs : Bytes) : State :=
  let md := memMod (g.members.getD root 0)
  let live := (List.range 31).filter fun st => s.planNext g md st up != []
  (List.range ((bs.length + segMax - 1) / segMax)).foldl (fun (s : State) k =>
    let stripe := if lat then 0xFF else live.getD (k % max 1 live.length) (k % 31)
    let el := base + k * segMax / unit * per
    let here := (bs.drop (k * segMax)).take segMax
    (s.planHops g md stripe up).foldl (fun (s : State) h =>
      s.segOut g.job g.gid o.opseq (segPay g o opk stripe root el) h
        (fun c => sour (el + c * (48 / unit) * per) (48 / unit * per)) here) s) s

/-- Bytes of the op in a range, in ascending order. -/
def SwmOp.slice (o : SwmOp) (lo hi : Nat) : Bytes :=
  ((o.bytes.filter fun e => decide (lo ≤ e.1 ∧ e.1 < hi)).map fun e => BitVec.ofNat 8 e.2)

/-- Member i lies on this module. -/
def State.idxHere (s : State) (g : Group) (i : Nat) : Bool := decide (memMod (g.members.getD i 0) = s.module)

/-- The sums for an owner of another module: one contribution as GRAD8, several as RG24 partial sums (R265). -/
def State.opSendSums (s : State) (g : Group) (o : SwmOp) (r : Nat) : State :=
  let (b, n) := swOwned g o.word r
  let one := decide (o.members.length = 1) && decide (o.segs.get 0 r = 0)
  let vals := (List.range (128 * n)).map fun i => o.sums.get 0 (128 * b + i)
  if one then
    s.treeSend g o (o.latency g) 1 r (128 * b) 1 1 true o.sourAt (vals.map fun v => BitVec.ofInt 8 v)
  else s.treeSend g o (o.latency g) 2 r (128 * b) 1 3 true o.sourAt (vals.flatMap fun v => leBytes 3 (wrapI 24 v))

/-- What leaves at capture: the data of the roots here, and a permute's pieces for members of other modules. -/
def State.opOwn (s : State) (g : Group) (o : SwmOp) : State :=
  if s.allHere g then s
  else if fld o.word 0 8 = 0x80 then
    ((swRootList g o.word).filter fun r => s.idxHere g r).foldl (fun (s : State) r =>
      s.treeSend g o (o.latency g) 0 r 0 1 1 false (fun _ _ => false)
        (o.slice (r * g.capb) ((r + 1) * g.capb))) s
  else if fld o.word 0 8 = 0x83 then
    o.members.foldl (fun (s : State) m =>
      ((s.permList m.die m.job.word).filter fun e => !e.inc && !s.idxHere g e.peer).foldl
        (fun (s : State) e => s.treeSend g o (o.latency g) 3 e.peer e.stgoff 1 1 true (fun _ _ => false)
          (s.peek m.die e.loc e.len)) s) s
  else s

/-- The sums for owners of other modules go on once all that is due for them is here, once each. -/
def State.opForward (s : State) (g : Group) (o : SwmOp) : State :=
  if s.allHere g ∨ fld o.word 0 8 ≠ 0x81 then s
  else
    let rs := (swRootList g o.word).filter fun r => !s.idxHere g r && !o.fwd.contains r && s.rootReady g o r
    rs.foldl (fun (s : State) r => s.opSendSums g o r) (s.setOp { o with fwd := o.fwd ++ rs })

/-! The barrier of a permute (R287). DESIGN CHOICE: the spec gives its cells no layout; the count goes toward member
0's module as an OPK 2 segment of one sum, and the total back as an OPK 0 segment (log entry 69). -/

/-- Bytes that a member's incoming pieces bring. -/
def State.permDue (s : State) (m : SwmMember) : Nat :=
  (((s.permList m.die m.job.word).filter fun e => e.inc).map fun e => e.len).sum

/-- Some segment of the op is still being sent. -/
def State.segBusy (s : State) (o : SwmOp) : Bool :=
  let mine := fun (x : Xfer) => decide (x.owner = XOwner.seg o.job o.gid o.opseq)
  (s.fab.xfers.any fun e => mine e.2) || (s.fab.idWait.get [] 8).any mine

/-- The members here raise the barrier: their pieces are out and consumed, and their bytes have landed. -/
def State.permRaise (s : State) (o : SwmOp) : State :=
  if o.captured && !o.raised && !s.segBusy o && o.members.all fun m => decide (s.permDue m ≤ o.landed.get 0 m.idx) then
    s.setOp { o.addSums 0 [(o.members.length : Int)] with raised := true }
  else s

/-- The total is known at member 0's module, which sends it down the latency tree; elsewhere the count goes up. -/
def State.permCount (s : State) (g : Group) (o : SwmOp) : State :=
  let n := (o.sums.get 0 0).toNat
  if g.cMod = s.module then
    if g.nmem ≤ n ∧ !o.released then
      (s.setOp { o with released := true }).treeSend g o true 0 0 0 1 1 false (fun _ _ => false) (leBytes 4 n)
    else s
  else if !o.released && decide (g.nmem ≤ leVal (o.slice 0 4)) then s.setOp { o with released := true }
  else if o.sentUp < n then
    (s.setOp { o with sentUp := n }).treeSend g o true 2 0 0 1 3 true (fun _ _ => false) (leBytes 3 (n - o.sentUp))
  else s

def State.permGo (s : State) (g : Group) (job gid opseq : Nat) : State :=
  if fld (s.swmOp job gid opseq).word 0 8 = 0x83 then
    let s1 := s.permRaise (s.swmOp job gid opseq)
    s1.permCount g (s1.swmOp job gid opseq)
  else s

/-! The op goes on. -/

def State.dieOps (s : State) (die : Nat) : State :=
  s.fset (RF.SWM_DIE_STAT_OPS die)
    ((s.swm.ops.map fun o => (o.members.filter fun m => m.die == die).length).sum)

/-- An op whose members here have all left goes once nothing of it is being sent. -/
def State.opSettle (s : State) (job gid opseq : Nat) : State :=
  let o := s.swmOp job gid opseq
  if o.members = [] ∧ o.captured ∧ !s.segBusy o then s.dropOp o else s

/-- A member's command leaves its op. -/
def State.leaveOp (s : State) (o : SwmOp) (m : SwmMember) : State :=
  let o1 := { o with members := o.members.filter fun x => !(x.die == m.die) }
  let s1 := if o1.members = [] ∧ !(o1.captured && s.segBusy o1) then s.dropOp o1 else s.setOp o1
  s1.dieOps m.die

/-- A swarm command completes: its counter moves unless it failed (R263, R269). -/
def State.swmFinish (s : State) (m : SwmMember) (status reason : Nat) : State :=
  let s1 := s.completeCmd m.job.core m.job.seq status reason 0
  if counts status ∨ status = stSOUR then s1.cntAdd m.die (swCNT m.job.word) 1 else s1

/-- The sources of the members here are read through their homes. A command that meets an uncorrectable line
completes ECC_UNCORRECTABLE and contributes nothing (R259, R331). -/
def State.opRead (s : State) (g : Group) (job gid opseq : Nat) : State :=
  (s.swmOp job gid opseq).members.foldl (fun (s : State) m =>
    match s.memReads m.die (s.swReads m.die g m.idx m.job.word) with
    | (s1, true) => s1
    | (s1, false) => (s1.leaveOp (s1.swmOp job gid opseq) m).swmFinish m stECC 0) s

/-- The op is captured: every member of this module has issued it, its sources are read, and what leaves at once
leaves. -/
def State.opCapture (s : State) (g : Group) (job gid opseq : Nat) : State :=
  let s1 := s.opRead g job gid opseq
  let o := s1.swmOp job gid opseq
  let m := o.members.headD {}
  let o1 := o.members.foldl (fun (o : SwmOp) m => s1.opJoin g o m)
    { o with captured := true, key := s1.free, word := m.job.word
             cap := (o.members.filterMap fun x => x.job.cap).head?, large := s1.opLarge g o s1.free }
  let perm := o1.members.filter fun m => decide (fld m.job.word 0 8 = 0x83)
  let s2 := perm.foldl (fun (s : State) m => s.permSend job gid opseq m) (s1.drawn.setOp o1)
  s2.opOwn g (s2.swmOp job gid opseq)

/-- The op goes on: captured when every member of this module has issued it; sums forwarded when they are
complete; a permute's barrier. -/
def State.opGo (s : State) (job gid opseq : Nat) : State :=
  match s.group job gid with
  | none => s
  | some g =>
    let o := s.swmOp job gid opseq
    let all := !o.captured && decide (o.members ≠ []) &&
      (s.localDies g).all fun d => o.members.any fun m => m.die == d
    let s1 := if all then s.opCapture g job gid opseq else s
    (s1.opForward g (s1.swmOp job gid opseq)).permGo g job gid opseq

/-! Results (R263, R271, R272, R287). -/

/-- Landing block j of an owner, and its next scale byte. -/
def State.landing (s : State) (g : Group) (o : SwmOp) (m : SwmMember) (step b j : Nat) :
    List (Nat × Bytes) × Bool :=
  let w := m.job.word
  let ss := (List.range 128).map fun i => o.sums.get 0 (128 * b + i)
  let eq := (s.byte (m.die * 2 ^ 40 + swREC w + 32 * j)).toNat
  let bad := o.sourAt (128 * b) 128
  let a := (ss.map Int.natAbs).foldl max 0
  let blk := ss.flatMap (fun v => leBytes 3 (wrapI 24 v)) ++
    [BitVec.ofNat 8 eq, BitVec.ofNat 8 (b2n bad), 0, 0] ++ leBytes 4 step
  ([(swDST w + 416 * j, toLen 416 blk), (sramBase + swSCL w + j, [BitVec.ofNat 8 (nextEq eq a g.nmem)])], bad)

/-- Writes of a member at the op's completion, and whether a block it owns is sour. -/
def State.opWrites (s : State) (g : Group) (o : SwmOp) (m : SwmMember) : List (Nat × Bytes) × Bool :=
  let w := m.job.word
  if fld w 0 8 = 0x80 then
    if swAll w then
      ((List.range g.nmem).flatMap fun r =>
        let bs := o.slice (r * g.capb) ((r + 1) * g.capb)
        [(swDST w + r * g.capb, toLen g.capb bs), (swLENV w + 4 * r, leBytes 4 bs.length)], false)
    else ([(swDST w, o.slice (swROOT w * g.capb) ((swROOT w + 1) * g.capb))], false)
  else if fld w 0 8 = 0x81 then
    let (b, n) := swOwned g w m.idx
    let step := match m.job.cap with
      | some k => k.step
      | none => s.freshVal.toNat % 2 ^ 32
    let ls := (List.range n).map fun j => s.landing g o m step (b + j) j
    (ls.flatMap fun l => l.1, ls.any fun l => l.2)
  else ([], false)

/-- A contribution cut at capacity is counted and recorded; OVF_CNT counts the commands that complete
OVERFLOW_DROPPED (R263, R288). -/
def State.noteCut (s : State) (g : Group) (m : SwmMember) (status : Nat) : State :=
  if m.cut then
    let k : CapKey := m.job.cap.getD { job := g.job, gid := g.gid, step := m.job.ctx.step % 2 ^ 32 }
    let s1 := if status = stOVERFLOW then s.finc (RF.SWM_DIE_STAT_OVF_CNT m.die) 1 else s
    (s1.finc RF.SWM_CNT_OVF 1).dieRec m.die 0x8502 0 1 (capPay k m.idx)
  else s

/-- Block records that a reduce's owner reads at the op's completion (R271). -/
def State.recReads (g : Group) (m : SwmMember) : List (Nat × Nat) :=
  let w := m.job.word
  if fld w 0 8 = 0x81 then [(swREC w, 32 * (swOwned g w m.idx).2)] else []

/-- A broadcast or reduce whose results may be written writes them and completes (R263, R271, R272). -/
def State.opPut (s : State) (g : Group) (o : SwmOp) (m : SwmMember) (ws : List (Nat × Bytes)) (bad : Bool) : State :=
  let (s1, good) := s.memWrites m.die ws (cmdTag m.job.core m.job.seq)
  let emu := ws.any fun w => decide (sramBase ≤ w.1) && s.emulated m.die (w.1 - sramBase) w.2.length
  let status := if !good then stECC else if bad then stSOUR else if m.cut then stOVERFLOW else okOr emu
  let s2 := (if bad then s1.recordSour m.die else s1).noteCut g m status
  (s2.leaveOp o m).swmFinish m status 0

/-- A broadcast or reduce completes at a member. -/
def State.opEnd (s : State) (g : Group) (o : SwmOp) (m : SwmMember) : State :=
  match s.memReads m.die (State.recReads g m) with
  | (s1, false) => (s1.leaveOp o m).swmFinish m stECC 0
  | (s1, true) =>
    let (ws, bad) := s1.opWrites g o m
    let s2 := if m.job.cap.isNone ∧ fld m.job.word 0 8 = 0x81 then s1.drawn else s1
    match pick (ws.flatMap fun w => s1.rangeConds m.die w.1 w.2.length) with
    | some reason =>
      (s2.refuseRec m.job.core (fld m.job.word 0 8) reason).leaveOp o m |>.swmFinish m stREFUSED reason
    | none => s2.opPut g o m ws bad

/-- The incoming pieces of a permute, copied from staging to their places in list order, with diffs (R193, R287);
answers whether all went well. -/
def State.permCopies (s : State) (m : SwmMember) (k : Nat) : List PermEnt → State × Bool
  | [] => (s, true)
  | e :: es =>
    match s.memReads m.die [(swSTG m.job.word + e.stgoff, e.len)] with
    | (s1, false) => (s1, false)
    | (s1, true) =>
      let ds := [(e.loc, e.diffoff, s1.peek m.die (swSTG m.job.word + e.stgoff) e.len)]
      match s1.diffedWrites m.die k (cmdTag m.job.core m.job.seq) ds with
      | (s2, false) => (s2, false)
      | (s2, true) => s2.permCopies m k es

/-- The place phase of a permute. -/
def State.permPlace (s : State) (o : SwmOp) (m : SwmMember) : State :=
  let w := m.job.word
  let s1 := s.openSlot m.die w
  match (s1.dieCap m.die).slot with
  | none => s
  | some k =>
    let (s2, good) := s1.permCopies m k ((s1.permList m.die w).filter fun e => e.inc)
    let status := if good && decide (m.status ≠ stECC) then okOr (s2.updDegraded m.die) else stECC
    (s2.leaveOp o m).swmFinish m status 0

/-! Receiving engines (R265, R266). -/

def Seg.isKey (x : Seg) (c : CellW) : Bool :=
  decide (x.srcMod = Cell.srcMod c ∧ x.srcTgt = Cell.srcTgt c ∧ x.stream = Cell.stream c)

/-- Cells of the 32 MiB swarm buffer (R255). -/
def swmBuf : Nat := 524288

def State.setSegs (s : State) (xs : List Seg) : State := { s with swm := { s.swm with segs := xs } }

/-- Waiting segments are granted, in order, while space is left. -/
def State.segGrant : List Seg → State → State
  | [], s => s
  | x :: t, s =>
    if !x.granted && !x.latency && decide (s.swm.bufCells + 4096 ≤ swmBuf) then
      let s1 : State := { s with swm := { s.swm with bufCells := s.swm.bufCells + 4096 } }
      let s2 := s1.setSegs (s1.swm.segs.map fun y => if decide (y = x) then { y with granted := true } else y)
      State.segGrant t (s2.sendAck x.srcMod x.srcTgt 8 x.job x.stream 0)
    else State.segGrant t s

/-- Segments gone, with their buffer space. -/
def State.segDrop (s : State) (p : Seg → Bool) : State :=
  let gone := s.swm.segs.filter p
  let n := 4096 * (gone.filter fun x => x.granted && !x.latency).length
  let left := s.swm.segs.filter fun x => !p x
  let s1 : State := { s with swm := { s.swm with segs := left, bufCells := s.swm.bufCells - n } }
  State.segGrant s1.swm.segs s1

/-- Members of an op here complete with a status. -/
def State.opFail (s : State) (o : SwmOp) (status reason : Nat) : State :=
  o.members.foldl (fun (s : State) m =>
    let s1 := if status = stREFUSED then s.refuseRec m.job.core (fld m.job.word 0 8) reason else s
    (s1.leaveOp (s1.swmOp o.job o.gid o.opseq) m).swmFinish m status reason) s

/-- This hive learns of a group mismatch: the op completes REFUSED here, also at members yet to issue it. -/
def State.opMismatch (s : State) (job gid opseq : Nat) : State :=
  let s1 : State := { s with swm := { s.swm with badOps := s.swm.badOps ++ [(job, gid, opseq)] } }
  s1.opFail (s1.swmOp job gid opseq) stREFUSED 0x3805

/-- Epoch and checksum that this hive holds for a group, as a member's or a relay's (R258, R261). -/
def State.segHeld (s : State) (job gid : Nat) : Option (Nat × Nat) :=
  match s.group job gid with
  | some g => some (g.epoch, g.gsum)
  | none => (s.relay job gid).map fun r => (r.epoch, r.gsum)

/-- The segment that an open cell announces, on engine OPSEQ mod 4 (R255, R265). -/
def segOf (c : CellW) : Seg :=
  { srcMod := Cell.srcMod c, srcTgt := Cell.srcTgt c, stream := Cell.stream c, job := Cell.job c,
    gid := bitsN (Cell.pay c 0 2) 0 10, opseq := Cell.pay c 4 4, epoch := Cell.pay c 2 1, opk := Cell.pay c 3 1,
    elbase := Cell.pay c 12 4, rootm := Cell.pay c 10 2, stripe := Cell.pay c 8 1,
    latency := decide (Cell.pay c 8 1 = 0xFF), engine := Cell.pay c 4 4 % 4 }

/-- A segment open reaches an engine (R246, R258, R265 to R267). -/
def State.segOpen (s : State) (c : CellW) : State :=
  let job := Cell.job c
  let gid := bitsN (Cell.pay c 0 2) 0 10
  match s.segHeld job gid with
  | none => s.dropJob 40 c
  | some (epoch, gsum) =>
    if Cell.pay c 2 1 ≠ epoch then s.finc RF.SWM_CNT_STALE_EP 1
    else if Cell.pay c 16 2 ≠ gsum then
      let k : CapKey := { job := job, gid := gid, step := Cell.pay c 18 4, att := Cell.pay c 22 1 }
      let s1 := (s.hiveRec 0x8501 0 2 (capPay k (Cell.pay c 10 2))).nackCell 8 stREFUSED 0 c
      s1.opMismatch job gid (Cell.pay c 4 4)
    else
      let s1 := s.setSegs (s.swm.segs ++ [segOf c])
      State.segGrant s1.swm.segs s1

/-- Staging offset of a segment of a permute at a member: ELBASE holds its low 32 bits, and the member's list the
rest, by the first incoming piece from the source's module that covers such an offset (DESIGN CHOICE, log entry
68). -/
def State.stageOff (s : State) (g : Group) (m : SwmMember) (x : Seg) : Nat :=
  let hit := (s.permList m.die m.job.word).filterMap fun e =>
    let a := e.stgoff + (x.elbase + 2 ^ 32 - e.stgoff % 2 ^ 32) % 2 ^ 32
    if e.inc ∧ e.peer < g.nmem ∧ a < e.stgoff + e.len then some a else none
  hit.headD x.elbase

/-- A data cell joins its op, by the kind of its segment. -/
def State.segJoin (s : State) (g : Group) (o : SwmOp) (x : Seg) (c : CellW) : State × SwmOp :=
  let bs := Cell.payBytes c 0 (Cell.len c)
  let k := 48 * (Cell.seq c - 1)
  if x.opk = 0 then
    (s, o.addBytes (x.rootm * g.capb + x.elbase + k) bs)
  else if x.opk = 3 then
    match o.members.find? fun m => m.idx == x.rootm with
    | some m =>
      let (s1, good) := s.memWrites m.die [(swSTG m.job.word + s.stageOff g m x + k, bs)]
        (cmdTag m.job.core m.job.seq)
      (s1, o.land x.rootm bs.length good)
    | none => (s, o)
  else
    let vs : List Int := if x.opk = 1 then bs.map fun b => signedN 8 b.toNat
      else (List.range (bs.length / 3)).map fun i => signedN 24 (leAt bs (3 * i) 3)
    let e := x.elbase + (if x.opk = 1 then k else k / 3)
    let o1 := o.addSums e vs
    (s, if Cell.sour c then o1.addSour e vs.length else o1)

/-- A segment once a data cell of it is consumed. -/
def Seg.count (x : Seg) (c : CellW) : Seg :=
  { x with got := x.got + Cell.len c
           total := if Cell.last c then some (48 * (Cell.seq c - 1) + Cell.len c) else x.total }

/-- The member that a permute's segment is for lies here and has yet to issue the op (R287). -/
def State.segWaits (s : State) (g : Group) (x : Seg) : Bool :=
  decide (x.opk = 3) && s.idxHere g x.rootm &&
    let d := memTgt (g.members.getD x.rootm 0)
    decide (s.swm.opseq.get 0 (d * 2 ^ 18 + x.job * 1024 + x.gid) ≤ x.opseq)

/-- A segment that is whole goes on along its tree, its cells as they came: broadcast data away from the root,
sums and pieces toward the owner (R261, R265). -/
def State.segPass (s : State) (hops : List (Nat × Nat)) (x : Seg) (k : CapKey) (gsum : Nat) : State :=
  let open_ := leBytes 2 x.gid ++ [BitVec.ofNat 8 x.epoch, BitVec.ofNat 8 x.opk] ++ leBytes 4 x.opseq
    ++ [BitVec.ofNat 8 x.stripe, 0] ++ leBytes 2 x.rootm ++ leBytes 4 x.elbase ++ leBytes 2 gsum
    ++ leBytes 4 k.step ++ [BitVec.ofNat 8 k.att]
  let bs := x.held.flatMap fun c => Cell.payBytes c 0 (Cell.len c)
  hops.foldl (fun (s : State) h => s.segOut x.job x.gid x.opseq open_ h
    (fun i => Cell.sour (x.held.getD i 0)) bs) s

/-- The next nodes of a segment at this hive. -/
def State.segHops (s : State) (x : Seg) : List (Nat × Nat) :=
  let up := decide (x.opk ≠ 0)
  match s.group x.job x.gid with
  | some g => s.planHops g (memMod (g.members.getD x.rootm 0)) x.stripe up
  | none => match s.relay x.job x.gid with
    | some r => s.relayHops r x.rootm x.stripe up
    | none => []

/-- The engine only passes the segment on, or also passes it on: a relay every one, a member's hive broadcast data
and pieces for another module. -/
def State.segVia (s : State) (x : Seg) : Bool × Bool :=
  match s.group x.job x.gid with
  | some g => (decide (x.opk = 3) && !s.idxHere g x.rootm, decide (x.opk = 0))
  | none => (true, false)

/-- A data cell without a hold is consumed and acknowledged; the last one ends the segment (R266). -/
def State.segTake (s : State) (x : Seg) (c : CellW) : State :=
  let (only, also) := s.segVia x
  let x1 := { x.count c with held := if only || also then x.held ++ [c] else [] }
  let whole := decide (x1.total = some x1.got)
  let s1 := match s.group x.job x.gid with
    | some g =>
      if only then s
      else
        let (s1, o1) := s.segJoin g (s.swmOp x.job x.gid x.opseq) x c
        s1.setOp (if whole then { o1 with segs := o1.segs.put x.rootm (o1.segs.get 0 x.rootm + 1) } else o1)
    | none => s
  let s2 := s1.setSegs (s1.swm.segs.map fun y => if y.isKey c then x1 else y)
  let s3 := s2.sendAck x.srcMod x.srcTgt 8 x.job x.stream x1.got
  if whole then
    let s4 := s3.segDrop fun y => y.isKey c
    let o := s4.swmOp x.job x.gid x.opseq
    let gsum := ((s4.segHeld x.job x.gid).getD (0, 0)).2
    (s4.segPass (if only || also then s4.segHops x else []) x1 (o.cap.getD {}) gsum).opGo x.job x.gid x.opseq
  else s3

/-- A data cell reaches an engine (R246, R265, R266); one without a segment belongs to an old epoch and is dropped
(R267). Bytes for a member that has yet to issue the permute wait in the buffer (R287). -/
def State.segData (s : State) (c : CellW) : State :=
  match s.swm.segs.find? fun x => x.isKey c with
  | none => s.finc RF.SWM_CNT_STALE_EP 1
  | some x =>
    if Cell.job c ≠ x.job ∨ s.segHeld x.job x.gid = none then s.dropJob 40 c
    else if (s.group x.job x.gid).any fun g => s.segWaits g x then
      s.setSegs (s.swm.segs.map fun y => if y.isKey c then { x with held := x.held ++ [c] } else y)
    else s.segTake x c

/-- An ACK of a segment: data cells go out to 4,096 beyond the bytes consumed, on the latency tree as its window
allows; all consumed, it ends (R266). `acks` counts the cells sent. -/
def State.segAck (s : State) (id : Nat) (x : Xfer) (bytes : Nat) : State :=
  let n := x.cells.length
  let total := ((x.cells.drop 1).map Cell.len).sum
  let x0 := { x with got := max x.got bytes }
  if total ≤ bytes then
    let s1 := (s.xferEnd 8 id).latRun x.port
    match x.owner with
    | .seg job gid opseq => (s1.opGo job gid opseq).opSettle job gid opseq
    | _ => s1
  else if x.latency then
    ({ s with fab := { s.fab with xfers := s.fab.xfers.put (xKey 8 id) x0 } } : State).latRun x.port
  else
    let upto := min n (1 + bytes / 48 + 4096)
    let out := (x.cells.drop x.acks).take (upto - x.acks)
    let x1 := { x0 with acks := max x.acks upto }
    let s1 : State := { s with fab := { s.fab with xfers := s.fab.xfers.put (xKey 8 id) x1 } }
    s1.emits (out.map Out.cell)

/-! Issue. -/

/-- The cells of a permute that came before a member issued it are consumed (R287). -/
def State.heldPieces (s : State) (job gid opseq idx : Nat) : State :=
  let xs := s.swm.segs.filter fun x => decide (x.job = job ∧ x.gid = gid ∧ x.opseq = opseq ∧ x.opk = 3 ∧ x.rootm = idx)
  xs.foldl (fun (s : State) x =>
    let s1 := s.setSegs (s.swm.segs.map fun y => if y = x then { y with held := [] } else y)
    x.held.foldl (fun (s : State) c => s.segData c) s1) s

/-- A swarm command is issued: checked, numbered, and it joins its op (R259, R262). One that binds to a cap being
rolled back completes ABORTED without acting (R196). -/
def State.swmIssue (s : State) (core opc : Nat) : State :=
  s.issue core opc fun s seq w =>
    let die := dieOf core
    let j := s.mkJob core seq w
    if s.capState die = 6 then s.completeRaw core seq stABORTED 0 0
    else
    let s1 := s.bindCmd core seq
    s1.refuseOrB core seq opc (s1.swConds die j.ctx w) fun s =>
      match s.group j.ctx.job (swGID w) with
      | none => s
      | some g =>
        let i := (s.dieIdx g die).getD 0
        let k := die * 2 ^ 18 + g.job * 1024 + g.gid
        let n := s.swm.opseq.get 0 k
        let s2 : State := { s with swm := { s.swm with opseq := s.swm.opseq.set 0 k ((n + 1) % 2 ^ 32) } }
        if s2.swm.badOps.contains (g.job, g.gid, n) then
          (s2.refuseRec core opc 0x3805).completeCmd core seq stREFUSED 0x3805 0
        else
          let o := s2.swmOp g.job g.gid n
          let m : SwmMember := { die := die, idx := i, job := j, cut := swCut g w i }
          (((s2.setOp { o with members := o.members ++ [m] }).heldPieces g.job g.gid n i).opGo g.job g.gid n).dieOps die

/-! Epochs (R267). -/

/-- The next plan epoch of a group is in place: at member 0's module the queen installs it in the other hives of
the plan; segments and transfers of the old one go. -/
def State.epochNext (s : State) (g : Group) : State :=
  let mine := fun (j k : Nat) => decide (j = g.job ∧ k = g.gid)
  let e := (g.epoch + 1) % 256
  let groups := s.swm.groups.map fun (x : Group) => if mine x.job x.gid then { x with epoch := e } else x
  let s1 : State := { s with swm := { s.swm with groups := groups } }
  let s2 := (s1.finc RF.SWM_CNT_REPLAN 1).segDrop fun x => mine x.job x.gid
  let s3 := s2.xfersEnd 8 fun x => match x.owner with
    | .seg j k _ => mine j k
    | _ => false
  if g.cMod = s.module then
    let s4 := s3.hiveRec 0x8503 0 1 (capPay { job := g.job, gid := g.gid, att := e } 0)
    let s5 := (g.mods.eraseDups.filter fun m => decide (m ≠ s.module)).foldl (fun (s : State) m =>
      s.queenMsg m [4, g.job, g.gid, e]) s4
    s5.relaysOut { g with epoch := e }
  else s3

/-- An op in progress restarts from its beginning, its sources read again. One whose data are all here, with members
that have completed it, sends what it holds again; after a permute's barrier only the total goes again, because its
sources may be overwritten (R264, R267, R287). -/
def State.opRestart (s : State) (g : Group) (o : SwmOp) : State :=
  if o.released then
    if g.cMod = s.module then
      s.treeSend g o true 0 0 0 1 1 false (fun _ _ => false) (leBytes 4 (o.sums.get 0 0).toNat)
    else s
  else if o.captured && !(s.localDies g).all (fun d => o.members.any fun m => m.die == d) then
    let o1 := { o with fwd := [] }
    ((s.setOp o1).opOwn g o1).opForward g o1
  else
    (s.setOp { o with sums := [], sour := [], bytes := [], segs := [], captured := false, fwd := [], landed := []
                      raised := false, sentUp := 0 }).opGo o.job o.gid o.opseq

end Sys2Proof.Machine
end

