-- ==== Sys2Proof/Machine/CellCmds.lean ====
section
/-! DEFINITION. Cells at the network interfaces and the timers of transfers: ADD_CELL, SOPEN_CELL, SDATA_CELL,
ACK_CELL, NACK_CELL, STREAM_RESTART, ORPHAN_TIMEOUT, TRANSFER_TIMEOUT, CONTEXT_IDLE_FREE,
STREAM_ID_AVAILABLE (R214 to R218, R229, R242 to R247). -/

namespace Sys2Proof.Machine

/-- ADD_CELL: an addressed add at a die (R128, R214). -/
def execAddCell (die : DieId) (cell : CellW) (s : State) : Host.Outcome State Fault Refusal :=
  .next (s.niCell die.val cell fun s => if Cell.type cell = 2 then s.niAdd die.val cell else s)

/-- SOPEN_CELL: a stream opens at a die (R216, R242). -/
def execSopenCell (die : DieId) (cell : CellW) (s : State) : Host.Outcome State Fault Refusal :=
  .next (s.niCell die.val cell fun s => if Cell.type cell = 4 then s.rxStart die.val cell else s)

/-- SDATA_CELL: a data cell at a die (R215, R242, R243). -/
def execSdataCell (die : DieId) (cell : CellW) (s : State) : Host.Outcome State Fault Refusal :=
  .next (s.niCell die.val cell fun s => if Cell.type cell = 5 then s.rxCell die.val cell else s)

/-- A cell at a target: a die's checks, or at the hive those of its services: JOB as the transfer's (R246). -/
def State.tgtCell (s : State) (tgt : Nat) (c : CellW) (f : Nat → Xfer → State → State) : State :=
  let id := Cell.pay c 2 2
  let x := s.fab.xfers.get {} (xKey tgt id)
  if decide (x = {}) then (if tgt < 8 then s.niCell tgt c fun s => s else s)
  else if tgt < 8 then s.niCell tgt c (f id x)
  else if !Cell.good c then s
  else if x.cells ≠ [] ∧ Cell.job (x.cells.headD 0) ≠ Cell.job c then s.dropJob 40 c
  else f id x s

/-- A transfer that carried a sampler part is answered: with OK the merge stage has taken the part, which in
mode 1 still waits for its broadcast and keeps its id, no longer timed (R167, R172). -/
def State.partXferEnd (s : State) (tgt id : Nat) (x : Xfer) (r : PartRec) (status : Nat) : State :=
  if status = stOK ∧ smMODE r.word = 1 then
    { s with fab := { s.fab with xfers := s.fab.xfers.put (xKey tgt id) { x with acks := 0 } } }
  else (s.xferEnd tgt id).partEnd r status (if status = stREFUSED then 0x5507 else 0) 0

/-- The sampler part whose cells a transfer carries. -/
def State.partXfer (s : State) (x : Xfer) : Option PartRec :=
  match x.owner with
  | .cmd core seq => s.smp.parts.find? fun r => r.core == core && r.seq == seq
  | _ => none

/-- ACK_CELL: the transfer has been received, or a swarm segment is granted or credited (R218, R266). -/
def execAckCell (tgt : FnId) (cell : CellW) (s : State) : Host.Outcome State Fault Refusal :=
  .next (if Cell.type cell = 6 then s.tgtCell tgt.val cell fun id x s =>
      match s.partXfer x, x.owner with
      | some r, _ => s.partXferEnd tgt.val id x r stOK
      | none, .seg _ _ _ => s.segAck id x (Cell.pay cell 4 4)
      | none, .smp job sid => (s.xferEnd tgt.val id).smpAcked job sid stOK
      | none, _ => s.xferAck tgt.val id x (Cell.pay cell 4 4)
    else s)

/-- Statuses a NACK may carry: those of R218, and ECC_UNCORRECTABLE, with which a write or read on a bad line or a
failed channel ends (R336, R344); to a sampler open or part, any status other than OK with which it ends (R167,
R169). A NACK with any other is discarded, so that no completion carries a reserved code (R13; DESIGN CHOICE, log
entry 43). -/
def nackStatus (x : Xfer) (st : Nat) : Bool :=
  [stREFUSED, stTIMEOUT, stECC, stSTALE].contains st ||
    (decide (Cell.type (x.cells.headD 0) = 0x0A) && decide (1 ≤ st ∧ st ≤ 12))

/-- An abort request of an older attempt is answered TOO_LATE: the oldest CAP_ABORT of the JOB that waits for that
coordinator completes so (R277, R281). -/
def State.abortLate (s : State) (c : CellW) : State :=
  let mine := fun (a : CapKey × Nat × Nat) => decide (a.1.job = Cell.job c) &&
    (s.group a.1.job a.1.gid).any fun g => g.cMod == Cell.srcMod c
  match s.cap.aborts.find? mine with
  | some a =>
    let s1 : State := { s with cap := { s.cap with aborts := s.cap.aborts.filter fun x => !decide (x = a) } }
    s1.completeRaw a.2.1 a.2.2 stTOOLATE 0 0
  | none => s

/-- NACK_CELL: CAUSE 2 asks for a restart; otherwise the transfer ends with the NACK's status, and a
swarm op that a GSUM mismatch refuses completes REFUSED (R218, R244, R258). -/
def execNackCell (tgt : FnId) (cell : CellW) (s : State) : Host.Outcome State Fault Refusal :=
  .next (if tgt.val = 8 ∧ Cell.type cell = 7 ∧ Cell.pay cell 0 1 = stTOOLATE ∧ Cell.pay cell 2 2 = 5 then
      (if Cell.good cell && !s.modFenced (Cell.srcMod cell) then s.abortLate cell else s)
    else if Cell.type cell = 7 then s.tgtCell tgt.val cell fun id x s =>
      if Cell.pay cell 1 1 = 2 then
        { s with fab := { s.fab with xfers := s.fab.xfers.put (xKey tgt.val id) { x with restart := true } } }
      else if !nackStatus x (Cell.pay cell 0 1) then s
      else match s.partXfer x, x.owner with
        | some r, _ => s.partXferEnd tgt.val id x r (Cell.pay cell 0 1)
        | none, .seg job gid opseq =>
          let s1 := s.xferEnd tgt.val id
          if Cell.pay cell 0 1 = stREFUSED then s1.opMismatch job gid opseq else s1
        | none, .smp job sid => (s.xferEnd tgt.val id).smpAcked job sid (Cell.pay cell 0 1)
        | none, _ => s.xferFail tgt.val id x (Cell.pay cell 0 1)
    else s)

/-- STREAM_RESTART: 1 µs after the NACK the whole transfer goes again under a new id (R244). -/
def execStreamRestart (tgt : FnId) (id : BitVec 16) (s : State) : Host.Outcome State Fault Refusal :=
  let x := s.fab.xfers.get {} (xKey tgt.val id.toNat)
  .next (if x.restart then (s.xferEnd tgt.val id.toNat).xferStart tgt.val { x with restart := false } else s)

/-- ORPHAN_TIMEOUT: the oldest orphan of a stream has waited 2 µs (R244). -/
def execOrphanTimeout (die : DieId) (srcMod : BitVec 12) (srcTgt : Fin 16) (stream : BitVec 16) (s : State) :
    Host.Outcome State Fault Refusal :=
  let q := s.fab.orphans.get [] die.val
  let mine := fun (c : CellW) => decide (Cell.srcMod c = srcMod.toNat ∧ Cell.srcTgt c = srcTgt.val ∧
    Cell.stream c = stream.toNat)
  .next (match q.findIdx? mine, q.find? mine with
    | some i, some c =>
      let s1 : State := { s with fab := { s.fab with
        orphans := s.fab.orphans.set [] die.val (q.eraseIdx i) } }
      (s1.finc (RF.FAB_NI_STAT_ORPHAN die.val) 1).nackCell die.val stTIMEOUT 2 c
    | _, _ => s)

/-- A copy toward the host whose function may not master the bus has sent no cell, so no timeout runs
(R370, R371). -/
def State.heldCopy (s : State) (tgt : Nat) (x : Xfer) : Bool :=
  decide (x.cells = []) && !s.bmeOn (s.owner tgt)

/-- TRANSFER_TIMEOUT: no ACK for E2E_TO after the last cell (R245); what a copy still had in the host-write
buffer is dropped (R370). -/
def execTransferTimeout (tgt : FnId) (id : BitVec 16) (s : State) : Host.Outcome State Fault Refusal :=
  let x := s.fab.xfers.get {} (xKey tgt.val id.toNat)
  .next (if decide (x = {} ∨ x.acks = 0) || s.heldCopy tgt.val x then s
  else
    let own := decide (x.owner ≠ .none)
    let s1 := if tgt.val < 8 ∧ own then s.finc (RF.FAB_NI_STAT_E2E tgt.val) 1 else s
    match s1.partXfer x, x.owner with
    | some r, _ => s1.partXferEnd tgt.val id.toNat x r stTIMEOUT
    | none, .smp job sid => (s1.xferEnd tgt.val id.toNat).smpAcked job sid stTIMEOUT
    | none, .cmd core seq =>
      if x.cells = [] then
        if (s1.copyJob core seq).any fun j => decide (j.waits = 0) then s
        else (s1.copyGiveUp core seq stTIMEOUT 0).xferFail tgt.val id.toNat x stTIMEOUT
      else s1.xferFail tgt.val id.toNat x stTIMEOUT
    | none, _ => s1.xferFail tgt.val id.toNat x stTIMEOUT)

/-- CONTEXT_IDLE_FREE: a context left idle for E2E_TO is freed and counted (R245). -/
def execContextIdleFree (die : DieId) (srcMod : BitVec 12) (srcTgt : Fin 16) (stream : BitVec 16)
    (s : State) : Host.Outcome State Fault Refusal :=
  let mine := fun (x : RxCtx) => x.isKey srcMod.toNat srcTgt.val stream.toNat
  .next (if (s.rxOf die.val).any mine then
    (s.setRx die.val ((s.rxOf die.val).filter fun x => !mine x)).finc (RF.FAB_NI_STAT_E2E die.val) 1
  else s)

/-- STREAM_ID_AVAILABLE: the reuse delay of an id is over; the oldest waiting transfer takes it (R245). -/
def execStreamIdAvailable (tgt : FnId) (id : BitVec 16) (s : State) : Host.Outcome State Fault Refusal :=
  let k := xKey tgt.val id.toNat
  .next (if s.fab.idHold.get 0 k = 0 then s
  else
    let s1 : State := { s with fab := { s.fab with idHold := s.fab.idHold.del k } }
    match s1.fab.idWait.get [] tgt.val with
    | x :: t =>
      let s2 : State := { s1 with fab := { s1.fab with idWait := s1.fab.idWait.set [] tgt.val t } }
      s2.xferUnder tgt.val id.toNat x
    | [] => s1)

end Sys2Proof.Machine
end

