-- ==== Sys2Proof/Machine/CopyCmds.lean ====
section
/-! DEFINITION. COPY, COPY_COMPLETE and PREFETCH_RELEASE (R139 to R148). -/

namespace Sys2Proof.Machine

/-- COPY enters its engine's queue, or the prefetch queue (R139, R147). -/
def execCopy (core : CoreId) (s : State) : Host.Outcome State Fault Refusal :=
  .next (s.issueTo core.val 0x50 fun s seq w =>
    let die := dieOf core.val
    let j := s.mkJob core.val seq w
    if bit w 14 ∧ s.fget (RF.WRK_WAITMODE_PREFETCH die) = 1 then
      let q := s.eng.pfq.get [] die ++ [j]
      { s with eng := { s.eng with pfq := s.eng.pfq.set [] die q } }
    else (s.setCeQ die (cpCE w) (s.ceQ die (cpCE w) ++ [j])).ceRun die (cpCE w))

/-- COPY_COMPLETE: the oldest copy of the engine completes once every byte is in place (R141). -/
def execCopyComplete (die : DieId) (ce : Fin 4) (s : State) : Host.Outcome State Fault Refusal :=
  .next (match s.ceQ die.val ce.val with
    | j :: rest => if j.started ∧ j.waits = 0 then s.copyDone die.val ce.val j rest else s
    | [] => s)

/-- PREFETCH_RELEASE: the oldest prefetch copy starts while the die waits and no update is due (R147). -/
def execPrefetchRelease (die : DieId) (s : State) : Host.Outcome State Fault Refusal :=
  let d := die.val
  .next (match s.eng.pfq.get [] d with
    | j :: rest =>
      let e := cpCE j.word
      if s.dieWaits d ∧ !s.updDue d ∧ ceIdle (s.ceQ d e) ∧ (s.ceQ d e).all (fun j => j.started) then
        let s1 : State := { s with eng := { s.eng with pfq := s.eng.pfq.set [] d rest } }
        (s1.setCeQ d e (s1.ceQ d e ++ [j])).ceRun d e
      else s
    | [] => s)

end Sys2Proof.Machine
end

