-- ==== Sys2Proof/Machine/BlockOps.lean ====
section
/-! DEFINITION. Set-up blocks and group images: what they hold, the checks of the queen, acceptance and
removal (R27, R31, R37, R110, R204, R256 to R261, R285, R318, R368, R379, R381, R488). -/

namespace Sys2Proof.Machine

/-! Declarations (R368). -/

/-- Declarations of a block from byte 32: (DTYPE, DIE, VALUE). -/
def blockDecls (blk : Bytes) (n : Nat) : List (Nat × Nat × Nat) :=
  (List.range n).map fun i => (leAt blk (32 + 16 * i) 2, leAt blk (34 + 16 * i) 1, leAt blk (36 + 16 * i) 12)

/-- Reserved byte of a declaration. -/
def declResv (blk : Bytes) (i : Nat) : Nat := leAt blk (35 + 16 * i) 1

/-- Bits of VALUE that a type defines; 0 for a type that is not listed. -/
def declBits (t : Nat) : Nat :=
  [0, 64, 64, 36, 32, 10, 53, 80, 32, 64, 32, 32, 15, 48].getD t 0

/-- KIND a type is marked for; 0 for either. -/
def declKind (t : Nat) : Nat := if t = 3 ∨ t = 4 ∨ t = 5 then 1 else if t = 8 then 2 else 0

/-- A REQ type of a KIND. -/
def declReq (kind : Nat) : List Nat := if kind = 1 then [3, 4, 5] else [8]

/-- A value outside the range its type gives (R161, R192, R204, R368). -/
def declOut (t v : Nat) : Bool :=
  if t = 3 then decide (bitsN v 32 4 < 2 ∨ 8 < bitsN v 32 4)
  else if t = 6 then decide (bitsN v 32 2 = 3) || decide (bitsN v 34 10 = 0)
  else if t = 7 then decide (bitsN v 40 40 ≤ bitsN v 0 40)
  else if t = 13 then decide (bitsN v 0 16 = 0)
  else false

/-- One declaration is malformed. -/
def declBad (kind diemask : Nat) (d : Nat × Nat × Nat) : Bool :=
  decide (declBits d.1 = 0) || decide (2 ^ declBits d.1 ≤ d.2.2) ||
    (decide (declKind d.1 ≠ 0) && decide (declKind d.1 ≠ kind)) ||
    !(decide (d.2.1 = 0xFF) || (decide (d.2.1 < 8) && bitN diemask d.2.1)) || declOut d.1 d.2.2

/-- The set-up a TRAIN or SERVE block describes. -/
def blockSetup (fn job handle : Nat) (blk : Bytes) : Setup :=
  { handle := handle, fn := fn, job := job, kind := leAt blk 0 1, diemask := leAt blk 1 1,
    decls := blockDecls blk (leAt blk 2 2) }

/-- Dies of a set-up. -/
def Setup.dies (u : Setup) : List Nat := (List.range 8).filter fun d => bitN u.diemask d

/-- A block is malformed: header, length, declarations, a required or repeated type, too many teacher ranges
(R204, R368). -/
def Setup.bad (u : Setup) (blk : Bytes) : Bool :=
  let n := u.decls.length
  decide (n = 0 ∨ 2046 < n ∨ blk.length ≠ 32 + 16 * n ∨ u.diemask = 0) ||
    (blk.drop 4).take 28 != List.replicate 28 0 ||
    (List.range n).any (fun i => decide (declResv blk i ≠ 0)) ||
    u.decls.any (declBad u.kind u.diemask) ||
    (declReq u.kind).any (fun t => u.dies.any fun d => (u.decl t d).length != 1) ||
    decide (1 < (u.declAny 13).length) || u.dies.any fun d => decide (4 < (u.decl 7 d).length)

/-- Σ cycles of the merge stage stays within 90% of 2.0 × 10⁹ a second (R37, R174). -/
def l3Max : Nat := 1800000000

/-- W limit in MB/s (R379). -/
def wortMax : Nat := 176600

/-- A CAP_GROUP declaration names a CAPG group of the job that this hive has loaded. -/
def State.capGroupOk (s : State) (u : Setup) : Bool :=
  (u.declAny 5).all fun v => match s.group u.job (bitsN v 0 10) with
    | some g => g.capg
    | none => false

/-- Modules a job runs on: those of its loaded groups and this one (R3). -/
def State.jobMods (s : State) (job : Nat) : List Nat :=
  (s.module :: (s.swm.groups.filter fun g => g.job == job).flatMap Group.mods).eraseDups

/-- Usable LPDDR5X of a module: this one's from its registers (R3). -/
def State.modUsable (s : State) (m : Nat) : Nat :=
  if m = s.module then ((List.range 8).map fun d => s.fget (RF.MEM_CAP_USABLE d)).sum else Config.usableOf m

/-- LPDDR5X demand of a job's set-ups on this module (R3, R37). -/
def jobDemand (us : List Setup) (job : Nat) : Nat :=
  let mine := us.filter fun u => u.job == job
  ((List.range 8).map fun d => l2Demand mine d).sum

/-- A job's demand exceeds the usable capacity of the smallest module of its set (R3). -/
def State.overLeast (s : State) (us : List Setup) (job : Nat) : Bool :=
  (s.jobMods job).any fun m => decide (s.modUsable m < jobDemand us job)

/-- Conditions of a TRAIN or SERVE block (R3, R31, R368, R381, R488). DESIGN CHOICE: for function 0 the spec
gives neither a deadline nor a bound, so a TRAIN set-up of PF0 has B = 0 and meets 0x1B01 (log entry 42). -/
def State.blockConds (s : State) (u : Setup) (blk : Bytes) : List (Bool × Nat) :=
  let us := u :: s.host.setups
  let bad := u.bad blk || (decide (u.kind = 1) && !s.capGroupOk u)
  let train := decide (u.kind = 1)
  let b := if u.fn = 0 then 0 else s.bBound u
  let per := s.fget RF.TIM_CTL_BEAT_PER
  [(u.dies.any fun d => decide (s.owner d ≠ u.fn), 0x6B03),
   (bad, 0x5B04),
   (u.dies.any fun d => decide (s.l1Limit d < l1Demand us d), 0x4001),
   (u.dies.any fun d => decide (s.fget (RF.MEM_CAP_USABLE d) < l2Demand us d), 0x4002),
   (s.overLeast us u.job, 0x4002),
   (decide (l3Max < l3Demand us), 0x4003),
   (train && decide (wortMax < s.wAll + u.wrate), 0x4004),
   (train && decide (b ≤ 0), 0x1B01),
   (train && decide (b < (diffBoundOf us u.fn : Int)), 0x1B02),
   (decide (u.kind = 2) && u.dies.any (fun d => s.srvOver u d 1600), 0x1301),
   (s.host.setups.any fun v => decide (Nat.land v.links u.links ≠ 0), 0x1302),
   (u.beat.any fun x => decide (x.1 * per < x.2 + 1), 0x1F01),
   (!u.beat.isEmpty && (decide (s.fget RF.TIM_CTL_BEAT_OK = 0) || !s.tim.loaded), 0x1F02)]

/-! Group images (R256 to R261). -/

/-- The group of an image. -/
def imageGroup (fn handle : Nat) (img : Bytes) : Group :=
  let w := fun (k : Nat) => leAt img (8 * k) 8
  let n := bitsN (w 0) 24 13
  { job := bitsN (w 0) 16 8, gid := bitsN (w 0) 0 10, fn := fn, nmem := n, wit := bitsN (w 0) 37 12,
    capg := bitN (w 0) 49, witv := bitN (w 0) 50, capb := bitsN (w 1) 0 32, thresh := bitsN (w 1) 32 16,
    capto := bitsN (w 2) 0 32, voteTo := bitsN (w 2) 32 32, dupd := bitsN (w 3) 0 32,
    dbytes := bitsN (w 4) 0 48, nops := bitsN (w 4) 48 8, opto := bitsN (w 5) 0 32,
    members := (List.range n).map fun i => leAt img (64 + 2 * i) 2, gsum := crc16 img, epoch := 0,
    handle := handle }

/-- Reserved fields of a group header. -/
def groupResv (img : Bytes) : Bool :=
  let w := fun (k : Nat) => leAt img (8 * k) 8
  decide (bitsN (w 0) 10 6 ≠ 0) || decide (bitsN (w 0) 51 13 ≠ 0) || decide (bitsN (w 1) 48 16 ≠ 0) ||
    decide (bitsN (w 3) 32 32 ≠ 0) || decide (bitsN (w 4) 56 8 ≠ 0) || decide (bitsN (w 5) 32 32 ≠ 0) ||
    decide (w 6 ≠ 0) || decide (w 7 ≠ 0)

/-- Some word occurs twice. -/
def hasDup : List Nat → Bool
  | [] => false
  | x :: t => t.contains x || hasDup t

/-- A group field, member word or membership rule is violated (0x3801). -/
def Group.bad (g : Group) (img : Bytes) : Bool :=
  decide (img.length ≠ 64 + (2 * g.nmem + 63) / 64 * 64) || groupResv img ||
    (img.drop (64 + 2 * g.nmem)).any (fun b => b != 0) || decide (g.nmem = 0 ∨ 4096 < g.nmem) ||
    g.members.any (fun m => decide (8 < memTgt m)) || hasDup g.members ||
    decide (g.capb = 0 ∨ g.thresh = 0 ∨ g.opto = 0) ||
    (if g.capg then g.members.any (fun m => decide (memTgt m ≠ 8)) || hasDup g.mods
     else g.members.any (fun m => decide (memTgt m = 8)) || decide (g.job = 0) ||
       decide (g.capto ≠ 0 ∨ g.voteTo ≠ 0 ∨ g.dupd ≠ 0 ∨ g.dbytes ≠ 0 ∨ g.nops ≠ 0))

/-- A module is in the expected wiring table: its number is below NMOD of the header (R396). -/
def State.wiredMod (s : State) (m : Nat) : Bool :=
  decide (m < leAt s.boot.wire 2 2)

/-- A member on this module that is no die of the loading function, or an unknown module (0x3802). -/
def State.memberBad (s : State) (g : Group) : Bool :=
  !g.mods.contains s.module || g.members.any fun m =>
    !s.wiredMod (memMod m) ||
      (decide (memMod m = s.module) && decide (memTgt m < 8) && decide (s.owner (memTgt m) ≠ g.fn))

/-- WITV and WIT are not as R258 permits (0x3803). -/
def Group.witBad (g : Group) : Bool :=
  if g.witv then decide (g.nmem ≤ g.wit) || decide (g.wMod = g.cMod)
  else decide (g.wit ≠ 0) || g.mods.any fun m => m != g.cMod

/-- Conditions of a group image (R258, R260). -/
def State.groupConds (s : State) (g : Group) (img : Bytes) : List (Bool × Nat) :=
  let others := s.swm.groups.filter fun x => !decide (x.job = g.job ∧ x.gid = g.gid)
  let words := (others.map fun x => x.nmem).sum + g.nmem
  let pl := s.planFig g 0
  [(decide (g.job ≠ s.jobOf g.fn), 0x6B03),
   (decide (2048 ≤ others.length) || decide (1048576 < words) ||
     decide (1024 ≤ (others.filter fun x => x.job == g.job).length) ||
     decide (relayMax < max s.relaysUsed pl.relays), 0x4005),
   (g.bad img, 0x3801),
   (s.memberBad g, 0x3802),
   (g.witBad, 0x3803),
   (!pl.ok, 0x3804),
   (g.capg && s.capToShort g, 0x1801)]

/-- SWM_STAT follows the group table (R260, R288). -/
def State.swmStat (s : State) : State :=
  (s.fset RF.SWM_STAT_GROUPS s.swm.groups.length).fset RF.SWM_STAT_MEMW
    (s.swm.groups.map fun g => g.nmem).sum

/-! Lull (R318). -/

/-- Ports that carry routes of an accepted set-up: its local links, and those on the plans of its cap
groups (R37 E1, R318). -/
def State.awakePorts (s : State) (u : Setup) : List Nat :=
  let gs := if u.kind = 3 then [u.gid] else (u.declAny 5).map fun v => bitsN v 0 10
  let plan := gs.flatMap fun gid => match s.group u.job gid with
    | some g => if g.capg then s.groupPorts g else []
    | none => []
  (List.range 32).filter fun p => (bitN u.links p && decide (p < 15)) || plan.contains p

/-- NOLULL of every port brought up to date. -/
def State.nolull (s : State) : State :=
  let held := s.host.setups.flatMap s.awakePorts
  (List.range 32).foldl (fun (s : State) p =>
    let on := b2n (held.contains p)
    if s.fget (RF.OPT_PORT_CFG_NOLULL p) = on then s else s.fset (RF.OPT_PORT_CFG_NOLULL p) on) s

/-! Acceptance and removal (R34, R204, R206, R377). -/

/-- The slots just laid out are FREE, so their bitmaps are zero (R195). -/
def State.slotsClear (s : State) (d n : Nat) : State :=
  ((List.range n).filter fun k => decide (s.fget (RF.UPD_SLOT_STATE_STATE d k) = 0)).foldl
    (fun (s : State) k => s.clearBitmap d k) s

/-- A die's slots and teacher ranges loaded from a TRAIN set-up. -/
def State.slotLoad (s : State) (u : Setup) (d : Nat) : State :=
  let s1 := match u.decl 3 d with
    | v :: _ =>
      let size64 := bitsN v 0 32
      let n := bitsN v 32 4
      (((s.fset (RF.UPD_SLOT_BASE_BASE d) (Config.slotBase d size64 n)).fset
        (RF.UPD_SLOT_CFG_SIZE64 d) size64).fset (RF.UPD_SLOT_CFG_NSLOT d) n).slotsClear d n
    | [] => s
  (u.decl 7 d).zipIdx.foldl (fun (s : State) v =>
    ((s.fset (RF.UPD_TEACH_BASE_BASE d v.2) (bitsN v.1 0 40)).fset (RF.UPD_TEACH_LIM_LIMIT d v.2)
      (bitsN v.1 40 40)).fset (RF.UPD_TEACH_BASE_VALID d v.2) 1) s1

/-- A die's slots and teacher ranges removed; the slots stay where one of them is still in use. -/
def State.slotUnload (s : State) (d : Nat) : State :=
  let s1 := s.slotSettle d
  (List.range 4).foldl (fun (s : State) i =>
    (s.setReg (Reg.UPD_TEACH_BASE d i) 0).setReg (Reg.UPD_TEACH_LIM d i) 0) s1

/-- The next handle: 1 to 65,535, one that no set-up holds. -/
def State.freeHandle (s : State) : Nat :=
  (findFrom (fun h => !(s.host.setups.any fun u => u.handle == h)) 65535 s.host.nextHandle).getD 1

/-- A set-up enters the ledger under a handle. -/
def State.ledgerAdd (s : State) (u : Setup) : State :=
  let next := if u.handle = 65535 then 1 else u.handle + 1
  { s with host := { s.host with setups := s.host.setups ++ [u], nextHandle := next } }

/-- An accepted TRAIN or SERVE set-up takes effect. -/
def State.blockAccept (s : State) (u : Setup) : State :=
  let s1 := s.ledgerAdd u
  let s2 := if u.kind = 1 then (u.dies.foldl (fun (s : State) d => s.slotLoad u d) s1).wortHello (u.fn - 1)
    else s1
  let s3 := if u.kind = 1 then s2.wortRegs (u.fn - 1) else s2
  s3.nolull

/-- The op numbers and refused ops of a group go when it is loaded anew or unloaded (R259). -/
def State.opsRenumber (s : State) (job gid : Nat) : State :=
  { s with swm := { s.swm with opseq := s.swm.opseq.drop fun k => decide (k % 2 ^ 18 = job * 1024 + gid)
                               badOps := s.swm.badOps.filter fun x => !decide (x.1 = job ∧ x.2.1 = gid) } }

/-- An accepted group takes effect; an image of the same group replaces the earlier one. -/
def State.groupAccept (s : State) (g : Group) : State :=
  let same := fun (x : Group) => decide (x.job = g.job ∧ x.gid = g.gid)
  let old := fun (u : Setup) => decide (u.kind = 3 ∧ u.job = g.job ∧ u.gid = g.gid)
  let groups := s.swm.groups.filter (fun x => !same x) ++ [g]
  let setups := s.host.setups.filter fun u => !old u
  let s1 : State := { s with swm := { s.swm with groups := groups }
                             host := { s.host with setups := setups } }
  let u : Setup := { handle := g.handle, fn := g.fn, job := g.job, kind := 3, gid := g.gid }
  ((((s1.opsRenumber g.job g.gid).ledgerAdd u).swmStat).relaysOut g).nolull

/-- A set-up leaves the ledger: its group, slots and teacher ranges go, its ports may lull (R34). -/
def State.setupRemove (s : State) (u : Setup) : State :=
  let setups := s.host.setups.filter fun v => v.handle != u.handle
  let s1 : State := { s with host := { s.host with setups := setups } }
  let s2 := if u.kind = 3 then
      let groups := s1.swm.groups.filter fun g => !decide (g.job = u.job ∧ g.gid = u.gid)
      let s2 := (s1.swm.groups.filter fun g => decide (g.job = u.job ∧ g.gid = u.gid)).foldl
        (fun (s : State) g => s.relaysGone g) s1
      (({ s2 with swm := { s2.swm with groups := groups } } : State).opsRenumber u.job u.gid).swmStat
    else if u.kind = 1 then
      ((u.dies.filter fun d => !(s1.host.setups.any fun v => decide (v.kind = 1) && v.covers d)).foldl
        (fun (s : State) d => s.slotUnload d) s1).wortRegs (u.fn - 1)
    else s1
  s2.nolull

end Sys2Proof.Machine
end

