-- ==== Sys2Proof/Machine/DescOps.lean ====
section
/-! DEFINITION. Descriptors: fetch, the checks of each type, their start in ring order, the stop of kernels,
aborts and completions (R34, R352, R355, R360 to R369, R381, R403, R488). -/

namespace Sys2Proof.Machine

/-! Fields (R363, R364). -/

/-- Fields of a descriptor type beside the common ones, as (low bit, width). -/
def descFields (opc : Nat) : List (Nat × Nat) :=
  if opc = 1 then [(10, 1), (32, 11), (43, 12), (64, 40), (112, 16), (128, 64), (192, 32), (224, 8), (240, 16)]
  else if opc = 2 then [(32, 1), (40, 10), (50, 1), (64, 64), (128, 56), (192, 32)]
  else if opc = 3 then [(64, 64), (128, 17)]
  else if opc = 4 then [(32, 16)]
  else if opc = 5 then [(32, 8), (48, 16)]
  else if opc = 6 then [(32, 4), (40, 8), (48, 8), (64, 64), (128, 128)]
  else [(32, 3), (64, 16)]

/-- A reserved field of a descriptor is not zero (0x5B08). -/
def descResv (w : CmdWord) : Bool :=
  !reservedZero w ([(0, 8), (8, 2), (16, 16)] ++ descFields (fld w 0 8))

/-- LAUNCH: cores in order. -/
def laCores (w : CmdWord) : List Nat := (List.range (fld w 43 12)).map fun k => fld w 32 11 + k

/-- PARTITION and RECLAIM: partition. -/
def ptPART (w : CmdWord) : Nat := fld w 33 3
def rcPART (w : CmdWord) : Nat := fld w 32 3
def rcD (w : CmdWord) : Nat := fld w 64 16

/-- A descriptor of a function the queen checks (R34, R362). -/
def queenOpc (opc : Nat) : Bool := decide (opc = 3 ∨ opc = 4 ∨ opc = 6 ∨ opc = 7)

/-! Checks. -/

/-- A partition exists; it is being reclaimed or reset. -/
def State.partOn (s : State) (p : Nat) : Bool := decide (s.fget (RF.HIVE_PART_VALID p) = 1)
def State.partBusy (s : State) (p : Nat) : Bool :=
  decide (s.fget (RF.HIVE_PART_RECLAIM p) = 1) || decide (s.fget (RF.HIVE_PART_RESET p) = 1)

/-- LAUNCH (R352, R364, R488). -/
def State.launchConds (s : State) (fn : Nat) (w : CmdWord) : List (Bool × Nat) :=
  let cs := laCores w
  let covered := fun (d : Nat) => s.host.setups.any fun u => u.covers d && !u.beat.isEmpty
  [(decide (cs = [] ∨ 2048 < cs.length), 0x5B08),
   (cs.any fun c => decide (2048 ≤ c) || decide (s.owner (dieOf c) ≠ fn), 0x6B03),
   (cs.any fun c => decide (c < 2048) && decide (s.coreState c ≠ csIDLE), 0x5B03),
   (bit w 10 && cs.any fun c => !covered (dieOf c), 0x5F06)]

/-- HDMA (R209, R355, R357, R364). -/
def State.hdmaConds (s : State) (fn : Nat) (w : CmdWord) : List (Bool × Nat) :=
  let g := hdGaddr w
  let die := hdDie w
  let n := hdLen w
  let here := decide (bitsN g 44 12 = s.module)
  let range := if here && decide (die < 8) && decide (n ≠ 0) then s.rangeConds die (hdOff w) n else []
  [(decide (n = 0), 0x5B08),
   (!here || decide (8 ≤ die) || decide (s.owner die ≠ fn), 0x6B03),
   (decide (8 < die), 0x5703)] ++ range

/-- SETUP (R368, R381). -/
def State.setupConds (s : State) (fn : Nat) (w : CmdWord) (blk : Bytes) : List (Bool × Nat) :=
  let n := fld w 128 17
  let kind := leAt blk 0 1
  let short := decide (n < 32 ∨ 65536 < n)
  [(decide (0 < n ∧ n ≤ 65536) && !s.readsOk fn (fld w 64 64) n, 0x6B01),
   (short || decide (kind = 0 ∨ 3 < kind) || decide (blk.length ≠ n), 0x5B04)] ++
  (if short then []
   else if kind = 3 then
     (decide ((blk.drop 4).take 28 ≠ List.replicate 28 0), 0x5B04) ::
       s.groupConds (imageGroup fn 0 (blk.drop 32)) (blk.drop 32)
   else s.blockConds (blockSetup fn (s.jobOf fn) 0 blk) blk)

/-- A TEARDOWN of a handle has been accepted and its completion is not yet written. -/
def State.tornDown (s : State) (h : Nat) : Bool :=
  s.host.descs.any fun d => decide (fld d.word 0 8 = 4 ∧ d.st = 3 ∧ d.status = stOK ∧ fld d.word 32 16 = h)

/-- TEARDOWN (R368). A second one of the same handle, before the first has completed, names a set-up that is no
longer its function's (DESIGN CHOICE, log entry 44). -/
def State.teardownConds (s : State) (fn : Nat) (w : CmdWord) : List (Bool × Nat) :=
  [(!(s.host.setups.any fun u => decide (u.handle = fld w 32 16 ∧ u.fn = fn)) || s.tornDown (fld w 32 16), 0x6B03)]

/-- The descriptor an ABORT names: of a ring of its function with the local index TRING, not itself. -/
def State.abortTarget (s : State) (d : Desc) : Option Desc :=
  s.host.descs.find? fun t => decide (s.ringFn t.ring = s.ringFn d.ring ∧
    s.fget (RF.RING_CFG_LIDX t.ring) = fld d.word 32 8 ∧ t.tag = fld d.word 48 16 ∧
    ¬ (t.ring = d.ring ∧ t.tag = d.tag))

/-- ABORT (R369). -/
def State.abortConds (s : State) (d : Desc) : List (Bool × Nat) :=
  match s.abortTarget d with
  | none => [(true, 0x5B07)]
  | some t => let o := fld t.word 0 8
    [(decide (o = 4 ∨ o = 6 ∨ o = 7), 0x5B06)]

/-- PARTITION create (R364, R403). -/
def State.createConds (s : State) (fn : Nat) (w : CmdWord) : List (Bool × Nat) :=
  let mask := fld w 40 8
  let job := fld w 48 8
  let rdl := fld w 64 16
  let dies := (List.range 8).filter fun d => bitN mask d
  [(decide (fn ≠ 0), 0x6B04),
   (dies.any fun d => decide (s.owner d ≠ 0), 0x6B03),
   ((List.range 8).any fun p => s.partOn p && decide (s.fget (RF.HIVE_PART_JOB p) = job), 0x6B05),
   (decide (job = 0) || decide (rdl < 1000 ∨ 60000 < rdl) || s.partOn (ptPART w), 0x5B02),
   (dies.any fun d => decide (s.dieState d = 2), 0x5C05)]

/-- PARTITION destroy (R364). -/
def State.destroyConds (s : State) (fn : Nat) (w : CmdWord) : List (Bool × Nat) :=
  let p := ptPART w
  [(decide (fn ≠ 0), 0x6B04),
   (!s.partOn p || s.host.setups.any (fun u => decide (u.fn = p + 1)), 0x6B03),
   (s.partBusy p, 0x5B06)]

/-- RECLAIM (R381). -/
def State.reclaimConds (s : State) (fn : Nat) (w : CmdWord) : List (Bool × Nat) :=
  let p := rcPART w
  [(decide (fn ≠ 0), 0x6B04),
   (!s.partOn p, 0x6B03),
   (decide (60000 < rcD w) || (s.partOn p && decide (rcD w < s.fget (RF.HIVE_PART_RDL p))), 0x1B03),
   (decide (s.fget (RF.HIVE_PART_RECLAIM p) = 1), 0x5B06)]

/-- Every condition of a descriptor (R495). -/
def State.descConds (s : State) (d : Desc) : List (Bool × Nat) :=
  let o := fld d.word 0 8
  let fn := s.ringFn d.ring
  if o = 0 ∨ 7 < o then [(true, 0x5B01)]
  else (descResv d.word, 0x5B08) ::
    (if o = 1 then s.launchConds fn d.word
     else if o = 2 then s.hdmaConds fn d.word
     else if o = 3 then s.setupConds fn d.word d.blk
     else if o = 4 then s.teardownConds fn d.word
     else if o = 5 then s.abortConds d
     else if o = 6 then (if bit d.word 32 then s.destroyConds fn d.word else s.createConds fn d.word)
     else s.reclaimConds fn d.word)

/-! Kernels stopped from outside (R369, R382, R408, R410, R438). -/

/-- A core issues nothing more: a WAIT or BAR it is blocked in ends with the status, and the kernel ends with
it once every issued command has completed. -/
def State.stopCore (s : State) (core status : Nat) : State :=
  let st := s.coreState core
  let r := s.coreRec core
  if st = csIDLE ∨ r.ending ≠ none then s
  else
    let s1 := s.setCoreRec core { r with block := .ended, ending := some status }
    let s2 := if st = csWAIT ∨ st = csBAR then
        (s1.setCoreState core csRUN).completeRaw core (r.seq - 1) status 0 0
      else if st = csSTALL then s1.setCoreState core csRUN else s1
    s2.kernelTryEnd core

/-- Every core of a die stops. -/
def State.stopDie (s : State) (die status : Nat) : State :=
  (List.range 256).foldl (fun (s : State) c => s.stopCore (die * 256 + c) status) s

/-! What each type does. -/

/-- The cores of a launch start (R116, R364). -/
def State.launchRun (s : State) (d : Desc) : State :=
  let w := d.word
  let job := s.jobOf (s.ringFn d.ring)
  let s1 := s.updDesc d.ring d.tag fun d => { d with st := 2, cores := laCores w }
  (laCores w).zipIdx.foldl (fun (s : State) (c : Nat × Nat) =>
    let base := (fld w 64 40 + 64 * c.2 * fld w 112 16) % 2 ^ 40
    let ctx : Ctx := { kbase := base, jseed := fld w 128 64, step := fld w 192 32, pgen := fld w 224 8,
                       job := job, ltag := fld w 240 16 }
    (s.setCoreRec c.1 { ctx := ctx, pc := base, launch := some (d.ring, d.tag) }).setCoreState c.1 csRUN) s1

/-- An HDMA starts: host to die by read requests, die to host chunk by chunk (R370). -/
def State.hdmaStart (s : State) (d : Desc) : State :=
  let fn := s.ringFn d.ring
  let n := hdLen d.word
  let s1 := s.updDesc d.ring d.tag fun d => { d with st := 2 }
  if bit d.word 32 then s1.hostRun
  else
    s1.reqAdd ((cut4k (n / 4096 + 2) (fld d.word 64 64) n 0).map fun q =>
      { fn := fn, kind := 2, ring := d.ring, tag := d.tag, addr := q.1, len := q.2.1, off := q.2.2 })

/-- A SETUP is accepted (R34, R368). -/
def State.setupStart (s : State) (d : Desc) : State :=
  let fn := s.ringFn d.ring
  let h := s.freeHandle
  let s1 := if leAt d.blk 0 1 = 3 then s.groupAccept (imageGroup fn h (d.blk.drop 32))
    else s.blockAccept (blockSetup fn (s.jobOf fn) h d.blk)
  s1.descDone d.ring d.tag stOK 0 h

/-- A TEARDOWN is accepted; its set-up stays in the ledger until the completion is written (R34, R368). -/
def State.teardownStart (s : State) (d : Desc) : State := s.descDone d.ring d.tag stOK 0 0

/-- The set-up of a TEARDOWN whose completion is written leaves the ledger (R34). -/
def State.teardownEnd (s : State) (d : Desc) : State :=
  if fld d.word 0 8 = 4 ∧ d.status = stOK then
    match s.host.setups.find? fun u => u.handle == fld d.word 32 16 with
    | some u => s.setupRemove u
    | none => s
  else s

/-- An ABORT meets its target (R369). -/
def State.abortStart (s : State) (d : Desc) : State :=
  match s.abortTarget d with
  | none => s
  | some t =>
    let s1 := s.updDesc t.ring t.tag fun t => { t with aborted := true }
    if t.st = 3 then s1.descDone d.ring d.tag stTOOLATE 0 0
    else
      let la := fld t.word 240 16 + 2 ^ 16 * fld t.word 32 11
      let s2 :=
        if t.st ≠ 2 then
          s1.descDone t.ring t.tag stHOSTABORT 0 (if fld t.word 0 8 = 1 then la else 0)
        else if fld t.word 0 8 = 1 then
          let dies := ((t.cores.map dieOf).eraseDups).filter fun d => decide (s1.capState d = 1)
          let s2 := t.cores.foldl (fun (s : State) c => s.stopCore c stHOSTABORT) s1
          dies.foldl (fun (s : State) d => s.voteFailed d) s2
        else s1.hdmaFail t.ring t.tag stHOSTABORT 0
      s2.descDone d.ring d.tag stOK 0 0

/-- A partition is created: its dies, JOB and reclaim deadline (R364, R482). -/
def State.createStart (s : State) (d : Desc) : State :=
  let w := d.word
  let p := ptPART w
  let mask := fld w 40 8
  let job := fld w 48 8
  let s1 := ((((s.setReg (Reg.HIVE_PART p) 0).fset (RF.HIVE_PART_VALID p) 1).fset
    (RF.HIVE_PART_DIEMASK p) mask).fset (RF.HIVE_PART_JOB p) job).fset (RF.HIVE_PART_RDL p) (fld w 64 16)
  let s2 := ((List.range 8).filter fun k => bitN mask k).foldl (fun (s : State) k =>
    (s.fset (RF.HIVE_DIEOWN_OWNER k) (p + 1)).fset (RF.FAB_NI_CFG_JOB k) job) s1
  let x : PartSt := { sport := fld w 80 16, session := fld w 96 32, saddr := leBytes 16 (fld w 128 128),
                      rdl := fld w 64 16 }
  ((s2.setPart p x).setSess p {}).descDone d.ring d.tag stOK 0 0

/-- A partition's dies return to PF0 with JOB 0; its registers, session and record go (R382, R482). -/
def State.partRelease (s : State) (p : Nat) : State :=
  let s1 := (s.diesOf (p + 1)).foldl (fun (s : State) k =>
    (s.fset (RF.HIVE_DIEOWN_OWNER k) 0).fset (RF.FAB_NI_CFG_JOB k) 0) s
  let s2 := ((s1.setPart p {}).setSess p {}).setReg (Reg.HIVE_PART p) 0
  (s2.setReg (Reg.WORT_PART p) 0).setReg (Reg.WORT_PART2 p) 0

/-- A reclaim begins: steps 1 and 2 of R382; with a partition reset under way those of the reset stand
(R412). -/
def State.reclaimStart (s : State) (d : Desc) : State :=
  let p := rcPART d.word
  let x := s.part p
  let s1 := s.updDesc d.ring d.tag fun d => { d with st := 2 }
  let rc : Reclaim := { ring := d.ring, tag := d.tag, d := rcD d.word, start := s.clk }
  let s2 := (s1.setPart p { x with reclaim := some rc }).fset (RF.HIVE_PART_RECLAIM p) 1
  let s3 := (s2.ringsAll (p + 1)).foldl
    (fun (s : State) n => s.ringFreeze n false) s2
  let dies := s3.diesOf (p + 1)
  let s4 := (s3.raise (p + 1) 0).hiveRec 0x8806 0 0
    (pay [(1, p), (1, 0), (2, 0), (4, rcD d.word), (4, 0)])
  if s.fget (RF.HIVE_PART_RESET p) = 1 then s4
  else
    let s5 := dies.foldl (fun (s : State) k => s.stopDie k stHOSTABORT) s4
    dies.foldl (fun (s : State) k => s.voteFailed k) s5

/-! Start in ring order (R362). -/

/-- A fetched descriptor is checked and starts, is held for its beat, or is refused. -/
def State.descStart (s : State) (d : Desc) : State :=
  let o := fld d.word 0 8
  match pick (s.descConds d) with
  | some reason =>
    let s1 := if o = 3 ∧ reason = 0x6B01 then
        s.dmaBlock (s.ringFn d.ring) 0 d.ring (fld d.word 64 64) else s
    let s2 := s1.descRefuse d reason
    if o = 1 then s2.updDesc d.ring d.tag fun d =>
      { d with detail := fld d.word 240 16 + 2 ^ 16 * fld d.word 32 11 } else s2
  | none =>
    if o = 1 then
      if bit d.word 10 then s.updDesc d.ring d.tag fun d => { d with st := 1, heldAt := s.clk } else s.launchRun d
    else if o = 2 then s.hdmaStart d
    else if o = 3 then s.setupStart d
    else if o = 4 then s.teardownStart d
    else if o = 5 then s.abortStart d
    else if o = 6 then
      if bit d.word 32 then (s.partRelease (ptPART d.word)).descDone d.ring d.tag stOK 0 0 else s.createStart d
    else s.reclaimStart d

/-- The first descriptor of a ring not yet started, and whether an earlier one has not completed. -/
def State.nextDesc (s : State) (ring : Nat) : Option (Desc × Bool) :=
  let q := s.host.descs.filter fun d => d.ring == ring
  match q.findIdx? fun d => d.st == 0 with
  | some i => (q[i]?).map fun d => (d, decide (i ≠ 0))
  | none => none

/-- The descriptor of a ring that may start now: the first not yet started of an ACTIVE ring, unless it waits for
earlier ones, or for a queen that restarts (R362, R428). -/
def State.runnable (s : State) (ring : Nat) : Option Desc :=
  match s.nextDesc ring with
  | none => none
  | some (d, earlier) =>
    if s.ringState ring ≠ 1 ∨ (bit d.word 9 ∧ earlier) ∨
        (queenOpc (fld d.word 0 8) ∧ s.fget RF.LOG_STAT_QRST = 1) then none
    else some d

/-- The descriptors of an ACTIVE ring start in ring order. -/
def State.descPump : Nat → State → Nat → State
  | 0, s, _ => s
  | k + 1, s, ring =>
    match s.runnable ring with
    | none => s
    | some d => State.descPump k (s.descStart d) ring

def State.descRun (s : State) (ring : Nat) : State := State.descPump 65 s ring

/-- Of the descriptors that may start, one per ring, the one whose doorbell came first (R34). -/
def State.firstBell (s : State) : Option Desc :=
  (((s.host.descs.map fun d => d.ring).eraseDups).filterMap s.runnable).foldl (fun (a : Option Desc) d =>
    match a with
    | some x => if d.bell < x.bell then some d else some x
    | none => some d) none

/-- The descriptors of every ring go on, those of one ring in its order, those of several in doorbell order
(R34, R362). -/
def State.descPumpAll : Nat → State → State
  | 0, s => s
  | k + 1, s =>
    match s.firstBell with
    | none => s
    | some d => State.descPumpAll k (s.descStart d)

def State.descRunAll (s : State) : State := State.descPumpAll s.host.descs.length s

/-! Fetch (R355, R360, R362, R366). -/

/-- A ring may fetch its next descriptor. -/
def State.canFetch (s : State) (ring : Nat) : Bool :=
  let r := s.ringRec ring
  decide (s.ringState ring = 1) && !r.closing && decide (s.fget (RF.RING_STAT_SQHEAD ring) ≠ r.tail) &&
    decide ((s.host.descs.filter fun d => d.ring == ring).length < 64) && decide (r.held.length < 64) &&
    s.bmeOn (s.ringFn ring)

/-- One descriptor is fetched. A TAG of an uncompleted descriptor of its ring refuses it. -/
def State.descFetch (s : State) (ring : Nat) (w : CmdWord) (blk : Bytes) : State :=
  let fn := s.ringFn ring
  let head := s.fget (RF.RING_STAT_SQHEAD ring)
  let addr := 4096 * s.fget (RF.RING_SQ_ADDR ring) + 64 * head
  if !s.inWindows fn addr 64 false then (s.dmaBlock fn 0 ring addr).ringError ring 3
  else
    let r := s.ringRec ring
    let s1 := (s.setRing ring { r with bells := r.bells.tail }).fset (RF.RING_STAT_SQHEAD ring)
      ((head + 1) % qEntries (s.fget (RF.RING_SQ_LOG2 ring)))
    let tag := fld w 16 16
    let blk1 := if fld w 0 8 = 3 then toLen (fld w 128 17) blk else []
    let d : Desc := { ring := ring, tag := tag, word := w, blk := blk1, bell := r.bells.headD 0 }
    match s.desc ring tag with
    | none => ({ s1 with host := { s1.host with descs := s1.host.descs ++ [d] } } : State).descRun ring
    | some _ =>
      let reason := (pick ((true, 0x5B02) :: s.descConds d)).getD 0x5B02
      let d1 := { d with st := 3, status := stREFUSED, reason := reason }
      ({ s1 with host := { s1.host with descs := s1.host.descs ++ [d1] } } : State).refuseDesc reason fn
        (fld w 0 8) ring tag

/-- A descriptor of a row's type reaches its ring: one of an unlisted type is refused there too; one of
another row's type leaves the ring as it is. -/
def State.descRow (s : State) (ring opc : Nat) (w : CmdWord) (blk : Bytes) : State :=
  let o := fld w 0 8
  if s.canFetch ring && (decide (o = opc) || decide (o = 0 ∨ 7 < o)) then s.descFetch ring w blk else s

/-! Completion (R35, R365, R366). -/

/-- The 16 bytes of a completion; the last is set when it is written. -/
def State.complBytes (s : State) (d : Desc) (status : Nat) : Bytes :=
  leBytes 2 d.tag ++ [BitVec.ofNat 8 status, BitVec.ofNat 8 d.nflags] ++ leBytes 2 d.reason
    ++ leBytes 2 (s.fget (RF.RING_STAT_SQHEAD d.ring)) ++ leBytes 4 d.detail ++ [0, 0, 0, 0]

/-- Status under which a done descriptor completes: OK is DEGRADED where a set-up of its dies has lost its
figures, or a beat launch ran without alignment (R35, R488). -/
def State.finalStatus (s : State) (d : Desc) : Nat :=
  let dies := if fld d.word 0 8 = 1 then ((laCores d.word).map dieOf).eraseDups
    else if fld d.word 0 8 = 2 then [hdDie d.word] else []
  if d.status = stOK ∧ (dies.any s.setupDegraded ∨ (fld d.word 0 8 = 1 ∧ bit d.word 10 ∧ s.tim.misaligned))
  then stDEGRADED else d.status

/-- A done descriptor's completion must wait: an abort's for its target's, a set-up's for its ports to leave
lull (R318, R369). -/
def State.complWaits (s : State) (d : Desc) : Bool :=
  let o := fld d.word 0 8
  (decide (o = 5) && decide (d.status ≠ stREFUSED) && s.host.descs.any fun t => t.aborted &&
    decide (s.ringFn t.ring = s.ringFn d.ring ∧ s.fget (RF.RING_CFG_LIDX t.ring) = fld d.word 32 8 ∧
      t.tag = fld d.word 48 16)) ||
  (decide (o = 3 ∧ d.status = stOK) && (List.range 32).any fun p =>
    decide (s.fget (RF.OPT_PORT_CFG_NOLULL p) = 1) && decide (s.portState p ≠ 3))

/-- The completion of a done descriptor is written or held; the ring goes on. -/
def State.descEnd (s : State) (ring tag : Nat) : State :=
  match s.host.descs.findIdx? fun d => decide (d.ring = ring ∧ d.tag = tag ∧ d.st = 3) with
  | none => s
  | some i =>
    match s.host.descs[i]? with
    | none => s
    | some d =>
      if s.complWaits d then s
      else
        let c := s.complBytes d (s.finalStatus d)
        let s1 : State := { s with host := { s.host with descs := s.host.descs.eraseIdx i } }
        (((s1.cqPut ring c (bit d.word 8)).teardownEnd d).descRun ring).ringSettle ring

end Sys2Proof.Machine
end

