-- ==== Sys2Proof/Machine/DescCmds.lean ====
section
/-! DEFINITION. Descriptors of the rings, their held and timed parts, and their completions (R362 to R370, R382,
R428, R488). -/

namespace Sys2Proof.Machine

/-- LAUNCH (R364). -/
def execLaunch (ring : RingId) (desc : CmdWord) (s : State) : Host.Outcome State Fault Refusal :=
  .next (s.descRow ring.val 1 desc [])

/-- The beat count is at an aligned edge of a beat set-up that covers a launch, at least 1 µs after its check
(R488). -/
def State.beatAligned (s : State) (d : Desc) : Bool :=
  let n := (s.edges + 2 ^ 32 - s.fget RF.TIM_BEATCNT_LOADEDGE) % 2 ^ 32
  decide (d.heldAt + 1000 ≤ s.clk) && s.host.setups.any fun u => (laCores d.word).any (fun c => u.covers (dieOf c)) &&
    u.beat.any fun x => decide (n % x.1 = 0)

/-- BEAT_LAUNCH_START: a held launch starts at an aligned edge; a core that has meanwhile got another kernel
refuses it (R364, R488). -/
def execBeatLaunchStart (ring : RingId) (tag : BitVec 16) (s : State) : Host.Outcome State Fault Refusal :=
  .next (match s.desc ring.val tag.toNat with
    | some d =>
      if d.st = 1 ∧ s.ringState ring.val = 1 ∧ s.beatAligned d then
        match pick (s.launchConds (s.ringFn ring.val) d.word) with
        | some reason => (s.descRefuse d reason).updDesc d.ring d.tag fun d =>
            { d with detail := fld d.word 240 16 + 2 ^ 16 * fld d.word 32 11 }
        | none => s.launchRun d
      else s
    | none => s)

/-- HDMA (R364, R370). -/
def execHdma (ring : RingId) (desc : CmdWord) (s : State) : Host.Outcome State Fault Refusal :=
  .next (s.descRow ring.val 2 desc [])

/-- SETUP with the bytes of its block (R368). -/
def execSetup (ring : RingId) (desc : CmdWord) (blk : Bytes) (s : State) : Host.Outcome State Fault Refusal :=
  .next (s.descRow ring.val 3 desc blk)

/-- TEARDOWN (R368). -/
def execTeardown (ring : RingId) (desc : CmdWord) (s : State) : Host.Outcome State Fault Refusal :=
  .next (s.descRow ring.val 4 desc [])

/-- ABORT (R369). -/
def execAbort (ring : RingId) (desc : CmdWord) (s : State) : Host.Outcome State Fault Refusal :=
  .next (s.descRow ring.val 5 desc [])

/-- PARTITION with OP 0 (R364). -/
def execPartitionCreate (ring : RingId) (desc : CmdWord) (s : State) : Host.Outcome State Fault Refusal :=
  .next (if fld desc 0 8 = 6 ∧ bit desc 32 then s else s.descRow ring.val 6 desc [])

/-- PARTITION with OP 1 (R364). -/
def execPartitionDestroy (ring : RingId) (desc : CmdWord) (s : State) : Host.Outcome State Fault Refusal :=
  .next (if fld desc 0 8 = 6 ∧ !bit desc 32 then s else s.descRow ring.val 6 desc [])

/-- RECLAIM (R381, R382). -/
def execReclaim (ring : RingId) (desc : CmdWord) (s : State) : Host.Outcome State Fault Refusal :=
  .next (s.descRow ring.val 7 desc [])

/-- RECLAIM_WORT_DEADLINE: the slots the store has not acknowledged are discarded, and a member in doubt waits
no longer: the reclaim will complete TIMEOUT (R26, R283, R382 step 4). -/
def execReclaimWortDeadline (p : PartId) (s : State) : Host.Outcome State Fault Refusal :=
  let k := p.val
  .next (match (s.part k).reclaim with
    | some rc =>
      let x := s.sess k
      let gone := x.slots.filter fun w => w.sending
      let doubt := (s.diesOf (k + 1)).any fun d => decide (s.capState d = 4)
      if gone = [] ∧ !doubt then s
      else
        let s1 := s.setSess k { x with slots := x.slots.filter (fun w => !w.sending), msgs := [] }
        let s2 := gone.foldl (fun (s : State) w => s.freeSlot w.die w.slot) s1
        (s2.setPart k { s2.part k with reclaim := some { rc with late := true } }).wortRegs k
    | none => s)

/-- Steps 1 to 4 of a reclaim are over: no kernel runs, every completion that is due has been written or held,
no cap waits for its decision, no slot is being sent (R382). A die in doubt holds the release back until the
wort deadline has passed, and so until it completes TIMEOUT (R26, R283). -/
def State.reclaimReady (s : State) (p : Nat) (late : Bool) : Bool :=
  let dies := s.diesOf (p + 1)
  dies.all (fun d => (decide (s.capState d = 0) || (late && decide (s.capState d = 4))) &&
      (List.range 8).all fun k => decide (s.fget (RF.UPD_SLOT_STATE_STATE d k) ≠ 2)) &&
    s.core.cores.all (fun e => !dies.contains (dieOf e.1) || e.2.outst.isEmpty) &&
    s.host.descs.all (fun d => decide (d.st ≠ 3 ∨ s.ringFn d.ring ≠ p + 1) || s.complWaits d) &&
    (s.sess p).slots.all fun w => !w.sending

/-- What is left of a die's training state goes: slots, cap. -/
def State.dieForget (s : State) (d : Nat) : State :=
  let s1 := (s.setDieCap d {}).setReg (Reg.CAP_DIE_STAT d) 0
  let slots := s1.upd.slots.drop fun k => decide (k / 8 = d)
  ({ s1 with upd := { s1.upd with slots := slots } } : State).setReg (Reg.UPD_SLOT_STATE d) 0

/-- RECLAIM_RELEASE: memory is zeroed, the dies return to PF0, the set-ups leave, the rings are DISABLED, and
the reclaim is done (R382 steps 5 and 6). -/
def execReclaimRelease (p : PartId) (s : State) : Host.Outcome State Fault Refusal :=
  let k := p.val
  .next (match (s.part k).reclaim with
    | some rc =>
      if s.fget (RF.HIVE_PART_RESET k) = 0 ∧ s.reclaimReady k rc.late then
        let dies := s.diesOf (k + 1)
        let s1 := dies.foldl (fun (s : State) d => ((s.zeroSram d).zeroLpddr d).dieForget d) s
        let mine := s1.host.setups.filter fun u => u.fn == k + 1
        let s2 := mine.foldl (fun (s : State) u => s.setupRemove u) s1
        let rings := s2.ringsAll (k + 1)
        let s3 := (rings.foldl (fun (s : State) n => s.ringDrop n) s2).partRelease k
        let ms := (s.clk - rc.start) / 1000000
        let st := if rc.late then stTIMEOUT else stOK
        (s3.hiveRec 0x8807 0 0 (pay [(1, k), (1, st), (2, 0), (4, rc.d), (4, ms)])).descDone rc.ring rc.tag st 0 ms
      else s
    | none => s)

/-- DESCRIPTOR_COMPLETE (R366). -/
def execDescriptorComplete (ring : RingId) (tag : BitVec 16) (s : State) : Host.Outcome State Fault Refusal :=
  .next (s.descEnd ring.val tag.toNat)

/-- QUEEN_RESTART_DONE: the restart ends and the descriptors the queen checks go on (R428). -/
def execQueenRestartDone (s : State) : Host.Outcome State Fault Refusal :=
  .next (if s.fget RF.LOG_STAT_QRST = 1 then ((s.fset RF.LOG_STAT_QRST 0).isum 2).descRunAll else s)

end Sys2Proof.Machine
end

