-- ==== Sys2Proof/Machine/MveCmds.lean ====
section
/-! DEFINITION. The matrix-vector engine: MVE_MV and MVE_COMMAND_COMPLETE (R103 to R106, R108). -/

namespace Sys2Proof.Machine

/-- Bytes of a weight row, rounded up to whole lines (R104). -/
def mveRb (f k : Nat) : Nat := (elemBytes f k + (if isMx f then k / 32 else 0) + 255) / 256 * 256

/-- Die SRAM offset of a bank-local offset (R135). -/
def bankOff (b o : Nat) : Nat := o / 256 * 16384 + b * 256 + o % 256

/-- Elements of x that fill the vector buffer (R104). -/
def mveKmax (xf : Nat) : Nat := if xf = 5 then 131072 else if xf = 6 then 32768 else 65536

def mvWFMT (w : CmdWord) : Nat := fld w 8 4
def mvXFMT (w : CmdWord) : Nat := fld w 12 4
def mvDFMT (w : CmdWord) : Nat := fld w 16 4
def mvN (w : CmdWord) : Nat := fld w 64 18
def mvK (w : CmdWord) : Nat := fld w 96 18

/-- Bank-local offset of row n. -/
def mvRow (w : CmdWord) (n : Nat) : Nat := fld w 128 23 + n / 64 * mveRb (mvWFMT w) (mvK w)

/-- Ranges of the vector, of the weight rows and of the result. -/
def mvXRanges (w : CmdWord) : Ranges :=
  (fld w 192 32, elemBytes (mvXFMT w) (mvK w)) ::
    if isMx (mvXFMT w) then [(fld w 224 32, mvK w / 32)] else []

def mvWRanges (w : CmdWord) : Ranges :=
  (List.range (mvN w)).flatMap fun n => (List.range (mveRb (mvWFMT w) (mvK w) / 256)).map fun c =>
    (bankOff (n % 64) (mvRow w n + 256 * c), 256)

def mvYRanges (w : CmdWord) : Ranges :=
  (fld w 256 32, elemBytes (mvDFMT w) (mvN w)) ::
    if isMx (mvDFMT w) then [(fld w 288 32, (mvN w + 31) / 32)] else []

def mvConds (w : CmdWord) : List (Bool × Nat) :=
  let wf := mvWFMT w
  let xf := mvXFMT w
  let df := mvDFMT w
  let k := mvK w
  let rb := mveRb wf k
  [(fcReserved wf || fcReserved xf || fcReserved df, 0x5201), (decide (pairing wf xf = 0), 0x5202),
   (decide (wf = 0 ∧ xf = 0 ∧ signedN 9 (fld w 24 9) ≠ 0), 0x5203),
   (decide (mvN w = 0 ∨ k = 0 ∨ 131072 < k), 0x5302),
   ((isMx wf || isMx xf) && decide (k % 32 ≠ 0), 0x5304),
   (decide (mveKmax xf < k ∨ fld w 128 23 % 256 ≠ 0), 0x5308), (decide (9 ≤ df ∧ df ≤ 12), 0x5309),
   (bit w 20 && decide (df = 8 ∨ df = 11), 0x5208), (bit w 20 && decide (fld w 336 16 = 0), 0x5206),
   (reservedStream (fld w 336 16), 0x5501),
   (rangesBad (mvXRanges w ++ mvYRanges w) ||
      decide (0 < mvN w ∧ 2 ^ 23 < mvRow w (mvN w - 1) + rb), 0x5407),
   (!reservedZero w [(0, 21), (24, 9), (64, 18), (96, 18), (128, 23), (192, 64), (256, 64), (320, 10),
      (336, 48)], 0x530B)]

/-- Row n of W: its K values. -/
def State.mvWeights (s : State) (die : Nat) (w : CmdWord) (n : Nat) : List Num :=
  let f := mvWFMT w
  let k := mvK w
  let bs := (List.range (mveRb f k / 256)).flatMap fun c =>
    s.sram die (bankOff (n % 64) (mvRow w n + 256 * c)) 256
  let eb := elemBytes f k
  (List.range k).map fun i =>
    if isMx f then mxNum f (elemCode f bs i) (byteAt bs (eb + i / 32)).toNat
    else elemNum f (elemCode f bs i)

/-- y[n] before rounding, with its flags (R51 to R57). -/
def mvDot (w : CmdWord) (xs ws : List Num) : Num × Nat :=
  let wb := signedN 9 (fld w 24 9)
  if pairing (mvWFMT w) (mvXFMT w) = 2 then
    let r := (xs.zip ws).foldl (fun st p => macBf16 st p.1 p.2) (0, false, 0)
    (if r.2.1 then .nan else d32 r.1, orF r.2.2 (if (d32 r.1).finite then 0 else nfNF))
  else
    let r := (xs.zip ws).foldl (fun st p => macExact wb st p.1 p.2) (0, false, 0)
    let (v, f) := drainNum wb r.1 r.2.1
    (v, orF r.2.2 f)

def State.mveBusy (s : State) (die : Nat) : State :=
  s.fset (RF.MVE_STAT_BUSY die) (b2n ((s.eng.mveq.get [] die).any fun j => j.started))

def State.setMveq (s : State) (die : Nat) (q : List Job) : State :=
  { s with eng := { s.eng with mveq := s.eng.mveq.set [] die q } }

/-- The engine runs the command: reads, products, rounding; the results are held. -/
def State.mveBegin (s : State) (die : Nat) (j : Job) : State × Job :=
  let w := j.word
  let rds := mvXRanges w ++ mvWRanges w
  match s.sramReads die rds with
  | (s1, false) => (s1, { j with started := true, status := stECC })
  | (s1, true) =>
    let xs := s1.vecAt die (mvXFMT w) (fld w 192 32) (fld w 224 32) (mvK w)
    let ys := (List.range (mvN w)).map fun n => mvDot w xs (s1.mvWeights die w n)
    let seed := j.seed (fld w 336 16) (fld w 352 32)
    let us : Draws := if bit w 20 then some fun i => seed.draw i 0 else none
    let (bs, sc, f) := convRow (mvDFMT w) us (ys.map fun y => y.1)
    let moved := decide (s1.fget (RF.MVE_STAT_ON_ARRAYS die) = 1 ∨ s1.fget (RF.MVE_STAT_RETIRED die) = 1)
    let wr := (fld w 256 32, bs) :: if isMx (mvDFMT w) then [(fld w 288 32, sc)] else []
    (s1, { j with started := true, writes := wr, nflags := ys.foldl (fun a y => orF a y.2) f,
                  status := okOr (moved || s1.rangesEmu die (rds ++ mvYRanges w)) })

/-- The engine takes commands in order, one at a time; a refused one is passed over (R92). -/
def State.mvePump : Nat → State → Nat → State
  | 0, s, _ => s
  | n + 1, s, die =>
    match s.eng.mveq.get [] die with
    | [] => s
    | j :: t =>
      if j.started then s
      else match pick (mvConds j.word) with
        | some reason => State.mvePump n ((s.setMveq die t).refuseJob j reason) die
        | none =>
          let (s1, j1) := s.mveBegin die j
          s1.setMveq die (j1 :: t)

def State.mveRun (s : State) (die : Nat) : State :=
  (State.mvePump ((s.eng.mveq.get [] die).length) s die).mveBusy die

/-- MVE_MV enters the die's matrix-vector queue (R104, R105, R117). -/
def execMveMv (core : CoreId) (s : State) : Host.Outcome State Fault Refusal :=
  .next (s.issueTo core.val 0x30 fun s seq w =>
    let die := dieOf core.val
    (s.setMveq die (s.eng.mveq.get [] die ++ [s.mkJob core.val seq w])).mveRun die)

/-- MVE_COMMAND_COMPLETE: the last output is written and the counter moves (R106, R108). -/
def execMveCommandComplete (die : DieId) (s : State) : Host.Outcome State Fault Refusal :=
  .next (match s.eng.mveq.get [] die.val with
    | j :: t =>
      if j.started then
        let s1 := (s.sramPut die.val j.writes).setMveq die.val t
        (s1.finish j.core j.seq (fld j.word 320 10) j.status 0 j.nflags).mveRun die.val
      else s
    | [] => s)

end Sys2Proof.Machine
end

