-- ==== Sys2Proof/Machine/SampleCmds.lean ====
section
/-! DEFINITION. RNG_FILL, SMP_OPEN, SMP_OPEN_RESUME, SMP_PART, SMP_PART_ARRIVE, SMP_BROADCAST,
SMP_CONTEXT_TIMEOUT, SMP_ORPHAN_TIMEOUT, RNG_TEST_GO (R155, R159, R161 to R173, R175). -/

namespace Sys2Proof.Machine

/-! RNG_FILL (R159). -/

def rfMODE (w : CmdWord) : Bool := bit w 8
def rfLEN (w : CmdWord) : Nat := fld w 160 20
def rfROWS (w : CmdWord) : Nat := fld w 192 16
def rfSTREAM (w : CmdWord) : Nat := fld w 96 16
def rfRow (w : CmdWord) : Nat := if rfMODE w then (rfLEN w + 7) / 8 else 2 * rfLEN w

def rfRanges (w : CmdWord) : Ranges := rowsOf (fld w 64 32) (fld w 224 32) (rfRow w) (rfROWS w)

def rfConds (w : CmdWord) : List (Bool × Nat) :=
  [(reservedStream (rfSTREAM w), 0x5501),
   (decide (rfROWS w = 0 ∨ rfLEN w = 0 ∨ 65536 < fld w 32 17 ∨ rfSTREAM w = 0) ||
      (!rfMODE w && decide (fld w 32 17 ≠ 0)), 0x5502),
   (rangesBad (rfRanges w), 0x5407),
   (!reservedZero w [(0, 9), (16, 10), (32, 17), (64, 48), (128, 52), (192, 16), (224, 32)], 0x5508)]

/-- Bytes of row r: draws, or one Bernoulli bit per element. -/
def rfBytes (seed : Seed) (w : CmdWord) (r : Nat) : Bytes :=
  if rfMODE w then
    (List.range (rfRow w)).map fun k => BitVec.ofNat 8 ((List.range 8).foldl (fun (a : Nat) b =>
      let e := 8 * k + b
      if e < rfLEN w ∧ seed.draw e r < fld w 32 17 then a + 2 ^ b else a) 0)
  else (List.range (rfLEN w)).flatMap fun e => leBytes 2 (seed.draw e r)

/-- RNG_FILL fills SRAM rows from the issuing core's lane generators (R159). -/
def execRngFill (core : CoreId) (s : State) : Host.Outcome State Fault Refusal :=
  .next (s.issue core.val 0x60 fun s seq w =>
    let die := dieOf core.val
    s.refuseOr core.val seq 0x60 (rfConds w) fun s =>
      let j := s.mkJob core.val seq w
      let seed := j.seed (rfSTREAM w) (fld w 128 32)
      let ws := (rfRanges w).zipIdx.map fun r => (r.1.1, rfBytes seed w r.2)
      (s.sramPut die ws).finish core.val seq (fld w 16 10) (okOr (s.rangesEmu die (rfRanges w))) 0 0)

/-! The sampler. -/

/-- A core issues SMP_OPEN (R161): a stale open reaches no merge stage, and CNT moves once its record is written
(R167). -/
def State.smpOpenCore (s : State) (core : Nat) : State :=
  s.issue core 0x62 fun s seq w =>
    s.refuseOr core seq 0x62 (soConds (s.setupsOn (dieOf core)) w) fun s =>
      let x := (s.coreRec core).ctx
      let c : SmpCtx := { smpCtxOf w x.job with core := core, seq := seq }
      if s.staleCore core x then
        let s1 := if c.mode = 1 then s else (s.sramWrite (dieOf core) c.rdst (smpRecord c stSTALE)).cntAdd
          (dieOf core) c.cnt 1
        s1.completeRaw core seq stSTALE 0 0
      else if soMMOD w ≠ s.module then s.sendOpen core seq w x
      else s.smpOpenAt c

/-- SMP_OPEN opens a context at the merge stage of MMOD, or waits there for one (R161, R168); an open of
another module reaches the merge stage here with its word. -/
def execSmpOpen (sender : SmpFrom) (s : State) : Host.Outcome State Fault Refusal :=
  .next (match sender with
    | .here core => s.smpOpenCore core.val
    | .there md die stream job pgen word =>
      s.smpOpenAt { smpCtxOf word job.toNat with
        far := some (md.toNat, die.val, stream.toNat), pgen := pgen.toNat })

/-- SMP_OPEN_RESUME: the oldest waiting open takes a context that has become free (R168). -/
def execSmpOpenResume (s : State) : Host.Outcome State Fault Refusal :=
  .next (match s.smp.waiting with
    | c :: t => if s.smp.ctxs.length < 512 then
        ({ s with smp := { s.smp with waiting := t } } : State).smpAdmit c else s
    | [] => s)

/-- SMP_PART: the partial stage of a die over its shard (R162 to R164). -/
def execSmpPart (core : CoreId) (s : State) : Host.Outcome State Fault Refusal :=
  .next (s.issue core.val 0x61 fun s seq w =>
    let die := dieOf core.val
    s.refuseOr core.val seq 0x61 (spConds (s.setupsOn die) w) fun s =>
      let j := s.mkJob core.val seq w
      if s.staleCore core.val j.ctx then s.completeRaw core.val seq stSTALE 0 0
      else match s.sramReads die [(spLSRC w, elemBytes (spLFMT w) (spVLEN w))] with
        | (s1, false) => s1.completeRaw core.val seq stECC 0 0
        | (s1, true) =>
          let p := s1.shardPart j 0
          let r : PartRec := { core := core.val, seq := seq, word := w, ctx := j.ctx, sour := p.sourp }
          let s2 : State := { s1 with smp := { s1.smp with parts := s1.smp.parts ++ [r] } }
          s2.sendPart j p)

/-- SMP_PART_ARRIVE: a part reaches the merge stage (R169). -/
def execSmpPartArrive (part : SmpPart) (s : State) : Host.Outcome State Fault Refusal :=
  .next (s.smpArrive part)

/-- SMP_BROADCAST: M and L, or sour, reach a contributor, which acknowledges the cell (R172). -/
def execSmpBroadcast (die : DieId) (job : BitVec 8) (sid : BitVec 16) (cidx : Fin 256) (m l : BitVec 32)
    (sour : Bool) (stream : BitVec 16) (s : State) : Host.Outcome State Fault Refusal :=
  .next (match s.partOf die.val job.toNat sid.toNat cidx.val with
    | some r =>
      if smMODE r.word = 1 then
        ((s.partDense r sour m.toNat l.toNat).partIdFree r).sendAck (spMMOD r.word) 8 die.val job.toNat stream.toNat 0
      else s
    | none => s)

/-- SMP_CONTEXT_TIMEOUT: TO expires before every part has arrived (R168, R169). -/
def execSmpContextTimeout (job : BitVec 8) (sid : BitVec 16) (s : State) :
    Host.Outcome State Fault Refusal :=
  .next (match s.smp.ctxs.find? fun c => c.is job.toNat sid.toNat with
    | some c =>
      if c.st = 1 then
        let s1 := (s.finc RF.SMP_LATE_TO_CNT 1).hiveRec 0x8206 0 1
          (pay [(2, c.sid), (1, c.ncont - 1), (1, c.parts.length)])
        let s2 := if c.mode = 1 then c.sorted.foldl (fun (s : State) p => s.partReply p stTIMEOUT) s1 else s1
        s2.smpDone c stTIMEOUT 0 (smpRecord c stTIMEOUT)
      else s
    | none => s)

/-- SMP_ORPHAN_TIMEOUT: an orphan part is dropped, counted, and completes TIMEOUT (R169). -/
def execSmpOrphanTimeout (job : BitVec 8) (sid : BitVec 16) (cidx : Fin 256) (s : State) :
    Host.Outcome State Fault Refusal :=
  let mine := fun (p : SmpPart) => decide (p.job = job ∧ p.sid = sid ∧ p.cidx = cidx)
  .next (match s.smp.orphans.findIdx? mine, s.smp.orphans.find? mine with
    | some i, some p =>
      let s1 : State := { s with smp := { s.smp with orphans := s.smp.orphans.eraseIdx i } }
      (s1.finc RF.SMP_STAT_ORPHAN_DROP 1).partReply p stTIMEOUT
    | _, _ => s)

/-! The test generator (R175). -/

/-- The word of the test tuple, with the WORD index a GO names. -/
def State.rngTest (s : State) (d : Nat) : State :=
  let js := s.fget (RF.RNG_TSEED_JSEED d)
  let st := s.fget (RF.RNG_TTUP_STREAM d)
  let seed : Seed := { jseed := js, step := s.fget (RF.RNG_TTUP_STEP d), stream := st, tile := s.fget (RF.RNG_TLOC_TILE d) }
  (s.fset (RF.RNG_TOUT_WORD d) (seed.word (s.fget (RF.RNG_TLOC_LANE d)) (s.fget (RF.RNG_TCTL_WORD d)))).fset
    (RF.RNG_TCTL_DONE d) 1

/-- RNG_TEST_GO: the test generator positions itself from its tuple and delivers one word (R155, R175). -/
def execRngTestGo (die : DieId) (s : State) : Host.Outcome State Fault Refusal :=
  .next (s.rngTest die.val)

end Sys2Proof.Machine
end

