-- ==== Sys2Proof/Machine/SwarmCmds.lean ====
section
/-! DEFINITION. The swarm commands and events: SWM_BCAST, SWM_REDUCE, SWM_PERMUTE, SWM_OP_COMPLETE,
SEGMENT_OPEN, SWM_CELL, SWM_REPLAN, SWM_OP_TIMEOUT (R258 to R272, R286, R287). -/

namespace Sys2Proof.Machine

/-- SWM_BCAST: broadcast or all-gather (R262, R263). -/
def execSwmBcast (core : CoreId) (s : State) : Host.Outcome State Fault Refusal :=
  .next (s.swmIssue core.val 0x80)

/-- SWM_REDUCE: GRAD8 reduction to owners (R262, R263, R271). -/
def execSwmReduce (core : CoreId) (s : State) : Host.Outcome State Fault Refusal :=
  .next (s.swmIssue core.val 0x81)

/-- SWM_PERMUTE re-shards state under a permute cap (R273, R286, R287). -/
def execSwmPermute (core : CoreId) (s : State) : Host.Outcome State Fault Refusal :=
  .next (s.swmIssue core.val 0x83)

/-- A member of this module in an op of a group and number, whatever the job. -/
def State.findMember (s : State) (die gid opseq : Nat) : Option (SwmOp × SwmMember) :=
  s.swm.ops.findSome? fun (o : SwmOp) =>
    if o.gid = gid ∧ o.opseq = opseq then (o.members.find? fun m => m.die == die).map fun m => (o, m)
    else none

/-- SWM_OP_COMPLETE: an op whose data are all here is written at a member, which completes (R263, R271). -/
def execSwmOpComplete (die : DieId) (gid : GroupId) (opseq : BitVec 32) (s : State) :
    Host.Outcome State Fault Refusal :=
  .next (match s.findMember die.val gid.val opseq.toNat with
    | none => s
    | some (o, m) =>
      match s.group o.job o.gid with
      | none => s
      | some g =>
        if s.opReady g o then
          if fld m.job.word 0 8 = 0x83 then s.permPlace o m else s.opEnd g o m
        else s)

/-- A cell for a hive service: intact, and not from a fenced module (R212, R438). -/
def State.hiveCell (s : State) (c : CellW) (f : State → State) : State :=
  if Cell.good c && !s.modFenced (Cell.srcMod c) then f s else s

/-- SEGMENT_OPEN: a segment reaches an engine (R258, R265, R266). -/
def execSegmentOpen (cell : CellW) (s : State) : Host.Outcome State Fault Refusal :=
  .next (s.hiveCell cell fun s => if Cell.seq cell = 0 then s.segOpen cell else s)

/-- SWM_CELL: a data cell reaches an engine (R265, R266). -/
def execSwmCell (cell : CellW) (s : State) : Host.Outcome State Fault Refusal :=
  .next (s.hiveCell cell fun s => if Cell.seq cell = 0 then s else s.segData cell)

/-- The messages of an epoch of a group have been taken from the management queue. -/
def State.epochTaken (s : State) (g : Group) : State :=
  { s with fab := { s.fab with mgmtQ := s.fab.mgmtQ.filter fun e =>
      !(decide (Cell.type e.2 = 12 ∧ Cell.len e.2 = 48) &&
        ((Config.msgNums (Cell.payBytes e.2 0 48)).take 3 == [4, g.job, g.gid])) } }

/-- SWM_REPLAN: the next epoch of a group is installed, from member 0's module in every hive of the plan; ops in
progress restart, and what rests on the plan is computed anew (R35, R253, R267). -/
def execSwmReplan (job : BitVec 8) (gid : GroupId) (s : State) : Host.Outcome State Fault Refusal :=
  .next (match s.group job.toNat gid.val with
    | none => s
    | some g =>
      let s1 := (s.epochTaken g).epochNext g
      let s2 := (s1.swm.ops.filter fun o => decide (o.job = g.job ∧ o.gid = g.gid)).foldl
        (fun (s : State) o => match s.group g.job g.gid with
          | some g => s.opRestart g o
          | none => s) s1
      s2.nolull.reevaluate)

/-- SWM_OP_TIMEOUT: the member completes TIMEOUT, its counter does not move, its open cap fails (R269). -/
def execSwmOpTimeout (die : DieId) (gid : GroupId) (opseq : BitVec 32) (s : State) :
    Host.Outcome State Fault Refusal :=
  .next (match s.findMember die.val gid.val opseq.toNat with
    | none => s
    | some (o, m) => (s.leaveOp o m).swmFinish m stTIMEOUT 0)

end Sys2Proof.Machine
end

