-- ==== Sys2Proof/Machine/UpdateCmds.lean ====
section
/-! DEFINITION. The fused update unit: UPD_RUN, UPD_PEND, UPD_NORM, UPD_SAVE, UPD_GATE_START,
UPD_COMMAND_COMPLETE, UPD_LANE_FAULT, ROLLBACK_DONE (R182 to R203). -/

namespace Sys2Proof.Machine

/-- An update command enters the update queue bound to the open cap; with no cap open it is refused
(R182, R196, R208). -/
def State.updIssue (s : State) (core opc : Nat) : State :=
  s.issueTo core opc fun s seq w =>
    let die := dieOf core
    let j := s.mkJob core seq w
    if s.capState die = 0 then
      s.refuseOr core seq opc ((true, 0x5605) :: s.updConds die j) fun s => s
    else if s.capState die = 6 then
      -- bound to the cap being rolled back, and not started: it completes ABORTED without acting (R196)
      let c := s.dieCap die
      let dcnts := if bit w 58 then c.dcnts ++ [fld w 48 10] else c.dcnts
      (s.setDieCap die { c with dcnts := dcnts }).completeRaw core seq stABORTED 0 0
    else
      let s1 := s.bindCmd core seq
      let c := s1.dieCap die
      let dcnts := if bit w 58 then c.dcnts ++ [fld w 48 10] else c.dcnts
      let runs := if opc = 0x70 then c.runs ++ [(uTREC w, uBLK0 w, uNBLK w)] else c.runs
      let s2 := s1.setDieCap die { c with dcnts := dcnts, runs := runs }
      (s2.setUpdQ die (s2.updQ die ++ [{ j with before := c.runs.length }])).updRun die

/-- UPD_RUN updates a block range of a tensor shard in place (R182 to R187, R199). -/
def execUpdRun (core : CoreId) (s : State) : Host.Outcome State Fault Refusal :=
  .next (s.updIssue core.val 0x70)

/-- UPD_PEND copies landing blocks into the cellar ring (R200). -/
def execUpdPend (core : CoreId) (s : State) : Host.Outcome State Fault Refusal :=
  .next (s.updIssue core.val 0x72)

/-- UPD_NORM computes a squared-norm partial (R202). -/
def execUpdNorm (core : CoreId) (s : State) : Host.Outcome State Fault Refusal :=
  .next (s.updIssue core.val 0x73)

/-- UPD_SAVE stores rows from SRAM with diffs (R194). -/
def execUpdSave (core : CoreId) (s : State) : Host.Outcome State Fault Refusal :=
  .next (s.updIssue core.val 0x71)

/-- UPD_GATE_START: a queued command whose gate has become satisfied starts (R146, R188). -/
def execUpdGateStart (die : DieId) (s : State) : Host.Outcome State Fault Refusal :=
  .next (s.updRun die.val)

/-- A soured command: counted, recorded for the cap, one record (R186). -/
def State.updSour (s : State) (die : Nat) (j : Job) : State :=
  match j.sour with
  | some (cause, blk) =>
    ((s.finc (RF.UPD_CNT_SOUR_CNT die) 1).recordSour die).dieRec die 0x8301 0 1
      (pay [(4, j.ctx.step), (4, blk), (1, cause)])
  | none => s

/-- Blocks a UPD_RUN has gone through are noted for UPD_PEND (R200). -/
def State.noteRan (s : State) (die : Nat) (j : Job) : State :=
  if uOPC j.word = 0x70 then
    let c := s.dieCap die
    s.setDieCap die { c with ran := c.ran ++ j.blocks.map fun b => (uTREC j.word, b) }
  else s

/-- Completion of an update command with its counter, which moves at every completion but that of a read that failed
(R182, R331). -/
def State.updFinish (s : State) (core seq cnt status nflags : Nat) : State :=
  let s1 := s.completeCmd core seq status 0 nflags
  if counts status || [stSOUR, stSTALE].contains status then s1.cntAdd (dieOf core) cnt 1 else s1

/-- UPD_COMMAND_COMPLETE: the running command's writes and diffs are in memory, its completion and
counter follow, and the next command may start (R183, R188, R193). -/
def execUpdCommandComplete (die : DieId) (s : State) : Host.Outcome State Fault Refusal :=
  let d := die.val
  .next (match (s.updQ d).find? fun j => j.started with
    | none => s
    | some j =>
      let s1 := s.setUpdQ d ((s.updQ d).filter fun x => !jobIs x j)
      let s2 := s1.sramPut d j.writes
      let (s3, good) := match (s.dieCap d).slot with
        | some k => s2.diffedWrites d k (cmdTag j.core j.seq) j.diffs
        | none => (s2, true)
      let s4 := (s3.noteRan d j).updSour d j
      let status := if good then j.status else stECC
      let s5 := if status = stSTALE then s4.finc (RF.UPD_CNT_STALE_CNT d) 1 else s4
      (s5.updFinish j.core j.seq (uCNT j.word) status j.nflags).updRun d)

/-- UPD_LANE_FAULT: the running command stops FENCED before the block, the die votes failed, the group is
retired; with no group left the die is reported failed (R190, R407). -/
def execUpdLaneFault (die : DieId) (group : Fin 8) (s : State) : Host.Outcome State Fault Refusal :=
  let d := die.val
  .next (if s.upd.lost.get 0 (d * 8 + group.val) ≠ 0 then s
    else
      let lost := s.upd.lost.put (d * 8 + group.val) 1
      let s1 : State := { s with upd := { s.upd with lost := lost } }
      let s2 := (s1.fset (RF.UPD_STAT_LANES_OK d) (s1.fget (RF.UPD_STAT_LANES_OK d) - 1)).fset
        (RF.UPD_STAT_LANE_FLT d) 1
      let s3 := (s2.fset (RF.COMB_ERR_UPD d) 1).voteFailed d
      let s4 := (s3.dieRec d 0x8302 0 2 (pay [(1, group.val)])).journal d 4 group.val 1
      let s5 := if s4.fget (RF.UPD_STAT_LANES_OK d) = 0 then s4.dieFailed d else s4.reevaluate
      match (s5.updQ d).find? fun j => j.started with
      | some j =>
        let s6 := s5.setUpdQ d ((s5.updQ d).filter fun x => !jobIs x j)
        (s6.completeCmd j.core j.seq stFENCED 0 j.nflags).updRun d
      | none => s5)

/-- ROLLBACK_DONE: every set granule has been reapplied, the slot is FREE, DCNT moves, and CAP_VOTE
completes with the cap's status (R196, R278). -/
def execRollbackDone (die : DieId) (s : State) : Host.Outcome State Fault Refusal :=
  let d := die.val
  let c := s.dieCap d
  .next (match c.slot, c.decided with
    | some k, some status =>
      if s.fget (RF.UPD_SLOT_STATE_STATE d k) = 3 then
        ((((s.rollback d k).freeSlot d k).dcntAll d).endCap d status).updRun d
      else s
    | _, _ => s)

end Sys2Proof.Machine
end

