-- ==== Sys2Proof/Machine/ResetOps.lean ====
section
/-! DEFINITION. Withdrawal of units: cluster and bank take-over, channel map-out (R345, R402 to R407). -/

namespace Sys2Proof.Machine

/-- QN_RESET_DONE (R408, R418). -/
def State.resetRec (s : State) (die phys logi level t0 : Nat) : State :=
  s.hiveRec 0x800A 0 0 (pay [(1, die), (1, phys), (1, logi), (1, level), (4, s.fget RF.QN_RETAIN_SEQ),
    (4, (s.clk - t0) / 1000000)])

/-- A reset that QN_RESET asked for has completed. -/
def State.resetOk (s : State) : State := (s.fset RF.QN_RESET_RESULT 2).isum 10

/-! Clusters (R404, R405). -/

/-- Physical cluster behind a logical one; logical clusters on a physical one. -/
def State.clPhys (s : State) (die c : Nat) : Nat := s.fget (RF.WRK_CLMAP_PHYS die (c / 8) (c % 8))
def State.clsOn (s : State) (die ph : Nat) : List Nat :=
  (List.range 32).filter fun c => decide (s.clPhys die c = ph)

/-- A physical cluster is out of service. -/
def State.clGone (s : State) (die ph : Nat) : Bool := decide (s.eng.clOut.get 0 (die * 34 + ph) ≠ 0)

/-- Physical clusters of a die in service. -/
def State.clInSvc (s : State) (die : Nat) : Nat := ((List.range 34).filter fun k => !s.clGone die k).length

/-- Spare physical clusters: in service and mapped by no logical cluster. -/
def State.clSpares (s : State) (die : Nat) : List Nat :=
  (List.range 34).filter fun k => !s.clGone die k && (s.clsOn die k).isEmpty

/-- Cores of a logical cluster. -/
def clCores (die c : Nat) : List Nat := (List.range 8).map fun k => die * 256 + c * 8 + k

def State.setClDrain (s : State) (die c v : Nat) : State :=
  { s with eng := { s.eng with clDrain := s.eng.clDrain.set 0 (die * 32 + c) v } }
def State.clDraining (s : State) (die c : Nat) : Nat := s.eng.clDrain.get 0 (die * 32 + c)

def State.setClFold (s : State) (die c v : Nat) : State :=
  { s with eng := { s.eng with clFold := s.eng.clFold.set 0 (die * 32 + c) v } }

def State.setClPhys (s : State) (die c ph : Nat) : State :=
  s.fset (RF.WRK_CLMAP_PHYS die (c / 8) (c % 8)) ph

/-- Every issued command of a list of cores has completed. -/
def State.drained (s : State) (cores : List Nat) : Bool := cores.all fun c => (s.coreRec c).outst.isEmpty

/-- A logical cluster gets a physical one: the lowest spare, else the lowest one that hosts one (R404, R405). -/
def State.clPlace (s : State) (die c : Nat) : State :=
  match s.clSpares die with
  | k :: _ => ((s.setClPhys die c k).setClFold die c 0).journal die 1 k 1
  | [] =>
    match (List.range 34).find? fun k => !s.clGone die k && decide ((s.clsOn die k).length = 1) with
    | some k =>
      let host := (s.clsOn die k).headD 0
      let s1 := ((s.setClPhys die c k).setClFold die c 1).setClFold die host 2
      ((s1.dieRec die 0x8007 k 1 (s1.unitPay die k c)).journal die 1 k 6).dieDegraded die
    | none => s

/-- A core enters IDLE after a take-over or reset; one held by FENCE_CORE stays FENCED (R438, R441). -/
def State.coreIdle (s : State) (core : Nat) : State :=
  s.setCoreState core (if s.saf.cores.get 0 core = 0 then csIDLE else csFENCED)

/-- The cores of a withdrawn physical cluster have drained: it is RETIRED, its logical clusters move (R404). -/
def State.takeoverEnd (s : State) (die ph : Nat) : State :=
  let cls := s.clsOn die ph
  let out := s.eng.clOut.put (die * 34 + ph) 1
  let s1 : State := { s with eng := { s.eng with clOut := out } }
  let s2 := cls.foldl (fun (s : State) c =>
    ((s.setClFold die c 0).setClDrain die c (s.clDraining die c - 1)).setClPhys die c 63) s1
  let s3 := cls.foldl (fun (s : State) c => s.clPlace die c) s2
  let s4 := (cls.flatMap (clCores die)).foldl (fun (s : State) c => s.coreIdle c) s3
  if s4.clInSvc die < 16 then s4.dieFailed die
  else if s4.clSpares die = [] then s4.dieDegraded die else s4

/-- A physical cluster is faulted: its cores stop and will complete FENCED, the die votes failed (R404). -/
def State.takeoverStart (s : State) (die ph : Nat) : State :=
  let cls := s.clsOn die ph
  if 34 ≤ ph ∨ s.clGone die ph ∨ cls.any (fun c => bitN (s.clDraining die c) 0) then s
  else
    let s1 := (cls.flatMap (clCores die)).foldl (fun (s : State) c =>
      (s.stopCore c stFENCED).setCoreState c csFENCED) s
    let s2 := cls.foldl (fun (s : State) c => s.setClDrain die c (s.clDraining die c + 1)) (s1.voteFailed die)
    let s3 := (s2.fset (RF.COMB_ERR_CLUSTER die) 1).journal die 1 ph 5
    let s4 := s3.dieRec die 0x8006 ph 1 (s3.unitPay die ph (cls.headD 0xFF))
    if cls = [] then s4.takeoverEnd die ph else s4

/-- A take-over goes on once its cores have drained. -/
def State.takeoverTry (s : State) (die ph : Nat) : State :=
  let cls := s.clsOn die ph
  if cls.any (fun c => bitN (s.clDraining die c) 0) ∧ s.drained (cls.flatMap (clCores die)) then
    s.takeoverEnd die ph
  else s

/-- Take-over of the physical cluster behind a logical one. -/
def State.clTakeover (s : State) (die c : Nat) : State :=
  let ph := s.clPhys die c
  (s.takeoverStart die ph).takeoverTry die ph

/-! SRAM banks (R138, R406). -/

/-- A physical bank is out of service; spare physical banks. -/
def State.bkGone (s : State) (die k : Nat) : Bool := decide (s.eng.bkOut.get 0 (die * 66 + k) ≠ 0)
def State.bkSpares (s : State) (die : Nat) : List Nat :=
  (List.range 66).filter fun k => !s.bkGone die k && (List.range 64).all fun b => decide (s.physBank die b ≠ k)

/-- A logical bank's physical bank fails: the lowest spare takes it with its contents, or it is emulated in
LPDDR5X (R406). -/
def State.bankTakeover (s : State) (die b : Nat) : State :=
  let ph := s.physBank die b
  if ph = 0x7F then s
  else
    let out := s.eng.bkOut.put (die * 66 + ph) 1
    let s1 : State := { s with eng := { s.eng with bkOut := out } }
    let s2 := (s1.fset (RF.COMB_ERR_BANK die) 1).journal die 2 ph 5
    match s2.bkSpares die with
    | k :: _ =>
      let s3 := s2.fset (RF.WRK_BMAP_PHYS die (b / 8) (b % 8)) k
      let s4 := (s3.dieRec die 0x8008 ph 1 (s3.unitPay die ph b)).journal die 2 k 1
      if s4.bkSpares die = [] then s4.dieDegraded die else s4
    | [] =>
      let s3 := (s2.fset (RF.WRK_BMAP_PHYS die (b / 8) (b % 8)) 0x7F).fset (RF.WRK_BMAP_EMU die (b / 8) (b % 8)) 1
      let s4 := (s3.dieRec die 0x8008 ph 1 (s3.unitPay die ph b)).journal die 9 b 1
      let s5 := (((s4.dieRec die 0x8203 0 1 []).recap die).dieDegraded
        die).voteFailed die
      let s6 := s5.reevaluate
      if 8 < s6.emuBanks die then s6.dieFailed die else s6

/-! Channels (R344, R345). -/

/-- A failed channel leaves the interleave of its die, whose LPDDR5X is zeroed (R345, R410). -/
def State.mapOut (s : State) (die ch : Nat) : State :=
  let s1 := ((s.fsetBit (RF.MEM_CHMAP_INSVC die) ch false).zeroLpddr die).recap die
  let s2 := (s1.dieRec die 0x8703 (chKey die ch) 1 (memPay die ch 0 0 0 0)).journal die 3 ch 5
  let s3 := s2.reevaluate
  if (s3.chans die).length < 8 then s3.dieFailed die else s3.dieDegraded die

/-- Every failed channel of a die still in its interleave is mapped out. -/
def State.mapOutAll (s : State) (die : Nat) : State :=
  ((s.chans die).filter fun c => s.chFailed die c).foldl (fun (s : State) c => s.mapOut die c) s

end Sys2Proof.Machine
end

