-- ==== Sys2Proof/Machine/MemCmds.lean ====
section
/-! DEFINITION. Events of the LPDDR5X channel homes: accesses, scrubbing, temperature, failure, retirement (R328 to
R347). -/

namespace Sys2Proof.Machine

/-- An error pattern struck on a stored line. -/
def State.strike (s : State) (die ch q : Nat) (err : List (Fin 68 × Byte)) : State :=
  let pat := err.foldl (fun (t : Tbl Nat) e => Tbl.set 0 t e.1.val (Nat.xor (t.get 0 e.1.val) e.2.toNat)) []
  let k := lineKey die ch q
  { s with lp := { s.lp with lineErr := s.lp.lineErr.set [] k (xorPat (s.lp.lineErr.get [] k) pat) } }

/-- LPDDR_SCRUB: a line of a channel in service is read; a corrected line is written back (R330). -/
def execLpddrScrub (die : DieId) (chan : Fin 16) (q : BitVec 27) (err : List (Fin 68 × Byte)) (s : State) :
    Host.Outcome State Fault Refusal :=
  let d := die.val
  let c := chan.val
  .next (if !s.fbit (RF.MEM_CHMAP_INSVC d) c || s.chFailed d c then s
  else match (s.strike d c q.toNat err).readLine d c q.toNat with
    | (s1, true) => s1
    | (s1, false) => s1.memUe d c q.toNat 2)

/-- An access lies within one line below the usable capacity. -/
def State.inLine (s : State) (die off len : Nat) : Bool :=
  decide (0 < len ∧ off % 60 + len ≤ 60 ∧ off + len ≤ s.usable die)

/-- WCB_WRITE: bytes of a transfer within one line reach its home (R334, R335, R344). -/
def execWcbWrite (die : DieId) (off : BitVec 37) (data : Bytes) (tag : Nat) (s : State) :
    Host.Outcome State Fault Refusal :=
  let d := die.val
  .next (if s.inLine d off.toNat data.length then
    let (s1, bad) := s.lineWrite d off.toNat data tag
    s1.markBad d bad
  else s)

/-- WCB_AGE_EVICT: an entry has not been written for WCB_CFG.AGE (R335). -/
def execWcbAgeEvict (die : DieId) (chan : Fin 16) (q : BitVec 27) (s : State) :
    Host.Outcome State Fault Refusal :=
  let d := die.val
  .next (match (s.wcb d chan.val).find? fun e => e.q == q.toNat with
    | some e =>
      let (s1, bad) := s.wcbEvict d chan.val e
      s1.markBad d bad
    | none => s)

/-- HOME_READ: a read within one line reaches its home; `err`: what has struck the line meanwhile (R329, R331,
R338). -/
def execHomeRead (die : DieId) (off : BitVec 37) (len : Fin 61) (err : List (Fin 68 × Byte)) (s : State) :
    Host.Outcome State Fault Refusal :=
  let d := die.val
  .next (if s.inLine d off.toNat len.val then
    let (ch, q) := s.mapLine d off.toNat
    if s.chFailed d ch then s
    else ((s.strike d ch q err).lpRead d off.toNat len.val).1
  else s)

/-! Refresh bands (R342). -/

/-- Band of a temperature, 4 standing for band 3 throttled; lower limit of a band. -/
def bandOf (t : Nat) : Nat := if t ≤ 85 then 1 else if t ≤ 95 then 2 else if t ≤ 105 then 3 else 4
def bandLow (b : Nat) : Nat := if b ≤ 1 then 0 else 65 + 10 * b

/-- The next band: it rises at once and falls only 2 °C below its lower limit. -/
def bandNext (cur t : Nat) : Nat :=
  if cur ≤ bandOf t then bandOf t
  else match [4, 3, 2].find? fun b => decide (b ≤ cur ∧ bandLow b < t + 2) with
    | some b => b
    | none => 1

/-- MR4_POLL: the four channels of a package take the band of its temperature. -/
def execMr4Poll (pkg : Fin 32) (temp : Byte) (s : State) : Host.Outcome State Fault Refusal :=
  let d := pkg.val / 4
  let c0 := 4 * (pkg.val % 4)
  let cur := s.fget (RF.MEM_CH_STAT_BAND d c0) + s.fget (RF.MEM_CH_STAT_THROT d c0)
  let b := bandNext cur temp.toNat
  .next (if b = cur then s
  else
    let s1 := (List.range 4).foldl (fun (s : State) i =>
      (s.fset (RF.MEM_CH_STAT_BAND d (c0 + i)) (min 3 b)).fset (RF.MEM_CH_STAT_THROT d (c0 + i)) (b / 4)) s
    let s2 := if 3 ≤ b then
        s1.dieRec d 0x8705 (chKey d c0) (b - 2) (memPay d c0 6 temp.toNat 0 0) else s1
    s2.reevaluate)

/-! Channel failure (R343, R344). -/

/-- CHANNEL_FAIL: causes 0 training, 1 uncorrectable limit, 2 lock loss. -/
def execChannelFail (chan : Fin 128) (cause : Fin 3) (s : State) : Host.Outcome State Fault Refusal :=
  .next (s.channelFail (chan.val / 16) (chan.val % 16) (3 + cause.val))

/-! Page retirement (R346, R347). -/

/-- Conditions under which a retirement is refused. -/
def State.retireConds (s : State) (d c page : Nat) : List (Bool × Nat) :=
  let ret := s.fget (RF.MEM_CH_STAT_RET d c)
  let rmax := s.fget (RF.MEM_CAP_RMAX d)
  let n := (s.chans d).length
  [(!s.fbit (RF.MEM_CHMAP_INSVC d) c || decide (pagesPerChan - rmax ≤ page), 0x5A03),
   (decide (64 ≤ ret), 0x5A04),
   (decide (rmax ≤ ret ∧ s.usable d < l2Demand s.host.setups d + n * 61440), 0x4002)]

/-- A line's stored error as its copy at the donor has it: corrected, or poisoned. -/
def State.moveLine (s : State) (d c from_ dst : Nat) : State :=
  let e := s.lp.lineErr.get [] (lineKey d c from_)
  let clear := (s.lp.lineErr.del (lineKey d c from_)).del (lineKey d c dst)
  if e = [] then { s with lp := { s.lp with lineErr := clear } }
  else match s.readLine d c from_ with
    | (s1, true) =>
      let left := (s1.lp.lineErr.del (lineKey d c from_)).del (lineKey d c dst)
      { s1 with lp := { s1.lp with lineErr := left } }
    | (s1, false) => { s1 with lp := { s1.lp with lineErr := clear.put (lineKey d c dst) poison } }

/-- A page of PF0's choice is retired. -/
def State.memRetire (s : State) (d c page : Nat) : State :=
  let s0 := (s.fset (RF.MEM_RETIRE_CH d) c).fset (RF.MEM_RETIRE_PAGE d) page
  match pick (s0.retireConds d c page) with
  | some reason =>
    ((s0.fset (RF.MEM_RETIRE_RESULT d) 3).fset (RF.MEM_RETIRE_REASON d) reason).refuseReg reason (Reg.MEM_RETIRE d)
  | none =>
    let ret := s0.fget (RF.MEM_CH_STAT_RET d c)
    let old := s0.lp.remap.get 0 (pageKey d c page)
    let phys := if old = 0 then page else old - 1
    let donor := pagesPerChan - 1 - ret
    let mine := (s0.wcb d c).filter fun e => decide (e.q / 1024 = phys)
    let s1 := mine.foldl (fun (s : State) e =>
      let (s1, bad) := s.wcbEvict d c e
      s1.markBad d bad) s0
    let errs := (s1.lp.lineErr.filter fun e => decide (lineKey d c (phys * 1024) ≤ e.1 ∧
      e.1 < lineKey d c (phys * 1024 + 1024)) || decide (lineKey d c (donor * 1024) ≤ e.1 ∧
      e.1 < lineKey d c (donor * 1024 + 1024))).map fun e => e.1 % 1024
    let s2 := errs.eraseDups.foldl (fun (s : State) i => s.moveLine d c (phys * 1024 + i) (donor * 1024 + i)) s1
    let s3 : State := { s2 with lp := { s2.lp with remap := s2.lp.remap.put (pageKey d c page) (donor + 1) } }
    let s4 := ((s3.fset (RF.MEM_CH_STAT_RET d c) (ret + 1)).recap d).journal d 8 c page
    let s5 := s4.dieRec d 0x8704 (chKey d c) 0 (memPay d c 0 0 0 page)
    let s6 := ((s5.fset (RF.MEM_RETIRE_RESULT d) 2).fset (RF.MEM_RETIRE_REASON d) 0).isum 13
    if s6.usable d < s.usable d then s6.reevaluate else s6

/-- MEM_RETIRE: only PF0 may ask (R347). -/
def execMemRetire (fn : FnId) (die : DieId) (chan : Fin 16) (page : BitVec 17) (s : State) :
    Host.Outcome State Fault Refusal :=
  .next (if fn.val ≠ 0 then s.refuseReg 0x6B04 (Reg.MEM_RETIRE die.val)
  else s.memRetire die.val chan.val page.toNat)

end Sys2Proof.Machine
end

