-- ==== Sys2Proof/Machine/UnitOps.lean ====
section
/-! DEFINITION. Faulted matrix arrays and matrix-vector engines: withdrawal, take-over, fold, return (R98 to R102,
R108, R160). -/

namespace Sys2Proof.Machine

/-! Arrays. -/

/-- State of a physical array (R99): 0 UNTESTED, 1 IN_SERVICE, 2 SPARE, 3 SELF_TEST, 4 FENCED, 5 RETIRED,
6 FOLD_HOST. -/
def State.arrSt (s : State) (die p : Nat) : Nat := s.fget (RF.ARR_PHYS_STATE_STATE die p)
def State.setArrSt (s : State) (die p v : Nat) : State := s.fset (RF.ARR_PHYS_STATE_STATE die p) v

/-- Physical array behind a logical one; logical arrays behind which a physical one stands. -/
def State.arrPhys (s : State) (die l : Nat) : Nat := s.fget (RF.ARR_LMAP_PHYS die l)
def State.arrBacks (s : State) (die p : Nat) : List Nat :=
  (List.range 6).filter fun l => decide (s.arrPhys die l = p)

/-- A physical array runs commands. -/
def State.arrRuns (s : State) (die p : Nat) : Bool := decide (s.arrSt die p = 1 ∨ s.arrSt die p = 6)

/-- SPARE_USED and FOLDED_ANY (R102). -/
def State.arrFlags (s : State) (die : Nat) : State :=
  (s.fset (RF.ARR_STAT_SPARE_USED die) (b2n ((List.range 7).all fun p => decide (s.arrSt die p ≠ 2)))).fset
    (RF.ARR_STAT_FOLDED_ANY die) (b2n (decide (s.fget (RF.ARR_LMAP_FOLDED die) ≠ 0)))

/-- Physical arrays of a die that run commands or could. -/
def State.arrInSvc (s : State) (die : Nat) : Nat :=
  ((List.range 7).filter fun p => s.arrRuns die p || decide (s.arrSt die p = 2)).length

/-- Payload of the array records (R102). -/
def arrPay (p l region cause column entry tile : Nat) : Bytes :=
  pay [(1, p), (1, l), (1, region), (1, cause), (2, column), (2, entry), (4, tile)]

/-- A die is DEGRADED while some kind of unit has no spare left, or a fold, emulation or map-out stands (R402). -/
def State.dieShort (s : State) (die : Nat) : Bool :=
  decide (s.fget (RF.ARR_STAT_SPARE_USED die) = 1) || decide (s.fget (RF.ARR_STAT_FOLDED_ANY die) = 1) ||
    (s.clSpares die).isEmpty || (s.bkSpares die).isEmpty || decide (0 < s.emuBanks die) ||
    s.eng.clFold.any (fun e => decide (e.1 / 32 = die)) || decide ((s.chans die).length < 16)

/-- OK or DEGRADED, as the die's units now stand. -/
def State.dieReview (s : State) (die : Nat) : State :=
  if s.dieState die < 2 then s.setDieState die (b2n (s.dieShort die)) else s

/-- Every command in a logical array's queue completes FENCED; the array is as after reset (R100). -/
def State.arrFence (s : State) (die l : Nat) : State :=
  let q := (s.arr die l).queue
  let s1 := (s.setArr die l {}).arrBusy die l
  q.foldl (fun (s : State) j => s.completeCmd j.core j.seq stFENCED 0 (if j.started then j.nflags else 0)) s1

/-- A logical array gets a physical one: the lowest spare, else the lowest IN_SERVICE one as its fold host (R100,
R101). -/
def State.arrPlace (s : State) (die l : Nat) : State :=
  match (List.range 7).find? fun p => decide (s.arrSt die p = 2) with
  | some p =>
    let s1 := ((s.setArrSt die p 1).fset (RF.ARR_LMAP_PHYS die l) p).fsetBit (RF.ARR_LMAP_FOLDED die) l false
    (s1.dieRec die 0x8103 p 1 (arrPay p l 0 0 0 0 0)).journal die 0 p 1
  | none =>
    match (List.range 7).find? fun p => decide (s.arrSt die p = 1) with
    | some p =>
      let s1 := ((s.setArrSt die p 6).fset (RF.ARR_LMAP_PHYS die l) p).fsetBit (RF.ARR_LMAP_FOLDED die) l true
      (s1.dieRec die 0x8104 p 1 (arrPay p l 0 0 0 0 0)).journal die 0 p 6
    | none => s

/-- A physical array leaves service: FENCED until its logical arrays have moved, then in its self-test (R100).
DESIGN CHOICE: R100 speaks of one logical array; a residue fault on a FOLD_HOST fences, flags and moves both that it
backs, the lowest-numbered first, which takes the spare (log entry 50), and ARR_LMAP.PHYS reads 0xF for a logical
array that no physical one backs (log entry 51). -/
def State.arrWithdraw (s : State) (die p : Nat) : State :=
  if !s.arrRuns die p then s
  else
    let ls := s.arrBacks die p
    let s1 := ls.foldl (fun (s : State) l => s.fsetBit (RF.ARR_STAT_FAULT die) l true) (s.setArrSt die p 4)
    let s2 := ls.foldl (fun (s : State) l => s.arrFence die l) (s1.voteFailed die)
    let s3 := ls.foldl (fun (s : State) l => s.fset (RF.ARR_LMAP_PHYS die l) 0xF) s2
    let s4 := ((ls.foldl (fun (s : State) l => s.arrPlace die l) s3).setArrSt die p 3).arrFlags die
    let s5 := ((s4.recap die).journal die 0 p 4).dieReview die
    let s6 := s5.reevaluate
    if s6.arrInSvc die < 3 then s6.dieFailed die else s6

/-- Residue faults of a unit within the return window number fewer than the limit, and return is enabled (R99). -/
def State.mayReturn (s : State) (die k : Nat) : Bool :=
  let w := s.fget (RF.ARR_FLT_CTRL_WINDOW die) * 60000000000
  let n := ((s.eng.faults.get [] (die * 8 + k)).filter fun t => decide (s.clk < t + w)).length
  decide (s.fget (RF.ARR_FLT_CTRL_RETURN_EN die) = 1) && decide (n < s.fget (RF.ARR_FLT_CTRL_LIMIT die))

/-- A residue fault of a unit at the present time. -/
def State.noteFault (s : State) (die k : Nat) : State :=
  let l := s.eng.faults.get [] (die * 8 + k)
  { s with eng := { s.eng with faults := s.eng.faults.put (die * 8 + k) (l ++ [s.clk]) } }

/-- A tested array becomes SPARE, or is RETIRED (R100 step 6). -/
def State.arrVerdict (s : State) (die p : Nat) (pass : Bool) : State :=
  let s1 := if pass && s.mayReturn die p then s.setArrSt die p 2
    else ((s.setArrSt die p 5).dieRec die 0x8105 p 2 (arrPay p 0xFF 0 0 0 0 0)).journal die 0 p 5
  (s1.arrFlags die).dieReview die

/-! The matrix-vector engine (R108). -/

/-- The engine leaves service: its commands run on the arrays while it tests itself. -/
def State.mveWithdraw (s : State) (die : Nat) : State :=
  let s1 := (((s.fset (RF.MVE_STAT_FAULT die) 1).fset (RF.MVE_STAT_ON_ARRAYS die) 1).voteFailed die)
  match s1.eng.mveq.get [] die with
  | j :: t =>
    if j.started then ((s1.setMveq die t).completeCmd j.core j.seq stFENCED 0 j.nflags).mveRun die else s1
  | [] => s1

/-- A matrix-vector engine fails its self-test. -/
def State.mveBad (s : State) (d : Nat) : State :=
  if s.fget (RF.MVE_STAT_RETIRED d) = 1 then s
  else
    let s1 := (s.fset (RF.MVE_STAT_RETIRED d) 1).fset (RF.MVE_STAT_ON_ARRAYS d) 1
    (s1.dieRec d 0x8107 0 2 (arrPay 0xFF 0 0 0 0 0 0)).journal d 7 0 5

/-! Known-answer tests of the generators (R160). -/

/-- A generator fails its known-answer test: RNG_KAT_FAIL, and its unit is retired in the defect map (R160, R404). -/
def State.katFail (s : State) (d e u : Nat) : State :=
  let s1 := (s.fset (RF.RNG_STAT_KAT_OK d) 0).dieRec d 0x8205 u 2 []
  if e = 0 then (if 7 ≤ u ∨ s1.arrSt d u = 5 then s1 else (s1.arrWithdraw d u).arrVerdict d u false)
  else if e = 1 then s1.mveBad d
  else (s1.takeoverStart d u).takeoverTry d u

/-- Known-answer tests of a die's generators: KAT_OK where every one passes (R160). -/
def State.katUp (s : State) (d : Nat) (bad : List (Nat × Nat)) : State :=
  if bad = [] then s.fset (RF.RNG_STAT_KAT_OK d) 1
  else bad.foldl (fun (s : State) x => s.katFail d x.1 x.2) s

end Sys2Proof.Machine
end

