-- ==== Sys2Proof/Machine/PartOps.lean ====
section
/-! DEFINITION. Reset of units: core, cluster and partition resets, dies held in reset, and what goes on by itself
(R160, R345, R408 to R412, R438). -/

namespace Sys2Proof.Machine

/-! Core and cluster resets (R408 to R410, R412). -/

/-- A core stops for a reset: its kernel will complete HOST_ABORT, its issued commands drain unseen; `kat`: its
generators will fail their known-answer test. -/
def State.coreResetStart (s : State) (core : Nat) (kat : Bool) : State :=
  let mine := decide (s.capState (dieOf core) ≠ 0) && (s.dieCap (dieOf core)).binders.contains core
  let s1 := (if mine then s.voteFailed (dieOf core) else s).stopCore core stHOSTABORT
  s1.setCoreRec core { s1.coreRec core with resetting := true, katBad := kat }

/-- A core leaves its reset: its kernel completes, and it is IDLE; an unfenced one is released by it (R441). -/
def State.coreResetEnd (s : State) (core : Nat) : State :=
  let s1 := (s.setCoreRec core { s.coreRec core with resetting := false }).kernelTryEnd core
  let left := if s1.saf.cores.get 0 core = 2 then s1.saf.cores.del core else s1.saf.cores
  let s2 : State := { s1 with saf := { s1.saf with cores := left } }
  (s2.setCoreRec core {}).coreIdle core

/-- A unit of a die is held by a run of an IJTAG instrument (R466). -/
def State.tapHolds (s : State) (die : Nat) : Bool :=
  match s.tap.run with
  | some (t, _, _) => decide (t = die + 1)
  | none => false

/-- A core reset completes once its commands have drained and no take-over of its cluster runs; a failed
known-answer test withdraws the cluster (R160, R404). -/
def State.coreResetTry (s : State) (core : Nat) : State :=
  let die := dieOf core
  let c := core % 256 / 8
  let r := s.coreRec core
  if r.resetting ∧ r.outst = [] ∧ s.clDraining die c = 0 ∧ s.dieState die ≠ 3 ∧ !s.tapHolds die then
    (((s.coreResetEnd core).katUp die (if r.katBad then [(2, s.clPhys die c)] else [])).resetRec die
      (s.clPhys die c) c 0 s.boot.goAt).resetOk
  else s

/-- A cluster reset completes once its cores have drained; a failed self-test or known-answer test withdraws the
cluster, and the reset waits for the take-over (R404, R410, R412). -/
def State.clResetTry (s : State) (die c : Nat) : State :=
  let v := s.clDraining die c
  if bitN v 1 ∧ !bitN v 0 ∧ s.drained (clCores die c) ∧ s.dieState die ≠ 3 ∧ !s.tapHolds die then
    if bitN v 3 then (s.setClDrain die c 2).katFail die 2 (s.clPhys die c)
    else if bitN v 2 then (s.setClDrain die c 2).clTakeover die c
    else
      let s1 := (clCores die c).foldl (fun (s : State) k => s.coreResetEnd k) (s.setClDrain die c 0)
      ((s1.katUp die []).resetRec die (s1.clPhys die c) c 1 s1.boot.goAt).resetOk
  else s

/-- Conditions under which QN_RESET is refused for cores of a die (R412, R420). -/
def State.coreRstConds (s : State) (die : Nat) (cores : List Nat) : List (Bool × Nat) :=
  let o := s.owner die
  [(decide (s.dieState die = 2) || decide (s.saf.dies.get 0 die = 1), 0x5C01),
   (decide (o ≠ 0) && s.partBusy (o - 1), 0x5C04),
   (cores.any fun c => decide (s.coreState c = csFENCED) && decide (s.saf.cores.get 0 c ≠ 2), 0x5C04)]

/-- A reset asked for through QN_RESET starts, or is refused (R408, R412). -/
def State.resetGo (s : State) (cs : List (Bool × Nat)) (f : State → State) : State :=
  if s.fget RF.QN_RESET_RESULT = 1 then s.refuseReg 0x5C04 Reg.QN_RESET
  else match pick cs with
  | some reason => ((s.fset RF.QN_RESET_RESULT 3).fset RF.QN_RESET_REASON reason).refuseReg reason Reg.QN_RESET
  | none =>
    let s1 := (s.fset RF.QN_RESET_RESULT 1).fset RF.QN_RESET_REASON 0
    f { s1 with boot := { s1.boot with goAt := s1.clk } }

/-- A core reset. -/
def State.coreReset (s : State) (core : Nat) (kat : Bool) : State :=
  s.resetGo (s.coreRstConds (dieOf core) [core]) fun s => s.coreResetStart core kat

/-- A cluster reset; `bad`: its self-test fails; `kat`: its known-answer test fails. -/
def State.clusterReset (s : State) (die c : Nat) (bad kat : Bool) : State :=
  s.resetGo (s.coreRstConds die (clCores die c)) fun s =>
    let s1 := (clCores die c).foldl (fun (s : State) k => s.coreResetStart k false) s
    s1.setClDrain die c (s1.clDraining die c + 2 + 4 * b2n bad + 8 * b2n kat)

/-! Dies in reset (R409, R410, R438). -/

/-- Commands of a die's engines that a test does not keep leave their queues. -/
def State.dropJobs (s : State) (die : Nat) (keep : Job → Bool) : State :=
  let s1 := (List.range 6).foldl (fun (s : State) a =>
    let r := s.arr die a
    (s.setArr die a { r with queue := r.queue.filter keep }).arrBusy die a) s
  let s2 := (s1.setMveq die ((s1.eng.mveq.get [] die).filter keep)).mveBusy die
  let s3 := (List.range 4).foldl (fun (s : State) e => s.setCeQ die e ((s.ceQ die e).filter keep)) s2
  let s4 : State := { s3 with eng := { s3.eng with pfq := s3.eng.pfq.del die } }
  s4.setUpdQ die []

/-- Cores of a die that have run. -/
def State.coresOf (s : State) (die : Nat) : List Nat :=
  (s.core.cores.map fun e => e.1).filter fun c => decide (dieOf c = die)

/-- The cores of a die enter IDLE with nothing issued; those held by FENCE_CORE stay FENCED. -/
def State.coresClear (s : State) (die : Nat) : State :=
  let cores := s.core.cores.drop fun c => decide (dieOf c = die)
  let lo := Reg.WRK_CORE_STATE die 0
  let s1 : State := { s with core := { s.core with cores := cores },
                             regs := s.regs.drop fun k => decide (lo ≤ k ∧ k < lo + 256) }
  let left := s1.saf.cores.filter fun e => !decide (dieOf e.1 = die ∧ e.2 = 2)
  (left.filter fun e => decide (dieOf e.1 = die)).foldl (fun (s : State) e =>
    s.setCoreState e.1 csFENCED) { s1 with saf := { s1.saf with cores := left } }

/-- Counters and barrier units of a die are zeroed. -/
def State.countersClear (s : State) (die : Nat) : State :=
  let lo := Reg.WRK_CNT die 0
  { s with core := { s.core with bars := s.core.bars.drop fun k => decide (k / 32 = die) },
           regs := s.regs.drop fun k => decide (lo ≤ k ∧ k < lo + 8192) }

/-- A die enters reset: its port absorbs cells, QN_DIE_MAP shows RESETTING (R248, R410). -/
def State.dieEnter (s : State) (die : Nat) : State :=
  if s.dieState die = 3 then s
  else
    let s1 : State := { s with boot := { s.boot with dieWas := s.boot.dieWas.set 0 die (s.dieState die) } }
    s1.setDieState die 3

/-- A die leaves reset in the state it had before, unless it has failed or FENCE_DIE holds it. -/
def State.dieLeave (s : State) (die : Nat) : State :=
  let was := s.boot.dieWas.get 0 die
  if s.dieState die ≠ 3 ∨ s.saf.dies.get 0 die = 1 then s
  else
    let s1 : State := { s with boot := { s.boot with dieWas := s.boot.dieWas.del die },
                               saf := { s.saf with dies := s.saf.dies.del die } }
    s1.setDieState die was

/-- The OPEN slot of a die's cap is discarded without rollback and the cap goes; QN_DIE_MAP.LOST is set where
the state is not a committed one (R410, R438). -/
def State.capDiscard (s : State) (die : Nat) (lost : Bool) : State :=
  let s1 := match (s.dieCap die).slot with
    | some k =>
      let t := s.freeSlot die k
      t.setSess (s.owner die - 1) ((t.sess (s.owner die - 1)).dropSlot die k)
    | none => s
  let s2 := (s1.setDieCap die {}).setReg (Reg.CAP_DIE_STAT die) 0
  if lost then s2.fsetBit RF.QN_DIE_MAP_LOST die true else s2

/-- A cap in doubt at the end of a partition reset: a die that voted ready discards its slot, one whose vote
makes the cap abort rolls it back (R410). -/
def State.capGiveUp (s : State) (die : Nat) : State :=
  if s.capState die ≠ 4 then s
  else if s.capVote die = 1 then s.capDiscard die true
  else
    let s1 := match (s.dieCap die).slot with
      | some k => s.rollback die k
      | none => s
    s1.capDiscard die false

/-! Partition reset (R409, R410, R412). -/

/-- Issue stops on a die and its commands not started are discarded; it votes failed. -/
def State.dieStop (s : State) (die : Nat) : State :=
  let s1 := (s.coresOf die).foldl (fun (s : State) c =>
    let t := s.stopCore c stHOSTABORT
    t.setCoreRec c { t.coreRec c with resetting := true, launch := none, sigs := [] }) (s.dieEnter die)
  (s1.dropJobs die fun j => j.started).voteFailed die

/-- Sampler contexts and waiting parts of a JOB go without results (R169, R409). -/
def State.smpClear (s : State) (job : Nat) : State :=
  s.setSmp fun x => { x with ctxs := x.ctxs.filter (fun c => c.job != job),
                             waiting := x.waiting.filter (fun c => c.job != job),
                             orphans := x.orphans.filter fun p => p.job.toNat != job }

/-- Step 1 of R410. `flr`: a function-level reset asks; otherwise QN_RESET. `kat`: units that will fail their
known-answer test in step 5. -/
def State.partResetStart (s : State) (p : Nat) (flr : Bool) (kat : List (Nat × Nat × Nat)) : State :=
  let x := s.part p
  if s.fget (RF.HIVE_PART_RESET p) = 1 then s.setPart p { x with rstFlr := x.rstFlr || flr }
  else
    let s1 := (s.ringsOf (p + 1)).foldl (fun (s : State) n => s.ringDrop n) s
    let x1 : PartSt :=
      { x with reset := true, rstFlr := flr, rstReg := !flr, rstAt := s.clk, katBad := kat }
    let s2 := (s1.setPart p x1).fset (RF.HIVE_PART_RESET p) 1
    let s3 := (s2.diesOf (p + 1)).foldl (fun (s : State) d => s.dieStop d) s2
    s3.smpClear (s.fget (RF.HIVE_PART_JOB p))

/-- Steps 2 and 3 of R410 are over: started commands have drained, every transfer has ended, every cap is
decided and carried out, or in doubt at CAPTO; no take-over and no instrument run holds a die. -/
def State.partDrained (s : State) (p : Nat) : Bool :=
  (s.diesOf (p + 1)).all fun d =>
    (List.range 6).all (fun a => (s.arr d a).queue.isEmpty) && (s.eng.mveq.get [] d).isEmpty &&
      (List.range 4).all (fun e => (s.ceQ d e).isEmpty) &&
      s.fab.xfers.all (fun e => decide (e.1 / 65536 ≠ d) || e.2.keep) &&
      (s.fab.idWait.get [] d).all (fun x => x.keep) &&
      decide (s.capState d = 0 ∨ s.capState d = 4) && !s.tapHolds d &&
      s.eng.clDrain.all fun e => decide (e.1 / 32 ≠ d)

/-- PGEN of a die advances by 1 modulo 256 (R140, R410). -/
def State.pgenUp (s : State) (die : Nat) : State :=
  let s1 := s.fset (RF.FAB_NI_CFG_PGEN die) (s.diePgen die + 1)
  { s1 with saf := { s1.saf with pgenAt := s1.saf.pgenAt.put die (s1.clk + 1) } }

/-- A die of a partition at the end of its reset (R410 steps 3 to 5). -/
def State.dieResetEnd (s : State) (d : Nat) (kat : List (Nat × Nat)) : State :=
  let s1 := (((s.capGiveUp d).zeroSram d).countersClear d).dieLeave d
  let s2 := (s1.mapOutAll d).pgenUp d
  let s3 := ((s2.setRx d []).coresClear d).katUp d kat
  let orphans := s3.fab.orphans.del d
  let parts := s3.smp.parts.filter fun r => decide (dieOf r.core ≠ d)
  { s3 with fab := { s3.fab with orphans := orphans }, smp := { s3.smp with parts := parts } }

/-- The set-ups, groups and swarm ops of a function leave; a TRAIN set-up keeps its W while slots of the
partition are being sent (R409). -/
def State.setupsClear (s : State) (fn : Nat) : State :=
  let x := s.sess (fn - 1)
  let w := if x.slots.any (fun v => v.sending) then s.wOf fn else 0
  let s1 := s.setSess (fn - 1) { x with keepW := w }
  let mine := s1.host.setups.filter fun u => u.fn == fn
  let s2 := mine.foldl (fun (s : State) u => s.setupRemove u) s1
  let ops := s2.swm.ops.filter fun o => !decide (o.job = s2.jobOf fn)
  let s3 : State := { s2 with swm := { s2.swm with ops := ops } }
  s3.segDrop fun g => decide (g.job = s3.jobOf fn)

/-- The end of a partition reset. -/
def State.partResetEnd (s : State) (p : Nat) : State :=
  let x := s.part p
  let s1 := (s.diesOf (p + 1)).foldl (fun (s : State) d => s.dieResetEnd d (x.katBad.filterMap fun k =>
    if k.1 = d then some k.2 else none)) s
  let s2 := (s1.setupsClear (p + 1)).fset (RF.HIVE_PART_RESET p) 0
  let s3 := s2.setPart p { s2.part p with reset := false, rstFlr := false, rstReg := false, katBad := [] }
  let s4 := (s3.wortRelease p).resetRec 0xFF 0xFF p 2 x.rstAt
  if x.rstReg then s4.resetOk else s4

def State.partResetTry (s : State) (p : Nat) : State :=
  if s.fget (RF.HIVE_PART_RESET p) = 1 ∧ s.partDrained p then s.partResetEnd p else s

/-- A partition reset asked for through QN_RESET (R408, R412). -/
def State.partReset (s : State) (p : Nat) (kat : List (Nat × Nat × Nat)) : State :=
  s.resetGo [(!s.partOn p, 0x5C01), (s.partBusy p, 0x5C04)] fun s => s.partResetStart p false kat

/-! What goes on by itself. -/

/-- A port that has powered down, within 100 ns, is LULLED (R319). -/
def State.lullSettle (s : State) (p : Nat) : State :=
  if s.fget (RF.OPT_PORT_STAT_LSUB p) = 3 ∧ (s.link p).entryAt + 100 ≤ s.clk then s.fset (RF.OPT_PORT_STAT_LSUB p) 4
  else s

/-- A bank 4 or more of whose words have been read uncorrectable within 1 s fails and is taken over (R406). -/
def State.banksSettle (s : State) : State :=
  s.lp.bankUe.foldl (fun (s : State) e =>
    if 4 ≤ e.2.length then
      let s1 : State := { s with lp := { s.lp with bankUe := s.lp.bankUe.del e.1 } }
      match (List.range 64).find? fun b => decide (s1.physBank (e.1 / 66) b = e.1 % 66) with
      | some b => s1.bankTakeover (e.1 / 66) b
      | none => s1
    else s) s

/-- Failed banks are taken over, take-overs and resets whose work has drained go on, and ports that enter LULL (log
entry 4). -/
def State.settle (s0 : State) : State :=
  let s := s0.banksSettle
  let s1 := s.eng.clDrain.foldl (fun (s : State) e =>
    if bitN (s.eng.clDrain.get 0 e.1) 0 then s.takeoverTry (e.1 / 32) (s.clPhys (e.1 / 32) (e.1 % 32)) else s) s
  let s2 := s1.eng.clDrain.foldl (fun (s : State) e => s.clResetTry (e.1 / 32) (e.1 % 32)) s1
  let s3 := s2.core.cores.foldl (fun (s : State) e => s.coreResetTry e.1) s2
  let s4 := (List.range 8).foldl (fun (s : State) p => s.partResetTry p) s3
  (List.range 32).foldl (fun (s : State) p => s.lullSettle p) s4

/-- The block idles: what has drained goes on, and one nanosecond passes (log entry 4). -/
def State.idle (s : State) : State := s.settle.tick

end Sys2Proof.Machine
end

