-- ==== Sys2Proof/Machine/BootOps.lean ====
section
/-! DEFINITION. Restarts of the module: what a reset and a loss of the rails keep, retained records, and the five
phases of bring-up (R386 to R401, R411, R413 to R417). -/

namespace Sys2Proof.Machine

/-! Registers at a restart (R10, R413). -/

/-- Bits of a register's fields that satisfy `p`. -/
def RegDef.mask (r : RegDef) (p : RField → Bool) : Word64 :=
  r.fields.foldl (fun (m : Word64) f => if p f then putFld m f.lo f.w (2 ^ f.w - 1) else m) 0

/-- The mask of the register at an offset. -/
def maskAt (p : RField → Bool) (off : Nat) : Word64 :=
  match regAt off with
  | some (r, _) => r.mask p
  | none => 0

/-- Bits of `v` where the mask stands, of `c` elsewhere. -/
def mixBits (m v c : Word64) : Word64 := (v &&& m) ||| (c &&& ~~~m)

/-- Every register as a reset leaves it that keeps the fields satisfying `p`, which also sees the offset. -/
def State.resetRegs (s : State) (p : Nat → RField → Bool) : State :=
  { s with regs := s.regs.filterMap fun e =>
      let v := mixBits (maskAt (p e.1) e.1) e.2 (coldOf e.1)
      if v = coldOf e.1 then none else some (e.1, v) }

/-- Fields a module reset keeps: those whose warm-reset column says so. -/
def RField.keptWarm (f : RField) : Bool := f.coldKept || f.warmKept

/-- Fields that show the result of the memory training: MEM_CAP and MEM_CHMAP.INSVC are 0 until it completes (R348). -/
def RField.untilTrained (off : Nat) (f : RField) : Bool :=
  (List.range 8).any fun d => decide (off = Reg.MEM_CAP d) || decide (off = Reg.MEM_CHMAP d ∧ f.lo = 0)

/-- Fields that a loss of the rails keeps: what the AON domain holds, the settings and links of the management
ports among it; and the defect map and life counters, which flash holds within 2 ms (R407, R413, R424, R434). -/
def RField.keptPower (off : Nat) (f : RField) : Bool :=
  f.coldKept || (f.warmKept && decide (f.acc = .ro) && !f.untilTrained off) || decide (off = Reg.LOG_STAT ∧ f.lo = 36) ||
    [Reg.LOG_MGMT_CFG, Reg.LOG_MGMT_DST 0, Reg.LOG_MGMT_DST 1, Reg.HIVE_MGIPH 0, Reg.HIVE_MGIPH 1,
      Reg.HIVE_MGIPL 0, Reg.HIVE_MGIPL 1, Reg.HIVE_MGGW 0, Reg.HIVE_MGGW 1].contains off

/-- Settings that the retained record holds (R413). -/
def RField.retained (f : RField) : Bool :=
  f.warmKept && !f.coldKept && (decide (f.acc = .rw) || decide (f.acc = .rwl))

/-! Retained records (R413 to R417). -/

/-- The newest valid record; true for slot B. -/
def BootSt.newest (b : BootSt) : Option (Bool × RetRec) :=
  match b.slotA, b.slotB with
  | some x, some y => if serialNewer 32 x.seq y.seq then some (true, y) else some (false, x)
  | some x, none => some (false, x)
  | none, some y => some (true, y)
  | none, none => none

/-- The slot a store programs: the one that does not hold the newest valid record; true for slot B (R415). -/
def BootSt.target (b : BootSt) : Bool :=
  match b.newest with
  | some (slot, _) => !slot
  | none => false

def BootSt.setSlot (b : BootSt) (slot : Bool) (r : Option RetRec) : BootSt :=
  if slot then { b with slotB := r } else { b with slotA := r }

/-- Settings of the module as a record holds them. -/
def State.retainedRegs (s : State) : Tbl Word64 :=
  s.regs.filterMap fun e =>
    let m := maskAt RField.retained e.1
    let v := mixBits m e.2 (coldOf e.1)
    if v = coldOf e.1 then none else some (e.1, v)

/-- The record of what is current. -/
def State.capture (s : State) (seq : Nat) : RetRec :=
  { seq := seq, regs := s.retainedRegs, wire := s.boot.wire, temps := s.boot.temps, rate := s.lp.trainedRate,
    jseq := s.boot.jseq, key := s.saf.key, nonce := s.fget RF.SAF_MGNONCE_NONCE, lasers := s.opt.lasers,
    eq := (List.range 40).filter fun p => (s.link p).eqHeld }

/-- QN_RETAIN shows which slots are valid and the newest record. -/
def State.retainShow (s : State) : State :=
  let b := s.boot
  let s1 := (s.fset RF.QN_RETAIN_A_OK (b2n b.slotA.isSome)).fset RF.QN_RETAIN_B_OK (b2n b.slotB.isSome)
  match b.newest with
  | some (slot, r) => (s1.fset RF.QN_RETAIN_SEQ r.seq).fset RF.QN_RETAIN_SLOT (b2n slot)
  | none => s1

/-- A running store ends without a header on its target (R417). -/
def State.storeLost (s : State) : State :=
  if s.fget RF.QN_RETAIN_BUSY = 1 then
    let boot := s.boot.setSlot s.boot.target none
    ({ s with boot := { boot with retry := false } } : State).retainShow
  else s

/-- A store ends (R415): `ok` tells whether the target read back. The first record's SEQ is a free value. -/
def State.storeEnd (s : State) (ok : Bool) : State :=
  let t := s.boot.target
  if ok then
    let (seq, s1) := match s.boot.newest with
      | some (_, r) => ((r.seq + 1) % 2 ^ 32, s)
      | none => (s.freshVal.toNat % 2 ^ 32, s.drawn)
    let boot := s1.boot.setSlot t (some (s1.capture seq))
    let s2 : State := { s1 with boot := { boot with retry := false, journal := [] } }
    (s2.retainShow.fset RF.QN_RETAIN_BUSY 0).isum 6
  else
    let again := !s.boot.retry
    let boot := s.boot.setSlot t none
    let s1 := ({ s with boot := { boot with retry := again } } : State).retainShow
    let s2 := (s1.fset RF.QN_RETAIN_FAIL 1).hiveRec 0x800B 0 2 (s1.qnPay 0xFF (b2n t) 0 0)
    (s2.fset RF.QN_RETAIN_BUSY (b2n again)).isum 6

/-- The queen starts a store. -/
def State.storeStart (s : State) : State := s.fset RF.QN_RETAIN_BUSY 1

/-! Restarts (R411, R417, R424, R430, R434). -/

/-- Lasers after a restart: one that was tuning or handing over is UNTESTED (R395); bias and monitor power take their
reset values (R322). -/
def restartLaser (r : LaserRec) : LaserRec :=
  let r1 := { r with bias := 0, mpd := 0x8000 }
  if r.st = 3 ∨ r.st = 4 then { r1 with st := 0, slot := 0xFF } else r1

/-- A cold start leaves every laser that is not RETIRED UNTESTED, in no slot (R305, R322). -/
def State.lasersCold (s : State) : State :=
  let lasers := (s.opt.lasers.map fun e =>
    (e.1, if e.2.st = 6 then e.2 else { e.2 with st := 0, slot := 0xFF })).filter fun e => !decide (e.2 = {})
  { s with opt := { s.opt with lasers := lasers } }

/-- What every restart clears: queues, engines, caps, links, rings, sessions and the log; registers keep the
fields of `keep`. -/
def State.restart (s : State) (keep : Nat → RField → Bool) (cold byReset : Bool) : State :=
  let s0 : State := { s.storeLost with core := {} }
  let s1 := s0.eng.clDrain.foldl (fun (s : State) e =>
    if bitN e.2 0 then s.takeoverTry (e.1 / 32) (s.clPhys (e.1 / 32) (e.1 % 32)) else s) s0
  let s2 := ((List.range 8).foldl (fun (s : State) d => s.dieLeave d) s1).resetRegs keep
  let eng : EngSt := { clOut := s2.eng.clOut, clFold := s2.eng.clFold, bkOut := s2.eng.bkOut,
                       faults := s2.eng.faults, sramErr := s2.eng.sramErr }
  let lp := { s2.lp with wcb := [] }
  let lasers := (s2.opt.lasers.map fun e => (e.1, restartLaser e.2)).filter fun e => !decide (e.2 = {})
  let opt := { s2.opt with lasers := lasers, takes := [], dlane := [], cut := [] }
  let boot := { s2.boot with t0 := s2.clk, cold := cold, byReset := byReset, sramUp := false, temps := [],
                             peerOver := false, wire := [], goAt := s2.clk, selfFenced := false, combIn := [],
                             comb := [] }
  let saf := { s2.saf with stage := [], hot := [], cores := [], coreAt := [], resetWait := false }
  let log : LogSt := { mirror := s2.log.mirror, aseq := s2.log.aseq, lgLeft := s2.log.lgLeft }
  let host : HostSt := { nextHandle := s2.host.nextHandle }
  let tim := { s2.tim with loaded := false, misaligned := false }
  let s3 : State := { s2 with eng := eng, smp := {}, upd := { lost := s2.upd.lost }, swm := {}, cap := {},
                              lp := lp, log := log, fab := {}, opt := opt, host := host, wort := {}, boot := boot,
                              saf := saf, pwr := { s2.pwr with pins := [] }, tap := {}, tim := tim }
  s3.fset RF.SAF_FENCE_CTL_TBL_USED saf.fence.length

/-- The hold of R438: every die in reset until UNFENCE_MOD of this module. -/
def State.selfHold (s : State) : State :=
  (List.range 8).foldl (fun (s : State) d => s.dieEnter d) { s with boot := { s.boot with selfFenced := true } }

/-- A module reset (R411): GOING_DOWN goes out on every UP port, every engine stops, and bring-up runs from phase
0, unless a fence of this module holds it there. `byReg`: QN_RESET asked for it. -/
def State.moduleReset (s : State) (cold byReg : Bool) : State :=
  let s1 := ((List.range 40).filter fun p => decide (s.portState p = 3)).foldl (fun (s : State) p =>
    s.sendCtl p 0 true) s
  let s2 := s1.restart (fun off f => f.keptWarm && !(cold && f.untilTrained off)) cold true
  let s3 := if s.boot.selfFenced then s2.selfHold else s2
  if byReg then s3.fset RF.QN_RESET_RESULT 1 else s3

/-- The rails turn off: what they fed loses its contents; LOG_STAT.SSTATE as given (R417, R424, R449). -/
def State.railsOff (s : State) (sstate : Nat) : State :=
  let saf := { s.saf with fence := [], dies := [] }
  let s1 := ({ s with saf := saf } : State).restart RField.keptPower false false
  let s2 : State := { s1 with mem := [], eng := { s1.eng with sramErr := [] }, lp := { s1.lp with lineErr := [] },
                              pwr := { s1.pwr with rails := false } }
  s2.fset RF.LOG_STAT_SSTATE sstate

/-- Power good: the AON domain runs, the rails rise, and bring-up begins (R392, R449 to R451). -/
def State.powerOn (s : State) : State :=
  let s1 : State := { s with pwr := { s.pwr with aon := true, rails := true, down := false },
                             tim := { s.tim with ts := 0, loaded := false, misaligned := false },
                             boot := { s.boot with t0 := s.clk, cold := false, byReset := false } }
  s1.fset RF.LOG_STAT_SSTATE 0

/-! Bring-up (R387 to R395). -/

/-- Bring-up stops (R388). -/
def State.bootStop (s : State) (code : Nat) : State :=
  let s1 := (s.fset RF.QN_BOOT_STAT_PHASE 7).fset RF.QN_BOOT_STAT_STOPCODE code
  (s1.hiveRec 0x8002 0 3 (s1.qnPay 0xFF 0 0 code)).lastGasp 7 code

/-- The image the boot ROM takes: (slot B, sequence, version), and whether it is the older one under R390. -/
def BootSt.image (b : BootSt) : Option (Bool × Nat × Nat × Bool) :=
  match b.imgA, b.imgB with
  | some x, some y =>
    let newB := serialNewer 32 x.1 y.1
    let takeB := if b.other then !newB else newB
    some (takeB, (if takeB then y.1 else x.1), (if takeB then y.2 else x.2), b.other)
  | some x, none => some (false, x.1, x.2, false)
  | none, some y => some (true, y.1, y.2, false)
  | none, none => none

/-- A junction temperature differs by more than 15 °C from the record's (R393). -/
def tempsFar (now then_ : List Int) : Bool :=
  (now.zip then_).any fun t => decide (15 < t.1 - t.2 ∨ 15 < t.2 - t.1)

/-- COLD_WHY (R393); without a record nothing is compared with it. -/
def State.coldWhy (s : State) (rec? : Option RetRec) (temps : List Int) (fmtSame : Bool) : Nat :=
  match rec? with
  | none => 1 + 4 * b2n s.boot.cold
  | some r =>
    let rate := rateMT (fld (r.regs.get (coldOf (Reg.MEM_CFG 0)) (Reg.MEM_CFG 0)) 0 3)
    2 * b2n (tempsFar temps r.temps) + 4 * b2n s.boot.cold + 8 * b2n (decide (rate ≠ r.rate)) + 16 * b2n (!fmtSame)

/-- Retained settings return from the record; the management key and its nonce from it where the AON domain has
lost them. -/
def State.restore (s : State) (r : RetRec) : State :=
  let s1 := r.regs.foldl (fun (s : State) e =>
    s.setReg e.1 (mixBits (maskAt RField.retained e.1) e.2 (s.reg e.1))) (s.resetRegs fun _ f => !f.retained)
  let s2 : State := { s1 with boot := { s1.boot with wire := r.wire } }
  let md := if r.wire = [] then 0 else leAt r.wire 0 2 % 4096
  let s3 := (s2.fset RF.QN_WIRE_CTL_MODULE md).fset RF.QN_WIRE_CTL_MVALID (b2n (r.wire != []))
  if s3.saf.key = [] ∧ r.key ≠ [] then
    (({ s3 with saf := { s3.saf with key := r.key } } : State).fset RF.SAF_MGKEY_CTL_KEYSET 1).fset
      RF.SAF_MGNONCE_NONCE r.nonce
  else s3

/-- No slot is valid: retained fields and life counters take their cold values (R417). -/
def State.retainLost (s : State) : State :=
  let s1 := s.resetRegs fun _ f => !f.retained
  let s2 := (List.range 8).foldl (fun (s : State) d =>
    ((s.setReg (Reg.ARR_FLT_CNT d) 0).fset (RF.MVE_STAT_FLT_CNT d) 0).fset (RF.RNG_STAT_FLT_CNT d) 0) s1
  let lasers := (s2.opt.lasers.map fun e => (e.1, { e.2 with hours := 0 })).filter fun e => !decide (e.2 = {})
  let s3 : State := { s2 with opt := { s2.opt with lasers := lasers } }
  let s4 := ((s3.fset RF.OPT_SAFE_SHUT_CNT 0).setReg Reg.QN_WIRE_CTL 0).fset RF.QN_RETAIN_LOST 1
  s4.hiveRec 0x800C 0 3 (s4.qnPay 0xFF 0 0 0)

/-- End of phase 0: image, record, path (R390, R393, R416, R417). -/
def State.phase0 (s : State) (r : PhaseResult) : State :=
  match s.boot.image with
  | none => s.bootStop 1
  | some (slot, _, version, older) =>
    let s1 := ((s.fset RF.QN_FW_STAT_SLOT (b2n slot)).fset RF.QN_FW_STAT_VERSION version).fset
      RF.QN_FW_STAT_FALLBACK (b2n older)
    let s2 : State := { s1 with boot := { s1.boot with other := false } }
    let s3 := if older then s2.hiveRec 0x8003 0 1 (s2.qnPay 0xFF 0 0 0) else s2
    let newest := s3.boot.newest.map fun x => x.2
    let why := s3.coldWhy newest r.temps r.fmtSame
    let s4 := (((if why = 0 then s3 else s3.lasersCold).retainShow.fset RF.QN_BOOT_STAT_COLD_WHY why).fset RF.QN_BOOT_STAT_PATH
      (if why = 0 then 2 else 1)).fset RF.QN_BOOT_STAT_PHASE 1
    match newest with
    | none => ({ s4 with boot := { s4.boot with temps := r.temps } } : State).retainLost
    | some x =>
      let temps := if why = 0 then x.temps else r.temps
      let s5 := ({ s4 with boot := { s4.boot with temps := temps } } : State).restore x
      if why = 0 then x.eq.foldl (fun (s : State) p => s.setLink p { s.link p with eqHeld := true }) s5 else s5

/-! Lasers (R304, R305, R392). -/

/-- A slot has a laser: the one it had, else the lowest one in no slot; else it is dark. -/
def State.fillSlot (s : State) (b slot : Nat) : State :=
  let dark := s.opt.dark.del (b * 32 + slot)
  let lit : State := { s with opt := { s.opt with dark := dark } }
  if (List.range 35).any fun i => decide ((s.laser b i).st = 1 ∧ (s.laser b i).slot = slot) then lit
  else match (List.range 35).find? fun i => decide ((s.laser b i).st = 0 ∨ (s.laser b i).st = 2) with
  | some i => lit.setLaser b i { s.laser b i with st := 1, slot := slot }
  | none => s.slotDark b slot

/-- The lasers of a bank are calibrated for some slots: those that fail retire. -/
def State.calibrate (s : State) (b : Nat) (bad : List (Fin 8 × Fin 35)) (slots : List Nat) : State :=
  let s1 := bad.foldl (fun (s : State) x =>
    if x.1.val = b ∧ (s.laser b x.2.val).st ≠ 6 then s.laserRetire b x.2.val else s) s
  (slots.foldl (fun (s : State) k => s.fillSlot b k) s1).lsrBank b

/-- Every laser of a bank in no slot is SPARE. -/
def State.sparesReady (s : State) (b : Nat) : State :=
  ((List.range 35).foldl (fun (s : State) i =>
    if (s.laser b i).st = 0 then s.setLaser b i { s.laser b i with st := 2 } else s) s).lsrBank b

/-- End of phase 1: clocks and the die-slot lasers (R392, R455). -/
def State.phase1 (s : State) (r : PhaseResult) : State :=
  if r.stop.val ≥ 2 then s.bootStop r.stop.val
  else
    let s1 := (s.fset RF.TIM_CTL_REF_OK (b2n r.refclk)).fset RF.TIM_CTL_HOLDOVER (b2n (!r.refclk))
    let s2 := (List.range 8).foldl (fun (s : State) d => s.fset (RF.COMB_CLK_CORE_MHZ d) 1600) s1
    let s3 := (List.range 8).foldl (fun (s : State) b => s.calibrate b r.lasers (List.range 24)) s2
    s3.fset RF.QN_BOOT_STAT_PHASE 2

/-! Memories (R392, R406, R343). -/

/-- A physical bank fails its test. -/
def State.bankBad (s : State) (die k : Nat) : State :=
  if s.bkGone die k then s
  else match (List.range 64).find? fun b => decide (s.physBank die b = k) with
  | some b => s.bankTakeover die b
  | none =>
    let out := s.eng.bkOut.put (die * 66 + k) 1
    ({ s with eng := { s.eng with bkOut := out } } : State).journal die 2 k 5

/-- A channel fails its training or test: it is mapped out. -/
def State.chanBad (s : State) (die c : Nat) : State :=
  if s.chFailed die c then s
  else
    let s1 := ((s.fsetBit (RF.MEM_CHMAP_FAILED die) c true).fset (RF.MEM_CH_STAT_TRAINED die c) 0).journal die 3 c 4
    (s1.dieRec die 0x8702 (chKey die c) 2 (memPay die c 3 0 0 0)).mapOut die c

/-- A die's memories at the end of phase 2: channels that have not failed are in the interleave and trained. -/
def State.memUp (s : State) (d : Nat) : State :=
  let s1 := (List.range 16).foldl (fun (s : State) c =>
    if s.chFailed d c then s
    else (s.fsetBit (RF.MEM_CHMAP_INSVC d) c true).fset (RF.MEM_CH_STAT_TRAINED d c) 1) s
  (((s1.mapOutAll d).zeroSram d).zeroLpddr d).recap d

/-- Records staged before the log's SRAM was tested enter the log (R430). -/
def State.stagingFlush (s : State) : State :=
  s.log.staging.foldl (fun (s : State) r => s.slotPut (leAt r 8 4) r)
    { s with log := { s.log with staging := [] }, boot := { s.boot with sramUp := true } }

/-- End of phase 2. -/
def State.phase2 (s : State) (r : PhaseResult) : State :=
  let cold := decide (s.fget RF.QN_BOOT_STAT_PATH = 1)
  let rate := if cold then rateMT (s.fget (RF.MEM_CFG_RATE 0)) else s.memRate
  let s1 : State := { s with lp := { s.lp with trainedRate := rate } }
  let s2 := (List.range 8).foldl (fun (s : State) d =>
    (s.memUp d).fset (RF.COMB_CLK_MEMC_MHZ d) (rate / 8)) s1
  let s3 := r.chans.foldl (fun (s : State) x => s.chanBad x.1.val x.2.val) s2
  let s4 := r.banks.foldl (fun (s : State) x => s.bankBad x.1.val x.2.val) s3
  s4.stagingFlush.fset RF.QN_BOOT_STAT_PHASE 3

/-! Links (R392, R397, R400). -/

/-- Every port marked REQUIRED is MATCH. -/
def State.peersReady (s : State) : Bool :=
  (List.range 32).all fun p => !s.wireReq p || decide (s.topo p = 0)

/-- End of phase 3: it waits for a table, and up to PEER_WAIT for the required peers. -/
def State.phase3 (s : State) (r : PhaseResult) : State :=
  if s.boot.wire = [] ∨ !(s.peersReady || s.boot.peerOver) then s
  else
    let s1 := (List.range 8).foldl (fun (s : State) b =>
      (s.calibrate b r.lasers [24, 25, 26, 27]).sparesReady b) s
    s1.fset RF.QN_BOOT_STAT_PHASE 4

/-! Compute (R99, R108, R160, R190, R392, R395, R404). -/

/-- The arrays of a die after their self-tests. -/
def State.arraysUp (s : State) (d : Nat) (bad : List Nat) : State :=
  let s1 := bad.foldl (fun (s : State) p =>
    if s.arrSt d p = 5 then s
    else ((s.setArrSt d p 5).dieRec d 0x8105 p 2 (arrPay p 0xFF 0 0 0 0 0)).journal d 0 p 5) s
  let lost := (List.range 6).filter fun l => decide (s1.arrPhys d l = 0xF ∨ s1.arrSt d (s1.arrPhys d l) = 5)
  let s2 := lost.foldl (fun (s : State) l => s.fset (RF.ARR_LMAP_PHYS d l) 0xF) s1
  let s3 := (List.range 7).foldl (fun (s : State) p =>
    if s.arrSt d p = 5 then s
    else s.setArrSt d p (match (s.arrBacks d p).length with | 0 => 2 | 1 => 1 | _ => 6)) s2
  let s4 := ((lost.foldl (fun (s : State) l => s.arrPlace d l) s3).arrFlags d).recap d
  if s4.arrInSvc d < 3 then s4.dieFailed d else s4

/-- A lane group fails its self-test (R190). -/
def State.laneBad (s : State) (d g : Nat) : State :=
  if s.upd.lost.get 0 (d * 8 + g) ≠ 0 then s
  else
    let lost := s.upd.lost.put (d * 8 + g) 1
    let n := s.fget (RF.UPD_STAT_LANES_OK d) - 1
    let s1 := ({ s with upd := { s.upd with lost := lost } } : State).fset (RF.UPD_STAT_LANES_OK d) n
    let s2 := ((s1.fset (RF.UPD_STAT_LANE_FLT d) 1).dieRec d 0x8302 0 2 (pay [(1, g)])).journal d 4 g 1
    if n = 0 then s2.dieFailed d else s2

/-- A module reset that QN_RESET or another cause asked for has completed (R408). -/
def State.resetEnd (s : State) : State :=
  let s1 := if s.fget RF.QN_RESET_RESULT = 1 then s.resetOk else s
  if s.boot.byReset then
    ({ s1 with boot := { s1.boot with byReset := false } } : State).resetRec 0xFF 0xFF 0xFF 3 s.boot.t0
  else s1

/-! The comb image (R391). -/

/-- Bytes of the comb image, of the record area at its end, and of the SRAM below its place. -/
def combSize : Nat := 0x800000
def combRecs : Nat := 2048 * 64
def combOff : Nat := sramSize - combSize

/-- The record of a core: CORE, CTRL, FWVER, CRC16. FOLD is set for a core that carries a second context (R391,
R405); VEN as the image has it (R391). -/
def combRecord (core : Nat) (fold ven : Bool) (version : Nat) : Bytes :=
  let b := leBytes 2 core ++ [BitVec.ofNat 8 (b2n fold + 2 * b2n ven), 0] ++ leBytes 4 version ++ List.replicate 54 0
  b ++ leBytes 2 (crc16 b)

/-- A fetched record names the core and its CRC16 holds. -/
def recordGood (core : Nat) (b : Bytes) : Bool :=
  decide (leAt b 0 2 = core) && decide (leAt b 62 2 = crc16 (b.take 62))

/-- Version of the running image (R390). -/
def State.combVersion (s : State) : Nat := s.fget RF.QN_FW_STAT_VERSION

/-- Byte `i` of the comb image as the hive replicates it: control stores, then 2,048 records by logical global core
id. The control stores' contents are the image's own (log entry 75). -/
def State.combByte (s : State) (i : Nat) : BitVec 8 :=
  let v := s.combVersion
  if i < combSize - combRecs then Config.combStore v i
  else
    let k := (i - (combSize - combRecs)) / 64
    byteAt (combRecord k (s.clFolded k) (Config.combVen v k) v) (i % 64)

/-- The image goes out from the internal port to every die port that is UP, and stands in the top 8 MiB of those
dies' SRAM: byte `i` of it at offset `combOff + i` (R391). The window is held as the image's version. -/
def State.combStream (s : State) : State :=
  let up := (List.range 8).filter fun d => decide (s.portState (32 + d) = 3)
  { s with boot := { s.boot with combIn := up.map fun d => (d, s.combVersion + 1) } }

/-- A byte of a die's SRAM while the image stands in it. -/
def State.combRead (s : State) (die off : Nat) : BitVec 8 :=
  if s.boot.combIn.get 0 die ≠ 0 ∧ combOff ≤ off ∧ off < sramSize then s.combByte (off - combOff)
  else s.byte (die * 2 ^ 40 + sramBase + off)

/-- The record of a core as its die's SRAM holds it. -/
def State.combFetch (s : State) (core : Nat) : Bytes :=
  (List.range 64).map fun i => s.combRead (dieOf core) (sramSize - combRecs + 64 * core + i)

/-- What a core receives on its first and second fetch: the record, or what the phase's result gives. -/
def State.combGot (s : State) (recs : List (CoreId × CellW × CellW)) (core : Nat) : Bytes × Bytes :=
  let bytes := fun (w : CellW) => (List.range 64).map fun i => BitVec.ofNat 8 (fld w (8 * i) 8)
  match recs.find? fun r => decide (r.1.val = core) with
  | some r => (bytes r.2.1, bytes r.2.2)
  | none => (s.combFetch core, s.combFetch core)

/-- A die loads its control stores; each core fetches its record, once more where it is not good, and a second
failure is a fault of its cluster (R391, R404). -/
def State.combCores (s : State) (d : Nat) (recs : List (CoreId × CellW × CellW)) : State :=
  if s.boot.combIn.get 0 d = 0 then s
  else
    let s1 : State := { s with boot := { s.boot with comb := s.boot.comb.put d (s.boot.combIn.get 0 d) } }
    (List.range 256).foldl (fun (s : State) k =>
      let core := d * 256 + k
      let (a, b) := s.combGot recs core
      if recordGood core a || recordGood core b then s else s.clTakeover d (k / 8)) s1

/-- A die zeroes the 8 MiB before READY. -/
def State.combZero (s : State) (die : Nat) : State :=
  if s.boot.combIn.get 0 die = 0 then s
  else
    let lo := die * 2 ^ 40 + sramBase + combOff
    let mem := s.mem.filter fun e => !(decide (lo ≤ e.1) && decide (e.1 < lo + combSize))
    let word := fun (k : Nat) => decide (sramKey die (combOff / 8) ≤ k ∧ k < sramKey die (sramSize / 8))
    { s with mem := mem, eng := { s.eng with sramErr := s.eng.sramErr.drop word },
             boot := { s.boot with combIn := s.boot.combIn.del die } }

/-- The firmware broadcast and the record fetch (R391). -/
def State.combLoad (s : State) (recs : List (CoreId × CellW × CellW)) : State :=
  let s1 := (List.range 8).foldl (fun (s : State) d => s.combCores d recs) s.combStream
  (List.range 8).foldl (fun (s : State) d => s.combZero d) s1

/-- The record a core holds, with CTRL.FOLD once its cluster is folded; the cores that a take-over brings in fetch it
so (R391, R404, R405). -/
def State.coreConf (s : State) (core : Nat) : Option Bytes :=
  match s.boot.comb.get 0 (dieOf core) with
  | 0 => none
  | v + 1 => some (combRecord core (s.clFolded core) (Config.combVen v core) v)

/-- End of phase 4: the defect map stands, READY is evaluated, and a store starts where calibration has run. -/
def State.phase4 (s : State) (r : PhaseResult) : State :=
  let s1 := (List.range 8).foldl (fun (s : State) d =>
    s.arraysUp d ((r.arrays.filter fun x => decide (x.1.val = d)).map fun x => x.2.val)) s
  let s2 := r.clusters.foldl (fun (s : State) x =>
    (s.takeoverStart x.1.val x.2.val).takeoverTry x.1.val x.2.val) s1
  let s3 := r.lanes.foldl (fun (s : State) x => s.laneBad x.1.val x.2.val) s2
  let s4 := r.mves.foldl (fun (s : State) d => s.mveBad d.val) s3
  let s5 := (List.range 8).foldl (fun (s : State) d =>
    s.katUp d (r.kat.filterMap fun x => if x.1.val = d then some (x.2.1.val, x.2.2.val) else none))
    -- the merge stage is no unit of the defect map (log entry 55)
    (if r.katMerge then s4.hiveRec 0x8205 0 2 [] else s4)
  let s5 := (List.range 8).foldl (fun (s : State) d => s.dieReview d) (s5.combLoad r.recs)
  if (List.range 8).all fun d => decide (s5.dieState d = 2) then s5.bootStop 4
  else
    let s6 := (s5.fset RF.QN_BOOT_STAT_PHASE 5).tryReady.resetEnd
    if s6.fget RF.QN_BOOT_STAT_PATH = 1 ∨ s6.fget RF.QN_BOOT_STAT_RERUN % 4 ≠ 0 then s6.storeStart else s6

/-- A phase ends (R387). -/
def State.phaseEnd (s : State) (r : PhaseResult) : State :=
  let ph := s.fget RF.QN_BOOT_STAT_PHASE
  if !s.pwr.rails || s.boot.selfFenced then s
  else
    let s1 := if s.fget RF.QN_BOOT_STAT_PATH = 2 ∧ ph ≤ 4 then
        s.fset RF.QN_BOOT_STAT_RERUN (Nat.lor (s.fget RF.QN_BOOT_STAT_RERUN) r.rerun.toNat) else s
    if ph = 0 then (if r.stop.val = 1 then s.bootStop 1 else s.phase0 r)
    else if ph = 1 then s1.phase1 r
    else if ph = 2 then s1.phase2 r
    else if ph = 3 then s1.phase3 r
    else if ph = 4 then s1.phase4 r
    else s

/-! Wiring tables (R230, R396, R397). -/

/-- KIND, peer module and peer port that R230 gives a port of a module; none for endpoint 255. -/
def shuffle (m k : Nat) : Option (Nat × Nat × Nat) :=
  let g := m / 16
  let p := m % 16
  if k < 15 then
    let j := if k < p then k else k + 1
    some (1, g * 16 + j, if p < j then p else p - 1)
  else
    let e := 16 * p + (k - 15)
    if e = 255 then none
    else
      let e' := 254 - e
      some (2, (g + e + 1) % 256 * 16 + e' / 16, 15 + e' % 16)

/-- Byte `i` of entry p of a table. -/
def tblAt (t : Bytes) (p i : Nat) : Nat := leAt t (64 + 16 * p + i) 1

/-- Entry q of a table has the kind and peer that R230 gives port k. -/
def tblIs (t : Bytes) (q k : Nat) : Bool :=
  match shuffle (leAt t 0 2 % 4096) k with
  | some (kind, md, port) =>
    decide (tblAt t q 0 = kind ∧ leAt t (64 + 16 * q + 2) 2 = md ∧ tblAt t q 4 = port)
  | none => false

/-- An entry's fields are in range and its reserved ones zero. -/
def tblEntryOk (t : Bytes) (p : Nat) : Bool :=
  let subst := bitN (tblAt t p 1) 1
  decide (tblAt t p 0 ≤ 3 ∧ tblAt t p 1 < 4 ∧ leAt t (64 + 16 * p + 2) 2 < 4096 ∧ tblAt t p 4 ≤ 31 ∧
    tblAt t p 6 ≤ 100 ∧ leAt t (64 + 16 * p + 7) 9 = 0) && (!subst || p == 31) &&
    (subst || decide (tblAt t p 5 = 0)) &&
    (decide (tblAt t p 0 = 0) || decide (leAt t (64 + 16 * p + 2) 2 < leAt t 2 2))

/-- A table satisfies R396. -/
def tblOk (t : Bytes) : Bool :=
  let subst := bitN (tblAt t 31 1) 1
  let for_ := tblAt t 31 5
  decide (t.length = 576) && decide (leAt t 8 4 = crc32c (t.take 8 ++ [0, 0, 0, 0] ++ t.drop 12)) &&
    decide (leAt t 0 2 < 4096 ∧ 1 ≤ leAt t 2 2 ∧ leAt t 2 2 ≤ 4096 ∧ leAt t 12 52 = 0) &&
    (List.range 32).all (tblEntryOk t) &&
    (List.range 31).all (fun p => decide (tblAt t p 0 = 0) || tblIs t p p) &&
    (if subst then decide (for_ ≤ 30) && tblIs t 31 for_ && decide (tblAt t for_ 0 = 0)
     else decide (tblAt t 31 0 = 0 ∨ tblAt t 31 0 = 3))

/-- Entries that differ from the present table. -/
def State.tblDiff (s : State) (t : Bytes) : List Nat :=
  (List.range 32).filter fun p =>
    !decide ((t.drop (64 + 16 * p)).take 16 = toLen 16 ((s.boot.wire.drop (64 + 16 * p)).take 16))

/-- A physical port that is DOWN, DISABLED or kept shut by SUBST. -/
def State.portIdle (s : State) (p : Nat) : Bool :=
  match s.logi p with
  | some q => decide (s.portState q = 0 ∨ s.portState q = 6)
  | none => true

/-- QN_WIRE_CTL reports the end of a load. -/
def State.wireResult (s : State) (res reason : Nat) : State :=
  ((s.fset RF.QN_WIRE_CTL_RESULT res).fset RF.QN_WIRE_CTL_REASON reason).isum 9

/-- Discovery runs again on a port whose entry changed: one that carried cells is HELD again. -/
def State.rediscover (s : State) (p : Nat) : State :=
  let st := s.portState p
  let s1 := if 2 ≤ st ∧ st ≤ 5 then
      ((s.setLink p { s.link p with ident := false }).setPort p 2).setLsub p 0 else s
  let s2 := s1.setTopo p (s1.topoIdle p) 0
  if 2 ≤ st ∧ st ≤ 5 then s2.sendIdentity p else s2

/-- An accepted table: it becomes part of the retained record (R397, R413). -/
def State.wireTake (s : State) (t : Bytes) : State :=
  let diff := s.tblDiff t
  let s1 : State := { s with boot := { s.boot with wire := t, peerOver := false } }
  let s2 := (s1.fset RF.QN_WIRE_CTL_MODULE (leAt t 0 2)).fset RF.QN_WIRE_CTL_MVALID 1
  let ps := (List.range 32).filter fun q => diff.contains (s2.wirePort q) || diff.contains q
  (ps.foldl (fun (s : State) p => s.rediscover p) (s2.wireResult 2 0)).storeStart.tryReady

/-- QN_WIRE_CTL.GO with the table its address holds. -/
def State.wireLoad (s : State) (fn : Nat) (t : Bytes) : State :=
  let addr := (s.reg Reg.QN_WIRE_ADDR).toNat
  let win := s.readsOk 0 addr 576
  let live := decide (s.bank 0 ≠ 0 ∨ s.bank 1 ≠ 0)
  let conds := [(decide (fn ≠ 0), 0x6B04), (!win, 0x6B01), (!tblOk t, 0x5C02),
    (live && (s.tblDiff t).any fun p => !s.portIdle p, 0x5C03)]
  if s.fget RF.QN_WIRE_CTL_RESULT = 1 then s.refuseReg 0x5F03 Reg.QN_WIRE_CTL
  else match pick conds with
  | some reason =>
    let s1 := if fn = 0 ∧ !win then s.dmaBlock 0 4 0xFFFF addr else s
    (s1.wireResult 3 reason).refuseItem reason fn
  | none => s.wireTake t

end Sys2Proof.Machine
end

