-- ==== Sys2Proof/Machine/BootCmds.lean ====
section
/-! DEFINITION. Resets that PF0 asks for, power-on, bring-up, tables, stores and images (R386 to R417). -/

namespace Sys2Proof.Machine

/-- CORE_RESET (R408, R409, R412). -/
def execCoreReset (core : CoreId) (s : State) (kat : Bool := false) : Host.Outcome State Fault Refusal :=
  .next (s.coreReset core.val kat)

/-- CLUSTER_RESET, with its self-test where SELFTEST asks for one (R408, R409, R412). -/
def execClusterReset (die : DieId) (cluster : Fin 32) (selftest pass : Bool) (s : State)
    (kat : Bool := false) :
    Host.Outcome State Fault Refusal :=
  .next (s.clusterReset die.val cluster.val (selftest && !pass) kat)

/-- PARTITION_RESET (R408, R410, R412). -/
def execPartitionReset (p : PartId) (s : State) (kat : List KatUnit := []) : Host.Outcome State Fault Refusal :=
  .next (s.partReset p.val (kat.map fun x => (x.1.val, x.2.1.val, x.2.2.val)))

/-- MODULE_RESET (R408, R411, R412). -/
def execModuleReset (cold : Bool) (s : State) : Host.Outcome State Fault Refusal :=
  .next (s.resetGo [] fun s => s.moduleReset cold true)

/-- POWER_ON: power good, unless the rails are on, the lever keeps the module down or a cause of SAFE_OFF stands
(R392, R424, R449, R451). -/
def execPowerOn (s : State) : Host.Outcome State Fault Refusal :=
  .next (if s.pwr.rails ∨ s.pwr.down ∨ s.saf.cause then s else s.powerOn)

/-- BRINGUP_PHASE_END (R387 to R395, R400). -/
def execBringupPhaseEnd (r : PhaseResult) (s : State) : Host.Outcome State Fault Refusal := .next (s.phaseEnd r)

/-- FW_BOOT_FALLBACK: phase 0 has not ended within 10 s; the next start takes the other image (R390). -/
def execFwBootFallback (s : State) : Host.Outcome State Fault Refusal :=
  .next (if s.pwr.rails ∧ s.fget RF.QN_BOOT_STAT_PHASE = 0 then { s with boot := { s.boot with other := true } }
  else s)

/-- PEER_WAIT_EXPIRE: phase 3 waits no longer for required peers; the wait starts with a table (R397, R400). -/
def execPeerWaitExpire (s : State) : Host.Outcome State Fault Refusal :=
  .next (if s.fget RF.QN_BOOT_STAT_PHASE = 3 ∧ s.boot.wire ≠ [] then
    { s with boot := { s.boot with peerOver := true } }
  else s)

/-- WIRE_LOAD (R396, R397). -/
def execWireLoad (fn : FnId) (table : Bytes) (s : State) : Host.Outcome State Fault Refusal :=
  .next (s.wireLoad fn.val table)

/-- RETAIN_STORE: a store, or the end of the one that is running, with which it is merged (R415). -/
def execRetainStore (readBackOk : Bool) (s : State) : Host.Outcome State Fault Refusal :=
  .next (s.storeEnd readBackOk)

/-- QN_FW_CTL.GO copies an image into the slot that does not hold the running one (R390). -/
def State.fwGo (s : State) (signatureOk : Bool) (seq version : Nat) : State :=
  let addr := (s.reg Reg.QN_FW_ADDR).toNat
  if s.fget RF.QN_FW_CTL_RESULT = 1 then s.refuseReg 0x5F03 Reg.QN_FW_CTL
  else if !s.inWindows 0 addr 4096 false then
    (((s.dmaBlock 0 4 0xFFFF addr).fset RF.QN_FW_CTL_RESULT 3).isum 14).refuseReg 0x6B01 Reg.QN_FW_CTL
  else
    let img := if signatureOk then some (seq, version) else none
    let boot := if s.fget RF.QN_FW_STAT_SLOT = 1 then { s.boot with imgA := img } else { s.boot with imgB := img }
    (({ s with boot := boot } : State).fset RF.QN_FW_CTL_RESULT (if signatureOk then 2 else 3)).isum 14

/-- FW_WRITE (R390). -/
def execFwWrite (signatureOk : Bool) (seq version : BitVec 32) (s : State) : Host.Outcome State Fault Refusal :=
  .next (s.fwGo signatureOk seq.toNat version.toNat)

end Sys2Proof.Machine
end

