-- ==== Sys2Proof/Machine/CapCmds.lean ====
section
/-! DEFINITION. Cap commands and events: CAP_OPEN, CAP_VOTE, CAP_ABORT, CAP_SEAL, the CAPV cells, and the
timers of a cap (R273 to R283). -/

namespace Sys2Proof.Machine

/-- CAP_OPEN opens a cap of a CAPG group that holds this module's hive (R273, R278). -/
def execCapOpen (core : CoreId) (s : State) : Host.Outcome State Fault Refusal :=
  .next (s.issue core.val 0x84 fun s seq w =>
    let die := dieOf core.val
    let c := (s.coreRec core.val).ctx
    let gid := fld w 8 10
    let holds := match s.group c.job gid with
      | some g => g.capg && (g.index (s.module + 4096 * 8)).isSome
      | none => false
    let conds : List (Bool × Nat) :=
      [(!reservedZero w [(0, 20), (24, 8)], 0x5806),
       (decide (s.capState die ≠ 0) || decide (2 ≤ fld w 18 2) || decide (c.job = 0), 0x5803),
       (decide (c.job ≠ 0) && !holds, 0x5804)]
    s.refuseOr core.val seq 0x84 conds fun s =>
      let k : CapKey := { job := c.job, gid := gid, step := c.step % 2 ^ 32, att := fld w 24 8 }
      let s1 := s.setDieCap die { key := k, kind := fld w 18 2, opened := s.clk }
      let s2 := ((((s1.setCapState die 1).fset (RF.CAP_DIE_STAT_VOTE die) 0).fset (RF.CAP_DIE_STAT_ATT die)
        k.att).fset (RF.CAP_DIE_STAT_GID die) gid).fset (RF.CAP_DIE_STAT_STEP die) k.step
      s2.completeOK core.val seq)

/-- CAP_VOTE commits the die to its vote, sent once every bound command has completed (R273, R274). -/
def execCapVote (core : CoreId) (s : State) : Host.Outcome State Fault Refusal :=
  .next (s.issue core.val 0x85 fun s seq w =>
    let die := dieOf core.val
    let c := s.dieCap die
    let f := fld w 16 2
    s.refuseOr core.val seq 0x85
      [(!reservedZero w [(0, 8), (16, 2), (32, 10)], 0x5806),
       (decide (s.capState die = 0) || decide (f = 1) || c.vote.isSome, 0x5803)] fun s =>
      let s1 := s.setDieCap die { c with vote := some (f, core.val, seq, fld w 32 10) }
      if f = 3 then s1.voteFailed die else s1.tryVote die)

/-- An abort request reaches the coordinator of a cap (R277, R281): a collecting cap aborts with RTA, a
decided one is answered with its vector, one of an older attempt with TOO_LATE. -/
def State.coordAbort (s : State) (g : Group) (k : CapKey) (from_ : Nat) : State :=
  if (s.hiveCap k).vec.isSome then s.coordLate k from_
  else match s.coordCap k with
  | none =>
    if k.att < s.newestAtt k then s.coordOld k from_ 5
    else s.coordSend g { key := k, vec := List.replicate g.nmem 0, rta := true }
  | some c => if c.st = 1 then s.coordSend g { c with rta := true } else s.finc RF.CAP_LATE_LATE 1

/-- The word a core would issue next has this OPC and SEAL. -/
def State.sealWord (s : State) (core : Nat) (sl : Bool) : Bool :=
  bit (s.peekWord core) 8 == sl

/-- CAP_ABORT sends an abort request to the coordinator (R281). -/
def execCapAbort (core : CoreId) (s : State) : Host.Outcome State Fault Refusal :=
  .next (if s.sealWord core.val false then
    s.issue core.val 0x86 fun s seq w =>
      let die := dieOf core.val
      s.refuseOr core.val seq 0x86
        [(!reservedZero w [(0, 9)], 0x5806), (decide (s.capState die = 0), 0x5803)] fun s =>
        let k := (s.dieCap die).key
        match s.group k.job k.gid with
        | none => s.completeRaw core.val seq stTOOLATE 0 0
        | some g =>
          if (s.hiveCap k).vec.isSome then s.completeRaw core.val seq stTOOLATE 0 0
          else
            let s1 : State := { s with cap := { s.cap with aborts := s.cap.aborts ++ [(k, core.val, seq)] } }
            if g.cMod = s.module then
              let s2 := s1.coordAbort g k s.module
              let late := (s2.coordCap k).isNone
              if late then
                let left := s2.cap.aborts.filter fun a => !decide (a = (k, core.val, seq))
                ({ s2 with cap := { s2.cap with aborts := left } } : State).completeRaw core.val seq stTOOLATE 0 0
              else s2
            else s1.sendCapv k 5 false g.cMod
  else s)

/-- CAP_SEAL: the witness builds and serves an abort vector while the coordinator is fenced (R282). -/
def execCapSeal (core : CoreId) (s : State) : Host.Outcome State Fault Refusal :=
  .next (if s.sealWord core.val true then
    s.issue core.val 0x86 fun s seq w =>
      let die := dieOf core.val
      let k := (s.dieCap die).key
      let bad := match s.group k.job k.gid with
        | some g => !(g.witv && decide (g.wMod = s.module) && s.modFenced g.cMod)
        | none => true
      s.refuseOr core.val seq 0x86
        [(!reservedZero w [(0, 9)], 0x5806), (decide (s.capState die = 0), 0x5803),
         (decide (s.capState die ≠ 0) && bad, 0x3806)] fun s =>
        match s.group k.job k.gid with
        | none => s
        | some g =>
          let x := (s.witCap k).getD { key := k }
          if x.full ∧ !x.sealed then s.completeRaw core.val seq stTOOLATE 0 0
          else if x.sealed then s.completeOK core.val seq
          else
            let vec := 3 :: List.replicate (g.nmem - 1) 0
            let s1 := (s.setWit { x with vec := vec, rta := true, sealed := true, full := true }).hiveRec
              0x8506 0 1 (capPay k 0)
            (s1.completeOK core.val seq).hiveDecide k vec true
  else s)

/-! CAPV cells (R275). -/

/-- The cap a CAPV cell names, its RTA bit, its offset and vector bytes. -/
def capvKey (c : CellW) : CapKey :=
  { job := Cell.job c, gid := bitsN (Cell.pay c 6 2) 0 10, step := Cell.pay c 0 4, att := Cell.pay c 4 1 }
def capvRta (c : CellW) : Bool := bitN (Cell.pay c 6 2) 15
def capvOfs (c : CellW) : Nat := Cell.pay c 8 2
def capvData (c : CellW) : Bytes := Cell.payBytes c 10 38

/-- A CAPV cell of a kind for a loaded group of its JOB; a relay passes votes and vectors on along the latency tree
of member 0 (R246, R261, R275). -/
def State.capvCell (s : State) (c : CellW) (ck : Nat) (f : State → Group → CapKey → State) : State :=
  s.hiveCell c fun s =>
    let k := capvKey c
    if Cell.pay c 5 1 ≠ ck then s
    else match s.group k.job k.gid with
      | some g => f s g k
      | none => match s.relay k.job k.gid with
        | some r => if 1 < ck then s.dropJob 40 c
          else (s.relayHops r 0 0xFF (decide (ck = 0))).foldl (fun (s : State) h =>
            s.sendCell h.2 8 8 9 k.job false true 48 0 0 (Cell.payBytes c 0 48)) s
        | none => s.dropJob 40 c

/-- Vector bytes of a cell joined to those received. -/
def capvJoin (t : Tbl Nat) (c : CellW) : Tbl Nat :=
  (capvData c).zipIdx.foldl (fun (t : Tbl Nat) b => t.put (capvOfs c + b.2) b.1.toNat) t

/-- The vector, once every byte of it has arrived. -/
def capvWhole (g : Group) (t : Tbl Nat) : Option (List Nat) :=
  let n := (g.nmem + 3) / 4
  if (List.range n).all fun i => t.any fun e => e.1 == i then
    some (unpackVec g.nmem ((List.range n).map fun i => BitVec.ofNat 8 (t.get 0 i)))
  else none

/-- Votes that a cell carries. -/
def capvVotes (g : Group) (c : CellW) : List Nat :=
  let t := capvJoin [] c
  unpackVec g.nmem ((List.range ((g.nmem + 3) / 4)).map fun i => BitVec.ofNat 8 (t.get 0 i))

/-- CAPV_VOTE: votes are merged at the coordinator, or at another hive, from where they rise toward it
(R275, R277). -/
def execCapvVote (cell : CellW) (s : State) : Host.Outcome State Fault Refusal :=
  .next (s.capvCell cell 0 fun s g k =>
    if g.cMod = s.module then s.coordMerge g k (capvVotes g cell) (Cell.srcMod cell)
    else s.voteUp g k (capvVotes g cell))

/-- CAPV_VECTOR: the vector reaches a member hive, which passes it down the latency tree and carries it out once it
is whole (R275, R277, R278). -/
def execCapvVector (cell : CellW) (s : State) : Host.Outcome State Fault Refusal :=
  .next (s.capvCell cell 1 fun s g k =>
    let h := s.hiveCap k
    if h.vec.isSome then s
    else
      let t := capvJoin h.got cell
      let s1 := (s.capHops g false).foldl (fun (s : State) m =>
        s.sendCell m 8 8 9 k.job false true 48 0 0 (Cell.payBytes cell 0 48)) (s.setHiveCap { h with got := t })
      match capvWhole g t with
      | some v => s1.hiveDecide k v (capvRta cell)
      | none => s1)

/-- CAPV_WITNESS_VECTOR: the witness stores a commit vector and acknowledges it; sealed, it answers so
(R277, R279, R282). -/
def execCapvWitnessVector (cell : CellW) (s : State) : Host.Outcome State Fault Refusal :=
  .next (s.capvCell cell 2 fun s g k =>
    let x := (s.witCap k).getD { key := k }
    if x.sealed then s.sendCapv k 3 true (Cell.srcMod cell)
    else
      let t := capvJoin x.got cell
      match capvWhole g t with
      | some v => (s.setWit { x with got := t, vec := v, full := true }).sendCapv k 3 false (Cell.srcMod cell)
      | none => s.setWit { x with got := t })

/-- CAPV_WITNESS_ACK: the coordinator broadcasts the vector; RTA says that the witness is sealed (R277). -/
def execCapvWitnessAck (cell : CellW) (s : State) : Host.Outcome State Fault Refusal :=
  .next (s.capvCell cell 3 fun s g k =>
    match s.coordCap k with
    | some c => if c.st = 2 then s.coordSend g { c with rta := capvRta cell } else s
    | none => s)

/-- The vector a hive holds for a cap, as member, coordinator or witness. -/
def State.heldVec (s : State) (k : CapKey) : Option (List Nat × Bool) :=
  match (s.hiveCap k).vec with
  | some v => some (v, (s.hiveCap k).rta)
  | none =>
    match s.witCap k with
    | some x => if x.full then some (x.vec, x.rta) else none
    | none => none

/-- CAPV_ASK: a holder of the vector answers with it; the coordinator counts one for a decided cap, and answers one
for an older attempt TOO_LATE (R277, R278, R282). -/
def execCapvAsk (cell : CellW) (s : State) : Host.Outcome State Fault Refusal :=
  .next (s.capvCell cell 4 fun s g k =>
    if g.cMod = s.module ∧ (s.heldVec k).isNone ∧ (s.coordCap k).isNone ∧ k.att < s.newestAtt k then
      s.coordOld k (Cell.srcMod cell) 0
    else
      let s1 := if g.cMod = s.module ∧ (s.hiveCap k).vec.isSome then s.finc RF.CAP_LATE_LATE 1 else s
      match s1.heldVec k with
      | some (v, rta) => s1.sendVec k 1 rta v (Cell.srcMod cell)
      | none => s1)

/-- CAPV_ABORT_REQUEST reaches the coordinator (R281). -/
def execCapvAbortRequest (cell : CellW) (s : State) : Host.Outcome State Fault Refusal :=
  .next (s.capvCell cell 5 fun s g k =>
    if g.cMod = s.module then s.coordAbort g k (Cell.srcMod cell)
    else s.sendCell g.cMod 8 8 9 k.job false true 48 0 0 (Cell.payBytes cell 0 48))

/-! Timers. -/

/-- The state's own form of a cap's name. -/
def capKeyOf (c : CapName) : CapKey :=
  { job := c.job.toNat, gid := c.gid.val, step := c.step.toNat, att := c.att.toNat }

/-- VOTE_TO_EXPIRE: with a slot missing the coordinator sends an abort vector (R277). -/
def execVoteToExpire (cap : CapName) (s : State) : Host.Outcome State Fault Refusal :=
  let k := capKeyOf cap
  .next (match s.coordCap k, s.group k.job k.gid with
    | some c, some g => if c.st = 1 then s.coordSend g c else s
    | _, _ => s)

/-- An ask goes to the coordinator, then to the witness, in turn (R278). -/
def State.askNext (s : State) (k : CapKey) : State :=
  match s.group k.job k.gid with
  | none => s
  | some g =>
    let h := s.hiveCap k
    let toW := h.askW && g.witv
    let s1 := s.setHiveCap { h with askW := !h.askW }
    let md := if toW then g.wMod else g.cMod
    if md = s.module then
      match s1.heldVec k with
      | some (v, rta) => s1.hiveDecide k v rta
      | none => s1
    else s1.sendCapv k 4 false md

/-- The hive's switch cap, once it has voted ready and holds no vector (R241). -/
def State.swAsks (s : State) : Option CapKey :=
  match s.fab.sw with
  | some (gid, step, att) =>
    let k : CapKey := { job := 0, gid := gid, step := step, att := att }
    if (s.hiveCap k).vec.isNone ∧ (s.hiveCap k).vote = 1 then some k else none
  | none => none

/-- CAP_ASK_TIMER: a die that voted and holds no vector asks (R278), or the queen for its switch cap (R241). -/
def execCapAskTimer (tgt : FnId) (s : State) : Host.Outcome State Fault Refusal :=
  let d := tgt.val
  let st := s.capState d
  .next (if d < 8 then
    (if st = 2 ∨ st = 3 ∨ st = 4 then
      (if st = 2 then s.setCapState d 3 else s).askNext (s.dieCap d).key
    else s)
  else match s.swAsks with
    | some k => s.askNext k
    | none => s)

/-- CAPTO of a die (R274, R278, R380): an open cap votes failed; a ready vote that waits for its
reservation becomes failed; a voted die is in doubt. -/
def State.dieCapto (s : State) (d : Nat) : State :=
  let st := s.capState d
  let c := s.dieCap d
  if st = 1 then s.voteFailed d
  else if st = 2 ∨ st = 3 then
    if c.held ∧ (s.hiveCap c.key).vote = 0 then s.hiveVote c.key 3
    else
      let s1 := match c.vote with
        | some (_, core, seq, _) => s.completeRaw core seq stTIMEOUT 0 0
        | none => s
      ((s1.setCapState d 4).finc RF.CAP_LATE_INDOUBT 1).dieRec d 0x8504 0 2
        (capPay c.key (((s.group c.key.job c.key.gid).bind fun g => g.index (s.module + 4096 * 8)).getD 0))
  else s

/-- CAPTO_EXPIRE at a die, or at the hive for its switch cap (R241, R278). -/
def execCaptoExpire (tgt : FnId) (s : State) : Host.Outcome State Fault Refusal :=
  .next (if tgt.val < 8 then s.dieCapto tgt.val
  else match s.swAsks with
    | some k => (s.fset RF.RT_SW_CTL_STATUS stTIMEOUT).askNext k
    | none => s)

/-- CAP_RECORD_FREE: a decided record of the coordinator goes (R277). -/
def execCapRecordFree (cap : CapName) (s : State) : Host.Outcome State Fault Refusal :=
  let k := capKeyOf cap
  .next (match s.coordCap k with
    | some c => if 3 ≤ c.st then
        { s with cap := { s.cap with coord := s.cap.coord.filter fun x => !decide (x.key = k) } } else s
    | none => s)

end Sys2Proof.Machine
end

