-- ==== Sys2Proof/Machine/FenceCmds.lean ====
section
/-! DEFINITION. Fence lists and fence notices (R437 to R441, R445, R491). -/

namespace Sys2Proof.Machine

/-! Entries (R437). -/

/-- Fields of an entry. -/
def feKIND (e : Bytes) : Nat := leAt e 0 1
def feJOB (e : Bytes) : Nat := leAt e 1 1
def feMOD (e : Bytes) : Nat := leAt e 2 2
def feDIE (e : Bytes) : Nat := leAt e 4 1
def fePGEN (e : Bytes) : Nat := leAt e 5 1
def feCORE (e : Bytes) : Nat := leAt e 6 2

/-- The entries of a list. -/
def fenceEntries (n : Nat) (list : Bytes) : List Bytes :=
  (List.range n).map fun i => toLen 16 ((list.drop (16 * i)).take 16)

/-- An entry's fields are in range, and those its kind does not use are zero. -/
def feOk (e : Bytes) : Bool :=
  let k := feKIND e
  let die := decide (k = 2 ∨ k = 5)
  let core := decide (k = 3 ∨ k = 6)
  let gen := decide (k = 7)
  decide (1 ≤ k ∧ k ≤ 7 ∧ feMOD e < 4096 ∧ leAt e 12 4 = 0) &&
    (gen || decide (feJOB e = 0 ∧ fePGEN e = 0)) &&
    (if gen then decide (feDIE e ≤ 7 ∨ feDIE e = 0xFF) else if die then decide (feDIE e ≤ 7) else decide (feDIE e = 0)) &&
    (if core then decide (feCORE e < 2048) else decide (feCORE e = 0))

/-- The dies a GENSET names. -/
def State.genDies (s : State) (e : Bytes) : List Nat :=
  if feDIE e = 0xFF then (List.range 8).filter fun d => decide (s.dieJob d = feJOB e) else [feDIE e]

/-- 8.01 ms (R439, R445). -/
def fenceWait : Nat := 8010000

/-! The check of a whole list (R437, R445). -/

/-- What the entries before one would leave: the fence table, FENCED cores and placement generations, with the
times of their last change. -/
structure FenceView where
  tbl : List (Nat × Option Nat × Nat) := []
  cores : Tbl Nat := []
  pgen : Tbl Nat := []
  pgenAt : Tbl Nat := []
  bad : List (Bool × Nat) := []
  deriving DecidableEq, Repr

def State.fenceView (s : State) : FenceView :=
  { tbl := s.saf.fence.map fun e => (e.md, e.die, e.at_)
    cores := s.saf.coreAt.filter fun e => decide (s.saf.cores.get 0 e.1 = 1)
    pgen := (List.range 8).map fun d => (d, s.diePgen d)
    pgenAt := s.saf.pgenAt }

/-- The unit an entry fences or releases. -/
def feUnit (e : Bytes) : Nat × Option Nat := (feMOD e, if feKIND e = 2 ∨ feKIND e = 5 then some (feDIE e) else none)

/-- A view after a fence of a module or die. -/
def FenceView.fence (v : FenceView) (now : Nat) (u : Nat × Option Nat) : FenceView :=
  let rest := v.tbl.filter fun x => !decide (x.1 = u.1 ∧ x.2.1 = u.2)
  { v with tbl := rest ++ [(u.1, u.2, now)], bad := v.bad ++ [(decide (512 ≤ rest.length), 0x5D03)] }

/-- A view after the release of a module or die. -/
def FenceView.unfence (v : FenceView) (now : Nat) (u : Nat × Option Nat) : FenceView :=
  let hit := v.tbl.filter fun x => decide (x.1 = u.1 ∧ x.2.1 = u.2)
  { v with tbl := v.tbl.filter fun x => !decide (x.1 = u.1 ∧ x.2.1 = u.2)
           bad := v.bad ++ [(hit.any fun x => decide (now < x.2.2 + fenceWait), 0x5D04)] }

/-- A view after a GENSET of one die. -/
def FenceView.genset (v : FenceView) (now d g : Nat) : FenceView :=
  let cur := v.pgen.get 0 d
  let last := v.pgenAt.get 0 d
  let up := decide (g = (cur + 1) % 256)
  let soon := up && decide (last ≠ 0 ∧ now < last - 1 + fenceWait)
  { v with pgen := v.pgen.put d g, pgenAt := if up then v.pgenAt.put d (now + 1) else v.pgenAt
           bad := v.bad ++ [((!decide (g = cur) && !up) || soon, 0x5D02)] }

/-- One entry checked against what the entries before it leave. -/
def State.fenceCheck (s : State) (v : FenceView) (e : Bytes) : FenceView :=
  let k := feKIND e
  let now := s.clk
  let own := decide (feMOD e = s.module)
  let v1 := { v with bad := v.bad ++ [(!feOk e, 0x5D01)] }
  if k = 1 ∨ k = 2 then v1.fence now (feUnit e)
  else if k = 4 ∨ k = 5 then v1.unfence now (feUnit e)
  else if !own then v1
  else if k = 3 then { v1 with cores := v1.cores.put (feCORE e) (now + 1) }
  else if k = 6 then
    let last := v1.cores.get 0 (feCORE e)
    { v1 with cores := v1.cores.del (feCORE e)
              bad := v1.bad ++ [(decide (last ≠ 0 ∧ now < last - 1 + fenceWait), 0x5D04)] }
  else if k = 7 then
    let alien := decide (feDIE e ≤ 7 ∧ s.dieJob (feDIE e) ≠ feJOB e)
    (s.genDies e).foldl (fun (v : FenceView) d => v.genset now d (fePGEN e))
      { v1 with bad := v1.bad ++ [(alien, 0x5D02)] }
  else v1

/-! Effects (R438, R439, R441). -/

/-- A unit enters the fence table, or its entry is renewed. -/
def State.fenceAdd (s : State) (u : Nat × Option Nat) : State :=
  let rest := s.saf.fence.filter fun x => !decide (x.md = u.1 ∧ x.die = u.2)
  let left := if u.1 = s.module then 0 else 100
  let tbl := rest ++ [{ md := u.1, die := u.2, at_ := s.clk, left := left }]
  ({ s with saf := { s.saf with fence := tbl } } : State).fset RF.SAF_FENCE_CTL_TBL_USED tbl.length

def State.fenceDel (s : State) (u : Nat × Option Nat) : State :=
  let tbl := s.saf.fence.filter fun x => !decide (x.md = u.1 ∧ x.die = u.2)
  ({ s with saf := { s.saf with fence := tbl } } : State).fset RF.SAF_FENCE_CTL_TBL_USED tbl.length

/-- The fence table holds a unit. -/
def State.fenceHas (s : State) (u : Nat × Option Nat) : Bool :=
  s.saf.fence.any fun x => decide (x.md = u.1 ∧ x.die = u.2)

/-- A die's engines, transfers and parts are dropped, and its kernels end FENCED at once. -/
def State.dieQuiet (s : State) (d : Nat) : State :=
  let s1 := (s.coresOf d).foldl (fun (s : State) c =>
    let t := s.stopCore c stFENCED
    (t.setCoreRec c { t.coreRec c with outst := [], resetting := false }).kernelTryEnd c) s
  let s2 := ((s1.dropJobs d fun _ => false).coresClear d).reqDrop fun q => decide (3 ≤ q.kind ∧ dieOf q.core = d)
  let mine := fun (o : XOwner) => match o with
    | .cmd core _ => decide (dieOf core = d)
    | _ => false
  let wq := s2.host.wq.filter fun h => !mine h.owner
  let xfers := s2.fab.xfers.drop fun k => decide (k / 65536 = d)
  let fab := { s2.fab with xfers := xfers, idWait := s2.fab.idWait.del d, rx := s2.fab.rx.del d,
                           orphans := s2.fab.orphans.del d }
  let ops := s2.swm.ops.map fun o => { o with members := o.members.filter fun m => m.die != d }
  let parts := s2.smp.parts.filter fun r => decide (dieOf r.core ≠ d)
  { s2 with host := { s2.host with wq := wq }, fab := fab, swm := { s2.swm with ops := ops },
            smp := { s2.smp with parts := parts } }

/-- A die of this module is held in reset by a fence (R438). -/
def State.dieHold (s : State) (d : Nat) : State :=
  let s1 := ((s.voteFailed d).dieQuiet d).dieEnter d
  let s2 : State := { s1 with saf := { s1.saf with dies := s1.saf.dies.put d 1 } }
  let s3 := s2.capDiscard d true
  (s3.cap.hives.filter fun h => decide (h.key.job = s3.dieJob d ∧ h.vec = none ∧ h.vote = 0)).foldl
    (fun (s : State) h => s.hiveReview h.key) s3

/-- This module is fenced: it resets and holds in phase 0; only its own entry stays in its table (R438, R491). -/
def State.selfFence (s : State) (body : Bytes) : State :=
  let s1 := ((s.moduleReset false false).selfHold)
  let s2 := (({ s1 with saf := { s1.saf with fence := [] } } : State).fenceAdd (s.module, none))
  s2.hiveRec 0x8909 0 2 body

/-- The caps that wait for a witness on a fenced module are sent (R277). -/
def State.fenceWitness (s : State) (m : Nat) : State :=
  (s.cap.coord.filter fun c => decide (c.st = 2)).foldl (fun (s : State) c =>
    match s.group c.key.job c.key.gid with
    | some g => if g.wMod = m then s.coordSend g c else s
    | none => s) s

/-- A core enters FENCED, and its kernel will complete FENCED. -/
def State.coreFence (s : State) (core : Nat) : State :=
  let saf := { s.saf with cores := s.saf.cores.put core 1, coreAt := s.saf.coreAt.put core (s.clk + 1) }
  (({ s with saf := saf } : State).stopCore core stFENCED).setCoreState core csFENCED

/-- A GENSET of one die. -/
def State.gensetDie (s : State) (d g : Nat) : State :=
  if s.diePgen d = g then s
  else
    let s1 := s.fset (RF.FAB_NI_CFG_PGEN d) g
    { s1 with saf := { s1.saf with pgenAt := s1.saf.pgenAt.put d (s1.clk + 1) } }

/-- One entry of an accepted list. Answers whether a reset of this module has ended the list. -/
def State.fenceApply (s : State) (e : Bytes) : State × Bool :=
  let k := feKIND e
  let own := decide (feMOD e = s.module)
  let u := feUnit e
  let body := e.take 12
  if k = 1 then
    if own then (s.selfFence body, true)
    else ((((s.fenceAdd u).fenceWitness (feMOD e)).fenceEdge (feMOD e)).hiveRec 0x8906 0 1 body, false)
  else if k = 2 then
    ((if own then (s.fenceAdd u).dieHold (feDIE e) else s.fenceAdd u).hiveRec 0x8906 0 1 body, false)
  else if k = 4 then
    let held := s.fenceHas u
    let s1 := s.fenceDel u
    let s2 := if own ∧ held then
        (List.range 8).foldl (fun (s : State) d => s.dieLeave d)
          { s1 with boot := { s1.boot with selfFenced := false } }
      else s1
    (s2.hiveRec 0x8907 0 0 body, false)
  else if k = 5 then
    let s1 := s.fenceDel u
    let s2 : State := if own ∧ s.fenceHas u then
        { s1 with saf := { s1.saf with dies := s1.saf.dies.put (feDIE e) 2 } } else s1
    (s2.hiveRec 0x8907 0 0 body, false)
  else if !own then (s, false)
  else if k = 3 then ((s.coreFence (feCORE e)).hiveRec 0x8906 0 1 body, false)
  else if k = 6 then
    let c := feCORE e
    let saf := { s.saf with cores := s.saf.cores.put c 2, coreAt := s.saf.coreAt.del c }
    let s1 : State := if s.saf.cores.get 0 c = 1 then { s with saf := saf } else s
    (s1.hiveRec 0x8907 0 0 body, false)
  else (((s.genDies e).foldl (fun (s : State) d => s.gensetDie d (fePGEN e)) s).hiveRec 0x8908 0 0 body, false)

/-- SAF_FENCE_CTL reports the end of a list. -/
def State.fenceResult (s : State) (res reason : Nat) : State :=
  ((s.fset RF.SAF_FENCE_CTL_RESULT res).fset RF.SAF_FENCE_CTL_REASON reason).isum 7

/-- SAF_FENCE_CTL.GO with the list its address holds. -/
def State.fenceListGo (s : State) (fn : Nat) (list : Bytes) : State :=
  let n := s.fget RF.SAF_FENCE_CTL_COUNT
  let addr := (s.reg Reg.SAF_FENCE_ADDR).toNat
  let win := s.readsOk 0 addr (16 * n)
  let es := fenceEntries n list
  let v := es.foldl (fun (v : FenceView) e => s.fenceCheck v e) s.fenceView
  let conds := [(decide (fn ≠ 0), 0x6B04), (!win, 0x6B01), (decide (n = 0 ∨ 256 < n), 0x5D01)] ++ v.bad
  if s.fget RF.SAF_FENCE_CTL_RESULT = 1 then s.refuseReg 0x5F03 Reg.SAF_FENCE_CTL
  else match pick conds with
  | some reason =>
    let s1 := if fn = 0 ∧ !win then s.dmaBlock 0 4 0xFFFF addr else s
    (s1.fenceResult 3 reason).refuseItem reason fn
  | none =>
    let r := es.foldl (fun (a : State × Bool) e => if a.2 then a else a.1.fenceApply e) (s, false)
    if r.2 then r.1 else r.1.fenceResult 2 0

/-- FENCE_LIST (R437, R491). -/
def execFenceList (fn : FnId) (list : Bytes) (s : State) : Host.Outcome State Fault Refusal :=
  .next (s.fenceListGo fn.val list)

/-- FENCE_NOTICE_SEND: the next of an entry's 100 notices, a JOB 0 MGMT cell to the fenced unit (R438). -/
def execFenceNoticeSend (entry : Fin 512) (s : State) : Host.Outcome State Fault Refusal :=
  .next (match s.saf.fence[entry.val]? with
  | some e =>
    if e.left = 0 ∨ e.md = s.module then s
    else
      let tbl := s.saf.fence.set entry.val { e with left := e.left - 1 }
      ({ s with saf := { s.saf with fence := tbl } } : State).sendCell e.md (e.die.getD 8) 8 12 0 false true
        0 0 0 []
  | none => s)

/-- FENCE_NOTICE_RECEIVE: for this module, or for one of its dies (R438). -/
def execFenceNoticeReceive (die : Option DieId) (s : State) : Host.Outcome State Fault Refusal :=
  let s := match s.fab.mgmtQ.find? fun e => decide (Cell.type e.2 = 12) with
    | some e => s.mgmtDone e.1 12 false
    | none => s
  .next (match die with
  | none => if s.boot.selfFenced then s else s.selfFence []
  | some d =>
    if s.fenceHas (s.module, some d.val) then s
    else (s.fenceAdd (s.module, some d.val)).dieHold d.val)

end Sys2Proof.Machine
end

