-- ==== Sys2Proof/Machine/RingCmds.lean ====
section
/-! DEFINITION. Doorbells, ring and window writes, bus master enable, PCIe completions and credits (R351, R355 to
R361, R366, R367, R370, R371). -/

namespace Sys2Proof.Machine

/-! Doorbells (R359). -/

/-- SQ_TAIL: new descriptors are announced. -/
def execSqTail (fn : FnId) (lidx : Fin 256) (v : BitVec 32) (s : State) : Host.Outcome State Fault Refusal :=
  .next (match s.ringOf fn.val lidx.val with
    | none => s
    | some n =>
      let t := fld v 0 16
      let q := qEntries (s.fget (RF.RING_SQ_LOG2 n))
      if q ≤ t then s.ringError n 1
      else
        let r := s.ringRec n
        let k := s.host.bellNo + 1
        let bells := r.bells ++ List.replicate ((t + q - r.tail) % q) k
        ({ s with host := { s.host with bellNo := k } } : State).setRing n { r with tail := t, bells := bells })

/-- CQ_HEAD: entries are free again; held completions are written. -/
def execCqHead (fn : FnId) (lidx : Fin 256) (v : BitVec 32) (s : State) : Host.Outcome State Fault Refusal :=
  .next (match s.ringOf fn.val lidx.val with
    | none => s
    | some n =>
      let h := fld v 0 16
      if qEntries (s.fget (RF.RING_CQ_LOG2 n)) ≤ h then s.ringError n 1
      else ((s.setRing n { s.ringRec n with head := h }).heldRun n).ringSettle n)

/-- IRQ_HOLD_EXPIRE: the pending completions are signalled (R367). -/
def execIrqHoldExpire (ring : RingId) (s : State) : Host.Outcome State Fault Refusal :=
  .next (if (s.ringRec ring.val).irq ≠ 0 then s.ringIrq ring.val else s)

/-- RING_ENABLE (R361). -/
def execRingEnable (fn : FnId) (ring : RingId) (s : State) : Host.Outcome State Fault Refusal :=
  .next (s.ringEnable fn.val ring.val)

/-- RING_DISABLE (R360). -/
def execRingDisable (fn : FnId) (ring : RingId) (s : State) : Host.Outcome State Fault Refusal :=
  .next (s.ringDisable fn.val ring.val)

/-! Bus master enable (R371). -/

/-- A function's bus master enable. -/
def State.setBme (s : State) (fn : Nat) (on : Bool) : State :=
  let rest := if bitN s.host.bme fn then s.host.bme - 2 ^ fn else s.host.bme
  { s with host := { s.host with bme := if on then rest + 2 ^ fn else rest } }

/-- BME_CLEAR: no new host request; the function's rings are FROZEN. -/
def execBmeClear (fn : FnId) (s : State) : Host.Outcome State Fault Refusal :=
  .next ((s.ringsOf fn.val).foldl (fun (s : State) n => s.ringFreeze n true) (s.setBme fn.val false))

/-- BME_SET: rings are ACTIVE again, held completions are written, waiting requests issue. -/
def execBmeSet (fn : FnId) (s : State) : Host.Outcome State Fault Refusal :=
  let s1 := s.setBme fn.val true
  .next ((s1.ringsOf fn.val).foldl (fun (s : State) n =>
    (((s.ringThaw n).heldRun n).descRun n).ringSettle n) s1).hostRun

/-! DMA windows (R355, R357). -/

/-- OLDREQ follows the outstanding requests (R357). -/
def State.oldReq (s : State) (fn : Nat) : State :=
  s.fset (RF.PCI_DMA_STAT_OLDREQ fn) (min 65535
    (s.host.reqs.filter fun e => decide (e.2.fn = fn) && e.2.old).length)

/-- A DMA window of a function changes for every request checked from now on (R356, R357). -/
def State.windowChanged (s : State) (f : Nat) : State :=
  let reqs := s.host.reqs.map fun e => if e.2.fn = f then (e.1, { e.2 with old := true }) else e
  let host := { s.host with reqs := reqs, dmaStop := s.host.dmaStop.del f }
  (({ s with host := host } : State).oldReq f).hostRun

/-- DMA_WINDOW_WRITE: a window changes for every request checked from now on. -/
def execDmaWindowWrite (fn : FnId) (w : Fin 16) (lim : Bool) (v : Word64) (s : State) :
    Host.Outcome State Fault Refusal :=
  let f := fn.val
  let s1 := if lim then s.fset (RF.PCI_DMAW_LIM_LIMIT f w.val) (fld v 12 52)
    else ((s.fset (RF.PCI_DMAW_BASE_RD f w.val) (fld v 0 1)).fset (RF.PCI_DMAW_BASE_WR f w.val)
      (fld v 1 1)).fset (RF.PCI_DMAW_BASE_BASE f w.val) (fld v 12 52)
  .next (s1.windowChanged f)

/-! Host reads (R351, R370). -/

/-- Data of a copy's host read arrives; with the last of it the copy delivers (R143). -/
def State.copyArrive (s : State) (q : HReq) (data : Bytes) : State :=
  let join := fun (t : Tbl Nat) => data.zipIdx.foldl (fun (t : Tbl Nat) b => t.put (q.off + b.2) b.1.toNat) t
  let s1 := s.mapCopy q.core q.seq fun j => { j with data := join j.data }
  match s1.copyJob q.core q.seq with
  | some j =>
    let n := cpBytes j.word
    if j.data.length = n ∧ (j.status = stOK ∨ j.status = stDEGRADED) then
      (s1.copyDeliver j ((List.range n).map fun i => BitVec.ofNat 8 (j.data.get 0 i))).ceRun (dieOf q.core)
        (cpCE j.word)
    else s1
  | none => s1

/-- An outstanding request leaves the table. -/
def State.reqEnd (s : State) (tag : Nat) (q : HReq) : State :=
  ({ s with host := { s.host with reqs := s.host.reqs.del tag } } : State).oldReq q.fn

/-- An Unexpected Completion is discarded and counted for the function whose tag it was, else for PF0. -/
def State.unexpected (s : State) (tag : Nat) : State :=
  s.finc (RF.PCI_DMA_STAT_UNEXP (s.host.quar.get 1 tag - 1)) 1

/-- PCIE_COMPLETION: data of a host read is used, or discarded; that of the zero-length read after a copy's writes
acknowledges the copy (R370). -/
def execPcieCompletion (tag : Fin 1024) (data : Bytes) (s : State) : Host.Outcome State Fault Refusal :=
  .next (match s.host.reqs.find? fun e => e.1 == tag.val with
    | none => s.unexpected tag.val
    | some e =>
      let q := e.2
      let bs := toLen q.len data
      let s1 := s.reqEnd tag.val q
      let s2 := if q.discard then s1
        else if q.kind = 2 then s1.hdmaArrive q bs
        else if q.kind = 4 then s1.copyAck q.core q.seq stOK 0
        else s1.copyArrive q bs
      s2.reqRun)

/-- A copy ends because a host read of it was never answered. -/
def State.copyTimeout (s : State) (core seq : Nat) : State :=
  match s.copyJob core seq with
  | some j =>
    (s.copyGiveUp core seq stTIMEOUT 0).ceRun (dieOf core) (cpCE j.word)
  | none => s

/-- PCI_COMPLETION_TIMEOUT: a read request is given up, its tag kept out of use (R370). -/
def execPciCompletionTimeout (tag : Fin 1024) (s : State) : Host.Outcome State Fault Refusal :=
  .next (match s.host.reqs.find? fun e => e.1 == tag.val with
    | none => s
    | some e =>
      let q := e.2
      let s1 := s.reqEnd tag.val q
      let s2 : State := { s1 with host := { s1.host with quar := s1.host.quar.put tag.val (q.fn + 1) } }
      let s3 := s2.hiveRec 0x8803 0 1 (pay [(1, q.fn), (1, min 3 q.kind),
        (2, if q.kind = 2 then q.ring else 0xFFFF), (8, q.addr)])
      let s4 := if q.discard then s3
        else if q.kind = 2 then s3.hdmaFail q.ring q.tag stTIMEOUT 0 else s3.copyTimeout q.core q.seq
      s4.reqRun)

/-- TAG_QUARANTINE_END: a tag returns to use 1 s after its timeout. -/
def execTagQuarantineEnd (tag : Fin 1024) (s : State) : Host.Outcome State Fault Refusal :=
  .next (({ s with host := { s.host with quar := s.host.quar.del tag.val } } : State).reqRun)

/-- HDMA_PROGRESS_TIMEOUT: a die-to-host HDMA that moves nothing is given up. -/
def execHdmaProgressTimeout (ring : RingId) (tag : BitVec 16) (s : State) : Host.Outcome State Fault Refusal :=
  .next (match s.desc ring.val tag.toNat with
    | some d => if fld d.word 0 8 = 2 ∧ d.st = 2 ∧ bit d.word 32 then
        (s.hdmaFail ring.val tag.toNat stTIMEOUT 0).hostRun else s
    | none => s)

/-- HOST_CREDITS: posted-write bytes the host accepts; buffered writes drain. -/
def execHostCredits (n : BitVec 32) (s : State) : Host.Outcome State Fault Refusal :=
  .next (({ s with host := { s.host with credits := s.host.credits + n.toNat } } : State).hostRun)

end Sys2Proof.Machine
end

