-- ==== Sys2Proof/Machine/FlrCmds.lean ====
section
/-! DEFINITION. Function-level resets (R372, R412). -/

namespace Sys2Proof.Machine

/-- A function stops: no new host request, its rings DISABLED and cold but for their allotment, what it reads
from the host discarded (R372 steps 1 and 2). -/
def State.fnStop (s : State) (fn : Nat) : State :=
  let s1 := (s.ringsOf fn).foldl (fun (s : State) n => s.ringDrop n) (s.setBme fn false)
  let s2 := (s1.ringsAll fn).foldl (fun (s : State) n =>
    let own := s.ringFn n
    let idx := s.fget (RF.RING_CFG_LIDX n)
    let t := (((s.setReg (Reg.RING_SQ n) (coldOf (Reg.RING_SQ n))).setReg (Reg.RING_CQ n)
      (coldOf (Reg.RING_CQ n))).setReg (Reg.RING_STAT n) (coldOf (Reg.RING_STAT n))).setReg (Reg.RING_CFG n)
      (coldOf (Reg.RING_CFG n))
    ((t.fset (RF.RING_CFG_OWNER n) own).fset (RF.RING_CFG_LIDX n) idx).setRing n {}) s1
  let reads := (s2.host.rq ++ s2.host.reqs.map fun e => e.2).filterMap fun q =>
    if q.fn = fn ∧ 3 ≤ q.kind then some (q.core, q.seq) else none
  let writes := s2.host.wq.filterMap fun h => match h.owner with
    | .cmd core seq => if h.fn = fn then some (core, seq) else none
    | _ => none
  let s3 := (s2.reqDrop fun q => decide (q.fn = fn)).setReg (Reg.PCI_DMA_STAT fn) 0
  (reads ++ writes).foldl (fun (s : State) c => s.copyTimeout c.1 c.2) s3

/-- The function-level reset of a VF: its partition is reset too, unless it is being reclaimed (R372, R412). -/
def State.flrVf (s : State) (p : Nat) : State :=
  let s1 := s.fnStop (p + 1)
  if s.partOn p ∧ s.fget (RF.HIVE_PART_RECLAIM p) = 0 then s1.partResetStart p true [] else s1

/-- FLR_VF (R372). -/
def execFlrVf (p : PartId) (s : State) : Host.Outcome State Fault Refusal := .next (s.flrVf p.val)

/-- FLR_PF0: every VF is reset, and PF0's rings and its 16 aperture windows (R353, R372). -/
def execFlrPf0 (s : State) : Host.Outcome State Fault Refusal :=
  let s1 := (List.range 8).foldl (fun (s : State) p => s.flrVf p) s
  .next ((List.range 16).foldl (fun (s : State) w => s.setReg (Reg.PCI_APW w) 0) (s1.fnStop 0))

end Sys2Proof.Machine
end

