-- ==== Sys2Proof/Machine/PowerCmds.lean ====
section
/-! DEFINITION. The 54 V input, the lever, the sideband outputs, the safety detectors and the safety states (R20,
R424 to R428, R449 to R454, R489, R490). -/

namespace Sys2Proof.Machine

/-! Sideband outputs (R452, R454). -/

/-- ALERT_N is meant to be low. -/
def State.alertLow (s : State) : Bool :=
  decide (s.fget RF.LOG_STAT_SSTATE = 2) || decide (s.fget RF.LOG_LG_CAUSE_VALID = 1)

/-- SVC_LED: 0 off, 1 on, 2 blinking at 4 Hz, 3 at 1 Hz. -/
def State.svcLed (s : State) : Nat :=
  if s.pwr.down then 3
  else if s.fget RF.LOG_STAT_SSTATE = 2 then 2
  else if s.fget RF.HIVE_SB_IDENT = 1 then 1
  else 0

def State.pin (s : State) (k : Nat) : Nat := s.pwr.pins.get 0 k
def State.setPin (s : State) (k v : Nat) : State :=
  { s with pwr := { s.pwr with pins := s.pwr.pins.set 0 k v } }

/-- Contention counters and the flags of outputs that stay high-impedance: 0 ALERT_N, 1 SVC_LED, 2 TDO. -/
def sbCNT (p : Nat) : FRef :=
  if p = 0 then RF.HIVE_SB_ALERT_CNT else if p = 1 then RF.HIVE_SB_SVC_CNT else RF.HIVE_SB_TDO_CNT
def sbHIZ (p : Nat) : FRef := if p = 1 then RF.HIVE_SB_SVC_HIZ else RF.HIVE_SB_TDO_HIZ

/-- An output drives its pin: ALERT_N only while it asserts, none while it waits after a contention. -/
def State.drives (s : State) (p : Nat) : Bool :=
  decide (s.pin (p + 8) = 0) &&
    if p = 0 then s.alertLow else decide (s.fget (sbHIZ p) = 0)

/-- SIDEBAND_CONTENTION: counted, and the output lets go; SVC_LED and TDO for good after three in a row, each
met as soon as the output drives again (R454). -/
def execSidebandContention (pin : Fin 3) (s : State) : Host.Outcome State Fault Refusal :=
  let p := pin.val
  let again := decide (s.pin (p + 16) ≠ 0 ∧ s.clk < s.pin (p + 16) + 10000)
  let n := if again then s.pin p + 1 else 1
  .next (if s.drives p then
    let s1 := ((s.finc (sbCNT p) 1).setPin p n).setPin (p + 8) 1
    if p ≠ 0 ∧ 3 ≤ n then s1.fset (sbHIZ p) 1 else s1
  else s)

/-- SIDEBAND_RETRY: 100 ms after a contention the output drives again (R454). -/
def execSidebandRetry (pin : Fin 3) (s : State) : Host.Outcome State Fault Refusal :=
  let p := pin.val
  .next (if s.pin (p + 8) = 1 ∧ (p = 0 ∨ s.fget (sbHIZ p) = 0) then
    (s.setPin (p + 8) 0).setPin (p + 16) (s.clk + 1)
  else s)

/-! Power input and lever (R449, R451). -/

/-- BROWN_OUT: the input stays below 38 V; the AON domain runs on. -/
def execBrownOut (s : State) : Host.Outcome State Fault Refusal :=
  .next (if s.pwr.rails then s.railsOff 0 else s)

/-- INPUT_OVERVOLTAGE: the eFuse opens, and the rails turn off as at a brown-out. -/
def execInputOvervoltage (s : State) : Host.Outcome State Fault Refusal :=
  .next (if s.pwr.rails then s.railsOff 0 else s)

/-- Fields that flash or fuses hold, which survive without the AON domain. -/
def RField.keptFlash (off : Nat) (f : RField) : Bool :=
  (f.coldKept || (f.warmKept && decide (f.acc = .ro))) &&
    !([Reg.LOG_STAT, Reg.LOG_MIRSEQ, Reg.LOG_LG_TIME, Reg.LOG_LG_CAUSE, Reg.LOG_LG_INFO, Reg.SAF_MGKEY_CTL,
      Reg.SAF_MGNONCE].contains off)

/-- AON_POWER_LOSS: the AON domain stops; the mirror, the last-gasp registers, the management key and its nonce
are lost (R434, R449, R492). -/
def State.aonLoss (s : State) : State :=
  let s1 := (if s.pwr.rails then s.railsOff 0 else s).resetRegs RField.keptFlash
  let saf := { s1.saf with key := [], wdog := [], pgenAt := [] }
  { s1 with log := {}, saf := saf, pwr := { s1.pwr with aon := false, rails := false, down := false } }

def execAonPowerLoss (s : State) : Host.Outcome State Fault Refusal := .next s.aonLoss

/-- ILOCK_REMOVAL: the lever has been open for 10 ms; the dies vote failed in open caps, GOING_DOWN goes out and
the rails turn off (R451). -/
def State.leverOpen (s : State) : State :=
  let s0 : State := { s with pwr := { s.pwr with ilock := false } }
  let s1 := if s.pwr.rails then
      let s1 := (List.range 8).foldl (fun (s : State) d => s.voteFailed d) s0
      (((List.range 40).filter fun p => decide (s1.portState p = 3)).foldl (fun (s : State) p =>
        s.sendCtl p 0 true) s1).railsOff 0
    else s0
  { s1 with pwr := { s1.pwr with down := true } }

def execIlockRemoval (s : State) : Host.Outcome State Fault Refusal := .next s.leverOpen

/-- ILOCK_RESTART: after the power-down the lever has been shut for 1 s; bring-up runs (R451). -/
def execIlockRestart (s : State) : Host.Outcome State Fault Refusal :=
  .next (if s.pwr.down then
    let s1 : State := { s with pwr := { s.pwr with ilock := true, down := false } }
    if s.saf.cause then s1 else s1.powerOn
  else s)

/-! SAFE_OFF (R424). -/

/-- The module enters SAFE_OFF: the rails turn off, and the last-gasp sender transmits (R424, R435). -/
def State.safeOff (s : State) (cause : Nat) (body : Bytes) : State :=
  let s1 := (s.setSState 2).railsOff 2
  ({ s1 with saf := { s1.saf with cause := true } } : State).lastGasp cause (leAt body 0 8)

/-- Payload of the temperature and current records (R432). -/
def safPay (unit die cause reading limit mhz : Nat) : Bytes :=
  pay [(1, unit), (1, die), (1, cause), (1, 0), (2, reading), (2, limit), (4, mhz)]

/-! Junction temperature (R425). -/

/-- Lowest and nominal CORE frequency in MHz, and the throttle step. -/
def coreFloor : Nat := 520
def coreNominal : Nat := 1600
def coreStep : Nat := 100

def State.coreMhz (s : State) (d : Nat) : Nat := s.fget (RF.COMB_CLK_CORE_MHZ d)

/-- A die whose clock runs lowers it by one step, not below the floor. -/
def State.slower (s : State) (d : Nat) : State :=
  if s.coreMhz d = 0 then s else s.fset (RF.COMB_CLK_CORE_MHZ d) (max coreFloor (s.coreMhz d - coreStep))

/-- THROTTLED from NORMAL; accepted set-ups are re-evaluated at the lower frequency (R35). Answers whether the module entered it. -/
def State.throttled (s : State) : State × Bool :=
  if s.fget RF.LOG_STAT_SSTATE = 0 then ((s.setSState 1).reevaluate, true) else (s.reevaluate, false)

/-- NORMAL again when no die is held below nominal. -/
def State.tryNormal (s : State) : State :=
  if (List.range 8).all fun d => decide (s.coreMhz d = coreNominal ∨ s.coreMhz d = 0) then
    let s1 := s.fset RF.SAF_PWR_LIMITING 0
    if s1.fget RF.LOG_STAT_SSTATE = 1 then s1.setSState 0 else s1
  else s

/-- Dies that a sensor pair throttles: its own, or every die for the hive's. -/
def tjDies (unit : Nat) : List Nat := if unit = 8 then List.range 8 else [unit]

/-- Highest readings of a die and of the module, in °C, from the hot pairs and a reading in 0.1 °C. -/
def State.tjShow (s : State) (unit temp : Nat) : State :=
  let top := fun (p : Nat → Bool) => ((s.saf.hot.filter fun e => p e.1).map fun e => e.2).foldl max temp / 10
  let s1 := if unit < 8 then s.fset (RF.COMB_CLK_TJ unit) (min 255 (top fun k => decide (k / 32 = unit))) else s
  s1.fset RF.SAF_TJ_TJ_MAX (min 255 (top fun _ => true))

/-- A record of a die's or the hive's sensors. -/
def State.tjRec (s : State) (unit : Nat) (body : Bytes) : State :=
  if unit < 8 then s.dieRec unit 0x8901 0 1 body else s.hiveRec 0x8901 0 1 body

/-- A pair reads above TJ_THROT twice: its dies lower CORE, and entry into THROTTLED is recorded. -/
def State.tjThrottle (s : State) (unit pair temp : Nat) : State :=
  let limit := 10 * s.fget RF.SAF_TJ_TJ_THROT
  if !s.pwr.rails ∨ temp ≤ limit then s
  else
    let s0 : State := { s with saf := { s.saf with hot := s.saf.hot.put (unit * 32 + pair) temp } }
    let s1 := (tjDies unit).foldl (fun (s : State) d => s.slower d) (s0.tjShow unit temp)
    let mhz := s1.coreMhz (if unit < 8 then unit else 0)
    let r := s1.throttled
    if r.2 then r.1.tjRec unit (safPay pair (if unit < 8 then unit else 0xFF) 0 temp limit mhz) else r.1

/-- TJ_THROTTLE (R425): temperatures in 0.1 °C. -/
def execTjThrottle (unit : FnId) (pair : Fin 24) (temp : BitVec 16) (s : State) :
    Host.Outcome State Fault Refusal :=
  .next (s.tjThrottle unit.val pair.val temp.toNat)

/-- Some sensor that throttles a die is above TJ_THROT. -/
def State.dieHot (s : State) (d : Nat) : Bool := s.saf.hot.any fun e => decide (e.1 / 32 = d ∨ e.1 / 32 = 8)

/-- THROTTLE_STEP: every 50 µs while hot CORE falls by 0.1 GHz; every 10 ms once every sensor has been cool for
10 ms it rises by 0.1 GHz (R425). -/
def execThrottleStep (die : DieId) (hot : Bool) (s : State) : Host.Outcome State Fault Refusal :=
  let d := die.val
  .next (if s.coreMhz d = 0 then s
  else if hot then (if s.dieHot d then (s.slower d).reevaluate else s)
  else
    let left := s.saf.hot.filter fun e => !decide (e.1 / 32 = d ∨ e.1 / 32 = 8)
    let s1 : State := { s with saf := { s.saf with hot := left } }
    if s1.fget (RF.COMB_CLK_FLOOR d) = 1 then s1
    else (s1.fset (RF.COMB_CLK_CORE_MHZ d) (min coreNominal (s1.coreMhz d + coreStep))).tryNormal)

/-- TJ_SHUTDOWN (R425). -/
def State.tjShutdown (s : State) (unit pair temp : Nat) : State :=
  let limit := 10 * s.fget RF.SAF_TJ_TJ_SHUT
  if !s.pwr.rails ∨ temp ≤ limit then s
  else
    let body := safPay pair (if unit < 8 then unit else 0xFF) 0 temp limit 0
    (s.aonRec 0x8902 3 body).safeOff 4 body

def execTjShutdown (unit : FnId) (pair : Fin 24) (temp : BitVec 16) (s : State) :
    Host.Outcome State Fault Refusal :=
  .next (s.tjShutdown unit.val pair.val temp.toNat)

/-- SENSOR_DISAGREEMENT: the pair's die, or every die for a pair of the hive, is held at the floor until the next
module reset (R425). -/
def execSensorDisagreement (unit : FnId) (pair : Fin 24) (temp : BitVec 16) (s : State) :
    Host.Outcome State Fault Refusal :=
  let u := unit.val
  let limit := 10 * s.fget RF.SAF_TJ_TJ_THROT
  .next (if !s.pwr.rails then s
  else
    let s1 := (tjDies u).foldl (fun (s : State) d =>
      (s.fset (RF.COMB_CLK_FLOOR d) 1).fset (RF.COMB_CLK_CORE_MHZ d) coreFloor) s
    (s1.throttled.1).tjRec u (safPay pair.val (if u < 8 then u else 0xFF) 1 temp.toNat limit coreFloor))

/-! Currents (R426, R450). -/

/-- Rated current in A of a rail, in the order of R450 with the rails of one step side by side. -/
def railRated : List Nat := [2, 20, 300, 500, 500, 500, 500, 500, 500, 500, 500, 400, 15, 60, 40, 50, 250, 40]

/-- Rails with overcurrent monitors: core, LPDDR5X and laser rails. -/
def railWatched (r : Nat) : Bool := decide ((2 ≤ r ∧ r ≤ 10) ∨ (12 ≤ r ∧ r ≤ 15) ∨ r = 17)

/-- RAIL_OVERCURRENT: currents in 0.1 A. -/
def execRailOvercurrent (rail : Fin 20) (amps : BitVec 16) (s : State) : Host.Outcome State Fault Refusal :=
  let r := rail.val
  let limit := railRated.getD r 0 * s.fget RF.SAF_OC_PCT / 10
  .next (if !s.pwr.rails ∨ !railWatched r ∨ amps.toNat < limit then s
  else
    let body := safPay r (if 3 ≤ r ∧ r ≤ 10 then r - 3 else 0xFF) 0 amps.toNat limit 0
    (s.aonRec 0x8903 3 body).safeOff 5 body)

/-- INPUT_OVERCURRENT: the eFuse opens above 110 A. -/
def execInputOvercurrent (amps : BitVec 16) (s : State) : Host.Outcome State Fault Refusal :=
  .next (if !s.pwr.rails ∨ amps.toNat ≤ 1100 then s
  else
    let body := safPay 0xFF 0xFF 0 amps.toNat 1100 0
    (s.aonRec 0x8903 3 body).safeOff 5 body)

/-! Coolant (R427). -/

/-- COOLANT_LOSS: the outlet in 0.1 °C, or the cold plate's rise in 0.1 °C/s, reaches its limit. -/
def execCoolantLoss (outlet : Bool) (reading : BitVec 16) (s : State) : Host.Outcome State Fault Refusal :=
  let limit := if outlet then 10 * s.fget RF.SAF_COOL_OUTLET else s.fget RF.SAF_COOL_RATE
  .next (if !s.pwr.rails ∨ reading.toNat < limit then s
  else
    let body := safPay 0xFF 0xFF (if outlet then 0 else 2) reading.toNat limit 0
    let s1 := if outlet then s.fset RF.SAF_COOL_T_OUT reading.toNat else s
    (s1.aonRec 0x8904 3 body).safeOff 6 body)

/-- CAUSE_CLEARED: SAFE_OFF may be left; a reset asked for meanwhile goes on as phase 0 (R424, R436). -/
def execCauseCleared (s : State) : Host.Outcome State Fault Refusal :=
  .next (if s.saf.cause then
    let wait := s.saf.resetWait
    let s1 : State := { s with saf := { s.saf with cause := false, resetWait := false, hot := [] } }
    if wait ∧ !s.pwr.rails ∧ !s.pwr.down then s1.powerOn else s1
  else s)

/-! The power limit (R20, R490). -/

/-- A die lowers CORE to hold the limit, by an amount the spec does not state: a free value not below the
floor. -/
def State.slowerFree (s : State) (d : Nat) : State :=
  let c := s.coreMhz d
  if c ≤ coreFloor then s
  else s.drawn.fset (RF.COMB_CLK_CORE_MHZ d) (coreFloor + s.freshVal.toNat % (c - coreFloor))

/-- The power average exceeds the limit: every die lowers CORE. -/
def State.limitPower (s : State) : State :=
  let s1 := (List.range 8).foldl (fun (s : State) d => s.slowerFree d) (s.fset RF.SAF_PWR_LIMITING 1)
  s1.throttled.1

/-- POWER_LIMIT_EXCEEDED: the 1 ms average in W. -/
def execPowerLimitExceeded (watts : BitVec 12) (s : State) : Host.Outcome State Fault Refusal :=
  .next (if !s.pwr.rails ∨ watts.toNat ≤ s.fget RF.SAF_PWR_LIMIT then s
  else (s.fset RF.SAF_PWR_AVG watts.toNat).limitPower)

/-! Thresholds (R489, R490). -/

/-- Allowed range of a threshold field. -/
def safRanges (off : Nat) : List (Nat × Nat × Nat × Nat) :=
  if off = Reg.SAF_TJ then [(0, 8, 85, 105), (8, 8, 95, 115)]
  else if off = Reg.SAF_PWR then [(0, 12, 1500, 3600)]
  else if off = Reg.SAF_COOL then [(0, 8, 5, 20), (8, 8, 60, 70)]
  else if off = Reg.SAF_OC then [(0, 8, 105, 120)]
  else []

/-- A new value of a threshold register leaves a field out of range, or TJ_THROT above TJ_SHUT − 10. -/
def safBad (off : Nat) (v : Word64) : Bool :=
  (safRanges off).any (fun f => decide (fld v f.1 f.2.1 < f.2.2.1 ∨ f.2.2.2 < fld v f.1 f.2.1)) ||
    (decide (off = Reg.SAF_TJ) && decide (fld v 8 8 < fld v 0 8 + 10))

/-- A threshold below the present reading acts as a crossing at once. -/
def State.safCross (s : State) (off : Nat) : State :=
  if !s.pwr.rails then s
  else if off = Reg.SAF_TJ then
    let s1 := (List.range 8).foldl (fun (s : State) d =>
      s.tjThrottle d 0 (10 * s.fget (RF.COMB_CLK_TJ d))) s
    let t := s1.fget RF.SAF_TJ_TJ_MAX
    if s1.fget RF.SAF_TJ_TJ_SHUT < t then s1.tjShutdown 8 0 (10 * t) else s1
  else if off = Reg.SAF_PWR then
    (if s.fget RF.SAF_PWR_LIMIT < s.fget RF.SAF_PWR_AVG then s.limitPower else s)
  else s

/-! Watchdog (R428). -/

/-- WATCHDOG_EXPIRE: the queen restarts; the third expiry within 600 s starts a module reset. -/
def execWatchdogExpire (s : State) : Host.Outcome State Fault Refusal :=
  .next (if !s.pwr.rails then s
  else
    let recent := s.saf.wdog.filter fun t => decide (s.clk < t + 600000000000)
    let n := recent.length + 1
    let last := (s.fget RF.LOG_STAT_NEXTSEQ + (2 ^ 32 - 1)) % 2 ^ 32
    let body := pay [(4, last), (1, n)]
    let s1 : State := { s with saf := { s.saf with wdog := recent ++ [s.clk] } }
    let s2 := if s1.fget RF.LOG_STAT_QRST = 1 then s1 else (s1.fset RF.LOG_STAT_QRST 1).isum 2
    let s3 := (s2.lastGasp 1 (leAt body 0 8)).aonRec 0x8905 3 body
    if 3 ≤ n then s3.moduleReset false false else s3)

end Sys2Proof.Machine
end

