-- ==== Sys2Proof/Machine/Sha.lean ====
section
/-! DEFINITION. SHA-256 and HMAC-SHA-256, which the management ports' reset request carries (R436). -/

namespace Sys2Proof.Machine

/-- The round constants, first 32. -/
def shaK1 : List Nat :=
  [0x428A2F98, 0x71374491, 0xB5C0FBCF, 0xE9B5DBA5, 0x3956C25B, 0x59F111F1, 0x923F82A4, 0xAB1C5ED5,
   0xD807AA98, 0x12835B01, 0x243185BE, 0x550C7DC3, 0x72BE5D74, 0x80DEB1FE, 0x9BDC06A7, 0xC19BF174,
   0xE49B69C1, 0xEFBE4786, 0x0FC19DC6, 0x240CA1CC, 0x2DE92C6F, 0x4A7484AA, 0x5CB0A9DC, 0x76F988DA,
   0x983E5152, 0xA831C66D, 0xB00327C8, 0xBF597FC7, 0xC6E00BF3, 0xD5A79147, 0x06CA6351, 0x14292967]

/-- The round constants, last 32. -/
def shaK2 : List Nat :=
  [0x27B70A85, 0x2E1B2138, 0x4D2C6DFC, 0x53380D13, 0x650A7354, 0x766A0ABB, 0x81C2C92E, 0x92722C85,
   0xA2BFE8A1, 0xA81A664B, 0xC24B8B70, 0xC76C51A3, 0xD192E819, 0xD6990624, 0xF40E3585, 0x106AA070,
   0x19A4C116, 0x1E376C08, 0x2748774C, 0x34B0BCB5, 0x391C0CB3, 0x4ED8AA4A, 0x5B9CCA4F, 0x682E6FF3,
   0x748F82EE, 0x78A5636F, 0x84C87814, 0x8CC70208, 0x90BEFFFA, 0xA4506CEB, 0xBEF9A3F7, 0xC67178F2]

/-- The initial hash value. -/
def shaInit : List (BitVec 32) :=
  [0x6A09E667, 0xBB67AE85, 0x3C6EF372, 0xA54FF53A, 0x510E527F, 0x9B05688C, 0x1F83D9AB, 0x5BE0CD19]

def shaSig (x : BitVec 32) (a b c : Nat) : BitVec 32 := x.rotateRight a ^^^ x.rotateRight b ^^^ x.rotateRight c
def shaSmall (x : BitVec 32) (a b c : Nat) : BitVec 32 := x.rotateRight a ^^^ x.rotateRight b ^^^ (x >>> c)

/-- One round: the next 16 schedule words and the eight working variables. -/
def shaRound (st : List (BitVec 32) × List (BitVec 32)) (k : Nat) : List (BitVec 32) × List (BitVec 32) :=
  let w := fun (i : Nat) => st.1.getD i 0
  let v := fun (i : Nat) => st.2.getD i 0
  let t1 := v 7 + shaSig (v 4) 6 11 25 + ((v 4 &&& v 5) ^^^ (~~~(v 4) &&& v 6)) + BitVec.ofNat 32 k + w 0
  let t2 := shaSig (v 0) 2 13 22 + ((v 0 &&& v 1) ^^^ (v 0 &&& v 2) ^^^ (v 1 &&& v 2))
  let next := shaSmall (w 14) 17 19 10 + w 9 + shaSmall (w 1) 7 18 3 + w 0
  (st.1.drop 1 ++ [next], [t1 + t2, v 0, v 1, v 2, v 3 + t1, v 4, v 5, v 6])

/-- One 64-byte block. -/
def shaBlock (h : List (BitVec 32)) (b : Bytes) : List (BitVec 32) :=
  let ws := (List.range 16).map fun i => BitVec.ofNat 32 (beVal ((b.drop (4 * i)).take 4))
  let out := (shaK1 ++ shaK2).foldl shaRound (ws, h)
  List.zipWith (fun x y => x + y) h out.2

/-- SHA-256. -/
def sha256 (m : Bytes) : Bytes :=
  let z := (119 - m.length % 64) % 64
  let p := m ++ [0x80] ++ List.replicate z 0 ++ beBytes 8 (8 * m.length)
  let h := (List.range (p.length / 64)).foldl (fun h i => shaBlock h ((p.drop (64 * i)).take 64)) shaInit
  h.flatMap fun x => beBytes 4 x.toNat

/-- HMAC-SHA-256 with a key of at most 64 bytes. -/
def hmacSha256 (key m : Bytes) : Bytes :=
  let k := toLen 64 key
  sha256 ((k.map fun b => b ^^^ 0x5C) ++ sha256 ((k.map fun b => b ^^^ 0x36) ++ m))

end Sys2Proof.Machine
end

