-- ==== Sys2Proof/Machine/LogCmds.lean ====
section
/-! DEFINITION. The event log, its failures, the management ports and the reset request (R429 to R436). -/

namespace Sys2Proof.Machine

/-- LOG_RECORD: a record reaches the log controller. The oldest such record of a die's queue leaves the queue with
its detection time; SIDEBAND is set while the die's port is not UP (R429, R430). -/
def execLogRecord (e : LogEvent) (s : State) : Host.Outcome State Fault Refusal :=
  let d := e.src.val
  .next (if 8 ≤ d then s.logArrive s.now e 0
  else
    let side := 2 * b2n (decide (s.portState (32 + d) ≠ 3))
    let q := s.log.recq.get [] d
    match q.findIdx? fun r => decide (r.ev = e) with
    | some i =>
      let r := q.getD i { ev := e }
      ({ s with log := { s.log with recq := s.log.recq.set [] d (q.eraseIdx i) } } : State).logArrive r.time e
        (r.flags + side)
    | none => s.logArrive s.now e side)

/-- LOG_QUEUE_RELEASE: the oldest record held in a unit of a die enters its queue when an entry is free (R430). -/
def execLogQueueRelease (die : DieId) (s : State) : Host.Outcome State Fault Refusal :=
  let q := s.log.recq.get [] die.val
  .next (match s.log.held.get [] die.val with
  | r :: t =>
    if q.length < 64 then
      { s with log := { s.log with recq := s.log.recq.set [] die.val (q ++ [r])
                                   held := s.log.held.set [] die.val t } }
    else s
  | [] => s)

/-- LOG_FAILURE: of the log's SRAM, or of the mirror; with the mirror gone records are only counted (R435).
Cause 0 an uncorrectable word, 1 a read-back mismatch, 2 the controller's parity. -/
def State.logFail (s : State) (mirror : Bool) (cause addr : Nat) : State :=
  let last := (s.fget RF.LOG_STAT_NEXTSEQ + (2 ^ 32 - 1)) % 2 ^ 32
  let body := pay [(4, last), (4, addr), (1, cause)]
  let mode := s.fget RF.LOG_STAT_MODE
  if mirror then
    let s1 := (s.fset RF.LOG_STAT_MIRFLT 1).fset RF.LOG_STAT_MODE 2
    (s1.lastGasp 3 addr).hiveRec 0x890C 0 3 body
  else
    let s1 := (s.fset RF.LOG_STAT_LOGFLT 1).fset RF.LOG_STAT_MODE (max 1 mode)
    (s1.lastGasp 2 addr).hiveRec 0x890B 0 3 body

def execLogFailure (mirror : Bool) (cause : Fin 3) (addr : BitVec 32) (s : State) :
    Host.Outcome State Fault Refusal :=
  .next (s.logFail mirror cause.val addr.toNat)

/-- Body of the last-gasp message (R436). -/
def State.lgBody (s : State) : Bytes :=
  leBytes 8 (s.reg Reg.LOG_LG_TIME).toNat ++ leBytes 8 (s.reg Reg.LOG_LG_CAUSE).toNat
    ++ leBytes 8 (s.reg Reg.LOG_LG_INFO).toNat

/-- LASTGASP_REPEAT: the last-gasp message goes out again, twice at most (R435). -/
def execLastgaspRepeat (s : State) : Host.Outcome State Fault Refusal :=
  .next (if s.log.lgLeft = 0 then s
  else ({ s with log := { s.log with lgLeft := s.log.lgLeft - 1 } } : State).mgmtSend 2 s.lgBody)

/-- HEARTBEAT: LOG_STAT and the time, every 1 s with HB_EN set, while the hive is powered (R436). -/
def execHeartbeat (s : State) : Host.Outcome State Fault Refusal :=
  .next (if s.pwr.rails ∧ s.fget RF.LOG_MGMT_CFG_HB_EN = 1 then
    s.mgmtSend 3 (leBytes 8 (s.reg Reg.LOG_STAT).toNat ++ leBytes 8 s.now)
  else s)

/-- MGMT_LINK_CHANGE (R436). -/
def execMgmtLinkChange (port : Fin 2) (up : Bool) (s : State) : Host.Outcome State Fault Refusal :=
  .next (s.fsetBit RF.LOG_STAT_MGLINK port.val up)

/-- The header of a RESET_REQ: MAGIC, VER and KIND 4. -/
def isResetReq (h : Bytes) : Bool :=
  decide (h.length = 16 ∧ beVal (h.take 2) = 0x4D47 ∧ leAt h 2 1 = 1 ∧ leAt h 3 1 = 4)

/-- A reset that the management ports asked for starts: a module reset, or after SAFE_OFF phase 0, once the cause
has cleared (R424, R436). -/
def State.resetAsked (s : State) : State :=
  if s.pwr.rails then s.moduleReset false false
  else if s.fget RF.LOG_STAT_SSTATE ≠ 2 ∨ s.pwr.down then s
  else if s.saf.cause then { s with saf := { s.saf with resetWait := true } }
  else s.powerOn

/-- RESET_REQ: the AON domain verifies it and answers RESET_ACK (R436). -/
def execResetReq (header : Bytes) (nonce : Word64) (tag : Bytes) (s : State) : Host.Outcome State Fault Refusal :=
  let n := leBytes 8 nonce.toNat
  let good := s.saf.key.any (fun b => b != 0) && decide (tag = hmacSha256 s.saf.key (header ++ n)) &&
    decide (s.fget RF.SAF_MGNONCE_NONCE < nonce.toNat)
  .next (if !s.pwr.aon ∨ !isResetReq header then s
  else if good then
    ((s.fset RF.SAF_MGNONCE_NONCE nonce.toNat).mgmtSend 5 (n ++ [0])).resetAsked
  else s.mgmtSend 5 (n ++ [1]))

end Sys2Proof.Machine
end

