-- ==== Sys2Proof/Machine/RouteCmds.lean ====
section
/-! DEFINITION. Route banks: RT_LOAD, RTX_SUMMARY, RTX_TIMEOUT, RT_ACT, RT_SW_GO, BANK_DRAIN_END, ROUTE_REVERT
(R231 to R241, R254). -/

namespace Sys2Proof.Machine

/-! Loading (R233, R237, R240). -/

/-- Entry of a module in an image. -/
def imgEntry (img : Bytes) (m : Nat) : Nat := leAt img (4 * m) 4

/-- A port is connected in the expected wiring table. -/
def State.connected (s : State) (p : Nat) : Bool := decide (p ≤ 30) && decide (s.wireKind p ≠ 0)

/-- Reserved fields, PHASE 3, ALT_ACTIVE and GEN of an entry (0x5701). -/
def entryBad (g e : Nat) : Bool :=
  decide (bitsN e 20 12 ≠ 0 ∨ rtPHASE e = 3 ∨ rtGEN e ≠ g) ||
    (bitN e 14 && decide (rtPPORT e ≠ 0 ∨ rtAPORT e ≠ 0 ∨ rtPHASE e ≠ 0))

/-- PHASE and the kind of the ports disagree (0x2702): 1 on global ports, 0 and 2 on local ones. -/
def entryKind (e : Nat) : Bool :=
  rtVALID e && !bitN e 14 && (decide (portKind (rtPPORT e) ≠ portKind (rtAPORT e)) ||
    decide (portKind (rtPPORT e) ≠ if rtPHASE e = 1 then 1 else 0))

/-- A port of a valid entry is not connected (0x2705). -/
def State.entryPort (s : State) (e : Nat) : Bool :=
  rtVALID e && !bitN e 14 && (!s.connected (rtPPORT e) || !s.connected (rtAPORT e))

/-- Own entry not VALID and LOCAL, or LOCAL elsewhere (0x2704). -/
def State.entryLocal (s : State) (m e : Nat) : Bool :=
  if m = s.module then !rtVALID e || !bitN e 14 else bitN e 14

/-- The bank that a generation goes to may load it (R237). -/
def State.bankMay (s : State) (g : Nat) : Bool :=
  decide (s.bank (g % 2) = 0) && (decide (g = (s.gen + 1) % 16) ||
    (decide (g = s.gen) && !s.bankLive 0 && !s.bankLive 1))

/-- Conditions under which a load is refused (R233, R237, R254). -/
def State.rtConds (s : State) (g : Nat) (img : Bytes) : List (Bool × Nat) :=
  let ms := List.range 4096
  [(!s.bankMay g, 0x2706),
   (ms.any fun m => entryBad g (imgEntry img m), 0x5701),
   (ms.any fun m => entryKind (imgEntry img m), 0x2702),
   (ms.any fun m => s.entryPort (imgEntry img m), 0x2705),
   (ms.any fun m => s.entryLocal m (imgEntry img m), 0x2704)]

/-- RT_LOAD_CTL reports the end of a load. -/
def State.rtResult (s : State) (res reason : Nat) : State :=
  ((s.fset RF.RT_LOAD_CTL_RESULT res).fset RF.RT_LOAD_CTL_REASON reason).isum 8

/-- A refused load: RESULT and REASON, the refusal record and RT_REFUSE (R33, R233, R252). -/
def State.rtRefuse (s : State) (fn port st reason g : Nat) : State :=
  ((s.rtResult 3 reason).refuseItem reason fn).hiveRec 0x8407 port 0 (fabPay port st reason 0 g)

/-- A checked bank waits for no more summaries: it is READY (R234, R237). -/
def State.checkDone (s : State) (b : Nat) : State :=
  if s.bank b = 2 ∧ s.fab.rtxWait = [] then (s.fset (bankF b) 3).rtResult 2 0 else s

/-- The CHECKING bank is refused and FREE again. -/
def State.checkFail (s : State) (b port reason : Nat) : State :=
  let g := s.fab.bankGen.get 0 b
  let s1 := s.freeBank b
  ({ s1 with fab := { s1.fab with rtxWait := [] } } : State).rtRefuse 0 port 0 reason g

/-- A summary meets the CHECKING bank (R234). -/
def State.checkRtx (s : State) (b p : Nat) (bs : Bytes) : State :=
  if s.rtxGood b bs then
    let left := s.fab.rtxWait.filter fun q => q != p
    ({ s with fab := { s.fab with rtxWait := left } } : State).checkDone b
  else s.checkFail b p 0x2701

/-- A port that is UP or HELD. -/
def State.upOrHeld (s : State) (p : Nat) : Bool := decide (s.portState p = 2 ∨ s.portState p = 3)

/-- The bank takes an image that passed its own checks: it is CHECKING, and summaries go to every neighbour;
those that have already come are checked (R234, R237). -/
def State.rtTake (s : State) (g : Nat) (img : Bytes) : State :=
  let b := g % 2
  let rt := (List.range 4096).foldl (fun (t : Tbl Nat) m =>
    Tbl.set 0 t (rtKey b m) (imgEntry img m)) s.fab.rt
  let up := (List.range 32).filter fun p => decide (s.portState p = 3)
  let fab := { s.fab with rt := rt, bankGen := s.fab.bankGen.set 0 b g, rtxWait := up }
  let s1 := ({ s with fab := fab } : State).fset (bankF b) 2
  let s2 := ((List.range 32).filter fun p => s.upOrHeld p).foldl (fun (s : State) p => s.sendRtx b p) s1
  let s3 := ((List.range 32).filter fun p => s.upOrHeld p).foldl (fun (s : State) p =>
    match s.rtxHas p g with
    | some bs => if s.bank b = 2 then s.checkRtx b p bs else s
    | none => s) s2
  s3.checkDone b

/-- RT_LOAD_CTL.GO with the image its address holds; only PF0 loads a bank (R233, R237, R355). -/
def State.rtLoadGo (s : State) (fn gen : Nat) (image : Bytes) : State :=
  if s.fget RF.RT_LOAD_CTL_RESULT = 1 then s.refuseReg 0x5F03 Reg.RT_LOAD_CTL
  else
    let addr := (s.reg Reg.RT_LOAD_ADDR).toNat
    let win := s.readsOk 0 addr 16384
    let s1 := s.fset RF.RT_LOAD_CTL_GEN gen
    let conds := (decide (fn ≠ 0), 0x6B04) :: (!win, 0x6B01) :: s1.rtConds gen image
    match pick conds with
    | some reason =>
      let s2 := if fn = 0 ∧ !win then s1.dmaBlock 0 4 0xFFFF addr else s1
      s2.rtRefuse fn 0 (s.bank (gen % 2)) reason gen
    | none => (s1.fset RF.RT_LOAD_CTL_RESULT 1).rtTake gen image

/-- RT_LOAD (R233, R237). -/
def execRtLoad (fn : FnId) (gen : Fin 16) (image : Bytes) (s : State) : Host.Outcome State Fault Refusal :=
  .next (s.rtLoadGo fn.val gen.val image)

/-- RTX_SUMMARY: a neighbour's summary is kept, and checked for the banks it concerns (R234, R235). `passed`: the
neighbour has passed its own check of the port (log entry 62). -/
def State.rtxArrive (s0 : State) (p g : Nat) (bs : Bytes) (passed : Bool) : State :=
  let s := s0.mgmtDone p 13 true
  if s.portState p ≠ 2 ∧ s.portState p ≠ 3 then s
  else
    let rtx := (s.fab.rtx.filter fun e => !decide (e.1 = p ∧ e.2.1 = g)) ++ [(p, g, bs)]
    let s1 := ({ s with fab := { s.fab with rtx := rtx } } : State).setLink p { s.link p with peerPass := passed }
    let s2 := [0, 1].foldl (fun (s : State) b =>
      if s.fab.bankGen.get 0 b ≠ g then s
      else if s.bank b = 2 then s.checkRtx b p bs
      else if s.bankLive b ∧ s.portState p = 2 ∧ !s.rtxGood b bs then s.fabRec 0x8408 2 p (s.bank b) 0x2701 g
      else s) s1
    s2.tryUp p

def execRtxSummary (port : ExtPort) (gen : Fin 16) (summary : Bytes) (s : State)
    (passed : Bool := false) :
    Host.Outcome State Fault Refusal :=
  .next (s.onPort port.val fun p => s.rtxArrive p gen.val (toLen 2048 summary) passed)

/-- RTX_TIMEOUT: a neighbour on an UP port has sent no summary for 10 ms (R234). -/
def execRtxTimeout (port : ExtPort) (s : State) : Host.Outcome State Fault Refusal :=
  .next (s.onPort port.val fun p =>
    let b := if s.bank 0 = 2 then 0 else 1
    if s.bank b = 2 ∧ s.fab.rtxWait.contains p then
      if s.portState p = 3 then s.checkFail b p 0x2703
      else
        let left := s.fab.rtxWait.filter fun q => q != p
        ({ s with fab := { s.fab with rtxWait := left } } : State).checkDone b
    else s)

/-- The first activation of a READY bank, or its refusal (R240). -/
def State.rtAct (s : State) : State :=
  if s.bankLive 0 || s.bankLive 1 || decide (s.bank 0 ≠ 3 ∧ s.bank 1 ≠ 3) then
    s.refuseReg 0x2707 Reg.RT_LOAD_CTL
  else s.activateBank (if s.bank 0 = 3 then 0 else 1)

/-- RT_ACT (R240). -/
def execRtAct (s : State) : Host.Outcome State Fault Refusal := .next s.rtAct

/-! The switch cap (R241). -/

/-- RT_SW_CTL.GO: the hive opens the switch cap and votes ready if and only if a bank is READY. -/
def State.rtSwGo (s : State) : State :=
  let gid := s.fget RF.RT_SW_CTL_GID
  let k : CapKey := { job := 0, gid := gid, step := s.fget RF.RT_SW_STEP_STEP, att := s.fget RF.RT_SW_CTL_ATT }
  if s.fget RF.RT_SW_CTL_RESULT = 1 then s.refuseReg 0x5F03 Reg.RT_SW_CTL
  else
    let holds := match s.group 0 gid with
      | some g => g.capg && (g.index (s.module + 4096 * 8)).isSome
      | none => false
    if !holds then
      ((s.fset RF.RT_SW_CTL_RESULT 4).fset RF.RT_SW_CTL_REASON 0x2708).refuseReg 0x2708 Reg.RT_SW_CTL
    else
      let s1 := ((s.fset RF.RT_SW_CTL_RESULT 1).fset RF.RT_SW_CTL_REASON 0).fset RF.RT_SW_CTL_STATUS 0
      let s2 : State := { s1 with fab := { s1.fab with sw := some (gid, k.step, k.att) } }
      match (s2.hiveCap k).vec with
      | some v => s2.switchDecide (decision v (s2.hiveCap k).rta)
      | none => s2.hiveVote k (if s.bank 0 = 3 ∨ s.bank 1 = 3 then 1 else 3)

/-- RT_SW_GO (R241). -/
def execRtSwGo (s : State) : Host.Outcome State Fault Refusal := .next s.rtSwGo

/-- BANK_DRAIN_END: the DRAINING bank is FREE; a port HELD for its sake may pass (R235, R237). -/
def execBankDrainEnd (bank : Fin 2) (s : State) : Host.Outcome State Fault Refusal :=
  .next (if s.bank bank.val = 5 then
    let g := s.fab.bankGen.get 0 bank.val
    let rtx := s.fab.rtx.filter fun e => e.2.1 != g
    let s1 := ({ s with fab := { s.fab with rtx := rtx } } : State).freeBank bank.val
    (List.range 32).foldl (fun (s : State) p => s.tryUp p) s1
  else s)

/-- ROUTE_REVERT: a port UP for REVERT takes its entries back (R236). -/
def execRouteRevert (port : ExtPort) (s : State) : Host.Outcome State Fault Refusal :=
  .next (s.onPort port.val fun p => if s.portState p = 3 then s.unsteer p else s)

end Sys2Proof.Machine
end

