-- ==== Sys2Proof/Machine/TimeCmds.lean ====
section
/-! DEFINITION. The timestamp, the rack's beat and the reference clock (R455 to R457, R486 to R488). -/

namespace Sys2Proof.Machine

/-- A field of TIM_CTL takes a value; a change of REF_OK, BEAT_OK or HOLDOVER is an event (R485). -/
def State.timFlag (s : State) (r : FRef) (v : Nat) : State := if s.fget r = v then s else (s.fset r v).isum 11

/-- An epoch load is armed for a coming edge; arming again has no effect (R487). -/
def State.timArm (s : State) : State :=
  if s.fget RF.TIM_CTL_ARM = 1 then s
  else
    let s1 := s.fset RF.TIM_CTL_ARM 1
    { s1 with tim := { s1.tim with armAt := s1.clk } }

/-- TIM_ARM. -/
def execTimArm (s : State) : Host.Outcome State Fault Refusal := .next s.timArm

/-- A BEAT rising edge: captured and counted. -/
def State.captureEdge (s : State) (n : Nat) : State :=
  let s1 := ((s.fset RF.TIM_BEAT_TS s.now).fset RF.TIM_BEATCNT_EDGES n).timFlag RF.TIM_CTL_BEAT_OK 1
  { s1 with tim := { s1.tim with edgeAt := s1.clk + 1 } }

/-- An armed load takes effect at an edge: the timestamp becomes the load value. -/
def State.epochLoad (s : State) : State :=
  let s1 := (((s.fset RF.TIM_CTL_ARM 0).fset RF.TIM_CTL_DONE 1).fset RF.TIM_BEATCNT_LOADEDGE
    (s.fget RF.TIM_BEATCNT_EDGES)).isum 11
  { s1 with tim := { s1.tim with ts := s.fget RF.TIM_LOAD_VALUE, loaded := true } }

/-- BEAT_EDGE. `late`: a load armed within the 50 ns before this edge takes the next one (R456, R487). While BEAT
is lost, the edge that brings it back is BEAT_RETURN. -/
def execBeatEdge (late : Bool) (s : State) : Host.Outcome State Fault Refusal :=
  .next (if s.fget RF.TIM_CTL_BEAT_OK = 0 ∧ s.tim.edgeAt ≠ 0 then s
  else
    let s1 := s.captureEdge (s.fget RF.TIM_BEATCNT_EDGES + 1)
    if s.fget RF.TIM_CTL_ARM = 1 ∧ (s.tim.armAt + 50 ≤ s.clk ∨ !late) then s1.epochLoad else s1)

/-- BEAT_LOSS: no edge for 4 periods (R457, R488). -/
def execBeatLoss (s : State) : Host.Outcome State Fault Refusal := .next (s.timFlag RF.TIM_CTL_BEAT_OK 0)

/-- BEAT_RETURN: the count goes on from the real edge nearest the expected time of the next counted one; beat
launches are aligned again unless the timestamp is slewing (R488). -/
def execBeatReturn (s : State) : Host.Outcome State Fault Refusal :=
  .next (if s.fget RF.TIM_CTL_BEAT_OK = 1 ∨ s.tim.edgeAt = 0 then s
  else
    let per := max 1 s.beatNs
    let n := s.fget RF.TIM_BEATCNT_EDGES + (s.clk + 1 - s.tim.edgeAt + per / 2) / per
    let s1 := s.captureEdge n
    { s1 with tim := { s1.tim with misaligned := s1.tim.misaligned && decide (s1.fget RF.TIM_CTL_SLEWING = 1) } })

/-- REFCLK_LOSS: no edge for 1 µs; the hive runs on its own oscillator (R457). -/
def execRefclkLoss (s : State) : Host.Outcome State Fault Refusal :=
  .next ((s.timFlag RF.TIM_CTL_REF_OK 0).timFlag RF.TIM_CTL_HOLDOVER 1)

/-- REFCLK_RETURN: the timestamp is slewed toward the rack's beat after a holdover (R457). -/
def execRefclkReturn (s : State) : Host.Outcome State Fault Refusal :=
  let s1 := (s.timFlag RF.TIM_CTL_REF_OK 1).timFlag RF.TIM_CTL_HOLDOVER 0
  .next (if s.fget RF.TIM_CTL_HOLDOVER = 1 then s1.fset RF.TIM_CTL_SLEWING 1 else s1)

/-- SLEWING_DONE: beat launches complete OK again, BEAT being present (R457, R488). -/
def execSlewingDone (s : State) : Host.Outcome State Fault Refusal :=
  .next (if s.fget RF.TIM_CTL_SLEWING = 1 then
    let s1 := s.fset RF.TIM_CTL_SLEWING 0
    { s1 with tim := { s1.tim with misaligned := s1.tim.misaligned && decide (s1.fget RF.TIM_CTL_BEAT_OK = 0) } }
  else s)

/-- ALIGNMENT_LOST: 25 ms after BEAT is lost, or in a holdover, the alignment no longer holds, and set-ups are
re-evaluated (R35, R457, R488). -/
def execAlignmentLost (s : State) : Host.Outcome State Fault Refusal :=
  .next (if s.fget RF.TIM_CTL_BEAT_OK = 0 ∨ s.fget RF.TIM_CTL_HOLDOVER = 1 then
    ({ s with tim := { s.tim with misaligned := true } } : State).reevaluate
  else s)

end Sys2Proof.Machine
end

