-- ==== Sys2Proof/Machine/RegOps.lean ====
section
/-! DEFINITION. Reads and writes of registers: what each register shows, which bits a write reaches, which values
are refused, and what a write does beside storing its fields (R7, R10, R11, R470 to R493). -/

namespace Sys2Proof.Machine

/-! Reads. -/

/-- A register value from fields (low bit, value). -/
def fields (fs : List (Nat × Nat)) : Word64 := BitVec.ofNat 64 (fs.map fun f => f.2 * 2 ^ f.1).sum

/-- A set of numbers below `n` as a bit vector. -/
def setBits (n : Nat) (p : Nat → Bool) : Nat := ((List.range n).map fun i => if p i then 2 ^ i else 0).sum

/-- HIVE_STATUS: copies of state that other registers hold (R485). -/
def State.statusReg (s : State) : Word64 :=
  fields [(0, setBits 8 fun d => decide (s.dieState d = 0)), (8, setBits 8 fun d => decide (s.dieState d = 1)),
    (16, setBits 8 fun d => decide (s.dieState d = 2)), (24, s.fget RF.QN_BOOT_STAT_READY),
    (25, s.fget RF.LOG_STAT_SSTATE), (27, s.fget RF.HIVE_LOCK_LOCK), (28, s.fget RF.LOG_STAT_QRST),
    (29, s.fget RF.LOG_STAT_MODE), (31, s.fget RF.TIM_CTL_HOLDOVER)]

/-- Channels of a die in service. -/
def State.chInSvc (s : State) (d : Nat) : Nat := ((s.chans d).filter fun c => !s.chFailed d c).length

/-- HIVE_MEMUSE, zero until phase 2 ends (R481). -/
def State.memUseReg (s : State) : Word64 :=
  if s.boot.sramUp then
    fields [(0, ((List.range 8).map s.usable).sum), (40, ((List.range 8).map s.chInSvc).sum)]
  else 0

/-- QN_SPARE_d (R418). -/
def State.spareReg (s : State) (d : Nat) : Word64 :=
  fields [(0, s.clInSvc d),
    (8, (s.eng.clFold.filter fun e => decide (e.1 / 32 = d ∧ e.2 = 1)).length),
    (16, ((List.range 66).filter fun k => !s.bkGone d k).length), (24, s.emuBanks d), (32, s.arrInSvc d),
    (35, s.chInSvc d)]

/-- SWM_PLAN of the group that SWM_PLAN_SEL names (R261, R286). -/
def State.planReg (s : State) : Word64 :=
  match s.group (s.fget RF.SWM_PLAN_SEL_JOB) (s.fget RF.SWM_PLAN_SEL_GID) with
  | some g =>
    let pl := s.planFig g g.epoch
    fields [(0, 1), (8, g.epoch % 256), (16, pl.depthL % 4), (18, pl.depthB % 64),
      (24, g.mods.eraseDups.length % 8192), (40, pl.rate % 2 ^ 24)]
  | none => 0

/-- OPT_DLANE_PWR of the lane that OPT_DLANE_SEL names (R322). -/
def State.dlaneReg (s : State) : Word64 :=
  let lane := s.fget RF.OPT_DLANE_SEL_LANE
  let k := dlaneKey (s.fget RF.OPT_DLANE_SEL_DIE) (s.fget RF.OPT_DLANE_SEL_DIR) lane
  let (w, c, pv, _) := s.opt.ucw.get (0, 0, 0, 0) k
  let ucw := if s.ucwWin = w then pv else if s.ucwWin = w + 1 then c else 0
  if 192 ≤ lane then 0
  else fields [(0, s.opt.dlane.get 0x8000 k), (16, min ucw 0xFFFF), (32, s.opt.perm.get 0 k)]

/-- The laser that LSR_SEL names, if there is one (R322). -/
def State.selLaser (s : State) : Option LaserRec :=
  let i := s.fget RF.LSR_SEL_LASER
  if i < 35 then some (s.laser (s.fget RF.LSR_SEL_BANK) i) else none

def State.lsrStatReg (s : State) : Word64 :=
  match s.selLaser with
  | some r => fields [(0, r.st), (8, r.slot), (16, r.bias % 65536), (32, r.mpd % 65536)]
  | none => 0

/-- LSR_HOURS with the curve 60 mA × (1 + 0.001 × √t) rounded down to 0.01 mA (R307, R322). -/
def State.lsrHoursReg (s : State) : Word64 :=
  match s.selLaser with
  | some r => fields [(0, r.hours % 2 ^ 32), (32, 6000 + Nat.sqrt (36 * (r.hours % 2 ^ 32)))]
  | none => 0

/-- RT_GEN.DRAIN_LEFT in µs. -/
def State.drainLeft (s : State) : Nat :=
  if s.bank 0 = 5 ∨ s.bank 1 = 5 then (s.fab.drainEnd - s.clk + 999) / 1000 % 2 ^ 32 else 0

/-- A register with some fields replaced by what other state holds: (low bit, width, value). -/
def State.over_ (s : State) (off : Nat) (fs : List (Nat × Nat × Nat)) : Word64 :=
  fs.foldl (fun (v : Word64) f => putFld v f.1 f.2.1 f.2.2) (s.reg off)

/-- Hive registers that show other state than their own. -/
def State.hiveView (s : State) (off : Nat) : Option Word64 :=
  if off = Reg.HIVE_STATUS then some s.statusReg
  else if off = Reg.HIVE_MEMUSE then some s.memUseReg
  else if off = Reg.HIVE_ID then some (s.over_ off [(0, 4, Config.order)])
  else if off = Reg.HIVE_MEMCAP then
    some (fields [(0, 1048576 / Config.order), (21, 983040 / Config.order)])
  else if off = Reg.HIVE_SB then some (s.over_ off [(2, 1, b2n s.pwr.ilock)])
  else if off = Reg.TIM_NOW then some (BitVec.ofNat 64 s.now)
  else if off = Reg.TIM_BEATCNT then some (s.over_ off [(0, 32, s.edges)])
  else if off = Reg.SWM_PLAN then some s.planReg
  else if off = Reg.SWM_STAT then some (s.over_ off [(37, 17, s.relaysUsed)])
  else if off = Reg.OPT_DLANE_PWR then some s.dlaneReg
  else if off = Reg.LSR_STAT then some s.lsrStatReg
  else if off = Reg.LSR_HOURS then some s.lsrHoursReg
  else if off = Reg.RT_GEN then some (s.over_ off [(32, 32, s.drainLeft)])
  else if Reg.FAB_PORT 0 ≤ off ∧ off < Reg.FAB_PORT 40 then
    some (s.over_ off [(4, 2, portKind ((off - Reg.FAB_PORT 0) / 8))])
  else if Reg.QN_SPARE 0 ≤ off ∧ off < Reg.QN_SPARE 8 then some (s.spareReg ((off - Reg.QN_SPARE 0) / 8))
  else none

/-- The windows of the route entries, the log and the mirror (R433, R478). -/
def State.windowView (s : State) (off : Nat) : Option Word64 :=
  if 0x78000 ≤ off ∧ off < 0x80000 then
    let k := (off - 0x78000) / 4
    some (fields [(0, s.fab.rt.get 0 k), (32, s.fab.rt.get 0 (k + 1))])
  else if 0x100000 ≤ off ∧ off < 0x140000 then
    some (BitVec.ofNat 64 (leAt (s.log.slots.get [] ((off - 0x100000) / 32)) (off % 32) 8))
  else if 0x140000 ≤ off ∧ off < 0x144000 then
    some (BitVec.ofNat 64 (leAt (s.log.mirror.get [] ((off - 0x140000) / 32)) (off % 32) 8))
  else none

/-- What the 8 bytes at a multiple of 8 in PF0's BAR0 hold; a reserved offset reads zero (R474). -/
def State.viewAt (s : State) (off : Nat) : Word64 :=
  match s.hiveView off with
  | some v => v
  | none =>
    match s.windowView off with
    | some v => v
    | none => if (regAt off).isSome then s.reg off else 0

/-- Bits that show what the model does not hold: cycle counters of units that have worked since the reset, the PCIe
link's rate and width, the coolant's inlet temperature, a pin that another module drives. They read as free values
(log entry 26). -/
def State.openBits (s : State) (off : Nat) : Word64 :=
  let o := if 0x1000000 ≤ off then (off - 0x1000000) % 0x200000 else off
  if 0x1000000 ≤ off then
    let k := 2 * ((off - 0x1000000) / 0x200000) + if o = 0x23068 then 1 else 0
    (if (regAt off).isSome ∧ (o = 0x20028 ∨ o = 0x23068) ∧ s.eng.busy.get 0 k = 1 then BitVec.allOnes 64 else 0)
  else if off = Reg.SMP_BUSY_CYC then (if s.eng.busy.get 0 16 = 1 then BitVec.allOnes 64 else 0)
  else if off = Reg.PCI_LINK then fields [(0, 0xFF)]
  else if off = Reg.SAF_COOL then fields [(16, 0xFFFF)]
  else if off = Reg.HIVE_SB then (if s.alertLow then 0 else fields [(1, 1)])
  else if off = Reg.LSR_HOURS then
    match s.selLaser with
    | some r => if Nat.sqrt (36 * r.hours) ^ 2 = 36 * r.hours then 0 else fields [(32, 1)]
    | none => 0
  else 0

/-- A read of 8 bytes. The ageing curve between two codes shows one or the other. -/
def State.readReg (s : State) (off : Nat) : State × Word64 :=
  let m := s.openBits off
  let v := s.viewAt off
  if m = 0 then (s, v)
  else if off = Reg.LSR_HOURS then (s.drawn, v + (s.freshVal &&& m))
  else (s.drawn, mixBits m s.freshVal v)

/-! Which bits a write reaches (R10, R472, R475). -/

/-- All of a field lies within the bytes [b, b + n) of its register. -/
def RField.within (b n : Nat) (f : RField) : Bool := decide (8 * b ≤ f.lo ∧ f.lo + f.w ≤ 8 * (b + n))

/-- The bytes [b, b + n). -/
def writtenBits (b n : Nat) : Word64 := BitVec.ofNat 64 ((2 ^ (8 * n) - 1) * 2 ^ (8 * b))

/-- The configuration lock is set. -/
def State.locked (s : State) : Bool := decide (s.fget RF.HIVE_LOCK_LOCK = 1)

/-- A field a write may change now; `ring`: it is OWNER or LIDX seen by a VF (R475, R480). -/
def State.mayWrite (s : State) (ro : Bool) (f : RField) : Bool :=
  !ro && (decide (f.acc = .rw) || (decide (f.acc = .rwl) && !s.locked))

/-- A field that a write leaves unchanged: a write that covers one is counted, whatever its value (R11, R475). -/
def State.denied (s : State) (ro : Bool) (f : RField) : Bool :=
  decide (f.acc = .ro) || (decide (f.acc = .rw ∨ f.acc = .rwl) && !s.mayWrite ro f)

/-! Refused values (R476). -/

/-- Ranges of fields: register, low bit, width, least and greatest value, reason. -/
def fieldRanges : List (Nat × Nat × Nat × Nat × Nat × Nat) :=
  [(Reg.ARR_FLT_CTRL 0, 8, 8, 1, 255, 0x5F01), (Reg.MVE_PRIO 0, 0, 4, 0, 8, 0x5F01),
   (Reg.WRK_WAITMODE 0, 8, 8, 1, 255, 0x5F01), (Reg.SMP_CFG, 0, 16, 1, 65535, 0x5F01),
   (Reg.FAB_TIMERS, 0, 16, 10, 65535, 0x5F01), (Reg.FAB_TIMERS, 16, 16, 1, 65535, 0x5F01),
   (Reg.FAB_TIMERS, 32, 16, 1, 65535, 0x5F01), (Reg.CAP_CFG, 0, 16, 1, 65535, 0x5F01),
   (Reg.OPT_PORT_CFG 0, 8, 8, 1, 255, 0x5902), (Reg.OPT_PORT_CFG 0, 16, 5, 0, 24, 0x5901),
   (Reg.OPT_DPERM, 0, 16, 1, 65535, 0x5902), (Reg.OPT_DPERM, 16, 4, 1, 15, 0x5902),
   (Reg.LSR_AGE_CFG, 0, 8, 1, 100, 0x5904), (Reg.LSR_AGE_CFG, 16, 16, 7000, 9400, 0x5904)] ++
  [(Reg.MEM_CFG 0, 0, 3, 0, 4, 0x5A02), (Reg.MEM_CFG 0, 8, 8, 1, 255, 0x5A02),
   (Reg.WCB_CFG 0, 0, 8, 1, 255, 0x5A02), (Reg.PCI_LINK, 16, 16, 1, 1000, 0x5F01),
   (Reg.PCI_LINK, 32, 16, 1, 65535, 0x5F01), (Reg.PCI_APW 0, 40, 4, 0, 8, 0x5F01),
   (Reg.RING_SQ 0, 0, 4, 0, 10, 0x5B05), (Reg.RING_CQ 0, 0, 4, 0, 10, 0x5B05),
   (Reg.RING_CFG 0, 4, 4, 0, 8, 0x5F01), (Reg.RING_CFG 0, 24, 8, 1, 255, 0x5F01),
   (Reg.WORT_CFG, 0, 16, 50, 65535, 0x5F01), (Reg.QN_BOOT_CFG, 0, 8, 1, 255, 0x5C01),
   (Reg.LOG_MGMT_CFG, 0, 16, 1, 65535, 0x5D05), (Reg.TIM_CTL, 16, 16, 1, 65535, 0x5F01)] ++
  [(Reg.SAF_TJ, 0, 8, 85, 105, 0x5F02), (Reg.SAF_TJ, 8, 8, 95, 115, 0x5F02),
   (Reg.SAF_PWR, 0, 12, 1500, 3600, 0x5F02), (Reg.SAF_COOL, 0, 8, 5, 20, 0x5F02),
   (Reg.SAF_COOL, 8, 8, 60, 70, 0x5F02), (Reg.SAF_OC, 0, 8, 105, 120, 0x5F02)]

/-- Alignments of addresses: register, low bit, width, bytes, reason. -/
def fieldAligns : List (Nat × Nat × Nat × Nat × Nat) :=
  [(Reg.PCI_APW 0, 0, 40, 2 ^ 30, 0x5F01), (Reg.RT_LOAD_ADDR, 0, 64, 64, 0x5F01),
   (Reg.QN_WIRE_ADDR, 0, 64, 64, 0x5F01), (Reg.QN_FW_ADDR, 0, 64, 4096, 0x5F01),
   (Reg.SAF_FENCE_ADDR, 0, 64, 16, 0x5F01)]

/-- Written fields of a register with a value that is refused: (low bit, width, reason). -/
def badFields (base : Nat) (wr v : Word64) : List (Nat × Nat × Nat) :=
  let r := fieldRanges.filter fun f => decide (f.1 = base) && bit wr f.2.1 &&
    decide (fld v f.2.1 f.2.2.1 < f.2.2.2.1 ∨ f.2.2.2.2.1 < fld v f.2.1 f.2.2.1)
  let a := fieldAligns.filter fun f => decide (f.1 = base) && bit wr f.2.1 &&
    decide (fld v f.2.1 f.2.2.1 % f.2.2.2.1 ≠ 0)
  let vec := decide (base = Reg.RING_CFG 0) && bit wr 16 && decide (fld v 4 4 ≠ 0 ∧ 223 < fld v 16 8)
  r.map (fun f => (f.2.1, f.2.2.1, f.2.2.2.2.2)) ++ a.map (fun f => (f.2.1, f.2.2.1, f.2.2.2.2)) ++
    if vec then [(16, 8, 0x5F01)] else []

/-- VCs that a kind of port carries (R224). -/
def kindVcs (kind : Nat) : List Nat := if kind = 0 then [0, 1, 4, 5, 6] else if kind = 1 then [2, 3, 6] else [6]

/-- A management address would stand on both ports; the zero address is none (R483). -/
def State.sameMgmt (s : State) (base off : Nat) (v : Word64) : Bool :=
  let i := (off - Reg.HIVE_MGIPH 0) / 32
  let hi := if base = Reg.HIVE_MGIPH 0 then v.toNat else s.fget (RF.HIVE_MGIPH_ADDR i)
  let lo := if base = Reg.HIVE_MGIPH 0 then s.fget (RF.HIVE_MGIPL_ADDR i) else v.toNat
  decide ((hi, lo) ≠ (0, 0) ∧ (hi, lo) = (s.fget (RF.HIVE_MGIPH_ADDR (1 - i)), s.fget (RF.HIVE_MGIPL_ADDR (1 - i))))

/-- A combination of the fields of a register that is refused as a whole. -/
def State.badWhole (s : State) (base off : Nat) (v : Word64) : Option Nat :=
  if base = Reg.OPT_THRESH then
    (if signedN 16 (fld v 16 16) < signedN 16 (fld v 0 16) ∧ signedN 16 (fld v 0 16) < signedN 16 (fld v 32 16) ∧
        signedN 16 (fld v 32 16) < signedN 16 (fld v 48 16) then none else some 0x5903)
  else if Reg.FAB_CRED 0 ≤ off ∧ off < Reg.FAB_CRED 32 then
    let vcs := kindVcs (portKind ((off - Reg.FAB_CRED 0) / 8))
    if 256 < ((List.range 8).map fun k => fld v (8 * k) 8).sum ∨
        (List.range 8).any (fun k => decide (fld v (8 * k) 8 ≠ 0) && !vcs.contains k) then some 0x5701 else none
  else if base = Reg.SAF_TJ then (if fld v 8 8 < fld v 0 8 + 10 then some 0x5F02 else none)
  else if base = Reg.HIVE_MGIPH 0 ∨ base = Reg.HIVE_MGIPL 0 then
    (if s.sameMgmt base off v then some 0x5F04 else none)
  else none

/-! What a write does (R129, R155, R355, R361, R408, R415, R475, R485, R487, R490, R492). -/

/-- The management-key staging words (R492). -/
def State.stageKey (s : State) (k : Nat) (m v : Word64) : State :=
  let old := BitVec.ofNat 64 (s.saf.stage.get 0 k)
  { s with saf := { s.saf with stage := s.saf.stage.set 0 k (mixBits m v old).toNat } }

/-- SAF_MGKEY_CTL.COMMIT: the staging words become the key; all zero is refused. -/
def State.keyCommit (s : State) : State :=
  let key := (List.range 4).flatMap fun k => leBytes 8 (s.saf.stage.get 0 k)
  if s.locked then s.rejectReg Reg.SAF_MGKEY_CTL
  else if s.saf.stage = [] then s.refuseReg 0x5F05 Reg.SAF_MGKEY_CTL
  else ({ s with saf := { s.saf with key := key, stage := [] } } : State).fset RF.SAF_MGKEY_CTL_KEYSET 1

/-- QN_RESET.GO: the reset that LEVEL and ID name; a cluster's self-test has a free outcome here (log
entry 27). -/
def State.resetByReg (s : State) : State :=
  let id := s.fget RF.QN_RESET_ID
  let level := s.fget RF.QN_RESET_LEVEL
  if level = 3 then s.resetGo [] fun s => s.moduleReset (decide (s.fget RF.QN_RESET_COLD = 1)) true
  else if level = 2 then
    (if id < 8 then s.partReset id [] else s.resetGo [(true, 0x5C01)] fun s => s)
  else if level = 1 then
    if 256 ≤ id then s.resetGo [(true, 0x5C01)] fun s => s
    else if s.fget RF.QN_RESET_SELFTEST = 1 then s.drawn.clusterReset (id / 32) (id % 32) (bit s.freshVal 0) false
    else s.clusterReset (id / 32) (id % 32) false false
  else s.coreReset id false

/-- RING_CFG_n takes its other fields, and EN enables or disables the ring. -/
def State.ringCfg (s : State) (fn off : Nat) (v : Word64) : State :=
  let n := (off - Reg.RING_CFG 0) / 32
  let was := s.fget (RF.RING_CFG_EN n)
  let s1 := s.setReg off (putFld v 0 1 was)
  if fld v 0 1 = was then s1 else if bit v 0 then s1.ringEnable fn n else s1.ringDisable fn n

/-- Writes of comb-die registers beside storing their fields; `go`: bits written as 1. -/
def State.dieWrote (s : State) (off : Nat) (v go : Word64) : State :=
  let d := (off - 0x1000000) / 0x200000
  let o := (off - 0x1000000) % 0x200000
  if 0x34000 ≤ o ∧ o < 0x36000 then s.cntSet d ((o - 0x34000) / 8) (fld v 0 32)
  else if off = Reg.RNG_TCTL d then (if bit go 63 then (s.setReg off v).rngTest d else s.setReg off v)
  else if off = Reg.MVE_PRIO d then
    -- a rise in YIELD re-evaluates the serving set-ups (R110)
    (if s.fget (RF.MVE_PRIO_YIELD d) < fld v 0 4 then (s.setReg off v).reevaluate else s.setReg off v)
  else if off = Reg.MEM_RETIRE d then
    (if bit go 63 then (s.setReg off v).memRetire d (fld v 0 4) (fld v 4 17) else s.setReg off v)
  else s.setReg off v

/-- An interrupt enable that meets a set HIVE_ISUM bit raises vector 0 once (R485). -/
def State.imaskWrote (s : State) (v : Word64) : State :=
  let hit := v &&& ~~~s.reg Reg.HIVE_IMASK &&& s.reg Reg.HIVE_ISUM &&& 0xFFFE
  let s1 := s.setReg Reg.HIVE_IMASK v
  if hit = 0 then s1 else s1.raise 0 0

/-- What host memory holds where a GO written as a register starts a load: the row that carries the bytes is a
command of its own (RT_LOAD, FENCE_LIST, WIRE_LOAD, FW_WRITE), and a bare register write carries none, so they are
free values (log entry 40). -/
def State.hostBytes (s : State) (addr n : Nat) : Bytes :=
  (List.range n).map fun i => Config.hostByte s.free (addr + i)

/-- A write has passed its checks: `v` is the new content, `go` the bits written as 1, `m` the bits written, `raw`
what was written. -/
def State.regWrote (s : State) (fn off : Nat) (v go m raw : Word64) : State :=
  if 0x1000000 ≤ off then s.dieWrote off v go
  else if off = Reg.HIVE_LOCK then (if bit go 0 then s.fset RF.HIVE_LOCK_LOCK 1 else s)
  else if off = Reg.HIVE_IMASK then s.imaskWrote v
  else if off = Reg.TIM_CTL then (if bit go 0 then (s.setReg off v).timArm else s.setReg off v)
  else if safRanges off ≠ [] then
    (if s.reg off = v then s else (s.setReg off v).safCross off)
  else if Reg.SAF_MGKEY 0 ≤ off ∧ off ≤ Reg.SAF_MGKEY 3 then s.stageKey ((off - Reg.SAF_MGKEY 0) / 8) m raw
  else if off = Reg.SAF_MGKEY_CTL then (if bit go 0 then s.keyCommit else s)
  else if off = Reg.QN_RESET then (if bit go 63 then (s.setReg off v).resetByReg else s.setReg off v)
  else if off = Reg.QN_RETAIN then
    (if bit go 63 ∧ s.fget RF.QN_RETAIN_BUSY = 0 then (s.setReg off v).storeStart else s.setReg off v)
  else if off = Reg.RT_LOAD_CTL then
    let s1 := if bit go 62 then (s.setReg off v).rtAct else s.setReg off v
    if bit go 63 then s1.drawn.rtLoadGo fn (fld v 0 4) (s1.hostBytes (s.reg Reg.RT_LOAD_ADDR).toNat 16384) else s1
  else if off = Reg.SAF_FENCE_CTL then
    (if bit go 63 then (s.setReg off v).drawn.fenceListGo fn
        (s.hostBytes (s.reg Reg.SAF_FENCE_ADDR).toNat (16 * fld v 0 9)) else s.setReg off v)
  else if off = Reg.QN_WIRE_CTL then
    (if bit go 63 then (s.setReg off v).drawn.wireLoad fn (s.hostBytes (s.reg Reg.QN_WIRE_ADDR).toNat 576)
    else s.setReg off v)
  else if off = Reg.QN_FW_CTL then
    (if bit go 63 then (s.setReg off v).drawn.drawn.fwGo (bit s.freshVal 0) (fld s.drawn.freshVal 0 32)
        (fld s.drawn.freshVal 32 32) else s.setReg off v)
  else if off = Reg.RT_SW_CTL then (if bit go 63 then (s.setReg off v).rtSwGo else s.setReg off v)
  else if Reg.FAB_PORT 0 ≤ off ∧ off < Reg.FAB_PORT 40 then
    (if bit v 8 = bit (s.reg off) 8 then s else s.disWrite ((off - Reg.FAB_PORT 0) / 8) (bit v 8))
  else if Reg.PCI_DMAW_BASE 0 0 ≤ off ∧ off < Reg.PCI_DMAW_BASE 9 0 then
    -- only PF0 writes a window (R355)
    (if fn = 0 then (s.setReg off v).windowChanged ((off - Reg.PCI_DMAW_BASE 0 0) / 256) else s)
  else if Reg.RING_CFG 0 ≤ off ∧ off < 0xC8000 ∧ off % 32 = 16 then s.ringCfg fn off v
  else s.setReg off v

/-! A write as a whole. -/

/-- The management-key registers, which the lock makes read-only (R475). -/
def keyReg (off : Nat) : Bool := decide (Reg.SAF_MGKEY 0 ≤ off ∧ off ≤ Reg.SAF_MGKEY_CTL)

/-- A write of `n` bytes at byte `b` of the register at `off`, whose definition is `r`. `at_` is the offset the
writer used, `fn` the writer, `raw` the value in place; `roF` tells the fields the writer sees as read-only. -/
def State.defWrite (s : State) (r : RegDef) (fn off at_ b n : Nat) (raw : Word64) (roF : RField → Bool) : State :=
  let m := writtenBits b n
  let wr := r.mask fun f => s.mayWrite (roF f) f && f.within b n
  let stuck := r.mask fun f => s.denied (roF f) f && f.within b n
  let s1 := if stuck ≠ 0 then s.rejectReg at_ else s
  let old := s.reg off
  let bad := badFields r.base wr (mixBits wr raw old)
  let wr1 := bad.foldl (fun (m : Word64) f => putFld m f.1 f.2.1 0) wr
  let v1 := mixBits wr1 raw old
  let whole := if wr1 = 0 then none else s.badWhole r.base off v1
  let v2 := if whole.isSome then old else v1
  let v3 := v2 &&& ~~~((r.mask fun f => decide (f.acc = .w1c) && !roF f) &&& m &&& raw)
  let reasons := bad.map (fun f => (true, f.2.2)) ++ whole.toList.map fun x => (true, x)
  let s2 := s1.regWrote fn off v3 (m &&& raw) m raw
  match pick reasons with
  | some reason => s2.refuseReg reason at_
  | none => s2

/-- A write at an offset of PF0's BAR0 map; `at_` and `roF` as above. -/
def State.regWriteBy (s : State) (fn off at_ n : Nat) (v : Word64) (roF : RField → Bool) : State :=
  let base := off / 8 * 8
  let b := off % 8
  let raw := (v <<< (8 * b)) &&& writtenBits b n
  match regAt base with
  | none => s.rejectReg at_
  | some (r, _) =>
    if s.locked ∧ keyReg base then s.rejectReg at_ else s.defWrite r fn base at_ b n raw roF

/-- A write by PF0. -/
def State.regWrite (s : State) (off n : Nat) (v : Word64) : State := s.regWriteBy 0 off off n v fun _ => false

/-! A VF's BAR0 (R353, R480). -/

/-- Offset in PF0's map of what a VF's BAR0 shows at a multiple of 8, and which fields are read-only there. -/
def State.vfOff (s : State) (fn off : Nat) : Option (Nat × (RField → Bool)) :=
  if off < 0x2000 then
    ((s.ringsAll fn).find? fun n => decide (s.fget (RF.RING_CFG_LIDX n) = off / 32)).map fun n =>
      (0xC0000 + 32 * n + off % 32, fun f => decide (off % 32 = 16 ∧ (f.lo = 4 ∨ f.lo = 8)))
  else if off < 0x2100 then some (Reg.PCI_DMAW_BASE fn 0 + (off - 0x2000), fun _ => true)
  else if off = 0x3000 then some (Reg.PCI_DMA_STAT fn, fun _ => false)
  else none

/-- A write by a VF. -/
def State.vfWrite (s : State) (fn off n : Nat) (v : Word64) : State :=
  match s.vfOff fn (off / 8 * 8) with
  | some (o, roF) => s.regWriteBy fn (o + off % 8) off n v roF
  | none => s.rejectReg off

/-- A BAR0 access of a size and alignment the bus interface takes (R472). -/
def barOk (off n : Nat) : Bool := decide ((n = 4 ∨ n = 8) ∧ off % n = 0)

/-- The log windows take only whole 8-byte reads (R433). -/
def logWindow (off : Nat) : Bool := decide (0x100000 ≤ off ∧ off < 0x144000)

end Sys2Proof.Machine
end

