-- ==== Sys2Proof/Machine/RegCmds.lean ====
section
/-! DEFINITION. Register writes, die windows, the aperture, and the cells that read and write memory and registers
(R129, R214, R217, R354, R471 to R476, R485, R490, R492). -/

namespace Sys2Proof.Machine

/-! Writes that have a row of their own. -/

/-- MGKEY_COMMIT (R475, R492). -/
def execMgkeyCommit (s : State) : Host.Outcome State Fault Refusal := .next s.keyCommit

/-- CONFIG_LOCK (R475). -/
def execConfigLock (s : State) : Host.Outcome State Fault Refusal := .next (s.fset RF.HIVE_LOCK_LOCK 1)

/-- COUNTER_WRITE: the host sets a counter of a die (R128, R129). -/
def execCounterWrite (die : DieId) (n : Fin 1024) (v : BitVec 32) (s : State) : Host.Outcome State Fault Refusal :=
  .next (s.cntSet die.val n.val v.toNat)

/-- SAFETY_THRESHOLD_WRITE: an 8-byte write of SAF_TJ, SAF_PWR, SAF_COOL or SAF_OC (R489, R490). -/
def execSafetyThresholdWrite (off : BitVec 26) (v : Word64) (s : State) : Host.Outcome State Fault Refusal :=
  .next (if safRanges off.toNat ≠ [] then s.regWrite off.toNat 8 v else s)

/-- IMASK_WRITE: an 8-byte write of HIVE_IMASK (R485). -/
def execImaskWrite (v : Word64) (s : State) : Host.Outcome State Fault Refusal :=
  .next (s.regWrite Reg.HIVE_IMASK 8 v)

/-- REGISTER_WRITE: a write of 4 or 8 bytes in the BAR0 of PF0 or of a VF (R353, R472 to R476, R480). -/
def execRegisterWrite (fn : FnId) (off : BitVec 26) (size : Fin 9) (v : Word64) (s : State) :
    Host.Outcome State Fault Refusal :=
  let o := off.toNat
  .next (if !barOk o size.val ∨ (fn.val ≠ 0 ∧ 0x10000 ≤ o) then s.emit (.busReply fn.val none)
  else if fn.val = 0 then s.regWrite o size.val v
  else s.vfWrite fn.val o size.val v)

/-! Die windows (R473). -/

/-- A read of 4 or 8 bytes of PF0's BAR0 is answered. -/
def State.busRead (s : State) (fn off n : Nat) : State :=
  let (s1, v) := s.readReg (off / 8 * 8)
  s1.emit (.busReply fn (some (leBytes n (v.toNat / 2 ^ (8 * (off % 8))))))

/-- BAR0 offset of a die's register. -/
def dieReg (die o : Nat) : Nat := 0x1000000 + 0x200000 * die + o % 0x200000

/-- DIE_WINDOW_ACCESS: the die's register block answers, whatever the state of its port and units. -/
def execDieWindowAccess (die : DieId) (off : BitVec 21) (size : Fin 9) (write : Bool) (data : Word64) (s : State) :
    Host.Outcome State Fault Refusal :=
  let o := dieReg die.val off.toNat
  .next (if !barOk o size.val then s.emit (.busReply 0 none)
  else if write then s.regWrite o size.val data
  else s.busRead 0 o size.val)

/-- DIE_WINDOW_NO_ANSWER: after 100 µs a read returns all ones and a write is dropped; both are counted. -/
def execDieWindowNoAnswer (die : DieId) (off : BitVec 21) (write : Bool) (s : State) :
    Host.Outcome State Fault Refusal :=
  let s1 := s.finc RF.HIVE_WREJ2_NOANS 1
  .next (if write ∨ !barOk (dieReg die.val off.toNat) 4 then s1
    else s1.emit (.busReply 0 (some (List.replicate 8 0xFF))))

/-! Register cells (R210, R471). -/

/-- A queen's access to the hive's registers: JOB 0, from a target 8, 8 aligned bytes of the register range. -/
def Cell.toHive (c : CellW) (n : Nat) : Bool := Cell.isReg c n && decide (Cell.off c < 0xFF01000000)

/-- BAR0 offset a register cell names at a target; none for a reserved offset of a die. -/
def cellReg (tgt : Nat) (c : CellW) : Option Nat :=
  let o := Cell.off c - 0xFF00000000
  if tgt = 8 then some o else if o < 0x200000 then some (dieReg tgt o) else none

/-- A register cell reaches a target that may answer it. -/
def Cell.regAt (tgt : Nat) (c : CellW) (n : Nat) : Bool := if tgt = 8 then Cell.toHive c n else Cell.isReg c n

/-- An addressed cell that the hive target refuses. -/
def State.hiveRefuse (s : State) (c : CellW) : State :=
  (s.refuseItem 0x5703 (s.fnOfJob (Cell.job c))).nackCell 8 stREFUSED 0 c

/-- WR_CELL: memory or a register is written, and the write acknowledged (R210, R214, R243, R471). -/
def execWrCell (tgt : FnId) (cell : CellW) (s : State) : Host.Outcome State Fault Refusal :=
  let n := Cell.len cell - 8
  let t := tgt.val
  .next (if !Cell.good cell ∨ Cell.type cell ≠ 1 then s
  else if Cell.regAt t cell n then
    let v := BitVec.ofNat 64 (Cell.pay cell 8 8)
    let s1 := match cellReg t cell with
      | some o => s.regWrite o 8 v
      | none => s.rejectReg (dieReg t (Cell.off cell))
    s1.sendAck (Cell.srcMod cell) (Cell.srcTgt cell) t (Cell.job cell) (Cell.stream cell) n
  else if t = 8 then s.hiveRefuse cell
  else s.niCell t cell fun s => s.niWrite t cell)

/-- RDREQ_CELL: response streams of the named bytes go to DST (R210, R217, R331, R471). -/
def execRdreqCell (tgt : FnId) (cell : CellW) (s : State) : Host.Outcome State Fault Refusal :=
  let t := tgt.val
  .next (if !Cell.good cell ∨ Cell.type cell ≠ 3 then s
  else if Cell.regAt t cell (Cell.pay cell 8 3) ∧ Cell.pay cell 15 2 = 1 then
    match cellReg t cell with
    | some o =>
      let (s1, v) := s.readReg o
      s1.rdAnswer t cell (leBytes 8 v.toNat)
    | none => s.rdAnswer t cell (leBytes 8 0)
  else if t = 8 then s.hiveRefuse cell
  else s.niCell t cell fun s => s.niRead t cell)

/-! The aperture (R354). -/

/-- An access that the bus answers with Unsupported Request. -/
def State.unsupported (s : State) (fn : Nat) : State := s.emit (.busReply fn none)

/-- A register access of 8 bytes through the aperture. -/
def State.apertureReg (s : State) (fn o : Nat) (write : Bool) (data : Bytes) : State :=
  if write then s.regWriteBy fn o o 8 (BitVec.ofNat 64 (leVal data)) fun _ => false else s.busRead fn o 8

/-- A write of the aperture as a cell, which waits for the die's port (R15, R354). -/
def State.apertureWr (s : State) (fn die o : Nat) (data : Bytes) : State :=
  if data = [] then s else s.sendWr 8 .none s.module die (s.jobOf fn) o (s.diePgen die) data

/-- An access through the aperture to a die's memory, after the checks that a cell of the function's JOB meets. -/
def State.apertureMem (s : State) (fn die o n : Nat) (write : Bool) (data : Bytes) : State :=
  if s.dieAbsorbs die then (if write then s.absorb die else s.unsupported fn)
  else match pick (s.rangeConds die o n) with
  | some reason => (s.refuseItem reason fn).unsupported fn
  | none =>
    if !s.diePortUp die then
      (if write then (s.apertureWr fn die o (data.take 40)).apertureWr fn die (o + 40) (data.drop 40)
      else s.unsupported fn)
    else if write then (s.memWrites die [(o, data)] (rxTag die s.module 8 fn)).1
    else match s.memRead die o n with
      | (s1, true) => s1.emit (.busReply fn (some (s1.peek die o n)))
      | (s1, false) => s1.unsupported fn

/-- An access of `n` bytes through a function's BAR2. -/
def State.aperture (s : State) (fn off n : Nat) (write : Bool) (data : Bytes) : State :=
  let w := off / 2 ^ 30
  let apw := s.reg (Reg.PCI_APW w)
  let tgt := fld apw 40 4
  let o := fld apw 0 40 + off % 2 ^ 30
  let reg := decide (0xFF00000000 ≤ o)
  if (n ≠ 8 ∧ n ≠ 64) ∨ off % n ≠ 0 ∨ (write ∧ data.length ≠ n) ∨ (fn ≠ 0 ∧ 2 ≤ w) ∨ bit apw 63 = false then
    s.unsupported fn
  else if fn ≠ 0 ∧ (8 ≤ tgt ∨ s.owner tgt ≠ fn) then (s.refuseItem 0x6B03 fn).unsupported fn
  else if tgt = 8 then
    (if n = 8 ∧ reg ∧ o < 0xFF01000000 then s.apertureReg fn (o - 0xFF00000000) write data
    else (s.refuseItem 0x5703 fn).unsupported fn)
  else if reg ∧ n = 8 ∧ fn = 0 ∧ o < 0xFF00200000 then s.apertureReg fn (dieReg tgt (o - 0xFF00000000)) write data
  else s.apertureMem fn tgt o n write data

/-- APERTURE_ACCESS: 8 or 64 aligned bytes through window `off / 2^30`, carried as cells of the function's JOB. -/
def execApertureAccess (fn : FnId) (off : BitVec 34) (size : BitVec 7) (write : Bool) (data : Bytes) (s : State) :
    Host.Outcome State Fault Refusal :=
  .next (s.aperture fn.val off.toNat size.toNat write data)

end Sys2Proof.Machine
end

