-- ==== Sys2Proof/Machine/TapCmds.lean ====
section
/-! DEFINITION. The test access ports: 0 the hive's, d + 1 that of die d (R463 to R468). -/

namespace Sys2Proof.Machine

/-- A TAP is in the chain: the hive's while it is powered, a die's while DIESEL selects it (R464). -/
def State.tapIn (s : State) (t : Nat) : Bool :=
  s.pwr.rails && (decide (t = 0) || s.fbit RF.TAP_STAT_DIESEL (t - 1))

/-- The queen holds every instrument until phase 4 has ended (R466). -/
def State.tapHeld (s : State) : Bool := decide (s.fget RF.QN_BOOT_STAT_PHASE ≠ 5)

/-- An instruction is in a TAP's register; TAP_STAT shows the hive's, in Run-Test/Idle after its scan. -/
def State.tapIr (s : State) (t op : Nat) : State :=
  let s1 : State := { s with tap := { s.tap with ir := s.tap.ir.set 0xFF t op } }
  let s2 := s1.fset RF.TAP_STAT_TSTATE 1
  if t = 0 then s2.fset RF.TAP_STAT_IR op else s2

/-- Bits leave through TDO, unless it is high-impedance after a contention (R454). -/
def State.tapOut (s : State) (t bits : Nat) : State := if s.drives 2 then s.emit (.tdo t bits) else s

/-- The 1-bit bypass register: it captures 0 and takes the bit shifted in. -/
def State.tapBypass (s : State) (t op : Nat) (tdi : Bool) : State :=
  let s1 := (s.tapIr t op).tapOut t 0
  { s1 with tap := { s1.tap with dr := s1.tap.dr.set 0 t (b2n tdi) } }

/-- An instruction other than BYPASS and IDCODE, where the queen does not hold the instruments. -/
def State.tapRun (s : State) (t op : Nat) (f : State → State) : State :=
  if !s.tapIn t then s
  else if s.tapHeld then s.tapBypass t op false
  else f (s.tapIr t op)

/-- BYPASS (R464). -/
def execBypass (tap : FnId) (tdi : Bool) (s : State) : Host.Outcome State Fault Refusal :=
  .next (if s.tapIn tap.val then s.tapBypass tap.val 0xFF tdi else s)

/-- Identity codes (R465). -/
def idcodeOf (t : Nat) : Nat := if t = 0 then 0x1F960A6B else 0x1F961A6B

/-- IDCODE (R465). -/
def execIdcode (tap : FnId) (s : State) : Host.Outcome State Fault Refusal :=
  .next (if s.tapIn tap.val then (s.tapIr tap.val 1).tapOut tap.val (idcodeOf tap.val) else s)

/-- Cells of a boundary register: 4 on the hive; a die's wrapper is taken 64 bits at a time. -/
def bndMask (t : Nat) (v : BitVec 64) : Nat := if t = 0 then v.toNat % 16 else v.toNat

/-- SAMPLE/PRELOAD (R464). -/
def execSamplePreload (tap : FnId) (pins preload : BitVec 64) (s : State) : Host.Outcome State Fault Refusal :=
  let t := tap.val
  .next (s.tapRun t 2 fun s =>
    let s1 := s.tapOut t (bndMask t pins)
    { s1 with tap := { s1.tap with preload := s1.tap.preload.set 0 t (bndMask t preload) } })

/-! Runs (R466, R467). -/

/-- An access is captured rejected or held by the queen. -/
def State.tapReject (s : State) (t acc : Nat) : State := (s.finc RF.TAP_STAT_REJECT 1).tapOut t acc

/-- A unit is in reset, FAILED or RETIRED: instruments 5 logic BIST, 6 SRAM BIST, 7 PHY margining, 8 EXTEST. -/
def State.tapUnitOut (s : State) (t instr unit : Nat) : Bool :=
  decide (t ≠ 0) && (decide (2 ≤ s.dieState (t - 1)) ||
    (decide (instr = 6) && s.bkGone (t - 1) unit) || (decide (instr = 7) && s.chFailed (t - 1) unit))

/-- A run starts. -/
def State.tapStart (s : State) (t instr unit : Nat) : State :=
  ({ s with tap := { s.tap with run := some (t, instr, unit) } } : State).fset RF.TAP_STAT_RUN 1

/-- EXTEST: the boundary cells drive what was preloaded and capture the pins; a die's wrapper only as a run under
R466 (R464). -/
def execExtest (tap : FnId) (pins : BitVec 64) (s : State) : Host.Outcome State Fault Refusal :=
  let t := tap.val
  .next (s.tapRun t 3 fun s =>
    if t ≠ 0 ∧ !(decide (s.fget RF.TAP_CTL_OPEN = 1) && s.tapUnitOut t 8 0) then s.tapReject t 2
    else if t ≠ 0 ∧ s.tap.run ≠ none then s
    else
      let s1 := s.tapOut t (bndMask t pins)
      let s2 : State := { s1 with tap := { s1.tap with drive := s1.tap.drive.set 0 t (s1.tap.preload.get 0 t) } }
      if t = 0 then s2 else s2.tapStart t 8 0)

/-- DIESEL: the dies selected join the chain at Update-DR (R464). What the select register captures is not
stated: a free value leaves. -/
def execDiesel (sel : BitVec 8) (s : State) : Host.Outcome State Fault Refusal :=
  .next (s.tapRun 0 0x10 fun s =>
    (s.drawn.tapOut 0 (s.freshVal.toNat % 256)).fset RF.TAP_STAT_DIESEL sel.toNat)

/-- Instruments on a TAP's network: the hive's ports, banks and fuses only on the hive's (R466). -/
def tapHas (t instr : Nat) : Bool :=
  if t = 0 then decide (instr ≤ 5) else decide (instr ≤ 1 ∨ 5 ≤ instr)

/-- IJTAG: an instrument is read, or run; ACC leaves in bits 1..0, before the reading (R466, R467). -/
def State.ijtag (s : State) (t instr unit : Nat) (run : Bool) (reading : Nat) (queenBusy : Bool) : State :=
  if !tapHas t instr then s
  else if queenBusy then s.tapReject t 3
  else if instr ≤ 4 then (if run then s.tapReject t 2 else s.tapOut t (4 * reading))
  else if !s.tapUnitOut t instr unit then s.tapReject t 2
  else if !run then s.tapOut t (b2n (decide (s.tap.run = some (t, instr, unit))) + 4 * reading)
  else if s.fget RF.TAP_CTL_OPEN = 0 then s.tapReject t 2
  else if s.tap.run ≠ none then s.tapOut t 1
  else (s.tapStart t instr unit).tapOut t 1

def execIjtag (tap : FnId) (instrument : Fin 9) (unit : BitVec 8) (run : Bool) (reading : Word64)
    (queenBusy : Bool) (s : State) : Host.Outcome State Fault Refusal :=
  .next (s.tapRun tap.val 0x20 fun s =>
    s.ijtag tap.val instrument.val unit.toNat run reading.toNat queenBusy)

/-- INSTRUMENT_RUN_DONE: a unit that waited to leave reset may return (R467). -/
def execInstrumentRunDone (s : State) : Host.Outcome State Fault Refusal :=
  .next (if s.tap.run = none then s
  else (({ s with tap := { s.tap with run := none } } : State).fset RF.TAP_STAT_RUN 0).settle)

/-- TAP_RESET: Test-Logic-Reset; a run stops, and its unit is UNTESTED (R463, R467). -/
def execTapReset (s : State) : Host.Outcome State Fault Refusal :=
  let untested := match s.tap.run with
    | some u => s.tap.untested ++ [u]
    | none => s.tap.untested
  let s1 : State := { s with tap := { s.tap with ir := [], drive := [], dr := [], run := none, untested := untested } }
  .next (((s1.fset RF.TAP_STAT_TSTATE 0).fset RF.TAP_STAT_IR 0xFF).fset RF.TAP_STAT_RUN 0)

end Sys2Proof.Machine
end

