-- ==== Sys2Proof/Machine/UnitCmds.lean ====
section
/-! DEFINITION. Faults and self-tests of a die's units: arrays, matrix-vector engine, generators, SRAM, clusters,
banks (R96 to R102, R108, R137, R160, R404, R406). -/

namespace Sys2Proof.Machine

/-- ARR_RESIDUE_FAULT (R100, R102). DESIGN CHOICE: the payload's TILE is 0 while an ARR_WLOAD or no command runs
(log entry 54). -/
def execArrResidueFault (die : DieId) (arr : Fin 6) (region : Fin 16) (cause : Fin 3) (column : Fin 256)
    (entry : Fin 1024) (s : State) : Host.Outcome State Fault Refusal :=
  let d := die.val
  let p := s.arrPhys d arr.val
  .next (if !s.arrRuns d p then s
  else
    let bad := (s.arr d arr.val).queue.find? fun j => j.started && decide (jREGION j.word = region.val)
    let tile := match bad with
      | some j => if fld j.word 0 8 = 0x21 ∨ fld j.word 0 8 = 0x23 then fld j.word 256 32 else 0
      | none => 0
    let s1 := ((s.finc (RF.ARR_FLT_CNT_CNT d p) 1).noteFault d p).fset (RF.COMB_ERR_ARR d) 1
    (s1.dieRec d 0x8102 p 2 (arrPay p arr.val region.val cause.val column.val entry.val tile)).arrWithdraw d p)

/-- ARR_SELFTEST_DONE (R100 step 6). -/
def execArrSelftestDone (die : DieId) (phys : Fin 7) (pass : Bool) (s : State) :
    Host.Outcome State Fault Refusal :=
  .next (if s.arrSt die.val phys.val = 3 then s.arrVerdict die.val phys.val pass else s)

/-- SPARE_ARRAY_SELFTEST: a spare that fails its idle test is FENCED and tests itself (R99). -/
def execSpareArraySelftest (die : DieId) (phys : Fin 7) (pass : Bool) (s : State) :
    Host.Outcome State Fault Refusal :=
  .next (if s.arrSt die.val phys.val = 2 ∧ !pass then
    (((s.setArrSt die.val phys.val 3).arrFlags die.val).journal die.val 0 phys.val 4).dieReview die.val
  else s)

/-- MVE_RESIDUE_FAULT (R108). -/
def execMveResidueFault (die : DieId) (cause : Fin 3) (column : BitVec 16) (entry : BitVec 16) (s : State) :
    Host.Outcome State Fault Refusal :=
  let d := die.val
  .next (if s.fget (RF.MVE_STAT_RETIRED d) = 1 ∨ s.fget (RF.MVE_STAT_ON_ARRAYS d) = 1 then s
  else
    let tile := match s.eng.mveq.get [] d with
      | j :: _ => if j.started then fld j.word 352 32 else 0
      | [] => 0
    let s1 := ((s.finc (RF.MVE_STAT_FLT_CNT d) 1).noteFault d 7).fset (RF.COMB_ERR_MVE d) 1
    (s1.dieRec d 0x8106 0 2 (arrPay 0xFF 0 0 cause.val column.toNat entry.toNat tile)).mveWithdraw d)

/-- MVE_SELFTEST_DONE: the engine returns, or is retired and its commands run on the arrays from then on. -/
def execMveSelftestDone (die : DieId) (pass : Bool) (s : State) : Host.Outcome State Fault Refusal :=
  let d := die.val
  .next (if s.fget (RF.MVE_STAT_ON_ARRAYS d) = 1 ∧ s.fget (RF.MVE_STAT_RETIRED d) = 0 then
    if pass && s.mayReturn d 7 then s.fset (RF.MVE_STAT_ON_ARRAYS d) 0
    else ((s.fset (RF.MVE_STAT_RETIRED d) 1).dieRec d 0x8107 0 2 (arrPay 0xFF 0 0 0 0 0 0)).journal d 7 0 5
  else s)

/-- RNG_PARITY_FAULT: engine 0 an array, 1 the matrix-vector engine, 2 a worker cluster, 3 the merge stage (R160).
DESIGN CHOICE: a draw of the merge stage is one step, so the sample that a fault of its generator meets is the next
one drawn; the spec names no unit that stands in for a merge stage (log entry 55). -/
def execRngParityFault (die : DieId) (engine : Fin 4) (unit : Byte) (lane : BitVec 16) (s : State) :
    Host.Outcome State Fault Refusal :=
  let d := die.val
  let u := unit.toNat
  let body := pay [(1, engine.val), (1, u), (2, lane.toNat)]
  .next (if engine.val = 3 then
    ({ s with smp := { s.smp with parity := true } } : State).hiveRec 0x8204 u 2 body
  else
    let s1 := ((s.fset (RF.RNG_STAT_PAR_FLT d) 1).finc (RF.RNG_STAT_FLT_CNT d) 1).fset (RF.COMB_ERR_RNG d) 1
    let s2 := (s1.dieRec d 0x8204 u 2 body).voteFailed d
    if engine.val = 0 then s2.arrWithdraw d u
    else if engine.val = 1 then s2.mveWithdraw d
    else (s2.takeoverStart d u).takeoverTry d u)

/-- SRAM_SCRUB: the scrubber reads a line in which `flips` words show new errors, of one bit or of more; one-bit
errors are corrected, counted and written back (R137). -/
def execSramScrub (die : DieId) (line : Fin 2097152) (flips : List (Fin 32 × Bool)) (s : State) :
    Host.Outcome State Fault Refusal :=
  let d := die.val
  let key := fun (w : Nat) => sramKey d (line.val * 32 + w)
  let errs := flips.foldl (fun (t : Tbl Nat) f =>
    let k := key f.1.val
    t.put k (if f.2 || decide (t.get 0 k ≠ 0) then 2 else 1)) s.eng.sramErr
  let ones := (List.range 32).filter fun w => decide (errs.get 0 (key w) = 1)
  let left := ones.foldl (fun (t : Tbl Nat) w => t.del (key w)) errs
  .next (({ s with eng := { s.eng with sramErr := left } } : State).finc (RF.WRK_SRAM_ECC_CE_CNT d) ones.length)

/-- CLUSTER_TAKEOVER (R404, R405). -/
def execClusterTakeover (die : DieId) (cluster : Fin 32) (s : State) : Host.Outcome State Fault Refusal :=
  .next (s.clTakeover die.val cluster.val)

/-- BANK_TAKEOVER (R406). -/
def execBankTakeover (die : DieId) (bank : Fin 64) (s : State) : Host.Outcome State Fault Refusal :=
  .next (s.bankTakeover die.val bank.val)

end Sys2Proof.Machine
end

