-- ==== Sys2Proof/Machine/WortCmds.lean ====
section
/-! DEFINITION. The wort stream and the Ethernet ports (R373 to R380). -/

namespace Sys2Proof.Machine

/-! WORT cells (R374). -/

/-- A WORT cell of a kind. -/
def wortCell (c : CellW) (kind : Nat) : Bool :=
  decide (Cell.type c = 0x0B ∧ Cell.len c = 32 ∧ Cell.pay c 0 1 = kind ∧ Cell.pay c 3 1 = 0)

/-- WORT_READY: the engine learns of the slot; a slot already committed is sent. -/
def execWortReady (cell : CellW) (s : State) : Host.Outcome State Fault Refusal :=
  .next (s.hiveCell cell fun s =>
    let die := Cell.srcTgt cell
    let p := s.owner die - 1
    if wortCell cell 1 then
      match (s.sess p).slotOf die (Cell.pay cell 1 1) with
      | some w =>
        if w.att = Cell.pay cell 2 1 ∧ w.step = Cell.pay cell 4 4 ∧ !w.ready then
          (s.setSess p ((s.sess p).updSlot die w.slot fun v => { v with ready := true })).wortResume die
        else s
      | none => s
    else s)

/-- WORT_RELEASE: an acknowledged slot is FREE, its bitmap clear; an update that waits for a slot may start
(R191, R195). -/
def execWortRelease (die : DieId) (cell : CellW) (s : State) : Host.Outcome State Fault Refusal :=
  let d := die.val
  let k := Cell.pay cell 1 1
  .next (s.niCell d cell fun s =>
    if wortCell cell 2 && decide (k < 8) && decide (s.fget (RF.UPD_SLOT_STATE_STATE d k) = 2) then
      (s.freeSlot d k).updRun d
    else s)

/-! Acknowledgement and retransmission (R377). -/

/-- A message the engine keeps is sent again. -/
def State.wortAgain (s : State) (p mseq : Nat) : State :=
  match (s.sess p).msgs.find? fun m => m.1 == mseq with
  | some m => s.wortEmit p m.1 m.2.2
  | none => s

/-- WORT_ACK. -/
def execWortAck (p : PartId) (ackSeq nakSeq : Word64) (s : State) : Host.Outcome State Fault Refusal :=
  let k := p.val
  let a := ackSeq.toNat
  let x := s.sess k
  .next (if !x.isOpen ∨ x.nextSeq ≤ a then s
  else
    let ack := max a x.ackSeq
    let s1 := s.setSess k { x with ackSeq := ack, msgs := x.msgs.filter fun m => decide (ack < m.1) }
    let s2 := s1.wortRelease k
    (if nakSeq = 0 then s2 else s2.wortAgain k nakSeq.toNat).wortRegs k)

/-- HELLO_ACK: the store's last complete step; the next HELLO names it as BASESTEP (R375). -/
def execHelloAck (p : PartId) (step : BitVec 32) (s : State) : Host.Outcome State Fault Refusal :=
  let x := s.sess p.val
  .next (if x.isOpen then s.setSess p.val { x with acked := true, baseStep := step.toNat } else s)

/-- WORT_RETRANSMIT: every message after ACKSEQ is sent again. -/
def execWortRetransmit (p : PartId) (s : State) : Host.Outcome State Fault Refusal :=
  .next ((s.sess p.val).msgs.foldl (fun (s : State) m => s.wortEmit p.val m.1 m.2.2) s)

/-- KEEPALIVE: an idle open session (R375). -/
def execKeepalive (p : PartId) (s : State) : Host.Outcome State Fault Refusal :=
  let x := s.sess p.val
  .next (if x.isOpen ∧ x.msgs = [] then
    s.wortEmit p.val 0 (wortMsg 6 (s.part p.val).session 0 s.module p.val s.now [])
  else s)

/-! Rates and reservations (R380). -/

/-- W′ before the store's own rate is counted. -/
def State.wBase (s : State) (p : Nat) : Nat := (s.setSess p { s.sess p with slow := none }).weff p

/-- WORT_RATE_CHECK: bytes the store acknowledged over the last 100 ms. -/
def execWortRateCheck (p : PartId) (ackedBytes : Word64) (s : State) : Host.Outcome State Fault Refusal :=
  let k := p.val
  let x := s.sess k
  let short := decide (x.backlog ≠ 0 ∧ ackedBytes.toNat < 90000 * s.wBase k)
  .next ((s.setSess k { x with slow := if short then some (ackedBytes.toNat / 100000) else none }).wortRegs k)

/-- WORT_RESERVATION_GRANT: a waiting reservation fits within B′; the hive member may vote ready. -/
def execWortReservationGrant (die : DieId) (s : State) : Host.Outcome State Fault Refusal :=
  let d := die.val
  let c := s.dieCap d
  let p := s.owner d - 1
  .next (match c.slot with
    | some k =>
      match (s.sess p).slotOf d k with
      | some w =>
        if c.held ∧ s.capState d = 2 ∧ s.fits p w.ngran then
          let s1 := s.setSess p ((s.sess p).updSlot d k fun v => { v with reserved := true })
          (s1.setDieCap d { c with held := false }).hiveReview c.key
        else s
      | none => s
    | none =>
      if c.held ∧ s.capState d = 2 ∧ !s.noRate d then
        (s.setDieCap d { c with held := false }).hiveReview c.key
      else s)

/-! Ethernet ports (R373, R377). -/

/-- ETH_LINK_CHANGE: 0 down, 1 at 400 Gb/s, 2 at 800 Gb/s; the wort capacity follows (R379, R380). -/
def execEthLinkChange (port : Fin 2) (speed : Fin 3) (s : State) : Host.Outcome State Fault Refusal :=
  let s1 := s.fset (RF.ETH_PORT_LINK port.val) speed.val
  .next (s1.wort.sess.foldl (fun (s : State) e => s.wortRegs e.1) s1).reevaluate

/-- NEIGHBOUR_SOLICITATION for a port's address: a Neighbour Advertisement. -/
def execNeighbourSolicitation (port : Fin 2) (target : BitVec 128) (s : State) :
    Host.Outcome State Fault Refusal :=
  let i := port.val
  .next (if s.fget (RF.ETH_PORT_LINK i) ≠ 0 ∧ s.ethAddr i ≠ 0 ∧ s.ethAddr i = target.toNat then
    s.emit (.eth i 2 (s.ethDgram i []) (beBytes 16 target.toNat))
  else s)

/-- ECHO_REQUEST: an Echo Reply to its sender. -/
def execEchoRequest (port : Fin 2) (src : BitVec 128) (data : Bytes) (s : State) :
    Host.Outcome State Fault Refusal :=
  .next (if s.fget (RF.ETH_PORT_LINK port.val) ≠ 0 ∧ s.ethAddr port.val ≠ 0 then
    s.emit (.eth port.val 3 (s.ethDgram port.val (beBytes 16 src.toNat)) data)
  else s)

/-- ETH_FRAME_DISCARD: counted. -/
def execEthFrameDiscard (port : Fin 2) (s : State) : Host.Outcome State Fault Refusal :=
  .next (s.finc (RF.ETH_PORT_DROP port.val) 1)

end Sys2Proof.Machine
end

