-- ==== Sys2Proof/Machine/Dispatch.lean ====
section
/-! DEFINITION. The dispatcher: one arm per command of the table, each a direct call of its meaning. -/

namespace Sys2Proof.Machine

/-- The effect of a command on everything but the queue. -/
def exec (i : Instr) (s : State) : Host.Outcome State Fault Refusal :=
  match i with
  | .nop core => Sys2Proof.Machine.execNop core s
  | .endK core => Sys2Proof.Machine.execEndK core s
  | .chain core => Sys2Proof.Machine.execChain core s
  | .wait core => Sys2Proof.Machine.execWait core s
  | .sig core => Sys2Proof.Machine.execSig core s
  | .cset core => Sys2Proof.Machine.execCset core s
  | .bar core => Sys2Proof.Machine.execBar core s
  | .arrWload core => Sys2Proof.Machine.execArrWload core s
  | .arrPass core => Sys2Proof.Machine.execArrPass core s
  | .arrLayout core => Sys2Proof.Machine.execArrLayout core s
  | .arrDrain core => Sys2Proof.Machine.execArrDrain core s
  | .arrCommandComplete die arr region => Sys2Proof.Machine.execArrCommandComplete die arr region s
  | .mveMv core => Sys2Proof.Machine.execMveMv core s
  | .mveCommandComplete die => Sys2Proof.Machine.execMveCommandComplete die s
  | .vec core => Sys2Proof.Machine.execVec core s
  | .copy core => Sys2Proof.Machine.execCopy core s
  | .copyComplete die ce => Sys2Proof.Machine.execCopyComplete die ce s
  | .rngFill core => Sys2Proof.Machine.execRngFill core s
  | .smpOpen sender => Sys2Proof.Machine.execSmpOpen sender s
  | .smpOpenResume => Sys2Proof.Machine.execSmpOpenResume s
  | .smpPart core => Sys2Proof.Machine.execSmpPart core s
  | .smpPartArrive part => Sys2Proof.Machine.execSmpPartArrive part s
  | .smpBroadcast die job sid cidx m l sour stream => Sys2Proof.Machine.execSmpBroadcast die job sid cidx m l sour stream s
  | .smpContextTimeout job sid => Sys2Proof.Machine.execSmpContextTimeout job sid s
  | .smpOrphanTimeout job sid cidx => Sys2Proof.Machine.execSmpOrphanTimeout job sid cidx s
  | .updRun core => Sys2Proof.Machine.execUpdRun core s
  | .updPend core => Sys2Proof.Machine.execUpdPend core s
  | .updNorm core => Sys2Proof.Machine.execUpdNorm core s
  | .updSave core => Sys2Proof.Machine.execUpdSave core s
  | .updGateStart die => Sys2Proof.Machine.execUpdGateStart die s
  | .updCommandComplete die => Sys2Proof.Machine.execUpdCommandComplete die s
  | .swmBcast core => Sys2Proof.Machine.execSwmBcast core s
  | .swmReduce core => Sys2Proof.Machine.execSwmReduce core s
  | .swmPermute core => Sys2Proof.Machine.execSwmPermute core s
  | .swmOpComplete die gid opseq => Sys2Proof.Machine.execSwmOpComplete die gid opseq s
  | .capOpen core => Sys2Proof.Machine.execCapOpen core s
  | .capVote core => Sys2Proof.Machine.execCapVote core s
  | .capAbort core => Sys2Proof.Machine.execCapAbort core s
  | .capSeal core => Sys2Proof.Machine.execCapSeal core s
  | .launch ring desc => Sys2Proof.Machine.execLaunch ring desc s
  | .beatLaunchStart ring tag => Sys2Proof.Machine.execBeatLaunchStart ring tag s
  | .hdma ring desc => Sys2Proof.Machine.execHdma ring desc s
  | .setup ring desc blk => Sys2Proof.Machine.execSetup ring desc blk s
  | .teardown ring desc => Sys2Proof.Machine.execTeardown ring desc s
  | .abort ring desc => Sys2Proof.Machine.execAbort ring desc s
  | .partitionCreate ring desc => Sys2Proof.Machine.execPartitionCreate ring desc s
  | .partitionDestroy ring desc => Sys2Proof.Machine.execPartitionDestroy ring desc s
  | .reclaim ring desc => Sys2Proof.Machine.execReclaim ring desc s
  | .reclaimWortDeadline p => Sys2Proof.Machine.execReclaimWortDeadline p s
  | .reclaimRelease p => Sys2Proof.Machine.execReclaimRelease p s
  | .sqTail fn lidx v => Sys2Proof.Machine.execSqTail fn lidx v s
  | .cqHead fn lidx v => Sys2Proof.Machine.execCqHead fn lidx v s
  | .descriptorComplete ring tag => Sys2Proof.Machine.execDescriptorComplete ring tag s
  | .irqHoldExpire ring => Sys2Proof.Machine.execIrqHoldExpire ring s
  | .ringEnable fn ring => Sys2Proof.Machine.execRingEnable fn ring s
  | .ringDisable fn ring => Sys2Proof.Machine.execRingDisable fn ring s
  | .bmeClear fn => Sys2Proof.Machine.execBmeClear fn s
  | .bmeSet fn => Sys2Proof.Machine.execBmeSet fn s
  | .flrVf p => Sys2Proof.Machine.execFlrVf p s
  | .flrPf0 => Sys2Proof.Machine.execFlrPf0 s
  | .apertureAccess fn off size write data => Sys2Proof.Machine.execApertureAccess fn off size write data s
  | .dieWindowAccess die off size write data => Sys2Proof.Machine.execDieWindowAccess die off size write data s
  | .dieWindowNoAnswer die off write => Sys2Proof.Machine.execDieWindowNoAnswer die off write s
  | .dmaWindowWrite fn w lim v => Sys2Proof.Machine.execDmaWindowWrite fn w lim v s
  | .pcieCompletion tag data => Sys2Proof.Machine.execPcieCompletion tag data s
  | .pciCompletionTimeout tag => Sys2Proof.Machine.execPciCompletionTimeout tag s
  | .hdmaProgressTimeout ring tag => Sys2Proof.Machine.execHdmaProgressTimeout ring tag s
  | .wortReady cell => Sys2Proof.Machine.execWortReady cell s
  | .wortRelease die cell => Sys2Proof.Machine.execWortRelease die cell s
  | .wortAck p ackSeq nakSeq => Sys2Proof.Machine.execWortAck p ackSeq nakSeq s
  | .helloAck p step => Sys2Proof.Machine.execHelloAck p step s
  | .wortRetransmit p => Sys2Proof.Machine.execWortRetransmit p s
  | .keepalive p => Sys2Proof.Machine.execKeepalive p s
  | .wortRateCheck p ackedBytes => Sys2Proof.Machine.execWortRateCheck p ackedBytes s
  | .wortReservationGrant die => Sys2Proof.Machine.execWortReservationGrant die s
  | .ethLinkChange port speed => Sys2Proof.Machine.execEthLinkChange port speed s
  | .neighbourSolicitation port target => Sys2Proof.Machine.execNeighbourSolicitation port target s
  | .echoRequest port src data => Sys2Proof.Machine.execEchoRequest port src data s
  | .ethFrameDiscard port => Sys2Proof.Machine.execEthFrameDiscard port s
  | .rtLoad fn gen image => Sys2Proof.Machine.execRtLoad fn gen image s
  | .rtxSummary port gen summary passed => Sys2Proof.Machine.execRtxSummary port gen summary s passed
  | .rtxTimeout port => Sys2Proof.Machine.execRtxTimeout port s
  | .rtAct => Sys2Proof.Machine.execRtAct s
  | .rtSwGo => Sys2Proof.Machine.execRtSwGo s
  | .bankDrainEnd bank => Sys2Proof.Machine.execBankDrainEnd bank s
  | .cellForward inPort cell => Sys2Proof.Machine.execCellForward inPort cell s
  | .linkCellReceive port tag cell lanes => Sys2Proof.Machine.execLinkCellReceive port tag cell s lanes
  | .controlWordReceive port slot => Sys2Proof.Machine.execControlWordReceive port slot s
  | .wrCell tgt cell => Sys2Proof.Machine.execWrCell tgt cell s
  | .addCell die cell => Sys2Proof.Machine.execAddCell die cell s
  | .rdreqCell tgt cell => Sys2Proof.Machine.execRdreqCell tgt cell s
  | .sopenCell die cell => Sys2Proof.Machine.execSopenCell die cell s
  | .sdataCell die cell => Sys2Proof.Machine.execSdataCell die cell s
  | .ackCell tgt cell => Sys2Proof.Machine.execAckCell tgt cell s
  | .nackCell tgt cell => Sys2Proof.Machine.execNackCell tgt cell s
  | .streamRestart tgt id => Sys2Proof.Machine.execStreamRestart tgt id s
  | .orphanTimeout die srcMod srcTgt stream => Sys2Proof.Machine.execOrphanTimeout die srcMod srcTgt stream s
  | .transferTimeout tgt id => Sys2Proof.Machine.execTransferTimeout tgt id s
  | .contextIdleFree die srcMod srcTgt stream => Sys2Proof.Machine.execContextIdleFree die srcMod srcTgt stream s
  | .streamIdAvailable tgt id => Sys2Proof.Machine.execStreamIdAvailable tgt id s
  | .cellTtlDrop port => Sys2Proof.Machine.execCellTtlDrop port s
  | .mgmtCell port cell => Sys2Proof.Machine.execMgmtCell port cell s
  | .identitySend port => Sys2Proof.Machine.execIdentitySend port s
  | .identityReceive port msg => Sys2Proof.Machine.execIdentityReceive port msg s
  | .portSignal port => Sys2Proof.Machine.execPortSignal port s
  | .trainStageDone port => Sys2Proof.Machine.execTrainStageDone port s
  | .trainStageOverrun port lane => Sys2Proof.Machine.execTrainStageOverrun port lane s
  | .trainRetry port => Sys2Proof.Machine.execTrainRetry port s
  | .portStall port part => Sys2Proof.Machine.execPortStall port s part
  | .portResume port => Sys2Proof.Machine.execPortResume port s
  | .portDown port cause => Sys2Proof.Machine.execPortDown port cause s
  | .routeRevert port => Sys2Proof.Machine.execRouteRevert port s
  | .portDisWrite port dis => Sys2Proof.Machine.execPortDisWrite port dis s
  | .dlanePermFault die dir lane => Sys2Proof.Machine.execDlanePermFault die dir lane s
  | .laserFail bank laser sample => Sys2Proof.Machine.execLaserFail bank laser s sample
  | .laserTuneTimeout bank => Sys2Proof.Machine.execLaserTuneTimeout bank s
  | .laserTakeoverDone bank => Sys2Proof.Machine.execLaserTakeoverDone bank s
  | .laserAgeCheck bank laser bias mpd => Sys2Proof.Machine.execLaserAgeCheck bank laser bias s mpd
  | .laserHandoverSwitch bank => Sys2Proof.Machine.execLaserHandoverSwitch bank s
  | .spareDailyCheck bank laser pass => Sys2Proof.Machine.execSpareDailyCheck bank laser pass s
  | .rxpwrSample port dir lane pwr => Sys2Proof.Machine.execRxpwrSample port dir lane pwr s
  | .openFibreShutoff port unmated dark => Sys2Proof.Machine.execOpenFibreShutoff port unmated dark s
  | .shutProbe port => Sys2Proof.Machine.execShutProbe port s
  | .shutRestore port => Sys2Proof.Machine.execShutRestore port s
  | .lullRequest port => Sys2Proof.Machine.execLullRequest port s
  | .lullAnswerTimeout port => Sys2Proof.Machine.execLullAnswerTimeout port s
  | .lullWake port => Sys2Proof.Machine.execLullWake port s
  | .wakeTone port => Sys2Proof.Machine.execWakeTone port s
  | .wakeTimeout port => Sys2Proof.Machine.execWakeTimeout port s
  | .arrResidueFault die arr region cause column entry => Sys2Proof.Machine.execArrResidueFault die arr region cause column entry s
  | .arrSelftestDone die phys pass => Sys2Proof.Machine.execArrSelftestDone die phys pass s
  | .spareArraySelftest die phys pass => Sys2Proof.Machine.execSpareArraySelftest die phys pass s
  | .mveResidueFault die cause column entry => Sys2Proof.Machine.execMveResidueFault die cause column entry s
  | .mveSelftestDone die pass => Sys2Proof.Machine.execMveSelftestDone die pass s
  | .rngParityFault die engine unit lane => Sys2Proof.Machine.execRngParityFault die engine unit lane s
  | .updLaneFault die group => Sys2Proof.Machine.execUpdLaneFault die group s
  | .waitTimeout core => Sys2Proof.Machine.execWaitTimeout core s
  | .coreStallResume core => Sys2Proof.Machine.execCoreStallResume core s
  | .prefetchRelease die => Sys2Proof.Machine.execPrefetchRelease die s
  | .sramScrub die line flips => Sys2Proof.Machine.execSramScrub die line flips s
  | .clusterTakeover die cluster => Sys2Proof.Machine.execClusterTakeover die cluster s
  | .bankTakeover die bank => Sys2Proof.Machine.execBankTakeover die bank s
  | .lpddrScrub die chan q err => Sys2Proof.Machine.execLpddrScrub die chan q err s
  | .wcbWrite die off data tag => Sys2Proof.Machine.execWcbWrite die off data tag s
  | .wcbAgeEvict die chan q => Sys2Proof.Machine.execWcbAgeEvict die chan q s
  | .homeRead die off len err => Sys2Proof.Machine.execHomeRead die off len err s
  | .mr4Poll pkg temp => Sys2Proof.Machine.execMr4Poll pkg temp s
  | .channelFail chan cause => Sys2Proof.Machine.execChannelFail chan cause s
  | .memRetire fn die chan page => Sys2Proof.Machine.execMemRetire fn die chan page s
  | .segmentOpen cell => Sys2Proof.Machine.execSegmentOpen cell s
  | .swmCell cell => Sys2Proof.Machine.execSwmCell cell s
  | .swmReplan job gid => Sys2Proof.Machine.execSwmReplan job gid s
  | .swmOpTimeout die gid opseq => Sys2Proof.Machine.execSwmOpTimeout die gid opseq s
  | .capvVote cell => Sys2Proof.Machine.execCapvVote cell s
  | .capvVector cell => Sys2Proof.Machine.execCapvVector cell s
  | .capvWitnessVector cell => Sys2Proof.Machine.execCapvWitnessVector cell s
  | .capvWitnessAck cell => Sys2Proof.Machine.execCapvWitnessAck cell s
  | .capvAsk cell => Sys2Proof.Machine.execCapvAsk cell s
  | .capvAbortRequest cell => Sys2Proof.Machine.execCapvAbortRequest cell s
  | .rollbackDone die => Sys2Proof.Machine.execRollbackDone die s
  | .voteToExpire cap => Sys2Proof.Machine.execVoteToExpire cap s
  | .capAskTimer tgt => Sys2Proof.Machine.execCapAskTimer tgt s
  | .captoExpire tgt => Sys2Proof.Machine.execCaptoExpire tgt s
  | .capRecordFree cap => Sys2Proof.Machine.execCapRecordFree cap s
  | .fenceList fn list => Sys2Proof.Machine.execFenceList fn list s
  | .fenceNoticeSend entry => Sys2Proof.Machine.execFenceNoticeSend entry s
  | .fenceNoticeReceive die => Sys2Proof.Machine.execFenceNoticeReceive die s
  | .coreReset core kat => Sys2Proof.Machine.execCoreReset core s kat
  | .clusterReset die cluster selftest pass kat => Sys2Proof.Machine.execClusterReset die cluster selftest pass s kat
  | .partitionReset p kat => Sys2Proof.Machine.execPartitionReset p s kat
  | .moduleReset cold => Sys2Proof.Machine.execModuleReset cold s
  | .powerOn => Sys2Proof.Machine.execPowerOn s
  | .bringupPhaseEnd r => Sys2Proof.Machine.execBringupPhaseEnd r s
  | .fwBootFallback => Sys2Proof.Machine.execFwBootFallback s
  | .peerWaitExpire => Sys2Proof.Machine.execPeerWaitExpire s
  | .wireLoad fn table => Sys2Proof.Machine.execWireLoad fn table s
  | .retainStore readBackOk => Sys2Proof.Machine.execRetainStore readBackOk s
  | .fwWrite signatureOk seq version => Sys2Proof.Machine.execFwWrite signatureOk seq version s
  | .rngTestGo die => Sys2Proof.Machine.execRngTestGo die s
  | .mgkeyCommit => Sys2Proof.Machine.execMgkeyCommit s
  | .configLock => Sys2Proof.Machine.execConfigLock s
  | .counterWrite die n v => Sys2Proof.Machine.execCounterWrite die n v s
  | .safetyThresholdWrite off v => Sys2Proof.Machine.execSafetyThresholdWrite off v s
  | .imaskWrite v => Sys2Proof.Machine.execImaskWrite v s
  | .timArm => Sys2Proof.Machine.execTimArm s
  | .registerWrite fn off size v => Sys2Proof.Machine.execRegisterWrite fn off size v s
  | .beatEdge late => Sys2Proof.Machine.execBeatEdge late s
  | .beatLoss => Sys2Proof.Machine.execBeatLoss s
  | .beatReturn => Sys2Proof.Machine.execBeatReturn s
  | .refclkLoss => Sys2Proof.Machine.execRefclkLoss s
  | .refclkReturn => Sys2Proof.Machine.execRefclkReturn s
  | .brownOut => Sys2Proof.Machine.execBrownOut s
  | .inputOvervoltage => Sys2Proof.Machine.execInputOvervoltage s
  | .aonPowerLoss => Sys2Proof.Machine.execAonPowerLoss s
  | .ilockRemoval => Sys2Proof.Machine.execIlockRemoval s
  | .ilockRestart => Sys2Proof.Machine.execIlockRestart s
  | .sidebandContention pin => Sys2Proof.Machine.execSidebandContention pin s
  | .sidebandRetry pin => Sys2Proof.Machine.execSidebandRetry pin s
  | .tjThrottle unit pair temp => Sys2Proof.Machine.execTjThrottle unit pair temp s
  | .throttleStep die hot => Sys2Proof.Machine.execThrottleStep die hot s
  | .tjShutdown unit pair temp => Sys2Proof.Machine.execTjShutdown unit pair temp s
  | .sensorDisagreement unit pair temp => Sys2Proof.Machine.execSensorDisagreement unit pair temp s
  | .railOvercurrent rail amps => Sys2Proof.Machine.execRailOvercurrent rail amps s
  | .inputOvercurrent amps => Sys2Proof.Machine.execInputOvercurrent amps s
  | .coolantLoss outlet reading => Sys2Proof.Machine.execCoolantLoss outlet reading s
  | .powerLimitExceeded watts => Sys2Proof.Machine.execPowerLimitExceeded watts s
  | .watchdogExpire => Sys2Proof.Machine.execWatchdogExpire s
  | .logRecord e => Sys2Proof.Machine.execLogRecord e s
  | .logQueueRelease die => Sys2Proof.Machine.execLogQueueRelease die s
  | .logFailure mirror cause addr => Sys2Proof.Machine.execLogFailure mirror cause addr s
  | .lastgaspRepeat => Sys2Proof.Machine.execLastgaspRepeat s
  | .heartbeat => Sys2Proof.Machine.execHeartbeat s
  | .resetReq header nonce tag => Sys2Proof.Machine.execResetReq header nonce tag s
  | .tapReset => Sys2Proof.Machine.execTapReset s
  | .bypass tap tdi => Sys2Proof.Machine.execBypass tap tdi s
  | .idcode tap => Sys2Proof.Machine.execIdcode tap s
  | .samplePreload tap pins preload => Sys2Proof.Machine.execSamplePreload tap pins preload s
  | .extest tap pins => Sys2Proof.Machine.execExtest tap pins s
  | .diesel sel => Sys2Proof.Machine.execDiesel sel s
  | .ijtag tap instrument unit run reading queenBusy => Sys2Proof.Machine.execIjtag tap instrument unit run reading queenBusy s
  | .queenRestartDone => Sys2Proof.Machine.execQueenRestartDone s
  | .causeCleared => Sys2Proof.Machine.execCauseCleared s
  | .probeSeen port => Sys2Proof.Machine.execProbeSeen port s
  | .lossOfSymbols port => Sys2Proof.Machine.execLossOfSymbols port s
  | .slewingDone => Sys2Proof.Machine.execSlewingDone s
  | .alignmentLost => Sys2Proof.Machine.execAlignmentLost s
  | .tagQuarantineEnd tag => Sys2Proof.Machine.execTagQuarantineEnd tag s
  | .hostCredits n => Sys2Proof.Machine.execHostCredits n s
  | .mgmtLinkChange port up => Sys2Proof.Machine.execMgmtLinkChange port up s
  | .instrumentRunDone => Sys2Proof.Machine.execInstrumentRunDone s

end Sys2Proof.Machine
end

