-- ==== Sys2Proof/Safety.lean ====
section
/-! DEFINITION. What a safe state is: the canonical form of memory and of the register table; the groups of the
state, and what it is to change nothing but some of them; what it is for a core to issue a command. -/

namespace Sys2Proof.Machine

/-- Memory in canonical form: addresses strictly rise and no listed byte is 0. -/
def Memory.wf (m : List Host.Cell) : Bool := Tbl.wf (α := Byte) (fun _ => 0) m

/-- The register table in canonical form: offsets strictly rise and no listed register holds its
cold-reset value. -/
def Regs.wf (r : Tbl Word64) : Bool := Tbl.wf (fun k => coldOf k) r

/-- The invariant every step keeps: both tables are canonical, so that equal contents are equal data. -/
def State.Inv (s : State) : Prop := Memory.wf s.mem = true ∧ Regs.wf s.regs = true

/-- The groups of the state; the queue of waiting commands is none of them. -/
inductive Comp
  | free | out | regs | mem | core | eng | smp | upd | swm | cap | lp | log | fab | opt | host | wort | boot | saf
  | pwr | tap | tim
  deriving DecidableEq, Repr

/-- Every group. -/
def Comp.all : List Comp :=
  [.free, .out, .regs, .mem, .core, .eng, .smp, .upd, .swm, .cap, .lp, .log, .fab, .opt, .host, .wort, .boot, .saf,
   .pwr, .tap, .tim]

/-- A group is the same in both states; memory is compared byte by byte, registers by their contents. -/
def Comp.same (c : Comp) (s t : State) : Prop :=
  match c with
  | .free => t.free = s.free
  | .out => t.out = s.out
  | .regs => ∀ o, t.reg o = s.reg o
  | .mem => ∀ k, t.byte k = s.byte k
  | .core => t.core = s.core
  | .eng => t.eng = s.eng
  | .smp => t.smp = s.smp
  | .upd => t.upd = s.upd
  | .swm => t.swm = s.swm
  | .cap => t.cap = s.cap
  | .lp => t.lp = s.lp
  | .log => t.log = s.log
  | .fab => t.fab = s.fab
  | .opt => t.opt = s.opt
  | .host => t.host = s.host
  | .wort => t.wort = s.wort
  | .boot => t.boot = s.boot
  | .saf => t.saf = s.saf
  | .pwr => t.pwr = s.pwr
  | .tap => t.tap = s.tap
  | .tim => t.tim = s.tim

/-- Nothing but the listed groups differs; the waiting commands and the model's clock are the same. -/
def State.Only (w : List Comp) (s t : State) : Prop :=
  (∀ c, c ∉ w → c.same s t) ∧ t.pending = s.pending ∧ t.tim.mono = s.tim.mono

/-- Every register outside the list holds what it held. -/
def State.RegsBut (l : List Nat) (s t : State) : Prop := ∀ o, o ∉ l → t.reg o = s.reg o

/-- The groups of the state that a command may change. -/
def groupsOf (i : Instr) : List Comp :=
  match i with
  | .capRecordFree _ => [.cap]
  | .logQueueRelease _ => [.log]
  | .wortRetransmit _ | .keepalive _ | .neighbourSolicitation .. | .echoRequest .. | .shutProbe _ | .probeSeen _
    => [.out]
  | .sidebandRetry _ => [.pwr]
  | .fwBootFallback | .peerWaitExpire => [.boot]
  | .ethFrameDiscard _ | .rngTestGo _ | .configLock | .mgmtLinkChange .. => [.regs]
  | .helloAck .. => [.wort]
  | .identitySend _ => [.out, .fab]
  | .lastgaspRepeat | .heartbeat => [.out, .log]
  | .fenceNoticeSend _ => [.out, .saf]
  | .irqHoldExpire _ => [.out, .host]
  | .dieWindowNoAnswer .. | .beatLoss | .refclkLoss | .refclkReturn => [.out, .regs]
  | .sramScrub .. => [.regs, .eng]
  | .contextIdleFree .. | .routeRevert _ => [.regs, .fab]
  | .sidebandContention _ => [.regs, .pwr]
  | .tapReset => [.regs, .tap]
  | .timArm | .slewingDone => [.regs, .tim]
  | .ringDisable .. | .bmeClear _ => [.regs, .host]
  | .wortRateCheck .. => [.regs, .wort]
  | .streamRestart .. | .streamIdAvailable .. => [.out, .swm, .fab]
  | .orphanTimeout .. | .portStall .. | .lullRequest _ | .lullAnswerTimeout _ | .lullWake _ | .wakeTone _
  | .lossOfSymbols _ => [.out, .regs, .fab]
  | .logRecord _ | .logFailure .. => [.out, .regs, .log]
  | .smpOrphanTimeout .. => [.out, .regs, .smp]
  | .bypass .. | .idcode _ | .samplePreload .. | .extest .. | .ijtag .. => [.out, .regs, .tap]
  | .beatEdge _ | .beatReturn => [.out, .regs, .tim]
  | .spareArraySelftest .. => [.out, .regs, .boot]
  | .wortAck .. => [.out, .regs, .wort]
  | .mveSelftestDone .. => [.regs, .log, .boot]
  | .spareDailyCheck .. => [.regs, .opt, .boot]
  | .counterWrite .. => [.regs, .core, .host]
  | .rtLoad .. | .rtxTimeout _ | .rtAct | .cellTtlDrop _ | .portSignal _ | .trainRetry _ | .shutRestore _
  | .capvAsk _ => [.out, .regs, .log, .fab]
  | .mgkeyCommit => [.out, .regs, .log, .saf]
  | .mgmtCell .. => [.out, .regs, .swm, .fab]
  | .diesel _ => [.free, .out, .regs, .tap]
  | .arrSelftestDone .. => [.out, .regs, .log, .boot]
  | .sqTail .. | .ringEnable .. => [.out, .regs, .log, .host]
  | .powerOn | .ilockRestart => [.regs, .boot, .pwr, .tim]
  | .waitTimeout _ => [.regs, .core, .log, .host]
  | .capvWitnessVector _ => [.out, .regs, .cap, .log, .fab]
  | .cellForward .. => [.out, .regs, .swm, .log, .fab]
  | .fwWrite .. => [.out, .regs, .log, .fab, .boot]
  | .cqHead .. => [.out, .regs, .log, .fab, .host]
  | .laserAgeCheck .. => [.out, .regs, .log, .opt, .boot]
  | .causeCleared => [.regs, .boot, .saf, .pwr, .tim]
  | .retainStore _ => [.free, .out, .regs, .log, .boot]
  | .ethLinkChange .. | .mr4Poll .. | .sensorDisagreement .. | .powerLimitExceeded _
    => [.free, .out, .regs, .log, .host]
  | .beatLaunchStart .. => [.out, .regs, .core, .log, .host]
  | .reclaimWortDeadline _ => [.regs, .mem, .upd, .host, .wort]
  | .tagQuarantineEnd _ => [.out, .regs, .eng, .log, .fab, .host]
  | .tjThrottle .. | .throttleStep .. => [.free, .out, .regs, .log, .host, .saf]
  | .alignmentLost => [.free, .out, .regs, .log, .host, .tim]
  | .addCell .. => [.out, .regs, .core, .log, .fab, .host]
  | .wireLoad .. => [.out, .regs, .log, .fab, .host, .boot]
  | .controlWordReceive .. | .portDown .. | .portDisWrite .. | .wakeTimeout _
    => [.free, .out, .regs, .swm, .log, .fab, .host]
  | .openFibreShutoff .. => [.free, .out, .regs, .swm, .log, .fab, .opt, .host]
  | .reclaimRelease _ => [.out, .regs, .mem, .eng, .upd, .swm, .cap, .lp, .log, .host, .wort]
  | .arrCommandComplete .. | .mveCommandComplete _ | .copyComplete .. | .updGateStart _ | .updCommandComplete _
  | .launch .. | .hdma .. | .setup .. | .teardown .. | .abort .. | .partitionCreate .. | .partitionDestroy ..
  | .reclaim .. | .descriptorComplete .. | .bmeSet _ | .dmaWindowWrite .. | .pcieCompletion ..
  | .pciCompletionTimeout _ | .hdmaProgressTimeout .. | .wortReady _ | .wortRelease .. | .wortReservationGrant _
  | .rtxSummary .. | .rtSwGo | .bankDrainEnd _ | .sopenCell .. | .sdataCell .. | .identityReceive ..
  | .trainStageDone _ | .portResume _ | .mveResidueFault .. | .prefetchRelease _ | .lpddrScrub .. | .wcbWrite ..
  | .wcbAgeEvict .. | .homeRead .. | .channelFail .. | .segmentOpen _ | .swmOpTimeout .. | .capvVote _
  | .capvVector _ | .capvWitnessAck _ | .capvAbortRequest _ | .rollbackDone _ | .voteToExpire _ | .capAskTimer _
  | .captoExpire _ | .coreReset .. | .clusterReset .. | .queenRestartDone | .hostCredits _
    => [.out, .regs, .mem, .core, .eng, .upd, .swm, .cap, .lp, .log, .fab, .host, .wort, .boot]
  | .smpOpenResume | .smpPartArrive _ | .smpBroadcast .. | .smpContextTimeout .. | .flrVf _ | .flrPf0
  | .partitionReset ..
    => [.out, .regs, .mem, .core, .eng, .smp, .upd, .swm, .cap, .lp, .log, .fab, .host, .wort, .boot]
  | .laserTakeoverDone _ | .laserHandoverSwitch _
    => [.out, .regs, .mem, .core, .eng, .upd, .swm, .cap, .lp, .log, .fab, .opt, .host, .wort, .boot]
  | .nop _ | .endK _ | .chain _ | .wait _ | .sig _ | .cset _ | .bar _ | .arrWload _ | .arrPass _ | .arrLayout _
  | .arrDrain _ | .mveMv _ | .vec _ | .copy _ | .rngFill _ | .updRun _ | .updPend _ | .updNorm _ | .updSave _
  | .swmBcast _ | .swmReduce _ | .swmPermute _ | .swmOpComplete .. | .capOpen _ | .capVote _ | .capAbort _
  | .capSeal _ | .rdreqCell .. | .arrResidueFault .. | .updLaneFault .. | .coreStallResume _
  | .clusterTakeover .. | .bankTakeover .. | .memRetire .. | .swmCell _ | .swmReplan ..
    => [.free, .out, .regs, .mem, .core, .eng, .upd, .swm, .cap, .lp, .log, .fab, .host, .wort, .boot]
  | .smpOpen _ | .smpPart _ | .ackCell .. | .nackCell .. | .transferTimeout .. | .rngParityFault ..
    => [.free, .out, .regs, .mem, .core, .eng, .smp, .upd, .swm, .cap, .lp, .log, .fab, .host, .wort, .boot]
  | .linkCellReceive .. | .trainStageOverrun .. | .dlanePermFault .. | .laserFail .. | .laserTuneTimeout _
  | .rxpwrSample ..
    => [.free, .out, .regs, .mem, .core, .eng, .upd, .swm, .cap, .lp, .log, .fab, .opt, .host, .wort, .boot]
  | .bringupPhaseEnd _
    => [.free, .out, .regs, .mem, .core, .eng, .upd, .swm, .cap, .lp, .log, .fab, .opt, .host, .wort, .boot, .saf]
  | .instrumentRunDone
    => [.free, .out, .regs, .mem, .core, .eng, .smp, .upd, .swm, .cap, .lp, .log, .fab, .host, .wort, .boot, .saf,
     .tap]
  | .apertureAccess .. | .dieWindowAccess .. | .wrCell .. | .fenceList .. | .fenceNoticeReceive _
  | .moduleReset _ | .safetyThresholdWrite .. | .imaskWrite _ | .registerWrite .. | .brownOut
  | .inputOvervoltage | .aonPowerLoss | .ilockRemoval | .tjShutdown .. | .railOvercurrent ..
  | .inputOvercurrent _ | .coolantLoss .. | .watchdogExpire | .resetReq .. => Comp.all

/-- Core `core` takes its next command word, `w`, whose OPC is `opc`: it runs, or waits for a word that arrives. The
fetch is `s1`, and no word that it adds to the core's buffer is uncorrectable (R115, R117, R118, R120). -/
def State.Fetches (s : State) (core opc : Nat) (s1 : State) (w : CmdWord) : Prop :=
  s.issuing core = true ∧ (s.coreRec core).ending = none ∧ (s.arrived core).nextCmd core = (s1, some w) ∧
    fld w 0 8 = opc ∧ ((s1.coreRec core).buf.drop (s.coreRec core).buf.length).all Option.isSome = true

/-- Core `core` has gone past its command and still runs; the command has been issued and has completed (R119). -/
def State.WentOn (s t : State) (core : Nat) : Prop :=
  (t.coreRec core).pc = (s.coreRec core).pc + 64 ∧ (t.coreRec core).seq = (s.coreRec core).seq + 1 ∧
    (t.coreRec core).outst = (s.coreRec core).outst.filter (fun o => o.1 != (s.coreRec core).seq) ∧
    t.coreState core = csRUN

/-- Core `core` has gone past its command, which has been issued and has not completed yet (R119). -/
def State.Issued (s t : State) (core opc : Nat) : Prop :=
  (t.coreRec core).pc = (s.coreRec core).pc + 64 ∧ (t.coreRec core).seq = (s.coreRec core).seq + 1 ∧
    (t.coreRec core).outst = (s.coreRec core).outst ++ [((s.coreRec core).seq, opc)]

/-- No byte of the module's memories holds an error that a read finds uncorrectable: no LPDDR5X line has a stored
error, no SRAM word more than a one-bit error, and no channel has failed (R137, R329, R344). -/
def State.Sound (s : State) : Prop :=
  s.lp.lineErr = [] ∧ (∀ e ∈ s.eng.sramErr, e.2 ≠ 2) ∧ ∀ die < 8, ∀ ch < 16, s.chFailed die ch = false

/-- As `Fetches`, for a command of an engine whose queue has room (R117). -/
def State.Enters (s : State) (core opc : Nat) (s1 : State) (w : CmdWord) : Prop :=
  s.Fetches core opc s1 w ∧ s1.targetFull (dieOf core) w = false

/-- The byte that a list of writes leaves at an address, if one of them covers it: the last of them. -/
def wroteAt : List (Nat × Bytes) → Nat → Option Byte
  | [], _ => none
  | (a, bs) :: t, k => match wroteAt t k with
    | some b => some b
    | none => if a ≤ k ∧ k < a + bs.length then some (bs.getD (k - a) 0) else none

/-- Memory after writes at memory addresses: the written bytes, and every other byte as before. -/
def State.Wrote (s t : State) (ws : List (Nat × Bytes)) : Prop :=
  ∀ k, t.byte k = (wroteAt ws k).getD (s.byte k)

/-- Writes of a die's SRAM offsets, and of its die-local addresses, at memory addresses. -/
def atSram (die : Nat) (ws : List (Nat × Bytes)) : List (Nat × Bytes) :=
  ws.map fun p => (die * 2 ^ 40 + sramBase + p.1, p.2)
def atDie (die : Nat) (ws : List (Nat × Bytes)) : List (Nat × Bytes) := ws.map fun p => (die * 2 ^ 40 + p.1, p.2)

/-- Counters of every die: those of `l`, as (die, counter), have gone up by one for each time they stand there. -/
def State.Counted (s t : State) (l : List (Nat × Nat)) : Prop :=
  ∀ d < 8, ∀ n < 1024, t.cnt d n = (s.cnt d n + l.count (d, n)) % 2 ^ 32

/-- A queue that holds one command of a core, started, with the status it will complete with. -/
def OneRuns (q : List Job) (core seq : Nat) (w : CmdWord) (st : Nat) (p : Job → Prop) : Prop :=
  ∃ j, q = [j] ∧ j.core = core ∧ j.seq = seq ∧ j.word = w ∧ j.started = true ∧ j.status = st ∧ p j

/-- The command is not bound to its die's cap (R274). -/
def State.Unbound (s : State) (core seq : Nat) : Prop := (core, seq) ∉ (s.dieCap (dieOf core)).bound

/-- Command `seq` of a core is no longer among the issued ones without completion (R119). -/
def State.Closed (t : State) (core seq : Nat) : Prop := ∀ o ∈ (t.coreRec core).outst, o.1 ≠ seq

/-- A record with this event waits in the die's record queue, or is held in its detecting unit (R430). -/
def State.Queued (t : State) (die : Nat) (ev : LogEvent) : Prop :=
  ∃ r, (r ∈ t.log.recq.get [] die ∨ r ∈ t.log.held.get [] die) ∧ r.ev = ev

/-- Die `die` has no cap open and no cap waits for a vote on this module: what its units report fails no vote. -/
def State.NoCap (s : State) (die : Nat) : Prop := s.capState die = 0 ∧ s.cap.hives = []

/-- Every command in a queue was issued by a core of the die. -/
def JobsOf (q : List Job) (die : Nat) : Prop := ∀ j ∈ q, j.core / 256 = die

/-- The defect journal has grown, by an entry for a unit among others (R407). -/
def State.Journaled (s t : State) (die kind unit st : Nat) : Prop :=
  ∃ q l m, t.boot.journal = s.boot.journal ++ l ++ (q, die, kind, unit, st) :: m

/-- Words of an SRAM line after a scrub finds `flips` new errors in it, before correction: 1 one bit, 2 more. -/
def scrubbed (old : Nat) (fs : List Bool) : Nat :=
  if fs = [] then old else if old ≠ 0 ∨ true ∈ fs ∨ 1 < fs.length then 2 else 1

/-- A CAPV cell of kind `ck` that reaches this hive intact, from a module not fenced, for a loaded group (R275). -/
def State.CapvIn (s : State) (x : CellW) (ck : Nat) (g : Group) : Prop :=
  Cell.good x = true ∧ s.modFenced (Cell.srcMod x) = false ∧ Cell.pay x 5 1 = ck ∧
    s.group (capvKey x).job (capvKey x).gid = some g

/-- No die of this module has a cap open. -/
def State.NoDieCap (s : State) : Prop := ∀ d < 8, s.capState d = 0

/-- Something sent in `t` and not in `s` is a cell of a type to a module. -/
def State.SentTo (s t : State) (type md : Nat) : Prop :=
  ∃ l x, t.out = s.out ++ l ∧ Out.cell x ∈ l ∧ Cell.type x = type ∧ Cell.dstMod x = md % 4096

/-- The state right after a ring's fetch of the descriptor at SQHEAD: its oldest doorbell has had its fetch, and SQHEAD
has moved past it (R34, R362). -/
def State.pastHead (s : State) (ring : Nat) : State :=
  (s.setRing ring { s.ringRec ring with bells := (s.ringRec ring).bells.tail }).fset
    (RF.RING_STAT_SQHEAD ring)
    ((s.fget (RF.RING_STAT_SQHEAD ring) + 1) % qEntries (s.fget (RF.RING_SQ_LOG2 ring)))

/-- An ACTIVE ring that holds no uncompleted descriptor fetches one of type `opc`, which passes its checks:
`d` is it, `s1` the state right after the fetch (R360, R362). -/
def State.Fetched (s : State) (ring opc : Nat) (w : CmdWord) (blk : Bytes) (d : Desc) (s1 : State) : Prop :=
  s.canFetch ring = true ∧ fld w 0 8 = opc ∧ (∀ x ∈ s.host.descs, x.ring ≠ ring) ∧
    s.inWindows (s.ringFn ring) (4096 * s.fget (RF.RING_SQ_ADDR ring) + 64 * s.fget (RF.RING_STAT_SQHEAD ring)) 64
      false = true ∧
    (queenOpc opc = true → s.fget RF.LOG_STAT_QRST = 0) ∧
    d = { ring := ring, tag := fld w 16 16, word := w
          blk := if opc = 3 then toLen (fld w 128 17) blk else []
          bell := (s.ringRec ring).bells.headD 0 } ∧
    s1 = { s.pastHead ring with host :=
      { (s.pastHead ring).host with descs := (s.pastHead ring).host.descs ++ [d] } } ∧
    pick (s1.descConds d) = none

/-- The cores of a launch run their contexts, every other core is as before (R116, R364). -/
def State.Launched (s t : State) (d : Desc) : Prop :=
  (∀ c k, (c, k) ∈ (laCores d.word).zipIdx → t.coreState c = csRUN ∧
    t.coreRec c =
      { ctx := { kbase := (fld d.word 64 40 + 64 * k * fld d.word 112 16) % 2 ^ 40, jseed := fld d.word 128 64
                 step := fld d.word 192 32, pgen := fld d.word 224 8, job := s.jobOf (s.ringFn d.ring)
                 ltag := fld d.word 240 16 }
        pc := (fld d.word 64 40 + 64 * k * fld d.word 112 16) % 2 ^ 40, launch := some (d.ring, d.tag) }) ∧
    (∀ c, c ∉ laCores d.word → t.coreRec c = s.coreRec c) ∧
    ∀ c < 2048, c ∉ laCores d.word → t.coreState c = s.coreState c

/-- A core of a stopped kernel issues nothing more (R369, R410). -/
def State.Stopped (s t : State) (core : Nat) : Prop :=
  s.coreState core ≠ csIDLE → (t.coreRec core).ending ≠ none ∨ t.coreRec core = {}

/-- A completion written at the tail of a ring's queue: address, bytes with their PHASE (R365). -/
def State.cqOut (s : State) (ring : Nat) (c : Bytes) : Out :=
  .hostWrite (s.ringFn ring) (4096 * s.fget (RF.RING_CQ_ADDR ring) + 16 * s.fget (RF.RING_STAT_CQTAIL ring)) false
    (c.take 15 ++ [BitVec.ofNat 8 (if (s.ringRec ring).wrap then 0 else 1)])

/-- A ring's completion queue has room for one more, and its function may write there (R366, R371). -/
def State.cqRoom (s : State) (ring : Nat) : Prop :=
  s.cqUsed ring + 1 < qEntries (s.fget (RF.RING_CQ_LOG2 ring)) ∧ s.bmeOn (s.ringFn ring) = true ∧
    s.inWindows (s.ringFn ring) (4096 * s.fget (RF.RING_CQ_ADDR ring) + 16 * s.fget (RF.RING_STAT_CQTAIL ring)) 16
      true = true

/-- No request and no write waits for the host, and no descriptor is uncompleted. -/
def State.HostIdle (s : State) : Prop := s.host.rq = [] ∧ s.host.wq = [] ∧ s.host.descs = []

/-- A cell of a type that die `d`'s interface takes: intact, its port not absorbing, of the die's JOB or of JOB 0
(R212, R246, R248). -/
def State.CellIn (s : State) (d type : Nat) (x : CellW) : Prop :=
  Cell.good x = true ∧ Cell.type x = type ∧ s.dieAbsorbs d = false ∧ (Cell.job x = s.dieJob d ∨ Cell.job x = 0)

/-- An answer cell that names transfer `id` of a target, which has one there and takes the cell (R218, R246). -/
def State.Answers (s : State) (tgt type : Nat) (x : CellW) (id : Nat) (f : Xfer) : Prop :=
  Cell.good x = true ∧ Cell.type x = type ∧ id = Cell.pay x 2 2 ∧ f = s.fab.xfers.get {} (xKey tgt id) ∧ f ≠ {} ∧
    (tgt < 8 → s.dieAbsorbs tgt = false ∧ (Cell.job x = s.dieJob tgt ∨ Cell.job x = 0)) ∧
    (¬ tgt < 8 → f.cells = [] ∨ Cell.job (f.cells.headD 0) = Cell.job x)

/-- A transfer's owner is a command that is neither a copy nor a sampler part. -/
def State.PlainOwner (s : State) (core seq : Nat) : Prop := s.copyJob core seq = none ∧ s.smp.parts = []

/-- A physical port and the logical port it acts as (R397). -/
def State.ActsAs (s : State) (p q : Nat) : Prop := if p < 32 then s.logi p = some q ∧ q < 32 else q = p

/-- A VC6 cell of port `q` has entered the management queue, or has been dropped and counted because that is full; its
credit is on its way back (R225, R247). -/
def State.Managed (s t : State) (q : Nat) (c : CellW) : Prop :=
  (s.fab.mgmtQ.length < Config.mgmtQueue →
    t.fab.mgmtQ = s.fab.mgmtQ ++ [(q, c)] ∧ t.fab.mgmtDrop = s.fab.mgmtDrop) ∧
  (Config.mgmtQueue ≤ s.fab.mgmtQ.length →
    t.fab.mgmtQ = s.fab.mgmtQ ∧ t.fab.mgmtDrop = s.fab.mgmtDrop + 1 ∧ t.swm = s.swm) ∧
  (q < 40 → t.out ≠ s.out) ∧ State.Only [.out, .swm, .fab] s t

/-- Number under which a logical port's transmitter is driven. -/
def State.txPort (s : State) (q : Nat) : Nat := if q < 32 then s.wirePort q else q

/-- Every link but `q`'s is as before. -/
def State.LinksBut (s t : State) (q : Nat) : Prop := ∀ z, z ≠ q → t.link z = s.link z

/-- What has been sent, the pieces that lanes carry left out (R293, R294). -/
def State.SentBut (s t : State) (l : List Out) : Prop :=
  ∃ m, t.out = s.out ++ m ∧ (m.filter fun x => match x with | .lane .. => false | _ => true) = l

/-- LSR_BANK of a bank shows its lasers: how many are spare, and which feed a slot (R322). -/
def State.BankShown (t : State) (b : Nat) : Prop :=
  t.fget (RF.LSR_BANK_SPARES b) = ((List.range 35).filter fun i => decide ((t.laser b i).st = 2)).length % 8 ∧
    ∀ i < 35, t.fbit (RF.LSR_BANK_ACTIVE b) i = decide ((t.laser b i).slot < 28)

/-- A laser out of service for good (R305). -/
def LaserRec.out (r : LaserRec) : LaserRec := { r with st := 6, slot := 0xFF }

/-- Entry `e` is a whole fence list whose checks pass, given to PF0's SAF_FENCE_CTL (R437). -/
def State.FenceOk (s : State) (list e : Bytes) : Prop :=
  s.fget RF.SAF_FENCE_CTL_RESULT ≠ 1 ∧ s.fget RF.SAF_FENCE_CTL_COUNT = 1 ∧
    s.readsOk 0 (s.reg Reg.SAF_FENCE_ADDR).toNat 16 = true ∧ e = toLen 16 (list.take 16) ∧
    pick (s.fenceCheck s.fenceView e).bad = none

/-- Die `d` of this module is fenced: held in reset, its uncommitted state lost (R438). -/
def State.DieHeld (t : State) (d : Nat) : Prop :=
  t.saf.dies.get 0 d = 1 ∧ t.dieState d = 3 ∧ t.fbit RF.QN_DIE_MAP_LOST d = true ∧
    t.fenceHas (t.module, some d) = true

/-- A reset of the module has cleared everything that R411 clears, at this moment (R411). -/
def State.Restarted (s t : State) : Prop :=
  t.core = {} ∧ t.smp = {} ∧ t.swm = {} ∧ t.cap = {} ∧ t.fab = {} ∧ t.wort = {} ∧ t.boot.t0 = s.clk ∧
    t.upd = { lost := s.upd.lost } ∧ t.host = { nextHandle := s.host.nextHandle }

/-- Registers that hold settings and nothing else: a write stores their fields and has no other effect. -/
def plainRegs (k : Nat) : List Nat :=
  [Reg.SMP_CFG, Reg.FAB_TIMERS, Reg.CAP_CFG, Reg.OPT_PORT_CFG k, Reg.OPT_THRESH, Reg.OPT_DPERM, Reg.LSR_AGE_CFG,
    Reg.MEM_CFG k, Reg.WCB_CFG k, Reg.PCI_APW k, Reg.RING_SQ k, Reg.RING_CQ k, Reg.ARR_FLT_CTRL k, Reg.WORT_CFG,
    Reg.QN_BOOT_CFG, Reg.LOG_MGMT_CFG, Reg.RT_LOAD_ADDR, Reg.QN_WIRE_ADDR, Reg.QN_FW_ADDR, Reg.SAF_FENCE_ADDR]

/-- Only these registers, and the registers that report a rejected write, can differ (R11, R474, R476). -/
def State.Wrote1 (s t : State) (l : List Nat) : Prop :=
  State.Only [.regs] s t ∧ State.RegsBut (l ++ [Reg.HIVE_WREJ, Reg.HIVE_WREJ2]) s t

/-- A write has been refused with a reason, and its offset is shown (R476). -/
def State.Refused (s t : State) (reason off : Nat) : Prop :=
  t.fget RF.HIVE_WREJ_REASON = reason ∧ t.fget RF.HIVE_WREJ2_OFFSET = off ∧
    t.fget RF.HIVE_WREJ_REF_CNT = satAdd RF.HIVE_WREJ_REF_CNT.w (s.fget RF.HIVE_WREJ_REF_CNT) 1

/-- The module is in SAFE_OFF for a cause: rails off, memory lost, the last gasp written (R424, R435). -/
def State.SafeOff (t : State) (cause : Nat) : Prop :=
  t.pwr.rails = false ∧ t.fget RF.LOG_STAT_SSTATE = 2 ∧ t.saf.cause = true ∧
    t.fget RF.LOG_LG_CAUSE_CAUSE = cause ∧ t.fget RF.LOG_LG_CAUSE_VALID = 1 ∧ ∀ k, t.byte k = 0

/-- The rails are off and what they fed is lost (R417, R449). -/
def State.RailsLost (s t : State) : Prop :=
  t.pwr.rails = false ∧ (∀ k, t.byte k = 0) ∧ t.saf.fence = [] ∧ (s.eng.clDrain = [] → s.Restarted t)

/-- `bits` have left through a TAP, unless TDO does not drive; nothing else has been sent (R454, R464). -/
def State.Tdo (s t : State) (tap bits : Nat) : Prop :=
  t.out = s.out ++ if s.drives 2 then [.tdo tap bits] else []

/-- An access of a TAP has been rejected and counted (R466). -/
def State.TapRejects (s t : State) (tap acc : Nat) : Prop :=
  s.Tdo t tap acc ∧ t.fget RF.TAP_STAT_REJECT = satAdd RF.TAP_STAT_REJECT.w (s.fget RF.TAP_STAT_REJECT) 1 ∧
    t.tap.run = s.tap.run

end Sys2Proof.Machine
end

