-- ==== Sys2Proof/WellFormed.lean ====
section
/-! DEFINITION. Well-formed commands: operands that fit together as the rows of the table mean them. The meanings
are total on every term; these checks say which terms a sender can produce. -/

namespace Sys2Proof

/-- TYPE of a cell's header (R211, R213). -/
def typeOf (c : CellW) : Nat := (c.toNat / 2 ^ 35) % 32

/-- OPC of a descriptor (R363, R364). -/
def opcOf (d : CmdWord) : Nat := d.toNat % 256

/-- A bus access of `n` bytes at an offset is aligned and of an allowed size (R354, R472). -/
def accessOk (sizes : List Nat) (off n : Nat) : Bool := sizes.contains n && decide (off % n = 0)

/-- Bytes that lie within one LPDDR5X line of 60 bytes (R332, R334). -/
def withinLine (off n : Nat) : Bool := decide (0 < n ∧ off % 60 + n ≤ 60)

/-- Positions named at most once each. -/
def once (l : List Nat) : Bool := decide l.Nodup

/-- A unit whose generators are tested exists: arrays 0 to 6, one matrix-vector engine, clusters 0 to 33. -/
def katOk (x : KatUnit) : Bool := decide (x.2.2.val < [7, 1, 34].getD x.2.1.val 0)

/-- A row that carries a cell carries one of the row's type; a descriptor has the row's OPC; data has the length
its row says; lists of positions repeat none. -/
def Instr.wf (i : Instr) : Bool :=
  match i with
  | .wrCell _ c => decide (typeOf c = 1)
  | .addCell _ c => decide (typeOf c = 2)
  | .rdreqCell _ c => decide (typeOf c = 3)
  | .sopenCell _ c => decide (typeOf c = 4)
  | .sdataCell _ c => decide (typeOf c = 5)
  | .ackCell _ c => decide (typeOf c = 6)
  | .nackCell _ c => decide (typeOf c = 7)
  | .segmentOpen c | .swmCell c => decide (typeOf c = 8)
  | .capvVote c | .capvVector c | .capvWitnessVector c | .capvWitnessAck c | .capvAsk c | .capvAbortRequest c =>
    decide (typeOf c = 9)
  | .wortReady c | .wortRelease _ c => decide (typeOf c = 11)
  | .mgmtCell _ c => decide (typeOf c = 12 ∨ typeOf c = 13)
  | .launch _ d => decide (opcOf d = 1)
  | .hdma _ d => decide (opcOf d = 2)
  | .setup _ d blk => decide (opcOf d = 3 ∧ blk.length = (d.toNat / 2 ^ 128) % 2 ^ 17)
  | .teardown _ d => decide (opcOf d = 4)
  | .abort _ d => decide (opcOf d = 5)
  | .partitionCreate _ d => decide (opcOf d = 6 ∧ (d.toNat / 2 ^ 32) % 2 = 0)
  | .partitionDestroy _ d => decide (opcOf d = 6 ∧ (d.toNat / 2 ^ 32) % 2 = 1)
  | .reclaim _ d => decide (opcOf d = 7)
  | .apertureAccess _ off size write data =>
    accessOk [8, 64] off.toNat size.toNat && (!write || decide (data.length = size.toNat))
  | .dieWindowAccess _ off size _ _ => accessOk [4, 8] off.toNat size.val
  | .registerWrite _ off size _ => accessOk [4, 8] off.toNat size.val
  | .safetyThresholdWrite off _ => [0x20000, 0x20008, 0x20010, 0x20018].contains off.toNat
  | .rtLoad _ _ image => decide (image.length = 16384)
  | .rtxSummary _ _ summary _ => decide (summary.length = 2048)
  | .wireLoad _ table => decide (table.length = 576)
  | .fenceList _ list => decide (list.length % 16 = 0)
  | .resetReq header _ tag => decide (header.length = 16 ∧ tag.length = 32)
  | .wcbWrite _ off data _ => withinLine off.toNat data.length
  | .homeRead _ off len err => withinLine off.toNat len.val && once (err.map fun e => e.1.val)
  | .lpddrScrub _ _ _ err => once (err.map fun e => e.1.val)
  | .sramScrub _ _ flips => once (flips.map fun f => f.1.val)
  | .partitionReset _ kat => kat.all katOk
  | .bringupPhaseEnd r => r.kat.all katOk
  | .logRecord e => decide (e.payload.length ≤ 12)
  | .nop _ | .endK _ | .chain _ | .wait _ | .sig _ | .cset _ | .bar _ | .arrWload _ | .arrPass _ | .arrLayout _
  | .arrDrain _ | .arrCommandComplete .. | .mveMv _ | .mveCommandComplete _ | .vec _ | .copy _ | .copyComplete ..
  | .rngFill _ | .smpOpen _ | .smpOpenResume | .smpPart _ | .smpPartArrive _ | .smpBroadcast ..
  | .smpContextTimeout .. | .smpOrphanTimeout .. | .updRun _ | .updPend _ | .updNorm _ | .updSave _
  | .updGateStart _ | .updCommandComplete _ | .swmBcast _ | .swmReduce _ | .swmPermute _ | .swmOpComplete ..
  | .capOpen _ | .capVote _ | .capAbort _ | .capSeal _ | .beatLaunchStart .. | .reclaimWortDeadline _
  | .reclaimRelease _ | .sqTail .. | .cqHead .. | .descriptorComplete .. | .irqHoldExpire _ | .ringEnable ..
  | .ringDisable .. | .bmeClear _ | .bmeSet _ | .flrVf _ | .flrPf0 | .dieWindowNoAnswer .. | .dmaWindowWrite ..
  | .pcieCompletion .. | .pciCompletionTimeout _ | .hdmaProgressTimeout .. | .wortAck .. | .helloAck ..
  | .wortRetransmit _ | .keepalive _ | .wortRateCheck .. | .wortReservationGrant _ | .ethLinkChange ..
  | .neighbourSolicitation .. | .echoRequest .. | .ethFrameDiscard _ | .rtxTimeout _ | .rtAct | .rtSwGo
  | .bankDrainEnd _ | .cellForward .. | .linkCellReceive .. | .controlWordReceive .. | .streamRestart ..
  | .orphanTimeout .. | .transferTimeout .. | .contextIdleFree .. | .streamIdAvailable .. | .cellTtlDrop _
  | .identitySend _ | .identityReceive .. | .portSignal _ | .trainStageDone _ | .trainStageOverrun ..
  | .trainRetry _ | .portStall .. | .portResume _ | .portDown .. | .routeRevert _ | .portDisWrite ..
  | .dlanePermFault .. | .laserFail .. | .laserTuneTimeout _ | .laserTakeoverDone _ | .laserAgeCheck ..
  | .laserHandoverSwitch _ | .spareDailyCheck .. | .rxpwrSample .. | .openFibreShutoff .. | .shutProbe _
  | .shutRestore _ | .lullRequest _ | .lullAnswerTimeout _ | .lullWake _ | .wakeTone _ | .wakeTimeout _
  | .arrResidueFault .. | .arrSelftestDone .. | .spareArraySelftest .. | .mveResidueFault .. | .mveSelftestDone ..
  | .rngParityFault .. | .updLaneFault .. | .waitTimeout _ | .coreStallResume _ | .prefetchRelease _
  | .clusterTakeover .. | .bankTakeover .. | .wcbAgeEvict .. | .mr4Poll .. | .channelFail .. | .memRetire ..
  | .swmReplan .. | .swmOpTimeout .. | .rollbackDone _ | .voteToExpire _ | .capAskTimer _ | .captoExpire _
  | .capRecordFree _ | .fenceNoticeSend _ | .fenceNoticeReceive _ | .coreReset .. | .clusterReset ..
  | .moduleReset _ | .powerOn | .fwBootFallback | .peerWaitExpire
  | .retainStore _ | .fwWrite .. | .rngTestGo _ | .mgkeyCommit | .configLock | .counterWrite .. | .imaskWrite _
  | .timArm | .beatEdge _ | .beatLoss | .beatReturn | .refclkLoss | .refclkReturn | .brownOut | .inputOvervoltage
  | .aonPowerLoss | .ilockRemoval | .ilockRestart | .sidebandContention _ | .sidebandRetry _ | .tjThrottle ..
  | .throttleStep .. | .tjShutdown .. | .sensorDisagreement .. | .railOvercurrent .. | .inputOvercurrent _
  | .coolantLoss .. | .powerLimitExceeded _ | .watchdogExpire | .logQueueRelease _ | .logFailure .. | .lastgaspRepeat
  | .heartbeat | .tapReset | .bypass .. | .idcode _ | .samplePreload .. | .extest .. | .diesel _ | .ijtag ..
  | .queenRestartDone | .causeCleared | .probeSeen _ | .lossOfSymbols _ | .slewingDone | .alignmentLost
  | .tagQuarantineEnd _ | .hostCredits _ | .mgmtLinkChange .. | .instrumentRunDone => true

end Sys2Proof
end

