-- ==== Sys2Proof/Certificates/Slice0/Obligations.lean ====
section
/-! DEFINITION. The statements about the model that the provers prove. -/

open Sys2Proof Sys2Proof.Machine

/-! The block as a whole. -/

/-- A step with a command at the front of the queue is that command's effect on the state whose queue is the
rest; the queue is the model's own. A step on an empty queue settles what is already due and lets one nanosecond of
the TIME domain pass: the model's clock advances by one and the queue stays empty (log entry 4, the model's choice). -/
def Obligations.StepRunsFrontCommand : Prop :=
  (∀ (c : Instr) (q : List Instr) (s : State), step { s with pending := c :: q } = exec c { s with pending := q }) ∧
  ∀ s : State, s.pending = [] → ∃ t, step s = .next t ∧ t.pending = [] ∧ t.tim.mono = s.tim.mono + 1

/-- Both tables of the reset state are canonical; before any command the whole module is at its reset values:
every register holds its cold-reset value and every byte of the dies' memory reads 0. -/
def Obligations.ResetStateIsCanonical : Prop :=
  State.reset.Inv ∧ State.reset.pending = [] ∧ (∀ o, State.reset.reg o = coldOf o) ∧
    (∀ k, State.reset.byte k = 0)

/-- Every step keeps the canonical form of memory and of the register table. -/
def Obligations.StepKeepsCanonicalForm : Prop := ∀ (s t : State), s.Inv → step s = .next t → t.Inv

/-- The frame of every command: it answers a next state, and in it only the groups listed for the command can
differ; the queue of waiting commands and the model's clock are the same. What the module has sent stays sent, and no
free value is drawn twice. -/
def Obligations.CommandFrame : Prop := ∀ (i : Instr) (s : State),
  ∃ t, exec i s = .next t ∧ State.Only (groupsOf i) s t ∧ s.out <+: t.out ∧ s.free ≤ t.free

/-! Worker cores (R113 to R134). -/

/-- NOP and a satisfied WAIT complete and the core goes on. CHAIN completes, gives up the words fetched ahead and
stalls the core until the first word at its target arrives. An unsatisfied WAIT holds the core. Nothing but the core's
own record, and for CHAIN and a held WAIT its state, differs from the state right after the fetch `s1`. -/
def Obligations.NopChainAndWaitMoveTheCore : Prop := ∀ (c : CoreId) (s s1 : State) (w : CmdWord),
  (s.Fetches c 0x00 s1 w → reservedZero w [(0, 8)] = true →
    ∃ t, exec (.nop c) s = .next t ∧ s.WentOn t c ∧ State.Only [.core] s1 t) ∧
  (s.Fetches c 0x02 s1 w → reservedZero w [(0, 8), (64, 40)] = true → fld w 64 40 % 64 = 0 →
    pick (s1.rangeConds (dieOf c) (fld w 64 40) 64) = none →
    ∃ t, exec (.chain c) s = .next t ∧ (t.coreRec c).pc = fld w 64 40 ∧
      (t.coreRec c).seq = (s.coreRec c).seq + 1 ∧ (t.coreRec c).buf = [] ∧
      (t.coreRec c).outst = (s.coreRec c).outst.filter (fun o => o.1 != (s.coreRec c).seq) ∧
      t.coreState c = csSTALL ∧ (t.coreRec c).block = .fetch ∧ State.Only [.regs, .core] s1 t ∧
      State.RegsBut [Reg.WRK_CORE_STATE (dieOf c) (c.val % 256 / 8)] s1 t) ∧
  (s.Fetches c 0x03 s1 w → reservedZero w [(0, 10), (16, 16), (64, 10), (96, 32), (128, 10), (160, 32), (192, 10),
      (224, 32), (256, 10), (288, 32)] = true →
    ((∀ p ∈ waitConds w, satisfied (s.cnt (dieOf c) p.1) p.2 = true) →
      ∃ t, exec (.wait c) s = .next t ∧ s.WentOn t c ∧ State.Only [.core] s1 t) ∧
    ((∃ p ∈ waitConds w, satisfied (s.cnt (dieOf c) p.1) p.2 = false) →
      ∃ t, exec (.wait c) s = .next t ∧ s.Issued t c 0x03 ∧ t.coreState c = csWAIT ∧
        (t.coreRec c).block = .wait (waitConds w)
          (if fld w 16 16 = 0 then none else some (s.clk + 1000 * fld w 16 16)) ∧
        State.Only [.regs, .core] s1 t ∧ State.RegsBut [Reg.WRK_CORE_STATE (dieOf c) (c.val % 256 / 8)] s1 t))

/-- CSET sets its counter and a local SIG adds to it, modulo 2³²; no other counter changes, and of the registers
only that counter and the core states of the die can change.
A remote SIG of a current placement leaves in one ADD cell with the core's PGEN and JOB; of a placement that is
not current it completes STALE, is counted and sends nothing. A fenced SIG waits behind the core's earlier copies. -/
def Obligations.CsetAndSigMoveOneCounter : Prop := ∀ (c : CoreId) (s s1 : State) (w : CmdWord),
  (s.Fetches c 0x05 s1 w → reservedZero w [(0, 8), (16, 10), (32, 32)] = true →
    ∃ t, exec (.cset c) s = .next t ∧ s.WentOn t c ∧
      (∀ d < 8, ∀ n < 1024, t.cnt d n = if d = dieOf c ∧ n = fld w 16 10 then fld w 32 32 else s.cnt d n) ∧
      State.Only [.regs, .core, .host] s1 t ∧ State.RegsBut (Reg.WRK_CNT (dieOf c) (fld w 16 10) ::
        (List.range 32).map (Reg.WRK_CORE_STATE (dieOf c))) s1 t) ∧
  (s.Fetches c 0x04 s1 w → reservedZero w [(0, 10), (16, 10), (32, 32), (64, 16)] = true → bit w 9 = false →
    (bit w 8 = false ∨ (s.coreRec c).copyBefore (s.coreRec c).seq = false) →
    ∃ t, exec (.sig c) s = .next t ∧ s.WentOn t c ∧
      (∀ d < 8, ∀ n < 1024, t.cnt d n =
        if d = dieOf c ∧ n = fld w 16 10 then (s.cnt d n + fld w 32 32) % 2 ^ 32 else s.cnt d n) ∧
      State.Only [.regs, .core, .host] s1 t ∧ State.RegsBut (Reg.WRK_CNT (dieOf c) (fld w 16 10) ::
        (List.range 32).map (Reg.WRK_CORE_STATE (dieOf c))) s1 t) ∧
  (s.Fetches c 0x04 s1 w → reservedZero w [(0, 10), (16, 10), (32, 32), (64, 16)] = true →
    (bit w 9 = true → fld w 76 4 < 8) →
    ((bit w 8 = true ∧ (s.coreRec c).copyBefore (s.coreRec c).seq = true) →
      ∃ t, exec (.sig c) s = .next t ∧ s.Issued t c 0x04 ∧
        (t.coreRec c).sigs = (s.coreRec c).sigs ++ [((s.coreRec c).seq, w)] ∧ State.Only [.core] s1 t) ∧
    ((bit w 8 = false ∨ (s.coreRec c).copyBefore (s.coreRec c).seq = false) → bit w 9 = true →
      (s.staleCore c (s.coreRec c).ctx = false → ∀ id, s1.freeId (dieOf c) = some id →
        ∃ t, exec (.sig c) s = .next t ∧ s.Issued t c 0x04 ∧
          t.out = s1.out ++ [.cell (withId false id (mkCell (fld w 64 12) (fld w 76 4) s.module (dieOf c) 2 s.gen
            (s.coreRec c).ctx.job false true 12 0 0 (addrPay (cntOff (fld w 16 10)) (s.coreRec c).ctx.pgen
              (leBytes 4 (fld w 32 32)))))] ∧
          State.Only [.out, .core, .fab] s1 t) ∧
      (s.staleCore c (s.coreRec c).ctx = true → (s.coreRec c).resetting = false →
        ∃ t, exec (.sig c) s = .next t ∧ s.WentOn t c ∧
          (∃ q, (t.coreRec c).bad = some q ∧ ((s.coreRec c).bad = none → q = ((s.coreRec c).seq, stSTALE, 0))) ∧
          t.fget (RF.WRK_CE_STAT_STALE_CNT (dieOf c)) =
            satAdd 32 (s.fget (RF.WRK_CE_STAT_STALE_CNT (dieOf c))) 1 ∧
          State.Only [.regs, .core] s1 t ∧ State.RegsBut [Reg.WRK_CE_STAT (dieOf c)] s1 t)))

/-- END of a core with nothing outstanding completes the kernel: the core is IDLE with an empty record, and the
launch that started it hears the status of the earliest command that did not complete OK, its reason, and NFLAGS. -/
def Obligations.EndCompletesTheKernel : Prop := ∀ (c : CoreId) (s s1 : State) (w : CmdWord),
  s.Fetches c 0x01 s1 w → reservedZero w [(0, 8)] = true → (s.coreRec c).outst = [] →
  (s.coreRec c).resetting = false → s.clFolded c = false →
  ∃ t, exec (.endK c) s = .next t ∧ t.coreState c = csIDLE ∧ t.coreRec c = {} ∧
    t.host.descs = (match (s.coreRec c).launch with
      | none => s.host.descs
      | some (ring, tag) => s.host.descs.map fun d =>
          if d.ring = ring ∧ d.tag = tag ∧ c.val ∈ d.cores then
            (match (s.coreRec c).bad with
            | none => d.kernelDone c stOK 0 (s.coreRec c).nflags
            | some (_, st, rs) => d.kernelDone c st rs (s.coreRec c).nflags)
          else d) ∧
    State.Only [.regs, .core, .host] s1 t ∧ State.RegsBut [Reg.WRK_CORE_STATE (dieOf c) (c.val % 256 / 8)] s1 t

/-- BAR: an arrival that is not the round's last waits and is counted; the last one frees the unit, its own core
goes on, and every core that waited at the unit runs again. -/
def Obligations.BarrierCountsAndReleases : Prop := ∀ (c : CoreId) (s s1 : State) (w : CmdWord),
  s.Fetches c 0x06 s1 w → reservedZero w [(0, 13), (16, 9)] = true → 1 ≤ fld w 16 9 → fld w 16 9 ≤ 256 →
  ((s.barRec (dieOf c) (fld w 8 5)).cores = [] ∨ (s.barRec (dieOf c) (fld w 8 5)).npart = fld w 16 9) →
  ((s.barRec (dieOf c) (fld w 8 5)).cores.length + 1 < fld w 16 9 →
    ∃ t, exec (.bar c) s = .next t ∧ s.Issued t c 0x06 ∧ t.coreState c = csBAR ∧
      (t.coreRec c).block = .bar (fld w 8 5) ∧
      t.barRec (dieOf c) (fld w 8 5) = ⟨fld w 16 9,
        (s.barRec (dieOf c) (fld w 8 5)).cores ++ [c.val]⟩ ∧
      State.Only [.regs, .core] s1 t ∧ State.RegsBut [Reg.WRK_CORE_STATE (dieOf c) (c.val % 256 / 8)] s1 t) ∧
  (fld w 16 9 ≤ (s.barRec (dieOf c) (fld w 8 5)).cores.length + 1 →
    ∃ t, exec (.bar c) s = .next t ∧ s.WentOn t c ∧ t.barRec (dieOf c) (fld w 8 5) = {} ∧
      (∀ k ∈ (s.barRec (dieOf c) (fld w 8 5)).cores, s.coreState k = csBAR →
        (s.coreRec k).block = .bar (fld w 8 5) → (s.coreRec k).ending = none → (s.coreRec k).resetting = false →
          t.coreState k = csRUN ∧ (t.coreRec k).block = .none) ∧
      State.Only [.regs, .core, .host] s1 t)

/-- WAIT_TIMEOUT completes in every state: it halts a core that waits in a WAIT with a timeout, whose record of the
first unsatisfied counter joins the die's record queue or is held in its unit, and with nothing else outstanding
the core's kernel completes TIMEOUT; at any other core it changes nothing. CORE_STALL_RESUME completes in every
state: a core stalled for a full queue runs when there is room, a core stalled for a word runs with that word and
those behind it in its buffer, and any other core is as before. -/
def Obligations.WaitTimeoutAndStallResume : Prop := ∀ (c : CoreId) (s : State),
  (∀ conds x, (s.coreRec c).block = .wait conds (some x) → s.coreState c = csWAIT →
    ∃ t, exec (.waitTimeout c) s = .next t ∧ t.coreState c = csHALT ∧
      (∀ q, (conds.find? fun q => !satisfied (s.cnt (dieOf c) q.1) q.2) = some q →
        (t.log.recq.get [] (dieOf c) ++ t.log.held.get [] (dieOf c)).any (fun r =>
          r.ev == mkEvent 0x8201 (dieOf c) c.val 2 (pay [(2, c.val), (2, q.1), (4, s.cnt (dieOf c) q.1), (4, q.2)]))
            = true) ∧
      ((s.coreRec c).resetting = false → (s.coreRec c).outst = [((s.coreRec c).seq - 1, 0x03)] →
        t.coreRec c = {} ∧ t.host.descs = (match (s.coreRec c).launch with
          | none => s.host.descs
          | some (ring, tag) => s.host.descs.map fun d =>
              if d.ring = ring ∧ d.tag = tag ∧ c.val ∈ d.cores then
                d.kernelDone c stTIMEOUT 0 (s.coreRec c).nflags else d)) ∧
      State.Only [.regs, .core, .log, .host] s t ∧
      State.RegsBut [Reg.WRK_CORE_STATE (dieOf c) (c.val % 256 / 8)] s t) ∧
  ((s.coreState c ≠ csWAIT ∨ ∀ conds x, (s.coreRec c).block ≠ .wait conds (some x)) →
    exec (.waitTimeout c) s = .next s) ∧
  (s.coreState c ≠ csSTALL → exec (.coreStallResume c) s = .next s) ∧
  (s.coreState c = csSTALL → (s.coreRec c).block ≠ .fetch →
    (s.targetFull (dieOf c) (s.peekWord c) = true → exec (.coreStallResume c) s = .next s) ∧
    (s.targetFull (dieOf c) (s.peekWord c) = false →
      ∃ t, exec (.coreStallResume c) s = .next t ∧ t.coreState c = csRUN ∧
        t.coreRec c = { s.coreRec c with block := .none } ∧
        State.Only [.regs, .core] s t ∧ State.RegsBut [Reg.WRK_CORE_STATE (dieOf c) (c.val % 256 / 8)] s t)) ∧
  (s.coreState c = csSTALL → (s.coreRec c).block = .fetch → ∀ l : List (Option CmdWord),
    l = ((s.fillBuf c 1).coreRec c).buf.drop (s.coreRec c).buf.length → l.all Option.isSome = true →
    ∃ t, exec (.coreStallResume c) s = .next t ∧ t.coreState c = csRUN ∧ (s.coreRec c).buf ++ l ≠ [] ∧
      t.coreRec c = { s.coreRec c with block := .none, buf := (s.coreRec c).buf ++ l } ∧
      State.Only [.free, .regs, .mem, .core, .lp] s t)

/-! Matrix arrays, matrix-vector engine, lanes and copies (R50 to R57, R75 to R93, R103 to R108, R121 to R127, R139
to R148). -/

/-- R51: a product of two finite operands, here `x` in units of 2^WB, enters the sum as the nearest integer `r`, a
tie as the even one, and PUF says that they differ; from 2^36 units on it is replaced by the end of the window, and
PSAT says so. An exact sum does not depend on the order of its products: neither the sum, nor NF, nor the flags. -/
def Obligations.ExactSumAddsWindowedProducts : Prop :=
  (∀ (wb : Int) (acc : Int × Bool × Nat) (na nb : Bool) (ma mb : Nat) (ea eb r : Int) (x : ℚ),
    x = (if na = nb then 1 else -1) * ((ma * mb : Nat) : ℚ) * (2 : ℚ) ^ (ea + eb - wb) →
    |x - r| ≤ 1 / 2 → (|x - r| = 1 / 2 → 2 ∣ r) →
    macExact wb acc (.fin na ma ea) (.fin nb mb eb) =
      (acc.1 + (if 2 ^ 36 ≤ |r| then r.sign * (2 ^ 36 - 1) else r), acc.2.1,
        orF acc.2.2 (orF (if x = r then 0 else nfPUF) (if 2 ^ 36 ≤ |r| then nfPSAT else 0)))) ∧
  ∀ (wb : Int) (ps qs : List (Machine.Num × Machine.Num)), ps.Perm qs → ∀ (z : Int × Bool × Nat),
    ps.foldl (fun st p => macExact wb st p.1 p.2) z = qs.foldl (fun st p => macExact wb st p.1 p.2) z

/-- A drained exact sum outside [-2^55, 2^55 - 1] becomes the nearest end of that range and sets ASAT; inside it is
kept and sets nothing, an exact zero as +0. With NF set it is a NaN whatever the sum. -/
def Obligations.DrainSaturatesAndMarks : Prop := ∀ (wb sum : Int),
  (drainNum wb sum true).1 = .nan ∧
  (-(2 ^ 55) ≤ sum → sum ≤ 2 ^ 55 - 1 → drainNum wb sum false = (.fin (decide (sum < 0)) sum.natAbs wb, 0)) ∧
  (sum < -(2 ^ 55) → drainNum wb sum false = (.fin true (2 ^ 55) wb, nfASAT)) ∧
  (2 ^ 55 - 1 < sum → drainNum wb sum false = (.fin false (2 ^ 55 - 1) wb, nfASAT))

/-- ARR_LAYOUT at an idle array gives it the new division and clears it; ARR_WLOAD puts the tile into the inactive
weight register of its region and leaves the active one, every other region and every accumulator. Both run at
once on an empty queue; no byte of memory changes. -/
def Obligations.LayoutAndWeightLoad : Prop := ∀ (c : CoreId) (s s1 : State) (w : CmdWord),
  s1.Sound → jARRAY w < 6 → (s1.arr (dieOf c) (jARRAY w)).queue = [] →
  (s.Enters c 0x22 s1 w → reservedZero w [(0, 11), (64, 64), (128, 26)] = true →
    layoutOk (fld w 64 64) (fld w 128 16) = true →
    ∃ t, exec (.arrLayout c) s = .next t ∧ s.Issued t c 0x22 ∧
      (t.arr (dieOf c) (jARRAY w)).tmap = fld w 64 64 ∧ (t.arr (dieOf c) (jARRAY w)).tuse = fld w 128 16 ∧
      (t.arr (dieOf c) (jARRAY w)).regions = [] ∧ (t.arr (dieOf c) (jARRAY w)).acc = [] ∧
      (t.arr (dieOf c) (jARRAY w)).order = [] ∧
      OneRuns (t.arr (dieOf c) (jARRAY w)).queue c (s.coreRec c).seq w
        (okOr (s1.arrFolded (dieOf c) (jARRAY w))) (fun j => j.writes = [] ∧ j.bitw = []) ∧
      (∀ k, k ≠ dieOf c * 6 + jARRAY w → t.eng.arrs.get {} k = s1.eng.arrs.get {} k) ∧
      t.fbit (RF.ARR_STAT_BUSY (dieOf c)) (jARRAY w) = true ∧
      State.Only [.regs, .core, .eng] s1 t ∧ State.RegsBut [Reg.ARR_STAT (dieOf c)] s1 t) ∧
  (s.Enters c 0x20 s1 w → pick (wloadConds (s1.arr (dieOf c) (jARRAY w)) w) = none →
    ∃ t, exec (.arrWload c) s = .next t ∧ s.Issued t c 0x20 ∧
      ((t.arr (dieOf c) (jARRAY w)).reg (jREGION w)).inactive =
        { fmt := jWFMT w, k := fld w 24 10, n := fld w 34 9
          elems := (List.range (fld w 34 9)).flatMap fun i => (List.range (fld w 24 10)).map fun e =>
            elemCode (jWFMT w) (s1.sram (dieOf c) (fld w 64 32 + i * (32 * fld w 128 16))
              (elemBytes (jWFMT w) (fld w 24 10))) e
          scales := if isMx (jWFMT w) then
            (s1.sram (dieOf c) (fld w 96 32) (fld w 34 9 * (fld w 24 10 / 32))).map fun b => b.toNat else []
          res := ((t.arr (dieOf c) (jARRAY w)).reg (jREGION w)).inactive.elems.map fun x =>
            (elemNum (jWFMT w) x).residue
          par := ((t.arr (dieOf c) (jARRAY w)).reg (jREGION w)).inactive.elems.flatMap (codeParity (jWFMT w)) } ∧
      ((t.arr (dieOf c) (jARRAY w)).reg (jREGION w)).active =
        ((s1.arr (dieOf c) (jARRAY w)).reg (jREGION w)).active ∧
      (∀ r, r ≠ jREGION w → (t.arr (dieOf c) (jARRAY w)).reg r = (s1.arr (dieOf c) (jARRAY w)).reg r) ∧
      (t.arr (dieOf c) (jARRAY w)).acc = (s1.arr (dieOf c) (jARRAY w)).acc ∧
      (t.arr (dieOf c) (jARRAY w)).tmap = (s1.arr (dieOf c) (jARRAY w)).tmap ∧
      (t.arr (dieOf c) (jARRAY w)).tuse = (s1.arr (dieOf c) (jARRAY w)).tuse ∧
      OneRuns (t.arr (dieOf c) (jARRAY w)).queue c (s.coreRec c).seq w
        (okOr (s1.arrFolded (dieOf c) (jARRAY w) || s1.rangesEmu (dieOf c) (wloadRanges w)))
        (fun j => j.writes = [] ∧ j.bitw = []) ∧
      (∀ k, k ≠ dieOf c * 6 + jARRAY w → t.eng.arrs.get {} k = s1.eng.arrs.get {} k) ∧
      State.Only [.regs, .core, .eng] s1 t ∧
      State.RegsBut [Reg.ARR_STAT (dieOf c), Reg.WRK_SRAM_ECC (dieOf c)] s1 t)

/-- ARR_PASS adds each product of a row of activations and a column of the tile into the entry of that row and
column, and no other entry changes; the weight registers change places where SWAP says so, and where DRAIN says
so the results are held for writing. It will complete OK or DEGRADED where its residue and parity checks hold, and
FENCED where one fails. ARR_DRAIN alone leaves entries and weights. No byte of memory changes
before the command completes. -/
def Obligations.PassAndDrainOfAnArray : Prop := ∀ (c : CoreId) (s s1 : State) (w : CmdWord) (q : Rect),
  s1.Sound → jARRAY w < 6 → (s1.arr (dieOf c) (jARRAY w)).queue = [] →
  (s1.arr (dieOf c) (jARRAY w)).rect (jREGION w) = some q →
  pick (passConds s1 (dieOf c) (s1.arr (dieOf c) (jARRAY w)) w) = none →
  (s.Enters c 0x21 s1 w → ∀ v, v = ((s1.arr (dieOf c) (jARRAY w)).pass s1 (dieOf c) w q).1.checks
      (passReg (s1.arr (dieOf c) (jARRAY w)) w) w q → (v = true ∨ s1.NoCap (dieOf c)) →
    ∃ t, exec (.arrPass c) s = .next t ∧ s.Issued t c 0x21 ∧
      (∀ m < jM w, ∀ n < (passReg (s1.arr (dieOf c) (jARRAY w)) w).n,
        (t.arr (dieOf c) (jARRAY w)).acc.get {} (accKey q n (jEBASE w + m)) =
          (accAfter (pairing (jWFMT w) (jAFMT w)) (jWB w)
            ((s1.arr (dieOf c) (jARRAY w)).acc.get {} (accKey q n (jEBASE w + m))) (bit w 29)
            (s1.vecAt (dieOf c) (jAFMT w) (fld w 64 32 + m * (32 * fld w 192 16))
              (fld w 96 32 + m * ((passReg (s1.arr (dieOf c) (jARRAY w)) w).k / 32))
              (passReg (s1.arr (dieOf c) (jARRAY w)) w).k)
            ((List.range (passReg (s1.arr (dieOf c) (jARRAY w)) w).k).map fun k =>
              ((passReg (s1.arr (dieOf c) (jARRAY w)) w).num n k,
                (passReg (s1.arr (dieOf c) (jARRAY w)) w).resAt n k))).1) ∧
      (∀ e, (∀ m < jM w, ∀ n < (passReg (s1.arr (dieOf c) (jARRAY w)) w).n, e ≠ accKey q n (jEBASE w + m)) →
        (t.arr (dieOf c) (jARRAY w)).acc.get {} e = (s1.arr (dieOf c) (jARRAY w)).acc.get {} e) ∧
      ((t.arr (dieOf c) (jARRAY w)).reg (jREGION w)).wa = ((s1.arr (dieOf c) (jARRAY w)).reg (jREGION w)).wa ∧
      ((t.arr (dieOf c) (jARRAY w)).reg (jREGION w)).wb = ((s1.arr (dieOf c) (jARRAY w)).reg (jREGION w)).wb ∧
      ((t.arr (dieOf c) (jARRAY w)).reg (jREGION w)).sel =
        (((s1.arr (dieOf c) (jARRAY w)).reg (jREGION w)).sel != bit w 28) ∧
      (∀ r, r ≠ jREGION w → (t.arr (dieOf c) (jARRAY w)).reg r = (s1.arr (dieOf c) (jARRAY w)).reg r) ∧
      (∃ st, OneRuns (t.arr (dieOf c) (jARRAY w)).queue c (s.coreRec c).seq w st fun j =>
        (v = true → st = stOK ∨ st = stDEGRADED) ∧ (v = false → st = stFENCED) ∧
        (bit w 30 = false → j.writes = [] ∧ j.bitw = []) ∧
        (bit w 30 = true → j.writes = (s1.drain (dieOf c) (t.arr (dieOf c) (jARRAY w)) w q
          ⟨(s.coreRec c).ctx.jseed, (s.coreRec c).ctx.step, fld w 240 16, fld w 256 32⟩
          (passReg (s1.arr (dieOf c) (jARRAY w)) w).n).writes)) ∧
      (∀ k, k ≠ dieOf c * 6 + jARRAY w → t.eng.arrs.get {} k = s1.eng.arrs.get {} k) ∧
      State.Only [.regs, .core, .eng, .cap, .log] s1 t ∧
      State.RegsBut [Reg.ARR_STAT (dieOf c), Reg.WRK_SRAM_ECC (dieOf c), Reg.COMB_ERR (dieOf c)] s1 t) ∧
  (s.Enters c 0x23 s1 w →
    ∃ t, exec (.arrDrain c) s = .next t ∧ s.Issued t c 0x23 ∧
      (t.arr (dieOf c) (jARRAY w)).acc = (s1.arr (dieOf c) (jARRAY w)).acc ∧
      (t.arr (dieOf c) (jARRAY w)).regions = (s1.arr (dieOf c) (jARRAY w)).regions ∧
      (∃ st, OneRuns (t.arr (dieOf c) (jARRAY w)).queue c (s.coreRec c).seq w st fun j =>
        (st = stOK ∨ st = stDEGRADED) ∧
        j.writes = (s1.drain (dieOf c) (s1.arr (dieOf c) (jARRAY w)) w q
          ⟨(s.coreRec c).ctx.jseed, (s.coreRec c).ctx.step, fld w 240 16, fld w 256 32⟩
          (passReg (s1.arr (dieOf c) (jARRAY w)) w).n).writes) ∧
      (∀ k, k ≠ dieOf c * 6 + jARRAY w → t.eng.arrs.get {} k = s1.eng.arrs.get {} k) ∧
      State.Only [.regs, .core, .eng, .cap, .log] s1 t ∧
      State.RegsBut [Reg.ARR_STAT (dieOf c), Reg.WRK_SRAM_ECC (dieOf c), Reg.COMB_ERR (dieOf c)] s1 t)

/-- MVE_MV on an idle engine starts with its whole result held: each row's product of the weights and the vector,
converted to the output format. VEC runs on its core: what it writes is written, its counter goes up by one
and the core goes on behind it. -/
def Obligations.MatrixVectorAndLanes : Prop := ∀ (c : CoreId) (s s1 : State) (w : CmdWord), s1.Sound →
  (s.Enters c 0x30 s1 w → s1.eng.mveq.get [] (dieOf c) = [] → pick (mvConds w) = none →
    ∃ t, exec (.mveMv c) s = .next t ∧ s.Issued t c 0x30 ∧
      (∃ st, OneRuns (t.eng.mveq.get [] (dieOf c)) c (s.coreRec c).seq w st fun j =>
        (st = stOK ∨ st = stDEGRADED) ∧ j.bitw = [] ∧
        ∀ r, r = convRow (mvDFMT w)
          (if bit w 20 then some fun i =>
            Seed.draw ⟨(s.coreRec c).ctx.jseed, (s.coreRec c).ctx.step, fld w 336 16, fld w 352 32⟩ i 0 else none)
          ((List.range (mvN w)).map fun n => (mvDot w
            (s1.vecAt (dieOf c) (mvXFMT w) (fld w 192 32) (fld w 224 32) (mvK w))
            (s1.mvWeights (dieOf c) w n)).1) →
          j.writes = (fld w 256 32, r.1) :: if isMx (mvDFMT w) then [(fld w 288 32, r.2.1)] else []) ∧
      t.fget (RF.MVE_STAT_BUSY (dieOf c)) = 1 ∧ State.Only [.regs, .core, .eng] s1 t ∧
      State.RegsBut [Reg.MVE_STAT (dieOf c), Reg.WRK_SRAM_ECC (dieOf c)] s1 t) ∧
  (s.Fetches c 0x40 s1 w → s.Unbound c (s.coreRec c).seq → (s.coreRec c).resetting = false →
    ∀ x, x = ((s1.issueNext c w).coreRec c).ext → pick (vecConds (dieOf c) w x) = none →
    ∃ t, exec (.vec c) s = .next t ∧ (t.coreRec c).pc = (s.coreRec c).pc + cmdBytes w ∧
      (t.coreRec c).seq = (s.coreRec c).seq + 1 ∧ t.Closed c (s.coreRec c).seq ∧ t.coreState c = csRUN ∧
      (∀ v, v = (vecCmd (dieOf c) w x (s.coreRec c).ctx).run (s1.issueNext c w) →
        v.2.2 = true ∧ (t.coreRec c).nflags = Nat.lor (s.coreRec c).nflags v.2.1 ∧
          ∀ k, t.byte k = v.1.byte k) ∧
      s1.Counted t [(dieOf c, fld w 24 10)] ∧
      (∀ k, (∀ r ∈ (vecCmd (dieOf c) w x {}).out.toList, ¬(dieOf c * 2 ^ 40 + sramBase + r.2 ≤ k ∧
        k < dieOf c * 2 ^ 40 + sramBase + r.2 + fld w 40 16 * rowBytes r.1 (fld w 192 20))) → t.byte k = s1.byte k) ∧
      State.Only [.regs, .mem, .core, .eng, .host] s1 t)

/-- ARR_COMMAND_COMPLETE and MVE_COMMAND_COMPLETE end the one command that runs: its held results are written and
nothing else, it leaves the queue and its core's issued commands, and its counter goes up by one. -/
def Obligations.EngineCommandsComplete : Prop := ∀ (d : DieId) (s : State) (j : Job), j.core / 256 = d.val →
  j.started = true → s.Unbound j.core j.seq →
  (∀ (a : Fin 6) (r : Fin 16), (s.arr d a).queue = [j] → (isLayout j || decide (jREGION j.word = r.val)) = true →
    ∃ t, exec (.arrCommandComplete d a r) s = .next t ∧ t.arr d a = { s.arr d a with queue := [] } ∧
      t.Closed j.core j.seq ∧ (∀ k, t.byte k = (s.commitWrites d j).byte k) ∧
      (j.bitw = [] → s.Wrote t (atSram d j.writes)) ∧
      s.Counted t (if counts j.status then [(d.val, arrCnt j.word)] else []) ∧
      t.fbit (RF.ARR_STAT_BUSY d) a = false ∧ State.Only [.regs, .mem, .core, .eng, .host] s t) ∧
  (s.eng.mveq.get [] d = [j] →
    ∃ t, exec (.mveCommandComplete d) s = .next t ∧ t.eng.mveq.get [] d = [] ∧ t.Closed j.core j.seq ∧
      s.Wrote t (atSram d j.writes) ∧
      s.Counted t (if counts j.status then [(d.val, fld j.word 320 10)] else []) ∧
      t.fget (RF.MVE_STAT_BUSY d) = 0 ∧ State.Only [.regs, .mem, .core, .eng, .host] s t)

/-- COPY starts at once on a free engine. From and to this die it holds the bytes of its rows; to another die it
sends one stream for up to 3 MiB; from another die it sends one read request; to host memory the bytes leave
in writes within 4 KiB pages, and from host memory requests within pages ask for them. A prefetch copy waits in
the die's prefetch queue. -/
def Obligations.CopyTakesEveryPath : Prop := ∀ (c : CoreId) (s s1 : State) (w : CmdWord), s.Enters c 0x50 s1 w →
  s1.Sound →
  ((bit w 14 = true ∧ s1.fget (RF.WRK_WAITMODE_PREFETCH (dieOf c)) = 1) →
    ∃ t, exec (.copy c) s = .next t ∧ s.Issued t c 0x50 ∧
      (∃ j, t.eng.pfq.get [] (dieOf c) = s1.eng.pfq.get [] (dieOf c) ++ [j] ∧ j.core = c.val ∧ j.word = w ∧
        j.seq = (s.coreRec c).seq ∧ j.started = false) ∧ State.Only [.core, .eng] s1 t) ∧
  ((bit w 14 = false ∨ s1.fget (RF.WRK_WAITMODE_PREFETCH (dieOf c)) ≠ 1) →
    s1.ceQ (dieOf c) (cpCE w) = [] → pick (s1.copyConds (dieOf c) w) = none →
    s1.staleCore c (s.coreRec c).ctx = false →
    ∀ st, st = okOr (s1.copyEmu (dieOf c) w) →
    (∀ so do_, s1.cpSrc (dieOf c) w = .here so → s1.cpDst (dieOf c) w = .here do_ →
      ∃ t, exec (.copy c) s = .next t ∧ s.Issued t c 0x50 ∧
        OneRuns (t.ceQ (dieOf c) (cpCE w)) c (s.coreRec c).seq w st (fun j => j.waits = 0 ∧
          j.writes = cpCut do_ w ((cpRows so (cpSSTR w) w).flatMap fun r => s1.peek (dieOf c) r.1 r.2)) ∧
        State.Only [.regs, .core, .eng] s1 t ∧
        State.RegsBut [Reg.WRK_CE_STAT (dieOf c), Reg.WRK_SRAM_ECC (dieOf c), Reg.WCB_FWD (dieOf c)] s1 t) ∧
    (∀ so md tgt off id, s1.cpSrc (dieOf c) w = .here so → s1.cpDst (dieOf c) w = .far md tgt off →
      cpBytes w ≤ streamMax → s1.freeId (dieOf c) = some id →
      ∃ t, exec (.copy c) s = .next t ∧ s.Issued t c 0x50 ∧
        OneRuns (t.ceQ (dieOf c) (cpCE w)) c (s.coreRec c).seq w st (fun j => j.waits = 1 ∧ j.sent = true) ∧
        t.out = s1.out ++ (oneStream (s1.cpHdr { core := c.val, ctx := (s.coreRec c).ctx, word := w } md tgt off)
          (s1.cpSour (dieOf c) w) 0 true ((cpRows so (cpSSTR w) w).flatMap fun r =>
            s1.peek (dieOf c) r.1 r.2)).map (fun x => Out.cell (withId false id x)) ∧
        State.Only [.out, .regs, .core, .eng, .fab] s1 t) ∧
    (∀ md tgt off do_ id, s1.cpSrc (dieOf c) w = .far md tgt off → s1.cpDst (dieOf c) w = .here do_ →
      s1.freeId (dieOf c) = some id →
      ∃ t x, exec (.copy c) s = .next t ∧ s.Issued t c 0x50 ∧
        OneRuns (t.ceQ (dieOf c) (cpCE w)) c (s.coreRec c).seq w st
          (fun j => j.waits = nStreams (cpBytes w) ∧ j.sent = true) ∧
        t.out = s1.out ++ [.cell x] ∧ Cell.type x = 3 ∧ Cell.dstMod x = md % 4096 ∧ Cell.dstTgt x = tgt % 16 ∧
        Cell.off x = off ∧ Cell.pay x 8 3 = cpLEN w ∧ Cell.pay x 15 2 = cpROWS w ∧
        State.Only [.out, .regs, .core, .eng, .fab] s1 t) ∧
    (∀ so a, s1.cpSrc (dieOf c) w = .here so → s1.cpDst (dieOf c) w = .host a →
      s1.host.wq = [] → s1.host.rq = [] → s1.host.reqs = [] → s1.host.quar = [] → s1.host.descs = [] →
        s1.bmeOn (s1.owner (dieOf c)) = true →
      s1.diePortUp (dieOf c) = true → cpBytes w ≤ s1.host.credits →
      ∃ t, exec (.copy c) s = .next t ∧ s.Issued t c 0x50 ∧
        OneRuns (t.ceQ (dieOf c) (cpCE w)) c (s.coreRec c).seq w st (fun j => j.waits = 1 ∧ j.sent = true) ∧
        (∃ ps p, ps = cpPieces a w ((cpRows so (cpSSTR w) w).flatMap fun r => s1.peek (dieOf c) r.1 r.2) ∧
          ps.getLast? = some p ∧ t.out = s1.out ++ ps.map (fun p => Out.hostWrite (s1.owner (dieOf c)) p.1 true p.2)
            ++ [.hostRead (s1.owner (dieOf c)) p.1 0 0]) ∧
        State.Only [.out, .regs, .core, .eng, .fab, .host] s1 t) ∧
    (∀ a do_, s1.cpSrc (dieOf c) w = .host a → s1.cpDst (dieOf c) w = .here do_ →
      s1.host.rq = [] → s1.host.reqs = [] → s1.host.quar = [] → s1.bmeOn (s1.owner (dieOf c)) = true →
      cpROWS w = 1 → a % 4096 + cpLEN w ≤ 4096 →
      ∃ t, exec (.copy c) s = .next t ∧ s.Issued t c 0x50 ∧
        OneRuns (t.ceQ (dieOf c) (cpCE w)) c (s.coreRec c).seq w st (fun j => j.waits = 1) ∧
        t.out = s1.out ++ [.hostRead (s1.owner (dieOf c)) a (cpLEN w) 0] ∧
        State.Only [.out, .regs, .core, .eng, .host] s1 t))

/-- COPY_COMPLETE writes the held bytes of the oldest copy, whole, moves RCNT with RCEN and then CNT, and ends the
command. PREFETCH_RELEASE lets the oldest prefetch copy of a waiting die start on its free engine. -/
def Obligations.CopyEndsAndPrefetchStarts : Prop := ∀ (d : DieId) (s : State) (j : Job), s.Sound →
  j.core / 256 = d.val →
  (∀ e : Fin 4, s.ceQ d e = [j] → j.started = true → j.waits = 0 → counts j.status = true →
    s.Unbound j.core j.seq → (s.coreRec j.core).sigs = [] →
    ∃ t, exec (.copyComplete d e) s = .next t ∧ t.ceQ d e = [] ∧ t.Closed j.core j.seq ∧
      s.Wrote t (atDie d j.writes) ∧
      s.Counted t ((d.val, cpCNT j.word) :: if cpRCEN j.word && !j.writes.isEmpty then [(d.val, cpRCNT j.word)]
        else []) ∧
      t.fbit (RF.WRK_CE_STAT_BUSY d) e = false ∧
      State.Only [.regs, .mem, .core, .eng, .lp, .fab, .host] s t) ∧
  (∀ rest so do_, s.eng.pfq.get [] d = j :: rest → j.started = false → s.dieWaits d = true →
    s.updDue d = false → s.ceQ d (cpCE j.word) = [] → pick (s.copyConds d j.word) = none →
    s.staleCore j.core j.ctx = false → s.cpSrc d j.word = .here so → s.cpDst d j.word = .here do_ →
    ∃ t, exec (.prefetchRelease d) s = .next t ∧ t.eng.pfq.get [] d = rest ∧
      OneRuns (t.ceQ d (cpCE j.word)) j.core j.seq j.word (okOr (s.copyEmu d j.word)) (fun x =>
        x.waits = 0 ∧ x.writes = cpCut do_ j.word
          ((cpRows so (cpSSTR j.word) j.word).flatMap fun r => s.peek d r.1 r.2)) ∧
      State.Only [.regs, .eng] s t ∧ State.RegsBut [Reg.WRK_CE_STAT d, Reg.WRK_SRAM_ECC d, Reg.WCB_FWD d] s t)

/-! Units that fail and are tested (R96 to R102, R108, R137, R160, R404 to R407). -/

/-- ARR_RESIDUE_FAULT of the array behind one logical array hands that to the lowest spare: the commands of the
logical array complete, it is as after reset, the faulted array is in its self-test, and the fault is counted,
flagged and journalled. ARR_SELFTEST_DONE makes it a spare again, or retires it; a spare's own failed test
withdraws it. -/
def Obligations.ArrayFaultsMoveToTheSpare : Prop := ∀ (d : DieId) (s : State), s.NoCap d →
  (∀ (a : Fin 6) (region : Fin 16) (cause : Fin 3) (column : Fin 256) (entry : Fin 1024) (p k : Nat),
    s.arrPhys d a = p → p < 7 → s.arrRuns d p = true → s.arrBacks d p = [a.val] →
    (List.range 7).find? (fun x => decide (s.arrSt d x = 2)) = some k → JobsOf (s.arr d a).queue d →
    ∃ t, exec (.arrResidueFault d a region cause column entry) s = .next t ∧
      t.arrPhys d a = k ∧ t.arrSt d k = 1 ∧ t.arrSt d p = 3 ∧ s.Journaled t d 0 k 1 ∧ s.Journaled t d 0 p 4 ∧
      (∀ x < 7, x ≠ k → x ≠ p → t.arrSt d x = s.arrSt d x) ∧ t.arr d a = {} ∧
      (∀ b < 6, b ≠ a.val → t.arr d b = s.arr d b ∧ t.arrPhys d b = s.arrPhys d b) ∧
      (∀ j ∈ (s.arr d a).queue, t.Closed j.core j.seq) ∧ t.fbit (RF.ARR_STAT_FAULT d) a = true ∧
      t.fget (RF.ARR_FLT_CNT_CNT d p) = satAdd (RF.ARR_FLT_CNT_CNT d p).w (s.fget (RF.ARR_FLT_CNT_CNT d p)) 1 ∧
      t.fget (RF.COMB_ERR_ARR d) = 1 ∧
      (∃ tile, t.Queued d (mkEvent 0x8102 d p 2 (arrPay p a region cause column entry tile)))) ∧
  (∀ (p : Fin 7) (pass : Bool), s.arrSt d p = 3 →
    ∃ t, exec (.arrSelftestDone d p pass) s = .next t ∧
      t.arrSt d p = (if pass && s.mayReturn d p then 2 else 5) ∧
      (∀ x < 7, x ≠ p.val → t.arrSt d x = s.arrSt d x) ∧
      ((pass && s.mayReturn d p) = false → s.Journaled t d 0 p 5 ∧
        t.Queued d (mkEvent 0x8105 d p 2 (arrPay p 0xFF 0 0 0 0 0))) ∧
      State.Only [.out, .regs, .log, .boot] s t) ∧
  (∀ (p : Fin 7), s.arrSt d p = 2 →
    exec (.spareArraySelftest d p true) s = .next s ∧
    ∃ t, exec (.spareArraySelftest d p false) s = .next t ∧ t.arrSt d p = 3 ∧
      (∀ x < 7, x ≠ p.val → t.arrSt d x = s.arrSt d x) ∧ s.Journaled t d 0 p 4 ∧
      State.Only [.out, .regs, .boot] s t)

/-- MVE_RESIDUE_FAULT moves the engine's work to the arrays and ends the running command; MVE_SELFTEST_DONE brings
the engine back or retires it. RNG_PARITY_FAULT is flagged and counted at its die and withdraws the unit; of
the merge stage it is recorded by the hive. SRAM_SCRUB corrects and counts every one-bit error of its line
and leaves every other word as it was. -/
def Obligations.EngineGeneratorAndSramFaults : Prop := ∀ (d : DieId) (s : State),
  (s.NoCap d → s.fget (RF.MVE_STAT_RETIRED d) = 0 → s.fget (RF.MVE_STAT_ON_ARRAYS d) = 0 →
    (s.eng.mveq.get [] d = [] ∨ ∃ j, s.eng.mveq.get [] d = [j] ∧ j.started = true ∧ j.core / 256 = d.val) →
    ∀ (cause : Fin 3) (column entry : BitVec 16),
    ∃ t, exec (.mveResidueFault d cause column entry) s = .next t ∧ t.fget (RF.MVE_STAT_ON_ARRAYS d) = 1 ∧
      t.fget (RF.MVE_STAT_FAULT d) = 1 ∧ t.fget (RF.COMB_ERR_MVE d) = 1 ∧
      t.fget (RF.MVE_STAT_FLT_CNT d) = satAdd 8 (s.fget (RF.MVE_STAT_FLT_CNT d)) 1 ∧
      t.eng.mveq.get [] d = [] ∧ (∀ j ∈ s.eng.mveq.get [] d, t.Closed j.core j.seq) ∧
      (∃ tile, t.Queued d (mkEvent 0x8106 d 0 2 (arrPay 0xFF 0 0 cause column.toNat entry.toNat tile)))) ∧
  (s.fget (RF.MVE_STAT_ON_ARRAYS d) = 1 → s.fget (RF.MVE_STAT_RETIRED d) = 0 → ∀ pass : Bool,
    ∃ t, exec (.mveSelftestDone d pass) s = .next t ∧
      t.fget (RF.MVE_STAT_ON_ARRAYS d) = b2n (!(pass && s.mayReturn d 7)) ∧
      t.fget (RF.MVE_STAT_RETIRED d) = b2n (!(pass && s.mayReturn d 7)) ∧
      State.Only [.regs, .log, .boot] s t) ∧
  (∀ (u : Byte) (lane : BitVec 16), exec (.rngParityFault d 3 u lane) s =
    .next (({ s with smp := { s.smp with parity := true } } : State).hiveRec 0x8204 u.toNat 2
      (pay [(1, 3), (1, u.toNat), (2, lane.toNat)]))) ∧
  (s.NoCap d → ∀ (e : Fin 3) (u : Byte) (lane : BitVec 16),
    (e.val = 0 → u.toNat < 7 ∧ s.arrRuns d u.toNat = true ∧ ∀ a < 6, JobsOf (s.arr d a).queue d) →
    (e.val = 1 → JobsOf (s.eng.mveq.get [] d) d) →
    (e.val = 2 → u.toNat < 34 ∧ s.clGone d u.toNat = false ∧ s.clsOn d u.toNat = []) →
    ∃ t, exec (.rngParityFault d ⟨e.val, by omega⟩ u lane) s = .next t ∧ t.fget (RF.RNG_STAT_PAR_FLT d) = 1 ∧
      t.fget (RF.RNG_STAT_FLT_CNT d) = satAdd (RF.RNG_STAT_FLT_CNT d).w (s.fget (RF.RNG_STAT_FLT_CNT d)) 1 ∧
      t.fget (RF.COMB_ERR_RNG d) = 1 ∧
      t.Queued d (mkEvent 0x8204 d u.toNat 2 (pay [(1, e.val), (1, u.toNat), (2, lane.toNat)])) ∧
      (e.val = 0 → t.arrSt d u.toNat = 3) ∧ (e.val = 1 → t.fget (RF.MVE_STAT_ON_ARRAYS d) = 1) ∧
      (e.val = 2 → t.clGone d u.toNat = true ∧ s.Journaled t d 1 u.toNat 5)) ∧
  (∀ (line : Fin 2097152) (flips : List (Fin 32 × Bool)) (new : Nat → Nat),
    (∀ i, new i = scrubbed (s.eng.sramErr.get 0 (sramKey d (line.val * 32 + i)))
      ((flips.filter fun f => f.1.val == i).map fun f => f.2)) →
    ∃ t, exec (.sramScrub d line flips) s = .next t ∧
      (∀ i < 32, t.eng.sramErr.get 0 (sramKey d (line.val * 32 + i)) = if new i = 1 then 0 else new i) ∧
      (∀ k, (∀ i < 32, k ≠ sramKey d (line.val * 32 + i)) → t.eng.sramErr.get 0 k = s.eng.sramErr.get 0 k) ∧
      t.fget (RF.WRK_SRAM_ECC_CE_CNT d) = satAdd 32 (s.fget (RF.WRK_SRAM_ECC_CE_CNT d))
        ((List.range 32).filter fun i => decide (new i = 1)).length ∧
      State.Only [.regs, .eng] s t ∧ State.RegsBut [Reg.WRK_SRAM_ECC d] s t)

/-- CLUSTER_TAKEOVER completes at once where the cluster's cores have nothing outstanding: the physical cluster is
out of service, the logical one gets the lowest spare, or with no spare left shares the lowest cluster that hosts
one; its cores are IDLE. While a core of it has commands outstanding, the take-over has begun and its cores are
FENCED; a cluster already out of service stays as it is. BANK_TAKEOVER completes: the lowest spare bank takes the
logical one, or it is emulated, and the contents of SRAM are kept; a bank already emulated stays so. A word read
uncorrectable is noted for its bank, and a bank with 4 such words within 1 s is taken over when the block idles (the
idle step is the model's choice, log entry 4). -/
def Obligations.ClustersAndBanksMove : Prop := ∀ (d : DieId) (s : State), s.NoCap d →
  (∀ (c : Fin 32) (ph : Nat), s.clPhys d c = ph → ph < 34 → s.clGone d ph = false → s.clsOn d ph = [c.val] →
    bitN (s.clDraining d c) 0 = false → (∀ k ∈ clCores d c, s.coreState k = csIDLE ∧
      (s.coreRec k).outst = [] ∧ s.saf.cores.get 0 k = 0) →
    (∀ k rest, s.clSpares d = k :: rest →
      ∃ t, exec (.clusterTakeover d c) s = .next t ∧ t.clGone d ph = true ∧ t.clPhys d c = k ∧
        (∀ b < 32, b ≠ c.val → t.clPhys d b = s.clPhys d b) ∧ (∀ x ∈ clCores d c, t.coreState x = csIDLE) ∧
        s.Journaled t d 1 ph 5 ∧ s.Journaled t d 1 k 1 ∧ t.fget (RF.COMB_ERR_CLUSTER d) = 1) ∧
    (s.clSpares d = [] → ∀ k h, k ≠ ph → s.clGone d k = false → s.clsOn d k = [h] →
      (∀ x < k, x ≠ ph → s.clGone d x = true ∨ (s.clsOn d x).length ≠ 1) →
      ∃ t, exec (.clusterTakeover d c) s = .next t ∧ t.clGone d ph = true ∧ t.clPhys d c = k ∧
        t.eng.clFold.get 0 (d * 32 + c) = 1 ∧ t.eng.clFold.get 0 (d * 32 + h) = 2 ∧ s.Journaled t d 1 k 6 ∧
        (∀ x ∈ clCores d c, t.coreState x = csIDLE))) ∧
  (∀ (c : Fin 32) (ph : Nat), s.clPhys d c = ph → ph < 34 → s.clGone d ph = false → s.clsOn d ph = [c.val] →
    bitN (s.clDraining d c) 0 = false → (∃ k ∈ clCores d c, s.coreState k = csRUN ∧ (s.coreRec k).ending = none ∧
      (s.coreRec k).outst ≠ []) →
    ∃ t, exec (.clusterTakeover d c) s = .next t ∧ t.clGone d ph = false ∧ t.clPhys d c = ph ∧
      bitN (t.clDraining d c) 0 = true ∧ (∀ x ∈ clCores d c, t.coreState x = csFENCED) ∧
      s.Journaled t d 1 ph 5 ∧ t.fget (RF.COMB_ERR_CLUSTER d) = 1) ∧
  (∀ c : Fin 32, (34 ≤ s.clPhys d c ∨ s.clGone d (s.clPhys d c) = true) →
    (∀ x ∈ s.clsOn d (s.clPhys d c), bitN (s.clDraining d x) 0 = false) →
    exec (.clusterTakeover d c) s = .next s) ∧
  (∀ b : Fin 64, s.physBank d b = 0x7F → exec (.bankTakeover d b) s = .next s) ∧
  (∀ (b : Fin 64) (ph : Nat), s.physBank d b = ph → ph < 66 →
    (∀ k rest, s.bkSpares d = k :: rest →
      ∃ t, exec (.bankTakeover d b) s = .next t ∧ t.bkGone d ph = true ∧ t.physBank d b = k ∧
        (∀ x < 64, x ≠ b.val → t.physBank d x = s.physBank d x) ∧ t.fget (RF.COMB_ERR_BANK d) = 1 ∧
        s.Journaled t d 2 ph 5 ∧ s.Journaled t d 2 k 1 ∧ (∀ key, t.byte key = s.byte key)) ∧
    (s.bkSpares d = [] →
      ∃ t, exec (.bankTakeover d b) s = .next t ∧ t.bkGone d ph = true ∧ t.physBank d b = 0x7F ∧
        t.emuBanks d = s.emuBanks d + 1 ∧ (∀ x < 64, x ≠ b.val → t.physBank d x = s.physBank d x) ∧
        s.Journaled t d 2 ph 5 ∧ s.Journaled t d 9 b 1 ∧ (∀ key, t.byte key = s.byte key))) ∧
  (∀ (off pb : Nat), s.physBank d (sramBank off) = pb → pb ≠ 0x7F →
    (s.sramUe d off).lp.bankUe.get [] (d * 66 + pb) = (s.lp.bankUe.get [] (d * 66 + pb)).filter (fun x =>
      decide (x.1 ≠ off / 8 ∧ s.clk < x.2 + 1000000000)) ++ [(off / 8, s.clk)]) ∧
  (∀ (pb : Nat) (l : List (Nat × Nat)), s.lp.bankUe = [(d * 66 + pb, l)] → pb < 66 →
    (l.length < 4 → s.banksSettle = s) ∧
    (∀ b : Fin 64, 4 ≤ l.length → s.physBank d b = pb → (∀ x < b.val, s.physBank d x ≠ pb) →
      s.banksSettle = ({ s with lp := { s.lp with bankUe := [] } } : State).bankTakeover d b))

/-! Lane generators and the token sampler (R155 to R175). -/

/-- RNG_FILL writes exactly its rows, from the generators positioned by the core's seed tuple, and its counter goes
up by one. RNG_TEST_GO delivers the word of its tuple and changes its two registers only. -/
def Obligations.GeneratorsFillAndTest : Prop :=
  (∀ (c : CoreId) (s s1 : State) (w : CmdWord), s.Fetches c 0x60 s1 w → pick (rfConds w) = none →
    s.Unbound c (s.coreRec c).seq →
    ∃ t, exec (.rngFill c) s = .next t ∧ s.WentOn t c ∧
      s1.Wrote t (atSram (dieOf c) ((rfRanges w).zipIdx.map fun r => (r.1.1, rfBytes
        ⟨(s.coreRec c).ctx.jseed, (s.coreRec c).ctx.step, rfSTREAM w, fld w 128 32⟩ w r.2))) ∧
      s1.Counted t [(dieOf c, fld w 16 10)] ∧ State.Only [.regs, .mem, .core, .eng, .host] s1 t) ∧
  (∀ (d : DieId) (s : State), ∃ t, exec (.rngTestGo d) s = .next t ∧
    t.fget (RF.RNG_TOUT_WORD d) = Seed.word ⟨s.fget (RF.RNG_TSEED_JSEED d), s.fget (RF.RNG_TTUP_STEP d),
      s.fget (RF.RNG_TTUP_STREAM d), s.fget (RF.RNG_TLOC_TILE d)⟩ (s.fget (RF.RNG_TLOC_LANE d))
      (s.fget (RF.RNG_TCTL_WORD d)) % 2 ^ 64 ∧ t.fget (RF.RNG_TCTL_DONE d) = 1 ∧
    State.Only [.regs] s t ∧ State.RegsBut [Reg.RNG_TOUT d, Reg.RNG_TCTL d] s t)

/-- SMP_OPEN of a key that is not open takes a context at this module's merge stage while one is free, and waits
there while none is; an open whose merge stage is elsewhere leaves in one cell; SMP_OPEN_RESUME gives a freed
context to the oldest waiting open. -/
def Obligations.SamplerContextsOpen : Prop := ∀ (s : State),
  (∀ (c : CoreId) (s1 : State) (w : CmdWord), s.Fetches c 0x62 s1 w →
    pick (soConds (s1.setupsOn (dieOf c)) w) = none →
    s1.staleCore c (s.coreRec c).ctx = false → ∀ x : SmpCtx,
    x = { smpCtxOf w (s.coreRec c).ctx.job with core := c.val, seq := (s.coreRec c).seq } →
    (soMMOD w = s1.module → (∀ y ∈ s1.smp.ctxs, y.is x.job x.sid = false) →
      (∀ p ∈ s1.smp.orphans, x.is p.job.toNat p.sid.toNat = false) →
      ∃ t, exec (.smpOpen (.here c)) s = .next t ∧ s.Issued t c 0x62 ∧
        t.smp.ctxs = s1.smp.ctxs ++ (if s1.smp.ctxs.length < 512 then [x] else []) ∧
        t.smp.waiting = s1.smp.waiting ++ (if s1.smp.ctxs.length < 512 then [] else [x]) ∧
        (s1.smp.ctxs.length < 512 → t.fget RF.SMP_STAT_CTX_USED = s1.smp.ctxs.length + 1) ∧
        State.Only [.regs, .core, .smp] s1 t ∧ State.RegsBut [Reg.SMP_STAT] s1 t) ∧
    (soMMOD w ≠ s1.module → ∀ id, s1.freeId (dieOf c) = some id →
      ∃ t z, exec (.smpOpen (.here c)) s = .next t ∧ s.Issued t c 0x62 ∧ t.out = s1.out ++ [.cell z] ∧
        Cell.type z = 0x0A ∧ Cell.dstMod z = soMMOD w ∧ Cell.job z = (s.coreRec c).ctx.job % 256 ∧
        State.Only [.out, .core, .fab] s1 t)) ∧
  (∀ (md : BitVec 12) (die : DieId) (stream : BitVec 16) (job pgen : BitVec 8) (w : CmdWord) (x : SmpCtx),
    x = { smpCtxOf w job.toNat with far := some (md.toNat, die.val, stream.toNat), pgen := pgen.toNat } →
    s.smp.ctxs.length < 512 → (∀ y ∈ s.smp.ctxs, y.is x.job x.sid = false) →
    (∀ p ∈ s.smp.orphans, x.is p.job.toNat p.sid.toNat = false) →
    ∃ t, exec (.smpOpen (.there md die stream job pgen w)) s = .next t ∧ t.smp.ctxs = s.smp.ctxs ++ [x] ∧
      State.Only [.regs, .smp] s t ∧ State.RegsBut [Reg.SMP_STAT] s t) ∧
  (∀ x rest, s.smp.waiting = x :: rest → s.smp.ctxs.length < 512 →
    (∀ y ∈ s.smp.ctxs, y.is x.job x.sid = false) →
    (∀ p ∈ s.smp.orphans, x.is p.job.toNat p.sid.toNat = false) →
    ∃ t, exec .smpOpenResume s = .next t ∧ t.smp.ctxs = s.smp.ctxs ++ [x] ∧ t.smp.waiting = rest ∧
      State.Only [.regs, .smp] s t ∧ State.RegsBut [Reg.SMP_STAT] s t)

/-- SMP_PART of a current placement forms m, z and, unless its shard is sour or in mode 1, its best candidates, and
sends them in cells to its merge stage, this module's own included. A part that reaches a collecting context which
agrees with it and lacks its contributor joins it and is acknowledged. A part whose key no context has waits as an
orphan while fewer than 64 do, unless a context ended by TIMEOUT still awaited it: then it is TOO_LATE. -/
def Obligations.SamplerPartsJoin : Prop := ∀ (s : State),
  (∀ (c : CoreId) (s1 : State) (w : CmdWord) (id : Nat) (zs : List Nat), s.Fetches c 0x61 s1 w →
    pick (spConds (s1.setupsOn (dieOf c)) w) = none → s1.Sound → s1.staleCore c (s.coreRec c).ctx = false →
    s1.freeId (dieOf c) = some id → zs = s1.shardZ (dieOf c) w →
    ∃ t p, exec (.smpPart c) s = .next t ∧ s.Issued t c 0x61 ∧
      p.sid.toNat = smSID w ∧ p.cidx.val = spCIDX w ∧ p.ktop.toNat = smKTOP w ∧
      p.sourp = zs.any (fun z => !(d32 z).finite) ∧ p.m = BitVec.ofNat 32 (zs.foldl f32max (inf32 true)) ∧
      p.z = BitVec.ofNat 32 (expSum zs (zs.foldl f32max (inf32 true))) ∧
      p.cands = (if p.sourp ∨ smMODE w = 1 then []
        else (candSort (zs.zipIdx.map fun z => (z.1, spVBASE w + z.2, 0))).take (smKTOP w)).map
          (fun e => (BitVec.ofNat 20 e.2.1, BitVec.ofNat 32 e.1)) ∧
      t.smp = { s1.smp with parts := s1.smp.parts ++
        [{ core := c.val, seq := (s.coreRec c).seq, word := w, ctx := (s.coreRec c).ctx, sour := p.sourp }] } ∧
      t.out = s1.out ++ (List.range (((partBytes p).length + 47) / 48)).map (fun k =>
        Out.cell (withId false id (mkCell (spMMOD w) 8 s.module (dieOf c) 0x0A s.gen (s.coreRec c).ctx.job false
          (decide (k + 1 = ((partBytes p).length + 47) / 48)) (((partBytes p).drop (48 * k)).take 48).length 0 k
          (((partBytes p).drop (48 * k)).take 48)))) ∧
      State.Only [.out, .regs, .core, .smp, .fab] s1 t ∧ State.RegsBut [Reg.WRK_SRAM_ECC (dieOf c)] s1 t) ∧
  (∀ (p : SmpPart) (x : SmpCtx), s.smp.ctxs = [x] → x.job = p.job.toNat → x.sid = p.sid.toNat → x.st = 1 →
    (∀ q ∈ x.parts, q.cidx ≠ p.cidx) → x.mode = p.mode.val → x.temp = p.temp.toNat →
    (x.mode = 1 ∨ x.ktop = p.ktop.toNat) → x.ncont = p.ncont.toNat + 1 → x.parts.length + 1 < x.ncont →
    ∃ t, exec (.smpPartArrive p) s = .next t ∧ t.smp.ctxs = [{ x with parts := x.parts ++ [p] }] ∧
      t.out = s.out ++ [.cell (mkCell p.srcMod.toNat p.srcDie.val s.module 8 6 s.gen p.job.toNat false true 8 0 0
        (ackPay 0 0 p.stream.toNat 0))] ∧
      State.Only [.out, .regs, .smp] s t ∧ State.RegsBut [Reg.SMP_STAT] s t) ∧
  (∀ (p : SmpPart), (∀ x ∈ s.smp.ctxs, x.is p.job.toNat p.sid.toNat = false) →
    ((p.job.toNat, p.sid.toNat, p.cidx.val) ∉ s.smp.closed → s.smp.orphans.length < 64 →
      ∃ t, exec (.smpPartArrive p) s = .next t ∧ t.smp = { s.smp with orphans := s.smp.orphans ++ [p] } ∧
        State.Only [.smp] s t) ∧
    ((p.job.toNat, p.sid.toNat, p.cidx.val) ∈ s.smp.closed →
      ∃ t, exec (.smpPartArrive p) s = .next t ∧ t.smp = { s.smp with closed := (s.smp.closed.filter fun k =>
          !decide (k = (p.job.toNat, p.sid.toNat, p.cidx.val))) } ∧
        t.fget RF.SMP_LATE_LATE_CNT = satAdd RF.SMP_LATE_LATE_CNT.w (s.fget RF.SMP_LATE_LATE_CNT) 1 ∧
        t.out = s.out ++ [.cell (mkCell p.srcMod.toNat p.srcDie.val s.module 8 7 s.gen p.job.toNat false true 8 0 0
          (ackPay 0x09 0 p.stream.toNat 0))] ∧
        State.Only [.out, .regs, .smp] s t ∧ State.RegsBut [Reg.SMP_LATE] s t))

/-- SMP_BROADCAST lets a contributor of mode 1 write its dense row, or end SOUR, and complete, and acknowledges the
cell. SMP_CONTEXT_TIMEOUT ends a collecting context TIMEOUT: counted, the parts it still awaited are late from then
on, its record is written and its counter moved. SMP_ORPHAN_TIMEOUT drops the orphan, counts it and answers its
sender. -/
def Obligations.SamplerContextsEnd : Prop := ∀ (s : State),
  (∀ (d : DieId) (job : BitVec 8) (sid : BitVec 16) (cidx : Fin 256) (m l : BitVec 32) (stream : BitVec 16)
      (r : PartRec), s.smp.parts = [r] → dieOf r.core = d.val → r.ctx.job = job.toNat →
    smSID r.word = sid.toNat → spCIDX r.word = cidx.val → smMODE r.word = 1 → s.Unbound r.core r.seq →
    ∀ ack, ack = Out.cell (mkCell (spMMOD r.word) 8 s.module d 6 s.gen job.toNat false true 8 0 0
      (ackPay 0 0 stream.toNat 0)) →
    (r.sour = false →
      ∃ t, exec (.smpBroadcast d job sid cidx m l false stream) s = .next t ∧ t.smp.parts = [] ∧
        s.Wrote t (atSram d [(spDDST r.word, (convRow (spDFMT r.word) none ((s.shardZ d r.word).map fun z =>
          d32 (f32exp (f32sub (f32sub z m.toNat) l.toNat)))).1)]) ∧
        t.Closed r.core r.seq ∧ s.Counted t [(d.val, smCNT r.word)] ∧ t.out = s.out ++ [ack] ∧
        State.Only [.out, .regs, .mem, .core, .eng, .smp, .fab, .host] s t) ∧
    (∃ t, exec (.smpBroadcast d job sid cidx m l true stream) s = .next t ∧ t.smp.parts = [] ∧
      t.Closed r.core r.seq ∧ s.Counted t [] ∧ (∀ k, t.byte k = s.byte k) ∧ t.out = s.out ++ [ack])) ∧
  (∀ (job : BitVec 8) (sid : BitVec 16) (x : SmpCtx), s.smp.ctxs = [x] → x.job = job.toNat → x.sid = sid.toNat →
    x.st = 1 → x.mode = 0 → x.far = none → x.core < 2048 → x.cnt < 1024 → s.Unbound x.core x.seq →
    ∃ t, exec (.smpContextTimeout job sid) s = .next t ∧ t.smp.ctxs = [] ∧
      t.smp.closed = s.smp.closed ++ ((List.range x.ncont).filter fun i =>
        !(x.parts.any fun p => decide (p.cidx.val = i))).map (fun i => (x.job, x.sid, i)) ∧
      t.fget RF.SMP_LATE_TO_CNT = satAdd RF.SMP_LATE_TO_CNT.w (s.fget RF.SMP_LATE_TO_CNT) 1 ∧
      s.Wrote t (atSram (dieOf x.core) [(x.rdst, leBytes 4 0 ++ leBytes 2 0x7E00 ++ [0x06, 0] ++ leBytes 4 0 ++
        leBytes 4 x.pos)]) ∧
      t.Closed x.core x.seq ∧ s.Counted t [(dieOf x.core, x.cnt)]) ∧
  (∀ (job : BitVec 8) (sid : BitVec 16) (cidx : Fin 256) (p : SmpPart) (a b : List SmpPart),
    s.smp.orphans = a ++ p :: b → p.job = job → p.sid = sid → p.cidx = cidx →
    (∀ q ∈ a, ¬(q.job = job ∧ q.sid = sid ∧ q.cidx = cidx)) →
    ∃ t, exec (.smpOrphanTimeout job sid cidx) s = .next t ∧ t.smp = { s.smp with orphans := a ++ b } ∧
      t.fget RF.SMP_STAT_ORPHAN_DROP = satAdd RF.SMP_STAT_ORPHAN_DROP.w (s.fget RF.SMP_STAT_ORPHAN_DROP) 1 ∧
      t.out = s.out ++ [.cell (mkCell p.srcMod.toNat p.srcDie.val s.module 8 7 s.gen p.job.toNat false true 8 0 0
        (ackPay 0x06 0 p.stream.toNat 0))] ∧
      State.Only [.out, .regs, .smp] s t ∧ State.RegsBut [Reg.SMP_STAT] s t)

/-- The result of a token selection depends on the parts, not on the order in which they arrived: with one part a
contributor and finite logits, two contexts whose parts are permutations of each other give the same bytes. -/
def Obligations.SamplerIgnoresArrivalOrder : Prop := ∀ (c : SmpCtx) (ps : List SmpPart) (m l : Nat),
  c.parts.Perm ps → (c.parts.map fun p => p.cidx).Nodup →
  (∀ p ∈ c.parts, ∀ e ∈ p.cands, (d32 e.2.toNat).finite = true) →
  smpResult { c with parts := ps } m l = smpResult c m l ∧ SmpCtx.sorted { c with parts := ps } = c.sorted

/-! Fused update units (R178 to R207). -/

/-- UPD_RUN, UPD_SAVE, UPD_PEND and UPD_NORM enter the empty update queue bound to the open cap. With an unsatisfied
gate they wait there; else they start on a state `u` that differs from the one after the fetch only in the
core, the cap and the update unit, take a free slot for their diffs if their cap has none, and hold their work;
no byte of memory changes before they complete. While their cap rolls back they complete without acting. -/
def Obligations.UpdateCommandsStart : Prop := ∀ (c : CoreId) (s s1 : State) (w : CmdWord) (i : Instr) (opc : Nat),
  (i, opc) ∈ [(Instr.updRun c, 0x70), (.updSave c, 0x71), (.updPend c, 0x72), (.updNorm c, 0x73)] →
  s.Enters c opc s1 w → s1.Sound →
  (s1.capState (dieOf c) = 6 → ∃ t, exec i s = .next t ∧ s.WentOn t c ∧ State.Only [.core, .cap] s1 t ∧
    (t.dieCap (dieOf c)).bound = (s1.dieCap (dieOf c)).bound ∧ (t.dieCap (dieOf c)).dcnts =
      (s1.dieCap (dieOf c)).dcnts ++ if bit w 58 then [fld w 48 10] else []) ∧
  (s1.capState (dieOf c) ≠ 0 → s1.capState (dieOf c) ≠ 6 → s1.updQ (dieOf c) = [] → ∀ j0 : Job,
  j0 = { core := c.val, seq := (s.coreRec c).seq, ctx := (s.coreRec c).ctx, word := w,
         cap := s1.openCap (dieOf c), before := (s1.dieCap (dieOf c)).runs.length } →
  ((bit w 42 = true ∧ satisfied (s1.cnt (dieOf c) (fld w 32 10)) (fld w 64 32) = false) →
    ∃ t, exec i s = .next t ∧ s.Issued t c opc ∧ t.updQ (dieOf c) = [j0] ∧
      (t.dieCap (dieOf c)).bound = (s1.dieCap (dieOf c)).bound ++ [(c.val, (s.coreRec c).seq)] ∧
      State.Only [.regs, .core, .upd, .cap] s1 t ∧ State.RegsBut [Reg.UPD_STAT (dieOf c)] s1 t) ∧
  ((bit w 42 = false ∨ satisfied (s1.cnt (dieOf c) (fld w 32 10)) (fld w 64 32) = true) →
    pick (s1.updConds (dieOf c) j0) = none →
    (opc = 0x72 → ∀ n < (uBlocks (s1.trec (dieOf c) (uTREC w)) w).2,
      (uTREC w, (uBlocks (s1.trec (dieOf c) (uTREC w)) w).1 + n) ∈ (s1.dieCap (dieOf c)).ran) →
    ∀ k, (opc ≠ 0x73 → (s1.dieCap (dieOf c)).slot = some k ∨
      ((s1.dieCap (dieOf c)).slot = none ∧ s1.freeSlotOf (dieOf c) = some k)) →
    ∃ t u j, exec i s = .next t ∧ s.Issued t c opc ∧
      State.Only [.core, .eng, .upd, .cap, .regs] s1 u ∧ State.RegsBut [Reg.UPD_STAT (dieOf c)] s1 u ∧
      j = (if opc = 0x71 then u.saveWork (dieOf c) j0 else u.trecWork (dieOf c) j0).2 ∧
      j.started = true ∧ t.updQ (dieOf c) = [j] ∧
      (t.dieCap (dieOf c)).bound = (s1.dieCap (dieOf c)).bound ++ [(c.val, (s.coreRec c).seq)] ∧
      (opc ≠ 0x73 → (t.dieCap (dieOf c)).slot = some k ∧ ((s1.dieCap (dieOf c)).slot = none →
        t.fget (RF.UPD_SLOT_STATE_STATE (dieOf c) k) = 1)) ∧
      (opc = 0x73 → (t.dieCap (dieOf c)).slot = (s1.dieCap (dieOf c)).slot) ∧
      t.fget (RF.UPD_STAT_BUSY (dieOf c)) = 1 ∧ State.Only [.regs, .core, .eng, .upd, .cap] s1 t))

/-- UPD_GATE_START starts the waiting command whose gate is open. UPD_COMMAND_COMPLETE puts its SRAM and LPDDR5X
writes in place, ends the command and moves its counter; outside the slot, nothing else in memory changes. -/
def Obligations.UpdateGateAndCompletion : Prop := ∀ (d : DieId) (s : State) (j : Job), s.updQ d = [j] →
  j.core / 256 = d.val → s.Sound →
  (s.updReady d j = true → pick (s.updConds d j) = none →
    ∃ t, exec (.updGateStart d) s = .next t ∧
      t.updQ d = [(if uOPC j.word = 0x71 then (s.markBusy (2 * d + 1)).saveWork d j
        else (s.markBusy (2 * d + 1)).trecWork d j).2] ∧
      t.fget (RF.UPD_STAT_BUSY d) = 1 ∧ (∀ k, t.byte k = s.byte k) ∧
      State.Only [.regs, .eng, .upd, .cap] s t) ∧
  (j.started = true → (j.status = stOK ∨ j.status = stDEGRADED) → j.sour = none → (s.dieCap d).vote = none →
    (∀ k, (s.dieCap d).slot = some k →
      (∀ w ∈ j.diffs, w.2.1 + w.2.2.length ≤ 64 * s.fget (RF.UPD_SLOT_CFG_SIZE64 d)) →
      (∀ w ∈ atSram d j.writes ++ atDie d (j.diffs.map fun x => (x.1, x.2.2)),
        w.1 + w.2.length ≤ d * 2 ^ 40 + s.slotAddr d k ∨
        d * 2 ^ 40 + s.slotAddr d k + slotStride (s.fget (RF.UPD_SLOT_CFG_SIZE64 d)) ≤ w.1) →
      ∃ t, exec (.updCommandComplete d) s = .next t ∧ t.updQ d = [] ∧ t.Closed j.core j.seq ∧
        s.Counted t [(d.val, uCNT j.word)] ∧ t.fget (RF.UPD_STAT_BUSY d) = 0 ∧
        (∀ key, ¬(d * 2 ^ 40 + s.slotAddr d k ≤ key ∧
            key < d * 2 ^ 40 + s.slotAddr d k + slotStride (s.fget (RF.UPD_SLOT_CFG_SIZE64 d))) →
          t.byte key = (wroteAt (atSram d j.writes ++ atDie d (j.diffs.map fun x => (x.1, x.2.2))) key).getD
            (s.byte key))) ∧
    ((s.dieCap d).slot = none →
      ∃ t, exec (.updCommandComplete d) s = .next t ∧ t.updQ d = [] ∧ t.Closed j.core j.seq ∧
        s.Counted t [(d.val, uCNT j.word)] ∧ s.Wrote t (atSram d j.writes)))

/-- Rolling a slot back undoes every diffed write: with a clear bitmap at first, writes outside the slot and diff
positions that name one address each, every byte outside the slot is what it was before the writes. -/
def Obligations.RollbackRestoresState : Prop := ∀ (d : DieId) (s : State) (k tag : Nat)
    (ws : List (Nat × Nat × Bytes)), s.Sound → (s.upd.slots.get {} (d * 8 + k)).diffs = [] →
  (∀ g < s.fget (RF.UPD_SLOT_CFG_SIZE64 d), (s.byte (d * 2 ^ 40 + s.slotAddr d k +
    s.fget (RF.UPD_SLOT_CFG_SIZE64 d) * 64 + g / 8)).getLsbD (g % 8) = false) →
  (∀ w ∈ ws, w.2.1 + w.2.2.length ≤ 64 * s.fget (RF.UPD_SLOT_CFG_SIZE64 d) ∧
    (w.1 + w.2.2.length ≤ s.slotAddr d k ∨
      s.slotAddr d k + slotStride (s.fget (RF.UPD_SLOT_CFG_SIZE64 d)) ≤ w.1)) →
  (∀ v ∈ ws, ∀ w ∈ ws, ∀ p, v.2.1 ≤ p → p < v.2.1 + v.2.2.length → w.2.1 ≤ p → p < w.2.1 + w.2.2.length →
    v.1 + (p - v.2.1) = w.1 + (p - w.2.1)) →
  ∀ key, ¬(d * 2 ^ 40 + s.slotAddr d k ≤ key ∧
      key < d * 2 ^ 40 + s.slotAddr d k + slotStride (s.fget (RF.UPD_SLOT_CFG_SIZE64 d))) →
    ((s.diffedWrites d k tag ws).1.rollback d k).byte key = s.byte key

/-- UPD_LANE_FAULT retires one lane group once: counted down, flagged, recorded and journalled, and the running
command ends. ROLLBACK_DONE reapplies the slot, frees it with a clear bitmap, ends the cap, moves its counters and
completes CAP_VOTE. -/
def Obligations.UpdateLaneFaultAndRollback : Prop := ∀ (d : DieId) (s : State),
  (∀ g : Fin 8, s.NoCap d → s.upd.lost.get 0 (d * 8 + g) = 0 →
    (s.updQ d = [] ∨ ∃ j, s.updQ d = [j] ∧ j.started = true ∧ j.core / 256 = d.val) →
    ∃ t, exec (.updLaneFault d g) s = .next t ∧ t.upd.lost.get 0 (d * 8 + g) = 1 ∧
      t.fget (RF.UPD_STAT_LANES_OK d) = s.fget (RF.UPD_STAT_LANES_OK d) - 1 ∧
      t.fget (RF.UPD_STAT_LANE_FLT d) = 1 ∧ t.fget (RF.COMB_ERR_UPD d) = 1 ∧ s.Journaled t d 4 g 1 ∧
      t.Queued d (mkEvent 0x8302 d 0 2 (pay [(1, g.val)])) ∧ t.updQ d = [] ∧
      (∀ j ∈ s.updQ d, t.Closed j.core j.seq)) ∧
  (∀ k status force core seq cnt, (s.dieCap d).slot = some k → (s.dieCap d).decided = some status →
    (s.dieCap d).vote = some (force, core, seq, cnt) → core < 2048 → cnt < 1024 →
    (∀ n ∈ (s.dieCap d).dcnts, n < 1024) → s.fget (RF.UPD_SLOT_STATE_STATE d k) = 3 → s.capState d = 6 →
    s.updQ d = [] →
    ∃ t, exec (.rollbackDone d) s = .next t ∧ t.capState d = 0 ∧ t.dieCap d = {} ∧
      t.fget (RF.UPD_SLOT_STATE_STATE d k) = 0 ∧ t.Closed core seq ∧
      s.Counted t ((s.dieCap d).dcnts.map (fun n => (d.val, n)) ++ [(d.val, cnt)]) ∧
      ∀ key, t.byte key = if d * 2 ^ 40 + s.slotAddr d k + s.fget (RF.UPD_SLOT_CFG_SIZE64 d) * 64 ≤ key ∧
          key < d * 2 ^ 40 + s.slotAddr d k + s.fget (RF.UPD_SLOT_CFG_SIZE64 d) * 64 +
            (s.fget (RF.UPD_SLOT_CFG_SIZE64 d) + 7) / 8 then 0 else (s.rollback d k).byte key)

/-! Wort stream and Ethernet ports (R373 to R381). -/

/-- WORT_READY marks its slot ready in the engine; a slot not yet committed sends nothing, where no other waits.
WORT_RELEASE of a
SENDING slot frees it with a clear bitmap. WORT_RESERVATION_GRANT reserves within B′ a slot that waited. -/
def Obligations.WortSlotsMove : Prop := ∀ (s : State),
  (∀ (x : CellW) (v : WSlot), Cell.good x = true → s.modFenced (Cell.srcMod x) = false → wortCell x 1 = true →
    (s.sess (s.owner (Cell.srcTgt x) - 1)).slotOf (Cell.srcTgt x) (Cell.pay x 1 1) = some v →
    v.att = Cell.pay x 2 1 → v.step = Cell.pay x 4 4 → v.ready = false → v.sending = false →
    (∀ y ∈ (s.sess (s.owner (Cell.srcTgt x) - 1)).slots, y.sending = true → y.endSeq ≠ 0) →
    (∀ e < 8, s.capState e = 1 → (s.dieCap e).failed = false) →
    ∃ t, exec (.wortReady x) s = .next t ∧ t.out = s.out ∧
      t.sess (s.owner (Cell.srcTgt x) - 1) = (s.sess (s.owner (Cell.srcTgt x) - 1)).updSlot (Cell.srcTgt x)
        v.slot (fun y => { y with ready := true }) ∧
      (∀ p, p ≠ s.owner (Cell.srcTgt x) - 1 → t.sess p = s.sess p) ∧ State.Only [.regs, .wort] s t ∧
      State.RegsBut [Reg.WORT_PART (s.owner (Cell.srcTgt x) - 1), Reg.WORT_PART2 (s.owner (Cell.srcTgt x) - 1)]
        s t) ∧
  (∀ (d : DieId) (x : CellW) (k : Nat), k = Cell.pay x 1 1 → Cell.good x = true → s.dieAbsorbs d = false →
    (Cell.job x = s.dieJob d ∨ Cell.job x = 0) → wortCell x 2 = true → k < 8 →
    s.fget (RF.UPD_SLOT_STATE_STATE d k) = 2 → s.updQ d = [] →
    ∃ t, exec (.wortRelease d x) s = .next t ∧ t.fget (RF.UPD_SLOT_STATE_STATE d k) = 0 ∧
      (∀ j < 8, j ≠ k → t.fget (RF.UPD_SLOT_STATE_STATE d j) = s.fget (RF.UPD_SLOT_STATE_STATE d j)) ∧
      (∀ key, t.byte key = if d * 2 ^ 40 + s.slotAddr d k + s.fget (RF.UPD_SLOT_CFG_SIZE64 d) * 64 ≤ key ∧
          key < d * 2 ^ 40 + s.slotAddr d k + s.fget (RF.UPD_SLOT_CFG_SIZE64 d) * 64 +
            (s.fget (RF.UPD_SLOT_CFG_SIZE64 d) + 7) / 8 then 0 else s.byte key) ∧
      State.Only [.regs, .mem, .upd] s t ∧
      State.RegsBut [Reg.UPD_SLOT_STATE d, Reg.UPD_SLOT_BASE d, Reg.UPD_SLOT_CFG d] s t) ∧
  (∀ (d : DieId) (k : Nat) (v : WSlot), (s.dieCap d).slot = some k →
    (s.sess (s.owner d - 1)).slotOf d k = some v → (s.dieCap d).held = true → s.capState d = 2 →
    s.fits (s.owner d - 1) v.ngran = true →
    ∃ t, exec (.wortReservationGrant d) s = .next t ∧ (t.dieCap d).held = false ∧
      ((∃ e < 8, s.dieJob e = (s.dieCap d).key.job ∧ e ≠ d.val ∧
          (s.capState e = 0 ∧ s.dieAbsorbs e = false)) → (s.hiveCap (s.dieCap d).key).vec = none →
        (∀ e < 8, s.dieJob e = (s.dieCap d).key.job → s.dieAbsorbs e = false ∧ s.capVote e ≠ 3) →
        t.sess (s.owner d - 1) = (s.sess (s.owner d - 1)).updSlot d k (fun y => { y with reserved := true }) ∧
        State.Only [.cap, .wort] s t))

/-- WORT_ACK keeps the larger acknowledged sequence and drops every message up to it; with a NAK it sends that
message again. HELLO_ACK stores the store's base step. WORT_RETRANSMIT sends every kept message again, in order.
KEEPALIVE of an idle open session sends one message. WORT_RATE_CHECK sets or clears the measured rate. -/
def Obligations.WortSessionsAdvance : Prop := ∀ (p : PartId) (s : State),
  ((s.sess p).isOpen = true →
    (∀ a n : Word64, a.toNat < (s.sess p).nextSeq → (s.sess p).slots = [] →
      ∃ t, exec (.wortAck p a n) s = .next t ∧ (t.sess p).ackSeq = max a.toNat (s.sess p).ackSeq ∧
        (t.sess p).msgs = (s.sess p).msgs.filter (fun m => decide (max a.toNat (s.sess p).ackSeq < m.1)) ∧
        (t.sess p).nextSeq = (s.sess p).nextSeq ∧
        (n = 0 → t.out = s.out) ∧
        (∀ m i, n ≠ 0 → (t.sess p).msgs.find? (fun m => m.1 == n.toNat) = some m → s.wortPort m.1 = some i →
          t.out = s.out ++ [.eth i 1 (s.wortDgram p i) m.2.2]) ∧
        (∀ q, q ≠ p.val → t.sess q = s.sess q) ∧ State.Only [.out, .regs, .wort] s t ∧
        State.RegsBut [Reg.WORT_PART p, Reg.WORT_PART2 p] s t) ∧
    (∀ step : BitVec 32, ∃ t, exec (.helloAck p step) s = .next t ∧
      t.sess p = { s.sess p with acked := true, baseStep := step.toNat } ∧
      (∀ q, q ≠ p.val → t.sess q = s.sess q) ∧ State.Only [.wort] s t) ∧
    ((s.sess p).msgs = [] → ∀ i, s.wortPort 0 = some i → ∃ t, exec (.keepalive p) s = .next t ∧
      t.out = s.out ++ [.eth i 1 (s.wortDgram p i) (wortMsg 6 (s.part p).session 0 s.module p s.now [])] ∧
      State.Only [.out] s t)) ∧
  (∃ t, exec (.wortRetransmit p) s = .next t ∧ State.Only [.out] s t ∧
    t.out = s.out ++ (s.sess p).msgs.filterMap fun m => (s.wortPort m.1).map fun i =>
      Out.eth i 1 (s.wortDgram p i) m.2.2) ∧
  (∀ b : Word64, ∃ t, exec (.wortRateCheck p b) s = .next t ∧
    t.sess p = { s.sess p with slow := (if (s.sess p).backlog ≠ 0 ∧ b.toNat < 90000 * s.wBase p
      then some (b.toNat / 100000) else none) } ∧
    State.Only [.regs, .wort] s t ∧ State.RegsBut [Reg.WORT_PART p, Reg.WORT_PART2 p] s t)

/-- A port's link speed is what ETH_LINK_CHANGE and MGMT_LINK_CHANGE say; a port with link and address answers a
solicitation of its own address and an echo request; a discarded frame is only counted. -/
def Obligations.EthernetAndManagementPorts : Prop := ∀ (p : Fin 2) (s : State),
  (∀ speed : Fin 3, ∃ t, exec (.ethLinkChange p speed) s = .next t ∧ t.fget (RF.ETH_PORT_LINK p) = speed.val) ∧
  (∀ up : Bool, ∃ t, exec (.mgmtLinkChange p up) s = .next t ∧ t.fbit RF.LOG_STAT_MGLINK p = up ∧
    t.fbit RF.LOG_STAT_MGLINK (1 - p.val) = s.fbit RF.LOG_STAT_MGLINK (1 - p.val) ∧
    State.Only [.regs] s t ∧ State.RegsBut [Reg.LOG_STAT] s t) ∧
  (s.fget (RF.ETH_PORT_LINK p) ≠ 0 → s.ethAddr p ≠ 0 →
    (∀ a : BitVec 128, exec (.neighbourSolicitation p a) s = .next (if s.ethAddr p = a.toNat then
      (s.emit (.eth p 2 (s.ethDgram p []) (beBytes 16 a.toNat))) else s)) ∧
    (∀ (a : BitVec 128) (b : Bytes), exec (.echoRequest p a b) s =
      .next (s.emit (.eth p 3 (s.ethDgram p (beBytes 16 a.toNat)) b)))) ∧
  (∃ t, exec (.ethFrameDiscard p) s = .next t ∧
    t.fget (RF.ETH_PORT_DROP p) = satAdd (RF.ETH_PORT_DROP p).w (s.fget (RF.ETH_PORT_DROP p)) 1 ∧
    State.Only [.regs] s t ∧ State.RegsBut [Reg.ETH_PORT p] s t)

/-! Capping (R273 to R285). -/

/-- CAP_OPEN opens the named cap on its die. CAP_VOTE is kept until every bound command has completed; then the
die votes ready, or sour where told so or where a sour was met, and waits while another die of the job has not
voted. CAP_ABORT asks the coordinator of another module; CAP_SEAL makes the witness keep an abort vector. -/
def Obligations.CapCommandsOfACore : Prop := ∀ (c : CoreId) (s s1 : State) (w : CmdWord),
  (s.Fetches c 0x84 s1 w → reservedZero w [(0, 20), (24, 8)] = true → s1.capState (dieOf c) = 0 →
    fld w 18 2 < 2 → (s.coreRec c).ctx.job ≠ 0 →
    (∃ g, s1.group (s.coreRec c).ctx.job (fld w 8 10) = some g ∧ g.capg = true ∧
      (g.index (s1.module + 4096 * 8)).isSome = true) →
    ∃ t, exec (.capOpen c) s = .next t ∧ s.WentOn t c ∧ t.capState (dieOf c) = 1 ∧ t.capVote (dieOf c) = 0 ∧
      t.dieCap (dieOf c) =
        { key := ⟨(s.coreRec c).ctx.job, fld w 8 10, (s.coreRec c).ctx.step % 2 ^ 32, fld w 24 8⟩
          kind := fld w 18 2, opened := s1.clk } ∧
      t.fget (RF.CAP_DIE_STAT_GID (dieOf c)) = fld w 8 10 ∧ t.fget (RF.CAP_DIE_STAT_ATT (dieOf c)) = fld w 24 8 ∧
      State.Only [.regs, .core, .cap] s1 t ∧ State.RegsBut [Reg.CAP_DIE_STAT (dieOf c)] s1 t) ∧
  (s.Fetches c 0x85 s1 w → reservedZero w [(0, 8), (16, 2), (32, 10)] = true → s1.capState (dieOf c) = 1 →
    (fld w 16 2 = 0 ∨ fld w 16 2 = 2) → (s1.dieCap (dieOf c)).vote = none → ∀ v : Nat × Nat × Nat × Nat,
    v = (fld w 16 2, c.val, (s.coreRec c).seq, fld w 32 10) →
    ((s1.dieCap (dieOf c)).bound ≠ [] →
      ∃ t, exec (.capVote c) s = .next t ∧ s.Issued t c 0x85 ∧
        t.dieCap (dieOf c) = { s1.dieCap (dieOf c) with vote := some v } ∧ State.Only [.core, .cap] s1 t) ∧
    ((s1.dieCap (dieOf c)).bound = [] → (s1.dieCap (dieOf c)).slot = none → (s1.dieCap (dieOf c)).failed = false →
      (fld w 16 2 = 2 ∨ (s1.dieCap (dieOf c)).sour = true ∨ s1.noRate (dieOf c) = false) →
      (∃ e < 8, e ≠ dieOf c ∧ s1.dieJob e = (s1.dieCap (dieOf c)).key.job ∧ s1.capState e = 0) →
      (∀ e < 8, s1.dieJob e = (s1.dieCap (dieOf c)).key.job → s1.dieAbsorbs e = false ∧ s1.capVote e ≠ 3) →
      (s1.hiveCap (s1.dieCap (dieOf c)).key).vec = none →
      ∃ t, exec (.capVote c) s = .next t ∧ s.Issued t c 0x85 ∧ t.capState (dieOf c) = 2 ∧
        t.capVote (dieOf c) = (if fld w 16 2 = 2 ∨ (s1.dieCap (dieOf c)).sour = true then 2 else 1) ∧
        t.dieCap (dieOf c) = { s1.dieCap (dieOf c) with vote := some v } ∧
        State.Only [.regs, .core, .cap] s1 t ∧ State.RegsBut [Reg.CAP_DIE_STAT (dieOf c)] s1 t)) ∧
  (s.sealWord c false = true → s.Fetches c 0x86 s1 w → reservedZero w [(0, 9)] = true →
    s1.capState (dieOf c) ≠ 0 → ∀ g, s1.group (s1.dieCap (dieOf c)).key.job (s1.dieCap (dieOf c)).key.gid = some g →
    (s1.hiveCap (s1.dieCap (dieOf c)).key).vec = none → g.cMod ≠ s1.module →
    ∃ t, exec (.capAbort c) s = .next t ∧ s.Issued t c 0x86 ∧ s1.SentTo t 9 g.cMod ∧
      t.cap.aborts = s1.cap.aborts ++ [((s1.dieCap (dieOf c)).key, c.val, (s.coreRec c).seq)] ∧
      State.Only [.out, .core, .cap] s1 t) ∧
  (s.sealWord c true = true → s.Fetches c 0x86 s1 w → reservedZero w [(0, 9)] = true →
    s1.capState (dieOf c) ≠ 0 → ∀ g, s1.group (s1.dieCap (dieOf c)).key.job (s1.dieCap (dieOf c)).key.gid = some g →
    g.witv = true → g.wMod = s1.module → s1.modFenced g.cMod = true →
    s1.witCap (s1.dieCap (dieOf c)).key = none →
    ∃ t, exec (.capSeal c) s = .next t ∧ t.Closed c (s.coreRec c).seq ∧
      t.witCap (s1.dieCap (dieOf c)).key = some
        { key := (s1.dieCap (dieOf c)).key, vec := 3 :: List.replicate (g.nmem - 1) 0, rta := true
          sealed := true, full := true })

/-- A cap of one module commits on the module itself: the last die's ready vote makes the hive vote, the
coordinator decides, and every die that holds the cap learns it: here one die without a slot, whose CAP_VOTE
completes OK with its counter and those of the bound commands. -/
def Obligations.ReadyVotesCommitTheCap : Prop := ∀ (c : CoreId) (s s1 : State) (w : CmdWord) (g : Group),
  s.Fetches c 0x85 s1 w → reservedZero w [(0, 8), (16, 2), (32, 10)] = true → fld w 16 2 = 0 →
  s1.capState (dieOf c) = 1 → (s1.dieCap (dieOf c)).vote = none → (s1.dieCap (dieOf c)).bound = [] →
  (s1.dieCap (dieOf c)).slot = none → (s1.dieCap (dieOf c)).sour = false → (s1.dieCap (dieOf c)).held = false →
  (s1.dieCap (dieOf c)).failed = false → s1.noRate (dieOf c) = false →
  (s1.dieCap (dieOf c)).key.job ≠ 0 → s1.dieJob (dieOf c) = (s1.dieCap (dieOf c)).key.job →
  s1.dieAbsorbs (dieOf c) = false → (∀ e < 8, e ≠ dieOf c → s1.dieJob e ≠ (s1.dieCap (dieOf c)).key.job ∧
    s1.capState e = 0) →
  s1.group (s1.dieCap (dieOf c)).key.job (s1.dieCap (dieOf c)).key.gid = some g → g.nmem = 1 →
  g.members = [s1.module + 4096 * 8] → g.witv = false → s1.cap.hives = [] → s1.cap.coord = [] → s1.cap.aborts = [] →
  (∀ n ∈ (s1.dieCap (dieOf c)).dcnts, n < 1024) →
  ∃ t, exec (.capVote c) s = .next t ∧ t.capState (dieOf c) = 0 ∧ t.dieCap (dieOf c) = {} ∧
    t.Closed c (s.coreRec c).seq ∧
    s1.Counted t ((s1.dieCap (dieOf c)).dcnts.map (fun n => (dieOf c, n)) ++ [(dieOf c, fld w 32 10)]) ∧
    t.fget RF.CAP_CNT_COMMITS = satAdd RF.CAP_CNT_COMMITS.w (s1.fget RF.CAP_CNT_COMMITS) 1 ∧
    (t.hiveCap (s1.dieCap (dieOf c)).key).vec = some [1] ∧ (∀ k, t.byte k = s1.byte k)

/-- The decision follows from the vector alone: commit exactly when every member voted ready and no abort was
requested; and merging votes never turns an abort into a commit. -/
def Obligations.DecisionComesFromTheVector : Prop := ∀ (v w : List Nat) (rta : Bool),
  (decision v rta = stOK ↔ rta = false ∧ ∀ x ∈ v, x = 1) ∧
  (rta = true → decision v rta = stABORTED) ∧
  (rta = false → (∃ x ∈ v, x = 3 ∨ x = 0) → decision v rta = stCAPFAILED) ∧
  (rta = false → (∀ x ∈ v, x = 1 ∨ x = 2) → 2 ∈ v → decision v rta = stSOUR) ∧
  ((∀ x ∈ v, x < 4) → (∀ x ∈ w, x < 4) → v.length = w.length → (∃ x ∈ v, x = 2 ∨ x = 3) →
    decision (orVec v w) false ≠ stOK)

/-- Votes are merged at the collecting coordinator; at another hive of the tree they are merged and what has changed
rises toward it; one for a decided cap is counted and answered with the vector. A vector goes on down the tree; one
that is whole makes the hive know it, and one still in parts is kept. The witness keeps a whole vector and
acknowledges it. The acknowledgement makes the coordinator send. A holder of the vector answers an ask with it. An
abort request decides a collecting cap, and goes on toward another coordinator. -/
def Obligations.CapvCellsDoTheirWork : Prop := ∀ (s : State) (x : CellW) (g : Group),
  (s.CapvIn x 0 g →
    (g.cMod ≠ s.module → ∀ old now, old = orVec (List.replicate g.nmem 0) (s.hiveCap (capvKey x)).merged →
      now = orVec old (capvVotes g x) →
      ∃ t, exec (.capvVote x) s = .next t ∧ (t.hiveCap (capvKey x)).merged = now ∧
        (packVec now ≠ packVec old → ∀ m ∈ s.capHops g true, s.SentTo t 9 m) ∧
        (packVec now = packVec old → t.out = s.out) ∧ State.Only [.out, .cap] s t) ∧
    (g.cMod = s.module → (s.hiveCap (capvKey x)).vec = none → ∀ k v, s.coordCap (capvKey x) = some k → k.st = 1 →
      v = orVec k.vec (capvVotes g x) →
      v.all (fun y => decide (y ≠ 2 ∧ y ≠ 3)) = true → v.any (fun y => decide (y ≠ 1)) = true →
      ∃ t, exec (.capvVote x) s = .next t ∧ t.coordCap (capvKey x) = some { k with vec := v } ∧
        State.Only [.cap] s t) ∧
    (g.cMod = s.module → ∀ v, (s.hiveCap (capvKey x)).vec = some v → v ≠ [] → Cell.srcMod x ≠ s.module →
      ∃ t, exec (.capvVote x) s = .next t ∧ s.SentTo t 9 (Cell.srcMod x) ∧
        t.fget RF.CAP_LATE_LATE = satAdd RF.CAP_LATE_LATE.w (s.fget RF.CAP_LATE_LATE) 1 ∧
        State.Only [.out, .regs] s t ∧ State.RegsBut [RF.CAP_LATE_LATE.off] s t)) ∧
  (s.CapvIn x 1 g → (s.hiveCap (capvKey x)).vec = none →
    (capvWhole g (capvJoin (s.hiveCap (capvKey x)).got x) = none →
      ∃ t, exec (.capvVector x) s = .next t ∧ (t.hiveCap (capvKey x)).got = capvJoin (s.hiveCap (capvKey x)).got x ∧
        (t.hiveCap (capvKey x)).vec = none ∧ (∀ m ∈ s.capHops g false, s.SentTo t 9 m) ∧
        State.Only [.out, .cap] s t) ∧
    (∀ v, capvWhole g (capvJoin (s.hiveCap (capvKey x)).got x) = some v → s.NoDieCap → s.cap.aborts = [] →
      (capvKey x).job ≠ 0 →
      ∃ t, exec (.capvVector x) s = .next t ∧ (t.hiveCap (capvKey x)).vec = some v ∧
        (t.hiveCap (capvKey x)).rta = capvRta x ∧ (∀ m ∈ s.capHops g false, s.SentTo t 9 m) ∧
        t.fget RF.CAP_CNT_COMMITS = satAdd RF.CAP_CNT_COMMITS.w (s.fget RF.CAP_CNT_COMMITS)
          (b2n (decide (decision v (capvRta x) = stOK))) ∧
        t.fget RF.CAP_CNT_ABORTS = satAdd RF.CAP_CNT_ABORTS.w (s.fget RF.CAP_CNT_ABORTS)
          (b2n (decide (decision v (capvRta x) ≠ stOK))) ∧
        State.Only [.out, .regs, .cap] s t ∧ State.RegsBut [RF.CAP_CNT_COMMITS.off] s t)) ∧
  (s.CapvIn x 2 g → s.witCap (capvKey x) = none → ∀ v, capvWhole g (capvJoin [] x) = some v →
    ∃ t, exec (.capvWitnessVector x) s = .next t ∧ t.witCap (capvKey x) = some
        { key := capvKey x, vec := v, got := capvJoin [] x, full := true } ∧ s.SentTo t 9 (Cell.srcMod x) ∧
      State.Only [.out, .cap] s t) ∧
  (s.CapvIn x 3 g → ∀ k, s.coordCap (capvKey x) = some k → k.st = 2 → k.vec ≠ [] →
    ∃ t, exec (.capvWitnessAck x) s = .next t ∧
      t.coordCap (capvKey x) = some { k with st := if s.allHere g then 4 else 3, rta := capvRta x } ∧
      ∀ m ∈ s.capHops g false, s.SentTo t 9 m) ∧
  (s.CapvIn x 4 g →
    (∀ v rta, s.heldVec (capvKey x) = some (v, rta) → v ≠ [] →
      ∃ t, exec (.capvAsk x) s = .next t ∧ s.SentTo t 9 (Cell.srcMod x) ∧ State.Only [.out, .regs] s t ∧
        State.RegsBut [RF.CAP_LATE_LATE.off] s t) ∧
    (g.cMod = s.module → s.heldVec (capvKey x) = none → s.coordCap (capvKey x) = none →
      (capvKey x).att < s.newestAtt (capvKey x) → Cell.srcMod x ≠ s.module →
      ∃ t, exec (.capvAsk x) s = .next t ∧ s.SentTo t 7 (Cell.srcMod x) ∧
        t.fget RF.CAP_LATE_LATE = satAdd RF.CAP_LATE_LATE.w (s.fget RF.CAP_LATE_LATE) 1 ∧
        State.Only [.out, .regs] s t ∧ State.RegsBut [RF.CAP_LATE_LATE.off] s t)) ∧
  (s.CapvIn x 5 g →
    (g.cMod ≠ s.module → ∃ t, exec (.capvAbortRequest x) s = .next t ∧ s.SentTo t 9 g.cMod ∧
      State.Only [.out] s t) ∧
    (g.cMod = s.module → (s.hiveCap (capvKey x)).vec = none → ∀ k, s.coordCap (capvKey x) = some k → k.st = 1 →
      ∃ t, exec (.capvAbortRequest x) s = .next t ∧
        t.coordCap (capvKey x) = some { k with st := if s.allHere g then 4 else 3, rta := true }))

/-- VOTE_TO_EXPIRE makes a collecting coordinator send what it has. CAP_ASK_TIMER makes a voted die ask, or the queen
for its switch cap. CAPTO_EXPIRE fails the vote of an open cap, and puts a voted one without its vector in doubt, with
CAP_VOTE completing TIMEOUT. CAP_RECORD_FREE drops a decided record. -/
def Obligations.CapTimersExpire : Prop := ∀ (s : State),
  (∀ (n : CapName) (k : CoordCap) (g : Group), s.coordCap (capKeyOf n) = some k →
    s.group (capKeyOf n).job (capKeyOf n).gid = some g → k.st = 1 →
    ∃ t, exec (.voteToExpire n) s = .next t ∧
      t.coordCap (capKeyOf n) = some { k with st := if s.allHere g then 4 else 3 } ∧
      (k.vec ≠ [] → ∀ m ∈ s.capHops g false, s.SentTo t 9 m)) ∧
  (∀ (d : DieId) (g : Group), (s.capState d = 2 ∨ s.capState d = 3 ∨ s.capState d = 4) →
    s.group (s.dieCap d).key.job (s.dieCap d).key.gid = some g → (s.hiveCap (s.dieCap d).key).askW = false →
    g.cMod ≠ s.module →
    ∃ t, exec (.capAskTimer ⟨d.val, by omega⟩) s = .next t ∧ t.capState d = max 3 (s.capState d) ∧
      s.SentTo t 9 g.cMod ∧ (t.hiveCap (s.dieCap d).key).askW = true ∧ State.Only [.out, .regs, .cap] s t ∧
      State.RegsBut [Reg.CAP_DIE_STAT d] s t) ∧
  (∀ (k : CapKey) (g : Group), s.swAsks = some k → s.group k.job k.gid = some g → (s.hiveCap k).askW = false →
    g.cMod ≠ s.module →
    ∃ t, exec (.capAskTimer 8) s = .next t ∧ s.SentTo t 9 g.cMod ∧ (t.hiveCap k).askW = true ∧
      State.Only [.out, .cap] s t) ∧
  (∀ (d : DieId), s.capState d = 1 →
    (∀ g, s.group (s.dieCap d).key.job (s.dieCap d).key.gid = some g → g.cMod ≠ s.module) →
    (s.hiveCap (s.dieCap d).key).vec = none →
    ∃ t, exec (.captoExpire ⟨d.val, by omega⟩) s = .next t ∧ t.capState d = 2 ∧ t.capVote d = 3 ∧
      t.dieCap d = { s.dieCap d with failed := true } ∧ State.Only [.out, .regs, .cap] s t) ∧
  (∀ (d : DieId) (force core seq cnt : Nat), (s.capState d = 2 ∨ s.capState d = 3) → (s.dieCap d).held = false →
    (s.dieCap d).vote = some (force, core, seq, cnt) → core < 2048 →
    ∃ t, exec (.captoExpire ⟨d.val, by omega⟩) s = .next t ∧ t.capState d = 4 ∧ t.Closed core seq ∧
      t.fget RF.CAP_LATE_INDOUBT = satAdd RF.CAP_LATE_INDOUBT.w (s.fget RF.CAP_LATE_INDOUBT) 1 ∧
      t.dieCap d = s.dieCap d ∧ State.Only [.regs, .core, .log, .host] s t) ∧
  (∀ (n : CapName) (k : CoordCap), s.coordCap (capKeyOf n) = some k → (k.st = 3 ∨ k.st = 4) →
    ∃ t, exec (.capRecordFree n) s = .next t ∧ t.coordCap (capKeyOf n) = none ∧
      (∀ m, m ≠ capKeyOf n → t.coordCap m = s.coordCap m) ∧ State.Only [.cap] s t)

/-! Swarm engines (R255 to R272, R286, R287). -/

/-- SWM_BCAST, SWM_REDUCE and SWM_PERMUTE join the op that their group and number name, whose number their die
then moves past; where no permute cell waits in the buffer, only a permute can have written memory by then. While
their cap rolls back they complete without acting. Contributions of a reduction combine in any order. -/
def Obligations.SwarmCommandsJoinTheirOp : Prop :=
  (∀ (c : CoreId) (s s1 : State) (w : CmdWord) (i : Instr) (opc : Nat) (g : Group) (n idx key : Nat),
    (i, opc) ∈ [(Instr.swmBcast c, 0x80), (.swmReduce c, 0x81), (.swmPermute c, 0x83)] →
    s.Fetches c opc s1 w → s1.Sound → pick (s1.swConds (dieOf c) (s.coreRec c).ctx w) = none →
    s1.group (s.coreRec c).ctx.job (swGID w) = some g → s1.dieIdx g (dieOf c) = some idx →
    key = dieOf c * 2 ^ 18 + g.job * 1024 + g.gid → n = s1.swm.opseq.get 0 key →
    (g.job, g.gid, n) ∉ s1.swm.badOps →
    (s1.capState (dieOf c) = 6 → ∃ t, exec i s = .next t ∧ s.WentOn t c ∧ State.Only [.core] s1 t) ∧
    (s1.capState (dieOf c) ≠ 6 → ∃ t, exec i s = .next t ∧ s.Issued t c opc ∧ t.swm.opseq.get 0 key = (n + 1) % 2 ^ 32 ∧
      (∀ k, k ≠ key → t.swm.opseq.get 0 k = s1.swm.opseq.get 0 k) ∧
      (∃ o ∈ t.swm.ops, o.is g.job g.gid n = true ∧ o.members = (s1.swmOp g.job g.gid n).members ++
        [{ die := dieOf c, idx := idx, cut := swCut g w idx
           job := { core := c.val, seq := (s.coreRec c).seq, ctx := (s.coreRec c).ctx, word := w
                    cap := s1.openCap (dieOf c) } }]) ∧
      (s1.capState (dieOf c) ≠ 0 →
        (t.dieCap (dieOf c)).bound = (s1.dieCap (dieOf c)).bound ++ [(c.val, (s.coreRec c).seq)]) ∧
      (opc ≠ 0x83 → (∀ x ∈ s1.swm.segs, x.held = []) → ∀ k, t.byte k = s1.byte k))) ∧
  (∀ (s : State) (g : Group) (l₁ l₂ : List SwmMember), l₁.Perm l₂ → (∀ m ∈ l₁, fld m.job.word 0 8 = 0x81) → ∀ k,
    (l₁.foldl (fun o m => s.opJoin g o m) {}).sums.get 0 k = (l₂.foldl (fun o m => s.opJoin g o m) {}).sums.get 0 k ∧
    (l₁.foldl (fun o m => s.opJoin g o m) {}).sour.get 0 k = (l₂.foldl (fun o m => s.opJoin g o m) {}).sour.get 0 k)

/-- SWM_OP_COMPLETE of an op whose data are all here: a broadcast or reduce writes its member's results, a permute
puts the incoming pieces in place from staging areas apart from those places; the member leaves the op and its
command completes with its counter.
SWM_OP_TIMEOUT ends the member's command without its counter and fails an open cap it is bound to. SEGMENT_OPEN of
an older epoch is counted and dropped, one of the group's member sum is accepted, and granted and acknowledged
where the buffer has room. SWM_CELL joins its segment's op and is acknowledged, or is counted without one. SWM_REPLAN
raises the group's epoch, drops its segments, and from member 0's module tells the other members' hives. -/
def Obligations.SwarmOpsAndSegmentsAdvance : Prop := ∀ (s : State),
  (∀ (d : DieId) (gid : GroupId) (q : BitVec 32) (o : SwmOp) (m : SwmMember) (g : Group),
    s.findMember d gid q.toNat = some (o, m) → s.group o.job o.gid = some g → m.job.core / 256 = d.val →
    (s.opReady g o = true → s.Sound → (s.dieCap d).vote = none →
      (fld m.job.word 0 8 ≠ 0x83 →
        pick ((s.opWrites g o m).1.flatMap fun x => s.rangeConds d x.1 x.2.length) = none →
        ∃ t, exec (.swmOpComplete d gid q) s = .next t ∧ s.Wrote t (atDie d (s.opWrites g o m).1) ∧
          t.Closed m.job.core m.job.seq ∧ s.Counted t [(d.val, swCNT m.job.word)] ∧
          ∀ x ∈ t.swm.ops, x.is o.job o.gid o.opseq = true → ∀ y ∈ x.members, y.die ≠ d.val) ∧
      (∀ k ps, fld m.job.word 0 8 = 0x83 → (s.dieCap d).slot = some k → m.status ≠ stECC →
        ps = (s.permList d m.job.word).filter (fun e => e.inc) →
        (∀ e ∈ ps, e.diffoff + e.len ≤ 64 * s.fget (RF.UPD_SLOT_CFG_SIZE64 d) ∧
          (e.loc + e.len ≤ s.slotAddr d k ∨
            s.slotAddr d k + slotStride (s.fget (RF.UPD_SLOT_CFG_SIZE64 d)) ≤ e.loc)) →
        (∀ e ∈ ps, (swSTG m.job.word + e.stgoff + e.len ≤ s.slotAddr d k ∨ s.slotAddr d k +
            slotStride (s.fget (RF.UPD_SLOT_CFG_SIZE64 d)) ≤ swSTG m.job.word + e.stgoff) ∧
          ∀ f ∈ ps, overlap (f.loc, f.len) (swSTG m.job.word + e.stgoff, e.len) = false) →
        ∃ t, exec (.swmOpComplete d gid q) s = .next t ∧ t.Closed m.job.core m.job.seq ∧
          s.Counted t [(d.val, swCNT m.job.word)] ∧
          (∀ x ∈ t.swm.ops, x.is o.job o.gid o.opseq = true → ∀ y ∈ x.members, y.die ≠ d.val) ∧
          ∀ key, ¬(d * 2 ^ 40 + s.slotAddr d k ≤ key ∧
              key < d * 2 ^ 40 + s.slotAddr d k + slotStride (s.fget (RF.UPD_SLOT_CFG_SIZE64 d))) →
            t.byte key = (wroteAt (atDie d (ps.map fun e =>
              (e.loc, s.peek d (swSTG m.job.word + e.stgoff) e.len))) key).getD (s.byte key))) ∧
    (s.Unbound m.job.core m.job.seq →
      ∃ t, exec (.swmOpTimeout d gid q) s = .next t ∧ t.Closed m.job.core m.job.seq ∧ s.Counted t [] ∧
        (∀ x ∈ t.swm.ops, x.is o.job o.gid o.opseq = true → ∀ y ∈ x.members, y.die ≠ d.val) ∧
        State.Only [.regs, .core, .swm, .host] s t) ∧
    ((m.job.core, m.job.seq) ∈ (s.dieCap d).bound → s.capState d = 1 → (s.hiveCap (s.dieCap d).key).vec = none →
      (∀ h, s.group (s.dieCap d).key.job (s.dieCap d).key.gid = some h → h.cMod ≠ s.module) →
      ∃ t, exec (.swmOpTimeout d gid q) s = .next t ∧ t.capState d = 2 ∧ t.capVote d = 3 ∧
        t.Closed m.job.core m.job.seq ∧ s.Counted t [])) ∧
  (∀ (x : CellW) (g : Group), Cell.good x = true → s.modFenced (Cell.srcMod x) = false → Cell.seq x = 0 →
    s.group (Cell.job x) (bitsN (Cell.pay x 0 2) 0 10) = some g →
    (Cell.pay x 2 1 ≠ g.epoch →
      ∃ t, exec (.segmentOpen x) s = .next t ∧
        t.fget RF.SWM_CNT_STALE_EP = satAdd RF.SWM_CNT_STALE_EP.w (s.fget RF.SWM_CNT_STALE_EP) 1 ∧
        State.Only [.regs] s t ∧ State.RegsBut [RF.SWM_CNT_STALE_EP.off] s t) ∧
    (Cell.pay x 2 1 = g.epoch → Cell.pay x 16 2 = g.gsum →
      (∀ y ∈ s.swm.segs, y.granted = true ∨ y.latency = true) → ∀ y : Seg,
      y = { srcMod := Cell.srcMod x, srcTgt := Cell.srcTgt x, stream := Cell.stream x, job := Cell.job x
            gid := bitsN (Cell.pay x 0 2) 0 10, opseq := Cell.pay x 4 4, epoch := g.epoch, opk := Cell.pay x 3 1
            elbase := Cell.pay x 12 4, rootm := Cell.pay x 10 2, stripe := Cell.pay x 8 1
            latency := decide (Cell.pay x 8 1 = 0xFF), engine := Cell.pay x 4 4 % 4 } →
      ((y.latency = true ∨ swmBuf < s.swm.bufCells + 4096) →
        ∃ t, exec (.segmentOpen x) s = .next t ∧ t.swm.segs = s.swm.segs ++ [y] ∧ State.Only [.swm] s t) ∧
      (y.latency = false → s.swm.bufCells + 4096 ≤ swmBuf →
        ∃ t, exec (.segmentOpen x) s = .next t ∧ t.swm.segs = s.swm.segs ++ [{ y with granted := true }] ∧
          t.swm.bufCells = s.swm.bufCells + 4096 ∧ s.SentTo t 6 (Cell.srcMod x) ∧
          State.Only [.out, .swm] s t))) ∧
  (∀ (x : CellW), Cell.good x = true → s.modFenced (Cell.srcMod x) = false → Cell.seq x ≠ 0 →
    (s.swm.segs.find? (fun y => y.isKey x) = none →
      ∃ t, exec (.swmCell x) s = .next t ∧
        t.fget RF.SWM_CNT_STALE_EP = satAdd RF.SWM_CNT_STALE_EP.w (s.fget RF.SWM_CNT_STALE_EP) 1 ∧
        State.Only [.regs] s t ∧ State.RegsBut [RF.SWM_CNT_STALE_EP.off] s t) ∧
    (∀ y g, s.swm.segs.find? (fun y => y.isKey x) = some y → s.group y.job y.gid = some g → y.opk ≤ 2 →
      y.job = Cell.job x → y.total = none → Cell.last x = false →
      ∃ t, exec (.swmCell x) s = .next t ∧
        t.swmOp y.job y.gid y.opseq = (s.segJoin g (s.swmOp y.job y.gid y.opseq) y x).2 ∧
        t.swm.segs = s.swm.segs.map (fun z => if z.isKey x then
          { y with got := y.got + Cell.len x, held := if y.opk = 0 then y.held ++ [x] else [] } else z) ∧
        (∃ z, t.out = s.out ++ [.cell z] ∧ Cell.type z = 6 ∧ Cell.dstMod z = Cell.srcMod x ∧
          Cell.pay z 4 4 = (y.got + Cell.len x) % 2 ^ 32) ∧ State.Only [.out, .swm] s t)) ∧
  (∀ (job : BitVec 8) (gid : GroupId) (g : Group), s.group job.toNat gid = some g →
    ∃ t, exec (.swmReplan job gid) s = .next t ∧
      t.group job.toNat gid = some { g with epoch := (g.epoch + 1) % 256 } ∧
      (∀ j k, ¬(j = job.toNat ∧ k = gid.val) → t.group j k = s.group j k) ∧
      (∀ y ∈ t.swm.segs, ¬(y.job = job.toNat ∧ y.gid = gid.val)) ∧
      (g.cMod = s.module → ∀ m ∈ g.mods, m ≠ s.module → s.SentTo t 12 m) ∧
      ((∀ o ∈ s.swm.ops, ¬(o.job = job.toNat ∧ o.gid = gid.val)) →
        t.fget RF.SWM_CNT_REPLAN = satAdd RF.SWM_CNT_REPLAN.w (s.fget RF.SWM_CNT_REPLAN) 1 ∧
        t.swm.ops = s.swm.ops))

/-! Rings, descriptors and the host (R351 to R372, R381, R382). -/

/-- A fetched descriptor that passes its checks starts. LAUNCH starts its cores, or is held for its beat; HDMA to
a die issues its read requests; HDMA to the host reads its first chunk over the die's port, if that is UP, into
the host-write buffer, cut to the maximum payload; either ends REFUSED at a request outside the windows. SETUP
enters the ledger and is done; TEARDOWN is done, and its set-up stays until the completion is written. -/
def Obligations.LaunchHdmaAndSetupsStart : Prop := ∀ (r : RingId) (w : CmdWord) (d : Desc) (s s1 : State),
  (s.Fetched r 1 w [] d s1 →
    (bit w 10 = true → ∃ t, exec (.launch r w) s = .next t ∧
      t.desc r d.tag = some { d with st := 1, heldAt := s.clk } ∧ State.Only [.host] s1 t) ∧
    (bit w 10 = false → ∃ t, exec (.launch r w) s = .next t ∧
      t.desc r d.tag = some { d with st := 2, cores := laCores w } ∧ s1.Launched t d ∧
      State.Only [.regs, .core, .host] s1 t)) ∧
  (s.Fetched r 2 w [] d s1 → s.host.rq = [] → s.host.wq = [] →
    (bit w 32 = false → s.host.reqs = [] → s.host.quar = [] → ∀ l,
      l = cut4k (hdLen w / 4096 + 2) (fld w 64 64) (hdLen w) 0 →
      (l.length ≤ 768 → s.readsOk (s.ringFn r) (fld w 64 64) (hdLen w) = true →
        ∃ t, exec (.hdma r w) s = .next t ∧ t.desc r d.tag = some { d with st := 2 } ∧
          t.out = s.out ++ (l.zipIdx.map fun q => .hostRead (s.ringFn r) q.1.1 q.1.2.1 q.2) ∧
          t.host.rq = [] ∧ State.Only [.out, .host] s1 t) ∧
      (s.readsOk (s.ringFn r) (fld w 64 64) (hdLen w) = false →
        ∃ t, exec (.hdma r w) s = .next t ∧ t.host.rq = [] ∧
          t.desc r d.tag = some { d with st := 3, status := stREFUSED, reason := 0x6B01 } ∧
          State.Only [.out, .regs, .log, .host] s1 t)) ∧
    (bit w 32 = true → s.host.descs = [] → s.host.credits = 0 → s.Sound → hdLen w ≤ hdChunk → ∀ l,
      l = cutPay (hdLen w / Config.maxPayload + 2) (fld w 64 64) (hdLen w) 0 →
      (s.diePortUp (hdDie w) = true → (∀ q ∈ l, s.inWindows (s.ringFn r) q.1 q.2.1 true = true) →
        ∃ t, exec (.hdma r w) s = .next t ∧ t.desc r d.tag = some { d with st := 2, asked := hdLen w } ∧
          t.host.wq = (l.map fun q =>
            { fn := s.ringFn r, addr := q.1, owner := .hdma r d.tag
              data := ((s.peek (hdDie w) (hdOff w) (hdLen w)).drop q.2.2).take q.2.1 }) ∧
          t.out = s.out ∧ State.Only [.regs, .host] s1 t ∧ State.RegsBut
            [Reg.WRK_SRAM_ECC (hdDie w), Reg.WCB_FWD (hdDie w)] s1 t) ∧
      (s.diePortUp (hdDie w) = true → (∀ q ∈ l, s.inWindows (s.ringFn r) q.1 q.2.1 true = false) →
        ∃ t, exec (.hdma r w) s = .next t ∧ t.host.wq = [] ∧
          t.desc r d.tag = some { d with st := 3, asked := hdLen w, status := stREFUSED, reason := 0x6B01 }) ∧
      (s.diePortUp (hdDie w) = false → ∃ t, exec (.hdma r w) s = .next t ∧
        t.desc r d.tag = some { d with st := 2 } ∧ State.Only [.host] s1 t))) ∧
  (∀ blk, s.Fetched r 3 w blk d s1 →
    ∃ t u, exec (.setup r w blk) s = .next t ∧
      t.desc r d.tag = some { d with st := 3, status := stOK, detail := s.freeHandle } ∧
      u ∈ t.host.setups ∧ u.handle = s.freeHandle ∧ u.fn = s.ringFn r ∧ u.kind = leAt d.blk 0 1 ∧
      (leAt d.blk 0 1 = 3 → ∀ g, g = imageGroup (s.ringFn r) s.freeHandle (d.blk.drop 32) →
        t.group g.job g.gid = some g) ∧
      ∀ k, (leAt d.blk 0 1 = 1 → ∀ e i lo z, u.covers e = true → z = t.fget (RF.UPD_SLOT_CFG_SIZE64 e) →
          lo = e * 2 ^ 40 + t.slotAddr e i + z * 64 → k < lo ∨ lo + (z + 7) / 8 ≤ k) →
        t.byte k = s.byte k) ∧
  (s.Fetched r 4 w [] d s1 →
    ∃ t, exec (.teardown r w) s = .next t ∧ t.desc r d.tag = some { d with st := 3, status := stOK } ∧
      t.host.setups = s.host.setups ∧ State.Only [.host] s1 t)

/-- ABORT: a done target answers it TOO_LATE; one that has not started is done HOST_ABORT at once; a running HDMA
ends with its bytes moved; a running launch's cores stop. PARTITION creates a partition with its dies, JOB and
deadline, or gives its dies back; RECLAIM freezes the partition's rings and stops its kernels. -/
def Obligations.AbortPartitionAndReclaimStart : Prop := ∀ (r : RingId) (w : CmdWord) (d : Desc) (s s1 : State),
  (s.Fetched r 5 w [] d s1 → ∀ x, s1.abortTarget d = some x → s1.desc x.ring x.tag = some x →
    (x.st = 3 → ∃ t, exec (.abort r w) s = .next t ∧
      t.desc r d.tag = some { d with st := 3, status := stTOOLATE } ∧
      t.desc x.ring x.tag = some { x with aborted := true } ∧ State.Only [.host] s1 t) ∧
    (x.st < 2 → ∃ t, exec (.abort r w) s = .next t ∧ t.desc r d.tag = some { d with st := 3, status := stOK } ∧
      t.desc x.ring x.tag = some { x with
        aborted := true, st := 3, status := stHOSTABORT, reason := 0
        detail := if fld x.word 0 8 = 1 then fld x.word 240 16 + 2 ^ 16 * fld x.word 32 11 else 0 } ∧
      State.Only [.host] s1 t) ∧
    (x.st = 2 → fld x.word 0 8 = 2 → ∃ t, exec (.abort r w) s = .next t ∧
      t.desc r d.tag = some { d with st := 3, status := stOK } ∧
      t.desc x.ring x.tag = some { x with
        aborted := true, st := 3, status := stHOSTABORT, reason := 0, detail := x.moved % 2 ^ 32 } ∧
      (∀ h ∈ t.host.wq, h.owner ≠ .hdma x.ring x.tag) ∧ State.Only [.host] s1 t) ∧
    (x.st = 2 → fld x.word 0 8 = 1 → s.NoDieCap → (∀ c ∈ x.cores, c < 2048) →
      ∃ t, exec (.abort r w) s = .next t ∧ t.desc r d.tag = some { d with st := 3, status := stOK } ∧
        (∀ c ∈ x.cores, s.Stopped t c) ∧ ∀ c, c ∉ x.cores → t.coreRec c = s.coreRec c)) ∧
  (s.Fetched r 6 w [] d s1 → ∀ p : PartId, ptPART w = p →
    (bit w 32 = false → ∃ t, exec (.partitionCreate r w) s = .next t ∧
      t.desc r d.tag = some { d with st := 3, status := stOK } ∧
      t.fget (RF.HIVE_PART_VALID p) = 1 ∧ t.fget (RF.HIVE_PART_RECLAIM p) = 0 ∧ t.fget (RF.HIVE_PART_RESET p) = 0 ∧
      t.fget (RF.HIVE_PART_DIEMASK p) = fld w 40 8 ∧ t.fget (RF.HIVE_PART_JOB p) = fld w 48 8 ∧
      t.fget (RF.HIVE_PART_RDL p) = fld w 64 16 ∧
      (∀ k < 8, t.owner k = (if bitN (fld w 40 8) k then p.val + 1 else s.owner k) ∧
        t.dieJob k = (if bitN (fld w 40 8) k then fld w 48 8 else s.dieJob k)) ∧
      t.part p = { sport := fld w 80 16, session := fld w 96 32, saddr := leBytes 16 (fld w 128 128)
                   rdl := fld w 64 16 } ∧ State.Only [.regs, .host, .wort] s1 t) ∧
    (bit w 32 = true → ∃ t, exec (.partitionDestroy r w) s = .next t ∧
      t.desc r d.tag = some { d with st := 3, status := stOK } ∧ t.fget (RF.HIVE_PART_VALID p) = 0 ∧
      (∀ k < 8, t.owner k = (if s.owner k = p.val + 1 then 0 else s.owner k) ∧
        t.dieJob k = (if s.owner k = p.val + 1 then 0 else s.dieJob k)) ∧ t.part p = {} ∧
      State.Only [.regs, .host, .wort] s1 t)) ∧
  (s.Fetched r 7 w [] d s1 → s.NoDieCap → ∀ p : PartId, rcPART w = p → s.fget (RF.HIVE_PART_RESET p) = 0 →
    ∃ t, exec (.reclaim r w) s = .next t ∧ t.desc r d.tag = some { d with st := 2 } ∧
      t.fget (RF.HIVE_PART_RECLAIM p) = 1 ∧
      (t.part p).reclaim = some { ring := r, tag := d.tag, d := rcD w, start := s.clk } ∧
      (∀ n < 1024, s.ringFn n = p + 1 → t.ringState n ≠ 1) ∧
      (∀ c < 2048, s.owner (dieOf c) = p + 1 → s.Stopped t c) ∧ .msix (p.val + 1) 0 ∈ t.out)

/-- DESCRIPTOR_COMPLETE writes a done descriptor's completion, with its vector where the count is reached, or holds it
while there is no room; with that of a TEARDOWN its set-up leaves the ledger. A held launch starts at its beat. The
deadline of a reclaim drops what the store has not acknowledged and ends the wait for a member in doubt; its release
zeroes the dies' memory, gives them back and completes it. -/
def Obligations.DescriptorsCompleteAndReclaimEnds : Prop := ∀ (s : State),
  (∀ (r : RingId) (d : Desc), s.host.descs = [d] → d.ring = r.val → d.st = 3 → s.complWaits d = false →
    d.tag < 2 ^ 16 → (s.ringRec r).held = [] → (s.ringRec r).closing = false →
    s.fget (RF.RING_CQ_LOG2 r) ≤ 10 → ∀ c, c = s.complBytes d (s.finalStatus d) →
    (fld d.word 0 8 ≠ 4 ∨ d.status ≠ stOK → s.cqRoom r → ∃ t, exec (.descriptorComplete r (BitVec.ofNat 16 d.tag)) s = .next t ∧ t.host.descs = [] ∧
      t.out = s.out ++ s.cqOut r c :: (if bit d.word 8 = true ∧
        s.fget (RF.RING_CFG_CQ_CNT r) ≤ (s.ringRec r).irq + 1 then
          [.msix (s.ringFn r) (s.fget (RF.RING_CFG_VEC r))] else []) ∧
      t.fget (RF.RING_STAT_CQTAIL r) = (s.fget (RF.RING_STAT_CQTAIL r) + 1) %
        qEntries (s.fget (RF.RING_CQ_LOG2 r)) ∧
      State.Only [.out, .regs, .host] s t ∧ State.RegsBut [Reg.RING_STAT r] s t) ∧
    (fld d.word 0 8 ≠ 4 ∨ d.status ≠ stOK →
      s.bmeOn (s.ringFn r) = false ∨ qEntries (s.fget (RF.RING_CQ_LOG2 r)) ≤ s.cqUsed r + 1 →
      ∃ t, exec (.descriptorComplete r (BitVec.ofNat 16 d.tag)) s = .next t ∧ t.host.descs = [] ∧
        (t.ringRec r).held = [(c, bit d.word 8)] ∧ t.fget (RF.RING_STAT_HELD r) = 1 ∧
        State.Only [.regs, .host] s t ∧ State.RegsBut [Reg.RING_STAT r] s t) ∧
    (fld d.word 0 8 = 4 → d.status = stOK → ∀ u, s.host.setups.find? (fun u => u.handle == fld d.word 32 16) = some u →
      ∃ t, exec (.descriptorComplete r (BitVec.ofNat 16 d.tag)) s = .next t ∧ t.host.descs = [] ∧
        (s.cqRoom r → s.cqOut r c ∈ t.out) ∧
        t.host.setups = s.host.setups.filter (fun v => v.handle != fld d.word 32 16) ∧
        (u.kind = 3 → t.group u.job u.gid = none))) ∧
  (∀ (r : RingId) (tag : BitVec 16) (d : Desc), s.desc r tag.toNat = some d → d.st = 1 → s.ringState r = 1 →
    s.beatAligned d = true → pick (s.launchConds (s.ringFn r) d.word) = none →
    ∃ t, exec (.beatLaunchStart r tag) s = .next t ∧
      t.desc r tag.toNat = some { d with st := 2, cores := laCores d.word } ∧ s.Launched t d ∧
      State.Only [.regs, .core, .host] s t) ∧
  (∀ (p : PartId) (rc : Reclaim), (s.part p).reclaim = some rc →
    ((∃ w ∈ (s.sess p).slots, w.sending = true) ∨ ∃ k < 8, s.owner k = p + 1 ∧ s.capState k = 4) →
    ∃ t, exec (.reclaimWortDeadline p) s = .next t ∧ (t.part p).reclaim = some { rc with late := true } ∧
      t.sess p = { s.sess p with slots := (s.sess p).slots.filter (fun w => !w.sending), msgs := [] } ∧
      (∀ w ∈ (s.sess p).slots, w.sending = true → w.die < 8 → w.slot < 8 →
        t.fget (RF.UPD_SLOT_STATE_STATE w.die w.slot) = 0) ∧
      State.Only [.regs, .mem, .upd, .host, .wort] s t) ∧
  (∀ (p : PartId) (rc : Reclaim) (d : Desc), (s.part p).reclaim = some rc → s.fget (RF.HIVE_PART_RESET p) = 0 →
    s.reclaimReady p rc.late = true → s.desc rc.ring rc.tag = some d → d.st = 2 → s.ringFn rc.ring ≠ p + 1 →
    ∃ t, exec (.reclaimRelease p) s = .next t ∧
      t.desc rc.ring rc.tag = some { d with
        st := 3, status := if rc.late then stTIMEOUT else stOK, reason := 0
        detail := (s.clk - rc.start) / 1000000 } ∧
      (∀ k < 8, s.owner k = p + 1 → t.owner k = 0 ∧ t.dieJob k = 0 ∧ t.capState k = 0 ∧
        ∀ a, (a < 2 ^ 37 ∨ sramBase ≤ a ∧ a < sramBase + sramSize) → t.byte (k * 2 ^ 40 + a) = 0) ∧
      (∀ key, s.owner (key / 2 ^ 40) ≠ p + 1 → t.byte key = s.byte key) ∧
      t.fget (RF.HIVE_PART_VALID p) = 0 ∧ t.part p = {} ∧
      (∀ u ∈ t.host.setups, u.fn ≠ p + 1) ∧ ∀ n < 1024, s.ringFn n = p + 1 → t.ringState n = 0)

/-- SQ_TAIL and CQ_HEAD move the ring their function and index name, or put it in ERROR on a value outside its queue;
a freed entry takes a held completion. IRQ_HOLD_EXPIRE signals what is pending. Enabling a ring that passes its checks
makes it ACTIVE (FROZEN without bus mastering, waiting before READY); disabling an idle one makes it DISABLED. -/
def Obligations.DoorbellsAndRingStates : Prop := ∀ (s : State),
  (∀ (f : FnId) (x : Fin 256) (v : BitVec 32) (n : Nat), s.ringOf f x = some n →
    (qEntries (s.fget (RF.RING_SQ_LOG2 n)) ≤ fld v 0 16 → ∃ t, exec (.sqTail f x v) s = .next t ∧
      t.ringState n = 3 ∧ (s.ringState n ≠ 3 → t.fget (RF.RING_STAT_CAUSE n) = 1)) ∧
    (fld v 0 16 < qEntries (s.fget (RF.RING_SQ_LOG2 n)) → ∃ t, exec (.sqTail f x v) s = .next t ∧
      t.ringRec n = { s.ringRec n with
        tail := fld v 0 16
        bells := (s.ringRec n).bells ++ List.replicate ((fld v 0 16 + qEntries (s.fget (RF.RING_SQ_LOG2 n)) -
          (s.ringRec n).tail) % qEntries (s.fget (RF.RING_SQ_LOG2 n))) (s.host.bellNo + 1) } ∧
      State.Only [.host] s t) ∧
    (qEntries (s.fget (RF.RING_CQ_LOG2 n)) ≤ fld v 0 16 → ∃ t, exec (.cqHead f x v) s = .next t ∧
      t.ringState n = 3 ∧ (s.ringState n ≠ 3 → t.fget (RF.RING_STAT_CAUSE n) = 1)) ∧
    (fld v 0 16 < qEntries (s.fget (RF.RING_CQ_LOG2 n)) → (s.ringRec n).closing = false →
      ((s.ringRec n).held = [] → ∃ t, exec (.cqHead f x v) s = .next t ∧
        t.ringRec n = { s.ringRec n with head := fld v 0 16 } ∧ State.Only [.host] s t) ∧
      (∀ c b, (s.ringRec n).held = [(c, b)] →
        (s.setRing n { s.ringRec n with head := fld v 0 16 }).cqRoom n →
        ∃ t, exec (.cqHead f x v) s = .next t ∧ (t.ringRec n).held = [] ∧ s.cqOut n c ∈ t.out ∧
          t.fget (RF.RING_STAT_HELD n) = 0 ∧ State.Only [.out, .regs, .host] s t))) ∧
  (∀ r : RingId, (s.ringRec r).irq ≠ 0 → ∃ t, exec (.irqHoldExpire r) s = .next t ∧
    t.out = s.out ++ [.msix (s.ringFn r) (s.fget (RF.RING_CFG_VEC r))] ∧
    t.ringRec r = { s.ringRec r with irq := 0 } ∧ State.Only [.out, .host] s t) ∧
  (∀ (f : FnId) (r : RingId), s.fget (RF.RING_CFG_EN r) = 0 → s.ringState r = 0 →
    (s.fget RF.QN_BOOT_STAT_READY ≠ 0 → pick (s.ringConds f r) = none →
      ∃ t, exec (.ringEnable f r) s = .next t ∧ t.fget (RF.RING_CFG_EN r) = 1 ∧
        t.ringState r = (if s.bmeOn (s.ringFn r) then 1 else 2) ∧ t.fget (RF.RING_STAT_SQHEAD r) = 0 ∧
        t.fget (RF.RING_STAT_CQTAIL r) = 0 ∧ t.ringRec r = { frzBme := !s.bmeOn (s.ringFn r) } ∧
        State.Only [.regs, .host] s t ∧ State.RegsBut [Reg.RING_CFG r, Reg.RING_STAT r] s t) ∧
    (s.fget RF.QN_BOOT_STAT_READY ≠ 0 → ∀ q, q < 2 ^ 16 → pick (s.ringConds f r) = some q →
      ∃ t, exec (.ringEnable f r) s = .next t ∧ t.ringState r = 0 ∧ t.fget (RF.RING_STAT_REASON r) = q ∧
        t.fget (RF.RING_CFG_EN r) = 0) ∧
    (s.fget RF.QN_BOOT_STAT_READY = 0 → ∃ t, exec (.ringEnable f r) s = .next t ∧
      t.ringState r = 0 ∧ t.fget (RF.RING_CFG_EN r) = 1 ∧
      t.ringRec r = { s.ringRec r with early := some f.val } ∧ State.Only [.regs, .host] s t ∧
      State.RegsBut [Reg.RING_CFG r] s t)) ∧
  (∀ (f : FnId) (r : RingId), (f.val = 0 ∨ f.val = s.ringFn r) → s.ringState r = 1 →
    ((s.ringRec r).held = [] → (∀ d ∈ s.host.descs, d.ring ≠ r.val) →
      ∃ t, exec (.ringDisable f r) s = .next t ∧ t.fget (RF.RING_CFG_EN r) = 0 ∧ t.ringState r = 0 ∧
        t.ringRec r = {} ∧ State.Only [.regs, .host] s t ∧
        State.RegsBut [Reg.RING_CFG r, Reg.RING_STAT r] s t) ∧
    ((∃ d ∈ s.host.descs, d.ring = r.val) → ∃ t, exec (.ringDisable f r) s = .next t ∧
      t.fget (RF.RING_CFG_EN r) = 0 ∧ t.ringState r = 1 ∧ t.ringRec r = { s.ringRec r with closing := true } ∧
      State.Only [.regs, .host] s t ∧ State.RegsBut [Reg.RING_CFG r] s t))

/-- Bus master enable freezes and thaws a function's rings; a function-level reset leaves them DISABLED with their
allotment; a window write changes its register and marks the function's outstanding requests. A PCIe completion
ends its request, and an HDMA's whole chunk leaves as a stream; a timeout keeps the tag out of use and ends the
transfer; credits let a buffered write go whose port is UP. -/
def Obligations.PcieEventsMoveRequests : Prop := ∀ (s : State),
  (∀ f : FnId, ∃ t, exec (.bmeClear f) s = .next t ∧
    (∀ g : Nat, t.bmeOn g = (decide (g ≠ f.val) && s.bmeOn g)) ∧
    (∀ n < 1024, s.ringFn n = f.val → s.ringState n ≠ 0 →
      t.ringState n = (if s.ringState n = 1 then 2 else s.ringState n) ∧
      t.ringRec n = { s.ringRec n with frzBme := true }) ∧
    (∀ n < 1024, s.ringFn n ≠ f.val → t.ringState n = s.ringState n ∧ t.ringRec n = s.ringRec n) ∧
    State.Only [.regs, .host] s t) ∧
  (∀ f : FnId, s.HostIdle → ∃ t, exec (.bmeSet f) s = .next t ∧
    (∀ g : Nat, t.bmeOn g = (decide (g = f.val) || s.bmeOn g)) ∧
    ∀ n < 1024, s.ringFn n = f.val → s.ringState n = 2 → (s.ringRec n).frzRcl = false →
      (s.ringRec n).held = [] → (s.ringRec n).closing = false →
      t.ringState n = 1 ∧ t.ringRec n = { s.ringRec n with frzBme := false }) ∧
  (∀ p : PartId, ∃ t, exec (.flrVf p) s = .next t ∧ t.bmeOn (p.val + 1) = false ∧
    (s.partOn p = true → s.fget (RF.HIVE_PART_RECLAIM p) = 0 → t.fget (RF.HIVE_PART_RESET p) = 1) ∧
    (s.partOn p = false → (∀ n < 1024, s.ringFn n = p.val + 1 → t.ringState n = 0 ∧ t.ringFn n = p.val + 1 ∧
      t.fget (RF.RING_CFG_LIDX n) = s.fget (RF.RING_CFG_LIDX n) ∧ t.fget (RF.RING_CFG_EN n) = 0) ∧
      t.reg (Reg.PCI_DMA_STAT (p.val + 1)) = 0)) ∧
  ((∀ p < 8, s.partOn p = false) → ∃ t, exec .flrPf0 s = .next t ∧ (∀ f < 9, t.bmeOn f = false) ∧
    (∀ n < 1024, s.ringFn n < 9 → t.ringState n = 0 ∧ t.ringFn n = s.ringFn n) ∧
    ∀ w < 16, t.reg (Reg.PCI_APW w) = 0) ∧
  (∀ (f : FnId) (k : Fin 16) (lim : Bool) (v : Word64), s.HostIdle →
    ∃ t, exec (.dmaWindowWrite f k lim v) s = .next t ∧
      (lim = true → t.fget (RF.PCI_DMAW_LIM_LIMIT f k) = fld v 12 52) ∧
      (lim = false → t.fget (RF.PCI_DMAW_BASE_BASE f k) = fld v 12 52 ∧
        t.fget (RF.PCI_DMAW_BASE_RD f k) = fld v 0 1 ∧ t.fget (RF.PCI_DMAW_BASE_WR f k) = fld v 1 1) ∧
      (∀ e ∈ t.host.reqs, e.2.fn = f.val → e.2.old = true) ∧ t.host.reqs.length = s.host.reqs.length ∧
      State.Only [.regs, .host] s t ∧ State.RegsBut [if lim then Reg.PCI_DMAW_LIM f k else Reg.PCI_DMAW_BASE f k,
        Reg.PCI_DMA_STAT f] s t) ∧
  (∀ (tag : Fin 1024) (data : Bytes),
    ((∀ e ∈ s.host.reqs, e.1 ≠ tag.val) → ∀ r, r = RF.PCI_DMA_STAT_UNEXP (s.host.quar.get 1 tag - 1) →
      ∃ t, exec (.pcieCompletion tag data) s = .next t ∧ t.fget r = satAdd r.w (s.fget r) 1 ∧
        State.Only [.regs] s t ∧ State.RegsBut [r.off] s t) ∧
    (∀ q, s.host.reqs = [(tag.val, q)] →
      (q.discard = true → s.host.rq = [] → ∃ t, exec (.pcieCompletion tag data) s = .next t ∧
        t.host.reqs = [] ∧ State.Only [.regs, .host] s t) ∧
      (∀ d id, q.discard = false → q.kind = 2 → s.host.rq = [] → s.desc q.ring q.tag = some d → d.st = 2 →
        d.gathered = [] → q.off = 0 → q.len = hdLen d.word → 0 < q.len → q.len ≤ hdChunk → s.freeId 8 = some id →
        ∃ t, exec (.pcieCompletion tag data) s = .next t ∧ s.SentTo t 4 s.module ∧ s.SentTo t 5 s.module ∧
          (t.fab.xfers.get {} (xKey 8 id)).owner = .hdma q.ring q.tag ∧ t.host.reqs = [] ∧
          State.Only [.out, .regs, .fab, .host] s t) ∧
      (∀ j, q.discard = false → q.kind = 4 → s.host.rq = [] → s.copyJob q.core q.seq = some j → j.waits = 1 →
        ∃ t k, exec (.pcieCompletion tag data) s = .next t ∧ t.host.reqs = [] ∧ t.copyJob q.core q.seq = some k ∧
          k.waits = 0 ∧ k.status = j.status ∧ State.Only [.regs, .eng, .host] s t)) ∧
    (∀ e, s.host.reqs.find? (fun e => e.1 == tag.val) = some e →
      ∃ t, exec (.pciCompletionTimeout tag) s = .next t ∧ (∀ x ∈ t.host.reqs, x.1 ≠ tag.val) ∧
        t.host.quar.get 0 tag = e.2.fn + 1 ∧
        (∀ d, e.2.discard = false → e.2.kind = 2 → s.desc e.2.ring e.2.tag = some d → d.st = 2 →
          t.desc e.2.ring e.2.tag = some { d with
            st := 3, status := stTIMEOUT, reason := 0, detail := d.moved % 2 ^ 32 })) ∧
    (∃ t, exec (.tagQuarantineEnd tag) s = .next t ∧ t.host.quar.get 0 tag = 0 ∧
      (s.host.rq = [] → State.Only [.host] s t))) ∧
  (∀ (r : RingId) (tag : BitVec 16) (d : Desc), s.desc r tag.toNat = some d → fld d.word 0 8 = 2 → d.st = 2 →
    bit d.word 32 = true → ∃ t, exec (.hdmaProgressTimeout r tag) s = .next t ∧
      t.desc r tag.toNat = some { d with st := 3, status := stTIMEOUT, reason := 0, detail := d.moved % 2 ^ 32 }) ∧
  (∀ (n : BitVec 32), s.host.rq = [] → s.host.descs = [] →
    (s.host.wq = [] → ∃ t, exec (.hostCredits n) s = .next t ∧ t.host.credits = s.host.credits + n.toNat ∧
      State.Only [.host] s t) ∧
    (∀ h ring tag, s.host.wq = [h] → h.owner = .hdma ring tag → s.bmeOn h.fn = true →
      (∀ g, h.gate = some g → s.diePortUp g = true) →
      s.inWindows h.fn h.addr h.data.length true = true → h.data.length ≤ s.host.credits + n.toNat →
      ∃ t, exec (.hostCredits n) s = .next t ∧ t.host.wq = [] ∧
        t.host.credits = s.host.credits + n.toNat - h.data.length ∧
        t.out = s.out ++ [.hostWrite h.fn h.addr true h.data] ∧ State.Only [.out, .host] s t)) ∧
  (s.fget RF.LOG_STAT_QRST = 1 → s.host.descs = [] → ∃ t, exec .queenRestartDone s = .next t ∧
    t.fget RF.LOG_STAT_QRST = 0 ∧ bitN (t.reg Reg.HIVE_ISUM).toNat 2 = true ∧ State.Only [.out, .regs] s t ∧
    State.RegsBut [Reg.LOG_STAT, Reg.HIVE_ISUM] s t)

/-! Cells at the network interfaces (R210 to R218, R242 to R247). -/

/-- WR_CELL writes its bytes and is acknowledged; ADD_CELL adds to a counter; RDREQ_CELL's bytes go out as a stream;
SOPEN_CELL makes a context; SDATA_CELL places its bytes, and the last one closes the context with its counter and
its ACK. A cell of another generation is counted and answered NACK, one outside memory or on a failed channel is
answered NACK; an absorbing port counts its cells. None of these changes memory. -/
def Obligations.CellsActAtADie : Prop := ∀ (d : DieId) (x : CellW) (s : State),
  (s.CellIn d 1 x → Cell.isReg x (Cell.len x - 8) = false →
    (s.pgenOk d x (Cell.pgen x) = true → s.Sound → 8 < Cell.len x → Cell.len x ≤ 48 →
      pick (s.rangeConds d (Cell.off x) (Cell.len x - 8)) = none →
      ∃ t, exec (.wrCell ⟨d.val, by omega⟩ x) s = .next t ∧
        s.Wrote t [(d * 2 ^ 40 + Cell.off x, Cell.payBytes x 8 (Cell.len x - 8))] ∧
        s.SentTo t 6 (Cell.srcMod x) ∧ s.Counted t []) ∧
    (s.pgenOk d x (Cell.pgen x) = false → ∃ t, exec (.wrCell ⟨d.val, by omega⟩ x) s = .next t ∧
      s.SentTo t 7 (Cell.srcMod x) ∧ t.fab.pgenDrop.get 0 d = s.fab.pgenDrop.get 0 d + 1 ∧
      State.Only [.out, .fab] s t) ∧
    (s.pgenOk d x (Cell.pgen x) = true → (pick (s.rangeConds d (Cell.off x) (Cell.len x - 8))).isSome = true →
      ∃ t, exec (.wrCell ⟨d.val, by omega⟩ x) s = .next t ∧ s.SentTo t 7 (Cell.srcMod x) ∧ State.Only [.out] s t)) ∧
  (s.dieAbsorbs d = true → ∀ i ∈ [.addCell d x, .sopenCell d x, .sdataCell d x], ∃ t, exec i s = .next t ∧
    t.link (32 + d) = { s.link (32 + d) with absorbed := (s.link (32 + d)).absorbed + 1 } ∧ State.Only [.fab] s t) ∧
  (∀ f : FnId, Cell.good x = true → Cell.type x = 1 → Cell.regAt f x (Cell.len x - 8) = true →
    ∀ o, cellReg f x = some o → exec (.wrCell f x) s = .next ((s.regWrite o 8 (BitVec.ofNat 64 (Cell.pay x 8 8))).sendAck
      (Cell.srcMod x) (Cell.srcTgt x) f (Cell.job x) (Cell.stream x) (Cell.len x - 8))) ∧
  (s.CellIn d 2 x → s.pgenOk d x (Cell.pgen x) = true → ∀ n : Nat,
    (n < 1024 → Cell.off x = cntOff n → Cell.job x = s.dieJob d → Cell.len x = 12 →
      ∃ t, exec (.addCell d x) s = .next t ∧ (∀ e < 8, ∀ m < 1024, t.cnt e m =
          if e = d.val ∧ m = n then (s.cnt e m + Cell.pay x 8 4) % 2 ^ 32 else s.cnt e m) ∧
        s.SentTo t 6 (Cell.srcMod x) ∧ State.Only [.out, .regs, .core, .host] s t) ∧
    (Cell.len x ≠ 12 → ∃ t, exec (.addCell d x) s = .next t ∧ s.SentTo t 7 (Cell.srcMod x) ∧
      State.Only [.out] s t)) ∧
  (s.CellIn d 3 x → Cell.regAt d x (Cell.pay x 8 3) = false → s.pgenOk d x (Cell.pgen x) = true →
    0 < Cell.pay x 8 3 * Cell.pay x 15 2 → bitsN (Cell.pay x 17 7) 40 4 ≤ 8 →
    pick ((rdRows x).flatMap fun r => s.rangeConds d r.1 r.2) = none →
    (∀ id, s.Sound → Cell.pay x 8 3 * Cell.pay x 15 2 ≤ streamMax → s.freeId d = some id →
      ∃ t, exec (.rdreqCell ⟨d.val, by omega⟩ x) s = .next t ∧
        s.SentTo t 4 (bitsN (Cell.pay x 17 7) 44 12) ∧
        ((t.fab.xfers.get {} (xKey d id)).cells.drop 1).flatMap (fun c => Cell.payBytes c 0 (Cell.len c)) =
          (rdRows x).flatMap (fun r => s.peek d r.1 r.2) ∧
        State.Only [.out, .regs, .fab] s t) ∧
    ((rdRows x).any (s.rangeFailed d) = true → ∃ t, exec (.rdreqCell ⟨d.val, by omega⟩ x) s = .next t ∧
      s.SentTo t 7 (Cell.srcMod x) ∧ State.Only [.out] s t)) ∧
  (s.CellIn d 4 x → ∀ y, y = rxOpen x →
    (s.pgenOk d x y.pgen = false → ∃ t, exec (.sopenCell d x) s = .next t ∧ s.SentTo t 7 y.ackMod ∧
      t.fab.pgenDrop.get 0 d = s.fab.pgenDrop.get 0 d + 1 ∧ State.Only [.out, .fab] s t) ∧
    (s.pgenOk d x y.pgen = true → (∀ z ∈ s.rxOf d, z.isKey y.srcMod y.srcTgt y.stream = false) → y.col0 < y.lenRow →
      0 < y.total → y.total ≤ streamMax → pick ((rxRanges y).flatMap fun r => s.rangeConds d r.1 r.2) = none →
      (s.rxOf d).length < 4096 →
      (∀ o ∈ s.fab.orphans.get [] d, y.isKey (Cell.srcMod o) (Cell.srcTgt o) (Cell.stream o) = false) →
      ∃ t, exec (.sopenCell d x) s = .next t ∧ t.rxOf d = s.rxOf d ++ [y] ∧
        t.fget (RF.FAB_NI_STAT_CTX_USED d) = (s.rxOf d).length + 1 ∧ State.Only [.regs, .fab] s t ∧
        State.RegsBut [Reg.FAB_NI_STAT d] s t)) ∧
  (s.CellIn d 5 x →
    ((∀ y ∈ s.rxOf d, y.isKey (Cell.srcMod x) (Cell.srcTgt x) (Cell.stream x) = false) →
      (s.fab.orphans.get [] d).length < 256 →
      ∃ t, exec (.sdataCell d x) s = .next t ∧ t.fab.orphans.get [] d = s.fab.orphans.get [] d ++ [x] ∧
        State.Only [.fab] s t) ∧
    (∀ y, (s.rxOf d).find? (fun y => y.isKey (Cell.srcMod x) (Cell.srcTgt x) (Cell.stream x)) = some y →
      y.job = Cell.job x → s.pgenOk d x y.pgen = true → 0 < Cell.len x → Cell.len x ≤ 48 →
      48 * Cell.seq x + Cell.len x ≤ y.total → s.gatherOf d y = none → s.Sound → Cell.seq x ∉ y.got →
      y.bad = false → y.rcnt < 1024 →
      ∃ t, exec (.sdataCell d x) s = .next t ∧
        s.Wrote t (atDie d (rxRuns y 49 (48 * Cell.seq x) (Cell.payBytes x 0 (Cell.len x)))) ∧
        (y.got.length + 1 ≠ (y.total + 47) / 48 → s.Counted t [] ∧
          ∃ z ∈ t.rxOf d, z = { y with got := y.got ++ [Cell.seq x] }) ∧
        (y.got.length + 1 = (y.total + 47) / 48 → s.SentTo t 6 y.ackMod ∧
          (∀ z ∈ t.rxOf d, z.isKey (Cell.srcMod x) (Cell.srcTgt x) (Cell.stream x) = false) ∧
          s.Counted t (if y.rcen && y.final then [(d.val, y.rcnt)] else []))))

/-- ACK_CELL and NACK_CELL end the transfer they name, or ask for its restart; a NACK with a status that no NACK may
carry changes nothing, and one that answers an abort request TOO_LATE ends the CAP_ABORT that waits. STREAM_RESTART
sends a transfer again under a new id. Timeouts of transfers, orphans and contexts end and count exactly theirs; an id
back in use goes to the
oldest waiting transfer. -/
def Obligations.TransfersEndAndRestart : Prop := ∀ (s : State),
  (∀ (f : FnId) (x : CellW) (id : Nat) (v : Xfer),
    (s.Answers f 6 x id v → v.acks ≤ 1 →
      (v.owner = .none → ∃ t, exec (.ackCell f x) s = .next t ∧ t.fab.xfers.get {} (xKey f id) = {} ∧
        t.fab.idHold.get 0 (xKey f id) = s.clk + 1 ∧ State.Only [.fab] s t) ∧
      (∀ core seq, v.owner = .cmd core seq → s.PlainOwner core seq →
        ∃ t, exec (.ackCell f x) s = .next t ∧ t.fab.xfers.get {} (xKey f id) = {} ∧ t.Closed core seq)) ∧
    (s.Answers f 7 x id v → ¬(f.val = 8 ∧ Cell.pay x 0 1 = stTOOLATE ∧ id = 5) →
      (Cell.pay x 1 1 = 2 → ∃ t, exec (.nackCell f x) s = .next t ∧
        t.fab.xfers.get {} (xKey f id) = { v with restart := true } ∧ State.Only [.fab] s t) ∧
      (Cell.pay x 1 1 ≠ 2 → nackStatus v (Cell.pay x 0 1) = false → exec (.nackCell f x) s = .next s) ∧
      (Cell.pay x 1 1 ≠ 2 → nackStatus v (Cell.pay x 0 1) = true → v.owner = .none →
        ∃ t, exec (.nackCell f x) s = .next t ∧ t.fab.xfers.get {} (xKey f id) = {} ∧ State.Only [.fab] s t) ∧
      (∀ core seq, Cell.pay x 1 1 ≠ 2 → nackStatus v (Cell.pay x 0 1) = true → v.owner = .cmd core seq →
        s.PlainOwner core seq → Cell.pay x 0 1 ≠ stTIMEOUT →
        ∃ t, exec (.nackCell f x) s = .next t ∧ t.fab.xfers.get {} (xKey f id) = {} ∧ t.Closed core seq)) ∧
    (∀ a, Cell.good x = true → Cell.type x = 7 → f.val = 8 → Cell.pay x 0 1 = stTOOLATE → Cell.pay x 2 2 = 5 →
      s.modFenced (Cell.srcMod x) = false →
      s.cap.aborts.find? (fun a => decide (a.1.job = Cell.job x) &&
        (s.group a.1.job a.1.gid).any fun g => g.cMod == Cell.srcMod x) = some a →
      ∃ t, exec (.nackCell f x) s = .next t ∧ t.Closed a.2.1 a.2.2 ∧ a ∉ t.cap.aborts)) ∧
  (∀ (f : FnId) (id : BitVec 16) (v : Xfer), v = s.fab.xfers.get {} (xKey f id.toNat) →
    (v.restart = true → (v.owner = .none ∨ ∃ core seq, v.owner = .cmd core seq) → ∀ j,
      (s.xferEnd f id.toNat).freeId f = some j →
      ∃ t, exec (.streamRestart f id) s = .next t ∧ j ≠ id.toNat ∧ t.fab.xfers.get {} (xKey f id.toNat) = {} ∧
        t.fab.xfers.get {} (xKey f j) = { v with cells := v.cells.map (withId v.keep j), restart := false } ∧
        t.out = s.out ++ v.cells.map (fun c => .cell (withId v.keep j c)) ∧ State.Only [.out, .fab] s t) ∧
    (v.cells ≠ [] → v.acks ≠ 0 → v.owner = .none → ∃ t, exec (.transferTimeout f id) s = .next t ∧
      t.fab.xfers.get {} (xKey f id.toNat) = {} ∧ State.Only [.fab] s t) ∧
    (∀ core seq, v.cells ≠ [] → v.acks ≠ 0 → v.owner = .cmd core seq → s.PlainOwner core seq → f.val < 8 →
      core / 256 = f.val → s.NoCap f → ∃ t, exec (.transferTimeout f id) s = .next t ∧
        t.fab.xfers.get {} (xKey f id.toNat) = {} ∧ t.Closed core seq ∧
        t.fget (RF.FAB_NI_STAT_E2E f) = satAdd (RF.FAB_NI_STAT_E2E f).w (s.fget (RF.FAB_NI_STAT_E2E f)) 1) ∧
    (∀ core seq j, v.cells = [] → v.acks ≠ 0 → v.owner = .cmd core seq → s.bmeOn (s.owner f) = true →
      s.copyJob core seq = some j →
      (j.waits = 0 → s.smp.parts = [] → exec (.transferTimeout f id) s = .next s) ∧
      (j.waits ≠ 0 → j.started = true → core / 256 = f.val → s.ceQ f (cpCE j.word) = [j] → s.smp.parts = [] →
        s.NoCap f →
        ∃ t, exec (.transferTimeout f id) s = .next t ∧ t.fab.xfers.get {} (xKey f id.toNat) = {} ∧
          (∀ h ∈ t.host.wq, h.owner ≠ .cmd core seq) ∧ t.fget (RF.FAB_NI_STAT_E2E f) =
            satAdd (RF.FAB_NI_STAT_E2E f).w (s.fget (RF.FAB_NI_STAT_E2E f)) 1)) ∧
    (s.fab.idHold.get 0 (xKey f id.toNat) ≠ 0 →
      (s.fab.idWait.get [] f = [] → ∃ t, exec (.streamIdAvailable f id) s = .next t ∧
        t.fab.idHold.get 0 (xKey f id.toNat) = 0 ∧ State.Only [.fab] s t) ∧
      (∀ y l, s.fab.idWait.get [] f = y :: l → (y.owner = .none ∨ ∃ core seq, y.owner = .cmd core seq) →
        ∃ t, exec (.streamIdAvailable f id) s = .next t ∧ t.fab.idWait.get [] f = l ∧
          t.fab.idHold.get 0 (xKey f id.toNat) = 0 ∧
          t.fab.xfers.get {} (xKey f id.toNat) =
            { y with cells := y.cells.map (withId y.keep id.toNat), restart := false } ∧
          t.out = s.out ++ y.cells.map (fun c => .cell (withId y.keep id.toNat c)) ∧
          State.Only [.out, .fab] s t))) ∧
  (∀ (d : DieId) (md : BitVec 12) (g : Fin 16) (st : BitVec 16),
    (∀ l m x, s.fab.orphans.get [] d = l ++ x :: m → Cell.type x = 5 →
      (Cell.srcMod x = md.toNat ∧ Cell.srcTgt x = g.val ∧ Cell.stream x = st.toNat) →
      (∀ y ∈ l, ¬(Cell.srcMod y = md.toNat ∧ Cell.srcTgt y = g.val ∧ Cell.stream y = st.toNat)) →
      ∃ t, exec (.orphanTimeout d md g st) s = .next t ∧ t.fab.orphans.get [] d = l ++ m ∧
        t.fget (RF.FAB_NI_STAT_ORPHAN d) =
          satAdd (RF.FAB_NI_STAT_ORPHAN d).w (s.fget (RF.FAB_NI_STAT_ORPHAN d)) 1 ∧
        s.SentTo t 7 md.toNat ∧ State.Only [.out, .regs, .fab] s t ∧
          State.RegsBut [(RF.FAB_NI_STAT_ORPHAN d).off] s t) ∧
    ((∃ y ∈ s.rxOf d, y.isKey md.toNat g st.toNat = true) →
      ∃ t, exec (.contextIdleFree d md g st) s = .next t ∧
        t.rxOf d = (s.rxOf d).filter (fun y => !y.isKey md.toNat g st.toNat) ∧
        t.fget (RF.FAB_NI_STAT_E2E d) = satAdd (RF.FAB_NI_STAT_E2E d).w (s.fget (RF.FAB_NI_STAT_E2E d)) 1 ∧
        State.Only [.regs, .fab] s t ∧
        State.RegsBut [Reg.FAB_NI_STAT d, (RF.FAB_NI_STAT_E2E d).off] s t))

/-! Links, router and route banks (R219 to R241, R396 to R401). -/

/-- The router forwards a cell it may: to the hive, to a port that can send, to a queue, to the management queue on VC6,
or drops and counts it. A link counts what its codewords' FEC meets, takes a cell in order and acknowledges it, asks for
a replay otherwise, and only counts a truncated one. A control slot needs its marker; its word frees what it
acknowledges, returns credits, has cells replayed, or takes the link down. -/
def Obligations.RouterAndLinksMoveCells : Prop := ∀ (s : State),
  (∀ (p : RouterPort) (q : Nat) (c₀ c : CellW), s.ActsAs p q → c = (if 32 ≤ q then putFld c₀ 40 4 s.gen else c₀) →
    s.fencedCell c = false → Cell.badHead c = false → (32 ≤ q → q < 40 → Cell.job c = s.dieJob (q - 32)) →
    (Cell.vc c = 6 → ∃ t, exec (.cellForward p c₀) s = .next t ∧ s.Managed t q c ∧ s.LinksBut t q) ∧
    (Cell.vc c ≠ 6 →
    (s.lookup q c = .internal → ∃ t, exec (.cellForward p c₀) s = .next t ∧ .link 40 0 c ∈ t.out ∧
      State.Only [.out, .fab] s t ∧ s.LinksBut t q) ∧
    (s.lookup q c = .noroute false → ∃ t, exec (.cellForward p c₀) s = .next t ∧
      t.fget RF.FAB_DROP1_NOROUTE = satAdd RF.FAB_DROP1_NOROUTE.w (s.fget RF.FAB_DROP1_NOROUTE) 1 ∧
      State.Only [.out, .regs, .fab] s t ∧ State.RegsBut [RF.FAB_DROP1_NOROUTE.off] s t ∧ s.LinksBut t q) ∧
    (s.lookup q c = .stale → ∃ t, exec (.cellForward p c₀) s = .next t ∧
      t.fget RF.FAB_DROP0_STALE = satAdd RF.FAB_DROP0_STALE.w (s.fget RF.FAB_DROP0_STALE) 1 ∧
      (Cell.type c ≠ 6 → Cell.type c ≠ 7 → s.SentTo t 7 (nackTo c).1) ∧
      State.Only [.out, .regs, .fab] s t ∧ State.RegsBut [RF.FAB_DROP0_STALE.off] s t) ∧
    (∀ o vc, s.lookup q c = .port o vc → (s.link o).queue = [] → vc < 8 →
      (o < 32 → s.portState o = 3 ∨ s.portState o = 4 ∨ s.portState o = 5) →
      (32 ≤ o → s.dieAbsorbs (o - 32) = false ∧ (Cell.job c = s.dieJob (o - 32) ∨ Cell.job c = 0)) →
      (s.canSend o vc = true → ∃ t, exec (.cellForward p c₀) s = .next t ∧
        .link (s.txPort o) (linkTag (s.link o).tx (putFld c 32 3 vc)) (putFld c 32 3 vc) ∈ t.out ∧
        (t.link o).replay = (s.link o).replay ++ [((s.link o).tx, putFld c 32 3 vc)] ∧
        (t.link o).tx = ((s.link o).tx + 1) % 4096 ∧ (t.link o).queue = [] ∧ State.Only [.out, .fab] s t) ∧
      (s.canSend o vc = false → ∃ t, exec (.cellForward p c₀) s = .next t ∧
        t.link o = { s.link o with queue := [(q, vc, c)] } ∧ s.LinksBut t o ∧ State.Only [.fab] s t)))) ∧
  (∀ (p : LinkPort) (q : Nat) (tag : BitVec 16) (c : CellW) (ls : List LaneRx), s.ActsAs p q → s.carries q = true →
    (q < 32 ∨ ∀ x ∈ ls, x.errs.toNat ≤ fecMax) →
    ∃ t, exec (.linkCellReceive p tag c ls) s = .next t ∧ s.LinksBut t q ∧ State.Only [.out, .regs, .fab] s t ∧
      State.RegsBut [Reg.OPT_PORT_STAT q] s t ∧
      (∀ x, ls = [x] → ∀ r ∈ [(RF.OPT_PORT_STAT_FEC_CORR q, decide (0 < x.errs.toNat ∧ x.errs.toNat ≤ fecMax)),
          (RF.OPT_PORT_STAT_FEC_UCW q, decide (fecMax < x.errs.toNat))],
        t.fget r.1 = satAdd r.1.w (s.fget r.1) (b2n r.2)) ∧
      ((∀ x ∈ ls, x.errs = 0) → State.Only [.out, .fab] s t) ∧
      (bit tag 12 = true → fld tag 0 12 ≠ (s.link q).rx →
        t.link q = { s.link q with stomps := (s.link q).stomps + 1 } ∧ t.out = s.out) ∧
      (bit tag 12 = true → fld tag 0 12 = (s.link q).rx → (t.link q).stomps = (s.link q).stomps + 1 ∧
        (t.link q).rx = ((s.link q).rx + 1) % 4096) ∧
      (bit tag 12 = false → skewOk ls = true → Cell.good c = true → b2n (bit tag 13) = hpar c →
        fld tag 0 12 = (s.link q).rx → (t.link q).rx = ((s.link q).rx + 1) % 4096 ∧
          (t.link q).rxAny = true ∧ (t.link q).nack = false ∧ (t.link q).replay = (s.link q).replay ∧
          t.out ≠ s.out) ∧
      (bit tag 12 = false → (skewOk ls = false ∨ Cell.good c = false ∨ b2n (bit tag 13) ≠ hpar c ∨
          fld tag 0 12 ≠ (s.link q).rx) → (t.link q).rx = (s.link q).rx ∧ (t.link q).nack = true ∧
        ((s.link q).nack = true → t.out = s.out))) ∧
  (∀ (p : LinkPort) (sl : BitVec 132), sl.toNat % 16 ≠ 6 → exec (.controlWordReceive p sl) s = .next s) ∧
  (∀ (p : LinkPort) (q : Nat) (sl : BitVec 132) (cw : BitVec 128), s.ActsAs p q → sl.toNat % 16 = 6 →
    cw = BitVec.ofNat 128 (sl.toNat / 16) → fld cw 112 16 = crc16 (leBytes 14 cw.toNat) →
    (s.portState q = 1 → s.fget (RF.OPT_PORT_STAT_TSTAGE q) = 6 → bit cw 26 = false → fld cw 96 3 = 0 →
      ∃ t, exec (.controlWordReceive p sl) s = .next t ∧
        (t.link q).six = if fld cw 99 3 = 6 then (s.link q).six + 1 else 0) ∧
    (s.portState q = 2 ∨ s.portState q = 3 → bit cw 26 = true →
      ∃ t, exec (.controlWordReceive p sl) s = .next t ∧ (t.link q).replay = [] ∧
      t.portState q = (if q < 32 ∧ s.fget (RF.FAB_PORT_DIS q) = 1 then 6 else 0)) ∧
    (s.portState q = 2 ∨ s.portState q = 3 → bit cw 26 = false → fld cw 96 3 = 0 → (s.link q).queue = [] → ∀ i,
      i = (if bit cw 12 then (match (s.link q).replay.findIdx? (fun e => e.1 == fld cw 0 12) with
        | some i => i + 1
        | none => 0) else 0) → ∀ r, r = { s.link q with
          replay := (s.link q).replay.drop i
          credits := (List.range 8).map fun n => (s.link q).credits.getD n 0 + fld cw (32 + 8 * n) 8 } →
      (bit cw 25 = false → ∃ t, exec (.controlWordReceive p sl) s = .next t ∧ t.link q = r ∧ s.LinksBut t q ∧
        State.Only [.fab] s t) ∧
      (∀ k, bit cw 25 = true → r.replay.findIdx? (fun e => e.1 == fld cw 13 12) = some k →
        ∃ t, exec (.controlWordReceive p sl) s = .next t ∧ t.link q = { r with cells := (t.link q).cells } ∧
          s.SentBut t ((r.replay.drop k).map fun e => .link (s.txPort q) (linkTag e.1 e.2) e.2) ∧
          t.fget (RF.FAB_PORT_RETRY q) = satAdd (RF.FAB_PORT_RETRY q).w (s.fget (RF.FAB_PORT_RETRY q)) 1 ∧
          State.Only [.out, .regs, .fab] s t ∧ State.RegsBut [Reg.FAB_PORT q] s t))) ∧
  (∀ (p : RouterPort) (q : Nat), s.ActsAs p q →
    (∀ c, Cell.good c = true → (Cell.type c = 12 ∨ Cell.type c = 13) → s.fencedCell c = false →
      ∃ t, exec (.mgmtCell p c) s = .next t ∧ s.Managed t q c ∧ s.LinksBut t q) ∧
    (∀ e l, (s.link q).replay = e :: l → ∃ t, exec (.cellTtlDrop p) s = .next t ∧
      t.link q = { s.link q with replay := l } ∧ s.LinksBut t q ∧
      t.fget RF.FAB_DROP1_TTL = satAdd RF.FAB_DROP1_TTL.w (s.fget RF.FAB_DROP1_TTL) 1))

/-- Identities make ports known; an accepted route image fills its bank, which summaries make READY or refuse; a READY
bank becomes ACTIVE, a drained one FREE; an accepted wiring table is the module's. -/
def Obligations.RouteBanksAndTablesLoad : Prop := ∀ (s : State),
  (∀ (p : ExtPort) (q : Nat), s.ActsAs p q →
    (s.portState q = 2 → (s.link q).ident = false → (s.link q).queue = [] →
      (s.canSend q 6 = true → ∃ t tag x, exec (.identitySend p) s = .next t ∧ .link (s.txPort q) tag x ∈ t.out ∧
        Cell.type x = 12 ∧ Cell.payBytes x 0 24 = s.identityMsg q ∧ s.LinksBut t q ∧ State.Only [.out, .fab] s t) ∧
      (s.canSend q 6 = false → ∃ t, exec (.identitySend p) s = .next t ∧ (t.link q).queue.length = 1 ∧
        s.LinksBut t q ∧ State.Only [.fab] s t)) ∧
    (∀ msg : BitVec 192, s.portState q = 2 → ∃ t, exec (.identityReceive p msg) s = .next t ∧
      t.topo q = s.identCode q (leBytes 24 msg.toNat) ∧ (t.link q).ident = true ∧
      (t.link q).peerGen = fld msg 64 8 ∧
      (s.identCode q (leBytes 24 msg.toNat) ≠ 0 → t.portState q = 2) ∧
      (s.identCode q (leBytes 24 msg.toNat) = 0 → s.bankLive 0 = false → s.bankLive 1 = false →
        t.portState q = if (s.link q).peerPass = true ∨ bit msg 71 = false then 3 else 2)) ∧
    (∀ (g : Fin 16) (bs : Bytes) (ok : Bool), s.portState q = 2 → s.topo q = 0 → (s.link q).ident = true →
      (∀ b < 2, s.bank b ≠ 2) → (∀ b < 2, s.bankLive b = true → s.fab.bankGen.get 0 b = g.val ∧
        s.rtxGood b (toLen 2048 bs) = true) → ∃ t, exec (.rtxSummary p g bs ok) s = .next t ∧
        t.portState q = if ok = true ∨ bitN (s.link q).peerGen 7 = false then 3 else 2) ∧
    (∀ (g : Fin 16) (bs : Bytes) (ok : Bool) (b : Nat), s.portState q = 3 → b < 2 → s.bank b = 2 →
      s.fab.bankGen.get 0 b = g.val → s.fab.bankGen.get 0 (1 - b) ≠ g.val → s.fab.rtxWait = [q] →
      ∃ t, exec (.rtxSummary p g bs ok) s = .next t ∧ (q, g.val, toLen 2048 bs) ∈ t.fab.rtx ∧ t.fab.rtxWait = [] ∧
        (s.rtxGood b (toLen 2048 bs) = true → t.bank b = 3 ∧ t.fget RF.RT_LOAD_CTL_RESULT = 2) ∧
        (s.rtxGood b (toLen 2048 bs) = false → t.bank b = 0 ∧ t.fget RF.RT_LOAD_CTL_RESULT = 3 ∧
          t.fget RF.RT_LOAD_CTL_REASON = 0x2701)) ∧
    (∀ b, b = (if s.bank 0 = 2 then 0 else 1) → s.bank b = 2 → s.fab.rtxWait = [q] →
      ∃ t, exec (.rtxTimeout p) s = .next t ∧ t.fab.rtxWait = [] ∧
        (s.portState q = 3 → t.bank b = 0 ∧ t.fget RF.RT_LOAD_CTL_RESULT = 3 ∧
          t.fget RF.RT_LOAD_CTL_REASON = 0x2703) ∧
        (s.portState q ≠ 3 → t.bank b = 3 ∧ t.fget RF.RT_LOAD_CTL_RESULT = 2)) ∧
    (s.portState q = 3 → ∃ t, exec (.routeRevert p) s = .next t ∧
      (∀ b < 2, ∀ m < 4096, ∀ e, e = s.rtEntry b m → t.rtEntry b m =
        if s.bankLive b = true ∧ rtVALID e = true ∧ rtPPORT e = q ∧ rtALT e = true then e - 2 ^ 20 else e) ∧
      State.Only [.regs, .fab] s t ∧ State.RegsBut [Reg.FAB_PORT q] s t)) ∧
  (∀ (f : FnId) (g : Fin 16) (img : Bytes), s.fget RF.RT_LOAD_CTL_RESULT ≠ 1 → ∀ r,
    r = pick ((decide (f.val ≠ 0), 0x6B04) ::
      (!s.readsOk 0 (s.reg Reg.RT_LOAD_ADDR).toNat 16384, 0x6B01) :: s.rtConds g img) →
    (r = none → (∀ p < 32, s.upOrHeld p = false) → ∃ t, exec (.rtLoad f g img) s = .next t ∧
      t.bank (g % 2 : Nat) = 3 ∧ t.fab.bankGen.get 0 (g % 2 : Nat) = g.val ∧
      (∀ m < 4096, t.rtEntry (g % 2 : Nat) m = imgEntry img m) ∧
      t.bank (1 - g % 2 : Nat) = s.bank (1 - g % 2 : Nat) ∧
      (∀ m < 4096, t.rtEntry (1 - g % 2 : Nat) m = s.rtEntry (1 - g % 2 : Nat) m) ∧
      t.fget RF.RT_LOAD_CTL_RESULT = 2) ∧
    (∀ q, r = some q → q < 2 ^ 16 → ∃ t, exec (.rtLoad f g img) s = .next t ∧ (∀ b < 2, t.bank b = s.bank b) ∧
      t.fab.rt = s.fab.rt ∧ t.fget RF.RT_LOAD_CTL_RESULT = 3 ∧ t.fget RF.RT_LOAD_CTL_REASON = q)) ∧
  ((s.bankLive 0 = false → s.bankLive 1 = false → ∀ b, b < 2 → s.bank b = 3 → (b = 1 → s.bank 0 ≠ 3) →
      ∃ t, exec .rtAct s = .next t ∧ t.bank b = 4 ∧ t.gen = s.fab.bankGen.get 0 b % 16 ∧ t.fab.rt = s.fab.rt) ∧
    ((s.bankLive 0 = true ∨ s.bankLive 1 = true) → ∃ t, exec .rtAct s = .next t ∧
      t.fget RF.HIVE_WREJ_REASON = 0x2707 ∧ (∀ b < 2, t.bank b = s.bank b) ∧ t.gen = s.gen)) ∧
  (s.fget RF.RT_SW_CTL_RESULT ≠ 1 → ∀ gid k, gid = s.fget RF.RT_SW_CTL_GID →
    k = CapKey.mk 0 gid (s.fget RF.RT_SW_STEP_STEP) (s.fget RF.RT_SW_CTL_ATT) →
    (s.group 0 gid = none → ∃ t, exec .rtSwGo s = .next t ∧ t.fget RF.RT_SW_CTL_RESULT = 4 ∧
      t.fget RF.RT_SW_CTL_REASON = 0x2708 ∧ t.fab.sw = s.fab.sw) ∧
    (∀ g, s.group 0 gid = some g → g.capg = true → (g.index (s.module + 4096 * 8)).isSome = true →
      g.cMod ≠ s.module → (s.hiveCap k).vec = none → (s.hiveCap k).vote = 0 →
      ∀ i v old now, g.index (s.module + 4096 * 8) = some i → v = (if s.bank 0 = 3 ∨ s.bank 1 = 3 then 1 else 3) →
      old = orVec (List.replicate g.nmem 0) (s.hiveCap k).merged →
      now = orVec old ((List.range g.nmem).map fun j => if j = i then v else 0) →
      ∃ t, exec .rtSwGo s = .next t ∧ t.fget RF.RT_SW_CTL_RESULT = 1 ∧ t.fab.sw = some (gid, k.step, k.att) ∧
        (t.hiveCap k).vote = v ∧ (t.hiveCap k).merged = now ∧
        (packVec now ≠ packVec old → ∀ m ∈ s.capHops g true, s.SentTo t 9 m) ∧
        State.Only [.out, .regs, .cap, .fab] s t ∧ State.RegsBut [Reg.RT_SW_CTL] s t)) ∧
  (∀ b : Fin 2, s.bank b = 5 → ∃ t, exec (.bankDrainEnd b) s = .next t ∧ t.bank b = 0 ∧
    (∀ m < 4096, t.rtEntry b m = 0 ∧ t.rtEntry (1 - b.val) m = s.rtEntry (1 - b.val) m) ∧
    t.bank (1 - b.val) = s.bank (1 - b.val) ∧
    ((∀ p < 32, s.portState p ≠ 2) → State.Only [.regs, .fab] s t ∧
      State.RegsBut (Reg.RT_GEN :: (List.range 32).map Reg.FAB_PORT) s t)) ∧
  (∀ (f : FnId) (tb : Bytes), s.fget RF.QN_WIRE_CTL_RESULT ≠ 1 →
    (f.val = 0 → s.readsOk 0 (s.reg Reg.QN_WIRE_ADDR).toNat 576 = true → tblOk tb = true →
      s.bank 0 = 0 → s.bank 1 = 0 → ∃ t, exec (.wireLoad f tb) s = .next t ∧ t.boot.wire = tb ∧
        t.module = leAt tb 0 2 ∧ t.fget RF.QN_WIRE_CTL_MVALID = 1 ∧ t.fget RF.QN_WIRE_CTL_RESULT = 2 ∧
        t.fget RF.QN_RETAIN_BUSY = 1) ∧
    (f.val = 0 → s.readsOk 0 (s.reg Reg.QN_WIRE_ADDR).toNat 576 = true → tblOk tb = false →
      s.bank 0 = 0 → s.bank 1 = 0 → ∃ t, exec (.wireLoad f tb) s = .next t ∧ t.boot.wire = s.boot.wire ∧
        t.module = s.module ∧ t.fget RF.QN_WIRE_CTL_RESULT = 3 ∧ t.fget RF.QN_WIRE_CTL_REASON = 0x5C02))

/-! Ports, optics and lasers (R222, R223, R298 to R324). -/

/-- A port trains when light reaches it, passes its stages to HELD (a die port to UP) once three control words in a row
have told of the peer's stage 6, fails to DOWN with its count of failures and tries again; it stalls, ending a copy that
is under way as a truncated one, resumes with a replay, goes DOWN, is disabled and enabled. -/
def Obligations.PortsTrainAndGoDown : Prop := ∀ (s : State) (p : LinkPort),
  (∀ (q : Nat), s.ActsAs p q →
    (s.portState q = 0 → s.fget (RF.OPT_PORT_STAT_SHUT q) = 0 → s.mayTrain q = true →
      ((s.link q).fails = 0 →
        ∃ t, exec (.portSignal p) s = .next t ∧ t.portState q = 1 ∧ t.fget (RF.OPT_PORT_STAT_TSTAGE q) = 1 ∧
          t.fget (RF.OPT_PORT_STAT_LOS q) = 0 ∧ t.link q = { s.link q with
            retained := (s.link q).eqHeld, tx := 0, rx := 0, rxAny := false, six := 0, cells := {}
            ovh := {} } ∧ s.LinksBut t q ∧
          State.Only [.regs, .fab] s t) ∧
      ((s.link q).fails ≠ 0 → ∃ t, exec (.trainRetry p) s = .next t ∧ t.portState q = 1 ∧
        t.fget (RF.OPT_PORT_STAT_TSTAGE q) = 1 ∧ t.link q = { s.link q with
          retained := false, tx := 0, rx := 0, rxAny := false, six := 0, cells := {}, ovh := {} } ∧
        s.LinksBut t q ∧
        State.Only [.regs, .fab] s t)) ∧
    (s.portState q = 1 → ∀ k, k = s.fget (RF.OPT_PORT_STAT_TSTAGE q) →
      (k < 6 → ∃ t, exec (.trainStageDone p) s = .next t ∧ t.portState q = 1 ∧
        t.fget (RF.OPT_PORT_STAT_TSTAGE q) = k + 1 ∧ (k < 3 → t.out = s.out) ∧
        State.Only [.out, .regs, .fab] s t ∧ State.RegsBut [Reg.OPT_PORT_STAT q] s t) ∧
      (6 ≤ k → (s.link q).six < 3 → exec (.trainStageDone p) s = .next s) ∧
      (6 ≤ k → 3 ≤ (s.link q).six → ∃ t, exec (.trainStageDone p) s = .next t ∧
        t.portState q = (if q < 32 then 2 else 3) ∧
        t.fget (RF.OPT_PORT_STAT_TSTAGE q) = (if q < 32 then 6 else 7) ∧ (t.link q).rx = 0 ∧
        (t.link q).ident = false) ∧
      (∀ lane, ∃ t, exec (.trainStageOverrun p lane) s = .next t ∧
        t.portState q = (if q < 32 ∧ s.fget (RF.FAB_PORT_DIS q) = 1 then 6 else 0) ∧
        (t.link q).fails = (s.link q).fails + 1 ∧ (t.link q).replay = [] ∧
        t.fget (RF.FAB_PORT_DOWNS q) = satAdd (RF.FAB_PORT_DOWNS q).w (s.fget (RF.FAB_PORT_DOWNS q)) 1)) ∧
    (s.portState q = 3 → ∀ part, ∃ t, exec (.portStall p part) s = .next t ∧ t.portState q = 4 ∧
      State.Only [.out, .regs, .fab] s t ∧ State.RegsBut [Reg.FAB_PORT q] s t ∧
      (part = none → State.Only [.regs] s t) ∧
      (∀ (c h : CellW) (n : Fin 64) (o vc : Nat), part = some (c, n) →
        h = BitVec.ofNat 512 (c.toNat % 2 ^ (8 * n.val)) →
        12 ≤ n.val → s.fencedCell h = false → Cell.badHead h = false → Cell.vc h ≠ 6 → s.lookup q h = .port o vc →
        o < 32 → o ≠ q → s.canSend o vc = true → (s.link o).queue = [] →
        ∃ y, stomped y = true ∧ .link (s.txPort o) (linkTag (s.link o).tx y) y ∈ t.out ∧
          (t.link o).replay = (s.link o).replay ++ [((s.link o).tx, y)])) ∧
    (s.portState q = 4 → (s.link q).queue = [] → (q < 32 ∨ s.owner (q - 32) = 0 ∧ s.HostIdle) →
      ∃ t, exec (.portResume p) s = .next t ∧ t.portState q = 3 ∧
        s.SentBut t ((s.link q).replay.map fun e => .link (s.txPort q) (linkTag e.1 e.2) e.2) ∧
        t.link q = { s.link q with cells := (t.link q).cells } ∧ s.LinksBut t q ∧
        State.Only [.out, .regs, .fab] s t ∧ State.RegsBut [Reg.FAB_PORT q] s t) ∧
    (∀ cause, (match cause with
        | .silent => s.portState q = 4 ∨ s.portState q = 2
        | .goingDown => 2 ≤ s.portState q ∧ s.portState q ≤ 5
        | .untrained => s.portState q = 3) →
      ∃ t, exec (.portDown p cause) s = .next t ∧ (t.link q).replay = [] ∧
        t.portState q = (if q < 32 ∧ s.fget (RF.FAB_PORT_DIS q) = 1 then 6 else 0) ∧
        t.fget RF.FAB_DROP2_LINKLOSS = satAdd RF.FAB_DROP2_LINKLOSS.w (s.fget RF.FAB_DROP2_LINKLOSS)
          (s.link q).replay.length)) ∧
  (∀ dis, ∃ t, exec (.portDisWrite p dis) s = .next t ∧ t.fget (RF.FAB_PORT_DIS p) = b2n dis ∧
    (32 ≤ p.val → State.Only [.regs] s t ∧ State.RegsBut [Reg.FAB_PORT p] s t) ∧
    (p.val < 32 → dis = true → s.portState p ≤ 4 → t.portState p = 6) ∧
    (p.val < 32 → dis = true → s.portState p = 5 → (s.lsub p = 3 ∨ s.lsub p = 4) → t.portState p = 5 ∧ t.lsub p = 5 ∧
      t.out = s.out ++ [.optic (s.wirePort p) 0]) ∧
    (p.val < 32 → dis = false → s.portState p = 6 → t.portState p = 0))

/-- Loss of signal shuts a port and unmating its connector's ports; a shut port probes, answers a probe and is
restored to
training. An idle link asks for lull with a new token, and leaves it by a trigger, a tone or a timeout. -/
def Obligations.ShutAndLullHandshakes : Prop := ∀ (s : State) (p : ExtPort) (q : Nat), s.ActsAs p q →
  (∀ dark, s.portState q ≠ 6 → s.fget (RF.OPT_PORT_STAT_SHUT q) = 0 →
    ∃ t, exec (.openFibreShutoff p false dark) s = .next t ∧ t.fget (RF.OPT_PORT_STAT_SHUT q) = 1 ∧
      t.fget (RF.OPT_PORT_STAT_LOS q) = 1 ∧ .optic (s.wirePort q) 2 ∈ t.out ∧
      t.fget RF.OPT_SAFE_SHUT_CNT = satAdd RF.OPT_SAFE_SHUT_CNT.w (s.fget RF.OPT_SAFE_SHUT_CNT) 1 ∧
      (1 ≤ s.portState q → s.portState q ≤ 5 →
        t.portState q = (if s.fget (RF.FAB_PORT_DIS q) = 1 then 6 else 0)) ∧
      (dark = false → t.fget RF.OPT_SAFE_BACKSTOP = 1 ∧ t.opt.cut.get 0 (p / 16) = 1 ∧
        ∀ z < 32, z ≠ q → (∃ k < 16, s.logi (16 * (p / 16 : Nat) + k) = some z) → s.portState z = 3 →
          t.portState z = 4) ∧
      (dark = true → t.fget RF.OPT_SAFE_BACKSTOP = s.fget RF.OPT_SAFE_BACKSTOP)) ∧
  (∀ dark, s.substFor = none → ∃ t, exec (.openFibreShutoff p true dark) s = .next t ∧
    t.fbit RF.OPT_SAFE_MATED (p / 8) = false ∧
    ∀ i < 8, t.fget (RF.OPT_PORT_STAT_SHUT (8 * (p / 8 : Nat) + i)) = 1 ∧
      (t.link (8 * (p / 8 : Nat) + i)).fails = 0) ∧
  (s.fget (RF.OPT_PORT_STAT_SHUT q) = 1 → s.wireKind q ≠ 0 →
    (∀ i ∈ [Instr.shutProbe p, .probeSeen p], ∃ t, exec i s = .next t ∧ t.out = s.out ++ [.optic p 1] ∧
      State.Only [.out] s t) ∧
    (∃ t, exec (.shutRestore p) s = .next t ∧ t.fget (RF.OPT_PORT_STAT_SHUT q) = 0 ∧
      t.fget (RF.OPT_PORT_STAT_LOS q) = 0 ∧ t.fbit RF.OPT_SAFE_MATED (p / 8) = true ∧
      (s.portState q = 0 → s.mayTrain q = true → t.portState q = 1))) ∧
  (s.lullReady q = true → s.lsub q = 0 → s.module < s.wirePeer q →
    ∃ t l, exec (.lullRequest p) s = .next t ∧ (t.link q).ltok = ((s.link q).ltok + 1) % 16 ∧ t.lsub q = 1 ∧
      t.out = s.out ++ l ∧ l ≠ [] ∧ t.portState q = 3 ∧ State.Only [.out, .regs, .fab] s t ∧
      State.RegsBut [Reg.OPT_PORT_STAT q] s t ∧ s.LinksBut t q) ∧
  ((s.lsub q = 1 ∨ s.lsub q = 2) → ∃ t, exec (.lullAnswerTimeout p) s = .next t ∧ t.lsub q = 0 ∧
    State.Only [.out, .regs, .fab] s t ∧ State.RegsBut [Reg.OPT_PORT_STAT q] s t ∧
    ((s.link q).queue = [] → State.Only [.regs] s t)) ∧
  (s.lsub q = 2 → ∃ t, exec (.lossOfSymbols p) s = .next t ∧ t.portState q = 5 ∧ (t.link q).entryAt = s.clk ∧
    t.lsub q = (if s.wakeLevel q = true then 5 else 3) ∧ s.LinksBut t q ∧ State.Only [.out, .regs, .fab] s t ∧
    State.RegsBut [Reg.FAB_PORT q, Reg.OPT_PORT_STAT q] s t) ∧
  (s.portState q = 5 → (s.lsub q = 3 ∨ s.lsub q = 4) → s.wakeLevel q = true → ∃ t, exec (.lullWake p) s = .next t ∧
    t.lsub q = 5 ∧
    t.out = s.out ++ [.optic (s.wirePort q) 0] ∧ (t.link q).toned = false ∧ State.Only [.out, .regs, .fab] s t) ∧
  (s.portState q = 5 → 3 ≤ s.lsub q → s.lsub q ≤ 5 → ∃ t l, exec (.wakeTone p) s = .next t ∧ t.lsub q = 5 ∧
    (t.link q).toned = true ∧ t.out = s.out ++ l ∧ l ≠ [] ∧ State.Only [.out, .regs, .fab] s t ∧ s.LinksBut t q) ∧
  (s.portState q = 5 → s.lsub q = 5 → ∃ t, exec (.wakeTimeout p) s = .next t ∧
    t.portState q = (if s.fget (RF.FAB_PORT_DIS q) = 1 then 6 else 0) ∧ t.lsub q = 0)

/-- A laser whose samples meet the criterion leaves service and the lowest spare tunes to its slot, its ports stalled
meanwhile; a spare that does not tune fails in turn; a tuned one fills the slot. An ageing laser is replaced as planned.
A failed check retires a spare; a lane that meets a criterion of permanent fault fails its die; a power sample shows and
sets its port's flags. -/
def Obligations.LasersAndLanesAreReplaced : Prop := ∀ (s : State) (b : Fin 8),
  (∀ (l : Fin 35) (x : LaserSample) (r : LaserRec), (s.laser b l).st = 1 → (s.laser b l).slot < 28 →
    r = { s.laser b l with bias := min biasClamp x.bias.toNat, mpd := x.mpd.toNat } →
    (laserFailed x = false → ∃ t, exec (.laserFail b l x) s = .next t ∧ t.laser b l = r ∧ State.Only [.opt] s t) ∧
    (∀ i, laserFailed x = true → s.nextSpare b = some i →
      ∃ t, exec (.laserFail b l x) s = .next t ∧ t.laser b l = r.out ∧
      t.laser b i = { s.laser b i with st := 3 } ∧ t.takesOf b = s.takesOf b ++
        [{ failed := l.val, spare := i, slot := r.slot, planned := false }] ∧ t.BankShown b ∧
      (r.slot < 24 → s.portState (32 + b.val) = 3 → t.portState (32 + b.val) = 4) ∧
      (24 ≤ r.slot → ∀ k < 16, ∀ q < 32, s.logi (16 * ((r.slot - 24) / 2) + k) = some q → s.portState q = 3 →
        t.portState q = 4)) ∧
    (laserFailed x = true → s.nextSpare b = none → ∃ t, exec (.laserFail b l x) s = .next t ∧ t.laser b l = r.out ∧
      t.takesOf b = s.takesOf b ∧ t.opt.dark.get 0 (b * 32 + r.slot) = 1 ∧ t.BankShown b)) ∧
  (∀ (l : Fin 35) (x : LaserSample), (s.laser b l).st = 4 → (s.laser b l).slot < 28 → laserFailed x = true →
    ∃ t, exec (.laserFail b l x) s = .next t ∧ t.laser b l =
        LaserRec.out { s.laser b l with bias := min biasClamp x.bias.toNat, mpd := x.mpd.toNat } ∧
      t.takesOf b = (s.takesOf b).map fun x => if x.failed = l.val then { x with planned := false } else x) ∧
  (∀ (x : TakeRec) (xs : List TakeRec), s.takesOf b = x :: xs → x.spare < 35 → x.failed < 35 → x.slot < 28 →
    (s.laser b x.spare).st = 3 → x.failed ≠ x.spare →
    (∀ i, s.nextSpare b = some i → ∃ t, exec (.laserTuneTimeout b) s = .next t ∧
      t.laser b x.spare = (s.laser b x.spare).out ∧ t.laser b i = { s.laser b i with st := 3 } ∧
      t.takesOf b = xs ++ [{ x with spare := i }] ∧ t.BankShown b) ∧
    (s.nextSpare b = none → ∃ t, exec (.laserTuneTimeout b) s = .next t ∧ t.takesOf b = xs ∧
      t.laser b x.spare = (s.laser b x.spare).out ∧
      (x.planned = true → t.laser b x.failed = { s.laser b x.failed with st := 1 }) ∧
      (x.planned = false → t.opt.dark.get 0 (b * 32 + x.slot) = 1))) ∧
  (∀ x : TakeRec, s.takesOf b = [x] → x.spare < 35 → x.failed < 35 → x.slot < 28 → x.failed ≠ x.spare →
    (x.planned = false → ∃ t, exec (.laserTakeoverDone b) s = .next t ∧ t.takesOf b = [] ∧ t.BankShown b ∧
      t.laser b x.spare = { s.laser b x.spare with st := 1, slot := x.slot } ∧
      (x.slot < 24 → s.portState (32 + b.val) = 4 → (s.link (32 + b.val)).queue = [] →
        t.portState (32 + b.val) = 3)) ∧
    (x.planned = true → ∃ t, exec (.laserHandoverSwitch b) s = .next t ∧ t.takesOf b = [] ∧ t.BankShown b ∧
      t.laser b x.spare = { s.laser b x.spare with st := 1, slot := x.slot } ∧
      t.laser b x.failed = (s.laser b x.failed).out)) ∧
  (∀ (l : Fin 35) (bias mpd : BitVec 16) (v : Nat) (r : LaserRec), r = s.laser b l → r.st = 1 →
    v = min biasClamp bias.toNat →
    (v < s.fget RF.LSR_AGE_CFG_RETIRE_BIAS →
      overCurve v (s.fget RF.LSR_AGE_CFG_AGE_MARGIN) (r.hours + 1) = false →
      ∃ t, exec (.laserAgeCheck b l bias mpd) s = .next t ∧
        t.laser b l = { r with bias := v, mpd := mpd.toNat, hours := r.hours + 1 } ∧ State.Only [.opt] s t) ∧
    (∀ i, s.fget RF.LSR_AGE_CFG_RETIRE_BIAS ≤ v → s.nextSpare b = some i →
      ∃ t, exec (.laserAgeCheck b l bias mpd) s = .next t ∧ t.BankShown b ∧
        t.laser b l = { r with bias := v, mpd := mpd.toNat, hours := r.hours + 1, st := 4 } ∧
        t.laser b i = { s.laser b i with st := 3 } ∧ t.takesOf b = s.takesOf b ++
          [{ failed := l.val, spare := i, slot := r.slot, planned := true }])) ∧
  (∀ l : Fin 35, (s.laser b l).st = 2 → exec (.spareDailyCheck b l true) s = .next s ∧
    ∃ t, exec (.spareDailyCheck b l false) s = .next t ∧ t.laser b l = (s.laser b l).out ∧ t.BankShown b ∧
      s.Journaled t b 5 l 6) ∧
  (∀ (d : DieId) (dir : Fin 2) (lane : Fin 192),
    (s.lowLong d dir lane = false → s.ucwLong d dir lane = false →
      (s.link (32 + d.val)).fails < s.fget RF.OPT_DPERM_RETRAIN_LIM →
      exec (.dlanePermFault d dir lane) s = .next s) ∧
    (s.opt.perm.get 0 (dlaneKey d dir lane) ≠ 1 → s.NoCap d → s.dieState d ≠ 2 →
      (s.lowLong d dir lane = true ∨ s.ucwLong d dir lane = true ∨
        s.fget RF.OPT_DPERM_RETRAIN_LIM ≤ (s.link (32 + d.val)).fails) →
      ∃ t, exec (.dlanePermFault d dir lane) s = .next t ∧
        t.opt.perm.get 0 (dlaneKey d dir lane) = 1 ∧ t.dieState d = 2 ∧ t.portState (32 + d.val) = 0 ∧
        s.Journaled t d 6 d 2) ∧
    (∀ pwr : BitVec 16, s.opt.perm.get 0 (dlaneKey d dir lane) ≠ 1 → s.NoCap d → s.dieState d ≠ 2 →
      signedN 16 pwr.toNat < signedN 16 (s.fget RF.OPT_THRESH_ALARM_LO) → s.lowLong d dir lane = true →
      ∃ t, exec (.rxpwrSample ⟨32 + d.val, by omega⟩ dir lane pwr) s = .next t ∧
        t.opt.perm.get 0 (dlaneKey d dir lane) = 1 ∧ t.dieState d = 2)) ∧
  (∀ (p : LinkPort) (q : Nat) (dir : Fin 2) (lane : Fin 192) (pwr : BitVec 16), s.ActsAs p q →
    (p.val < 32 → lane.val < 16) → ∃ t ps, exec (.rxpwrSample p dir lane pwr) s = .next t ∧
      ps = (t.lanePwrs q).map (signedN 16) ∧
      (p.val < 32 → t.fget (RF.OPT_RXPWR_PWR q (lane / 4 : Nat) (lane % 4 : Nat)) = pwr.toNat) ∧
      (32 ≤ p.val → t.opt.dlane.get 0x8000 (dlaneKey (p.val - 32) dir lane) = pwr.toNat) ∧
      t.fget (RF.OPT_PORT_STAT_LOS q) = b2n (ps.all fun x => decide (x < -1100)) ∧
      t.fget (RF.OPT_PORT_STAT_PWR_WARN q) = b2n (ps.any fun x => decide
        (x < signedN 16 (s.fget RF.OPT_THRESH_WARN_LO) ∨ signedN 16 (s.fget RF.OPT_THRESH_WARN_HI) < x)) ∧
      t.fget (RF.OPT_PORT_STAT_PWR_ALARM q) = b2n (ps.any fun x => decide
        (x < signedN 16 (s.fget RF.OPT_THRESH_ALARM_LO) ∨ signedN 16 (s.fget RF.OPT_THRESH_ALARM_HI) < x)))

/-! LPDDR5X (R328 to R347). -/

/-- A write within one line is visible at once and joins its line's buffer entry, which leaves when whole; a full buffer
evicts its oldest; an aged entry leaves; a failed channel takes nothing. Reads and scrubs correct one symbol and count
it, and report what they cannot correct. Bands follow the temperature; a channel is fenced; a page is retired. -/
def Obligations.MemoryHomesWork : Prop := ∀ (s : State) (d : DieId),
  (∀ (off : BitVec 37) (data : Bytes) (tag ch q m : Nat) (es : List WcbEntry),
    s.inLine d off.toNat data.length = true → s.mapLine d off.toNat = (ch, q) → es = s.wcb d ch →
    m = byteMask (off.toNat % 60) (off.toNat % 60 + data.length) →
    (s.chFailed d ch = true → ∃ t, exec (.wcbWrite d off data tag) s = .next t ∧
      State.Only [.regs, .eng, .fab] s t ∧ State.RegsBut [Reg.FAB_NI_STAT d] s t ∧
      t.rxOf d = ((s.rxOf d).map fun x => if x.tag d = tag then { x with bad := true } else x) ∧
      ∀ e < 4, t.ceQ d e = (s.ceQ d e).map fun j =>
        if cmdTag j.core j.seq = tag then { j with status := 7 } else j) ∧
    (s.chFailed d ch = false → s.lp.lineErr = [] →
      ∃ t, exec (.wcbWrite d off data tag) s = .next t ∧ s.Wrote t (atDie d [(off.toNat, data)]) ∧
        State.Only [.regs, .mem, .lp] s t ∧
        (es.find? (fun x => x.q == q) = none → m = fullMask → t.wcb d ch = es) ∧
        (es.find? (fun x => x.q == q) = none → m ≠ fullMask → es.length < 64 →
          t.wcb d ch = es ++ [{ q := q, valid := m, tags := [tag], last := s.clk }]) ∧
        (∀ e rest, es.find? (fun x => x.q == q) = none → m ≠ fullMask → 64 ≤ es.length → es = e :: rest →
          t.fget (RF.WCB_FWD_FORCED d) = satAdd (RF.WCB_FWD_FORCED d).w (s.fget (RF.WCB_FWD_FORCED d)) 1 ∧
          t.wcb d ch = (es.filter fun x => x.q != e.q) ++
            [{ q := q, valid := m, tags := [tag], last := s.clk }]) ∧
        (∀ e, es.find? (fun x => x.q == q) = some e →
          (Nat.lor e.valid m ≠ fullMask → t.wcb d ch = (es.filter fun x => x.q != q) ++
            [{ e with valid := Nat.lor e.valid m, tags := (e.tags.filter fun z => z != tag) ++ [tag]
                      last := s.clk }]) ∧
          (Nat.lor e.valid m = fullMask → t.wcb d ch = es.filter (fun x => x.q != q) ∧
            t.fget (RF.WCB_STAT_FULLW d) = satAdd (RF.WCB_STAT_FULLW d).w (s.fget (RF.WCB_STAT_FULLW d)) 1)))) ∧
  (∀ (ch : Fin 16) (q : BitVec 27) (e : WcbEntry), (s.wcb d ch).find? (fun x => x.q == q.toNat) = some e →
    s.chFailed d ch = false → s.lp.lineErr = [] → ∃ t, exec (.wcbAgeEvict d ch q) s = .next t ∧
      t.wcb d ch = (s.wcb d ch).filter (fun x => x.q != q.toNat) ∧
      (e.valid = fullMask → t.fget (RF.WCB_STAT_FULLW d) =
        satAdd (RF.WCB_STAT_FULLW d).w (s.fget (RF.WCB_STAT_FULLW d)) 1) ∧
      (e.valid ≠ fullMask → t.fget (RF.WCB_STAT_RMW d) =
        satAdd (RF.WCB_STAT_RMW d).w (s.fget (RF.WCB_STAT_RMW d)) 1) ∧ State.Only [.regs, .lp] s t) ∧
  (∀ (i : List (Fin 68 × Byte) → Instr) (ch q : Nat),
    ((∃ (off : BitVec 37) (len : Fin 61), i = .homeRead d off len ∧ s.inLine d off.toNat len = true ∧
        s.mapLine d off.toNat = (ch, q) ∧ q < 2 ^ 27 ∧ s.lineOff d ch q = some (off.toNat / 60 * 60)) ∨
      ∃ (c : Fin 16) (l : BitVec 27), i = .lpddrScrub d c l ∧ ch = c.val ∧ q = l.toNat ∧
        s.fbit (RF.MEM_CHMAP_INSVC d) ch = true) →
    (s.chFailed d ch = true → ∀ err, exec (i err) s = .next s) ∧
    (s.chFailed d ch = false → s.lp.lineErr = [] →
      (∃ t, exec (i []) s = .next t ∧ State.Only [.regs] s t ∧ State.RegsBut [Reg.WCB_FWD d] s t ∧
        ∀ (off : BitVec 37) (len : Fin 61), i = .homeRead d off len → t.fget (RF.WCB_FWD_FWD d) =
          satAdd (RF.WCB_FWD_FWD d).w (s.fget (RF.WCB_FWD_FWD d)) (s.fwdLines d off.toNat len)) ∧
      (∀ (k : Fin 68) (v : Byte), (k.val < 60 ∨ 64 ≤ k.val) → v ≠ 0 →
        ∃ t, exec (i [(k, v)]) s = .next t ∧ State.Only [.regs, .lp] s t ∧
          State.RegsBut [Reg.MEM_CH_STAT d ch, Reg.WCB_FWD d] s t ∧
          t.fget (RF.MEM_CH_STAT_CE d ch) = satAdd (RF.MEM_CH_STAT_CE d ch).w (s.fget (RF.MEM_CH_STAT_CE d ch)) 1 ∧
          (s.pendingMask d ch q = 0 → t.lp = s.lp) ∧
          (s.pendingMask d ch q ≠ 0 → t.lp = (s.strike d ch q [(k, v)]).lp)) ∧
      (∀ err n, ((s.strike d ch q err).readLine d ch q).2 = false → s.capState d = 0 → ch < 16 →
        n = ((s.lp.ueAt.get [] (chKey d ch)).filter fun x => decide (s.clk < x + 1000000000)).length + 1 →
        ∃ t, exec (i err) s = .next t ∧ (∀ k, t.byte k = s.byte k) ∧
          t.lp.lineErr = (s.strike d ch q err).lp.lineErr ∧ t.fget (RF.MEM_CH_STAT_UE d ch) =
            satAdd (RF.MEM_CH_STAT_UE d ch).w (s.fget (RF.MEM_CH_STAT_UE d ch)) 1 ∧
          t.fget (RF.COMB_ERR_MEM_UE d) = 1 ∧
          (n ≤ s.fget (RF.MEM_CFG_CH_UE_LIM d) → State.Only [.regs, .log, .lp] s t ∧
            ∀ c, t.wcb d c = s.wcb d c ∧ t.chFailed d c = s.chFailed d c) ∧
          (s.fget (RF.MEM_CFG_CH_UE_LIM d) < n → s.fbit (RF.MEM_CHMAP_INSVC d) ch = true →
            t.chFailed d ch = true ∧ t.wcb d ch = [] ∧ s.Journaled t d 3 ch 4)))) ∧
  (∀ (pkg : Fin 32) (temp : Byte) (die c0 b : Nat), die = pkg.val / 4 → c0 = 4 * (pkg.val % 4) →
    b = bandNext (s.fget (RF.MEM_CH_STAT_BAND die c0) + s.fget (RF.MEM_CH_STAT_THROT die c0)) temp.toNat →
    (b = s.fget (RF.MEM_CH_STAT_BAND die c0) + s.fget (RF.MEM_CH_STAT_THROT die c0) →
      exec (.mr4Poll pkg temp) s = .next s) ∧
    (b ≠ s.fget (RF.MEM_CH_STAT_BAND die c0) + s.fget (RF.MEM_CH_STAT_THROT die c0) → s.host.setups = [] →
      ∃ t, exec (.mr4Poll pkg temp) s = .next t ∧ (∀ k < 4, t.fget (RF.MEM_CH_STAT_BAND die (c0 + k)) = min 3 b ∧
        t.fget (RF.MEM_CH_STAT_THROT die (c0 + k)) = b / 4) ∧ State.Only [.regs, .log] s t ∧
        State.RegsBut ((List.range 4).map fun k => Reg.MEM_CH_STAT die (c0 + k)) s t)) ∧
  (∀ (chan : Fin 128) (cause : Fin 3) (die c : Nat), die = chan.val / 16 → c = chan.val % 16 →
    s.fbit (RF.MEM_CHMAP_INSVC die) c = true → s.chFailed die c = false → s.capState die = 0 →
    ∃ t, exec (.channelFail chan cause) s = .next t ∧ t.chFailed die c = true ∧ t.wcb die c = [] ∧
      t.fget (RF.COMB_ERR_CH_FAIL die) = 1 ∧ s.Journaled t die 3 c 4 ∧
      t.Queued die (mkEvent 0x8702 die (chKey die c) 2 (memPay die c (3 + cause.val) 0 0 0)) ∧
      (∀ k, t.byte k = s.byte k)) ∧
  (∀ (f : FnId) (c : Fin 16) (page : BitVec 17) (s0 : State), s0 = (s.fset (RF.MEM_RETIRE_CH d) c).fset
      (RF.MEM_RETIRE_PAGE d) page.toNat →
    (f.val ≠ 0 → ∃ t, exec (.memRetire f d c page) s = .next t ∧ t.fget RF.HIVE_WREJ_REASON = 0x6B04 ∧
      t.lp = s.lp ∧ State.Only [.out, .regs, .log] s t) ∧
    (∀ r, f.val = 0 → pick (s0.retireConds d c page.toNat) = some r → ∃ t,
      exec (.memRetire f d c page) s = .next t ∧ t.lp = s.lp ∧ t.fget (RF.MEM_RETIRE_RESULT d) = 3 ∧
      t.fget (RF.MEM_RETIRE_REASON d) = r ∧ State.Only [.out, .regs, .log] s t) ∧
    (f.val = 0 → pick (s0.retireConds d c page.toNat) = none → s.lp.lineErr = [] → s.wcb d c = [] →
      ∃ t, exec (.memRetire f d c page) s = .next t ∧
        t.lp.remap.get 0 (pageKey d c page.toNat) = pagesPerChan - s.fget (RF.MEM_CH_STAT_RET d c) ∧
        t.fget (RF.MEM_CH_STAT_RET d c) = s.fget (RF.MEM_CH_STAT_RET d c) + 1 ∧
        t.fget (RF.MEM_RETIRE_RESULT d) = 2 ∧ s.Journaled t d 8 c page.toNat ∧ (∀ k, t.byte k = s.byte k)))

/-! Fences and resets (R408 to R412, R436 to R445). -/

/-- A fence list that fails its checks changes nothing it would fence; a one-entry list does what its kind says; notices
go to a fenced module and are obeyed. -/
def Obligations.FencesHoldTheirUnits : Prop := ∀ (s : State),
  (∀ (f : FnId) (list : Bytes) (n : Nat) (r : Nat), s.fget RF.SAF_FENCE_CTL_RESULT ≠ 1 →
    n = s.fget RF.SAF_FENCE_CTL_COUNT →
    pick ([(decide (f.val ≠ 0), 0x6B04), (!s.readsOk 0 (s.reg Reg.SAF_FENCE_ADDR).toNat (16 * n), 0x6B01),
      (decide (n = 0 ∨ 256 < n), 0x5D01)] ++
      ((fenceEntries n list).foldl (fun v e => s.fenceCheck v e) s.fenceView).bad) = some r →
    ∃ t, exec (.fenceList f list) s = .next t ∧ t.fget RF.SAF_FENCE_CTL_RESULT = 3 ∧
      t.fget RF.SAF_FENCE_CTL_REASON = r ∧ State.Only [.out, .regs, .log, .fab] s t) ∧
  (∀ (list e : Bytes) (own : Prop), s.FenceOk list e → (own ↔ feMOD e = s.module) →
    ∃ t, exec (.fenceList 0 list) s = .next t ∧
      (¬(own ∧ feKIND e = 1) → t.fget RF.SAF_FENCE_CTL_RESULT = 2) ∧
      (¬own → (feKIND e = 1 ∨ feKIND e = 2) → (∃ x ∈ t.saf.fence, (x.md, x.die) = feUnit e ∧ x.at_ = s.clk ∧
        x.left = 100) ∧ t.saf.dies = s.saf.dies) ∧
      (own → feKIND e = 1 → s.eng.clDrain = [] → s.Restarted t ∧ t.boot.selfFenced = true ∧
        (∀ d < 8, t.dieState d = 3) ∧ t.saf.fence.map (fun x => (x.md, x.die)) = [(s.module, none)]) ∧
      (own → feKIND e = 2 → s.NoCap (feDIE e) → t.DieHeld (feDIE e)) ∧
      (own → feKIND e = 3 → t.coreState (feCORE e) = csFENCED ∧ t.saf.cores.get 0 (feCORE e) = 1 ∧
        s.Stopped t (feCORE e)) ∧
      ((feKIND e = 4 ∨ feKIND e = 5) →
        t.saf.fence = s.saf.fence.filter fun x => !decide (x.md = (feUnit e).1 ∧ x.die = (feUnit e).2)) ∧
      (own → feKIND e = 4 → s.fenceHas (feUnit e) = true → t.boot.selfFenced = false ∧ ∀ d < 8,
        s.dieState d = 3 → s.saf.dies.get 0 d ≠ 1 → s.boot.dieWas.get 0 d < 3 →
          t.dieState d = s.boot.dieWas.get 0 d) ∧
      (own → feKIND e = 5 → s.fenceHas (feUnit e) = true → t.saf.dies.get 0 (feDIE e) = 2) ∧
      (own → feKIND e = 6 → s.saf.cores.get 0 (feCORE e) = 1 → t.saf.cores.get 0 (feCORE e) = 2 ∧
        t.core = s.core) ∧
      (own → feKIND e = 7 → ∀ d < 8, t.diePgen d = if d ∈ s.genDies e then fePGEN e else s.diePgen d)) ∧
  (∀ (k : Fin 512) (x : FenceEnt), s.saf.fence[k.val]? = some x → x.left ≠ 0 → x.md ≠ s.module →
    ∃ t, exec (.fenceNoticeSend k) s = .next t ∧ s.SentTo t 12 x.md ∧
      t.saf.fence = s.saf.fence.set k { x with left := x.left - 1 } ∧ State.Only [.out, .saf] s t) ∧
  (s.boot.selfFenced = true → ∃ t, exec (.fenceNoticeReceive none) s = .next t ∧ State.Only [.fab] s t ∧
    (∀ a x b, s.fab.mgmtQ = a ++ x :: b → Cell.type x.2 = 12 → (∀ y ∈ a, Cell.type y.2 ≠ 12) →
      t.fab.mgmtQ = a ++ b)) ∧
  (s.boot.selfFenced = false → s.eng.clDrain = [] → ∃ t, exec (.fenceNoticeReceive none) s = .next t ∧
    s.Restarted t ∧ t.boot.selfFenced = true ∧ ∀ d < 8, t.dieState d = 3) ∧
  (∀ d : DieId, s.fenceHas (s.module, some d.val) = false → s.NoCap d →
    ∃ t, exec (.fenceNoticeReceive (some d)) s = .next t ∧ t.DieHeld d)

/-- A reset is refused with its reason, or runs: QN_RESET shows it pending, the cores stop and will leave it idle; a
partition's dies enter reset and its rings are disabled; a module reset clears what R411 clears and keeps the registers'
warm fields. A verified RESET_REQ does the same; a rejected one changes nothing but the answer. -/
def Obligations.ResetsStopAndClear : Prop := ∀ (s : State),
  (∀ (c : CoreId) (d : DieId) (k : Fin 32) (st ps kat : Bool) (p : PartId) (ks : List KatUnit) (i : Instr)
      (cs : List (Bool × Nat)),
    (i, cs) ∈ [(Instr.coreReset c kat, s.coreRstConds (dieOf c) [c.val]),
      (.clusterReset d k st ps kat, s.coreRstConds d (clCores d k)),
      (.partitionReset p ks, [(!s.partOn p, 0x5C01), (s.partBusy p, 0x5C04)])] →
    (s.fget RF.QN_RESET_RESULT = 1 → ∃ t, exec i s = .next t ∧ t.fget RF.HIVE_WREJ_REASON = 0x5C04 ∧
      t.fget RF.QN_RESET_RESULT = 1 ∧ State.Only [.out, .regs, .log] s t) ∧
    (∀ r, s.fget RF.QN_RESET_RESULT ≠ 1 → pick cs = some r → ∃ t, exec i s = .next t ∧
      t.fget RF.QN_RESET_RESULT = 3 ∧ t.fget RF.QN_RESET_REASON = r ∧ t.fget RF.HIVE_WREJ_REASON = r ∧
      State.Only [.out, .regs, .log] s t)) ∧
  (s.fget RF.QN_RESET_RESULT ≠ 1 →
    (∀ (c : CoreId) (kat : Bool), pick (s.coreRstConds (dieOf c) [c.val]) = none → s.capState (dieOf c) = 0 →
      ∃ t, exec (.coreReset c kat) s = .next t ∧ t.fget RF.QN_RESET_RESULT = 1 ∧
        (t.coreRec c).resetting = true ∧ (t.coreRec c).katBad = kat ∧ t.boot.goAt = s.clk ∧ ∀ k < 2048, k ≠ c.val →
          t.coreRec k = s.coreRec k ∧ t.coreState k = s.coreState k) ∧
    (∀ (d : DieId) (k : Fin 32) (st ps kat : Bool), pick (s.coreRstConds d (clCores d k)) = none →
      s.capState d = 0 → ∃ t, exec (.clusterReset d k st ps kat) s = .next t ∧ t.fget RF.QN_RESET_RESULT = 1 ∧
        (∀ c ∈ clCores d k, (t.coreRec c).resetting = true) ∧ t.boot.goAt = s.clk ∧
        t.clDraining d k = s.clDraining d k + 2 + (if st = true ∧ ps = false then 4 else 0) +
          if kat = true then 8 else 0) ∧
    (∀ (p : PartId) (ks : List KatUnit), s.partOn p = true → s.partBusy p = false →
      (∀ d ∈ s.diesOf (p.val + 1), s.capState d = 0) →
      ∃ t, exec (.partitionReset p ks) s = .next t ∧ t.fget RF.QN_RESET_RESULT = 1 ∧
        t.fget (RF.HIVE_PART_RESET p) = 1 ∧
        (t.part p).katBad = ks.map (fun x => (x.1.val, x.2.1.val, x.2.2.val)) ∧
          (∀ d ∈ s.diesOf (p.val + 1), t.dieState d = 3) ∧
        (∀ r ∈ s.ringsOf (p.val + 1), t.fget (RF.RING_CFG_EN r) = 0 ∧ t.ringRec r = {}) ∧
        ∀ x ∈ t.smp.ctxs, x.job ≠ s.fget (RF.HIVE_PART_JOB p)) ∧
    (∀ cold, s.Inv → s.eng.clDrain = [] → s.fget RF.QN_RETAIN_BUSY = 0 → s.boot.selfFenced = false →
      (∀ d < 8, s.dieState d ≠ 3) → ∃ t, exec (.moduleReset cold) s = .next t ∧ s.Restarted t ∧
        t.boot.cold = cold ∧ t.boot.byReset = true ∧ t.fget RF.QN_RESET_RESULT = 1 ∧ (∀ k, t.byte k = s.byte k) ∧
        ∀ o, o ≠ Reg.QN_RESET → o ≠ Reg.SAF_FENCE_CTL →
          t.reg o = mixBits (maskAt (fun f => f.keptWarm && !(cold && f.untilTrained o)) o) (s.reg o) (coldOf o))) ∧
  (∀ (c : CoreId) (d ph : Nat) (t : State), d = dieOf c → ph = s.clPhys d (c % 256 / 8 : Nat) → t = s.coreResetTry c →
    (s.coreRec c).resetting = true → (s.coreRec c).outst = [] → s.clDraining d (c % 256 / 8 : Nat) = 0 →
    s.dieState d ≠ 3 → s.tapHolds d = false → s.saf.cores.get 0 c = 0 →
    t.fget RF.QN_RESET_RESULT = 2 ∧
    ((s.coreRec c).katBad = false → t.coreRec c = {} ∧ t.coreState c = csIDLE ∧ t.fget (RF.RNG_STAT_KAT_OK d) = 1) ∧
    ((s.coreRec c).katBad = true → t.fget (RF.RNG_STAT_KAT_OK d) = 0 ∧
      (ph < 34 → s.clGone d ph = false → (∀ k ∈ s.clsOn d ph, bitN (s.clDraining d k) 0 = false) →
        s.Journaled t d 1 ph 5))) ∧
  (∀ (header : Bytes) (nonce : Word64) (tag : Bytes) (good : Prop),
    (good ↔ ((∃ b ∈ s.saf.key, b ≠ 0) ∧ tag = hmacSha256 s.saf.key (header ++ leBytes 8 nonce.toNat) ∧
      s.fget RF.SAF_MGNONCE_NONCE < nonce.toNat)) →
    ((s.pwr.aon = false ∨ isResetReq header = false) → exec (.resetReq header nonce tag) s = .next s) ∧
    (s.pwr.aon = true → isResetReq header = true →
      (¬good → ∃ t, exec (.resetReq header nonce tag) s = .next t ∧ State.Only [.out, .log] s t) ∧
      (good → s.pwr.rails = true → s.eng.clDrain = [] → ∃ t, exec (.resetReq header nonce tag) s = .next t ∧
        s.Restarted t ∧ t.boot.byReset = true) ∧
      (good → s.pwr.rails = false → s.fget RF.LOG_STAT_SSTATE = 2 → s.pwr.down = false →
        ∃ t, exec (.resetReq header nonce tag) s = .next t ∧ t.fget RF.SAF_MGNONCE_NONCE = nonce.toNat ∧
          (s.saf.cause = true → t.saf.resetWait = true ∧ t.pwr = s.pwr) ∧
          (s.saf.cause = false → t.pwr.rails = true))))

/-! Bring-up and retained state (R386 to R417, R475, R492). -/

/-- Power good starts bring-up; each phase's end leads to the next, or stops with its code; the comb image reaches the
dies whose port is UP and its top region is zeroed again, and a core whose record fails twice loses its cluster; the
other image, the retained record, the key and the lock are written as the spec says. What the image holds beside the
records is open (log entry 75). -/
def Obligations.BringUpAdvances : Prop := ∀ (s : State),
  ((s.pwr.rails = true ∨ s.pwr.down = true ∨ s.saf.cause = true) → exec .powerOn s = .next s) ∧
  (s.pwr.rails = false → s.pwr.down = false → s.saf.cause = false → ∃ t, exec .powerOn s = .next t ∧
    t.pwr.aon = true ∧ t.pwr.rails = true ∧ t.tim.ts = 0 ∧ t.boot.t0 = s.clk ∧ t.fget RF.LOG_STAT_SSTATE = 0 ∧
    State.RegsBut [Reg.LOG_STAT] s t) ∧
  (∀ (r : PhaseResult) (ph : Nat), ph = s.fget RF.QN_BOOT_STAT_PHASE →
    ((s.pwr.rails = false ∨ s.boot.selfFenced = true ∨ 5 ≤ ph) → exec (.bringupPhaseEnd r) s = .next s) ∧
    (s.pwr.rails = true → s.boot.selfFenced = false →
      (ph = 0 → (r.stop = 1 ∨ s.boot.image = none) → ∃ t, exec (.bringupPhaseEnd r) s = .next t ∧
        t.fget RF.QN_BOOT_STAT_PHASE = 7 ∧ t.fget RF.QN_BOOT_STAT_STOPCODE = 1) ∧
      (∀ slot seq ver older, ph = 0 → r.stop ≠ 1 → s.Inv → s.boot.image = some (slot, seq, ver, older) →
        ver < 2 ^ 32 → ∃ t, exec (.bringupPhaseEnd r) s = .next t ∧ t.fget RF.QN_BOOT_STAT_PHASE = 1 ∧
          t.fget RF.QN_FW_STAT_SLOT = b2n slot ∧ t.fget RF.QN_FW_STAT_VERSION = ver ∧
          t.fget RF.QN_FW_STAT_FALLBACK = b2n older ∧ t.boot.other = false ∧
          (s.boot.newest = none → t.fget RF.QN_BOOT_STAT_PATH = 1 ∧ t.fget RF.QN_RETAIN_LOST = 1 ∧ t.module = 0) ∧
          (∀ b x, s.boot.newest = some (b, x) →
            t.fget RF.QN_BOOT_STAT_PATH = (if s.coldWhy (some x) r.temps r.fmtSame = 0 then 2 else 1) ∧
            t.boot.wire = x.wire ∧ t.module = (if x.wire = [] then 0 else leAt x.wire 0 2 % 4096))) ∧
      (ph = 1 → r.stop.val < 2 → ∃ t, exec (.bringupPhaseEnd r) s = .next t ∧ t.fget RF.QN_BOOT_STAT_PHASE = 2 ∧
        t.fget RF.TIM_CTL_REF_OK = b2n r.refclk ∧ ∀ d < 8, t.fget (RF.COMB_CLK_CORE_MHZ d) = 1600) ∧
      (ph = 1 → 2 ≤ r.stop.val → ∃ t, exec (.bringupPhaseEnd r) s = .next t ∧
        t.fget RF.QN_BOOT_STAT_PHASE = 7 ∧ t.fget RF.QN_BOOT_STAT_STOPCODE = r.stop.val) ∧
      (ph = 2 → (∀ d < 8, s.NoCap d) → ∃ t, exec (.bringupPhaseEnd r) s = .next t ∧
        t.fget RF.QN_BOOT_STAT_PHASE = 3 ∧ t.boot.sramUp = true ∧ t.log.staging = [] ∧
        (∀ (d : DieId) (c : Fin 16), s.chFailed d c = false →
          ((d, c) ∈ r.chans → t.chFailed d c = true ∧ t.fget (RF.MEM_CH_STAT_TRAINED d c) = 0 ∧
            t.fbit (RF.MEM_CHMAP_INSVC d) c = false) ∧
          ((d, c) ∉ r.chans → t.chFailed d c = false ∧ t.fget (RF.MEM_CH_STAT_TRAINED d c) = 1 ∧
            t.fbit (RF.MEM_CHMAP_INSVC d) c = true)) ∧
        ∀ d < 8, ∀ a, (a < 2 ^ 37 ∨ sramBase ≤ a ∧ a < sramBase + sramSize) → t.byte (d * 2 ^ 40 + a) = 0) ∧
      (ph = 3 → (s.boot.wire = [] ∨ s.peersReady = false ∧ s.boot.peerOver = false) →
        ∃ t, exec (.bringupPhaseEnd r) s = .next t ∧ t.fget RF.QN_BOOT_STAT_PHASE = 3 ∧ State.Only [.regs] s t) ∧
      (ph = 3 → s.boot.wire ≠ [] → (s.peersReady = true ∨ s.boot.peerOver = true) →
        ∃ t, exec (.bringupPhaseEnd r) s = .next t ∧ t.fget RF.QN_BOOT_STAT_PHASE = 4 ∧
          ∀ b < 8, t.BankShown b ∧ ∀ i < 35, (t.laser b i).st ≠ 0) ∧
      (ph = 4 → ∃ t, exec (.bringupPhaseEnd r) s = .next t ∧
        (t.fget RF.QN_BOOT_STAT_PHASE = 5 ∨ t.fget RF.QN_BOOT_STAT_PHASE = 7 ∧
          t.fget RF.QN_BOOT_STAT_STOPCODE = 4 ∧ ∀ d < 8, t.dieState d = 2) ∧
        (∀ x ∈ r.lanes, t.upd.lost.get 0 (x.1 * 8 + x.2 : Nat) ≠ 0) ∧
        (∀ d ∈ r.mves, t.fget (RF.MVE_STAT_RETIRED d) = 1) ∧
        (∀ x ∈ r.kat, (x.2.1 = 1 → t.fget (RF.MVE_STAT_RETIRED x.1) = 1) ∧
          (x.2.1 = 0 → x.2.2.val < 7 → t.arrSt x.1 x.2.2 = 5)) ∧
        ∀ d : DieId, t.fget (RF.RNG_STAT_KAT_OK d) = if ∃ x ∈ r.kat, x.1 = d then 0 else 1))) ∧
  (∀ d : DieId, (s.combStream.boot.combIn.get 0 d = if s.portState (32 + d.val) = 3 then s.combVersion + 1 else 0) ∧
    (∀ k, (s.combZero d).byte k = if s.boot.combIn.get 0 d ≠ 0 ∧ d * 2 ^ 40 + sramBase + combOff ≤ k ∧
      k < d * 2 ^ 40 + sramBase + sramSize then 0 else s.byte k) ∧
    (s.boot.combIn.get 0 d ≠ 0 →
      ((s.combCores d []).eng = s.eng ∧ (s.combCores d []).boot.comb.get 0 d = s.boot.combIn.get 0 d) ∧
      ∀ (c : CoreId) (a b : CellW) (ph : Nat), dieOf c = d → ph = s.clPhys d (c % 256 / 8 : Nat) → s.NoCap d →
        recordGood c (s.combGot [(c, a, b)] c).1 = false → recordGood c (s.combGot [(c, a, b)] c).2 = false →
        s.core = {} → s.eng.clDrain = [] → ph < 34 → s.clGone d ph = false →
        (s.combCores d [(c, a, b)]).clGone d ph = true ∧ s.Journaled (s.combCores d [(c, a, b)]) d 1 ph 5)) ∧
  (s.pwr.rails = true → s.fget RF.QN_BOOT_STAT_PHASE = 0 →
    exec .fwBootFallback s = .next { s with boot := { s.boot with other := true } }) ∧
  (s.fget RF.QN_BOOT_STAT_PHASE = 3 → s.boot.wire ≠ [] →
    exec .peerWaitExpire s = .next { s with boot := { s.boot with peerOver := true } }) ∧
  (∀ b x, s.boot.newest = some (b, x) → x.seq < 2 ^ 32 → ∃ t y, exec (.retainStore true) s = .next t ∧
    t.boot.newest = some (!b, y) ∧ y.seq = (x.seq + 1) % 2 ^ 32 ∧ y.regs = s.retainedRegs ∧ y.wire = s.boot.wire ∧
    y.key = s.saf.key ∧ y.lasers = s.opt.lasers ∧ t.boot.journal = [] ∧ t.fget RF.QN_RETAIN_BUSY = 0 ∧
    t.fget RF.QN_RETAIN_SEQ = y.seq ∧ t.fget RF.QN_RETAIN_SLOT = b2n (!b)) ∧
  (∃ t, exec (.retainStore false) s = .next t ∧ t.fget RF.QN_RETAIN_FAIL = 1 ∧
    t.boot = { s.boot.setSlot s.boot.target none with retry := !s.boot.retry } ∧
    t.fget RF.QN_RETAIN_BUSY = b2n (!s.boot.retry)) ∧
  (∀ (sig : Bool) (seq ver : BitVec 32), s.fget RF.QN_FW_CTL_RESULT ≠ 1 →
    (s.inWindows 0 (s.reg Reg.QN_FW_ADDR).toNat 4096 false = true →
      ∃ t img, exec (.fwWrite sig seq ver) s = .next t ∧ img = (if sig then some (seq.toNat, ver.toNat) else none) ∧
        t.boot = (if s.fget RF.QN_FW_STAT_SLOT = 1 then { s.boot with imgA := img } else { s.boot with imgB := img }) ∧
        t.fget RF.QN_FW_CTL_RESULT = (if sig then 2 else 3)) ∧
    (s.inWindows 0 (s.reg Reg.QN_FW_ADDR).toNat 4096 false = false →
      ∃ t, exec (.fwWrite sig seq ver) s = .next t ∧ t.boot = s.boot ∧ t.fget RF.QN_FW_CTL_RESULT = 3 ∧
        t.fget RF.HIVE_WREJ_REASON = 0x6B01)) ∧
  (s.fget RF.HIVE_LOCK_LOCK = 1 → ∃ t, exec .mgkeyCommit s = .next t ∧ t.saf = s.saf ∧
    t.fget RF.HIVE_WREJ_RO_CNT = satAdd RF.HIVE_WREJ_RO_CNT.w (s.fget RF.HIVE_WREJ_RO_CNT) 1) ∧
  (s.fget RF.HIVE_LOCK_LOCK = 0 → s.saf.stage = [] → ∃ t, exec .mgkeyCommit s = .next t ∧ t.saf = s.saf ∧
    t.fget RF.HIVE_WREJ_REASON = 0x5F05) ∧
  (s.fget RF.HIVE_LOCK_LOCK = 0 → s.saf.stage ≠ [] → ∃ t, exec .mgkeyCommit s = .next t ∧ t.saf.stage = [] ∧
    t.saf.key = (List.range 4).flatMap (fun k => leBytes 8 (s.saf.stage.get 0 k)) ∧
    t.fget RF.SAF_MGKEY_CTL_KEYSET = 1 ∧ State.Only [.regs, .saf] s t ∧
    State.RegsBut [Reg.SAF_MGKEY_CTL] s t) ∧
  (∃ t, exec .configLock s = .next t ∧ t.fget RF.HIVE_LOCK_LOCK = 1 ∧ State.Only [.regs] s t ∧
    State.RegsBut [Reg.HIVE_LOCK] s t) ∧
  (s.tap.run = none → exec .instrumentRunDone s = .next s) ∧
  (s.tap.run ≠ none → ∃ t, exec .instrumentRunDone s = .next t ∧ t.tap.run = none ∧
    t.fget RF.TAP_STAT_RUN = 0)

/-! Registers, windows and the aperture (R353, R354, R470 to R490). -/

/-- A register write stores exactly the writable fields it reaches; refused values leave their fields, reserved offsets
and a VF's windows are only counted. The written rows do what their registers do; a GO written without a row starts
its load with host data that are free values (log entry 40); die windows and the aperture answer. -/
def Obligations.RegistersAreWrittenAndRead : Prop := ∀ (s : State),
  (∀ (f : FnId) (off : BitVec 26) (size : Fin 9) (v : Word64),
    ((barOk off.toNat size = false ∨ f.val ≠ 0 ∧ 0x10000 ≤ off.toNat) →
      exec (.registerWrite f off size v) s = .next (s.emit (.busReply f none))) ∧
    (barOk off.toNat size = true → f.val = 0 → regAt (off.toNat / 8 * 8) = none →
      ∃ t, exec (.registerWrite f off size v) s = .next t ∧ s.Wrote1 t [] ∧
        t.fget RF.HIVE_WREJ_RO_CNT = satAdd RF.HIVE_WREJ_RO_CNT.w (s.fget RF.HIVE_WREJ_RO_CNT) 1) ∧
    (barOk off.toNat size = true → f.val ≠ 0 → off.toNat < 0x10000 →
      (s.vfOff f (off.toNat / 8 * 8) = none ∨ 0x2000 ≤ off.toNat ∧ off.toNat < 0x2100) →
      ∃ t, exec (.registerWrite f off size v) s = .next t ∧ s.Wrote1 t [])) ∧
  (∀ (off : BitVec 26) (size : Fin 9) (v raw wr new : Word64) (k base idx : Nat) (r : RegDef),
    barOk off.toNat size = true → base = off.toNat / 8 * 8 → k < 8 → base ∈ plainRegs k →
    regAt base = some (r, idx) → wr = r.mask (fun x => s.mayWrite false x && x.within (off.toNat % 8) size) →
    raw = (v <<< (8 * (off.toNat % 8))) &&& writtenBits (off.toNat % 8) size → new = mixBits wr raw (s.reg base) →
    (badFields r.base wr new = [] → s.badWhole r.base base new = none →
      ∃ t, exec (.registerWrite 0 off size v) s = .next t ∧ t.reg base = new ∧ s.Wrote1 t [base]) ∧
    (∀ x wr1, badFields r.base wr new = [x] → wr1 = putFld wr x.1 x.2.1 0 →
      s.badWhole r.base base (mixBits wr1 raw (s.reg base)) = none →
      ∃ t, exec (.registerWrite 0 off size v) s = .next t ∧ t.reg base = mixBits wr1 raw (s.reg base) ∧
        s.Refused t x.2.2 off.toNat) ∧
    (∀ q, badFields r.base wr new = [] → wr ≠ 0 → s.badWhole r.base base new = some q →
      ∃ t, exec (.registerWrite 0 off size v) s = .next t ∧ t.reg base = s.reg base ∧ s.Refused t q off.toNat)) ∧
  (∀ v : Word64, bit v 63 = true → bit v 62 = false →
    (s.fget RF.RT_LOAD_CTL_RESULT ≠ 1 → ∃ t, exec (.registerWrite 0 (BitVec.ofNat 26 Reg.RT_LOAD_CTL) 8 v) s =
      .next t ∧ t.free = s.free + 1 ∧ t.fget RF.RT_LOAD_CTL_GEN = fld v 0 4) ∧
    (s.fget RF.QN_WIRE_CTL_RESULT ≠ 1 → ∃ t, exec (.registerWrite 0 (BitVec.ofNat 26 Reg.QN_WIRE_CTL) 8 v) s =
      .next t ∧ t.free = s.free + 1 ∧ (t.fget RF.QN_WIRE_CTL_RESULT = 2 ∨ t.fget RF.QN_WIRE_CTL_RESULT = 3)) ∧
    (s.fget RF.QN_FW_CTL_RESULT ≠ 1 → ∃ t, exec (.registerWrite 0 (BitVec.ofNat 26 Reg.QN_FW_CTL) 8 v) s =
      .next t ∧ t.free = s.free + 2 ∧ (t.fget RF.QN_FW_CTL_RESULT = 2 ∨ t.fget RF.QN_FW_CTL_RESULT = 3)) ∧
    (s.fget RF.SAF_FENCE_CTL_RESULT ≠ 1 → fld v 0 9 = 0 → ∃ t,
      exec (.registerWrite 0 (BitVec.ofNat 26 Reg.SAF_FENCE_CTL) 8 v) s = .next t ∧ t.free = s.free + 1 ∧
      t.fget RF.SAF_FENCE_CTL_RESULT = 3 ∧ t.fget RF.SAF_FENCE_CTL_REASON = 0x5D01)) ∧
  (∀ (d : DieId) (n : Fin 1024) (v : BitVec 32), ∃ t, exec (.counterWrite d n v) s = .next t ∧
    t.cnt d n = v.toNat ∧ (∀ m < 1024, m ≠ n.val → t.cnt d m = s.cnt d m) ∧
    (s.core.cores = [] → State.Only [.regs] s t ∧ State.RegsBut [Reg.WRK_CNT d n] s t)) ∧
  (∀ (v n : Word64), n = mixBits 0xFFFE v (s.reg Reg.HIVE_IMASK) → ∃ t, exec (.imaskWrite v) s = .next t ∧
    t.reg Reg.HIVE_IMASK = n ∧ t.out = s.out ++
      (if n &&& ~~~s.reg Reg.HIVE_IMASK &&& s.reg Reg.HIVE_ISUM &&& 0xFFFE = 0 then [] else [.msix 0 0]) ∧
    State.Only [.out, .regs] s t ∧ State.RegsBut [Reg.HIVE_IMASK, Reg.HIVE_WREJ, Reg.HIVE_WREJ2] s t) ∧
  (∀ (off : BitVec 26) (v : Word64),
    (safRanges off.toNat = [] → exec (.safetyThresholdWrite off v) s = .next s) ∧
    (safRanges off.toNat ≠ [] → s.locked = true → ∃ t, exec (.safetyThresholdWrite off v) s = .next t ∧
      s.Wrote1 t []) ∧
    (safRanges off.toNat ≠ [] → s.locked = false → (s.pwr.rails = false ∨ off.toNat ∈ [Reg.SAF_COOL, Reg.SAF_OC]) →
      (safBad off.toNat v = false → ∃ t, exec (.safetyThresholdWrite off v) s = .next t ∧
        (∀ x ∈ safRanges off.toNat, fld (t.reg off.toNat) x.1 x.2.1 = fld v x.1 x.2.1) ∧ s.Wrote1 t [off.toNat]) ∧
      (∀ x ∈ safRanges off.toNat, (fld v x.1 x.2.1 < x.2.2.1 ∨ x.2.2.2 < fld v x.1 x.2.1) →
        ∃ t, exec (.safetyThresholdWrite off v) s = .next t ∧ s.Refused t 0x5F02 off.toNat ∧
          fld (t.reg off.toNat) x.1 x.2.1 = fld (s.reg off.toNat) x.1 x.2.1))) ∧
  (∀ (d : DieId) (off : BitVec 21) (size : Fin 9) (v : Word64) (o : Nat), o = dieReg d off.toNat →
    exec (.dieWindowAccess d off size true v) s = exec (.registerWrite 0 (BitVec.ofNat 26 o) size v) s ∧
    (barOk o size = true → s.openBits (o / 8 * 8) = 0 → exec (.dieWindowAccess d off size false v) s =
      .next (s.emit (.busReply 0 (some (leBytes size
        ((if (regAt (o / 8 * 8)).isSome then s.reg (o / 8 * 8) else 0).toNat / 2 ^ (8 * (o % 8)))))))) ∧
    (∀ w, ∃ t, exec (.dieWindowNoAnswer d off w) s = .next t ∧
      t.fget RF.HIVE_WREJ2_NOANS = satAdd RF.HIVE_WREJ2_NOANS.w (s.fget RF.HIVE_WREJ2_NOANS) 1 ∧
      t.out = s.out ++ (if w = true ∨ barOk o 4 = false then []
        else [.busReply 0 (some (List.replicate 8 0xFF))]) ∧
      State.Only [.out, .regs] s t ∧ State.RegsBut [Reg.HIVE_WREJ2] s t)) ∧
  (∀ (f : FnId) (off : BitVec 34) (size : BitVec 7) (w : Bool) (data : Bytes) (apw : Word64) (o tgt : Nat),
    apw = s.reg (Reg.PCI_APW (off.toNat / 2 ^ 30)) → tgt = fld apw 40 4 →
    o = fld apw 0 40 + off.toNat % 2 ^ 30 →
    ((size.toNat ≠ 8 ∧ size.toNat ≠ 64 ∨ bit apw 63 = false) →
      exec (.apertureAccess f off size w data) s = .next (s.emit (.busReply f none))) ∧
    ((size.toNat = 8 ∨ size.toNat = 64) → off.toNat % size.toNat = 0 → (w = true → data.length = size.toNat) →
      bit apw 63 = true →
      (f.val ≠ 0 → off.toNat / 2 ^ 30 < 2 → (8 ≤ tgt ∨ s.owner tgt ≠ f.val) →
        ∃ t, exec (.apertureAccess f off size w data) s = .next t ∧ .busReply f none ∈ t.out ∧
          State.Only [.out, .regs, .log] s t) ∧
      ((f.val = 0 ∨ off.toNat / 2 ^ 30 < 2 ∧ s.owner tgt = f.val) → tgt < 8 → o < sramBase →
        (s.dieAbsorbs tgt = true → (w = false → exec (.apertureAccess f off size w data) s =
            .next (s.emit (.busReply f none))) ∧
          (w = true → ∃ t, exec (.apertureAccess f off size w data) s = .next t ∧
            (t.link (32 + tgt)).absorbed = (s.link (32 + tgt)).absorbed + 1 ∧ State.Only [.fab] s t)) ∧
        (s.dieAbsorbs tgt = false → pick (s.rangeConds tgt o size.toNat) = none →
          (s.diePortUp tgt = false → (w = false → exec (.apertureAccess f off size w data) s =
              .next (s.emit (.busReply f none))) ∧
            (w = true → ∃ t, exec (.apertureAccess f off size w data) s = .next t ∧
              State.Only [.out, .swm, .fab] s t)) ∧
          (s.diePortUp tgt = true → s.Sound →
            (w = false → ∃ t, exec (.apertureAccess f off size w data) s = .next t ∧
              t.out = s.out ++ [.busReply f (some (s.peek tgt o size.toNat))] ∧ State.Only [.out, .regs] s t ∧
              State.RegsBut [Reg.WCB_FWD tgt] s t) ∧
            (w = true → ∃ t, exec (.apertureAccess f off size w data) s = .next t ∧
              s.Wrote t (atDie tgt [(o, data)]) ∧ t.out = s.out))))))

/-! The log, the management ports and time (R429 to R436, R455 to R457, R486 to R488). -/

/-- A record takes the next sequence number and its slot; a severe one also the mirror; by the log's mode it goes to the
mirror alone, or is counted. Held records enter their queue; a failing log sends its last gasp; messages go out on the
ports that can send. -/
def Obligations.LogTakesRecords : Prop := ∀ (s : State),
  (∀ (e : LogEvent) (time flags : Nat) (rec : Bytes),
    (8 ≤ e.src.val ∧ time = s.now ∧ flags = 0 ∨
      e.src.val < 8 ∧ ∃ i r, (s.log.recq.get [] e.src.val).findIdx? (fun r => decide (r.ev = e)) = some i ∧
        r = (s.log.recq.get [] e.src.val).getD i { ev := e } ∧ time = r.time ∧
        flags = r.flags + 2 * b2n (decide (s.portState (32 + e.src.val) ≠ 3))) →
    rec = recBytes time (s.fget RF.LOG_STAT_NEXTSEQ) e (flags + if e.sev = 3 then 1 else 0) →
    (s.fget RF.LOG_STAT_MODE = 0 → s.boot.sramUp = true → ∃ t, exec (.logRecord e) s = .next t ∧
      t.log.slots.get [] (s.fget RF.LOG_STAT_NEXTSEQ % 8192) = rec ∧
      t.fget RF.LOG_STAT_NEXTSEQ = (s.fget RF.LOG_STAT_NEXTSEQ + 1) % 2 ^ 32 ∧
      (∀ k, k ≠ s.fget RF.LOG_STAT_NEXTSEQ % 8192 → t.log.slots.get [] k = s.log.slots.get [] k) ∧
      (e.sev = 3 → t.log.mirror.get [] (s.fget RF.LOG_MIRSEQ_NEXT % 512) = rec ∧
        bitN (t.reg Reg.HIVE_ISUM).toNat 0 = true) ∧
      (e.sev ≠ 3 → t.log.mirror = s.log.mirror) ∧
      (e.src.val < 8 → (t.log.recq.get [] e.src.val).length + 1 = (s.log.recq.get [] e.src.val).length)) ∧
    (s.fget RF.LOG_STAT_MODE = 1 → 2 ≤ e.sev.val → ∃ t, exec (.logRecord e) s = .next t ∧
      t.log.slots = s.log.slots ∧ t.log.mirror.get [] (s.fget RF.LOG_MIRSEQ_NEXT % 512) =
        recBytes time (s.fget RF.LOG_STAT_NEXTSEQ) e (flags + 1) ∧
      t.fget RF.LOG_STAT_NEXTSEQ = (s.fget RF.LOG_STAT_NEXTSEQ + 1) % 2 ^ 32) ∧
    ((2 ≤ s.fget RF.LOG_STAT_MODE ∨ s.fget RF.LOG_STAT_MODE = 1 ∧ e.sev.val < 2) →
      ∃ t, exec (.logRecord e) s = .next t ∧ t.log.slots = s.log.slots ∧ t.log.mirror = s.log.mirror ∧
        t.fget RF.LOG_RDSEQ_UNLOGGED = satAdd RF.LOG_RDSEQ_UNLOGGED.w (s.fget RF.LOG_RDSEQ_UNLOGGED) 1 ∧
        t.fget RF.LOG_STAT_NEXTSEQ = s.fget RF.LOG_STAT_NEXTSEQ)) ∧
  (∀ (d : DieId) (r : QRec) (rs : List QRec), s.log.held.get [] d = r :: rs → (s.log.recq.get [] d).length < 64 →
    ∃ t, exec (.logQueueRelease d) s = .next t ∧ t.log.recq.get [] d = s.log.recq.get [] d ++ [r] ∧
      t.log.held.get [] d = rs ∧ State.Only [.log] s t) ∧
  (∀ (cause : Fin 3) (addr : BitVec 32),
    (∃ t, exec (.logFailure false cause addr) s = .next t ∧ t.fget RF.LOG_STAT_LOGFLT = 1 ∧
      t.fget RF.LOG_STAT_MODE = max 1 (s.fget RF.LOG_STAT_MODE) ∧ t.fget RF.LOG_LG_CAUSE_CAUSE = 2 ∧
      t.fget RF.LOG_LG_CAUSE_VALID = 1 ∧ t.fget RF.LOG_LG_INFO_INFO = addr.toNat ∧ t.log.lgLeft = 2) ∧
    (∃ t, exec (.logFailure true cause addr) s = .next t ∧ t.fget RF.LOG_STAT_MIRFLT = 1 ∧
      t.fget RF.LOG_STAT_MODE = 2 ∧ t.fget RF.LOG_LG_CAUSE_CAUSE = 3 ∧ t.fget RF.LOG_LG_CAUSE_VALID = 1 ∧
      t.log.mirror = s.log.mirror ∧ t.log.slots = s.log.slots)) ∧
  (∀ (i : Instr) (kind : Nat) (body : Bytes),
    (i = .lastgaspRepeat ∧ kind = 2 ∧ body = s.lgBody ∧ s.log.lgLeft ≠ 0 ∨
      i = .heartbeat ∧ kind = 3 ∧ s.pwr.rails = true ∧ s.fget RF.LOG_MGMT_CFG_HB_EN = 1 ∧
        body = leBytes 8 (s.reg Reg.LOG_STAT).toNat ++ leBytes 8 s.now) →
    ∃ t, exec i s = .next t ∧ t.out = s.out ++ (([0, 1].filter s.mgmtUp).map fun p =>
        Out.mgmt p kind (s.mgmtDgram p) (mgmtHeader kind s.module s.log.aseq (s.fget RF.HIVE_SERIAL_SERIAL) ++ body)) ∧
      t.log.aseq = (s.log.aseq + 1) % 2 ^ 32 ∧
      t.log.lgLeft = (if i = .lastgaspRepeat then s.log.lgLeft - 1 else s.log.lgLeft) ∧
      State.Only [.out, .log] s t) ∧
  (s.log.lgLeft = 0 → exec .lastgaspRepeat s = .next s)

/-- An edge of BEAT is captured and counted, and takes an armed load; losses and returns of BEAT and of the reference
clock show in TIM_CTL and in the alignment of beat launches. -/
def Obligations.TimeFollowsTheBeat : Prop := ∀ (s : State),
  (s.fget RF.TIM_CTL_ARM = 1 → exec .timArm s = .next s) ∧
  (s.fget RF.TIM_CTL_ARM = 0 → ∃ t, exec .timArm s = .next t ∧ t.fget RF.TIM_CTL_ARM = 1 ∧ t.tim.armAt = s.clk ∧
    State.Only [.regs, .tim] s t ∧ State.RegsBut [Reg.TIM_CTL] s t) ∧
  (∀ late, (s.fget RF.TIM_CTL_BEAT_OK = 1 ∨ s.tim.edgeAt = 0) → ∃ t, exec (.beatEdge late) s = .next t ∧
    t.fget RF.TIM_BEATCNT_EDGES = (s.fget RF.TIM_BEATCNT_EDGES + 1) % 2 ^ 32 ∧ t.fget RF.TIM_CTL_BEAT_OK = 1 ∧
    t.fget RF.TIM_BEAT_TS = s.now % 2 ^ 64 ∧ t.tim.edgeAt = s.clk + 1 ∧
    State.RegsBut [Reg.TIM_CTL, Reg.TIM_BEAT, Reg.TIM_BEATCNT, Reg.HIVE_ISUM] s t ∧
    (s.fget RF.TIM_CTL_ARM = 1 → (s.tim.armAt + 50 ≤ s.clk ∨ late = false) → t.now = s.fget RF.TIM_LOAD_VALUE ∧
      t.tim.loaded = true ∧ t.fget RF.TIM_CTL_ARM = 0 ∧ t.fget RF.TIM_CTL_DONE = 1 ∧
      t.fget RF.TIM_BEATCNT_LOADEDGE = (s.fget RF.TIM_BEATCNT_EDGES + 1) % 2 ^ 32) ∧
    ((s.fget RF.TIM_CTL_ARM = 0 ∨ s.clk < s.tim.armAt + 50 ∧ late = true) → t.now = s.now ∧
      t.fget RF.TIM_CTL_ARM = s.fget RF.TIM_CTL_ARM)) ∧
  (s.fget RF.TIM_CTL_BEAT_OK = 0 → s.tim.edgeAt ≠ 0 → (∀ late, exec (.beatEdge late) s = .next s) ∧
    ∃ t, exec .beatReturn s = .next t ∧ t.fget RF.TIM_CTL_BEAT_OK = 1 ∧ t.now = s.now ∧
      t.fget RF.TIM_BEATCNT_EDGES = (s.fget RF.TIM_BEATCNT_EDGES +
        (s.clk + 1 - s.tim.edgeAt + max 1 s.beatNs / 2) / max 1 s.beatNs) % 2 ^ 32 ∧
      t.tim.misaligned = (s.tim.misaligned && decide (s.fget RF.TIM_CTL_SLEWING = 1))) ∧
  (∃ t, exec .beatLoss s = .next t ∧ t.fget RF.TIM_CTL_BEAT_OK = 0 ∧ State.Only [.out, .regs] s t ∧
    State.RegsBut [Reg.TIM_CTL, Reg.HIVE_ISUM] s t) ∧
  (∃ t, exec .refclkLoss s = .next t ∧ t.fget RF.TIM_CTL_REF_OK = 0 ∧ t.fget RF.TIM_CTL_HOLDOVER = 1 ∧
    State.Only [.out, .regs] s t ∧ State.RegsBut [Reg.TIM_CTL, Reg.HIVE_ISUM] s t) ∧
  (∃ t, exec .refclkReturn s = .next t ∧ t.fget RF.TIM_CTL_REF_OK = 1 ∧ t.fget RF.TIM_CTL_HOLDOVER = 0 ∧
    t.fget RF.TIM_CTL_SLEWING = (if s.fget RF.TIM_CTL_HOLDOVER = 1 then 1 else s.fget RF.TIM_CTL_SLEWING) ∧
    State.Only [.out, .regs] s t ∧ State.RegsBut [Reg.TIM_CTL, Reg.HIVE_ISUM] s t) ∧
  (s.fget RF.TIM_CTL_SLEWING = 1 → ∃ t, exec .slewingDone s = .next t ∧ t.fget RF.TIM_CTL_SLEWING = 0 ∧
    t.tim.misaligned = (s.tim.misaligned && decide (s.fget RF.TIM_CTL_BEAT_OK = 0)) ∧
    State.Only [.regs, .tim] s t ∧ State.RegsBut [Reg.TIM_CTL] s t) ∧
  ((s.fget RF.TIM_CTL_BEAT_OK = 0 ∨ s.fget RF.TIM_CTL_HOLDOVER = 1) →
    ∃ t, exec .alignmentLost s = .next t ∧ t.tim.misaligned = true) ∧
  (s.fget RF.TIM_CTL_BEAT_OK = 1 → s.fget RF.TIM_CTL_HOLDOVER = 0 → exec .alignmentLost s = .next s)

/-! Power, sideband, safety and test access (R20, R424 to R428, R449 to R454, R463 to R468, R490). -/

/-- Losses of the input turn the rails off; the lever takes them down and brings them back; a contended output lets go.
Heat and power lower the clocks; shutdowns, overcurrents and coolant loss enter SAFE_OFF with their cause; the watchdog
restarts the queen, then the module. -/
def Obligations.PowerAndSafetyAct : Prop := ∀ (s : State),
  (∀ i ∈ [Instr.brownOut, .inputOvervoltage], (s.pwr.rails = false → exec i s = .next s) ∧
    (s.pwr.rails = true → ∃ t, exec i s = .next t ∧ s.RailsLost t ∧ t.pwr.aon = s.pwr.aon ∧
      t.fget RF.LOG_STAT_SSTATE = 0)) ∧
  (∃ t, exec .aonPowerLoss s = .next t ∧ t.pwr.aon = false ∧ t.pwr.rails = false ∧ t.saf.key = [] ∧ t.log = {} ∧
    (s.pwr.rails = true → ∀ k, t.byte k = 0)) ∧
  (∃ t, exec .ilockRemoval s = .next t ∧ t.pwr.ilock = false ∧ t.pwr.down = true ∧ t.pwr.rails = false ∧
    (s.pwr.rails = true → ∀ k, t.byte k = 0)) ∧
  (s.pwr.down = true → ∃ t, exec .ilockRestart s = .next t ∧ t.pwr.ilock = true ∧ t.pwr.down = false ∧
    t.pwr.rails = (if s.saf.cause then s.pwr.rails else true)) ∧
  (s.saf.cause = true → ∃ t, exec .causeCleared s = .next t ∧ t.saf.cause = false ∧ t.saf.resetWait = false ∧
    t.saf.hot = [] ∧ t.pwr.rails = (s.pwr.rails || s.saf.resetWait && !s.pwr.down)) ∧
  (∀ pin : Fin 3, s.drives pin = true → ∃ t n, exec (.sidebandContention pin) s = .next t ∧
    n = (if s.pin (pin + 16 : Nat) ≠ 0 ∧ s.clk < s.pin (pin + 16 : Nat) + 10000 then s.pin pin + 1 else 1) ∧
    t.pin pin = n ∧ t.pin (pin + 8 : Nat) = 1 ∧ t.fget (sbCNT pin) = satAdd (sbCNT pin).w (s.fget (sbCNT pin)) 1 ∧
    (pin.val ≠ 0 → t.fget (sbHIZ pin) = if 3 ≤ n then 1 else s.fget (sbHIZ pin)) ∧
    State.Only [.regs, .pwr] s t ∧ State.RegsBut [Reg.HIVE_SB] s t) ∧
  (∀ pin : Fin 3, s.pin (pin + 8 : Nat) = 1 → (pin.val = 0 ∨ s.fget (sbHIZ pin) = 0) →
    ∃ t, exec (.sidebandRetry pin) s = .next t ∧ t.pin (pin + 8 : Nat) = 0 ∧ t.pin (pin + 16 : Nat) = s.clk + 1 ∧
      State.Only [.pwr] s t) ∧
  (∀ (u : FnId) (pair : Fin 24) (x : BitVec 16),
    (s.pwr.rails = true → 10 * s.fget RF.SAF_TJ_TJ_THROT < x.toNat → ∃ t, exec (.tjThrottle u pair x) s = .next t ∧
      t.saf.hot.get 0 (u.val * 32 + pair.val) = x.toNat ∧ t.fget RF.LOG_STAT_SSTATE = max 1 (s.fget RF.LOG_STAT_SSTATE) ∧
      ∀ d < 8, t.coreMhz d = if d ∈ tjDies u ∧ s.coreMhz d ≠ 0 then max 520 (s.coreMhz d - 100) else s.coreMhz d) ∧
    ((s.pwr.rails = false ∨ x.toNat ≤ 10 * s.fget RF.SAF_TJ_TJ_THROT) → exec (.tjThrottle u pair x) s = .next s) ∧
    (s.pwr.rails = true → ∃ t, exec (.sensorDisagreement u pair x) s = .next t ∧
      t.fget RF.LOG_STAT_SSTATE = max 1 (s.fget RF.LOG_STAT_SSTATE) ∧
      ∀ d ∈ tjDies u, t.coreMhz d = 520 ∧ t.fget (RF.COMB_CLK_FLOOR d) = 1)) ∧
  (∀ (d : DieId) (hot : Bool),
    (s.coreMhz d = 0 ∨ hot = true ∧ s.dieHot d = false → exec (.throttleStep d hot) s = .next s) ∧
    (s.coreMhz d ≠ 0 → hot = true → s.dieHot d = true → ∃ t, exec (.throttleStep d hot) s = .next t ∧
      t.coreMhz d = max 520 (s.coreMhz d - 100) ∧
      (s.host.setups = [] → State.Only [.regs] s t ∧ State.RegsBut [Reg.COMB_CLK d] s t)) ∧
    (s.coreMhz d ≠ 0 → hot = false → ∃ t, exec (.throttleStep d hot) s = .next t ∧ t.dieHot d = false ∧
      t.coreMhz d = if s.fget (RF.COMB_CLK_FLOOR d) = 1 then s.coreMhz d else min 1600 (s.coreMhz d + 100))) ∧
  (∀ (i : Instr) (cause : Nat),
    ((∃ (u : FnId) (pair : Fin 24) (x : BitVec 16), i = .tjShutdown u pair x ∧ cause = 4 ∧
        10 * s.fget RF.SAF_TJ_TJ_SHUT < x.toNat) ∨
      (∃ (r : Fin 20) (x : BitVec 16), i = .railOvercurrent r x ∧ cause = 5 ∧ railWatched r = true ∧
        railRated.getD r 0 * s.fget RF.SAF_OC_PCT / 10 ≤ x.toNat) ∨
      (∃ x : BitVec 16, i = .inputOvercurrent x ∧ cause = 5 ∧ 1100 < x.toNat) ∨
      (∃ x : BitVec 16, i = .coolantLoss true x ∧ cause = 6 ∧ 10 * s.fget RF.SAF_COOL_OUTLET ≤ x.toNat) ∨
      (∃ x : BitVec 16, i = .coolantLoss false x ∧ cause = 6 ∧ s.fget RF.SAF_COOL_RATE ≤ x.toNat)) →
    (s.pwr.rails = true → ∃ t, exec i s = .next t ∧ t.SafeOff cause) ∧ (s.pwr.rails = false → exec i s = .next s)) ∧
  (∀ x : BitVec 12,
    (s.pwr.rails = true → s.fget RF.SAF_PWR_LIMIT < x.toNat → ∃ t, exec (.powerLimitExceeded x) s = .next t ∧
      t.fget RF.SAF_PWR_AVG = x.toNat ∧ t.fget RF.SAF_PWR_LIMITING = 1 ∧
      t.fget RF.LOG_STAT_SSTATE = max 1 (s.fget RF.LOG_STAT_SSTATE) ∧
      ∀ d < 8, if s.coreMhz d ≤ 520 then t.coreMhz d = s.coreMhz d
        else 520 ≤ t.coreMhz d ∧ t.coreMhz d < s.coreMhz d) ∧
    (x.toNat ≤ s.fget RF.SAF_PWR_LIMIT → exec (.powerLimitExceeded x) s = .next s)) ∧
  (s.pwr.rails = false → exec .watchdogExpire s = .next s) ∧
  (s.pwr.rails = true → ∀ recent, recent = s.saf.wdog.filter (fun x => decide (s.clk < x + 600000000000)) →
    ∃ t, exec .watchdogExpire s = .next t ∧ t.saf.wdog = recent ++ [s.clk] ∧
      (recent.length < 2 → t.fget RF.LOG_STAT_QRST = 1 ∧ t.fget RF.LOG_LG_CAUSE_CAUSE = 1 ∧
        t.fget RF.LOG_LG_CAUSE_VALID = 1 ∧ t.boot = s.boot) ∧
      (2 ≤ recent.length → s.eng.clDrain = [] → s.Restarted t ∧ t.boot.byReset = true))

/-- The TAPs: reset, bypass, identity, boundary, die selection and instruments. Until phase 4 has ended every other
instruction acts as BYPASS; an access that may not be made is rejected and counted. -/
def Obligations.TestAccessPortsAnswer : Prop := ∀ (s : State),
  (∃ t, exec .tapReset s = .next t ∧ t.tap = { s.tap with
      ir := [], drive := [], dr := [], run := none, untested := s.tap.untested ++ s.tap.run.toList } ∧
    t.fget RF.TAP_STAT_TSTATE = 0 ∧ t.fget RF.TAP_STAT_IR = 0xFF ∧ t.fget RF.TAP_STAT_RUN = 0 ∧
    State.Only [.regs, .tap] s t ∧ State.RegsBut [Reg.TAP_STAT] s t) ∧
  (∀ (p : FnId) (v : BitVec 64) (b : BitVec 64) (tdi run busy : Bool) (k : Fin 9) (unit : BitVec 8) (sel : BitVec 8),
    (s.tapIn p = false → ∀ i ∈ [Instr.bypass p tdi, .idcode p, .samplePreload p v b, .extest p v,
      .ijtag p k unit run v busy], exec i s = .next s) ∧
    (s.tapIn 0 = false → exec (.diesel sel) s = .next s) ∧
    (s.tapIn p = true →
      (∃ t, exec (.bypass p tdi) s = .next t ∧ s.Tdo t p 0 ∧ t.tap.dr.get 0 p = b2n tdi ∧
        State.Only [.out, .regs, .tap] s t) ∧
      (∃ t, exec (.idcode p) s = .next t ∧ s.Tdo t p (if p.val = 0 then 0x1F960A6B else 0x1F961A6B) ∧
        State.Only [.out, .regs, .tap] s t)) ∧
    (s.tapIn p = true → s.tapHeld = true → ∀ i ∈ [Instr.samplePreload p v b, .extest p v,
      .ijtag p k unit run v busy], ∃ t, exec i s = .next t ∧ s.Tdo t p 0 ∧ t.tap.dr.get 0 p = 0 ∧
        t.tap.drive = s.tap.drive ∧ t.tap.preload = s.tap.preload ∧ t.tap.run = s.tap.run) ∧
    (s.tapIn p = true → s.tapHeld = false →
      (∃ t, exec (.samplePreload p v b) s = .next t ∧ s.Tdo t p (bndMask p v) ∧
        t.tap.preload.get 0 p = bndMask p b ∧ t.tap.drive = s.tap.drive) ∧
      (p.val = 0 → ∃ t, exec (.extest p v) s = .next t ∧ s.Tdo t p (bndMask p v) ∧
        t.tap.drive.get 0 p = s.tap.preload.get 0 p) ∧
      (p.val ≠ 0 → (s.fget RF.TAP_CTL_OPEN = 0 ∨ s.tapUnitOut p 8 0 = false) →
        ∃ t, exec (.extest p v) s = .next t ∧ s.TapRejects t p 2 ∧ t.tap.drive = s.tap.drive) ∧
      (p.val ≠ 0 → s.fget RF.TAP_CTL_OPEN = 1 → s.tapUnitOut p 8 0 = true → s.tap.run = none →
        ∃ t, exec (.extest p v) s = .next t ∧ s.Tdo t p (bndMask p v) ∧ t.tap.run = some (p.val, 8, 0) ∧
          t.tap.drive.get 0 p = s.tap.preload.get 0 p ∧ t.fget RF.TAP_STAT_RUN = 1) ∧
      (tapHas p k = true → busy = true → ∃ t, exec (.ijtag p k unit run v busy) s = .next t ∧ s.TapRejects t p 3) ∧
      (tapHas p k = true → busy = false → k.val ≤ 4 →
        ∃ t, exec (.ijtag p k unit run v busy) s = .next t ∧
          (run = false → s.Tdo t p (4 * v.toNat)) ∧ (run = true → s.TapRejects t p 2)) ∧
      (tapHas p k = true → busy = false → 5 ≤ k.val → (s.tapUnitOut p k unit.toNat = false ∨
          run = true ∧ s.fget RF.TAP_CTL_OPEN = 0) →
        ∃ t, exec (.ijtag p k unit run v busy) s = .next t ∧ s.TapRejects t p 2) ∧
      (tapHas p k = true → busy = false → 5 ≤ k.val → s.tapUnitOut p k unit.toNat = true →
        (run = false → ∃ t, exec (.ijtag p k unit run v busy) s = .next t ∧ t.tap.run = s.tap.run ∧
          s.Tdo t p (b2n (decide (s.tap.run = some (p.val, k.val, unit.toNat))) + 4 * v.toNat)) ∧
        (run = true → s.fget RF.TAP_CTL_OPEN = 1 → ∃ t, exec (.ijtag p k unit run v busy) s = .next t ∧
          s.Tdo t p 1 ∧ (s.tap.run = none → t.tap.run = some (p.val, k.val, unit.toNat) ∧
            t.fget RF.TAP_STAT_RUN = 1) ∧ (s.tap.run ≠ none → t.tap.run = s.tap.run)))) ∧
    (s.tapIn 0 = true → s.tapHeld = false → ∃ t, exec (.diesel sel) s = .next t ∧
      t.fget RF.TAP_STAT_DIESEL = sel.toNat ∧ t.free = s.free + 1 ∧
      State.Only [.free, .out, .regs, .tap] s t ∧ State.RegsBut [Reg.TAP_STAT] s t))
end

