-- ==== Sys2Proof/Laws/Bits.lean ====
section
/-! SUPPORT. The laws of bit fields: what a field reads as after a field is replaced. -/

namespace Sys2Proof.Machine

theorem testBit_bitsN (x lo w i : Nat) : (bitsN x lo w).testBit i = (decide (i < w) && x.testBit (lo + i)) := by
  simp only [bitsN, Nat.testBit_mod_two_pow, Nat.testBit_div_two_pow]
  rw [Nat.add_comm]

theorem testBit_mask (w lo i : Nat) :
    ((2 ^ w - 1) * 2 ^ lo).testBit i = (decide (lo ≤ i) && decide (i < lo + w)) := by
  rw [Nat.mul_comm, Nat.testBit_two_pow_mul]
  by_cases h : lo ≤ i
  · simp only [h, decide_true, Bool.true_and, Nat.testBit_two_pow_sub_one]
    congr 1
    apply propext
    omega
  · simp [h]

/-- Bit i of a word with a field replaced. -/
theorem getLsbD_putFld {n : Nat} (x : BitVec n) (lo w v i : Nat) (h : i < n) :
    (putFld x lo w v).getLsbD i
      = if lo ≤ i ∧ i < lo + w then v.testBit (i - lo) else x.getLsbD i := by
  simp only [putFld, BitVec.getLsbD_or, BitVec.getLsbD_and, BitVec.getLsbD_not, BitVec.getLsbD_ofNat, h, decide_true,
    Bool.true_and, testBit_mask]
  by_cases h1 : lo ≤ i
  · by_cases h2 : i < lo + w
    · have h3 : i - lo < w := by omega
      have : (v % 2 ^ w * 2 ^ lo).testBit i = v.testBit (i - lo) := by
        rw [Nat.mul_comm, Nat.testBit_two_pow_mul]
        simp [h1, h3]
      simp [h1, h2, this]
    · simp [h1, h2]
  · simp [h1]

theorem testBit_fld {n : Nat} (x : BitVec n) (lo w i : Nat) :
    (fld x lo w).testBit i = (decide (i < w) && x.getLsbD (lo + i)) := by
  rw [fld, testBit_bitsN]
  rfl

/-- The replaced field reads as the new value's low bits. -/
theorem fld_putFld {n : Nat} (x : BitVec n) {lo w : Nat} (v : Nat) (h : lo + w ≤ n) :
    fld (putFld x lo w v) lo w = v % 2 ^ w := by
  apply Nat.eq_of_testBit_eq
  intro i
  rw [testBit_fld, Nat.testBit_mod_two_pow]
  by_cases hi : i < w
  · rw [getLsbD_putFld _ _ _ _ _ (by omega)]
    simp [hi]
  · simp [hi]

/-- A field apart from the replaced one reads as before. -/
theorem fld_putFld_ne {n : Nat} (x : BitVec n) {lo w lo' w' : Nat} (v : Nat)
    (h : lo' + w' ≤ lo ∨ lo + w ≤ lo') : fld (putFld x lo w v) lo' w' = fld x lo' w' := by
  apply Nat.eq_of_testBit_eq
  intro i
  rw [testBit_fld, testBit_fld]
  by_cases hi : i < w'
  · by_cases hn : lo' + i < n
    · rw [getLsbD_putFld _ _ _ _ _ hn, if_neg (by omega)]
    · rw [BitVec.getLsbD_of_ge _ _ (by omega), BitVec.getLsbD_of_ge _ _ (by omega)]
  · simp [hi]

theorem fld_lt {n : Nat} (x : BitVec n) (lo w : Nat) : fld x lo w < 2 ^ w := Nat.mod_lt _ (Nat.two_pow_pos w)

end Sys2Proof.Machine
end

