-- ==== Sys2Proof/Laws/Keeps.lean ====
section
/-! SUPPORT. One way to say what an operation leaves alone: the components of the state it may write, as a
list. A property that survives every write to those components survives the operation. -/

namespace Sys2Proof.Machine

/-- Every component of the first list is in the second. -/
def Comp.within (w v : List Comp) : Bool := w.all fun c => v.contains c

theorem Comp.within_mem {w v : List Comp} (h : Comp.within w v = true) {c : Comp} (hc : c ∈ w) : c ∈ v := by
  have := List.all_eq_true.mp h c hc
  simpa using this

/-- `P` survives every write to the components of `w`: registers and memory through their own operations, the output
and the counter of free values only growing, the model's clock standing still, the waiting commands untouched. -/
structure Keeps (w : List Comp) (P : State → Prop) : Prop where
  outs : Comp.out ∈ w → ∀ {s : State} (os : List Out), P s → P { s with out := s.out ++ os }
  draw : Comp.free ∈ w → ∀ {s : State}, P s → P { s with free := s.free + 1 }
  reg : Comp.regs ∈ w → ∀ {s : State} (o : Nat) (v : Word64), P s → P (s.setReg o v)
  regDrop : Comp.regs ∈ w → ∀ {s : State} (p : Nat → Bool), P s → P { s with regs := s.regs.drop p }
  regReset : Comp.regs ∈ w → ∀ {s : State} (p : Nat → RField → Bool), P s → P (s.resetRegs p)
  byte : Comp.mem ∈ w → ∀ {s : State} (k : Nat) (v : Byte), P s → P (s.setByte k v)
  memDrop : Comp.mem ∈ w → ∀ {s : State} (p : Host.Cell → Bool), P s → P { s with mem := s.mem.filter p }
  core : Comp.core ∈ w → ∀ {s : State} x, P s → P { s with core := x }
  eng : Comp.eng ∈ w → ∀ {s : State} x, P s → P { s with eng := x }
  smp : Comp.smp ∈ w → ∀ {s : State} x, P s → P { s with smp := x }
  upd : Comp.upd ∈ w → ∀ {s : State} x, P s → P { s with upd := x }
  swm : Comp.swm ∈ w → ∀ {s : State} x, P s → P { s with swm := x }
  cap : Comp.cap ∈ w → ∀ {s : State} x, P s → P { s with cap := x }
  lp : Comp.lp ∈ w → ∀ {s : State} x, P s → P { s with lp := x }
  log : Comp.log ∈ w → ∀ {s : State} x, P s → P { s with log := x }
  fab : Comp.fab ∈ w → ∀ {s : State} x, P s → P { s with fab := x }
  opt : Comp.opt ∈ w → ∀ {s : State} x, P s → P { s with opt := x }
  host : Comp.host ∈ w → ∀ {s : State} x, P s → P { s with host := x }
  wort : Comp.wort ∈ w → ∀ {s : State} x, P s → P { s with wort := x }
  boot : Comp.boot ∈ w → ∀ {s : State} x, P s → P { s with boot := x }
  saf : Comp.saf ∈ w → ∀ {s : State} x, P s → P { s with saf := x }
  pwr : Comp.pwr ∈ w → ∀ {s : State} x, P s → P { s with pwr := x }
  tap : Comp.tap ∈ w → ∀ {s : State} x, P s → P { s with tap := x }
  tim : Comp.tim ∈ w → ∀ {s : State} x, x.mono = s.tim.mono → P s → P { s with tim := x }

/-- A property that survives more writes survives fewer. -/
theorem Keeps.mono {w v : List Comp} {P : State → Prop} (K : Keeps w P) (h : Comp.within v w = true) : Keeps v P :=
  let i := fun (c : Comp) (hc : c ∈ v) => Comp.within_mem h hc
  { outs := fun hc => K.outs (i _ hc), draw := fun hc => K.draw (i _ hc), reg := fun hc => K.reg (i _ hc),
    regDrop := fun hc => K.regDrop (i _ hc), regReset := fun hc => K.regReset (i _ hc),
    byte := fun hc => K.byte (i _ hc), memDrop := fun hc => K.memDrop (i _ hc), core := fun hc => K.core (i _ hc),
    eng := fun hc => K.eng (i _ hc), smp := fun hc => K.smp (i _ hc), upd := fun hc => K.upd (i _ hc),
    swm := fun hc => K.swm (i _ hc), cap := fun hc => K.cap (i _ hc), lp := fun hc => K.lp (i _ hc),
    log := fun hc => K.log (i _ hc), fab := fun hc => K.fab (i _ hc), opt := fun hc => K.opt (i _ hc),
    host := fun hc => K.host (i _ hc), wort := fun hc => K.wort (i _ hc), boot := fun hc => K.boot (i _ hc),
    saf := fun hc => K.saf (i _ hc), pwr := fun hc => K.pwr (i _ hc), tap := fun hc => K.tap (i _ hc),
    tim := fun hc => K.tim (i _ hc) }

/-- A literal state that differs from one where `P` holds only in components of `w`. -/
theorem Keeps.lit {w : List Comp} {P : State → Prop} (K : Keeps w P) {s : State} {core eng smp upd swm cap lp log fab opt
    host wort boot saf pwr tap tim} (h : P s)
    (h1 : Comp.core ∈ w ∨ core = s.core) (h2 : Comp.eng ∈ w ∨ eng = s.eng) (h3 : Comp.smp ∈ w ∨ smp = s.smp)
    (h4 : Comp.upd ∈ w ∨ upd = s.upd) (h5 : Comp.swm ∈ w ∨ swm = s.swm) (h6 : Comp.cap ∈ w ∨ cap = s.cap)
    (h7 : Comp.lp ∈ w ∨ lp = s.lp) (h8 : Comp.log ∈ w ∨ log = s.log) (h9 : Comp.fab ∈ w ∨ fab = s.fab)
    (h10 : Comp.opt ∈ w ∨ opt = s.opt) (h11 : Comp.host ∈ w ∨ host = s.host)
    (h12 : Comp.wort ∈ w ∨ wort = s.wort) (h13 : Comp.boot ∈ w ∨ boot = s.boot)
    (h14 : Comp.saf ∈ w ∨ saf = s.saf) (h15 : Comp.pwr ∈ w ∨ pwr = s.pwr) (h16 : Comp.tap ∈ w ∨ tap = s.tap)
    (h17 : (Comp.tim ∈ w ∧ tim.mono = s.tim.mono) ∨ tim = s.tim) :
    P (State.mk s.pending s.free s.out s.regs s.mem core eng smp upd swm cap lp log fab opt host wort boot saf pwr tap
      tim) := by
  have a1 : P (State.mk s.pending s.free s.out s.regs s.mem core s.eng s.smp s.upd s.swm s.cap s.lp s.log
      s.fab s.opt s.host s.wort s.boot s.saf s.pwr s.tap s.tim) := by
    rcases h1 with c | rfl
    exacts [K.core c _ h, h]
  have a2 : P (State.mk s.pending s.free s.out s.regs s.mem core eng s.smp s.upd s.swm s.cap s.lp s.log
      s.fab s.opt s.host s.wort s.boot s.saf s.pwr s.tap s.tim) := by
    rcases h2 with c | rfl
    exacts [K.eng c _ a1, a1]
  have a3 : P (State.mk s.pending s.free s.out s.regs s.mem core eng smp s.upd s.swm s.cap s.lp s.log s.fab
      s.opt s.host s.wort s.boot s.saf s.pwr s.tap s.tim) := by
    rcases h3 with c | rfl
    exacts [K.smp c _ a2, a2]
  have a4 : P (State.mk s.pending s.free s.out s.regs s.mem core eng smp upd s.swm s.cap s.lp s.log s.fab
      s.opt s.host s.wort s.boot s.saf s.pwr s.tap s.tim) := by
    rcases h4 with c | rfl
    exacts [K.upd c _ a3, a3]
  have a5 : P (State.mk s.pending s.free s.out s.regs s.mem core eng smp upd swm s.cap s.lp s.log s.fab
      s.opt s.host s.wort s.boot s.saf s.pwr s.tap s.tim) := by
    rcases h5 with c | rfl
    exacts [K.swm c _ a4, a4]
  have a6 : P (State.mk s.pending s.free s.out s.regs s.mem core eng smp upd swm cap s.lp s.log s.fab s.opt
      s.host s.wort s.boot s.saf s.pwr s.tap s.tim) := by
    rcases h6 with c | rfl
    exacts [K.cap c _ a5, a5]
  have a7 : P (State.mk s.pending s.free s.out s.regs s.mem core eng smp upd swm cap lp s.log s.fab s.opt
      s.host s.wort s.boot s.saf s.pwr s.tap s.tim) := by
    rcases h7 with c | rfl
    exacts [K.lp c _ a6, a6]
  have a8 : P (State.mk s.pending s.free s.out s.regs s.mem core eng smp upd swm cap lp log s.fab s.opt
      s.host s.wort s.boot s.saf s.pwr s.tap s.tim) := by
    rcases h8 with c | rfl
    exacts [K.log c _ a7, a7]
  have a9 : P (State.mk s.pending s.free s.out s.regs s.mem core eng smp upd swm cap lp log fab s.opt s.host
      s.wort s.boot s.saf s.pwr s.tap s.tim) := by
    rcases h9 with c | rfl
    exacts [K.fab c _ a8, a8]
  have a10 : P (State.mk s.pending s.free s.out s.regs s.mem core eng smp upd swm cap lp log fab opt s.host
      s.wort s.boot s.saf s.pwr s.tap s.tim) := by
    rcases h10 with c | rfl
    exacts [K.opt c _ a9, a9]
  have a11 : P (State.mk s.pending s.free s.out s.regs s.mem core eng smp upd swm cap lp log fab opt host
      s.wort s.boot s.saf s.pwr s.tap s.tim) := by
    rcases h11 with c | rfl
    exacts [K.host c _ a10, a10]
  have a12 : P (State.mk s.pending s.free s.out s.regs s.mem core eng smp upd swm cap lp log fab opt host
      wort s.boot s.saf s.pwr s.tap s.tim) := by
    rcases h12 with c | rfl
    exacts [K.wort c _ a11, a11]
  have a13 : P (State.mk s.pending s.free s.out s.regs s.mem core eng smp upd swm cap lp log fab opt host
      wort boot s.saf s.pwr s.tap s.tim) := by
    rcases h13 with c | rfl
    exacts [K.boot c _ a12, a12]
  have a14 : P (State.mk s.pending s.free s.out s.regs s.mem core eng smp upd swm cap lp log fab opt host
      wort boot saf s.pwr s.tap s.tim) := by
    rcases h14 with c | rfl
    exacts [K.saf c _ a13, a13]
  have a15 : P (State.mk s.pending s.free s.out s.regs s.mem core eng smp upd swm cap lp log fab opt host
      wort boot saf pwr s.tap s.tim) := by
    rcases h15 with c | rfl
    exacts [K.pwr c _ a14, a14]
  have a16 : P (State.mk s.pending s.free s.out s.regs s.mem core eng smp upd swm cap lp log fab opt host
      wort boot saf pwr tap s.tim) := by
    rcases h16 with c | rfl
    exacts [K.tap c _ a15, a15]
  rcases h17 with ⟨c, e⟩ | rfl
  · exact K.tim (s := State.mk s.pending s.free s.out s.regs s.mem core eng smp upd swm cap lp log fab opt host wort
      boot saf pwr tap s.tim) c _ e a16
  · exact a16

/-- A property that every turn of a fold keeps. -/
theorem foldl_keeps {α : Type} {P : State → Prop} {f : State → α → State} {l : List α} {s : State}
    (hf : ∀ s x, P s → P (f s x)) (h : P s) : P (l.foldl f s) := by
  induction l generalizing s with
  | nil => exact h
  | cons a t ih => exact ih (hf s a h)

/-- The same for a fold that carries something beside the state. -/
theorem foldl_fst_keeps {α β : Type} {P : State → Prop} {f : State × β → α → State × β} {l : List α} {a : State × β}
    (hf : ∀ a x, P a.1 → P (f a x).1) (h : P a.1) : P (l.foldl f a).1 := by
  induction l generalizing a with
  | nil => exact h
  | cons x t ih => exact ih (hf a x h)

/-- Both branches of a choice. -/
theorem ite_keeps {P : State → Prop} {c : Prop} [Decidable c] {a b : State} (ha : P a) (hb : P b) :
    P (if c then a else b) := by
  split
  · exact ha
  · exact hb

/-- Both branches of a choice that carries something beside the state. -/
theorem ite_fst_keeps {α : Type} {P : State → Prop} {c : Prop} [Decidable c] {a b : State × α} (ha : P a.1)
    (hb : P b.1) : P (if c then a else b).1 := by
  split
  · exact ha
  · exact hb

/-- The state part of a pair that a match has taken apart. -/
theorem fst_of {α : Type} {P : State → Prop} {x : State × α} {a : State} {b : α} (e : x = (a, b)) (h : P x.1) :
    P a := by
  subst e; exact h

/-- The state inside an option that a match has taken apart. -/
theorem some_of {P : State → Prop} {x : Option State} {a : State} (e : x = some a) (h : ∀ y, x = some y → P y) :
    P a := h a e

end Sys2Proof.Machine
end

