-- ==== Sys2Proof/Laws/Tbl.lean ====
section
/-! SUPPORT. The laws of sparse tables: what a key reads as after a write, and that every operation keeps the
canonical form. -/

namespace Sys2Proof.Machine

variable {α : Type}

/-- A table in canonical form from `lo` on is one from any lower bound on. -/
theorem Tbl.wfFrom_le [DecidableEq α] {d : Nat → α} {t : Tbl α} {lo lo' : Nat} (h : Tbl.wfFrom d lo t = true)
    (hl : lo' ≤ lo) : Tbl.wfFrom d lo' t = true := by
  cases t with
  | nil => rfl
  | cons e t =>
    simp only [Tbl.wfFrom, Bool.and_eq_true, decide_eq_true_eq] at h ⊢
    exact ⟨⟨by omega, h.1.2⟩, h.2⟩

/-- A key below the bound reads as the default. -/
theorem Tbl.get_below [DecidableEq α] {d : Nat → α} {v : α} {t : Tbl α} {lo k : Nat}
    (h : Tbl.wfFrom d lo t = true) (hk : k < lo) : Tbl.get v t k = v := by
  induction t generalizing lo with
  | nil => rfl
  | cons e t ih =>
    simp only [Tbl.wfFrom, Bool.and_eq_true, decide_eq_true_eq] at h
    have hne : e.1 ≠ k := by omega
    simp only [Tbl.get, if_neg hne]
    exact ih h.2 (by omega)

theorem Tbl.wfFrom_put [DecidableEq α] {d : Nat → α} {t : Tbl α} {lo k : Nat} {v : α} (h : Tbl.wfFrom d lo t = true)
    (hk : lo ≤ k) (hv : v ≠ d k) : Tbl.wfFrom d lo (Tbl.put t k v) = true := by
  induction t generalizing lo with
  | nil => simp [Tbl.put, Tbl.wfFrom, hk, hv]
  | cons e t ih =>
    simp only [Tbl.wfFrom, Bool.and_eq_true, decide_eq_true_eq] at h
    simp only [Tbl.put]
    split
    · simp only [Tbl.wfFrom, Bool.and_eq_true, decide_eq_true_eq]
      exact ⟨⟨hk, hv⟩, ⟨⟨by omega, h.1.2⟩, h.2⟩⟩
    · split
      · next e1 =>
        simp only [Tbl.wfFrom, Bool.and_eq_true, decide_eq_true_eq]
        exact ⟨⟨hk, hv⟩, e1 ▸ h.2⟩
      · simp only [Tbl.wfFrom, Bool.and_eq_true, decide_eq_true_eq]
        exact ⟨h.1, ih h.2 (by omega)⟩

theorem Tbl.wfFrom_del [DecidableEq α] {d : Nat → α} {t : Tbl α} {lo k : Nat} (h : Tbl.wfFrom d lo t = true) :
    Tbl.wfFrom d lo (Tbl.del t k) = true := by
  induction t generalizing lo with
  | nil => rfl
  | cons e t ih =>
    simp only [Tbl.wfFrom, Bool.and_eq_true, decide_eq_true_eq] at h
    simp only [Tbl.del]
    split
    · exact Tbl.wfFrom_le (ih h.2) (by omega)
    · simp only [Tbl.wfFrom, Bool.and_eq_true, decide_eq_true_eq]
      exact ⟨h.1, ih h.2⟩

/-- Writing one key keeps the canonical form, where the key's default is the one the write goes by. -/
theorem Tbl.wf_set [DecidableEq α] {d : Nat → α} {t : Tbl α} {k : Nat} {v : α} (h : Tbl.wf d t = true) :
    Tbl.wf d (Tbl.set (d k) t k v) = true := by
  unfold Tbl.set
  split
  · exact Tbl.wfFrom_del h
  · next hv => exact Tbl.wfFrom_put h (Nat.zero_le k) hv

theorem Tbl.wfFrom_filter [DecidableEq α] {d : Nat → α} {t : Tbl α} {lo : Nat} (p : Nat × α → Bool)
    (h : Tbl.wfFrom d lo t = true) : Tbl.wfFrom d lo (t.filter p) = true := by
  induction t generalizing lo with
  | nil => rfl
  | cons e t ih =>
    simp only [Tbl.wfFrom, Bool.and_eq_true, decide_eq_true_eq] at h
    simp only [List.filter]
    split
    · simp only [Tbl.wfFrom, Bool.and_eq_true, decide_eq_true_eq]
      exact ⟨h.1, ih h.2⟩
    · exact Tbl.wfFrom_le (ih h.2) (by omega)

/-- Every entry given a new value, or dropped where that is its default. -/
theorem Tbl.wfFrom_remap [DecidableEq α] {d : Nat → α} {t : Tbl α} {lo : Nat} (f : Nat × α → α)
    (h : Tbl.wfFrom d lo t = true) :
    Tbl.wfFrom d lo (t.filterMap fun e => if f e = d e.1 then none else some (e.1, f e)) = true := by
  induction t generalizing lo with
  | nil => rfl
  | cons e t ih =>
    simp only [Tbl.wfFrom, Bool.and_eq_true, decide_eq_true_eq] at h
    by_cases hd : f e = d e.1
    · rw [List.filterMap_cons_none (by simp [hd])]
      exact Tbl.wfFrom_le (ih h.2) (by omega)
    · rw [List.filterMap_cons_some (by simp [hd]; rfl)]
      simp only [Tbl.wfFrom, Bool.and_eq_true, decide_eq_true_eq]
      exact ⟨⟨h.1.1, hd⟩, ih h.2⟩

/-! What a key reads as. -/

theorem Tbl.get_put (d : α) (t : Tbl α) (k : Nat) (v : α) : Tbl.get d (Tbl.put t k v) k = v := by
  induction t with
  | nil => simp [Tbl.put, Tbl.get]
  | cons e t ih =>
    simp only [Tbl.put]
    split
    · simp [Tbl.get]
    · split
      · simp [Tbl.get]
      · next h1 h2 => simp [Tbl.get, Ne.symm h2, ih]

theorem Tbl.get_put_ne (d : α) (t : Tbl α) {k k' : Nat} (v : α) (h : k' ≠ k) :
    Tbl.get d (Tbl.put t k v) k' = Tbl.get d t k' := by
  induction t with
  | nil => simp [Tbl.put, Tbl.get, Ne.symm h]
  | cons e t ih =>
    simp only [Tbl.put]
    split
    · simp [Tbl.get, Ne.symm h]
    · split
      · next h1 h2 =>
        subst h2
        simp [Tbl.get, Ne.symm h]
      · simp only [Tbl.get, ih]

theorem Tbl.get_del_ne (d : α) (t : Tbl α) {k k' : Nat} (h : k' ≠ k) :
    Tbl.get d (Tbl.del t k) k' = Tbl.get d t k' := by
  induction t with
  | nil => rfl
  | cons e t ih =>
    simp only [Tbl.del]
    split
    · next h1 => simp [Tbl.get, h1, Ne.symm h, ih]
    · simp only [Tbl.get, ih]

/-- A key removed reads as the default. -/
theorem Tbl.get_del (d : α) (t : Tbl α) (k : Nat) : Tbl.get d (Tbl.del t k) k = d := by
  induction t with
  | nil => rfl
  | cons e t ih =>
    simp only [Tbl.del]
    split
    · exact ih
    · next h1 => simp [Tbl.get, h1, ih]

/-- A key written reads as what was written. -/
theorem Tbl.get_set [DecidableEq α] (d : α) (t : Tbl α) (k : Nat) (v : α) : Tbl.get d (Tbl.set d t k v) k = v := by
  unfold Tbl.set
  split
  · next hv => rw [Tbl.get_del, hv]
  · exact Tbl.get_put _ _ _ _

/-- Every other key reads as before. -/
theorem Tbl.get_set_ne [DecidableEq α] (d d' : α) (t : Tbl α) {k k' : Nat} (v : α) (h : k' ≠ k) :
    Tbl.get d' (Tbl.set d t k v) k' = Tbl.get d' t k' := by
  unfold Tbl.set
  split
  · exact Tbl.get_del_ne _ _ h
  · exact Tbl.get_put_ne _ _ _ h

/-- Entries filtered by key: a key kept reads as before. -/
theorem Tbl.get_filter (d : α) (t : Tbl α) (p : Nat → Bool) {k : Nat} (h : p k = true) :
    Tbl.get d (t.filter fun e => p e.1) k = Tbl.get d t k := by
  induction t with
  | nil => rfl
  | cons e t ih =>
    by_cases hp : p e.1 = true
    · rw [List.filter_cons_of_pos (by simpa using hp)]
      simp only [Tbl.get, ih]
    · rw [List.filter_cons_of_neg (by simpa using hp)]
      have hne : e.1 ≠ k := fun e1 => hp (e1 ▸ h)
      simp only [Tbl.get, if_neg hne, ih]

/-- Entries filtered by key: a key left out reads as the default. -/
theorem Tbl.get_filter_out (d : α) (t : Tbl α) (p : Nat → Bool) {k : Nat} (h : p k = false) :
    Tbl.get d (t.filter fun e => p e.1) k = d := by
  induction t with
  | nil => rfl
  | cons e t ih =>
    by_cases hp : p e.1 = true
    · rw [List.filter_cons_of_pos (by simpa using hp)]
      have hne : e.1 ≠ k := fun e1 => by rw [e1, h] at hp; cases hp
      simp only [Tbl.get, if_neg hne, ih]
    · rw [List.filter_cons_of_neg (by simpa using hp)]
      exact ih

end Sys2Proof.Machine
end

