-- ==== Sys2Proof/Laws/Frames.lean ====
section
/-! SUPPORT. Properties that survive writes: the invariant of `State`, and every component that an operation's list
leaves out. -/

namespace Sys2Proof.Machine

theorem Comp.within_all (w : List Comp) : Comp.within w Comp.all = true :=
  List.all_eq_true.mpr fun c _ => by cases c <;> rfl

/-- One register write keeps the register table canonical. -/
theorem regs_wf_set {r : Tbl Word64} (h : Regs.wf r = true) (o : Nat) (v : Word64) :
    Regs.wf (r.set (coldOf o) o v) = true := Tbl.wf_set (d := fun k => coldOf k) h

/-- One byte write keeps memory canonical. -/
theorem memory_wf_set {m : List Host.Cell} (h : Memory.wf m = true) (k : Nat) (v : Byte) :
    Memory.wf (Tbl.set (α := Byte) 0 m k v) = true := Tbl.wf_set (α := Byte) (d := fun _ => 0) h

/-- Every write keeps the invariant. -/
theorem keeps_inv : Keeps Comp.all State.Inv where
  outs := fun _ _ _ h => h
  draw := fun _ _ h => h
  reg := fun _ _ o v h => ⟨h.1, regs_wf_set h.2 o v⟩
  regDrop := fun _ _ p h => ⟨h.1, Tbl.wfFrom_filter (d := fun k => coldOf k) (fun e => !p e.1) h.2⟩
  regReset := fun _ _ p h => ⟨h.1, Tbl.wfFrom_remap (d := fun k => coldOf k)
    (fun e => mixBits (maskAt (p e.1) e.1) e.2 (coldOf e.1)) h.2⟩
  byte := fun _ _ k v h => ⟨memory_wf_set h.1 k v, h.2⟩
  memDrop := fun _ _ p h => ⟨Tbl.wfFrom_filter (α := Byte) (d := fun _ => 0) p h.1, h.2⟩
  core := fun _ _ _ h => h
  eng := fun _ _ _ h => h
  smp := fun _ _ _ h => h
  upd := fun _ _ _ h => h
  swm := fun _ _ _ h => h
  cap := fun _ _ _ h => h
  lp := fun _ _ _ h => h
  log := fun _ _ _ h => h
  fab := fun _ _ _ h => h
  opt := fun _ _ _ h => h
  host := fun _ _ _ h => h
  wort := fun _ _ _ h => h
  boot := fun _ _ _ h => h
  saf := fun _ _ _ h => h
  pwr := fun _ _ _ h => h
  tap := fun _ _ _ h => h
  tim := fun _ _ _ _ h => h

/-- No write touches the queue of waiting commands. -/
theorem keeps_pending (w : List Comp) (q : List Instr) : Keeps w fun t => t.pending = q where
  outs := fun _ _ _ h => h
  draw := fun _ _ h => h
  reg := fun _ _ _ _ h => h
  regDrop := fun _ _ _ h => h
  regReset := fun _ _ _ h => h
  byte := fun _ _ _ _ h => h
  memDrop := fun _ _ _ h => h
  core := fun _ _ _ h => h
  eng := fun _ _ _ h => h
  smp := fun _ _ _ h => h
  upd := fun _ _ _ h => h
  swm := fun _ _ _ h => h
  cap := fun _ _ _ h => h
  lp := fun _ _ _ h => h
  log := fun _ _ _ h => h
  fab := fun _ _ _ h => h
  opt := fun _ _ _ h => h
  host := fun _ _ _ h => h
  wort := fun _ _ _ h => h
  boot := fun _ _ _ h => h
  saf := fun _ _ _ h => h
  pwr := fun _ _ _ h => h
  tap := fun _ _ _ h => h
  tim := fun _ _ _ _ h => h

/-- What the module has sent is never taken back. -/
theorem keeps_out (w : List Comp) (o : List Out) : Keeps w fun t => o <+: t.out where
  outs := fun _ _ os h => h.trans (List.prefix_append _ os)
  draw := fun _ _ h => h
  reg := fun _ _ _ _ h => h
  regDrop := fun _ _ _ h => h
  regReset := fun _ _ _ h => h
  byte := fun _ _ _ _ h => h
  memDrop := fun _ _ _ h => h
  core := fun _ _ _ h => h
  eng := fun _ _ _ h => h
  smp := fun _ _ _ h => h
  upd := fun _ _ _ h => h
  swm := fun _ _ _ h => h
  cap := fun _ _ _ h => h
  lp := fun _ _ _ h => h
  log := fun _ _ _ h => h
  fab := fun _ _ _ h => h
  opt := fun _ _ _ h => h
  host := fun _ _ _ h => h
  wort := fun _ _ _ h => h
  boot := fun _ _ _ h => h
  saf := fun _ _ _ h => h
  pwr := fun _ _ _ h => h
  tap := fun _ _ _ h => h
  tim := fun _ _ _ _ h => h

/-- No write moves the model's clock. -/
theorem keeps_clock (w : List Comp) (n : Nat) : Keeps w fun t => t.tim.mono = n where
  outs := fun _ _ _ h => h
  draw := fun _ _ h => h
  reg := fun _ _ _ _ h => h
  regDrop := fun _ _ _ h => h
  regReset := fun _ _ _ h => h
  byte := fun _ _ _ _ h => h
  memDrop := fun _ _ _ h => h
  core := fun _ _ _ h => h
  eng := fun _ _ _ h => h
  smp := fun _ _ _ h => h
  upd := fun _ _ _ h => h
  swm := fun _ _ _ h => h
  cap := fun _ _ _ h => h
  lp := fun _ _ _ h => h
  log := fun _ _ _ h => h
  fab := fun _ _ _ h => h
  opt := fun _ _ _ h => h
  host := fun _ _ _ h => h
  wort := fun _ _ _ h => h
  boot := fun _ _ _ h => h
  saf := fun _ _ _ h => h
  pwr := fun _ _ _ h => h
  tap := fun _ _ _ h => h
  tim := fun _ _ _ e h => e.trans h

/-- A free value drawn is never drawn again. -/
theorem keeps_free (w : List Comp) (n : Nat) : Keeps w fun t => n ≤ t.free where
  outs := fun _ _ _ h => h
  draw := fun _ _ h => Nat.le_succ_of_le h
  reg := fun _ _ _ _ h => h
  regDrop := fun _ _ _ h => h
  regReset := fun _ _ _ h => h
  byte := fun _ _ _ _ h => h
  memDrop := fun _ _ _ h => h
  core := fun _ _ _ h => h
  eng := fun _ _ _ h => h
  smp := fun _ _ _ h => h
  upd := fun _ _ _ h => h
  swm := fun _ _ _ h => h
  cap := fun _ _ _ h => h
  lp := fun _ _ _ h => h
  log := fun _ _ _ h => h
  fab := fun _ _ _ h => h
  opt := fun _ _ _ h => h
  host := fun _ _ _ h => h
  wort := fun _ _ _ h => h
  boot := fun _ _ _ h => h
  saf := fun _ _ _ h => h
  pwr := fun _ _ _ h => h
  tap := fun _ _ _ h => h
  tim := fun _ _ _ _ h => h

/-! Frames: a component outside the list is as it was. -/

/-- Memory, where no memory write is listed. -/
theorem keeps_mem {w : List Comp} (m : List Host.Cell) (hw : Comp.mem ∉ w) : Keeps w fun t => t.mem = m where
  outs := fun _ _ _ h => h
  draw := fun _ _ h => h
  reg := fun _ _ _ _ h => h
  regDrop := fun _ _ _ h => h
  regReset := fun _ _ _ h => h
  byte := fun c => absurd c hw
  memDrop := fun c => absurd c hw
  core := fun _ _ _ h => h
  eng := fun _ _ _ h => h
  smp := fun _ _ _ h => h
  upd := fun _ _ _ h => h
  swm := fun _ _ _ h => h
  cap := fun _ _ _ h => h
  lp := fun _ _ _ h => h
  log := fun _ _ _ h => h
  fab := fun _ _ _ h => h
  opt := fun _ _ _ h => h
  host := fun _ _ _ h => h
  wort := fun _ _ _ h => h
  boot := fun _ _ _ h => h
  saf := fun _ _ _ h => h
  pwr := fun _ _ _ h => h
  tap := fun _ _ _ h => h
  tim := fun _ _ _ _ h => h

/-- The registers, where no register write is listed. -/
theorem keeps_regs {w : List Comp} (r : Tbl Word64) (hw : Comp.regs ∉ w) : Keeps w fun t => t.regs = r where
  outs := fun _ _ _ h => h
  draw := fun _ _ h => h
  reg := fun c => absurd c hw
  regDrop := fun c => absurd c hw
  regReset := fun c => absurd c hw
  byte := fun _ _ _ _ h => h
  memDrop := fun _ _ _ h => h
  core := fun _ _ _ h => h
  eng := fun _ _ _ h => h
  smp := fun _ _ _ h => h
  upd := fun _ _ _ h => h
  swm := fun _ _ _ h => h
  cap := fun _ _ _ h => h
  lp := fun _ _ _ h => h
  log := fun _ _ _ h => h
  fab := fun _ _ _ h => h
  opt := fun _ _ _ h => h
  host := fun _ _ _ h => h
  wort := fun _ _ _ h => h
  boot := fun _ _ _ h => h
  saf := fun _ _ _ h => h
  pwr := fun _ _ _ h => h
  tap := fun _ _ _ h => h
  tim := fun _ _ _ _ h => h

/-- The output, where nothing is sent. -/
theorem keeps_sent {w : List Comp} (o : List Out) (hw : Comp.out ∉ w) : Keeps w fun t => t.out = o where
  outs := fun c => absurd c hw
  draw := fun _ _ h => h
  reg := fun _ _ _ _ h => h
  regDrop := fun _ _ _ h => h
  regReset := fun _ _ _ h => h
  byte := fun _ _ _ _ h => h
  memDrop := fun _ _ _ h => h
  core := fun _ _ _ h => h
  eng := fun _ _ _ h => h
  smp := fun _ _ _ h => h
  upd := fun _ _ _ h => h
  swm := fun _ _ _ h => h
  cap := fun _ _ _ h => h
  lp := fun _ _ _ h => h
  log := fun _ _ _ h => h
  fab := fun _ _ _ h => h
  opt := fun _ _ _ h => h
  host := fun _ _ _ h => h
  wort := fun _ _ _ h => h
  boot := fun _ _ _ h => h
  saf := fun _ _ _ h => h
  pwr := fun _ _ _ h => h
  tap := fun _ _ _ h => h
  tim := fun _ _ _ _ h => h

/-- The counter of free values, where none is drawn. -/
theorem keeps_drawn {w : List Comp} (n : Nat) (hw : Comp.free ∉ w) : Keeps w fun t => t.free = n where
  outs := fun _ _ _ h => h
  draw := fun c => absurd c hw
  reg := fun _ _ _ _ h => h
  regDrop := fun _ _ _ h => h
  regReset := fun _ _ _ h => h
  byte := fun _ _ _ _ h => h
  memDrop := fun _ _ _ h => h
  core := fun _ _ _ h => h
  eng := fun _ _ _ h => h
  smp := fun _ _ _ h => h
  upd := fun _ _ _ h => h
  swm := fun _ _ _ h => h
  cap := fun _ _ _ h => h
  lp := fun _ _ _ h => h
  log := fun _ _ _ h => h
  fab := fun _ _ _ h => h
  opt := fun _ _ _ h => h
  host := fun _ _ _ h => h
  wort := fun _ _ _ h => h
  boot := fun _ _ _ h => h
  saf := fun _ _ _ h => h
  pwr := fun _ _ _ h => h
  tap := fun _ _ _ h => h
  tim := fun _ _ _ _ h => h

/-- Frame for the worker cores and barriers. -/
theorem keeps_core {w : List Comp} (x) (hw : Comp.core ∉ w) : Keeps w fun t => t.core = x where
  outs := fun _ _ _ h => h
  draw := fun _ _ h => h
  reg := fun _ _ _ _ h => h
  regDrop := fun _ _ _ h => h
  regReset := fun _ _ _ h => h
  byte := fun _ _ _ _ h => h
  memDrop := fun _ _ _ h => h
  core := fun c => absurd c hw
  eng := fun _ _ _ h => h
  smp := fun _ _ _ h => h
  upd := fun _ _ _ h => h
  swm := fun _ _ _ h => h
  cap := fun _ _ _ h => h
  lp := fun _ _ _ h => h
  log := fun _ _ _ h => h
  fab := fun _ _ _ h => h
  opt := fun _ _ _ h => h
  host := fun _ _ _ h => h
  wort := fun _ _ _ h => h
  boot := fun _ _ _ h => h
  saf := fun _ _ _ h => h
  pwr := fun _ _ _ h => h
  tap := fun _ _ _ h => h
  tim := fun _ _ _ _ h => h

/-- Frame for the engines. -/
theorem keeps_eng {w : List Comp} (x) (hw : Comp.eng ∉ w) : Keeps w fun t => t.eng = x where
  outs := fun _ _ _ h => h
  draw := fun _ _ h => h
  reg := fun _ _ _ _ h => h
  regDrop := fun _ _ _ h => h
  regReset := fun _ _ _ h => h
  byte := fun _ _ _ _ h => h
  memDrop := fun _ _ _ h => h
  core := fun _ _ _ h => h
  eng := fun c => absurd c hw
  smp := fun _ _ _ h => h
  upd := fun _ _ _ h => h
  swm := fun _ _ _ h => h
  cap := fun _ _ _ h => h
  lp := fun _ _ _ h => h
  log := fun _ _ _ h => h
  fab := fun _ _ _ h => h
  opt := fun _ _ _ h => h
  host := fun _ _ _ h => h
  wort := fun _ _ _ h => h
  boot := fun _ _ _ h => h
  saf := fun _ _ _ h => h
  pwr := fun _ _ _ h => h
  tap := fun _ _ _ h => h
  tim := fun _ _ _ _ h => h

/-- Frame for the sampler. -/
theorem keeps_smp {w : List Comp} (x) (hw : Comp.smp ∉ w) : Keeps w fun t => t.smp = x where
  outs := fun _ _ _ h => h
  draw := fun _ _ h => h
  reg := fun _ _ _ _ h => h
  regDrop := fun _ _ _ h => h
  regReset := fun _ _ _ h => h
  byte := fun _ _ _ _ h => h
  memDrop := fun _ _ _ h => h
  core := fun _ _ _ h => h
  eng := fun _ _ _ h => h
  smp := fun c => absurd c hw
  upd := fun _ _ _ h => h
  swm := fun _ _ _ h => h
  cap := fun _ _ _ h => h
  lp := fun _ _ _ h => h
  log := fun _ _ _ h => h
  fab := fun _ _ _ h => h
  opt := fun _ _ _ h => h
  host := fun _ _ _ h => h
  wort := fun _ _ _ h => h
  boot := fun _ _ _ h => h
  saf := fun _ _ _ h => h
  pwr := fun _ _ _ h => h
  tap := fun _ _ _ h => h
  tim := fun _ _ _ _ h => h

/-- Frame for the update units. -/
theorem keeps_upd {w : List Comp} (x) (hw : Comp.upd ∉ w) : Keeps w fun t => t.upd = x where
  outs := fun _ _ _ h => h
  draw := fun _ _ h => h
  reg := fun _ _ _ _ h => h
  regDrop := fun _ _ _ h => h
  regReset := fun _ _ _ h => h
  byte := fun _ _ _ _ h => h
  memDrop := fun _ _ _ h => h
  core := fun _ _ _ h => h
  eng := fun _ _ _ h => h
  smp := fun _ _ _ h => h
  upd := fun c => absurd c hw
  swm := fun _ _ _ h => h
  cap := fun _ _ _ h => h
  lp := fun _ _ _ h => h
  log := fun _ _ _ h => h
  fab := fun _ _ _ h => h
  opt := fun _ _ _ h => h
  host := fun _ _ _ h => h
  wort := fun _ _ _ h => h
  boot := fun _ _ _ h => h
  saf := fun _ _ _ h => h
  pwr := fun _ _ _ h => h
  tap := fun _ _ _ h => h
  tim := fun _ _ _ _ h => h

/-- Frame for the swarm engine. -/
theorem keeps_swm {w : List Comp} (x) (hw : Comp.swm ∉ w) : Keeps w fun t => t.swm = x where
  outs := fun _ _ _ h => h
  draw := fun _ _ h => h
  reg := fun _ _ _ _ h => h
  regDrop := fun _ _ _ h => h
  regReset := fun _ _ _ h => h
  byte := fun _ _ _ _ h => h
  memDrop := fun _ _ _ h => h
  core := fun _ _ _ h => h
  eng := fun _ _ _ h => h
  smp := fun _ _ _ h => h
  upd := fun _ _ _ h => h
  swm := fun c => absurd c hw
  cap := fun _ _ _ h => h
  lp := fun _ _ _ h => h
  log := fun _ _ _ h => h
  fab := fun _ _ _ h => h
  opt := fun _ _ _ h => h
  host := fun _ _ _ h => h
  wort := fun _ _ _ h => h
  boot := fun _ _ _ h => h
  saf := fun _ _ _ h => h
  pwr := fun _ _ _ h => h
  tap := fun _ _ _ h => h
  tim := fun _ _ _ _ h => h

/-- Frame for the caps. -/
theorem keeps_cap {w : List Comp} (x) (hw : Comp.cap ∉ w) : Keeps w fun t => t.cap = x where
  outs := fun _ _ _ h => h
  draw := fun _ _ h => h
  reg := fun _ _ _ _ h => h
  regDrop := fun _ _ _ h => h
  regReset := fun _ _ _ h => h
  byte := fun _ _ _ _ h => h
  memDrop := fun _ _ _ h => h
  core := fun _ _ _ h => h
  eng := fun _ _ _ h => h
  smp := fun _ _ _ h => h
  upd := fun _ _ _ h => h
  swm := fun _ _ _ h => h
  cap := fun c => absurd c hw
  lp := fun _ _ _ h => h
  log := fun _ _ _ h => h
  fab := fun _ _ _ h => h
  opt := fun _ _ _ h => h
  host := fun _ _ _ h => h
  wort := fun _ _ _ h => h
  boot := fun _ _ _ h => h
  saf := fun _ _ _ h => h
  pwr := fun _ _ _ h => h
  tap := fun _ _ _ h => h
  tim := fun _ _ _ _ h => h

/-- Frame for the LPDDR5X controllers. -/
theorem keeps_lp {w : List Comp} (x) (hw : Comp.lp ∉ w) : Keeps w fun t => t.lp = x where
  outs := fun _ _ _ h => h
  draw := fun _ _ h => h
  reg := fun _ _ _ _ h => h
  regDrop := fun _ _ _ h => h
  regReset := fun _ _ _ h => h
  byte := fun _ _ _ _ h => h
  memDrop := fun _ _ _ h => h
  core := fun _ _ _ h => h
  eng := fun _ _ _ h => h
  smp := fun _ _ _ h => h
  upd := fun _ _ _ h => h
  swm := fun _ _ _ h => h
  cap := fun _ _ _ h => h
  lp := fun c => absurd c hw
  log := fun _ _ _ h => h
  fab := fun _ _ _ h => h
  opt := fun _ _ _ h => h
  host := fun _ _ _ h => h
  wort := fun _ _ _ h => h
  boot := fun _ _ _ h => h
  saf := fun _ _ _ h => h
  pwr := fun _ _ _ h => h
  tap := fun _ _ _ h => h
  tim := fun _ _ _ _ h => h

/-- Frame for the event log. -/
theorem keeps_log {w : List Comp} (x) (hw : Comp.log ∉ w) : Keeps w fun t => t.log = x where
  outs := fun _ _ _ h => h
  draw := fun _ _ h => h
  reg := fun _ _ _ _ h => h
  regDrop := fun _ _ _ h => h
  regReset := fun _ _ _ h => h
  byte := fun _ _ _ _ h => h
  memDrop := fun _ _ _ h => h
  core := fun _ _ _ h => h
  eng := fun _ _ _ h => h
  smp := fun _ _ _ h => h
  upd := fun _ _ _ h => h
  swm := fun _ _ _ h => h
  cap := fun _ _ _ h => h
  lp := fun _ _ _ h => h
  log := fun c => absurd c hw
  fab := fun _ _ _ h => h
  opt := fun _ _ _ h => h
  host := fun _ _ _ h => h
  wort := fun _ _ _ h => h
  boot := fun _ _ _ h => h
  saf := fun _ _ _ h => h
  pwr := fun _ _ _ h => h
  tap := fun _ _ _ h => h
  tim := fun _ _ _ _ h => h

/-- Frame for the links, transfers and route banks. -/
theorem keeps_fab {w : List Comp} (x) (hw : Comp.fab ∉ w) : Keeps w fun t => t.fab = x where
  outs := fun _ _ _ h => h
  draw := fun _ _ h => h
  reg := fun _ _ _ _ h => h
  regDrop := fun _ _ _ h => h
  regReset := fun _ _ _ h => h
  byte := fun _ _ _ _ h => h
  memDrop := fun _ _ _ h => h
  core := fun _ _ _ h => h
  eng := fun _ _ _ h => h
  smp := fun _ _ _ h => h
  upd := fun _ _ _ h => h
  swm := fun _ _ _ h => h
  cap := fun _ _ _ h => h
  lp := fun _ _ _ h => h
  log := fun _ _ _ h => h
  fab := fun c => absurd c hw
  opt := fun _ _ _ h => h
  host := fun _ _ _ h => h
  wort := fun _ _ _ h => h
  boot := fun _ _ _ h => h
  saf := fun _ _ _ h => h
  pwr := fun _ _ _ h => h
  tap := fun _ _ _ h => h
  tim := fun _ _ _ _ h => h

/-- Frame for the optics. -/
theorem keeps_opt {w : List Comp} (x) (hw : Comp.opt ∉ w) : Keeps w fun t => t.opt = x where
  outs := fun _ _ _ h => h
  draw := fun _ _ h => h
  reg := fun _ _ _ _ h => h
  regDrop := fun _ _ _ h => h
  regReset := fun _ _ _ h => h
  byte := fun _ _ _ _ h => h
  memDrop := fun _ _ _ h => h
  core := fun _ _ _ h => h
  eng := fun _ _ _ h => h
  smp := fun _ _ _ h => h
  upd := fun _ _ _ h => h
  swm := fun _ _ _ h => h
  cap := fun _ _ _ h => h
  lp := fun _ _ _ h => h
  log := fun _ _ _ h => h
  fab := fun _ _ _ h => h
  opt := fun c => absurd c hw
  host := fun _ _ _ h => h
  wort := fun _ _ _ h => h
  boot := fun _ _ _ h => h
  saf := fun _ _ _ h => h
  pwr := fun _ _ _ h => h
  tap := fun _ _ _ h => h
  tim := fun _ _ _ _ h => h

/-- Frame for the host interface. -/
theorem keeps_host {w : List Comp} (x) (hw : Comp.host ∉ w) : Keeps w fun t => t.host = x where
  outs := fun _ _ _ h => h
  draw := fun _ _ h => h
  reg := fun _ _ _ _ h => h
  regDrop := fun _ _ _ h => h
  regReset := fun _ _ _ h => h
  byte := fun _ _ _ _ h => h
  memDrop := fun _ _ _ h => h
  core := fun _ _ _ h => h
  eng := fun _ _ _ h => h
  smp := fun _ _ _ h => h
  upd := fun _ _ _ h => h
  swm := fun _ _ _ h => h
  cap := fun _ _ _ h => h
  lp := fun _ _ _ h => h
  log := fun _ _ _ h => h
  fab := fun _ _ _ h => h
  opt := fun _ _ _ h => h
  host := fun c => absurd c hw
  wort := fun _ _ _ h => h
  boot := fun _ _ _ h => h
  saf := fun _ _ _ h => h
  pwr := fun _ _ _ h => h
  tap := fun _ _ _ h => h
  tim := fun _ _ _ _ h => h

/-- Frame for the wort engine. -/
theorem keeps_wort {w : List Comp} (x) (hw : Comp.wort ∉ w) : Keeps w fun t => t.wort = x where
  outs := fun _ _ _ h => h
  draw := fun _ _ h => h
  reg := fun _ _ _ _ h => h
  regDrop := fun _ _ _ h => h
  regReset := fun _ _ _ h => h
  byte := fun _ _ _ _ h => h
  memDrop := fun _ _ _ h => h
  core := fun _ _ _ h => h
  eng := fun _ _ _ h => h
  smp := fun _ _ _ h => h
  upd := fun _ _ _ h => h
  swm := fun _ _ _ h => h
  cap := fun _ _ _ h => h
  lp := fun _ _ _ h => h
  log := fun _ _ _ h => h
  fab := fun _ _ _ h => h
  opt := fun _ _ _ h => h
  host := fun _ _ _ h => h
  wort := fun c => absurd c hw
  boot := fun _ _ _ h => h
  saf := fun _ _ _ h => h
  pwr := fun _ _ _ h => h
  tap := fun _ _ _ h => h
  tim := fun _ _ _ _ h => h

/-- Frame for bring-up and the retained record. -/
theorem keeps_boot {w : List Comp} (x) (hw : Comp.boot ∉ w) : Keeps w fun t => t.boot = x where
  outs := fun _ _ _ h => h
  draw := fun _ _ h => h
  reg := fun _ _ _ _ h => h
  regDrop := fun _ _ _ h => h
  regReset := fun _ _ _ h => h
  byte := fun _ _ _ _ h => h
  memDrop := fun _ _ _ h => h
  core := fun _ _ _ h => h
  eng := fun _ _ _ h => h
  smp := fun _ _ _ h => h
  upd := fun _ _ _ h => h
  swm := fun _ _ _ h => h
  cap := fun _ _ _ h => h
  lp := fun _ _ _ h => h
  log := fun _ _ _ h => h
  fab := fun _ _ _ h => h
  opt := fun _ _ _ h => h
  host := fun _ _ _ h => h
  wort := fun _ _ _ h => h
  boot := fun c => absurd c hw
  saf := fun _ _ _ h => h
  pwr := fun _ _ _ h => h
  tap := fun _ _ _ h => h
  tim := fun _ _ _ _ h => h

/-- Frame for the safety detectors and the fence table. -/
theorem keeps_saf {w : List Comp} (x) (hw : Comp.saf ∉ w) : Keeps w fun t => t.saf = x where
  outs := fun _ _ _ h => h
  draw := fun _ _ h => h
  reg := fun _ _ _ _ h => h
  regDrop := fun _ _ _ h => h
  regReset := fun _ _ _ h => h
  byte := fun _ _ _ _ h => h
  memDrop := fun _ _ _ h => h
  core := fun _ _ _ h => h
  eng := fun _ _ _ h => h
  smp := fun _ _ _ h => h
  upd := fun _ _ _ h => h
  swm := fun _ _ _ h => h
  cap := fun _ _ _ h => h
  lp := fun _ _ _ h => h
  log := fun _ _ _ h => h
  fab := fun _ _ _ h => h
  opt := fun _ _ _ h => h
  host := fun _ _ _ h => h
  wort := fun _ _ _ h => h
  boot := fun _ _ _ h => h
  saf := fun c => absurd c hw
  pwr := fun _ _ _ h => h
  tap := fun _ _ _ h => h
  tim := fun _ _ _ _ h => h

/-- Frame for the input power. -/
theorem keeps_pwr {w : List Comp} (x) (hw : Comp.pwr ∉ w) : Keeps w fun t => t.pwr = x where
  outs := fun _ _ _ h => h
  draw := fun _ _ h => h
  reg := fun _ _ _ _ h => h
  regDrop := fun _ _ _ h => h
  regReset := fun _ _ _ h => h
  byte := fun _ _ _ _ h => h
  memDrop := fun _ _ _ h => h
  core := fun _ _ _ h => h
  eng := fun _ _ _ h => h
  smp := fun _ _ _ h => h
  upd := fun _ _ _ h => h
  swm := fun _ _ _ h => h
  cap := fun _ _ _ h => h
  lp := fun _ _ _ h => h
  log := fun _ _ _ h => h
  fab := fun _ _ _ h => h
  opt := fun _ _ _ h => h
  host := fun _ _ _ h => h
  wort := fun _ _ _ h => h
  boot := fun _ _ _ h => h
  saf := fun _ _ _ h => h
  pwr := fun c => absurd c hw
  tap := fun _ _ _ h => h
  tim := fun _ _ _ _ h => h

/-- Frame for the test access ports. -/
theorem keeps_tap {w : List Comp} (x) (hw : Comp.tap ∉ w) : Keeps w fun t => t.tap = x where
  outs := fun _ _ _ h => h
  draw := fun _ _ h => h
  reg := fun _ _ _ _ h => h
  regDrop := fun _ _ _ h => h
  regReset := fun _ _ _ h => h
  byte := fun _ _ _ _ h => h
  memDrop := fun _ _ _ h => h
  core := fun _ _ _ h => h
  eng := fun _ _ _ h => h
  smp := fun _ _ _ h => h
  upd := fun _ _ _ h => h
  swm := fun _ _ _ h => h
  cap := fun _ _ _ h => h
  lp := fun _ _ _ h => h
  log := fun _ _ _ h => h
  fab := fun _ _ _ h => h
  opt := fun _ _ _ h => h
  host := fun _ _ _ h => h
  wort := fun _ _ _ h => h
  boot := fun _ _ _ h => h
  saf := fun _ _ _ h => h
  pwr := fun _ _ _ h => h
  tap := fun c => absurd c hw
  tim := fun _ _ _ _ h => h

/-- Frame for the time registers. -/
theorem keeps_tim {w : List Comp} (x) (hw : Comp.tim ∉ w) : Keeps w fun t => t.tim = x where
  outs := fun _ _ _ h => h
  draw := fun _ _ h => h
  reg := fun _ _ _ _ h => h
  regDrop := fun _ _ _ h => h
  regReset := fun _ _ _ h => h
  byte := fun _ _ _ _ h => h
  memDrop := fun _ _ _ h => h
  core := fun _ _ _ h => h
  eng := fun _ _ _ h => h
  smp := fun _ _ _ h => h
  upd := fun _ _ _ h => h
  swm := fun _ _ _ h => h
  cap := fun _ _ _ h => h
  lp := fun _ _ _ h => h
  log := fun _ _ _ h => h
  fab := fun _ _ _ h => h
  opt := fun _ _ _ h => h
  host := fun _ _ _ h => h
  wort := fun _ _ _ h => h
  boot := fun _ _ _ h => h
  saf := fun _ _ _ h => h
  pwr := fun _ _ _ h => h
  tap := fun _ _ _ h => h
  tim := fun c => absurd c hw

/-- What every property kept says: an operation writes no group outside its list. -/
theorem only_of_keeps {w : List Comp} {s t : State} (h : ∀ P : State → Prop, Keeps w P → P s → P t) : State.Only w s t := by
  refine ⟨fun c hc => ?_, h _ (keeps_pending w s.pending) rfl, h _ (keeps_clock w s.tim.mono) rfl⟩
  cases c
  case free => exact h _ (keeps_drawn s.free hc) rfl
  case out => exact h _ (keeps_sent s.out hc) rfl
  case regs => exact fun o => by rw [State.reg, h _ (keeps_regs s.regs hc) rfl, State.reg]
  case mem => exact fun k => by rw [State.byte, h _ (keeps_mem s.mem hc) rfl, State.byte]
  case core => exact h _ (keeps_core s.core hc) rfl
  case eng => exact h _ (keeps_eng s.eng hc) rfl
  case smp => exact h _ (keeps_smp s.smp hc) rfl
  case upd => exact h _ (keeps_upd s.upd hc) rfl
  case swm => exact h _ (keeps_swm s.swm hc) rfl
  case cap => exact h _ (keeps_cap s.cap hc) rfl
  case lp => exact h _ (keeps_lp s.lp hc) rfl
  case log => exact h _ (keeps_log s.log hc) rfl
  case fab => exact h _ (keeps_fab s.fab hc) rfl
  case opt => exact h _ (keeps_opt s.opt hc) rfl
  case host => exact h _ (keeps_host s.host hc) rfl
  case wort => exact h _ (keeps_wort s.wort hc) rfl
  case boot => exact h _ (keeps_boot s.boot hc) rfl
  case saf => exact h _ (keeps_saf s.saf hc) rfl
  case pwr => exact h _ (keeps_pwr s.pwr hc) rfl
  case tap => exact h _ (keeps_tap s.tap hc) rfl
  case tim => exact h _ (keeps_tim s.tim hc) rfl

/-- An operation that changes nothing but part of the list changes nothing but the list. -/
theorem State.Only.mono {w v : List Comp} {s t : State} (h : State.Only v s t) (i : Comp.within v w = true) :
    State.Only w s t :=
  ⟨fun c hc => h.1 c fun hv => hc (Comp.within_mem i hv), h.2⟩

end Sys2Proof.Machine
end

