-- ==== Sys2Proof/Laws/KeepsOps.lean ====
section
/-! SUPPORT. What every operation may write: the shared operations: registers, cores, cells, memory, caps, setups. One lemma per operation, by the components
it can reach (Laws/Keeps.lean). -/

namespace Sys2Proof.Machine

variable {P : State → Prop}

/-! Ops -/

theorem State.setReg_keeps (K : Keeps [.regs] P) {s : State} (off : Nat) (v : Word64) (hs : P s) : P (State.setReg s off v) := K.reg (by decide) off v hs

theorem State.fset_keeps (K : Keeps [.regs] P) {s : State} (r : FRef) (v : Nat) (hs : P s) : P (State.fset s r v) := by
  have K0 : Keeps [.regs] P := K.mono rfl
  unfold State.fset
  repeat' first
    | with_reducible assumption
    | intro _
    | with_reducible apply State.setReg_keeps K0

theorem State.finc_keeps (K : Keeps [.regs] P) {s : State} (r : FRef) (n : Nat) (hs : P s) : P (State.finc s r n) := by
  have K0 : Keeps [.regs] P := K.mono rfl
  unfold State.finc
  repeat' first
    | with_reducible assumption
    | intro _
    | with_reducible apply State.fset_keeps K0

theorem State.fsetBit_keeps (K : Keeps [.regs] P) {s : State} (r : FRef) (k : Nat) (b : Bool) (hs : P s) : P (State.fsetBit s r k b) := by
  have K0 : Keeps [.regs] P := K.mono rfl
  unfold State.fsetBit
  repeat' first
    | with_reducible assumption
    | intro _
    | with_reducible apply State.fset_keeps K0

theorem State.setByte_keeps (K : Keeps [.mem] P) {s : State} (key : Nat) (v : Byte) (hs : P s) : P (State.setByte s key v) := K.byte (by decide) key v hs

theorem State.emit_keeps (K : Keeps [.out] P) {s : State} (o : Out) (hs : P s) : P (State.emit s o) := K.outs (by decide) [o] hs

theorem State.emits_keeps (K : Keeps [.out] P) {s : State} (os : List Out) (hs : P s) : P (State.emits s os) := K.outs (by decide) os hs

theorem State.drawn_keeps (K : Keeps [.free] P) {s : State} (hs : P s) : P (State.drawn s) := K.draw (by decide) hs

theorem State.raise_keeps (K : Keeps [.out] P) {s : State} (fn : Nat) (vec : Nat) (hs : P s) : P (State.raise s fn vec) := by
  have K0 : Keeps [.out] P := K.mono rfl
  unfold State.raise
  repeat' first
    | with_reducible assumption
    | intro _
    | with_reducible apply State.emit_keeps K0

theorem State.isum_keeps (K : Keeps [.out, .regs] P) {s : State} (k : Nat) (hs : P s) : P (State.isum s k) := by
  have K0 : Keeps [.regs] P := K.mono rfl
  have K1 : Keeps [.out] P := K.mono rfl
  unfold State.isum
  repeat' first
    | with_reducible assumption
    | intro _
    | with_reducible apply State.setReg_keeps K0
    | with_reducible apply State.raise_keeps K1
    | with_reducible refine ite_keeps ?_ ?_

theorem State.setDieState_keeps (K : Keeps [.out, .regs] P) {s : State} (die : Nat) (st : Nat) (hs : P s) : P (State.setDieState s die st) := by
  have K0 : Keeps [.regs] P := K.mono rfl
  have K1 : Keeps [.out, .regs] P := K.mono rfl
  unfold State.setDieState
  repeat' first
    | with_reducible assumption
    | intro _
    | with_reducible apply State.fset_keeps K0
    | with_reducible apply State.isum_keeps K1
    | with_reducible refine ite_keeps ?_ ?_

theorem State.mgmtSend_keeps (K : Keeps [.out, .log] P) {s : State} (kind : Nat) (body : Bytes) (hs : P s) : P (State.mgmtSend s kind body) := by
  unfold State.mgmtSend
  dsimp only
  have h1 : P { s with log := { s.log with aseq := (s.log.aseq + 1) % 2 ^ 32 } } := K.log (by decide) _ hs
  exact K.outs (by decide) _ h1

theorem State.mirrorPut_keeps (K : Keeps [.regs, .log] P) {s : State} (r : Bytes) (hs : P s) : P (State.mirrorPut s r) := by
  have K0 : Keeps [.regs] P := K.mono rfl
  unfold State.mirrorPut
  repeat' first
    | with_reducible assumption
    | intro _
    | with_reducible apply State.fset_keeps K0
    | with_reducible refine ite_keeps ?_ ?_
    | with_reducible apply K.lit
    | exact Or.inl (by decide)
    | exact Or.inr rfl

theorem State.slotPut_keeps (K : Keeps [.regs, .log] P) {s : State} (seq : Nat) (r : Bytes) (hs : P s) : P (State.slotPut s seq r) := by
  have K0 : Keeps [.regs] P := K.mono rfl
  unfold State.slotPut
  repeat' first
    | with_reducible assumption
    | intro _
    | with_reducible apply State.finc_keeps K0
    | with_reducible refine ite_keeps ?_ ?_
    | with_reducible apply K.lit
    | exact Or.inl (by decide)
    | exact Or.inr rfl

theorem State.pushRec_keeps (K : Keeps [.out, .log] P) {s : State} (sev : Nat) (r : Bytes) (hs : P s) : P (State.pushRec s sev r) := by
  have K0 : Keeps [.out, .log] P := K.mono rfl
  unfold State.pushRec
  repeat' first
    | with_reducible assumption
    | intro _
    | with_reducible apply State.mgmtSend_keeps K0
    | with_reducible refine ite_keeps ?_ ?_

theorem State.logArrive_keeps (K : Keeps [.out, .regs, .log] P) {s : State} (time : Nat) (e : LogEvent) (flags : Nat) (hs : P s) : P (State.logArrive s time e flags) := by
  have K0 : Keeps [.regs] P := K.mono rfl
  have K1 : Keeps [.regs, .log] P := K.mono rfl
  have K2 : Keeps [.out, .regs] P := K.mono rfl
  have K3 : Keeps [.out, .log] P := K.mono rfl
  unfold State.logArrive
  repeat' first
    | with_reducible assumption
    | intro _
    | with_reducible apply State.finc_keeps K0
    | with_reducible apply State.fset_keeps K0
    | with_reducible apply State.slotPut_keeps K1
    | with_reducible apply State.mirrorPut_keeps K1
    | with_reducible apply State.isum_keeps K2
    | with_reducible apply State.pushRec_keeps K3
    | with_reducible refine ite_keeps ?_ ?_
    | with_reducible apply K.lit
    | exact Or.inl (by decide)
    | exact Or.inr rfl

theorem State.hiveRec_keeps (K : Keeps [.out, .regs, .log] P) {s : State} (code : Nat) (unit : Nat) (sev : Nat) (payload : Bytes) (hs : P s) : P (State.hiveRec s code unit sev payload) := by
  have K0 : Keeps [.out, .regs, .log] P := K.mono rfl
  unfold State.hiveRec
  repeat' first
    | with_reducible assumption
    | intro _
    | with_reducible apply State.logArrive_keeps K0

theorem State.aonRec_keeps (K : Keeps [.out, .regs, .log] P) {s : State} (code : Nat) (sev : Nat) (payload : Bytes) (hs : P s) : P (State.aonRec s code sev payload) := by
  have K0 : Keeps [.out, .regs, .log] P := K.mono rfl
  unfold State.aonRec
  repeat' first
    | with_reducible assumption
    | intro _
    | with_reducible apply State.logArrive_keeps K0

theorem State.dieRec_keeps (K : Keeps [.log] P) {s : State} (die : Nat) (code : Nat) (unit : Nat) (sev : Nat) (payload : Bytes) (hs : P s) : P (State.dieRec s die code unit sev payload) := by
  unfold State.dieRec
  repeat' first
    | with_reducible assumption
    | intro _
    | with_reducible refine ite_keeps ?_ ?_
    | with_reducible apply K.lit
    | exact Or.inl (by decide)
    | exact Or.inr rfl

theorem State.paced_keeps (K : Keeps [.fab] P) {s : State} (key : Nat) (interval : Nat) (f : State → State) (hs : P s) (hf : ∀ (x0 : State), P x0 → P (f x0)) : P (State.paced s key interval f) := by
  unfold State.paced
  repeat' first
    | with_reducible assumption
    | intro _
    | with_reducible refine ite_keeps ?_ ?_
    | with_reducible apply hf
    | with_reducible apply K.lit
    | exact Or.inl (by decide)
    | exact Or.inr rfl

theorem State.refuseDesc_keeps (K : Keeps [.out, .regs, .log] P) {s : State} (reason : Nat) (fn : Nat) (opc : Nat) (ring : Nat) (tag : Nat) (hs : P s) : P (State.refuseDesc s reason fn opc ring tag) := by
  have K0 : Keeps [.out, .regs, .log] P := K.mono rfl
  unfold State.refuseDesc
  repeat' first
    | with_reducible assumption
    | intro _
    | with_reducible apply State.hiveRec_keeps K0

theorem State.refuseItem_keeps (K : Keeps [.out, .regs, .log] P) {s : State} (reason : Nat) (fn : Nat) (hs : P s) : P (State.refuseItem s reason fn) := by
  have K0 : Keeps [.out, .regs, .log] P := K.mono rfl
  unfold State.refuseItem
  repeat' first
    | with_reducible assumption
    | intro _
    | with_reducible apply State.hiveRec_keeps K0

theorem State.refuseReg_keeps (K : Keeps [.out, .regs, .log] P) {s : State} (reason : Nat) (off : Nat) (hs : P s) : P (State.refuseReg s reason off) := by
  have K0 : Keeps [.regs] P := K.mono rfl
  have K1 : Keeps [.out, .regs, .log] P := K.mono rfl
  have K2 : Keeps [.out, .regs] P := K.mono rfl
  unfold State.refuseReg
  repeat' first
    | with_reducible assumption
    | intro _
    | with_reducible apply State.fset_keeps K0
    | with_reducible apply State.finc_keeps K0
    | with_reducible apply State.hiveRec_keeps K1
    | with_reducible apply State.isum_keeps K2

theorem State.rejectReg_keeps (K : Keeps [.regs] P) {s : State} (off : Nat) (hs : P s) : P (State.rejectReg s off) := by
  have K0 : Keeps [.regs] P := K.mono rfl
  unfold State.rejectReg
  repeat' first
    | with_reducible assumption
    | intro _
    | with_reducible apply State.finc_keeps K0
    | with_reducible apply State.fset_keeps K0

theorem State.sendCell_keeps (K : Keeps [.out] P) {s : State} (dmod : Nat) (dtgt : Nat) (stgt : Nat) (type : Nat) (job : Nat) (sour : Bool) (last : Bool) (len : Nat) (stream : Nat) (seq : Nat) (payload : Bytes) (hs : P s) : P (State.sendCell s dmod dtgt stgt type job sour last len stream seq payload) := by
  have K0 : Keeps [.out] P := K.mono rfl
  unfold State.sendCell
  repeat' first
    | with_reducible assumption
    | intro _
    | with_reducible apply State.emit_keeps K0

theorem State.sendAck_keeps (K : Keeps [.out] P) {s : State} (dmod : Nat) (dtgt : Nat) (stgt : Nat) (job : Nat) (id : Nat) (bytes : Nat) (hs : P s) : P (State.sendAck s dmod dtgt stgt job id bytes) := by
  have K0 : Keeps [.out] P := K.mono rfl
  unfold State.sendAck
  repeat' first
    | with_reducible assumption
    | intro _
    | with_reducible apply State.sendCell_keeps K0

theorem State.sendNack_keeps (K : Keeps [.out] P) {s : State} (dmod : Nat) (dtgt : Nat) (stgt : Nat) (job : Nat) (status : Nat) (cause : Nat) (id : Nat) (hs : P s) : P (State.sendNack s dmod dtgt stgt job status cause id) := by
  have K0 : Keeps [.out] P := K.mono rfl
  unfold State.sendNack
  repeat' first
    | with_reducible assumption
    | intro _
    | with_reducible apply State.sendCell_keeps K0

theorem State.lastGasp_keeps (K : Keeps [.out, .regs, .log] P) {s : State} (cause : Nat) (info : Nat) (hs : P s) : P (State.lastGasp s cause info) := by
  have K0 : Keeps [.regs] P := K.mono rfl
  have K1 : Keeps [.out, .log] P := K.mono rfl
  unfold State.lastGasp
  repeat' first
    | with_reducible assumption
    | intro _
    | with_reducible apply State.fset_keeps K0
    | with_reducible apply State.finc_keeps K0
    | with_reducible apply State.mgmtSend_keeps K1
    | with_reducible refine ite_keeps ?_ ?_
    | with_reducible apply K.lit
    | exact Or.inl (by decide)
    | exact Or.inr rfl

theorem State.setSState_keeps (K : Keeps [.out, .regs] P) {s : State} (v : Nat) (hs : P s) : P (State.setSState s v) := by
  have K0 : Keeps [.regs] P := K.mono rfl
  have K1 : Keeps [.out, .regs] P := K.mono rfl
  unfold State.setSState
  repeat' first
    | with_reducible assumption
    | intro _
    | with_reducible apply State.fset_keeps K0
    | with_reducible apply State.isum_keeps K1
    | with_reducible refine ite_keeps ?_ ?_

/-! CoreOps -/

theorem State.setCoreState_keeps (K : Keeps [.regs] P) {s : State} (core : Nat) (st : Nat) (hs : P s) : P (State.setCoreState s core st) := by
  have K0 : Keeps [.regs] P := K.mono rfl
  unfold State.setCoreState
  repeat' first
    | with_reducible assumption
    | intro _
    | with_reducible apply State.fset_keeps K0

theorem State.setCoreRec_keeps (K : Keeps [.core] P) {s : State} (core : Nat) (r : CoreRec) (hs : P s) : P (State.setCoreRec s core r) := by
  unfold State.setCoreRec
  repeat' first
    | with_reducible assumption
    | intro _
    | with_reducible refine ite_keeps ?_ ?_
    | with_reducible apply K.lit
    | exact Or.inl (by decide)
    | exact Or.inr rfl

theorem State.mapDescs_keeps (K : Keeps [.host] P) {s : State} (f : Desc → Desc) (hs : P s) : P (State.mapDescs s f) := by
  unfold State.mapDescs
  repeat' first
    | with_reducible assumption
    | intro _
    | with_reducible refine ite_keeps ?_ ?_
    | with_reducible apply K.lit
    | exact Or.inl (by decide)
    | exact Or.inr rfl

theorem State.kernelTryEnd_keeps (K : Keeps [.regs, .core, .host] P) {s : State} (core : Nat) (hs : P s) : P (State.kernelTryEnd s core) := by
  have K0 : Keeps [.host] P := K.mono rfl
  have K1 : Keeps [.core] P := K.mono rfl
  have K2 : Keeps [.regs] P := K.mono rfl
  unfold State.kernelTryEnd
  repeat' first
    | with_reducible assumption
    | intro _
    | with_reducible apply State.mapDescs_keeps K0
    | with_reducible apply State.setCoreRec_keeps K1
    | with_reducible apply State.setCoreState_keeps K2
    | with_reducible refine ite_keeps ?_ ?_
    | split

theorem State.completeRaw_keeps (K : Keeps [.regs, .core, .host] P) {s : State} (core : Nat) (seq : Nat) (status0 : Nat) (reason : Nat) (nflags : Nat) (hs : P s) : P (State.completeRaw s core seq status0 reason nflags) := by
  have K0 : Keeps [.core] P := K.mono rfl
  have K1 : Keeps [.regs, .core, .host] P := K.mono rfl
  unfold State.completeRaw
  repeat' first
    | with_reducible assumption
    | intro _
    | with_reducible apply State.setCoreRec_keeps K0
    | with_reducible apply State.kernelTryEnd_keeps K1
    | with_reducible refine ite_keeps ?_ ?_

theorem State.wakeCore_keeps (K : Keeps [.regs, .core, .host] P) {s : State} (core : Nat) (hs : P s) : P (State.wakeCore s core) := by
  have K0 : Keeps [.core] P := K.mono rfl
  have K1 : Keeps [.regs] P := K.mono rfl
  have K2 : Keeps [.regs, .core, .host] P := K.mono rfl
  unfold State.wakeCore
  repeat' first
    | with_reducible assumption
    | intro _
    | with_reducible apply State.setCoreRec_keeps K0
    | with_reducible apply State.setCoreState_keeps K1
    | with_reducible apply State.completeRaw_keeps K2
    | with_reducible refine ite_keeps ?_ ?_
    | split
    | extract_lets

theorem State.wakeDie_keeps (K : Keeps [.regs, .core, .host] P) {s : State} (die : Nat) (hs : P s) : P (State.wakeDie s die) := by
  have K0 : Keeps [.regs, .core, .host] P := K.mono rfl
  unfold State.wakeDie
  repeat' first
    | with_reducible assumption
    | intro _
    | with_reducible apply State.wakeCore_keeps K0
    | with_reducible refine ite_keeps ?_ ?_
    | with_reducible refine ite_fst_keeps ?_ ?_
    | with_reducible apply foldl_fst_keeps
    | with_reducible apply foldl_keeps

theorem State.cntAdd_keeps (K : Keeps [.regs, .core, .host] P) {s : State} (die : Nat) (n : Nat) (v : Nat) (hs : P s) : P (State.cntAdd s die n v) := by
  have K0 : Keeps [.regs] P := K.mono rfl
  have K1 : Keeps [.regs, .core, .host] P := K.mono rfl
  unfold State.cntAdd
  repeat' first
    | with_reducible assumption
    | intro _
    | with_reducible apply State.fset_keeps K0
    | with_reducible apply State.wakeDie_keeps K1

theorem State.cntSet_keeps (K : Keeps [.regs, .core, .host] P) {s : State} (die : Nat) (n : Nat) (v : Nat) (hs : P s) : P (State.cntSet s die n v) := by
  have K0 : Keeps [.regs] P := K.mono rfl
  have K1 : Keeps [.regs, .core, .host] P := K.mono rfl
  unfold State.cntSet
  repeat' first
    | with_reducible assumption
    | intro _
    | with_reducible apply State.fset_keeps K0
    | with_reducible apply State.wakeDie_keeps K1

theorem State.refuseRec_keeps (K : Keeps [.log] P) {s : State} (core : Nat) (opc : Nat) (reason : Nat) (hs : P s) : P (State.refuseRec s core opc reason) := by
  have K0 : Keeps [.log] P := K.mono rfl
  unfold State.refuseRec
  repeat' first
    | with_reducible assumption
    | intro _
    | with_reducible apply State.dieRec_keeps K0

theorem State.refuseCmd_keeps (K : Keeps [.regs, .core, .log, .host] P) {s : State} (core : Nat) (seq : Nat) (opc : Nat) (reason : Nat) (hs : P s) : P (State.refuseCmd s core seq opc reason) := by
  have K0 : Keeps [.log] P := K.mono rfl
  have K1 : Keeps [.regs, .core, .host] P := K.mono rfl
  unfold State.refuseCmd
  repeat' first
    | with_reducible assumption
    | intro _
    | with_reducible apply State.refuseRec_keeps K0
    | with_reducible apply State.completeRaw_keeps K1

theorem State.issueNext_keeps (K : Keeps [.core] P) {s : State} (core : Nat) (w : CmdWord) (hs : P s) : P (State.issueNext s core w) := by
  have K0 : Keeps [.core] P := K.mono rfl
  unfold State.issueNext
  repeat' first
    | with_reducible assumption
    | intro _
    | with_reducible apply State.setCoreRec_keeps K0

theorem State.completeOK_keeps (K : Keeps [.regs, .core, .host] P) {s : State} (core : Nat) (seq : Nat) (hs : P s) : P (State.completeOK s core seq) := by
  have K0 : Keeps [.regs, .core, .host] P := K.mono rfl
  unfold State.completeOK
  repeat' first
    | with_reducible assumption
    | intro _
    | with_reducible apply State.completeRaw_keeps K0

/-! LineOps -/

theorem State.setWcb_keeps (K : Keeps [.lp] P) {s : State} (die : Nat) (ch : Nat) (es : List WcbEntry) (hs : P s) : P (State.setWcb s die ch es) := by
  unfold State.setWcb
  repeat' first
    | with_reducible assumption
    | intro _
    | with_reducible refine ite_keeps ?_ ?_
    | with_reducible apply K.lit
    | exact Or.inl (by decide)
    | exact Or.inr rfl

theorem State.setRx_keeps (K : Keeps [.regs, .fab] P) {s : State} (die : Nat) (xs : List RxCtx) (hs : P s) : P (State.setRx s die xs) := by
  have K0 : Keeps [.regs] P := K.mono rfl
  unfold State.setRx
  repeat' first
    | with_reducible assumption
    | intro _
    | with_reducible apply State.fset_keeps K0
    | with_reducible refine ite_keeps ?_ ?_
    | with_reducible apply K.lit
    | exact Or.inl (by decide)
    | exact Or.inr rfl

theorem State.markBad_keeps (K : Keeps [.regs, .eng, .fab] P) {s : State} (die : Nat) (tags : List Nat) (hs : P s) : P (State.markBad s die tags) := by
  have K0 : Keeps [.regs, .fab] P := K.mono rfl
  unfold State.markBad
  repeat' first
    | with_reducible assumption
    | intro _
    | with_reducible apply State.setRx_keeps K0
    | with_reducible refine ite_keeps ?_ ?_
    | with_reducible apply K.lit
    | exact Or.inl (by decide)
    | exact Or.inr rfl

theorem State.journal_keeps (K : Keeps [.regs, .boot] P) {s : State} (die : Nat) (kind : Nat) (unit : Nat) (st : Nat) (hs : P s) : P (State.journal s die kind unit st) := by
  have K0 : Keeps [.regs] P := K.mono rfl
  unfold State.journal
  repeat' first
    | with_reducible assumption
    | intro _
    | with_reducible apply State.fset_keeps K0
    | with_reducible refine ite_keeps ?_ ?_
    | with_reducible apply K.lit
    | exact Or.inl (by decide)
    | exact Or.inr rfl

theorem State.channelLost_keeps (K : Keeps [.regs, .eng, .lp, .log, .fab, .boot] P) {s : State} (d : Nat) (c : Nat) (cause : Nat) (hs : P s) : P (State.channelLost s d c cause) := by
  have K0 : Keeps [.lp] P := K.mono rfl
  have K1 : Keeps [.regs, .eng, .fab] P := K.mono rfl
  have K2 : Keeps [.regs] P := K.mono rfl
  have K3 : Keeps [.regs, .boot] P := K.mono rfl
  have K4 : Keeps [.log] P := K.mono rfl
  unfold State.channelLost
  repeat' first
    | with_reducible assumption
    | intro _
    | with_reducible apply State.setWcb_keeps K0
    | with_reducible apply State.markBad_keeps K1
    | with_reducible apply State.fsetBit_keeps K2
    | with_reducible apply State.fset_keeps K2
    | with_reducible apply State.journal_keeps K3
    | with_reducible apply State.dieRec_keeps K4
    | with_reducible refine ite_keeps ?_ ?_

theorem State.lineUe_keeps (K : Keeps [.regs, .eng, .lp, .log, .fab, .boot] P) {s : State} (die : Nat) (ch : Nat) (q : Nat) (cause : Nat) (hs : P s) : P (State.lineUe s die ch q cause) := by
  have K0 : Keeps [.regs] P := K.mono rfl
  have K1 : Keeps [.log] P := K.mono rfl
  have K2 : Keeps [.regs, .eng, .lp, .log, .fab, .boot] P := K.mono rfl
  unfold State.lineUe
  repeat' first
    | with_reducible assumption
    | intro _
    | with_reducible apply State.finc_keeps K0
    | with_reducible apply State.fset_keeps K0
    | with_reducible apply State.dieRec_keeps K1
    | with_reducible apply State.channelLost_keeps K2
    | with_reducible refine ite_keeps ?_ ?_
    | split
    | with_reducible apply K.lit
    | exact Or.inl (by decide)
    | exact Or.inr rfl

theorem State.lineSettle_keeps (K : Keeps [.mem, .lp] P) {s : State} (die : Nat) (ch : Nat) (q : Nat) (r : Tbl Nat) (left : Tbl Nat) (hs : P s) : P (State.lineSettle s die ch q r left) := by
  have K0 : Keeps [.mem] P := K.mono rfl
  unfold State.lineSettle
  repeat' first
    | with_reducible assumption
    | intro _
    | with_reducible apply State.setByte_keeps K0
    | with_reducible refine ite_keeps ?_ ?_
    | with_reducible refine ite_fst_keeps ?_ ?_
    | split
    | with_reducible apply foldl_fst_keeps
    | with_reducible apply foldl_keeps
    | with_reducible apply K.lit
    | exact Or.inl (by decide)
    | exact Or.inr rfl

theorem State.readLine_keeps (K : Keeps [.regs, .mem, .lp] P) {s : State} (die : Nat) (ch : Nat) (q : Nat) (hs : P s) : P (State.readLine s die ch q).1 := by
  have K0 : Keeps [.mem, .lp] P := K.mono rfl
  have K1 : Keeps [.regs] P := K.mono rfl
  unfold State.readLine
  repeat' first
    | with_reducible assumption
    | intro _
    | with_reducible apply State.lineSettle_keeps K0
    | with_reducible apply State.finc_keeps K1
    | with_reducible refine ite_keeps ?_ ?_
    | with_reducible refine ite_fst_keeps ?_ ?_
    | split
    | extract_lets

theorem State.lineReads_keeps (K : Keeps [.regs, .mem, .eng, .lp, .log, .fab, .boot] P) {s : State} (die : Nat) (off : Nat) (len : Nat) (hs : P s) : P (State.lineReads s die off len).1 := by
  have K0 : Keeps [.regs, .mem, .lp] P := K.mono rfl
  have K1 : Keeps [.regs, .eng, .lp, .log, .fab, .boot] P := K.mono rfl
  have K2 : Keeps [.regs] P := K.mono rfl
  unfold State.lineReads
  repeat' first
    | with_reducible assumption
    | intro _
    | with_reducible apply State.readLine_keeps K0
    | with_reducible apply State.lineUe_keeps K1
    | with_reducible apply State.finc_keeps K2
    | with_reducible refine ite_keeps ?_ ?_
    | with_reducible refine ite_fst_keeps ?_ ?_
    | (with_reducible apply fst_of; with_reducible assumption)
    | split
    | with_reducible apply foldl_fst_keeps

/-! WortOps -/

theorem State.poke_keeps (K : Keeps [.mem] P) {s : State} (die : Nat) (off : Nat) (bs : Bytes) (hs : P s) : P (State.poke s die off bs) := by
  have K0 : Keeps [.mem] P := K.mono rfl
  unfold State.poke
  repeat' first
    | with_reducible assumption
    | intro _
    | with_reducible apply State.setByte_keeps K0
    | with_reducible refine ite_keeps ?_ ?_
    | with_reducible refine ite_fst_keeps ?_ ?_
    | with_reducible apply foldl_fst_keeps

theorem State.setPart_keeps (K : Keeps [.host] P) {s : State} (p : Nat) (x : PartSt) (hs : P s) : P (State.setPart s p x) := by
  unfold State.setPart
  repeat' first
    | with_reducible assumption
    | intro _
    | with_reducible refine ite_keeps ?_ ?_
    | with_reducible apply K.lit
    | exact Or.inl (by decide)
    | exact Or.inr rfl

theorem State.setSess_keeps (K : Keeps [.wort] P) {s : State} (p : Nat) (x : WSess) (hs : P s) : P (State.setSess s p x) := by
  unfold State.setSess
  repeat' first
    | with_reducible assumption
    | intro _
    | with_reducible refine ite_keeps ?_ ?_
    | with_reducible apply K.lit
    | exact Or.inl (by decide)
    | exact Or.inr rfl

theorem State.wortRegs_keeps (K : Keeps [.regs] P) {s : State} (p : Nat) (hs : P s) : P (State.wortRegs s p) := by
  have K0 : Keeps [.regs] P := K.mono rfl
  unfold State.wortRegs
  repeat' first
    | with_reducible assumption
    | intro _
    | with_reducible apply State.fset_keeps K0

theorem State.holdRec_keeps (K : Keeps [.out, .regs, .log, .fab] P) {s : State} (p : Nat) (hs : P s) : P (State.holdRec s p) := by
  have K0 : Keeps [.fab] P := K.mono rfl
  have K1 : Keeps [.out, .regs, .log] P := K.mono rfl
  unfold State.holdRec
  repeat' first
    | with_reducible assumption
    | intro _
    | with_reducible apply State.paced_keeps K0
    | with_reducible apply State.hiveRec_keeps K1

theorem State.wortEmit_keeps (K : Keeps [.out] P) {s : State} (p : Nat) (mseq : Nat) (msg : Bytes) (hs : P s) : P (State.wortEmit s p mseq msg) := by
  have K0 : Keeps [.out] P := K.mono rfl
  unfold State.wortEmit
  repeat' first
    | with_reducible assumption
    | intro _
    | with_reducible apply State.emit_keeps K0
    | with_reducible refine ite_keeps ?_ ?_
    | split

theorem State.wortSend_keeps (K : Keeps [.out, .wort] P) {s : State} (p : Nat) (mtype : Nat) (granules : Nat) (body : Bytes) (hs : P s) : P (State.wortSend s p mtype granules body) := by
  have K0 : Keeps [.wort] P := K.mono rfl
  have K1 : Keeps [.out] P := K.mono rfl
  unfold State.wortSend
  repeat' first
    | with_reducible assumption
    | intro _
    | with_reducible apply State.setSess_keeps K0
    | with_reducible apply State.wortEmit_keeps K1

theorem State.wortHello_keeps (K : Keeps [.out, .wort] P) {s : State} (p : Nat) (hs : P s) : P (State.wortHello s p) := by
  have K0 : Keeps [.wort] P := K.mono rfl
  have K1 : Keeps [.out, .wort] P := K.mono rfl
  unfold State.wortHello
  repeat' first
    | with_reducible assumption
    | intro _
    | with_reducible apply State.setSess_keeps K0
    | with_reducible apply State.wortSend_keeps K1

theorem State.sendSlot_keeps (K : Keeps [.out, .regs, .wort] P) {s : State} (p : Nat) (w : WSlot) (hs : P s) : P (State.sendSlot s p w) := by
  have K0 : Keeps [.out, .wort] P := K.mono rfl
  have K1 : Keeps [.wort] P := K.mono rfl
  have K2 : Keeps [.regs] P := K.mono rfl
  unfold State.sendSlot
  repeat' first
    | with_reducible assumption
    | intro _
    | with_reducible apply State.wortSend_keeps K0
    | with_reducible apply State.setSess_keeps K1
    | with_reducible apply State.wortRegs_keeps K2
    | with_reducible refine ite_keeps ?_ ?_
    | with_reducible refine ite_fst_keeps ?_ ?_
    | with_reducible apply foldl_fst_keeps
    | with_reducible apply foldl_keeps

theorem State.wortFail_keeps (K : Keeps [.cap] P) {s : State} (die : Nat) (hs : P s) : P (State.wortFail s die) := by
  unfold State.wortFail
  repeat' first
    | with_reducible assumption
    | intro _
    | with_reducible refine ite_keeps ?_ ?_
    | with_reducible apply K.lit
    | exact Or.inl (by decide)
    | exact Or.inr rfl

theorem State.wortPump_keeps (K : Keeps [.out, .regs, .mem, .eng, .cap, .lp, .log, .fab, .wort, .boot] P) (a0 : Nat) {a1 : State} (a2 : Nat) (hs : P a1) : P (State.wortPump a0 a1 a2) := by
  have K0 : Keeps [.regs, .mem, .eng, .lp, .log, .fab, .boot] P := K.mono rfl
  have K1 : Keeps [.out, .regs, .wort] P := K.mono rfl
  have K2 : Keeps [.cap] P := K.mono rfl
  induction a0 generalizing a1 a2 with
  | zero => exact hs
  | succ n ih =>
    unfold State.wortPump
    repeat' first
      | with_reducible assumption
      | with_reducible apply ih
      | intro _
      | with_reducible apply State.lineReads_keeps K0
      | with_reducible apply State.sendSlot_keeps K1
      | with_reducible apply State.wortFail_keeps K2
      | with_reducible refine ite_keeps ?_ ?_
      | with_reducible refine ite_fst_keeps ?_ ?_
      | (with_reducible apply fst_of; with_reducible assumption)
      | split

theorem State.wortRun_keeps (K : Keeps [.out, .regs, .mem, .eng, .cap, .lp, .log, .fab, .wort, .boot] P) {s : State} (p : Nat) (hs : P s) : P (State.wortRun s p) := by
  have K0 : Keeps [.out, .regs, .mem, .eng, .cap, .lp, .log, .fab, .wort, .boot] P := K.mono rfl
  have K1 : Keeps [.regs] P := K.mono rfl
  unfold State.wortRun
  repeat' first
    | with_reducible assumption
    | intro _
    | with_reducible apply State.wortPump_keeps K0
    | with_reducible apply State.wortRegs_keeps K1

theorem State.clearBitmap_keeps (K : Keeps [.mem] P) {s : State} (die : Nat) (k : Nat) (hs : P s) : P (State.clearBitmap s die k) := by
  unfold State.clearBitmap
  dsimp only
  exact K.memDrop (by decide) _ hs

theorem State.slotSettle_keeps (K : Keeps [.regs] P) {s : State} (die : Nat) (hs : P s) : P (State.slotSettle s die) := by
  have K0 : Keeps [.regs] P := K.mono rfl
  unfold State.slotSettle
  repeat' first
    | with_reducible assumption
    | intro _
    | with_reducible apply State.setReg_keeps K0
    | with_reducible refine ite_keeps ?_ ?_

theorem State.freeSlot_keeps (K : Keeps [.regs, .mem, .upd] P) {s : State} (die : Nat) (k : Nat) (hs : P s) : P (State.freeSlot s die k) := by
  have K0 : Keeps [.mem] P := K.mono rfl
  have K1 : Keeps [.regs] P := K.mono rfl
  unfold State.freeSlot
  repeat' first
    | with_reducible assumption
    | intro _
    | with_reducible apply State.clearBitmap_keeps K0
    | with_reducible apply State.fset_keeps K1
    | with_reducible apply State.slotSettle_keeps K1
    | with_reducible refine ite_keeps ?_ ?_
    | with_reducible apply K.lit
    | exact Or.inl (by decide)
    | exact Or.inr rfl

theorem State.sendRelease_keeps (K : Keeps [.out] P) {s : State} (p : Nat) (w : WSlot) (hs : P s) : P (State.sendRelease s p w) := by
  have K0 : Keeps [.out] P := K.mono rfl
  unfold State.sendRelease
  repeat' first
    | with_reducible assumption
    | intro _
    | with_reducible apply State.sendCell_keeps K0

theorem State.wortRelease_keeps (K : Keeps [.out, .wort] P) {s : State} (p : Nat) (hs : P s) : P (State.wortRelease s p) := by
  have K0 : Keeps [.out] P := K.mono rfl
  have K1 : Keeps [.wort] P := K.mono rfl
  unfold State.wortRelease
  repeat' first
    | with_reducible assumption
    | intro _
    | with_reducible apply State.sendRelease_keeps K0
    | with_reducible apply State.setSess_keeps K1
    | with_reducible refine ite_keeps ?_ ?_
    | with_reducible refine ite_fst_keeps ?_ ?_
    | with_reducible apply foldl_fst_keeps
    | with_reducible apply foldl_keeps

/-! PlanOps -/

theorem State.queenMsg_keeps (K : Keeps [.out] P) {s : State} (md : Nat) (nums : List Nat) (hs : P s) : P (State.queenMsg s md nums) := by
  have K0 : Keeps [.out] P := K.mono rfl
  unfold State.queenMsg
  repeat' first
    | with_reducible assumption
    | intro _
    | with_reducible apply State.sendCell_keeps K0

theorem State.edgeLost_keeps (K : Keeps [.out, .swm] P) {s : State} (g : Group) (e : Nat) (hs : P s) : P (State.edgeLost s g e) := by
  have K0 : Keeps [.out] P := K.mono rfl
  unfold State.edgeLost
  repeat' first
    | with_reducible assumption
    | intro _
    | with_reducible apply State.queenMsg_keeps K0
    | with_reducible refine ite_keeps ?_ ?_
    | with_reducible apply K.lit
    | exact Or.inl (by decide)
    | exact Or.inr rfl

theorem State.portEdge_keeps (K : Keeps [.out, .swm] P) {s : State} (p : Nat) (hs : P s) : P (State.portEdge s p) := by
  have K0 : Keeps [.out, .swm] P := K.mono rfl
  have K1 : Keeps [.out] P := K.mono rfl
  unfold State.portEdge
  repeat' first
    | with_reducible assumption
    | intro _
    | with_reducible apply State.edgeLost_keeps K0
    | with_reducible apply State.queenMsg_keeps K1
    | with_reducible refine ite_keeps ?_ ?_
    | with_reducible refine ite_fst_keeps ?_ ?_
    | with_reducible apply foldl_fst_keeps
    | with_reducible apply foldl_keeps

theorem State.fenceEdge_keeps (K : Keeps [.out, .swm] P) {s : State} (m : Nat) (hs : P s) : P (State.fenceEdge s m) := by
  have K0 : Keeps [.out, .swm] P := K.mono rfl
  unfold State.fenceEdge
  repeat' first
    | with_reducible assumption
    | intro _
    | with_reducible apply State.edgeLost_keeps K0
    | with_reducible refine ite_keeps ?_ ?_
    | with_reducible refine ite_fst_keeps ?_ ?_
    | with_reducible apply foldl_fst_keeps
    | with_reducible apply foldl_keeps

theorem State.relaysOut_keeps (K : Keeps [.out] P) {s : State} (g : Group) (hs : P s) : P (State.relaysOut s g) := by
  have K0 : Keeps [.out] P := K.mono rfl
  unfold State.relaysOut
  repeat' first
    | with_reducible assumption
    | intro _
    | with_reducible apply State.queenMsg_keeps K0
    | with_reducible refine ite_keeps ?_ ?_
    | with_reducible refine ite_fst_keeps ?_ ?_
    | with_reducible apply foldl_fst_keeps
    | with_reducible apply foldl_keeps

theorem State.relaysGone_keeps (K : Keeps [.out] P) {s : State} (g : Group) (hs : P s) : P (State.relaysGone s g) := by
  have K0 : Keeps [.out] P := K.mono rfl
  unfold State.relaysGone
  repeat' first
    | with_reducible assumption
    | intro _
    | with_reducible apply State.queenMsg_keeps K0
    | with_reducible refine ite_keeps ?_ ?_
    | with_reducible refine ite_fst_keeps ?_ ?_
    | with_reducible apply foldl_fst_keeps
    | with_reducible apply foldl_keeps

theorem State.queenTake_keeps (K : Keeps [.out, .swm] P) {s : State} (src : Nat) (nums : List Nat) (hs : P s) : P (State.queenTake s src nums) := by
  have K0 : Keeps [.out, .swm] P := K.mono rfl
  unfold State.queenTake
  repeat' first
    | with_reducible assumption
    | intro _
    | with_reducible apply State.edgeLost_keeps K0
    | with_reducible refine ite_keeps ?_ ?_
    | split
    | with_reducible apply K.lit
    | exact Or.inl (by decide)
    | exact Or.inr rfl

/-! CapOps -/

theorem State.sendVec_keeps (K : Keeps [.out] P) {s : State} (k : CapKey) (ck : Nat) (rta : Bool) (codes : List Nat) (md : Nat) (hs : P s) : P (State.sendVec s k ck rta codes md) := by
  have K0 : Keeps [.out] P := K.mono rfl
  unfold State.sendVec
  repeat' first
    | with_reducible assumption
    | intro _
    | with_reducible apply State.sendCell_keeps K0
    | with_reducible refine ite_keeps ?_ ?_
    | with_reducible refine ite_fst_keeps ?_ ?_
    | with_reducible apply foldl_fst_keeps
    | with_reducible apply foldl_keeps

theorem State.sendCapv_keeps (K : Keeps [.out] P) {s : State} (k : CapKey) (ck : Nat) (rta : Bool) (md : Nat) (hs : P s) : P (State.sendCapv s k ck rta md) := by
  have K0 : Keeps [.out] P := K.mono rfl
  unfold State.sendCapv
  repeat' first
    | with_reducible assumption
    | intro _
    | with_reducible apply State.sendCell_keeps K0

theorem State.setDieCap_keeps (K : Keeps [.cap] P) {s : State} (die : Nat) (c : DieCap) (hs : P s) : P (State.setDieCap s die c) := by
  unfold State.setDieCap
  repeat' first
    | with_reducible assumption
    | intro _
    | with_reducible refine ite_keeps ?_ ?_
    | with_reducible apply K.lit
    | exact Or.inl (by decide)
    | exact Or.inr rfl

theorem State.setCapState_keeps (K : Keeps [.regs] P) {s : State} (die : Nat) (v : Nat) (hs : P s) : P (State.setCapState s die v) := by
  have K0 : Keeps [.regs] P := K.mono rfl
  unfold State.setCapState
  repeat' first
    | with_reducible assumption
    | intro _
    | with_reducible apply State.fset_keeps K0

theorem State.setHiveCap_keeps (K : Keeps [.cap] P) {s : State} (h : HiveCap) (hs : P s) : P (State.setHiveCap s h) := by
  unfold State.setHiveCap
  repeat' first
    | with_reducible assumption
    | intro _
    | with_reducible refine ite_keeps ?_ ?_
    | with_reducible apply K.lit
    | exact Or.inl (by decide)
    | exact Or.inr rfl

theorem State.setCoord_keeps (K : Keeps [.cap] P) {s : State} (h : CoordCap) (hs : P s) : P (State.setCoord s h) := by
  unfold State.setCoord
  repeat' first
    | with_reducible assumption
    | intro _
    | with_reducible refine ite_keeps ?_ ?_
    | with_reducible apply K.lit
    | exact Or.inl (by decide)
    | exact Or.inr rfl

theorem State.setWit_keeps (K : Keeps [.cap] P) {s : State} (h : WitCap) (hs : P s) : P (State.setWit s h) := by
  unfold State.setWit
  repeat' first
    | with_reducible assumption
    | intro _
    | with_reducible refine ite_keeps ?_ ?_
    | with_reducible apply K.lit
    | exact Or.inl (by decide)
    | exact Or.inr rfl

theorem State.altBit_keeps (K : Keeps [.regs] P) {s : State} (p : Nat) (hs : P s) : P (State.altBit s p) := by
  have K0 : Keeps [.regs] P := K.mono rfl
  unfold State.altBit
  repeat' first
    | with_reducible assumption
    | intro _
    | with_reducible apply State.fset_keeps K0

theorem State.altBits_keeps (K : Keeps [.regs] P) {s : State} (hs : P s) : P (State.altBits s) := by
  have K0 : Keeps [.regs] P := K.mono rfl
  unfold State.altBits
  repeat' first
    | with_reducible assumption
    | intro _
    | with_reducible apply State.altBit_keeps K0
    | with_reducible refine ite_keeps ?_ ?_
    | with_reducible refine ite_fst_keeps ?_ ?_
    | with_reducible apply foldl_fst_keeps
    | with_reducible apply foldl_keeps

theorem State.activateBank_keeps (K : Keeps [.out, .regs, .log, .fab] P) {s : State} (b : Nat) (hs : P s) : P (State.activateBank s b) := by
  have K0 : Keeps [.regs] P := K.mono rfl
  have K1 : Keeps [.out, .regs, .log] P := K.mono rfl
  unfold State.activateBank
  repeat' first
    | with_reducible assumption
    | intro _
    | with_reducible apply State.fset_keeps K0
    | with_reducible apply State.hiveRec_keeps K1
    | with_reducible apply State.altBits_keeps K0
    | with_reducible refine ite_keeps ?_ ?_
    | with_reducible apply K.lit
    | exact Or.inl (by decide)
    | exact Or.inr rfl

theorem State.freeBank_keeps (K : Keeps [.regs, .fab] P) {s : State} (b : Nat) (hs : P s) : P (State.freeBank s b) := by
  have K0 : Keeps [.regs] P := K.mono rfl
  unfold State.freeBank
  repeat' first
    | with_reducible assumption
    | intro _
    | with_reducible apply State.fset_keeps K0
    | with_reducible apply State.altBits_keeps K0
    | with_reducible refine ite_keeps ?_ ?_
    | with_reducible apply K.lit
    | exact Or.inl (by decide)
    | exact Or.inr rfl

theorem State.dcntAll_keeps (K : Keeps [.regs, .core, .host] P) {s : State} (die : Nat) (hs : P s) : P (State.dcntAll s die) := by
  have K0 : Keeps [.regs, .core, .host] P := K.mono rfl
  unfold State.dcntAll
  repeat' first
    | with_reducible assumption
    | intro _
    | with_reducible apply State.cntAdd_keeps K0
    | with_reducible refine ite_keeps ?_ ?_
    | with_reducible refine ite_fst_keeps ?_ ?_
    | with_reducible apply foldl_fst_keeps
    | with_reducible apply foldl_keeps

theorem State.endCap_keeps (K : Keeps [.regs, .core, .cap, .host] P) {s : State} (die : Nat) (status : Nat) (hs : P s) : P (State.endCap s die status) := by
  have K0 : Keeps [.regs, .core, .host] P := K.mono rfl
  have K1 : Keeps [.cap] P := K.mono rfl
  have K2 : Keeps [.regs] P := K.mono rfl
  unfold State.endCap
  repeat' first
    | with_reducible assumption
    | intro _
    | with_reducible apply State.completeRaw_keeps K0
    | with_reducible apply State.cntAdd_keeps K0
    | with_reducible apply State.setDieCap_keeps K1
    | with_reducible apply State.setCapState_keeps K2
    | with_reducible refine ite_keeps ?_ ?_
    | split

theorem State.updStat_keeps (K : Keeps [.regs] P) {s : State} (die : Nat) (hs : P s) : P (State.updStat s die) := by
  have K0 : Keeps [.regs] P := K.mono rfl
  unfold State.updStat
  repeat' first
    | with_reducible assumption
    | intro _
    | with_reducible apply State.fset_keeps K0

theorem State.abortBound_keeps (K : Keeps [.regs, .core, .upd, .swm, .cap, .host] P) {s : State} (die : Nat) (hs : P s) : P (State.abortBound s die) := by
  have K0 : Keeps [.regs, .core, .host] P := K.mono rfl
  have K1 : Keeps [.cap] P := K.mono rfl
  have K2 : Keeps [.regs] P := K.mono rfl
  unfold State.abortBound
  repeat' first
    | with_reducible assumption
    | intro _
    | with_reducible apply State.completeRaw_keeps K0
    | with_reducible apply State.setDieCap_keeps K1
    | with_reducible apply State.updStat_keeps K2
    | with_reducible refine ite_keeps ?_ ?_
    | with_reducible refine ite_fst_keeps ?_ ?_
    | with_reducible apply foldl_fst_keeps
    | with_reducible apply foldl_keeps
    | with_reducible apply K.lit
    | exact Or.inl (by decide)
    | exact Or.inr rfl

theorem State.dieCommit_keeps (K : Keeps [.out, .regs, .mem, .core, .eng, .cap, .lp, .log, .fab, .host, .wort, .boot] P) {s : State} (die : Nat) (hs : P s) : P (State.dieCommit s die) := by
  have K0 : Keeps [.regs] P := K.mono rfl
  have K1 : Keeps [.wort] P := K.mono rfl
  have K2 : Keeps [.out, .regs, .mem, .eng, .cap, .lp, .log, .fab, .wort, .boot] P := K.mono rfl
  have K3 : Keeps [.regs, .core, .host] P := K.mono rfl
  have K4 : Keeps [.regs, .core, .cap, .host] P := K.mono rfl
  unfold State.dieCommit
  repeat' first
    | with_reducible assumption
    | intro _
    | with_reducible apply State.fset_keeps K0
    | with_reducible apply State.setSess_keeps K1
    | with_reducible apply State.wortRun_keeps K2
    | with_reducible apply State.dcntAll_keeps K3
    | with_reducible apply State.endCap_keeps K4
    | with_reducible refine ite_keeps ?_ ?_
    | split

theorem State.dieAbort_keeps (K : Keeps [.regs, .core, .upd, .swm, .cap, .log, .host, .wort] P) {s : State} (die : Nat) (status : Nat) (hs : P s) : P (State.dieAbort s die status) := by
  have K0 : Keeps [.regs, .core, .upd, .swm, .cap, .host] P := K.mono rfl
  have K1 : Keeps [.regs] P := K.mono rfl
  have K2 : Keeps [.wort] P := K.mono rfl
  have K3 : Keeps [.cap] P := K.mono rfl
  have K4 : Keeps [.log] P := K.mono rfl
  have K5 : Keeps [.regs, .core, .host] P := K.mono rfl
  have K6 : Keeps [.regs, .core, .cap, .host] P := K.mono rfl
  unfold State.dieAbort
  repeat' first
    | with_reducible assumption
    | intro _
    | with_reducible apply State.abortBound_keeps K0
    | with_reducible apply State.fset_keeps K1
    | with_reducible apply State.setSess_keeps K2
    | with_reducible apply State.setDieCap_keeps K3
    | with_reducible apply State.setCapState_keeps K1
    | with_reducible apply State.dieRec_keeps K4
    | with_reducible apply State.dcntAll_keeps K5
    | with_reducible apply State.endCap_keeps K6
    | with_reducible refine ite_keeps ?_ ?_
    | split
    | extract_lets

theorem State.dieDecide_keeps (K : Keeps [.out, .regs, .mem, .core, .eng, .upd, .swm, .cap, .lp, .log, .fab, .host, .wort, .boot] P) {s : State} (die : Nat) (status : Nat) (hs : P s) : P (State.dieDecide s die status) := by
  have K0 : Keeps [.log] P := K.mono rfl
  have K1 : Keeps [.out, .regs, .mem, .core, .eng, .cap, .lp, .log, .fab, .host, .wort, .boot] P := K.mono rfl
  have K2 : Keeps [.regs, .core, .upd, .swm, .cap, .log, .host, .wort] P := K.mono rfl
  unfold State.dieDecide
  repeat' first
    | with_reducible assumption
    | intro _
    | with_reducible apply State.dieRec_keeps K0
    | with_reducible apply State.dieCommit_keeps K1
    | with_reducible apply State.dieAbort_keeps K2
    | with_reducible refine ite_keeps ?_ ?_

theorem State.switchDecide_keeps (K : Keeps [.out, .regs, .log, .fab] P) {s : State} (status : Nat) (hs : P s) : P (State.switchDecide s status) := by
  have K0 : Keeps [.out, .regs, .log, .fab] P := K.mono rfl
  have K1 : Keeps [.regs, .fab] P := K.mono rfl
  have K2 : Keeps [.regs] P := K.mono rfl
  have K3 : Keeps [.out, .regs] P := K.mono rfl
  unfold State.switchDecide
  repeat' first
    | with_reducible assumption
    | intro _
    | with_reducible apply State.activateBank_keeps K0
    | with_reducible apply State.freeBank_keeps K1
    | with_reducible apply State.fset_keeps K2
    | with_reducible apply State.isum_keeps K3
    | with_reducible refine ite_keeps ?_ ?_
    | with_reducible apply K.lit
    | exact Or.inl (by decide)
    | exact Or.inr rfl

theorem State.hiveDecide_keeps (K : Keeps [.out, .regs, .mem, .core, .eng, .upd, .swm, .cap, .lp, .log, .fab, .host, .wort, .boot] P) {s : State} (k : CapKey) (codes : List Nat) (rta : Bool) (hs : P s) : P (State.hiveDecide s k codes rta) := by
  have K0 : Keeps [.cap] P := K.mono rfl
  have K1 : Keeps [.regs] P := K.mono rfl
  have K2 : Keeps [.regs, .core, .host] P := K.mono rfl
  have K3 : Keeps [.out, .regs, .log, .fab] P := K.mono rfl
  have K4 : Keeps [.out, .regs, .mem, .core, .eng, .upd, .swm, .cap, .lp, .log, .fab, .host, .wort, .boot] P := K.mono rfl
  unfold State.hiveDecide
  repeat' first
    | with_reducible assumption
    | intro _
    | with_reducible apply State.setHiveCap_keeps K0
    | with_reducible apply State.finc_keeps K1
    | with_reducible apply State.completeRaw_keeps K2
    | with_reducible apply State.switchDecide_keeps K3
    | with_reducible apply State.dieDecide_keeps K4
    | with_reducible refine ite_keeps ?_ ?_
    | with_reducible refine ite_fst_keeps ?_ ?_
    | with_reducible apply foldl_fst_keeps
    | with_reducible apply foldl_keeps
    | with_reducible apply K.lit
    | exact Or.inl (by decide)
    | exact Or.inr rfl

theorem State.coordSend_keeps (K : Keeps [.out, .regs, .mem, .core, .eng, .upd, .swm, .cap, .lp, .log, .fab, .host, .wort, .boot] P) {s : State} (g : Group) (c : CoordCap) (hs : P s) : P (State.coordSend s g c) := by
  have K0 : Keeps [.cap] P := K.mono rfl
  have K1 : Keeps [.out] P := K.mono rfl
  have K2 : Keeps [.out, .regs, .mem, .core, .eng, .upd, .swm, .cap, .lp, .log, .fab, .host, .wort, .boot] P := K.mono rfl
  unfold State.coordSend
  repeat' first
    | with_reducible assumption
    | intro _
    | with_reducible apply State.setCoord_keeps K0
    | with_reducible apply State.sendVec_keeps K1
    | with_reducible apply State.hiveDecide_keeps K2
    | with_reducible refine ite_keeps ?_ ?_
    | with_reducible refine ite_fst_keeps ?_ ?_
    | with_reducible apply foldl_fst_keeps
    | with_reducible apply foldl_keeps

theorem State.coordEval_keeps (K : Keeps [.out, .regs, .mem, .core, .eng, .upd, .swm, .cap, .lp, .log, .fab, .host, .wort, .boot] P) {s : State} (g : Group) (c : CoordCap) (hs : P s) : P (State.coordEval s g c) := by
  have K0 : Keeps [.out, .regs, .mem, .core, .eng, .upd, .swm, .cap, .lp, .log, .fab, .host, .wort, .boot] P := K.mono rfl
  have K1 : Keeps [.cap] P := K.mono rfl
  have K2 : Keeps [.out] P := K.mono rfl
  unfold State.coordEval
  repeat' first
    | with_reducible assumption
    | intro _
    | with_reducible apply State.coordSend_keeps K0
    | with_reducible apply State.setCoord_keeps K1
    | with_reducible apply State.sendVec_keeps K2
    | with_reducible refine ite_keeps ?_ ?_

theorem State.coordLate_keeps (K : Keeps [.out, .regs] P) {s : State} (k : CapKey) (from_ : Nat) (hs : P s) : P (State.coordLate s k from_) := by
  have K0 : Keeps [.regs] P := K.mono rfl
  have K1 : Keeps [.out] P := K.mono rfl
  unfold State.coordLate
  repeat' first
    | with_reducible assumption
    | intro _
    | with_reducible apply State.finc_keeps K0
    | with_reducible apply State.sendVec_keeps K1
    | with_reducible refine ite_keeps ?_ ?_
    | split
    | extract_lets

theorem State.coordOld_keeps (K : Keeps [.out, .regs] P) {s : State} (k : CapKey) (from_ : Nat) (stream : Nat) (hs : P s) : P (State.coordOld s k from_ stream) := by
  have K0 : Keeps [.regs] P := K.mono rfl
  have K1 : Keeps [.out] P := K.mono rfl
  unfold State.coordOld
  repeat' first
    | with_reducible assumption
    | intro _
    | with_reducible apply State.finc_keeps K0
    | with_reducible apply State.sendNack_keeps K1
    | with_reducible refine ite_keeps ?_ ?_

theorem State.coordMerge_keeps (K : Keeps [.out, .regs, .mem, .core, .eng, .upd, .swm, .cap, .lp, .log, .fab, .host, .wort, .boot] P) {s : State} (g : Group) (k : CapKey) (codes : List Nat) (from_ : Nat) (hs : P s) : P (State.coordMerge s g k codes from_) := by
  have K0 : Keeps [.out, .regs] P := K.mono rfl
  have K1 : Keeps [.cap] P := K.mono rfl
  have K2 : Keeps [.out, .regs, .mem, .core, .eng, .upd, .swm, .cap, .lp, .log, .fab, .host, .wort, .boot] P := K.mono rfl
  have K3 : Keeps [.regs] P := K.mono rfl
  unfold State.coordMerge
  repeat' first
    | with_reducible assumption
    | intro _
    | with_reducible apply State.coordLate_keeps K0
    | with_reducible apply State.coordOld_keeps K0
    | with_reducible apply State.setCoord_keeps K1
    | with_reducible apply State.coordEval_keeps K2
    | with_reducible apply State.finc_keeps K3
    | with_reducible refine ite_keeps ?_ ?_
    | split

theorem State.voteUp_keeps (K : Keeps [.out, .cap] P) {s : State} (g : Group) (k : CapKey) (codes : List Nat) (hs : P s) : P (State.voteUp s g k codes) := by
  have K0 : Keeps [.cap] P := K.mono rfl
  have K1 : Keeps [.out] P := K.mono rfl
  unfold State.voteUp
  repeat' first
    | with_reducible assumption
    | intro _
    | with_reducible apply State.setHiveCap_keeps K0
    | with_reducible apply State.sendCell_keeps K1
    | with_reducible refine ite_keeps ?_ ?_
    | with_reducible refine ite_fst_keeps ?_ ?_
    | with_reducible apply foldl_fst_keeps
    | with_reducible apply foldl_keeps

theorem State.hiveVote_keeps (K : Keeps [.out, .regs, .mem, .core, .eng, .upd, .swm, .cap, .lp, .log, .fab, .host, .wort, .boot] P) {s : State} (k : CapKey) (v : Nat) (hs : P s) : P (State.hiveVote s k v) := by
  have K0 : Keeps [.cap] P := K.mono rfl
  have K1 : Keeps [.out, .regs, .mem, .core, .eng, .upd, .swm, .cap, .lp, .log, .fab, .host, .wort, .boot] P := K.mono rfl
  have K2 : Keeps [.out, .cap] P := K.mono rfl
  unfold State.hiveVote
  repeat' first
    | with_reducible assumption
    | intro _
    | with_reducible apply State.setHiveCap_keeps K0
    | with_reducible apply State.coordMerge_keeps K1
    | with_reducible apply State.voteUp_keeps K2
    | with_reducible refine ite_keeps ?_ ?_
    | split

theorem State.hiveReview_keeps (K : Keeps [.out, .regs, .mem, .core, .eng, .upd, .swm, .cap, .lp, .log, .fab, .host, .wort, .boot] P) {s : State} (k : CapKey) (hs : P s) : P (State.hiveReview s k) := by
  have K0 : Keeps [.out, .regs, .mem, .core, .eng, .upd, .swm, .cap, .lp, .log, .fab, .host, .wort, .boot] P := K.mono rfl
  unfold State.hiveReview
  repeat' first
    | with_reducible assumption
    | intro _
    | with_reducible apply State.hiveVote_keeps K0
    | with_reducible apply State.dieDecide_keeps K0
    | with_reducible refine ite_keeps ?_ ?_
    | with_reducible refine ite_fst_keeps ?_ ?_
    | split
    | with_reducible apply foldl_fst_keeps
    | with_reducible apply foldl_keeps
    | extract_lets

theorem State.voteFailed_keeps (K : Keeps [.out, .regs, .mem, .core, .eng, .upd, .swm, .cap, .lp, .log, .fab, .host, .wort, .boot] P) {s : State} (die : Nat) (hs : P s) : P (State.voteFailed s die) := by
  have K0 : Keeps [.regs] P := K.mono rfl
  have K1 : Keeps [.cap] P := K.mono rfl
  have K2 : Keeps [.out, .regs, .mem, .core, .eng, .upd, .swm, .cap, .lp, .log, .fab, .host, .wort, .boot] P := K.mono rfl
  unfold State.voteFailed
  repeat' first
    | with_reducible assumption
    | intro _
    | with_reducible apply State.fset_keeps K0
    | with_reducible apply State.setCapState_keeps K0
    | with_reducible apply State.setDieCap_keeps K1
    | with_reducible apply State.hiveReview_keeps K2
    | with_reducible refine ite_keeps ?_ ?_

theorem State.dieReady_keeps (K : Keeps [.out, .regs, .cap, .log, .fab, .wort] P) {s : State} (die : Nat) (k : Nat) (hs : P s) : P (State.dieReady s die k) := by
  have K0 : Keeps [.wort] P := K.mono rfl
  have K1 : Keeps [.out] P := K.mono rfl
  have K2 : Keeps [.cap] P := K.mono rfl
  have K3 : Keeps [.out, .regs, .log, .fab] P := K.mono rfl
  unfold State.dieReady
  repeat' first
    | with_reducible assumption
    | intro _
    | with_reducible apply State.setSess_keeps K0
    | with_reducible apply State.sendCell_keeps K1
    | with_reducible apply State.setDieCap_keeps K2
    | with_reducible apply State.holdRec_keeps K3
    | with_reducible refine ite_keeps ?_ ?_

theorem State.bitmapRead_keeps (K : Keeps [.regs, .mem, .eng, .lp, .log, .fab, .boot] P) {s : State} (die : Nat) (k : Nat) (hs : P s) : P (State.bitmapRead s die k).1 := by
  have K0 : Keeps [.regs, .mem, .eng, .lp, .log, .fab, .boot] P := K.mono rfl
  unfold State.bitmapRead
  repeat' first
    | with_reducible assumption
    | intro _
    | with_reducible apply State.lineReads_keeps K0

theorem State.tryVote_keeps (K : Keeps [.out, .regs, .mem, .core, .eng, .upd, .swm, .cap, .lp, .log, .fab, .host, .wort, .boot] P) {s : State} (die : Nat) (hs : P s) : P (State.tryVote s die) := by
  have K0 : Keeps [.regs, .mem, .eng, .lp, .log, .fab, .boot] P := K.mono rfl
  have K1 : Keeps [.regs] P := K.mono rfl
  have K2 : Keeps [.out, .regs, .cap, .log, .fab, .wort] P := K.mono rfl
  have K3 : Keeps [.cap] P := K.mono rfl
  have K4 : Keeps [.out, .regs, .log, .fab] P := K.mono rfl
  have K5 : Keeps [.out, .regs, .mem, .core, .eng, .upd, .swm, .cap, .lp, .log, .fab, .host, .wort, .boot] P := K.mono rfl
  unfold State.tryVote
  repeat' first
    | with_reducible assumption
    | intro _
    | with_reducible apply State.bitmapRead_keeps K0
    | with_reducible apply State.fset_keeps K1
    | with_reducible apply State.setCapState_keeps K1
    | with_reducible apply State.dieReady_keeps K2
    | with_reducible apply State.setDieCap_keeps K3
    | with_reducible apply State.holdRec_keeps K4
    | with_reducible apply State.hiveReview_keeps K5
    | with_reducible refine ite_keeps ?_ ?_
    | with_reducible refine ite_fst_keeps ?_ ?_
    | split
    | extract_lets

theorem State.votesLost_keeps (K : Keeps [.out, .regs, .mem, .core, .eng, .upd, .swm, .cap, .lp, .log, .fab, .host, .wort, .boot] P) {s : State} (hs : P s) : P (State.votesLost s) := by
  have K0 : Keeps [.out, .regs, .mem, .core, .eng, .upd, .swm, .cap, .lp, .log, .fab, .host, .wort, .boot] P := K.mono rfl
  unfold State.votesLost
  repeat' first
    | with_reducible assumption
    | intro _
    | with_reducible apply State.voteFailed_keeps K0
    | with_reducible refine ite_keeps ?_ ?_
    | with_reducible refine ite_fst_keeps ?_ ?_
    | with_reducible apply foldl_fst_keeps
    | with_reducible apply foldl_keeps

theorem State.wortResume_keeps (K : Keeps [.out, .regs, .mem, .core, .eng, .upd, .swm, .cap, .lp, .log, .fab, .host, .wort, .boot] P) {s : State} (die : Nat) (hs : P s) : P (State.wortResume s die) := by
  have K0 : Keeps [.out, .regs, .mem, .eng, .cap, .lp, .log, .fab, .wort, .boot] P := K.mono rfl
  have K1 : Keeps [.out, .regs, .mem, .core, .eng, .upd, .swm, .cap, .lp, .log, .fab, .host, .wort, .boot] P := K.mono rfl
  unfold State.wortResume
  repeat' first
    | with_reducible assumption
    | intro _
    | with_reducible apply State.wortRun_keeps K0
    | with_reducible apply State.votesLost_keeps K1
    | with_reducible refine ite_keeps ?_ ?_

theorem State.recordSour_keeps (K : Keeps [.cap] P) {s : State} (die : Nat) (hs : P s) : P (State.recordSour s die) := by
  have K0 : Keeps [.cap] P := K.mono rfl
  unfold State.recordSour
  repeat' first
    | with_reducible assumption
    | intro _
    | with_reducible apply State.setDieCap_keeps K0
    | with_reducible refine ite_keeps ?_ ?_

theorem State.completeCmd_keeps (K : Keeps [.out, .regs, .mem, .core, .eng, .upd, .swm, .cap, .lp, .log, .fab, .host, .wort, .boot] P) {s : State} (core : Nat) (seq : Nat) (status : Nat) (reason : Nat) (nflags : Nat) (hs : P s) : P (State.completeCmd s core seq status reason nflags) := by
  have K0 : Keeps [.regs, .core, .host] P := K.mono rfl
  have K1 : Keeps [.cap] P := K.mono rfl
  have K2 : Keeps [.out, .regs, .mem, .core, .eng, .upd, .swm, .cap, .lp, .log, .fab, .host, .wort, .boot] P := K.mono rfl
  unfold State.completeCmd
  repeat' first
    | with_reducible assumption
    | intro _
    | with_reducible apply State.completeRaw_keeps K0
    | with_reducible apply State.setDieCap_keeps K1
    | with_reducible apply State.voteFailed_keeps K2
    | with_reducible apply State.tryVote_keeps K2
    | with_reducible refine ite_keeps ?_ ?_

theorem State.bindCmd_keeps (K : Keeps [.cap] P) {s : State} (core : Nat) (seq : Nat) (hs : P s) : P (State.bindCmd s core seq) := by
  have K0 : Keeps [.cap] P := K.mono rfl
  unfold State.bindCmd
  repeat' first
    | with_reducible assumption
    | intro _
    | with_reducible apply State.setDieCap_keeps K0
    | with_reducible refine ite_keeps ?_ ?_

/-! SetupOps -/

theorem State.reevalOne_keeps (K : Keeps [.free, .out, .regs, .log, .host] P) {s : State} (u : Setup) (hs : P s) : P (State.reevalOne s u) := by
  have K0 : Keeps [.free] P := K.mono rfl
  have K1 : Keeps [.out, .regs, .log] P := K.mono rfl
  unfold State.reevalOne
  repeat' first
    | with_reducible assumption
    | intro _
    | with_reducible apply State.drawn_keeps K0
    | with_reducible apply State.hiveRec_keeps K1
    | with_reducible refine ite_keeps ?_ ?_
    | with_reducible apply K.lit
    | exact Or.inl (by decide)
    | exact Or.inr rfl

theorem State.reevaluate_keeps (K : Keeps [.free, .out, .regs, .log, .host] P) {s : State} (hs : P s) : P (State.reevaluate s) := by
  have K0 : Keeps [.free, .out, .regs, .log, .host] P := K.mono rfl
  unfold State.reevaluate
  repeat' first
    | with_reducible assumption
    | intro _
    | with_reducible apply State.reevalOne_keeps K0
    | with_reducible refine ite_keeps ?_ ?_
    | with_reducible refine ite_fst_keeps ?_ ?_
    | with_reducible apply foldl_fst_keeps
    | with_reducible apply foldl_keeps

theorem State.dieDegraded_keeps (K : Keeps [.out, .regs] P) {s : State} (die : Nat) (hs : P s) : P (State.dieDegraded s die) := by
  have K0 : Keeps [.out, .regs] P := K.mono rfl
  unfold State.dieDegraded
  repeat' first
    | with_reducible assumption
    | intro _
    | with_reducible apply State.setDieState_keeps K0
    | with_reducible refine ite_keeps ?_ ?_

theorem State.dieFailed_keeps (K : Keeps [.free, .out, .regs, .mem, .core, .eng, .upd, .swm, .cap, .lp, .log, .fab, .host, .wort, .boot] P) {s : State} (die : Nat) (hs : P s) : P (State.dieFailed s die) := by
  have K0 : Keeps [.out, .regs] P := K.mono rfl
  have K1 : Keeps [.regs, .boot] P := K.mono rfl
  have K2 : Keeps [.out, .regs, .log] P := K.mono rfl
  have K3 : Keeps [.out, .regs, .mem, .core, .eng, .upd, .swm, .cap, .lp, .log, .fab, .host, .wort, .boot] P := K.mono rfl
  have K4 : Keeps [.free, .out, .regs, .log, .host] P := K.mono rfl
  unfold State.dieFailed
  repeat' first
    | with_reducible assumption
    | intro _
    | with_reducible apply State.setDieState_keeps K0
    | with_reducible apply State.journal_keeps K1
    | with_reducible apply State.hiveRec_keeps K2
    | with_reducible apply State.voteFailed_keeps K3
    | with_reducible apply State.hiveReview_keeps K3
    | with_reducible apply State.reevaluate_keeps K4
    | with_reducible refine ite_keeps ?_ ?_
    | with_reducible refine ite_fst_keeps ?_ ?_
    | with_reducible apply foldl_fst_keeps
    | with_reducible apply foldl_keeps

/-! MemOps -/

theorem State.recap_keeps (K : Keeps [.regs] P) {s : State} (die : Nat) (hs : P s) : P (State.recap s die) := by
  have K0 : Keeps [.regs] P := K.mono rfl
  unfold State.recap
  repeat' first
    | with_reducible assumption
    | intro _
    | with_reducible apply State.fset_keeps K0

theorem State.memUe_keeps (K : Keeps [.out, .regs, .mem, .core, .eng, .upd, .swm, .cap, .lp, .log, .fab, .host, .wort, .boot] P) {s : State} (die : Nat) (ch : Nat) (q : Nat) (cause : Nat) (hs : P s) : P (State.memUe s die ch q cause) := by
  have K0 : Keeps [.regs, .eng, .lp, .log, .fab, .boot] P := K.mono rfl
  have K1 : Keeps [.out, .regs, .mem, .core, .eng, .upd, .swm, .cap, .lp, .log, .fab, .host, .wort, .boot] P := K.mono rfl
  unfold State.memUe
  repeat' first
    | with_reducible assumption
    | intro _
    | with_reducible apply State.lineUe_keeps K0
    | with_reducible apply State.voteFailed_keeps K1

theorem State.channelFail_keeps (K : Keeps [.out, .regs, .mem, .core, .eng, .upd, .swm, .cap, .lp, .log, .fab, .host, .wort, .boot] P) {s : State} (d : Nat) (c : Nat) (cause : Nat) (hs : P s) : P (State.channelFail s d c cause) := by
  have K0 : Keeps [.regs, .eng, .lp, .log, .fab, .boot] P := K.mono rfl
  have K1 : Keeps [.out, .regs, .mem, .core, .eng, .upd, .swm, .cap, .lp, .log, .fab, .host, .wort, .boot] P := K.mono rfl
  unfold State.channelFail
  repeat' first
    | with_reducible assumption
    | intro _
    | with_reducible apply State.channelLost_keeps K0
    | with_reducible apply State.voteFailed_keeps K1
    | with_reducible refine ite_keeps ?_ ?_

theorem State.lpRead_keeps (K : Keeps [.out, .regs, .mem, .core, .eng, .upd, .swm, .cap, .lp, .log, .fab, .host, .wort, .boot] P) {s : State} (die : Nat) (off : Nat) (len : Nat) (hs : P s) : P (State.lpRead s die off len).1 := by
  have K0 : Keeps [.regs, .mem, .eng, .lp, .log, .fab, .boot] P := K.mono rfl
  have K1 : Keeps [.out, .regs, .mem, .core, .eng, .upd, .swm, .cap, .lp, .log, .fab, .host, .wort, .boot] P := K.mono rfl
  unfold State.lpRead
  repeat' first
    | with_reducible assumption
    | intro _
    | with_reducible apply State.lineReads_keeps K0
    | with_reducible apply State.voteFailed_keeps K1
    | with_reducible refine ite_keeps ?_ ?_

theorem State.noteBankUe_keeps (K : Keeps [.lp] P) {s : State} (die : Nat) (pb : Nat) (word : Nat) (hs : P s) : P (State.noteBankUe s die pb word) := by
  unfold State.noteBankUe
  repeat' first
    | with_reducible assumption
    | intro _
    | with_reducible refine ite_keeps ?_ ?_
    | with_reducible apply K.lit
    | exact Or.inl (by decide)
    | exact Or.inr rfl

theorem State.sramUe_keeps (K : Keeps [.out, .regs, .mem, .core, .eng, .upd, .swm, .cap, .lp, .log, .fab, .host, .wort, .boot] P) {s0 : State} (die : Nat) (off : Nat) (hs : P s0) : P (State.sramUe s0 die off) := by
  have K0 : Keeps [.lp] P := K.mono rfl
  have K1 : Keeps [.regs] P := K.mono rfl
  have K2 : Keeps [.log] P := K.mono rfl
  have K3 : Keeps [.out, .regs, .mem, .core, .eng, .upd, .swm, .cap, .lp, .log, .fab, .host, .wort, .boot] P := K.mono rfl
  unfold State.sramUe
  repeat' first
    | with_reducible assumption
    | intro _
    | with_reducible apply State.noteBankUe_keeps K0
    | with_reducible apply State.finc_keeps K1
    | with_reducible apply State.fset_keeps K1
    | with_reducible apply State.dieRec_keeps K2
    | with_reducible apply State.voteFailed_keeps K3
    | with_reducible refine ite_keeps ?_ ?_

theorem State.sramRead_keeps (K : Keeps [.out, .regs, .mem, .core, .eng, .upd, .swm, .cap, .lp, .log, .fab, .host, .wort, .boot] P) {s : State} (die : Nat) (off : Nat) (len : Nat) (hs : P s) : P (State.sramRead s die off len).1 := by
  have K0 : Keeps [.regs] P := K.mono rfl
  have K1 : Keeps [.out, .regs, .mem, .core, .eng, .upd, .swm, .cap, .lp, .log, .fab, .host, .wort, .boot] P := K.mono rfl
  unfold State.sramRead
  repeat' first
    | with_reducible assumption
    | intro _
    | with_reducible apply State.finc_keeps K0
    | with_reducible apply State.sramUe_keeps K1
    | with_reducible refine ite_keeps ?_ ?_
    | with_reducible refine ite_fst_keeps ?_ ?_
    | split
    | extract_lets

theorem State.sramWrite_keeps (K : Keeps [.mem, .eng] P) {s : State} (die : Nat) (off : Nat) (bs : Bytes) (hs : P s) : P (State.sramWrite s die off bs) := by
  have K0 : Keeps [.mem] P := K.mono rfl
  unfold State.sramWrite
  repeat' first
    | with_reducible assumption
    | intro _
    | with_reducible apply State.poke_keeps K0
    | with_reducible refine ite_keeps ?_ ?_
    | with_reducible apply K.lit
    | exact Or.inl (by decide)
    | exact Or.inr rfl

theorem State.wcbEvict_keeps (K : Keeps [.out, .regs, .mem, .core, .eng, .upd, .swm, .cap, .lp, .log, .fab, .host, .wort, .boot] P) {s : State} (die : Nat) (ch : Nat) (e : WcbEntry) (hs : P s) : P (State.wcbEvict s die ch e).1 := by
  unfold State.wcbEvict
  extract_lets es k now src s0 src2 s1 pat
  have h0 : P s0 := State.setWcb_keeps (K.mono rfl) _ _ _ (K.lp (by decide) _ hs)
  have h1 : P s1 := State.finc_keeps (K.mono rfl) (RF.WCB_STAT_RMW die) 1 h0
  clear_value s0 s1
  split
  · exact h0
  · split
    · exact State.finc_keeps (K.mono rfl) _ _ (K.lp (by decide) _ h0)
    · split
      · exact State.memUe_keeps (K.mono rfl) _ _ _ _ (K.lp (by decide) _ h1)
      · exact State.memUe_keeps (K.mono rfl) _ _ _ _ (K.lp (by decide) _ h1)
      · exact State.finc_keeps (K.mono rfl) _ _ (K.lp (by decide) _ h1)
      · exact K.lp (by decide) _ h1

theorem State.wcbRoom_keeps (K : Keeps [.out, .regs, .mem, .core, .eng, .upd, .swm, .cap, .lp, .log, .fab, .host, .wort, .boot] P) {s : State} (die : Nat) (ch : Nat) (hs : P s) : P (State.wcbRoom s die ch).1 := by
  have K0 : Keeps [.regs] P := K.mono rfl
  have K1 : Keeps [.out, .regs, .mem, .core, .eng, .upd, .swm, .cap, .lp, .log, .fab, .host, .wort, .boot] P := K.mono rfl
  unfold State.wcbRoom
  repeat' first
    | with_reducible assumption
    | intro _
    | with_reducible apply State.finc_keeps K0
    | with_reducible apply State.wcbEvict_keeps K1
    | with_reducible refine ite_keeps ?_ ?_
    | with_reducible refine ite_fst_keeps ?_ ?_
    | split

theorem State.lineWrite_keeps (K : Keeps [.out, .regs, .mem, .core, .eng, .upd, .swm, .cap, .lp, .log, .fab, .host, .wort, .boot] P) {s : State} (die : Nat) (a : Nat) (bs : Bytes) (tag : Nat) (hs : P s) : P (State.lineWrite s die a bs tag).1 := by
  have h1 : P (s.poke die a bs) := State.poke_keeps (K.mono rfl) _ _ _ hs
  unfold State.lineWrite
  extract_lets
  split
  extract_lets
  split
  · exact hs
  · split
    · extract_lets
      split
      · exact State.wcbEvict_keeps (K.mono rfl) _ _ _ (State.setWcb_keeps (K.mono rfl) _ _ _ h1)
      · exact State.setWcb_keeps (K.mono rfl) _ _ _ h1
    · split
      · exact K.lp (by decide) _ h1
      · exact State.setWcb_keeps (K.mono rfl) _ _ _ (State.wcbRoom_keeps (K.mono rfl) _ _ h1)

theorem State.lpWrite_keeps (K : Keeps [.out, .regs, .mem, .core, .eng, .upd, .swm, .cap, .lp, .log, .fab, .host, .wort, .boot] P) {s : State} (die : Nat) (off : Nat) (bs : Bytes) (tag : Nat) (hs : P s) : P (State.lpWrite s die off bs tag).1 := by
  have K0 : Keeps [.out, .regs, .mem, .core, .eng, .upd, .swm, .cap, .lp, .log, .fab, .host, .wort, .boot] P := K.mono rfl
  unfold State.lpWrite
  repeat' first
    | with_reducible assumption
    | intro _
    | with_reducible apply State.lineWrite_keeps K0
    | with_reducible refine ite_keeps ?_ ?_
    | with_reducible refine ite_fst_keeps ?_ ?_
    | split
    | with_reducible apply foldl_fst_keeps

theorem State.wcbFlush_keeps (K : Keeps [.out, .regs, .mem, .core, .eng, .upd, .swm, .cap, .lp, .log, .fab, .host, .wort, .boot] P) {s : State} (die : Nat) (tag : Nat) (hs : P s) : P (State.wcbFlush s die tag).1 := by
  unfold State.wcbFlush
  refine K.lp (by decide) _ ?_
  apply foldl_fst_keeps _ hs
  intro a x h
  apply foldl_fst_keeps _ h
  intro b y h2
  exact State.wcbEvict_keeps (K.mono rfl) die x y h2

theorem State.memWrite_keeps (K : Keeps [.out, .regs, .mem, .core, .eng, .upd, .swm, .cap, .lp, .log, .fab, .host, .wort, .boot] P) {s : State} (die : Nat) (off : Nat) (bs : Bytes) (tag : Nat) (hs : P s) : P (State.memWrite s die off bs tag).1 := by
  have K0 : Keeps [.mem, .eng] P := K.mono rfl
  have K1 : Keeps [.out, .regs, .mem, .core, .eng, .upd, .swm, .cap, .lp, .log, .fab, .host, .wort, .boot] P := K.mono rfl
  unfold State.memWrite
  repeat' first
    | with_reducible assumption
    | intro _
    | with_reducible apply State.sramWrite_keeps K0
    | with_reducible apply State.lpWrite_keeps K1
    | with_reducible refine ite_keeps ?_ ?_
    | with_reducible refine ite_fst_keeps ?_ ?_

theorem State.memRead_keeps (K : Keeps [.out, .regs, .mem, .core, .eng, .upd, .swm, .cap, .lp, .log, .fab, .host, .wort, .boot] P) {s : State} (die : Nat) (off : Nat) (len : Nat) (hs : P s) : P (State.memRead s die off len).1 := by
  have K0 : Keeps [.out, .regs, .mem, .core, .eng, .upd, .swm, .cap, .lp, .log, .fab, .host, .wort, .boot] P := K.mono rfl
  unfold State.memRead
  repeat' first
    | with_reducible assumption
    | intro _
    | with_reducible apply State.sramRead_keeps K0
    | with_reducible apply State.lpRead_keeps K0
    | with_reducible refine ite_keeps ?_ ?_
    | with_reducible refine ite_fst_keeps ?_ ?_

theorem State.memReads_keeps (K : Keeps [.out, .regs, .mem, .core, .eng, .upd, .swm, .cap, .lp, .log, .fab, .host, .wort, .boot] P) {s : State} (die : Nat) (a2 : List (Nat × Nat)) (hs : P s) : P (State.memReads s die a2).1 := by
  induction a2 generalizing s with
  | nil => exact hs
  | cons r rs ih =>
    have h1 := State.memRead_keeps (K.mono rfl) die r.1 r.2 hs
    unfold State.memReads
    rcases e : s.memRead die r.1 r.2 with ⟨s1, b⟩
    rw [e] at h1
    cases b
    · exact h1
    · exact ih h1

theorem State.memWrites_keeps (K : Keeps [.out, .regs, .mem, .core, .eng, .upd, .swm, .cap, .lp, .log, .fab, .host, .wort, .boot] P) {s : State} (die : Nat) (ws : List (Nat × Bytes)) (tag : Nat) (hs : P s) : P (State.memWrites s die ws tag).1 := by
  have K0 : Keeps [.out, .regs, .mem, .core, .eng, .upd, .swm, .cap, .lp, .log, .fab, .host, .wort, .boot] P := K.mono rfl
  have K1 : Keeps [.regs, .eng, .fab] P := K.mono rfl
  unfold State.memWrites
  repeat' first
    | with_reducible assumption
    | intro _
    | with_reducible apply State.memWrite_keeps K0
    | with_reducible apply State.wcbFlush_keeps K0
    | with_reducible apply State.markBad_keeps K1
    | with_reducible refine ite_keeps ?_ ?_
    | with_reducible refine ite_fst_keeps ?_ ?_
    | split
    | with_reducible apply foldl_fst_keeps

theorem State.zeroSram_keeps (K : Keeps [.mem, .eng] P) {s : State} (die : Nat) (hs : P s) : P (State.zeroSram s die) := by
  unfold State.zeroSram
  dsimp only
  exact K.eng (by decide) _ (K.memDrop (by decide) _ hs)

theorem State.zeroLpddr_keeps (K : Keeps [.mem, .lp] P) {s : State} (die : Nat) (hs : P s) : P (State.zeroLpddr s die) := by
  unfold State.zeroLpddr
  dsimp only
  exact K.lp (by decide) _ (K.memDrop (by decide) _ hs)

/-! Issue -/

theorem State.freeWord_keeps (K : Keeps [.free] P) {s : State} (hs : P s) : P (State.freeWord s).1 := by
  have K0 : Keeps [.free] P := K.mono rfl
  unfold State.freeWord
  repeat' first
    | with_reducible assumption
    | intro _
    | with_reducible apply State.drawn_keeps K0
    | with_reducible refine ite_keeps ?_ ?_
    | with_reducible refine ite_fst_keeps ?_ ?_
    | with_reducible apply foldl_fst_keeps

theorem State.haltCore_keeps (K : Keeps [.regs, .core, .host] P) {s : State} (core : Nat) (status : Nat) (hs : P s) : P (State.haltCore s core status) := by
  have K0 : Keeps [.core] P := K.mono rfl
  have K1 : Keeps [.regs] P := K.mono rfl
  have K2 : Keeps [.regs, .core, .host] P := K.mono rfl
  unfold State.haltCore
  repeat' first
    | with_reducible assumption
    | intro _
    | with_reducible apply State.setCoreRec_keeps K0
    | with_reducible apply State.setCoreState_keeps K1
    | with_reducible apply State.kernelTryEnd_keeps K2

theorem State.fetch_keeps (K : Keeps [.free, .out, .regs, .mem, .core, .eng, .upd, .swm, .cap, .lp, .log, .fab, .host, .wort, .boot] P) {s : State} (die : Nat) (addr : Nat) (hs : P s) : P (State.fetch s die addr).1 := by
  have K0 : Keeps [.free] P := K.mono rfl
  have K1 : Keeps [.out, .regs, .mem, .core, .eng, .upd, .swm, .cap, .lp, .log, .fab, .host, .wort, .boot] P := K.mono rfl
  unfold State.fetch
  repeat' first
    | with_reducible assumption
    | intro _
    | with_reducible apply State.freeWord_keeps K0
    | with_reducible apply State.memRead_keeps K1
    | with_reducible refine ite_keeps ?_ ?_
    | with_reducible refine ite_fst_keeps ?_ ?_
    | (with_reducible apply fst_of; with_reducible assumption)
    | split

theorem State.fetchRun_keeps (K : Keeps [.free, .out, .regs, .mem, .core, .eng, .upd, .swm, .cap, .lp, .log, .fab, .host, .wort, .boot] P) (a0 : Nat) {a1 : State} (a2 : Nat) (a3 : Nat) (hs : P a1) : P (State.fetchRun a0 a1 a2 a3).1 := by
  have K0 : Keeps [.free, .out, .regs, .mem, .core, .eng, .upd, .swm, .cap, .lp, .log, .fab, .host, .wort, .boot] P := K.mono rfl
  induction a0 generalizing a1 a2 a3 with
  | zero => exact hs
  | succ n ih =>
    unfold State.fetchRun
    repeat' first
      | with_reducible assumption
      | with_reducible apply ih
      | intro _
      | with_reducible apply State.fetch_keeps K0
      | with_reducible refine ite_keeps ?_ ?_
      | with_reducible refine ite_fst_keeps ?_ ?_
      | (with_reducible apply fst_of; with_reducible assumption)
      | split

theorem State.fillBuf_keeps (K : Keeps [.free, .out, .regs, .mem, .core, .eng, .upd, .swm, .cap, .lp, .log, .fab, .host, .wort, .boot] P) {s : State} (core : Nat) (need : Nat) (hs : P s) : P (State.fillBuf s core need) := by
  have K0 : Keeps [.free, .out, .regs, .mem, .core, .eng, .upd, .swm, .cap, .lp, .log, .fab, .host, .wort, .boot] P := K.mono rfl
  have K1 : Keeps [.core] P := K.mono rfl
  unfold State.fillBuf
  repeat' first
    | with_reducible assumption
    | intro _
    | with_reducible apply State.fetchRun_keeps K0
    | with_reducible apply State.setCoreRec_keeps K1
    | with_reducible refine ite_keeps ?_ ?_

theorem State.nextCmd_keeps (K : Keeps [.free, .out, .regs, .mem, .core, .eng, .upd, .swm, .cap, .lp, .log, .fab, .host, .wort, .boot] P) {s : State} (core : Nat) (hs : P s) : P (State.nextCmd s core).1 := by
  have K0 : Keeps [.free, .out, .regs, .mem, .core, .eng, .upd, .swm, .cap, .lp, .log, .fab, .host, .wort, .boot] P := K.mono rfl
  unfold State.nextCmd
  repeat' first
    | with_reducible assumption
    | intro _
    | with_reducible apply State.fillBuf_keeps K0
    | with_reducible refine ite_keeps ?_ ?_
    | with_reducible refine ite_fst_keeps ?_ ?_
    | split
    | extract_lets

theorem State.arrived_keeps (K : Keeps [.free, .out, .regs, .mem, .core, .eng, .upd, .swm, .cap, .lp, .log, .fab, .host, .wort, .boot] P) {s : State} (core : Nat) (hs : P s) : P (State.arrived s core) := by
  have K0 : Keeps [.free, .out, .regs, .mem, .core, .eng, .upd, .swm, .cap, .lp, .log, .fab, .host, .wort, .boot] P := K.mono rfl
  have K1 : Keeps [.core] P := K.mono rfl
  have K2 : Keeps [.regs] P := K.mono rfl
  unfold State.arrived
  repeat' first
    | with_reducible assumption
    | intro _
    | with_reducible apply State.fetch_keeps K0
    | with_reducible apply State.setCoreRec_keeps K1
    | with_reducible apply State.setCoreState_keeps K2
    | with_reducible refine ite_keeps ?_ ?_

theorem State.issue_keeps (K : Keeps [.free, .out, .regs, .mem, .core, .eng, .upd, .swm, .cap, .lp, .log, .fab, .host, .wort, .boot] P) {s : State} (core : Nat) (opc : Nat) (f : State → Nat → CmdWord → State) (hs : P s) (hf : ∀ (x0 : State) (x1 : Nat) (x2 : CmdWord), P x0 → P (f x0 x1 x2)) : P (State.issue s core opc f) := by
  have K0 : Keeps [.free, .out, .regs, .mem, .core, .eng, .upd, .swm, .cap, .lp, .log, .fab, .host, .wort, .boot] P := K.mono rfl
  have K1 : Keeps [.regs, .core, .host] P := K.mono rfl
  have K2 : Keeps [.core] P := K.mono rfl
  have K3 : Keeps [.regs, .core, .log, .host] P := K.mono rfl
  unfold State.issue
  repeat' first
    | with_reducible assumption
    | intro _
    | with_reducible apply State.arrived_keeps K0
    | with_reducible apply State.nextCmd_keeps K0
    | with_reducible apply State.haltCore_keeps K1
    | with_reducible apply State.issueNext_keeps K2
    | with_reducible apply State.refuseCmd_keeps K3
    | with_reducible refine ite_keeps ?_ ?_
    | with_reducible refine ite_fst_keeps ?_ ?_
    | (with_reducible apply fst_of; with_reducible assumption)
    | split
    | with_reducible apply hf

theorem State.issueTo_keeps (K : Keeps [.free, .out, .regs, .mem, .core, .eng, .upd, .swm, .cap, .lp, .log, .fab, .host, .wort, .boot] P) {s : State} (core : Nat) (opc : Nat) (f : State → Nat → CmdWord → State) (hs : P s) (hf : ∀ (x0 : State) (x1 : Nat) (x2 : CmdWord), P x0 → P (f x0 x1 x2)) : P (State.issueTo s core opc f) := by
  have K0 : Keeps [.free, .out, .regs, .mem, .core, .eng, .upd, .swm, .cap, .lp, .log, .fab, .host, .wort, .boot] P := K.mono rfl
  have K1 : Keeps [.core] P := K.mono rfl
  have K2 : Keeps [.regs] P := K.mono rfl
  unfold State.issueTo
  repeat' first
    | with_reducible assumption
    | intro _
    | with_reducible apply State.arrived_keeps K0
    | with_reducible apply State.nextCmd_keeps K0
    | with_reducible apply State.setCoreRec_keeps K1
    | with_reducible apply State.stall_keeps K2
    | with_reducible apply State.setCoreState_keeps K2
    | with_reducible apply State.issue_keeps K0
    | with_reducible refine ite_keeps ?_ ?_
    | with_reducible refine ite_fst_keeps ?_ ?_
    | (with_reducible apply fst_of; with_reducible assumption)
    | split

theorem State.refuseOr_keeps (K : Keeps [.regs, .core, .log, .host] P) {s : State} (core : Nat) (seq : Nat) (opc : Nat) (cs : List (Bool × Nat)) (f : State → State) (hs : P s) (hf : ∀ (x0 : State), P x0 → P (f x0)) : P (State.refuseOr s core seq opc cs f) := by
  have K0 : Keeps [.regs, .core, .log, .host] P := K.mono rfl
  unfold State.refuseOr
  repeat' first
    | with_reducible assumption
    | intro _
    | with_reducible apply State.refuseCmd_keeps K0
    | with_reducible refine ite_keeps ?_ ?_
    | split
    | with_reducible apply hf

theorem State.refuseOrB_keeps (K : Keeps [.out, .regs, .mem, .core, .eng, .upd, .swm, .cap, .lp, .log, .fab, .host, .wort, .boot] P) {s : State} (core : Nat) (seq : Nat) (opc : Nat) (cs : List (Bool × Nat)) (f : State → State) (hs : P s) (hf : ∀ (x0 : State), P x0 → P (f x0)) : P (State.refuseOrB s core seq opc cs f) := by
  have K0 : Keeps [.log] P := K.mono rfl
  have K1 : Keeps [.out, .regs, .mem, .core, .eng, .upd, .swm, .cap, .lp, .log, .fab, .host, .wort, .boot] P := K.mono rfl
  unfold State.refuseOrB
  repeat' first
    | with_reducible assumption
    | intro _
    | with_reducible apply State.refuseRec_keeps K0
    | with_reducible apply State.completeCmd_keeps K1
    | with_reducible refine ite_keeps ?_ ?_
    | split
    | with_reducible apply hf

/-! FabOps -/

theorem State.setLink_keeps (K : Keeps [.fab] P) {s : State} (p : Nat) (r : LinkRec) (hs : P s) : P (State.setLink s p r) := by
  unfold State.setLink
  repeat' first
    | with_reducible assumption
    | intro _
    | with_reducible refine ite_keeps ?_ ?_
    | with_reducible apply K.lit
    | exact Or.inl (by decide)
    | exact Or.inr rfl

theorem State.absorb_keeps (K : Keeps [.fab] P) {s : State} (die : Nat) (hs : P s) : P (State.absorb s die) := by
  have K0 : Keeps [.fab] P := K.mono rfl
  unfold State.absorb
  repeat' first
    | with_reducible assumption
    | intro _
    | with_reducible apply State.setLink_keeps K0

theorem State.latStep_keeps (K : Keeps [.out, .swm, .fab] P) {s : State} (p : Nat) (id : Nat) (hs : P s) : P (State.latStep s p id) := by
  have K0 : Keeps [.out] P := K.mono rfl
  unfold State.latStep
  repeat' first
    | with_reducible assumption
    | intro _
    | with_reducible apply State.emits_keeps K0
    | with_reducible refine ite_keeps ?_ ?_
    | with_reducible apply K.lit
    | exact Or.inl (by decide)
    | exact Or.inr rfl

theorem State.latRun_keeps (K : Keeps [.out, .swm, .fab] P) {s : State} (p : Nat) (hs : P s) : P (State.latRun s p) := by
  have K0 : Keeps [.out, .swm, .fab] P := K.mono rfl
  unfold State.latRun
  repeat' first
    | with_reducible assumption
    | intro _
    | with_reducible apply State.latStep_keeps K0
    | with_reducible refine ite_keeps ?_ ?_
    | with_reducible refine ite_fst_keeps ?_ ?_
    | with_reducible apply foldl_fst_keeps
    | with_reducible apply foldl_keeps
    | with_reducible apply K.lit
    | exact Or.inl (by decide)
    | exact Or.inr rfl

theorem State.latJoin_keeps (K : Keeps [.out, .swm, .fab] P) {s : State} (id : Nat) (x : Xfer) (hs : P s) : P (State.latJoin s id x) := by
  have K0 : Keeps [.out, .swm, .fab] P := K.mono rfl
  unfold State.latJoin
  repeat' first
    | with_reducible assumption
    | intro _
    | with_reducible apply State.latRun_keeps K0
    | with_reducible refine ite_keeps ?_ ?_
    | with_reducible apply K.lit
    | exact Or.inl (by decide)
    | exact Or.inr rfl

theorem State.xferUnder_keeps (K : Keeps [.out, .swm, .fab] P) {s : State} (tgt : Nat) (id : Nat) (x : Xfer) (hs : P s) : P (State.xferUnder s tgt id x) := by
  have K0 : Keeps [.out] P := K.mono rfl
  have K1 : Keeps [.out, .swm, .fab] P := K.mono rfl
  unfold State.xferUnder
  repeat' first
    | with_reducible assumption
    | intro _
    | with_reducible apply State.emits_keeps K0
    | with_reducible apply State.latJoin_keeps K1
    | with_reducible refine ite_keeps ?_ ?_
    | with_reducible apply K.lit
    | exact Or.inl (by decide)
    | exact Or.inr rfl

theorem State.xferStart_keeps (K : Keeps [.out, .swm, .fab] P) {s : State} (tgt : Nat) (x : Xfer) (hs : P s) : P (State.xferStart s tgt x) := by
  have K0 : Keeps [.out, .swm, .fab] P := K.mono rfl
  unfold State.xferStart
  repeat' first
    | with_reducible assumption
    | intro _
    | with_reducible apply State.xferUnder_keeps K0
    | with_reducible refine ite_keeps ?_ ?_
    | split
    | with_reducible apply K.lit
    | exact Or.inl (by decide)
    | exact Or.inr rfl

theorem State.xferEnd_keeps (K : Keeps [.fab] P) {s : State} (tgt : Nat) (id : Nat) (hs : P s) : P (State.xferEnd s tgt id) := by
  unfold State.xferEnd
  repeat' first
    | with_reducible assumption
    | intro _
    | with_reducible refine ite_keeps ?_ ?_
    | with_reducible apply K.lit
    | exact Or.inl (by decide)
    | exact Or.inr rfl

theorem State.sendStreams_keeps (K : Keeps [.out, .swm, .fab] P) {s : State} (tgt : Nat) (o : XOwner) (keep : Bool) (h : StreamHdr) (sour : Nat → Bool) (bs : Bytes) (hs : P s) : P (State.sendStreams s tgt o keep h sour bs) := by
  have K0 : Keeps [.out, .swm, .fab] P := K.mono rfl
  unfold State.sendStreams
  repeat' first
    | with_reducible assumption
    | intro _
    | with_reducible apply State.xferStart_keeps K0
    | with_reducible refine ite_keeps ?_ ?_
    | with_reducible refine ite_fst_keeps ?_ ?_
    | with_reducible apply foldl_fst_keeps
    | with_reducible apply foldl_keeps

theorem State.sendRdreq_keeps (K : Keeps [.out, .swm, .fab] P) {s : State} (tgt : Nat) (o : XOwner) (smod : Nat) (stgt : Nat) (job : Nat) (off : Nat) (pgen : Nat) (lenRow : Nat) (sstride : Nat) (rows : Nat) (dst : Nat) (dstride : Nat) (rcnt : Nat) (rcen : Bool) (hs : P s) : P (State.sendRdreq s tgt o smod stgt job off pgen lenRow sstride rows dst dstride rcnt rcen) := by
  have K0 : Keeps [.out, .swm, .fab] P := K.mono rfl
  unfold State.sendRdreq
  repeat' first
    | with_reducible assumption
    | intro _
    | with_reducible apply State.xferStart_keeps K0

theorem State.sendWr_keeps (K : Keeps [.out, .swm, .fab] P) {s : State} (tgt : Nat) (o : XOwner) (dmod : Nat) (dtgt : Nat) (job : Nat) (off : Nat) (pgen : Nat) (data : Bytes) (hs : P s) : P (State.sendWr s tgt o dmod dtgt job off pgen data) := by
  have K0 : Keeps [.out, .swm, .fab] P := K.mono rfl
  unfold State.sendWr
  repeat' first
    | with_reducible assumption
    | intro _
    | with_reducible apply State.xferStart_keeps K0

theorem State.sendAdd_keeps (K : Keeps [.out, .swm, .fab] P) {s : State} (tgt : Nat) (o : XOwner) (dmod : Nat) (dtgt : Nat) (job : Nat) (off : Nat) (pgen : Nat) (v : Nat) (hs : P s) : P (State.sendAdd s tgt o dmod dtgt job off pgen v) := by
  have K0 : Keeps [.out, .swm, .fab] P := K.mono rfl
  unfold State.sendAdd
  repeat' first
    | with_reducible assumption
    | intro _
    | with_reducible apply State.xferStart_keeps K0

/-! Operands -/

theorem State.sramReads_keeps (K : Keeps [.out, .regs, .mem, .core, .eng, .upd, .swm, .cap, .lp, .log, .fab, .host, .wort, .boot] P) {s : State} (die : Nat) (rs : Ranges) (hs : P s) : P (State.sramReads s die rs).1 := by
  have K0 : Keeps [.out, .regs, .mem, .core, .eng, .upd, .swm, .cap, .lp, .log, .fab, .host, .wort, .boot] P := K.mono rfl
  unfold State.sramReads
  repeat' first
    | with_reducible assumption
    | intro _
    | with_reducible apply State.memReads_keeps K0

theorem State.sramPut_keeps (K : Keeps [.mem, .eng] P) {s : State} (die : Nat) (ws : List (Nat × Bytes)) (hs : P s) : P (State.sramPut s die ws) := by
  have K0 : Keeps [.mem, .eng] P := K.mono rfl
  unfold State.sramPut
  repeat' first
    | with_reducible assumption
    | intro _
    | with_reducible apply State.sramWrite_keeps K0
    | with_reducible refine ite_keeps ?_ ?_
    | with_reducible refine ite_fst_keeps ?_ ?_
    | with_reducible apply foldl_fst_keeps
    | with_reducible apply foldl_keeps

/-! Flags -/

theorem State.finish_keeps (K : Keeps [.out, .regs, .mem, .core, .eng, .upd, .swm, .cap, .lp, .log, .fab, .host, .wort, .boot] P) {s : State} (core : Nat) (seq : Nat) (cnt : Nat) (status : Nat) (reason : Nat) (nflags : Nat) (hs : P s) : P (State.finish s core seq cnt status reason nflags) := by
  have K0 : Keeps [.out, .regs, .mem, .core, .eng, .upd, .swm, .cap, .lp, .log, .fab, .host, .wort, .boot] P := K.mono rfl
  have K1 : Keeps [.regs, .core, .host] P := K.mono rfl
  unfold State.finish
  repeat' first
    | with_reducible assumption
    | intro _
    | with_reducible apply State.completeCmd_keeps K0
    | with_reducible apply State.cntAdd_keeps K1
    | with_reducible refine ite_keeps ?_ ?_

theorem State.markBusy_keeps (K : Keeps [.eng] P) {s : State} (k : Nat) (hs : P s) : P (State.markBusy s k) := by
  unfold State.markBusy
  repeat' first
    | with_reducible assumption
    | intro _
    | with_reducible refine ite_keeps ?_ ?_
    | with_reducible apply K.lit
    | exact Or.inl (by decide)
    | exact Or.inr rfl

theorem State.refuseJob_keeps (K : Keeps [.out, .regs, .mem, .core, .eng, .upd, .swm, .cap, .lp, .log, .fab, .host, .wort, .boot] P) {s : State} (j : Job) (reason : Nat) (hs : P s) : P (State.refuseJob s j reason) := by
  have K0 : Keeps [.log] P := K.mono rfl
  have K1 : Keeps [.out, .regs, .mem, .core, .eng, .upd, .swm, .cap, .lp, .log, .fab, .host, .wort, .boot] P := K.mono rfl
  unfold State.refuseJob
  repeat' first
    | with_reducible assumption
    | intro _
    | with_reducible apply State.refuseRec_keeps K0
    | with_reducible apply State.completeCmd_keeps K1

end Sys2Proof.Machine
end

