-- ==== Sys2Proof/Laws/KeepsUnits.lean ====
section
/-! SUPPORT. What every operation may write: the engines, the host interface and descriptors. One lemma per operation, by the components
it can reach (Laws/Keeps.lean). -/

namespace Sys2Proof.Machine

variable {P : State → Prop}

/-! ArrayCmds -/

theorem State.setArr_keeps (K : Keeps [.eng] P) {s : State} (die : Nat) (a : Nat) (r : ArrRec) (hs : P s) : P (State.setArr s die a r) := by
  unfold State.setArr
  repeat' first
    | with_reducible assumption
    | intro _
    | with_reducible refine ite_keeps ?_ ?_
    | with_reducible apply K.lit
    | exact Or.inl (by decide)
    | exact Or.inr rfl

theorem State.sourOrigin_keeps (K : Keeps [.regs, .cap, .log] P) {s : State} (die : Nat) (step : Nat) (tile : Nat) (idx : Nat) (hs : P s) : P (State.sourOrigin s die step tile idx) := by
  have K0 : Keeps [.cap] P := K.mono rfl
  have K1 : Keeps [.regs] P := K.mono rfl
  have K2 : Keeps [.log] P := K.mono rfl
  unfold State.sourOrigin
  repeat' first
    | with_reducible assumption
    | intro _
    | with_reducible apply State.setDieCap_keeps K0
    | with_reducible apply State.fset_keeps K1
    | with_reducible apply State.dieRec_keeps K2
    | with_reducible refine ite_keeps ?_ ?_

theorem State.arrBusy_keeps (K : Keeps [.regs] P) {s : State} (die : Nat) (a : Nat) (hs : P s) : P (State.arrBusy s die a) := by
  have K0 : Keeps [.regs] P := K.mono rfl
  unfold State.arrBusy
  repeat' first
    | with_reducible assumption
    | intro _
    | with_reducible apply State.fsetBit_keeps K0

theorem State.arrBegin_keeps (K : Keeps [.out, .regs, .mem, .core, .eng, .upd, .swm, .cap, .lp, .log, .fab, .host, .wort, .boot] P) {s : State} (die : Nat) (a : Nat) (j : Job) (q : Rect) (hs : P s) : P (State.arrBegin s die a j q) := by
  have K0 : Keeps [.eng] P := K.mono rfl
  have K1 : Keeps [.out, .regs, .mem, .core, .eng, .upd, .swm, .cap, .lp, .log, .fab, .host, .wort, .boot] P := K.mono rfl
  have K2 : Keeps [.regs, .cap, .log] P := K.mono rfl
  unfold State.arrBegin
  repeat' first
    | with_reducible assumption
    | intro _
    | with_reducible apply State.markBusy_keeps K0
    | with_reducible apply State.setArr_keeps K0
    | with_reducible apply State.sramReads_keeps K1
    | with_reducible apply State.voteFailed_keeps K1
    | with_reducible apply State.sourOrigin_keeps K2
    | with_reducible refine ite_keeps ?_ ?_
    | with_reducible refine ite_fst_keeps ?_ ?_
    | (with_reducible apply fst_of; with_reducible assumption)
    | split
    | extract_lets

theorem State.arrTake_keeps (K : Keeps [.out, .regs, .mem, .core, .eng, .upd, .swm, .cap, .lp, .log, .fab, .host, .wort, .boot] P) {s : State} (die : Nat) (a : Nat) (j : Job) (hs : P s) : P (State.arrTake s die a j) := by
  have K0 : Keeps [.eng] P := K.mono rfl
  have K1 : Keeps [.out, .regs, .log, .fab] P := K.mono rfl
  have K2 : Keeps [.out, .regs, .mem, .core, .eng, .upd, .swm, .cap, .lp, .log, .fab, .host, .wort, .boot] P := K.mono rfl
  unfold State.arrTake
  repeat' first
    | with_reducible assumption
    | intro _
    | with_reducible apply State.setArr_keeps K0
    | with_reducible apply State.dropJob_keeps K1
    | with_reducible apply State.refuseJob_keeps K2
    | with_reducible apply State.arrBegin_keeps K2
    | with_reducible refine ite_keeps ?_ ?_
    | split
    | extract_lets

theorem State.arrPump_keeps (K : Keeps [.out, .regs, .mem, .core, .eng, .upd, .swm, .cap, .lp, .log, .fab, .host, .wort, .boot] P) (a0 : Nat) {a1 : State} (a2 : Nat) (a3 : Nat) (hs : P a1) : P (State.arrPump a0 a1 a2 a3) := by
  have K0 : Keeps [.out, .regs, .mem, .core, .eng, .upd, .swm, .cap, .lp, .log, .fab, .host, .wort, .boot] P := K.mono rfl
  induction a0 generalizing a1 a2 a3 with
  | zero => exact hs
  | succ n ih =>
    unfold State.arrPump
    repeat' first
      | with_reducible assumption
      | with_reducible apply ih
      | intro _
      | with_reducible apply State.arrTake_keeps K0
      | with_reducible refine ite_keeps ?_ ?_
      | split

theorem State.arrRun_keeps (K : Keeps [.out, .regs, .mem, .core, .eng, .upd, .swm, .cap, .lp, .log, .fab, .host, .wort, .boot] P) {s : State} (die : Nat) (a : Nat) (hs : P s) : P (State.arrRun s die a) := by
  have K0 : Keeps [.out, .regs, .mem, .core, .eng, .upd, .swm, .cap, .lp, .log, .fab, .host, .wort, .boot] P := K.mono rfl
  have K1 : Keeps [.regs] P := K.mono rfl
  unfold State.arrRun
  repeat' first
    | with_reducible assumption
    | intro _
    | with_reducible apply State.arrPump_keeps K0
    | with_reducible apply State.arrBusy_keeps K1

theorem State.arrIssue_keeps (K : Keeps [.free, .out, .regs, .mem, .core, .eng, .upd, .swm, .cap, .lp, .log, .fab, .host, .wort, .boot] P) {s : State} (core : Nat) (opc : Nat) (hs : P s) : P (State.arrIssue s core opc) := by
  have K0 : Keeps [.free, .out, .regs, .mem, .core, .eng, .upd, .swm, .cap, .lp, .log, .fab, .host, .wort, .boot] P := K.mono rfl
  have K1 : Keeps [.out, .regs, .mem, .core, .eng, .upd, .swm, .cap, .lp, .log, .fab, .host, .wort, .boot] P := K.mono rfl
  have K2 : Keeps [.eng] P := K.mono rfl
  unfold State.arrIssue
  repeat' first
    | with_reducible assumption
    | intro _
    | with_reducible apply State.issueTo_keeps K0
    | with_reducible apply State.refuseJob_keeps K1
    | with_reducible apply State.setArr_keeps K2
    | with_reducible apply State.arrRun_keeps K1
    | with_reducible refine ite_keeps ?_ ?_

theorem execArrWload_keeps (K : Keeps [.free, .out, .regs, .mem, .core, .eng, .upd, .swm, .cap, .lp, .log, .fab, .host, .wort, .boot] P) (core : CoreId) {s : State} (hs : P s) : ∃ t, execArrWload core s = .next t ∧ P t := by
  have K0 : Keeps [.free, .out, .regs, .mem, .core, .eng, .upd, .swm, .cap, .lp, .log, .fab, .host, .wort, .boot] P := K.mono rfl
  refine ⟨_, rfl, ?_⟩
  repeat' first
    | with_reducible assumption
    | intro _
    | with_reducible apply State.arrIssue_keeps K0

theorem execArrPass_keeps (K : Keeps [.free, .out, .regs, .mem, .core, .eng, .upd, .swm, .cap, .lp, .log, .fab, .host, .wort, .boot] P) (core : CoreId) {s : State} (hs : P s) : ∃ t, execArrPass core s = .next t ∧ P t := by
  have K0 : Keeps [.free, .out, .regs, .mem, .core, .eng, .upd, .swm, .cap, .lp, .log, .fab, .host, .wort, .boot] P := K.mono rfl
  refine ⟨_, rfl, ?_⟩
  repeat' first
    | with_reducible assumption
    | intro _
    | with_reducible apply State.arrIssue_keeps K0

theorem execArrLayout_keeps (K : Keeps [.free, .out, .regs, .mem, .core, .eng, .upd, .swm, .cap, .lp, .log, .fab, .host, .wort, .boot] P) (core : CoreId) {s : State} (hs : P s) : ∃ t, execArrLayout core s = .next t ∧ P t := by
  have K0 : Keeps [.free, .out, .regs, .mem, .core, .eng, .upd, .swm, .cap, .lp, .log, .fab, .host, .wort, .boot] P := K.mono rfl
  refine ⟨_, rfl, ?_⟩
  repeat' first
    | with_reducible assumption
    | intro _
    | with_reducible apply State.arrIssue_keeps K0

theorem execArrDrain_keeps (K : Keeps [.free, .out, .regs, .mem, .core, .eng, .upd, .swm, .cap, .lp, .log, .fab, .host, .wort, .boot] P) (core : CoreId) {s : State} (hs : P s) : ∃ t, execArrDrain core s = .next t ∧ P t := by
  have K0 : Keeps [.free, .out, .regs, .mem, .core, .eng, .upd, .swm, .cap, .lp, .log, .fab, .host, .wort, .boot] P := K.mono rfl
  refine ⟨_, rfl, ?_⟩
  repeat' first
    | with_reducible assumption
    | intro _
    | with_reducible apply State.arrIssue_keeps K0

theorem State.sramBit_keeps (K : Keeps [.mem] P) {s : State} (die : Nat) (off : Nat) (b : Nat) (v : Bool) (hs : P s) : P (State.sramBit s die off b v) := by
  have K0 : Keeps [.mem] P := K.mono rfl
  unfold State.sramBit
  repeat' first
    | with_reducible assumption
    | intro _
    | with_reducible apply State.setByte_keeps K0

theorem State.commitWrites_keeps (K : Keeps [.mem, .eng] P) {s : State} (die : Nat) (j : Job) (hs : P s) : P (State.commitWrites s die j) := by
  have K0 : Keeps [.mem] P := K.mono rfl
  have K1 : Keeps [.mem, .eng] P := K.mono rfl
  unfold State.commitWrites
  repeat' first
    | with_reducible assumption
    | intro _
    | with_reducible apply State.sramBit_keeps K0
    | with_reducible apply State.sramPut_keeps K1
    | with_reducible refine ite_keeps ?_ ?_
    | with_reducible refine ite_fst_keeps ?_ ?_
    | with_reducible apply foldl_fst_keeps
    | with_reducible apply foldl_keeps

theorem execArrCommandComplete_keeps (K : Keeps [.out, .regs, .mem, .core, .eng, .upd, .swm, .cap, .lp, .log, .fab, .host, .wort, .boot] P) (die : DieId) (arr : Fin 6) (region : Fin 16) {s : State} (hs : P s) : ∃ t, execArrCommandComplete die arr region s = .next t ∧ P t := by
  have K0 : Keeps [.mem, .eng] P := K.mono rfl
  have K1 : Keeps [.eng] P := K.mono rfl
  have K2 : Keeps [.out, .regs, .log, .fab] P := K.mono rfl
  have K3 : Keeps [.out, .regs, .mem, .core, .eng, .upd, .swm, .cap, .lp, .log, .fab, .host, .wort, .boot] P := K.mono rfl
  refine ⟨_, rfl, ?_⟩
  repeat' first
    | with_reducible assumption
    | intro _
    | with_reducible apply State.commitWrites_keeps K0
    | with_reducible apply State.setArr_keeps K1
    | with_reducible apply State.dropJob_keeps K2
    | with_reducible apply State.finish_keeps K3
    | with_reducible apply State.arrRun_keeps K3
    | with_reducible refine ite_keeps ?_ ?_
    | split

/-! HostOps -/

theorem State.dmaBlock_keeps (K : Keeps [.out, .regs, .log, .fab] P) {s : State} (fn : Nat) (kind : Nat) (ring : Nat) (addr : Nat) (hs : P s) : P (State.dmaBlock s fn kind ring addr) := by
  have K0 : Keeps [.regs] P := K.mono rfl
  have K1 : Keeps [.fab] P := K.mono rfl
  have K2 : Keeps [.out, .regs, .log] P := K.mono rfl
  unfold State.dmaBlock
  repeat' first
    | with_reducible assumption
    | intro _
    | with_reducible apply State.finc_keeps K0
    | with_reducible apply State.paced_keeps K1
    | with_reducible apply State.hiveRec_keeps K2

theorem State.setRing_keeps (K : Keeps [.host] P) {s : State} (ring : Nat) (r : RingRec) (hs : P s) : P (State.setRing s ring r) := by
  unfold State.setRing
  repeat' first
    | with_reducible assumption
    | intro _
    | with_reducible refine ite_keeps ?_ ?_
    | with_reducible apply K.lit
    | exact Or.inl (by decide)
    | exact Or.inr rfl

theorem State.ringError_keeps (K : Keeps [.out, .regs, .log] P) {s : State} (ring : Nat) (cause : Nat) (hs : P s) : P (State.ringError s ring cause) := by
  have K0 : Keeps [.regs] P := K.mono rfl
  have K1 : Keeps [.out, .regs, .log] P := K.mono rfl
  have K2 : Keeps [.out, .regs] P := K.mono rfl
  have K3 : Keeps [.out] P := K.mono rfl
  unfold State.ringError
  repeat' first
    | with_reducible assumption
    | intro _
    | with_reducible apply State.fset_keeps K0
    | with_reducible apply State.hiveRec_keeps K1
    | with_reducible apply State.isum_keeps K2
    | with_reducible apply State.raise_keeps K3
    | with_reducible refine ite_keeps ?_ ?_

theorem State.ringIrq_keeps (K : Keeps [.out, .host] P) {s : State} (ring : Nat) (hs : P s) : P (State.ringIrq s ring) := by
  have K0 : Keeps [.host] P := K.mono rfl
  have K1 : Keeps [.out] P := K.mono rfl
  unfold State.ringIrq
  repeat' first
    | with_reducible assumption
    | intro _
    | with_reducible apply State.setRing_keeps K0
    | with_reducible apply State.raise_keeps K1

theorem State.cqWrite_keeps (K : Keeps [.out, .regs, .log, .fab, .host] P) {s : State} (ring : Nat) (c : Bytes) (irq : Bool) (hs : P s) : P (State.cqWrite s ring c irq) := by
  have K0 : Keeps [.out] P := K.mono rfl
  have K1 : Keeps [.regs] P := K.mono rfl
  have K2 : Keeps [.host] P := K.mono rfl
  have K3 : Keeps [.out, .host] P := K.mono rfl
  have K4 : Keeps [.out, .regs, .log, .fab] P := K.mono rfl
  have K5 : Keeps [.out, .regs, .log] P := K.mono rfl
  unfold State.cqWrite
  repeat' first
    | with_reducible assumption
    | intro _
    | with_reducible apply State.emit_keeps K0
    | with_reducible apply State.fset_keeps K1
    | with_reducible apply State.setRing_keeps K2
    | with_reducible apply State.ringIrq_keeps K3
    | with_reducible apply State.dmaBlock_keeps K4
    | with_reducible apply State.ringError_keeps K5
    | with_reducible refine ite_keeps ?_ ?_

theorem State.cqPut_keeps (K : Keeps [.out, .regs, .log, .fab, .host] P) {s : State} (ring : Nat) (c : Bytes) (irq : Bool) (hs : P s) : P (State.cqPut s ring c irq) := by
  have K0 : Keeps [.out, .regs, .log, .fab, .host] P := K.mono rfl
  have K1 : Keeps [.host] P := K.mono rfl
  have K2 : Keeps [.regs] P := K.mono rfl
  unfold State.cqPut
  repeat' first
    | with_reducible assumption
    | intro _
    | with_reducible apply State.cqWrite_keeps K0
    | with_reducible apply State.setRing_keeps K1
    | with_reducible apply State.fset_keeps K2
    | with_reducible refine ite_keeps ?_ ?_

theorem State.heldPump_keeps (K : Keeps [.out, .regs, .log, .fab, .host] P) (a0 : Nat) {a1 : State} (a2 : Nat) (hs : P a1) : P (State.heldPump a0 a1 a2) := by
  have K0 : Keeps [.host] P := K.mono rfl
  have K1 : Keeps [.regs] P := K.mono rfl
  have K2 : Keeps [.out, .regs, .log, .fab, .host] P := K.mono rfl
  induction a0 generalizing a1 a2 with
  | zero => exact hs
  | succ n ih =>
    unfold State.heldPump
    repeat' first
      | with_reducible assumption
      | with_reducible apply ih
      | intro _
      | with_reducible apply State.setRing_keeps K0
      | with_reducible apply State.fset_keeps K1
      | with_reducible apply State.cqWrite_keeps K2
      | with_reducible refine ite_keeps ?_ ?_
      | split
      | extract_lets

theorem State.heldRun_keeps (K : Keeps [.out, .regs, .log, .fab, .host] P) {s : State} (ring : Nat) (hs : P s) : P (State.heldRun s ring) := by
  have K0 : Keeps [.out, .regs, .log, .fab, .host] P := K.mono rfl
  unfold State.heldRun
  repeat' first
    | with_reducible assumption
    | intro _
    | with_reducible apply State.heldPump_keeps K0

theorem State.updDesc_keeps (K : Keeps [.host] P) {s : State} (ring : Nat) (tag : Nat) (f : Desc → Desc) (hs : P s) : P (State.updDesc s ring tag f) := by
  have K0 : Keeps [.host] P := K.mono rfl
  unfold State.updDesc
  repeat' first
    | with_reducible assumption
    | intro _
    | with_reducible apply State.mapDescs_keeps K0

theorem State.descDone_keeps (K : Keeps [.host] P) {s : State} (ring : Nat) (tag : Nat) (status : Nat) (reason : Nat) (detail : Nat) (hs : P s) : P (State.descDone s ring tag status reason detail) := by
  have K0 : Keeps [.host] P := K.mono rfl
  unfold State.descDone
  repeat' first
    | with_reducible assumption
    | intro _
    | with_reducible apply State.updDesc_keeps K0

theorem State.descRefuse_keeps (K : Keeps [.out, .regs, .log, .host] P) {s : State} (d : Desc) (reason : Nat) (hs : P s) : P (State.descRefuse s d reason) := by
  have K0 : Keeps [.out, .regs, .log] P := K.mono rfl
  have K1 : Keeps [.host] P := K.mono rfl
  unfold State.descRefuse
  repeat' first
    | with_reducible assumption
    | intro _
    | with_reducible apply State.refuseDesc_keeps K0
    | with_reducible apply State.descDone_keeps K1

theorem State.reqDrop_keeps (K : Keeps [.host] P) {s : State} (p : HReq → Bool) (hs : P s) : P (State.reqDrop s p) := by
  unfold State.reqDrop
  repeat' first
    | with_reducible assumption
    | intro _
    | with_reducible refine ite_keeps ?_ ?_
    | with_reducible apply K.lit
    | exact Or.inl (by decide)
    | exact Or.inr rfl

theorem State.mapCopy_keeps (K : Keeps [.eng] P) {s : State} (core : Nat) (seq : Nat) (f : Job → Job) (hs : P s) : P (State.mapCopy s core seq f) := by
  unfold State.mapCopy
  repeat' first
    | with_reducible assumption
    | intro _
    | with_reducible refine ite_keeps ?_ ?_
    | with_reducible refine ite_fst_keeps ?_ ?_
    | with_reducible apply foldl_fst_keeps
    | with_reducible apply foldl_keeps
    | with_reducible apply K.lit
    | exact Or.inl (by decide)
    | exact Or.inr rfl

theorem State.copyAck_keeps (K : Keeps [.eng] P) {s : State} (core : Nat) (seq : Nat) (status : Nat) (reason : Nat) (hs : P s) : P (State.copyAck s core seq status reason) := by
  have K0 : Keeps [.eng] P := K.mono rfl
  unfold State.copyAck
  repeat' first
    | with_reducible assumption
    | intro _
    | with_reducible apply State.mapCopy_keeps K0

theorem State.hdmaEnd_keeps (K : Keeps [.regs, .core, .host] P) {s : State} (d : Desc) (hs : P s) : P (State.hdmaEnd s d) := by
  have K0 : Keeps [.regs, .core, .host] P := K.mono rfl
  have K1 : Keeps [.host] P := K.mono rfl
  unfold State.hdmaEnd
  repeat' first
    | with_reducible assumption
    | intro _
    | with_reducible apply State.cntAdd_keeps K0
    | with_reducible apply State.descDone_keeps K1
    | with_reducible refine ite_keeps ?_ ?_

theorem State.hdmaMoved_keeps (K : Keeps [.regs, .core, .host] P) {s : State} (ring : Nat) (tag : Nat) (n : Nat) (hs : P s) : P (State.hdmaMoved s ring tag n) := by
  have K0 : Keeps [.host] P := K.mono rfl
  have K1 : Keeps [.regs, .core, .host] P := K.mono rfl
  unfold State.hdmaMoved
  repeat' first
    | with_reducible assumption
    | intro _
    | with_reducible apply State.updDesc_keeps K0
    | with_reducible apply State.hdmaEnd_keeps K1
    | with_reducible refine ite_keeps ?_ ?_
    | split
    | extract_lets

theorem State.hdmaFail_keeps (K : Keeps [.host] P) {s : State} (ring : Nat) (tag : Nat) (status : Nat) (reason : Nat) (hs : P s) : P (State.hdmaFail s ring tag status reason) := by
  have K0 : Keeps [.host] P := K.mono rfl
  unfold State.hdmaFail
  repeat' first
    | with_reducible assumption
    | intro _
    | with_reducible apply State.reqDrop_keeps K0
    | with_reducible apply State.descDone_keeps K0
    | with_reducible refine ite_keeps ?_ ?_
    | split
    | with_reducible apply K.lit
    | exact Or.inl (by decide)
    | exact Or.inr rfl

theorem State.copyGiveUp_keeps (K : Keeps [.eng, .host] P) {s : State} (core : Nat) (seq : Nat) (status : Nat) (reason : Nat) (hs : P s) : P (State.copyGiveUp s core seq status reason) := by
  have K0 : Keeps [.host] P := K.mono rfl
  have K1 : Keeps [.eng] P := K.mono rfl
  unfold State.copyGiveUp
  repeat' first
    | with_reducible assumption
    | intro _
    | with_reducible apply State.reqDrop_keeps K0
    | with_reducible apply State.mapCopy_keeps K1
    | with_reducible refine ite_keeps ?_ ?_
    | with_reducible apply K.lit
    | exact Or.inl (by decide)
    | exact Or.inr rfl

theorem State.copyBlocked_keeps (K : Keeps [.eng, .log, .host] P) {s : State} (core : Nat) (seq : Nat) (hs : P s) : P (State.copyBlocked s core seq) := by
  have K0 : Keeps [.eng, .host] P := K.mono rfl
  have K1 : Keeps [.log] P := K.mono rfl
  unfold State.copyBlocked
  repeat' first
    | with_reducible assumption
    | intro _
    | with_reducible apply State.copyGiveUp_keeps K0
    | with_reducible apply State.refuseRec_keeps K1

theorem State.hdmaBlocked_keeps (K : Keeps [.out, .regs, .log, .host] P) {s : State} (ring : Nat) (tag : Nat) (hs : P s) : P (State.hdmaBlocked s ring tag) := by
  have K0 : Keeps [.host] P := K.mono rfl
  have K1 : Keeps [.out, .regs, .log] P := K.mono rfl
  unfold State.hdmaBlocked
  repeat' first
    | with_reducible assumption
    | intro _
    | with_reducible apply State.hdmaFail_keeps K0
    | with_reducible apply State.refuseDesc_keeps K1

theorem State.reqPump_keeps (K : Keeps [.out, .regs, .eng, .log, .fab, .host] P) (a0 : List HReq) {a1 : State} (hs : P a1) : P (State.reqPump a0 a1) := by
  have K0 : Keeps [.out, .regs, .log, .fab] P := K.mono rfl
  have K1 : Keeps [.out, .regs, .log, .host] P := K.mono rfl
  have K2 : Keeps [.eng, .log, .host] P := K.mono rfl
  have K3 : Keeps [.out] P := K.mono rfl
  induction a0 generalizing a1 with
  | nil => exact hs
  | cons q t ih =>
    unfold State.reqPump
    repeat' first
      | with_reducible assumption
      | with_reducible apply ih
      | intro _
      | with_reducible apply State.dmaBlock_keeps K0
      | with_reducible apply State.hdmaBlocked_keeps K1
      | with_reducible apply State.copyBlocked_keeps K2
      | with_reducible apply State.emit_keeps K3
      | with_reducible refine ite_keeps ?_ ?_
      | split
      | with_reducible apply K.lit
      | exact Or.inl (by decide)
      | exact Or.inr rfl

theorem State.reqRun_keeps (K : Keeps [.out, .regs, .eng, .log, .fab, .host] P) {s : State} (hs : P s) : P (State.reqRun s) := by
  have K0 : Keeps [.out, .regs, .eng, .log, .fab, .host] P := K.mono rfl
  unfold State.reqRun
  repeat' first
    | with_reducible assumption
    | intro _
    | with_reducible apply State.reqPump_keeps K0

theorem State.reqAdd_keeps (K : Keeps [.out, .regs, .eng, .log, .fab, .host] P) {s : State} (qs : List HReq) (hs : P s) : P (State.reqAdd s qs) := by
  have K0 : Keeps [.out, .regs, .eng, .log, .fab, .host] P := K.mono rfl
  unfold State.reqAdd
  repeat' first
    | with_reducible assumption
    | intro _
    | with_reducible apply State.reqRun_keeps K0
    | with_reducible refine ite_keeps ?_ ?_
    | with_reducible apply K.lit
    | exact Or.inl (by decide)
    | exact Or.inr rfl

theorem State.hdmaSend_keeps (K : Keeps [.out, .swm, .fab] P) {s : State} (d : Desc) (off : Nat) (bs : Bytes) (hs : P s) : P (State.hdmaSend s d off bs) := by
  have K0 : Keeps [.out, .swm, .fab] P := K.mono rfl
  unfold State.hdmaSend
  repeat' first
    | with_reducible assumption
    | intro _
    | with_reducible apply State.sendStreams_keeps K0

theorem State.hdmaArrive_keeps (K : Keeps [.out, .swm, .fab, .host] P) {s : State} (q : HReq) (data : Bytes) (hs : P s) : P (State.hdmaArrive s q data) := by
  have K0 : Keeps [.host] P := K.mono rfl
  have K1 : Keeps [.out, .swm, .fab] P := K.mono rfl
  unfold State.hdmaArrive
  repeat' first
    | with_reducible assumption
    | intro _
    | with_reducible apply State.updDesc_keeps K0
    | with_reducible apply State.hdmaSend_keeps K1
    | with_reducible refine ite_keeps ?_ ?_
    | with_reducible refine ite_fst_keeps ?_ ?_
    | split

theorem State.hwDone_keeps (K : Keeps [.regs, .core, .eng, .host] P) {s : State} (h : HWrite) (hs : P s) : P (State.hwDone s h) := by
  have K0 : Keeps [.regs, .core, .host] P := K.mono rfl
  have K1 : Keeps [.eng] P := K.mono rfl
  unfold State.hwDone
  repeat' first
    | with_reducible assumption
    | intro _
    | with_reducible apply State.hdmaMoved_keeps K0
    | with_reducible apply State.copyAck_keeps K1
    | with_reducible refine ite_keeps ?_ ?_
    | split
    | with_reducible apply K.lit
    | exact Or.inl (by decide)
    | exact Or.inr rfl

theorem State.hwPump_keeps (K : Keeps [.out, .regs, .core, .eng, .log, .fab, .host] P) (a0 : List HWrite) {a1 : State} (a2 : Bool) (hs : P a1) : P (State.hwPump a0 a1 a2) := by
  have K0 : Keeps [.out, .regs, .log, .fab] P := K.mono rfl
  have K1 : Keeps [.out, .regs, .log, .host] P := K.mono rfl
  have K2 : Keeps [.eng, .log, .host] P := K.mono rfl
  have K3 : Keeps [.out] P := K.mono rfl
  have K4 : Keeps [.regs, .core, .eng, .host] P := K.mono rfl
  induction a0 generalizing a1 a2 with
  | nil => exact hs
  | cons q t ih =>
    unfold State.hwPump
    repeat' first
      | with_reducible assumption
      | with_reducible apply ih
      | intro _
      | with_reducible apply State.dmaBlock_keeps K0
      | with_reducible apply State.hdmaBlocked_keeps K1
      | with_reducible apply State.copyBlocked_keeps K2
      | with_reducible apply State.emit_keeps K3
      | with_reducible apply State.hwDone_keeps K4
      | with_reducible refine ite_keeps ?_ ?_
      | split
      | with_reducible apply K.lit
      | exact Or.inl (by decide)
      | exact Or.inr rfl

theorem State.chunkPump_keeps (K : Keeps [.out, .regs, .mem, .core, .eng, .upd, .swm, .cap, .lp, .log, .fab, .host, .wort, .boot] P) (a0 : Nat) {a1 : State} (a2 : Nat) (a3 : Nat) (hs : P a1) : P (State.chunkPump a0 a1 a2 a3) := by
  have K0 : Keeps [.out, .regs, .mem, .core, .eng, .upd, .swm, .cap, .lp, .log, .fab, .host, .wort, .boot] P := K.mono rfl
  have K1 : Keeps [.host] P := K.mono rfl
  induction a0 generalizing a1 a2 a3 with
  | zero => exact hs
  | succ n ih =>
    unfold State.chunkPump
    repeat' first
      | with_reducible assumption
      | with_reducible apply ih
      | intro _
      | with_reducible apply State.memRead_keeps K0
      | with_reducible apply State.hdmaFail_keeps K1
      | with_reducible apply State.updDesc_keeps K1
      | with_reducible refine ite_keeps ?_ ?_
      | with_reducible refine ite_fst_keeps ?_ ?_
      | (with_reducible apply fst_of; with_reducible assumption)
      | split
      | with_reducible apply K.lit
      | exact Or.inl (by decide)
      | exact Or.inr rfl

theorem State.hostRun_keeps (K : Keeps [.out, .regs, .mem, .core, .eng, .upd, .swm, .cap, .lp, .log, .fab, .host, .wort, .boot] P) {s : State} (hs : P s) : P (State.hostRun s) := by
  have K0 : Keeps [.out, .regs, .core, .eng, .log, .fab, .host] P := K.mono rfl
  have K1 : Keeps [.out, .regs, .mem, .core, .eng, .upd, .swm, .cap, .lp, .log, .fab, .host, .wort, .boot] P := K.mono rfl
  have K2 : Keeps [.out, .regs, .eng, .log, .fab, .host] P := K.mono rfl
  unfold State.hostRun
  repeat' first
    | with_reducible assumption
    | intro _
    | with_reducible apply State.hwPump_keeps K0
    | with_reducible apply State.chunkPump_keeps K1
    | with_reducible apply State.reqRun_keeps K2
    | with_reducible refine ite_keeps ?_ ?_
    | with_reducible refine ite_fst_keeps ?_ ?_
    | with_reducible apply foldl_fst_keeps
    | with_reducible apply foldl_keeps

/-! RingOps -/

theorem State.ringActivate_keeps (K : Keeps [.regs, .host] P) {s : State} (ring : Nat) (hs : P s) : P (State.ringActivate s ring) := by
  have K0 : Keeps [.regs] P := K.mono rfl
  have K1 : Keeps [.host] P := K.mono rfl
  unfold State.ringActivate
  repeat' first
    | with_reducible assumption
    | intro _
    | with_reducible apply State.setReg_keeps K0
    | with_reducible apply State.setRing_keeps K1
    | with_reducible apply State.fset_keeps K0

theorem State.refuseWrite_keeps (K : Keeps [.out, .regs, .log] P) {s : State} (reason : Nat) (hs : P s) : P (State.refuseWrite s reason) := by
  have K0 : Keeps [.out, .regs, .log] P := K.mono rfl
  unfold State.refuseWrite
  repeat' first
    | with_reducible assumption
    | intro _
    | with_reducible apply State.hiveRec_keeps K0

theorem State.ringEnable_keeps (K : Keeps [.out, .regs, .log, .host] P) {s : State} (fn : Nat) (ring : Nat) (hs : P s) : P (State.ringEnable s fn ring) := by
  have K0 : Keeps [.host] P := K.mono rfl
  have K1 : Keeps [.regs] P := K.mono rfl
  have K2 : Keeps [.out, .regs, .log] P := K.mono rfl
  have K3 : Keeps [.regs, .host] P := K.mono rfl
  unfold State.ringEnable
  repeat' first
    | with_reducible assumption
    | intro _
    | with_reducible apply State.setRing_keeps K0
    | with_reducible apply State.fset_keeps K1
    | with_reducible apply State.refuseWrite_keeps K2
    | with_reducible apply State.ringActivate_keeps K3
    | with_reducible refine ite_keeps ?_ ?_
    | split

theorem State.ringsReady_keeps (K : Keeps [.out, .regs, .log, .host] P) {s : State} (hs : P s) : P (State.ringsReady s) := by
  have K0 : Keeps [.host] P := K.mono rfl
  have K1 : Keeps [.regs] P := K.mono rfl
  have K2 : Keeps [.out, .regs, .log] P := K.mono rfl
  have K3 : Keeps [.regs, .host] P := K.mono rfl
  unfold State.ringsReady
  repeat' first
    | with_reducible assumption
    | intro _
    | with_reducible apply State.setRing_keeps K0
    | with_reducible apply State.fset_keeps K1
    | with_reducible apply State.refuseWrite_keeps K2
    | with_reducible apply State.ringActivate_keeps K3
    | with_reducible refine ite_keeps ?_ ?_
    | with_reducible refine ite_fst_keeps ?_ ?_
    | split
    | with_reducible apply foldl_fst_keeps
    | with_reducible apply foldl_keeps

theorem State.ringSettle_keeps (K : Keeps [.regs, .host] P) {s : State} (ring : Nat) (hs : P s) : P (State.ringSettle s ring) := by
  have K0 : Keeps [.host] P := K.mono rfl
  have K1 : Keeps [.regs] P := K.mono rfl
  unfold State.ringSettle
  repeat' first
    | with_reducible assumption
    | intro _
    | with_reducible apply State.setRing_keeps K0
    | with_reducible apply State.fset_keeps K1
    | with_reducible refine ite_keeps ?_ ?_
    | with_reducible apply K.lit
    | exact Or.inl (by decide)
    | exact Or.inr rfl

theorem State.ringDisable_keeps (K : Keeps [.regs, .host] P) {s : State} (fn : Nat) (ring : Nat) (hs : P s) : P (State.ringDisable s fn ring) := by
  have K0 : Keeps [.regs] P := K.mono rfl
  have K1 : Keeps [.host] P := K.mono rfl
  have K2 : Keeps [.regs, .host] P := K.mono rfl
  unfold State.ringDisable
  repeat' first
    | with_reducible assumption
    | intro _
    | with_reducible apply State.fset_keeps K0
    | with_reducible apply State.setRing_keeps K1
    | with_reducible apply State.ringSettle_keeps K2
    | with_reducible refine ite_keeps ?_ ?_

theorem State.ringFreeze_keeps (K : Keeps [.regs, .host] P) {s : State} (ring : Nat) (bme : Bool) (hs : P s) : P (State.ringFreeze s ring bme) := by
  have K0 : Keeps [.host] P := K.mono rfl
  have K1 : Keeps [.regs] P := K.mono rfl
  unfold State.ringFreeze
  repeat' first
    | with_reducible assumption
    | intro _
    | with_reducible apply State.setRing_keeps K0
    | with_reducible apply State.fset_keeps K1
    | with_reducible refine ite_keeps ?_ ?_

theorem State.ringThaw_keeps (K : Keeps [.regs, .host] P) {s : State} (ring : Nat) (hs : P s) : P (State.ringThaw s ring) := by
  have K0 : Keeps [.host] P := K.mono rfl
  have K1 : Keeps [.regs] P := K.mono rfl
  have K2 : Keeps [.regs, .host] P := K.mono rfl
  unfold State.ringThaw
  repeat' first
    | with_reducible assumption
    | intro _
    | with_reducible apply State.setRing_keeps K0
    | with_reducible apply State.fset_keeps K1
    | with_reducible apply State.ringSettle_keeps K2
    | with_reducible refine ite_keeps ?_ ?_

theorem State.ringDrop_keeps (K : Keeps [.regs, .host] P) {s : State} (ring : Nat) (hs : P s) : P (State.ringDrop s ring) := by
  have K0 : Keeps [.host] P := K.mono rfl
  have K1 : Keeps [.regs] P := K.mono rfl
  unfold State.ringDrop
  repeat' first
    | with_reducible assumption
    | intro _
    | with_reducible apply State.reqDrop_keeps K0
    | with_reducible apply State.setRing_keeps K0
    | with_reducible apply State.setReg_keeps K1
    | with_reducible apply State.fset_keeps K1
    | with_reducible refine ite_keeps ?_ ?_
    | split
    | with_reducible apply K.lit
    | exact Or.inl (by decide)
    | exact Or.inr rfl

/-! CoreCmds -/

theorem execNop_keeps (K : Keeps [.free, .out, .regs, .mem, .core, .eng, .upd, .swm, .cap, .lp, .log, .fab, .host, .wort, .boot] P) (core : CoreId) {s : State} (hs : P s) : ∃ t, execNop core s = .next t ∧ P t := by
  have K0 : Keeps [.free, .out, .regs, .mem, .core, .eng, .upd, .swm, .cap, .lp, .log, .fab, .host, .wort, .boot] P := K.mono rfl
  have K1 : Keeps [.regs, .core, .log, .host] P := K.mono rfl
  have K2 : Keeps [.regs, .core, .host] P := K.mono rfl
  refine ⟨_, rfl, ?_⟩
  repeat' first
    | with_reducible assumption
    | intro _
    | with_reducible apply State.issue_keeps K0
    | with_reducible apply State.refuseOr_keeps K1
    | with_reducible apply State.completeOK_keeps K2

theorem State.endKernel_keeps (K : Keeps [.regs, .core, .host] P) {s : State} (core : Nat) (hs : P s) : P (State.endKernel s core) := by
  have K0 : Keeps [.core] P := K.mono rfl
  have K1 : Keeps [.regs, .core, .host] P := K.mono rfl
  unfold State.endKernel
  repeat' first
    | with_reducible assumption
    | intro _
    | with_reducible apply State.setCoreRec_keeps K0
    | with_reducible apply State.kernelTryEnd_keeps K1

theorem execEndK_keeps (K : Keeps [.free, .out, .regs, .mem, .core, .eng, .upd, .swm, .cap, .lp, .log, .fab, .host, .wort, .boot] P) (core : CoreId) {s : State} (hs : P s) : ∃ t, execEndK core s = .next t ∧ P t := by
  have K0 : Keeps [.free, .out, .regs, .mem, .core, .eng, .upd, .swm, .cap, .lp, .log, .fab, .host, .wort, .boot] P := K.mono rfl
  have K1 : Keeps [.regs, .core, .log, .host] P := K.mono rfl
  have K2 : Keeps [.regs, .core, .host] P := K.mono rfl
  refine ⟨_, rfl, ?_⟩
  repeat' first
    | with_reducible assumption
    | intro _
    | with_reducible apply State.issue_keeps K0
    | with_reducible apply State.refuseOr_keeps K1
    | with_reducible apply State.completeOK_keeps K2
    | with_reducible apply State.endKernel_keeps K2

theorem execChain_keeps (K : Keeps [.free, .out, .regs, .mem, .core, .eng, .upd, .swm, .cap, .lp, .log, .fab, .host, .wort, .boot] P) (core : CoreId) {s : State} (hs : P s) : ∃ t, execChain core s = .next t ∧ P t := by
  have K0 : Keeps [.free, .out, .regs, .mem, .core, .eng, .upd, .swm, .cap, .lp, .log, .fab, .host, .wort, .boot] P := K.mono rfl
  have K1 : Keeps [.regs, .core, .log, .host] P := K.mono rfl
  have K2 : Keeps [.core] P := K.mono rfl
  have K3 : Keeps [.regs] P := K.mono rfl
  have K4 : Keeps [.regs, .core, .host] P := K.mono rfl
  refine ⟨_, rfl, ?_⟩
  repeat' first
    | with_reducible assumption
    | intro _
    | with_reducible apply State.issue_keeps K0
    | with_reducible apply State.refuseOr_keeps K1
    | with_reducible apply State.setCoreRec_keeps K2
    | with_reducible apply State.fetch_keeps K0
    | with_reducible apply State.setCoreState_keeps K3
    | with_reducible apply State.completeOK_keeps K4

theorem execWait_keeps (K : Keeps [.free, .out, .regs, .mem, .core, .eng, .upd, .swm, .cap, .lp, .log, .fab, .host, .wort, .boot] P) (core : CoreId) {s : State} (hs : P s) : ∃ t, execWait core s = .next t ∧ P t := by
  have K0 : Keeps [.free, .out, .regs, .mem, .core, .eng, .upd, .swm, .cap, .lp, .log, .fab, .host, .wort, .boot] P := K.mono rfl
  have K1 : Keeps [.regs, .core, .log, .host] P := K.mono rfl
  have K2 : Keeps [.regs, .core, .host] P := K.mono rfl
  have K3 : Keeps [.core] P := K.mono rfl
  have K4 : Keeps [.regs] P := K.mono rfl
  refine ⟨_, rfl, ?_⟩
  repeat' first
    | with_reducible assumption
    | intro _
    | with_reducible apply State.issue_keeps K0
    | with_reducible apply State.refuseOr_keeps K1
    | with_reducible apply State.completeOK_keeps K2
    | with_reducible apply State.setCoreRec_keeps K3
    | with_reducible apply State.setCoreState_keeps K4
    | with_reducible refine ite_keeps ?_ ?_

theorem State.countStale_keeps (K : Keeps [.regs] P) {s : State} (die : Nat) (hs : P s) : P (State.countStale s die) := by
  have K0 : Keeps [.regs] P := K.mono rfl
  unfold State.countStale
  repeat' first
    | with_reducible assumption
    | intro _
    | with_reducible apply State.finc_keeps K0

theorem State.sigAct_keeps (K : Keeps [.out, .regs, .core, .swm, .fab, .host] P) {s : State} (core : Nat) (seq : Nat) (w : CmdWord) (hs : P s) : P (State.sigAct s core seq w) := by
  have K0 : Keeps [.regs] P := K.mono rfl
  have K1 : Keeps [.regs, .core, .host] P := K.mono rfl
  have K2 : Keeps [.out, .swm, .fab] P := K.mono rfl
  unfold State.sigAct
  repeat' first
    | with_reducible assumption
    | intro _
    | with_reducible apply State.countStale_keeps K0
    | with_reducible apply State.completeRaw_keeps K1
    | with_reducible apply State.sendAdd_keeps K2
    | with_reducible apply State.completeOK_keeps K1
    | with_reducible apply State.cntAdd_keeps K1
    | with_reducible refine ite_keeps ?_ ?_

theorem State.sigsTry_keeps (K : Keeps [.out, .regs, .core, .swm, .fab, .host] P) {s : State} (core : Nat) (hs : P s) : P (State.sigsTry s core) := by
  have K0 : Keeps [.core] P := K.mono rfl
  have K1 : Keeps [.out, .regs, .core, .swm, .fab, .host] P := K.mono rfl
  unfold State.sigsTry
  repeat' first
    | with_reducible assumption
    | intro _
    | with_reducible apply State.setCoreRec_keeps K0
    | with_reducible apply State.sigAct_keeps K1
    | with_reducible refine ite_keeps ?_ ?_
    | with_reducible refine ite_fst_keeps ?_ ?_
    | with_reducible apply foldl_fst_keeps
    | with_reducible apply foldl_keeps

theorem execSig_keeps (K : Keeps [.free, .out, .regs, .mem, .core, .eng, .upd, .swm, .cap, .lp, .log, .fab, .host, .wort, .boot] P) (core : CoreId) {s : State} (hs : P s) : ∃ t, execSig core s = .next t ∧ P t := by
  have K0 : Keeps [.free, .out, .regs, .mem, .core, .eng, .upd, .swm, .cap, .lp, .log, .fab, .host, .wort, .boot] P := K.mono rfl
  have K1 : Keeps [.regs, .core, .log, .host] P := K.mono rfl
  have K2 : Keeps [.core] P := K.mono rfl
  have K3 : Keeps [.out, .regs, .core, .swm, .fab, .host] P := K.mono rfl
  refine ⟨_, rfl, ?_⟩
  repeat' first
    | with_reducible assumption
    | intro _
    | with_reducible apply State.issue_keeps K0
    | with_reducible apply State.refuseOr_keeps K1
    | with_reducible apply State.setCoreRec_keeps K2
    | with_reducible apply State.sigAct_keeps K3
    | with_reducible refine ite_keeps ?_ ?_

theorem execCset_keeps (K : Keeps [.free, .out, .regs, .mem, .core, .eng, .upd, .swm, .cap, .lp, .log, .fab, .host, .wort, .boot] P) (core : CoreId) {s : State} (hs : P s) : ∃ t, execCset core s = .next t ∧ P t := by
  have K0 : Keeps [.free, .out, .regs, .mem, .core, .eng, .upd, .swm, .cap, .lp, .log, .fab, .host, .wort, .boot] P := K.mono rfl
  have K1 : Keeps [.regs, .core, .log, .host] P := K.mono rfl
  have K2 : Keeps [.regs, .core, .host] P := K.mono rfl
  refine ⟨_, rfl, ?_⟩
  repeat' first
    | with_reducible assumption
    | intro _
    | with_reducible apply State.issue_keeps K0
    | with_reducible apply State.refuseOr_keeps K1
    | with_reducible apply State.completeOK_keeps K2
    | with_reducible apply State.cntSet_keeps K2

theorem State.setBar_keeps (K : Keeps [.core] P) {s : State} (die : Nat) (u : Nat) (b : BarRec) (hs : P s) : P (State.setBar s die u b) := by
  unfold State.setBar
  repeat' first
    | with_reducible assumption
    | intro _
    | with_reducible refine ite_keeps ?_ ?_
    | with_reducible apply K.lit
    | exact Or.inl (by decide)
    | exact Or.inr rfl

theorem State.barLeave_keeps (K : Keeps [.regs, .core, .host] P) {s : State} (unit : Nat) (core : Nat) (hs : P s) : P (State.barLeave s unit core) := by
  have K0 : Keeps [.core] P := K.mono rfl
  have K1 : Keeps [.regs] P := K.mono rfl
  have K2 : Keeps [.regs, .core, .host] P := K.mono rfl
  unfold State.barLeave
  repeat' first
    | with_reducible assumption
    | intro _
    | with_reducible apply State.setCoreRec_keeps K0
    | with_reducible apply State.setCoreState_keeps K1
    | with_reducible apply State.completeRaw_keeps K2
    | with_reducible refine ite_keeps ?_ ?_

theorem State.barArrive_keeps (K : Keeps [.regs, .core, .host] P) {s : State} (core : Nat) (unit : Nat) (npart : Nat) (hs : P s) : P (State.barArrive s core unit npart) := by
  have K0 : Keeps [.core] P := K.mono rfl
  have K1 : Keeps [.regs] P := K.mono rfl
  have K2 : Keeps [.regs, .core, .host] P := K.mono rfl
  unfold State.barArrive
  repeat' first
    | with_reducible assumption
    | intro _
    | with_reducible apply State.setCoreRec_keeps K0
    | with_reducible apply State.setCoreState_keeps K1
    | with_reducible apply State.barLeave_keeps K2
    | with_reducible apply State.setBar_keeps K0
    | with_reducible refine ite_keeps ?_ ?_
    | with_reducible refine ite_fst_keeps ?_ ?_
    | with_reducible apply foldl_fst_keeps
    | with_reducible apply foldl_keeps

theorem execBar_keeps (K : Keeps [.free, .out, .regs, .mem, .core, .eng, .upd, .swm, .cap, .lp, .log, .fab, .host, .wort, .boot] P) (core : CoreId) {s : State} (hs : P s) : ∃ t, execBar core s = .next t ∧ P t := by
  have K0 : Keeps [.free, .out, .regs, .mem, .core, .eng, .upd, .swm, .cap, .lp, .log, .fab, .host, .wort, .boot] P := K.mono rfl
  have K1 : Keeps [.regs, .core, .log, .host] P := K.mono rfl
  have K2 : Keeps [.regs, .core, .host] P := K.mono rfl
  refine ⟨_, rfl, ?_⟩
  repeat' first
    | with_reducible assumption
    | intro _
    | with_reducible apply State.issue_keeps K0
    | with_reducible apply State.refuseOr_keeps K1
    | with_reducible apply State.barArrive_keeps K2

theorem execWaitTimeout_keeps (K : Keeps [.regs, .core, .log, .host] P) (core : CoreId) {s : State} (hs : P s) : ∃ t, execWaitTimeout core s = .next t ∧ P t := by
  have K0 : Keeps [.log] P := K.mono rfl
  have K1 : Keeps [.core] P := K.mono rfl
  have K2 : Keeps [.regs] P := K.mono rfl
  have K3 : Keeps [.regs, .core, .host] P := K.mono rfl
  refine ⟨_, rfl, ?_⟩
  repeat' first
    | with_reducible assumption
    | intro _
    | with_reducible apply State.dieRec_keeps K0
    | with_reducible apply State.setCoreRec_keeps K1
    | with_reducible apply State.setCoreState_keeps K2
    | with_reducible apply State.completeRaw_keeps K3
    | with_reducible refine ite_keeps ?_ ?_
    | split

theorem execCoreStallResume_keeps (K : Keeps [.free, .out, .regs, .mem, .core, .eng, .upd, .swm, .cap, .lp, .log, .fab, .host, .wort, .boot] P) (core : CoreId) {s : State} (hs : P s) : ∃ t, execCoreStallResume core s = .next t ∧ P t := by
  have K0 : Keeps [.free, .out, .regs, .mem, .core, .eng, .upd, .swm, .cap, .lp, .log, .fab, .host, .wort, .boot] P := K.mono rfl
  have K1 : Keeps [.core] P := K.mono rfl
  have K2 : Keeps [.regs] P := K.mono rfl
  refine ⟨_, rfl, ?_⟩
  repeat' first
    | with_reducible assumption
    | intro _
    | with_reducible apply State.fetch_keeps K0
    | with_reducible apply State.fillBuf_keeps K0
    | with_reducible apply State.arrived_keeps K0
    | with_reducible apply State.setCoreRec_keeps K1
    | with_reducible apply State.setCoreState_keeps K2
    | with_reducible refine ite_keeps ?_ ?_

/-! CopyOps -/

theorem State.ceBusy_keeps (K : Keeps [.regs] P) {s : State} (die : Nat) (e : Nat) (hs : P s) : P (State.ceBusy s die e) := by
  have K0 : Keeps [.regs] P := K.mono rfl
  unfold State.ceBusy
  repeat' first
    | with_reducible assumption
    | intro _
    | with_reducible apply State.fsetBit_keeps K0

theorem State.setCeQ_keeps (K : Keeps [.regs, .eng] P) {s : State} (die : Nat) (e : Nat) (q : List Job) (hs : P s) : P (State.setCeQ s die e q) := by
  have K0 : Keeps [.regs] P := K.mono rfl
  unfold State.setCeQ
  repeat' first
    | with_reducible assumption
    | intro _
    | with_reducible apply State.ceBusy_keeps K0
    | with_reducible refine ite_keeps ?_ ?_
    | with_reducible apply K.lit
    | exact Or.inl (by decide)
    | exact Or.inr rfl

theorem State.copyToHost_keeps (K : Keeps [.out, .regs, .mem, .core, .eng, .upd, .swm, .cap, .lp, .log, .fab, .host, .wort, .boot] P) {s : State} (j : Job) (addr : Nat) (bs : Bytes) (hs : P s) : P (State.copyToHost s j addr bs) := by
  have K0 : Keeps [.eng] P := K.mono rfl
  have K1 : Keeps [.out, .swm, .fab] P := K.mono rfl
  have K2 : Keeps [.out, .regs, .mem, .core, .eng, .upd, .swm, .cap, .lp, .log, .fab, .host, .wort, .boot] P := K.mono rfl
  unfold State.copyToHost
  repeat' first
    | with_reducible assumption
    | intro _
    | with_reducible apply State.mapCopy_keeps K0
    | with_reducible apply State.xferStart_keeps K1
    | with_reducible apply State.hostRun_keeps K2
    | with_reducible refine ite_keeps ?_ ?_
    | with_reducible apply K.lit
    | exact Or.inl (by decide)
    | exact Or.inr rfl

theorem State.copyDeliver_keeps (K : Keeps [.out, .regs, .mem, .core, .eng, .upd, .swm, .cap, .lp, .log, .fab, .host, .wort, .boot] P) {s : State} (j : Job) (bs : Bytes) (hs : P s) : P (State.copyDeliver s j bs) := by
  have K0 : Keeps [.eng] P := K.mono rfl
  have K1 : Keeps [.out, .swm, .fab] P := K.mono rfl
  have K2 : Keeps [.out, .regs, .mem, .core, .eng, .upd, .swm, .cap, .lp, .log, .fab, .host, .wort, .boot] P := K.mono rfl
  unfold State.copyDeliver
  repeat' first
    | with_reducible assumption
    | intro _
    | with_reducible apply State.mapCopy_keeps K0
    | with_reducible apply State.sendStreams_keeps K1
    | with_reducible apply State.copyToHost_keeps K2
    | with_reducible refine ite_keeps ?_ ?_
    | split
    | extract_lets

theorem State.copyReads_keeps (K : Keeps [.out, .regs, .mem, .core, .eng, .upd, .swm, .cap, .lp, .log, .fab, .host, .wort, .boot] P) {s : State} (die : Nat) (off : Nat) (j : Job) (hs : P s) : P (State.copyReads s die off j).1 := by
  have K0 : Keeps [.out, .regs, .mem, .core, .eng, .upd, .swm, .cap, .lp, .log, .fab, .host, .wort, .boot] P := K.mono rfl
  unfold State.copyReads
  repeat' first
    | with_reducible assumption
    | intro _
    | with_reducible apply State.memReads_keeps K0

theorem State.copyFetch_keeps (K : Keeps [.out, .regs, .mem, .core, .eng, .upd, .swm, .cap, .lp, .log, .fab, .host, .wort, .boot] P) {s : State} (j : Job) (hs : P s) : P (State.copyFetch s j) := by
  have K0 : Keeps [.out, .regs, .mem, .core, .eng, .upd, .swm, .cap, .lp, .log, .fab, .host, .wort, .boot] P := K.mono rfl
  have K1 : Keeps [.eng] P := K.mono rfl
  have K2 : Keeps [.out, .swm, .fab] P := K.mono rfl
  have K3 : Keeps [.out, .regs, .eng, .log, .fab, .host] P := K.mono rfl
  unfold State.copyFetch
  repeat' first
    | with_reducible assumption
    | intro _
    | with_reducible apply State.copyReads_keeps K0
    | with_reducible apply State.mapCopy_keeps K1
    | with_reducible apply State.copyDeliver_keeps K0
    | with_reducible apply State.sendRdreq_keeps K2
    | with_reducible apply State.reqAdd_keeps K3
    | with_reducible refine ite_keeps ?_ ?_
    | with_reducible refine ite_fst_keeps ?_ ?_
    | (with_reducible apply fst_of; with_reducible assumption)
    | split
    | extract_lets

theorem State.copyTake_keeps (K : Keeps [.out, .regs, .mem, .core, .eng, .upd, .swm, .cap, .lp, .log, .fab, .host, .wort, .boot] P) {s : State} (die : Nat) (e : Nat) (j : Job) (hs : P s) : P (State.copyTake s die e j) := by
  have K0 : Keeps [.regs, .eng] P := K.mono rfl
  have K1 : Keeps [.log] P := K.mono rfl
  have K2 : Keeps [.out, .regs, .log, .fab] P := K.mono rfl
  have K3 : Keeps [.out, .regs, .mem, .core, .eng, .upd, .swm, .cap, .lp, .log, .fab, .host, .wort, .boot] P := K.mono rfl
  unfold State.copyTake
  repeat' first
    | with_reducible assumption
    | intro _
    | with_reducible apply State.setCeQ_keeps K0
    | with_reducible apply State.refuseRec_keeps K1
    | with_reducible apply State.dmaBlock_keeps K2
    | with_reducible apply State.copyFetch_keeps K3
    | with_reducible refine ite_keeps ?_ ?_
    | split

theorem State.cePump_keeps (K : Keeps [.out, .regs, .mem, .core, .eng, .upd, .swm, .cap, .lp, .log, .fab, .host, .wort, .boot] P) (a0 : Nat) {a1 : State} (a2 : Nat) (a3 : Nat) (hs : P a1) : P (State.cePump a0 a1 a2 a3) := by
  have K0 : Keeps [.out, .regs, .mem, .core, .eng, .upd, .swm, .cap, .lp, .log, .fab, .host, .wort, .boot] P := K.mono rfl
  induction a0 generalizing a1 a2 a3 with
  | zero => exact hs
  | succ n ih =>
    unfold State.cePump
    repeat' first
      | with_reducible assumption
      | with_reducible apply ih
      | intro _
      | with_reducible apply State.copyTake_keeps K0
      | with_reducible refine ite_keeps ?_ ?_
      | split
      | extract_lets

theorem State.ceRun_keeps (K : Keeps [.out, .regs, .mem, .core, .eng, .upd, .swm, .cap, .lp, .log, .fab, .host, .wort, .boot] P) {s : State} (die : Nat) (e : Nat) (hs : P s) : P (State.ceRun s die e) := by
  have K0 : Keeps [.out, .regs, .mem, .core, .eng, .upd, .swm, .cap, .lp, .log, .fab, .host, .wort, .boot] P := K.mono rfl
  unfold State.ceRun
  repeat' first
    | with_reducible assumption
    | intro _
    | with_reducible apply State.cePump_keeps K0

theorem State.ceRunAll_keeps (K : Keeps [.out, .regs, .mem, .core, .eng, .upd, .swm, .cap, .lp, .log, .fab, .host, .wort, .boot] P) {s : State} (die : Nat) (hs : P s) : P (State.ceRunAll s die) := by
  have K0 : Keeps [.out, .regs, .mem, .core, .eng, .upd, .swm, .cap, .lp, .log, .fab, .host, .wort, .boot] P := K.mono rfl
  unfold State.ceRunAll
  repeat' first
    | with_reducible assumption
    | intro _
    | with_reducible apply State.ceRun_keeps K0
    | with_reducible refine ite_keeps ?_ ?_
    | with_reducible refine ite_fst_keeps ?_ ?_
    | with_reducible apply foldl_fst_keeps
    | with_reducible apply foldl_keeps

theorem State.xfersEnd_keeps (K : Keeps [.fab] P) {s : State} (tgt : Nat) (p : Xfer → Bool) (hs : P s) : P (State.xfersEnd s tgt p) := by
  have K0 : Keeps [.fab] P := K.mono rfl
  unfold State.xfersEnd
  repeat' first
    | with_reducible assumption
    | intro _
    | with_reducible apply State.xferEnd_keeps K0
    | with_reducible refine ite_keeps ?_ ?_
    | with_reducible refine ite_fst_keeps ?_ ?_
    | with_reducible apply foldl_fst_keeps
    | with_reducible apply foldl_keeps

theorem State.copyDone_keeps (K : Keeps [.out, .regs, .mem, .core, .eng, .upd, .swm, .cap, .lp, .log, .fab, .host, .wort, .boot] P) {s : State} (die : Nat) (e : Nat) (j : Job) (rest : List Job) (hs : P s) : P (State.copyDone s die e j rest) := by
  have K0 : Keeps [.regs, .eng] P := K.mono rfl
  have K1 : Keeps [.fab] P := K.mono rfl
  have K2 : Keeps [.out, .regs, .mem, .core, .eng, .upd, .swm, .cap, .lp, .log, .fab, .host, .wort, .boot] P := K.mono rfl
  have K3 : Keeps [.regs, .core, .host] P := K.mono rfl
  have K4 : Keeps [.regs] P := K.mono rfl
  have K5 : Keeps [.out, .regs, .core, .swm, .fab, .host] P := K.mono rfl
  unfold State.copyDone
  repeat' first
    | with_reducible assumption
    | intro _
    | with_reducible apply State.setCeQ_keeps K0
    | with_reducible apply State.xfersEnd_keeps K1
    | with_reducible apply State.memWrites_keeps K2
    | with_reducible apply State.cntAdd_keeps K3
    | with_reducible apply State.fsetBit_keeps K4
    | with_reducible apply State.countStale_keeps K4
    | with_reducible apply State.finish_keeps K2
    | with_reducible apply State.sigsTry_keeps K5
    | with_reducible apply State.ceRun_keeps K2
    | with_reducible refine ite_keeps ?_ ?_
    | with_reducible refine ite_fst_keeps ?_ ?_

/-! NetOps -/

theorem State.noteDrop_keeps (K : Keeps [.fab] P) {s : State} (code : Nat) (n : Nat) (hs : P s) : P (State.noteDrop s code n) := by
  unfold State.noteDrop
  repeat' first
    | with_reducible assumption
    | intro _
    | with_reducible refine ite_keeps ?_ ?_
    | with_reducible apply K.lit
    | exact Or.inl (by decide)
    | exact Or.inr rfl

theorem State.fabRec_keeps (K : Keeps [.out, .regs, .log, .fab] P) {s : State} (code : Nat) (sev : Nat) (port : Nat) (st : Nat) (reason : Nat) (gen : Nat) (hs : P s) : P (State.fabRec s code sev port st reason gen) := by
  have K0 : Keeps [.out, .regs, .log] P := K.mono rfl
  unfold State.fabRec
  repeat' first
    | with_reducible assumption
    | intro _
    | with_reducible apply State.hiveRec_keeps K0
    | with_reducible refine ite_keeps ?_ ?_
    | with_reducible apply K.lit
    | exact Or.inl (by decide)
    | exact Or.inr rfl

theorem State.nackCell_keeps (K : Keeps [.out] P) {s : State} (stgt : Nat) (status : Nat) (cause : Nat) (c : CellW) (hs : P s) : P (State.nackCell s stgt status cause c) := by
  have K0 : Keeps [.out] P := K.mono rfl
  unfold State.nackCell
  repeat' first
    | with_reducible assumption
    | intro _
    | with_reducible apply State.sendNack_keeps K0
    | with_reducible refine ite_keeps ?_ ?_

theorem State.dropJob_keeps (K : Keeps [.out, .regs, .log, .fab] P) {s : State} (port : Nat) (c : CellW) (hs : P s) : P (State.dropJob s port c) := by
  have K0 : Keeps [.regs] P := K.mono rfl
  have K1 : Keeps [.fab] P := K.mono rfl
  have K2 : Keeps [.out] P := K.mono rfl
  have K3 : Keeps [.out, .regs, .log, .fab] P := K.mono rfl
  unfold State.dropJob
  repeat' first
    | with_reducible assumption
    | intro _
    | with_reducible apply State.finc_keeps K0
    | with_reducible apply State.noteDrop_keeps K1
    | with_reducible apply State.nackCell_keeps K2
    | with_reducible apply State.paced_keeps K1
    | with_reducible apply State.fabRec_keeps K3

theorem State.niCell_keeps (K : Keeps [.out, .regs, .log, .fab] P) {s : State} (die : Nat) (c : CellW) (f : State → State) (hs : P s) (hf : ∀ (x0 : State), P x0 → P (f x0)) : P (State.niCell s die c f) := by
  have K0 : Keeps [.fab] P := K.mono rfl
  have K1 : Keeps [.out, .regs, .log, .fab] P := K.mono rfl
  unfold State.niCell
  repeat' first
    | with_reducible assumption
    | intro _
    | with_reducible apply State.absorb_keeps K0
    | with_reducible apply State.dropJob_keeps K1
    | with_reducible refine ite_keeps ?_ ?_
    | with_reducible apply hf

theorem State.pgenCount_keeps (K : Keeps [.fab] P) {s : State} (die : Nat) (hs : P s) : P (State.pgenCount s die) := by
  unfold State.pgenCount
  repeat' first
    | with_reducible assumption
    | intro _
    | with_reducible refine ite_keeps ?_ ?_
    | with_reducible apply K.lit
    | exact Or.inl (by decide)
    | exact Or.inr rfl

theorem State.niRefuse_keeps (K : Keeps [.out] P) {s : State} (die : Nat) (c : CellW) (hs : P s) : P (State.niRefuse s die c) := by
  have K0 : Keeps [.out] P := K.mono rfl
  unfold State.niRefuse
  repeat' first
    | with_reducible assumption
    | intro _
    | with_reducible apply State.nackCell_keeps K0

theorem State.rxClose_keeps (K : Keeps [.out, .regs, .mem, .core, .eng, .upd, .swm, .cap, .lp, .log, .fab, .host, .wort, .boot] P) {s : State} (die : Nat) (x : RxCtx) (hs : P s) : P (State.rxClose s die x) := by
  have K0 : Keeps [.out, .regs, .mem, .core, .eng, .upd, .swm, .cap, .lp, .log, .fab, .host, .wort, .boot] P := K.mono rfl
  have K1 : Keeps [.regs, .fab] P := K.mono rfl
  have K2 : Keeps [.regs, .eng, .fab] P := K.mono rfl
  have K3 : Keeps [.out] P := K.mono rfl
  have K4 : Keeps [.regs, .core, .host] P := K.mono rfl
  unfold State.rxClose
  repeat' first
    | with_reducible assumption
    | intro _
    | with_reducible apply State.wcbFlush_keeps K0
    | with_reducible apply State.setRx_keeps K1
    | with_reducible apply State.markBad_keeps K2
    | with_reducible apply State.sendNack_keeps K3
    | with_reducible apply State.cntAdd_keeps K4
    | with_reducible apply State.sendAck_keeps K3
    | with_reducible refine ite_keeps ?_ ?_

theorem State.rxData_keeps (K : Keeps [.out, .regs, .mem, .core, .eng, .upd, .swm, .cap, .lp, .log, .fab, .host, .wort, .boot] P) {s : State} (die : Nat) (x : RxCtx) (c : CellW) (hs : P s) : P (State.rxData s die x c) := by
  have K0 : Keeps [.fab] P := K.mono rfl
  have K1 : Keeps [.out] P := K.mono rfl
  have K2 : Keeps [.cap] P := K.mono rfl
  have K3 : Keeps [.eng] P := K.mono rfl
  have K4 : Keeps [.out, .regs, .mem, .core, .eng, .upd, .swm, .cap, .lp, .log, .fab, .host, .wort, .boot] P := K.mono rfl
  have K5 : Keeps [.regs, .fab] P := K.mono rfl
  have K6 : Keeps [.regs, .eng, .fab] P := K.mono rfl
  unfold State.rxData
  repeat' first
    | with_reducible assumption
    | intro _
    | with_reducible apply State.pgenCount_keeps K0
    | with_reducible apply State.sendNack_keeps K1
    | with_reducible apply State.recordSour_keeps K2
    | with_reducible apply State.mapCopy_keeps K3
    | with_reducible apply State.memWrite_keeps K4
    | with_reducible apply State.setRx_keeps K5
    | with_reducible apply State.markBad_keeps K6
    | with_reducible apply State.rxClose_keeps K4
    | with_reducible refine ite_keeps ?_ ?_
    | with_reducible refine ite_fst_keeps ?_ ?_
    | split
    | with_reducible apply foldl_fst_keeps
    | with_reducible apply foldl_keeps
    | extract_lets

theorem State.rxCell_keeps (K : Keeps [.out, .regs, .mem, .core, .eng, .upd, .swm, .cap, .lp, .log, .fab, .host, .wort, .boot] P) {s : State} (die : Nat) (c : CellW) (hs : P s) : P (State.rxCell s die c) := by
  have K0 : Keeps [.out, .regs, .mem, .core, .eng, .upd, .swm, .cap, .lp, .log, .fab, .host, .wort, .boot] P := K.mono rfl
  have K1 : Keeps [.out, .regs, .log, .fab] P := K.mono rfl
  have K2 : Keeps [.regs] P := K.mono rfl
  have K3 : Keeps [.out] P := K.mono rfl
  unfold State.rxCell
  repeat' first
    | with_reducible assumption
    | intro _
    | with_reducible apply State.rxData_keeps K0
    | with_reducible apply State.dropJob_keeps K1
    | with_reducible apply State.finc_keeps K2
    | with_reducible apply State.nackCell_keeps K3
    | with_reducible refine ite_keeps ?_ ?_
    | split
    | with_reducible apply K.lit
    | exact Or.inl (by decide)
    | exact Or.inr rfl

theorem State.rxStart_keeps (K : Keeps [.out, .regs, .mem, .core, .eng, .upd, .swm, .cap, .lp, .log, .fab, .host, .wort, .boot] P) {s : State} (die : Nat) (c : CellW) (hs : P s) : P (State.rxStart s die c) := by
  have K0 : Keeps [.fab] P := K.mono rfl
  have K1 : Keeps [.out] P := K.mono rfl
  have K2 : Keeps [.regs, .fab] P := K.mono rfl
  have K3 : Keeps [.out, .regs, .mem, .core, .eng, .upd, .swm, .cap, .lp, .log, .fab, .host, .wort, .boot] P := K.mono rfl
  unfold State.rxStart
  repeat' first
    | with_reducible assumption
    | intro _
    | with_reducible apply State.pgenCount_keeps K0
    | with_reducible apply State.nackCell_keeps K1
    | with_reducible apply State.niRefuse_keeps K1
    | with_reducible apply State.setRx_keeps K2
    | with_reducible apply State.rxCell_keeps K3
    | with_reducible refine ite_keeps ?_ ?_
    | with_reducible refine ite_fst_keeps ?_ ?_
    | with_reducible apply foldl_fst_keeps
    | with_reducible apply foldl_keeps
    | with_reducible apply K.lit
    | exact Or.inl (by decide)
    | exact Or.inr rfl

theorem State.niWrite_keeps (K : Keeps [.out, .regs, .mem, .core, .eng, .upd, .swm, .cap, .lp, .log, .fab, .host, .wort, .boot] P) {s : State} (die : Nat) (c : CellW) (hs : P s) : P (State.niWrite s die c) := by
  have K0 : Keeps [.fab] P := K.mono rfl
  have K1 : Keeps [.out] P := K.mono rfl
  have K2 : Keeps [.out, .regs, .mem, .core, .eng, .upd, .swm, .cap, .lp, .log, .fab, .host, .wort, .boot] P := K.mono rfl
  unfold State.niWrite
  repeat' first
    | with_reducible assumption
    | intro _
    | with_reducible apply State.pgenCount_keeps K0
    | with_reducible apply State.nackCell_keeps K1
    | with_reducible apply State.niRefuse_keeps K1
    | with_reducible apply State.memWrites_keeps K2
    | with_reducible apply State.sendAck_keeps K1
    | with_reducible refine ite_keeps ?_ ?_
    | with_reducible refine ite_fst_keeps ?_ ?_
    | (with_reducible apply fst_of; with_reducible assumption)
    | split
    | extract_lets

theorem State.niAdd_keeps (K : Keeps [.out, .regs, .core, .fab, .host] P) {s : State} (die : Nat) (c : CellW) (hs : P s) : P (State.niAdd s die c) := by
  have K0 : Keeps [.fab] P := K.mono rfl
  have K1 : Keeps [.out] P := K.mono rfl
  have K2 : Keeps [.regs, .core, .host] P := K.mono rfl
  unfold State.niAdd
  repeat' first
    | with_reducible assumption
    | intro _
    | with_reducible apply State.pgenCount_keeps K0
    | with_reducible apply State.nackCell_keeps K1
    | with_reducible apply State.cntAdd_keeps K2
    | with_reducible apply State.sendAck_keeps K1
    | with_reducible apply State.niRefuse_keeps K1
    | with_reducible refine ite_keeps ?_ ?_

theorem State.rdAnswer_keeps (K : Keeps [.out, .swm, .fab] P) {s : State} (tgt : Nat) (c : CellW) (bs : Bytes) (hs : P s) : P (State.rdAnswer s tgt c bs) := by
  have K0 : Keeps [.out, .swm, .fab] P := K.mono rfl
  unfold State.rdAnswer
  repeat' first
    | with_reducible assumption
    | intro _
    | with_reducible apply State.sendStreams_keeps K0

theorem State.niRead_keeps (K : Keeps [.out, .regs, .mem, .core, .eng, .upd, .swm, .cap, .lp, .log, .fab, .host, .wort, .boot] P) {s : State} (die : Nat) (c : CellW) (hs : P s) : P (State.niRead s die c) := by
  have K0 : Keeps [.fab] P := K.mono rfl
  have K1 : Keeps [.out] P := K.mono rfl
  have K2 : Keeps [.out, .regs, .mem, .core, .eng, .upd, .swm, .cap, .lp, .log, .fab, .host, .wort, .boot] P := K.mono rfl
  have K3 : Keeps [.out, .swm, .fab] P := K.mono rfl
  unfold State.niRead
  repeat' first
    | with_reducible assumption
    | intro _
    | with_reducible apply State.pgenCount_keeps K0
    | with_reducible apply State.nackCell_keeps K1
    | with_reducible apply State.niRefuse_keeps K1
    | with_reducible apply State.memReads_keeps K2
    | with_reducible apply State.rdAnswer_keeps K3
    | with_reducible refine ite_keeps ?_ ?_
    | with_reducible refine ite_fst_keeps ?_ ?_
    | (with_reducible apply fst_of; with_reducible assumption)
    | split

theorem State.nackReason_keeps (K : Keeps [.free] P) {s : State} (x : Xfer) (hs : P s) : P (State.nackReason s x).1 := by
  have K0 : Keeps [.free] P := K.mono rfl
  unfold State.nackReason
  repeat' first
    | with_reducible assumption
    | intro _
    | with_reducible apply State.drawn_keeps K0
    | with_reducible refine ite_keeps ?_ ?_
    | with_reducible refine ite_fst_keeps ?_ ?_

theorem State.gathered_keeps (K : Keeps [.out, .regs, .mem, .core, .eng, .upd, .swm, .cap, .lp, .log, .fab, .host, .wort, .boot] P) {s : State} (core : Nat) (seq : Nat) (hs : P s) : P (State.gathered s core seq) := by
  have K0 : Keeps [.out, .regs, .mem, .core, .eng, .upd, .swm, .cap, .lp, .log, .fab, .host, .wort, .boot] P := K.mono rfl
  unfold State.gathered
  repeat' first
    | with_reducible assumption
    | intro _
    | with_reducible apply State.copyToHost_keeps K0
    | with_reducible refine ite_keeps ?_ ?_
    | split

theorem State.cmdXferEnd_keeps (K : Keeps [.out, .regs, .mem, .core, .eng, .upd, .swm, .cap, .lp, .log, .fab, .host, .wort, .boot] P) {s : State} (core : Nat) (seq : Nat) (status : Nat) (reason : Nat) (hs : P s) : P (State.cmdXferEnd s core seq status reason) := by
  have K0 : Keeps [.log] P := K.mono rfl
  have K1 : Keeps [.eng] P := K.mono rfl
  have K2 : Keeps [.out, .regs, .mem, .core, .eng, .upd, .swm, .cap, .lp, .log, .fab, .host, .wort, .boot] P := K.mono rfl
  have K3 : Keeps [.regs] P := K.mono rfl
  have K4 : Keeps [.regs, .core, .host] P := K.mono rfl
  unfold State.cmdXferEnd
  repeat' first
    | with_reducible assumption
    | intro _
    | with_reducible apply State.refuseRec_keeps K0
    | with_reducible apply State.copyAck_keeps K1
    | with_reducible apply State.voteFailed_keeps K2
    | with_reducible apply State.ceRun_keeps K2
    | with_reducible apply State.countStale_keeps K3
    | with_reducible apply State.completeRaw_keeps K4
    | with_reducible refine ite_keeps ?_ ?_
    | split

theorem State.xferFail_keeps (K : Keeps [.free, .out, .regs, .mem, .core, .eng, .upd, .swm, .cap, .lp, .log, .fab, .host, .wort, .boot] P) {s : State} (tgt : Nat) (id : Nat) (x : Xfer) (status : Nat) (hs : P s) : P (State.xferFail s tgt id x status) := by
  have K0 : Keeps [.fab] P := K.mono rfl
  have K1 : Keeps [.free] P := K.mono rfl
  have K2 : Keeps [.eng] P := K.mono rfl
  have K3 : Keeps [.out, .regs, .mem, .core, .eng, .upd, .swm, .cap, .lp, .log, .fab, .host, .wort, .boot] P := K.mono rfl
  have K4 : Keeps [.host] P := K.mono rfl
  have K5 : Keeps [.out, .regs, .log] P := K.mono rfl
  unfold State.xferFail
  repeat' first
    | with_reducible assumption
    | intro _
    | with_reducible apply State.xferEnd_keeps K0
    | with_reducible apply State.nackReason_keeps K1
    | with_reducible apply State.copyAck_keeps K2
    | with_reducible apply State.cmdXferEnd_keeps K3
    | with_reducible apply State.hdmaFail_keeps K4
    | with_reducible apply State.refuseDesc_keeps K5
    | with_reducible refine ite_keeps ?_ ?_
    | with_reducible refine ite_fst_keeps ?_ ?_
    | split
    | with_reducible apply foldl_fst_keeps
    | with_reducible apply foldl_keeps

theorem State.xferAck_keeps (K : Keeps [.out, .regs, .mem, .core, .eng, .upd, .swm, .cap, .lp, .log, .fab, .host, .wort, .boot] P) {s : State} (tgt : Nat) (id : Nat) (x : Xfer) (bytes : Nat) (hs : P s) : P (State.xferAck s tgt id x bytes) := by
  have K0 : Keeps [.fab] P := K.mono rfl
  have K1 : Keeps [.out, .regs, .mem, .core, .eng, .upd, .swm, .cap, .lp, .log, .fab, .host, .wort, .boot] P := K.mono rfl
  have K2 : Keeps [.regs, .core, .host] P := K.mono rfl
  unfold State.xferAck
  repeat' first
    | with_reducible assumption
    | intro _
    | with_reducible apply State.xferEnd_keeps K0
    | with_reducible apply State.cmdXferEnd_keeps K1
    | with_reducible apply State.gathered_keeps K1
    | with_reducible apply State.hdmaMoved_keeps K2
    | with_reducible refine ite_keeps ?_ ?_
    | split
    | with_reducible apply K.lit
    | exact Or.inl (by decide)
    | exact Or.inr rfl

/-! BlockOps -/

theorem State.swmStat_keeps (K : Keeps [.regs] P) {s : State} (hs : P s) : P (State.swmStat s) := by
  have K0 : Keeps [.regs] P := K.mono rfl
  unfold State.swmStat
  repeat' first
    | with_reducible assumption
    | intro _
    | with_reducible apply State.fset_keeps K0

theorem State.nolull_keeps (K : Keeps [.regs] P) {s : State} (hs : P s) : P (State.nolull s) := by
  have K0 : Keeps [.regs] P := K.mono rfl
  unfold State.nolull
  repeat' first
    | with_reducible assumption
    | intro _
    | with_reducible apply State.fset_keeps K0
    | with_reducible refine ite_keeps ?_ ?_
    | with_reducible refine ite_fst_keeps ?_ ?_
    | with_reducible apply foldl_fst_keeps
    | with_reducible apply foldl_keeps

theorem State.slotsClear_keeps (K : Keeps [.mem] P) {s : State} (d : Nat) (n : Nat) (hs : P s) : P (State.slotsClear s d n) := by
  have K0 : Keeps [.mem] P := K.mono rfl
  unfold State.slotsClear
  repeat' first
    | with_reducible assumption
    | intro _
    | with_reducible apply State.clearBitmap_keeps K0
    | with_reducible refine ite_keeps ?_ ?_
    | with_reducible refine ite_fst_keeps ?_ ?_
    | with_reducible apply foldl_fst_keeps
    | with_reducible apply foldl_keeps

theorem State.slotLoad_keeps (K : Keeps [.regs, .mem] P) {s : State} (u : Setup) (d : Nat) (hs : P s) : P (State.slotLoad s u d) := by
  have K0 : Keeps [.regs] P := K.mono rfl
  have K1 : Keeps [.mem] P := K.mono rfl
  unfold State.slotLoad
  repeat' first
    | with_reducible assumption
    | intro _
    | with_reducible apply State.fset_keeps K0
    | with_reducible apply State.slotsClear_keeps K1
    | with_reducible refine ite_keeps ?_ ?_
    | with_reducible refine ite_fst_keeps ?_ ?_
    | split
    | with_reducible apply foldl_fst_keeps
    | with_reducible apply foldl_keeps

theorem State.slotUnload_keeps (K : Keeps [.regs] P) {s : State} (d : Nat) (hs : P s) : P (State.slotUnload s d) := by
  have K0 : Keeps [.regs] P := K.mono rfl
  unfold State.slotUnload
  repeat' first
    | with_reducible assumption
    | intro _
    | with_reducible apply State.slotSettle_keeps K0
    | with_reducible apply State.setReg_keeps K0
    | with_reducible refine ite_keeps ?_ ?_
    | with_reducible refine ite_fst_keeps ?_ ?_
    | with_reducible apply foldl_fst_keeps
    | with_reducible apply foldl_keeps

theorem State.ledgerAdd_keeps (K : Keeps [.host] P) {s : State} (u : Setup) (hs : P s) : P (State.ledgerAdd s u) := by
  unfold State.ledgerAdd
  repeat' first
    | with_reducible assumption
    | intro _
    | with_reducible refine ite_keeps ?_ ?_
    | with_reducible apply K.lit
    | exact Or.inl (by decide)
    | exact Or.inr rfl

theorem State.blockAccept_keeps (K : Keeps [.out, .regs, .mem, .host, .wort] P) {s : State} (u : Setup) (hs : P s) : P (State.blockAccept s u) := by
  have K0 : Keeps [.host] P := K.mono rfl
  have K1 : Keeps [.regs, .mem] P := K.mono rfl
  have K2 : Keeps [.out, .wort] P := K.mono rfl
  have K3 : Keeps [.regs] P := K.mono rfl
  unfold State.blockAccept
  repeat' first
    | with_reducible assumption
    | intro _
    | with_reducible apply State.ledgerAdd_keeps K0
    | with_reducible apply State.slotLoad_keeps K1
    | with_reducible apply State.wortHello_keeps K2
    | with_reducible apply State.wortRegs_keeps K3
    | with_reducible apply State.nolull_keeps K3
    | with_reducible refine ite_keeps ?_ ?_
    | with_reducible refine ite_fst_keeps ?_ ?_
    | with_reducible apply foldl_fst_keeps
    | with_reducible apply foldl_keeps

theorem State.opsRenumber_keeps (K : Keeps [.swm] P) {s : State} (job : Nat) (gid : Nat) (hs : P s) : P (State.opsRenumber s job gid) := by
  unfold State.opsRenumber
  repeat' first
    | with_reducible assumption
    | intro _
    | with_reducible refine ite_keeps ?_ ?_
    | with_reducible apply K.lit
    | exact Or.inl (by decide)
    | exact Or.inr rfl

theorem State.groupAccept_keeps (K : Keeps [.out, .regs, .swm, .host] P) {s : State} (g : Group) (hs : P s) : P (State.groupAccept s g) := by
  have K0 : Keeps [.swm] P := K.mono rfl
  have K1 : Keeps [.host] P := K.mono rfl
  have K2 : Keeps [.regs] P := K.mono rfl
  have K3 : Keeps [.out] P := K.mono rfl
  unfold State.groupAccept
  repeat' first
    | with_reducible assumption
    | intro _
    | with_reducible apply State.opsRenumber_keeps K0
    | with_reducible apply State.ledgerAdd_keeps K1
    | with_reducible apply State.swmStat_keeps K2
    | with_reducible apply State.relaysOut_keeps K3
    | with_reducible apply State.nolull_keeps K2
    | with_reducible refine ite_keeps ?_ ?_
    | with_reducible apply K.lit
    | exact Or.inl (by decide)
    | exact Or.inr rfl

theorem State.setupRemove_keeps (K : Keeps [.out, .regs, .swm, .host] P) {s : State} (u : Setup) (hs : P s) : P (State.setupRemove s u) := by
  have K0 : Keeps [.out] P := K.mono rfl
  have K1 : Keeps [.swm] P := K.mono rfl
  have K2 : Keeps [.regs] P := K.mono rfl
  unfold State.setupRemove
  repeat' first
    | with_reducible assumption
    | intro _
    | with_reducible apply State.relaysGone_keeps K0
    | with_reducible apply State.opsRenumber_keeps K1
    | with_reducible apply State.swmStat_keeps K2
    | with_reducible apply State.slotUnload_keeps K2
    | with_reducible apply State.wortRegs_keeps K2
    | with_reducible apply State.nolull_keeps K2
    | with_reducible refine ite_keeps ?_ ?_
    | with_reducible refine ite_fst_keeps ?_ ?_
    | with_reducible apply foldl_fst_keeps
    | with_reducible apply foldl_keeps
    | with_reducible apply K.lit
    | exact Or.inl (by decide)
    | exact Or.inr rfl

/-! DescOps -/

theorem State.stopCore_keeps (K : Keeps [.regs, .core, .host] P) {s : State} (core : Nat) (status : Nat) (hs : P s) : P (State.stopCore s core status) := by
  have K0 : Keeps [.core] P := K.mono rfl
  have K1 : Keeps [.regs] P := K.mono rfl
  have K2 : Keeps [.regs, .core, .host] P := K.mono rfl
  unfold State.stopCore
  repeat' first
    | with_reducible assumption
    | intro _
    | with_reducible apply State.setCoreRec_keeps K0
    | with_reducible apply State.setCoreState_keeps K1
    | with_reducible apply State.completeRaw_keeps K2
    | with_reducible apply State.kernelTryEnd_keeps K2
    | with_reducible refine ite_keeps ?_ ?_

theorem State.stopDie_keeps (K : Keeps [.regs, .core, .host] P) {s : State} (die : Nat) (status : Nat) (hs : P s) : P (State.stopDie s die status) := by
  have K0 : Keeps [.regs, .core, .host] P := K.mono rfl
  unfold State.stopDie
  repeat' first
    | with_reducible assumption
    | intro _
    | with_reducible apply State.stopCore_keeps K0
    | with_reducible refine ite_keeps ?_ ?_
    | with_reducible refine ite_fst_keeps ?_ ?_
    | with_reducible apply foldl_fst_keeps
    | with_reducible apply foldl_keeps

theorem State.launchRun_keeps (K : Keeps [.regs, .core, .host] P) {s : State} (d : Desc) (hs : P s) : P (State.launchRun s d) := by
  have K0 : Keeps [.host] P := K.mono rfl
  have K1 : Keeps [.core] P := K.mono rfl
  have K2 : Keeps [.regs] P := K.mono rfl
  unfold State.launchRun
  repeat' first
    | with_reducible assumption
    | intro _
    | with_reducible apply State.updDesc_keeps K0
    | with_reducible apply State.setCoreRec_keeps K1
    | with_reducible apply State.setCoreState_keeps K2
    | with_reducible refine ite_keeps ?_ ?_
    | with_reducible refine ite_fst_keeps ?_ ?_
    | with_reducible apply foldl_fst_keeps
    | with_reducible apply foldl_keeps

theorem State.hdmaStart_keeps (K : Keeps [.out, .regs, .mem, .core, .eng, .upd, .swm, .cap, .lp, .log, .fab, .host, .wort, .boot] P) {s : State} (d : Desc) (hs : P s) : P (State.hdmaStart s d) := by
  have K0 : Keeps [.host] P := K.mono rfl
  have K1 : Keeps [.out, .regs, .mem, .core, .eng, .upd, .swm, .cap, .lp, .log, .fab, .host, .wort, .boot] P := K.mono rfl
  have K2 : Keeps [.out, .regs, .eng, .log, .fab, .host] P := K.mono rfl
  unfold State.hdmaStart
  repeat' first
    | with_reducible assumption
    | intro _
    | with_reducible apply State.updDesc_keeps K0
    | with_reducible apply State.hostRun_keeps K1
    | with_reducible apply State.reqAdd_keeps K2
    | with_reducible refine ite_keeps ?_ ?_

theorem State.setupStart_keeps (K : Keeps [.out, .regs, .mem, .swm, .host, .wort] P) {s : State} (d : Desc) (hs : P s) : P (State.setupStart s d) := by
  have K0 : Keeps [.out, .regs, .swm, .host] P := K.mono rfl
  have K1 : Keeps [.out, .regs, .mem, .host, .wort] P := K.mono rfl
  have K2 : Keeps [.host] P := K.mono rfl
  unfold State.setupStart
  repeat' first
    | with_reducible assumption
    | intro _
    | with_reducible apply State.groupAccept_keeps K0
    | with_reducible apply State.blockAccept_keeps K1
    | with_reducible apply State.descDone_keeps K2
    | with_reducible refine ite_keeps ?_ ?_

theorem State.teardownStart_keeps (K : Keeps [.host] P) {s : State} (d : Desc) (hs : P s) : P (State.teardownStart s d) := by
  have K0 : Keeps [.host] P := K.mono rfl
  unfold State.teardownStart
  repeat' first
    | with_reducible assumption
    | intro _
    | with_reducible apply State.descDone_keeps K0

theorem State.teardownEnd_keeps (K : Keeps [.out, .regs, .swm, .host] P) {s : State} (d : Desc) (hs : P s) : P (State.teardownEnd s d) := by
  have K0 : Keeps [.out, .regs, .swm, .host] P := K.mono rfl
  unfold State.teardownEnd
  repeat' first
    | with_reducible assumption
    | intro _
    | with_reducible apply State.setupRemove_keeps K0
    | with_reducible refine ite_keeps ?_ ?_
    | split

theorem State.abortStart_keeps (K : Keeps [.out, .regs, .mem, .core, .eng, .upd, .swm, .cap, .lp, .log, .fab, .host, .wort, .boot] P) {s : State} (d : Desc) (hs : P s) : P (State.abortStart s d) := by
  have K0 : Keeps [.host] P := K.mono rfl
  have K1 : Keeps [.regs, .core, .host] P := K.mono rfl
  have K2 : Keeps [.out, .regs, .mem, .core, .eng, .upd, .swm, .cap, .lp, .log, .fab, .host, .wort, .boot] P := K.mono rfl
  unfold State.abortStart
  repeat' first
    | with_reducible assumption
    | intro _
    | with_reducible apply State.updDesc_keeps K0
    | with_reducible apply State.descDone_keeps K0
    | with_reducible apply State.stopCore_keeps K1
    | with_reducible apply State.voteFailed_keeps K2
    | with_reducible apply State.hdmaFail_keeps K0
    | with_reducible refine ite_keeps ?_ ?_
    | with_reducible refine ite_fst_keeps ?_ ?_
    | split
    | with_reducible apply foldl_fst_keeps
    | with_reducible apply foldl_keeps

theorem State.createStart_keeps (K : Keeps [.regs, .host, .wort] P) {s : State} (d : Desc) (hs : P s) : P (State.createStart s d) := by
  have K0 : Keeps [.regs] P := K.mono rfl
  have K1 : Keeps [.host] P := K.mono rfl
  have K2 : Keeps [.wort] P := K.mono rfl
  unfold State.createStart
  repeat' first
    | with_reducible assumption
    | intro _
    | with_reducible apply State.setReg_keeps K0
    | with_reducible apply State.fset_keeps K0
    | with_reducible apply State.setPart_keeps K1
    | with_reducible apply State.setSess_keeps K2
    | with_reducible apply State.descDone_keeps K1
    | with_reducible refine ite_keeps ?_ ?_
    | with_reducible refine ite_fst_keeps ?_ ?_
    | with_reducible apply foldl_fst_keeps
    | with_reducible apply foldl_keeps

theorem State.partRelease_keeps (K : Keeps [.regs, .host, .wort] P) {s : State} (p : Nat) (hs : P s) : P (State.partRelease s p) := by
  have K0 : Keeps [.regs] P := K.mono rfl
  have K1 : Keeps [.host] P := K.mono rfl
  have K2 : Keeps [.wort] P := K.mono rfl
  unfold State.partRelease
  repeat' first
    | with_reducible assumption
    | intro _
    | with_reducible apply State.fset_keeps K0
    | with_reducible apply State.setPart_keeps K1
    | with_reducible apply State.setSess_keeps K2
    | with_reducible apply State.setReg_keeps K0
    | with_reducible refine ite_keeps ?_ ?_
    | with_reducible refine ite_fst_keeps ?_ ?_
    | with_reducible apply foldl_fst_keeps
    | with_reducible apply foldl_keeps

theorem State.reclaimStart_keeps (K : Keeps [.out, .regs, .mem, .core, .eng, .upd, .swm, .cap, .lp, .log, .fab, .host, .wort, .boot] P) {s : State} (d : Desc) (hs : P s) : P (State.reclaimStart s d) := by
  have K0 : Keeps [.host] P := K.mono rfl
  have K1 : Keeps [.regs] P := K.mono rfl
  have K2 : Keeps [.regs, .host] P := K.mono rfl
  have K3 : Keeps [.out] P := K.mono rfl
  have K4 : Keeps [.out, .regs, .log] P := K.mono rfl
  have K5 : Keeps [.regs, .core, .host] P := K.mono rfl
  have K6 : Keeps [.out, .regs, .mem, .core, .eng, .upd, .swm, .cap, .lp, .log, .fab, .host, .wort, .boot] P := K.mono rfl
  unfold State.reclaimStart
  repeat' first
    | with_reducible assumption
    | intro _
    | with_reducible apply State.updDesc_keeps K0
    | with_reducible apply State.setPart_keeps K0
    | with_reducible apply State.fset_keeps K1
    | with_reducible apply State.ringFreeze_keeps K2
    | with_reducible apply State.raise_keeps K3
    | with_reducible apply State.hiveRec_keeps K4
    | with_reducible apply State.stopDie_keeps K5
    | with_reducible apply State.voteFailed_keeps K6
    | with_reducible refine ite_keeps ?_ ?_
    | with_reducible refine ite_fst_keeps ?_ ?_
    | with_reducible apply foldl_fst_keeps
    | with_reducible apply foldl_keeps

theorem State.descStart_keeps (K : Keeps [.out, .regs, .mem, .core, .eng, .upd, .swm, .cap, .lp, .log, .fab, .host, .wort, .boot] P) {s : State} (d : Desc) (hs : P s) : P (State.descStart s d) := by
  have K0 : Keeps [.out, .regs, .log, .fab] P := K.mono rfl
  have K1 : Keeps [.out, .regs, .log, .host] P := K.mono rfl
  have K2 : Keeps [.host] P := K.mono rfl
  have K3 : Keeps [.regs, .core, .host] P := K.mono rfl
  have K4 : Keeps [.out, .regs, .mem, .core, .eng, .upd, .swm, .cap, .lp, .log, .fab, .host, .wort, .boot] P := K.mono rfl
  have K5 : Keeps [.out, .regs, .mem, .swm, .host, .wort] P := K.mono rfl
  have K6 : Keeps [.regs, .host, .wort] P := K.mono rfl
  unfold State.descStart
  repeat' first
    | with_reducible assumption
    | intro _
    | with_reducible apply State.dmaBlock_keeps K0
    | with_reducible apply State.descRefuse_keeps K1
    | with_reducible apply State.updDesc_keeps K2
    | with_reducible apply State.launchRun_keeps K3
    | with_reducible apply State.hdmaStart_keeps K4
    | with_reducible apply State.setupStart_keeps K5
    | with_reducible apply State.teardownStart_keeps K2
    | with_reducible apply State.abortStart_keeps K4
    | with_reducible apply State.partRelease_keeps K6
    | with_reducible apply State.descDone_keeps K2
    | with_reducible apply State.createStart_keeps K6
    | with_reducible apply State.reclaimStart_keeps K4
    | with_reducible refine ite_keeps ?_ ?_
    | split

theorem State.descPump_keeps (K : Keeps [.out, .regs, .mem, .core, .eng, .upd, .swm, .cap, .lp, .log, .fab, .host, .wort, .boot] P) (a0 : Nat) {a1 : State} (a2 : Nat) (hs : P a1) : P (State.descPump a0 a1 a2) := by
  have K0 : Keeps [.out, .regs, .mem, .core, .eng, .upd, .swm, .cap, .lp, .log, .fab, .host, .wort, .boot] P := K.mono rfl
  induction a0 generalizing a1 a2 with
  | zero => exact hs
  | succ n ih =>
    unfold State.descPump
    repeat' first
      | with_reducible assumption
      | with_reducible apply ih
      | intro _
      | with_reducible apply State.descStart_keeps K0
      | with_reducible refine ite_keeps ?_ ?_
      | split

theorem State.descRun_keeps (K : Keeps [.out, .regs, .mem, .core, .eng, .upd, .swm, .cap, .lp, .log, .fab, .host, .wort, .boot] P) {s : State} (ring : Nat) (hs : P s) : P (State.descRun s ring) := by
  have K0 : Keeps [.out, .regs, .mem, .core, .eng, .upd, .swm, .cap, .lp, .log, .fab, .host, .wort, .boot] P := K.mono rfl
  unfold State.descRun
  repeat' first
    | with_reducible assumption
    | intro _
    | with_reducible apply State.descPump_keeps K0

theorem State.descPumpAll_keeps (K : Keeps [.out, .regs, .mem, .core, .eng, .upd, .swm, .cap, .lp, .log, .fab, .host, .wort, .boot] P) (a0 : Nat) {a1 : State} (hs : P a1) : P (State.descPumpAll a0 a1) := by
  have K0 : Keeps [.out, .regs, .mem, .core, .eng, .upd, .swm, .cap, .lp, .log, .fab, .host, .wort, .boot] P := K.mono rfl
  induction a0 generalizing a1 with
  | zero => exact hs
  | succ n ih =>
    unfold State.descPumpAll
    repeat' first
      | with_reducible assumption
      | with_reducible apply ih
      | intro _
      | with_reducible apply State.descStart_keeps K0
      | with_reducible refine ite_keeps ?_ ?_
      | split

theorem State.descRunAll_keeps (K : Keeps [.out, .regs, .mem, .core, .eng, .upd, .swm, .cap, .lp, .log, .fab, .host, .wort, .boot] P) {s : State} (hs : P s) : P (State.descRunAll s) := by
  have K0 : Keeps [.out, .regs, .mem, .core, .eng, .upd, .swm, .cap, .lp, .log, .fab, .host, .wort, .boot] P := K.mono rfl
  unfold State.descRunAll
  repeat' first
    | with_reducible assumption
    | intro _
    | with_reducible apply State.descPumpAll_keeps K0

theorem State.descFetch_keeps (K : Keeps [.out, .regs, .mem, .core, .eng, .upd, .swm, .cap, .lp, .log, .fab, .host, .wort, .boot] P) {s : State} (ring : Nat) (w : CmdWord) (blk : Bytes) (hs : P s) : P (State.descFetch s ring w blk) := by
  have K0 : Keeps [.out, .regs, .log, .fab] P := K.mono rfl
  have K1 : Keeps [.out, .regs, .log] P := K.mono rfl
  have K2 : Keeps [.host] P := K.mono rfl
  have K3 : Keeps [.regs] P := K.mono rfl
  have K4 : Keeps [.out, .regs, .mem, .core, .eng, .upd, .swm, .cap, .lp, .log, .fab, .host, .wort, .boot] P := K.mono rfl
  unfold State.descFetch
  repeat' first
    | with_reducible assumption
    | intro _
    | with_reducible apply State.dmaBlock_keeps K0
    | with_reducible apply State.ringError_keeps K1
    | with_reducible apply State.setRing_keeps K2
    | with_reducible apply State.fset_keeps K3
    | with_reducible apply State.descRun_keeps K4
    | with_reducible apply State.refuseDesc_keeps K1
    | with_reducible refine ite_keeps ?_ ?_
    | split
    | with_reducible apply K.lit
    | exact Or.inl (by decide)
    | exact Or.inr rfl

theorem State.descRow_keeps (K : Keeps [.out, .regs, .mem, .core, .eng, .upd, .swm, .cap, .lp, .log, .fab, .host, .wort, .boot] P) {s : State} (ring : Nat) (opc : Nat) (w : CmdWord) (blk : Bytes) (hs : P s) : P (State.descRow s ring opc w blk) := by
  have K0 : Keeps [.out, .regs, .mem, .core, .eng, .upd, .swm, .cap, .lp, .log, .fab, .host, .wort, .boot] P := K.mono rfl
  unfold State.descRow
  repeat' first
    | with_reducible assumption
    | intro _
    | with_reducible apply State.descFetch_keeps K0
    | with_reducible refine ite_keeps ?_ ?_

theorem State.descEnd_keeps (K : Keeps [.out, .regs, .mem, .core, .eng, .upd, .swm, .cap, .lp, .log, .fab, .host, .wort, .boot] P) {s : State} (ring : Nat) (tag : Nat) (hs : P s) : P (State.descEnd s ring tag) := by
  have K0 : Keeps [.out, .regs, .log, .fab, .host] P := K.mono rfl
  have K1 : Keeps [.out, .regs, .swm, .host] P := K.mono rfl
  have K2 : Keeps [.out, .regs, .mem, .core, .eng, .upd, .swm, .cap, .lp, .log, .fab, .host, .wort, .boot] P := K.mono rfl
  have K3 : Keeps [.regs, .host] P := K.mono rfl
  unfold State.descEnd
  repeat' first
    | with_reducible assumption
    | intro _
    | with_reducible apply State.cqPut_keeps K0
    | with_reducible apply State.teardownEnd_keeps K1
    | with_reducible apply State.descRun_keeps K2
    | with_reducible apply State.ringSettle_keeps K3
    | with_reducible refine ite_keeps ?_ ?_
    | split
    | with_reducible apply K.lit
    | exact Or.inl (by decide)
    | exact Or.inr rfl

/-! DescCmds -/

theorem execLaunch_keeps (K : Keeps [.out, .regs, .mem, .core, .eng, .upd, .swm, .cap, .lp, .log, .fab, .host, .wort, .boot] P) (ring : RingId) (desc : CmdWord) {s : State} (hs : P s) : ∃ t, execLaunch ring desc s = .next t ∧ P t := by
  have K0 : Keeps [.out, .regs, .mem, .core, .eng, .upd, .swm, .cap, .lp, .log, .fab, .host, .wort, .boot] P := K.mono rfl
  refine ⟨_, rfl, ?_⟩
  repeat' first
    | with_reducible assumption
    | intro _
    | with_reducible apply State.descRow_keeps K0

theorem execBeatLaunchStart_keeps (K : Keeps [.out, .regs, .core, .log, .host] P) (ring : RingId) (tag : BitVec 16) {s : State} (hs : P s) : ∃ t, execBeatLaunchStart ring tag s = .next t ∧ P t := by
  have K0 : Keeps [.out, .regs, .log, .host] P := K.mono rfl
  have K1 : Keeps [.host] P := K.mono rfl
  have K2 : Keeps [.regs, .core, .host] P := K.mono rfl
  refine ⟨_, rfl, ?_⟩
  repeat' first
    | with_reducible assumption
    | intro _
    | with_reducible apply State.descRefuse_keeps K0
    | with_reducible apply State.updDesc_keeps K1
    | with_reducible apply State.launchRun_keeps K2
    | with_reducible refine ite_keeps ?_ ?_
    | split

theorem execHdma_keeps (K : Keeps [.out, .regs, .mem, .core, .eng, .upd, .swm, .cap, .lp, .log, .fab, .host, .wort, .boot] P) (ring : RingId) (desc : CmdWord) {s : State} (hs : P s) : ∃ t, execHdma ring desc s = .next t ∧ P t := by
  have K0 : Keeps [.out, .regs, .mem, .core, .eng, .upd, .swm, .cap, .lp, .log, .fab, .host, .wort, .boot] P := K.mono rfl
  refine ⟨_, rfl, ?_⟩
  repeat' first
    | with_reducible assumption
    | intro _
    | with_reducible apply State.descRow_keeps K0

theorem execSetup_keeps (K : Keeps [.out, .regs, .mem, .core, .eng, .upd, .swm, .cap, .lp, .log, .fab, .host, .wort, .boot] P) (ring : RingId) (desc : CmdWord) (blk : Bytes) {s : State} (hs : P s) : ∃ t, execSetup ring desc blk s = .next t ∧ P t := by
  have K0 : Keeps [.out, .regs, .mem, .core, .eng, .upd, .swm, .cap, .lp, .log, .fab, .host, .wort, .boot] P := K.mono rfl
  refine ⟨_, rfl, ?_⟩
  repeat' first
    | with_reducible assumption
    | intro _
    | with_reducible apply State.descRow_keeps K0

theorem execTeardown_keeps (K : Keeps [.out, .regs, .mem, .core, .eng, .upd, .swm, .cap, .lp, .log, .fab, .host, .wort, .boot] P) (ring : RingId) (desc : CmdWord) {s : State} (hs : P s) : ∃ t, execTeardown ring desc s = .next t ∧ P t := by
  have K0 : Keeps [.out, .regs, .mem, .core, .eng, .upd, .swm, .cap, .lp, .log, .fab, .host, .wort, .boot] P := K.mono rfl
  refine ⟨_, rfl, ?_⟩
  repeat' first
    | with_reducible assumption
    | intro _
    | with_reducible apply State.descRow_keeps K0

theorem execAbort_keeps (K : Keeps [.out, .regs, .mem, .core, .eng, .upd, .swm, .cap, .lp, .log, .fab, .host, .wort, .boot] P) (ring : RingId) (desc : CmdWord) {s : State} (hs : P s) : ∃ t, execAbort ring desc s = .next t ∧ P t := by
  have K0 : Keeps [.out, .regs, .mem, .core, .eng, .upd, .swm, .cap, .lp, .log, .fab, .host, .wort, .boot] P := K.mono rfl
  refine ⟨_, rfl, ?_⟩
  repeat' first
    | with_reducible assumption
    | intro _
    | with_reducible apply State.descRow_keeps K0

theorem execPartitionCreate_keeps (K : Keeps [.out, .regs, .mem, .core, .eng, .upd, .swm, .cap, .lp, .log, .fab, .host, .wort, .boot] P) (ring : RingId) (desc : CmdWord) {s : State} (hs : P s) : ∃ t, execPartitionCreate ring desc s = .next t ∧ P t := by
  have K0 : Keeps [.out, .regs, .mem, .core, .eng, .upd, .swm, .cap, .lp, .log, .fab, .host, .wort, .boot] P := K.mono rfl
  refine ⟨_, rfl, ?_⟩
  repeat' first
    | with_reducible assumption
    | intro _
    | with_reducible apply State.descRow_keeps K0
    | with_reducible refine ite_keeps ?_ ?_

theorem execPartitionDestroy_keeps (K : Keeps [.out, .regs, .mem, .core, .eng, .upd, .swm, .cap, .lp, .log, .fab, .host, .wort, .boot] P) (ring : RingId) (desc : CmdWord) {s : State} (hs : P s) : ∃ t, execPartitionDestroy ring desc s = .next t ∧ P t := by
  have K0 : Keeps [.out, .regs, .mem, .core, .eng, .upd, .swm, .cap, .lp, .log, .fab, .host, .wort, .boot] P := K.mono rfl
  refine ⟨_, rfl, ?_⟩
  repeat' first
    | with_reducible assumption
    | intro _
    | with_reducible apply State.descRow_keeps K0
    | with_reducible refine ite_keeps ?_ ?_

theorem execReclaim_keeps (K : Keeps [.out, .regs, .mem, .core, .eng, .upd, .swm, .cap, .lp, .log, .fab, .host, .wort, .boot] P) (ring : RingId) (desc : CmdWord) {s : State} (hs : P s) : ∃ t, execReclaim ring desc s = .next t ∧ P t := by
  have K0 : Keeps [.out, .regs, .mem, .core, .eng, .upd, .swm, .cap, .lp, .log, .fab, .host, .wort, .boot] P := K.mono rfl
  refine ⟨_, rfl, ?_⟩
  repeat' first
    | with_reducible assumption
    | intro _
    | with_reducible apply State.descRow_keeps K0

theorem execReclaimWortDeadline_keeps (K : Keeps [.regs, .mem, .upd, .host, .wort] P) (p : PartId) {s : State} (hs : P s) : ∃ t, execReclaimWortDeadline p s = .next t ∧ P t := by
  have K0 : Keeps [.wort] P := K.mono rfl
  have K1 : Keeps [.regs, .mem, .upd] P := K.mono rfl
  have K2 : Keeps [.host] P := K.mono rfl
  have K3 : Keeps [.regs] P := K.mono rfl
  refine ⟨_, rfl, ?_⟩
  repeat' first
    | with_reducible assumption
    | intro _
    | with_reducible apply State.setSess_keeps K0
    | with_reducible apply State.freeSlot_keeps K1
    | with_reducible apply State.setPart_keeps K2
    | with_reducible apply State.wortRegs_keeps K3
    | with_reducible refine ite_keeps ?_ ?_
    | with_reducible refine ite_fst_keeps ?_ ?_
    | split
    | with_reducible apply foldl_fst_keeps
    | with_reducible apply foldl_keeps

theorem State.dieForget_keeps (K : Keeps [.regs, .upd, .cap] P) {s : State} (d : Nat) (hs : P s) : P (State.dieForget s d) := by
  have K0 : Keeps [.cap] P := K.mono rfl
  have K1 : Keeps [.regs] P := K.mono rfl
  unfold State.dieForget
  repeat' first
    | with_reducible assumption
    | intro _
    | with_reducible apply State.setDieCap_keeps K0
    | with_reducible apply State.setReg_keeps K1
    | with_reducible refine ite_keeps ?_ ?_
    | with_reducible apply K.lit
    | exact Or.inl (by decide)
    | exact Or.inr rfl

theorem execReclaimRelease_keeps (K : Keeps [.out, .regs, .mem, .eng, .upd, .swm, .cap, .lp, .log, .host, .wort] P) (p : PartId) {s : State} (hs : P s) : ∃ t, execReclaimRelease p s = .next t ∧ P t := by
  have K0 : Keeps [.mem, .eng] P := K.mono rfl
  have K1 : Keeps [.mem, .lp] P := K.mono rfl
  have K2 : Keeps [.regs, .upd, .cap] P := K.mono rfl
  have K3 : Keeps [.out, .regs, .swm, .host] P := K.mono rfl
  have K4 : Keeps [.regs, .host] P := K.mono rfl
  have K5 : Keeps [.regs, .host, .wort] P := K.mono rfl
  have K6 : Keeps [.out, .regs, .log] P := K.mono rfl
  have K7 : Keeps [.host] P := K.mono rfl
  refine ⟨_, rfl, ?_⟩
  repeat' first
    | with_reducible assumption
    | intro _
    | with_reducible apply State.zeroSram_keeps K0
    | with_reducible apply State.zeroLpddr_keeps K1
    | with_reducible apply State.dieForget_keeps K2
    | with_reducible apply State.setupRemove_keeps K3
    | with_reducible apply State.ringDrop_keeps K4
    | with_reducible apply State.partRelease_keeps K5
    | with_reducible apply State.hiveRec_keeps K6
    | with_reducible apply State.descDone_keeps K7
    | with_reducible refine ite_keeps ?_ ?_
    | with_reducible refine ite_fst_keeps ?_ ?_
    | split
    | with_reducible apply foldl_fst_keeps
    | with_reducible apply foldl_keeps

theorem execDescriptorComplete_keeps (K : Keeps [.out, .regs, .mem, .core, .eng, .upd, .swm, .cap, .lp, .log, .fab, .host, .wort, .boot] P) (ring : RingId) (tag : BitVec 16) {s : State} (hs : P s) : ∃ t, execDescriptorComplete ring tag s = .next t ∧ P t := by
  have K0 : Keeps [.out, .regs, .mem, .core, .eng, .upd, .swm, .cap, .lp, .log, .fab, .host, .wort, .boot] P := K.mono rfl
  refine ⟨_, rfl, ?_⟩
  repeat' first
    | with_reducible assumption
    | intro _
    | with_reducible apply State.descEnd_keeps K0

theorem execQueenRestartDone_keeps (K : Keeps [.out, .regs, .mem, .core, .eng, .upd, .swm, .cap, .lp, .log, .fab, .host, .wort, .boot] P) {s : State} (hs : P s) : ∃ t, execQueenRestartDone s = .next t ∧ P t := by
  have K0 : Keeps [.regs] P := K.mono rfl
  have K1 : Keeps [.out, .regs] P := K.mono rfl
  have K2 : Keeps [.out, .regs, .mem, .core, .eng, .upd, .swm, .cap, .lp, .log, .fab, .host, .wort, .boot] P := K.mono rfl
  refine ⟨_, rfl, ?_⟩
  repeat' first
    | with_reducible assumption
    | intro _
    | with_reducible apply State.fset_keeps K0
    | with_reducible apply State.isum_keeps K1
    | with_reducible apply State.descRunAll_keeps K2
    | with_reducible refine ite_keeps ?_ ?_

end Sys2Proof.Machine
end

