-- ==== Sys2Proof/Laws/KeepsTrain.lean ====
section
/-! SUPPORT. What every operation may write: updates, swarm, vector, sampler and cell commands. One lemma per operation, by the components
it can reach (Laws/Keeps.lean). -/

namespace Sys2Proof.Machine

variable {P : State → Prop}

/-! UpdOps -/

/-- A fold over an update command's blocks. -/
theorem UpdRun.foldl_keeps {α : Type} {f : UpdRun → α → UpdRun} {l : List α} {x : UpdRun}
    (hf : ∀ x a, P x.s → P (f x a).s) (h : P x.s) : P (l.foldl f x).s := by
  induction l generalizing x with
  | nil => exact h
  | cons a t ih => exact ih (hf x a h)

theorem UpdRun.block_keeps (K : Keeps [.out, .regs, .mem, .core, .eng, .upd, .swm, .cap, .lp, .log, .fab, .host, .wort, .boot] P) {x : UpdRun} (die : Nat) (t : Trec) (seed : Seed)
    (step : Nat) (clip : Option Nat) (b : Nat) (hs : P x.s) : P (x.block die t seed step clip b).s := by
  unfold UpdRun.block
  split
  · exact hs
  · extract_lets
    split
    · next s1 e => exact fst_of e (State.memReads_keeps (K.mono rfl) _ _ hs)
    · next s1 e =>
      have h1 : P s1 := fst_of e (State.memReads_keeps (K.mono rfl) _ _ hs)
      dsimp only
      repeat' first
        | exact h1
        | split

theorem UpdRun.pend_keeps (K : Keeps [.out, .regs, .mem, .core, .eng, .upd, .swm, .cap, .lp, .log, .fab, .host, .wort, .boot] P) {x : UpdRun} (die : Nat) (t : Trec) (step b : Nat)
    (hs : P x.s) : P (x.pend die t step b).s := by
  unfold UpdRun.pend
  split
  · exact hs
  · extract_lets
    split
    · next s1 e => exact fst_of e (State.memReads_keeps (K.mono rfl) _ _ hs)
    · next s1 e =>
      have h1 : P s1 := fst_of e (State.memReads_keeps (K.mono rfl) _ _ hs)
      dsimp only
      repeat' first
        | exact h1
        | split

theorem UpdRun.normBlk_keeps (K : Keeps [.out, .regs, .mem, .core, .eng, .upd, .swm, .cap, .lp, .log, .fab, .host, .wort, .boot] P) {x : UpdRun} (die : Nat) (t : Trec) (step b : Nat)
    (hs : P x.s) : P (x.normBlk die t step b).s := by
  unfold UpdRun.normBlk
  split
  · exact hs
  · split
    · next s1 e => exact fst_of e (State.memReads_keeps (K.mono rfl) _ _ hs)
    · next s1 e =>
      have h1 : P s1 := fst_of e (State.memReads_keeps (K.mono rfl) _ _ hs)
      dsimp only
      repeat' first
        | exact h1
        | split

theorem State.saveWork_keeps (K : Keeps [.out, .regs, .mem, .core, .eng, .upd, .swm, .cap, .lp, .log, .fab, .host, .wort, .boot] P) {s : State} (die : Nat) (j : Job) (hs : P s) : P (State.saveWork s die j).1 := by
  have K0 : Keeps [.out, .regs, .mem, .core, .eng, .upd, .swm, .cap, .lp, .log, .fab, .host, .wort, .boot] P := K.mono rfl
  unfold State.saveWork
  repeat' first
    | with_reducible assumption
    | intro _
    | with_reducible apply State.memReads_keeps K0
    | with_reducible refine ite_keeps ?_ ?_
    | with_reducible refine ite_fst_keeps ?_ ?_
    | (with_reducible apply fst_of; with_reducible assumption)
    | split
    | extract_lets

theorem State.trecWork_keeps (K : Keeps [.out, .regs, .mem, .core, .eng, .upd, .swm, .cap, .lp, .log, .fab, .host, .wort, .boot] P) {s : State} (die : Nat) (j : Job) (hs : P s) : P (State.trecWork s die j).1 := by
  unfold State.trecWork
  extract_lets
  split
  extract_lets
  split
  · next s1 e => exact fst_of e (State.sramReads_keeps (K.mono rfl) _ _ hs)
  · next s1 e =>
    have h1 : P s1 := fst_of e (State.sramReads_keeps (K.mono rfl) _ _ hs)
    extract_lets
    repeat' first
      | exact h1
      | with_reducible refine ite_fst_keeps ?_ ?_
      | exact UpdRun.foldl_keeps (fun x a h => UpdRun.block_keeps (K.mono rfl) _ _ _ _ _ _ h) h1
      | exact UpdRun.foldl_keeps (fun x a h => UpdRun.pend_keeps (K.mono rfl) _ _ _ _ h) h1
      | exact UpdRun.foldl_keeps (fun x a h => UpdRun.normBlk_keeps (K.mono rfl) _ _ _ _ h) h1

theorem State.setUpdQ_keeps (K : Keeps [.regs, .upd] P) {s : State} (die : Nat) (q : List Job) (hs : P s) : P (State.setUpdQ s die q) := by
  have K0 : Keeps [.regs] P := K.mono rfl
  unfold State.setUpdQ
  repeat' first
    | with_reducible assumption
    | intro _
    | with_reducible apply State.updStat_keeps K0
    | with_reducible refine ite_keeps ?_ ?_
    | with_reducible apply K.lit
    | exact Or.inl (by decide)
    | exact Or.inr rfl

theorem State.openSlot_keeps (K : Keeps [.regs, .upd, .cap] P) {s : State} (die : Nat) (w : CmdWord) (hs : P s) : P (State.openSlot s die w) := by
  have K0 : Keeps [.cap] P := K.mono rfl
  have K1 : Keeps [.regs] P := K.mono rfl
  unfold State.openSlot
  repeat' first
    | with_reducible assumption
    | intro _
    | with_reducible apply State.setDieCap_keeps K0
    | with_reducible apply State.fset_keeps K1
    | with_reducible refine ite_keeps ?_ ?_
    | split
    | with_reducible apply K.lit
    | exact Or.inl (by decide)
    | exact Or.inr rfl

theorem State.updPump_keeps (K : Keeps [.out, .regs, .mem, .core, .eng, .upd, .swm, .cap, .lp, .log, .fab, .host, .wort, .boot] P) (a0 : Nat) {a1 : State} (a2 : Nat) (hs : P a1) : P (State.updPump a0 a1 a2) := by
  have K0 : Keeps [.regs, .upd] P := K.mono rfl
  have K1 : Keeps [.out, .regs, .mem, .core, .eng, .upd, .swm, .cap, .lp, .log, .fab, .host, .wort, .boot] P := K.mono rfl
  have K2 : Keeps [.eng] P := K.mono rfl
  have K3 : Keeps [.regs, .upd, .cap] P := K.mono rfl
  induction a0 generalizing a1 a2 with
  | zero => exact hs
  | succ n ih =>
    unfold State.updPump
    repeat' first
      | with_reducible assumption
      | with_reducible apply ih
      | intro _
      | with_reducible apply State.setUpdQ_keeps K0
      | with_reducible apply State.refuseJob_keeps K1
      | with_reducible apply State.markBusy_keeps K2
      | with_reducible apply State.saveWork_keeps K1
      | with_reducible apply State.trecWork_keeps K1
      | with_reducible apply State.openSlot_keeps K3
      | with_reducible refine ite_keeps ?_ ?_
      | with_reducible refine ite_fst_keeps ?_ ?_
      | split

theorem State.updRun_keeps (K : Keeps [.out, .regs, .mem, .core, .eng, .upd, .swm, .cap, .lp, .log, .fab, .host, .wort, .boot] P) {s : State} (die : Nat) (hs : P s) : P (State.updRun s die) := by
  have K0 : Keeps [.out, .regs, .mem, .core, .eng, .upd, .swm, .cap, .lp, .log, .fab, .host, .wort, .boot] P := K.mono rfl
  unfold State.updRun
  repeat' first
    | with_reducible assumption
    | intro _
    | with_reducible apply State.updPump_keeps K0

theorem State.diffByte_keeps (K : Keeps [.mem] P) {s : State} (die : Nat) (k : Nat) (pos : Nat) (x : Byte) (hs : P s) : P (State.diffByte s die k pos x) := by
  have K0 : Keeps [.mem] P := K.mono rfl
  unfold State.diffByte
  repeat' first
    | with_reducible assumption
    | intro _
    | with_reducible apply State.setByte_keeps K0
    | with_reducible refine ite_keeps ?_ ?_
    | with_reducible refine ite_fst_keeps ?_ ?_
    | with_reducible apply foldl_fst_keeps
    | with_reducible apply foldl_keeps

theorem State.diffWrite_keeps (K : Keeps [.mem, .upd] P) {s : State} (die : Nat) (k : Nat) (w : Nat × Nat × Bytes) (hs : P s) : P (State.diffWrite s die k w) := by
  have K0 : Keeps [.mem] P := K.mono rfl
  unfold State.diffWrite
  repeat' first
    | with_reducible assumption
    | intro _
    | with_reducible apply State.diffByte_keeps K0
    | with_reducible refine ite_keeps ?_ ?_
    | with_reducible refine ite_fst_keeps ?_ ?_
    | with_reducible apply foldl_fst_keeps
    | with_reducible apply foldl_keeps
    | with_reducible apply K.lit
    | exact Or.inl (by decide)
    | exact Or.inr rfl

theorem State.diffedWrite_keeps (K : Keeps [.out, .regs, .mem, .core, .eng, .upd, .swm, .cap, .lp, .log, .fab, .host, .wort, .boot] P) {s : State} (die : Nat) (k : Nat) (tag : Nat) (w : Nat × Nat × Bytes) (hs : P s) : P (State.diffedWrite s die k tag w).1 := by
  have K0 : Keeps [.mem, .upd] P := K.mono rfl
  have K1 : Keeps [.out, .regs, .mem, .core, .eng, .upd, .swm, .cap, .lp, .log, .fab, .host, .wort, .boot] P := K.mono rfl
  unfold State.diffedWrite
  repeat' first
    | with_reducible assumption
    | intro _
    | with_reducible apply State.diffWrite_keeps K0
    | with_reducible apply State.memWrite_keeps K1

theorem State.diffedWrites_keeps (K : Keeps [.out, .regs, .mem, .core, .eng, .upd, .swm, .cap, .lp, .log, .fab, .host, .wort, .boot] P) {s : State} (die : Nat) (k : Nat) (tag : Nat) (ws : List (Nat × Nat × Bytes)) (hs : P s) : P (State.diffedWrites s die k tag ws).1 := by
  have K0 : Keeps [.out, .regs, .mem, .core, .eng, .upd, .swm, .cap, .lp, .log, .fab, .host, .wort, .boot] P := K.mono rfl
  have K1 : Keeps [.regs, .eng, .fab] P := K.mono rfl
  unfold State.diffedWrites
  repeat' first
    | with_reducible assumption
    | intro _
    | with_reducible apply State.diffedWrite_keeps K0
    | with_reducible apply State.wcbFlush_keeps K0
    | with_reducible apply State.markBad_keeps K1
    | with_reducible refine ite_keeps ?_ ?_
    | with_reducible refine ite_fst_keeps ?_ ?_
    | split
    | with_reducible apply foldl_fst_keeps

theorem State.rollGranule_keeps (K : Keeps [.out, .regs, .mem, .core, .eng, .upd, .swm, .cap, .lp, .log, .fab, .host, .wort, .boot] P) {s : State} (die : Nat) (k : Nat) (r : SlotRec) (g : Nat) (hs : P s) : P (State.rollGranule s die k r g) := by
  have K0 : Keeps [.out, .regs, .mem, .core, .eng, .upd, .swm, .cap, .lp, .log, .fab, .host, .wort, .boot] P := K.mono rfl
  have K1 : Keeps [.mem] P := K.mono rfl
  unfold State.rollGranule
  repeat' first
    | with_reducible assumption
    | intro _
    | with_reducible apply State.memReads_keeps K0
    | with_reducible apply State.setByte_keeps K1
    | with_reducible refine ite_keeps ?_ ?_
    | with_reducible refine ite_fst_keeps ?_ ?_
    | (with_reducible apply fst_of; with_reducible assumption)
    | split
    | with_reducible apply foldl_fst_keeps
    | with_reducible apply foldl_keeps
    | extract_lets

theorem State.rollback_keeps (K : Keeps [.out, .regs, .mem, .core, .eng, .upd, .swm, .cap, .lp, .log, .fab, .host, .wort, .boot] P) {s : State} (die : Nat) (k : Nat) (hs : P s) : P (State.rollback s die k) := by
  have K0 : Keeps [.out, .regs, .mem, .core, .eng, .upd, .swm, .cap, .lp, .log, .fab, .host, .wort, .boot] P := K.mono rfl
  unfold State.rollback
  repeat' first
    | with_reducible assumption
    | intro _
    | with_reducible apply State.rollGranule_keeps K0
    | with_reducible refine ite_keeps ?_ ?_
    | with_reducible refine ite_fst_keeps ?_ ?_
    | with_reducible apply foldl_fst_keeps
    | with_reducible apply foldl_keeps

/-! SwarmOps -/

theorem State.setOp_keeps (K : Keeps [.swm] P) {s : State} (o : SwmOp) (hs : P s) : P (State.setOp s o) := by
  unfold State.setOp
  repeat' first
    | with_reducible assumption
    | intro _
    | with_reducible refine ite_keeps ?_ ?_
    | with_reducible apply K.lit
    | exact Or.inl (by decide)
    | exact Or.inr rfl

theorem State.dropOp_keeps (K : Keeps [.swm] P) {s : State} (o : SwmOp) (hs : P s) : P (State.dropOp s o) := by
  unfold State.dropOp
  repeat' first
    | with_reducible assumption
    | intro _
    | with_reducible refine ite_keeps ?_ ?_
    | with_reducible apply K.lit
    | exact Or.inl (by decide)
    | exact Or.inr rfl

theorem State.permSend_keeps (K : Keeps [.out, .regs, .mem, .core, .eng, .upd, .swm, .cap, .lp, .log, .fab, .host, .wort, .boot] P) {s : State} (job : Nat) (gid : Nat) (opseq : Nat) (m : SwmMember) (hs : P s) : P (State.permSend s job gid opseq m) := by
  have K0 : Keeps [.out, .regs, .mem, .core, .eng, .upd, .swm, .cap, .lp, .log, .fab, .host, .wort, .boot] P := K.mono rfl
  have K1 : Keeps [.swm] P := K.mono rfl
  unfold State.permSend
  repeat' first
    | with_reducible assumption
    | intro _
    | with_reducible apply State.memWrites_keeps K0
    | with_reducible apply State.setOp_keeps K1
    | with_reducible refine ite_keeps ?_ ?_
    | with_reducible refine ite_fst_keeps ?_ ?_
    | split
    | with_reducible apply foldl_fst_keeps
    | with_reducible apply foldl_keeps
    | extract_lets

theorem State.segOut_keeps (K : Keeps [.out, .swm, .fab] P) {s : State} (job : Nat) (gid : Nat) (opseq : Nat) (open_ : Bytes) (hop : Nat × Nat) (sour : Nat → Bool) (bs : Bytes) (hs : P s) : P (State.segOut s job gid opseq open_ hop sour bs) := by
  have K0 : Keeps [.out, .swm, .fab] P := K.mono rfl
  unfold State.segOut
  repeat' first
    | with_reducible assumption
    | intro _
    | with_reducible apply State.xferStart_keeps K0

theorem State.treeSend_keeps (K : Keeps [.out, .swm, .fab] P) {s : State} (g : Group) (o : SwmOp) (lat : Bool) (opk : Nat) (root : Nat) (base : Nat) (per : Nat) (unit : Nat) (up : Bool) (sour : Nat → Nat → Bool) (bs : Bytes) (hs : P s) : P (State.treeSend s g o lat opk root base per unit up sour bs) := by
  have K0 : Keeps [.out, .swm, .fab] P := K.mono rfl
  unfold State.treeSend
  repeat' first
    | with_reducible assumption
    | intro _
    | with_reducible apply State.segOut_keeps K0
    | with_reducible refine ite_keeps ?_ ?_
    | with_reducible refine ite_fst_keeps ?_ ?_
    | with_reducible apply foldl_fst_keeps
    | with_reducible apply foldl_keeps

theorem State.opSendSums_keeps (K : Keeps [.out, .swm, .fab] P) {s : State} (g : Group) (o : SwmOp) (r : Nat) (hs : P s) : P (State.opSendSums s g o r) := by
  have K0 : Keeps [.out, .swm, .fab] P := K.mono rfl
  unfold State.opSendSums
  repeat' first
    | with_reducible assumption
    | intro _
    | with_reducible apply State.treeSend_keeps K0
    | with_reducible refine ite_keeps ?_ ?_

theorem State.opOwn_keeps (K : Keeps [.out, .swm, .fab] P) {s : State} (g : Group) (o : SwmOp) (hs : P s) : P (State.opOwn s g o) := by
  have K0 : Keeps [.out, .swm, .fab] P := K.mono rfl
  unfold State.opOwn
  repeat' first
    | with_reducible assumption
    | intro _
    | with_reducible apply State.treeSend_keeps K0
    | with_reducible refine ite_keeps ?_ ?_
    | with_reducible refine ite_fst_keeps ?_ ?_
    | with_reducible apply foldl_fst_keeps
    | with_reducible apply foldl_keeps

theorem State.opForward_keeps (K : Keeps [.out, .swm, .fab] P) {s : State} (g : Group) (o : SwmOp) (hs : P s) : P (State.opForward s g o) := by
  have K0 : Keeps [.out, .swm, .fab] P := K.mono rfl
  have K1 : Keeps [.swm] P := K.mono rfl
  unfold State.opForward
  repeat' first
    | with_reducible assumption
    | intro _
    | with_reducible apply State.opSendSums_keeps K0
    | with_reducible apply State.setOp_keeps K1
    | with_reducible refine ite_keeps ?_ ?_
    | with_reducible refine ite_fst_keeps ?_ ?_
    | with_reducible apply foldl_fst_keeps
    | with_reducible apply foldl_keeps

theorem State.permRaise_keeps (K : Keeps [.swm] P) {s : State} (o : SwmOp) (hs : P s) : P (State.permRaise s o) := by
  have K0 : Keeps [.swm] P := K.mono rfl
  unfold State.permRaise
  repeat' first
    | with_reducible assumption
    | intro _
    | with_reducible apply State.setOp_keeps K0
    | with_reducible refine ite_keeps ?_ ?_

theorem State.permCount_keeps (K : Keeps [.out, .swm, .fab] P) {s : State} (g : Group) (o : SwmOp) (hs : P s) : P (State.permCount s g o) := by
  have K0 : Keeps [.swm] P := K.mono rfl
  have K1 : Keeps [.out, .swm, .fab] P := K.mono rfl
  unfold State.permCount
  repeat' first
    | with_reducible assumption
    | intro _
    | with_reducible apply State.setOp_keeps K0
    | with_reducible apply State.treeSend_keeps K1
    | with_reducible refine ite_keeps ?_ ?_

theorem State.permGo_keeps (K : Keeps [.out, .swm, .fab] P) {s : State} (g : Group) (job : Nat) (gid : Nat) (opseq : Nat) (hs : P s) : P (State.permGo s g job gid opseq) := by
  have K0 : Keeps [.swm] P := K.mono rfl
  have K1 : Keeps [.out, .swm, .fab] P := K.mono rfl
  unfold State.permGo
  repeat' first
    | with_reducible assumption
    | intro _
    | with_reducible apply State.permRaise_keeps K0
    | with_reducible apply State.permCount_keeps K1
    | with_reducible refine ite_keeps ?_ ?_

theorem State.dieOps_keeps (K : Keeps [.regs] P) {s : State} (die : Nat) (hs : P s) : P (State.dieOps s die) := by
  have K0 : Keeps [.regs] P := K.mono rfl
  unfold State.dieOps
  repeat' first
    | with_reducible assumption
    | intro _
    | with_reducible apply State.fset_keeps K0

theorem State.opSettle_keeps (K : Keeps [.swm] P) {s : State} (job : Nat) (gid : Nat) (opseq : Nat) (hs : P s) : P (State.opSettle s job gid opseq) := by
  have K0 : Keeps [.swm] P := K.mono rfl
  unfold State.opSettle
  repeat' first
    | with_reducible assumption
    | intro _
    | with_reducible apply State.dropOp_keeps K0
    | with_reducible refine ite_keeps ?_ ?_

theorem State.leaveOp_keeps (K : Keeps [.regs, .swm] P) {s : State} (o : SwmOp) (m : SwmMember) (hs : P s) : P (State.leaveOp s o m) := by
  have K0 : Keeps [.swm] P := K.mono rfl
  have K1 : Keeps [.regs] P := K.mono rfl
  unfold State.leaveOp
  repeat' first
    | with_reducible assumption
    | intro _
    | with_reducible apply State.dropOp_keeps K0
    | with_reducible apply State.setOp_keeps K0
    | with_reducible apply State.dieOps_keeps K1
    | with_reducible refine ite_keeps ?_ ?_

theorem State.swmFinish_keeps (K : Keeps [.out, .regs, .mem, .core, .eng, .upd, .swm, .cap, .lp, .log, .fab, .host, .wort, .boot] P) {s : State} (m : SwmMember) (status : Nat) (reason : Nat) (hs : P s) : P (State.swmFinish s m status reason) := by
  have K0 : Keeps [.out, .regs, .mem, .core, .eng, .upd, .swm, .cap, .lp, .log, .fab, .host, .wort, .boot] P := K.mono rfl
  have K1 : Keeps [.regs, .core, .host] P := K.mono rfl
  unfold State.swmFinish
  repeat' first
    | with_reducible assumption
    | intro _
    | with_reducible apply State.completeCmd_keeps K0
    | with_reducible apply State.cntAdd_keeps K1
    | with_reducible refine ite_keeps ?_ ?_

theorem State.opRead_keeps (K : Keeps [.out, .regs, .mem, .core, .eng, .upd, .swm, .cap, .lp, .log, .fab, .host, .wort, .boot] P) {s : State} (g : Group) (job : Nat) (gid : Nat) (opseq : Nat) (hs : P s) : P (State.opRead s g job gid opseq) := by
  have K0 : Keeps [.out, .regs, .mem, .core, .eng, .upd, .swm, .cap, .lp, .log, .fab, .host, .wort, .boot] P := K.mono rfl
  have K1 : Keeps [.regs, .swm] P := K.mono rfl
  unfold State.opRead
  repeat' first
    | with_reducible assumption
    | intro _
    | with_reducible apply State.memReads_keeps K0
    | with_reducible apply State.leaveOp_keeps K1
    | with_reducible apply State.swmFinish_keeps K0
    | with_reducible refine ite_keeps ?_ ?_
    | with_reducible refine ite_fst_keeps ?_ ?_
    | (with_reducible apply fst_of; with_reducible assumption)
    | split
    | with_reducible apply foldl_fst_keeps
    | with_reducible apply foldl_keeps

theorem State.opCapture_keeps (K : Keeps [.free, .out, .regs, .mem, .core, .eng, .upd, .swm, .cap, .lp, .log, .fab, .host, .wort, .boot] P) {s : State} (g : Group) (job : Nat) (gid : Nat) (opseq : Nat) (hs : P s) : P (State.opCapture s g job gid opseq) := by
  have K0 : Keeps [.out, .regs, .mem, .core, .eng, .upd, .swm, .cap, .lp, .log, .fab, .host, .wort, .boot] P := K.mono rfl
  have K1 : Keeps [.free] P := K.mono rfl
  have K2 : Keeps [.swm] P := K.mono rfl
  have K3 : Keeps [.out, .swm, .fab] P := K.mono rfl
  unfold State.opCapture
  repeat' first
    | with_reducible assumption
    | intro _
    | with_reducible apply State.opRead_keeps K0
    | with_reducible apply State.permSend_keeps K0
    | with_reducible apply State.drawn_keeps K1
    | with_reducible apply State.setOp_keeps K2
    | with_reducible apply State.opOwn_keeps K3
    | with_reducible refine ite_keeps ?_ ?_
    | with_reducible refine ite_fst_keeps ?_ ?_
    | with_reducible apply foldl_fst_keeps
    | with_reducible apply foldl_keeps

theorem State.opGo_keeps (K : Keeps [.free, .out, .regs, .mem, .core, .eng, .upd, .swm, .cap, .lp, .log, .fab, .host, .wort, .boot] P) {s : State} (job : Nat) (gid : Nat) (opseq : Nat) (hs : P s) : P (State.opGo s job gid opseq) := by
  have K0 : Keeps [.free, .out, .regs, .mem, .core, .eng, .upd, .swm, .cap, .lp, .log, .fab, .host, .wort, .boot] P := K.mono rfl
  have K1 : Keeps [.out, .swm, .fab] P := K.mono rfl
  unfold State.opGo
  repeat' first
    | with_reducible assumption
    | intro _
    | with_reducible apply State.opCapture_keeps K0
    | with_reducible apply State.opForward_keeps K1
    | with_reducible apply State.permGo_keeps K1
    | with_reducible refine ite_keeps ?_ ?_
    | split

theorem State.noteCut_keeps (K : Keeps [.regs, .log] P) {s : State} (g : Group) (m : SwmMember) (status : Nat) (hs : P s) : P (State.noteCut s g m status) := by
  have K0 : Keeps [.regs] P := K.mono rfl
  have K1 : Keeps [.log] P := K.mono rfl
  unfold State.noteCut
  repeat' first
    | with_reducible assumption
    | intro _
    | with_reducible apply State.finc_keeps K0
    | with_reducible apply State.dieRec_keeps K1
    | with_reducible refine ite_keeps ?_ ?_

theorem State.opPut_keeps (K : Keeps [.out, .regs, .mem, .core, .eng, .upd, .swm, .cap, .lp, .log, .fab, .host, .wort, .boot] P) {s : State} (g : Group) (o : SwmOp) (m : SwmMember) (ws : List (Nat × Bytes)) (bad : Bool) (hs : P s) : P (State.opPut s g o m ws bad) := by
  have K0 : Keeps [.out, .regs, .mem, .core, .eng, .upd, .swm, .cap, .lp, .log, .fab, .host, .wort, .boot] P := K.mono rfl
  have K1 : Keeps [.cap] P := K.mono rfl
  have K2 : Keeps [.regs, .log] P := K.mono rfl
  have K3 : Keeps [.regs, .swm] P := K.mono rfl
  unfold State.opPut
  repeat' first
    | with_reducible assumption
    | intro _
    | with_reducible apply State.memWrites_keeps K0
    | with_reducible apply State.recordSour_keeps K1
    | with_reducible apply State.noteCut_keeps K2
    | with_reducible apply State.leaveOp_keeps K3
    | with_reducible apply State.swmFinish_keeps K0
    | with_reducible refine ite_keeps ?_ ?_

theorem State.opEnd_keeps (K : Keeps [.free, .out, .regs, .mem, .core, .eng, .upd, .swm, .cap, .lp, .log, .fab, .host, .wort, .boot] P) {s : State} (g : Group) (o : SwmOp) (m : SwmMember) (hs : P s) : P (State.opEnd s g o m) := by
  have K0 : Keeps [.out, .regs, .mem, .core, .eng, .upd, .swm, .cap, .lp, .log, .fab, .host, .wort, .boot] P := K.mono rfl
  have K1 : Keeps [.regs, .swm] P := K.mono rfl
  have K2 : Keeps [.free] P := K.mono rfl
  have K3 : Keeps [.log] P := K.mono rfl
  unfold State.opEnd
  repeat' first
    | with_reducible assumption
    | intro _
    | with_reducible apply State.memReads_keeps K0
    | with_reducible apply State.leaveOp_keeps K1
    | with_reducible apply State.swmFinish_keeps K0
    | with_reducible apply State.drawn_keeps K2
    | with_reducible apply State.refuseRec_keeps K3
    | with_reducible apply State.opPut_keeps K0
    | with_reducible refine ite_keeps ?_ ?_
    | with_reducible refine ite_fst_keeps ?_ ?_
    | (with_reducible apply fst_of; with_reducible assumption)
    | split

theorem State.permCopies_keeps (K : Keeps [.out, .regs, .mem, .core, .eng, .upd, .swm, .cap, .lp, .log, .fab, .host, .wort, .boot] P) {s : State} (m : SwmMember) (k : Nat) (l : List PermEnt) (hs : P s) : P (State.permCopies s m k l).1 := by
  induction l generalizing s with
  | nil => exact hs
  | cons e es ih =>
    unfold State.permCopies
    split
    · next s1 h => exact fst_of h (State.memReads_keeps (K.mono rfl) _ _ hs)
    · next s1 h =>
      have h1 : P s1 := fst_of h (State.memReads_keeps (K.mono rfl) _ _ hs)
      extract_lets
      split
      · next s2 h' => exact fst_of h' (State.diffedWrites_keeps (K.mono rfl) _ _ _ _ h1)
      · next s2 h' => exact ih (fst_of h' (State.diffedWrites_keeps (K.mono rfl) _ _ _ _ h1))

theorem State.permPlace_keeps (K : Keeps [.out, .regs, .mem, .core, .eng, .upd, .swm, .cap, .lp, .log, .fab, .host, .wort, .boot] P) {s : State} (o : SwmOp) (m : SwmMember) (hs : P s) : P (State.permPlace s o m) := by
  have K0 : Keeps [.regs, .upd, .cap] P := K.mono rfl
  have K1 : Keeps [.out, .regs, .mem, .core, .eng, .upd, .swm, .cap, .lp, .log, .fab, .host, .wort, .boot] P := K.mono rfl
  have K2 : Keeps [.regs, .swm] P := K.mono rfl
  unfold State.permPlace
  repeat' first
    | with_reducible assumption
    | intro _
    | with_reducible apply State.openSlot_keeps K0
    | with_reducible apply State.permCopies_keeps K1
    | with_reducible apply State.leaveOp_keeps K2
    | with_reducible apply State.swmFinish_keeps K1
    | with_reducible refine ite_keeps ?_ ?_
    | with_reducible refine ite_fst_keeps ?_ ?_
    | split
    | extract_lets

theorem State.setSegs_keeps (K : Keeps [.swm] P) {s : State} (xs : List Seg) (hs : P s) : P (State.setSegs s xs) := by
  unfold State.setSegs
  repeat' first
    | with_reducible assumption
    | intro _
    | with_reducible refine ite_keeps ?_ ?_
    | with_reducible apply K.lit
    | exact Or.inl (by decide)
    | exact Or.inr rfl

theorem State.segGrant_keeps (K : Keeps [.out, .swm] P) (a0 : List Seg) {a1 : State} (hs : P a1) : P (State.segGrant a0 a1) := by
  have K0 : Keeps [.swm] P := K.mono rfl
  have K1 : Keeps [.out] P := K.mono rfl
  induction a0 generalizing a1 with
  | nil => exact hs
  | cons q t ih =>
    unfold State.segGrant
    repeat' first
      | with_reducible assumption
      | with_reducible apply ih
      | intro _
      | with_reducible apply State.setSegs_keeps K0
      | with_reducible apply State.sendAck_keeps K1
      | with_reducible refine ite_keeps ?_ ?_
      | split
      | with_reducible apply K.lit
      | exact Or.inl (by decide)
      | exact Or.inr rfl

theorem State.segDrop_keeps (K : Keeps [.out, .swm] P) {s : State} (p : Seg → Bool) (hs : P s) : P (State.segDrop s p) := by
  have K0 : Keeps [.out, .swm] P := K.mono rfl
  unfold State.segDrop
  repeat' first
    | with_reducible assumption
    | intro _
    | with_reducible apply State.segGrant_keeps K0
    | with_reducible refine ite_keeps ?_ ?_
    | with_reducible apply K.lit
    | exact Or.inl (by decide)
    | exact Or.inr rfl

theorem State.opFail_keeps (K : Keeps [.out, .regs, .mem, .core, .eng, .upd, .swm, .cap, .lp, .log, .fab, .host, .wort, .boot] P) {s : State} (o : SwmOp) (status : Nat) (reason : Nat) (hs : P s) : P (State.opFail s o status reason) := by
  have K0 : Keeps [.log] P := K.mono rfl
  have K1 : Keeps [.regs, .swm] P := K.mono rfl
  have K2 : Keeps [.out, .regs, .mem, .core, .eng, .upd, .swm, .cap, .lp, .log, .fab, .host, .wort, .boot] P := K.mono rfl
  unfold State.opFail
  repeat' first
    | with_reducible assumption
    | intro _
    | with_reducible apply State.refuseRec_keeps K0
    | with_reducible apply State.leaveOp_keeps K1
    | with_reducible apply State.swmFinish_keeps K2
    | with_reducible refine ite_keeps ?_ ?_
    | with_reducible refine ite_fst_keeps ?_ ?_
    | with_reducible apply foldl_fst_keeps
    | with_reducible apply foldl_keeps

theorem State.opMismatch_keeps (K : Keeps [.out, .regs, .mem, .core, .eng, .upd, .swm, .cap, .lp, .log, .fab, .host, .wort, .boot] P) {s : State} (job : Nat) (gid : Nat) (opseq : Nat) (hs : P s) : P (State.opMismatch s job gid opseq) := by
  have K0 : Keeps [.out, .regs, .mem, .core, .eng, .upd, .swm, .cap, .lp, .log, .fab, .host, .wort, .boot] P := K.mono rfl
  unfold State.opMismatch
  repeat' first
    | with_reducible assumption
    | intro _
    | with_reducible apply State.opFail_keeps K0
    | with_reducible refine ite_keeps ?_ ?_
    | with_reducible apply K.lit
    | exact Or.inl (by decide)
    | exact Or.inr rfl

theorem State.segOpen_keeps (K : Keeps [.out, .regs, .mem, .core, .eng, .upd, .swm, .cap, .lp, .log, .fab, .host, .wort, .boot] P) {s : State} (c : CellW) (hs : P s) : P (State.segOpen s c) := by
  have K0 : Keeps [.out, .regs, .log, .fab] P := K.mono rfl
  have K1 : Keeps [.regs] P := K.mono rfl
  have K2 : Keeps [.out, .regs, .log] P := K.mono rfl
  have K3 : Keeps [.out] P := K.mono rfl
  have K4 : Keeps [.out, .regs, .mem, .core, .eng, .upd, .swm, .cap, .lp, .log, .fab, .host, .wort, .boot] P := K.mono rfl
  have K5 : Keeps [.swm] P := K.mono rfl
  have K6 : Keeps [.out, .swm] P := K.mono rfl
  unfold State.segOpen
  repeat' first
    | with_reducible assumption
    | intro _
    | with_reducible apply State.dropJob_keeps K0
    | with_reducible apply State.finc_keeps K1
    | with_reducible apply State.hiveRec_keeps K2
    | with_reducible apply State.nackCell_keeps K3
    | with_reducible apply State.opMismatch_keeps K4
    | with_reducible apply State.setSegs_keeps K5
    | with_reducible apply State.segGrant_keeps K6
    | with_reducible refine ite_keeps ?_ ?_
    | split
    | extract_lets

theorem State.segJoin_keeps (K : Keeps [.out, .regs, .mem, .core, .eng, .upd, .swm, .cap, .lp, .log, .fab, .host, .wort, .boot] P) {s : State} (g : Group) (o : SwmOp) (x : Seg) (c : CellW) (hs : P s) : P (State.segJoin s g o x c).1 := by
  have K0 : Keeps [.out, .regs, .mem, .core, .eng, .upd, .swm, .cap, .lp, .log, .fab, .host, .wort, .boot] P := K.mono rfl
  unfold State.segJoin
  repeat' first
    | with_reducible assumption
    | intro _
    | with_reducible apply State.memWrites_keeps K0
    | with_reducible refine ite_keeps ?_ ?_
    | with_reducible refine ite_fst_keeps ?_ ?_
    | split

theorem State.segPass_keeps (K : Keeps [.out, .swm, .fab] P) {s : State} (hops : List (Nat × Nat)) (x : Seg) (k : CapKey) (gsum : Nat) (hs : P s) : P (State.segPass s hops x k gsum) := by
  have K0 : Keeps [.out, .swm, .fab] P := K.mono rfl
  unfold State.segPass
  repeat' first
    | with_reducible assumption
    | intro _
    | with_reducible apply State.segOut_keeps K0
    | with_reducible refine ite_keeps ?_ ?_
    | with_reducible refine ite_fst_keeps ?_ ?_
    | with_reducible apply foldl_fst_keeps
    | with_reducible apply foldl_keeps

theorem State.segTake_keeps (K : Keeps [.free, .out, .regs, .mem, .core, .eng, .upd, .swm, .cap, .lp, .log, .fab, .host, .wort, .boot] P) {s : State} (x : Seg) (c : CellW) (hs : P s) : P (State.segTake s x c) := by
  have K0 : Keeps [.out, .regs, .mem, .core, .eng, .upd, .swm, .cap, .lp, .log, .fab, .host, .wort, .boot] P := K.mono rfl
  have K1 : Keeps [.swm] P := K.mono rfl
  have K2 : Keeps [.out] P := K.mono rfl
  have K3 : Keeps [.out, .swm] P := K.mono rfl
  have K4 : Keeps [.out, .swm, .fab] P := K.mono rfl
  have K5 : Keeps [.free, .out, .regs, .mem, .core, .eng, .upd, .swm, .cap, .lp, .log, .fab, .host, .wort, .boot] P := K.mono rfl
  unfold State.segTake
  repeat' first
    | with_reducible assumption
    | intro _
    | with_reducible apply State.segJoin_keeps K0
    | with_reducible apply State.setOp_keeps K1
    | with_reducible apply State.setSegs_keeps K1
    | with_reducible apply State.sendAck_keeps K2
    | with_reducible apply State.segDrop_keeps K3
    | with_reducible apply State.segPass_keeps K4
    | with_reducible apply State.opGo_keeps K5
    | with_reducible refine ite_keeps ?_ ?_
    | with_reducible refine ite_fst_keeps ?_ ?_
    | split

theorem State.segData_keeps (K : Keeps [.free, .out, .regs, .mem, .core, .eng, .upd, .swm, .cap, .lp, .log, .fab, .host, .wort, .boot] P) {s : State} (c : CellW) (hs : P s) : P (State.segData s c) := by
  have K0 : Keeps [.regs] P := K.mono rfl
  have K1 : Keeps [.out, .regs, .log, .fab] P := K.mono rfl
  have K2 : Keeps [.swm] P := K.mono rfl
  have K3 : Keeps [.free, .out, .regs, .mem, .core, .eng, .upd, .swm, .cap, .lp, .log, .fab, .host, .wort, .boot] P := K.mono rfl
  unfold State.segData
  repeat' first
    | with_reducible assumption
    | intro _
    | with_reducible apply State.finc_keeps K0
    | with_reducible apply State.dropJob_keeps K1
    | with_reducible apply State.setSegs_keeps K2
    | with_reducible apply State.segTake_keeps K3
    | with_reducible refine ite_keeps ?_ ?_
    | split

theorem State.segAck_keeps (K : Keeps [.free, .out, .regs, .mem, .core, .eng, .upd, .swm, .cap, .lp, .log, .fab, .host, .wort, .boot] P) {s : State} (id : Nat) (x : Xfer) (bytes : Nat) (hs : P s) : P (State.segAck s id x bytes) := by
  have K0 : Keeps [.fab] P := K.mono rfl
  have K1 : Keeps [.out, .swm, .fab] P := K.mono rfl
  have K2 : Keeps [.free, .out, .regs, .mem, .core, .eng, .upd, .swm, .cap, .lp, .log, .fab, .host, .wort, .boot] P := K.mono rfl
  have K3 : Keeps [.swm] P := K.mono rfl
  have K4 : Keeps [.out] P := K.mono rfl
  unfold State.segAck
  repeat' first
    | with_reducible assumption
    | intro _
    | with_reducible apply State.xferEnd_keeps K0
    | with_reducible apply State.latRun_keeps K1
    | with_reducible apply State.opGo_keeps K2
    | with_reducible apply State.opSettle_keeps K3
    | with_reducible apply State.emits_keeps K4
    | with_reducible refine ite_keeps ?_ ?_
    | split
    | with_reducible apply K.lit
    | exact Or.inl (by decide)
    | exact Or.inr rfl

theorem State.heldPieces_keeps (K : Keeps [.free, .out, .regs, .mem, .core, .eng, .upd, .swm, .cap, .lp, .log, .fab, .host, .wort, .boot] P) {s : State} (job : Nat) (gid : Nat) (opseq : Nat) (idx : Nat) (hs : P s) : P (State.heldPieces s job gid opseq idx) := by
  have K0 : Keeps [.swm] P := K.mono rfl
  have K1 : Keeps [.free, .out, .regs, .mem, .core, .eng, .upd, .swm, .cap, .lp, .log, .fab, .host, .wort, .boot] P := K.mono rfl
  unfold State.heldPieces
  repeat' first
    | with_reducible assumption
    | intro _
    | with_reducible apply State.setSegs_keeps K0
    | with_reducible apply State.segData_keeps K1
    | with_reducible refine ite_keeps ?_ ?_
    | with_reducible refine ite_fst_keeps ?_ ?_
    | with_reducible apply foldl_fst_keeps
    | with_reducible apply foldl_keeps

theorem State.swmIssue_keeps (K : Keeps [.free, .out, .regs, .mem, .core, .eng, .upd, .swm, .cap, .lp, .log, .fab, .host, .wort, .boot] P) {s : State} (core : Nat) (opc : Nat) (hs : P s) : P (State.swmIssue s core opc) := by
  have K0 : Keeps [.free, .out, .regs, .mem, .core, .eng, .upd, .swm, .cap, .lp, .log, .fab, .host, .wort, .boot] P := K.mono rfl
  have K1 : Keeps [.regs, .core, .host] P := K.mono rfl
  have K2 : Keeps [.cap] P := K.mono rfl
  have K3 : Keeps [.out, .regs, .mem, .core, .eng, .upd, .swm, .cap, .lp, .log, .fab, .host, .wort, .boot] P := K.mono rfl
  have K4 : Keeps [.log] P := K.mono rfl
  have K5 : Keeps [.swm] P := K.mono rfl
  have K6 : Keeps [.regs] P := K.mono rfl
  unfold State.swmIssue
  repeat' first
    | with_reducible assumption
    | intro _
    | with_reducible apply State.issue_keeps K0
    | with_reducible apply State.completeRaw_keeps K1
    | with_reducible apply State.bindCmd_keeps K2
    | with_reducible apply State.refuseOrB_keeps K3
    | with_reducible apply State.refuseRec_keeps K4
    | with_reducible apply State.completeCmd_keeps K3
    | with_reducible apply State.setOp_keeps K5
    | with_reducible apply State.heldPieces_keeps K0
    | with_reducible apply State.opGo_keeps K0
    | with_reducible apply State.dieOps_keeps K6
    | with_reducible refine ite_keeps ?_ ?_
    | split
    | with_reducible apply K.lit
    | exact Or.inl (by decide)
    | exact Or.inr rfl

theorem State.epochNext_keeps (K : Keeps [.out, .regs, .swm, .log, .fab] P) {s : State} (g : Group) (hs : P s) : P (State.epochNext s g) := by
  have K0 : Keeps [.regs] P := K.mono rfl
  have K1 : Keeps [.out, .swm] P := K.mono rfl
  have K2 : Keeps [.fab] P := K.mono rfl
  have K3 : Keeps [.out, .regs, .log] P := K.mono rfl
  have K4 : Keeps [.out] P := K.mono rfl
  unfold State.epochNext
  repeat' first
    | with_reducible assumption
    | intro _
    | with_reducible apply State.finc_keeps K0
    | with_reducible apply State.segDrop_keeps K1
    | with_reducible apply State.xfersEnd_keeps K2
    | with_reducible apply State.hiveRec_keeps K3
    | with_reducible apply State.queenMsg_keeps K4
    | with_reducible apply State.relaysOut_keeps K4
    | with_reducible refine ite_keeps ?_ ?_
    | with_reducible refine ite_fst_keeps ?_ ?_
    | split
    | with_reducible apply foldl_fst_keeps
    | with_reducible apply foldl_keeps
    | with_reducible apply K.lit
    | exact Or.inl (by decide)
    | exact Or.inr rfl

theorem State.opRestart_keeps (K : Keeps [.free, .out, .regs, .mem, .core, .eng, .upd, .swm, .cap, .lp, .log, .fab, .host, .wort, .boot] P) {s : State} (g : Group) (o : SwmOp) (hs : P s) : P (State.opRestart s g o) := by
  have K0 : Keeps [.out, .swm, .fab] P := K.mono rfl
  have K1 : Keeps [.swm] P := K.mono rfl
  have K2 : Keeps [.free, .out, .regs, .mem, .core, .eng, .upd, .swm, .cap, .lp, .log, .fab, .host, .wort, .boot] P := K.mono rfl
  unfold State.opRestart
  repeat' first
    | with_reducible assumption
    | intro _
    | with_reducible apply State.treeSend_keeps K0
    | with_reducible apply State.setOp_keeps K1
    | with_reducible apply State.opOwn_keeps K0
    | with_reducible apply State.opForward_keeps K0
    | with_reducible apply State.opGo_keeps K2
    | with_reducible refine ite_keeps ?_ ?_

/-! VecCmds -/

theorem State.vecChunk_keeps (K : Keeps [.out, .regs, .mem, .core, .eng, .upd, .swm, .cap, .lp, .log, .fab, .host, .wort, .boot] P) {s : State} (die : Nat) (f : Nat) (off : Nat) (rowlen : Nat) (ch : Nat) (hs : P s) : P (State.vecChunk s die f off rowlen ch).1 := by
  have K0 : Keeps [.out, .regs, .mem, .core, .eng, .upd, .swm, .cap, .lp, .log, .fab, .host, .wort, .boot] P := K.mono rfl
  unfold State.vecChunk
  repeat' first
    | with_reducible assumption
    | intro _
    | with_reducible apply State.sramReads_keeps K0
    | with_reducible refine ite_keeps ?_ ?_
    | with_reducible refine ite_fst_keeps ?_ ?_
    | (with_reducible apply fst_of; with_reducible assumption)
    | split
    | extract_lets

/-- A fold that leaves the state of a VEC alone. -/
theorem VRun.foldl_s {α : Type} {f : VRun → α → VRun} (hf : ∀ x a, (f x a).s = x.s) (l : List α) (x : VRun) :
    (l.foldl f x).s = x.s := by
  induction l generalizing x with
  | nil => rfl
  | cons a t ih => exact (ih (f x a)).trans (hf x a)

/-- A fold over the parts of a VEC. -/
theorem VRun.foldl_keeps {α : Type} {f : VRun → α → VRun} {l : List α} {x : VRun}
    (hf : ∀ x a, P x.s → P (f x a).s) (h : P x.s) : P (l.foldl f x).s := by
  induction l generalizing x with
  | nil => exact h
  | cons a t ih => exact ih (hf x a h)

theorem VRun.put_s (x : VRun) (o l v : Nat) : (x.put o l v).s = x.s := by
  unfold VRun.put
  split
  · rfl
  · rfl

theorem VRun.lane_s (x : VRun) (c : VecCmd) (cs : List Nat) (r k m l e : Nat) : (x.lane c cs r k m l e).s = x.s := by
  unfold VRun.lane
  extract_lets
  repeat' first
    | exact VRun.put_s _ _ _ _
    | rfl
    | split

theorem VRun.chunkOp_s (x : VRun) (c : VecCmd) (cs : List Nat) (r k m base act : Nat) :
    (x.chunkOp c cs r k m base act).s = x.s := by
  unfold VRun.chunkOp
  split
  · rfl
  · exact VRun.foldl_s (fun x l => VRun.lane_s _ _ _ _ _ _ _ _) _ _

theorem VRun.loadChunk_keeps (K : Keeps [.out, .regs, .mem, .core, .eng, .upd, .swm, .cap, .lp, .log, .fab, .host, .wort, .boot] P) {x : VRun} (c : VecCmd) (r ch : Nat)
    (hs : P x.s) : P (x.loadChunk c r ch).s := by
  unfold VRun.loadChunk
  extract_lets
  refine VRun.foldl_keeps (fun x p h => ?_) hs
  split
  · exact h
  · split
    · next e => exact fst_of e (State.vecChunk_keeps (K.mono rfl) _ _ _ _ _ h)
    · next e => exact fst_of e (State.vecChunk_keeps (K.mono rfl) _ _ _ _ _ h)

theorem VRun.emitChunk_keeps (K : Keeps [.mem, .eng] P) {x : VRun} (c : VecCmd) (r ch act : Nat)
    (hs : P x.s) : P (x.emitChunk c r ch act).s := by
  unfold VRun.emitChunk
  split
  · exact hs
  · extract_lets
    split
    · exact hs
    · split
      have h1 : ∀ o bs, P (x.s.sramWrite c.die o bs) := fun o bs => State.sramWrite_keeps (K.mono rfl) _ _ _ hs
      repeat' first
        | exact h1 _ _
        | exact State.sramWrite_keeps (K.mono rfl) _ _ _ (h1 _ _)
        | split

theorem VRun.chunk_keeps (K : Keeps [.out, .regs, .mem, .core, .eng, .upd, .swm, .cap, .lp, .log, .fab, .host, .wort, .boot] P) {x : VRun} (c : VecCmd) (cs : List Nat)
    (r lo hi : Nat) (last : Bool) (ch : Nat) (hs : P x.s) : P (x.chunk c cs r lo hi last ch).s := by
  unfold VRun.chunk
  split
  · exact hs
  · extract_lets act x1 x2
    have h1 : P x1.s := VRun.loadChunk_keeps (K.mono rfl) _ _ _ hs
    have h2 : x2.s = x1.s := VRun.foldl_s (fun x i => by
      dsimp only
      split
      · rfl
      · exact VRun.chunkOp_s _ _ _ _ _ _ _ _) _ _
    split
    · exact h1
    · split
      · exact VRun.emitChunk_keeps (K.mono rfl) _ _ _ _ (h2 ▸ h1)
      · exact h2 ▸ h1

theorem VRun.phase_keeps (K : Keeps [.out, .regs, .mem, .core, .eng, .upd, .swm, .cap, .lp, .log, .fab, .host, .wort, .boot] P) {x : VRun} (c : VecCmd) (cs : List Nat) (r lo hi : Nat)
    (last : Bool) (hs : P x.s) : P (x.phase c cs r lo hi last).s := by
  unfold VRun.phase
  split
  · exact hs
  · extract_lets x0 x1 x2
    have h1 : x1.s = x0.s := VRun.foldl_s (fun x i => by
      dsimp only
      split
      · exact VRun.lane_s _ _ _ _ _ _ _ _
      · rfl) _ _
    have h2 : P x2.s := VRun.foldl_keeps (fun x ch h => VRun.chunk_keeps K _ _ _ _ _ _ _ h) (h1 ▸ hs)
    split
    · exact h2
    · refine VRun.foldl_keeps (fun x i h => ?_) h2
      dsimp only
      split
      · exact (VRun.put_s _ _ _ _).symm ▸ h
      · exact h

theorem VRun.row_keeps (K : Keeps [.out, .regs, .mem, .core, .eng, .upd, .swm, .cap, .lp, .log, .fab, .host, .wort, .boot] P) {x : VRun} (c : VecCmd) (cs : List Nat) (r : Nat)
    (hs : P x.s) : P (x.row c cs r).s := by
  unfold VRun.row
  split
  · exact hs
  · exact VRun.foldl_keeps (fun x p h => VRun.phase_keeps K _ _ _ _ _ _ h) hs

theorem VecCmd.run_keeps (K : Keeps [.out, .regs, .mem, .core, .eng, .upd, .swm, .cap, .lp, .log, .fab, .host, .wort, .boot] P) (c : VecCmd) {s : State} (hs : P s) : P (VecCmd.run c s).1 := by
  unfold VecCmd.run
  split
  · next e => exact fst_of e (State.sramReads_keeps (K.mono rfl) _ _ hs)
  · next e =>
    exact VRun.foldl_keeps (fun x r h => VRun.row_keeps K _ _ _ h)
      (fst_of e (State.sramReads_keeps (K.mono rfl) _ _ hs))

theorem execVec_keeps (K : Keeps [.free, .out, .regs, .mem, .core, .eng, .upd, .swm, .cap, .lp, .log, .fab, .host, .wort, .boot] P) (core : CoreId) {s : State} (hs : P s) : ∃ t, execVec core s = .next t ∧ P t := by
  have K0 : Keeps [.free, .out, .regs, .mem, .core, .eng, .upd, .swm, .cap, .lp, .log, .fab, .host, .wort, .boot] P := K.mono rfl
  have K1 : Keeps [.regs, .core, .log, .host] P := K.mono rfl
  have K2 : Keeps [.out, .regs, .mem, .core, .eng, .upd, .swm, .cap, .lp, .log, .fab, .host, .wort, .boot] P := K.mono rfl
  have K3 : Keeps [.regs, .core, .host] P := K.mono rfl
  refine ⟨_, rfl, ?_⟩
  repeat' first
    | with_reducible assumption
    | intro _
    | with_reducible apply State.issue_keeps K0
    | with_reducible apply State.refuseOr_keeps K1
    | with_reducible apply VecCmd.run_keeps K2
    | with_reducible apply State.finish_keeps K2
    | with_reducible apply State.completeRaw_keeps K3
    | with_reducible refine ite_keeps ?_ ?_
    | with_reducible refine ite_fst_keeps ?_ ?_
    | (with_reducible apply fst_of; with_reducible assumption)
    | split
    | extract_lets

/-! SampleOps -/

theorem State.sendPart_keeps (K : Keeps [.out, .swm, .fab] P) {s : State} (j : Job) (p : SmpPart) (hs : P s) : P (State.sendPart s j p) := by
  have K0 : Keeps [.out, .swm, .fab] P := K.mono rfl
  unfold State.sendPart
  repeat' first
    | with_reducible assumption
    | intro _
    | with_reducible apply State.xferStart_keeps K0

theorem State.dropPart_keeps (K : Keeps [.smp] P) {s : State} (core : Nat) (seq : Nat) (hs : P s) : P (State.dropPart s core seq) := by
  unfold State.dropPart
  repeat' first
    | with_reducible assumption
    | intro _
    | with_reducible refine ite_keeps ?_ ?_
    | with_reducible apply K.lit
    | exact Or.inl (by decide)
    | exact Or.inr rfl

theorem State.partEnd_keeps (K : Keeps [.out, .regs, .mem, .core, .eng, .smp, .upd, .swm, .cap, .lp, .log, .fab, .host, .wort, .boot] P) {s : State} (r : PartRec) (status : Nat) (reason : Nat) (nflags : Nat) (hs : P s) : P (State.partEnd s r status reason nflags) := by
  have K0 : Keeps [.cap] P := K.mono rfl
  have K1 : Keeps [.smp] P := K.mono rfl
  have K2 : Keeps [.out, .regs, .mem, .core, .eng, .upd, .swm, .cap, .lp, .log, .fab, .host, .wort, .boot] P := K.mono rfl
  unfold State.partEnd
  repeat' first
    | with_reducible assumption
    | intro _
    | with_reducible apply State.recordSour_keeps K0
    | with_reducible apply State.dropPart_keeps K1
    | with_reducible apply State.finish_keeps K2
    | with_reducible refine ite_keeps ?_ ?_

theorem State.partIdFree_keeps (K : Keeps [.fab] P) {s : State} (r : PartRec) (hs : P s) : P (State.partIdFree s r) := by
  have K0 : Keeps [.fab] P := K.mono rfl
  unfold State.partIdFree
  repeat' first
    | with_reducible assumption
    | intro _
    | with_reducible apply State.xferEnd_keeps K0
    | with_reducible refine ite_keeps ?_ ?_
    | split

theorem State.partDense_keeps (K : Keeps [.out, .regs, .mem, .core, .eng, .smp, .upd, .swm, .cap, .lp, .log, .fab, .host, .wort, .boot] P) {s : State} (r : PartRec) (sour : Bool) (m : Nat) (l : Nat) (hs : P s) : P (State.partDense s r sour m l) := by
  have K0 : Keeps [.out, .regs, .mem, .core, .eng, .smp, .upd, .swm, .cap, .lp, .log, .fab, .host, .wort, .boot] P := K.mono rfl
  have K1 : Keeps [.mem, .eng] P := K.mono rfl
  unfold State.partDense
  repeat' first
    | with_reducible assumption
    | intro _
    | with_reducible apply State.partEnd_keeps K0
    | with_reducible apply State.sramWrite_keeps K1
    | with_reducible refine ite_keeps ?_ ?_

theorem State.partReply_keeps (K : Keeps [.out] P) {s : State} (p : SmpPart) (status : Nat) (hs : P s) : P (State.partReply s p status) := by
  have K0 : Keeps [.out] P := K.mono rfl
  unfold State.partReply
  repeat' first
    | with_reducible assumption
    | intro _
    | with_reducible apply State.sendAck_keeps K0
    | with_reducible apply State.sendNack_keeps K0
    | with_reducible refine ite_keeps ?_ ?_

theorem State.setSmp_keeps (K : Keeps [.regs, .smp] P) {s : State} (f : SmpSt → SmpSt) (hs : P s) : P (State.setSmp s f) := by
  have K0 : Keeps [.regs] P := K.mono rfl
  unfold State.setSmp
  repeat' first
    | with_reducible assumption
    | intro _
    | with_reducible apply State.fset_keeps K0
    | with_reducible refine ite_keeps ?_ ?_
    | with_reducible apply K.lit
    | exact Or.inl (by decide)
    | exact Or.inr rfl

theorem State.smpReturnFar_keeps (K : Keeps [.out, .swm, .fab] P) {s : State} (c : SmpCtx) (f : Nat × Nat × Nat) (status : Nat) (rec_ : Bytes) (cnt : Bool) (hs : P s) : P (State.smpReturnFar s c f status rec_ cnt) := by
  have K0 : Keeps [.out, .swm, .fab] P := K.mono rfl
  have K1 : Keeps [.out] P := K.mono rfl
  unfold State.smpReturnFar
  repeat' first
    | with_reducible assumption
    | intro _
    | with_reducible apply State.sendAdd_keeps K0
    | with_reducible apply State.sendAck_keeps K1
    | with_reducible apply State.sendNack_keeps K1
    | with_reducible apply State.sendStreams_keeps K0
    | with_reducible refine ite_keeps ?_ ?_

theorem State.smpReturn_keeps (K : Keeps [.out, .regs, .mem, .core, .eng, .upd, .swm, .cap, .lp, .log, .fab, .host, .wort, .boot] P) {s : State} (c : SmpCtx) (status : Nat) (reason : Nat) (rec_ : Bytes) (cnt : Bool) (hs : P s) : P (State.smpReturn s c status reason rec_ cnt) := by
  have K0 : Keeps [.out, .swm, .fab] P := K.mono rfl
  have K1 : Keeps [.mem, .eng] P := K.mono rfl
  have K2 : Keeps [.out, .regs, .mem, .core, .eng, .upd, .swm, .cap, .lp, .log, .fab, .host, .wort, .boot] P := K.mono rfl
  have K3 : Keeps [.regs, .core, .host] P := K.mono rfl
  unfold State.smpReturn
  repeat' first
    | with_reducible assumption
    | intro _
    | with_reducible apply State.smpReturnFar_keeps K0
    | with_reducible apply State.sramWrite_keeps K1
    | with_reducible apply State.completeCmd_keeps K2
    | with_reducible apply State.cntAdd_keeps K3
    | with_reducible refine ite_keeps ?_ ?_
    | split

theorem State.smpDone_keeps (K : Keeps [.out, .regs, .mem, .core, .eng, .smp, .upd, .swm, .cap, .lp, .log, .fab, .host, .wort, .boot] P) {s : State} (c : SmpCtx) (status : Nat) (reason : Nat) (rec_ : Bytes) (hs : P s) : P (State.smpDone s c status reason rec_) := by
  have K0 : Keeps [.regs, .smp] P := K.mono rfl
  have K1 : Keeps [.out, .regs, .mem, .core, .eng, .upd, .swm, .cap, .lp, .log, .fab, .host, .wort, .boot] P := K.mono rfl
  unfold State.smpDone
  repeat' first
    | with_reducible assumption
    | intro _
    | with_reducible apply State.setSmp_keeps K0
    | with_reducible apply State.smpReturn_keeps K1

theorem State.sendBcast_keeps (K : Keeps [.out, .swm, .fab] P) {s : State} (p : SmpPart) (sour : Bool) (m : Nat) (l : Nat) (hs : P s) : P (State.sendBcast s p sour m l) := by
  have K0 : Keeps [.out, .swm, .fab] P := K.mono rfl
  unfold State.sendBcast
  repeat' first
    | with_reducible assumption
    | intro _
    | with_reducible apply State.xferStart_keeps K0

theorem State.smpAcked_keeps (K : Keeps [.out, .regs, .mem, .core, .eng, .smp, .upd, .swm, .cap, .lp, .log, .fab, .host, .wort, .boot] P) {s0 : State} (job : Nat) (sid : Nat) (status : Nat) (hs : P s0) : P (State.smpAcked s0 job sid status) := by
  have K0 : Keeps [.out, .regs, .mem, .core, .eng, .smp, .upd, .swm, .cap, .lp, .log, .fab, .host, .wort, .boot] P := K.mono rfl
  unfold State.smpAcked
  repeat' first
    | with_reducible assumption
    | intro _
    | with_reducible apply State.smpDone_keeps K0
    | with_reducible refine ite_keeps ?_ ?_
    | split
    | with_reducible apply K.lit
    | exact Or.inl (by decide)
    | exact Or.inr rfl

theorem State.smpBcast_keeps (K : Keeps [.out, .regs, .smp, .swm, .fab] P) {s : State} (c : SmpCtx) (sour : Bool) (m : Nat) (l : Nat) (hs : P s) : P (State.smpBcast s c sour m l) := by
  have K0 : Keeps [.regs, .smp] P := K.mono rfl
  have K1 : Keeps [.out, .swm, .fab] P := K.mono rfl
  unfold State.smpBcast
  repeat' first
    | with_reducible assumption
    | intro _
    | with_reducible apply State.setSmp_keeps K0
    | with_reducible apply State.sendBcast_keeps K1
    | with_reducible refine ite_keeps ?_ ?_
    | with_reducible refine ite_fst_keeps ?_ ?_
    | with_reducible apply foldl_fst_keeps
    | with_reducible apply foldl_keeps

theorem State.smpFenced_keeps (K : Keeps [.out, .regs, .mem, .core, .eng, .upd, .swm, .cap, .lp, .log, .fab, .host, .wort, .boot] P) {s : State} (c : SmpCtx) (hs : P s) : P (State.smpFenced s c) := by
  have K0 : Keeps [.out] P := K.mono rfl
  have K1 : Keeps [.out, .regs, .mem, .core, .eng, .upd, .swm, .cap, .lp, .log, .fab, .host, .wort, .boot] P := K.mono rfl
  unfold State.smpFenced
  repeat' first
    | with_reducible assumption
    | intro _
    | with_reducible apply State.sendNack_keeps K0
    | with_reducible apply State.voteFailed_keeps K1
    | with_reducible apply State.completeCmd_keeps K1
    | with_reducible refine ite_keeps ?_ ?_
    | split

theorem State.smpMerge_keeps (K : Keeps [.out, .regs, .mem, .core, .eng, .smp, .upd, .swm, .cap, .lp, .log, .fab, .host, .wort, .boot] P) {s0 : State} (c : SmpCtx) (hs : P s0) : P (State.smpMerge s0 c) := by
  have K0 : Keeps [.eng] P := K.mono rfl
  have K1 : Keeps [.out, .regs, .smp, .swm, .fab] P := K.mono rfl
  have K2 : Keeps [.out, .regs, .mem, .core, .eng, .smp, .upd, .swm, .cap, .lp, .log, .fab, .host, .wort, .boot] P := K.mono rfl
  have K3 : Keeps [.regs, .smp] P := K.mono rfl
  have K4 : Keeps [.out, .regs, .mem, .core, .eng, .upd, .swm, .cap, .lp, .log, .fab, .host, .wort, .boot] P := K.mono rfl
  unfold State.smpMerge
  repeat' first
    | with_reducible assumption
    | intro _
    | with_reducible apply State.markBusy_keeps K0
    | with_reducible apply State.smpBcast_keeps K1
    | with_reducible apply State.smpDone_keeps K2
    | with_reducible apply State.setSmp_keeps K3
    | with_reducible apply State.smpFenced_keeps K4
    | with_reducible refine ite_keeps ?_ ?_

theorem State.smpLate_keeps (K : Keeps [.out, .regs] P) {s : State} (p : SmpPart) (hs : P s) : P (State.smpLate s p) := by
  have K0 : Keeps [.regs] P := K.mono rfl
  have K1 : Keeps [.out] P := K.mono rfl
  unfold State.smpLate
  repeat' first
    | with_reducible assumption
    | intro _
    | with_reducible apply State.finc_keeps K0
    | with_reducible apply State.partReply_keeps K1

theorem State.smpJoin_keeps (K : Keeps [.out, .regs, .mem, .core, .eng, .smp, .upd, .swm, .cap, .lp, .log, .fab, .host, .wort, .boot] P) {s : State} (c : SmpCtx) (p : SmpPart) (hs : P s) : P (State.smpJoin s c p) := by
  have K0 : Keeps [.out, .regs] P := K.mono rfl
  have K1 : Keeps [.out, .regs, .log] P := K.mono rfl
  have K2 : Keeps [.out] P := K.mono rfl
  have K3 : Keeps [.regs, .smp] P := K.mono rfl
  have K4 : Keeps [.out, .regs, .mem, .core, .eng, .smp, .upd, .swm, .cap, .lp, .log, .fab, .host, .wort, .boot] P := K.mono rfl
  unfold State.smpJoin
  repeat' first
    | with_reducible assumption
    | intro _
    | with_reducible apply State.smpLate_keeps K0
    | with_reducible apply State.refuseItem_keeps K1
    | with_reducible apply State.partReply_keeps K2
    | with_reducible apply State.setSmp_keeps K3
    | with_reducible apply State.smpMerge_keeps K4
    | with_reducible refine ite_keeps ?_ ?_

theorem State.smpArrive_keeps (K : Keeps [.out, .regs, .mem, .core, .eng, .smp, .upd, .swm, .cap, .lp, .log, .fab, .host, .wort, .boot] P) {s : State} (p : SmpPart) (hs : P s) : P (State.smpArrive s p) := by
  have K0 : Keeps [.out, .regs, .mem, .core, .eng, .smp, .upd, .swm, .cap, .lp, .log, .fab, .host, .wort, .boot] P := K.mono rfl
  have K1 : Keeps [.out, .regs] P := K.mono rfl
  have K2 : Keeps [.regs] P := K.mono rfl
  have K3 : Keeps [.out] P := K.mono rfl
  unfold State.smpArrive
  repeat' first
    | with_reducible assumption
    | intro _
    | with_reducible apply State.smpJoin_keeps K0
    | with_reducible apply State.smpLate_keeps K1
    | with_reducible apply State.finc_keeps K2
    | with_reducible apply State.partReply_keeps K3
    | with_reducible refine ite_keeps ?_ ?_
    | split
    | with_reducible apply K.lit
    | exact Or.inl (by decide)
    | exact Or.inr rfl

theorem State.smpAdmit_keeps (K : Keeps [.out, .regs, .mem, .core, .eng, .smp, .upd, .swm, .cap, .lp, .log, .fab, .host, .wort, .boot] P) {s : State} (c : SmpCtx) (hs : P s) : P (State.smpAdmit s c) := by
  have K0 : Keeps [.out, .regs, .log] P := K.mono rfl
  have K1 : Keeps [.out, .regs, .mem, .core, .eng, .upd, .swm, .cap, .lp, .log, .fab, .host, .wort, .boot] P := K.mono rfl
  have K2 : Keeps [.regs, .smp] P := K.mono rfl
  have K3 : Keeps [.out, .regs, .mem, .core, .eng, .smp, .upd, .swm, .cap, .lp, .log, .fab, .host, .wort, .boot] P := K.mono rfl
  unfold State.smpAdmit
  repeat' first
    | with_reducible assumption
    | intro _
    | with_reducible apply State.refuseItem_keeps K0
    | with_reducible apply State.smpReturn_keeps K1
    | with_reducible apply State.setSmp_keeps K2
    | with_reducible apply State.smpArrive_keeps K3
    | with_reducible refine ite_keeps ?_ ?_
    | with_reducible refine ite_fst_keeps ?_ ?_
    | with_reducible apply foldl_fst_keeps
    | with_reducible apply foldl_keeps

theorem State.smpOpenAt_keeps (K : Keeps [.out, .regs, .mem, .core, .eng, .smp, .upd, .swm, .cap, .lp, .log, .fab, .host, .wort, .boot] P) {s : State} (c : SmpCtx) (hs : P s) : P (State.smpOpenAt s c) := by
  have K0 : Keeps [.out, .regs, .mem, .core, .eng, .smp, .upd, .swm, .cap, .lp, .log, .fab, .host, .wort, .boot] P := K.mono rfl
  unfold State.smpOpenAt
  repeat' first
    | with_reducible assumption
    | intro _
    | with_reducible apply State.smpAdmit_keeps K0
    | with_reducible refine ite_keeps ?_ ?_
    | with_reducible apply K.lit
    | exact Or.inl (by decide)
    | exact Or.inr rfl

theorem State.sendOpen_keeps (K : Keeps [.out, .swm, .fab] P) {s : State} (core : Nat) (seq : Nat) (w : CmdWord) (x : Ctx) (hs : P s) : P (State.sendOpen s core seq w x) := by
  have K0 : Keeps [.out, .swm, .fab] P := K.mono rfl
  unfold State.sendOpen
  repeat' first
    | with_reducible assumption
    | intro _
    | with_reducible apply State.xferStart_keeps K0

/-! CellCmds -/

theorem execAddCell_keeps (K : Keeps [.out, .regs, .core, .log, .fab, .host] P) (die : DieId) (cell : CellW) {s : State} (hs : P s) : ∃ t, execAddCell die cell s = .next t ∧ P t := by
  have K0 : Keeps [.out, .regs, .log, .fab] P := K.mono rfl
  have K1 : Keeps [.out, .regs, .core, .fab, .host] P := K.mono rfl
  refine ⟨_, rfl, ?_⟩
  repeat' first
    | with_reducible assumption
    | intro _
    | with_reducible apply State.niCell_keeps K0
    | with_reducible apply State.niAdd_keeps K1
    | with_reducible refine ite_keeps ?_ ?_

theorem execSopenCell_keeps (K : Keeps [.out, .regs, .mem, .core, .eng, .upd, .swm, .cap, .lp, .log, .fab, .host, .wort, .boot] P) (die : DieId) (cell : CellW) {s : State} (hs : P s) : ∃ t, execSopenCell die cell s = .next t ∧ P t := by
  have K0 : Keeps [.out, .regs, .log, .fab] P := K.mono rfl
  have K1 : Keeps [.out, .regs, .mem, .core, .eng, .upd, .swm, .cap, .lp, .log, .fab, .host, .wort, .boot] P := K.mono rfl
  refine ⟨_, rfl, ?_⟩
  repeat' first
    | with_reducible assumption
    | intro _
    | with_reducible apply State.niCell_keeps K0
    | with_reducible apply State.rxStart_keeps K1
    | with_reducible refine ite_keeps ?_ ?_

theorem execSdataCell_keeps (K : Keeps [.out, .regs, .mem, .core, .eng, .upd, .swm, .cap, .lp, .log, .fab, .host, .wort, .boot] P) (die : DieId) (cell : CellW) {s : State} (hs : P s) : ∃ t, execSdataCell die cell s = .next t ∧ P t := by
  have K0 : Keeps [.out, .regs, .log, .fab] P := K.mono rfl
  have K1 : Keeps [.out, .regs, .mem, .core, .eng, .upd, .swm, .cap, .lp, .log, .fab, .host, .wort, .boot] P := K.mono rfl
  refine ⟨_, rfl, ?_⟩
  repeat' first
    | with_reducible assumption
    | intro _
    | with_reducible apply State.niCell_keeps K0
    | with_reducible apply State.rxCell_keeps K1
    | with_reducible refine ite_keeps ?_ ?_

theorem State.tgtCell_keeps (K : Keeps [.out, .regs, .log, .fab] P) {s : State} (tgt : Nat) (c : CellW) (f : Nat → Xfer → State → State) (hs : P s) (hf : ∀ (x0 : Nat) (x1 : Xfer) (x2 : State), P x2 → P (f x0 x1 x2)) : P (State.tgtCell s tgt c f) := by
  have K0 : Keeps [.out, .regs, .log, .fab] P := K.mono rfl
  unfold State.tgtCell
  repeat' first
    | with_reducible assumption
    | intro _
    | with_reducible apply State.niCell_keeps K0
    | with_reducible apply State.dropJob_keeps K0
    | with_reducible refine ite_keeps ?_ ?_
    | with_reducible apply hf

theorem State.partXferEnd_keeps (K : Keeps [.out, .regs, .mem, .core, .eng, .smp, .upd, .swm, .cap, .lp, .log, .fab, .host, .wort, .boot] P) {s : State} (tgt : Nat) (id : Nat) (x : Xfer) (r : PartRec) (status : Nat) (hs : P s) : P (State.partXferEnd s tgt id x r status) := by
  have K0 : Keeps [.fab] P := K.mono rfl
  have K1 : Keeps [.out, .regs, .mem, .core, .eng, .smp, .upd, .swm, .cap, .lp, .log, .fab, .host, .wort, .boot] P := K.mono rfl
  unfold State.partXferEnd
  repeat' first
    | with_reducible assumption
    | intro _
    | with_reducible apply State.xferEnd_keeps K0
    | with_reducible apply State.partEnd_keeps K1
    | with_reducible refine ite_keeps ?_ ?_
    | with_reducible apply K.lit
    | exact Or.inl (by decide)
    | exact Or.inr rfl

theorem execAckCell_keeps (K : Keeps [.free, .out, .regs, .mem, .core, .eng, .smp, .upd, .swm, .cap, .lp, .log, .fab, .host, .wort, .boot] P) (tgt : FnId) (cell : CellW) {s : State} (hs : P s) : ∃ t, execAckCell tgt cell s = .next t ∧ P t := by
  have K0 : Keeps [.out, .regs, .log, .fab] P := K.mono rfl
  have K1 : Keeps [.out, .regs, .mem, .core, .eng, .smp, .upd, .swm, .cap, .lp, .log, .fab, .host, .wort, .boot] P := K.mono rfl
  have K2 : Keeps [.free, .out, .regs, .mem, .core, .eng, .upd, .swm, .cap, .lp, .log, .fab, .host, .wort, .boot] P := K.mono rfl
  have K3 : Keeps [.fab] P := K.mono rfl
  have K4 : Keeps [.out, .regs, .mem, .core, .eng, .upd, .swm, .cap, .lp, .log, .fab, .host, .wort, .boot] P := K.mono rfl
  refine ⟨_, rfl, ?_⟩
  repeat' first
    | with_reducible assumption
    | intro _
    | with_reducible apply State.tgtCell_keeps K0
    | with_reducible apply State.partXferEnd_keeps K1
    | with_reducible apply State.segAck_keeps K2
    | with_reducible apply State.xferEnd_keeps K3
    | with_reducible apply State.smpAcked_keeps K1
    | with_reducible apply State.xferAck_keeps K4
    | with_reducible refine ite_keeps ?_ ?_
    | split

theorem State.abortLate_keeps (K : Keeps [.regs, .core, .cap, .host] P) {s : State} (c : CellW) (hs : P s) : P (State.abortLate s c) := by
  have K0 : Keeps [.regs, .core, .host] P := K.mono rfl
  unfold State.abortLate
  repeat' first
    | with_reducible assumption
    | intro _
    | with_reducible apply State.completeRaw_keeps K0
    | with_reducible refine ite_keeps ?_ ?_
    | split
    | with_reducible apply K.lit
    | exact Or.inl (by decide)
    | exact Or.inr rfl

theorem execNackCell_keeps (K : Keeps [.free, .out, .regs, .mem, .core, .eng, .smp, .upd, .swm, .cap, .lp, .log, .fab, .host, .wort, .boot] P) (tgt : FnId) (cell : CellW) {s : State} (hs : P s) : ∃ t, execNackCell tgt cell s = .next t ∧ P t := by
  have K0 : Keeps [.regs, .core, .cap, .host] P := K.mono rfl
  have K1 : Keeps [.out, .regs, .log, .fab] P := K.mono rfl
  have K2 : Keeps [.out, .regs, .mem, .core, .eng, .smp, .upd, .swm, .cap, .lp, .log, .fab, .host, .wort, .boot] P := K.mono rfl
  have K3 : Keeps [.fab] P := K.mono rfl
  have K4 : Keeps [.out, .regs, .mem, .core, .eng, .upd, .swm, .cap, .lp, .log, .fab, .host, .wort, .boot] P := K.mono rfl
  have K5 : Keeps [.free, .out, .regs, .mem, .core, .eng, .upd, .swm, .cap, .lp, .log, .fab, .host, .wort, .boot] P := K.mono rfl
  refine ⟨_, rfl, ?_⟩
  repeat' first
    | with_reducible assumption
    | intro _
    | with_reducible apply State.abortLate_keeps K0
    | with_reducible apply State.tgtCell_keeps K1
    | with_reducible apply State.partXferEnd_keeps K2
    | with_reducible apply State.xferEnd_keeps K3
    | with_reducible apply State.opMismatch_keeps K4
    | with_reducible apply State.smpAcked_keeps K2
    | with_reducible apply State.xferFail_keeps K5
    | with_reducible refine ite_keeps ?_ ?_
    | split
    | with_reducible apply K.lit
    | exact Or.inl (by decide)
    | exact Or.inr rfl

theorem execStreamRestart_keeps (K : Keeps [.out, .swm, .fab] P) (tgt : FnId) (id : BitVec 16) {s : State} (hs : P s) : ∃ t, execStreamRestart tgt id s = .next t ∧ P t := by
  have K0 : Keeps [.fab] P := K.mono rfl
  have K1 : Keeps [.out, .swm, .fab] P := K.mono rfl
  refine ⟨_, rfl, ?_⟩
  repeat' first
    | with_reducible assumption
    | intro _
    | with_reducible apply State.xferEnd_keeps K0
    | with_reducible apply State.xferStart_keeps K1
    | with_reducible refine ite_keeps ?_ ?_

theorem execOrphanTimeout_keeps (K : Keeps [.out, .regs, .fab] P) (die : DieId) (srcMod : BitVec 12) (srcTgt : Fin 16) (stream : BitVec 16) {s : State} (hs : P s) : ∃ t, execOrphanTimeout die srcMod srcTgt stream s = .next t ∧ P t := by
  have K0 : Keeps [.regs] P := K.mono rfl
  have K1 : Keeps [.out] P := K.mono rfl
  refine ⟨_, rfl, ?_⟩
  repeat' first
    | with_reducible assumption
    | intro _
    | with_reducible apply State.finc_keeps K0
    | with_reducible apply State.nackCell_keeps K1
    | with_reducible refine ite_keeps ?_ ?_
    | split
    | with_reducible apply K.lit
    | exact Or.inl (by decide)
    | exact Or.inr rfl

theorem execTransferTimeout_keeps (K : Keeps [.free, .out, .regs, .mem, .core, .eng, .smp, .upd, .swm, .cap, .lp, .log, .fab, .host, .wort, .boot] P) (tgt : FnId) (id : BitVec 16) {s : State} (hs : P s) : ∃ t, execTransferTimeout tgt id s = .next t ∧ P t := by
  have K0 : Keeps [.regs] P := K.mono rfl
  have K1 : Keeps [.out, .regs, .mem, .core, .eng, .smp, .upd, .swm, .cap, .lp, .log, .fab, .host, .wort, .boot] P := K.mono rfl
  have K2 : Keeps [.fab] P := K.mono rfl
  have K3 : Keeps [.eng, .host] P := K.mono rfl
  have K4 : Keeps [.free, .out, .regs, .mem, .core, .eng, .upd, .swm, .cap, .lp, .log, .fab, .host, .wort, .boot] P := K.mono rfl
  refine ⟨_, rfl, ?_⟩
  repeat' first
    | with_reducible assumption
    | intro _
    | with_reducible apply State.finc_keeps K0
    | with_reducible apply State.partXferEnd_keeps K1
    | with_reducible apply State.xferEnd_keeps K2
    | with_reducible apply State.smpAcked_keeps K1
    | with_reducible apply State.copyGiveUp_keeps K3
    | with_reducible apply State.xferFail_keeps K4
    | with_reducible refine ite_keeps ?_ ?_
    | split
    | extract_lets

theorem execContextIdleFree_keeps (K : Keeps [.regs, .fab] P) (die : DieId) (srcMod : BitVec 12) (srcTgt : Fin 16) (stream : BitVec 16) {s : State} (hs : P s) : ∃ t, execContextIdleFree die srcMod srcTgt stream s = .next t ∧ P t := by
  have K0 : Keeps [.regs, .fab] P := K.mono rfl
  have K1 : Keeps [.regs] P := K.mono rfl
  refine ⟨_, rfl, ?_⟩
  repeat' first
    | with_reducible assumption
    | intro _
    | with_reducible apply State.setRx_keeps K0
    | with_reducible apply State.finc_keeps K1
    | with_reducible refine ite_keeps ?_ ?_

theorem execStreamIdAvailable_keeps (K : Keeps [.out, .swm, .fab] P) (tgt : FnId) (id : BitVec 16) {s : State} (hs : P s) : ∃ t, execStreamIdAvailable tgt id s = .next t ∧ P t := by
  have K0 : Keeps [.out, .swm, .fab] P := K.mono rfl
  refine ⟨_, rfl, ?_⟩
  repeat' first
    | with_reducible assumption
    | intro _
    | with_reducible apply State.xferUnder_keeps K0
    | with_reducible refine ite_keeps ?_ ?_
    | split
    | with_reducible apply K.lit
    | exact Or.inl (by decide)
    | exact Or.inr rfl

/-! UpdateCmds -/

theorem State.updIssue_keeps (K : Keeps [.free, .out, .regs, .mem, .core, .eng, .upd, .swm, .cap, .lp, .log, .fab, .host, .wort, .boot] P) {s : State} (core : Nat) (opc : Nat) (hs : P s) : P (State.updIssue s core opc) := by
  have K0 : Keeps [.free, .out, .regs, .mem, .core, .eng, .upd, .swm, .cap, .lp, .log, .fab, .host, .wort, .boot] P := K.mono rfl
  have K1 : Keeps [.regs, .core, .log, .host] P := K.mono rfl
  have K2 : Keeps [.cap] P := K.mono rfl
  have K3 : Keeps [.regs, .core, .host] P := K.mono rfl
  have K4 : Keeps [.regs, .upd] P := K.mono rfl
  have K5 : Keeps [.out, .regs, .mem, .core, .eng, .upd, .swm, .cap, .lp, .log, .fab, .host, .wort, .boot] P := K.mono rfl
  unfold State.updIssue
  repeat' first
    | with_reducible assumption
    | intro _
    | with_reducible apply State.issueTo_keeps K0
    | with_reducible apply State.refuseOr_keeps K1
    | with_reducible apply State.setDieCap_keeps K2
    | with_reducible apply State.completeRaw_keeps K3
    | with_reducible apply State.bindCmd_keeps K2
    | with_reducible apply State.setUpdQ_keeps K4
    | with_reducible apply State.updRun_keeps K5
    | with_reducible refine ite_keeps ?_ ?_

theorem execUpdRun_keeps (K : Keeps [.free, .out, .regs, .mem, .core, .eng, .upd, .swm, .cap, .lp, .log, .fab, .host, .wort, .boot] P) (core : CoreId) {s : State} (hs : P s) : ∃ t, execUpdRun core s = .next t ∧ P t := by
  have K0 : Keeps [.free, .out, .regs, .mem, .core, .eng, .upd, .swm, .cap, .lp, .log, .fab, .host, .wort, .boot] P := K.mono rfl
  refine ⟨_, rfl, ?_⟩
  repeat' first
    | with_reducible assumption
    | intro _
    | with_reducible apply State.updIssue_keeps K0

theorem execUpdPend_keeps (K : Keeps [.free, .out, .regs, .mem, .core, .eng, .upd, .swm, .cap, .lp, .log, .fab, .host, .wort, .boot] P) (core : CoreId) {s : State} (hs : P s) : ∃ t, execUpdPend core s = .next t ∧ P t := by
  have K0 : Keeps [.free, .out, .regs, .mem, .core, .eng, .upd, .swm, .cap, .lp, .log, .fab, .host, .wort, .boot] P := K.mono rfl
  refine ⟨_, rfl, ?_⟩
  repeat' first
    | with_reducible assumption
    | intro _
    | with_reducible apply State.updIssue_keeps K0

theorem execUpdNorm_keeps (K : Keeps [.free, .out, .regs, .mem, .core, .eng, .upd, .swm, .cap, .lp, .log, .fab, .host, .wort, .boot] P) (core : CoreId) {s : State} (hs : P s) : ∃ t, execUpdNorm core s = .next t ∧ P t := by
  have K0 : Keeps [.free, .out, .regs, .mem, .core, .eng, .upd, .swm, .cap, .lp, .log, .fab, .host, .wort, .boot] P := K.mono rfl
  refine ⟨_, rfl, ?_⟩
  repeat' first
    | with_reducible assumption
    | intro _
    | with_reducible apply State.updIssue_keeps K0

theorem execUpdSave_keeps (K : Keeps [.free, .out, .regs, .mem, .core, .eng, .upd, .swm, .cap, .lp, .log, .fab, .host, .wort, .boot] P) (core : CoreId) {s : State} (hs : P s) : ∃ t, execUpdSave core s = .next t ∧ P t := by
  have K0 : Keeps [.free, .out, .regs, .mem, .core, .eng, .upd, .swm, .cap, .lp, .log, .fab, .host, .wort, .boot] P := K.mono rfl
  refine ⟨_, rfl, ?_⟩
  repeat' first
    | with_reducible assumption
    | intro _
    | with_reducible apply State.updIssue_keeps K0

theorem execUpdGateStart_keeps (K : Keeps [.out, .regs, .mem, .core, .eng, .upd, .swm, .cap, .lp, .log, .fab, .host, .wort, .boot] P) (die : DieId) {s : State} (hs : P s) : ∃ t, execUpdGateStart die s = .next t ∧ P t := by
  have K0 : Keeps [.out, .regs, .mem, .core, .eng, .upd, .swm, .cap, .lp, .log, .fab, .host, .wort, .boot] P := K.mono rfl
  refine ⟨_, rfl, ?_⟩
  repeat' first
    | with_reducible assumption
    | intro _
    | with_reducible apply State.updRun_keeps K0

theorem State.updSour_keeps (K : Keeps [.regs, .cap, .log] P) {s : State} (die : Nat) (j : Job) (hs : P s) : P (State.updSour s die j) := by
  have K0 : Keeps [.regs] P := K.mono rfl
  have K1 : Keeps [.cap] P := K.mono rfl
  have K2 : Keeps [.log] P := K.mono rfl
  unfold State.updSour
  repeat' first
    | with_reducible assumption
    | intro _
    | with_reducible apply State.finc_keeps K0
    | with_reducible apply State.recordSour_keeps K1
    | with_reducible apply State.dieRec_keeps K2
    | with_reducible refine ite_keeps ?_ ?_
    | split

theorem State.noteRan_keeps (K : Keeps [.cap] P) {s : State} (die : Nat) (j : Job) (hs : P s) : P (State.noteRan s die j) := by
  have K0 : Keeps [.cap] P := K.mono rfl
  unfold State.noteRan
  repeat' first
    | with_reducible assumption
    | intro _
    | with_reducible apply State.setDieCap_keeps K0
    | with_reducible refine ite_keeps ?_ ?_

theorem State.updFinish_keeps (K : Keeps [.out, .regs, .mem, .core, .eng, .upd, .swm, .cap, .lp, .log, .fab, .host, .wort, .boot] P) {s : State} (core : Nat) (seq : Nat) (cnt : Nat) (status : Nat) (nflags : Nat) (hs : P s) : P (State.updFinish s core seq cnt status nflags) := by
  have K0 : Keeps [.out, .regs, .mem, .core, .eng, .upd, .swm, .cap, .lp, .log, .fab, .host, .wort, .boot] P := K.mono rfl
  have K1 : Keeps [.regs, .core, .host] P := K.mono rfl
  unfold State.updFinish
  repeat' first
    | with_reducible assumption
    | intro _
    | with_reducible apply State.completeCmd_keeps K0
    | with_reducible apply State.cntAdd_keeps K1
    | with_reducible refine ite_keeps ?_ ?_

theorem execUpdCommandComplete_keeps (K : Keeps [.out, .regs, .mem, .core, .eng, .upd, .swm, .cap, .lp, .log, .fab, .host, .wort, .boot] P) (die : DieId) {s : State} (hs : P s) : ∃ t, execUpdCommandComplete die s = .next t ∧ P t := by
  have K0 : Keeps [.regs, .upd] P := K.mono rfl
  have K1 : Keeps [.mem, .eng] P := K.mono rfl
  have K2 : Keeps [.out, .regs, .mem, .core, .eng, .upd, .swm, .cap, .lp, .log, .fab, .host, .wort, .boot] P := K.mono rfl
  have K3 : Keeps [.cap] P := K.mono rfl
  have K4 : Keeps [.regs, .cap, .log] P := K.mono rfl
  have K5 : Keeps [.regs] P := K.mono rfl
  refine ⟨_, rfl, ?_⟩
  repeat' first
    | with_reducible assumption
    | intro _
    | with_reducible apply State.setUpdQ_keeps K0
    | with_reducible apply State.sramPut_keeps K1
    | with_reducible apply State.diffedWrites_keeps K2
    | with_reducible apply State.noteRan_keeps K3
    | with_reducible apply State.updSour_keeps K4
    | with_reducible apply State.finc_keeps K5
    | with_reducible apply State.updFinish_keeps K2
    | with_reducible apply State.updRun_keeps K2
    | with_reducible refine ite_keeps ?_ ?_
    | with_reducible refine ite_fst_keeps ?_ ?_
    | split

theorem execUpdLaneFault_keeps (K : Keeps [.free, .out, .regs, .mem, .core, .eng, .upd, .swm, .cap, .lp, .log, .fab, .host, .wort, .boot] P) (die : DieId) (group : Fin 8) {s : State} (hs : P s) : ∃ t, execUpdLaneFault die group s = .next t ∧ P t := by
  have K0 : Keeps [.regs] P := K.mono rfl
  have K1 : Keeps [.out, .regs, .mem, .core, .eng, .upd, .swm, .cap, .lp, .log, .fab, .host, .wort, .boot] P := K.mono rfl
  have K2 : Keeps [.log] P := K.mono rfl
  have K3 : Keeps [.regs, .boot] P := K.mono rfl
  have K4 : Keeps [.free, .out, .regs, .mem, .core, .eng, .upd, .swm, .cap, .lp, .log, .fab, .host, .wort, .boot] P := K.mono rfl
  have K5 : Keeps [.free, .out, .regs, .log, .host] P := K.mono rfl
  have K6 : Keeps [.regs, .upd] P := K.mono rfl
  refine ⟨_, rfl, ?_⟩
  repeat' first
    | with_reducible assumption
    | intro _
    | with_reducible apply State.fset_keeps K0
    | with_reducible apply State.voteFailed_keeps K1
    | with_reducible apply State.dieRec_keeps K2
    | with_reducible apply State.journal_keeps K3
    | with_reducible apply State.dieFailed_keeps K4
    | with_reducible apply State.reevaluate_keeps K5
    | with_reducible apply State.setUpdQ_keeps K6
    | with_reducible apply State.completeCmd_keeps K1
    | with_reducible apply State.updRun_keeps K1
    | with_reducible refine ite_keeps ?_ ?_
    | split
    | with_reducible apply K.lit
    | exact Or.inl (by decide)
    | exact Or.inr rfl

theorem execRollbackDone_keeps (K : Keeps [.out, .regs, .mem, .core, .eng, .upd, .swm, .cap, .lp, .log, .fab, .host, .wort, .boot] P) (die : DieId) {s : State} (hs : P s) : ∃ t, execRollbackDone die s = .next t ∧ P t := by
  have K0 : Keeps [.out, .regs, .mem, .core, .eng, .upd, .swm, .cap, .lp, .log, .fab, .host, .wort, .boot] P := K.mono rfl
  have K1 : Keeps [.regs, .mem, .upd] P := K.mono rfl
  have K2 : Keeps [.regs, .core, .host] P := K.mono rfl
  have K3 : Keeps [.regs, .core, .cap, .host] P := K.mono rfl
  refine ⟨_, rfl, ?_⟩
  repeat' first
    | with_reducible assumption
    | intro _
    | with_reducible apply State.rollback_keeps K0
    | with_reducible apply State.freeSlot_keeps K1
    | with_reducible apply State.dcntAll_keeps K2
    | with_reducible apply State.endCap_keeps K3
    | with_reducible apply State.updRun_keeps K0
    | with_reducible refine ite_keeps ?_ ?_
    | split

/-! CopyCmds -/

theorem execCopy_keeps (K : Keeps [.free, .out, .regs, .mem, .core, .eng, .upd, .swm, .cap, .lp, .log, .fab, .host, .wort, .boot] P) (core : CoreId) {s : State} (hs : P s) : ∃ t, execCopy core s = .next t ∧ P t := by
  have K0 : Keeps [.free, .out, .regs, .mem, .core, .eng, .upd, .swm, .cap, .lp, .log, .fab, .host, .wort, .boot] P := K.mono rfl
  have K1 : Keeps [.regs, .eng] P := K.mono rfl
  have K2 : Keeps [.out, .regs, .mem, .core, .eng, .upd, .swm, .cap, .lp, .log, .fab, .host, .wort, .boot] P := K.mono rfl
  refine ⟨_, rfl, ?_⟩
  repeat' first
    | with_reducible assumption
    | intro _
    | with_reducible apply State.issueTo_keeps K0
    | with_reducible apply State.setCeQ_keeps K1
    | with_reducible apply State.ceRun_keeps K2
    | with_reducible refine ite_keeps ?_ ?_
    | with_reducible apply K.lit
    | exact Or.inl (by decide)
    | exact Or.inr rfl

theorem execCopyComplete_keeps (K : Keeps [.out, .regs, .mem, .core, .eng, .upd, .swm, .cap, .lp, .log, .fab, .host, .wort, .boot] P) (die : DieId) (ce : Fin 4) {s : State} (hs : P s) : ∃ t, execCopyComplete die ce s = .next t ∧ P t := by
  have K0 : Keeps [.out, .regs, .mem, .core, .eng, .upd, .swm, .cap, .lp, .log, .fab, .host, .wort, .boot] P := K.mono rfl
  refine ⟨_, rfl, ?_⟩
  repeat' first
    | with_reducible assumption
    | intro _
    | with_reducible apply State.copyDone_keeps K0
    | with_reducible refine ite_keeps ?_ ?_
    | split

theorem execPrefetchRelease_keeps (K : Keeps [.out, .regs, .mem, .core, .eng, .upd, .swm, .cap, .lp, .log, .fab, .host, .wort, .boot] P) (die : DieId) {s : State} (hs : P s) : ∃ t, execPrefetchRelease die s = .next t ∧ P t := by
  have K0 : Keeps [.regs, .eng] P := K.mono rfl
  have K1 : Keeps [.out, .regs, .mem, .core, .eng, .upd, .swm, .cap, .lp, .log, .fab, .host, .wort, .boot] P := K.mono rfl
  refine ⟨_, rfl, ?_⟩
  repeat' first
    | with_reducible assumption
    | intro _
    | with_reducible apply State.setCeQ_keeps K0
    | with_reducible apply State.ceRun_keeps K1
    | with_reducible refine ite_keeps ?_ ?_
    | split
    | with_reducible apply K.lit
    | exact Or.inl (by decide)
    | exact Or.inr rfl

/-! MveCmds -/

theorem State.mveBusy_keeps (K : Keeps [.regs] P) {s : State} (die : Nat) (hs : P s) : P (State.mveBusy s die) := by
  have K0 : Keeps [.regs] P := K.mono rfl
  unfold State.mveBusy
  repeat' first
    | with_reducible assumption
    | intro _
    | with_reducible apply State.fset_keeps K0

theorem State.setMveq_keeps (K : Keeps [.eng] P) {s : State} (die : Nat) (q : List Job) (hs : P s) : P (State.setMveq s die q) := by
  unfold State.setMveq
  repeat' first
    | with_reducible assumption
    | intro _
    | with_reducible refine ite_keeps ?_ ?_
    | with_reducible apply K.lit
    | exact Or.inl (by decide)
    | exact Or.inr rfl

theorem State.mveBegin_keeps (K : Keeps [.out, .regs, .mem, .core, .eng, .upd, .swm, .cap, .lp, .log, .fab, .host, .wort, .boot] P) {s : State} (die : Nat) (j : Job) (hs : P s) : P (State.mveBegin s die j).1 := by
  have K0 : Keeps [.out, .regs, .mem, .core, .eng, .upd, .swm, .cap, .lp, .log, .fab, .host, .wort, .boot] P := K.mono rfl
  unfold State.mveBegin
  repeat' first
    | with_reducible assumption
    | intro _
    | with_reducible apply State.sramReads_keeps K0
    | with_reducible refine ite_keeps ?_ ?_
    | with_reducible refine ite_fst_keeps ?_ ?_
    | (with_reducible apply fst_of; with_reducible assumption)
    | split
    | with_reducible apply foldl_fst_keeps
    | with_reducible apply foldl_keeps
    | extract_lets

theorem State.mvePump_keeps (K : Keeps [.out, .regs, .mem, .core, .eng, .upd, .swm, .cap, .lp, .log, .fab, .host, .wort, .boot] P) (a0 : Nat) {a1 : State} (a2 : Nat) (hs : P a1) : P (State.mvePump a0 a1 a2) := by
  have K0 : Keeps [.eng] P := K.mono rfl
  have K1 : Keeps [.out, .regs, .mem, .core, .eng, .upd, .swm, .cap, .lp, .log, .fab, .host, .wort, .boot] P := K.mono rfl
  induction a0 generalizing a1 a2 with
  | zero => exact hs
  | succ n ih =>
    unfold State.mvePump
    repeat' first
      | with_reducible assumption
      | with_reducible apply ih
      | intro _
      | with_reducible apply State.setMveq_keeps K0
      | with_reducible apply State.refuseJob_keeps K1
      | with_reducible apply State.mveBegin_keeps K1
      | with_reducible refine ite_keeps ?_ ?_
      | with_reducible refine ite_fst_keeps ?_ ?_
      | split

theorem State.mveRun_keeps (K : Keeps [.out, .regs, .mem, .core, .eng, .upd, .swm, .cap, .lp, .log, .fab, .host, .wort, .boot] P) {s : State} (die : Nat) (hs : P s) : P (State.mveRun s die) := by
  have K0 : Keeps [.out, .regs, .mem, .core, .eng, .upd, .swm, .cap, .lp, .log, .fab, .host, .wort, .boot] P := K.mono rfl
  have K1 : Keeps [.regs] P := K.mono rfl
  unfold State.mveRun
  repeat' first
    | with_reducible assumption
    | intro _
    | with_reducible apply State.mvePump_keeps K0
    | with_reducible apply State.mveBusy_keeps K1

theorem execMveMv_keeps (K : Keeps [.free, .out, .regs, .mem, .core, .eng, .upd, .swm, .cap, .lp, .log, .fab, .host, .wort, .boot] P) (core : CoreId) {s : State} (hs : P s) : ∃ t, execMveMv core s = .next t ∧ P t := by
  have K0 : Keeps [.free, .out, .regs, .mem, .core, .eng, .upd, .swm, .cap, .lp, .log, .fab, .host, .wort, .boot] P := K.mono rfl
  have K1 : Keeps [.eng] P := K.mono rfl
  have K2 : Keeps [.out, .regs, .mem, .core, .eng, .upd, .swm, .cap, .lp, .log, .fab, .host, .wort, .boot] P := K.mono rfl
  refine ⟨_, rfl, ?_⟩
  repeat' first
    | with_reducible assumption
    | intro _
    | with_reducible apply State.issueTo_keeps K0
    | with_reducible apply State.setMveq_keeps K1
    | with_reducible apply State.mveRun_keeps K2

theorem execMveCommandComplete_keeps (K : Keeps [.out, .regs, .mem, .core, .eng, .upd, .swm, .cap, .lp, .log, .fab, .host, .wort, .boot] P) (die : DieId) {s : State} (hs : P s) : ∃ t, execMveCommandComplete die s = .next t ∧ P t := by
  have K0 : Keeps [.mem, .eng] P := K.mono rfl
  have K1 : Keeps [.eng] P := K.mono rfl
  have K2 : Keeps [.out, .regs, .mem, .core, .eng, .upd, .swm, .cap, .lp, .log, .fab, .host, .wort, .boot] P := K.mono rfl
  refine ⟨_, rfl, ?_⟩
  repeat' first
    | with_reducible assumption
    | intro _
    | with_reducible apply State.sramPut_keeps K0
    | with_reducible apply State.setMveq_keeps K1
    | with_reducible apply State.finish_keeps K2
    | with_reducible apply State.mveRun_keeps K2
    | with_reducible refine ite_keeps ?_ ?_
    | split

/-! SampleCmds -/

theorem execRngFill_keeps (K : Keeps [.free, .out, .regs, .mem, .core, .eng, .upd, .swm, .cap, .lp, .log, .fab, .host, .wort, .boot] P) (core : CoreId) {s : State} (hs : P s) : ∃ t, execRngFill core s = .next t ∧ P t := by
  have K0 : Keeps [.free, .out, .regs, .mem, .core, .eng, .upd, .swm, .cap, .lp, .log, .fab, .host, .wort, .boot] P := K.mono rfl
  have K1 : Keeps [.regs, .core, .log, .host] P := K.mono rfl
  have K2 : Keeps [.mem, .eng] P := K.mono rfl
  have K3 : Keeps [.out, .regs, .mem, .core, .eng, .upd, .swm, .cap, .lp, .log, .fab, .host, .wort, .boot] P := K.mono rfl
  refine ⟨_, rfl, ?_⟩
  repeat' first
    | with_reducible assumption
    | intro _
    | with_reducible apply State.issue_keeps K0
    | with_reducible apply State.refuseOr_keeps K1
    | with_reducible apply State.sramPut_keeps K2
    | with_reducible apply State.finish_keeps K3

theorem State.smpOpenCore_keeps (K : Keeps [.free, .out, .regs, .mem, .core, .eng, .smp, .upd, .swm, .cap, .lp, .log, .fab, .host, .wort, .boot] P) {s : State} (core : Nat) (hs : P s) : P (State.smpOpenCore s core) := by
  have K0 : Keeps [.free, .out, .regs, .mem, .core, .eng, .upd, .swm, .cap, .lp, .log, .fab, .host, .wort, .boot] P := K.mono rfl
  have K1 : Keeps [.regs, .core, .log, .host] P := K.mono rfl
  have K2 : Keeps [.mem, .eng] P := K.mono rfl
  have K3 : Keeps [.regs, .core, .host] P := K.mono rfl
  have K4 : Keeps [.out, .swm, .fab] P := K.mono rfl
  have K5 : Keeps [.out, .regs, .mem, .core, .eng, .smp, .upd, .swm, .cap, .lp, .log, .fab, .host, .wort, .boot] P := K.mono rfl
  unfold State.smpOpenCore
  repeat' first
    | with_reducible assumption
    | intro _
    | with_reducible apply State.issue_keeps K0
    | with_reducible apply State.refuseOr_keeps K1
    | with_reducible apply State.sramWrite_keeps K2
    | with_reducible apply State.cntAdd_keeps K3
    | with_reducible apply State.completeRaw_keeps K3
    | with_reducible apply State.sendOpen_keeps K4
    | with_reducible apply State.smpOpenAt_keeps K5
    | with_reducible refine ite_keeps ?_ ?_

theorem execSmpOpen_keeps (K : Keeps [.free, .out, .regs, .mem, .core, .eng, .smp, .upd, .swm, .cap, .lp, .log, .fab, .host, .wort, .boot] P) (sender : SmpFrom) {s : State} (hs : P s) : ∃ t, execSmpOpen sender s = .next t ∧ P t := by
  have K0 : Keeps [.free, .out, .regs, .mem, .core, .eng, .smp, .upd, .swm, .cap, .lp, .log, .fab, .host, .wort, .boot] P := K.mono rfl
  have K1 : Keeps [.out, .regs, .mem, .core, .eng, .smp, .upd, .swm, .cap, .lp, .log, .fab, .host, .wort, .boot] P := K.mono rfl
  refine ⟨_, rfl, ?_⟩
  repeat' first
    | with_reducible assumption
    | intro _
    | with_reducible apply State.smpOpenCore_keeps K0
    | with_reducible apply State.smpOpenAt_keeps K1
    | with_reducible refine ite_keeps ?_ ?_
    | split

theorem execSmpOpenResume_keeps (K : Keeps [.out, .regs, .mem, .core, .eng, .smp, .upd, .swm, .cap, .lp, .log, .fab, .host, .wort, .boot] P) {s : State} (hs : P s) : ∃ t, execSmpOpenResume s = .next t ∧ P t := by
  have K0 : Keeps [.out, .regs, .mem, .core, .eng, .smp, .upd, .swm, .cap, .lp, .log, .fab, .host, .wort, .boot] P := K.mono rfl
  refine ⟨_, rfl, ?_⟩
  repeat' first
    | with_reducible assumption
    | intro _
    | with_reducible apply State.smpAdmit_keeps K0
    | with_reducible refine ite_keeps ?_ ?_
    | split
    | with_reducible apply K.lit
    | exact Or.inl (by decide)
    | exact Or.inr rfl

theorem execSmpPart_keeps (K : Keeps [.free, .out, .regs, .mem, .core, .eng, .smp, .upd, .swm, .cap, .lp, .log, .fab, .host, .wort, .boot] P) (core : CoreId) {s : State} (hs : P s) : ∃ t, execSmpPart core s = .next t ∧ P t := by
  have K0 : Keeps [.free, .out, .regs, .mem, .core, .eng, .upd, .swm, .cap, .lp, .log, .fab, .host, .wort, .boot] P := K.mono rfl
  have K1 : Keeps [.regs, .core, .log, .host] P := K.mono rfl
  have K2 : Keeps [.regs, .core, .host] P := K.mono rfl
  have K3 : Keeps [.out, .regs, .mem, .core, .eng, .upd, .swm, .cap, .lp, .log, .fab, .host, .wort, .boot] P := K.mono rfl
  have K4 : Keeps [.out, .swm, .fab] P := K.mono rfl
  refine ⟨_, rfl, ?_⟩
  repeat' first
    | with_reducible assumption
    | intro _
    | with_reducible apply State.issue_keeps K0
    | with_reducible apply State.refuseOr_keeps K1
    | with_reducible apply State.completeRaw_keeps K2
    | with_reducible apply State.sramReads_keeps K3
    | with_reducible apply State.sendPart_keeps K4
    | with_reducible refine ite_keeps ?_ ?_
    | with_reducible refine ite_fst_keeps ?_ ?_
    | (with_reducible apply fst_of; with_reducible assumption)
    | split
    | with_reducible apply K.lit
    | exact Or.inl (by decide)
    | exact Or.inr rfl

theorem execSmpPartArrive_keeps (K : Keeps [.out, .regs, .mem, .core, .eng, .smp, .upd, .swm, .cap, .lp, .log, .fab, .host, .wort, .boot] P) (part : SmpPart) {s : State} (hs : P s) : ∃ t, execSmpPartArrive part s = .next t ∧ P t := by
  have K0 : Keeps [.out, .regs, .mem, .core, .eng, .smp, .upd, .swm, .cap, .lp, .log, .fab, .host, .wort, .boot] P := K.mono rfl
  refine ⟨_, rfl, ?_⟩
  repeat' first
    | with_reducible assumption
    | intro _
    | with_reducible apply State.smpArrive_keeps K0

theorem execSmpBroadcast_keeps (K : Keeps [.out, .regs, .mem, .core, .eng, .smp, .upd, .swm, .cap, .lp, .log, .fab, .host, .wort, .boot] P) (die : DieId) (job : BitVec 8) (sid : BitVec 16) (cidx : Fin 256) (m : BitVec 32) (l : BitVec 32) (sour : Bool) (stream : BitVec 16) {s : State} (hs : P s) : ∃ t, execSmpBroadcast die job sid cidx m l sour stream s = .next t ∧ P t := by
  have K0 : Keeps [.out, .regs, .mem, .core, .eng, .smp, .upd, .swm, .cap, .lp, .log, .fab, .host, .wort, .boot] P := K.mono rfl
  have K1 : Keeps [.fab] P := K.mono rfl
  have K2 : Keeps [.out] P := K.mono rfl
  refine ⟨_, rfl, ?_⟩
  repeat' first
    | with_reducible assumption
    | intro _
    | with_reducible apply State.partDense_keeps K0
    | with_reducible apply State.partIdFree_keeps K1
    | with_reducible apply State.sendAck_keeps K2
    | with_reducible refine ite_keeps ?_ ?_
    | split

theorem execSmpContextTimeout_keeps (K : Keeps [.out, .regs, .mem, .core, .eng, .smp, .upd, .swm, .cap, .lp, .log, .fab, .host, .wort, .boot] P) (job : BitVec 8) (sid : BitVec 16) {s : State} (hs : P s) : ∃ t, execSmpContextTimeout job sid s = .next t ∧ P t := by
  have K0 : Keeps [.regs] P := K.mono rfl
  have K1 : Keeps [.out, .regs, .log] P := K.mono rfl
  have K2 : Keeps [.out] P := K.mono rfl
  have K3 : Keeps [.out, .regs, .mem, .core, .eng, .smp, .upd, .swm, .cap, .lp, .log, .fab, .host, .wort, .boot] P := K.mono rfl
  refine ⟨_, rfl, ?_⟩
  repeat' first
    | with_reducible assumption
    | intro _
    | with_reducible apply State.finc_keeps K0
    | with_reducible apply State.hiveRec_keeps K1
    | with_reducible apply State.partReply_keeps K2
    | with_reducible apply State.smpDone_keeps K3
    | with_reducible refine ite_keeps ?_ ?_
    | with_reducible refine ite_fst_keeps ?_ ?_
    | split
    | with_reducible apply foldl_fst_keeps
    | with_reducible apply foldl_keeps

theorem execSmpOrphanTimeout_keeps (K : Keeps [.out, .regs, .smp] P) (job : BitVec 8) (sid : BitVec 16) (cidx : Fin 256) {s : State} (hs : P s) : ∃ t, execSmpOrphanTimeout job sid cidx s = .next t ∧ P t := by
  have K0 : Keeps [.regs] P := K.mono rfl
  have K1 : Keeps [.out] P := K.mono rfl
  refine ⟨_, rfl, ?_⟩
  repeat' first
    | with_reducible assumption
    | intro _
    | with_reducible apply State.finc_keeps K0
    | with_reducible apply State.partReply_keeps K1
    | with_reducible refine ite_keeps ?_ ?_
    | split
    | with_reducible apply K.lit
    | exact Or.inl (by decide)
    | exact Or.inr rfl

theorem State.rngTest_keeps (K : Keeps [.regs] P) {s : State} (d : Nat) (hs : P s) : P (State.rngTest s d) := by
  have K0 : Keeps [.regs] P := K.mono rfl
  unfold State.rngTest
  repeat' first
    | with_reducible assumption
    | intro _
    | with_reducible apply State.fset_keeps K0

theorem execRngTestGo_keeps (K : Keeps [.regs] P) (die : DieId) {s : State} (hs : P s) : ∃ t, execRngTestGo die s = .next t ∧ P t := by
  have K0 : Keeps [.regs] P := K.mono rfl
  refine ⟨_, rfl, ?_⟩
  repeat' first
    | with_reducible assumption
    | intro _
    | with_reducible apply State.rngTest_keeps K0

/-! SwarmCmds -/

theorem execSwmBcast_keeps (K : Keeps [.free, .out, .regs, .mem, .core, .eng, .upd, .swm, .cap, .lp, .log, .fab, .host, .wort, .boot] P) (core : CoreId) {s : State} (hs : P s) : ∃ t, execSwmBcast core s = .next t ∧ P t := by
  have K0 : Keeps [.free, .out, .regs, .mem, .core, .eng, .upd, .swm, .cap, .lp, .log, .fab, .host, .wort, .boot] P := K.mono rfl
  refine ⟨_, rfl, ?_⟩
  repeat' first
    | with_reducible assumption
    | intro _
    | with_reducible apply State.swmIssue_keeps K0

theorem execSwmReduce_keeps (K : Keeps [.free, .out, .regs, .mem, .core, .eng, .upd, .swm, .cap, .lp, .log, .fab, .host, .wort, .boot] P) (core : CoreId) {s : State} (hs : P s) : ∃ t, execSwmReduce core s = .next t ∧ P t := by
  have K0 : Keeps [.free, .out, .regs, .mem, .core, .eng, .upd, .swm, .cap, .lp, .log, .fab, .host, .wort, .boot] P := K.mono rfl
  refine ⟨_, rfl, ?_⟩
  repeat' first
    | with_reducible assumption
    | intro _
    | with_reducible apply State.swmIssue_keeps K0

theorem execSwmPermute_keeps (K : Keeps [.free, .out, .regs, .mem, .core, .eng, .upd, .swm, .cap, .lp, .log, .fab, .host, .wort, .boot] P) (core : CoreId) {s : State} (hs : P s) : ∃ t, execSwmPermute core s = .next t ∧ P t := by
  have K0 : Keeps [.free, .out, .regs, .mem, .core, .eng, .upd, .swm, .cap, .lp, .log, .fab, .host, .wort, .boot] P := K.mono rfl
  refine ⟨_, rfl, ?_⟩
  repeat' first
    | with_reducible assumption
    | intro _
    | with_reducible apply State.swmIssue_keeps K0

theorem execSwmOpComplete_keeps (K : Keeps [.free, .out, .regs, .mem, .core, .eng, .upd, .swm, .cap, .lp, .log, .fab, .host, .wort, .boot] P) (die : DieId) (gid : GroupId) (opseq : BitVec 32) {s : State} (hs : P s) : ∃ t, execSwmOpComplete die gid opseq s = .next t ∧ P t := by
  have K0 : Keeps [.out, .regs, .mem, .core, .eng, .upd, .swm, .cap, .lp, .log, .fab, .host, .wort, .boot] P := K.mono rfl
  have K1 : Keeps [.free, .out, .regs, .mem, .core, .eng, .upd, .swm, .cap, .lp, .log, .fab, .host, .wort, .boot] P := K.mono rfl
  refine ⟨_, rfl, ?_⟩
  repeat' first
    | with_reducible assumption
    | intro _
    | with_reducible apply State.permPlace_keeps K0
    | with_reducible apply State.opEnd_keeps K1
    | with_reducible refine ite_keeps ?_ ?_
    | split

theorem State.hiveCell_keeps (K : Keeps [] P) {s : State} (c : CellW) (f : State → State) (hs : P s) (hf : ∀ (x0 : State), P x0 → P (f x0)) : P (State.hiveCell s c f) := by
  unfold State.hiveCell
  repeat' first
    | with_reducible assumption
    | intro _
    | with_reducible refine ite_keeps ?_ ?_
    | with_reducible apply hf

theorem execSegmentOpen_keeps (K : Keeps [.out, .regs, .mem, .core, .eng, .upd, .swm, .cap, .lp, .log, .fab, .host, .wort, .boot] P) (cell : CellW) {s : State} (hs : P s) : ∃ t, execSegmentOpen cell s = .next t ∧ P t := by
  have K0 : Keeps [] P := K.mono rfl
  have K1 : Keeps [.out, .regs, .mem, .core, .eng, .upd, .swm, .cap, .lp, .log, .fab, .host, .wort, .boot] P := K.mono rfl
  refine ⟨_, rfl, ?_⟩
  repeat' first
    | with_reducible assumption
    | intro _
    | with_reducible apply State.hiveCell_keeps K0
    | with_reducible apply State.segOpen_keeps K1
    | with_reducible refine ite_keeps ?_ ?_

theorem execSwmCell_keeps (K : Keeps [.free, .out, .regs, .mem, .core, .eng, .upd, .swm, .cap, .lp, .log, .fab, .host, .wort, .boot] P) (cell : CellW) {s : State} (hs : P s) : ∃ t, execSwmCell cell s = .next t ∧ P t := by
  have K0 : Keeps [] P := K.mono rfl
  have K1 : Keeps [.free, .out, .regs, .mem, .core, .eng, .upd, .swm, .cap, .lp, .log, .fab, .host, .wort, .boot] P := K.mono rfl
  refine ⟨_, rfl, ?_⟩
  repeat' first
    | with_reducible assumption
    | intro _
    | with_reducible apply State.hiveCell_keeps K0
    | with_reducible apply State.segData_keeps K1
    | with_reducible refine ite_keeps ?_ ?_

theorem State.epochTaken_keeps (K : Keeps [.fab] P) {s : State} (g : Group) (hs : P s) : P (State.epochTaken s g) := by
  unfold State.epochTaken
  repeat' first
    | with_reducible assumption
    | intro _
    | with_reducible refine ite_keeps ?_ ?_
    | with_reducible apply K.lit
    | exact Or.inl (by decide)
    | exact Or.inr rfl

theorem execSwmReplan_keeps (K : Keeps [.free, .out, .regs, .mem, .core, .eng, .upd, .swm, .cap, .lp, .log, .fab, .host, .wort, .boot] P) (job : BitVec 8) (gid : GroupId) {s : State} (hs : P s) : ∃ t, execSwmReplan job gid s = .next t ∧ P t := by
  have K0 : Keeps [.fab] P := K.mono rfl
  have K1 : Keeps [.out, .regs, .swm, .log, .fab] P := K.mono rfl
  have K2 : Keeps [.free, .out, .regs, .mem, .core, .eng, .upd, .swm, .cap, .lp, .log, .fab, .host, .wort, .boot] P := K.mono rfl
  have K3 : Keeps [.regs] P := K.mono rfl
  have K4 : Keeps [.free, .out, .regs, .log, .host] P := K.mono rfl
  refine ⟨_, rfl, ?_⟩
  repeat' first
    | with_reducible assumption
    | intro _
    | with_reducible apply State.epochTaken_keeps K0
    | with_reducible apply State.epochNext_keeps K1
    | with_reducible apply State.opRestart_keeps K2
    | with_reducible apply State.nolull_keeps K3
    | with_reducible apply State.reevaluate_keeps K4
    | with_reducible refine ite_keeps ?_ ?_
    | with_reducible refine ite_fst_keeps ?_ ?_
    | split
    | with_reducible apply foldl_fst_keeps
    | with_reducible apply foldl_keeps

theorem execSwmOpTimeout_keeps (K : Keeps [.out, .regs, .mem, .core, .eng, .upd, .swm, .cap, .lp, .log, .fab, .host, .wort, .boot] P) (die : DieId) (gid : GroupId) (opseq : BitVec 32) {s : State} (hs : P s) : ∃ t, execSwmOpTimeout die gid opseq s = .next t ∧ P t := by
  have K0 : Keeps [.regs, .swm] P := K.mono rfl
  have K1 : Keeps [.out, .regs, .mem, .core, .eng, .upd, .swm, .cap, .lp, .log, .fab, .host, .wort, .boot] P := K.mono rfl
  refine ⟨_, rfl, ?_⟩
  repeat' first
    | with_reducible assumption
    | intro _
    | with_reducible apply State.leaveOp_keeps K0
    | with_reducible apply State.swmFinish_keeps K1
    | with_reducible refine ite_keeps ?_ ?_
    | split

end Sys2Proof.Machine
end

