-- ==== Sys2Proof/Laws/KeepsLinks.lean ====
section
/-! SUPPORT. What every operation may write: resets, faults of units, links, optics and LPDDR5X. One lemma per operation, by the components
it can reach (Laws/Keeps.lean). -/

namespace Sys2Proof.Machine

variable {P : State → Prop}

/-! ResetOps -/

theorem State.resetRec_keeps (K : Keeps [.out, .regs, .log] P) {s : State} (die : Nat) (phys : Nat) (logi : Nat) (level : Nat) (t0 : Nat) (hs : P s) : P (State.resetRec s die phys logi level t0) := by
  have K0 : Keeps [.out, .regs, .log] P := K.mono rfl
  unfold State.resetRec
  repeat' first
    | with_reducible assumption
    | intro _
    | with_reducible apply State.hiveRec_keeps K0

theorem State.resetOk_keeps (K : Keeps [.out, .regs] P) {s : State} (hs : P s) : P (State.resetOk s) := by
  have K0 : Keeps [.regs] P := K.mono rfl
  have K1 : Keeps [.out, .regs] P := K.mono rfl
  unfold State.resetOk
  repeat' first
    | with_reducible assumption
    | intro _
    | with_reducible apply State.fset_keeps K0
    | with_reducible apply State.isum_keeps K1

theorem State.setClDrain_keeps (K : Keeps [.eng] P) {s : State} (die : Nat) (c : Nat) (v : Nat) (hs : P s) : P (State.setClDrain s die c v) := by
  unfold State.setClDrain
  repeat' first
    | with_reducible assumption
    | intro _
    | with_reducible refine ite_keeps ?_ ?_
    | with_reducible apply K.lit
    | exact Or.inl (by decide)
    | exact Or.inr rfl

theorem State.setClFold_keeps (K : Keeps [.eng] P) {s : State} (die : Nat) (c : Nat) (v : Nat) (hs : P s) : P (State.setClFold s die c v) := by
  unfold State.setClFold
  repeat' first
    | with_reducible assumption
    | intro _
    | with_reducible refine ite_keeps ?_ ?_
    | with_reducible apply K.lit
    | exact Or.inl (by decide)
    | exact Or.inr rfl

theorem State.setClPhys_keeps (K : Keeps [.regs] P) {s : State} (die : Nat) (c : Nat) (ph : Nat) (hs : P s) : P (State.setClPhys s die c ph) := by
  have K0 : Keeps [.regs] P := K.mono rfl
  unfold State.setClPhys
  repeat' first
    | with_reducible assumption
    | intro _
    | with_reducible apply State.fset_keeps K0

theorem State.clPlace_keeps (K : Keeps [.out, .regs, .eng, .log, .boot] P) {s : State} (die : Nat) (c : Nat) (hs : P s) : P (State.clPlace s die c) := by
  have K0 : Keeps [.regs] P := K.mono rfl
  have K1 : Keeps [.eng] P := K.mono rfl
  have K2 : Keeps [.regs, .boot] P := K.mono rfl
  have K3 : Keeps [.log] P := K.mono rfl
  have K4 : Keeps [.out, .regs] P := K.mono rfl
  unfold State.clPlace
  repeat' first
    | with_reducible assumption
    | intro _
    | with_reducible apply State.setClPhys_keeps K0
    | with_reducible apply State.setClFold_keeps K1
    | with_reducible apply State.journal_keeps K2
    | with_reducible apply State.dieRec_keeps K3
    | with_reducible apply State.dieDegraded_keeps K4
    | with_reducible refine ite_keeps ?_ ?_
    | split

theorem State.coreIdle_keeps (K : Keeps [.regs] P) {s : State} (core : Nat) (hs : P s) : P (State.coreIdle s core) := by
  have K0 : Keeps [.regs] P := K.mono rfl
  unfold State.coreIdle
  repeat' first
    | with_reducible assumption
    | intro _
    | with_reducible apply State.setCoreState_keeps K0

theorem State.takeoverEnd_keeps (K : Keeps [.free, .out, .regs, .mem, .core, .eng, .upd, .swm, .cap, .lp, .log, .fab, .host, .wort, .boot] P) {s : State} (die : Nat) (ph : Nat) (hs : P s) : P (State.takeoverEnd s die ph) := by
  have K0 : Keeps [.eng] P := K.mono rfl
  have K1 : Keeps [.regs] P := K.mono rfl
  have K2 : Keeps [.out, .regs, .eng, .log, .boot] P := K.mono rfl
  have K3 : Keeps [.free, .out, .regs, .mem, .core, .eng, .upd, .swm, .cap, .lp, .log, .fab, .host, .wort, .boot] P := K.mono rfl
  have K4 : Keeps [.out, .regs] P := K.mono rfl
  unfold State.takeoverEnd
  repeat' first
    | with_reducible assumption
    | intro _
    | with_reducible apply State.setClFold_keeps K0
    | with_reducible apply State.setClDrain_keeps K0
    | with_reducible apply State.setClPhys_keeps K1
    | with_reducible apply State.clPlace_keeps K2
    | with_reducible apply State.coreIdle_keeps K1
    | with_reducible apply State.dieFailed_keeps K3
    | with_reducible apply State.dieDegraded_keeps K4
    | with_reducible refine ite_keeps ?_ ?_
    | with_reducible refine ite_fst_keeps ?_ ?_
    | with_reducible apply foldl_fst_keeps
    | with_reducible apply foldl_keeps
    | with_reducible apply K.lit
    | exact Or.inl (by decide)
    | exact Or.inr rfl

theorem State.takeoverStart_keeps (K : Keeps [.free, .out, .regs, .mem, .core, .eng, .upd, .swm, .cap, .lp, .log, .fab, .host, .wort, .boot] P) {s : State} (die : Nat) (ph : Nat) (hs : P s) : P (State.takeoverStart s die ph) := by
  have K0 : Keeps [.regs, .core, .host] P := K.mono rfl
  have K1 : Keeps [.regs] P := K.mono rfl
  have K2 : Keeps [.eng] P := K.mono rfl
  have K3 : Keeps [.out, .regs, .mem, .core, .eng, .upd, .swm, .cap, .lp, .log, .fab, .host, .wort, .boot] P := K.mono rfl
  have K4 : Keeps [.regs, .boot] P := K.mono rfl
  have K5 : Keeps [.log] P := K.mono rfl
  have K6 : Keeps [.free, .out, .regs, .mem, .core, .eng, .upd, .swm, .cap, .lp, .log, .fab, .host, .wort, .boot] P := K.mono rfl
  unfold State.takeoverStart
  repeat' first
    | with_reducible assumption
    | intro _
    | with_reducible apply State.stopCore_keeps K0
    | with_reducible apply State.setCoreState_keeps K1
    | with_reducible apply State.setClDrain_keeps K2
    | with_reducible apply State.voteFailed_keeps K3
    | with_reducible apply State.fset_keeps K1
    | with_reducible apply State.journal_keeps K4
    | with_reducible apply State.dieRec_keeps K5
    | with_reducible apply State.takeoverEnd_keeps K6
    | with_reducible refine ite_keeps ?_ ?_
    | with_reducible refine ite_fst_keeps ?_ ?_
    | with_reducible apply foldl_fst_keeps
    | with_reducible apply foldl_keeps

theorem State.takeoverTry_keeps (K : Keeps [.free, .out, .regs, .mem, .core, .eng, .upd, .swm, .cap, .lp, .log, .fab, .host, .wort, .boot] P) {s : State} (die : Nat) (ph : Nat) (hs : P s) : P (State.takeoverTry s die ph) := by
  have K0 : Keeps [.free, .out, .regs, .mem, .core, .eng, .upd, .swm, .cap, .lp, .log, .fab, .host, .wort, .boot] P := K.mono rfl
  unfold State.takeoverTry
  repeat' first
    | with_reducible assumption
    | intro _
    | with_reducible apply State.takeoverEnd_keeps K0
    | with_reducible refine ite_keeps ?_ ?_

theorem State.clTakeover_keeps (K : Keeps [.free, .out, .regs, .mem, .core, .eng, .upd, .swm, .cap, .lp, .log, .fab, .host, .wort, .boot] P) {s : State} (die : Nat) (c : Nat) (hs : P s) : P (State.clTakeover s die c) := by
  have K0 : Keeps [.free, .out, .regs, .mem, .core, .eng, .upd, .swm, .cap, .lp, .log, .fab, .host, .wort, .boot] P := K.mono rfl
  unfold State.clTakeover
  repeat' first
    | with_reducible assumption
    | intro _
    | with_reducible apply State.takeoverStart_keeps K0
    | with_reducible apply State.takeoverTry_keeps K0

theorem State.bankTakeover_keeps (K : Keeps [.free, .out, .regs, .mem, .core, .eng, .upd, .swm, .cap, .lp, .log, .fab, .host, .wort, .boot] P) {s : State} (die : Nat) (b : Nat) (hs : P s) : P (State.bankTakeover s die b) := by
  have K0 : Keeps [.regs] P := K.mono rfl
  have K1 : Keeps [.regs, .boot] P := K.mono rfl
  have K2 : Keeps [.log] P := K.mono rfl
  have K3 : Keeps [.out, .regs] P := K.mono rfl
  have K4 : Keeps [.out, .regs, .mem, .core, .eng, .upd, .swm, .cap, .lp, .log, .fab, .host, .wort, .boot] P := K.mono rfl
  have K5 : Keeps [.free, .out, .regs, .log, .host] P := K.mono rfl
  have K6 : Keeps [.free, .out, .regs, .mem, .core, .eng, .upd, .swm, .cap, .lp, .log, .fab, .host, .wort, .boot] P := K.mono rfl
  unfold State.bankTakeover
  repeat' first
    | with_reducible assumption
    | intro _
    | with_reducible apply State.fset_keeps K0
    | with_reducible apply State.journal_keeps K1
    | with_reducible apply State.dieRec_keeps K2
    | with_reducible apply State.dieDegraded_keeps K3
    | with_reducible apply State.recap_keeps K0
    | with_reducible apply State.voteFailed_keeps K4
    | with_reducible apply State.reevaluate_keeps K5
    | with_reducible apply State.dieFailed_keeps K6
    | with_reducible refine ite_keeps ?_ ?_
    | split
    | with_reducible apply K.lit
    | exact Or.inl (by decide)
    | exact Or.inr rfl

theorem State.mapOut_keeps (K : Keeps [.free, .out, .regs, .mem, .core, .eng, .upd, .swm, .cap, .lp, .log, .fab, .host, .wort, .boot] P) {s : State} (die : Nat) (ch : Nat) (hs : P s) : P (State.mapOut s die ch) := by
  have K0 : Keeps [.regs] P := K.mono rfl
  have K1 : Keeps [.mem, .lp] P := K.mono rfl
  have K2 : Keeps [.log] P := K.mono rfl
  have K3 : Keeps [.regs, .boot] P := K.mono rfl
  have K4 : Keeps [.free, .out, .regs, .log, .host] P := K.mono rfl
  have K5 : Keeps [.free, .out, .regs, .mem, .core, .eng, .upd, .swm, .cap, .lp, .log, .fab, .host, .wort, .boot] P := K.mono rfl
  have K6 : Keeps [.out, .regs] P := K.mono rfl
  unfold State.mapOut
  repeat' first
    | with_reducible assumption
    | intro _
    | with_reducible apply State.fsetBit_keeps K0
    | with_reducible apply State.zeroLpddr_keeps K1
    | with_reducible apply State.recap_keeps K0
    | with_reducible apply State.dieRec_keeps K2
    | with_reducible apply State.journal_keeps K3
    | with_reducible apply State.reevaluate_keeps K4
    | with_reducible apply State.dieFailed_keeps K5
    | with_reducible apply State.dieDegraded_keeps K6
    | with_reducible refine ite_keeps ?_ ?_

theorem State.mapOutAll_keeps (K : Keeps [.free, .out, .regs, .mem, .core, .eng, .upd, .swm, .cap, .lp, .log, .fab, .host, .wort, .boot] P) {s : State} (die : Nat) (hs : P s) : P (State.mapOutAll s die) := by
  have K0 : Keeps [.free, .out, .regs, .mem, .core, .eng, .upd, .swm, .cap, .lp, .log, .fab, .host, .wort, .boot] P := K.mono rfl
  unfold State.mapOutAll
  repeat' first
    | with_reducible assumption
    | intro _
    | with_reducible apply State.mapOut_keeps K0
    | with_reducible refine ite_keeps ?_ ?_
    | with_reducible refine ite_fst_keeps ?_ ?_
    | with_reducible apply foldl_fst_keeps
    | with_reducible apply foldl_keeps

/-! UnitOps -/

theorem State.setArrSt_keeps (K : Keeps [.regs] P) {s : State} (die : Nat) (p : Nat) (v : Nat) (hs : P s) : P (State.setArrSt s die p v) := by
  have K0 : Keeps [.regs] P := K.mono rfl
  unfold State.setArrSt
  repeat' first
    | with_reducible assumption
    | intro _
    | with_reducible apply State.fset_keeps K0

theorem State.arrFlags_keeps (K : Keeps [.regs] P) {s : State} (die : Nat) (hs : P s) : P (State.arrFlags s die) := by
  have K0 : Keeps [.regs] P := K.mono rfl
  unfold State.arrFlags
  repeat' first
    | with_reducible assumption
    | intro _
    | with_reducible apply State.fset_keeps K0

theorem State.dieReview_keeps (K : Keeps [.out, .regs] P) {s : State} (die : Nat) (hs : P s) : P (State.dieReview s die) := by
  have K0 : Keeps [.out, .regs] P := K.mono rfl
  unfold State.dieReview
  repeat' first
    | with_reducible assumption
    | intro _
    | with_reducible apply State.setDieState_keeps K0
    | with_reducible refine ite_keeps ?_ ?_

theorem State.arrFence_keeps (K : Keeps [.out, .regs, .mem, .core, .eng, .upd, .swm, .cap, .lp, .log, .fab, .host, .wort, .boot] P) {s : State} (die : Nat) (l : Nat) (hs : P s) : P (State.arrFence s die l) := by
  have K0 : Keeps [.eng] P := K.mono rfl
  have K1 : Keeps [.regs] P := K.mono rfl
  have K2 : Keeps [.out, .regs, .mem, .core, .eng, .upd, .swm, .cap, .lp, .log, .fab, .host, .wort, .boot] P := K.mono rfl
  unfold State.arrFence
  repeat' first
    | with_reducible assumption
    | intro _
    | with_reducible apply State.setArr_keeps K0
    | with_reducible apply State.arrBusy_keeps K1
    | with_reducible apply State.completeCmd_keeps K2
    | with_reducible refine ite_keeps ?_ ?_
    | with_reducible refine ite_fst_keeps ?_ ?_
    | with_reducible apply foldl_fst_keeps
    | with_reducible apply foldl_keeps

theorem State.arrPlace_keeps (K : Keeps [.regs, .log, .boot] P) {s : State} (die : Nat) (l : Nat) (hs : P s) : P (State.arrPlace s die l) := by
  have K0 : Keeps [.regs] P := K.mono rfl
  have K1 : Keeps [.log] P := K.mono rfl
  have K2 : Keeps [.regs, .boot] P := K.mono rfl
  unfold State.arrPlace
  repeat' first
    | with_reducible assumption
    | intro _
    | with_reducible apply State.setArrSt_keeps K0
    | with_reducible apply State.fset_keeps K0
    | with_reducible apply State.fsetBit_keeps K0
    | with_reducible apply State.dieRec_keeps K1
    | with_reducible apply State.journal_keeps K2
    | with_reducible refine ite_keeps ?_ ?_
    | split

theorem State.arrWithdraw_keeps (K : Keeps [.free, .out, .regs, .mem, .core, .eng, .upd, .swm, .cap, .lp, .log, .fab, .host, .wort, .boot] P) {s : State} (die : Nat) (p : Nat) (hs : P s) : P (State.arrWithdraw s die p) := by
  have K0 : Keeps [.regs] P := K.mono rfl
  have K1 : Keeps [.out, .regs, .mem, .core, .eng, .upd, .swm, .cap, .lp, .log, .fab, .host, .wort, .boot] P := K.mono rfl
  have K2 : Keeps [.regs, .log, .boot] P := K.mono rfl
  have K3 : Keeps [.regs, .boot] P := K.mono rfl
  have K4 : Keeps [.out, .regs] P := K.mono rfl
  have K5 : Keeps [.free, .out, .regs, .log, .host] P := K.mono rfl
  have K6 : Keeps [.free, .out, .regs, .mem, .core, .eng, .upd, .swm, .cap, .lp, .log, .fab, .host, .wort, .boot] P := K.mono rfl
  unfold State.arrWithdraw
  repeat' first
    | with_reducible assumption
    | intro _
    | with_reducible apply State.fsetBit_keeps K0
    | with_reducible apply State.setArrSt_keeps K0
    | with_reducible apply State.arrFence_keeps K1
    | with_reducible apply State.voteFailed_keeps K1
    | with_reducible apply State.fset_keeps K0
    | with_reducible apply State.arrPlace_keeps K2
    | with_reducible apply State.arrFlags_keeps K0
    | with_reducible apply State.recap_keeps K0
    | with_reducible apply State.journal_keeps K3
    | with_reducible apply State.dieReview_keeps K4
    | with_reducible apply State.reevaluate_keeps K5
    | with_reducible apply State.dieFailed_keeps K6
    | with_reducible refine ite_keeps ?_ ?_
    | with_reducible refine ite_fst_keeps ?_ ?_
    | with_reducible apply foldl_fst_keeps
    | with_reducible apply foldl_keeps

theorem State.noteFault_keeps (K : Keeps [.eng] P) {s : State} (die : Nat) (k : Nat) (hs : P s) : P (State.noteFault s die k) := by
  unfold State.noteFault
  repeat' first
    | with_reducible assumption
    | intro _
    | with_reducible refine ite_keeps ?_ ?_
    | with_reducible apply K.lit
    | exact Or.inl (by decide)
    | exact Or.inr rfl

theorem State.arrVerdict_keeps (K : Keeps [.out, .regs, .log, .boot] P) {s : State} (die : Nat) (p : Nat) (pass : Bool) (hs : P s) : P (State.arrVerdict s die p pass) := by
  have K0 : Keeps [.regs] P := K.mono rfl
  have K1 : Keeps [.log] P := K.mono rfl
  have K2 : Keeps [.regs, .boot] P := K.mono rfl
  have K3 : Keeps [.out, .regs] P := K.mono rfl
  unfold State.arrVerdict
  repeat' first
    | with_reducible assumption
    | intro _
    | with_reducible apply State.setArrSt_keeps K0
    | with_reducible apply State.dieRec_keeps K1
    | with_reducible apply State.journal_keeps K2
    | with_reducible apply State.arrFlags_keeps K0
    | with_reducible apply State.dieReview_keeps K3
    | with_reducible refine ite_keeps ?_ ?_

theorem State.mveWithdraw_keeps (K : Keeps [.out, .regs, .mem, .core, .eng, .upd, .swm, .cap, .lp, .log, .fab, .host, .wort, .boot] P) {s : State} (die : Nat) (hs : P s) : P (State.mveWithdraw s die) := by
  have K0 : Keeps [.regs] P := K.mono rfl
  have K1 : Keeps [.out, .regs, .mem, .core, .eng, .upd, .swm, .cap, .lp, .log, .fab, .host, .wort, .boot] P := K.mono rfl
  have K2 : Keeps [.eng] P := K.mono rfl
  unfold State.mveWithdraw
  repeat' first
    | with_reducible assumption
    | intro _
    | with_reducible apply State.fset_keeps K0
    | with_reducible apply State.voteFailed_keeps K1
    | with_reducible apply State.setMveq_keeps K2
    | with_reducible apply State.completeCmd_keeps K1
    | with_reducible apply State.mveRun_keeps K1
    | with_reducible refine ite_keeps ?_ ?_
    | split
    | extract_lets

theorem State.mveBad_keeps (K : Keeps [.regs, .log, .boot] P) {s : State} (d : Nat) (hs : P s) : P (State.mveBad s d) := by
  have K0 : Keeps [.regs] P := K.mono rfl
  have K1 : Keeps [.log] P := K.mono rfl
  have K2 : Keeps [.regs, .boot] P := K.mono rfl
  unfold State.mveBad
  repeat' first
    | with_reducible assumption
    | intro _
    | with_reducible apply State.fset_keeps K0
    | with_reducible apply State.dieRec_keeps K1
    | with_reducible apply State.journal_keeps K2
    | with_reducible refine ite_keeps ?_ ?_

theorem State.katFail_keeps (K : Keeps [.free, .out, .regs, .mem, .core, .eng, .upd, .swm, .cap, .lp, .log, .fab, .host, .wort, .boot] P) {s : State} (d : Nat) (e : Nat) (u : Nat) (hs : P s) : P (State.katFail s d e u) := by
  have K0 : Keeps [.regs] P := K.mono rfl
  have K1 : Keeps [.log] P := K.mono rfl
  have K2 : Keeps [.free, .out, .regs, .mem, .core, .eng, .upd, .swm, .cap, .lp, .log, .fab, .host, .wort, .boot] P := K.mono rfl
  have K3 : Keeps [.out, .regs, .log, .boot] P := K.mono rfl
  have K4 : Keeps [.regs, .log, .boot] P := K.mono rfl
  unfold State.katFail
  repeat' first
    | with_reducible assumption
    | intro _
    | with_reducible apply State.fset_keeps K0
    | with_reducible apply State.dieRec_keeps K1
    | with_reducible apply State.arrWithdraw_keeps K2
    | with_reducible apply State.arrVerdict_keeps K3
    | with_reducible apply State.mveBad_keeps K4
    | with_reducible apply State.takeoverStart_keeps K2
    | with_reducible apply State.takeoverTry_keeps K2
    | with_reducible refine ite_keeps ?_ ?_

theorem State.katUp_keeps (K : Keeps [.free, .out, .regs, .mem, .core, .eng, .upd, .swm, .cap, .lp, .log, .fab, .host, .wort, .boot] P) {s : State} (d : Nat) (bad : List (Nat × Nat)) (hs : P s) : P (State.katUp s d bad) := by
  have K0 : Keeps [.regs] P := K.mono rfl
  have K1 : Keeps [.free, .out, .regs, .mem, .core, .eng, .upd, .swm, .cap, .lp, .log, .fab, .host, .wort, .boot] P := K.mono rfl
  unfold State.katUp
  repeat' first
    | with_reducible assumption
    | intro _
    | with_reducible apply State.fset_keeps K0
    | with_reducible apply State.katFail_keeps K1
    | with_reducible refine ite_keeps ?_ ?_
    | with_reducible refine ite_fst_keeps ?_ ?_
    | with_reducible apply foldl_fst_keeps
    | with_reducible apply foldl_keeps

/-! PartOps -/

theorem State.coreResetStart_keeps (K : Keeps [.out, .regs, .mem, .core, .eng, .upd, .swm, .cap, .lp, .log, .fab, .host, .wort, .boot] P) {s : State} (core : Nat) (kat : Bool) (hs : P s) : P (State.coreResetStart s core kat) := by
  have K0 : Keeps [.out, .regs, .mem, .core, .eng, .upd, .swm, .cap, .lp, .log, .fab, .host, .wort, .boot] P := K.mono rfl
  have K1 : Keeps [.regs, .core, .host] P := K.mono rfl
  have K2 : Keeps [.core] P := K.mono rfl
  unfold State.coreResetStart
  repeat' first
    | with_reducible assumption
    | intro _
    | with_reducible apply State.voteFailed_keeps K0
    | with_reducible apply State.stopCore_keeps K1
    | with_reducible apply State.setCoreRec_keeps K2
    | with_reducible refine ite_keeps ?_ ?_

theorem State.coreResetEnd_keeps (K : Keeps [.regs, .core, .host, .saf] P) {s : State} (core : Nat) (hs : P s) : P (State.coreResetEnd s core) := by
  have K0 : Keeps [.core] P := K.mono rfl
  have K1 : Keeps [.regs, .core, .host] P := K.mono rfl
  have K2 : Keeps [.regs] P := K.mono rfl
  unfold State.coreResetEnd
  repeat' first
    | with_reducible assumption
    | intro _
    | with_reducible apply State.setCoreRec_keeps K0
    | with_reducible apply State.kernelTryEnd_keeps K1
    | with_reducible apply State.coreIdle_keeps K2
    | with_reducible refine ite_keeps ?_ ?_
    | with_reducible apply K.lit
    | exact Or.inl (by decide)
    | exact Or.inr rfl

theorem State.coreResetTry_keeps (K : Keeps [.free, .out, .regs, .mem, .core, .eng, .upd, .swm, .cap, .lp, .log, .fab, .host, .wort, .boot, .saf] P) {s : State} (core : Nat) (hs : P s) : P (State.coreResetTry s core) := by
  have K0 : Keeps [.regs, .core, .host, .saf] P := K.mono rfl
  have K1 : Keeps [.free, .out, .regs, .mem, .core, .eng, .upd, .swm, .cap, .lp, .log, .fab, .host, .wort, .boot] P := K.mono rfl
  have K2 : Keeps [.out, .regs, .log] P := K.mono rfl
  have K3 : Keeps [.out, .regs] P := K.mono rfl
  unfold State.coreResetTry
  repeat' first
    | with_reducible assumption
    | intro _
    | with_reducible apply State.coreResetEnd_keeps K0
    | with_reducible apply State.katUp_keeps K1
    | with_reducible apply State.resetRec_keeps K2
    | with_reducible apply State.resetOk_keeps K3
    | with_reducible refine ite_keeps ?_ ?_

theorem State.clResetTry_keeps (K : Keeps [.free, .out, .regs, .mem, .core, .eng, .upd, .swm, .cap, .lp, .log, .fab, .host, .wort, .boot, .saf] P) {s : State} (die : Nat) (c : Nat) (hs : P s) : P (State.clResetTry s die c) := by
  have K0 : Keeps [.eng] P := K.mono rfl
  have K1 : Keeps [.free, .out, .regs, .mem, .core, .eng, .upd, .swm, .cap, .lp, .log, .fab, .host, .wort, .boot] P := K.mono rfl
  have K2 : Keeps [.regs, .core, .host, .saf] P := K.mono rfl
  have K3 : Keeps [.out, .regs, .log] P := K.mono rfl
  have K4 : Keeps [.out, .regs] P := K.mono rfl
  unfold State.clResetTry
  repeat' first
    | with_reducible assumption
    | intro _
    | with_reducible apply State.setClDrain_keeps K0
    | with_reducible apply State.katFail_keeps K1
    | with_reducible apply State.clTakeover_keeps K1
    | with_reducible apply State.coreResetEnd_keeps K2
    | with_reducible apply State.katUp_keeps K1
    | with_reducible apply State.resetRec_keeps K3
    | with_reducible apply State.resetOk_keeps K4
    | with_reducible refine ite_keeps ?_ ?_
    | with_reducible refine ite_fst_keeps ?_ ?_
    | with_reducible apply foldl_fst_keeps
    | with_reducible apply foldl_keeps

theorem State.resetGo_keeps (K : Keeps [.out, .regs, .log, .boot] P) {s : State} (cs : List (Bool × Nat)) (f : State → State) (hs : P s) (hf : ∀ (x0 : State), P x0 → P (f x0)) : P (State.resetGo s cs f) := by
  have K0 : Keeps [.out, .regs, .log] P := K.mono rfl
  have K1 : Keeps [.regs] P := K.mono rfl
  unfold State.resetGo
  repeat' first
    | with_reducible assumption
    | intro _
    | with_reducible apply State.refuseReg_keeps K0
    | with_reducible apply State.fset_keeps K1
    | with_reducible refine ite_keeps ?_ ?_
    | split
    | with_reducible apply hf
    | with_reducible apply K.lit
    | exact Or.inl (by decide)
    | exact Or.inr rfl

theorem State.coreReset_keeps (K : Keeps [.out, .regs, .mem, .core, .eng, .upd, .swm, .cap, .lp, .log, .fab, .host, .wort, .boot] P) {s : State} (core : Nat) (kat : Bool) (hs : P s) : P (State.coreReset s core kat) := by
  have K0 : Keeps [.out, .regs, .log, .boot] P := K.mono rfl
  have K1 : Keeps [.out, .regs, .mem, .core, .eng, .upd, .swm, .cap, .lp, .log, .fab, .host, .wort, .boot] P := K.mono rfl
  unfold State.coreReset
  repeat' first
    | with_reducible assumption
    | intro _
    | with_reducible apply State.resetGo_keeps K0
    | with_reducible apply State.coreResetStart_keeps K1

theorem State.clusterReset_keeps (K : Keeps [.out, .regs, .mem, .core, .eng, .upd, .swm, .cap, .lp, .log, .fab, .host, .wort, .boot] P) {s : State} (die : Nat) (c : Nat) (bad : Bool) (kat : Bool) (hs : P s) : P (State.clusterReset s die c bad kat) := by
  have K0 : Keeps [.out, .regs, .log, .boot] P := K.mono rfl
  have K1 : Keeps [.out, .regs, .mem, .core, .eng, .upd, .swm, .cap, .lp, .log, .fab, .host, .wort, .boot] P := K.mono rfl
  have K2 : Keeps [.eng] P := K.mono rfl
  unfold State.clusterReset
  repeat' first
    | with_reducible assumption
    | intro _
    | with_reducible apply State.resetGo_keeps K0
    | with_reducible apply State.coreResetStart_keeps K1
    | with_reducible apply State.setClDrain_keeps K2
    | with_reducible refine ite_keeps ?_ ?_
    | with_reducible refine ite_fst_keeps ?_ ?_
    | with_reducible apply foldl_fst_keeps
    | with_reducible apply foldl_keeps

theorem State.dropJobs_keeps (K : Keeps [.regs, .eng, .upd] P) {s : State} (die : Nat) (keep : Job → Bool) (hs : P s) : P (State.dropJobs s die keep) := by
  have K0 : Keeps [.eng] P := K.mono rfl
  have K1 : Keeps [.regs] P := K.mono rfl
  have K2 : Keeps [.regs, .eng] P := K.mono rfl
  have K3 : Keeps [.regs, .upd] P := K.mono rfl
  unfold State.dropJobs
  repeat' first
    | with_reducible assumption
    | intro _
    | with_reducible apply State.setArr_keeps K0
    | with_reducible apply State.arrBusy_keeps K1
    | with_reducible apply State.setMveq_keeps K0
    | with_reducible apply State.mveBusy_keeps K1
    | with_reducible apply State.setCeQ_keeps K2
    | with_reducible apply State.setUpdQ_keeps K3
    | with_reducible refine ite_keeps ?_ ?_
    | with_reducible refine ite_fst_keeps ?_ ?_
    | with_reducible apply foldl_fst_keeps
    | with_reducible apply foldl_keeps
    | with_reducible apply K.lit
    | exact Or.inl (by decide)
    | exact Or.inr rfl

theorem State.coresClear_keeps (K : Keeps [.regs, .core, .saf] P) {s : State} (die : Nat) (hs : P s) : P (State.coresClear s die) := by
  unfold State.coresClear
  extract_lets cores lo c1 s1 left
  have h1 := K.regDrop (by decide) (fun k => decide (lo ≤ k ∧ k < lo + 256)) hs
  have h2 : P s1 := K.core (by decide) { s.core with cores := cores } h1
  apply foldl_keeps
  · intro a x h
    exact State.setCoreState_keeps (K.mono rfl) x.1 csFENCED h
  · exact K.saf (by decide) _ h2

theorem State.countersClear_keeps (K : Keeps [.regs, .core] P) {s : State} (die : Nat) (hs : P s) : P (State.countersClear s die) := by
  unfold State.countersClear
  extract_lets lo
  have h1 := K.regDrop (by decide) (fun k => decide (lo ≤ k ∧ k < lo + 8192)) hs
  exact K.core (by decide) { s.core with bars := s.core.bars.drop fun k => decide (k / 32 = die) } h1

theorem State.dieEnter_keeps (K : Keeps [.out, .regs, .boot] P) {s : State} (die : Nat) (hs : P s) : P (State.dieEnter s die) := by
  have K0 : Keeps [.out, .regs] P := K.mono rfl
  unfold State.dieEnter
  repeat' first
    | with_reducible assumption
    | intro _
    | with_reducible apply State.setDieState_keeps K0
    | with_reducible refine ite_keeps ?_ ?_
    | with_reducible apply K.lit
    | exact Or.inl (by decide)
    | exact Or.inr rfl

theorem State.dieLeave_keeps (K : Keeps [.out, .regs, .boot, .saf] P) {s : State} (die : Nat) (hs : P s) : P (State.dieLeave s die) := by
  have K0 : Keeps [.out, .regs] P := K.mono rfl
  unfold State.dieLeave
  repeat' first
    | with_reducible assumption
    | intro _
    | with_reducible apply State.setDieState_keeps K0
    | with_reducible refine ite_keeps ?_ ?_
    | with_reducible apply K.lit
    | exact Or.inl (by decide)
    | exact Or.inr rfl

theorem State.capDiscard_keeps (K : Keeps [.regs, .mem, .upd, .cap, .wort] P) {s : State} (die : Nat) (lost : Bool) (hs : P s) : P (State.capDiscard s die lost) := by
  have K0 : Keeps [.regs, .mem, .upd] P := K.mono rfl
  have K1 : Keeps [.wort] P := K.mono rfl
  have K2 : Keeps [.cap] P := K.mono rfl
  have K3 : Keeps [.regs] P := K.mono rfl
  unfold State.capDiscard
  repeat' first
    | with_reducible assumption
    | intro _
    | with_reducible apply State.freeSlot_keeps K0
    | with_reducible apply State.setSess_keeps K1
    | with_reducible apply State.setDieCap_keeps K2
    | with_reducible apply State.setReg_keeps K3
    | with_reducible apply State.fsetBit_keeps K3
    | with_reducible refine ite_keeps ?_ ?_
    | split

theorem State.capGiveUp_keeps (K : Keeps [.out, .regs, .mem, .core, .eng, .upd, .swm, .cap, .lp, .log, .fab, .host, .wort, .boot] P) {s : State} (die : Nat) (hs : P s) : P (State.capGiveUp s die) := by
  have K0 : Keeps [.regs, .mem, .upd, .cap, .wort] P := K.mono rfl
  have K1 : Keeps [.out, .regs, .mem, .core, .eng, .upd, .swm, .cap, .lp, .log, .fab, .host, .wort, .boot] P := K.mono rfl
  unfold State.capGiveUp
  repeat' first
    | with_reducible assumption
    | intro _
    | with_reducible apply State.capDiscard_keeps K0
    | with_reducible apply State.rollback_keeps K1
    | with_reducible refine ite_keeps ?_ ?_
    | split

theorem State.dieStop_keeps (K : Keeps [.out, .regs, .mem, .core, .eng, .upd, .swm, .cap, .lp, .log, .fab, .host, .wort, .boot] P) {s : State} (die : Nat) (hs : P s) : P (State.dieStop s die) := by
  have K0 : Keeps [.regs, .core, .host] P := K.mono rfl
  have K1 : Keeps [.core] P := K.mono rfl
  have K2 : Keeps [.out, .regs, .boot] P := K.mono rfl
  have K3 : Keeps [.regs, .eng, .upd] P := K.mono rfl
  have K4 : Keeps [.out, .regs, .mem, .core, .eng, .upd, .swm, .cap, .lp, .log, .fab, .host, .wort, .boot] P := K.mono rfl
  unfold State.dieStop
  repeat' first
    | with_reducible assumption
    | intro _
    | with_reducible apply State.stopCore_keeps K0
    | with_reducible apply State.setCoreRec_keeps K1
    | with_reducible apply State.dieEnter_keeps K2
    | with_reducible apply State.dropJobs_keeps K3
    | with_reducible apply State.voteFailed_keeps K4
    | with_reducible refine ite_keeps ?_ ?_
    | with_reducible refine ite_fst_keeps ?_ ?_
    | with_reducible apply foldl_fst_keeps
    | with_reducible apply foldl_keeps

theorem State.smpClear_keeps (K : Keeps [.regs, .smp] P) {s : State} (job : Nat) (hs : P s) : P (State.smpClear s job) := by
  have K0 : Keeps [.regs, .smp] P := K.mono rfl
  unfold State.smpClear
  repeat' first
    | with_reducible assumption
    | intro _
    | with_reducible apply State.setSmp_keeps K0

theorem State.partResetStart_keeps (K : Keeps [.out, .regs, .mem, .core, .eng, .smp, .upd, .swm, .cap, .lp, .log, .fab, .host, .wort, .boot] P) {s : State} (p : Nat) (flr : Bool) (kat : List (Nat × Nat × Nat)) (hs : P s) : P (State.partResetStart s p flr kat) := by
  have K0 : Keeps [.host] P := K.mono rfl
  have K1 : Keeps [.regs, .host] P := K.mono rfl
  have K2 : Keeps [.regs] P := K.mono rfl
  have K3 : Keeps [.out, .regs, .mem, .core, .eng, .upd, .swm, .cap, .lp, .log, .fab, .host, .wort, .boot] P := K.mono rfl
  have K4 : Keeps [.regs, .smp] P := K.mono rfl
  unfold State.partResetStart
  repeat' first
    | with_reducible assumption
    | intro _
    | with_reducible apply State.setPart_keeps K0
    | with_reducible apply State.ringDrop_keeps K1
    | with_reducible apply State.fset_keeps K2
    | with_reducible apply State.dieStop_keeps K3
    | with_reducible apply State.smpClear_keeps K4
    | with_reducible refine ite_keeps ?_ ?_
    | with_reducible refine ite_fst_keeps ?_ ?_
    | with_reducible apply foldl_fst_keeps
    | with_reducible apply foldl_keeps

theorem State.pgenUp_keeps (K : Keeps [.regs, .saf] P) {s : State} (die : Nat) (hs : P s) : P (State.pgenUp s die) := by
  have K0 : Keeps [.regs] P := K.mono rfl
  unfold State.pgenUp
  repeat' first
    | with_reducible assumption
    | intro _
    | with_reducible apply State.fset_keeps K0
    | with_reducible refine ite_keeps ?_ ?_
    | with_reducible apply K.lit
    | exact Or.inl (by decide)
    | exact Or.inr rfl

theorem State.dieResetEnd_keeps (K : Keeps [.free, .out, .regs, .mem, .core, .eng, .smp, .upd, .swm, .cap, .lp, .log, .fab, .host, .wort, .boot, .saf] P) {s : State} (d : Nat) (kat : List (Nat × Nat)) (hs : P s) : P (State.dieResetEnd s d kat) := by
  have K0 : Keeps [.out, .regs, .mem, .core, .eng, .upd, .swm, .cap, .lp, .log, .fab, .host, .wort, .boot] P := K.mono rfl
  have K1 : Keeps [.mem, .eng] P := K.mono rfl
  have K2 : Keeps [.regs, .core] P := K.mono rfl
  have K3 : Keeps [.out, .regs, .boot, .saf] P := K.mono rfl
  have K4 : Keeps [.free, .out, .regs, .mem, .core, .eng, .upd, .swm, .cap, .lp, .log, .fab, .host, .wort, .boot] P := K.mono rfl
  have K5 : Keeps [.regs, .saf] P := K.mono rfl
  have K6 : Keeps [.regs, .fab] P := K.mono rfl
  have K7 : Keeps [.regs, .core, .saf] P := K.mono rfl
  unfold State.dieResetEnd
  repeat' first
    | with_reducible assumption
    | intro _
    | with_reducible apply State.capGiveUp_keeps K0
    | with_reducible apply State.zeroSram_keeps K1
    | with_reducible apply State.countersClear_keeps K2
    | with_reducible apply State.dieLeave_keeps K3
    | with_reducible apply State.mapOutAll_keeps K4
    | with_reducible apply State.pgenUp_keeps K5
    | with_reducible apply State.setRx_keeps K6
    | with_reducible apply State.coresClear_keeps K7
    | with_reducible apply State.katUp_keeps K4
    | with_reducible refine ite_keeps ?_ ?_
    | with_reducible apply K.lit
    | exact Or.inl (by decide)
    | exact Or.inr rfl

theorem State.setupsClear_keeps (K : Keeps [.out, .regs, .swm, .host, .wort] P) {s : State} (fn : Nat) (hs : P s) : P (State.setupsClear s fn) := by
  have K0 : Keeps [.wort] P := K.mono rfl
  have K1 : Keeps [.out, .regs, .swm, .host] P := K.mono rfl
  have K2 : Keeps [.out, .swm] P := K.mono rfl
  unfold State.setupsClear
  repeat' first
    | with_reducible assumption
    | intro _
    | with_reducible apply State.setSess_keeps K0
    | with_reducible apply State.setupRemove_keeps K1
    | with_reducible apply State.segDrop_keeps K2
    | with_reducible refine ite_keeps ?_ ?_
    | with_reducible refine ite_fst_keeps ?_ ?_
    | with_reducible apply foldl_fst_keeps
    | with_reducible apply foldl_keeps
    | with_reducible apply K.lit
    | exact Or.inl (by decide)
    | exact Or.inr rfl

theorem State.partResetEnd_keeps (K : Keeps [.free, .out, .regs, .mem, .core, .eng, .smp, .upd, .swm, .cap, .lp, .log, .fab, .host, .wort, .boot, .saf] P) {s : State} (p : Nat) (hs : P s) : P (State.partResetEnd s p) := by
  have K0 : Keeps [.free, .out, .regs, .mem, .core, .eng, .smp, .upd, .swm, .cap, .lp, .log, .fab, .host, .wort, .boot, .saf] P := K.mono rfl
  have K1 : Keeps [.out, .regs, .swm, .host, .wort] P := K.mono rfl
  have K2 : Keeps [.regs] P := K.mono rfl
  have K3 : Keeps [.host] P := K.mono rfl
  have K4 : Keeps [.out, .wort] P := K.mono rfl
  have K5 : Keeps [.out, .regs, .log] P := K.mono rfl
  have K6 : Keeps [.out, .regs] P := K.mono rfl
  unfold State.partResetEnd
  repeat' first
    | with_reducible assumption
    | intro _
    | with_reducible apply State.dieResetEnd_keeps K0
    | with_reducible apply State.setupsClear_keeps K1
    | with_reducible apply State.fset_keeps K2
    | with_reducible apply State.setPart_keeps K3
    | with_reducible apply State.wortRelease_keeps K4
    | with_reducible apply State.resetRec_keeps K5
    | with_reducible apply State.resetOk_keeps K6
    | with_reducible refine ite_keeps ?_ ?_
    | with_reducible refine ite_fst_keeps ?_ ?_
    | with_reducible apply foldl_fst_keeps
    | with_reducible apply foldl_keeps

theorem State.partResetTry_keeps (K : Keeps [.free, .out, .regs, .mem, .core, .eng, .smp, .upd, .swm, .cap, .lp, .log, .fab, .host, .wort, .boot, .saf] P) {s : State} (p : Nat) (hs : P s) : P (State.partResetTry s p) := by
  have K0 : Keeps [.free, .out, .regs, .mem, .core, .eng, .smp, .upd, .swm, .cap, .lp, .log, .fab, .host, .wort, .boot, .saf] P := K.mono rfl
  unfold State.partResetTry
  repeat' first
    | with_reducible assumption
    | intro _
    | with_reducible apply State.partResetEnd_keeps K0
    | with_reducible refine ite_keeps ?_ ?_

theorem State.partReset_keeps (K : Keeps [.out, .regs, .mem, .core, .eng, .smp, .upd, .swm, .cap, .lp, .log, .fab, .host, .wort, .boot] P) {s : State} (p : Nat) (kat : List (Nat × Nat × Nat)) (hs : P s) : P (State.partReset s p kat) := by
  have K0 : Keeps [.out, .regs, .log, .boot] P := K.mono rfl
  have K1 : Keeps [.out, .regs, .mem, .core, .eng, .smp, .upd, .swm, .cap, .lp, .log, .fab, .host, .wort, .boot] P := K.mono rfl
  unfold State.partReset
  repeat' first
    | with_reducible assumption
    | intro _
    | with_reducible apply State.resetGo_keeps K0
    | with_reducible apply State.partResetStart_keeps K1

theorem State.lullSettle_keeps (K : Keeps [.regs] P) {s : State} (p : Nat) (hs : P s) : P (State.lullSettle s p) := by
  have K0 : Keeps [.regs] P := K.mono rfl
  unfold State.lullSettle
  repeat' first
    | with_reducible assumption
    | intro _
    | with_reducible apply State.fset_keeps K0
    | with_reducible refine ite_keeps ?_ ?_

theorem State.banksSettle_keeps (K : Keeps [.free, .out, .regs, .mem, .core, .eng, .upd, .swm, .cap, .lp, .log, .fab, .host, .wort, .boot] P) {s : State} (hs : P s) : P (State.banksSettle s) := by
  have K0 : Keeps [.free, .out, .regs, .mem, .core, .eng, .upd, .swm, .cap, .lp, .log, .fab, .host, .wort, .boot] P := K.mono rfl
  unfold State.banksSettle
  repeat' first
    | with_reducible assumption
    | intro _
    | with_reducible apply State.bankTakeover_keeps K0
    | with_reducible refine ite_keeps ?_ ?_
    | with_reducible refine ite_fst_keeps ?_ ?_
    | split
    | with_reducible apply foldl_fst_keeps
    | with_reducible apply foldl_keeps
    | with_reducible apply K.lit
    | exact Or.inl (by decide)
    | exact Or.inr rfl

theorem State.settle_keeps (K : Keeps [.free, .out, .regs, .mem, .core, .eng, .smp, .upd, .swm, .cap, .lp, .log, .fab, .host, .wort, .boot, .saf] P) {s0 : State} (hs : P s0) : P (State.settle s0) := by
  have K0 : Keeps [.free, .out, .regs, .mem, .core, .eng, .upd, .swm, .cap, .lp, .log, .fab, .host, .wort, .boot] P := K.mono rfl
  have K1 : Keeps [.free, .out, .regs, .mem, .core, .eng, .upd, .swm, .cap, .lp, .log, .fab, .host, .wort, .boot, .saf] P := K.mono rfl
  have K2 : Keeps [.free, .out, .regs, .mem, .core, .eng, .smp, .upd, .swm, .cap, .lp, .log, .fab, .host, .wort, .boot, .saf] P := K.mono rfl
  have K3 : Keeps [.regs] P := K.mono rfl
  unfold State.settle
  repeat' first
    | with_reducible assumption
    | intro _
    | with_reducible apply State.banksSettle_keeps K0
    | with_reducible apply State.takeoverTry_keeps K0
    | with_reducible apply State.clResetTry_keeps K1
    | with_reducible apply State.coreResetTry_keeps K1
    | with_reducible apply State.partResetTry_keeps K2
    | with_reducible apply State.lullSettle_keeps K3
    | with_reducible refine ite_keeps ?_ ?_
    | with_reducible refine ite_fst_keeps ?_ ?_
    | with_reducible apply foldl_fst_keeps
    | with_reducible apply foldl_keeps

/-! LinkOps -/

theorem State.onPort_keeps (K : Keeps [] P) {s : State} (p : Nat) (f : Nat → State) (hs : P s) (hf : ∀ (x0 : Nat), P (f x0)) : P (State.onPort s p f) := by
  unfold State.onPort
  repeat' first
    | with_reducible assumption
    | intro _
    | with_reducible refine ite_keeps ?_ ?_
    | split
    | with_reducible apply hf

theorem State.setPort_keeps (K : Keeps [.regs] P) {s : State} (p : Nat) (st : Nat) (hs : P s) : P (State.setPort s p st) := by
  have K0 : Keeps [.regs] P := K.mono rfl
  unfold State.setPort
  repeat' first
    | with_reducible assumption
    | intro _
    | with_reducible apply State.fset_keeps K0

theorem State.setLsub_keeps (K : Keeps [.regs] P) {s : State} (p : Nat) (v : Nat) (hs : P s) : P (State.setLsub s p v) := by
  have K0 : Keeps [.regs] P := K.mono rfl
  unfold State.setLsub
  repeat' first
    | with_reducible assumption
    | intro _
    | with_reducible apply State.fset_keeps K0

theorem State.sendSlotCtl_keeps (K : Keeps [.out, .fab] P) {s : State} (p : Nat) (cw : Nat) (hs : P s) : P (State.sendSlotCtl s p cw) := by
  have K0 : Keeps [.fab] P := K.mono rfl
  have K1 : Keeps [.out] P := K.mono rfl
  unfold State.sendSlotCtl
  repeat' first
    | with_reducible assumption
    | intro _
    | with_reducible apply State.setLink_keeps K0
    | with_reducible apply State.emit_keeps K1
    | with_reducible apply State.emits_keeps K1

theorem State.ctlRun_keeps (K : Keeps [.out, .fab] P) (a0 : Nat) {a1 : State} (a2 : Nat) (a3 : Nat) (a4 : Bool) (hs : P a1) : P (State.ctlRun a0 a1 a2 a3 a4) := by
  have K0 : Keeps [.fab] P := K.mono rfl
  have K1 : Keeps [.out, .fab] P := K.mono rfl
  induction a0 generalizing a1 a2 a3 a4 with
  | zero => exact hs
  | succ n ih =>
    unfold State.ctlRun
    repeat' first
      | with_reducible assumption
      | with_reducible apply ih
      | intro _
      | with_reducible apply State.setLink_keeps K0
      | with_reducible apply State.sendSlotCtl_keeps K1
      | with_reducible refine ite_keeps ?_ ?_

theorem State.sendCtl_keeps (K : Keeps [.out, .fab] P) {s : State} (p : Nat) (lcmd : Nat) (down : Bool) (hs : P s) : P (State.sendCtl s p lcmd down) := by
  have K0 : Keeps [.out, .fab] P := K.mono rfl
  unfold State.sendCtl
  repeat' first
    | with_reducible assumption
    | intro _
    | with_reducible apply State.ctlRun_keeps K0

theorem State.owe_keeps (K : Keeps [.out, .fab] P) {s : State} (p : Nat) (vc : Nat) (hs : P s) : P (State.owe s p vc) := by
  have K0 : Keeps [.fab] P := K.mono rfl
  have K1 : Keeps [.out, .fab] P := K.mono rfl
  unfold State.owe
  repeat' first
    | with_reducible assumption
    | intro _
    | with_reducible apply State.setLink_keeps K0
    | with_reducible apply State.sendCtl_keeps K1
    | with_reducible refine ite_keeps ?_ ?_

theorem State.sendWire_keeps (K : Keeps [.out, .fab] P) {s : State} (p : Nat) (lseq : Nat) (c : CellW) (hs : P s) : P (State.sendWire s p lseq c) := by
  have K0 : Keeps [.fab] P := K.mono rfl
  have K1 : Keeps [.out] P := K.mono rfl
  unfold State.sendWire
  repeat' first
    | with_reducible assumption
    | intro _
    | with_reducible apply State.setLink_keeps K0
    | with_reducible apply State.emit_keeps K1
    | with_reducible apply State.emits_keeps K1

theorem State.txRaw_keeps (K : Keeps [.out, .fab] P) {s : State} (p : Nat) (vc : Nat) (c : CellW) (hs : P s) : P (State.txRaw s p vc c) := by
  have K0 : Keeps [.fab] P := K.mono rfl
  have K1 : Keeps [.out, .fab] P := K.mono rfl
  unfold State.txRaw
  repeat' first
    | with_reducible assumption
    | intro _
    | with_reducible apply State.setLink_keeps K0
    | with_reducible apply State.sendWire_keeps K1

theorem State.txCell_keeps (K : Keeps [.out, .fab] P) {s : State} (p : Nat) (inP : Nat) (vc : Nat) (c : CellW) (hs : P s) : P (State.txCell s p inP vc c) := by
  have K0 : Keeps [.out, .fab] P := K.mono rfl
  unfold State.txCell
  repeat' first
    | with_reducible assumption
    | intro _
    | with_reducible apply State.txRaw_keeps K0
    | with_reducible apply State.owe_keeps K0

theorem State.linkPump_keeps (K : Keeps [.out, .fab] P) (a0 : Nat) {a1 : State} (a2 : Nat) (hs : P a1) : P (State.linkPump a0 a1 a2) := by
  have K0 : Keeps [.fab] P := K.mono rfl
  have K1 : Keeps [.out, .fab] P := K.mono rfl
  induction a0 generalizing a1 a2 with
  | zero => exact hs
  | succ n ih =>
    unfold State.linkPump
    repeat' first
      | with_reducible assumption
      | with_reducible apply ih
      | intro _
      | with_reducible apply State.setLink_keeps K0
      | with_reducible apply State.txCell_keeps K1
      | with_reducible refine ite_keeps ?_ ?_
      | split

theorem State.linkRun_keeps (K : Keeps [.out, .fab] P) {s : State} (p : Nat) (hs : P s) : P (State.linkRun s p) := by
  have K0 : Keeps [.out, .fab] P := K.mono rfl
  unfold State.linkRun
  repeat' first
    | with_reducible assumption
    | intro _
    | with_reducible apply State.linkPump_keeps K0

theorem State.enqueue_keeps (K : Keeps [.out, .fab] P) {s : State} (p : Nat) (inP : Nat) (vc : Nat) (c : CellW) (hs : P s) : P (State.enqueue s p inP vc c) := by
  have K0 : Keeps [.fab] P := K.mono rfl
  have K1 : Keeps [.out, .fab] P := K.mono rfl
  unfold State.enqueue
  repeat' first
    | with_reducible assumption
    | intro _
    | with_reducible apply State.setLink_keeps K0
    | with_reducible apply State.linkRun_keeps K1

theorem State.sendMgmt_keeps (K : Keeps [.out, .fab] P) {s : State} (p : Nat) (c : CellW) (hs : P s) : P (State.sendMgmt s p c) := by
  have K0 : Keeps [.out, .fab] P := K.mono rfl
  unfold State.sendMgmt
  repeat' first
    | with_reducible assumption
    | intro _
    | with_reducible apply State.enqueue_keeps K0

theorem State.replayFrom_keeps (K : Keeps [.out, .fab] P) {s : State} (p : Nat) (i : Nat) (hs : P s) : P (State.replayFrom s p i) := by
  have K0 : Keeps [.out, .fab] P := K.mono rfl
  unfold State.replayFrom
  repeat' first
    | with_reducible assumption
    | intro _
    | with_reducible apply State.sendWire_keeps K0
    | with_reducible refine ite_keeps ?_ ?_
    | with_reducible refine ite_fst_keeps ?_ ?_
    | with_reducible apply foldl_fst_keeps
    | with_reducible apply foldl_keeps

theorem State.dropNoroute_keeps (K : Keeps [.regs, .fab] P) {s : State} (hs : P s) : P (State.dropNoroute s) := by
  have K0 : Keeps [.regs] P := K.mono rfl
  have K1 : Keeps [.fab] P := K.mono rfl
  unfold State.dropNoroute
  repeat' first
    | with_reducible assumption
    | intro _
    | with_reducible apply State.finc_keeps K0
    | with_reducible apply State.noteDrop_keeps K1

theorem State.deliver_keeps (K : Keeps [.out, .regs, .log, .fab] P) {s : State} (inP : Nat) (c : CellW) (dest : RouteTo) (hs : P s) : P (State.deliver s inP c dest) := by
  have K0 : Keeps [.out, .fab] P := K.mono rfl
  have K1 : Keeps [.regs] P := K.mono rfl
  have K2 : Keeps [.out] P := K.mono rfl
  have K3 : Keeps [.regs, .fab] P := K.mono rfl
  have K4 : Keeps [.out, .regs, .log, .fab] P := K.mono rfl
  have K5 : Keeps [.fab] P := K.mono rfl
  unfold State.deliver
  repeat' first
    | with_reducible assumption
    | intro _
    | with_reducible apply State.owe_keeps K0
    | with_reducible apply State.finc_keeps K1
    | with_reducible apply State.nackCell_keeps K2
    | with_reducible apply State.dropNoroute_keeps K3
    | with_reducible apply State.fabRec_keeps K4
    | with_reducible apply State.emit_keeps K2
    | with_reducible apply State.absorb_keeps K5
    | with_reducible apply State.dropJob_keeps K4
    | with_reducible apply State.enqueue_keeps K0
    | with_reducible refine ite_keeps ?_ ?_
    | split

theorem State.mgmtTake_keeps (K : Keeps [.out, .swm, .fab] P) {s : State} (inP : Nat) (c : CellW) (hs : P s) : P (State.mgmtTake s inP c) := by
  have K0 : Keeps [.out, .fab] P := K.mono rfl
  have K1 : Keeps [.out, .swm] P := K.mono rfl
  unfold State.mgmtTake
  repeat' first
    | with_reducible assumption
    | intro _
    | with_reducible apply State.owe_keeps K0
    | with_reducible apply State.queenTake_keeps K1
    | with_reducible refine ite_keeps ?_ ?_
    | with_reducible apply K.lit
    | exact Or.inl (by decide)
    | exact Or.inr rfl

theorem State.mgmtDone_keeps (K : Keeps [.fab] P) {s : State} (p : Nat) (type : Nat) (all : Bool) (hs : P s) : P (State.mgmtDone s p type all) := by
  unfold State.mgmtDone
  repeat' first
    | with_reducible assumption
    | intro _
    | with_reducible refine ite_keeps ?_ ?_
    | split
    | with_reducible apply K.lit
    | exact Or.inl (by decide)
    | exact Or.inr rfl

theorem State.forward_keeps (K : Keeps [.out, .regs, .swm, .log, .fab] P) {s : State} (inP : Nat) (c0 : CellW) (hs : P s) : P (State.forward s inP c0) := by
  have K0 : Keeps [.out, .fab] P := K.mono rfl
  have K1 : Keeps [.regs] P := K.mono rfl
  have K2 : Keeps [.out, .regs, .log, .fab] P := K.mono rfl
  have K3 : Keeps [.out, .swm, .fab] P := K.mono rfl
  unfold State.forward
  repeat' first
    | with_reducible assumption
    | intro _
    | with_reducible apply State.owe_keeps K0
    | with_reducible apply State.finc_keeps K1
    | with_reducible apply State.dropJob_keeps K2
    | with_reducible apply State.mgmtTake_keeps K3
    | with_reducible apply State.deliver_keeps K2
    | with_reducible refine ite_keeps ?_ ?_

theorem State.mapEntries_keeps (K : Keeps [.fab] P) {s : State} (b : Nat) (p : Nat) (f : Nat → Nat) (hs : P s) : P (State.mapEntries s b p f) := by
  unfold State.mapEntries
  repeat' first
    | with_reducible assumption
    | intro _
    | with_reducible refine ite_keeps ?_ ?_
    | with_reducible apply K.lit
    | exact Or.inl (by decide)
    | exact Or.inr rfl

theorem State.steer_keeps (K : Keeps [.regs, .fab] P) {s : State} (p : Nat) (hs : P s) : P (State.steer s p) := by
  have K0 : Keeps [.fab] P := K.mono rfl
  have K1 : Keeps [.regs] P := K.mono rfl
  unfold State.steer
  repeat' first
    | with_reducible assumption
    | intro _
    | with_reducible apply State.mapEntries_keeps K0
    | with_reducible apply State.altBit_keeps K1

theorem State.unsteer_keeps (K : Keeps [.regs, .fab] P) {s : State} (p : Nat) (hs : P s) : P (State.unsteer s p) := by
  have K0 : Keeps [.fab] P := K.mono rfl
  have K1 : Keeps [.regs] P := K.mono rfl
  unfold State.unsteer
  repeat' first
    | with_reducible assumption
    | intro _
    | with_reducible apply State.mapEntries_keeps K0
    | with_reducible apply State.altBit_keeps K1

theorem State.resteer_keeps (K : Keeps [.out, .regs, .log, .fab] P) {s : State} (p : Nat) (hs : P s) : P (State.resteer s p) := by
  have K0 : Keeps [.fab] P := K.mono rfl
  have K1 : Keeps [.out, .fab] P := K.mono rfl
  have K2 : Keeps [.regs, .fab] P := K.mono rfl
  have K3 : Keeps [.out, .regs, .log, .fab] P := K.mono rfl
  unfold State.resteer
  repeat' first
    | with_reducible assumption
    | intro _
    | with_reducible apply State.setLink_keeps K0
    | with_reducible apply State.owe_keeps K1
    | with_reducible apply State.dropNoroute_keeps K2
    | with_reducible apply State.deliver_keeps K3
    | with_reducible apply State.fabRec_keeps K3
    | with_reducible refine ite_keeps ?_ ?_
    | with_reducible refine ite_fst_keeps ?_ ?_
    | split
    | with_reducible apply foldl_fst_keeps
    | with_reducible apply foldl_keeps

theorem State.setTopo_keeps (K : Keeps [.out, .regs, .log] P) {s : State} (p : Nat) (code : Nat) (peer : Nat) (hs : P s) : P (State.setTopo s p code peer) := by
  have K0 : Keeps [.regs] P := K.mono rfl
  have K1 : Keeps [.out, .regs, .log] P := K.mono rfl
  have K2 : Keeps [.out, .regs] P := K.mono rfl
  unfold State.setTopo
  repeat' first
    | with_reducible assumption
    | intro _
    | with_reducible apply State.fset_keeps K0
    | with_reducible apply State.hiveRec_keeps K1
    | with_reducible apply State.isum_keeps K2
    | with_reducible refine ite_keeps ?_ ?_

theorem State.tryReady_keeps (K : Keeps [.out, .regs, .log, .host] P) {s : State} (hs : P s) : P (State.tryReady s) := by
  have K0 : Keeps [.regs] P := K.mono rfl
  have K1 : Keeps [.out, .regs] P := K.mono rfl
  have K2 : Keeps [.out, .regs, .log] P := K.mono rfl
  have K3 : Keeps [.out, .regs, .log, .host] P := K.mono rfl
  unfold State.tryReady
  repeat' first
    | with_reducible assumption
    | intro _
    | with_reducible apply State.fset_keeps K0
    | with_reducible apply State.isum_keeps K1
    | with_reducible apply State.hiveRec_keeps K2
    | with_reducible apply State.ringsReady_keeps K3
    | with_reducible refine ite_keeps ?_ ?_

theorem State.sendRtx_keeps (K : Keeps [.out, .fab] P) {s : State} (b : Nat) (p : Nat) (hs : P s) : P (State.sendRtx s b p) := by
  have K0 : Keeps [.out, .fab] P := K.mono rfl
  unfold State.sendRtx
  repeat' first
    | with_reducible assumption
    | intro _
    | with_reducible apply State.sendMgmt_keeps K0
    | with_reducible refine ite_keeps ?_ ?_
    | with_reducible refine ite_fst_keeps ?_ ?_
    | with_reducible apply foldl_fst_keeps
    | with_reducible apply foldl_keeps

theorem State.portOpen_keeps (K : Keeps [.out, .regs, .mem, .core, .eng, .upd, .swm, .cap, .lp, .log, .fab, .host, .wort, .boot] P) {s : State} (p : Nat) (hs : P s) : P (State.portOpen s p) := by
  have K0 : Keeps [.out, .regs, .mem, .core, .eng, .upd, .swm, .cap, .lp, .log, .fab, .host, .wort, .boot] P := K.mono rfl
  unfold State.portOpen
  repeat' first
    | with_reducible assumption
    | intro _
    | with_reducible apply State.wortResume_keeps K0
    | with_reducible apply State.hostRun_keeps K0
    | with_reducible refine ite_keeps ?_ ?_

theorem State.linkUp_keeps (K : Keeps [.out, .regs, .mem, .core, .eng, .upd, .swm, .cap, .lp, .log, .fab, .host, .wort, .boot] P) {s : State} (p : Nat) (hs : P s) : P (State.linkUp s p) := by
  have K0 : Keeps [.regs] P := K.mono rfl
  have K1 : Keeps [.fab] P := K.mono rfl
  have K2 : Keeps [.out, .regs, .log, .fab] P := K.mono rfl
  have K3 : Keeps [.out, .fab] P := K.mono rfl
  have K4 : Keeps [.out, .regs, .mem, .core, .eng, .upd, .swm, .cap, .lp, .log, .fab, .host, .wort, .boot] P := K.mono rfl
  unfold State.linkUp
  repeat' first
    | with_reducible assumption
    | intro _
    | with_reducible apply State.setPort_keeps K0
    | with_reducible apply State.setLink_keeps K1
    | with_reducible apply State.fset_keeps K0
    | with_reducible apply State.setLsub_keeps K0
    | with_reducible apply State.fabRec_keeps K2
    | with_reducible apply State.linkRun_keeps K3
    | with_reducible apply State.portOpen_keeps K4

theorem State.tryUp_keeps (K : Keeps [.out, .regs, .mem, .core, .eng, .upd, .swm, .cap, .lp, .log, .fab, .host, .wort, .boot] P) {s : State} (p : Nat) (hs : P s) : P (State.tryUp s p) := by
  have K0 : Keeps [.out, .regs, .mem, .core, .eng, .upd, .swm, .cap, .lp, .log, .fab, .host, .wort, .boot] P := K.mono rfl
  unfold State.tryUp
  repeat' first
    | with_reducible assumption
    | intro _
    | with_reducible apply State.linkUp_keeps K0
    | with_reducible refine ite_keeps ?_ ?_

theorem State.linkDown_keeps (K : Keeps [.free, .out, .regs, .swm, .log, .fab, .host] P) {s : State} (p : Nat) (hs : P s) : P (State.linkDown s p) := by
  have K0 : Keeps [.fab] P := K.mono rfl
  have K1 : Keeps [.regs] P := K.mono rfl
  have K2 : Keeps [.out, .regs, .log, .fab] P := K.mono rfl
  have K3 : Keeps [.regs, .fab] P := K.mono rfl
  have K4 : Keeps [.out, .regs, .log] P := K.mono rfl
  have K5 : Keeps [.out, .swm] P := K.mono rfl
  have K6 : Keeps [.free, .out, .regs, .log, .host] P := K.mono rfl
  unfold State.linkDown
  repeat' first
    | with_reducible assumption
    | intro _
    | with_reducible apply State.setLink_keeps K0
    | with_reducible apply State.finc_keeps K1
    | with_reducible apply State.noteDrop_keeps K0
    | with_reducible apply State.setPort_keeps K1
    | with_reducible apply State.fset_keeps K1
    | with_reducible apply State.setLsub_keeps K1
    | with_reducible apply State.fabRec_keeps K2
    | with_reducible apply State.steer_keeps K3
    | with_reducible apply State.resteer_keeps K2
    | with_reducible apply State.setTopo_keeps K4
    | with_reducible apply State.portEdge_keeps K5
    | with_reducible apply State.reevaluate_keeps K6
    | with_reducible refine ite_keeps ?_ ?_
    | with_reducible apply K.lit
    | exact Or.inl (by decide)
    | exact Or.inr rfl

theorem State.trainStart_keeps (K : Keeps [.out, .regs, .log, .fab] P) {s : State} (p : Nat) (retained : Bool) (hs : P s) : P (State.trainStart s p retained) := by
  have K0 : Keeps [.fab] P := K.mono rfl
  have K1 : Keeps [.regs] P := K.mono rfl
  have K2 : Keeps [.out, .regs, .log] P := K.mono rfl
  unfold State.trainStart
  repeat' first
    | with_reducible assumption
    | intro _
    | with_reducible apply State.setLink_keeps K0
    | with_reducible apply State.setPort_keeps K1
    | with_reducible apply State.fset_keeps K1
    | with_reducible apply State.setTopo_keeps K2
    | with_reducible refine ite_keeps ?_ ?_

theorem State.sendIdentity_keeps (K : Keeps [.out, .fab] P) {s : State} (p : Nat) (hs : P s) : P (State.sendIdentity s p) := by
  have K0 : Keeps [.out, .fab] P := K.mono rfl
  unfold State.sendIdentity
  repeat' first
    | with_reducible assumption
    | intro _
    | with_reducible apply State.sendMgmt_keeps K0

theorem State.linkHeld_keeps (K : Keeps [.out, .regs, .mem, .core, .eng, .upd, .swm, .cap, .lp, .log, .fab, .host, .wort, .boot] P) {s : State} (p : Nat) (hs : P s) : P (State.linkHeld s p) := by
  have K0 : Keeps [.fab] P := K.mono rfl
  have K1 : Keeps [.regs] P := K.mono rfl
  have K2 : Keeps [.out, .fab] P := K.mono rfl
  have K3 : Keeps [.out, .regs, .mem, .core, .eng, .upd, .swm, .cap, .lp, .log, .fab, .host, .wort, .boot] P := K.mono rfl
  unfold State.linkHeld
  repeat' first
    | with_reducible assumption
    | intro _
    | with_reducible apply State.setLink_keeps K0
    | with_reducible apply State.setPort_keeps K1
    | with_reducible apply State.fset_keeps K1
    | with_reducible apply State.sendCtl_keeps K2
    | with_reducible apply State.sendRtx_keeps K2
    | with_reducible apply State.sendIdentity_keeps K2
    | with_reducible apply State.tryUp_keeps K3
    | with_reducible refine ite_keeps ?_ ?_
    | with_reducible refine ite_fst_keeps ?_ ?_
    | with_reducible apply foldl_fst_keeps
    | with_reducible apply foldl_keeps

theorem State.adoptGen_keeps (K : Keeps [.out, .regs, .log] P) {s : State} (hs : P s) : P (State.adoptGen s) := by
  unfold State.adoptGen
  split
  · exact hs
  · extract_lets ps
    clear_value ps
    split
    · exact hs
    · extract_lets g s1
      have h1 : P s1 := State.fset_keeps (K.mono rfl) _ _ hs
      split
      · exact State.hiveRec_keeps (K.mono rfl) _ _ _ _ h1
      · exact h1

theorem State.linkResume_keeps (K : Keeps [.out, .regs, .mem, .core, .eng, .upd, .swm, .cap, .lp, .log, .fab, .host, .wort, .boot] P) {s : State} (p : Nat) (hs : P s) : P (State.linkResume s p) := by
  have K0 : Keeps [.regs] P := K.mono rfl
  have K1 : Keeps [.out, .fab] P := K.mono rfl
  have K2 : Keeps [.out, .regs, .mem, .core, .eng, .upd, .swm, .cap, .lp, .log, .fab, .host, .wort, .boot] P := K.mono rfl
  unfold State.linkResume
  repeat' first
    | with_reducible assumption
    | intro _
    | with_reducible apply State.setPort_keeps K0
    | with_reducible apply State.replayFrom_keeps K1
    | with_reducible apply State.linkRun_keeps K1
    | with_reducible apply State.portOpen_keeps K2

theorem State.dlanePerm_keeps (K : Keeps [.free, .out, .regs, .mem, .core, .eng, .upd, .swm, .cap, .lp, .log, .fab, .opt, .host, .wort, .boot] P) {s : State} (die : Nat) (dir : Nat) (lane : Nat) (hs : P s) : P (State.dlanePerm s die dir lane) := by
  have K0 : Keeps [.free, .out, .regs, .swm, .log, .fab, .host] P := K.mono rfl
  have K1 : Keeps [.out, .regs, .log] P := K.mono rfl
  have K2 : Keeps [.out, .regs, .mem, .core, .eng, .upd, .swm, .cap, .lp, .log, .fab, .host, .wort, .boot] P := K.mono rfl
  have K3 : Keeps [.free, .out, .regs, .mem, .core, .eng, .upd, .swm, .cap, .lp, .log, .fab, .host, .wort, .boot] P := K.mono rfl
  unfold State.dlanePerm
  repeat' first
    | with_reducible assumption
    | intro _
    | with_reducible apply State.linkDown_keeps K0
    | with_reducible apply State.hiveRec_keeps K1
    | with_reducible apply State.voteFailed_keeps K2
    | with_reducible apply State.dieFailed_keeps K3
    | with_reducible refine ite_keeps ?_ ?_
    | with_reducible apply K.lit
    | exact Or.inl (by decide)
    | exact Or.inr rfl

theorem State.ucwAt_keeps (K : Keeps [.free, .out, .regs, .mem, .core, .eng, .upd, .swm, .cap, .lp, .log, .fab, .opt, .host, .wort, .boot] P) {s : State} (die : Nat) (l : Nat) (hs : P s) : P (State.ucwAt s die l) := by
  have K0 : Keeps [.free, .out, .regs, .mem, .core, .eng, .upd, .swm, .cap, .lp, .log, .fab, .opt, .host, .wort, .boot] P := K.mono rfl
  unfold State.ucwAt
  repeat' first
    | with_reducible assumption
    | intro _
    | with_reducible apply State.dlanePerm_keeps K0
    | with_reducible refine ite_keeps ?_ ?_
    | split
    | with_reducible apply K.lit
    | exact Or.inl (by decide)
    | exact Or.inr rfl

theorem State.fecCount_keeps (K : Keeps [.free, .out, .regs, .mem, .core, .eng, .upd, .swm, .cap, .lp, .log, .fab, .opt, .host, .wort, .boot] P) {s : State} (p : Nat) (x : LaneRx) (hs : P s) : P (State.fecCount s p x) := by
  have K0 : Keeps [.regs] P := K.mono rfl
  have K1 : Keeps [.free, .out, .regs, .mem, .core, .eng, .upd, .swm, .cap, .lp, .log, .fab, .opt, .host, .wort, .boot] P := K.mono rfl
  unfold State.fecCount
  repeat' first
    | with_reducible assumption
    | intro _
    | with_reducible apply State.finc_keeps K0
    | with_reducible apply State.ucwAt_keeps K1
    | with_reducible refine ite_keeps ?_ ?_

/-! LinkCmds -/

theorem execCellForward_keeps (K : Keeps [.out, .regs, .swm, .log, .fab] P) (inPort : RouterPort) (cell : CellW) {s : State} (hs : P s) : ∃ t, execCellForward inPort cell s = .next t ∧ P t := by
  have K0 : Keeps [] P := K.mono rfl
  have K1 : Keeps [.out, .regs, .swm, .log, .fab] P := K.mono rfl
  refine ⟨_, rfl, ?_⟩
  repeat' first
    | with_reducible assumption
    | intro _
    | with_reducible apply State.onPort_keeps K0
    | with_reducible apply State.forward_keeps K1
    | with_reducible refine ite_keeps ?_ ?_

theorem State.linkCheck_keeps (K : Keeps [.out, .fab] P) {s : State} (p : Nat) (tag : BitVec 16) (c : CellW) (whole : Bool) (hs : P s) : P (State.linkCheck s p tag c whole) := by
  have K0 : Keeps [.fab] P := K.mono rfl
  have K1 : Keeps [.out, .fab] P := K.mono rfl
  unfold State.linkCheck
  repeat' first
    | with_reducible assumption
    | intro _
    | with_reducible apply State.setLink_keeps K0
    | with_reducible apply State.owe_keeps K1
    | with_reducible apply State.sendCtl_keeps K1
    | with_reducible refine ite_keeps ?_ ?_

theorem State.linkCell_keeps (K : Keeps [.free, .out, .regs, .mem, .core, .eng, .upd, .swm, .cap, .lp, .log, .fab, .opt, .host, .wort, .boot] P) {s : State} (p : Nat) (tag : BitVec 16) (c : CellW) (lanes : List LaneRx) (hs : P s) : P (State.linkCell s p tag c lanes) := by
  have K0 : Keeps [.free, .out, .regs, .mem, .core, .eng, .upd, .swm, .cap, .lp, .log, .fab, .opt, .host, .wort, .boot] P := K.mono rfl
  have K1 : Keeps [.out, .fab] P := K.mono rfl
  unfold State.linkCell
  repeat' first
    | with_reducible assumption
    | intro _
    | with_reducible apply State.fecCount_keeps K0
    | with_reducible apply State.linkCheck_keeps K1
    | with_reducible refine ite_keeps ?_ ?_
    | with_reducible refine ite_fst_keeps ?_ ?_
    | with_reducible apply foldl_fst_keeps
    | with_reducible apply foldl_keeps

theorem execLinkCellReceive_keeps (K : Keeps [.free, .out, .regs, .mem, .core, .eng, .upd, .swm, .cap, .lp, .log, .fab, .opt, .host, .wort, .boot] P) (port : LinkPort) (tag : BitVec 16) (cell : CellW) (lanes : List LaneRx) {s : State} (hs : P s) : ∃ t, execLinkCellReceive port tag cell s lanes = .next t ∧ P t := by
  have K0 : Keeps [] P := K.mono rfl
  have K1 : Keeps [.free, .out, .regs, .mem, .core, .eng, .upd, .swm, .cap, .lp, .log, .fab, .opt, .host, .wort, .boot] P := K.mono rfl
  refine ⟨_, rfl, ?_⟩
  repeat' first
    | with_reducible assumption
    | intro _
    | with_reducible apply State.onPort_keeps K0
    | with_reducible apply State.linkCell_keeps K1
    | with_reducible refine ite_keeps ?_ ?_

theorem State.wakeUp_keeps (K : Keeps [.out, .regs, .fab] P) {s : State} (p : Nat) (hs : P s) : P (State.wakeUp s p) := by
  have K0 : Keeps [.fab] P := K.mono rfl
  have K1 : Keeps [.regs] P := K.mono rfl
  have K2 : Keeps [.out] P := K.mono rfl
  unfold State.wakeUp
  repeat' first
    | with_reducible assumption
    | intro _
    | with_reducible apply State.setLink_keeps K0
    | with_reducible apply State.setLsub_keeps K1
    | with_reducible apply State.emit_keeps K2

theorem State.lullEnter_keeps (K : Keeps [.out, .regs, .fab] P) {s : State} (p : Nat) (hs : P s) : P (State.lullEnter s p) := by
  have K0 : Keeps [.fab] P := K.mono rfl
  have K1 : Keeps [.regs] P := K.mono rfl
  have K2 : Keeps [.out, .regs, .fab] P := K.mono rfl
  unfold State.lullEnter
  repeat' first
    | with_reducible assumption
    | intro _
    | with_reducible apply State.setLink_keeps K0
    | with_reducible apply State.setPort_keeps K1
    | with_reducible apply State.setLsub_keeps K1
    | with_reducible apply State.wakeUp_keeps K2
    | with_reducible refine ite_keeps ?_ ?_

theorem State.portDisable_keeps (K : Keeps [.free, .out, .regs, .swm, .log, .fab, .host] P) {s : State} (p : Nat) (hs : P s) : P (State.portDisable s p) := by
  have K0 : Keeps [.out, .fab] P := K.mono rfl
  have K1 : Keeps [.free, .out, .regs, .swm, .log, .fab, .host] P := K.mono rfl
  have K2 : Keeps [.regs] P := K.mono rfl
  have K3 : Keeps [.free, .out, .regs, .log, .host] P := K.mono rfl
  unfold State.portDisable
  repeat' first
    | with_reducible assumption
    | intro _
    | with_reducible apply State.sendCtl_keeps K0
    | with_reducible apply State.linkDown_keeps K1
    | with_reducible apply State.setPort_keeps K2
    | with_reducible apply State.fset_keeps K2
    | with_reducible apply State.reevaluate_keeps K3
    | with_reducible refine ite_keeps ?_ ?_

theorem State.lullAwake_keeps (K : Keeps [.free, .out, .regs, .swm, .log, .fab, .host] P) {s : State} (p : Nat) (hs : P s) : P (State.lullAwake s p) := by
  have K0 : Keeps [.regs] P := K.mono rfl
  have K1 : Keeps [.fab] P := K.mono rfl
  have K2 : Keeps [.out, .fab] P := K.mono rfl
  have K3 : Keeps [.free, .out, .regs, .swm, .log, .fab, .host] P := K.mono rfl
  unfold State.lullAwake
  repeat' first
    | with_reducible assumption
    | intro _
    | with_reducible apply State.setPort_keeps K0
    | with_reducible apply State.setLsub_keeps K0
    | with_reducible apply State.setLink_keeps K1
    | with_reducible apply State.sendCtl_keeps K2
    | with_reducible apply State.linkRun_keeps K2
    | with_reducible apply State.portDisable_keeps K3
    | with_reducible refine ite_keeps ?_ ?_

theorem State.lullCmd_keeps (K : Keeps [.free, .out, .regs, .swm, .log, .fab, .host] P) {s : State} (p : Nat) (lcmd : Nat) (tok : Nat) (hs : P s) : P (State.lullCmd s p lcmd tok) := by
  have K0 : Keeps [.fab] P := K.mono rfl
  have K1 : Keeps [.regs] P := K.mono rfl
  have K2 : Keeps [.out, .fab] P := K.mono rfl
  have K3 : Keeps [.out, .regs, .fab] P := K.mono rfl
  have K4 : Keeps [.free, .out, .regs, .swm, .log, .fab, .host] P := K.mono rfl
  unfold State.lullCmd
  repeat' first
    | with_reducible assumption
    | intro _
    | with_reducible apply State.setLink_keeps K0
    | with_reducible apply State.setLsub_keeps K1
    | with_reducible apply State.sendCtl_keeps K2
    | with_reducible apply State.linkRun_keeps K2
    | with_reducible apply State.lullEnter_keeps K3
    | with_reducible apply State.lullAwake_keeps K4
    | with_reducible refine ite_keeps ?_ ?_

theorem State.ctlCell_keeps (K : Keeps [.free, .out, .regs, .swm, .log, .fab, .host] P) {s : State} (p : Nat) (cw : BitVec 128) (hs : P s) : P (State.ctlCell s p cw) := by
  have K0 : Keeps [.free, .out, .regs, .swm, .log, .fab, .host] P := K.mono rfl
  have K1 : Keeps [.fab] P := K.mono rfl
  have K2 : Keeps [.regs] P := K.mono rfl
  have K3 : Keeps [.out, .fab] P := K.mono rfl
  unfold State.ctlCell
  repeat' first
    | with_reducible assumption
    | intro _
    | with_reducible apply State.linkDown_keeps K0
    | with_reducible apply State.setLink_keeps K1
    | with_reducible apply State.finc_keeps K2
    | with_reducible apply State.replayFrom_keeps K3
    | with_reducible apply State.linkRun_keeps K3
    | with_reducible apply State.lullCmd_keeps K0
    | with_reducible refine ite_keeps ?_ ?_
    | split

theorem State.slotIn_keeps (K : Keeps [.free, .out, .regs, .swm, .log, .fab, .host] P) {s : State} (p : Nat) (slot : BitVec 132) (hs : P s) : P (State.slotIn s p slot) := by
  have K0 : Keeps [.free, .out, .regs, .swm, .log, .fab, .host] P := K.mono rfl
  unfold State.slotIn
  repeat' first
    | with_reducible assumption
    | intro _
    | with_reducible apply State.ctlCell_keeps K0
    | with_reducible refine ite_keeps ?_ ?_

theorem execControlWordReceive_keeps (K : Keeps [.free, .out, .regs, .swm, .log, .fab, .host] P) (port : LinkPort) (slot : BitVec 132) {s : State} (hs : P s) : ∃ t, execControlWordReceive port slot s = .next t ∧ P t := by
  have K0 : Keeps [] P := K.mono rfl
  have K1 : Keeps [.free, .out, .regs, .swm, .log, .fab, .host] P := K.mono rfl
  refine ⟨_, rfl, ?_⟩
  repeat' first
    | with_reducible assumption
    | intro _
    | with_reducible apply State.onPort_keeps K0
    | with_reducible apply State.slotIn_keeps K1
    | with_reducible refine ite_keeps ?_ ?_

theorem execMgmtCell_keeps (K : Keeps [.out, .regs, .swm, .fab] P) (port : RouterPort) (cell : CellW) {s : State} (hs : P s) : ∃ t, execMgmtCell port cell s = .next t ∧ P t := by
  have K0 : Keeps [.regs] P := K.mono rfl
  have K1 : Keeps [.out, .fab] P := K.mono rfl
  have K2 : Keeps [.out, .swm, .fab] P := K.mono rfl
  have K3 : Keeps [] P := K.mono rfl
  refine ⟨_, rfl, ?_⟩
  repeat' first
    | with_reducible assumption
    | intro _
    | with_reducible apply State.finc_keeps K0
    | with_reducible apply State.owe_keeps K1
    | with_reducible apply State.mgmtTake_keeps K2
    | with_reducible apply State.onPort_keeps K3
    | with_reducible refine ite_keeps ?_ ?_

theorem State.ttlDrop_keeps (K : Keeps [.out, .regs, .log, .fab] P) {s : State} (p : Nat) (hs : P s) : P (State.ttlDrop s p) := by
  unfold State.ttlDrop
  extract_lets r gone
  have hgone : ∀ y, gone = some y → P y := by
    intro y e
    simp only [gone] at e
    split at e
    · cases e
      exact State.setLink_keeps (K.mono rfl) _ _ hs
    · cases e
      exact State.owe_keeps (K.mono rfl) _ _ (State.setLink_keeps (K.mono rfl) _ _ hs)
    · cases e
  clear_value gone
  split
  · exact hs
  · have h1 := State.noteDrop_keeps (K.mono rfl) 0x8404 1 (State.finc_keeps (K.mono rfl) RF.FAB_DROP1_TTL 1 (hgone _ rfl))
    exact State.paced_keeps (K.mono rfl) _ _ _ h1 fun x h => State.fabRec_keeps (K.mono rfl) _ _ _ _ _ _ h

theorem execCellTtlDrop_keeps (K : Keeps [.out, .regs, .log, .fab] P) (port : RouterPort) {s : State} (hs : P s) : ∃ t, execCellTtlDrop port s = .next t ∧ P t := by
  have K0 : Keeps [] P := K.mono rfl
  have K1 : Keeps [.out, .regs, .log, .fab] P := K.mono rfl
  refine ⟨_, rfl, ?_⟩
  repeat' first
    | with_reducible assumption
    | intro _
    | with_reducible apply State.onPort_keeps K0
    | with_reducible apply State.ttlDrop_keeps K1
    | with_reducible refine ite_keeps ?_ ?_

/-! OpticCmds -/

theorem execIdentitySend_keeps (K : Keeps [.out, .fab] P) (port : ExtPort) {s : State} (hs : P s) : ∃ t, execIdentitySend port s = .next t ∧ P t := by
  have K0 : Keeps [] P := K.mono rfl
  have K1 : Keeps [.out, .fab] P := K.mono rfl
  refine ⟨_, rfl, ?_⟩
  repeat' first
    | with_reducible assumption
    | intro _
    | with_reducible apply State.onPort_keeps K0
    | with_reducible apply State.sendIdentity_keeps K1
    | with_reducible refine ite_keeps ?_ ?_

theorem execIdentityReceive_keeps (K : Keeps [.out, .regs, .mem, .core, .eng, .upd, .swm, .cap, .lp, .log, .fab, .host, .wort, .boot] P) (port : ExtPort) (msg : BitVec 192) {s : State} (hs : P s) : ∃ t, execIdentityReceive port msg s = .next t ∧ P t := by
  have K0 : Keeps [] P := K.mono rfl
  have K1 : Keeps [.fab] P := K.mono rfl
  have K2 : Keeps [.out, .regs, .log] P := K.mono rfl
  have K3 : Keeps [.out, .regs, .mem, .core, .eng, .upd, .swm, .cap, .lp, .log, .fab, .host, .wort, .boot] P := K.mono rfl
  have K4 : Keeps [.out, .regs, .log, .host] P := K.mono rfl
  refine ⟨_, rfl, ?_⟩
  repeat' first
    | with_reducible assumption
    | intro _
    | with_reducible apply State.onPort_keeps K0
    | with_reducible apply State.mgmtDone_keeps K1
    | with_reducible apply State.setLink_keeps K1
    | with_reducible apply State.setTopo_keeps K2
    | with_reducible apply State.adoptGen_keeps K2
    | with_reducible apply State.tryUp_keeps K3
    | with_reducible apply State.tryReady_keeps K4
    | with_reducible refine ite_keeps ?_ ?_

theorem State.signal_keeps (K : Keeps [.out, .regs, .log, .fab] P) {s : State} (p : Nat) (hs : P s) : P (State.signal s p) := by
  have K0 : Keeps [.regs] P := K.mono rfl
  have K1 : Keeps [.out, .regs, .log, .fab] P := K.mono rfl
  unfold State.signal
  repeat' first
    | with_reducible assumption
    | intro _
    | with_reducible apply State.fset_keeps K0
    | with_reducible apply State.fsetBit_keeps K0
    | with_reducible apply State.trainStart_keeps K1
    | with_reducible refine ite_keeps ?_ ?_

theorem execPortSignal_keeps (K : Keeps [.out, .regs, .log, .fab] P) (port : LinkPort) {s : State} (hs : P s) : ∃ t, execPortSignal port s = .next t ∧ P t := by
  have K0 : Keeps [] P := K.mono rfl
  have K1 : Keeps [.out, .regs, .log, .fab] P := K.mono rfl
  refine ⟨_, rfl, ?_⟩
  repeat' first
    | with_reducible assumption
    | intro _
    | with_reducible apply State.onPort_keeps K0
    | with_reducible apply State.signal_keeps K1
    | with_reducible refine ite_keeps ?_ ?_

theorem State.stageDone_keeps (K : Keeps [.out, .regs, .mem, .core, .eng, .upd, .swm, .cap, .lp, .log, .fab, .host, .wort, .boot] P) {s : State} (p : Nat) (hs : P s) : P (State.stageDone s p) := by
  have K0 : Keeps [.regs] P := K.mono rfl
  have K1 : Keeps [.out, .fab] P := K.mono rfl
  have K2 : Keeps [.out, .regs, .mem, .core, .eng, .upd, .swm, .cap, .lp, .log, .fab, .host, .wort, .boot] P := K.mono rfl
  unfold State.stageDone
  repeat' first
    | with_reducible assumption
    | intro _
    | with_reducible apply State.fset_keeps K0
    | with_reducible apply State.sendCtl_keeps K1
    | with_reducible apply State.linkHeld_keeps K2
    | with_reducible refine ite_keeps ?_ ?_

theorem execTrainStageDone_keeps (K : Keeps [.out, .regs, .mem, .core, .eng, .upd, .swm, .cap, .lp, .log, .fab, .host, .wort, .boot] P) (port : LinkPort) {s : State} (hs : P s) : ∃ t, execTrainStageDone port s = .next t ∧ P t := by
  have K0 : Keeps [] P := K.mono rfl
  have K1 : Keeps [.out, .regs, .mem, .core, .eng, .upd, .swm, .cap, .lp, .log, .fab, .host, .wort, .boot] P := K.mono rfl
  refine ⟨_, rfl, ?_⟩
  repeat' first
    | with_reducible assumption
    | intro _
    | with_reducible apply State.onPort_keeps K0
    | with_reducible apply State.stageDone_keeps K1
    | with_reducible refine ite_keeps ?_ ?_

theorem State.stageOverrun_keeps (K : Keeps [.free, .out, .regs, .mem, .core, .eng, .upd, .swm, .cap, .lp, .log, .fab, .opt, .host, .wort, .boot] P) {s : State} (p : Nat) (lane : Nat) (hs : P s) : P (State.stageOverrun s p lane) := by
  have K0 : Keeps [.fab] P := K.mono rfl
  have K1 : Keeps [.free, .out, .regs, .swm, .log, .fab, .host] P := K.mono rfl
  have K2 : Keeps [.out, .regs, .log] P := K.mono rfl
  have K3 : Keeps [.free, .out, .regs, .mem, .core, .eng, .upd, .swm, .cap, .lp, .log, .fab, .opt, .host, .wort, .boot] P := K.mono rfl
  unfold State.stageOverrun
  repeat' first
    | with_reducible assumption
    | intro _
    | with_reducible apply State.setLink_keeps K0
    | with_reducible apply State.linkDown_keeps K1
    | with_reducible apply State.hiveRec_keeps K2
    | with_reducible apply State.dlanePerm_keeps K3
    | with_reducible refine ite_keeps ?_ ?_

theorem execTrainStageOverrun_keeps (K : Keeps [.free, .out, .regs, .mem, .core, .eng, .upd, .swm, .cap, .lp, .log, .fab, .opt, .host, .wort, .boot] P) (port : LinkPort) (lane : BitVec 16) {s : State} (hs : P s) : ∃ t, execTrainStageOverrun port lane s = .next t ∧ P t := by
  have K0 : Keeps [] P := K.mono rfl
  have K1 : Keeps [.free, .out, .regs, .mem, .core, .eng, .upd, .swm, .cap, .lp, .log, .fab, .opt, .host, .wort, .boot] P := K.mono rfl
  refine ⟨_, rfl, ?_⟩
  repeat' first
    | with_reducible assumption
    | intro _
    | with_reducible apply State.onPort_keeps K0
    | with_reducible apply State.stageOverrun_keeps K1
    | with_reducible refine ite_keeps ?_ ?_

theorem State.trainRetry_keeps (K : Keeps [.out, .regs, .log, .fab] P) {s : State} (p : Nat) (hs : P s) : P (State.trainRetry s p) := by
  have K0 : Keeps [.out, .regs, .log, .fab] P := K.mono rfl
  unfold State.trainRetry
  repeat' first
    | with_reducible assumption
    | intro _
    | with_reducible apply State.trainStart_keeps K0
    | with_reducible refine ite_keeps ?_ ?_

theorem execTrainRetry_keeps (K : Keeps [.out, .regs, .log, .fab] P) (port : LinkPort) {s : State} (hs : P s) : ∃ t, execTrainRetry port s = .next t ∧ P t := by
  have K0 : Keeps [] P := K.mono rfl
  have K1 : Keeps [.out, .regs, .log, .fab] P := K.mono rfl
  refine ⟨_, rfl, ?_⟩
  repeat' first
    | with_reducible assumption
    | intro _
    | with_reducible apply State.onPort_keeps K0
    | with_reducible apply State.trainRetry_keeps K1
    | with_reducible refine ite_keeps ?_ ?_

theorem State.stall_keeps (K : Keeps [.regs] P) {s : State} (p : Nat) (hs : P s) : P (State.stall s p) := by
  have K0 : Keeps [.regs] P := K.mono rfl
  unfold State.stall
  repeat' first
    | with_reducible assumption
    | intro _
    | with_reducible apply State.setPort_keeps K0
    | with_reducible refine ite_keeps ?_ ?_

theorem State.cutCopy_keeps (K : Keeps [.out, .fab] P) {s : State} (inP : Nat) (c : CellW) (n : Nat) (hs : P s) : P (State.cutCopy s inP c n) := by
  have K0 : Keeps [.out, .fab] P := K.mono rfl
  unfold State.cutCopy
  repeat' first
    | with_reducible assumption
    | intro _
    | with_reducible apply State.txRaw_keeps K0
    | with_reducible refine ite_keeps ?_ ?_
    | split

theorem State.stallCut_keeps (K : Keeps [.out, .regs, .fab] P) {s : State} (p : Nat) (part : Option (CellW × Fin 64)) (hs : P s) : P (State.stallCut s p part) := by
  have K0 : Keeps [.regs] P := K.mono rfl
  have K1 : Keeps [.out, .fab] P := K.mono rfl
  unfold State.stallCut
  repeat' first
    | with_reducible assumption
    | intro _
    | with_reducible apply State.stall_keeps K0
    | with_reducible apply State.cutCopy_keeps K1
    | with_reducible refine ite_keeps ?_ ?_
    | split

theorem execPortStall_keeps (K : Keeps [.out, .regs, .fab] P) (port : LinkPort) (part : Option (CellW × Fin 64)) {s : State} (hs : P s) : ∃ t, execPortStall port s part = .next t ∧ P t := by
  have K0 : Keeps [] P := K.mono rfl
  have K1 : Keeps [.out, .regs, .fab] P := K.mono rfl
  refine ⟨_, rfl, ?_⟩
  repeat' first
    | with_reducible assumption
    | intro _
    | with_reducible apply State.onPort_keeps K0
    | with_reducible apply State.stallCut_keeps K1
    | with_reducible refine ite_keeps ?_ ?_

theorem State.unstall_keeps (K : Keeps [.out, .regs, .mem, .core, .eng, .upd, .swm, .cap, .lp, .log, .fab, .host, .wort, .boot] P) {s : State} (p : Nat) (hs : P s) : P (State.unstall s p) := by
  have K0 : Keeps [.out, .regs, .mem, .core, .eng, .upd, .swm, .cap, .lp, .log, .fab, .host, .wort, .boot] P := K.mono rfl
  unfold State.unstall
  repeat' first
    | with_reducible assumption
    | intro _
    | with_reducible apply State.linkResume_keeps K0
    | with_reducible refine ite_keeps ?_ ?_

theorem execPortResume_keeps (K : Keeps [.out, .regs, .mem, .core, .eng, .upd, .swm, .cap, .lp, .log, .fab, .host, .wort, .boot] P) (port : LinkPort) {s : State} (hs : P s) : ∃ t, execPortResume port s = .next t ∧ P t := by
  have K0 : Keeps [] P := K.mono rfl
  have K1 : Keeps [.out, .regs, .mem, .core, .eng, .upd, .swm, .cap, .lp, .log, .fab, .host, .wort, .boot] P := K.mono rfl
  refine ⟨_, rfl, ?_⟩
  repeat' first
    | with_reducible assumption
    | intro _
    | with_reducible apply State.onPort_keeps K0
    | with_reducible apply State.unstall_keeps K1
    | with_reducible refine ite_keeps ?_ ?_

theorem State.portLost_keeps (K : Keeps [.free, .out, .regs, .swm, .log, .fab, .host] P) {s : State} (p : Nat) (cause : DownCause) (hs : P s) : P (State.portLost s p cause) := by
  have K0 : Keeps [.free, .out, .regs, .swm, .log, .fab, .host] P := K.mono rfl
  unfold State.portLost
  repeat' first
    | with_reducible assumption
    | intro _
    | with_reducible apply State.linkDown_keeps K0
    | with_reducible refine ite_keeps ?_ ?_
    | split

theorem execPortDown_keeps (K : Keeps [.free, .out, .regs, .swm, .log, .fab, .host] P) (port : LinkPort) (cause : DownCause) {s : State} (hs : P s) : ∃ t, execPortDown port cause s = .next t ∧ P t := by
  have K0 : Keeps [] P := K.mono rfl
  have K1 : Keeps [.free, .out, .regs, .swm, .log, .fab, .host] P := K.mono rfl
  refine ⟨_, rfl, ?_⟩
  repeat' first
    | with_reducible assumption
    | intro _
    | with_reducible apply State.onPort_keeps K0
    | with_reducible apply State.portLost_keeps K1
    | with_reducible refine ite_keeps ?_ ?_

theorem State.disWrite_keeps (K : Keeps [.free, .out, .regs, .swm, .log, .fab, .host] P) {s : State} (p : Nat) (dis : Bool) (hs : P s) : P (State.disWrite s p dis) := by
  have K0 : Keeps [.regs] P := K.mono rfl
  have K1 : Keeps [.out, .regs, .fab] P := K.mono rfl
  have K2 : Keeps [.free, .out, .regs, .swm, .log, .fab, .host] P := K.mono rfl
  have K3 : Keeps [.out, .regs, .log] P := K.mono rfl
  unfold State.disWrite
  repeat' first
    | with_reducible assumption
    | intro _
    | with_reducible apply State.fset_keeps K0
    | with_reducible apply State.wakeUp_keeps K1
    | with_reducible apply State.portDisable_keeps K2
    | with_reducible apply State.setPort_keeps K0
    | with_reducible apply State.setTopo_keeps K3
    | with_reducible refine ite_keeps ?_ ?_

theorem execPortDisWrite_keeps (K : Keeps [.free, .out, .regs, .swm, .log, .fab, .host] P) (port : LinkPort) (dis : Bool) {s : State} (hs : P s) : ∃ t, execPortDisWrite port dis s = .next t ∧ P t := by
  have K0 : Keeps [.free, .out, .regs, .swm, .log, .fab, .host] P := K.mono rfl
  refine ⟨_, rfl, ?_⟩
  repeat' first
    | with_reducible assumption
    | intro _
    | with_reducible apply State.disWrite_keeps K0

theorem execDlanePermFault_keeps (K : Keeps [.free, .out, .regs, .mem, .core, .eng, .upd, .swm, .cap, .lp, .log, .fab, .opt, .host, .wort, .boot] P) (die : DieId) (dir : Fin 2) (lane : Fin 192) {s : State} (hs : P s) : ∃ t, execDlanePermFault die dir lane s = .next t ∧ P t := by
  have K0 : Keeps [.free, .out, .regs, .mem, .core, .eng, .upd, .swm, .cap, .lp, .log, .fab, .opt, .host, .wort, .boot] P := K.mono rfl
  refine ⟨_, rfl, ?_⟩
  repeat' first
    | with_reducible assumption
    | intro _
    | with_reducible apply State.dlanePerm_keeps K0
    | with_reducible refine ite_keeps ?_ ?_

theorem State.pwrRecord_keeps (K : Keeps [.out, .regs, .log, .opt] P) {s : State} (p : Nat) (t : Nat) (code : Nat) (sev : Nat) (lane : Nat) (pwr : Nat) (hs : P s) : P (State.pwrRecord s p t code sev lane pwr) := by
  have K0 : Keeps [.out, .regs, .log] P := K.mono rfl
  unfold State.pwrRecord
  repeat' first
    | with_reducible assumption
    | intro _
    | with_reducible apply State.hiveRec_keeps K0
    | with_reducible refine ite_keeps ?_ ?_
    | with_reducible apply K.lit
    | exact Or.inl (by decide)
    | exact Or.inr rfl

theorem State.pwrFlags_keeps (K : Keeps [.regs] P) {s : State} (p : Nat) (hs : P s) : P (State.pwrFlags s p) := by
  have K0 : Keeps [.regs] P := K.mono rfl
  unfold State.pwrFlags
  repeat' first
    | with_reducible assumption
    | intro _
    | with_reducible apply State.fset_keeps K0

theorem State.rxpwr_keeps (K : Keeps [.free, .out, .regs, .mem, .core, .eng, .upd, .swm, .cap, .lp, .log, .fab, .opt, .host, .wort, .boot] P) {s : State} (p : Nat) (dir : Nat) (lane : Nat) (pwr : Nat) (hs : P s) : P (State.rxpwr s p dir lane pwr) := by
  have K0 : Keeps [.regs] P := K.mono rfl
  have K1 : Keeps [.out, .regs, .log, .opt] P := K.mono rfl
  have K2 : Keeps [.out, .regs, .log] P := K.mono rfl
  have K3 : Keeps [.free, .out, .regs, .mem, .core, .eng, .upd, .swm, .cap, .lp, .log, .fab, .opt, .host, .wort, .boot] P := K.mono rfl
  unfold State.rxpwr
  repeat' first
    | with_reducible assumption
    | intro _
    | with_reducible apply State.fset_keeps K0
    | with_reducible apply State.pwrFlags_keeps K0
    | with_reducible apply State.pwrRecord_keeps K1
    | with_reducible apply State.setTopo_keeps K2
    | with_reducible apply State.dlanePerm_keeps K3
    | with_reducible refine ite_keeps ?_ ?_
    | with_reducible apply K.lit
    | exact Or.inl (by decide)
    | exact Or.inr rfl

theorem execRxpwrSample_keeps (K : Keeps [.free, .out, .regs, .mem, .core, .eng, .upd, .swm, .cap, .lp, .log, .fab, .opt, .host, .wort, .boot] P) (port : LinkPort) (dir : Fin 2) (lane : Fin 192) (pwr : BitVec 16) {s : State} (hs : P s) : ∃ t, execRxpwrSample port dir lane pwr s = .next t ∧ P t := by
  have K0 : Keeps [] P := K.mono rfl
  have K1 : Keeps [.free, .out, .regs, .mem, .core, .eng, .upd, .swm, .cap, .lp, .log, .fab, .opt, .host, .wort, .boot] P := K.mono rfl
  refine ⟨_, rfl, ?_⟩
  repeat' first
    | with_reducible assumption
    | intro _
    | with_reducible apply State.onPort_keeps K0
    | with_reducible apply State.rxpwr_keeps K1
    | with_reducible refine ite_keeps ?_ ?_

theorem State.shut_keeps (K : Keeps [.free, .out, .regs, .swm, .log, .fab, .host] P) {s : State} (p : Nat) (det : Nat) (hs : P s) : P (State.shut s p det) := by
  have K0 : Keeps [.regs] P := K.mono rfl
  have K1 : Keeps [.out, .fab] P := K.mono rfl
  have K2 : Keeps [.free, .out, .regs, .swm, .log, .fab, .host] P := K.mono rfl
  have K3 : Keeps [.out, .regs, .log] P := K.mono rfl
  have K4 : Keeps [.out] P := K.mono rfl
  unfold State.shut
  repeat' first
    | with_reducible assumption
    | intro _
    | with_reducible apply State.fset_keeps K0
    | with_reducible apply State.finc_keeps K0
    | with_reducible apply State.sendCtl_keeps K1
    | with_reducible apply State.linkDown_keeps K2
    | with_reducible apply State.setTopo_keeps K3
    | with_reducible apply State.emit_keeps K4
    | with_reducible apply State.hiveRec_keeps K3
    | with_reducible refine ite_keeps ?_ ?_

theorem State.backstop_keeps (K : Keeps [.regs, .opt] P) {s : State} (p : Nat) (hs : P s) : P (State.backstop s p) := by
  have K0 : Keeps [.regs] P := K.mono rfl
  have K1 : Keeps [] P := K.mono rfl
  unfold State.backstop
  repeat' first
    | with_reducible assumption
    | intro _
    | with_reducible apply State.fset_keeps K0
    | with_reducible apply State.onPort_keeps K1
    | with_reducible apply State.stall_keeps K0
    | with_reducible refine ite_keeps ?_ ?_
    | with_reducible refine ite_fst_keeps ?_ ?_
    | with_reducible apply foldl_fst_keeps
    | with_reducible apply foldl_keeps
    | with_reducible apply K.lit
    | exact Or.inl (by decide)
    | exact Or.inr rfl

theorem execOpenFibreShutoff_keeps (K : Keeps [.free, .out, .regs, .swm, .log, .fab, .opt, .host] P) (port : ExtPort) (unmated : Bool) (dark : Bool) {s : State} (hs : P s) : ∃ t, execOpenFibreShutoff port unmated dark s = .next t ∧ P t := by
  have K0 : Keeps [.free, .out, .regs, .swm, .log, .fab, .host] P := K.mono rfl
  have K1 : Keeps [.fab] P := K.mono rfl
  have K2 : Keeps [.regs] P := K.mono rfl
  have K3 : Keeps [.regs, .opt] P := K.mono rfl
  refine ⟨_, rfl, ?_⟩
  repeat' first
    | with_reducible assumption
    | intro _
    | with_reducible apply State.shut_keeps K0
    | with_reducible apply State.setLink_keeps K1
    | with_reducible apply State.fsetBit_keeps K2
    | with_reducible apply State.fset_keeps K2
    | with_reducible apply State.backstop_keeps K3
    | with_reducible refine ite_keeps ?_ ?_
    | with_reducible refine ite_fst_keeps ?_ ?_
    | with_reducible apply foldl_fst_keeps
    | with_reducible apply foldl_keeps

theorem execShutProbe_keeps (K : Keeps [.out] P) (port : ExtPort) {s : State} (hs : P s) : ∃ t, execShutProbe port s = .next t ∧ P t := by
  have K0 : Keeps [] P := K.mono rfl
  have K1 : Keeps [.out] P := K.mono rfl
  refine ⟨_, rfl, ?_⟩
  repeat' first
    | with_reducible assumption
    | intro _
    | with_reducible apply State.onPort_keeps K0
    | with_reducible apply State.emit_keeps K1
    | with_reducible refine ite_keeps ?_ ?_

theorem execProbeSeen_keeps (K : Keeps [.out] P) (port : ExtPort) {s : State} (hs : P s) : ∃ t, execProbeSeen port s = .next t ∧ P t := by
  have K0 : Keeps [] P := K.mono rfl
  have K1 : Keeps [.out] P := K.mono rfl
  refine ⟨_, rfl, ?_⟩
  repeat' first
    | with_reducible assumption
    | intro _
    | with_reducible apply State.onPort_keeps K0
    | with_reducible apply State.emit_keeps K1
    | with_reducible refine ite_keeps ?_ ?_

theorem execShutRestore_keeps (K : Keeps [.out, .regs, .log, .fab] P) (port : ExtPort) {s : State} (hs : P s) : ∃ t, execShutRestore port s = .next t ∧ P t := by
  have K0 : Keeps [] P := K.mono rfl
  have K1 : Keeps [.regs] P := K.mono rfl
  have K2 : Keeps [.out, .regs, .log] P := K.mono rfl
  have K3 : Keeps [.out, .regs, .log, .fab] P := K.mono rfl
  refine ⟨_, rfl, ?_⟩
  repeat' first
    | with_reducible assumption
    | intro _
    | with_reducible apply State.onPort_keeps K0
    | with_reducible apply State.fset_keeps K1
    | with_reducible apply State.fsetBit_keeps K1
    | with_reducible apply State.hiveRec_keeps K2
    | with_reducible apply State.trainStart_keeps K3
    | with_reducible apply State.setTopo_keeps K2
    | with_reducible refine ite_keeps ?_ ?_

theorem execLullRequest_keeps (K : Keeps [.out, .regs, .fab] P) (port : ExtPort) {s : State} (hs : P s) : ∃ t, execLullRequest port s = .next t ∧ P t := by
  have K0 : Keeps [] P := K.mono rfl
  have K1 : Keeps [.fab] P := K.mono rfl
  have K2 : Keeps [.regs] P := K.mono rfl
  have K3 : Keeps [.out, .fab] P := K.mono rfl
  refine ⟨_, rfl, ?_⟩
  repeat' first
    | with_reducible assumption
    | intro _
    | with_reducible apply State.onPort_keeps K0
    | with_reducible apply State.setLink_keeps K1
    | with_reducible apply State.setLsub_keeps K2
    | with_reducible apply State.sendCtl_keeps K3
    | with_reducible refine ite_keeps ?_ ?_

theorem execLullAnswerTimeout_keeps (K : Keeps [.out, .regs, .fab] P) (port : ExtPort) {s : State} (hs : P s) : ∃ t, execLullAnswerTimeout port s = .next t ∧ P t := by
  have K0 : Keeps [] P := K.mono rfl
  have K1 : Keeps [.regs] P := K.mono rfl
  have K2 : Keeps [.out, .fab] P := K.mono rfl
  refine ⟨_, rfl, ?_⟩
  repeat' first
    | with_reducible assumption
    | intro _
    | with_reducible apply State.onPort_keeps K0
    | with_reducible apply State.setLsub_keeps K1
    | with_reducible apply State.linkRun_keeps K2
    | with_reducible refine ite_keeps ?_ ?_

theorem execLullWake_keeps (K : Keeps [.out, .regs, .fab] P) (port : ExtPort) {s : State} (hs : P s) : ∃ t, execLullWake port s = .next t ∧ P t := by
  have K0 : Keeps [] P := K.mono rfl
  have K1 : Keeps [.out, .regs, .fab] P := K.mono rfl
  refine ⟨_, rfl, ?_⟩
  repeat' first
    | with_reducible assumption
    | intro _
    | with_reducible apply State.onPort_keeps K0
    | with_reducible apply State.wakeUp_keeps K1
    | with_reducible refine ite_keeps ?_ ?_

theorem execWakeTone_keeps (K : Keeps [.out, .regs, .fab] P) (port : ExtPort) {s : State} (hs : P s) : ∃ t, execWakeTone port s = .next t ∧ P t := by
  have K0 : Keeps [] P := K.mono rfl
  have K1 : Keeps [.fab] P := K.mono rfl
  have K2 : Keeps [.regs] P := K.mono rfl
  have K3 : Keeps [.out, .fab] P := K.mono rfl
  refine ⟨_, rfl, ?_⟩
  repeat' first
    | with_reducible assumption
    | intro _
    | with_reducible apply State.onPort_keeps K0
    | with_reducible apply State.setLink_keeps K1
    | with_reducible apply State.setLsub_keeps K2
    | with_reducible apply State.sendCtl_keeps K3
    | with_reducible refine ite_keeps ?_ ?_

theorem execWakeTimeout_keeps (K : Keeps [.free, .out, .regs, .swm, .log, .fab, .host] P) (port : ExtPort) {s : State} (hs : P s) : ∃ t, execWakeTimeout port s = .next t ∧ P t := by
  have K0 : Keeps [] P := K.mono rfl
  have K1 : Keeps [.free, .out, .regs, .swm, .log, .fab, .host] P := K.mono rfl
  refine ⟨_, rfl, ?_⟩
  repeat' first
    | with_reducible assumption
    | intro _
    | with_reducible apply State.onPort_keeps K0
    | with_reducible apply State.linkDown_keeps K1
    | with_reducible refine ite_keeps ?_ ?_

theorem execLossOfSymbols_keeps (K : Keeps [.out, .regs, .fab] P) (port : ExtPort) {s : State} (hs : P s) : ∃ t, execLossOfSymbols port s = .next t ∧ P t := by
  have K0 : Keeps [] P := K.mono rfl
  have K1 : Keeps [.out, .regs, .fab] P := K.mono rfl
  refine ⟨_, rfl, ?_⟩
  repeat' first
    | with_reducible assumption
    | intro _
    | with_reducible apply State.onPort_keeps K0
    | with_reducible apply State.lullEnter_keeps K1
    | with_reducible refine ite_keeps ?_ ?_

/-! LaserCmds -/

theorem State.setLaser_keeps (K : Keeps [.opt] P) {s : State} (b : Nat) (i : Nat) (r : LaserRec) (hs : P s) : P (State.setLaser s b i r) := by
  unfold State.setLaser
  repeat' first
    | with_reducible assumption
    | intro _
    | with_reducible refine ite_keeps ?_ ?_
    | with_reducible apply K.lit
    | exact Or.inl (by decide)
    | exact Or.inr rfl

theorem State.setTakes_keeps (K : Keeps [.opt] P) {s : State} (b : Nat) (l : List TakeRec) (hs : P s) : P (State.setTakes s b l) := by
  unfold State.setTakes
  repeat' first
    | with_reducible assumption
    | intro _
    | with_reducible refine ite_keeps ?_ ?_
    | with_reducible apply K.lit
    | exact Or.inl (by decide)
    | exact Or.inr rfl

theorem State.lsrBank_keeps (K : Keeps [.regs] P) {s : State} (b : Nat) (hs : P s) : P (State.lsrBank s b) := by
  have K0 : Keeps [.regs] P := K.mono rfl
  unfold State.lsrBank
  repeat' first
    | with_reducible assumption
    | intro _
    | with_reducible apply State.fset_keeps K0

theorem State.laserRetire_keeps (K : Keeps [.regs, .opt, .boot] P) {s : State} (b : Nat) (i : Nat) (hs : P s) : P (State.laserRetire s b i) := by
  have K0 : Keeps [.opt] P := K.mono rfl
  have K1 : Keeps [.regs, .boot] P := K.mono rfl
  unfold State.laserRetire
  repeat' first
    | with_reducible assumption
    | intro _
    | with_reducible apply State.setLaser_keeps K0
    | with_reducible apply State.journal_keeps K1

theorem State.tuneSpare_keeps (K : Keeps [.out, .regs, .log, .opt, .boot] P) {s : State} (b : Nat) (failed : Nat) (slot : Nat) (planned : Bool) (hs : P s) : ∀ y, State.tuneSpare s b failed slot planned = some y → P y := by
  intro y e
  unfold State.tuneSpare at e
  obtain ⟨i, _, e⟩ := Option.map_eq_some_iff.mp e
  subst e
  have h1 := fun (x : List TakeRec) (r : LaserRec) =>
    State.setTakes_keeps (K.mono rfl) b x (State.setLaser_keeps (K.mono rfl) b i r hs)
  refine State.lsrBank_keeps (K.mono rfl) b ?_
  split
  · exact State.hiveRec_keeps (K.mono rfl) _ _ _ _ (State.journal_keeps (K.mono rfl) _ _ _ _ (h1 _ _))
  · exact State.journal_keeps (K.mono rfl) _ _ _ _ (h1 _ _)

theorem State.slotDark_keeps (K : Keeps [.free, .out, .regs, .mem, .core, .eng, .upd, .swm, .cap, .lp, .log, .fab, .opt, .host, .wort, .boot] P) {s : State} (b : Nat) (slot : Nat) (hs : P s) : P (State.slotDark s b slot) := by
  have K0 : Keeps [.free, .out, .regs, .mem, .core, .eng, .upd, .swm, .cap, .lp, .log, .fab, .opt, .host, .wort, .boot] P := K.mono rfl
  have K1 : Keeps [.free, .out, .regs, .log, .host] P := K.mono rfl
  unfold State.slotDark
  repeat' first
    | with_reducible assumption
    | intro _
    | with_reducible apply State.dlanePerm_keeps K0
    | with_reducible apply State.reevaluate_keeps K1
    | with_reducible refine ite_keeps ?_ ?_
    | with_reducible refine ite_fst_keeps ?_ ?_
    | with_reducible apply foldl_fst_keeps
    | with_reducible apply foldl_keeps
    | with_reducible apply K.lit
    | exact Or.inl (by decide)
    | exact Or.inr rfl

theorem execLaserFail_keeps (K : Keeps [.free, .out, .regs, .mem, .core, .eng, .upd, .swm, .cap, .lp, .log, .fab, .opt, .host, .wort, .boot] P) (bank : Fin 8) (laser : Fin 35) (sample : LaserSample) {s0 : State} (hs : P s0) : ∃ t, execLaserFail bank laser s0 sample = .next t ∧ P t := by
  have K0 : Keeps [.opt] P := K.mono rfl
  have K1 : Keeps [.regs, .opt, .boot] P := K.mono rfl
  have K2 : Keeps [.regs] P := K.mono rfl
  have K3 : Keeps [] P := K.mono rfl
  have K4 : Keeps [.out, .regs, .log, .opt, .boot] P := K.mono rfl
  have K5 : Keeps [.free, .out, .regs, .mem, .core, .eng, .upd, .swm, .cap, .lp, .log, .fab, .opt, .host, .wort, .boot] P := K.mono rfl
  refine ⟨_, rfl, ?_⟩
  repeat' first
    | with_reducible assumption
    | intro _
    | with_reducible apply State.setLaser_keeps K0
    | with_reducible apply State.laserRetire_keeps K1
    | with_reducible apply State.lsrBank_keeps K2
    | with_reducible apply State.onPort_keeps K3
    | with_reducible apply State.stall_keeps K2
    | with_reducible apply State.setTakes_keeps K0
    | (with_reducible apply some_of; assumption; apply State.tuneSpare_keeps K4)
    | with_reducible apply State.slotDark_keeps K5
    | with_reducible refine ite_keeps ?_ ?_
    | with_reducible refine ite_fst_keeps ?_ ?_
    | split
    | with_reducible apply foldl_fst_keeps
    | with_reducible apply foldl_keeps

theorem execLaserTuneTimeout_keeps (K : Keeps [.free, .out, .regs, .mem, .core, .eng, .upd, .swm, .cap, .lp, .log, .fab, .opt, .host, .wort, .boot] P) (bank : Fin 8) {s : State} (hs : P s) : ∃ t, execLaserTuneTimeout bank s = .next t ∧ P t := by
  have K0 : Keeps [.regs, .opt, .boot] P := K.mono rfl
  have K1 : Keeps [.opt] P := K.mono rfl
  have K2 : Keeps [.regs] P := K.mono rfl
  have K3 : Keeps [.out, .regs, .log, .opt, .boot] P := K.mono rfl
  have K4 : Keeps [.free, .out, .regs, .mem, .core, .eng, .upd, .swm, .cap, .lp, .log, .fab, .opt, .host, .wort, .boot] P := K.mono rfl
  refine ⟨_, rfl, ?_⟩
  repeat' first
    | with_reducible assumption
    | intro _
    | with_reducible apply State.laserRetire_keeps K0
    | with_reducible apply State.setTakes_keeps K1
    | with_reducible apply State.lsrBank_keeps K2
    | (with_reducible apply some_of; assumption; apply State.tuneSpare_keeps K3)
    | with_reducible apply State.setLaser_keeps K1
    | with_reducible apply State.slotDark_keeps K4
    | with_reducible refine ite_keeps ?_ ?_
    | split
    | extract_lets

theorem State.switchIn_keeps (K : Keeps [.regs, .opt, .boot] P) {s : State} (b : Nat) (t : TakeRec) (hs : P s) : P (State.switchIn s b t) := by
  have K0 : Keeps [.opt] P := K.mono rfl
  have K1 : Keeps [.regs, .boot] P := K.mono rfl
  have K2 : Keeps [.regs] P := K.mono rfl
  unfold State.switchIn
  repeat' first
    | with_reducible assumption
    | intro _
    | with_reducible apply State.setLaser_keeps K0
    | with_reducible apply State.setTakes_keeps K0
    | with_reducible apply State.journal_keeps K1
    | with_reducible apply State.lsrBank_keeps K2

theorem execLaserTakeoverDone_keeps (K : Keeps [.out, .regs, .mem, .core, .eng, .upd, .swm, .cap, .lp, .log, .fab, .opt, .host, .wort, .boot] P) (bank : Fin 8) {s : State} (hs : P s) : ∃ t, execLaserTakeoverDone bank s = .next t ∧ P t := by
  have K0 : Keeps [.regs, .opt, .boot] P := K.mono rfl
  have K1 : Keeps [] P := K.mono rfl
  have K2 : Keeps [.out, .regs, .mem, .core, .eng, .upd, .swm, .cap, .lp, .log, .fab, .host, .wort, .boot] P := K.mono rfl
  have K3 : Keeps [.out, .regs, .log] P := K.mono rfl
  refine ⟨_, rfl, ?_⟩
  repeat' first
    | with_reducible assumption
    | intro _
    | with_reducible apply State.switchIn_keeps K0
    | with_reducible apply State.onPort_keeps K1
    | with_reducible apply State.unstall_keeps K2
    | with_reducible apply State.hiveRec_keeps K3
    | with_reducible refine ite_keeps ?_ ?_
    | with_reducible refine ite_fst_keeps ?_ ?_
    | split
    | with_reducible apply foldl_fst_keeps
    | with_reducible apply foldl_keeps

theorem execLaserAgeCheck_keeps (K : Keeps [.out, .regs, .log, .opt, .boot] P) (bank : Fin 8) (laser : Fin 35) (bias0 : BitVec 16) (mpd : BitVec 16) {s : State} (hs : P s) : ∃ t, execLaserAgeCheck bank laser bias0 s mpd = .next t ∧ P t := by
  have K0 : Keeps [.opt] P := K.mono rfl
  have K1 : Keeps [.out, .regs, .log] P := K.mono rfl
  have K2 : Keeps [.out, .regs, .log, .opt, .boot] P := K.mono rfl
  have K3 : Keeps [.regs] P := K.mono rfl
  refine ⟨_, rfl, ?_⟩
  repeat' first
    | with_reducible assumption
    | intro _
    | with_reducible apply State.setLaser_keeps K0
    | with_reducible apply State.hiveRec_keeps K1
    | (with_reducible apply some_of; assumption; apply State.tuneSpare_keeps K2)
    | with_reducible apply State.lsrBank_keeps K3
    | with_reducible refine ite_keeps ?_ ?_
    | split
    | with_reducible apply K.lit
    | exact Or.inl (by decide)
    | exact Or.inr rfl

theorem execLaserHandoverSwitch_keeps (K : Keeps [.out, .regs, .mem, .core, .eng, .upd, .swm, .cap, .lp, .log, .fab, .opt, .host, .wort, .boot] P) (bank : Fin 8) {s : State} (hs : P s) : ∃ t, execLaserHandoverSwitch bank s = .next t ∧ P t := by
  have K0 : Keeps [.regs, .opt, .boot] P := K.mono rfl
  have K1 : Keeps [.regs] P := K.mono rfl
  have K2 : Keeps [.out, .regs, .mem, .core, .eng, .upd, .swm, .cap, .lp, .log, .fab, .host, .wort, .boot] P := K.mono rfl
  have K3 : Keeps [] P := K.mono rfl
  refine ⟨_, rfl, ?_⟩
  repeat' first
    | with_reducible assumption
    | intro _
    | with_reducible apply State.laserRetire_keeps K0
    | with_reducible apply State.switchIn_keeps K0
    | with_reducible apply State.stall_keeps K1
    | with_reducible apply State.unstall_keeps K2
    | with_reducible apply State.onPort_keeps K3
    | with_reducible refine ite_keeps ?_ ?_
    | with_reducible refine ite_fst_keeps ?_ ?_
    | split
    | with_reducible apply foldl_fst_keeps
    | with_reducible apply foldl_keeps

theorem execSpareDailyCheck_keeps (K : Keeps [.regs, .opt, .boot] P) (bank : Fin 8) (laser : Fin 35) (pass : Bool) {s : State} (hs : P s) : ∃ t, execSpareDailyCheck bank laser pass s = .next t ∧ P t := by
  have K0 : Keeps [.regs, .opt, .boot] P := K.mono rfl
  have K1 : Keeps [.regs] P := K.mono rfl
  refine ⟨_, rfl, ?_⟩
  repeat' first
    | with_reducible assumption
    | intro _
    | with_reducible apply State.laserRetire_keeps K0
    | with_reducible apply State.lsrBank_keeps K1
    | with_reducible refine ite_keeps ?_ ?_

/-! MemCmds -/

theorem State.strike_keeps (K : Keeps [.lp] P) {s : State} (die : Nat) (ch : Nat) (q : Nat) (err : List (Fin 68 × Byte)) (hs : P s) : P (State.strike s die ch q err) := by
  unfold State.strike
  repeat' first
    | with_reducible assumption
    | intro _
    | with_reducible refine ite_keeps ?_ ?_
    | with_reducible refine ite_fst_keeps ?_ ?_
    | with_reducible apply foldl_fst_keeps
    | with_reducible apply foldl_keeps
    | with_reducible apply K.lit
    | exact Or.inl (by decide)
    | exact Or.inr rfl

theorem execLpddrScrub_keeps (K : Keeps [.out, .regs, .mem, .core, .eng, .upd, .swm, .cap, .lp, .log, .fab, .host, .wort, .boot] P) (die : DieId) (chan : Fin 16) (q : BitVec 27) (err : List (Fin 68 × Byte)) {s : State} (hs : P s) : ∃ t, execLpddrScrub die chan q err s = .next t ∧ P t := by
  have K0 : Keeps [.lp] P := K.mono rfl
  have K1 : Keeps [.regs, .mem, .lp] P := K.mono rfl
  have K2 : Keeps [.out, .regs, .mem, .core, .eng, .upd, .swm, .cap, .lp, .log, .fab, .host, .wort, .boot] P := K.mono rfl
  refine ⟨_, rfl, ?_⟩
  repeat' first
    | with_reducible assumption
    | intro _
    | with_reducible apply State.strike_keeps K0
    | with_reducible apply State.readLine_keeps K1
    | with_reducible apply State.memUe_keeps K2
    | with_reducible refine ite_keeps ?_ ?_
    | with_reducible refine ite_fst_keeps ?_ ?_
    | (with_reducible apply fst_of; with_reducible assumption)
    | split

theorem execWcbWrite_keeps (K : Keeps [.out, .regs, .mem, .core, .eng, .upd, .swm, .cap, .lp, .log, .fab, .host, .wort, .boot] P) (die : DieId) (off : BitVec 37) (data : Bytes) (tag : Nat) {s : State} (hs : P s) : ∃ t, execWcbWrite die off data tag s = .next t ∧ P t := by
  have K0 : Keeps [.out, .regs, .mem, .core, .eng, .upd, .swm, .cap, .lp, .log, .fab, .host, .wort, .boot] P := K.mono rfl
  have K1 : Keeps [.regs, .eng, .fab] P := K.mono rfl
  refine ⟨_, rfl, ?_⟩
  repeat' first
    | with_reducible assumption
    | intro _
    | with_reducible apply State.lineWrite_keeps K0
    | with_reducible apply State.markBad_keeps K1
    | with_reducible refine ite_keeps ?_ ?_

theorem execWcbAgeEvict_keeps (K : Keeps [.out, .regs, .mem, .core, .eng, .upd, .swm, .cap, .lp, .log, .fab, .host, .wort, .boot] P) (die : DieId) (chan : Fin 16) (q : BitVec 27) {s : State} (hs : P s) : ∃ t, execWcbAgeEvict die chan q s = .next t ∧ P t := by
  have K0 : Keeps [.out, .regs, .mem, .core, .eng, .upd, .swm, .cap, .lp, .log, .fab, .host, .wort, .boot] P := K.mono rfl
  have K1 : Keeps [.regs, .eng, .fab] P := K.mono rfl
  refine ⟨_, rfl, ?_⟩
  repeat' first
    | with_reducible assumption
    | intro _
    | with_reducible apply State.wcbEvict_keeps K0
    | with_reducible apply State.markBad_keeps K1
    | with_reducible refine ite_keeps ?_ ?_
    | with_reducible refine ite_fst_keeps ?_ ?_
    | split

theorem execHomeRead_keeps (K : Keeps [.out, .regs, .mem, .core, .eng, .upd, .swm, .cap, .lp, .log, .fab, .host, .wort, .boot] P) (die : DieId) (off : BitVec 37) (len : Fin 61) (err : List (Fin 68 × Byte)) {s : State} (hs : P s) : ∃ t, execHomeRead die off len err s = .next t ∧ P t := by
  have K0 : Keeps [.lp] P := K.mono rfl
  have K1 : Keeps [.out, .regs, .mem, .core, .eng, .upd, .swm, .cap, .lp, .log, .fab, .host, .wort, .boot] P := K.mono rfl
  refine ⟨_, rfl, ?_⟩
  repeat' first
    | with_reducible assumption
    | intro _
    | with_reducible apply State.strike_keeps K0
    | with_reducible apply State.lpRead_keeps K1
    | with_reducible refine ite_keeps ?_ ?_

theorem execMr4Poll_keeps (K : Keeps [.free, .out, .regs, .log, .host] P) (pkg : Fin 32) (temp : Byte) {s : State} (hs : P s) : ∃ t, execMr4Poll pkg temp s = .next t ∧ P t := by
  have K0 : Keeps [.regs] P := K.mono rfl
  have K1 : Keeps [.log] P := K.mono rfl
  have K2 : Keeps [.free, .out, .regs, .log, .host] P := K.mono rfl
  refine ⟨_, rfl, ?_⟩
  repeat' first
    | with_reducible assumption
    | intro _
    | with_reducible apply State.fset_keeps K0
    | with_reducible apply State.dieRec_keeps K1
    | with_reducible apply State.reevaluate_keeps K2
    | with_reducible refine ite_keeps ?_ ?_
    | with_reducible refine ite_fst_keeps ?_ ?_
    | with_reducible apply foldl_fst_keeps
    | with_reducible apply foldl_keeps

theorem execChannelFail_keeps (K : Keeps [.out, .regs, .mem, .core, .eng, .upd, .swm, .cap, .lp, .log, .fab, .host, .wort, .boot] P) (chan : Fin 128) (cause : Fin 3) {s : State} (hs : P s) : ∃ t, execChannelFail chan cause s = .next t ∧ P t := by
  have K0 : Keeps [.out, .regs, .mem, .core, .eng, .upd, .swm, .cap, .lp, .log, .fab, .host, .wort, .boot] P := K.mono rfl
  refine ⟨_, rfl, ?_⟩
  repeat' first
    | with_reducible assumption
    | intro _
    | with_reducible apply State.channelFail_keeps K0

theorem State.moveLine_keeps (K : Keeps [.regs, .mem, .lp] P) {s : State} (d : Nat) (c : Nat) (from_ : Nat) (dst : Nat) (hs : P s) : P (State.moveLine s d c from_ dst) := by
  have K0 : Keeps [.regs, .mem, .lp] P := K.mono rfl
  unfold State.moveLine
  repeat' first
    | with_reducible assumption
    | intro _
    | with_reducible apply State.readLine_keeps K0
    | with_reducible refine ite_keeps ?_ ?_
    | with_reducible refine ite_fst_keeps ?_ ?_
    | (with_reducible apply fst_of; with_reducible assumption)
    | split
    | with_reducible apply K.lit
    | exact Or.inl (by decide)
    | exact Or.inr rfl

theorem State.memRetire_keeps (K : Keeps [.free, .out, .regs, .mem, .core, .eng, .upd, .swm, .cap, .lp, .log, .fab, .host, .wort, .boot] P) {s : State} (d : Nat) (c : Nat) (page : Nat) (hs : P s) : P (State.memRetire s d c page) := by
  have K0 : Keeps [.regs] P := K.mono rfl
  have K1 : Keeps [.out, .regs, .log] P := K.mono rfl
  have K2 : Keeps [.out, .regs, .mem, .core, .eng, .upd, .swm, .cap, .lp, .log, .fab, .host, .wort, .boot] P := K.mono rfl
  have K3 : Keeps [.regs, .eng, .fab] P := K.mono rfl
  have K4 : Keeps [.regs, .mem, .lp] P := K.mono rfl
  have K5 : Keeps [.regs, .boot] P := K.mono rfl
  have K6 : Keeps [.log] P := K.mono rfl
  have K7 : Keeps [.out, .regs] P := K.mono rfl
  have K8 : Keeps [.free, .out, .regs, .log, .host] P := K.mono rfl
  unfold State.memRetire
  repeat' first
    | with_reducible assumption
    | intro _
    | with_reducible apply State.fset_keeps K0
    | with_reducible apply State.refuseReg_keeps K1
    | with_reducible apply State.wcbEvict_keeps K2
    | with_reducible apply State.markBad_keeps K3
    | with_reducible apply State.moveLine_keeps K4
    | with_reducible apply State.recap_keeps K0
    | with_reducible apply State.journal_keeps K5
    | with_reducible apply State.dieRec_keeps K6
    | with_reducible apply State.isum_keeps K7
    | with_reducible apply State.reevaluate_keeps K8
    | with_reducible refine ite_keeps ?_ ?_
    | with_reducible refine ite_fst_keeps ?_ ?_
    | split
    | with_reducible apply foldl_fst_keeps
    | with_reducible apply foldl_keeps
    | with_reducible apply K.lit
    | exact Or.inl (by decide)
    | exact Or.inr rfl

theorem execMemRetire_keeps (K : Keeps [.free, .out, .regs, .mem, .core, .eng, .upd, .swm, .cap, .lp, .log, .fab, .host, .wort, .boot] P) (fn : FnId) (die : DieId) (chan : Fin 16) (page : BitVec 17) {s : State} (hs : P s) : ∃ t, execMemRetire fn die chan page s = .next t ∧ P t := by
  have K0 : Keeps [.out, .regs, .log] P := K.mono rfl
  have K1 : Keeps [.free, .out, .regs, .mem, .core, .eng, .upd, .swm, .cap, .lp, .log, .fab, .host, .wort, .boot] P := K.mono rfl
  refine ⟨_, rfl, ?_⟩
  repeat' first
    | with_reducible assumption
    | intro _
    | with_reducible apply State.refuseReg_keeps K0
    | with_reducible apply State.memRetire_keeps K1
    | with_reducible refine ite_keeps ?_ ?_

end Sys2Proof.Machine
end

