-- ==== Sys2Proof/Laws/KeepsModule.lean ====
section
/-! SUPPORT. What every operation may write: bring-up, caps at hives, fences, rings, power, log, time, routes, registers, test access. One lemma per operation, by the components
it can reach (Laws/Keeps.lean). -/

namespace Sys2Proof.Machine

variable {P : State → Prop}

/-! BootOps -/

theorem State.resetRegs_keeps (K : Keeps [.regs] P) {s : State} (p : Nat → RField → Bool) (hs : P s) : P (State.resetRegs s p) := K.regReset (by decide) p hs

theorem State.retainShow_keeps (K : Keeps [.regs] P) {s : State} (hs : P s) : P (State.retainShow s) := by
  have K0 : Keeps [.regs] P := K.mono rfl
  unfold State.retainShow
  repeat' first
    | with_reducible assumption
    | intro _
    | with_reducible apply State.fset_keeps K0
    | with_reducible refine ite_keeps ?_ ?_
    | split
    | extract_lets

theorem State.storeLost_keeps (K : Keeps [.regs, .boot] P) {s : State} (hs : P s) : P (State.storeLost s) := by
  have K0 : Keeps [.regs] P := K.mono rfl
  unfold State.storeLost
  repeat' first
    | with_reducible assumption
    | intro _
    | with_reducible apply State.retainShow_keeps K0
    | with_reducible refine ite_keeps ?_ ?_
    | with_reducible apply K.lit
    | exact Or.inl (by decide)
    | exact Or.inr rfl

theorem State.storeEnd_keeps (K : Keeps [.free, .out, .regs, .log, .boot] P) {s : State} (ok : Bool) (hs : P s) : P (State.storeEnd s ok) := by
  have K0 : Keeps [.free] P := K.mono rfl
  have K1 : Keeps [.regs] P := K.mono rfl
  have K2 : Keeps [.out, .regs] P := K.mono rfl
  have K3 : Keeps [.out, .regs, .log] P := K.mono rfl
  unfold State.storeEnd
  repeat' first
    | with_reducible assumption
    | intro _
    | with_reducible apply State.drawn_keeps K0
    | with_reducible apply State.retainShow_keeps K1
    | with_reducible apply State.fset_keeps K1
    | with_reducible apply State.isum_keeps K2
    | with_reducible apply State.hiveRec_keeps K3
    | with_reducible refine ite_keeps ?_ ?_
    | split
    | with_reducible apply K.lit
    | exact Or.inl (by decide)
    | exact Or.inr rfl

theorem State.storeStart_keeps (K : Keeps [.regs] P) {s : State} (hs : P s) : P (State.storeStart s) := by
  have K0 : Keeps [.regs] P := K.mono rfl
  unfold State.storeStart
  repeat' first
    | with_reducible assumption
    | intro _
    | with_reducible apply State.fset_keeps K0

theorem State.lasersCold_keeps (K : Keeps [.opt] P) {s : State} (hs : P s) : P (State.lasersCold s) := by
  unfold State.lasersCold
  repeat' first
    | with_reducible assumption
    | intro _
    | with_reducible refine ite_keeps ?_ ?_
    | with_reducible apply K.lit
    | exact Or.inl (by decide)
    | exact Or.inr rfl

theorem State.restart_keeps (K : Keeps [.free, .out, .regs, .mem, .core, .eng, .smp, .upd, .swm, .cap, .lp, .log, .fab, .opt, .host, .wort, .boot, .saf, .pwr, .tap, .tim] P) {s : State} (keep : Nat → RField → Bool) (cold : Bool) (byReset : Bool) (hs : P s) : P (State.restart s keep cold byReset) := by
  have K0 : Keeps [.regs, .boot] P := K.mono rfl
  have K1 : Keeps [.free, .out, .regs, .mem, .core, .eng, .upd, .swm, .cap, .lp, .log, .fab, .host, .wort, .boot] P := K.mono rfl
  have K2 : Keeps [.out, .regs, .boot, .saf] P := K.mono rfl
  have K3 : Keeps [.regs] P := K.mono rfl
  unfold State.restart
  repeat' first
    | with_reducible assumption
    | intro _
    | with_reducible apply State.storeLost_keeps K0
    | with_reducible apply State.takeoverTry_keeps K1
    | with_reducible apply State.dieLeave_keeps K2
    | with_reducible apply State.resetRegs_keeps K3
    | with_reducible apply State.fset_keeps K3
    | with_reducible refine ite_keeps ?_ ?_
    | with_reducible refine ite_fst_keeps ?_ ?_
    | with_reducible apply foldl_fst_keeps
    | with_reducible apply foldl_keeps
    | with_reducible apply K.lit
    | exact Or.inl (by decide)
    | exact Or.inr rfl
    | exact Or.inl ⟨by decide, rfl⟩

theorem State.selfHold_keeps (K : Keeps [.out, .regs, .boot] P) {s : State} (hs : P s) : P (State.selfHold s) := by
  have K0 : Keeps [.out, .regs, .boot] P := K.mono rfl
  unfold State.selfHold
  repeat' first
    | with_reducible assumption
    | intro _
    | with_reducible apply State.dieEnter_keeps K0
    | with_reducible refine ite_keeps ?_ ?_
    | with_reducible refine ite_fst_keeps ?_ ?_
    | with_reducible apply foldl_fst_keeps
    | with_reducible apply foldl_keeps
    | with_reducible apply K.lit
    | exact Or.inl (by decide)
    | exact Or.inr rfl

theorem State.moduleReset_keeps (K : Keeps [.free, .out, .regs, .mem, .core, .eng, .smp, .upd, .swm, .cap, .lp, .log, .fab, .opt, .host, .wort, .boot, .saf, .pwr, .tap, .tim] P) {s : State} (cold : Bool) (byReg : Bool) (hs : P s) : P (State.moduleReset s cold byReg) := by
  have K0 : Keeps [.out, .fab] P := K.mono rfl
  have K1 : Keeps [.free, .out, .regs, .mem, .core, .eng, .smp, .upd, .swm, .cap, .lp, .log, .fab, .opt, .host, .wort, .boot, .saf, .pwr, .tap, .tim] P := K.mono rfl
  have K2 : Keeps [.out, .regs, .boot] P := K.mono rfl
  have K3 : Keeps [.regs] P := K.mono rfl
  unfold State.moduleReset
  repeat' first
    | with_reducible assumption
    | intro _
    | with_reducible apply State.sendCtl_keeps K0
    | with_reducible apply State.restart_keeps K1
    | with_reducible apply State.selfHold_keeps K2
    | with_reducible apply State.fset_keeps K3
    | with_reducible refine ite_keeps ?_ ?_
    | with_reducible refine ite_fst_keeps ?_ ?_
    | with_reducible apply foldl_fst_keeps
    | with_reducible apply foldl_keeps

theorem State.railsOff_keeps (K : Keeps [.free, .out, .regs, .mem, .core, .eng, .smp, .upd, .swm, .cap, .lp, .log, .fab, .opt, .host, .wort, .boot, .saf, .pwr, .tap, .tim] P) {s : State} (sstate : Nat) (hs : P s) : P (State.railsOff s sstate) := by
  unfold State.railsOff
  dsimp only
  apply State.fset_keeps (K.mono rfl)
  have h1 := State.restart_keeps (K.mono rfl) RField.keptPower false false (K.saf (by decide) { s.saf with fence := [], dies := [] } hs)
  have h2 := K.memDrop (by decide) (fun _ => false) h1
  have h3 := K.pwr (by decide) { (State.restart { s with saf := { s.saf with fence := [], dies := [] } } RField.keptPower false false).pwr with rails := false } (K.lp (by decide) { (State.restart { s with saf := { s.saf with fence := [], dies := [] } } RField.keptPower false false).lp with lineErr := [] } (K.eng (by decide) { (State.restart { s with saf := { s.saf with fence := [], dies := [] } } RField.keptPower false false).eng with sramErr := [] } h2))
  simpa using h3

theorem State.powerOn_keeps (K : Keeps [.regs, .boot, .pwr, .tim] P) {s : State} (hs : P s) : P (State.powerOn s) := by
  have K0 : Keeps [.regs] P := K.mono rfl
  unfold State.powerOn
  repeat' first
    | with_reducible assumption
    | intro _
    | with_reducible apply State.fset_keeps K0
    | with_reducible refine ite_keeps ?_ ?_
    | with_reducible apply K.lit
    | exact Or.inl (by decide)
    | exact Or.inr rfl
    | exact Or.inl ⟨by decide, rfl⟩

theorem State.bootStop_keeps (K : Keeps [.out, .regs, .log] P) {s : State} (code : Nat) (hs : P s) : P (State.bootStop s code) := by
  have K0 : Keeps [.regs] P := K.mono rfl
  have K1 : Keeps [.out, .regs, .log] P := K.mono rfl
  unfold State.bootStop
  repeat' first
    | with_reducible assumption
    | intro _
    | with_reducible apply State.fset_keeps K0
    | with_reducible apply State.hiveRec_keeps K1
    | with_reducible apply State.lastGasp_keeps K1

theorem State.restore_keeps (K : Keeps [.regs, .boot, .saf] P) {s : State} (r : RetRec) (hs : P s) : P (State.restore s r) := by
  have K0 : Keeps [.regs] P := K.mono rfl
  unfold State.restore
  repeat' first
    | with_reducible assumption
    | intro _
    | with_reducible apply State.setReg_keeps K0
    | with_reducible apply State.resetRegs_keeps K0
    | with_reducible apply State.fset_keeps K0
    | with_reducible refine ite_keeps ?_ ?_
    | with_reducible refine ite_fst_keeps ?_ ?_
    | with_reducible apply foldl_fst_keeps
    | with_reducible apply foldl_keeps
    | with_reducible apply K.lit
    | exact Or.inl (by decide)
    | exact Or.inr rfl

theorem State.retainLost_keeps (K : Keeps [.out, .regs, .log, .opt] P) {s : State} (hs : P s) : P (State.retainLost s) := by
  have K0 : Keeps [.regs] P := K.mono rfl
  have K1 : Keeps [.out, .regs, .log] P := K.mono rfl
  unfold State.retainLost
  repeat' first
    | with_reducible assumption
    | intro _
    | with_reducible apply State.resetRegs_keeps K0
    | with_reducible apply State.setReg_keeps K0
    | with_reducible apply State.fset_keeps K0
    | with_reducible apply State.hiveRec_keeps K1
    | with_reducible refine ite_keeps ?_ ?_
    | with_reducible refine ite_fst_keeps ?_ ?_
    | with_reducible apply foldl_fst_keeps
    | with_reducible apply foldl_keeps
    | with_reducible apply K.lit
    | exact Or.inl (by decide)
    | exact Or.inr rfl

theorem State.phase0_keeps (K : Keeps [.out, .regs, .log, .fab, .opt, .boot, .saf] P) {s : State} (r : PhaseResult) (hs : P s) : P (State.phase0 s r) := by
  have K0 : Keeps [.out, .regs, .log] P := K.mono rfl
  have K1 : Keeps [.regs] P := K.mono rfl
  have K2 : Keeps [.opt] P := K.mono rfl
  have K3 : Keeps [.out, .regs, .log, .opt] P := K.mono rfl
  have K4 : Keeps [.regs, .boot, .saf] P := K.mono rfl
  have K5 : Keeps [.fab] P := K.mono rfl
  unfold State.phase0
  repeat' first
    | with_reducible assumption
    | intro _
    | with_reducible apply State.bootStop_keeps K0
    | with_reducible apply State.fset_keeps K1
    | with_reducible apply State.hiveRec_keeps K0
    | with_reducible apply State.lasersCold_keeps K2
    | with_reducible apply State.retainShow_keeps K1
    | with_reducible apply State.retainLost_keeps K3
    | with_reducible apply State.restore_keeps K4
    | with_reducible apply State.setLink_keeps K5
    | with_reducible refine ite_keeps ?_ ?_
    | with_reducible refine ite_fst_keeps ?_ ?_
    | split
    | with_reducible apply foldl_fst_keeps
    | with_reducible apply foldl_keeps
    | with_reducible apply K.lit
    | exact Or.inl (by decide)
    | exact Or.inr rfl

theorem State.fillSlot_keeps (K : Keeps [.free, .out, .regs, .mem, .core, .eng, .upd, .swm, .cap, .lp, .log, .fab, .opt, .host, .wort, .boot] P) {s : State} (b : Nat) (slot : Nat) (hs : P s) : P (State.fillSlot s b slot) := by
  have K0 : Keeps [.opt] P := K.mono rfl
  have K1 : Keeps [.free, .out, .regs, .mem, .core, .eng, .upd, .swm, .cap, .lp, .log, .fab, .opt, .host, .wort, .boot] P := K.mono rfl
  unfold State.fillSlot
  repeat' first
    | with_reducible assumption
    | intro _
    | with_reducible apply State.setLaser_keeps K0
    | with_reducible apply State.slotDark_keeps K1
    | with_reducible refine ite_keeps ?_ ?_
    | split
    | with_reducible apply K.lit
    | exact Or.inl (by decide)
    | exact Or.inr rfl

theorem State.calibrate_keeps (K : Keeps [.free, .out, .regs, .mem, .core, .eng, .upd, .swm, .cap, .lp, .log, .fab, .opt, .host, .wort, .boot] P) {s : State} (b : Nat) (bad : List (Fin 8 × Fin 35)) (slots : List Nat) (hs : P s) : P (State.calibrate s b bad slots) := by
  have K0 : Keeps [.regs, .opt, .boot] P := K.mono rfl
  have K1 : Keeps [.free, .out, .regs, .mem, .core, .eng, .upd, .swm, .cap, .lp, .log, .fab, .opt, .host, .wort, .boot] P := K.mono rfl
  have K2 : Keeps [.regs] P := K.mono rfl
  unfold State.calibrate
  repeat' first
    | with_reducible assumption
    | intro _
    | with_reducible apply State.laserRetire_keeps K0
    | with_reducible apply State.fillSlot_keeps K1
    | with_reducible apply State.lsrBank_keeps K2
    | with_reducible refine ite_keeps ?_ ?_
    | with_reducible refine ite_fst_keeps ?_ ?_
    | with_reducible apply foldl_fst_keeps
    | with_reducible apply foldl_keeps

theorem State.sparesReady_keeps (K : Keeps [.regs, .opt] P) {s : State} (b : Nat) (hs : P s) : P (State.sparesReady s b) := by
  have K0 : Keeps [.opt] P := K.mono rfl
  have K1 : Keeps [.regs] P := K.mono rfl
  unfold State.sparesReady
  repeat' first
    | with_reducible assumption
    | intro _
    | with_reducible apply State.setLaser_keeps K0
    | with_reducible apply State.lsrBank_keeps K1
    | with_reducible refine ite_keeps ?_ ?_
    | with_reducible refine ite_fst_keeps ?_ ?_
    | with_reducible apply foldl_fst_keeps
    | with_reducible apply foldl_keeps

theorem State.phase1_keeps (K : Keeps [.free, .out, .regs, .mem, .core, .eng, .upd, .swm, .cap, .lp, .log, .fab, .opt, .host, .wort, .boot] P) {s : State} (r : PhaseResult) (hs : P s) : P (State.phase1 s r) := by
  have K0 : Keeps [.out, .regs, .log] P := K.mono rfl
  have K1 : Keeps [.regs] P := K.mono rfl
  have K2 : Keeps [.free, .out, .regs, .mem, .core, .eng, .upd, .swm, .cap, .lp, .log, .fab, .opt, .host, .wort, .boot] P := K.mono rfl
  unfold State.phase1
  repeat' first
    | with_reducible assumption
    | intro _
    | with_reducible apply State.bootStop_keeps K0
    | with_reducible apply State.fset_keeps K1
    | with_reducible apply State.calibrate_keeps K2
    | with_reducible refine ite_keeps ?_ ?_
    | with_reducible refine ite_fst_keeps ?_ ?_
    | with_reducible apply foldl_fst_keeps
    | with_reducible apply foldl_keeps

theorem State.bankBad_keeps (K : Keeps [.free, .out, .regs, .mem, .core, .eng, .upd, .swm, .cap, .lp, .log, .fab, .host, .wort, .boot] P) {s : State} (die : Nat) (k : Nat) (hs : P s) : P (State.bankBad s die k) := by
  have K0 : Keeps [.free, .out, .regs, .mem, .core, .eng, .upd, .swm, .cap, .lp, .log, .fab, .host, .wort, .boot] P := K.mono rfl
  have K1 : Keeps [.regs, .boot] P := K.mono rfl
  unfold State.bankBad
  repeat' first
    | with_reducible assumption
    | intro _
    | with_reducible apply State.bankTakeover_keeps K0
    | with_reducible apply State.journal_keeps K1
    | with_reducible refine ite_keeps ?_ ?_
    | split
    | with_reducible apply K.lit
    | exact Or.inl (by decide)
    | exact Or.inr rfl

theorem State.chanBad_keeps (K : Keeps [.free, .out, .regs, .mem, .core, .eng, .upd, .swm, .cap, .lp, .log, .fab, .host, .wort, .boot] P) {s : State} (die : Nat) (c : Nat) (hs : P s) : P (State.chanBad s die c) := by
  have K0 : Keeps [.regs] P := K.mono rfl
  have K1 : Keeps [.regs, .boot] P := K.mono rfl
  have K2 : Keeps [.log] P := K.mono rfl
  have K3 : Keeps [.free, .out, .regs, .mem, .core, .eng, .upd, .swm, .cap, .lp, .log, .fab, .host, .wort, .boot] P := K.mono rfl
  unfold State.chanBad
  repeat' first
    | with_reducible assumption
    | intro _
    | with_reducible apply State.fsetBit_keeps K0
    | with_reducible apply State.fset_keeps K0
    | with_reducible apply State.journal_keeps K1
    | with_reducible apply State.dieRec_keeps K2
    | with_reducible apply State.mapOut_keeps K3
    | with_reducible refine ite_keeps ?_ ?_

theorem State.memUp_keeps (K : Keeps [.free, .out, .regs, .mem, .core, .eng, .upd, .swm, .cap, .lp, .log, .fab, .host, .wort, .boot] P) {s : State} (d : Nat) (hs : P s) : P (State.memUp s d) := by
  have K0 : Keeps [.regs] P := K.mono rfl
  have K1 : Keeps [.free, .out, .regs, .mem, .core, .eng, .upd, .swm, .cap, .lp, .log, .fab, .host, .wort, .boot] P := K.mono rfl
  have K2 : Keeps [.mem, .eng] P := K.mono rfl
  have K3 : Keeps [.mem, .lp] P := K.mono rfl
  unfold State.memUp
  repeat' first
    | with_reducible assumption
    | intro _
    | with_reducible apply State.fsetBit_keeps K0
    | with_reducible apply State.fset_keeps K0
    | with_reducible apply State.mapOutAll_keeps K1
    | with_reducible apply State.zeroSram_keeps K2
    | with_reducible apply State.zeroLpddr_keeps K3
    | with_reducible apply State.recap_keeps K0
    | with_reducible refine ite_keeps ?_ ?_
    | with_reducible refine ite_fst_keeps ?_ ?_
    | with_reducible apply foldl_fst_keeps
    | with_reducible apply foldl_keeps

theorem State.stagingFlush_keeps (K : Keeps [.regs, .log, .boot] P) {s : State} (hs : P s) : P (State.stagingFlush s) := by
  have K0 : Keeps [.regs, .log] P := K.mono rfl
  unfold State.stagingFlush
  repeat' first
    | with_reducible assumption
    | intro _
    | with_reducible apply State.slotPut_keeps K0
    | with_reducible refine ite_keeps ?_ ?_
    | with_reducible refine ite_fst_keeps ?_ ?_
    | with_reducible apply foldl_fst_keeps
    | with_reducible apply foldl_keeps
    | with_reducible apply K.lit
    | exact Or.inl (by decide)
    | exact Or.inr rfl

theorem State.phase2_keeps (K : Keeps [.free, .out, .regs, .mem, .core, .eng, .upd, .swm, .cap, .lp, .log, .fab, .host, .wort, .boot] P) {s : State} (r : PhaseResult) (hs : P s) : P (State.phase2 s r) := by
  have K0 : Keeps [.free, .out, .regs, .mem, .core, .eng, .upd, .swm, .cap, .lp, .log, .fab, .host, .wort, .boot] P := K.mono rfl
  have K1 : Keeps [.regs] P := K.mono rfl
  have K2 : Keeps [.regs, .log, .boot] P := K.mono rfl
  unfold State.phase2
  repeat' first
    | with_reducible assumption
    | intro _
    | with_reducible apply State.memUp_keeps K0
    | with_reducible apply State.fset_keeps K1
    | with_reducible apply State.chanBad_keeps K0
    | with_reducible apply State.bankBad_keeps K0
    | with_reducible apply State.stagingFlush_keeps K2
    | with_reducible refine ite_keeps ?_ ?_
    | with_reducible refine ite_fst_keeps ?_ ?_
    | with_reducible apply foldl_fst_keeps
    | with_reducible apply foldl_keeps
    | with_reducible apply K.lit
    | exact Or.inl (by decide)
    | exact Or.inr rfl

theorem State.phase3_keeps (K : Keeps [.free, .out, .regs, .mem, .core, .eng, .upd, .swm, .cap, .lp, .log, .fab, .opt, .host, .wort, .boot] P) {s : State} (r : PhaseResult) (hs : P s) : P (State.phase3 s r) := by
  have K0 : Keeps [.free, .out, .regs, .mem, .core, .eng, .upd, .swm, .cap, .lp, .log, .fab, .opt, .host, .wort, .boot] P := K.mono rfl
  have K1 : Keeps [.regs, .opt] P := K.mono rfl
  have K2 : Keeps [.regs] P := K.mono rfl
  unfold State.phase3
  repeat' first
    | with_reducible assumption
    | intro _
    | with_reducible apply State.calibrate_keeps K0
    | with_reducible apply State.sparesReady_keeps K1
    | with_reducible apply State.fset_keeps K2
    | with_reducible refine ite_keeps ?_ ?_
    | with_reducible refine ite_fst_keeps ?_ ?_
    | with_reducible apply foldl_fst_keeps
    | with_reducible apply foldl_keeps

theorem State.arraysUp_keeps (K : Keeps [.free, .out, .regs, .mem, .core, .eng, .upd, .swm, .cap, .lp, .log, .fab, .host, .wort, .boot] P) {s : State} (d : Nat) (bad : List Nat) (hs : P s) : P (State.arraysUp s d bad) := by
  have K0 : Keeps [.regs] P := K.mono rfl
  have K1 : Keeps [.log] P := K.mono rfl
  have K2 : Keeps [.regs, .boot] P := K.mono rfl
  have K3 : Keeps [.regs, .log, .boot] P := K.mono rfl
  have K4 : Keeps [.free, .out, .regs, .mem, .core, .eng, .upd, .swm, .cap, .lp, .log, .fab, .host, .wort, .boot] P := K.mono rfl
  unfold State.arraysUp
  repeat' first
    | with_reducible assumption
    | intro _
    | with_reducible apply State.setArrSt_keeps K0
    | with_reducible apply State.dieRec_keeps K1
    | with_reducible apply State.journal_keeps K2
    | with_reducible apply State.fset_keeps K0
    | with_reducible apply State.arrPlace_keeps K3
    | with_reducible apply State.arrFlags_keeps K0
    | with_reducible apply State.recap_keeps K0
    | with_reducible apply State.dieFailed_keeps K4
    | with_reducible refine ite_keeps ?_ ?_
    | with_reducible refine ite_fst_keeps ?_ ?_
    | split
    | with_reducible apply foldl_fst_keeps
    | with_reducible apply foldl_keeps

theorem State.laneBad_keeps (K : Keeps [.free, .out, .regs, .mem, .core, .eng, .upd, .swm, .cap, .lp, .log, .fab, .host, .wort, .boot] P) {s : State} (d : Nat) (g : Nat) (hs : P s) : P (State.laneBad s d g) := by
  have K0 : Keeps [.regs] P := K.mono rfl
  have K1 : Keeps [.log] P := K.mono rfl
  have K2 : Keeps [.regs, .boot] P := K.mono rfl
  have K3 : Keeps [.free, .out, .regs, .mem, .core, .eng, .upd, .swm, .cap, .lp, .log, .fab, .host, .wort, .boot] P := K.mono rfl
  unfold State.laneBad
  repeat' first
    | with_reducible assumption
    | intro _
    | with_reducible apply State.fset_keeps K0
    | with_reducible apply State.dieRec_keeps K1
    | with_reducible apply State.journal_keeps K2
    | with_reducible apply State.dieFailed_keeps K3
    | with_reducible refine ite_keeps ?_ ?_
    | with_reducible apply K.lit
    | exact Or.inl (by decide)
    | exact Or.inr rfl

theorem State.resetEnd_keeps (K : Keeps [.out, .regs, .log, .boot] P) {s : State} (hs : P s) : P (State.resetEnd s) := by
  have K0 : Keeps [.out, .regs] P := K.mono rfl
  have K1 : Keeps [.out, .regs, .log] P := K.mono rfl
  unfold State.resetEnd
  repeat' first
    | with_reducible assumption
    | intro _
    | with_reducible apply State.resetOk_keeps K0
    | with_reducible apply State.resetRec_keeps K1
    | with_reducible refine ite_keeps ?_ ?_
    | with_reducible apply K.lit
    | exact Or.inl (by decide)
    | exact Or.inr rfl

theorem State.combStream_keeps (K : Keeps [.boot] P) {s : State} (hs : P s) : P (State.combStream s) := by
  unfold State.combStream
  repeat' first
    | with_reducible assumption
    | intro _
    | with_reducible refine ite_keeps ?_ ?_
    | with_reducible apply K.lit
    | exact Or.inl (by decide)
    | exact Or.inr rfl

theorem State.combCores_keeps (K : Keeps [.free, .out, .regs, .mem, .core, .eng, .upd, .swm, .cap, .lp, .log, .fab, .host, .wort, .boot] P) {s : State} (d : Nat) (recs : List (CoreId × CellW × CellW)) (hs : P s) : P (State.combCores s d recs) := by
  have K0 : Keeps [.free, .out, .regs, .mem, .core, .eng, .upd, .swm, .cap, .lp, .log, .fab, .host, .wort, .boot] P := K.mono rfl
  unfold State.combCores
  repeat' first
    | with_reducible assumption
    | intro _
    | with_reducible apply State.clTakeover_keeps K0
    | with_reducible refine ite_keeps ?_ ?_
    | with_reducible refine ite_fst_keeps ?_ ?_
    | split
    | with_reducible apply foldl_fst_keeps
    | with_reducible apply foldl_keeps
    | with_reducible apply K.lit
    | exact Or.inl (by decide)
    | exact Or.inr rfl

theorem State.combZero_keeps (K : Keeps [.mem, .eng, .boot] P) {s : State} (die : Nat) (hs : P s) : P (State.combZero s die) := by
  unfold State.combZero
  split
  · exact hs
  · extract_lets lo mem word
    have h1 : P { s with mem := mem } := K.memDrop (by decide) _ hs
    exact K.boot (by decide) _ (K.eng (by decide) { s.eng with sramErr := s.eng.sramErr.drop word } h1)

theorem State.combLoad_keeps (K : Keeps [.free, .out, .regs, .mem, .core, .eng, .upd, .swm, .cap, .lp, .log, .fab, .host, .wort, .boot] P) {s : State} (recs : List (CoreId × CellW × CellW)) (hs : P s) : P (State.combLoad s recs) := by
  have K0 : Keeps [.free, .out, .regs, .mem, .core, .eng, .upd, .swm, .cap, .lp, .log, .fab, .host, .wort, .boot] P := K.mono rfl
  have K1 : Keeps [.boot] P := K.mono rfl
  have K2 : Keeps [.mem, .eng, .boot] P := K.mono rfl
  unfold State.combLoad
  repeat' first
    | with_reducible assumption
    | intro _
    | with_reducible apply State.combCores_keeps K0
    | with_reducible apply State.combStream_keeps K1
    | with_reducible apply State.combZero_keeps K2
    | with_reducible refine ite_keeps ?_ ?_
    | with_reducible refine ite_fst_keeps ?_ ?_
    | with_reducible apply foldl_fst_keeps
    | with_reducible apply foldl_keeps

theorem State.phase4_keeps (K : Keeps [.free, .out, .regs, .mem, .core, .eng, .upd, .swm, .cap, .lp, .log, .fab, .host, .wort, .boot] P) {s : State} (r : PhaseResult) (hs : P s) : P (State.phase4 s r) := by
  have K0 : Keeps [.free, .out, .regs, .mem, .core, .eng, .upd, .swm, .cap, .lp, .log, .fab, .host, .wort, .boot] P := K.mono rfl
  have K1 : Keeps [.regs, .log, .boot] P := K.mono rfl
  have K2 : Keeps [.out, .regs, .log] P := K.mono rfl
  have K3 : Keeps [.out, .regs] P := K.mono rfl
  have K4 : Keeps [.regs] P := K.mono rfl
  have K5 : Keeps [.out, .regs, .log, .host] P := K.mono rfl
  have K6 : Keeps [.out, .regs, .log, .boot] P := K.mono rfl
  unfold State.phase4
  repeat' first
    | with_reducible assumption
    | intro _
    | with_reducible apply State.arraysUp_keeps K0
    | with_reducible apply State.takeoverStart_keeps K0
    | with_reducible apply State.takeoverTry_keeps K0
    | with_reducible apply State.laneBad_keeps K0
    | with_reducible apply State.mveBad_keeps K1
    | with_reducible apply State.katUp_keeps K0
    | with_reducible apply State.hiveRec_keeps K2
    | with_reducible apply State.dieReview_keeps K3
    | with_reducible apply State.combLoad_keeps K0
    | with_reducible apply State.bootStop_keeps K2
    | with_reducible apply State.fset_keeps K4
    | with_reducible apply State.tryReady_keeps K5
    | with_reducible apply State.resetEnd_keeps K6
    | with_reducible apply State.storeStart_keeps K4
    | with_reducible refine ite_keeps ?_ ?_
    | with_reducible refine ite_fst_keeps ?_ ?_
    | with_reducible apply foldl_fst_keeps
    | with_reducible apply foldl_keeps

theorem State.phaseEnd_keeps (K : Keeps [.free, .out, .regs, .mem, .core, .eng, .upd, .swm, .cap, .lp, .log, .fab, .opt, .host, .wort, .boot, .saf] P) {s : State} (r : PhaseResult) (hs : P s) : P (State.phaseEnd s r) := by
  have K0 : Keeps [.regs] P := K.mono rfl
  have K1 : Keeps [.out, .regs, .log] P := K.mono rfl
  have K2 : Keeps [.out, .regs, .log, .fab, .opt, .boot, .saf] P := K.mono rfl
  have K3 : Keeps [.free, .out, .regs, .mem, .core, .eng, .upd, .swm, .cap, .lp, .log, .fab, .opt, .host, .wort, .boot] P := K.mono rfl
  have K4 : Keeps [.free, .out, .regs, .mem, .core, .eng, .upd, .swm, .cap, .lp, .log, .fab, .host, .wort, .boot] P := K.mono rfl
  unfold State.phaseEnd
  repeat' first
    | with_reducible assumption
    | intro _
    | with_reducible apply State.fset_keeps K0
    | with_reducible apply State.bootStop_keeps K1
    | with_reducible apply State.phase0_keeps K2
    | with_reducible apply State.phase1_keeps K3
    | with_reducible apply State.phase2_keeps K4
    | with_reducible apply State.phase3_keeps K3
    | with_reducible apply State.phase4_keeps K4
    | with_reducible refine ite_keeps ?_ ?_

theorem State.wireResult_keeps (K : Keeps [.out, .regs] P) {s : State} (res : Nat) (reason : Nat) (hs : P s) : P (State.wireResult s res reason) := by
  have K0 : Keeps [.regs] P := K.mono rfl
  have K1 : Keeps [.out, .regs] P := K.mono rfl
  unfold State.wireResult
  repeat' first
    | with_reducible assumption
    | intro _
    | with_reducible apply State.fset_keeps K0
    | with_reducible apply State.isum_keeps K1

theorem State.rediscover_keeps (K : Keeps [.out, .regs, .log, .fab] P) {s : State} (p : Nat) (hs : P s) : P (State.rediscover s p) := by
  have K0 : Keeps [.fab] P := K.mono rfl
  have K1 : Keeps [.regs] P := K.mono rfl
  have K2 : Keeps [.out, .regs, .log] P := K.mono rfl
  have K3 : Keeps [.out, .fab] P := K.mono rfl
  unfold State.rediscover
  repeat' first
    | with_reducible assumption
    | intro _
    | with_reducible apply State.setLink_keeps K0
    | with_reducible apply State.setPort_keeps K1
    | with_reducible apply State.setLsub_keeps K1
    | with_reducible apply State.setTopo_keeps K2
    | with_reducible apply State.sendIdentity_keeps K3
    | with_reducible refine ite_keeps ?_ ?_

theorem State.wireTake_keeps (K : Keeps [.out, .regs, .log, .fab, .host, .boot] P) {s : State} (t : Bytes) (hs : P s) : P (State.wireTake s t) := by
  have K0 : Keeps [.regs] P := K.mono rfl
  have K1 : Keeps [.out, .regs, .log, .fab] P := K.mono rfl
  have K2 : Keeps [.out, .regs] P := K.mono rfl
  have K3 : Keeps [.out, .regs, .log, .host] P := K.mono rfl
  unfold State.wireTake
  repeat' first
    | with_reducible assumption
    | intro _
    | with_reducible apply State.fset_keeps K0
    | with_reducible apply State.rediscover_keeps K1
    | with_reducible apply State.wireResult_keeps K2
    | with_reducible apply State.storeStart_keeps K0
    | with_reducible apply State.tryReady_keeps K3
    | with_reducible refine ite_keeps ?_ ?_
    | with_reducible refine ite_fst_keeps ?_ ?_
    | with_reducible apply foldl_fst_keeps
    | with_reducible apply foldl_keeps
    | with_reducible apply K.lit
    | exact Or.inl (by decide)
    | exact Or.inr rfl

theorem State.wireLoad_keeps (K : Keeps [.out, .regs, .log, .fab, .host, .boot] P) {s : State} (fn : Nat) (t : Bytes) (hs : P s) : P (State.wireLoad s fn t) := by
  have K0 : Keeps [.out, .regs, .log] P := K.mono rfl
  have K1 : Keeps [.out, .regs, .log, .fab] P := K.mono rfl
  have K2 : Keeps [.out, .regs] P := K.mono rfl
  have K3 : Keeps [.out, .regs, .log, .fab, .host, .boot] P := K.mono rfl
  unfold State.wireLoad
  repeat' first
    | with_reducible assumption
    | intro _
    | with_reducible apply State.refuseReg_keeps K0
    | with_reducible apply State.dmaBlock_keeps K1
    | with_reducible apply State.wireResult_keeps K2
    | with_reducible apply State.refuseItem_keeps K0
    | with_reducible apply State.wireTake_keeps K3
    | with_reducible refine ite_keeps ?_ ?_
    | split

/-! BootCmds -/

theorem execCoreReset_keeps (K : Keeps [.out, .regs, .mem, .core, .eng, .upd, .swm, .cap, .lp, .log, .fab, .host, .wort, .boot] P) (core : CoreId) (kat : Bool) {s : State} (hs : P s) : ∃ t, execCoreReset core s kat = .next t ∧ P t := by
  have K0 : Keeps [.out, .regs, .mem, .core, .eng, .upd, .swm, .cap, .lp, .log, .fab, .host, .wort, .boot] P := K.mono rfl
  refine ⟨_, rfl, ?_⟩
  repeat' first
    | with_reducible assumption
    | intro _
    | with_reducible apply State.coreReset_keeps K0

theorem execClusterReset_keeps (K : Keeps [.out, .regs, .mem, .core, .eng, .upd, .swm, .cap, .lp, .log, .fab, .host, .wort, .boot] P) (die : DieId) (cluster : Fin 32) (selftest : Bool) (pass : Bool) (kat : Bool) {s : State} (hs : P s) : ∃ t, execClusterReset die cluster selftest pass s kat = .next t ∧ P t := by
  have K0 : Keeps [.out, .regs, .mem, .core, .eng, .upd, .swm, .cap, .lp, .log, .fab, .host, .wort, .boot] P := K.mono rfl
  refine ⟨_, rfl, ?_⟩
  repeat' first
    | with_reducible assumption
    | intro _
    | with_reducible apply State.clusterReset_keeps K0

theorem execPartitionReset_keeps (K : Keeps [.out, .regs, .mem, .core, .eng, .smp, .upd, .swm, .cap, .lp, .log, .fab, .host, .wort, .boot] P) (p : PartId) (kat : List KatUnit) {s : State} (hs : P s) : ∃ t, execPartitionReset p s kat = .next t ∧ P t := by
  have K0 : Keeps [.out, .regs, .mem, .core, .eng, .smp, .upd, .swm, .cap, .lp, .log, .fab, .host, .wort, .boot] P := K.mono rfl
  refine ⟨_, rfl, ?_⟩
  repeat' first
    | with_reducible assumption
    | intro _
    | with_reducible apply State.partReset_keeps K0

theorem execModuleReset_keeps (K : Keeps [.free, .out, .regs, .mem, .core, .eng, .smp, .upd, .swm, .cap, .lp, .log, .fab, .opt, .host, .wort, .boot, .saf, .pwr, .tap, .tim] P) (cold : Bool) {s : State} (hs : P s) : ∃ t, execModuleReset cold s = .next t ∧ P t := by
  have K0 : Keeps [.out, .regs, .log, .boot] P := K.mono rfl
  have K1 : Keeps [.free, .out, .regs, .mem, .core, .eng, .smp, .upd, .swm, .cap, .lp, .log, .fab, .opt, .host, .wort, .boot, .saf, .pwr, .tap, .tim] P := K.mono rfl
  refine ⟨_, rfl, ?_⟩
  repeat' first
    | with_reducible assumption
    | intro _
    | with_reducible apply State.resetGo_keeps K0
    | with_reducible apply State.moduleReset_keeps K1

theorem execPowerOn_keeps (K : Keeps [.regs, .boot, .pwr, .tim] P) {s : State} (hs : P s) : ∃ t, execPowerOn s = .next t ∧ P t := by
  have K0 : Keeps [.regs, .boot, .pwr, .tim] P := K.mono rfl
  refine ⟨_, rfl, ?_⟩
  repeat' first
    | with_reducible assumption
    | intro _
    | with_reducible apply State.powerOn_keeps K0
    | with_reducible refine ite_keeps ?_ ?_

theorem execBringupPhaseEnd_keeps (K : Keeps [.free, .out, .regs, .mem, .core, .eng, .upd, .swm, .cap, .lp, .log, .fab, .opt, .host, .wort, .boot, .saf] P) (r : PhaseResult) {s : State} (hs : P s) : ∃ t, execBringupPhaseEnd r s = .next t ∧ P t := by
  have K0 : Keeps [.free, .out, .regs, .mem, .core, .eng, .upd, .swm, .cap, .lp, .log, .fab, .opt, .host, .wort, .boot, .saf] P := K.mono rfl
  refine ⟨_, rfl, ?_⟩
  repeat' first
    | with_reducible assumption
    | intro _
    | with_reducible apply State.phaseEnd_keeps K0

theorem execFwBootFallback_keeps (K : Keeps [.boot] P) {s : State} (hs : P s) : ∃ t, execFwBootFallback s = .next t ∧ P t := by
  refine ⟨_, rfl, ?_⟩
  repeat' first
    | with_reducible assumption
    | intro _
    | with_reducible refine ite_keeps ?_ ?_
    | with_reducible apply K.lit
    | exact Or.inl (by decide)
    | exact Or.inr rfl

theorem execPeerWaitExpire_keeps (K : Keeps [.boot] P) {s : State} (hs : P s) : ∃ t, execPeerWaitExpire s = .next t ∧ P t := by
  refine ⟨_, rfl, ?_⟩
  repeat' first
    | with_reducible assumption
    | intro _
    | with_reducible refine ite_keeps ?_ ?_
    | with_reducible apply K.lit
    | exact Or.inl (by decide)
    | exact Or.inr rfl

theorem execWireLoad_keeps (K : Keeps [.out, .regs, .log, .fab, .host, .boot] P) (fn : FnId) (table : Bytes) {s : State} (hs : P s) : ∃ t, execWireLoad fn table s = .next t ∧ P t := by
  have K0 : Keeps [.out, .regs, .log, .fab, .host, .boot] P := K.mono rfl
  refine ⟨_, rfl, ?_⟩
  repeat' first
    | with_reducible assumption
    | intro _
    | with_reducible apply State.wireLoad_keeps K0

theorem execRetainStore_keeps (K : Keeps [.free, .out, .regs, .log, .boot] P) (readBackOk : Bool) {s : State} (hs : P s) : ∃ t, execRetainStore readBackOk s = .next t ∧ P t := by
  have K0 : Keeps [.free, .out, .regs, .log, .boot] P := K.mono rfl
  refine ⟨_, rfl, ?_⟩
  repeat' first
    | with_reducible assumption
    | intro _
    | with_reducible apply State.storeEnd_keeps K0

theorem State.fwGo_keeps (K : Keeps [.out, .regs, .log, .fab, .boot] P) {s : State} (signatureOk : Bool) (seq : Nat) (version : Nat) (hs : P s) : P (State.fwGo s signatureOk seq version) := by
  have K0 : Keeps [.out, .regs, .log] P := K.mono rfl
  have K1 : Keeps [.out, .regs, .log, .fab] P := K.mono rfl
  have K2 : Keeps [.regs] P := K.mono rfl
  have K3 : Keeps [.out, .regs] P := K.mono rfl
  unfold State.fwGo
  repeat' first
    | with_reducible assumption
    | intro _
    | with_reducible apply State.refuseReg_keeps K0
    | with_reducible apply State.dmaBlock_keeps K1
    | with_reducible apply State.fset_keeps K2
    | with_reducible apply State.isum_keeps K3
    | with_reducible refine ite_keeps ?_ ?_
    | with_reducible apply K.lit
    | exact Or.inl (by decide)
    | exact Or.inr rfl

theorem execFwWrite_keeps (K : Keeps [.out, .regs, .log, .fab, .boot] P) (signatureOk : Bool) (seq : BitVec 32) (version : BitVec 32) {s : State} (hs : P s) : ∃ t, execFwWrite signatureOk seq version s = .next t ∧ P t := by
  have K0 : Keeps [.out, .regs, .log, .fab, .boot] P := K.mono rfl
  refine ⟨_, rfl, ?_⟩
  repeat' first
    | with_reducible assumption
    | intro _
    | with_reducible apply State.fwGo_keeps K0

/-! CapCmds -/

theorem execCapOpen_keeps (K : Keeps [.free, .out, .regs, .mem, .core, .eng, .upd, .swm, .cap, .lp, .log, .fab, .host, .wort, .boot] P) (core : CoreId) {s : State} (hs : P s) : ∃ t, execCapOpen core s = .next t ∧ P t := by
  have K0 : Keeps [.free, .out, .regs, .mem, .core, .eng, .upd, .swm, .cap, .lp, .log, .fab, .host, .wort, .boot] P := K.mono rfl
  have K1 : Keeps [.regs, .core, .log, .host] P := K.mono rfl
  have K2 : Keeps [.cap] P := K.mono rfl
  have K3 : Keeps [.regs] P := K.mono rfl
  have K4 : Keeps [.regs, .core, .host] P := K.mono rfl
  refine ⟨_, rfl, ?_⟩
  repeat' first
    | with_reducible assumption
    | intro _
    | with_reducible apply State.issue_keeps K0
    | with_reducible apply State.refuseOr_keeps K1
    | with_reducible apply State.setDieCap_keeps K2
    | with_reducible apply State.setCapState_keeps K3
    | with_reducible apply State.fset_keeps K3
    | with_reducible apply State.completeOK_keeps K4

theorem execCapVote_keeps (K : Keeps [.free, .out, .regs, .mem, .core, .eng, .upd, .swm, .cap, .lp, .log, .fab, .host, .wort, .boot] P) (core : CoreId) {s : State} (hs : P s) : ∃ t, execCapVote core s = .next t ∧ P t := by
  have K0 : Keeps [.free, .out, .regs, .mem, .core, .eng, .upd, .swm, .cap, .lp, .log, .fab, .host, .wort, .boot] P := K.mono rfl
  have K1 : Keeps [.regs, .core, .log, .host] P := K.mono rfl
  have K2 : Keeps [.cap] P := K.mono rfl
  have K3 : Keeps [.out, .regs, .mem, .core, .eng, .upd, .swm, .cap, .lp, .log, .fab, .host, .wort, .boot] P := K.mono rfl
  refine ⟨_, rfl, ?_⟩
  repeat' first
    | with_reducible assumption
    | intro _
    | with_reducible apply State.issue_keeps K0
    | with_reducible apply State.refuseOr_keeps K1
    | with_reducible apply State.setDieCap_keeps K2
    | with_reducible apply State.voteFailed_keeps K3
    | with_reducible apply State.tryVote_keeps K3
    | with_reducible refine ite_keeps ?_ ?_

theorem State.coordAbort_keeps (K : Keeps [.out, .regs, .mem, .core, .eng, .upd, .swm, .cap, .lp, .log, .fab, .host, .wort, .boot] P) {s : State} (g : Group) (k : CapKey) (from_ : Nat) (hs : P s) : P (State.coordAbort s g k from_) := by
  have K0 : Keeps [.out, .regs] P := K.mono rfl
  have K1 : Keeps [.out, .regs, .mem, .core, .eng, .upd, .swm, .cap, .lp, .log, .fab, .host, .wort, .boot] P := K.mono rfl
  have K2 : Keeps [.regs] P := K.mono rfl
  unfold State.coordAbort
  repeat' first
    | with_reducible assumption
    | intro _
    | with_reducible apply State.coordLate_keeps K0
    | with_reducible apply State.coordOld_keeps K0
    | with_reducible apply State.coordSend_keeps K1
    | with_reducible apply State.finc_keeps K2
    | with_reducible refine ite_keeps ?_ ?_
    | split

theorem execCapAbort_keeps (K : Keeps [.free, .out, .regs, .mem, .core, .eng, .upd, .swm, .cap, .lp, .log, .fab, .host, .wort, .boot] P) (core : CoreId) {s : State} (hs : P s) : ∃ t, execCapAbort core s = .next t ∧ P t := by
  have K0 : Keeps [.free, .out, .regs, .mem, .core, .eng, .upd, .swm, .cap, .lp, .log, .fab, .host, .wort, .boot] P := K.mono rfl
  have K1 : Keeps [.regs, .core, .log, .host] P := K.mono rfl
  have K2 : Keeps [.regs, .core, .host] P := K.mono rfl
  have K3 : Keeps [.out, .regs, .mem, .core, .eng, .upd, .swm, .cap, .lp, .log, .fab, .host, .wort, .boot] P := K.mono rfl
  have K4 : Keeps [.out] P := K.mono rfl
  refine ⟨_, rfl, ?_⟩
  repeat' first
    | with_reducible assumption
    | intro _
    | with_reducible apply State.issue_keeps K0
    | with_reducible apply State.refuseOr_keeps K1
    | with_reducible apply State.completeRaw_keeps K2
    | with_reducible apply State.coordAbort_keeps K3
    | with_reducible apply State.sendCapv_keeps K4
    | with_reducible refine ite_keeps ?_ ?_
    | split
    | with_reducible apply K.lit
    | exact Or.inl (by decide)
    | exact Or.inr rfl

theorem execCapSeal_keeps (K : Keeps [.free, .out, .regs, .mem, .core, .eng, .upd, .swm, .cap, .lp, .log, .fab, .host, .wort, .boot] P) (core : CoreId) {s : State} (hs : P s) : ∃ t, execCapSeal core s = .next t ∧ P t := by
  have K0 : Keeps [.free, .out, .regs, .mem, .core, .eng, .upd, .swm, .cap, .lp, .log, .fab, .host, .wort, .boot] P := K.mono rfl
  have K1 : Keeps [.regs, .core, .log, .host] P := K.mono rfl
  have K2 : Keeps [.regs, .core, .host] P := K.mono rfl
  have K3 : Keeps [.cap] P := K.mono rfl
  have K4 : Keeps [.out, .regs, .log] P := K.mono rfl
  have K5 : Keeps [.out, .regs, .mem, .core, .eng, .upd, .swm, .cap, .lp, .log, .fab, .host, .wort, .boot] P := K.mono rfl
  refine ⟨_, rfl, ?_⟩
  repeat' first
    | with_reducible assumption
    | intro _
    | with_reducible apply State.issue_keeps K0
    | with_reducible apply State.refuseOr_keeps K1
    | with_reducible apply State.completeRaw_keeps K2
    | with_reducible apply State.completeOK_keeps K2
    | with_reducible apply State.setWit_keeps K3
    | with_reducible apply State.hiveRec_keeps K4
    | with_reducible apply State.hiveDecide_keeps K5
    | with_reducible refine ite_keeps ?_ ?_
    | split

theorem State.capvCell_keeps (K : Keeps [.out, .regs, .log, .fab] P) {s : State} (c : CellW) (ck : Nat) (f : State → Group → CapKey → State) (hs : P s) (hf : ∀ (x0 : State) (x1 : Group) (x2 : CapKey), P x0 → P (f x0 x1 x2)) : P (State.capvCell s c ck f) := by
  have K0 : Keeps [] P := K.mono rfl
  have K1 : Keeps [.out, .regs, .log, .fab] P := K.mono rfl
  have K2 : Keeps [.out] P := K.mono rfl
  unfold State.capvCell
  repeat' first
    | with_reducible assumption
    | intro _
    | with_reducible apply State.hiveCell_keeps K0
    | with_reducible apply State.dropJob_keeps K1
    | with_reducible apply State.sendCell_keeps K2
    | with_reducible refine ite_keeps ?_ ?_
    | with_reducible refine ite_fst_keeps ?_ ?_
    | split
    | with_reducible apply hf
    | with_reducible apply foldl_fst_keeps
    | with_reducible apply foldl_keeps

theorem execCapvVote_keeps (K : Keeps [.out, .regs, .mem, .core, .eng, .upd, .swm, .cap, .lp, .log, .fab, .host, .wort, .boot] P) (cell : CellW) {s : State} (hs : P s) : ∃ t, execCapvVote cell s = .next t ∧ P t := by
  have K0 : Keeps [.out, .regs, .log, .fab] P := K.mono rfl
  have K1 : Keeps [.out, .regs, .mem, .core, .eng, .upd, .swm, .cap, .lp, .log, .fab, .host, .wort, .boot] P := K.mono rfl
  have K2 : Keeps [.out, .cap] P := K.mono rfl
  refine ⟨_, rfl, ?_⟩
  repeat' first
    | with_reducible assumption
    | intro _
    | with_reducible apply State.capvCell_keeps K0
    | with_reducible apply State.coordMerge_keeps K1
    | with_reducible apply State.voteUp_keeps K2
    | with_reducible refine ite_keeps ?_ ?_

theorem execCapvVector_keeps (K : Keeps [.out, .regs, .mem, .core, .eng, .upd, .swm, .cap, .lp, .log, .fab, .host, .wort, .boot] P) (cell : CellW) {s : State} (hs : P s) : ∃ t, execCapvVector cell s = .next t ∧ P t := by
  have K0 : Keeps [.out, .regs, .log, .fab] P := K.mono rfl
  have K1 : Keeps [.out] P := K.mono rfl
  have K2 : Keeps [.cap] P := K.mono rfl
  have K3 : Keeps [.out, .regs, .mem, .core, .eng, .upd, .swm, .cap, .lp, .log, .fab, .host, .wort, .boot] P := K.mono rfl
  refine ⟨_, rfl, ?_⟩
  repeat' first
    | with_reducible assumption
    | intro _
    | with_reducible apply State.capvCell_keeps K0
    | with_reducible apply State.sendCell_keeps K1
    | with_reducible apply State.setHiveCap_keeps K2
    | with_reducible apply State.hiveDecide_keeps K3
    | with_reducible refine ite_keeps ?_ ?_
    | with_reducible refine ite_fst_keeps ?_ ?_
    | split
    | with_reducible apply foldl_fst_keeps
    | with_reducible apply foldl_keeps
    | extract_lets

theorem execCapvWitnessVector_keeps (K : Keeps [.out, .regs, .cap, .log, .fab] P) (cell : CellW) {s : State} (hs : P s) : ∃ t, execCapvWitnessVector cell s = .next t ∧ P t := by
  have K0 : Keeps [.out, .regs, .log, .fab] P := K.mono rfl
  have K1 : Keeps [.out] P := K.mono rfl
  have K2 : Keeps [.cap] P := K.mono rfl
  refine ⟨_, rfl, ?_⟩
  repeat' first
    | with_reducible assumption
    | intro _
    | with_reducible apply State.capvCell_keeps K0
    | with_reducible apply State.sendCapv_keeps K1
    | with_reducible apply State.setWit_keeps K2
    | with_reducible refine ite_keeps ?_ ?_
    | split
    | extract_lets

theorem execCapvWitnessAck_keeps (K : Keeps [.out, .regs, .mem, .core, .eng, .upd, .swm, .cap, .lp, .log, .fab, .host, .wort, .boot] P) (cell : CellW) {s : State} (hs : P s) : ∃ t, execCapvWitnessAck cell s = .next t ∧ P t := by
  have K0 : Keeps [.out, .regs, .log, .fab] P := K.mono rfl
  have K1 : Keeps [.out, .regs, .mem, .core, .eng, .upd, .swm, .cap, .lp, .log, .fab, .host, .wort, .boot] P := K.mono rfl
  refine ⟨_, rfl, ?_⟩
  repeat' first
    | with_reducible assumption
    | intro _
    | with_reducible apply State.capvCell_keeps K0
    | with_reducible apply State.coordSend_keeps K1
    | with_reducible refine ite_keeps ?_ ?_
    | split

theorem execCapvAsk_keeps (K : Keeps [.out, .regs, .log, .fab] P) (cell : CellW) {s : State} (hs : P s) : ∃ t, execCapvAsk cell s = .next t ∧ P t := by
  have K0 : Keeps [.out, .regs, .log, .fab] P := K.mono rfl
  have K1 : Keeps [.out, .regs] P := K.mono rfl
  have K2 : Keeps [.regs] P := K.mono rfl
  have K3 : Keeps [.out] P := K.mono rfl
  refine ⟨_, rfl, ?_⟩
  repeat' first
    | with_reducible assumption
    | intro _
    | with_reducible apply State.capvCell_keeps K0
    | with_reducible apply State.coordOld_keeps K1
    | with_reducible apply State.finc_keeps K2
    | with_reducible apply State.sendVec_keeps K3
    | with_reducible refine ite_keeps ?_ ?_
    | split
    | extract_lets

theorem execCapvAbortRequest_keeps (K : Keeps [.out, .regs, .mem, .core, .eng, .upd, .swm, .cap, .lp, .log, .fab, .host, .wort, .boot] P) (cell : CellW) {s : State} (hs : P s) : ∃ t, execCapvAbortRequest cell s = .next t ∧ P t := by
  have K0 : Keeps [.out, .regs, .log, .fab] P := K.mono rfl
  have K1 : Keeps [.out, .regs, .mem, .core, .eng, .upd, .swm, .cap, .lp, .log, .fab, .host, .wort, .boot] P := K.mono rfl
  have K2 : Keeps [.out] P := K.mono rfl
  refine ⟨_, rfl, ?_⟩
  repeat' first
    | with_reducible assumption
    | intro _
    | with_reducible apply State.capvCell_keeps K0
    | with_reducible apply State.coordAbort_keeps K1
    | with_reducible apply State.sendCell_keeps K2
    | with_reducible refine ite_keeps ?_ ?_

theorem execVoteToExpire_keeps (K : Keeps [.out, .regs, .mem, .core, .eng, .upd, .swm, .cap, .lp, .log, .fab, .host, .wort, .boot] P) (cap : CapName) {s : State} (hs : P s) : ∃ t, execVoteToExpire cap s = .next t ∧ P t := by
  have K0 : Keeps [.out, .regs, .mem, .core, .eng, .upd, .swm, .cap, .lp, .log, .fab, .host, .wort, .boot] P := K.mono rfl
  refine ⟨_, rfl, ?_⟩
  repeat' first
    | with_reducible assumption
    | intro _
    | with_reducible apply State.coordSend_keeps K0
    | with_reducible refine ite_keeps ?_ ?_
    | split

theorem State.askNext_keeps (K : Keeps [.out, .regs, .mem, .core, .eng, .upd, .swm, .cap, .lp, .log, .fab, .host, .wort, .boot] P) {s : State} (k : CapKey) (hs : P s) : P (State.askNext s k) := by
  have K0 : Keeps [.cap] P := K.mono rfl
  have K1 : Keeps [.out, .regs, .mem, .core, .eng, .upd, .swm, .cap, .lp, .log, .fab, .host, .wort, .boot] P := K.mono rfl
  have K2 : Keeps [.out] P := K.mono rfl
  unfold State.askNext
  repeat' first
    | with_reducible assumption
    | intro _
    | with_reducible apply State.setHiveCap_keeps K0
    | with_reducible apply State.hiveDecide_keeps K1
    | with_reducible apply State.sendCapv_keeps K2
    | with_reducible refine ite_keeps ?_ ?_
    | split

theorem execCapAskTimer_keeps (K : Keeps [.out, .regs, .mem, .core, .eng, .upd, .swm, .cap, .lp, .log, .fab, .host, .wort, .boot] P) (tgt : FnId) {s : State} (hs : P s) : ∃ t, execCapAskTimer tgt s = .next t ∧ P t := by
  have K0 : Keeps [.regs] P := K.mono rfl
  have K1 : Keeps [.out, .regs, .mem, .core, .eng, .upd, .swm, .cap, .lp, .log, .fab, .host, .wort, .boot] P := K.mono rfl
  refine ⟨_, rfl, ?_⟩
  repeat' first
    | with_reducible assumption
    | intro _
    | with_reducible apply State.setCapState_keeps K0
    | with_reducible apply State.askNext_keeps K1
    | with_reducible refine ite_keeps ?_ ?_
    | split

theorem State.dieCapto_keeps (K : Keeps [.out, .regs, .mem, .core, .eng, .upd, .swm, .cap, .lp, .log, .fab, .host, .wort, .boot] P) {s : State} (d : Nat) (hs : P s) : P (State.dieCapto s d) := by
  have K0 : Keeps [.out, .regs, .mem, .core, .eng, .upd, .swm, .cap, .lp, .log, .fab, .host, .wort, .boot] P := K.mono rfl
  have K1 : Keeps [.regs, .core, .host] P := K.mono rfl
  have K2 : Keeps [.regs] P := K.mono rfl
  have K3 : Keeps [.log] P := K.mono rfl
  unfold State.dieCapto
  repeat' first
    | with_reducible assumption
    | intro _
    | with_reducible apply State.voteFailed_keeps K0
    | with_reducible apply State.hiveVote_keeps K0
    | with_reducible apply State.completeRaw_keeps K1
    | with_reducible apply State.setCapState_keeps K2
    | with_reducible apply State.finc_keeps K2
    | with_reducible apply State.dieRec_keeps K3
    | with_reducible refine ite_keeps ?_ ?_
    | split

theorem execCaptoExpire_keeps (K : Keeps [.out, .regs, .mem, .core, .eng, .upd, .swm, .cap, .lp, .log, .fab, .host, .wort, .boot] P) (tgt : FnId) {s : State} (hs : P s) : ∃ t, execCaptoExpire tgt s = .next t ∧ P t := by
  have K0 : Keeps [.out, .regs, .mem, .core, .eng, .upd, .swm, .cap, .lp, .log, .fab, .host, .wort, .boot] P := K.mono rfl
  have K1 : Keeps [.regs] P := K.mono rfl
  refine ⟨_, rfl, ?_⟩
  repeat' first
    | with_reducible assumption
    | intro _
    | with_reducible apply State.dieCapto_keeps K0
    | with_reducible apply State.fset_keeps K1
    | with_reducible apply State.askNext_keeps K0
    | with_reducible refine ite_keeps ?_ ?_
    | split

theorem execCapRecordFree_keeps (K : Keeps [.cap] P) (cap : CapName) {s : State} (hs : P s) : ∃ t, execCapRecordFree cap s = .next t ∧ P t := by
  refine ⟨_, rfl, ?_⟩
  repeat' first
    | with_reducible assumption
    | intro _
    | with_reducible refine ite_keeps ?_ ?_
    | split
    | with_reducible apply K.lit
    | exact Or.inl (by decide)
    | exact Or.inr rfl

/-! FenceCmds -/

theorem State.fenceAdd_keeps (K : Keeps [.regs, .saf] P) {s : State} (u : Nat × Option Nat) (hs : P s) : P (State.fenceAdd s u) := by
  have K0 : Keeps [.regs] P := K.mono rfl
  unfold State.fenceAdd
  repeat' first
    | with_reducible assumption
    | intro _
    | with_reducible apply State.fset_keeps K0
    | with_reducible refine ite_keeps ?_ ?_
    | with_reducible apply K.lit
    | exact Or.inl (by decide)
    | exact Or.inr rfl

theorem State.fenceDel_keeps (K : Keeps [.regs, .saf] P) {s : State} (u : Nat × Option Nat) (hs : P s) : P (State.fenceDel s u) := by
  have K0 : Keeps [.regs] P := K.mono rfl
  unfold State.fenceDel
  repeat' first
    | with_reducible assumption
    | intro _
    | with_reducible apply State.fset_keeps K0
    | with_reducible refine ite_keeps ?_ ?_
    | with_reducible apply K.lit
    | exact Or.inl (by decide)
    | exact Or.inr rfl

theorem State.dieQuiet_keeps (K : Keeps [.regs, .core, .eng, .smp, .upd, .swm, .fab, .host, .saf] P) {s : State} (d : Nat) (hs : P s) : P (State.dieQuiet s d) := by
  have K0 : Keeps [.regs, .core, .host] P := K.mono rfl
  have K1 : Keeps [.core] P := K.mono rfl
  have K2 : Keeps [.regs, .eng, .upd] P := K.mono rfl
  have K3 : Keeps [.regs, .core, .saf] P := K.mono rfl
  have K4 : Keeps [.host] P := K.mono rfl
  unfold State.dieQuiet
  repeat' first
    | with_reducible assumption
    | intro _
    | with_reducible apply State.stopCore_keeps K0
    | with_reducible apply State.setCoreRec_keeps K1
    | with_reducible apply State.kernelTryEnd_keeps K0
    | with_reducible apply State.dropJobs_keeps K2
    | with_reducible apply State.coresClear_keeps K3
    | with_reducible apply State.reqDrop_keeps K4
    | with_reducible refine ite_keeps ?_ ?_
    | with_reducible refine ite_fst_keeps ?_ ?_
    | split
    | with_reducible apply foldl_fst_keeps
    | with_reducible apply foldl_keeps
    | with_reducible apply K.lit
    | exact Or.inl (by decide)
    | exact Or.inr rfl

theorem State.dieHold_keeps (K : Keeps [.out, .regs, .mem, .core, .eng, .smp, .upd, .swm, .cap, .lp, .log, .fab, .host, .wort, .boot, .saf] P) {s : State} (d : Nat) (hs : P s) : P (State.dieHold s d) := by
  have K0 : Keeps [.out, .regs, .mem, .core, .eng, .upd, .swm, .cap, .lp, .log, .fab, .host, .wort, .boot] P := K.mono rfl
  have K1 : Keeps [.regs, .core, .eng, .smp, .upd, .swm, .fab, .host, .saf] P := K.mono rfl
  have K2 : Keeps [.out, .regs, .boot] P := K.mono rfl
  have K3 : Keeps [.regs, .mem, .upd, .cap, .wort] P := K.mono rfl
  unfold State.dieHold
  repeat' first
    | with_reducible assumption
    | intro _
    | with_reducible apply State.voteFailed_keeps K0
    | with_reducible apply State.dieQuiet_keeps K1
    | with_reducible apply State.dieEnter_keeps K2
    | with_reducible apply State.capDiscard_keeps K3
    | with_reducible apply State.hiveReview_keeps K0
    | with_reducible refine ite_keeps ?_ ?_
    | with_reducible refine ite_fst_keeps ?_ ?_
    | with_reducible apply foldl_fst_keeps
    | with_reducible apply foldl_keeps
    | with_reducible apply K.lit
    | exact Or.inl (by decide)
    | exact Or.inr rfl

theorem State.selfFence_keeps (K : Keeps [.free, .out, .regs, .mem, .core, .eng, .smp, .upd, .swm, .cap, .lp, .log, .fab, .opt, .host, .wort, .boot, .saf, .pwr, .tap, .tim] P) {s : State} (body : Bytes) (hs : P s) : P (State.selfFence s body) := by
  have K0 : Keeps [.free, .out, .regs, .mem, .core, .eng, .smp, .upd, .swm, .cap, .lp, .log, .fab, .opt, .host, .wort, .boot, .saf, .pwr, .tap, .tim] P := K.mono rfl
  have K1 : Keeps [.out, .regs, .boot] P := K.mono rfl
  have K2 : Keeps [.regs, .saf] P := K.mono rfl
  have K3 : Keeps [.out, .regs, .log] P := K.mono rfl
  unfold State.selfFence
  repeat' first
    | with_reducible assumption
    | intro _
    | with_reducible apply State.moduleReset_keeps K0
    | with_reducible apply State.selfHold_keeps K1
    | with_reducible apply State.fenceAdd_keeps K2
    | with_reducible apply State.hiveRec_keeps K3
    | with_reducible refine ite_keeps ?_ ?_
    | with_reducible apply K.lit
    | exact Or.inl (by decide)
    | exact Or.inr rfl

theorem State.fenceWitness_keeps (K : Keeps [.out, .regs, .mem, .core, .eng, .upd, .swm, .cap, .lp, .log, .fab, .host, .wort, .boot] P) {s : State} (m : Nat) (hs : P s) : P (State.fenceWitness s m) := by
  have K0 : Keeps [.out, .regs, .mem, .core, .eng, .upd, .swm, .cap, .lp, .log, .fab, .host, .wort, .boot] P := K.mono rfl
  unfold State.fenceWitness
  repeat' first
    | with_reducible assumption
    | intro _
    | with_reducible apply State.coordSend_keeps K0
    | with_reducible refine ite_keeps ?_ ?_
    | with_reducible refine ite_fst_keeps ?_ ?_
    | split
    | with_reducible apply foldl_fst_keeps
    | with_reducible apply foldl_keeps

theorem State.coreFence_keeps (K : Keeps [.regs, .core, .host, .saf] P) {s : State} (core : Nat) (hs : P s) : P (State.coreFence s core) := by
  have K0 : Keeps [.regs, .core, .host] P := K.mono rfl
  have K1 : Keeps [.regs] P := K.mono rfl
  unfold State.coreFence
  repeat' first
    | with_reducible assumption
    | intro _
    | with_reducible apply State.stopCore_keeps K0
    | with_reducible apply State.setCoreState_keeps K1
    | with_reducible refine ite_keeps ?_ ?_
    | with_reducible apply K.lit
    | exact Or.inl (by decide)
    | exact Or.inr rfl

theorem State.gensetDie_keeps (K : Keeps [.regs, .saf] P) {s : State} (d : Nat) (g : Nat) (hs : P s) : P (State.gensetDie s d g) := by
  have K0 : Keeps [.regs] P := K.mono rfl
  unfold State.gensetDie
  repeat' first
    | with_reducible assumption
    | intro _
    | with_reducible apply State.fset_keeps K0
    | with_reducible refine ite_keeps ?_ ?_
    | with_reducible apply K.lit
    | exact Or.inl (by decide)
    | exact Or.inr rfl

theorem State.fenceApply_keeps (K : Keeps [.free, .out, .regs, .mem, .core, .eng, .smp, .upd, .swm, .cap, .lp, .log, .fab, .opt, .host, .wort, .boot, .saf, .pwr, .tap, .tim] P) {s : State} (e : Bytes) (hs : P s) : P (State.fenceApply s e).1 := by
  have K0 : Keeps [.free, .out, .regs, .mem, .core, .eng, .smp, .upd, .swm, .cap, .lp, .log, .fab, .opt, .host, .wort, .boot, .saf, .pwr, .tap, .tim] P := K.mono rfl
  have K1 : Keeps [.regs, .saf] P := K.mono rfl
  have K2 : Keeps [.out, .regs, .mem, .core, .eng, .upd, .swm, .cap, .lp, .log, .fab, .host, .wort, .boot] P := K.mono rfl
  have K3 : Keeps [.out, .swm] P := K.mono rfl
  have K4 : Keeps [.out, .regs, .log] P := K.mono rfl
  have K5 : Keeps [.out, .regs, .mem, .core, .eng, .smp, .upd, .swm, .cap, .lp, .log, .fab, .host, .wort, .boot, .saf] P := K.mono rfl
  have K6 : Keeps [.out, .regs, .boot, .saf] P := K.mono rfl
  have K7 : Keeps [.regs, .core, .host, .saf] P := K.mono rfl
  unfold State.fenceApply
  repeat' first
    | with_reducible assumption
    | intro _
    | with_reducible apply State.selfFence_keeps K0
    | with_reducible apply State.fenceAdd_keeps K1
    | with_reducible apply State.fenceWitness_keeps K2
    | with_reducible apply State.fenceEdge_keeps K3
    | with_reducible apply State.hiveRec_keeps K4
    | with_reducible apply State.dieHold_keeps K5
    | with_reducible apply State.fenceDel_keeps K1
    | with_reducible apply State.dieLeave_keeps K6
    | with_reducible apply State.coreFence_keeps K7
    | with_reducible apply State.gensetDie_keeps K1
    | with_reducible refine ite_keeps ?_ ?_
    | with_reducible refine ite_fst_keeps ?_ ?_
    | with_reducible apply foldl_fst_keeps
    | with_reducible apply foldl_keeps
    | with_reducible apply K.lit
    | exact Or.inl (by decide)
    | exact Or.inr rfl

theorem State.fenceResult_keeps (K : Keeps [.out, .regs] P) {s : State} (res : Nat) (reason : Nat) (hs : P s) : P (State.fenceResult s res reason) := by
  have K0 : Keeps [.regs] P := K.mono rfl
  have K1 : Keeps [.out, .regs] P := K.mono rfl
  unfold State.fenceResult
  repeat' first
    | with_reducible assumption
    | intro _
    | with_reducible apply State.fset_keeps K0
    | with_reducible apply State.isum_keeps K1

theorem State.fenceListGo_keeps (K : Keeps [.free, .out, .regs, .mem, .core, .eng, .smp, .upd, .swm, .cap, .lp, .log, .fab, .opt, .host, .wort, .boot, .saf, .pwr, .tap, .tim] P) {s : State} (fn : Nat) (list : Bytes) (hs : P s) : P (State.fenceListGo s fn list) := by
  have K0 : Keeps [.out, .regs, .log] P := K.mono rfl
  have K1 : Keeps [.out, .regs, .log, .fab] P := K.mono rfl
  have K2 : Keeps [.out, .regs] P := K.mono rfl
  have K3 : Keeps [.free, .out, .regs, .mem, .core, .eng, .smp, .upd, .swm, .cap, .lp, .log, .fab, .opt, .host, .wort, .boot, .saf, .pwr, .tap, .tim] P := K.mono rfl
  unfold State.fenceListGo
  repeat' first
    | with_reducible assumption
    | intro _
    | with_reducible apply State.refuseReg_keeps K0
    | with_reducible apply State.dmaBlock_keeps K1
    | with_reducible apply State.fenceResult_keeps K2
    | with_reducible apply State.refuseItem_keeps K0
    | with_reducible apply State.fenceApply_keeps K3
    | with_reducible refine ite_keeps ?_ ?_
    | with_reducible refine ite_fst_keeps ?_ ?_
    | split
    | with_reducible apply foldl_fst_keeps

theorem execFenceList_keeps (K : Keeps [.free, .out, .regs, .mem, .core, .eng, .smp, .upd, .swm, .cap, .lp, .log, .fab, .opt, .host, .wort, .boot, .saf, .pwr, .tap, .tim] P) (fn : FnId) (list : Bytes) {s : State} (hs : P s) : ∃ t, execFenceList fn list s = .next t ∧ P t := by
  have K0 : Keeps [.free, .out, .regs, .mem, .core, .eng, .smp, .upd, .swm, .cap, .lp, .log, .fab, .opt, .host, .wort, .boot, .saf, .pwr, .tap, .tim] P := K.mono rfl
  refine ⟨_, rfl, ?_⟩
  repeat' first
    | with_reducible assumption
    | intro _
    | with_reducible apply State.fenceListGo_keeps K0

theorem execFenceNoticeSend_keeps (K : Keeps [.out, .saf] P) (entry : Fin 512) {s : State} (hs : P s) : ∃ t, execFenceNoticeSend entry s = .next t ∧ P t := by
  have K0 : Keeps [.out] P := K.mono rfl
  refine ⟨_, rfl, ?_⟩
  repeat' first
    | with_reducible assumption
    | intro _
    | with_reducible apply State.sendCell_keeps K0
    | with_reducible refine ite_keeps ?_ ?_
    | split
    | with_reducible apply K.lit
    | exact Or.inl (by decide)
    | exact Or.inr rfl

theorem execFenceNoticeReceive_keeps (K : Keeps [.free, .out, .regs, .mem, .core, .eng, .smp, .upd, .swm, .cap, .lp, .log, .fab, .opt, .host, .wort, .boot, .saf, .pwr, .tap, .tim] P) (die : Option DieId) {s : State} (hs : P s) : ∃ t, execFenceNoticeReceive die s = .next t ∧ P t := by
  have K0 : Keeps [.fab] P := K.mono rfl
  have K1 : Keeps [.free, .out, .regs, .mem, .core, .eng, .smp, .upd, .swm, .cap, .lp, .log, .fab, .opt, .host, .wort, .boot, .saf, .pwr, .tap, .tim] P := K.mono rfl
  have K2 : Keeps [.regs, .saf] P := K.mono rfl
  have K3 : Keeps [.out, .regs, .mem, .core, .eng, .smp, .upd, .swm, .cap, .lp, .log, .fab, .host, .wort, .boot, .saf] P := K.mono rfl
  refine ⟨_, rfl, ?_⟩
  repeat' first
    | with_reducible assumption
    | intro _
    | with_reducible apply State.mgmtDone_keeps K0
    | with_reducible apply State.selfFence_keeps K1
    | with_reducible apply State.fenceAdd_keeps K2
    | with_reducible apply State.dieHold_keeps K3
    | with_reducible refine ite_keeps ?_ ?_
    | split

/-! RingCmds -/

theorem execSqTail_keeps (K : Keeps [.out, .regs, .log, .host] P) (fn : FnId) (lidx : Fin 256) (v : BitVec 32) {s : State} (hs : P s) : ∃ t, execSqTail fn lidx v s = .next t ∧ P t := by
  have K0 : Keeps [.out, .regs, .log] P := K.mono rfl
  have K1 : Keeps [.host] P := K.mono rfl
  refine ⟨_, rfl, ?_⟩
  repeat' first
    | with_reducible assumption
    | intro _
    | with_reducible apply State.ringError_keeps K0
    | with_reducible apply State.setRing_keeps K1
    | with_reducible refine ite_keeps ?_ ?_
    | split
    | with_reducible apply K.lit
    | exact Or.inl (by decide)
    | exact Or.inr rfl

theorem execCqHead_keeps (K : Keeps [.out, .regs, .log, .fab, .host] P) (fn : FnId) (lidx : Fin 256) (v : BitVec 32) {s : State} (hs : P s) : ∃ t, execCqHead fn lidx v s = .next t ∧ P t := by
  have K0 : Keeps [.out, .regs, .log] P := K.mono rfl
  have K1 : Keeps [.host] P := K.mono rfl
  have K2 : Keeps [.out, .regs, .log, .fab, .host] P := K.mono rfl
  have K3 : Keeps [.regs, .host] P := K.mono rfl
  refine ⟨_, rfl, ?_⟩
  repeat' first
    | with_reducible assumption
    | intro _
    | with_reducible apply State.ringError_keeps K0
    | with_reducible apply State.setRing_keeps K1
    | with_reducible apply State.heldRun_keeps K2
    | with_reducible apply State.ringSettle_keeps K3
    | with_reducible refine ite_keeps ?_ ?_
    | split

theorem execIrqHoldExpire_keeps (K : Keeps [.out, .host] P) (ring : RingId) {s : State} (hs : P s) : ∃ t, execIrqHoldExpire ring s = .next t ∧ P t := by
  have K0 : Keeps [.out, .host] P := K.mono rfl
  refine ⟨_, rfl, ?_⟩
  repeat' first
    | with_reducible assumption
    | intro _
    | with_reducible apply State.ringIrq_keeps K0
    | with_reducible refine ite_keeps ?_ ?_

theorem execRingEnable_keeps (K : Keeps [.out, .regs, .log, .host] P) (fn : FnId) (ring : RingId) {s : State} (hs : P s) : ∃ t, execRingEnable fn ring s = .next t ∧ P t := by
  have K0 : Keeps [.out, .regs, .log, .host] P := K.mono rfl
  refine ⟨_, rfl, ?_⟩
  repeat' first
    | with_reducible assumption
    | intro _
    | with_reducible apply State.ringEnable_keeps K0

theorem execRingDisable_keeps (K : Keeps [.regs, .host] P) (fn : FnId) (ring : RingId) {s : State} (hs : P s) : ∃ t, execRingDisable fn ring s = .next t ∧ P t := by
  have K0 : Keeps [.regs, .host] P := K.mono rfl
  refine ⟨_, rfl, ?_⟩
  repeat' first
    | with_reducible assumption
    | intro _
    | with_reducible apply State.ringDisable_keeps K0

theorem State.setBme_keeps (K : Keeps [.host] P) {s : State} (fn : Nat) (on : Bool) (hs : P s) : P (State.setBme s fn on) := by
  unfold State.setBme
  repeat' first
    | with_reducible assumption
    | intro _
    | with_reducible refine ite_keeps ?_ ?_
    | with_reducible apply K.lit
    | exact Or.inl (by decide)
    | exact Or.inr rfl

theorem execBmeClear_keeps (K : Keeps [.regs, .host] P) (fn : FnId) {s : State} (hs : P s) : ∃ t, execBmeClear fn s = .next t ∧ P t := by
  have K0 : Keeps [.regs, .host] P := K.mono rfl
  have K1 : Keeps [.host] P := K.mono rfl
  refine ⟨_, rfl, ?_⟩
  repeat' first
    | with_reducible assumption
    | intro _
    | with_reducible apply State.ringFreeze_keeps K0
    | with_reducible apply State.setBme_keeps K1
    | with_reducible refine ite_keeps ?_ ?_
    | with_reducible refine ite_fst_keeps ?_ ?_
    | with_reducible apply foldl_fst_keeps
    | with_reducible apply foldl_keeps

theorem execBmeSet_keeps (K : Keeps [.out, .regs, .mem, .core, .eng, .upd, .swm, .cap, .lp, .log, .fab, .host, .wort, .boot] P) (fn : FnId) {s : State} (hs : P s) : ∃ t, execBmeSet fn s = .next t ∧ P t := by
  have K0 : Keeps [.host] P := K.mono rfl
  have K1 : Keeps [.regs, .host] P := K.mono rfl
  have K2 : Keeps [.out, .regs, .log, .fab, .host] P := K.mono rfl
  have K3 : Keeps [.out, .regs, .mem, .core, .eng, .upd, .swm, .cap, .lp, .log, .fab, .host, .wort, .boot] P := K.mono rfl
  refine ⟨_, rfl, ?_⟩
  repeat' first
    | with_reducible assumption
    | intro _
    | with_reducible apply State.setBme_keeps K0
    | with_reducible apply State.ringThaw_keeps K1
    | with_reducible apply State.heldRun_keeps K2
    | with_reducible apply State.descRun_keeps K3
    | with_reducible apply State.ringSettle_keeps K1
    | with_reducible apply State.hostRun_keeps K3
    | with_reducible refine ite_keeps ?_ ?_
    | with_reducible refine ite_fst_keeps ?_ ?_
    | with_reducible apply foldl_fst_keeps
    | with_reducible apply foldl_keeps

theorem State.oldReq_keeps (K : Keeps [.regs] P) {s : State} (fn : Nat) (hs : P s) : P (State.oldReq s fn) := by
  have K0 : Keeps [.regs] P := K.mono rfl
  unfold State.oldReq
  repeat' first
    | with_reducible assumption
    | intro _
    | with_reducible apply State.fset_keeps K0

theorem State.windowChanged_keeps (K : Keeps [.out, .regs, .mem, .core, .eng, .upd, .swm, .cap, .lp, .log, .fab, .host, .wort, .boot] P) {s : State} (f : Nat) (hs : P s) : P (State.windowChanged s f) := by
  have K0 : Keeps [.regs] P := K.mono rfl
  have K1 : Keeps [.out, .regs, .mem, .core, .eng, .upd, .swm, .cap, .lp, .log, .fab, .host, .wort, .boot] P := K.mono rfl
  unfold State.windowChanged
  repeat' first
    | with_reducible assumption
    | intro _
    | with_reducible apply State.oldReq_keeps K0
    | with_reducible apply State.hostRun_keeps K1
    | with_reducible refine ite_keeps ?_ ?_
    | with_reducible apply K.lit
    | exact Or.inl (by decide)
    | exact Or.inr rfl

theorem execDmaWindowWrite_keeps (K : Keeps [.out, .regs, .mem, .core, .eng, .upd, .swm, .cap, .lp, .log, .fab, .host, .wort, .boot] P) (fn : FnId) (w : Fin 16) (lim : Bool) (v : Word64) {s : State} (hs : P s) : ∃ t, execDmaWindowWrite fn w lim v s = .next t ∧ P t := by
  have K0 : Keeps [.regs] P := K.mono rfl
  have K1 : Keeps [.out, .regs, .mem, .core, .eng, .upd, .swm, .cap, .lp, .log, .fab, .host, .wort, .boot] P := K.mono rfl
  refine ⟨_, rfl, ?_⟩
  repeat' first
    | with_reducible assumption
    | intro _
    | with_reducible apply State.fset_keeps K0
    | with_reducible apply State.windowChanged_keeps K1
    | with_reducible refine ite_keeps ?_ ?_

theorem State.copyArrive_keeps (K : Keeps [.out, .regs, .mem, .core, .eng, .upd, .swm, .cap, .lp, .log, .fab, .host, .wort, .boot] P) {s : State} (q : HReq) (data : Bytes) (hs : P s) : P (State.copyArrive s q data) := by
  have K0 : Keeps [.eng] P := K.mono rfl
  have K1 : Keeps [.out, .regs, .mem, .core, .eng, .upd, .swm, .cap, .lp, .log, .fab, .host, .wort, .boot] P := K.mono rfl
  unfold State.copyArrive
  repeat' first
    | with_reducible assumption
    | intro _
    | with_reducible apply State.mapCopy_keeps K0
    | with_reducible apply State.copyDeliver_keeps K1
    | with_reducible apply State.ceRun_keeps K1
    | with_reducible refine ite_keeps ?_ ?_
    | with_reducible refine ite_fst_keeps ?_ ?_
    | split
    | with_reducible apply foldl_fst_keeps
    | with_reducible apply foldl_keeps
    | extract_lets

theorem State.reqEnd_keeps (K : Keeps [.regs, .host] P) {s : State} (tag : Nat) (q : HReq) (hs : P s) : P (State.reqEnd s tag q) := by
  have K0 : Keeps [.regs] P := K.mono rfl
  unfold State.reqEnd
  repeat' first
    | with_reducible assumption
    | intro _
    | with_reducible apply State.oldReq_keeps K0
    | with_reducible refine ite_keeps ?_ ?_
    | with_reducible apply K.lit
    | exact Or.inl (by decide)
    | exact Or.inr rfl

theorem State.unexpected_keeps (K : Keeps [.regs] P) {s : State} (tag : Nat) (hs : P s) : P (State.unexpected s tag) := by
  have K0 : Keeps [.regs] P := K.mono rfl
  unfold State.unexpected
  repeat' first
    | with_reducible assumption
    | intro _
    | with_reducible apply State.finc_keeps K0

theorem execPcieCompletion_keeps (K : Keeps [.out, .regs, .mem, .core, .eng, .upd, .swm, .cap, .lp, .log, .fab, .host, .wort, .boot] P) (tag : Fin 1024) (data : Bytes) {s : State} (hs : P s) : ∃ t, execPcieCompletion tag data s = .next t ∧ P t := by
  have K0 : Keeps [.regs] P := K.mono rfl
  have K1 : Keeps [.regs, .host] P := K.mono rfl
  have K2 : Keeps [.out, .swm, .fab, .host] P := K.mono rfl
  have K3 : Keeps [.eng] P := K.mono rfl
  have K4 : Keeps [.out, .regs, .mem, .core, .eng, .upd, .swm, .cap, .lp, .log, .fab, .host, .wort, .boot] P := K.mono rfl
  have K5 : Keeps [.out, .regs, .eng, .log, .fab, .host] P := K.mono rfl
  refine ⟨_, rfl, ?_⟩
  repeat' first
    | with_reducible assumption
    | intro _
    | with_reducible apply State.unexpected_keeps K0
    | with_reducible apply State.reqEnd_keeps K1
    | with_reducible apply State.hdmaArrive_keeps K2
    | with_reducible apply State.copyAck_keeps K3
    | with_reducible apply State.copyArrive_keeps K4
    | with_reducible apply State.reqRun_keeps K5
    | with_reducible refine ite_keeps ?_ ?_
    | split

theorem State.copyTimeout_keeps (K : Keeps [.out, .regs, .mem, .core, .eng, .upd, .swm, .cap, .lp, .log, .fab, .host, .wort, .boot] P) {s : State} (core : Nat) (seq : Nat) (hs : P s) : P (State.copyTimeout s core seq) := by
  have K0 : Keeps [.eng, .host] P := K.mono rfl
  have K1 : Keeps [.out, .regs, .mem, .core, .eng, .upd, .swm, .cap, .lp, .log, .fab, .host, .wort, .boot] P := K.mono rfl
  unfold State.copyTimeout
  repeat' first
    | with_reducible assumption
    | intro _
    | with_reducible apply State.copyGiveUp_keeps K0
    | with_reducible apply State.ceRun_keeps K1
    | with_reducible refine ite_keeps ?_ ?_
    | split

theorem execPciCompletionTimeout_keeps (K : Keeps [.out, .regs, .mem, .core, .eng, .upd, .swm, .cap, .lp, .log, .fab, .host, .wort, .boot] P) (tag : Fin 1024) {s : State} (hs : P s) : ∃ t, execPciCompletionTimeout tag s = .next t ∧ P t := by
  have K0 : Keeps [.regs, .host] P := K.mono rfl
  have K1 : Keeps [.out, .regs, .log] P := K.mono rfl
  have K2 : Keeps [.host] P := K.mono rfl
  have K3 : Keeps [.out, .regs, .mem, .core, .eng, .upd, .swm, .cap, .lp, .log, .fab, .host, .wort, .boot] P := K.mono rfl
  have K4 : Keeps [.out, .regs, .eng, .log, .fab, .host] P := K.mono rfl
  refine ⟨_, rfl, ?_⟩
  repeat' first
    | with_reducible assumption
    | intro _
    | with_reducible apply State.reqEnd_keeps K0
    | with_reducible apply State.hiveRec_keeps K1
    | with_reducible apply State.hdmaFail_keeps K2
    | with_reducible apply State.copyTimeout_keeps K3
    | with_reducible apply State.reqRun_keeps K4
    | with_reducible refine ite_keeps ?_ ?_
    | split
    | with_reducible apply K.lit
    | exact Or.inl (by decide)
    | exact Or.inr rfl

theorem execTagQuarantineEnd_keeps (K : Keeps [.out, .regs, .eng, .log, .fab, .host] P) (tag : Fin 1024) {s : State} (hs : P s) : ∃ t, execTagQuarantineEnd tag s = .next t ∧ P t := by
  have K0 : Keeps [.out, .regs, .eng, .log, .fab, .host] P := K.mono rfl
  refine ⟨_, rfl, ?_⟩
  repeat' first
    | with_reducible assumption
    | intro _
    | with_reducible apply State.reqRun_keeps K0
    | with_reducible refine ite_keeps ?_ ?_
    | with_reducible apply K.lit
    | exact Or.inl (by decide)
    | exact Or.inr rfl

theorem execHdmaProgressTimeout_keeps (K : Keeps [.out, .regs, .mem, .core, .eng, .upd, .swm, .cap, .lp, .log, .fab, .host, .wort, .boot] P) (ring : RingId) (tag : BitVec 16) {s : State} (hs : P s) : ∃ t, execHdmaProgressTimeout ring tag s = .next t ∧ P t := by
  have K0 : Keeps [.host] P := K.mono rfl
  have K1 : Keeps [.out, .regs, .mem, .core, .eng, .upd, .swm, .cap, .lp, .log, .fab, .host, .wort, .boot] P := K.mono rfl
  refine ⟨_, rfl, ?_⟩
  repeat' first
    | with_reducible assumption
    | intro _
    | with_reducible apply State.hdmaFail_keeps K0
    | with_reducible apply State.hostRun_keeps K1
    | with_reducible refine ite_keeps ?_ ?_
    | split

theorem execHostCredits_keeps (K : Keeps [.out, .regs, .mem, .core, .eng, .upd, .swm, .cap, .lp, .log, .fab, .host, .wort, .boot] P) (n : BitVec 32) {s : State} (hs : P s) : ∃ t, execHostCredits n s = .next t ∧ P t := by
  have K0 : Keeps [.out, .regs, .mem, .core, .eng, .upd, .swm, .cap, .lp, .log, .fab, .host, .wort, .boot] P := K.mono rfl
  refine ⟨_, rfl, ?_⟩
  repeat' first
    | with_reducible assumption
    | intro _
    | with_reducible apply State.hostRun_keeps K0
    | with_reducible refine ite_keeps ?_ ?_
    | with_reducible apply K.lit
    | exact Or.inl (by decide)
    | exact Or.inr rfl

/-! FlrCmds -/

theorem State.fnStop_keeps (K : Keeps [.out, .regs, .mem, .core, .eng, .upd, .swm, .cap, .lp, .log, .fab, .host, .wort, .boot] P) {s : State} (fn : Nat) (hs : P s) : P (State.fnStop s fn) := by
  have K0 : Keeps [.regs, .host] P := K.mono rfl
  have K1 : Keeps [.host] P := K.mono rfl
  have K2 : Keeps [.regs] P := K.mono rfl
  have K3 : Keeps [.out, .regs, .mem, .core, .eng, .upd, .swm, .cap, .lp, .log, .fab, .host, .wort, .boot] P := K.mono rfl
  unfold State.fnStop
  repeat' first
    | with_reducible assumption
    | intro _
    | with_reducible apply State.ringDrop_keeps K0
    | with_reducible apply State.setBme_keeps K1
    | with_reducible apply State.setReg_keeps K2
    | with_reducible apply State.fset_keeps K2
    | with_reducible apply State.setRing_keeps K1
    | with_reducible apply State.reqDrop_keeps K1
    | with_reducible apply State.copyTimeout_keeps K3
    | with_reducible refine ite_keeps ?_ ?_
    | with_reducible refine ite_fst_keeps ?_ ?_
    | split
    | with_reducible apply foldl_fst_keeps
    | with_reducible apply foldl_keeps

theorem State.flrVf_keeps (K : Keeps [.out, .regs, .mem, .core, .eng, .smp, .upd, .swm, .cap, .lp, .log, .fab, .host, .wort, .boot] P) {s : State} (p : Nat) (hs : P s) : P (State.flrVf s p) := by
  have K0 : Keeps [.out, .regs, .mem, .core, .eng, .upd, .swm, .cap, .lp, .log, .fab, .host, .wort, .boot] P := K.mono rfl
  have K1 : Keeps [.out, .regs, .mem, .core, .eng, .smp, .upd, .swm, .cap, .lp, .log, .fab, .host, .wort, .boot] P := K.mono rfl
  unfold State.flrVf
  repeat' first
    | with_reducible assumption
    | intro _
    | with_reducible apply State.fnStop_keeps K0
    | with_reducible apply State.partResetStart_keeps K1
    | with_reducible refine ite_keeps ?_ ?_

theorem execFlrVf_keeps (K : Keeps [.out, .regs, .mem, .core, .eng, .smp, .upd, .swm, .cap, .lp, .log, .fab, .host, .wort, .boot] P) (p : PartId) {s : State} (hs : P s) : ∃ t, execFlrVf p s = .next t ∧ P t := by
  have K0 : Keeps [.out, .regs, .mem, .core, .eng, .smp, .upd, .swm, .cap, .lp, .log, .fab, .host, .wort, .boot] P := K.mono rfl
  refine ⟨_, rfl, ?_⟩
  repeat' first
    | with_reducible assumption
    | intro _
    | with_reducible apply State.flrVf_keeps K0

theorem execFlrPf0_keeps (K : Keeps [.out, .regs, .mem, .core, .eng, .smp, .upd, .swm, .cap, .lp, .log, .fab, .host, .wort, .boot] P) {s : State} (hs : P s) : ∃ t, execFlrPf0 s = .next t ∧ P t := by
  have K0 : Keeps [.out, .regs, .mem, .core, .eng, .smp, .upd, .swm, .cap, .lp, .log, .fab, .host, .wort, .boot] P := K.mono rfl
  have K1 : Keeps [.regs] P := K.mono rfl
  have K2 : Keeps [.out, .regs, .mem, .core, .eng, .upd, .swm, .cap, .lp, .log, .fab, .host, .wort, .boot] P := K.mono rfl
  refine ⟨_, rfl, ?_⟩
  repeat' first
    | with_reducible assumption
    | intro _
    | with_reducible apply State.flrVf_keeps K0
    | with_reducible apply State.setReg_keeps K1
    | with_reducible apply State.fnStop_keeps K2
    | with_reducible refine ite_keeps ?_ ?_
    | with_reducible refine ite_fst_keeps ?_ ?_
    | with_reducible apply foldl_fst_keeps
    | with_reducible apply foldl_keeps

/-! PowerCmds -/

theorem State.setPin_keeps (K : Keeps [.pwr] P) {s : State} (k : Nat) (v : Nat) (hs : P s) : P (State.setPin s k v) := by
  unfold State.setPin
  repeat' first
    | with_reducible assumption
    | intro _
    | with_reducible refine ite_keeps ?_ ?_
    | with_reducible apply K.lit
    | exact Or.inl (by decide)
    | exact Or.inr rfl

theorem execSidebandContention_keeps (K : Keeps [.regs, .pwr] P) (pin : Fin 3) {s : State} (hs : P s) : ∃ t, execSidebandContention pin s = .next t ∧ P t := by
  have K0 : Keeps [.regs] P := K.mono rfl
  have K1 : Keeps [.pwr] P := K.mono rfl
  refine ⟨_, rfl, ?_⟩
  repeat' first
    | with_reducible assumption
    | intro _
    | with_reducible apply State.finc_keeps K0
    | with_reducible apply State.setPin_keeps K1
    | with_reducible apply State.fset_keeps K0
    | with_reducible refine ite_keeps ?_ ?_

theorem execSidebandRetry_keeps (K : Keeps [.pwr] P) (pin : Fin 3) {s : State} (hs : P s) : ∃ t, execSidebandRetry pin s = .next t ∧ P t := by
  have K0 : Keeps [.pwr] P := K.mono rfl
  refine ⟨_, rfl, ?_⟩
  repeat' first
    | with_reducible assumption
    | intro _
    | with_reducible apply State.setPin_keeps K0
    | with_reducible refine ite_keeps ?_ ?_

theorem execBrownOut_keeps (K : Keeps [.free, .out, .regs, .mem, .core, .eng, .smp, .upd, .swm, .cap, .lp, .log, .fab, .opt, .host, .wort, .boot, .saf, .pwr, .tap, .tim] P) {s : State} (hs : P s) : ∃ t, execBrownOut s = .next t ∧ P t := by
  have K0 : Keeps [.free, .out, .regs, .mem, .core, .eng, .smp, .upd, .swm, .cap, .lp, .log, .fab, .opt, .host, .wort, .boot, .saf, .pwr, .tap, .tim] P := K.mono rfl
  refine ⟨_, rfl, ?_⟩
  repeat' first
    | with_reducible assumption
    | intro _
    | with_reducible apply State.railsOff_keeps K0
    | with_reducible refine ite_keeps ?_ ?_

theorem execInputOvervoltage_keeps (K : Keeps [.free, .out, .regs, .mem, .core, .eng, .smp, .upd, .swm, .cap, .lp, .log, .fab, .opt, .host, .wort, .boot, .saf, .pwr, .tap, .tim] P) {s : State} (hs : P s) : ∃ t, execInputOvervoltage s = .next t ∧ P t := by
  have K0 : Keeps [.free, .out, .regs, .mem, .core, .eng, .smp, .upd, .swm, .cap, .lp, .log, .fab, .opt, .host, .wort, .boot, .saf, .pwr, .tap, .tim] P := K.mono rfl
  refine ⟨_, rfl, ?_⟩
  repeat' first
    | with_reducible assumption
    | intro _
    | with_reducible apply State.railsOff_keeps K0
    | with_reducible refine ite_keeps ?_ ?_

theorem State.aonLoss_keeps (K : Keeps [.free, .out, .regs, .mem, .core, .eng, .smp, .upd, .swm, .cap, .lp, .log, .fab, .opt, .host, .wort, .boot, .saf, .pwr, .tap, .tim] P) {s : State} (hs : P s) : P (State.aonLoss s) := by
  have K0 : Keeps [.free, .out, .regs, .mem, .core, .eng, .smp, .upd, .swm, .cap, .lp, .log, .fab, .opt, .host, .wort, .boot, .saf, .pwr, .tap, .tim] P := K.mono rfl
  have K1 : Keeps [.regs] P := K.mono rfl
  unfold State.aonLoss
  repeat' first
    | with_reducible assumption
    | intro _
    | with_reducible apply State.railsOff_keeps K0
    | with_reducible apply State.resetRegs_keeps K1
    | with_reducible refine ite_keeps ?_ ?_
    | with_reducible apply K.lit
    | exact Or.inl (by decide)
    | exact Or.inr rfl

theorem execAonPowerLoss_keeps (K : Keeps [.free, .out, .regs, .mem, .core, .eng, .smp, .upd, .swm, .cap, .lp, .log, .fab, .opt, .host, .wort, .boot, .saf, .pwr, .tap, .tim] P) {s : State} (hs : P s) : ∃ t, execAonPowerLoss s = .next t ∧ P t := by
  have K0 : Keeps [.free, .out, .regs, .mem, .core, .eng, .smp, .upd, .swm, .cap, .lp, .log, .fab, .opt, .host, .wort, .boot, .saf, .pwr, .tap, .tim] P := K.mono rfl
  refine ⟨_, rfl, ?_⟩
  repeat' first
    | with_reducible assumption
    | intro _
    | with_reducible apply State.aonLoss_keeps K0

theorem State.leverOpen_keeps (K : Keeps [.free, .out, .regs, .mem, .core, .eng, .smp, .upd, .swm, .cap, .lp, .log, .fab, .opt, .host, .wort, .boot, .saf, .pwr, .tap, .tim] P) {s : State} (hs : P s) : P (State.leverOpen s) := by
  have K0 : Keeps [.out, .regs, .mem, .core, .eng, .upd, .swm, .cap, .lp, .log, .fab, .host, .wort, .boot] P := K.mono rfl
  have K1 : Keeps [.out, .fab] P := K.mono rfl
  have K2 : Keeps [.free, .out, .regs, .mem, .core, .eng, .smp, .upd, .swm, .cap, .lp, .log, .fab, .opt, .host, .wort, .boot, .saf, .pwr, .tap, .tim] P := K.mono rfl
  unfold State.leverOpen
  repeat' first
    | with_reducible assumption
    | intro _
    | with_reducible apply State.voteFailed_keeps K0
    | with_reducible apply State.sendCtl_keeps K1
    | with_reducible apply State.railsOff_keeps K2
    | with_reducible refine ite_keeps ?_ ?_
    | with_reducible refine ite_fst_keeps ?_ ?_
    | with_reducible apply foldl_fst_keeps
    | with_reducible apply foldl_keeps
    | with_reducible apply K.lit
    | exact Or.inl (by decide)
    | exact Or.inr rfl

theorem execIlockRemoval_keeps (K : Keeps [.free, .out, .regs, .mem, .core, .eng, .smp, .upd, .swm, .cap, .lp, .log, .fab, .opt, .host, .wort, .boot, .saf, .pwr, .tap, .tim] P) {s : State} (hs : P s) : ∃ t, execIlockRemoval s = .next t ∧ P t := by
  have K0 : Keeps [.free, .out, .regs, .mem, .core, .eng, .smp, .upd, .swm, .cap, .lp, .log, .fab, .opt, .host, .wort, .boot, .saf, .pwr, .tap, .tim] P := K.mono rfl
  refine ⟨_, rfl, ?_⟩
  repeat' first
    | with_reducible assumption
    | intro _
    | with_reducible apply State.leverOpen_keeps K0

theorem execIlockRestart_keeps (K : Keeps [.regs, .boot, .pwr, .tim] P) {s : State} (hs : P s) : ∃ t, execIlockRestart s = .next t ∧ P t := by
  have K0 : Keeps [.regs, .boot, .pwr, .tim] P := K.mono rfl
  refine ⟨_, rfl, ?_⟩
  repeat' first
    | with_reducible assumption
    | intro _
    | with_reducible apply State.powerOn_keeps K0
    | with_reducible refine ite_keeps ?_ ?_
    | with_reducible apply K.lit
    | exact Or.inl (by decide)
    | exact Or.inr rfl

theorem State.safeOff_keeps (K : Keeps [.free, .out, .regs, .mem, .core, .eng, .smp, .upd, .swm, .cap, .lp, .log, .fab, .opt, .host, .wort, .boot, .saf, .pwr, .tap, .tim] P) {s : State} (cause : Nat) (body : Bytes) (hs : P s) : P (State.safeOff s cause body) := by
  have K0 : Keeps [.out, .regs] P := K.mono rfl
  have K1 : Keeps [.free, .out, .regs, .mem, .core, .eng, .smp, .upd, .swm, .cap, .lp, .log, .fab, .opt, .host, .wort, .boot, .saf, .pwr, .tap, .tim] P := K.mono rfl
  have K2 : Keeps [.out, .regs, .log] P := K.mono rfl
  unfold State.safeOff
  repeat' first
    | with_reducible assumption
    | intro _
    | with_reducible apply State.setSState_keeps K0
    | with_reducible apply State.railsOff_keeps K1
    | with_reducible apply State.lastGasp_keeps K2
    | with_reducible refine ite_keeps ?_ ?_
    | with_reducible apply K.lit
    | exact Or.inl (by decide)
    | exact Or.inr rfl

theorem State.slower_keeps (K : Keeps [.regs] P) {s : State} (d : Nat) (hs : P s) : P (State.slower s d) := by
  have K0 : Keeps [.regs] P := K.mono rfl
  unfold State.slower
  repeat' first
    | with_reducible assumption
    | intro _
    | with_reducible apply State.fset_keeps K0
    | with_reducible refine ite_keeps ?_ ?_

theorem State.throttled_keeps (K : Keeps [.free, .out, .regs, .log, .host] P) {s : State} (hs : P s) : P (State.throttled s).1 := by
  have K0 : Keeps [.out, .regs] P := K.mono rfl
  have K1 : Keeps [.free, .out, .regs, .log, .host] P := K.mono rfl
  unfold State.throttled
  repeat' first
    | with_reducible assumption
    | intro _
    | with_reducible apply State.setSState_keeps K0
    | with_reducible apply State.reevaluate_keeps K1
    | with_reducible refine ite_keeps ?_ ?_
    | with_reducible refine ite_fst_keeps ?_ ?_

theorem State.tryNormal_keeps (K : Keeps [.out, .regs] P) {s : State} (hs : P s) : P (State.tryNormal s) := by
  have K0 : Keeps [.regs] P := K.mono rfl
  have K1 : Keeps [.out, .regs] P := K.mono rfl
  unfold State.tryNormal
  repeat' first
    | with_reducible assumption
    | intro _
    | with_reducible apply State.fset_keeps K0
    | with_reducible apply State.setSState_keeps K1
    | with_reducible refine ite_keeps ?_ ?_

theorem State.tjShow_keeps (K : Keeps [.regs] P) {s : State} (unit : Nat) (temp : Nat) (hs : P s) : P (State.tjShow s unit temp) := by
  have K0 : Keeps [.regs] P := K.mono rfl
  unfold State.tjShow
  repeat' first
    | with_reducible assumption
    | intro _
    | with_reducible apply State.fset_keeps K0
    | with_reducible refine ite_keeps ?_ ?_

theorem State.tjRec_keeps (K : Keeps [.out, .regs, .log] P) {s : State} (unit : Nat) (body : Bytes) (hs : P s) : P (State.tjRec s unit body) := by
  have K0 : Keeps [.log] P := K.mono rfl
  have K1 : Keeps [.out, .regs, .log] P := K.mono rfl
  unfold State.tjRec
  repeat' first
    | with_reducible assumption
    | intro _
    | with_reducible apply State.dieRec_keeps K0
    | with_reducible apply State.hiveRec_keeps K1
    | with_reducible refine ite_keeps ?_ ?_

theorem State.tjThrottle_keeps (K : Keeps [.free, .out, .regs, .log, .host, .saf] P) {s : State} (unit : Nat) (pair : Nat) (temp : Nat) (hs : P s) : P (State.tjThrottle s unit pair temp) := by
  have K0 : Keeps [.regs] P := K.mono rfl
  have K1 : Keeps [.free, .out, .regs, .log, .host] P := K.mono rfl
  have K2 : Keeps [.out, .regs, .log] P := K.mono rfl
  unfold State.tjThrottle
  repeat' first
    | with_reducible assumption
    | intro _
    | with_reducible apply State.slower_keeps K0
    | with_reducible apply State.tjShow_keeps K0
    | with_reducible apply State.throttled_keeps K1
    | with_reducible apply State.tjRec_keeps K2
    | with_reducible refine ite_keeps ?_ ?_
    | with_reducible refine ite_fst_keeps ?_ ?_
    | with_reducible apply foldl_fst_keeps
    | with_reducible apply foldl_keeps
    | with_reducible apply K.lit
    | exact Or.inl (by decide)
    | exact Or.inr rfl

theorem execTjThrottle_keeps (K : Keeps [.free, .out, .regs, .log, .host, .saf] P) (unit : FnId) (pair : Fin 24) (temp : BitVec 16) {s : State} (hs : P s) : ∃ t, execTjThrottle unit pair temp s = .next t ∧ P t := by
  have K0 : Keeps [.free, .out, .regs, .log, .host, .saf] P := K.mono rfl
  refine ⟨_, rfl, ?_⟩
  repeat' first
    | with_reducible assumption
    | intro _
    | with_reducible apply State.tjThrottle_keeps K0

theorem execThrottleStep_keeps (K : Keeps [.free, .out, .regs, .log, .host, .saf] P) (die : DieId) (hot : Bool) {s : State} (hs : P s) : ∃ t, execThrottleStep die hot s = .next t ∧ P t := by
  have K0 : Keeps [.regs] P := K.mono rfl
  have K1 : Keeps [.free, .out, .regs, .log, .host] P := K.mono rfl
  have K2 : Keeps [.out, .regs] P := K.mono rfl
  refine ⟨_, rfl, ?_⟩
  repeat' first
    | with_reducible assumption
    | intro _
    | with_reducible apply State.slower_keeps K0
    | with_reducible apply State.reevaluate_keeps K1
    | with_reducible apply State.fset_keeps K0
    | with_reducible apply State.tryNormal_keeps K2
    | with_reducible refine ite_keeps ?_ ?_
    | with_reducible apply K.lit
    | exact Or.inl (by decide)
    | exact Or.inr rfl

theorem State.tjShutdown_keeps (K : Keeps [.free, .out, .regs, .mem, .core, .eng, .smp, .upd, .swm, .cap, .lp, .log, .fab, .opt, .host, .wort, .boot, .saf, .pwr, .tap, .tim] P) {s : State} (unit : Nat) (pair : Nat) (temp : Nat) (hs : P s) : P (State.tjShutdown s unit pair temp) := by
  have K0 : Keeps [.out, .regs, .log] P := K.mono rfl
  have K1 : Keeps [.free, .out, .regs, .mem, .core, .eng, .smp, .upd, .swm, .cap, .lp, .log, .fab, .opt, .host, .wort, .boot, .saf, .pwr, .tap, .tim] P := K.mono rfl
  unfold State.tjShutdown
  repeat' first
    | with_reducible assumption
    | intro _
    | with_reducible apply State.aonRec_keeps K0
    | with_reducible apply State.safeOff_keeps K1
    | with_reducible refine ite_keeps ?_ ?_

theorem execTjShutdown_keeps (K : Keeps [.free, .out, .regs, .mem, .core, .eng, .smp, .upd, .swm, .cap, .lp, .log, .fab, .opt, .host, .wort, .boot, .saf, .pwr, .tap, .tim] P) (unit : FnId) (pair : Fin 24) (temp : BitVec 16) {s : State} (hs : P s) : ∃ t, execTjShutdown unit pair temp s = .next t ∧ P t := by
  have K0 : Keeps [.free, .out, .regs, .mem, .core, .eng, .smp, .upd, .swm, .cap, .lp, .log, .fab, .opt, .host, .wort, .boot, .saf, .pwr, .tap, .tim] P := K.mono rfl
  refine ⟨_, rfl, ?_⟩
  repeat' first
    | with_reducible assumption
    | intro _
    | with_reducible apply State.tjShutdown_keeps K0

theorem execSensorDisagreement_keeps (K : Keeps [.free, .out, .regs, .log, .host] P) (unit : FnId) (pair : Fin 24) (temp : BitVec 16) {s : State} (hs : P s) : ∃ t, execSensorDisagreement unit pair temp s = .next t ∧ P t := by
  have K0 : Keeps [.regs] P := K.mono rfl
  have K1 : Keeps [.free, .out, .regs, .log, .host] P := K.mono rfl
  have K2 : Keeps [.out, .regs, .log] P := K.mono rfl
  refine ⟨_, rfl, ?_⟩
  repeat' first
    | with_reducible assumption
    | intro _
    | with_reducible apply State.fset_keeps K0
    | with_reducible apply State.throttled_keeps K1
    | with_reducible apply State.tjRec_keeps K2
    | with_reducible refine ite_keeps ?_ ?_
    | with_reducible refine ite_fst_keeps ?_ ?_
    | with_reducible apply foldl_fst_keeps
    | with_reducible apply foldl_keeps

theorem execRailOvercurrent_keeps (K : Keeps [.free, .out, .regs, .mem, .core, .eng, .smp, .upd, .swm, .cap, .lp, .log, .fab, .opt, .host, .wort, .boot, .saf, .pwr, .tap, .tim] P) (rail : Fin 20) (amps : BitVec 16) {s : State} (hs : P s) : ∃ t, execRailOvercurrent rail amps s = .next t ∧ P t := by
  have K0 : Keeps [.out, .regs, .log] P := K.mono rfl
  have K1 : Keeps [.free, .out, .regs, .mem, .core, .eng, .smp, .upd, .swm, .cap, .lp, .log, .fab, .opt, .host, .wort, .boot, .saf, .pwr, .tap, .tim] P := K.mono rfl
  refine ⟨_, rfl, ?_⟩
  repeat' first
    | with_reducible assumption
    | intro _
    | with_reducible apply State.aonRec_keeps K0
    | with_reducible apply State.safeOff_keeps K1
    | with_reducible refine ite_keeps ?_ ?_

theorem execInputOvercurrent_keeps (K : Keeps [.free, .out, .regs, .mem, .core, .eng, .smp, .upd, .swm, .cap, .lp, .log, .fab, .opt, .host, .wort, .boot, .saf, .pwr, .tap, .tim] P) (amps : BitVec 16) {s : State} (hs : P s) : ∃ t, execInputOvercurrent amps s = .next t ∧ P t := by
  have K0 : Keeps [.out, .regs, .log] P := K.mono rfl
  have K1 : Keeps [.free, .out, .regs, .mem, .core, .eng, .smp, .upd, .swm, .cap, .lp, .log, .fab, .opt, .host, .wort, .boot, .saf, .pwr, .tap, .tim] P := K.mono rfl
  refine ⟨_, rfl, ?_⟩
  repeat' first
    | with_reducible assumption
    | intro _
    | with_reducible apply State.aonRec_keeps K0
    | with_reducible apply State.safeOff_keeps K1
    | with_reducible refine ite_keeps ?_ ?_

theorem execCoolantLoss_keeps (K : Keeps [.free, .out, .regs, .mem, .core, .eng, .smp, .upd, .swm, .cap, .lp, .log, .fab, .opt, .host, .wort, .boot, .saf, .pwr, .tap, .tim] P) (outlet : Bool) (reading : BitVec 16) {s : State} (hs : P s) : ∃ t, execCoolantLoss outlet reading s = .next t ∧ P t := by
  have K0 : Keeps [.regs] P := K.mono rfl
  have K1 : Keeps [.out, .regs, .log] P := K.mono rfl
  have K2 : Keeps [.free, .out, .regs, .mem, .core, .eng, .smp, .upd, .swm, .cap, .lp, .log, .fab, .opt, .host, .wort, .boot, .saf, .pwr, .tap, .tim] P := K.mono rfl
  refine ⟨_, rfl, ?_⟩
  repeat' first
    | with_reducible assumption
    | intro _
    | with_reducible apply State.fset_keeps K0
    | with_reducible apply State.aonRec_keeps K1
    | with_reducible apply State.safeOff_keeps K2
    | with_reducible refine ite_keeps ?_ ?_

theorem execCauseCleared_keeps (K : Keeps [.regs, .boot, .saf, .pwr, .tim] P) {s : State} (hs : P s) : ∃ t, execCauseCleared s = .next t ∧ P t := by
  have K0 : Keeps [.regs, .boot, .pwr, .tim] P := K.mono rfl
  refine ⟨_, rfl, ?_⟩
  repeat' first
    | with_reducible assumption
    | intro _
    | with_reducible apply State.powerOn_keeps K0
    | with_reducible refine ite_keeps ?_ ?_
    | with_reducible apply K.lit
    | exact Or.inl (by decide)
    | exact Or.inr rfl

theorem State.slowerFree_keeps (K : Keeps [.free, .regs] P) {s : State} (d : Nat) (hs : P s) : P (State.slowerFree s d) := by
  have K0 : Keeps [.free] P := K.mono rfl
  have K1 : Keeps [.regs] P := K.mono rfl
  unfold State.slowerFree
  repeat' first
    | with_reducible assumption
    | intro _
    | with_reducible apply State.drawn_keeps K0
    | with_reducible apply State.fset_keeps K1
    | with_reducible refine ite_keeps ?_ ?_

theorem State.limitPower_keeps (K : Keeps [.free, .out, .regs, .log, .host] P) {s : State} (hs : P s) : P (State.limitPower s) := by
  have K0 : Keeps [.free, .regs] P := K.mono rfl
  have K1 : Keeps [.regs] P := K.mono rfl
  have K2 : Keeps [.free, .out, .regs, .log, .host] P := K.mono rfl
  unfold State.limitPower
  repeat' first
    | with_reducible assumption
    | intro _
    | with_reducible apply State.slowerFree_keeps K0
    | with_reducible apply State.fset_keeps K1
    | with_reducible apply State.throttled_keeps K2
    | with_reducible refine ite_keeps ?_ ?_
    | with_reducible refine ite_fst_keeps ?_ ?_
    | with_reducible apply foldl_fst_keeps
    | with_reducible apply foldl_keeps

theorem execPowerLimitExceeded_keeps (K : Keeps [.free, .out, .regs, .log, .host] P) (watts : BitVec 12) {s : State} (hs : P s) : ∃ t, execPowerLimitExceeded watts s = .next t ∧ P t := by
  have K0 : Keeps [.regs] P := K.mono rfl
  have K1 : Keeps [.free, .out, .regs, .log, .host] P := K.mono rfl
  refine ⟨_, rfl, ?_⟩
  repeat' first
    | with_reducible assumption
    | intro _
    | with_reducible apply State.fset_keeps K0
    | with_reducible apply State.limitPower_keeps K1
    | with_reducible refine ite_keeps ?_ ?_

theorem State.safCross_keeps (K : Keeps [.free, .out, .regs, .mem, .core, .eng, .smp, .upd, .swm, .cap, .lp, .log, .fab, .opt, .host, .wort, .boot, .saf, .pwr, .tap, .tim] P) {s : State} (off : Nat) (hs : P s) : P (State.safCross s off) := by
  have K0 : Keeps [.free, .out, .regs, .log, .host, .saf] P := K.mono rfl
  have K1 : Keeps [.free, .out, .regs, .mem, .core, .eng, .smp, .upd, .swm, .cap, .lp, .log, .fab, .opt, .host, .wort, .boot, .saf, .pwr, .tap, .tim] P := K.mono rfl
  have K2 : Keeps [.free, .out, .regs, .log, .host] P := K.mono rfl
  unfold State.safCross
  repeat' first
    | with_reducible assumption
    | intro _
    | with_reducible apply State.tjThrottle_keeps K0
    | with_reducible apply State.tjShutdown_keeps K1
    | with_reducible apply State.limitPower_keeps K2
    | with_reducible refine ite_keeps ?_ ?_
    | with_reducible refine ite_fst_keeps ?_ ?_
    | with_reducible apply foldl_fst_keeps
    | with_reducible apply foldl_keeps

theorem execWatchdogExpire_keeps (K : Keeps [.free, .out, .regs, .mem, .core, .eng, .smp, .upd, .swm, .cap, .lp, .log, .fab, .opt, .host, .wort, .boot, .saf, .pwr, .tap, .tim] P) {s : State} (hs : P s) : ∃ t, execWatchdogExpire s = .next t ∧ P t := by
  have K0 : Keeps [.regs] P := K.mono rfl
  have K1 : Keeps [.out, .regs] P := K.mono rfl
  have K2 : Keeps [.out, .regs, .log] P := K.mono rfl
  have K3 : Keeps [.free, .out, .regs, .mem, .core, .eng, .smp, .upd, .swm, .cap, .lp, .log, .fab, .opt, .host, .wort, .boot, .saf, .pwr, .tap, .tim] P := K.mono rfl
  refine ⟨_, rfl, ?_⟩
  repeat' first
    | with_reducible assumption
    | intro _
    | with_reducible apply State.fset_keeps K0
    | with_reducible apply State.isum_keeps K1
    | with_reducible apply State.lastGasp_keeps K2
    | with_reducible apply State.aonRec_keeps K2
    | with_reducible apply State.moduleReset_keeps K3
    | with_reducible refine ite_keeps ?_ ?_
    | with_reducible apply K.lit
    | exact Or.inl (by decide)
    | exact Or.inr rfl

/-! LogCmds -/

theorem execLogRecord_keeps (K : Keeps [.out, .regs, .log] P) (e : LogEvent) {s : State} (hs : P s) : ∃ t, execLogRecord e s = .next t ∧ P t := by
  have K0 : Keeps [.out, .regs, .log] P := K.mono rfl
  refine ⟨_, rfl, ?_⟩
  repeat' first
    | with_reducible assumption
    | intro _
    | with_reducible apply State.logArrive_keeps K0
    | with_reducible refine ite_keeps ?_ ?_
    | split
    | with_reducible apply K.lit
    | exact Or.inl (by decide)
    | exact Or.inr rfl

theorem execLogQueueRelease_keeps (K : Keeps [.log] P) (die : DieId) {s : State} (hs : P s) : ∃ t, execLogQueueRelease die s = .next t ∧ P t := by
  refine ⟨_, rfl, ?_⟩
  repeat' first
    | with_reducible assumption
    | intro _
    | with_reducible refine ite_keeps ?_ ?_
    | split
    | with_reducible apply K.lit
    | exact Or.inl (by decide)
    | exact Or.inr rfl

theorem State.logFail_keeps (K : Keeps [.out, .regs, .log] P) {s : State} (mirror : Bool) (cause : Nat) (addr : Nat) (hs : P s) : P (State.logFail s mirror cause addr) := by
  have K0 : Keeps [.regs] P := K.mono rfl
  have K1 : Keeps [.out, .regs, .log] P := K.mono rfl
  unfold State.logFail
  repeat' first
    | with_reducible assumption
    | intro _
    | with_reducible apply State.fset_keeps K0
    | with_reducible apply State.lastGasp_keeps K1
    | with_reducible apply State.hiveRec_keeps K1
    | with_reducible refine ite_keeps ?_ ?_

theorem execLogFailure_keeps (K : Keeps [.out, .regs, .log] P) (mirror : Bool) (cause : Fin 3) (addr : BitVec 32) {s : State} (hs : P s) : ∃ t, execLogFailure mirror cause addr s = .next t ∧ P t := by
  have K0 : Keeps [.out, .regs, .log] P := K.mono rfl
  refine ⟨_, rfl, ?_⟩
  repeat' first
    | with_reducible assumption
    | intro _
    | with_reducible apply State.logFail_keeps K0

theorem execLastgaspRepeat_keeps (K : Keeps [.out, .log] P) {s : State} (hs : P s) : ∃ t, execLastgaspRepeat s = .next t ∧ P t := by
  have K0 : Keeps [.out, .log] P := K.mono rfl
  refine ⟨_, rfl, ?_⟩
  repeat' first
    | with_reducible assumption
    | intro _
    | with_reducible apply State.mgmtSend_keeps K0
    | with_reducible refine ite_keeps ?_ ?_
    | with_reducible apply K.lit
    | exact Or.inl (by decide)
    | exact Or.inr rfl

theorem execHeartbeat_keeps (K : Keeps [.out, .log] P) {s : State} (hs : P s) : ∃ t, execHeartbeat s = .next t ∧ P t := by
  have K0 : Keeps [.out, .log] P := K.mono rfl
  refine ⟨_, rfl, ?_⟩
  repeat' first
    | with_reducible assumption
    | intro _
    | with_reducible apply State.mgmtSend_keeps K0
    | with_reducible refine ite_keeps ?_ ?_

theorem execMgmtLinkChange_keeps (K : Keeps [.regs] P) (port : Fin 2) (up : Bool) {s : State} (hs : P s) : ∃ t, execMgmtLinkChange port up s = .next t ∧ P t := by
  have K0 : Keeps [.regs] P := K.mono rfl
  refine ⟨_, rfl, ?_⟩
  repeat' first
    | with_reducible assumption
    | intro _
    | with_reducible apply State.fsetBit_keeps K0

theorem State.resetAsked_keeps (K : Keeps [.free, .out, .regs, .mem, .core, .eng, .smp, .upd, .swm, .cap, .lp, .log, .fab, .opt, .host, .wort, .boot, .saf, .pwr, .tap, .tim] P) {s : State} (hs : P s) : P (State.resetAsked s) := by
  have K0 : Keeps [.free, .out, .regs, .mem, .core, .eng, .smp, .upd, .swm, .cap, .lp, .log, .fab, .opt, .host, .wort, .boot, .saf, .pwr, .tap, .tim] P := K.mono rfl
  have K1 : Keeps [.regs, .boot, .pwr, .tim] P := K.mono rfl
  unfold State.resetAsked
  repeat' first
    | with_reducible assumption
    | intro _
    | with_reducible apply State.moduleReset_keeps K0
    | with_reducible apply State.powerOn_keeps K1
    | with_reducible refine ite_keeps ?_ ?_
    | with_reducible apply K.lit
    | exact Or.inl (by decide)
    | exact Or.inr rfl

theorem execResetReq_keeps (K : Keeps [.free, .out, .regs, .mem, .core, .eng, .smp, .upd, .swm, .cap, .lp, .log, .fab, .opt, .host, .wort, .boot, .saf, .pwr, .tap, .tim] P) (header : Bytes) (nonce : Word64) (tag : Bytes) {s : State} (hs : P s) : ∃ t, execResetReq header nonce tag s = .next t ∧ P t := by
  have K0 : Keeps [.regs] P := K.mono rfl
  have K1 : Keeps [.out, .log] P := K.mono rfl
  have K2 : Keeps [.free, .out, .regs, .mem, .core, .eng, .smp, .upd, .swm, .cap, .lp, .log, .fab, .opt, .host, .wort, .boot, .saf, .pwr, .tap, .tim] P := K.mono rfl
  refine ⟨_, rfl, ?_⟩
  repeat' first
    | with_reducible assumption
    | intro _
    | with_reducible apply State.fset_keeps K0
    | with_reducible apply State.mgmtSend_keeps K1
    | with_reducible apply State.resetAsked_keeps K2
    | with_reducible refine ite_keeps ?_ ?_

/-! TimeCmds -/

theorem State.timFlag_keeps (K : Keeps [.out, .regs] P) {s : State} (r : FRef) (v : Nat) (hs : P s) : P (State.timFlag s r v) := by
  have K0 : Keeps [.regs] P := K.mono rfl
  have K1 : Keeps [.out, .regs] P := K.mono rfl
  unfold State.timFlag
  repeat' first
    | with_reducible assumption
    | intro _
    | with_reducible apply State.fset_keeps K0
    | with_reducible apply State.isum_keeps K1
    | with_reducible refine ite_keeps ?_ ?_

theorem State.timArm_keeps (K : Keeps [.regs, .tim] P) {s : State} (hs : P s) : P (State.timArm s) := by
  have K0 : Keeps [.regs] P := K.mono rfl
  unfold State.timArm
  repeat' first
    | with_reducible assumption
    | intro _
    | with_reducible apply State.fset_keeps K0
    | with_reducible refine ite_keeps ?_ ?_
    | with_reducible apply K.lit
    | exact Or.inl (by decide)
    | exact Or.inr rfl
    | exact Or.inl ⟨by decide, rfl⟩

theorem execTimArm_keeps (K : Keeps [.regs, .tim] P) {s : State} (hs : P s) : ∃ t, execTimArm s = .next t ∧ P t := by
  have K0 : Keeps [.regs, .tim] P := K.mono rfl
  refine ⟨_, rfl, ?_⟩
  repeat' first
    | with_reducible assumption
    | intro _
    | with_reducible apply State.timArm_keeps K0

theorem State.captureEdge_keeps (K : Keeps [.out, .regs, .tim] P) {s : State} (n : Nat) (hs : P s) : P (State.captureEdge s n) := by
  have K0 : Keeps [.regs] P := K.mono rfl
  have K1 : Keeps [.out, .regs] P := K.mono rfl
  unfold State.captureEdge
  repeat' first
    | with_reducible assumption
    | intro _
    | with_reducible apply State.fset_keeps K0
    | with_reducible apply State.timFlag_keeps K1
    | with_reducible refine ite_keeps ?_ ?_
    | with_reducible apply K.lit
    | exact Or.inl (by decide)
    | exact Or.inr rfl
    | exact Or.inl ⟨by decide, rfl⟩

theorem State.epochLoad_keeps (K : Keeps [.out, .regs, .tim] P) {s : State} (hs : P s) : P (State.epochLoad s) := by
  have K0 : Keeps [.regs] P := K.mono rfl
  have K1 : Keeps [.out, .regs] P := K.mono rfl
  unfold State.epochLoad
  repeat' first
    | with_reducible assumption
    | intro _
    | with_reducible apply State.fset_keeps K0
    | with_reducible apply State.isum_keeps K1
    | with_reducible refine ite_keeps ?_ ?_
    | with_reducible apply K.lit
    | exact Or.inl (by decide)
    | exact Or.inr rfl
    | exact Or.inl ⟨by decide, rfl⟩

theorem execBeatEdge_keeps (K : Keeps [.out, .regs, .tim] P) (late : Bool) {s : State} (hs : P s) : ∃ t, execBeatEdge late s = .next t ∧ P t := by
  have K0 : Keeps [.out, .regs, .tim] P := K.mono rfl
  refine ⟨_, rfl, ?_⟩
  repeat' first
    | with_reducible assumption
    | intro _
    | with_reducible apply State.captureEdge_keeps K0
    | with_reducible apply State.epochLoad_keeps K0
    | with_reducible refine ite_keeps ?_ ?_

theorem execBeatLoss_keeps (K : Keeps [.out, .regs] P) {s : State} (hs : P s) : ∃ t, execBeatLoss s = .next t ∧ P t := by
  have K0 : Keeps [.out, .regs] P := K.mono rfl
  refine ⟨_, rfl, ?_⟩
  repeat' first
    | with_reducible assumption
    | intro _
    | with_reducible apply State.timFlag_keeps K0

theorem execBeatReturn_keeps (K : Keeps [.out, .regs, .tim] P) {s : State} (hs : P s) : ∃ t, execBeatReturn s = .next t ∧ P t := by
  have K0 : Keeps [.out, .regs, .tim] P := K.mono rfl
  refine ⟨_, rfl, ?_⟩
  repeat' first
    | with_reducible assumption
    | intro _
    | with_reducible apply State.captureEdge_keeps K0
    | with_reducible refine ite_keeps ?_ ?_
    | with_reducible apply K.lit
    | exact Or.inl (by decide)
    | exact Or.inr rfl
    | exact Or.inl ⟨by decide, rfl⟩

theorem execRefclkLoss_keeps (K : Keeps [.out, .regs] P) {s : State} (hs : P s) : ∃ t, execRefclkLoss s = .next t ∧ P t := by
  have K0 : Keeps [.out, .regs] P := K.mono rfl
  refine ⟨_, rfl, ?_⟩
  repeat' first
    | with_reducible assumption
    | intro _
    | with_reducible apply State.timFlag_keeps K0

theorem execRefclkReturn_keeps (K : Keeps [.out, .regs] P) {s : State} (hs : P s) : ∃ t, execRefclkReturn s = .next t ∧ P t := by
  have K0 : Keeps [.out, .regs] P := K.mono rfl
  have K1 : Keeps [.regs] P := K.mono rfl
  refine ⟨_, rfl, ?_⟩
  repeat' first
    | with_reducible assumption
    | intro _
    | with_reducible apply State.timFlag_keeps K0
    | with_reducible apply State.fset_keeps K1
    | with_reducible refine ite_keeps ?_ ?_

theorem execSlewingDone_keeps (K : Keeps [.regs, .tim] P) {s : State} (hs : P s) : ∃ t, execSlewingDone s = .next t ∧ P t := by
  have K0 : Keeps [.regs] P := K.mono rfl
  refine ⟨_, rfl, ?_⟩
  repeat' first
    | with_reducible assumption
    | intro _
    | with_reducible apply State.fset_keeps K0
    | with_reducible refine ite_keeps ?_ ?_
    | with_reducible apply K.lit
    | exact Or.inl (by decide)
    | exact Or.inr rfl
    | exact Or.inl ⟨by decide, rfl⟩

theorem execAlignmentLost_keeps (K : Keeps [.free, .out, .regs, .log, .host, .tim] P) {s : State} (hs : P s) : ∃ t, execAlignmentLost s = .next t ∧ P t := by
  have K0 : Keeps [.free, .out, .regs, .log, .host] P := K.mono rfl
  refine ⟨_, rfl, ?_⟩
  repeat' first
    | with_reducible assumption
    | intro _
    | with_reducible apply State.reevaluate_keeps K0
    | with_reducible refine ite_keeps ?_ ?_
    | with_reducible apply K.lit
    | exact Or.inl (by decide)
    | exact Or.inr rfl
    | exact Or.inl ⟨by decide, rfl⟩

/-! RouteCmds -/

theorem State.rtResult_keeps (K : Keeps [.out, .regs] P) {s : State} (res : Nat) (reason : Nat) (hs : P s) : P (State.rtResult s res reason) := by
  have K0 : Keeps [.regs] P := K.mono rfl
  have K1 : Keeps [.out, .regs] P := K.mono rfl
  unfold State.rtResult
  repeat' first
    | with_reducible assumption
    | intro _
    | with_reducible apply State.fset_keeps K0
    | with_reducible apply State.isum_keeps K1

theorem State.rtRefuse_keeps (K : Keeps [.out, .regs, .log] P) {s : State} (fn : Nat) (port : Nat) (st : Nat) (reason : Nat) (g : Nat) (hs : P s) : P (State.rtRefuse s fn port st reason g) := by
  have K0 : Keeps [.out, .regs] P := K.mono rfl
  have K1 : Keeps [.out, .regs, .log] P := K.mono rfl
  unfold State.rtRefuse
  repeat' first
    | with_reducible assumption
    | intro _
    | with_reducible apply State.rtResult_keeps K0
    | with_reducible apply State.refuseItem_keeps K1
    | with_reducible apply State.hiveRec_keeps K1

theorem State.checkDone_keeps (K : Keeps [.out, .regs] P) {s : State} (b : Nat) (hs : P s) : P (State.checkDone s b) := by
  have K0 : Keeps [.regs] P := K.mono rfl
  have K1 : Keeps [.out, .regs] P := K.mono rfl
  unfold State.checkDone
  repeat' first
    | with_reducible assumption
    | intro _
    | with_reducible apply State.fset_keeps K0
    | with_reducible apply State.rtResult_keeps K1
    | with_reducible refine ite_keeps ?_ ?_

theorem State.checkFail_keeps (K : Keeps [.out, .regs, .log, .fab] P) {s : State} (b : Nat) (port : Nat) (reason : Nat) (hs : P s) : P (State.checkFail s b port reason) := by
  have K0 : Keeps [.regs, .fab] P := K.mono rfl
  have K1 : Keeps [.out, .regs, .log] P := K.mono rfl
  unfold State.checkFail
  repeat' first
    | with_reducible assumption
    | intro _
    | with_reducible apply State.freeBank_keeps K0
    | with_reducible apply State.rtRefuse_keeps K1
    | with_reducible refine ite_keeps ?_ ?_
    | with_reducible apply K.lit
    | exact Or.inl (by decide)
    | exact Or.inr rfl

theorem State.checkRtx_keeps (K : Keeps [.out, .regs, .log, .fab] P) {s : State} (b : Nat) (p : Nat) (bs : Bytes) (hs : P s) : P (State.checkRtx s b p bs) := by
  have K0 : Keeps [.out, .regs] P := K.mono rfl
  have K1 : Keeps [.out, .regs, .log, .fab] P := K.mono rfl
  unfold State.checkRtx
  repeat' first
    | with_reducible assumption
    | intro _
    | with_reducible apply State.checkDone_keeps K0
    | with_reducible apply State.checkFail_keeps K1
    | with_reducible refine ite_keeps ?_ ?_
    | with_reducible apply K.lit
    | exact Or.inl (by decide)
    | exact Or.inr rfl

theorem State.rtTake_keeps (K : Keeps [.out, .regs, .log, .fab] P) {s : State} (g : Nat) (img : Bytes) (hs : P s) : P (State.rtTake s g img) := by
  have K0 : Keeps [.regs] P := K.mono rfl
  have K1 : Keeps [.out, .fab] P := K.mono rfl
  have K2 : Keeps [.out, .regs, .log, .fab] P := K.mono rfl
  have K3 : Keeps [.out, .regs] P := K.mono rfl
  unfold State.rtTake
  repeat' first
    | with_reducible assumption
    | intro _
    | with_reducible apply State.fset_keeps K0
    | with_reducible apply State.sendRtx_keeps K1
    | with_reducible apply State.checkRtx_keeps K2
    | with_reducible apply State.checkDone_keeps K3
    | with_reducible refine ite_keeps ?_ ?_
    | with_reducible refine ite_fst_keeps ?_ ?_
    | split
    | with_reducible apply foldl_fst_keeps
    | with_reducible apply foldl_keeps
    | with_reducible apply K.lit
    | exact Or.inl (by decide)
    | exact Or.inr rfl

theorem State.rtLoadGo_keeps (K : Keeps [.out, .regs, .log, .fab] P) {s : State} (fn : Nat) (gen : Nat) (image : Bytes) (hs : P s) : P (State.rtLoadGo s fn gen image) := by
  have K0 : Keeps [.out, .regs, .log] P := K.mono rfl
  have K1 : Keeps [.regs] P := K.mono rfl
  have K2 : Keeps [.out, .regs, .log, .fab] P := K.mono rfl
  unfold State.rtLoadGo
  repeat' first
    | with_reducible assumption
    | intro _
    | with_reducible apply State.refuseReg_keeps K0
    | with_reducible apply State.fset_keeps K1
    | with_reducible apply State.dmaBlock_keeps K2
    | with_reducible apply State.rtRefuse_keeps K0
    | with_reducible apply State.rtTake_keeps K2
    | with_reducible refine ite_keeps ?_ ?_
    | split
    | extract_lets

theorem execRtLoad_keeps (K : Keeps [.out, .regs, .log, .fab] P) (fn : FnId) (gen : Fin 16) (image : Bytes) {s : State} (hs : P s) : ∃ t, execRtLoad fn gen image s = .next t ∧ P t := by
  have K0 : Keeps [.out, .regs, .log, .fab] P := K.mono rfl
  refine ⟨_, rfl, ?_⟩
  repeat' first
    | with_reducible assumption
    | intro _
    | with_reducible apply State.rtLoadGo_keeps K0

theorem State.rtxArrive_keeps (K : Keeps [.out, .regs, .mem, .core, .eng, .upd, .swm, .cap, .lp, .log, .fab, .host, .wort, .boot] P) {s0 : State} (p : Nat) (g : Nat) (bs : Bytes) (passed : Bool) (hs : P s0) : P (State.rtxArrive s0 p g bs passed) := by
  have K0 : Keeps [.fab] P := K.mono rfl
  have K1 : Keeps [.out, .regs, .log, .fab] P := K.mono rfl
  have K2 : Keeps [.out, .regs, .mem, .core, .eng, .upd, .swm, .cap, .lp, .log, .fab, .host, .wort, .boot] P := K.mono rfl
  unfold State.rtxArrive
  repeat' first
    | with_reducible assumption
    | intro _
    | with_reducible apply State.mgmtDone_keeps K0
    | with_reducible apply State.setLink_keeps K0
    | with_reducible apply State.checkRtx_keeps K1
    | with_reducible apply State.fabRec_keeps K1
    | with_reducible apply State.tryUp_keeps K2
    | with_reducible refine ite_keeps ?_ ?_
    | with_reducible refine ite_fst_keeps ?_ ?_
    | with_reducible apply foldl_fst_keeps
    | with_reducible apply foldl_keeps
    | with_reducible apply K.lit
    | exact Or.inl (by decide)
    | exact Or.inr rfl

theorem execRtxSummary_keeps (K : Keeps [.out, .regs, .mem, .core, .eng, .upd, .swm, .cap, .lp, .log, .fab, .host, .wort, .boot] P) (port : ExtPort) (gen : Fin 16) (summary : Bytes) (passed : Bool) {s : State} (hs : P s) : ∃ t, execRtxSummary port gen summary s passed = .next t ∧ P t := by
  have K0 : Keeps [] P := K.mono rfl
  have K1 : Keeps [.out, .regs, .mem, .core, .eng, .upd, .swm, .cap, .lp, .log, .fab, .host, .wort, .boot] P := K.mono rfl
  refine ⟨_, rfl, ?_⟩
  repeat' first
    | with_reducible assumption
    | intro _
    | with_reducible apply State.onPort_keeps K0
    | with_reducible apply State.rtxArrive_keeps K1

theorem execRtxTimeout_keeps (K : Keeps [.out, .regs, .log, .fab] P) (port : ExtPort) {s : State} (hs : P s) : ∃ t, execRtxTimeout port s = .next t ∧ P t := by
  have K0 : Keeps [] P := K.mono rfl
  have K1 : Keeps [.out, .regs, .log, .fab] P := K.mono rfl
  have K2 : Keeps [.out, .regs] P := K.mono rfl
  refine ⟨_, rfl, ?_⟩
  repeat' first
    | with_reducible assumption
    | intro _
    | with_reducible apply State.onPort_keeps K0
    | with_reducible apply State.checkFail_keeps K1
    | with_reducible apply State.checkDone_keeps K2
    | with_reducible refine ite_keeps ?_ ?_
    | with_reducible apply K.lit
    | exact Or.inl (by decide)
    | exact Or.inr rfl

theorem State.rtAct_keeps (K : Keeps [.out, .regs, .log, .fab] P) {s : State} (hs : P s) : P (State.rtAct s) := by
  have K0 : Keeps [.out, .regs, .log] P := K.mono rfl
  have K1 : Keeps [.out, .regs, .log, .fab] P := K.mono rfl
  unfold State.rtAct
  repeat' first
    | with_reducible assumption
    | intro _
    | with_reducible apply State.refuseReg_keeps K0
    | with_reducible apply State.activateBank_keeps K1
    | with_reducible refine ite_keeps ?_ ?_

theorem execRtAct_keeps (K : Keeps [.out, .regs, .log, .fab] P) {s : State} (hs : P s) : ∃ t, execRtAct s = .next t ∧ P t := by
  have K0 : Keeps [.out, .regs, .log, .fab] P := K.mono rfl
  refine ⟨_, rfl, ?_⟩
  repeat' first
    | with_reducible assumption
    | intro _
    | with_reducible apply State.rtAct_keeps K0

theorem State.rtSwGo_keeps (K : Keeps [.out, .regs, .mem, .core, .eng, .upd, .swm, .cap, .lp, .log, .fab, .host, .wort, .boot] P) {s : State} (hs : P s) : P (State.rtSwGo s) := by
  have K0 : Keeps [.out, .regs, .log] P := K.mono rfl
  have K1 : Keeps [.regs] P := K.mono rfl
  have K2 : Keeps [.out, .regs, .log, .fab] P := K.mono rfl
  have K3 : Keeps [.out, .regs, .mem, .core, .eng, .upd, .swm, .cap, .lp, .log, .fab, .host, .wort, .boot] P := K.mono rfl
  unfold State.rtSwGo
  repeat' first
    | with_reducible assumption
    | intro _
    | with_reducible apply State.refuseReg_keeps K0
    | with_reducible apply State.fset_keeps K1
    | with_reducible apply State.switchDecide_keeps K2
    | with_reducible apply State.hiveVote_keeps K3
    | with_reducible refine ite_keeps ?_ ?_
    | split
    | with_reducible apply K.lit
    | exact Or.inl (by decide)
    | exact Or.inr rfl

theorem execRtSwGo_keeps (K : Keeps [.out, .regs, .mem, .core, .eng, .upd, .swm, .cap, .lp, .log, .fab, .host, .wort, .boot] P) {s : State} (hs : P s) : ∃ t, execRtSwGo s = .next t ∧ P t := by
  have K0 : Keeps [.out, .regs, .mem, .core, .eng, .upd, .swm, .cap, .lp, .log, .fab, .host, .wort, .boot] P := K.mono rfl
  refine ⟨_, rfl, ?_⟩
  repeat' first
    | with_reducible assumption
    | intro _
    | with_reducible apply State.rtSwGo_keeps K0

theorem execBankDrainEnd_keeps (K : Keeps [.out, .regs, .mem, .core, .eng, .upd, .swm, .cap, .lp, .log, .fab, .host, .wort, .boot] P) (bank : Fin 2) {s : State} (hs : P s) : ∃ t, execBankDrainEnd bank s = .next t ∧ P t := by
  have K0 : Keeps [.regs, .fab] P := K.mono rfl
  have K1 : Keeps [.out, .regs, .mem, .core, .eng, .upd, .swm, .cap, .lp, .log, .fab, .host, .wort, .boot] P := K.mono rfl
  refine ⟨_, rfl, ?_⟩
  repeat' first
    | with_reducible assumption
    | intro _
    | with_reducible apply State.freeBank_keeps K0
    | with_reducible apply State.tryUp_keeps K1
    | with_reducible refine ite_keeps ?_ ?_
    | with_reducible refine ite_fst_keeps ?_ ?_
    | with_reducible apply foldl_fst_keeps
    | with_reducible apply foldl_keeps
    | with_reducible apply K.lit
    | exact Or.inl (by decide)
    | exact Or.inr rfl

theorem execRouteRevert_keeps (K : Keeps [.regs, .fab] P) (port : ExtPort) {s : State} (hs : P s) : ∃ t, execRouteRevert port s = .next t ∧ P t := by
  have K0 : Keeps [] P := K.mono rfl
  have K1 : Keeps [.regs, .fab] P := K.mono rfl
  refine ⟨_, rfl, ?_⟩
  repeat' first
    | with_reducible assumption
    | intro _
    | with_reducible apply State.onPort_keeps K0
    | with_reducible apply State.unsteer_keeps K1
    | with_reducible refine ite_keeps ?_ ?_

/-! RegOps -/

theorem State.readReg_keeps (K : Keeps [.free] P) {s : State} (off : Nat) (hs : P s) : P (State.readReg s off).1 := by
  have K0 : Keeps [.free] P := K.mono rfl
  unfold State.readReg
  repeat' first
    | with_reducible assumption
    | intro _
    | with_reducible apply State.drawn_keeps K0
    | with_reducible refine ite_keeps ?_ ?_
    | with_reducible refine ite_fst_keeps ?_ ?_

theorem State.stageKey_keeps (K : Keeps [.saf] P) {s : State} (k : Nat) (m : Word64) (v : Word64) (hs : P s) : P (State.stageKey s k m v) := by
  unfold State.stageKey
  repeat' first
    | with_reducible assumption
    | intro _
    | with_reducible refine ite_keeps ?_ ?_
    | with_reducible apply K.lit
    | exact Or.inl (by decide)
    | exact Or.inr rfl

theorem State.keyCommit_keeps (K : Keeps [.out, .regs, .log, .saf] P) {s : State} (hs : P s) : P (State.keyCommit s) := by
  have K0 : Keeps [.regs] P := K.mono rfl
  have K1 : Keeps [.out, .regs, .log] P := K.mono rfl
  unfold State.keyCommit
  repeat' first
    | with_reducible assumption
    | intro _
    | with_reducible apply State.rejectReg_keeps K0
    | with_reducible apply State.refuseReg_keeps K1
    | with_reducible apply State.fset_keeps K0
    | with_reducible refine ite_keeps ?_ ?_
    | with_reducible apply K.lit
    | exact Or.inl (by decide)
    | exact Or.inr rfl

theorem State.resetByReg_keeps (K : Keeps [.free, .out, .regs, .mem, .core, .eng, .smp, .upd, .swm, .cap, .lp, .log, .fab, .opt, .host, .wort, .boot, .saf, .pwr, .tap, .tim] P) {s : State} (hs : P s) : P (State.resetByReg s) := by
  have K0 : Keeps [.out, .regs, .log, .boot] P := K.mono rfl
  have K1 : Keeps [.free, .out, .regs, .mem, .core, .eng, .smp, .upd, .swm, .cap, .lp, .log, .fab, .opt, .host, .wort, .boot, .saf, .pwr, .tap, .tim] P := K.mono rfl
  have K2 : Keeps [.out, .regs, .mem, .core, .eng, .smp, .upd, .swm, .cap, .lp, .log, .fab, .host, .wort, .boot] P := K.mono rfl
  have K3 : Keeps [.free] P := K.mono rfl
  have K4 : Keeps [.out, .regs, .mem, .core, .eng, .upd, .swm, .cap, .lp, .log, .fab, .host, .wort, .boot] P := K.mono rfl
  unfold State.resetByReg
  repeat' first
    | with_reducible assumption
    | intro _
    | with_reducible apply State.resetGo_keeps K0
    | with_reducible apply State.moduleReset_keeps K1
    | with_reducible apply State.partReset_keeps K2
    | with_reducible apply State.drawn_keeps K3
    | with_reducible apply State.clusterReset_keeps K4
    | with_reducible apply State.coreReset_keeps K4
    | with_reducible refine ite_keeps ?_ ?_

theorem State.ringCfg_keeps (K : Keeps [.out, .regs, .log, .host] P) {s : State} (fn : Nat) (off : Nat) (v : Word64) (hs : P s) : P (State.ringCfg s fn off v) := by
  have K0 : Keeps [.regs] P := K.mono rfl
  have K1 : Keeps [.out, .regs, .log, .host] P := K.mono rfl
  have K2 : Keeps [.regs, .host] P := K.mono rfl
  unfold State.ringCfg
  repeat' first
    | with_reducible assumption
    | intro _
    | with_reducible apply State.setReg_keeps K0
    | with_reducible apply State.ringEnable_keeps K1
    | with_reducible apply State.ringDisable_keeps K2
    | with_reducible refine ite_keeps ?_ ?_

theorem State.dieWrote_keeps (K : Keeps [.free, .out, .regs, .mem, .core, .eng, .upd, .swm, .cap, .lp, .log, .fab, .host, .wort, .boot] P) {s : State} (off : Nat) (v : Word64) (go : Word64) (hs : P s) : P (State.dieWrote s off v go) := by
  have K0 : Keeps [.regs, .core, .host] P := K.mono rfl
  have K1 : Keeps [.regs] P := K.mono rfl
  have K2 : Keeps [.free, .out, .regs, .log, .host] P := K.mono rfl
  have K3 : Keeps [.free, .out, .regs, .mem, .core, .eng, .upd, .swm, .cap, .lp, .log, .fab, .host, .wort, .boot] P := K.mono rfl
  unfold State.dieWrote
  repeat' first
    | with_reducible assumption
    | intro _
    | with_reducible apply State.cntSet_keeps K0
    | with_reducible apply State.setReg_keeps K1
    | with_reducible apply State.rngTest_keeps K1
    | with_reducible apply State.reevaluate_keeps K2
    | with_reducible apply State.memRetire_keeps K3
    | with_reducible refine ite_keeps ?_ ?_

theorem State.imaskWrote_keeps (K : Keeps [.out, .regs] P) {s : State} (v : Word64) (hs : P s) : P (State.imaskWrote s v) := by
  have K0 : Keeps [.regs] P := K.mono rfl
  have K1 : Keeps [.out] P := K.mono rfl
  unfold State.imaskWrote
  repeat' first
    | with_reducible assumption
    | intro _
    | with_reducible apply State.setReg_keeps K0
    | with_reducible apply State.raise_keeps K1
    | with_reducible refine ite_keeps ?_ ?_

theorem State.regWrote_keeps (K : Keeps [.free, .out, .regs, .mem, .core, .eng, .smp, .upd, .swm, .cap, .lp, .log, .fab, .opt, .host, .wort, .boot, .saf, .pwr, .tap, .tim] P) {s : State} (fn : Nat) (off : Nat) (v : Word64) (go : Word64) (m : Word64) (raw : Word64) (hs : P s) : P (State.regWrote s fn off v go m raw) := by
  have K0 : Keeps [.free, .out, .regs, .mem, .core, .eng, .upd, .swm, .cap, .lp, .log, .fab, .host, .wort, .boot] P := K.mono rfl
  have K1 : Keeps [.regs] P := K.mono rfl
  have K2 : Keeps [.out, .regs] P := K.mono rfl
  have K3 : Keeps [.regs, .tim] P := K.mono rfl
  have K4 : Keeps [.free, .out, .regs, .mem, .core, .eng, .smp, .upd, .swm, .cap, .lp, .log, .fab, .opt, .host, .wort, .boot, .saf, .pwr, .tap, .tim] P := K.mono rfl
  have K5 : Keeps [.saf] P := K.mono rfl
  have K6 : Keeps [.out, .regs, .log, .saf] P := K.mono rfl
  have K7 : Keeps [.out, .regs, .log, .fab] P := K.mono rfl
  have K8 : Keeps [.free] P := K.mono rfl
  have K9 : Keeps [.out, .regs, .log, .fab, .host, .boot] P := K.mono rfl
  have K10 : Keeps [.out, .regs, .log, .fab, .boot] P := K.mono rfl
  have K11 : Keeps [.out, .regs, .mem, .core, .eng, .upd, .swm, .cap, .lp, .log, .fab, .host, .wort, .boot] P := K.mono rfl
  have K12 : Keeps [.free, .out, .regs, .swm, .log, .fab, .host] P := K.mono rfl
  have K13 : Keeps [.out, .regs, .log, .host] P := K.mono rfl
  unfold State.regWrote
  repeat' first
    | with_reducible assumption
    | intro _
    | with_reducible apply State.dieWrote_keeps K0
    | with_reducible apply State.fset_keeps K1
    | with_reducible apply State.imaskWrote_keeps K2
    | with_reducible apply State.setReg_keeps K1
    | with_reducible apply State.timArm_keeps K3
    | with_reducible apply State.safCross_keeps K4
    | with_reducible apply State.stageKey_keeps K5
    | with_reducible apply State.keyCommit_keeps K6
    | with_reducible apply State.resetByReg_keeps K4
    | with_reducible apply State.storeStart_keeps K1
    | with_reducible apply State.rtAct_keeps K7
    | with_reducible apply State.drawn_keeps K8
    | with_reducible apply State.rtLoadGo_keeps K7
    | with_reducible apply State.fenceListGo_keeps K4
    | with_reducible apply State.wireLoad_keeps K9
    | with_reducible apply State.fwGo_keeps K10
    | with_reducible apply State.rtSwGo_keeps K11
    | with_reducible apply State.disWrite_keeps K12
    | with_reducible apply State.windowChanged_keeps K11
    | with_reducible apply State.ringCfg_keeps K13
    | with_reducible refine ite_keeps ?_ ?_

theorem State.defWrite_keeps (K : Keeps [.free, .out, .regs, .mem, .core, .eng, .smp, .upd, .swm, .cap, .lp, .log, .fab, .opt, .host, .wort, .boot, .saf, .pwr, .tap, .tim] P) {s : State} (r : RegDef) (fn : Nat) (off : Nat) (at_ : Nat) (b : Nat) (n : Nat) (raw : Word64) (roF : RField → Bool) (hs : P s) : P (State.defWrite s r fn off at_ b n raw roF) := by
  have K0 : Keeps [.regs] P := K.mono rfl
  have K1 : Keeps [.free, .out, .regs, .mem, .core, .eng, .smp, .upd, .swm, .cap, .lp, .log, .fab, .opt, .host, .wort, .boot, .saf, .pwr, .tap, .tim] P := K.mono rfl
  have K2 : Keeps [.out, .regs, .log] P := K.mono rfl
  unfold State.defWrite
  repeat' first
    | with_reducible assumption
    | intro _
    | with_reducible apply State.rejectReg_keeps K0
    | with_reducible apply State.regWrote_keeps K1
    | with_reducible apply State.refuseReg_keeps K2
    | with_reducible refine ite_keeps ?_ ?_
    | with_reducible refine ite_fst_keeps ?_ ?_
    | split
    | with_reducible apply foldl_fst_keeps
    | with_reducible apply foldl_keeps
    | extract_lets

theorem State.regWriteBy_keeps (K : Keeps [.free, .out, .regs, .mem, .core, .eng, .smp, .upd, .swm, .cap, .lp, .log, .fab, .opt, .host, .wort, .boot, .saf, .pwr, .tap, .tim] P) {s : State} (fn : Nat) (off : Nat) (at_ : Nat) (n : Nat) (v : Word64) (roF : RField → Bool) (hs : P s) : P (State.regWriteBy s fn off at_ n v roF) := by
  have K0 : Keeps [.regs] P := K.mono rfl
  have K1 : Keeps [.free, .out, .regs, .mem, .core, .eng, .smp, .upd, .swm, .cap, .lp, .log, .fab, .opt, .host, .wort, .boot, .saf, .pwr, .tap, .tim] P := K.mono rfl
  unfold State.regWriteBy
  repeat' first
    | with_reducible assumption
    | intro _
    | with_reducible apply State.rejectReg_keeps K0
    | with_reducible apply State.defWrite_keeps K1
    | with_reducible refine ite_keeps ?_ ?_
    | split
    | extract_lets

theorem State.regWrite_keeps (K : Keeps [.free, .out, .regs, .mem, .core, .eng, .smp, .upd, .swm, .cap, .lp, .log, .fab, .opt, .host, .wort, .boot, .saf, .pwr, .tap, .tim] P) {s : State} (off : Nat) (n : Nat) (v : Word64) (hs : P s) : P (State.regWrite s off n v) := by
  have K0 : Keeps [.free, .out, .regs, .mem, .core, .eng, .smp, .upd, .swm, .cap, .lp, .log, .fab, .opt, .host, .wort, .boot, .saf, .pwr, .tap, .tim] P := K.mono rfl
  unfold State.regWrite
  repeat' first
    | with_reducible assumption
    | intro _
    | with_reducible apply State.regWriteBy_keeps K0

theorem State.vfWrite_keeps (K : Keeps [.free, .out, .regs, .mem, .core, .eng, .smp, .upd, .swm, .cap, .lp, .log, .fab, .opt, .host, .wort, .boot, .saf, .pwr, .tap, .tim] P) {s : State} (fn : Nat) (off : Nat) (n : Nat) (v : Word64) (hs : P s) : P (State.vfWrite s fn off n v) := by
  have K0 : Keeps [.free, .out, .regs, .mem, .core, .eng, .smp, .upd, .swm, .cap, .lp, .log, .fab, .opt, .host, .wort, .boot, .saf, .pwr, .tap, .tim] P := K.mono rfl
  have K1 : Keeps [.regs] P := K.mono rfl
  unfold State.vfWrite
  repeat' first
    | with_reducible assumption
    | intro _
    | with_reducible apply State.regWriteBy_keeps K0
    | with_reducible apply State.rejectReg_keeps K1
    | with_reducible refine ite_keeps ?_ ?_
    | split

/-! RegCmds -/

theorem execMgkeyCommit_keeps (K : Keeps [.out, .regs, .log, .saf] P) {s : State} (hs : P s) : ∃ t, execMgkeyCommit s = .next t ∧ P t := by
  have K0 : Keeps [.out, .regs, .log, .saf] P := K.mono rfl
  refine ⟨_, rfl, ?_⟩
  repeat' first
    | with_reducible assumption
    | intro _
    | with_reducible apply State.keyCommit_keeps K0

theorem execConfigLock_keeps (K : Keeps [.regs] P) {s : State} (hs : P s) : ∃ t, execConfigLock s = .next t ∧ P t := by
  have K0 : Keeps [.regs] P := K.mono rfl
  refine ⟨_, rfl, ?_⟩
  repeat' first
    | with_reducible assumption
    | intro _
    | with_reducible apply State.fset_keeps K0

theorem execCounterWrite_keeps (K : Keeps [.regs, .core, .host] P) (die : DieId) (n : Fin 1024) (v : BitVec 32) {s : State} (hs : P s) : ∃ t, execCounterWrite die n v s = .next t ∧ P t := by
  have K0 : Keeps [.regs, .core, .host] P := K.mono rfl
  refine ⟨_, rfl, ?_⟩
  repeat' first
    | with_reducible assumption
    | intro _
    | with_reducible apply State.cntSet_keeps K0

theorem execSafetyThresholdWrite_keeps (K : Keeps [.free, .out, .regs, .mem, .core, .eng, .smp, .upd, .swm, .cap, .lp, .log, .fab, .opt, .host, .wort, .boot, .saf, .pwr, .tap, .tim] P) (off : BitVec 26) (v : Word64) {s : State} (hs : P s) : ∃ t, execSafetyThresholdWrite off v s = .next t ∧ P t := by
  have K0 : Keeps [.free, .out, .regs, .mem, .core, .eng, .smp, .upd, .swm, .cap, .lp, .log, .fab, .opt, .host, .wort, .boot, .saf, .pwr, .tap, .tim] P := K.mono rfl
  refine ⟨_, rfl, ?_⟩
  repeat' first
    | with_reducible assumption
    | intro _
    | with_reducible apply State.regWrite_keeps K0
    | with_reducible refine ite_keeps ?_ ?_

theorem execImaskWrite_keeps (K : Keeps [.free, .out, .regs, .mem, .core, .eng, .smp, .upd, .swm, .cap, .lp, .log, .fab, .opt, .host, .wort, .boot, .saf, .pwr, .tap, .tim] P) (v : Word64) {s : State} (hs : P s) : ∃ t, execImaskWrite v s = .next t ∧ P t := by
  have K0 : Keeps [.free, .out, .regs, .mem, .core, .eng, .smp, .upd, .swm, .cap, .lp, .log, .fab, .opt, .host, .wort, .boot, .saf, .pwr, .tap, .tim] P := K.mono rfl
  refine ⟨_, rfl, ?_⟩
  repeat' first
    | with_reducible assumption
    | intro _
    | with_reducible apply State.regWrite_keeps K0

theorem execRegisterWrite_keeps (K : Keeps [.free, .out, .regs, .mem, .core, .eng, .smp, .upd, .swm, .cap, .lp, .log, .fab, .opt, .host, .wort, .boot, .saf, .pwr, .tap, .tim] P) (fn : FnId) (off : BitVec 26) (size : Fin 9) (v : Word64) {s : State} (hs : P s) : ∃ t, execRegisterWrite fn off size v s = .next t ∧ P t := by
  have K0 : Keeps [.out] P := K.mono rfl
  have K1 : Keeps [.free, .out, .regs, .mem, .core, .eng, .smp, .upd, .swm, .cap, .lp, .log, .fab, .opt, .host, .wort, .boot, .saf, .pwr, .tap, .tim] P := K.mono rfl
  refine ⟨_, rfl, ?_⟩
  repeat' first
    | with_reducible assumption
    | intro _
    | with_reducible apply State.emit_keeps K0
    | with_reducible apply State.regWrite_keeps K1
    | with_reducible apply State.vfWrite_keeps K1
    | with_reducible refine ite_keeps ?_ ?_

theorem State.busRead_keeps (K : Keeps [.free, .out] P) {s : State} (fn : Nat) (off : Nat) (n : Nat) (hs : P s) : P (State.busRead s fn off n) := by
  have K0 : Keeps [.free] P := K.mono rfl
  have K1 : Keeps [.out] P := K.mono rfl
  unfold State.busRead
  repeat' first
    | with_reducible assumption
    | intro _
    | with_reducible apply State.readReg_keeps K0
    | with_reducible apply State.emit_keeps K1

theorem execDieWindowAccess_keeps (K : Keeps [.free, .out, .regs, .mem, .core, .eng, .smp, .upd, .swm, .cap, .lp, .log, .fab, .opt, .host, .wort, .boot, .saf, .pwr, .tap, .tim] P) (die : DieId) (off : BitVec 21) (size : Fin 9) (write : Bool) (data : Word64) {s : State} (hs : P s) : ∃ t, execDieWindowAccess die off size write data s = .next t ∧ P t := by
  have K0 : Keeps [.out] P := K.mono rfl
  have K1 : Keeps [.free, .out, .regs, .mem, .core, .eng, .smp, .upd, .swm, .cap, .lp, .log, .fab, .opt, .host, .wort, .boot, .saf, .pwr, .tap, .tim] P := K.mono rfl
  have K2 : Keeps [.free, .out] P := K.mono rfl
  refine ⟨_, rfl, ?_⟩
  repeat' first
    | with_reducible assumption
    | intro _
    | with_reducible apply State.emit_keeps K0
    | with_reducible apply State.regWrite_keeps K1
    | with_reducible apply State.busRead_keeps K2
    | with_reducible refine ite_keeps ?_ ?_

theorem execDieWindowNoAnswer_keeps (K : Keeps [.out, .regs] P) (die : DieId) (off : BitVec 21) (write : Bool) {s : State} (hs : P s) : ∃ t, execDieWindowNoAnswer die off write s = .next t ∧ P t := by
  have K0 : Keeps [.regs] P := K.mono rfl
  have K1 : Keeps [.out] P := K.mono rfl
  refine ⟨_, rfl, ?_⟩
  repeat' first
    | with_reducible assumption
    | intro _
    | with_reducible apply State.finc_keeps K0
    | with_reducible apply State.emit_keeps K1
    | with_reducible refine ite_keeps ?_ ?_

theorem State.hiveRefuse_keeps (K : Keeps [.out, .regs, .log] P) {s : State} (c : CellW) (hs : P s) : P (State.hiveRefuse s c) := by
  have K0 : Keeps [.out, .regs, .log] P := K.mono rfl
  have K1 : Keeps [.out] P := K.mono rfl
  unfold State.hiveRefuse
  repeat' first
    | with_reducible assumption
    | intro _
    | with_reducible apply State.refuseItem_keeps K0
    | with_reducible apply State.nackCell_keeps K1

theorem execWrCell_keeps (K : Keeps [.free, .out, .regs, .mem, .core, .eng, .smp, .upd, .swm, .cap, .lp, .log, .fab, .opt, .host, .wort, .boot, .saf, .pwr, .tap, .tim] P) (tgt : FnId) (cell : CellW) {s : State} (hs : P s) : ∃ t, execWrCell tgt cell s = .next t ∧ P t := by
  have K0 : Keeps [.free, .out, .regs, .mem, .core, .eng, .smp, .upd, .swm, .cap, .lp, .log, .fab, .opt, .host, .wort, .boot, .saf, .pwr, .tap, .tim] P := K.mono rfl
  have K1 : Keeps [.regs] P := K.mono rfl
  have K2 : Keeps [.out] P := K.mono rfl
  have K3 : Keeps [.out, .regs, .log] P := K.mono rfl
  have K4 : Keeps [.out, .regs, .log, .fab] P := K.mono rfl
  have K5 : Keeps [.out, .regs, .mem, .core, .eng, .upd, .swm, .cap, .lp, .log, .fab, .host, .wort, .boot] P := K.mono rfl
  refine ⟨_, rfl, ?_⟩
  repeat' first
    | with_reducible assumption
    | intro _
    | with_reducible apply State.regWrite_keeps K0
    | with_reducible apply State.rejectReg_keeps K1
    | with_reducible apply State.sendAck_keeps K2
    | with_reducible apply State.hiveRefuse_keeps K3
    | with_reducible apply State.niCell_keeps K4
    | with_reducible apply State.niWrite_keeps K5
    | with_reducible refine ite_keeps ?_ ?_
    | split

theorem execRdreqCell_keeps (K : Keeps [.free, .out, .regs, .mem, .core, .eng, .upd, .swm, .cap, .lp, .log, .fab, .host, .wort, .boot] P) (tgt : FnId) (cell : CellW) {s : State} (hs : P s) : ∃ t, execRdreqCell tgt cell s = .next t ∧ P t := by
  have K0 : Keeps [.free] P := K.mono rfl
  have K1 : Keeps [.out, .swm, .fab] P := K.mono rfl
  have K2 : Keeps [.out, .regs, .log] P := K.mono rfl
  have K3 : Keeps [.out, .regs, .log, .fab] P := K.mono rfl
  have K4 : Keeps [.out, .regs, .mem, .core, .eng, .upd, .swm, .cap, .lp, .log, .fab, .host, .wort, .boot] P := K.mono rfl
  refine ⟨_, rfl, ?_⟩
  repeat' first
    | with_reducible assumption
    | intro _
    | with_reducible apply State.readReg_keeps K0
    | with_reducible apply State.rdAnswer_keeps K1
    | with_reducible apply State.hiveRefuse_keeps K2
    | with_reducible apply State.niCell_keeps K3
    | with_reducible apply State.niRead_keeps K4
    | with_reducible refine ite_keeps ?_ ?_
    | with_reducible refine ite_fst_keeps ?_ ?_
    | split

theorem State.unsupported_keeps (K : Keeps [.out] P) {s : State} (fn : Nat) (hs : P s) : P (State.unsupported s fn) := by
  have K0 : Keeps [.out] P := K.mono rfl
  unfold State.unsupported
  repeat' first
    | with_reducible assumption
    | intro _
    | with_reducible apply State.emit_keeps K0

theorem State.apertureReg_keeps (K : Keeps [.free, .out, .regs, .mem, .core, .eng, .smp, .upd, .swm, .cap, .lp, .log, .fab, .opt, .host, .wort, .boot, .saf, .pwr, .tap, .tim] P) {s : State} (fn : Nat) (o : Nat) (write : Bool) (data : Bytes) (hs : P s) : P (State.apertureReg s fn o write data) := by
  have K0 : Keeps [.free, .out, .regs, .mem, .core, .eng, .smp, .upd, .swm, .cap, .lp, .log, .fab, .opt, .host, .wort, .boot, .saf, .pwr, .tap, .tim] P := K.mono rfl
  have K1 : Keeps [.free, .out] P := K.mono rfl
  unfold State.apertureReg
  repeat' first
    | with_reducible assumption
    | intro _
    | with_reducible apply State.regWriteBy_keeps K0
    | with_reducible apply State.busRead_keeps K1
    | with_reducible refine ite_keeps ?_ ?_

theorem State.apertureWr_keeps (K : Keeps [.out, .swm, .fab] P) {s : State} (fn : Nat) (die : Nat) (o : Nat) (data : Bytes) (hs : P s) : P (State.apertureWr s fn die o data) := by
  have K0 : Keeps [.out, .swm, .fab] P := K.mono rfl
  unfold State.apertureWr
  repeat' first
    | with_reducible assumption
    | intro _
    | with_reducible apply State.sendWr_keeps K0
    | with_reducible refine ite_keeps ?_ ?_

theorem State.apertureMem_keeps (K : Keeps [.out, .regs, .mem, .core, .eng, .upd, .swm, .cap, .lp, .log, .fab, .host, .wort, .boot] P) {s : State} (fn : Nat) (die : Nat) (o : Nat) (n : Nat) (write : Bool) (data : Bytes) (hs : P s) : P (State.apertureMem s fn die o n write data) := by
  have K0 : Keeps [.fab] P := K.mono rfl
  have K1 : Keeps [.out] P := K.mono rfl
  have K2 : Keeps [.out, .regs, .log] P := K.mono rfl
  have K3 : Keeps [.out, .swm, .fab] P := K.mono rfl
  have K4 : Keeps [.out, .regs, .mem, .core, .eng, .upd, .swm, .cap, .lp, .log, .fab, .host, .wort, .boot] P := K.mono rfl
  unfold State.apertureMem
  repeat' first
    | with_reducible assumption
    | intro _
    | with_reducible apply State.absorb_keeps K0
    | with_reducible apply State.unsupported_keeps K1
    | with_reducible apply State.refuseItem_keeps K2
    | with_reducible apply State.apertureWr_keeps K3
    | with_reducible apply State.memWrites_keeps K4
    | with_reducible apply State.memRead_keeps K4
    | with_reducible apply State.emit_keeps K1
    | with_reducible refine ite_keeps ?_ ?_
    | with_reducible refine ite_fst_keeps ?_ ?_
    | (with_reducible apply fst_of; with_reducible assumption)
    | split

theorem State.aperture_keeps (K : Keeps [.free, .out, .regs, .mem, .core, .eng, .smp, .upd, .swm, .cap, .lp, .log, .fab, .opt, .host, .wort, .boot, .saf, .pwr, .tap, .tim] P) {s : State} (fn : Nat) (off : Nat) (n : Nat) (write : Bool) (data : Bytes) (hs : P s) : P (State.aperture s fn off n write data) := by
  have K0 : Keeps [.out] P := K.mono rfl
  have K1 : Keeps [.out, .regs, .log] P := K.mono rfl
  have K2 : Keeps [.free, .out, .regs, .mem, .core, .eng, .smp, .upd, .swm, .cap, .lp, .log, .fab, .opt, .host, .wort, .boot, .saf, .pwr, .tap, .tim] P := K.mono rfl
  have K3 : Keeps [.out, .regs, .mem, .core, .eng, .upd, .swm, .cap, .lp, .log, .fab, .host, .wort, .boot] P := K.mono rfl
  unfold State.aperture
  repeat' first
    | with_reducible assumption
    | intro _
    | with_reducible apply State.unsupported_keeps K0
    | with_reducible apply State.refuseItem_keeps K1
    | with_reducible apply State.apertureReg_keeps K2
    | with_reducible apply State.apertureMem_keeps K3
    | with_reducible refine ite_keeps ?_ ?_

theorem execApertureAccess_keeps (K : Keeps [.free, .out, .regs, .mem, .core, .eng, .smp, .upd, .swm, .cap, .lp, .log, .fab, .opt, .host, .wort, .boot, .saf, .pwr, .tap, .tim] P) (fn : FnId) (off : BitVec 34) (size : BitVec 7) (write : Bool) (data : Bytes) {s : State} (hs : P s) : ∃ t, execApertureAccess fn off size write data s = .next t ∧ P t := by
  have K0 : Keeps [.free, .out, .regs, .mem, .core, .eng, .smp, .upd, .swm, .cap, .lp, .log, .fab, .opt, .host, .wort, .boot, .saf, .pwr, .tap, .tim] P := K.mono rfl
  refine ⟨_, rfl, ?_⟩
  repeat' first
    | with_reducible assumption
    | intro _
    | with_reducible apply State.aperture_keeps K0

/-! TapCmds -/

theorem State.tapIr_keeps (K : Keeps [.regs, .tap] P) {s : State} (t : Nat) (op : Nat) (hs : P s) : P (State.tapIr s t op) := by
  have K0 : Keeps [.regs] P := K.mono rfl
  unfold State.tapIr
  repeat' first
    | with_reducible assumption
    | intro _
    | with_reducible apply State.fset_keeps K0
    | with_reducible refine ite_keeps ?_ ?_
    | with_reducible apply K.lit
    | exact Or.inl (by decide)
    | exact Or.inr rfl

theorem State.tapOut_keeps (K : Keeps [.out] P) {s : State} (t : Nat) (bits : Nat) (hs : P s) : P (State.tapOut s t bits) := by
  have K0 : Keeps [.out] P := K.mono rfl
  unfold State.tapOut
  repeat' first
    | with_reducible assumption
    | intro _
    | with_reducible apply State.emit_keeps K0
    | with_reducible refine ite_keeps ?_ ?_

theorem State.tapBypass_keeps (K : Keeps [.out, .regs, .tap] P) {s : State} (t : Nat) (op : Nat) (tdi : Bool) (hs : P s) : P (State.tapBypass s t op tdi) := by
  have K0 : Keeps [.regs, .tap] P := K.mono rfl
  have K1 : Keeps [.out] P := K.mono rfl
  unfold State.tapBypass
  repeat' first
    | with_reducible assumption
    | intro _
    | with_reducible apply State.tapIr_keeps K0
    | with_reducible apply State.tapOut_keeps K1
    | with_reducible refine ite_keeps ?_ ?_
    | with_reducible apply K.lit
    | exact Or.inl (by decide)
    | exact Or.inr rfl

theorem State.tapRun_keeps (K : Keeps [.out, .regs, .tap] P) {s : State} (t : Nat) (op : Nat) (f : State → State) (hs : P s) (hf : ∀ (x0 : State), P x0 → P (f x0)) : P (State.tapRun s t op f) := by
  have K0 : Keeps [.out, .regs, .tap] P := K.mono rfl
  have K1 : Keeps [.regs, .tap] P := K.mono rfl
  unfold State.tapRun
  repeat' first
    | with_reducible assumption
    | intro _
    | with_reducible apply State.tapBypass_keeps K0
    | with_reducible apply State.tapIr_keeps K1
    | with_reducible refine ite_keeps ?_ ?_
    | with_reducible apply hf

theorem execBypass_keeps (K : Keeps [.out, .regs, .tap] P) (tap : FnId) (tdi : Bool) {s : State} (hs : P s) : ∃ t, execBypass tap tdi s = .next t ∧ P t := by
  have K0 : Keeps [.out, .regs, .tap] P := K.mono rfl
  refine ⟨_, rfl, ?_⟩
  repeat' first
    | with_reducible assumption
    | intro _
    | with_reducible apply State.tapBypass_keeps K0
    | with_reducible refine ite_keeps ?_ ?_

theorem execIdcode_keeps (K : Keeps [.out, .regs, .tap] P) (tap : FnId) {s : State} (hs : P s) : ∃ t, execIdcode tap s = .next t ∧ P t := by
  have K0 : Keeps [.regs, .tap] P := K.mono rfl
  have K1 : Keeps [.out] P := K.mono rfl
  refine ⟨_, rfl, ?_⟩
  repeat' first
    | with_reducible assumption
    | intro _
    | with_reducible apply State.tapIr_keeps K0
    | with_reducible apply State.tapOut_keeps K1
    | with_reducible refine ite_keeps ?_ ?_

theorem execSamplePreload_keeps (K : Keeps [.out, .regs, .tap] P) (tap : FnId) (pins : BitVec 64) (preload : BitVec 64) {s : State} (hs : P s) : ∃ t, execSamplePreload tap pins preload s = .next t ∧ P t := by
  have K0 : Keeps [.out, .regs, .tap] P := K.mono rfl
  have K1 : Keeps [.out] P := K.mono rfl
  refine ⟨_, rfl, ?_⟩
  repeat' first
    | with_reducible assumption
    | intro _
    | with_reducible apply State.tapRun_keeps K0
    | with_reducible apply State.tapOut_keeps K1
    | with_reducible refine ite_keeps ?_ ?_
    | with_reducible apply K.lit
    | exact Or.inl (by decide)
    | exact Or.inr rfl

theorem State.tapReject_keeps (K : Keeps [.out, .regs] P) {s : State} (t : Nat) (acc : Nat) (hs : P s) : P (State.tapReject s t acc) := by
  have K0 : Keeps [.regs] P := K.mono rfl
  have K1 : Keeps [.out] P := K.mono rfl
  unfold State.tapReject
  repeat' first
    | with_reducible assumption
    | intro _
    | with_reducible apply State.finc_keeps K0
    | with_reducible apply State.tapOut_keeps K1

theorem State.tapStart_keeps (K : Keeps [.regs, .tap] P) {s : State} (t : Nat) (instr : Nat) (unit : Nat) (hs : P s) : P (State.tapStart s t instr unit) := by
  have K0 : Keeps [.regs] P := K.mono rfl
  unfold State.tapStart
  repeat' first
    | with_reducible assumption
    | intro _
    | with_reducible apply State.fset_keeps K0
    | with_reducible refine ite_keeps ?_ ?_
    | with_reducible apply K.lit
    | exact Or.inl (by decide)
    | exact Or.inr rfl

theorem execExtest_keeps (K : Keeps [.out, .regs, .tap] P) (tap : FnId) (pins : BitVec 64) {s : State} (hs : P s) : ∃ t, execExtest tap pins s = .next t ∧ P t := by
  have K0 : Keeps [.out, .regs, .tap] P := K.mono rfl
  have K1 : Keeps [.out, .regs] P := K.mono rfl
  have K2 : Keeps [.out] P := K.mono rfl
  have K3 : Keeps [.regs, .tap] P := K.mono rfl
  refine ⟨_, rfl, ?_⟩
  repeat' first
    | with_reducible assumption
    | intro _
    | with_reducible apply State.tapRun_keeps K0
    | with_reducible apply State.tapReject_keeps K1
    | with_reducible apply State.tapOut_keeps K2
    | with_reducible apply State.tapStart_keeps K3
    | with_reducible refine ite_keeps ?_ ?_
    | with_reducible apply K.lit
    | exact Or.inl (by decide)
    | exact Or.inr rfl

theorem execDiesel_keeps (K : Keeps [.free, .out, .regs, .tap] P) (sel : BitVec 8) {s : State} (hs : P s) : ∃ t, execDiesel sel s = .next t ∧ P t := by
  have K0 : Keeps [.out, .regs, .tap] P := K.mono rfl
  have K1 : Keeps [.free] P := K.mono rfl
  have K2 : Keeps [.out] P := K.mono rfl
  have K3 : Keeps [.regs] P := K.mono rfl
  refine ⟨_, rfl, ?_⟩
  repeat' first
    | with_reducible assumption
    | intro _
    | with_reducible apply State.tapRun_keeps K0
    | with_reducible apply State.drawn_keeps K1
    | with_reducible apply State.tapOut_keeps K2
    | with_reducible apply State.fset_keeps K3

theorem State.ijtag_keeps (K : Keeps [.out, .regs, .tap] P) {s : State} (t : Nat) (instr : Nat) (unit : Nat) (run : Bool) (reading : Nat) (queenBusy : Bool) (hs : P s) : P (State.ijtag s t instr unit run reading queenBusy) := by
  have K0 : Keeps [.out, .regs] P := K.mono rfl
  have K1 : Keeps [.out] P := K.mono rfl
  have K2 : Keeps [.regs, .tap] P := K.mono rfl
  unfold State.ijtag
  repeat' first
    | with_reducible assumption
    | intro _
    | with_reducible apply State.tapReject_keeps K0
    | with_reducible apply State.tapOut_keeps K1
    | with_reducible apply State.tapStart_keeps K2
    | with_reducible refine ite_keeps ?_ ?_

theorem execIjtag_keeps (K : Keeps [.out, .regs, .tap] P) (tap : FnId) (instrument : Fin 9) (unit : BitVec 8) (run : Bool) (reading : Word64) (queenBusy : Bool) {s : State} (hs : P s) : ∃ t, execIjtag tap instrument unit run reading queenBusy s = .next t ∧ P t := by
  have K0 : Keeps [.out, .regs, .tap] P := K.mono rfl
  refine ⟨_, rfl, ?_⟩
  repeat' first
    | with_reducible assumption
    | intro _
    | with_reducible apply State.tapRun_keeps K0
    | with_reducible apply State.ijtag_keeps K0

theorem execInstrumentRunDone_keeps (K : Keeps [.free, .out, .regs, .mem, .core, .eng, .smp, .upd, .swm, .cap, .lp, .log, .fab, .host, .wort, .boot, .saf, .tap] P) {s : State} (hs : P s) : ∃ t, execInstrumentRunDone s = .next t ∧ P t := by
  have K0 : Keeps [.regs] P := K.mono rfl
  have K1 : Keeps [.free, .out, .regs, .mem, .core, .eng, .smp, .upd, .swm, .cap, .lp, .log, .fab, .host, .wort, .boot, .saf] P := K.mono rfl
  refine ⟨_, rfl, ?_⟩
  repeat' first
    | with_reducible assumption
    | intro _
    | with_reducible apply State.fset_keeps K0
    | with_reducible apply State.settle_keeps K1
    | with_reducible refine ite_keeps ?_ ?_
    | with_reducible apply K.lit
    | exact Or.inl (by decide)
    | exact Or.inr rfl

theorem execTapReset_keeps (K : Keeps [.regs, .tap] P) {s : State} (hs : P s) : ∃ t, execTapReset s = .next t ∧ P t := by
  have K0 : Keeps [.regs] P := K.mono rfl
  refine ⟨_, rfl, ?_⟩
  repeat' first
    | with_reducible assumption
    | intro _
    | with_reducible apply State.fset_keeps K0
    | with_reducible refine ite_keeps ?_ ?_
    | split
    | with_reducible apply K.lit
    | exact Or.inl (by decide)
    | exact Or.inr rfl

/-! UnitCmds -/

theorem execArrResidueFault_keeps (K : Keeps [.free, .out, .regs, .mem, .core, .eng, .upd, .swm, .cap, .lp, .log, .fab, .host, .wort, .boot] P) (die : DieId) (arr : Fin 6) (region : Fin 16) (cause : Fin 3) (column : Fin 256) (entry : Fin 1024) {s : State} (hs : P s) : ∃ t, execArrResidueFault die arr region cause column entry s = .next t ∧ P t := by
  have K0 : Keeps [.regs] P := K.mono rfl
  have K1 : Keeps [.eng] P := K.mono rfl
  have K2 : Keeps [.log] P := K.mono rfl
  have K3 : Keeps [.free, .out, .regs, .mem, .core, .eng, .upd, .swm, .cap, .lp, .log, .fab, .host, .wort, .boot] P := K.mono rfl
  refine ⟨_, rfl, ?_⟩
  repeat' first
    | with_reducible assumption
    | intro _
    | with_reducible apply State.finc_keeps K0
    | with_reducible apply State.noteFault_keeps K1
    | with_reducible apply State.fset_keeps K0
    | with_reducible apply State.dieRec_keeps K2
    | with_reducible apply State.arrWithdraw_keeps K3
    | with_reducible refine ite_keeps ?_ ?_

theorem execArrSelftestDone_keeps (K : Keeps [.out, .regs, .log, .boot] P) (die : DieId) (phys : Fin 7) (pass : Bool) {s : State} (hs : P s) : ∃ t, execArrSelftestDone die phys pass s = .next t ∧ P t := by
  have K0 : Keeps [.out, .regs, .log, .boot] P := K.mono rfl
  refine ⟨_, rfl, ?_⟩
  repeat' first
    | with_reducible assumption
    | intro _
    | with_reducible apply State.arrVerdict_keeps K0
    | with_reducible refine ite_keeps ?_ ?_

theorem execSpareArraySelftest_keeps (K : Keeps [.out, .regs, .boot] P) (die : DieId) (phys : Fin 7) (pass : Bool) {s : State} (hs : P s) : ∃ t, execSpareArraySelftest die phys pass s = .next t ∧ P t := by
  have K0 : Keeps [.regs] P := K.mono rfl
  have K1 : Keeps [.regs, .boot] P := K.mono rfl
  have K2 : Keeps [.out, .regs] P := K.mono rfl
  refine ⟨_, rfl, ?_⟩
  repeat' first
    | with_reducible assumption
    | intro _
    | with_reducible apply State.setArrSt_keeps K0
    | with_reducible apply State.arrFlags_keeps K0
    | with_reducible apply State.journal_keeps K1
    | with_reducible apply State.dieReview_keeps K2
    | with_reducible refine ite_keeps ?_ ?_

theorem execMveResidueFault_keeps (K : Keeps [.out, .regs, .mem, .core, .eng, .upd, .swm, .cap, .lp, .log, .fab, .host, .wort, .boot] P) (die : DieId) (cause : Fin 3) (column : BitVec 16) (entry : BitVec 16) {s : State} (hs : P s) : ∃ t, execMveResidueFault die cause column entry s = .next t ∧ P t := by
  have K0 : Keeps [.regs] P := K.mono rfl
  have K1 : Keeps [.eng] P := K.mono rfl
  have K2 : Keeps [.log] P := K.mono rfl
  have K3 : Keeps [.out, .regs, .mem, .core, .eng, .upd, .swm, .cap, .lp, .log, .fab, .host, .wort, .boot] P := K.mono rfl
  refine ⟨_, rfl, ?_⟩
  repeat' first
    | with_reducible assumption
    | intro _
    | with_reducible apply State.finc_keeps K0
    | with_reducible apply State.noteFault_keeps K1
    | with_reducible apply State.fset_keeps K0
    | with_reducible apply State.dieRec_keeps K2
    | with_reducible apply State.mveWithdraw_keeps K3
    | with_reducible refine ite_keeps ?_ ?_

theorem execMveSelftestDone_keeps (K : Keeps [.regs, .log, .boot] P) (die : DieId) (pass : Bool) {s : State} (hs : P s) : ∃ t, execMveSelftestDone die pass s = .next t ∧ P t := by
  have K0 : Keeps [.regs] P := K.mono rfl
  have K1 : Keeps [.log] P := K.mono rfl
  have K2 : Keeps [.regs, .boot] P := K.mono rfl
  refine ⟨_, rfl, ?_⟩
  repeat' first
    | with_reducible assumption
    | intro _
    | with_reducible apply State.fset_keeps K0
    | with_reducible apply State.dieRec_keeps K1
    | with_reducible apply State.journal_keeps K2
    | with_reducible refine ite_keeps ?_ ?_

theorem execRngParityFault_keeps (K : Keeps [.free, .out, .regs, .mem, .core, .eng, .smp, .upd, .swm, .cap, .lp, .log, .fab, .host, .wort, .boot] P) (die : DieId) (engine : Fin 4) (unit : Byte) (lane : BitVec 16) {s : State} (hs : P s) : ∃ t, execRngParityFault die engine unit lane s = .next t ∧ P t := by
  have K0 : Keeps [.out, .regs, .log] P := K.mono rfl
  have K1 : Keeps [.regs] P := K.mono rfl
  have K2 : Keeps [.log] P := K.mono rfl
  have K3 : Keeps [.out, .regs, .mem, .core, .eng, .upd, .swm, .cap, .lp, .log, .fab, .host, .wort, .boot] P := K.mono rfl
  have K4 : Keeps [.free, .out, .regs, .mem, .core, .eng, .upd, .swm, .cap, .lp, .log, .fab, .host, .wort, .boot] P := K.mono rfl
  refine ⟨_, rfl, ?_⟩
  repeat' first
    | with_reducible assumption
    | intro _
    | with_reducible apply State.hiveRec_keeps K0
    | with_reducible apply State.fset_keeps K1
    | with_reducible apply State.finc_keeps K1
    | with_reducible apply State.dieRec_keeps K2
    | with_reducible apply State.voteFailed_keeps K3
    | with_reducible apply State.arrWithdraw_keeps K4
    | with_reducible apply State.mveWithdraw_keeps K3
    | with_reducible apply State.takeoverStart_keeps K4
    | with_reducible apply State.takeoverTry_keeps K4
    | with_reducible refine ite_keeps ?_ ?_
    | with_reducible apply K.lit
    | exact Or.inl (by decide)
    | exact Or.inr rfl

theorem execSramScrub_keeps (K : Keeps [.regs, .eng] P) (die : DieId) (line : Fin 2097152) (flips : List (Fin 32 × Bool)) {s : State} (hs : P s) : ∃ t, execSramScrub die line flips s = .next t ∧ P t := by
  have K0 : Keeps [.regs] P := K.mono rfl
  refine ⟨_, rfl, ?_⟩
  repeat' first
    | with_reducible assumption
    | intro _
    | with_reducible apply State.finc_keeps K0
    | with_reducible refine ite_keeps ?_ ?_
    | with_reducible refine ite_fst_keeps ?_ ?_
    | with_reducible apply foldl_fst_keeps
    | with_reducible apply foldl_keeps
    | with_reducible apply K.lit
    | exact Or.inl (by decide)
    | exact Or.inr rfl

theorem execClusterTakeover_keeps (K : Keeps [.free, .out, .regs, .mem, .core, .eng, .upd, .swm, .cap, .lp, .log, .fab, .host, .wort, .boot] P) (die : DieId) (cluster : Fin 32) {s : State} (hs : P s) : ∃ t, execClusterTakeover die cluster s = .next t ∧ P t := by
  have K0 : Keeps [.free, .out, .regs, .mem, .core, .eng, .upd, .swm, .cap, .lp, .log, .fab, .host, .wort, .boot] P := K.mono rfl
  refine ⟨_, rfl, ?_⟩
  repeat' first
    | with_reducible assumption
    | intro _
    | with_reducible apply State.clTakeover_keeps K0

theorem execBankTakeover_keeps (K : Keeps [.free, .out, .regs, .mem, .core, .eng, .upd, .swm, .cap, .lp, .log, .fab, .host, .wort, .boot] P) (die : DieId) (bank : Fin 64) {s : State} (hs : P s) : ∃ t, execBankTakeover die bank s = .next t ∧ P t := by
  have K0 : Keeps [.free, .out, .regs, .mem, .core, .eng, .upd, .swm, .cap, .lp, .log, .fab, .host, .wort, .boot] P := K.mono rfl
  refine ⟨_, rfl, ?_⟩
  repeat' first
    | with_reducible assumption
    | intro _
    | with_reducible apply State.bankTakeover_keeps K0

/-! WortCmds -/

theorem execWortReady_keeps (K : Keeps [.out, .regs, .mem, .core, .eng, .upd, .swm, .cap, .lp, .log, .fab, .host, .wort, .boot] P) (cell : CellW) {s : State} (hs : P s) : ∃ t, execWortReady cell s = .next t ∧ P t := by
  have K0 : Keeps [] P := K.mono rfl
  have K1 : Keeps [.wort] P := K.mono rfl
  have K2 : Keeps [.out, .regs, .mem, .core, .eng, .upd, .swm, .cap, .lp, .log, .fab, .host, .wort, .boot] P := K.mono rfl
  refine ⟨_, rfl, ?_⟩
  repeat' first
    | with_reducible assumption
    | intro _
    | with_reducible apply State.hiveCell_keeps K0
    | with_reducible apply State.setSess_keeps K1
    | with_reducible apply State.wortResume_keeps K2
    | with_reducible refine ite_keeps ?_ ?_
    | split

theorem execWortRelease_keeps (K : Keeps [.out, .regs, .mem, .core, .eng, .upd, .swm, .cap, .lp, .log, .fab, .host, .wort, .boot] P) (die : DieId) (cell : CellW) {s : State} (hs : P s) : ∃ t, execWortRelease die cell s = .next t ∧ P t := by
  have K0 : Keeps [.out, .regs, .log, .fab] P := K.mono rfl
  have K1 : Keeps [.regs, .mem, .upd] P := K.mono rfl
  have K2 : Keeps [.out, .regs, .mem, .core, .eng, .upd, .swm, .cap, .lp, .log, .fab, .host, .wort, .boot] P := K.mono rfl
  refine ⟨_, rfl, ?_⟩
  repeat' first
    | with_reducible assumption
    | intro _
    | with_reducible apply State.niCell_keeps K0
    | with_reducible apply State.freeSlot_keeps K1
    | with_reducible apply State.updRun_keeps K2
    | with_reducible refine ite_keeps ?_ ?_

theorem State.wortAgain_keeps (K : Keeps [.out] P) {s : State} (p : Nat) (mseq : Nat) (hs : P s) : P (State.wortAgain s p mseq) := by
  have K0 : Keeps [.out] P := K.mono rfl
  unfold State.wortAgain
  repeat' first
    | with_reducible assumption
    | intro _
    | with_reducible apply State.wortEmit_keeps K0
    | with_reducible refine ite_keeps ?_ ?_
    | split

theorem execWortAck_keeps (K : Keeps [.out, .regs, .wort] P) (p : PartId) (ackSeq : Word64) (nakSeq : Word64) {s : State} (hs : P s) : ∃ t, execWortAck p ackSeq nakSeq s = .next t ∧ P t := by
  have K0 : Keeps [.wort] P := K.mono rfl
  have K1 : Keeps [.out, .wort] P := K.mono rfl
  have K2 : Keeps [.out] P := K.mono rfl
  have K3 : Keeps [.regs] P := K.mono rfl
  refine ⟨_, rfl, ?_⟩
  repeat' first
    | with_reducible assumption
    | intro _
    | with_reducible apply State.setSess_keeps K0
    | with_reducible apply State.wortRelease_keeps K1
    | with_reducible apply State.wortAgain_keeps K2
    | with_reducible apply State.wortRegs_keeps K3
    | with_reducible refine ite_keeps ?_ ?_

theorem execHelloAck_keeps (K : Keeps [.wort] P) (p : PartId) (step : BitVec 32) {s : State} (hs : P s) : ∃ t, execHelloAck p step s = .next t ∧ P t := by
  have K0 : Keeps [.wort] P := K.mono rfl
  refine ⟨_, rfl, ?_⟩
  repeat' first
    | with_reducible assumption
    | intro _
    | with_reducible apply State.setSess_keeps K0
    | with_reducible refine ite_keeps ?_ ?_

theorem execWortRetransmit_keeps (K : Keeps [.out] P) (p : PartId) {s : State} (hs : P s) : ∃ t, execWortRetransmit p s = .next t ∧ P t := by
  have K0 : Keeps [.out] P := K.mono rfl
  refine ⟨_, rfl, ?_⟩
  repeat' first
    | with_reducible assumption
    | intro _
    | with_reducible apply State.wortEmit_keeps K0
    | with_reducible refine ite_keeps ?_ ?_
    | with_reducible refine ite_fst_keeps ?_ ?_
    | with_reducible apply foldl_fst_keeps
    | with_reducible apply foldl_keeps

theorem execKeepalive_keeps (K : Keeps [.out] P) (p : PartId) {s : State} (hs : P s) : ∃ t, execKeepalive p s = .next t ∧ P t := by
  have K0 : Keeps [.out] P := K.mono rfl
  refine ⟨_, rfl, ?_⟩
  repeat' first
    | with_reducible assumption
    | intro _
    | with_reducible apply State.wortEmit_keeps K0
    | with_reducible refine ite_keeps ?_ ?_

theorem execWortRateCheck_keeps (K : Keeps [.regs, .wort] P) (p : PartId) (ackedBytes : Word64) {s : State} (hs : P s) : ∃ t, execWortRateCheck p ackedBytes s = .next t ∧ P t := by
  have K0 : Keeps [.wort] P := K.mono rfl
  have K1 : Keeps [.regs] P := K.mono rfl
  refine ⟨_, rfl, ?_⟩
  repeat' first
    | with_reducible assumption
    | intro _
    | with_reducible apply State.setSess_keeps K0
    | with_reducible apply State.wortRegs_keeps K1

theorem execWortReservationGrant_keeps (K : Keeps [.out, .regs, .mem, .core, .eng, .upd, .swm, .cap, .lp, .log, .fab, .host, .wort, .boot] P) (die : DieId) {s : State} (hs : P s) : ∃ t, execWortReservationGrant die s = .next t ∧ P t := by
  have K0 : Keeps [.wort] P := K.mono rfl
  have K1 : Keeps [.cap] P := K.mono rfl
  have K2 : Keeps [.out, .regs, .mem, .core, .eng, .upd, .swm, .cap, .lp, .log, .fab, .host, .wort, .boot] P := K.mono rfl
  refine ⟨_, rfl, ?_⟩
  repeat' first
    | with_reducible assumption
    | intro _
    | with_reducible apply State.setSess_keeps K0
    | with_reducible apply State.setDieCap_keeps K1
    | with_reducible apply State.hiveReview_keeps K2
    | with_reducible refine ite_keeps ?_ ?_
    | split

theorem execEthLinkChange_keeps (K : Keeps [.free, .out, .regs, .log, .host] P) (port : Fin 2) (speed : Fin 3) {s : State} (hs : P s) : ∃ t, execEthLinkChange port speed s = .next t ∧ P t := by
  have K0 : Keeps [.regs] P := K.mono rfl
  have K1 : Keeps [.free, .out, .regs, .log, .host] P := K.mono rfl
  refine ⟨_, rfl, ?_⟩
  repeat' first
    | with_reducible assumption
    | intro _
    | with_reducible apply State.fset_keeps K0
    | with_reducible apply State.wortRegs_keeps K0
    | with_reducible apply State.reevaluate_keeps K1
    | with_reducible refine ite_keeps ?_ ?_
    | with_reducible refine ite_fst_keeps ?_ ?_
    | with_reducible apply foldl_fst_keeps
    | with_reducible apply foldl_keeps

theorem execNeighbourSolicitation_keeps (K : Keeps [.out] P) (port : Fin 2) (target : BitVec 128) {s : State} (hs : P s) : ∃ t, execNeighbourSolicitation port target s = .next t ∧ P t := by
  have K0 : Keeps [.out] P := K.mono rfl
  refine ⟨_, rfl, ?_⟩
  repeat' first
    | with_reducible assumption
    | intro _
    | with_reducible apply State.emit_keeps K0
    | with_reducible refine ite_keeps ?_ ?_

theorem execEchoRequest_keeps (K : Keeps [.out] P) (port : Fin 2) (src : BitVec 128) (data : Bytes) {s : State} (hs : P s) : ∃ t, execEchoRequest port src data s = .next t ∧ P t := by
  have K0 : Keeps [.out] P := K.mono rfl
  refine ⟨_, rfl, ?_⟩
  repeat' first
    | with_reducible assumption
    | intro _
    | with_reducible apply State.emit_keeps K0
    | with_reducible refine ite_keeps ?_ ?_

theorem execEthFrameDiscard_keeps (K : Keeps [.regs] P) (port : Fin 2) {s : State} (hs : P s) : ∃ t, execEthFrameDiscard port s = .next t ∧ P t := by
  have K0 : Keeps [.regs] P := K.mono rfl
  refine ⟨_, rfl, ?_⟩
  repeat' first
    | with_reducible assumption
    | intro _
    | with_reducible apply State.finc_keeps K0

/-! Dispatch -/

/-- What every command may change: a property kept by every write to the command's groups survives it. -/
theorem exec_keeps (i : Instr) (K : Keeps (groupsOf i) P) {s : State} (hs : P s) :
    ∃ t, exec i s = .next t ∧ P t := by
  cases i with
  | nop core => exact execNop_keeps K core hs
  | endK core => exact execEndK_keeps K core hs
  | chain core => exact execChain_keeps K core hs
  | wait core => exact execWait_keeps K core hs
  | sig core => exact execSig_keeps K core hs
  | cset core => exact execCset_keeps K core hs
  | bar core => exact execBar_keeps K core hs
  | arrWload core => exact execArrWload_keeps K core hs
  | arrPass core => exact execArrPass_keeps K core hs
  | arrLayout core => exact execArrLayout_keeps K core hs
  | arrDrain core => exact execArrDrain_keeps K core hs
  | arrCommandComplete die arr region => exact execArrCommandComplete_keeps K die arr region hs
  | mveMv core => exact execMveMv_keeps K core hs
  | mveCommandComplete die => exact execMveCommandComplete_keeps K die hs
  | vec core => exact execVec_keeps K core hs
  | copy core => exact execCopy_keeps K core hs
  | copyComplete die ce => exact execCopyComplete_keeps K die ce hs
  | rngFill core => exact execRngFill_keeps K core hs
  | smpOpen sender => exact execSmpOpen_keeps K sender hs
  | smpOpenResume => exact execSmpOpenResume_keeps K hs
  | smpPart core => exact execSmpPart_keeps K core hs
  | smpPartArrive part => exact execSmpPartArrive_keeps K part hs
  | smpBroadcast die job sid cidx m l sour stream => exact execSmpBroadcast_keeps K die job sid cidx m l sour stream hs
  | smpContextTimeout job sid => exact execSmpContextTimeout_keeps K job sid hs
  | smpOrphanTimeout job sid cidx => exact execSmpOrphanTimeout_keeps K job sid cidx hs
  | updRun core => exact execUpdRun_keeps K core hs
  | updPend core => exact execUpdPend_keeps K core hs
  | updNorm core => exact execUpdNorm_keeps K core hs
  | updSave core => exact execUpdSave_keeps K core hs
  | updGateStart die => exact execUpdGateStart_keeps K die hs
  | updCommandComplete die => exact execUpdCommandComplete_keeps K die hs
  | swmBcast core => exact execSwmBcast_keeps K core hs
  | swmReduce core => exact execSwmReduce_keeps K core hs
  | swmPermute core => exact execSwmPermute_keeps K core hs
  | swmOpComplete die gid opseq => exact execSwmOpComplete_keeps K die gid opseq hs
  | capOpen core => exact execCapOpen_keeps K core hs
  | capVote core => exact execCapVote_keeps K core hs
  | capAbort core => exact execCapAbort_keeps K core hs
  | capSeal core => exact execCapSeal_keeps K core hs
  | launch ring desc => exact execLaunch_keeps K ring desc hs
  | beatLaunchStart ring tag => exact execBeatLaunchStart_keeps K ring tag hs
  | hdma ring desc => exact execHdma_keeps K ring desc hs
  | setup ring desc blk => exact execSetup_keeps K ring desc blk hs
  | teardown ring desc => exact execTeardown_keeps K ring desc hs
  | abort ring desc => exact execAbort_keeps K ring desc hs
  | partitionCreate ring desc => exact execPartitionCreate_keeps K ring desc hs
  | partitionDestroy ring desc => exact execPartitionDestroy_keeps K ring desc hs
  | reclaim ring desc => exact execReclaim_keeps K ring desc hs
  | reclaimWortDeadline p => exact execReclaimWortDeadline_keeps K p hs
  | reclaimRelease p => exact execReclaimRelease_keeps K p hs
  | sqTail fn lidx v => exact execSqTail_keeps K fn lidx v hs
  | cqHead fn lidx v => exact execCqHead_keeps K fn lidx v hs
  | descriptorComplete ring tag => exact execDescriptorComplete_keeps K ring tag hs
  | irqHoldExpire ring => exact execIrqHoldExpire_keeps K ring hs
  | ringEnable fn ring => exact execRingEnable_keeps K fn ring hs
  | ringDisable fn ring => exact execRingDisable_keeps K fn ring hs
  | bmeClear fn => exact execBmeClear_keeps K fn hs
  | bmeSet fn => exact execBmeSet_keeps K fn hs
  | flrVf p => exact execFlrVf_keeps K p hs
  | flrPf0 => exact execFlrPf0_keeps K hs
  | apertureAccess fn off size write data => exact execApertureAccess_keeps K fn off size write data hs
  | dieWindowAccess die off size write data => exact execDieWindowAccess_keeps K die off size write data hs
  | dieWindowNoAnswer die off write => exact execDieWindowNoAnswer_keeps K die off write hs
  | dmaWindowWrite fn w lim v => exact execDmaWindowWrite_keeps K fn w lim v hs
  | pcieCompletion tag data => exact execPcieCompletion_keeps K tag data hs
  | pciCompletionTimeout tag => exact execPciCompletionTimeout_keeps K tag hs
  | hdmaProgressTimeout ring tag => exact execHdmaProgressTimeout_keeps K ring tag hs
  | wortReady cell => exact execWortReady_keeps K cell hs
  | wortRelease die cell => exact execWortRelease_keeps K die cell hs
  | wortAck p ackSeq nakSeq => exact execWortAck_keeps K p ackSeq nakSeq hs
  | helloAck p step => exact execHelloAck_keeps K p step hs
  | wortRetransmit p => exact execWortRetransmit_keeps K p hs
  | keepalive p => exact execKeepalive_keeps K p hs
  | wortRateCheck p ackedBytes => exact execWortRateCheck_keeps K p ackedBytes hs
  | wortReservationGrant die => exact execWortReservationGrant_keeps K die hs
  | ethLinkChange port speed => exact execEthLinkChange_keeps K port speed hs
  | neighbourSolicitation port target => exact execNeighbourSolicitation_keeps K port target hs
  | echoRequest port src data => exact execEchoRequest_keeps K port src data hs
  | ethFrameDiscard port => exact execEthFrameDiscard_keeps K port hs
  | rtLoad fn gen image => exact execRtLoad_keeps K fn gen image hs
  | rtxSummary port gen summary passed => exact execRtxSummary_keeps K port gen summary passed hs
  | rtxTimeout port => exact execRtxTimeout_keeps K port hs
  | rtAct => exact execRtAct_keeps K hs
  | rtSwGo => exact execRtSwGo_keeps K hs
  | bankDrainEnd bank => exact execBankDrainEnd_keeps K bank hs
  | cellForward inPort cell => exact execCellForward_keeps K inPort cell hs
  | linkCellReceive port tag cell lanes => exact execLinkCellReceive_keeps K port tag cell lanes hs
  | controlWordReceive port slot => exact execControlWordReceive_keeps K port slot hs
  | wrCell tgt cell => exact execWrCell_keeps K tgt cell hs
  | addCell die cell => exact execAddCell_keeps K die cell hs
  | rdreqCell tgt cell => exact execRdreqCell_keeps K tgt cell hs
  | sopenCell die cell => exact execSopenCell_keeps K die cell hs
  | sdataCell die cell => exact execSdataCell_keeps K die cell hs
  | ackCell tgt cell => exact execAckCell_keeps K tgt cell hs
  | nackCell tgt cell => exact execNackCell_keeps K tgt cell hs
  | streamRestart tgt id => exact execStreamRestart_keeps K tgt id hs
  | orphanTimeout die srcMod srcTgt stream => exact execOrphanTimeout_keeps K die srcMod srcTgt stream hs
  | transferTimeout tgt id => exact execTransferTimeout_keeps K tgt id hs
  | contextIdleFree die srcMod srcTgt stream => exact execContextIdleFree_keeps K die srcMod srcTgt stream hs
  | streamIdAvailable tgt id => exact execStreamIdAvailable_keeps K tgt id hs
  | cellTtlDrop port => exact execCellTtlDrop_keeps K port hs
  | mgmtCell port cell => exact execMgmtCell_keeps K port cell hs
  | identitySend port => exact execIdentitySend_keeps K port hs
  | identityReceive port msg => exact execIdentityReceive_keeps K port msg hs
  | portSignal port => exact execPortSignal_keeps K port hs
  | trainStageDone port => exact execTrainStageDone_keeps K port hs
  | trainStageOverrun port lane => exact execTrainStageOverrun_keeps K port lane hs
  | trainRetry port => exact execTrainRetry_keeps K port hs
  | portStall port part => exact execPortStall_keeps K port part hs
  | portResume port => exact execPortResume_keeps K port hs
  | portDown port cause => exact execPortDown_keeps K port cause hs
  | routeRevert port => exact execRouteRevert_keeps K port hs
  | portDisWrite port dis => exact execPortDisWrite_keeps K port dis hs
  | dlanePermFault die dir lane => exact execDlanePermFault_keeps K die dir lane hs
  | laserFail bank laser sample => exact execLaserFail_keeps K bank laser sample hs
  | laserTuneTimeout bank => exact execLaserTuneTimeout_keeps K bank hs
  | laserTakeoverDone bank => exact execLaserTakeoverDone_keeps K bank hs
  | laserAgeCheck bank laser bias mpd => exact execLaserAgeCheck_keeps K bank laser bias mpd hs
  | laserHandoverSwitch bank => exact execLaserHandoverSwitch_keeps K bank hs
  | spareDailyCheck bank laser pass => exact execSpareDailyCheck_keeps K bank laser pass hs
  | rxpwrSample port dir lane pwr => exact execRxpwrSample_keeps K port dir lane pwr hs
  | openFibreShutoff port unmated dark => exact execOpenFibreShutoff_keeps K port unmated dark hs
  | shutProbe port => exact execShutProbe_keeps K port hs
  | shutRestore port => exact execShutRestore_keeps K port hs
  | lullRequest port => exact execLullRequest_keeps K port hs
  | lullAnswerTimeout port => exact execLullAnswerTimeout_keeps K port hs
  | lullWake port => exact execLullWake_keeps K port hs
  | wakeTone port => exact execWakeTone_keeps K port hs
  | wakeTimeout port => exact execWakeTimeout_keeps K port hs
  | arrResidueFault die arr region cause column entry => exact execArrResidueFault_keeps K die arr region cause column entry hs
  | arrSelftestDone die phys pass => exact execArrSelftestDone_keeps K die phys pass hs
  | spareArraySelftest die phys pass => exact execSpareArraySelftest_keeps K die phys pass hs
  | mveResidueFault die cause column entry => exact execMveResidueFault_keeps K die cause column entry hs
  | mveSelftestDone die pass => exact execMveSelftestDone_keeps K die pass hs
  | rngParityFault die engine unit lane => exact execRngParityFault_keeps K die engine unit lane hs
  | updLaneFault die group => exact execUpdLaneFault_keeps K die group hs
  | waitTimeout core => exact execWaitTimeout_keeps K core hs
  | coreStallResume core => exact execCoreStallResume_keeps K core hs
  | prefetchRelease die => exact execPrefetchRelease_keeps K die hs
  | sramScrub die line flips => exact execSramScrub_keeps K die line flips hs
  | clusterTakeover die cluster => exact execClusterTakeover_keeps K die cluster hs
  | bankTakeover die bank => exact execBankTakeover_keeps K die bank hs
  | lpddrScrub die chan q err => exact execLpddrScrub_keeps K die chan q err hs
  | wcbWrite die off data tag => exact execWcbWrite_keeps K die off data tag hs
  | wcbAgeEvict die chan q => exact execWcbAgeEvict_keeps K die chan q hs
  | homeRead die off len err => exact execHomeRead_keeps K die off len err hs
  | mr4Poll pkg temp => exact execMr4Poll_keeps K pkg temp hs
  | channelFail chan cause => exact execChannelFail_keeps K chan cause hs
  | memRetire fn die chan page => exact execMemRetire_keeps K fn die chan page hs
  | segmentOpen cell => exact execSegmentOpen_keeps K cell hs
  | swmCell cell => exact execSwmCell_keeps K cell hs
  | swmReplan job gid => exact execSwmReplan_keeps K job gid hs
  | swmOpTimeout die gid opseq => exact execSwmOpTimeout_keeps K die gid opseq hs
  | capvVote cell => exact execCapvVote_keeps K cell hs
  | capvVector cell => exact execCapvVector_keeps K cell hs
  | capvWitnessVector cell => exact execCapvWitnessVector_keeps K cell hs
  | capvWitnessAck cell => exact execCapvWitnessAck_keeps K cell hs
  | capvAsk cell => exact execCapvAsk_keeps K cell hs
  | capvAbortRequest cell => exact execCapvAbortRequest_keeps K cell hs
  | rollbackDone die => exact execRollbackDone_keeps K die hs
  | voteToExpire cap => exact execVoteToExpire_keeps K cap hs
  | capAskTimer tgt => exact execCapAskTimer_keeps K tgt hs
  | captoExpire tgt => exact execCaptoExpire_keeps K tgt hs
  | capRecordFree cap => exact execCapRecordFree_keeps K cap hs
  | fenceList fn list => exact execFenceList_keeps K fn list hs
  | fenceNoticeSend entry => exact execFenceNoticeSend_keeps K entry hs
  | fenceNoticeReceive die => exact execFenceNoticeReceive_keeps K die hs
  | coreReset core kat => exact execCoreReset_keeps K core kat hs
  | clusterReset die cluster selftest pass kat => exact execClusterReset_keeps K die cluster selftest pass kat hs
  | partitionReset p kat => exact execPartitionReset_keeps K p kat hs
  | moduleReset cold => exact execModuleReset_keeps K cold hs
  | powerOn => exact execPowerOn_keeps K hs
  | bringupPhaseEnd r => exact execBringupPhaseEnd_keeps K r hs
  | fwBootFallback => exact execFwBootFallback_keeps K hs
  | peerWaitExpire => exact execPeerWaitExpire_keeps K hs
  | wireLoad fn table => exact execWireLoad_keeps K fn table hs
  | retainStore readBackOk => exact execRetainStore_keeps K readBackOk hs
  | fwWrite signatureOk seq version => exact execFwWrite_keeps K signatureOk seq version hs
  | rngTestGo die => exact execRngTestGo_keeps K die hs
  | mgkeyCommit => exact execMgkeyCommit_keeps K hs
  | configLock => exact execConfigLock_keeps K hs
  | counterWrite die n v => exact execCounterWrite_keeps K die n v hs
  | safetyThresholdWrite off v => exact execSafetyThresholdWrite_keeps K off v hs
  | imaskWrite v => exact execImaskWrite_keeps K v hs
  | timArm => exact execTimArm_keeps K hs
  | registerWrite fn off size v => exact execRegisterWrite_keeps K fn off size v hs
  | beatEdge late => exact execBeatEdge_keeps K late hs
  | beatLoss => exact execBeatLoss_keeps K hs
  | beatReturn => exact execBeatReturn_keeps K hs
  | refclkLoss => exact execRefclkLoss_keeps K hs
  | refclkReturn => exact execRefclkReturn_keeps K hs
  | brownOut => exact execBrownOut_keeps K hs
  | inputOvervoltage => exact execInputOvervoltage_keeps K hs
  | aonPowerLoss => exact execAonPowerLoss_keeps K hs
  | ilockRemoval => exact execIlockRemoval_keeps K hs
  | ilockRestart => exact execIlockRestart_keeps K hs
  | sidebandContention pin => exact execSidebandContention_keeps K pin hs
  | sidebandRetry pin => exact execSidebandRetry_keeps K pin hs
  | tjThrottle unit pair temp => exact execTjThrottle_keeps K unit pair temp hs
  | throttleStep die hot => exact execThrottleStep_keeps K die hot hs
  | tjShutdown unit pair temp => exact execTjShutdown_keeps K unit pair temp hs
  | sensorDisagreement unit pair temp => exact execSensorDisagreement_keeps K unit pair temp hs
  | railOvercurrent rail amps => exact execRailOvercurrent_keeps K rail amps hs
  | inputOvercurrent amps => exact execInputOvercurrent_keeps K amps hs
  | coolantLoss outlet reading => exact execCoolantLoss_keeps K outlet reading hs
  | powerLimitExceeded watts => exact execPowerLimitExceeded_keeps K watts hs
  | watchdogExpire => exact execWatchdogExpire_keeps K hs
  | logRecord e => exact execLogRecord_keeps K e hs
  | logQueueRelease die => exact execLogQueueRelease_keeps K die hs
  | logFailure mirror cause addr => exact execLogFailure_keeps K mirror cause addr hs
  | lastgaspRepeat => exact execLastgaspRepeat_keeps K hs
  | heartbeat => exact execHeartbeat_keeps K hs
  | resetReq header nonce tag => exact execResetReq_keeps K header nonce tag hs
  | tapReset => exact execTapReset_keeps K hs
  | bypass tap tdi => exact execBypass_keeps K tap tdi hs
  | idcode tap => exact execIdcode_keeps K tap hs
  | samplePreload tap pins preload => exact execSamplePreload_keeps K tap pins preload hs
  | extest tap pins => exact execExtest_keeps K tap pins hs
  | diesel sel => exact execDiesel_keeps K sel hs
  | ijtag tap instrument unit run reading queenBusy => exact execIjtag_keeps K tap instrument unit run reading queenBusy hs
  | queenRestartDone => exact execQueenRestartDone_keeps K hs
  | causeCleared => exact execCauseCleared_keeps K hs
  | probeSeen port => exact execProbeSeen_keeps K port hs
  | lossOfSymbols port => exact execLossOfSymbols_keeps K port hs
  | slewingDone => exact execSlewingDone_keeps K hs
  | alignmentLost => exact execAlignmentLost_keeps K hs
  | tagQuarantineEnd tag => exact execTagQuarantineEnd_keeps K tag hs
  | hostCredits n => exact execHostCredits_keeps K n hs
  | mgmtLinkChange port up => exact execMgmtLinkChange_keeps K port up hs
  | instrumentRunDone => exact execInstrumentRunDone_keeps K hs

end Sys2Proof.Machine
end

