-- ==== Sys2Proof/Laws/State.lean ====
section
/-! SUPPORT. What the named operations leave alone, field by field, and what a register field reads as after a write. -/

namespace Sys2Proof.Machine

/-! Registers and their fields. -/

theorem State.reg_setReg (s : State) (o : Nat) (v : Word64) : (s.setReg o v).reg o = v := Tbl.get_set _ _ _ _

theorem State.reg_setReg_ne (s : State) {o o' : Nat} (v : Word64) (h : o' ≠ o) : (s.setReg o v).reg o' = s.reg o' :=
  Tbl.get_set_ne _ _ _ _ h

/-- A field written reads as the value's low bits. -/
theorem State.fget_fset (s : State) (r : FRef) (v : Nat) (h : r.lo + r.w ≤ 64) : (s.fset r v).fget r = v % 2 ^ r.w := by
  rw [State.fget, State.fset, State.reg_setReg, fld_putFld _ _ h]

/-- A field apart from the one written reads as before. -/
theorem State.fget_fset_ne (s : State) (r q : FRef) (v : Nat)
    (h : q.off ≠ r.off ∨ q.lo + q.w ≤ r.lo ∨ r.lo + r.w ≤ q.lo) : (s.fset r v).fget q = s.fget q := by
  by_cases ho : q.off = r.off
  · have h2 : q.lo + q.w ≤ r.lo ∨ r.lo + r.w ≤ q.lo := by rcases h with h | h; exacts [absurd ho h, h]
    rw [State.fget, State.fset, ho, State.reg_setReg, fld_putFld_ne _ _ h2, State.fget, ho]
  · rw [State.fget, State.fset, State.reg_setReg_ne _ _ ho, State.fget]

theorem State.reg_fset_ne (s : State) (r : FRef) (v o : Nat) (h : o ≠ r.off) : (s.fset r v).reg o = s.reg o :=
  State.reg_setReg_ne _ _ h

/-- Registers read the same where the register tables are the same. -/
theorem State.fget_congr {s t : State} (h : t.regs = s.regs) (r : FRef) : t.fget r = s.fget r := by
  rw [State.fget, State.fget, State.reg, State.reg, h]

theorem State.reg_congr {s t : State} (h : t.regs = s.regs) (o : Nat) : t.reg o = s.reg o := by
  rw [State.reg, State.reg, h]

theorem State.fget_lt (s : State) (r : FRef) : s.fget r < 2 ^ r.w := fld_lt _ _ _

/-- Bytes of memory. -/
theorem State.byte_setByte (s : State) (k : Nat) (v : Byte) : (s.setByte k v).byte k = v :=
  Tbl.get_set (α := Byte) _ _ _ _

theorem State.byte_setByte_ne (s : State) {k k' : Nat} (v : Byte) (h : k' ≠ k) : (s.setByte k v).byte k' = s.byte k' :=
  Tbl.get_set_ne (α := Byte) _ _ _ _ h

/-! Frames, one per field. -/

@[simp] theorem State.setReg_pending (s : State) (off : Nat) (v : Word64) : (State.setReg s off v).pending = s.pending :=
  State.setReg_keeps (keeps_pending _ s.pending) off v rfl

@[simp] theorem State.setReg_out (s : State) (off : Nat) (v : Word64) : (State.setReg s off v).out = s.out :=
  State.setReg_keeps (keeps_sent s.out (by decide)) off v rfl

@[simp] theorem State.setReg_mem (s : State) (off : Nat) (v : Word64) : (State.setReg s off v).mem = s.mem :=
  State.setReg_keeps (keeps_mem s.mem (by decide)) off v rfl

@[simp] theorem State.setReg_core (s : State) (off : Nat) (v : Word64) : (State.setReg s off v).core = s.core :=
  State.setReg_keeps (keeps_core s.core (by decide)) off v rfl

@[simp] theorem State.setReg_eng (s : State) (off : Nat) (v : Word64) : (State.setReg s off v).eng = s.eng :=
  State.setReg_keeps (keeps_eng s.eng (by decide)) off v rfl

@[simp] theorem State.setReg_smp (s : State) (off : Nat) (v : Word64) : (State.setReg s off v).smp = s.smp :=
  State.setReg_keeps (keeps_smp s.smp (by decide)) off v rfl

@[simp] theorem State.setReg_upd (s : State) (off : Nat) (v : Word64) : (State.setReg s off v).upd = s.upd :=
  State.setReg_keeps (keeps_upd s.upd (by decide)) off v rfl

@[simp] theorem State.setReg_swm (s : State) (off : Nat) (v : Word64) : (State.setReg s off v).swm = s.swm :=
  State.setReg_keeps (keeps_swm s.swm (by decide)) off v rfl

@[simp] theorem State.setReg_cap (s : State) (off : Nat) (v : Word64) : (State.setReg s off v).cap = s.cap :=
  State.setReg_keeps (keeps_cap s.cap (by decide)) off v rfl

@[simp] theorem State.setReg_lp (s : State) (off : Nat) (v : Word64) : (State.setReg s off v).lp = s.lp :=
  State.setReg_keeps (keeps_lp s.lp (by decide)) off v rfl

@[simp] theorem State.setReg_log (s : State) (off : Nat) (v : Word64) : (State.setReg s off v).log = s.log :=
  State.setReg_keeps (keeps_log s.log (by decide)) off v rfl

@[simp] theorem State.setReg_fab (s : State) (off : Nat) (v : Word64) : (State.setReg s off v).fab = s.fab :=
  State.setReg_keeps (keeps_fab s.fab (by decide)) off v rfl

@[simp] theorem State.setReg_opt (s : State) (off : Nat) (v : Word64) : (State.setReg s off v).opt = s.opt :=
  State.setReg_keeps (keeps_opt s.opt (by decide)) off v rfl

@[simp] theorem State.setReg_host (s : State) (off : Nat) (v : Word64) : (State.setReg s off v).host = s.host :=
  State.setReg_keeps (keeps_host s.host (by decide)) off v rfl

@[simp] theorem State.setReg_wort (s : State) (off : Nat) (v : Word64) : (State.setReg s off v).wort = s.wort :=
  State.setReg_keeps (keeps_wort s.wort (by decide)) off v rfl

@[simp] theorem State.setReg_boot (s : State) (off : Nat) (v : Word64) : (State.setReg s off v).boot = s.boot :=
  State.setReg_keeps (keeps_boot s.boot (by decide)) off v rfl

@[simp] theorem State.setReg_saf (s : State) (off : Nat) (v : Word64) : (State.setReg s off v).saf = s.saf :=
  State.setReg_keeps (keeps_saf s.saf (by decide)) off v rfl

@[simp] theorem State.setReg_pwr (s : State) (off : Nat) (v : Word64) : (State.setReg s off v).pwr = s.pwr :=
  State.setReg_keeps (keeps_pwr s.pwr (by decide)) off v rfl

@[simp] theorem State.setReg_tap (s : State) (off : Nat) (v : Word64) : (State.setReg s off v).tap = s.tap :=
  State.setReg_keeps (keeps_tap s.tap (by decide)) off v rfl

@[simp] theorem State.setReg_tim (s : State) (off : Nat) (v : Word64) : (State.setReg s off v).tim = s.tim :=
  State.setReg_keeps (keeps_tim s.tim (by decide)) off v rfl

@[simp] theorem State.fset_pending (s : State) (r : FRef) (v : Nat) : (State.fset s r v).pending = s.pending :=
  State.fset_keeps (keeps_pending _ s.pending) r v rfl

@[simp] theorem State.fset_out (s : State) (r : FRef) (v : Nat) : (State.fset s r v).out = s.out :=
  State.fset_keeps (keeps_sent s.out (by decide)) r v rfl

@[simp] theorem State.fset_mem (s : State) (r : FRef) (v : Nat) : (State.fset s r v).mem = s.mem :=
  State.fset_keeps (keeps_mem s.mem (by decide)) r v rfl

@[simp] theorem State.fset_core (s : State) (r : FRef) (v : Nat) : (State.fset s r v).core = s.core :=
  State.fset_keeps (keeps_core s.core (by decide)) r v rfl

@[simp] theorem State.fset_eng (s : State) (r : FRef) (v : Nat) : (State.fset s r v).eng = s.eng :=
  State.fset_keeps (keeps_eng s.eng (by decide)) r v rfl

@[simp] theorem State.fset_smp (s : State) (r : FRef) (v : Nat) : (State.fset s r v).smp = s.smp :=
  State.fset_keeps (keeps_smp s.smp (by decide)) r v rfl

@[simp] theorem State.fset_upd (s : State) (r : FRef) (v : Nat) : (State.fset s r v).upd = s.upd :=
  State.fset_keeps (keeps_upd s.upd (by decide)) r v rfl

@[simp] theorem State.fset_swm (s : State) (r : FRef) (v : Nat) : (State.fset s r v).swm = s.swm :=
  State.fset_keeps (keeps_swm s.swm (by decide)) r v rfl

@[simp] theorem State.fset_cap (s : State) (r : FRef) (v : Nat) : (State.fset s r v).cap = s.cap :=
  State.fset_keeps (keeps_cap s.cap (by decide)) r v rfl

@[simp] theorem State.fset_lp (s : State) (r : FRef) (v : Nat) : (State.fset s r v).lp = s.lp :=
  State.fset_keeps (keeps_lp s.lp (by decide)) r v rfl

@[simp] theorem State.fset_log (s : State) (r : FRef) (v : Nat) : (State.fset s r v).log = s.log :=
  State.fset_keeps (keeps_log s.log (by decide)) r v rfl

@[simp] theorem State.fset_fab (s : State) (r : FRef) (v : Nat) : (State.fset s r v).fab = s.fab :=
  State.fset_keeps (keeps_fab s.fab (by decide)) r v rfl

@[simp] theorem State.fset_opt (s : State) (r : FRef) (v : Nat) : (State.fset s r v).opt = s.opt :=
  State.fset_keeps (keeps_opt s.opt (by decide)) r v rfl

@[simp] theorem State.fset_host (s : State) (r : FRef) (v : Nat) : (State.fset s r v).host = s.host :=
  State.fset_keeps (keeps_host s.host (by decide)) r v rfl

@[simp] theorem State.fset_wort (s : State) (r : FRef) (v : Nat) : (State.fset s r v).wort = s.wort :=
  State.fset_keeps (keeps_wort s.wort (by decide)) r v rfl

@[simp] theorem State.fset_boot (s : State) (r : FRef) (v : Nat) : (State.fset s r v).boot = s.boot :=
  State.fset_keeps (keeps_boot s.boot (by decide)) r v rfl

@[simp] theorem State.fset_saf (s : State) (r : FRef) (v : Nat) : (State.fset s r v).saf = s.saf :=
  State.fset_keeps (keeps_saf s.saf (by decide)) r v rfl

@[simp] theorem State.fset_pwr (s : State) (r : FRef) (v : Nat) : (State.fset s r v).pwr = s.pwr :=
  State.fset_keeps (keeps_pwr s.pwr (by decide)) r v rfl

@[simp] theorem State.fset_tap (s : State) (r : FRef) (v : Nat) : (State.fset s r v).tap = s.tap :=
  State.fset_keeps (keeps_tap s.tap (by decide)) r v rfl

@[simp] theorem State.fset_tim (s : State) (r : FRef) (v : Nat) : (State.fset s r v).tim = s.tim :=
  State.fset_keeps (keeps_tim s.tim (by decide)) r v rfl

@[simp] theorem State.finc_pending (s : State) (r : FRef) (n : Nat) : (State.finc s r n).pending = s.pending :=
  State.finc_keeps (keeps_pending _ s.pending) r n rfl

@[simp] theorem State.finc_out (s : State) (r : FRef) (n : Nat) : (State.finc s r n).out = s.out :=
  State.finc_keeps (keeps_sent s.out (by decide)) r n rfl

@[simp] theorem State.finc_mem (s : State) (r : FRef) (n : Nat) : (State.finc s r n).mem = s.mem :=
  State.finc_keeps (keeps_mem s.mem (by decide)) r n rfl

@[simp] theorem State.finc_core (s : State) (r : FRef) (n : Nat) : (State.finc s r n).core = s.core :=
  State.finc_keeps (keeps_core s.core (by decide)) r n rfl

@[simp] theorem State.finc_eng (s : State) (r : FRef) (n : Nat) : (State.finc s r n).eng = s.eng :=
  State.finc_keeps (keeps_eng s.eng (by decide)) r n rfl

@[simp] theorem State.finc_smp (s : State) (r : FRef) (n : Nat) : (State.finc s r n).smp = s.smp :=
  State.finc_keeps (keeps_smp s.smp (by decide)) r n rfl

@[simp] theorem State.finc_upd (s : State) (r : FRef) (n : Nat) : (State.finc s r n).upd = s.upd :=
  State.finc_keeps (keeps_upd s.upd (by decide)) r n rfl

@[simp] theorem State.finc_swm (s : State) (r : FRef) (n : Nat) : (State.finc s r n).swm = s.swm :=
  State.finc_keeps (keeps_swm s.swm (by decide)) r n rfl

@[simp] theorem State.finc_cap (s : State) (r : FRef) (n : Nat) : (State.finc s r n).cap = s.cap :=
  State.finc_keeps (keeps_cap s.cap (by decide)) r n rfl

@[simp] theorem State.finc_lp (s : State) (r : FRef) (n : Nat) : (State.finc s r n).lp = s.lp :=
  State.finc_keeps (keeps_lp s.lp (by decide)) r n rfl

@[simp] theorem State.finc_log (s : State) (r : FRef) (n : Nat) : (State.finc s r n).log = s.log :=
  State.finc_keeps (keeps_log s.log (by decide)) r n rfl

@[simp] theorem State.finc_fab (s : State) (r : FRef) (n : Nat) : (State.finc s r n).fab = s.fab :=
  State.finc_keeps (keeps_fab s.fab (by decide)) r n rfl

@[simp] theorem State.finc_opt (s : State) (r : FRef) (n : Nat) : (State.finc s r n).opt = s.opt :=
  State.finc_keeps (keeps_opt s.opt (by decide)) r n rfl

@[simp] theorem State.finc_host (s : State) (r : FRef) (n : Nat) : (State.finc s r n).host = s.host :=
  State.finc_keeps (keeps_host s.host (by decide)) r n rfl

@[simp] theorem State.finc_wort (s : State) (r : FRef) (n : Nat) : (State.finc s r n).wort = s.wort :=
  State.finc_keeps (keeps_wort s.wort (by decide)) r n rfl

@[simp] theorem State.finc_boot (s : State) (r : FRef) (n : Nat) : (State.finc s r n).boot = s.boot :=
  State.finc_keeps (keeps_boot s.boot (by decide)) r n rfl

@[simp] theorem State.finc_saf (s : State) (r : FRef) (n : Nat) : (State.finc s r n).saf = s.saf :=
  State.finc_keeps (keeps_saf s.saf (by decide)) r n rfl

@[simp] theorem State.finc_pwr (s : State) (r : FRef) (n : Nat) : (State.finc s r n).pwr = s.pwr :=
  State.finc_keeps (keeps_pwr s.pwr (by decide)) r n rfl

@[simp] theorem State.finc_tap (s : State) (r : FRef) (n : Nat) : (State.finc s r n).tap = s.tap :=
  State.finc_keeps (keeps_tap s.tap (by decide)) r n rfl

@[simp] theorem State.finc_tim (s : State) (r : FRef) (n : Nat) : (State.finc s r n).tim = s.tim :=
  State.finc_keeps (keeps_tim s.tim (by decide)) r n rfl

@[simp] theorem State.fsetBit_pending (s : State) (r : FRef) (k : Nat) (b : Bool) : (State.fsetBit s r k b).pending = s.pending :=
  State.fsetBit_keeps (keeps_pending _ s.pending) r k b rfl

@[simp] theorem State.fsetBit_out (s : State) (r : FRef) (k : Nat) (b : Bool) : (State.fsetBit s r k b).out = s.out :=
  State.fsetBit_keeps (keeps_sent s.out (by decide)) r k b rfl

@[simp] theorem State.fsetBit_mem (s : State) (r : FRef) (k : Nat) (b : Bool) : (State.fsetBit s r k b).mem = s.mem :=
  State.fsetBit_keeps (keeps_mem s.mem (by decide)) r k b rfl

@[simp] theorem State.fsetBit_core (s : State) (r : FRef) (k : Nat) (b : Bool) : (State.fsetBit s r k b).core = s.core :=
  State.fsetBit_keeps (keeps_core s.core (by decide)) r k b rfl

@[simp] theorem State.fsetBit_eng (s : State) (r : FRef) (k : Nat) (b : Bool) : (State.fsetBit s r k b).eng = s.eng :=
  State.fsetBit_keeps (keeps_eng s.eng (by decide)) r k b rfl

@[simp] theorem State.fsetBit_smp (s : State) (r : FRef) (k : Nat) (b : Bool) : (State.fsetBit s r k b).smp = s.smp :=
  State.fsetBit_keeps (keeps_smp s.smp (by decide)) r k b rfl

@[simp] theorem State.fsetBit_upd (s : State) (r : FRef) (k : Nat) (b : Bool) : (State.fsetBit s r k b).upd = s.upd :=
  State.fsetBit_keeps (keeps_upd s.upd (by decide)) r k b rfl

@[simp] theorem State.fsetBit_swm (s : State) (r : FRef) (k : Nat) (b : Bool) : (State.fsetBit s r k b).swm = s.swm :=
  State.fsetBit_keeps (keeps_swm s.swm (by decide)) r k b rfl

@[simp] theorem State.fsetBit_cap (s : State) (r : FRef) (k : Nat) (b : Bool) : (State.fsetBit s r k b).cap = s.cap :=
  State.fsetBit_keeps (keeps_cap s.cap (by decide)) r k b rfl

@[simp] theorem State.fsetBit_lp (s : State) (r : FRef) (k : Nat) (b : Bool) : (State.fsetBit s r k b).lp = s.lp :=
  State.fsetBit_keeps (keeps_lp s.lp (by decide)) r k b rfl

@[simp] theorem State.fsetBit_log (s : State) (r : FRef) (k : Nat) (b : Bool) : (State.fsetBit s r k b).log = s.log :=
  State.fsetBit_keeps (keeps_log s.log (by decide)) r k b rfl

@[simp] theorem State.fsetBit_fab (s : State) (r : FRef) (k : Nat) (b : Bool) : (State.fsetBit s r k b).fab = s.fab :=
  State.fsetBit_keeps (keeps_fab s.fab (by decide)) r k b rfl

@[simp] theorem State.fsetBit_opt (s : State) (r : FRef) (k : Nat) (b : Bool) : (State.fsetBit s r k b).opt = s.opt :=
  State.fsetBit_keeps (keeps_opt s.opt (by decide)) r k b rfl

@[simp] theorem State.fsetBit_host (s : State) (r : FRef) (k : Nat) (b : Bool) : (State.fsetBit s r k b).host = s.host :=
  State.fsetBit_keeps (keeps_host s.host (by decide)) r k b rfl

@[simp] theorem State.fsetBit_wort (s : State) (r : FRef) (k : Nat) (b : Bool) : (State.fsetBit s r k b).wort = s.wort :=
  State.fsetBit_keeps (keeps_wort s.wort (by decide)) r k b rfl

@[simp] theorem State.fsetBit_boot (s : State) (r : FRef) (k : Nat) (b : Bool) : (State.fsetBit s r k b).boot = s.boot :=
  State.fsetBit_keeps (keeps_boot s.boot (by decide)) r k b rfl

@[simp] theorem State.fsetBit_saf (s : State) (r : FRef) (k : Nat) (b : Bool) : (State.fsetBit s r k b).saf = s.saf :=
  State.fsetBit_keeps (keeps_saf s.saf (by decide)) r k b rfl

@[simp] theorem State.fsetBit_pwr (s : State) (r : FRef) (k : Nat) (b : Bool) : (State.fsetBit s r k b).pwr = s.pwr :=
  State.fsetBit_keeps (keeps_pwr s.pwr (by decide)) r k b rfl

@[simp] theorem State.fsetBit_tap (s : State) (r : FRef) (k : Nat) (b : Bool) : (State.fsetBit s r k b).tap = s.tap :=
  State.fsetBit_keeps (keeps_tap s.tap (by decide)) r k b rfl

@[simp] theorem State.fsetBit_tim (s : State) (r : FRef) (k : Nat) (b : Bool) : (State.fsetBit s r k b).tim = s.tim :=
  State.fsetBit_keeps (keeps_tim s.tim (by decide)) r k b rfl

@[simp] theorem State.setByte_pending (s : State) (key : Nat) (v : Byte) : (State.setByte s key v).pending = s.pending :=
  State.setByte_keeps (keeps_pending _ s.pending) key v rfl

@[simp] theorem State.setByte_out (s : State) (key : Nat) (v : Byte) : (State.setByte s key v).out = s.out :=
  State.setByte_keeps (keeps_sent s.out (by decide)) key v rfl

@[simp] theorem State.setByte_regs (s : State) (key : Nat) (v : Byte) : (State.setByte s key v).regs = s.regs :=
  State.setByte_keeps (keeps_regs s.regs (by decide)) key v rfl

@[simp] theorem State.setByte_core (s : State) (key : Nat) (v : Byte) : (State.setByte s key v).core = s.core :=
  State.setByte_keeps (keeps_core s.core (by decide)) key v rfl

@[simp] theorem State.setByte_eng (s : State) (key : Nat) (v : Byte) : (State.setByte s key v).eng = s.eng :=
  State.setByte_keeps (keeps_eng s.eng (by decide)) key v rfl

@[simp] theorem State.setByte_smp (s : State) (key : Nat) (v : Byte) : (State.setByte s key v).smp = s.smp :=
  State.setByte_keeps (keeps_smp s.smp (by decide)) key v rfl

@[simp] theorem State.setByte_upd (s : State) (key : Nat) (v : Byte) : (State.setByte s key v).upd = s.upd :=
  State.setByte_keeps (keeps_upd s.upd (by decide)) key v rfl

@[simp] theorem State.setByte_swm (s : State) (key : Nat) (v : Byte) : (State.setByte s key v).swm = s.swm :=
  State.setByte_keeps (keeps_swm s.swm (by decide)) key v rfl

@[simp] theorem State.setByte_cap (s : State) (key : Nat) (v : Byte) : (State.setByte s key v).cap = s.cap :=
  State.setByte_keeps (keeps_cap s.cap (by decide)) key v rfl

@[simp] theorem State.setByte_lp (s : State) (key : Nat) (v : Byte) : (State.setByte s key v).lp = s.lp :=
  State.setByte_keeps (keeps_lp s.lp (by decide)) key v rfl

@[simp] theorem State.setByte_log (s : State) (key : Nat) (v : Byte) : (State.setByte s key v).log = s.log :=
  State.setByte_keeps (keeps_log s.log (by decide)) key v rfl

@[simp] theorem State.setByte_fab (s : State) (key : Nat) (v : Byte) : (State.setByte s key v).fab = s.fab :=
  State.setByte_keeps (keeps_fab s.fab (by decide)) key v rfl

@[simp] theorem State.setByte_opt (s : State) (key : Nat) (v : Byte) : (State.setByte s key v).opt = s.opt :=
  State.setByte_keeps (keeps_opt s.opt (by decide)) key v rfl

@[simp] theorem State.setByte_host (s : State) (key : Nat) (v : Byte) : (State.setByte s key v).host = s.host :=
  State.setByte_keeps (keeps_host s.host (by decide)) key v rfl

@[simp] theorem State.setByte_wort (s : State) (key : Nat) (v : Byte) : (State.setByte s key v).wort = s.wort :=
  State.setByte_keeps (keeps_wort s.wort (by decide)) key v rfl

@[simp] theorem State.setByte_boot (s : State) (key : Nat) (v : Byte) : (State.setByte s key v).boot = s.boot :=
  State.setByte_keeps (keeps_boot s.boot (by decide)) key v rfl

@[simp] theorem State.setByte_saf (s : State) (key : Nat) (v : Byte) : (State.setByte s key v).saf = s.saf :=
  State.setByte_keeps (keeps_saf s.saf (by decide)) key v rfl

@[simp] theorem State.setByte_pwr (s : State) (key : Nat) (v : Byte) : (State.setByte s key v).pwr = s.pwr :=
  State.setByte_keeps (keeps_pwr s.pwr (by decide)) key v rfl

@[simp] theorem State.setByte_tap (s : State) (key : Nat) (v : Byte) : (State.setByte s key v).tap = s.tap :=
  State.setByte_keeps (keeps_tap s.tap (by decide)) key v rfl

@[simp] theorem State.setByte_tim (s : State) (key : Nat) (v : Byte) : (State.setByte s key v).tim = s.tim :=
  State.setByte_keeps (keeps_tim s.tim (by decide)) key v rfl

@[simp] theorem State.emit_pending (s : State) (o : Out) : (State.emit s o).pending = s.pending :=
  State.emit_keeps (keeps_pending _ s.pending) o rfl

@[simp] theorem State.emit_regs (s : State) (o : Out) : (State.emit s o).regs = s.regs :=
  State.emit_keeps (keeps_regs s.regs (by decide)) o rfl

@[simp] theorem State.emit_mem (s : State) (o : Out) : (State.emit s o).mem = s.mem :=
  State.emit_keeps (keeps_mem s.mem (by decide)) o rfl

@[simp] theorem State.emit_core (s : State) (o : Out) : (State.emit s o).core = s.core :=
  State.emit_keeps (keeps_core s.core (by decide)) o rfl

@[simp] theorem State.emit_eng (s : State) (o : Out) : (State.emit s o).eng = s.eng :=
  State.emit_keeps (keeps_eng s.eng (by decide)) o rfl

@[simp] theorem State.emit_smp (s : State) (o : Out) : (State.emit s o).smp = s.smp :=
  State.emit_keeps (keeps_smp s.smp (by decide)) o rfl

@[simp] theorem State.emit_upd (s : State) (o : Out) : (State.emit s o).upd = s.upd :=
  State.emit_keeps (keeps_upd s.upd (by decide)) o rfl

@[simp] theorem State.emit_swm (s : State) (o : Out) : (State.emit s o).swm = s.swm :=
  State.emit_keeps (keeps_swm s.swm (by decide)) o rfl

@[simp] theorem State.emit_cap (s : State) (o : Out) : (State.emit s o).cap = s.cap :=
  State.emit_keeps (keeps_cap s.cap (by decide)) o rfl

@[simp] theorem State.emit_lp (s : State) (o : Out) : (State.emit s o).lp = s.lp :=
  State.emit_keeps (keeps_lp s.lp (by decide)) o rfl

@[simp] theorem State.emit_log (s : State) (o : Out) : (State.emit s o).log = s.log :=
  State.emit_keeps (keeps_log s.log (by decide)) o rfl

@[simp] theorem State.emit_fab (s : State) (o : Out) : (State.emit s o).fab = s.fab :=
  State.emit_keeps (keeps_fab s.fab (by decide)) o rfl

@[simp] theorem State.emit_opt (s : State) (o : Out) : (State.emit s o).opt = s.opt :=
  State.emit_keeps (keeps_opt s.opt (by decide)) o rfl

@[simp] theorem State.emit_host (s : State) (o : Out) : (State.emit s o).host = s.host :=
  State.emit_keeps (keeps_host s.host (by decide)) o rfl

@[simp] theorem State.emit_wort (s : State) (o : Out) : (State.emit s o).wort = s.wort :=
  State.emit_keeps (keeps_wort s.wort (by decide)) o rfl

@[simp] theorem State.emit_boot (s : State) (o : Out) : (State.emit s o).boot = s.boot :=
  State.emit_keeps (keeps_boot s.boot (by decide)) o rfl

@[simp] theorem State.emit_saf (s : State) (o : Out) : (State.emit s o).saf = s.saf :=
  State.emit_keeps (keeps_saf s.saf (by decide)) o rfl

@[simp] theorem State.emit_pwr (s : State) (o : Out) : (State.emit s o).pwr = s.pwr :=
  State.emit_keeps (keeps_pwr s.pwr (by decide)) o rfl

@[simp] theorem State.emit_tap (s : State) (o : Out) : (State.emit s o).tap = s.tap :=
  State.emit_keeps (keeps_tap s.tap (by decide)) o rfl

@[simp] theorem State.emit_tim (s : State) (o : Out) : (State.emit s o).tim = s.tim :=
  State.emit_keeps (keeps_tim s.tim (by decide)) o rfl

@[simp] theorem State.emits_pending (s : State) (os : List Out) : (State.emits s os).pending = s.pending :=
  State.emits_keeps (keeps_pending _ s.pending) os rfl

@[simp] theorem State.emits_regs (s : State) (os : List Out) : (State.emits s os).regs = s.regs :=
  State.emits_keeps (keeps_regs s.regs (by decide)) os rfl

@[simp] theorem State.emits_mem (s : State) (os : List Out) : (State.emits s os).mem = s.mem :=
  State.emits_keeps (keeps_mem s.mem (by decide)) os rfl

@[simp] theorem State.emits_core (s : State) (os : List Out) : (State.emits s os).core = s.core :=
  State.emits_keeps (keeps_core s.core (by decide)) os rfl

@[simp] theorem State.emits_eng (s : State) (os : List Out) : (State.emits s os).eng = s.eng :=
  State.emits_keeps (keeps_eng s.eng (by decide)) os rfl

@[simp] theorem State.emits_smp (s : State) (os : List Out) : (State.emits s os).smp = s.smp :=
  State.emits_keeps (keeps_smp s.smp (by decide)) os rfl

@[simp] theorem State.emits_upd (s : State) (os : List Out) : (State.emits s os).upd = s.upd :=
  State.emits_keeps (keeps_upd s.upd (by decide)) os rfl

@[simp] theorem State.emits_swm (s : State) (os : List Out) : (State.emits s os).swm = s.swm :=
  State.emits_keeps (keeps_swm s.swm (by decide)) os rfl

@[simp] theorem State.emits_cap (s : State) (os : List Out) : (State.emits s os).cap = s.cap :=
  State.emits_keeps (keeps_cap s.cap (by decide)) os rfl

@[simp] theorem State.emits_lp (s : State) (os : List Out) : (State.emits s os).lp = s.lp :=
  State.emits_keeps (keeps_lp s.lp (by decide)) os rfl

@[simp] theorem State.emits_log (s : State) (os : List Out) : (State.emits s os).log = s.log :=
  State.emits_keeps (keeps_log s.log (by decide)) os rfl

@[simp] theorem State.emits_fab (s : State) (os : List Out) : (State.emits s os).fab = s.fab :=
  State.emits_keeps (keeps_fab s.fab (by decide)) os rfl

@[simp] theorem State.emits_opt (s : State) (os : List Out) : (State.emits s os).opt = s.opt :=
  State.emits_keeps (keeps_opt s.opt (by decide)) os rfl

@[simp] theorem State.emits_host (s : State) (os : List Out) : (State.emits s os).host = s.host :=
  State.emits_keeps (keeps_host s.host (by decide)) os rfl

@[simp] theorem State.emits_wort (s : State) (os : List Out) : (State.emits s os).wort = s.wort :=
  State.emits_keeps (keeps_wort s.wort (by decide)) os rfl

@[simp] theorem State.emits_boot (s : State) (os : List Out) : (State.emits s os).boot = s.boot :=
  State.emits_keeps (keeps_boot s.boot (by decide)) os rfl

@[simp] theorem State.emits_saf (s : State) (os : List Out) : (State.emits s os).saf = s.saf :=
  State.emits_keeps (keeps_saf s.saf (by decide)) os rfl

@[simp] theorem State.emits_pwr (s : State) (os : List Out) : (State.emits s os).pwr = s.pwr :=
  State.emits_keeps (keeps_pwr s.pwr (by decide)) os rfl

@[simp] theorem State.emits_tap (s : State) (os : List Out) : (State.emits s os).tap = s.tap :=
  State.emits_keeps (keeps_tap s.tap (by decide)) os rfl

@[simp] theorem State.emits_tim (s : State) (os : List Out) : (State.emits s os).tim = s.tim :=
  State.emits_keeps (keeps_tim s.tim (by decide)) os rfl

@[simp] theorem State.drawn_pending (s : State) : (State.drawn s).pending = s.pending :=
  State.drawn_keeps (keeps_pending _ s.pending)  rfl

@[simp] theorem State.drawn_out (s : State) : (State.drawn s).out = s.out :=
  State.drawn_keeps (keeps_sent s.out (by decide))  rfl

@[simp] theorem State.drawn_regs (s : State) : (State.drawn s).regs = s.regs :=
  State.drawn_keeps (keeps_regs s.regs (by decide))  rfl

@[simp] theorem State.drawn_mem (s : State) : (State.drawn s).mem = s.mem :=
  State.drawn_keeps (keeps_mem s.mem (by decide))  rfl

@[simp] theorem State.drawn_core (s : State) : (State.drawn s).core = s.core :=
  State.drawn_keeps (keeps_core s.core (by decide))  rfl

@[simp] theorem State.drawn_eng (s : State) : (State.drawn s).eng = s.eng :=
  State.drawn_keeps (keeps_eng s.eng (by decide))  rfl

@[simp] theorem State.drawn_smp (s : State) : (State.drawn s).smp = s.smp :=
  State.drawn_keeps (keeps_smp s.smp (by decide))  rfl

@[simp] theorem State.drawn_upd (s : State) : (State.drawn s).upd = s.upd :=
  State.drawn_keeps (keeps_upd s.upd (by decide))  rfl

@[simp] theorem State.drawn_swm (s : State) : (State.drawn s).swm = s.swm :=
  State.drawn_keeps (keeps_swm s.swm (by decide))  rfl

@[simp] theorem State.drawn_cap (s : State) : (State.drawn s).cap = s.cap :=
  State.drawn_keeps (keeps_cap s.cap (by decide))  rfl

@[simp] theorem State.drawn_lp (s : State) : (State.drawn s).lp = s.lp :=
  State.drawn_keeps (keeps_lp s.lp (by decide))  rfl

@[simp] theorem State.drawn_log (s : State) : (State.drawn s).log = s.log :=
  State.drawn_keeps (keeps_log s.log (by decide))  rfl

@[simp] theorem State.drawn_fab (s : State) : (State.drawn s).fab = s.fab :=
  State.drawn_keeps (keeps_fab s.fab (by decide))  rfl

@[simp] theorem State.drawn_opt (s : State) : (State.drawn s).opt = s.opt :=
  State.drawn_keeps (keeps_opt s.opt (by decide))  rfl

@[simp] theorem State.drawn_host (s : State) : (State.drawn s).host = s.host :=
  State.drawn_keeps (keeps_host s.host (by decide))  rfl

@[simp] theorem State.drawn_wort (s : State) : (State.drawn s).wort = s.wort :=
  State.drawn_keeps (keeps_wort s.wort (by decide))  rfl

@[simp] theorem State.drawn_boot (s : State) : (State.drawn s).boot = s.boot :=
  State.drawn_keeps (keeps_boot s.boot (by decide))  rfl

@[simp] theorem State.drawn_saf (s : State) : (State.drawn s).saf = s.saf :=
  State.drawn_keeps (keeps_saf s.saf (by decide))  rfl

@[simp] theorem State.drawn_pwr (s : State) : (State.drawn s).pwr = s.pwr :=
  State.drawn_keeps (keeps_pwr s.pwr (by decide))  rfl

@[simp] theorem State.drawn_tap (s : State) : (State.drawn s).tap = s.tap :=
  State.drawn_keeps (keeps_tap s.tap (by decide))  rfl

@[simp] theorem State.drawn_tim (s : State) : (State.drawn s).tim = s.tim :=
  State.drawn_keeps (keeps_tim s.tim (by decide))  rfl

@[simp] theorem State.raise_pending (s : State) (fn : Nat) (vec : Nat) : (State.raise s fn vec).pending = s.pending :=
  State.raise_keeps (keeps_pending _ s.pending) fn vec rfl

@[simp] theorem State.raise_regs (s : State) (fn : Nat) (vec : Nat) : (State.raise s fn vec).regs = s.regs :=
  State.raise_keeps (keeps_regs s.regs (by decide)) fn vec rfl

@[simp] theorem State.raise_mem (s : State) (fn : Nat) (vec : Nat) : (State.raise s fn vec).mem = s.mem :=
  State.raise_keeps (keeps_mem s.mem (by decide)) fn vec rfl

@[simp] theorem State.raise_core (s : State) (fn : Nat) (vec : Nat) : (State.raise s fn vec).core = s.core :=
  State.raise_keeps (keeps_core s.core (by decide)) fn vec rfl

@[simp] theorem State.raise_eng (s : State) (fn : Nat) (vec : Nat) : (State.raise s fn vec).eng = s.eng :=
  State.raise_keeps (keeps_eng s.eng (by decide)) fn vec rfl

@[simp] theorem State.raise_smp (s : State) (fn : Nat) (vec : Nat) : (State.raise s fn vec).smp = s.smp :=
  State.raise_keeps (keeps_smp s.smp (by decide)) fn vec rfl

@[simp] theorem State.raise_upd (s : State) (fn : Nat) (vec : Nat) : (State.raise s fn vec).upd = s.upd :=
  State.raise_keeps (keeps_upd s.upd (by decide)) fn vec rfl

@[simp] theorem State.raise_swm (s : State) (fn : Nat) (vec : Nat) : (State.raise s fn vec).swm = s.swm :=
  State.raise_keeps (keeps_swm s.swm (by decide)) fn vec rfl

@[simp] theorem State.raise_cap (s : State) (fn : Nat) (vec : Nat) : (State.raise s fn vec).cap = s.cap :=
  State.raise_keeps (keeps_cap s.cap (by decide)) fn vec rfl

@[simp] theorem State.raise_lp (s : State) (fn : Nat) (vec : Nat) : (State.raise s fn vec).lp = s.lp :=
  State.raise_keeps (keeps_lp s.lp (by decide)) fn vec rfl

@[simp] theorem State.raise_log (s : State) (fn : Nat) (vec : Nat) : (State.raise s fn vec).log = s.log :=
  State.raise_keeps (keeps_log s.log (by decide)) fn vec rfl

@[simp] theorem State.raise_fab (s : State) (fn : Nat) (vec : Nat) : (State.raise s fn vec).fab = s.fab :=
  State.raise_keeps (keeps_fab s.fab (by decide)) fn vec rfl

@[simp] theorem State.raise_opt (s : State) (fn : Nat) (vec : Nat) : (State.raise s fn vec).opt = s.opt :=
  State.raise_keeps (keeps_opt s.opt (by decide)) fn vec rfl

@[simp] theorem State.raise_host (s : State) (fn : Nat) (vec : Nat) : (State.raise s fn vec).host = s.host :=
  State.raise_keeps (keeps_host s.host (by decide)) fn vec rfl

@[simp] theorem State.raise_wort (s : State) (fn : Nat) (vec : Nat) : (State.raise s fn vec).wort = s.wort :=
  State.raise_keeps (keeps_wort s.wort (by decide)) fn vec rfl

@[simp] theorem State.raise_boot (s : State) (fn : Nat) (vec : Nat) : (State.raise s fn vec).boot = s.boot :=
  State.raise_keeps (keeps_boot s.boot (by decide)) fn vec rfl

@[simp] theorem State.raise_saf (s : State) (fn : Nat) (vec : Nat) : (State.raise s fn vec).saf = s.saf :=
  State.raise_keeps (keeps_saf s.saf (by decide)) fn vec rfl

@[simp] theorem State.raise_pwr (s : State) (fn : Nat) (vec : Nat) : (State.raise s fn vec).pwr = s.pwr :=
  State.raise_keeps (keeps_pwr s.pwr (by decide)) fn vec rfl

@[simp] theorem State.raise_tap (s : State) (fn : Nat) (vec : Nat) : (State.raise s fn vec).tap = s.tap :=
  State.raise_keeps (keeps_tap s.tap (by decide)) fn vec rfl

@[simp] theorem State.raise_tim (s : State) (fn : Nat) (vec : Nat) : (State.raise s fn vec).tim = s.tim :=
  State.raise_keeps (keeps_tim s.tim (by decide)) fn vec rfl

@[simp] theorem State.isum_pending (s : State) (k : Nat) : (State.isum s k).pending = s.pending :=
  State.isum_keeps (keeps_pending _ s.pending) k rfl

@[simp] theorem State.isum_mem (s : State) (k : Nat) : (State.isum s k).mem = s.mem :=
  State.isum_keeps (keeps_mem s.mem (by decide)) k rfl

@[simp] theorem State.isum_core (s : State) (k : Nat) : (State.isum s k).core = s.core :=
  State.isum_keeps (keeps_core s.core (by decide)) k rfl

@[simp] theorem State.isum_eng (s : State) (k : Nat) : (State.isum s k).eng = s.eng :=
  State.isum_keeps (keeps_eng s.eng (by decide)) k rfl

@[simp] theorem State.isum_smp (s : State) (k : Nat) : (State.isum s k).smp = s.smp :=
  State.isum_keeps (keeps_smp s.smp (by decide)) k rfl

@[simp] theorem State.isum_upd (s : State) (k : Nat) : (State.isum s k).upd = s.upd :=
  State.isum_keeps (keeps_upd s.upd (by decide)) k rfl

@[simp] theorem State.isum_swm (s : State) (k : Nat) : (State.isum s k).swm = s.swm :=
  State.isum_keeps (keeps_swm s.swm (by decide)) k rfl

@[simp] theorem State.isum_cap (s : State) (k : Nat) : (State.isum s k).cap = s.cap :=
  State.isum_keeps (keeps_cap s.cap (by decide)) k rfl

@[simp] theorem State.isum_lp (s : State) (k : Nat) : (State.isum s k).lp = s.lp :=
  State.isum_keeps (keeps_lp s.lp (by decide)) k rfl

@[simp] theorem State.isum_log (s : State) (k : Nat) : (State.isum s k).log = s.log :=
  State.isum_keeps (keeps_log s.log (by decide)) k rfl

@[simp] theorem State.isum_fab (s : State) (k : Nat) : (State.isum s k).fab = s.fab :=
  State.isum_keeps (keeps_fab s.fab (by decide)) k rfl

@[simp] theorem State.isum_opt (s : State) (k : Nat) : (State.isum s k).opt = s.opt :=
  State.isum_keeps (keeps_opt s.opt (by decide)) k rfl

@[simp] theorem State.isum_host (s : State) (k : Nat) : (State.isum s k).host = s.host :=
  State.isum_keeps (keeps_host s.host (by decide)) k rfl

@[simp] theorem State.isum_wort (s : State) (k : Nat) : (State.isum s k).wort = s.wort :=
  State.isum_keeps (keeps_wort s.wort (by decide)) k rfl

@[simp] theorem State.isum_boot (s : State) (k : Nat) : (State.isum s k).boot = s.boot :=
  State.isum_keeps (keeps_boot s.boot (by decide)) k rfl

@[simp] theorem State.isum_saf (s : State) (k : Nat) : (State.isum s k).saf = s.saf :=
  State.isum_keeps (keeps_saf s.saf (by decide)) k rfl

@[simp] theorem State.isum_pwr (s : State) (k : Nat) : (State.isum s k).pwr = s.pwr :=
  State.isum_keeps (keeps_pwr s.pwr (by decide)) k rfl

@[simp] theorem State.isum_tap (s : State) (k : Nat) : (State.isum s k).tap = s.tap :=
  State.isum_keeps (keeps_tap s.tap (by decide)) k rfl

@[simp] theorem State.isum_tim (s : State) (k : Nat) : (State.isum s k).tim = s.tim :=
  State.isum_keeps (keeps_tim s.tim (by decide)) k rfl

@[simp] theorem State.setCoreRec_pending (s : State) (core : Nat) (r : CoreRec) : (State.setCoreRec s core r).pending = s.pending :=
  State.setCoreRec_keeps (keeps_pending _ s.pending) core r rfl

@[simp] theorem State.setCoreRec_out (s : State) (core : Nat) (r : CoreRec) : (State.setCoreRec s core r).out = s.out :=
  State.setCoreRec_keeps (keeps_sent s.out (by decide)) core r rfl

@[simp] theorem State.setCoreRec_regs (s : State) (core : Nat) (r : CoreRec) : (State.setCoreRec s core r).regs = s.regs :=
  State.setCoreRec_keeps (keeps_regs s.regs (by decide)) core r rfl

@[simp] theorem State.setCoreRec_mem (s : State) (core : Nat) (r : CoreRec) : (State.setCoreRec s core r).mem = s.mem :=
  State.setCoreRec_keeps (keeps_mem s.mem (by decide)) core r rfl

@[simp] theorem State.setCoreRec_eng (s : State) (core : Nat) (r : CoreRec) : (State.setCoreRec s core r).eng = s.eng :=
  State.setCoreRec_keeps (keeps_eng s.eng (by decide)) core r rfl

@[simp] theorem State.setCoreRec_smp (s : State) (core : Nat) (r : CoreRec) : (State.setCoreRec s core r).smp = s.smp :=
  State.setCoreRec_keeps (keeps_smp s.smp (by decide)) core r rfl

@[simp] theorem State.setCoreRec_upd (s : State) (core : Nat) (r : CoreRec) : (State.setCoreRec s core r).upd = s.upd :=
  State.setCoreRec_keeps (keeps_upd s.upd (by decide)) core r rfl

@[simp] theorem State.setCoreRec_swm (s : State) (core : Nat) (r : CoreRec) : (State.setCoreRec s core r).swm = s.swm :=
  State.setCoreRec_keeps (keeps_swm s.swm (by decide)) core r rfl

@[simp] theorem State.setCoreRec_cap (s : State) (core : Nat) (r : CoreRec) : (State.setCoreRec s core r).cap = s.cap :=
  State.setCoreRec_keeps (keeps_cap s.cap (by decide)) core r rfl

@[simp] theorem State.setCoreRec_lp (s : State) (core : Nat) (r : CoreRec) : (State.setCoreRec s core r).lp = s.lp :=
  State.setCoreRec_keeps (keeps_lp s.lp (by decide)) core r rfl

@[simp] theorem State.setCoreRec_log (s : State) (core : Nat) (r : CoreRec) : (State.setCoreRec s core r).log = s.log :=
  State.setCoreRec_keeps (keeps_log s.log (by decide)) core r rfl

@[simp] theorem State.setCoreRec_fab (s : State) (core : Nat) (r : CoreRec) : (State.setCoreRec s core r).fab = s.fab :=
  State.setCoreRec_keeps (keeps_fab s.fab (by decide)) core r rfl

@[simp] theorem State.setCoreRec_opt (s : State) (core : Nat) (r : CoreRec) : (State.setCoreRec s core r).opt = s.opt :=
  State.setCoreRec_keeps (keeps_opt s.opt (by decide)) core r rfl

@[simp] theorem State.setCoreRec_host (s : State) (core : Nat) (r : CoreRec) : (State.setCoreRec s core r).host = s.host :=
  State.setCoreRec_keeps (keeps_host s.host (by decide)) core r rfl

@[simp] theorem State.setCoreRec_wort (s : State) (core : Nat) (r : CoreRec) : (State.setCoreRec s core r).wort = s.wort :=
  State.setCoreRec_keeps (keeps_wort s.wort (by decide)) core r rfl

@[simp] theorem State.setCoreRec_boot (s : State) (core : Nat) (r : CoreRec) : (State.setCoreRec s core r).boot = s.boot :=
  State.setCoreRec_keeps (keeps_boot s.boot (by decide)) core r rfl

@[simp] theorem State.setCoreRec_saf (s : State) (core : Nat) (r : CoreRec) : (State.setCoreRec s core r).saf = s.saf :=
  State.setCoreRec_keeps (keeps_saf s.saf (by decide)) core r rfl

@[simp] theorem State.setCoreRec_pwr (s : State) (core : Nat) (r : CoreRec) : (State.setCoreRec s core r).pwr = s.pwr :=
  State.setCoreRec_keeps (keeps_pwr s.pwr (by decide)) core r rfl

@[simp] theorem State.setCoreRec_tap (s : State) (core : Nat) (r : CoreRec) : (State.setCoreRec s core r).tap = s.tap :=
  State.setCoreRec_keeps (keeps_tap s.tap (by decide)) core r rfl

@[simp] theorem State.setCoreRec_tim (s : State) (core : Nat) (r : CoreRec) : (State.setCoreRec s core r).tim = s.tim :=
  State.setCoreRec_keeps (keeps_tim s.tim (by decide)) core r rfl

@[simp] theorem State.setCoreState_pending (s : State) (core : Nat) (st : Nat) : (State.setCoreState s core st).pending = s.pending :=
  State.setCoreState_keeps (keeps_pending _ s.pending) core st rfl

@[simp] theorem State.setCoreState_out (s : State) (core : Nat) (st : Nat) : (State.setCoreState s core st).out = s.out :=
  State.setCoreState_keeps (keeps_sent s.out (by decide)) core st rfl

@[simp] theorem State.setCoreState_mem (s : State) (core : Nat) (st : Nat) : (State.setCoreState s core st).mem = s.mem :=
  State.setCoreState_keeps (keeps_mem s.mem (by decide)) core st rfl

@[simp] theorem State.setCoreState_core (s : State) (core : Nat) (st : Nat) : (State.setCoreState s core st).core = s.core :=
  State.setCoreState_keeps (keeps_core s.core (by decide)) core st rfl

@[simp] theorem State.setCoreState_eng (s : State) (core : Nat) (st : Nat) : (State.setCoreState s core st).eng = s.eng :=
  State.setCoreState_keeps (keeps_eng s.eng (by decide)) core st rfl

@[simp] theorem State.setCoreState_smp (s : State) (core : Nat) (st : Nat) : (State.setCoreState s core st).smp = s.smp :=
  State.setCoreState_keeps (keeps_smp s.smp (by decide)) core st rfl

@[simp] theorem State.setCoreState_upd (s : State) (core : Nat) (st : Nat) : (State.setCoreState s core st).upd = s.upd :=
  State.setCoreState_keeps (keeps_upd s.upd (by decide)) core st rfl

@[simp] theorem State.setCoreState_swm (s : State) (core : Nat) (st : Nat) : (State.setCoreState s core st).swm = s.swm :=
  State.setCoreState_keeps (keeps_swm s.swm (by decide)) core st rfl

@[simp] theorem State.setCoreState_cap (s : State) (core : Nat) (st : Nat) : (State.setCoreState s core st).cap = s.cap :=
  State.setCoreState_keeps (keeps_cap s.cap (by decide)) core st rfl

@[simp] theorem State.setCoreState_lp (s : State) (core : Nat) (st : Nat) : (State.setCoreState s core st).lp = s.lp :=
  State.setCoreState_keeps (keeps_lp s.lp (by decide)) core st rfl

@[simp] theorem State.setCoreState_log (s : State) (core : Nat) (st : Nat) : (State.setCoreState s core st).log = s.log :=
  State.setCoreState_keeps (keeps_log s.log (by decide)) core st rfl

@[simp] theorem State.setCoreState_fab (s : State) (core : Nat) (st : Nat) : (State.setCoreState s core st).fab = s.fab :=
  State.setCoreState_keeps (keeps_fab s.fab (by decide)) core st rfl

@[simp] theorem State.setCoreState_opt (s : State) (core : Nat) (st : Nat) : (State.setCoreState s core st).opt = s.opt :=
  State.setCoreState_keeps (keeps_opt s.opt (by decide)) core st rfl

@[simp] theorem State.setCoreState_host (s : State) (core : Nat) (st : Nat) : (State.setCoreState s core st).host = s.host :=
  State.setCoreState_keeps (keeps_host s.host (by decide)) core st rfl

@[simp] theorem State.setCoreState_wort (s : State) (core : Nat) (st : Nat) : (State.setCoreState s core st).wort = s.wort :=
  State.setCoreState_keeps (keeps_wort s.wort (by decide)) core st rfl

@[simp] theorem State.setCoreState_boot (s : State) (core : Nat) (st : Nat) : (State.setCoreState s core st).boot = s.boot :=
  State.setCoreState_keeps (keeps_boot s.boot (by decide)) core st rfl

@[simp] theorem State.setCoreState_saf (s : State) (core : Nat) (st : Nat) : (State.setCoreState s core st).saf = s.saf :=
  State.setCoreState_keeps (keeps_saf s.saf (by decide)) core st rfl

@[simp] theorem State.setCoreState_pwr (s : State) (core : Nat) (st : Nat) : (State.setCoreState s core st).pwr = s.pwr :=
  State.setCoreState_keeps (keeps_pwr s.pwr (by decide)) core st rfl

@[simp] theorem State.setCoreState_tap (s : State) (core : Nat) (st : Nat) : (State.setCoreState s core st).tap = s.tap :=
  State.setCoreState_keeps (keeps_tap s.tap (by decide)) core st rfl

@[simp] theorem State.setCoreState_tim (s : State) (core : Nat) (st : Nat) : (State.setCoreState s core st).tim = s.tim :=
  State.setCoreState_keeps (keeps_tim s.tim (by decide)) core st rfl

@[simp] theorem State.issueNext_pending (s : State) (core : Nat) (w : CmdWord) : (State.issueNext s core w).pending = s.pending :=
  State.issueNext_keeps (keeps_pending _ s.pending) core w rfl

@[simp] theorem State.issueNext_out (s : State) (core : Nat) (w : CmdWord) : (State.issueNext s core w).out = s.out :=
  State.issueNext_keeps (keeps_sent s.out (by decide)) core w rfl

@[simp] theorem State.issueNext_regs (s : State) (core : Nat) (w : CmdWord) : (State.issueNext s core w).regs = s.regs :=
  State.issueNext_keeps (keeps_regs s.regs (by decide)) core w rfl

@[simp] theorem State.issueNext_mem (s : State) (core : Nat) (w : CmdWord) : (State.issueNext s core w).mem = s.mem :=
  State.issueNext_keeps (keeps_mem s.mem (by decide)) core w rfl

@[simp] theorem State.issueNext_eng (s : State) (core : Nat) (w : CmdWord) : (State.issueNext s core w).eng = s.eng :=
  State.issueNext_keeps (keeps_eng s.eng (by decide)) core w rfl

@[simp] theorem State.issueNext_smp (s : State) (core : Nat) (w : CmdWord) : (State.issueNext s core w).smp = s.smp :=
  State.issueNext_keeps (keeps_smp s.smp (by decide)) core w rfl

@[simp] theorem State.issueNext_upd (s : State) (core : Nat) (w : CmdWord) : (State.issueNext s core w).upd = s.upd :=
  State.issueNext_keeps (keeps_upd s.upd (by decide)) core w rfl

@[simp] theorem State.issueNext_swm (s : State) (core : Nat) (w : CmdWord) : (State.issueNext s core w).swm = s.swm :=
  State.issueNext_keeps (keeps_swm s.swm (by decide)) core w rfl

@[simp] theorem State.issueNext_cap (s : State) (core : Nat) (w : CmdWord) : (State.issueNext s core w).cap = s.cap :=
  State.issueNext_keeps (keeps_cap s.cap (by decide)) core w rfl

@[simp] theorem State.issueNext_lp (s : State) (core : Nat) (w : CmdWord) : (State.issueNext s core w).lp = s.lp :=
  State.issueNext_keeps (keeps_lp s.lp (by decide)) core w rfl

@[simp] theorem State.issueNext_log (s : State) (core : Nat) (w : CmdWord) : (State.issueNext s core w).log = s.log :=
  State.issueNext_keeps (keeps_log s.log (by decide)) core w rfl

@[simp] theorem State.issueNext_fab (s : State) (core : Nat) (w : CmdWord) : (State.issueNext s core w).fab = s.fab :=
  State.issueNext_keeps (keeps_fab s.fab (by decide)) core w rfl

@[simp] theorem State.issueNext_opt (s : State) (core : Nat) (w : CmdWord) : (State.issueNext s core w).opt = s.opt :=
  State.issueNext_keeps (keeps_opt s.opt (by decide)) core w rfl

@[simp] theorem State.issueNext_host (s : State) (core : Nat) (w : CmdWord) : (State.issueNext s core w).host = s.host :=
  State.issueNext_keeps (keeps_host s.host (by decide)) core w rfl

@[simp] theorem State.issueNext_wort (s : State) (core : Nat) (w : CmdWord) : (State.issueNext s core w).wort = s.wort :=
  State.issueNext_keeps (keeps_wort s.wort (by decide)) core w rfl

@[simp] theorem State.issueNext_boot (s : State) (core : Nat) (w : CmdWord) : (State.issueNext s core w).boot = s.boot :=
  State.issueNext_keeps (keeps_boot s.boot (by decide)) core w rfl

@[simp] theorem State.issueNext_saf (s : State) (core : Nat) (w : CmdWord) : (State.issueNext s core w).saf = s.saf :=
  State.issueNext_keeps (keeps_saf s.saf (by decide)) core w rfl

@[simp] theorem State.issueNext_pwr (s : State) (core : Nat) (w : CmdWord) : (State.issueNext s core w).pwr = s.pwr :=
  State.issueNext_keeps (keeps_pwr s.pwr (by decide)) core w rfl

@[simp] theorem State.issueNext_tap (s : State) (core : Nat) (w : CmdWord) : (State.issueNext s core w).tap = s.tap :=
  State.issueNext_keeps (keeps_tap s.tap (by decide)) core w rfl

@[simp] theorem State.issueNext_tim (s : State) (core : Nat) (w : CmdWord) : (State.issueNext s core w).tim = s.tim :=
  State.issueNext_keeps (keeps_tim s.tim (by decide)) core w rfl

@[simp] theorem State.cntAdd_pending (s : State) (die : Nat) (n : Nat) (v : Nat) : (State.cntAdd s die n v).pending = s.pending :=
  State.cntAdd_keeps (keeps_pending _ s.pending) die n v rfl

@[simp] theorem State.cntAdd_out (s : State) (die : Nat) (n : Nat) (v : Nat) : (State.cntAdd s die n v).out = s.out :=
  State.cntAdd_keeps (keeps_sent s.out (by decide)) die n v rfl

@[simp] theorem State.cntAdd_mem (s : State) (die : Nat) (n : Nat) (v : Nat) : (State.cntAdd s die n v).mem = s.mem :=
  State.cntAdd_keeps (keeps_mem s.mem (by decide)) die n v rfl

@[simp] theorem State.cntAdd_eng (s : State) (die : Nat) (n : Nat) (v : Nat) : (State.cntAdd s die n v).eng = s.eng :=
  State.cntAdd_keeps (keeps_eng s.eng (by decide)) die n v rfl

@[simp] theorem State.cntAdd_smp (s : State) (die : Nat) (n : Nat) (v : Nat) : (State.cntAdd s die n v).smp = s.smp :=
  State.cntAdd_keeps (keeps_smp s.smp (by decide)) die n v rfl

@[simp] theorem State.cntAdd_upd (s : State) (die : Nat) (n : Nat) (v : Nat) : (State.cntAdd s die n v).upd = s.upd :=
  State.cntAdd_keeps (keeps_upd s.upd (by decide)) die n v rfl

@[simp] theorem State.cntAdd_swm (s : State) (die : Nat) (n : Nat) (v : Nat) : (State.cntAdd s die n v).swm = s.swm :=
  State.cntAdd_keeps (keeps_swm s.swm (by decide)) die n v rfl

@[simp] theorem State.cntAdd_cap (s : State) (die : Nat) (n : Nat) (v : Nat) : (State.cntAdd s die n v).cap = s.cap :=
  State.cntAdd_keeps (keeps_cap s.cap (by decide)) die n v rfl

@[simp] theorem State.cntAdd_lp (s : State) (die : Nat) (n : Nat) (v : Nat) : (State.cntAdd s die n v).lp = s.lp :=
  State.cntAdd_keeps (keeps_lp s.lp (by decide)) die n v rfl

@[simp] theorem State.cntAdd_log (s : State) (die : Nat) (n : Nat) (v : Nat) : (State.cntAdd s die n v).log = s.log :=
  State.cntAdd_keeps (keeps_log s.log (by decide)) die n v rfl

@[simp] theorem State.cntAdd_fab (s : State) (die : Nat) (n : Nat) (v : Nat) : (State.cntAdd s die n v).fab = s.fab :=
  State.cntAdd_keeps (keeps_fab s.fab (by decide)) die n v rfl

@[simp] theorem State.cntAdd_opt (s : State) (die : Nat) (n : Nat) (v : Nat) : (State.cntAdd s die n v).opt = s.opt :=
  State.cntAdd_keeps (keeps_opt s.opt (by decide)) die n v rfl

@[simp] theorem State.cntAdd_wort (s : State) (die : Nat) (n : Nat) (v : Nat) : (State.cntAdd s die n v).wort = s.wort :=
  State.cntAdd_keeps (keeps_wort s.wort (by decide)) die n v rfl

@[simp] theorem State.cntAdd_boot (s : State) (die : Nat) (n : Nat) (v : Nat) : (State.cntAdd s die n v).boot = s.boot :=
  State.cntAdd_keeps (keeps_boot s.boot (by decide)) die n v rfl

@[simp] theorem State.cntAdd_saf (s : State) (die : Nat) (n : Nat) (v : Nat) : (State.cntAdd s die n v).saf = s.saf :=
  State.cntAdd_keeps (keeps_saf s.saf (by decide)) die n v rfl

@[simp] theorem State.cntAdd_pwr (s : State) (die : Nat) (n : Nat) (v : Nat) : (State.cntAdd s die n v).pwr = s.pwr :=
  State.cntAdd_keeps (keeps_pwr s.pwr (by decide)) die n v rfl

@[simp] theorem State.cntAdd_tap (s : State) (die : Nat) (n : Nat) (v : Nat) : (State.cntAdd s die n v).tap = s.tap :=
  State.cntAdd_keeps (keeps_tap s.tap (by decide)) die n v rfl

@[simp] theorem State.cntAdd_tim (s : State) (die : Nat) (n : Nat) (v : Nat) : (State.cntAdd s die n v).tim = s.tim :=
  State.cntAdd_keeps (keeps_tim s.tim (by decide)) die n v rfl

@[simp] theorem State.cntSet_pending (s : State) (die : Nat) (n : Nat) (v : Nat) : (State.cntSet s die n v).pending = s.pending :=
  State.cntSet_keeps (keeps_pending _ s.pending) die n v rfl

@[simp] theorem State.cntSet_out (s : State) (die : Nat) (n : Nat) (v : Nat) : (State.cntSet s die n v).out = s.out :=
  State.cntSet_keeps (keeps_sent s.out (by decide)) die n v rfl

@[simp] theorem State.cntSet_mem (s : State) (die : Nat) (n : Nat) (v : Nat) : (State.cntSet s die n v).mem = s.mem :=
  State.cntSet_keeps (keeps_mem s.mem (by decide)) die n v rfl

@[simp] theorem State.cntSet_eng (s : State) (die : Nat) (n : Nat) (v : Nat) : (State.cntSet s die n v).eng = s.eng :=
  State.cntSet_keeps (keeps_eng s.eng (by decide)) die n v rfl

@[simp] theorem State.cntSet_smp (s : State) (die : Nat) (n : Nat) (v : Nat) : (State.cntSet s die n v).smp = s.smp :=
  State.cntSet_keeps (keeps_smp s.smp (by decide)) die n v rfl

@[simp] theorem State.cntSet_upd (s : State) (die : Nat) (n : Nat) (v : Nat) : (State.cntSet s die n v).upd = s.upd :=
  State.cntSet_keeps (keeps_upd s.upd (by decide)) die n v rfl

@[simp] theorem State.cntSet_swm (s : State) (die : Nat) (n : Nat) (v : Nat) : (State.cntSet s die n v).swm = s.swm :=
  State.cntSet_keeps (keeps_swm s.swm (by decide)) die n v rfl

@[simp] theorem State.cntSet_cap (s : State) (die : Nat) (n : Nat) (v : Nat) : (State.cntSet s die n v).cap = s.cap :=
  State.cntSet_keeps (keeps_cap s.cap (by decide)) die n v rfl

@[simp] theorem State.cntSet_lp (s : State) (die : Nat) (n : Nat) (v : Nat) : (State.cntSet s die n v).lp = s.lp :=
  State.cntSet_keeps (keeps_lp s.lp (by decide)) die n v rfl

@[simp] theorem State.cntSet_log (s : State) (die : Nat) (n : Nat) (v : Nat) : (State.cntSet s die n v).log = s.log :=
  State.cntSet_keeps (keeps_log s.log (by decide)) die n v rfl

@[simp] theorem State.cntSet_fab (s : State) (die : Nat) (n : Nat) (v : Nat) : (State.cntSet s die n v).fab = s.fab :=
  State.cntSet_keeps (keeps_fab s.fab (by decide)) die n v rfl

@[simp] theorem State.cntSet_opt (s : State) (die : Nat) (n : Nat) (v : Nat) : (State.cntSet s die n v).opt = s.opt :=
  State.cntSet_keeps (keeps_opt s.opt (by decide)) die n v rfl

@[simp] theorem State.cntSet_wort (s : State) (die : Nat) (n : Nat) (v : Nat) : (State.cntSet s die n v).wort = s.wort :=
  State.cntSet_keeps (keeps_wort s.wort (by decide)) die n v rfl

@[simp] theorem State.cntSet_boot (s : State) (die : Nat) (n : Nat) (v : Nat) : (State.cntSet s die n v).boot = s.boot :=
  State.cntSet_keeps (keeps_boot s.boot (by decide)) die n v rfl

@[simp] theorem State.cntSet_saf (s : State) (die : Nat) (n : Nat) (v : Nat) : (State.cntSet s die n v).saf = s.saf :=
  State.cntSet_keeps (keeps_saf s.saf (by decide)) die n v rfl

@[simp] theorem State.cntSet_pwr (s : State) (die : Nat) (n : Nat) (v : Nat) : (State.cntSet s die n v).pwr = s.pwr :=
  State.cntSet_keeps (keeps_pwr s.pwr (by decide)) die n v rfl

@[simp] theorem State.cntSet_tap (s : State) (die : Nat) (n : Nat) (v : Nat) : (State.cntSet s die n v).tap = s.tap :=
  State.cntSet_keeps (keeps_tap s.tap (by decide)) die n v rfl

@[simp] theorem State.cntSet_tim (s : State) (die : Nat) (n : Nat) (v : Nat) : (State.cntSet s die n v).tim = s.tim :=
  State.cntSet_keeps (keeps_tim s.tim (by decide)) die n v rfl

@[simp] theorem State.completeRaw_pending (s : State) (core : Nat) (seq : Nat) (status0 : Nat) (reason : Nat) (nflags : Nat) : (State.completeRaw s core seq status0 reason nflags).pending = s.pending :=
  State.completeRaw_keeps (keeps_pending _ s.pending) core seq status0 reason nflags rfl

@[simp] theorem State.completeRaw_out (s : State) (core : Nat) (seq : Nat) (status0 : Nat) (reason : Nat) (nflags : Nat) : (State.completeRaw s core seq status0 reason nflags).out = s.out :=
  State.completeRaw_keeps (keeps_sent s.out (by decide)) core seq status0 reason nflags rfl

@[simp] theorem State.completeRaw_mem (s : State) (core : Nat) (seq : Nat) (status0 : Nat) (reason : Nat) (nflags : Nat) : (State.completeRaw s core seq status0 reason nflags).mem = s.mem :=
  State.completeRaw_keeps (keeps_mem s.mem (by decide)) core seq status0 reason nflags rfl

@[simp] theorem State.completeRaw_eng (s : State) (core : Nat) (seq : Nat) (status0 : Nat) (reason : Nat) (nflags : Nat) : (State.completeRaw s core seq status0 reason nflags).eng = s.eng :=
  State.completeRaw_keeps (keeps_eng s.eng (by decide)) core seq status0 reason nflags rfl

@[simp] theorem State.completeRaw_smp (s : State) (core : Nat) (seq : Nat) (status0 : Nat) (reason : Nat) (nflags : Nat) : (State.completeRaw s core seq status0 reason nflags).smp = s.smp :=
  State.completeRaw_keeps (keeps_smp s.smp (by decide)) core seq status0 reason nflags rfl

@[simp] theorem State.completeRaw_upd (s : State) (core : Nat) (seq : Nat) (status0 : Nat) (reason : Nat) (nflags : Nat) : (State.completeRaw s core seq status0 reason nflags).upd = s.upd :=
  State.completeRaw_keeps (keeps_upd s.upd (by decide)) core seq status0 reason nflags rfl

@[simp] theorem State.completeRaw_swm (s : State) (core : Nat) (seq : Nat) (status0 : Nat) (reason : Nat) (nflags : Nat) : (State.completeRaw s core seq status0 reason nflags).swm = s.swm :=
  State.completeRaw_keeps (keeps_swm s.swm (by decide)) core seq status0 reason nflags rfl

@[simp] theorem State.completeRaw_cap (s : State) (core : Nat) (seq : Nat) (status0 : Nat) (reason : Nat) (nflags : Nat) : (State.completeRaw s core seq status0 reason nflags).cap = s.cap :=
  State.completeRaw_keeps (keeps_cap s.cap (by decide)) core seq status0 reason nflags rfl

@[simp] theorem State.completeRaw_lp (s : State) (core : Nat) (seq : Nat) (status0 : Nat) (reason : Nat) (nflags : Nat) : (State.completeRaw s core seq status0 reason nflags).lp = s.lp :=
  State.completeRaw_keeps (keeps_lp s.lp (by decide)) core seq status0 reason nflags rfl

@[simp] theorem State.completeRaw_log (s : State) (core : Nat) (seq : Nat) (status0 : Nat) (reason : Nat) (nflags : Nat) : (State.completeRaw s core seq status0 reason nflags).log = s.log :=
  State.completeRaw_keeps (keeps_log s.log (by decide)) core seq status0 reason nflags rfl

@[simp] theorem State.completeRaw_fab (s : State) (core : Nat) (seq : Nat) (status0 : Nat) (reason : Nat) (nflags : Nat) : (State.completeRaw s core seq status0 reason nflags).fab = s.fab :=
  State.completeRaw_keeps (keeps_fab s.fab (by decide)) core seq status0 reason nflags rfl

@[simp] theorem State.completeRaw_opt (s : State) (core : Nat) (seq : Nat) (status0 : Nat) (reason : Nat) (nflags : Nat) : (State.completeRaw s core seq status0 reason nflags).opt = s.opt :=
  State.completeRaw_keeps (keeps_opt s.opt (by decide)) core seq status0 reason nflags rfl

@[simp] theorem State.completeRaw_wort (s : State) (core : Nat) (seq : Nat) (status0 : Nat) (reason : Nat) (nflags : Nat) : (State.completeRaw s core seq status0 reason nflags).wort = s.wort :=
  State.completeRaw_keeps (keeps_wort s.wort (by decide)) core seq status0 reason nflags rfl

@[simp] theorem State.completeRaw_boot (s : State) (core : Nat) (seq : Nat) (status0 : Nat) (reason : Nat) (nflags : Nat) : (State.completeRaw s core seq status0 reason nflags).boot = s.boot :=
  State.completeRaw_keeps (keeps_boot s.boot (by decide)) core seq status0 reason nflags rfl

@[simp] theorem State.completeRaw_saf (s : State) (core : Nat) (seq : Nat) (status0 : Nat) (reason : Nat) (nflags : Nat) : (State.completeRaw s core seq status0 reason nflags).saf = s.saf :=
  State.completeRaw_keeps (keeps_saf s.saf (by decide)) core seq status0 reason nflags rfl

@[simp] theorem State.completeRaw_pwr (s : State) (core : Nat) (seq : Nat) (status0 : Nat) (reason : Nat) (nflags : Nat) : (State.completeRaw s core seq status0 reason nflags).pwr = s.pwr :=
  State.completeRaw_keeps (keeps_pwr s.pwr (by decide)) core seq status0 reason nflags rfl

@[simp] theorem State.completeRaw_tap (s : State) (core : Nat) (seq : Nat) (status0 : Nat) (reason : Nat) (nflags : Nat) : (State.completeRaw s core seq status0 reason nflags).tap = s.tap :=
  State.completeRaw_keeps (keeps_tap s.tap (by decide)) core seq status0 reason nflags rfl

@[simp] theorem State.completeRaw_tim (s : State) (core : Nat) (seq : Nat) (status0 : Nat) (reason : Nat) (nflags : Nat) : (State.completeRaw s core seq status0 reason nflags).tim = s.tim :=
  State.completeRaw_keeps (keeps_tim s.tim (by decide)) core seq status0 reason nflags rfl

@[simp] theorem State.completeOK_pending (s : State) (core : Nat) (seq : Nat) : (State.completeOK s core seq).pending = s.pending :=
  State.completeOK_keeps (keeps_pending _ s.pending) core seq rfl

@[simp] theorem State.completeOK_out (s : State) (core : Nat) (seq : Nat) : (State.completeOK s core seq).out = s.out :=
  State.completeOK_keeps (keeps_sent s.out (by decide)) core seq rfl

@[simp] theorem State.completeOK_mem (s : State) (core : Nat) (seq : Nat) : (State.completeOK s core seq).mem = s.mem :=
  State.completeOK_keeps (keeps_mem s.mem (by decide)) core seq rfl

@[simp] theorem State.completeOK_eng (s : State) (core : Nat) (seq : Nat) : (State.completeOK s core seq).eng = s.eng :=
  State.completeOK_keeps (keeps_eng s.eng (by decide)) core seq rfl

@[simp] theorem State.completeOK_smp (s : State) (core : Nat) (seq : Nat) : (State.completeOK s core seq).smp = s.smp :=
  State.completeOK_keeps (keeps_smp s.smp (by decide)) core seq rfl

@[simp] theorem State.completeOK_upd (s : State) (core : Nat) (seq : Nat) : (State.completeOK s core seq).upd = s.upd :=
  State.completeOK_keeps (keeps_upd s.upd (by decide)) core seq rfl

@[simp] theorem State.completeOK_swm (s : State) (core : Nat) (seq : Nat) : (State.completeOK s core seq).swm = s.swm :=
  State.completeOK_keeps (keeps_swm s.swm (by decide)) core seq rfl

@[simp] theorem State.completeOK_cap (s : State) (core : Nat) (seq : Nat) : (State.completeOK s core seq).cap = s.cap :=
  State.completeOK_keeps (keeps_cap s.cap (by decide)) core seq rfl

@[simp] theorem State.completeOK_lp (s : State) (core : Nat) (seq : Nat) : (State.completeOK s core seq).lp = s.lp :=
  State.completeOK_keeps (keeps_lp s.lp (by decide)) core seq rfl

@[simp] theorem State.completeOK_log (s : State) (core : Nat) (seq : Nat) : (State.completeOK s core seq).log = s.log :=
  State.completeOK_keeps (keeps_log s.log (by decide)) core seq rfl

@[simp] theorem State.completeOK_fab (s : State) (core : Nat) (seq : Nat) : (State.completeOK s core seq).fab = s.fab :=
  State.completeOK_keeps (keeps_fab s.fab (by decide)) core seq rfl

@[simp] theorem State.completeOK_opt (s : State) (core : Nat) (seq : Nat) : (State.completeOK s core seq).opt = s.opt :=
  State.completeOK_keeps (keeps_opt s.opt (by decide)) core seq rfl

@[simp] theorem State.completeOK_wort (s : State) (core : Nat) (seq : Nat) : (State.completeOK s core seq).wort = s.wort :=
  State.completeOK_keeps (keeps_wort s.wort (by decide)) core seq rfl

@[simp] theorem State.completeOK_boot (s : State) (core : Nat) (seq : Nat) : (State.completeOK s core seq).boot = s.boot :=
  State.completeOK_keeps (keeps_boot s.boot (by decide)) core seq rfl

@[simp] theorem State.completeOK_saf (s : State) (core : Nat) (seq : Nat) : (State.completeOK s core seq).saf = s.saf :=
  State.completeOK_keeps (keeps_saf s.saf (by decide)) core seq rfl

@[simp] theorem State.completeOK_pwr (s : State) (core : Nat) (seq : Nat) : (State.completeOK s core seq).pwr = s.pwr :=
  State.completeOK_keeps (keeps_pwr s.pwr (by decide)) core seq rfl

@[simp] theorem State.completeOK_tap (s : State) (core : Nat) (seq : Nat) : (State.completeOK s core seq).tap = s.tap :=
  State.completeOK_keeps (keeps_tap s.tap (by decide)) core seq rfl

@[simp] theorem State.completeOK_tim (s : State) (core : Nat) (seq : Nat) : (State.completeOK s core seq).tim = s.tim :=
  State.completeOK_keeps (keeps_tim s.tim (by decide)) core seq rfl

@[simp] theorem State.logArrive_pending (s : State) (time : Nat) (e : LogEvent) (flags : Nat) : (State.logArrive s time e flags).pending = s.pending :=
  State.logArrive_keeps (keeps_pending _ s.pending) time e flags rfl

@[simp] theorem State.logArrive_mem (s : State) (time : Nat) (e : LogEvent) (flags : Nat) : (State.logArrive s time e flags).mem = s.mem :=
  State.logArrive_keeps (keeps_mem s.mem (by decide)) time e flags rfl

@[simp] theorem State.logArrive_core (s : State) (time : Nat) (e : LogEvent) (flags : Nat) : (State.logArrive s time e flags).core = s.core :=
  State.logArrive_keeps (keeps_core s.core (by decide)) time e flags rfl

@[simp] theorem State.logArrive_eng (s : State) (time : Nat) (e : LogEvent) (flags : Nat) : (State.logArrive s time e flags).eng = s.eng :=
  State.logArrive_keeps (keeps_eng s.eng (by decide)) time e flags rfl

@[simp] theorem State.logArrive_smp (s : State) (time : Nat) (e : LogEvent) (flags : Nat) : (State.logArrive s time e flags).smp = s.smp :=
  State.logArrive_keeps (keeps_smp s.smp (by decide)) time e flags rfl

@[simp] theorem State.logArrive_upd (s : State) (time : Nat) (e : LogEvent) (flags : Nat) : (State.logArrive s time e flags).upd = s.upd :=
  State.logArrive_keeps (keeps_upd s.upd (by decide)) time e flags rfl

@[simp] theorem State.logArrive_swm (s : State) (time : Nat) (e : LogEvent) (flags : Nat) : (State.logArrive s time e flags).swm = s.swm :=
  State.logArrive_keeps (keeps_swm s.swm (by decide)) time e flags rfl

@[simp] theorem State.logArrive_cap (s : State) (time : Nat) (e : LogEvent) (flags : Nat) : (State.logArrive s time e flags).cap = s.cap :=
  State.logArrive_keeps (keeps_cap s.cap (by decide)) time e flags rfl

@[simp] theorem State.logArrive_lp (s : State) (time : Nat) (e : LogEvent) (flags : Nat) : (State.logArrive s time e flags).lp = s.lp :=
  State.logArrive_keeps (keeps_lp s.lp (by decide)) time e flags rfl

@[simp] theorem State.logArrive_fab (s : State) (time : Nat) (e : LogEvent) (flags : Nat) : (State.logArrive s time e flags).fab = s.fab :=
  State.logArrive_keeps (keeps_fab s.fab (by decide)) time e flags rfl

@[simp] theorem State.logArrive_opt (s : State) (time : Nat) (e : LogEvent) (flags : Nat) : (State.logArrive s time e flags).opt = s.opt :=
  State.logArrive_keeps (keeps_opt s.opt (by decide)) time e flags rfl

@[simp] theorem State.logArrive_host (s : State) (time : Nat) (e : LogEvent) (flags : Nat) : (State.logArrive s time e flags).host = s.host :=
  State.logArrive_keeps (keeps_host s.host (by decide)) time e flags rfl

@[simp] theorem State.logArrive_wort (s : State) (time : Nat) (e : LogEvent) (flags : Nat) : (State.logArrive s time e flags).wort = s.wort :=
  State.logArrive_keeps (keeps_wort s.wort (by decide)) time e flags rfl

@[simp] theorem State.logArrive_boot (s : State) (time : Nat) (e : LogEvent) (flags : Nat) : (State.logArrive s time e flags).boot = s.boot :=
  State.logArrive_keeps (keeps_boot s.boot (by decide)) time e flags rfl

@[simp] theorem State.logArrive_saf (s : State) (time : Nat) (e : LogEvent) (flags : Nat) : (State.logArrive s time e flags).saf = s.saf :=
  State.logArrive_keeps (keeps_saf s.saf (by decide)) time e flags rfl

@[simp] theorem State.logArrive_pwr (s : State) (time : Nat) (e : LogEvent) (flags : Nat) : (State.logArrive s time e flags).pwr = s.pwr :=
  State.logArrive_keeps (keeps_pwr s.pwr (by decide)) time e flags rfl

@[simp] theorem State.logArrive_tap (s : State) (time : Nat) (e : LogEvent) (flags : Nat) : (State.logArrive s time e flags).tap = s.tap :=
  State.logArrive_keeps (keeps_tap s.tap (by decide)) time e flags rfl

@[simp] theorem State.logArrive_tim (s : State) (time : Nat) (e : LogEvent) (flags : Nat) : (State.logArrive s time e flags).tim = s.tim :=
  State.logArrive_keeps (keeps_tim s.tim (by decide)) time e flags rfl

@[simp] theorem State.hiveRec_pending (s : State) (code : Nat) (unit : Nat) (sev : Nat) (payload : Bytes) : (State.hiveRec s code unit sev payload).pending = s.pending :=
  State.hiveRec_keeps (keeps_pending _ s.pending) code unit sev payload rfl

@[simp] theorem State.hiveRec_mem (s : State) (code : Nat) (unit : Nat) (sev : Nat) (payload : Bytes) : (State.hiveRec s code unit sev payload).mem = s.mem :=
  State.hiveRec_keeps (keeps_mem s.mem (by decide)) code unit sev payload rfl

@[simp] theorem State.hiveRec_core (s : State) (code : Nat) (unit : Nat) (sev : Nat) (payload : Bytes) : (State.hiveRec s code unit sev payload).core = s.core :=
  State.hiveRec_keeps (keeps_core s.core (by decide)) code unit sev payload rfl

@[simp] theorem State.hiveRec_eng (s : State) (code : Nat) (unit : Nat) (sev : Nat) (payload : Bytes) : (State.hiveRec s code unit sev payload).eng = s.eng :=
  State.hiveRec_keeps (keeps_eng s.eng (by decide)) code unit sev payload rfl

@[simp] theorem State.hiveRec_smp (s : State) (code : Nat) (unit : Nat) (sev : Nat) (payload : Bytes) : (State.hiveRec s code unit sev payload).smp = s.smp :=
  State.hiveRec_keeps (keeps_smp s.smp (by decide)) code unit sev payload rfl

@[simp] theorem State.hiveRec_upd (s : State) (code : Nat) (unit : Nat) (sev : Nat) (payload : Bytes) : (State.hiveRec s code unit sev payload).upd = s.upd :=
  State.hiveRec_keeps (keeps_upd s.upd (by decide)) code unit sev payload rfl

@[simp] theorem State.hiveRec_swm (s : State) (code : Nat) (unit : Nat) (sev : Nat) (payload : Bytes) : (State.hiveRec s code unit sev payload).swm = s.swm :=
  State.hiveRec_keeps (keeps_swm s.swm (by decide)) code unit sev payload rfl

@[simp] theorem State.hiveRec_cap (s : State) (code : Nat) (unit : Nat) (sev : Nat) (payload : Bytes) : (State.hiveRec s code unit sev payload).cap = s.cap :=
  State.hiveRec_keeps (keeps_cap s.cap (by decide)) code unit sev payload rfl

@[simp] theorem State.hiveRec_lp (s : State) (code : Nat) (unit : Nat) (sev : Nat) (payload : Bytes) : (State.hiveRec s code unit sev payload).lp = s.lp :=
  State.hiveRec_keeps (keeps_lp s.lp (by decide)) code unit sev payload rfl

@[simp] theorem State.hiveRec_fab (s : State) (code : Nat) (unit : Nat) (sev : Nat) (payload : Bytes) : (State.hiveRec s code unit sev payload).fab = s.fab :=
  State.hiveRec_keeps (keeps_fab s.fab (by decide)) code unit sev payload rfl

@[simp] theorem State.hiveRec_opt (s : State) (code : Nat) (unit : Nat) (sev : Nat) (payload : Bytes) : (State.hiveRec s code unit sev payload).opt = s.opt :=
  State.hiveRec_keeps (keeps_opt s.opt (by decide)) code unit sev payload rfl

@[simp] theorem State.hiveRec_host (s : State) (code : Nat) (unit : Nat) (sev : Nat) (payload : Bytes) : (State.hiveRec s code unit sev payload).host = s.host :=
  State.hiveRec_keeps (keeps_host s.host (by decide)) code unit sev payload rfl

@[simp] theorem State.hiveRec_wort (s : State) (code : Nat) (unit : Nat) (sev : Nat) (payload : Bytes) : (State.hiveRec s code unit sev payload).wort = s.wort :=
  State.hiveRec_keeps (keeps_wort s.wort (by decide)) code unit sev payload rfl

@[simp] theorem State.hiveRec_boot (s : State) (code : Nat) (unit : Nat) (sev : Nat) (payload : Bytes) : (State.hiveRec s code unit sev payload).boot = s.boot :=
  State.hiveRec_keeps (keeps_boot s.boot (by decide)) code unit sev payload rfl

@[simp] theorem State.hiveRec_saf (s : State) (code : Nat) (unit : Nat) (sev : Nat) (payload : Bytes) : (State.hiveRec s code unit sev payload).saf = s.saf :=
  State.hiveRec_keeps (keeps_saf s.saf (by decide)) code unit sev payload rfl

@[simp] theorem State.hiveRec_pwr (s : State) (code : Nat) (unit : Nat) (sev : Nat) (payload : Bytes) : (State.hiveRec s code unit sev payload).pwr = s.pwr :=
  State.hiveRec_keeps (keeps_pwr s.pwr (by decide)) code unit sev payload rfl

@[simp] theorem State.hiveRec_tap (s : State) (code : Nat) (unit : Nat) (sev : Nat) (payload : Bytes) : (State.hiveRec s code unit sev payload).tap = s.tap :=
  State.hiveRec_keeps (keeps_tap s.tap (by decide)) code unit sev payload rfl

@[simp] theorem State.hiveRec_tim (s : State) (code : Nat) (unit : Nat) (sev : Nat) (payload : Bytes) : (State.hiveRec s code unit sev payload).tim = s.tim :=
  State.hiveRec_keeps (keeps_tim s.tim (by decide)) code unit sev payload rfl

@[simp] theorem State.aonRec_pending (s : State) (code : Nat) (sev : Nat) (payload : Bytes) : (State.aonRec s code sev payload).pending = s.pending :=
  State.aonRec_keeps (keeps_pending _ s.pending) code sev payload rfl

@[simp] theorem State.aonRec_mem (s : State) (code : Nat) (sev : Nat) (payload : Bytes) : (State.aonRec s code sev payload).mem = s.mem :=
  State.aonRec_keeps (keeps_mem s.mem (by decide)) code sev payload rfl

@[simp] theorem State.aonRec_core (s : State) (code : Nat) (sev : Nat) (payload : Bytes) : (State.aonRec s code sev payload).core = s.core :=
  State.aonRec_keeps (keeps_core s.core (by decide)) code sev payload rfl

@[simp] theorem State.aonRec_eng (s : State) (code : Nat) (sev : Nat) (payload : Bytes) : (State.aonRec s code sev payload).eng = s.eng :=
  State.aonRec_keeps (keeps_eng s.eng (by decide)) code sev payload rfl

@[simp] theorem State.aonRec_smp (s : State) (code : Nat) (sev : Nat) (payload : Bytes) : (State.aonRec s code sev payload).smp = s.smp :=
  State.aonRec_keeps (keeps_smp s.smp (by decide)) code sev payload rfl

@[simp] theorem State.aonRec_upd (s : State) (code : Nat) (sev : Nat) (payload : Bytes) : (State.aonRec s code sev payload).upd = s.upd :=
  State.aonRec_keeps (keeps_upd s.upd (by decide)) code sev payload rfl

@[simp] theorem State.aonRec_swm (s : State) (code : Nat) (sev : Nat) (payload : Bytes) : (State.aonRec s code sev payload).swm = s.swm :=
  State.aonRec_keeps (keeps_swm s.swm (by decide)) code sev payload rfl

@[simp] theorem State.aonRec_cap (s : State) (code : Nat) (sev : Nat) (payload : Bytes) : (State.aonRec s code sev payload).cap = s.cap :=
  State.aonRec_keeps (keeps_cap s.cap (by decide)) code sev payload rfl

@[simp] theorem State.aonRec_lp (s : State) (code : Nat) (sev : Nat) (payload : Bytes) : (State.aonRec s code sev payload).lp = s.lp :=
  State.aonRec_keeps (keeps_lp s.lp (by decide)) code sev payload rfl

@[simp] theorem State.aonRec_fab (s : State) (code : Nat) (sev : Nat) (payload : Bytes) : (State.aonRec s code sev payload).fab = s.fab :=
  State.aonRec_keeps (keeps_fab s.fab (by decide)) code sev payload rfl

@[simp] theorem State.aonRec_opt (s : State) (code : Nat) (sev : Nat) (payload : Bytes) : (State.aonRec s code sev payload).opt = s.opt :=
  State.aonRec_keeps (keeps_opt s.opt (by decide)) code sev payload rfl

@[simp] theorem State.aonRec_host (s : State) (code : Nat) (sev : Nat) (payload : Bytes) : (State.aonRec s code sev payload).host = s.host :=
  State.aonRec_keeps (keeps_host s.host (by decide)) code sev payload rfl

@[simp] theorem State.aonRec_wort (s : State) (code : Nat) (sev : Nat) (payload : Bytes) : (State.aonRec s code sev payload).wort = s.wort :=
  State.aonRec_keeps (keeps_wort s.wort (by decide)) code sev payload rfl

@[simp] theorem State.aonRec_boot (s : State) (code : Nat) (sev : Nat) (payload : Bytes) : (State.aonRec s code sev payload).boot = s.boot :=
  State.aonRec_keeps (keeps_boot s.boot (by decide)) code sev payload rfl

@[simp] theorem State.aonRec_saf (s : State) (code : Nat) (sev : Nat) (payload : Bytes) : (State.aonRec s code sev payload).saf = s.saf :=
  State.aonRec_keeps (keeps_saf s.saf (by decide)) code sev payload rfl

@[simp] theorem State.aonRec_pwr (s : State) (code : Nat) (sev : Nat) (payload : Bytes) : (State.aonRec s code sev payload).pwr = s.pwr :=
  State.aonRec_keeps (keeps_pwr s.pwr (by decide)) code sev payload rfl

@[simp] theorem State.aonRec_tap (s : State) (code : Nat) (sev : Nat) (payload : Bytes) : (State.aonRec s code sev payload).tap = s.tap :=
  State.aonRec_keeps (keeps_tap s.tap (by decide)) code sev payload rfl

@[simp] theorem State.aonRec_tim (s : State) (code : Nat) (sev : Nat) (payload : Bytes) : (State.aonRec s code sev payload).tim = s.tim :=
  State.aonRec_keeps (keeps_tim s.tim (by decide)) code sev payload rfl

@[simp] theorem State.dieRec_pending (s : State) (die : Nat) (code : Nat) (unit : Nat) (sev : Nat) (payload : Bytes) : (State.dieRec s die code unit sev payload).pending = s.pending :=
  State.dieRec_keeps (keeps_pending _ s.pending) die code unit sev payload rfl

@[simp] theorem State.dieRec_out (s : State) (die : Nat) (code : Nat) (unit : Nat) (sev : Nat) (payload : Bytes) : (State.dieRec s die code unit sev payload).out = s.out :=
  State.dieRec_keeps (keeps_sent s.out (by decide)) die code unit sev payload rfl

@[simp] theorem State.dieRec_regs (s : State) (die : Nat) (code : Nat) (unit : Nat) (sev : Nat) (payload : Bytes) : (State.dieRec s die code unit sev payload).regs = s.regs :=
  State.dieRec_keeps (keeps_regs s.regs (by decide)) die code unit sev payload rfl

@[simp] theorem State.dieRec_mem (s : State) (die : Nat) (code : Nat) (unit : Nat) (sev : Nat) (payload : Bytes) : (State.dieRec s die code unit sev payload).mem = s.mem :=
  State.dieRec_keeps (keeps_mem s.mem (by decide)) die code unit sev payload rfl

@[simp] theorem State.dieRec_core (s : State) (die : Nat) (code : Nat) (unit : Nat) (sev : Nat) (payload : Bytes) : (State.dieRec s die code unit sev payload).core = s.core :=
  State.dieRec_keeps (keeps_core s.core (by decide)) die code unit sev payload rfl

@[simp] theorem State.dieRec_eng (s : State) (die : Nat) (code : Nat) (unit : Nat) (sev : Nat) (payload : Bytes) : (State.dieRec s die code unit sev payload).eng = s.eng :=
  State.dieRec_keeps (keeps_eng s.eng (by decide)) die code unit sev payload rfl

@[simp] theorem State.dieRec_smp (s : State) (die : Nat) (code : Nat) (unit : Nat) (sev : Nat) (payload : Bytes) : (State.dieRec s die code unit sev payload).smp = s.smp :=
  State.dieRec_keeps (keeps_smp s.smp (by decide)) die code unit sev payload rfl

@[simp] theorem State.dieRec_upd (s : State) (die : Nat) (code : Nat) (unit : Nat) (sev : Nat) (payload : Bytes) : (State.dieRec s die code unit sev payload).upd = s.upd :=
  State.dieRec_keeps (keeps_upd s.upd (by decide)) die code unit sev payload rfl

@[simp] theorem State.dieRec_swm (s : State) (die : Nat) (code : Nat) (unit : Nat) (sev : Nat) (payload : Bytes) : (State.dieRec s die code unit sev payload).swm = s.swm :=
  State.dieRec_keeps (keeps_swm s.swm (by decide)) die code unit sev payload rfl

@[simp] theorem State.dieRec_cap (s : State) (die : Nat) (code : Nat) (unit : Nat) (sev : Nat) (payload : Bytes) : (State.dieRec s die code unit sev payload).cap = s.cap :=
  State.dieRec_keeps (keeps_cap s.cap (by decide)) die code unit sev payload rfl

@[simp] theorem State.dieRec_lp (s : State) (die : Nat) (code : Nat) (unit : Nat) (sev : Nat) (payload : Bytes) : (State.dieRec s die code unit sev payload).lp = s.lp :=
  State.dieRec_keeps (keeps_lp s.lp (by decide)) die code unit sev payload rfl

@[simp] theorem State.dieRec_fab (s : State) (die : Nat) (code : Nat) (unit : Nat) (sev : Nat) (payload : Bytes) : (State.dieRec s die code unit sev payload).fab = s.fab :=
  State.dieRec_keeps (keeps_fab s.fab (by decide)) die code unit sev payload rfl

@[simp] theorem State.dieRec_opt (s : State) (die : Nat) (code : Nat) (unit : Nat) (sev : Nat) (payload : Bytes) : (State.dieRec s die code unit sev payload).opt = s.opt :=
  State.dieRec_keeps (keeps_opt s.opt (by decide)) die code unit sev payload rfl

@[simp] theorem State.dieRec_host (s : State) (die : Nat) (code : Nat) (unit : Nat) (sev : Nat) (payload : Bytes) : (State.dieRec s die code unit sev payload).host = s.host :=
  State.dieRec_keeps (keeps_host s.host (by decide)) die code unit sev payload rfl

@[simp] theorem State.dieRec_wort (s : State) (die : Nat) (code : Nat) (unit : Nat) (sev : Nat) (payload : Bytes) : (State.dieRec s die code unit sev payload).wort = s.wort :=
  State.dieRec_keeps (keeps_wort s.wort (by decide)) die code unit sev payload rfl

@[simp] theorem State.dieRec_boot (s : State) (die : Nat) (code : Nat) (unit : Nat) (sev : Nat) (payload : Bytes) : (State.dieRec s die code unit sev payload).boot = s.boot :=
  State.dieRec_keeps (keeps_boot s.boot (by decide)) die code unit sev payload rfl

@[simp] theorem State.dieRec_saf (s : State) (die : Nat) (code : Nat) (unit : Nat) (sev : Nat) (payload : Bytes) : (State.dieRec s die code unit sev payload).saf = s.saf :=
  State.dieRec_keeps (keeps_saf s.saf (by decide)) die code unit sev payload rfl

@[simp] theorem State.dieRec_pwr (s : State) (die : Nat) (code : Nat) (unit : Nat) (sev : Nat) (payload : Bytes) : (State.dieRec s die code unit sev payload).pwr = s.pwr :=
  State.dieRec_keeps (keeps_pwr s.pwr (by decide)) die code unit sev payload rfl

@[simp] theorem State.dieRec_tap (s : State) (die : Nat) (code : Nat) (unit : Nat) (sev : Nat) (payload : Bytes) : (State.dieRec s die code unit sev payload).tap = s.tap :=
  State.dieRec_keeps (keeps_tap s.tap (by decide)) die code unit sev payload rfl

@[simp] theorem State.dieRec_tim (s : State) (die : Nat) (code : Nat) (unit : Nat) (sev : Nat) (payload : Bytes) : (State.dieRec s die code unit sev payload).tim = s.tim :=
  State.dieRec_keeps (keeps_tim s.tim (by decide)) die code unit sev payload rfl

@[simp] theorem State.refuseRec_pending (s : State) (core : Nat) (opc : Nat) (reason : Nat) : (State.refuseRec s core opc reason).pending = s.pending :=
  State.refuseRec_keeps (keeps_pending _ s.pending) core opc reason rfl

@[simp] theorem State.refuseRec_out (s : State) (core : Nat) (opc : Nat) (reason : Nat) : (State.refuseRec s core opc reason).out = s.out :=
  State.refuseRec_keeps (keeps_sent s.out (by decide)) core opc reason rfl

@[simp] theorem State.refuseRec_regs (s : State) (core : Nat) (opc : Nat) (reason : Nat) : (State.refuseRec s core opc reason).regs = s.regs :=
  State.refuseRec_keeps (keeps_regs s.regs (by decide)) core opc reason rfl

@[simp] theorem State.refuseRec_mem (s : State) (core : Nat) (opc : Nat) (reason : Nat) : (State.refuseRec s core opc reason).mem = s.mem :=
  State.refuseRec_keeps (keeps_mem s.mem (by decide)) core opc reason rfl

@[simp] theorem State.refuseRec_core (s : State) (core : Nat) (opc : Nat) (reason : Nat) : (State.refuseRec s core opc reason).core = s.core :=
  State.refuseRec_keeps (keeps_core s.core (by decide)) core opc reason rfl

@[simp] theorem State.refuseRec_eng (s : State) (core : Nat) (opc : Nat) (reason : Nat) : (State.refuseRec s core opc reason).eng = s.eng :=
  State.refuseRec_keeps (keeps_eng s.eng (by decide)) core opc reason rfl

@[simp] theorem State.refuseRec_smp (s : State) (core : Nat) (opc : Nat) (reason : Nat) : (State.refuseRec s core opc reason).smp = s.smp :=
  State.refuseRec_keeps (keeps_smp s.smp (by decide)) core opc reason rfl

@[simp] theorem State.refuseRec_upd (s : State) (core : Nat) (opc : Nat) (reason : Nat) : (State.refuseRec s core opc reason).upd = s.upd :=
  State.refuseRec_keeps (keeps_upd s.upd (by decide)) core opc reason rfl

@[simp] theorem State.refuseRec_swm (s : State) (core : Nat) (opc : Nat) (reason : Nat) : (State.refuseRec s core opc reason).swm = s.swm :=
  State.refuseRec_keeps (keeps_swm s.swm (by decide)) core opc reason rfl

@[simp] theorem State.refuseRec_cap (s : State) (core : Nat) (opc : Nat) (reason : Nat) : (State.refuseRec s core opc reason).cap = s.cap :=
  State.refuseRec_keeps (keeps_cap s.cap (by decide)) core opc reason rfl

@[simp] theorem State.refuseRec_lp (s : State) (core : Nat) (opc : Nat) (reason : Nat) : (State.refuseRec s core opc reason).lp = s.lp :=
  State.refuseRec_keeps (keeps_lp s.lp (by decide)) core opc reason rfl

@[simp] theorem State.refuseRec_fab (s : State) (core : Nat) (opc : Nat) (reason : Nat) : (State.refuseRec s core opc reason).fab = s.fab :=
  State.refuseRec_keeps (keeps_fab s.fab (by decide)) core opc reason rfl

@[simp] theorem State.refuseRec_opt (s : State) (core : Nat) (opc : Nat) (reason : Nat) : (State.refuseRec s core opc reason).opt = s.opt :=
  State.refuseRec_keeps (keeps_opt s.opt (by decide)) core opc reason rfl

@[simp] theorem State.refuseRec_host (s : State) (core : Nat) (opc : Nat) (reason : Nat) : (State.refuseRec s core opc reason).host = s.host :=
  State.refuseRec_keeps (keeps_host s.host (by decide)) core opc reason rfl

@[simp] theorem State.refuseRec_wort (s : State) (core : Nat) (opc : Nat) (reason : Nat) : (State.refuseRec s core opc reason).wort = s.wort :=
  State.refuseRec_keeps (keeps_wort s.wort (by decide)) core opc reason rfl

@[simp] theorem State.refuseRec_boot (s : State) (core : Nat) (opc : Nat) (reason : Nat) : (State.refuseRec s core opc reason).boot = s.boot :=
  State.refuseRec_keeps (keeps_boot s.boot (by decide)) core opc reason rfl

@[simp] theorem State.refuseRec_saf (s : State) (core : Nat) (opc : Nat) (reason : Nat) : (State.refuseRec s core opc reason).saf = s.saf :=
  State.refuseRec_keeps (keeps_saf s.saf (by decide)) core opc reason rfl

@[simp] theorem State.refuseRec_pwr (s : State) (core : Nat) (opc : Nat) (reason : Nat) : (State.refuseRec s core opc reason).pwr = s.pwr :=
  State.refuseRec_keeps (keeps_pwr s.pwr (by decide)) core opc reason rfl

@[simp] theorem State.refuseRec_tap (s : State) (core : Nat) (opc : Nat) (reason : Nat) : (State.refuseRec s core opc reason).tap = s.tap :=
  State.refuseRec_keeps (keeps_tap s.tap (by decide)) core opc reason rfl

@[simp] theorem State.refuseRec_tim (s : State) (core : Nat) (opc : Nat) (reason : Nat) : (State.refuseRec s core opc reason).tim = s.tim :=
  State.refuseRec_keeps (keeps_tim s.tim (by decide)) core opc reason rfl

@[simp] theorem State.refuseCmd_pending (s : State) (core : Nat) (seq : Nat) (opc : Nat) (reason : Nat) : (State.refuseCmd s core seq opc reason).pending = s.pending :=
  State.refuseCmd_keeps (keeps_pending _ s.pending) core seq opc reason rfl

@[simp] theorem State.refuseCmd_out (s : State) (core : Nat) (seq : Nat) (opc : Nat) (reason : Nat) : (State.refuseCmd s core seq opc reason).out = s.out :=
  State.refuseCmd_keeps (keeps_sent s.out (by decide)) core seq opc reason rfl

@[simp] theorem State.refuseCmd_mem (s : State) (core : Nat) (seq : Nat) (opc : Nat) (reason : Nat) : (State.refuseCmd s core seq opc reason).mem = s.mem :=
  State.refuseCmd_keeps (keeps_mem s.mem (by decide)) core seq opc reason rfl

@[simp] theorem State.refuseCmd_eng (s : State) (core : Nat) (seq : Nat) (opc : Nat) (reason : Nat) : (State.refuseCmd s core seq opc reason).eng = s.eng :=
  State.refuseCmd_keeps (keeps_eng s.eng (by decide)) core seq opc reason rfl

@[simp] theorem State.refuseCmd_smp (s : State) (core : Nat) (seq : Nat) (opc : Nat) (reason : Nat) : (State.refuseCmd s core seq opc reason).smp = s.smp :=
  State.refuseCmd_keeps (keeps_smp s.smp (by decide)) core seq opc reason rfl

@[simp] theorem State.refuseCmd_upd (s : State) (core : Nat) (seq : Nat) (opc : Nat) (reason : Nat) : (State.refuseCmd s core seq opc reason).upd = s.upd :=
  State.refuseCmd_keeps (keeps_upd s.upd (by decide)) core seq opc reason rfl

@[simp] theorem State.refuseCmd_swm (s : State) (core : Nat) (seq : Nat) (opc : Nat) (reason : Nat) : (State.refuseCmd s core seq opc reason).swm = s.swm :=
  State.refuseCmd_keeps (keeps_swm s.swm (by decide)) core seq opc reason rfl

@[simp] theorem State.refuseCmd_cap (s : State) (core : Nat) (seq : Nat) (opc : Nat) (reason : Nat) : (State.refuseCmd s core seq opc reason).cap = s.cap :=
  State.refuseCmd_keeps (keeps_cap s.cap (by decide)) core seq opc reason rfl

@[simp] theorem State.refuseCmd_lp (s : State) (core : Nat) (seq : Nat) (opc : Nat) (reason : Nat) : (State.refuseCmd s core seq opc reason).lp = s.lp :=
  State.refuseCmd_keeps (keeps_lp s.lp (by decide)) core seq opc reason rfl

@[simp] theorem State.refuseCmd_fab (s : State) (core : Nat) (seq : Nat) (opc : Nat) (reason : Nat) : (State.refuseCmd s core seq opc reason).fab = s.fab :=
  State.refuseCmd_keeps (keeps_fab s.fab (by decide)) core seq opc reason rfl

@[simp] theorem State.refuseCmd_opt (s : State) (core : Nat) (seq : Nat) (opc : Nat) (reason : Nat) : (State.refuseCmd s core seq opc reason).opt = s.opt :=
  State.refuseCmd_keeps (keeps_opt s.opt (by decide)) core seq opc reason rfl

@[simp] theorem State.refuseCmd_wort (s : State) (core : Nat) (seq : Nat) (opc : Nat) (reason : Nat) : (State.refuseCmd s core seq opc reason).wort = s.wort :=
  State.refuseCmd_keeps (keeps_wort s.wort (by decide)) core seq opc reason rfl

@[simp] theorem State.refuseCmd_boot (s : State) (core : Nat) (seq : Nat) (opc : Nat) (reason : Nat) : (State.refuseCmd s core seq opc reason).boot = s.boot :=
  State.refuseCmd_keeps (keeps_boot s.boot (by decide)) core seq opc reason rfl

@[simp] theorem State.refuseCmd_saf (s : State) (core : Nat) (seq : Nat) (opc : Nat) (reason : Nat) : (State.refuseCmd s core seq opc reason).saf = s.saf :=
  State.refuseCmd_keeps (keeps_saf s.saf (by decide)) core seq opc reason rfl

@[simp] theorem State.refuseCmd_pwr (s : State) (core : Nat) (seq : Nat) (opc : Nat) (reason : Nat) : (State.refuseCmd s core seq opc reason).pwr = s.pwr :=
  State.refuseCmd_keeps (keeps_pwr s.pwr (by decide)) core seq opc reason rfl

@[simp] theorem State.refuseCmd_tap (s : State) (core : Nat) (seq : Nat) (opc : Nat) (reason : Nat) : (State.refuseCmd s core seq opc reason).tap = s.tap :=
  State.refuseCmd_keeps (keeps_tap s.tap (by decide)) core seq opc reason rfl

@[simp] theorem State.refuseCmd_tim (s : State) (core : Nat) (seq : Nat) (opc : Nat) (reason : Nat) : (State.refuseCmd s core seq opc reason).tim = s.tim :=
  State.refuseCmd_keeps (keeps_tim s.tim (by decide)) core seq opc reason rfl

@[simp] theorem State.refuseReg_pending (s : State) (reason : Nat) (off : Nat) : (State.refuseReg s reason off).pending = s.pending :=
  State.refuseReg_keeps (keeps_pending _ s.pending) reason off rfl

@[simp] theorem State.refuseReg_mem (s : State) (reason : Nat) (off : Nat) : (State.refuseReg s reason off).mem = s.mem :=
  State.refuseReg_keeps (keeps_mem s.mem (by decide)) reason off rfl

@[simp] theorem State.refuseReg_core (s : State) (reason : Nat) (off : Nat) : (State.refuseReg s reason off).core = s.core :=
  State.refuseReg_keeps (keeps_core s.core (by decide)) reason off rfl

@[simp] theorem State.refuseReg_eng (s : State) (reason : Nat) (off : Nat) : (State.refuseReg s reason off).eng = s.eng :=
  State.refuseReg_keeps (keeps_eng s.eng (by decide)) reason off rfl

@[simp] theorem State.refuseReg_smp (s : State) (reason : Nat) (off : Nat) : (State.refuseReg s reason off).smp = s.smp :=
  State.refuseReg_keeps (keeps_smp s.smp (by decide)) reason off rfl

@[simp] theorem State.refuseReg_upd (s : State) (reason : Nat) (off : Nat) : (State.refuseReg s reason off).upd = s.upd :=
  State.refuseReg_keeps (keeps_upd s.upd (by decide)) reason off rfl

@[simp] theorem State.refuseReg_swm (s : State) (reason : Nat) (off : Nat) : (State.refuseReg s reason off).swm = s.swm :=
  State.refuseReg_keeps (keeps_swm s.swm (by decide)) reason off rfl

@[simp] theorem State.refuseReg_cap (s : State) (reason : Nat) (off : Nat) : (State.refuseReg s reason off).cap = s.cap :=
  State.refuseReg_keeps (keeps_cap s.cap (by decide)) reason off rfl

@[simp] theorem State.refuseReg_lp (s : State) (reason : Nat) (off : Nat) : (State.refuseReg s reason off).lp = s.lp :=
  State.refuseReg_keeps (keeps_lp s.lp (by decide)) reason off rfl

@[simp] theorem State.refuseReg_fab (s : State) (reason : Nat) (off : Nat) : (State.refuseReg s reason off).fab = s.fab :=
  State.refuseReg_keeps (keeps_fab s.fab (by decide)) reason off rfl

@[simp] theorem State.refuseReg_opt (s : State) (reason : Nat) (off : Nat) : (State.refuseReg s reason off).opt = s.opt :=
  State.refuseReg_keeps (keeps_opt s.opt (by decide)) reason off rfl

@[simp] theorem State.refuseReg_host (s : State) (reason : Nat) (off : Nat) : (State.refuseReg s reason off).host = s.host :=
  State.refuseReg_keeps (keeps_host s.host (by decide)) reason off rfl

@[simp] theorem State.refuseReg_wort (s : State) (reason : Nat) (off : Nat) : (State.refuseReg s reason off).wort = s.wort :=
  State.refuseReg_keeps (keeps_wort s.wort (by decide)) reason off rfl

@[simp] theorem State.refuseReg_boot (s : State) (reason : Nat) (off : Nat) : (State.refuseReg s reason off).boot = s.boot :=
  State.refuseReg_keeps (keeps_boot s.boot (by decide)) reason off rfl

@[simp] theorem State.refuseReg_saf (s : State) (reason : Nat) (off : Nat) : (State.refuseReg s reason off).saf = s.saf :=
  State.refuseReg_keeps (keeps_saf s.saf (by decide)) reason off rfl

@[simp] theorem State.refuseReg_pwr (s : State) (reason : Nat) (off : Nat) : (State.refuseReg s reason off).pwr = s.pwr :=
  State.refuseReg_keeps (keeps_pwr s.pwr (by decide)) reason off rfl

@[simp] theorem State.refuseReg_tap (s : State) (reason : Nat) (off : Nat) : (State.refuseReg s reason off).tap = s.tap :=
  State.refuseReg_keeps (keeps_tap s.tap (by decide)) reason off rfl

@[simp] theorem State.refuseReg_tim (s : State) (reason : Nat) (off : Nat) : (State.refuseReg s reason off).tim = s.tim :=
  State.refuseReg_keeps (keeps_tim s.tim (by decide)) reason off rfl

@[simp] theorem State.refuseItem_pending (s : State) (reason : Nat) (fn : Nat) : (State.refuseItem s reason fn).pending = s.pending :=
  State.refuseItem_keeps (keeps_pending _ s.pending) reason fn rfl

@[simp] theorem State.refuseItem_mem (s : State) (reason : Nat) (fn : Nat) : (State.refuseItem s reason fn).mem = s.mem :=
  State.refuseItem_keeps (keeps_mem s.mem (by decide)) reason fn rfl

@[simp] theorem State.refuseItem_core (s : State) (reason : Nat) (fn : Nat) : (State.refuseItem s reason fn).core = s.core :=
  State.refuseItem_keeps (keeps_core s.core (by decide)) reason fn rfl

@[simp] theorem State.refuseItem_eng (s : State) (reason : Nat) (fn : Nat) : (State.refuseItem s reason fn).eng = s.eng :=
  State.refuseItem_keeps (keeps_eng s.eng (by decide)) reason fn rfl

@[simp] theorem State.refuseItem_smp (s : State) (reason : Nat) (fn : Nat) : (State.refuseItem s reason fn).smp = s.smp :=
  State.refuseItem_keeps (keeps_smp s.smp (by decide)) reason fn rfl

@[simp] theorem State.refuseItem_upd (s : State) (reason : Nat) (fn : Nat) : (State.refuseItem s reason fn).upd = s.upd :=
  State.refuseItem_keeps (keeps_upd s.upd (by decide)) reason fn rfl

@[simp] theorem State.refuseItem_swm (s : State) (reason : Nat) (fn : Nat) : (State.refuseItem s reason fn).swm = s.swm :=
  State.refuseItem_keeps (keeps_swm s.swm (by decide)) reason fn rfl

@[simp] theorem State.refuseItem_cap (s : State) (reason : Nat) (fn : Nat) : (State.refuseItem s reason fn).cap = s.cap :=
  State.refuseItem_keeps (keeps_cap s.cap (by decide)) reason fn rfl

@[simp] theorem State.refuseItem_lp (s : State) (reason : Nat) (fn : Nat) : (State.refuseItem s reason fn).lp = s.lp :=
  State.refuseItem_keeps (keeps_lp s.lp (by decide)) reason fn rfl

@[simp] theorem State.refuseItem_fab (s : State) (reason : Nat) (fn : Nat) : (State.refuseItem s reason fn).fab = s.fab :=
  State.refuseItem_keeps (keeps_fab s.fab (by decide)) reason fn rfl

@[simp] theorem State.refuseItem_opt (s : State) (reason : Nat) (fn : Nat) : (State.refuseItem s reason fn).opt = s.opt :=
  State.refuseItem_keeps (keeps_opt s.opt (by decide)) reason fn rfl

@[simp] theorem State.refuseItem_host (s : State) (reason : Nat) (fn : Nat) : (State.refuseItem s reason fn).host = s.host :=
  State.refuseItem_keeps (keeps_host s.host (by decide)) reason fn rfl

@[simp] theorem State.refuseItem_wort (s : State) (reason : Nat) (fn : Nat) : (State.refuseItem s reason fn).wort = s.wort :=
  State.refuseItem_keeps (keeps_wort s.wort (by decide)) reason fn rfl

@[simp] theorem State.refuseItem_boot (s : State) (reason : Nat) (fn : Nat) : (State.refuseItem s reason fn).boot = s.boot :=
  State.refuseItem_keeps (keeps_boot s.boot (by decide)) reason fn rfl

@[simp] theorem State.refuseItem_saf (s : State) (reason : Nat) (fn : Nat) : (State.refuseItem s reason fn).saf = s.saf :=
  State.refuseItem_keeps (keeps_saf s.saf (by decide)) reason fn rfl

@[simp] theorem State.refuseItem_pwr (s : State) (reason : Nat) (fn : Nat) : (State.refuseItem s reason fn).pwr = s.pwr :=
  State.refuseItem_keeps (keeps_pwr s.pwr (by decide)) reason fn rfl

@[simp] theorem State.refuseItem_tap (s : State) (reason : Nat) (fn : Nat) : (State.refuseItem s reason fn).tap = s.tap :=
  State.refuseItem_keeps (keeps_tap s.tap (by decide)) reason fn rfl

@[simp] theorem State.refuseItem_tim (s : State) (reason : Nat) (fn : Nat) : (State.refuseItem s reason fn).tim = s.tim :=
  State.refuseItem_keeps (keeps_tim s.tim (by decide)) reason fn rfl

@[simp] theorem State.rejectReg_pending (s : State) (off : Nat) : (State.rejectReg s off).pending = s.pending :=
  State.rejectReg_keeps (keeps_pending _ s.pending) off rfl

@[simp] theorem State.rejectReg_out (s : State) (off : Nat) : (State.rejectReg s off).out = s.out :=
  State.rejectReg_keeps (keeps_sent s.out (by decide)) off rfl

@[simp] theorem State.rejectReg_mem (s : State) (off : Nat) : (State.rejectReg s off).mem = s.mem :=
  State.rejectReg_keeps (keeps_mem s.mem (by decide)) off rfl

@[simp] theorem State.rejectReg_core (s : State) (off : Nat) : (State.rejectReg s off).core = s.core :=
  State.rejectReg_keeps (keeps_core s.core (by decide)) off rfl

@[simp] theorem State.rejectReg_eng (s : State) (off : Nat) : (State.rejectReg s off).eng = s.eng :=
  State.rejectReg_keeps (keeps_eng s.eng (by decide)) off rfl

@[simp] theorem State.rejectReg_smp (s : State) (off : Nat) : (State.rejectReg s off).smp = s.smp :=
  State.rejectReg_keeps (keeps_smp s.smp (by decide)) off rfl

@[simp] theorem State.rejectReg_upd (s : State) (off : Nat) : (State.rejectReg s off).upd = s.upd :=
  State.rejectReg_keeps (keeps_upd s.upd (by decide)) off rfl

@[simp] theorem State.rejectReg_swm (s : State) (off : Nat) : (State.rejectReg s off).swm = s.swm :=
  State.rejectReg_keeps (keeps_swm s.swm (by decide)) off rfl

@[simp] theorem State.rejectReg_cap (s : State) (off : Nat) : (State.rejectReg s off).cap = s.cap :=
  State.rejectReg_keeps (keeps_cap s.cap (by decide)) off rfl

@[simp] theorem State.rejectReg_lp (s : State) (off : Nat) : (State.rejectReg s off).lp = s.lp :=
  State.rejectReg_keeps (keeps_lp s.lp (by decide)) off rfl

@[simp] theorem State.rejectReg_log (s : State) (off : Nat) : (State.rejectReg s off).log = s.log :=
  State.rejectReg_keeps (keeps_log s.log (by decide)) off rfl

@[simp] theorem State.rejectReg_fab (s : State) (off : Nat) : (State.rejectReg s off).fab = s.fab :=
  State.rejectReg_keeps (keeps_fab s.fab (by decide)) off rfl

@[simp] theorem State.rejectReg_opt (s : State) (off : Nat) : (State.rejectReg s off).opt = s.opt :=
  State.rejectReg_keeps (keeps_opt s.opt (by decide)) off rfl

@[simp] theorem State.rejectReg_host (s : State) (off : Nat) : (State.rejectReg s off).host = s.host :=
  State.rejectReg_keeps (keeps_host s.host (by decide)) off rfl

@[simp] theorem State.rejectReg_wort (s : State) (off : Nat) : (State.rejectReg s off).wort = s.wort :=
  State.rejectReg_keeps (keeps_wort s.wort (by decide)) off rfl

@[simp] theorem State.rejectReg_boot (s : State) (off : Nat) : (State.rejectReg s off).boot = s.boot :=
  State.rejectReg_keeps (keeps_boot s.boot (by decide)) off rfl

@[simp] theorem State.rejectReg_saf (s : State) (off : Nat) : (State.rejectReg s off).saf = s.saf :=
  State.rejectReg_keeps (keeps_saf s.saf (by decide)) off rfl

@[simp] theorem State.rejectReg_pwr (s : State) (off : Nat) : (State.rejectReg s off).pwr = s.pwr :=
  State.rejectReg_keeps (keeps_pwr s.pwr (by decide)) off rfl

@[simp] theorem State.rejectReg_tap (s : State) (off : Nat) : (State.rejectReg s off).tap = s.tap :=
  State.rejectReg_keeps (keeps_tap s.tap (by decide)) off rfl

@[simp] theorem State.rejectReg_tim (s : State) (off : Nat) : (State.rejectReg s off).tim = s.tim :=
  State.rejectReg_keeps (keeps_tim s.tim (by decide)) off rfl

@[simp] theorem State.mgmtSend_pending (s : State) (kind : Nat) (body : Bytes) : (State.mgmtSend s kind body).pending = s.pending :=
  State.mgmtSend_keeps (keeps_pending _ s.pending) kind body rfl

@[simp] theorem State.mgmtSend_regs (s : State) (kind : Nat) (body : Bytes) : (State.mgmtSend s kind body).regs = s.regs :=
  State.mgmtSend_keeps (keeps_regs s.regs (by decide)) kind body rfl

@[simp] theorem State.mgmtSend_mem (s : State) (kind : Nat) (body : Bytes) : (State.mgmtSend s kind body).mem = s.mem :=
  State.mgmtSend_keeps (keeps_mem s.mem (by decide)) kind body rfl

@[simp] theorem State.mgmtSend_core (s : State) (kind : Nat) (body : Bytes) : (State.mgmtSend s kind body).core = s.core :=
  State.mgmtSend_keeps (keeps_core s.core (by decide)) kind body rfl

@[simp] theorem State.mgmtSend_eng (s : State) (kind : Nat) (body : Bytes) : (State.mgmtSend s kind body).eng = s.eng :=
  State.mgmtSend_keeps (keeps_eng s.eng (by decide)) kind body rfl

@[simp] theorem State.mgmtSend_smp (s : State) (kind : Nat) (body : Bytes) : (State.mgmtSend s kind body).smp = s.smp :=
  State.mgmtSend_keeps (keeps_smp s.smp (by decide)) kind body rfl

@[simp] theorem State.mgmtSend_upd (s : State) (kind : Nat) (body : Bytes) : (State.mgmtSend s kind body).upd = s.upd :=
  State.mgmtSend_keeps (keeps_upd s.upd (by decide)) kind body rfl

@[simp] theorem State.mgmtSend_swm (s : State) (kind : Nat) (body : Bytes) : (State.mgmtSend s kind body).swm = s.swm :=
  State.mgmtSend_keeps (keeps_swm s.swm (by decide)) kind body rfl

@[simp] theorem State.mgmtSend_cap (s : State) (kind : Nat) (body : Bytes) : (State.mgmtSend s kind body).cap = s.cap :=
  State.mgmtSend_keeps (keeps_cap s.cap (by decide)) kind body rfl

@[simp] theorem State.mgmtSend_lp (s : State) (kind : Nat) (body : Bytes) : (State.mgmtSend s kind body).lp = s.lp :=
  State.mgmtSend_keeps (keeps_lp s.lp (by decide)) kind body rfl

@[simp] theorem State.mgmtSend_fab (s : State) (kind : Nat) (body : Bytes) : (State.mgmtSend s kind body).fab = s.fab :=
  State.mgmtSend_keeps (keeps_fab s.fab (by decide)) kind body rfl

@[simp] theorem State.mgmtSend_opt (s : State) (kind : Nat) (body : Bytes) : (State.mgmtSend s kind body).opt = s.opt :=
  State.mgmtSend_keeps (keeps_opt s.opt (by decide)) kind body rfl

@[simp] theorem State.mgmtSend_host (s : State) (kind : Nat) (body : Bytes) : (State.mgmtSend s kind body).host = s.host :=
  State.mgmtSend_keeps (keeps_host s.host (by decide)) kind body rfl

@[simp] theorem State.mgmtSend_wort (s : State) (kind : Nat) (body : Bytes) : (State.mgmtSend s kind body).wort = s.wort :=
  State.mgmtSend_keeps (keeps_wort s.wort (by decide)) kind body rfl

@[simp] theorem State.mgmtSend_boot (s : State) (kind : Nat) (body : Bytes) : (State.mgmtSend s kind body).boot = s.boot :=
  State.mgmtSend_keeps (keeps_boot s.boot (by decide)) kind body rfl

@[simp] theorem State.mgmtSend_saf (s : State) (kind : Nat) (body : Bytes) : (State.mgmtSend s kind body).saf = s.saf :=
  State.mgmtSend_keeps (keeps_saf s.saf (by decide)) kind body rfl

@[simp] theorem State.mgmtSend_pwr (s : State) (kind : Nat) (body : Bytes) : (State.mgmtSend s kind body).pwr = s.pwr :=
  State.mgmtSend_keeps (keeps_pwr s.pwr (by decide)) kind body rfl

@[simp] theorem State.mgmtSend_tap (s : State) (kind : Nat) (body : Bytes) : (State.mgmtSend s kind body).tap = s.tap :=
  State.mgmtSend_keeps (keeps_tap s.tap (by decide)) kind body rfl

@[simp] theorem State.mgmtSend_tim (s : State) (kind : Nat) (body : Bytes) : (State.mgmtSend s kind body).tim = s.tim :=
  State.mgmtSend_keeps (keeps_tim s.tim (by decide)) kind body rfl

@[simp] theorem State.lastGasp_pending (s : State) (cause : Nat) (info : Nat) : (State.lastGasp s cause info).pending = s.pending :=
  State.lastGasp_keeps (keeps_pending _ s.pending) cause info rfl

@[simp] theorem State.lastGasp_mem (s : State) (cause : Nat) (info : Nat) : (State.lastGasp s cause info).mem = s.mem :=
  State.lastGasp_keeps (keeps_mem s.mem (by decide)) cause info rfl

@[simp] theorem State.lastGasp_core (s : State) (cause : Nat) (info : Nat) : (State.lastGasp s cause info).core = s.core :=
  State.lastGasp_keeps (keeps_core s.core (by decide)) cause info rfl

@[simp] theorem State.lastGasp_eng (s : State) (cause : Nat) (info : Nat) : (State.lastGasp s cause info).eng = s.eng :=
  State.lastGasp_keeps (keeps_eng s.eng (by decide)) cause info rfl

@[simp] theorem State.lastGasp_smp (s : State) (cause : Nat) (info : Nat) : (State.lastGasp s cause info).smp = s.smp :=
  State.lastGasp_keeps (keeps_smp s.smp (by decide)) cause info rfl

@[simp] theorem State.lastGasp_upd (s : State) (cause : Nat) (info : Nat) : (State.lastGasp s cause info).upd = s.upd :=
  State.lastGasp_keeps (keeps_upd s.upd (by decide)) cause info rfl

@[simp] theorem State.lastGasp_swm (s : State) (cause : Nat) (info : Nat) : (State.lastGasp s cause info).swm = s.swm :=
  State.lastGasp_keeps (keeps_swm s.swm (by decide)) cause info rfl

@[simp] theorem State.lastGasp_cap (s : State) (cause : Nat) (info : Nat) : (State.lastGasp s cause info).cap = s.cap :=
  State.lastGasp_keeps (keeps_cap s.cap (by decide)) cause info rfl

@[simp] theorem State.lastGasp_lp (s : State) (cause : Nat) (info : Nat) : (State.lastGasp s cause info).lp = s.lp :=
  State.lastGasp_keeps (keeps_lp s.lp (by decide)) cause info rfl

@[simp] theorem State.lastGasp_fab (s : State) (cause : Nat) (info : Nat) : (State.lastGasp s cause info).fab = s.fab :=
  State.lastGasp_keeps (keeps_fab s.fab (by decide)) cause info rfl

@[simp] theorem State.lastGasp_opt (s : State) (cause : Nat) (info : Nat) : (State.lastGasp s cause info).opt = s.opt :=
  State.lastGasp_keeps (keeps_opt s.opt (by decide)) cause info rfl

@[simp] theorem State.lastGasp_host (s : State) (cause : Nat) (info : Nat) : (State.lastGasp s cause info).host = s.host :=
  State.lastGasp_keeps (keeps_host s.host (by decide)) cause info rfl

@[simp] theorem State.lastGasp_wort (s : State) (cause : Nat) (info : Nat) : (State.lastGasp s cause info).wort = s.wort :=
  State.lastGasp_keeps (keeps_wort s.wort (by decide)) cause info rfl

@[simp] theorem State.lastGasp_boot (s : State) (cause : Nat) (info : Nat) : (State.lastGasp s cause info).boot = s.boot :=
  State.lastGasp_keeps (keeps_boot s.boot (by decide)) cause info rfl

@[simp] theorem State.lastGasp_saf (s : State) (cause : Nat) (info : Nat) : (State.lastGasp s cause info).saf = s.saf :=
  State.lastGasp_keeps (keeps_saf s.saf (by decide)) cause info rfl

@[simp] theorem State.lastGasp_pwr (s : State) (cause : Nat) (info : Nat) : (State.lastGasp s cause info).pwr = s.pwr :=
  State.lastGasp_keeps (keeps_pwr s.pwr (by decide)) cause info rfl

@[simp] theorem State.lastGasp_tap (s : State) (cause : Nat) (info : Nat) : (State.lastGasp s cause info).tap = s.tap :=
  State.lastGasp_keeps (keeps_tap s.tap (by decide)) cause info rfl

@[simp] theorem State.lastGasp_tim (s : State) (cause : Nat) (info : Nat) : (State.lastGasp s cause info).tim = s.tim :=
  State.lastGasp_keeps (keeps_tim s.tim (by decide)) cause info rfl

@[simp] theorem State.sendCell_pending (s : State) (dmod : Nat) (dtgt : Nat) (stgt : Nat) (type : Nat) (job : Nat) (sour : Bool) (last : Bool) (len : Nat) (stream : Nat) (seq : Nat) (payload : Bytes) : (State.sendCell s dmod dtgt stgt type job sour last len stream seq payload).pending = s.pending :=
  State.sendCell_keeps (keeps_pending _ s.pending) dmod dtgt stgt type job sour last len stream seq payload rfl

@[simp] theorem State.sendCell_regs (s : State) (dmod : Nat) (dtgt : Nat) (stgt : Nat) (type : Nat) (job : Nat) (sour : Bool) (last : Bool) (len : Nat) (stream : Nat) (seq : Nat) (payload : Bytes) : (State.sendCell s dmod dtgt stgt type job sour last len stream seq payload).regs = s.regs :=
  State.sendCell_keeps (keeps_regs s.regs (by decide)) dmod dtgt stgt type job sour last len stream seq payload rfl

@[simp] theorem State.sendCell_mem (s : State) (dmod : Nat) (dtgt : Nat) (stgt : Nat) (type : Nat) (job : Nat) (sour : Bool) (last : Bool) (len : Nat) (stream : Nat) (seq : Nat) (payload : Bytes) : (State.sendCell s dmod dtgt stgt type job sour last len stream seq payload).mem = s.mem :=
  State.sendCell_keeps (keeps_mem s.mem (by decide)) dmod dtgt stgt type job sour last len stream seq payload rfl

@[simp] theorem State.sendCell_core (s : State) (dmod : Nat) (dtgt : Nat) (stgt : Nat) (type : Nat) (job : Nat) (sour : Bool) (last : Bool) (len : Nat) (stream : Nat) (seq : Nat) (payload : Bytes) : (State.sendCell s dmod dtgt stgt type job sour last len stream seq payload).core = s.core :=
  State.sendCell_keeps (keeps_core s.core (by decide)) dmod dtgt stgt type job sour last len stream seq payload rfl

@[simp] theorem State.sendCell_eng (s : State) (dmod : Nat) (dtgt : Nat) (stgt : Nat) (type : Nat) (job : Nat) (sour : Bool) (last : Bool) (len : Nat) (stream : Nat) (seq : Nat) (payload : Bytes) : (State.sendCell s dmod dtgt stgt type job sour last len stream seq payload).eng = s.eng :=
  State.sendCell_keeps (keeps_eng s.eng (by decide)) dmod dtgt stgt type job sour last len stream seq payload rfl

@[simp] theorem State.sendCell_smp (s : State) (dmod : Nat) (dtgt : Nat) (stgt : Nat) (type : Nat) (job : Nat) (sour : Bool) (last : Bool) (len : Nat) (stream : Nat) (seq : Nat) (payload : Bytes) : (State.sendCell s dmod dtgt stgt type job sour last len stream seq payload).smp = s.smp :=
  State.sendCell_keeps (keeps_smp s.smp (by decide)) dmod dtgt stgt type job sour last len stream seq payload rfl

@[simp] theorem State.sendCell_upd (s : State) (dmod : Nat) (dtgt : Nat) (stgt : Nat) (type : Nat) (job : Nat) (sour : Bool) (last : Bool) (len : Nat) (stream : Nat) (seq : Nat) (payload : Bytes) : (State.sendCell s dmod dtgt stgt type job sour last len stream seq payload).upd = s.upd :=
  State.sendCell_keeps (keeps_upd s.upd (by decide)) dmod dtgt stgt type job sour last len stream seq payload rfl

@[simp] theorem State.sendCell_swm (s : State) (dmod : Nat) (dtgt : Nat) (stgt : Nat) (type : Nat) (job : Nat) (sour : Bool) (last : Bool) (len : Nat) (stream : Nat) (seq : Nat) (payload : Bytes) : (State.sendCell s dmod dtgt stgt type job sour last len stream seq payload).swm = s.swm :=
  State.sendCell_keeps (keeps_swm s.swm (by decide)) dmod dtgt stgt type job sour last len stream seq payload rfl

@[simp] theorem State.sendCell_cap (s : State) (dmod : Nat) (dtgt : Nat) (stgt : Nat) (type : Nat) (job : Nat) (sour : Bool) (last : Bool) (len : Nat) (stream : Nat) (seq : Nat) (payload : Bytes) : (State.sendCell s dmod dtgt stgt type job sour last len stream seq payload).cap = s.cap :=
  State.sendCell_keeps (keeps_cap s.cap (by decide)) dmod dtgt stgt type job sour last len stream seq payload rfl

@[simp] theorem State.sendCell_lp (s : State) (dmod : Nat) (dtgt : Nat) (stgt : Nat) (type : Nat) (job : Nat) (sour : Bool) (last : Bool) (len : Nat) (stream : Nat) (seq : Nat) (payload : Bytes) : (State.sendCell s dmod dtgt stgt type job sour last len stream seq payload).lp = s.lp :=
  State.sendCell_keeps (keeps_lp s.lp (by decide)) dmod dtgt stgt type job sour last len stream seq payload rfl

@[simp] theorem State.sendCell_log (s : State) (dmod : Nat) (dtgt : Nat) (stgt : Nat) (type : Nat) (job : Nat) (sour : Bool) (last : Bool) (len : Nat) (stream : Nat) (seq : Nat) (payload : Bytes) : (State.sendCell s dmod dtgt stgt type job sour last len stream seq payload).log = s.log :=
  State.sendCell_keeps (keeps_log s.log (by decide)) dmod dtgt stgt type job sour last len stream seq payload rfl

@[simp] theorem State.sendCell_fab (s : State) (dmod : Nat) (dtgt : Nat) (stgt : Nat) (type : Nat) (job : Nat) (sour : Bool) (last : Bool) (len : Nat) (stream : Nat) (seq : Nat) (payload : Bytes) : (State.sendCell s dmod dtgt stgt type job sour last len stream seq payload).fab = s.fab :=
  State.sendCell_keeps (keeps_fab s.fab (by decide)) dmod dtgt stgt type job sour last len stream seq payload rfl

@[simp] theorem State.sendCell_opt (s : State) (dmod : Nat) (dtgt : Nat) (stgt : Nat) (type : Nat) (job : Nat) (sour : Bool) (last : Bool) (len : Nat) (stream : Nat) (seq : Nat) (payload : Bytes) : (State.sendCell s dmod dtgt stgt type job sour last len stream seq payload).opt = s.opt :=
  State.sendCell_keeps (keeps_opt s.opt (by decide)) dmod dtgt stgt type job sour last len stream seq payload rfl

@[simp] theorem State.sendCell_host (s : State) (dmod : Nat) (dtgt : Nat) (stgt : Nat) (type : Nat) (job : Nat) (sour : Bool) (last : Bool) (len : Nat) (stream : Nat) (seq : Nat) (payload : Bytes) : (State.sendCell s dmod dtgt stgt type job sour last len stream seq payload).host = s.host :=
  State.sendCell_keeps (keeps_host s.host (by decide)) dmod dtgt stgt type job sour last len stream seq payload rfl

@[simp] theorem State.sendCell_wort (s : State) (dmod : Nat) (dtgt : Nat) (stgt : Nat) (type : Nat) (job : Nat) (sour : Bool) (last : Bool) (len : Nat) (stream : Nat) (seq : Nat) (payload : Bytes) : (State.sendCell s dmod dtgt stgt type job sour last len stream seq payload).wort = s.wort :=
  State.sendCell_keeps (keeps_wort s.wort (by decide)) dmod dtgt stgt type job sour last len stream seq payload rfl

@[simp] theorem State.sendCell_boot (s : State) (dmod : Nat) (dtgt : Nat) (stgt : Nat) (type : Nat) (job : Nat) (sour : Bool) (last : Bool) (len : Nat) (stream : Nat) (seq : Nat) (payload : Bytes) : (State.sendCell s dmod dtgt stgt type job sour last len stream seq payload).boot = s.boot :=
  State.sendCell_keeps (keeps_boot s.boot (by decide)) dmod dtgt stgt type job sour last len stream seq payload rfl

@[simp] theorem State.sendCell_saf (s : State) (dmod : Nat) (dtgt : Nat) (stgt : Nat) (type : Nat) (job : Nat) (sour : Bool) (last : Bool) (len : Nat) (stream : Nat) (seq : Nat) (payload : Bytes) : (State.sendCell s dmod dtgt stgt type job sour last len stream seq payload).saf = s.saf :=
  State.sendCell_keeps (keeps_saf s.saf (by decide)) dmod dtgt stgt type job sour last len stream seq payload rfl

@[simp] theorem State.sendCell_pwr (s : State) (dmod : Nat) (dtgt : Nat) (stgt : Nat) (type : Nat) (job : Nat) (sour : Bool) (last : Bool) (len : Nat) (stream : Nat) (seq : Nat) (payload : Bytes) : (State.sendCell s dmod dtgt stgt type job sour last len stream seq payload).pwr = s.pwr :=
  State.sendCell_keeps (keeps_pwr s.pwr (by decide)) dmod dtgt stgt type job sour last len stream seq payload rfl

@[simp] theorem State.sendCell_tap (s : State) (dmod : Nat) (dtgt : Nat) (stgt : Nat) (type : Nat) (job : Nat) (sour : Bool) (last : Bool) (len : Nat) (stream : Nat) (seq : Nat) (payload : Bytes) : (State.sendCell s dmod dtgt stgt type job sour last len stream seq payload).tap = s.tap :=
  State.sendCell_keeps (keeps_tap s.tap (by decide)) dmod dtgt stgt type job sour last len stream seq payload rfl

@[simp] theorem State.sendCell_tim (s : State) (dmod : Nat) (dtgt : Nat) (stgt : Nat) (type : Nat) (job : Nat) (sour : Bool) (last : Bool) (len : Nat) (stream : Nat) (seq : Nat) (payload : Bytes) : (State.sendCell s dmod dtgt stgt type job sour last len stream seq payload).tim = s.tim :=
  State.sendCell_keeps (keeps_tim s.tim (by decide)) dmod dtgt stgt type job sour last len stream seq payload rfl

@[simp] theorem State.sendAck_pending (s : State) (dmod : Nat) (dtgt : Nat) (stgt : Nat) (job : Nat) (id : Nat) (bytes : Nat) : (State.sendAck s dmod dtgt stgt job id bytes).pending = s.pending :=
  State.sendAck_keeps (keeps_pending _ s.pending) dmod dtgt stgt job id bytes rfl

@[simp] theorem State.sendAck_regs (s : State) (dmod : Nat) (dtgt : Nat) (stgt : Nat) (job : Nat) (id : Nat) (bytes : Nat) : (State.sendAck s dmod dtgt stgt job id bytes).regs = s.regs :=
  State.sendAck_keeps (keeps_regs s.regs (by decide)) dmod dtgt stgt job id bytes rfl

@[simp] theorem State.sendAck_mem (s : State) (dmod : Nat) (dtgt : Nat) (stgt : Nat) (job : Nat) (id : Nat) (bytes : Nat) : (State.sendAck s dmod dtgt stgt job id bytes).mem = s.mem :=
  State.sendAck_keeps (keeps_mem s.mem (by decide)) dmod dtgt stgt job id bytes rfl

@[simp] theorem State.sendAck_core (s : State) (dmod : Nat) (dtgt : Nat) (stgt : Nat) (job : Nat) (id : Nat) (bytes : Nat) : (State.sendAck s dmod dtgt stgt job id bytes).core = s.core :=
  State.sendAck_keeps (keeps_core s.core (by decide)) dmod dtgt stgt job id bytes rfl

@[simp] theorem State.sendAck_eng (s : State) (dmod : Nat) (dtgt : Nat) (stgt : Nat) (job : Nat) (id : Nat) (bytes : Nat) : (State.sendAck s dmod dtgt stgt job id bytes).eng = s.eng :=
  State.sendAck_keeps (keeps_eng s.eng (by decide)) dmod dtgt stgt job id bytes rfl

@[simp] theorem State.sendAck_smp (s : State) (dmod : Nat) (dtgt : Nat) (stgt : Nat) (job : Nat) (id : Nat) (bytes : Nat) : (State.sendAck s dmod dtgt stgt job id bytes).smp = s.smp :=
  State.sendAck_keeps (keeps_smp s.smp (by decide)) dmod dtgt stgt job id bytes rfl

@[simp] theorem State.sendAck_upd (s : State) (dmod : Nat) (dtgt : Nat) (stgt : Nat) (job : Nat) (id : Nat) (bytes : Nat) : (State.sendAck s dmod dtgt stgt job id bytes).upd = s.upd :=
  State.sendAck_keeps (keeps_upd s.upd (by decide)) dmod dtgt stgt job id bytes rfl

@[simp] theorem State.sendAck_swm (s : State) (dmod : Nat) (dtgt : Nat) (stgt : Nat) (job : Nat) (id : Nat) (bytes : Nat) : (State.sendAck s dmod dtgt stgt job id bytes).swm = s.swm :=
  State.sendAck_keeps (keeps_swm s.swm (by decide)) dmod dtgt stgt job id bytes rfl

@[simp] theorem State.sendAck_cap (s : State) (dmod : Nat) (dtgt : Nat) (stgt : Nat) (job : Nat) (id : Nat) (bytes : Nat) : (State.sendAck s dmod dtgt stgt job id bytes).cap = s.cap :=
  State.sendAck_keeps (keeps_cap s.cap (by decide)) dmod dtgt stgt job id bytes rfl

@[simp] theorem State.sendAck_lp (s : State) (dmod : Nat) (dtgt : Nat) (stgt : Nat) (job : Nat) (id : Nat) (bytes : Nat) : (State.sendAck s dmod dtgt stgt job id bytes).lp = s.lp :=
  State.sendAck_keeps (keeps_lp s.lp (by decide)) dmod dtgt stgt job id bytes rfl

@[simp] theorem State.sendAck_log (s : State) (dmod : Nat) (dtgt : Nat) (stgt : Nat) (job : Nat) (id : Nat) (bytes : Nat) : (State.sendAck s dmod dtgt stgt job id bytes).log = s.log :=
  State.sendAck_keeps (keeps_log s.log (by decide)) dmod dtgt stgt job id bytes rfl

@[simp] theorem State.sendAck_fab (s : State) (dmod : Nat) (dtgt : Nat) (stgt : Nat) (job : Nat) (id : Nat) (bytes : Nat) : (State.sendAck s dmod dtgt stgt job id bytes).fab = s.fab :=
  State.sendAck_keeps (keeps_fab s.fab (by decide)) dmod dtgt stgt job id bytes rfl

@[simp] theorem State.sendAck_opt (s : State) (dmod : Nat) (dtgt : Nat) (stgt : Nat) (job : Nat) (id : Nat) (bytes : Nat) : (State.sendAck s dmod dtgt stgt job id bytes).opt = s.opt :=
  State.sendAck_keeps (keeps_opt s.opt (by decide)) dmod dtgt stgt job id bytes rfl

@[simp] theorem State.sendAck_host (s : State) (dmod : Nat) (dtgt : Nat) (stgt : Nat) (job : Nat) (id : Nat) (bytes : Nat) : (State.sendAck s dmod dtgt stgt job id bytes).host = s.host :=
  State.sendAck_keeps (keeps_host s.host (by decide)) dmod dtgt stgt job id bytes rfl

@[simp] theorem State.sendAck_wort (s : State) (dmod : Nat) (dtgt : Nat) (stgt : Nat) (job : Nat) (id : Nat) (bytes : Nat) : (State.sendAck s dmod dtgt stgt job id bytes).wort = s.wort :=
  State.sendAck_keeps (keeps_wort s.wort (by decide)) dmod dtgt stgt job id bytes rfl

@[simp] theorem State.sendAck_boot (s : State) (dmod : Nat) (dtgt : Nat) (stgt : Nat) (job : Nat) (id : Nat) (bytes : Nat) : (State.sendAck s dmod dtgt stgt job id bytes).boot = s.boot :=
  State.sendAck_keeps (keeps_boot s.boot (by decide)) dmod dtgt stgt job id bytes rfl

@[simp] theorem State.sendAck_saf (s : State) (dmod : Nat) (dtgt : Nat) (stgt : Nat) (job : Nat) (id : Nat) (bytes : Nat) : (State.sendAck s dmod dtgt stgt job id bytes).saf = s.saf :=
  State.sendAck_keeps (keeps_saf s.saf (by decide)) dmod dtgt stgt job id bytes rfl

@[simp] theorem State.sendAck_pwr (s : State) (dmod : Nat) (dtgt : Nat) (stgt : Nat) (job : Nat) (id : Nat) (bytes : Nat) : (State.sendAck s dmod dtgt stgt job id bytes).pwr = s.pwr :=
  State.sendAck_keeps (keeps_pwr s.pwr (by decide)) dmod dtgt stgt job id bytes rfl

@[simp] theorem State.sendAck_tap (s : State) (dmod : Nat) (dtgt : Nat) (stgt : Nat) (job : Nat) (id : Nat) (bytes : Nat) : (State.sendAck s dmod dtgt stgt job id bytes).tap = s.tap :=
  State.sendAck_keeps (keeps_tap s.tap (by decide)) dmod dtgt stgt job id bytes rfl

@[simp] theorem State.sendAck_tim (s : State) (dmod : Nat) (dtgt : Nat) (stgt : Nat) (job : Nat) (id : Nat) (bytes : Nat) : (State.sendAck s dmod dtgt stgt job id bytes).tim = s.tim :=
  State.sendAck_keeps (keeps_tim s.tim (by decide)) dmod dtgt stgt job id bytes rfl

@[simp] theorem State.sendNack_pending (s : State) (dmod : Nat) (dtgt : Nat) (stgt : Nat) (job : Nat) (status : Nat) (cause : Nat) (id : Nat) : (State.sendNack s dmod dtgt stgt job status cause id).pending = s.pending :=
  State.sendNack_keeps (keeps_pending _ s.pending) dmod dtgt stgt job status cause id rfl

@[simp] theorem State.sendNack_regs (s : State) (dmod : Nat) (dtgt : Nat) (stgt : Nat) (job : Nat) (status : Nat) (cause : Nat) (id : Nat) : (State.sendNack s dmod dtgt stgt job status cause id).regs = s.regs :=
  State.sendNack_keeps (keeps_regs s.regs (by decide)) dmod dtgt stgt job status cause id rfl

@[simp] theorem State.sendNack_mem (s : State) (dmod : Nat) (dtgt : Nat) (stgt : Nat) (job : Nat) (status : Nat) (cause : Nat) (id : Nat) : (State.sendNack s dmod dtgt stgt job status cause id).mem = s.mem :=
  State.sendNack_keeps (keeps_mem s.mem (by decide)) dmod dtgt stgt job status cause id rfl

@[simp] theorem State.sendNack_core (s : State) (dmod : Nat) (dtgt : Nat) (stgt : Nat) (job : Nat) (status : Nat) (cause : Nat) (id : Nat) : (State.sendNack s dmod dtgt stgt job status cause id).core = s.core :=
  State.sendNack_keeps (keeps_core s.core (by decide)) dmod dtgt stgt job status cause id rfl

@[simp] theorem State.sendNack_eng (s : State) (dmod : Nat) (dtgt : Nat) (stgt : Nat) (job : Nat) (status : Nat) (cause : Nat) (id : Nat) : (State.sendNack s dmod dtgt stgt job status cause id).eng = s.eng :=
  State.sendNack_keeps (keeps_eng s.eng (by decide)) dmod dtgt stgt job status cause id rfl

@[simp] theorem State.sendNack_smp (s : State) (dmod : Nat) (dtgt : Nat) (stgt : Nat) (job : Nat) (status : Nat) (cause : Nat) (id : Nat) : (State.sendNack s dmod dtgt stgt job status cause id).smp = s.smp :=
  State.sendNack_keeps (keeps_smp s.smp (by decide)) dmod dtgt stgt job status cause id rfl

@[simp] theorem State.sendNack_upd (s : State) (dmod : Nat) (dtgt : Nat) (stgt : Nat) (job : Nat) (status : Nat) (cause : Nat) (id : Nat) : (State.sendNack s dmod dtgt stgt job status cause id).upd = s.upd :=
  State.sendNack_keeps (keeps_upd s.upd (by decide)) dmod dtgt stgt job status cause id rfl

@[simp] theorem State.sendNack_swm (s : State) (dmod : Nat) (dtgt : Nat) (stgt : Nat) (job : Nat) (status : Nat) (cause : Nat) (id : Nat) : (State.sendNack s dmod dtgt stgt job status cause id).swm = s.swm :=
  State.sendNack_keeps (keeps_swm s.swm (by decide)) dmod dtgt stgt job status cause id rfl

@[simp] theorem State.sendNack_cap (s : State) (dmod : Nat) (dtgt : Nat) (stgt : Nat) (job : Nat) (status : Nat) (cause : Nat) (id : Nat) : (State.sendNack s dmod dtgt stgt job status cause id).cap = s.cap :=
  State.sendNack_keeps (keeps_cap s.cap (by decide)) dmod dtgt stgt job status cause id rfl

@[simp] theorem State.sendNack_lp (s : State) (dmod : Nat) (dtgt : Nat) (stgt : Nat) (job : Nat) (status : Nat) (cause : Nat) (id : Nat) : (State.sendNack s dmod dtgt stgt job status cause id).lp = s.lp :=
  State.sendNack_keeps (keeps_lp s.lp (by decide)) dmod dtgt stgt job status cause id rfl

@[simp] theorem State.sendNack_log (s : State) (dmod : Nat) (dtgt : Nat) (stgt : Nat) (job : Nat) (status : Nat) (cause : Nat) (id : Nat) : (State.sendNack s dmod dtgt stgt job status cause id).log = s.log :=
  State.sendNack_keeps (keeps_log s.log (by decide)) dmod dtgt stgt job status cause id rfl

@[simp] theorem State.sendNack_fab (s : State) (dmod : Nat) (dtgt : Nat) (stgt : Nat) (job : Nat) (status : Nat) (cause : Nat) (id : Nat) : (State.sendNack s dmod dtgt stgt job status cause id).fab = s.fab :=
  State.sendNack_keeps (keeps_fab s.fab (by decide)) dmod dtgt stgt job status cause id rfl

@[simp] theorem State.sendNack_opt (s : State) (dmod : Nat) (dtgt : Nat) (stgt : Nat) (job : Nat) (status : Nat) (cause : Nat) (id : Nat) : (State.sendNack s dmod dtgt stgt job status cause id).opt = s.opt :=
  State.sendNack_keeps (keeps_opt s.opt (by decide)) dmod dtgt stgt job status cause id rfl

@[simp] theorem State.sendNack_host (s : State) (dmod : Nat) (dtgt : Nat) (stgt : Nat) (job : Nat) (status : Nat) (cause : Nat) (id : Nat) : (State.sendNack s dmod dtgt stgt job status cause id).host = s.host :=
  State.sendNack_keeps (keeps_host s.host (by decide)) dmod dtgt stgt job status cause id rfl

@[simp] theorem State.sendNack_wort (s : State) (dmod : Nat) (dtgt : Nat) (stgt : Nat) (job : Nat) (status : Nat) (cause : Nat) (id : Nat) : (State.sendNack s dmod dtgt stgt job status cause id).wort = s.wort :=
  State.sendNack_keeps (keeps_wort s.wort (by decide)) dmod dtgt stgt job status cause id rfl

@[simp] theorem State.sendNack_boot (s : State) (dmod : Nat) (dtgt : Nat) (stgt : Nat) (job : Nat) (status : Nat) (cause : Nat) (id : Nat) : (State.sendNack s dmod dtgt stgt job status cause id).boot = s.boot :=
  State.sendNack_keeps (keeps_boot s.boot (by decide)) dmod dtgt stgt job status cause id rfl

@[simp] theorem State.sendNack_saf (s : State) (dmod : Nat) (dtgt : Nat) (stgt : Nat) (job : Nat) (status : Nat) (cause : Nat) (id : Nat) : (State.sendNack s dmod dtgt stgt job status cause id).saf = s.saf :=
  State.sendNack_keeps (keeps_saf s.saf (by decide)) dmod dtgt stgt job status cause id rfl

@[simp] theorem State.sendNack_pwr (s : State) (dmod : Nat) (dtgt : Nat) (stgt : Nat) (job : Nat) (status : Nat) (cause : Nat) (id : Nat) : (State.sendNack s dmod dtgt stgt job status cause id).pwr = s.pwr :=
  State.sendNack_keeps (keeps_pwr s.pwr (by decide)) dmod dtgt stgt job status cause id rfl

@[simp] theorem State.sendNack_tap (s : State) (dmod : Nat) (dtgt : Nat) (stgt : Nat) (job : Nat) (status : Nat) (cause : Nat) (id : Nat) : (State.sendNack s dmod dtgt stgt job status cause id).tap = s.tap :=
  State.sendNack_keeps (keeps_tap s.tap (by decide)) dmod dtgt stgt job status cause id rfl

@[simp] theorem State.sendNack_tim (s : State) (dmod : Nat) (dtgt : Nat) (stgt : Nat) (job : Nat) (status : Nat) (cause : Nat) (id : Nat) : (State.sendNack s dmod dtgt stgt job status cause id).tim = s.tim :=
  State.sendNack_keeps (keeps_tim s.tim (by decide)) dmod dtgt stgt job status cause id rfl

@[simp] theorem State.setDieState_pending (s : State) (die : Nat) (st : Nat) : (State.setDieState s die st).pending = s.pending :=
  State.setDieState_keeps (keeps_pending _ s.pending) die st rfl

@[simp] theorem State.setDieState_mem (s : State) (die : Nat) (st : Nat) : (State.setDieState s die st).mem = s.mem :=
  State.setDieState_keeps (keeps_mem s.mem (by decide)) die st rfl

@[simp] theorem State.setDieState_core (s : State) (die : Nat) (st : Nat) : (State.setDieState s die st).core = s.core :=
  State.setDieState_keeps (keeps_core s.core (by decide)) die st rfl

@[simp] theorem State.setDieState_eng (s : State) (die : Nat) (st : Nat) : (State.setDieState s die st).eng = s.eng :=
  State.setDieState_keeps (keeps_eng s.eng (by decide)) die st rfl

@[simp] theorem State.setDieState_smp (s : State) (die : Nat) (st : Nat) : (State.setDieState s die st).smp = s.smp :=
  State.setDieState_keeps (keeps_smp s.smp (by decide)) die st rfl

@[simp] theorem State.setDieState_upd (s : State) (die : Nat) (st : Nat) : (State.setDieState s die st).upd = s.upd :=
  State.setDieState_keeps (keeps_upd s.upd (by decide)) die st rfl

@[simp] theorem State.setDieState_swm (s : State) (die : Nat) (st : Nat) : (State.setDieState s die st).swm = s.swm :=
  State.setDieState_keeps (keeps_swm s.swm (by decide)) die st rfl

@[simp] theorem State.setDieState_cap (s : State) (die : Nat) (st : Nat) : (State.setDieState s die st).cap = s.cap :=
  State.setDieState_keeps (keeps_cap s.cap (by decide)) die st rfl

@[simp] theorem State.setDieState_lp (s : State) (die : Nat) (st : Nat) : (State.setDieState s die st).lp = s.lp :=
  State.setDieState_keeps (keeps_lp s.lp (by decide)) die st rfl

@[simp] theorem State.setDieState_log (s : State) (die : Nat) (st : Nat) : (State.setDieState s die st).log = s.log :=
  State.setDieState_keeps (keeps_log s.log (by decide)) die st rfl

@[simp] theorem State.setDieState_fab (s : State) (die : Nat) (st : Nat) : (State.setDieState s die st).fab = s.fab :=
  State.setDieState_keeps (keeps_fab s.fab (by decide)) die st rfl

@[simp] theorem State.setDieState_opt (s : State) (die : Nat) (st : Nat) : (State.setDieState s die st).opt = s.opt :=
  State.setDieState_keeps (keeps_opt s.opt (by decide)) die st rfl

@[simp] theorem State.setDieState_host (s : State) (die : Nat) (st : Nat) : (State.setDieState s die st).host = s.host :=
  State.setDieState_keeps (keeps_host s.host (by decide)) die st rfl

@[simp] theorem State.setDieState_wort (s : State) (die : Nat) (st : Nat) : (State.setDieState s die st).wort = s.wort :=
  State.setDieState_keeps (keeps_wort s.wort (by decide)) die st rfl

@[simp] theorem State.setDieState_boot (s : State) (die : Nat) (st : Nat) : (State.setDieState s die st).boot = s.boot :=
  State.setDieState_keeps (keeps_boot s.boot (by decide)) die st rfl

@[simp] theorem State.setDieState_saf (s : State) (die : Nat) (st : Nat) : (State.setDieState s die st).saf = s.saf :=
  State.setDieState_keeps (keeps_saf s.saf (by decide)) die st rfl

@[simp] theorem State.setDieState_pwr (s : State) (die : Nat) (st : Nat) : (State.setDieState s die st).pwr = s.pwr :=
  State.setDieState_keeps (keeps_pwr s.pwr (by decide)) die st rfl

@[simp] theorem State.setDieState_tap (s : State) (die : Nat) (st : Nat) : (State.setDieState s die st).tap = s.tap :=
  State.setDieState_keeps (keeps_tap s.tap (by decide)) die st rfl

@[simp] theorem State.setDieState_tim (s : State) (die : Nat) (st : Nat) : (State.setDieState s die st).tim = s.tim :=
  State.setDieState_keeps (keeps_tim s.tim (by decide)) die st rfl

@[simp] theorem State.setSState_pending (s : State) (v : Nat) : (State.setSState s v).pending = s.pending :=
  State.setSState_keeps (keeps_pending _ s.pending) v rfl

@[simp] theorem State.setSState_mem (s : State) (v : Nat) : (State.setSState s v).mem = s.mem :=
  State.setSState_keeps (keeps_mem s.mem (by decide)) v rfl

@[simp] theorem State.setSState_core (s : State) (v : Nat) : (State.setSState s v).core = s.core :=
  State.setSState_keeps (keeps_core s.core (by decide)) v rfl

@[simp] theorem State.setSState_eng (s : State) (v : Nat) : (State.setSState s v).eng = s.eng :=
  State.setSState_keeps (keeps_eng s.eng (by decide)) v rfl

@[simp] theorem State.setSState_smp (s : State) (v : Nat) : (State.setSState s v).smp = s.smp :=
  State.setSState_keeps (keeps_smp s.smp (by decide)) v rfl

@[simp] theorem State.setSState_upd (s : State) (v : Nat) : (State.setSState s v).upd = s.upd :=
  State.setSState_keeps (keeps_upd s.upd (by decide)) v rfl

@[simp] theorem State.setSState_swm (s : State) (v : Nat) : (State.setSState s v).swm = s.swm :=
  State.setSState_keeps (keeps_swm s.swm (by decide)) v rfl

@[simp] theorem State.setSState_cap (s : State) (v : Nat) : (State.setSState s v).cap = s.cap :=
  State.setSState_keeps (keeps_cap s.cap (by decide)) v rfl

@[simp] theorem State.setSState_lp (s : State) (v : Nat) : (State.setSState s v).lp = s.lp :=
  State.setSState_keeps (keeps_lp s.lp (by decide)) v rfl

@[simp] theorem State.setSState_log (s : State) (v : Nat) : (State.setSState s v).log = s.log :=
  State.setSState_keeps (keeps_log s.log (by decide)) v rfl

@[simp] theorem State.setSState_fab (s : State) (v : Nat) : (State.setSState s v).fab = s.fab :=
  State.setSState_keeps (keeps_fab s.fab (by decide)) v rfl

@[simp] theorem State.setSState_opt (s : State) (v : Nat) : (State.setSState s v).opt = s.opt :=
  State.setSState_keeps (keeps_opt s.opt (by decide)) v rfl

@[simp] theorem State.setSState_host (s : State) (v : Nat) : (State.setSState s v).host = s.host :=
  State.setSState_keeps (keeps_host s.host (by decide)) v rfl

@[simp] theorem State.setSState_wort (s : State) (v : Nat) : (State.setSState s v).wort = s.wort :=
  State.setSState_keeps (keeps_wort s.wort (by decide)) v rfl

@[simp] theorem State.setSState_boot (s : State) (v : Nat) : (State.setSState s v).boot = s.boot :=
  State.setSState_keeps (keeps_boot s.boot (by decide)) v rfl

@[simp] theorem State.setSState_saf (s : State) (v : Nat) : (State.setSState s v).saf = s.saf :=
  State.setSState_keeps (keeps_saf s.saf (by decide)) v rfl

@[simp] theorem State.setSState_pwr (s : State) (v : Nat) : (State.setSState s v).pwr = s.pwr :=
  State.setSState_keeps (keeps_pwr s.pwr (by decide)) v rfl

@[simp] theorem State.setSState_tap (s : State) (v : Nat) : (State.setSState s v).tap = s.tap :=
  State.setSState_keeps (keeps_tap s.tap (by decide)) v rfl

@[simp] theorem State.setSState_tim (s : State) (v : Nat) : (State.setSState s v).tim = s.tim :=
  State.setSState_keeps (keeps_tim s.tim (by decide)) v rfl

@[simp] theorem State.setRing_pending (s : State) (ring : Nat) (r : RingRec) : (State.setRing s ring r).pending = s.pending :=
  State.setRing_keeps (keeps_pending _ s.pending) ring r rfl

@[simp] theorem State.setRing_out (s : State) (ring : Nat) (r : RingRec) : (State.setRing s ring r).out = s.out :=
  State.setRing_keeps (keeps_sent s.out (by decide)) ring r rfl

@[simp] theorem State.setRing_regs (s : State) (ring : Nat) (r : RingRec) : (State.setRing s ring r).regs = s.regs :=
  State.setRing_keeps (keeps_regs s.regs (by decide)) ring r rfl

@[simp] theorem State.setRing_mem (s : State) (ring : Nat) (r : RingRec) : (State.setRing s ring r).mem = s.mem :=
  State.setRing_keeps (keeps_mem s.mem (by decide)) ring r rfl

@[simp] theorem State.setRing_core (s : State) (ring : Nat) (r : RingRec) : (State.setRing s ring r).core = s.core :=
  State.setRing_keeps (keeps_core s.core (by decide)) ring r rfl

@[simp] theorem State.setRing_eng (s : State) (ring : Nat) (r : RingRec) : (State.setRing s ring r).eng = s.eng :=
  State.setRing_keeps (keeps_eng s.eng (by decide)) ring r rfl

@[simp] theorem State.setRing_smp (s : State) (ring : Nat) (r : RingRec) : (State.setRing s ring r).smp = s.smp :=
  State.setRing_keeps (keeps_smp s.smp (by decide)) ring r rfl

@[simp] theorem State.setRing_upd (s : State) (ring : Nat) (r : RingRec) : (State.setRing s ring r).upd = s.upd :=
  State.setRing_keeps (keeps_upd s.upd (by decide)) ring r rfl

@[simp] theorem State.setRing_swm (s : State) (ring : Nat) (r : RingRec) : (State.setRing s ring r).swm = s.swm :=
  State.setRing_keeps (keeps_swm s.swm (by decide)) ring r rfl

@[simp] theorem State.setRing_cap (s : State) (ring : Nat) (r : RingRec) : (State.setRing s ring r).cap = s.cap :=
  State.setRing_keeps (keeps_cap s.cap (by decide)) ring r rfl

@[simp] theorem State.setRing_lp (s : State) (ring : Nat) (r : RingRec) : (State.setRing s ring r).lp = s.lp :=
  State.setRing_keeps (keeps_lp s.lp (by decide)) ring r rfl

@[simp] theorem State.setRing_log (s : State) (ring : Nat) (r : RingRec) : (State.setRing s ring r).log = s.log :=
  State.setRing_keeps (keeps_log s.log (by decide)) ring r rfl

@[simp] theorem State.setRing_fab (s : State) (ring : Nat) (r : RingRec) : (State.setRing s ring r).fab = s.fab :=
  State.setRing_keeps (keeps_fab s.fab (by decide)) ring r rfl

@[simp] theorem State.setRing_opt (s : State) (ring : Nat) (r : RingRec) : (State.setRing s ring r).opt = s.opt :=
  State.setRing_keeps (keeps_opt s.opt (by decide)) ring r rfl

@[simp] theorem State.setRing_wort (s : State) (ring : Nat) (r : RingRec) : (State.setRing s ring r).wort = s.wort :=
  State.setRing_keeps (keeps_wort s.wort (by decide)) ring r rfl

@[simp] theorem State.setRing_boot (s : State) (ring : Nat) (r : RingRec) : (State.setRing s ring r).boot = s.boot :=
  State.setRing_keeps (keeps_boot s.boot (by decide)) ring r rfl

@[simp] theorem State.setRing_saf (s : State) (ring : Nat) (r : RingRec) : (State.setRing s ring r).saf = s.saf :=
  State.setRing_keeps (keeps_saf s.saf (by decide)) ring r rfl

@[simp] theorem State.setRing_pwr (s : State) (ring : Nat) (r : RingRec) : (State.setRing s ring r).pwr = s.pwr :=
  State.setRing_keeps (keeps_pwr s.pwr (by decide)) ring r rfl

@[simp] theorem State.setRing_tap (s : State) (ring : Nat) (r : RingRec) : (State.setRing s ring r).tap = s.tap :=
  State.setRing_keeps (keeps_tap s.tap (by decide)) ring r rfl

@[simp] theorem State.setRing_tim (s : State) (ring : Nat) (r : RingRec) : (State.setRing s ring r).tim = s.tim :=
  State.setRing_keeps (keeps_tim s.tim (by decide)) ring r rfl

@[simp] theorem State.setPart_pending (s : State) (p : Nat) (x : PartSt) : (State.setPart s p x).pending = s.pending :=
  State.setPart_keeps (keeps_pending _ s.pending) p x rfl

@[simp] theorem State.setPart_out (s : State) (p : Nat) (x : PartSt) : (State.setPart s p x).out = s.out :=
  State.setPart_keeps (keeps_sent s.out (by decide)) p x rfl

@[simp] theorem State.setPart_regs (s : State) (p : Nat) (x : PartSt) : (State.setPart s p x).regs = s.regs :=
  State.setPart_keeps (keeps_regs s.regs (by decide)) p x rfl

@[simp] theorem State.setPart_mem (s : State) (p : Nat) (x : PartSt) : (State.setPart s p x).mem = s.mem :=
  State.setPart_keeps (keeps_mem s.mem (by decide)) p x rfl

@[simp] theorem State.setPart_core (s : State) (p : Nat) (x : PartSt) : (State.setPart s p x).core = s.core :=
  State.setPart_keeps (keeps_core s.core (by decide)) p x rfl

@[simp] theorem State.setPart_eng (s : State) (p : Nat) (x : PartSt) : (State.setPart s p x).eng = s.eng :=
  State.setPart_keeps (keeps_eng s.eng (by decide)) p x rfl

@[simp] theorem State.setPart_smp (s : State) (p : Nat) (x : PartSt) : (State.setPart s p x).smp = s.smp :=
  State.setPart_keeps (keeps_smp s.smp (by decide)) p x rfl

@[simp] theorem State.setPart_upd (s : State) (p : Nat) (x : PartSt) : (State.setPart s p x).upd = s.upd :=
  State.setPart_keeps (keeps_upd s.upd (by decide)) p x rfl

@[simp] theorem State.setPart_swm (s : State) (p : Nat) (x : PartSt) : (State.setPart s p x).swm = s.swm :=
  State.setPart_keeps (keeps_swm s.swm (by decide)) p x rfl

@[simp] theorem State.setPart_cap (s : State) (p : Nat) (x : PartSt) : (State.setPart s p x).cap = s.cap :=
  State.setPart_keeps (keeps_cap s.cap (by decide)) p x rfl

@[simp] theorem State.setPart_lp (s : State) (p : Nat) (x : PartSt) : (State.setPart s p x).lp = s.lp :=
  State.setPart_keeps (keeps_lp s.lp (by decide)) p x rfl

@[simp] theorem State.setPart_log (s : State) (p : Nat) (x : PartSt) : (State.setPart s p x).log = s.log :=
  State.setPart_keeps (keeps_log s.log (by decide)) p x rfl

@[simp] theorem State.setPart_fab (s : State) (p : Nat) (x : PartSt) : (State.setPart s p x).fab = s.fab :=
  State.setPart_keeps (keeps_fab s.fab (by decide)) p x rfl

@[simp] theorem State.setPart_opt (s : State) (p : Nat) (x : PartSt) : (State.setPart s p x).opt = s.opt :=
  State.setPart_keeps (keeps_opt s.opt (by decide)) p x rfl

@[simp] theorem State.setPart_wort (s : State) (p : Nat) (x : PartSt) : (State.setPart s p x).wort = s.wort :=
  State.setPart_keeps (keeps_wort s.wort (by decide)) p x rfl

@[simp] theorem State.setPart_boot (s : State) (p : Nat) (x : PartSt) : (State.setPart s p x).boot = s.boot :=
  State.setPart_keeps (keeps_boot s.boot (by decide)) p x rfl

@[simp] theorem State.setPart_saf (s : State) (p : Nat) (x : PartSt) : (State.setPart s p x).saf = s.saf :=
  State.setPart_keeps (keeps_saf s.saf (by decide)) p x rfl

@[simp] theorem State.setPart_pwr (s : State) (p : Nat) (x : PartSt) : (State.setPart s p x).pwr = s.pwr :=
  State.setPart_keeps (keeps_pwr s.pwr (by decide)) p x rfl

@[simp] theorem State.setPart_tap (s : State) (p : Nat) (x : PartSt) : (State.setPart s p x).tap = s.tap :=
  State.setPart_keeps (keeps_tap s.tap (by decide)) p x rfl

@[simp] theorem State.setPart_tim (s : State) (p : Nat) (x : PartSt) : (State.setPart s p x).tim = s.tim :=
  State.setPart_keeps (keeps_tim s.tim (by decide)) p x rfl

@[simp] theorem State.setSess_pending (s : State) (p : Nat) (x : WSess) : (State.setSess s p x).pending = s.pending :=
  State.setSess_keeps (keeps_pending _ s.pending) p x rfl

@[simp] theorem State.setSess_out (s : State) (p : Nat) (x : WSess) : (State.setSess s p x).out = s.out :=
  State.setSess_keeps (keeps_sent s.out (by decide)) p x rfl

@[simp] theorem State.setSess_regs (s : State) (p : Nat) (x : WSess) : (State.setSess s p x).regs = s.regs :=
  State.setSess_keeps (keeps_regs s.regs (by decide)) p x rfl

@[simp] theorem State.setSess_mem (s : State) (p : Nat) (x : WSess) : (State.setSess s p x).mem = s.mem :=
  State.setSess_keeps (keeps_mem s.mem (by decide)) p x rfl

@[simp] theorem State.setSess_core (s : State) (p : Nat) (x : WSess) : (State.setSess s p x).core = s.core :=
  State.setSess_keeps (keeps_core s.core (by decide)) p x rfl

@[simp] theorem State.setSess_eng (s : State) (p : Nat) (x : WSess) : (State.setSess s p x).eng = s.eng :=
  State.setSess_keeps (keeps_eng s.eng (by decide)) p x rfl

@[simp] theorem State.setSess_smp (s : State) (p : Nat) (x : WSess) : (State.setSess s p x).smp = s.smp :=
  State.setSess_keeps (keeps_smp s.smp (by decide)) p x rfl

@[simp] theorem State.setSess_upd (s : State) (p : Nat) (x : WSess) : (State.setSess s p x).upd = s.upd :=
  State.setSess_keeps (keeps_upd s.upd (by decide)) p x rfl

@[simp] theorem State.setSess_swm (s : State) (p : Nat) (x : WSess) : (State.setSess s p x).swm = s.swm :=
  State.setSess_keeps (keeps_swm s.swm (by decide)) p x rfl

@[simp] theorem State.setSess_cap (s : State) (p : Nat) (x : WSess) : (State.setSess s p x).cap = s.cap :=
  State.setSess_keeps (keeps_cap s.cap (by decide)) p x rfl

@[simp] theorem State.setSess_lp (s : State) (p : Nat) (x : WSess) : (State.setSess s p x).lp = s.lp :=
  State.setSess_keeps (keeps_lp s.lp (by decide)) p x rfl

@[simp] theorem State.setSess_log (s : State) (p : Nat) (x : WSess) : (State.setSess s p x).log = s.log :=
  State.setSess_keeps (keeps_log s.log (by decide)) p x rfl

@[simp] theorem State.setSess_fab (s : State) (p : Nat) (x : WSess) : (State.setSess s p x).fab = s.fab :=
  State.setSess_keeps (keeps_fab s.fab (by decide)) p x rfl

@[simp] theorem State.setSess_opt (s : State) (p : Nat) (x : WSess) : (State.setSess s p x).opt = s.opt :=
  State.setSess_keeps (keeps_opt s.opt (by decide)) p x rfl

@[simp] theorem State.setSess_host (s : State) (p : Nat) (x : WSess) : (State.setSess s p x).host = s.host :=
  State.setSess_keeps (keeps_host s.host (by decide)) p x rfl

@[simp] theorem State.setSess_boot (s : State) (p : Nat) (x : WSess) : (State.setSess s p x).boot = s.boot :=
  State.setSess_keeps (keeps_boot s.boot (by decide)) p x rfl

@[simp] theorem State.setSess_saf (s : State) (p : Nat) (x : WSess) : (State.setSess s p x).saf = s.saf :=
  State.setSess_keeps (keeps_saf s.saf (by decide)) p x rfl

@[simp] theorem State.setSess_pwr (s : State) (p : Nat) (x : WSess) : (State.setSess s p x).pwr = s.pwr :=
  State.setSess_keeps (keeps_pwr s.pwr (by decide)) p x rfl

@[simp] theorem State.setSess_tap (s : State) (p : Nat) (x : WSess) : (State.setSess s p x).tap = s.tap :=
  State.setSess_keeps (keeps_tap s.tap (by decide)) p x rfl

@[simp] theorem State.setSess_tim (s : State) (p : Nat) (x : WSess) : (State.setSess s p x).tim = s.tim :=
  State.setSess_keeps (keeps_tim s.tim (by decide)) p x rfl

@[simp] theorem State.setLink_pending (s : State) (p : Nat) (r : LinkRec) : (State.setLink s p r).pending = s.pending :=
  State.setLink_keeps (keeps_pending _ s.pending) p r rfl

@[simp] theorem State.setLink_out (s : State) (p : Nat) (r : LinkRec) : (State.setLink s p r).out = s.out :=
  State.setLink_keeps (keeps_sent s.out (by decide)) p r rfl

@[simp] theorem State.setLink_regs (s : State) (p : Nat) (r : LinkRec) : (State.setLink s p r).regs = s.regs :=
  State.setLink_keeps (keeps_regs s.regs (by decide)) p r rfl

@[simp] theorem State.setLink_mem (s : State) (p : Nat) (r : LinkRec) : (State.setLink s p r).mem = s.mem :=
  State.setLink_keeps (keeps_mem s.mem (by decide)) p r rfl

@[simp] theorem State.setLink_core (s : State) (p : Nat) (r : LinkRec) : (State.setLink s p r).core = s.core :=
  State.setLink_keeps (keeps_core s.core (by decide)) p r rfl

@[simp] theorem State.setLink_eng (s : State) (p : Nat) (r : LinkRec) : (State.setLink s p r).eng = s.eng :=
  State.setLink_keeps (keeps_eng s.eng (by decide)) p r rfl

@[simp] theorem State.setLink_smp (s : State) (p : Nat) (r : LinkRec) : (State.setLink s p r).smp = s.smp :=
  State.setLink_keeps (keeps_smp s.smp (by decide)) p r rfl

@[simp] theorem State.setLink_upd (s : State) (p : Nat) (r : LinkRec) : (State.setLink s p r).upd = s.upd :=
  State.setLink_keeps (keeps_upd s.upd (by decide)) p r rfl

@[simp] theorem State.setLink_swm (s : State) (p : Nat) (r : LinkRec) : (State.setLink s p r).swm = s.swm :=
  State.setLink_keeps (keeps_swm s.swm (by decide)) p r rfl

@[simp] theorem State.setLink_cap (s : State) (p : Nat) (r : LinkRec) : (State.setLink s p r).cap = s.cap :=
  State.setLink_keeps (keeps_cap s.cap (by decide)) p r rfl

@[simp] theorem State.setLink_lp (s : State) (p : Nat) (r : LinkRec) : (State.setLink s p r).lp = s.lp :=
  State.setLink_keeps (keeps_lp s.lp (by decide)) p r rfl

@[simp] theorem State.setLink_log (s : State) (p : Nat) (r : LinkRec) : (State.setLink s p r).log = s.log :=
  State.setLink_keeps (keeps_log s.log (by decide)) p r rfl

@[simp] theorem State.setLink_opt (s : State) (p : Nat) (r : LinkRec) : (State.setLink s p r).opt = s.opt :=
  State.setLink_keeps (keeps_opt s.opt (by decide)) p r rfl

@[simp] theorem State.setLink_host (s : State) (p : Nat) (r : LinkRec) : (State.setLink s p r).host = s.host :=
  State.setLink_keeps (keeps_host s.host (by decide)) p r rfl

@[simp] theorem State.setLink_wort (s : State) (p : Nat) (r : LinkRec) : (State.setLink s p r).wort = s.wort :=
  State.setLink_keeps (keeps_wort s.wort (by decide)) p r rfl

@[simp] theorem State.setLink_boot (s : State) (p : Nat) (r : LinkRec) : (State.setLink s p r).boot = s.boot :=
  State.setLink_keeps (keeps_boot s.boot (by decide)) p r rfl

@[simp] theorem State.setLink_saf (s : State) (p : Nat) (r : LinkRec) : (State.setLink s p r).saf = s.saf :=
  State.setLink_keeps (keeps_saf s.saf (by decide)) p r rfl

@[simp] theorem State.setLink_pwr (s : State) (p : Nat) (r : LinkRec) : (State.setLink s p r).pwr = s.pwr :=
  State.setLink_keeps (keeps_pwr s.pwr (by decide)) p r rfl

@[simp] theorem State.setLink_tap (s : State) (p : Nat) (r : LinkRec) : (State.setLink s p r).tap = s.tap :=
  State.setLink_keeps (keeps_tap s.tap (by decide)) p r rfl

@[simp] theorem State.setLink_tim (s : State) (p : Nat) (r : LinkRec) : (State.setLink s p r).tim = s.tim :=
  State.setLink_keeps (keeps_tim s.tim (by decide)) p r rfl

@[simp] theorem State.setArr_pending (s : State) (die : Nat) (a : Nat) (r : ArrRec) : (State.setArr s die a r).pending = s.pending :=
  State.setArr_keeps (keeps_pending _ s.pending) die a r rfl

@[simp] theorem State.setArr_out (s : State) (die : Nat) (a : Nat) (r : ArrRec) : (State.setArr s die a r).out = s.out :=
  State.setArr_keeps (keeps_sent s.out (by decide)) die a r rfl

@[simp] theorem State.setArr_regs (s : State) (die : Nat) (a : Nat) (r : ArrRec) : (State.setArr s die a r).regs = s.regs :=
  State.setArr_keeps (keeps_regs s.regs (by decide)) die a r rfl

@[simp] theorem State.setArr_mem (s : State) (die : Nat) (a : Nat) (r : ArrRec) : (State.setArr s die a r).mem = s.mem :=
  State.setArr_keeps (keeps_mem s.mem (by decide)) die a r rfl

@[simp] theorem State.setArr_core (s : State) (die : Nat) (a : Nat) (r : ArrRec) : (State.setArr s die a r).core = s.core :=
  State.setArr_keeps (keeps_core s.core (by decide)) die a r rfl

@[simp] theorem State.setArr_smp (s : State) (die : Nat) (a : Nat) (r : ArrRec) : (State.setArr s die a r).smp = s.smp :=
  State.setArr_keeps (keeps_smp s.smp (by decide)) die a r rfl

@[simp] theorem State.setArr_upd (s : State) (die : Nat) (a : Nat) (r : ArrRec) : (State.setArr s die a r).upd = s.upd :=
  State.setArr_keeps (keeps_upd s.upd (by decide)) die a r rfl

@[simp] theorem State.setArr_swm (s : State) (die : Nat) (a : Nat) (r : ArrRec) : (State.setArr s die a r).swm = s.swm :=
  State.setArr_keeps (keeps_swm s.swm (by decide)) die a r rfl

@[simp] theorem State.setArr_cap (s : State) (die : Nat) (a : Nat) (r : ArrRec) : (State.setArr s die a r).cap = s.cap :=
  State.setArr_keeps (keeps_cap s.cap (by decide)) die a r rfl

@[simp] theorem State.setArr_lp (s : State) (die : Nat) (a : Nat) (r : ArrRec) : (State.setArr s die a r).lp = s.lp :=
  State.setArr_keeps (keeps_lp s.lp (by decide)) die a r rfl

@[simp] theorem State.setArr_log (s : State) (die : Nat) (a : Nat) (r : ArrRec) : (State.setArr s die a r).log = s.log :=
  State.setArr_keeps (keeps_log s.log (by decide)) die a r rfl

@[simp] theorem State.setArr_fab (s : State) (die : Nat) (a : Nat) (r : ArrRec) : (State.setArr s die a r).fab = s.fab :=
  State.setArr_keeps (keeps_fab s.fab (by decide)) die a r rfl

@[simp] theorem State.setArr_opt (s : State) (die : Nat) (a : Nat) (r : ArrRec) : (State.setArr s die a r).opt = s.opt :=
  State.setArr_keeps (keeps_opt s.opt (by decide)) die a r rfl

@[simp] theorem State.setArr_host (s : State) (die : Nat) (a : Nat) (r : ArrRec) : (State.setArr s die a r).host = s.host :=
  State.setArr_keeps (keeps_host s.host (by decide)) die a r rfl

@[simp] theorem State.setArr_wort (s : State) (die : Nat) (a : Nat) (r : ArrRec) : (State.setArr s die a r).wort = s.wort :=
  State.setArr_keeps (keeps_wort s.wort (by decide)) die a r rfl

@[simp] theorem State.setArr_boot (s : State) (die : Nat) (a : Nat) (r : ArrRec) : (State.setArr s die a r).boot = s.boot :=
  State.setArr_keeps (keeps_boot s.boot (by decide)) die a r rfl

@[simp] theorem State.setArr_saf (s : State) (die : Nat) (a : Nat) (r : ArrRec) : (State.setArr s die a r).saf = s.saf :=
  State.setArr_keeps (keeps_saf s.saf (by decide)) die a r rfl

@[simp] theorem State.setArr_pwr (s : State) (die : Nat) (a : Nat) (r : ArrRec) : (State.setArr s die a r).pwr = s.pwr :=
  State.setArr_keeps (keeps_pwr s.pwr (by decide)) die a r rfl

@[simp] theorem State.setArr_tap (s : State) (die : Nat) (a : Nat) (r : ArrRec) : (State.setArr s die a r).tap = s.tap :=
  State.setArr_keeps (keeps_tap s.tap (by decide)) die a r rfl

@[simp] theorem State.setArr_tim (s : State) (die : Nat) (a : Nat) (r : ArrRec) : (State.setArr s die a r).tim = s.tim :=
  State.setArr_keeps (keeps_tim s.tim (by decide)) die a r rfl

@[simp] theorem State.setCeQ_pending (s : State) (die : Nat) (e : Nat) (q : List Job) : (State.setCeQ s die e q).pending = s.pending :=
  State.setCeQ_keeps (keeps_pending _ s.pending) die e q rfl

@[simp] theorem State.setCeQ_out (s : State) (die : Nat) (e : Nat) (q : List Job) : (State.setCeQ s die e q).out = s.out :=
  State.setCeQ_keeps (keeps_sent s.out (by decide)) die e q rfl

@[simp] theorem State.setCeQ_mem (s : State) (die : Nat) (e : Nat) (q : List Job) : (State.setCeQ s die e q).mem = s.mem :=
  State.setCeQ_keeps (keeps_mem s.mem (by decide)) die e q rfl

@[simp] theorem State.setCeQ_core (s : State) (die : Nat) (e : Nat) (q : List Job) : (State.setCeQ s die e q).core = s.core :=
  State.setCeQ_keeps (keeps_core s.core (by decide)) die e q rfl

@[simp] theorem State.setCeQ_smp (s : State) (die : Nat) (e : Nat) (q : List Job) : (State.setCeQ s die e q).smp = s.smp :=
  State.setCeQ_keeps (keeps_smp s.smp (by decide)) die e q rfl

@[simp] theorem State.setCeQ_upd (s : State) (die : Nat) (e : Nat) (q : List Job) : (State.setCeQ s die e q).upd = s.upd :=
  State.setCeQ_keeps (keeps_upd s.upd (by decide)) die e q rfl

@[simp] theorem State.setCeQ_swm (s : State) (die : Nat) (e : Nat) (q : List Job) : (State.setCeQ s die e q).swm = s.swm :=
  State.setCeQ_keeps (keeps_swm s.swm (by decide)) die e q rfl

@[simp] theorem State.setCeQ_cap (s : State) (die : Nat) (e : Nat) (q : List Job) : (State.setCeQ s die e q).cap = s.cap :=
  State.setCeQ_keeps (keeps_cap s.cap (by decide)) die e q rfl

@[simp] theorem State.setCeQ_lp (s : State) (die : Nat) (e : Nat) (q : List Job) : (State.setCeQ s die e q).lp = s.lp :=
  State.setCeQ_keeps (keeps_lp s.lp (by decide)) die e q rfl

@[simp] theorem State.setCeQ_log (s : State) (die : Nat) (e : Nat) (q : List Job) : (State.setCeQ s die e q).log = s.log :=
  State.setCeQ_keeps (keeps_log s.log (by decide)) die e q rfl

@[simp] theorem State.setCeQ_fab (s : State) (die : Nat) (e : Nat) (q : List Job) : (State.setCeQ s die e q).fab = s.fab :=
  State.setCeQ_keeps (keeps_fab s.fab (by decide)) die e q rfl

@[simp] theorem State.setCeQ_opt (s : State) (die : Nat) (e : Nat) (q : List Job) : (State.setCeQ s die e q).opt = s.opt :=
  State.setCeQ_keeps (keeps_opt s.opt (by decide)) die e q rfl

@[simp] theorem State.setCeQ_host (s : State) (die : Nat) (e : Nat) (q : List Job) : (State.setCeQ s die e q).host = s.host :=
  State.setCeQ_keeps (keeps_host s.host (by decide)) die e q rfl

@[simp] theorem State.setCeQ_wort (s : State) (die : Nat) (e : Nat) (q : List Job) : (State.setCeQ s die e q).wort = s.wort :=
  State.setCeQ_keeps (keeps_wort s.wort (by decide)) die e q rfl

@[simp] theorem State.setCeQ_boot (s : State) (die : Nat) (e : Nat) (q : List Job) : (State.setCeQ s die e q).boot = s.boot :=
  State.setCeQ_keeps (keeps_boot s.boot (by decide)) die e q rfl

@[simp] theorem State.setCeQ_saf (s : State) (die : Nat) (e : Nat) (q : List Job) : (State.setCeQ s die e q).saf = s.saf :=
  State.setCeQ_keeps (keeps_saf s.saf (by decide)) die e q rfl

@[simp] theorem State.setCeQ_pwr (s : State) (die : Nat) (e : Nat) (q : List Job) : (State.setCeQ s die e q).pwr = s.pwr :=
  State.setCeQ_keeps (keeps_pwr s.pwr (by decide)) die e q rfl

@[simp] theorem State.setCeQ_tap (s : State) (die : Nat) (e : Nat) (q : List Job) : (State.setCeQ s die e q).tap = s.tap :=
  State.setCeQ_keeps (keeps_tap s.tap (by decide)) die e q rfl

@[simp] theorem State.setCeQ_tim (s : State) (die : Nat) (e : Nat) (q : List Job) : (State.setCeQ s die e q).tim = s.tim :=
  State.setCeQ_keeps (keeps_tim s.tim (by decide)) die e q rfl

@[simp] theorem State.setMveq_pending (s : State) (die : Nat) (q : List Job) : (State.setMveq s die q).pending = s.pending :=
  State.setMveq_keeps (keeps_pending _ s.pending) die q rfl

@[simp] theorem State.setMveq_out (s : State) (die : Nat) (q : List Job) : (State.setMveq s die q).out = s.out :=
  State.setMveq_keeps (keeps_sent s.out (by decide)) die q rfl

@[simp] theorem State.setMveq_regs (s : State) (die : Nat) (q : List Job) : (State.setMveq s die q).regs = s.regs :=
  State.setMveq_keeps (keeps_regs s.regs (by decide)) die q rfl

@[simp] theorem State.setMveq_mem (s : State) (die : Nat) (q : List Job) : (State.setMveq s die q).mem = s.mem :=
  State.setMveq_keeps (keeps_mem s.mem (by decide)) die q rfl

@[simp] theorem State.setMveq_core (s : State) (die : Nat) (q : List Job) : (State.setMveq s die q).core = s.core :=
  State.setMveq_keeps (keeps_core s.core (by decide)) die q rfl

@[simp] theorem State.setMveq_smp (s : State) (die : Nat) (q : List Job) : (State.setMveq s die q).smp = s.smp :=
  State.setMveq_keeps (keeps_smp s.smp (by decide)) die q rfl

@[simp] theorem State.setMveq_upd (s : State) (die : Nat) (q : List Job) : (State.setMveq s die q).upd = s.upd :=
  State.setMveq_keeps (keeps_upd s.upd (by decide)) die q rfl

@[simp] theorem State.setMveq_swm (s : State) (die : Nat) (q : List Job) : (State.setMveq s die q).swm = s.swm :=
  State.setMveq_keeps (keeps_swm s.swm (by decide)) die q rfl

@[simp] theorem State.setMveq_cap (s : State) (die : Nat) (q : List Job) : (State.setMveq s die q).cap = s.cap :=
  State.setMveq_keeps (keeps_cap s.cap (by decide)) die q rfl

@[simp] theorem State.setMveq_lp (s : State) (die : Nat) (q : List Job) : (State.setMveq s die q).lp = s.lp :=
  State.setMveq_keeps (keeps_lp s.lp (by decide)) die q rfl

@[simp] theorem State.setMveq_log (s : State) (die : Nat) (q : List Job) : (State.setMveq s die q).log = s.log :=
  State.setMveq_keeps (keeps_log s.log (by decide)) die q rfl

@[simp] theorem State.setMveq_fab (s : State) (die : Nat) (q : List Job) : (State.setMveq s die q).fab = s.fab :=
  State.setMveq_keeps (keeps_fab s.fab (by decide)) die q rfl

@[simp] theorem State.setMveq_opt (s : State) (die : Nat) (q : List Job) : (State.setMveq s die q).opt = s.opt :=
  State.setMveq_keeps (keeps_opt s.opt (by decide)) die q rfl

@[simp] theorem State.setMveq_host (s : State) (die : Nat) (q : List Job) : (State.setMveq s die q).host = s.host :=
  State.setMveq_keeps (keeps_host s.host (by decide)) die q rfl

@[simp] theorem State.setMveq_wort (s : State) (die : Nat) (q : List Job) : (State.setMveq s die q).wort = s.wort :=
  State.setMveq_keeps (keeps_wort s.wort (by decide)) die q rfl

@[simp] theorem State.setMveq_boot (s : State) (die : Nat) (q : List Job) : (State.setMveq s die q).boot = s.boot :=
  State.setMveq_keeps (keeps_boot s.boot (by decide)) die q rfl

@[simp] theorem State.setMveq_saf (s : State) (die : Nat) (q : List Job) : (State.setMveq s die q).saf = s.saf :=
  State.setMveq_keeps (keeps_saf s.saf (by decide)) die q rfl

@[simp] theorem State.setMveq_pwr (s : State) (die : Nat) (q : List Job) : (State.setMveq s die q).pwr = s.pwr :=
  State.setMveq_keeps (keeps_pwr s.pwr (by decide)) die q rfl

@[simp] theorem State.setMveq_tap (s : State) (die : Nat) (q : List Job) : (State.setMveq s die q).tap = s.tap :=
  State.setMveq_keeps (keeps_tap s.tap (by decide)) die q rfl

@[simp] theorem State.setMveq_tim (s : State) (die : Nat) (q : List Job) : (State.setMveq s die q).tim = s.tim :=
  State.setMveq_keeps (keeps_tim s.tim (by decide)) die q rfl

@[simp] theorem State.setUpdQ_pending (s : State) (die : Nat) (q : List Job) : (State.setUpdQ s die q).pending = s.pending :=
  State.setUpdQ_keeps (keeps_pending _ s.pending) die q rfl

@[simp] theorem State.setUpdQ_out (s : State) (die : Nat) (q : List Job) : (State.setUpdQ s die q).out = s.out :=
  State.setUpdQ_keeps (keeps_sent s.out (by decide)) die q rfl

@[simp] theorem State.setUpdQ_mem (s : State) (die : Nat) (q : List Job) : (State.setUpdQ s die q).mem = s.mem :=
  State.setUpdQ_keeps (keeps_mem s.mem (by decide)) die q rfl

@[simp] theorem State.setUpdQ_core (s : State) (die : Nat) (q : List Job) : (State.setUpdQ s die q).core = s.core :=
  State.setUpdQ_keeps (keeps_core s.core (by decide)) die q rfl

@[simp] theorem State.setUpdQ_eng (s : State) (die : Nat) (q : List Job) : (State.setUpdQ s die q).eng = s.eng :=
  State.setUpdQ_keeps (keeps_eng s.eng (by decide)) die q rfl

@[simp] theorem State.setUpdQ_smp (s : State) (die : Nat) (q : List Job) : (State.setUpdQ s die q).smp = s.smp :=
  State.setUpdQ_keeps (keeps_smp s.smp (by decide)) die q rfl

@[simp] theorem State.setUpdQ_swm (s : State) (die : Nat) (q : List Job) : (State.setUpdQ s die q).swm = s.swm :=
  State.setUpdQ_keeps (keeps_swm s.swm (by decide)) die q rfl

@[simp] theorem State.setUpdQ_cap (s : State) (die : Nat) (q : List Job) : (State.setUpdQ s die q).cap = s.cap :=
  State.setUpdQ_keeps (keeps_cap s.cap (by decide)) die q rfl

@[simp] theorem State.setUpdQ_lp (s : State) (die : Nat) (q : List Job) : (State.setUpdQ s die q).lp = s.lp :=
  State.setUpdQ_keeps (keeps_lp s.lp (by decide)) die q rfl

@[simp] theorem State.setUpdQ_log (s : State) (die : Nat) (q : List Job) : (State.setUpdQ s die q).log = s.log :=
  State.setUpdQ_keeps (keeps_log s.log (by decide)) die q rfl

@[simp] theorem State.setUpdQ_fab (s : State) (die : Nat) (q : List Job) : (State.setUpdQ s die q).fab = s.fab :=
  State.setUpdQ_keeps (keeps_fab s.fab (by decide)) die q rfl

@[simp] theorem State.setUpdQ_opt (s : State) (die : Nat) (q : List Job) : (State.setUpdQ s die q).opt = s.opt :=
  State.setUpdQ_keeps (keeps_opt s.opt (by decide)) die q rfl

@[simp] theorem State.setUpdQ_host (s : State) (die : Nat) (q : List Job) : (State.setUpdQ s die q).host = s.host :=
  State.setUpdQ_keeps (keeps_host s.host (by decide)) die q rfl

@[simp] theorem State.setUpdQ_wort (s : State) (die : Nat) (q : List Job) : (State.setUpdQ s die q).wort = s.wort :=
  State.setUpdQ_keeps (keeps_wort s.wort (by decide)) die q rfl

@[simp] theorem State.setUpdQ_boot (s : State) (die : Nat) (q : List Job) : (State.setUpdQ s die q).boot = s.boot :=
  State.setUpdQ_keeps (keeps_boot s.boot (by decide)) die q rfl

@[simp] theorem State.setUpdQ_saf (s : State) (die : Nat) (q : List Job) : (State.setUpdQ s die q).saf = s.saf :=
  State.setUpdQ_keeps (keeps_saf s.saf (by decide)) die q rfl

@[simp] theorem State.setUpdQ_pwr (s : State) (die : Nat) (q : List Job) : (State.setUpdQ s die q).pwr = s.pwr :=
  State.setUpdQ_keeps (keeps_pwr s.pwr (by decide)) die q rfl

@[simp] theorem State.setUpdQ_tap (s : State) (die : Nat) (q : List Job) : (State.setUpdQ s die q).tap = s.tap :=
  State.setUpdQ_keeps (keeps_tap s.tap (by decide)) die q rfl

@[simp] theorem State.setUpdQ_tim (s : State) (die : Nat) (q : List Job) : (State.setUpdQ s die q).tim = s.tim :=
  State.setUpdQ_keeps (keeps_tim s.tim (by decide)) die q rfl

@[simp] theorem State.setDieCap_pending (s : State) (die : Nat) (c : DieCap) : (State.setDieCap s die c).pending = s.pending :=
  State.setDieCap_keeps (keeps_pending _ s.pending) die c rfl

@[simp] theorem State.setDieCap_out (s : State) (die : Nat) (c : DieCap) : (State.setDieCap s die c).out = s.out :=
  State.setDieCap_keeps (keeps_sent s.out (by decide)) die c rfl

@[simp] theorem State.setDieCap_regs (s : State) (die : Nat) (c : DieCap) : (State.setDieCap s die c).regs = s.regs :=
  State.setDieCap_keeps (keeps_regs s.regs (by decide)) die c rfl

@[simp] theorem State.setDieCap_mem (s : State) (die : Nat) (c : DieCap) : (State.setDieCap s die c).mem = s.mem :=
  State.setDieCap_keeps (keeps_mem s.mem (by decide)) die c rfl

@[simp] theorem State.setDieCap_core (s : State) (die : Nat) (c : DieCap) : (State.setDieCap s die c).core = s.core :=
  State.setDieCap_keeps (keeps_core s.core (by decide)) die c rfl

@[simp] theorem State.setDieCap_eng (s : State) (die : Nat) (c : DieCap) : (State.setDieCap s die c).eng = s.eng :=
  State.setDieCap_keeps (keeps_eng s.eng (by decide)) die c rfl

@[simp] theorem State.setDieCap_smp (s : State) (die : Nat) (c : DieCap) : (State.setDieCap s die c).smp = s.smp :=
  State.setDieCap_keeps (keeps_smp s.smp (by decide)) die c rfl

@[simp] theorem State.setDieCap_upd (s : State) (die : Nat) (c : DieCap) : (State.setDieCap s die c).upd = s.upd :=
  State.setDieCap_keeps (keeps_upd s.upd (by decide)) die c rfl

@[simp] theorem State.setDieCap_swm (s : State) (die : Nat) (c : DieCap) : (State.setDieCap s die c).swm = s.swm :=
  State.setDieCap_keeps (keeps_swm s.swm (by decide)) die c rfl

@[simp] theorem State.setDieCap_lp (s : State) (die : Nat) (c : DieCap) : (State.setDieCap s die c).lp = s.lp :=
  State.setDieCap_keeps (keeps_lp s.lp (by decide)) die c rfl

@[simp] theorem State.setDieCap_log (s : State) (die : Nat) (c : DieCap) : (State.setDieCap s die c).log = s.log :=
  State.setDieCap_keeps (keeps_log s.log (by decide)) die c rfl

@[simp] theorem State.setDieCap_fab (s : State) (die : Nat) (c : DieCap) : (State.setDieCap s die c).fab = s.fab :=
  State.setDieCap_keeps (keeps_fab s.fab (by decide)) die c rfl

@[simp] theorem State.setDieCap_opt (s : State) (die : Nat) (c : DieCap) : (State.setDieCap s die c).opt = s.opt :=
  State.setDieCap_keeps (keeps_opt s.opt (by decide)) die c rfl

@[simp] theorem State.setDieCap_host (s : State) (die : Nat) (c : DieCap) : (State.setDieCap s die c).host = s.host :=
  State.setDieCap_keeps (keeps_host s.host (by decide)) die c rfl

@[simp] theorem State.setDieCap_wort (s : State) (die : Nat) (c : DieCap) : (State.setDieCap s die c).wort = s.wort :=
  State.setDieCap_keeps (keeps_wort s.wort (by decide)) die c rfl

@[simp] theorem State.setDieCap_boot (s : State) (die : Nat) (c : DieCap) : (State.setDieCap s die c).boot = s.boot :=
  State.setDieCap_keeps (keeps_boot s.boot (by decide)) die c rfl

@[simp] theorem State.setDieCap_saf (s : State) (die : Nat) (c : DieCap) : (State.setDieCap s die c).saf = s.saf :=
  State.setDieCap_keeps (keeps_saf s.saf (by decide)) die c rfl

@[simp] theorem State.setDieCap_pwr (s : State) (die : Nat) (c : DieCap) : (State.setDieCap s die c).pwr = s.pwr :=
  State.setDieCap_keeps (keeps_pwr s.pwr (by decide)) die c rfl

@[simp] theorem State.setDieCap_tap (s : State) (die : Nat) (c : DieCap) : (State.setDieCap s die c).tap = s.tap :=
  State.setDieCap_keeps (keeps_tap s.tap (by decide)) die c rfl

@[simp] theorem State.setDieCap_tim (s : State) (die : Nat) (c : DieCap) : (State.setDieCap s die c).tim = s.tim :=
  State.setDieCap_keeps (keeps_tim s.tim (by decide)) die c rfl

@[simp] theorem State.setCapState_pending (s : State) (die : Nat) (v : Nat) : (State.setCapState s die v).pending = s.pending :=
  State.setCapState_keeps (keeps_pending _ s.pending) die v rfl

@[simp] theorem State.setCapState_out (s : State) (die : Nat) (v : Nat) : (State.setCapState s die v).out = s.out :=
  State.setCapState_keeps (keeps_sent s.out (by decide)) die v rfl

@[simp] theorem State.setCapState_mem (s : State) (die : Nat) (v : Nat) : (State.setCapState s die v).mem = s.mem :=
  State.setCapState_keeps (keeps_mem s.mem (by decide)) die v rfl

@[simp] theorem State.setCapState_core (s : State) (die : Nat) (v : Nat) : (State.setCapState s die v).core = s.core :=
  State.setCapState_keeps (keeps_core s.core (by decide)) die v rfl

@[simp] theorem State.setCapState_eng (s : State) (die : Nat) (v : Nat) : (State.setCapState s die v).eng = s.eng :=
  State.setCapState_keeps (keeps_eng s.eng (by decide)) die v rfl

@[simp] theorem State.setCapState_smp (s : State) (die : Nat) (v : Nat) : (State.setCapState s die v).smp = s.smp :=
  State.setCapState_keeps (keeps_smp s.smp (by decide)) die v rfl

@[simp] theorem State.setCapState_upd (s : State) (die : Nat) (v : Nat) : (State.setCapState s die v).upd = s.upd :=
  State.setCapState_keeps (keeps_upd s.upd (by decide)) die v rfl

@[simp] theorem State.setCapState_swm (s : State) (die : Nat) (v : Nat) : (State.setCapState s die v).swm = s.swm :=
  State.setCapState_keeps (keeps_swm s.swm (by decide)) die v rfl

@[simp] theorem State.setCapState_cap (s : State) (die : Nat) (v : Nat) : (State.setCapState s die v).cap = s.cap :=
  State.setCapState_keeps (keeps_cap s.cap (by decide)) die v rfl

@[simp] theorem State.setCapState_lp (s : State) (die : Nat) (v : Nat) : (State.setCapState s die v).lp = s.lp :=
  State.setCapState_keeps (keeps_lp s.lp (by decide)) die v rfl

@[simp] theorem State.setCapState_log (s : State) (die : Nat) (v : Nat) : (State.setCapState s die v).log = s.log :=
  State.setCapState_keeps (keeps_log s.log (by decide)) die v rfl

@[simp] theorem State.setCapState_fab (s : State) (die : Nat) (v : Nat) : (State.setCapState s die v).fab = s.fab :=
  State.setCapState_keeps (keeps_fab s.fab (by decide)) die v rfl

@[simp] theorem State.setCapState_opt (s : State) (die : Nat) (v : Nat) : (State.setCapState s die v).opt = s.opt :=
  State.setCapState_keeps (keeps_opt s.opt (by decide)) die v rfl

@[simp] theorem State.setCapState_host (s : State) (die : Nat) (v : Nat) : (State.setCapState s die v).host = s.host :=
  State.setCapState_keeps (keeps_host s.host (by decide)) die v rfl

@[simp] theorem State.setCapState_wort (s : State) (die : Nat) (v : Nat) : (State.setCapState s die v).wort = s.wort :=
  State.setCapState_keeps (keeps_wort s.wort (by decide)) die v rfl

@[simp] theorem State.setCapState_boot (s : State) (die : Nat) (v : Nat) : (State.setCapState s die v).boot = s.boot :=
  State.setCapState_keeps (keeps_boot s.boot (by decide)) die v rfl

@[simp] theorem State.setCapState_saf (s : State) (die : Nat) (v : Nat) : (State.setCapState s die v).saf = s.saf :=
  State.setCapState_keeps (keeps_saf s.saf (by decide)) die v rfl

@[simp] theorem State.setCapState_pwr (s : State) (die : Nat) (v : Nat) : (State.setCapState s die v).pwr = s.pwr :=
  State.setCapState_keeps (keeps_pwr s.pwr (by decide)) die v rfl

@[simp] theorem State.setCapState_tap (s : State) (die : Nat) (v : Nat) : (State.setCapState s die v).tap = s.tap :=
  State.setCapState_keeps (keeps_tap s.tap (by decide)) die v rfl

@[simp] theorem State.setCapState_tim (s : State) (die : Nat) (v : Nat) : (State.setCapState s die v).tim = s.tim :=
  State.setCapState_keeps (keeps_tim s.tim (by decide)) die v rfl

@[simp] theorem State.setHiveCap_pending (s : State) (h : HiveCap) : (State.setHiveCap s h).pending = s.pending :=
  State.setHiveCap_keeps (keeps_pending _ s.pending) h rfl

@[simp] theorem State.setHiveCap_out (s : State) (h : HiveCap) : (State.setHiveCap s h).out = s.out :=
  State.setHiveCap_keeps (keeps_sent s.out (by decide)) h rfl

@[simp] theorem State.setHiveCap_regs (s : State) (h : HiveCap) : (State.setHiveCap s h).regs = s.regs :=
  State.setHiveCap_keeps (keeps_regs s.regs (by decide)) h rfl

@[simp] theorem State.setHiveCap_mem (s : State) (h : HiveCap) : (State.setHiveCap s h).mem = s.mem :=
  State.setHiveCap_keeps (keeps_mem s.mem (by decide)) h rfl

@[simp] theorem State.setHiveCap_core (s : State) (h : HiveCap) : (State.setHiveCap s h).core = s.core :=
  State.setHiveCap_keeps (keeps_core s.core (by decide)) h rfl

@[simp] theorem State.setHiveCap_eng (s : State) (h : HiveCap) : (State.setHiveCap s h).eng = s.eng :=
  State.setHiveCap_keeps (keeps_eng s.eng (by decide)) h rfl

@[simp] theorem State.setHiveCap_smp (s : State) (h : HiveCap) : (State.setHiveCap s h).smp = s.smp :=
  State.setHiveCap_keeps (keeps_smp s.smp (by decide)) h rfl

@[simp] theorem State.setHiveCap_upd (s : State) (h : HiveCap) : (State.setHiveCap s h).upd = s.upd :=
  State.setHiveCap_keeps (keeps_upd s.upd (by decide)) h rfl

@[simp] theorem State.setHiveCap_swm (s : State) (h : HiveCap) : (State.setHiveCap s h).swm = s.swm :=
  State.setHiveCap_keeps (keeps_swm s.swm (by decide)) h rfl

@[simp] theorem State.setHiveCap_lp (s : State) (h : HiveCap) : (State.setHiveCap s h).lp = s.lp :=
  State.setHiveCap_keeps (keeps_lp s.lp (by decide)) h rfl

@[simp] theorem State.setHiveCap_log (s : State) (h : HiveCap) : (State.setHiveCap s h).log = s.log :=
  State.setHiveCap_keeps (keeps_log s.log (by decide)) h rfl

@[simp] theorem State.setHiveCap_fab (s : State) (h : HiveCap) : (State.setHiveCap s h).fab = s.fab :=
  State.setHiveCap_keeps (keeps_fab s.fab (by decide)) h rfl

@[simp] theorem State.setHiveCap_opt (s : State) (h : HiveCap) : (State.setHiveCap s h).opt = s.opt :=
  State.setHiveCap_keeps (keeps_opt s.opt (by decide)) h rfl

@[simp] theorem State.setHiveCap_host (s : State) (h : HiveCap) : (State.setHiveCap s h).host = s.host :=
  State.setHiveCap_keeps (keeps_host s.host (by decide)) h rfl

@[simp] theorem State.setHiveCap_wort (s : State) (h : HiveCap) : (State.setHiveCap s h).wort = s.wort :=
  State.setHiveCap_keeps (keeps_wort s.wort (by decide)) h rfl

@[simp] theorem State.setHiveCap_boot (s : State) (h : HiveCap) : (State.setHiveCap s h).boot = s.boot :=
  State.setHiveCap_keeps (keeps_boot s.boot (by decide)) h rfl

@[simp] theorem State.setHiveCap_saf (s : State) (h : HiveCap) : (State.setHiveCap s h).saf = s.saf :=
  State.setHiveCap_keeps (keeps_saf s.saf (by decide)) h rfl

@[simp] theorem State.setHiveCap_pwr (s : State) (h : HiveCap) : (State.setHiveCap s h).pwr = s.pwr :=
  State.setHiveCap_keeps (keeps_pwr s.pwr (by decide)) h rfl

@[simp] theorem State.setHiveCap_tap (s : State) (h : HiveCap) : (State.setHiveCap s h).tap = s.tap :=
  State.setHiveCap_keeps (keeps_tap s.tap (by decide)) h rfl

@[simp] theorem State.setHiveCap_tim (s : State) (h : HiveCap) : (State.setHiveCap s h).tim = s.tim :=
  State.setHiveCap_keeps (keeps_tim s.tim (by decide)) h rfl

@[simp] theorem State.setCoord_pending (s : State) (h : CoordCap) : (State.setCoord s h).pending = s.pending :=
  State.setCoord_keeps (keeps_pending _ s.pending) h rfl

@[simp] theorem State.setCoord_out (s : State) (h : CoordCap) : (State.setCoord s h).out = s.out :=
  State.setCoord_keeps (keeps_sent s.out (by decide)) h rfl

@[simp] theorem State.setCoord_regs (s : State) (h : CoordCap) : (State.setCoord s h).regs = s.regs :=
  State.setCoord_keeps (keeps_regs s.regs (by decide)) h rfl

@[simp] theorem State.setCoord_mem (s : State) (h : CoordCap) : (State.setCoord s h).mem = s.mem :=
  State.setCoord_keeps (keeps_mem s.mem (by decide)) h rfl

@[simp] theorem State.setCoord_core (s : State) (h : CoordCap) : (State.setCoord s h).core = s.core :=
  State.setCoord_keeps (keeps_core s.core (by decide)) h rfl

@[simp] theorem State.setCoord_eng (s : State) (h : CoordCap) : (State.setCoord s h).eng = s.eng :=
  State.setCoord_keeps (keeps_eng s.eng (by decide)) h rfl

@[simp] theorem State.setCoord_smp (s : State) (h : CoordCap) : (State.setCoord s h).smp = s.smp :=
  State.setCoord_keeps (keeps_smp s.smp (by decide)) h rfl

@[simp] theorem State.setCoord_upd (s : State) (h : CoordCap) : (State.setCoord s h).upd = s.upd :=
  State.setCoord_keeps (keeps_upd s.upd (by decide)) h rfl

@[simp] theorem State.setCoord_swm (s : State) (h : CoordCap) : (State.setCoord s h).swm = s.swm :=
  State.setCoord_keeps (keeps_swm s.swm (by decide)) h rfl

@[simp] theorem State.setCoord_lp (s : State) (h : CoordCap) : (State.setCoord s h).lp = s.lp :=
  State.setCoord_keeps (keeps_lp s.lp (by decide)) h rfl

@[simp] theorem State.setCoord_log (s : State) (h : CoordCap) : (State.setCoord s h).log = s.log :=
  State.setCoord_keeps (keeps_log s.log (by decide)) h rfl

@[simp] theorem State.setCoord_fab (s : State) (h : CoordCap) : (State.setCoord s h).fab = s.fab :=
  State.setCoord_keeps (keeps_fab s.fab (by decide)) h rfl

@[simp] theorem State.setCoord_opt (s : State) (h : CoordCap) : (State.setCoord s h).opt = s.opt :=
  State.setCoord_keeps (keeps_opt s.opt (by decide)) h rfl

@[simp] theorem State.setCoord_host (s : State) (h : CoordCap) : (State.setCoord s h).host = s.host :=
  State.setCoord_keeps (keeps_host s.host (by decide)) h rfl

@[simp] theorem State.setCoord_wort (s : State) (h : CoordCap) : (State.setCoord s h).wort = s.wort :=
  State.setCoord_keeps (keeps_wort s.wort (by decide)) h rfl

@[simp] theorem State.setCoord_boot (s : State) (h : CoordCap) : (State.setCoord s h).boot = s.boot :=
  State.setCoord_keeps (keeps_boot s.boot (by decide)) h rfl

@[simp] theorem State.setCoord_saf (s : State) (h : CoordCap) : (State.setCoord s h).saf = s.saf :=
  State.setCoord_keeps (keeps_saf s.saf (by decide)) h rfl

@[simp] theorem State.setCoord_pwr (s : State) (h : CoordCap) : (State.setCoord s h).pwr = s.pwr :=
  State.setCoord_keeps (keeps_pwr s.pwr (by decide)) h rfl

@[simp] theorem State.setCoord_tap (s : State) (h : CoordCap) : (State.setCoord s h).tap = s.tap :=
  State.setCoord_keeps (keeps_tap s.tap (by decide)) h rfl

@[simp] theorem State.setCoord_tim (s : State) (h : CoordCap) : (State.setCoord s h).tim = s.tim :=
  State.setCoord_keeps (keeps_tim s.tim (by decide)) h rfl

@[simp] theorem State.setWit_pending (s : State) (h : WitCap) : (State.setWit s h).pending = s.pending :=
  State.setWit_keeps (keeps_pending _ s.pending) h rfl

@[simp] theorem State.setWit_out (s : State) (h : WitCap) : (State.setWit s h).out = s.out :=
  State.setWit_keeps (keeps_sent s.out (by decide)) h rfl

@[simp] theorem State.setWit_regs (s : State) (h : WitCap) : (State.setWit s h).regs = s.regs :=
  State.setWit_keeps (keeps_regs s.regs (by decide)) h rfl

@[simp] theorem State.setWit_mem (s : State) (h : WitCap) : (State.setWit s h).mem = s.mem :=
  State.setWit_keeps (keeps_mem s.mem (by decide)) h rfl

@[simp] theorem State.setWit_core (s : State) (h : WitCap) : (State.setWit s h).core = s.core :=
  State.setWit_keeps (keeps_core s.core (by decide)) h rfl

@[simp] theorem State.setWit_eng (s : State) (h : WitCap) : (State.setWit s h).eng = s.eng :=
  State.setWit_keeps (keeps_eng s.eng (by decide)) h rfl

@[simp] theorem State.setWit_smp (s : State) (h : WitCap) : (State.setWit s h).smp = s.smp :=
  State.setWit_keeps (keeps_smp s.smp (by decide)) h rfl

@[simp] theorem State.setWit_upd (s : State) (h : WitCap) : (State.setWit s h).upd = s.upd :=
  State.setWit_keeps (keeps_upd s.upd (by decide)) h rfl

@[simp] theorem State.setWit_swm (s : State) (h : WitCap) : (State.setWit s h).swm = s.swm :=
  State.setWit_keeps (keeps_swm s.swm (by decide)) h rfl

@[simp] theorem State.setWit_lp (s : State) (h : WitCap) : (State.setWit s h).lp = s.lp :=
  State.setWit_keeps (keeps_lp s.lp (by decide)) h rfl

@[simp] theorem State.setWit_log (s : State) (h : WitCap) : (State.setWit s h).log = s.log :=
  State.setWit_keeps (keeps_log s.log (by decide)) h rfl

@[simp] theorem State.setWit_fab (s : State) (h : WitCap) : (State.setWit s h).fab = s.fab :=
  State.setWit_keeps (keeps_fab s.fab (by decide)) h rfl

@[simp] theorem State.setWit_opt (s : State) (h : WitCap) : (State.setWit s h).opt = s.opt :=
  State.setWit_keeps (keeps_opt s.opt (by decide)) h rfl

@[simp] theorem State.setWit_host (s : State) (h : WitCap) : (State.setWit s h).host = s.host :=
  State.setWit_keeps (keeps_host s.host (by decide)) h rfl

@[simp] theorem State.setWit_wort (s : State) (h : WitCap) : (State.setWit s h).wort = s.wort :=
  State.setWit_keeps (keeps_wort s.wort (by decide)) h rfl

@[simp] theorem State.setWit_boot (s : State) (h : WitCap) : (State.setWit s h).boot = s.boot :=
  State.setWit_keeps (keeps_boot s.boot (by decide)) h rfl

@[simp] theorem State.setWit_saf (s : State) (h : WitCap) : (State.setWit s h).saf = s.saf :=
  State.setWit_keeps (keeps_saf s.saf (by decide)) h rfl

@[simp] theorem State.setWit_pwr (s : State) (h : WitCap) : (State.setWit s h).pwr = s.pwr :=
  State.setWit_keeps (keeps_pwr s.pwr (by decide)) h rfl

@[simp] theorem State.setWit_tap (s : State) (h : WitCap) : (State.setWit s h).tap = s.tap :=
  State.setWit_keeps (keeps_tap s.tap (by decide)) h rfl

@[simp] theorem State.setWit_tim (s : State) (h : WitCap) : (State.setWit s h).tim = s.tim :=
  State.setWit_keeps (keeps_tim s.tim (by decide)) h rfl

@[simp] theorem State.setLaser_pending (s : State) (b : Nat) (i : Nat) (r : LaserRec) : (State.setLaser s b i r).pending = s.pending :=
  State.setLaser_keeps (keeps_pending _ s.pending) b i r rfl

@[simp] theorem State.setLaser_out (s : State) (b : Nat) (i : Nat) (r : LaserRec) : (State.setLaser s b i r).out = s.out :=
  State.setLaser_keeps (keeps_sent s.out (by decide)) b i r rfl

@[simp] theorem State.setLaser_regs (s : State) (b : Nat) (i : Nat) (r : LaserRec) : (State.setLaser s b i r).regs = s.regs :=
  State.setLaser_keeps (keeps_regs s.regs (by decide)) b i r rfl

@[simp] theorem State.setLaser_mem (s : State) (b : Nat) (i : Nat) (r : LaserRec) : (State.setLaser s b i r).mem = s.mem :=
  State.setLaser_keeps (keeps_mem s.mem (by decide)) b i r rfl

@[simp] theorem State.setLaser_core (s : State) (b : Nat) (i : Nat) (r : LaserRec) : (State.setLaser s b i r).core = s.core :=
  State.setLaser_keeps (keeps_core s.core (by decide)) b i r rfl

@[simp] theorem State.setLaser_eng (s : State) (b : Nat) (i : Nat) (r : LaserRec) : (State.setLaser s b i r).eng = s.eng :=
  State.setLaser_keeps (keeps_eng s.eng (by decide)) b i r rfl

@[simp] theorem State.setLaser_smp (s : State) (b : Nat) (i : Nat) (r : LaserRec) : (State.setLaser s b i r).smp = s.smp :=
  State.setLaser_keeps (keeps_smp s.smp (by decide)) b i r rfl

@[simp] theorem State.setLaser_upd (s : State) (b : Nat) (i : Nat) (r : LaserRec) : (State.setLaser s b i r).upd = s.upd :=
  State.setLaser_keeps (keeps_upd s.upd (by decide)) b i r rfl

@[simp] theorem State.setLaser_swm (s : State) (b : Nat) (i : Nat) (r : LaserRec) : (State.setLaser s b i r).swm = s.swm :=
  State.setLaser_keeps (keeps_swm s.swm (by decide)) b i r rfl

@[simp] theorem State.setLaser_cap (s : State) (b : Nat) (i : Nat) (r : LaserRec) : (State.setLaser s b i r).cap = s.cap :=
  State.setLaser_keeps (keeps_cap s.cap (by decide)) b i r rfl

@[simp] theorem State.setLaser_lp (s : State) (b : Nat) (i : Nat) (r : LaserRec) : (State.setLaser s b i r).lp = s.lp :=
  State.setLaser_keeps (keeps_lp s.lp (by decide)) b i r rfl

@[simp] theorem State.setLaser_log (s : State) (b : Nat) (i : Nat) (r : LaserRec) : (State.setLaser s b i r).log = s.log :=
  State.setLaser_keeps (keeps_log s.log (by decide)) b i r rfl

@[simp] theorem State.setLaser_fab (s : State) (b : Nat) (i : Nat) (r : LaserRec) : (State.setLaser s b i r).fab = s.fab :=
  State.setLaser_keeps (keeps_fab s.fab (by decide)) b i r rfl

@[simp] theorem State.setLaser_host (s : State) (b : Nat) (i : Nat) (r : LaserRec) : (State.setLaser s b i r).host = s.host :=
  State.setLaser_keeps (keeps_host s.host (by decide)) b i r rfl

@[simp] theorem State.setLaser_wort (s : State) (b : Nat) (i : Nat) (r : LaserRec) : (State.setLaser s b i r).wort = s.wort :=
  State.setLaser_keeps (keeps_wort s.wort (by decide)) b i r rfl

@[simp] theorem State.setLaser_boot (s : State) (b : Nat) (i : Nat) (r : LaserRec) : (State.setLaser s b i r).boot = s.boot :=
  State.setLaser_keeps (keeps_boot s.boot (by decide)) b i r rfl

@[simp] theorem State.setLaser_saf (s : State) (b : Nat) (i : Nat) (r : LaserRec) : (State.setLaser s b i r).saf = s.saf :=
  State.setLaser_keeps (keeps_saf s.saf (by decide)) b i r rfl

@[simp] theorem State.setLaser_pwr (s : State) (b : Nat) (i : Nat) (r : LaserRec) : (State.setLaser s b i r).pwr = s.pwr :=
  State.setLaser_keeps (keeps_pwr s.pwr (by decide)) b i r rfl

@[simp] theorem State.setLaser_tap (s : State) (b : Nat) (i : Nat) (r : LaserRec) : (State.setLaser s b i r).tap = s.tap :=
  State.setLaser_keeps (keeps_tap s.tap (by decide)) b i r rfl

@[simp] theorem State.setLaser_tim (s : State) (b : Nat) (i : Nat) (r : LaserRec) : (State.setLaser s b i r).tim = s.tim :=
  State.setLaser_keeps (keeps_tim s.tim (by decide)) b i r rfl

@[simp] theorem State.setTakes_pending (s : State) (b : Nat) (l : List TakeRec) : (State.setTakes s b l).pending = s.pending :=
  State.setTakes_keeps (keeps_pending _ s.pending) b l rfl

@[simp] theorem State.setTakes_out (s : State) (b : Nat) (l : List TakeRec) : (State.setTakes s b l).out = s.out :=
  State.setTakes_keeps (keeps_sent s.out (by decide)) b l rfl

@[simp] theorem State.setTakes_regs (s : State) (b : Nat) (l : List TakeRec) : (State.setTakes s b l).regs = s.regs :=
  State.setTakes_keeps (keeps_regs s.regs (by decide)) b l rfl

@[simp] theorem State.setTakes_mem (s : State) (b : Nat) (l : List TakeRec) : (State.setTakes s b l).mem = s.mem :=
  State.setTakes_keeps (keeps_mem s.mem (by decide)) b l rfl

@[simp] theorem State.setTakes_core (s : State) (b : Nat) (l : List TakeRec) : (State.setTakes s b l).core = s.core :=
  State.setTakes_keeps (keeps_core s.core (by decide)) b l rfl

@[simp] theorem State.setTakes_eng (s : State) (b : Nat) (l : List TakeRec) : (State.setTakes s b l).eng = s.eng :=
  State.setTakes_keeps (keeps_eng s.eng (by decide)) b l rfl

@[simp] theorem State.setTakes_smp (s : State) (b : Nat) (l : List TakeRec) : (State.setTakes s b l).smp = s.smp :=
  State.setTakes_keeps (keeps_smp s.smp (by decide)) b l rfl

@[simp] theorem State.setTakes_upd (s : State) (b : Nat) (l : List TakeRec) : (State.setTakes s b l).upd = s.upd :=
  State.setTakes_keeps (keeps_upd s.upd (by decide)) b l rfl

@[simp] theorem State.setTakes_swm (s : State) (b : Nat) (l : List TakeRec) : (State.setTakes s b l).swm = s.swm :=
  State.setTakes_keeps (keeps_swm s.swm (by decide)) b l rfl

@[simp] theorem State.setTakes_cap (s : State) (b : Nat) (l : List TakeRec) : (State.setTakes s b l).cap = s.cap :=
  State.setTakes_keeps (keeps_cap s.cap (by decide)) b l rfl

@[simp] theorem State.setTakes_lp (s : State) (b : Nat) (l : List TakeRec) : (State.setTakes s b l).lp = s.lp :=
  State.setTakes_keeps (keeps_lp s.lp (by decide)) b l rfl

@[simp] theorem State.setTakes_log (s : State) (b : Nat) (l : List TakeRec) : (State.setTakes s b l).log = s.log :=
  State.setTakes_keeps (keeps_log s.log (by decide)) b l rfl

@[simp] theorem State.setTakes_fab (s : State) (b : Nat) (l : List TakeRec) : (State.setTakes s b l).fab = s.fab :=
  State.setTakes_keeps (keeps_fab s.fab (by decide)) b l rfl

@[simp] theorem State.setTakes_host (s : State) (b : Nat) (l : List TakeRec) : (State.setTakes s b l).host = s.host :=
  State.setTakes_keeps (keeps_host s.host (by decide)) b l rfl

@[simp] theorem State.setTakes_wort (s : State) (b : Nat) (l : List TakeRec) : (State.setTakes s b l).wort = s.wort :=
  State.setTakes_keeps (keeps_wort s.wort (by decide)) b l rfl

@[simp] theorem State.setTakes_boot (s : State) (b : Nat) (l : List TakeRec) : (State.setTakes s b l).boot = s.boot :=
  State.setTakes_keeps (keeps_boot s.boot (by decide)) b l rfl

@[simp] theorem State.setTakes_saf (s : State) (b : Nat) (l : List TakeRec) : (State.setTakes s b l).saf = s.saf :=
  State.setTakes_keeps (keeps_saf s.saf (by decide)) b l rfl

@[simp] theorem State.setTakes_pwr (s : State) (b : Nat) (l : List TakeRec) : (State.setTakes s b l).pwr = s.pwr :=
  State.setTakes_keeps (keeps_pwr s.pwr (by decide)) b l rfl

@[simp] theorem State.setTakes_tap (s : State) (b : Nat) (l : List TakeRec) : (State.setTakes s b l).tap = s.tap :=
  State.setTakes_keeps (keeps_tap s.tap (by decide)) b l rfl

@[simp] theorem State.setTakes_tim (s : State) (b : Nat) (l : List TakeRec) : (State.setTakes s b l).tim = s.tim :=
  State.setTakes_keeps (keeps_tim s.tim (by decide)) b l rfl

@[simp] theorem State.setRx_pending (s : State) (die : Nat) (xs : List RxCtx) : (State.setRx s die xs).pending = s.pending :=
  State.setRx_keeps (keeps_pending _ s.pending) die xs rfl

@[simp] theorem State.setRx_out (s : State) (die : Nat) (xs : List RxCtx) : (State.setRx s die xs).out = s.out :=
  State.setRx_keeps (keeps_sent s.out (by decide)) die xs rfl

@[simp] theorem State.setRx_mem (s : State) (die : Nat) (xs : List RxCtx) : (State.setRx s die xs).mem = s.mem :=
  State.setRx_keeps (keeps_mem s.mem (by decide)) die xs rfl

@[simp] theorem State.setRx_core (s : State) (die : Nat) (xs : List RxCtx) : (State.setRx s die xs).core = s.core :=
  State.setRx_keeps (keeps_core s.core (by decide)) die xs rfl

@[simp] theorem State.setRx_eng (s : State) (die : Nat) (xs : List RxCtx) : (State.setRx s die xs).eng = s.eng :=
  State.setRx_keeps (keeps_eng s.eng (by decide)) die xs rfl

@[simp] theorem State.setRx_smp (s : State) (die : Nat) (xs : List RxCtx) : (State.setRx s die xs).smp = s.smp :=
  State.setRx_keeps (keeps_smp s.smp (by decide)) die xs rfl

@[simp] theorem State.setRx_upd (s : State) (die : Nat) (xs : List RxCtx) : (State.setRx s die xs).upd = s.upd :=
  State.setRx_keeps (keeps_upd s.upd (by decide)) die xs rfl

@[simp] theorem State.setRx_swm (s : State) (die : Nat) (xs : List RxCtx) : (State.setRx s die xs).swm = s.swm :=
  State.setRx_keeps (keeps_swm s.swm (by decide)) die xs rfl

@[simp] theorem State.setRx_cap (s : State) (die : Nat) (xs : List RxCtx) : (State.setRx s die xs).cap = s.cap :=
  State.setRx_keeps (keeps_cap s.cap (by decide)) die xs rfl

@[simp] theorem State.setRx_lp (s : State) (die : Nat) (xs : List RxCtx) : (State.setRx s die xs).lp = s.lp :=
  State.setRx_keeps (keeps_lp s.lp (by decide)) die xs rfl

@[simp] theorem State.setRx_log (s : State) (die : Nat) (xs : List RxCtx) : (State.setRx s die xs).log = s.log :=
  State.setRx_keeps (keeps_log s.log (by decide)) die xs rfl

@[simp] theorem State.setRx_opt (s : State) (die : Nat) (xs : List RxCtx) : (State.setRx s die xs).opt = s.opt :=
  State.setRx_keeps (keeps_opt s.opt (by decide)) die xs rfl

@[simp] theorem State.setRx_host (s : State) (die : Nat) (xs : List RxCtx) : (State.setRx s die xs).host = s.host :=
  State.setRx_keeps (keeps_host s.host (by decide)) die xs rfl

@[simp] theorem State.setRx_wort (s : State) (die : Nat) (xs : List RxCtx) : (State.setRx s die xs).wort = s.wort :=
  State.setRx_keeps (keeps_wort s.wort (by decide)) die xs rfl

@[simp] theorem State.setRx_boot (s : State) (die : Nat) (xs : List RxCtx) : (State.setRx s die xs).boot = s.boot :=
  State.setRx_keeps (keeps_boot s.boot (by decide)) die xs rfl

@[simp] theorem State.setRx_saf (s : State) (die : Nat) (xs : List RxCtx) : (State.setRx s die xs).saf = s.saf :=
  State.setRx_keeps (keeps_saf s.saf (by decide)) die xs rfl

@[simp] theorem State.setRx_pwr (s : State) (die : Nat) (xs : List RxCtx) : (State.setRx s die xs).pwr = s.pwr :=
  State.setRx_keeps (keeps_pwr s.pwr (by decide)) die xs rfl

@[simp] theorem State.setRx_tap (s : State) (die : Nat) (xs : List RxCtx) : (State.setRx s die xs).tap = s.tap :=
  State.setRx_keeps (keeps_tap s.tap (by decide)) die xs rfl

@[simp] theorem State.setRx_tim (s : State) (die : Nat) (xs : List RxCtx) : (State.setRx s die xs).tim = s.tim :=
  State.setRx_keeps (keeps_tim s.tim (by decide)) die xs rfl

@[simp] theorem State.setPin_pending (s : State) (k : Nat) (v : Nat) : (State.setPin s k v).pending = s.pending :=
  State.setPin_keeps (keeps_pending _ s.pending) k v rfl

@[simp] theorem State.setPin_out (s : State) (k : Nat) (v : Nat) : (State.setPin s k v).out = s.out :=
  State.setPin_keeps (keeps_sent s.out (by decide)) k v rfl

@[simp] theorem State.setPin_regs (s : State) (k : Nat) (v : Nat) : (State.setPin s k v).regs = s.regs :=
  State.setPin_keeps (keeps_regs s.regs (by decide)) k v rfl

@[simp] theorem State.setPin_mem (s : State) (k : Nat) (v : Nat) : (State.setPin s k v).mem = s.mem :=
  State.setPin_keeps (keeps_mem s.mem (by decide)) k v rfl

@[simp] theorem State.setPin_core (s : State) (k : Nat) (v : Nat) : (State.setPin s k v).core = s.core :=
  State.setPin_keeps (keeps_core s.core (by decide)) k v rfl

@[simp] theorem State.setPin_eng (s : State) (k : Nat) (v : Nat) : (State.setPin s k v).eng = s.eng :=
  State.setPin_keeps (keeps_eng s.eng (by decide)) k v rfl

@[simp] theorem State.setPin_smp (s : State) (k : Nat) (v : Nat) : (State.setPin s k v).smp = s.smp :=
  State.setPin_keeps (keeps_smp s.smp (by decide)) k v rfl

@[simp] theorem State.setPin_upd (s : State) (k : Nat) (v : Nat) : (State.setPin s k v).upd = s.upd :=
  State.setPin_keeps (keeps_upd s.upd (by decide)) k v rfl

@[simp] theorem State.setPin_swm (s : State) (k : Nat) (v : Nat) : (State.setPin s k v).swm = s.swm :=
  State.setPin_keeps (keeps_swm s.swm (by decide)) k v rfl

@[simp] theorem State.setPin_cap (s : State) (k : Nat) (v : Nat) : (State.setPin s k v).cap = s.cap :=
  State.setPin_keeps (keeps_cap s.cap (by decide)) k v rfl

@[simp] theorem State.setPin_lp (s : State) (k : Nat) (v : Nat) : (State.setPin s k v).lp = s.lp :=
  State.setPin_keeps (keeps_lp s.lp (by decide)) k v rfl

@[simp] theorem State.setPin_log (s : State) (k : Nat) (v : Nat) : (State.setPin s k v).log = s.log :=
  State.setPin_keeps (keeps_log s.log (by decide)) k v rfl

@[simp] theorem State.setPin_fab (s : State) (k : Nat) (v : Nat) : (State.setPin s k v).fab = s.fab :=
  State.setPin_keeps (keeps_fab s.fab (by decide)) k v rfl

@[simp] theorem State.setPin_opt (s : State) (k : Nat) (v : Nat) : (State.setPin s k v).opt = s.opt :=
  State.setPin_keeps (keeps_opt s.opt (by decide)) k v rfl

@[simp] theorem State.setPin_host (s : State) (k : Nat) (v : Nat) : (State.setPin s k v).host = s.host :=
  State.setPin_keeps (keeps_host s.host (by decide)) k v rfl

@[simp] theorem State.setPin_wort (s : State) (k : Nat) (v : Nat) : (State.setPin s k v).wort = s.wort :=
  State.setPin_keeps (keeps_wort s.wort (by decide)) k v rfl

@[simp] theorem State.setPin_boot (s : State) (k : Nat) (v : Nat) : (State.setPin s k v).boot = s.boot :=
  State.setPin_keeps (keeps_boot s.boot (by decide)) k v rfl

@[simp] theorem State.setPin_saf (s : State) (k : Nat) (v : Nat) : (State.setPin s k v).saf = s.saf :=
  State.setPin_keeps (keeps_saf s.saf (by decide)) k v rfl

@[simp] theorem State.setPin_tap (s : State) (k : Nat) (v : Nat) : (State.setPin s k v).tap = s.tap :=
  State.setPin_keeps (keeps_tap s.tap (by decide)) k v rfl

@[simp] theorem State.setPin_tim (s : State) (k : Nat) (v : Nat) : (State.setPin s k v).tim = s.tim :=
  State.setPin_keeps (keeps_tim s.tim (by decide)) k v rfl

@[simp] theorem State.setWcb_pending (s : State) (die : Nat) (ch : Nat) (es : List WcbEntry) : (State.setWcb s die ch es).pending = s.pending :=
  State.setWcb_keeps (keeps_pending _ s.pending) die ch es rfl

@[simp] theorem State.setWcb_out (s : State) (die : Nat) (ch : Nat) (es : List WcbEntry) : (State.setWcb s die ch es).out = s.out :=
  State.setWcb_keeps (keeps_sent s.out (by decide)) die ch es rfl

@[simp] theorem State.setWcb_regs (s : State) (die : Nat) (ch : Nat) (es : List WcbEntry) : (State.setWcb s die ch es).regs = s.regs :=
  State.setWcb_keeps (keeps_regs s.regs (by decide)) die ch es rfl

@[simp] theorem State.setWcb_mem (s : State) (die : Nat) (ch : Nat) (es : List WcbEntry) : (State.setWcb s die ch es).mem = s.mem :=
  State.setWcb_keeps (keeps_mem s.mem (by decide)) die ch es rfl

@[simp] theorem State.setWcb_core (s : State) (die : Nat) (ch : Nat) (es : List WcbEntry) : (State.setWcb s die ch es).core = s.core :=
  State.setWcb_keeps (keeps_core s.core (by decide)) die ch es rfl

@[simp] theorem State.setWcb_eng (s : State) (die : Nat) (ch : Nat) (es : List WcbEntry) : (State.setWcb s die ch es).eng = s.eng :=
  State.setWcb_keeps (keeps_eng s.eng (by decide)) die ch es rfl

@[simp] theorem State.setWcb_smp (s : State) (die : Nat) (ch : Nat) (es : List WcbEntry) : (State.setWcb s die ch es).smp = s.smp :=
  State.setWcb_keeps (keeps_smp s.smp (by decide)) die ch es rfl

@[simp] theorem State.setWcb_upd (s : State) (die : Nat) (ch : Nat) (es : List WcbEntry) : (State.setWcb s die ch es).upd = s.upd :=
  State.setWcb_keeps (keeps_upd s.upd (by decide)) die ch es rfl

@[simp] theorem State.setWcb_swm (s : State) (die : Nat) (ch : Nat) (es : List WcbEntry) : (State.setWcb s die ch es).swm = s.swm :=
  State.setWcb_keeps (keeps_swm s.swm (by decide)) die ch es rfl

@[simp] theorem State.setWcb_cap (s : State) (die : Nat) (ch : Nat) (es : List WcbEntry) : (State.setWcb s die ch es).cap = s.cap :=
  State.setWcb_keeps (keeps_cap s.cap (by decide)) die ch es rfl

@[simp] theorem State.setWcb_log (s : State) (die : Nat) (ch : Nat) (es : List WcbEntry) : (State.setWcb s die ch es).log = s.log :=
  State.setWcb_keeps (keeps_log s.log (by decide)) die ch es rfl

@[simp] theorem State.setWcb_fab (s : State) (die : Nat) (ch : Nat) (es : List WcbEntry) : (State.setWcb s die ch es).fab = s.fab :=
  State.setWcb_keeps (keeps_fab s.fab (by decide)) die ch es rfl

@[simp] theorem State.setWcb_opt (s : State) (die : Nat) (ch : Nat) (es : List WcbEntry) : (State.setWcb s die ch es).opt = s.opt :=
  State.setWcb_keeps (keeps_opt s.opt (by decide)) die ch es rfl

@[simp] theorem State.setWcb_host (s : State) (die : Nat) (ch : Nat) (es : List WcbEntry) : (State.setWcb s die ch es).host = s.host :=
  State.setWcb_keeps (keeps_host s.host (by decide)) die ch es rfl

@[simp] theorem State.setWcb_wort (s : State) (die : Nat) (ch : Nat) (es : List WcbEntry) : (State.setWcb s die ch es).wort = s.wort :=
  State.setWcb_keeps (keeps_wort s.wort (by decide)) die ch es rfl

@[simp] theorem State.setWcb_boot (s : State) (die : Nat) (ch : Nat) (es : List WcbEntry) : (State.setWcb s die ch es).boot = s.boot :=
  State.setWcb_keeps (keeps_boot s.boot (by decide)) die ch es rfl

@[simp] theorem State.setWcb_saf (s : State) (die : Nat) (ch : Nat) (es : List WcbEntry) : (State.setWcb s die ch es).saf = s.saf :=
  State.setWcb_keeps (keeps_saf s.saf (by decide)) die ch es rfl

@[simp] theorem State.setWcb_pwr (s : State) (die : Nat) (ch : Nat) (es : List WcbEntry) : (State.setWcb s die ch es).pwr = s.pwr :=
  State.setWcb_keeps (keeps_pwr s.pwr (by decide)) die ch es rfl

@[simp] theorem State.setWcb_tap (s : State) (die : Nat) (ch : Nat) (es : List WcbEntry) : (State.setWcb s die ch es).tap = s.tap :=
  State.setWcb_keeps (keeps_tap s.tap (by decide)) die ch es rfl

@[simp] theorem State.setWcb_tim (s : State) (die : Nat) (ch : Nat) (es : List WcbEntry) : (State.setWcb s die ch es).tim = s.tim :=
  State.setWcb_keeps (keeps_tim s.tim (by decide)) die ch es rfl

@[simp] theorem State.setSegs_pending (s : State) (xs : List Seg) : (State.setSegs s xs).pending = s.pending :=
  State.setSegs_keeps (keeps_pending _ s.pending) xs rfl

@[simp] theorem State.setSegs_out (s : State) (xs : List Seg) : (State.setSegs s xs).out = s.out :=
  State.setSegs_keeps (keeps_sent s.out (by decide)) xs rfl

@[simp] theorem State.setSegs_regs (s : State) (xs : List Seg) : (State.setSegs s xs).regs = s.regs :=
  State.setSegs_keeps (keeps_regs s.regs (by decide)) xs rfl

@[simp] theorem State.setSegs_mem (s : State) (xs : List Seg) : (State.setSegs s xs).mem = s.mem :=
  State.setSegs_keeps (keeps_mem s.mem (by decide)) xs rfl

@[simp] theorem State.setSegs_core (s : State) (xs : List Seg) : (State.setSegs s xs).core = s.core :=
  State.setSegs_keeps (keeps_core s.core (by decide)) xs rfl

@[simp] theorem State.setSegs_eng (s : State) (xs : List Seg) : (State.setSegs s xs).eng = s.eng :=
  State.setSegs_keeps (keeps_eng s.eng (by decide)) xs rfl

@[simp] theorem State.setSegs_smp (s : State) (xs : List Seg) : (State.setSegs s xs).smp = s.smp :=
  State.setSegs_keeps (keeps_smp s.smp (by decide)) xs rfl

@[simp] theorem State.setSegs_upd (s : State) (xs : List Seg) : (State.setSegs s xs).upd = s.upd :=
  State.setSegs_keeps (keeps_upd s.upd (by decide)) xs rfl

@[simp] theorem State.setSegs_cap (s : State) (xs : List Seg) : (State.setSegs s xs).cap = s.cap :=
  State.setSegs_keeps (keeps_cap s.cap (by decide)) xs rfl

@[simp] theorem State.setSegs_lp (s : State) (xs : List Seg) : (State.setSegs s xs).lp = s.lp :=
  State.setSegs_keeps (keeps_lp s.lp (by decide)) xs rfl

@[simp] theorem State.setSegs_log (s : State) (xs : List Seg) : (State.setSegs s xs).log = s.log :=
  State.setSegs_keeps (keeps_log s.log (by decide)) xs rfl

@[simp] theorem State.setSegs_fab (s : State) (xs : List Seg) : (State.setSegs s xs).fab = s.fab :=
  State.setSegs_keeps (keeps_fab s.fab (by decide)) xs rfl

@[simp] theorem State.setSegs_opt (s : State) (xs : List Seg) : (State.setSegs s xs).opt = s.opt :=
  State.setSegs_keeps (keeps_opt s.opt (by decide)) xs rfl

@[simp] theorem State.setSegs_host (s : State) (xs : List Seg) : (State.setSegs s xs).host = s.host :=
  State.setSegs_keeps (keeps_host s.host (by decide)) xs rfl

@[simp] theorem State.setSegs_wort (s : State) (xs : List Seg) : (State.setSegs s xs).wort = s.wort :=
  State.setSegs_keeps (keeps_wort s.wort (by decide)) xs rfl

@[simp] theorem State.setSegs_boot (s : State) (xs : List Seg) : (State.setSegs s xs).boot = s.boot :=
  State.setSegs_keeps (keeps_boot s.boot (by decide)) xs rfl

@[simp] theorem State.setSegs_saf (s : State) (xs : List Seg) : (State.setSegs s xs).saf = s.saf :=
  State.setSegs_keeps (keeps_saf s.saf (by decide)) xs rfl

@[simp] theorem State.setSegs_pwr (s : State) (xs : List Seg) : (State.setSegs s xs).pwr = s.pwr :=
  State.setSegs_keeps (keeps_pwr s.pwr (by decide)) xs rfl

@[simp] theorem State.setSegs_tap (s : State) (xs : List Seg) : (State.setSegs s xs).tap = s.tap :=
  State.setSegs_keeps (keeps_tap s.tap (by decide)) xs rfl

@[simp] theorem State.setSegs_tim (s : State) (xs : List Seg) : (State.setSegs s xs).tim = s.tim :=
  State.setSegs_keeps (keeps_tim s.tim (by decide)) xs rfl

@[simp] theorem State.arrived_pending (s : State) (core : Nat) : (State.arrived s core).pending = s.pending :=
  State.arrived_keeps (keeps_pending _ s.pending) core rfl

@[simp] theorem State.arrived_smp (s : State) (core : Nat) : (State.arrived s core).smp = s.smp :=
  State.arrived_keeps (keeps_smp s.smp (by decide)) core rfl

@[simp] theorem State.arrived_opt (s : State) (core : Nat) : (State.arrived s core).opt = s.opt :=
  State.arrived_keeps (keeps_opt s.opt (by decide)) core rfl

@[simp] theorem State.arrived_saf (s : State) (core : Nat) : (State.arrived s core).saf = s.saf :=
  State.arrived_keeps (keeps_saf s.saf (by decide)) core rfl

@[simp] theorem State.arrived_pwr (s : State) (core : Nat) : (State.arrived s core).pwr = s.pwr :=
  State.arrived_keeps (keeps_pwr s.pwr (by decide)) core rfl

@[simp] theorem State.arrived_tap (s : State) (core : Nat) : (State.arrived s core).tap = s.tap :=
  State.arrived_keeps (keeps_tap s.tap (by decide)) core rfl

@[simp] theorem State.arrived_tim (s : State) (core : Nat) : (State.arrived s core).tim = s.tim :=
  State.arrived_keeps (keeps_tim s.tim (by decide)) core rfl

end Sys2Proof.Machine
end

