-- ==== Sys2Proof/Laws/RegFrames.lean ====
section
/-! SUPPORT. Which register fields the shared operations change: every field outside a described set reads as
before. -/

namespace Sys2Proof.Machine

/-- Every field that satisfies `ok` reads in `t` as in `s`. -/
def FieldsKept (ok : FRef → Prop) (s t : State) : Prop := ∀ r, ok r → t.fget r = s.fget r

theorem FieldsKept.refl (ok : FRef → Prop) (s : State) : FieldsKept ok s s := fun _ _ => rfl

theorem FieldsKept.trans {ok : FRef → Prop} {s t u : State} (h : FieldsKept ok s t) (k : FieldsKept ok t u) :
    FieldsKept ok s u := fun r hr => (k r hr).trans (h r hr)

theorem FieldsKept.mono {ok ok' : FRef → Prop} {s t : State} (h : FieldsKept ok s t) (i : ∀ r, ok' r → ok r) :
    FieldsKept ok' s t := fun r hr => h r (i r hr)

/-- An operation that leaves the register table alone. -/
theorem FieldsKept.of_eq {ok : FRef → Prop} {s t : State} (h : t.regs = s.regs) : FieldsKept ok s t :=
  fun r _ => State.fget_congr h r

theorem FieldsKept.ite {ok : FRef → Prop} {s a b : State} {p : Prop} [Decidable p] (h : FieldsKept ok s a)
    (k : FieldsKept ok s b) : FieldsKept ok s (if p then a else b) := by
  split
  · exact h
  · exact k

theorem FieldsKept.setLog (ok : FRef → Prop) (x : State) (l : LogSt) : FieldsKept ok x { x with log := l } :=
  .of_eq rfl

/-- Two fields of one register that share no bit, or fields of two registers. -/
def FRef.apart (q r : FRef) : Prop := q.off ≠ r.off ∨ q.lo + q.w ≤ r.lo ∨ r.lo + r.w ≤ q.lo

theorem FieldsKept.fset (s : State) (r : FRef) (v : Nat) : FieldsKept (fun q => q.apart r) s (s.fset r v) :=
  fun q hq => State.fget_fset_ne s r q v hq

theorem FieldsKept.finc (s : State) (r : FRef) (n : Nat) : FieldsKept (fun q => q.apart r) s (s.finc r n) :=
  FieldsKept.fset s r _

/-- Fields a record leaves alone: everything but the log's own counters and the interrupt summary. -/
def logApart (q : FRef) : Prop :=
  q.apart RF.LOG_STAT_NEXTSEQ ∧ q.apart RF.LOG_STAT_OVERRUN ∧ q.off ≠ Reg.LOG_RDSEQ ∧ q.off ≠ Reg.LOG_MIRSEQ ∧
    q.off ≠ Reg.HIVE_ISUM

theorem State.isum_kept (s : State) (k : Nat) : FieldsKept (fun q => q.off ≠ Reg.HIVE_ISUM) s (s.isum k) := by
  intro q hq
  unfold State.isum
  split
  · rfl
  · dsimp only
    have h1 : (s.setReg Reg.HIVE_ISUM (putFld (s.reg Reg.HIVE_ISUM) k 1 1)).fget q = s.fget q := by
      rw [State.fget, State.reg_setReg_ne _ _ hq, State.fget]
    split
    · exact (State.fget_congr (by simp) q).trans h1
    · exact h1

theorem State.mirrorPut_kept (s : State) (r : Bytes) : FieldsKept logApart s (s.mirrorPut r) :=
  fun _ hq => State.fget_fset_ne _ _ _ _ (Or.inl hq.2.2.2.1)

theorem State.slotPut_kept (s : State) (seq : Nat) (r : Bytes) : FieldsKept logApart s (s.slotPut seq r) := by
  unfold State.slotPut
  dsimp only
  split
  · exact fun q hq => State.fget_fset_ne _ _ _ _ hq.2.1
  · exact FieldsKept.refl _ _

theorem State.pushRec_kept (ok : FRef → Prop) (s : State) (sev : Nat) (r : Bytes) :
    FieldsKept ok s (s.pushRec sev r) := by
  unfold State.pushRec
  split
  · exact FieldsKept.of_eq (by simp)
  · exact FieldsKept.refl _ _

theorem State.mirrorSevere_kept (s : State) (r : Bytes) : FieldsKept logApart s ((s.mirrorPut r).isum 0) :=
  (State.mirrorPut_kept s r).trans ((State.isum_kept _ 0).mono fun _ hq => hq.2.2.2.2)

/-- A record changes no field but the log's counters and the interrupt summary. -/
theorem State.logArrive_kept (s : State) (time : Nat) (e : LogEvent) (flags : Nat) :
    FieldsKept logApart s (s.logArrive time e flags) := by
  have hn : ∀ v, FieldsKept logApart s (s.fset RF.LOG_STAT_NEXTSEQ v) := fun v =>
    (FieldsKept.fset s _ v).mono fun _ hq => hq.1
  unfold State.logArrive
  refine .ite (.ite ((FieldsKept.finc s _ _).mono fun _ hq => hq.2.1) ?_) (.ite ?_ ?_)
  · refine FieldsKept.trans ?_ (State.pushRec_kept _ _ _ _)
    have h2 := fun (r : Bytes) (l : LogSt) => FieldsKept.ite (p := s.boot.sramUp = true)
      ((hn (s.fget RF.LOG_STAT_NEXTSEQ + 1)).trans (State.slotPut_kept _ (s.fget RF.LOG_STAT_NEXTSEQ) r))
      (FieldsKept.ite (p := s.log.staging.length < 64)
        ((hn (s.fget RF.LOG_STAT_NEXTSEQ + 1)).trans (FieldsKept.setLog _ _ l)) (hn (s.fget RF.LOG_STAT_NEXTSEQ + 1)))
    exact .ite ((h2 _ _).trans (State.mirrorSevere_kept _ _)) (h2 _ _)
  · refine FieldsKept.trans ?_ (State.pushRec_kept _ _ _ _)
    exact .ite ((hn _).trans (State.mirrorSevere_kept _ _)) ((hn _).trans (State.mirrorPut_kept _ _))
  · exact fun q hq => State.fget_fset_ne _ _ _ _ (Or.inl hq.2.2.1)

theorem State.hiveRec_kept (s : State) (code unit sev : Nat) (payload : Bytes) :
    FieldsKept logApart s (s.hiveRec code unit sev payload) := State.logArrive_kept _ _ _ _

theorem State.aonRec_kept (s : State) (code sev : Nat) (payload : Bytes) :
    FieldsKept logApart s (s.aonRec code sev payload) := State.logArrive_kept _ _ _ _

theorem logApart_of_ne {q : FRef} (h : q.off ≠ Reg.LOG_STAT ∧ q.off ≠ Reg.LOG_RDSEQ ∧ q.off ≠ Reg.LOG_MIRSEQ ∧
    q.off ≠ Reg.HIVE_ISUM) : logApart q := ⟨Or.inl h.1, Or.inl h.1, h.2⟩

/-- A field of another register after a record. -/
theorem State.fget_hiveRec (s : State) (code unit sev : Nat) (payload : Bytes) (q : FRef) (h : q.off ≠ Reg.LOG_STAT ∧
    q.off ≠ Reg.LOG_RDSEQ ∧ q.off ≠ Reg.LOG_MIRSEQ ∧ q.off ≠ Reg.HIVE_ISUM) :
    (s.hiveRec code unit sev payload).fget q = s.fget q := State.hiveRec_kept _ _ _ _ _ q (logApart_of_ne h)

theorem State.fget_isum (s : State) (k : Nat) (q : FRef) (h : q.off ≠ Reg.HIVE_ISUM) :
    (s.isum k).fget q = s.fget q := State.isum_kept s k q h

/-- The whole register, read as one field. -/
theorem State.reg_eq_of_fget {s t : State} {o : Nat} (h : t.fget ⟨o, 0, 64⟩ = s.fget ⟨o, 0, 64⟩) : t.reg o = s.reg o := by
  have e : ∀ x : State, x.fget ⟨o, 0, 64⟩ = (x.reg o).toNat := fun x => by
    simp only [State.fget, fld, bitsN, pow_zero, Nat.div_one]
    exact Nat.mod_eq_of_lt (x.reg o).isLt
  exact BitVec.eq_of_toNat_eq (by rw [← e, ← e, h])

/-- A register write refused: the refusal fields, the log's and the summary change, and nothing else (R476). -/
theorem State.refuseReg_kept (s : State) (reason off : Nat) :
    FieldsKept (fun q => logApart q ∧ q.off ≠ Reg.HIVE_WREJ ∧ q.off ≠ Reg.HIVE_WREJ2) s (s.refuseReg reason off) := by
  intro q hq
  unfold State.refuseReg
  dsimp only
  rw [State.isum_kept _ _ q hq.1.2.2.2.2, State.hiveRec_kept _ _ _ _ _ q hq.1, State.finc,
    State.fget_fset_ne _ _ _ _ (Or.inl hq.2.1), State.fget_fset_ne _ _ _ _ (Or.inl hq.2.2),
    State.fget_fset_ne _ _ _ _ (Or.inl hq.2.1)]

/-- What a refusal reports: its reason and the register's offset (R476). -/
theorem State.refuseReg_reports (s : State) (reason off : Nat) :
    (s.refuseReg reason off).fget RF.HIVE_WREJ_REASON = reason % 2 ^ 16 ∧
      (s.refuseReg reason off).fget RF.HIVE_WREJ2_OFFSET = off % 2 ^ 26 := by
  have h1 : logApart RF.HIVE_WREJ_REASON := logApart_of_ne (by decide)
  have h2 : logApart RF.HIVE_WREJ2_OFFSET := logApart_of_ne (by decide)
  unfold State.refuseReg
  dsimp only
  constructor
  · rw [State.isum_kept _ _ _ h1.2.2.2.2, State.hiveRec_kept _ _ _ _ _ _ h1, State.finc,
      State.fget_fset_ne _ _ _ _ (by decide), State.fget_fset_ne _ _ _ _ (by decide),
      State.fget_fset _ _ _ (by decide)]
    rfl
  · rw [State.isum_kept _ _ _ h2.2.2.2.2, State.hiveRec_kept _ _ _ _ _ _ h2, State.finc,
      State.fget_fset_ne _ _ _ _ (by decide), State.fget_fset _ _ _ (by decide)]
    rfl

/-- A read-only or reserved write counted: only the refusal registers change (R11, R474). -/
theorem State.rejectReg_kept (s : State) (off : Nat) :
    FieldsKept (fun q => q.off ≠ Reg.HIVE_WREJ ∧ q.off ≠ Reg.HIVE_WREJ2) s (s.rejectReg off) := by
  intro q hq
  unfold State.rejectReg
  rw [State.fget_fset_ne _ _ _ _ (Or.inl hq.2), State.finc, State.fget_fset_ne _ _ _ _ (Or.inl hq.1)]

/-! Register frames. -/

namespace State.RegsBut

theorem rfl' (l : List Nat) (s : State) : State.RegsBut l s s := fun _ _ => rfl

/-- An operation that leaves the register table alone. -/
theorem of_eq {l : List Nat} {s t u : State} (h : State.RegsBut l s t) (e : u.regs = t.regs) : State.RegsBut l s u :=
  fun o ho => (State.reg_congr e o).trans (h o ho)

theorem fset {l : List Nat} {s t : State} (h : State.RegsBut l s t) {r : FRef} {v : Nat} (m : r.off ∈ l) :
    State.RegsBut l s (t.fset r v) := fun o ho =>
  (State.reg_fset_ne t r v o fun e => ho (e ▸ m)).trans (h o ho)

theorem finc {l : List Nat} {s t : State} (h : State.RegsBut l s t) {r : FRef} {n : Nat} (m : r.off ∈ l) :
    State.RegsBut l s (t.finc r n) := h.fset m

theorem fsetBit {l : List Nat} {s t : State} (h : State.RegsBut l s t) {r : FRef} {k : Nat} {b : Bool} (m : r.off ∈ l) :
    State.RegsBut l s (t.fsetBit r k b) := h.fset m

theorem setReg {l : List Nat} {s t : State} (h : State.RegsBut l s t) {q : Nat} {v : Word64} (m : q ∈ l) :
    State.RegsBut l s (t.setReg q v) := fun o ho =>
  (State.reg_setReg_ne t (o := q) (o' := o) v fun e => ho (by rw [e]; exact m)).trans (h o ho)

theorem ite {l : List Nat} {s a b : State} {p : Prop} [Decidable p] (h : p → State.RegsBut l s a)
    (k : ¬p → State.RegsBut l s b) : State.RegsBut l s (if p then a else b) := by
  split
  · exact h ‹_›
  · exact k ‹_›

/-- Fields kept, register by register. -/
theorem of_kept {l : List Nat} {s t u : State} (h : State.RegsBut l s t) {ok : FRef → Prop} (k : FieldsKept ok t u)
    (m : ∀ o, o ∉ l → ok ⟨o, 0, 64⟩) : State.RegsBut l s u := fun o ho =>
  (State.reg_eq_of_fget (k _ (m o ho))).trans (h o ho)

theorem isum {l : List Nat} {s t : State} (h : State.RegsBut l s t) {k : Nat} (m : Reg.HIVE_ISUM ∈ l) :
    State.RegsBut l s (t.isum k) := h.of_kept (State.isum_kept t k) fun o ho (e : o = _) => ho (by rw [e]; exact m)

theorem hiveRec {l : List Nat} {s t : State} (h : State.RegsBut l s t) {code unit sev : Nat} {p : Bytes}
    (m : ∀ r ∈ [Reg.LOG_STAT, Reg.LOG_RDSEQ, Reg.LOG_MIRSEQ, Reg.HIVE_ISUM], r ∈ l) :
    State.RegsBut l s (t.hiveRec code unit sev p) :=
  h.of_kept (State.hiveRec_kept t code unit sev p) fun o ho =>
    have n : ∀ r ∈ [Reg.LOG_STAT, Reg.LOG_RDSEQ, Reg.LOG_MIRSEQ, Reg.HIVE_ISUM], o ≠ r := fun r hr e => ho (e ▸ m r hr)
    logApart_of_ne ⟨n _ (by simp), n _ (by simp), n _ (by simp), n _ (by simp)⟩

theorem aonRec {l : List Nat} {s t : State} (h : State.RegsBut l s t) {code sev : Nat} {p : Bytes}
    (m : ∀ r ∈ [Reg.LOG_STAT, Reg.LOG_RDSEQ, Reg.LOG_MIRSEQ, Reg.HIVE_ISUM], r ∈ l) :
    State.RegsBut l s (t.aonRec code sev p) :=
  h.of_kept (State.aonRec_kept t code sev p) fun o ho =>
    have n : ∀ r ∈ [Reg.LOG_STAT, Reg.LOG_RDSEQ, Reg.LOG_MIRSEQ, Reg.HIVE_ISUM], o ≠ r := fun r hr e => ho (e ▸ m r hr)
    logApart_of_ne ⟨n _ (by simp), n _ (by simp), n _ (by simp), n _ (by simp)⟩

theorem refuseReg {l : List Nat} {s t : State} (h : State.RegsBut l s t) {reason off : Nat}
    (m : ∀ r ∈ [Reg.LOG_STAT, Reg.LOG_RDSEQ, Reg.LOG_MIRSEQ, Reg.HIVE_ISUM, Reg.HIVE_WREJ, Reg.HIVE_WREJ2], r ∈ l) :
    State.RegsBut l s (t.refuseReg reason off) :=
  h.of_kept (State.refuseReg_kept t reason off) fun o ho =>
    have n : ∀ r ∈ [Reg.LOG_STAT, Reg.LOG_RDSEQ, Reg.LOG_MIRSEQ, Reg.HIVE_ISUM, Reg.HIVE_WREJ, Reg.HIVE_WREJ2], o ≠ r :=
      fun r hr e => ho (e ▸ m r hr)
    ⟨logApart_of_ne ⟨n _ (by simp), n _ (by simp), n _ (by simp), n _ (by simp)⟩, n _ (by simp), n _ (by simp)⟩

end State.RegsBut

/-- A TIM_CTL flag: what it reads after it is set, and what else changes. -/
theorem State.fget_timFlag (s : State) (r : FRef) (v : Nat) (h : r.lo + r.w ≤ 64) (hv : v < 2 ^ r.w)
    (ho : r.off ≠ Reg.HIVE_ISUM) : (s.timFlag r v).fget r = v := by
  unfold State.timFlag
  split
  · assumption
  · rw [State.fget_isum _ _ _ ho, State.fget_fset _ _ _ h, Nat.mod_eq_of_lt hv]

theorem State.fget_timFlag_ne (s : State) (r q : FRef) (v : Nat)
    (h : q.off ≠ r.off ∨ q.lo + q.w ≤ r.lo ∨ r.lo + r.w ≤ q.lo) (ho : q.off ≠ Reg.HIVE_ISUM) :
    (s.timFlag r v).fget q = s.fget q := by
  unfold State.timFlag
  split
  · rfl
  · rw [State.fget_isum _ _ _ ho, State.fget_fset_ne _ _ _ _ h]

theorem State.RegsBut.timFlag {l : List Nat} {s t : State} (h : State.RegsBut l s t) {r : FRef} {v : Nat}
    (m : r.off ∈ l) (i : Reg.HIVE_ISUM ∈ l) : State.RegsBut l s (t.timFlag r v) :=
  .ite (fun _ => h) fun _ => (h.fset m).isum i

end Sys2Proof.Machine
end

