-- ==== Sys2Proof/Laws/CoreRegs.lean ====
section
/-! SUPPORT. What completions and counters change in the registers: the core states, and the counter named. -/

namespace Sys2Proof.Machine

/-- Fields outside the core-state registers. -/
def coreApart (q : FRef) : Prop := ∀ d i, i < 32 → q.off ≠ Reg.WRK_CORE_STATE d i

theorem State.setCoreState_kept (s : State) (core st : Nat) : FieldsKept coreApart s (s.setCoreState core st) :=
  fun _ hq => State.fget_fset_ne _ _ _ _ (Or.inl (hq _ _ (by omega)))

theorem State.kernelTryEnd_kept (s : State) (core : Nat) : FieldsKept coreApart s (s.kernelTryEnd core) := by
  unfold State.kernelTryEnd
  dsimp only
  refine .ite ?_ (.refl _ _)
  have h : ∀ x : State, x.regs = s.regs → FieldsKept coreApart s
      (if (x.setCoreRec core {}).coreState core = csHALT ∨ (x.setCoreRec core {}).coreState core = csFENCED then
        x.setCoreRec core {} else (x.setCoreRec core {}).setCoreState core csIDLE) := fun x hx =>
    have k : FieldsKept coreApart s (x.setCoreRec core {}) :=
      .of_eq ((State.setCoreRec_regs x core {}).trans hx)
    .ite k (k.trans (State.setCoreState_kept _ _ _))
  apply h
  split <;> rfl

theorem State.completeRaw_kept (s : State) (core seq st reason nf : Nat) :
    FieldsKept coreApart s (s.completeRaw core seq st reason nf) := by
  unfold State.completeRaw
  dsimp only
  refine .ite ?_ (.refl _ _)
  exact .trans (.of_eq rfl) (State.kernelTryEnd_kept _ _)

theorem State.wakeCore_kept (s : State) (core : Nat) : FieldsKept coreApart s (s.wakeCore core) := by
  unfold State.wakeCore
  dsimp only
  split
  · refine .ite ?_ (.refl _ _)
    exact .trans (.trans (.of_eq rfl) (State.setCoreState_kept _ _ _)) (State.completeRaw_kept _ _ _ _ _ _)
  · exact .refl _ _

theorem State.wakeDie_kept (s : State) (die : Nat) : FieldsKept coreApart s (s.wakeDie die) := by
  unfold State.wakeDie
  suffices h : ∀ (l : Tbl CoreRec) (x : State), FieldsKept coreApart s x →
      FieldsKept coreApart s (l.foldl (fun s e => if dieOf e.1 = die then s.wakeCore e.1 else s) x) from
    h _ s (.refl _ _)
  intro l
  induction l with
  | nil => exact fun x h => h
  | cons e l ih => exact fun x h => ih _ (.ite (h.trans (State.wakeCore_kept _ _)) h)

/-- A counter's register is none of the core states. -/
theorem cnt_apart (d n : Nat) (hn : n < 1024) : coreApart (RF.WRK_CNT_VALUE d n) := fun d' i hi e => by
  have e : Reg.WRK_CNT d n = Reg.WRK_CORE_STATE d' i := e
  unfold Reg.WRK_CNT Reg.WRK_CORE_STATE at e
  omega

theorem State.cnt_set (s : State) (d n v : Nat) (hn : n < 1024) : (s.cntSet d n v).cnt d n = v % 2 ^ 32 := by
  show (s.cntSet d n v).fget (RF.WRK_CNT_VALUE d n) = _
  unfold State.cntSet
  rw [State.wakeDie_kept _ _ _ (cnt_apart d n hn)]
  exact State.fget_fset _ _ _ (by simp [RF.WRK_CNT_VALUE])

theorem State.cnt_add (s : State) (d n v : Nat) (hn : n < 1024) :
    (s.cntAdd d n v).cnt d n = (s.cnt d n + v) % 2 ^ 32 := by
  show (s.cntAdd d n v).fget (RF.WRK_CNT_VALUE d n) = _
  unfold State.cntAdd
  rw [State.wakeDie_kept _ _ _ (cnt_apart d n hn)]
  exact State.fget_fset _ _ _ (by simp [RF.WRK_CNT_VALUE])

end Sys2Proof.Machine
end

