-- ==== Sys2Proof/Laws/Fetch.lean ====
section
/-! SUPPORT. A read that meets no uncorrectable error, and the fetch of a command word: what they change. -/

namespace Sys2Proof.Machine

/-- Fields outside the counters of the memories: their errors, and the reads that meet a write on its way. -/
def eccApart (q : FRef) : Prop :=
  (∀ d, q.off ≠ Reg.WRK_SRAM_ECC d) ∧ (∀ d, q.off ≠ Reg.WCB_FWD d) ∧ ∀ d c, c < 16 → q.off ≠ Reg.MEM_CH_STAT d c

theorem State.Only.rfl' (w : List Comp) (s : State) : State.Only w s s :=
  only_of_keeps fun _ _ h => h

theorem State.Only.trans {w : List Comp} {s t u : State} (h : State.Only w s t) (k : State.Only w t u) :
    State.Only w s u := by
  refine ⟨fun c hc => ?_, k.2.1.trans h.2.1, k.2.2.trans h.2.2⟩
  have a := h.1 c hc
  have b := k.1 c hc
  cases c
  case regs => exact fun o => (b o).trans (a o)
  case mem => exact fun o => (b o).trans (a o)
  all_goals exact Eq.trans b a

/-- What a read without an uncorrectable error changes. -/
def ReadKept (s t : State) : Prop := State.Only [.free, .regs, .mem, .lp] s t ∧ FieldsKept eccApart s t

theorem ReadKept.refl (s : State) : ReadKept s s := ⟨State.Only.rfl' _ _, .refl _ _⟩

theorem ReadKept.trans {s t u : State} (h : ReadKept s t) (k : ReadKept t u) : ReadKept s u :=
  ⟨h.1.trans k.1, h.2.trans k.2⟩

theorem State.byteFold_regs {α : Type} (f : State → α → State) (hf : ∀ s x, (f s x).regs = s.regs) (l : List α)
    (s : State) : (l.foldl f s).regs = s.regs := by
  induction l generalizing s with
  | nil => rfl
  | cons x l ih => exact (ih (f s x)).trans (hf s x)

theorem State.lineSettle_regs (s : State) (die ch q : Nat) (r left : Tbl Nat) :
    (s.lineSettle die ch q r left).regs = s.regs := by
  unfold State.lineSettle
  extract_lets k err src s1 m
  split
  · rfl
  · exact State.byteFold_regs _ (fun s x => by split <;> rfl) r s1

theorem State.readLine_kept (s : State) (die ch q : Nat) (hc : ch < 16) :
    FieldsKept eccApart s (s.readLine die ch q).1 := by
  unfold State.readLine
  dsimp only
  split
  · exact .ite (.refl _ _) (.of_eq (State.lineSettle_regs _ _ _ _ _ _))
  · exact fun f hf => (State.fget_fset_ne _ _ _ _ (Or.inl (hf.2.2 die ch hc))).trans
      (State.fget_congr (State.lineSettle_regs _ _ _ _ _ _) f)
  · exact .refl _ _

theorem State.readLine_read (s : State) (die ch q : Nat) (hc : ch < 16) : ReadKept s (s.readLine die ch q).1 :=
  ⟨(only_of_keeps fun _ K h => State.readLine_keeps K die ch q h : State.Only [.regs, .mem, .lp] s _).mono rfl,
    State.readLine_kept s die ch q hc⟩

/-- The lines of a read that meets no uncorrectable error. -/
theorem State.lineReads_read {s : State} {die off len : Nat} (h : (s.lineReads die off len).2 ≠ 2) :
    ReadKept s (s.lineReads die off len).1 := by
  unfold State.lineReads at h ⊢
  dsimp only at h ⊢
  have hl : ∀ l ∈ s.errLines die off len, l.1 < 16 := by
    intro l hl
    unfold State.errLines at hl
    obtain ⟨e, _, rfl⟩ := List.mem_map.mp hl
    exact Nat.mod_lt _ (by decide)
  have h0 : ReadKept s (s.finc (RF.WCB_FWD_FWD die) (s.fwdLines die off len)) :=
    ⟨(only_of_keeps fun _ K h => State.finc_keeps K _ _ h : State.Only [.regs] s _).mono rfl,
      fun q hq => State.fget_fset_ne _ _ _ _ (Or.inl (hq.2.1 die))⟩
  generalize s.finc (RF.WCB_FWD_FWD die) (s.fwdLines die off len) = s0 at *
  generalize s.errLines die off len = ls at *
  suffices g : ∀ (ls : List (Nat × Nat)) (a : State × Bool), (∀ l ∈ ls, l.1 < 16) → (a.2 = true → ReadKept s a.1) →
      (ls.foldl (fun (a : State × Bool) l => match a.1.readLine die l.1 l.2 with
        | (s1, true) => (s1, a.2)
        | (s1, false) => (s1.lineUe die l.1 l.2 0, false)) a).2 = true →
      ReadKept s (ls.foldl (fun (a : State × Bool) l => match a.1.readLine die l.1 l.2 with
        | (s1, true) => (s1, a.2)
        | (s1, false) => (s1.lineUe die l.1 l.2 0, false)) a).1 by
    have key : ∀ b x : Bool, (if (!b) = true then 2 else if x = true then 1 else 0) ≠ 2 → b = true := by decide
    exact g ls (s0, true) hl (fun _ => h0) (key _ _ h)
  intro ls
  induction ls with
  | nil => exact fun a _ ha hb => ha hb
  | cons l ls ih =>
    intro a hl ha hb
    refine ih _ (fun x hx => hl x (List.mem_cons_of_mem _ hx)) ?_ hb
    have r := State.readLine_read a.1 die l.1 l.2 (hl l List.mem_cons_self)
    beta_reduce
    generalize a.1.readLine die l.1 l.2 = p at r ⊢
    obtain ⟨s1, b⟩ := p
    cases b
    · exact fun k => Bool.noConfusion k
    · exact fun k => (ha k).trans r

theorem State.lpRead_read {s t : State} {die off len : Nat} (h : s.lpRead die off len = (t, true)) : ReadKept s t := by
  unfold State.lpRead at h
  have r := @State.lineReads_read s die off len
  generalize s.lineReads die off len = p at h r
  obtain ⟨s1, v⟩ := p
  obtain ⟨h1, h2⟩ := Prod.mk.inj h
  have hv : v = 0 := of_decide_eq_true h2
  subst hv
  exact h1 ▸ r (show (0 : Nat) ≠ 2 by decide)

theorem State.sramRead_read {s t : State} {die off len : Nat} (h : s.sramRead die off len = (t, true)) :
    ReadKept s t := by
  unfold State.sramRead at h
  dsimp only at h
  split at h
  · cases h
  · cases h
    exact ⟨(only_of_keeps fun _ K h => State.finc_keeps K _ _ h : State.Only [.regs] s _).mono rfl,
      fun q hq => State.fget_fset_ne _ _ _ _ (Or.inl (hq.1 die))⟩

/-- A read without an uncorrectable error. -/
theorem State.memRead_read {s t : State} {die off len : Nat} (h : s.memRead die off len = (t, true)) :
    ReadKept s t := by
  unfold State.memRead at h
  split at h
  · exact State.sramRead_read h
  · exact State.lpRead_read h

theorem State.freeWord_read (s : State) : ReadKept s s.freeWord.1 :=
  ⟨(only_of_keeps fun _ K h => State.freeWord_keeps K h : State.Only [.free] s _).mono rfl, .of_eq rfl⟩

theorem State.fetch_read {s t : State} {die a : Nat} {w : CmdWord} (h : s.fetch die a = (t, some w)) : ReadKept s t := by
  unfold State.fetch at h
  split at h
  · obtain ⟨rfl, -⟩ := Prod.mk.inj h
    exact State.freeWord_read s
  · split at h
    · rename_i e
      obtain ⟨rfl, -⟩ := Prod.mk.inj h
      exact State.memRead_read e
    · cases h

@[simp] theorem State.coreRec_setCoreRec (s : State) (core : Nat) (r : CoreRec) :
    (s.setCoreRec core r).coreRec core = r := Tbl.get_set _ _ _ _

theorem State.coreRec_setCoreRec_ne (s : State) {core c : Nat} (r : CoreRec) (h : c ≠ core) :
    (s.setCoreRec core r).coreRec c = s.coreRec c := Tbl.get_set_ne _ _ _ _ h

@[simp] theorem State.coreState_setCoreRec (s : State) (core c : Nat) (r : CoreRec) :
    (s.setCoreRec core r).coreState c = s.coreState c := rfl

@[simp] theorem State.coreRec_setCoreState (s : State) (core c st : Nat) :
    (s.setCoreState core st).coreRec c = s.coreRec c := rfl

theorem State.coreState_setCoreState (s : State) (core st : Nat) (h : st < 16) :
    (s.setCoreState core st).coreState core = st := by
  show (s.fset _ st).fget _ = st
  rw [State.fget_fset _ _ _ (by simp [RF.WRK_CORE_STATE_STATE]; omega)]
  exact Nat.mod_eq_of_lt (by simpa [RF.WRK_CORE_STATE_STATE] using h)

/-- A run of words none of which is uncorrectable. -/
theorem State.fetchRun_read {n : Nat} {s : State} {die a : Nat}
    (h : ∀ b ∈ (State.fetchRun n s die a).2, b ≠ none) : ReadKept s (State.fetchRun n s die a).1 := by
  induction n generalizing s a with
  | zero => exact .refl s
  | succ n ih =>
    unfold State.fetchRun at h ⊢
    split at h
    · exact absurd rfl (h none (by simp))
    · rename_i s1 w e
      dsimp only at h ⊢
      split at h
      · rename_i c
        rw [if_pos c]
        exact State.fetch_read e
      · rename_i c
        rw [if_neg c]
        exact (State.fetch_read e).trans (ih fun b hb => h b (List.mem_cons_of_mem _ hb))

/-- What the fetch of a core's next command changes when no word read is uncorrectable: counters of the memories,
corrected bytes, free values, and the words at the end of the core's buffer. -/
structure FetchKept (core : Nat) (s t : State) : Prop where
  only : State.Only [.free, .regs, .mem, .core, .lp] s t
  fields : FieldsKept eccApart s t
  others : ∀ c, c ≠ core → t.coreRec c = s.coreRec c
  buf : ∃ l, t.coreRec core = { s.coreRec core with buf := (s.coreRec core).buf ++ l }
  bars : t.core.bars = s.core.bars

theorem FetchKept.refl (core : Nat) (s : State) : FetchKept core s s :=
  ⟨State.Only.rfl' _ _, .refl _ _, fun _ _ => rfl, ⟨[], by rw [List.append_nil]⟩, rfl⟩

theorem FetchKept.trans {core : Nat} {s t u : State} (h : FetchKept core s t) (k : FetchKept core t u) :
    FetchKept core s u := by
  refine ⟨h.only.trans k.only, h.fields.trans k.fields, fun c hc => (k.others c hc).trans (h.others c hc), ?_,
    k.bars.trans h.bars⟩
  obtain ⟨l, hl⟩ := h.buf
  obtain ⟨m, hm⟩ := k.buf
  exact ⟨l ++ m, by rw [hm, hl]; simp [List.append_assoc]⟩

/-- The buffer is filled, and no word read for it is uncorrectable. -/
theorem State.fillBuf_read {s : State} {core n : Nat}
    (h : ∀ b ∈ ((s.fillBuf core n).coreRec core).buf.drop (s.coreRec core).buf.length, b ≠ none) :
    FetchKept core s (s.fillBuf core n) := by
  unfold State.fillBuf at h ⊢
  dsimp only at h ⊢
  split at h
  · rename_i c
    rw [if_pos c]
    exact .refl _ _
  · rename_i c
    rw [if_neg c]
    rw [State.coreRec_setCoreRec, List.drop_left] at h
    have r := State.fetchRun_read h
    generalize State.fetchRun (64 - (s.coreRec core).buf.length) s (dieOf core)
      ((s.coreRec core).pc + 64 * (s.coreRec core).buf.length) = p at r
    have e : p.1.core = s.core := r.1.1 .core (by decide)
    have er : ∀ c, p.1.coreRec c = s.coreRec c := fun c => by unfold State.coreRec; rw [e]
    refine ⟨?_, r.2.trans (.of_eq rfl), fun c hc => (State.coreRec_setCoreRec_ne _ _ hc).trans (er c),
      ⟨p.2, by rw [State.coreRec_setCoreRec, er]⟩, show p.1.core.bars = s.core.bars by rw [e]⟩
    exact (r.1.mono rfl).trans
      ((only_of_keeps fun _ K h => State.setCoreRec_keeps K _ _ h : State.Only [.core] p.1 _).mono rfl)

/-- Words of a list's end that stand behind a longer beginning stand behind a shorter one. -/
theorem mem_drop_of_le {α : Type} {l : List α} {m n : Nat} (h : m ≤ n) {x : α} (hx : x ∈ l.drop n) : x ∈ l.drop m := by
  obtain ⟨k, rfl⟩ := Nat.exists_eq_add_of_le h
  rw [← List.drop_drop] at hx
  exact List.mem_of_mem_drop hx

/-- The buffer only grows. -/
theorem State.fillBuf_grows (s : State) (core n : Nat) :
    ∃ l, ((s.fillBuf core n).coreRec core).buf = (s.coreRec core).buf ++ l := by
  unfold State.fillBuf
  dsimp only
  split
  · exact ⟨[], by rw [List.append_nil]⟩
  · exact ⟨_, by rw [State.coreRec_setCoreRec]⟩

/-- A command that has been fetched, with no uncorrectable word among those read for it. -/
theorem State.nextCmd_read {s t : State} {core : Nat} {w : CmdWord} (h : s.nextCmd core = (t, some w))
    (ok : ∀ b ∈ (t.coreRec core).buf.drop (s.coreRec core).buf.length, b ≠ none) :
    FetchKept core s t ∧ ∃ l, (t.coreRec core).buf = some w :: l := by
  unfold State.nextCmd at h
  dsimp only at h
  split at h
  · rename_i w' l e
    split at h
    · split at h
      · rename_i b w2 l2 e2
        obtain ⟨rfl, hw⟩ := Prod.mk.inj h
        obtain ⟨m, hm⟩ := State.fillBuf_grows (s.fillBuf core 1) core 2
        obtain ⟨m1, hm1⟩ := State.fillBuf_grows s core 1
        have k : FetchKept core s (s.fillBuf core 1) := State.fillBuf_read fun b hb => ok b (by
          rw [hm, hm1, List.append_assoc, List.drop_left]
          rw [hm1, List.drop_left] at hb
          exact List.mem_append_left _ hb)
        refine ⟨k.trans (State.fillBuf_read fun b hb => ok b (mem_drop_of_le ?_ hb)), ?_⟩
        · rw [hm1, List.length_append]; omega
        · rw [e] at hm
          cases hw
          exact ⟨_, hm⟩
      · cases h
    · obtain ⟨rfl, hw⟩ := Prod.mk.inj h
      cases hw
      exact ⟨State.fillBuf_read ok, l, e⟩
  · cases h

theorem cnt_ecc (d n : Nat) (hn : n < 1024) : eccApart (RF.WRK_CNT_VALUE d n) := by
  refine ⟨fun d' e => ?_, fun d' e => ?_, ?_⟩
  · have e : Reg.WRK_CNT d n = Reg.WRK_SRAM_ECC d' := e
    unfold Reg.WRK_CNT Reg.WRK_SRAM_ECC at e
    omega
  · have e : Reg.WRK_CNT d n = Reg.WCB_FWD d' := e
    unfold Reg.WRK_CNT Reg.WCB_FWD at e
    omega
  · intro d' c hc e
    have e : Reg.WRK_CNT d n = Reg.MEM_CH_STAT d' c := e
    unfold Reg.WRK_CNT Reg.MEM_CH_STAT at e
    omega

/-! Issue. -/

theorem coreState_ecc (core : Nat) :
    eccApart (RF.WRK_CORE_STATE_STATE (core / 256) (core % 256 / 8) (core % 8)) := by
  refine ⟨fun d e => ?_, fun d e => ?_, ?_⟩
  · have e : Reg.WRK_CORE_STATE (core / 256) (core % 256 / 8) = Reg.WRK_SRAM_ECC d := e
    unfold Reg.WRK_CORE_STATE Reg.WRK_SRAM_ECC at e
    omega
  · have e : Reg.WRK_CORE_STATE (core / 256) (core % 256 / 8) = Reg.WCB_FWD d := e
    unfold Reg.WRK_CORE_STATE Reg.WCB_FWD at e
    omega
  · intro d c hc e
    have e : Reg.WRK_CORE_STATE (core / 256) (core % 256 / 8) = Reg.MEM_CH_STAT d c := e
    unfold Reg.WRK_CORE_STATE Reg.MEM_CH_STAT at e
    omega

/-- Core states stand in places of their own. -/
theorem State.coreState_setCoreState_ne (s : State) {core c : Nat} (st : Nat) (h : c ≠ core) :
    (s.setCoreState core st).coreState c = s.coreState c := by
  refine State.fget_fset_ne _ _ _ _ ?_
  by_cases e : c / 256 = core / 256 ∧ c % 256 / 8 = core % 256 / 8
  · right
    simp only [RF.WRK_CORE_STATE_STATE]
    omega
  · left
    simp only [RF.WRK_CORE_STATE_STATE, Reg.WRK_CORE_STATE]
    omega

/-- The word a core waited for has arrived: its record but for the reason it waited, and RUN. -/
theorem State.arrived_rec (s : State) {core : Nat} (h : s.issuing core = true) :
    (s.arrived core).coreRec core = { s.coreRec core with block := .none } ∧
      (s.arrived core).coreState core = csRUN := by
  unfold State.issuing at h
  unfold State.arrived
  split at h
  · rename_i e
    rw [if_neg (by rw [e]; exact Block.noConfusion)]
    exact ⟨by rw [← e], of_decide_eq_true h⟩
  · rename_i e
    rw [if_pos e]
    exact ⟨by rw [State.coreRec_setCoreState, State.coreRec_setCoreRec],
      State.coreState_setCoreState _ _ _ (by decide)⟩
  · cases h

theorem State.arrived_others (s : State) {core c : Nat} (h : c ≠ core) :
    (s.arrived core).coreRec c = s.coreRec c ∧ (s.arrived core).coreState c = s.coreState c := by
  unfold State.arrived
  split
  · exact ⟨State.coreRec_setCoreRec_ne _ _ h,
      (State.coreState_setCoreState_ne _ _ h).trans (State.coreState_setCoreRec _ _ _ _)⟩
  · exact ⟨rfl, rfl⟩

/-- What the fetch of a core's next command changes. -/
theorem State.Fetches.read {s s1 : State} {core opc : Nat} {w : CmdWord} (h : s.Fetches core opc s1 w) :
    FetchKept core (s.arrived core) s1 ∧ ∃ l, (s1.coreRec core).buf = some w :: l := by
  refine State.nextCmd_read h.2.2.1 ?_
  rw [(State.arrived_rec s h.1).1]
  intro b hb e
  exact absurd (List.all_eq_true.mp h.2.2.2.2 b hb) (by simp [e])

/-- What an issue runs. -/
theorem State.Fetches.issue {s s1 : State} {core opc : Nat} {w : CmdWord} (h : s.Fetches core opc s1 w)
    (f : State → Nat → CmdWord → State) :
    s.issue core opc f = f (s1.issueNext core w) (s.coreRec core).seq w := by
  unfold State.issue
  dsimp only
  rw [if_pos h.1, h.2.2.1]
  dsimp only
  rw [if_pos h.2.2.2.1]

/-- The same for an engine command whose queue has room. -/
theorem State.Enters.issueTo {s s1 : State} {core opc : Nat} {w : CmdWord} (h : s.Enters core opc s1 w)
    (f : State → Nat → CmdWord → State) :
    s.issueTo core opc f = f (s1.issueNext core w) (s.coreRec core).seq w := by
  unfold State.issueTo
  rw [if_pos h.1.1, h.1.2.2.1]
  dsimp only
  rw [if_neg (by rw [h.2]; simp), h.1.issue]

/-- The core's record once its next command has been issued. -/
theorem State.Fetches.rec {s s1 : State} {core opc : Nat} {w : CmdWord} (h : s.Fetches core opc s1 w) :
    ∃ l e, (s1.issueNext core w).coreRec core = { s.coreRec core with
      pc := (s.coreRec core).pc + cmdBytes w, seq := (s.coreRec core).seq + 1, block := .none, buf := l, ext := e,
      outst := (s.coreRec core).outst ++ [((s.coreRec core).seq, opc)] } := by
  obtain ⟨l, hl⟩ := h.read.1.buf
  rw [(State.arrived_rec s h.1).1] at hl
  refine ⟨(s1.coreRec core).buf.drop (cmdBytes w / 64),
    ((s1.coreRec core).buf.getD (cmdBytes w / 64 - 1) none).getD 0, ?_⟩
  unfold State.issueNext
  dsimp only
  rw [State.coreRec_setCoreRec, hl, h.2.2.2.1]

/-- No other core's record changes. -/
theorem State.Fetches.others {s s1 : State} {core opc : Nat} {w : CmdWord} (h : s.Fetches core opc s1 w) {c : Nat}
    (hc : c ≠ core) : (s1.issueNext core w).coreRec c = s.coreRec c := by
  unfold State.issueNext
  rw [State.coreRec_setCoreRec_ne _ _ hc, h.read.1.others c hc, (State.arrived_others s hc).1]

theorem State.Fetches.state {s s1 : State} {core opc : Nat} {w : CmdWord} (h : s.Fetches core opc s1 w) :
    (s1.issueNext core w).coreState core = csRUN ∧
      ∀ c, c ≠ core → (s1.issueNext core w).coreState c = s.coreState c :=
  ⟨(h.read.1.fields _ (coreState_ecc core)).trans (State.arrived_rec s h.1).2,
    fun c hc => (h.read.1.fields _ (coreState_ecc c)).trans (State.arrived_others s hc).2⟩

/-- A completion that leaves the core's kernel running. -/
theorem State.completeRaw_running (s : State) (core seq st rs nf : Nat) (hb : (s.coreRec core).block ≠ .ended)
    (he : (s.coreRec core).ending = none) : ∃ bad fl, s.completeRaw core seq st rs nf =
      s.setCoreRec core { s.coreRec core with
        outst := (s.coreRec core).outst.filter (fun o => o.1 != seq), bad := bad, nflags := fl } ∨
      (s.completeRaw core seq st rs nf = s ∧ (s.coreRec core).outst.filter (fun o => o.1 != seq) =
        (s.coreRec core).outst) := by
  unfold State.completeRaw
  dsimp only
  split
  · have k : ∀ r : CoreRec, r.block = (s.coreRec core).block → r.ending = (s.coreRec core).ending →
        (s.setCoreRec core r).kernelTryEnd core = s.setCoreRec core r := fun r h1 h2 => by
      unfold State.kernelTryEnd
      dsimp only
      rw [if_neg]
      rw [State.coreRec_setCoreRec, h1, h2, he]
      simp [hb]
    split
    · exact ⟨(s.coreRec core).bad, (s.coreRec core).nflags, .inl (k _ rfl rfl)⟩
    · exact ⟨_, _, .inl (k _ rfl rfl)⟩
  · rename_i h
    refine ⟨none, 0, .inr ⟨rfl, ?_⟩⟩
    rw [List.filter_eq_self]
    intro o ho
    simp only [List.any_eq_true, not_exists, not_and] at h
    have := h o ho
    simpa [bne] using this

/-- A bit outside the listed fields is 0 where the reserved bits are. -/
theorem reservedZero_bit {w : CmdWord} {fs : List (Nat × Nat)} (h : reservedZero w fs = true) (i : Nat)
    (hi : ∀ f ∈ fs, i < f.1 ∨ f.1 + f.2 ≤ i) : bit w i = false := by
  have e : fs.foldl (fun (x : CmdWord) f => putFld x f.1 f.2 0) w = 0 := of_decide_eq_true h
  suffices g : ∀ (l : List (Nat × Nat)) (x : CmdWord), (∀ f ∈ l, i < f.1 ∨ f.1 + f.2 ≤ i) →
      (l.foldl (fun (x : CmdWord) f => putFld x f.1 f.2 0) x).getLsbD i = x.getLsbD i by
    have := g fs w hi
    rw [e] at this
    simpa [bit] using this.symm
  intro l
  induction l with
  | nil => exact fun _ _ => rfl
  | cons f l ih =>
    intro x hx
    have hf := hx f List.mem_cons_self
    rw [List.foldl_cons, ih _ fun g hg => hx g (List.mem_cons_of_mem _ hg)]
    by_cases hi : i < 512
    · rw [getLsbD_putFld _ _ _ _ _ hi, if_neg (by omega)]
    · rw [BitVec.getLsbD_of_ge _ _ (by omega), BitVec.getLsbD_of_ge _ _ (by omega)]

end Sys2Proof.Machine
end

