-- ==== Sys2Proof/Tests/Slice0.lean ====
section
/-! SUPPORT. Small tests of the model: ill-formed commands are refused, and the hypotheses of the statements are met
by states and operands written out here. Expected values come from the spec's rules, not from the model. -/

namespace Sys2Proof.Tests
set_option maxRecDepth 20000
set_option Elab.async false
open Machine

/-! Ill-formed commands (one for each check of `Instr.wf`) and well-formed ones beside them. -/

/-- A cell of a type, its other bits 0. -/
def cellT (type : Nat) : CellW := BitVec.ofNat 512 (type * 2 ^ 35)

theorem test_wf_cells : Instr.wf (.wrCell 0 (cellT 2)) = false ∧ Instr.wf (.addCell 0 (cellT 1)) = false ∧
    Instr.wf (.rdreqCell 0 (cellT 4)) = false ∧ Instr.wf (.sopenCell 0 (cellT 3)) = false ∧
    Instr.wf (.sdataCell 0 (cellT 6)) = false ∧ Instr.wf (.ackCell 0 (cellT 7)) = false ∧
    Instr.wf (.nackCell 0 (cellT 6)) = false ∧ Instr.wf (.segmentOpen (cellT 9)) = false ∧
    Instr.wf (.swmCell (cellT 9)) = false ∧ Instr.wf (.capvVote (cellT 8)) = false ∧
    Instr.wf (.wortReady (cellT 10)) = false ∧ Instr.wf (.wortRelease 0 (cellT 12)) = false ∧
    Instr.wf (.mgmtCell 0 (cellT 11)) = false ∧ Instr.wf (.mgmtCell 0 (cellT 13)) = true ∧
    Instr.wf (.wrCell 0 (cellT 1)) = true := by decide +kernel

theorem test_wf_descriptors : Instr.wf (.launch 0 2) = false ∧ Instr.wf (.hdma 0 1) = false ∧
    Instr.wf (.setup 0 4 []) = false ∧ Instr.wf (.setup 0 3 [0]) = false ∧ Instr.wf (.teardown 0 3) = false ∧
    Instr.wf (.abort 0 4) = false ∧ Instr.wf (.partitionCreate 0 (6 + 2 ^ 32)) = false ∧
    Instr.wf (.partitionDestroy 0 6) = false ∧ Instr.wf (.reclaim 0 6) = false ∧
    Instr.wf (.setup 0 (3 + 2 ^ 128) [0]) = true := by decide +kernel

theorem test_wf_accesses : Instr.wf (.apertureAccess 0 4 8 false []) = false ∧
    Instr.wf (.apertureAccess 0 0 16 false []) = false ∧ Instr.wf (.apertureAccess 0 0 8 true [0]) = false ∧
    Instr.wf (.dieWindowAccess 0 4 8 false 0) = false ∧ Instr.wf (.registerWrite 0 0 2 0) = false ∧
    Instr.wf (.registerWrite 0 0 8 0) = true ∧ Instr.wf (.safetyThresholdWrite 0x20020 0) = false ∧
    Instr.wf (.safetyThresholdWrite 0x20018 0) = true := by decide +kernel

theorem test_wf_lengths : Instr.wf (.rtLoad 0 0 [0]) = false ∧ Instr.wf (.rtxSummary 0 0 [0] true) = false ∧
    Instr.wf (.wireLoad 0 [0]) = false ∧ Instr.wf (.fenceList 0 [0]) = false ∧ Instr.wf (.fenceList 0 []) = true ∧
    Instr.wf (.resetReq [] 0 []) = false ∧ Instr.wf (.logRecord ⟨0, 0, 0, 0, List.replicate 13 0⟩) = false ∧
    Instr.wf (.logRecord ⟨0, 0, 0, 0, List.replicate 12 0⟩) = true := by decide +kernel

theorem test_wf_lines : Instr.wf (.wcbWrite 0 59 [0, 0] 0) = false ∧ Instr.wf (.wcbWrite 0 60 [] 0) = false ∧
    Instr.wf (.wcbWrite 0 59 [0] 0) = true ∧ Instr.wf (.homeRead 0 1 60 []) = false ∧
    Instr.wf (.homeRead 0 0 60 [(3, 1), (3, 2)]) = false ∧ Instr.wf (.lpddrScrub 0 0 0 [(67, 1), (67, 1)]) = false ∧
    Instr.wf (.sramScrub 0 0 [(31, true), (31, false)]) = false ∧
    Instr.wf (.sramScrub 0 0 [(31, true), (30, false)]) = true := by decide +kernel

/-- The power-on path runs no command by itself: with the queue empty a step lets one nanosecond pass. -/
theorem test_idle : (match step .reset with | .next t => t.tim.mono | _ => 0) = 1 := by decide +kernel

theorem test_reset_memory : Memory.wf State.reset.mem = true ∧ State.reset.Inv := by
  unfold State.Inv; decide +kernel

/-! Worker cores: witnesses of the hypotheses. -/

/-- A command word with these fields: (lowest bit, value). -/
def wordOf (fs : List (Nat × Nat)) : CmdWord := BitVec.ofNat 512 ((fs.map fun f => f.2 * 2 ^ f.1).sum)

/-- Core 9, of die 0, runs and has this word in its fetch buffer, its fetch address the start of SRAM, the word's number
3; the rest is `s`. -/
def runs (s : State) (fs : List (Nat × Nat)) : State :=
  (s.setCoreState 9 csRUN).setCoreRec 9
    { s.coreRec 9 with pc := sramBase, seq := 3, buf := [some (wordOf fs)] }

/-- The state right after the fetch. -/
def fetched (s : State) : State := ((s.arrived 9).nextCmd 9).1

theorem test_hyp_nop_chain_wait :
    State.Fetches (runs .reset []) 9 0 (fetched (runs .reset [])) (wordOf []) ∧
    reservedZero (wordOf []) [(0, 8)] = true ∧
    (let w := [(0, 2), (64, sramBase + 64)]
     State.Fetches (runs .reset w) 9 2 (fetched (runs .reset w)) (wordOf w) ∧
     reservedZero (wordOf w) [(0, 8), (64, 40)] = true ∧ fld (wordOf w) 64 40 % 64 = 0 ∧
     pick ((fetched (runs .reset w)).rangeConds 0 (fld (wordOf w) 64 40) 64) = none) ∧
    (let w := [(0, 3), (8, 3), (16, 7), (96, 2 ^ 31), (288, 1)]
     State.Fetches (runs .reset w) 9 3 (fetched (runs .reset w)) (wordOf w) ∧
     reservedZero (wordOf w) [(0, 10), (16, 16), (64, 10), (96, 32), (128, 10), (160, 32), (192, 10), (224, 32),
       (256, 10), (288, 32)] = true ∧
     ∃ p ∈ waitConds (wordOf w), satisfied ((runs .reset w).cnt 0 p.1) p.2 = false) ∧
    (let w := [(0, 3), (8, 3), (96, 2 ^ 31 + 1)]
     State.Fetches (runs .reset w) 9 3 (fetched (runs .reset w)) (wordOf w) ∧
     ∀ p ∈ waitConds (wordOf w), satisfied ((runs .reset w).cnt 0 p.1) p.2 = true) := by
  unfold State.Fetches; decide +kernel

theorem test_hyp_cset_sig :
    (let w := [(0, 5), (16, 1023), (32, 2 ^ 32 - 1)]
     State.Fetches (runs .reset w) 9 5 (fetched (runs .reset w)) (wordOf w) ∧
     reservedZero (wordOf w) [(0, 8), (16, 10), (32, 32)] = true) ∧
    (let w := [(0, 4), (16, 1023), (32, 2 ^ 32 - 1)]
     State.Fetches (runs .reset w) 9 4 (fetched (runs .reset w)) (wordOf w) ∧
     reservedZero (wordOf w) [(0, 10), (16, 10), (32, 32), (64, 16)] = true ∧ bit (wordOf w) 9 = false ∧
     bit (wordOf w) 8 = false) ∧
    (let w := [(0, 4), (8, 1), (16, 5), (32, 1)]
     let s := runs ((State.reset).setCoreRec 9 { outst := [(2, 0x50)] }) w
     State.Fetches s 9 4 (fetched s) (wordOf w) ∧
     reservedZero (wordOf w) [(0, 10), (16, 10), (32, 32), (64, 16)] = true ∧ bit (wordOf w) 9 = false ∧
     bit (wordOf w) 8 = true ∧ (s.coreRec 9).copyBefore (s.coreRec 9).seq = true) ∧
    (let w := [(0, 4), (9, 1), (16, 5), (32, 1), (64, 4095), (76, 7)]
     let s := runs .reset w
     State.Fetches s 9 4 (fetched s) (wordOf w) ∧
     reservedZero (wordOf w) [(0, 10), (16, 10), (32, 32), (64, 16)] = true ∧ bit (wordOf w) 9 = true ∧
     fld (wordOf w) 76 4 < 8 ∧ bit (wordOf w) 8 = false ∧ s.staleCore 9 (s.coreRec 9).ctx = false ∧
     (fetched s).freeId 0 = some 0) ∧
    (let w := [(0, 4), (9, 1), (16, 5), (32, 1), (64, 4095), (76, 7)]
     let s := runs ((State.reset).setCoreRec 9 { ctx := { pgen := 1 } }) w
     State.Fetches s 9 4 (fetched s) (wordOf w) ∧ bit (wordOf w) 9 = true ∧ bit (wordOf w) 8 = false ∧
     s.staleCore 9 (s.coreRec 9).ctx = true) := by
  unfold State.Fetches; decide +kernel

theorem test_hyp_end : (let s := runs .reset [(0, 1)]
    State.Fetches s 9 1 (fetched s) (wordOf [(0, 1)]) ∧ reservedZero (wordOf [(0, 1)]) [(0, 8)] = true ∧
    (s.coreRec 9).outst = [] ∧ (s.coreRec 9).resetting = false ∧ s.clFolded 9 = false) := by
  unfold State.Fetches; decide +kernel

theorem test_hyp_bar : (∀ n ∈ [1, 2, 256], (let w := [(0, 6), (8, 31), (16, n)]
    State.Fetches (runs .reset w) 9 6 (fetched (runs .reset w)) (wordOf w) ∧
    reservedZero (wordOf w) [(0, 13), (16, 9)] = true ∧ 1 ≤ fld (wordOf w) 16 9 ∧ fld (wordOf w) 16 9 ≤ 256 ∧
    ((runs .reset w).barRec 0 (fld (wordOf w) 8 5)).cores = [] ∧
    (((runs .reset w).barRec 0 (fld (wordOf w) 8 5)).cores.length + 1 < fld (wordOf w) 16 9 ↔ n ≠ 1))) ∧
    (let w := [(0, 6), (8, 31), (16, 2)]
     let b : State := { State.reset with core := { bars := [(31, ⟨2, [4]⟩)] } }
     let s := runs ((b.setCoreRec 4 { block := .bar 31 }).setCoreState 4 csBAR) w
     State.Fetches s 9 6 (fetched s) (wordOf w) ∧ (s.barRec 0 31).npart = fld (wordOf w) 16 9 ∧
     fld (wordOf w) 16 9 ≤ (s.barRec 0 31).cores.length + 1 ∧ s.coreState 4 = csBAR ∧
     (s.coreRec 4).ending = none ∧ (s.coreRec 4).resetting = false) := by
  unfold State.Fetches; decide +kernel

/-- Core 9 waits for counter 3 to reach 1, its WAIT issued as command 3. -/
def waits9 : State := ((State.reset).setCoreRec 9
  { block := .wait [(3, 1)] (some 0), seq := 4, outst := [(3, 0x03)] }).setCoreState 9 csWAIT

theorem test_hyp_wait_timeout : (waits9.coreRec 9).block = .wait [(3, 1)] (some 0) ∧ waits9.coreState 9 = csWAIT ∧
    (waits9.coreRec 9).resetting = false ∧
    ([(3, 1)].find? fun q => !satisfied (waits9.cnt 0 q.1) q.2) = some (3, 1) ∧
    (waits9.coreRec 9).outst = [((waits9.coreRec 9).seq - 1, 0x03)] ∧ State.reset.coreState 9 ≠ csWAIT := by
  decide +kernel

/-- Core 9 is stalled before an MVE_MV, for a full queue or for the word itself. -/
def stalled (b : Block) (s : State) : State :=
  let t := (runs s [(0, 0x30)]).setCoreState 9 csSTALL
  t.setCoreRec 9 { t.coreRec 9 with block := b }

theorem test_hyp_stall_resume :
    (let s := stalled .stall { State.reset with eng := { mveq := [(0, List.replicate 32 {})] } }
     s.coreState 9 = csSTALL ∧ (s.coreRec 9).block ≠ .fetch ∧ s.targetFull 0 (s.peekWord 9) = true) ∧
    (let s := stalled .stall State.reset
     s.coreState 9 = csSTALL ∧ (s.coreRec 9).block ≠ .fetch ∧ s.targetFull 0 (s.peekWord 9) = false) ∧
    (let s := stalled .fetch State.reset
     s.coreState 9 = csSTALL ∧ (s.coreRec 9).block = .fetch ∧
     (((s.fillBuf 9 1).coreRec 9).buf.drop (s.coreRec 9).buf.length).all Option.isSome = true) ∧
    (let t := stalled .fetch ((State.reset).poke 0 sramBase (leBytes 64 1))
     let s := t.setCoreRec 9 { t.coreRec 9 with buf := [] }
     s.coreState 9 = csSTALL ∧ (s.coreRec 9).block = .fetch ∧
     ((s.fillBuf 9 1).coreRec 9).buf.map (fun b => b.map fun w => fld w 0 8) = [some 1]) ∧
    State.reset.coreState 9 ≠ csSTALL := by decide +kernel

/-! Arrays, matrix-vector engine, lanes, copies: witnesses. -/

/-- Half a unit is a tie and goes to the even 0; one unit and a half goes to 2 (R51, R58). -/
theorem test_hyp_products :
    (((1 / 2 : ℚ) = (if true = true then 1 else -1) * ((1 * 1 : Nat) : ℚ) * (2 : ℚ) ^ ((-3) + 2 - (0 : ℤ))) ∧
      |(1 / 2 : ℚ) - (0 : ℤ)| ≤ 1 / 2 ∧ (2 : ℤ) ∣ 0) ∧
    macExact 0 (5, false, 0) (.fin true 1 (-3)) (.fin true 1 2) = (5, false, nfPUF) ∧
    macExact 0 (5, false, 0) (.fin true 3 (-3)) (.fin false 1 2) = (3, false, nfPUF) ∧
    macExact 0 (0, false, 0) (.fin false 1 36) (.fin true 1 0) = (-(2 ^ 36 - 1), false, nfPSAT) := by
  refine ⟨⟨by norm_num, by norm_num [abs_le], by norm_num⟩, ?_⟩
  decide +kernel

theorem test_hyp_drain_sum : (2 ^ 55 - 1 : Int) < 2 ^ 55 ∧ (-(2 ^ 55) - 1 : Int) < -(2 ^ 55) ∧
    (-(2 ^ 55) : Int) ≤ -(2 ^ 55) ∧ drainNum (-18) (2 ^ 55) false = (.fin false (2 ^ 55 - 1) (-18), nfASAT) ∧
    drainNum (-18) 0 false = (.fin false 0 (-18), 0) := by decide +kernel

theorem test_hyp_layout_wload :
    (let w := [(0, 0x22), (8, 5), (128, 0xFFFF)]
     let s := runs .reset w
     State.Sound (fetched s) ∧ jARRAY (wordOf w) < 6 ∧ ((fetched s).arr 0 (jARRAY (wordOf w))).queue = [] ∧
     State.Enters s 9 0x22 (fetched s) (wordOf w) ∧
     reservedZero (wordOf w) [(0, 11), (64, 64), (128, 26)] = true ∧
     layoutOk (fld (wordOf w) 64 64) (fld (wordOf w) 128 16) = true) ∧
    (let w := [(0, 0x20), (8, 5), (16, 5), (24, 512), (34, 256), (64, 4096), (128, 8)]
     let s := runs .reset w
     State.Enters s 9 0x20 (fetched s) (wordOf w) ∧
     pick (wloadConds ((fetched s).arr 0 (jARRAY (wordOf w))) (wordOf w)) = none) := by
  unfold State.Enters State.Fetches State.Sound; decide +kernel

/-- Array 0 of die 0 holds a one-by-one tile of the number 3 in INT8, active in region 0. -/
def tiled : State := (State.reset).setArr 0 0 { regions := [(0, { wa := { k := 1, n := 1, elems := [3] } })] }

/-- As `tiled`, with the residue and parity bits that ARR_WLOAD stores beside the tile (R96). -/
def checked : State := (State.reset).setArr 0 0 { regions := [(0, { wa := {
  k := 1, n := 1, elems := [3], res := [(elemNum 0 3).residue], par := codeParity 0 3 } })] }

/-- A pass of the bare tile fails its checks, with no cap open; one of the checked tile does not (R96). -/
theorem test_hyp_pass_checks : (let w := wordOf [(0, 0x21), (24, 11), (30, 1), (41, 1), (96, 4096), (64, 4096), (192, 1)]
    let ok := fun (s : State) => ((s.arr 0 0).pass s 0 w ⟨0, 0, 4, 4⟩).1.checks (passReg (s.arr 0 0) w) w ⟨0, 0, 4, 4⟩
    ok checked = true ∧ ok tiled = false ∧ State.NoCap tiled 0) := by
  unfold State.NoCap; decide +kernel

theorem test_hyp_pass :
    (∀ w ∈ [[(0, 0x21), (24, 11), (30, 1), (41, 1), (96, 4096), (64, 4096), (192, 1)],
            [(0, 0x21), (41, 1), (52, 1023), (64, 4096), (192, 1)]],
      (let s := runs tiled w
       State.Sound (fetched s) ∧ jARRAY (wordOf w) < 6 ∧ ((fetched s).arr 0 (jARRAY (wordOf w))).queue = [] ∧
       ((fetched s).arr 0 (jARRAY (wordOf w))).rect (jREGION (wordOf w)) = some ⟨0, 0, 4, 4⟩ ∧
       pick (passConds (fetched s) 0 ((fetched s).arr 0 (jARRAY (wordOf w))) (wordOf w)) = none ∧
       State.Enters s 9 0x21 (fetched s) (wordOf w))) ∧
    (let w := [(0, 0x23), (24, 11), (30, 1), (41, 1)]
     let s := runs tiled w
     ((fetched s).arr 0 (jARRAY (wordOf w))).rect (jREGION (wordOf w)) = some ⟨0, 0, 4, 4⟩ ∧
     pick (passConds (fetched s) 0 ((fetched s).arr 0 (jARRAY (wordOf w))) (wordOf w)) = none ∧
     State.Enters s 9 0x23 (fetched s) (wordOf w)) := by
  unfold State.Enters State.Fetches State.Sound; decide +kernel

theorem test_hyp_mve_vec :
    (let w := [(0, 0x30), (64, 1), (96, 1), (16, 8)]
     let s := runs .reset w
     State.Sound (fetched s) ∧ State.Enters s 9 0x30 (fetched s) (wordOf w) ∧
     (fetched s).eng.mveq.get [] 0 = [] ∧ pick (mvConds (wordOf w)) = none) ∧
    (let w := [(0, 0x40), (8, 1), (20, 1), (22, 1), (40, 1), (64, 4096), (160, 8192), (192, 1), (212, 8), (224, 8),
        (320, 0x01)]
     let s := runs .reset w
     State.Fetches s 9 0x40 (fetched s) (wordOf w) ∧ State.Unbound s 9 (s.coreRec 9).seq ∧
     (s.coreRec 9).resetting = false ∧
     pick (vecConds 0 (wordOf w) ((fetched s).wordAt 0 ((s.coreRec 9).pc + cmdBytes (wordOf w) - 64))) = none) := by
  unfold State.Enters State.Fetches State.Sound State.Unbound; decide +kernel

/-- A started command of core 9 with a held write. -/
def job9 : Job := { core := 9, seq := 2, started := true, writes := [(4096, [1, 2])] }

theorem test_hyp_engine_ends : job9.core / 256 = 0 ∧ job9.started = true ∧ State.Unbound State.reset 9 2 ∧
    ((State.reset).setArr 0 5 { queue := [job9] }).arr 0 5 = { queue := [job9] } ∧
    (isLayout job9 || decide (jREGION job9.word = 0)) = true ∧
    ({ State.reset with eng := { mveq := [(0, [job9])] } } : State).eng.mveq.get [] 0 = [job9] := by
  unfold State.Unbound; decide +kernel

/-- Function 0 may reach the host's first MiB, its bus master enable is on, and die 0's port is UP. -/
def hosted : State :=
  { (((State.reset).setReg (Reg.PCI_DMAW_BASE 0 0) 3).setReg (Reg.PCI_DMAW_LIM 0 0) 0x100000).fset
      (RF.FAB_PORT_STATE 32) 3 with
    host := { bme := 1, credits := 4096 } }

theorem test_hyp_copy : ∀ w ∈ [
      -- here to here
      [(0, 0x50), (64, sramBase + 4096), (128, sramBase + 8192), (192, 256), (224, 2), (256, 256), (288, 256)],
      -- to die 7 of module 4095
      [(0, 0x50), (12, 1), (64, sramBase + 4096), (128, 4095 * 2 ^ 44 + 7 * 2 ^ 40 + sramBase), (192, 48), (224, 1)],
      -- from it
      [(0, 0x50), (10, 1), (64, 4095 * 2 ^ 44 + 7 * 2 ^ 40 + sramBase), (128, sramBase + 4096), (192, 48), (224, 1)],
      -- to the host, from the host
      [(0, 0x50), (12, 2), (64, sramBase + 4096), (128, 4096), (192, 64), (224, 1)],
      [(0, 0x50), (10, 2), (64, 4096), (128, sramBase + 4096), (192, 64), (224, 1)]],
    (let s := runs hosted w
     State.Enters s 9 0x50 (fetched s) (wordOf w) ∧ State.Sound (fetched s) ∧ bit (wordOf w) 14 = false ∧
     (fetched s).ceQ 0 (cpCE (wordOf w)) = [] ∧ pick ((fetched s).copyConds 0 (wordOf w)) = none ∧
     (fetched s).staleCore 9 (s.coreRec 9).ctx = false ∧ (fetched s).freeId 0 = some 0 ∧
     cpBytes (wordOf w) ≤ streamMax ∧ (fetched s).host.wq = [] ∧ (fetched s).host.rq = [] ∧
     (fetched s).host.descs = [] ∧ (fetched s).host.reqs = [] ∧ (fetched s).host.quar = [] ∧
     (fetched s).bmeOn ((fetched s).owner 0) = true ∧ (fetched s).diePortUp 0 = true ∧ cpBytes (wordOf w) ≤ (fetched s).host.credits) := by
  unfold State.Enters State.Fetches State.Sound; decide +kernel

theorem test_hyp_copy_ends :
    (let j : Job := { job9 with word := wordOf [(0, 0x50), (8, 3), (17, 1), (24, 7), (40, 1023)] }
     let s : State := { State.reset with eng := { ceq := [(3, [j])] } }
     State.Sound s ∧ s.ceQ 0 3 = [j] ∧ j.waits = 0 ∧ counts j.status = true ∧ State.Unbound s j.core j.seq ∧
     (s.coreRec j.core).sigs = []) ∧
    (let j : Job := { core := 9, word := wordOf [(0, 0x50), (14, 1), (64, sramBase + 4096), (128, sramBase + 8192),
        (192, 256), (224, 1)] }
     let s : State := ({ State.reset with eng := { pfq := [(0, [j])] } } : State).setCoreState 9 csWAIT
     State.Sound s ∧ s.eng.pfq.get [] 0 = [j] ∧ s.dieWaits 0 = true ∧ s.updDue 0 = false ∧
     s.ceQ 0 (cpCE j.word) = [] ∧ pick (s.copyConds 0 j.word) = none ∧ s.staleCore j.core j.ctx = false ∧
     s.cpSrc 0 j.word = .here (sramBase + 4096) ∧ s.cpDst 0 j.word = .here (sramBase + 8192)) ∧
    (let w := [(0, 0x50), (14, 1), (64, sramBase + 4096), (128, sramBase + 8192), (192, 256), (224, 1)]
     let s := runs ((State.reset).fset (RF.WRK_WAITMODE_PREFETCH 0) 1) w
     State.Enters s 9 0x50 (fetched s) (wordOf w) ∧ State.Sound (fetched s) ∧ bit (wordOf w) 14 = true ∧
     (fetched s).fget (RF.WRK_WAITMODE_PREFETCH 0) = 1) := by
  unfold State.Enters State.Fetches State.Sound State.Unbound; decide +kernel

/-! Units that fail: witnesses. Registers as phase 4 leaves a die without a failed unit. -/

/-- Die 0: arrays 0 to 5 ASSIGNED, 6 SPARE. -/
def tested : State := ((State.reset).setReg (Reg.ARR_PHYS_STATE 0) 0x2111111).setReg (Reg.ARR_LMAP 0) 0x543210

theorem test_hyp_array_faults : State.NoCap tested 0 ∧ tested.arrPhys 0 5 = 5 ∧ tested.arrRuns 0 5 = true ∧
    tested.arrBacks 0 5 = [5] ∧ (List.range 7).find? (fun x => decide (tested.arrSt 0 x = 2)) = some 6 ∧
    JobsOf (tested.arr 0 5).queue 0 ∧ (tested.setArrSt 0 0 3).arrSt 0 0 = 3 ∧ tested.arrSt 0 6 = 2 := by
  unfold State.NoCap JobsOf; decide +kernel

theorem test_hyp_engine_faults : State.NoCap tested 0 ∧ tested.fget (RF.MVE_STAT_RETIRED 0) = 0 ∧
    tested.fget (RF.MVE_STAT_ON_ARRAYS 0) = 0 ∧ tested.eng.mveq.get [] 0 = [] ∧
    (tested.fset (RF.MVE_STAT_ON_ARRAYS 0) 1).fget (RF.MVE_STAT_ON_ARRAYS 0) = 1 ∧
    tested.arrRuns 0 0 = true ∧ (∀ a < 6, JobsOf (tested.arr 0 a).queue 0) ∧
    tested.clGone 0 33 = false ∧ tested.clsOn 0 33 = [] ∧ scrubbed 0 [true] = 2 ∧ scrubbed 0 [false] = 1 := by
  unfold State.NoCap JobsOf; decide +kernel

/-- Physical clusters 32 and 33 of die 0 retired, banks 64 and 65 too. -/
def noSpares : State := { State.reset with eng := { clOut := [(32, 1), (33, 1)], bkOut := [(64, 1), (65, 1)] } }

theorem test_hyp_clusters_banks :
    (∀ s ∈ [State.reset, noSpares], State.NoCap s 0 ∧ s.clPhys 0 31 = 31 ∧ s.clGone 0 31 = false ∧
      s.clsOn 0 31 = [31] ∧ bitN (s.clDraining 0 31) 0 = false ∧
      (∀ k ∈ clCores 0 31, s.coreState k = csIDLE ∧ (s.coreRec k).outst = [] ∧ s.saf.cores.get 0 k = 0) ∧
      s.physBank 0 63 = 63) ∧
    State.reset.clSpares 0 = [32, 33] ∧ State.reset.bkSpares 0 = [64, 65] ∧ noSpares.clSpares 0 = [] ∧
    noSpares.bkSpares 0 = [] ∧ noSpares.clGone 0 0 = false ∧ noSpares.clsOn 0 0 = [0] := by
  unfold State.NoCap; decide +kernel

/-- Core 248 of die 0, of its logical cluster 31, runs with a command outstanding. -/
def draining : State := ((State.reset).setCoreState 248 csRUN).setCoreRec 248 { outst := [(0, 0x50)] }

/-- Four words of die 0's physical bank 63 have been read uncorrectable (R406). -/
def badBank : State := { State.reset with lp := { bankUe := [(63, [(0, 0), (1, 0), (2, 0), (3, 0)])] } }

theorem test_hyp_clusters_banks_else :
    (draining.clPhys 0 31 = 31 ∧ draining.clGone 0 31 = false ∧ draining.clsOn 0 31 = [31] ∧
      bitN (draining.clDraining 0 31) 0 = false ∧ 248 ∈ clCores 0 31 ∧ draining.coreState 248 = csRUN ∧
      (draining.coreRec 248).ending = none ∧ (draining.coreRec 248).outst ≠ []) ∧
    (let s := ({ State.reset with eng := { clOut := [(31, 1)] } } : State)
     s.clGone 0 (s.clPhys 0 31) = true ∧ ∀ x ∈ s.clsOn 0 (s.clPhys 0 31), bitN (s.clDraining 0 x) 0 = false) ∧
    ((State.reset).fset (RF.WRK_BMAP_EMU 0 7 7) 1).physBank 0 63 = 0x7F ∧
    (State.reset.physBank 0 (sramBank 0) = 0 ∧ State.NoCap State.reset 0) ∧
    (badBank.lp.bankUe = [(0 * 66 + 63, [(0, 0), (1, 0), (2, 0), (3, 0)])] ∧ badBank.physBank 0 63 = 63 ∧
      ∀ x < 63, badBank.physBank 0 x ≠ 63) ∧
    (badBank.banksSettle.physBank 0 63 = 64 ∧ badBank.banksSettle.lp.bankUe = []) := by
  unfold State.NoCap; decide +kernel

/-! Generators and sampler: witnesses. -/

/-- SMP_OPEN of mode 0 with two contributors, TEMP 1 and one candidate, for the merge stage of module `m`. -/
def openWord (m : Nat) : List (Nat × Nat) :=
  [(0, 0x62), (32, 0x3C00), (48, 1), (64, 5), (80, 1), (96, 65536), (224, m), (256, 8192), (288, 1)]

/-- SMP_PART of it: contributor 1, one FP32 logit. -/
def partWord : List (Nat × Nat) :=
  [(0, 0x61), (10, 8), (32, 0x3C00), (48, 1), (64, 5), (80, 1), (89, 1), (128, 4096), (160, 1)]

/-- The context of that open. -/
def ctx5 : SmpCtx := { sid := 5, temp := 0x3C00, ktop := 1, ncont := 2, core := 9, seq := 2 }

/-- A part of contributor 0 that has come from module 7. -/
def part7 : SmpPart := ⟨0, 5, 0, 0, 0x3C00, 1, 1, false, 0, 0x3F800000, [(0, 0)], 7, 0, 3⟩

theorem test_hyp_rng_fill : (let w := [(0, 0x60), (16, 3), (64, 4096), (96, 2), (160, 1), (192, 2), (224, 64)]
    State.Fetches (runs .reset w) 9 0x60 (fetched (runs .reset w)) (wordOf w) ∧ pick (rfConds (wordOf w)) = none ∧
    State.Unbound (runs .reset w) 9 3) := by
  unfold State.Fetches State.Unbound; decide +kernel

theorem test_hyp_smp_open :
    (∀ m ∈ [0, 4095], (let s := runs .reset (openWord m)
     State.Fetches s 9 0x62 (fetched s) (wordOf (openWord m)) ∧ pick (soConds ((fetched s).setupsOn 0) (wordOf (openWord m))) = none ∧
     (fetched s).staleCore 9 (s.coreRec 9).ctx = false ∧ soMMOD (wordOf (openWord m)) = m ∧
     (fetched s).module = 0 ∧ (fetched s).smp.ctxs = [] ∧ (fetched s).smp.orphans = [] ∧
     (fetched s).freeId 0 = some 0)) ∧
    (let s : State := { State.reset with smp := { waiting := [ctx5] } }
     s.smp.waiting = [ctx5] ∧ s.smp.ctxs.length < 512) := by
  unfold State.Fetches; decide +kernel

theorem test_hyp_smp_part :
    (∀ v ∈ [0, 0x7F800000],
     let s := (runs { State.reset with smp := { ctxs := [ctx5] } } partWord).poke 0 (sramBase + 4096) (leBytes 4 v)
     let w := wordOf partWord
     State.Fetches s 9 0x61 s w ∧ pick (spConds (s.setupsOn 0) w) = none ∧ State.Sound s ∧
     s.staleCore 9 (s.coreRec 9).ctx = false ∧ s.freeId 0 = some 0 ∧ s.shardZ 0 w ≠ [] ∧
     ((s.shardZ 0 w).any (fun z => !(d32 z).finite) = decide (v ≠ 0))) ∧
    (ctx5.job = part7.job.toNat ∧ ctx5.sid = part7.sid.toNat ∧ ctx5.mode = part7.mode.val ∧
     ctx5.temp = part7.temp.toNat ∧ ctx5.ktop = part7.ktop.toNat ∧ ctx5.ncont = part7.ncont.toNat + 1 ∧
     ctx5.parts.length + 1 < ctx5.ncont) ∧
    (∀ x ∈ State.reset.smp.ctxs, x.is part7.job.toNat part7.sid.toNat = false) ∧
    (part7.job.toNat, part7.sid.toNat, part7.cidx.val) ∉ State.reset.smp.closed ∧
    (let s : State := { State.reset with smp := { closed := [(0, 5, 0)] } }
     (part7.job.toNat, part7.sid.toNat, part7.cidx.val) ∈ s.smp.closed) := by
  unfold State.Fetches State.Sound; decide +kernel

theorem test_hyp_smp_end :
    (let r : PartRec := { core := 9, seq := 2, word := wordOf ([(8, 1), (224, 8), (256, 8192)] ++ partWord) }
     let s : State := { State.reset with smp := { parts := [r] } }
     s.smp.parts = [r] ∧ smSID r.word = 5 ∧ spCIDX r.word = 1 ∧ smMODE r.word = 1 ∧ spMMOD r.word = s.module ∧
     State.Unbound s 9 2 ∧ (s.shardZ 0 r.word).all (fun z => (d32 z).finite) = true ∧
     rangesBad [(spDDST r.word, elemBytes (spDFMT r.word) (spVLEN r.word)), (spLSRC r.word,
       elemBytes (spLFMT r.word) (spVLEN r.word))] = false ∧
     spLSRC r.word + elemBytes (spLFMT r.word) (spVLEN r.word) ≤ spDDST r.word) ∧
    (ctx5.st = 1 ∧ ctx5.mode = 0 ∧ ctx5.far = none ∧ ctx5.core < 2048 ∧ ctx5.cnt < 1024 ∧
     State.Unbound State.reset ctx5.core ctx5.seq) ∧
    (let s : State := { State.reset with smp := { orphans := [part7] } }
     s.smp.orphans = [] ++ part7 :: [] ∧ part7.srcMod.toNat ≠ s.module) := by
  unfold State.Unbound; decide +kernel

/-- Contributor 1's part of the same token, and the context that holds both. -/
def part8 : SmpPart := { part7 with cidx := 1, cands := [(7, 0x3F800000)] }
def ctxBoth : SmpCtx := { ctx5 with parts := [part7, part8] }

theorem test_hyp_arrival_order : ctxBoth.parts.Perm [part8, part7] ∧
    (ctxBoth.parts.map fun p => p.cidx).Nodup ∧
    (ctxBoth.parts.all fun p => p.cands.all fun e => (d32 e.2.toNat).finite) = true :=
  by decide +kernel

/-! Fused update units: witnesses. -/

/-- A tensor record of one block whose program is one MOV, with a gradient ring of one step and a clip constant. -/
def trec1 : Nat := (wordOf []).toNat + ([(0, 128), (45, 1), (46, 1), (49, 1), (50, 1), (64, 0x10000), (128, 0x20000),
  (320, 0x30000), (384, 0x40000), (448, 0x50000), (608, 0x3F800000), (720, 1), (736, 0x8000),
  (1024, 0x0A)].map fun f => f.2 * 2 ^ f.1).sum

/-- Die 0: one slot of 1 KiB, a cap open in which one UPD_RUN of the record has run, and the record at 256. -/
def training : State :=
  { (((((State.reset).fset (RF.UPD_SLOT_CFG_NSLOT 0) 1).fset (RF.UPD_SLOT_CFG_SIZE64 0) 16).fset
      (RF.UPD_SLOT_BASE_BASE 0) 0x100000).fset (RF.MEM_CAP_USABLE 0) 0x40000000).setCapState 0 1 with
    cap := { dies := [(0, { key := ⟨1, 2, 3, 0⟩, kind := 1, runs := [(256, 0, 0)], ran := [(256, 0)] })] } }

def training1 : State := training.poke 0 (sramBase + 256) (leBytes 256 trec1)

theorem test_hyp_updates : ∀ w ∈ [[(0, 0x70), (96, 256)], [(0, 0x72), (96, 256)], [(0, 0x73), (96, 256), (192, 4096)],
      [(0, 0x71), (96, 4096), (128, 0x60000), (192, 64), (224, 1)]],
    (let s := runs training1 w
     let j : Job := { core := 9, seq := 3, word := wordOf w, cap := (fetched s).openCap 0,
                      before := ((fetched s).dieCap 0).runs.length }
     State.Enters s 9 (uOPC (wordOf w)) (fetched s) (wordOf w) ∧ State.Sound (fetched s) ∧
     (fetched s).capState 0 ≠ 0 ∧ (fetched s).updQ 0 = [] ∧ bit (wordOf w) 42 = false ∧
     pick ((fetched s).updConds 0 j) = none ∧ ((256, 0) ∈ ((fetched s).dieCap 0).ran) ∧
     ((fetched s).dieCap 0).slot = none ∧ (fetched s).freeSlotOf 0 = some 0) := by
  unfold State.Enters State.Fetches State.Sound; decide +kernel

/-- While die 0's cap rolls back, an update command completes without acting (R196). -/
theorem test_hyp_updates_aborting : (let s := runs (training1.setCapState 0 6) [(0, 0x70), (96, 256)]
    State.Enters s 9 0x70 s (wordOf [(0, 0x70), (96, 256)]) ∧ State.Sound s ∧ s.capState 0 = 6) := by
  unfold State.Enters State.Fetches State.Sound; decide +kernel

theorem test_hyp_update_gate : (let w := [(0, 0x70), (32, 5), (42, 1), (64, 1), (96, 256)]
    let s := runs training1 w
    State.Enters s 9 0x70 (fetched s) (wordOf w) ∧ bit (wordOf w) 42 = true ∧
    satisfied ((fetched s).cnt 0 (fld (wordOf w) 32 10)) (fld (wordOf w) 64 32) = false) ∧
    (let j : Job := { core := 9, seq := 3, word := wordOf [(0, 0x70), (96, 256)] }
     let s : State := { training1 with upd := { queue := [(0, [j])] } }
     s.updQ 0 = [j] ∧ State.Sound s ∧ s.updReady 0 j = true ∧ pick (s.updConds 0 j) = none) ∧
    (let j : Job := { core := 9, seq := 2, started := true, word := wordOf [(0, 0x70), (16, 1023)],
                      writes := [(4096, [1])], diffs := [(0x10000, 0, [1, 2]), (0xFFFC0, 64, [3])] }
     let s : State := { training1 with upd := { queue := [(0, [j])] }, cap := { dies := [(0, { slot := some 0 })] } }
     s.updQ 0 = [j] ∧ (j.status = stOK ∨ j.status = stDEGRADED) ∧ j.sour = none ∧ (s.dieCap 0).vote = none ∧
     (s.dieCap 0).slot = some 0 ∧ (j.diffs.all fun w => decide (w.2.1 + w.2.2.length ≤ 64 *
       s.fget (RF.UPD_SLOT_CFG_SIZE64 0))) = true ∧
     ((atSram 0 j.writes ++ atDie 0 (j.diffs.map fun x => (x.1, x.2.2))).all fun w => decide (
       w.1 + w.2.length ≤ s.slotAddr 0 0 ∨
       s.slotAddr 0 0 + slotStride (s.fget (RF.UPD_SLOT_CFG_SIZE64 0)) ≤ w.1)) = true) := by
  unfold State.Enters State.Fetches State.Sound; decide +kernel

/-- Two diffed writes outside the slot, the second at the image's last granule. -/
def writes2 : List (Nat × Nat × Bytes) := [(0x10000, 0, [1, 2]), (0x100000 - 4, 1020, [3, 4, 5, 6])]

theorem test_hyp_rollback : State.Sound training ∧ (training.upd.slots.get {} 0).diffs = [] ∧
    (∀ g < training.fget (RF.UPD_SLOT_CFG_SIZE64 0), (training.byte (0 * 2 ^ 40 + training.slotAddr 0 0 +
      training.fget (RF.UPD_SLOT_CFG_SIZE64 0) * 64 + g / 8)).getLsbD (g % 8) = false) ∧
    (writes2.all fun w => decide (w.2.1 + w.2.2.length ≤ 64 * training.fget (RF.UPD_SLOT_CFG_SIZE64 0) ∧
      (w.1 + w.2.2.length ≤ training.slotAddr 0 0 ∨
        training.slotAddr 0 0 + slotStride (training.fget (RF.UPD_SLOT_CFG_SIZE64 0)) ≤ w.1))) = true ∧
    (writes2.all fun v => writes2.all fun w => decide (v = w ∨ v.2.1 + v.2.2.length ≤ w.2.1 ∨
      w.2.1 + w.2.2.length ≤ v.2.1)) = true := by
  unfold State.Sound; decide +kernel

theorem test_hyp_lane_fault_rollback :
    State.NoCap State.reset 0 ∧ State.reset.upd.lost.get 0 7 = 0 ∧ State.reset.updQ 0 = [] ∧
    (let s : State := { (training.fset (RF.UPD_SLOT_STATE_STATE 0 0) 3).setCapState 0 6 with
       cap := { dies := [(0, { slot := some 0, decided := some 1, vote := some (0, 9, 2, 1023), dcnts := [4] })] } }
     (s.dieCap 0).slot = some 0 ∧ (s.dieCap 0).decided = some 1 ∧ (s.dieCap 0).vote = some (0, 9, 2, 1023) ∧
     (∀ n ∈ (s.dieCap 0).dcnts, n < 1024) ∧ s.fget (RF.UPD_SLOT_STATE_STATE 0 0) = 3 ∧ s.updQ 0 = []) := by
  unfold State.NoCap; decide +kernel

/-! Wort and Ethernet: witnesses. -/

/-- Die 0 belongs to partition 0, whose session holds its slot 0. -/
def worted (v : WSlot) : State :=
  { ((training.fset (RF.HIVE_DIEOWN_OWNER 0) 1).fset (RF.HIVE_PART_RDL 0) 65535).fset (RF.ETH_PORT_LINK 0) 2 with
    wort := { sess := [(0, { isOpen := true, slots := [v], keepW := 100 })] } }

/-- READY and RELEASE of slot 0, attempt 0, step 3. -/
def wort1 (kind : Nat) : CellW := mkCell 0 8 0 0 0x0B 0 0 false true 32 0 0 [BitVec.ofNat 8 kind, 0, 0, 0, 3]

theorem test_hyp_wort_slots :
    (let v : WSlot := { step := 3 }
     let s := worted v
     let x := wort1 1
     Cell.good x = true ∧ s.modFenced (Cell.srcMod x) = false ∧ wortCell x 1 = true ∧
     (s.sess (s.owner (Cell.srcTgt x) - 1)).slotOf (Cell.srcTgt x) (Cell.pay x 1 1) = some v ∧
     v.att = Cell.pay x 2 1 ∧ v.step = Cell.pay x 4 4 ∧ v.ready = false ∧ v.sending = false ∧
     ((s.sess (s.owner (Cell.srcTgt x) - 1)).slots.all fun y => !y.sending || decide (y.endSeq ≠ 0)) = true ∧
     ∀ e < 8, s.capState e = 1 → (s.dieCap e).failed = false) ∧
    (let s := training.fset (RF.UPD_SLOT_STATE_STATE 0 0) 2
     let x := wort1 2
     Cell.pay x 1 1 = 0 ∧ Cell.good x = true ∧ s.dieAbsorbs 0 = false ∧ Cell.job x = s.dieJob 0 ∧
     wortCell x 2 = true ∧ s.fget (RF.UPD_SLOT_STATE_STATE 0 0) = 2 ∧ s.updQ 0 = []) ∧
    (let v : WSlot := { ngran := 16 }
     let s : State := { (worted v).setCapState 0 2 with cap := { dies := [(0, { slot := some 0, held := true })] } }
     (s.dieCap 0).slot = some 0 ∧ (s.sess (s.owner 0 - 1)).slotOf 0 0 = some v ∧ (s.dieCap 0).held = true ∧
     s.capState 0 = 2 ∧ s.fits (s.owner 0 - 1) v.ngran = true ∧
     (∃ e < 8, s.dieJob e = (s.dieCap 0).key.job ∧ e ≠ 0 ∧ (s.capState e = 0 ∧ s.dieAbsorbs e = false)) ∧
     (s.hiveCap (s.dieCap 0).key).vec = none ∧
     (∀ e < 8, s.dieJob e = (s.dieCap 0).key.job → s.dieAbsorbs e = false ∧ s.capVote e ≠ 3)) := by decide +kernel

theorem test_hyp_wort_sessions :
    (let s : State := { (State.reset).fset (RF.ETH_PORT_LINK 1) 2 with
       wort := { sess := [(0, { isOpen := true, nextSeq := 3, msgs := [(1, 0, [7]), (2, 0, [8])] })] } }
     (s.sess 0).isOpen = true ∧ (2 : Word64).toNat < (s.sess 0).nextSeq ∧ (s.sess 0).slots = [] ∧
     (s.sess 0).msgs.find? (fun m => m.1 == (2 : Word64).toNat) = some (2, 0, [8]) ∧ s.wortPort 2 = some 1) ∧
    (let s : State := { (State.reset).fset (RF.ETH_PORT_LINK 1) 2 with wort := { sess := [(0, { isOpen := true })] } }
     (s.sess 0).msgs = [] ∧ s.wortPort 0 = some 1) ∧
    (let s := ((State.reset).fset (RF.ETH_PORT_LINK 1) 2).setReg (Reg.ETH_IPL 1) 9
     s.fget (RF.ETH_PORT_LINK 1) ≠ 0 ∧ s.ethAddr 1 ≠ 0) := by decide +kernel

/-! Swarm: witnesses. -/

/-- The state a command answers. -/
def after (o : Host.Outcome State Fault Refusal) : State := match o with | .next t => t | _ => .reset

/-- A group of JOB 0 whose one member is die 0 of this module. -/
def grp : Group := { gid := 3, nmem := 1, capb := 1024, members := [0], gsum := 7, epoch := 2, opto := 1000 }
def grouped : State := { training1 with swm := { groups := [grp] } }

/-- Broadcast of 8 bytes, reduction of one block, permutation of one incoming entry. -/
def swmWords : List (Nat × List (Nat × Nat)) :=
  [(0x80, [(0, 0x80), (8, 3), (64, sramBase + 4096), (128, sramBase + 8192), (192, 8)]),
   (0x81, [(0, 0x81), (8, 3), (64, sramBase + 4096), (128, sramBase + 8192), (192, 1), (224, 8), (256, 16384),
     (288, 20480), (320, sramBase + 24576)]),
   (0x83, [(0, 0x83), (8, 3), (64, 12288), (96, 1), (128, sramBase + 32768), (192, 64)])]

def swmState : State := (grouped.setCapState 0 1).poke 0 (sramBase + 12288)
  (leBytes 8 0x60000 ++ leBytes 4 64 ++ leBytes 2 0x8000 ++ leBytes 2 0 ++ leBytes 8 0 ++ leBytes 8 0)

theorem test_hyp_swarm : ∀ p ∈ swmWords, (let w := p.2
    let s := runs swmState w
    State.Fetches s 9 p.1 (fetched s) (wordOf w) ∧ State.Sound (fetched s) ∧
    pick ((fetched s).swConds 0 (s.coreRec 9).ctx (wordOf w)) = none ∧
    (fetched s).group (s.coreRec 9).ctx.job (swGID (wordOf w)) = some grp ∧ (fetched s).dieIdx grp 0 = some 0 ∧
    (fetched s).swm.opseq.get 0 (0 * 2 ^ 18 + grp.job * 1024 + grp.gid) = 0 ∧ (grp.job, grp.gid, 0) ∉
      (fetched s).swm.badOps ∧ (fetched s).capState 0 = 1 ∧ (fetched s).swm.segs = [] ∧
    (let a := runs (swmState.setCapState 0 6) w
     State.Fetches a 9 p.1 (fetched a) (wordOf w) ∧ State.Sound (fetched a) ∧ (fetched a).capState 0 = 6 ∧
     pick ((fetched a).swConds 0 (a.coreRec 9).ctx (wordOf w)) = none ∧ (fetched a).swm.badOps = [] ∧
     (fetched a).group (a.coreRec 9).ctx.job (swGID (wordOf w)) = some grp)) := by
  unfold State.Fetches State.Sound; decide +kernel

/-- A broadcast that has joined its op, the permutation too: what is left is to complete. -/
def bcastJoined : State := after (exec (.swmBcast 9) (runs swmState [(0, 0x80), (8, 3), (64, sramBase + 4096),
  (128, sramBase + 8192), (192, 8)]))
def permJoined : State := after (exec (.swmPermute 9) (runs { swmState with
  cap := { dies := [(0, { slot := some 0, kind := 1 })] } } [(0, 0x83), (8, 3), (64, 12288), (96, 1),
    (128, sramBase + 32768), (192, 64)]))

/-- The same once the barrier's total has come back. -/
def permReleased : State := { permJoined with swm := { permJoined.swm with
  ops := permJoined.swm.ops.map fun o => { o with released := true } } }

theorem test_hyp_swarm_complete :
    (match bcastJoined.findMember 0 3 0 with
     | some (o, m) => decide (bcastJoined.group o.job o.gid = some grp ∧ m.job.core / 256 = 0 ∧
        bcastJoined.opReady grp o = true ∧ fld m.job.word 0 8 = 0x80 ∧ (bcastJoined.dieCap 0).vote = none ∧
        pick ((bcastJoined.opWrites grp o m).1.flatMap fun x => bcastJoined.rangeConds 0 x.1 x.2.length) = none ∧
        (m.job.core, m.job.seq) ∈ (bcastJoined.dieCap 0).bound ∧ bcastJoined.capState 0 = 1)
     | none => false) = true ∧
    (match permReleased.findMember 0 3 0 with
     | some (o, m) =>
        let ps := (permReleased.permList 0 m.job.word).filter fun e => e.inc
        decide (permReleased.opReady grp o = true ∧ (permReleased.dieCap 0).vote = none ∧
        m.status ≠ stECC ∧ fld m.job.word 0 8 = 0x83 ∧ ps ≠ [] ∧ (permReleased.dieCap 0).slot = some 0 ∧
        (ps.all fun e => decide (
          e.diffoff + e.len ≤ 64 * permReleased.fget (RF.UPD_SLOT_CFG_SIZE64 0) ∧
            e.loc + e.len ≤ permReleased.slotAddr 0 0)) = true ∧
        (ps.all fun e => decide ((permReleased.slotAddr 0 0 +
            slotStride (permReleased.fget (RF.UPD_SLOT_CFG_SIZE64 0)) ≤ swSTG m.job.word + e.stgoff) ∧
          (ps.all fun f => !overlap (f.loc, f.len) (swSTG m.job.word + e.stgoff, e.len)) = true)) = true)
     | none => false) = true ∧ State.Sound permReleased := by unfold State.Sound; decide +kernel

/-- The time limit of the op finds a member whose command no cap holds, and one that an open cap holds. -/
theorem test_hyp_swarm_timeout :
    (match (bcastJoined.setDieCap 0 {}).findMember 0 3 0 with
     | some (o, m) => decide (m.job.core / 256 = 0 ∧ (bcastJoined.setDieCap 0 {}).group o.job o.gid = some grp ∧
        (m.job.core, m.job.seq) ∉ ((bcastJoined.setDieCap 0 {}).dieCap (dieOf m.job.core)).bound)
     | none => false) = true ∧
    (match bcastJoined.findMember 0 3 0 with
     | some (_, m) => decide ((m.job.core, m.job.seq) ∈ (bcastJoined.dieCap 0).bound ∧ bcastJoined.capState 0 = 1 ∧
        (bcastJoined.hiveCap (bcastJoined.dieCap 0).key).vec = none ∧
        bcastJoined.group (bcastJoined.dieCap 0).key.job (bcastJoined.dieCap 0).key.gid = none)
     | none => false) = true := by decide +kernel

/-- Member 0 of a group is here, and another of its members is not. -/
theorem test_hyp_replan : (let g := { grp with nmem := 2, members := [0, 1] }
    let s : State := { State.reset with swm := { groups := [g] } }
    s.group 0 3 = some g ∧ g.cMod = s.module ∧ (∃ m ∈ g.mods, m ≠ s.module) ∧ s.swm.ops = []) := by decide +kernel

/-- A segment cell of the group: bytes 0 to 17 of the payload as given, sequence `q`. -/
def segCell (epoch weight q : Nat) : CellW := mkCell 0 8 5 8 8 0 0 false false 18 6 q
  (leBytes 2 3 ++ [BitVec.ofNat 8 epoch, 0] ++ leBytes 4 0 ++ [BitVec.ofNat 8 weight, 0] ++ leBytes 6 0 ++ leBytes 2 7)

theorem test_hyp_segments :
    ([segCell 2 0 0, segCell 2 0xFF 0, segCell 1 0 0].all fun x => decide (Cell.good x = true ∧
      grouped.modFenced (Cell.srcMod x) = false ∧ Cell.seq x = 0 ∧
      grouped.group (Cell.job x) (bitsN (Cell.pay x 0 2) 0 10) = some grp)) = true ∧
    Cell.pay (segCell 2 0 0) 2 1 = grp.epoch ∧ Cell.pay (segCell 2 0 0) 16 2 = grp.gsum ∧
    Cell.pay (segCell 1 0 0) 2 1 ≠ grp.epoch ∧ grouped.swm.bufCells + 4096 ≤ swmBuf ∧
    (let x := segCell 2 0 1
     let y : Seg := { srcMod := 5, srcTgt := 8, stream := 6, gid := 3, epoch := 2, granted := true }
     let s : State := { grouped with swm := { grouped.swm with segs := [y] } }
     Cell.good x = true ∧ Cell.seq x ≠ 0 ∧ grouped.swm.segs.find? (fun y => y.isKey x) = none ∧
     s.swm.segs.find? (fun y => y.isKey x) = some y ∧ s.group y.job y.gid = some grp ∧ y.opk ≤ 2 ∧
     y.job = Cell.job x ∧ y.total = none ∧ Cell.last x = false) := by decide +kernel

/-! Rings, descriptors and the host: witnesses. -/

/-- Ring 5 of PF0 is ACTIVE: 64 entries each at 0 and 64 KiB, its tail at 1. -/
def ringed (s : State) : State :=
  ((((s.fset (RF.RING_CFG_OWNER 5) 0).fset (RF.RING_STAT_STATE 5) 1).fset (RF.RING_CQ_ADDR 5) 16).setRing 5
    { tail := 1 })

/-- The descriptor of these fields as ring 5 holds it, and the state right after its fetch. -/
def descOf (fs : List (Nat × Nat)) (blk : Bytes) : Desc :=
  { ring := 5, tag := fld (wordOf fs) 16 16, word := wordOf fs, blk := blk }
def descFetched (s : State) (d : Desc) : State :=
  { s.pastHead 5 with host := { (s.pastHead 5).host with descs := (s.pastHead 5).host.descs ++ [d] } }

/-- A SERVE block of die 0 that declares a token time of 0. -/
def serveBlk : Bytes := [2, 1, 1, 0] ++ List.replicate 28 0 ++ [8, 0, 0, 0] ++ List.replicate 12 0

theorem test_hyp_descriptors : ∀ p ∈ [
      (1, [(0, 1), (16, 7), (32, 0), (43, 256), (64, sramBase), (112, 16)], []),
      (2, [(0, 2), (64, 0x1000), (128, sramBase), (192, 8192)], []),
      (2, [(0, 2), (32, 1), (64, 0x1000), (128, sramBase), (192, 16384)], []),
      (3, [(0, 3), (128, 48)], serveBlk),
      (6, [(0, 6), (33, 7), (40, 0x81), (48, 255), (64, 1000), (80, 1), (96, 1)], [])],
    (let s := ringed hosted
     let d := descOf p.2.1 p.2.2
     State.Fetched s 5 p.1 (wordOf p.2.1) p.2.2 d (descFetched s d) ∧ s.host.rq = [] ∧ s.host.wq = [] ∧
     s.host.reqs = [] ∧ s.host.quar = [] ∧ s.host.descs = [] ∧ State.NoDieCap s) := by
  unfold State.Fetched State.NoDieCap; decide +kernel

/-- An HDMA of 16 KiB from an address inside the windows and from one outside them; one from a die, whose port is UP
or is not, to addresses inside the windows and outside them. -/
theorem test_hyp_hdma :
    (let w := [(0, 2), (64, 0x1000), (128, sramBase), (192, 16384)]
     let l := cut4k 6 0x1000 16384 0
     let s := ringed hosted
     hdLen (wordOf w) = 16384 ∧ l.length = 4 ∧ s.readsOk (s.ringFn 5) 0x1000 16384 = true ∧
     (let w := [(0, 2), (64, 2 ^ 52 - 0x1000), (128, sramBase), (192, 4096)]
      let d := descOf w []
      State.Fetched s 5 2 (wordOf w) [] d (descFetched s d) ∧
      s.readsOk (s.ringFn 5) (2 ^ 52 - 0x1000) 4096 = false)) ∧
    (let s := ringed { hosted with host := { hosted.host with credits := 0 } }
     (∀ a ∈ [0x1000, 2 ^ 52 - 0x4000], (
       let w := [(0, 2), (32, 1), (64, a), (128, sramBase), (192, 16384)]
       let d := descOf w []
       State.Fetched s 5 2 (wordOf w) [] d (descFetched s d) ∧ s.host.credits = 0 ∧ State.Sound s ∧
       hdLen (wordOf w) ≤ hdChunk ∧ s.diePortUp (hdDie (wordOf w)) = true ∧
       ((cutPay 34 a 16384 0).all fun q =>
         s.inWindows (s.ringFn 5) q.1 q.2.1 true == decide (a = 0x1000)) = true)) ∧
     (s.fset (RF.FAB_PORT_STATE 32) 1).diePortUp 0 = false) := by
  unfold State.Fetched State.Sound; decide +kernel

/-- A launch for a beat: the die's set-up declares one beat. -/
theorem test_hyp_beat_launch : (let w := [(0, 1), (10, 1), (43, 1), (64, sramBase)]
    let s : State := { ringed hosted with
      host := { (ringed hosted).host with setups := [{ handle := 9, diemask := 1, decls := [(13, 0xFF, 1)] }] } }
    let d := descOf w []
    State.Fetched s 5 1 (wordOf w) [] d (descFetched s d)) ∧
    (let w := [(0, 1), (10, 1), (43, 1), (64, sramBase)]
     let d : Desc := { descOf w [] with st := 1 }
     let s : State := { ringed hosted with tim := { mono := 1000 }, host := { (ringed hosted).host with
       descs := [d], setups := [{ handle := 9, diemask := 1, decls := [(13, 0xFF, 1)] }] } }
     s.desc 5 0 = some d ∧ s.ringState 5 = 1 ∧ s.beatAligned d = true ∧
     pick (s.launchConds (s.ringFn 5) d.word) = none) := by
  unfold State.Fetched; decide +kernel

theorem test_hyp_teardown_reclaim :
    (let w := [(0, 4), (32, 9)]
     let u : Setup := { handle := 9 }
     let s : State := { ringed hosted with host := { (ringed hosted).host with setups := [u] } }
     let d := descOf w []
     State.Fetched s 5 4 (wordOf w) [] d (descFetched s d) ∧
     s.host.setups.find? (fun u => u.handle == fld (wordOf w) 32 16) = some u) ∧
    (∀ p ∈ [(6, [(0, 6), (32, 1), (33, 7)]), (7, [(0, 7), (32, 7), (64, 1000)])],
      (let s := (ringed hosted).fset (RF.HIVE_PART_VALID 7) 1
       let d := descOf p.2 []
       State.Fetched s 5 p.1 (wordOf p.2) [] d (descFetched s d) ∧ s.fget (RF.HIVE_PART_RESET 7) = 0)) := by
  unfold State.Fetched; decide +kernel

/-- An ABORT of tag 8 of ring 6, which has local index 1. -/
theorem test_hyp_abort : ∀ x ∈ ([{ ring := 6, tag := 8, word := 1, st := 3 }, { ring := 6, tag := 8, word := 1 },
      { ring := 6, tag := 8, word := 2, st := 2 }, { ring := 6, tag := 8, word := 1, st := 2, cores := [9] }] : List Desc),
    (let w := [(0, 5), (32, 1), (48, 8)]
     let s0 := ((ringed hosted).fset (RF.RING_CFG_OWNER 6) 0).fset (RF.RING_CFG_LIDX 6) 1
     let s : State := { s0 with host := { s0.host with descs := [x] } }
     let d := descOf w []
     State.Fetched s 5 5 (wordOf w) [] d (descFetched s d) ∧ (descFetched s d).abortTarget d = some x ∧
     (descFetched s d).desc x.ring x.tag = some x ∧ State.NoDieCap s ∧ ∀ c ∈ x.cores, c < 2048) := by
  unfold State.Fetched State.NoDieCap; decide +kernel

theorem test_hyp_completions :
    (let d : Desc := { descOf [(0, 1), (8, 1), (16, 65535)] [] with st := 3 }
     let s : State := { ringed hosted with host := { (ringed hosted).host with descs := [d] } }
     d.ring = 5 ∧ s.complWaits d = false ∧ d.tag < 2 ^ 16 ∧ (s.ringRec 5).held = [] ∧
     (s.ringRec 5).closing = false ∧ s.fget (RF.RING_CQ_LOG2 5) ≤ 10 ∧ State.cqRoom s 5 ∧
     ({ s with host := { s.host with bme := 0 } } : State).bmeOn (s.ringFn 5) = false) ∧
    (let u : Setup := { handle := 9, kind := 3, job := 2, gid := 3 }
     let d : Desc := { descOf [(0, 4), (16, 7), (32, 9)] [] with st := 3, status := stOK }
     let s : State := { ringed hosted with host := { (ringed hosted).host with descs := [d], setups := [u] } }
     s.complWaits d = false ∧ (s.ringRec 5).held = [] ∧ (s.ringRec 5).closing = false ∧ State.cqRoom s 5 ∧
     fld d.word 0 8 = 4 ∧ s.host.setups.find? (fun u => u.handle == fld d.word 32 16) = some u) ∧
    (let rc : Reclaim := { ring := 5, tag := 0, d := 1000, late := true }
     let s0 := ((((ringed hosted).fset (RF.HIVE_DIEOWN_OWNER 3) 8)).setCapState 3 4)
     let s : State := { s0 with host := { s0.host with parts := [(7, { reclaim := some rc })] } }
     (s.part 7).reclaim = some rc ∧ s.owner 3 = 8 ∧ s.capState 3 = 4 ∧ s.reclaimReady 7 false = false ∧
     s.reclaimReady 7 rc.late = true ∧ s.fget (RF.HIVE_PART_RESET 7) = 0 ∧ s.ringFn rc.ring ≠ 8) ∧
    (let v : WSlot := { sending := true }
     let rc : Reclaim := { ring := 5, tag := 0, d := 1000 }
     let s : State := { State.reset with
       host := { parts := [(7, { reclaim := some rc })] }, wort := { sess := [(7, { slots := [v] })] } }
     (s.part 7).reclaim = some rc ∧ ∃ w ∈ (s.sess 7).slots, w.sending = true) ∧
    (let rc : Reclaim := { ring := 5, tag := 0, d := 1000 }
     let d : Desc := { descOf [(0, 7), (32, 7)] [] with st := 2 }
     let s0 := (ringed hosted).fset (RF.HIVE_DIEOWN_OWNER 3) 8
     let s : State := { s0 with host := { s0.host with descs := [d], parts := [(7, { reclaim := some rc })] } }
     (s.part 7).reclaim = some rc ∧ s.fget (RF.HIVE_PART_RESET 7) = 0 ∧ s.reclaimReady 7 rc.late = true ∧
     s.desc rc.ring rc.tag = some d ∧ s.ringFn rc.ring ≠ 8) := by
  unfold State.cqRoom; decide +kernel

theorem test_hyp_rings :
    (let s := ringed hosted
     s.ringOf 0 0 = some 5 ∧ qEntries (s.fget (RF.RING_SQ_LOG2 5)) ≤ fld (64 : BitVec 32) 0 16 ∧
     fld (63 : BitVec 32) 0 16 < qEntries (s.fget (RF.RING_SQ_LOG2 5)) ∧
     fld (63 : BitVec 32) 0 16 < qEntries (s.fget (RF.RING_CQ_LOG2 5)) ∧ (s.ringRec 5).held = [] ∧
     (s.ringRec 5).closing = false ∧ s.host.descs = [] ∧ s.ringState 5 = 1) ∧
    (let s := (ringed hosted).setRing 5 { held := [([1], true)], irq := 1, head := 1 }
     (s.ringRec 5).irq ≠ 0 ∧ (s.ringRec 5).held = [([1], true)] ∧ State.cqRoom (s.setRing 5 { s.ringRec 5 with head := 63 }) 5) ∧
    (let s := (ringed hosted).fset (RF.RING_STAT_STATE 5) 0
     s.fget (RF.RING_CFG_EN 5) = 0 ∧ s.ringState 5 = 0 ∧ s.fget RF.QN_BOOT_STAT_READY = 0 ∧
     (s.fset RF.QN_BOOT_STAT_READY 1).fget RF.QN_BOOT_STAT_READY ≠ 0 ∧
     pick ((s.fset RF.QN_BOOT_STAT_READY 1).ringConds 0 5) = none ∧
     pick ((s.fset RF.QN_BOOT_STAT_READY 1).ringConds 1 5) = some 0x6B03) := by
  unfold State.cqRoom; decide +kernel

theorem test_hyp_pcie :
    State.HostIdle hosted ∧
    (let s := (ringed hosted).fset (RF.RING_STAT_STATE 5) 2
     s.ringFn 5 = 0 ∧ s.ringState 5 = 2 ∧ (s.ringRec 5).frzRcl = false ∧ (s.ringRec 5).held = [] ∧
     (s.ringRec 5).closing = false) ∧
    ((State.reset).fset (RF.HIVE_PART_VALID 7) 1).partOn 7 = true ∧ (∀ p < 8, State.reset.partOn p = false) ∧
    (let j : Job := { core := 9, seq := 3, waits := 1, status := stDEGRADED }
     let q : HReq := { kind := 4, core := 9, seq := 3 }
     let s : State := { hosted with host := { hosted.host with reqs := [(1023, q)] }, eng := { ceq := [(0, [j])] } }
     s.copyJob q.core q.seq = some j ∧ q.discard = false ∧ s.host.rq = []) ∧
    (let q : HReq := { ring := 5, len := 4096, discard := true }
     ({ hosted with host := { hosted.host with reqs := [(1023, q)] } } : State).host.rq = []) ∧
    (let q : HReq := { ring := 5, len := 4096 }
     let d : Desc := { descOf [(0, 2), (192, 4096)] [] with st := 2 }
     let s : State := { ringed hosted with host := { (ringed hosted).host with reqs := [(1023, q)], descs := [d] } }
     s.host.reqs = [(1023, q)] ∧ s.desc q.ring q.tag = some d ∧ d.gathered = [] ∧ q.len = hdLen d.word ∧
     0 < q.len ∧ q.len ≤ hdChunk ∧ s.freeId 8 = some 0 ∧
     s.host.reqs.find? (fun e => e.1 == 1023) = some (1023, q)) ∧
    (let d : Desc := { descOf [(0, 2), (32, 1)] [] with st := 2 }
     let s : State := { State.reset with host := { descs := [d] } }
     s.desc 5 0 = some d ∧ fld d.word 0 8 = 2 ∧ bit d.word 32 = true) ∧
    (let h : HWrite := { data := [1, 2], owner := .hdma 5 0, gate := some 0 }
     let s : State := { hosted with host := { hosted.host with wq := [h] } }
     s.host.wq = [h] ∧ s.bmeOn h.fn = true ∧ s.diePortUp 0 = true ∧ s.inWindows h.fn h.addr h.data.length true = true ∧
     h.data.length ≤ s.host.credits + 0) ∧
    ((State.reset).fset RF.LOG_STAT_QRST 1).fget RF.LOG_STAT_QRST = 1 := by
  unfold State.HostIdle; decide +kernel

/-! Cells: witnesses. -/

/-- An addressed cell from module 5 to die 0. -/
def addrCell (type len off : Nat) (data : Bytes) : CellW :=
  mkCell 0 0 5 1 type 0 0 false true len 6 0 (addrPay off 0 data)

theorem test_hyp_addressed_cells :
    (let x := addrCell 1 48 (sramBase + sramSize - 40) (List.replicate 40 7)
     State.CellIn State.reset 0 1 x ∧ Cell.isReg x (Cell.len x - 8) = false ∧
     State.reset.pgenOk 0 x (Cell.pgen x) = true ∧ State.Sound State.reset ∧
     pick (State.reset.rangeConds 0 (Cell.off x) (Cell.len x - 8)) = none) ∧
    (let x := addrCell 1 48 (sramBase + sramSize - 39) (List.replicate 40 7)
     State.CellIn State.reset 0 1 x ∧ Cell.isReg x (Cell.len x - 8) = false ∧
     (pick (State.reset.rangeConds 0 (Cell.off x) (Cell.len x - 8))).isSome = true) ∧
    (let x := addrCell 2 12 (cntOff 1023) [1, 0, 0, 0]
     State.CellIn State.reset 0 2 x ∧ State.reset.pgenOk 0 x (Cell.pgen x) = true ∧
     Cell.off x = cntOff 1023 ∧ Cell.job x = State.reset.dieJob 0 ∧ Cell.len x = 12) ∧
    (let x := mkCell 0 0 5 1 3 0 0 false true 32 6 0 (addrPay sramBase 0 (leBytes 3 48 ++ leBytes 4 0 ++ leBytes 2 1 ++
       leBytes 7 (5 * 2 ^ 44)))
     State.CellIn State.reset 0 3 x ∧ Cell.regAt 0 x (Cell.pay x 8 3) = false ∧
     State.reset.pgenOk 0 x (Cell.pgen x) = true ∧ Cell.pay x 8 3 * Cell.pay x 15 2 = 48 ∧
     pick ((rdRows x).flatMap fun r => State.reset.rangeConds 0 r.1 r.2) = none ∧ State.reset.freeId 0 = some 0) := by
  unfold State.CellIn State.Sound; decide +kernel

/-- Cells of another generation, at an absorbing port, for a register, and of a row whose channel has failed. -/
theorem test_hyp_cells_turned_away :
    (let s := (State.reset).fset (RF.FAB_NI_CFG_PGEN 0) 1
     (let x := addrCell 1 48 sramBase (List.replicate 40 7)
      State.CellIn s 0 1 x ∧ Cell.isReg x 40 = false ∧ s.pgenOk 0 x (Cell.pgen x) = false) ∧
     (let x := mkCell 0 0 5 1 4 0 0 false true 28 6 0 (sopenPay sramBase 100 100 0 100 1023 true 0 true 5 1 6)
      State.CellIn s 0 4 x ∧ s.pgenOk 0 x (rxOpen x).pgen = false)) ∧
    ((State.reset).fset (RF.QN_DIE_MAP_STATE 7) 2).dieAbsorbs 7 = true ∧
    (let x := mkCell 0 8 5 8 1 0 0 false true 16 6 0 (addrPay (0xFF00000000 + Reg.HIVE_IMASK) 0 (leBytes 8 1))
     Cell.good x = true ∧ Cell.type x = 1 ∧ Cell.regAt 8 x (Cell.len x - 8) = true ∧
     cellReg 8 x = some Reg.HIVE_IMASK) ∧
    (let s := (State.reset).fset (RF.MEM_CHMAP_FAILED 0) 0xFFFF
     let x := mkCell 0 0 5 1 3 0 0 false true 32 6 0 (addrPay 4096 0 (leBytes 3 48 ++ leBytes 4 0 ++ leBytes 2 1 ++
       leBytes 7 (5 * 2 ^ 44)))
     let s1 := (s.fset (RF.MEM_CAP_USABLE 0) 0x40000000).fset (RF.MEM_CHMAP_INSVC 0) 0xFFFF
     State.CellIn s1 0 3 x ∧ Cell.regAt 0 x (Cell.pay x 8 3) = false ∧ s1.pgenOk 0 x (Cell.pgen x) = true ∧
     0 < Cell.pay x 8 3 * Cell.pay x 15 2 ∧ bitsN (Cell.pay x 17 7) 40 4 ≤ 8 ∧
     pick ((rdRows x).flatMap fun r => s1.rangeConds 0 r.1 r.2) = none ∧
     (rdRows x).any (s1.rangeFailed 0) = true) := by
  unfold State.CellIn; decide +kernel

/-- A stream of 100 bytes to SRAM offset 0 of die 0 whose last data cell, of 4 bytes, moves counter 1023. -/
def openCell : CellW := mkCell 0 0 5 1 4 0 0 false true 28 6 0
  (sopenPay sramBase 100 100 0 100 1023 true 0 true 5 1 6)
def dataCell (q : Nat) : CellW := mkCell 0 0 5 1 5 0 0 false (q = 2) (if q = 2 then 4 else 48) 6 q []
def rx100 : RxCtx := { rxOpen openCell with got := [0, 1] }

theorem test_hyp_stream_cells :
    (State.CellIn State.reset 0 4 openCell ∧ State.reset.pgenOk 0 openCell (rxOpen openCell).pgen = true ∧
     (rxOpen openCell).total = 100 ∧ (rxOpen openCell).col0 < (rxOpen openCell).lenRow ∧
     State.reset.pgenOk 0 openCell 1 = false ∧
     pick ((rxRanges (rxOpen openCell)).flatMap fun r => State.reset.rangeConds 0 r.1 r.2) = none) ∧
    State.CellIn State.reset 0 5 (dataCell 0) ∧
    (let s : State := { State.reset with fab := { rx := [(0, [rx100])] } }
     let x := dataCell 2
     State.CellIn s 0 5 x ∧
     (s.rxOf 0).find? (fun y => y.isKey (Cell.srcMod x) (Cell.srcTgt x) (Cell.stream x)) = some rx100 ∧
     rx100.job = Cell.job x ∧ s.pgenOk 0 x rx100.pgen = true ∧ 48 * Cell.seq x + Cell.len x = rx100.total ∧
     s.gatherOf 0 rx100 = none ∧ State.Sound s ∧ Cell.seq x ∉ rx100.got ∧ rx100.rcnt < 1024 ∧
     rx100.got.length + 1 = (rx100.total + 47) / 48 ∧ rx100.rcen = true ∧ rx100.final = true) := by
  unfold State.CellIn State.Sound; decide +kernel

/-- Transfer 65535 of die 0, a remote SIG of core 9 without its ACK. -/
def xfer9 : Xfer := { owner := .cmd 9 2, cells := [addrCell 2 12 (cntOff 1) [1, 0, 0, 0]] }
def xfers (v : Xfer) : State := { State.reset with fab := { xfers := [(65535, v)] } }

theorem test_hyp_transfers :
    ([({ xfer9 with owner := .none } : Xfer), xfer9].all fun v =>
      (let x := mkCell 0 0 5 1 6 0 0 false true 8 0 0 (ackPay 0 0 65535 0)
       let y := mkCell 0 0 5 1 7 0 0 false true 8 0 0 (ackPay 0x0A 1 65535 0)
       let z := mkCell 0 0 5 1 7 0 0 false true 8 0 0 (ackPay 0 2 65535 0)
       decide (State.dieAbsorbs (xfers v) 0 = false) && decide ((xfers v).fab.xfers.get {} (xKey 0 65535) = v) &&
       decide (v ≠ {}) && [(x, 6), (y, 7), (z, 7)].all fun p => decide (Cell.good p.1 = true ∧ Cell.type p.1 = p.2 ∧
         Cell.pay p.1 2 2 = 65535 ∧ Cell.job p.1 = 0))) = true ∧
    nackStatus xfer9 stTIMEOUT = true ∧ nackStatus xfer9 stREFUSED = true ∧ nackStatus xfer9 0x0D = false ∧
    (let g : Group := { gid := 3, nmem := 1, members := [5 + 4096 * 8], job := 1 }
     let s : State := { State.reset with
       swm := { groups := [g] }, cap := { aborts := [(⟨1, 3, 0, 0⟩, 9, 2)] } }
     let x := mkCell 0 8 5 8 7 0 1 false true 8 0 0 (ackPay stTOOLATE 0 5 0)
     Cell.good x = true ∧ Cell.type x = 7 ∧ Cell.pay x 0 1 = stTOOLATE ∧ Cell.pay x 2 2 = 5 ∧
     s.modFenced (Cell.srcMod x) = false ∧
     s.cap.aborts.find? (fun a => decide (a.1.job = Cell.job x) &&
        (s.group a.1.job a.1.gid).any fun g => g.cMod == Cell.srcMod x) = some (⟨1, 3, 0, 0⟩, 9, 2)) ∧
    ((List.range 2).all fun n =>
      let j : Job := { core := 9, seq := 2, started := true, waits := n, word := wordOf [(0, 0x50), (12, 2)] }
      let v : Xfer := { owner := .cmd 9 2, acks := 1 }
      let s : State := { hosted with fab := { xfers := [(65535, v)] }, eng := { ceq := [(0, [j])] } }
      decide (s.fab.xfers.get {} (xKey 0 65535) = v ∧ s.bmeOn (s.owner 0) = true ∧ s.copyJob 9 2 = some j ∧
        s.ceQ 0 (cpCE j.word) = [j] ∧ s.smp.parts = [] ∧ s.capState 0 = 0 ∧ s.cap.hives = [])) = true ∧
    State.PlainOwner (xfers xfer9) 9 2 ∧ State.NoCap (xfers xfer9) 0 ∧
    ((xfers { xfer9 with restart := true }).xferEnd 0 65535).freeId 0 = some 0 ∧
    (let s : State := { State.reset with fab := { idHold := [(65535, 1)], idWait := [(0, [xfer9])] } }
     s.fab.idHold.get 0 (xKey 0 65535) ≠ 0 ∧ s.fab.idWait.get [] 0 = xfer9 :: []) ∧
    (let s : State := { State.reset with fab := { orphans := [(0, [dataCell 1])], rx := [(0, [rx100])] } }
     s.fab.orphans.get [] 0 = [] ++ dataCell 1 :: [] ∧ Cell.type (dataCell 1) = 5 ∧ Cell.srcMod (dataCell 1) = 5 ∧
     Cell.srcTgt (dataCell 1) = 1 ∧ Cell.stream (dataCell 1) = 6 ∧ ∃ y ∈ s.rxOf 0, y.isKey 5 1 6 = true) := by
  unfold State.PlainOwner State.NoCap; decide +kernel

/-! Capping: witnesses. -/

/-- A CAPG group of JOB 1: this module's hive, alone, or with the hives of modules 7 (coordinator) and 8. -/
def cgrp (ms : List Nat) (witv : Bool) : Group :=
  { job := 1, gid := 3, nmem := ms.length, capg := true, witv := witv, wit := if witv then 1 else 0, members := ms }
def ckey : CapKey := ⟨1, 3, 5, 2⟩

/-- Core 9 works for JOB 1, step 5; die 0 too; the group is loaded; `dc` is die 0's cap, in state `st`. -/
def capped (g : Group) (st : Nat) (dc : DieCap) : State :=
  { (((State.reset.fset (RF.FAB_NI_CFG_JOB 0) 1).setCapState 0 st).setCoreRec 9
      { ({} : CoreRec) with ctx := { ({} : CoreRec).ctx with job := 1, step := 5 } }) with
    swm := { groups := [g] }, cap := { dies := [(0, dc)] } }

theorem test_hyp_cap_commands :
    (let w := [(0, 0x84), (8, 3), (18, 1), (24, 2)]
     let s := runs (capped (cgrp [0x8000] false) 0 {}) w
     State.Fetches s 9 0x84 (fetched s) (wordOf w) ∧ reservedZero (wordOf w) [(0, 20), (24, 8)] = true ∧
     (fetched s).capState 0 = 0 ∧ fld (wordOf w) 18 2 < 2 ∧ (s.coreRec 9).ctx.job ≠ 0 ∧
     (fetched s).group (s.coreRec 9).ctx.job (fld (wordOf w) 8 10) = some (cgrp [0x8000] false) ∧
     ((cgrp [0x8000] false).index ((fetched s).module + 4096 * 8)).isSome = true) ∧
    (let w := [(0, 0x85), (16, 2), (32, 1023)]
     let s := runs (capped (cgrp [0x8007] false) 1 { key := ckey, bound := [(9, 1)] }) w
     State.Fetches s 9 0x85 (fetched s) (wordOf w) ∧ reservedZero (wordOf w) [(0, 8), (16, 2), (32, 10)] = true ∧
     (fetched s).capState 0 = 1 ∧ fld (wordOf w) 16 2 = 2 ∧ ((fetched s).dieCap 0).vote = none ∧
     ((fetched s).dieCap 0).bound ≠ []) ∧
    (let w := [(0, 0x85)]
     let s := runs ((capped (cgrp [0x8007] false) 1 { key := ckey }).fset (RF.FAB_NI_CFG_JOB 7) 1) w
     State.Fetches s 9 0x85 (fetched s) (wordOf w) ∧ ((fetched s).dieCap 0).bound = [] ∧
     ((fetched s).dieCap 0).slot = none ∧ ((fetched s).dieCap 0).failed = false ∧ (fetched s).noRate 0 = false ∧
     (fetched s).dieJob 7 = ((fetched s).dieCap 0).key.job ∧
     (fetched s).capState 7 = 0 ∧ (∀ e < 8, (fetched s).dieAbsorbs e = false ∧ (fetched s).capVote e ≠ 3) ∧
     ((fetched s).hiveCap ((fetched s).dieCap 0).key).vec = none) := by
  unfold State.Fetches; decide +kernel

theorem test_hyp_cap_abort_seal :
    (let w := [(0, 0x86)]
     let g := cgrp [0x8007, 0x8000] false
     let s := runs (capped g 1 { key := ckey }) w
     s.sealWord 9 false = true ∧ State.Fetches s 9 0x86 (fetched s) (wordOf w) ∧
     reservedZero (wordOf w) [(0, 9)] = true ∧ (fetched s).group 1 3 = some g ∧ g.cMod ≠ (fetched s).module) ∧
    (let w := [(0, 0x86), (8, 1)]
     let g := cgrp [0x8007, 0x8000] true
     let s0 := capped g 1 { key := ckey }
     let s := runs { s0 with saf := { s0.saf with fence := [{ md := 7 }] } } w
     s.sealWord 9 true = true ∧ State.Fetches s 9 0x86 (fetched s) (wordOf w) ∧
     reservedZero (wordOf w) [(0, 9)] = true ∧ (fetched s).group 1 3 = some g ∧ g.witv = true ∧
     g.wMod = (fetched s).module ∧ (fetched s).modFenced g.cMod = true ∧ (fetched s).witCap ckey = none) := by
  unfold State.Fetches; decide +kernel

theorem test_hyp_cap_commits : (let w := [(0, 0x85), (32, 1023)]
    let g := cgrp [0x8000] false
    let s := runs (capped g 1 { key := ckey, dcnts := [0, 1023] }) w
    State.Fetches s 9 0x85 (fetched s) (wordOf w) ∧ reservedZero (wordOf w) [(0, 8), (16, 2), (32, 10)] = true ∧
    fld (wordOf w) 16 2 = 0 ∧ (fetched s).capState 0 = 1 ∧ ((fetched s).dieCap 0).vote = none ∧
    ((fetched s).dieCap 0).bound = [] ∧ ((fetched s).dieCap 0).slot = none ∧ ((fetched s).dieCap 0).sour = false ∧
    ((fetched s).dieCap 0).held = false ∧ ((fetched s).dieCap 0).failed = false ∧ (fetched s).noRate 0 = false ∧
    (fetched s).dieJob 0 = 1 ∧ (fetched s).dieAbsorbs 0 = false ∧
    (∀ e < 8, e ≠ 0 → (fetched s).dieJob e ≠ 1 ∧ (fetched s).capState e = 0) ∧ (fetched s).group 1 3 = some g ∧
    g.nmem = 1 ∧ g.members = [(fetched s).module + 4096 * 8] ∧ (fetched s).cap.hives = [] ∧
    (fetched s).cap.coord = [] ∧ (fetched s).cap.aborts = []) := by
  unfold State.Fetches; decide +kernel

/-- Vectors for every case of the decision. -/
theorem test_hyp_decision : decision [1, 1] false = stOK ∧ decision [1, 1] true = stABORTED ∧
    decision [1, 0] false = stCAPFAILED ∧ decision [3, 2] false = stCAPFAILED ∧ decision [1, 2] false = stSOUR := by
  decide +kernel

/-- A CAPV cell of the cap from module 7's hive, with one byte of a vector. -/
def capvX (ck ofs v : Nat) : CellW :=
  mkCell 0 8 7 8 9 0 1 false true 48 0 0 (capvPay ckey ck false ofs [BitVec.ofNat 8 v])

theorem test_hyp_capv :
    (let own := cgrp [0x8000, 0x8007] false
     let far := cgrp [0x8007, 0x8000] false
     ([0, 1, 2, 3, 4, 5].all fun ck => [own, far].all fun g => let x := capvX ck 0 5
       decide (Cell.good x = true ∧ (capped g 0 {}).modFenced (Cell.srcMod x) = false ∧ Cell.pay x 5 1 = ck ∧
         capvKey x = ckey ∧ (capped g 0 {}).group (capvKey x).job (capvKey x).gid = some g)) = true ∧
     far.cMod ≠ (capped far 0 {}).module ∧ own.cMod = (capped own 0 {}).module ∧
     (let s := { capped own 0 {} with cap := { coord := [{ key := ckey, vec := [0, 0] }] } }
      let v := orVec [0, 0] (unpackVec 2 [(4 : Byte)])
      s.coordCap ckey = some { key := ckey, vec := [0, 0] } ∧ v = [0, 1] ∧
      v.all (fun y => decide (y ≠ 2 ∧ y ≠ 3)) = true ∧ v.any (fun y => decide (y ≠ 1)) = true) ∧
     (let s := { capped own 0 {} with cap := { coord := [{ key := ckey, st := 2, vec := [1, 1] }] } }
      s.coordCap ckey = some { key := ckey, st := 2, vec := [1, 1] }) ∧
     (let s := { capped far 0 {} with cap := { hives := [{ key := ckey, vec := some [1, 1] }] } }
      s.heldVec ckey = some ([1, 1], false)) ∧
     (let s := { capped own 0 {} with cap := { hives := [{ key := ckey, vec := some [1, 1] }] } }
      (s.hiveCap ckey).vec = some [1, 1] ∧ own.cMod = s.module ∧ Cell.srcMod (capvX 0 0 5) ≠ s.module) ∧
     (let s := { capped own 0 {} with cap := { coord := [{ key := { ckey with att := 3 } }] } }
      own.cMod = s.module ∧ s.heldVec ckey = none ∧ s.coordCap ckey = none ∧ ckey.att < s.newestAtt ckey)) ∧
    (let far := cgrp [0x8007, 0x8000] false
     let s := capped far 0 {}
     (s.hiveCap ckey).vec = none ∧ State.NoDieCap s ∧ s.cap.aborts = [] ∧ s.witCap ckey = none ∧
     capvWhole far (capvJoin [] (capvX 1 0 5)) = some [1, 1] ∧
     capvWhole far (capvJoin [] (capvX 1 38 5)) = none) := by
  unfold State.NoDieCap; decide +kernel

theorem test_hyp_cap_timers :
    (let n : CapName := ⟨1, 3, 5, 2⟩
     let g := cgrp [0x8007, 0x8000] false
     let s := { capped g 2 { key := ckey, vote := some (0, 2047, 3, 1023) } with
       cap := { dies := [(0, { key := ckey, vote := some (0, 2047, 3, 1023) })], coord := [{ key := ckey }] } }
     capKeyOf n = ckey ∧ s.coordCap ckey = some { key := ckey } ∧ s.group 1 3 = some g ∧ s.capState 0 = 2 ∧
     (s.hiveCap (s.dieCap 0).key).askW = false ∧ g.cMod ≠ s.module ∧ (s.dieCap 0).held = false ∧
     (s.dieCap 0).vote = some (0, 2047, 3, 1023)) ∧
    (let g := cgrp [0x8007, 0x8000] false
     let s := capped g 1 { key := ckey }
     s.capState 0 = 1 ∧ s.group 1 3 = some g ∧ g.cMod ≠ s.module ∧ (s.hiveCap (s.dieCap 0).key).vec = none) ∧
    (let g := { cgrp [0x8007, 0x8000] false with job := 0 }
     let k : CapKey := ⟨0, 3, 5, 2⟩
     let s := { State.reset with swm := { groups := [g] }, fab := { sw := some (3, 5, 2) }
                                 cap := { hives := [{ key := k, vote := 1 }] } }
     s.swAsks = some k ∧ s.group 0 3 = some g ∧ (s.hiveCap k).askW = false ∧ g.cMod ≠ s.module) ∧
    (let n : CapName := ⟨1, 3, 5, 2⟩
     ([3, 4].all fun st =>
       let s := { State.reset with cap := { coord := [{ key := ckey, st := st }] } }
       s.coordCap (capKeyOf n) == some { key := ckey, st := st }) = true) := by decide +kernel

/-! Links, router and route banks: witnesses. -/

/-- A WR cell of generation `gen` from module 5 to a target of module `md`. -/
def cellTo (md tgt gen : Nat) : CellW := mkCell md tgt 5 1 1 gen 0 false true 16 0 0 []

/-- Bank 0 is ACTIVE with generation 0 and one entry: module 9 by port 3, in phase 2. Port 3 is UP with `cr` credits
for VC4. -/
def routed (cr : Nat) : State :=
  let s := (State.reset.fset RF.RT_GEN_BANK0 4).fset (RF.FAB_PORT_STATE 3) 3
  { s with fab := { s.fab with rt := [(9, 3 + 64 * 3 + 2 * 2 ^ 12 + 2 ^ 15)]
                               links := [(3, { credits := [0, 0, 0, 0, cr, 0, 0, 0] })] } }

theorem test_hyp_forward :
    ([(0, cellTo 0 8 0), (0, cellTo 10 0 0), (0, cellTo 9 0 1), (0, cellTo 9 0 0), (0, cellTo 0 7 0)].all fun x =>
      decide ((routed 1).logi x.1 = some x.1 ∧ (routed 1).fencedCell x.2 = false ∧ Cell.badHead x.2 = false ∧
        Cell.vc x.2 ≠ 6)) = true ∧
    (routed 1).lookup 0 (cellTo 0 8 0) = .internal ∧ (routed 1).lookup 0 (cellTo 10 0 0) = .noroute false ∧
    (routed 1).lookup 0 (cellTo 9 0 1) = .stale ∧ (routed 1).lookup 0 (cellTo 9 0 0) = .port 3 4 ∧
    (routed 1).lookup 0 (cellTo 0 7 0) = .port 39 0 ∧ (routed 1).dieAbsorbs 7 = false ∧
    Cell.job (cellTo 0 7 0) = 0 ∧ ((routed 1).link 3).queue = [] ∧ ((routed 1).link 39).queue = [] ∧
    (routed 1).portState 3 = 3 ∧ (routed 1).canSend 3 4 = true ∧ (routed 0).canSend 3 4 = false ∧
    (let c := putFld (cellTo 9 0 1) 40 4 (routed 1).gen
     (routed 1).fencedCell c = false ∧ Cell.badHead c = false ∧ Cell.job c = (routed 1).dieJob 0 ∧
     (routed 1).lookup 32 c = .port 3 4) := by decide +kernel

/-- A control word: these fields, and its CRC. -/
def ctlOf (fs : List (Nat × Nat)) : BitVec 128 :=
  let n := (fs.map fun f => f.2 * 2 ^ f.1).sum
  BitVec.ofNat 128 (n + crc16 (leBytes 14 n) * 2 ^ 112)

theorem test_hyp_links :
    (let x := cellTo 0 8 0
     let s := (routed 1).setLink 3 { credits := [0, 0, 0, 0, 1, 0, 0, 0], replay := [(4094, x), (4095, x)] }
     s.logi 3 = some 3 ∧ s.carries 3 = true ∧
     (let tag : BitVec 16 := BitVec.ofNat 16 (2 ^ 12 + 1)
      bit tag 12 = true ∧ fld tag 0 12 ≠ (s.link 3).rx) ∧
     (let tag : BitVec 16 := BitVec.ofNat 16 (linkTag 0 x)
      bit tag 12 = false ∧ Cell.good x = true ∧ b2n (bit tag 13) = hpar x ∧ fld tag 0 12 = (s.link 3).rx) ∧
     (let tag : BitVec 16 := BitVec.ofNat 16 (linkTag 1 x)
      bit tag 12 = false ∧ fld tag 0 12 ≠ (s.link 3).rx) ∧
     (let tag : BitVec 16 := BitVec.ofNat 16 (2 ^ 12)
      bit tag 12 = true ∧ fld tag 0 12 = (s.link 3).rx) ∧
     skewOk [⟨0, 0, 40⟩, ⟨1, 0, 0⟩] = true ∧ skewOk [⟨0, 0, 0⟩, ⟨1, 0, 41⟩] = false ∧ (∀ x ∈ [(⟨0, 15, 0⟩ : LaneRx)], x.errs.toNat ≤ fecMax) ∧
     fecMax < (16 : BitVec 10).toNat ∧ (s.fset (RF.FAB_PORT_STATE 39) 3).carries 39 = true ∧
     (s.portState 3 = 2 ∨ s.portState 3 = 3) ∧
     ([ctlOf [(26, 1)], ctlOf [(12, 1), (0, 4094)], ctlOf [(12, 1), (0, 4094), (25, 1), (13, 4095)]].all fun cw =>
       decide (fld cw 112 16 = crc16 (leBytes 14 cw.toNat) ∧ fld cw 96 3 = 0)) = true ∧
     ([ctlOf [(26, 1)], ctlOf [(12, 1), (0, 4094)], ctlOf [(99, 6)]].all fun cw =>
       let sl : BitVec 132 := BitVec.ofNat 132 (cw.toNat * 16 + 6)
       decide (sl.toNat % 16 = 6 ∧ BitVec.ofNat 128 (sl.toNat / 16) = cw)) = true ∧
     (9 : BitVec 132).toNat % 16 ≠ 6 ∧
     (let u := ((s.fset (RF.FAB_PORT_STATE 3) 1).fset (RF.OPT_PORT_STAT_TSTAGE 3) 6)
      u.portState 3 = 1 ∧ u.fget (RF.OPT_PORT_STAT_TSTAGE 3) = 6) ∧
     bit (ctlOf [(99, 6)]) 26 = false ∧ fld (ctlOf [(99, 6)]) 96 3 = 0 ∧ fld (ctlOf [(99, 6)]) 99 3 = 6 ∧
     bit (ctlOf [(26, 1)]) 26 = true ∧ bit (ctlOf [(12, 1), (0, 4094)]) 26 = false ∧
     bit (ctlOf [(12, 1), (0, 4094)]) 25 = false ∧
     (let cw := ctlOf [(12, 1), (0, 4094), (25, 1), (13, 4095)]
      bit cw 26 = false ∧ bit cw 25 = true ∧ (s.link 3).replay.findIdx? (fun e => e.1 == fld cw 0 12) = some 0 ∧
      ((s.link 3).replay.drop 1).findIdx? (fun e => e.1 == fld cw 13 12) = some 0) ∧ (s.link 3).queue = [] ∧
     (let y := mkCell 0 8 5 8 13 0 0 false true 16 0 0 []
      Cell.good y = true ∧ Cell.type y = 13 ∧ s.fencedCell y = false)) := by decide +kernel

/-- A management cell that the router may forward; the queue with room and without. -/
theorem test_hyp_management : (let y := mkCell 0 8 5 8 13 0 0 false true 16 0 0 []
    Cell.vc y = 6 ∧ (routed 1).fencedCell y = false ∧ Cell.badHead y = false ∧ (routed 1).logi 0 = some 0) ∧
    (∀ y : CellW, Config.mgmtQueue ≤ ({ State.reset with fab := { mgmtQ := List.replicate Config.mgmtQueue (0, y) } } :
      State).fab.mgmtQ.length) := by
  refine ⟨by decide +kernel, fun y => ?_⟩
  simp

/-- A wiring table of module 0 alone, with no port connected. -/
def wireTbl : Bytes :=
  let t := fun (crc : Nat) => [0, 0, 1, 0, 0, 0, 0, 0] ++ leBytes 4 crc ++ List.replicate 564 (0 : Byte)
  t (crc32c (t 0))

theorem test_hyp_route_banks :
    (let s := ((State.reset.fset (RF.FAB_PORT_STATE 31) 2).setLink 31 { credits := [0, 0, 0, 0, 0, 0, 1, 0] })
     s.logi 31 = some 31 ∧ s.portState 31 = 2 ∧ (s.link 31).ident = false ∧ (s.link 31).queue = [] ∧
     s.canSend 31 6 = true ∧ (s.setLink 31 {}).canSend 31 6 = false ∧ s.bankLive 0 = false ∧ s.bankLive 1 = false ∧
     s.identCode 31 (leBytes 24 (2 ^ 15)) ≠ 0 ∧
     (let wire : Bytes := List.replicate 560 0 ++ [3, 0, 7, 0, 31, 0] ++ List.replicate 10 0
      let u : State := { s with boot := { s.boot with wire := wire } }
      u.logi 31 = some 31 ∧ u.portState 31 = 2 ∧ u.identCode 31 (leBytes 24 (7 + 31 * 2 ^ 16 + 3 * 2 ^ 24)) = 0)) ∧
    (let s0 := (routed 1).fset RF.RT_GEN_BANK1 2
     let s : State := { s0 with fab := { s0.fab with bankGen := [(1, 1)], rtxWait := [3] } }
     s.logi 3 = some 3 ∧ s.portState 3 = 3 ∧ s.bank 1 = 2 ∧ s.fab.bankGen.get 0 1 = 1 ∧
     s.fab.bankGen.get 0 0 ≠ 1 ∧ s.fab.rtxWait = [3] ∧ s.rtxGood 1 [] = true ∧ s.rtxGood 1 [0x10] = false ∧
     (s.fset (RF.FAB_PORT_STATE 3) 0).portState 3 ≠ 3) ∧
    (let s := (((routed 1).fset (RF.FAB_PORT_STATE 3) 2).fset (RF.QN_TOPO_PORT 0 3) 0).setLink 3 { ident := true }
     s.portState 3 = 2 ∧ s.topo 3 = 0 ∧ (s.link 3).ident = true ∧ (∀ b < 2, s.bank b ≠ 2) ∧
     (∀ b < 2, s.bankLive b = true → s.fab.bankGen.get 0 b = 0)) ∧
    (let s := State.reset.fset RF.RT_GEN_BANK1 3
     s.bankLive 0 = false ∧ s.bankLive 1 = false ∧ s.bank 1 = 3 ∧ s.bank 0 ≠ 3) ∧
    (routed 1).bankLive 0 = true ∧ (State.reset.fset RF.RT_GEN_BANK0 5).bank 0 = 5 := by decide +kernel

/-- A summary that names no path loses none. -/
theorem test_hyp_summary (s : State) (b : Nat) : s.rtxGood b (toLen 2048 []) = true := by
  have h : ∀ x, rtxNib (toLen 2048 []) x = 0 := fun x => by
    have e : byteAt (toLen 2048 []) (x / 2) = 0 := by
      rw [show toLen 2048 ([] : Bytes) = List.replicate 2048 0 from rfl]
      simp only [byteAt, List.getD_eq_getElem?_getD, List.getElem?_replicate]
      split <;> rfl
    simp [rtxNib, e, bitsN]
  simp [State.rtxGood, h]

theorem test_hyp_tables :
    (let img : Bytes := [0, 0xC0, 0, 0]
     hosted.fget RF.RT_LOAD_CTL_RESULT ≠ 1 ∧ hosted.readsOk 0 (hosted.reg Reg.RT_LOAD_ADDR).toNat 16384 = true ∧
     (∀ p < 32, hosted.upOrHeld p = false) ∧ pick (hosted.rtConds 0 img) = none ∧
     pick (hosted.rtConds 3 img) = some 0x5701) ∧
    (let g : Group := { gid := 0, nmem := 2, capg := true, members := [0x8007, 0x8000] }
     let s : State := { State.reset with swm := { groups := [g] } }
     let k := CapKey.mk 0 0 0 0
     State.reset.fget RF.RT_SW_CTL_RESULT ≠ 1 ∧ State.reset.fget RF.RT_SW_CTL_GID = 0 ∧ State.reset.group 0 0 = none ∧
     s.group 0 0 = some g ∧ (g.index (s.module + 4096 * 8)).isSome = true ∧ g.cMod ≠ s.module ∧
     (s.hiveCap k).vec = none ∧ (s.hiveCap k).vote = 0) ∧
    (hosted.fget RF.QN_WIRE_CTL_RESULT ≠ 1 ∧
     hosted.readsOk 0 (hosted.reg Reg.QN_WIRE_ADDR).toNat 576 = true ∧ tblOk wireTbl = true ∧
     tblOk (1 :: wireTbl.drop 1) = false ∧ hosted.bank 0 = 0 ∧ hosted.bank 1 = 0) := by decide +kernel

/-! Ports, optics and lasers: witnesses. -/

/-- The rails are on, bring-up is in phase `ph`, port `p` is in state `st`. -/
def ported (ph p st : Nat) : State :=
  let s := (State.reset.fset RF.QN_BOOT_STAT_PHASE ph).fset (RF.FAB_PORT_STATE p) st
  { s with pwr := { s.pwr with rails := true } }

theorem test_hyp_ports :
    ([(3, 31), (1, 39)].all fun x => let s := ported x.1 x.2 0
      decide (s.logi x.2 = some x.2 ∧ s.portState x.2 = 0 ∧ s.fget (RF.OPT_PORT_STAT_SHUT x.2) = 0 ∧
        s.mayTrain x.2 = true ∧ (s.link x.2).fails = 0 ∧ (32 ≤ x.2 → s.dieAbsorbs (x.2 - 32) = false) ∧
        (s.setLink x.2 { fails := 1 }).mayTrain x.2 = true)) = true ∧
    ([0, 6].all fun k => let s := (ported 3 31 1).fset (RF.OPT_PORT_STAT_TSTAGE 31) k
      decide (s.portState 31 = 1 ∧ s.fget (RF.OPT_PORT_STAT_TSTAGE 31) = k)) = true ∧
    ([2, 3].all fun n => decide (((((ported 3 39 1).fset (RF.OPT_PORT_STAT_TSTAGE 39) 6).setLink 39
        { six := n }).link 39).six = n)) = true ∧
    ((ported 1 39 4).owner 7 = 0 ∧ State.HostIdle (ported 1 39 4)) ∧
    (let c := cellTo 9 0 0
     let s := (routed 1).fset (RF.FAB_PORT_STATE 0) 3
     let h : CellW := BitVec.ofNat 512 (c.toNat % 2 ^ (8 * (30 : Fin 64).val))
     s.portState 0 = 3 ∧ s.logi 0 = some 0 ∧ s.fencedCell h = false ∧ Cell.badHead h = false ∧ Cell.vc h ≠ 6 ∧
     s.lookup 0 h = .port 3 4 ∧ s.canSend 3 4 = true ∧ (s.link 3).queue = []) ∧
    ([3, 4, 5].all fun st => decide ((ported 3 31 st).portState 31 = st ∧ ((ported 3 31 st).link 31).queue = [])) =
      true ∧
    ((ported 3 31 5).setLsub 31 4).lsub 31 = 4 ∧ (ported 3 31 6).portState 31 = 6 := by
  unfold State.HostIdle; decide +kernel

theorem test_hyp_shut_lull :
    (let s := ported 3 31 3
     s.ActsAs 31 31 ∧ s.portState 31 ≠ 6 ∧ s.fget (RF.OPT_PORT_STAT_SHUT 31) = 0 ∧ s.substFor = none ∧
     s.lsub 31 = 0 ∧
     (let wire : Bytes := List.replicate 560 0 ++ [3, 0, 7, 0, 31, 0] ++ List.replicate 10 0
      let u := (s.fset (RF.OPT_PORT_CFG_LULL_EN 31) 1).fset (RF.OPT_PORT_CFG_NOLULL 31) 0
      let u : State := { u with boot := { u.boot with wire := wire } }
      u.ActsAs 31 31 ∧ u.lullReady 31 = true ∧ u.lsub 31 = 0 ∧ u.module < u.wirePeer 31 ∧ u.wireKind 31 ≠ 0 ∧
      (u.fset (RF.OPT_PORT_STAT_SHUT 31) 1).fget (RF.OPT_PORT_STAT_SHUT 31) = 1) ∧
     (let v := (s.fset (RF.OPT_PORT_CFG_NOLULL 31) 0).setLsub 31 2
      v.lsub 31 = 2 ∧ v.wakeLevel 31 = false ∧ (v.fset (RF.OPT_PORT_CFG_NOLULL 31) 1).wakeLevel 31 = true)) ∧
    (let s := (ported 3 31 5).setLsub 31 4
     s.ActsAs 31 31 ∧ s.portState 31 = 5 ∧ s.lsub 31 = 4 ∧ (s.fset (RF.OPT_PORT_CFG_NOLULL 31) 1).wakeLevel 31 = true ∧
     (s.setLsub 31 5).lsub 31 = 5) := by
  unfold State.ActsAs; decide +kernel

/-- Bank 7 with these lasers and take-overs. -/
def lasered (ls : List (Nat × LaserRec)) (ts : List TakeRec) : State :=
  let s := ls.foldl (fun (s : State) x => s.setLaser 7 x.1 x.2) State.reset
  s.setTakes 7 ts

theorem test_hyp_lasers :
    (let s := lasered [(0, { st := 1, slot := 27 }), (34, { st := 2 })] []
     (s.laser 7 0).st = 1 ∧ (s.laser 7 0).slot < 28 ∧ s.nextSpare 7 = some 34 ∧
     (lasered [(0, { st := 1, slot := 27 })] []).nextSpare 7 = none ∧ s.fget RF.LSR_AGE_CFG_RETIRE_BIAS ≤ biasClamp ∧
     laserFailed ⟨49, 49, 0, 0, 0⟩ = true ∧ laserFailed ⟨50, 49, 0, 0, 0⟩ = false ∧
     laserFailed ⟨79, 79, 100, 9500, 0⟩ = true ∧ laserFailed ⟨79, 79, 100, 9499, 0⟩ = false ∧
     (s.laser 7 34).st = 2) ∧
    (let s := lasered [(0, { st := 1, slot := 27 })] []
     0 < s.fget RF.LSR_AGE_CFG_RETIRE_BIAS ∧ overCurve 0 (s.fget RF.LSR_AGE_CFG_AGE_MARGIN) 1 = false) ∧
    ([true, false].all fun pl =>
      let x : TakeRec := { failed := 0, spare := 33, slot := 23, planned := pl }
      let s := lasered [(0, { st := if pl then 4 else 5, slot := 23 }), (33, { st := 3 }), (34, { st := 2 })] [x]
      decide (s.takesOf 7 = [x] ∧ (s.laser 7 x.spare).st = 3 ∧ x.failed ≠ x.spare ∧ s.nextSpare 7 = some 34 ∧
        (pl = true → (s.laser 7 0).st = 4 ∧ (s.laser 7 0).slot < 28))) = true ∧
    (let k := dlaneKey 7 1 191
     State.reset.lowLong 7 1 191 = false ∧ State.reset.ucwLong 7 1 191 = false ∧
     (State.reset.link 39).fails < State.reset.fget RF.OPT_DPERM_RETRAIN_LIM ∧
     ({ State.reset with opt := { lowAt := [(k, 1)] }, tim := { mono := 100000000 } } : State).lowLong 7 1 191 = true ∧
     ({ State.reset with opt := { ucw := [(k, (0, 2 ^ 20, 0, 2))] } } : State).ucwLong 7 1 191 = true ∧
     (State.reset.setLink 39 { fails := 255 }).fget RF.OPT_DPERM_RETRAIN_LIM ≤ 255 ∧
     signedN 16 (0x8000 : BitVec 16).toNat < signedN 16 (State.reset.fget RF.OPT_THRESH_ALARM_LO)) ∧
    (State.reset.opt.perm.get 0 (dlaneKey 7 1 191) ≠ 1 ∧ State.NoCap .reset 7 ∧ State.reset.dieState 7 ≠ 2) := by
  unfold State.NoCap; decide +kernel

/-! Memory homes: witnesses. -/

/-- Die 7's channels are in service; channel 0 has `n` entries, the first for line 8, the others for lines above. -/
def homes (n valid : Nat) : State :=
  let s := (State.reset.fset (RF.MEM_CHMAP_INSVC 7) 0xFFFF).fset (RF.MEM_CAP_USABLE 7) (2 ^ 36)
  s.setWcb 7 0 ((List.range n).map fun i => { q := i + 8, valid := valid, tags := [1] })

theorem test_hyp_homes :
    (let s := homes 1 1
     s.inLine 7 59 1 = true ∧ s.mapLine 7 59 = (0, 0) ∧ s.mapLine 7 (60 * 16 * 8 + 1) = (0, 8) ∧
     s.inLine 7 (60 * 16 * 8 + 1) 59 = true ∧ s.chFailed 7 0 = false ∧ s.lp.lineErr = [] ∧
     (s.fset (RF.MEM_CHMAP_FAILED 7) 1).chFailed 7 0 = true ∧ byteMask 0 60 = fullMask ∧
     (s.wcb 7 0).find? (fun x => x.q == 0) = none ∧ byteMask 59 60 ≠ fullMask ∧
     (s.wcb 7 0).find? (fun x => x.q == 8) = some { q := 8, valid := 1, tags := [1] } ∧
     Nat.lor 1 (byteMask 1 60) = fullMask ∧ Nat.lor 1 (byteMask 1 59) ≠ fullMask) ∧
    ((homes 64 1).wcb 7 0).length = 64 ∧
    ((homes 1 fullMask).wcb 7 0).find? (fun x => x.q == 8) = some { q := 8, valid := fullMask, tags := [1] } ∧
    (let s := homes 0 0
     s.fbit (RF.MEM_CHMAP_INSVC 7) 15 = true ∧ s.chFailed 7 15 = false ∧ s.capState 7 = 0 ∧
     s.inLine 7 60 60 = true ∧ s.mapLine 7 60 = (1, 0) ∧ s.lineOff 7 1 0 = some 60 ∧
     (homes 1 1).pendingMask 7 0 8 ≠ 0 ∧ s.pendingMask 7 15 5 = 0 ∧ 1 ≤ s.fget (RF.MEM_CFG_CH_UE_LIM 7) ∧
     (s.fset (RF.MEM_CFG_CH_UE_LIM 7) 0).fget (RF.MEM_CFG_CH_UE_LIM 7) < 1 ∧
     ((s.strike 7 15 5 [(0, 1), (67, 1)]).readLine 7 15 5).2 = false) := by decide +kernel

theorem test_hyp_bands_retire :
    bandNext (State.reset.fget (RF.MEM_CH_STAT_BAND 7 12) + State.reset.fget (RF.MEM_CH_STAT_THROT 7 12)) 0xFF ≠
      State.reset.fget (RF.MEM_CH_STAT_BAND 7 12) + State.reset.fget (RF.MEM_CH_STAT_THROT 7 12) ∧
    State.reset.host.setups = [] ∧
    (let b := bandNext 4 0xFF
     b = 4 ∧ (State.reset.fset (RF.MEM_CH_STAT_THROT 7 12) 1).fget (RF.MEM_CH_STAT_THROT 7 12) = 1) ∧
    (let s := homes 0 0
     let s0 := (s.fset (RF.MEM_RETIRE_CH 7) 15).fset (RF.MEM_RETIRE_PAGE 7) 5
     pick (s0.retireConds 7 15 5) = none ∧ pick (s0.retireConds 7 15 131071) = none ∧ s.lp.lineErr = [] ∧
     s.wcb 7 15 = [] ∧
     pick ((State.reset.fset (RF.MEM_CHMAP_INSVC 7) 0).retireConds 7 15 5) = some 0x5A03) := by decide +kernel

/-! Fences and resets: witnesses. -/

/-- A one-entry fence list waits; units and a core are already fenced, long ago. -/
def fencing (self : Bool) : State :=
  let s := hosted.fset RF.SAF_FENCE_CTL_COUNT 1
  { s with tim := { s.tim with mono := 8010000 }
           saf := { s.saf with fence := [{ md := 0 }, { md := 0, die := some 7 }, { md := 9 }], cores := [(9, 1)] }
           boot := { s.boot with selfFenced := self } }

theorem test_hyp_fences :
    ([[1], [1, 0, 9], [2, 0, 0, 0, 7], [3, 0, 0, 0, 0, 0, 0xFF, 7], [4], [4, 0, 9], [5, 0, 0, 0, 7],
        [6, 0, 0, 0, 0, 0, 9], [7, 0, 0, 0, 0xFF, 1], [7, 0, 0, 0, 7, 0]].all fun (b : Bytes) =>
      (let s := fencing false
       let e := toLen 16 (b.take 16)
       decide (s.fget RF.SAF_FENCE_CTL_RESULT ≠ 1 ∧ s.fget RF.SAF_FENCE_CTL_COUNT = 1 ∧
         s.readsOk 0 (s.reg Reg.SAF_FENCE_ADDR).toNat 16 = true ∧
         pick (s.fenceCheck s.fenceView e).bad = none))) = true ∧
    pick (([(false, 0x6B04), (false, 0x6B01), (false, 0x5D01)] : List (Bool × Nat)) ++
      ((fenceEntries 1 [8]).foldl (fun v e => (fencing false).fenceCheck v e) (fencing false).fenceView).bad) =
      some 0x5D01 ∧
    (fencing false).eng.clDrain = [] ∧ State.NoCap (fencing false) 7 ∧ (fencing false).fenceHas (0, none) = true ∧
    (fencing false).fenceHas (0, some 7) = true ∧ (fencing false).saf.cores.get 0 9 = 1 ∧
    (fencing true).boot.selfFenced = true ∧ (fencing false).boot.selfFenced = false ∧
    (fencing false).fenceHas (0, some 6) = false ∧ State.NoCap (fencing false) 6 ∧
    (let s := ((fencing true).fset (RF.QN_DIE_MAP_STATE 3) 3)
     s.dieState 3 = 3 ∧ s.saf.dies.get 0 3 ≠ 1 ∧ s.boot.dieWas.get 0 3 < 3) ∧
    (let x := mkCell 0 8 9 8 12 0 0 false true 48 0 0 []
     let s : State := { fencing true with fab := { mgmtQ := [(3, x)] } }
     s.boot.selfFenced = true ∧ s.fab.mgmtQ = [] ++ (3, x) :: [] ∧ Cell.type x = 12) ∧
    ((fencing false).saf.fence[2]? = some { md := 9 } ∧ ({ md := 9 } : FenceEnt).left ≠ 0 ∧
      (9 : Nat) ≠ (fencing false).module) := by
  unfold State.NoCap; decide +kernel

theorem test_hyp_resets :
    pick (State.reset.coreRstConds 7 [2047]) = none ∧
    pick ((State.reset.fset (RF.QN_DIE_MAP_STATE 7) 2).coreRstConds 7 [2047]) = some 0x5C01 ∧
    pick (State.reset.coreRstConds 7 (clCores 7 31)) = none ∧
    pick ((State.reset.fset (RF.QN_DIE_MAP_STATE 7) 2).coreRstConds 7 (clCores 7 31)) = some 0x5C01 ∧
    (let s := State.reset.fset (RF.HIVE_PART_VALID 7) 1
     s.partOn 7 = true ∧ s.partBusy 7 = false ∧ pick [(!State.reset.partOn 7, 0x5C01), (State.reset.partBusy 7, 0x5C04)] =
       some 0x5C01) ∧
    (∀ d < 8, State.reset.capState d = 0 ∧ State.reset.dieState d ≠ 3) ∧ State.reset.fget RF.QN_RESET_RESULT ≠ 1 ∧
    (State.reset.fset RF.QN_RESET_RESULT 1).fget RF.QN_RESET_RESULT = 1 ∧ State.reset.Inv ∧
    State.reset.eng.clDrain = [] ∧ State.reset.fget RF.QN_RETAIN_BUSY = 0 ∧ State.reset.boot.selfFenced = false ∧
    (let s := State.reset.setCoreRec 9 { ({} : CoreRec) with resetting := true }
     (s.coreRec 9).resetting = true ∧ (s.coreRec 9).outst = [] ∧ s.clDraining 0 1 = 0 ∧ s.tapHolds 0 = false ∧
     s.saf.cores.get 0 9 = 0 ∧ s.dieState 0 ≠ 3 ∧ s.clPhys 0 1 < 34 ∧ s.clGone 0 (s.clPhys 0 1) = false ∧
     ((s.clsOn 0 (s.clPhys 0 1)).all fun k => !bitN (s.clDraining 0 k) 0) = true ∧
     ((s.setCoreRec 9 { ({} : CoreRec) with resetting := true, katBad := true }).coreRec 9).katBad = true) := by
  unfold State.Inv; decide +kernel

/-- A RESET_REQ with nonce 1 under the key 1. -/
theorem test_hyp_reset_req :
    (let key : Bytes := 1 :: List.replicate 31 0
     let header : Bytes := [0x4D, 0x47, 1, 4] ++ List.replicate 12 0
     let tag := hmacSha256 key (header ++ leBytes 8 1)
     let s : State := { State.reset with saf := { key := key }, pwr := { State.reset.pwr with aon := true } }
     isResetReq header = true ∧ key ≠ tag ∧ s.saf.key.any (fun b => b != 0) = true ∧
     tag = hmacSha256 s.saf.key (header ++ leBytes 8 1) ∧ s.fget RF.SAF_MGNONCE_NONCE < 1 ∧ s.pwr.aon = true ∧
     s.eng.clDrain = [] ∧ ({ s with pwr := { s.pwr with rails := true } } : State).pwr.rails = true ∧
     (s.fset RF.LOG_STAT_SSTATE 2).fget RF.LOG_STAT_SSTATE = 2 ∧ s.pwr.down = false) := by decide +kernel

/-! Bring-up, registers, the log and time: witnesses. -/

/-- The rails are on and bring-up is in phase `ph`. -/
def phased (ph : Nat) (b : BootSt) : State :=
  let s := State.reset.fset RF.QN_BOOT_STAT_PHASE ph
  { s with pwr := { s.pwr with rails := true }, boot := b }

theorem test_hyp_bringup :
    (let s : State := { State.reset with pwr := {}, saf := {} }
     s.pwr.rails = false ∧ s.pwr.down = false ∧ s.saf.cause = false) ∧
    ([0, 1, 2, 3, 4, 5].all fun ph => decide ((phased ph {}).fget RF.QN_BOOT_STAT_PHASE = ph ∧
      (phased ph {}).pwr.rails = true ∧ (phased ph {}).boot.selfFenced = false)) = true ∧
    ({ imgA := none } : BootSt).image = none ∧ ({} : BootSt).image = some (false, 1, 1, false) ∧
    ({} : BootSt).newest = none ∧ State.Inv (phased 0 {}) ∧
    ({ slotA := some { seq := 2 ^ 32 - 1 } } : BootSt).newest = some (false, { seq := 2 ^ 32 - 1 }) ∧
    (∀ d < 8, State.NoCap (phased 2 {}) d) ∧ (phased 3 {}).boot.wire = [] ∧
    (phased 3 { wire := [0] }).peersReady = true ∧ (phased 3 { wire := List.replicate 64 0 ++ [0, 1] }).peersReady = false ∧
    (phased 3 { wire := [0] }).boot.wire ≠ [] := by
  unfold State.Inv State.NoCap; decide +kernel

/-- Die 0 has fetched a comb image; both copies of core 9's record are bad. -/
theorem test_hyp_comb :
    (let s : State := { State.reset with boot := { combIn := [(0, 2)] } }
     s.boot.combIn.get 0 0 ≠ 0 ∧ recordGood 9 (s.combGot [(9, 0, 0)] 9).1 = false ∧
     recordGood 9 (s.combGot [(9, 0, 0)] 9).2 = false ∧ s.core = {} ∧ s.eng.clDrain = [] ∧ s.clPhys 0 1 < 34 ∧
     s.clGone 0 (s.clPhys 0 1) = false) := by decide +kernel

theorem test_hyp_retained_key :
    hosted.fget RF.QN_FW_CTL_RESULT ≠ 1 ∧ hosted.inWindows 0 (hosted.reg Reg.QN_FW_ADDR).toNat 4096 false = true ∧
    State.reset.inWindows 0 (State.reset.reg Reg.QN_FW_ADDR).toNat 4096 false = false ∧
    State.reset.fget RF.HIVE_LOCK_LOCK = 0 ∧ (State.reset.fset RF.HIVE_LOCK_LOCK 1).fget RF.HIVE_LOCK_LOCK = 1 ∧
    State.reset.saf.stage = [] ∧ State.reset.tap.run = none := by decide +kernel

/-- SMP_CFG takes a value, refuses 0 in its first field, and OPT_THRESH refuses thresholds out of order. -/
theorem test_hyp_registers :
    barOk 4 3 = false ∧ barOk 0x1FFFFFC 4 = true ∧ (regAt 0).isSome = true ∧ barOk 0x3FFF8 8 = true ∧
    regAt 0x3FFF8 = none ∧ State.reset.vfOff 1 0 = none ∧
    (let b := Reg.SMP_CFG
     match regAt b with
     | some (r, _) =>
       let wr := r.mask (fun x => State.reset.mayWrite false x && x.within (b % 8) 8)
       let put := fun (v : Word64) => mixBits wr ((v <<< (8 * (b % 8))) &&& writtenBits (b % 8) 8) (State.reset.reg b)
       decide (barOk b 8 = true ∧ b = b / 8 * 8 ∧ b ∈ plainRegs 0 ∧ badFields r.base wr (put 1) = [] ∧
         State.reset.badWhole r.base b (put 1) = none ∧ badFields r.base wr (put 0) = [(0, 16, 0x5F01)] ∧
         State.reset.badWhole r.base b (mixBits (putFld wr 0 16 0) 0 (State.reset.reg b)) = none)
     | none => false) = true ∧
    (let b := Reg.OPT_THRESH
     match regAt b with
     | some (r, _) =>
       let wr := r.mask (fun x => State.reset.mayWrite false x && x.within (b % 8) 8)
       decide (b ∈ plainRegs 0 ∧ badFields r.base wr (mixBits wr 0 (State.reset.reg b)) = [] ∧ wr ≠ 0 ∧
         State.reset.badWhole r.base b (mixBits wr 0 (State.reset.reg b)) = some 0x5903)
     | none => false) = true := by decide +kernel

theorem test_hyp_accesses :
    State.reset.core.cores = [] ∧ safRanges 0 = [] ∧ safRanges Reg.SAF_TJ ≠ [] ∧ State.reset.locked = false ∧
    (State.reset.fset RF.HIVE_LOCK_LOCK 1).locked = true ∧ State.reset.pwr.rails = false ∧
    safBad Reg.SAF_TJ (85 + 95 * 2 ^ 8) = false ∧ fld (84 : Word64) 0 8 < 85 ∧
    (barOk (dieReg 7 0x1FFFFC) 4 = true ∧ State.reset.openBits (dieReg 7 0x1FFFFC / 8 * 8) = 0) ∧
    (let s := (State.reset.setReg (Reg.PCI_APW 0) (2 ^ 63 + 7 * 2 ^ 40)).fset (RF.MEM_CAP_USABLE 7) 128
     let apw := s.reg (Reg.PCI_APW 0)
     bit apw 63 = true ∧ fld apw 40 4 = 7 ∧ fld apw 0 40 = 0 ∧ s.owner 7 ≠ 1 ∧ s.dieAbsorbs 7 = false ∧
     pick (s.rangeConds 7 64 64) = none ∧ s.Sound ∧ 64 < sramBase ∧ s.diePortUp 7 = false ∧
     (s.fset (RF.FAB_PORT_STATE 39) 3).diePortUp 7 = true ∧
     (s.fset (RF.QN_DIE_MAP_STATE 7) 2).dieAbsorbs 7 = true) ∧
    (let v : Word64 := BitVec.ofNat 64 (2 ^ 63)
     bit v 63 = true ∧ bit v 62 = false ∧ fld v 0 9 = 0 ∧ State.reset.fget RF.RT_LOAD_CTL_RESULT ≠ 1 ∧
     State.reset.fget RF.QN_WIRE_CTL_RESULT ≠ 1 ∧ State.reset.fget RF.QN_FW_CTL_RESULT ≠ 1 ∧
     State.reset.fget RF.SAF_FENCE_CTL_RESULT ≠ 1) ∧
    bit (State.reset.reg (Reg.PCI_APW 15)) 63 = false := by
  unfold State.Sound; decide +kernel

/-- An event of die 7, and one of the hive. -/
def ev (src : Fin 16) (sev : Fin 4) : LogEvent := ⟨0x8001, src, 0, sev, []⟩

theorem test_hyp_log :
    (let s : State := { State.reset with log := { recq := [(7, [{ ev := ev 7 3 }])], held := [(7, [{ ev := ev 7 1 }])] }
                                         boot := { sramUp := true } }
     (s.log.recq.get [] 7).findIdx? (fun r => decide (r.ev = ev 7 3)) = some 0 ∧ s.fget RF.LOG_STAT_MODE = 0 ∧
     s.boot.sramUp = true ∧ s.log.held.get [] 7 = [{ ev := ev 7 1 }] ∧ (s.log.recq.get [] 7).length < 64) ∧
    8 ≤ (ev 8 0).src.val ∧ (State.reset.fset RF.LOG_STAT_MODE 1).fget RF.LOG_STAT_MODE = 1 ∧
    (State.reset.fset RF.LOG_STAT_MODE 2).fget RF.LOG_STAT_MODE = 2 ∧
    (({ State.reset with log := { lgLeft := 1 } } : State)).log.lgLeft ≠ 0 ∧ State.reset.log.lgLeft = 0 ∧
    ((phased 5 {}).fset RF.LOG_MGMT_CFG_HB_EN 1).fget RF.LOG_MGMT_CFG_HB_EN = 1 := by decide +kernel

theorem test_hyp_time :
    State.reset.fget RF.TIM_CTL_ARM = 0 ∧ (State.reset.fset RF.TIM_CTL_ARM 1).fget RF.TIM_CTL_ARM = 1 ∧
    State.reset.tim.edgeAt = 0 ∧
    (let s : State := { State.reset.fset RF.TIM_CTL_BEAT_OK 0 with tim := { mono := 50, edgeAt := 1 } }
     s.fget RF.TIM_CTL_BEAT_OK = 0 ∧ s.tim.edgeAt ≠ 0 ∧ s.tim.armAt + 50 ≤ s.clk) ∧
    (State.reset.fset RF.TIM_CTL_SLEWING 1).fget RF.TIM_CTL_SLEWING = 1 ∧
    (let s := (State.reset.fset RF.TIM_CTL_BEAT_OK 1).fset RF.TIM_CTL_HOLDOVER 0
     s.fget RF.TIM_CTL_BEAT_OK = 1 ∧ s.fget RF.TIM_CTL_HOLDOVER = 0) := by decide +kernel

/-! Power, safety and test access: witnesses. -/

theorem test_hyp_power :
    State.reset.pwr.rails = false ∧ (phased 5 {}).pwr.rails = true ∧ (phased 5 {}).eng.clDrain = [] ∧
    ({ State.reset with pwr := { down := true } } : State).pwr.down = true ∧
    ({ State.reset with saf := { cause := true } } : State).saf.cause = true ∧
    (phased 5 {}).drives 1 = true ∧ (phased 5 {}).drives 2 = true ∧
    (let s : State := { phased 5 {} with pwr := { pins := [(8, 1), (10, 1)] } }
     s.pin 8 = 1 ∧ s.pin 10 = 1 ∧ s.fget (sbHIZ 2) = 0) ∧
    10 * (phased 5 {}).fget RF.SAF_TJ_TJ_THROT < 0xFFFF ∧ 10 * (phased 5 {}).fget RF.SAF_TJ_TJ_SHUT < 0xFFFF ∧
    (let s : State := { ((phased 5 {}).fset (RF.COMB_CLK_CORE_MHZ 7) 600) with saf := { hot := [(7 * 32 + 23, 1200)] } }
     s.coreMhz 7 = 600 ∧ s.dieHot 7 = true ∧ s.dieHot 6 = false) ∧ State.reset.coreMhz 7 = 0 ∧
    railWatched 17 = true ∧ railRated.getD 17 0 * (phased 5 {}).fget RF.SAF_OC_PCT / 10 ≤ 0xFFFF ∧
    10 * (phased 5 {}).fget RF.SAF_COOL_OUTLET ≤ 0xFFFF ∧ (phased 5 {}).fget RF.SAF_COOL_RATE ≤ 0xFFFF ∧
    (phased 5 {}).fget RF.SAF_PWR_LIMIT < 4095 ∧
    (let s : State := { phased 5 {} with saf := { wdog := [0, 0] } }
     (s.saf.wdog.filter (fun x => decide (s.clk < x + 600000000000))).length = 2) := by decide +kernel

theorem test_hyp_tap :
    (let s := ((phased 5 {}).fsetBit RF.TAP_STAT_DIESEL 7 true).fset RF.TAP_CTL_OPEN 1
     s.tapIn 0 = true ∧ s.tapIn 8 = true ∧ s.tapIn 1 = false ∧ s.tapHeld = false ∧ s.fget RF.TAP_CTL_OPEN = 1 ∧
     s.tapUnitOut 8 8 0 = false ∧ (s.fset (RF.QN_DIE_MAP_STATE 7) 2).tapUnitOut 8 8 0 = true ∧ s.tap.run = none ∧
     tapHas 8 0 = true ∧ tapHas 0 4 = true ∧ tapHas 8 8 = true ∧
     (s.fset (RF.QN_DIE_MAP_STATE 7) 2).tapUnitOut 8 5 0 = true ∧ s.tapUnitOut 0 5 0 = false ∧ tapHas 0 5 = true) ∧
    State.reset.tapIn 0 = false ∧ (phased 4 {}).tapHeld = true ∧ (phased 4 {}).tapIn 0 = true := by decide +kernel

end Sys2Proof.Tests
end

/-! The block as a whole: the frame of every command, and what a step runs. -/

namespace Sys2Proof.Machine

/-- A command has one next state, which every property that its groups' writes keep survives. -/
theorem exec_keeps_all (i : Instr) (s : State) :
    ∃ t, exec i s = .next t ∧ ∀ P : State → Prop, Keeps (groupsOf i) P → P s → P t := by
  obtain ⟨t, ht, _⟩ := exec_keeps i (keeps_pending (groupsOf i) s.pending) rfl
  refine ⟨t, ht, fun P K hs => ?_⟩
  obtain ⟨u, hu, hP⟩ := exec_keeps i K hs
  cases ht.symm.trans hu
  exact hP

/-- Settles O4: each of the four facts survives every write to the command's groups. -/
theorem commandFrame : Obligations.CommandFrame := by
  intro i s
  obtain ⟨t, ht, hP⟩ := exec_keeps_all i s
  exact ⟨t, ht, only_of_keeps hP, hP _ (keeps_out _ s.out) (List.prefix_refl _), hP _ (keeps_free _ s.free) le_rfl⟩

/-- Settling what is due touches neither the queue nor the model's clock; the tick moves the clock by one. -/
theorem State.idle_pending_mono (s : State) :
    s.idle.pending = s.pending ∧ s.idle.tim.mono = s.tim.mono + 1 := by
  have hq : s.settle.pending = s.pending := State.settle_keeps (keeps_pending _ s.pending) rfl
  have hc : s.settle.tim.mono = s.tim.mono := State.settle_keeps (keeps_clock _ s.tim.mono) rfl
  exact ⟨hq, congrArg (· + 1) hc⟩

/-- Settles O1: the two branches of `step`, on a queue with a front and on the empty queue. -/
theorem stepRunsFrontCommand : Obligations.StepRunsFrontCommand := by
  refine ⟨fun c q s => rfl, fun s hs => ⟨s.idle, ?_, ?_⟩⟩
  · rw [step, hs]
  · obtain ⟨hq, hc⟩ := s.idle_pending_mono
    exact ⟨hq.trans hs, hc⟩

end Sys2Proof.Machine

/-! Transfers that end: a copy timed out at the hive's target (R245). -/

namespace Sys2Proof.Machine

/-- A started copy that waits, of the number after the last core's: its die would be the hive's target, 8. -/
def hiveCopy : Job := { core := 2048, started := true, waits := 1 }

/-- The reset state with `hiveCopy` in the queue that target 8 would have, and its transfer without cells there. -/
def hiveCopyState : State := { State.reset with
  fab := { xfers := [(xKey 8 0, { owner := .cmd 2048 0 })] }
  eng := { ceq := [(32, [hiveCopy])] }
  host := { bme := 1 } }

/-- The timeout at the hive's target counts no end-to-end timeout: only a die's interface has the counter. -/
theorem transferTimeout_hive_uncounted : (match exec (.transferTimeout 8 0) hiveCopyState with
    | .next t => t.fget (RF.FAB_NI_STAT_E2E 8)
    | _ => 1) = 0 := by decide +kernel

/-- Refutes O46: the clause on the timeout of a copy that waits for its host writes has no `f.val < 8`, as the clause
before it has. At target 8, in `hiveCopyState`, all its hypotheses hold, and FAB_NI_STAT.E2E does not go up. -/
theorem not_transfersEndAndRestart : ¬ Obligations.TransfersEndAndRestart := by
  intro h
  obtain ⟨-, hTimers, -⟩ := h hiveCopyState
  obtain ⟨-, -, -, hCopy, -⟩ := hTimers 8 0 _ rfl
  have hNoCap : hiveCopyState.NoCap 8 := ⟨by decide +kernel, rfl⟩
  obtain ⟨-, hWaiting⟩ := hCopy 2048 0 hiveCopy (by decide +kernel) (by decide +kernel) (by decide +kernel)
    (by decide +kernel) (by decide +kernel)
  obtain ⟨t, ht, -, -, hCount⟩ := hWaiting (by decide) rfl rfl (by decide +kernel) rfl hNoCap
  have hSame := transferTimeout_hive_uncounted
  rw [ht] at hSame
  have hOne : t.fget (RF.FAB_NI_STAT_E2E 8) = 1 := hCount.trans (by decide +kernel)
  exact absurd (hOne.symm.trans hSame) (by decide)

end Sys2Proof.Machine

/-! Writes of registers (R10, R11, R472 to R476): which bits a write mixes in, what a write that is counted or refused
leaves, and the three outcomes of a write whose register shows its own contents. -/

namespace Sys2Proof.Machine

/-! Bits. -/

theorem getLsbD_mixBits (m v c : Word64) {i : Nat} (h : i < 64) :
    (mixBits m v c).getLsbD i = if m.getLsbD i then v.getLsbD i else c.getLsbD i := by
  simp only [mixBits, BitVec.getLsbD_or, BitVec.getLsbD_and, BitVec.getLsbD_not, h, decide_true, Bool.true_and]
  cases m.getLsbD i <;> simp

/-- A field all of whose bits are written reads as what was written. -/
theorem fld_mixBits_of_set {m : Word64} (v c : Word64) {lo w : Nat} (hn : lo + w ≤ 64)
    (h : ∀ i, lo ≤ i → i < lo + w → m.getLsbD i = true) : fld (mixBits m v c) lo w = fld v lo w := by
  apply Nat.eq_of_testBit_eq
  intro i
  rw [testBit_fld, testBit_fld]
  by_cases hi : i < w
  · rw [getLsbD_mixBits _ _ _ (by omega), h (lo + i) (by omega) (by omega), if_pos rfl]
  · simp [hi]

/-- A field none of whose bits is written reads as before. -/
theorem fld_mixBits_of_clear {m : Word64} (v c : Word64) {lo w : Nat}
    (h : ∀ i, lo ≤ i → i < lo + w → m.getLsbD i = false) : fld (mixBits m v c) lo w = fld c lo w := by
  apply Nat.eq_of_testBit_eq
  intro i
  rw [testBit_fld, testBit_fld]
  by_cases hi : i < w
  · by_cases hn : lo + i < 64
    · rw [getLsbD_mixBits _ _ _ hn, h (lo + i) (by omega) (by omega), if_neg (by simp)]
    · rw [BitVec.getLsbD_of_ge _ _ (by omega), BitVec.getLsbD_of_ge _ _ (by omega)]
  · simp [hi]

theorem and_not_zero (c : Word64) : c &&& ~~~(0 : Word64) = c := BitVec.and_allOnes

/-- No bit is cleared where the mask of the bits cleared is empty. -/
theorem and_not_zero_and (c m v : Word64) : c &&& ~~~(0 &&& m &&& v) = c := by
  have h : (0 : Word64) &&& m &&& v = 0 := by simp
  rw [h, and_not_zero]

/-- Nothing written. -/
theorem mixBits_zero (v c : Word64) : mixBits 0 v c = c := by
  rw [mixBits, and_not_zero]
  simp

/-- A bit outside the fields that refused values take out of a write mask stays, one inside is out. -/
theorem getLsbD_clearFields (l : List (Nat × Nat × Nat)) (m : Word64) {i : Nat} (h : i < 64) :
    (l.foldl (fun (m : Word64) f => putFld m f.1 f.2.1 0) m).getLsbD i =
      (m.getLsbD i && l.all fun f => !decide (f.1 ≤ i ∧ i < f.1 + f.2.1)) := by
  induction l generalizing m with
  | nil => simp
  | cons f l ih =>
    rw [List.foldl_cons, ih, getLsbD_putFld _ _ _ _ _ h, List.all_cons]
    by_cases hf : f.1 ≤ i ∧ i < f.1 + f.2.1
    · simp [hf]
    · simp [hf]

/-! Counted and refused writes. -/

theorem satAdd_lt (w x n : Nat) : satAdd w x n < 2 ^ w := by
  have := Nat.two_pow_pos w
  unfold satAdd
  omega

/-- A counter raised reads as the saturated sum. -/
theorem State.fget_finc (s : State) (r : FRef) (n : Nat) (h : r.lo + r.w ≤ 64) :
    (s.finc r n).fget r = satAdd r.w (s.fget r) n := by
  rw [State.finc, State.fget_fset _ _ _ h, Nat.mod_eq_of_lt (satAdd_lt _ _ _)]

theorem State.rejectReg_only (s : State) (o : Nat) : State.Only [.regs] s (s.rejectReg o) :=
  only_of_keeps fun _ K h => State.rejectReg_keeps K o h

theorem State.setReg_only (s : State) (o : Nat) (v : Word64) : State.Only [.regs] s (s.setReg o v) :=
  only_of_keeps fun _ K h => State.setReg_keeps K o v h

theorem State.Wrote1.refl (s : State) (l : List Nat) : s.Wrote1 s l := ⟨State.Only.rfl' _ s, .rfl' _ s⟩

theorem State.Wrote1.rejectReg {s t : State} {l : List Nat} (h : s.Wrote1 t l) (o : Nat) : s.Wrote1 (t.rejectReg o) l :=
  ⟨h.1.trans (t.rejectReg_only o), (h.2.finc (by simp [RF.HIVE_WREJ_RO_CNT])).fset (by simp [RF.HIVE_WREJ2_OFFSET])⟩

theorem State.Wrote1.setReg {s t : State} {l : List Nat} (h : s.Wrote1 t l) {o : Nat} (v : Word64) (m : o ∈ l) :
    s.Wrote1 (t.setReg o v) l :=
  ⟨h.1.trans (t.setReg_only o v), h.2.setReg (List.mem_append_left _ m)⟩

/-- A rejected write is counted (R11). -/
theorem State.rejectReg_count (s : State) (o : Nat) : (s.rejectReg o).fget RF.HIVE_WREJ_RO_CNT =
    satAdd RF.HIVE_WREJ_RO_CNT.w (s.fget RF.HIVE_WREJ_RO_CNT) 1 := by
  unfold State.rejectReg
  rw [State.fget_fset_ne _ _ _ _ (by decide), State.fget_finc _ _ _ (by decide)]

/-- The state in which a write at offset `o` stores its fields: the fields it may not write, if it covers any, have
been counted (R11). -/
def State.Noted (s : State) (o : Nat) (t : State) : Prop := t = s ∨ t = s.rejectReg o

theorem State.Noted.wrote1 {s t : State} {o : Nat} (h : s.Noted o t) (l : List Nat) : s.Wrote1 t l := by
  rcases h with rfl | rfl
  · exact .refl _ l
  · exact (State.Wrote1.refl s l).rejectReg o

theorem State.Noted.reg {s t : State} {o : Nat} (h : s.Noted o t) {q : Nat} (hq : q ∉ [Reg.HIVE_WREJ, Reg.HIVE_WREJ2]) :
    t.reg q = s.reg q := (h.wrote1 []).2 q hq

theorem State.Noted.fget {s t : State} {o : Nat} (h : s.Noted o t) {q : FRef}
    (hq : q.off ∉ [Reg.HIVE_WREJ, Reg.HIVE_WREJ2]) : t.fget q = s.fget q := by
  rw [State.fget, h.reg hq, State.fget]

theorem State.Noted.refusals {s t : State} {o : Nat} (h : s.Noted o t) :
    t.fget RF.HIVE_WREJ_REF_CNT = s.fget RF.HIVE_WREJ_REF_CNT := by
  rcases h with rfl | rfl
  · rfl
  · unfold State.rejectReg
    rw [State.fget_fset_ne _ _ _ _ (by decide), State.finc, State.fget_fset_ne _ _ _ _ (by decide)]

/-- The registers that a refusal of a write changes: its report, the log's and the interrupt summary (R476). -/
def refuseRegs : List Nat :=
  [Reg.LOG_STAT, Reg.LOG_RDSEQ, Reg.LOG_MIRSEQ, Reg.HIVE_ISUM, Reg.HIVE_WREJ, Reg.HIVE_WREJ2]

theorem State.reg_refuseReg (s : State) (reason off : Nat) {q : Nat} (h : q ∉ refuseRegs) :
    (s.refuseReg reason off).reg q = s.reg q :=
  (State.RegsBut.rfl' refuseRegs s).refuseReg (fun _ hr => hr) q h

/-- A refusal counts itself. -/
theorem State.refuseReg_count (s : State) (reason off : Nat) : (s.refuseReg reason off).fget RF.HIVE_WREJ_REF_CNT =
    satAdd RF.HIVE_WREJ_REF_CNT.w (s.fget RF.HIVE_WREJ_REF_CNT) 1 := by
  have h : logApart RF.HIVE_WREJ_REF_CNT := logApart_of_ne (by decide)
  unfold State.refuseReg
  dsimp only
  rw [State.isum_kept _ _ _ h.2.2.2.2, State.hiveRec_kept _ _ _ _ _ _ h, State.fget_finc _ _ _ (by decide),
    State.fget_fset_ne _ _ _ _ (by decide), State.fget_fset_ne _ _ _ _ (by decide)]

/-- A refusal is reported with its reason and offset, whatever the write has stored before. -/
theorem State.refuseReg_refused {s t : State} {reason off : Nat}
    (hc : t.fget RF.HIVE_WREJ_REF_CNT = s.fget RF.HIVE_WREJ_REF_CNT) (hr : reason < 2 ^ 16) (ho : off < 2 ^ 26) :
    s.Refused (t.refuseReg reason off) reason off := by
  obtain ⟨hReason, hOffset⟩ := t.refuseReg_reports reason off
  exact ⟨hReason.trans (Nat.mod_eq_of_lt hr), hOffset.trans (Nat.mod_eq_of_lt ho), by rw [State.refuseReg_count, hc]⟩

/-! Reasons. -/

theorem foldl_replicate_fixed {α β : Type} {f : β → α → β} {b : β} {a : α} (h : f b a = b) (k : Nat) :
    (List.replicate k a).foldl f b = b := by
  induction k with
  | zero => rfl
  | succ k ih => rw [List.replicate_succ, List.foldl_cons, h, ih]

/-- Conditions that all hold and all name one reason of class 5 give that reason (R495). -/
theorem pick_class5 {l : List (Bool × Nat)} {q : Nat} (hne : l ≠ []) (h : ∀ x ∈ l, x = (true, q))
    (hq : q / 0x1000 = 5) : pick l = some q := by
  obtain ⟨n, hn⟩ := Nat.exists_eq_succ_of_ne_zero (fun e => hne (List.length_eq_zero_iff.mp e))
  have hl : l = List.replicate (n + 1) (true, q) := List.eq_replicate_iff.mpr ⟨hn, h⟩
  subst hl
  unfold pick
  simp [hq, List.replicate_succ, foldl_replicate_fixed]

/-- Every refused field value has a reason of class 5 (R476). -/
theorem badFields_class5 {base : Nat} {wr v : Word64} {x : Nat × Nat × Nat} (h : x ∈ badFields base wr v) :
    x.2.2 / 0x1000 = 5 := by
  have hr : ∀ f ∈ fieldRanges, f.2.2.2.2.2 / 0x1000 = 5 := by decide
  have ha : ∀ f ∈ fieldAligns, f.2.2.2.2 / 0x1000 = 5 := by decide
  unfold badFields at h
  rcases List.mem_append.mp h with h | h
  · rcases List.mem_append.mp h with h | h
    · obtain ⟨f, hf, rfl⟩ := List.mem_map.mp h
      exact hr f (List.mem_of_mem_filter hf)
    · obtain ⟨f, hf, rfl⟩ := List.mem_map.mp h
      exact ha f (List.mem_of_mem_filter hf)
  · split at h
    · cases List.mem_singleton.mp h
      rfl
    · cases h

/-- So has every refused combination. -/
theorem State.badWhole_class5 {s : State} {base off : Nat} {v : Word64} {q : Nat} (h : s.badWhole base off v = some q) :
    q / 0x1000 = 5 := by
  unfold State.badWhole at h
  dsimp only at h
  split_ifs at h <;> cases h <;> rfl

/-! The outcomes of a write (R476). -/

/-- Fields that a write of a register clears with a one. -/
def RegDef.w1c (r : RegDef) (roF : RField → Bool) : Word64 := r.mask fun f => decide (f.acc = .w1c) && !roF f

/-- Bits of a register that a write of `n` bytes from `b` on may change. -/
def State.openMask (s : State) (r : RegDef) (b n : Nat) (roF : RField → Bool) : Word64 :=
  r.mask fun f => s.mayWrite (roF f) f && f.within b n

section
variable {s : State} {r : RegDef} {fn off at_ b n : Nat} {raw wr new : Word64} {roF : RField → Bool}

/-- With no refused value every field written is stored. -/
theorem State.defWrite_accepted (hc : r.w1c roF = 0) (hwr : wr = s.openMask r b n roF)
    (hnew : new = mixBits wr raw (s.reg off)) (hb : badFields r.base wr new = [])
    (hq : wr = 0 ∨ s.badWhole r.base off new = none) : ∃ s1, s.Noted at_ s1 ∧
      s.defWrite r fn off at_ b n raw roF = s1.regWrote fn off new (writtenBits b n &&& raw) (writtenBits b n) raw := by
  have hwhole : (if wr = 0 then none else s.badWhole r.base off new) = none := by
    rcases hq with h | h
    · rw [if_pos h]
    · rw [h, ite_self]
  refine ⟨if (r.mask fun f => s.denied (roF f) f && f.within b n) ≠ 0 then s.rejectReg at_ else s, ?_, ?_⟩
  · split
    · exact Or.inr rfl
    · exact Or.inl rfl
  · unfold State.defWrite
    unfold State.openMask at hwr
    unfold RegDef.w1c at hc
    simp only [← hwr, ← hnew, hb, List.foldl_nil, hwhole, hc, and_not_zero_and]
    rfl

/-- With a refused value its fields, and with a refused combination all, keep what they held, and the reason is
reported. -/
theorem State.defWrite_refused {bad : List (Nat × Nat × Nat)} {wr1 v1 : Word64} {whole : Option Nat} {q : Nat}
    (hc : r.w1c roF = 0) (hwr : wr = s.openMask r b n roF)
    (hb : badFields r.base wr (mixBits wr raw (s.reg off)) = bad)
    (hwr1 : wr1 = bad.foldl (fun (m : Word64) f => putFld m f.1 f.2.1 0) wr) (hv1 : v1 = mixBits wr1 raw (s.reg off))
    (hq : (if wr1 = 0 then none else s.badWhole r.base off v1) = whole)
    (hp : pick (bad.map (fun f => (true, f.2.2)) ++ whole.toList.map fun x => (true, x)) = some q) :
    ∃ s1, s.Noted at_ s1 ∧ s.defWrite r fn off at_ b n raw roF =
      (s1.regWrote fn off (if whole.isSome then s.reg off else v1) (writtenBits b n &&& raw) (writtenBits b n)
        raw).refuseReg q at_ := by
  refine ⟨if (r.mask fun f => s.denied (roF f) f && f.within b n) ≠ 0 then s.rejectReg at_ else s, ?_, ?_⟩
  · split
    · exact Or.inr rfl
    · exact Or.inl rfl
  · unfold State.defWrite
    unfold State.openMask at hwr
    unfold RegDef.w1c at hc
    simp only [← hwr, hb, ← hwr1, ← hv1, hq, hp, hc, and_not_zero_and]

end

/-- A write at an offset without a register is only counted. -/
theorem State.regWriteBy_none {s : State} {off : Nat} (h : regAt (off / 8 * 8) = none) (fn at_ n : Nat) (v : Word64)
    (roF : RField → Bool) : s.regWriteBy fn off at_ n v roF = s.rejectReg at_ := by
  unfold State.regWriteBy
  dsimp only
  rw [h]

/-- A write at a register that is not a locked key register. -/
theorem State.regWriteBy_some {s : State} {off : Nat} {r : RegDef} {i : Nat} (h : regAt (off / 8 * 8) = some (r, i))
    (hk : keyReg (off / 8 * 8) = false) (fn at_ n : Nat) (v : Word64) (roF : RField → Bool) :
    s.regWriteBy fn off at_ n v roF = s.defWrite r fn (off / 8 * 8) at_ (off % 8) n
      ((v <<< (8 * (off % 8))) &&& writtenBits (off % 8) n) roF := by
  unfold State.regWriteBy
  dsimp only
  rw [h]
  simp [hk]

end Sys2Proof.Machine

/-! Which registers do more than store their fields, and the writes of those that do not (R476, R480). -/

namespace Sys2Proof.Machine

/-- Hive registers, below the windows and the rings, a write of which does more than store its fields. -/
def actingReg (off : Nat) : Bool :=
  [Reg.HIVE_LOCK, Reg.HIVE_IMASK, Reg.TIM_CTL, Reg.SAF_TJ, Reg.SAF_PWR, Reg.SAF_COOL, Reg.SAF_OC, Reg.SAF_MGKEY_CTL,
    Reg.QN_RESET, Reg.QN_RETAIN, Reg.RT_LOAD_CTL, Reg.SAF_FENCE_CTL, Reg.QN_WIRE_CTL, Reg.QN_FW_CTL,
    Reg.RT_SW_CTL].contains off ||
  decide (Reg.SAF_MGKEY 0 ≤ off ∧ off ≤ Reg.SAF_MGKEY 3) || decide (Reg.FAB_PORT 0 ≤ off ∧ off < Reg.FAB_PORT 40)

theorem safRanges_nil {off : Nat} (h : off ∉ [Reg.SAF_TJ, Reg.SAF_PWR, Reg.SAF_COOL, Reg.SAF_OC]) :
    safRanges off = [] := by
  simp only [List.mem_cons, List.not_mem_nil, or_false, not_or] at h
  obtain ⟨h1, h2, h3, h4⟩ := h
  rw [safRanges, if_neg h1, if_neg h2, if_neg h3, if_neg h4]

/-- What is left of a hive register's write when its register does not act of itself: windows and rings. -/
theorem State.regWrote_hive {off : Nat} (hh : off < 0x1000000) (ha : actingReg off = false) (s : State) (fn : Nat)
    (v go m raw : Word64) : s.regWrote fn off v go m raw =
      if Reg.PCI_DMAW_BASE 0 0 ≤ off ∧ off < Reg.PCI_DMAW_BASE 9 0 then
        (if fn = 0 then (s.setReg off v).windowChanged ((off - Reg.PCI_DMAW_BASE 0 0) / 256) else s)
      else if Reg.RING_CFG 0 ≤ off ∧ off < 0xC8000 ∧ off % 32 = 16 then s.ringCfg fn off v
      else s.setReg off v := by
  simp only [actingReg, Bool.or_eq_false_iff, decide_eq_false_iff_not, List.contains_eq_mem, List.mem_cons, not_or] at ha
  obtain ⟨⟨⟨hLock, hMask, hTim, hTj, hPwr, hCool, hOc, hKey, hReset, hRetain, hLoad, hFence, hWire, hFw, hSw, -⟩,
    hKeys⟩, hPorts⟩ := ha
  have hSaf : safRanges off = [] := safRanges_nil (by simp [hTj, hPwr, hCool, hOc])
  unfold State.regWrote
  rw [if_neg (by omega), if_neg hLock, if_neg hMask, if_neg hTim, if_neg (not_not.mpr hSaf), if_neg hKeys, if_neg hKey,
    if_neg hReset, if_neg hRetain, if_neg hLoad, if_neg hFence, if_neg hWire, if_neg hFw, if_neg hSw, if_neg hPorts]

/-- A register that holds settings and nothing else, by its offset. -/
def settingsReg (off : Nat) : Bool :=
  if 0x1000000 ≤ off then
    let d := (off - 0x1000000) / 0x200000
    let o := (off - 0x1000000) % 0x200000
    !decide (0x34000 ≤ o ∧ o < 0x36000) && !([Reg.RNG_TCTL d, Reg.MVE_PRIO d, Reg.MEM_RETIRE d].contains off)
  else
    !actingReg off && !decide (Reg.PCI_DMAW_BASE 0 0 ≤ off ∧ off < Reg.PCI_DMAW_BASE 9 0) &&
      !decide (Reg.RING_CFG 0 ≤ off ∧ off < 0xC8000 ∧ off % 32 = 16)

/-- Writing a settings register stores its fields. -/
theorem State.regWrote_settings {off : Nat} (h : settingsReg off = true) (s : State) (fn : Nat) (v go m raw : Word64) :
    s.regWrote fn off v go m raw = s.setReg off v := by
  unfold settingsReg at h
  split at h
  · rename_i hd
    simp only [Bool.and_eq_true, Bool.not_eq_true', decide_eq_false_iff_not, List.contains_eq_mem, List.mem_cons,
      not_or] at h
    obtain ⟨hCnt, hRng, hMve, hMem, -⟩ := h
    unfold State.regWrote State.dieWrote
    dsimp only
    rw [if_pos hd, if_neg hCnt, if_neg hRng, if_neg hMve, if_neg hMem]
  · simp only [Bool.and_eq_true, Bool.not_eq_true', decide_eq_false_iff_not] at h
    obtain ⟨⟨hActs, hWindow⟩, hRing⟩ := h
    rw [State.regWrote_hive (by omega) hActs, if_neg hWindow, if_neg hRing]

/-- The registers of `plainRegs` hold settings; none has a field that a one clears, none is a key register, and no
refusal reports there. -/
theorem plainRegs_settings : ∀ k < 8, ∀ base ∈ plainRegs k, settingsReg base = true ∧ keyReg base = false ∧
    base ∉ refuseRegs ∧ ((regAt base).all fun x => decide (x.1.w1c (fun _ => false) = 0)) = true := by decide +kernel

/-! Accesses of BAR0 (R353, R472, R480). -/

section
variable (f : FnId) (off : BitVec 26) (size : Fin 9) (v : Word64) (s : State)

/-- A malformed access, or one past a VF's BAR0, is answered with an error. -/
theorem exec_registerWrite_error (h : barOk off.toNat size = false ∨ f.val ≠ 0 ∧ 0x10000 ≤ off.toNat) :
    exec (.registerWrite f off size v) s = .next (s.emit (.busReply f none)) := by
  show execRegisterWrite f off size v s = _
  unfold execRegisterWrite
  dsimp only
  rw [if_pos (h.imp (fun e => by simp [e]) id)]

variable {f off size}

theorem exec_registerWrite_pf0 (hb : barOk off.toNat size = true) (hf : f.val = 0) :
    exec (.registerWrite f off size v) s = .next (s.regWrite off.toNat size v) := by
  show execRegisterWrite f off size v s = _
  unfold execRegisterWrite
  dsimp only
  rw [if_neg (by simp [hb, hf]), if_pos hf]

theorem exec_registerWrite_vf (hb : barOk off.toNat size = true) (hf : f.val ≠ 0) (ho : off.toNat < 0x10000) :
    exec (.registerWrite f off size v) s = .next (s.vfWrite f off.toNat size v) := by
  show execRegisterWrite f off size v s = _
  unfold execRegisterWrite
  dsimp only
  rw [if_neg (by rw [hb]; simp; omega), if_neg hf]

end

theorem RegDef.mask_none (r : RegDef) {p : RField → Bool} (h : ∀ f, p f = false) : r.mask p = 0 := by
  unfold RegDef.mask
  simp [h]

/-- Nothing written, nothing refused. -/
theorem badFields_zero (base : Nat) (v : Word64) : badFields base 0 v = [] := by
  simp [badFields, bit]

/-- A VF's write of what its BAR0 does not show, or shows read-only as its DMA windows, is counted at most (R355). -/
theorem State.vfWrite_wrote1 {s : State} {fn off : Nat} (n : Nat) (v : Word64) (hf : fn ≠ 0) (hf9 : fn < 9)
    (h : s.vfOff fn (off / 8 * 8) = none ∨ 0x2000 ≤ off ∧ off < 0x2100) : s.Wrote1 (s.vfWrite fn off n v) [] := by
  have hReject : s.Wrote1 (s.rejectReg off) [] := (State.Wrote1.refl s []).rejectReg off
  unfold State.vfWrite
  rcases h with h | ⟨hlo, hhi⟩
  · rw [h]
    exact hReject
  · have hWindow : s.vfOff fn (off / 8 * 8) =
        some (Reg.PCI_DMAW_BASE fn 0 + (off / 8 * 8 - 0x2000), fun _ => true) := by
      unfold State.vfOff
      rw [if_neg (by omega), if_pos (by omega)]
    rw [hWindow]
    dsimp only
    generalize ho : Reg.PCI_DMAW_BASE fn 0 + (off / 8 * 8 - 0x2000) + off % 8 = o
    unfold Reg.PCI_DMAW_BASE at ho
    cases hr : regAt (o / 8 * 8) with
    | none =>
      rw [State.regWriteBy_none hr]
      exact hReject
    | some x =>
      have hKey : keyReg (o / 8 * 8) = false :=
        decide_eq_false (by unfold Reg.SAF_MGKEY Reg.SAF_MGKEY_CTL; omega)
      have hActs : actingReg (o / 8 * 8) = false := by
        simp [actingReg, Reg.HIVE_LOCK, Reg.HIVE_IMASK, Reg.TIM_CTL, Reg.SAF_TJ, Reg.SAF_PWR, Reg.SAF_COOL, Reg.SAF_OC,
          Reg.SAF_MGKEY_CTL, Reg.QN_RESET, Reg.QN_RETAIN, Reg.RT_LOAD_CTL, Reg.SAF_FENCE_CTL, Reg.QN_WIRE_CTL,
          Reg.QN_FW_CTL, Reg.RT_SW_CTL, Reg.SAF_MGKEY, Reg.FAB_PORT]
        omega
      rw [State.regWriteBy_some hr hKey]
      obtain ⟨s1, hNoted, e⟩ := State.defWrite_accepted (s := s) (fn := fn) (off := o / 8 * 8) (at_ := off)
        (b := o % 8) (n := n) (raw := (v <<< (8 * (o % 8))) &&& writtenBits (o % 8) n) (roF := fun _ => true)
        (RegDef.mask_none x.1 (by simp)) (RegDef.mask_none x.1 (by simp [State.mayWrite])).symm
        (mixBits_zero _ _).symm (badFields_zero _ _) (Or.inl rfl)
      rw [e, State.regWrote_hive (by omega) hActs, if_pos (by simp only [Reg.PCI_DMAW_BASE]; omega), if_neg hf]
      exact hNoted.wrote1 []

/-! Settings registers. -/

section
variable {s : State} {off : BitVec 26} {size : Fin 9} {v raw wr new : Word64} {k base idx : Nat} {r : RegDef}

/-- PF0's write of a register that `plainRegs` lists is a write of its definition. -/
theorem State.regWrite_plain (hbase : base = off.toNat / 8 * 8) (hk : k < 8) (hm : base ∈ plainRegs k)
    (hr : regAt base = some (r, idx)) (hraw : raw = (v <<< (8 * (off.toNat % 8))) &&& writtenBits (off.toNat % 8) size) :
    r.w1c (fun _ => false) = 0 ∧
      s.regWrite off.toNat size v = s.defWrite r 0 base off.toNat (off.toNat % 8) size raw fun _ => false := by
  obtain ⟨-, hKey, -, hClear⟩ := plainRegs_settings k hk base hm
  rw [hr] at hClear
  subst hbase
  exact ⟨of_decide_eq_true hClear, by rw [State.regWrite, State.regWriteBy_some hr hKey, hraw]⟩

/-- With every value accepted a settings register holds what was written in the fields that may be written. -/
theorem exec_registerWrite_stores (hb : barOk off.toNat size = true) (hbase : base = off.toNat / 8 * 8) (hk : k < 8)
    (hm : base ∈ plainRegs k) (hr : regAt base = some (r, idx))
    (hwr : wr = r.mask (fun x => s.mayWrite false x && x.within (off.toNat % 8) size))
    (hraw : raw = (v <<< (8 * (off.toNat % 8))) &&& writtenBits (off.toNat % 8) size)
    (hnew : new = mixBits wr raw (s.reg base)) (hbad : badFields r.base wr new = [])
    (hw : s.badWhole r.base base new = none) :
    ∃ t, exec (.registerWrite 0 off size v) s = .next t ∧ t.reg base = new ∧ s.Wrote1 t [base] := by
  obtain ⟨hSettings, -, -, -⟩ := plainRegs_settings k hk base hm
  obtain ⟨hClear, e⟩ := State.regWrite_plain (s := s) hbase hk hm hr hraw
  obtain ⟨s1, hNoted, e1⟩ := State.defWrite_accepted (s := s) (fn := 0) (at_ := off.toNat) hClear hwr hnew hbad
    (Or.inr hw)
  refine ⟨s1.setReg base new, ?_, State.reg_setReg _ _ _, (hNoted.wrote1 [base]).setReg new (by simp)⟩
  rw [exec_registerWrite_pf0 v s hb rfl, e, e1, State.regWrote_settings hSettings]

/-- What a refusal leaves at a settings register. -/
theorem State.Refused.of_settings {s1 : State} {u : Word64} {q : Nat} (hNoted : s.Noted off.toNat s1)
    (hq : q / 0x1000 = 5) (hRep : base ∉ refuseRegs) :
    ((s1.setReg base u).refuseReg q off.toNat).reg base = u ∧
      s.Refused ((s1.setReg base u).refuseReg q off.toNat) q off.toNat := by
  have hCount : (s1.setReg base u).fget RF.HIVE_WREJ_REF_CNT = s.fget RF.HIVE_WREJ_REF_CNT := by
    have hne : RF.HIVE_WREJ_REF_CNT.off ≠ base := fun h => hRep (h ▸ by decide)
    rw [← hNoted.refusals, State.fget, State.reg_setReg_ne _ _ hne, State.fget]
  exact ⟨by rw [State.reg_refuseReg _ _ _ hRep, State.reg_setReg],
    State.refuseReg_refused hCount (by omega) off.isLt⟩

/-- One refused value leaves its field, the others are stored, and its reason is reported. -/
theorem exec_registerWrite_refuses_field {x : Nat × Nat × Nat} {wr1 : Word64} (hb : barOk off.toNat size = true)
    (hbase : base = off.toNat / 8 * 8) (hk : k < 8) (hm : base ∈ plainRegs k) (hr : regAt base = some (r, idx))
    (hwr : wr = r.mask (fun x => s.mayWrite false x && x.within (off.toNat % 8) size))
    (hraw : raw = (v <<< (8 * (off.toNat % 8))) &&& writtenBits (off.toNat % 8) size)
    (hnew : new = mixBits wr raw (s.reg base)) (hbad : badFields r.base wr new = [x])
    (hwr1 : wr1 = putFld wr x.1 x.2.1 0) (hw : s.badWhole r.base base (mixBits wr1 raw (s.reg base)) = none) :
    ∃ t, exec (.registerWrite 0 off size v) s = .next t ∧ t.reg base = mixBits wr1 raw (s.reg base) ∧
      s.Refused t x.2.2 off.toNat := by
  obtain ⟨hSettings, -, hRep, -⟩ := plainRegs_settings k hk base hm
  obtain ⟨hClear, e⟩ := State.regWrite_plain (s := s) hbase hk hm hr hraw
  have hq : x.2.2 / 0x1000 = 5 := badFields_class5 (hbad ▸ List.mem_singleton_self x)
  obtain ⟨s1, hNoted, e1⟩ := State.defWrite_refused (s := s) (fn := 0) (at_ := off.toNat) (bad := [x]) (whole := none)
    (q := x.2.2) hClear hwr (hnew ▸ hbad) (wr1 := wr1) hwr1 rfl (by rw [hw, ite_self]) (pick_class5 (by simp) (by simp) hq)
  refine ⟨_, ?_, State.Refused.of_settings hNoted hq hRep⟩
  rw [exec_registerWrite_pf0 v s hb rfl, e, e1, State.regWrote_settings hSettings]
  rfl

/-- A refused combination leaves the whole register, and its reason is reported. -/
theorem exec_registerWrite_refuses_whole {q : Nat} (hb : barOk off.toNat size = true)
    (hbase : base = off.toNat / 8 * 8) (hk : k < 8) (hm : base ∈ plainRegs k) (hr : regAt base = some (r, idx))
    (hwr : wr = r.mask (fun x => s.mayWrite false x && x.within (off.toNat % 8) size))
    (hraw : raw = (v <<< (8 * (off.toNat % 8))) &&& writtenBits (off.toNat % 8) size)
    (hnew : new = mixBits wr raw (s.reg base)) (hbad : badFields r.base wr new = []) (hne : wr ≠ 0)
    (hw : s.badWhole r.base base new = some q) :
    ∃ t, exec (.registerWrite 0 off size v) s = .next t ∧ t.reg base = s.reg base ∧ s.Refused t q off.toNat := by
  obtain ⟨hSettings, -, hRep, -⟩ := plainRegs_settings k hk base hm
  obtain ⟨hClear, e⟩ := State.regWrite_plain (s := s) hbase hk hm hr hraw
  have hq : q / 0x1000 = 5 := State.badWhole_class5 hw
  obtain ⟨s1, hNoted, e1⟩ := State.defWrite_refused (s := s) (fn := 0) (at_ := off.toNat) (bad := []) (wr1 := wr)
    (v1 := new) (whole := some q) (q := q) hClear hwr (hnew ▸ hbad) rfl hnew (by rw [if_neg hne, hw])
    (pick_class5 (by simp) (by simp) hq)
  refine ⟨_, ?_, State.Refused.of_settings hNoted hq hRep⟩
  rw [exec_registerWrite_pf0 v s hb rfl, e, e1, State.regWrote_settings hSettings]
  rfl

end

end Sys2Proof.Machine

/-! Reserved offsets, counters, interrupt enables, safety thresholds and die windows (R129, R473, R485, R489, R490). -/

namespace Sys2Proof.Machine

/-- PF0's write at a reserved offset is counted and changes nothing else (R474). -/
theorem exec_registerWrite_reserved {f : FnId} {off : BitVec 26} {size : Fin 9} (v : Word64) (s : State)
    (hb : barOk off.toNat size = true) (hf : f.val = 0) (hr : regAt (off.toNat / 8 * 8) = none) :
    ∃ t, exec (.registerWrite f off size v) s = .next t ∧ s.Wrote1 t [] ∧
      t.fget RF.HIVE_WREJ_RO_CNT = satAdd RF.HIVE_WREJ_RO_CNT.w (s.fget RF.HIVE_WREJ_RO_CNT) 1 := by
  refine ⟨s.rejectReg off.toNat, ?_, (State.Wrote1.refl s []).rejectReg _, s.rejectReg_count _⟩
  rw [exec_registerWrite_pf0 v s hb hf, State.regWrite, State.regWriteBy_none hr]

/-- COUNTER_WRITE sets its counter, and every other one of the die keeps its value. -/
theorem exec_counterWrite_sets (s : State) (d : DieId) (n : Fin 1024) (v : BitVec 32) :
    ∃ t, exec (.counterWrite d n v) s = .next t ∧ t.cnt d n = v.toNat ∧
      (∀ m < 1024, m ≠ n.val → t.cnt d m = s.cnt d m) ∧
      (s.core.cores = [] → State.Only [.regs] s t ∧ State.RegsBut [Reg.WRK_CNT d n] s t) := by
  refine ⟨s.cntSet d n v.toNat, rfl, ?_, fun m hm hne => ?_, fun hc => ?_⟩
  · rw [State.cnt_set _ _ _ _ n.isLt, Nat.mod_eq_of_lt v.isLt]
  · show (s.cntSet d n v.toNat).fget (RF.WRK_CNT_VALUE d m) = s.fget (RF.WRK_CNT_VALUE d m)
    unfold State.cntSet
    rw [State.wakeDie_kept _ _ _ (cnt_apart d m hm)]
    refine State.fget_fset_ne _ _ _ _ (Or.inl ?_)
    simp only [RF.WRK_CNT_VALUE, Reg.WRK_CNT]
    omega
  · have e : s.cntSet d n v.toNat = s.fset (RF.WRK_CNT_VALUE d n) v.toNat := by
      unfold State.cntSet State.wakeDie
      rw [State.fset_core, hc]
      rfl
    rw [e]
    exact ⟨only_of_keeps fun _ K h => State.fset_keeps K _ _ h, (State.RegsBut.rfl' _ s).fset (by simp [RF.WRK_CNT_VALUE])⟩

/-! Whole registers written by PF0. -/

theorem shl_zero_and_writtenBits (v : Word64) : (v <<< (8 * 0)) &&& writtenBits 0 8 = v := by
  have h : writtenBits 0 8 = BitVec.allOnes 64 := by decide
  rw [h, BitVec.and_allOnes]
  simp

theorem writtenBits_and (v : Word64) : writtenBits 0 8 &&& v = v := by
  have h : writtenBits 0 8 = BitVec.allOnes 64 := by decide
  rw [h, BitVec.allOnes_and]

/-- PF0's 8-byte write of a register that is not a key register. -/
theorem State.regWrite_whole {off i : Nat} {r : RegDef} (ho : off % 8 = 0) (hr : regAt off = some (r, i))
    (hk : keyReg off = false) (s : State) (v : Word64) :
    s.regWrite off 8 v = s.defWrite r 0 off off 0 8 v fun _ => false := by
  have hbase : off / 8 * 8 = off := by omega
  rw [← hbase] at hr hk
  rw [State.regWrite, State.regWriteBy_some hr hk, ho, hbase, shl_zero_and_writtenBits]

/-- A register at its definition's base that PF0 writes whole: which bits change under the lock, which without it,
and none that a one clears. -/
def maskedReg (off : Nat) (held free : Word64) : Bool :=
  decide (off % 8 = 0) && !keyReg off && (regAt off).any fun x =>
    decide (x.1.base = off) && decide (x.1.w1c (fun _ => false) = 0) &&
      decide ((x.1.mask fun f => decide (f.acc = .rw) && f.within 0 8) = held) &&
      decide ((x.1.mask fun f => (decide (f.acc = .rw) || decide (f.acc = .rwl)) && f.within 0 8) = free)

theorem RegDef.mask_congr (r : RegDef) {p q : RField → Bool} (h : ∀ f, p f = q f) : r.mask p = r.mask q := by
  rw [funext h]

/-- The definition with which PF0 writes such a register. -/
theorem State.regWrite_masked {off : Nat} {held free : Word64} (h : maskedReg off held free = true) (s : State)
    (v : Word64) : ∃ r : RegDef, r.base = off ∧ r.w1c (fun _ => false) = 0 ∧
      (s.openMask r 0 8 fun _ => false) = (if s.locked then held else free) ∧
      s.regWrite off 8 v = s.defWrite r 0 off off 0 8 v fun _ => false := by
  unfold maskedReg at h
  simp only [Bool.and_eq_true, decide_eq_true_eq, Bool.not_eq_true'] at h
  obtain ⟨⟨ho, hKey⟩, hDef⟩ := h
  cases hr : regAt off with
  | none => rw [hr] at hDef; cases hDef
  | some x =>
    rw [hr] at hDef
    simp only [Option.any_some, Bool.and_eq_true, decide_eq_true_eq] at hDef
    obtain ⟨⟨⟨hBase, hClear⟩, hRw⟩, hAll⟩ := hDef
    refine ⟨x.1, hBase, hClear, ?_, State.regWrite_whole ho hr hKey s v⟩
    cases hl : s.locked
    · exact (x.1.mask_congr fun f => by simp [State.mayWrite, hl]).trans hAll
    · exact (x.1.mask_congr fun f => by simp [State.mayWrite, hl]).trans hRw

/-- The checks of single values that a write meets: those of its register whose fields it may change. -/
theorem badFields_eq {base : Nat} {wr v : Word64} {rs : List (Nat × Nat × Nat × Nat × Nat × Nat)}
    (hr : (fieldRanges.filter fun f => decide (f.1 = base) && bit wr f.2.1) = rs)
    (ha : (fieldAligns.filter fun f => decide (f.1 = base) && bit wr f.2.1) = []) (hc : base ≠ Reg.RING_CFG 0) :
    badFields base wr v = (rs.filter fun f => decide (fld v f.2.1 f.2.2.1 < f.2.2.2.1 ∨
      f.2.2.2.2.1 < fld v f.2.1 f.2.2.1)).map fun f => (f.2.1, f.2.2.1, f.2.2.2.2.2) := by
  subst hr
  have ha' : (fieldAligns.filter fun f => decide (f.1 = base) && bit wr f.2.1 &&
      decide (fld v f.2.1 f.2.2.1 % f.2.2.2.1 ≠ 0)) = [] := by
    rw [List.filter_eq_nil_iff] at ha ⊢
    exact fun f hf h => ha f hf (Bool.and_eq_true _ _ ▸ h : _ ∧ _).1
  unfold badFields
  dsimp only
  rw [ha', if_neg (by simp [hc]), List.filter_filter, List.map_nil, List.append_nil, List.append_nil]
  simp only [Bool.and_comm]

/-! Interrupt enables. -/

theorem imask_masked : maskedReg Reg.HIVE_IMASK 0xFFFE 0xFFFE = true := by decide +kernel

/-- IMASK_WRITE stores the enables and leaves the reserved bit; vector 0 is raised once if an enable meets a set
event (R485). -/
theorem exec_imaskWrite_enables (s : State) {v n : Word64} (hn : n = mixBits 0xFFFE v (s.reg Reg.HIVE_IMASK)) :
    ∃ t, exec (.imaskWrite v) s = .next t ∧ t.reg Reg.HIVE_IMASK = n ∧ t.out = s.out ++
        (if n &&& ~~~s.reg Reg.HIVE_IMASK &&& s.reg Reg.HIVE_ISUM &&& 0xFFFE = 0 then [] else [.msix 0 0]) ∧
      State.Only [.out, .regs] s t ∧ State.RegsBut [Reg.HIVE_IMASK, Reg.HIVE_WREJ, Reg.HIVE_WREJ2] s t := by
  obtain ⟨r, hBase, hClear, hOpen, e⟩ := s.regWrite_masked imask_masked v
  rw [ite_self] at hOpen
  obtain ⟨s1, hNoted, e1⟩ := State.defWrite_accepted (s := s) (fn := 0) (off := Reg.HIVE_IMASK) (at_ := Reg.HIVE_IMASK)
    hClear hOpen.symm hn (by rw [hBase]; exact badFields_eq (rs := []) (by decide) (by decide) (by decide))
    (Or.inr (by rw [hBase]; rfl))
  have hReg : ∀ o ∉ [Reg.HIVE_WREJ, Reg.HIVE_WREJ2], s1.reg o = s.reg o := fun o ho => hNoted.reg ho
  have hWrite : exec (.imaskWrite v) s = .next (s1.imaskWrote n) := by
    show Host.Outcome.next (s.regWrite Reg.HIVE_IMASK 8 v) = _
    rw [e, e1]
    rfl
  have hSet := (hNoted.wrote1 [Reg.HIVE_IMASK]).setReg n (List.mem_singleton_self _)
  have hOut : (s1.setReg Reg.HIVE_IMASK n).out = s.out := hSet.1.1 .out (by decide)
  refine ⟨_, hWrite, ?_⟩
  unfold State.imaskWrote
  rw [hReg _ (by decide), hReg _ (by decide)]
  dsimp only
  split
  · exact ⟨State.reg_setReg _ _ _, by rw [hOut, List.append_nil], hSet.1.mono rfl, hSet.2⟩
  · exact ⟨State.reg_setReg _ _ _, by rw [← hOut]; rfl, (hSet.1.mono rfl).trans
      (only_of_keeps fun _ K h => State.raise_keeps (K.mono rfl) _ _ h), hSet.2.of_eq rfl⟩

/-! Safety thresholds. -/

/-- The threshold registers (R489). -/
def safRegs : List Nat := [Reg.SAF_TJ, Reg.SAF_PWR, Reg.SAF_COOL, Reg.SAF_OC]

/-- Bits of a threshold register's thresholds. -/
def safMask (off : Nat) : Word64 :=
  (safRanges off).foldl (fun m x => putFld m x.1 x.2.1 (2 ^ x.2.1 - 1)) 0

theorem mem_safRegs {off : Nat} (h : safRanges off ≠ []) : off ∈ safRegs := by
  by_contra hn
  exact h (safRanges_nil hn)

/-- Every writable field of a threshold register is a threshold, which the lock keeps; none clears with a one. -/
theorem safRegs_def : ∀ off ∈ safRegs, maskedReg off 0 (safMask off) = true ∧ off ∉ refuseRegs := by decide +kernel

theorem safMask_covers : ∀ off ∈ safRegs, ∀ x ∈ safRanges off, x.1 + x.2.1 ≤ 64 ∧
    ∀ i < 64, x.1 ≤ i → i < x.1 + x.2.1 → (safMask off).getLsbD i = true := by decide +kernel

/-- A written threshold register holds the thresholds written. -/
theorem fld_mixBits_saf {off : Nat} (h : off ∈ safRegs) (v c : Word64) :
    ∀ x ∈ safRanges off, fld (mixBits (safMask off) v c) x.1 x.2.1 = fld v x.1 x.2.1 := fun x hx => by
  obtain ⟨hn, hSet⟩ := safMask_covers off h x hx
  exact fld_mixBits_of_set v c hn fun i hlo hhi => hSet i (by omega) hlo hhi

/-- A refusal's report stands in no threshold register. -/
theorem safRegs_unreported {off : Nat} (h : off ∈ safRegs) : off ∉ [Reg.HIVE_WREJ, Reg.HIVE_WREJ2] := by
  revert off
  decide

/-- The thresholds of a written register that are out of range, each with its reason. -/
def safOut (off : Nat) (v : Word64) : List (Nat × Nat × Nat) :=
  ((safRanges off).filter fun f => decide (fld v f.1 f.2.1 < f.2.2.1 ∨ f.2.2.2 < fld v f.1 f.2.1)).map fun f =>
    (f.1, f.2.1, 0x5F02)

/-- The model's checks of a threshold register's values are its ranges, with one reason. -/
theorem safRanges_checked {off : Nat} (h : off ∈ safRegs) : off ≠ Reg.RING_CFG 0 ∧
    (fieldAligns.filter fun f => decide (f.1 = off) && bit (safMask off) f.2.1) = [] ∧
    (fieldRanges.filter fun f => decide (f.1 = off) && bit (safMask off) f.2.1) =
      (safRanges off).map fun x => (off, x.1, x.2.1, x.2.2.1, x.2.2.2, 0x5F02) := by
  simp only [safRegs, List.mem_cons, List.not_mem_nil, or_false] at h
  rcases h with rfl | rfl | rfl | rfl
  all_goals exact ⟨by decide, by decide +kernel, by decide +kernel⟩

theorem badFields_saf {off : Nat} (h : off ∈ safRegs) (v : Word64) : badFields off (safMask off) v = safOut off v := by
  obtain ⟨hc, ha, hr⟩ := safRanges_checked h
  rw [badFields_eq hr ha hc, List.filter_map, List.map_map]
  rfl

/-- The one refused combination of thresholds: TJ_SHUT within 10 °C of TJ_THROT. -/
theorem badWhole_saf {off : Nat} (h : off ∈ safRegs) (s : State) (v : Word64) : s.badWhole off off v =
    if off = Reg.SAF_TJ ∧ fld v 8 8 < fld v 0 8 + 10 then some 0x5F02 else none := by
  simp only [safRegs, List.mem_cons, List.not_mem_nil, or_false] at h
  rcases h with rfl | rfl | rfl | rfl
  · by_cases hv : fld v 8 8 < fld v 0 8 + 10
    · rw [if_pos ⟨rfl, hv⟩]
      exact if_pos hv
    · rw [if_neg fun c => hv c.2]
      exact if_neg hv
  all_goals rfl

/-- Values with the same thresholds have the same ones out of range. -/
theorem safOut_congr {off : Nat} {v w : Word64} (h : ∀ x ∈ safRanges off, fld v x.1 x.2.1 = fld w x.1 x.2.1) :
    safOut off v = safOut off w := by
  unfold safOut
  rw [List.filter_congr fun x hx => by rw [h x hx]]

/-- A written TJ_SHUT within 10 °C of TJ_THROT was so in the value written. -/
theorem fld_tj {off : Nat} (h : off ∈ safRegs) (v c : Word64)
    (ht : off = Reg.SAF_TJ ∧ fld (mixBits (safMask off) v c) 8 8 < fld (mixBits (safMask off) v c) 0 8 + 10) :
    off = Reg.SAF_TJ ∧ fld v 8 8 < fld v 0 8 + 10 := by
  obtain ⟨rfl, hlt⟩ := ht
  have hFields := fld_mixBits_saf h v c
  rw [hFields (8, 8, 95, 115) (by decide), hFields (0, 8, 85, 105) (by decide)] at hlt
  exact ⟨rfl, hlt⟩

/-- Every refusal of thresholds has the one reason. -/
theorem pick_saf {off : Nat} (h : off ∈ safRegs) (s : State) (w : Word64) (p : Prop) [Decidable p] (u : Word64) :
    ∀ x ∈ (safOut off w).map (fun f => (true, f.2.2)) ++
      (if p then none else s.badWhole off off u).toList.map fun q => (true, q), x = (true, 0x5F02) := by
  intro x hx
  rcases List.mem_append.mp hx with hx | hx
  · obtain ⟨f, hf, rfl⟩ := List.mem_map.mp hx
    obtain ⟨y, -, rfl⟩ := List.mem_map.mp hf
    rfl
  · rw [badWhole_saf h] at hx
    split_ifs at hx
    · cases hx
    · simpa using hx
    · cases hx

/-- Thresholds in range and TJ_SHUT far enough from TJ_THROT: no value and no combination is refused. -/
theorem safBad_false {off : Nat} {v : Word64} (h : safBad off v = false) :
    safOut off v = [] ∧ ¬(off = Reg.SAF_TJ ∧ fld v 8 8 < fld v 0 8 + 10) := by
  rw [safBad, Bool.or_eq_false_iff] at h
  obtain ⟨hRange, hTj⟩ := h
  refine ⟨?_, by simpa using hTj⟩
  rw [safOut, List.map_eq_nil_iff, List.filter_eq_nil_iff]
  exact fun f hf => by simpa using List.any_eq_false.mp hRange f hf

/-- Without the rails, and for the coolant and current thresholds, no present reading acts as a crossing. -/
theorem State.safCross_quiet {s : State} {off : Nat} (h : s.pwr.rails = false ∨ off ∈ [Reg.SAF_COOL, Reg.SAF_OC]) :
    s.safCross off = s := by
  unfold State.safCross
  rcases h with h | h
  · simp [h]
  · have hne : off ≠ Reg.SAF_TJ ∧ off ≠ Reg.SAF_PWR := by
      simp only [List.mem_cons, List.not_mem_nil, or_false] at h
      rcases h with rfl | rfl <;> decide
    rw [if_neg hne.1, if_neg hne.2, ite_self]

/-- The write of a threshold register: it stores its value, where no reading crosses it at once. -/
theorem State.regWrote_saf {off : Nat} (h : off ∈ safRegs) (s : State) (fn : Nat) (v go m raw : Word64) :
    s.regWrote fn off v go m raw = if s.reg off = v then s else (s.setReg off v).safCross off := by
  have hne : safRanges off ≠ [] ∧ ¬0x1000000 ≤ off ∧ off ≠ Reg.HIVE_LOCK ∧ off ≠ Reg.HIVE_IMASK ∧ off ≠ Reg.TIM_CTL := by
    revert off
    decide
  obtain ⟨hSaf, hHive, hLock, hMask, hTim⟩ := hne
  unfold State.regWrote
  rw [if_neg hHive, if_neg hLock, if_neg hMask, if_neg hTim, if_pos hSaf]

/-- The write that SAFETY_THRESHOLD_WRITE makes, with the bits it may change: none under the lock. -/
theorem State.regWrite_saf {off : Nat} (h : off ∈ safRegs) (s : State) (v : Word64) : ∃ r : RegDef, r.base = off ∧
    r.w1c (fun _ => false) = 0 ∧ (s.openMask r 0 8 fun _ => false) = (if s.locked then 0 else safMask off) ∧
    s.regWrite off 8 v = s.defWrite r 0 off off 0 8 v fun _ => false :=
  s.regWrite_masked (safRegs_def off h).1 v

section
variable {s : State} {off : BitVec 26} {v : Word64}

theorem exec_safetyThresholdWrite_none (h : safRanges off.toNat = []) :
    exec (.safetyThresholdWrite off v) s = .next s := by
  show execSafetyThresholdWrite off v s = _
  rw [execSafetyThresholdWrite, if_neg (not_not.mpr h)]

theorem exec_safetyThresholdWrite_some (h : safRanges off.toNat ≠ []) :
    exec (.safetyThresholdWrite off v) s = .next (s.regWrite off.toNat 8 v) := by
  show execSafetyThresholdWrite off v s = _
  rw [execSafetyThresholdWrite, if_pos h]

/-- Under the lock a threshold keeps its value. -/
theorem exec_safetyThresholdWrite_locked (h : safRanges off.toNat ≠ []) (hl : s.locked = true) :
    ∃ t, exec (.safetyThresholdWrite off v) s = .next t ∧ s.Wrote1 t [] := by
  have hm := mem_safRegs h
  obtain ⟨r, -, hClear, hOpen, e⟩ := s.regWrite_saf hm v
  rw [hl, if_pos rfl] at hOpen
  obtain ⟨s1, hNoted, e1⟩ := State.defWrite_accepted (s := s) (fn := 0) (off := off.toNat) (at_ := off.toNat) (raw := v)
    hClear hOpen.symm (mixBits_zero v _).symm (badFields_zero _ _) (Or.inl rfl)
  have hReg : s1.reg off.toNat = s.reg off.toNat := hNoted.reg (safRegs_unreported hm)
  refine ⟨s1, ?_, hNoted.wrote1 []⟩
  rw [exec_safetyThresholdWrite_some h, e, e1, State.regWrote_saf hm, if_pos hReg]

/-- What a write leaves of a threshold register when no reading crosses it: the new value and no more. -/
theorem State.Noted.regWrote_saf {s s1 : State} {o a : Nat} (hNoted : s.Noted a s1) (hm : o ∈ safRegs)
    (hq : s.pwr.rails = false ∨ o ∈ [Reg.SAF_COOL, Reg.SAF_OC]) (u go m raw : Word64) :
    (s1.regWrote 0 o u go m raw).reg o = u ∧ s.Wrote1 (s1.regWrote 0 o u go m raw) [o] ∧
      (s1.regWrote 0 o u go m raw).fget RF.HIVE_WREJ_REF_CNT = s.fget RF.HIVE_WREJ_REF_CNT := by
  have hPwr : (s1.setReg o u).pwr = s.pwr := ((hNoted.wrote1 [o]).setReg u (by simp)).1.1 .pwr (by decide)
  have hne : RF.HIVE_WREJ_REF_CNT.off ≠ o := fun e => safRegs_unreported hm (e ▸ by decide)
  rw [State.regWrote_saf hm]
  split
  · rename_i hSame
    exact ⟨hSame, hNoted.wrote1 _, hNoted.refusals⟩
  · rw [State.safCross_quiet (hq.imp_left fun hr => by rw [hPwr, hr])]
    refine ⟨State.reg_setReg _ _ _, (hNoted.wrote1 [o]).setReg u (by simp), ?_⟩
    rw [← hNoted.refusals, State.fget, State.reg_setReg_ne _ _ hne, State.fget]

/-- A threshold in range is stored. -/
theorem exec_safetyThresholdWrite_stores (h : safRanges off.toNat ≠ []) (hl : s.locked = false)
    (hq : s.pwr.rails = false ∨ off.toNat ∈ [Reg.SAF_COOL, Reg.SAF_OC]) (hGood : safBad off.toNat v = false) :
    ∃ t, exec (.safetyThresholdWrite off v) s = .next t ∧
      (∀ x ∈ safRanges off.toNat, fld (t.reg off.toNat) x.1 x.2.1 = fld v x.1 x.2.1) ∧ s.Wrote1 t [off.toNat] := by
  have hm := mem_safRegs h
  obtain ⟨hNone, hTj⟩ := safBad_false hGood
  obtain ⟨r, hBase, hClear, hOpen, e⟩ := s.regWrite_saf hm v
  rw [hl, if_neg Bool.false_ne_true] at hOpen
  have hFields := fld_mixBits_saf hm v (s.reg off.toNat)
  have hSafOut : safOut off.toNat (mixBits (safMask off.toNat) v (s.reg off.toNat)) = [] := by
    rw [← hNone]
    exact safOut_congr hFields
  obtain ⟨s1, hNoted, e1⟩ := State.defWrite_accepted (s := s) (fn := 0) (off := off.toNat) (at_ := off.toNat) (raw := v)
    hClear hOpen.symm rfl (by rw [hBase, badFields_saf hm, hSafOut])
    (Or.inr (by rw [hBase, badWhole_saf hm, if_neg (fun c => hTj (fld_tj hm v _ c))]))
  obtain ⟨hReg, hWrote, -⟩ := hNoted.regWrote_saf hm hq (mixBits (safMask off.toNat) v (s.reg off.toNat))
    (writtenBits 0 8 &&& v) (writtenBits 0 8) v
  refine ⟨_, ?_, fun x hx => by rw [hReg, hFields x hx], hWrote⟩
  rw [exec_safetyThresholdWrite_some h, e, e1]

/-- A threshold out of range is refused and keeps its value. -/
theorem exec_safetyThresholdWrite_refuses (h : safRanges off.toNat ≠ []) (hl : s.locked = false)
    (hq : s.pwr.rails = false ∨ off.toNat ∈ [Reg.SAF_COOL, Reg.SAF_OC]) {x : Nat × Nat × Nat × Nat}
    (hx : x ∈ safRanges off.toNat) (hout : fld v x.1 x.2.1 < x.2.2.1 ∨ x.2.2.2 < fld v x.1 x.2.1) :
    ∃ t, exec (.safetyThresholdWrite off v) s = .next t ∧ s.Refused t 0x5F02 off.toNat ∧
      fld (t.reg off.toNat) x.1 x.2.1 = fld (s.reg off.toNat) x.1 x.2.1 := by
  have hm := mem_safRegs h
  obtain ⟨r, hBase, hClear, hOpen, e⟩ := s.regWrite_saf hm v
  rw [hl, if_neg Bool.false_ne_true] at hOpen
  have hFields := fld_mixBits_saf hm v (s.reg off.toNat)
  have hBad : (x.1, x.2.1, 0x5F02) ∈ safOut off.toNat (mixBits (safMask off.toNat) v (s.reg off.toNat)) :=
    List.mem_map.mpr ⟨x, List.mem_filter.mpr ⟨hx, by rw [hFields x hx]; exact decide_eq_true hout⟩, rfl⟩
  obtain ⟨wr1, hwr1⟩ : ∃ w, w = (safOut off.toNat (mixBits (safMask off.toNat) v (s.reg off.toNat))).foldl
    (fun (m : Word64) f => putFld m f.1 f.2.1 0) (safMask off.toNat) := ⟨_, rfl⟩
  obtain ⟨whole, hWhole⟩ : ∃ q, (if wr1 = 0 then none else
    s.badWhole off.toNat off.toNat (mixBits wr1 v (s.reg off.toNat))) = q := ⟨_, rfl⟩
  have hPick := pick_saf hm s (mixBits (safMask off.toNat) v (s.reg off.toNat)) (wr1 = 0)
    (mixBits wr1 v (s.reg off.toNat))
  rw [hWhole] at hPick
  obtain ⟨s1, hNoted, e1⟩ := State.defWrite_refused (s := s) (fn := 0) (off := off.toNat) (at_ := off.toNat) (raw := v)
    hClear hOpen.symm (by rw [hBase, badFields_saf hm]) hwr1 rfl (by rw [hBase, hWhole])
    (pick_class5 (fun c => List.ne_nil_of_mem hBad (List.map_eq_nil_iff.mp (List.append_eq_nil_iff.mp c).1)) hPick rfl)
  obtain ⟨hReg, -, hCount⟩ := hNoted.regWrote_saf hm hq
    (if whole.isSome then s.reg off.toNat else mixBits wr1 v (s.reg off.toNat)) (writtenBits 0 8 &&& v) (writtenBits 0 8) v
  obtain ⟨-, hRep⟩ := safRegs_def _ hm
  refine ⟨_, by rw [exec_safetyThresholdWrite_some h, e, e1], State.refuseReg_refused hCount (by decide) off.isLt, ?_⟩
  rw [State.reg_refuseReg _ _ _ hRep, hReg]
  split
  · rfl
  · refine fld_mixBits_of_clear _ _ fun i hlo hhi => ?_
    have hi : i < 64 := by
      have := safMask_covers _ hm x hx
      omega
    rw [hwr1, getLsbD_clearFields _ _ hi, List.all_eq_false.mpr ⟨_, hBad, by simp [hlo, hhi]⟩, Bool.and_false]

end

end Sys2Proof.Machine

/-! Die windows (R473). -/

namespace Sys2Proof.Machine

theorem dieReg_lt (d : DieId) (off : Nat) : dieReg d off < 2 ^ 26 := by
  have := d.isLt
  unfold dieReg
  omega

theorem toNat_ofNat_dieReg (d : DieId) (off : Nat) : (BitVec.ofNat 26 (dieReg d off)).toNat = dieReg d off := by
  rw [BitVec.toNat_ofNat, Nat.mod_eq_of_lt (dieReg_lt d off)]

/-- A die's registers show what they hold. -/
theorem State.viewAt_die {o : Nat} (h : 0x1000000 ≤ o) (s : State) :
    s.viewAt o = if (regAt o).isSome then s.reg o else 0 := by
  have hHive : s.hiveView o = none := by
    have hne : ∀ r < 0x1000000, ¬o = r := fun r hr => by omega
    unfold State.hiveView
    iterate 13 rw [if_neg (hne _ (by decide))]
    rw [if_neg (by simp only [Reg.FAB_PORT]; omega), if_neg (by simp only [Reg.QN_SPARE]; omega)]
  have hWindow : s.windowView o = none := by
    unfold State.windowView
    rw [if_neg (by omega), if_neg (by omega), if_neg (by omega)]
  rw [State.viewAt, hHive]
  dsimp only
  rw [hWindow]

section
variable (s : State) (d : DieId) (off : BitVec 21)

/-- A write through a die window is PF0's write of the die's register. -/
theorem exec_dieWindowAccess_write (size : Fin 9) (v : Word64) :
    exec (.dieWindowAccess d off size true v) s =
      exec (.registerWrite 0 (BitVec.ofNat 26 (dieReg d off.toNat)) size v) s := by
  have hOff := toNat_ofNat_dieReg d off.toNat
  show execDieWindowAccess d off size true v s = _
  unfold execDieWindowAccess
  dsimp only
  cases hb : barOk (dieReg d off.toNat) size
  · rw [exec_registerWrite_error 0 _ size v s (Or.inl (by rw [hOff, hb]))]
    rfl
  · rw [exec_registerWrite_pf0 v s (by rw [hOff, hb]) rfl, hOff]
    rfl

/-- A read through a die window answers with the register's bytes, where none of its bits is open. -/
theorem exec_dieWindowAccess_read {size : Fin 9} (v : Word64) {o : Nat} (ho : o = dieReg d off.toNat)
    (hb : barOk o size = true) (hOpen : s.openBits (o / 8 * 8) = 0) : exec (.dieWindowAccess d off size false v) s =
      .next (s.emit (.busReply 0 (some (leBytes size
        ((if (regAt (o / 8 * 8)).isSome then s.reg (o / 8 * 8) else 0).toNat / 2 ^ (8 * (o % 8))))))) := by
  subst ho
  have hDie : 0x1000000 ≤ dieReg d off.toNat / 8 * 8 := by
    unfold dieReg
    omega
  have hRead : s.readReg (dieReg d off.toNat / 8 * 8) = (s, s.viewAt (dieReg d off.toNat / 8 * 8)) := by
    unfold State.readReg
    rw [if_pos hOpen]
  show execDieWindowAccess d off size false v s = _
  unfold execDieWindowAccess State.busRead
  dsimp only
  rw [hb, hRead, State.viewAt_die hDie]
  rfl

/-- An access that the die does not answer is counted; a read of it returns ones. -/
theorem exec_dieWindowNoAnswer_counts (w : Bool) : ∃ t, exec (.dieWindowNoAnswer d off w) s = .next t ∧
    t.fget RF.HIVE_WREJ2_NOANS = satAdd RF.HIVE_WREJ2_NOANS.w (s.fget RF.HIVE_WREJ2_NOANS) 1 ∧
    t.out = s.out ++ (if w = true ∨ barOk (dieReg d off.toNat) 4 = false then []
      else [.busReply 0 (some (List.replicate 8 0xFF))]) ∧
    State.Only [.out, .regs] s t ∧ State.RegsBut [Reg.HIVE_WREJ2] s t := by
  have hCount : (s.finc RF.HIVE_WREJ2_NOANS 1).fget RF.HIVE_WREJ2_NOANS =
      satAdd RF.HIVE_WREJ2_NOANS.w (s.fget RF.HIVE_WREJ2_NOANS) 1 := State.fget_finc _ _ _ (by decide)
  have hOnly : State.Only [.out, .regs] s (s.finc RF.HIVE_WREJ2_NOANS 1) :=
    only_of_keeps fun _ K h => State.finc_keeps (K.mono rfl) _ _ h
  have hRegs : State.RegsBut [Reg.HIVE_WREJ2] s (s.finc RF.HIVE_WREJ2_NOANS 1) :=
    (State.RegsBut.rfl' _ s).finc (by decide)
  refine ⟨_, rfl, ?_⟩
  by_cases hw : w = true ∨ barOk (dieReg d off.toNat) 4 = false
  · rw [if_pos hw, if_pos (by simpa using hw), List.append_nil]
    exact ⟨hCount, rfl, hOnly, hRegs⟩
  · rw [if_neg hw, if_neg (by simpa using hw)]
    exact ⟨hCount, rfl, hOnly.trans (only_of_keeps fun _ K h => State.emit_keeps (K.mono rfl) _ h), hRegs.of_eq rfl⟩

end

end Sys2Proof.Machine

/-! Loads that a GO written as a register starts (R233, R390, R397, R437): the bytes it carries are free values
(log entry 40), and the load keeps the fields that report it. -/

namespace Sys2Proof.Machine

/-! The control registers. -/

theorem badFields_nil {base : Nat} (hr : (fieldRanges.filter fun f => decide (f.1 = base)) = [])
    (ha : (fieldAligns.filter fun f => decide (f.1 = base)) = []) (hc : base ≠ Reg.RING_CFG 0) (wr v : Word64) :
    badFields base wr v = [] := by
  rw [List.filter_eq_nil_iff] at hr ha
  refine badFields_eq (rs := []) ?_ ?_ hc
  · rw [List.filter_eq_nil_iff]
    exact fun f hf h => hr f hf (Bool.and_eq_true _ _ ▸ h : _ ∧ _).1
  · rw [List.filter_eq_nil_iff]
    exact fun f hf h => ha f hf (Bool.and_eq_true _ _ ▸ h : _ ∧ _).1

/-- The control registers of the loads, with the fields that a write stores. -/
def loadCtls : List (Nat × Word64) :=
  [(Reg.RT_LOAD_CTL, 0xF), (Reg.QN_WIRE_CTL, 0), (Reg.QN_FW_CTL, 0), (Reg.SAF_FENCE_CTL, 0x1FF)]

theorem loadCtls_masked : ∀ x ∈ loadCtls, maskedReg x.1 x.2 x.2 = true := by decide +kernel

theorem loadCtls_unchecked {x : Nat × Word64} (h : x ∈ loadCtls) (s : State) (wr v : Word64) :
    badFields x.1 wr v = [] ∧ s.badWhole x.1 x.1 v = none := by
  simp only [loadCtls, List.mem_cons, List.not_mem_nil, or_false] at h
  rcases h with rfl | rfl | rfl | rfl
  all_goals exact ⟨badFields_nil (by decide) (by decide) (by decide) wr v, rfl⟩

theorem loadCtls_offset : ∀ x ∈ loadCtls, (BitVec.ofNat 26 x.1).toNat = x.1 ∧ barOk x.1 8 = true := by decide

/-- PF0's write of a load's control register passes every check of its values. -/
theorem exec_registerWrite_control {x : Nat × Word64} (h : x ∈ loadCtls) (s : State) (v : Word64) : ∃ s1,
    s.Noted x.1 s1 ∧ exec (.registerWrite 0 (BitVec.ofNat 26 x.1) 8 v) s =
      .next (s1.regWrote 0 x.1 (mixBits x.2 v (s.reg x.1)) v (writtenBits 0 8) v) := by
  obtain ⟨r, hBase, hClear, hOpen, e⟩ := s.regWrite_masked (loadCtls_masked x h) v
  rw [ite_self] at hOpen
  obtain ⟨hBad, hWhole⟩ := loadCtls_unchecked h s x.2 (mixBits x.2 v (s.reg x.1))
  obtain ⟨s1, hNoted, e1⟩ := State.defWrite_accepted (s := s) (fn := 0) (off := x.1) (at_ := x.1) hClear hOpen.symm rfl
    (by rw [hBase, hBad]) (Or.inr (by rw [hBase, hWhole]))
  have hOff := loadCtls_offset x h
  refine ⟨s1, hNoted, ?_⟩
  rw [exec_registerWrite_pf0 v s (by rw [hOff.1]; exact hOff.2) rfl, hOff.1]
  show Host.Outcome.next (s.regWrite x.1 8 v) = _
  rw [e, e1, writtenBits_and]

/-- The state in which a load starts: its control register written, its bytes drawn. -/
def State.loadStart (s1 : State) (off : Nat) (new : Word64) : State := (s1.setReg off new).drawn

theorem State.Noted.loadStart_free {s s1 : State} {a : Nat} (h : s.Noted a s1) (off : Nat) (new : Word64) :
    (s1.loadStart off new).free = s.free + 1 := by
  have hFree : (s1.setReg off new).free = s.free := ((h.wrote1 [off]).setReg new (by simp)).1.1 .free (by decide)
  show (s1.setReg off new).free + 1 = _
  rw [hFree]

theorem State.fget_loadStart (s1 : State) (q : FRef) (new : Word64) : (s1.loadStart q.off new).fget q = fld new q.lo q.w := by
  rw [State.fget]
  exact congrArg (fun w => fld w q.lo q.w) (State.reg_setReg s1 q.off new)

/-! The fields that report a load. -/

/-- Fields that a load sets before its last steps, which leave them alone. -/
def loadFields : List FRef :=
  [RF.RT_LOAD_CTL_GEN, RF.QN_WIRE_CTL_RESULT, RF.QN_FW_CTL_RESULT, RF.SAF_FENCE_CTL_RESULT, RF.SAF_FENCE_CTL_REASON]

/-- The fields that report a load read as before. -/
def LoadKept (s t : State) : Prop := FieldsKept (· ∈ loadFields) s t

namespace LoadKept

theorem rfl' (s : State) : LoadKept s s := fun _ _ => rfl

/-- A register past the load controls. -/
theorem below {r : FRef} (h : 0x70100 ≤ r.off) (q : FRef) (hq : q ∈ loadFields) : q.off ≠ r.off := by
  have hLt : ∀ q ∈ loadFields, q.off < 0x70100 := by decide
  have := hLt q hq
  omega

theorem logApart {q : FRef} (h : q ∈ loadFields) : q.off ≠ Reg.LOG_STAT ∧ q.off ≠ Reg.LOG_RDSEQ ∧
    q.off ≠ Reg.LOG_MIRSEQ ∧ q.off ≠ Reg.HIVE_ISUM := by
  revert q
  decide

section
variable {s t : State} (h : LoadKept s t)
include h

theorem trans {u : State} (k : LoadKept t u) : LoadKept s u := FieldsKept.trans h k

/-- An operation that leaves the register table alone. -/
theorem of_eq {u : State} (e : u.regs = t.regs) : LoadKept s u := h.trans (FieldsKept.of_eq e)

/-- An operation that writes groups of the state other than the registers. -/
theorem of_only {u : State} {w : List Comp} (k : State.Only w t u) (hw : .regs ∉ w) : LoadKept s u :=
  h.trans fun q _ => by rw [State.fget, k.1 .regs hw q.off, State.fget]

theorem foldl {α : Type} {f : State → α → State} {l : List α} (k : ∀ x ∈ l, ∀ u, LoadKept u (f u x)) :
    LoadKept s (l.foldl f t) := by
  induction l generalizing t with
  | nil => exact h
  | cons x l ih => exact ih (h.trans (k x (by simp) t)) fun y hy => k y (by simp [hy])

theorem fset {r : FRef} {v : Nat} (hr : ∀ q ∈ loadFields, q.off ≠ r.off ∨ q.lo + q.w ≤ r.lo ∨ r.lo + r.w ≤ q.lo) :
    LoadKept s (t.fset r v) := h.trans fun q hq => State.fget_fset_ne t r q v (hr q hq)

theorem fset_above {r : FRef} {v : Nat} (hr : 0x70100 ≤ r.off) : LoadKept s (t.fset r v) :=
  h.fset fun q hq => Or.inl (below hr q hq)

theorem isum {k : Nat} : LoadKept s (t.isum k) :=
  h.trans ((State.isum_kept t k).mono fun _ hq => (logApart hq).2.2.2)

theorem hiveRec {code unit sev : Nat} {p : Bytes} : LoadKept s (t.hiveRec code unit sev p) :=
  h.trans ((State.hiveRec_kept t code unit sev p).mono fun _ hq => logApart_of_ne (logApart hq))

theorem refuseItem {reason fn : Nat} : LoadKept s (t.refuseItem reason fn) := by
  unfold State.refuseItem
  exact h.hiveRec

theorem refuseReg {reason off : Nat} : LoadKept s (t.refuseReg reason off) :=
  h.trans ((State.refuseReg_kept t reason off).mono fun q hq => by
    refine ⟨logApart_of_ne (logApart hq), ?_⟩
    revert q
    decide)

theorem dmaBlock {kind ring addr : Nat} : LoadKept s (t.dmaBlock 0 kind ring addr) := by
  have hCount : LoadKept s (t.finc (RF.PCI_DMA_STAT_BLOCKED 0) 1) := h.fset_above (by decide)
  unfold State.dmaBlock State.paced
  dsimp only
  split
  · exact hCount
  · refine hiveRec ?_
    exact hCount.of_eq rfl

end

/-! Route loads. -/

section
variable {s t : State} (h : LoadKept s t)
include h

theorem bankF {b v : Nat} : LoadKept s (t.fset (bankF b) v) := by
  unfold Machine.bankF
  split
  · exact h.fset (by decide)
  · exact h.fset (by decide)

theorem rtResult {res reason : Nat} : LoadKept s (t.rtResult res reason) := by
  unfold State.rtResult
  exact isum ((h.fset (by decide)).fset (by decide))

theorem rtRefuse {fn port st reason g : Nat} : LoadKept s (t.rtRefuse fn port st reason g) := by
  unfold State.rtRefuse
  exact hiveRec h.rtResult.refuseItem

theorem freeBank {b : Nat} : LoadKept s (t.freeBank b) := by
  have hPort : ∀ p, 0x70100 ≤ Reg.FAB_PORT p := fun p => by
    unfold Reg.FAB_PORT
    omega
  unfold State.freeBank State.altBits
  dsimp only
  refine foldl ?_ fun p _ u => (rfl' u).fset_above (hPort p)
  exact h.bankF.of_eq rfl

theorem checkDone {b : Nat} : LoadKept s (t.checkDone b) := by
  unfold State.checkDone
  split
  · refine rtResult ?_
    exact h.bankF
  · exact h

theorem checkFail {b port reason : Nat} : LoadKept s (t.checkFail b port reason) := by
  unfold State.checkFail
  dsimp only
  refine rtRefuse ?_
  exact (h.freeBank (b := b)).of_eq rfl

theorem checkRtx {b p : Nat} {bs : Bytes} : LoadKept s (t.checkRtx b p bs) := by
  unfold State.checkRtx
  dsimp only
  split
  · refine checkDone ?_
    exact h.of_eq rfl
  · exact h.checkFail

theorem rtTake {g : Nat} {img : Bytes} : LoadKept s (t.rtTake g img) := by
  unfold State.rtTake
  dsimp only
  refine checkDone (foldl (foldl (bankF ?_) fun p _ u => ?_) fun p _ u => ?_)
  · exact h.of_eq rfl
  · exact (rfl' u).of_only (only_of_keeps fun _ K h => State.sendRtx_keeps K _ _ h) (by decide)
  · cases u.rtxHas p g with
    | none => exact rfl' u
    | some bs =>
      dsimp only
      split
      · exact (rfl' u).checkRtx
      · exact rfl' u

end

/-! Wiring tables. -/

section
variable {s t : State} (h : LoadKept s t)
include h

theorem setTopo {p : Nat} (hp : p < 32) {code peer : Nat} : LoadKept s (t.setTopo p code peer) := by
  have hTopo : ∀ k < 2, ∀ q ∈ loadFields, q.off ≠ Reg.QN_TOPO k := by decide
  have hSet : LoadKept s (t.fset (RF.QN_TOPO_PORT (p / 16) (p % 16)) code) :=
    h.fset fun q hq => Or.inl (hTopo _ (by omega) q hq)
  unfold State.setTopo
  dsimp only
  split
  · exact h
  · split
    · exact hSet.hiveRec.isum
    · exact hSet

/-- A port that is HELD again. -/
theorem portHeld {p : Nat} : LoadKept s ((t.setPort p 2).setLsub p 0) := by
  unfold State.setPort State.setLsub
  refine fset_above (h.fset_above ?_) ?_
  · simp only [RF.FAB_PORT_STATE, Reg.FAB_PORT]
    omega
  · simp only [RF.OPT_PORT_STAT_LSUB, Reg.OPT_PORT_STAT]
    omega

theorem rediscover {p : Nat} (hp : p < 32) : LoadKept s (t.rediscover p) := by
  unfold State.rediscover
  dsimp only
  split
  · refine of_only (setTopo (portHeld ?_) hp) (only_of_keeps fun _ K h => State.sendIdentity_keeps K _ h) (by decide)
    exact h.of_eq rfl
  · exact h.setTopo hp

theorem ringsReady : LoadKept s t.ringsReady := by
  have hStat : ∀ n, 0x70100 ≤ Reg.RING_STAT n := fun n => by
    unfold Reg.RING_STAT
    omega
  unfold State.ringsReady
  refine h.foldl fun e _ u => ?_
  cases pick (u.ringConds (e.2.early.getD 0) e.1) with
  | some reason =>
    dsimp only
    unfold State.refuseWrite State.setRing
    refine hiveRec (fset_above ?_ (hStat e.1))
    exact (rfl' u).of_eq rfl
  | none =>
    have hZero : LoadKept u (u.setReg (Reg.RING_STAT e.1) 0) := fun q hq => by
      have hne : q.off ≠ Reg.RING_STAT e.1 := below (r := RF.RING_STAT_STATE e.1) (hStat _) q hq
      rw [State.fget, State.reg_setReg_ne _ _ hne, State.fget]
    dsimp only
    unfold State.ringActivate State.setRing
    dsimp only
    refine fset_above ?_ (hStat e.1)
    exact hZero.of_eq rfl

theorem tryReady : LoadKept s t.tryReady := by
  unfold State.tryReady
  dsimp only
  split
  · exact h
  · exact ringsReady (hiveRec (isum (fset (h.fset (by decide)) (by decide))))

end

end LoadKept

/-! What the loads report. -/

/-- A load that is not refused as busy shows its generation. -/
theorem State.rtLoadGo_gen {s : State} (h : s.fget RF.RT_LOAD_CTL_RESULT ≠ 1) {gen : Nat} (hg : gen < 16) (img : Bytes) :
    (s.rtLoadGo 0 gen img).fget RF.RT_LOAD_CTL_GEN = gen := by
  have hSet : (s.fset RF.RT_LOAD_CTL_GEN gen).fget RF.RT_LOAD_CTL_GEN = gen := by
    rw [State.fget_fset _ _ _ (by decide)]
    exact Nat.mod_eq_of_lt hg
  have hStart := LoadKept.rfl' (s.fset RF.RT_LOAD_CTL_GEN gen)
  have hKept : LoadKept (s.fset RF.RT_LOAD_CTL_GEN gen) (s.rtLoadGo 0 gen img) := by
    unfold State.rtLoadGo
    rw [if_neg h]
    dsimp only
    cases pick _ with
    | some reason =>
      dsimp only
      split
      · exact hStart.dmaBlock.rtRefuse
      · exact hStart.rtRefuse
    | none => exact LoadKept.rtTake (hStart.fset (by decide))
  rw [hKept _ (by decide), hSet]

theorem State.rtLoadGo_free (s : State) (fn gen : Nat) (img : Bytes) : (s.rtLoadGo fn gen img).free = s.free :=
  (only_of_keeps fun _ K h => State.rtLoadGo_keeps K fn gen img h).1 .free (by decide)

theorem State.fget_wireResult (s : State) {res : Nat} (h : res < 4) (reason : Nat) :
    (s.wireResult res reason).fget RF.QN_WIRE_CTL_RESULT = res := by
  unfold State.wireResult
  rw [State.fget_isum _ _ _ (by decide), State.fget_fset_ne _ _ _ _ (by decide), State.fget_fset _ _ _ (by decide)]
  exact Nat.mod_eq_of_lt h

/-- A load that is not refused as busy reports its end. -/
theorem State.wireLoad_result {s : State} (h : s.fget RF.QN_WIRE_CTL_RESULT ≠ 1) (fn : Nat) (t : Bytes) :
    (s.wireLoad fn t).fget RF.QN_WIRE_CTL_RESULT = 2 ∨ (s.wireLoad fn t).fget RF.QN_WIRE_CTL_RESULT = 3 := by
  have hm : RF.QN_WIRE_CTL_RESULT ∈ loadFields := by decide
  unfold State.wireLoad
  dsimp only
  rw [if_neg h]
  cases pick _ with
  | some reason =>
    right
    exact ((LoadKept.rfl' _).refuseItem _ hm).trans (State.fget_wireResult _ (by decide) reason)
  | none =>
    left
    unfold State.wireTake
    dsimp only
    refine (LoadKept.tryReady (LoadKept.fset (LoadKept.foldl (LoadKept.rfl' _) fun p hp u => ?_) ?_) _ hm).trans
      (State.fget_wireResult _ (by decide) 0)
    · exact (LoadKept.rfl' u).rediscover (List.mem_range.mp (List.mem_of_mem_filter hp))
    · decide

theorem State.wireLoad_free (s : State) (fn : Nat) (t : Bytes) : (s.wireLoad fn t).free = s.free :=
  (only_of_keeps fun _ K h => State.wireLoad_keeps K fn t h).1 .free (by decide)

theorem State.fwGo_result {s : State} (h : s.fget RF.QN_FW_CTL_RESULT ≠ 1) (sig : Bool) (seq ver : Nat) :
    (s.fwGo sig seq ver).fget RF.QN_FW_CTL_RESULT = 2 ∨ (s.fwGo sig seq ver).fget RF.QN_FW_CTL_RESULT = 3 := by
  unfold State.fwGo
  dsimp only
  rw [if_neg h]
  split
  · right
    rw [(LoadKept.rfl' _).refuseReg _ (by decide), State.fget_isum _ _ _ (by decide), State.fget_fset _ _ _ (by decide)]
    rfl
  · rw [State.fget_isum _ _ _ (by decide), State.fget_fset _ _ _ (by decide)]
    cases sig
    · exact Or.inr rfl
    · exact Or.inl rfl

theorem State.fwGo_free (s : State) (sig : Bool) (seq ver : Nat) : (s.fwGo sig seq ver).free = s.free :=
  (only_of_keeps fun _ K h => State.fwGo_keeps K sig seq ver h).1 .free (by decide)

/-- A list of no entries is refused. -/
theorem State.fenceListGo_empty {s : State} (h : s.fget RF.SAF_FENCE_CTL_RESULT ≠ 1)
    (hn : s.fget RF.SAF_FENCE_CTL_COUNT = 0) (list : Bytes) :
    s.fenceListGo 0 list = (s.fenceResult 3 0x5D01).refuseItem 0x5D01 0 := by
  have hReads : ∀ a, s.readsOk 0 a (16 * 0) = true := fun a => rfl
  have hPick : pick ([(decide ((0 : Nat) ≠ 0), 0x6B04), (!true, 0x6B01), (decide ((0 : Nat) = 0 ∨ 256 < 0), 0x5D01)] ++
      ((fenceEntries 0 list).foldl (fun v e => s.fenceCheck v e) s.fenceView).bad) = some 0x5D01 := rfl
  unfold State.fenceListGo
  dsimp only
  rw [if_neg h, hn, hReads, hPick, if_neg (by decide)]

theorem State.fenceRefused_free (s : State) : ((s.fenceResult 3 0x5D01).refuseItem 0x5D01 0).free = s.free :=
  (only_of_keeps (w := [.out, .regs, .log]) (s := s) fun _ K h =>
    State.refuseItem_keeps K 0x5D01 0 (State.fenceResult_keeps (K.mono rfl) 3 0x5D01 h)).1 .free (by decide)

/-! The four writes. -/

/-- A field that the write of a load's control register does not store. -/
theorem State.fget_loadStart_kept (s s1 : State) {wr : Word64} {q : FRef} (v : Word64)
    (h : ∀ i, q.lo ≤ i → i < q.lo + q.w → wr.getLsbD i = false) :
    (s1.loadStart q.off (mixBits wr v (s.reg q.off))).fget q = s.fget q := by
  rw [State.fget_loadStart, fld_mixBits_of_clear _ _ h, State.fget]

section
variable {s : State} {v : Word64}

theorem State.regWrote_rtLoad (s1 : State) (new m raw : Word64) (h63 : bit v 63 = true) (h62 : bit v 62 = false) :
    s1.regWrote 0 Reg.RT_LOAD_CTL new v m raw = (s1.loadStart Reg.RT_LOAD_CTL new).rtLoadGo 0 (fld new 0 4)
      ((s1.setReg Reg.RT_LOAD_CTL new).hostBytes (s1.reg Reg.RT_LOAD_ADDR).toNat 16384) := by
  unfold State.regWrote
  iterate 9 rw [if_neg (by decide)]
  rw [if_pos rfl]
  dsimp only
  rw [if_pos h63, h62, if_neg Bool.false_ne_true]
  rfl

/-- A GO without ACT in RT_LOAD_CTL starts a load of the generation written. -/
theorem exec_registerWrite_rtLoad (h63 : bit v 63 = true) (h62 : bit v 62 = false)
    (hr : s.fget RF.RT_LOAD_CTL_RESULT ≠ 1) :
    ∃ t, exec (.registerWrite 0 (BitVec.ofNat 26 Reg.RT_LOAD_CTL) 8 v) s = .next t ∧ t.free = s.free + 1 ∧
      t.fget RF.RT_LOAD_CTL_GEN = fld v 0 4 := by
  obtain ⟨s1, hNoted, e⟩ := exec_registerWrite_control (x := (Reg.RT_LOAD_CTL, 0xF)) (by decide) s v
  have hResult := s.fget_loadStart_kept s1 (wr := 0xF) (q := RF.RT_LOAD_CTL_RESULT) v (by decide)
  have hGen : fld (mixBits 0xF v (s.reg Reg.RT_LOAD_CTL)) 0 4 = fld v 0 4 :=
    fld_mixBits_of_set v _ (by decide) (by decide)
  refine ⟨_, e.trans (congrArg _ (State.regWrote_rtLoad s1 _ _ _ h63 h62)), ?_, ?_⟩
  · rw [State.rtLoadGo_free, hNoted.loadStart_free]
  · exact (State.rtLoadGo_gen (hResult.trans_ne hr) (fld_lt _ 0 4) _).trans hGen

/-- A GO in QN_WIRE_CTL starts a load that ends. -/
theorem exec_registerWrite_wireLoad (h63 : bit v 63 = true) (hr : s.fget RF.QN_WIRE_CTL_RESULT ≠ 1) :
    ∃ t, exec (.registerWrite 0 (BitVec.ofNat 26 Reg.QN_WIRE_CTL) 8 v) s = .next t ∧ t.free = s.free + 1 ∧
      (t.fget RF.QN_WIRE_CTL_RESULT = 2 ∨ t.fget RF.QN_WIRE_CTL_RESULT = 3) := by
  obtain ⟨s1, hNoted, e⟩ := exec_registerWrite_control (x := (Reg.QN_WIRE_CTL, 0)) (by decide) s v
  have hResult := s.fget_loadStart_kept s1 (wr := 0) (q := RF.QN_WIRE_CTL_RESULT) v (by decide)
  have hStarts : ∀ new m raw, s1.regWrote 0 Reg.QN_WIRE_CTL new v m raw = (s1.loadStart Reg.QN_WIRE_CTL new).wireLoad 0
      (s1.hostBytes (s1.reg Reg.QN_WIRE_ADDR).toNat 576) := fun new m raw => by
    unfold State.regWrote
    iterate 11 rw [if_neg (by decide)]
    rw [if_pos rfl, if_pos h63]
    rfl
  refine ⟨_, e.trans (congrArg _ (hStarts _ _ _)), ?_, State.wireLoad_result (hResult.trans_ne hr) _ _⟩
  rw [State.wireLoad_free, hNoted.loadStart_free]

/-- A GO in QN_FW_CTL copies an image, whose signature and versions are drawn. -/
theorem exec_registerWrite_fwWrite (h63 : bit v 63 = true) (hr : s.fget RF.QN_FW_CTL_RESULT ≠ 1) :
    ∃ t, exec (.registerWrite 0 (BitVec.ofNat 26 Reg.QN_FW_CTL) 8 v) s = .next t ∧ t.free = s.free + 2 ∧
      (t.fget RF.QN_FW_CTL_RESULT = 2 ∨ t.fget RF.QN_FW_CTL_RESULT = 3) := by
  obtain ⟨s1, hNoted, e⟩ := exec_registerWrite_control (x := (Reg.QN_FW_CTL, 0)) (by decide) s v
  have hResult := s.fget_loadStart_kept s1 (wr := 0) (q := RF.QN_FW_CTL_RESULT) v (by decide)
  have hStarts : ∀ new m raw, s1.regWrote 0 Reg.QN_FW_CTL new v m raw = (s1.loadStart Reg.QN_FW_CTL new).drawn.fwGo
      (bit s1.freshVal 0) (fld s1.drawn.freshVal 0 32) (fld s1.drawn.freshVal 32 32) := fun new m raw => by
    unfold State.regWrote
    iterate 12 rw [if_neg (by decide)]
    rw [if_pos rfl, if_pos h63]
    rfl
  have hDrawn : ∀ x : State, x.drawn.fget RF.QN_FW_CTL_RESULT = x.fget RF.QN_FW_CTL_RESULT := fun x =>
    State.fget_congr (State.drawn_regs x) _
  refine ⟨_, e.trans (congrArg _ (hStarts _ _ _)), ?_, State.fwGo_result (((hDrawn _).trans hResult).trans_ne hr) _ _ _⟩
  rw [State.fwGo_free]
  exact congrArg (· + 1) (hNoted.loadStart_free _ _)

/-- A GO in SAF_FENCE_CTL with a COUNT of 0 is refused. -/
theorem exec_registerWrite_fenceList (h63 : bit v 63 = true) (hr : s.fget RF.SAF_FENCE_CTL_RESULT ≠ 1)
    (hn : fld v 0 9 = 0) : ∃ t, exec (.registerWrite 0 (BitVec.ofNat 26 Reg.SAF_FENCE_CTL) 8 v) s = .next t ∧
      t.free = s.free + 1 ∧ t.fget RF.SAF_FENCE_CTL_RESULT = 3 ∧ t.fget RF.SAF_FENCE_CTL_REASON = 0x5D01 := by
  obtain ⟨s1, hNoted, e⟩ := exec_registerWrite_control (x := (Reg.SAF_FENCE_CTL, 0x1FF)) (by decide) s v
  have hResult := s.fget_loadStart_kept s1 (wr := 0x1FF) (q := RF.SAF_FENCE_CTL_RESULT) v (by decide)
  have hCount : (s1.loadStart Reg.SAF_FENCE_CTL (mixBits 0x1FF v (s.reg Reg.SAF_FENCE_CTL))).fget
      RF.SAF_FENCE_CTL_COUNT = 0 :=
    (State.fget_loadStart s1 RF.SAF_FENCE_CTL_COUNT _).trans ((fld_mixBits_of_set v _ (by decide) (by decide)).trans hn)
  have hStarts : ∀ new m raw, s1.regWrote 0 Reg.SAF_FENCE_CTL new v m raw =
      (s1.loadStart Reg.SAF_FENCE_CTL new).fenceListGo 0
        (s1.hostBytes (s1.reg Reg.SAF_FENCE_ADDR).toNat (16 * fld new 0 9)) := fun new m raw => by
    unfold State.regWrote
    iterate 10 rw [if_neg (by decide)]
    rw [if_pos rfl, if_pos h63]
    rfl
  have hReport := fun x : State => (LoadKept.rfl' (x.fenceResult 3 0x5D01)).refuseItem (reason := 0x5D01) (fn := 0)
  refine ⟨_, e.trans (congrArg _ ((hStarts _ _ _).trans (State.fenceListGo_empty (hResult.trans_ne hr) hCount _))), ?_,
    ?_, ?_⟩
  · exact (State.fenceRefused_free _).trans (hNoted.loadStart_free _ _)
  · rw [hReport _ _ (by decide), State.fenceResult, State.fget_isum _ _ _ (by decide),
      State.fget_fset_ne _ _ _ _ (by decide), State.fget_fset _ _ _ (by decide)]
    rfl
  · rw [hReport _ _ (by decide), State.fenceResult, State.fget_isum _ _ _ (by decide),
      State.fget_fset _ _ _ (by decide)]
    rfl

end

end Sys2Proof.Machine

/-! Writes of LPDDR5X where every line is good and no channel has failed (R329, R332, R334 to R336): no transfer goes
bad, and memory takes exactly the bytes written. -/

namespace Sys2Proof.Machine

/-! Bytes. -/

theorem wroteAt_single (a : Nat) (bs : Bytes) (k : Nat) :
    wroteAt [(a, bs)] k = if a ≤ k ∧ k < a + bs.length then some (bs.getD (k - a) 0) else none := rfl

theorem State.Wrote.nil (s : State) (a : Nat) : s.Wrote s [(a, [])] := fun k => by
  rw [wroteAt_single, if_neg (by simp), Option.getD_none]

theorem State.Wrote.moved {s t : State} {a : Nat} (h : s.Wrote t [(a, [])]) (b : Nat) : s.Wrote t [(b, [])] := fun k => by
  rw [h k, wroteAt_single, wroteAt_single, if_neg (by simp), if_neg (by simp)]

/-- Two writes side by side are one. -/
theorem State.Wrote.append {s t u : State} {a : Nat} {x y : Bytes} (h : s.Wrote t [(a, x)])
    (k : t.Wrote u [(a + x.length, y)]) : s.Wrote u [(a, x ++ y)] := fun i => by
  rw [k i, h i]
  simp only [wroteAt_single, List.length_append]
  by_cases hx : a ≤ i ∧ i < a + x.length
  · rw [if_neg (by omega), Option.getD_none, if_pos hx, if_pos (by omega), Option.getD_some, Option.getD_some,
      List.getD_append _ _ _ _ (by omega)]
  · by_cases hy : a + x.length ≤ i ∧ i < a + x.length + y.length
    · rw [if_pos hy, Option.getD_some, if_pos (by omega), Option.getD_some,
        List.getD_append_right _ _ _ _ (by omega), Nat.sub_add_eq]
    · rw [if_neg hy, if_neg hx, if_neg (by omega)]
      rfl

/-- A poke writes its bytes. -/
theorem State.poke_wrote (s : State) (die off : Nat) (bs : Bytes) :
    s.Wrote (s.poke die off bs) [(die * 2 ^ 40 + off, bs)] := by
  unfold State.poke
  generalize die * 2 ^ 40 + off = a
  induction bs generalizing s a with
  | nil => exact State.Wrote.nil s a
  | cons b bs ih =>
    have hFirst : s.Wrote (s.setByte a b) [(a, [b])] := fun k => by
      rw [wroteAt_single]
      by_cases hk : k = a
      · subst hk
        simp [State.byte_setByte]
      · rw [State.byte_setByte_ne _ _ hk, if_neg (by simp; omega), Option.getD_none]
    exact hFirst.append (ih (s.setByte a b) (a + 1))

/-! Buffers. -/

/-- No line has a stored error, and no channel of the die has failed. -/
structure State.Clean (s : State) (die : Nat) : Prop where
  errs : s.lp.lineErr = []
  chans : ∀ ch < 16, s.chFailed die ch = false

theorem State.Sound.clean {s : State} {die : Nat} (h : s.Sound) (hd : die < 8) : s.Clean die :=
  ⟨h.1, h.2.2 die hd⟩

/-- What the write-combining buffers of a die change on the way: counters and the buffers. -/
structure State.Buffered (die : Nat) (s t : State) : Prop where
  only : State.Only [.regs, .lp] s t
  errs : t.lp.lineErr = []
  map : t.reg (Reg.MEM_CHMAP die) = s.reg (Reg.MEM_CHMAP die)

namespace State.Buffered

variable {die : Nat} {s t u : State}

theorem rfl' (h : s.Clean die) : State.Buffered die s s := ⟨State.Only.rfl' _ s, h.errs, rfl⟩

theorem trans (h : State.Buffered die s t) (k : State.Buffered die t u) : State.Buffered die s u :=
  ⟨h.only.trans k.only, k.errs, k.map.trans h.map⟩

theorem clean (h : State.Buffered die s t) (k : s.Clean die) : t.Clean die :=
  ⟨h.errs, fun ch hc => by
    rw [← k.chans ch hc, State.chFailed, State.fbit, State.fget, State.chFailed, State.fbit, State.fget]
    exact congrArg (fun w => bitN (fld w 16 16) ch) h.map⟩

theorem setLp (h : State.Buffered die s t) {x : MemSt} (hx : x.lineErr = []) :
    State.Buffered die s { t with lp := x } :=
  ⟨h.only.trans (only_of_keeps fun _ K k => K.lp (by decide) x k), hx, h.map⟩

theorem setWcb (h : State.Buffered die s t) {ch : Nat} {es : List WcbEntry} :
    State.Buffered die s (t.setWcb die ch es) := h.setLp h.errs

theorem finc (h : State.Buffered die s t) {r : FRef} {n : Nat} (hr : Reg.MEM_CHMAP die ≠ r.off) :
    State.Buffered die s (t.finc r n) :=
  ⟨h.only.trans (only_of_keeps fun _ K k => State.finc_keeps (K.mono rfl) r n k), h.errs,
    (State.reg_fset_ne t r _ _ hr).trans h.map⟩

end State.Buffered

section
variable {s : State} {die : Nat}

/-- An eviction turns no transfer bad. -/
theorem State.wcbEvict_clean (h : s.Clean die) {ch : Nat} (hc : ch < 16) (e : WcbEntry) :
    (s.wcbEvict die ch e).2 = [] ∧ State.Buffered die s (s.wcbEvict die ch e).1 := by
  have hDel : ∀ (x : MemSt) k, x.lineErr = [] → Tbl.del x.lineErr k = [] := fun x k hx => by
    rw [hx]
    rfl
  have hFull : Reg.MEM_CHMAP die ≠ (RF.WCB_STAT_FULLW die).off := by
    simp only [Reg.MEM_CHMAP, RF.WCB_STAT_FULLW, Reg.WCB_STAT]
    omega
  have hPart : Reg.MEM_CHMAP die ≠ (RF.WCB_STAT_RMW die).off := by
    simp only [Reg.MEM_CHMAP, RF.WCB_STAT_RMW, Reg.WCB_STAT]
    omega
  unfold State.wcbEvict
  extract_lets es k now lp0 s0 lp1 s1 pat lp2
  have h0 : State.Buffered die s s0 := by
    refine State.Buffered.setWcb ?_
    exact (State.Buffered.rfl' h).setLp h.errs
  have h1 : State.Buffered die s s1 := h0.finc hPart
  rw [h.chans ch hc, if_neg Bool.false_ne_true]
  split
  · exact ⟨rfl, (h0.setLp (hDel _ _ h0.errs)).finc hFull⟩
  · have hGood : decodeLine pat = .good := by
      show decodeLine (s1.lp.lineErr.get [] k) = _
      rw [h1.errs]
      rfl
    rw [hGood]
    exact ⟨rfl, h1.setLp (hDel _ _ h1.errs)⟩

theorem State.wcbRoom_clean (h : s.Clean die) {ch : Nat} (hc : ch < 16) :
    (s.wcbRoom die ch).2 = [] ∧ State.Buffered die s (s.wcbRoom die ch).1 := by
  have hForced : Reg.MEM_CHMAP die ≠ (RF.WCB_FWD_FORCED die).off := by
    simp only [Reg.MEM_CHMAP, RF.WCB_FWD_FORCED, Reg.WCB_FWD]
    omega
  have h0 := State.Buffered.rfl' h
  unfold State.wcbRoom
  split
  · exact ⟨rfl, h0⟩
  · cases s.wcb die ch with
    | nil => exact ⟨rfl, h0⟩
    | cons e es =>
      have h1 : State.Buffered die s (s.finc (RF.WCB_FWD_FORCED die) 1) := h0.finc hForced
      obtain ⟨hBad, hKept⟩ := State.wcbEvict_clean (h1.clean h) hc e
      exact ⟨hBad, h1.trans hKept⟩

theorem State.chans_lt {c : Nat} (h : c ∈ s.chans die) : c < 16 := List.mem_range.mp (List.mem_of_mem_filter h)

theorem State.mapLine_lt (s : State) (die a : Nat) : (s.mapLine die a).1 < 16 := by
  unfold State.mapLine
  dsimp only
  split
  · decide
  · rename_i hn
    have hi : a / 60 % (s.chans die).length < (s.chans die).length := Nat.mod_lt _ (Nat.pos_of_ne_zero hn)
    rw [List.getD_eq_getElem _ _ hi]
    exact State.chans_lt (List.getElem_mem hi)

/-- Memory written with the lines still good, and no transfer bad. -/
structure State.WroteClean (die : Nat) (s t : State) (ws : List (Nat × Bytes)) : Prop where
  only : State.Only [.regs, .mem, .lp] s t
  clean : t.Clean die
  wrote : s.Wrote t ws

theorem State.WroteClean.nil (h : s.Clean die) (a : Nat) : State.WroteClean die s s [(a, [])] :=
  ⟨State.Only.rfl' _ s, h, State.Wrote.nil s a⟩

theorem State.WroteClean.append {t u : State} {a : Nat} {x y : Bytes} (h : State.WroteClean die s t [(a, x)])
    (k : State.WroteClean die t u [(a + x.length, y)]) : State.WroteClean die s u [(a, x ++ y)] :=
  ⟨h.only.trans k.only, k.clean, h.wrote.append k.wrote⟩

theorem State.WroteClean.moved {t : State} {a b : Nat} (h : State.WroteClean die s t [(a, [])]) :
    State.WroteClean die s t [(b, [])] := ⟨h.only, h.clean, h.wrote.moved b⟩

theorem State.WroteClean.buffered {t u : State} {ws : List (Nat × Bytes)} (h : State.WroteClean die s t ws)
    (k : State.Buffered die t u) : State.WroteClean die s u ws :=
  ⟨h.only.trans (k.only.mono rfl), k.clean h.clean, fun i => (k.only.1 .mem (by decide) i).trans (h.wrote i)⟩

theorem State.poke_clean (h : s.Clean die) (a : Nat) (bs : Bytes) :
    State.WroteClean die s (s.poke die a bs) [(die * 2 ^ 40 + a, bs)] := by
  have hOnly : State.Only [.mem] s (s.poke die a bs) := only_of_keeps fun _ K k => State.poke_keeps K die a bs k
  refine ⟨hOnly.mono rfl, ⟨?_, fun ch hc => ?_⟩, s.poke_wrote die a bs⟩
  · rw [hOnly.1 .lp (by decide)]
    exact h.errs
  · rw [← h.chans ch hc, State.chFailed, State.fbit, State.fget, hOnly.1 .regs (by decide)]
    rfl

/-- A write of one line. -/
theorem State.lineWrite_clean (h : s.Clean die) (a : Nat) (bs : Bytes) (tag : Nat) :
    (s.lineWrite die a bs tag).2 = [] ∧
      State.WroteClean die s (s.lineWrite die a bs tag).1 [(die * 2 ^ 40 + a, bs)] := by
  have hc := s.mapLine_lt die a
  have hPoke := State.poke_clean h a bs
  have h0 := State.Buffered.rfl' hPoke.clean
  unfold State.lineWrite
  generalize s.mapLine die a = p at hc ⊢
  obtain ⟨ch, q⟩ := p
  dsimp only at hc ⊢
  rw [h.chans ch hc, if_neg Bool.false_ne_true]
  cases List.find? (fun x => x.q == q) ((s.poke die a bs).wcb die ch) with
  | some e =>
    dsimp only
    have h2 := fun l : List WcbEntry => State.Buffered.setWcb (ch := ch) (es := l) h0
    split
    · obtain ⟨hBad, hKept⟩ := State.wcbEvict_clean ((h2 _).clean hPoke.clean) hc _
      exact ⟨hBad, hPoke.buffered ((h2 _).trans hKept)⟩
    · exact ⟨rfl, hPoke.buffered (h2 _)⟩
  | none =>
    dsimp only
    split
    · refine ⟨rfl, hPoke.buffered (h0.setLp ?_)⟩
      show Tbl.del (s.poke die a bs).lp.lineErr _ = []
      rw [hPoke.clean.errs]
      rfl
    · obtain ⟨hBad, hKept⟩ := State.wcbRoom_clean hPoke.clean hc
      exact ⟨hBad, hPoke.buffered hKept.setWcb⟩

/-- A write of any bytes, cut at the lines. -/
theorem State.lineWrites_clean (tag : Nat) {fuel : Nat} : ∀ {s : State} (_ : s.Clean die) (off : Nat) (bs : Bytes)
    (bad : List Nat), bs.length + off % 60 ≤ 60 * fuel →
    ∃ t, (cutLines fuel off bs).foldl (fun (a : State × List Nat) p =>
      let (s1, bad) := a.1.lineWrite die p.1 p.2 tag
      (s1, a.2 ++ bad)) (s, bad) = (t, bad) ∧ State.WroteClean die s t [(die * 2 ^ 40 + off, bs)] := by
  induction fuel with
  | zero =>
    intro s h off bs bad hLen
    have hNil : bs = [] := List.eq_nil_of_length_eq_zero (by omega)
    subst hNil
    exact ⟨s, rfl, State.WroteClean.nil h _⟩
  | succ fuel ih =>
    intro s h off bs bad hLen
    unfold cutLines
    split
    · rename_i hNil
      subst hNil
      exact ⟨s, rfl, State.WroteClean.nil h _⟩
    · obtain ⟨hBad, hWrote⟩ := State.lineWrite_clean h off (bs.take (60 - off % 60)) tag
      have hNext : (bs.drop (60 - off % 60)).length + (off + (60 - off % 60)) % 60 ≤ 60 * fuel := by
        rw [List.length_drop]
        omega
      obtain ⟨t, e, hRest⟩ := ih hWrote.clean (off + (60 - off % 60)) (bs.drop (60 - off % 60)) bad hNext
      refine ⟨t, ?_, ?_⟩
      · rw [List.foldl_cons]
        dsimp only
        rw [hBad, List.append_nil]
        exact e
      · by_cases hle : 60 - off % 60 ≤ bs.length
        · have hEnd : die * 2 ^ 40 + (off + (60 - off % 60)) =
              die * 2 ^ 40 + off + (bs.take (60 - off % 60)).length := by
            rw [List.length_take, Nat.min_eq_left hle, Nat.add_assoc]
          rw [hEnd] at hRest
          exact (List.take_append_drop (60 - off % 60) bs) ▸ hWrote.append hRest
        · rw [List.drop_of_length_le (by omega)] at hRest
          rw [List.take_of_length_le (by omega)] at hWrote hRest
          exact (List.append_nil bs) ▸ hWrote.append hRest.moved

theorem State.lpWrite_clean (h : s.Clean die) (off : Nat) (bs : Bytes) (tag : Nat) :
    ∃ t, s.lpWrite die off bs tag = (t, []) ∧ State.WroteClean die s t [(die * 2 ^ 40 + off, bs)] := by
  unfold State.lpWrite
  exact State.lineWrites_clean tag h off bs [] (by omega)

/-- What evictions from a clean state answer: no bad transfer, and buffers moved on. -/
def State.Evicted (die : Nat) (s : State) (a : State × List Nat) : Prop := a.2 = [] ∧ State.Buffered die s a.1

theorem State.Evicted.step (h : s.Clean die) {a : State × List Nat} (ha : State.Evicted die s a) {ch : Nat}
    (hc : ch < 16) (e : WcbEntry) :
    State.Evicted die s ((a.1.wcbEvict die ch e).1, a.2 ++ (a.1.wcbEvict die ch e).2) := by
  obtain ⟨hNone, hKept⟩ := ha
  obtain ⟨hBad, hStep⟩ := State.wcbEvict_clean (hKept.clean h) hc e
  exact ⟨by rw [hNone, hBad, List.append_nil], hKept.trans hStep⟩

/-- Evicting the entries of a transfer turns no transfer bad. -/
theorem State.wcbFlush_clean (h : s.Clean die) (tag : Nat) : State.Evicted die s (s.wcbFlush die tag) := by
  unfold State.wcbFlush
  extract_lets a
  have hAll : State.Evicted die s a := by
    refine List.foldlRecOn _ _ ⟨rfl, State.Buffered.rfl' h⟩ fun x hx ch hc => ?_
    refine List.foldlRecOn _ _ hx fun y hy e _ => ?_
    exact hy.step h (List.mem_range.mp hc) e
  clear_value a
  exact ⟨hAll.1, hAll.2.setLp (x := { a.1.lp with evict := [] }) hAll.2.errs⟩

/-- A write below the SRAM changes the bytes written, and no transfer goes bad. -/
theorem State.memWrites_clean (h : s.Clean die) {off : Nat} (ho : off < sramBase) (bs : Bytes) (tag : Nat) :
    State.WroteClean die s (s.memWrites die [(off, bs)] tag).1 [(die * 2 ^ 40 + off, bs)] := by
  obtain ⟨t, e, hWrote⟩ := State.lpWrite_clean h off bs tag
  obtain ⟨hNone, hKept⟩ := State.wcbFlush_clean hWrote.clean tag
  unfold State.memWrites State.memWrite
  rw [List.foldl_cons, List.foldl_nil]
  dsimp only
  rw [if_neg (by omega), e]
  dsimp only
  rw [hNone]
  exact hWrote.buffered hKept

/-- A read below the SRAM meets no error; only the count of forwarded lines changes. -/
theorem State.memRead_clean (h : s.Clean die) {off : Nat} (ho : off < sramBase) (len : Nat) :
    s.memRead die off len = (s.finc (RF.WCB_FWD_FWD die) (s.fwdLines die off len), true) := by
  have hErr : s.errLines die off len = [] := by
    unfold State.errLines
    rw [h.errs]
    rfl
  have hCount : State.Buffered die s (s.finc (RF.WCB_FWD_FWD die) (s.fwdLines die off len)) :=
    (State.Buffered.rfl' h).finc (by simp only [Reg.MEM_CHMAP, RF.WCB_FWD_FWD, Reg.WCB_FWD]; omega)
  have hServed : (s.finc (RF.WCB_FWD_FWD die) (s.fwdLines die off len)).onFailed die off len = false := by
    unfold State.onFailed
    rw [Bool.and_eq_false_iff, List.any_eq_false]
    refine Or.inr fun i hi => ?_
    have hLen : 0 < ((s.finc (RF.WCB_FWD_FWD die) (s.fwdLines die off len)).chans die).length := by
      have := List.mem_range.mp hi
      omega
    have hIn := Nat.mod_lt (off / 60 + i) hLen
    rw [List.getD_eq_getElem _ _ hIn, (hCount.clean h).chans _ (State.chans_lt (List.getElem_mem hIn))]
    exact Bool.false_ne_true
  unfold State.memRead State.lpRead State.lineReads
  rw [if_neg (by omega), hErr]
  dsimp only [List.foldl_nil]
  rw [hServed]
  rfl

end

end Sys2Proof.Machine

/-! Accesses through the aperture (R354), and the obligation on registers, windows and the aperture. -/

namespace Sys2Proof.Machine

section
variable {s : State} {f : FnId} {off : BitVec 34} {size : BitVec 7} {w : Bool} {data : Bytes} {apw : Word64} {o tgt : Nat}

/-- An access of a size that the aperture does not take, or through a window that is not valid. -/
theorem exec_apertureAccess_error (ha : apw = s.reg (Reg.PCI_APW (off.toNat / 2 ^ 30)))
    (h : size.toNat ≠ 8 ∧ size.toNat ≠ 64 ∨ bit apw 63 = false) :
    exec (.apertureAccess f off size w data) s = .next (s.emit (.busReply f none)) := by
  subst ha
  show execApertureAccess f off size w data s = _
  unfold execApertureAccess State.aperture
  dsimp only
  rw [if_pos (by tauto)]
  rfl

/-- Sizes, alignment and window of an access that is well formed. -/
structure ApertureOk (s : State) (off : BitVec 34) (size : BitVec 7) (w : Bool) (data : Bytes) : Prop where
  sized : size.toNat = 8 ∨ size.toNat = 64
  aligned : off.toNat % size.toNat = 0
  full : w = true → data.length = size.toNat
  valid : bit (s.reg (Reg.PCI_APW (off.toNat / 2 ^ 30))) 63 = true

theorem ApertureOk.not_bad (h : ApertureOk s off size w data) (hw : f.val ≠ 0 → off.toNat / 2 ^ 30 < 2) :
    ¬((size.toNat ≠ 8 ∧ size.toNat ≠ 64) ∨ off.toNat % size.toNat ≠ 0 ∨ (w = true ∧ data.length ≠ size.toNat) ∨
      (f.val ≠ 0 ∧ 2 ≤ off.toNat / 2 ^ 30) ∨ bit (s.reg (Reg.PCI_APW (off.toNat / 2 ^ 30))) 63 = false) := by
  obtain ⟨hSize, hAlign, hData, hValid⟩ := h
  rw [hValid]
  rintro (⟨h8, h64⟩ | hAl | ⟨hw', hl⟩ | ⟨hf, h2⟩ | hb)
  · exact hSize.elim h8 h64
  · exact hAl hAlign
  · exact hl (hData hw')
  · have := hw hf
    omega
  · cases hb

/-- A VF reaches only the dies of its own partition. -/
theorem exec_apertureAccess_notOwner (h : ApertureOk s off size w data)
    (ha : apw = s.reg (Reg.PCI_APW (off.toNat / 2 ^ 30))) (ht : tgt = fld apw 40 4) (hf : f.val ≠ 0)
    (hw : off.toNat / 2 ^ 30 < 2) (hOwner : 8 ≤ tgt ∨ s.owner tgt ≠ f.val) :
    ∃ t, exec (.apertureAccess f off size w data) s = .next t ∧ .busReply f none ∈ t.out ∧
      State.Only [.out, .regs, .log] s t := by
  subst ha ht
  refine ⟨(s.refuseItem 0x6B03 f).unsupported f, ?_, by simp [State.unsupported, State.emit], ?_⟩
  · show execApertureAccess f off size w data s = _
    unfold execApertureAccess State.aperture
    dsimp only
    rw [if_neg (h.not_bad fun _ => hw), if_pos ⟨hf, hOwner⟩]
  · exact only_of_keeps fun _ K k => State.emit_keeps (K.mono rfl) _ (State.refuseItem_keeps K _ _ k)

/-- An access of a die's memory by a function that may reach it. -/
theorem exec_apertureAccess_mem (h : ApertureOk s off size w data)
    (ha : apw = s.reg (Reg.PCI_APW (off.toNat / 2 ^ 30))) (ht : tgt = fld apw 40 4)
    (ho : o = fld apw 0 40 + off.toNat % 2 ^ 30)
    (hf : f.val = 0 ∨ off.toNat / 2 ^ 30 < 2 ∧ s.owner tgt = f.val) (ht8 : tgt < 8) (hMem : o < sramBase) :
    exec (.apertureAccess f off size w data) s = .next (s.apertureMem f tgt o size.toNat w data) := by
  subst ha ht
  have hReg : decide (0xFF00000000 ≤ o) = false :=
    decide_eq_false (Nat.not_le.mpr (hMem.trans_le (show sramBase ≤ 0xFF00000000 by decide)))
  show execApertureAccess f off size w data s = _
  unfold execApertureAccess State.aperture
  dsimp only
  rw [if_neg (h.not_bad fun hf0 => (hf.resolve_left hf0).1), ← ho, hReg, if_neg (by omega), if_neg (by omega),
    if_neg (by simp)]

end

/-! Accesses of a die's memory. -/

section
variable {s : State} {f : FnId} {die o n : Nat} {data : Bytes}

theorem State.apertureMem_absorbed (h : s.dieAbsorbs die = true) (w : Bool) :
    s.apertureMem f die o n w data = if w then s.absorb die else s.emit (.busReply f none) := by
  unfold State.apertureMem
  rw [if_pos h]
  rfl

theorem State.absorb_counts (s : State) (die : Nat) :
    ((s.absorb die).link (32 + die)).absorbed = (s.link (32 + die)).absorbed + 1 := by
  unfold State.absorb State.link State.setLink
  dsimp only
  rw [Tbl.get_set]

theorem State.apertureMem_ok (h : s.dieAbsorbs die = false) (hp : pick (s.rangeConds die o n) = none) (w : Bool) :
    s.apertureMem f die o n w data =
      if !s.diePortUp die then
        (if w then (s.apertureWr f die o (data.take 40)).apertureWr f die (o + 40) (data.drop 40)
        else s.emit (.busReply f none))
      else if w then (s.memWrites die [(o, data)] (rxTag die s.module 8 f)).1
      else match s.memRead die o n with
        | (s1, true) => s1.emit (.busReply f (some (s1.peek die o n)))
        | (s1, false) => s1.emit (.busReply f none) := by
  unfold State.apertureMem
  rw [h, if_neg Bool.false_ne_true, hp]
  rfl

/-- A read over an UP port answers with the bytes of memory. -/
theorem State.apertureMem_reads (h : s.dieAbsorbs die = false) (hp : pick (s.rangeConds die o n) = none)
    (hu : s.diePortUp die = true) (hc : s.Clean die) (ho : o < sramBase) :
    ∃ t, s.apertureMem f die o n false data = t ∧ t.out = s.out ++ [.busReply f (some (s.peek die o n))] ∧
      State.Only [.out, .regs] s t ∧ State.RegsBut [Reg.WCB_FWD die] s t := by
  have hCount : State.Only [.out, .regs] s (s.finc (RF.WCB_FWD_FWD die) (s.fwdLines die o n)) :=
    only_of_keeps fun _ K k => State.finc_keeps (K.mono rfl) _ _ k
  refine ⟨_, rfl, ?_⟩
  rw [State.apertureMem_ok h hp, hu, State.memRead_clean hc ho]
  refine ⟨rfl, hCount.trans (only_of_keeps fun _ K k => State.emit_keeps (K.mono rfl) _ k), ?_⟩
  exact ((State.RegsBut.rfl' _ s).finc (by simp [RF.WCB_FWD_FWD])).of_eq rfl

/-- A write over an UP port changes the bytes written. -/
theorem State.apertureMem_writes (h : s.dieAbsorbs die = false) (hp : pick (s.rangeConds die o n) = none)
    (hu : s.diePortUp die = true) (hc : s.Clean die) (ho : o < sramBase) :
    ∃ t, s.apertureMem f die o n true data = t ∧ s.Wrote t (atDie die [(o, data)]) ∧ t.out = s.out := by
  have hWrote := State.memWrites_clean hc ho data (rxTag die s.module 8 f)
  refine ⟨_, rfl, ?_⟩
  rw [State.apertureMem_ok h hp, hu]
  exact ⟨hWrote.wrote, hWrote.only.1 .out (by decide)⟩

end

/-- An access of a die's memory that its port absorbs: a write is counted, a read is answered with an error. -/
theorem exec_absorbed {i : Instr} {s : State} {f : FnId} {die o n : Nat} {w : Bool} {data : Bytes}
    (hExec : exec i s = .next (s.apertureMem f die o n w data)) (h : s.dieAbsorbs die = true) :
    (w = false → exec i s = .next (s.emit (.busReply f none))) ∧
    (w = true → ∃ t, exec i s = .next t ∧ (t.link (32 + die)).absorbed = (s.link (32 + die)).absorbed + 1 ∧
      State.Only [.fab] s t) := by
  rw [State.apertureMem_absorbed h] at hExec
  refine ⟨fun hw => ?_, fun hw => ?_⟩
  · subst hw
    exact hExec
  · subst hw
    exact ⟨_, hExec, s.absorb_counts die, only_of_keeps fun _ K k => State.absorb_keeps K die k⟩

/-- An access while the die's port is not UP: a write waits as cells, a read is answered with an error. -/
theorem exec_portDown {i : Instr} {s : State} {f : FnId} {die o n : Nat} {w : Bool} {data : Bytes}
    (hExec : exec i s = .next (s.apertureMem f die o n w data)) (h : s.dieAbsorbs die = false)
    (hp : pick (s.rangeConds die o n) = none) (hu : s.diePortUp die = false) :
    (w = false → exec i s = .next (s.emit (.busReply f none))) ∧
    (w = true → ∃ t, exec i s = .next t ∧ State.Only [.out, .swm, .fab] s t) := by
  rw [State.apertureMem_ok h hp, hu] at hExec
  refine ⟨fun hw => ?_, fun hw => ?_⟩
  · subst hw
    exact hExec
  · subst hw
    exact ⟨_, hExec, only_of_keeps fun _ K k =>
      State.apertureWr_keeps K _ _ _ _ (State.apertureWr_keeps K _ _ _ _ k)⟩

/-- Settles O56: a write of a register meets the checks of its definition and stores, refuses or counts; the controls
of the loads draw what host memory holds; a die window is PF0's access; the aperture reads and writes memory. -/
theorem registersAreWrittenAndRead : Obligations.RegistersAreWrittenAndRead := by
  unfold Obligations.RegistersAreWrittenAndRead
  intro s
  refine ⟨fun f off size v => ⟨exec_registerWrite_error f off size v s, ?_, ?_⟩, ?_, ?_, exec_counterWrite_sets s,
    fun v n hn => exec_imaskWrite_enables s hn, ?_, ?_, ?_⟩
  · exact exec_registerWrite_reserved v s
  · exact fun hb hf ho h => ⟨_, exec_registerWrite_vf v s hb hf ho, State.vfWrite_wrote1 size v hf f.isLt h⟩
  · intro off size v raw wr new k base idx r hb hbase hk hm hr hwr hraw hnew
    exact ⟨exec_registerWrite_stores hb hbase hk hm hr hwr hraw hnew,
      fun x wr1 => exec_registerWrite_refuses_field hb hbase hk hm hr hwr hraw hnew,
      fun q => exec_registerWrite_refuses_whole hb hbase hk hm hr hwr hraw hnew⟩
  · exact fun v h63 h62 => ⟨exec_registerWrite_rtLoad h63 h62, exec_registerWrite_wireLoad h63,
      exec_registerWrite_fwWrite h63, exec_registerWrite_fenceList h63⟩
  · exact fun off v => ⟨exec_safetyThresholdWrite_none, exec_safetyThresholdWrite_locked, fun h hl hq =>
      ⟨exec_safetyThresholdWrite_stores h hl hq, fun x hx => exec_safetyThresholdWrite_refuses h hl hq hx⟩⟩
  · rintro d off size v o rfl
    exact ⟨exec_dieWindowAccess_write s d off size v, exec_dieWindowAccess_read s d off v rfl,
      exec_dieWindowNoAnswer_counts s d off⟩
  · intro f off size w data apw o tgt ha ht ho
    refine ⟨exec_apertureAccess_error ha, fun hSize hAlign hData hValid => ?_⟩
    have hOk : ApertureOk s off size w data := ⟨hSize, hAlign, hData, ha ▸ hValid⟩
    refine ⟨exec_apertureAccess_notOwner hOk ha ht, fun hf ht8 hMem => ?_⟩
    have hExec := exec_apertureAccess_mem hOk ha ht ho hf ht8 hMem
    refine ⟨exec_absorbed hExec, fun hIn hp => ⟨exec_portDown hExec hIn hp, fun hu hSound => ⟨?_, ?_⟩⟩⟩
    · rintro rfl
      obtain ⟨t, e, hRead⟩ := State.apertureMem_reads hIn hp hu (hSound.clean ht8) hMem
      exact ⟨t, hExec.trans (congrArg _ e), hRead⟩
    · rintro rfl
      obtain ⟨t, e, hWritten⟩ := State.apertureMem_writes hIn hp hu (hSound.clean ht8) hMem
      exact ⟨t, hExec.trans (congrArg _ e), hWritten⟩

end Sys2Proof.Machine

/-! A descriptor whose host read lies outside its function's windows (R355, R356): the paced record of the block. -/

namespace Sys2Proof.Machine

open Sys2Proof.Tests

/-- Ring 5 is ACTIVE and waits for its next descriptor. -/
def blockedState : State := ringed hosted

/-- An HDMA to die 0 from the last 4 KiB page below 2^52, which no window of PF0 covers. -/
def blockedWord : CmdWord := wordOf [(0, 2), (64, 2 ^ 52 - 0x1000), (128, sramBase), (192, 4096)]

/-- That HDMA as ring 5 holds it. -/
def blockedDesc : Desc := descOf [(0, 2), (64, 2 ^ 52 - 0x1000), (128, sramBase), (192, 4096)] []

/-- The window check that stops the HDMA notes the time of its PCI_DMA_BLOCK record in the fabric's group. -/
theorem hdma_blocked_noted : (match exec (.hdma 5 blockedWord) blockedState with
    | .next t => t.fab.recAt.get 0 (0x8802 * 64)
    | _ => 0) = 1 := by decide +kernel

/-- Refutes O40: its frame of an HDMA that ends REFUSED 0x6B01 leaves out the fabric's group, where the time of the last
PCI_DMA_BLOCK record of the function stands. In `blockedState`, where none has been written yet, that time changes. -/
theorem not_launchHdmaAndSetupsStart : ¬ Obligations.LaunchHdmaAndSetupsStart := by
  intro h
  obtain ⟨⟨-, -, -, hFetched, -⟩, -⟩ := test_hyp_hdma
  obtain ⟨-, hHdma, -⟩ := h 5 blockedWord blockedDesc blockedState (descFetched blockedState blockedDesc)
  obtain ⟨hToDie, -⟩ := hHdma hFetched (by decide +kernel) (by decide +kernel)
  obtain ⟨-, hBlocked⟩ := hToDie (by decide +kernel) (by decide +kernel) (by decide +kernel) _ rfl
  obtain ⟨t, ht, -, -, hSame, -⟩ := hBlocked (by decide +kernel)
  have hNoted := hdma_blocked_noted
  rw [ht] at hNoted
  have hFab : t.fab = (descFetched blockedState blockedDesc).fab := hSame .fab (by decide)
  have hNone : (descFetched blockedState blockedDesc).fab.recAt.get 0 (0x8802 * 64) = 0 := by decide +kernel
  dsimp only at hNoted
  rw [hFab, hNone] at hNoted
  cases hNoted

end Sys2Proof.Machine

/-! Rings and their completion queues (R359, R360, R365 to R367, R371): what reads back after a ring's record, status or
completion is written. -/

namespace Sys2Proof.Machine

theorem State.ringRec_setRing (s : State) (n : Nat) (r : RingRec) : (s.setRing n r).ringRec n = r :=
  Tbl.get_set _ _ _ _

@[simp] theorem State.fget_setRing (s : State) (n : Nat) (r : RingRec) (q : FRef) :
    (s.setRing n r).fget q = s.fget q := rfl

@[simp] theorem State.ringRec_fset (s : State) (q : FRef) (v n : Nat) : (s.fset q v).ringRec n = s.ringRec n := rfl

theorem findFrom_some {p : Nat → Bool} {n k x : Nat} (h : findFrom p n k = some x) : p x = true ∧ k ≤ x ∧ x < k + n := by
  induction n generalizing k with
  | zero => cases h
  | succ n ih =>
    unfold findFrom at h
    split at h
    · cases h
      exact ⟨‹_›, by omega, by omega⟩
    · obtain ⟨hp, hk, hn⟩ := ih h
      exact ⟨hp, by omega, by omega⟩

section
variable {s : State} {n : Nat}

theorem State.ringOf_lt {fn lidx : Nat} (h : s.ringOf fn lidx = some n) : n < 1024 := by
  obtain ⟨-, -, hn⟩ := findFrom_some h
  omega

/-- A ring's status register is none of those that a record changes. -/
theorem ringStat_plain (hn : n < 1024) : Reg.RING_STAT n ≠ Reg.LOG_STAT ∧ Reg.RING_STAT n ≠ Reg.LOG_RDSEQ ∧
    Reg.RING_STAT n ≠ Reg.LOG_MIRSEQ ∧ Reg.RING_STAT n ≠ Reg.HIVE_ISUM := by
  simp only [Reg.RING_STAT, Reg.LOG_STAT, Reg.LOG_RDSEQ, Reg.LOG_MIRSEQ, Reg.HIVE_ISUM]
  omega

/-- A field of another register of the ring than the one written. -/
theorem State.fget_cfg_fset_stat (s : State) (q r : FRef) (v : Nat) (hq : q.off ∈ [Reg.RING_CFG n, Reg.RING_CQ n, Reg.RING_SQ n])
    (hr : r.off = Reg.RING_STAT n) : (s.fset r v).fget q = s.fget q := by
  refine State.fget_fset_ne _ _ _ _ (Or.inl ?_)
  simp only [List.mem_cons, List.not_mem_nil, or_false, Reg.RING_CFG, Reg.RING_CQ, Reg.RING_SQ] at hq
  rw [hr, Reg.RING_STAT]
  omega

/-- The windows of a function, seen by what they rest on. -/
theorem State.inWindows_congr {t : State} {fn : Nat} (hf : fn < 16) (hStop : t.host.dmaStop = s.host.dmaStop)
    (hReg : ∀ o < 0xC0000, t.reg o = s.reg o) (addr len : Nat) (write : Bool) :
    t.inWindows fn addr len write = s.inWindows fn addr len write := by
  unfold State.inWindows
  rw [hStop]
  congr 1
  have hWin : ∀ w ∈ List.range 16, t.windowOk fn w addr len write = s.windowOk fn w addr len write := fun w hw => by
    have hw := List.mem_range.mp hw
    unfold State.windowOk
    rw [hReg (Reg.PCI_DMAW_BASE fn w) (by rw [Reg.PCI_DMAW_BASE]; omega),
      hReg (Reg.PCI_DMAW_LIM fn w) (by rw [Reg.PCI_DMAW_LIM]; omega)]
  rw [Bool.eq_iff_iff, List.any_eq_true, List.any_eq_true]
  exact exists_congr fun w => and_congr_right fun hw => by rw [hWin w hw]

theorem State.ringFn_lt (s : State) (n : Nat) : s.ringFn n < 16 := State.fget_lt s (RF.RING_CFG_OWNER n)

/-! ERROR (R360). -/

theorem State.fget_ringError (hn : n < 1024) (h : s.ringState n ≠ 3) (cause : Nat) {q : FRef}
    (hq : q.off = Reg.RING_STAT n) : (s.ringError n cause).fget q =
      ((s.fset (RF.RING_STAT_STATE n) 3).fset (RF.RING_STAT_CAUSE n) cause).fget q := by
  have hPlain := ringStat_plain hn
  rw [← hq] at hPlain
  unfold State.ringError
  rw [if_neg h]
  dsimp only
  split
  · rw [State.fget_isum _ _ _ hPlain.2.2.2, State.fget_hiveRec _ _ _ _ _ _ hPlain]
  · exact State.fget_hiveRec _ _ _ _ _ _ hPlain

/-- A ring put in ERROR is there, with its cause unless it was there before. -/
theorem State.ringError_enters (hn : n < 1024) {cause : Nat} (hc : cause < 64) : (s.ringError n cause).ringState n = 3 ∧
    (s.ringState n ≠ 3 → (s.ringError n cause).fget (RF.RING_STAT_CAUSE n) = cause) := by
  by_cases h : s.ringState n = 3
  · have hSame : s.ringError n cause = s := if_pos h
    exact ⟨by rw [hSame, h], fun h3 => absurd h h3⟩
  · refine ⟨?_, fun _ => ?_⟩
    · show State.fget _ (RF.RING_STAT_STATE n) = 3
      rw [State.fget_ringError hn h _ rfl, State.fget_fset_ne _ _ _ _ (by simp [RF.RING_STAT_STATE, RF.RING_STAT_CAUSE]),
        State.fget_fset _ _ _ (by simp [RF.RING_STAT_STATE])]
      rfl
    · rw [State.fget_ringError hn h _ rfl, State.fget_fset _ _ _ (by simp [RF.RING_STAT_CAUSE])]
      exact Nat.mod_eq_of_lt hc

/-! Completions (R365 to R367). -/

/-- A completion has been written at the tail of ring `n`'s queue: it and its ring's vector, where the count is reached,
have gone out, and only the ring's tail, phase and pending count have changed. -/
structure State.CqWritten (s t : State) (n : Nat) (c : Bytes) (irq : Bool) : Prop where
  out : t.out = s.out ++ s.cqOut n c :: if irq = true ∧ s.fget (RF.RING_CFG_CQ_CNT n) ≤ (s.ringRec n).irq + 1 then
    [.msix (s.ringFn n) (s.fget (RF.RING_CFG_VEC n))] else []
  record : ∃ wrap k, t.ringRec n = { s.ringRec n with wrap := wrap, irq := k }
  tail : t.fget (RF.RING_STAT_CQTAIL n) =
    (s.fget (RF.RING_STAT_CQTAIL n) + 1) % qEntries (s.fget (RF.RING_CQ_LOG2 n)) % 2 ^ 16
  held : t.fget (RF.RING_STAT_HELD n) = s.fget (RF.RING_STAT_HELD n)
  rings : ∃ x, t.host = { s.host with rings := x }
  only : State.Only [.out, .regs, .host] s t
  regs : State.RegsBut [Reg.RING_STAT n] s t

/-- The pending completions of a ring signalled: its vector goes out, its count is 0. -/
theorem State.ringIrq_signals (s : State) (n : Nat) :
    (s.ringIrq n).out = s.out ++ [.msix (s.ringFn n) (s.fget (RF.RING_CFG_VEC n))] ∧
      (s.ringIrq n).ringRec n = { s.ringRec n with irq := 0 } ∧ State.Only [.out, .host] s (s.ringIrq n) :=
  ⟨rfl, s.ringRec_setRing n _, only_of_keeps fun _ K k => State.ringIrq_keeps K n k⟩

theorem State.cqWrite_inside (c : Bytes) (irq : Bool) (hw : s.inWindows (s.ringFn n)
    (4096 * s.fget (RF.RING_CQ_ADDR n) + 16 * s.fget (RF.RING_STAT_CQTAIL n)) 16 true = true) :
    s.CqWritten (s.cqWrite n c irq) n c irq := by
  unfold State.cqWrite
  extract_lets fn q t addr r data s1 wrap irqs s2
  rw [if_pos hw]
  have hRec : s2.ringRec n = { r with wrap := wrap, irq := irqs } := State.ringRec_setRing _ _ _
  have hEmit : ∀ f, (s.emit (.hostWrite fn addr false data)).fget f = s.fget f := State.fget_congr (State.emit_regs _ _)
  have hStored : ∀ f, s2.fget f = s1.fget f := s1.fget_setRing n _
  have hCfg : ∀ f : FRef, f.off = Reg.RING_CFG n → s2.fget f = s.fget f := fun f hf => by
    rw [hStored, State.fget_cfg_fset_stat (n := n) _ f _ _ (by rw [hf]; exact List.mem_cons_self) rfl, hEmit]
  have hTail : s2.fget (RF.RING_STAT_CQTAIL n) = (t + 1) % q % 2 ^ 16 := by
    rw [hStored, State.fget_fset _ _ _ (by simp [RF.RING_STAT_CQTAIL])]
    rfl
  have hHeld : s2.fget (RF.RING_STAT_HELD n) = s.fget (RF.RING_STAT_HELD n) := by
    rw [hStored, State.fget_fset_ne _ _ _ _ (by simp [RF.RING_STAT_HELD, RF.RING_STAT_CQTAIL]), hEmit]
  have hOnly : State.Only [.out, .regs, .host] s s2 := only_of_keeps fun _ K k =>
    State.setRing_keeps (K.mono rfl) _ _ (State.fset_keeps (K.mono rfl) _ _ (State.emit_keeps (K.mono rfl) _ k))
  have hRegs : State.RegsBut [Reg.RING_STAT n] s s2 :=
    (((State.RegsBut.rfl' _ s).of_eq rfl).fset (by simp [RF.RING_STAT_CQTAIL])).of_eq rfl
  have hIf : (irq && decide (s.fget (RF.RING_CFG_CQ_CNT n) ≤ irqs)) = true ↔
      irq = true ∧ s.fget (RF.RING_CFG_CQ_CNT n) ≤ (s.ringRec n).irq + 1 := by
    cases irq
    · simp
    · simp [irqs, r, b2n]
  split
  · rename_i h
    obtain ⟨hOut, hZero, hSignal⟩ := s2.ringIrq_signals n
    refine ⟨?_, ⟨wrap, 0, by rw [hZero, hRec]⟩, hTail, hHeld, ⟨_, rfl⟩, hOnly.trans (hSignal.mono rfl), hRegs.of_eq rfl⟩
    rw [hOut, if_pos (hIf.mp h), hCfg _ rfl, State.ringFn, hCfg _ rfl, State.ringFn]
    exact List.append_assoc _ _ _
  · rename_i h
    refine ⟨?_, ⟨wrap, irqs, hRec⟩, hTail, hHeld, ⟨_, rfl⟩, hOnly, hRegs⟩
    rw [if_neg (mt hIf.mpr h)]
    rfl

/-! A ring that is not closing, or holds no completion (R360, R366). -/

theorem State.ringSettle_open (h : (s.ringRec n).closing = false) : s.ringSettle n = s := by
  unfold State.ringSettle
  dsimp only
  rw [h]
  rfl

theorem State.heldPump_none (k : Nat) (h : (s.ringRec n).held = []) : State.heldPump k s n = s := by
  cases k with
  | zero => rfl
  | succ k =>
    unfold State.heldPump
    dsimp only
    rw [h]

end

end Sys2Proof.Machine

/-! Doorbells, ring enable and disable, and the interrupt hold (R359 to R361, R366, R367, R389). -/

namespace Sys2Proof.Machine

section
variable {s : State} {n : Nat} {f : FnId} {x : Fin 256} {v : BitVec 32}

/-! Doorbells (R359). -/

theorem exec_sqTail (h : s.ringOf f.val x.val = some n) : exec (.sqTail f x v) s =
    .next (if qEntries (s.fget (RF.RING_SQ_LOG2 n)) ≤ fld v 0 16 then s.ringError n 1
      else ({ s with host := { s.host with bellNo := s.host.bellNo + 1 } } : State).setRing n { s.ringRec n with
        tail := fld v 0 16
        bells := (s.ringRec n).bells ++ List.replicate ((fld v 0 16 + qEntries (s.fget (RF.RING_SQ_LOG2 n)) -
          (s.ringRec n).tail) % qEntries (s.fget (RF.RING_SQ_LOG2 n))) (s.host.bellNo + 1) }) := by
  show execSqTail f x v s = _
  unfold execSqTail
  rw [h]

theorem exec_cqHead (h : s.ringOf f.val x.val = some n) : exec (.cqHead f x v) s =
    .next (if qEntries (s.fget (RF.RING_CQ_LOG2 n)) ≤ fld v 0 16 then s.ringError n 1
      else ((s.setRing n { s.ringRec n with head := fld v 0 16 }).heldRun n).ringSettle n) := by
  show execCqHead f x v s = _
  unfold execCqHead
  rw [h]

theorem exec_sqTail_beyond (h : s.ringOf f.val x.val = some n)
    (hv : qEntries (s.fget (RF.RING_SQ_LOG2 n)) ≤ fld v 0 16) : ∃ t, exec (.sqTail f x v) s = .next t ∧
      t.ringState n = 3 ∧ (s.ringState n ≠ 3 → t.fget (RF.RING_STAT_CAUSE n) = 1) :=
  ⟨_, by rw [exec_sqTail h, if_pos hv], State.ringError_enters (State.ringOf_lt h) (by decide)⟩

theorem exec_cqHead_beyond (h : s.ringOf f.val x.val = some n)
    (hv : qEntries (s.fget (RF.RING_CQ_LOG2 n)) ≤ fld v 0 16) : ∃ t, exec (.cqHead f x v) s = .next t ∧
      t.ringState n = 3 ∧ (s.ringState n ≠ 3 → t.fget (RF.RING_STAT_CAUSE n) = 1) :=
  ⟨_, by rw [exec_cqHead h, if_pos hv], State.ringError_enters (State.ringOf_lt h) (by decide)⟩

/-- A completion queue without a held completion takes its new head, and no more. -/
theorem exec_cqHead_moves (h : s.ringOf f.val x.val = some n)
    (hv : fld v 0 16 < qEntries (s.fget (RF.RING_CQ_LOG2 n))) (hOpen : (s.ringRec n).closing = false)
    (hNone : (s.ringRec n).held = []) : ∃ t, exec (.cqHead f x v) s = .next t ∧
      t.ringRec n = { s.ringRec n with head := fld v 0 16 } ∧ State.Only [.host] s t := by
  have hRec := s.ringRec_setRing n { s.ringRec n with head := fld v 0 16 }
  refine ⟨s.setRing n { s.ringRec n with head := fld v 0 16 }, ?_, hRec, ?_⟩
  · rw [exec_cqHead h, if_neg (by omega), State.heldRun, State.heldPump_none _ (by rw [hRec]; exact hNone),
      State.ringSettle_open (by rw [hRec]; exact hOpen)]
  · exact only_of_keeps fun _ K k => State.setRing_keeps K n _ k

/-- The state from which the only held completion of a ring is written: the ring holds none (R366). -/
def State.unheld (s : State) (n : Nat) : State :=
  (s.setRing n { s.ringRec n with held := [] }).fset (RF.RING_STAT_HELD n) 0

theorem State.unheld_ringRec (s : State) (n : Nat) : (s.unheld n).ringRec n = { s.ringRec n with held := [] } :=
  s.ringRec_setRing n _

theorem State.unheld_fget (s : State) (n : Nat) (q : FRef) (h : q.apart (RF.RING_STAT_HELD n)) :
    (s.unheld n).fget q = s.fget q := by
  rw [State.unheld, State.fget_fset_ne _ _ _ _ h, State.fget_setRing]

/-- Where the next completion goes is the same. -/
theorem State.unheld_place (s : State) (n : Nat) : (s.unheld n).ringFn n = s.ringFn n ∧
    (s.unheld n).fget (RF.RING_CQ_ADDR n) = s.fget (RF.RING_CQ_ADDR n) ∧
    (s.unheld n).fget (RF.RING_STAT_CQTAIL n) = s.fget (RF.RING_STAT_CQTAIL n) := by
  refine ⟨s.unheld_fget n _ (Or.inl ?_), s.unheld_fget n _ (Or.inl ?_), s.unheld_fget n _ (Or.inr (Or.inr ?_))⟩
  · simp [RF.RING_CFG_OWNER, RF.RING_STAT_HELD, Reg.RING_CFG, Reg.RING_STAT]
  · simp [RF.RING_CQ_ADDR, RF.RING_STAT_HELD, Reg.RING_CQ, Reg.RING_STAT]
  · simp [RF.RING_STAT_CQTAIL, RF.RING_STAT_HELD]

theorem State.unheld_room (h : s.cqRoom n) : (s.unheld n).inWindows ((s.unheld n).ringFn n)
    (4096 * (s.unheld n).fget (RF.RING_CQ_ADDR n) + 16 * (s.unheld n).fget (RF.RING_STAT_CQTAIL n)) 16 true = true := by
  obtain ⟨-, -, hWin⟩ := h
  obtain ⟨hFn, hAddr, hTail⟩ := s.unheld_place n
  rw [hFn, hAddr, hTail]
  refine (State.inWindows_congr (s := s) (t := s.unheld n) (s.ringFn_lt n) rfl (fun o ho => ?_) _ _ _).trans hWin
  refine State.reg_fset_ne _ _ _ _ ?_
  simp only [RF.RING_STAT_HELD, Reg.RING_STAT]
  omega

/-- A queue with room takes the one completion that its ring holds. -/
theorem State.heldRun_one {c : Bytes} {b : Bool} (hHeld : (s.ringRec n).held = [(c, b)]) (hRoom : s.cqRoom n) :
    (s.unheld n).CqWritten (s.heldRun n) n c b := by
  have hWritten := State.cqWrite_inside c b (State.unheld_room hRoom)
  have hAll : s.heldRun n = (s.unheld n).cqWrite n c b := by
    unfold State.heldRun State.heldPump
    dsimp only
    rw [hHeld]
    dsimp only
    rw [if_pos ⟨hRoom.1, hRoom.2.1⟩]
    refine State.heldPump_none _ ?_
    obtain ⟨w, k, hRec⟩ := hWritten.record
    refine (congrArg RingRec.held hRec).trans ?_
    rw [State.unheld_ringRec]
  rw [hAll]
  exact hWritten

/-- A completion queue with room at its new head takes the one completion that its ring holds (R366). -/
theorem exec_cqHead_releases (h : s.ringOf f.val x.val = some n)
    (hv : fld v 0 16 < qEntries (s.fget (RF.RING_CQ_LOG2 n))) (hOpen : (s.ringRec n).closing = false) {c : Bytes} {b : Bool}
    (hHeld : (s.ringRec n).held = [(c, b)]) (hRoom : (s.setRing n { s.ringRec n with head := fld v 0 16 }).cqRoom n) :
    ∃ t, exec (.cqHead f x v) s = .next t ∧ (t.ringRec n).held = [] ∧ s.cqOut n c ∈ t.out ∧
      t.fget (RF.RING_STAT_HELD n) = 0 ∧ State.Only [.out, .regs, .host] s t := by
  generalize hu : s.setRing n { s.ringRec n with head := fld v 0 16 } = u at hRoom
  have hRec : u.ringRec n = { s.ringRec n with head := fld v 0 16 } := by rw [← hu, State.ringRec_setRing]
  have hWritten := State.heldRun_one (by rw [hRec]; exact hHeld) hRoom
  obtain ⟨w, k, hLast⟩ := hWritten.record
  rw [State.unheld_ringRec, hRec] at hLast
  refine ⟨u.heldRun n, ?_, by rw [hLast], ?_, ?_, ?_⟩
  · rw [exec_cqHead h, if_neg (by omega), hu, State.ringSettle_open (by rw [hLast]; exact hOpen)]
  · have hSame : (u.unheld n).cqOut n c = s.cqOut n c := by
      obtain ⟨hFn, hAddr, hTail⟩ := u.unheld_place n
      unfold State.cqOut
      rw [hFn, hAddr, hTail, State.unheld_ringRec, hRec, ← hu]
      rfl
    rw [hWritten.out, hSame]
    exact List.mem_append_right _ List.mem_cons_self
  · rw [hWritten.held, State.unheld, State.fget_fset _ _ _ (by simp [RF.RING_STAT_HELD])]
    rfl
  · have hHead : State.Only [.out, .regs, .host] s u := hu ▸ only_of_keeps fun _ K k => State.setRing_keeps (K.mono rfl) n _ k
    have hTaken : State.Only [.out, .regs, .host] u (u.unheld n) := only_of_keeps fun _ K k =>
      State.fset_keeps (K.mono rfl) _ _ (State.setRing_keeps (K.mono rfl) n _ k)
    exact (hHead.trans hTaken).trans hWritten.only

theorem exec_irqHoldExpire {r : RingId} (h : (s.ringRec r).irq ≠ 0) : ∃ t, exec (.irqHoldExpire r) s = .next t ∧
    t.out = s.out ++ [.msix (s.ringFn r) (s.fget (RF.RING_CFG_VEC r))] ∧
    t.ringRec r = { s.ringRec r with irq := 0 } ∧ State.Only [.out, .host] s t := by
  refine ⟨s.ringIrq r, ?_, s.ringIrq_signals r⟩
  show execIrqHoldExpire r s = _
  rw [execIrqHoldExpire, if_pos h]

/-! Enabling (R361, R389). -/

/-- A field written over a register that has just been cleared: every other field of it reads 0. -/
theorem State.fget_cleared (s : State) (r q : FRef) (v : Nat) (ho : q.off = r.off)
    (h : q.lo + q.w ≤ r.lo ∨ r.lo + r.w ≤ q.lo) : ((s.setReg r.off 0).fset r v).fget q = 0 := by
  rw [State.fget_fset_ne _ _ _ _ (Or.inr h), State.fget, ho, State.reg_setReg]
  simp [fld, bitsN]

/-- The state of a ring that `ringActivate` leaves: indices 0, FROZEN where the function may not master the bus. -/
theorem State.ringActivate_starts (s : State) (n : Nat) :
    (s.ringActivate n).ringState n = (if s.bmeOn (s.ringFn n) then 1 else 2) ∧
    (s.ringActivate n).fget (RF.RING_STAT_SQHEAD n) = 0 ∧ (s.ringActivate n).fget (RF.RING_STAT_CQTAIL n) = 0 ∧
    (s.ringActivate n).ringRec n = { frzBme := !s.bmeOn (s.ringFn n) } ∧
    State.Only [.regs, .host] s (s.ringActivate n) ∧ State.RegsBut [Reg.RING_STAT n] s (s.ringActivate n) := by
  have hState : (s.ringActivate n).ringState n = if !s.bmeOn (s.ringFn n) then 2 else 1 := by
    unfold State.ringActivate
    refine (State.fget_fset _ (RF.RING_STAT_STATE n) _ (by simp [RF.RING_STAT_STATE])).trans ?_
    cases s.bmeOn (s.ringFn n) <;> rfl
  refine ⟨?_, ?_, ?_, s.ringRec_setRing n _, ?_, ?_⟩
  · rw [hState]
    cases s.bmeOn (s.ringFn n) <;> rfl
  · exact s.fget_cleared (RF.RING_STAT_STATE n) (RF.RING_STAT_SQHEAD n) _ rfl
      (Or.inr (by simp [RF.RING_STAT_STATE, RF.RING_STAT_SQHEAD]))
  · exact s.fget_cleared (RF.RING_STAT_STATE n) (RF.RING_STAT_CQTAIL n) _ rfl
      (Or.inr (by simp [RF.RING_STAT_STATE, RF.RING_STAT_CQTAIL]))
  · exact only_of_keeps fun _ K k => State.ringActivate_keeps K n k
  · unfold State.ringActivate
    exact ((((State.RegsBut.rfl' _ s).setReg (by simp)).of_eq rfl)).fset (by simp [RF.RING_STAT_STATE])

theorem State.fget_en_ringStat (s : State) (r : FRef) (v : Nat) (hr : r.off = Reg.RING_STAT n) :
    (s.fset r v).fget (RF.RING_CFG_EN n) = s.fget (RF.RING_CFG_EN n) :=
  s.fget_cfg_fset_stat (n := n) _ r v (by simp [RF.RING_CFG_EN]) hr

/-- EN after the ring's status has changed, and what a write of EN leaves alone. -/
theorem State.fset_en_ringState (s : State) (n v : Nat) : (s.fset (RF.RING_CFG_EN n) v).ringState n = s.ringState n :=
  State.fget_fset_ne _ _ _ _ (Or.inl (by simp [RF.RING_STAT_STATE, RF.RING_CFG_EN, Reg.RING_STAT, Reg.RING_CFG]))

theorem State.fset_en (s : State) (n v : Nat) (hv : v < 2) : (s.fset (RF.RING_CFG_EN n) v).fget (RF.RING_CFG_EN n) = v :=
  (State.fget_fset _ _ _ (by simp [RF.RING_CFG_EN])).trans (Nat.mod_eq_of_lt hv)

theorem State.ringActivate_en (s : State) (n : Nat) : (s.ringActivate n).fget (RF.RING_CFG_EN n) = s.fget (RF.RING_CFG_EN n) := by
  obtain ⟨-, -, -, -, -, hRegs⟩ := s.ringActivate_starts n
  rw [State.fget, hRegs _ (by simp [RF.RING_CFG_EN, Reg.RING_CFG, Reg.RING_STAT]), ← State.fget]

variable {r : RingId}

/-- A ring whose checks pass after READY is enabled and ACTIVE, or FROZEN without bus mastering (R361). -/
theorem exec_ringEnable_starts (hEn : s.fget (RF.RING_CFG_EN r) = 0) (hOff : s.ringState r = 0)
    (hReady : s.fget RF.QN_BOOT_STAT_READY ≠ 0) (hp : pick (s.ringConds f r) = none) :
    ∃ t, exec (.ringEnable f r) s = .next t ∧ t.fget (RF.RING_CFG_EN r) = 1 ∧
      t.ringState r = (if s.bmeOn (s.ringFn r) then 1 else 2) ∧ t.fget (RF.RING_STAT_SQHEAD r) = 0 ∧
      t.fget (RF.RING_STAT_CQTAIL r) = 0 ∧ t.ringRec r = { frzBme := !s.bmeOn (s.ringFn r) } ∧
      State.Only [.regs, .host] s t ∧ State.RegsBut [Reg.RING_CFG r, Reg.RING_STAT r] s t := by
  obtain ⟨hState, hSq, hCq, hRec, hOnly, hRegs⟩ := (s.fset (RF.RING_CFG_EN r) 1).ringActivate_starts r
  have hFn : (s.fset (RF.RING_CFG_EN r) 1).ringFn r = s.ringFn r :=
    State.fget_fset_ne _ _ _ _ (Or.inr (Or.inr (by simp [RF.RING_CFG_EN, RF.RING_CFG_OWNER])))
  rw [hFn] at hState hRec
  refine ⟨_, ?_, ?_, hState, hSq, hCq, hRec, ?_, ?_⟩
  · show execRingEnable f r s = _
    rw [execRingEnable, State.ringEnable, if_neg (by rw [hEn]; decide), if_neg (by rw [hOff]; decide), if_neg hReady, hp]
  · rw [State.ringActivate_en, State.fset_en _ _ _ (by decide)]
  · exact State.Only.trans (only_of_keeps fun _ K k => State.fset_keeps (K.mono rfl) _ _ k) hOnly
  · intro o ho
    rw [hRegs o (fun h => ho (List.mem_cons_of_mem _ h)), State.reg_fset_ne _ _ _ _ (by
      rintro rfl
      exact ho List.mem_cons_self)]

/-- A ring whose checks fail stays DISABLED and shows the reason (R361). -/
theorem exec_ringEnable_refuses (hEn : s.fget (RF.RING_CFG_EN r) = 0) (hOff : s.ringState r = 0)
    (hReady : s.fget RF.QN_BOOT_STAT_READY ≠ 0) {q : Nat} (hq : q < 2 ^ 16) (hp : pick (s.ringConds f r) = some q) :
    ∃ t, exec (.ringEnable f r) s = .next t ∧ t.ringState r = 0 ∧ t.fget (RF.RING_STAT_REASON r) = q ∧
      t.fget (RF.RING_CFG_EN r) = 0 := by
  have hPlain := ringStat_plain r.isLt
  refine ⟨(s.fset (RF.RING_STAT_REASON r) q).refuseWrite q, ?_, ?_, ?_, ?_⟩
  · show execRingEnable f r s = _
    rw [execRingEnable, State.ringEnable, if_neg (by rw [hEn]; decide), if_neg (by rw [hOff]; decide), if_neg hReady, hp]
  · rw [State.ringState, State.refuseWrite, State.fget_hiveRec _ _ _ _ _ _ hPlain,
      State.fget_fset_ne _ _ _ _ (by simp [RF.RING_STAT_STATE, RF.RING_STAT_REASON])]
    exact hOff
  · rw [State.refuseWrite, State.fget_hiveRec _ _ _ _ _ _ hPlain, State.fget_fset _ _ _ (by simp [RF.RING_STAT_REASON])]
    exact Nat.mod_eq_of_lt hq
  · have hCfg : Reg.RING_CFG r ≠ Reg.LOG_STAT ∧ Reg.RING_CFG r ≠ Reg.LOG_RDSEQ ∧ Reg.RING_CFG r ≠ Reg.LOG_MIRSEQ ∧
        Reg.RING_CFG r ≠ Reg.HIVE_ISUM := by
      simp only [Reg.RING_CFG, Reg.LOG_STAT, Reg.LOG_RDSEQ, Reg.LOG_MIRSEQ, Reg.HIVE_ISUM]
      omega
    rw [State.refuseWrite, State.fget_hiveRec _ _ _ _ _ _ hCfg, State.fget_en_ringStat _ _ _ rfl]
    exact hEn

/-- A ring enabled before READY waits for it (R389). -/
theorem exec_ringEnable_waits (hEn : s.fget (RF.RING_CFG_EN r) = 0) (hOff : s.ringState r = 0)
    (hReady : s.fget RF.QN_BOOT_STAT_READY = 0) : ∃ t, exec (.ringEnable f r) s = .next t ∧
      t.ringState r = 0 ∧ t.fget (RF.RING_CFG_EN r) = 1 ∧ t.ringRec r = { s.ringRec r with early := some f.val } ∧
      State.Only [.regs, .host] s t ∧ State.RegsBut [Reg.RING_CFG r] s t := by
  refine ⟨(s.setRing r { s.ringRec r with early := some f.val }).fset (RF.RING_CFG_EN r) 1, ?_, ?_, ?_, ?_, ?_, ?_⟩
  · show execRingEnable f r s = _
    rw [execRingEnable, State.ringEnable, if_neg (by rw [hEn]; decide), if_neg (by rw [hOff]; decide), if_pos hReady]
  · rw [State.fset_en_ringState]
    exact hOff
  · exact State.fset_en _ _ _ (by decide)
  · rw [State.ringRec_fset, State.ringRec_setRing]
  · exact only_of_keeps fun _ K k => State.fset_keeps (K.mono rfl) _ _ (State.setRing_keeps (K.mono rfl) _ _ k)
  · exact ((State.RegsBut.rfl' _ s).of_eq rfl).fset (by simp [RF.RING_CFG_EN])

/-! Disabling (R360). -/

/-- EN clear and the ring closing: where `ringSettle` begins. -/
def State.ringCloses (s : State) (n : Nat) : State :=
  (s.fset (RF.RING_CFG_EN n) 0).setRing n { s.ringRec n with closing := true }

theorem State.ringCloses_ringRec (s : State) (n : Nat) :
    (s.ringCloses n).ringRec n = { s.ringRec n with closing := true } := State.ringRec_setRing _ _ _

theorem State.ringCloses_ringState (s : State) (n : Nat) : (s.ringCloses n).ringState n = s.ringState n :=
  s.fset_en_ringState n 0

theorem State.ringCloses_en (s : State) (n : Nat) : (s.ringCloses n).fget (RF.RING_CFG_EN n) = 0 :=
  s.fset_en n 0 (by decide)

theorem State.ringCloses_only (s : State) (n : Nat) : State.Only [.regs, .host] s (s.ringCloses n) :=
  only_of_keeps fun _ K k => State.setRing_keeps (K.mono rfl) _ _ (State.fset_keeps (K.mono rfl) _ _ k)

theorem State.ringCloses_regs (s : State) (n : Nat) : State.RegsBut [Reg.RING_CFG n] s (s.ringCloses n) :=
  ((State.RegsBut.rfl' _ s).fset (by simp [RF.RING_CFG_EN])).of_eq rfl

theorem exec_ringDisable (hf : f.val = 0 ∨ f.val = s.ringFn r) (hOn : s.ringState r = 1) :
    exec (.ringDisable f r) s = .next ((s.ringCloses r).ringSettle r) := by
  show execRingDisable f r s = _
  rw [execRingDisable, State.ringDisable, if_neg (by tauto), if_neg (by rw [hOn]; decide)]
  rfl

/-- An idle ring is DISABLED at once. -/
theorem exec_ringDisable_idle (hf : f.val = 0 ∨ f.val = s.ringFn r) (hOn : s.ringState r = 1)
    (hHeld : (s.ringRec r).held = []) (hIdle : ∀ d ∈ s.host.descs, d.ring ≠ r.val) :
    ∃ t, exec (.ringDisable f r) s = .next t ∧ t.fget (RF.RING_CFG_EN r) = 0 ∧ t.ringState r = 0 ∧
      t.ringRec r = {} ∧ State.Only [.regs, .host] s t ∧ State.RegsBut [Reg.RING_CFG r, Reg.RING_STAT r] s t := by
  have hRuns : ((s.ringCloses r).host.descs.any fun d =>
      d.ring == r.val && (decide ((s.ringCloses r).ringState r = 1) || decide (2 ≤ d.st))) = false := by
    rw [List.any_eq_false]
    intro d hd
    simp [hIdle d hd]
  have hSettle : ∃ x : State, x.regs = (s.ringCloses r).regs ∧ State.Only [.host] (s.ringCloses r) x ∧
      (s.ringCloses r).ringSettle r = (x.setRing r {}).fset (RF.RING_STAT_STATE r) 0 := by
    refine ⟨{ s.ringCloses r with host := { (s.ringCloses r).host with
      descs := (s.ringCloses r).host.descs.filter fun d => d.ring != r.val } }, rfl, ?_, ?_⟩
    · exact only_of_keeps fun _ K k => K.host (by decide) _ k
    · unfold State.ringSettle
      dsimp only
      rw [hRuns, State.ringCloses_ringRec, State.ringCloses_ringState, hOn, hHeld]
      rfl
  obtain ⟨u, hu, hOnly, hEq⟩ := hSettle
  refine ⟨_, (exec_ringDisable hf hOn).trans (congrArg _ hEq), ?_, ?_, ?_, ?_, ?_⟩
  · rw [State.fget_en_ringStat _ _ _ rfl, State.fget_setRing, State.fget_congr hu, State.ringCloses_en]
  · exact State.fget_fset _ _ _ (by simp [RF.RING_STAT_STATE])
  · rw [State.ringRec_fset, State.ringRec_setRing]
  · refine ((s.ringCloses_only r).trans (hOnly.mono rfl)).trans (only_of_keeps fun _ K k => ?_)
    exact State.fset_keeps (K.mono rfl) _ _ (State.setRing_keeps (K.mono rfl) _ _ k)
  · refine State.RegsBut.fset (State.RegsBut.of_eq (fun o ho => ?_) (u := u.setRing r {}) hu) (by simp [RF.RING_STAT_STATE])
    exact s.ringCloses_regs r o fun h => ho (List.mem_cons.mpr (Or.inl (List.mem_singleton.mp h)))

/-- A ring with an uncompleted descriptor goes on until that has completed. -/
theorem exec_ringDisable_busy (hf : f.val = 0 ∨ f.val = s.ringFn r) (hOn : s.ringState r = 1)
    (hBusy : ∃ d ∈ s.host.descs, d.ring = r.val) : ∃ t, exec (.ringDisable f r) s = .next t ∧
      t.fget (RF.RING_CFG_EN r) = 0 ∧ t.ringState r = 1 ∧ t.ringRec r = { s.ringRec r with closing := true } ∧
      State.Only [.regs, .host] s t ∧ State.RegsBut [Reg.RING_CFG r] s t := by
  obtain ⟨d, hd, hRing⟩ := hBusy
  have hRuns : ((s.ringCloses r).host.descs.any fun d =>
      d.ring == r.val && (decide ((s.ringCloses r).ringState r = 1) || decide (2 ≤ d.st))) = true := by
    rw [List.any_eq_true]
    exact ⟨d, hd, by simp [hRing, State.ringCloses_ringState, hOn]⟩
  have hStays : (s.ringCloses r).ringSettle r = s.ringCloses r := by
    unfold State.ringSettle
    dsimp only
    rw [hRuns, Bool.not_true, Bool.and_false, if_neg Bool.false_ne_true]
  exact ⟨_, (exec_ringDisable hf hOn).trans (congrArg _ hStays), s.ringCloses_en r,
    (s.ringCloses_ringState r).trans hOn, s.ringCloses_ringRec r, s.ringCloses_only r, s.ringCloses_regs r⟩

end

/-- Settles O43: each doorbell, enable and disable by the branch of its operation that the hypotheses select. -/
theorem doorbellsAndRingStates : Obligations.DoorbellsAndRingStates := by
  unfold Obligations.DoorbellsAndRingStates
  intro s
  refine ⟨fun f x v n h => ⟨exec_sqTail_beyond h, fun hv => ?_, exec_cqHead_beyond h, fun hv hOpen =>
    ⟨exec_cqHead_moves h hv hOpen, fun c b => exec_cqHead_releases h hv hOpen⟩⟩, fun r => exec_irqHoldExpire,
    fun f r hEn hOff => ⟨exec_ringEnable_starts hEn hOff, fun hReady q => exec_ringEnable_refuses hEn hOff hReady,
      exec_ringEnable_waits hEn hOff⟩,
    fun f r hf hOn => ⟨exec_ringDisable_idle hf hOn, exec_ringDisable_busy hf hOn⟩⟩
  refine ⟨_, by rw [exec_sqTail h, if_neg (by omega)], State.ringRec_setRing _ _ _, ?_⟩
  exact only_of_keeps fun _ K k => State.setRing_keeps K n _ (K.host (by decide) _ k)

end Sys2Proof.Machine

/-! Restarts of the module and losses of the rails (R411, R417, R424, R428, R434, R435, R449): what is cleared, what is
kept, and what the last gasp shows. -/

namespace Sys2Proof.Machine

/-! A restart halts the module: stores end, cores and take-overs stop, dies leave their resets, registers keep the
fields of `keep`. -/

/-- The state in which a restart clears what it clears. -/
def State.halted (s : State) (keep : Nat → RField → Bool) : State :=
  let s0 : State := { s.storeLost with core := {} }
  let s1 := s0.eng.clDrain.foldl (fun (s : State) e =>
    if bitN e.2 0 then s.takeoverTry (e.1 / 32) (s.clPhys (e.1 / 32) (e.1 % 32)) else s) s0
  ((List.range 8).foldl (fun (s : State) d => s.dieLeave d) s1).resetRegs keep

theorem State.dieLeave_saf (s : State) (d : Nat) : ∃ x, (s.dieLeave d).saf = { s.saf with dies := x } := by
  unfold State.dieLeave
  dsimp only
  split
  · exact ⟨s.saf.dies, rfl⟩
  · exact ⟨s.saf.dies.del d, by rw [State.setDieState_saf]⟩

section
variable (s : State) (keep : Nat → RField → Bool) (cold byReset : Bool)

theorem State.halted_keeps {P : State → Prop} (K : Keeps [.free, .out, .regs, .mem, .core, .eng, .upd, .swm, .cap, .lp, .log,
    .fab, .host, .wort, .boot, .saf] P) (hs : P s) : P (s.halted keep) := by
  unfold State.halted
  refine State.resetRegs_keeps (K.mono rfl) _ (foldl_keeps (fun _ _ h => State.dieLeave_keeps (K.mono rfl) _ h) ?_)
  refine foldl_keeps (fun _ _ h => ite_keeps (State.takeoverTry_keeps (K.mono rfl) _ _ h) h) ?_
  exact K.core (by decide) _ (State.storeLost_keeps (K.mono rfl) hs)

theorem State.halted_pwr : (s.halted keep).pwr = s.pwr := s.halted_keeps keep (keeps_pwr s.pwr (by decide)) rfl

theorem State.halted_clk : (s.halted keep).clk = s.clk := s.halted_keeps keep (keeps_clock _ s.clk) rfl

/-- Of the safety state a halt changes only the dies held. -/
theorem State.halted_saf : ∃ x, (s.halted keep).saf = { s.saf with dies := x } := by
  refine foldl_keeps (P := fun t => ∃ x, t.saf = { s.saf with dies := x }) (fun t d ⟨x, hx⟩ => ?_) ⟨s.saf.dies, ?_⟩
  · obtain ⟨y, hy⟩ := t.dieLeave_saf d
    exact ⟨y, by rw [hy, hx]⟩
  · refine foldl_keeps (P := fun t => t.saf = s.saf) (fun t e h => ?_) ?_
    · refine ite_keeps (P := fun t => t.saf = s.saf) ?_ h
      exact State.takeoverTry_keeps (keeps_saf s.saf (by decide)) _ _ h
    · exact State.storeLost_keeps (keeps_saf s.saf (by decide)) rfl

/-- With no take-over under way a halt leaves the host interface and the update units alone. -/
theorem State.halted_idle (h : s.eng.clDrain = []) :
    (s.halted keep).core = {} ∧ (s.halted keep).upd = s.upd ∧ (s.halted keep).host = s.host := by
  have hNone : s.storeLost.eng.clDrain = [] := by
    rw [show s.storeLost.eng = s.eng from State.storeLost_keeps (keeps_eng s.eng (by decide)) rfl, h]
  have hAll : ∀ P : State → Prop, Keeps [.out, .regs, .boot, .saf] P → P { s.storeLost with core := {} } → P (s.halted keep) := by
    intro P K hP
    unfold State.halted
    dsimp only
    rw [hNone]
    exact State.resetRegs_keeps (K.mono rfl) _ (foldl_keeps (fun _ _ h => State.dieLeave_keeps (K.mono rfl) _ h) hP)
  refine ⟨hAll _ (keeps_core {} (by decide)) rfl, hAll _ (keeps_upd s.upd (by decide)) ?_,
    hAll _ (keeps_host s.host (by decide)) ?_⟩
  · exact State.storeLost_keeps (keeps_upd s.upd (by decide)) rfl
  · exact State.storeLost_keeps (keeps_host s.host (by decide)) rfl

/-! Restarts (R411). -/

theorem State.restart_pwr : (s.restart keep cold byReset).pwr = { s.pwr with pins := [] } := by
  show ({ (s.halted keep).pwr with pins := [] } : PwrSt) = _
  rw [State.halted_pwr]

theorem State.restart_restarted (h : s.eng.clDrain = []) : s.Restarted (s.restart keep cold byReset) := by
  obtain ⟨hCore, hUpd, hHost⟩ := s.halted_idle keep h
  refine ⟨hCore, rfl, rfl, rfl, rfl, rfl, s.halted_clk keep, ?_, ?_⟩
  · show ({ lost := (s.halted keep).upd.lost } : UpdSt) = _
    rw [hUpd]
  · show ({ nextHandle := (s.halted keep).host.nextHandle } : HostSt) = _
    rw [hHost]

/-- The fence table and the watchdog's expiries stand through a restart. -/
theorem State.restart_saf : (s.restart keep cold byReset).saf.fence = s.saf.fence ∧
    (s.restart keep cold byReset).saf.wdog = s.saf.wdog := by
  obtain ⟨x, hx⟩ := s.halted_saf keep
  have hSaf : (s.restart keep cold byReset).saf = { (s.halted keep).saf with
    stage := [], hot := [], cores := [], coreAt := [], resetWait := false } := rfl
  rw [hx] at hSaf
  exact ⟨(congrArg SafSt.fence hSaf).trans rfl, (congrArg SafSt.wdog hSaf).trans rfl⟩

end

/-- What a restart has cleared stands cleared while those groups do not change. -/
theorem State.Restarted.of_eq {s t u : State} (h : s.Restarted t) (hCore : u.core = t.core) (hSmp : u.smp = t.smp)
    (hSwm : u.swm = t.swm) (hCap : u.cap = t.cap) (hFab : u.fab = t.fab) (hWort : u.wort = t.wort)
    (hTime : u.boot.t0 = t.boot.t0) (hUpd : u.upd = t.upd) (hHost : u.host = t.host) : s.Restarted u := by
  rw [State.Restarted, hCore, hSmp, hSwm, hCap, hFab, hWort, hTime, hUpd, hHost]
  exact h

/-! The rails off (R417, R424, R449). -/

section
variable (s : State) (v : Nat)

/-- The restart of a module whose rails turn off: no fence and no held die survives it. -/
def State.unfed : State :=
  ({ s with saf := { s.saf with fence := [], dies := [] } } : State).restart RField.keptPower false false

theorem State.unfed_fence : s.unfed.saf.fence = [] := (State.restart_saf _ _ _ _).1

theorem State.unfed_restarted (h : s.eng.clDrain = []) : s.Restarted s.unfed :=
  State.restart_restarted { s with saf := { s.saf with fence := [], dies := [] } } _ _ _ h

/-- The rails off: the memories' contents are gone too. -/
theorem State.railsOff_unfed : s.railsOff v = ({ s.unfed with
    mem := [], eng := { s.unfed.eng with sramErr := [] }, lp := { s.unfed.lp with lineErr := [] },
    pwr := { s.unfed.pwr with rails := false } } : State).fset RF.LOG_STAT_SSTATE v := rfl

theorem State.railsOff_pwr : (s.railsOff v).pwr = { s.pwr with pins := [], rails := false } := by
  rw [State.railsOff_unfed, State.fset_pwr, State.unfed, State.restart_pwr]

theorem State.railsOff_byte (k : Nat) : (s.railsOff v).byte k = 0 := by
  rw [State.byte, State.railsOff_unfed, State.fset_mem]
  rfl

theorem State.railsOff_sstate (hv : v < 4) : (s.railsOff v).fget RF.LOG_STAT_SSTATE = v := by
  rw [State.railsOff_unfed, State.fget_fset _ _ _ (by decide)]
  exact Nat.mod_eq_of_lt hv

theorem State.railsOff_lost : s.RailsLost (s.railsOff v) := by
  refine ⟨by rw [State.railsOff_pwr], s.railsOff_byte v, ?_, fun h => ?_⟩
  · rw [State.railsOff_unfed, State.fset_saf]
    exact s.unfed_fence
  · rw [State.railsOff_unfed]
    exact (s.unfed_restarted h).of_eq (State.fset_core _ _ _) (State.fset_smp _ _ _) (State.fset_swm _ _ _)
      (State.fset_cap _ _ _) (State.fset_fab _ _ _) (State.fset_wort _ _ _)
      (congrArg BootSt.t0 (State.fset_boot _ _ _)) (State.fset_upd _ _ _) (State.fset_host _ _ _)

end

/-! Module resets (R411). -/

theorem State.dieEnter_boot (s : State) (d : Nat) : ∃ x, (s.dieEnter d).boot = { s.boot with dieWas := x } := by
  unfold State.dieEnter
  split
  · exact ⟨s.boot.dieWas, rfl⟩
  · exact ⟨_, by rw [State.setDieState_boot]⟩

/-- The hold of a fenced module changes what bring-up knows only in the hold itself. -/
theorem State.selfHold_boot (s : State) : ∃ x, s.selfHold.boot = { s.boot with selfFenced := true, dieWas := x } := by
  refine foldl_keeps (P := fun t => ∃ x, t.boot = { s.boot with selfFenced := true, dieWas := x })
    (fun t d ⟨x, hx⟩ => ?_) ⟨s.boot.dieWas, rfl⟩
  obtain ⟨y, hy⟩ := t.dieEnter_boot d
  exact ⟨y, by rw [hy, hx]⟩

theorem State.selfHold_restarted {s t : State} (h : s.Restarted t) : s.Restarted t.selfHold := by
  obtain ⟨x, hx⟩ := t.selfHold_boot
  exact h.of_eq (State.selfHold_keeps (keeps_core t.core (by decide)) rfl)
    (State.selfHold_keeps (keeps_smp t.smp (by decide)) rfl) (State.selfHold_keeps (keeps_swm t.swm (by decide)) rfl)
    (State.selfHold_keeps (keeps_cap t.cap (by decide)) rfl) (State.selfHold_keeps (keeps_fab t.fab (by decide)) rfl)
    (State.selfHold_keeps (keeps_wort t.wort (by decide)) rfl) ((congrArg BootSt.t0 hx).trans rfl)
    (State.selfHold_keeps (keeps_upd t.upd (by decide)) rfl) (State.selfHold_keeps (keeps_host t.host (by decide)) rfl)

/-- GOING_DOWN on every UP port. -/
def State.goingDown (s : State) : State :=
  ((List.range 40).filter fun p => decide (s.portState p = 3)).foldl (fun (s : State) p => s.sendCtl p 0 true) s

theorem State.goingDown_keeps {P : State → Prop} (K : Keeps [.out, .fab] P) {s : State} (hs : P s) : P s.goingDown :=
  foldl_keeps (fun _ _ h => State.sendCtl_keeps K _ _ _ h) hs

/-- What the rest of a module reset starts from is what a restart leaves. -/
theorem State.moduleReset_wdog (s : State) (cold : Bool) : (s.moduleReset cold false).saf.wdog = s.saf.wdog := by
  have hDown : s.goingDown.saf = s.saf := s.goingDown_keeps (keeps_saf s.saf (by decide)) rfl
  have hRestart : ∀ keep, (s.goingDown.restart keep cold true).saf.wdog = s.saf.wdog := fun keep => by
    rw [(State.restart_saf _ _ _ _).2, hDown]
  unfold State.moduleReset
  dsimp only
  rw [if_neg Bool.false_ne_true]
  split
  · exact (congrArg SafSt.wdog (State.selfHold_keeps (keeps_saf _ (by decide)) rfl)).trans (hRestart _)
  · exact hRestart _

/-- A module reset clears what R411 clears, and its completion is still to be recorded. -/
theorem State.moduleReset_restarted (s : State) (cold : Bool) (h : s.eng.clDrain = []) :
    s.Restarted (s.moduleReset cold false) ∧ (s.moduleReset cold false).boot.byReset = true := by
  have hEng : s.goingDown.eng = s.eng := s.goingDown_keeps (keeps_eng s.eng (by decide)) rfl
  have hUpd : s.goingDown.upd = s.upd := s.goingDown_keeps (keeps_upd s.upd (by decide)) rfl
  have hHost : s.goingDown.host = s.host := s.goingDown_keeps (keeps_host s.host (by decide)) rfl
  have hClk : s.goingDown.clk = s.clk := s.goingDown_keeps (keeps_clock _ s.clk) rfl
  have hRestart : ∀ keep, s.Restarted (s.goingDown.restart keep cold true) := fun keep => by
    have hGone := State.restart_restarted s.goingDown keep cold true (by rw [hEng, h])
    rwa [State.Restarted, hUpd, hHost, hClk] at hGone
  unfold State.moduleReset
  dsimp only
  rw [if_neg Bool.false_ne_true]
  split
  · obtain ⟨x, hx⟩ := State.selfHold_boot (s.goingDown.restart
      (fun off f => f.keptWarm && !(cold && f.untilTrained off)) cold true)
    exact ⟨State.selfHold_restarted (hRestart _), (congrArg BootSt.byReset hx).trans rfl⟩
  · exact ⟨hRestart _, rfl⟩

/-! The last gasp (R435). -/

/-- The registers of a last gasp, before it is sent. -/
def State.gaspShown (s : State) (cause info : Nat) : State :=
  let s1 := s.fset RF.LOG_LG_TIME_TIME s.now
  let s2 := ((s1.fset RF.LOG_LG_CAUSE_CAUSE cause).finc RF.LOG_LG_CAUSE_COUNT 1).fset RF.LOG_LG_CAUSE_VALID 1
  (s2.fset RF.LOG_LG_CAUSE_LASTSEQ (s.fget RF.LOG_STAT_NEXTSEQ + (2 ^ 32 - 1))).fset RF.LOG_LG_INFO_INFO info

theorem State.lastGasp_regs (s : State) (cause info : Nat) :
    (s.lastGasp cause info).regs = (s.gaspShown cause info).regs := by
  unfold State.lastGasp State.gaspShown
  extract_lets s1 s2 s3 s4 body s5
  exact s4.mgmtSend_regs 2 body

theorem State.lastGasp_gaspShown (s : State) (cause info : Nat) (q : FRef) :
    (s.lastGasp cause info).fget q = (s.gaspShown cause info).fget q :=
  State.fget_congr (s.lastGasp_regs cause info) q

theorem State.fget_lastGasp (s : State) (cause info : Nat) (q : FRef)
    (h : q.off ≠ Reg.LOG_LG_TIME ∧ q.off ≠ Reg.LOG_LG_CAUSE ∧ q.off ≠ Reg.LOG_LG_INFO) :
    (s.lastGasp cause info).fget q = s.fget q := by
  obtain ⟨hTime, hCause, hInfo⟩ := h
  rw [State.lastGasp_gaspShown, State.gaspShown, State.fget_fset_ne _ _ _ _ (Or.inl hInfo),
    State.fget_fset_ne _ _ _ _ (Or.inl hCause), State.fget_fset_ne _ _ _ _ (Or.inl hCause), State.finc,
    State.fget_fset_ne _ _ _ _ (Or.inl hCause), State.fget_fset_ne _ _ _ _ (Or.inl hCause),
    State.fget_fset_ne _ _ _ _ (Or.inl hTime)]

/-- A last gasp shows its cause and that it is valid. -/
theorem State.lastGasp_shows (s : State) {cause : Nat} (hc : cause < 256) (info : Nat) :
    (s.lastGasp cause info).fget RF.LOG_LG_CAUSE_CAUSE = cause ∧
      (s.lastGasp cause info).fget RF.LOG_LG_CAUSE_VALID = 1 := by
  rw [State.lastGasp_gaspShown, State.lastGasp_gaspShown, State.gaspShown]
  constructor
  · rw [State.fget_fset_ne _ _ _ _ (by decide), State.fget_fset_ne _ _ _ _ (by decide),
      State.fget_fset_ne _ _ _ _ (by decide), State.finc, State.fget_fset_ne _ _ _ _ (by decide),
      State.fget_fset _ _ _ (by decide)]
    exact Nat.mod_eq_of_lt hc
  · rw [State.fget_fset_ne _ _ _ _ (by decide), State.fget_fset_ne _ _ _ _ (by decide), State.fget_fset _ _ _ (by decide)]
    rfl

/-- A record leaves the last-gasp registers alone. -/
theorem State.fget_aonRec (s : State) (code sev : Nat) (p : Bytes) (q : FRef) (h : logApart q) :
    (s.aonRec code sev p).fget q = s.fget q := State.aonRec_kept _ _ _ _ q h

end Sys2Proof.Machine

/-! The 54 V input, the lever and the sideband outputs (R424, R435, R436, R449, R451, R452, R454). -/

namespace Sys2Proof.Machine

/-! Power input (R449). -/

section
variable (s : State)

/-- A brown-out and an overvoltage turn the rails off alike, unless they are off. -/
theorem exec_inputLost {i : Instr} (hi : i ∈ [Instr.brownOut, .inputOvervoltage]) :
    exec i s = .next (if s.pwr.rails then s.railsOff 0 else s) := by
  simp only [List.mem_cons, List.not_mem_nil, or_false] at hi
  rcases hi with rfl | rfl <;> rfl

theorem State.aonLoss_loses : s.aonLoss.pwr.aon = false ∧ s.aonLoss.pwr.rails = false ∧ s.aonLoss.saf.key = [] ∧
    s.aonLoss.log = {} ∧ (s.pwr.rails = true → ∀ k, s.aonLoss.byte k = 0) := by
  refine ⟨rfl, rfl, rfl, rfl, fun hr k => ?_⟩
  show (if s.pwr.rails then s.railsOff 0 else s).byte k = 0
  rw [if_pos hr, State.railsOff_byte]

/-! The lever (R451). -/

/-- The module with its lever open: where the rails were on, the dies have voted, the ports have said GOING_DOWN, and the
rails are off. -/
def State.leverSafe (s : State) : State :=
  let s0 : State := { s with pwr := { s.pwr with ilock := false } }
  if s.pwr.rails then (((List.range 8).foldl (fun (s : State) d => s.voteFailed d) s0).goingDown).railsOff 0 else s0

/-- The votes and the ports' last word leave the supplies alone. -/
theorem State.voted_pwr (s : State) :
    ((List.range 8).foldl (fun (s : State) d => s.voteFailed d) s).goingDown.pwr = s.pwr :=
  State.goingDown_keeps (keeps_pwr s.pwr (by decide))
    (foldl_keeps (P := fun t => t.pwr = s.pwr) (fun _ _ h => State.voteFailed_keeps (keeps_pwr _ (by decide)) _ h) rfl)

theorem State.leverSafe_off : s.leverSafe.pwr.ilock = false ∧ s.leverSafe.pwr.rails = false ∧
    (s.pwr.rails = true → ∀ k, s.leverSafe.byte k = 0) := by
  unfold State.leverSafe
  dsimp only
  split
  · rw [State.railsOff_pwr, State.voted_pwr]
    exact ⟨rfl, rfl, fun _ => State.railsOff_byte _ 0⟩
  · rename_i hr
    exact ⟨rfl, Bool.eq_false_iff.mpr hr, fun h => absurd h hr⟩

theorem State.leverOpen_opens : s.leverOpen.pwr.ilock = false ∧ s.leverOpen.pwr.down = true ∧
    s.leverOpen.pwr.rails = false ∧ (s.pwr.rails = true → ∀ k, s.leverOpen.byte k = 0) := by
  obtain ⟨hLock, hRails, hMem⟩ := s.leverSafe_off
  exact ⟨hLock, rfl, hRails, hMem⟩

theorem State.powerOn_pwr : s.powerOn.pwr = { s.pwr with aon := true, rails := true, down := false } :=
  State.fset_pwr _ _ _

theorem exec_ilockRestart (h : s.pwr.down = true) : ∃ t, exec .ilockRestart s = .next t ∧ t.pwr.ilock = true ∧
    t.pwr.down = false ∧ t.pwr.rails = if s.saf.cause then s.pwr.rails else true := by
  refine ⟨_, congrArg Host.Outcome.next (if_pos h), ?_⟩
  split
  · exact ⟨rfl, rfl, rfl⟩
  · rw [State.powerOn_pwr]
    exact ⟨rfl, rfl, rfl⟩

/-- A waiting reset runs once the cause has cleared, unless the lever holds the module down (R424, R436). -/
theorem exec_causeCleared (h : s.saf.cause = true) : ∃ t, exec .causeCleared s = .next t ∧ t.saf.cause = false ∧
    t.saf.resetWait = false ∧ t.saf.hot = [] ∧ t.pwr.rails = (s.pwr.rails || s.saf.resetWait && !s.pwr.down) := by
  refine ⟨_, congrArg Host.Outcome.next (if_pos h), ?_⟩
  dsimp only
  split
  · rename_i hWait
    obtain ⟨hWait, hRails, hDown⟩ := hWait
    rw [State.powerOn_pwr, State.powerOn, State.fset_saf, hWait]
    exact ⟨rfl, rfl, rfl, by simpa using Or.inr (by simpa using hDown)⟩
  · rename_i hWait
    refine ⟨rfl, rfl, rfl, ?_⟩
    show s.pwr.rails = _
    cases hr : s.pwr.rails
    · rw [hr] at hWait
      cases hw : s.saf.resetWait
      · rfl
      · simpa [hw] using hWait
    · rfl

end

/-! Sideband outputs (R452, R454). -/

theorem State.pin_setPin (s : State) (k v : Nat) : (s.setPin k v).pin k = v := Tbl.get_set _ _ _ _

theorem State.pin_setPin_ne (s : State) {k j : Nat} (v : Nat) (h : j ≠ k) : (s.setPin k v).pin j = s.pin j :=
  Tbl.get_set_ne _ _ _ _ h

theorem State.fget_setPin (s : State) (k v : Nat) (q : FRef) : (s.setPin k v).fget q = s.fget q := rfl

theorem State.pin_fset (s : State) (r : FRef) (v k : Nat) : (s.fset r v).pin k = s.pin k := by
  rw [State.pin, State.fset_pwr, State.pin]

/-- The counters and the flags of the outputs stand apart in one register. -/
theorem sideband_fields (p : Nat) : (sbCNT p).off = Reg.HIVE_SB ∧ (sbHIZ p).off = Reg.HIVE_SB ∧
    (sbCNT p).lo + (sbCNT p).w ≤ 64 ∧ (sbHIZ p).lo + (sbHIZ p).w ≤ (sbCNT p).lo ∧ (sbHIZ p).w = 1 := by
  unfold sbCNT sbHIZ
  split_ifs <;> decide

/-- The contention of a driving output, counted; the output waits (R454). -/
def State.letGo (s : State) (p n : Nat) : State := ((s.finc (sbCNT p) 1).setPin p n).setPin (p + 8) 1

theorem State.letGo_waits (s : State) {p : Nat} (n : Nat) : (s.letGo p n).pin p = n ∧
    (s.letGo p n).pin (p + 8) = 1 ∧ (s.letGo p n).fget (sbCNT p) = satAdd (sbCNT p).w (s.fget (sbCNT p)) 1 ∧
    (s.letGo p n).fget (sbHIZ p) = s.fget (sbHIZ p) ∧ State.Only [.regs, .pwr] s (s.letGo p n) ∧
    State.RegsBut [Reg.HIVE_SB] s (s.letGo p n) := by
  obtain ⟨hOff, -, hEnd, hLow, -⟩ := sideband_fields p
  have hFields : ∀ q, (s.letGo p n).fget q = (s.finc (sbCNT p) 1).fget q := fun q => by
    rw [State.letGo, State.fget_setPin, State.fget_setPin]
  refine ⟨?_, State.pin_setPin _ _ _, (hFields _).trans (s.fget_finc _ _ hEnd), (hFields _).trans ?_, ?_, ?_⟩
  · rw [State.letGo, State.pin_setPin_ne _ _ (by omega), State.pin_setPin]
  · exact State.fget_fset_ne _ _ _ _ (Or.inr (Or.inl hLow))
  · exact only_of_keeps fun _ K k => State.setPin_keeps (K.mono rfl) _ _
      (State.setPin_keeps (K.mono rfl) _ _ (State.finc_keeps (K.mono rfl) _ _ k))
  · exact ((State.RegsBut.rfl' _ s).finc (by rw [hOff]; exact List.mem_cons_self)).of_eq rfl

theorem exec_sidebandContention (s : State) (pin : Fin 3) (h : s.drives pin = true) :
    ∃ t n, exec (.sidebandContention pin) s = .next t ∧
    n = (if s.pin (pin + 16 : Nat) ≠ 0 ∧ s.clk < s.pin (pin + 16 : Nat) + 10000 then s.pin pin + 1 else 1) ∧
    t.pin pin = n ∧ t.pin (pin + 8 : Nat) = 1 ∧ t.fget (sbCNT pin) = satAdd (sbCNT pin).w (s.fget (sbCNT pin)) 1 ∧
    (pin.val ≠ 0 → t.fget (sbHIZ pin) = if 3 ≤ n then 1 else s.fget (sbHIZ pin)) ∧
    State.Only [.regs, .pwr] s t ∧ State.RegsBut [Reg.HIVE_SB] s t := by
  generalize hn : (if s.pin (pin + 16 : Nat) ≠ 0 ∧ s.clk < s.pin (pin + 16 : Nat) + 10000 then s.pin pin + 1 else 1) = n
  obtain ⟨hPin, hWait, hCount, hFree, hOnly, hRegs⟩ := s.letGo_waits (p := pin) n
  obtain ⟨hOff, hOff', hEnd, hLow, hOne⟩ := sideband_fields pin
  have hExec : exec (.sidebandContention pin) s = .next (if pin.val ≠ 0 ∧ 3 ≤ n then (s.letGo pin n).fset (sbHIZ pin) 1
      else s.letGo pin n) := by
    show execSidebandContention pin s = _
    unfold execSidebandContention
    simp only [decide_eq_true_eq, hn, if_pos h, State.letGo]
  refine ⟨_, n, hExec, rfl, ?_⟩
  split
  · rename_i hThird
    obtain ⟨hp, h3⟩ := hThird
    refine ⟨(State.pin_fset _ _ _ _).trans hPin, (State.pin_fset _ _ _ _).trans hWait, ?_, fun _ => ?_, ?_,
      hRegs.fset (by rw [hOff']; exact List.mem_cons_self)⟩
    · rw [State.fget_fset_ne _ _ _ _ (Or.inr (Or.inr hLow)), hCount]
    · rw [State.fget_fset _ _ _ (by omega), hOne, if_pos h3]
      rfl
    · exact hOnly.trans (only_of_keeps fun _ K k => State.fset_keeps (K.mono rfl) _ _ k)
  · rename_i hThird
    refine ⟨hPin, hWait, hCount, fun hp => ?_, hOnly, hRegs⟩
    rw [hFree, if_neg fun h3 => hThird ⟨hp, h3⟩]

theorem exec_sidebandRetry (s : State) (pin : Fin 3) (h : s.pin (pin + 8 : Nat) = 1)
    (hFree : pin.val = 0 ∨ s.fget (sbHIZ pin) = 0) : ∃ t, exec (.sidebandRetry pin) s = .next t ∧
      t.pin (pin + 8 : Nat) = 0 ∧ t.pin (pin + 16 : Nat) = s.clk + 1 ∧ State.Only [.pwr] s t := by
  refine ⟨_, congrArg Host.Outcome.next (if_pos ⟨h, hFree⟩), ?_, State.pin_setPin _ _ _, ?_⟩
  · rw [State.pin_setPin_ne _ _ (by omega), State.pin_setPin]
  · exact only_of_keeps fun _ K k => State.setPin_keeps K _ _ (State.setPin_keeps K _ _ k)

end Sys2Proof.Machine

/-! Heat, power, and what they do to the CORE clocks (R20, R35, R425, R490). -/

namespace Sys2Proof.Machine

/-- A fold that treats one key at a time: each key of the list changes by `R`, every other stays. -/
theorem foldl_keyed {α β : Type} {key : α → Nat} {get : State → Nat → β} {f : State → α → State} {R : α → β → β → Prop}
    (hOwn : ∀ s a, R a (get s (key a)) (get (f s a) (key a)))
    (hOther : ∀ s a k, k ≠ key a → get (f s a) k = get s k) {l : List α} (hl : (l.map key).Nodup) (s : State) :
    (∀ a ∈ l, R a (get s (key a)) (get (l.foldl f s) (key a))) ∧
      ∀ k, k ∉ l.map key → get (l.foldl f s) k = get s k := by
  induction l generalizing s with
  | nil => exact ⟨fun a ha => absurd ha List.not_mem_nil, fun _ _ => rfl⟩
  | cons d l ih =>
    rw [List.map_cons] at hl ⊢
    obtain ⟨hd, hl⟩ := List.nodup_cons.mp hl
    obtain ⟨hIn, hOut⟩ := ih hl (f s d)
    rw [List.foldl_cons]
    refine ⟨fun a ha => ?_, fun k hk => ?_⟩
    · rcases List.mem_cons.mp ha with rfl | ha
      · rw [hOut _ hd]
        exact hOwn s a
      · rw [← hOther s d _ fun e => hd (e ▸ List.mem_map_of_mem ha)]
        exact hIn a ha
    · obtain ⟨hkd, hkl⟩ := not_or.mp (mt List.mem_cons.mpr hk)
      rw [hOut k hkl, hOther s d k hkd]

/-- The same for a list of keys. -/
theorem foldl_pointwise {β : Type} {get : State → Nat → β} {f : State → Nat → State} {R : β → β → Prop}
    (hOwn : ∀ s d, R (get s d) (get (f s d) d)) (hOther : ∀ s d k, k ≠ d → get (f s d) k = get s k) {l : List Nat}
    (hl : l.Nodup) (s : State) : (∀ k ∈ l, R (get s k) (get (l.foldl f s) k)) ∧
      ∀ k, k ∉ l → get (l.foldl f s) k = get s k := by
  have h := foldl_keyed (key := id) (R := fun _ => R) hOwn hOther (l := l) (by rwa [List.map_id]) s
  rwa [List.map_id] at h

/-! Safety states (R424). -/

/-- Fields that neither a record nor a change of the safety state touches. -/
def calmApart (q : FRef) : Prop := logApart q ∧ q.apart RF.LOG_STAT_SSTATE

theorem calmApart.log {q : FRef} (h : calmApart q) : logApart q := h.1

theorem combClk_calm {q : FRef} {d : Nat} (h : q.off = Reg.COMB_CLK d) : calmApart q := by
  have hOff : q.off ≠ Reg.LOG_STAT ∧ q.off ≠ Reg.LOG_RDSEQ ∧ q.off ≠ Reg.LOG_MIRSEQ ∧ q.off ≠ Reg.HIVE_ISUM := by
    rw [h]
    simp only [Reg.COMB_CLK, Reg.LOG_STAT, Reg.LOG_RDSEQ, Reg.LOG_MIRSEQ, Reg.HIVE_ISUM]
    omega
  exact ⟨logApart_of_ne hOff, Or.inl hOff.1⟩

theorem safPwr_calm {q : FRef} (h : q.off = Reg.SAF_PWR) : calmApart q := by
  have hOff : q.off ≠ Reg.LOG_STAT ∧ q.off ≠ Reg.LOG_RDSEQ ∧ q.off ≠ Reg.LOG_MIRSEQ ∧ q.off ≠ Reg.HIVE_ISUM := by
    rw [h]
    decide
  exact ⟨logApart_of_ne hOff, Or.inl hOff.1⟩

theorem sstate_log : logApart RF.LOG_STAT_SSTATE := by
  unfold logApart FRef.apart
  decide

theorem State.setSState_shows (s : State) {v : Nat} (hv : v < 4) : (s.setSState v).fget RF.LOG_STAT_SSTATE = v := by
  unfold State.setSState
  split
  · assumption
  · rw [State.fget_isum _ _ _ (by decide), State.fget_fset _ _ _ (by decide)]
    exact Nat.mod_eq_of_lt hv

theorem State.setSState_kept (s : State) (v : Nat) : FieldsKept calmApart s (s.setSState v) := by
  unfold State.setSState
  refine .ite (.refl _ _) (.trans ?_ ((State.isum_kept _ 2).mono fun q hq => hq.1.2.2.2.2))
  exact (FieldsKept.fset s _ v).mono fun q hq => hq.2

theorem State.reevalOne_kept (s : State) (u : Setup) : FieldsKept logApart s (s.reevalOne u) := by
  unfold State.reevalOne
  exact .ite (.refl _ _) (.trans (.of_eq rfl) (State.hiveRec_kept _ _ _ _ _))

/-- A re-evaluation of the set-ups changes fields only by its records. -/
theorem State.reevaluate_kept (s : State) : FieldsKept logApart s s.reevaluate :=
  foldl_keeps (P := FieldsKept logApart s) (fun _ u h => h.trans (State.reevalOne_kept _ u)) (.refl _ s)

theorem State.reevaluate_none {s : State} (h : s.host.setups = []) : s.reevaluate = s := by
  rw [State.reevaluate, h, List.foldl_nil]

/-- The safety state after the module has met a cause to throttle. -/
theorem State.throttled_sstate (s : State) :
    s.throttled.1.fget RF.LOG_STAT_SSTATE = max 1 (s.fget RF.LOG_STAT_SSTATE) := by
  unfold State.throttled
  split
  · rename_i h
    rw [State.reevaluate_kept _ _ sstate_log, State.setSState_shows _ (by decide), h]
    rfl
  · rw [State.reevaluate_kept _ _ sstate_log]
    omega

theorem State.throttled_kept (s : State) : FieldsKept calmApart s s.throttled.1 := by
  unfold State.throttled
  split
  · exact (s.setSState_kept 1).trans ((State.reevaluate_kept _).mono fun _ => calmApart.log)
  · exact (State.reevaluate_kept _).mono fun _ => calmApart.log

theorem State.tjRec_kept (s : State) (unit : Nat) (body : Bytes) : FieldsKept logApart s (s.tjRec unit body) := by
  unfold State.tjRec
  exact .ite (.of_eq (State.dieRec_regs _ _ _ _ _ _)) (State.hiveRec_kept _ _ _ _ _)

/-! CORE clocks (R425). -/

theorem State.coreMhz_fset (s : State) (d v : Nat) (hv : v < 4096) : (s.fset (RF.COMB_CLK_CORE_MHZ d) v).coreMhz d = v :=
  (State.fget_fset _ _ _ (by simp [RF.COMB_CLK_CORE_MHZ])).trans (Nat.mod_eq_of_lt hv)

theorem State.coreMhz_lt (s : State) (d : Nat) : s.coreMhz d < 4096 := s.fget_lt (RF.COMB_CLK_CORE_MHZ d)

/-- One step down, unless the clock stands. -/
theorem State.slower_coreMhz (s : State) (d : Nat) :
    (s.slower d).coreMhz d = if s.coreMhz d ≠ 0 then max 520 (s.coreMhz d - 100) else s.coreMhz d := by
  unfold State.slower
  by_cases h : s.coreMhz d = 0
  · rw [if_pos h, if_neg (by simpa using h)]
  · have := s.coreMhz_lt d
    rw [if_neg h, if_pos h, State.coreMhz_fset _ _ _ (by simp only [coreFloor, coreStep]; omega)]
    rfl

theorem State.slower_kept (s : State) (d : Nat) : FieldsKept (fun q => q.apart (RF.COMB_CLK_CORE_MHZ d)) s (s.slower d) :=
  .ite (.refl _ _) (.fset _ _ _)

theorem coreMhz_apart {d k : Nat} (h : k ≠ d) : (RF.COMB_CLK_CORE_MHZ k).apart (RF.COMB_CLK_CORE_MHZ d) := by
  refine Or.inl ?_
  simp only [RF.COMB_CLK_CORE_MHZ, Reg.COMB_CLK]
  omega

theorem sstate_core (d : Nat) : RF.LOG_STAT_SSTATE.apart (RF.COMB_CLK_CORE_MHZ d) := by
  refine Or.inl ?_
  simp only [RF.COMB_CLK_CORE_MHZ, Reg.COMB_CLK, RF.LOG_STAT_SSTATE, Reg.LOG_STAT]
  omega

theorem tjDies_nodup (u : Nat) : (tjDies u).Nodup := by
  unfold tjDies
  split
  · exact List.nodup_range
  · exact List.nodup_singleton u

/-- A hot pair's dies go down one step, every other die keeps its clock. -/
theorem State.slowerFold_coreMhz (s : State) {l : List Nat} (hl : l.Nodup) (k : Nat) :
    (l.foldl (fun (s : State) d => s.slower d) s).coreMhz k =
      if k ∈ l ∧ s.coreMhz k ≠ 0 then max 520 (s.coreMhz k - 100) else s.coreMhz k := by
  obtain ⟨hIn, hOut⟩ := foldl_pointwise (get := State.coreMhz) (f := fun s d => s.slower d)
    (R := fun x y => y = if x ≠ 0 then max 520 (x - 100) else x) State.slower_coreMhz
    (fun s d k h => s.slower_kept d _ (coreMhz_apart h)) hl s
  by_cases hk : k ∈ l
  · rw [hIn k hk]
    simp only [hk, true_and]
  · rw [hOut k hk, if_neg fun h => hk h.1]

theorem State.slowerFold_sstate (s : State) (l : List Nat) :
    (l.foldl (fun (s : State) d => s.slower d) s).fget RF.LOG_STAT_SSTATE = s.fget RF.LOG_STAT_SSTATE :=
  foldl_keeps (P := fun t => t.fget RF.LOG_STAT_SSTATE = s.fget RF.LOG_STAT_SSTATE)
    (fun t d h => (t.slower_kept d _ (sstate_core d)).trans h) rfl

/-- Fields that do not show a temperature. -/
def notTemperature (q : FRef) : Prop := (∀ d, q.apart (RF.COMB_CLK_TJ d)) ∧ q.apart RF.SAF_TJ_TJ_MAX

/-- What the readings show leaves every other field alone. -/
theorem State.tjShow_kept (s : State) (u temp : Nat) : FieldsKept notTemperature s (s.tjShow u temp) := by
  have hMax : ∀ (t : State) v, FieldsKept notTemperature t (t.fset RF.SAF_TJ_TJ_MAX v) := fun t v =>
    (FieldsKept.fset t _ v).mono fun _ => And.right
  unfold State.tjShow
  dsimp only
  split
  · exact ((FieldsKept.fset s _ _).mono fun _ hq => hq.1 u).trans (hMax _ _)
  · exact hMax _ _

theorem State.tjShow_coreMhz (s : State) (u temp k : Nat) : (s.tjShow u temp).coreMhz k = s.coreMhz k := by
  refine State.tjShow_kept _ _ _ _ ⟨fun d => Or.inr (Or.inl (by simp [RF.COMB_CLK_CORE_MHZ, RF.COMB_CLK_TJ])), Or.inl ?_⟩
  simp only [RF.COMB_CLK_CORE_MHZ, Reg.COMB_CLK, RF.SAF_TJ_TJ_MAX, Reg.SAF_TJ]
  omega

theorem State.tjShow_sstate (s : State) (u temp : Nat) :
    (s.tjShow u temp).fget RF.LOG_STAT_SSTATE = s.fget RF.LOG_STAT_SSTATE := by
  refine State.tjShow_kept _ _ _ _ ⟨fun d => Or.inl ?_, Or.inl (by decide)⟩
  simp only [RF.COMB_CLK_TJ, Reg.COMB_CLK, RF.LOG_STAT_SSTATE, Reg.LOG_STAT]
  omega

/-- A hot pair of sensors: its reading is kept and shown, its dies are one step slower. -/
def State.tjLowered (s : State) (unit pair temp : Nat) : State :=
  let s0 : State := { s with saf := { s.saf with hot := s.saf.hot.put (unit * 32 + pair) temp } }
  (tjDies unit).foldl (fun (s : State) d => s.slower d) (s0.tjShow unit temp)

section
variable (s : State) (unit pair temp : Nat)

theorem State.tjLowered_saf :
    (s.tjLowered unit pair temp).saf = { s.saf with hot := s.saf.hot.put (unit * 32 + pair) temp } :=
  foldl_keeps (P := fun t => t.saf = { s.saf with hot := s.saf.hot.put (unit * 32 + pair) temp })
    (fun _ _ h => State.slower_keeps (keeps_saf _ (by decide)) _ h)
    (State.tjShow_keeps (keeps_saf _ (by decide)) _ _ rfl)

theorem State.tjLowered_coreMhz (k : Nat) : (s.tjLowered unit pair temp).coreMhz k =
    if k ∈ tjDies unit ∧ s.coreMhz k ≠ 0 then max 520 (s.coreMhz k - 100) else s.coreMhz k := by
  rw [State.tjLowered, State.slowerFold_coreMhz _ (tjDies_nodup unit), State.tjShow_coreMhz]
  rfl

theorem State.tjLowered_sstate :
    (s.tjLowered unit pair temp).fget RF.LOG_STAT_SSTATE = s.fget RF.LOG_STAT_SSTATE := by
  rw [State.tjLowered, State.slowerFold_sstate, State.tjShow_sstate]
  rfl

variable {s unit pair temp}

/-- A pair above TJ_THROT: the module throttles, and at most a record is added. -/
theorem State.tjThrottle_hot (hr : s.pwr.rails = true) (ht : 10 * s.fget RF.SAF_TJ_TJ_THROT < temp) :
    FieldsKept logApart (s.tjLowered unit pair temp).throttled.1 (s.tjThrottle unit pair temp) ∧
      (s.tjThrottle unit pair temp).saf = (s.tjLowered unit pair temp).saf := by
  unfold State.tjThrottle
  dsimp only
  rw [if_neg (by rw [hr]; simpa using ht)]
  have hSaf : (s.tjLowered unit pair temp).throttled.1.saf = (s.tjLowered unit pair temp).saf :=
    State.throttled_keeps (keeps_saf _ (by decide)) rfl
  split
  · exact ⟨State.tjRec_kept _ _ _, State.tjRec_keeps (keeps_saf _ (by decide)) _ _ hSaf⟩
  · exact ⟨.refl _ _, hSaf⟩

end

theorem exec_tjThrottle_hot {s : State} (u : FnId) (pair : Fin 24) (x : BitVec 16) (hr : s.pwr.rails = true)
    (hx : 10 * s.fget RF.SAF_TJ_TJ_THROT < x.toNat) : ∃ t, exec (.tjThrottle u pair x) s = .next t ∧
      t.saf.hot.get 0 (u.val * 32 + pair.val) = x.toNat ∧
      t.fget RF.LOG_STAT_SSTATE = max 1 (s.fget RF.LOG_STAT_SSTATE) ∧
      ∀ d < 8, t.coreMhz d = if d ∈ tjDies u ∧ s.coreMhz d ≠ 0 then max 520 (s.coreMhz d - 100) else s.coreMhz d := by
  obtain ⟨hKept, hSaf⟩ := State.tjThrottle_hot (unit := u) (pair := pair) hr hx
  refine ⟨_, rfl, ?_, ?_, fun d _ => ?_⟩
  · rw [hSaf, State.tjLowered_saf, Tbl.get_put]
  · rw [hKept _ sstate_log, State.throttled_sstate, State.tjLowered_sstate]
  · have hClk := combClk_calm (q := RF.COMB_CLK_CORE_MHZ d) rfl
    rw [State.coreMhz, hKept _ hClk.log, State.throttled_kept _ _ hClk, ← State.coreMhz, State.tjLowered_coreMhz]

theorem exec_tjThrottle_cool {s : State} (u : FnId) (pair : Fin 24) (x : BitVec 16)
    (h : s.pwr.rails = false ∨ x.toNat ≤ 10 * s.fget RF.SAF_TJ_TJ_THROT) : exec (.tjThrottle u pair x) s = .next s := by
  show Host.Outcome.next (s.tjThrottle u.val pair.val x.toNat) = _
  rw [State.tjThrottle, if_pos (by simpa using h)]

/-- A die held at the floor (R425). -/
def State.floored (s : State) (d : Nat) : State :=
  (s.fset (RF.COMB_CLK_FLOOR d) 1).fset (RF.COMB_CLK_CORE_MHZ d) coreFloor

theorem State.floored_own (s : State) (d : Nat) :
    ((s.floored d).coreMhz d, (s.floored d).fget (RF.COMB_CLK_FLOOR d)) = (520, 1) := by
  refine Prod.ext (State.coreMhz_fset _ d _ (by decide)) ?_
  show ((s.fset _ 1).fset _ coreFloor).fget (RF.COMB_CLK_FLOOR d) = 1
  rw [State.fget_fset_ne _ _ _ _ (by simp [RF.COMB_CLK_FLOOR, RF.COMB_CLK_CORE_MHZ]),
    State.fget_fset _ _ _ (by simp [RF.COMB_CLK_FLOOR])]
  rfl

theorem State.floored_kept (s : State) {d : Nat} {q : FRef} (h : q.off ≠ Reg.COMB_CLK d) :
    (s.floored d).fget q = s.fget q := by
  rw [State.floored, State.fget_fset_ne _ _ _ _ (Or.inl h), State.fget_fset_ne _ _ _ _ (Or.inl h)]

theorem combClk_ne {d k : Nat} (h : k ≠ d) : Reg.COMB_CLK k ≠ Reg.COMB_CLK d := by
  simp only [Reg.COMB_CLK]
  omega

/-- A sensor pair that disagrees holds its dies at the floor. -/
theorem exec_sensorDisagreement {s : State} (u : FnId) (pair : Fin 24) (x : BitVec 16) (hr : s.pwr.rails = true) :
    ∃ t, exec (.sensorDisagreement u pair x) s = .next t ∧
      t.fget RF.LOG_STAT_SSTATE = max 1 (s.fget RF.LOG_STAT_SSTATE) ∧
      ∀ d ∈ tjDies u, t.coreMhz d = 520 ∧ t.fget (RF.COMB_CLK_FLOOR d) = 1 := by
  generalize hf : (tjDies u).foldl (fun (s : State) d => s.floored d) s = f
  have hSState : f.fget RF.LOG_STAT_SSTATE = s.fget RF.LOG_STAT_SSTATE := hf ▸
    foldl_keeps (P := fun t => t.fget RF.LOG_STAT_SSTATE = s.fget RF.LOG_STAT_SSTATE) (fun t d h =>
      (t.floored_kept (by simp only [RF.LOG_STAT_SSTATE, Reg.LOG_STAT, Reg.COMB_CLK]; omega)).trans h) rfl
  have hFloor : ∀ d ∈ tjDies u, (f.coreMhz d, f.fget (RF.COMB_CLK_FLOOR d)) = (520, 1) := fun d hd => hf ▸
    (foldl_pointwise (get := fun s d => (s.coreMhz d, s.fget (RF.COMB_CLK_FLOOR d))) (f := fun s d => s.floored d)
      (R := fun _ y => y = (520, 1)) State.floored_own (fun s d k h => Prod.ext (s.floored_kept (combClk_ne h))
        (s.floored_kept (combClk_ne h))) (tjDies_nodup u) s).1 d hd
  have hExec : exec (.sensorDisagreement u pair x) s = .next (f.throttled.1.tjRec u.val (safPay pair.val
      (if u.val < 8 then u.val else 0xFF) 1 x.toNat (10 * s.fget RF.SAF_TJ_TJ_THROT) coreFloor)) := by
    show execSensorDisagreement u pair x s = _
    unfold execSensorDisagreement
    dsimp only
    rw [if_neg (by rw [hr]; decide), ← hf]
    rfl
  refine ⟨_, hExec, ?_, fun d hd => ?_⟩
  · rw [State.tjRec_kept _ _ _ _ sstate_log, State.throttled_sstate, hSState]
  · obtain ⟨hMhz, hFlag⟩ := Prod.mk.inj (hFloor d hd)
    have hCore := combClk_calm (q := RF.COMB_CLK_CORE_MHZ d) rfl
    have hFlagCalm := combClk_calm (q := RF.COMB_CLK_FLOOR d) rfl
    rw [State.coreMhz, State.tjRec_kept _ _ _ _ hCore.log, State.throttled_kept _ _ hCore,
      State.tjRec_kept _ _ _ _ hFlagCalm.log, State.throttled_kept _ _ hFlagCalm]
    exact ⟨hMhz, hFlag⟩

end Sys2Proof.Machine

/-! Throttle steps, SAFE_OFF, the power limit and the watchdog (R20, R424 to R428, R490). -/

namespace Sys2Proof.Machine

/-! Throttle steps (R425). -/

theorem State.slower_regsBut (s : State) (d : Nat) :
    State.Only [.regs] s (s.slower d) ∧ State.RegsBut [Reg.COMB_CLK d] s (s.slower d) := by
  refine ⟨only_of_keeps fun _ K k => State.slower_keeps (K.mono rfl) _ k, ?_⟩
  unfold State.slower
  split
  · exact .rfl' _ s
  · exact (State.RegsBut.rfl' _ s).fset List.mem_cons_self

theorem exec_throttleStep_idle {s : State} {d : DieId} {hot : Bool}
    (h : s.coreMhz d = 0 ∨ hot = true ∧ s.dieHot d = false) : exec (.throttleStep d hot) s = .next s := by
  show execThrottleStep d hot s = _
  unfold execThrottleStep
  rcases h with h | ⟨rfl, h⟩
  · simp only [if_pos h]
  · simp only [h, if_true, Bool.false_eq_true, if_false, ite_self]

theorem exec_throttleStep_hot {s : State} {d : DieId} (hc : s.coreMhz d ≠ 0) (h : s.dieHot d = true) :
    ∃ t, exec (.throttleStep d true) s = .next t ∧ t.coreMhz d = max 520 (s.coreMhz d - 100) ∧
      (s.host.setups = [] → State.Only [.regs] s t ∧ State.RegsBut [Reg.COMB_CLK d] s t) := by
  have hExec : exec (.throttleStep d true) s = .next (s.slower d).reevaluate := by
    show execThrottleStep d true s = _
    unfold execThrottleStep
    simp only [if_neg hc, if_true, h]
  refine ⟨_, hExec, ?_, fun hNone => ?_⟩
  · rw [State.coreMhz, State.reevaluate_kept _ _ (combClk_calm rfl).log, ← State.coreMhz, State.slower_coreMhz, if_pos hc]
  · have hHost : (s.slower d).host = s.host := State.slower_keeps (keeps_host _ (by decide)) _ rfl
    rw [State.reevaluate_none (by rw [hHost, hNone])]
    exact s.slower_regsBut d

/-- NORMAL is entered by the power and safety state's fields only. -/
theorem State.tryNormal_kept (s : State) :
    FieldsKept (fun q => calmApart q ∧ q.apart RF.SAF_PWR_LIMITING) s s.tryNormal := by
  have hOff : FieldsKept (fun q => calmApart q ∧ q.apart RF.SAF_PWR_LIMITING) s (s.fset RF.SAF_PWR_LIMITING 0) :=
    (FieldsKept.fset s _ _).mono fun _ => And.right
  unfold State.tryNormal
  dsimp only
  split_ifs
  · exact hOff.trans ((State.setSState_kept _ 0).mono fun _ => And.left)
  · exact hOff
  · exact .refl _ s

theorem State.tryNormal_coreMhz (s : State) (d : Nat) : s.tryNormal.coreMhz d = s.coreMhz d := by
  refine s.tryNormal_kept _ ⟨combClk_calm rfl, Or.inl ?_⟩
  simp only [RF.COMB_CLK_CORE_MHZ, Reg.COMB_CLK, RF.SAF_PWR_LIMITING, Reg.SAF_PWR]
  omega

/-- The module without the hot readings of a die and of the hive. -/
def State.cooled (s : State) (d : Nat) : State :=
  { s with saf := { s.saf with hot := s.saf.hot.filter fun e => !decide (e.1 / 32 = d ∨ e.1 / 32 = 8) } }

theorem State.cooled_dieHot (s : State) (d : Nat) : (s.cooled d).dieHot d = false := by
  refine List.any_eq_false.mpr fun e he => ?_
  simpa using (List.mem_filter.mp he).2

theorem State.dieHot_congr {s t : State} (h : t.saf = s.saf) (d : Nat) : t.dieHot d = s.dieHot d := by
  rw [State.dieHot, h, State.dieHot]

theorem exec_throttleStep_cool {s : State} {d : DieId} (hc : s.coreMhz d ≠ 0) :
    ∃ t, exec (.throttleStep d false) s = .next t ∧ t.dieHot d = false ∧
      t.coreMhz d = if s.fget (RF.COMB_CLK_FLOOR d) = 1 then s.coreMhz d else min 1600 (s.coreMhz d + 100) := by
  have hExec : exec (.throttleStep d false) s = .next (if s.fget (RF.COMB_CLK_FLOOR d) = 1 then s.cooled d
      else ((s.cooled d).fset (RF.COMB_CLK_CORE_MHZ d) (min 1600 (s.coreMhz d + 100))).tryNormal) := by
    show execThrottleStep d false s = _
    unfold execThrottleStep
    dsimp only
    rw [if_neg hc]
    rfl
  refine ⟨_, hExec, ?_⟩
  split
  · exact ⟨s.cooled_dieHot d, rfl⟩
  · constructor
    · refine (State.dieHot_congr ?_ d).trans (s.cooled_dieHot d)
      exact State.tryNormal_keeps (keeps_saf _ (by decide)) (State.fset_saf _ _ _)
    · rw [State.tryNormal_coreMhz, State.coreMhz_fset _ _ _ (by omega)]

/-! SAFE_OFF (R424 to R427). -/

/-- SAFE_OFF turns the rails off and shows its cause. -/
theorem State.safeOff_entered (s : State) {cause : Nat} (hc : cause < 256) (body : Bytes) :
    (s.safeOff cause body).SafeOff cause := by
  obtain ⟨hPwr, hSState, hByte⟩ : ((s.setSState 2).railsOff 2).pwr.rails = false ∧
      ((s.setSState 2).railsOff 2).fget RF.LOG_STAT_SSTATE = 2 ∧ ∀ k, ((s.setSState 2).railsOff 2).byte k = 0 :=
    ⟨by rw [State.railsOff_pwr], State.railsOff_sstate _ _ (by decide), State.railsOff_byte _ _⟩
  unfold State.safeOff
  generalize (s.setSState 2).railsOff 2 = off at hPwr hSState hByte
  obtain ⟨hCause, hValid⟩ := ({ off with saf := { off.saf with cause := true } } : State).lastGasp_shows hc (leAt body 0 8)
  refine ⟨?_, ?_, ?_, hCause, hValid, fun k => ?_⟩
  · rw [State.lastGasp_pwr]
    exact hPwr
  · rw [State.fget_lastGasp _ _ _ _ (by decide)]
    exact hSState
  · rw [State.lastGasp_saf]
  · rw [State.byte, State.lastGasp_mem]
    exact hByte k

/-- A condition that shuts the module down: the instruction that reports it, and the cause of SAFE_OFF. -/
def State.shutsDown (s : State) (i : Instr) (cause : Nat) : Prop :=
  (∃ (u : FnId) (pair : Fin 24) (x : BitVec 16), i = .tjShutdown u pair x ∧ cause = 4 ∧
      10 * s.fget RF.SAF_TJ_TJ_SHUT < x.toNat) ∨
    (∃ (r : Fin 20) (x : BitVec 16), i = .railOvercurrent r x ∧ cause = 5 ∧ railWatched r = true ∧
      railRated.getD r 0 * s.fget RF.SAF_OC_PCT / 10 ≤ x.toNat) ∨
    (∃ x : BitVec 16, i = .inputOvercurrent x ∧ cause = 5 ∧ 1100 < x.toNat) ∨
    (∃ x : BitVec 16, i = .coolantLoss true x ∧ cause = 6 ∧ 10 * s.fget RF.SAF_COOL_OUTLET ≤ x.toNat) ∨
    (∃ x : BitVec 16, i = .coolantLoss false x ∧ cause = 6 ∧ s.fget RF.SAF_COOL_RATE ≤ x.toNat)

/-- A shutdown condition enters SAFE_OFF from some state of the running module. -/
theorem exec_shutsDown {s : State} {i : Instr} {cause : Nat} (h : s.shutsDown i cause) :
    cause < 256 ∧ ∃ t body, exec i s = .next (if s.pwr.rails then State.safeOff t cause body else s) := by
  have hIf : ∀ {p : Prop} [Decidable p] (a : State), ¬p →
      (if (!s.pwr.rails) = true ∨ p then s else a) = if s.pwr.rails then a else s := fun a hp => by
    cases s.pwr.rails <;> simp [hp]
  rcases h with ⟨u, pair, x, rfl, rfl, hx⟩ | ⟨r, x, rfl, rfl, hw, hx⟩ | ⟨x, rfl, rfl, hx⟩ | ⟨x, rfl, rfl, hx⟩ |
    ⟨x, rfl, rfl, hx⟩
  · exact ⟨by decide, _, _, congrArg Host.Outcome.next (hIf _ (Nat.not_le.mpr hx))⟩
  · exact ⟨by decide, _, _, congrArg Host.Outcome.next (hIf _ (not_or.mpr ⟨by simp [hw], Nat.not_lt.mpr hx⟩))⟩
  · exact ⟨by decide, _, _, congrArg Host.Outcome.next (hIf _ (Nat.not_le.mpr hx))⟩
  · exact ⟨by decide, _, _, congrArg Host.Outcome.next (hIf _ (Nat.not_lt.mpr hx))⟩
  · exact ⟨by decide, _, _, congrArg Host.Outcome.next (hIf _ (Nat.not_lt.mpr hx))⟩

/-! The power limit (R20, R490). -/

theorem State.throttled_coreMhz (s : State) (d : Nat) : s.throttled.1.coreMhz d = s.coreMhz d :=
  s.throttled_kept _ (combClk_calm rfl)

theorem State.slowerFree_kept (s : State) (d : Nat) :
    FieldsKept (fun q => q.apart (RF.COMB_CLK_CORE_MHZ d)) s (s.slowerFree d) := by
  unfold State.slowerFree
  dsimp only
  split
  · exact .refl _ s
  · exact FieldsKept.fset s.drawn _ _

/-- A die above the floor goes below its clock, not below the floor; another keeps its clock. -/
def lowered (x y : Nat) : Prop := if x ≤ 520 then y = x else 520 ≤ y ∧ y < x

theorem State.slowerFree_lowered (s : State) (d : Nat) : lowered (s.coreMhz d) ((s.slowerFree d).coreMhz d) := by
  have hFloor : coreFloor = 520 := rfl
  unfold lowered
  rw [← hFloor]
  by_cases h : s.coreMhz d ≤ coreFloor
  · rw [State.slowerFree, if_pos h, if_pos h]
  · have hLt := Nat.mod_lt s.freshVal.toNat (Nat.sub_pos_of_lt (Nat.lt_of_not_le h))
    have hMax := s.coreMhz_lt d
    rw [State.slowerFree, if_neg h, if_neg h, State.coreMhz_fset _ _ _ (by omega)]
    omega

/-- Every die lowered to hold the power limit. -/
def State.allLowered (s : State) : State := (List.range 8).foldl (fun (s : State) d => s.slowerFree d) s

theorem State.allLowered_kept (s : State) {q : FRef} (h : ∀ d, q.off ≠ Reg.COMB_CLK d) :
    s.allLowered.fget q = s.fget q :=
  foldl_keeps (P := fun t => t.fget q = s.fget q) (fun t d k => (t.slowerFree_kept d q (Or.inl (h d))).trans k) rfl

theorem State.allLowered_lowered (s : State) {d : Nat} (hd : d < 8) : lowered (s.coreMhz d) (s.allLowered.coreMhz d) :=
  (foldl_pointwise (get := State.coreMhz) (f := fun s d => s.slowerFree d) State.slowerFree_lowered
    (fun s d _ h => s.slowerFree_kept d _ (coreMhz_apart h)) List.nodup_range s).1 d (List.mem_range.mpr hd)

theorem safPwr_ne_combClk (d : Nat) : Reg.SAF_PWR ≠ Reg.COMB_CLK d := by
  simp only [Reg.SAF_PWR, Reg.COMB_CLK]
  omega

theorem logStat_ne_combClk (d : Nat) : Reg.LOG_STAT ≠ Reg.COMB_CLK d := by
  simp only [Reg.LOG_STAT, Reg.COMB_CLK]
  omega

theorem State.coreMhz_fset_safPwr (s : State) (d v : Nat) {r : FRef} (hr : r.off = Reg.SAF_PWR) :
    (s.fset r v).coreMhz d = s.coreMhz d :=
  State.fget_fset_ne _ _ _ _ (Or.inl (by rw [hr]; exact (safPwr_ne_combClk d).symm))

/-- Above the limit the module shows the average and that it limits, throttles, and lowers every die (R20, R490). -/
theorem exec_powerLimitExceeded {s : State} {x : BitVec 12} (hr : s.pwr.rails = true)
    (hx : s.fget RF.SAF_PWR_LIMIT < x.toNat) : ∃ t, exec (.powerLimitExceeded x) s = .next t ∧
      t.fget RF.SAF_PWR_AVG = x.toNat ∧ t.fget RF.SAF_PWR_LIMITING = 1 ∧
      t.fget RF.LOG_STAT_SSTATE = max 1 (s.fget RF.LOG_STAT_SSTATE) ∧
      ∀ d < 8, lowered (s.coreMhz d) (t.coreMhz d) := by
  have hExec : exec (.powerLimitExceeded x) s =
      .next ((s.fset RF.SAF_PWR_AVG x.toNat).fset RF.SAF_PWR_LIMITING 1).allLowered.throttled.1 :=
    congrArg Host.Outcome.next (if_neg (by rw [hr]; simpa using hx))
  refine ⟨_, hExec, ?_, ?_, ?_, fun d hd => ?_⟩
  · rw [State.throttled_kept _ _ (safPwr_calm rfl), State.allLowered_kept _ safPwr_ne_combClk,
      State.fget_fset_ne _ _ _ _ (by decide), State.fget_fset _ _ _ (by decide)]
    exact Nat.mod_eq_of_lt x.isLt
  · rw [State.throttled_kept _ _ (safPwr_calm rfl), State.allLowered_kept _ safPwr_ne_combClk,
      State.fget_fset _ _ _ (by decide)]
    rfl
  · rw [State.throttled_sstate, State.allLowered_kept _ logStat_ne_combClk, State.fget_fset_ne _ _ _ _ (by decide),
      State.fget_fset_ne _ _ _ _ (by decide)]
  · have hLow := ((s.fset RF.SAF_PWR_AVG x.toNat).fset RF.SAF_PWR_LIMITING 1).allLowered_lowered hd
    rw [State.coreMhz_fset_safPwr _ _ _ rfl, State.coreMhz_fset_safPwr _ _ _ rfl] at hLow
    rwa [State.throttled_coreMhz]

theorem exec_powerLimitExceeded_within {s : State} {x : BitVec 12} (hx : x.toNat ≤ s.fget RF.SAF_PWR_LIMIT) :
    exec (.powerLimitExceeded x) s = .next s := congrArg Host.Outcome.next (if_pos (Or.inr hx))

/-! The watchdog (R428). -/

/-- The watchdog has expired: the queen restarts, and the module says so. -/
def State.queenRestart (s : State) (body : Bytes) : State :=
  let s1 := if s.fget RF.LOG_STAT_QRST = 1 then s else (s.fset RF.LOG_STAT_QRST 1).isum 2
  (s1.lastGasp 1 (leAt body 0 8)).aonRec 0x8905 3 body

theorem State.queenRestart_keeps {P : State → Prop} (K : Keeps [.out, .regs, .log] P) {s : State} (body : Bytes) (hs : P s) :
    P (s.queenRestart body) := by
  refine State.aonRec_keeps (K.mono rfl) _ _ _ (State.lastGasp_keeps (K.mono rfl) _ _ (ite_keeps (P := P) hs ?_))
  exact State.isum_keeps (K.mono rfl) _ (State.fset_keeps (K.mono rfl) _ _ hs)

theorem qrst_log : logApart RF.LOG_STAT_QRST := by
  unfold logApart FRef.apart
  decide

theorem State.queenRestart_shows (s : State) (body : Bytes) : (s.queenRestart body).fget RF.LOG_STAT_QRST = 1 ∧
    (s.queenRestart body).fget RF.LOG_LG_CAUSE_CAUSE = 1 ∧ (s.queenRestart body).fget RF.LOG_LG_CAUSE_VALID = 1 := by
  unfold State.queenRestart
  dsimp only
  rw [State.fget_aonRec _ _ _ _ _ qrst_log, State.fget_lastGasp _ _ _ _ (by decide),
    State.fget_aonRec _ _ _ _ _ (logApart_of_ne (by decide)), State.fget_aonRec _ _ _ _ _ (logApart_of_ne (by decide))]
  refine ⟨?_, State.lastGasp_shows _ (by decide) _⟩
  split
  · assumption
  · rw [State.fget_isum _ _ _ (by decide), State.fget_fset _ _ _ (by decide)]
    rfl

/-- The expiries of the last 10 minutes, this one added. -/
def State.watched (s : State) : State :=
  { s with saf := { s.saf with wdog := (s.saf.wdog.filter fun x => decide (s.clk < x + 600000000000)) ++ [s.clk] } }

/-- An expiry restarts the queen; the third in 10 minutes resets the module (R428). -/
theorem exec_watchdogExpire {s : State} (hr : s.pwr.rails = true) {recent : List Nat}
    (h : recent = s.saf.wdog.filter fun x => decide (s.clk < x + 600000000000)) :
    ∃ t, exec .watchdogExpire s = .next t ∧ t.saf.wdog = recent ++ [s.clk] ∧
      (recent.length < 2 → t.fget RF.LOG_STAT_QRST = 1 ∧ t.fget RF.LOG_LG_CAUSE_CAUSE = 1 ∧
        t.fget RF.LOG_LG_CAUSE_VALID = 1 ∧ t.boot = s.boot) ∧
      (2 ≤ recent.length → s.eng.clDrain = [] → s.Restarted t ∧ t.boot.byReset = true) := by
  obtain ⟨body, hExec⟩ : ∃ body, exec .watchdogExpire s = .next (if 3 ≤ recent.length + 1 then
      (s.watched.queenRestart body).moduleReset false false else s.watched.queenRestart body) := by
    refine ⟨pay [(4, (s.fget RF.LOG_STAT_NEXTSEQ + (2 ^ 32 - 1)) % 2 ^ 32), (1, recent.length + 1)], ?_⟩
    show execWatchdogExpire s = _
    unfold execWatchdogExpire
    dsimp only
    rw [if_neg (by rw [hr]; decide), ← h]
    subst h
    rfl
  have hWdog : (s.watched.queenRestart body).saf.wdog = recent ++ [s.clk] := by
    rw [State.queenRestart_keeps (keeps_saf s.watched.saf (by decide)) _ rfl, h]
    rfl
  refine ⟨_, hExec, ?_⟩
  split
  · rename_i hThird
    refine ⟨(State.moduleReset_wdog _ false).trans hWdog, fun hTwo => absurd hTwo (by omega), fun _ hIdle => ?_⟩
    have hEng : (s.watched.queenRestart body).eng = s.eng := State.queenRestart_keeps (keeps_eng s.eng (by decide)) _ rfl
    have hUpd : (s.watched.queenRestart body).upd = s.upd := State.queenRestart_keeps (keeps_upd s.upd (by decide)) _ rfl
    have hHost : (s.watched.queenRestart body).host = s.host :=
      State.queenRestart_keeps (keeps_host s.host (by decide)) _ rfl
    have hClk : (s.watched.queenRestart body).clk = s.clk := State.queenRestart_keeps (keeps_clock _ s.clk) _ rfl
    have hReset := (s.watched.queenRestart body).moduleReset_restarted false (by rw [hEng, hIdle])
    rwa [State.Restarted, hUpd, hHost, hClk] at hReset
  · rename_i hThird
    obtain ⟨hQrst, hCause, hValid⟩ := s.watched.queenRestart_shows body
    refine ⟨hWdog, fun _ => ⟨hQrst, hCause, hValid, ?_⟩, fun hTwo => absurd hTwo (by omega)⟩
    exact State.queenRestart_keeps (keeps_boot s.boot (by decide)) _ rfl

/-! The obligation. -/

/-- Settles O59: each event by the rule of its operation, every part where it applies and where it does not. -/
theorem powerAndSafetyAct : Obligations.PowerAndSafetyAct := by
  unfold Obligations.PowerAndSafetyAct
  intro s
  refine ⟨fun i hi => ⟨fun hr => ?_, fun hr => ?_⟩, ⟨_, rfl, s.aonLoss_loses⟩, ⟨_, rfl, s.leverOpen_opens⟩,
    exec_ilockRestart s, exec_causeCleared s, fun pin => exec_sidebandContention s pin,
    fun pin => exec_sidebandRetry s pin,
    fun u pair x => ⟨exec_tjThrottle_hot u pair x, exec_tjThrottle_cool u pair x, exec_sensorDisagreement u pair x⟩,
    fun d hot => ⟨exec_throttleStep_idle, fun hc hHot hDie => ?_, fun hc hCool => ?_⟩,
    fun i cause h => ?_, fun x => ⟨exec_powerLimitExceeded, exec_powerLimitExceeded_within⟩, fun hr => ?_,
    fun hr _ => exec_watchdogExpire hr⟩
  · rw [exec_inputLost s hi, hr, if_neg Bool.false_ne_true]
  · refine ⟨_, exec_inputLost s hi, ?_⟩
    rw [if_pos hr]
    exact ⟨s.railsOff_lost 0, by rw [State.railsOff_pwr], State.railsOff_sstate _ _ (by decide)⟩
  · subst hHot
    exact exec_throttleStep_hot hc hDie
  · subst hCool
    exact exec_throttleStep_cool hc
  · obtain ⟨hCause, t, body, hExec⟩ := exec_shutsDown h
    refine ⟨fun hr => ⟨_, hExec, ?_⟩, fun hr => by rw [hExec, hr, if_neg Bool.false_ne_true]⟩
    rw [if_pos hr]
    exact t.safeOff_entered hCause body
  · exact congrArg Host.Outcome.next (if_pos (by rw [hr]; decide))

end Sys2Proof.Machine

/-! Descriptors: how one reads back, and how its completion is written or held (R362, R364 to R366). -/

namespace Sys2Proof.Machine

/-! Descriptors of a ring. -/

theorem State.desc_congr {s t : State} (h : t.host.descs = s.host.descs) (ring tag : Nat) :
    t.desc ring tag = s.desc ring tag := by
  rw [State.desc, h, State.desc]

theorem State.desc_named {s : State} {ring tag : Nat} {d : Desc} (h : s.desc ring tag = some d) :
    d.ring = ring ∧ d.tag = tag := of_decide_eq_true (List.find?_some h :)

/-- A change of a descriptor that leaves its name alone. -/
theorem State.desc_updDesc {s : State} {ring tag : Nat} {d : Desc} {f : Desc → Desc} (h : s.desc ring tag = some d)
    (hf : ∀ d, (f d).ring = d.ring ∧ (f d).tag = d.tag) : (s.updDesc ring tag f).desc ring tag = some (f d) := by
  have hName : ((fun d : Desc => decide (d.ring = ring ∧ d.tag = tag)) ∘ fun d =>
      if d.ring = ring ∧ d.tag = tag then f d else d) = fun d => decide (d.ring = ring ∧ d.tag = tag) := by
    funext d
    dsimp only [Function.comp_apply]
    split
    · rw [(hf d).1, (hf d).2]
    · rfl
  show (s.host.descs.map _).find? _ = _
  rw [List.find?_map, hName, show s.host.descs.find? _ = some d from h, Option.map_some, if_pos (State.desc_named h)]

/-- With no descriptor uncompleted nothing starts. -/
theorem State.descRun_none {s : State} (h : s.host.descs = []) (n : Nat) : s.descRun n = s := by
  have hNext : s.runnable n = none := by
    unfold State.runnable State.nextDesc
    rw [h]
    rfl
  show State.descPump 65 s n = s
  unfold State.descPump
  rw [hNext]

/-! A completion put into its queue (R365, R366). -/

section
variable {s : State} {n : Nat}

theorem State.cqPut_room (c : Bytes) (irq : Bool) (hHeld : (s.ringRec n).held = []) (h : s.cqRoom n) :
    s.CqWritten (s.cqPut n c irq) n c irq := by
  obtain ⟨hFree, hBme, hWindow⟩ := h
  unfold State.cqPut
  dsimp only
  rw [if_pos ⟨hHeld, hFree, hBme⟩]
  exact State.cqWrite_inside c irq hWindow

/-- Without room, or bus mastering, the completion is held. -/
theorem State.cqPut_held (c : Bytes) (irq : Bool) (hHeld : (s.ringRec n).held = [])
    (h : s.bmeOn (s.ringFn n) = false ∨ qEntries (s.fget (RF.RING_CQ_LOG2 n)) ≤ s.cqUsed n + 1) :
    s.cqPut n c irq =
      (s.setRing n { s.ringRec n with held := [(c, irq)] }).fset (RF.RING_STAT_HELD n) 1 := by
  have hNo : ¬((s.ringRec n).held = [] ∧ s.cqUsed n + 1 < qEntries (s.fget (RF.RING_CQ_LOG2 n)) ∧
      s.bmeOn (s.ringFn n) = true) := fun ⟨_, hFree, hBme⟩ => by
    rcases h with h | h
    · exact absurd hBme (by rw [h]; decide)
    · omega
  unfold State.cqPut
  dsimp only
  rw [if_neg hNo, hHeld]
  rfl

/-- Whatever becomes of a completion, of the host interface only the rings' records change, and no ring closes. -/
theorem State.cqPut_rings (c : Bytes) (irq : Bool) (hHeld : (s.ringRec n).held = []) :
    (∃ x, (s.cqPut n c irq).host = { s.host with rings := x }) ∧
      ((s.cqPut n c irq).ringRec n).closing = (s.ringRec n).closing := by
  by_cases hRoom : s.bmeOn (s.ringFn n) = false ∨ qEntries (s.fget (RF.RING_CQ_LOG2 n)) ≤ s.cqUsed n + 1
  · rw [State.cqPut_held c irq hHeld hRoom, State.ringRec_fset, State.ringRec_setRing, State.fset_host]
    exact ⟨⟨_, rfl⟩, rfl⟩
  · obtain ⟨hBme, hFree⟩ := not_or.mp hRoom
    have hBme : s.bmeOn (s.ringFn n) = true := by simpa using hBme
    by_cases hWindow : s.inWindows (s.ringFn n)
        (4096 * s.fget (RF.RING_CQ_ADDR n) + 16 * s.fget (RF.RING_STAT_CQTAIL n)) 16 true = true
    · have hWritten := State.cqPut_room c irq hHeld ⟨Nat.not_le.mp hFree, hBme, hWindow⟩
      obtain ⟨wrap, k, hRec⟩ := hWritten.record
      exact ⟨hWritten.rings, by rw [hRec]⟩
    · have hSame : (s.cqPut n c irq).host = s.host := by
        unfold State.cqPut
        dsimp only
        rw [if_pos ⟨hHeld, Nat.not_le.mp hFree, hBme⟩, State.cqWrite]
        dsimp only
        rw [if_neg hWindow]
        exact State.ringError_keeps (keeps_host s.host (by decide)) _ _
          (State.dmaBlock_keeps (keeps_host s.host (by decide)) _ _ _ _ rfl)
      exact ⟨⟨s.host.rings, hSame⟩, by rw [State.ringRec, hSame, State.ringRec]⟩

/-! The completion of the only descriptor (R366). -/

/-- The state whose last descriptor has left the list. -/
def State.noDescs (s : State) : State := { s with host := { s.host with descs := [] } }

variable {d : Desc}

theorem exec_descriptorComplete {r : RingId} (hDescs : s.host.descs = [d]) (hRing : d.ring = r.val) (hDone : d.st = 3)
    (hWait : s.complWaits d = false) (hTag : d.tag < 2 ^ 16) :
    exec (.descriptorComplete r (BitVec.ofNat 16 d.tag)) s = .next
      ((((s.noDescs.cqPut r (s.complBytes d (s.finalStatus d)) (bit d.word 8)).teardownEnd d).descRun r).ringSettle r) := by
  have hNat : (BitVec.ofNat 16 d.tag).toNat = d.tag := by
    rw [BitVec.toNat_ofNat, Nat.mod_eq_of_lt hTag]
  have hFind : s.host.descs.findIdx? (fun d' => decide (d'.ring = r.val ∧ d'.tag = d.tag ∧ d'.st = 3)) = some 0 := by
    rw [hDescs, List.findIdx?_cons, if_pos (by simp [hRing, hDone])]
  have hGet : s.host.descs[0]? = some d := by
    rw [hDescs]
    rfl
  have hErase : s.host.descs.eraseIdx 0 = [] := by
    rw [hDescs]
    rfl
  show Host.Outcome.next (s.descEnd r.val (BitVec.ofNat 16 d.tag).toNat) = _
  rw [hNat, State.descEnd, hFind]
  dsimp only
  rw [hGet]
  dsimp only
  rw [if_neg (by rw [hWait]; exact Bool.false_ne_true), hErase]
  rfl

/-- Nothing follows the completion of the only descriptor of a ring that is not closing. -/
theorem State.descRun_ringSettle (hDescs : s.host.descs = []) (hOpen : (s.ringRec n).closing = false) :
    (s.descRun n).ringSettle n = s := by
  rw [State.descRun_none hDescs, State.ringSettle_open hOpen]

theorem State.teardownEnd_other (h : fld d.word 0 8 ≠ 4 ∨ d.status ≠ stOK) : s.teardownEnd d = s :=
  if_neg fun ⟨hOpc, hOk⟩ => h.elim (absurd hOpc) (absurd hOk)

theorem State.teardownEnd_removes {u : Setup} (hOpc : fld d.word 0 8 = 4) (hOk : d.status = stOK)
    (hFind : s.host.setups.find? (fun u => u.handle == fld d.word 32 16) = some u) :
    s.teardownEnd d = s.setupRemove u := by
  unfold State.teardownEnd
  rw [if_pos ⟨hOpc, hOk⟩, hFind]

/-- The completion that was put is the end of the only descriptor, unless that is a TEARDOWN's. -/
theorem exec_descriptorComplete_other {r : RingId} (hDescs : s.host.descs = [d]) (hRing : d.ring = r.val) (hDone : d.st = 3)
    (hWait : s.complWaits d = false) (hTag : d.tag < 2 ^ 16) (hHeld : (s.ringRec r).held = [])
    (hOpen : (s.ringRec r).closing = false) (hOther : fld d.word 0 8 ≠ 4 ∨ d.status ≠ stOK) :
    exec (.descriptorComplete r (BitVec.ofNat 16 d.tag)) s =
      .next (s.noDescs.cqPut r (s.complBytes d (s.finalStatus d)) (bit d.word 8)) ∧
    (s.noDescs.cqPut r (s.complBytes d (s.finalStatus d)) (bit d.word 8)).host.descs = [] := by
  obtain ⟨⟨x, hHost⟩, hClosing⟩ := State.cqPut_rings (s := s.noDescs) (n := r.val)
    (s.complBytes d (s.finalStatus d)) (bit d.word 8) hHeld
  have hNone := congrArg HostSt.descs hHost
  rw [exec_descriptorComplete hDescs hRing hDone hWait hTag, State.teardownEnd_other hOther,
    State.descRun_ringSettle hNone (hClosing.trans hOpen)]
  exact ⟨rfl, hNone⟩

/-- With room the completion goes out, its ring's vector with it where the count is reached. -/
theorem State.complete_written (r : RingId) (c : Bytes) (irq : Bool) (hHeld : (s.ringRec r).held = [])
    (hLog : s.fget (RF.RING_CQ_LOG2 r) ≤ 10) (hRoom : s.cqRoom r) :
    (s.noDescs.cqPut r c irq).out = s.out ++ s.cqOut r c :: (if irq = true ∧
        s.fget (RF.RING_CFG_CQ_CNT r) ≤ (s.ringRec r).irq + 1 then
          [.msix (s.ringFn r) (s.fget (RF.RING_CFG_VEC r))] else []) ∧
      (s.noDescs.cqPut r c irq).fget (RF.RING_STAT_CQTAIL r) = (s.fget (RF.RING_STAT_CQTAIL r) + 1) %
        qEntries (s.fget (RF.RING_CQ_LOG2 r)) ∧
      State.Only [.out, .regs, .host] s (s.noDescs.cqPut r c irq) ∧
      State.RegsBut [Reg.RING_STAT r] s (s.noDescs.cqPut r c irq) := by
  have hWritten : s.noDescs.CqWritten (s.noDescs.cqPut r c irq) r c irq := State.cqPut_room c irq hHeld hRoom
  refine ⟨hWritten.out, hWritten.tail.trans (Nat.mod_eq_of_lt ?_), ?_, hWritten.regs⟩
  · have hSize : qEntries (s.fget (RF.RING_CQ_LOG2 r)) ≤ 2 ^ 16 := Nat.pow_le_pow_right (by decide) (by omega)
    exact (Nat.mod_lt _ (Nat.two_pow_pos _)).trans_le hSize
  · exact State.Only.trans (only_of_keeps fun _ K k => K.host (by decide) _ k) hWritten.only

/-- Without room it is held. -/
theorem State.complete_held (r : RingId) (c : Bytes) (irq : Bool) (hHeld : (s.ringRec r).held = [])
    (hFull : s.bmeOn (s.ringFn r) = false ∨ qEntries (s.fget (RF.RING_CQ_LOG2 r)) ≤ s.cqUsed r + 1) :
    ((s.noDescs.cqPut r c irq).ringRec r).held = [(c, irq)] ∧
      (s.noDescs.cqPut r c irq).fget (RF.RING_STAT_HELD r) = 1 ∧
      State.Only [.regs, .host] s (s.noDescs.cqPut r c irq) ∧
      State.RegsBut [Reg.RING_STAT r] s (s.noDescs.cqPut r c irq) := by
  rw [State.cqPut_held (s := s.noDescs) c irq hHeld hFull]
  refine ⟨?_, ?_, ?_, ?_⟩
  · rw [State.ringRec_fset, State.ringRec_setRing]
  · rw [State.fget_fset _ _ _ (by simp [RF.RING_STAT_HELD])]
    rfl
  · exact only_of_keeps fun _ K k => State.fset_keeps (K.mono rfl) _ _
      (State.setRing_keeps (K.mono rfl) _ _ (K.host (by decide) _ k))
  · exact ((State.RegsBut.rfl' _ s).of_eq rfl).fset List.mem_cons_self

end

end Sys2Proof.Machine

/-! A set-up leaves the ledger (R34): what goes with it, and which fields stay. -/

namespace Sys2Proof.Machine

/-! Fields that a write to another register leaves alone. -/

theorem FieldsKept.setReg {ok : FRef → Prop} {o : Nat} (s : State) (v : Word64) (h : ∀ q, ok q → q.off ≠ o) :
    FieldsKept ok s (s.setReg o v) := fun q hq => by
  rw [State.fget, State.reg_setReg_ne _ _ (h q hq), State.fget]

theorem FieldsKept.foldl {α : Type} {ok : FRef → Prop} {f : State → α → State} {l : List α} (s : State)
    (h : ∀ t, ∀ a ∈ l, FieldsKept ok t (f t a)) : FieldsKept ok s (l.foldl f s) := by
  induction l generalizing s with
  | nil => exact .refl _ s
  | cons a l ih =>
    exact (h s a List.mem_cons_self).trans (ih _ fun t b hb => h t b (List.mem_cons_of_mem _ hb))

/-- Fields of the registers that no removal of a partition's set-up writes, as far as a reclaim relies on them: the
hive's, the rings', and those of the caps. -/
def ledgerApart (q : FRef) : Prop := q.off < 0x80000 ∨ (0xC0000 ≤ q.off ∧ q.off < 0xC8000) ∨
  (0x1000000 ≤ q.off ∧ q.off % 0x200000 = 0x25000)

section
variable {q : FRef}

theorem ledgerApart.swmStat (h : ledgerApart q) : q.off ≠ Reg.SWM_STAT := by
  unfold ledgerApart at h
  rw [Reg.SWM_STAT]
  omega

theorem ledgerApart.portCfg (h : ledgerApart q) {p : Nat} (hp : p < 32) : q.off ≠ Reg.OPT_PORT_CFG p := by
  unfold ledgerApart at h
  rw [Reg.OPT_PORT_CFG]
  omega

theorem ledgerApart.wortPart (h : ledgerApart q) {p : Nat} (hp : p < 8) :
    q.off ≠ Reg.WORT_PART p ∧ q.off ≠ Reg.WORT_PART2 p := by
  unfold ledgerApart at h
  rw [Reg.WORT_PART, Reg.WORT_PART2]
  omega

theorem ledgerApart.slots (h : ledgerApart q) (d : Nat) : q.off ≠ Reg.UPD_SLOT_BASE d ∧ q.off ≠ Reg.UPD_SLOT_CFG d := by
  unfold ledgerApart at h
  rw [Reg.UPD_SLOT_BASE, Reg.UPD_SLOT_CFG]
  omega

theorem ledgerApart.teachers (h : ledgerApart q) (d : Nat) {i : Nat} (hi : i < 4) :
    q.off ≠ Reg.UPD_TEACH_BASE d i ∧ q.off ≠ Reg.UPD_TEACH_LIM d i := by
  unfold ledgerApart at h
  rw [Reg.UPD_TEACH_BASE, Reg.UPD_TEACH_LIM]
  omega

end

section
variable (s : State)

theorem State.nolull_kept : FieldsKept ledgerApart s s.nolull := by
  refine FieldsKept.foldl s fun t p hp => ?_
  have hPort := List.mem_range.mp hp
  exact .ite (.refl _ t) (.setReg t _ fun q hq => hq.portCfg hPort)

theorem State.swmStat_kept : FieldsKept ledgerApart s s.swmStat :=
  .trans (.setReg s _ fun _ hq => hq.swmStat) (.setReg _ _ fun _ hq => hq.swmStat)

theorem State.wortRegs_kept (p : Nat) :
    FieldsKept (fun q => q.off ≠ Reg.WORT_PART p ∧ q.off ≠ Reg.WORT_PART2 p) s (s.wortRegs p) :=
  .trans (.setReg s _ fun _ => And.left) (.trans (.setReg _ _ fun _ => And.right) (.setReg _ _ fun _ => And.right))

theorem State.slotSettle_kept (d : Nat) : FieldsKept ledgerApart s (s.slotSettle d) :=
  .ite (.trans (.setReg s _ fun _ hq => (hq.slots d).1) (.setReg _ _ fun _ hq => (hq.slots d).2)) (.refl _ s)

theorem State.slotUnload_kept (d : Nat) : FieldsKept ledgerApart s (s.slotUnload d) := by
  refine (s.slotSettle_kept d).trans (FieldsKept.foldl _ fun t i hi => ?_)
  have hRange := List.mem_range.mp hi
  exact .trans (.setReg t _ fun _ hq => (hq.teachers d hRange).1) (.setReg _ _ fun _ hq => (hq.teachers d hRange).2)

/-! Removal of a set-up. -/

/-- The ledger without a handle. -/
def State.offLedger (s : State) (handle : Nat) : State :=
  { s with host := { s.host with setups := s.host.setups.filter fun v => v.handle != handle } }

/-- The groups without those of a name. -/
def State.ungroup (s : State) (job gid : Nat) : State :=
  let s1 := (s.swm.groups.filter fun g => decide (g.job = job ∧ g.gid = gid)).foldl
    (fun (s : State) g => s.relaysGone g) s
  ({ s1 with swm := { s1.swm with
    groups := s.swm.groups.filter fun g => !decide (g.job = job ∧ g.gid = gid) } } : State).opsRenumber job gid

/-- The dies of a set-up that no TRAIN set-up covers any more give up their slots. -/
def State.unloaded (s : State) (u : Setup) : State :=
  (u.dies.filter fun d => !(s.host.setups.any fun v => decide (v.kind = 1) && v.covers d)).foldl
    (fun (s : State) d => s.slotUnload d) s

theorem State.setupRemove_steps (u : Setup) : s.setupRemove u =
    (if u.kind = 3 then ((s.offLedger u.handle).ungroup u.job u.gid).swmStat
      else if u.kind = 1 then ((s.offLedger u.handle).unloaded u).wortRegs (u.fn - 1)
      else s.offLedger u.handle).nolull := rfl

theorem State.ungroup_keeps {P : State → Prop} (K : Keeps [.out, .swm] P) {s : State} (job gid : Nat) (hs : P s) :
    P (s.ungroup job gid) :=
  State.opsRenumber_keeps (K.mono rfl) _ _ (K.swm (by decide) _
    (foldl_keeps (fun _ _ h => State.relaysGone_keeps (K.mono rfl) _ h) hs))

theorem State.unloaded_keeps {P : State → Prop} (K : Keeps [.regs] P) {s : State} (u : Setup) (hs : P s) :
    P (s.unloaded u) := foldl_keeps (fun _ _ h => State.slotUnload_keeps K _ h) hs

/-- Of the host interface only the ledger changes. -/
theorem State.setupRemove_host (u : Setup) : (s.setupRemove u).host =
    { s.host with setups := s.host.setups.filter fun v => v.handle != u.handle } := by
  rw [State.setupRemove_steps]
  refine State.nolull_keeps (keeps_host _ (by decide)) (ite_keeps (P := fun t => t.host = (s.offLedger u.handle).host) ?_
    (ite_keeps (P := fun t => t.host = (s.offLedger u.handle).host) ?_ rfl))
  · exact State.swmStat_keeps (keeps_host _ (by decide)) (State.ungroup_keeps (keeps_host _ (by decide)) _ _ rfl)
  · exact State.wortRegs_keeps (keeps_host _ (by decide)) _ (State.unloaded_keeps (keeps_host _ (by decide)) _ rfl)

theorem State.setupRemove_kept {u : Setup} (hu : u.fn ≤ 8) : FieldsKept ledgerApart s (s.setupRemove u) := by
  rw [State.setupRemove_steps]
  refine .trans ?_ (State.nolull_kept _)
  split
  · refine .trans (.of_eq ?_) (State.swmStat_kept _)
    exact State.ungroup_keeps (keeps_regs s.regs (by decide)) _ _ rfl
  · split
    · exact .trans (FieldsKept.foldl (s.offLedger u.handle) fun t d _ => t.slotUnload_kept d)
        ((State.wortRegs_kept _ _).mono fun _ hq => hq.wortPart (by omega))
    · exact .of_eq rfl

/-- A group set-up takes its group with it. -/
theorem State.setupRemove_group {u : Setup} (h : u.kind = 3) : (s.setupRemove u).group u.job u.gid = none := by
  have hSwm : (s.setupRemove u).swm = ((s.offLedger u.handle).ungroup u.job u.gid).swm := by
    rw [State.setupRemove_steps, if_pos h]
    exact State.nolull_keeps (keeps_swm _ (by decide)) (State.swmStat_keeps (keeps_swm _ (by decide)) rfl)
  rw [State.group, hSwm]
  refine List.find?_eq_none.mpr fun g hg hName => ?_
  have hLeft : (!decide (g.job = u.job ∧ g.gid = u.gid)) = true := (List.mem_filter.mp hg).2
  rw [hName] at hLeft
  exact Bool.false_ne_true hLeft

end

end Sys2Proof.Machine

/-! The completion of a TEARDOWN (R34), and the start of a held launch (R116, R364, R488). -/

namespace Sys2Proof.Machine

section
variable {s : State}

/-- A TEARDOWN's completion takes its set-up out of the ledger, and its group with it. -/
theorem exec_descriptorComplete_teardown {r : RingId} {d : Desc} {u : Setup} (hDescs : s.host.descs = [d])
    (hRing : d.ring = r.val) (hDone : d.st = 3) (hWait : s.complWaits d = false) (hTag : d.tag < 2 ^ 16)
    (hHeld : (s.ringRec r).held = []) (hOpen : (s.ringRec r).closing = false) (hOpc : fld d.word 0 8 = 4)
    (hOk : d.status = stOK) (hFind : s.host.setups.find? (fun u => u.handle == fld d.word 32 16) = some u) :
    ∃ t, exec (.descriptorComplete r (BitVec.ofNat 16 d.tag)) s = .next t ∧ t.host.descs = [] ∧
      (s.cqRoom r → s.cqOut r (s.complBytes d (s.finalStatus d)) ∈ t.out) ∧
      t.host.setups = s.host.setups.filter (fun v => v.handle != fld d.word 32 16) ∧
      (u.kind = 3 → t.group u.job u.gid = none) := by
  generalize hc : s.complBytes d (s.finalStatus d) = c
  obtain ⟨⟨x, hHost⟩, hClosing⟩ := State.cqPut_rings (s := s.noDescs) (n := r.val) c (bit d.word 8) hHeld
  have hWritten : s.cqRoom r → s.cqOut r c ∈ (s.noDescs.cqPut r c (bit d.word 8)).out := fun hRoom => by
    have hOut := (State.cqPut_room (s := s.noDescs) c (bit d.word 8) hHeld hRoom).out
    rw [hOut]
    exact List.mem_append_right _ List.mem_cons_self
  have hExec := exec_descriptorComplete hDescs hRing hDone hWait hTag
  rw [hc] at hExec
  generalize s.noDescs.cqPut r c (bit d.word 8) = q at hHost hClosing hWritten hExec
  have hSetups : q.host.setups = s.host.setups := by
    rw [hHost]
    rfl
  have hGone : (q.setupRemove u).host.descs = [] := by
    rw [State.setupRemove_host]
    exact congrArg HostSt.descs hHost
  have hStays : ((q.setupRemove u).ringRec r).closing = false := by
    rw [State.ringRec, State.setupRemove_host]
    exact hClosing.trans hOpen
  rw [State.teardownEnd_removes hOpc hOk (hSetups ▸ hFind), State.descRun_ringSettle hGone hStays] at hExec
  refine ⟨_, hExec, hGone, fun hRoom => ?_, ?_, State.setupRemove_group q⟩
  · exact (State.setupRemove_keeps (keeps_out _ q.out) u (List.prefix_refl _)).subset (hWritten hRoom)
  · have hHandle : u.handle = fld d.word 32 16 := by simpa using List.find?_some hFind
    rw [State.setupRemove_host, hSetups, hHandle]

/-! Launches. -/

/-- The record of the `k`-th core of a launch. -/
def launchRec (job : Nat) (d : Desc) (k : Nat) : CoreRec :=
  { ctx := { kbase := (fld d.word 64 40 + 64 * k * fld d.word 112 16) % 2 ^ 40, jseed := fld d.word 128 64
             step := fld d.word 192 32, pgen := fld d.word 224 8, job := job, ltag := fld d.word 240 16 }
    pc := (fld d.word 64 40 + 64 * k * fld d.word 112 16) % 2 ^ 40, launch := some (d.ring, d.tag) }

/-- One core of a launch starts. -/
def State.coreStart (job : Nat) (d : Desc) (s : State) (c : Nat × Nat) : State :=
  (s.setCoreRec c.1 (launchRec job d c.2)).setCoreState c.1 csRUN

theorem State.launchRun_starts (s : State) (d : Desc) : s.launchRun d =
    (laCores d.word).zipIdx.foldl (State.coreStart (s.jobOf (s.ringFn d.ring)) d)
      (s.updDesc d.ring d.tag fun d' => { d' with st := 2, cores := laCores d.word }) := rfl

theorem laCores_nodup (w : CmdWord) : (laCores w).Nodup :=
  List.nodup_range.map fun _ _ h => Nat.add_left_cancel h

theorem State.launchRun_launched (s : State) (d : Desc) : s.Launched (s.launchRun d) d := by
  obtain ⟨hIn, hOut⟩ := foldl_keyed (key := Prod.fst) (get := fun s c => (s.coreState c, s.coreRec c))
    (f := State.coreStart (s.jobOf (s.ringFn d.ring)) d)
    (R := fun c _ y => y = (csRUN, launchRec (s.jobOf (s.ringFn d.ring)) d c.2))
    (fun t c => Prod.ext (State.coreState_setCoreState _ _ _ (by decide)) (by
      show ((t.setCoreRec _ _).setCoreState _ _).coreRec _ = _
      rw [State.coreRec_setCoreState, State.coreRec_setCoreRec]))
    (fun t c k h => Prod.ext (by
      show ((t.setCoreRec _ _).setCoreState _ _).coreState _ = _
      rw [State.coreState_setCoreState_ne _ _ h, State.coreState_setCoreRec]) (by
      show ((t.setCoreRec _ _).setCoreState _ _).coreRec _ = _
      rw [State.coreRec_setCoreState, State.coreRec_setCoreRec_ne _ _ h]))
    (l := (laCores d.word).zipIdx) (by rw [List.zipIdx_map_fst]; exact laCores_nodup _)
    (s.updDesc d.ring d.tag fun d' => { d' with st := 2, cores := laCores d.word })
  rw [List.zipIdx_map_fst] at hOut
  rw [State.launchRun_starts]
  exact ⟨fun c k h => Prod.mk.inj (hIn (c, k) h), fun c h => (Prod.mk.inj (hOut c h)).2,
    fun c _ h => (Prod.mk.inj (hOut c h)).1⟩

theorem State.launchRun_desc {d : Desc} (h : s.desc d.ring d.tag = some d) :
    (s.launchRun d).desc d.ring d.tag = some { d with st := 2, cores := laCores d.word } := by
  rw [State.launchRun_starts]
  refine (State.desc_congr (s := s.updDesc d.ring d.tag fun d' => { d' with st := 2, cores := laCores d.word })
    (congrArg HostSt.descs ?_) _ _).trans (State.desc_updDesc h fun _ => ⟨rfl, rfl⟩)
  exact foldl_keeps (P := fun t => t.host = _) (fun t c hk =>
    State.setCoreState_keeps (keeps_host _ (by decide)) _ _ (State.setCoreRec_keeps (keeps_host _ (by decide)) _ _ hk)) rfl

/-- A held launch whose checks still pass starts at an aligned edge. -/
theorem exec_beatLaunchStart {r : RingId} {tag : BitVec 16} {d : Desc} (h : s.desc r tag.toNat = some d) (hSt : d.st = 1)
    (hRing : s.ringState r = 1) (hBeat : s.beatAligned d = true) (hConds : pick (s.launchConds (s.ringFn r) d.word) = none) :
    ∃ t, exec (.beatLaunchStart r tag) s = .next t ∧
      t.desc r tag.toNat = some { d with st := 2, cores := laCores d.word } ∧ s.Launched t d ∧
      State.Only [.regs, .core, .host] s t := by
  have hExec : exec (.beatLaunchStart r tag) s = .next (s.launchRun d) := by
    show execBeatLaunchStart r tag s = _
    unfold execBeatLaunchStart
    simp only [h, hConds, if_pos (And.intro hSt (And.intro hRing hBeat))]
  obtain ⟨hName, hTag⟩ := State.desc_named h
  refine ⟨_, hExec, ?_, s.launchRun_launched d, only_of_keeps fun _ K k => State.launchRun_keeps K _ k⟩
  rw [← hName, ← hTag] at h ⊢
  exact State.launchRun_desc h

end

end Sys2Proof.Machine

/-! Cold values of the rings' registers (R383): a ring whose registers have never been written is PF0's. -/

namespace Sys2Proof.Machine

/-- Bytes from the first register of an array to its last. -/
def dimsSpan (dims : List RDim) : Nat := (dims.map fun d => (d.count - 1) * d.stride).sum

theorem dimsMatch_some {dims : List RDim} {off c : Nat} (h : dimsMatch dims off = some c) :
    off ≤ dimsSpan dims ∧ ((∀ d ∈ dims, d.coldStep = 0) → c = 0) := by
  induction dims generalizing off c with
  | nil =>
    unfold dimsMatch at h
    split at h
    · cases h
      exact ⟨by omega, fun _ => rfl⟩
    · cases h
  | cons d dims ih =>
    obtain ⟨k, hk, rfl⟩ := Option.map_eq_some_iff.mp h
    obtain ⟨hSpan, hZero⟩ := ih hk
    have hStep := Nat.mul_le_mul_right d.stride (Nat.min_le_right (off / d.stride) (d.count - 1))
    refine ⟨?_, fun hCold => ?_⟩
    · simp only [dimsSpan, List.map_cons, List.sum_cons] at hSpan ⊢
      omega
    · rw [hZero fun x hx => hCold x (List.mem_cons_of_mem _ hx), hCold d List.mem_cons_self]
      rfl

theorem regAtIn_some {l : List RegDef} {off : Nat} {x : RegDef × Nat} (h : regAtIn l off = some x) :
    x.1 ∈ l ∧ x.1.coldAt off = some x.2 := by
  induction l with
  | nil => cases h
  | cons r rs ih =>
    unfold regAtIn at h
    split at h
    · rename_i hCold
      cases h
      exact ⟨List.mem_cons_self, hCold⟩
    · obtain ⟨hMem, hCold⟩ := ih h
      exact ⟨List.mem_cons_of_mem _ hMem, hCold⟩

/-- A register that reaches into the rings' part of the map has 0 in OWNER's place when cold. -/
def RegDef.ringsPf0 (r : RegDef) : Bool :=
  decide (0xC8000 ≤ r.base) || decide (r.base + dimsSpan r.dims < 0xC0000) ||
    (fld (BitVec.ofNat 64 r.cold) 4 4 == 0 && r.dims.all fun d => d.coldStep == 0)

theorem regTable_ringsPf0 : regTable.all RegDef.ringsPf0 = true := by decide

theorem coldOf_rings {off : Nat} (h : 0xC0000 ≤ off ∧ off < 0xC8000) : fld (coldOf off) 4 4 = 0 := by
  unfold coldOf
  split
  · rename_i r c hAt
    obtain ⟨hMem, hCold⟩ := regAtIn_some hAt
    dsimp only at hMem hCold
    unfold RegDef.coldAt at hCold
    split at hCold
    · obtain ⟨k, hk, rfl⟩ := Option.map_eq_some_iff.mp hCold
      obtain ⟨hSpan, hZero⟩ := dimsMatch_some hk
      have hPf0 := List.all_eq_true.mp regTable_ringsPf0 r hMem
      unfold RegDef.ringsPf0 at hPf0
      rw [decide_eq_false (by omega), decide_eq_false (by omega), Bool.false_or, Bool.false_or, Bool.and_eq_true,
        beq_iff_eq, List.all_eq_true] at hPf0
      obtain ⟨hOwner, hSteps⟩ := hPf0
      have hSteps : ∀ d ∈ r.dims, d.coldStep = 0 := fun d hd => beq_iff_eq.mp (hSteps d hd)
      rw [hZero hSteps, Nat.zero_add, hOwner]
    · cases hCold
  · rfl

/-- A key that reads other than its default is listed. -/
theorem Tbl.listed_of_get_ne {α : Type} {d : α} {t : Tbl α} {k : Nat} (h : Tbl.get d t k ≠ d) : ∃ e ∈ t, e.1 = k := by
  refine Classical.byContradiction fun hNone => h ?_
  have hAll : t.filter (fun e => decide (e.1 ≠ k)) = t :=
    List.filter_eq_self.mpr fun e he => decide_eq_true fun hk => hNone ⟨e, he, hk⟩
  rw [← hAll]
  exact Tbl.get_filter_out d t (fun x => decide (x ≠ k)) (by simp)

/-- The rings in use are those of some function other than PF0, and rings of the module. -/
theorem State.mem_ringsAll (s : State) {fn n : Nat} (hf : fn ≠ 0) : n ∈ s.ringsAll fn ↔ n < 1024 ∧ s.ringFn n = fn := by
  unfold State.ringsAll State.ringsUsed
  rw [List.mem_filter, List.mem_eraseDups, List.mem_map, decide_eq_true_eq]
  refine ⟨fun ⟨⟨e, he, hn⟩, hFn⟩ => ⟨?_, hFn⟩, fun ⟨hn, hFn⟩ => ⟨?_, hFn⟩⟩
  · have hRange := of_decide_eq_true (List.mem_filter.mp he).2
    omega
  · have hSpan : 0xC0000 ≤ Reg.RING_CFG n ∧ Reg.RING_CFG n < 0xC8000 := by
      rw [Reg.RING_CFG]
      omega
    obtain ⟨e, he, hKey⟩ : ∃ e ∈ s.regs, e.1 = Reg.RING_CFG n := by
      refine Tbl.listed_of_get_ne (d := coldOf (Reg.RING_CFG n)) fun hCold => hf (hFn.symm.trans ?_)
      show fld (Tbl.get (coldOf (Reg.RING_CFG n)) s.regs (Reg.RING_CFG n)) 4 4 = 0
      rw [hCold, coldOf_rings hSpan]
    refine ⟨e, List.mem_filter.mpr ⟨he, decide_eq_true (hKey ▸ hSpan)⟩, ?_⟩
    rw [hKey, Reg.RING_CFG]
    omega

end Sys2Proof.Machine

/-! Reclaims (R26, R283, R382, R383): what the wort deadline drops, and what the release zeroes, returns and removes. -/

namespace Sys2Proof.Machine

/-! Fields that read 0 stay so under writes of 0. -/

theorem fld_putFld_zero {n : Nat} (x : BitVec n) {lo w lo' w' : Nat} (h : fld x lo' w' = 0) :
    fld (putFld x lo w 0) lo' w' = 0 := by
  refine Nat.eq_of_testBit_eq fun i => ?_
  have hBit : (fld x lo' w').testBit i = false := by rw [h, Nat.zero_testBit]
  rw [testBit_fld] at hBit
  rw [testBit_fld, Nat.zero_testBit]
  by_cases hn : lo' + i < n
  · rw [getLsbD_putFld _ _ _ _ _ hn]
    split
    · rw [Nat.zero_testBit, Bool.and_false]
    · exact hBit
  · rw [BitVec.getLsbD_of_ge _ _ (Nat.le_of_not_lt hn), Bool.and_false]

theorem State.fget_setReg_zero {s : State} {q : FRef} (o : Nat) {v : Word64} (h : s.fget q = 0)
    (hv : q.off = o → fld v q.lo q.w = 0) : (s.setReg o v).fget q = 0 := by
  by_cases ho : q.off = o
  · rw [State.fget, ho, State.reg_setReg]
    exact hv ho
  · rw [State.fget, State.reg_setReg_ne _ _ ho]
    exact h

theorem fld_zero (lo w : Nat) : fld (0 : Word64) lo w = 0 := by
  show 0 / 2 ^ lo % 2 ^ w = 0
  rw [Nat.zero_div, Nat.zero_mod]

theorem State.fget_cleared_zero {s : State} {q : FRef} (o : Nat) (h : s.fget q = 0) : (s.setReg o 0).fget q = 0 :=
  State.fget_setReg_zero o h fun _ => fld_zero _ _

theorem State.fget_fset_zero {s : State} {q : FRef} (r : FRef) (h : s.fget q = 0) : (s.fset r 0).fget q = 0 :=
  State.fget_setReg_zero _ h fun ho => fld_putFld_zero _ (ho ▸ h)

/-- What one step of a fold brings about, and every step keeps. -/
theorem foldl_reaches {α : Type} {P : State → Prop} {f : State → α → State} {l : List α} {a : α} (ha : a ∈ l)
    (hSet : ∀ s, P (f s a)) (hKeep : ∀ s b, P s → P (f s b)) (s : State) : P (l.foldl f s) := by
  induction l generalizing s with
  | nil => exact absurd ha List.not_mem_nil
  | cons b l ih =>
    rcases List.mem_cons.mp ha with rfl | ha
    · rw [List.foldl_cons]
      exact foldl_keeps hKeep (hSet s)
    · exact ih ha (f s b)

/-! The wort deadline (R382 step 4). -/

theorem State.slotSettle_zero {s : State} {q : FRef} (d : Nat) (h : s.fget q = 0) : (s.slotSettle d).fget q = 0 :=
  ite_keeps (P := fun t => t.fget q = 0) (State.fget_cleared_zero _ (State.fget_cleared_zero _ h)) h

theorem State.freeSlot_zero {s : State} {q : FRef} (d k : Nat) (h : s.fget q = 0) : (s.freeSlot d k).fget q = 0 :=
  State.slotSettle_zero d (State.fget_fset_zero (s := s.clearBitmap d k) _ h)

theorem State.freeSlot_frees (s : State) (d : Nat) {k : Nat} (hk : k < 8) :
    (s.freeSlot d k).fget (RF.UPD_SLOT_STATE_STATE d k) = 0 := by
  refine State.slotSettle_zero d ((State.fget_fset (s.clearBitmap d k) _ 0 ?_).trans (Nat.zero_mod _))
  simp only [RF.UPD_SLOT_STATE_STATE]
  omega

/-- The slots being sent discarded, and with them the messages not acknowledged. -/
def State.sendsDropped (s : State) (p : Nat) : State :=
  ((s.sess p).slots.filter fun w => w.sending).foldl (fun (s : State) w => s.freeSlot w.die w.slot)
    (s.setSess p { s.sess p with slots := (s.sess p).slots.filter (fun w => !w.sending), msgs := [] })

theorem State.sendsDropped_keeps {P : State → Prop} (K : Keeps [.regs, .mem, .upd, .wort] P) {s : State} (p : Nat) (hs : P s) :
    P (s.sendsDropped p) :=
  foldl_keeps (fun _ _ h => State.freeSlot_keeps (K.mono rfl) _ _ h) (State.setSess_keeps (K.mono rfl) _ _ hs)

theorem State.freeSlots_sess (s : State) (l : List WSlot) (p : Nat) :
    (l.foldl (fun (s : State) w => s.freeSlot w.die w.slot) s).sess p = s.sess p := by
  have hWort : (l.foldl (fun (s : State) w => s.freeSlot w.die w.slot) s).wort = s.wort :=
    foldl_keeps (P := fun t => t.wort = s.wort) (fun _ _ h => State.freeSlot_keeps (keeps_wort _ (by decide)) _ _ h) rfl
  rw [State.sess, hWort, State.sess]

theorem State.sess_setSess (s : State) (p : Nat) (x : WSess) : (s.setSess p x).sess p = x := Tbl.get_set _ _ _ _

theorem State.sendsDropped_sess (s : State) (p : Nat) : (s.sendsDropped p).sess p =
    { s.sess p with slots := (s.sess p).slots.filter (fun w => !w.sending), msgs := [] } := by
  rw [State.sendsDropped, State.freeSlots_sess, State.sess_setSess]

theorem State.sendsDropped_frees {s : State} {p : Nat} {w : WSlot} (hw : w ∈ (s.sess p).slots) (hSend : w.sending = true)
    (hSlot : w.slot < 8) : (s.sendsDropped p).fget (RF.UPD_SLOT_STATE_STATE w.die w.slot) = 0 := by
  have hMem : w ∈ (s.sess p).slots.filter fun w => w.sending := List.mem_filter.mpr ⟨hw, hSend⟩
  unfold State.sendsDropped
  generalize s.setSess p _ = s1
  refine foldl_reaches (P := fun t => t.fget (RF.UPD_SLOT_STATE_STATE w.die w.slot) = 0) hMem (fun t => ?_)
    (fun t v h => ?_) s1
  · exact t.freeSlot_frees w.die hSlot
  · exact State.freeSlot_zero v.die v.slot h

/-- A reclaim marked late. -/
def State.reclaimLate (s : State) (p : Nat) (rc : Reclaim) : State :=
  (s.setPart p { s.part p with reclaim := some { rc with late := true } }).wortRegs p

theorem State.reclaimLate_keeps {P : State → Prop} (K : Keeps [.regs, .host] P) {s : State} (p : Nat) (rc : Reclaim)
    (hs : P s) : P (s.reclaimLate p rc) :=
  State.wortRegs_keeps (K.mono rfl) _ (State.setPart_keeps (K.mono rfl) _ _ hs)

theorem State.reclaimLate_part (s : State) (p : Nat) (rc : Reclaim) :
    ((s.reclaimLate p rc).part p).reclaim = some { rc with late := true } := by
  rw [State.part, State.reclaimLate, State.wortRegs_keeps (keeps_host _ (by decide)) _ rfl]
  exact congrArg PartSt.reclaim (Tbl.get_set _ _ _ _)

theorem State.reclaimLate_kept (s : State) (p : Nat) (rc : Reclaim) :
    FieldsKept (fun q => q.off ≠ Reg.WORT_PART p ∧ q.off ≠ Reg.WORT_PART2 p) s (s.reclaimLate p rc) :=
  .trans (.of_eq rfl) (State.wortRegs_kept _ p)

/-- With a slot being sent, or a die in doubt, the deadline drops the slots and marks the reclaim late. -/
theorem exec_reclaimWortDeadline_late {s : State} {p : PartId} {rc : Reclaim} (hrc : (s.part p).reclaim = some rc)
    (hWait : (∃ w ∈ (s.sess p).slots, w.sending = true) ∨ ∃ k < 8, s.owner k = p + 1 ∧ s.capState k = 4) :
    exec (.reclaimWortDeadline p) s = .next ((s.sendsDropped p).reclaimLate p rc) := by
  have hStays : ¬((s.sess p).slots.filter (fun w => w.sending) = [] ∧
      (!(s.diesOf (p + 1)).any fun d => decide (s.capState d = 4)) = true) := fun ⟨hNone, hSure⟩ => by
    rcases hWait with ⟨w, hw, hSend⟩ | ⟨k, hk, hOwner, hCap⟩
    · exact List.ne_nil_of_mem (List.mem_filter.mpr ⟨hw, hSend⟩) hNone
    · have hDoubt : ((s.diesOf (p + 1)).any fun d => decide (s.capState d = 4)) = true :=
        List.any_eq_true.mpr ⟨k, List.mem_filter.mpr ⟨List.mem_range.mpr hk, decide_eq_true hOwner⟩, decide_eq_true hCap⟩
      rw [hDoubt] at hSure
      exact Bool.false_ne_true hSure
  show execReclaimWortDeadline p s = _
  unfold execReclaimWortDeadline
  dsimp only
  rw [hrc]
  dsimp only
  rw [if_neg hStays]
  rfl

theorem exec_reclaimWortDeadline {s : State} {p : PartId} {rc : Reclaim} (hrc : (s.part p).reclaim = some rc)
    (hWait : (∃ w ∈ (s.sess p).slots, w.sending = true) ∨ ∃ k < 8, s.owner k = p + 1 ∧ s.capState k = 4) :
    ∃ t, exec (.reclaimWortDeadline p) s = .next t ∧ (t.part p).reclaim = some { rc with late := true } ∧
      t.sess p = { s.sess p with slots := (s.sess p).slots.filter (fun w => !w.sending), msgs := [] } ∧
      (∀ w ∈ (s.sess p).slots, w.sending = true → w.die < 8 → w.slot < 8 →
        t.fget (RF.UPD_SLOT_STATE_STATE w.die w.slot) = 0) ∧
      State.Only [.regs, .mem, .upd, .host, .wort] s t := by
  refine ⟨_, exec_reclaimWortDeadline_late hrc hWait, State.reclaimLate_part _ _ _, ?_, fun w hw hSend hDie hSlot => ?_, ?_⟩
  · rw [State.sess, State.reclaimLate_keeps (keeps_wort _ (by decide)) _ _ rfl]
    exact s.sendsDropped_sess p
  · refine (State.reclaimLate_kept _ _ _ _ ?_).trans (State.sendsDropped_frees hw hSend hSlot)
    simp only [RF.UPD_SLOT_STATE_STATE, Reg.UPD_SLOT_STATE, Reg.WORT_PART, Reg.WORT_PART2]
    omega
  · exact only_of_keeps fun _ K k => State.reclaimLate_keeps (K.mono rfl) _ _ (State.sendsDropped_keeps (K.mono rfl) _ k)

end Sys2Proof.Machine

/-! The release of a partition (R382 steps 5 and 6): its dies, its set-ups, its rings, its registers. -/

namespace Sys2Proof.Machine

/-! Memory of the dies. -/

theorem Tbl.get_outside {α : Type} (d : α) (t : Tbl α) (lo hi k : Nat) :
    Tbl.get d (t.filter fun e => !(decide (lo ≤ e.1) && decide (e.1 < hi))) k =
      if lo ≤ k ∧ k < hi then d else Tbl.get d t k := by
  split
  · rename_i h
    exact Tbl.get_filter_out d t (fun x => !(decide (lo ≤ x) && decide (x < hi))) (by simp [h])
  · rename_i h
    refine Tbl.get_filter d t (fun x => !(decide (lo ≤ x) && decide (x < hi))) ?_
    rw [← Bool.decide_and, decide_eq_false h]
    rfl

/-- A die's memory zeroed, and its training state gone. -/
def State.dieReleased (s : State) (d : Nat) : State := ((s.zeroSram d).zeroLpddr d).dieForget d

theorem State.dieReleased_keeps {P : State → Prop} (K : Keeps [.regs, .mem, .eng, .upd, .cap, .lp] P) {s : State} (d : Nat)
    (hs : P s) : P (s.dieReleased d) :=
  State.dieForget_keeps (K.mono rfl) _ (State.zeroLpddr_keeps (K.mono rfl) _ (State.zeroSram_keeps (K.mono rfl) _ hs))

theorem State.dieReleased_byte (s : State) (d key : Nat) : (s.dieReleased d).byte key =
    if d * 2 ^ 40 ≤ key ∧ key < d * 2 ^ 40 + 2 ^ 37 then 0
    else if d * 2 ^ 40 + sramBase ≤ key ∧ key < d * 2 ^ 40 + sramBase + sramSize then 0 else s.byte key := by
  have hMem : (s.dieReleased d).mem = ((s.zeroSram d).zeroLpddr d).mem := State.dieForget_keeps (keeps_mem _ (by decide)) _ rfl
  rw [State.byte, hMem, State.zeroLpddr]
  dsimp only
  rw [Tbl.get_outside, State.zeroSram]
  dsimp only
  rw [Tbl.get_outside, State.byte]

/-- A die's bytes by their offset in its space. -/
def State.dieBytes (s : State) (d : Nat) : Nat → Byte := fun a => s.byte (d * 2 ^ 40 + a % 2 ^ 40)

/-- LPDDR5X and SRAM read 0. -/
def dieZeroed (x : Nat → Byte) : Prop := ∀ a, a < 2 ^ 37 ∨ sramBase ≤ a ∧ a < sramBase + sramSize → x a = 0

theorem State.dieReleased_zeroed (s : State) (d : Nat) : dieZeroed ((s.dieReleased d).dieBytes d) := by
  intro a ha
  have hMod : a % 2 ^ 40 = a := Nat.mod_eq_of_lt (by simp only [sramBase, sramSize] at ha; omega)
  rw [State.dieBytes, hMod, State.dieReleased_byte]
  rcases ha with h | ⟨hLo, hHi⟩
  · rw [if_pos (by omega)]
  · rw [if_pos (c := _ + sramBase ≤ _ ∧ _) (by omega), ite_self]

theorem State.dieReleased_other (s : State) {d k : Nat} (h : k ≠ d) : (s.dieReleased d).dieBytes k = s.dieBytes k := by
  funext a
  have hLt := Nat.mod_lt a (Nat.two_pow_pos 40)
  rw [State.dieBytes, State.dieReleased_byte, if_neg, if_neg, State.dieBytes]
  · simp only [sramBase, sramSize]
    omega
  · omega

theorem State.dieForget_kept (s : State) (d : Nat) :
    FieldsKept (fun q => q.off ≠ Reg.CAP_DIE_STAT d ∧ q.off ≠ Reg.UPD_SLOT_STATE d) s (s.dieForget d) :=
  .trans (.of_eq (State.setDieCap_regs _ _ _)) (.trans (.setReg _ 0 fun _ => And.left)
    (.trans (.of_eq rfl) (.setReg _ 0 fun _ => And.right)))

theorem State.dieReleased_kept (s : State) (d : Nat) :
    FieldsKept (fun q => q.off ≠ Reg.CAP_DIE_STAT d ∧ q.off ≠ Reg.UPD_SLOT_STATE d) s (s.dieReleased d) :=
  .trans (.of_eq rfl) (State.dieForget_kept _ d)

theorem State.dieReleased_capState (s : State) (d : Nat) : (s.dieReleased d).capState d = 0 := by
  unfold State.dieReleased State.dieForget
  generalize ((s.zeroSram d).zeroLpddr d).setDieCap d {} = t
  refine State.fget_cleared_zero _ ((State.fget_congr (s := t.setReg (Reg.CAP_DIE_STAT d) 0) rfl _).trans ?_)
  rw [State.fget, show (RF.CAP_DIE_STAT_STATE d).off = Reg.CAP_DIE_STAT d from rfl, State.reg_setReg, fld_zero]

/-- The dies of a function, released. -/
def State.diesReleased (s : State) (fn : Nat) : State :=
  (s.diesOf fn).foldl (fun (s : State) d => s.dieReleased d) s

/-- Fields that neither caps nor slots hold. -/
def hiveOrRing (q : FRef) : Prop := q.off < 0x80000 ∨ (0xC0000 ≤ q.off ∧ q.off < 0xC8000)

theorem hiveOrRing.ledger {q : FRef} (h : hiveOrRing q) : ledgerApart q := h.imp id Or.inl

section
variable (s : State) (fn : Nat)

theorem State.mem_diesOf (k : Nat) : k ∈ s.diesOf fn ↔ k < 8 ∧ s.owner k = fn := by
  rw [State.diesOf, List.mem_filter, List.mem_range, decide_eq_true_eq]

theorem State.diesOf_nodup : (s.diesOf fn).Nodup := List.nodup_range.filter _

theorem State.diesReleased_bytes : (∀ k ∈ s.diesOf fn, dieZeroed ((s.diesReleased fn).dieBytes k)) ∧
    ∀ k, k ∉ s.diesOf fn → (s.diesReleased fn).dieBytes k = s.dieBytes k :=
  foldl_pointwise (get := State.dieBytes) (f := fun s d => s.dieReleased d) (R := fun _ => dieZeroed)
    State.dieReleased_zeroed (fun s _ _ h => s.dieReleased_other h) (s.diesOf_nodup fn) s

theorem State.diesReleased_kept : FieldsKept hiveOrRing s (s.diesReleased fn) := by
  refine FieldsKept.foldl s fun t d _ => (t.dieReleased_kept d).mono fun q hq => ?_
  unfold hiveOrRing at hq
  rw [Reg.CAP_DIE_STAT, Reg.UPD_SLOT_STATE]
  omega

theorem State.diesReleased_capState {k : Nat} (hk : k ∈ s.diesOf fn) : (s.diesReleased fn).capState k = 0 := by
  refine (foldl_pointwise (get := State.capState) (f := fun s d => s.dieReleased d) (R := fun _ y => y = 0)
    State.dieReleased_capState (fun s d k h => s.dieReleased_kept d _ ?_) (s.diesOf_nodup fn) s).1 k hk
  show Reg.CAP_DIE_STAT k ≠ Reg.CAP_DIE_STAT d ∧ Reg.CAP_DIE_STAT k ≠ Reg.UPD_SLOT_STATE d
  rw [Reg.CAP_DIE_STAT, Reg.CAP_DIE_STAT, Reg.UPD_SLOT_STATE]
  omega

theorem State.diesReleased_host : (s.diesReleased fn).host = s.host :=
  foldl_keeps (P := fun t => t.host = s.host) (fun _ _ h => State.dieReleased_keeps (keeps_host _ (by decide)) _ h) rfl

/-! Set-ups. -/

/-- A function's set-ups removed. -/
def State.ledgerCleared (s : State) (fn : Nat) : State :=
  (s.host.setups.filter fun u => u.fn == fn).foldl (fun (s : State) u => s.setupRemove u) s

theorem State.setupsRemoved_host (l : List Setup) : ∃ x, (l.foldl (fun (s : State) u => s.setupRemove u) s).host =
    { s.host with setups := x } ∧ ∀ v ∈ x, v ∈ s.host.setups ∧ v ∉ l := by
  induction l generalizing s with
  | nil => exact ⟨s.host.setups, rfl, fun v hv => ⟨hv, List.not_mem_nil⟩⟩
  | cons u l ih =>
    obtain ⟨x, hx, hLeft⟩ := ih (s.setupRemove u)
    rw [State.setupRemove_host] at hx hLeft
    refine ⟨x, hx, fun v hv => ?_⟩
    obtain ⟨hIn, hOut⟩ := hLeft v hv
    obtain ⟨hMem, hHandle⟩ := List.mem_filter.mp hIn
    refine ⟨hMem, fun hCons => (List.mem_cons.mp hCons).elim (fun hu => ?_) hOut⟩
    rw [hu] at hHandle
    simp at hHandle

theorem State.ledgerCleared_host : ∃ x, (s.ledgerCleared fn).host = { s.host with setups := x } ∧ ∀ v ∈ x, v.fn ≠ fn := by
  obtain ⟨x, hx, hLeft⟩ := s.setupsRemoved_host (s.host.setups.filter fun u => u.fn == fn)
  refine ⟨x, hx, fun v hv hFn => ?_⟩
  obtain ⟨hIn, hOut⟩ := hLeft v hv
  exact hOut (List.mem_filter.mpr ⟨hIn, beq_iff_eq.mpr hFn⟩)

theorem State.ledgerCleared_kept {fn : Nat} (hf : fn ≤ 8) : FieldsKept ledgerApart s (s.ledgerCleared fn) := by
  refine FieldsKept.foldl s fun t u hu => t.setupRemove_kept ?_
  rw [beq_iff_eq.mp (List.mem_filter.mp hu).2]
  exact hf

theorem State.ledgerCleared_mem : (s.ledgerCleared fn).mem = s.mem :=
  foldl_keeps (P := fun t => t.mem = s.mem) (fun _ _ h => State.setupRemove_keeps (keeps_mem _ (by decide)) _ h) rfl

/-! Rings. -/

/-- A function's rings, DISABLED at once. -/
def State.ringsDropped (s : State) (fn : Nat) : State := (s.ringsAll fn).foldl (fun (s : State) n => s.ringDrop n) s

theorem State.ringDrop_lists (n : Nat) : (s.ringDrop n).host.descs = (s.host.descs.filter fun d => d.ring != n) ∧
    (s.ringDrop n).host.setups = s.host.setups := by
  unfold State.ringDrop
  dsimp only
  rw [State.fset_host]
  exact ⟨rfl, rfl⟩

theorem State.ringDrop_desc {ring tag n : Nat} (h : n ≠ ring) : (s.ringDrop n).desc ring tag = s.desc ring tag := by
  rw [State.desc, (s.ringDrop_lists n).1, List.find?_filter, State.desc]
  congr 1
  funext d
  by_cases hd : d.ring = ring ∧ d.tag = tag
  · simp [hd, Ne.symm h]
  · simp [hd]

theorem State.ringDrop_kept (n : Nat) :
    FieldsKept (fun q => q.off ≠ Reg.RING_STAT n ∧ q.apart (RF.RING_CFG_EN n)) s (s.ringDrop n) :=
  .trans (.of_eq rfl) (.trans (.setReg _ 0 fun _ => And.left) ((FieldsKept.fset _ _ _).mono fun _ => And.right))

/-- Fields that no drop of a ring touches. -/
def dropApart (q : FRef) : Prop := q.off < 0xC0000 ∨ 0xC8000 ≤ q.off ∨ ∃ n, q = RF.RING_CFG_OWNER n

theorem dropApart.drop {q : FRef} (h : dropApart q) {n : Nat} (hn : n < 1024) :
    q.off ≠ Reg.RING_STAT n ∧ q.apart (RF.RING_CFG_EN n) := by
  rw [FRef.apart, Reg.RING_STAT, show (RF.RING_CFG_EN n).off = 0xC0010 + 0x20 * n from rfl]
  rcases h with h | h | ⟨m, rfl⟩
  · omega
  · omega
  · refine ⟨?_, Or.inr (Or.inr (by simp [RF.RING_CFG_EN, RF.RING_CFG_OWNER]))⟩
    rw [show (RF.RING_CFG_OWNER m).off = 0xC0010 + 0x20 * m from rfl]
    omega

theorem State.ringDrop_state (n : Nat) : (s.ringDrop n).ringState n = 0 := by
  refine State.fget_fset_zero _ ?_
  rw [State.fget, show (RF.RING_STAT_STATE n).off = Reg.RING_STAT n from rfl, State.reg_setReg, fld_zero]

theorem State.ringDrop_zero {q : FRef} (n : Nat) (h : s.fget q = 0) : (s.ringDrop n).fget q = 0 := by
  refine State.fget_fset_zero _ (State.fget_cleared_zero _ ?_)
  exact (State.fget_congr (s := s) rfl q).trans h

variable {fn}

theorem State.ringsDropped_kept (hf : fn ≠ 0) : FieldsKept dropApart s (s.ringsDropped fn) :=
  FieldsKept.foldl s fun t n hn => (t.ringDrop_kept n).mono fun _ hq => hq.drop ((s.mem_ringsAll hf).mp hn).1

theorem State.ringsDropped_state (hf : fn ≠ 0) {n : Nat} (hn : n < 1024) (hFn : s.ringFn n = fn) :
    (s.ringsDropped fn).ringState n = 0 :=
  foldl_reaches (P := fun t => t.ringState n = 0) ((s.mem_ringsAll hf).mpr ⟨hn, hFn⟩) (fun t => t.ringDrop_state n)
    (fun t m h => t.ringDrop_zero m h) s

theorem State.ringsDropped_desc (hf : fn ≠ 0) {ring : Nat} (tag : Nat) (h : ring < 1024 → s.ringFn ring ≠ fn) :
    (s.ringsDropped fn).desc ring tag = s.desc ring tag :=
  List.foldlRecOn (motive := fun t : State => t.desc ring tag = s.desc ring tag) _ _ rfl fun t ht n hn => by
    obtain ⟨hLt, hFn⟩ := (s.mem_ringsAll hf).mp hn
    have hne : n ≠ ring := fun e => h (e ▸ hLt) (e ▸ hFn)
    exact (t.ringDrop_desc hne).trans ht

theorem State.ringsDropped_setups : (s.ringsDropped fn).host.setups = s.host.setups :=
  foldl_keeps (P := fun t => t.host.setups = s.host.setups) (fun t n h => (t.ringDrop_lists n).2.trans h) rfl

theorem State.ringsDropped_mem : (s.ringsDropped fn).mem = s.mem :=
  foldl_keeps (P := fun t => t.mem = s.mem) (fun _ _ h => State.ringDrop_keeps (keeps_mem _ (by decide)) _ h) rfl

end

/-! Registers, session and record (R382, R482). -/

section
variable (s : State) (p : Nat)

/-- A die returned to PF0 with JOB 0. -/
def State.dieReturned (s : State) (k : Nat) : State := (s.fset (RF.HIVE_DIEOWN_OWNER k) 0).fset (RF.FAB_NI_CFG_JOB k) 0

theorem State.dieReturned_zero {s : State} {q : FRef} (k : Nat) (h : s.fget q = 0) : (s.dieReturned k).fget q = 0 :=
  State.fget_fset_zero _ (State.fget_fset_zero _ h)

theorem State.dieReturned_owner {k : Nat} (hk : k < 8) : (s.dieReturned k).owner k = 0 := by
  refine State.fget_fset_zero _ ((State.fget_fset s _ 0 ?_).trans (Nat.zero_mod _))
  simp only [RF.HIVE_DIEOWN_OWNER]
  omega

theorem State.dieReturned_dieJob (k : Nat) : (s.dieReturned k).dieJob k = 0 :=
  (State.fget_fset _ _ 0 (by simp only [RF.FAB_NI_CFG_JOB]; omega)).trans (Nat.zero_mod _)

/-- The partition's dies returned. -/
def State.diesReturned (s : State) (p : Nat) : State :=
  (s.diesOf (p + 1)).foldl (fun (s : State) k => s.dieReturned k) s

/-- Its registers, session and record gone. -/
def State.partGone (s : State) (p : Nat) : State :=
  ((((s.setPart p {}).setSess p {}).setReg (Reg.HIVE_PART p) 0).setReg (Reg.WORT_PART p) 0).setReg (Reg.WORT_PART2 p) 0

theorem State.partRelease_steps : s.partRelease p = (s.diesReturned p).partGone p := rfl

theorem State.diesReturned_kept : FieldsKept (fun q => q.off ≠ Reg.HIVE_DIEOWN ∧ ∀ k, q.off ≠ Reg.FAB_NI_CFG k) s
    (s.diesReturned p) :=
  FieldsKept.foldl s fun t k _ => .trans (.setReg t _ fun _ => And.left) (.setReg _ _ fun _ hq => hq.2 k)

theorem State.diesReturned_own {k : Nat} (hk : k ∈ s.diesOf (p + 1)) :
    (s.diesReturned p).owner k = 0 ∧ (s.diesReturned p).dieJob k = 0 := by
  have hLt := ((s.mem_diesOf _ k).mp hk).1
  exact ⟨foldl_reaches (P := fun t => t.owner k = 0) hk (fun t => t.dieReturned_owner hLt)
      (fun t m h => State.dieReturned_zero m h) s,
    foldl_reaches (P := fun t => t.dieJob k = 0) hk (fun t => t.dieReturned_dieJob k)
      (fun t m h => State.dieReturned_zero m h) s⟩

theorem State.partGone_kept : FieldsKept (fun q => q.off ≠ Reg.HIVE_PART p ∧ q.off ≠ Reg.WORT_PART p ∧
    q.off ≠ Reg.WORT_PART2 p) s (s.partGone p) :=
  .trans (.of_eq rfl) (.trans (.setReg _ 0 fun _ hq => hq.1) (.trans (.setReg _ 0 fun _ hq => hq.2.1)
    (.setReg _ 0 fun _ hq => hq.2.2)))

theorem State.partGone_valid : (s.partGone p).fget (RF.HIVE_PART_VALID p) = 0 := by
  refine State.fget_cleared_zero _ (State.fget_cleared_zero _ ?_)
  rw [State.fget, show (RF.HIVE_PART_VALID p).off = Reg.HIVE_PART p from rfl, State.reg_setReg, fld_zero]

theorem State.partGone_host : (s.partGone p).host = { s.host with parts := s.host.parts.set {} p {} } := by
  rw [State.partGone, State.setReg_host, State.setReg_host, State.setReg_host]
  rfl

theorem State.partRelease_host : (s.partRelease p).host = { s.host with parts := s.host.parts.set {} p {} } := by
  have hHost : (s.diesReturned p).host = s.host := foldl_keeps (P := fun t => t.host = s.host)
    (fun t k h => by rw [State.dieReturned, State.fset_host, State.fset_host, h]) rfl
  rw [State.partRelease_steps, State.partGone_host, hHost]

/-- Registers of partitions, and of what else a release writes last. -/
def releaseApart (q : FRef) : Prop := (∃ n < 1024, q = RF.RING_STAT_STATE n) ∨ ∃ k, q = RF.CAP_DIE_STAT_STATE k

variable {p}

theorem State.partRelease_kept (hp : p < 8) : FieldsKept releaseApart s (s.partRelease p) := by
  have hOff : ∀ q, releaseApart q → (q.off ≠ Reg.HIVE_DIEOWN ∧ ∀ k, q.off ≠ Reg.FAB_NI_CFG k) ∧
      q.off ≠ Reg.HIVE_PART p ∧ q.off ≠ Reg.WORT_PART p ∧ q.off ≠ Reg.WORT_PART2 p := fun q hq => by
    rw [Reg.HIVE_DIEOWN, Reg.HIVE_PART, Reg.WORT_PART, Reg.WORT_PART2]
    rcases hq with ⟨n, hn, rfl⟩ | ⟨k, rfl⟩
    · rw [show (RF.RING_STAT_STATE n).off = 0xC0018 + 0x20 * n from rfl]
      exact ⟨⟨by omega, fun k => by rw [Reg.FAB_NI_CFG]; omega⟩, by omega⟩
    · rw [show (RF.CAP_DIE_STAT_STATE k).off = 0x1025000 + 0x200000 * k from rfl]
      exact ⟨⟨by omega, fun k => by rw [Reg.FAB_NI_CFG]; omega⟩, by omega⟩
  rw [State.partRelease_steps]
  exact ((s.diesReturned_kept p).mono fun q hq => (hOff q hq).1).trans
    ((State.partGone_kept _ p).mono fun q hq => (hOff q hq).2)

theorem State.partRelease_own (hp : p < 8) {k : Nat} (hk : k ∈ s.diesOf (p + 1)) :
    (s.partRelease p).owner k = 0 ∧ (s.partRelease p).dieJob k = 0 := by
  obtain ⟨hOwner, hJob⟩ := s.diesReturned_own p hk
  rw [State.partRelease_steps]
  refine ⟨(State.partGone_kept _ p _ ?_).trans hOwner, (State.partGone_kept _ p _ ?_).trans hJob⟩
  · simp only [RF.HIVE_DIEOWN_OWNER, Reg.HIVE_DIEOWN, Reg.HIVE_PART, Reg.WORT_PART, Reg.WORT_PART2]
    omega
  · simp only [RF.FAB_NI_CFG_JOB, Reg.FAB_NI_CFG, Reg.HIVE_PART, Reg.WORT_PART, Reg.WORT_PART2]
    omega

theorem State.partRelease_mem : (s.partRelease p).mem = s.mem := State.partRelease_keeps (keeps_mem _ (by decide)) _ rfl

end

end Sys2Proof.Machine

/-! The end of a reclaim (R382), and the obligation on completions, held launches and reclaims. -/

namespace Sys2Proof.Machine

/-- The partition's dies, set-ups and rings emptied: all of a release but the partition's own record. -/
def State.emptied (s : State) (p : Nat) : State :=
  ((s.diesReleased (p + 1)).ledgerCleared (p + 1)).ringsDropped (p + 1)

section
variable (s : State) {p : Nat}

theorem State.emptied_setups : ∀ u ∈ (s.emptied p).host.setups, u.fn ≠ p + 1 := by
  obtain ⟨x, hx, hLeft⟩ := (s.diesReleased (p + 1)).ledgerCleared_host (p + 1)
  rw [State.emptied, State.ringsDropped_setups, hx]
  exact hLeft

theorem State.emptied_bytes (k : Nat) : (s.emptied p).dieBytes k = (s.diesReleased (p + 1)).dieBytes k := by
  funext a
  rw [State.dieBytes, State.byte, State.emptied, State.ringsDropped_mem, State.ledgerCleared_mem]
  rfl

variable (hp : p < 8)
include hp

/-- What zeroing the dies and removing the set-ups leaves alone. -/
theorem State.ledgerCleared_hiveOrRing : FieldsKept hiveOrRing s ((s.diesReleased (p + 1)).ledgerCleared (p + 1)) :=
  (s.diesReleased_kept _).trans ((State.ledgerCleared_kept _ hp).mono fun _ => hiveOrRing.ledger)

theorem State.ledgerCleared_ringFn {n : Nat} (hn : n < 1024) :
    ((s.diesReleased (p + 1)).ledgerCleared (p + 1)).ringFn n = s.ringFn n := by
  refine s.ledgerCleared_hiveOrRing hp _ (Or.inr ?_)
  simp only [RF.RING_CFG_OWNER, Reg.RING_CFG]
  omega

theorem State.emptied_owner (k : Nat) : (s.emptied p).owner k = s.owner k :=
  (State.ringsDropped_kept _ (Nat.succ_ne_zero p) _ (Or.inl (by simp [RF.HIVE_DIEOWN_OWNER, Reg.HIVE_DIEOWN]))).trans
    (s.ledgerCleared_hiveOrRing hp _ (Or.inl (by simp [RF.HIVE_DIEOWN_OWNER, Reg.HIVE_DIEOWN])))

theorem State.emptied_diesOf (fn : Nat) : (s.emptied p).diesOf fn = s.diesOf fn := by
  simp only [State.diesOf, s.emptied_owner hp]

theorem State.emptied_capState {k : Nat} (hk : k ∈ s.diesOf (p + 1)) : (s.emptied p).capState k = 0 := by
  refine (State.ringsDropped_kept _ (Nat.succ_ne_zero p) _ (Or.inr (Or.inl ?_))).trans
    ((State.ledgerCleared_kept _ hp _ (Or.inr (Or.inr ?_))).trans (s.diesReleased_capState _ hk))
  · simp only [RF.CAP_DIE_STAT_STATE, Reg.CAP_DIE_STAT]
    omega
  · simp only [RF.CAP_DIE_STAT_STATE, Reg.CAP_DIE_STAT]
    omega

theorem State.emptied_ringState {n : Nat} (hn : n < 1024) (hFn : s.ringFn n = p + 1) : (s.emptied p).ringState n = 0 :=
  State.ringsDropped_state _ (Nat.succ_ne_zero p) hn ((s.ledgerCleared_ringFn hp hn).trans hFn)

theorem State.emptied_desc {ring : Nat} (tag : Nat) (h : s.ringFn ring ≠ p + 1) :
    (s.emptied p).desc ring tag = s.desc ring tag := by
  obtain ⟨x, hx, -⟩ := (s.diesReleased (p + 1)).ledgerCleared_host (p + 1)
  refine (State.ringsDropped_desc _ (Nat.succ_ne_zero p) tag fun hn => ?_).trans (State.desc_congr ?_ _ _)
  · rw [s.ledgerCleared_ringFn hp hn]
    exact h
  · rw [hx, State.diesReleased_host]

end

theorem State.byte_dieBytes (s : State) (key : Nat) : s.byte key = s.dieBytes (key / 2 ^ 40) key := by
  rw [State.dieBytes, Nat.div_add_mod']

/-! The reclaim's own completion. -/

/-- A release recorded, and its descriptor done. -/
def State.reclaimDone (s : State) (rc : Reclaim) (body : Bytes) (ms : Nat) : State :=
  (s.hiveRec 0x8807 0 0 body).descDone rc.ring rc.tag (if rc.late then stTIMEOUT else stOK) 0 ms

section
variable {s : State} {rc : Reclaim} {body : Bytes} {ms : Nat}

theorem State.reclaimDone_kept : FieldsKept logApart s (s.reclaimDone rc body ms) :=
  .trans (State.hiveRec_kept s _ _ _ _) (.of_eq rfl)

theorem State.reclaimDone_keeps {P : State → Prop} (K : Keeps [.out, .regs, .log, .host] P) (hs : P s) :
    P (s.reclaimDone rc body ms) := State.descDone_keeps (K.mono rfl) _ _ _ _ _ (State.hiveRec_keeps (K.mono rfl) _ _ _ _ hs)

theorem State.reclaimDone_host : ∃ x, (s.reclaimDone rc body ms).host = { s.host with descs := x } :=
  ⟨_, by rw [State.reclaimDone, State.descDone, State.updDesc, State.mapDescs, State.hiveRec_host]⟩

theorem State.reclaimDone_desc {d : Desc} (h : s.desc rc.ring rc.tag = some d) (hSt : d.st = 2) :
    (s.reclaimDone rc body ms).desc rc.ring rc.tag = some { d with
      st := 3, status := if rc.late then stTIMEOUT else stOK, reason := 0, detail := ms } := by
  have hSame : (s.hiveRec 0x8807 0 0 body).desc rc.ring rc.tag = some d :=
    (State.desc_congr (by rw [State.hiveRec_host]) _ _).trans h
  refine (State.desc_updDesc hSame fun d => ?_).trans (congrArg some (if_neg (by rw [hSt]; decide)))
  split
  · exact ⟨rfl, rfl⟩
  · exact ⟨rfl, rfl⟩

end

/-! The release as a whole. -/

/-- A partition released, and the reclaim recorded and done. -/
def State.released (s : State) (p : Nat) (rc : Reclaim) (body : Bytes) (ms : Nat) : State :=
  ((s.emptied p).partRelease p).reclaimDone rc body ms

section
variable (s : State) {p : Nat} (rc : Reclaim) (body : Bytes) (ms : Nat)

theorem State.released_kept : FieldsKept logApart ((s.emptied p).partRelease p) (s.released p rc body ms) :=
  State.reclaimDone_kept

theorem State.released_lists : (s.released p rc body ms).host.parts = (s.emptied p).host.parts.set {} p {} ∧
    (s.released p rc body ms).host.setups = (s.emptied p).host.setups := by
  obtain ⟨x, hx⟩ := State.reclaimDone_host (s := (s.emptied p).partRelease p) (rc := rc) (body := body) (ms := ms)
  rw [State.released, hx]
  exact ⟨by rw [State.partRelease_host], by rw [State.partRelease_host]⟩

theorem State.released_part : (s.released p rc body ms).part p = {} := by
  rw [State.part, (s.released_lists rc body ms).1, Tbl.get_set]

theorem State.released_setups : ∀ u ∈ (s.released p rc body ms).host.setups, u.fn ≠ p + 1 := by
  rw [(s.released_lists rc body ms).2]
  exact s.emptied_setups

theorem State.released_bytes (k : Nat) : (s.released p rc body ms).dieBytes k = (s.diesReleased (p + 1)).dieBytes k := by
  have hMem : (s.released p rc body ms).mem = (s.emptied p).mem :=
    State.reclaimDone_keeps (keeps_mem _ (by decide)) (State.partRelease_mem _)
  rw [← State.emptied_bytes]
  funext a
  rw [State.dieBytes, State.byte, hMem]
  rfl

theorem State.released_zeroed {k a : Nat} (hk : k ∈ s.diesOf (p + 1))
    (ha : a < 2 ^ 37 ∨ sramBase ≤ a ∧ a < sramBase + sramSize) : (s.released p rc body ms).byte (k * 2 ^ 40 + a) = 0 := by
  have hMod : a % 2 ^ 40 = a := Nat.mod_eq_of_lt (by simp only [sramBase, sramSize] at ha; omega)
  have hZero : (s.released p rc body ms).dieBytes k a = 0 := by
    rw [State.released_bytes]
    exact (s.diesReleased_bytes (p + 1)).1 k hk a ha
  rwa [State.dieBytes, hMod] at hZero

theorem State.released_byte {key : Nat} (h : s.owner (key / 2 ^ 40) ≠ p + 1) :
    (s.released p rc body ms).byte key = s.byte key := by
  rw [State.byte_dieBytes, State.byte_dieBytes s, State.released_bytes,
    (s.diesReleased_bytes (p + 1)).2 _ fun hMem => h ((s.mem_diesOf _ _).mp hMem).2]

variable (hp : p < 8)
include hp

theorem State.released_die {k : Nat} (hk : k ∈ s.diesOf (p + 1)) : (s.released p rc body ms).owner k = 0 ∧
    (s.released p rc body ms).dieJob k = 0 ∧ (s.released p rc body ms).capState k = 0 := by
  obtain ⟨hOwner, hJob⟩ := (s.emptied p).partRelease_own hp (by rwa [s.emptied_diesOf hp])
  have hCap : ((s.emptied p).partRelease p).capState k = 0 :=
    ((s.emptied p).partRelease_kept hp _ (Or.inr ⟨k, rfl⟩)).trans (s.emptied_capState hp hk)
  refine ⟨(s.released_kept rc body ms _ (logApart_of_ne ?_)).trans hOwner,
    (s.released_kept rc body ms _ (logApart_of_ne ?_)).trans hJob,
    (s.released_kept rc body ms _ (logApart_of_ne ?_)).trans hCap⟩
  · simp only [RF.HIVE_DIEOWN_OWNER, Reg.HIVE_DIEOWN, Reg.LOG_STAT, Reg.LOG_RDSEQ, Reg.LOG_MIRSEQ, Reg.HIVE_ISUM]
    omega
  · simp only [RF.FAB_NI_CFG_JOB, Reg.FAB_NI_CFG, Reg.LOG_STAT, Reg.LOG_RDSEQ, Reg.LOG_MIRSEQ, Reg.HIVE_ISUM]
    omega
  · simp only [RF.CAP_DIE_STAT_STATE, Reg.CAP_DIE_STAT, Reg.LOG_STAT, Reg.LOG_RDSEQ, Reg.LOG_MIRSEQ, Reg.HIVE_ISUM]
    omega

theorem State.released_valid : (s.released p rc body ms).fget (RF.HIVE_PART_VALID p) = 0 := by
  refine (s.released_kept rc body ms _ (logApart_of_ne ?_)).trans (State.partGone_valid _ _)
  simp only [RF.HIVE_PART_VALID, Reg.HIVE_PART, Reg.LOG_STAT, Reg.LOG_RDSEQ, Reg.LOG_MIRSEQ, Reg.HIVE_ISUM]
  omega

theorem State.released_ringState {n : Nat} (hn : n < 1024) (hFn : s.ringFn n = p + 1) :
    (s.released p rc body ms).ringState n = 0 :=
  (s.released_kept rc body ms _ (logApart_of_ne (ringStat_plain hn))).trans
    (((s.emptied p).partRelease_kept hp _ (Or.inl ⟨n, hn, rfl⟩)).trans (s.emptied_ringState hp hn hFn))

variable {rc}

theorem State.released_desc {d : Desc} (hDesc : s.desc rc.ring rc.tag = some d) (hSt : d.st = 2)
    (hRing : s.ringFn rc.ring ≠ p + 1) : (s.released p rc body ms).desc rc.ring rc.tag = some { d with
      st := 3, status := if rc.late then stTIMEOUT else stOK, reason := 0, detail := ms } := by
  refine State.reclaimDone_desc ?_ hSt
  have hSame : ((s.emptied p).partRelease p).host.descs = (s.emptied p).host.descs := by rw [State.partRelease_host]
  rw [State.desc_congr hSame, s.emptied_desc hp _ hRing, hDesc]

end

section
variable {s : State} {p : PartId} {rc : Reclaim}

theorem exec_reclaimRelease_ready (hrc : (s.part p).reclaim = some rc) (hReset : s.fget (RF.HIVE_PART_RESET p) = 0)
    (hReady : s.reclaimReady p rc.late = true) : ∃ body, exec (.reclaimRelease p) s =
      .next (s.released p rc body ((s.clk - rc.start) / 1000000)) := by
  refine ⟨pay [(1, p.val), (1, if rc.late then stTIMEOUT else stOK), (2, 0), (4, rc.d),
    (4, (s.clk - rc.start) / 1000000)], ?_⟩
  show execReclaimRelease p s = _
  unfold execReclaimRelease
  dsimp only
  rw [hrc]
  dsimp only
  rw [if_pos ⟨hReset, hReady⟩]
  rfl

/-- A release, once ready, empties the partition, returns its dies zeroed, and ends the reclaim. -/
theorem exec_reclaimRelease {d : Desc} (hrc : (s.part p).reclaim = some rc) (hReset : s.fget (RF.HIVE_PART_RESET p) = 0)
    (hReady : s.reclaimReady p rc.late = true) (hDesc : s.desc rc.ring rc.tag = some d) (hSt : d.st = 2)
    (hRing : s.ringFn rc.ring ≠ p + 1) :
    ∃ t, exec (.reclaimRelease p) s = .next t ∧
      t.desc rc.ring rc.tag = some { d with
        st := 3, status := if rc.late then stTIMEOUT else stOK, reason := 0
        detail := (s.clk - rc.start) / 1000000 } ∧
      (∀ k < 8, s.owner k = p + 1 → t.owner k = 0 ∧ t.dieJob k = 0 ∧ t.capState k = 0 ∧
        ∀ a, (a < 2 ^ 37 ∨ sramBase ≤ a ∧ a < sramBase + sramSize) → t.byte (k * 2 ^ 40 + a) = 0) ∧
      (∀ key, s.owner (key / 2 ^ 40) ≠ p + 1 → t.byte key = s.byte key) ∧
      t.fget (RF.HIVE_PART_VALID p) = 0 ∧ t.part p = {} ∧
      (∀ u ∈ t.host.setups, u.fn ≠ p + 1) ∧ ∀ n < 1024, s.ringFn n = p + 1 → t.ringState n = 0 := by
  obtain ⟨body, hExec⟩ := exec_reclaimRelease_ready hrc hReset hReady
  refine ⟨_, hExec, s.released_desc body _ p.isLt hDesc hSt hRing, fun k hk hOwn => ?_, fun _ => s.released_byte rc body _,
    s.released_valid rc body _ p.isLt, s.released_part rc body _, s.released_setups rc body _,
    fun _ => s.released_ringState rc body _ p.isLt⟩
  have hMem : k ∈ s.diesOf (p + 1) := (s.mem_diesOf _ k).mpr ⟨hk, hOwn⟩
  obtain ⟨hOwner, hJob, hCap⟩ := s.released_die rc body ((s.clk - rc.start) / 1000000) p.isLt hMem
  exact ⟨hOwner, hJob, hCap, fun _ => s.released_zeroed rc body _ hMem⟩

end

/-- Settles O42: the completion of the only descriptor, a held launch, the wort deadline and the release, each by the
rule of its operation. -/
theorem descriptorsCompleteAndReclaimEnds : Obligations.DescriptorsCompleteAndReclaimEnds := by
  unfold Obligations.DescriptorsCompleteAndReclaimEnds
  refine fun s => ⟨fun r d hDescs hRing hDone hWait hTag hHeld hOpen hLog c hc => ⟨fun hOther hRoom => ?_,
    fun hOther hFull => ?_, fun hOpc hOk u hFind => ?_⟩, fun _ _ _ => exec_beatLaunchStart,
    fun _ _ => exec_reclaimWortDeadline, fun _ _ _ => exec_reclaimRelease⟩
  · obtain ⟨hExec, hNone⟩ := exec_descriptorComplete_other hDescs hRing hDone hWait hTag hHeld hOpen hOther
    rw [← hc] at hExec hNone
    exact ⟨_, hExec, hNone, State.complete_written r c _ hHeld hLog hRoom⟩
  · obtain ⟨hExec, hNone⟩ := exec_descriptorComplete_other hDescs hRing hDone hWait hTag hHeld hOpen hOther
    rw [← hc] at hExec hNone
    exact ⟨_, hExec, hNone, State.complete_held r c _ hHeld hFull⟩
  · rw [hc]
    exact exec_descriptorComplete_teardown hDescs hRing hDone hWait hTag hHeld hOpen hOpc hOk hFind

end Sys2Proof.Machine

/-! Drained sums and windowed products (R51, R53, R54). -/

namespace Sys2Proof.Machine

/-! The range of a drained sum. -/

theorem clampI_of_lt {lo hi x : Int} (h : x < lo) : clampI lo hi x = lo := by
  unfold clampI
  omega

theorem clampI_of_gt {lo hi x : Int} (hLo : lo ≤ hi) (h : hi < x) : clampI lo hi x = hi := by
  unfold clampI
  omega

theorem clampI_of_mem {lo hi x : Int} (hLo : lo ≤ x) (hHi : x ≤ hi) : clampI lo hi x = x := by
  unfold clampI
  omega

theorem drainSum_below {a : Int} (h : a < -(2 ^ 55)) : drainSum a = (-(2 ^ 55), nfASAT) := by
  unfold drainSum
  rw [clampI_of_lt h]
  exact congrArg _ (if_pos (by omega))

theorem drainSum_above {a : Int} (h : 2 ^ 55 - 1 < a) : drainSum a = (2 ^ 55 - 1, nfASAT) := by
  unfold drainSum
  rw [clampI_of_gt (by decide) h]
  exact congrArg _ (if_pos (by omega))

theorem drainSum_within {a : Int} (hLo : -(2 ^ 55) ≤ a) (hHi : a ≤ 2 ^ 55 - 1) : drainSum a = (a, 0) := by
  unfold drainSum
  rw [clampI_of_mem hLo hHi]
  exact congrArg _ (if_neg (by omega))

/-- Without NF the drained value is the saturated sum. -/
theorem drainNum_of_sum {a b : Int} {f : Nat} (wb : Int) (h : drainSum a = (b, f)) :
    drainNum wb a false = (numOfInt b wb, f) := by
  unfold drainNum
  rw [h]
  rfl

/-- Settles O11: NF decides first; else the sum lies below, in or above the range. -/
theorem drainSaturatesAndMarks : Obligations.DrainSaturatesAndMarks := by
  intro wb sum
  refine ⟨rfl, fun hLo hHi => ?_, fun hBelow => ?_, fun hAbove => ?_⟩
  · exact drainNum_of_sum wb (drainSum_within hLo hHi)
  · exact drainNum_of_sum wb (drainSum_below hBelow)
  · exact drainNum_of_sum wb (drainSum_above hAbove)

/-! Rounding to the nearest integer, a tie to the even one (R58). -/

/-- `r` is the integer nearest to `x`, the even one of two. -/
def NearestEven (x : ℚ) (r : ℤ) : Prop := |x - r| ≤ 1 / 2 ∧ (|x - r| = 1 / 2 → 2 ∣ r)

theorem nearestEven_self (r : ℤ) : NearestEven r r := by
  unfold NearestEven
  norm_num

theorem NearestEven.not_succ {x : ℚ} {r : ℤ} (h : NearestEven x r) : ¬ NearestEven x (r + 1) := by
  rintro ⟨hNear, hTie⟩
  obtain ⟨hNear', hTie'⟩ := h
  rw [abs_le] at hNear hNear'
  push_cast at hNear hTie
  have hMid : x = r + 1 / 2 := by linarith [hNear.1, hNear'.2]
  have hEven : 2 ∣ r := hTie' (by rw [hMid]; norm_num)
  have hOdd : 2 ∣ r + 1 := hTie (by rw [hMid]; norm_num [abs_eq])
  omega

theorem NearestEven.unique {x : ℚ} {r q : ℤ} (hr : NearestEven x r) (hq : NearestEven x q) : r = q := by
  have hClose : |(r : ℚ) - q| ≤ 1 := by
    have := abs_sub_le (r : ℚ) x q
    rw [abs_sub_comm (r : ℚ) x] at this
    linarith [hr.1, hq.1]
  have hClose : |r - q| ≤ 1 := by exact_mod_cast hClose
  rw [abs_le] at hClose
  by_contra hNe
  rcases (by omega : q = r + 1 ∨ r = q + 1) with rfl | rfl
  · exact hr.not_succ hq
  · exact hq.not_succ hr

theorem NearestEven.neg {x : ℚ} {r : ℤ} (h : NearestEven x r) : NearestEven (-x) (-r) := by
  have hAbs : |-x - ((-r : ℤ) : ℚ)| = |x - r| := by
    rw [← abs_neg]
    push_cast
    ring_nf
  unfold NearestEven at *
  rw [hAbs]
  exact ⟨h.1, fun hTie => (dvd_neg.mpr (h.2 hTie))⟩

/-- The same of a fraction, in integers. -/
theorem nearestEven_div {a d k : ℤ} (hd : 0 < d) (hNear : |2 * (a - d * k)| ≤ d)
    (hTie : |2 * (a - d * k)| = d → 2 ∣ k) : NearestEven (a / d) k := by
  have hd' : (0 : ℚ) < d := by exact_mod_cast hd
  have hAbs : |(a : ℚ) / d - k| = |2 * (a - d * k)| / (2 * d : ℚ) := by
    rw [show (a : ℚ) / d - k = 2 * (a - d * k) / (2 * d) by field_simp, abs_div,
      abs_of_pos (by positivity : 0 < 2 * (d : ℚ))]
    push_cast
    rfl
  unfold NearestEven
  rw [hAbs, div_le_div_iff₀ (by positivity) (by norm_num), div_eq_div_iff (by positivity) (by norm_num)]
  refine ⟨?_, fun h => hTie ?_⟩
  · have : ((|2 * (a - d * k)| : ℤ) : ℚ) ≤ d := by exact_mod_cast hNear
    linarith
  · have : ((|2 * (a - d * k)| : ℤ) : ℚ) = d := by linarith
    exact_mod_cast this

/-- The quotient of two numbers, rounded to the nearest integer, a tie to the even one. -/
def evenQuot (a d : Nat) : Int :=
  if d < 2 * (a % d) ∨ (2 * (a % d) = d ∧ a / d % 2 = 1) then (a / d : Nat) + 1 else (a / d : Nat)

theorem evenQuot_nearestEven (a : Nat) {d : Nat} (hd : 0 < d) : NearestEven ((a : ℤ) / (d : ℤ)) (evenQuot a d) := by
  have hSplit : (a : ℤ) = d * (a / d : Nat) + (a % d : Nat) := by exact_mod_cast (Nat.div_add_mod a d).symm
  have hRem := Nat.mod_lt a hd
  refine nearestEven_div (by omega) ?_ ?_ <;> unfold evenQuot <;> split
  · rw [mul_add, mul_one, abs_le]
    omega
  · rw [abs_le]
    omega
  · rw [mul_add, mul_one, abs_eq (by omega)]
    omega
  · rw [abs_eq (by omega)]
    omega

/-- R58 without cut-off bits. -/
theorem roundShift_rne (x : Int) (s : Nat) :
    roundShift .rne x s false = if x < 0 then -evenQuot x.natAbs (2 ^ s) else evenQuot x.natAbs (2 ^ s) := by
  have hUp : ∀ q m h : Nat, (if 2 * m > h then true else if 2 * m = h then false || decide (q % 2 = 1) else false) =
      decide (h < 2 * m ∨ (2 * m = h ∧ q % 2 = 1)) := fun q m h => by
    rcases lt_trichotomy (2 * m) h with hLt | hEq | hGt
    · simp [hLt.ne, hLt.not_gt]
    · simp [hEq]
    · simp [hGt]
  unfold roundShift
  dsimp only
  rw [hUp]
  simp only [decide_eq_true_eq]
  rfl

theorem roundShift_nearestEven (x : Int) (s : Nat) : NearestEven (x / (2 ^ s : Nat)) (roundShift .rne x s false) := by
  have hMag := evenQuot_nearestEven x.natAbs (Nat.two_pow_pos s)
  rw [roundShift_rne]
  split
  · have hx : (x : ℚ) = -((x.natAbs : ℤ) : ℚ) := by
      exact_mod_cast (by omega : x = -(x.natAbs : ℤ))
    rw [hx, neg_div]
    exact hMag.neg
  · have hx : (x : ℚ) = ((x.natAbs : ℤ) : ℚ) := by
      exact_mod_cast (by omega : x = (x.natAbs : ℤ))
    rw [hx]
    exact hMag

/-! The window (R51). -/

/-- A dyadic in units of `2^wb`. -/
def Dy.units (p : Dy) (wb : Int) : ℚ := p.m * (2 : ℚ) ^ (p.e - wb)

theorem two_zpow_sub {a b : Int} (h : b ≤ a) : (2 : ℚ) ^ (a - b) = ((2 ^ (a - b).toNat : Nat) : ℤ) := by
  obtain ⟨n, hn⟩ := Int.eq_ofNat_of_zero_le (by omega : 0 ≤ a - b)
  rw [hn]
  norm_cast

theorem Dy.units_of_le {p : Dy} {wb : Int} (h : wb ≤ p.e) :
    p.units wb = ((p.m * (2 ^ (p.e - wb).toNat : Nat) : ℤ) : ℚ) := by
  rw [Dy.units, two_zpow_sub h, Int.cast_mul]

theorem Dy.units_of_ge {p : Dy} {wb : Int} (h : p.e ≤ wb) : p.units wb = p.m / ((2 ^ (wb - p.e).toNat : Nat) : ℤ) := by
  rw [Dy.units, ← neg_sub, zpow_neg, two_zpow_sub h]
  rfl

theorem Dy.inUnits_nearestEven (p : Dy) (wb : Int) : NearestEven (p.units wb) (p.inUnits .rne wb) := by
  unfold Dy.inUnits
  split
  · rename_i h
    rw [Dy.units_of_le h]
    exact nearestEven_self _
  · rename_i h
    rw [Dy.units_of_ge (by omega)]
    exact roundShift_nearestEven _ _

/-- The test for a product that windowing leaves as it is. -/
theorem Dy.add_units_iff (p : Dy) (r wb : Int) : Dy.add p ⟨-r, wb⟩ = ⟨0, min p.e wb⟩ ↔ p.units wb = r := by
  unfold Dy.add
  simp only [Dy.mk.injEq, and_true]
  rcases le_total wb p.e with h | h
  · rw [Dy.units_of_le h, min_eq_right h, Int.cast_inj, sub_self, Int.toNat_zero, pow_zero, Nat.cast_one, mul_one,
      ← sub_eq_add_neg, sub_eq_zero]
  · have hPos : (0 : ℚ) < ((2 ^ (wb - p.e).toNat : Nat) : ℤ) := by positivity
    rw [Dy.units_of_ge h, min_eq_left h, div_eq_iff hPos.ne', ← Int.cast_mul, Int.cast_inj, sub_self, Int.toNat_zero,
      pow_zero, Nat.cast_one, mul_one, neg_mul, ← sub_eq_add_neg, sub_eq_zero]

/-- The end of the window that stands for a result at or past it. -/
theorem clampI_window (r : Int) : clampI (-(2 ^ 36 - 1)) (2 ^ 36 - 1) r =
    if 2 ^ 36 ≤ |r| then r.sign * (2 ^ 36 - 1) else r := by
  split
  · rename_i h
    rcases le_total 0 r with hPos | hNeg
    · rw [abs_of_nonneg hPos] at h
      rw [clampI_of_gt (by decide) (by omega), Int.sign_eq_one_of_pos (by omega), one_mul]
    · rw [abs_of_nonpos hNeg] at h
      rw [clampI_of_lt (by omega), Int.sign_eq_neg_one_of_neg (by omega), neg_one_mul]
  · rename_i h
    rw [not_le, abs_lt] at h
    exact clampI_of_mem (by omega) (by omega)

theorem windowProd_eq {wb r : Int} {p : Dy} (h : NearestEven (p.units wb) r) : windowProd wb p =
    (if 2 ^ 36 ≤ |r| then r.sign * (2 ^ 36 - 1) else r,
      orF (if p.units wb = r then 0 else nfPUF) (if 2 ^ 36 ≤ |r| then nfPSAT else 0)) := by
  have hr : p.inUnits .rne wb = r := (p.inUnits_nearestEven wb).unique h
  unfold windowProd
  dsimp only
  rw [hr, clampI_window]
  simp only [Dy.add_units_iff, decide_eq_true_eq]
  by_cases hOut : 2 ^ 36 ≤ |r|
  · have hMoved : r.sign * (2 ^ 36 - 1) ≠ r := fun e => by
      rcases Int.sign_trichotomy r with hs | hs | hs <;> rw [hs] at e <;> have := le_abs.mp hOut <;> omega
    rw [if_pos hOut, if_pos hOut, if_pos hMoved]
  · rw [if_neg hOut, if_neg hOut, if_neg (not_not.mpr rfl)]

/-- The product of two finite operands, in units of `2^wb`. -/
theorem units_of_product (na nb : Bool) (ma mb : Nat) (ea eb wb : Int) :
    (Num.dy (.fin (na != nb) (ma * mb) (ea + eb))).units wb =
      (if na = nb then 1 else -1) * ((ma * mb : Nat) : ℚ) * (2 : ℚ) ^ (ea + eb - wb) := by
  cases na <;> cases nb <;> simp [Num.dy, Dy.units]

/-! Order (R51). -/

/-- What one product adds to a sum, to its NF flag and to the numeric flags. -/
def macTerm (wb : Int) (a w : Machine.Num) : Int × Bool × Nat :=
  match numMul a w with
  | none => (0, true, nfNF)
  | some p => ((windowProd wb p.dy).1, false, (windowProd wb p.dy).2)

theorem macExact_eq (wb : Int) (z : Int × Bool × Nat) (a w : Machine.Num) : macExact wb z a w =
    (z.1 + (macTerm wb a w).1, z.2.1 || (macTerm wb a w).2.1, orF z.2.2 (macTerm wb a w).2.2) := by
  unfold macExact macTerm
  cases numMul a w with
  | none => simp
  | some p => simp

/-- Two products may enter a sum in either order. -/
theorem macExact_right_comm (wb : Int) (z : Int × Bool × Nat) (p q : Machine.Num × Machine.Num) :
    macExact wb (macExact wb z p.1 p.2) q.1 q.2 = macExact wb (macExact wb z q.1 q.2) p.1 p.2 := by
  simp only [macExact_eq, orF]
  refine Prod.ext (add_right_comm ..) (Prod.ext (Bool.or_right_comm ..) ?_)
  show ((_ ||| _) ||| _ : Nat) = (_ ||| _) ||| _
  rw [Nat.or_assoc, Nat.or_comm (macTerm wb p.1 p.2).2.2, Nat.or_assoc]

/-- Settles O10: windowing is `NearestEven`, which one integer meets, then a clamp; and two products commute. -/
theorem exactSumAddsWindowedProducts : Obligations.ExactSumAddsWindowedProducts := by
  refine ⟨fun wb acc na nb ma mb ea eb r x hx hNear hTie => ?_, fun wb ps qs hPerm z => ?_⟩
  · rw [← units_of_product] at hx
    subst hx
    have hWindow := windowProd_eq (r := r) ⟨hNear, hTie⟩
    unfold macExact numMul
    dsimp only
    rw [hWindow]
  · exact hPerm.foldl_eq' (fun p _ q _ z => macExact_right_comm wb z p q) z

end Sys2Proof.Machine

/-! Reads of the SRAM that meet no uncorrectable error (R137). -/

namespace Sys2Proof.Machine

/-- Nothing but registers of the list differs. -/
def State.Recounted (l : List Nat) (s t : State) : Prop := t = { s with regs := t.regs } ∧ State.RegsBut l s t

namespace State.Recounted

variable {l : List Nat} {s t u : State}

theorem rfl' (l : List Nat) (s : State) : State.Recounted l s s := ⟨rfl, .rfl' l s⟩

theorem trans (h : State.Recounted l s t) (k : State.Recounted l t u) : State.Recounted l s u := by
  refine ⟨?_, fun o ho => (k.2 o ho).trans (h.2 o ho)⟩
  rw [k.1, h.1]

theorem fset (h : State.Recounted l s t) {r : FRef} {v : Nat} (m : r.off ∈ l) : State.Recounted l s (t.fset r v) := by
  refine ⟨?_, h.2.fset m⟩
  rw [h.1]
  rfl

theorem mem (h : State.Recounted l s t) : t.mem = s.mem := by rw [h.1]
theorem eng (h : State.Recounted l s t) : t.eng = s.eng := by rw [h.1]
theorem core (h : State.Recounted l s t) : t.core = s.core := by rw [h.1]

theorem only (h : State.Recounted l s t) : State.Only [.regs] s t := by
  rw [h.1]
  refine ⟨fun c hc => ?_, rfl, rfl⟩
  cases c
  case regs => exact absurd List.mem_cons_self hc
  case mem => exact fun _ => rfl
  all_goals rfl

end State.Recounted

/-- No SRAM word holds an uncorrectable error. -/
def State.SramGood (s : State) : Prop := ∀ e ∈ s.eng.sramErr, e.2 ≠ 2

theorem State.Sound.sramGood {s : State} (h : s.Sound) : s.SramGood := by
  obtain ⟨-, hSram, -⟩ := h
  exact hSram

theorem State.sramRead_good {s : State} (h : s.SramGood) (die off len : Nat) :
    ∃ t, s.sramRead die off len = (t, true) ∧ State.Recounted [Reg.WRK_SRAM_ECC die] s t := by
  have hNone : (s.badWords die off len).find? (fun w => decide (w.2 = 2)) = none := by
    rw [List.find?_eq_none]
    intro x hx
    unfold State.badWords at hx
    split at hx
    · cases hx
    · obtain ⟨e, he, rfl⟩ := List.mem_map.mp hx
      simpa using h e (List.mem_of_mem_filter he)
  unfold State.sramRead
  dsimp only
  rw [hNone]
  exact ⟨_, rfl, (State.Recounted.rfl' _ s).fset List.mem_cons_self⟩

theorem State.sramReads_good {s : State} (h : s.SramGood) (die : Nat) (rs : Ranges) :
    ∃ t, s.sramReads die rs = (t, true) ∧ State.Recounted [Reg.WRK_SRAM_ECC die] s t := by
  unfold State.sramReads
  induction rs generalizing s with
  | nil => exact ⟨s, rfl, .rfl' _ s⟩
  | cons r rs ih =>
    obtain ⟨t, ht, hFirst⟩ := State.sramRead_good h die r.1 r.2
    obtain ⟨u, hu, hRest⟩ := ih (s := t) (by rw [State.SramGood, hFirst.eng]; exact h)
    refine ⟨u, ?_, hFirst.trans hRest⟩
    rw [List.map_cons, State.memReads, State.memRead, if_pos (Nat.le_add_right _ _), Nat.add_sub_cancel_left, ht]
    exact hu

end Sys2Proof.Machine

/-! Conditions that refuse nothing (R495). -/

namespace Sys2Proof.Machine

section
variable {α β : Type} {f : Option β → α → Option β} (hf : ∀ y a, (f (some y) a).isSome = true)
include hf

theorem foldl_isSome (l : List α) {z : Option β} (hz : z.isSome = true) : (l.foldl f z).isSome = true := by
  induction l generalizing z with
  | nil => exact hz
  | cons a l ih =>
    obtain ⟨y, rfl⟩ := Option.isSome_iff_exists.mp hz
    exact ih (hf y a)

/-- A fold that keeps what it has found finds something where some element would answer. -/
theorem foldl_isSome_of_mem {l : List α} {a : α} (h : a ∈ l) (ha : (f none a).isSome = true) (z : Option β) :
    (l.foldl f z).isSome = true := by
  induction l generalizing z with
  | nil => cases h
  | cons b l ih =>
    rcases List.mem_cons.mp h with rfl | h
    · refine foldl_isSome hf l ?_
      cases z with
      | none => exact ha
      | some y => exact hf y a
    · exact ih h _

end

/-- Where no condition is reported, none holds. -/
theorem pick_none {cs : List (Bool × Nat)} (h : pick cs = none) {b : Bool} {r : Nat} (hIn : (b, r) ∈ cs)
    (hClass : r / 0x1000 ∈ [6, 5, 4, 3, 2, 1]) : b = false := by
  rw [Bool.eq_false_iff]
  rintro rfl
  have hHolds : r ∈ (cs.filter fun c => c.1).map fun c => c.2 :=
    List.mem_map.mpr ⟨(true, r), List.mem_filter.mpr ⟨hIn, rfl⟩, rfl⟩
  have hSome : (pick cs).isSome = true := by
    unfold pick
    refine foldl_isSome_of_mem (fun _ _ => ?_) hClass ?_ _
    · rfl
    · refine foldl_isSome_of_mem (fun _ _ => ?_) (List.mem_filter.mpr ⟨hHolds, decide_eq_true rfl⟩) ?_ _ <;> rfl
  rw [h] at hSome
  cases hSome

end Sys2Proof.Machine

/-! Matrix arrays (R78, R81, R84, R92, R96): what a pass and a drain depend on, the entries of a pass, and the command
that runs at once on an empty queue. -/

namespace Sys2Proof.Machine

/-! What a pass, a drain and their conditions depend on: bytes of memory, and of the array everything but its queue. -/

theorem State.sram_congr {s t : State} (h : t.mem = s.mem) (die off n : Nat) : t.sram die off n = s.sram die off n := by
  unfold State.sram State.peek State.byte
  rw [h]

theorem State.vecAt_congr {s t : State} (h : t.mem = s.mem) (die f off scl n : Nat) :
    t.vecAt die f off scl n = s.vecAt die f off scl n := by
  unfold State.vecAt
  simp only [State.sram_congr h]

theorem ArrRec.pass_congr {s t : State} (h : t.mem = s.mem) (a : ArrRec) (die : Nat) (w : CmdWord) (q : Rect) :
    a.pass t die w q = a.pass s die w q := by
  unfold ArrRec.pass
  simp only [State.vecAt_congr h]

theorem State.scalePair_congr {s t : State} (h : t.mem = s.mem) (die : Nat) (w : CmdWord) (idx : Nat) :
    t.scalePair die w idx = s.scalePair die w idx := by
  unfold State.scalePair
  rw [State.sram_congr h]

theorem passConds_congr {s t : State} (h : t.mem = s.mem) (die : Nat) (a : ArrRec) (w : CmdWord) :
    passConds t die a w = passConds s die a w := by
  unfold passConds drainConds
  simp only [State.scalePair_congr h]

theorem State.drain_congr {s t : State} (h : t.mem = s.mem) (die : Nat) (a : ArrRec) (w : CmdWord) (q : Rect)
    (seed : Seed) (n : Nat) : t.drain die a w q seed n = s.drain die a w q seed n := by
  unfold State.drain State.drainRow State.gradBlock
  simp only [State.scalePair_congr h, State.sram_congr h]

theorem passConds_queue (s : State) (die : Nat) (a : ArrRec) (l : List Job) (w : CmdWord) :
    passConds s die { a with queue := l } w = passConds s die a w := rfl

theorem State.drain_queue (s : State) (die : Nat) (a : ArrRec) (l : List Job) (w : CmdWord) (q : Rect) (seed : Seed)
    (n : Nat) : s.drain die { a with queue := l } w q seed n = s.drain die a w q seed n := rfl

theorem ArrRec.pass_queue (a : ArrRec) (l : List Job) (s : State) (die : Nat) (w : CmdWord) (q : Rect) :
    ({ a with queue := l } : ArrRec).pass s die w q =
      ({ (a.pass s die w q).1 with queue := l }, (a.pass s die w q).2) := rfl

/-! The entries of a pass. -/

section
variable {α β : Type} [DecidableEq α] {d : α} {key : β → Nat} {upd : β → α → α} {g : Tbl α × Nat → β → Tbl α × Nat}
  (hg : ∀ x p, (g x p).1 = x.1.set d (key p) (upd p (x.1.get d (key p))))
include hg

/-- A fold that rewrites the entry of each element leaves every other entry. -/
theorem Tbl.get_foldl_set_ne {l : List β} {k : Nat} (hk : ∀ p ∈ l, k ≠ key p) (x : Tbl α × Nat) :
    (l.foldl g x).1.get d k = x.1.get d k := by
  induction l generalizing x with
  | nil => rfl
  | cons p l ih =>
    rw [List.foldl_cons, ih (fun q hq => hk q (List.mem_cons_of_mem _ hq)), hg,
      Tbl.get_set_ne _ _ _ _ (hk p List.mem_cons_self)]

/-- With one element for each entry, it rewrites that entry once. -/
theorem Tbl.get_foldl_set {l : List β} (hOnce : l.Nodup) (hKey : ∀ p ∈ l, ∀ q ∈ l, key p = key q → p = q) {p : β}
    (hp : p ∈ l) (x : Tbl α × Nat) : (l.foldl g x).1.get d (key p) = upd p (x.1.get d (key p)) := by
  induction l generalizing x with
  | nil => cases hp
  | cons q l ih =>
    obtain ⟨hq, hOnce⟩ := List.nodup_cons.mp hOnce
    have hTail : ∀ a ∈ l, ∀ b ∈ l, key a = key b → a = b := fun a ha b hb =>
      hKey a (List.mem_cons_of_mem _ ha) b (List.mem_cons_of_mem _ hb)
    have hHead : ∀ r ∈ l, key r ≠ key q := fun r hr e =>
      hq (hKey r (List.mem_cons_of_mem _ hr) q List.mem_cons_self e ▸ hr)
    rw [List.foldl_cons]
    rcases List.mem_cons.mp hp with rfl | hp
    · rw [Tbl.get_foldl_set_ne hg fun r hr => (hHead r hr).symm, hg, Tbl.get_set]
    · rw [ih hOnce hTail hp, hg, Tbl.get_set_ne _ _ _ _ (hHead p hp)]

end

theorem mem_entriesOf {m n : Nat} {p : Nat × Nat} : p ∈ entriesOf m n ↔ p.1 < m ∧ p.2 < n := by
  rw [← List.mem_range, ← List.mem_range]
  exact List.mem_product

theorem entriesOf_nodup (m n : Nat) : (entriesOf m n).Nodup := List.Nodup.product List.nodup_range List.nodup_range

/-- A region's rectangle lies within the array's 4 row bands. -/
theorem regionRect_rows {tmap tuse r : Nat} {q : Rect} (h : regionRect tmap tuse r = some q) : q.top + q.h ≤ 4 := by
  unfold regionRect at h
  extract_lets ts top left bot right at h
  have hTop : top ≤ 3 := List.foldlRecOn (motive := fun x => x ≤ 3) _ _ le_rfl fun b hb _ _ =>
    (min_le_left b _).trans hb
  have hBot : bot ≤ 3 := List.foldlRecOn (motive := fun x => x ≤ 3) _ _ (Nat.zero_le 3) fun b hb x hx => by
    obtain ⟨t, ht, rfl⟩ := List.mem_map.mp hx
    have := List.mem_range.mp (List.mem_of_mem_filter ht)
    omega
  split at h
  · cases h
  · cases h
    dsimp only
    omega

/-- Entries within the rectangle have keys of their own. -/
theorem accKey_inj {q : Rect} {n n' e e' : Nat} (he : 256 * q.top + e < 1024) (he' : 256 * q.top + e' < 1024)
    (h : accKey q n e = accKey q n' e') : n = n' ∧ e = e' := by
  unfold accKey at h
  omega

/-- The key of an entry of a pass. -/
def passKey (q : Rect) (w : CmdWord) (p : Nat × Nat) : Nat := accKey q p.2 (jEBASE w + p.1)

/-- Row `m` of the activations of a pass. -/
def ArrRec.passActs (a : ArrRec) (s : State) (die : Nat) (w : CmdWord) (m : Nat) : List Machine.Num :=
  s.vecAt die (jAFMT w) (fld w 64 32 + m * (32 * fld w 192 16)) (fld w 96 32 + m * ((passReg a w).k / 32))
    (passReg a w).k

/-- Column `n` of a tile, each weight with its stored residue. -/
def WReg.column (t : WReg) (n : Nat) : List (Machine.Num × Nat) :=
  (List.range t.k).map fun k => (t.num n k, t.resAt n k)

/-- What a pass makes of an entry (R51, R54, R57, R78). -/
def ArrRec.passEntry (a : ArrRec) (s : State) (die : Nat) (w : CmdWord) (p : Nat × Nat) (old : Acc) : Acc × Nat :=
  accAfter (pairing (jWFMT w) (jAFMT w)) (jWB w) old (bit w 29)
    (((List.range (jM w)).map (a.passActs s die w)).getD p.1 [])
    (((List.range (passReg a w).n).map (passReg a w).column).getD p.2 [])

theorem ArrRec.pass_acc (a : ArrRec) (s : State) (die : Nat) (w : CmdWord) (q : Rect) : (a.pass s die w q).1.acc =
    ((entriesOf (jM w) (passReg a w).n).foldl (fun (x : Tbl Acc × Nat) p =>
      (x.1.set {} (passKey q w p) (a.passEntry s die w p (x.1.get {} (passKey q w p))).1,
        orF x.2 (a.passEntry s die w p (x.1.get {} (passKey q w p))).2)) (a.acc, 0)).1 := rfl

theorem getD_map_range {α : Type} (f : Nat → α) {n i : Nat} (h : i < n) (d : α) :
    ((List.range n).map f).getD i d = f i := by
  simp [List.getD_eq_getElem?_getD, h]

section
variable {a : ArrRec} {s : State} {die : Nat} {w : CmdWord} {q : Rect}

/-- The entry of row `m` and column `n` after a pass. -/
theorem ArrRec.pass_acc_get {m n : Nat} (hm : m < jM w) (hn : n < (passReg a w).n)
    (hRows : 256 * q.top + (jEBASE w + jM w) ≤ 1024) :
    (a.pass s die w q).1.acc.get {} (accKey q n (jEBASE w + m)) = (accAfter (pairing (jWFMT w) (jAFMT w)) (jWB w)
      (a.acc.get {} (accKey q n (jEBASE w + m))) (bit w 29) (a.passActs s die w m) ((passReg a w).column n)).1 := by
  have hp : (m, n) ∈ entriesOf (jM w) (passReg a w).n := mem_entriesOf.mpr ⟨hm, hn⟩
  have hKey : ∀ p ∈ entriesOf (jM w) (passReg a w).n, ∀ p' ∈ entriesOf (jM w) (passReg a w).n,
      passKey q w p = passKey q w p' → p = p' := fun p hp p' hp' e => by
    rw [mem_entriesOf] at hp hp'
    obtain ⟨hn, hm⟩ := accKey_inj (by omega) (by omega) e
    exact Prod.ext (by omega) hn
  rw [ArrRec.pass_acc]
  refine (Tbl.get_foldl_set (key := passKey q w) (upd := fun p old => (a.passEntry s die w p old).1) (fun _ _ => rfl)
    (entriesOf_nodup _ _) hKey hp _).trans ?_
  unfold ArrRec.passEntry
  rw [getD_map_range _ hm, getD_map_range _ hn]
  rfl

/-- Every other entry is as before. -/
theorem ArrRec.pass_acc_other {e : Nat} (h : ∀ m < jM w, ∀ n < (passReg a w).n, e ≠ accKey q n (jEBASE w + m)) :
    (a.pass s die w q).1.acc.get {} e = a.acc.get {} e := by
  rw [ArrRec.pass_acc]
  exact Tbl.get_foldl_set_ne (key := passKey q w) (upd := fun p old => (a.passEntry s die w p old).1) (fun _ _ => rfl)
    (fun p hp => h p.1 (mem_entriesOf.mp hp).1 p.2 (mem_entriesOf.mp hp).2) _

/-- The weight registers change places where SWAP says so. -/
theorem ArrRec.pass_region : (a.pass s die w q).1.reg (jREGION w) =
    { a.reg (jREGION w) with sel := (a.reg (jREGION w)).sel != bit w 28 } := by
  have h : (a.pass s die w q).1.reg (jREGION w) =
      if bit w 28 then { a.reg (jREGION w) with sel := !(a.reg (jREGION w)).sel } else a.reg (jREGION w) :=
    Tbl.get_set _ _ _ _
  rw [h]
  cases bit w 28 <;> simp

theorem ArrRec.pass_region_ne {r : Nat} (h : r ≠ jREGION w) : (a.pass s die w q).1.reg r = a.reg r :=
  Tbl.get_set_ne _ _ _ _ h

end

/-! A command that enters an empty queue. -/

@[simp] theorem State.arr_setArr (s : State) (die a : Nat) (r : ArrRec) : (s.setArr die a r).arr die a = r :=
  Tbl.get_set _ _ _ _

theorem State.arrs_setArr_ne (s : State) (die a : Nat) (r : ArrRec) {k : Nat} (h : k ≠ die * 6 + a) :
    (s.setArr die a r).eng.arrs.get {} k = s.eng.arrs.get {} k := Tbl.get_set_ne _ _ _ _ h

theorem startable_single {j : Job} (h : j.started = false) : startable [] [j] = some j := by
  unfold startable
  cases hLay : isLayout j <;> simp [h]

theorem State.arrRun_single {s : State} {die a : Nat} {j : Job} (hq : (s.arr die a).queue = [j])
    (h : j.started = false) : s.arrRun die a = (s.arrTake die a j).arrBusy die a := by
  unfold State.arrRun
  rw [hq]
  simp only [List.length_singleton, State.arrPump]
  rw [hq, startable_single h]

/-! A pass or a drain that begins. -/

/-- The array once the command has run on it, and NFLAGS: a drain alone leaves it. -/
def ArrRec.ran (a : ArrRec) (s : State) (die : Nat) (w : CmdWord) (q : Rect) : ArrRec × Nat :=
  if fld w 0 8 = 0x21 then a.pass s die w q else (a, 0)

/-- The checks of the command hold: a drain alone has none. -/
def ArrRec.ranSound (a : ArrRec) (s : State) (die : Nat) (w : CmdWord) (q : Rect) : Bool :=
  decide (fld w 0 8 ≠ 0x21) || (a.ran s die w q).1.checks (passReg a w) w q

section
variable {a : ArrRec} {s : State} {die : Nat} {w : CmdWord} {q : Rect}

theorem ArrRec.ran_pass (h : fld w 0 8 = 0x21) : a.ran s die w q = a.pass s die w q := if_pos h

theorem ArrRec.ran_drain (h : fld w 0 8 = 0x23) : a.ran s die w q = (a, 0) := if_neg (by omega)

theorem ArrRec.ranSound_pass (h : fld w 0 8 = 0x21) :
    a.ranSound s die w q = (a.pass s die w q).1.checks (passReg a w) w q := by
  rw [ArrRec.ranSound, ArrRec.ran_pass h, h]
  rfl

theorem ArrRec.ranSound_drain (h : fld w 0 8 = 0x23) : a.ranSound s die w q = true := by
  rw [ArrRec.ranSound, h]
  rfl

end

/-- What the command holds for its completion. -/
def State.ranOut (s : State) (die : Nat) (a : ArrRec) (w : CmdWord) (q : Rect) (seed : Seed) : DrainOut :=
  if bit w 30 then s.drain die (a.ran s die w q).1 w q seed (passReg a w).n else {}

/-- Job `k` is `j`, begun, with results `d` and the status that its checks give. -/
structure Job.Begun (j k : Job) (sound : Bool) (d : DrainOut) : Prop where
  core : k.core = j.core
  seq : k.seq = j.seq
  word : k.word = j.word
  started : k.started = true
  writes : k.writes = d.writes
  bitw : k.bitw = d.bitw
  whole : sound = true → k.status = stOK ∨ k.status = stDEGRADED
  fenced : sound = false → k.status = stFENCED

theorem okOr_cases (b : Bool) : okOr b = stOK ∨ okOr b = stDEGRADED := by
  cases b
  · exact .inl rfl
  · exact .inr rfl

theorem Job.begun_run (j : Job) (sound degraded : Bool) (d : DrainOut) (nf : Nat) :
    j.Begun { j with
      started := true, writes := d.writes, bitw := d.bitw, nflags := nf
      status := if sound then okOr degraded else stFENCED } sound d := by
  refine ⟨rfl, rfl, rfl, rfl, rfl, rfl, fun h => ?_, fun h => ?_⟩ <;> subst h
  · exact okOr_cases degraded
  · rfl

theorem State.voteFailed_none {s : State} {die : Nat} (h : s.capState die = 0) : s.voteFailed die = s := by
  unfold State.voteFailed
  rw [if_neg (by omega)]

theorem State.sourOrigin_regsBut (s : State) (die step tile idx : Nat) :
    State.RegsBut [Reg.COMB_ERR die] s (s.sourOrigin die step tile idx) := by
  unfold State.sourOrigin
  dsimp only
  refine .ite (fun _ => .rfl' _ s) fun _ => ?_
  have h : ∀ x : State, x.regs = s.regs → State.RegsBut [Reg.COMB_ERR die] s
      ((x.fset (RF.COMB_ERR_SOUR die) 1).dieRec die 0x8101 0 1 (pay [(4, step), (4, tile), (4, idx)])) := fun x hx =>
    .of_eq (t := x.fset (RF.COMB_ERR_SOUR die) 1) (.fset (.of_eq (.rfl' _ s) hx) List.mem_cons_self) (by simp)
  apply h
  split <;> rfl

/-- A recount of SRAM errors leaves the state of every cap. -/
theorem State.Recounted.capState {s t : State} {d : Nat} (h : State.Recounted [Reg.WRK_SRAM_ECC d] s t) (die : Nat) :
    t.capState die = s.capState die := by
  have hOther : Reg.CAP_DIE_STAT die ∉ [Reg.WRK_SRAM_ECC d] := by
    rw [List.mem_singleton, Reg.CAP_DIE_STAT, Reg.WRK_SRAM_ECC]
    omega
  exact congrArg (fun x => fld x _ _) (h.2 _ hOther)

/-- What a pass or drain changes as it begins: its array, the counts of corrected words, and the records of a soured
block. -/
structure State.ArrRan (s : State) (die a : Nat) (j : Job) (q : Rect) (t : State) : Prop where
  arr : ∃ k, t.arr die a = ((s.arr die a).ran s die j.word q).1.putJob k ∧
    j.Begun k ((s.arr die a).ranSound s die j.word q)
      (s.ranOut die (s.arr die a) j.word q (j.seed (fld j.word 240 16) (fld j.word 256 32)))
  others : ∀ k, k ≠ die * 6 + a → t.eng.arrs.get {} k = s.eng.arrs.get {} k
  only : State.Only [.regs, .eng, .cap, .log] s t
  regs : State.RegsBut [Reg.WRK_SRAM_ECC die, Reg.COMB_ERR die] s t

theorem State.ArrRan.sourOrigin {s t : State} {die a : Nat} {j : Job} {q : Rect} (h : s.ArrRan die a j q t)
    (step tile idx : Nat) : s.ArrRan die a j q (t.sourOrigin die step tile idx) := by
  have hEng : (t.sourOrigin die step tile idx).eng = t.eng :=
    State.sourOrigin_keeps (keeps_eng _ (by decide)) _ _ _ _ rfl
  have hOnly : State.Only [.regs, .cap, .log] t (t.sourOrigin die step tile idx) :=
    only_of_keeps fun _ K k => State.sourOrigin_keeps K _ _ _ _ k
  refine ⟨?_, ?_, h.only.trans (hOnly.mono rfl), fun o ho => ?_⟩
  · unfold State.arr
    rw [hEng]
    exact h.arr
  · rw [hEng]
    exact h.others
  · have hNot : o ∉ [Reg.COMB_ERR die] := fun hIn => ho (List.mem_cons_of_mem _ hIn)
    exact (t.sourOrigin_regsBut die step tile idx o hNot).trans (h.regs o ho)

theorem State.ArrRan.of_reads {s t : State} {die a : Nat} {j k : Job} {q : Rect}
    (hReads : State.Recounted [Reg.WRK_SRAM_ECC die] (s.markBusy (2 * die)) t)
    (hBegun : j.Begun k ((s.arr die a).ranSound s die j.word q)
      (s.ranOut die (s.arr die a) j.word q (j.seed (fld j.word 240 16) (fld j.word 256 32)))) :
    s.ArrRan die a j q (t.setArr die a (((s.arr die a).ran s die j.word q).1.putJob k)) := by
  have hBusy : State.Only [.eng] s (s.markBusy (2 * die)) := only_of_keeps fun _ K h => State.markBusy_keeps K _ h
  have hSet : ∀ r, State.Only [.eng] t (t.setArr die a r) := fun r =>
    only_of_keeps fun _ K h => State.setArr_keeps K die a r h
  refine ⟨⟨k, State.arr_setArr .., hBegun⟩, fun n hn => ?_, ?_, fun o ho => ?_⟩
  · rw [State.arrs_setArr_ne _ _ _ _ hn, hReads.eng]
    rfl
  · exact (hBusy.mono rfl).trans ((hReads.only.mono rfl).trans ((hSet _).mono rfl))
  · exact hReads.2 o fun hIn => ho (List.mem_singleton.mp hIn ▸ List.mem_cons_self)

theorem State.arrBegin_ran {s : State} {die a : Nat} {j : Job} {q : Rect}
    (hOpc : fld j.word 0 8 = 0x21 ∨ fld j.word 0 8 = 0x23) (hGood : s.SramGood)
    (hCap : (s.arr die a).ranSound s die j.word q = true ∨ s.capState die = 0) :
    s.ArrRan die a j q (s.arrBegin die a j q) := by
  unfold State.arrBegin
  extract_lets w ar opc deg run s' x t rds wrs seed
  rw [if_neg (show ¬fld j.word 0 8 = 0x22 by omega), if_neg (show ¬fld j.word 0 8 = 0x20 by omega)]
  obtain ⟨s2, hReads, hCount⟩ := State.sramReads_good (s := s') hGood die rds
  have hRan : (if opc = 0x21 then ar.pass s2 die w q else (ar, 0)) = ar.ran s die w q := by
    unfold ArrRec.ran
    rw [ArrRec.pass_congr hCount.mem]
    rfl
  have hSound : (decide (opc ≠ 0x21) || (ar.ran s die w q).1.checks t w q) = ar.ranSound s die w q := rfl
  have hOut : (if bit w 30 then s2.drain die (ar.ran s die w q).1 w q seed t.n else {}) = s.ranOut die ar w q seed := by
    rw [State.drain_congr hCount.mem]
    rfl
  have hVote : (if ar.ranSound s die w q then s2 else s2.voteFailed die) = s2 := by
    split
    · rfl
    · exact State.voteFailed_none ((hCount.capState die).trans (hCap.resolve_left ‹_›))
  rw [hReads]
  dsimp only
  rw [hRan, hSound, hOut, hVote]
  split
  · exact State.ArrRan.of_reads hCount (j.begun_run _ _ _ _)
  · exact (State.ArrRan.of_reads (j := j) hCount (j.begun_run _ _ _ _)).sourOrigin _ _ _

/-! A pass or a drain that enters the empty queue of its array. -/

section
variable {s t : State} (h : t.mem = s.mem) (a : ArrRec) (l : List Job) (die : Nat) (w : CmdWord) (q : Rect)
include h

theorem ArrRec.ran_queue : ({ a with queue := l } : ArrRec).ran t die w q =
    ({ (a.ran s die w q).1 with queue := l }, (a.ran s die w q).2) := by
  unfold ArrRec.ran
  rw [ArrRec.pass_congr h, ArrRec.pass_queue]
  split <;> rfl

theorem ArrRec.ranSound_queue : ({ a with queue := l } : ArrRec).ranSound t die w q = a.ranSound s die w q := by
  unfold ArrRec.ranSound
  rw [ArrRec.ran_queue h]
  rfl

theorem State.ranOut_queue (seed : Seed) :
    t.ranOut die { a with queue := l } w q seed = s.ranOut die a w q seed := by
  unfold State.ranOut
  rw [ArrRec.ran_queue h, State.drain_congr h]
  rfl

end

theorem ArrRec.putJob_single (a : ArrRec) {j k : Job} (hc : k.core = j.core) (hs : k.seq = j.seq) :
    ({ a with queue := [j] } : ArrRec).putJob k = { a with queue := [k] } := by
  unfold ArrRec.putJob sameJob
  simp [hc, hs]

theorem State.arrTake_passes {s : State} {die a : Nat} {j : Job} {q : Rect}
    (hOpc : fld j.word 0 8 = 0x21 ∨ fld j.word 0 8 = 0x23) (hRect : (s.arr die a).rect (jREGION j.word) = some q)
    (hPick : pick (passConds s die (s.arr die a) j.word) = none) : s.arrTake die a j = s.arrBegin die a j q := by
  unfold State.arrTake
  dsimp only
  rw [if_neg (by omega), if_neg (by omega), hPick, hRect]
  rfl

theorem State.arrBusy_recounted (s : State) (die a : Nat) : State.Recounted [Reg.ARR_STAT die] s (s.arrBusy die a) :=
  (State.Recounted.rfl' _ s).fset List.mem_cons_self

theorem State.Fetches.opc {s s1 : State} {c opc : Nat} {w : CmdWord} (h : s.Fetches c opc s1 w) : fld w 0 8 = opc := by
  obtain ⟨-, -, -, hOpc, -⟩ := h
  exact hOpc

/-- The job of an array command as it enters its queue. -/
def State.arrJob (s s1 : State) (c : Nat) (w : CmdWord) : Job :=
  { core := c, seq := (s.coreRec c).seq, ctx := (s.coreRec c).ctx, word := w, cap := s1.openCap (dieOf c) }

/-- The state right after the command has entered the queue, as its only command. -/
def State.arrQueued (s s1 : State) (c : Nat) (w : CmdWord) : State :=
  (s1.issueNext c w).setArr (dieOf c) (jARRAY w) { s1.arr (dieOf c) (jARRAY w) with queue := [s.arrJob s1 c w] }

theorem State.arrQueued_arr (s s1 : State) (c : Nat) (w : CmdWord) : (s.arrQueued s1 c w).arr (dieOf c) (jARRAY w) =
    { s1.arr (dieOf c) (jARRAY w) with queue := [s.arrJob s1 c w] } := State.arr_setArr ..

theorem State.arrQueued_only (s s1 : State) (c : Nat) (w : CmdWord) :
    State.Only [.core, .eng] s1 (s.arrQueued s1 c w) :=
  only_of_keeps fun _ K hP => State.setArr_keeps (K.mono rfl) _ _ _ (State.issueNext_keeps (K.mono rfl) _ _ hP)

/-- The array's front end takes the only command of its queue at once. -/
theorem State.Enters.arrIssue {s s1 : State} {c opc : Nat} {w : CmdWord} (h : s.Enters c opc s1 w) (ha : jARRAY w < 6)
    (hq : (s1.arr (dieOf c) (jARRAY w)).queue = []) : s.arrIssue c opc =
      ((s.arrQueued s1 c w).arrTake (dieOf c) (jARRAY w) (s.arrJob s1 c w)).arrBusy (dieOf c) (jARRAY w) := by
  have hJob : (s1.issueNext c w).mkJob c (s.coreRec c).seq w = s.arrJob s1 c w := by
    obtain ⟨_, _, hRec⟩ := h.1.rec
    unfold State.mkJob
    rw [hRec]
    rfl
  have hArr : (s1.issueNext c w).arr (dieOf c) (jARRAY w) = s1.arr (dieOf c) (jARRAY w) := rfl
  unfold State.arrIssue
  rw [h.issueTo]
  dsimp only
  rw [if_neg (by omega), hJob, hArr, hq, List.nil_append]
  exact State.arrRun_single (by rw [State.arr_setArr]) rfl

/-- What an issue of a pass or a drain leaves, when `s1` is the state right after the fetch. -/
structure State.ArrIssued (s s1 : State) (c opc : Nat) (w : CmdWord) (q : Rect) (t : State) : Prop where
  issued : s.Issued t c opc
  arr : ∃ k, t.arr (dieOf c) (jARRAY w) =
      { ((s1.arr (dieOf c) (jARRAY w)).ran s1 (dieOf c) w q).1 with queue := [k] } ∧
    (s.arrJob s1 c w).Begun k ((s1.arr (dieOf c) (jARRAY w)).ranSound s1 (dieOf c) w q)
      (s1.ranOut (dieOf c) (s1.arr (dieOf c) (jARRAY w)) w q ((s.arrJob s1 c w).seed (fld w 240 16) (fld w 256 32)))
  others : ∀ k, k ≠ dieOf c * 6 + jARRAY w → t.eng.arrs.get {} k = s1.eng.arrs.get {} k
  only : State.Only [.regs, .core, .eng, .cap, .log] s1 t
  regs : State.RegsBut [Reg.ARR_STAT (dieOf c), Reg.WRK_SRAM_ECC (dieOf c), Reg.COMB_ERR (dieOf c)] s1 t

theorem State.Enters.issued_of_core {s s1 t : State} {c opc : Nat} {w : CmdWord} (h : s.Enters c opc s1 w)
    (hOpc : opc ≠ 0x40) (ht : t.core = (s1.issueNext c w).core) : s.Issued t c opc := by
  obtain ⟨_, _, hRec⟩ := h.1.rec
  have hBytes : cmdBytes w = 64 := if_neg fun k => hOpc (h.1.opc.symm.trans k.1)
  have hSame : t.coreRec c = (s1.issueNext c w).coreRec c := by
    unfold State.coreRec
    rw [ht]
  unfold State.Issued
  rw [hSame, hRec, hBytes]
  exact ⟨rfl, rfl, rfl⟩

theorem State.Enters.arrIssued {s s1 : State} {c opc : Nat} {w : CmdWord} {q : Rect} (h : s.Enters c opc s1 w)
    (hOpc : opc = 0x21 ∨ opc = 0x23) (hSound : s1.Sound) (ha : jARRAY w < 6)
    (hq : (s1.arr (dieOf c) (jARRAY w)).queue = []) (hRect : (s1.arr (dieOf c) (jARRAY w)).rect (jREGION w) = some q)
    (hPick : pick (passConds s1 (dieOf c) (s1.arr (dieOf c) (jARRAY w)) w) = none)
    (hCap : (s1.arr (dieOf c) (jARRAY w)).ranSound s1 (dieOf c) w q = true ∨ s1.NoCap (dieOf c)) :
    State.ArrIssued s s1 c opc w q (s.arrIssue c opc) := by
  have hw : fld w 0 8 = 0x21 ∨ fld w 0 8 = 0x23 := h.1.opc ▸ hOpc
  have hMem : (s.arrQueued s1 c w).mem = s1.mem := rfl
  have hTake : (s.arrQueued s1 c w).arrTake (dieOf c) (jARRAY w) (s.arrJob s1 c w) =
      (s.arrQueued s1 c w).arrBegin (dieOf c) (jARRAY w) (s.arrJob s1 c w) q := by
    refine State.arrTake_passes hw (by rw [State.arrQueued_arr]; exact hRect) ?_
    rw [State.arrQueued_arr, passConds_queue, passConds_congr hMem]
    exact hPick
  have hSure : ((s.arrQueued s1 c w).arr (dieOf c) (jARRAY w)).ranSound (s.arrQueued s1 c w) (dieOf c) w q = true ∨
      (s.arrQueued s1 c w).capState (dieOf c) = 0 := by
    rw [State.arrQueued_arr, ArrRec.ranSound_queue hMem]
    exact hCap.imp id fun hNone => hNone.1
  obtain ⟨⟨k, hRan, hBegun⟩, hRanOther, hRanOnly, hRanRegs⟩ :=
    State.arrBegin_ran (s := s.arrQueued s1 c w) (j := s.arrJob s1 c w) hw hSound.sramGood hSure
  have hBusy := ((s.arrQueued s1 c w).arrBegin (dieOf c) (jARRAY w) (s.arrJob s1 c w) q).arrBusy_recounted (dieOf c)
    (jARRAY w)
  rw [State.arrQueued_arr, ArrRec.ran_queue hMem, ArrRec.putJob_single _ hBegun.core hBegun.seq] at hRan
  rw [State.arrQueued_arr, ArrRec.ranSound_queue hMem, State.ranOut_queue hMem] at hBegun
  rw [h.arrIssue ha hq, hTake]
  refine ⟨h.issued_of_core (by omega) ?_, ⟨k, ?_, hBegun⟩, fun n hn => ?_, ?_, fun o ho => ?_⟩
  · rw [hBusy.core, hRanOnly.1 .core (by decide)]
    rfl
  · rw [State.arr, hBusy.eng]
    exact hRan
  · rw [hBusy.eng, hRanOther n hn, State.arrQueued, State.arrs_setArr_ne _ _ _ _ hn]
    rfl
  · exact ((s.arrQueued_only s1 c w).mono rfl).trans ((hRanOnly.mono rfl).trans (hBusy.only.mono rfl))
  · obtain ⟨hStat, hRest⟩ := not_or.mp (List.mem_cons.not.mp ho)
    exact (hBusy.2 o (List.mem_singleton.not.mpr hStat)).trans (hRanRegs o hRest)

/-! What the conditions of a pass or drain say (R74, R92). -/

section
variable {s : State} {w : CmdWord} {q : Rect} {die : Nat} {a : ArrRec} (hPick : pick (passConds s die a w) = none)
include hPick

/-- The conditions of a pass keep its entries within the region's rectangle, and so within the array (R92). -/
theorem passConds_rows (hRect : a.rect (jREGION w) = some q) : 256 * q.top + (jEBASE w + jM w) ≤ 1024 := by
  have hIn : (decide (256 * q.h < jEBASE w + jM w), 0x5305) ∈ passConds s die a w := by
    unfold passConds
    rw [hRect]
    exact List.mem_append_left _ (List.mem_append_left _ (by simp))
  have hRows := of_decide_eq_false (pick_none hPick hIn (by decide))
  have hBand := regionRect_rows hRect
  omega

/-- ARR_DRAIN drains. -/
theorem passConds_drain (hOpc : fld w 0 8 = 0x23) : bit w 30 = true := by
  have hIn : (decide (jWFMT w ≠ 0 ∨ jAFMT w ≠ 0 ∨ fld w 64 32 ≠ 0 ∨ fld w 96 32 ≠ 0 ∨ fld w 192 16 ≠ 0) || !bit w 30,
      0x530A) ∈ passConds s die a w := by
    unfold passConds
    rw [hOpc]
    exact List.mem_append_left _ (List.mem_append_right _ (by simp))
  have hNone := pick_none hPick hIn (by decide)
  rw [Bool.or_eq_false_iff] at hNone
  simpa using hNone.2

end

section
variable {s s1 t : State} {c : Nat} {w : CmdWord} {q : Rect} {opc : Nat}

/-- The command runs alone in its array's queue. -/
theorem State.ArrIssued.oneRuns (h : s.ArrIssued s1 c opc w q t) {p : Nat → Job → Prop}
    (hp : ∀ k, (s.arrJob s1 c w).Begun k ((s1.arr (dieOf c) (jARRAY w)).ranSound s1 (dieOf c) w q)
      (s1.ranOut (dieOf c) (s1.arr (dieOf c) (jARRAY w)) w q ((s.arrJob s1 c w).seed (fld w 240 16) (fld w 256 32))) →
      p k.status k) :
    ∃ st, OneRuns (t.arr (dieOf c) (jARRAY w)).queue c (s.coreRec c).seq w st (p st) := by
  obtain ⟨k, hArr, hBegun⟩ := h.arr
  rw [hArr]
  exact ⟨k.status, k, rfl, hBegun.core, hBegun.seq, hBegun.word, hBegun.started, rfl, hp k hBegun⟩

end

/-- Settles O13: an issue of either command on an empty queue begins it at once; the pass rewrites each entry of its
rows and columns once, under keys of their own. -/
theorem passAndDrainOfAnArray : Obligations.PassAndDrainOfAnArray := by
  intro c s s1 w q hSound ha hq hRect hPick
  refine ⟨fun h v hv hCap => ?_, fun h => ?_⟩
  · have hOpc : fld w 0 8 = 0x21 := h.1.opc
    have hChecks : (s1.arr (dieOf c) (jARRAY w)).ranSound s1 (dieOf c) w q = v := hv ▸ ArrRec.ranSound_pass hOpc
    have hIssue := h.arrIssued (Or.inl rfl) hSound ha hq hRect hPick (by rwa [hChecks])
    obtain ⟨k, hArr, -⟩ := hIssue.arr
    rw [ArrRec.ran_pass hOpc] at hArr
    have hAcc := congrArg ArrRec.acc hArr
    have hReg := fun r => congrArg (fun a : ArrRec => a.reg r) hArr
    have hRegion := (hReg (jREGION w)).trans (ArrRec.pass_region (s := s1) (die := dieOf c) (q := q))
    refine ⟨_, rfl, hIssue.issued, fun m hm n hn => ?_, fun e he => ?_, ?_, ?_, ?_, fun r hr => ?_, ?_, hIssue.others,
      hIssue.only, hIssue.regs⟩
    · rw [hAcc]
      exact ArrRec.pass_acc_get hm hn (passConds_rows hPick hRect)
    · rw [hAcc]
      exact ArrRec.pass_acc_other he
    · rw [hRegion]
    · rw [hRegion]
    · rw [hRegion]
    · exact (hReg r).trans (ArrRec.pass_region_ne (s := s1) (die := dieOf c) (q := q) hr)
    · refine hIssue.oneRuns fun k hBegun => ?_
      rw [hChecks] at hBegun
      refine ⟨hBegun.whole, hBegun.fenced, fun hOff => ?_, fun hOn => ?_⟩
      · rw [hBegun.writes, hBegun.bitw, State.ranOut, hOff]
        exact ⟨rfl, rfl⟩
      · rw [hBegun.writes, State.ranOut, if_pos hOn, ArrRec.ran_pass hOpc, hArr]
        rfl
  · have hOpc : fld w 0 8 = 0x23 := h.1.opc
    have hChecks : (s1.arr (dieOf c) (jARRAY w)).ranSound s1 (dieOf c) w q = true := ArrRec.ranSound_drain hOpc
    have hIssue := h.arrIssued (Or.inr rfl) hSound ha hq hRect hPick (Or.inl hChecks)
    obtain ⟨k, hArr, -⟩ := hIssue.arr
    rw [ArrRec.ran_drain hOpc] at hArr
    have hAcc := congrArg ArrRec.acc hArr
    have hRegions := congrArg ArrRec.regions hArr
    refine ⟨_, rfl, hIssue.issued, hAcc, hRegions, ?_, hIssue.others, hIssue.only, hIssue.regs⟩
    refine hIssue.oneRuns fun k hBegun => ⟨hBegun.whole hChecks, ?_⟩
    rw [hBegun.writes, State.ranOut, if_pos (passConds_drain hPick hOpc), ArrRec.ran_drain hOpc]
    rfl

end Sys2Proof.Machine

/-! A swarm op whose members issued different commands under one number (R259, R262). -/

namespace Sys2Proof.Machine

open Sys2Proof.Tests (runs fetched wordOf)

/-- A group of JOB 0 whose members are dies 0 and 1 of this module. -/
def pairGroup : Group := { gid := 3, nmem := 2, capb := 1024, members := [0, 4096] }

/-- A permute that die 1 has issued: its list, one entry long, stands at the start of SRAM, its staging area 64 bytes
further on. -/
def permuteOfDie1 : SwmMember :=
  { die := 1, idx := 1, job := { core := 256, word := wordOf [(0, 0x83), (8, 3), (96, 1), (128, sramBase + 64)] } }

/-- Op 0 of the pair has that permute as its only member yet; the list's entry sends die 1 the byte at offset 8, a 1. -/
def permuteJoinedState : State := ({ State.reset with swm :=
    { groups := [pairGroup], ops := [{ gid := 3, members := [permuteOfDie1] }] } } : State).poke 1 sramBase
  (leBytes 8 (sramBase + 8) ++ leBytes 4 1 ++ leBytes 2 1)

/-- Core 9, of die 0, is about to issue a broadcast with member 1 as its root. -/
def mixedOpWord : CmdWord := wordOf [(0, 0x80), (8, 3), (18, 1), (128, sramBase)]
def mixedOpState : State := runs permuteJoinedState [(0, 0x80), (8, 3), (18, 1), (128, sramBase)]

/-- The broadcast is fetched, and meets no error of memory. -/
theorem mixedOpState_fetches : State.Fetches mixedOpState 9 0x80 (fetched mixedOpState) mixedOpWord ∧
    State.Sound (fetched mixedOpState) := by
  unfold State.Fetches State.Sound
  decide +kernel

/-- The broadcast completes the op's members here, so the op is captured and the permute's piece reaches its staging
area, where a 0 stood. -/
theorem swmBcast_captures_permute : (fetched mixedOpState).byte (2 ^ 40 + sramBase + 64) = 0 ∧
    (match exec (.swmBcast 9) mixedOpState with
      | .next t => t.byte (2 ^ 40 + sramBase + 64)
      | _ => 0) = 1 := by decide +kernel

/-- Refutes O38: its clause on memory asks for a broadcast or reduce and no waiting cell, not that the members that
have joined the op before are broadcasts or reduces too. In `mixedOpState` the one there is a permute, whose piece
the broadcast's capture writes. -/
theorem not_swarmCommandsJoinTheirOp : ¬ Obligations.SwarmCommandsJoinTheirOp := by
  intro h
  obtain ⟨hFetches, hSound⟩ := mixedOpState_fetches
  obtain ⟨-, hJoins⟩ := h.1 9 mixedOpState _ mixedOpWord (.swmBcast 9) 0x80 pairGroup 0 0 _ (by simp) hFetches hSound
    (by decide +kernel) (by decide +kernel) (by decide +kernel) rfl (by decide +kernel) (by decide +kernel)
  obtain ⟨t, ht, -, -, -, -, -, hMem⟩ := hJoins (by decide +kernel)
  obtain ⟨hBefore, hAfter⟩ := swmBcast_captures_permute
  rw [ht] at hAfter
  have hSame := hMem (by decide) (by decide +kernel) (2 ^ 40 + sramBase + 64)
  exact absurd (hAfter.symm.trans (hSame.trans hBefore)) (by decide)

end Sys2Proof.Machine

/-! Completions of engine commands (R91, R106, R119, R128): the issued commands of the cores, the counters, and the
writes held until a command completes. -/

namespace Sys2Proof.Machine

/-! Issued commands. -/

/-- Every issued command without completion in `t` was one in `s`. -/
def State.NoneIssued (s t : State) : Prop := ∀ c, (t.coreRec c).outst ⊆ (s.coreRec c).outst

theorem State.NoneIssued.rfl' (s : State) : s.NoneIssued s := fun _ _ h => h

theorem State.NoneIssued.trans {s t u : State} (h : s.NoneIssued t) (k : t.NoneIssued u) : s.NoneIssued u :=
  fun c _ ho => h c (k c ho)

theorem State.NoneIssued.of_core {s t : State} (h : t.core = s.core) : s.NoneIssued t := fun c => by
  unfold State.coreRec
  rw [h]
  exact List.Subset.refl _

theorem State.NoneIssued.closed {s t : State} (h : s.NoneIssued t) {c q : Nat} (k : s.Closed c q) : t.Closed c q :=
  fun o ho => k o (h c ho)

theorem State.setCoreRec_noneIssued {s : State} {core : Nat} {r : CoreRec} (h : r.outst ⊆ (s.coreRec core).outst) :
    s.NoneIssued (s.setCoreRec core r) := fun c => by
  by_cases hc : c = core
  · rwa [hc, State.coreRec_setCoreRec]
  · rw [State.coreRec_setCoreRec_ne _ _ hc]
    exact List.Subset.refl _

theorem State.setCoreState_noneIssued (s : State) (core st : Nat) : s.NoneIssued (s.setCoreState core st) :=
  .of_core (State.fset_core _ _ _)

/-- A kernel that ends leaves its core without issued commands. -/
theorem State.kernelTryEnd_noneIssued (s : State) (core : Nat) : s.NoneIssued (s.kernelTryEnd core) := by
  unfold State.kernelTryEnd
  dsimp only
  have hEnd : ∀ x : State, x.core = s.core → s.NoneIssued (x.setCoreRec core {}) := fun x hx =>
    (State.NoneIssued.of_core hx).trans (State.setCoreRec_noneIssued (List.nil_subset _))
  have hState : ∀ x : State, x.core = s.core → s.NoneIssued
      (if (x.setCoreRec core {}).coreState core = csHALT ∨ (x.setCoreRec core {}).coreState core = csFENCED then
        x.setCoreRec core {} else (x.setCoreRec core {}).setCoreState core csIDLE) := fun x hx =>
    ite_keeps (P := s.NoneIssued) (hEnd x hx) ((hEnd x hx).trans (State.setCoreState_noneIssued _ _ _))
  refine ite_keeps (P := s.NoneIssued) (hState _ ?_) (.rfl' s)
  split <;> rfl

theorem State.completeRaw_noneIssued (s : State) (core seq st reason nf : Nat) :
    s.NoneIssued (s.completeRaw core seq st reason nf) := by
  unfold State.completeRaw
  dsimp only
  refine ite_keeps (P := s.NoneIssued) (.trans (State.setCoreRec_noneIssued ?_) (State.kernelTryEnd_noneIssued _ _))
    (.rfl' s)
  rw [apply_ite CoreRec.outst, ite_self]
  exact List.filter_subset_self _

/-- A completed command is no longer among the issued ones. -/
theorem State.completeRaw_closed (s : State) (core seq st reason nf : Nat) :
    (s.completeRaw core seq st reason nf).Closed core seq := by
  unfold State.completeRaw
  dsimp only
  split
  · refine (State.kernelTryEnd_noneIssued _ _).closed fun o ho => ?_
    rw [State.coreRec_setCoreRec, apply_ite CoreRec.outst, ite_self] at ho
    simpa using (List.mem_filter.mp ho).2
  · rename_i h
    intro o ho e
    exact h (List.any_eq_true.mpr ⟨o, ho, by simpa using e⟩)

theorem State.wakeCore_noneIssued (s : State) (core : Nat) : s.NoneIssued (s.wakeCore core) := by
  unfold State.wakeCore
  dsimp only
  split
  · have hRec : s.NoneIssued (s.setCoreRec core { s.coreRec core with block := .none }) :=
      State.setCoreRec_noneIssued (List.Subset.refl (s.coreRec core).outst)
    exact ite_keeps (P := s.NoneIssued)
      ((hRec.trans (State.setCoreState_noneIssued _ _ _)).trans (State.completeRaw_noneIssued _ _ _ _ _ _)) (.rfl' s)
  · exact .rfl' s

theorem State.wakeDie_noneIssued (s : State) (die : Nat) : s.NoneIssued (s.wakeDie die) :=
  foldl_keeps (P := s.NoneIssued) (fun _ _ h => ite_keeps (h.trans (State.wakeCore_noneIssued _ _)) h) (.rfl' s)

theorem State.cntAdd_noneIssued (s : State) (die n v : Nat) : s.NoneIssued (s.cntAdd die n v) :=
  (State.NoneIssued.of_core (State.fset_core _ _ _)).trans (State.wakeDie_noneIssued _ _)

/-! Counters. -/

theorem cnt_apart_ne {d n d' n' : Nat} (hn : n < 1024) (hn' : n' < 1024) (h : (d, n) ≠ (d', n')) :
    (RF.WRK_CNT_VALUE d n).apart (RF.WRK_CNT_VALUE d' n') := by
  refine Or.inl fun e => h ?_
  have e : Reg.WRK_CNT d n = Reg.WRK_CNT d' n' := e
  unfold Reg.WRK_CNT at e
  exact Prod.ext (show d = d' by omega) (show n = n' by omega)

theorem State.cnt_lt (s : State) (d n : Nat) : s.cnt d n < 2 ^ 32 := s.fget_lt (RF.WRK_CNT_VALUE d n)

theorem State.Counted.of_cnt {s t : State} (h : ∀ d n, n < 1024 → t.cnt d n = s.cnt d n) : s.Counted t [] :=
  fun d _ n hn => by
    rw [h d n hn, List.count_nil, Nat.add_zero, Nat.mod_eq_of_lt (s.cnt_lt d n)]

theorem State.Counted.trans {s t u : State} {l m : List (Nat × Nat)} (h : s.Counted t l) (k : t.Counted u m) :
    s.Counted u (l ++ m) := fun d hd n hn => by
  rw [k d hd n hn, h d hd n hn, List.count_append, Nat.mod_add_mod, Nat.add_assoc]

theorem State.cntAdd_counted (s : State) (d : Nat) {n : Nat} (hn : n < 1024) : s.Counted (s.cntAdd d n 1) [(d, n)] := by
  intro d' _ n' hn'
  by_cases h : (d', n') = (d, n)
  · obtain ⟨rfl, rfl⟩ := Prod.mk.inj h
    rw [State.cnt_add _ _ _ _ hn, List.count_singleton_self]
  · have hKept : (s.cntAdd d n 1).cnt d' n' = s.cnt d' n' :=
      (State.wakeDie_kept _ _ _ (cnt_apart d' n' hn')).trans (State.fget_fset_ne _ _ _ _ (cnt_apart_ne hn' hn h))
    rw [hKept, List.count_eq_zero.mpr (by simpa using h), Nat.add_zero, Nat.mod_eq_of_lt (s.cnt_lt d' n')]

/-! The end of a command that no cap waits for. -/

theorem State.completeCmd_unbound {s : State} {core seq : Nat} (h : s.Unbound core seq) (st rs nf : Nat) :
    s.completeCmd core seq st rs nf = s.completeRaw core seq st rs nf := by
  have hCap : (s.completeRaw core seq st rs nf).dieCap (dieOf core) = s.dieCap (dieOf core) := by
    unfold State.dieCap
    rw [State.completeRaw_cap]
  unfold State.completeCmd
  dsimp only
  rw [hCap, if_neg]
  intro hBound
  obtain ⟨b, hb, e⟩ := List.any_eq_true.mp hBound
  exact h (of_decide_eq_true e ▸ hb)

/-- Fields that completions and counters leave alone: every one but the core states and the counters. -/
def cntApart (q : FRef) : Prop := coreApart q ∧ ∀ d n, n < 1024 → q.off ≠ Reg.WRK_CNT d n

theorem State.cntAdd_kept (s : State) (d v : Nat) {n : Nat} (hn : n < 1024) : FieldsKept cntApart s (s.cntAdd d n v) :=
  ((FieldsKept.fset s _ _).mono fun _ hq => Or.inl (hq.2 d n hn)).trans
    ((State.wakeDie_kept _ d).mono fun _ hq => hq.1)

/-- What the end of a command changes: it leaves its core's issued commands, and its counter goes up where its status
says so. -/
structure State.Finished (s t : State) (core seq : Nat) (l : List (Nat × Nat)) : Prop where
  closed : t.Closed core seq
  counted : s.Counted t l
  only : State.Only [.regs, .core, .host] s t
  fields : FieldsKept cntApart s t

theorem State.finish_finished {s : State} {core seq : Nat} (h : s.Unbound core seq) {cnt : Nat} (hn : cnt < 1024)
    (st rs nf : Nat) : s.Finished (s.finish core seq cnt st rs nf) core seq
      (if counts st then [(dieOf core, cnt)] else []) := by
  have hRaw : s.Finished (s.completeRaw core seq st rs nf) core seq [] :=
    ⟨s.completeRaw_closed core seq st rs nf,
      .of_cnt fun d n hn => State.completeRaw_kept _ _ _ _ _ _ _ (cnt_apart d n hn),
      only_of_keeps fun _ K k => State.completeRaw_keeps K _ _ _ _ _ k,
      (s.completeRaw_kept core seq st rs nf).mono fun _ hq => hq.1⟩
  unfold State.finish
  rw [State.completeCmd_unbound h]
  dsimp only
  split
  · exact ⟨(State.cntAdd_noneIssued _ _ _ _).closed hRaw.closed, hRaw.counted.trans (State.cntAdd_counted _ _ hn),
      hRaw.only.trans (only_of_keeps fun _ K k => State.cntAdd_keeps K _ _ _ k),
      hRaw.fields.trans (State.cntAdd_kept _ _ _ hn)⟩
  · exact hRaw

theorem State.Finished.eng {s t : State} {core seq : Nat} {l : List (Nat × Nat)} (h : s.Finished t core seq l) :
    t.eng = s.eng := h.only.1 .eng (by decide)

theorem State.Finished.byte {s t : State} {core seq : Nat} {l : List (Nat × Nat)} (h : s.Finished t core seq l)
    (k : Nat) :
    t.byte k = s.byte k := h.only.1 .mem (by decide) k

/-! Held writes. -/

theorem wroteAt_cons_getD (p : Nat × Bytes) (ws : List (Nat × Bytes)) (k : Nat) (b : Byte) :
    (wroteAt (p :: ws) k).getD b = (wroteAt ws k).getD ((wroteAt [p] k).getD b) := by
  obtain ⟨a, bs⟩ := p
  rw [wroteAt_single, wroteAt]
  cases wroteAt ws k <;> rfl

theorem State.Wrote.cons {s t u : State} {p : Nat × Bytes} {ws : List (Nat × Bytes)} (h : s.Wrote t [p])
    (k : t.Wrote u ws) : s.Wrote u (p :: ws) := fun i => by
  rw [k i, h i, ← wroteAt_cons_getD]

theorem State.sramWrite_wrote (s : State) (die off : Nat) (bs : Bytes) :
    s.Wrote (s.sramWrite die off bs) (atSram die [(off, bs)]) := by
  unfold State.sramWrite atSram
  rw [List.map_singleton, Nat.add_assoc]
  exact State.poke_wrote _ _ _ _

theorem State.sramPut_wrote (s : State) (die : Nat) (ws : List (Nat × Bytes)) :
    s.Wrote (s.sramPut die ws) (atSram die ws) := by
  unfold State.sramPut
  induction ws generalizing s with
  | nil => exact fun _ => rfl
  | cons w ws ih => exact (State.sramWrite_wrote s die w.1 w.2).cons (ih _)

/-! Flags of single bits. -/

theorem State.fbit_eq_fget (s : State) {r : FRef} {k : Nat} (h : k < r.w) :
    s.fbit r k = decide (s.fget ⟨r.off, r.lo + k, 1⟩ = 1) := by
  have hBit : ∀ x : Nat, bitN x k = x.testBit k := fun x => by
    rw [bitN, Nat.testBit_eq_decide_div_mod_eq]
  have hOne : ∀ x : Nat, x < 2 → x.testBit 0 = decide (x = 1) := by decide
  have hField : (s.fget ⟨r.off, r.lo + k, 1⟩).testBit 0 = s.fbit r k := by
    rw [State.fbit, hBit, State.fget, State.fget, testBit_fld, testBit_fld, Nat.add_zero]
    simp [h]
  rw [← hField, hOne _ (s.fget_lt _)]

theorem State.fbit_fsetBit (s : State) {r : FRef} {k : Nat} (b : Bool) (h : k < r.w) (hw : r.lo + r.w ≤ 64) :
    (s.fsetBit r k b).fbit r k = b := by
  rw [State.fbit_eq_fget _ h, State.fsetBit, State.fget_fset _ _ _ (show r.lo + k + 1 ≤ 64 by omega)]
  cases b <;> rfl

/-! Completions of the array and matrix-vector commands. -/

theorem State.arrRun_empty {s : State} {die a : Nat} (h : (s.arr die a).queue = []) :
    s.arrRun die a = s.arrBusy die a := by
  unfold State.arrRun
  rw [h]
  rfl

theorem State.arrBusy_shows (s : State) (die : Nat) {a : Nat} (ha : a < 6) :
    (s.arrBusy die a).fbit (RF.ARR_STAT_BUSY die) a = (s.arr die a).queue.any fun j => j.started :=
  State.fbit_fsetBit _ _ ha (show 0 + 6 ≤ 64 by omega)

theorem State.mveRun_empty {s : State} {die : Nat} (h : s.eng.mveq.get [] die = []) : s.mveRun die = s.mveBusy die := by
  unfold State.mveRun
  rw [h]
  rfl

theorem State.mveBusy_shows (s : State) (die : Nat) : (s.mveBusy die).fget (RF.MVE_STAT_BUSY die) =
    b2n ((s.eng.mveq.get [] die).any fun j => j.started) := by
  unfold State.mveBusy
  rw [State.fget_fset _ _ _ (show 0 + 1 ≤ 64 by omega)]
  cases (s.eng.mveq.get [] die).any fun j => j.started <;> rfl

theorem State.mveBusy_recounted (s : State) (die : Nat) : State.Recounted [Reg.MVE_STAT die] s (s.mveBusy die) :=
  (State.Recounted.rfl' _ s).fset List.mem_cons_self

theorem State.mveq_setMveq (s : State) (die : Nat) (q : List Job) : (s.setMveq die q).eng.mveq.get [] die = q :=
  Tbl.get_set _ _ _ _

/-- Engine status registers and counters are registers of their own. -/
theorem cnt_ne_engine (d n d' : Nat) (hn : n < 1024) :
    Reg.WRK_CNT d n ∉ [Reg.ARR_STAT d'] ∧ Reg.WRK_CNT d n ∉ [Reg.MVE_STAT d'] := by
  simp only [List.mem_singleton, Reg.WRK_CNT, Reg.ARR_STAT, Reg.MVE_STAT]
  omega

theorem State.Counted.recounted {s t u : State} {l : List (Nat × Nat)} {o : Nat} (h : s.Counted t l)
    (k : State.Recounted [o] t u) (ho : ∀ d n, n < 1024 → Reg.WRK_CNT d n ∉ [o]) : s.Counted u l := by
  have hSame : t.Counted u [] := .of_cnt fun d n hn => congrArg (fun x => fld x _ _) (k.2 _ (ho d n hn))
  have := h.trans hSame
  rwa [List.append_nil] at this

theorem arrCnt_lt (w : CmdWord) : arrCnt w < 1024 := by
  unfold arrCnt
  split <;> exact fld_lt ..

theorem ArrRec.dropJob_single {a : ArrRec} {j : Job} (h : a.queue = [j]) : a.dropJob j = { a with queue := [] } := by
  unfold ArrRec.dropJob sameJob
  simp [h]

/-- A DEGRADED in place of an OK moves the counter just as well. -/
theorem counts_degraded (st : Nat) (folded : Bool) :
    counts (if st = stOK ∧ folded then stDEGRADED else st) = counts st := by
  split
  · rename_i h
    rw [h.1]
    rfl
  · rfl

section
variable {s : State} {d : DieId} {j : Job}

/-- The state once an array's command has written its results and left the queue, before its completion. -/
def State.arrWritten (s : State) (d a : Nat) (j : Job) : State :=
  (s.commitWrites d j).setArr d a { s.arr d a with queue := [] }

theorem State.arrWritten_only (s : State) (d a : Nat) (j : Job) : State.Only [.mem, .eng] s (s.arrWritten d a j) :=
  only_of_keeps fun _ K h => State.setArr_keeps (K.mono rfl) _ _ _ (State.commitWrites_keeps K _ _ h)

/-- The only command of an array's queue completes. -/
theorem exec_arrCommandComplete_single {a : Fin 6} {r : Fin 16} (hQueue : (s.arr d a).queue = [j])
    (hRun : j.started = true)
    (hRegion : (isLayout j || decide (jREGION j.word = r.val)) = true) (hUnbound : s.Unbound j.core j.seq) :
    ∃ u, exec (.arrCommandComplete d a r) s = .next (u.arrBusy d a) ∧
      (s.arrWritten d a j).Finished u j.core j.seq
        (if counts j.status then [(dieOf j.core, arrCnt j.word)] else []) := by
  have hFind :
    (s.arr d a).queue.find? (fun j => j.started && (isLayout j || decide (jREGION j.word = r.val))) = some j := by
    rw [hQueue, List.find?_singleton, hRun, hRegion]
    rfl
  have hUnbound' : (s.arrWritten d a j).Unbound j.core j.seq := by
    unfold State.Unbound State.dieCap
    rw [(s.arrWritten_only d a j).1 .cap (by decide)]
    exact hUnbound
  have hEnd := State.finish_finished hUnbound' (arrCnt_lt j.word)
    (if j.status = stOK ∧ s.arrFolded d a then stDEGRADED else j.status) 0 j.nflags
  rw [counts_degraded] at hEnd
  refine ⟨_, ?_, hEnd⟩
  have hEmpty : (((s.arrWritten d a j).finish j.core j.seq (arrCnt j.word)
      (if j.status = stOK ∧ s.arrFolded d a then stDEGRADED else j.status) 0 j.nflags).arr d a).queue = [] := by
    rw [State.arr, hEnd.eng, ← State.arr, State.arrWritten, State.arr_setArr]
  rw [← State.arrRun_empty hEmpty]
  show Host.Outcome.next (match (s.arr d a).queue.find? fun j => j.started &&
    (isLayout j || decide (jREGION j.word = r.val)) with | none => s | some j => _) = _
  rw [hFind]
  unfold State.arrWritten
  rw [← ArrRec.dropJob_single hQueue]

theorem State.arrWritten_arr (s : State) (d a : Nat) (j : Job) :
    (s.arrWritten d a j).arr d a = { s.arr d a with queue := [] } := State.arr_setArr ..

/-- The state once the engine's command has written its results and left the queue, before its completion. -/
def State.mveWritten (s : State) (d : Nat) (j : Job) : State := (s.sramPut d j.writes).setMveq d []

theorem State.mveWritten_only (s : State) (d : Nat) (j : Job) : State.Only [.mem, .eng] s (s.mveWritten d j) :=
  only_of_keeps fun _ K h => State.setMveq_keeps (K.mono rfl) _ _ (State.sramPut_keeps K _ _ h)

/-- The only command of a matrix-vector engine's queue completes. -/
theorem exec_mveCommandComplete_single (hQueue : s.eng.mveq.get [] d = [j]) (hRun : j.started = true)
    (hUnbound : s.Unbound j.core j.seq) : ∃ u, exec (.mveCommandComplete d) s = .next (u.mveBusy d) ∧
      (s.mveWritten d j).Finished u j.core j.seq
        (if counts j.status then [(dieOf j.core, fld j.word 320 10)] else []) := by
  have hUnbound' : (s.mveWritten d j).Unbound j.core j.seq := by
    unfold State.Unbound State.dieCap
    rw [(s.mveWritten_only d j).1 .cap (by decide)]
    exact hUnbound
  have hEnd := State.finish_finished hUnbound' (fld_lt j.word 320 10) j.status 0 j.nflags
  refine ⟨_, ?_, hEnd⟩
  have hEmpty :
    ((s.mveWritten d j).finish j.core j.seq (fld j.word 320 10) j.status 0 j.nflags).eng.mveq.get [] d = [] := by
    rw [hEnd.eng, State.mveWritten, State.mveq_setMveq]
  rw [← State.mveRun_empty hEmpty]
  show Host.Outcome.next (match s.eng.mveq.get [] d with | j :: t => _ | [] => s) = _
  rw [hQueue]
  dsimp only
  rw [if_pos hRun]
  rfl

end

/-- Settles O15: the one command is found, its held writes are put into SRAM, and its end closes and counts it. -/
theorem engineCommandsComplete : Obligations.EngineCommandsComplete := by
  intro d s j hDie hRun hUnbound
  have hCore : dieOf j.core = d.val := hDie
  refine ⟨fun a r hQueue hRegion => ?_, fun hQueue => ?_⟩
  · obtain ⟨u, hExec, hEnd⟩ := exec_arrCommandComplete_single hQueue hRun hRegion hUnbound
    have hBusy := u.arrBusy_recounted d a
    have hArr : u.arr d a = { s.arr d a with queue := [] } := by
      rw [State.arr, hEnd.eng]
      exact s.arrWritten_arr d a j
    have hByte : ∀ k, (u.arrBusy d a).byte k = (s.commitWrites d j).byte k := hEnd.byte
    have hStart : s.Counted (s.arrWritten d a j) [] := .of_cnt fun e n _ =>
      congrArg (fun x => fld x _ _) ((s.arrWritten_only d a j).1 .regs (by decide) _)
    have hCounted := (hStart.trans hEnd.counted).recounted hBusy fun e n hn => (cnt_ne_engine e n d hn).1
    rw [hCore] at hCounted
    refine ⟨_, hExec, ?_, ?_, hByte, fun hBits k => ?_, hCounted, ?_, ?_⟩
    · rw [State.arr, hBusy.eng]
      exact hArr
    · exact (State.NoneIssued.of_core hBusy.core).closed hEnd.closed
    · rw [hByte, State.commitWrites, hBits]
      exact s.sramPut_wrote d j.writes k
    · rw [State.arrBusy_shows _ _ a.isLt, hArr]
      rfl
    · exact ((s.arrWritten_only d a j).mono rfl).trans ((hEnd.only.mono rfl).trans (hBusy.only.mono rfl))
  · obtain ⟨u, hExec, hEnd⟩ := exec_mveCommandComplete_single hQueue hRun hUnbound
    have hBusy := u.mveBusy_recounted d
    have hEmpty : u.eng.mveq.get [] d = [] := by
      rw [hEnd.eng]
      exact State.mveq_setMveq _ _ _
    have hStart : s.Counted (s.mveWritten d j) [] := .of_cnt fun e n _ =>
      congrArg (fun x => fld x _ _) ((s.mveWritten_only d j).1 .regs (by decide) _)
    have hCounted := (hStart.trans hEnd.counted).recounted hBusy fun e n hn => (cnt_ne_engine e n d hn).2
    rw [hCore] at hCounted
    refine ⟨_, hExec, ?_, ?_, fun k => ?_, hCounted, ?_, ?_⟩
    · rw [hBusy.eng]
      exact hEmpty
    · exact (State.NoneIssued.of_core hBusy.core).closed hEnd.closed
    · exact (hEnd.byte k).trans (s.sramPut_wrote d j.writes k)
    · rw [State.mveBusy_shows, hEmpty]
      rfl
    · exact ((s.mveWritten_only d j).mono rfl).trans ((hEnd.only.mono rfl).trans (hBusy.only.mono rfl))

end Sys2Proof.Machine

/-! Layouts and weight loads of an array (R76, R79, R85 to R88, R90, R96). -/

namespace Sys2Proof.Machine

/-! The tile that a weight load brings. -/

/-- The weight register that ARR_WLOAD fills from SRAM (R79, R88, R96). -/
def State.weightTile (s : State) (die : Nat) (w : CmdWord) : WReg :=
  let elems := (List.range (fld w 34 9)).flatMap fun i => (List.range (fld w 24 10)).map fun e =>
    elemCode (jWFMT w) (s.sram die (fld w 64 32 + i * (32 * fld w 128 16)) (elemBytes (jWFMT w) (fld w 24 10))) e
  { fmt := jWFMT w, k := fld w 24 10, n := fld w 34 9, elems := elems
    scales := if isMx (jWFMT w) then
      (s.sram die (fld w 96 32) (fld w 34 9 * (fld w 24 10 / 32))).map fun b => b.toNat else []
    res := elems.map fun x => (elemNum (jWFMT w) x).residue
    par := elems.flatMap (codeParity (jWFMT w)) }

/-- A region with its inactive weight register replaced. -/
def RegionRec.putInactive (g : RegionRec) (t : WReg) : RegionRec :=
  if g.sel then { g with wa := t } else { g with wb := t }

theorem RegionRec.inactive_putInactive (g : RegionRec) (t : WReg) : (g.putInactive t).inactive = t := by
  obtain ⟨wa, wb, sel⟩ := g
  cases sel <;> rfl

theorem RegionRec.active_putInactive (g : RegionRec) (t : WReg) : (g.putInactive t).active = g.active := by
  obtain ⟨wa, wb, sel⟩ := g
  cases sel <;> rfl

/-- The array with a tile in the inactive register of the command's region, and a queue. -/
def ArrRec.loaded (a : ArrRec) (w : CmdWord) (t : WReg) (l : List Job) : ArrRec :=
  { a with regions := a.regions.set {} (jREGION w) ((a.reg (jREGION w)).putInactive t), queue := l }

theorem ArrRec.load_eq (a : ArrRec) (s : State) (die : Nat) (w : CmdWord) :
    a.load s die w = a.loaded w (s.weightTile die w) a.queue := by
  unfold ArrRec.load State.weightTile
  simp only [List.flatMap_map]
  rfl

/-- A load by the only command of the queue, which goes on as job `k`. -/
theorem ArrRec.load_single (a : ArrRec) (s : State) (die : Nat) (w : CmdWord) {j k : Job} (hc : k.core = j.core)
    (hs : k.seq = j.seq) : (({ a with queue := [j] } : ArrRec).load s die w).putJob k =
      a.loaded w (s.weightTile die w) [k] := by
  rw [ArrRec.load_eq]
  exact ArrRec.putJob_single (a.loaded w (s.weightTile die w) []) hc hs

theorem ArrRec.loaded_region (a : ArrRec) (w : CmdWord) (t : WReg) (l : List Job) :
    (a.loaded w t l).reg (jREGION w) = (a.reg (jREGION w)).putInactive t := Tbl.get_set ..

theorem ArrRec.loaded_region_ne (a : ArrRec) (w : CmdWord) (t : WReg) (l : List Job) {r : Nat} (h : r ≠ jREGION w) :
    (a.loaded w t l).reg r = a.reg r := Tbl.get_set_ne _ _ _ _ h

theorem State.weightTile_congr {s t : State} (h : t.mem = s.mem) (die : Nat) (w : CmdWord) :
    t.weightTile die w = s.weightTile die w := by
  unfold State.weightTile
  simp only [State.sram_congr h]

/-! A layout or a load that begins. -/

theorem pick_all_false {cs : List (Bool × Nat)} (h : ∀ c ∈ cs, c.1 = false) : pick cs = none := by
  have hNone : cs.filter (fun c => c.1) = [] := List.filter_eq_nil_iff.mpr fun c hc => by simp [h c hc]
  unfold pick
  rw [hNone]
  rfl

/-- The job once its command has begun, holding nothing for its completion. -/
def Job.begunWith (j : Job) (st : Nat) : Job := { j with started := true, status := st }

/-- An array whose only command redivides it. -/
def layoutArr (w : CmdWord) (k : Job) : ArrRec := { tmap := fld w 64 64, tuse := fld w 128 16, queue := [k] }

section
variable {s s1 : State} {die a : Nat} {j : Job}

theorem State.arrTake_layout (hOpc : fld j.word 0 8 = 0x22) (ha : jARRAY j.word < 6)
    (hQueue : (s.arr die a).queue = [j])
    (hZero : reservedZero j.word [(0, 11), (64, 64), (128, 26)] = true)
    (hLayout : layoutOk (fld j.word 64 64) (fld j.word 128 16) = true) : s.arrTake die a j =
      (s.markBusy (2 * die)).setArr die a (layoutArr j.word (j.begunWith (okOr (s.arrFolded die a)))) := by
  unfold State.arrTake
  dsimp only
  rw [if_neg (by omega), if_pos hOpc, pick_all_false (by simp [hZero, hLayout]; omega)]
  unfold State.arrBegin
  dsimp only
  rw [if_pos hOpc]
  unfold ArrRec.putJob sameJob layoutArr Job.begunWith
  simp [hQueue]

theorem State.arrTake_wload (hOpc : fld j.word 0 8 = 0x20) (hGood : s.SramGood)
    (hPick : pick (wloadConds (s.arr die a) j.word) = none) :
    ∃ u, State.Recounted [Reg.WRK_SRAM_ECC die] (s.markBusy (2 * die)) u ∧ s.arrTake die a j =
      u.setArr die a (((s.arr die a).load u die j.word).putJob
        (j.begunWith (okOr (s.arrFolded die a || s.rangesEmu die (wloadRanges j.word))))) := by
  obtain ⟨u, hReads, hCount⟩ := State.sramReads_good (s := s.markBusy (2 * die)) hGood die (wloadRanges j.word)
  refine ⟨u, hCount, ?_⟩
  unfold State.arrTake
  dsimp only
  rw [if_pos hOpc, hPick]
  unfold State.arrBegin
  dsimp only
  rw [if_neg (by omega), if_pos hOpc, hReads]
  rfl

end

/-- What the issue of a command that only rewrites its array leaves: the array is `r`, and counters of register `l`
may have moved. -/
structure State.ArrSet (s s1 : State) (c opc : Nat) (w : CmdWord) (l : List Nat) (r : ArrRec) (t : State) : Prop where
  issued : s.Issued t c opc
  arr : t.arr (dieOf c) (jARRAY w) = r
  busy : t.fbit (RF.ARR_STAT_BUSY (dieOf c)) (jARRAY w) = r.queue.any fun j => j.started
  others : ∀ k, k ≠ dieOf c * 6 + jARRAY w → t.eng.arrs.get {} k = s1.eng.arrs.get {} k
  only : State.Only [.regs, .core, .eng] s1 t
  regs : State.RegsBut (Reg.ARR_STAT (dieOf c) :: l) s1 t

section
variable {s s1 u : State} {c opc : Nat} {w : CmdWord} {l : List Nat}

theorem State.ArrSet.of_recounted (h : s.Enters c opc s1 w) (hOpc : opc ≠ 0x40) (ha : jARRAY w < 6)
    (hCount : State.Recounted l ((s.arrQueued s1 c w).markBusy (2 * dieOf c)) u) (r : ArrRec) :
    State.ArrSet s s1 c opc w l r ((u.setArr (dieOf c) (jARRAY w) r).arrBusy (dieOf c) (jARRAY w)) := by
  have hBusy := (u.setArr (dieOf c) (jARRAY w) r).arrBusy_recounted (dieOf c) (jARRAY w)
  have hMark : State.Only [.eng] (s.arrQueued s1 c w) ((s.arrQueued s1 c w).markBusy (2 * dieOf c)) :=
    only_of_keeps fun _ K k => State.markBusy_keeps K _ k
  have hSet : State.Only [.eng] u (u.setArr (dieOf c) (jARRAY w) r) :=
    only_of_keeps fun _ K k => State.setArr_keeps K _ _ _ k
  refine ⟨h.issued_of_core hOpc ?_, ?_, ?_, fun k hk => ?_, ?_, fun o ho => ?_⟩
  · rw [hBusy.core, State.setArr_core, hCount.core]
    rfl
  · rw [State.arr, hBusy.eng]
    exact State.arr_setArr ..
  · rw [State.arrBusy_shows _ _ ha, State.arr_setArr]
  · rw [hBusy.eng, State.arrs_setArr_ne _ _ _ _ hk, hCount.eng]
    show (s.arrQueued s1 c w).eng.arrs.get {} k = _
    rw [State.arrQueued, State.arrs_setArr_ne _ _ _ _ hk]
    rfl
  · exact ((s.arrQueued_only s1 c w).mono rfl).trans ((hMark.mono rfl).trans ((hCount.only.mono rfl).trans
      ((hSet.mono rfl).trans (hBusy.only.mono rfl))))
  · obtain ⟨hStat, hRest⟩ := not_or.mp (List.mem_cons.not.mp ho)
    exact (hBusy.2 o (List.mem_singleton.not.mpr hStat)).trans (hCount.2 o hRest)

theorem State.Enters.arrLayout (h : s.Enters c 0x22 s1 w) (ha : jARRAY w < 6)
    (hq : (s1.arr (dieOf c) (jARRAY w)).queue = [])
    (hZero : reservedZero w [(0, 11), (64, 64), (128, 26)] = true) (hLayout : layoutOk (fld w 64 64) (fld w 128 16) = true) :
    State.ArrSet s s1 c 0x22 w []
      (layoutArr w ((s.arrJob s1 c w).begunWith (okOr (s1.arrFolded (dieOf c) (jARRAY w))))) (s.arrIssue c 0x22) := by
  rw [h.arrIssue ha hq, State.arrTake_layout (s := s.arrQueued s1 c w) (j := s.arrJob s1 c w) h.1.opc ha
    (by rw [State.arrQueued_arr]) hZero hLayout]
  exact .of_recounted h (by decide) ha (.rfl' _ _) _

theorem State.Enters.arrWload (h : s.Enters c 0x20 s1 w) (hSound : s1.Sound) (ha : jARRAY w < 6)
    (hq : (s1.arr (dieOf c) (jARRAY w)).queue = [])
    (hPick : pick (wloadConds (s1.arr (dieOf c) (jARRAY w)) w) = none) :
    State.ArrSet s s1 c 0x20 w [Reg.WRK_SRAM_ECC (dieOf c)]
      ((s1.arr (dieOf c) (jARRAY w)).loaded w (s1.weightTile (dieOf c) w) [(s.arrJob s1 c w).begunWith
        (okOr (s1.arrFolded (dieOf c) (jARRAY w) || s1.rangesEmu (dieOf c) (wloadRanges w)))]) (s.arrIssue c 0x20) := by
  have hArr := s.arrQueued_arr s1 c w
  obtain ⟨u, hCount, hTake⟩ := State.arrTake_wload (s := s.arrQueued s1 c w) (j := s.arrJob s1 c w) (die := dieOf c)
    (a := jARRAY w) h.1.opc hSound.sramGood (by rw [hArr]; exact hPick)
  have hTile : u.weightTile (dieOf c) w = s1.weightTile (dieOf c) w := State.weightTile_congr hCount.mem _ _
  have hLoad := (s1.arr (dieOf c) (jARRAY w)).load_single u (dieOf c) w (j := s.arrJob s1 c w)
    (k := (s.arrJob s1 c w).begunWith
      (okOr (s1.arrFolded (dieOf c) (jARRAY w) || s1.rangesEmu (dieOf c) (wloadRanges w)))) rfl rfl
  rw [hTile] at hLoad
  rw [h.arrIssue ha hq, hTake, hArr, ← hLoad]
  exact .of_recounted h (by decide) ha hCount _

/-- The command runs alone in the queue and holds nothing for its completion. -/
theorem State.arrJob_oneRuns (s s1 : State) (c : Nat) (w : CmdWord) (st : Nat) :
    OneRuns [(s.arrJob s1 c w).begunWith st] c (s.coreRec c).seq w st (fun j => j.writes = [] ∧ j.bitw = []) :=
  ⟨_, rfl, rfl, rfl, rfl, rfl, rfl, rfl, rfl⟩

end

/-- Settles O12: either command begins at once on the empty queue; a layout leaves a fresh array, a load one with the
tile in its region's inactive register. -/
theorem layoutAndWeightLoad : Obligations.LayoutAndWeightLoad := by
  intro c s s1 w hSound ha hq
  refine ⟨fun h hZero hLayout => ?_, fun h hPick => ?_⟩
  · have hSet := h.arrLayout ha hq hZero hLayout
    refine ⟨_, rfl, hSet.issued, ?_, ?_, ?_, ?_, ?_, ?_, hSet.others, ?_, hSet.only, hSet.regs⟩
    · rw [hSet.arr]
      rfl
    · rw [hSet.arr]
      rfl
    · rw [hSet.arr]
      rfl
    · rw [hSet.arr]
      rfl
    · rw [hSet.arr]
      rfl
    · rw [hSet.arr]
      exact s.arrJob_oneRuns s1 c w _
    · rw [hSet.busy]
      rfl
  · have hSet := h.arrWload hSound ha hq hPick
    have hRegion := (congrArg (fun a : ArrRec => a.reg (jREGION w)) hSet.arr).trans (ArrRec.loaded_region ..)
    refine ⟨_, rfl, hSet.issued, ?_, ?_, fun r hr => ?_, ?_, ?_, ?_, ?_, hSet.others, hSet.only, hSet.regs⟩
    · rw [hRegion, RegionRec.inactive_putInactive]
      rfl
    · rw [hRegion, RegionRec.active_putInactive]
    · rw [hSet.arr, ArrRec.loaded_region_ne _ _ _ _ hr]
    · rw [hSet.arr]
      rfl
    · rw [hSet.arr]
      rfl
    · rw [hSet.arr]
      rfl
    · rw [hSet.arr]
      exact s.arrJob_oneRuns s1 c w _

end Sys2Proof.Machine

/-! A matrix-vector command that starts on its idle engine (R103 to R105, R117). -/

namespace Sys2Proof.Machine

/-- What the engine makes of a command: element bytes and scale bytes of the converted products, and flags. -/
def State.mveOut (s : State) (die : Nat) (j : Job) : Bytes × Bytes × Nat :=
  convRow (mvDFMT j.word)
    (if bit j.word 20 then some fun i => (j.seed (fld j.word 336 16) (fld j.word 352 32)).draw i 0 else none)
    ((List.range (mvN j.word)).map fun n => (mvDot j.word
      (s.vecAt die (mvXFMT j.word) (fld j.word 192 32) (fld j.word 224 32) (mvK j.word)) (s.mvWeights die j.word n)).1)

theorem State.mvWeights_congr {s t : State} (h : t.mem = s.mem) (die : Nat) (w : CmdWord) (n : Nat) :
    t.mvWeights die w n = s.mvWeights die w n := by
  unfold State.mvWeights
  simp only [State.sram_congr h]

theorem State.mveOut_congr {s t : State} (h : t.mem = s.mem) (die : Nat) (j : Job) :
    t.mveOut die j = s.mveOut die j := by
  unfold State.mveOut
  simp only [State.vecAt_congr h, State.mvWeights_congr h]

/-- Job `k` is `j`, started, with the engine's results held. -/
structure Job.MveBegun (j k : Job) (out : Bytes × Bytes × Nat) : Prop where
  core : k.core = j.core
  seq : k.seq = j.seq
  word : k.word = j.word
  started : k.started = true
  status : k.status = stOK ∨ k.status = stDEGRADED
  bitw : k.bitw = j.bitw
  writes : k.writes = (fld j.word 256 32, out.1) :: if isMx (mvDFMT j.word) then [(fld j.word 288 32, out.2.1)] else []

theorem State.mveBegin_good {s : State} (h : s.SramGood) (die : Nat) (j : Job) : ∃ u k, s.mveBegin die j = (u, k) ∧
    State.Recounted [Reg.WRK_SRAM_ECC die] s u ∧ j.MveBegun k (s.mveOut die j) := by
  obtain ⟨u, hReads, hCount⟩ := State.sramReads_good h die (mvXRanges j.word ++ mvWRanges j.word)
  unfold State.mveBegin
  dsimp only
  rw [hReads, ← State.mveOut_congr hCount.mem]
  refine ⟨u, _, rfl, hCount, rfl, rfl, rfl, rfl, okOr_cases _, rfl, ?_⟩
  unfold State.mveOut
  rw [List.map_map]
  rfl

theorem State.mveRun_single {s : State} {die : Nat} {j : Job} (hq : s.eng.mveq.get [] die = [j]) (h : j.started = false)
    (hPick : pick (mvConds j.word) = none) :
    s.mveRun die = ((s.mveBegin die j).1.setMveq die [(s.mveBegin die j).2]).mveBusy die := by
  unfold State.mveRun
  rw [hq]
  simp only [List.length_singleton, State.mvePump]
  rw [hq]
  simp only [h, hPick]
  rfl

/-- MVE_MV on an idle engine. -/
theorem State.Enters.mveMv {s s1 : State} {c : CoreId} {w : CmdWord} (h : s.Enters c 0x30 s1 w) (hSound : s1.Sound)
    (hq : s1.eng.mveq.get [] (dieOf c) = []) (hPick : pick (mvConds w) = none) :
    ∃ t k, exec (.mveMv c) s = .next t ∧ s.Issued t c 0x30 ∧ t.eng.mveq.get [] (dieOf c) = [k] ∧
      (s.arrJob s1 c w).MveBegun k (s1.mveOut (dieOf c) (s.arrJob s1 c w)) ∧
      t.fget (RF.MVE_STAT_BUSY (dieOf c)) = 1 ∧ State.Only [.regs, .core, .eng] s1 t ∧
      State.RegsBut [Reg.MVE_STAT (dieOf c), Reg.WRK_SRAM_ECC (dieOf c)] s1 t := by
  have hJob : (s1.issueNext c w).mkJob c (s.coreRec c).seq w = s.arrJob s1 c w := by
    obtain ⟨_, _, hRec⟩ := h.1.rec
    unfold State.mkJob
    rw [hRec]
    rfl
  let v := (s1.issueNext c w).setMveq (dieOf c) [s.arrJob s1 c w]
  have hv : State.Only [.core, .eng] s1 v := only_of_keeps fun _ K hP =>
    State.setMveq_keeps (K.mono rfl) _ _ (State.issueNext_keeps (K.mono rfl) _ _ hP)
  obtain ⟨u, k, hBegin, hCount, hBegun⟩ := State.mveBegin_good (s := v) hSound.sramGood (dieOf c) (s.arrJob s1 c w)
  have hBusy := (u.setMveq (dieOf c) [k]).mveBusy_recounted (dieOf c)
  have hSet : State.Only [.eng] u (u.setMveq (dieOf c) [k]) := only_of_keeps fun _ K hP => State.setMveq_keeps K _ _ hP
  have hRun : exec (.mveMv c) s = .next ((u.setMveq (dieOf c) [k]).mveBusy (dieOf c)) := by
    show Host.Outcome.next (s.issueTo c 0x30 _) = _
    rw [h.issueTo]
    dsimp only
    have hNil : (s1.issueNext c w).eng.mveq.get [] (dieOf c) = [] := hq
    rw [hJob, hNil, List.nil_append, State.mveRun_single (s := v) (j := s.arrJob s1 c w)
      (State.mveq_setMveq _ _ _) rfl hPick, hBegin]
  refine ⟨_, k, hRun, h.issued_of_core (by decide) ?_, ?_, hBegun, ?_, ?_, fun o ho => ?_⟩
  · rw [hBusy.core, State.setMveq_core, hCount.core]
    rfl
  · rw [hBusy.eng, State.mveq_setMveq]
  · rw [State.mveBusy_shows, State.mveq_setMveq, List.any_cons, hBegun.started]
    rfl
  · exact (hv.mono rfl).trans ((hCount.only.mono rfl).trans ((hSet.mono rfl).trans (hBusy.only.mono rfl)))
  · obtain ⟨hStat, hRest⟩ := not_or.mp (List.mem_cons.not.mp ho)
    exact (hBusy.2 o (List.mem_singleton.not.mpr hStat)).trans (hCount.2 o hRest)

end Sys2Proof.Machine

/-! A vector command (R117, R121 to R127): every read is good, and every byte written lies in the output rows. -/

namespace Sys2Proof.Machine

/-! Sizes of converted rows. -/

theorem elemBits_cases (f : Nat) : (f = 5 ∧ elemBits f = 4) ∨ (f ≠ 5 ∧ ∃ b, elemBits f = 8 * b) := by
  by_cases h : f = 5
  · exact .inl ⟨h, by rw [h]; rfl⟩
  · refine .inr ⟨h, ?_⟩
    unfold elemBits
    rw [if_neg h]
    split_ifs
    exacts [⟨2, rfl⟩, ⟨4, rfl⟩, ⟨3, rfl⟩, ⟨8, rfl⟩, ⟨1, rfl⟩]

theorem elemBytes_whole {f b : Nat} (h : elemBits f = 8 * b) (n : Nat) : elemBytes f n = b * n := by
  unfold elemBytes
  rw [h, Nat.mul_assoc]
  omega

/-- An even number of elements ends on a byte. -/
theorem elemBytes_add (f : Nat) {m : Nat} (h : m % 2 = 0) (n : Nat) :
    elemBytes f m + elemBytes f n = elemBytes f (m + n) := by
  obtain ⟨-, h4⟩ | ⟨-, b, h8⟩ := elemBits_cases f
  · unfold elemBytes
    rw [h4]
    omega
  · simp only [elemBytes_whole h8, Nat.mul_add]

theorem elemBytes_mono (f : Nat) {m n : Nat} (h : m ≤ n) : elemBytes f m ≤ elemBytes f n :=
  Nat.div_le_div_right (Nat.add_le_add_right (Nat.mul_le_mul_left _ h) 7)

theorem leBytes_length (n v : Nat) : (leBytes n v).length = n := by
  induction n generalizing v with
  | zero => rfl
  | succ n ih => exact congrArg (· + 1) (ih _)

theorem packCodes_length (f : Nat) : ∀ l : List Nat, (packCodes f l).length = elemBytes f l.length
  | [] => by simp [packCodes, elemBytes]
  | [a] => by
    obtain ⟨h5, h4⟩ | ⟨h5, b, h8⟩ := elemBits_cases f
    · simp [packCodes, h5, elemBytes, elemBits]
    · rw [elemBytes_whole h8, packCodes, if_neg h5, leBytes_length, h8]
      simp
  | a :: b :: t => by
    obtain ⟨h5, h4⟩ | ⟨h5, k, h8⟩ := elemBits_cases f
    · rw [packCodes, if_pos h5, List.length_cons, packCodes_length f t]
      simp only [elemBytes, h4, List.length_cons]
      omega
    · rw [packCodes, if_neg h5, List.length_append, leBytes_length, packCodes_length f (b :: t), elemBytes_whole h8,
        elemBytes_whole h8, h8, List.length_cons (a := a), Nat.mul_add]
      omega

theorem convMx_length (f : FFmt) (emax : Nat) (us : Option (Nat → Nat)) (xs : List Machine.Num) :
    (convMx f emax us xs).2.1.length = xs.length := by
  unfold convMx
  split <;> simp

/-- A row without block scales. -/
theorem convRow_length {f : Nat} (h : isMx f = false) (us : Draws) (xs : List Machine.Num) :
    (convRow f us xs).1.length = elemBytes f xs.length := by
  unfold convRow
  rw [h]
  simp [packCodes_length]

/-- One block of 32 values with its scale. -/
theorem convRow_block {f : Nat} (h : isMx f = true) (us : Draws) {xs : List Machine.Num} (hx : xs.length = 32) :
    (convRow f us xs).1.length = elemBytes f 32 ∧ (convRow f us xs).2.1.length = 1 := by
  have hBlocks : blocksOf 32 (xs.length / 32 + 1) xs = [xs] := by
    have hDrop : xs.drop 32 = [] := List.drop_eq_nil_of_le (by omega)
    have hSome : xs ≠ [] := fun e => by simp [e] at hx
    rw [hx]
    simp [blocksOf, hDrop, hSome, List.take_of_length_le (Nat.le_of_eq hx)]
  unfold convRow
  rw [h, hBlocks]
  simp [packCodes_length, convMx_length, hx]

/-! What a running VEC changes. -/

/-- Address `k` lies outside the output rows. -/
def VecCmd.Spares (c : VecCmd) (k : Nat) : Prop := ∀ r ∈ c.out.toList, ¬(c.die * 2 ^ 40 + sramBase + r.2 ≤ k ∧
  k < c.die * 2 ^ 40 + sramBase + r.2 + c.rows * rowBytes r.1 c.rowlen)

/-- What the command changes as it runs: bytes of its output rows and counts of corrected words. -/
structure VecCmd.Ran (c : VecCmd) (s t : State) : Prop where
  good : t.SramGood
  bytes : ∀ k, c.Spares k → t.byte k = s.byte k
  only : State.Only [.regs, .mem, .eng] s t
  regs : State.RegsBut [Reg.WRK_SRAM_ECC c.die] s t

theorem VecCmd.Ran.refl {c : VecCmd} {s : State} (h : s.SramGood) :
    c.Ran s s := ⟨h, fun _ _ => rfl, .rfl' _ s, .rfl' _ s⟩

theorem VecCmd.Ran.reads {c : VecCmd} {s t u : State} (h : c.Ran s t)
    (k : State.Recounted [Reg.WRK_SRAM_ECC c.die] t u) :
    c.Ran s u := by
  refine ⟨?_, fun a ha => ?_, h.only.trans (k.only.mono rfl), fun o ho => (k.2 o ho).trans (h.regs o ho)⟩
  · rw [State.SramGood, k.eng]
    exact h.good
  · rw [State.byte, k.mem, ← State.byte, h.bytes a ha]

/-- A write within the output rows. -/
theorem VecCmd.Ran.write {c : VecCmd} {s t : State} (h : c.Ran s t) {f off a : Nat} {bs : Bytes}
    (hOut : c.out = some (f, off))
    (hLo : off ≤ a) (hHi : a + bs.length ≤ off + c.rows * rowBytes f c.rowlen) : c.Ran s (t.sramWrite c.die a bs) := by
  have hRegs : (t.sramWrite c.die a bs).regs = t.regs := State.sramWrite_keeps (keeps_regs _ (by decide)) _ _ _ rfl
  refine ⟨fun e he => ?_, fun k hk => ?_,
    h.only.trans (only_of_keeps fun _ K hP => State.sramWrite_keeps (K.mono rfl) _ _ _ hP),
    h.regs.of_eq hRegs⟩
  · have hEng : (t.sramWrite c.die a bs).eng.sramErr = _ :=
      congrArg (·.sramErr) (State.poke_keeps (keeps_eng _ (by decide)) c.die (sramBase + a) bs rfl)
    rw [hEng] at he
    exact h.good e (List.mem_of_mem_filter he)
  · have hApart := hk (f, off) (by rw [hOut]; exact List.mem_singleton_self _)
    dsimp only at hApart
    rw [State.sramWrite_wrote, atSram, List.map_singleton, wroteAt_single, if_neg (by dsimp only; omega),
      Option.getD_none,
      h.bytes k hk]

/-! Steps that write nothing. -/

/-- Nothing but registers, partials, flags and counts of corrected words differs. -/
structure VRun.Steps (die : Nat) (x y : VRun) : Prop where
  stop : y.stop = x.stop
  pend : y.pend = x.pend
  state : State.Recounted [Reg.WRK_SRAM_ECC die] x.s y.s

theorem VRun.Steps.of_eq {die : Nat} {x y : VRun} (hs : y.s = x.s) (ht : y.stop = x.stop) (hp : y.pend = x.pend) :
    VRun.Steps die x y := ⟨ht, hp, hs ▸ .rfl' _ _⟩

theorem VRun.Steps.refl (die : Nat) (x : VRun) : VRun.Steps die x x := .of_eq rfl rfl rfl

theorem VRun.Steps.trans {die : Nat} {x y z : VRun} (h : VRun.Steps die x y) (k : VRun.Steps die y z) :
    VRun.Steps die x z :=
  ⟨k.stop.trans h.stop, k.pend.trans h.pend, h.state.trans k.state⟩

theorem VRun.Steps.foldl {α : Type} {die : Nat} {f : VRun → α → VRun} (h : ∀ x a, VRun.Steps die x (f x a)) (l : List α)
    (x : VRun) : VRun.Steps die x (l.foldl f x) :=
  List.foldlRecOn (motive := VRun.Steps die x) l f (.refl die x) fun y hy a _ => hy.trans (h y a)

section
variable (die : Nat) (x : VRun) (c : VecCmd) (cs : List Nat)

theorem VRun.put_steps (d l v : Nat) : VRun.Steps die x (x.put d l v) := by
  unfold VRun.put
  split <;> exact .of_eq rfl rfl rfl

/-- A lane's result, with the flags it sets. -/
theorem VRun.put_flags_steps (d l v f : Nat) : VRun.Steps die x { x.put d l v with flags := f } :=
  (x.put_steps die d l v).trans (.of_eq rfl rfl rfl)

theorem VRun.lane_steps (r k m l e : Nat) : VRun.Steps die x (x.lane c cs r k m l e) := by
  unfold VRun.lane
  dsimp only
  split_ifs
  · exact x.put_steps die _ _ _
  · exact x.put_steps die _ _ _
  · exact .refl die x
  · exact x.put_flags_steps die _ _ _ _
  · exact x.put_flags_steps die _ _ _ _
  · exact x.put_flags_steps die _ _ _ _
  · exact x.put_flags_steps die _ _ _ _
  · exact x.put_steps die _ _ _

theorem VRun.chunkOp_steps (r k m base act : Nat) : VRun.Steps die x (x.chunkOp c cs r k m base act) := by
  unfold VRun.chunkOp
  split
  · exact .of_eq rfl rfl rfl
  · exact .foldl (fun y l => y.lane_steps die c cs r k m l _) _ _

end

/-! Chunks. -/

theorem State.vecChunk_good {s : State} (h : s.SramGood) (die f off rowlen ch : Nat) :
    ∃ u r, s.vecChunk die f off rowlen ch = (u, some r) ∧ State.Recounted [Reg.WRK_SRAM_ECC die] s u := by
  unfold State.vecChunk
  extract_lets base n eo so rs
  obtain ⟨u, hReads, hCount⟩ := State.sramReads_good h die rs
  rw [hReads]
  exact ⟨u, _, rfl, hCount⟩

theorem VRun.loadChunk_steps {x : VRun} {c : VecCmd} (hStop : x.stop = false) (hGood : x.s.SramGood) (r ch : Nat) :
    VRun.Steps c.die x (x.loadChunk c r ch) := by
  unfold VRun.loadChunk
  dsimp only
  refine List.foldlRecOn (motive := VRun.Steps c.die x) _ _ (.of_eq rfl rfl rfl) fun y hy p _ => ?_
  have hGood' : y.s.SramGood := by
    rw [State.SramGood, hy.state.eng]
    exact hGood
  obtain ⟨u, v, hChunk, hCount⟩ :=
    State.vecChunk_good hGood' c.die p.1.1 (p.1.2 + r * rowBytes p.1.1 c.rowlen) c.rowlen ch
  rw [if_neg (by simp [hy.stop, hStop]), hChunk]
  exact ⟨hy.stop, hy.pend, hy.state.trans hCount⟩

/-- Values of an MX block that wait for its second half, before chunk `ch`. -/
def VecCmd.pending (c : VecCmd) (ch : Nat) : Nat := match c.out with
  | some (f, _) => if isMx f ∧ ch % 2 = 1 then 16 else 0
  | none => 0

/-- Rows of an MX format consist of whole blocks (R121). -/
def VecCmd.Blocked (c : VecCmd) : Prop := ∀ r ∈ c.out.toList, isMx r.1 = true → c.rowlen % 32 = 0

/-- A row's place among the output rows. -/
theorem row_within {r rows n : Nat} (h : r < rows) : r * n + n ≤ rows * n := by
  have := Nat.mul_le_mul_right n h
  rwa [Nat.succ_mul] at this

theorem VRun.emitChunk_ran {x : VRun} {c : VecCmd} {s : State} (hRan : c.Ran s x.s) (hBlocked : c.Blocked) {r ch : Nat}
    (hr : r < c.rows) (hch : 16 * ch < c.rowlen) (hPend : x.pend.length = c.pending ch) :
    c.Ran s (x.emitChunk c r ch (min 16 (c.rowlen - 16 * ch))).s ∧
      (x.emitChunk c r ch (min 16 (c.rowlen - 16 * ch))).stop = x.stop ∧
      (x.emitChunk c r ch (min 16 (c.rowlen - 16 * ch))).pend.length = c.pending (ch + 1) := by
  unfold VecCmd.pending at hPend ⊢
  unfold VRun.emitChunk
  cases hOut : c.out with
  | none =>
    rw [hOut] at hPend
    exact ⟨hRan, rfl, hPend⟩
  | some p =>
    obtain ⟨f, off⟩ := p
    rw [hOut] at hPend
    have hRow := row_within (n := rowBytes f c.rowlen) hr
    dsimp only at hPend ⊢
    by_cases hMx : isMx f = true
    · have hWhole : c.rowlen % 32 = 0 := hBlocked (f, off) (by rw [hOut]; exact List.mem_singleton_self _) hMx
      by_cases hOdd : ch % 2 = 1
      · rw [if_pos ⟨hMx, hOdd⟩] at hPend
        rw [if_neg (by simp [hMx, hOdd]), if_pos hMx, if_neg (c := isMx f = true ∧ (ch + 1) % 2 = 1) (by omega)]
        have hAct : min 16 (c.rowlen - 16 * ch) = 16 := by omega
        have hLen : (x.pend ++ (List.range 16).map fun l => d32 (x.v.getD (48 + l) 0)).length = 32 := by
          rw [List.length_append, hPend, List.length_map, List.length_range]
        rw [hAct, hLen]
        obtain ⟨hElems, hScale⟩ := convRow_block hMx (if c.sr then some fun i => c.seed.draw (16 * ch + 16 - 32 + i)
          (16 * r + 15) else none) hLen
        have hFit := elemBytes_add f (m := 16 * ch + 16 - 32) (by omega) 32
        have hIn := elemBytes_mono f (m := 16 * ch + 16 - 32 + 32) (n := c.rowlen) (by omega)
        have hBytes : rowBytes f c.rowlen = elemBytes f c.rowlen + c.rowlen / 32 := by rw [rowBytes, if_pos hMx]
        refine ⟨(hRan.write hOut ?_ ?_).write hOut ?_ ?_, rfl, rfl⟩
        · omega
        · rw [hElems]; omega
        · omega
        · rw [hScale]; omega
      · rw [if_neg (fun h => hOdd h.2)] at hPend
        rw [if_pos (by simp [hMx]; omega), if_pos ⟨hMx, by omega⟩]
        refine ⟨hRan, rfl, ?_⟩
        rw [List.length_append, hPend, List.length_map, List.length_range]
        omega
    · rw [if_neg (fun h => hMx h.1)] at hPend
      rw [if_neg (by simp [hMx]), if_neg hMx, if_neg (c := isMx f = true ∧ (ch + 1) % 2 = 1) (fun h => hMx h.1)]
      have hNone : x.pend = [] := List.length_eq_zero_iff.mp hPend
      have hFree : isMx f = false := by simpa using hMx
      have hFit := elemBytes_add f (m := 16 * ch) (by omega) (min 16 (c.rowlen - 16 * ch))
      have hIn := elemBytes_mono f (m := 16 * ch + min 16 (c.rowlen - 16 * ch)) (n := c.rowlen) (by omega)
      have hBytes : rowBytes f c.rowlen = elemBytes f c.rowlen := by rw [rowBytes, if_neg hMx, Nat.add_zero]
      refine ⟨hRan.write hOut (by omega) ?_, rfl, rfl⟩
      rw [convRow_length hFree, hNone, List.nil_append, List.length_map, List.length_range, Nat.add_sub_cancel]
      omega

/-! Rows. -/

/-- A run that has met no bad read, with the values of half a block pending. -/
structure VRun.Sure (c : VecCmd) (s : State) (x : VRun) (n : Nat) : Prop where
  stop : x.stop = false
  ran : c.Ran s x.s
  pend : x.pend.length = n

theorem VRun.Sure.steps {c : VecCmd} {s : State} {x y : VRun} {n : Nat} (h : x.Sure c s n) (k : VRun.Steps c.die x y) :
    y.Sure c s n := ⟨k.stop.trans h.stop, h.ran.reads k.state, by rw [k.pend, h.pend]⟩

/-- What holds before the first turn of a fold over a range, and from turn to turn. -/
theorem foldl_range_induct {β : Type} {P : Nat → β → Prop} {f : β → Nat → β} {b : β} (h0 : P 0 b) (n : Nat)
    (hStep : ∀ i < n, ∀ b, P i b → P (i + 1) (f b i)) : P n ((List.range n).foldl f b) := by
  induction n with
  | zero => exact h0
  | succ n ih =>
    rw [List.range_succ, List.foldl_append]
    exact hStep n (Nat.lt_succ_self n) _ (ih fun i hi => hStep i (Nat.lt_succ_of_lt hi))

section
variable {c : VecCmd} {s : State} {x : VRun} (cs : List Nat) {r : Nat} (lo hi : Nat)

/-- Chunks of a phase other than the last write nothing. -/
theorem VRun.chunk_sure (hx : ∃ n, x.Sure c s n) (hBlocked : c.Blocked) (hr : r < c.rows) {ch : Nat}
    (hch : 16 * ch < c.rowlen)
    (last : Bool) (hLast : last = true → x.Sure c s (c.pending ch)) :
    (∃ n, (x.chunk c cs r lo hi last ch).Sure c s n) ∧
      (last = true → (x.chunk c cs r lo hi last ch).Sure c s (c.pending (ch + 1))) := by
  obtain ⟨n, hx⟩ := hx
  have hLoad := VRun.loadChunk_steps (c := c) hx.stop hx.ran.good r ch
  have hOps := hLoad.trans (VRun.Steps.foldl (f := fun x i =>
    let m := c.mops.getD (lo + i) 0
    if mopScalar m then x else x.chunkOp c cs r (lo + i) m (16 * ch) (min 16 (c.rowlen - 16 * ch))) (fun y i => by
      dsimp only
      split
      · exact .refl _ y
      · exact y.chunkOp_steps _ c cs _ _ _ _ _) (List.range (hi - lo)) (x.loadChunk c r ch))
  unfold VRun.chunk
  dsimp only
  rw [if_neg (by simp [hx.stop]), if_neg (by simp [hLoad.stop, hx.stop])]
  cases last with
  | false => exact ⟨⟨n, hx.steps hOps⟩, fun h => nomatch h⟩
  | true =>
    have hSure := (hLast rfl).steps hOps
    obtain ⟨hRan, hStop, hPend⟩ := VRun.emitChunk_ran hSure.ran hBlocked hr hch hSure.pend
    have hEmit : VRun.Sure c s _ (c.pending (ch + 1)) := ⟨hStop.trans hSure.stop, hRan, hPend⟩
    exact ⟨⟨_, hEmit⟩, fun _ => hEmit⟩

theorem VRun.phase_sure (hx : ∃ n, x.Sure c s n) (hBlocked : c.Blocked) (hr : r < c.rows) (last : Bool) :
    ∃ n, (x.phase c cs r lo hi last).Sure c s n := by
  obtain ⟨n, hx⟩ := hx
  unfold VRun.phase
  rw [if_neg (by simp [hx.stop])]
  extract_lets x0 x1 x2
  have hStart : x0.Sure c s 0 := ⟨hx.stop, hx.ran, rfl⟩
  have hScalar : x1.Sure c s 0 := hStart.steps (.foldl (fun y i => by
    dsimp only
    split
    · exact y.lane_steps _ c cs _ _ _ _ _
    · exact .refl _ y) _ _)
  have hNone : c.pending 0 = 0 := by
    unfold VecCmd.pending
    split <;> simp
  have hChunks : (∃ n, x2.Sure c s n) ∧ (last = true → x2.Sure c s (c.pending ((c.rowlen + 15) / 16))) :=
    foldl_range_induct (P := fun ch (y : VRun) => (∃ n, y.Sure c s n) ∧ (last = true → y.Sure c s (c.pending ch)))
      ⟨⟨0, hScalar⟩, fun _ => hNone.symm ▸ hScalar⟩ _ fun ch hch y hy =>
        y.chunk_sure cs lo hi hy.1 hBlocked hr (by omega) last hy.2
  obtain ⟨m, hSure⟩ := hChunks.1
  rw [if_neg (by simp [hSure.stop])]
  refine ⟨m, hSure.steps (.foldl (fun y i => ?_) _ _)⟩
  dsimp only
  split
  · exact y.put_steps _ _ _ _
  · exact .refl _ y

theorem VRun.row_sure (hx : ∃ n, x.Sure c s n) (hBlocked : c.Blocked) (hr : r < c.rows) :
    ∃ n, (x.row c cs r).Sure c s n := by
  obtain ⟨n, hx⟩ := hx
  unfold VRun.row
  dsimp only
  rw [if_neg (by simp [hx.stop])]
  exact List.foldlRecOn (motive := fun y : VRun => ∃ n, y.Sure c s n) _ _ ⟨n, hx.stop, hx.ran, hx.pend⟩
    fun y hy p _ => y.phase_sure cs _ _ hy hBlocked hr _

theorem VRun.rows_sure (hx : ∃ n, x.Sure c s n) (hBlocked : c.Blocked) :
    ∃ n, ((List.range c.rows).foldl (fun x r => x.row c cs r) x).Sure c s n :=
  List.foldlRecOn (motive := fun y : VRun => ∃ n, y.Sure c s n) _ _ hx fun y hy _ hr =>
    y.row_sure cs hy hBlocked (List.mem_range.mp hr)

end

/-- The whole command: no read is bad, and nothing outside the output rows is written. -/
theorem VecCmd.run_ran {c : VecCmd} {s : State} (h : s.SramGood) (hBlocked : c.Blocked) :
    ∃ t f, c.run s = (t, f, true) ∧ c.Ran s t := by
  obtain ⟨u, hReads, hCount⟩ := State.sramReads_good h c.die [(c.csrc, 32)]
  obtain ⟨n, hx⟩ :=
    VRun.rows_sure (x := { s := u }) ((List.range 8).map fun k => leAt (u.sram c.die c.csrc 32) (4 * k) 4)
    ⟨0, rfl, (VecCmd.Ran.refl h).reads hCount, rfl⟩ hBlocked
  unfold VecCmd.run
  rw [hReads]
  exact ⟨_, _, by dsimp only; rw [hx.stop]; rfl, hx.ran⟩

theorem vecConds_blocked {die : Nat} {w x : CmdWord} (h : pick (vecConds die w x) = none) (ctx : Ctx) :
    (vecCmd die w x ctx).Blocked := by
  intro r hr hMx
  have hIn : (decide ((vecCmd die w x {}).rows = 0 ∨ (vecCmd die w x {}).rowlen = 0) ||
      ((((vecCmd die w x {}).ins ++ (vecCmd die w x {}).out.toList).map fun p => p.1).any isMx &&
        decide ((vecCmd die w x {}).rowlen % 32 ≠ 0)), 0x5405) ∈ vecConds die w x := by
    unfold vecConds
    simp
  have hNone := pick_none h hIn (by decide)
  rw [Bool.or_eq_false_iff, Bool.and_eq_false_iff] at hNone
  obtain ⟨-, hNoMx | hWhole⟩ := hNone
  · rw [List.any_eq_false] at hNoMx
    exact absurd hMx (hNoMx r.1 (List.mem_map_of_mem (List.mem_append_right _ hr)))
  · have hZero : (vecCmd die w x {}).rowlen % 32 = 0 := by simpa using of_decide_eq_false hWhole
    exact hZero

end Sys2Proof.Machine

/-! A core that goes on past its command (R117, R119), and the settled obligation about the lanes. -/

namespace Sys2Proof.Machine

/-- The record and the state of core `c` are as before. -/
def State.CoreKept (c : Nat) (s t : State) : Prop := t.coreRec c = s.coreRec c ∧ t.coreState c = s.coreState c

theorem State.CoreKept.rfl' (c : Nat) (s : State) : State.CoreKept c s s := ⟨rfl, rfl⟩

theorem State.CoreKept.trans {c : Nat} {s t u : State} (h : State.CoreKept c s t) (k : State.CoreKept c t u) :
    State.CoreKept c s u := ⟨k.1.trans h.1, k.2.trans h.2⟩

section
variable {c e : Nat} (h : c ≠ e)
include h

theorem State.setCoreRec_coreKept (s : State) (r : CoreRec) : State.CoreKept c s (s.setCoreRec e r) :=
  ⟨State.coreRec_setCoreRec_ne s r h, State.coreState_setCoreRec ..⟩

theorem State.setCoreState_coreKept (s : State) (st : Nat) : State.CoreKept c s (s.setCoreState e st) :=
  ⟨State.coreRec_setCoreState .., State.coreState_setCoreState_ne s st h⟩

/-- The kernel of another core ends. -/
theorem State.kernelTryEnd_coreKept (s : State) : State.CoreKept c s (s.kernelTryEnd e) := by
  have hEnd : ∀ x : State, State.CoreKept c s x → State.CoreKept c s
      (if (x.setCoreRec e {}).coreState e = csHALT ∨ (x.setCoreRec e {}).coreState e = csFENCED then
        x.setCoreRec e {} else (x.setCoreRec e {}).setCoreState e csIDLE) := fun x hx =>
    have hRec := hx.trans (State.setCoreRec_coreKept h x {})
    ite_keeps (P := State.CoreKept c s) hRec (hRec.trans (State.setCoreState_coreKept h _ _))
  unfold State.kernelTryEnd
  dsimp only
  refine ite_keeps (P := State.CoreKept c s) (hEnd _ ?_) (.rfl' c s)
  split <;> exact ⟨rfl, rfl⟩

theorem State.completeRaw_coreKept (s : State) (seq st rs nf : Nat) : State.CoreKept c s
    (s.completeRaw e seq st rs nf) := by
  unfold State.completeRaw
  exact ite_keeps (P := State.CoreKept c s) ((State.setCoreRec_coreKept h s _).trans (State.kernelTryEnd_coreKept h _))
    (.rfl' c s)

end

/-- A counter that moves leaves a core alone that waits for nothing. -/
theorem State.wakeCore_coreKept {s : State} {c : Nat} (h : (s.coreRec c).block = .none) (e : Nat) :
    State.CoreKept c s (s.wakeCore e) := by
  by_cases hc : c = e
  · unfold State.wakeCore
    dsimp only
    rw [← hc, h]
    exact .rfl' c s
  · unfold State.wakeCore
    dsimp only
    split
    · exact ite_keeps (P := State.CoreKept c s) (((State.setCoreRec_coreKept hc s _).trans
        (State.setCoreState_coreKept hc _ _)).trans (State.completeRaw_coreKept hc _ _ _ _ _)) (.rfl' c s)
    · exact .rfl' c s

theorem State.cntAdd_coreKept {s : State} {c : Nat} (h : (s.coreRec c).block = .none) {n : Nat} (hn : n < 1024)
    (d v : Nat) :
    State.CoreKept c s (s.cntAdd d n v) := by
  have hSet : State.CoreKept c s (s.fset (RF.WRK_CNT_VALUE d n) (s.cnt d n + v)) := by
    refine ⟨rfl, State.fget_fset_ne _ _ _ _ (Or.inl fun e => ?_)⟩
    have e : Reg.WRK_CORE_STATE (c / 256) (c % 256 / 8) = Reg.WRK_CNT d n := e
    unfold Reg.WRK_CORE_STATE Reg.WRK_CNT at e
    omega
  refine foldl_keeps (P := State.CoreKept c s) (fun x e hx => ite_keeps (hx.trans (State.wakeCore_coreKept ?_ _)) hx) hSet
  rw [hx.1, h]

/-- One of the core's issued commands completes, and its kernel runs on. -/
theorem State.completeRaw_issued {s : State} {core seq : Nat} (hBlock : (s.coreRec core).block = .none)
    (hEnding : (s.coreRec core).ending = none) (hReset : (s.coreRec core).resetting = false)
    (hOut : (s.coreRec core).outst.any (fun o => o.1 == seq) = true) (st rs nf : Nat) : ∃ bad,
    s.completeRaw core seq st rs nf = s.setCoreRec core { s.coreRec core with
      outst := (s.coreRec core).outst.filter (fun o => o.1 != seq), bad := bad,
      nflags := Nat.lor (s.coreRec core).nflags nf } := by
  have hRuns : ∀ r : CoreRec, r.block = .none → r.ending = none →
      (s.setCoreRec core r).kernelTryEnd core = s.setCoreRec core r := fun r hb he => by
    unfold State.kernelTryEnd
    dsimp only
    rw [if_neg]
    rw [State.coreRec_setCoreRec, hb, he]
    simp
  unfold State.completeRaw
  dsimp only
  rw [if_pos hOut, hReset, if_neg (by decide)]
  exact ⟨_, hRuns _ hBlock hEnding⟩

/-- The same for the command's end with its counter. -/
theorem State.finish_issued {s : State} {core seq : Nat} (hUnbound : s.Unbound core seq)
    (hBlock : (s.coreRec core).block = .none) (hEnding : (s.coreRec core).ending = none)
    (hReset : (s.coreRec core).resetting = false) (hOut : (s.coreRec core).outst.any (fun o => o.1 == seq) = true)
    {cnt : Nat} (hn : cnt < 1024) (st rs nf : Nat) : ∃ bad,
    (s.finish core seq cnt st rs nf).coreRec core = { s.coreRec core with
      outst := (s.coreRec core).outst.filter (fun o => o.1 != seq), bad := bad,
      nflags := Nat.lor (s.coreRec core).nflags nf } ∧
    (s.finish core seq cnt st rs nf).coreState core = s.coreState core := by
  obtain ⟨bad, hRaw⟩ := State.completeRaw_issued hBlock hEnding hReset hOut st rs nf
  have hRec := congrArg (fun x : State => x.coreRec core) hRaw
  have hState := congrArg (fun x : State => x.coreState core) hRaw
  dsimp only at hRec hState
  rw [State.coreRec_setCoreRec] at hRec
  rw [State.coreState_setCoreRec] at hState
  unfold State.finish
  rw [State.completeCmd_unbound hUnbound]
  dsimp only
  refine ⟨bad, ?_⟩
  split
  · obtain ⟨hRec', hState'⟩ := State.cntAdd_coreKept (c := core) (by rw [hRec]; exact hBlock) hn (dieOf core) 1
    exact ⟨hRec'.trans hRec, hState'.trans hState⟩
  · exact ⟨hRec, hState⟩

theorem State.arrived_cap (s : State) (core : Nat) : (s.arrived core).cap = s.cap := by
  unfold State.arrived
  split <;> rfl

theorem okOr_counts (b : Bool) : counts (okOr b) = true := by cases b <;> rfl

/-- VEC of a core that no reset holds, on sound SRAM. -/
theorem exec_vec_runs {s s1 : State} {c : CoreId} {w : CmdWord} (h : s.Fetches c 0x40 s1 w) (hSound : s1.Sound)
    (hUnbound : s.Unbound c (s.coreRec c).seq)
    (hPick : pick (vecConds (dieOf c) w ((s1.issueNext c w).coreRec c).ext) = none) :
    let cmd := vecCmd (dieOf c) w ((s1.issueNext c w).coreRec c).ext (s.coreRec c).ctx
    ∃ u f st, cmd.run (s1.issueNext c w) = (u, f, true) ∧ cmd.Ran (s1.issueNext c w) u ∧ counts st = true ∧
      u.Unbound c (s.coreRec c).seq ∧ exec (.vec c) s = .next (u.finish c (s.coreRec c).seq (fld w 24 10) st 0 f) := by
  intro cmd
  obtain ⟨l, e, hRec⟩ := h.rec
  obtain ⟨u, f, hRun, hRan⟩ :=
    VecCmd.run_ran (c := cmd) (s := s1.issueNext c w) hSound.sramGood (vecConds_blocked hPick _)
  have hCap : u.cap = s.cap := (hRan.only.1 .cap (by decide)).trans
    ((h.read.1.only.1 .cap (by decide)).trans (State.arrived_cap s c))
  refine ⟨u, f, okOr (u.rangesEmu (dieOf c) cmd.ranges), hRun, hRan, okOr_counts _, ?_, ?_⟩
  · unfold State.Unbound State.dieCap
    rw [hCap]
    exact hUnbound
  · show Host.Outcome.next (s.issue c 0x40 _) = _
    rw [h.issue]
    dsimp only
    unfold State.refuseOr
    rw [hPick]
    dsimp only
    have hCtx : ((s1.issueNext c w).coreRec c).ctx = (s.coreRec c).ctx := by rw [hRec]
    rw [hCtx, hRun]

/-- Settles O14: the engine's command starts with its products held; the lanes' command runs to its end at once. -/
theorem matrixVectorAndLanes : Obligations.MatrixVectorAndLanes := by
  intro c s s1 w hSound
  refine ⟨fun h hq hPick => ?_, fun h hUnbound hReset x hx hPick => ?_⟩
  · obtain ⟨t, k, hRun, hIssued, hQueue, hBegun, hBusy, hOnly, hRegs⟩ := h.mveMv hSound hq hPick
    refine ⟨t, hRun, hIssued, ⟨k.status, k, hQueue, hBegun.core, hBegun.seq, hBegun.word, hBegun.started, rfl,
      hBegun.status, hBegun.bitw, fun r hr => ?_⟩, hBusy, hOnly, hRegs⟩
    rw [hr]
    exact hBegun.writes
  · subst hx
    obtain ⟨u, f, st, hRun, hRan, hCounts, hFree, hExec⟩ := exec_vec_runs h hSound hUnbound hPick
    obtain ⟨l, e, hRec⟩ := h.rec
    have hSame : u.coreRec c = (s1.issueNext c w).coreRec c := by
      unfold State.coreRec
      rw [hRan.only.1 .core (by decide)]
    have hEcc : ∀ q, eccApart q → u.fget q = (s1.issueNext c w).fget q := fun q hq =>
      congrArg (fun x => fld x _ _) (hRan.regs _ (List.mem_singleton.not.mpr (hq.1 (dieOf c))))
    have hState : u.coreState c = csRUN := (hEcc _ (coreState_ecc c)).trans h.state.1
    have hEnd := State.finish_finished hFree (fld_lt w 24 10) st 0 f
    obtain ⟨bad, hRecEnd, hStateEnd⟩ :=
      State.finish_issued hFree (by rw [hSame, hRec]) (by rw [hSame, hRec]; exact h.2.1)
      (by rw [hSame, hRec]; exact hReset) (by rw [hSame, hRec]; simp) (fld_lt w 24 10) st 0 f
    have hNext : State.Only [.core] s1 (s1.issueNext c w) := only_of_keeps fun _ K k => State.issueNext_keeps K _ _ k
    have hCounted : s1.Counted u [] := .of_cnt fun d n hn => hEcc _ (cnt_ecc d n hn)
    rw [hSame, hRec] at hRecEnd
    rw [hCounts, if_pos rfl] at hEnd
    refine ⟨_, hExec, ?_, ?_, hEnd.closed, hStateEnd.trans hState, fun v hv => ?_, hCounted.trans hEnd.counted,
      fun k hk => ?_, ?_⟩
    · rw [hRecEnd]
    · rw [hRecEnd]
    · rw [hv, hRun, hRecEnd]
      exact ⟨rfl, rfl, hEnd.byte⟩
    · exact (hEnd.byte k).trans (hRan.bytes k hk)
    · exact (hNext.mono rfl).trans ((hRan.only.mono rfl).trans (hEnd.only.mono rfl))

end Sys2Proof.Machine

/-! What goes on when a unit of a die is withdrawn (R99, R100, R108, R160, R404): records, journal entries,
completions and reviews of a die's state. -/

namespace Sys2Proof.Machine

/-! Fields of units. -/

/-- Fields of the dies that no record, journal entry, completion, or review of a die's state or capacity writes. -/
def unitField (q : FRef) : Prop := 0x1000000 ≤ q.off ∧ q.off % 0x200000 ≠ 0x26008 ∧
  (q.off % 0x200000 < 0x30000 ∨ 0x30100 ≤ q.off % 0x200000)

theorem unitField_at {q : FRef} {o d : Nat} (h : q.off = 0x1000000 + o + 0x200000 * d)
    (ho : o < 0x200000 ∧ o ≠ 0x26008 ∧ (o < 0x30000 ∨ 0x30100 ≤ o)) : unitField q := by
  unfold unitField
  omega

theorem unitField.hive {q : FRef} (h : unitField q) {o : Nat} (ho : o < 0x1000000) : q.off ≠ o := by
  obtain ⟨hDie, -⟩ := h
  omega

theorem unitField.log {q : FRef} (h : unitField q) : logApart q :=
  logApart_of_ne ⟨h.hive (by decide), h.hive (by decide), h.hive (by decide), h.hive (by decide)⟩

theorem unitField.core {q : FRef} (h : unitField q) : coreApart q := fun d i hi => by
  obtain ⟨-, -, hCore⟩ := h
  unfold Reg.WRK_CORE_STATE
  omega

theorem unitField.memCap {q : FRef} (h : unitField q) (d : Nat) : q.off ≠ Reg.MEM_CAP d := by
  obtain ⟨-, hCap, -⟩ := h
  unfold Reg.MEM_CAP
  omega

theorem capState_unit (d : Nat) : unitField (RF.CAP_DIE_STAT_STATE d) := unitField_at (o := 0x25000) rfl (by decide)

/-! Steps that lose nothing. -/

/-- Fields of a kind read as before; caps, the defect journal and the queued records have lost nothing, and no command
has been issued. -/
structure State.Onward (ok : FRef → Prop) (s t : State) : Prop where
  fields : FieldsKept ok s t
  hives : t.cap.hives = s.cap.hives
  journal : s.boot.journal <+: t.boot.journal
  queued : ∀ d ev, s.Queued d ev → t.Queued d ev
  issued : s.NoneIssued t

/-- The same with the engines as they were. -/
structure State.Calm (ok : FRef → Prop) (s t : State) : Prop extends State.Onward ok s t where
  eng : t.eng = s.eng

section
variable {ok ok' : FRef → Prop} {s t u : State}

theorem State.Onward.rfl' (ok : FRef → Prop) (s : State) : State.Onward ok s s :=
  ⟨.refl _ _, rfl, List.prefix_rfl, fun _ _ h => h, .rfl' s⟩

theorem State.Onward.trans (h : State.Onward ok s t) (k : State.Onward ok t u) : State.Onward ok s u :=
  ⟨h.fields.trans k.fields, k.hives.trans h.hives, h.journal.trans k.journal,
    fun d ev e => k.queued d ev (h.queued d ev e),
    h.issued.trans k.issued⟩

theorem State.Onward.mono (h : State.Onward ok s t) (i : ∀ q, ok' q → ok q) : State.Onward ok' s t :=
  { h with fields := h.fields.mono i }

theorem State.Onward.noCap (h : State.Onward ok s t) {d : Nat} (hd : ok (RF.CAP_DIE_STAT_STATE d)) (k : s.NoCap d) :
    t.NoCap d := ⟨(h.fields _ hd).trans k.1, h.hives.trans k.2⟩

theorem State.Onward.journaled_before (h : State.Onward ok s t) {d kind unit st : Nat}
    (k : t.Journaled u d kind unit st) :
    s.Journaled u d kind unit st := by
  obtain ⟨q, l, m, hu⟩ := k
  obtain ⟨x, hx⟩ := h.journal
  exact ⟨q, x ++ l, m, by rw [hu, ← hx, List.append_assoc s.boot.journal]⟩

theorem State.Onward.journaled_after (h : State.Onward ok t u) {d kind unit st : Nat}
    (k : s.Journaled t d kind unit st) :
    s.Journaled u d kind unit st := by
  obtain ⟨q, l, m, ht⟩ := k
  obtain ⟨x, hx⟩ := h.journal
  exact ⟨q, l, m ++ x, by rw [← hx, ht]; simp⟩

theorem State.Onward.foldl {α : Type} {f : State → α → State} {l : List α} (s : State)
    (h : ∀ t, ∀ a ∈ l, State.Onward ok t (f t a)) : State.Onward ok s (l.foldl f s) :=
  List.foldlRecOn (motive := State.Onward ok s) l f (.rfl' _ s) fun t ht a ha => ht.trans (h t a ha)

theorem State.Calm.rfl' (ok : FRef → Prop) (s : State) : State.Calm ok s s := ⟨.rfl' _ _, rfl⟩

theorem State.Calm.trans (h : State.Calm ok s t) (k : State.Calm ok t u) : State.Calm ok s u :=
  ⟨h.toOnward.trans k.toOnward, k.eng.trans h.eng⟩

theorem State.Calm.mono (h : State.Calm ok s t) (i : ∀ q, ok' q → ok q) :
    State.Calm ok' s t := ⟨h.toOnward.mono i, h.eng⟩

/-- A step that leaves the log, the journal, caps and cores alone. -/
theorem State.Onward.of_only {w : List Comp} (h : State.Only w s t) (hw : ∀ c ∈ [Comp.cap, .boot, .log, .core], c ∉ w)
    (hf : FieldsKept ok s t) : State.Onward ok s t := by
  have hSame : ∀ c ∈ [Comp.cap, .boot, .log, .core], c.same s t := fun c hc => h.1 c (hw c hc)
  have hCap : t.cap = s.cap := hSame .cap (by simp)
  have hBoot : t.boot = s.boot := hSame .boot (by simp)
  have hLog : t.log = s.log := hSame .log (by simp)
  refine ⟨hf, by rw [hCap], by rw [hBoot], fun d ev k => ?_, .of_core (hSame .core (by simp))⟩
  unfold State.Queued
  rw [hLog]
  exact k

theorem State.Calm.of_only {w : List Comp} (h : State.Only w s t) (hw : ∀ c ∈ [Comp.cap, .boot, .log, .core], c ∉ w)
    (he : Comp.eng ∉ w) (hf : FieldsKept ok s t) : State.Calm ok s t := ⟨.of_only h hw hf, h.1 .eng he⟩

end

/-! Registers, records and the journal. -/

theorem State.fset_calm (s : State) (r : FRef) (v : Nat) : State.Calm (fun q => q.apart r) s (s.fset r v) :=
  .of_only (only_of_keeps fun _ K h => State.fset_keeps K r v h : State.Only [.regs] _ _) (by decide) (by decide)
    (.fset s r v)

theorem State.setEng_onward (ok : FRef → Prop) (s : State) (e : EngSt) : State.Onward ok s { s with eng := e } :=
  ⟨.of_eq rfl, rfl, List.prefix_rfl, fun _ _ h => h, .of_core rfl⟩

/-- A record only adds to the queue of its die or to the records held there. -/
theorem State.dieRec_queues (s : State) (die code unit sev : Nat) (p : Bytes) (d : Nat) :
    s.log.recq.get [] d ⊆ (s.dieRec die code unit sev p).log.recq.get [] d ∧
      s.log.held.get [] d ⊆ (s.dieRec die code unit sev p).log.held.get [] d := by
  have hGrow : ∀ (x : Tbl (List QRec)) (r : QRec), x.get [] d ⊆ (x.set [] die (x.get [] die ++ [r])).get [] d := by
    intro x r
    by_cases hd : d = die
    · rw [hd, Tbl.get_set]
      exact List.subset_append_left _ _
    · rw [Tbl.get_set_ne _ _ _ _ hd]
      exact List.Subset.refl _
  unfold State.dieRec
  dsimp only
  split_ifs
  exacts [⟨List.Subset.refl _, hGrow _ _⟩, ⟨hGrow _ _, List.Subset.refl _⟩, ⟨List.Subset.refl _, List.Subset.refl _⟩,
    ⟨hGrow _ _, List.Subset.refl _⟩]

/-- An error record is never dropped (R430). -/
theorem State.dieRec_queued (s : State) (die code unit : Nat) {sev : Nat} (h : 2 ≤ sev) (p : Bytes) :
    (s.dieRec die code unit sev p).Queued die (mkEvent code die unit sev p) := by
  unfold State.dieRec
  dsimp only
  rw [if_pos h]
  split
  · exact ⟨_, .inr (by rw [Tbl.get_set]; exact List.mem_append_right _ (List.mem_singleton_self _)), rfl⟩
  · exact ⟨_, .inl (by rw [Tbl.get_set]; exact List.mem_append_right _ (List.mem_singleton_self _)), rfl⟩

theorem State.dieRec_calm (ok : FRef → Prop) (s : State) (die code unit sev : Nat) (p : Bytes) :
    State.Calm ok s (s.dieRec die code unit sev p) := by
  have hOnly : State.Only [.log] s (s.dieRec die code unit sev p) :=
    only_of_keeps fun _ K h => State.dieRec_keeps K _ _ _ _ _ h
  have hCap : (s.dieRec die code unit sev p).cap = s.cap := hOnly.1 .cap (by decide)
  have hBoot : (s.dieRec die code unit sev p).boot = s.boot := hOnly.1 .boot (by decide)
  refine ⟨⟨.of_eq (by simp), by rw [hCap], by rw [hBoot], fun d ev h => ?_, .of_core (hOnly.1 .core (by decide))⟩,
    hOnly.1 .eng (by decide)⟩
  obtain ⟨hQueue, hHeld⟩ := s.dieRec_queues die code unit sev p d
  obtain ⟨r, hr, hEv⟩ := h
  exact ⟨r, hr.imp (hQueue ·) (hHeld ·), hEv⟩

theorem State.journal_grows (s : State) (die kind unit st : Nat) : (s.journal die kind unit st).boot.journal =
    s.boot.journal ++ [((s.boot.jseq + 1) % 2 ^ 32, die, kind, unit, st)] := by
  unfold State.journal
  dsimp only
  split <;> rfl

theorem State.journal_journaled (s : State) (die kind unit st : Nat) :
    s.Journaled (s.journal die kind unit st) die kind unit st :=
  ⟨_, [], [], by rw [State.journal_grows, List.append_nil]⟩

theorem State.journal_calm (s : State) (die kind unit st : Nat) : State.Calm unitField s
    (s.journal die kind unit st) := by
  have hOnly : State.Only [.regs, .boot] s (s.journal die kind unit st) :=
    only_of_keeps fun _ K h => State.journal_keeps K _ _ _ _ h
  have hLog : (s.journal die kind unit st).log = s.log := hOnly.1 .log (by decide)
  have hCap : (s.journal die kind unit st).cap = s.cap := hOnly.1 .cap (by decide)
  refine ⟨⟨?_, by rw [hCap], by rw [State.journal_grows]; exact List.prefix_append _ _, fun d ev h => ?_,
    .of_core (hOnly.1 .core (by decide))⟩, hOnly.1 .eng (by decide)⟩
  · unfold State.journal
    exact .ite (.of_eq rfl) (.trans (.of_eq rfl) ((FieldsKept.fset _ _ _).mono fun q hq => Or.inl (hq.hive (by decide))))
  · unfold State.Queued
    rw [hLog]
    exact h

/-- Records of the hive leave the queues of the dies alone. -/
theorem State.logArrive_queues (s : State) (time : Nat) (e : LogEvent) (flags : Nat) :
    (s.logArrive time e flags).log.recq = s.log.recq ∧ (s.logArrive time e flags).log.held = s.log.held := by
  have hMirror : ∀ (x : State) r, (x.mirrorPut r).log.recq = x.log.recq ∧ (x.mirrorPut r).log.held = x.log.held :=
    fun _ _ => ⟨rfl, rfl⟩
  have hSlot : ∀ (x : State) n r, (x.slotPut n r).log.recq = x.log.recq ∧ (x.slotPut n r).log.held = x.log.held := by
    intro x n r
    unfold State.slotPut
    dsimp only
    split <;> exact ⟨rfl, rfl⟩
  have hPush : ∀ (x : State) n r, (x.pushRec n r).log.recq = x.log.recq ∧ (x.pushRec n r).log.held = x.log.held := by
    intro x n r
    unfold State.pushRec
    split <;> exact ⟨rfl, rfl⟩
  unfold State.logArrive
  dsimp only
  split_ifs <;> simp [hMirror, hSlot, hPush]

theorem State.hiveRec_calm (s : State) (code unit sev : Nat) (p : Bytes) :
    State.Calm unitField s (s.hiveRec code unit sev p) := by
  have hQueues := s.logArrive_queues s.now (mkEvent code 8 unit sev p) 0
  refine ⟨⟨(s.hiveRec_kept code unit sev p).mono fun _ hq => hq.log, by simp, by simp, fun d ev h => ?_,
    .of_core (by simp)⟩, by simp⟩
  unfold State.Queued State.hiveRec
  rw [hQueues.1, hQueues.2]
  exact h

/-! The state of a die. -/

theorem State.setDieState_calm (s : State) (die st : Nat) : State.Calm unitField s (s.setDieState die st) := by
  refine .of_only (only_of_keeps fun _ K h => State.setDieState_keeps K _ _ h : State.Only [.out, .regs] _ _) (by decide)
    (by decide) ?_
  unfold State.setDieState
  exact .ite (.refl _ _) (((FieldsKept.fset s _ _).mono fun q hq => Or.inl (hq.hive (o := Reg.QN_DIE_MAP) (by decide))).trans
    ((State.isum_kept _ _).mono fun q hq => hq.hive (by decide)))

theorem State.Calm.ite {ok : FRef → Prop} {s a b : State} {p : Prop} [Decidable p] (h : State.Calm ok s a)
    (k : State.Calm ok s b) : State.Calm ok s (if p then a else b) := by
  split
  · exact h
  · exact k

theorem State.dieDegraded_calm (s : State) (die : Nat) : State.Calm unitField s (s.dieDegraded die) :=
  .ite (s.setDieState_calm die 1) (.rfl' _ s)

theorem State.dieReview_calm (s : State) (die : Nat) : State.Calm unitField s (s.dieReview die) :=
  .ite (s.setDieState_calm die _) (.rfl' _ s)

theorem State.recap_calm (s : State) (die : Nat) : State.Calm unitField s (s.recap die) := by
  have hOne : ∀ (x : State) (r : FRef) v, r.off = Reg.MEM_CAP die → FieldsKept unitField x (x.fset r v) :=
    fun x r v hr =>
    (FieldsKept.fset x r v).mono fun q hq => Or.inl (hr ▸ hq.memCap die)
  exact .of_only (only_of_keeps fun _ K h => State.recap_keeps K _ h : State.Only [.regs] _ _) (by decide) (by decide)
    (((hOne _ _ _ rfl).trans (hOne _ _ _ rfl)).trans (hOne _ _ _ rfl))

theorem State.reevaluate_calm (s : State) : State.Calm unitField s s.reevaluate := by
  refine List.foldlRecOn (motive := State.Calm unitField s) _ _ (.rfl' _ s) fun x hx u _ => hx.trans ?_
  unfold State.reevalOne
  refine .ite (.rfl' _ x) (.trans ?_ (State.hiveRec_calm _ _ _ _ _))
  exact ⟨⟨.of_eq rfl, rfl, List.prefix_rfl, fun _ _ h => h, .of_core rfl⟩, rfl⟩

/-- A die fails while no cap waits for votes. -/
theorem State.dieFailed_calm {s : State} {die : Nat} (h : s.NoCap die) : State.Calm unitField s (s.dieFailed die) := by
  have hRec := ((s.setDieState_calm die 2).trans (State.journal_calm _ die 6 die 2)).trans
    (State.hiveRec_calm _ 0x8009 0 2 (s.unitPay die 0 0))
  have hNone := hRec.noCap (capState_unit die) h
  unfold State.dieFailed
  dsimp only
  rw [State.voteFailed_none hNone.1, hNone.2]
  exact .ite (.rfl' _ s) (hRec.trans (State.reevaluate_calm _))

/-! Completions. -/

theorem State.completeRaw_calm (s : State) (core seq st rs nf : Nat) :
    State.Calm unitField s (s.completeRaw core seq st rs nf) := by
  have hOnly : State.Only [.regs, .core, .host] s (s.completeRaw core seq st rs nf) :=
    only_of_keeps fun _ K h => State.completeRaw_keeps K _ _ _ _ _ h
  refine ⟨⟨(s.completeRaw_kept core seq st rs nf).mono fun _ hq => hq.core, by simp, by simp, fun d ev h => ?_,
    s.completeRaw_noneIssued core seq st rs nf⟩, hOnly.1 .eng (by decide)⟩
  unfold State.Queued
  rw [State.completeRaw_log]
  exact h

/-- A command of a die that has no cap completes: it fails no vote. -/
theorem State.completeCmd_noCap {s : State} {core : Nat} (h : s.capState (dieOf core) = 0) (seq st rs nf : Nat) :
    s.completeCmd core seq st rs nf = s.completeRaw core seq st rs nf ∨ ∃ c,
      s.completeCmd core seq st rs nf = (s.completeRaw core seq st rs nf).setDieCap (dieOf core) c := by
  have hNone : (s.completeRaw core seq st rs nf).capState (dieOf core) = 0 :=
    ((s.completeRaw_calm core seq st rs nf).fields _ (capState_unit _)).trans h
  have hTry : ∀ x : State, x.capState (dieOf core) = 0 → x.tryVote (dieOf core) = x := by
    intro x hx
    unfold State.tryVote
    dsimp only
    split
    · rw [if_neg (by omega)]
    · rfl
  have hVote : ∀ c, ((s.completeRaw core seq st rs nf).setDieCap (dieOf core) c).voteFailed (dieOf core) =
      (s.completeRaw core seq st rs nf).setDieCap (dieOf core) c := fun c => State.voteFailed_none hNone
  unfold State.completeCmd
  dsimp only
  split
  · rw [hVote, ite_self]
    exact .inr ⟨_, hTry _ hNone⟩
  · exact .inl rfl

theorem State.completeCmd_calm {s : State} {core : Nat} (h : s.capState (dieOf core) = 0) (seq st rs nf : Nat) :
    State.Calm unitField s (s.completeCmd core seq st rs nf) := by
  have hRaw := s.completeRaw_calm core seq st rs nf
  obtain e | ⟨c, e⟩ := State.completeCmd_noCap h seq st rs nf
  · rwa [e]
  · rw [e]
    exact hRaw.trans ⟨⟨.of_eq rfl, rfl, List.prefix_rfl, fun _ _ k => k, .of_core rfl⟩, rfl⟩

theorem State.completeCmd_closed {s : State} {core : Nat} (h : s.capState (dieOf core) = 0) (seq st rs nf : Nat) :
    (s.completeCmd core seq st rs nf).Closed core seq := by
  have hRaw := s.completeRaw_closed core seq st rs nf
  obtain e | ⟨c, e⟩ := State.completeCmd_noCap h seq st rs nf
  · rwa [e]
  · rw [e]
    exact hRaw

end Sys2Proof.Machine

/-! A physical array leaves service (R99 to R102). -/

namespace Sys2Proof.Machine

/-! Fields of the arrays. -/

/-- Unit fields outside the map, the states and the status of a die's arrays. -/
structure ArrApart (d : Nat) (q : FRef) : Prop where
  unit : unitField q
  state : q.off ≠ Reg.ARR_PHYS_STATE d
  map : q.off ≠ Reg.ARR_LMAP d
  stat : q.off ≠ Reg.ARR_STAT d

/-- Unit fields other than SPARE_USED and FOLDED_ANY. -/
structure FlagsApart (d : Nat) (q : FRef) : Prop where
  unit : unitField q
  spareUsed : q.apart (RF.ARR_STAT_SPARE_USED d)
  foldedAny : q.apart (RF.ARR_STAT_FOLDED_ANY d)

theorem ArrApart.flags {d : Nat} {q : FRef} (h : ArrApart d q) : FlagsApart d q :=
  ⟨h.unit, Or.inl h.stat, Or.inl h.stat⟩

/-- Registers of a die other than the three of its arrays. -/
theorem ArrApart.of_off {d : Nat} {q : FRef} (h : unitField q)
    (hOff : q.off ≠ Reg.ARR_PHYS_STATE d ∧ q.off ≠ Reg.ARR_LMAP d ∧ q.off ≠ Reg.ARR_STAT d) : ArrApart d q :=
  ⟨h, hOff.1, hOff.2.1, hOff.2.2⟩

theorem capState_arr (d : Nat) : ArrApart d (RF.CAP_DIE_STAT_STATE d) := by
  refine .of_off (capState_unit d) ?_
  simp only [RF.CAP_DIE_STAT_STATE, Reg.CAP_DIE_STAT, Reg.ARR_PHYS_STATE, Reg.ARR_LMAP, Reg.ARR_STAT]
  omega

theorem arrSt_unit (d p : Nat) : unitField (RF.ARR_PHYS_STATE_STATE d p) := unitField_at (o := 0x20000) rfl (by decide)

theorem arrPhys_unit (d l : Nat) : unitField (RF.ARR_LMAP_PHYS d l) := unitField_at (o := 0x20008) rfl (by decide)

theorem arrSt_apart (d : Nat) {p x : Nat} (h : x ≠ p) :
    (RF.ARR_PHYS_STATE_STATE d x).apart (RF.ARR_PHYS_STATE_STATE d p) := by
  simp only [FRef.apart, RF.ARR_PHYS_STATE_STATE]
  omega

theorem arrPhys_apart (d : Nat) {l x : Nat} (h : x ≠ l) : (RF.ARR_LMAP_PHYS d x).apart (RF.ARR_LMAP_PHYS d l) := by
  simp only [FRef.apart, RF.ARR_LMAP_PHYS]
  omega

theorem arrState_ne_map (d : Nat) : Reg.ARR_PHYS_STATE d ≠ Reg.ARR_LMAP d := by
  simp only [Reg.ARR_PHYS_STATE, Reg.ARR_LMAP]
  omega

theorem arrState_ne_stat (d : Nat) : Reg.ARR_PHYS_STATE d ≠ Reg.ARR_STAT d := by
  simp only [Reg.ARR_PHYS_STATE, Reg.ARR_STAT]
  omega

theorem arrMap_ne_stat (d : Nat) : Reg.ARR_LMAP d ≠ Reg.ARR_STAT d := by
  simp only [Reg.ARR_LMAP, Reg.ARR_STAT]
  omega

theorem arrSt_flags (d p : Nat) : FlagsApart d (RF.ARR_PHYS_STATE_STATE d p) :=
  ⟨arrSt_unit d p, Or.inl (arrState_ne_stat d), Or.inl (arrState_ne_stat d)⟩

theorem arrPhys_flags (d l : Nat) : FlagsApart d (RF.ARR_LMAP_PHYS d l) :=
  ⟨arrPhys_unit d l, Or.inl (arrMap_ne_stat d), Or.inl (arrMap_ne_stat d)⟩

theorem State.arrSt_setArrSt (s : State) (d : Nat) {p v : Nat} (hp : p < 7) (hv : v < 16) :
    (s.setArrSt d p v).arrSt d p = v := by
  unfold State.arrSt State.setArrSt
  rw [State.fget_fset _ _ _ (show 4 * p + 4 ≤ 64 by omega)]
  exact Nat.mod_eq_of_lt hv

theorem State.setArrSt_calm (s : State) (d p v : Nat) :
    State.Calm (fun q => q.apart (RF.ARR_PHYS_STATE_STATE d p)) s (s.setArrSt d p v) := s.fset_calm _ _

theorem State.arrFlags_calm (s : State) (d : Nat) : State.Calm (FlagsApart d) s (s.arrFlags d) :=
  ((s.fset_calm _ _).mono fun _ hq => hq.spareUsed).trans ((State.fset_calm _ _ _).mono fun _ hq => hq.foldedAny)

/-! The commands of a logical array. -/

/-- A list of a die's commands completes FENCED. -/
def State.jobsFenced (s : State) (q : List Job) : State :=
  q.foldl (fun (s : State) j => s.completeCmd j.core j.seq stFENCED 0 (if j.started then j.nflags else 0)) s

theorem State.jobsFenced_calm {q : List Job} {d : Nat} (hJobs : JobsOf q d) {s : State} (h : s.capState d = 0) :
    State.Calm unitField s (s.jobsFenced q) ∧ ∀ j ∈ q, (s.jobsFenced q).Closed j.core j.seq := by
  unfold State.jobsFenced
  induction q generalizing s with
  | nil => exact ⟨.rfl' _ s, fun j hj => nomatch hj⟩
  | cons j q ih =>
    have hDie : dieOf j.core = d := hJobs j List.mem_cons_self
    have hCap : s.capState (dieOf j.core) = 0 := hDie ▸ h
    have hFirst := State.completeCmd_calm hCap j.seq stFENCED 0 (if j.started then j.nflags else 0)
    obtain ⟨hRest, hClosed⟩ := ih (fun k hk => hJobs k (List.mem_cons_of_mem _ hk))
      ((hFirst.fields _ (capState_unit d)).trans h)
    refine ⟨hFirst.trans hRest, fun k hk => ?_⟩
    obtain rfl | hk := List.mem_cons.mp hk
    · exact hRest.issued.closed (State.completeCmd_closed hCap _ _ _ _)
    · exact hClosed k hk

section
variable {s : State} {d l : Nat}

theorem State.arrFence_eq (s : State) (d l : Nat) :
    s.arrFence d l = ((s.setArr d l {}).arrBusy d l).jobsFenced (s.arr d l).queue := rfl

/-- The cleared array and its BUSY bit. -/
theorem State.arrCleared_onward (s : State) (d l : Nat) :
    State.Onward (fun q => q.apart ⟨Reg.ARR_STAT d, 0 + l, 1⟩) s ((s.setArr d l {}).arrBusy d l) :=
  (s.setEng_onward _ _).trans (State.fset_calm _ _ _).toOnward

section
variable (hCap : s.capState d = 0) (hJobs : JobsOf (s.arr d l).queue d)
include hCap hJobs

theorem State.arrFence_calm : State.Calm unitField ((s.setArr d l {}).arrBusy d l) (s.arrFence d l) ∧
    ∀ j ∈ (s.arr d l).queue, (s.arrFence d l).Closed j.core j.seq := by
  rw [State.arrFence_eq]
  exact State.jobsFenced_calm hJobs (((s.arrCleared_onward d l).fields _ (Or.inl (capState_arr d).stat)).trans hCap)

theorem State.arrFence_onward :
    State.Onward (fun q => unitField q ∧ q.apart ⟨Reg.ARR_STAT d, 0 + l, 1⟩) s (s.arrFence d l) :=
  ((s.arrCleared_onward d l).mono fun _ hq => hq.2).trans ((State.arrFence_calm hCap hJobs).1.toOnward.mono fun _ hq => hq.1)

theorem State.arrFence_eng : (s.arrFence d l).eng = (s.setArr d l {}).eng :=
  (State.arrFence_calm hCap hJobs).1.eng.trans (State.arrBusy_recounted _ d l).eng

theorem State.arrFence_arr : (s.arrFence d l).arr d l = {} := by
  rw [State.arr, State.arrFence_eng hCap hJobs]
  exact State.arr_setArr ..

theorem State.arrFence_arr_ne {m : Nat} (h : m ≠ l) : (s.arrFence d l).arr d m = s.arr d m := by
  rw [State.arr, State.arrFence_eng hCap hJobs]
  exact State.arrs_setArr_ne _ _ _ _ (by omega)

end

/-- The commands of several logical arrays. -/
theorem State.arrFences_onward {ls : List Nat} {s : State} (hCap : s.capState d = 0)
    (hJobs : ∀ l ∈ ls, JobsOf (s.arr d l).queue d) : State.Onward (fun q => unitField q ∧ q.off ≠ Reg.ARR_STAT d) s
      (ls.foldl (fun (s : State) l => s.arrFence d l) s) := by
  induction ls generalizing s with
  | nil => exact .rfl' _ s
  | cons l ls ih =>
    have hJob := hJobs l List.mem_cons_self
    have hFirst : State.Onward (fun q => unitField q ∧ q.off ≠ Reg.ARR_STAT d) s (s.arrFence d l) :=
      (State.arrFence_onward hCap hJob).mono fun _ hq => ⟨hq.1, Or.inl hq.2⟩
    refine hFirst.trans (ih ((hFirst.fields _ ⟨capState_unit d, (capState_arr d).stat⟩).trans hCap) fun m hm => ?_)
    by_cases hml : m = l
    · rw [hml, State.arrFence_arr hCap hJob]
      exact fun j hj => nomatch hj
    · rw [State.arrFence_arr_ne hCap hJob hml]
      exact hJobs m (List.mem_cons_of_mem _ hm)

end

/-! The array that takes over. -/

/-- Logical array `l` comes to physical array `k`, in state `st`. -/
def State.arrGiven (s : State) (d l k st : Nat) (folded : Bool) : State :=
  ((s.setArrSt d k st).fset (RF.ARR_LMAP_PHYS d l) k).fsetBit (RF.ARR_LMAP_FOLDED d) l folded

/-- Fields other than those that a take-over of `l` by `k` writes. -/
structure GivenApart (d l k : Nat) (q : FRef) : Prop where
  unit : unitField q
  state : q.apart (RF.ARR_PHYS_STATE_STATE d k)
  phys : q.apart (RF.ARR_LMAP_PHYS d l)
  folded : q.apart ⟨Reg.ARR_LMAP d, 24 + l, 1⟩

theorem ArrApart.given {d l k : Nat} {q : FRef} (h : ArrApart d q) : GivenApart d l k q :=
  ⟨h.unit, Or.inl h.state, Or.inl h.map, Or.inl h.map⟩

section
variable (s : State) (d : Nat) {l k st : Nat} (folded : Bool)

theorem State.arrGiven_calm : State.Calm (GivenApart d l k) s (s.arrGiven d l k st folded) :=
  (((s.setArrSt_calm d k st).mono fun _ hq => hq.state).trans ((State.fset_calm _ _ _).mono fun _ hq => hq.phys)).trans
    ((State.fset_calm _ _ _).mono fun _ hq => hq.folded)

theorem State.arrGiven_phys (hl : l < 6) (hk : k < 7) : (s.arrGiven d l k st folded).arrPhys d l = k := by
  have hBits : (RF.ARR_LMAP_PHYS d l).apart ⟨Reg.ARR_LMAP d, 24 + l, 1⟩ := by
    simp only [FRef.apart, RF.ARR_LMAP_PHYS]
    omega
  refine (State.fget_fset_ne _ _ _ _ hBits).trans ?_
  rw [State.fget_fset _ _ _ (show 4 * l + 4 ≤ 64 by omega)]
  exact Nat.mod_eq_of_lt (show k < 2 ^ 4 by omega)

theorem State.arrGiven_state (hk : k < 7) (hs : st < 16) : (s.arrGiven d l k st folded).arrSt d k = st := by
  have hMap := arrState_ne_map d
  refine (State.fget_fset_ne _ _ _ _ (Or.inl hMap)).trans ((State.fget_fset_ne _ _ _ _ (Or.inl hMap)).trans ?_)
  exact s.arrSt_setArrSt d hk hs

/-- A take-over with its record and journal entry. -/
theorem State.arrGiven_noted (code sev : Nat) (p : Bytes) (st' : Nat) :
    State.Calm unitField (s.arrGiven d l k st folded)
      (((s.arrGiven d l k st folded).dieRec d code k sev p).journal d 0 k st') :=
  (State.dieRec_calm _ _ _ _ _ _ _).trans (State.journal_calm _ _ _ _ _)

end

/-- The lowest spare takes the logical array. -/
theorem State.arrPlace_spare {s : State} {d l k : Nat}
    (h : (List.range 7).find? (fun x => decide (s.arrSt d x = 2)) = some k) : s.arrPlace d l =
      (((s.arrGiven d l k 1 false).dieRec d 0x8103 k 1 (arrPay k l 0 0 0 0 0)).journal d 0 k 1) := by
  unfold State.arrPlace
  rw [h]
  rfl

theorem State.arrPlace_calm (s : State) (d l : Nat) : State.Calm (ArrApart d) s (s.arrPlace d l) := by
  have hTaken : ∀ k st folded code p st', State.Calm (ArrApart d) s
      (((s.arrGiven d l k st folded).dieRec d code k 1 p).journal d 0 k st') := fun k st folded code p st' =>
    ((s.arrGiven_calm d folded).mono fun _ hq => hq.given).trans
      ((s.arrGiven_noted d folded code 1 p st').mono fun _ hq => hq.unit)
  unfold State.arrPlace
  split
  · exact hTaken _ 1 false _ _ _
  · split
    · exact hTaken _ 6 true _ _ _
    · exact .rfl' _ s

/-! The faulted array. -/

/-- The logical arrays of a faulted physical one are fenced, flagged and moved. -/
def State.arrMoved (s : State) (d p : Nat) (ls : List Nat) : State :=
  let s1 := ls.foldl (fun (s : State) l => s.fsetBit (RF.ARR_STAT_FAULT d) l true) (s.setArrSt d p 4)
  let s2 := ls.foldl (fun (s : State) l => s.arrFence d l) (s1.voteFailed d)
  let s3 := ls.foldl (fun (s : State) l => s.fset (RF.ARR_LMAP_PHYS d l) 0xF) s2
  ls.foldl (fun (s : State) l => s.arrPlace d l) s3

/-- The faulted array tests itself, and the die is reviewed. -/
def State.arrTested (s : State) (d p : Nat) : State :=
  let s1 := (((((s.setArrSt d p 3).arrFlags d).recap d).journal d 0 p 4).dieReview d).reevaluate
  if s1.arrInSvc d < 3 then s1.dieFailed d else s1

theorem State.arrWithdraw_eq {s : State} {d p : Nat} (h : s.arrRuns d p = true) :
    s.arrWithdraw d p = (s.arrMoved d p (s.arrBacks d p)).arrTested d p := by
  unfold State.arrWithdraw
  rw [h]
  rfl

section
variable {s : State} {d p : Nat}

theorem State.arrTested_calm (h : s.NoCap d) : State.Calm (FlagsApart d) (s.setArrSt d p 3) (s.arrTested d p) ∧
    s.Journaled (s.arrTested d p) d 0 p 4 := by
  have hState := s.setArrSt_calm d p 3
  have hFlags := ((s.setArrSt d p 3).arrFlags_calm d).trans ((State.recap_calm _ d).mono fun _ hq => hq.unit)
  have hEnd := (State.dieReview_calm ((((s.setArrSt d p 3).arrFlags d).recap d).journal d 0 p 4) d).trans
    (State.reevaluate_calm _)
  have hAll := (hFlags.trans ((State.journal_calm _ d 0 p 4).mono fun _ hq => hq.unit)).trans
    (hEnd.mono fun _ hq => hq.unit)
  have hEntry := hEnd.toOnward.journaled_after
    (State.journal_journaled (((s.setArrSt d p 3).arrFlags d).recap d) d 0 p 4)
  have hCap := hAll.noCap (capState_arr d).flags (hState.noCap (Or.inl (capState_arr d).state) h)
  have hJournaled := hState.toOnward.journaled_before (hFlags.toOnward.journaled_before hEntry)
  unfold State.arrTested
  dsimp only
  split
  · have hFailed := State.dieFailed_calm hCap
    exact ⟨hAll.trans (hFailed.mono fun _ hq => hq.unit), hFailed.toOnward.journaled_after hJournaled⟩
  · exact ⟨hAll, hJournaled⟩

theorem State.arrTested_arrSt (h : s.NoCap d) (hp : p < 7) : (s.arrTested d p).arrSt d p = 3 :=
  ((State.arrTested_calm h).1.fields _ (arrSt_flags d p)).trans (s.arrSt_setArrSt d hp (by decide))

theorem State.arrTested_kept (h : s.NoCap d) :
    State.Calm (fun q => FlagsApart d q ∧ q.apart (RF.ARR_PHYS_STATE_STATE d p)) s (s.arrTested d p) :=
  ((s.setArrSt_calm d p 3).mono fun _ hq => hq.2).trans ((State.arrTested_calm h).1.mono fun _ hq => hq.1)

theorem State.arrTested_arrSt_ne (h : s.NoCap d) {x : Nat} (hx : x ≠ p) : (s.arrTested d p).arrSt d x = s.arrSt d x :=
  (State.arrTested_kept h).fields _ ⟨arrSt_flags d x, arrSt_apart d hx⟩

theorem State.arrTested_onward (h : s.NoCap d) : State.Calm (ArrApart d) s (s.arrTested d p) :=
  (State.arrTested_kept h).mono fun _ hq => ⟨hq.flags, Or.inl hq.state⟩

/-- The faulted array is flagged for its logical arrays. -/
theorem State.arrFlagged_calm (s : State) (d p : Nat) (ls : List Nat) : State.Calm (ArrApart d) s
    (ls.foldl (fun (s : State) l => s.fsetBit (RF.ARR_STAT_FAULT d) l true) (s.setArrSt d p 4)) :=
  ((s.setArrSt_calm d p 4).mono fun _ hq => Or.inl hq.state).trans
    (List.foldlRecOn (motive := State.Calm (ArrApart d) (s.setArrSt d p 4)) _ _ (.rfl' _ _) fun _ hx _ _ =>
      hx.trans ((State.fset_calm _ _ _).mono fun _ hq => Or.inl hq.stat))

theorem State.arrMoved_onward (h : s.NoCap d) {ls : List Nat} (hJobs : ∀ l ∈ ls, JobsOf (s.arr d l).queue d) :
    State.Onward (ArrApart d) s (s.arrMoved d p ls) := by
  have hFlagged := s.arrFlagged_calm d p ls
  have hCap := (hFlagged.noCap (capState_arr d) h).1
  unfold State.arrMoved
  dsimp only
  rw [State.voteFailed_none hCap]
  have hJobs' : ∀ l ∈ ls, JobsOf ((ls.foldl (fun (s : State) l => s.fsetBit (RF.ARR_STAT_FAULT d) l true)
      (s.setArrSt d p 4)).arr d l).queue d := fun l hl => by
    rw [State.arr, hFlagged.eng]
    exact hJobs l hl
  have hFenced := (State.arrFences_onward hCap hJobs').mono fun q (hq : ArrApart d q) => ⟨hq.unit, hq.stat⟩
  exact (hFlagged.toOnward.trans hFenced).trans
    ((State.Onward.foldl _ fun x l _ => ((x.fset_calm _ _).toOnward.mono fun _ hq => Or.inl hq.map)).trans
      (State.Onward.foldl _ fun x l _ => (x.arrPlace_calm d l).toOnward))

/-- An array that runs leaves service and tests itself. -/
theorem State.arrWithdraw_onward (h : s.NoCap d) (hRuns : s.arrRuns d p = true) (hp : p < 7)
    (hJobs : ∀ l ∈ s.arrBacks d p, JobsOf (s.arr d l).queue d) : State.Onward (ArrApart d) s (s.arrWithdraw d p) ∧
      (s.arrWithdraw d p).arrSt d p = 3 ∧ s.Journaled (s.arrWithdraw d p) d 0 p 4 := by
  have hMoved := State.arrMoved_onward (p := p) h hJobs
  have hCap := hMoved.noCap (capState_arr d) h
  rw [State.arrWithdraw_eq hRuns]
  exact ⟨hMoved.trans (State.arrTested_onward hCap).toOnward, State.arrTested_arrSt hCap hp,
    hMoved.journaled_before (State.arrTested_calm hCap).2⟩

end

end Sys2Proof.Machine

/-! The spare takes the place of a faulted array (R96, R99, R100, R102, R407). -/

namespace Sys2Proof.Machine

/-! One logical array moves to the lowest spare. -/

/-- Fields that the move of logical array `a` from physical array `p` to `k` leaves alone. -/
structure MovedApart (d a p k : Nat) (q : FRef) : Prop where
  given : GivenApart d a k q
  state : q.apart (RF.ARR_PHYS_STATE_STATE d p)
  fault : q.apart ⟨Reg.ARR_STAT d, 8 + a, 1⟩
  busy : q.apart ⟨Reg.ARR_STAT d, 0 + a, 1⟩

theorem arrSt_moved (d a : Nat) {p k x : Nat} (hk : x ≠ k) (hp : x ≠ p) :
    MovedApart d a p k (RF.ARR_PHYS_STATE_STATE d x) := by
  have hMap := arrState_ne_map d
  have hStat := arrState_ne_stat d
  exact ⟨⟨arrSt_unit d x, arrSt_apart d hk, Or.inl hMap, Or.inl hMap⟩, arrSt_apart d hp, Or.inl hStat, Or.inl hStat⟩

theorem arrPhys_moved (d p k : Nat) {a b : Nat} (hb : b ≠ a) (h6 : b < 6) :
    MovedApart d a p k (RF.ARR_LMAP_PHYS d b) := by
  have hMap := (arrState_ne_map d).symm
  have hStat := arrMap_ne_stat d
  refine ⟨⟨arrPhys_unit d b, Or.inl hMap, arrPhys_apart d hb, Or.inr ?_⟩, Or.inl hMap, Or.inl hStat, Or.inl hStat⟩
  simp only [RF.ARR_LMAP_PHYS]
  omega

/-- Logical array `a` has moved from physical array `p` to the spare `k`, with its commands at an end. -/
structure State.Handed (s t : State) (d a p k : Nat) : Prop where
  onward : State.Onward (MovedApart d a p k) s t
  phys : t.arrPhys d a = k
  state : t.arrSt d k = 1
  journaled : s.Journaled t d 0 k 1
  fault : t.fget ⟨Reg.ARR_STAT d, 8 + a, 1⟩ = 1
  cleared : t.arr d a = {}
  others : ∀ b, b ≠ a → t.arr d b = s.arr d b
  closed : ∀ j ∈ (s.arr d a).queue, t.Closed j.core j.seq

/-- The faulted array, its logical array fenced and behind no physical one. -/
def State.arrCutOff (s : State) (d p a : Nat) : State :=
  (((s.setArrSt d p 4).fsetBit (RF.ARR_STAT_FAULT d) a true).arrFence d a).fset (RF.ARR_LMAP_PHYS d a) 0xF

/-- Fields that the cut leaves alone. -/
structure CutApart (d a p : Nat) (q : FRef) : Prop where
  unit : unitField q
  state : q.apart (RF.ARR_PHYS_STATE_STATE d p)
  fault : q.apart ⟨Reg.ARR_STAT d, 8 + a, 1⟩
  busy : q.apart ⟨Reg.ARR_STAT d, 0 + a, 1⟩
  phys : q.apart (RF.ARR_LMAP_PHYS d a)

theorem MovedApart.cut {d a p k : Nat} {q : FRef} (h : MovedApart d a p k q) : CutApart d a p q :=
  ⟨h.given.unit, h.state, h.fault, h.busy, h.given.phys⟩

theorem arrSt_cut (d a : Nat) {p x : Nat} (h : x ≠ p) : CutApart d a p (RF.ARR_PHYS_STATE_STATE d x) := by
  have hStat := arrState_ne_stat d
  exact ⟨arrSt_unit d x, arrSt_apart d h, Or.inl hStat, Or.inl hStat, Or.inl (arrState_ne_map d)⟩

section
variable {s : State} {d a p : Nat}

theorem State.arrMoved_one (h : s.NoCap d) : s.arrMoved d p [a] = (s.arrCutOff d p a).arrPlace d a := by
  have hCap := ((s.arrFlagged_calm d p [a]).noCap (capState_arr d) h).1
  unfold State.arrMoved
  dsimp only
  rw [State.voteFailed_none hCap]
  rfl

/-- What leaves the flag of logical array `a` as it is: its fence, its move, and the review after them. -/
structure FaultKept (d a : Nat) (q : FRef) : Prop where
  unit : unitField q
  busy : q.apart ⟨Reg.ARR_STAT d, 0 + a, 1⟩
  flags : FlagsApart d q
  given : ∀ k, GivenApart d a k q

theorem fault_kept (d : Nat) (h : a < 6) : FaultKept d a ⟨Reg.ARR_STAT d, 8 + a, 1⟩ := by
  have hMap := (arrMap_ne_stat d).symm
  have hUnit : unitField ⟨Reg.ARR_STAT d, 8 + a, 1⟩ := unitField_at (o := 0x20020) rfl (by decide)
  refine ⟨hUnit, ?_, ⟨hUnit, ?_, ?_⟩, fun k => ⟨hUnit, Or.inl (arrState_ne_stat d).symm, Or.inl hMap, Or.inl hMap⟩⟩
  all_goals
    simp only [FRef.apart, RF.ARR_STAT_SPARE_USED, RF.ARR_STAT_FOLDED_ANY]
    omega

theorem State.arrCutOff_cut (h : s.NoCap d) (ha : a < 6) (hp : p < 7) (hJobs : JobsOf (s.arr d a).queue d) :
    State.Onward (CutApart d a p) s (s.arrCutOff d p a) ∧ (s.arrCutOff d p a).fget ⟨Reg.ARR_STAT d, 8 + a, 1⟩ = 1 ∧
      (s.arrCutOff d p a).arrSt d p = 4 ∧ (s.arrCutOff d p a).arr d a = {} ∧
      (∀ b, b ≠ a → (s.arrCutOff d p a).arr d b = s.arr d b) ∧ ∀ j ∈ (s.arr d a).queue, (s.arrCutOff d p a).Closed j.core j.seq := by
  have hState := s.setArrSt_calm d p 4
  have hBit := (s.setArrSt d p 4).fset_calm ⟨Reg.ARR_STAT d, 8 + a, 1⟩ (b2n true)
  have hFlag : State.Calm (CutApart d a p) s ((s.setArrSt d p 4).fsetBit (RF.ARR_STAT_FAULT d) a true) :=
    (hState.mono fun _ hq => hq.state).trans (hBit.mono fun _ hq => hq.fault)
  have hCap : ((s.setArrSt d p 4).fsetBit (RF.ARR_STAT_FAULT d) a true).capState d = 0 :=
    ((s.arrFlagged_calm d p [a]).noCap (capState_arr d) h).1
  have hArr : ∀ b, ((s.setArrSt d p 4).fsetBit (RF.ARR_STAT_FAULT d) a true).arr d b = s.arr d b := fun _ => rfl
  have hFence := State.arrFence_onward (l := a) hCap hJobs
  have hClear := State.fset_calm (((s.setArrSt d p 4).fsetBit (RF.ARR_STAT_FAULT d) a true).arrFence d a)
    (RF.ARR_LMAP_PHYS d a) 0xF
  have hKept := fault_kept d ha
  refine ⟨(hFlag.toOnward.trans (hFence.mono fun _ hq => ⟨hq.unit, hq.busy⟩)).trans
    (hClear.toOnward.mono fun _ hq => hq.phys), ?_, ?_, ?_, fun b hb => ?_, fun j hj => ?_⟩
  · refine (hClear.fields _ (Or.inl (arrMap_ne_stat d).symm)).trans
      ((hFence.fields _ ⟨hKept.unit, hKept.busy⟩).trans ?_)
    exact State.fget_fset _ _ _ (show 8 + a + 1 ≤ 64 by omega)
  · have hStat := arrState_ne_stat d
    refine (hClear.fields _ (Or.inl (arrState_ne_map d))).trans ((hFence.fields _ ⟨arrSt_unit d p, Or.inl hStat⟩).trans ?_)
    exact (hBit.fields _ (Or.inl hStat)).trans (s.arrSt_setArrSt d hp (by decide))
  · exact State.arrFence_arr hCap hJobs
  · exact State.arrFence_arr_ne hCap hJobs hb
  · exact hClear.issued.closed ((State.arrFence_calm hCap hJobs).2 j hj)

/-- The lowest spare is the same array after the cut. -/
theorem State.arrCutOff_spare (h : State.Onward (CutApart d a p) s (s.arrCutOff d p a))
    (hRuns : s.arrRuns d p = true) (hFour : (s.arrCutOff d p a).arrSt d p = 4) :
    (List.range 7).find? (fun x => decide ((s.arrCutOff d p a).arrSt d x = 2)) =
      (List.range 7).find? (fun x => decide (s.arrSt d x = 2)) := by
  have hSame : (fun x => decide ((s.arrCutOff d p a).arrSt d x = 2)) = fun x => decide (s.arrSt d x = 2) := by
    funext x
    by_cases hx : x = p
    · have hRun : s.arrSt d p = 1 ∨ s.arrSt d p = 6 := of_decide_eq_true hRuns
      rw [hx, hFour]
      simp only [decide_eq_decide]
      omega
    · rw [State.arrSt, h.fields _ (arrSt_cut d a hx), State.arrSt]
  rw [hSame]

end

theorem State.arrMoved_handed {s : State} {d a p k : Nat} (h : s.NoCap d) (ha : a < 6) (hp : p < 7)
    (hRuns : s.arrRuns d p = true) (hSpare : (List.range 7).find? (fun x => decide (s.arrSt d x = 2)) = some k)
    (hJobs : JobsOf (s.arr d a).queue d) : s.Handed (s.arrMoved d p [a]) d a p k := by
  have hk : k < 7 := List.mem_range.mp (List.mem_of_find?_eq_some hSpare)
  obtain ⟨hCut, hFault, hFour, hCleared, hOthers, hClosed⟩ := State.arrCutOff_cut h ha hp hJobs
  have hFind := (State.arrCutOff_spare hCut hRuns hFour).trans hSpare
  have hGiven := (s.arrCutOff d p a).arrGiven_calm d (l := a) (k := k) (st := 1) false
  have hNoted := (s.arrCutOff d p a).arrGiven_noted d (l := a) (k := k) (st := 1) false 0x8103 1
    (arrPay k a 0 0 0 0 0) 1
  rw [State.arrMoved_one h, State.arrPlace_spare hFind]
  generalize hEnd : (((s.arrCutOff d p a).arrGiven d a k 1 false).dieRec d 0x8103 k 1 (arrPay k a 0 0 0 0 0)).journal
    d 0 k 1 = t at hNoted ⊢
  have hKept := fault_kept d ha
  have hAll := hGiven.trans (hNoted.mono fun _ hq => hq.unit)
  have hArr : ∀ b, t.arr d b = (s.arrCutOff d p a).arr d b := fun b => by rw [State.arr, hAll.eng, State.arr]
  refine ⟨(hCut.mono fun _ hq => hq.cut).trans (hAll.toOnward.mono fun _ hq => hq.given), ?_, ?_, ?_, ?_, ?_,
    fun b hb => ?_,
    fun j hj => hAll.issued.closed (hClosed j hj)⟩
  · exact (hNoted.fields _ (arrPhys_unit d a)).trans (State.arrGiven_phys _ _ _ ha hk)
  · exact (hNoted.fields _ (arrSt_unit d k)).trans (State.arrGiven_state _ _ _ hk (by decide))
  · rw [← hEnd]
    exact hCut.journaled_before (hGiven.toOnward.journaled_before
      ((State.dieRec_calm unitField _ _ _ _ _ _).toOnward.journaled_before (State.journal_journaled _ d 0 k 1)))
  · exact (hAll.fields _ (hKept.given k)).trans hFault
  · rw [hArr, hCleared]
  · rw [hArr, hOthers b hb]

/-! A residue fault. -/

/-- The state in which a residue fault of array `p` has been counted, flagged and recorded. -/
def State.arrFaulty (s : State) (d p : Nat) (body : Bytes) : State :=
  (((s.finc (RF.ARR_FLT_CNT_CNT d p) 1).noteFault d p).fset (RF.COMB_ERR_ARR d) 1).dieRec d 0x8102 p 2 body

/-- Unit fields other than those that a residue fault counts and flags. -/
def faultyApart (d p : Nat) (q : FRef) : Prop :=
  q.apart (RF.ARR_FLT_CNT_CNT d p) ∧ q.apart (RF.COMB_ERR_ARR d)

theorem arr_faulty (d p : Nat) {q : FRef} (h : q.off = Reg.ARR_PHYS_STATE d ∨ q.off = Reg.ARR_LMAP d ∨
    q.off = Reg.CAP_DIE_STAT d) : faultyApart d p q := by
  have hOff : q.off ≠ Reg.ARR_FLT_CNT d ∧ q.off ≠ Reg.COMB_ERR d := by
    unfold Reg.ARR_PHYS_STATE Reg.ARR_LMAP Reg.CAP_DIE_STAT at h
    unfold Reg.ARR_FLT_CNT Reg.COMB_ERR
    omega
  exact ⟨Or.inl hOff.1, Or.inl hOff.2⟩

section
variable (s : State) (d : Nat) {p : Nat} (body : Bytes)

theorem State.arrFaulty_onward : State.Onward (faultyApart d p) s (s.arrFaulty d p body) :=
  ((((s.fset_calm _ _).toOnward.mono fun _ hq => hq.1).trans (State.setEng_onward _ _ _)).trans
    ((State.fset_calm _ _ _).toOnward.mono fun _ hq => hq.2)).trans (State.dieRec_calm _ _ _ _ _ _ _).toOnward

theorem State.arrFaulty_count (hp : p < 7) : (s.arrFaulty d p body).fget (RF.ARR_FLT_CNT_CNT d p) =
    satAdd (RF.ARR_FLT_CNT_CNT d p).w (s.fget (RF.ARR_FLT_CNT_CNT d p)) 1 := by
  have hErr : Reg.ARR_FLT_CNT d ≠ Reg.COMB_ERR d := by
    unfold Reg.ARR_FLT_CNT Reg.COMB_ERR
    omega
  refine ((State.dieRec_calm (fun _ => True) _ _ _ _ _ _).fields _ trivial).trans
    ((State.fget_fset_ne _ _ _ _ (Or.inl hErr)).trans ?_)
  show (s.finc (RF.ARR_FLT_CNT_CNT d p) 1).fget _ = _
  exact s.fget_finc _ _ (show 8 * p + 8 ≤ 64 by omega)

theorem State.arrFaulty_flag : (s.arrFaulty d p body).fget (RF.COMB_ERR_ARR d) = 1 :=
  ((State.dieRec_calm (fun _ => True) _ _ _ _ _ _).fields _ trivial).trans
    (State.fget_fset _ _ _ (show 0 + 1 ≤ 64 by omega))

theorem State.arrFaulty_queued : (s.arrFaulty d p body).Queued d (mkEvent 0x8102 d p 2 body) :=
  State.dieRec_queued _ _ _ _ (by decide) _

theorem State.arrFaulty_arr (l : Nat) : (s.arrFaulty d p body).arr d l = s.arr d l := by
  unfold State.arr State.arrFaulty
  rw [State.dieRec_eng]
  rfl

end

theorem arrFaults_apart (d p : Nat) : ArrApart d (RF.ARR_FLT_CNT_CNT d p) ∧ ArrApart d (RF.COMB_ERR_ARR d) := by
  refine ⟨.of_off (unitField_at (o := 0x20010) rfl (by decide)) ?_,
    .of_off (unitField_at (o := 0x10) rfl (by decide)) ?_⟩
  · simp only [RF.ARR_FLT_CNT_CNT, Reg.ARR_FLT_CNT, Reg.ARR_PHYS_STATE, Reg.ARR_LMAP, Reg.ARR_STAT]
    omega
  · simp only [RF.COMB_ERR_ARR, Reg.COMB_ERR, Reg.ARR_PHYS_STATE, Reg.ARR_LMAP, Reg.ARR_STAT]
    omega

/-- The TILE of a faulted region's record (R102): that of the pass or drain that runs there. -/
def faultTile (q : List Job) (region : Nat) : Nat :=
  match q.find? fun j => j.started && decide (jREGION j.word = region) with
  | some j => if fld j.word 0 8 = 0x21 ∨ fld j.word 0 8 = 0x23 then fld j.word 256 32 else 0
  | none => 0

section
variable {d : DieId} {s : State} {a : Fin 6} {p k : Nat}

theorem exec_arrResidueFault_runs (hRuns : s.arrRuns d (s.arrPhys d a) = true) (region : Fin 16) (cause : Fin 3)
    (column : Fin 256) (entry : Fin 1024) : exec (.arrResidueFault d a region cause column entry) s = .next
      ((s.arrFaulty d (s.arrPhys d a) (arrPay (s.arrPhys d a) a region cause column entry
        (faultTile (s.arr d a).queue region))).arrWithdraw d (s.arrPhys d a)) := by
  show Host.Outcome.next (if (!s.arrRuns d (s.arrPhys d a)) = true then s else _) = _
  rw [hRuns]
  rfl

/-- A faulted array with one logical array hands it to the lowest spare and tests itself. -/
theorem State.arrFaulty_handed (h : s.NoCap d) (hp : p < 7) (hRuns : s.arrRuns d p = true)
    (hBacks : s.arrBacks d p = [a.val]) (hSpare : (List.range 7).find? (fun x => decide (s.arrSt d x = 2)) = some k)
    (hJobs : JobsOf (s.arr d a).queue d) (body : Bytes) : ∃ m, (s.arrFaulty d p body).Handed m d a p k ∧
      (s.arrFaulty d p body).arrWithdraw d p = m.arrTested d p ∧ m.NoCap d ∧
      State.Onward (ArrApart d) (s.arrFaulty d p body) (m.arrTested d p) ∧
      (s.arrFaulty d p body).Journaled (m.arrTested d p) d 0 p 4 := by
  have hFaulty := s.arrFaulty_onward d (p := p) body
  have hSt : ∀ x, (s.arrFaulty d p body).arrSt d x = s.arrSt d x :=
    fun _ => hFaulty.fields _ (arr_faulty d p (.inl rfl))
  have hPhys : ∀ l, (s.arrFaulty d p body).arrPhys d l = s.arrPhys d l := fun _ =>
    hFaulty.fields _ (arr_faulty d p (.inr (.inl rfl)))
  have hArr := s.arrFaulty_arr d (p := p) body a
  have hCap : (s.arrFaulty d p body).NoCap d := hFaulty.noCap (arr_faulty d p (.inr (.inr rfl))) h
  have hRuns' : (s.arrFaulty d p body).arrRuns d p = true := by
    unfold State.arrRuns
    rw [hSt]
    exact hRuns
  have hBacks' : (s.arrFaulty d p body).arrBacks d p = [a.val] := by
    unfold State.arrBacks
    simp only [hPhys]
    exact hBacks
  have hJobs' : JobsOf ((s.arrFaulty d p body).arr d a).queue d := by rwa [hArr]
  have hHanded := State.arrMoved_handed hCap a.isLt hp hRuns' (by simp only [hSt]; exact hSpare) hJobs'
  obtain ⟨hOnward, -, hJournaled⟩ := State.arrWithdraw_onward hCap hRuns' hp fun l hl => by
    rw [hBacks', List.mem_singleton] at hl
    rwa [hl]
  have hEq := State.arrWithdraw_eq hRuns'
  rw [hBacks'] at hEq
  rw [hEq] at hOnward hJournaled
  exact ⟨_, hHanded, hEq, (State.arrMoved_onward hCap fun l hl => by rwa [List.mem_singleton.mp hl]).noCap
    (capState_arr d) hCap, hOnward, hJournaled⟩

end

/-- The verdict on a tested array. -/
theorem State.arrVerdict_shows (s : State) (d : Nat) {p : Nat} (hp : p < 7) (pass : Bool) :
    (s.arrVerdict d p pass).arrSt d p = (if pass && s.mayReturn d p then 2 else 5) ∧
      (∀ x, x ≠ p → (s.arrVerdict d p pass).arrSt d x = s.arrSt d x) ∧
      ((pass && s.mayReturn d p) = false → s.Journaled (s.arrVerdict d p pass) d 0 p 5 ∧
        (s.arrVerdict d p pass).Queued d (mkEvent 0x8105 d p 2 (arrPay p 0xFF 0 0 0 0 0))) := by
  have hReview : ∀ x : State, State.Calm (FlagsApart d) x ((x.arrFlags d).dieReview d) := fun x =>
    (x.arrFlags_calm d).trans ((State.dieReview_calm _ d).mono fun _ hq => hq.unit)
  unfold State.arrVerdict
  dsimp only
  split
  · rename_i hPass
    have hEnd := hReview (s.setArrSt d p 2)
    refine ⟨(hEnd.fields _ (arrSt_flags d p)).trans (s.arrSt_setArrSt d hp (by decide)), fun x hx =>
      (hEnd.fields _ (arrSt_flags d x)).trans ((s.setArrSt_calm d p 2).fields _ (arrSt_apart d hx)), fun hFail => ?_⟩
    rw [hPass] at hFail
    cases hFail
  · have hEnd := hReview (((s.setArrSt d p 5).dieRec d 0x8105 p 2 (arrPay p 0xFF 0 0 0 0 0)).journal d 0 p 5)
    have hRec := State.dieRec_calm unitField (s.setArrSt d p 5) d 0x8105 p 2 (arrPay p 0xFF 0 0 0 0 0)
    have hJournal := State.journal_calm ((s.setArrSt d p 5).dieRec d 0x8105 p 2 (arrPay p 0xFF 0 0 0 0 0)) d 0 p 5
    have hSt : ∀ x, _ = (s.setArrSt d p 5).arrSt d x := fun x =>
      (hEnd.fields _ (arrSt_flags d x)).trans ((hRec.trans hJournal).fields _ (arrSt_unit d x))
    refine ⟨(hSt p).trans (s.arrSt_setArrSt d hp (by decide)), fun x hx =>
      (hSt x).trans ((s.setArrSt_calm d p 5).fields _ (arrSt_apart d hx)), fun _ => ⟨?_, ?_⟩⟩
    · exact hEnd.toOnward.journaled_after ((s.setArrSt_calm d p 5).toOnward.journaled_before
        (hRec.toOnward.journaled_before (State.journal_journaled _ d 0 p 5)))
    · exact hEnd.queued _ _ (hJournal.queued _ _ (State.dieRec_queued _ _ _ _ (by decide) _))

/-- Settles O18: the fault is noted, the logical array moves to the spare, and the faulted array tests itself; the
test's verdict and a failed idle test set the array's state. -/
theorem arrayFaultsMoveToTheSpare : Obligations.ArrayFaultsMoveToTheSpare := by
  intro d s h
  refine ⟨fun a region cause column entry p k hPhys hp hRuns hBacks hSpare hJobs => ?_, fun p pass hTest => ?_,
    fun p hIdle => ⟨?_, ?_⟩⟩
  · subst hPhys
    have hk : k ≠ s.arrPhys d a := fun e => by
      have hTwo : s.arrSt d k = 2 := by simpa using List.find?_some hSpare
      have hRun : s.arrSt d k = 1 ∨ s.arrSt d k = 6 := e ▸ of_decide_eq_true hRuns
      omega
    have hExec := exec_arrResidueFault_runs hRuns region cause column entry
    generalize hBody : arrPay (s.arrPhys d a) a region cause column entry (faultTile (s.arr d a).queue region) = body
      at hExec
    generalize s.arrPhys d a = p at *
    have hFaulty := s.arrFaulty_onward d (p := p) body
    obtain ⟨m, hHanded, hEq, hCap, hOnward, hJournaled⟩ := State.arrFaulty_handed h hp hRuns hBacks hSpare hJobs body
    have hAfter := State.arrTested_kept (p := p) hCap
    have hArr : ∀ b, (m.arrTested d p).arr d b = m.arr d b := fun b => by
      rw [State.arr, hAfter.eng, State.arr]
    rw [hEq] at hExec
    refine ⟨_, hExec, ?_, ?_, State.arrTested_arrSt hCap hp, ?_, hFaulty.journaled_before hJournaled,
      fun x _ hxk hxp => ?_, ?_, fun b hb hba => ⟨?_, ?_⟩, fun j hj => ?_, ?_, ?_, ?_,
      faultTile (s.arr d a).queue region, ?_⟩
    · exact (hAfter.fields _ ⟨arrPhys_flags d a, Or.inl (arrState_ne_map d).symm⟩).trans hHanded.phys
    · exact (State.arrTested_arrSt_ne hCap hk).trans hHanded.state
    · exact hFaulty.journaled_before (hAfter.toOnward.journaled_after hHanded.journaled)
    · exact (State.arrTested_arrSt_ne hCap hxp).trans ((hHanded.onward.fields _ (arrSt_moved d a hxk hxp)).trans
        (hFaulty.fields _ (arr_faulty d _ (.inl rfl))))
    · rw [hArr, hHanded.cleared]
    · rw [hArr, hHanded.others b hba, State.arrFaulty_arr]
    · exact (hAfter.fields _ ⟨arrPhys_flags d b, Or.inl (arrState_ne_map d).symm⟩).trans
        ((hHanded.onward.fields _ (arrPhys_moved d p k hba hb)).trans
          (hFaulty.fields _ (arr_faulty d _ (.inr (.inl rfl)))))
    · exact hAfter.issued.closed (hHanded.closed j (by rwa [State.arrFaulty_arr]))
    · rw [State.fbit_eq_fget _ (show a.val < 6 from a.isLt)]
      exact decide_eq_true ((hAfter.fields _ ⟨(fault_kept d a.isLt).flags, Or.inl (arrState_ne_stat d).symm⟩).trans
        hHanded.fault)
    · exact (hOnward.fields _ (arrFaults_apart d _).1).trans (s.arrFaulty_count d _ hp)
    · exact (hOnward.fields _ (arrFaults_apart d p).2).trans (s.arrFaulty_flag d _)
    · rw [hBody]
      exact hOnward.queued _ _ (s.arrFaulty_queued d _)
  · obtain ⟨hSelf, hOthers, hRetired⟩ := s.arrVerdict_shows d p.isLt pass
    refine ⟨_, ?_, hSelf, fun x _ => hOthers x, hRetired, only_of_keeps fun _ K k => State.arrVerdict_keeps K _ _ _ k⟩
    show Host.Outcome.next (if s.arrSt d p = 3 then s.arrVerdict d p pass else s) = _
    rw [if_pos hTest]
  · show Host.Outcome.next (if s.arrSt d p = 2 ∧ !true then _ else s) = _
    rw [if_neg (by simp)]
  · have hState := s.setArrSt_calm d p 3
    have hFlags := (s.setArrSt d p 3).arrFlags_calm d
    have hReview := State.dieReview_calm (((s.setArrSt d p 3).arrFlags d).journal d 0 p 4) d
    have hEnd := hFlags.trans (((State.journal_calm _ d 0 p 4).trans hReview).mono fun _ hq => hq.unit)
    refine ⟨_, ?_, (hEnd.fields _ (arrSt_flags d p)).trans (s.arrSt_setArrSt d p.isLt (by decide)), fun x _ hx =>
      (hEnd.fields _ (arrSt_flags d x)).trans (hState.fields _ (arrSt_apart d hx)),
      hState.toOnward.journaled_before (hFlags.toOnward.journaled_before (hReview.toOnward.journaled_after
        (State.journal_journaled _ d 0 p 4))), only_of_keeps fun _ K k => ?_⟩
    · show Host.Outcome.next (if s.arrSt d p = 2 ∧ !false then _ else s) = _
      rw [if_pos ⟨hIdle, rfl⟩]
    · exact State.dieReview_keeps (K.mono rfl) _ (State.journal_keeps (K.mono rfl) _ _ _ _
        (State.arrFlags_keeps (K.mono rfl) _ (State.setArrSt_keeps (K.mono rfl) _ _ _ k)))

end Sys2Proof.Machine

/-! The matrix-vector engine, a generator's unit and a cluster leave service (R108, R137, R160, R404). -/

namespace Sys2Proof.Machine

/-! Reads that may meet an uncorrectable word. -/

/-- Fields outside a die's error counts of SRAM. -/
def readApart (d : Nat) (q : FRef) : Prop := q.off ≠ Reg.WRK_SRAM_ECC d ∧ q.apart (RF.COMB_ERR_SRAM_UE d)

theorem capState_read (d : Nat) : readApart d (RF.CAP_DIE_STAT_STATE d) := by
  have hOff : Reg.CAP_DIE_STAT d ≠ Reg.WRK_SRAM_ECC d ∧ Reg.CAP_DIE_STAT d ≠ Reg.COMB_ERR d := by
    simp only [Reg.CAP_DIE_STAT, Reg.WRK_SRAM_ECC, Reg.COMB_ERR]
    omega
  exact ⟨hOff.1, Or.inl hOff.2⟩

section
variable {s : State} {d : Nat}

theorem State.sramUe_calm (h : s.capState d = 0) (off : Nat) : State.Calm (readApart d) s (s.sramUe d off) := by
  have hFlags : ∀ x : State, State.Calm (readApart d) x
      (((x.finc (RF.WRK_SRAM_ECC_UE_CNT d) 1).fset (RF.WRK_SRAM_ECC_UE d) 1).fset (RF.COMB_ERR_SRAM_UE d) 1) :=
    fun x => (((x.fset_calm _ _).mono fun _ hq => Or.inl hq.1).trans
      ((State.fset_calm _ _ _).mono fun _ hq => Or.inl hq.1)).trans ((State.fset_calm _ _ _).mono fun _ hq => hq.2)
  have hNoted : ∀ x : State, State.Calm (readApart d) s x → ∀ p : Bytes, ∀ pb, State.Calm (readApart d) s
      (((((x.finc (RF.WRK_SRAM_ECC_UE_CNT d) 1).fset (RF.WRK_SRAM_ECC_UE d) 1).fset
        (RF.COMB_ERR_SRAM_UE d) 1).dieRec d 0x8202 pb 2 p).voteFailed d) := fun x hx p pb => by
    have hAll := (hx.trans (hFlags x)).trans (State.dieRec_calm _ _ d 0x8202 pb 2 p)
    rw [State.voteFailed_none ((hAll.fields _ (capState_read d)).trans h)]
    exact hAll
  unfold State.sramUe
  refine hNoted _ (.ite (.rfl' _ s) ?_) _ _
  exact ⟨⟨.of_eq rfl, rfl, List.prefix_rfl, fun _ _ k => k, .of_core rfl⟩, rfl⟩

theorem State.sramRead_calm (h : s.capState d = 0) (off len : Nat) :
    State.Calm (readApart d) s (s.sramRead d off len).1 := by
  have hCount : ∀ n, State.Calm (readApart d) s (s.finc (RF.WRK_SRAM_ECC_CE_CNT d) n) := fun n =>
    (s.fset_calm _ _).mono fun _ hq => Or.inl hq.1
  unfold State.sramRead
  dsimp only
  split
  · exact (hCount _).trans (State.sramUe_calm (((hCount _).fields _ (capState_read d)).trans h) _)
  · exact hCount _

theorem State.sramReads_calm (h : s.capState d = 0) (rs : Ranges) :
    State.Calm (readApart d) s (s.sramReads d rs).1 := by
  unfold State.sramReads
  induction rs generalizing s with
  | nil => exact .rfl' _ s
  | cons r rs ih =>
    have hRead := State.sramRead_calm h r.1 r.2
    rw [List.map_cons, State.memReads, State.memRead, if_pos (Nat.le_add_right _ _), Nat.add_sub_cancel_left]
    generalize s.sramRead d r.1 r.2 = p at hRead
    obtain ⟨t, good⟩ := p
    cases good with
    | true => exact hRead.trans (ih ((hRead.fields _ (capState_read d)).trans h))
    | false => exact hRead

end

/-! The engine's queue. -/

/-- Unit fields that the engine's queue leaves alone. -/
structure MveApart (d : Nat) (q : FRef) : Prop where
  unit : unitField q
  read : readApart d q
  busy : q.apart (RF.MVE_STAT_BUSY d)

/-- The other fields of the engine's status register. -/
theorem mveStat_apart (d : Nat) {lo w : Nat} (h : 1 ≤ lo) : MveApart d ⟨Reg.MVE_STAT d, lo, w⟩ := by
  have hOff : Reg.MVE_STAT d ≠ Reg.WRK_SRAM_ECC d ∧ Reg.MVE_STAT d ≠ Reg.COMB_ERR d := by
    simp only [Reg.MVE_STAT, Reg.WRK_SRAM_ECC, Reg.COMB_ERR]
    omega
  exact ⟨unitField_at (o := 0x21000) rfl (by decide), ⟨hOff.1, Or.inl hOff.2⟩, Or.inr (Or.inr h)⟩

section
variable {s : State} {d : Nat}

theorem State.mveBegin_fst (s : State) (d : Nat) (j : Job) :
    (s.mveBegin d j).1 = (s.sramReads d (mvXRanges j.word ++ mvWRanges j.word)).1 := by
  unfold State.mveBegin
  dsimp only
  generalize s.sramReads d (mvXRanges j.word ++ mvWRanges j.word) = p
  obtain ⟨t, good⟩ := p
  cases good <;> rfl

theorem State.setMveq_capState (s : State) (d : Nat) (q : List Job) (e : Nat) :
    (s.setMveq d q).capState e = s.capState e := rfl

/-- A refused command leaves the queue and completes. -/
theorem State.refuseJob_calm {j : Job} (h : s.capState (dieOf j.core) = 0) (reason : Nat) :
    State.Calm unitField s (s.refuseJob j reason) := by
  have hRec : State.Calm unitField s (s.refuseRec j.core (fld j.word 0 8) reason) :=
    State.dieRec_calm unitField s (dieOf j.core) reason j.core 0 _
  exact hRec.trans (State.completeCmd_calm ((hRec.fields _ (capState_unit _)).trans h) _ _ _ _)

theorem State.mvePump_onward (n : Nat) (h : s.capState d = 0) (hJobs : JobsOf (s.eng.mveq.get [] d) d) :
    State.Onward (MveApart d) s (State.mvePump n s d) := by
  induction n generalizing s with
  | zero => exact .rfl' _ s
  | succ n ih =>
    unfold State.mvePump
    cases hq : s.eng.mveq.get [] d with
    | nil => exact .rfl' _ s
    | cons j q =>
      rw [hq] at hJobs
      dsimp only
      split
      · exact .rfl' _ s
      · split
        · rename_i reason _
          have hDie : dieOf j.core = d := hJobs j List.mem_cons_self
          have hCap : (s.setMveq d q).capState (dieOf j.core) = 0 := hDie ▸ h
          have hRefuse := State.refuseJob_calm hCap reason
          have hQueue : (((s.setMveq d q).refuseJob j reason).eng.mveq.get [] d) = q := by
            rw [hRefuse.eng, State.mveq_setMveq]
          refine ((s.setEng_onward _ _).trans (hRefuse.toOnward.mono fun _ hq => hq.unit)).trans
            (ih ((hRefuse.fields _ (capState_unit d)).trans h) ?_)
          rw [hQueue]
          exact fun k hk => hJobs k (List.mem_cons_of_mem _ hk)
        · have hReads := State.sramReads_calm h (mvXRanges j.word ++ mvWRanges j.word)
          rw [← State.mveBegin_fst] at hReads
          exact (hReads.toOnward.mono fun _ hq => hq.read).trans (State.setEng_onward _ _ _)

theorem State.mveRun_onward (h : s.capState d = 0) (hJobs : JobsOf (s.eng.mveq.get [] d) d) :
    State.Onward (MveApart d) s (s.mveRun d) :=
  (State.mvePump_onward _ h hJobs).trans ((State.fset_calm _ _ _).toOnward.mono fun _ hq => hq.busy)

/-- The engine's status once it has left service. -/
def State.mveOff (s : State) (d : Nat) : State := (s.fset (RF.MVE_STAT_FAULT d) 1).fset (RF.MVE_STAT_ON_ARRAYS d) 1

theorem State.mveOff_calm (s : State) (d : Nat) : State.Calm
    (fun q => q.apart (RF.MVE_STAT_FAULT d) ∧ q.apart (RF.MVE_STAT_ON_ARRAYS d)) s (s.mveOff d) :=
  ((s.fset_calm _ _).mono fun _ hq => hq.1).trans ((State.fset_calm _ _ _).mono fun _ hq => hq.2)

theorem State.mveOff_shows (s : State) (d : Nat) : (s.mveOff d).fget (RF.MVE_STAT_FAULT d) = 1 ∧
    (s.mveOff d).fget (RF.MVE_STAT_ON_ARRAYS d) = 1 := by
  refine ⟨(State.fget_fset_ne _ _ _ _ (Or.inr (Or.inl (show 1 + 1 ≤ 2 by omega)))).trans ?_, ?_⟩
  · exact State.fget_fset _ _ _ (show 1 + 1 ≤ 64 by omega)
  · exact State.fget_fset _ _ _ (show 2 + 1 ≤ 64 by omega)

theorem capState_mveOff (d : Nat) : (RF.CAP_DIE_STAT_STATE d).apart (RF.MVE_STAT_FAULT d) ∧
    (RF.CAP_DIE_STAT_STATE d).apart (RF.MVE_STAT_ON_ARRAYS d) := by
  have hOff : Reg.CAP_DIE_STAT d ≠ Reg.MVE_STAT d := by
    simp only [Reg.CAP_DIE_STAT, Reg.MVE_STAT]
    omega
  exact ⟨Or.inl hOff, Or.inl hOff⟩

/-- A withdrawn engine: the running command ends, and those after it run on the arrays. -/
theorem State.mveWithdraw_eq (h : s.NoCap d) : s.mveWithdraw d = match s.eng.mveq.get [] d with
    | j :: q => if j.started then (((s.mveOff d).setMveq d q).completeCmd j.core j.seq stFENCED 0 j.nflags).mveRun d
      else s.mveOff d
    | [] => s.mveOff d := by
  have hCap : (s.mveOff d).capState d = 0 := ((s.mveOff_calm d).noCap (capState_mveOff d) h).1
  unfold State.mveWithdraw
  dsimp only
  rw [← State.mveOff, State.voteFailed_none hCap]
  rfl

theorem State.mveWithdraw_onward (h : s.NoCap d) (hJobs : JobsOf (s.eng.mveq.get [] d) d) :
    State.Onward (MveApart d) (s.mveOff d) (s.mveWithdraw d) := by
  rw [State.mveWithdraw_eq h]
  have hCap : (s.mveOff d).capState d = 0 := ((s.mveOff_calm d).noCap (capState_mveOff d) h).1
  cases hq : s.eng.mveq.get [] d with
  | nil => exact .rfl' _ _
  | cons j q =>
    rw [hq] at hJobs
    have hDie : dieOf j.core = d := hJobs j List.mem_cons_self
    have hCap' := ((s.mveOff d).setMveq_capState d q d).trans hCap
    have hEnd :=
      State.completeCmd_calm (s := (s.mveOff d).setMveq d q) (core := j.core) (by rw [hDie]; exact hCap') j.seq
      stFENCED 0 j.nflags
    have hQueue : (((s.mveOff d).setMveq d q).completeCmd j.core j.seq stFENCED 0 j.nflags).eng.mveq.get [] d = q := by
      rw [hEnd.eng, State.mveq_setMveq]
    dsimp only
    split
    · refine ((State.setEng_onward _ _ _).trans (hEnd.toOnward.mono fun _ hq => hq.unit)).trans
        (State.mveRun_onward ((hEnd.fields _ (capState_unit d)).trans hCap') ?_)
      rw [hQueue]
      exact fun k hk => hJobs k (List.mem_cons_of_mem _ hk)
    · exact .rfl' _ _

/-- With no command waiting, the queue is empty afterwards and the running command has ended. -/
theorem State.mveWithdraw_ends (h : s.NoCap d)
    (hq : s.eng.mveq.get [] d = [] ∨ ∃ j, s.eng.mveq.get [] d = [j] ∧ j.started = true ∧ j.core / 256 = d) :
    (s.mveWithdraw d).eng.mveq.get [] d = [] ∧
      ∀ j ∈ s.eng.mveq.get [] d, (s.mveWithdraw d).Closed j.core j.seq := by
  rw [State.mveWithdraw_eq h]
  obtain hq | ⟨j, hq, hRun, hDie⟩ := hq
  · rw [hq]
    exact ⟨hq, fun k hk => nomatch hk⟩
  · rw [hq]
    dsimp only
    rw [if_pos hRun]
    have hDie : dieOf j.core = d := hDie
    have hCap : ((s.mveOff d).setMveq d []).capState (dieOf j.core) = 0 := by
      rw [State.setMveq_capState, hDie]
      exact ((s.mveOff_calm d).noCap (capState_mveOff d) h).1
    have hEmpty : (((s.mveOff d).setMveq d []).completeCmd j.core j.seq stFENCED 0 j.nflags).eng.mveq.get [] d = [] :=
      by
      rw [(State.completeCmd_calm hCap _ _ _ _).eng, State.mveq_setMveq]
    have hBusy := State.mveBusy_recounted (((s.mveOff d).setMveq d []).completeCmd j.core j.seq stFENCED 0 j.nflags) d
    rw [State.mveRun_empty hEmpty]
    refine ⟨by rw [hBusy.eng]; exact hEmpty, fun k hk => ?_⟩
    rw [List.mem_singleton.mp hk]
    exact (State.NoneIssued.of_core hBusy.core).closed (State.completeCmd_closed hCap _ _ _ _)

end

/-! A residue fault of the engine. -/

/-- The TILE of the engine's record: that of the command that runs. -/
def mveTile : List Job → Nat
  | j :: _ => if j.started then fld j.word 352 32 else 0
  | [] => 0

/-- The state in which a residue fault of the engine has been counted, flagged and recorded. -/
def State.mveFaulty (s : State) (d : Nat) (body : Bytes) : State :=
  (((s.finc (RF.MVE_STAT_FLT_CNT d) 1).noteFault d 7).fset (RF.COMB_ERR_MVE d) 1).dieRec d 0x8106 0 2 body

section
variable (s : State) (d : Nat) (body : Bytes)

theorem State.mveFaulty_onward : State.Onward (fun q => q.apart (RF.MVE_STAT_FLT_CNT d) ∧ q.apart (RF.COMB_ERR_MVE d)) s
    (s.mveFaulty d body) :=
  ((((s.fset_calm _ _).toOnward.mono fun _ hq => hq.1).trans (State.setEng_onward _ _ _)).trans
    ((State.fset_calm _ _ _).toOnward.mono fun _ hq => hq.2)).trans (State.dieRec_calm _ _ _ _ _ _ _).toOnward

theorem State.mveFaulty_noCap {s : State} {d : Nat} (h : s.NoCap d) (body : Bytes) : (s.mveFaulty d body).NoCap d := by
  refine (s.mveFaulty_onward d body).noCap ⟨?_, ?_⟩ h
  all_goals
    refine Or.inl ?_
    simp only [RF.CAP_DIE_STAT_STATE, RF.MVE_STAT_FLT_CNT, RF.COMB_ERR_MVE, Reg.CAP_DIE_STAT, Reg.MVE_STAT,
      Reg.COMB_ERR]
    omega

theorem State.mveFaulty_mveq : (s.mveFaulty d body).eng.mveq = s.eng.mveq := by
  unfold State.mveFaulty
  rw [State.dieRec_eng]
  rfl

theorem State.mveFaulty_count :
    (s.mveFaulty d body).fget (RF.MVE_STAT_FLT_CNT d) = satAdd 8 (s.fget (RF.MVE_STAT_FLT_CNT d)) 1 := by
  have hErr : Reg.MVE_STAT d ≠ Reg.COMB_ERR d := by
    simp only [Reg.MVE_STAT, Reg.COMB_ERR]
    omega
  refine ((State.dieRec_calm (fun _ => True) _ _ _ _ _ _).fields _ trivial).trans
    ((State.fget_fset_ne _ _ _ _ (Or.inl hErr)).trans ?_)
  show (s.finc (RF.MVE_STAT_FLT_CNT d) 1).fget _ = _
  exact s.fget_finc _ _ (show 8 + 8 ≤ 64 by omega)

theorem State.mveFaulty_flag : (s.mveFaulty d body).fget (RF.COMB_ERR_MVE d) = 1 :=
  ((State.dieRec_calm (fun _ => True) _ _ _ _ _ _).fields _ trivial).trans
    (State.fget_fset _ _ _ (show 1 + 1 ≤ 64 by omega))

theorem State.mveFaulty_queued : (s.mveFaulty d body).Queued d (mkEvent 0x8106 d 0 2 body) :=
  State.dieRec_queued _ _ _ _ (by decide) _

end

/-- The fault of an engine in service. -/
theorem exec_mveResidueFault_serving {d : DieId} {s : State} (hKept : s.fget (RF.MVE_STAT_RETIRED d) = 0)
    (hOn : s.fget (RF.MVE_STAT_ON_ARRAYS d) = 0) (cause : Fin 3) (column entry : BitVec 16) :
    exec (.mveResidueFault d cause column entry) s = .next ((s.mveFaulty d
      (arrPay 0xFF 0 0 cause column.toNat entry.toNat (mveTile (s.eng.mveq.get [] d)))).mveWithdraw d) := by
  show Host.Outcome.next (if s.fget (RF.MVE_STAT_RETIRED d) = 1 ∨ s.fget (RF.MVE_STAT_ON_ARRAYS d) = 1 then s
    else _) = _
  rw [if_neg (by omega)]
  unfold mveTile
  rfl

/-- The verdict on a tested engine. -/
theorem exec_mveSelftestDone_shows {d : DieId} {s : State} (hOn : s.fget (RF.MVE_STAT_ON_ARRAYS d) = 1)
    (hKept : s.fget (RF.MVE_STAT_RETIRED d) = 0) (pass : Bool) : exec (.mveSelftestDone d pass) s = .next
      (if pass && s.mayReturn d 7 then s.fset (RF.MVE_STAT_ON_ARRAYS d) 0
      else ((s.fset (RF.MVE_STAT_RETIRED d) 1).dieRec d 0x8107 0 2 (arrPay 0xFF 0 0 0 0 0 0)).journal d 7 0 5) := by
  show Host.Outcome.next (if s.fget (RF.MVE_STAT_ON_ARRAYS d) = 1 ∧ s.fget (RF.MVE_STAT_RETIRED d) = 0 then _
    else s) = _
  rw [if_pos ⟨hOn, hKept⟩]

/-- Flags of the die's error register other than that of SRAM words. -/
theorem combErr_apart (d : Nat) {lo : Nat} (h : lo < 4) : MveApart d ⟨Reg.COMB_ERR d, lo, 1⟩ ∧
    (⟨Reg.COMB_ERR d, lo, 1⟩ : FRef).apart (RF.MVE_STAT_FAULT d) ∧
    (⟨Reg.COMB_ERR d, lo, 1⟩ : FRef).apart (RF.MVE_STAT_ON_ARRAYS d) := by
  have hOff : Reg.COMB_ERR d ≠ Reg.WRK_SRAM_ECC d ∧ Reg.COMB_ERR d ≠ Reg.MVE_STAT d := by
    simp only [Reg.MVE_STAT, Reg.WRK_SRAM_ECC, Reg.COMB_ERR]
    omega
  exact ⟨⟨unitField_at (o := 0x10) rfl (by decide), ⟨hOff.1, Or.inr (Or.inl (show lo + 1 ≤ 4 by omega))⟩,
    Or.inl hOff.2⟩, Or.inl hOff.2, Or.inl hOff.2⟩

/-! A cluster that backs no logical one. -/

/-- The flagged, journaled and recorded loss of a physical cluster. -/
def State.clFaulty (s : State) (d ph : Nat) : State :=
  let s1 := (s.fset (RF.COMB_ERR_CLUSTER d) 1).journal d 1 ph 5
  s1.dieRec d 0x8006 ph 1 (s1.unitPay d ph 0xFF)

/-- Unit fields other than the flag of lost clusters. -/
def clusterApart (d : Nat) (q : FRef) : Prop := unitField q ∧ q.apart (RF.COMB_ERR_CLUSTER d)

theorem cluster_apart (d : Nat) {q : FRef} (h : unitField q) (hErr : q.off ≠ Reg.COMB_ERR d) : clusterApart d q :=
  ⟨h, Or.inl hErr⟩

section
variable {s : State} {d ph : Nat}

theorem State.clFaulty_calm (s : State) (d ph : Nat) : State.Calm (clusterApart d) s (s.clFaulty d ph) := by
  have hFlag := s.fset_calm (RF.COMB_ERR_CLUSTER d) 1
  have hJournal := State.journal_calm (s.fset (RF.COMB_ERR_CLUSTER d) 1) d 1 ph 5
  have hRec := State.dieRec_calm unitField ((s.fset (RF.COMB_ERR_CLUSTER d) 1).journal d 1 ph 5) d 0x8006 ph 1
    (((s.fset (RF.COMB_ERR_CLUSTER d) 1).journal d 1 ph 5).unitPay d ph 0xFF)
  exact (hFlag.mono fun _ hq => hq.2).trans ((hJournal.trans hRec).mono fun _ hq => hq.1)

theorem State.clFaulty_journaled (s : State) (d ph : Nat) : s.Journaled (s.clFaulty d ph) d 1 ph 5 :=
  (s.fset_calm (RF.COMB_ERR_CLUSTER d) 1).toOnward.journaled_before
    ((State.dieRec_calm unitField _ _ _ _ _ _).toOnward.journaled_after (State.journal_journaled _ d 1 ph 5))

theorem State.Onward.clsOn {ok : FRef → Prop} {t : State} (h : State.Onward ok s t)
    (hMap : ∀ c < 32, ok (RF.WRK_CLMAP_PHYS d (c / 8) (c % 8))) (ph : Nat) : t.clsOn d ph = s.clsOn d ph :=
  List.filter_congr fun c hc => by
    rw [State.clPhys, h.fields _ (hMap c (List.mem_range.mp hc)), State.clPhys]

theorem clMap_unit (d : Nat) {c : Nat} (_ : c < 32) : unitField (RF.WRK_CLMAP_PHYS d (c / 8) (c % 8)) :=
  unitField_at (o := 0x30100 + 8 * (c / 8)) (d := d) (by simp only [RF.WRK_CLMAP_PHYS, Reg.WRK_CLMAP]; omega) (by omega)

theorem clMap_registers (d : Nat) {c : Nat} (_ : c < 32) :
    Reg.WRK_CLMAP d (c / 8) ≠ Reg.COMB_ERR d ∧ Reg.WRK_CLMAP d (c / 8) ≠ Reg.RNG_STAT d := by
  simp only [Reg.WRK_CLMAP, Reg.COMB_ERR, Reg.RNG_STAT]
  omega

theorem clMap_cluster (d : Nat) : ∀ c < 32, clusterApart d (RF.WRK_CLMAP_PHYS d (c / 8) (c % 8)) := fun _ h =>
  cluster_apart d (clMap_unit d h) (clMap_registers d h).1

theorem capState_cluster (d : Nat) : clusterApart d (RF.CAP_DIE_STAT_STATE d) := by
  refine cluster_apart d (capState_unit d) ?_
  simp only [RF.CAP_DIE_STAT_STATE, Reg.CAP_DIE_STAT, Reg.COMB_ERR]
  omega

/-- A physical cluster behind no logical one is retired at once. -/
theorem State.takeover_unused (h : s.NoCap d) (hp : ph < 34) (hGone : s.clGone d ph = false)
    (hNone : s.clsOn d ph = []) :
    State.Onward (clusterApart d) s ((s.takeoverStart d ph).takeoverTry d ph) ∧
      ((s.takeoverStart d ph).takeoverTry d ph).clGone d ph = true ∧
      s.Journaled ((s.takeoverStart d ph).takeoverTry d ph) d 1 ph 5 := by
  have hFaulty := s.clFaulty_calm d ph
  have hNone4 : (s.clFaulty d ph).clsOn d ph = [] := (hFaulty.toOnward.clsOn (clMap_cluster d) ph).trans hNone
  let s5 : State := { s.clFaulty d ph with
    eng := { (s.clFaulty d ph).eng with clOut := (s.clFaulty d ph).eng.clOut.put (d * 34 + ph) 1 } }
  have hOut : State.Onward (clusterApart d) s s5 := hFaulty.toOnward.trans (State.setEng_onward _ _ _)
  have hStart : s.takeoverStart d ph = (s.clFaulty d ph).takeoverEnd d ph := by
    unfold State.takeoverStart
    dsimp only
    rw [hNone, hGone, State.voteFailed_none (by exact h.1), if_neg (by simp; omega), if_pos rfl]
    rfl
  have hEnd : (s.clFaulty d ph).takeoverEnd d ph =
      if s5.clInSvc d < 16 then s5.dieFailed d else if s5.clSpares d = [] then s5.dieDegraded d else s5 := by
    unfold State.takeoverEnd
    dsimp only
    rw [hNone4]
    rfl
  have hLast : State.Calm unitField s5 ((s.clFaulty d ph).takeoverEnd d ph) := by
    rw [hEnd]
    exact .ite (State.dieFailed_calm (hOut.noCap (capState_cluster d) h)) (.ite (s5.dieDegraded_calm d) (.rfl' _ s5))
  have hAll := hOut.trans (hLast.toOnward.mono fun _ hq => hq.1)
  have hTry : (s.takeoverStart d ph).takeoverTry d ph = (s.clFaulty d ph).takeoverEnd d ph := by
    rw [hStart]
    unfold State.takeoverTry
    dsimp only
    rw [hAll.clsOn (clMap_cluster d), hNone, if_neg (by simp)]
  rw [hTry]
  refine ⟨hAll, ?_, ?_⟩
  · unfold State.clGone
    rw [hLast.eng]
    simp [s5, Tbl.get_put]
  · exact hLast.toOnward.journaled_after ((State.setEng_onward unitField _ _).journaled_after (s.clFaulty_journaled d ph))

end

end Sys2Proof.Machine

/-! Parity faults of the generators (R160), and the scrubber of SRAM (R137). -/

namespace Sys2Proof.Machine

/-! A generator's parity fault. -/

/-- The state in which a die's generator fault has been flagged, counted and recorded. -/
def State.rngFaulty (s : State) (d u : Nat) (body : Bytes) : State :=
  (((s.fset (RF.RNG_STAT_PAR_FLT d) 1).finc (RF.RNG_STAT_FLT_CNT d) 1).fset (RF.COMB_ERR_RNG d) 1).dieRec d 0x8204 u 2
    body

/-- A generator fault since `s` shows in the die's registers and among its records. -/
structure State.RngNoted (s t : State) (d u : Nat) (body : Bytes) : Prop where
  flag : t.fget (RF.RNG_STAT_PAR_FLT d) = 1
  count : t.fget (RF.RNG_STAT_FLT_CNT d) = satAdd (RF.RNG_STAT_FLT_CNT d).w (s.fget (RF.RNG_STAT_FLT_CNT d)) 1
  err : t.fget (RF.COMB_ERR_RNG d) = 1
  queued : t.Queued d (mkEvent 0x8204 d u 2 body)

/-- Fields outside the generators' status and error flag. -/
def rngApart (d : Nat) (q : FRef) : Prop := q.off ≠ Reg.RNG_STAT d ∧ q.off ≠ Reg.COMB_ERR d

theorem rng_registers (d : Nat) : Reg.RNG_STAT d ≠ Reg.COMB_ERR d ∧ Reg.RNG_STAT d ≠ Reg.WRK_SRAM_ECC d ∧
    Reg.RNG_STAT d ≠ Reg.MVE_STAT d := by
  simp only [Reg.RNG_STAT, Reg.COMB_ERR, Reg.WRK_SRAM_ECC, Reg.MVE_STAT]
  omega

section
variable {s : State} {d u : Nat} {body : Bytes}

theorem State.rngFaulty_calm (s : State) (d u : Nat) (body : Bytes) : State.Calm (rngApart d) s
    (s.rngFaulty d u body) :=
  ((((s.fset_calm (RF.RNG_STAT_PAR_FLT d) 1).mono fun _ hq => Or.inl hq.1).trans
    ((State.fset_calm _ (RF.RNG_STAT_FLT_CNT d) _).mono fun _ hq => Or.inl hq.1)).trans
    ((State.fset_calm _ (RF.COMB_ERR_RNG d) 1).mono fun _ hq => Or.inl hq.2)).trans (State.dieRec_calm _ _ _ _ _ _ _)

theorem State.rngFaulty_noted (s : State) (d u : Nat) (body : Bytes) : s.RngNoted (s.rngFaulty d u body) d u body := by
  have hRec : ∀ q, (s.rngFaulty d u body).fget q = (((s.fset (RF.RNG_STAT_PAR_FLT d) 1).finc (RF.RNG_STAT_FLT_CNT d)
      1).fset (RF.COMB_ERR_RNG d) 1).fget q := fun q =>
    (State.dieRec_calm (fun _ => True) _ d 0x8204 u 2 body).fields q trivial
  have hErr : Reg.RNG_STAT d ≠ Reg.COMB_ERR d := (rng_registers d).1
  refine ⟨?_, ?_, ?_, State.dieRec_queued _ _ _ _ (by decide) _⟩
  · rw [hRec, State.fget_fset_ne _ _ _ _ (Or.inl hErr), State.finc,
      State.fget_fset_ne _ _ _ _ (Or.inr (Or.inl (show 1 + 1 ≤ 8 by omega))),
      State.fget_fset _ _ _ (show 1 + 1 ≤ 64 by omega)]
    rfl
  · rw [hRec, State.fget_fset_ne _ _ _ _ (Or.inl hErr), State.fget_finc _ _ _ (show 8 + 8 ≤ 64 by omega),
      State.fget_fset_ne _ _ _ _ (Or.inr (Or.inr (show 1 + 1 ≤ 8 by omega)))]
  · rw [hRec, State.fget_fset _ _ _ (show 2 + 1 ≤ 64 by omega)]
    rfl

theorem State.RngNoted.onward {ok : FRef → Prop} {t x : State} (h : s.RngNoted t d u body) (k : State.Onward ok t x)
    (hStat : ∀ q : FRef, q.off = Reg.RNG_STAT d → ok q) (hErr : ok (RF.COMB_ERR_RNG d)) : s.RngNoted x d u body :=
  ⟨(k.fields _ (hStat _ rfl)).trans h.flag, (k.fields _ (hStat _ rfl)).trans h.count, (k.fields _ hErr).trans h.err,
    k.queued _ _ h.queued⟩

theorem rngStat_unit {q : FRef} (h : q.off = Reg.RNG_STAT d) : unitField q := unitField_at (o := 0x22000) h (by decide)

theorem rngStat_arr {q : FRef} (h : q.off = Reg.RNG_STAT d) : ArrApart d q := by
  refine .of_off (rngStat_unit h) ?_
  rw [h]
  simp only [Reg.RNG_STAT, Reg.ARR_PHYS_STATE, Reg.ARR_LMAP, Reg.ARR_STAT]
  omega

theorem combErrRng_arr (d : Nat) : ArrApart d (RF.COMB_ERR_RNG d) := by
  refine .of_off (unitField_at (o := 0x10) rfl (by decide)) ?_
  simp only [RF.COMB_ERR_RNG, Reg.COMB_ERR, Reg.ARR_PHYS_STATE, Reg.ARR_LMAP, Reg.ARR_STAT]
  omega

theorem capState_rng (d : Nat) : rngApart d (RF.CAP_DIE_STAT_STATE d) := by
  simp only [rngApart, RF.CAP_DIE_STAT_STATE, Reg.CAP_DIE_STAT, Reg.RNG_STAT, Reg.COMB_ERR]
  omega

theorem arr_rng {q : FRef} (h : q.off = Reg.ARR_PHYS_STATE d ∨ q.off = Reg.ARR_LMAP d) : rngApart d q := by
  unfold Reg.ARR_PHYS_STATE Reg.ARR_LMAP at h
  unfold rngApart Reg.RNG_STAT Reg.COMB_ERR
  omega

/-- A fault of an array's generator withdraws the array. -/
theorem State.rngFaulty_array (h : s.NoCap d) (hu : u < 7) (hRuns : s.arrRuns d u = true)
    (hJobs : ∀ a < 6, JobsOf (s.arr d a).queue d) (body : Bytes) :
    s.RngNoted ((s.rngFaulty d u body).arrWithdraw d u) d u body ∧
      ((s.rngFaulty d u body).arrWithdraw d u).arrSt d u = 3 := by
  have hCalm := s.rngFaulty_calm d u body
  have hRuns' : (s.rngFaulty d u body).arrRuns d u = true := by
    unfold State.arrRuns State.arrSt
    rw [hCalm.fields _ (arr_rng (.inl rfl))]
    exact hRuns
  obtain ⟨hOnward, hState, -⟩ := State.arrWithdraw_onward (hCalm.noCap (capState_rng d) h) hRuns' hu fun l hl => by
    rw [State.arr, hCalm.eng]
    exact hJobs l (List.mem_range.mp (List.mem_of_mem_filter hl))
  exact ⟨(s.rngFaulty_noted d u body).onward hOnward (fun _ hq => rngStat_arr hq) (combErrRng_arr d), hState⟩

/-- A fault of the matrix-vector engine's generator withdraws the engine. -/
theorem State.rngFaulty_engine (h : s.NoCap d) (hJobs : JobsOf (s.eng.mveq.get [] d) d) (u : Nat) (body : Bytes) :
    s.RngNoted ((s.rngFaulty d u body).mveWithdraw d) d u body ∧
      ((s.rngFaulty d u body).mveWithdraw d).fget (RF.MVE_STAT_ON_ARRAYS d) = 1 := by
  have hCalm := s.rngFaulty_calm d u body
  obtain ⟨hErr, hEcc, hMve⟩ := rng_registers d
  have hOnward := State.mveWithdraw_onward (hCalm.noCap (capState_rng d) h) (by rw [hCalm.eng]; exact hJobs)
  have hOff := ((s.rngFaulty_noted d u body).onward ((s.rngFaulty d u body).mveOff_calm d).toOnward
    (fun q hq => ⟨Or.inl (hq ▸ hMve), Or.inl (hq ▸ hMve)⟩) (combErr_apart d (lo := 2) (by decide)).2)
  refine ⟨hOff.onward hOnward (fun q hq => ⟨rngStat_unit hq, ⟨hq ▸ hEcc, Or.inl (hq ▸ hErr)⟩, Or.inl (hq ▸ hMve)⟩)
    (combErr_apart d (lo := 2) (by decide)).1, ?_⟩
  exact (hOnward.fields _ (mveStat_apart d (by decide))).trans (State.mveOff_shows _ d).2

/-- A fault of a cluster's generator retires a cluster that no logical one stands on. -/
theorem State.rngFaulty_cluster (h : s.NoCap d) (hu : u < 34) (hGone : s.clGone d u = false) (hNone : s.clsOn d u = [])
    (body : Bytes) : s.RngNoted (((s.rngFaulty d u body).takeoverStart d u).takeoverTry d u) d u body ∧
      (((s.rngFaulty d u body).takeoverStart d u).takeoverTry d u).clGone d u = true ∧
      s.Journaled (((s.rngFaulty d u body).takeoverStart d u).takeoverTry d u) d 1 u 5 := by
  have hCalm := s.rngFaulty_calm d u body
  have hGone' : (s.rngFaulty d u body).clGone d u = false := by
    unfold State.clGone
    rw [hCalm.eng]
    exact hGone
  have hNone' := (hCalm.toOnward.clsOn (fun _ hc => ⟨(clMap_registers d hc).2, (clMap_registers d hc).1⟩) u).trans hNone
  obtain ⟨hOnward, hOut, hJournaled⟩ := State.takeover_unused (hCalm.noCap (capState_rng d) h) hu hGone' hNone'
  refine ⟨(s.rngFaulty_noted d u body).onward hOnward (fun q hq => cluster_apart d (rngStat_unit hq) ?_) ⟨?_, ?_⟩, hOut,
    hCalm.toOnward.journaled_before hJournaled⟩
  · rw [hq]
    exact (rng_registers d).1
  · exact unitField_at (o := 0x10) rfl (by decide)
  · exact Or.inr (Or.inl (show 2 + 1 ≤ 7 by omega))

end

theorem exec_rngParityFault_die {d : DieId} {s : State} (h : s.NoCap d) {e : Fin 4} (he : e.val ≠ 3) (u : Byte)
    (lane : BitVec 16) : exec (.rngParityFault d e u lane) s = .next
      (if e.val = 0 then (s.rngFaulty d u.toNat (pay [(1, e.val), (1, u.toNat), (2, lane.toNat)])).arrWithdraw d u.toNat
      else if e.val = 1 then (s.rngFaulty d u.toNat (pay [(1, e.val), (1, u.toNat), (2, lane.toNat)])).mveWithdraw d
      else ((s.rngFaulty d u.toNat (pay [(1, e.val), (1, u.toNat), (2, lane.toNat)])).takeoverStart d
        u.toNat).takeoverTry d u.toNat) := by
  have hCap :=
    ((s.rngFaulty_calm d u.toNat (pay [(1, e.val), (1, u.toNat), (2, lane.toNat)])).noCap (capState_rng d) h).1
  show Host.Outcome.next (if e.val = 3 then _ else _) = _
  rw [if_neg he]
  dsimp only
  rw [← State.rngFaulty, State.voteFailed_none hCap]

/-! Scrubbing. -/

/-- The table of SRAM errors once a read of its line shows the flipped words. -/
def flipWords (key : Nat → Nat) (t : Tbl Nat) (flips : List (Fin 32 × Bool)) : Tbl Nat :=
  flips.foldl (fun (t : Tbl Nat) f =>
    t.put (key f.1.val) (if f.2 || decide (t.get 0 (key f.1.val) ≠ 0) then 2 else 1)) t

/-- The table without the errors of some words. -/
def clearWords (key : Nat → Nat) (t : Tbl Nat) (ws : List Nat) : Tbl Nat :=
  ws.foldl (fun (t : Tbl Nat) w => t.del (key w)) t

/-- One more flip of a word. -/
theorem scrubbed_cons (old : Nat) (b : Bool) (bs : List Bool) :
    scrubbed old (b :: bs) = scrubbed (if b || decide (old ≠ 0) then 2 else 1) bs := by
  unfold scrubbed
  cases bs with
  | nil => cases b <;> simp
  | cons c cs => cases b <;> by_cases h : old = 0 <;> simp [h]

section
variable {key : Nat → Nat} (hKey : Function.Injective key)
include hKey

theorem flipWords_get (flips : List (Fin 32 × Bool)) (t : Tbl Nat) (i : Nat) : (flipWords key t flips).get 0 (key i) =
    scrubbed (t.get 0 (key i)) ((flips.filter fun f => f.1.val == i).map fun f => f.2) := by
  unfold flipWords
  induction flips generalizing t with
  | nil => rfl
  | cons f fs ih =>
    rw [List.foldl_cons, ih]
    by_cases h : f.1.val = i
    · rw [List.filter_cons_of_pos (by simpa using h), List.map_cons, scrubbed_cons, h, Tbl.get_put]
    · rw [List.filter_cons_of_neg (by simpa using h), Tbl.get_put_ne _ _ _ fun e => h (hKey e).symm]

theorem clearWords_get (ws : List Nat) (t : Tbl Nat) (i : Nat) :
    (clearWords key t ws).get 0 (key i) = if i ∈ ws then 0 else t.get 0 (key i) := by
  unfold clearWords
  induction ws generalizing t with
  | nil => simp
  | cons w ws ih =>
    rw [List.foldl_cons, ih]
    by_cases h : i = w
    · subst h
      rw [Tbl.get_del]
      simp
    · rw [Tbl.get_del_ne _ _ fun e => h (hKey e)]
      simp [h]

end

theorem flipWords_get_ne {key : Nat → Nat} {k : Nat} (h : ∀ i < 32, k ≠ key i) (flips : List (Fin 32 × Bool))
    (t : Tbl Nat) : (flipWords key t flips).get 0 k = t.get 0 k :=
  List.foldlRecOn (motive := fun u : Tbl Nat => u.get 0 k = t.get 0 k) _ _ rfl fun _ hu f _ =>
    (Tbl.get_put_ne _ _ _ (h f.1.val f.1.isLt)).trans hu

theorem clearWords_get_ne {key : Nat → Nat} {k : Nat} {ws : List Nat} (h : ∀ i ∈ ws, k ≠ key i) (t : Tbl Nat) :
    (clearWords key t ws).get 0 k = t.get 0 k :=
  List.foldlRecOn (motive := fun u : Tbl Nat => u.get 0 k = t.get 0 k) _ _ rfl fun _ hu w hw =>
    (Tbl.get_del_ne _ _ (h w hw)).trans hu

theorem sramKey_injective (d line : Nat) : Function.Injective fun w => sramKey d (line * 32 + w) := fun a b h => by
  have h : sramKey d (line * 32 + a) = sramKey d (line * 32 + b) := h
  unfold sramKey at h
  omega

/-- The one-bit errors of a line are counted and cleared; every other word keeps what the read shows. -/
theorem exec_sramScrub_eq (d : DieId) (s : State) (line : Fin 2097152) (flips : List (Fin 32 × Bool)) {new : Nat → Nat}
    (hNew : ∀ i, new i = scrubbed (s.eng.sramErr.get 0 (sramKey d (line.val * 32 + i)))
      ((flips.filter fun f => f.1.val == i).map fun f => f.2)) :
    let key := fun w => sramKey d (line.val * 32 + w)
    let ones := (List.range 32).filter fun i => decide (new i = 1)
    exec (.sramScrub d line flips) s = .next (({ s with eng := { s.eng with
      sramErr := clearWords key (flipWords key s.eng.sramErr flips) ones } } : State).finc (RF.WRK_SRAM_ECC_CE_CNT d)
        ones.length) := by
  intro key ones
  have hOnes :
    ((List.range 32).filter fun w => decide ((flipWords key s.eng.sramErr flips).get 0 (key w) = 1)) = ones :=
    List.filter_congr fun i _ => by rw [flipWords_get (sramKey_injective d line.val), hNew]
  rw [← hOnes]
  rfl

/-- Settles O19: the engine and the units of faulted generators are withdrawn with their notes; the scrubber's table
is read word by word. -/
theorem engineGeneratorAndSramFaults : Obligations.EngineGeneratorAndSramFaults := by
  intro d s
  refine ⟨fun h hKept hOn hq cause column entry => ?_, fun hOn hKept pass => ?_, fun u lane => rfl,
    fun h e u lane hArray hEngine hCluster => ?_, fun line flips new hNew => ?_⟩
  · generalize hBody : arrPay 0xFF 0 0 cause column.toNat entry.toNat (mveTile (s.eng.mveq.get [] d)) = body
    have hExec := exec_mveResidueFault_serving hKept hOn cause column entry
    rw [hBody] at hExec
    rw [← s.mveFaulty_mveq d body] at hq
    have hCap := State.mveFaulty_noCap h body
    have hJobs : JobsOf ((s.mveFaulty d body).eng.mveq.get [] d) d := by
      obtain hq | ⟨j, hq, -, hDie⟩ := hq <;> rw [hq]
      · exact fun k hk => nomatch hk
      · exact fun k hk => List.mem_singleton.mp hk ▸ hDie
    have hOff := (s.mveFaulty d body).mveOff_calm d
    have hOnward := State.mveWithdraw_onward hCap hJobs
    obtain ⟨hFault, hArrays⟩ := (s.mveFaulty d body).mveOff_shows d
    obtain ⟨hEmpty, hClosed⟩ := State.mveWithdraw_ends hCap hq
    obtain ⟨hErr, hErrOff⟩ := combErr_apart d (lo := 1) (by decide)
    rw [s.mveFaulty_mveq d body] at hClosed
    refine ⟨_, hExec, (hOnward.fields _ (mveStat_apart d (by decide))).trans hArrays,
      (hOnward.fields _ (mveStat_apart d (by decide))).trans hFault,
      (hOnward.fields _ hErr).trans ((hOff.fields _ hErrOff).trans (s.mveFaulty_flag d body)), ?_, hEmpty, hClosed,
      mveTile (s.eng.mveq.get [] d), ?_⟩
    · exact (hOnward.fields _ (mveStat_apart d (by decide))).trans ((hOff.fields (RF.MVE_STAT_FLT_CNT d)
        ⟨Or.inr (Or.inr (show 1 + 1 ≤ 8 by decide)), Or.inr (Or.inr (show 2 + 1 ≤ 8 by decide))⟩).trans
          (s.mveFaulty_count d body))
    · rw [hBody]
      exact hOnward.queued _ _ (hOff.queued _ _ (s.mveFaulty_queued d body))
  · refine ⟨_, exec_mveSelftestDone_shows hOn hKept pass, ?_⟩
    cases pass && s.mayReturn d 7 with
    | true =>
      refine ⟨State.fget_fset _ _ _ (show 2 + 1 ≤ 64 by decide), ?_, only_of_keeps fun _ K k =>
        State.fset_keeps (K.mono rfl) _ _ k⟩
      exact (State.fget_fset_ne _ _ _ _ (Or.inr (Or.inr (show 2 + 1 ≤ 3 by decide)))).trans hKept
    | false =>
      have hEnd := (State.dieRec_calm unitField (s.fset (RF.MVE_STAT_RETIRED d) 1) d 0x8107 0 2
        (arrPay 0xFF 0 0 0 0 0 0)).trans (State.journal_calm _ d 7 0 5)
      have hUnit : ∀ lo w, unitField ⟨Reg.MVE_STAT d, lo, w⟩ := fun _ _ => unitField_at (o := 0x21000) rfl (by decide)
      refine ⟨(hEnd.fields _ (hUnit 2 1)).trans ((State.fget_fset_ne _ _ _ _
        (Or.inr (Or.inl (show 2 + 1 ≤ 3 by decide)))).trans hOn), (hEnd.fields _ (hUnit 3 1)).trans
          (State.fget_fset _ _ _ (show 3 + 1 ≤ 64 by decide)), only_of_keeps fun _ K k => ?_⟩
      exact State.journal_keeps (K.mono rfl) _ _ _ _ (State.dieRec_keeps (K.mono rfl) _ _ _ _ _
        (State.fset_keeps (K.mono rfl) _ _ k))
  · have hExec := exec_rngParityFault_die h (e := ⟨e.val, by omega⟩) (by dsimp only; omega) u lane
    dsimp only at hExec
    obtain he | he | he : e.val = 0 ∨ e.val = 1 ∨ e.val = 2 := by omega
    · rw [if_pos he] at hExec
      obtain ⟨hUnit, hRuns, hJobs⟩ := hArray he
      obtain ⟨hNoted, hState⟩ := State.rngFaulty_array h hUnit hRuns hJobs
        (pay [(1, e.val), (1, u.toNat), (2, lane.toNat)])
      exact ⟨_, hExec, hNoted.flag, hNoted.count, hNoted.err, hNoted.queued, fun _ => hState, by omega, by omega⟩
    · rw [if_neg (by omega), if_pos he] at hExec
      obtain ⟨hNoted, hState⟩ := State.rngFaulty_engine h (hEngine he) u.toNat
        (pay [(1, e.val), (1, u.toNat), (2, lane.toNat)])
      exact ⟨_, hExec, hNoted.flag, hNoted.count, hNoted.err, hNoted.queued, by omega, fun _ => hState, by omega⟩
    · rw [if_neg (by omega), if_neg (by omega)] at hExec
      obtain ⟨hUnit, hGone, hNone⟩ := hCluster he
      obtain ⟨hNoted, hOut⟩ := State.rngFaulty_cluster h hUnit hGone hNone
        (pay [(1, e.val), (1, u.toNat), (2, lane.toNat)])
      exact ⟨_, hExec, hNoted.flag, hNoted.count, hNoted.err, hNoted.queued, by omega, by omega, fun _ => hOut⟩
  · have hKey := sramKey_injective d line.val
    refine ⟨_, exec_sramScrub_eq d s line flips hNew, fun i hi => ?_, fun k hk => ?_, ?_, ?_, ?_⟩
    · rw [State.finc_eng]
      refine (clearWords_get hKey _ _ i).trans ?_
      rw [flipWords_get hKey, ← hNew]
      simp [hi]
    · rw [State.finc_eng]
      exact (clearWords_get_ne (fun i hi => hk i (List.mem_range.mp (List.mem_of_mem_filter hi))) _).trans
        (flipWords_get_ne hk _ _)
    · exact State.fget_finc _ _ _ (show 0 + 32 ≤ 64 by omega)
    · exact only_of_keeps fun _ K k => State.finc_keeps (K.mono rfl) _ _ (K.eng (by decide) _ k)
    · exact .finc (.of_eq (.rfl' _ s) rfl) List.mem_cons_self

end Sys2Proof.Machine

/-! Commands that a core carries out itself (R115 to R120): the state after a completion that leaves the kernel
running, and NOP, CHAIN and WAIT. -/

namespace Sys2Proof.Machine

theorem State.coreRec_congr {s t : State} (h : t.core = s.core) (c : Nat) : t.coreRec c = s.coreRec c :=
  by rw [State.coreRec, h]; rfl

theorem State.setCoreRec_only (s : State) (core : Nat) (r : CoreRec) : State.Only [.core] s (s.setCoreRec core r) :=
  only_of_keeps fun _ K h => State.setCoreRec_keeps K _ _ h

theorem State.setCoreState_only (s : State) (core st : Nat) : State.Only [.regs] s (s.setCoreState core st) :=
  only_of_keeps fun _ K h => State.setCoreState_keeps K _ _ h

theorem State.setCoreState_regsBut (s : State) (core st : Nat) :
    State.RegsBut [Reg.WRK_CORE_STATE (dieOf core) (core % 256 / 8)] s (s.setCoreState core st) :=
  (State.RegsBut.rfl' _ s).fset List.mem_cons_self

theorem State.issueNext_only (s : State) (core : Nat) (w : CmdWord) : State.Only [.core] s (s.issueNext core w) :=
  only_of_keeps fun _ K h => State.issueNext_keeps K _ _ h

/-- A command none of whose conditions for a refusal holds acts. -/
theorem State.refuseOr_passes {s : State} {core seq opc : Nat} {cs : List (Bool × Nat)} (h : pick cs = none)
    (f : State → State) : s.refuseOr core seq opc cs f = f s := by
  unfold State.refuseOr
  rw [h]

theorem resv_passes {w : CmdWord} {fs : List (Nat × Nat)} (h : reservedZero w fs = true) : (resv w fs).1 = false := by
  rw [resv, h]
  rfl

/-- Every command word but the lanes' is 64 bytes long. -/
theorem State.Fetches.cmdBytes {s s1 : State} {c opc : Nat} {w : CmdWord} (h : s.Fetches c opc s1 w)
    (hOpc : opc ≠ 0x40) : cmdBytes w = 64 := if_neg fun k => hOpc (h.opc.symm.trans k.1)

/-- A state in which core `c` has issued its command; its record and state are those right after the issue. -/
theorem State.Fetches.issued {s s1 t : State} {c opc : Nat} {w : CmdWord} (h : s.Fetches c opc s1 w)
    (hOpc : opc ≠ 0x40) (hPc : (t.coreRec c).pc = ((s1.issueNext c w).coreRec c).pc)
    (hSeq : (t.coreRec c).seq = ((s1.issueNext c w).coreRec c).seq)
    (hOut : (t.coreRec c).outst = ((s1.issueNext c w).coreRec c).outst) : s.Issued t c opc := by
  obtain ⟨_, _, hRec⟩ := h.rec
  rw [hRec] at hPc hSeq hOut
  rw [h.cmdBytes hOpc] at hPc
  exact ⟨hPc, hSeq, hOut⟩

/-- What a completion changes that leaves its core's kernel running: the core's record. -/
structure State.Completed (s t : State) (core seq : Nat) : Prop where
  record : ∃ bad fl, t.coreRec core = { s.coreRec core with
    outst := (s.coreRec core).outst.filter (fun o => o.1 != seq), bad := bad, nflags := fl }
  others : ∀ c, c ≠ core → t.coreRec c = s.coreRec c
  regs : t.regs = s.regs
  bars : t.core.bars = s.core.bars
  only : State.Only [.core] s t

theorem State.completeRaw_completed {s : State} {core : Nat} (hBlock : (s.coreRec core).block ≠ .ended)
    (hEnding : (s.coreRec core).ending = none) (seq st rs nf : Nat) :
    s.Completed (s.completeRaw core seq st rs nf) core seq := by
  obtain ⟨bad, fl, h | ⟨h, hNone⟩⟩ := State.completeRaw_running s core seq st rs nf hBlock hEnding
  · rw [h]
    exact ⟨⟨bad, fl, State.coreRec_setCoreRec ..⟩, fun _ hc => State.coreRec_setCoreRec_ne _ _ hc, rfl, rfl,
      State.setCoreRec_only ..⟩
  · rw [h]
    exact ⟨⟨_, _, by rw [hNone]⟩, fun _ _ => rfl, rfl, rfl, .rfl' _ s⟩

theorem State.Completed.coreState {s t : State} {core seq : Nat} (h : s.Completed t core seq) (c : Nat) :
    t.coreState c = s.coreState c := State.fget_congr h.regs _

/-- A command that completes as it is issued lets its core go on. -/
theorem State.Fetches.wentOn {s s1 t : State} {c opc : Nat} {w : CmdWord} (h : s.Fetches c opc s1 w)
    (hOpc : opc ≠ 0x40) (hEnd : (s1.issueNext c w).Completed t c (s.coreRec c).seq) : s.WentOn t c := by
  obtain ⟨_, _, hRec⟩ := h.rec
  obtain ⟨_, _, hDone⟩ := hEnd.record
  rw [hRec] at hDone
  refine ⟨?_, ?_, ?_, (hEnd.coreState c).trans h.state.1⟩ <;> rw [hDone]
  · rw [h.cmdBytes hOpc]
  · simp

/-- What `s.Fetches` says of the record with which the command is carried out. -/
theorem State.Fetches.open {s s1 : State} {c opc : Nat} {w : CmdWord} (h : s.Fetches c opc s1 w) :
    ((s1.issueNext c w).coreRec c).block = .none ∧ ((s1.issueNext c w).coreRec c).ending = none := by
  obtain ⟨_, _, hRec⟩ := h.rec
  rw [hRec]
  exact ⟨rfl, h.2.1⟩

theorem State.Fetches.completed {s s1 : State} {c opc : Nat} {w : CmdWord} (h : s.Fetches c opc s1 w)
    (st rs nf : Nat) : (s1.issueNext c w).Completed ((s1.issueNext c w).completeRaw c (s.coreRec c).seq st rs nf) c
      (s.coreRec c).seq :=
  State.completeRaw_completed (by rw [h.open.1]; exact Block.noConfusion) h.open.2 ..

theorem State.Fetches.completed_only {s s1 : State} {c opc : Nat} {w : CmdWord} (h : s.Fetches c opc s1 w)
    (st rs nf : Nat) : State.Only [.core] s1 ((s1.issueNext c w).completeRaw c (s.coreRec c).seq st rs nf) :=
  (State.issueNext_only ..).trans (h.completed st rs nf).only

/-- The counters are those before the fetch. -/
theorem State.Fetches.cnt {s s1 : State} {c opc : Nat} {w : CmdWord} (h : s.Fetches c opc s1 w) (d : Nat) {n : Nat}
    (hn : n < 1024) : s1.cnt d n = s.cnt d n := by
  refine (h.read.1.fields _ (cnt_ecc d n hn)).trans ?_
  unfold State.arrived
  split
  · exact (State.setCoreState_kept _ _ _) _ (cnt_apart d n hn)
  · rfl

theorem State.Fetches.nop {s s1 : State} {c : CoreId} {w : CmdWord} (h : s.Fetches c 0x00 s1 w)
    (hZero : reservedZero w [(0, 8)] = true) :
    exec (.nop c) s = .next ((s1.issueNext c w).completeRaw c (s.coreRec c).seq stOK 0 0) := by
  show Host.Outcome.next (s.issue c 0x00 _) = _
  rw [h.issue]
  exact congrArg _ (State.refuseOr_passes (pick_all_false (by simp [resv_passes hZero])) _)

/-- The conditions on a range whose pick is none all fail: each has a reason code of a class. -/
theorem State.rangeConds_false {s : State} {die off len : Nat} (h : pick (s.rangeConds die off len) = none) :
    ∀ x ∈ s.rangeConds die off len, x.1 = false := fun x hx =>
  pick_none h hx (by
    unfold State.rangeConds at hx
    simp only [List.mem_cons, List.not_mem_nil, or_false] at hx
    obtain rfl | rfl | rfl | rfl | rfl := hx <;> simp)

/-- The core's fetch goes on at `addr`, its buffer empty, and it waits for the first word from there. -/
def State.chained (s : State) (c addr : Nat) : State :=
  (s.setCoreRec c { s.coreRec c with pc := addr, buf := [], block := .fetch }).setCoreState c csSTALL

theorem State.Fetches.chain {s s1 : State} {c : CoreId} {w : CmdWord} (h : s.Fetches c 0x02 s1 w)
    (hZero : reservedZero w [(0, 8), (64, 40)] = true) (hAlign : fld w 64 40 % 64 = 0)
    (hRange : pick (s1.rangeConds (dieOf c) (fld w 64 40) 64) = none) :
    exec (.chain c) s = .next (((s1.issueNext c w).chained c (fld w 64 40)).completeRaw c (s.coreRec c).seq
      stOK 0 0) := by
  show Host.Outcome.next (s.issue c 0x02 _) = _
  rw [h.issue]
  refine congrArg _ (State.refuseOr_passes (pick_all_false fun x hx => ?_) _)
  obtain hx | hx := List.mem_append.mp hx
  · obtain rfl | rfl : x = resv w [(0, 8), (64, 40)] ∨ x = (decide (fld w 64 40 % 64 ≠ 0), 0x5406) := by simpa using hx
    · exact resv_passes hZero
    · simpa using hAlign
  · exact State.rangeConds_false hRange x hx

/-- When a WAIT word issued at `clk` expires: never, or its microseconds later (R132). -/
def waitExpiry (w : CmdWord) (clk : Nat) : Option Nat :=
  if fld w 16 16 = 0 then none else some (clk + 1000 * fld w 16 16)

/-- The core waits for the conditions of a WAIT word. -/
def State.waits (s : State) (c : Nat) (w : CmdWord) : State :=
  (s.setCoreRec c { s.coreRec c with block := .wait (waitConds w) (waitExpiry w s.clk) }).setCoreState c csWAIT

/-- The fields of a WAIT word (R133). -/
def waitFields : List (Nat × Nat) :=
  [(0, 10), (16, 16), (64, 10), (96, 32), (128, 10), (160, 32), (192, 10), (224, 32), (256, 10), (288, 32)]

theorem State.Fetches.wait {s s1 : State} {c : CoreId} {w : CmdWord} (h : s.Fetches c 0x03 s1 w)
    (hZero : reservedZero w waitFields = true) :
    exec (.wait c) s = .next (if (s1.issueNext c w).condsHold (dieOf c) (waitConds w) then
      (s1.issueNext c w).completeRaw c (s.coreRec c).seq stOK 0 0 else (s1.issueNext c w).waits c w) := by
  show Host.Outcome.next (s.issue c 0x03 _) = _
  rw [h.issue]
  exact congrArg _ (State.refuseOr_passes (pick_all_false fun x hx => by
    rw [List.mem_singleton.mp hx]
    exact resv_passes hZero) _)

theorem waitConds_counter {w : CmdWord} {p : Nat × Nat} (h : p ∈ waitConds w) : p.1 < 1024 := by
  obtain ⟨i, -, rfl⟩ := List.mem_map.mp h
  exact fld_lt w _ 10

/-- The conditions hold after the issue exactly where the counters before the fetch satisfy them. -/
theorem State.Fetches.condsHold {s s1 : State} {c opc : Nat} {w : CmdWord} (h : s.Fetches c opc s1 w) (d : Nat) :
    (s1.issueNext c w).condsHold d (waitConds w) = (waitConds w).all fun p => satisfied (s.cnt d p.1) p.2 := by
  unfold State.condsHold
  refine Bool.eq_iff_iff.mpr ?_
  rw [List.all_eq_true, List.all_eq_true]
  exact forall₂_congr fun p hp => by rw [← h.cnt d (waitConds_counter hp)]; rfl

/-- Settles O5: NOP and a satisfied WAIT complete at once; CHAIN completes in the stalled core; a WAIT that does not
hold changes the record's block and the core's state. -/
theorem nopChainAndWaitMoveTheCore : Obligations.NopChainAndWaitMoveTheCore := by
  intro c s s1 w
  refine ⟨fun h hZero => ⟨_, h.nop hZero, h.wentOn (by decide) (h.completed ..), h.completed_only ..⟩,
    fun h hZero hAlign hRange => ?_, fun h hZero => ⟨fun hAll => ?_, fun hSome => ?_⟩⟩
  · obtain ⟨_, _, hRec⟩ := h.rec
    have hChained : ((s1.issueNext c w).chained c (fld w 64 40)).coreRec c =
        { (s1.issueNext c w).coreRec c with pc := fld w 64 40, buf := [], block := .fetch } := by
      rw [State.chained, State.coreRec_setCoreState, State.coreRec_setCoreRec]
    have hEnd := State.completeRaw_completed (s := (s1.issueNext c w).chained c (fld w 64 40)) (core := c)
      (by rw [hChained]; exact Block.noConfusion) (by rw [hChained]; exact h.open.2) (s.coreRec c).seq stOK 0 0
    obtain ⟨_, _, hDone⟩ := hEnd.record
    rw [hChained, hRec] at hDone
    refine ⟨_, h.chain hZero hAlign hRange, by rw [hDone], by rw [hDone], by rw [hDone], by rw [hDone]; simp,
      (hEnd.coreState c).trans (State.coreState_setCoreState _ _ _ (by decide)), by rw [hDone], ?_, ?_⟩
    · exact (((State.issueNext_only ..).trans (State.setCoreRec_only ..)).mono rfl).trans
        (((State.setCoreState_only ..).mono rfl).trans (hEnd.only.mono rfl))
    · exact (State.setCoreState_regsBut (s1.issueNext c w) c csSTALL).of_eq hEnd.regs
  · refine ⟨_, (h.wait hZero).trans (congrArg _ (if_pos ?_)), h.wentOn (by decide) (h.completed ..),
      h.completed_only ..⟩
    rw [h.condsHold, List.all_eq_true]
    exact hAll
  · obtain ⟨p, hp, hNot⟩ := hSome
    have hClk : (s1.issueNext c w).clk = s.clk := by
      show s1.clk = s.clk
      refine h.read.1.only.2.2.trans ?_
      unfold State.arrived
      split <;> rfl
    have hWaits : ((s1.issueNext c w).waits c w).coreRec c = { (s1.issueNext c w).coreRec c with
        block := .wait (waitConds w) (waitExpiry w s.clk) } := by
      rw [State.waits, State.coreRec_setCoreState, State.coreRec_setCoreRec, hClk]
    refine ⟨_, (h.wait hZero).trans (congrArg _ (if_neg ?_)), h.issued (by decide) (by rw [hWaits])
      (by rw [hWaits]) (by rw [hWaits]), State.coreState_setCoreState _ _ _ (by decide), by rw [hWaits]; rfl, ?_, ?_⟩
    · rw [h.condsHold, List.all_eq_true]
      exact fun hAll => Bool.false_ne_true (hNot.symm.trans (hAll p hp))
    · exact (((State.issueNext_only ..).trans (State.setCoreRec_only ..)).mono rfl).trans
        ((State.setCoreState_only ..).mono rfl)
    · exact State.setCoreState_regsBut (s1.issueNext c w) c csWAIT

end Sys2Proof.Machine

/-! Counters that a core sets or adds to, here and on another die (R128, R133, R134, R140). -/

namespace Sys2Proof.Machine

/-! Registers that a fetch and a completion leave alone. -/

/-- Registers that a fetch leaves alone: no memory counts errors or reads in them, and they hold no core states. -/
def FetchApart (q : FRef) : Prop := eccApart q ∧ coreApart q

theorem fetchApart_hive {q : FRef} (h : q.off < 0x1000000) : FetchApart q := by
  refine ⟨⟨fun d e => ?_, fun d e => ?_, fun d c _ e => ?_⟩, fun d i _ e => ?_⟩ <;> rw [e] at h
  · unfold Reg.WRK_SRAM_ECC at h; omega
  · unfold Reg.WCB_FWD at h; omega
  · unfold Reg.MEM_CH_STAT at h; omega
  · unfold Reg.WRK_CORE_STATE at h; omega

theorem fetchApart_die {q : FRef} {o d : Nat} (h : q.off = 0x1000000 + o + 0x200000 * d)
    (ho : o < 0x26000 ∨ 0x30300 ≤ o ∧ o ≠ 0x30308 ∧ o < 0x200000) : FetchApart q := by
  refine ⟨⟨fun d e => ?_, fun d e => ?_, fun d c _ e => ?_⟩, fun d i _ e => ?_⟩ <;> rw [e] at h
  · unfold Reg.WRK_SRAM_ECC at h; omega
  · unfold Reg.WCB_FWD at h; omega
  · unfold Reg.MEM_CH_STAT at h; omega
  · unfold Reg.WRK_CORE_STATE at h; omega

theorem State.Fetches.fget {s s1 : State} {c opc : Nat} {w : CmdWord} (h : s.Fetches c opc s1 w) {q : FRef}
    (hq : FetchApart q) : s1.fget q = s.fget q := by
  refine (h.read.1.fields q hq.1).trans ?_
  unfold State.arrived
  split
  · exact (State.setCoreState_kept _ _ _) q hq.2
  · rfl

theorem State.RegsBut.trans {l : List Nat} {s t u : State} (h : State.RegsBut l s t) (k : State.RegsBut l t u) :
    State.RegsBut l s u := fun o ho => (k o ho).trans (h o ho)

theorem State.RegsBut.mono {l m : List Nat} {s t : State} (h : State.RegsBut l s t) (i : l ⊆ m) :
    State.RegsBut m s t := fun o ho => h o fun k => ho (i k)

theorem State.kernelTryEnd_regsBut (s : State) (core : Nat) :
    State.RegsBut [Reg.WRK_CORE_STATE (dieOf core) (core % 256 / 8)] s (s.kernelTryEnd core) := by
  have hEnd : ∀ x : State, x.regs = s.regs → State.RegsBut [Reg.WRK_CORE_STATE (dieOf core) (core % 256 / 8)] s
      (if (x.setCoreRec core {}).coreState core = csHALT ∨ (x.setCoreRec core {}).coreState core = csFENCED then
        x.setCoreRec core {} else (x.setCoreRec core {}).setCoreState core csIDLE) := fun x hx =>
    have hRec := (State.RegsBut.rfl' [Reg.WRK_CORE_STATE (dieOf core) (core % 256 / 8)] s).of_eq
      ((State.setCoreRec_regs x core {}).trans hx)
    .ite (fun _ => hRec) fun _ => hRec.trans (State.setCoreState_regsBut _ _ _)
  unfold State.kernelTryEnd
  dsimp only
  refine .ite (fun _ => ?_) fun _ => .rfl' _ s
  apply hEnd
  split <;> rfl

theorem State.completeRaw_regsBut (s : State) (core seq st rs nf : Nat) :
    State.RegsBut [Reg.WRK_CORE_STATE (dieOf core) (core % 256 / 8)] s (s.completeRaw core seq st rs nf) := by
  unfold State.completeRaw
  dsimp only
  exact .ite (fun _ => ((State.RegsBut.rfl' _ s).of_eq rfl).trans (State.kernelTryEnd_regsBut _ _)) fun _ => .rfl' _ s

/-- The registers of a die's core states. -/
def dieCoreStates (die : Nat) : List Nat := (List.range 32).map (Reg.WRK_CORE_STATE die)

theorem coreState_mem (core : Nat) :
    Reg.WRK_CORE_STATE (dieOf core) (core % 256 / 8) ∈ dieCoreStates (dieOf core) :=
  List.mem_map_of_mem (List.mem_range.mpr (by omega))

theorem State.wakeCore_regsBut (s : State) (core : Nat) :
    State.RegsBut (dieCoreStates (dieOf core)) s (s.wakeCore core) := by
  unfold State.wakeCore
  dsimp only
  split
  · refine .ite (fun _ => ?_) fun _ => .rfl' _ s
    exact (((State.setCoreState_regsBut (s.setCoreRec core _) core csRUN).of_eq rfl).trans
      (State.completeRaw_regsBut _ _ _ _ _ _)).mono (List.cons_subset.mpr ⟨coreState_mem core, List.nil_subset _⟩)
  · exact .rfl' _ s

/-- A counter of a die wakes cores of that die. -/
theorem State.wakeDie_regsBut (s : State) (die : Nat) : State.RegsBut (dieCoreStates die) s (s.wakeDie die) :=
  foldl_keeps (P := State.RegsBut (dieCoreStates die) s) (fun _ e h => by
    split
    · rename_i hDie
      exact h.trans (hDie ▸ State.wakeCore_regsBut _ e.1)
    · exact h) (.rfl' _ s)

/-! Counters set. -/

theorem State.cntAdd_eq (s : State) (d n v : Nat) : s.cntAdd d n v = s.cntSet d n (s.cnt d n + v) := rfl

theorem State.cntSet_coreKept {s : State} {c : Nat} (h : (s.coreRec c).block = .none) {n : Nat} (hn : n < 1024)
    (d v : Nat) : State.CoreKept c s (s.cntSet d n v) := by
  have hSet : State.CoreKept c s (s.fset (RF.WRK_CNT_VALUE d n) v) := by
    refine ⟨rfl, State.fget_fset_ne _ _ _ _ (Or.inl fun e => ?_)⟩
    have e : Reg.WRK_CORE_STATE (c / 256) (c % 256 / 8) = Reg.WRK_CNT d n := e
    unfold Reg.WRK_CORE_STATE Reg.WRK_CNT at e
    omega
  refine foldl_keeps (P := State.CoreKept c s) (fun x e hx => ite_keeps (hx.trans (State.wakeCore_coreKept ?_ _)) hx)
    hSet
  rw [hx.1, h]

theorem State.cnt_cntSet (s : State) {n m : Nat} (hn : n < 1024) (hm : m < 1024) (d e v : Nat) :
    (s.cntSet d n v).cnt e m = if e = d ∧ m = n then v % 2 ^ 32 else s.cnt e m := by
  split
  · rename_i hSame
    obtain ⟨rfl, rfl⟩ := hSame
    exact State.cnt_set _ _ _ _ hn
  · rename_i hNot
    refine (State.wakeDie_kept _ _ _ (cnt_apart e m hm)).trans (State.fget_fset_ne _ _ _ _ (cnt_apart_ne hm hn ?_))
    exact fun k => hNot (Prod.mk.inj k)

theorem State.cntSet_only (s : State) (d n v : Nat) : State.Only [.regs, .core, .host] s (s.cntSet d n v) :=
  only_of_keeps fun _ K h => State.cntSet_keeps K _ _ _ h

theorem State.cntSet_regsBut (s : State) (d n v : Nat) :
    State.RegsBut (Reg.WRK_CNT d n :: dieCoreStates d) s (s.cntSet d n v) :=
  ((State.RegsBut.rfl' _ s).fset (r := RF.WRK_CNT_VALUE d n) List.mem_cons_self).trans
    ((State.wakeDie_regsBut _ d).mono (List.subset_cons_self _ _))

/-- A command that completes as it is issued and then moves a counter of its die to `v`. -/
theorem State.Fetches.cntSet {s s1 : State} {c opc : Nat} {w : CmdWord} (h : s.Fetches c opc s1 w) (hOpc : opc ≠ 0x40)
    {n v : Nat} (hn : n < 1024) {t : State}
    (ht : t = ((s1.issueNext c w).completeOK c (s.coreRec c).seq).cntSet (dieOf c) n v) : s.WentOn t c ∧
      (∀ d < 8, ∀ m < 1024, t.cnt d m = if d = dieOf c ∧ m = n then v % 2 ^ 32 else s.cnt d m) ∧
      State.Only [.regs, .core, .host] s1 t ∧
      State.RegsBut (Reg.WRK_CNT (dieOf c) n :: (List.range 32).map (Reg.WRK_CORE_STATE (dieOf c))) s1 t := by
  have hEnd := h.completed stOK 0 0
  obtain ⟨_, _, hDone⟩ := hEnd.record
  obtain ⟨hRec, hState⟩ := State.cntSet_coreKept (s := (s1.issueNext c w).completeOK c (s.coreRec c).seq) (c := c)
    (by rw [State.completeOK, hDone]; exact h.open.1) hn (dieOf c) v
  subst ht
  refine ⟨?_, fun d _ m hm => ?_, ((h.completed_only ..).mono rfl).trans (State.cntSet_only ..), ?_⟩
  · unfold State.WentOn
    rw [hRec, hState]
    exact h.wentOn hOpc hEnd
  · rw [State.cnt_cntSet _ hn hm, ← h.cnt d hm]
    exact ite_congr rfl (fun _ => rfl) fun _ => State.fget_congr hEnd.regs _
  · exact ((State.RegsBut.rfl' _ s1).of_eq hEnd.regs).trans (State.cntSet_regsBut _ _ _ _)

theorem State.Fetches.cset {s s1 : State} {c : CoreId} {w : CmdWord} (h : s.Fetches c 0x05 s1 w)
    (hZero : reservedZero w [(0, 8), (16, 10), (32, 32)] = true) : exec (.cset c) s =
      .next (((s1.issueNext c w).completeOK c (s.coreRec c).seq).cntSet (dieOf c) (fld w 16 10) (fld w 32 32)) := by
  show Host.Outcome.next (s.issue c 0x05 _) = _
  rw [h.issue]
  exact congrArg _ (State.refuseOr_passes (pick_all_false (by simp [resv_passes hZero])) _)

/-! Signals. -/

/-- The fields of a SIG word (R133). -/
def sigFields : List (Nat × Nat) := [(0, 10), (16, 10), (32, 32), (64, 16)]

/-- The signal itself is no copy, so it waits for the copies issued before it alone. -/
theorem State.Fetches.copyBefore {s s1 : State} {c : Nat} {w : CmdWord} (h : s.Fetches c 0x04 s1 w) (q : Nat) :
    ((s1.issueNext c w).coreRec c).copyBefore q = (s.coreRec c).copyBefore q := by
  obtain ⟨_, _, hRec⟩ := h.rec
  rw [hRec]
  simp [CoreRec.copyBefore]

/-- A fenced SIG joins the signals that wait for earlier copies; any other acts. -/
theorem State.Fetches.sig {s s1 : State} {c : CoreId} {w : CmdWord} (h : s.Fetches c 0x04 s1 w)
    (hZero : reservedZero w sigFields = true) (hDie : bit w 9 = true → fld w 76 4 < 8) : exec (.sig c) s =
      .next (if (bit w 8 && (s.coreRec c).copyBefore (s.coreRec c).seq) = true then
        (s1.issueNext c w).setCoreRec c { (s1.issueNext c w).coreRec c with
          sigs := ((s1.issueNext c w).coreRec c).sigs ++ [((s.coreRec c).seq, w)] }
        else (s1.issueNext c w).sigAct c (s.coreRec c).seq w) := by
  show Host.Outcome.next (s.issue c 0x04 _) = _
  rw [h.issue, ← h.copyBefore]
  refine congrArg _ (State.refuseOr_passes (pick_all_false fun x hx => ?_) _)
  obtain rfl | rfl : x = resv w sigFields ∨ x = (bit w 9 && decide (8 ≤ fld w 76 4), 0x5703) := by
    simpa [sigFields] using hx
  · exact resv_passes hZero
  · simpa using hDie

theorem State.Fetches.ctx {s s1 : State} {c opc : Nat} {w : CmdWord} (h : s.Fetches c opc s1 w) :
    ((s1.issueNext c w).coreRec c).ctx = (s.coreRec c).ctx := by
  obtain ⟨_, _, hRec⟩ := h.rec
  rw [hRec]

/-- The die's placement is the one before the fetch. -/
theorem State.Fetches.staleCore {s s1 : State} {c opc : Nat} {w : CmdWord} (h : s.Fetches c opc s1 w) (x : Ctx) :
    (s1.issueNext c w).staleCore c x = s.staleCore c x := by
  have hJob : (s1.issueNext c w).dieJob (dieOf c) = s.dieJob (dieOf c) :=
    h.fget (fetchApart_die (o := 0x24000) rfl (by decide))
  have hPgen : (s1.issueNext c w).diePgen (dieOf c) = s.diePgen (dieOf c) :=
    h.fget (fetchApart_die (o := 0x24000) rfl (by decide))
  unfold State.staleCore
  rw [hJob, hPgen]

/-- A transfer of few cells, none of a swarm segment, goes out whole under the target's free id. -/
theorem State.xferStart_free {s : State} {tgt id : Nat} (h : s.freeId tgt = some id) {x : Xfer}
    (hFirst : ∀ y : Xfer, y.owner = x.owner → y.first = y.cells ∧ y.latency = false) :
    s.xferStart tgt x = ({ s with fab := { s.fab with
        xfers := s.fab.xfers.put (xKey tgt id)
          { x with cells := x.cells.map (withId x.keep id), restart := false } } } : State).emits
        ((x.cells.map (withId x.keep id)).map Out.cell) := by
  unfold State.xferStart
  rw [h]
  show State.xferUnder _ _ _ _ = _
  unfold State.xferUnder
  dsimp only
  obtain ⟨hAll, hNot⟩ := hFirst { x with cells := x.cells.map (withId x.keep id), restart := false } rfl
  rw [hAll]
  unfold State.latJoin
  rw [hNot]
  rfl

/-- A completion that is not OK is kept with its status, where no earlier command's stands already. -/
theorem State.completeRaw_bad {s : State} {core seq st rs : Nat} (hBlock : (s.coreRec core).block = .none)
    (hEnding : (s.coreRec core).ending = none) (hReset : (s.coreRec core).resetting = false)
    (hOut : (s.coreRec core).outst.any (fun o => o.1 == seq) = true) (hSt : st ≠ stOK) (nf : Nat) :
    ∃ q, ((s.completeRaw core seq st rs nf).coreRec core).bad = some q ∧
      ((s.coreRec core).bad = none → q = (seq, st, rs)) := by
  have hRuns : ∀ r : CoreRec, r.block = .none → r.ending = none →
      ((s.setCoreRec core r).kernelTryEnd core).coreRec core = r := fun r hb he => by
    unfold State.kernelTryEnd
    dsimp only
    rw [if_neg (by rw [State.coreRec_setCoreRec, hb, he]; simp), State.coreRec_setCoreRec]
  unfold State.completeRaw
  dsimp only
  rw [if_pos hOut, if_neg (by rw [hReset]; decide), hRuns _ (by exact hBlock) (by exact hEnding),
    if_neg (fun k : st = stOK ∧ _ => hSt k.1), if_neg hSt]
  dsimp only
  cases (s.coreRec core).bad with
  | none => exact ⟨_, rfl, fun _ => rfl⟩
  | some q => exact ⟨if seq < q.1 then (seq, st, rs) else q, by dsimp only; split <;> rfl, fun k => nomatch k⟩

/-- A remote signal of a placement that is no longer the die's is counted, and completes STALE. -/
theorem State.Fetches.stale {s s1 : State} {c : Nat} {w : CmdWord} (h : s.Fetches c 0x04 s1 w)
    (hReset : (s.coreRec c).resetting = false) {t : State} (ht : t = ((s1.issueNext c w).countStale
      (dieOf c)).completeRaw c (s.coreRec c).seq stSTALE 0 0) : s.WentOn t c ∧
      (∃ q, (t.coreRec c).bad = some q ∧ ((s.coreRec c).bad = none → q = ((s.coreRec c).seq, stSTALE, 0))) ∧
      t.fget (RF.WRK_CE_STAT_STALE_CNT (dieOf c)) = satAdd 32 (s.fget (RF.WRK_CE_STAT_STALE_CNT (dieOf c))) 1 ∧
      State.Only [.regs, .core] s1 t ∧ State.RegsBut [Reg.WRK_CE_STAT (dieOf c)] s1 t := by
  obtain ⟨_, _, hRec⟩ := h.rec
  have hSame : ((s1.issueNext c w).countStale (dieOf c)).coreRec c = (s1.issueNext c w).coreRec c := rfl
  have hEnd := State.completeRaw_completed (s := (s1.issueNext c w).countStale (dieOf c)) (core := c)
    (by rw [hSame, h.open.1]; exact Block.noConfusion) h.open.2 (s.coreRec c).seq stSTALE 0 0
  obtain ⟨q, hBad, hFirst⟩ := State.completeRaw_bad (s := (s1.issueNext c w).countStale (dieOf c)) (core := c)
    (seq := (s.coreRec c).seq) (st := stSTALE) (rs := 0) h.open.1 h.open.2 (by rw [hSame, hRec]; exact hReset)
    (by rw [hSame, hRec]; simp) (by decide) 0
  obtain ⟨_, _, hDone⟩ := hEnd.record
  rw [hSame, hRec] at hDone hFirst
  subst ht
  refine ⟨⟨?_, ?_, ?_, ?_⟩, ⟨q, hBad, hFirst⟩, ?_, ?_, ?_⟩
  · rw [hDone, h.cmdBytes (by decide)]
  · rw [hDone]
  · rw [hDone]
    simp
  · refine (hEnd.coreState c).trans (Eq.trans (State.fget_fset_ne _ _ _ _ (Or.inl fun e => ?_)) h.state.1)
    have e : Reg.WRK_CORE_STATE (c / 256) (c % 256 / 8) = Reg.WRK_CE_STAT (dieOf c) := e
    unfold Reg.WRK_CORE_STATE Reg.WRK_CE_STAT at e
    omega
  · rw [State.fget_congr hEnd.regs, State.countStale, State.fget_finc _ _ _ (show 16 + 32 ≤ 64 by decide),
      ← h.fget (fetchApart_die (o := 0x30310) rfl (by decide))]
    rfl
  · exact ((State.issueNext_only s1 c w).mono rfl).trans ((only_of_keeps fun _ K k =>
      State.finc_keeps (K.mono rfl) _ _ k).trans (hEnd.only.mono rfl))
  · exact ((State.RegsBut.rfl' _ s1).finc (r := RF.WRK_CE_STAT_STALE_CNT (dieOf c)) List.mem_cons_self).of_eq hEnd.regs

/-- Settles O6: a counter set, a counter added to, the signals held back, and a remote signal's one cell or its
refusal as STALE. -/
theorem csetAndSigMoveOneCounter : Obligations.CsetAndSigMoveOneCounter := by
  intro c s s1 w
  have hActs : ∀ {b : Bool}, bit w 8 = false ∨ b = false → ¬(bit w 8 && b) = true := fun h => by
    obtain h | h := h <;> simp [h]
  refine ⟨fun h hZero => ?_, fun h hZero hHere hFree => ?_, fun h hZero hDie => ⟨fun hHeld => ?_,
    fun hFree hThere => ⟨fun hNow id hId => ?_, fun hStale hReset => ?_⟩⟩⟩
  · have hSet := h.cntSet (by decide) (fld_lt w 16 10) (v := fld w 32 32) rfl
    rw [Nat.mod_eq_of_lt (fld_lt w 32 32)] at hSet
    exact ⟨_, h.cset hZero, hSet⟩
  · have hCnt : ((s1.issueNext c w).completeOK c (s.coreRec c).seq).cnt (dieOf c) (fld w 16 10) =
        s.cnt (dieOf c) (fld w 16 10) :=
      (State.fget_congr (h.completed stOK 0 0).regs _).trans (h.cnt (dieOf c) (fld_lt w 16 10))
    obtain ⟨hWent, hCnts, hOnly, hRegs⟩ := h.cntSet (by decide) (fld_lt w 16 10)
      (v := s.cnt (dieOf c) (fld w 16 10) + fld w 32 32) rfl
    refine ⟨_, (h.sig hZero (by simp [hHere])).trans (congrArg _ ((if_neg (hActs hFree)).trans ?_)), hWent,
      fun d hd n hn => (hCnts d hd n hn).trans ?_, hOnly, hRegs⟩
    · rw [State.sigAct, if_neg (by simp [hHere]), State.cntAdd_eq, hCnt]
    · exact ite_congr rfl (fun k => by rw [k.1, k.2]) fun _ => rfl
  · refine ⟨_, (h.sig hZero hDie).trans (congrArg _ (if_pos (by simp [hHeld]))), h.issued (by decide) ?_ ?_ ?_, ?_,
      (State.issueNext_only ..).trans (State.setCoreRec_only ..)⟩
    all_goals rw [State.coreRec_setCoreRec]
    obtain ⟨_, _, hRec⟩ := h.rec
    rw [hRec]
  · have hSend := State.xferStart_free (s := s1.issueNext c w) (tgt := dieOf c) hId
      (x := { owner := .cmd c (s.coreRec c).seq, cells := [mkCell (fld w 64 12) (fld w 76 4) s.module (dieOf c) 2 s.gen
        (s.coreRec c).ctx.job false true 12 0 0 (addrPay (cntOff (fld w 16 10)) (s.coreRec c).ctx.pgen
          (leBytes 4 (fld w 32 32)))] }) fun y hy => by rw [Xfer.first, Xfer.latency, hy]; exact ⟨rfl, rfl⟩
    have hModule : (s1.issueNext c w).module = s.module := h.fget (fetchApart_hive (by decide))
    have hGen : (s1.issueNext c w).gen = s.gen := h.fget (fetchApart_hive (by decide))
    refine ⟨_, (h.sig hZero hDie).trans (congrArg _ ((if_neg (hActs hFree)).trans (Eq.trans ?_ hSend))),
      h.issued (by decide) rfl rfl rfl, rfl, ?_⟩
    · rw [State.sigAct, if_pos hThere, h.ctx, h.staleCore, hNow, if_neg (by decide), State.sendAdd, hModule, hGen]
    · exact only_of_keeps fun _ K k => K.outs (by decide) _ (K.fab (by decide) _
        (State.issueNext_keeps (K.mono rfl) _ _ k))
  · refine ⟨_, (h.sig hZero hDie).trans (congrArg _ ((if_neg (hActs hFree)).trans ?_)), h.stale hReset rfl⟩
    rw [State.sigAct, if_pos hThere, h.ctx, h.staleCore, hStale, if_pos rfl]

end Sys2Proof.Machine

/-! Kernels that end (R119, R120, R364, R365), by END and by the timeout of a WAIT (R132), and the resumption of a
stalled core (R117). -/

namespace Sys2Proof.Machine

/-- The launch of a core hears that its kernel there has ended: `launch` names it among the descriptors (R364). -/
def kernelHeard (ds : List Desc) (launch : Option (Nat × Nat)) (core st rs nf : Nat) : List Desc :=
  match launch with
  | none => ds
  | some (ring, tag) => ds.map fun d =>
      if d.ring = ring ∧ d.tag = tag ∧ core ∈ d.cores then d.kernelDone core st rs nf else d

/-- What the end of a core's kernel leaves. -/
structure State.Ended (s t : State) (core st rs : Nat) : Prop where
  record : t.coreRec core = {}
  state : t.coreState core =
    if s.coreState core = csHALT ∨ s.coreState core = csFENCED then s.coreState core else csIDLE
  descs : t.host.descs = kernelHeard s.host.descs (s.coreRec core).launch core st rs (s.coreRec core).nflags
  only : State.Only [.regs, .core, .host] s t
  regs : State.RegsBut [Reg.WRK_CORE_STATE (dieOf core) (core % 256 / 8)] s t

/-- Status and reason with which a kernel ends: those of the stop, else of the earliest command that did not complete
OK (R120). -/
def CoreRec.verdict (r : CoreRec) : Nat × Nat :=
  match r.ending, r.bad with
  | some e, _ => (e, 0)
  | none, some (_, st, rs) => (st, rs)
  | none, none => (stOK, 0)

/-- A kernel that has come to its end, with nothing outstanding, ends. -/
theorem State.kernelTryEnd_ended {s : State} {core : Nat}
    (hFin : (s.coreRec core).block = .ended ∨ (s.coreRec core).ending ≠ none) (hOut : (s.coreRec core).outst = [])
    (hReset : (s.coreRec core).resetting = false) :
    s.Ended (s.kernelTryEnd core) core (s.coreRec core).verdict.1 (s.coreRec core).verdict.2 := by
  have hKeeps : State.Only [.regs, .core, .host] s (s.kernelTryEnd core) :=
    only_of_keeps fun _ K k => State.kernelTryEnd_keeps K _ k
  have hRegs := s.kernelTryEnd_regsBut core
  have hEnd : ∀ x : State, x.regs = s.regs → x.host.descs = kernelHeard s.host.descs (s.coreRec core).launch core
      (s.coreRec core).verdict.1 (s.coreRec core).verdict.2 (s.coreRec core).nflags →
      s.kernelTryEnd core = (if (x.setCoreRec core {}).coreState core = csHALT ∨
        (x.setCoreRec core {}).coreState core = csFENCED then x.setCoreRec core {}
        else (x.setCoreRec core {}).setCoreState core csIDLE) →
      s.Ended (s.kernelTryEnd core) core (s.coreRec core).verdict.1 (s.coreRec core).verdict.2 := by
    intro x hx hDescs hEq
    have hState : (x.setCoreRec core {}).coreState core = s.coreState core :=
      State.fget_congr ((State.setCoreRec_regs x core {}).trans hx) _
    rw [hState] at hEq
    refine ⟨?_, ?_, ?_, hKeeps, hRegs⟩ <;> rw [hEq] <;> split
    · exact State.coreRec_setCoreRec ..
    · rw [State.coreRec_setCoreState, State.coreRec_setCoreRec]
    · exact hState
    · exact State.coreState_setCoreState _ _ _ (by decide)
    · exact hDescs
    · exact hDescs
  have hIf : ((s.coreRec core).block = .ended ∨ (s.coreRec core).ending ≠ none) ∧ (s.coreRec core).outst = [] ∧
      (!(s.coreRec core).resetting) = true := ⟨hFin, hOut, by rw [hReset]; rfl⟩
  cases hLaunch : (s.coreRec core).launch with
  | none =>
    refine hEnd s rfl (by rw [hLaunch]; rfl) ?_
    unfold State.kernelTryEnd
    dsimp only
    rw [if_pos hIf, hLaunch]
  | some l =>
    refine hEnd (s.mapDescs fun d => if d.ring = l.1 ∧ d.tag = l.2 ∧ core ∈ d.cores then
      d.kernelDone core (s.coreRec core).verdict.1 (s.coreRec core).verdict.2 (s.coreRec core).nflags else d) rfl
      (by rw [hLaunch]; rfl) ?_
    unfold State.kernelTryEnd
    dsimp only
    rw [if_pos hIf, hLaunch]
    rfl

theorem State.arrived_eng (s : State) (core : Nat) : (s.arrived core).eng = s.eng := by
  unfold State.arrived
  split <;> rfl

theorem State.arrived_host (s : State) (core : Nat) : (s.arrived core).host = s.host := by
  unfold State.arrived
  split <;> rfl

/-- A command that completes OK in a kernel that runs on, of a core whose cluster is not folded, leaves the issued
commands and nothing else. -/
theorem State.completeOK_eq {s : State} {core seq : Nat} (hBlock : (s.coreRec core).block = .none)
    (hEnding : (s.coreRec core).ending = none) (hReset : (s.coreRec core).resetting = false)
    (hFolded : s.clFolded core = false) (hOut : (s.coreRec core).outst.any (fun o => o.1 == seq) = true) :
    s.completeOK core seq = s.setCoreRec core { s.coreRec core with
      outst := (s.coreRec core).outst.filter (fun o => o.1 != seq) } := by
  have hRuns : ∀ r : CoreRec, r.block = .none → r.ending = none →
      (s.setCoreRec core r).kernelTryEnd core = s.setCoreRec core r := fun r hb he => by
    unfold State.kernelTryEnd
    dsimp only
    rw [if_neg (by rw [State.coreRec_setCoreRec, hb, he]; simp)]
  have hFlags : Nat.lor (s.coreRec core).nflags 0 = (s.coreRec core).nflags := Nat.or_zero _
  unfold State.completeOK State.completeRaw
  dsimp only
  rw [if_pos hOut, if_neg (by rw [hReset]; decide), hRuns _ (by exact hBlock) (by exact hEnding),
    if_neg (show ¬(stOK = stOK ∧ s.clFolded core = true) by rw [hFolded]; simp), if_pos rfl, hFlags]

theorem State.Fetches.endK {s s1 : State} {c : CoreId} {w : CmdWord} (h : s.Fetches c 0x01 s1 w)
    (hZero : reservedZero w [(0, 8)] = true) : exec (.endK c) s =
      .next (((s1.issueNext c w).completeOK c (s.coreRec c).seq).endKernel c) := by
  show Host.Outcome.next (s.issue c 0x01 _) = _
  rw [h.issue]
  exact congrArg (fun x : State => Host.Outcome.next (x.endKernel c))
    (State.refuseOr_passes (pick_all_false (by simp [resv_passes hZero])) _)

/-- Settles O7: the END completes, and with nothing else outstanding its kernel ends. -/
theorem endCompletesTheKernel : Obligations.EndCompletesTheKernel := by
  intro c s s1 w h hZero hNone hReset hFolded
  obtain ⟨l, e, hRec⟩ := h.rec
  have hEng : (s1.issueNext c w).eng = s.eng := (h.read.1.only.1 .eng (by decide)).trans (State.arrived_eng s c)
  have hDone := State.completeOK_eq (s := s1.issueNext c w) (core := c) (seq := (s.coreRec c).seq) h.open.1 h.open.2
    (by rw [hRec]; exact hReset) (by rw [State.clFolded, hEng]; exact hFolded) (by rw [hRec]; simp)
  have hHost : s1.host = s.host := (h.read.1.only.1 .host (by decide)).trans (State.arrived_host s c)
  let u : State := ((s1.issueNext c w).completeOK c (s.coreRec c).seq).setCoreRec c
    { ((s1.issueNext c w).completeOK c (s.coreRec c).seq).coreRec c with block := .ended }
  have hu : u.coreRec c = { s.coreRec c with
      pc := (s.coreRec c).pc + cmdBytes w, seq := (s.coreRec c).seq + 1, block := .ended, buf := l, ext := e,
      outst := [] } := by
    rw [State.coreRec_setCoreRec, hDone, State.coreRec_setCoreRec, hRec, hNone]
    simp
  have huHost : u.host = s.host :=
    (State.setCoreRec_host ..).trans (((h.completed stOK 0 0).only.1 .host (by decide)).trans hHost)
  have huRegs : u.regs = s1.regs := (State.setCoreRec_regs ..).trans (h.completed stOK 0 0).regs
  have hEnd : u.Ended (((s1.issueNext c w).completeOK c (s.coreRec c).seq).endKernel c) c (u.coreRec c).verdict.1
      (u.coreRec c).verdict.2 :=
    State.kernelTryEnd_ended (.inl (by rw [hu])) (by rw [hu]) (by rw [hu]; exact hReset)
  have hRun : u.coreState c = csRUN := (State.fget_congr huRegs _).trans h.state.1
  refine ⟨_, h.endK hZero, hEnd.state.trans ?_, hEnd.record, hEnd.descs.trans ?_, ?_, fun o ho => ?_⟩
  · rw [hRun]
    decide
  · rw [huHost, hu]
    cases hLaunch : (s.coreRec c).launch with
    | none => rfl
    | some x =>
      refine List.map_congr_left fun d _ => ite_congr rfl (fun _ => ?_) fun _ => rfl
      show d.kernelDone c (CoreRec.verdict _).1 (CoreRec.verdict _).2 _ = _
      rw [CoreRec.verdict, h.2.1]
      cases (s.coreRec c).bad <;> rfl
  · exact ((h.completed_only ..).mono rfl).trans (((State.setCoreRec_only ..).mono rfl).trans hEnd.only)
  · exact (hEnd.regs o ho).trans (State.reg_congr huRegs o)

end Sys2Proof.Machine

/-! The timeout of a WAIT (R132) and the resumption of a stalled core (R117, R120). -/

namespace Sys2Proof.Machine

/-- A halted core's kernel ends without a change of its state. -/
theorem State.kernelTryEnd_halted {s : State} {core : Nat} (h : s.coreState core = csHALT) :
    (s.kernelTryEnd core).regs = s.regs := by
  have hEnd : ∀ x : State, x.regs = s.regs → (if (x.setCoreRec core {}).coreState core = csHALT ∨
      (x.setCoreRec core {}).coreState core = csFENCED then x.setCoreRec core {}
      else (x.setCoreRec core {}).setCoreState core csIDLE).regs = s.regs := fun x hx => by
    have hState : (x.setCoreRec core {}).coreState core = csHALT :=
      (State.fget_congr ((State.setCoreRec_regs x core {}).trans hx) _).trans h
    rw [if_pos (.inl hState)]
    exact (State.setCoreRec_regs x core {}).trans hx
  unfold State.kernelTryEnd
  dsimp only
  split
  · apply hEnd
    split <;> rfl
  · rfl

theorem State.completeRaw_halted {s : State} {core : Nat} (h : s.coreState core = csHALT) (seq st rs nf : Nat) :
    (s.completeRaw core seq st rs nf).regs = s.regs := by
  unfold State.completeRaw
  dsimp only
  split
  · exact (State.kernelTryEnd_halted (by exact h)).trans (State.setCoreRec_regs ..)
  · rfl

/-- The core has stopped at an expired WAIT, whose first unsatisfied condition is `q`; the WAIT is still to complete. -/
def State.expired (s : State) (c : Nat) (q : Nat × Nat) : State :=
  ((s.dieRec (dieOf c) 0x8201 c 2 (pay [(2, c), (2, q.1), (4, s.cnt (dieOf c) q.1), (4, q.2)])).setCoreRec c
    { s.coreRec c with ending := some stTIMEOUT, block := .none }).setCoreState c csHALT

theorem exec_waitTimeout_expires {c : CoreId} {s : State} {conds : List (Nat × Nat)} {x : Nat}
    (hBlock : (s.coreRec c).block = .wait conds (some x)) (hState : s.coreState c = csWAIT) :
    exec (.waitTimeout c) s = .next ((s.expired c
      ((conds.find? fun q => !satisfied (s.cnt (dieOf c) q.1) q.2).getD (0, 0))).completeRaw c
        ((s.coreRec c).seq - 1) stTIMEOUT 0 0) := by
  show execWaitTimeout c s = _
  unfold execWaitTimeout
  dsimp only
  rw [hBlock]
  exact congrArg _ (if_pos hState)

theorem exec_waitTimeout_idle {c : CoreId} {s : State}
    (h : s.coreState c ≠ csWAIT ∨ ∀ conds x, (s.coreRec c).block ≠ .wait conds (some x)) :
    exec (.waitTimeout c) s = .next s := by
  show execWaitTimeout c s = _
  unfold execWaitTimeout
  dsimp only
  split
  · rename_i hBlock
    exact congrArg _ (if_neg fun k => h.elim (fun hNot => hNot k) fun hNone => hNone _ _ hBlock)
  · rfl

section
variable (s : State) (c : Nat) (q : Nat × Nat)

theorem State.expired_coreRec :
    (s.expired c q).coreRec c = { s.coreRec c with ending := some stTIMEOUT, block := .none } := by
  rw [State.expired, State.coreRec_setCoreState, State.coreRec_setCoreRec]

theorem State.expired_coreState : (s.expired c q).coreState c = csHALT :=
  State.coreState_setCoreState _ _ _ (by decide)

theorem State.expired_only : State.Only [.regs, .core, .log] s (s.expired c q) :=
  only_of_keeps fun _ K h => State.setCoreState_keeps (K.mono rfl) _ _ (State.setCoreRec_keeps (K.mono rfl) _ _
    (State.dieRec_keeps (K.mono rfl) _ _ _ _ _ h))

theorem State.expired_regsBut :
    State.RegsBut [Reg.WRK_CORE_STATE (dieOf c) (c % 256 / 8)] s (s.expired c q) := fun o ho =>
  (State.setCoreState_regsBut _ _ _ o ho).trans
    (State.reg_congr ((State.setCoreRec_regs ..).trans (State.dieRec_regs ..)) o)

theorem State.expired_queued : (s.expired c q).Queued (dieOf c)
    (mkEvent 0x8201 (dieOf c) c 2 (pay [(2, c), (2, q.1), (4, s.cnt (dieOf c) q.1), (4, q.2)])) :=
  State.dieRec_queued s (dieOf c) 0x8201 c (by decide) _

end

/-- A completion of an issued command, before its core's kernel may end. -/
theorem State.completeRaw_listed {s : State} {core seq : Nat}
    (hOut : (s.coreRec core).outst.any (fun o => o.1 == seq) = true) (hReset : (s.coreRec core).resetting = false)
    (st rs nf : Nat) : ∃ bad, s.completeRaw core seq st rs nf = (s.setCoreRec core { s.coreRec core with
      outst := (s.coreRec core).outst.filter (fun o => o.1 != seq), bad := bad,
      nflags := Nat.lor (s.coreRec core).nflags nf }).kernelTryEnd core := by
  unfold State.completeRaw
  dsimp only
  rw [if_pos hOut, if_neg (by rw [hReset]; decide)]
  exact ⟨_, rfl⟩

/-- With nothing else outstanding the expired WAIT is the kernel's last command: the kernel ends TIMEOUT. -/
theorem State.expired_ended {s : State} {c : Nat} (hReset : (s.coreRec c).resetting = false)
    (hOut : (s.coreRec c).outst = [((s.coreRec c).seq - 1, 0x03)]) (q : Nat × Nat) {t : State}
    (ht : t = (s.expired c q).completeRaw c ((s.coreRec c).seq - 1) stTIMEOUT 0 0) : t.coreRec c = {} ∧
      t.host.descs = kernelHeard s.host.descs (s.coreRec c).launch c stTIMEOUT 0 (s.coreRec c).nflags := by
  have hRec := s.expired_coreRec c q
  have hHost : (s.expired c q).host = s.host := (s.expired_only c q).1 .host (by decide)
  obtain ⟨bad, hDone⟩ := State.completeRaw_listed (s := s.expired c q) (core := c) (seq := (s.coreRec c).seq - 1)
    (by rw [hRec, hOut]; simp) (by rw [hRec]; exact hReset) stTIMEOUT 0 0
  rw [hRec, hOut] at hDone
  obtain ⟨hGone, -, hDescs, -, -⟩ := State.kernelTryEnd_ended (s := (s.expired c q).setCoreRec c { s.coreRec c with
      ending := some stTIMEOUT, block := .none, bad := bad, nflags := Nat.lor (s.coreRec c).nflags 0,
      outst := [((s.coreRec c).seq - 1, 0x03)].filter (fun o => o.1 != (s.coreRec c).seq - 1) }) (core := c)
    (.inr (by rw [State.coreRec_setCoreRec]; exact Option.some_ne_none _))
    (by rw [State.coreRec_setCoreRec]; simp) (by rw [State.coreRec_setCoreRec]; exact hReset)
  rw [ht, hDone]
  refine ⟨hGone, hDescs.trans ?_⟩
  rw [State.coreRec_setCoreRec, State.setCoreRec_host, hHost]
  exact congrArg _ (Nat.or_zero _)

theorem exec_coreStallResume_eq (c : CoreId) (s : State) : exec (.coreStallResume c) s =
    .next (if s.coreState c ≠ csSTALL then s
      else if (s.coreRec c).block = Block.fetch then (s.fillBuf c 1).arrived c
      else if s.targetFull (dieOf c) (s.peekWord c) then s
      else (s.setCoreRec c { s.coreRec c with block := .none }).setCoreState c csRUN) := rfl

/-- A buffer filled for one word holds one. -/
theorem State.fillBuf_ne_nil (s : State) (c : Nat) : ((s.fillBuf c 1).coreRec c).buf ≠ [] := by
  unfold State.fillBuf
  dsimp only
  split
  · rename_i h
    exact List.ne_nil_of_length_pos h
  · rename_i h
    have hEmpty : (s.coreRec c).buf.length = 0 := by omega
    have hRun : ∀ n (x : State) die a, (State.fetchRun (n + 1) x die a).2 ≠ [] := fun n x die a => by
      unfold State.fetchRun
      split
      · exact List.cons_ne_nil _ _
      · dsimp only
        split <;> exact List.cons_ne_nil _ _
    rw [State.coreRec_setCoreRec, hEmpty]
    exact List.append_ne_nil_of_right_ne_nil _ (hRun 63 _ _ _)

/-- Settles O9: an expired WAIT halts its core and ends with it; a stalled core goes on where its queue has room or its
words have come. -/
theorem waitTimeoutAndStallResume : Obligations.WaitTimeoutAndStallResume := by
  intro c s
  refine ⟨fun conds x hBlock hState => ?_, exec_waitTimeout_idle, fun hRun => ?_, fun hState hBlock =>
    ⟨fun hFull => ?_, fun hRoom => ?_⟩, fun hState hBlock l hl hGood => ?_⟩
  · have hHalt := s.expired_coreState c ((conds.find? fun q => !satisfied (s.cnt (dieOf c) q.1) q.2).getD (0, 0))
    have hRegs := State.completeRaw_halted hHalt ((s.coreRec c).seq - 1) stTIMEOUT 0 0
    refine ⟨_, exec_waitTimeout_expires hBlock hState, (State.fget_congr hRegs _).trans hHalt, fun q hq => ?_,
      fun hReset hOut => ?_, ?_, (s.expired_regsBut c _).of_eq hRegs⟩
    · obtain ⟨r, hr, hEv⟩ := s.expired_queued c q
      rw [State.completeRaw_log, hq]
      exact List.any_eq_true.mpr ⟨r, List.mem_append.mpr hr, by rw [hEv]; exact beq_self_eq_true _⟩
    · obtain ⟨hGone, hDescs⟩ := State.expired_ended hReset hOut
        ((conds.find? fun q => !satisfied (s.cnt (dieOf c) q.1) q.2).getD (0, 0)) rfl
      refine ⟨hGone, hDescs.trans ?_⟩
      unfold kernelHeard
      cases (s.coreRec c).launch <;> rfl
    · exact ((s.expired_only c _).mono rfl).trans (only_of_keeps fun _ K k =>
        State.completeRaw_keeps (K.mono rfl) _ _ _ _ _ k)
  · rw [exec_coreStallResume_eq, if_pos hRun]
  · rw [exec_coreStallResume_eq, if_neg (not_not.mpr hState), if_neg hBlock, if_pos hFull]
  · rw [exec_coreStallResume_eq, if_neg (not_not.mpr hState), if_neg hBlock, if_neg (by rw [hRoom]; decide)]
    exact ⟨_, rfl, State.coreState_setCoreState _ _ _ (by decide),
      by rw [State.coreRec_setCoreState, State.coreRec_setCoreRec],
      ((State.setCoreRec_only ..).mono rfl).trans ((State.setCoreState_only ..).mono rfl),
      State.setCoreState_regsBut (s.setCoreRec c { s.coreRec c with block := .none }) c csRUN⟩
  · rw [exec_coreStallResume_eq, if_neg (not_not.mpr hState), if_pos hBlock]
    obtain ⟨m, hm⟩ := s.fillBuf_grows c 1
    have hSame : l = m := by rw [hl, hm, List.drop_left]
    have hRead := State.fillBuf_read (s := s) (core := c) (n := 1) fun b hb e => by
      have hSome := List.all_eq_true.mp hGood b (hl ▸ hb)
      rw [e] at hSome
      cases hSome
    obtain ⟨n, hn⟩ := hRead.buf
    have hFilled : (s.fillBuf c 1).coreRec c = { s.coreRec c with buf := (s.coreRec c).buf ++ l } := by
      have hBuf : (s.coreRec c).buf ++ n = (s.coreRec c).buf ++ m := (congrArg CoreRec.buf hn).symm.trans hm
      rw [hn, hBuf, hSame]
    have hWait : ((s.fillBuf c 1).coreRec c).block = .fetch := by rw [hFilled]; exact hBlock
    refine ⟨_, rfl, ?_, by rw [hSame, ← hm]; exact s.fillBuf_ne_nil c, ?_, ?_⟩
    · rw [State.arrived, if_pos hWait]
      exact State.coreState_setCoreState _ _ _ (by decide)
    · rw [State.arrived, if_pos hWait, State.coreRec_setCoreState, State.coreRec_setCoreRec, hFilled]
    · rw [State.arrived, if_pos hWait]
      exact hRead.only.trans (((State.setCoreRec_only ..).mono rfl).trans ((State.setCoreState_only ..).mono rfl))

end Sys2Proof.Machine

/-! Barriers (R131): a core that waits at a unit, and the release of every core that waits there. -/

namespace Sys2Proof.Machine

theorem State.setCoreRec_bars (s : State) (core : Nat) (r : CoreRec) :
    (s.setCoreRec core r).core.bars = s.core.bars := rfl

theorem State.setCoreState_bars (s : State) (core st : Nat) : (s.setCoreState core st).core.bars = s.core.bars :=
  congrArg CoreSt.bars (State.fset_core ..)

theorem State.kernelTryEnd_bars (s : State) (core : Nat) : (s.kernelTryEnd core).core.bars = s.core.bars := by
  have hEnd : ∀ x : State, x.core.bars = s.core.bars → (if (x.setCoreRec core {}).coreState core = csHALT ∨
      (x.setCoreRec core {}).coreState core = csFENCED then x.setCoreRec core {}
      else (x.setCoreRec core {}).setCoreState core csIDLE).core.bars = s.core.bars := fun x hx => by
    split
    · exact (State.setCoreRec_bars ..).trans hx
    · exact (State.setCoreState_bars ..).trans ((State.setCoreRec_bars ..).trans hx)
  unfold State.kernelTryEnd
  dsimp only
  split
  · apply hEnd
    split <;> rfl
  · rfl

theorem State.completeRaw_bars (s : State) (core seq st rs nf : Nat) :
    (s.completeRaw core seq st rs nf).core.bars = s.core.bars := by
  unfold State.completeRaw
  dsimp only
  split
  · exact State.kernelTryEnd_bars ..
  · rfl

/-- Core `k` waits at a barrier unit. -/
def State.AtBar (s : State) (unit k : Nat) : Prop := s.coreState k = csBAR ∧ (s.coreRec k).block = .bar unit

/-- A core with record `r` has left the barrier at which it waited: it runs, and its BAR has completed. -/
def State.LeftBar (t : State) (k : Nat) (r : CoreRec) : Prop :=
  t.coreState k = csRUN ∧ ∃ bad fl, t.coreRec k = { r with
    block := .none, outst := r.outst.filter (fun o => o.1 != r.seq - 1), bad := bad, nflags := fl }

theorem State.barLeave_other {s : State} {unit k : Nat} (h : ¬s.AtBar unit k) : s.barLeave unit k = s := if_neg h

/-- Core `k` out of the barrier, its BAR still to complete. -/
def State.barFreed (s : State) (k : Nat) : State :=
  (s.setCoreRec k { s.coreRec k with block := .none }).setCoreState k csRUN

theorem State.barLeave_atBar {s : State} {unit k : Nat} (h : s.AtBar unit k) :
    s.barLeave unit k = (s.barFreed k).completeRaw k ((s.coreRec k).seq - 1) stOK 0 0 := if_pos h

theorem State.barFreed_coreRec (s : State) (k : Nat) : (s.barFreed k).coreRec k =
    { s.coreRec k with block := .none } := by
  rw [State.barFreed, State.coreRec_setCoreState, State.coreRec_setCoreRec]

theorem State.barLeave_leftBar {s : State} {unit k : Nat} (h : s.AtBar unit k)
    (hEnding : (s.coreRec k).ending = none) : (s.barLeave unit k).LeftBar k (s.coreRec k) := by
  have hRec := s.barFreed_coreRec k
  have hEnd := State.completeRaw_completed (s := s.barFreed k) (core := k)
    (by rw [hRec]; exact Block.noConfusion) (by rw [hRec]; exact hEnding) ((s.coreRec k).seq - 1) stOK 0 0
  obtain ⟨bad, fl, hDone⟩ := hEnd.record
  rw [hRec] at hDone
  rw [State.barLeave_atBar h]
  exact ⟨(hEnd.coreState k).trans (State.coreState_setCoreState _ _ _ (by decide)), bad, fl, hDone⟩

theorem State.barLeave_coreKept {k e : Nat} (h : k ≠ e) (s : State) (unit : Nat) :
    State.CoreKept k s (s.barLeave unit e) := by
  by_cases hBar : s.AtBar unit e
  · rw [State.barLeave_atBar hBar]
    exact ((State.setCoreRec_coreKept h s _).trans (State.setCoreState_coreKept h _ _)).trans
      (State.completeRaw_coreKept h _ _ _ _ _)
  · rw [State.barLeave_other hBar]
    exact .rfl' k s

theorem State.barLeave_bars (s : State) (unit k : Nat) : (s.barLeave unit k).core.bars = s.core.bars := by
  by_cases hBar : s.AtBar unit k
  · rw [State.barLeave_atBar hBar]
    exact State.completeRaw_bars ..
  · rw [State.barLeave_other hBar]

/-- Every core of the list leaves the barrier unit where it waits there. -/
def State.barOpens (s : State) (unit : Nat) (l : List Nat) : State := l.foldl (fun s c => s.barLeave unit c) s

theorem State.barOpens_bars (s : State) (unit : Nat) (l : List Nat) :
    (s.barOpens unit l).core.bars = s.core.bars :=
  foldl_keeps (P := fun t => t.core.bars = s.core.bars) (fun t k h => (t.barLeave_bars unit k).trans h) rfl

/-- A core that has left stays as it is: it waits no more. -/
theorem State.LeftBar.opens {k : Nat} {r : CoreRec} {s : State} (h : s.LeftBar k r) (unit : Nat) (l : List Nat) :
    (s.barOpens unit l).LeftBar k r :=
  foldl_keeps (P := fun t => t.LeftBar k r) (fun t e ht => by
    obtain ⟨hState, hRec⟩ := ht
    by_cases he : k = e
    · rw [← he, State.barLeave_other fun hBar => absurd (hState.symm.trans hBar.1) (by decide)]
      exact ⟨hState, hRec⟩
    · obtain ⟨hSameRec, hSameState⟩ := State.barLeave_coreKept he t unit
      unfold State.LeftBar
      rw [hSameRec, hSameState]
      exact ⟨hState, hRec⟩) h

theorem State.barOpens_leftBar {unit k : Nat} {l : List Nat} (hIn : k ∈ l) {s : State} (h : s.AtBar unit k)
    (hEnding : (s.coreRec k).ending = none) : (s.barOpens unit l).LeftBar k (s.coreRec k) := by
  induction l generalizing s with
  | nil => cases hIn
  | cons e l ih =>
    by_cases he : k = e
    · subst he
      exact (State.barLeave_leftBar h hEnding).opens unit l
    · obtain ⟨hSameRec, hSameState⟩ := State.barLeave_coreKept he s unit
      have hNext := ih (List.mem_of_ne_of_mem he hIn) (s := s.barLeave unit e)
        ⟨hSameState.trans h.1, by rw [hSameRec]; exact h.2⟩ (by rw [hSameRec]; exact hEnding)
      rw [hSameRec] at hNext
      exact hNext

/-! Arrivals. -/

/-- Core `c` waits at a barrier unit, its arrival still to be counted. -/
def State.barWaits (s : State) (c unit : Nat) : State :=
  (s.setCoreRec c { s.coreRec c with block := .bar unit }).setCoreState c csBAR

theorem State.barWaits_coreRec (s : State) (c unit : Nat) :
    (s.barWaits c unit).coreRec c = { s.coreRec c with block := .bar unit } := by
  rw [State.barWaits, State.coreRec_setCoreState, State.coreRec_setCoreRec]

theorem State.barWaits_coreState (s : State) (c unit : Nat) : (s.barWaits c unit).coreState c = csBAR :=
  State.coreState_setCoreState _ _ _ (by decide)

theorem State.barRec_setBar (s : State) (die unit : Nat) (b : BarRec) : (s.setBar die unit b).barRec die unit = b :=
  Tbl.get_set ..

@[simp] theorem State.coreRec_setBar (s : State) (die unit : Nat) (b : BarRec) (k : Nat) :
    (s.setBar die unit b).coreRec k = s.coreRec k := rfl

@[simp] theorem State.coreState_setBar (s : State) (die unit : Nat) (b : BarRec) (k : Nat) :
    (s.setBar die unit b).coreState k = s.coreState k := rfl

theorem State.barRec_congr {s t : State} (h : t.core.bars = s.core.bars) (die unit : Nat) :
    t.barRec die unit = s.barRec die unit := by
  unfold State.barRec
  rw [h]

theorem State.barArrive_counts {s : State} {c unit npart : Nat}
    (h : (s.barRec (dieOf c) unit).cores.length + 1 < npart) : s.barArrive c unit npart =
      (s.barWaits c unit).setBar (dieOf c) unit ⟨npart, (s.barRec (dieOf c) unit).cores ++ [c]⟩ :=
  if_neg (by rw [List.length_append]; simpa using h)

theorem State.barArrive_opens {s : State} {c unit npart : Nat}
    (h : npart ≤ (s.barRec (dieOf c) unit).cores.length + 1) : s.barArrive c unit npart =
      ((s.barWaits c unit).setBar (dieOf c) unit {}).barOpens unit ((s.barRec (dieOf c) unit).cores ++ [c]) :=
  if_pos (by rw [List.length_append]; simpa using h)

theorem State.arrived_bars (s : State) (core : Nat) : (s.arrived core).core.bars = s.core.bars := by
  unfold State.arrived
  split <;> rfl

theorem State.Fetches.barRec {s s1 : State} {c opc : Nat} {w : CmdWord} (h : s.Fetches c opc s1 w) (d u : Nat) :
    (s1.issueNext c w).barRec d u = s.barRec d u :=
  State.barRec_congr (h.read.1.bars.trans (State.arrived_bars s c)) d u

theorem State.Fetches.bar {s s1 : State} {c : CoreId} {w : CmdWord} (h : s.Fetches c 0x06 s1 w)
    (hZero : reservedZero w [(0, 13), (16, 9)] = true) (hLo : 1 ≤ fld w 16 9) (hHi : fld w 16 9 ≤ 256)
    (hRound : (s.barRec (dieOf c) (fld w 8 5)).cores = [] ∨ (s.barRec (dieOf c) (fld w 8 5)).npart = fld w 16 9) :
    exec (.bar c) s = .next ((s1.issueNext c w).barArrive c (fld w 8 5) (fld w 16 9)) := by
  show Host.Outcome.next (s.issue c 0x06 _) = _
  rw [h.issue]
  refine congrArg _ (State.refuseOr_passes (pick_all_false fun x hx => ?_) _)
  rw [h.barRec] at hx
  obtain rfl | rfl | rfl : x = resv w [(0, 13), (16, 9)] ∨
      x = (decide (fld w 16 9 = 0 ∨ 256 < fld w 16 9), 0x5406) ∨
      x = (decide ((s.barRec (dieOf c) (fld w 8 5)).cores ≠ [] ∧ (s.barRec (dieOf c) (fld w 8 5)).npart ≠ fld w 16 9),
        0x540A) := by simpa using hx
  · exact resv_passes hZero
  · exact decide_eq_false (by omega)
  · exact decide_eq_false fun k => hRound.elim k.1 k.2

/-- Settles O8: an arrival that is not the last waits and is counted; the last one frees the unit, and its own core is
among those that leave it. -/
theorem barrierCountsAndReleases : Obligations.BarrierCountsAndReleases := by
  intro c s s1 w h hZero hLo hHi hRound
  have hExec := h.bar hZero hLo hHi hRound
  have hRec := (s1.issueNext c w).barWaits_coreRec c (fld w 8 5)
  have hWaits : State.Only [.regs, .core] s1 ((s1.issueNext c w).barWaits c (fld w 8 5)) :=
    (((State.issueNext_only ..).trans (State.setCoreRec_only ..)).mono rfl).trans
      ((State.setCoreState_only ..).mono rfl)
  have hBar : ∀ b : BarRec, State.Only [.regs, .core] s1
      (((s1.issueNext c w).barWaits c (fld w 8 5)).setBar (dieOf c) (fld w 8 5) b) := fun b =>
    hWaits.trans (only_of_keeps fun _ K k => K.core (by decide) _ k)
  refine ⟨fun hMore => ?_, fun hLast => ?_⟩
  · rw [hExec, State.barArrive_counts (by rw [h.barRec]; exact hMore), h.barRec]
    refine ⟨_, rfl, h.issued (by decide) ?_ ?_ ?_, ?_, ?_, State.barRec_setBar .., hBar _, ?_⟩
    · rw [State.coreRec_setBar, hRec]
    · rw [State.coreRec_setBar, hRec]
    · rw [State.coreRec_setBar, hRec]
    · rw [State.coreState_setBar, State.barWaits_coreState]
    · rw [State.coreRec_setBar, hRec]
    · exact State.setCoreState_regsBut ((s1.issueNext c w).setCoreRec c _) c csBAR
  · rw [hExec, State.barArrive_opens (by rw [h.barRec]; exact hLast), h.barRec]
    obtain ⟨_, _, hIssue⟩ := h.rec
    obtain ⟨hState, bad, fl, hLeft⟩ := State.barOpens_leftBar (k := c.val) (unit := fld w 8 5)
      (l := (s.barRec (dieOf c) (fld w 8 5)).cores ++ [c.val]) (by simp)
      (s := ((s1.issueNext c w).barWaits c (fld w 8 5)).setBar (dieOf c) (fld w 8 5) {})
      ⟨by rw [State.coreState_setBar, State.barWaits_coreState], by rw [State.coreRec_setBar, hRec]⟩
      (by rw [State.coreRec_setBar, hRec]; exact h.open.2)
    rw [State.coreRec_setBar, hRec, hIssue] at hLeft
    refine ⟨_, rfl, ⟨?_, ?_, ?_, hState⟩, ?_, fun k hk hAt hUnit hEnding _ => ?_, ?_⟩
    · rw [hLeft, h.cmdBytes (by decide)]
    · rw [hLeft]
    · rw [hLeft]
      simp
    · exact (State.barRec_congr (State.barOpens_bars _ _ _) _ _).trans (State.barRec_setBar ..)
    · have hOther : k ≠ c := fun e => by
        have hFree := h.1
        rw [State.issuing, ← e, hUnit] at hFree
        cases hFree
      obtain ⟨hSameRec, hSameState⟩ := ((State.setCoreRec_coreKept hOther (s1.issueNext c w) _).trans
        (State.setCoreState_coreKept hOther _ csBAR) :
          State.CoreKept k (s1.issueNext c w) ((s1.issueNext c w).barWaits c (fld w 8 5)))
      obtain ⟨hRun, _, _, hFreed⟩ := State.barOpens_leftBar (k := k) (unit := fld w 8 5)
        (l := (s.barRec (dieOf c) (fld w 8 5)).cores ++ [c.val]) (List.mem_append_left _ hk)
        (s := ((s1.issueNext c w).barWaits c (fld w 8 5)).setBar (dieOf c) (fld w 8 5) {})
        ⟨by rw [State.coreState_setBar, hSameState, h.state.2 k hOther]; exact hAt,
          by rw [State.coreRec_setBar, hSameRec, h.others hOther]; exact hUnit⟩
        (by rw [State.coreRec_setBar, hSameRec, h.others hOther]; exact hEnding)
      exact ⟨hRun, by rw [hFreed]⟩
    · exact ((hBar {}).mono rfl).trans (only_of_keeps fun _ K k =>
        foldl_keeps (fun _ _ hx => State.barLeave_keeps K _ _ hx) k)

end Sys2Proof.Machine

/-! Reads and writes of a die's memory where every line is good and no channel has failed (R137, R329, R334 to R337):
SRAM and LPDDR5X alike, any list of ranges, and the registers that the way there leaves alone. -/

namespace Sys2Proof.Machine

/-- The registers that count what a die's write-combining buffers do. -/
def wcbRegs (die : Nat) : List Nat := [Reg.WCB_STAT die, Reg.WCB_FWD die]

section
variable {s : State} {die : Nat}

theorem State.wcbEvict_regsBut (h : s.Clean die) {ch : Nat} (hc : ch < 16) (e : WcbEntry) :
    State.RegsBut (wcbRegs die) s (s.wcbEvict die ch e).1 := by
  unfold State.wcbEvict
  extract_lets es k now lp0 s0 lp1 s1 pat lp2
  have hPart : State.RegsBut (wcbRegs die) s s1 :=
    ((State.RegsBut.rfl' _ s).of_eq rfl).finc (by simp [wcbRegs, RF.WCB_STAT_RMW])
  rw [h.chans ch hc, if_neg Bool.false_ne_true]
  split
  · exact ((State.RegsBut.rfl' _ s).of_eq rfl).finc (by simp [wcbRegs, RF.WCB_STAT_FULLW])
  · have hGood : decodeLine pat = .good := by
      show decodeLine (s.lp.lineErr.get [] k) = _
      rw [h.errs]
      rfl
    rw [hGood]
    exact hPart.of_eq rfl

theorem State.wcbRoom_regsBut (h : s.Clean die) {ch : Nat} (hc : ch < 16) :
    State.RegsBut (wcbRegs die) s (s.wcbRoom die ch).1 := by
  unfold State.wcbRoom
  split
  · exact .rfl' _ s
  · cases s.wcb die ch with
    | nil => exact .rfl' _ s
    | cons e es =>
      have hCount : State.Buffered die s (s.finc (RF.WCB_FWD_FORCED die) 1) :=
        (State.Buffered.rfl' h).finc (by simp only [Reg.MEM_CHMAP, RF.WCB_FWD_FORCED, Reg.WCB_FWD]; omega)
      exact ((State.RegsBut.rfl' _ s).finc (by simp [wcbRegs, RF.WCB_FWD_FORCED])).trans
        (State.wcbEvict_regsBut (hCount.clean h) hc e)

theorem State.poke_only (s : State) (die a : Nat) (bs : Bytes) : State.Only [.mem] s (s.poke die a bs) :=
  only_of_keeps fun _ K k => State.poke_keeps K die a bs k

theorem State.lineWrite_regsBut (h : s.Clean die) (a : Nat) (bs : Bytes) (tag : Nat) :
    State.RegsBut (wcbRegs die) s (s.lineWrite die a bs tag).1 := by
  have hc := s.mapLine_lt die a
  have hPoke := State.poke_clean h a bs
  have hRegs : State.RegsBut (wcbRegs die) s (s.poke die a bs) :=
    fun o _ => (s.poke_only die a bs).1 .regs (by decide) o
  unfold State.lineWrite
  generalize s.mapLine die a = p at hc ⊢
  obtain ⟨ch, q⟩ := p
  dsimp only at hc ⊢
  rw [h.chans ch hc, if_neg Bool.false_ne_true]
  cases List.find? (fun x => x.q == q) ((s.poke die a bs).wcb die ch) with
  | some e =>
    dsimp only
    split
    · exact (hRegs.of_eq rfl).trans
        (State.wcbEvict_regsBut ((State.Buffered.rfl' hPoke.clean).setWcb.clean hPoke.clean) hc _)
    · exact hRegs.of_eq rfl
  | none =>
    dsimp only
    split
    · exact hRegs.of_eq rfl
    · exact (hRegs.trans (State.wcbRoom_regsBut hPoke.clean hc)).of_eq rfl

theorem State.lpWrite_regsBut (h : s.Clean die) (off : Nat) (bs : Bytes) (tag : Nat) :
    State.RegsBut (wcbRegs die) s (s.lpWrite die off bs tag).1 := by
  unfold State.lpWrite
  refine (List.foldlRecOn (motive := fun a : State × List Nat => a.1.Clean die ∧ State.RegsBut (wcbRegs die) s a.1)
    _ _ ⟨h, .rfl' _ s⟩ fun a ha p _ => ?_).2
  obtain ⟨hClean, hRegs⟩ := ha
  exact ⟨(State.lineWrite_clean hClean p.1 p.2 tag).2.clean, hRegs.trans (State.lineWrite_regsBut hClean _ _ _)⟩

/-- What evictions from a clean state answer, with the registers that they leave alone. -/
def State.EvictedBut (die : Nat) (s : State) (a : State × List Nat) : Prop :=
  State.Evicted die s a ∧ State.RegsBut (wcbRegs die) s a.1

theorem State.wcbFlush_regsBut (h : s.Clean die) (tag : Nat) :
    State.RegsBut (wcbRegs die) s (s.wcbFlush die tag).1 := by
  unfold State.wcbFlush
  extract_lets a
  have hAll : State.EvictedBut die s a := by
    refine List.foldlRecOn _ _ ⟨⟨rfl, State.Buffered.rfl' h⟩, .rfl' _ s⟩ fun x hx ch hc => ?_
    refine List.foldlRecOn _ _ hx fun y hy e _ => ?_
    obtain ⟨hEvicted, hRegs⟩ := hy
    exact ⟨hEvicted.step h (List.mem_range.mp hc) e,
      hRegs.trans (State.wcbEvict_regsBut (hEvicted.2.clean h) (List.mem_range.mp hc) e)⟩
  clear_value a
  exact hAll.2.of_eq rfl

/-! Writes. -/

/-- Memory written with the lines still good: what else a write of SRAM or LPDDR5X changes. -/
structure State.WroteGood (die : Nat) (s t : State) (ws : List (Nat × Bytes)) : Prop where
  only : State.Only [.regs, .mem, .eng, .lp] s t
  clean : t.Clean die
  wrote : s.Wrote t ws
  regs : State.RegsBut (wcbRegs die) s t
  eng : t.eng = { s.eng with sramErr := t.eng.sramErr }

theorem State.WroteGood.nil (h : s.Clean die) : State.WroteGood die s s [] :=
  ⟨.rfl' _ s, h, fun _ => rfl, .rfl' _ s, rfl⟩

theorem State.WroteGood.cons {t u : State} {p : Nat × Bytes} {ws : List (Nat × Bytes)}
    (h : State.WroteGood die s t [p]) (k : State.WroteGood die t u ws) : State.WroteGood die s u (p :: ws) :=
  ⟨h.only.trans k.only, k.clean, h.wrote.cons k.wrote, h.regs.trans k.regs, by rw [k.eng, h.eng]⟩

theorem State.WroteClean.good {t : State} {ws : List (Nat × Bytes)} (h : State.WroteClean die s t ws)
    (k : State.RegsBut (wcbRegs die) s t) : State.WroteGood die s t ws :=
  ⟨h.only.mono rfl, h.clean, h.wrote, k, by rw [show t.eng = s.eng from h.only.1 .eng (by decide)]⟩

theorem State.WroteGood.flushed {t : State} {ws : List (Nat × Bytes)} (h : State.WroteGood die s t ws) (tag : Nat) :
    State.WroteGood die s (t.wcbFlush die tag).1 ws := by
  obtain ⟨-, hKept⟩ := State.wcbFlush_clean h.clean tag
  exact ⟨h.only.trans (hKept.only.mono rfl), hKept.clean h.clean,
    fun i => (hKept.only.1 .mem (by decide) i).trans (h.wrote i),
    h.regs.trans (State.wcbFlush_regsBut h.clean tag),
    by rw [show (t.wcbFlush die tag).1.eng = t.eng from hKept.only.1 .eng (by decide)]; exact h.eng⟩

theorem State.sramWrite_good (h : s.Clean die) (off : Nat) (bs : Bytes) :
    State.WroteGood die s (s.sramWrite die off bs) [(die * 2 ^ 40 + (sramBase + off), bs)] := by
  have hPoke := fun x : State => x.poke_only die (sramBase + off) bs
  have hRegs : ∀ o, (s.sramWrite die off bs).reg o = s.reg o := (hPoke _).1 .regs (by decide)
  refine ⟨only_of_keeps fun _ K k => State.sramWrite_keeps (K.mono rfl) _ _ _ k, ⟨?_, fun ch hc => ?_⟩,
    State.poke_wrote _ _ _ _, fun o _ => hRegs o, ?_⟩
  · exact (congrArg MemSt.lineErr ((hPoke _).1 .lp (by decide))).trans h.errs
  · rw [← h.chans ch hc, State.chFailed, State.fbit, State.fget, hRegs]
    rfl
  · have hEng : (s.sramWrite die off bs).eng = _ := (hPoke _).1 .eng (by decide)
    rw [hEng]

theorem State.memWrite_good (h : s.Clean die) (off : Nat) (bs : Bytes) (tag : Nat) :
    ∃ t, s.memWrite die off bs tag = (t, []) ∧ State.WroteGood die s t [(die * 2 ^ 40 + off, bs)] := by
  unfold State.memWrite
  split
  · rename_i ho
    have hWrote := State.sramWrite_good h (off - sramBase) bs
    rw [Nat.add_sub_cancel' ho] at hWrote
    exact ⟨_, rfl, hWrote⟩
  · obtain ⟨t, e, hWrote⟩ := State.lpWrite_clean h off bs tag
    have hRegs := State.lpWrite_regsBut h off bs tag
    rw [e] at hRegs
    exact ⟨t, e, hWrote.good hRegs⟩

/-- A list of writes by one transfer, before its entries are evicted. -/
theorem State.memWriteAll_good (h : s.Clean die) (ws : List (Nat × Bytes)) (tag : Nat) :
    ∃ t, ws.foldl (fun (a : State × List Nat) w =>
      let (s1, bad) := a.1.memWrite die w.1 w.2 tag
      (s1, a.2 ++ bad)) (s, []) = (t, []) ∧ State.WroteGood die s t (atDie die ws) := by
  induction ws generalizing s with
  | nil => exact ⟨s, rfl, .nil h⟩
  | cons w ws ih =>
    obtain ⟨u, hu, hFirst⟩ := State.memWrite_good h w.1 w.2 tag
    obtain ⟨t, ht, hRest⟩ := ih hFirst.clean
    refine ⟨t, ?_, hFirst.cons hRest⟩
    rw [List.foldl_cons]
    dsimp only
    rw [hu]
    exact ht

/-- A list of writes by one transfer: it stays good, and no other goes bad. -/
theorem State.memWrites_good (h : s.Clean die) (ws : List (Nat × Bytes)) (tag : Nat) :
    ∃ t, s.memWrites die ws tag = (t, true) ∧ State.WroteGood die s t (atDie die ws) := by
  obtain ⟨t, e, hWrote⟩ := State.memWriteAll_good h ws tag
  obtain ⟨hNone, -⟩ := State.wcbFlush_clean hWrote.clean tag
  refine ⟨_, ?_, hWrote.flushed tag⟩
  unfold State.memWrites
  rw [e]
  dsimp only
  rw [hNone]
  rfl

theorem wcbRegs_cnt (die d : Nat) {n : Nat} (hn : n < 1024) : Reg.WRK_CNT d n ∉ wcbRegs die := by
  simp only [wcbRegs, List.mem_cons, List.not_mem_nil, or_false, Reg.WRK_CNT, Reg.WCB_STAT, Reg.WCB_FWD]
  omega

theorem State.Counted.regsBut {t u : State} {l : List (Nat × Nat)} {r : List Nat} (h : s.Counted t l)
    (k : State.RegsBut r t u) (ho : ∀ d n, n < 1024 → Reg.WRK_CNT d n ∉ r) : s.Counted u l := by
  have hSame : t.Counted u [] := .of_cnt fun d n hn => congrArg (fun x => fld x _ _) (k _ (ho d n hn))
  have := h.trans hSame
  rwa [List.append_nil] at this

theorem State.Counted.rfl' (s : State) : s.Counted s [] := .of_cnt fun _ _ _ => rfl

theorem State.WroteGood.counted {t : State} {ws : List (Nat × Bytes)} (h : State.WroteGood die s t ws) :
    s.Counted t [] := (State.Counted.rfl' s).regsBut h.regs fun d _ hn => wcbRegs_cnt die d hn

/-! Reads. -/

/-- The registers that count what reads of a die's memory meet. -/
def readRegs (die : Nat) : List Nat := [Reg.WRK_SRAM_ECC die, Reg.WCB_FWD die]

theorem State.memRead_good (h : s.Clean die) (hSram : s.SramGood) (off len : Nat) :
    ∃ t, s.memRead die off len = (t, true) ∧ State.Recounted (readRegs die) s t := by
  by_cases ho : sramBase ≤ off
  · obtain ⟨t, e, hSame, hRegs⟩ := State.sramRead_good hSram die (off - sramBase) len
    exact ⟨t, (if_pos ho).trans e, hSame, hRegs.mono (by simp [readRegs])⟩
  · exact ⟨_, State.memRead_clean h (Nat.lt_of_not_le ho) len,
      (State.Recounted.rfl' _ s).fset (by simp [readRegs, RF.WCB_FWD_FWD])⟩

theorem State.memReads_good (h : s.Clean die) (hSram : s.SramGood) (rs : List (Nat × Nat)) :
    ∃ t, s.memReads die rs = (t, true) ∧ State.Recounted (readRegs die) s t := by
  induction rs generalizing s with
  | nil => exact ⟨s, rfl, .rfl' _ s⟩
  | cons r rs ih =>
    obtain ⟨t, e, hFirst⟩ := State.memRead_good h hSram r.1 r.2
    have hMap : t.reg (Reg.MEM_CHMAP die) = s.reg (Reg.MEM_CHMAP die) := hFirst.2 _ (by
      simp only [readRegs, List.mem_cons, List.not_mem_nil, or_false, Reg.MEM_CHMAP, Reg.WRK_SRAM_ECC, Reg.WCB_FWD]
      omega)
    have hClean : t.Clean die := ⟨by rw [hFirst.1]; exact h.errs, fun ch hc =>
      (congrArg (fun w => bitN (fld w 16 16) ch) hMap).trans (h.chans ch hc)⟩
    have hGood : t.SramGood := by rw [State.SramGood, hFirst.eng]; exact hSram
    obtain ⟨u, e', hRest⟩ := ih hClean hGood
    refine ⟨u, ?_, hFirst.trans hRest⟩
    rw [State.memReads, e]
    exact e'

end

end Sys2Proof.Machine

/-! Copies (R139 to R143): what a copy looks at, and its start on a free engine. -/

namespace Sys2Proof.Machine

/-- The registers that an engine's copies show themselves in, and those that count what reads meet. -/
def copyRegs (die : Nat) : List Nat := [Reg.WRK_CE_STAT die, Reg.WRK_SRAM_ECC die, Reg.WCB_FWD die]

theorem copyRegs_hive (die : Nat) {o : Nat} (h : o < 0x1000000) : o ∉ copyRegs die := by
  simp only [copyRegs, List.mem_cons, List.not_mem_nil, or_false, Reg.WRK_CE_STAT, Reg.WRK_SRAM_ECC, Reg.WCB_FWD]
  omega

theorem copyRegs_die (die : Nat) {o x d : Nat} (h : o = 0x1000000 + x + 0x200000 * d)
    (hx : x < 0x27000 ∨ 0x30000 ≤ x ∧ x < 0x30300 ∨ 0x34000 ≤ x ∧ x < 0x200000) : o ∉ copyRegs die := by
  simp only [copyRegs, List.mem_cons, List.not_mem_nil, or_false, Reg.WRK_CE_STAT, Reg.WRK_SRAM_ECC, Reg.WCB_FWD]
  omega

/-- Beyond the issue of commands and the engines' queues only what a copy's own reads count differs. -/
structure State.Steered (die : Nat) (s t : State) : Prop where
  only : State.Only [.regs, .core, .eng] s t
  regs : State.RegsBut (copyRegs die) s t
  sram : t.eng.sramErr = s.eng.sramErr

namespace State.Steered

variable {die : Nat} {s t u : State}

theorem rfl' (die : Nat) (s : State) : State.Steered die s s := ⟨.rfl' _ s, .rfl' _ s, rfl⟩

theorem trans (h : State.Steered die s t) (k : State.Steered die t u) : State.Steered die s u :=
  ⟨h.only.trans k.only, h.regs.trans k.regs, k.sram.trans h.sram⟩

theorem recounted (h : State.Recounted (readRegs die) s t) : State.Steered die s t :=
  ⟨h.only.mono rfl, h.2.mono (by simp [readRegs, copyRegs]), by rw [h.eng]⟩

variable (h : State.Steered die s t)
include h

theorem fget {q : FRef} (hq : q.off ∉ copyRegs die) : t.fget q = s.fget q :=
  congrArg (fun x => fld x q.lo q.w) (h.regs q.off hq)

theorem host : t.host = s.host := h.only.1 .host (by decide)
theorem fab : t.fab = s.fab := h.only.1 .fab (by decide)
theorem lp : t.lp = s.lp := h.only.1 .lp (by decide)
theorem out : t.out = s.out := h.only.1 .out (by decide)

theorem byte (k : Nat) : t.byte k = s.byte k := h.only.1 .mem (by decide) k

theorem peek (d off n : Nat) : t.peek d off n = s.peek d off n := by
  unfold State.peek
  simp only [h.byte]

theorem module : t.module = s.module := h.fget (copyRegs_hive die (by decide))

theorem gen : t.gen = s.gen := h.fget (copyRegs_hive die (by decide))

theorem owner (d : Nat) : t.owner d = s.owner d := h.fget (copyRegs_hive die (show Reg.HIVE_DIEOWN < _ by decide))

theorem usable (d : Nat) : t.usable d = s.usable d :=
  h.fget (copyRegs_die die (x := 0x26008) (d := d) rfl (Or.inl (by decide)))

theorem diePgen (d : Nat) : t.diePgen d = s.diePgen d :=
  h.fget (copyRegs_die die (x := 0x24000) (d := d) rfl (Or.inl (by decide)))

theorem dieJob (d : Nat) : t.dieJob d = s.dieJob d :=
  h.fget (copyRegs_die die (x := 0x24000) (d := d) rfl (Or.inl (by decide)))

theorem dieAbsorbs (d : Nat) : t.dieAbsorbs d = s.dieAbsorbs d :=
  congrArg (fun n => decide (2 ≤ n)) (h.fget (copyRegs_hive die (show Reg.QN_DIE_MAP < _ by decide)))

theorem diePortUp {d : Nat} (hd : d < 8) : t.diePortUp d = s.diePortUp d := by
  unfold State.diePortUp
  rw [h.dieAbsorbs, h.fget (copyRegs_hive die (show Reg.FAB_PORT (32 + d) < _ by unfold Reg.FAB_PORT; omega))]

theorem bmeOn (fn : Nat) : t.bmeOn fn = s.bmeOn fn := by
  unfold State.bmeOn
  rw [h.host]

theorem freeId (d : Nat) : t.freeId d = s.freeId d := by
  unfold State.freeId
  rw [h.fab]

theorem clean {d : Nat} (k : s.Clean d) : t.Clean d := by
  refine ⟨h.lp ▸ k.errs, fun ch hc => ?_⟩
  rw [← k.chans ch hc]
  exact congrArg (fun n => bitN n ch) (h.fget (copyRegs_die die (x := 0x26010) (d := d) rfl (Or.inl (by decide))))

theorem sramGood (k : s.SramGood) : t.SramGood := by
  rw [State.SramGood, h.sram]
  exact k

theorem inWindows (d addr len : Nat) (write : Bool) :
    t.inWindows (s.owner d) addr len write = s.inWindows (s.owner d) addr len write :=
  State.inWindows_congr (s.fget_lt (RF.HIVE_DIEOWN_OWNER d)) (by rw [h.host])
    (fun o ho => h.regs o (copyRegs_hive die (by omega))) addr len write

theorem copyEnd (d kind addr : Nat) : t.copyEnd d kind addr = s.copyEnd d kind addr := by
  unfold State.copyEnd
  rw [h.module]

theorem cpSrc (d : Nat) (w : CmdWord) : t.cpSrc d w = s.cpSrc d w := h.copyEnd ..
theorem cpDst (d : Nat) (w : CmdWord) : t.cpDst d w = s.cpDst d w := h.copyEnd ..

theorem rangeConds (d off len : Nat) : t.rangeConds d off len = s.rangeConds d off len := by
  unfold State.rangeConds
  rw [h.usable]

theorem endConds (d kind addr stride len rows : Nat) (write : Bool) :
    t.endConds d kind addr stride len rows write = s.endConds d kind addr stride len rows write := by
  unfold State.endConds
  simp only [h.copyEnd, h.rangeConds, h.owner, h.inWindows]

theorem copyConds (d : Nat) (w : CmdWord) : t.copyConds d w = s.copyConds d w := by
  unfold State.copyConds State.srcOutside State.setupsOn
  dsimp only
  rw [h.endConds, h.endConds, h.cpSrc, h.host]

theorem staleCore (c : Nat) (x : Ctx) : t.staleCore c x = s.staleCore c x := by
  unfold State.staleCore
  rw [h.diePgen, h.dieJob]

theorem bmapEmu (d : Nat) {b : Nat} (hb : b < 64) :
    t.fget (RF.WRK_BMAP_EMU d (b / 8) (b % 8)) = s.fget (RF.WRK_BMAP_EMU d (b / 8) (b % 8)) :=
  h.fget (copyRegs_die die (x := 0x30200 + 8 * (b / 8)) (d := d)
    (show Reg.WRK_BMAP d (b / 8) = _ by unfold Reg.WRK_BMAP; omega) (by omega))

theorem emuBanks (d : Nat) : t.emuBanks d = s.emuBanks d := by
  unfold State.emuBanks
  congr 1
  exact List.filter_congr fun b hb => by rw [h.bmapEmu d (List.mem_range.mp hb)]

theorem physBank (d : Nat) {b : Nat} (hb : b < 64) : t.physBank d b = s.physBank d b := by
  unfold State.physBank
  rw [h.bmapEmu d hb]
  congr 1
  exact h.fget (copyRegs_die die (x := 0x30200 + 8 * (b / 8)) (d := d)
    (show Reg.WRK_BMAP d (b / 8) = _ by unfold Reg.WRK_BMAP; omega) (by omega))

theorem emulated (d off len : Nat) : t.emulated d off len = s.emulated d off len := by
  unfold State.emulated
  rw [h.emuBanks]
  congr 1
  exact List.any_congr rfl fun i => by rw [h.physBank d (Nat.mod_lt _ (by decide))]

theorem copyEmu (d : Nat) (w : CmdWord) : t.copyEmu d w = s.copyEmu d w := by
  unfold State.copyEmu
  simp only [h.cpSrc, h.cpDst, h.emulated]

theorem cpSour (d : Nat) (w : CmdWord) : t.cpSour d w = s.cpSour d w := by
  funext q
  unfold State.cpSour
  simp only [h.byte]

end State.Steered

/-! The queue of an engine. -/

theorem State.ceQ_setCeQ (s : State) (die e : Nat) (q : List Job) : (s.setCeQ die e q).ceQ die e = q :=
  Tbl.get_set ..

theorem State.setCeQ_steered (s : State) (die e : Nat) (q : List Job) : State.Steered die s (s.setCeQ die e q) :=
  ⟨only_of_keeps fun _ K h => State.setCeQ_keeps (K.mono rfl) _ _ _ h,
    ((State.RegsBut.rfl' _ s).of_eq rfl).fset (by simp [copyRegs, RF.WRK_CE_STAT_BUSY]), rfl⟩

/-- A job of a command, changed by `f`. -/
def Job.changedBy (core seq : Nat) (f : Job → Job) (j : Job) : Job := if j.core = core ∧ j.seq = seq then f j else j

/-- The jobs of one engine that a command names, changed by `f`. -/
def State.mapEngine (s : State) (core seq : Nat) (f : Job → Job) (e : Nat) : State :=
  let q := (s.ceQ (dieOf core) e).map (Job.changedBy core seq f)
  { s with eng := { s.eng with ceq := s.eng.ceq.set [] (dieOf core * 4 + e) q } }

theorem State.mapCopy_eq (s : State) (core seq : Nat) (f : Job → Job) :
    s.mapCopy core seq f = (List.range 4).foldl (fun s e => s.mapEngine core seq f e) s := rfl

theorem State.ceQ_mapEngine (s : State) (core seq : Nat) (f : Job → Job) (a e : Nat) :
    (s.mapEngine core seq f a).ceQ (dieOf core) e =
      if e = a then (s.ceQ (dieOf core) e).map (Job.changedBy core seq f) else s.ceQ (dieOf core) e := by
  split
  · rename_i h
    subst h
    exact Tbl.get_set ..
  · exact Tbl.get_set_ne _ _ _ _ (by omega)

theorem State.ceQ_mapCopy (s : State) (core seq : Nat) (f : Job → Job) {e : Nat} (he : e < 4) :
    (s.mapCopy core seq f).ceQ (dieOf core) e = (s.ceQ (dieOf core) e).map (Job.changedBy core seq f) := by
  have hSteps : ∀ (l : List Nat) (x : State), l.Nodup →
      (l.foldl (fun s e => s.mapEngine core seq f e) x).ceQ (dieOf core) e =
        if e ∈ l then (x.ceQ (dieOf core) e).map (Job.changedBy core seq f) else x.ceQ (dieOf core) e := by
    intro l
    induction l with
    | nil => exact fun _ _ => rfl
    | cons a l ih =>
      intro x hl
      obtain ⟨hNotIn, hRest⟩ := List.nodup_cons.mp hl
      rw [List.foldl_cons, ih _ hRest, State.ceQ_mapEngine]
      by_cases h : e = a
      · subst h
        rw [if_neg hNotIn, if_pos rfl, if_pos List.mem_cons_self]
      · simp only [List.mem_cons, h, false_or, if_false]
  rw [State.mapCopy_eq]
  exact (hSteps _ s List.nodup_range).trans (if_pos (List.mem_range.mpr he))

theorem State.mapCopy_steered (s : State) (die core seq : Nat) (f : Job → Job) :
    State.Steered die s (s.mapCopy core seq f) := by
  rw [State.mapCopy_eq]
  refine List.foldlRecOn (motive := State.Steered die s) _ _ (.rfl' die s) fun x hx e _ => hx.trans ⟨?_, ?_, rfl⟩
  · exact only_of_keeps fun _ K h => K.eng (by decide) _ h
  · exact (State.RegsBut.rfl' _ x).of_eq rfl

/-- One job alone in an engine's queue, changed as its command's. -/
theorem State.ceQ_mapCopy_single {s : State} {core seq e : Nat} {j : Job} (h : s.ceQ (dieOf core) e = [j])
    (hc : j.core = core) (hs : j.seq = seq) (he : e < 4) (f : Job → Job) :
    (s.mapCopy core seq f).ceQ (dieOf core) e = [f j] := by
  rw [State.ceQ_mapCopy _ _ _ _ he, h, List.map_singleton, Job.changedBy, if_pos ⟨hc, hs⟩]

/-! The start of a copy on a free engine. -/

/-- A job that its engine has taken, with the status it will complete with. -/
def Job.begins (j : Job) (st : Nat) : Job := { j with started := true, status := st }

/-- The state once an idle engine has taken a job. -/
def State.ceTaken (s : State) (die e : Nat) (j : Job) (st : Nat) : State :=
  (s.setCeQ die e [j]).setCeQ die e [j.begins st]

theorem State.ceTaken_steered (s : State) (die e : Nat) (j : Job) (st : Nat) :
    State.Steered die s (s.ceTaken die e j st) :=
  (s.setCeQ_steered die e _).trans (State.setCeQ_steered _ die e _)

theorem State.ceQ_ceTaken (s : State) (die e : Nat) (j : Job) (st : Nat) :
    (s.ceTaken die e j st).ceQ die e = [j.begins st] := State.ceQ_setCeQ ..

/-- A copy that nothing refuses, alone in its engine's queue, fetches its bytes at once. -/
theorem State.ceRun_starts {s : State} {die e : Nat} {j : Job} (hWaits : j.started = false)
    (hPick : pick (s.copyConds die j.word) = none) (hFresh : s.staleCore j.core j.ctx = false) :
    (s.setCeQ die e [j]).ceRun die e =
      (s.ceTaken die e j (okOr (s.copyEmu die j.word))).copyFetch (j.begins (okOr (s.copyEmu die j.word))) := by
  have hKin := s.setCeQ_steered die e [j]
  have hQueue := s.ceQ_setCeQ die e [j]
  have hIdle : ceIdle [j] = true := by simp [ceIdle, hWaits]
  have hFind : [j].find? (fun j => !j.started) = some j := by simp [hWaits]
  unfold State.ceRun
  rw [hQueue, List.length_singleton, State.cePump]
  rw [hQueue, hFind]
  dsimp only
  rw [if_pos hIdle, State.cePump, State.copyTake, hKin.copyConds, hPick]
  dsimp only
  rw [hKin.staleCore, hFresh, if_neg Bool.false_ne_true, hKin.copyEmu, hQueue, List.map_singleton, if_pos ⟨rfl, rfl⟩]
  rfl

end Sys2Proof.Machine

/-! A copy within one die (R141, R142): its bytes are read at its start and held until COPY_COMPLETE writes them. -/

namespace Sys2Proof.Machine

/-- Only the jobs of copy engines differ in what the engines hold. -/
theorem State.mapCopy_pfq (s : State) (core seq : Nat) (f : Job → Job) :
    (s.mapCopy core seq f).eng.pfq = s.eng.pfq := by
  rw [State.mapCopy_eq]
  exact List.foldlRecOn (motive := fun t : State => t.eng.pfq = s.eng.pfq) _ _ rfl fun _ hx _ _ => hx

theorem State.mapCopy_only (s : State) (core seq : Nat) (f : Job → Job) :
    State.Only [.eng] s (s.mapCopy core seq f) :=
  only_of_keeps fun _ K h => State.mapCopy_keeps K core seq f h

theorem State.ceTaken_pfq (s : State) (die e : Nat) (j : Job) (st : Nat) :
    (s.ceTaken die e j st).eng.pfq = s.eng.pfq := by
  unfold State.ceTaken State.setCeQ State.ceBusy State.fsetBit
  rw [State.fset_eng, State.fset_eng]

theorem State.ceTaken_only (s : State) (die e : Nat) (j : Job) (st : Nat) :
    State.Only [.regs, .eng] s (s.ceTaken die e j st) :=
  only_of_keeps fun _ K h => State.setCeQ_keeps K _ _ _ (State.setCeQ_keeps K _ _ _ h)

/-- Bytes of the rows of a local source. -/
def State.cpData (s : State) (die off : Nat) (w : CmdWord) : Bytes :=
  (cpRows off (cpSSTR w) w).flatMap fun r => s.peek die r.1 r.2

/-- A job that holds the bytes of a copy within its die. -/
def Job.holds (j : Job) (st off : Nat) (bs : Bytes) : Job :=
  { j.begins st with waits := 0, writes := cpCut off j.word bs }

/-- A local copy on a free engine: it reads its source at once and holds what it will write. -/
theorem State.ceRun_local {s : State} {die e so do_ : Nat} {j : Job} (he : e < 4) (hDie : dieOf j.core = die)
    (hWaits : j.started = false) (hClean : s.Clean die) (hSram : s.SramGood)
    (hPick : pick (s.copyConds die j.word) = none) (hFresh : s.staleCore j.core j.ctx = false)
    (hSrc : s.cpSrc die j.word = .here so) (hDst : s.cpDst die j.word = .here do_) :
    ∃ t, (s.setCeQ die e [j]).ceRun die e = t ∧ State.Steered die s t ∧ t.eng.pfq = s.eng.pfq ∧
      State.Only [.regs, .eng] s t ∧
      t.ceQ die e = [j.holds (okOr (s.copyEmu die j.word)) do_ (s.cpData die so j.word)] := by
  subst hDie
  refine ⟨_, State.ceRun_starts hWaits hPick hFresh, ?_⟩
  generalize okOr (s.copyEmu (dieOf j.core) j.word) = st
  have hTaken := s.ceTaken_steered (dieOf j.core) e j st
  have hQueue := s.ceQ_ceTaken (dieOf j.core) e j st
  have hPfq := s.ceTaken_pfq (dieOf j.core) e j st
  have hOnly := s.ceTaken_only (dieOf j.core) e j st
  generalize s.ceTaken (dieOf j.core) e j st = u at hTaken hQueue hPfq hOnly ⊢
  obtain ⟨v, hReads, hCount⟩ := State.memReads_good (hTaken.clean hClean) (hTaken.sramGood hSram)
    (cpRows so (cpSSTR j.word) j.word ++
      if cpSM j.word then [(sramBase + (cpMap j.word).1, (cpMap j.word).2)] else [])
  have hKin : State.Steered (dieOf j.core) s v := hTaken.trans (.recounted hCount)
  have hFetch : u.copyFetch (j.begins st) = v.mapCopy j.core j.seq fun x =>
      { x with waits := 0, writes := cpCut do_ x.word (s.cpData (dieOf j.core) so j.word) } := by
    have hSrc' : u.cpSrc (dieOf j.core) j.word = .here so := (hTaken.cpSrc _ _).trans hSrc
    have hDst' : v.cpDst (dieOf j.core) j.word = .here do_ := (hKin.cpDst _ _).trans hDst
    unfold State.copyFetch
    dsimp only [Job.begins]
    rw [hSrc']
    dsimp only
    rw [State.copyReads]
    dsimp only
    rw [hReads]
    dsimp only
    rw [State.copyDeliver, hDst']
    dsimp only
    unfold State.cpData
    simp only [hKin.peek]
  rw [hFetch]
  have hQueue' : v.ceQ (dieOf j.core) e = [j.begins st] := by rw [State.ceQ, hCount.eng]; exact hQueue
  refine ⟨hKin.trans (State.mapCopy_steered ..), ?_, ?_, State.ceQ_mapCopy_single hQueue' rfl rfl he _⟩
  · rw [State.mapCopy_pfq, hCount.eng, hPfq]
  · exact hOnly.trans ((hCount.only.mono rfl).trans ((State.mapCopy_only ..).mono rfl))

end Sys2Proof.Machine

/-! The end of a copy (R141): its held bytes are written, its counters move, its command completes. -/

namespace Sys2Proof.Machine

/-! Fenced signals that wait: a completion adds none. -/

/-- A core without waiting signals in `s` has none in `t`. -/
def State.NoneFenced (s t : State) : Prop := ∀ c, (s.coreRec c).sigs = [] → (t.coreRec c).sigs = []

theorem State.NoneFenced.trans {s t u : State} (h : s.NoneFenced t) (k : t.NoneFenced u) : s.NoneFenced u :=
  fun c hc => k c (h c hc)

theorem State.NoneFenced.of_core {s t : State} (h : t.core = s.core) : s.NoneFenced t := fun c hc =>
  (congrArg CoreRec.sigs (State.coreRec_congr h c)).trans hc

theorem State.setCoreRec_noneFenced {s : State} {core : Nat} {r : CoreRec}
    (h : (s.coreRec core).sigs = [] → r.sigs = []) : s.NoneFenced (s.setCoreRec core r) := fun c hNone => by
  by_cases hc : c = core
  · subst hc
    rw [State.coreRec_setCoreRec]
    exact h hNone
  · rw [State.coreRec_setCoreRec_ne _ _ hc]
    exact hNone

theorem State.setCoreState_noneFenced (s : State) (core st : Nat) : s.NoneFenced (s.setCoreState core st) :=
  .of_core (State.fset_core _ _ _)

theorem State.kernelTryEnd_noneFenced (s : State) (core : Nat) : s.NoneFenced (s.kernelTryEnd core) := by
  unfold State.kernelTryEnd
  dsimp only
  have hEnd : ∀ x : State, x.core = s.core → s.NoneFenced (x.setCoreRec core {}) := fun x hx =>
    (State.NoneFenced.of_core hx).trans (State.setCoreRec_noneFenced fun _ => rfl)
  have hState : ∀ x : State, x.core = s.core → s.NoneFenced
      (if (x.setCoreRec core {}).coreState core = csHALT ∨ (x.setCoreRec core {}).coreState core = csFENCED then
        x.setCoreRec core {} else (x.setCoreRec core {}).setCoreState core csIDLE) := fun x hx =>
    ite_keeps (P := s.NoneFenced) (hEnd x hx) ((hEnd x hx).trans (State.setCoreState_noneFenced _ _ _))
  refine ite_keeps (P := s.NoneFenced) (hState _ ?_) (.of_core rfl)
  split <;> rfl

theorem State.completeRaw_noneFenced (s : State) (core seq st reason nf : Nat) :
    s.NoneFenced (s.completeRaw core seq st reason nf) := by
  unfold State.completeRaw
  dsimp only
  refine ite_keeps (P := s.NoneFenced)
    (.trans (State.setCoreRec_noneFenced fun hNone => ?_) (State.kernelTryEnd_noneFenced _ _)) (.of_core rfl)
  rw [apply_ite CoreRec.sigs, ite_self]
  exact hNone

theorem State.wakeCore_noneFenced (s : State) (core : Nat) : s.NoneFenced (s.wakeCore core) := by
  unfold State.wakeCore
  dsimp only
  split
  · have hRec : s.NoneFenced (s.setCoreRec core { s.coreRec core with block := .none }) :=
      State.setCoreRec_noneFenced id
    exact ite_keeps (P := s.NoneFenced)
      ((hRec.trans (State.setCoreState_noneFenced _ _ _)).trans (State.completeRaw_noneFenced _ _ _ _ _ _))
      (.of_core rfl)
  · exact .of_core rfl

theorem State.cntAdd_noneFenced (s : State) (die n v : Nat) : s.NoneFenced (s.cntAdd die n v) :=
  (State.NoneFenced.of_core (State.fset_core _ _ _)).trans
    (foldl_keeps (P := _) (fun _ _ h => ite_keeps (h.trans (State.wakeCore_noneFenced _ _)) h) (.of_core rfl))

theorem State.finish_noneFenced {s : State} {core seq : Nat} (h : s.Unbound core seq) (cnt st rs nf : Nat) :
    s.NoneFenced (s.finish core seq cnt st rs nf) := by
  unfold State.finish
  rw [State.completeCmd_unbound h]
  have hRaw := s.completeRaw_noneFenced core seq st rs nf
  exact ite_keeps (P := s.NoneFenced) (hRaw.trans (State.cntAdd_noneFenced _ _ _ _)) hRaw

theorem State.sigsTry_none {s : State} {core : Nat} (h : (s.coreRec core).sigs = []) : s.sigsTry core = s := by
  unfold State.sigsTry
  dsimp only
  rw [h]
  rfl

theorem State.ceRun_empty {s : State} {die e : Nat} (h : s.ceQ die e = []) : s.ceRun die e = s := by
  unfold State.ceRun
  rw [h]
  rfl

/-! What COPY_COMPLETE goes through. -/

/-- The copy has left its engine, and its transfer without cells has ended. -/
def State.copyLeft (s : State) (die e : Nat) (j : Job) : State :=
  (s.setCeQ die e []).xfersEnd die fun x =>
    decide (x.owner = XOwner.cmd j.core j.seq) && decide (x.cells = [])

/-- The counter of its receiving side moves (R141). -/
def State.copyReceived (s : State) (die : Nat) (j : Job) : State :=
  if cpRCEN j.word && !j.writes.isEmpty then s.cntAdd die (cpRCNT j.word) 1 else s

/-- A status other than OK shows in the engine's ERR (R149). -/
def State.copyFlagged (s : State) (die e st : Nat) : State :=
  if st = stOK then s else s.fsetBit (RF.WRK_CE_STAT_ERR die) e true

theorem State.copyLeft_only (s : State) (die e : Nat) (j : Job) :
    State.Only [.regs, .eng, .fab] s (s.copyLeft die e j) :=
  only_of_keeps fun _ K h => State.xfersEnd_keeps (K.mono rfl) _ _ (State.setCeQ_keeps (K.mono rfl) _ _ _ h)

theorem State.copyLeft_regs (s : State) (die e : Nat) (j : Job) (o : Nat) :
    (s.copyLeft die e j).reg o = (s.setCeQ die e []).reg o :=
  (only_of_keeps (w := [.fab]) fun _ K h => State.xfersEnd_keeps K _ _ h).1 .regs (by decide) o

theorem State.copyLeft_eng (s : State) (die e : Nat) (j : Job) :
    (s.copyLeft die e j).eng = (s.setCeQ die e []).eng :=
  (only_of_keeps (w := [.fab]) fun _ K h => State.xfersEnd_keeps K _ _ h).1 .eng (by decide)

section
variable {s : State} {die e : Nat} {j : Job}

theorem State.copyLeft_clean (h : s.Clean die) : (s.copyLeft die e j).Clean die := by
  have hKin := (s.setCeQ_steered die e []).clean h
  refine ⟨?_, fun ch hc => ?_⟩
  · rw [(s.copyLeft_only die e j).1 .lp (by decide)]
    exact h.errs
  · rw [← hKin.chans ch hc]
    exact congrArg (fun w => bitN (fld w 16 16) ch) (s.copyLeft_regs die e j _)

/-- The state in which the command of a copy is about to complete. -/
theorem State.copyDone_eq (hClean : s.Clean die) (hCounts : counts j.status = true) :
    ∃ t, State.WroteGood die (s.copyLeft die e j) t (atDie die j.writes) ∧
      s.copyDone die e j [] = (((((t.copyReceived die j).copyFlagged die e j.status).finish j.core j.seq
        (cpCNT j.word) j.status j.reason 0).sigsTry j.core).ceRun die e) := by
  have hWrites : ∃ t, (if counts j.status = true ∧ j.writes ≠ [] then
      (s.copyLeft die e j).memWrites die j.writes (cmdTag j.core j.seq) else (s.copyLeft die e j, true)) = (t, true) ∧
      State.WroteGood die (s.copyLeft die e j) t (atDie die j.writes) := by
    by_cases hNone : j.writes = []
    · refine ⟨_, if_neg fun h => h.2 hNone, ?_⟩
      rw [hNone]
      exact .nil (State.copyLeft_clean hClean)
    · rw [if_pos ⟨hCounts, hNone⟩]
      exact State.memWrites_good (State.copyLeft_clean hClean) _ _
  obtain ⟨t, e', hWrote⟩ := hWrites
  refine ⟨t, hWrote, ?_⟩
  have hNotStale : j.status ≠ stSTALE := fun h => by
    rw [h] at hCounts
    exact absurd hCounts (by decide)
  unfold State.copyDone
  extract_lets good s0
  have e'' : (if good = true ∧ j.writes ≠ [] then s0.memWrites die j.writes (cmdTag j.core j.seq) else (s0, true)) =
      (t, true) := e'
  rw [e'']
  dsimp only
  have hReceives : (counts j.status = true ∧ cpRCEN j.word = true ∧ j.writes ≠ []) ↔
      (cpRCEN j.word && !j.writes.isEmpty) = true := by simp [hCounts]
  rw [if_pos rfl, if_neg hNotStale]
  simp only [hReceives]
  rfl

theorem cpCNT_lt (w : CmdWord) : cpCNT w < 1024 := fld_lt ..
theorem cpRCNT_lt (w : CmdWord) : cpRCNT w < 1024 := fld_lt ..

theorem State.copyLeft_regsBut (s : State) (die e : Nat) (j : Job) :
    State.RegsBut [Reg.WRK_CE_STAT die] s (s.copyLeft die e j) := fun o ho =>
  (s.copyLeft_regs die e j o).trans
    (((State.RegsBut.rfl' _ s).of_eq rfl).fset (by simp [RF.WRK_CE_STAT_BUSY]) o ho)

theorem State.copyLeft_busy (s : State) (die : Nat) {e : Nat} (he : e < 4) (j : Job) :
    (s.copyLeft die e j).fbit (RF.WRK_CE_STAT_BUSY die) e = false := by
  have hBusy : (s.setCeQ die e []).fbit (RF.WRK_CE_STAT_BUSY die) e = false :=
    (State.fbit_fsetBit _ _ he (show 0 + 4 ≤ 64 by omega)).trans (congrArg (List.any · _) (s.ceQ_setCeQ die e []))
  rw [← hBusy]
  exact congrArg (fun w => bitN (fld w 0 4) e) (s.copyLeft_regs die e j _)

theorem ceStat_cnt (die d : Nat) {n : Nat} (hn : n < 1024) : Reg.WRK_CNT d n ∉ [Reg.WRK_CE_STAT die] := by
  simp only [List.mem_singleton, Reg.WRK_CNT, Reg.WRK_CE_STAT]
  omega

theorem cntApart_ceBusy (d : Nat) : cntApart (RF.WRK_CE_STAT_BUSY d) := by
  refine ⟨fun k i hi => ?_, fun k n hn => ?_⟩ <;>
    simp only [RF.WRK_CE_STAT_BUSY, Reg.WRK_CE_STAT, Reg.WRK_CORE_STATE, Reg.WRK_CNT] <;> omega

theorem State.copyReceived_busy (s : State) (die : Nat) (j : Job) :
    (s.copyReceived die j).fget (RF.WRK_CE_STAT_BUSY die) = s.fget (RF.WRK_CE_STAT_BUSY die) := by
  unfold State.copyReceived
  split
  · exact State.cntAdd_kept _ _ _ (cpRCNT_lt _) _ (cntApart_ceBusy die)
  · rfl

theorem State.copyReceived_counted (s : State) (die : Nat) (j : Job) : s.Counted (s.copyReceived die j)
    (if cpRCEN j.word && !j.writes.isEmpty then [(die, cpRCNT j.word)] else []) := by
  unfold State.copyReceived
  split
  · exact State.cntAdd_counted _ _ (cpRCNT_lt _)
  · exact .rfl' s

theorem State.copyReceived_only (s : State) (die : Nat) (j : Job) :
    State.Only [.regs, .core, .host] s (s.copyReceived die j) :=
  only_of_keeps fun _ K h => ite_keeps (State.cntAdd_keeps K _ _ _ h) h

theorem State.copyFlagged_regsBut (s : State) (die e st : Nat) :
    State.RegsBut [Reg.WRK_CE_STAT die] s (s.copyFlagged die e st) := by
  unfold State.copyFlagged
  split
  · exact .rfl' _ s
  · exact (State.RegsBut.rfl' _ s).fset (by simp [RF.WRK_CE_STAT_ERR])

theorem State.copyFlagged_only (s : State) (die e st : Nat) : State.Only [.regs] s (s.copyFlagged die e st) :=
  only_of_keeps fun _ K h => ite_keeps h (State.fsetBit_keeps K _ _ _ h)

theorem State.copyFlagged_busy (s : State) (die st : Nat) {e : Nat} (he : e < 4) :
    (s.copyFlagged die e st).fget (RF.WRK_CE_STAT_BUSY die) = s.fget (RF.WRK_CE_STAT_BUSY die) := by
  unfold State.copyFlagged
  split
  · rfl
  · exact State.fget_fset_ne _ _ _ _ (Or.inr (Or.inl (show 0 + 4 ≤ 8 + e by omega)))

theorem State.Counted.perm {t : State} {l m : List (Nat × Nat)} (h : s.Counted t l) (k : l.Perm m) : s.Counted t m :=
  fun d hd n hn => by rw [h d hd n hn, k.count_eq]

/-- COPY_COMPLETE of the only copy of an engine, every byte of which has come. -/
theorem exec_copyComplete_single {d : DieId} {e : Fin 4} {j : Job} {s : State} (hClean : s.Clean d)
    (hDie : j.core / 256 = d.val) (hQueue : s.ceQ d e = [j]) (hRun : j.started = true) (hWaits : j.waits = 0)
    (hCounts : counts j.status = true) (hUnbound : s.Unbound j.core j.seq) (hSigs : (s.coreRec j.core).sigs = []) :
    ∃ t, exec (.copyComplete d e) s = .next t ∧ t.ceQ d e = [] ∧ t.Closed j.core j.seq ∧
      s.Wrote t (atDie d j.writes) ∧
      s.Counted t ((d.val, cpCNT j.word) :: if cpRCEN j.word && !j.writes.isEmpty then [(d.val, cpRCNT j.word)]
        else []) ∧
      t.fbit (RF.WRK_CE_STAT_BUSY d) e = false ∧
      State.Only [.regs, .mem, .core, .eng, .lp, .fab, .host] s t := by
  have hExec : exec (.copyComplete d e) s = .next (s.copyDone d e j []) := by
    show Host.Outcome.next (match s.ceQ d e with | j :: rest => _ | [] => s) = _
    rw [hQueue]
    dsimp only
    rw [if_pos ⟨hRun, hWaits⟩]
  obtain ⟨u, hWrote, hDone⟩ := State.copyDone_eq (e := e.val) (j := j) hClean hCounts
  have hLeft := s.copyLeft_only d e j
  have hReceived := u.copyReceived_only d j
  have hFlagged := (u.copyReceived d j).copyFlagged_only d e j.status
  have hToEnd : State.Only [.regs, .mem, .core, .eng, .lp, .fab, .host] s
      ((u.copyReceived d j).copyFlagged d e j.status) :=
    (hLeft.mono rfl).trans ((hWrote.only.mono rfl).trans ((hReceived.mono rfl).trans (hFlagged.mono rfl)))
  have hUnbound' : ((u.copyReceived d j).copyFlagged d e j.status).Unbound j.core j.seq := by
    unfold State.Unbound State.dieCap
    rw [hToEnd.1 .cap (by decide)]
    exact hUnbound
  have hEnd := State.finish_finished hUnbound' (cpCNT_lt j.word) j.status j.reason 0
  rw [hCounts, if_pos rfl, show dieOf j.core = d.val from hDie] at hEnd
  have hEng : ∀ t : State, t.eng = u.eng → t.ceQ d e = [] := fun t ht => by
    have hLeftQueue : (s.copyLeft d e j).eng.ceq = (s.setCeQ d e []).eng.ceq := by rw [State.copyLeft_eng]
    rw [State.ceQ, ht, hWrote.eng]
    exact (congrArg (fun q => Tbl.get [] q _) hLeftQueue).trans (s.ceQ_setCeQ d e [])
  have hFenced : s.NoneFenced ((u.copyReceived d j).copyFlagged d e j.status) := by
    have hToWrite : s.NoneFenced u :=
      .of_core ((hWrote.only.1 .core (by decide)).trans (hLeft.1 .core (by decide)))
    refine (hToWrite.trans ?_).trans (.of_core (hFlagged.1 .core (by decide)))
    exact ite_keeps (P := u.NoneFenced) (State.cntAdd_noneFenced _ _ _ _) (.of_core rfl)
  have hSigs' := (hFenced.trans (State.finish_noneFenced hUnbound' (cpCNT j.word) j.status j.reason 0)) _ hSigs
  have hQueue' := hEng _ (hEnd.eng.trans ((hFlagged.1 .eng (by decide)).trans (hReceived.1 .eng (by decide))))
  rw [State.sigsTry_none hSigs', State.ceRun_empty hQueue'] at hDone
  refine ⟨_, hExec.trans (congrArg _ hDone), hQueue', hEnd.closed, fun k => ?_, ?_, ?_,
    hToEnd.trans (hEnd.only.mono rfl)⟩
  · rw [hEnd.byte]
    refine (hFlagged.1 .mem (by decide) k).trans ((hReceived.1 .mem (by decide) k).trans ((hWrote.wrote k).trans ?_))
    rw [show (s.copyLeft d e j).byte k = s.byte k from hLeft.1 .mem (by decide) k]
  · have hLeftCounts := (State.Counted.rfl' s).regsBut (s.copyLeft_regsBut d e j) fun _ _ hn => ceStat_cnt d _ hn
    have hAll := (((hLeftCounts.trans hWrote.counted).trans (u.copyReceived_counted d j)).regsBut
      (State.copyFlagged_regsBut _ d e j.status) fun _ _ hn => ceStat_cnt d _ hn).trans hEnd.counted
    exact hAll.perm List.perm_append_comm
  · rw [← s.copyLeft_busy d e.isLt j]
    refine congrArg (fun n => bitN n e) ((hEnd.fields _ (cntApart_ceBusy d)).trans ?_)
    refine (State.copyFlagged_busy _ _ _ e.isLt).trans ((State.copyReceived_busy _ _ _).trans ?_)
    exact congrArg (fun w => fld w 0 4) (hWrote.regs _ (by
      simp only [wcbRegs, RF.WRK_CE_STAT_BUSY, List.mem_cons, List.not_mem_nil, or_false, Reg.WRK_CE_STAT,
        Reg.WCB_STAT, Reg.WCB_FWD]
      omega))

end

/-- PREFETCH_RELEASE of a local copy on a free engine. -/
theorem exec_prefetchRelease_local {d : DieId} {s : State} {j : Job} {rest : List Job} {so do_ : Nat}
    (hSound : s.Sound) (hDie : j.core / 256 = d.val) (hQueue : s.eng.pfq.get [] d = j :: rest)
    (hNew : j.started = false) (hWaits : s.dieWaits d = true) (hDue : s.updDue d = false)
    (hFree : s.ceQ d (cpCE j.word) = []) (hPick : pick (s.copyConds d j.word) = none)
    (hFresh : s.staleCore j.core j.ctx = false) (hSrc : s.cpSrc d j.word = .here so)
    (hDst : s.cpDst d j.word = .here do_) :
    ∃ t, exec (.prefetchRelease d) s = .next t ∧ t.eng.pfq.get [] d = rest ∧
      OneRuns (t.ceQ d (cpCE j.word)) j.core j.seq j.word (okOr (s.copyEmu d j.word)) (fun x =>
        x.waits = 0 ∧ x.writes = cpCut do_ j.word
          ((cpRows so (cpSSTR j.word) j.word).flatMap fun r => s.peek d r.1 r.2)) ∧
      State.Only [.regs, .eng] s t ∧
      State.RegsBut [Reg.WRK_CE_STAT d, Reg.WRK_SRAM_ECC d, Reg.WCB_FWD d] s t := by
  have hCE : cpCE j.word < 4 := fld_lt ..
  obtain ⟨s1, hs1⟩ : ∃ s1 : State, s1 = { s with eng := { s.eng with pfq := s.eng.pfq.set [] d rest } } := ⟨_, rfl⟩
  have hReleased : State.Only [.regs, .eng] s s1 := by
    rw [hs1]
    exact only_of_keeps fun _ K h => K.eng (by decide) _ h
  have hKin : State.Steered d s s1 :=
    ⟨hReleased.mono rfl, (State.RegsBut.rfl' _ s).of_eq (by rw [hs1]), by rw [hs1]⟩
  have hFree' : s1.ceQ d (cpCE j.word) = [] := by rw [hs1]; exact hFree
  obtain ⟨t, ht, hRuns, hPfq, hOnly, hHeld⟩ := State.ceRun_local (s := s1) hCE hDie hNew
    (hKin.clean (hSound.clean d.isLt)) (hKin.sramGood hSound.sramGood)
    ((congrArg pick (hKin.copyConds _ _)).trans hPick)
    ((hKin.staleCore _ _).trans hFresh) ((hKin.cpSrc _ _).trans hSrc) ((hKin.cpDst _ _).trans hDst)
  have hExec : exec (.prefetchRelease d) s = .next t := by
    show Host.Outcome.next (match s.eng.pfq.get [] d with | j :: rest => _ | [] => s) = _
    rw [hQueue]
    dsimp only
    rw [hWaits, hDue, hFree, if_pos ⟨rfl, rfl, rfl, rfl⟩, ← hs1, hFree', List.nil_append, ht]
  have hAll := hKin.trans hRuns
  refine ⟨t, hExec, ?_, ?_, ?_, hAll.regs⟩
  · rw [hPfq, hs1]
    exact Tbl.get_set ..
  · refine ⟨_, hHeld, rfl, rfl, rfl, rfl, congrArg okOr (hKin.copyEmu ..), rfl, ?_⟩
    simp only [Job.holds, State.cpData, hKin.peek]
  · exact hReleased.trans hOnly

/-- Settles O17: the held bytes of a copy are written when it completes; the oldest prefetch copy starts while its die
waits. -/
theorem copyEndsAndPrefetchStarts : Obligations.CopyEndsAndPrefetchStarts := by
  unfold Obligations.CopyEndsAndPrefetchStarts
  intro d s j hSound hDie
  exact ⟨fun e hQueue hRun hWaits hCounts hUnbound hSigs =>
      exec_copyComplete_single (hSound.clean d.isLt) hDie hQueue hRun hWaits hCounts hUnbound hSigs,
    fun rest so do_ hQueue hNew hWaits hDue hFree hPick hFresh hSrc hDst =>
      exec_prefetchRelease_local hSound hDie hQueue hNew hWaits hDue hFree hPick hFresh hSrc hDst⟩

end Sys2Proof.Machine

/-! The fields of the cells that a unit sends (R211, R214, R216 to R218): what a cell's header and payload read. -/

namespace Sys2Proof.Machine

/-! Byte strings and their values (R6). -/

theorem leVal_lt (bs : Bytes) : leVal bs < 256 ^ bs.length := by
  induction bs with
  | nil => exact Nat.one_pos
  | cons b bs ih =>
    rw [leVal, List.length_cons, Nat.pow_succ]
    have := b.isLt
    omega

theorem leVal_append (a b : Bytes) : leVal (a ++ b) = leVal a + 256 ^ a.length * leVal b := by
  induction a with
  | nil => simp [leVal]
  | cons x a ih =>
    rw [List.cons_append, leVal, ih, leVal, List.length_cons, Nat.pow_succ]
    ring

theorem leVal_drop (bs : Bytes) (i : Nat) : leVal bs / 256 ^ i = leVal (bs.drop i) := by
  induction i generalizing bs with
  | zero => simp
  | succ i ih =>
    cases bs with
    | nil => simp [leVal]
    | cons b bs =>
      have hb := b.isLt
      have hFirst : (b.toNat + 256 * leVal bs) / 256 = leVal bs := by omega
      rw [List.drop_succ_cons, ← ih, leVal, Nat.pow_succ, Nat.mul_comm (256 ^ i), ← Nat.div_div_eq_div_mul, hFirst]

theorem leVal_take (bs : Bytes) (n : Nat) : leVal bs % 256 ^ n = leVal (bs.take n) := by
  induction n generalizing bs with
  | zero => simp [leVal, Nat.mod_one]
  | succ n ih =>
    cases bs with
    | nil => simp [leVal]
    | cons b bs =>
      have hb := b.isLt
      have hFirst : (b.toNat + 256 * leVal bs) / 256 = leVal bs := by omega
      have hByte : (b.toNat + 256 * leVal bs) % 256 = b.toNat := by omega
      rw [List.take_succ_cons, leVal, leVal, ← ih, Nat.pow_succ, Nat.mul_comm (256 ^ n), Nat.mod_mul, hFirst, hByte]

theorem leBytes_leVal (bs : Bytes) : leBytes bs.length (leVal bs) = bs := by
  induction bs with
  | nil => rfl
  | cons b bs ih =>
    have hb := b.isLt
    rw [List.length_cons, leBytes, leVal, show (b.toNat + 256 * leVal bs) / 256 = leVal bs by omega, ih]
    congr 1
    apply BitVec.eq_of_toNat_eq
    rw [BitVec.toNat_ofNat]
    omega

theorem leVal_leBytes (n v : Nat) : leVal (leBytes n v) = v % 256 ^ n := by
  induction n generalizing v with
  | zero => simp [leBytes, leVal, Nat.mod_one]
  | succ n ih =>
    rw [leBytes, leVal, ih, BitVec.toNat_ofNat]
    exact (Nat.pow_succ' ▸ Nat.mod_mul).symm

/-! Cells. -/

/-- A field of a number's bits. -/
theorem fld_ofNat {n : Nat} (x : Nat) {lo w : Nat} (h : lo + w ≤ n) : fld (BitVec.ofNat n x) lo w = bitsN x lo w := by
  obtain ⟨k, rfl⟩ := Nat.exists_eq_add_of_le (Nat.le_of_add_right_le h)
  rw [fld, BitVec.toNat_ofNat, bitsN, bitsN, Nat.pow_add, Nat.mod_mul_right_div_self,
    Nat.mod_mod_of_dvd _ (Nat.pow_dvd_pow 2 (by omega))]

/-- The header of a cell as a number (R211). -/
def cellHeader (dmod dtgt smod stgt type gen job : Nat) (sour last : Bool) (len stream seq : Nat) : Nat :=
  dmod % 4096 + 2 ^ 12 * (dtgt % 16) + 2 ^ 16 * (smod % 4096) + 2 ^ 28 * (stgt % 16) + 2 ^ 32 * typeVc type
    + 2 ^ 35 * (type % 32) + 2 ^ 40 * (gen % 16) + 2 ^ 44 * (job % 256) + 2 ^ 52 * b2n sour
    + 2 ^ 53 * b2n last + 2 ^ 54 * (len % 64) + 2 ^ 60 * (stream % 65536) + 2 ^ 76 * (seq % 65536)

theorem typeVc_lt (type : Nat) : typeVc type < 8 := by
  unfold typeVc
  split
  · decide
  · split <;> decide

theorem b2n_lt (b : Bool) : b2n b < 2 := by cases b <;> decide

section
variable (dmod dtgt smod stgt type gen job : Nat) (sour last : Bool) (len stream seq : Nat) (payload : Bytes)

theorem cellHeader_lt : cellHeader dmod dtgt smod stgt type gen job sour last len stream seq < 2 ^ 96 := by
  have hVc := typeVc_lt type
  have hSour := b2n_lt sour
  have hLast := b2n_lt last
  unfold cellHeader
  omega

/-- A field below the CRC reads the header and the payload as one number. -/
theorem fld_mkCell {lo w : Nat} (h : lo + w ≤ 480) :
    fld (mkCell dmod dtgt smod stgt type gen job sour last len stream seq payload) lo w =
      bitsN (cellHeader dmod dtgt smod stgt type gen job sour last len stream seq +
        2 ^ 96 * leVal (toLen 48 payload)) lo w := by
  unfold mkCell
  dsimp only
  rw [fld_putFld_ne _ _ (Or.inl h), fld_ofNat _ (by omega)]
  rfl

theorem toLen_length (n : Nat) (bs : Bytes) : (toLen n bs).length = n := by
  unfold toLen
  rw [List.length_append, List.length_take, List.length_replicate]
  omega

theorem type_mkCell :
    Cell.type (mkCell dmod dtgt smod stgt type gen job sour last len stream seq payload) = type % 32 := by
  have hVc := typeVc_lt type
  rw [Cell.type, fld_mkCell _ _ _ _ _ _ _ _ _ _ _ _ _ (by decide), bitsN, cellHeader]
  omega

theorem dstMod_mkCell :
    Cell.dstMod (mkCell dmod dtgt smod stgt type gen job sour last len stream seq payload) = dmod % 4096 := by
  rw [Cell.dstMod, fld_mkCell _ _ _ _ _ _ _ _ _ _ _ _ _ (by decide), bitsN, cellHeader]
  omega

theorem dstTgt_mkCell :
    Cell.dstTgt (mkCell dmod dtgt smod stgt type gen job sour last len stream seq payload) = dtgt % 16 := by
  rw [Cell.dstTgt, fld_mkCell _ _ _ _ _ _ _ _ _ _ _ _ _ (by decide), bitsN, cellHeader]
  omega

theorem len_mkCell :
    Cell.len (mkCell dmod dtgt smod stgt type gen job sour last len stream seq payload) = len % 64 := by
  have hVc := typeVc_lt type
  have hSour := b2n_lt sour
  have hLast := b2n_lt last
  rw [Cell.len, fld_mkCell _ _ _ _ _ _ _ _ _ _ _ _ _ (by decide), bitsN, cellHeader]
  omega

/-- Payload bytes of a cell read those it was made with. -/
theorem pay_mkCell {i n : Nat} (h : i + n ≤ 48) :
    Cell.pay (mkCell dmod dtgt smod stgt type gen job sour last len stream seq payload) i n =
      leVal (((toLen 48 payload).drop i).take n) := by
  have hHead := cellHeader_lt dmod dtgt smod stgt type gen job sour last len stream seq
  rw [Cell.pay, fld_mkCell _ _ _ _ _ _ _ _ _ _ _ _ _ (by omega), bitsN, ← leVal_take, ← leVal_drop, Nat.pow_add,
    Nat.pow_mul, Nat.pow_mul, ← Nat.div_div_eq_div_mul, Nat.add_mul_div_left _ _ (Nat.two_pow_pos 96),
    Nat.div_eq_of_lt hHead, Nat.zero_add]

theorem toLen_part {p : Bytes} {m i n : Nat} (hp : i + n ≤ p.length) (h : i + n ≤ m) :
    ((toLen m p).drop i).take n = (p.drop i).take n := by
  unfold toLen
  rw [List.drop_append_of_le_length (by rw [List.length_take]; omega), List.take_append_of_le_length
    (by rw [List.length_drop, List.length_take]; omega), List.drop_take, List.take_take, Nat.min_eq_left (by omega)]

/-- A value that stands in a cell's payload. -/
theorem pay_mkCell_value {i n v : Nat} {pre post : Bytes} (hPre : pre.length = i) (h : i + n ≤ 48)
    (hPay : payload = pre ++ (leBytes n v ++ post)) :
    Cell.pay (mkCell dmod dtgt smod stgt type gen job sour last len stream seq payload) i n = v % 256 ^ n := by
  have hLen : i + n ≤ payload.length := by
    rw [hPay, List.length_append, List.length_append, leBytes_length, hPre]
    omega
  rw [pay_mkCell _ _ _ _ _ _ _ _ _ _ _ _ _ h, toLen_part hLen h, hPay, ← hPre, List.drop_left,
    List.take_left' (leBytes_length n v), leVal_leBytes]

/-- The first bytes of a cell's payload. -/
theorem payBytes_mkCell {n : Nat} (hn : payload.length = n) (h : n ≤ 48) :
    Cell.payBytes (mkCell dmod dtgt smod stgt type gen job sour last len stream seq payload) 0 n = payload := by
  rw [Cell.payBytes, pay_mkCell _ _ _ _ _ _ _ _ _ _ _ _ _ (by omega), toLen_part (by omega) (by omega), List.drop_zero,
    ← hn, List.take_length, leBytes_leVal]

end

/-! A cell under its transfer's id (R213, R214). -/

section
variable (keep : Bool) (id : Nat) (c : CellW) {lo w : Nat}

/-- Fields that an id does not stand in. -/
theorem fld_withId (h : lo + w ≤ 32 ∨ 35 ≤ lo ∧ lo + w ≤ 60 ∨ 76 ≤ lo ∧ lo + w ≤ 304 ∨ 368 ≤ lo ∧ lo + w ≤ 480) :
    fld (withId keep id c) lo w = fld c lo w := by
  have hStream : fld (putFld c 60 16 id) lo w = fld c lo w := fld_putFld_ne _ _ (by omega)
  unfold withId
  dsimp only
  rw [fld_putFld_ne _ _ (by omega)]
  split
  · rw [fld_putFld_ne _ _ (by omega), hStream]
  · split
    · rw [fld_putFld_ne _ _ (by omega), hStream]
    · split
      · rw [fld_putFld_ne _ _ (by omega), hStream]
      · exact hStream

/-- A cell of the response class keeps its whole payload. -/
theorem fld_withId_keep (h : 76 ≤ lo) (hw : lo + w ≤ 480) : fld (withId true id c) lo w = fld c lo w := by
  unfold withId
  dsimp only
  rw [if_pos rfl, fld_putFld_ne _ _ (by omega), fld_putFld_ne _ _ (by omega), fld_putFld_ne _ _ (by omega)]

theorem type_withId : Cell.type (withId keep id c) = Cell.type c := fld_withId _ _ _ (by decide)
theorem dstMod_withId : Cell.dstMod (withId keep id c) = Cell.dstMod c := fld_withId _ _ _ (by decide)
theorem dstTgt_withId : Cell.dstTgt (withId keep id c) = Cell.dstTgt c := fld_withId _ _ _ (by decide)
theorem len_withId : Cell.len (withId keep id c) = Cell.len c := fld_withId _ _ _ (by decide)

theorem payBytes_withId_keep {n : Nat} (h : n ≤ 48) :
    Cell.payBytes (withId true id c) 0 n = Cell.payBytes c 0 n :=
  congrArg (leBytes n) (fld_withId_keep _ _ (by omega) (by omega))

end

end Sys2Proof.Machine

/-! COPY enters an engine (R139 to R143): the issue, and the copy's start on a free engine. -/

namespace Sys2Proof.Machine

theorem State.issueNext_steered (s : State) (die core : Nat) (w : CmdWord) :
    State.Steered die s (s.issueNext core w) :=
  ⟨(State.issueNext_only s core w).mono rfl, (State.RegsBut.rfl' _ s).of_eq rfl, rfl⟩

section
variable {s s1 : State} {c : CoreId} {w : CmdWord}

theorem State.Enters.mkJob {opc : Nat} (h : s.Enters c opc s1 w) :
    (s1.issueNext c w).mkJob c (s.coreRec c).seq w = s.arrJob s1 c w := by
  obtain ⟨_, _, hRec⟩ := h.1.rec
  unfold State.mkJob
  rw [hRec]
  rfl

/-- A COPY that does not wait as a prefetch copy enters its engine's queue. -/
theorem State.Enters.copyRun (h : s.Enters c 0x50 s1 w)
    (hNow : bit w 14 = false ∨ s1.fget (RF.WRK_WAITMODE_PREFETCH (dieOf c)) ≠ 1)
    (hFree : s1.ceQ (dieOf c) (cpCE w) = []) : exec (.copy c) s = .next
      (((s1.issueNext c w).setCeQ (dieOf c) (cpCE w) [s.arrJob s1 c w]).ceRun (dieOf c) (cpCE w)) := by
  have hNot : ¬(bit w 14 = true ∧ (s1.issueNext c w).fget (RF.WRK_WAITMODE_PREFETCH (dieOf c)) = 1) := by
    rintro ⟨hBit, hMode⟩
    rcases hNow with hClear | hOff
    · exact Bool.false_ne_true (hClear.symm.trans hBit)
    · exact hOff hMode
  have hFree' : (s1.issueNext c w).ceQ (dieOf c) (cpCE w) = [] := hFree
  show Host.Outcome.next (s.issueTo c 0x50 _) = _
  rw [h.issueTo]
  dsimp only
  rw [if_neg hNot, h.mkJob, hFree', List.nil_append]

/-- A COPY that waits as a prefetch copy enters the die's prefetch queue. -/
theorem State.Enters.copyPrefetch (h : s.Enters c 0x50 s1 w)
    (hWaits : bit w 14 = true ∧ s1.fget (RF.WRK_WAITMODE_PREFETCH (dieOf c)) = 1) :
    ∃ t, exec (.copy c) s = .next t ∧ s.Issued t c 0x50 ∧
      (∃ j, t.eng.pfq.get [] (dieOf c) = s1.eng.pfq.get [] (dieOf c) ++ [j] ∧ j.core = c.val ∧ j.word = w ∧
        j.seq = (s.coreRec c).seq ∧ j.started = false) ∧ State.Only [.core, .eng] s1 t := by
  have hIf : bit w 14 = true ∧ (s1.issueNext c w).fget (RF.WRK_WAITMODE_PREFETCH (dieOf c)) = 1 := hWaits
  refine ⟨{ s1.issueNext c w with eng := { (s1.issueNext c w).eng with
    pfq := s1.eng.pfq.set [] (dieOf c) (s1.eng.pfq.get [] (dieOf c) ++ [s.arrJob s1 c w]) } }, ?_,
    h.issued_of_core (by decide) rfl, ⟨_, Tbl.get_set .., rfl, rfl, rfl, rfl⟩,
    only_of_keeps fun _ K k => K.eng (by decide) _ (State.issueNext_keeps (K.mono rfl) _ _ k)⟩
  show Host.Outcome.next (s.issueTo c 0x50 _) = _
  rw [h.issueTo]
  dsimp only
  rw [if_pos hIf, h.mkJob]
  rfl

/-- The state `u` in which a started copy, `j`, fetches its bytes. -/
structure State.CopyTaken (s s1 : State) (c : CoreId) (w : CmdWord) (st : Nat) (u : State) (j : Job) : Prop where
  exec : exec (.copy c) s = .next (u.copyFetch j)
  kin : State.Steered (dieOf c) s1 u
  core : u.core = (s1.issueNext c w).core
  queue : u.ceQ (dieOf c) (cpCE w) = [j]
  job : j = (s.arrJob s1 c w).begins st

theorem State.Enters.copyTaken (h : s.Enters c 0x50 s1 w)
    (hNow : bit w 14 = false ∨ s1.fget (RF.WRK_WAITMODE_PREFETCH (dieOf c)) ≠ 1)
    (hFree : s1.ceQ (dieOf c) (cpCE w) = []) (hPick : pick (s1.copyConds (dieOf c) w) = none)
    (hFresh : s1.staleCore c (s.coreRec c).ctx = false) :
    ∃ u j, State.CopyTaken s s1 c w (okOr (s1.copyEmu (dieOf c) w)) u j := by
  have hKin := s1.issueNext_steered (dieOf c) c w
  have hStart := State.ceRun_starts (s := s1.issueNext c w) (die := dieOf c) (e := cpCE w) (j := s.arrJob s1 c w) rfl
    ((congrArg pick (hKin.copyConds _ _)).trans hPick) ((hKin.staleCore _ _).trans hFresh)
  have hEmu : (s1.issueNext c w).copyEmu (dieOf c) (s.arrJob s1 c w).word = s1.copyEmu (dieOf c) w := hKin.copyEmu ..
  rw [hEmu] at hStart
  exact ⟨_, _, (h.copyRun hNow hFree).trans (congrArg _ hStart), hKin.trans (State.ceTaken_steered ..),
    (State.ceTaken_only ..).1 .core (by decide), State.ceQ_ceTaken .., rfl⟩

/-- A copy within its die. -/
theorem State.Enters.copyLocal (h : s.Enters c 0x50 s1 w) (hSound : s1.Sound)
    (hNow : bit w 14 = false ∨ s1.fget (RF.WRK_WAITMODE_PREFETCH (dieOf c)) ≠ 1)
    (hFree : s1.ceQ (dieOf c) (cpCE w) = []) (hPick : pick (s1.copyConds (dieOf c) w) = none)
    (hFresh : s1.staleCore c (s.coreRec c).ctx = false) {so do_ : Nat} (hSrc : s1.cpSrc (dieOf c) w = .here so)
    (hDst : s1.cpDst (dieOf c) w = .here do_) :
    ∃ t, exec (.copy c) s = .next t ∧ s.Issued t c 0x50 ∧
      OneRuns (t.ceQ (dieOf c) (cpCE w)) c (s.coreRec c).seq w (okOr (s1.copyEmu (dieOf c) w)) (fun j => j.waits = 0 ∧
        j.writes = cpCut do_ w ((cpRows so (cpSSTR w) w).flatMap fun r => s1.peek (dieOf c) r.1 r.2)) ∧
      State.Only [.regs, .core, .eng] s1 t ∧
      State.RegsBut [Reg.WRK_CE_STAT (dieOf c), Reg.WRK_SRAM_ECC (dieOf c), Reg.WCB_FWD (dieOf c)] s1 t := by
  have hDie : dieOf c < 8 := by
    have := c.isLt
    unfold dieOf
    omega
  have hKin := s1.issueNext_steered (dieOf c) c w
  obtain ⟨t, ht, hRuns, -, hOnly, hHeld⟩ := State.ceRun_local (s := s1.issueNext c w) (e := cpCE w)
    (j := s.arrJob s1 c w) (fld_lt ..) rfl rfl (hKin.clean (hSound.clean hDie)) (hKin.sramGood hSound.sramGood)
    ((congrArg pick (hKin.copyConds _ _)).trans hPick) ((hKin.staleCore _ _).trans hFresh)
    ((hKin.cpSrc _ _).trans hSrc) ((hKin.cpDst _ _).trans hDst)
  refine ⟨t, (h.copyRun hNow hFree).trans (congrArg _ ht), h.issued_of_core (by decide) (hOnly.1 .core (by decide)),
    ⟨_, hHeld, rfl, rfl, rfl, rfl, congrArg okOr (hKin.copyEmu ..), rfl, ?_⟩, (hKin.trans hRuns).only,
    (hKin.trans hRuns).regs⟩
  simp only [Job.holds, State.cpData, hKin.peek]
  rfl

end

end Sys2Proof.Machine

/-! Copies from and to another die (R142, R216, R217): one stream out, or one read request. -/

namespace Sys2Proof.Machine

theorem nStreams_one {n : Nat} (h0 : 0 < n) (h : n ≤ streamMax) : nStreams n = 1 := by
  unfold nStreams
  rw [Nat.div_eq_iff (by decide)]
  unfold streamMax at *
  omega

theorem allStreams_one (h : StreamHdr) (sour : Nat → Bool) {bs : Bytes} (h0 : 0 < bs.length)
    (hMax : bs.length ≤ streamMax) :
    allStreams h sour (nStreams bs.length) 0 bs = [oneStream h sour 0 true bs] := by
  rw [nStreams_one h0 hMax, allStreams]
  rw [List.drop_of_length_le hMax, List.take_of_length_le hMax]
  rfl

/-- Bytes that fit in one stream leave in one transfer. -/
theorem State.sendStreams_one (s : State) (tgt : Nat) (o : XOwner) (keep : Bool) (h : StreamHdr)
    (sour : Nat → Bool) {bs : Bytes} (h0 : 0 < bs.length) (hMax : bs.length ≤ streamMax) :
    s.sendStreams tgt o keep h sour bs =
      s.xferStart tgt { owner := o, cells := oneStream h sour 0 true bs, keep := keep } := by
  unfold State.sendStreams
  rw [allStreams_one h sour h0 hMax]
  rfl

theorem State.rows_length (s : State) (die : Nat) (base stride len rows : Nat) :
    ((rowsOf base stride len rows).flatMap fun r => s.peek die r.1 r.2).length = len * rows := by
  have hRow : ∀ r ∈ rowsOf base stride len rows, (s.peek die r.1 r.2).length = len := fun r hr => by
    obtain ⟨k, -, rfl⟩ := List.mem_map.mp hr
    rw [State.peek, List.length_map, List.length_range]
  rw [List.length_flatMap, List.map_congr_left hRow, List.map_const', List.sum_replicate, rowsOf, List.length_map,
    List.length_range, smul_eq_mul, Nat.mul_comm]

theorem State.cpData_length (s : State) (die off : Nat) (w : CmdWord) : (s.cpData die off w).length = cpBytes w :=
  s.rows_length ..

/-- A copy that nothing refuses has bytes to move. -/
theorem State.copyConds_bytes {s : State} {die : Nat} {w : CmdWord} (h : pick (s.copyConds die w) = none) :
    0 < cpBytes w := by
  have hIn : (decide (cpBytes w = 0), 0x5407) ∈ s.copyConds die w := by
    unfold State.copyConds
    simp
  exact Nat.pos_of_ne_zero (of_decide_eq_false (pick_none h hIn (by decide)))

theorem xfer_plain {o : XOwner} (h : ∀ job gid opseq, o ≠ .seg job gid opseq) (y : Xfer) (hy : y.owner = o) :
    y.first = y.cells ∧ y.latency = false := by
  unfold Xfer.first Xfer.latency
  rw [hy]
  cases o
  case seg job gid opseq => exact absurd rfl (h job gid opseq)
  all_goals exact ⟨rfl, rfl⟩

/-! How a copy's fetch and delivery branch on where its two sides lie. -/

section
variable {s v : State} {j : Job}

theorem State.copyFetch_here {so : Nat} (hSrc : s.cpSrc (dieOf j.core) j.word = .here so)
    (hReads : s.copyReads (dieOf j.core) so j = (v, true)) :
    s.copyFetch j = v.copyDeliver j (v.cpData (dieOf j.core) so j.word) := by
  unfold State.copyFetch
  dsimp only
  rw [hSrc]
  dsimp only
  rw [hReads]
  rfl

theorem State.copyFetch_far {md tgt off : Nat} (hSrc : s.cpSrc (dieOf j.core) j.word = .far md tgt off) :
    ∃ dst dstr en, s.copyFetch j =
      (s.mapCopy j.core j.seq fun x => { x with waits := nStreams (cpBytes j.word), sent := true }).sendRdreq
        (dieOf j.core) (.cmd j.core j.seq) md tgt j.ctx.job off j.ctx.pgen (cpLEN j.word) (cpSSTR j.word)
        (cpROWS j.word) dst dstr (cpRCNT j.word) en := by
  unfold State.copyFetch
  dsimp only
  rw [hSrc]
  exact ⟨_, _, _, rfl⟩

theorem State.copyDeliver_far {md tgt off : Nat} (hDst : s.cpDst (dieOf j.core) j.word = .far md tgt off)
    (bs : Bytes) : s.copyDeliver j bs =
      (s.mapCopy j.core j.seq fun x => { x with waits := nStreams bs.length, sent := true }).sendStreams
        (dieOf j.core) (.cmd j.core j.seq) false
        (s.cpHdr j md tgt off) (s.cpSour (dieOf j.core) j.word) bs := by
  unfold State.copyDeliver
  dsimp only
  rw [hDst]

theorem State.copyDeliver_host {a : Nat} (hDst : s.cpDst (dieOf j.core) j.word = .host a) (bs : Bytes) :
    s.copyDeliver j bs = (s.mapCopy j.core j.seq fun x => { x with sent := true }).copyToHost j a bs := by
  unfold State.copyDeliver
  dsimp only
  rw [hDst]

end

section
variable {s s1 u : State} {c : CoreId} {w : CmdWord} {st : Nat} {j : Job}

theorem dieOf_core_lt (c : CoreId) : dieOf c < 8 := by
  have := c.isLt
  unfold dieOf
  omega

theorem cpCE_lt (w : CmdWord) : cpCE w < 4 := fld_lt ..

theorem State.CopyTaken.named (h : State.CopyTaken s s1 c w st u j) :
    j.core = c ∧ j.seq = (s.coreRec c).seq ∧ j.word = w ∧ j.ctx = (s.coreRec c).ctx ∧ j.started = true ∧
      j.status = st := by
  rw [h.job]
  exact ⟨rfl, rfl, rfl, rfl, rfl, rfl⟩

/-- What a transfer that starts at once under a free id leaves. -/
structure State.Started (s t : State) (tgt id : Nat) (x : Xfer) : Prop where
  out : t.out = s.out ++ x.cells.map fun c => Out.cell (withId x.keep id c)
  kept : (t.fab.xfers.get {} (xKey tgt id)).cells = x.cells.map (withId x.keep id)
  only : State.Only [.out, .fab] s t

theorem State.xferStart_started {s : State} {tgt id : Nat} {x : Xfer} (h : s.freeId tgt = some id)
    (hPlain : ∀ job gid opseq, x.owner ≠ .seg job gid opseq) : s.Started (s.xferStart tgt x) tgt id x := by
  rw [State.xferStart_free h (xfer_plain hPlain)]
  refine ⟨?_, ?_, only_of_keeps fun _ K k => K.outs (by decide) _ (K.fab (by decide) _ k)⟩
  · simp [State.emits, Function.comp_def]
  · exact congrArg Xfer.cells (Tbl.get_put ..)

/-- A copy whose bytes or request leave in one transfer. -/
theorem State.CopyTaken.sends (h : State.CopyTaken s s1 c w st u j) (hEnters : s.Enters c 0x50 s1 w) {m : State}
    {k : Job} {x : Xfer} {id : Nat} (hFetch : u.copyFetch j = m.xferStart (dieOf c) x)
    (hMoved : State.Only [.regs, .eng] u m) (hQueue : m.ceQ (dieOf c) (cpCE w) = [k])
    (hId : s1.freeId (dieOf c) = some id) (hPlain : ∀ job gid opseq, x.owner ≠ .seg job gid opseq) :
    ∃ t, Machine.exec (.copy c) s = .next t ∧ s.Issued t c 0x50 ∧ t.ceQ (dieOf c) (cpCE w) = [k] ∧
      t.out = s1.out ++ (x.cells.map fun y => Out.cell (withId x.keep id y)) ∧
      State.Only [.out, .regs, .core, .eng, .fab] s1 t := by
  have hFab : m.fab = s1.fab := (hMoved.1 .fab (by decide)).trans h.kin.fab
  have hId' : m.freeId (dieOf c) = some id := by
    rw [← hId, State.freeId, hFab]
    rfl
  obtain ⟨hOut, -, hOnly⟩ := State.xferStart_started hId' hPlain
  refine ⟨_, h.exec.trans (congrArg _ hFetch), hEnters.issued_of_core (by decide) ?_, ?_, ?_, ?_⟩
  · exact (hOnly.1 .core (by decide)).trans ((hMoved.1 .core (by decide)).trans h.core)
  · rw [State.ceQ, hOnly.1 .eng (by decide)]
    exact hQueue
  · rw [hOut, hMoved.1 .out (by decide), h.kin.out]
  · exact (h.kin.only.mono rfl).trans ((hMoved.mono rfl).trans (hOnly.mono rfl))

/-- A copy to another die: one stream. -/
theorem State.CopyTaken.toDie (h : State.CopyTaken s s1 c w st u j) (hEnters : s.Enters c 0x50 s1 w)
    (hSound : s1.Sound) (hBytes : 0 < cpBytes w) {so md tgt off id : Nat} (hSrc : s1.cpSrc (dieOf c) w = .here so)
    (hDst : s1.cpDst (dieOf c) w = .far md tgt off) (hMax : cpBytes w ≤ streamMax)
    (hId : s1.freeId (dieOf c) = some id) :
    ∃ t, Machine.exec (.copy c) s = .next t ∧ s.Issued t c 0x50 ∧
      OneRuns (t.ceQ (dieOf c) (cpCE w)) c (s.coreRec c).seq w st (fun j => j.waits = 1 ∧ j.sent = true) ∧
      t.out = s1.out ++ (oneStream (s1.cpHdr { core := c.val, ctx := (s.coreRec c).ctx, word := w } md tgt off)
        (s1.cpSour (dieOf c) w) 0 true ((cpRows so (cpSSTR w) w).flatMap fun r =>
          s1.peek (dieOf c) r.1 r.2)).map (fun x => Out.cell (withId false id x)) ∧
      State.Only [.out, .regs, .core, .eng, .fab] s1 t := by
  obtain ⟨hCore, hSeq, hWord, hCtx, hRun, hStatus⟩ := h.named
  obtain ⟨v, hReads, hCount⟩ := State.memReads_good (h.kin.clean (hSound.clean (dieOf_core_lt c)))
    (h.kin.sramGood hSound.sramGood)
    (cpRows so (cpSSTR w) w ++ if cpSM w then [(sramBase + (cpMap w).1, (cpMap w).2)] else [])
  have hKin : State.Steered (dieOf c) s1 v := h.kin.trans (.recounted hCount)
  have hData : v.cpData (dieOf c) so w = s1.cpData (dieOf c) so w := by
    unfold State.cpData
    simp only [hKin.peek]
  have hLen := s1.cpData_length (dieOf c) so w
  obtain ⟨bs, hBs⟩ : ∃ bs, bs = s1.cpData (dieOf c) so w := ⟨_, rfl⟩
  rw [← hBs] at hData hLen
  have hHdr : v.cpHdr j md tgt off =
      s1.cpHdr { core := c.val, ctx := (s.coreRec c).ctx, word := w } md tgt off := by
    unfold State.cpHdr
    rw [hKin.module, hKin.gen, hCore, hCtx, hWord]
  have hFetch := State.copyFetch_here (s := u) (v := v) (j := j) (so := so) (by rw [hCore, hWord, h.kin.cpSrc, hSrc])
    (by rw [State.copyReads, hCore, hWord]; exact hReads)
  have hSend := State.copyDeliver_far (s := v) (j := j) (md := md) (tgt := tgt) (off := off)
    (by rw [hCore, hWord, hKin.cpDst, hDst]) bs
  rw [hCore, hWord, hData, hSend, hCore, hSeq, hWord, hHdr, hKin.cpSour,
    State.sendStreams_one _ _ _ _ _ _ (by omega) (by omega)] at hFetch
  obtain ⟨t, ht, hIssued, hRuns, hOut, hOnly⟩ := h.sends hEnters hFetch
    ((hCount.only.mono rfl).trans ((v.mapCopy_only ..).mono rfl))
    (State.ceQ_mapCopy_single (by rw [State.ceQ, hCount.eng]; exact h.queue) hCore hSeq (cpCE_lt w) _) hId (by simp)
  refine ⟨t, ht, hIssued, ⟨_, hRuns, hCore, hSeq, hWord, hRun, hStatus,
    nStreams_one (by omega) (by omega), rfl⟩, ?_, hOnly⟩
  rw [hOut, hBs]
  rfl

theorem State.copyEnd_far_lt {s : State} {die kind addr md tgt off : Nat}
    (h : s.copyEnd die kind addr = .far md tgt off) : off < 2 ^ 40 := by
  unfold State.copyEnd at h
  split at h
  · cases h
  · split at h
    · dsimp only at h
      split at h
      · cases h
      · obtain ⟨rfl, rfl, rfl⟩ := CopyEnd.far.inj h
        exact Nat.mod_lt _ (by decide)
    · split at h <;> cases h

/-- The fields by which a read request names what it asks for (R217). -/
theorem rdreq_fields (md tgt smod stgt gen job off pgen lenRow sstride rows id : Nat) (rest : Bytes) :
    ∀ x, x = withId false id (mkCell md tgt smod stgt 3 gen job false true 48 0 0 (addrPay off pgen
      (leBytes 3 lenRow ++ leBytes 4 sstride ++ leBytes 2 rows ++ rest))) →
    Cell.type x = 3 ∧ Cell.dstMod x = md % 4096 ∧ Cell.dstTgt x = tgt % 16 ∧ Cell.off x = off % 256 ^ 5 ∧
      Cell.pay x 8 3 = lenRow % 256 ^ 3 ∧ Cell.pay x 15 2 = rows % 256 ^ 2 := by
  rintro x rfl
  refine ⟨?_, ?_, ?_, ?_, ?_, ?_⟩
  · rw [type_withId, type_mkCell]
  · rw [dstMod_withId, dstMod_mkCell]
  · rw [dstTgt_withId, dstTgt_mkCell]
  · exact (fld_withId _ _ _ (by decide)).trans (pay_mkCell_value _ _ _ _ _ _ _ _ _ _ _ _ _ (pre := []) rfl (by decide)
      (by simp only [addrPay, List.append_assoc, List.nil_append]; rfl))
  · exact (fld_withId _ _ _ (by decide)).trans (pay_mkCell_value _ _ _ _ _ _ _ _ _ _ _ _ _
      (pre := leBytes 5 off ++ [BitVec.ofNat 8 pgen, 0, 0]) (by simp [leBytes_length]) (by decide)
      (by simp only [addrPay, List.append_assoc]; rfl))
  · exact (fld_withId _ _ _ (by decide)).trans (pay_mkCell_value _ _ _ _ _ _ _ _ _ _ _ _ _
      (pre := leBytes 5 off ++ ([BitVec.ofNat 8 pgen, 0, 0] ++ (leBytes 3 lenRow ++ leBytes 4 sstride)))
      (by simp [leBytes_length]) (by decide) (by simp only [addrPay, List.append_assoc]; rfl))

/-- A read request is a transfer of one cell. -/
theorem State.sendRdreq_cell (s : State) (die : Nat) (o : XOwner) (md tgt job off pgen lenRow sstride rows dst dstride
    rcnt : Nat) (rcen : Bool) : ∃ acks rest,
    s.sendRdreq die o md tgt job off pgen lenRow sstride rows dst dstride rcnt rcen = s.xferStart die
      { owner := o, acks := acks, cells := [mkCell md tgt s.module die 3 s.gen job false true 48 0 0 (addrPay off pgen
        (leBytes 3 lenRow ++ leBytes 4 sstride ++ leBytes 2 rows ++ rest))] } := by
  refine ⟨nStreams (lenRow * rows), leBytes 7 dst ++ (leBytes 4 dstride ++
    (leBytes 2 (rcnt % 1024 + 2 ^ 15 * b2n rcen) ++ (leBytes 2 (s.module % 4096 + 4096 * die) ++ leBytes 2 0))), ?_⟩
  unfold State.sendRdreq
  simp only [List.append_assoc]

/-- A copy from another die: one read request. -/
theorem State.CopyTaken.fromDie (h : State.CopyTaken s s1 c w st u j) (hEnters : s.Enters c 0x50 s1 w)
    {md tgt off id : Nat} (hSrc : s1.cpSrc (dieOf c) w = .far md tgt off) (hId : s1.freeId (dieOf c) = some id) :
    ∃ t x, Machine.exec (.copy c) s = .next t ∧ s.Issued t c 0x50 ∧
      OneRuns (t.ceQ (dieOf c) (cpCE w)) c (s.coreRec c).seq w st
        (fun j => j.waits = nStreams (cpBytes w) ∧ j.sent = true) ∧
      t.out = s1.out ++ [.cell x] ∧ Cell.type x = 3 ∧ Cell.dstMod x = md % 4096 ∧ Cell.dstTgt x = tgt % 16 ∧
      Cell.off x = off ∧ Cell.pay x 8 3 = cpLEN w ∧ Cell.pay x 15 2 = cpROWS w ∧
      State.Only [.out, .regs, .core, .eng, .fab] s1 t := by
  obtain ⟨hCore, hSeq, hWord, -, hRun, hStatus⟩ := h.named
  obtain ⟨dst, dstr, en, hFetch⟩ := State.copyFetch_far (s := u) (j := j) (md := md) (tgt := tgt) (off := off)
    (by rw [hCore, hWord, h.kin.cpSrc, hSrc])
  rw [hCore, hSeq, hWord] at hFetch
  obtain ⟨acks, rest, hSend⟩ := State.sendRdreq_cell
    (u.mapCopy c (s.coreRec c).seq fun x => { x with waits := nStreams (cpBytes w), sent := true })
    (dieOf c) (.cmd c (s.coreRec c).seq) md tgt j.ctx.job off j.ctx.pgen (cpLEN w) (cpSSTR w) (cpROWS w) dst dstr
    (cpRCNT w) en
  obtain ⟨t, ht, hIssued, hRuns, hOut, hOnly⟩ := h.sends hEnters (hFetch.trans hSend) ((u.mapCopy_only ..).mono rfl)
    (State.ceQ_mapCopy_single h.queue hCore hSeq (cpCE_lt w) _) hId (by simp)
  refine ⟨t, _, ht, hIssued, ⟨_, hRuns, hCore, hSeq, hWord, hRun, hStatus, rfl, rfl⟩, hOut, ?_⟩
  obtain ⟨hType, hMod, hTgt, hOff, hLen, hRows⟩ :=
    rdreq_fields md tgt _ _ _ _ off _ (cpLEN w) _ (cpROWS w) id rest _ rfl
  exact ⟨hType, hMod, hTgt, hOff.trans (Nat.mod_eq_of_lt (State.copyEnd_far_lt hSrc)),
    hLen.trans (Nat.mod_eq_of_lt (fld_lt ..)), hRows.trans (Nat.mod_eq_of_lt (fld_lt ..)), hOnly⟩

end

end Sys2Proof.Machine

/-! Copies from and to host memory (R351, R355, R370): read requests, and writes through the host-write buffer with the
read that flushes them. -/

namespace Sys2Proof.Machine

/-! Windows. -/

theorem State.inWindows_sub {s : State} {fn a len a' len' : Nat} {write : Bool} (h : s.inWindows fn a len write = true)
    (hLow : a ≤ a') (hHigh : a' + len' ≤ a + len) : s.inWindows fn a' len' write = true := by
  unfold State.inWindows at h ⊢
  obtain ⟨hOpen, hAny⟩ := Bool.and_eq_true_iff.mp h
  obtain ⟨i, hi, hOk⟩ := List.any_eq_true.mp hAny
  refine Bool.and_eq_true_iff.mpr ⟨hOpen, List.any_eq_true.mpr ⟨i, hi, ?_⟩⟩
  unfold State.windowOk at hOk ⊢
  simp only [Bool.and_eq_true, decide_eq_true_eq] at hOk ⊢
  obtain ⟨⟨hDir, hBase⟩, hLimit⟩ := hOk
  exact ⟨⟨hDir, hBase.trans hLow⟩, hHigh.trans hLimit⟩

section
variable {s : State} {die : Nat} {w : CmdWord} (hPick : pick (s.copyConds die w) = none)
include hPick

/-- Rows of a copy's host source, and of its host destination, lie in windows. -/
theorem State.copyConds_source {a : Nat} (h : s.cpSrc die w = .host a) :
    ∀ r ∈ rowsOf a (cpSSTR w) (cpLEN w) (cpROWS w), s.inWindows (s.owner die) r.1 r.2 false = true := by
  have hIn : ((rowsOf a (cpSSTR w) (cpLEN w) (cpROWS w)).any fun r => !s.inWindows (s.owner die) r.1 r.2 false,
      0x6B01) ∈ s.copyConds die w := by
    have hSrc : s.copyEnd die (fld w 10 2) (cpSRC w) = .host a := h
    unfold State.copyConds State.endConds
    simp [hSrc]
  intro r hr
  have hNone := List.any_eq_false.mp (pick_none hPick hIn (by decide)) r hr
  simpa using hNone

theorem State.copyConds_dest {a : Nat} (h : s.cpDst die w = .host a) :
    ∀ r ∈ rowsOf a (cpDSTR w) (cpLEN w) (cpROWS w), s.inWindows (s.owner die) r.1 r.2 true = true := by
  have hIn : ((rowsOf a (cpDSTR w) (cpLEN w) (cpROWS w)).any fun r => !s.inWindows (s.owner die) r.1 r.2 true,
      0x6B01) ∈ s.copyConds die w := by
    have hDst : s.copyEnd die (fld w 12 2) (cpDST w) = .host a := h
    unfold State.copyConds State.endConds
    simp [hDst]
  intro r hr
  have hNone := List.any_eq_false.mp (pick_none hPick hIn (by decide)) r hr
  simpa using hNone

end

/-! Read requests. -/

theorem State.freeTag_first {s : State} (h : s.host.reqs = []) (k : s.host.quar = []) : s.freeTag = some 0 := by
  unfold State.freeTag
  rw [h, k, if_neg (by decide)]
  rfl

/-- The only waiting read request issues under tag 0, where nothing else is outstanding. -/
theorem State.reqRun_one {s : State} {q : HReq} (hWaits : s.host.rq = [q]) (hReqs : s.host.reqs = [])
    (hQuar : s.host.quar = []) (hBme : s.bmeOn q.fn = true)
    (hWindow : s.inWindows q.fn q.addr q.len (decide (q.kind = 4)) = true) :
    s.reqRun.out = s.out ++ [.hostRead q.fn q.addr q.len 0] ∧ State.Only [.out, .host] s s.reqRun := by
  have hIn : (!s.host.rq.contains q || !s.bmeOn q.fn) = false := by simp [hWaits, hBme]
  have hRun : ∃ x, s.reqRun = ({ s with host := x } : State).emit (.hostRead q.fn q.addr q.len 0) := by
    rw [State.reqRun, hWaits, State.reqPump, hIn, hWindow, State.freeTag_first hReqs hQuar]
    exact ⟨_, rfl⟩
  obtain ⟨x, hRun⟩ := hRun
  rw [hRun]
  exact ⟨rfl, only_of_keeps fun _ K k => K.outs (by decide) _ (K.host (by decide) _ k)⟩

theorem State.reqAdd_one {s : State} {q : HReq} (hRq : s.host.rq = []) (hReqs : s.host.reqs = [])
    (hQuar : s.host.quar = []) (hBme : s.bmeOn q.fn = true)
    (hWindow : s.inWindows q.fn q.addr q.len (decide (q.kind = 4)) = true) :
    (s.reqAdd [q]).out = s.out ++ [.hostRead q.fn q.addr q.len 0] ∧ State.Only [.out, .host] s (s.reqAdd [q]) := by
  have hAdded : State.Only [.host] s { s with host := { s.host with rq := s.host.rq ++ [q] } } :=
    only_of_keeps fun _ K k => K.host (by decide) _ k
  obtain ⟨hOut, hOnly⟩ := State.reqRun_one (s := { s with host := { s.host with rq := s.host.rq ++ [q] } }) (q := q)
    (by rw [hRq]; rfl) hReqs hQuar hBme hWindow
  exact ⟨hOut, (hAdded.mono rfl).trans hOnly⟩

theorem cut4k_one {fuel addr len off : Nat} (h0 : 0 < len) (h : addr % 4096 + len ≤ 4096) :
    cut4k (fuel + 2) addr len off = [(addr, len, off)] := by
  have hMin : min len (4096 - addr % 4096) = len := by omega
  rw [cut4k, if_neg (by omega)]
  dsimp only
  rw [hMin, Nat.sub_self, cut4k, if_pos rfl]

theorem State.copyFetch_host {s : State} {j : Job} {a : Nat} (hSrc : s.cpSrc (dieOf j.core) j.word = .host a) :
    s.copyFetch j = (s.mapCopy j.core j.seq fun x => { x with waits := 1 }).reqAdd
      ((List.range (cpROWS j.word)).flatMap fun r =>
        (cut4k (cpLEN j.word / 4096 + 2) (a + r * cpSSTR j.word) (cpLEN j.word) (r * cpLEN j.word)).map fun p =>
          ({ fn := s.owner (dieOf j.core), kind := 3, core := j.core, seq := j.seq, addr := p.1, len := p.2.1,
             off := p.2.2 } : HReq)) := by
  unfold State.copyFetch
  dsimp only
  rw [hSrc]

section
variable {s s1 u : State} {c : CoreId} {w : CmdWord} {st : Nat} {j : Job}

/-- A copy of one row of host memory within a 4 KiB page: one read request. -/
theorem State.CopyTaken.fromHost (h : State.CopyTaken s s1 c w st u j) (hEnters : s.Enters c 0x50 s1 w)
    (hPick : pick (s1.copyConds (dieOf c) w) = none) {a : Nat} (hSrc : s1.cpSrc (dieOf c) w = .host a)
    (hRq : s1.host.rq = []) (hReqs : s1.host.reqs = []) (hQuar : s1.host.quar = [])
    (hBme : s1.bmeOn (s1.owner (dieOf c)) = true) (hRows : cpROWS w = 1) (hPage : a % 4096 + cpLEN w ≤ 4096) :
    ∃ t, Machine.exec (.copy c) s = .next t ∧ s.Issued t c 0x50 ∧
      OneRuns (t.ceQ (dieOf c) (cpCE w)) c (s.coreRec c).seq w st (fun j => j.waits = 1) ∧
      t.out = s1.out ++ [.hostRead (s1.owner (dieOf c)) a (cpLEN w) 0] ∧
      State.Only [.out, .regs, .core, .eng, .host] s1 t := by
  obtain ⟨hCore, hSeq, hWord, -, hRun, hStatus⟩ := h.named
  have hLen : 0 < cpLEN w := by
    have := State.copyConds_bytes hPick
    rw [cpBytes, hRows] at this
    omega
  have hFetch := State.copyFetch_host (s := u) (j := j) (a := a) (by rw [hCore, hWord, h.kin.cpSrc, hSrc])
  rw [hCore, hSeq, hWord, hRows, List.range_one, List.flatMap_singleton, Nat.zero_mul, Nat.zero_mul,
    Nat.add_zero a,
    cut4k_one hLen hPage, List.map_singleton, h.kin.owner] at hFetch
  obtain ⟨m, hm⟩ : ∃ m, m = u.mapCopy c (s.coreRec c).seq fun x => { x with waits := 1 } := ⟨_, rfl⟩
  have hMoved : State.Steered (dieOf c) s1 m := hm ▸ h.kin.trans (u.mapCopy_steered ..)
  have hQueue : m.ceQ (dieOf c) (cpCE w) = [{ j with waits := 1 }] :=
    hm ▸ State.ceQ_mapCopy_single h.queue hCore hSeq (cpCE_lt w) _
  have hCores : m.core = (s1.issueNext c w).core := hm ▸ ((u.mapCopy_only ..).1 .core (by decide)).trans h.core
  have hHost := hMoved.host
  have hWindow := State.copyConds_source hPick hSrc (a, cpLEN w) (List.mem_map.mpr ⟨0, by simp [hRows], by simp⟩)
  rw [← hm] at hFetch
  obtain ⟨hOut, hOnly⟩ := State.reqAdd_one (s := m)
    (q := { fn := s1.owner (dieOf c), kind := 3, core := c, seq := (s.coreRec c).seq, addr := a, len := cpLEN w })
    (by rw [hHost, hRq]) (by rw [hHost, hReqs]) (by rw [hHost, hQuar]) ((hMoved.bmeOn _).trans hBme)
    ((hMoved.inWindows ..).trans hWindow)
  refine ⟨_, h.exec.trans (congrArg _ hFetch), hEnters.issued_of_core (by decide) ?_,
    ⟨{ j with waits := 1 }, ?_, hCore, hSeq, hWord, hRun, hStatus, rfl⟩, ?_, ?_⟩
  · exact (hOnly.1 .core (by decide)).trans hCores
  · rw [State.ceQ, hOnly.1 .eng (by decide)]
    exact hQueue
  · rw [hOut, hMoved.out]
  · exact (hMoved.only.mono rfl).trans (hOnly.mono rfl)

end

end Sys2Proof.Machine

/-! Copies to host memory (R351, R370): the host-write buffer lets every write of the copy go at once, and the read that
flushes them follows. -/

namespace Sys2Proof.Machine

/-! The host-write buffer. -/

/-- A write that its function, its die's port and the windows let go. -/
structure State.MayGo (s : State) (h : HWrite) : Prop where
  bme : s.bmeOn h.fn = true
  port : h.gate.any (fun d => !s.diePortUp d) = false
  window : s.inWindows h.fn h.addr h.data.length true = true

/-- The state once a write at the head of the buffer has gone. -/
def State.hostOut (s : State) (h : HWrite) (rest : List HWrite) : State :=
  (({ s with host := { s.host with wq := rest, credits := s.host.credits - h.data.length } } : State).emit
    (.hostWrite h.fn h.addr true h.data)).hwDone h

theorem State.hwPump_goes {s : State} {h : HWrite} {rest l : List HWrite} (hHead : s.host.wq = h :: rest)
    (hGo : s.MayGo h) (hCredit : h.data.length ≤ s.host.credits) :
    State.hwPump (h :: l) s false = State.hwPump l (s.hostOut h rest) false := by
  have hStays : (false || !s.host.wq.contains h || !s.bmeOn h.fn || h.gate.any (fun d => !s.diePortUp d)) = false := by
    rw [hGo.bme, hGo.port, hHead]
    simp
  have hFirst : (s.host.wq.findIdx? fun x => decide (x = h)).getD 0 = 0 := by
    rw [hHead, List.findIdx?_cons, if_pos (decide_eq_true rfl)]
    rfl
  rw [State.hwPump, hStays, if_neg Bool.false_ne_true, hGo.window, if_neg (by decide), if_neg (by omega)]
  dsimp only
  rw [hFirst, hHead]
  rfl

/-- The read that flushes a copy's writes, behind its last one. -/
def HWrite.flush (h : HWrite) (core seq : Nat) : HReq :=
  { fn := h.fn, kind := 4, core := core, seq := seq, addr := h.addr }

/-- What the going of one of a copy's writes leaves: with the last one the flushing read waits. -/
structure State.WentOut (s t : State) (h : HWrite) (rest : List HWrite) (core seq : Nat) : Prop where
  out : t.out = s.out ++ [.hostWrite h.fn h.addr true h.data]
  host : t.host = { s.host with wq := rest, credits := s.host.credits - h.data.length
                                rq := if rest = [] then s.host.rq ++ [h.flush core seq] else s.host.rq }
  queue : ∀ e < 4, t.ceQ (dieOf core) e =
    (s.ceQ (dieOf core) e).map (Job.changedBy core seq fun j => { j with waits := j.waits - 1 })
  only : State.Only [.out, .eng, .host] s t

theorem State.hostOut_copy {s : State} {h : HWrite} {rest : List HWrite} {core seq : Nat}
    (hOwner : h.owner = .cmd core seq) (hRest : ∀ x ∈ rest, x.owner = .cmd core seq) :
    s.WentOut (s.hostOut h rest) h rest core seq := by
  obtain ⟨s0, hs0⟩ : ∃ s0, s0 = (({ s with host := { s.host with
      wq := rest, credits := s.host.credits - h.data.length } } : State).emit (.hostWrite h.fn h.addr true h.data)) :=
    ⟨_, rfl⟩
  have hOnly0 : State.Only [.out, .host] s s0 :=
    hs0 ▸ only_of_keeps fun _ K k => K.outs (by decide) _ (K.host (by decide) _ k)
  have hAck := s0.mapCopy_only core seq fun j => j.acked stOK 0
  have hHost : (s0.copyAck core seq stOK 0).host = s0.host := hAck.1 .host (by decide)
  have hAny : ((s0.copyAck core seq stOK 0).host.wq.any fun x => decide (x.owner = h.owner)) = !rest.isEmpty := by
    rw [hHost, hs0]
    cases rest with
    | nil => rfl
    | cons x l => exact List.any_eq_true.mpr ⟨x, List.mem_cons_self, by rw [hRest x List.mem_cons_self, hOwner]; simp⟩
  have hAcked : (fun j : Job => j.acked stOK 0) = fun j => { j with waits := j.waits - 1 } := by
    funext j
    exact if_neg fun k => k.2 rfl
  have hQueue : ∀ e < 4, (s0.copyAck core seq stOK 0).ceQ (dieOf core) e =
      (s.ceQ (dieOf core) e).map (Job.changedBy core seq fun j => { j with waits := j.waits - 1 }) := fun e he => by
    rw [State.copyAck, State.ceQ_mapCopy _ _ _ _ he, hAcked, hs0]
    rfl
  have hOut : (s0.copyAck core seq stOK 0).out = s.out ++ [.hostWrite h.fn h.addr true h.data] :=
    (hAck.1 .out (by decide)).trans (by rw [hs0]; rfl)
  have hOnly : State.Only [.out, .eng, .host] s (s0.copyAck core seq stOK 0) :=
    (hOnly0.mono rfl).trans (hAck.mono rfl)
  have hDone : s.hostOut h rest = if rest = [] then
      { s0.copyAck core seq stOK 0 with host := { (s0.copyAck core seq stOK 0).host with
        rq := (s0.copyAck core seq stOK 0).host.rq ++ [h.flush core seq] } }
      else s0.copyAck core seq stOK 0 := by
    unfold State.hostOut State.hwDone
    rw [← hs0, hOwner]
    dsimp only
    rw [hOwner] at hAny
    rw [hAny]
    cases rest <;> rfl
  rw [hDone]
  split
  · rename_i hLast
    refine ⟨hOut, ?_, hQueue, hOnly.trans (only_of_keeps fun _ K k => K.host (by decide) _ k)⟩
    rw [if_pos hLast]
    dsimp only
    rw [hHost, hs0]
    rfl
  · rename_i hMore
    exact ⟨hOut, by rw [if_neg hMore, hHost, hs0]; rfl, hQueue, hOnly⟩

theorem State.MayGo.after {s t : State} {g : HWrite} (h : s.MayGo g) (hReg : ∀ o, t.reg o = s.reg o)
    (hBme : t.host.bme = s.host.bme) (hStop : t.host.dmaStop = s.host.dmaStop) : t.MayGo g := by
  obtain ⟨hMaster, hPort, hWindow⟩ := h
  refine ⟨?_, ?_, ?_⟩
  · rw [← hMaster, State.bmeOn, hBme]
    rfl
  · rw [← hPort]
    unfold State.diePortUp State.dieAbsorbs State.dieState State.fget
    simp only [hReg]
  · refine Eq.trans ?_ hWindow
    unfold State.inWindows State.windowOk
    simp only [hReg, hStop]

/-- What the going of all of a copy's writes leaves, `last` the last of them. -/
structure State.AllOut (s t : State) (ws : List HWrite) (last : HWrite) (core seq e : Nat) (k : Job) : Prop where
  out : t.out = s.out ++ ws.map fun h => Out.hostWrite h.fn h.addr true h.data
  host : ∃ credits, t.host = { s.host with wq := [], credits := credits, rq := [last.flush core seq] }
  queue : t.ceQ (dieOf core) e = [{ k with waits := k.waits - ws.length }]
  only : State.Only [.out, .eng, .host] s t

/-- A copy's writes go one after the other. -/
theorem State.hwPump_copy {core seq e : Nat} (he : e < 4) (ws : List HWrite) : ∀ {s : State} {k : Job} {last : HWrite},
    s.host.wq = ws → ws.getLast? = some last → (∀ h ∈ ws, h.owner = .cmd core seq ∧ s.MayGo h) →
    (ws.map fun h => h.data.length).sum ≤ s.host.credits → s.host.rq = [] → s.ceQ (dieOf core) e = [k] →
    k.core = core → k.seq = seq → s.AllOut (State.hwPump ws s false) ws last core seq e k := by
  induction ws with
  | nil => exact fun _ h => absurd h (by simp)
  | cons h rest ih =>
    intro s k last hWq hLast hAll hCredits hRq hQueue hCore hSeq
    obtain ⟨hOwner, hGo⟩ := hAll h List.mem_cons_self
    rw [List.map_cons, List.sum_cons] at hCredits
    rw [State.hwPump_goes hWq hGo (by omega)]
    have hRest : ∀ x ∈ rest, x.owner = .cmd core seq := fun x hx => (hAll x (List.mem_cons_of_mem _ hx)).1
    obtain ⟨hOut, hHost, hQueues, hOnly⟩ := State.hostOut_copy (s := s) hOwner hRest
    have hQueue' : (s.hostOut h rest).ceQ (dieOf core) e = [{ k with waits := k.waits - 1 }] := by
      rw [hQueues e he, hQueue, List.map_singleton, Job.changedBy, if_pos ⟨hCore, hSeq⟩]
    cases rest with
    | nil =>
      obtain rfl : h = last := by simpa using hLast
      refine ⟨hOut, ⟨s.host.credits - h.data.length, ?_⟩, hQueue', hOnly⟩
      show (s.hostOut h []).host = _
      rw [hHost, if_pos rfl, hRq]
      rfl
    | cons x l =>
      rw [if_neg (List.cons_ne_nil x l)] at hHost
      obtain ⟨hOuts, ⟨credits, hHosts⟩, hQueueEnd, hOnlyEnd⟩ := ih (s := s.hostOut h (x :: l)) (last := last)
        (by rw [hHost]) (by simpa using hLast)
        (fun y hy => ⟨hRest y hy, (hAll y (List.mem_cons_of_mem _ hy)).2.after (hOnly.1 .regs (by decide))
          (by rw [hHost]) (by rw [hHost])⟩) (by rw [hHost]; show _ ≤ s.host.credits - h.data.length; omega) (by rw [hHost]; exact hRq)
        hQueue' hCore hSeq
      refine ⟨?_, ⟨credits, ?_⟩, ?_, hOnly.trans hOnlyEnd⟩
      · rw [hOuts, hOut, List.append_assoc]
        rfl
      · rw [hHosts, hHost]
      · have hCount : k.waits - 1 - (x :: l).length = k.waits - (h :: x :: l).length := by
          simp only [List.length_cons]
          omega
        rw [hQueueEnd, ← hCount]

theorem State.hwPump_nil (s : State) (b : Bool) : State.hwPump [] s b = s := by rw [State.hwPump]

/-- The host-write buffer of one copy empties, and the read that flushes it goes. -/
theorem State.hostRun_copy {s : State} {ws : List HWrite} {last : HWrite} {core seq e : Nat} {k : Job} (he : e < 4)
    (hWq : s.host.wq = ws) (hLast : ws.getLast? = some last)
    (hAll : ∀ h ∈ ws, h.owner = .cmd core seq ∧ s.MayGo h)
    (hCredits : (ws.map fun h => h.data.length).sum ≤ s.host.credits) (hRq : s.host.rq = [])
    (hReqs : s.host.reqs = []) (hQuar : s.host.quar = []) (hDescs : s.host.descs = [])
    (hQueue : s.ceQ (dieOf core) e = [k]) (hCore : k.core = core) (hSeq : k.seq = seq) :
    s.hostRun.out = s.out ++ (ws.map fun h => Out.hostWrite h.fn h.addr true h.data) ++
        [.hostRead last.fn last.addr 0 0] ∧
      s.hostRun.ceQ (dieOf core) e = [{ k with waits := k.waits - ws.length }] ∧
      State.Only [.out, .eng, .host] s s.hostRun := by
  obtain ⟨hOut, ⟨credits, hHost⟩, hQueueEnd, hOnly⟩ :=
    State.hwPump_copy he ws hWq hLast hAll hCredits hRq hQueue hCore hSeq
  have hRun : s.hostRun = (State.hwPump ws s false).reqRun := by
    unfold State.hostRun
    rw [hWq]
    generalize State.hwPump ws s false = t at hHost ⊢
    dsimp only
    rw [hHost]
    dsimp only
    rw [hDescs, List.foldl_nil, hHost, State.hwPump_nil]
  generalize State.hwPump ws s false = t at *
  obtain ⟨hBme, -, hWindow⟩ := (hAll last (List.mem_of_getLast? hLast)).2
  obtain ⟨hBmeEnd, -, hWindowEnd⟩ : t.MayGo last := (hAll last (List.mem_of_getLast? hLast)).2.after
    (hOnly.1 .regs (by decide)) (by rw [hHost]) (by rw [hHost])
  obtain ⟨hReadOut, hReadOnly⟩ := State.reqRun_one (s := t) (q := last.flush core seq) (by rw [hHost])
    (by rw [hHost]; exact hReqs) (by rw [hHost]; exact hQuar) hBmeEnd
    (State.inWindows_sub hWindowEnd (Nat.le_refl _) (Nat.add_le_add_left (Nat.zero_le _) _))
  rw [hRun]
  refine ⟨?_, ?_, hOnly.trans (hReadOnly.mono rfl)⟩
  · rw [hReadOut, hOut]
    rfl
  · rw [State.ceQ, hReadOnly.1 .eng (by decide)]
    exact hQueueEnd

/-! The pieces of a copy. -/

theorem cutPay_within {fuel addr len off : Nat} {p : Nat × Nat × Nat} (h : p ∈ cutPay fuel addr len off) :
    addr ≤ p.1 ∧ p.1 + p.2.1 ≤ addr + len := by
  induction fuel generalizing addr len off with
  | zero => exact absurd h (by simp [cutPay])
  | succ fuel ih =>
    unfold cutPay at h
    split at h
    · exact absurd h (by simp)
    · dsimp only at h
      rcases List.mem_cons.mp h with rfl | h
      · exact ⟨Nat.le_refl _, by dsimp only; omega⟩
      · have := ih h
        omega

theorem cutPay_sum (fuel addr len off : Nat) : ((cutPay fuel addr len off).map fun p => p.2.1).sum ≤ len := by
  induction fuel generalizing addr len off with
  | zero => simp [cutPay]
  | succ fuel ih =>
    unfold cutPay
    split
    · simp
    · dsimp only
      rw [List.map_cons, List.sum_cons]
      dsimp only
      have := ih (addr + min len (Config.maxPayload - addr % Config.maxPayload))
        (len - min len (Config.maxPayload - addr % Config.maxPayload))
        (off + min len (Config.maxPayload - addr % Config.maxPayload))
      omega

/-- A piece lies within one row of the copy. -/
theorem cpPieces_within {a : Nat} {w : CmdWord} {bs : Bytes} {p : Nat × Bytes} (h : p ∈ cpPieces a w bs) :
    ∃ r ∈ rowsOf a (cpDSTR w) (cpLEN w) (cpROWS w), r.1 ≤ p.1 ∧ p.1 + p.2.length ≤ r.1 + r.2 := by
  obtain ⟨r, hr, hp⟩ := List.mem_flatMap.mp h
  obtain ⟨q, hq, rfl⟩ := List.mem_map.mp hp
  obtain ⟨hLow, hHigh⟩ := cutPay_within hq
  refine ⟨_, List.mem_map.mpr ⟨r, hr, rfl⟩, hLow, ?_⟩
  dsimp only
  rw [List.length_take]
  omega

theorem cpPieces_sum (a : Nat) (w : CmdWord) (bs : Bytes) :
    ((cpPieces a w bs).map fun p => p.2.length).sum ≤ cpBytes w := by
  have hRow : ∀ r, (((cutPay (cpLEN w / Config.maxPayload + 2) (a + r * cpDSTR w) (cpLEN w) (r * cpLEN w)).map
      fun p => (p.1, (bs.drop p.2.2).take p.2.1)).map fun p => p.2.length).sum ≤ cpLEN w := fun r => by
    rw [List.map_map]
    refine (List.sum_le_sum fun p _ => ?_).trans (cutPay_sum ..)
    exact List.length_take_le ..
  have hRows : ∀ l : List Nat, ((l.flatMap fun r =>
      (cutPay (cpLEN w / Config.maxPayload + 2) (a + r * cpDSTR w) (cpLEN w) (r * cpLEN w)).map fun p =>
        (p.1, (bs.drop p.2.2).take p.2.1)).map fun p => p.2.length).sum ≤ cpLEN w * l.length := by
    intro l
    induction l with
    | nil => simp
    | cons r l ih =>
      rw [List.flatMap_cons, List.map_append, List.sum_append, List.length_cons, Nat.mul_succ, Nat.add_comm]
      exact Nat.add_le_add ih (hRow r)
  have hAll := hRows (List.range (cpROWS w))
  rwa [List.length_range] at hAll

theorem cpPieces_ne_nil (a : Nat) {w : CmdWord} (bs : Bytes) (h : 0 < cpBytes w) : cpPieces a w bs ≠ [] := by
  have hLen : cpLEN w ≠ 0 := fun k => by rw [cpBytes, k] at h; omega
  have hRows : 0 < cpROWS w := Nat.pos_of_ne_zero fun k => by rw [cpBytes, k] at h; omega
  intro hNil
  have hRow := List.flatMap_eq_nil_iff.mp hNil 0 (List.mem_range.mpr hRows)
  rw [List.map_eq_nil_iff, cutPay, if_neg hLen] at hRow
  cases hRow

end Sys2Proof.Machine

/-! COPY to host memory, and every path of a COPY (R139 to R143, R147, R351, R370). -/

namespace Sys2Proof.Machine

/-- A transfer without cells sends nothing. -/
theorem State.xferStart_noCells (s : State) (tgt core seq : Nat) :
    State.Only [.fab] s (s.xferStart tgt { owner := .cmd core seq }) := by
  cases hId : s.freeId tgt with
  | some id =>
    rw [State.xferStart_free hId (xfer_plain (by simp))]
    have hOut : ∀ t : State, t.emits [] = t := fun t => by
      unfold State.emits
      rw [List.append_nil]
    rw [List.map_nil, List.map_nil, hOut]
    exact only_of_keeps fun _ K k => K.fab (by decide) _ k
  | none =>
    unfold State.xferStart
    rw [hId]
    exact only_of_keeps fun _ K k => K.fab (by decide) _ k

/-- A piece of a copy as it waits in the host-write buffer. -/
def hostPiece (fn die core seq : Nat) (p : Nat × Bytes) : HWrite :=
  { fn := fn, gate := some die, addr := p.1, data := p.2, owner := .cmd core seq }

/-- Writes wait at the end of the host-write buffer. -/
def State.hostQueued (s : State) (ws : List HWrite) : State :=
  { s with host := { s.host with wq := s.host.wq ++ ws } }

/-- The state `m` in which the pieces of the copy of job `j` wait in the buffer, and its job for their going. -/
structure State.HostWaits (s m : State) (j : Job) (ps : List (Nat × Bytes)) : Prop where
  only : State.Only [.eng, .fab, .host] s m
  host : m.host = { s.host with wq := ps.map (hostPiece (s.owner (dieOf j.core)) (dieOf j.core) j.core j.seq) }
  queue : ∀ e < 4, ∀ k : Job, s.ceQ (dieOf j.core) e = [k] → k.core = j.core → k.seq = j.seq →
    m.ceQ (dieOf j.core) e = [{ k with waits := ps.length + 1 }]

theorem State.copyToHost_waits {s : State} {j : Job} {a : Nat} {bs : Bytes} {ps : List (Nat × Bytes)}
    (hPs : cpPieces a j.word bs = ps) (hNe : ps ≠ []) (hWq : s.host.wq = []) :
    ∃ m, s.copyToHost j a bs = m.hostRun ∧ s.HostWaits m j ps := by
  obtain ⟨t, ht⟩ : ∃ t, t = s.mapCopy j.core j.seq fun x => { x with waits := ps.length + 1 } := ⟨_, rfl⟩
  obtain ⟨ws, hws⟩ : ∃ ws, ws = ps.map (hostPiece (s.owner (dieOf j.core)) (dieOf j.core) j.core j.seq) := ⟨_, rfl⟩
  have hMapped : State.Only [.eng] s t := ht ▸ s.mapCopy_only ..
  have hCopy : s.copyToHost j a bs =
      ((t.hostQueued ws).xferStart (dieOf j.core) { owner := .cmd j.core j.seq }).hostRun := by
    unfold State.copyToHost
    dsimp only
    rw [hPs, if_neg hNe, ht, hws]
    rfl
  have hStart := (t.hostQueued ws).xferStart_noCells (dieOf j.core) j.core j.seq
  have hQueued : State.Only [.host] t (t.hostQueued ws) := only_of_keeps fun _ K k => K.host (by decide) _ k
  refine ⟨_, hCopy, (hMapped.mono rfl).trans ((hQueued.mono rfl).trans (hStart.mono rfl)), ?_, fun e he k h hc hs => ?_⟩
  · rw [hStart.1 .host (by decide), State.hostQueued]
    dsimp only
    rw [hMapped.1 .host (by decide), hWq, List.nil_append, hws]
  · rw [State.ceQ, hStart.1 .eng (by decide)]
    show t.ceQ (dieOf j.core) e = _
    rw [ht]
    exact State.ceQ_mapCopy_single h hc hs he _

section
variable {s s1 u : State} {c : CoreId} {w : CmdWord} {st : Nat} {j : Job}

/-- A copy to host memory: its pieces, and the read that flushes them. -/
theorem State.CopyTaken.toHost (h : State.CopyTaken s s1 c w st u j) (hEnters : s.Enters c 0x50 s1 w)
    (hSound : s1.Sound) (hPick : pick (s1.copyConds (dieOf c) w) = none) {so a : Nat}
    (hSrc : s1.cpSrc (dieOf c) w = .here so) (hDst : s1.cpDst (dieOf c) w = .host a) (hWq : s1.host.wq = [])
    (hRq : s1.host.rq = []) (hReqs : s1.host.reqs = []) (hQuar : s1.host.quar = []) (hDescs : s1.host.descs = [])
    (hBme : s1.bmeOn (s1.owner (dieOf c)) = true) (hPort : s1.diePortUp (dieOf c) = true)
    (hCredits : cpBytes w ≤ s1.host.credits) :
    ∃ t, Machine.exec (.copy c) s = .next t ∧ s.Issued t c 0x50 ∧
      OneRuns (t.ceQ (dieOf c) (cpCE w)) c (s.coreRec c).seq w st (fun j => j.waits = 1 ∧ j.sent = true) ∧
      (∃ ps p, ps = cpPieces a w ((cpRows so (cpSSTR w) w).flatMap fun r => s1.peek (dieOf c) r.1 r.2) ∧
        ps.getLast? = some p ∧ t.out = s1.out ++ ps.map (fun p => Out.hostWrite (s1.owner (dieOf c)) p.1 true p.2)
          ++ [.hostRead (s1.owner (dieOf c)) p.1 0 0]) ∧
      State.Only [.out, .regs, .core, .eng, .fab, .host] s1 t := by
  obtain ⟨hCore, hSeq, hWord, -, hRun, hStatus⟩ := h.named
  obtain ⟨v, hReads, hCount⟩ := State.memReads_good (h.kin.clean (hSound.clean (dieOf_core_lt c)))
    (h.kin.sramGood hSound.sramGood)
    (cpRows so (cpSSTR w) w ++ if cpSM w then [(sramBase + (cpMap w).1, (cpMap w).2)] else [])
  have hKin : State.Steered (dieOf c) s1 v := h.kin.trans (.recounted hCount)
  have hData : v.cpData (dieOf c) so w = s1.cpData (dieOf c) so w := by
    unfold State.cpData
    simp only [hKin.peek]
  obtain ⟨bs, hBs⟩ : ∃ bs, bs = s1.cpData (dieOf c) so w := ⟨_, rfl⟩
  rw [← hBs] at hData
  obtain ⟨m, hm⟩ : ∃ m, m = v.mapCopy c (s.coreRec c).seq fun x => { x with sent := true } := ⟨_, rfl⟩
  have hKinM : State.Steered (dieOf c) s1 m := hm ▸ hKin.trans (v.mapCopy_steered ..)
  have hQueue : m.ceQ (dieOf c) (cpCE w) = [{ j with sent := true }] :=
    hm ▸ State.ceQ_mapCopy_single (by rw [State.ceQ, hCount.eng]; exact h.queue) hCore hSeq (cpCE_lt w) _
  have hFetch : u.copyFetch j = m.copyToHost j a bs := by
    rw [State.copyFetch_here (v := v) (so := so) (by rw [hCore, hWord, h.kin.cpSrc, hSrc])
      (by rw [State.copyReads, hCore, hWord]; exact hReads), hCore, hWord, hData,
      State.copyDeliver_host (by rw [hCore, hWord, hKin.cpDst, hDst]), hCore, hSeq, hm]
  have hBytes := State.copyConds_bytes hPick
  obtain ⟨ps, hPs⟩ : ∃ ps, ps = cpPieces a w bs := ⟨_, rfl⟩
  have hNe : ps ≠ [] := hPs ▸ cpPieces_ne_nil a bs hBytes
  obtain ⟨r, hRunEq, hWaits⟩ := State.copyToHost_waits (s := m) (j := j) (a := a) (bs := bs) (ps := ps)
    (by rw [hWord, hPs]) hNe (by rw [hKinM.host, hWq])
  obtain ⟨p, hLast⟩ := Option.isSome_iff_exists.mp (List.getLast?_isSome.mpr hNe)
  have hHostM := hKinM.host
  obtain ⟨hOnlyR, hHostR, hQueueR⟩ := hWaits
  rw [hCore, hSeq, hKinM.owner] at hHostR
  rw [hCore, hSeq] at hQueueR
  have hWindows := State.copyConds_dest hPick hDst
  have hGo : ∀ x ∈ ps.map (hostPiece (s1.owner (dieOf c)) (dieOf c) c (s.coreRec c).seq),
      x.owner = .cmd c (s.coreRec c).seq ∧ r.MayGo x := by
    intro x hx
    obtain ⟨q, hq, rfl⟩ := List.mem_map.mp hx
    obtain ⟨row, hRow, hLow, hHigh⟩ := cpPieces_within (hPs ▸ hq)
    have hGoM : m.MayGo (hostPiece (s1.owner (dieOf c)) (dieOf c) c (s.coreRec c).seq q) :=
      ⟨(hKinM.bmeOn _).trans hBme, by
        show (!m.diePortUp (dieOf c)) = false
        rw [hKinM.diePortUp (dieOf_core_lt c), hPort]
        rfl,
        (hKinM.inWindows ..).trans (State.inWindows_sub (hWindows row hRow) hLow hHigh)⟩
    exact ⟨rfl, hGoM.after (hOnlyR.1 .regs (by decide)) (by rw [hHostR]) (by rw [hHostR])⟩
  have hSum : ((ps.map (hostPiece (s1.owner (dieOf c)) (dieOf c) c (s.coreRec c).seq)).map
      fun x => x.data.length).sum ≤ r.host.credits := by
    rw [List.map_map, hHostR, hHostM]
    exact (hPs ▸ cpPieces_sum a w bs).trans hCredits
  obtain ⟨hOut, hQueueEnd, hOnlyEnd⟩ := State.hostRun_copy (cpCE_lt w) (by rw [hHostR])
    (by rw [List.getLast?_map, hLast]; rfl) hGo hSum (by rw [hHostR, hHostM]; exact hRq)
    (by rw [hHostR, hHostM]; exact hReqs) (by rw [hHostR, hHostM]; exact hQuar) (by rw [hHostR, hHostM]; exact hDescs)
    (hQueueR _ (cpCE_lt w) _ hQueue hCore hSeq) hCore hSeq
  have hCores : r.hostRun.core = (s1.issueNext c w).core := by
    rw [hOnlyEnd.1 .core (by decide), hOnlyR.1 .core (by decide), hm, (v.mapCopy_only ..).1 .core (by decide),
      hCount.core, h.core]
  refine ⟨_, h.exec.trans (congrArg _ (hFetch.trans hRunEq)), hEnters.issued_of_core (by decide) hCores,
    ⟨_, hQueueEnd, hCore, hSeq, hWord, hRun, hStatus, ?_, rfl⟩, ⟨ps, p, by rw [hPs, hBs]; rfl, hLast, ?_⟩,
    (hKinM.only.mono rfl).trans ((hOnlyR.mono rfl).trans (hOnlyEnd.mono rfl))⟩
  · dsimp only
    rw [List.length_map]
    omega
  · rw [hOut, hOnlyR.1 .out (by decide), hKinM.out, List.map_map]
    rfl

end

/-- Settles O16: a COPY on every path, from its issue to what its engine holds and sends. -/
theorem copyTakesEveryPath : Obligations.CopyTakesEveryPath := by
  unfold Obligations.CopyTakesEveryPath
  intro c s s1 w hEnters hSound
  refine ⟨hEnters.copyPrefetch, fun hNow hFree hPick hFresh st hSt => ?_⟩
  subst hSt
  obtain ⟨u, j, hTaken⟩ := hEnters.copyTaken hNow hFree hPick hFresh
  refine ⟨fun so do_ => hEnters.copyLocal hSound hNow hFree hPick hFresh, ?_, ?_, ?_, ?_⟩
  · exact fun so md tgt off id hSrc hDst hMax hId =>
      hTaken.toDie hEnters hSound (State.copyConds_bytes hPick) hSrc hDst hMax hId
  · exact fun md tgt off do_ id hSrc _ hId => hTaken.fromDie hEnters hSrc hId
  · exact fun so a hSrc hDst hWq hRq hReqs hQuar hDescs hBme hPort hCredits =>
      hTaken.toHost hEnters hSound hPick hSrc hDst hWq hRq hReqs hQuar hDescs hBme hPort hCredits
  · exact fun a do_ hSrc _ hRq hReqs hQuar hBme hRows hPage =>
      hTaken.fromHost hEnters hPick hSrc hRq hReqs hQuar hBme hRows hPage

end Sys2Proof.Machine

/-! Cells at a die (R210, R214, R242 to R248): which of them act, the answers they draw, writes and adds. -/

namespace Sys2Proof.Machine

/-! Answers (R218). -/

theorem State.SentTo.after {s t u : State} {type md : Nat} (h : t.out = s.out) (k : t.SentTo u type md) :
    s.SentTo u type md := by
  obtain ⟨l, x, hOut, hIn⟩ := k
  exact ⟨l, x, by rw [hOut, h], hIn⟩

theorem State.sendCell_only (s : State) (dmod dtgt stgt type job : Nat) (sour last : Bool) (len stream seq : Nat)
    (payload : Bytes) :
    State.Only [.out] s (s.sendCell dmod dtgt stgt type job sour last len stream seq payload) :=
  only_of_keeps fun _ K h => State.sendCell_keeps K _ _ _ _ _ _ _ _ _ _ _ h

theorem State.sendCell_sentTo (s : State) {type : Nat} (h : type < 32) (dmod dtgt stgt job : Nat) (sour last : Bool)
    (len stream seq : Nat) (payload : Bytes) :
    s.SentTo (s.sendCell dmod dtgt stgt type job sour last len stream seq payload) type dmod :=
  ⟨[.cell _], _, rfl, List.mem_singleton_self _, (type_mkCell ..).trans (Nat.mod_eq_of_lt h), dstMod_mkCell ..⟩

theorem State.sendAck_sentTo (s : State) (dmod dtgt stgt job id n : Nat) :
    s.SentTo (s.sendAck dmod dtgt stgt job id n) 6 dmod := s.sendCell_sentTo (by decide) ..

theorem State.sendNack_sentTo (s : State) (dmod dtgt stgt job st cause id : Nat) :
    s.SentTo (s.sendNack dmod dtgt stgt job st cause id) 7 dmod := s.sendCell_sentTo (by decide) ..

theorem State.sendAck_only (s : State) (dmod dtgt stgt job id n : Nat) :
    State.Only [.out] s (s.sendAck dmod dtgt stgt job id n) := s.sendCell_only ..

theorem State.nackCell_only (s : State) (stgt st cause : Nat) (c : CellW) :
    State.Only [.out] s (s.nackCell stgt st cause c) :=
  only_of_keeps fun _ K h => State.nackCell_keeps K _ _ _ _ h

/-- A NACK goes to the source of a cell. -/
theorem State.nackCell_sentTo (s : State) (stgt st cause : Nat) {c : CellW} (h4 : Cell.type c ≠ 4)
    (h6 : Cell.type c ≠ 6) (h7 : Cell.type c ≠ 7) : s.SentTo (s.nackCell stgt st cause c) 7 (Cell.srcMod c) := by
  unfold State.nackCell nackTo
  rw [if_neg (not_or.mpr ⟨h6, h7⟩), if_neg h4]
  exact s.sendNack_sentTo ..

/-- The NACK of a stream open goes to its ACKTO. -/
theorem State.nackCell_sentTo_open (s : State) (stgt st cause : Nat) {c : CellW} (h : Cell.type c = 4) :
    s.SentTo (s.nackCell stgt st cause c) 7 (rxOpen c).ackMod := by
  unfold State.nackCell nackTo
  rw [h, if_neg (by decide), if_pos rfl]
  exact s.sendNack_sentTo ..

/-! Cells that reach a die. -/

section
variable {s : State} {d : DieId} {x : CellW} {ty : Nat}

theorem State.niCell_absorbed (h : s.dieAbsorbs d = true) (f : State → State) : s.niCell d x f = s.absorb d :=
  if_pos h

theorem State.CellIn.typed (h : s.CellIn d ty x) : Cell.type x = ty := by
  obtain ⟨-, hType, -⟩ := h
  exact hType

theorem State.CellIn.niCell (h : s.CellIn d ty x) (f : State → State) : s.niCell d x f = f s := by
  obtain ⟨hGood, -, hIn, hJob⟩ := h
  unfold State.niCell
  rw [hIn, hGood, if_neg Bool.false_ne_true, if_neg (by decide), if_neg (by tauto)]

/-- A cell of another placement generation is counted, and answered. -/
theorem State.pgenCount_counts (s : State) (d : Nat) :
    (s.pgenCount d).fab.pgenDrop.get 0 d = s.fab.pgenDrop.get 0 d + 1 ∧ State.Only [.fab] s (s.pgenCount d) :=
  ⟨Tbl.get_set 0 s.fab.pgenDrop d (s.fab.pgenDrop.get 0 d + 1), only_of_keeps fun _ K h => K.fab (by decide) _ h⟩

/-- What a refused generation leaves: the count and the NACK. -/
theorem State.stale_answered (s : State) (d st cause md : Nat) (c : CellW)
    (h : ∀ t : State, t.SentTo (t.nackCell d st cause c) 7 md) :
    s.SentTo ((s.pgenCount d).nackCell d st cause c) 7 md ∧
      ((s.pgenCount d).nackCell d st cause c).fab.pgenDrop.get 0 d = s.fab.pgenDrop.get 0 d + 1 ∧
      State.Only [.out, .fab] s ((s.pgenCount d).nackCell d st cause c) := by
  obtain ⟨hCount, hOnly⟩ := s.pgenCount_counts d
  have hNack := (s.pgenCount d).nackCell_only d st cause c
  refine ⟨(h _).after (hOnly.1 .out (by decide)), ?_, (hOnly.mono rfl).trans (hNack.mono rfl)⟩
  rw [hNack.1 .fab (by decide)]
  exact hCount

/-- An absorbing port counts the cell. -/
theorem State.absorb_counted (s : State) (d : Nat) : (s.absorb d).link (32 + d) =
    { s.link (32 + d) with absorbed := (s.link (32 + d)).absorbed + 1 } ∧ State.Only [.fab] s (s.absorb d) :=
  ⟨Tbl.get_set .., only_of_keeps fun _ K h => State.absorb_keeps K _ h⟩

theorem exec_absorbed_cell (h : s.dieAbsorbs d = true) :
    ∀ i ∈ [Instr.addCell d x, .sopenCell d x, .sdataCell d x], ∃ t, exec i s = .next t ∧
      t.link (32 + d) = { s.link (32 + d) with absorbed := (s.link (32 + d)).absorbed + 1 } ∧
      State.Only [.fab] s t := by
  intro i hi
  refine ⟨s.absorb d, ?_, s.absorb_counted d⟩
  simp only [List.mem_cons, List.not_mem_nil, or_false] at hi
  rcases hi with rfl | rfl | rfl
  · exact congrArg Host.Outcome.next (State.niCell_absorbed h _)
  · exact congrArg Host.Outcome.next (State.niCell_absorbed h _)
  · exact congrArg Host.Outcome.next (State.niCell_absorbed h _)

/-! Writes (R214). -/

theorem exec_wrCell_in (h : s.CellIn d 1 x) (hMem : Cell.isReg x (Cell.len x - 8) = false) :
    exec (.wrCell ⟨d.val, by omega⟩ x) s = .next (s.niWrite d x) := by
  obtain ⟨hGood, hType, -⟩ := id h
  have hReg : Cell.regAt d.val x (Cell.len x - 8) = false := by
    rw [Cell.regAt, if_neg (by omega)]
    exact hMem
  show execWrCell _ x s = _
  unfold execWrCell
  dsimp only
  rw [hGood, hType, hReg, if_neg (by decide), if_neg Bool.false_ne_true, if_neg (by omega), h.niCell]

/-- A write to memory is applied, and acknowledged. -/
theorem State.niWrite_writes (hGen : s.pgenOk d x (Cell.pgen x) = true) (hClean : s.Clean d) (h0 : 8 < Cell.len x)
    (h48 : Cell.len x ≤ 48) (hRange : pick (s.rangeConds d (Cell.off x) (Cell.len x - 8)) = none) :
    s.Wrote (s.niWrite d x) [(d * 2 ^ 40 + Cell.off x, Cell.payBytes x 8 (Cell.len x - 8))] ∧
      s.SentTo (s.niWrite d x) 6 (Cell.srcMod x) ∧ s.Counted (s.niWrite d x) [] := by
  obtain ⟨t, e, hWrote⟩ := State.memWrites_good hClean [(Cell.off x, Cell.payBytes x 8 (Cell.len x - 8))]
    (rxTag d (Cell.srcMod x) (Cell.srcTgt x) (Cell.stream x))
  have hRun : s.niWrite d x = t.sendAck (Cell.srcMod x) (Cell.srcTgt x) d (Cell.job x) (Cell.stream x)
      (Cell.len x - 8) := by
    unfold State.niWrite
    dsimp only
    rw [hGen, hRange, if_neg (by decide), if_neg (by simp; omega), e]
  have hAck := t.sendAck_only (Cell.srcMod x) (Cell.srcTgt x) d (Cell.job x) (Cell.stream x) (Cell.len x - 8)
  rw [hRun]
  refine ⟨fun k => (hAck.1 .mem (by decide) k).trans (hWrote.wrote k),
    (t.sendAck_sentTo ..).after (hWrote.only.1 .out (by decide)), ?_⟩
  exact hWrote.counted.regsBut (r := []) (fun o _ => hAck.1 .regs (by decide) o) (by simp)

theorem State.niWrite_stale (hType : Cell.type x = 1) (hGen : s.pgenOk d x (Cell.pgen x) = false) :
    s.SentTo (s.niWrite d x) 7 (Cell.srcMod x) ∧
      (s.niWrite d x).fab.pgenDrop.get 0 d = s.fab.pgenDrop.get 0 d + 1 ∧
      State.Only [.out, .fab] s (s.niWrite d x) := by
  have hRun : s.niWrite d x = (s.pgenCount d).nackCell d stSTALE 1 x := by
    unfold State.niWrite
    rw [hGen]
    rfl
  rw [hRun]
  exact s.stale_answered d _ _ _ x fun t => t.nackCell_sentTo _ _ _ (by omega) (by omega) (by omega)

theorem State.niWrite_outside (hType : Cell.type x = 1) (hGen : s.pgenOk d x (Cell.pgen x) = true)
    (hRange : (pick (s.rangeConds d (Cell.off x) (Cell.len x - 8))).isSome = true) :
    s.SentTo (s.niWrite d x) 7 (Cell.srcMod x) ∧ State.Only [.out] s (s.niWrite d x) := by
  have hRun : s.niWrite d x = s.nackCell d stREFUSED 0 x := by
    unfold State.niWrite
    dsimp only
    rw [hGen, if_neg (by decide), if_pos (Or.inr (Or.inr hRange))]
    rfl
  rw [hRun]
  exact ⟨s.nackCell_sentTo _ _ _ (by omega) (by omega) (by omega), s.nackCell_only ..⟩

/-- A register cell is the register write. -/
theorem exec_wrCell_reg {f : FnId} (hGood : Cell.good x = true) (hType : Cell.type x = 1)
    (hReg : Cell.regAt f x (Cell.len x - 8) = true) {o : Nat} (ho : cellReg f x = some o) :
    exec (.wrCell f x) s = .next ((s.regWrite o 8 (BitVec.ofNat 64 (Cell.pay x 8 8))).sendAck
      (Cell.srcMod x) (Cell.srcTgt x) f (Cell.job x) (Cell.stream x) (Cell.len x - 8)) := by
  show execWrCell f x s = _
  unfold execWrCell
  dsimp only
  rw [hGood, hType, hReg, if_neg (by decide), if_pos rfl, ho]

/-! Adds (R128, R214). -/

theorem exec_addCell_in (h : s.CellIn d 2 x) : exec (.addCell d x) s = .next (s.niAdd d x) :=
  congrArg Host.Outcome.next ((h.niCell _).trans (if_pos h.typed))

/-- An add to a counter of the die. -/
theorem State.niAdd_adds (hGen : s.pgenOk d x (Cell.pgen x) = true) {n : Nat} (hn : n < 1024)
    (hOff : Cell.off x = cntOff n) (hJob : Cell.job x = s.dieJob d) (hLen : Cell.len x = 12) :
    (∀ e < 8, ∀ m < 1024, (s.niAdd d x).cnt e m =
      if e = d.val ∧ m = n then (s.cnt e m + Cell.pay x 8 4) % 2 ^ 32 else s.cnt e m) ∧
      s.SentTo (s.niAdd d x) 6 (Cell.srcMod x) ∧ State.Only [.out, .regs, .core, .host] s (s.niAdd d x) := by
  have hCounter : cntOff 0 ≤ cntOff n ∧ cntOff n < cntOff 1024 ∧ cntOff n % 8 = 0 ∧
      (cntOff n - cntOff 0) / 8 = n := by
    unfold cntOff
    omega
  obtain ⟨hLow, hHigh, hAligned, hIndex⟩ := hCounter
  have hRun : s.niAdd d x = (s.cntSet d n (s.cnt d n + Cell.pay x 8 4)).sendAck (Cell.srcMod x) (Cell.srcTgt x) d
      (Cell.job x) (Cell.stream x) 4 := by
    unfold State.niAdd
    dsimp only
    rw [hGen, if_neg (by decide), hOff, if_pos ⟨hLow, hHigh, hAligned, hJob, hLen⟩, hIndex, State.cntAdd_eq]
  have hSet := s.cntSet_only d n (s.cnt d n + Cell.pay x 8 4)
  have hAck := (s.cntSet d n (s.cnt d n + Cell.pay x 8 4)).sendAck_only (Cell.srcMod x) (Cell.srcTgt x) d
    (Cell.job x) (Cell.stream x) 4
  rw [hRun]
  refine ⟨fun e _ m hm => ?_, (State.sendAck_sentTo ..).after (hSet.1 .out (by decide)),
    (hSet.mono rfl).trans (hAck.mono rfl)⟩
  refine (congrArg (fun v => fld v _ _) (hAck.1 .regs (by decide) _)).trans
    ((s.cnt_cntSet hn hm d e _).trans (ite_congr rfl (fun k => ?_) fun _ => rfl))
  rw [k.1, k.2]

theorem State.niAdd_refuses (hType : Cell.type x = 2) (hGen : s.pgenOk d x (Cell.pgen x) = true)
    (hLen : Cell.len x ≠ 12) :
    s.SentTo (s.niAdd d x) 7 (Cell.srcMod x) ∧ State.Only [.out] s (s.niAdd d x) := by
  have hRun : s.niAdd d x = s.nackCell d stREFUSED 0 x := by
    unfold State.niAdd
    dsimp only
    rw [hGen, if_neg (by decide), if_neg (by tauto)]
    rfl
  rw [hRun]
  exact ⟨s.nackCell_sentTo _ _ _ (by omega) (by omega) (by omega), s.nackCell_only ..⟩

end

end Sys2Proof.Machine

/-! Read requests and stream opens at a die (R216, R217, R242, R344). -/

namespace Sys2Proof.Machine

/-! The bytes of a stream's data cells (R215). -/

theorem dataCells_bytes (h : StreamHdr) (sour : Nat → Bool) (first id : Nat) {fuel : Nat} :
    ∀ (q : Nat) {bs : Bytes}, bs.length < 48 * fuel →
      ((dataCells h sour first fuel q bs).map (withId true id)).flatMap (fun c => Cell.payBytes c 0 (Cell.len c)) =
        bs := by
  have hCell : ∀ (here : Bytes) (l : Bool) (q : Nat), here.length ≤ 48 → ∀ c, c = withId true id
      (mkCell h.dmod h.dtgt h.smod h.stgt 5 h.gen h.job (sour (first + q)) l here.length 0 q here) →
      Cell.payBytes c 0 (Cell.len c) = here := by
    rintro here l q hLen c rfl
    rw [len_withId, len_mkCell, Nat.mod_eq_of_lt (by omega), payBytes_withId_keep _ _ hLen,
      payBytes_mkCell _ _ _ _ _ _ _ _ _ _ _ _ _ rfl hLen]
  induction fuel with
  | zero => exact fun q bs hLen => absurd hLen (by omega)
  | succ fuel ih =>
    intro q bs hLen
    unfold dataCells
    dsimp only
    rw [List.map_cons, List.flatMap_cons, hCell _ _ _ (List.length_take_le ..) _ rfl]
    by_cases hRest : bs.drop 48 = []
    · rw [hRest, if_pos (show (([] : Bytes) == []) = true from rfl), List.map_nil, List.flatMap_nil, List.append_nil]
      exact List.take_of_length_le (List.drop_eq_nil_iff.mp hRest)
    · have hMore : 48 < bs.length := by rwa [List.drop_eq_nil_iff, not_le] at hRest
      rw [if_neg (by simpa using hMore), ih (q + 1) (by rw [List.length_drop]; omega), List.take_append_drop]

/-- The bytes that the cells behind a stream's open carry. -/
theorem oneStream_bytes (h : StreamHdr) (sour : Nat → Bool) (id : Nat) (bs : Bytes) :
    (((oneStream h sour 0 true bs).map (withId true id)).drop 1).flatMap
      (fun c => Cell.payBytes c 0 (Cell.len c)) = bs :=
  dataCells_bytes h sour _ id 0 (by omega)

/-- A stream that leaves shows its open. -/
theorem State.SentTo.stream {s t : State} {h : StreamHdr} {sour : Nat → Bool} {id : Nat} {bs : Bytes}
    (hOut : t.out = s.out ++ (oneStream h sour 0 true bs).map fun c => .cell (withId true id c)) :
    s.SentTo t 4 h.dmod :=
  ⟨_, _, hOut, List.mem_cons_self, (type_withId ..).trans (type_mkCell ..), (dstMod_withId ..).trans (dstMod_mkCell ..)⟩

section
variable {s : State} {d : DieId} {x : CellW}

/-! Reads (R217, R344). -/

theorem exec_rdreqCell_in (h : s.CellIn d 3 x) (hMem : Cell.regAt d x (Cell.pay x 8 3) = false) :
    exec (.rdreqCell ⟨d.val, by omega⟩ x) s = .next (s.niRead d x) := by
  obtain ⟨hGood, hType, -⟩ := id h
  show execRdreqCell _ x s = _
  unfold execRdreqCell
  dsimp only
  rw [hGood, hType, hMem, if_neg (by decide), if_neg (by simp), if_neg (by omega), h.niCell]

theorem State.Clean.onFailed {die : Nat} (h : s.Clean die) (off len : Nat) : s.onFailed die off len = false := by
  unfold State.onFailed
  rw [Bool.and_eq_false_iff, List.any_eq_false]
  refine Or.inr fun i hi => ?_
  have hSome : 0 < (s.chans die).length := by
    have := List.mem_range.mp hi
    omega
  have hIn := Nat.mod_lt (off / 60 + i) hSome
  rw [List.getD_eq_getElem _ _ hIn, h.chans _ (State.chans_lt (List.getElem_mem hIn))]
  exact Bool.false_ne_true

theorem State.Clean.rangeFailed {die : Nat} (h : s.Clean die) (rs : List (Nat × Nat)) :
    rs.any (s.rangeFailed die) = false := by
  rw [List.any_eq_false]
  intro r _
  rw [State.rangeFailed, h.onFailed, Bool.and_false]
  exact Bool.false_ne_true

/-- The checks of a read request pass. -/
theorem rdChecks_pass {n g : Nat} {r : Option Nat} (h0 : 0 < n) (hg : g ≤ 8) (hr : r = none) :
    ¬(n = 0 ∨ 8 < g ∨ r.isSome = true) := by
  subst hr
  rintro (h | h | h)
  · omega
  · omega
  · cases h

theorem State.niRead_failed (hType : Cell.type x = 3) (hGen : s.pgenOk d x (Cell.pgen x) = true)
    (h0 : 0 < Cell.pay x 8 3 * Cell.pay x 15 2) (hTgt : bitsN (Cell.pay x 17 7) 40 4 ≤ 8)
    (hRange : pick ((rdRows x).flatMap fun r => s.rangeConds d r.1 r.2) = none)
    (hFailed : (rdRows x).any (s.rangeFailed d) = true) :
    s.SentTo (s.niRead d x) 7 (Cell.srcMod x) ∧ State.Only [.out] s (s.niRead d x) := by
  have hRun : s.niRead d x = s.nackCell d stECC 0 x := by
    unfold State.niRead
    dsimp only
    rw [hGen, if_neg (by decide), if_neg (rdChecks_pass h0 hTgt hRange), if_pos hFailed]
  rw [hRun]
  exact ⟨s.nackCell_sentTo _ _ _ (by omega) (by omega) (by omega), s.nackCell_only ..⟩

/-- The header of the streams that answer a read request (R217). -/
def State.rdHdr (s : State) (die : Nat) (c : CellW) : StreamHdr :=
  let g := Cell.pay c 17 7
  { dmod := bitsN g 44 12, dtgt := bitsN g 40 4, smod := s.module, stgt := die, gen := s.gen,
    job := Cell.job c, dst := bitsN g 0 40, lenRow := Cell.pay c 8 3, dstride := Cell.pay c 24 4,
    rcnt := bitsN (Cell.pay c 28 2) 0 10, rcen := bitN (Cell.pay c 28 2) 15, pgen := Cell.pgen c,
    ackMod := bitsN (Cell.pay c 30 2) 0 12, ackTgt := bitsN (Cell.pay c 30 2) 12 4, ackId := Cell.pay c 32 2 }

theorem State.niRead_reads (hGen : s.pgenOk d x (Cell.pgen x) = true) (h0 : 0 < Cell.pay x 8 3 * Cell.pay x 15 2)
    (hTgt : bitsN (Cell.pay x 17 7) 40 4 ≤ 8)
    (hRange : pick ((rdRows x).flatMap fun r => s.rangeConds d r.1 r.2) = none) (hSound : s.Sound)
    (hMax : Cell.pay x 8 3 * Cell.pay x 15 2 ≤ streamMax) {id : Nat} (hId : s.freeId d = some id) :
    s.SentTo (s.niRead d x) 4 (bitsN (Cell.pay x 17 7) 44 12) ∧
      (((s.niRead d x).fab.xfers.get {} (xKey d id)).cells.drop 1).flatMap
        (fun c => Cell.payBytes c 0 (Cell.len c)) = (rdRows x).flatMap (fun r => s.peek d r.1 r.2) ∧
      State.Only [.out, .regs, .fab] s (s.niRead d x) := by
  have hClean := hSound.clean d.isLt
  obtain ⟨t, hReads, hCount⟩ := State.memReads_good hClean hSound.sramGood (rdRows x)
  have hKin := State.Steered.recounted hCount
  have hLen := s.rows_length d (Cell.off x) (Cell.pay x 11 4) (Cell.pay x 8 3) (Cell.pay x 15 2)
  have hData : (rdRows x).flatMap (fun r => t.peek d r.1 r.2) = (rdRows x).flatMap fun r => s.peek d r.1 r.2 := by
    simp only [hKin.peek]
  obtain ⟨bs, hBs⟩ : ∃ bs, bs = (rdRows x).flatMap fun r => s.peek d r.1 r.2 := ⟨_, rfl⟩
  have hRun : s.niRead d x = t.sendStreams d .none true (t.rdHdr d x) (fun _ => false) bs := by
    unfold State.niRead
    dsimp only
    rw [hGen, if_neg (by decide), if_neg (rdChecks_pass h0 hTgt hRange), hClean.rangeFailed,
      if_neg Bool.false_ne_true, hReads]
    dsimp only
    rw [hData, ← hBs]
    rfl
  have hBytes : bs.length = Cell.pay x 8 3 * Cell.pay x 15 2 := by rw [hBs]; exact hLen
  rw [State.sendStreams_one _ _ _ _ _ _ (by omega) (by omega)] at hRun
  obtain ⟨hOut, hKept, hOnly⟩ := State.xferStart_started (s := t) (tgt := d) (id := id)
    (x := { owner := .none, cells := oneStream (t.rdHdr d x) (fun _ => false) 0 true bs, keep := true })
    ((hKin.freeId d).trans hId) (by simp)
  rw [hRun]
  refine ⟨.after hKin.out (.stream (h := t.rdHdr d x) hOut), ?_, ?_⟩
  · rw [hKept, ← hBs]
    exact oneStream_bytes ..
  · exact (hCount.only.mono rfl).trans (hOnly.mono rfl)

/-! Stream opens (R216, R242). -/

theorem exec_sopenCell_in (h : s.CellIn d 4 x) : exec (.sopenCell d x) s = .next (s.rxStart d x) :=
  congrArg Host.Outcome.next ((h.niCell _).trans (if_pos h.typed))

theorem State.rxStart_stale (hType : Cell.type x = 4) (hGen : s.pgenOk d x (rxOpen x).pgen = false) :
    s.SentTo (s.rxStart d x) 7 (rxOpen x).ackMod ∧
      (s.rxStart d x).fab.pgenDrop.get 0 d = s.fab.pgenDrop.get 0 d + 1 ∧
      State.Only [.out, .fab] s (s.rxStart d x) := by
  have hRun : s.rxStart d x = (s.pgenCount d).nackCell d stSTALE 1 x := by
    unfold State.rxStart
    dsimp only
    rw [hGen]
    rfl
  rw [hRun]
  exact s.stale_answered d _ _ _ x fun t => t.nackCell_sentTo_open _ _ _ hType

theorem State.rxOf_setRx (s : State) (die : Nat) (xs : List RxCtx) : (s.setRx die xs).rxOf die = xs := by
  unfold State.setRx State.rxOf
  rw [State.fset_fab]
  exact Tbl.get_set [] s.fab.rx die xs

theorem State.setRx_only (s : State) (die : Nat) (xs : List RxCtx) : State.Only [.regs, .fab] s (s.setRx die xs) :=
  only_of_keeps fun _ K h => State.setRx_keeps K _ _ h

theorem State.setRx_regsBut (s : State) (die : Nat) (xs : List RxCtx) :
    State.RegsBut [Reg.FAB_NI_STAT die] s (s.setRx die xs) :=
  ((State.RegsBut.rfl' _ s).of_eq rfl).fset (by simp [RF.FAB_NI_STAT_CTX_USED])

/-- A stream opens a context that no orphan joins. -/
theorem State.rxStart_opens {y : RxCtx} (hy : y = rxOpen x) (hGen : s.pgenOk d x y.pgen = true)
    (hNew : ∀ z ∈ s.rxOf d, z.isKey y.srcMod y.srcTgt y.stream = false) (hCol : y.col0 < y.lenRow)
    (h0 : 0 < y.total) (hMax : y.total ≤ streamMax)
    (hRange : pick ((rxRanges y).flatMap fun r => s.rangeConds d r.1 r.2) = none) (hRoom : (s.rxOf d).length < 4096)
    (hAlone : ∀ o ∈ s.fab.orphans.get [] d, y.isKey (Cell.srcMod o) (Cell.srcTgt o) (Cell.stream o) = false) :
    (s.rxStart d x).rxOf d = s.rxOf d ++ [y] ∧
      (s.rxStart d x).fget (RF.FAB_NI_STAT_CTX_USED d) = (s.rxOf d).length + 1 ∧
      State.Only [.regs, .fab] s (s.rxStart d x) ∧ State.RegsBut [Reg.FAB_NI_STAT d] s (s.rxStart d x) := by
  have hTaken : ((s.rxOf d).any fun z => z.isKey y.srcMod y.srcTgt y.stream) = false :=
    List.any_eq_false.mpr fun z hz => by rw [hNew z hz]; exact Bool.false_ne_true
  have hMine : (s.fab.orphans.get [] d).filter
      (fun o => y.isKey (Cell.srcMod o) (Cell.srcTgt o) (Cell.stream o)) = [] :=
    List.filter_eq_nil_iff.mpr fun o ho => by rw [hAlone o ho]; exact Bool.false_ne_true
  obtain ⟨u, hu⟩ : ∃ u, u = s.setRx d (s.rxOf d ++ [y]) := ⟨_, rfl⟩
  have hRun : ∃ orphans, s.rxStart d x = { u with fab := { u.fab with orphans := orphans } } := by
    unfold State.rxStart
    dsimp only
    rw [← hy, hGen, hTaken, hRange, hMine, if_neg (by decide), if_neg Bool.false_ne_true, if_neg (by omega),
      if_neg (by simp), if_neg (by omega), ← hu]
    exact ⟨_, rfl⟩
  obtain ⟨orphans, hRun⟩ := hRun
  have hOnly : State.Only [.regs, .fab] s u := hu ▸ s.setRx_only ..
  rw [hRun]
  refine ⟨?_, ?_, hOnly.trans (only_of_keeps fun _ K h => K.fab (by decide) _ h), ?_⟩
  · show u.rxOf d = _
    rw [hu, State.rxOf_setRx]
  · show u.fget _ = _
    rw [hu, State.setRx, State.fget_fset _ _ _ (show 0 + 13 ≤ 64 by decide), List.length_append, List.length_singleton]
    exact Nat.mod_eq_of_lt (show _ < 2 ^ 13 by omega)
  · exact hu ▸ (s.setRx_regsBut d _).of_eq rfl

end

end Sys2Proof.Machine

/-! Data cells of a stream at a die (R215, R216, R243, R248). -/

namespace Sys2Proof.Machine

section
variable {s : State} {d : DieId} {x : CellW}

theorem exec_sdataCell_in (h : s.CellIn d 5 x) : exec (.sdataCell d x) s = .next (s.rxCell d x) :=
  congrArg Host.Outcome.next ((h.niCell _).trans (if_pos h.typed))

/-- A data cell without a context waits as an orphan. -/
theorem State.rxCell_orphan
    (hNone : ∀ y ∈ s.rxOf d, y.isKey (Cell.srcMod x) (Cell.srcTgt x) (Cell.stream x) = false)
    (hRoom : (s.fab.orphans.get [] d).length < 256) :
    (s.rxCell d x).fab.orphans.get [] d = s.fab.orphans.get [] d ++ [x] ∧ State.Only [.fab] s (s.rxCell d x) := by
  have hFind : ((s.rxOf d).find? fun y => y.isKey (Cell.srcMod x) (Cell.srcTgt x) (Cell.stream x)) = none :=
    List.find?_eq_none.mpr fun y hy => by rw [hNone y hy]; exact Bool.false_ne_true
  have hRun : s.rxCell d x = { s with fab := { s.fab with
      orphans := s.fab.orphans.set [] d (s.fab.orphans.get [] d ++ [x]) } } := by
    unfold State.rxCell
    dsimp only
    rw [hFind]
    exact if_neg (Nat.not_le_of_lt hRoom)
  rw [hRun]
  exact ⟨Tbl.get_set [] s.fab.orphans d _, only_of_keeps fun _ K h => K.fab (by decide) _ h⟩

/-! A context and its data (R243). -/

theorem RxCtx.isKey_iff {y : RxCtx} {m g i : Nat} :
    y.isKey m g i = true ↔ y.srcMod = m ∧ y.srcTgt = g ∧ y.stream = i := decide_eq_true_iff

/-- The context found under a key, replaced by one of the same key, is found under it. -/
theorem find?_updated {l : List RxCtx} {p : RxCtx → Bool} {y z : RxCtx} (h : l.find? p = some y) (hz : p z = true) :
    (l.map fun w => if p w then z else w).find? p = some z := by
  induction l with
  | nil => cases h
  | cons w l ih =>
    rw [List.map_cons]
    by_cases hw : p w = true
    · rw [if_pos hw, List.find?_cons_of_pos hz]
    · rw [List.find?_cons_of_neg hw] at h
      rw [if_neg hw, List.find?_cons_of_neg hw]
      exact ih h

/-- Memory stays good where the error list and the channel map do. -/
theorem State.Clean.of_map {t : State} {die : Nat} (h : s.Clean die) (hErr : t.lp.lineErr = s.lp.lineErr)
    (hMap : t.reg (Reg.MEM_CHMAP die) = s.reg (Reg.MEM_CHMAP die)) : t.Clean die :=
  ⟨hErr.trans h.errs, fun ch hc => (congrArg (fun w => bitN (fld w 16 16) ch) hMap).trans (h.chans ch hc)⟩

theorem State.Clean.setRx {die : Nat} (h : s.Clean die) (xs : List RxCtx) : (s.setRx die xs).Clean die :=
  h.of_map (congrArg MemSt.lineErr ((s.setRx_only die xs).1 .lp (by decide)))
    (s.setRx_regsBut die xs _ (by simp only [List.mem_singleton, Reg.MEM_CHMAP, Reg.FAB_NI_STAT]; omega))

theorem State.Counted.setRx {t : State} {l : List (Nat × Nat)} (h : s.Counted t l) (die : Nat) (xs : List RxCtx) :
    s.Counted (t.setRx die xs) l :=
  h.regsBut (t.setRx_regsBut die xs) fun e n hn => by
    simp only [List.mem_singleton, Reg.WRK_CNT, Reg.FAB_NI_STAT]
    omega

/-- A context with one more of its cells. -/
def RxCtx.withSeq (y : RxCtx) (q : Nat) : RxCtx := { y with got := y.got ++ [q] }

theorem RxCtx.withSeq_fresh {y : RxCtx} {q : Nat} (h : q ∉ y.got) :
    { y with got := if y.got.contains q then y.got else y.got ++ [q] } = y.withSeq q :=
  congrArg (fun g => { y with got := g }) (if_neg (by rwa [List.contains_iff_mem]))

/-- The state after a data cell's bytes are written and counted in its context. -/
theorem State.rxData_joins {y : RxCtx}
    (hFind : (s.rxOf d).find? (fun z => z.isKey y.srcMod y.srcTgt y.stream) = some y)
    (hGen : s.pgenOk d x y.pgen = true) (h0 : 0 < Cell.len x) (h48 : Cell.len x ≤ 48)
    (hIn : 48 * Cell.seq x + Cell.len x ≤ y.total) (hNoGather : s.gatherOf d y = none) (hClean : s.Clean d)
    (hFresh : Cell.seq x ∉ y.got) :
    ∃ t, t.Clean d ∧ s.Wrote t (atDie d (rxRuns y 49 (48 * Cell.seq x) (Cell.payBytes x 0 (Cell.len x)))) ∧
      s.Counted t [] ∧ t.out = s.out ∧ y.withSeq (Cell.seq x) ∈ t.rxOf d ∧
      s.rxData d y x =
        if y.got.length + 1 = (y.total + 47) / 48 then t.rxClose d (y.withSeq (Cell.seq x)) else t := by
  obtain ⟨v, hv, hCap⟩ : ∃ v, v = (if Cell.sour x then s.recordSour d else s) ∧ State.Only [.cap] s v :=
    ⟨_, rfl, only_of_keeps fun _ K h => ite_keeps (State.recordSour_keeps K _ h) h⟩
  obtain ⟨u, hWrites, hWrote⟩ := State.memWriteAll_good
    (hClean.of_map (congrArg MemSt.lineErr (hCap.1 .lp (by decide))) (hCap.1 .regs (by decide) _))
    (rxRuns y 49 (48 * Cell.seq x) (Cell.payBytes x 0 (Cell.len x))) (y.tag d)
  have hRx : u.rxOf d = s.rxOf d :=
    congrArg (fun f => f.rx.get [] d) ((hWrote.only.1 .fab (by decide)).trans (hCap.1 .fab (by decide)))
  obtain ⟨l, hl⟩ : ∃ l, l = (s.rxOf d).map fun z =>
      if z.isKey y.srcMod y.srcTgt y.stream then y.withSeq (Cell.seq x) else z := ⟨_, rfl⟩
  obtain ⟨t, ht⟩ : ∃ t, t = u.setRx d l := ⟨_, rfl⟩
  have hHere : t.rxOf d = l := ht ▸ State.rxOf_setRx ..
  have hJoined : (t.rxOf d).find? (fun z => z.isKey y.srcMod y.srcTgt y.stream) = some (y.withSeq (Cell.seq x)) := by
    rw [hHere, hl]
    exact find?_updated hFind (RxCtx.isKey_iff.mpr ⟨rfl, rfl, rfl⟩)
  have hSame : State.Only [.regs, .fab] u t := ht ▸ u.setRx_only ..
  have hStart : s.Counted v [] := .of_cnt fun e n _ => congrArg (fun w => fld w _ _) (hCap.1 .regs (by decide) _)
  refine ⟨t, ht ▸ hWrote.clean.setRx _, fun k => ?_, ht ▸ (hStart.trans hWrote.counted).setRx d l, ?_,
    List.mem_of_find?_eq_some hJoined, ?_⟩
  · rw [hSame.1 .mem (by decide), hWrote.wrote, hCap.1 .mem (by decide)]
  · rw [hSame.1 .out (by decide), hWrote.only.1 .out (by decide), hCap.1 .out (by decide)]
  · unfold State.rxData
    dsimp only
    rw [hGen, if_neg (by decide), if_neg (by omega), ← hv, hNoGather]
    dsimp only
    rw [hWrites]
    dsimp only
    rw [State.markBad, if_pos rfl, RxCtx.withSeq_fresh hFresh, hRx, ← hl, ← ht, hJoined]
    dsimp only
    rw [RxCtx.withSeq, List.length_append, List.length_singleton]

/-- A context closes: its counter, its ACK, and no context under its key. -/
theorem State.rxClose_ends {t : State} (hClean : t.Clean d) {y : RxCtx} (hBad : y.bad = false) (hc : y.rcnt < 1024) :
    t.SentTo (t.rxClose d y) 6 y.ackMod ∧
      (∀ z ∈ (t.rxClose d y).rxOf d, z.isKey y.srcMod y.srcTgt y.stream = false) ∧
      t.Counted (t.rxClose d y) (if y.rcen && y.final then [(d.val, y.rcnt)] else []) ∧
      ∀ k, (t.rxClose d y).byte k = t.byte k := by
  obtain ⟨hNone, hKept⟩ := State.wcbFlush_clean hClean (y.tag d)
  obtain ⟨u, hu⟩ : ∃ u, u = (t.wcbFlush d (y.tag d)).1 := ⟨_, rfl⟩
  obtain ⟨v, hv⟩ : ∃ v, v = u.setRx d ((u.rxOf d).filter fun z => !z.isKey y.srcMod y.srcTgt y.stream) := ⟨_, rfl⟩
  obtain ⟨w, hw⟩ : ∃ w, w = (if y.rcen && y.final then v.cntAdd d y.rcnt 1 else v) := ⟨_, rfl⟩
  have hRun : t.rxClose d y = w.sendAck y.ackMod y.ackTgt d y.job y.ackId y.total := by
    unfold State.rxClose
    dsimp only
    rw [hNone, hBad, ← hu, ← hv, State.markBad, if_pos rfl, ← hw]
    exact if_neg Bool.false_ne_true
  have hFlushed : State.Only [.regs, .lp] t u := hu ▸ hKept.only
  have hSet : State.Only [.regs, .fab] u v := hv ▸ u.setRx_only ..
  have hAdd : State.Only [.regs, .core, .host] v w :=
    hw ▸ only_of_keeps fun _ K h => ite_keeps (State.cntAdd_keeps K _ _ _ h) h
  have hAck := w.sendAck_only y.ackMod y.ackTgt d y.job y.ackId y.total
  have hRx : (w.sendAck y.ackMod y.ackTgt d y.job y.ackId y.total).rxOf d = v.rxOf d :=
    congrArg (fun f => f.rx.get [] d) ((hAck.1 .fab (by decide)).trans (hAdd.1 .fab (by decide)))
  have hAlike : t.Counted v [] := by
    rw [hv]
    exact ((State.Counted.rfl' t).regsBut (hu ▸ State.wcbFlush_regsBut hClean _)
      fun e _ hn => wcbRegs_cnt d e hn).setRx d _
  have hAdded : v.Counted w (if y.rcen && y.final then [(d.val, y.rcnt)] else []) := by
    rw [hw]
    split
    · exact v.cntAdd_counted d hc
    · exact .rfl' v
  rw [hRun]
  refine ⟨(w.sendAck_sentTo ..).after ?_, fun z hz => ?_, ?_, fun k => ?_⟩
  · rw [hAdd.1 .out (by decide), hSet.1 .out (by decide), hFlushed.1 .out (by decide)]
  · rw [hRx, hv, State.rxOf_setRx] at hz
    simpa using (List.mem_filter.mp hz).2
  · exact (hAlike.trans hAdded).regsBut (r := []) (fun o _ => hAck.1 .regs (by decide) o) (by simp)
  · rw [hAck.1 .mem (by decide), hAdd.1 .mem (by decide), hSet.1 .mem (by decide), hFlushed.1 .mem (by decide)]

/-- A data cell of a context places its bytes; the last one closes the context. -/
theorem State.rxCell_data {y : RxCtx}
    (hFind : (s.rxOf d).find? (fun y => y.isKey (Cell.srcMod x) (Cell.srcTgt x) (Cell.stream x)) = some y)
    (hJob : y.job = Cell.job x) (hGen : s.pgenOk d x y.pgen = true) (h0 : 0 < Cell.len x) (h48 : Cell.len x ≤ 48)
    (hIn : 48 * Cell.seq x + Cell.len x ≤ y.total) (hNoGather : s.gatherOf d y = none) (hClean : s.Clean d)
    (hFresh : Cell.seq x ∉ y.got) (hBad : y.bad = false) (hc : y.rcnt < 1024) :
    s.Wrote (s.rxCell d x) (atDie d (rxRuns y 49 (48 * Cell.seq x) (Cell.payBytes x 0 (Cell.len x)))) ∧
      (y.got.length + 1 ≠ (y.total + 47) / 48 → s.Counted (s.rxCell d x) [] ∧
        ∃ z ∈ (s.rxCell d x).rxOf d, z = y.withSeq (Cell.seq x)) ∧
      (y.got.length + 1 = (y.total + 47) / 48 → s.SentTo (s.rxCell d x) 6 y.ackMod ∧
        (∀ z ∈ (s.rxCell d x).rxOf d, z.isKey (Cell.srcMod x) (Cell.srcTgt x) (Cell.stream x) = false) ∧
        s.Counted (s.rxCell d x) (if y.rcen && y.final then [(d.val, y.rcnt)] else [])) := by
  have hRun : s.rxCell d x = s.rxData d y x := by
    unfold State.rxCell
    rw [hFind]
    exact if_pos hJob
  have hKey : y.isKey (Cell.srcMod x) (Cell.srcTgt x) (Cell.stream x) = true :=
    List.find?_some (p := fun y : RxCtx => y.isKey (Cell.srcMod x) (Cell.srcTgt x) (Cell.stream x)) hFind
  obtain ⟨hMod, hTgt, hStream⟩ := RxCtx.isKey_iff.mp hKey
  rw [← hMod, ← hTgt, ← hStream] at hFind ⊢
  obtain ⟨t, hGood, hWrote, hCount, hOut, hHere, hData⟩ :=
    State.rxData_joins hFind hGen h0 h48 hIn hNoGather hClean hFresh
  by_cases hLast : y.got.length + 1 = (y.total + 47) / 48
  · rw [if_pos hLast] at hData
    obtain ⟨hAck, hFreed, hAdded, hBytes⟩ := State.rxClose_ends hGood (y := y.withSeq (Cell.seq x)) hBad hc
    rw [hRun, hData]
    exact ⟨fun k => (hBytes k).trans (hWrote k), fun h => absurd hLast h,
      fun _ => ⟨hAck.after hOut, hFreed, hCount.trans hAdded⟩⟩
  · rw [if_neg hLast] at hData
    rw [hRun, hData]
    exact ⟨hWrote, fun _ => ⟨hCount, _, hHere, rfl⟩, fun h => absurd h hLast⟩

end

/-- Settles O45: by the kind of cell, each with the refusals that come before its effect. -/
theorem cellsActAtADie : Obligations.CellsActAtADie := by
  unfold Obligations.CellsActAtADie
  intro d x s
  refine ⟨fun hIn hMem => ⟨fun hGen hSound h0 h48 hRange => ?_, fun hGen => ?_, fun hGen hRange => ?_⟩,
    exec_absorbed_cell, fun f hGood hType hReg o ho => exec_wrCell_reg hGood hType hReg ho,
    fun hIn hGen n => ⟨fun hn hOff hJob hLen => ?_, fun hLen => ?_⟩,
    fun hIn hMem hGen h0 hTgt hRange => ⟨fun id hSound hMax hId => ?_, fun hFailed => ?_⟩,
    fun hIn y hy => ⟨fun hGen => ?_, fun hGen hNew hCol h0 hMax hRange hRoom hAlone => ?_⟩,
    fun hIn => ⟨fun hNone hRoom => ?_,
      fun y hFind hJob hGen h0 h48 hTotal hNoGather hSound hFresh hBad hc => ?_⟩⟩
  · exact ⟨_, exec_wrCell_in hIn hMem, State.niWrite_writes hGen (hSound.clean d.isLt) h0 h48 hRange⟩
  · exact ⟨_, exec_wrCell_in hIn hMem, State.niWrite_stale hIn.typed hGen⟩
  · exact ⟨_, exec_wrCell_in hIn hMem, State.niWrite_outside hIn.typed hGen hRange⟩
  · exact ⟨_, exec_addCell_in hIn, State.niAdd_adds hGen hn hOff hJob hLen⟩
  · exact ⟨_, exec_addCell_in hIn, State.niAdd_refuses hIn.typed hGen hLen⟩
  · exact ⟨_, exec_rdreqCell_in hIn hMem, State.niRead_reads hGen h0 hTgt hRange hSound hMax hId⟩
  · exact ⟨_, exec_rdreqCell_in hIn hMem, State.niRead_failed hIn.typed hGen h0 hTgt hRange hFailed⟩
  · exact ⟨_, exec_sopenCell_in hIn, hy ▸ State.rxStart_stale hIn.typed (hy ▸ hGen)⟩
  · exact ⟨_, exec_sopenCell_in hIn, State.rxStart_opens hy hGen hNew hCol h0 hMax hRange hRoom hAlone⟩
  · exact ⟨_, exec_sdataCell_in hIn, State.rxCell_orphan hNone hRoom⟩
  · exact ⟨_, exec_sdataCell_in hIn, State.rxCell_data hFind hJob hGen h0 h48 hTotal hNoGather
      (hSound.clean d.isLt) hFresh hBad hc⟩

end Sys2Proof.Machine
